-- ==== Sys2Proof/Word.lean ====
section
/-! DEFINITION. Words, bytes and bit fields: the word type of the GK-M8 (R6, R36) and its plainest arithmetic. -/

namespace Sys2Proof

/-- A register or a descriptor word (R6, R36). -/
abbrev Word := BitVec 64

/-- A byte of memory. -/
abbrev Byte := BitVec 8

/-- A binary32 bit pattern (Table 4.2). -/
abbrev F32 := BitVec 32

/-- Sparse data by key, keys strictly rising. -/
abbrev Map (α : Type) := List (Nat × α)

/-- Bits [hi:lo] of a number. -/
def nfld (n hi lo : Nat) : Nat := n / 2 ^ lo % 2 ^ (hi + 1 - lo)

/-- Bits [hi:lo] of a word, as a number. -/
def fld (w : Word) (hi lo : Nat) : Nat := nfld w.toNat hi lo

/-- Bit i of a word. -/
def bit (w : Word) (i : Nat) : Bool := w.getLsbD i

/-- The number of a truth value. -/
def b2n (b : Bool) : Nat := if b then 1 else 0

/-- A word from a number, modulo 2^64. -/
def word (n : Nat) : Word := BitVec.ofNat 64 n

/-- A word whose bits [hi:lo] are ones. -/
def mask (hi lo : Nat) : Word := BitVec.ofNat 64 ((2 ^ (hi + 1 - lo) - 1) * 2 ^ lo)

/-- `w` with bits [hi:lo] replaced by the low bits of `v`. -/
def setFld (w : Word) (hi lo v : Nat) : Word :=
  (w &&& ~~~ (mask hi lo)) ||| (BitVec.ofNat 64 (v % 2 ^ (hi + 1 - lo) * 2 ^ lo))

/-- `w` with bit i set to `b`. -/
def setBit (w : Word) (i : Nat) (b : Bool) : Word := setFld w i i (b2n b)

/-- Round-up division. -/
def cdiv (a b : Nat) : Nat := (a + b - 1) / b

/-- A signed value of `w` bits from its two's-complement pattern. -/
def toSigned (w n : Nat) : Int := if n % 2 ^ w < 2 ^ (w - 1) then (n % 2 ^ w : Nat) else (n % 2 ^ w : Nat) - (2 ^ w : Nat)

/-- A counter that saturates below `2 ^ w`. -/
def satAdd (w a b : Nat) : Nat := min (a + b) (2 ^ w - 1)

end Sys2Proof
end

