-- ==== Sys2Proof/Syntax.lean ====
section
/-! DEFINITION. The commands of the block: one constructor of `Instr` per row of spec/opcode_table.json. The table
gives the rows no bits; a row's operands are what the rules it names say the command carries (a value written, a
frame or packet received, a reading of a sensor, the task a slice belongs to). -/

namespace Sys2Proof

/-- Who makes a register access (R23, R29). -/
inductive Initiator where
  | core (n : Fin 16)
  | cobbler
  | last
  deriving DecidableEq, Repr

/-- An engine that runs slices (Table 6.1, R305). -/
inductive Engine where
  | whole (n : Fin 4)
  | quad (n q : Fin 4)
  | ve (n : Fin 16)
  | churn
  | ladle (n : Fin 8)
  | lane (n : Fin 16)
  deriving DecidableEq, Repr

/-- A block code of Table 1.5. -/
inductive Block where
  | sys | tck | arr | ve | chn | skm | rng | ldl | crm | hbm | lnk | pwr | clk | tst | stn | sec | nvs | mgt | cbl
  deriving DecidableEq, Repr

/-- A GKL packet as it travels (R260): the four header words in the clear, the encrypted data, the tag. -/
structure Packet where
  w0 : Word
  w1 : Word
  w2 : Word
  w3 : Word
  body : List Byte
  tag : BitVec 128
  deriving DecidableEq, Repr

/-- A GKL frame as it is received (Table 9.4): its first word, body bytes 8-251, its CRC, and whether an
uncorrectable codeword overlapped it (R256). With it come the uncorrectable codewords and the corrected symbols that the
port's FEC has found since the frame before. -/
structure Frame where
  w0 : Word
  body : List Byte
  crc : BitVec 32
  fecBad : Bool
  lost : Nat := 0
  fixed : Nat := 0
  deriving DecidableEq, Repr

/-- What the headers below a received transport datagram say (Table 9.9): a pause frame, the VID of its IEEE 802.1Q tag, IPv6
or not, extension headers, the destination address, the UDP port, whether the UDP checksum is right, and the frame's
bytes. -/
structure EthHead where
  pause : Bool := false
  vlan : Option Nat := none
  ipv6 : Bool := true
  ext : Bool := false
  dst : BitVec 128 := 0
  udp : Nat := 0xC04B
  sumOk : Bool := true
  size : Nat := 64
  deriving DecidableEq, Repr

/-- A transport datagram (Table 9.10), the congestion mark of the network below it (R281), and of one received the headers it
came under. -/
structure Datagram where
  w0 : Word
  w1 : Word
  packets : List Packet
  ce : Bool
  head : EthHead := {}
  deriving DecidableEq, Repr

/-- What one receive lane reports in IDENTIFY (R250, R251): it sees and locks the signal, it recognises the
pattern, the partner's lane number in it, and whether the pattern is inverted. -/
structure LanePattern where
  locked : Bool
  known : Bool
  lane : Fin 8
  inverted : Bool
  deriving DecidableEq, Repr

/-- What a scrub or read finds in one protected word (R225). -/
inductive Ecc where
  | good | corrected | uncorrectable
  deriving DecidableEq, Repr

/-- A management frame (R415, R416): the port, the source MAC, whether it is addressed to the port, whether it is
a broadcast, its EtherType, the header words and the data. -/
structure MgtFrame where
  port : Fin 2
  src : BitVec 48
  toPort : Bool
  broadcast : Bool
  etherType : BitVec 16
  w0 : Word
  w1 : Word
  data : List Byte
  deriving DecidableEq, Repr

/-- A command envelope (Table 13.5). -/
structure Envelope where
  w0 : Word
  chipId : Word
  w2 : Word
  counter : Word
  payload : List Byte
  mac : BitVec 128
  deriving DecidableEq, Repr

/-- A fault the Cobbler or the device reports (R339): the block, instance and unit named, the kind of Table 12.3
with its locus, and what the record carries. -/
structure ErrEvent where
  code : Nat
  inst : Nat
  unit : Nat
  kind : Nat
  cls : Nat
  errBit : Nat
  locus : Nat
  job : Nat
  status : Nat
  addr : Nat
  detail : Nat
  tick : Nat
  toLast : Bool
  late : Bool
  deriving DecidableEq, Repr

/-- A judged clock (R331, R332): the reference, the oscillator or PLL number 0-26 in the order of PLL_STS. -/
inductive Clock where
  | ref
  | osc
  | pll (n : Fin 27)
  deriving DecidableEq, Repr

/-- The commands. A docstring names the row of the table; operands are explained in spec/INVENTORY. -/
inductive Instr where
  -- register head (R25-R35)
  | registerWrite (who : Initiator) (addr size : Nat) (v : Word)
  | unassignedPageAccess (who : Initiator) (page : Fin 4096) (wr : Bool) (v : Word)
  | errFirstRead (who : Initiator) (page : Fin 4096)
  | perfClear (who : Initiator) (page : Fin 4096) (v : Word)
  | blockEnable (who : Initiator) (page : Fin 4096) (v : Word)
  | softReset (who : Initiator) (page : Fin 4096) (v : Word)
  | softResetDone (page : Fin 4096)
  | devIdWrite (who : Initiator) (v : Word)
  -- queues and pools (R188-R201)
  | qPush (who : Initiator) (q : Fin 1280) (v : Word)
  | heldPushComplete (q : Fin 1280)
  | qPushNb (who : Initiator) (q : Fin 1280) (v : Word)
  | qPop (who : Initiator) (q : Fin 1280)
  | qCfgWrite (who : Initiator) (lace : Fin 1024) (v : Word)
  | queueFlush (who : Initiator) (q : Fin 1280)
  | poolCfgWrite (who : Initiator) (pool : Fin 64) (v : Word)
  | poolAlloc (who : Initiator) (pool : Fin 64)
  | poolRelease (who : Initiator) (pool : Fin 64) (v : Word)
  -- tasks (R38-R65)
  | taskAccept (cq : Fin 256)
  | dispatchCheck (task : Nat)
  | taskDispatch (task : Nat)
  | refetchDone (n : Fin 8) (record : Fin 64)
  | taskCommit (task : Nat)
  -- slices: the task, how many granules the engine runs, and the cycles it took
  | matmulProduct (task k cycles : Nat)
  | heritageProduct (task k cycles : Nat)
  | vecConvert (task k cycles : Nat)
  | vecAdd (task k cycles : Nat)
  | vecMul (task k cycles : Nat)
  | vecFma (task k cycles : Nat)
  | vecAffine (task k cycles : Nat)
  | vecMax (task k cycles : Nat)
  | rowSum (task k cycles : Nat)
  | rowSumsq (task k cycles : Nat)
  | rowMax (task k cycles : Nat)
  | vecFinite (task k cycles : Nat)
  | vecMask (task k cycles : Nat)
  | segMask (task k cycles : Nat)
  | dropout (task k cycles : Nat)
  | random (task k cycles : Nat)
  | funForward (task k cycles : Nat)
  | funBackward (task k cycles : Nat)
  | funLoad (task k cycles : Nat)
  | sgd (task k cycles : Nat)
  | adam (task k cycles : Nat)
  | lion (task k cycles : Nat)
  | copy (task k cycles : Nat)
  | redArm (task k cycles : Nat)
  | allreduce (task k cycles : Nat)
  | multicast (task k cycles : Nat)
  | taskUnpark (task : Nat)
  | decideGroup (task : Nat)
  -- tick, jobs, aborts (R161-R187)
  | tickBoundary
  | admissionRerun (e : Engine) (cyclesLeft : Nat)
  | suspendDrainDone (e : Engine)
  | provisionalDrain (job group line : Nat)
  | tickCfgWrite (who : Initiator) (v : Word)
  | tickSrcWrite (who : Initiator) (v : Word)
  | tickIn (offsetNs : Int)
  | alignHoldover
  | cqBindWrite (who : Initiator) (cq : Fin 256) (v : Word)
  | ownQueueBind (cq : Fin 256) (target : Fin 256)
  | ownQueueUnbind (cq : Fin 256)
  | jobSlotWrite (who : Initiator) (slot : Fin 32) (v : Word)
  | abortTask (who : Initiator) (v : Word)
  | abortJob (who : Initiator) (v : Word)
  | abortDone
  | noprog (slot : Fin 32)
  | noprogFirstRead (who : Initiator)
  | cqDropFirstRead (who : Initiator)
  -- arrays (R69-R97)
  | arrayModeWrite (who : Initiator) (n : Fin 4) (v : Word)
  | swapArm (who : Initiator) (n : Fin 4) (v : Word)
  | loadReady (n q : Fin 4)
  | chainedLoadStart (n q : Fin 4)
  | tilePassStart (n q : Fin 4)
  | outputBlockEpilogue (task : Nat)
  | keeperStepDown (n q : Fin 4) (gap : Nat)
  | keeperStepUp (n q : Fin 4)
  | longStall (n : Fin 4) (column : Bool) (idx : Fin 32) (cycles : Nat)
  | tbankRowWrite (who : Initiator) (n : Fin 4) (w : Fin 128) (v : Word)
  | scrub (slice : Fin 64) (addr : Nat) (found : Ecc)
  -- Skim, Churn, Rennet registers (R143, R158-R160)
  | skimExport (who : Initiator) (v : Word)
  | skimAdvance (who : Initiator) (v : Word)
  | stepDone
  | entryCfgWrite (who : Initiator) (v : Word)
  | clearStats (who : Initiator) (v : Word)
  | alarmFirstRead (who : Initiator)
  | testGo (who : Initiator) (v : Word)
  -- Ladle direct mode (R202-R207)
  | directModeWrite (who : Initiator) (n : Fin 8) (v : Word)
  | channelArm (who : Initiator) (n : Fin 8) (c : Fin 16) (v : Word)
  | directTransferStart (n : Fin 8) (c : Fin 16)
  | readbackDone (n : Fin 8)
  -- Creamery and HBM (R217-R246)
  | crmModeWrite (who : Initiator) (v : Word)
  | crmPartWrite (who : Initiator) (v : Word)
  | modeChangeDone
  | rehomeDone (slice : Fin 64)
  | hbmInit (who : Initiator) (n : Fin 8)
  | hbmInitDone (n : Fin 8) (ok : Bool)
  | hbmActive (who : Initiator) (n : Fin 8)
  | selfRefresh (who : Initiator) (n : Fin 8)
  | hbmTest (who : Initiator) (n : Fin 8)
  | stackTempRead (n : Fin 8) (reading : Option Nat)
  | refresh (n : Fin 8) (pc : Fin 64)
  | pcRehomeDone (n : Fin 8)
  | marginRun (who : Initiator) (n : Fin 8) (v : Word)
  | marginDone (n : Fin 8) (errors : Nat) (bits : BitVec 32)
  | trackPeakRead (who : Initiator) (n : Fin 8)
  -- link ports (R247-R283)
  | detect (p : Fin 16) (signal : BitVec 8)
  | equalise (p : Fin 16) (rxLock txLock : BitVec 8)
  | identify (p : Fin 16) (lanes : List LanePattern) (partnerReversed : Bool) (partnerGood : BitVec 8)
  | align (p : Fin 16)
  | delay (p : Fin 16) (peerDev : Fin 16384) (peerPort : Fin 16) (peerValid : Bool) (peerAck : BitVec 24)
  | retrain (who : Initiator) (p : Fin 16) (v : Word)
  | downRetry (p : Fin 16)
  | data (p : Fin 16) (f : Frame)
  | credit (p : Fin 16) (f : Frame)
  | creditSend (p : Fin 16)
  | tick (p : Fin 16) (f : Frame) (arrival : Int)
  | down (p : Fin 16) (f : Frame)
  | echo (p : Fin 16) (f : Frame) (turnaround : Nat)
  | echoResp (p : Fin 16) (f : Frame) (roundTrip : Nat)
  | read (p : Fin 16) (k : Packet)
  | readResp (p : Fin 16) (k : Packet)
  | write (p : Fin 16) (k : Packet)
  | ack (p : Fin 16) (k : Packet)
  | nack (p : Fin 16) (k : Packet)
  | raAddF32 (p : Fin 16) (k : Packet)
  | raAddBf16 (p : Fin 16) (k : Packet)
  | raAddMx8 (p : Fin 16) (k : Packet)
  | raMax (p : Fin 16) (k : Packet)
  | raAnd (p : Fin 16) (k : Packet)
  | mcastWrite (p : Fin 16) (k : Packet)
  | notice (p : Fin 16) (k : Packet)
  | resolve (p : Fin 16) (k : Packet)
  | resolveResp (p : Fin 16) (k : Packet)
  | respTimeout (seq : Nat)
  | noslotRetry (seq : Nat)
  | redTimeout (seq : Nat)
  | cacheFlush (who : Initiator) (v : Word)
  | unitWrite (who : Initiator) (u : Fin 1024) (w : Fin 4) (v : Word)
  | transportSyn (p : Fin 16) (d : Datagram)
  | transportData (p : Fin 16) (d : Datagram)
  | transportAck (p : Fin 16) (d : Datagram)
  | transportNak (p : Fin 16) (d : Datagram)
  | transportTimeout (p : Fin 16) (dev : Fin 16384)
  | icmpv6EchoRequest (p : Fin 16) (dst : BitVec 128) (src : BitVec 128) (payload : List Byte)
  | neighbourSolicitation (p : Fin 16) (target : BitVec 128) (src : BitVec 128)
  | redFailFirstRead (who : Initiator)
  -- power, clocks, thermal (R313-R338)
  | pwrCapWrite (who : Initiator) (v : Word)
  | meterSample (rawV rawI : BitVec 24) (sinceNs : Nat) (faultV faultI : Bool)
  | capUnmet
  | droop (fabric : Bool) (det : Fin 20)
  | fastTrip
  | vinApply
  | inputRange (milliV : Nat)
  | inputUv (milliV : Nat)
  | vinLoss
  | overVoltage
  | overCurrent
  | judgeWindow (c : Clock) (count : Nat)
  | refFail
  | clocksStable
  | dieTempRead (readings : List (Option Int))
  | inletRead (inlet outlet : Int)
  -- reliability (R339-R368)
  | cobblerEvent
  | coalesceExpire (key : Nat)
  | hbmPllGrace (n : Fin 8)
  | refGraceExpire
  | tileCompare (cycles status : Nat) (result : List F32) (arr3 : Fin 4) (status3 : Nat) (third : List F32)
  | captureRelease (who : Initiator) (v : Word)
  | tileFailFirstRead (who : Initiator)
  | testDue (e : Fin 29) (q : Fin 4) (pack test : Nat)
  | testDeadline (e : Fin 29) (q : Fin 4) (pack test : Nat)
  | testResult (e : Fin 29) (q : Fin 4) (pack test : Nat) (hash : BitVec 128) (status : Nat)
  | testFailFirstRead (who : Initiator)
  | operatingMinute
  | suspectCleared (block : Nat × Nat) (unit : Nat)
  | mapoutReq (who : Initiator) (v : Word)
  | mapoutDone
  | healthTimeout (group : Fin 5)
  | kick (who : Initiator) (v : Word)
  | watchdog
  | lockstep
  | rail (r : Fin 6) (milliV : Nat)
  | policy (who : Initiator) (v : Word)
  -- reset and power-up (R404-R413)
  | coldReset (lowNs : Nat)
  | resetRelease (id0 id1 id2 shaOk rsaOk : Bool) (reads : BitVec 2)
  | cobblerRelease (readA readB : Bool)
  | upperRelease (readsA readsB : BitVec 5) (entry : BitVec 50) (copied : Bool)
  | lastHealthTimeout
  | upperOk (who : Initiator) (v : Word)
  | coreRun (who : Initiator) (v : Word)
  -- keyed commands (R375-R384)
  | takeOwnership (e : Envelope)
  | releaseOwnership (e : Envelope)
  | vendorRelease (e : Envelope)
  | installLinkKey (e : Envelope)
  | advanceSvn (e : Envelope)
  | setCeiling (e : Envelope)
  | recalMeter (e : Envelope)
  | replaceVt (e : Envelope)
  | fwSwitch (e : Envelope)
  | updateLast (e : Envelope)
  | mapout (e : Envelope)
  | undoMapout (e : Envelope)
  | warmRestart (e : Envelope)
  | failQuiet (e : Envelope)
  | setTime (e : Envelope)
  | compactionDone
  -- requests and energy records (R391-R395)
  | reqOpen (who : Initiator) (slot : Fin 32) (v : Word)
  | reqClose (who : Initiator) (slot : Fin 32) (v : Word)
  | firkinSign
  -- SPDM (R373, R374)
  | getVersion (src : Fin 2) (req : List Byte)
  | getCapabilities (src : Fin 2) (req : List Byte)
  | negotiateAlgorithms (src : Fin 2) (req : List Byte)
  | getDigests (src : Fin 2) (req : List Byte)
  | getCertificate (src : Fin 2) (req : List Byte)
  | challenge (src : Fin 2) (req : List Byte)
  | getMeasurements (src : Fin 2) (req : List Byte)
  -- management ports (R414-R419)
  | managementFragment (f : MgtFrame)
  | reassemblyTimeout (chan : Fin 5)
  | mgtIdent (port : Fin 2) (msgId : BitVec 16)
  | mgtLog (port : Fin 2) (msgId : BitVec 16) (first count : Nat)
  | mgtFirkin (port : Fin 2) (msgId : BitVec 16) (first count : Nat)
  | upperFrame (port : Fin 2) (bytes : List Byte)
  | sidebandShort (pin : Fin 4)
  | rearm (who : Initiator) (v : Word)
  -- SMBus (R420)
  | smbIdent
  | smbPhase
  | smbFq
  | smbVin
  | smbIin
  | smbPin
  | smbTInlet
  | smbTOutlet
  | smbTDie
  | smbTHbm
  | smbAlerts
  | smbSlot
  -- rows that follow
  | trainingTimeout (p : Fin 16)
  | idleFrame (p : Fin 16) (f : Frame)
  | transportAckTimer (p : Fin 16) (dev : Fin 16384)
  | managementLinkChange (port : Fin 2) (up fec : Bool)
  | refStartFail
  | awlPackLoad (w0 w1 w2 : Word) (tests lists sign : List Byte)
  | droopRelease (fabric : Bool)
  | railSettled (pllSettled : Bool)
  deriving DecidableEq, Repr

end Sys2Proof
end

