-- ==== Sys2Proof/Decode.lean ====
section
/-! DEFINITION. The command a word of the table spells. spec/opcode_table.json gives no row any bits: a command
reaches the block as a register access, a frame, a datagram or an event, never as an encoded word. -/

namespace Sys2Proof

/-- The command whose table bits are `w`: no row of the table has bits, so no word spells one (log 1). -/
def decodeTableWord (_nbits _w : Nat) : Option Instr := none

end Sys2Proof
end

