-- ==== Sys2Proof/Machine/Numerics.lean ====
section
/-! DEFINITION. Number formats, exact values, the two roundings and the conversions of "Number formats, rounding and
reproducibility" (R98-R112), and the FP32 operations the engines build from them. -/

namespace Sys2Proof.Num

/-- An exact value: a sign and a magnitude `m * 2 ^ e` (a zero keeps its sign), an infinity, or NaN. -/
inductive Val where
  | fin (neg : Bool) (m : Nat) (e : Int)
  | inf (neg : Bool)
  | nan
  deriving DecidableEq, Repr

/-- How a format spells infinity and NaN (Table 4.2). -/
inductive Special where
  | ieee
  | e4m3
  | none
  deriving DecidableEq, Repr

/-- A floating-point format of Table 4.2. -/
structure Fmt where
  width : Nat
  ebits : Nat
  mbits : Nat
  bias : Nat
  special : Special
  deriving DecidableEq, Repr

def fp32 : Fmt := ⟨32, 8, 23, 127, .ieee⟩
def fp16 : Fmt := ⟨16, 5, 10, 15, .ieee⟩
def bf16 : Fmt := ⟨16, 8, 7, 127, .ieee⟩
def e4m3 : Fmt := ⟨8, 4, 3, 7, .e4m3⟩
def e5m2 : Fmt := ⟨8, 5, 2, 15, .ieee⟩
def e2m3 : Fmt := ⟨6, 2, 3, 1, .none⟩
def e3m2 : Fmt := ⟨6, 3, 2, 3, .none⟩
def e2m1 : Fmt := ⟨4, 2, 1, 1, .none⟩

/-- The floating-point format of a FORMAT code (Table 4.1). -/
def fmtOf (code : Nat) : Option Fmt :=
  match code with
  | 0x01 => some fp32 | 0x02 => some fp16 | 0x03 => some bf16 | 0x04 => some e4m3 | 0x05 => some e5m2
  | 0x10 => some e4m3 | 0x11 => some e5m2 | 0x12 => some e2m3 | 0x13 => some e3m2 | 0x14 => some e2m1
  | _ => none

/-- Is the code an MX format (Table 4.1). -/
def isMx (code : Nat) : Bool := 0x10 ≤ code && code ≤ 0x14

/-- Is the code a floating-point format (0x01-0x14, R129). -/
def isFloat (code : Nat) : Bool := (fmtOf code).isSome

/-- Width in bits of an element of the format (Table 4.1); 0 for a code the table does not list. -/
def widthOf (code : Nat) : Nat :=
  match fmtOf code with
  | some f => f.width
  | none => match code with | 0x20 => 8 | 0x21 => 32 | 0x22 => 32 | 0x23 => 64 | _ => 0

/-- Is the FORMAT code one of Table 4.1 (R98). -/
def isFormat (code : Nat) : Bool := widthOf code != 0

/-- e_max of R108 and emax(F) of R144. -/
def emaxOf (code : Nat) : Int :=
  match code with
  | 0x04 | 0x10 => 8
  | 0x05 | 0x11 | 0x02 => 15
  | 0x12 | 0x14 => 2
  | 0x13 => 4
  | _ => 127

/-- The value an element's bits decode to (R100, R101), exactly. -/
def decode (f : Fmt) (n : Nat) : Val :=
  let neg := nfld n (f.ebits + f.mbits) (f.ebits + f.mbits) == 1
  let ee := nfld n (f.ebits + f.mbits - 1) f.mbits
  let mm := n % 2 ^ f.mbits
  let top := 2 ^ f.ebits - 1
  if ee = 0 then .fin neg mm (1 - (f.bias : Int) - f.mbits)
  else if f.special = .ieee ∧ ee = top then (if mm = 0 then .inf neg else .nan)
  else if f.special = .e4m3 ∧ ee = top ∧ mm = 2 ^ f.mbits - 1 then .nan
  else .fin neg (2 ^ f.mbits + mm) ((ee : Int) - f.bias - f.mbits)

/-- Largest finite mantissa and exponent of the format (Table 4.2): its magnitude is `m * 2 ^ e`. -/
def maxFin (f : Fmt) : Nat × Int :=
  match f.special with
  | .ieee => (2 ^ (f.mbits + 1) - 1, (2 ^ f.ebits - 2 : Nat) - (f.bias : Int) - f.mbits)
  | .e4m3 => (2 ^ (f.mbits + 1) - 2, (2 ^ f.ebits - 1 : Nat) - (f.bias : Int) - f.mbits)
  | .none => (2 ^ (f.mbits + 1) - 1, (2 ^ f.ebits - 1 : Nat) - (f.bias : Int) - f.mbits)

/-- Magnitude `m1 * 2^e1` compared with `m2 * 2^e2`: is the first less. -/
def magLt (m1 : Nat) (e1 : Int) (m2 : Nat) (e2 : Int) : Bool :=
  let q := min e1 e2
  decide (m1 * 2 ^ (e1 - q).toNat < m2 * 2 ^ (e2 - q).toNat)

/-- Exact equality of two magnitudes. -/
def magEq (m1 : Nat) (e1 : Int) (m2 : Nat) (e2 : Int) : Bool :=
  let q := min e1 e2
  decide (m1 * 2 ^ (e1 - q).toNat = m2 * 2 ^ (e2 - q).toNat)

/-- ⌊log₂⌋ of a non-zero magnitude. -/
def flog2 (m : Nat) (e : Int) : Int := (Nat.log2 m : Int) + e

/-- The exponent of the unit in the last place that the format keeps at this magnitude, subnormals included. -/
def ulpExp (f : Fmt) (m : Nat) (e : Int) : Int :=
  max (flog2 m e - f.mbits) (1 - (f.bias : Int) - f.mbits)

/-- Round a magnitude to a multiple of `2 ^ q`, to nearest, ties to even (R103). -/
def rneAt (m : Nat) (e q : Int) : Nat :=
  if q ≤ e then m * 2 ^ (e - q).toNat
  else
    let s := (q - e).toNat
    let k := m / 2 ^ s
    let r := m % 2 ^ s
    let half := 2 ^ (s - 1)
    if r > half ∨ (r = half ∧ k % 2 = 1) then k + 1 else k

/-- Round a magnitude to a multiple of `2 ^ q` stochastically with the random word `u` (R104). -/
def srAt (u : Nat) (m : Nat) (e q : Int) : Nat :=
  if q ≤ e then m * 2 ^ (e - q).toNat
  else
    let s := (q - e).toNat
    let k := m / 2 ^ s
    let r := m % 2 ^ s
    if r = 0 then k
    else
      let d := if s ≥ 32 then r / 2 ^ (s - 32) else r * 2 ^ (32 - s)
      if d + u ≥ 2 ^ 32 then k + 1 else k

/-- Encode sign, multiple `k` and exponent `q` of a magnitude the format holds exactly. -/
def pack (f : Fmt) (neg : Bool) (k : Nat) (q : Int) : Nat :=
  let sgn := b2n neg * 2 ^ (f.ebits + f.mbits)
  let (k, q) := if k = 2 ^ (f.mbits + 1) then (2 ^ f.mbits, q + 1) else (k, q)
  if k < 2 ^ f.mbits then sgn + k
  else sgn + ((q + f.mbits + f.bias).toNat * 2 ^ f.mbits) + (k - 2 ^ f.mbits)

/-- The canonical NaN of a format (R110); the all-zero code for an MX element that has none. -/
def canonNan (f : Fmt) : Nat :=
  match f.special with
  | .ieee => (2 ^ f.ebits - 1) * 2 ^ f.mbits + 2 ^ (f.mbits - 1)
  | .e4m3 => 2 ^ (f.ebits + f.mbits) - 1
  | .none => 0

/-- The NaN a heritage task writes (R121). -/
def heritageNan (f : Fmt) : Nat := 2 ^ (f.ebits + f.mbits) - 1

/-- The infinity of a format that has one. -/
def packInf (f : Fmt) (neg : Bool) : Nat :=
  b2n neg * 2 ^ (f.ebits + f.mbits) + (2 ^ f.ebits - 1) * 2 ^ f.mbits

/-- The largest finite value of a format, encoded. -/
def packMax (f : Fmt) (neg : Bool) : Nat := pack f neg (maxFin f).1 (maxFin f).2

/-- What an out-of-range value becomes (Table 4.4). -/
def outOfRange (f : Fmt) (ovfInf neg : Bool) : Nat :=
  if ovfInf then (match f.special with | .ieee => packInf f neg | .e4m3 => canonNan f | .none => packMax f neg)
  else packMax f neg

/-- Convert a value to a format with the rounding `rnd` of a magnitude at an exponent (R103-R106). -/
def convWith (rnd : Nat → Int → Int → Nat) (f : Fmt) (ovfInf : Bool) (v : Val) : Nat :=
  match v with
  | .nan => canonNan f
  | .inf neg => outOfRange f ovfInf neg
  | .fin neg m e =>
    if m = 0 then pack f neg 0 0
    else
      let q := ulpExp f m e
      let k := rnd m e q
      if magLt (maxFin f).1 (maxFin f).2 k q then outOfRange f ovfInf neg else pack f neg k q

/-- RNE conversion (R103, R106). -/
def conv (f : Fmt) (ovfInf : Bool) (v : Val) : Nat := convWith rneAt f ovfInf v

/-- Stochastic conversion with the random word `u` (R104, R106). -/
def convSr (u : Nat) (f : Fmt) (ovfInf : Bool) (v : Val) : Nat := convWith (srAt u) f ovfInf v

/-- Is the encoding a subnormal of its format (R120). -/
def isSubnormal (f : Fmt) (n : Nat) : Bool :=
  nfld n (f.ebits + f.mbits - 1) f.mbits == 0 && n % 2 ^ f.mbits != 0

/-- The encoding with a subnormal replaced by a zero of its sign (R120, R121). -/
def flush (f : Fmt) (n : Nat) : Nat :=
  if isSubnormal f n then n / 2 ^ (f.ebits + f.mbits) * 2 ^ (f.ebits + f.mbits) else n

/-- The sign of a value. -/
def Val.neg : Val → Bool
  | .fin n _ _ => n
  | .inf n => n
  | .nan => false

def Val.isNan : Val → Bool
  | .nan => true
  | _ => false

def Val.isFinite : Val → Bool
  | .fin _ _ _ => true
  | _ => false

def Val.isZero : Val → Bool
  | .fin _ m _ => m == 0
  | _ => false

/-- The value of opposite sign. -/
def Val.negate : Val → Val
  | .fin n m e => .fin (!n) m e
  | .inf n => .inf (!n)
  | .nan => .nan

/-- The magnitude of a value. -/
def Val.abs : Val → Val
  | .fin _ m e => .fin false m e
  | .inf _ => .inf false
  | .nan => .nan

/-- A finite value as a signed integer multiple of `2 ^ q`, for `q` at most its exponent. -/
def Val.scaled (q : Int) : Val → Int
  | .fin n m e => let k : Int := ((m * 2 ^ (e - q).toNat : Nat) : Int); if n then -k else k
  | _ => 0

def Val.expo : Val → Int
  | .fin _ _ e => e
  | _ => 0

def ofInt (i : Int) (q : Int) : Val := .fin (decide (i < 0)) i.natAbs q

/-- Exact product with IEEE 754-2019 rules for infinities, NaN and the sign of zero. -/
def mul (a b : Val) : Val :=
  match a, b with
  | .nan, _ => .nan
  | _, .nan => .nan
  | .inf n, .inf k => .inf (n != k)
  | .inf n, .fin k m _ => if m = 0 then .nan else .inf (n != k)
  | .fin n m _, .inf k => if m = 0 then .nan else .inf (n != k)
  | .fin n m e, .fin k j d => .fin (n != k) (m * j) (e + d)

/-- Exact sum; an exact zero of operands of opposite sign is +0, of two negative zeros is −0 (R111). -/
def add (a b : Val) : Val :=
  match a, b with
  | .nan, _ => .nan
  | _, .nan => .nan
  | .inf n, .inf k => if n = k then .inf n else .nan
  | .inf n, .fin _ _ _ => .inf n
  | .fin _ _ _, .inf k => .inf k
  | .fin n m e, .fin k j d =>
    let q := min e d
    let s := (Val.fin n m e).scaled q + (Val.fin k j d).scaled q
    if s = 0 then .fin (n && k) 0 q else ofInt s q

def sub (a b : Val) : Val := add a b.negate

/-- A power of two. -/
def pow2 (x : Int) : Val := .fin false 1 x

/-- The value of an E8M0 scale byte (R101). -/
def scaleVal (b : Nat) : Val := if b = 255 then .nan else pow2 ((b : Int) - 127)

/-- A value divided exactly by a power of two with E8M0 byte `b` (R99). -/
def divScale (v : Val) (b : Nat) : Val := if b = 255 then .nan else mul v (pow2 (127 - (b : Int)))

/-- Decode of an FP32 pattern. -/
def d32 (x : F32) : Val := decode fp32 x.toNat

/-- RNE to FP32 in IEEE 754-2019 arithmetic: an overflow gives an infinity (R107). -/
def r32 (v : Val) : F32 := BitVec.ofNat 32 (conv fp32 true v)

/-- RNE to FP32 with subnormal results flushed and the heritage NaN (R120). -/
def r32h (v : Val) : F32 :=
  match v with
  | .nan => 0x7FFFFFFF#32
  | v => BitVec.ofNat 32 (flush fp32 (conv fp32 true v))

def add32 (a b : F32) : F32 := r32 (add (d32 a) (d32 b))
def sub32 (a b : F32) : F32 := r32 (sub (d32 a) (d32 b))
def mul32 (a b : F32) : F32 := r32 (mul (d32 a) (d32 b))
/-- a × b + c with one rounding (R137, R152). -/
def fma32 (a b c : F32) : F32 := r32 (add (mul (d32 a) (d32 b)) (d32 c))

/-- Integer square root of `n`, by `fuel` bits from the top, structurally. -/
def isqrtAux : Nat → Nat → Nat → Nat
  | 0, _, r => r
  | k + 1, n, r => let r' := r + 2 ^ k; isqrtAux k n (if r' * r' ≤ n then r' else r)

def isqrt (n : Nat) : Nat := isqrtAux (Nat.log2 n / 2 + 1) n 0

/-- A quotient to 64 or more bits with a sticky bit below, which rounds to FP32 as the exact quotient does. -/
def divVal (a b : Val) : Val :=
  match a, b with
  | .nan, _ => .nan
  | _, .nan => .nan
  | .inf _, .inf _ => .nan
  | .inf n, .fin k _ _ => .inf (n != k)
  | .fin n _ _, .inf k => .fin (n != k) 0 0
  | .fin n m e, .fin k j d =>
    if j = 0 then (if m = 0 then .nan else .inf (n != k))
    else if m = 0 then .fin (n != k) 0 0
    else
      let s := 66 + Nat.log2 j - Nat.log2 m
      let q := m * 2 ^ s / j
      let st := b2n (m * 2 ^ s % j != 0)
      .fin (n != k) (2 * q + st) (e - d - s - 1)

/-- A square root to 64 or more bits with a sticky bit below. -/
def sqrtVal (a : Val) : Val :=
  match a with
  | .nan => .nan
  | .inf n => if n then .nan else .inf false
  | .fin n m e =>
    if m = 0 then .fin n 0 0
    else if n then .nan
    else
      let s := 132 + (e % 2).toNat
      let r := isqrt (m * 2 ^ s)
      let st := b2n (r * r != m * 2 ^ s)
      .fin false (2 * r + st) ((e - s) / 2 - 1)

def div32 (a b : F32) : F32 := r32 (divVal (d32 a) (d32 b))
def sqrt32 (a : F32) : F32 := r32 (sqrtVal (d32 a))

/-- Order of two values that are not NaN: is the first less (−0 equals +0, R112). -/
def lt (a b : Val) : Bool :=
  match a, b with
  | .nan, _ => false
  | _, .nan => false
  | .inf n, .inf k => n && !k
  | .inf n, .fin _ _ _ => n
  | .fin _ _ _, .inf k => !k
  | .fin n m e, .fin k j d =>
    let q := min e d
    decide ((Val.fin n m e).scaled q < (Val.fin k j d).scaled q)

def eqv (a b : Val) : Bool := !a.isNan && !b.isNan && !lt a b && !lt b a

/-- max(a, b): NaN if either is NaN, +0 for ±0 (Table 5.2, Table 10.2, R131). DEDUCED (log 114): +0 wherever the larger
value is a zero, so for one −0 beside a negative value too. -/
def vmax (a b : Val) : Val :=
  if a.isNan || b.isNan then .nan
  else
    let m := if lt a b then b else a
    if m.isZero then .fin false 0 0 else m

/-- The exact sum of a list of finite values, or the special value R109 gives: NaN if any is NaN or infinities of
both signs meet, an infinity if one is present, +0 for an exact zero (R111). -/
def groupSum (vs : List Val) : Val :=
  if vs.any Val.isNan then .nan
  else
    let p := vs.any (fun v => v == .inf false)
    let n := vs.any (fun v => v == .inf true)
    if p && n then .nan else if p then .inf false else if n then .inf true
    else
      let q := vs.foldl (fun q v => min q v.expo) 0
      let s := vs.foldl (fun s v => s + v.scaled q) 0
      if s = 0 then .fin false 0 0 else ofInt s q

/-- One step of the running sum: `S := RNE(S + G)` (R113). -/
def accum (s : F32) (g : Val) : F32 := r32 (add (d32 s) g)

/-- The values in blocks of `n`. -/
def chunks (n : Nat) : Nat → List α → List (List α)
  | 0, _ => []
  | fuel + 1, xs => match xs with
    | [] => []
    | xs => xs.take n :: chunks n fuel (xs.drop n)

def groups32 (xs : List α) : List (List α) := chunks 32 xs.length xs

/-- hi(x) and lo(x) of R114, of an FP32 pattern. -/
def hiPart (x : F32) : F32 := x &&& 0xFFFF0000#32
def loPart (x : F32) : F32 := (r32 (sub (d32 x) (d32 (hiPart x)))) &&& 0xFFFF0000#32

/-- The three products of the FP32 split, or the unsplit product where an operand is not finite (R114). -/
def splitProducts (a b : F32) : List Val :=
  if (d32 a).isFinite && (d32 b).isFinite then
    [mul (d32 (hiPart a)) (d32 (hiPart b)), mul (d32 (hiPart a)) (d32 (loPart b)), mul (d32 (loPart a)) (d32 (hiPart b))]
  else [mul (d32 a) (d32 b)]

/-- floor(log2 a) for the largest magnitude of a block, less e_max, not below −127 (R108, step 5). -/
def blockExp (emax : Int) (m : Nat) (e : Int) : Int := max (flog2 m e - emax) (-127)

/-- The larger of two magnitudes as a pair. -/
def maxMag (a b : Nat × Int) : Nat × Int := if magLt a.1 a.2 b.1 b.2 then b else a

/-- A block of 32 values written in an MX format (R108, with `rnd` in place of RNE for R153): the scale byte, the
element codes, and how many non-zero values became zero. -/
def mxBlock (rnd : Nat → Nat → Int → Int → Nat) (code : Nat) (ovfInf : Bool) (vs : List Val) : Nat × List Nat × Nat :=
  match fmtOf code with
  | none => (0, [], 0)
  | some f =>
    let allNan := (255, vs.map (fun _ => 0), 0)
    if vs.any Val.isNan then allNan
    else if ovfInf && code != 0x11 && vs.any (fun v => !v.isFinite) then allNan
    else
      let big (n : Bool) : Val := .fin n (maxFin fp32).1 (maxFin fp32).2
      let ws := if ovfInf then vs else vs.map (fun v => match v with | .inf n => big n | v => v)
      let a := ws.foldl (fun a v => match v with | .fin _ m e => if m = 0 then a else maxMag a (m, e) | _ => a) (0, 0)
      if a.1 = 0 then
        (0, ws.map (fun v => match v with | .inf n => packInf f n | v => pack f v.neg 0 0), 0)
      else
        let x := blockExp (emaxOf code) a.1 a.2
        let enc (i : Nat) (v : Val) : Nat :=
          match v with
          | .inf n => packInf f n
          | v => match mul v (pow2 (-x)) with
            | .fin n m e => if m = 0 then pack f n 0 0 else
                let q := ulpExp f m e
                let k := rnd i m e q
                if magLt (maxFin f).1 (maxFin f).2 k q then packMax f n else pack f n k q
            | _ => 0
        let els := (List.range ws.length).zipWith enc ws
        let under := ((ws.zip els).filter (fun p => !p.1.isZero && p.2 % 2 ^ (f.ebits + f.mbits) == 0)).length
        ((x + 127).toNat, els, under)

/-- MX block with RNE (R108). -/
def mxBlockRne (code : Nat) (ovfInf : Bool) (vs : List Val) : Nat × List Nat × Nat :=
  mxBlock (fun _ => rneAt) code ovfInf vs

/-- MX block with a random word for each element (R153). -/
def mxBlockSr (us : List Nat) (code : Nat) (ovfInf : Bool) (vs : List Val) : Nat × List Nat × Nat :=
  mxBlock (fun i => srAt (us.getD i 0)) code ovfInf vs

/-- ⌊x⌋ of a finite value that is not negative. -/
def floorNat : Val → Nat
  | .fin _ m e => if 0 ≤ e then m * 2 ^ e.toNat else m / 2 ^ (-e).toNat
  | _ => 0

/-- A natural number as an exact value. -/
def ofNat (n : Nat) : Val := .fin false n 0

end Sys2Proof.Num
end

