-- ==== Sys2Proof/Config.lean ====
section
/-! DEFINITION. What the spec leaves open or to published standards: constants with no body, so that no proof can
rest on a value of them. -/

namespace Sys2Proof

/-- A choice the device makes and the spec leaves to it (a free buffer, R52): the n-th choice of a run. -/
opaque Config.choose : Nat → Nat

/-- A value the spec leaves unspecified: the n-th free value of a run. -/
opaque Config.freeWord : Nat → Word

/-- The die identifier CHIP_ID (R324, R374). -/
opaque Config.chipId : Word

/-- The n-th key that SEC or the Last generates (R241, R381): 256 bits. -/
opaque Config.genKey : Nat → BitVec 256

/-- RSASSA-PSS with SHA-256 and a 32-byte salt (R369): does the signature verify under the numbered public key
(0 firmware, 1 Awl, 2 production). -/
opaque Config.pssVerify : Nat → List Byte → List Byte → Bool

/-- Byte `i` of the RSASSA-PSS signature by the numbered private key (0 DIK; 1 + n the n-th RSK) of a message. -/
opaque Config.pssByte : Nat → List Byte → Nat → Byte

/-- The 384-byte signature. -/
def Config.pssSign (key : Nat) (msg : List Byte) : List Byte := (List.range 384).map (Config.pssByte key msg)

/-- RSA-OAEP-3072 decryption under the n-th KTK (R382). -/
opaque Config.oaepOpen : Nat → List Byte → Option (List Byte)

/-- The fixed coefficient of one activity class in the raw power estimate, in watts per count (R316). -/
opaque Config.powerCoef : Nat → Nat

/-- The static terms of the raw power estimate, in watts (R316). -/
opaque Config.powerStatic : Nat

/-- The voltage-table record that production test stored in MRAM, 832 bytes (R324). -/
opaque Config.vtRecord : List Byte

/-- The calibration record that production test stored, 832 bytes in the form of R324 (R389). -/
opaque Config.calRecord : List Byte

/-- MAGIC of a calibration record, whose form is that of R324 (R389). -/
opaque Config.calMagic : Nat

/-- Gain and offset that a calibration record gives a channel of the meter, 0 voltage and 1 current, in nanovolts or nanoamperes
(R389): a reading is the 24-bit sample times the gain, plus the offset. -/
opaque Config.calGain : List Byte → Nat → Int
opaque Config.calOffset : List Byte → Nat → Int

/-- Built-in voltages in mV of the safe points of VDD_ARR, VDD_FAB and VDD_CORE (R325). -/
opaque Config.safeVoltage : Nat → Nat

/-- The nominal frequency in MHz of the PLLs of HBM0-HBM7 and LP00-LP15, by their bit of PLL_STS (R330). -/
opaque Config.pllMHz : Nat → Nat

/-- Bytes that a journal record takes beyond its value (R385). -/
opaque Config.journalBytes : Nat

/-- A piece of the DER certificate chain of an SPDM slot (R372, R373), by slot, owner period and number of the piece: what stands
before, between and after the CHIP_ID and the OWNER_EPOCH of the subject. -/
opaque Config.certPiece : Nat → Nat → Nat → List Byte

/-- The digest of the Last ROM (Table 13.3). -/
opaque Config.romDigest : BitVec 256

/-- The firmware image that the module is delivered with, by group (5 for the Last) and slot (R359, R369). -/
opaque Config.norImage : Nat → Nat → List Byte

/-- The device secret that the ROM derives from the on-die source (R370), and a key derived from it for a purpose: 0 sealing, 1
the HMAC of change records (R372, R385). -/
opaque Config.deviceSecret : BitVec 256
opaque Config.derivedKey : BitVec 256 → Nat → BitVec 256

/-- The three private keys of Table 13.2 as bytes: 0 DIK, 1 RSK, 2 KTK, by owner period (R372), and the nonces they are sealed
with. -/
opaque Config.privateKey : Nat → Nat → List Byte
opaque Config.sealNonce : Nat → Nat → BitVec 96

/-- The block version shown in BLK_ID of a block other than SYS (Table 1.7). -/
opaque Config.blockVersion : Nat → Nat

/-- The bytes the SPDM standard fixes for a response beyond what R373 and R374 state (DMTF SPDM 1.3). -/
opaque Config.spdmBody : Nat → List Byte → List Byte

/-- The CPER platform's GUIDs named by R341: 0 CPE, 1 MCE. -/
opaque Config.cperGuid : Nat → BitVec 128

/-- What a register shows whose content the spec leaves open: an occupancy of the moment (R231, Table 3.15), drain
staging no slice has written (R97); by register and by the free values drawn so far. -/
opaque Config.openReg : Nat → Nat → Word

/-- Which of the elements of an output tensor that share an address is the one the device stores there, in a task: by the
task's number, the address and the bit in its first byte; taken modulo how many they are (R47). -/
opaque Config.aliasWinner : Nat → Nat → Nat → Nat

/-- What a byte reads as after its content was lost: by the number of the loss and the address (R241, R244). -/
opaque Config.lostByte : Nat → Nat → Byte

end Sys2Proof
end

