-- ==== Sys2Proof/Machine/RegTable.lean ====
section
/-! DEFINITION. The registers of the control pages: the block table (Table 1.5) and, block by block, every register
of the spec's register tables with its offset, reset value and access types (R8). A row stands for `count` registers,
`stride` bytes apart. Bits that no mask names are reserved (R7). -/

namespace Sys2Proof.Machine

/-- One row of a register table. -/
structure RegRow where
  page : Nat
  off : Nat
  count : Nat
  stride : Nat
  name : String
  reset : Nat
  /-- Bits that a write stores (RW). -/
  rw : Nat
  /-- Bits that a write of 1 clears (W1C). -/
  w1c : Nat
  /-- Bits that a write of 1 triggers; they read 0 (W1S). -/
  w1s : Nat
  /-- Bits that a write delivers to the block; they read 0 (WO). -/
  wo : Nat
  /-- Bits that a write leaves (RO, RC). -/
  ro : Nat
  /-- The row stands on instance 0 only. -/
  only0 : Bool
  deriving DecidableEq, Repr

/-- The block-specific part of a page's common head: implemented counters, ERR_STS bits and INT_STS bits beyond the
common ones (Tables 1.8, 1.11). -/
structure HeadRow where
  page : Nat
  only0 : Bool
  counters : Nat
  err : Nat
  int : Nat
  deriving DecidableEq, Repr

/-- A row of Table 1.5: code, instances, pages per instance, first page of instance 0. -/
structure BlockRow where
  block : Block
  code : Nat
  insts : Nat
  pages : Nat
  first : Nat
  deriving DecidableEq, Repr

/-- Table 1.5. -/
def blockTable : List BlockRow :=
  [⟨.sys, 0x0001, 1, 4, 0x000⟩, ⟨.tck, 0x0002, 1, 2, 0x010⟩, ⟨.arr, 0x0010, 4, 8, 0x040⟩,
   ⟨.ve, 0x0011, 16, 2, 0x080⟩, ⟨.chn, 0x0012, 1, 4, 0x0C0⟩, ⟨.skm, 0x0013, 1, 2, 0x0C8⟩,
   ⟨.rng, 0x0014, 1, 1, 0x0CC⟩, ⟨.ldl, 0x0020, 8, 2, 0x0D0⟩, ⟨.crm, 0x0030, 64, 1, 0x100⟩,
   ⟨.hbm, 0x0031, 8, 4, 0x140⟩, ⟨.lnk, 0x0040, 16, 4, 0x180⟩, ⟨.pwr, 0x0050, 1, 2, 0x1C0⟩,
   ⟨.clk, 0x0051, 1, 1, 0x1C4⟩, ⟨.tst, 0x0060, 1, 2, 0x1C8⟩, ⟨.stn, 0x0061, 1, 1, 0x1CC⟩,
   ⟨.sec, 0x0070, 1, 2, 0x1D0⟩, ⟨.nvs, 0x0071, 1, 1, 0x1D4⟩, ⟨.mgt, 0x0072, 1, 1, 0x1D8⟩,
   ⟨.cbl, 0x0073, 1, 1, 0x1DC⟩]

/-- The registers of SYS beyond the head. -/
def regsSys : List RegRow :=
  [⟨0, 0x200, 1, 8, "DEV_ID", 0, 0x8000000000003fff, 0, 0, 0, 0, false⟩,
   ⟨2, 0x8000, 512, 64, "LACE_Q_CFG", 0, 0x3ffff1f01, 0, 0x2, 0, 0xffff000000000000, false⟩,
   ⟨2, 0x8008, 512, 64, "LACE_Q_LVL", 0x30000000, 0xff0f3501ffff, 0x2000000, 0, 0, 0, false⟩,
   ⟨2, 0x8010, 512, 64, "LACE_Q_STS", 0x400000000, 0, 0, 0, 0, 0xfffffffff, false⟩,
   ⟨2, 0x8018, 512, 64, "LACE_Q_PTR", 0, 0, 0, 0, 0, 0x1ffff0001ffff, false⟩,
   ⟨2, 0x8020, 512, 64, "LACE_Q_PUSH", 0, 0, 0, 0, 0xffffffff, 0, false⟩,
   ⟨2, 0x8028, 512, 64, "LACE_Q_PUSH_NB", 0, 0, 0, 0, 0xffffffff, 0, false⟩,
   ⟨2, 0x8030, 512, 64, "LACE_Q_POP", 0, 0, 0, 0, 0, 0x80000000ffffffff, false⟩,
   ⟨2, 0x8038, 512, 64, "LACE_Q_ERR", 0, 0, 0xf, 0, 0, 0, false⟩,
   ⟨3, 0x8000, 512, 64, "LACE_Q_CFG", 0, 0x3ffff1f01, 0, 0x2, 0, 0xffff000000000000, false⟩,
   ⟨3, 0x8008, 512, 64, "LACE_Q_LVL", 0x30000000, 0xff0f3501ffff, 0x2000000, 0, 0, 0, false⟩,
   ⟨3, 0x8010, 512, 64, "LACE_Q_STS", 0x400000000, 0, 0, 0, 0, 0xfffffffff, false⟩,
   ⟨3, 0x8018, 512, 64, "LACE_Q_PTR", 0, 0, 0, 0, 0, 0x1ffff0001ffff, false⟩,
   ⟨3, 0x8020, 512, 64, "LACE_Q_PUSH", 0, 0, 0, 0, 0xffffffff, 0, false⟩,
   ⟨3, 0x8028, 512, 64, "LACE_Q_PUSH_NB", 0, 0, 0, 0, 0xffffffff, 0, false⟩,
   ⟨3, 0x8030, 512, 64, "LACE_Q_POP", 0, 0, 0, 0, 0, 0x80000000ffffffff, false⟩,
   ⟨3, 0x8038, 512, 64, "LACE_Q_ERR", 0, 0, 0xf, 0, 0, 0, false⟩,
   ⟨2, 0x1000, 64, 32, "POOL_BASE", 0, 0x3ffffffffffff, 0, 0, 0, 0, false⟩,
   ⟨2, 0x1008, 64, 32, "POOL_CFG", 0, 0xffffffffff, 0, 0, 0, 0x7ffff0000000000, false⟩,
   ⟨2, 0x1010, 64, 32, "POOL_ALLOC", 0, 0, 0, 0, 0, 0x80000000ffffffff, false⟩,
   ⟨2, 0x1018, 64, 32, "POOL_RELEASE", 0, 0, 0, 0, 0xffffffff, 0, false⟩,
   ⟨0, 0x208, 1, 8, "BOOT_STS", 0, 0, 0, 0x10, 0, 0xf, false⟩,
   ⟨0, 0x210, 1, 8, "CORE_CTL", 0, 0xffff, 0, 0, 0, 0, false⟩,
   ⟨0, 0x218, 1, 8, "CORE_STS", 0, 0, 0, 0, 0, 0xffffffff, false⟩,
   ⟨0, 0x220, 1, 8, "UPPER_ENTRY", 0, 0x3ffffffffffff, 0, 0, 0, 0, false⟩]

/-- The registers of TCK beyond the head. -/
def regsTck : List RegRow :=
  [⟨0, 0x200, 1, 8, "TICK_CFG", 0x280010, 0xff007f, 0, 0, 0, 0, false⟩,
   ⟨0, 0x208, 1, 8, "TICK_AT", 0, 0xffffffffffffffff, 0, 0, 0, 0, false⟩,
   ⟨0, 0x210, 1, 8, "TICK_NUM", 0, 0, 0, 0, 0, 0xffffffffffffffff, false⟩,
   ⟨0, 0x218, 1, 8, "TICK_SRC", 0x80a0300, 0xffff03f3, 0, 0, 0, 0, false⟩,
   ⟨0, 0x220, 1, 8, "ALIGN_STS", 0, 0, 0, 0, 0, 0xffffff03, false⟩,
   ⟨0, 0x228, 1, 8, "CLK_TICK", 0, 0, 0, 0, 0, 0xffffffff, false⟩,
   ⟨0, 0x230, 1, 8, "BUDGET", 0, 0, 0, 0, 0, 0xffffffffffffffff, false⟩,
   ⟨0, 0x238, 1, 8, "ABORT_CTL", 0, 0x1ffff, 0, 0x20000, 0, 0, false⟩,
   ⟨0, 0x240, 1, 8, "ABORT_ADDR", 0, 0x3ffffffffffff, 0, 0, 0, 0, false⟩,
   ⟨0, 0x248, 1, 8, "ABORT_STS", 0, 0, 0, 0, 0, 0x7, false⟩,
   ⟨0, 0x250, 1, 8, "NOPROG_CFG", 0x400, 0xffff, 0, 0, 0, 0, false⟩,
   ⟨0, 0x258, 1, 8, "NOPROG_FIRST", 0, 0, 0, 0, 0, 0xffffffff0007ff3f, false⟩,
   ⟨0, 0x260, 1, 8, "STEAL_CFG", 0x1000, 0xffff, 0, 0, 0, 0, false⟩,
   ⟨0, 0x1000, 32, 16, "JOB_SLOT_W0", 0, 0x3fff07ffff, 0, 0, 0, 0, false⟩,
   ⟨0, 0x1008, 32, 16, "JOB_SLOT_W1", 0, 0, 0, 0, 0, 0xffffffff0000001f, false⟩,
   ⟨1, 0x200, 4, 8, "CQ_DONE", 0, 0, 0xffffffffffffffff, 0, 0, 0, false⟩,
   ⟨1, 0x220, 1, 8, "CQ_DROP_FIRST", 0, 0, 0, 0, 0, 0x1ff, false⟩,
   ⟨1, 0x1000, 256, 8, "CQ_BIND", 0xff, 0xffff00fffdff, 0, 0, 0, 0, false⟩,
   ⟨1, 0x4000, 256, 64, "CQ_Q_CFG", 0, 0, 0, 0x2, 0, 0xffff0003ffff1f01, false⟩,
   ⟨1, 0x4008, 256, 64, "CQ_Q_LVL", 0x30000000, 0xff0f3501ffff, 0x2000000, 0, 0, 0, false⟩,
   ⟨1, 0x4010, 256, 64, "CQ_Q_STS", 0x400000000, 0, 0, 0, 0, 0xfffffffff, false⟩,
   ⟨1, 0x4018, 256, 64, "CQ_Q_PTR", 0, 0, 0, 0, 0, 0x1ffff0001ffff, false⟩,
   ⟨1, 0x4020, 256, 64, "CQ_Q_PUSH", 0, 0, 0, 0, 0x3ffffffffffff, 0, false⟩,
   ⟨1, 0x4028, 256, 64, "CQ_Q_PUSH_NB", 0, 0, 0, 0, 0x3ffffffffffff, 0, false⟩,
   ⟨1, 0x4030, 256, 64, "CQ_Q_POP", 0, 0, 0, 0, 0, 0x80000000ffffffff, false⟩,
   ⟨1, 0x4038, 256, 64, "CQ_Q_ERR", 0, 0, 0xf, 0, 0, 0, false⟩]

/-- The registers of ARR beyond the head. -/
def regsArr : List RegRow :=
  [⟨0, 0x200, 1, 8, "MODE", 0, 0x1, 0, 0, 0, 0x2, false⟩,
   ⟨0, 0x208, 1, 8, "SWAP_CTL", 0xf0, 0xf0, 0, 0xf, 0, 0xff00, false⟩,
   ⟨0, 0x210, 1, 8, "UNIT_STS", 0, 0, 0, 0, 0, 0x1f001f001f001f, false⟩,
   ⟨1, 0x200, 4, 8, "RUN_TASK", 0, 0, 0, 0, 0, 0xffffffffffffffff, false⟩,
   ⟨1, 0x220, 4, 8, "RUN_POS", 0, 0, 0, 0, 0, 0xffffffffffffffff, false⟩,
   ⟨1, 0x240, 4, 8, "RUN_BATCH", 0, 0, 0, 0, 0, 0xffffffff, false⟩,
   ⟨1, 0x300, 16, 8, "CTX_TASK", 0, 0, 0, 0, 0, 0xffffffffffffffff, false⟩,
   ⟨2, 0x200, 1, 8, "WELT_CFG", 0x1000, 0xffff, 0, 0, 0, 0, false⟩,
   ⟨2, 0x208, 1, 8, "WELT_STS", 0, 0, 0, 0, 0, 0xffffffffffffffff, false⟩,
   ⟨3, 0x200, 1, 8, "DRAIN_STS", 0, 0, 0, 0, 0, 0xfffff, false⟩,
   ⟨4, 0x200, 1, 8, "LS_CFG", 0x3e801, 0xffff01, 0, 0, 0, 0, false⟩,
   ⟨4, 0x208, 1, 8, "LS_CE_ADDR", 0, 0, 0, 0, 0, 0xffffffffffffffff, false⟩,
   ⟨4, 0x210, 1, 8, "LS_UE_ADDR", 0, 0, 0, 0, 0, 0xffffffffffffffff, false⟩,
   ⟨5, 0x200, 1, 8, "KEEP_CTL", 0x110080800, 0x1ffff1fff, 0, 0, 0, 0, false⟩,
   ⟨5, 0x208, 1, 8, "KEEP_STS", 0, 0, 0, 0, 0, 0xf0f0f0f, false⟩,
   ⟨6, 0x200, 1, 8, "TBANK_SEL", 0, 0x3ff, 0, 0, 0, 0, false⟩,
   ⟨6, 0x1000, 128, 8, "TBANK_ROW", 0, 0xffffffffffffffff, 0, 0, 0, 0, false⟩,
   ⟨7, 0x200, 1, 8, "TSTG_SEL", 0, 0x7fff, 0, 0, 0, 0, false⟩,
   ⟨7, 0x1000, 256, 8, "TSTG_ROW", 0, 0, 0, 0, 0, 0xffffffffffffffff, false⟩]

/-- The registers of CHN beyond the head. -/
def regsChn : List RegRow :=
  [⟨0, 0x200, 1, 8, "CHN_CFG", 0x3, 0x3, 0, 0x4, 0, 0, false⟩,
   ⟨0, 0x208, 1, 8, "RATIO_HI", 0x3c23d70a, 0xffffffff, 0, 0, 0, 0, false⟩,
   ⟨0, 0x210, 1, 8, "RATIO_LO", 0, 0xffffffff, 0, 0, 0, 0, false⟩,
   ⟨0, 0x218, 1, 8, "ALARM_FIRST", 0, 0, 0, 0, 0, 0xffffffffff, false⟩,
   ⟨0, 0x220, 1, 8, "RUN_STS", 0, 0, 0, 0, 0, 0x3f, false⟩,
   ⟨0, 0x228, 1, 8, "RUN_TASK", 0, 0, 0, 0, 0, 0xffffffffffffffff, false⟩,
   ⟨0, 0x230, 1, 8, "RUN_POS", 0, 0, 0, 0, 0, 0xffffffffffff, false⟩,
   ⟨1, 0x200, 8, 8, "CTX_TASK", 0, 0, 0, 0, 0, 0xffffffffffffffff, false⟩,
   ⟨1, 0x240, 8, 8, "CTX_POS", 0, 0, 0, 0, 0, 0xffffffffffff, false⟩,
   ⟨2, 0x1000, 2048, 16, "LAYER_STATS0_W0", 0, 0, 0, 0, 0, 0x7ffffffffffffff, false⟩,
   ⟨2, 0x1008, 2048, 16, "LAYER_STATS0_W1", 0, 0, 0, 0, 0, 0xffffffffffffffff, false⟩,
   ⟨3, 0x1000, 2048, 16, "LAYER_STATS2048_W0", 0, 0, 0, 0, 0, 0x7ffffffffffffff, false⟩,
   ⟨3, 0x1008, 2048, 16, "LAYER_STATS2048_W1", 0, 0, 0, 0, 0, 0xffffffffffffffff, false⟩]

/-- The registers of SKM beyond the head. -/
def regsSkm : List RegRow :=
  [⟨0, 0x200, 1, 8, "STEP_CTL", 0, 0xffff, 0, 0x30000, 0, 0, false⟩,
   ⟨0, 0x208, 1, 8, "STEP_STS", 0, 0, 0, 0, 0, 0x1, false⟩,
   ⟨0, 0x210, 1, 8, "ENTRY_SEL", 0, 0xfff, 0, 0, 0, 0, false⟩,
   ⟨0, 0x218, 1, 8, "ENTRY_CFG", 0, 0xffffffff1fffff, 0, 0, 0, 0, false⟩,
   ⟨0, 0x220, 1, 8, "ENTRY_PARAM", 0, 0xffffffffffffffff, 0, 0, 0, 0, false⟩,
   ⟨0, 0x228, 1, 8, "ENTRY_STATE", 0, 0xffffffffffffffff, 0, 0, 0, 0, false⟩,
   ⟨0, 0x1000, 16, 8, "HIST", 0, 0, 0, 0, 0, 0xffffffffffffffff, false⟩,
   ⟨0, 0x1080, 1, 8, "HIST_COUNT", 0, 0, 0, 0, 0, 0xffffffffffff, false⟩,
   ⟨0, 0x1088, 1, 8, "PEND_STAT", 0, 0, 0, 0, 0, 0xffffffffffffffff, false⟩,
   ⟨0, 0x1090, 1, 8, "PEND_COUNT", 0, 0, 0, 0, 0, 0x3ffffffffffff, false⟩,
   ⟨1, 0x200, 1, 8, "STAT_BASE", 0, 0x3ffffffffffff, 0, 0, 0, 0, false⟩,
   ⟨1, 0x208, 1, 8, "BIND_SEL", 0, 0x3fff, 0, 0, 0, 0, false⟩,
   ⟨1, 0x210, 1, 8, "BIND_CFG", 0, 0xffff, 0, 0, 0, 0, false⟩,
   ⟨1, 0x218, 1, 8, "BIND_ADDR", 0, 0x3ffffffffffff, 0, 0, 0, 0, false⟩]

/-- The registers of RNG beyond the head. -/
def regsRng : List RegRow :=
  [⟨0, 0x200, 1, 8, "TEST_KEY", 0, 0xffffffffffffffff, 0, 0, 0, 0, false⟩,
   ⟨0, 0x208, 1, 8, "TEST_CTR_LO", 0, 0xffffffffffffffff, 0, 0, 0, 0, false⟩,
   ⟨0, 0x210, 1, 8, "TEST_CTR_HI", 0, 0xffffffffffffffff, 0, 0, 0, 0, false⟩,
   ⟨0, 0x218, 1, 8, "TEST_GO", 0, 0, 0, 0x1, 0, 0, false⟩,
   ⟨0, 0x220, 1, 8, "TEST_OUT_LO", 0, 0, 0, 0, 0, 0xffffffffffffffff, false⟩,
   ⟨0, 0x228, 1, 8, "TEST_OUT_HI", 0, 0, 0, 0, 0, 0xffffffffffffffff, false⟩,
   ⟨0, 0x1000, 256, 8, "SEED", 0, 0xffffffffffffffff, 0, 0, 0, 0, false⟩]

/-- The registers of LDL beyond the head. -/
def regsLdl : List RegRow :=
  [⟨0, 0x200, 1, 8, "LDL_CFG", 0, 0x1, 0, 0, 0, 0, false⟩,
   ⟨0, 0x208, 1, 8, "LDL_STS", 0, 0, 0, 0, 0, 0x3f1, false⟩,
   ⟨0, 0x210, 1, 8, "LDL_INFLIGHT", 0, 0, 0, 0, 0, 0xffffffff, false⟩,
   ⟨0, 0x218, 1, 8, "LDL_CH_DONE", 0, 0, 0xffff, 0, 0, 0, false⟩,
   ⟨0, 0x1000, 16, 128, "ACT_CH_SRC", 0, 0, 0, 0, 0, 0x3ffffffffffff, false⟩,
   ⟨0, 0x1040, 16, 128, "SHD_CH_SRC", 0, 0x3ffffffffffff, 0, 0, 0, 0, false⟩,
   ⟨0, 0x1008, 16, 128, "ACT_CH_DST", 0, 0, 0, 0, 0, 0x3ffffffffffff, false⟩,
   ⟨0, 0x1048, 16, 128, "SHD_CH_DST", 0, 0x3ffffffffffff, 0, 0, 0, 0, false⟩,
   ⟨0, 0x1010, 16, 128, "ACT_CH_CTL", 0, 0, 0, 0, 0, 0xfffff, false⟩,
   ⟨0, 0x1050, 16, 128, "SHD_CH_CTL", 0, 0xbffff, 0, 0x40000, 0, 0, false⟩,
   ⟨0, 0x1018, 16, 128, "ACT_CH_STS", 0, 0, 0, 0, 0, 0x1ff, false⟩,
   ⟨0, 0x1058, 16, 128, "SHD_CH_STS", 0, 0, 0, 0, 0, 0x1ff, false⟩,
   ⟨0, 0x1020, 16, 128, "ACT_CH_POS", 0, 0, 0, 0, 0, 0xffffffffffff, false⟩,
   ⟨0, 0x1060, 16, 128, "SHD_CH_POS", 0, 0, 0, 0, 0, 0xffffffffffff, false⟩,
   ⟨0, 0x1028, 16, 128, "ACT_CH_TASK", 0, 0, 0, 0, 0, 0xffffffffffffffff, false⟩,
   ⟨0, 0x1068, 16, 128, "SHD_CH_TASK", 0, 0, 0, 0, 0, 0xffffffffffffffff, false⟩,
   ⟨0, 0x1030, 16, 128, "ACT_CH_DETAIL", 0, 0, 0, 0, 0, 0xffffffffffffffff, false⟩,
   ⟨0, 0x1070, 16, 128, "SHD_CH_DETAIL", 0, 0, 0, 0, 0, 0xffffffffffffffff, false⟩,
   ⟨0, 0x1038, 16, 128, "ACT_CH_RSVD", 0, 0, 0, 0, 0, 0x0, false⟩,
   ⟨0, 0x1078, 16, 128, "SHD_CH_RSVD", 0, 0, 0, 0, 0, 0x0, false⟩,
   ⟨1, 0x1000, 64, 64, "PF_SRC_LO", 0, 0, 0, 0, 0, 0x3ffffffffffff, false⟩,
   ⟨1, 0x1008, 64, 64, "PF_SRC_HI", 0, 0, 0, 0, 0, 0x3ffffffffffff, false⟩,
   ⟨1, 0x1010, 64, 64, "PF_DST_LO", 0, 0, 0, 0, 0, 0x3ffffffffffff, false⟩,
   ⟨1, 0x1018, 64, 64, "PF_DST_HI", 0, 0, 0, 0, 0, 0x3ffffffffffff, false⟩,
   ⟨1, 0x1020, 64, 64, "PF_STS", 0, 0, 0, 0, 0, 0xffffffffffff0007, false⟩]

/-- The registers of CRM beyond the head. -/
def regsCrm : List RegRow :=
  [⟨0, 0x200, 1, 8, "CRM_MODE", 0, 0x1, 0, 0, 0, 0x6, false⟩,
   ⟨0, 0x208, 1, 8, "CRM_PART", 0, 0xf, 0, 0, 0, 0, false⟩,
   ⟨0, 0x210, 1, 8, "HINT_MAP", 0x55555555, 0xffffffff, 0, 0, 0, 0, false⟩,
   ⟨0, 0x218, 1, 8, "KEEP_CFG", 0xc, 0x1f, 0, 0, 0, 0, false⟩,
   ⟨0, 0x220, 1, 8, "PROV_STS", 0, 0, 0, 0, 0, 0x1ffffff01ffffff, false⟩,
   ⟨0, 0x280, 1, 8, "SLICE_STS", 0xe, 0, 0, 0, 0, 0x3f, false⟩,
   ⟨0, 0x288, 1, 8, "SCRUB_CFG", 0x3e801, 0xffff01, 0, 0, 0, 0, false⟩,
   ⟨0, 0x290, 1, 8, "CE_ADDR", 0, 0, 0, 0, 0, 0x3ffffffffffff, false⟩,
   ⟨0, 0x298, 1, 8, "UE_ADDR", 0, 0, 0, 0, 0, 0x3ffffffffffff, false⟩,
   ⟨0, 0x2a0, 1, 8, "REHOME_POS", 0, 0, 0, 0, 0, 0x1fffff, false⟩,
   ⟨0, 0x1000, 16, 8, "GRAN_MAP", 0, 0, 0, 0, 0, 0x1f3f07, false⟩,
   ⟨0, 0x8000, 4096, 8, "SLOT", 0, 0, 0, 0, 0, 0xffffffff7fffffff, false⟩]

/-- The registers of HBM beyond the head. -/
def regsHbm : List RegRow :=
  [⟨0, 0x200, 1, 8, "HBM_CTL", 0, 0x7, 0, 0, 0, 0, false⟩,
   ⟨0, 0x208, 1, 8, "HBM_STS", 0, 0, 0, 0, 0, 0x1f, false⟩,
   ⟨0, 0x210, 1, 8, "CLASS_SHARE", 0x4101808, 0x3f3f3f3f, 0, 0, 0, 0, false⟩,
   ⟨0, 0x218, 1, 8, "CLASS_ENTRY", 0x100040008000400, 0xffffffffffffffff, 0, 0, 0, 0, false⟩,
   ⟨0, 0x220, 1, 8, "TRACK_STS", 0, 0, 0, 0, 0, 0xfff7fff, false⟩,
   ⟨0, 0x228, 1, 8, "TRACK_PEAK", 0, 0, 0, 0, 0, 0x7fff, false⟩,
   ⟨0, 0x230, 1, 8, "SPARE", 0x4, 0x1f, 0, 0, 0, 0, false⟩,
   ⟨1, 0x200, 1, 8, "THERM_CFG", 0x3203695f55, 0x7f0fffffff, 0, 0, 0, 0, false⟩,
   ⟨1, 0x208, 1, 8, "THERM_STS", 0, 0, 0, 0, 0, 0xff7f07ff, false⟩,
   ⟨1, 0x210, 1, 8, "PWR_THROT", 0x64, 0, 0, 0, 0, 0x7f, false⟩,
   ⟨2, 0x200, 1, 8, "ECC_CE_ADDR", 0, 0, 0, 0, 0, 0x3ffffffffffff, false⟩,
   ⟨2, 0x208, 1, 8, "ECC_UE_ADDR", 0, 0, 0, 0, 0, 0x3ffffffffffff, false⟩,
   ⟨2, 0x210, 1, 8, "REHOME_STS", 0, 0, 0, 0, 0, 0x3fffffffff, false⟩,
   ⟨2, 0x1000, 64, 8, "PC_STS", 0, 0, 0, 0, 0, 0xffffffff0001ff1f, false⟩,
   ⟨2, 0x2000, 512, 8, "LPC_MAP", 0, 0, 0, 0, 0, 0x1ff, true⟩,
   ⟨3, 0x200, 1, 8, "MARGIN_CTL", 0, 0x1f7f7f3f, 0, 0x100000000, 0, 0, false⟩,
   ⟨3, 0x208, 1, 8, "MARGIN_PAT", 0x100000, 0x3ffffffff, 0, 0, 0, 0, false⟩,
   ⟨3, 0x210, 1, 8, "MARGIN_STS", 0, 0, 0, 0, 0, 0xffffffff00000003, false⟩,
   ⟨3, 0x218, 1, 8, "MARGIN_BITS", 0, 0, 0, 0, 0, 0xffffffff, false⟩,
   ⟨3, 0x8000, 4096, 8, "SLOT", 0, 0, 0, 0, 0, 0xffffffff7fffffff, false⟩]

/-- The registers of LNK beyond the head. -/
def regsLnk : List RegRow :=
  [⟨0, 0x200, 1, 8, "PORT_CFG", 0, 0x1007fffff, 0, 0, 0, 0, false⟩,
   ⟨0, 0x208, 1, 8, "PORT_STS", 0, 0, 0, 0, 0, 0x3ffffffffff, false⟩,
   ⟨0, 0x210, 1, 8, "LANE_MAP", 0, 0, 0, 0, 0, 0xffffff00ffffff, false⟩,
   ⟨0, 0x218, 1, 8, "LINK_DELAY", 0, 0, 0, 0, 0, 0xffffff, false⟩,
   ⟨0, 0x220, 1, 8, "LINK_CFG", 0x4008, 0xffffff, 0, 0, 0, 0, false⟩,
   ⟨0, 0x228, 1, 8, "TRAIN_CTL", 0, 0, 0, 0x1, 0, 0, false⟩,
   ⟨0, 0x230, 1, 8, "ETH_MAC", 0, 0xffffffffffff, 0, 0, 0, 0, false⟩,
   ⟨0, 0x238, 1, 8, "NEXTHOP_MAC", 0, 0xffffffffffff, 0, 0, 0, 0, false⟩,
   ⟨0, 0x240, 1, 8, "ETH_VLAN", 0, 0x1fff, 0, 0, 0, 0, false⟩,
   ⟨1, 0x4000, 1, 64, "REQ_Q_CFG", 0, 0xffff000000000001, 0, 0x2, 0, 0x3ffff1f00, false⟩,
   ⟨1, 0x4008, 1, 64, "REQ_Q_LVL", 0x30000000, 0xff0f3501ffff, 0x2000000, 0, 0, 0, false⟩,
   ⟨1, 0x4010, 1, 64, "REQ_Q_STS", 0x400000000, 0, 0, 0, 0, 0xfffffffff, false⟩,
   ⟨1, 0x4018, 1, 64, "REQ_Q_PTR", 0, 0, 0, 0, 0, 0x1ffff0001ffff, false⟩,
   ⟨1, 0x4020, 1, 64, "REQ_Q_PUSH", 0, 0, 0, 0, 0, 0, false⟩,
   ⟨1, 0x4028, 1, 64, "REQ_Q_PUSH_NB", 0, 0, 0, 0, 0, 0, false⟩,
   ⟨1, 0x4030, 1, 64, "REQ_Q_POP", 0, 0, 0, 0, 0, 0x80000000ffffffff, false⟩,
   ⟨1, 0x4038, 1, 64, "REQ_Q_ERR", 0, 0, 0xf, 0, 0, 0, false⟩,
   ⟨1, 0x4040, 1, 64, "RESP_Q_CFG", 0, 0xffff000000000001, 0, 0x2, 0, 0x3ffff1f00, false⟩,
   ⟨1, 0x4048, 1, 64, "RESP_Q_LVL", 0x30000000, 0xff0f3501ffff, 0x2000000, 0, 0, 0, false⟩,
   ⟨1, 0x4050, 1, 64, "RESP_Q_STS", 0x400000000, 0, 0, 0, 0, 0xfffffffff, false⟩,
   ⟨1, 0x4058, 1, 64, "RESP_Q_PTR", 0, 0, 0, 0, 0, 0x1ffff0001ffff, false⟩,
   ⟨1, 0x4060, 1, 64, "RESP_Q_PUSH", 0, 0, 0, 0, 0, 0, false⟩,
   ⟨1, 0x4068, 1, 64, "RESP_Q_PUSH_NB", 0, 0, 0, 0, 0, 0, false⟩,
   ⟨1, 0x4070, 1, 64, "RESP_Q_POP", 0, 0, 0, 0, 0, 0x80000000ffffffff, false⟩,
   ⟨1, 0x4078, 1, 64, "RESP_Q_ERR", 0, 0, 0xf, 0, 0, 0, false⟩,
   ⟨2, 0x200, 1, 8, "LNK_CFG", 0x2401, 0xff01, 0, 0, 0, 0, true⟩,
   ⟨2, 0x208, 1, 8, "RESP_TIMEOUT", 0x3e8, 0xfffff, 0, 0, 0, 0, true⟩,
   ⟨2, 0x210, 1, 8, "UDP_PORT", 0xc04b, 0xffff, 0, 0, 0, 0, true⟩,
   ⟨2, 0x218, 1, 8, "IP_PREFIX", 0, 0xffffffffffffffff, 0, 0, 0, 0, true⟩,
   ⟨2, 0x220, 1, 8, "TRACK_STS", 0, 0, 0, 0, 0, 0x3ffff, true⟩,
   ⟨2, 0x228, 1, 8, "CACHE_CTL", 0, 0, 0, 0x1, 0, 0, true⟩,
   ⟨2, 0x1000, 1024, 32, "UNIT_W0", 0, 0x3ffffffffffff, 0, 0, 0, 0, true⟩,
   ⟨2, 0x1008, 1024, 32, "UNIT_W1", 0, 0x3ffffffffffff, 0, 0, 0, 0, true⟩,
   ⟨2, 0x1010, 1024, 32, "UNIT_W2", 0, 0x3ffff, 0, 0, 0, 0xff000000, true⟩,
   ⟨2, 0x1018, 1024, 32, "UNIT_W3", 0, 0, 0, 0, 0, 0, true⟩,
   ⟨3, 0x200, 1, 8, "MCAST_CFG", 0x1, 0x1, 0, 0, 0, 0, true⟩,
   ⟨3, 0x208, 1, 8, "NOTICE_BASE", 0, 0x3ffffffffffff, 0, 0, 0, 0, true⟩,
   ⟨3, 0x210, 1, 8, "NOTICE_PTR", 0, 0xff0000, 0, 0, 0, 0xff, true⟩,
   ⟨3, 0x1000, 256, 32, "MCAST_W0", 0, 0x3ffffffffffff, 0, 0, 0, 0, true⟩,
   ⟨3, 0x1008, 256, 32, "MCAST_W1", 0, 0x107ff, 0, 0, 0, 0, true⟩,
   ⟨3, 0x1010, 256, 32, "MCAST_W2", 0, 0, 0, 0, 0, 0x7ff, true⟩,
   ⟨3, 0x1018, 256, 32, "MCAST_W3", 0, 0, 0, 0, 0, 0, true⟩,
   ⟨3, 0x218, 1, 8, "RED_CFG", 0x4, 0xffff, 0, 0, 0, 0, true⟩,
   ⟨3, 0x220, 1, 8, "RED_TIMEOUT", 0x186a0, 0xffffff, 0, 0, 0, 0, true⟩,
   ⟨3, 0x228, 1, 8, "SLOW_NOTICE", 0, 0x1ff, 0, 0, 0, 0, true⟩,
   ⟨3, 0x230, 1, 8, "RED_STS", 0, 0, 0, 0, 0, 0x7ff07ff, true⟩,
   ⟨3, 0x400, 32, 8, "SLOT_RSV", 0, 0x1fff, 0, 0, 0, 0, true⟩]

/-- The registers of PWR beyond the head. -/
def regsPwr : List RegRow :=
  [⟨0, 0x200, 1, 8, "PWR_CAP", 0x12c, 0xfff, 0, 0, 0, 0, false⟩,
   ⟨0, 0x208, 1, 8, "PWR_CEIL", 0x12c, 0, 0, 0, 0, 0xfff, false⟩,
   ⟨0, 0x210, 1, 8, "PWR_MODE", 0x2, 0x3, 0, 0, 0, 0, false⟩,
   ⟨0, 0x218, 1, 8, "PWR_FLOOR", 0x1e0405dc, 0x7f1f0fff, 0, 0, 0, 0, false⟩,
   ⟨0, 0x220, 1, 8, "PWR_LOOP", 0x400640064, 0xf0fff0fff, 0, 0, 0, 0, false⟩,
   ⟨0, 0x228, 1, 8, "PWR_STS", 0, 0, 0, 0, 0, 0x3f7f1f0fff0fff, false⟩,
   ⟨0, 0x230, 1, 8, "PWR_EST", 0, 0, 0, 0, 0, 0xffffffffffffffff, false⟩,
   ⟨0, 0x238, 1, 8, "INPUT_STS", 0, 0, 0, 0, 0, 0xffffffff, false⟩,
   ⟨0, 0x240, 1, 8, "FAST_CFG", 0x14a, 0xfff, 0, 0, 0, 0, false⟩,
   ⟨0, 0x248, 1, 8, "DROOP_CFG", 0x1000028, 0xfff00ff, 0, 0, 0, 0, false⟩,
   ⟨0, 0x250, 1, 8, "THERM_LIM", 0x2d286e6450, 0xffffffffff, 0, 0, 0, 0, false⟩,
   ⟨0, 0x258, 1, 8, "THERM_STS", 0, 0, 0, 0, 0, 0xff01ffff3fff, false⟩,
   ⟨0, 0x260, 1, 8, "VT_STS", 0, 0, 0, 0, 0, 0x1ffffffff, false⟩,
   ⟨1, 0x1000, 32, 8, "VT_ARR", 0, 0, 0, 0, 0, 0xffffffff, false⟩,
   ⟨1, 0x1100, 32, 8, "VT_FAB", 0, 0, 0, 0, 0, 0xffffffff, false⟩,
   ⟨1, 0x1200, 32, 8, "VT_CORE", 0, 0, 0, 0, 0, 0xffffffff, false⟩,
   ⟨1, 0x2000, 48, 8, "TSENS", 0, 0, 0, 0, 0, 0x3ff, false⟩,
   ⟨1, 0x200, 1, 8, "MTR_STS", 0, 0, 0, 0, 0, 0xffffffff00000007, false⟩,
   ⟨1, 0x208, 1, 8, "MTR_P", 0, 0, 0, 0, 0, 0xffffffff, false⟩,
   ⟨1, 0x210, 1, 8, "MTR_E", 0, 0, 0, 0, 0, 0xffffffffffffffff, false⟩,
   ⟨1, 0x218, 1, 8, "MTR_E_LIFE", 0, 0, 0, 0, 0, 0xffffffffffffffff, false⟩,
   ⟨1, 0x220, 1, 8, "MTR_CAL", 0, 0, 0, 0, 0, 0xfffffffff, false⟩,
   ⟨1, 0x228, 1, 8, "OVH_E", 0, 0, 0, 0, 0, 0xffffffffffffffff, false⟩,
   ⟨1, 0x240, 1, 8, "FIRKIN_LAST", 0, 0, 0, 0, 0, 0xffffffffffffffff, false⟩,
   ⟨1, 0x248, 1, 8, "FIRKIN_SKIP", 0, 0, 0, 0, 0, 0xffffffffffffffff, false⟩,
   ⟨1, 0x250, 1, 8, "FIRKIN_LOST_SEQ", 0, 0, 0, 0, 0, 0xffffffffffffffff, false⟩,
   ⟨1, 0x230, 1, 8, "FIRKIN_BASE", 0, 0x3ffffffffffff, 0, 0, 0, 0, false⟩,
   ⟨1, 0x238, 1, 8, "FIRKIN_PTR", 0, 0x3ff0000, 0, 0, 0, 0x3ff, false⟩,
   ⟨1, 0x280, 32, 8, "REQ_CTL", 0, 0, 0, 0x3, 0, 0xc, false⟩,
   ⟨1, 0x400, 32, 8, "REQ_ID", 0, 0xffffffffffffffff, 0, 0, 0, 0, false⟩]

/-- The registers of CLK beyond the head. -/
def regsClk : List RegRow :=
  [⟨0, 0x200, 1, 8, "JUDGE_CFG", 0x800c8, 0xf03ff, 0, 0, 0, 0, false⟩,
   ⟨0, 0x208, 1, 8, "REF_STS", 0, 0, 0, 0, 0, 0xffff0007, false⟩,
   ⟨0, 0x210, 1, 8, "OSC_TRIM", 0x10000, 0x3ffff, 0, 0, 0, 0, false⟩,
   ⟨0, 0x218, 1, 8, "OSC_STS", 0, 0, 0, 0, 0, 0x3ffffffff, false⟩,
   ⟨0, 0x220, 1, 8, "PLL_STS", 0, 0, 0, 0, 0, 0x7ffffff, false⟩,
   ⟨0, 0x228, 1, 8, "CLK_EFF", 0, 0, 0, 0, 0, 0xfff0fff0fff, false⟩,
   ⟨0, 0x230, 1, 8, "CG_CTL", 0x1, 0x1, 0, 0, 0, 0, false⟩]

/-- The registers of TST beyond the head. -/
def regsTst : List RegRow :=
  [⟨0, 0x200, 1, 8, "TST_CTL", 0x1, 0x1, 0, 0, 0, 0, false⟩,
   ⟨0, 0x208, 1, 8, "PACK_BASE", 0, 0x3ffffffffffff, 0, 0, 0, 0, false⟩,
   ⟨0, 0x210, 1, 8, "PACK_STS", 0, 0, 0, 0, 0, 0xffffff, false⟩,
   ⟨0, 0x218, 1, 8, "LS_RSV", 0x104, 0xffff, 0, 0, 0, 0, false⟩,
   ⟨0, 0x220, 1, 8, "DUE_STS", 0, 0, 0, 0, 0, 0xffffffffffffffff, false⟩,
   ⟨0, 0x228, 1, 8, "TEST_FAIL_FIRST", 0, 0, 0, 0, 0, 0x3ff07ffffff, false⟩,
   ⟨1, 0x1000, 29, 8, "ENG_TEST", 0, 0, 0, 0, 0, 0xffffffffffffffff, false⟩]

/-- The registers of STN beyond the head. -/
def regsStn : List RegRow :=
  [⟨0, 0x300, 1, 8, "RED_CHK_CFG", 0x306, 0x30f, 0, 0, 0, 0, false⟩,
   ⟨0, 0x308, 1, 8, "RED_TOL", 0x3f800000, 0xffffffff, 0, 0, 0, 0, false⟩,
   ⟨0, 0x310, 1, 8, "RED_CHECKS", 0, 0, 0, 0, 0, 0xffffffffffffffff, false⟩,
   ⟨0, 0x318, 1, 8, "RED_SKIPPED", 0, 0, 0, 0, 0, 0xffffffffffffffff, false⟩,
   ⟨0, 0x320, 1, 8, "RED_FAILS", 0, 0, 0, 0, 0, 0xffffffffffffffff, false⟩,
   ⟨0, 0x328, 1, 8, "RED_FAIL_FIRST", 0, 0, 0, 0, 0, 0x1fffffffff, false⟩,
   ⟨0, 0x200, 1, 8, "TILE_CFG", 0x40050c, 0xffff070f, 0, 0, 0, 0, false⟩,
   ⟨0, 0x208, 1, 8, "CAP_BASE", 0, 0x3ffffffffffff, 0, 0, 0, 0, false⟩,
   ⟨0, 0x210, 1, 8, "CAP_SIZE", 0x400000, 0xffffffff, 0, 0, 0, 0, false⟩,
   ⟨0, 0x218, 1, 8, "CAP_CTL", 0, 0, 0, 0x2, 0, 0x1, false⟩,
   ⟨0, 0x220, 1, 8, "TILE_CHECKS", 0, 0, 0, 0, 0, 0xffffffffffffffff, false⟩,
   ⟨0, 0x228, 1, 8, "TILE_SKIPPED", 0, 0, 0, 0, 0, 0xffffffffffffffff, false⟩,
   ⟨0, 0x230, 1, 8, "TILE_FAILS", 0, 0, 0, 0, 0, 0xffffffffffffffff, false⟩,
   ⟨0, 0x238, 1, 8, "TILE_FAIL_FIRST", 0, 0, 0, 0, 0, 0xffffffff0001ffff, false⟩]

/-- The registers of MGT beyond the head. -/
def regsMgt : List RegRow :=
  [⟨0, 0x400, 1, 8, "CMD_ADDR", 0, 0x3ffffffffffff, 0, 0, 0, 0, false⟩,
   ⟨0, 0x408, 1, 8, "CMD_CTL", 0, 0, 0, 0x1, 0, 0, false⟩,
   ⟨0, 0x410, 1, 8, "CMD_STS", 0, 0, 0, 0, 0, 0xff03, false⟩,
   ⟨0, 0x418, 1, 8, "OWN_STS", 0, 0, 0, 0, 0, 0x3f3fff01, false⟩,
   ⟨0, 0x420, 1, 8, "NVS_STS", 0, 0, 0, 0, 0, 0xffffffffffffff07, false⟩,
   ⟨0, 0x200, 1, 8, "MGT_CFG", 0x7, 0x7, 0, 0, 0, 0, false⟩,
   ⟨0, 0x208, 1, 8, "MGT_STS", 0, 0, 0, 0, 0, 0xf, false⟩,
   ⟨0, 0x210, 1, 8, "MGT_MAC0", 0, 0, 0, 0, 0, 0xffffffffffff, false⟩,
   ⟨0, 0x218, 1, 8, "MGT_MAC1", 0, 0, 0, 0, 0, 0xffffffffffff, false⟩,
   ⟨0, 0x300, 1, 8, "SB_STS", 0, 0, 0, 0, 0, 0xf07, false⟩,
   ⟨0, 0x308, 1, 8, "SB_CTL", 0, 0, 0, 0x1, 0, 0, false⟩]

/-- The registers of CBL beyond the head. -/
def regsCbl : List RegRow :=
  [⟨0, 0x200, 1, 8, "CBL_POLICY", 0x3c0003, 0xffff0003, 0, 0, 0, 0, false⟩,
   ⟨0, 0x208, 1, 8, "HIST_CFG", 0x10e0002760, 0xffffffffffff, 0, 0, 0, 0, false⟩,
   ⟨0, 0x210, 1, 8, "CE_CFG", 0x186a0000003e8, 0xffffffffffffffff, 0, 0, 0, 0, false⟩,
   ⟨0, 0x218, 1, 8, "COALESCE", 0x3c, 0xffff, 0, 0, 0, 0, false⟩,
   ⟨0, 0x220, 1, 8, "WDOG", 0x64, 0xffff, 0, 0x10000, 0, 0, false⟩,
   ⟨0, 0x228, 1, 8, "HEALTH", 0x10000, 0xffffffff, 0, 0, 0, 0, false⟩,
   ⟨0, 0x230, 1, 8, "MAPOUT_REQ", 0, 0x1ffffffff, 0, 0x200000000, 0, 0, false⟩,
   ⟨0, 0x238, 1, 8, "MAPOUT_STS", 0, 0, 0, 0, 0, 0x1f, false⟩,
   ⟨0, 0x240, 1, 8, "MAPOUT_LIMIT", 0x1022121, 0xfffffff, 0, 0, 0, 0, false⟩,
   ⟨0, 0x248, 1, 8, "MAPOUT_USED", 0, 0, 0, 0, 0, 0xfffffff, false⟩,
   ⟨0, 0x250, 1, 8, "FQ_CTL", 0, 0, 0, 0x1, 0, 0, false⟩,
   ⟨0, 0x258, 1, 8, "FQ_STS", 0, 0, 0, 0, 0, 0xffffffff0000ff01, false⟩,
   ⟨0, 0x260, 1, 8, "CPER_BASE", 0, 0x3ffffffffffff, 0, 0, 0, 0, false⟩,
   ⟨0, 0x268, 1, 8, "CPER_STS", 0, 0, 0, 0, 0, 0xffffffffffffffff, false⟩,
   ⟨0, 0x270, 1, 8, "OP_MINUTES", 0, 0, 0, 0, 0, 0xffffffff, false⟩,
   ⟨0, 0x1000, 256, 8, "MAPOUT_TAB", 0, 0, 0, 0, 0, 0xffffff03ffffffff, false⟩]

/-- The registers of a block beyond the head. VE, SEC and NVS have none that the spec lays out (R397). -/
def regRows : Block → List RegRow
  | .sys => regsSys
  | .tck => regsTck
  | .arr => regsArr
  | .chn => regsChn
  | .skm => regsSkm
  | .rng => regsRng
  | .ldl => regsLdl
  | .crm => regsCrm
  | .hbm => regsHbm
  | .lnk => regsLnk
  | .pwr => regsPwr
  | .clk => regsClk
  | .tst => regsTst
  | .stn => regsStn
  | .mgt => regsMgt
  | .cbl => regsCbl
  | .ve => []
  | .sec => []
  | .nvs => []

/-- The block-specific head of the pages of a block; a page without a row has none. -/
def headRows : Block → List HeadRow
  | .sys => [⟨0, false, 0, 0x100, 0⟩, ⟨2, false, 0, 0x1f00, 0⟩, ⟨3, false, 0, 0x1100, 0⟩]
  | .tck => [⟨0, false, 14, 0x3f00, 0x1e⟩, ⟨1, false, 0, 0xf00, 0x2⟩]
  | .arr => [⟨0, false, 24, 0xf00, 0x6⟩, ⟨2, false, 32, 0, 0⟩, ⟨3, false, 20, 0, 0⟩, ⟨4, false, 6, 0x300, 0⟩, ⟨5, false, 12, 0, 0⟩]
  | .ve => []
  | .chn => [⟨0, false, 9, 0x700, 0x6⟩]
  | .skm => [⟨0, false, 8, 0x1f00, 0x6⟩, ⟨1, false, 3, 0x100, 0⟩]
  | .rng => [⟨0, false, 4, 0x300, 0⟩]
  | .ldl => [⟨0, false, 11, 0x700, 0x2⟩, ⟨1, false, 9, 0, 0⟩]
  | .crm => [⟨0, true, 16, 0x3f00, 0x6⟩, ⟨0, false, 16, 0x3e00, 0x4⟩]
  | .hbm => [⟨0, false, 7, 0x700, 0⟩, ⟨1, false, 4, 0x700, 0x2⟩, ⟨2, false, 4, 0xf00, 0x2⟩, ⟨3, false, 0, 0x100, 0x2⟩]
  | .lnk => [⟨0, false, 10, 0x3f00, 0x2⟩, ⟨1, false, 6, 0x300, 0⟩, ⟨2, true, 5, 0x300, 0⟩, ⟨3, true, 4, 0xf00, 0x2⟩]
  | .pwr => [⟨0, false, 8, 0xff00, 0xe⟩, ⟨1, false, 0, 0xf00, 0x2⟩]
  | .clk => [⟨0, false, 5, 0x1f00, 0x6⟩]
  | .tst => [⟨0, false, 4, 0x700, 0x6⟩]
  | .stn => [⟨0, false, 0, 0x1000100, 0x1000100⟩]
  | .sec => []
  | .nvs => []
  | .mgt => [⟨0, false, 6, 0x300, 0x2⟩]
  | .cbl => [⟨0, false, 0, 0x1f00, 0x2⟩]

/-- BLK_CAP[63:16] of a block (R96, R158-R160, R187, R216, R245, R246, R283, R337, R338), in place. -/
def blkCap : Block → Nat
  | .sys => 0
  | .tck => 0x4100200000
  | .arr => 0x40402000000
  | .ve => 0
  | .chn => 0x100008400000
  | .skm => 0x400010000000
  | .rng => 0xa01000000
  | .ldl => 0x402000100000
  | .crm => 0x100010100000
  | .hbm => 0x1004000400000
  | .lnk => 0x1000400080000
  | .pwr => 0x19300000
  | .clk => 0x1b0000
  | .tst => 0
  | .stn => 0
  | .sec => 0
  | .nvs => 0
  | .mgt => 0
  | .cbl => 0

end Sys2Proof.Machine
end

