-- ==== Sys2Proof/Machine/State.lean ====
section
/-! DEFINITION. The state of the GK-M8 as plain data, its fault and refusal names, and the state after reset.
Registers live in `regs`, keyed by page and offset; everything a register only shows is held where it is kept and
computed when read (Machine/View.lean). -/

namespace Sys2Proof.Machine

/-- The block stops with a fault: no command does. -/
inductive Fault where
  /-- Raised by nothing: every error of the spec is an effect on the state (safe). -/
  | none
  deriving DecidableEq, Repr

/-- No meaning for a command. -/
inductive Refusal where
  /-- Raised by Dispatch alone for a command whose meaning is not written (safe). -/
  | notModelled (mnemonic : String)
  /-- Raised by REGISTER_WRITE when the Last writes the SEC or NVS configuration or table area, whose layout the spec
  withholds (R397) (safe). -/
  | secLayoutNotGiven
  deriving DecidableEq, Repr

/-- What the device puts on its wires or delivers, in the order it does so. -/
inductive Out where
  /-- An interrupt: target code (Table 1.13), core, vector. -/
  | irq (target core vector : Nat)
  /-- A pulse on TICK_OUT (R162). -/
  | tickOut
  /-- The pattern sent on a lane in IDENTIFY (R250): the lane's number, the device number with the flag that says it is not
  valid, and whether the port has received the reversed order. -/
  | pattern (port lane : Nat) (number dev : Nat) (invalid reversed : Bool)
  /-- Clause 73 auto-negotiation on an Ethernet port: the one PHY it advertises, by its ETH_PHY code (R278). -/
  | autoneg (port phy : Nat)
  /-- The identity sent in DELAY (R252, R254): device, port, DEV_ID.VALID, and the last FSEQ received in order. -/
  | identity (port dev : Nat) (valid : Bool) (ack : Nat)
  /-- A GKL frame on a port: its first word, its body and its CRC (Table 9.4). -/
  | frame (port : Nat) (w0 : Word) (body : List Byte) (crc : BitVec 32)
  /-- A GKL packet handed to a port (R260). -/
  | packet (port : Nat) (k : Packet)
  /-- A transport datagram on an Ethernet port (R280), and the Ethernet frame that carries it (Table 9.9). -/
  | datagram (port : Nat) (d : Datagram) (bytes : List Byte)
  /-- The Ethernet frame of an ICMPv6 answer on a link port (R278). -/
  | icmp (port : Nat) (bytes : List Byte)
  /-- A management frame: port, destination MAC, the two words of its header and its data (Table 14.9). -/
  | mgt (port : Nat) (dst : BitVec 48) (w0 w1 : Word) (data : List Byte)
  /-- Bytes answered on the SMBus to a read at the module's address, and the packet error code behind them (R420). -/
  | smb (addr : Nat) (bytes : List Byte) (pec : Byte)
  /-- An SPDM response on a management port (R373). -/
  | spdm (src : Nat) (bytes : List Byte)
  /-- The response envelope of a keyed command that came neither by the doorbell nor by a management port (R377). -/
  | response (bytes : List Byte)
  /-- A frame handed to the Upper (R415). -/
  | upper (port : Nat) (bytes : List Byte)
  /-- THERM_ALERT on J4 changes (R236, R336). -/
  | thermAlert (asserted : Bool)
  /-- A load or store access fault taken by the controller that made the access (R15, R22). -/
  | accessFault (who : Initiator) (addr : Nat) (wr : Bool)
  deriving DecidableEq, Repr

/-- Memory whose former content is gone, by what lost it; `seed` numbers the free values its bytes read as. -/
inductive Lost where
  /-- Every byte: power has been away. -/
  | all (seed : Nat)
  /-- The HBM lines of these logical pseudo-channels, of `count` in use (R228, R241, R244). -/
  | lines (seed count : Nat) (lpcs : List Nat)
  /-- A range written with zeros (R218). -/
  | zeroed (lo hi : Nat)
  /-- A range that holds unspecified values (R58). -/
  | span (seed lo hi : Nat)
  deriving DecidableEq, Repr

/-- Memory: the bytes listed, and what became of the content of bytes that are not, newest first. -/
structure Mem where
  cells : List Host.Cell := []
  lost : List Lost := []
  deriving DecidableEq, Repr

/-- A block instance beyond its registers. -/
structure Blk where
  /-- The block's PLL is stable, so it can take EN into effect (R32). -/
  ready : Bool := false
  /-- BLK_STS.RST_BUSY (R31). -/
  rstBusy : Bool := false
  /-- Pages on which BUSY is set once the soft reset has completed, with the offset of the first write discarded (R31). -/
  busyPend : List (Nat × Nat) := []
  /-- BLK_STS.MAPPED_OUT (R33). -/
  mappedOut : Bool := false
  /-- BLK_STS.SUSPECT (R354). -/
  suspect : Bool := false
  deriving DecidableEq, Repr

/-- An instance of the common queue block (R188-R191): items oldest first, each pointer in two copies, the push
reservations and the register pushes held back. -/
structure Queue where
  items : List Word := []
  wr : Nat := 0
  rd : Nat := 0
  wr2 : Nat := 0
  rd2 : Nat := 0
  rsvd : Nat := 0
  held : List (Initiator × Word) := []
  deriving DecidableEq, Repr

/-- A pool of buffers beyond its registers (R51, R52): how often it was enabled, the further generation advances of
single buffers, and the allocated buffers with the command queue that holds each (256 for none). -/
structure Pool where
  era : Nat := 0
  adv : Map Nat := []
  alloc : Map Nat := []
  deriving DecidableEq, Repr

/-- Where a task stands (R39-R65). -/
inductive TPhase where
  /-- Accepted, not yet come up for dispatch. -/
  | accepted
  /-- Passed the checks of R424, waiting for resources. -/
  | waiting
  /-- Dispatched; its work runs in slices. -/
  | dispatched
  /-- Its work is complete and its status decided; it awaits its commit point. -/
  | complete
  /-- A speculative task past its commit point, held by its group (R63). -/
  | held
  /-- A DECIDE task evaluated, whose outcome takes effect at the next boundary (R65). -/
  | evaluated
  deriving DecidableEq, Repr

/-- Running statistics of a task's outputs (R134, R141, R154): largest exponent or magnitude bits, underflows,
elements, overflows, non-finite values, and the exact sums of squares as numerators over 2^298. -/
structure Stats where
  amax : Nat := 0
  under : Nat := 0
  count : Nat := 0
  ovf : Nat := 0
  nonfin : Bool := false
  sumW : Nat := 0
  sumU : Nat := 0
  sumG : Nat := 0
  fin : Bool := true
  deriving DecidableEq, Repr

/-- A member of a multicast stream (R275): its device, unacknowledged data bytes, the packets of the chunk in hand already
sent to it, and once detached the chunk and the packet its catch-up goes on from. -/
structure Member where
  dev : Nat
  out : Nat := 0
  part : Nat := 0
  detached : Option (Nat × Nat) := none
  deriving DecidableEq, Repr

/-- A task from acceptance to its last record write. -/
structure Task where
  id : Nat
  cq : Nat
  /-- The engine it runs on, as `engNo` numbers it. -/
  eng : Nat
  addr : Nat
  desc : List Word
  accTick : Nat
  phase : TPhase := .accepted
  /-- Status of Table 2.8 decided for it; 0 while none is. -/
  status : Nat := 0
  slot : Nat := 0
  /-- DETAIL as the class defines it, and as a fault that names an address or an eyelet does (R55). -/
  detail : Word := 0
  fault : Word := 0
  /-- Eyelets used, slot by slot; 0 for none. -/
  eye : List Nat := [0, 0, 0, 0, 0, 0, 0, 0]
  /-- Slots whose eyelet this task allocated. -/
  own : List Bool := [false, false, false, false, false, false, false, false]
  /-- Tensor descriptors as read at dispatch; empty for none. -/
  td : List (List Word) := [[], [], [], [], [], [], [], []]
  /-- Absolute base address of each slot's tensor. -/
  base : List Nat := [0, 0, 0, 0, 0, 0, 0, 0]
  /-- Lace queues in which an entry is reserved, and pushes held by a group. -/
  resv : List (Nat × Nat) := []
  prov : Nat := 0
  use : Nat := 0
  startTick : Option Nat := none
  slices : Nat := 0
  /-- The slice to be admitted next stands in SLICES already: it was admitted and returned (R174). -/
  counted : Bool := false
  overruns : Nat := 0
  /-- Granules of work done. -/
  pos : Nat := 0
  /-- Granule at which the slice in hand ends, and the cycles it has run. -/
  sliceEnd : Nat := 0
  run : Nat := 0
  stats : Stats := {}
  /-- Values the class captures at dispatch (seeds, hyperparameters, loss scale) and carries along. -/
  cap : List Word := []
  /-- Running sums of the output block in hand, row by row (R73). -/
  rows : Map (List F32) := []
  /-- Running values of a row or of the whole output: exact sums as numerators, largest values (R131, R297). -/
  acc : List Word := []
  /-- Output blocks whose last K tile has passed and that wait for the epilogue (R80). -/
  blocks : List (Nat × List F32) := []
  /-- It waits for a refetch of (engine, record) (R213). -/
  refetch : Option (Nat × Nat) := none
  /-- Parked on a reduction lane (R305). -/
  parked : Bool := false
  /-- Its group is waited for by this DECIDE task's own outcome: some true commit, some false discard. -/
  outcome : Option Bool := none
  memberFailed : Bool := false
  /-- Members of its group whose records were written before it was dispatched (R63). -/
  vis : List Nat := []
  /-- Stationary tiles reloaded (R91). -/
  reloads : Nat := 0
  /-- Remote requests it waits for, and the lowest address refused to it so far (R263). -/
  waits : Nat := 0
  nacked : Option (Nat × Nat) := none
  /-- Granule up to which a MOVE has written its destination, and the source bytes of the granules read beyond it (R206). -/
  wpos : Nat := 0
  hold : List (List Byte) := []
  /-- Source bytes of later positions whose read of another device has been answered before an earlier one's. -/
  got : Map (List Byte) := []
  /-- A source region of a MOVE with PF = 1 advanced since its first slice started (R212). -/
  pfChanged : Bool := false
  /-- The read-back of a remote destination has been requested (R207). -/
  rb : Bool := false
  /-- A direct transfer on this Ladle channel, and no task of a queue (R204). -/
  direct : Option Nat := none
  /-- Domain and ring group lists as read at dispatch (R295), and the members of its multicast. -/
  grp : List Nat := []
  ring : List Nat := []
  members : List Member := []
  /-- It has passed the checks of its dispatch (R48, R58). -/
  checked : Bool := false
  deriving DecidableEq, Repr

/-- A commit group's current use, counted from 1 (R60, R64). -/
structure Group where
  job : Nat
  gid : Nat
  use : Nat
  deriving DecidableEq, Repr

/-- A provisional line (R223): its group, its target line, and the bytes written to it, newest first, with the task
that wrote each. -/
structure ProvLine where
  job : Nat
  gid : Nat
  use : Nat
  line : Nat
  bytes : List (Nat × Nat × Byte) := []
  /-- The provisional granule that holds it: slice * 16 + granule. -/
  gran : Nat := 14
  /-- Words of it whose stored bits are in error, with the number of bits; poisoned (R225). -/
  err : Map Nat := []
  bad : Bool := false
  deriving DecidableEq, Repr

/-- A committed line whose copy to its target is in hand (R65, R223): its group, its target line, the provisional granule that
holds it, and the bytes to copy. -/
structure DrainLine where
  job : Nat
  gid : Nat
  line : Nat
  gran : Nat
  len : Nat
  deriving DecidableEq, Repr

/-- A slice admitted to an engine in this tick (R173). -/
structure Adm where
  task : Nat
  resume : Bool
  bound : Nat
  /-- Granule at which it ends. -/
  stop : Nat
  deriving DecidableEq, Repr

/-- An engine as TCK sees it (R69, R124, R148, R172, R178, R203). -/
structure Eng where
  running : Option Nat := none
  further : Option Nat := none
  /-- Suspended tasks, oldest first. -/
  ctx : List Nat := []
  queue : List Adm := []
  started : Bool := false
  /-- Suspended tasks whose stored context is in error (CTX_CHECK, R96). -/
  ctxBad : List Nat := []
  /-- A suspension drain is in progress (R175). -/
  draining : Bool := false
  owner : Option Nat := none
  /-- The last owner job, for the count of changes (R178). -/
  prevOwner : Option Nat := none
  credit : Map Int := []
  lastSteal : Option Nat := none
  stolen : Bool := false
  /-- Command queue from which the round robin goes on (R165). -/
  rr : Nat := 0
  budget : Nat := 0
  /-- The task of the last slice that ran here (R91, R95). -/
  lastTask : Option Nat := none
  lastJob : Nat := 0
  /-- Nothing has been admitted in this tick. -/
  fresh : Bool := true
  /-- Ladle and lanes: active and shadow task of each channel (R202), channel last served. -/
  active : Map Nat := []
  shadow : Map Nat := []
  served : Nat := 15
  deriving DecidableEq, Repr

/-- A job slot (Table 6.2): the W0 in effect, a staged write of it, and the state W1 shows. -/
structure JobSlot where
  w0 : Word := 0
  staged : Option Word := none
  active : Bool := false
  closing : Bool := false
  mapAck : Nat := 0
  noMap : Bool := false
  overruns : Nat := 0
  /-- A mapping request not yet granted or refused (R182). -/
  mapReq : Bool := false
  deriving DecidableEq, Repr

/-- The tick sequencer beyond its registers (R161-R187). -/
structure Tck where
  num : Nat := 0
  staged : Option (Word × Nat) := none
  /-- ALIGN_STS.STATE (R163). -/
  align : Nat := 0
  missed : Nat := 0
  offset : Int := 0
  good : Nat := 0
  /-- A mark has arrived in this tick. -/
  marked : Bool := false
  /-- Reference periods by which the next tick is longer (R163). -/
  adjust : Int := 0
  mclk : Nat := 0
  fclk : Nat := 0
  slots : Map JobSlot := []
  noprog : Map Nat := []
  /-- Jobs of which a task was dispatched, a slice ran or a record was written in this tick (R186). -/
  alive : List Nat := []
  abortBusy : Bool := false
  abortResp : Nat := 0
  /-- The abort in progress: the tasks it has reached and still waits for (R59, R169). -/
  aborting : List Nat := []
  /-- Counters latched at the last boundary (TICK_SNAP, Table 1.14). -/
  snap : Map Nat := []
  deriving DecidableEq, Repr

/-- One way of a cache set (R220, R221). -/
structure Way where
  line : Nat
  keep : Bool
  deriving DecidableEq, Repr

/-- A granule given to hosting another slice's granule (R227). -/
structure Hosting where
  slice : Nat
  granule : Nat
  ownerSlice : Nat
  ownerGranule : Nat
  prov : Bool
  deriving DecidableEq, Repr

/-- The Creamery beyond its registers (R217-R227). -/
structure Crm where
  busy : Bool := false
  /-- CRM_MODE.NORMAL and CRM_PART.SP in effect. -/
  normal : Bool := false
  sp : Nat := 0
  /-- CRM_MODE.MODE_ACK. -/
  ack : Bool := false
  /-- Cache sets by slice * 2^20 + set: ways, most recently used first. -/
  sets : Map (List Way) := []
  hosting : List Hosting := []
  /-- Slices whose granules are being re-homed: the granules (owner slice, granule, provisional) in the order in which they
  are copied; and by slice the lines copied (R227). -/
  copying : Map (List (Nat × Nat × Bool)) := []
  pos : Map Nat := []
  deriving DecidableEq, Repr

/-- An HBM controller and its stack beyond its registers (R230-R244). -/
structure Hbm where
  /-- Table 8.2: 0 OFF, 1 INIT, 2 ACTIVE, 3 SELF_REFRESH, 4 TEST. -/
  state : Nat := 0
  initFail : Bool := false
  held : Bool := false
  /-- It entered SELF_REFRESH at CRIT (R236). -/
  byCrit : Bool := false
  /-- Table 8.4: 0 NORMAL, 1 WARM, 2 HOT, 3 CRIT. -/
  therm : Nat := 0
  temp : Nat := 0
  maxTemp : Nat := 0
  /-- A temperature reading has succeeded (R236, R420). -/
  tempRead : Bool := false
  fails : Nat := 0
  sensorFail : Bool := false
  pwrThrot : Nat := 100
  marginBusy : Bool := false
  marginDone : Bool := false
  errors : Nat := 0
  bits : BitVec 32 := 0
  /-- VDDQ offset in force (R243), as its 5-bit pattern. -/
  voff : Nat := 0
  /-- Corrected bursts by pseudo-channel (PC_STS). -/
  corrected : Map Nat := []
  /-- Pseudo-channels of this stack mapped out. -/
  outPcs : List Nat := []
  /-- The replacement copy: source pseudo-channel, physical target, lines copied, whether it runs (R242). -/
  copySrc : Nat := 0
  copyDst : Nat := 0
  copyLines : Nat := 0
  copyBusy : Bool := false
  /-- A tracking entry has been taken since TRACK_PEAK was last read (R232). -/
  tracked : Bool := false
  deriving DecidableEq, Repr

/-- A Ladle channel register set of direct mode (Table 7.8). -/
structure Chan where
  src : Word := 0
  dst : Word := 0
  ctl : Word := 0
  status : Nat := 0
  busy : Bool := false
  pos : Nat := 0
  detail : Word := 0
  deriving DecidableEq, Repr

/-- A prefetch record (R212): its extents, its marks, its job, the tick of its commit point, when it was made and
last used, and the tensor descriptors and bases of the transfer for a refetch. -/
structure PfRec where
  srcLo : Nat
  srcHi : Nat
  dstLo : Nat
  dstHi : Nat
  changed : Bool := false
  used : Bool := false
  job : Nat := 0
  tick : Nat := 0
  made : Nat := 0
  lastUse : Nat := 0
  /-- Tasks accepted when its commit point came. -/
  seen : Nat := 0
  refetching : Bool := false
  desc : List Word := []
  td : List (List Word) := []
  base : List Nat := []
  deriving DecidableEq, Repr

/-- A Ladle engine beyond its registers (R202-R216). -/
structure Ldl where
  active : Map Chan := []
  shadow : Map Chan := []
  serving : Option Nat := none
  served : Nat := 15
  recs : Map PfRec := []
  /-- Records made and uses seen so far, for the order of R214. -/
  clock : Nat := 0
  deriving DecidableEq, Repr

/-- A fault-history entry (R351): the key of R342, first and last minute, count, PERMANENT. -/
structure Hist where
  code : Nat
  inst : Nat
  unit : Nat
  kind : Nat
  locus : Nat
  first : Nat
  last : Nat
  count : Nat
  perm : Bool
  deriving DecidableEq, Repr

/-- A key being coalesced (R342): an event of it, the occurrences not yet reported, and the operating minute at which its
period began. -/
structure Coal where
  ev : ErrEvent
  count : Nat
  start : Nat
  deriving DecidableEq, Repr

/-- Corrected events of a unit in one operating hour (R353), and whether CE_MAPOUT has been acted on in it. -/
structure CeHour where
  code : Nat
  inst : Nat
  unit : Nat
  hour : Nat
  count : Nat
  acted : Bool := false
  deriving DecidableEq, Repr

/-- An entry of the map-out table (Table 12.13), with the spare that stands in for a pseudo-channel (R242, R357). -/
structure MapEnt where
  code : Nat
  inst : Nat
  unit : Nat
  forced : Bool
  minute : Nat
  spare : Nat := 0
  deriving DecidableEq, Repr

/-- A map-out request (R356). -/
structure MapReq where
  code : Nat
  inst : Nat
  unit : Nat
  force : Bool
  /-- It came as a keyed command, whose response waits for it (Table 13.4). -/
  keyed : Bool := false
  /-- Taken up, with the RESULT of MAPOUT_STS decided for it and whether it goes beyond its budget. -/
  begun : Bool := false
  result : Nat := 0
  beyond : Bool := false
  deriving DecidableEq, Repr

/-- A test of an Awl pack (Table 12.5). -/
structure PackTest where
  code : Nat
  perQuad : Bool
  insts : Nat
  period : Nat
  deadline : Nat
  taskOff : Nat
  taskCount : Nat
  imageOff : Nat
  imageLen : Nat
  expect : BitVec 128
  deriving DecidableEq, Repr

/-- A loaded Awl pack (R347, R348): what its header and its test entries say, its
SHA-256 digest, its bytes, and its place in HBM. -/
structure Pack where
  id : Nat
  version : Nat
  svn : Nat
  tests : List PackTest
  digest : BitVec 256
  bytes : List Byte
  place : Nat
  deriving DecidableEq, Repr

/-- A test of a pack on one engine and quadrant (R350): the minute of its last pass, the minute at which it fell due, and whether
it is due and past its deadline. -/
structure TestSt where
  eng : Nat
  quad : Nat
  pack : Nat
  test : Nat
  lastPass : Option Nat := none
  dueAt : Nat := 0
  due : Bool := false
  past : Bool := false
  deriving DecidableEq, Repr

/-- A tile captured by the Strainer (R344): the array and quadrant, whether it ran in quadrants, the sampled task's
job, the first column of the tile, the task's OP and TRANS_B, the tick of the sample, the tile's bytes as captured and its
delivered sums. -/
structure Capture where
  arr : Nat
  quad : Nat
  quadMode : Bool
  job : Nat
  col : Nat
  op : Nat
  transB : Bool
  tick : Nat
  bytes : List Byte
  sums : List (BitVec 32)
  rows : Nat
  cols : Nat
  deriving DecidableEq, Repr

/-- A recompute the Strainer has submitted (R345): the MATMUL's array and quadrant, its job, OP, TRANS_B, Y type, ACT and
ALPHA_EN, its streamed rows and stationary columns, the place of its operands in the test reserve, and the tick after which
the sequencer steals for it. -/
structure Recomp where
  arr : Nat
  quad : Nat
  job : Nat
  op : Nat
  transB : Bool
  yType : Nat
  act : Nat
  alpha : Bool
  rows : Nat
  cols : Nat
  base : Nat
  deadline : Nat
  deriving DecidableEq, Repr

/-- Reliability: the Cobbler, the Strainer's tile check, TST and the fail-quiet sequencer, beyond their registers
(R339-R365). -/
structure Rel where
  /-- Events that wait for the Cobbler or the Last, oldest first. -/
  events : List ErrEvent := []
  /-- SEQ of the last record (MRAM). -/
  seq : Nat := 0
  emitted : Nat := 0
  lost : Nat := 0
  /-- The fault log in MRAM, newest last (R343). -/
  faultLog : List (List Byte) := []
  hist : List Hist := []
  coal : List Coal := []
  ce : List CeHour := []
  /-- Suspect units: code, instance, unit, minute of the last event (R354). -/
  suspects : List (Nat × Nat × Nat × Nat) := []
  mapTab : List MapEnt := []
  reqs : List MapReq := []
  mapBusy : Bool := false
  mapDone : Bool := false
  mapResult : Nat := 0
  /-- Operating minutes (MRAM, R351). -/
  opMin : Nat := 0
  fqActive : Bool := false
  fqCause : Nat := 0
  fqTick : Nat := 0
  lastLockstep : Option Nat := none
  /-- TICK_NUM at the last kick of the watchdog (R361). -/
  kickTick : Nat := 0
  noWarm : Bool := false
  /-- Output blocks delivered since the last sample, by array * 4 + quadrant (R344). -/
  tileCount : Map Nat := []
  rotate : Nat := 0
  capture : Option Capture := none
  checking : Bool := false
  /-- Recomputes submitted for the check in progress (R345). -/
  recomp : List Recomp := []
  capHeld : Bool := false
  /-- Jobs whose flag bit 2 the Strainer clears until their next DECIDE outcome (R346). -/
  discards : List Nat := []
  /-- Mismatches charged whose record waits until a slot 4 of the job is sent or its next DECIDE outcome takes effect (R346). -/
  lateEvs : List ErrEvent := []
  /-- HBM stacks whose PLL has turned unstable, for which 10 ms run (R340). -/
  pllGrace : List Nat := []
  packs : List Pack := []
  tests : List TestSt := []
  /-- Tests skipped because their engine has no reserve (R349). -/
  testsSkipped : Nat := 0
  deriving DecidableEq, Repr

/-- The two copies of each pointer of an instance of the common queue block (R190, R191), where the items themselves are
held elsewhere or hold no value. -/
structure Ptrs where
  wr : Nat := 0
  rd : Nat := 0
  wr2 : Nat := 0
  rd2 : Nat := 0
  deriving DecidableEq, Repr

/-- An array unit's loader, swap, keeper and welts (R76, R77, R79, R93, R94). -/
structure Unit where
  /-- A chained load is under way: a swap front has entered and row 0 is not yet written. -/
  chained : Bool := false
  /-- The insole bank's load is ready for arming. -/
  ready : Bool := false
  armed : Bool := false
  /-- An ARM written before the load was ready (R76). -/
  armHeld : Bool := false
  /-- A swap front crosses the unit (SWAP_CTL.FRONT). -/
  front : Bool := false
  /-- The bank in use: false A, true B. -/
  bank : Bool := false
  /-- Keeper step (KEEP_STS). -/
  step : Nat := 0
  /-- The task whose stationary tile for the pass in hand has become active. -/
  placed : Option Nat := none
  /-- The ready load was written through page 6, and so was the tile that is active (R97). -/
  insole : Bool := false
  pattern : Bool := false
  /-- The task and the pass whose tile the ready load holds. -/
  load : Option (Nat × Nat) := none
  /-- Words of the insole bank's last row written through page 6 since the last swap (R76). -/
  row : List Nat := []
  /-- Cycles of the gap in hand whose dummy rows are counted (R93). -/
  gap : Nat := 0
  /-- Welts whose pointers stand apart from the rows that have passed: those not listed agree (R79). -/
  welts : Map Ptrs := []
  deriving DecidableEq, Repr

/-- A matrix array beyond its registers and units (R96, R97). -/
structure Arr where
  units : Map Unit := []
  /-- Cells of the banks, 16 bits each: by bank * 4 + quadrant, then by row * 256 + column within it. -/
  banks : Map (Map Nat) := []
  /-- Bands and column groups stalled now (WELT_STS). -/
  bands : List Nat := []
  cols : List Nat := []
  deriving DecidableEq, Repr

/-- A layer row of the Churn (R154, Table 5.14): the open step, its contributions and exact sums as numerators over
2^298, whether all of them are finite, and the closed words. -/
structure Layer where
  isOpen : Bool := false
  step : Nat := 0
  tasks : Nat := 0
  got : Nat := 0
  sumW : Nat := 0
  sumU : Nat := 0
  fin : Bool := true
  w0 : Word := 0
  w1 : Word := 0
  deriving DecidableEq, Repr

/-- One step's statistics in the Skim (Table 5.7). -/
structure SkimRec where
  amax : Nat := 0
  under : Nat := 0
  count : Nat := 0
  ovf : Bool := false
  nonfin : Bool := false
  deriving DecidableEq, Repr

/-- An entry of the Skim (Table 5.15): its three registers, history newest first, pending step, and the deliveries
that came during an EXPORT or ADVANCE of its job (R142). -/
structure SkimEnt where
  cfg : Word := 0
  param : Word := 0
  st : Word := 0
  hist : List SkimRec := []
  pend : SkimRec := {}
  next : SkimRec := {}
  deriving DecidableEq, Repr

/-- A delivery held by a speculative task's group (R142). -/
structure Delivery where
  task : Nat
  entry : Nat
  job : Nat
  stat : SkimRec
  deriving DecidableEq, Repr

/-- The Skim beyond its plain registers. -/
structure Skm where
  busy : Bool := false
  /-- Job of the phase in progress, and whether EXPORT and ADVANCE of it are still to be performed. -/
  job : Nat := 0
  doExport : Bool := false
  doAdvance : Bool := false
  /-- The phase in progress includes ADVANCE. -/
  adv : Bool := false
  ents : Map SkimEnt := []
  /-- Bindings: BIND_CFG and BIND_ADDR. -/
  binds : Map (Word × Word) := []
  held : List Delivery := []
  deriving DecidableEq, Repr

/-- What a request of the device is for. -/
inductive ReqKind where
  /-- A source line of a MOVE (R206). -/
  | moveRead
  /-- Destination bytes of a MOVE. -/
  | moveWrite
  /-- The read-back of R207. -/
  | readback
  /-- A contribution to another member's staging or flag word (R297). -/
  | contribute
  /-- A chunk or flag word exchanged with a switch plane (R298). -/
  | exchange
  /-- A multicast or catch-up write (R274, R275). -/
  | mcast
  /-- The word of slot 3 of an ALLREDUCE on another device (R37, R297). -/
  | finite
  /-- A RESOLVE (R268). -/
  | resolve
  deriving DecidableEq, Repr

/-- An outstanding request and its tracking entry (R262): the request with its data in the clear, the task it is for,
the first element and the number of elements or bytes it stands for, whether it has been sent or waits, what it has
gone through, and whether a NACK put it before newer requests (R269). -/
structure Track where
  ord : Nat
  dev : Nat
  k : Packet
  owner : Nat
  kind : ReqKind
  first : Nat := 0
  count : Nat := 0
  /-- 0 held, 1 sent, 2 refused with NO_SLOT (R291). -/
  state : Nat := 0
  port : Nat := 0
  timeouts : Nat := 0
  auth : Nat := 0
  resolves : Nat := 0
  /-- A RESOLVE of it is outstanding. -/
  asking : Bool := false
  deriving DecidableEq, Repr

/-- An entry of the window cache (R268). -/
structure WinEnt where
  dev : Nat
  job : Nat
  base : Nat
  size : Nat
  unit : Nat
  epoch : Nat
  deriving DecidableEq, Repr

/-- A transport connection (R281): next PSN to send, oldest PSN not acknowledged, datagrams kept for retransmission,
packets not yet sent, congestion and peer windows in bytes, bytes acknowledged since the window grew, attempts; next
PSN expected, datagrams since the last acknowledgement, a CE mark to echo. -/
structure Conn where
  opened : Bool := false
  psn : Nat := 0
  una : Nat := 0
  flight : List Datagram := []
  queue : List Packet := []
  cwnd : Nat := 262144
  peerWin : Nat := 262144
  acked : Nat := 0
  attempts : Nat := 0
  failed : Bool := false
  rxOpen : Bool := false
  rxNext : Nat := 0
  since : Nat := 0
  ece : Bool := false
  deriving DecidableEq, Repr

/-- The link keys of a job (R276, R383): the key in force, the one before it and the last tick it is good for, a
staged key and its tick, and the nonce counter. -/
structure LinkKey where
  cur : Option (BitVec 256) := none
  old : Option (BitVec 256) := none
  oldTick : Nat := 0
  staged : Option (BitVec 256 × Nat) := none
  nonce : Nat := 1
  deriving DecidableEq, Repr

/-- A link port beyond its registers (R249-R259). -/
structure Port where
  /-- Table 9.3. -/
  state : Nat := 0
  /-- The training step within RETRAIN; otherwise the state. -/
  step : Nat := 0
  good : Nat := 0
  /-- Lanes that saw signal in DETECT. -/
  signal : Nat := 0
  x4 : Bool := false
  reversed : Bool := false
  mirrored : Bool := false
  polInv : Nat := 0
  laneMap : Word := 0
  peerDev : Nat := 0
  peerPort : Nat := 0
  peerValid : Bool := false
  delay : Nat := 0
  /-- FSEQ of the last DATA frame sent, and of the last one received in order. -/
  fseq : Nat := 0
  rseq : Nat := 0
  /-- Frames not acknowledged, oldest first, and replays in succession without an acknowledgement. -/
  replay : List (Nat × List Byte) := []
  replays : Nat := 0
  /-- Packets that wait for credit or for the port, and those of a multicast's catch-up, which go after them (R275). -/
  tx : List Packet := []
  txLow : List Packet := []
  /-- Body bytes of a packet not yet whole. -/
  rx : List Byte := []
  req : List Packet := []
  resp : List Packet := []
  /-- Whole packets that a receive queue has not taken yet (R194). -/
  held : List Packet := []
  /-- Pointers of the two receive queues (R188, R259). -/
  reqPtr : Ptrs := {}
  respPtr : Ptrs := {}
  freedReq : Nat := 0
  freedResp : Nat := 0
  /-- Words freed since the last CREDIT frame. -/
  owed : Nat := 0
  peerReq : Nat := 0
  peerResp : Nat := 0
  sentReq : Nat := 0
  sentResp : Nat := 0
  /-- Echo samples collected: (round trip − turnaround), in 0.125 ns. -/
  echoes : List Int := []
  fecTick : Nat := 0
  fecCount : Nat := 0
  deriving DecidableEq, Repr

/-- An adder slot as Table 10.9 shows it. -/
structure AddSlot where
  job : Nat
  bucket : Nat
  resc : Bool := false
  prom : Bool := false
  count : Nat := 0
  deriving DecidableEq, Repr

/-- A bucket armed on the device (R289, R296): what its slots hold alike, contributions by chunk and to its flag word,
and, element by element, the exact sum, the sum of magnitudes and the number of the values added (R307). -/
structure Buck where
  job : Nat
  bucket : Nat
  op : Nat
  maxFp32 : Bool
  lift : Nat
  fmt : Nat
  base : Nat
  elems : Nat
  sbase : Nat
  pbase : Nat
  flag : Nat
  /-- The ARM task has reached its commit point. -/
  live : Bool := false
  chunks : Map Nat := []
  flags : Nat := 0
  sums : Map (Num.Val × Num.Val × Nat) := []
  /-- What the 64-bit values added to an element come to, for MAX and AND. -/
  words : Map Nat := []
  deriving DecidableEq, Repr

/-- A reduction check in progress (R307): its task, bucket and chunk within the share. -/
structure RedChk where
  task : Nat
  job : Nat
  bucket : Nat
  chunk : Nat
  deriving DecidableEq, Repr

/-- The link complex beyond its registers (R262-R281, R288-R307). -/
structure Lnk where
  ports : Map Port := []
  track : Map Track := []
  seq : Nat := 0
  ord : Nat := 0
  /-- Most recently used first. -/
  cache : List WinEnt := []
  conns : Map Conn := []
  /-- (JOB, BUCKET) this device sends promoted (R288). -/
  promoted : List (Nat × Nat) := []
  bucks : List Buck := []
  adders : Map AddSlot := []
  /-- ALLREDUCE tasks dispatched since the last sample, samples taken, and the check in progress (R307). -/
  redCount : Nat := 0
  redSamples : Nat := 0
  check : Option RedChk := none
  /-- Members detached in the last use of a group (Table 9.13). -/
  lastDetached : Map Nat := []
  /-- Causes of SLOW_MEMBER notices in force (R309). -/
  slow : List Nat := []
  deriving DecidableEq, Repr

/-- PWR beyond its registers (R313-R329, R335, R336). Frequencies in MHz; the words `cap` to `droop` are the registers as
they stand in effect since the last E4. -/
structure Pwr where
  mclk : Nat := 1000
  fclk : Nat := 1200
  cclk : Nat := 1200
  duty : Nat := 16
  mem : Nat := 100
  /-- The point a pending rise leads to (R326), and whether its rail and PLL have settled. -/
  rise : Option Nat := none
  settled : Bool := false
  /-- The frequency that the MCLK PLL makes, which differs from `mclk` while it glides (R326). -/
  pll : Nat := 1000
  /-- The voltages in mV that VDD_ARR, VDD_FAB and VDD_CORE stand at or move to; 0 while they are the built-in ones (R325,
  R326). -/
  railArr : Nat := 0
  railFab : Nat := 0
  railCore : Nat := 0
  /-- The effective MCLK has stood below 3.0 GHz in the tick in hand (R323). -/
  slow : Bool := true
  /-- Protective halvings in force (R327, R328). -/
  fastHalf : Bool := false
  droopArr : Bool := false
  droopFab : Bool := false
  /-- MCLK dropped to its floor by the divider (CRIT_C, under-voltage) until the next E4. -/
  dropped : Bool := false
  cap : Word := 0x12C
  ceil : Nat := 0x12C
  mode : Word := 2
  floor : Word := 0x1E0405DC
  loop : Word := 0x400640064
  fast : Word := 0x14A
  droop : Word := 0x1000028
  /-- CAP_LIMIT of PWR_STS: a level stands below its top because of the cap. -/
  capLimit : Bool := false
  pEst : Nat := 0
  /-- Raw estimate of the last meter sample's period, in nanojoules (R316). -/
  rawAcc : Nat := 0
  measured : Nat := 0
  k : BitVec 32 := 0x3F800000
  /-- A fast or droop trip occurred in the tick in hand; ticks since the last one. -/
  trip : Bool := false
  sinceTrip : Nat := 64
  /-- Consecutive ticks with every level at its floor (R321). -/
  floorTicks : Nat := 0
  vin : Nat := 0
  iin : Nat := 0
  /-- Die sensors: last reading as an 8-bit pattern, failures in succession. -/
  temps : Map (Nat × Nat) := []
  maxTj : Nat := 0
  inlet : Option Int := none
  outlet : Option Int := none
  thermLimit : Bool := false
  inletHigh : Bool := false
  inletCut : Bool := false
  tjCrit : Bool := false
  /-- The voltage-table record in use: SEQ, and the point lists (MHz, mV) of VDD_ARR, VDD_FAB and VDD_CORE. -/
  vt : Option Nat := none
  vtArr : List (Nat × Nat) := []
  vtFab : List (Nat × Nat) := []
  vtCore : List (Nat × Nat) := []
  vtTrim : Int := 0
  deriving DecidableEq, Repr

/-- A judged clock (R330): passing windows in succession, failing windows in succession, stable. -/
structure Judge where
  passes : Nat := 0
  fails : Nat := 0
  stable : Bool := false
  dev : Int := 0
  deriving DecidableEq, Repr

/-- CLK beyond its registers (R330-R333). PLLs by their bit of PLL_STS. -/
structure Clk where
  plls : Map Judge := []
  ref : Judge := {}
  osc : Judge := {}
  refLost : Bool := false
  hold : Bool := false
  refFail : Bool := false
  trim : Int := 0
  trimLock : Bool := false
  trimLimit : Bool := false
  /-- Oscillator count over the windows since the last trim update, and their number (R333). -/
  oscSum : Nat := 0
  oscWins : Nat := 0
  kHz : Nat := 0
  deriving DecidableEq, Repr

/-- The energy of a closed tick that the meter has not covered to its end, or of the tick in hand (R390): length in ns,
microjoules so far, highest sample power, flags, the activity of each job in slot order (slot, job, compute, memory,
links), and the raw estimate of it in nanojoules (R316). -/
structure TickE where
  num : Nat := 0
  dur : Nat := 0
  e : Nat := 0
  peak : Nat := 0
  low : Bool := false
  fault : Bool := false
  capped : Bool := false
  acts : List (Nat × Nat × Nat × Nat × Nat) := []
  raw : Nat := 0
  /-- The part of a tick after the fail-quiet sequencer has started, which goes to overhead (R391). -/
  rest : Bool := false
  deriving DecidableEq, Repr

/-- A request that runs or has ended (R391, R392). -/
structure Req where
  slot : Nat
  job : Nat
  id : Word
  start : Nat
  last : Option Nat := none
  comp : Nat := 0
  memE : Nat := 0
  link : Nat := 0
  dev : Nat := 0
  peak : Nat := 0
  capTicks : Nat := 0
  low : Bool := false
  fault : Bool := false
  trunc : Bool := false
  calSeq : Nat := 0
  calCount : Nat := 0
  meas : BitVec 128 := 0
  /-- UTC at the end in ms, if set. -/
  time : Option Nat := none
  deriving DecidableEq, Repr

/-- A firkin record kept in MRAM (R395). -/
structure Firkin where
  seq : Nat
  bytes : List Byte
  /-- Its slot of the ring, if it was written there. -/
  ring : Option Nat
  read : Bool
  deriving DecidableEq, Repr

/-- The energy meter, requests and firkin records beyond their registers (R387-R395). -/
structure Mtr where
  /-- What is below 1 microjoule, in units of 10^-22 J (1 nV times 1 nA over 100 microseconds), carried on. -/
  carry : Nat := 0
  total : Nat := 0
  /-- Lifetime energy in kJ (MRAM), and the part of `total` counted into it. -/
  life : Nat := 0
  lifeDone : Nat := 0
  samples : Nat := 0
  valid : Bool := false
  mW : Nat := 0
  low : Bool := false
  fault : Bool := false
  /-- Closed ticks not yet covered, oldest first, and the tick in hand. -/
  ticks : List TickE := []
  cur : TickE := {}
  /-- Nanoseconds of the tick in hand already closed off by fail-quiet, and whether it has been (R391). -/
  cut : Nat := 0
  split : Bool := false
  overhead : Nat := 0
  calSeq : Nat := 0
  /-- Requests staged by OPEN (slot, REQ_ID), slots with CLOSE written, the running and the ended ones. -/
  staged : Map Word := []
  closing : List Nat := []
  runs : List Req := []
  ended : List Req := []
  seq : Nat := 0
  kept : List Firkin := []
  deriving DecidableEq, Repr

/-- A management request (R416): its port, the requester's MAC, its MSG_ID and its bytes. -/
structure MgtReq where
  port : Nat
  src : BitVec 48
  msg : Nat
  data : List Byte
  deriving DecidableEq, Repr

/-- The management ports and sideband beyond their registers (R404, R414-R419). -/
structure Mgt where
  link0 : Bool := false
  link1 : Bool := false
  fec0 : Bool := false
  fec1 : Bool := false
  /-- The partial message of a channel, and its length. -/
  partials : Map (MgtReq × Nat) := []
  /-- Reassembled requests, oldest first, by channel. -/
  held : Map (List MgtReq) := []
  /-- Drivers turned off after a short: 0 TICK_OUT, 1 FAULT, 2 THERM_ALERT, 3 SMB_DAT. -/
  shorts : List Nat := []
  deriving DecidableEq, Repr

/-- The objects that the MRAM store keeps (R386), as plain values: the limited counts, versions and epoch, the keys and the last
accepted command, the records, the slots, the fault history and log, the map-out table, the sequence numbers, the lifetime
energy and the newest firkin records. -/
structure Store where
  owned : Bool := false
  epoch : Nat := 0
  ock : List Byte := []
  counter : Nat := 0
  stored : Option (BitVec 128 × List Byte) := none
  svnCount : Nat := 0
  recalCount : Nat := 0
  ceilCount : Nat := 0
  fwSvn : Nat := 0
  awlSvn : Nat := 0
  ceil : Nat := 0x12C
  keyGen : Nat := 0
  vtRec : Option (List Byte) := none
  calRec : Option (List Byte) := none
  active : Nat := 0
  lastPend : Bool := false
  lastTrial : Bool := false
  undo : List Nat := []
  /-- The DIK, RSK, KTK and OCK, sealed (R372). -/
  keys : List (List Byte) := []
  recSeq : Nat := 0
  faultLog : List (List Byte) := []
  hist : List Hist := []
  mapTab : List MapEnt := []
  opMin : Nat := 0
  lastLockstep : Option Nat := none
  life : Nat := 0
  firkinSeq : Nat := 0
  kept : List Firkin := []
  deriving DecidableEq, Repr

/-- A change record of the journal (R385): the store's content with the change, whether its commit word is written, and
whether its CRC-32 and its HMAC are right. -/
structure JRec where
  value : Store
  bytes : Nat
  committed : Bool := true
  crcOk : Bool := true
  macOk : Bool := true
  deriving DecidableEq, Repr

/-- A half of the MRAM store (R385): the generation in its header, whether header and snapshot verify, the snapshot, and the
change records behind it, oldest first. -/
structure Half where
  gen : Nat := 0
  good : Bool := false
  snap : Store := {}
  recs : List JRec := []
  deriving DecidableEq, Repr

/-- Where a keyed command came from: the doorbell with its buffer's address, or a management port. -/
inductive CmdSrc where
  | door (addr : Nat)
  | mgt (r : MgtReq)
  | direct
  deriving DecidableEq, Repr

/-- The Last's store: ownership, counts, versions, keys, slots, the journal (R369-R386). -/
structure Sec where
  owned : Bool := false
  epoch : Nat := 0
  ock : List Byte := []
  counter : Nat := 0
  /-- MAC and response of the last accepted command (R377). -/
  stored : Option (BitVec 128 × List Byte) := none
  svnCount : Nat := 0
  recalCount : Nat := 0
  ceilCount : Nat := 0
  fwSvn : Nat := 0
  awlSvn : Nat := 0
  /-- A ceiling that takes effect at the next E4 (R384). -/
  ceilNext : Option Nat := none
  /-- Ownership releases so far, which number the RSK and KTK; keys generated so far. -/
  keyGen : Nat := 0
  generated : Nat := 0
  /-- Generation of the XTS keys in the controllers; 0 for none. -/
  xts : Nat := 0
  /-- The wall clock since SET_TIME: nanoseconds since 1970, carried on at each boundary by the length of the closing tick. -/
  time : Option Nat := none
  /-- Replacement voltage-table and calibration records (MRAM). -/
  vtRec : Option (List Byte) := none
  calRec : Option (List Byte) := none
  calOk : Bool := false
  /-- SEQ of the voltage-table record in use since the cold start (R325, R374). -/
  vtUse : Option Nat := none
  /-- Awl packs loaded since the cold start, by PACK_ID: version and digest, as measurement block 11 takes them (R374). -/
  packs : Map (Nat × BitVec 256) := []
  /-- Firmware images written into SPI NOR, by group * 2 + slot (5 for the Last); a slot not listed holds the image the module was
  delivered with (R359, R369). -/
  nor : Map (List Byte) := []
  /-- Active slot of groups 0-4 (bit g) and of the Last (bit 5); groups switched and not yet healthy, with the tick by
  which they must be; the Last's slot pending or on trial. -/
  active : Nat := 0
  trial : Map Nat := []
  lastPend : Bool := false
  lastTrial : Bool := false
  /-- Groups that switch at their switch point. -/
  switching : List Nat := []
  /-- MAPOUT_TAB entries removed at the next cold start. -/
  undo : List Nat := []
  /-- The two halves of the MRAM store, and which is active (R385). -/
  halfA : Half := { good := true }
  halfB : Half := {}
  half : Bool := false
  gen : Nat := 0
  /-- Bytes used in the active half. -/
  used : Nat := 0
  compacting : Bool := false
  /-- Bytes of the changes held until the compaction ends. -/
  heldBytes : Nat := 0
  tamper : Bool := false
  /-- Responses that wait for the compaction (R386). -/
  waiting : List (CmdSrc × List Byte) := []
  /-- The doorbell's command in hand, with its buffer, and the response that waits for the buffer (R231, R397). -/
  door : Option Nat := none
  doorResp : Option (List Byte) := none
  done : Bool := false
  status : Nat := 0
  /-- Map-out commands relayed, not yet answered (Table 13.4). -/
  mapWait : List (CmdSrc × Envelope) := []
  /-- SPDM: the messages exchanged since GET_VERSION, for the transcript, and the state reached. -/
  spdm : List Byte := []
  spdmState : Nat := 0
  deriving DecidableEq, Repr

/-- Power-up, pins and cores (R404-R413). -/
structure Sys where
  /-- VIN has reached 40 V and the always-on rails are good. -/
  powered : Bool := false
  /-- RESET_N is high: the slot it sampled at its rise, whether the ROM's tests pass, and which slots of the Last SPI NOR delivers
  whole (R405, R406). -/
  high : Option (Nat × Bool × BitVec 2) := none
  /-- The module's own reset is released. -/
  released : Bool := false
  /-- BOOT_STS.PHASE (R408). -/
  phase : Nat := 0
  upperOk : Bool := false
  slot : Nat := 0
  /-- FAULT asserted. -/
  fault : Bool := false
  /-- The Last runs (not only its ROM). -/
  lastUp : Bool := false
  cores : Nat := 0
  coresOut : Nat := 0
  /-- Interrupt identities pending in the cores' supervisor-level interrupt files (R412): core, identity. -/
  imsic : List (Nat × Nat) := []
  /-- The same of the machine-level interrupt files. -/
  imsicM : List (Nat × Nat) := []
  /-- Periods of the 100 MHz reference from cold reset to the last boundary (R412). -/
  tickTime : Nat := 0
  deriving DecidableEq, Repr


/-- The state of the device. -/
structure State where
  /-- Commands waiting, first in, first out. -/
  pending : List Instr := []
  /-- Answer of the last register read. -/
  resp : Word := 0
  out : List Out := []
  regs : Map Word := []
  cnt : Map Nat := []
  mem : Mem := {}
  /-- Poisoned 256-byte lines, ascending (R225). -/
  poison : List Nat := []
  /-- Write-epochs by 64 KiB region (R211). -/
  epochs : Map Nat := []
  blk : Map Blk := []
  queues : Map Queue := []
  pools : Map Pool := []
  tasks : List Task := []
  /-- Tasks accepted so far: the number of the next. -/
  nextTask : Nat := 0
  groups : List Group := []
  prov : List ProvLine := []
  /-- Committed lines whose background copy is not done: job, group, line, provisional granule (R65). -/
  drain : List DrainLine := []
  eng : Map Eng := []
  tck : Tck := {}
  crm : Crm := {}
  hbm : Map Hbm := []
  /-- HBM bursts (address / 32) whose stored bits are in error, with the number of byte lanes concerned (R225). -/
  ecc : Map Nat := []
  /-- Words (address / 8) of scratchpad lines, and of HBM lines that their home slices cache, whose bits stored in the Creamery
  are in error, with the number of bits (R225). -/
  cw : Map Nat := []
  /-- Words of the arrays' local stores (address / 8) whose stored bits are in error, with the number of bits (R96). -/
  ls : Map Nat := []
  /-- Upsets that a check finds with an engine's next work: engine, ERR_STS bit, and 64 more for a bit of the RNG page
  (R96, R156, R158). -/
  upset : List (Nat × Nat) := []
  /-- Entries of the seed table that SEED_CHECK finds in error (R160). -/
  seedBad : List Nat := []
  /-- Random blocks generated since the last one checked (R156). -/
  rngBlocks : Nat := 0
  /-- Clock-domain crossings whose pointers stand apart from what has passed, by the block's first page; those not listed
  agree (R16, R191). -/
  cross : Map Ptrs := []
  /-- lpc_map where it differs from the identity (R228). -/
  lpc : Map Nat := []
  ldl : Map Ldl := []
  rel : Rel := {}
  arr : Map Arr := []
  /-- Activity of the tick in hand, by job * 16 + class: 0 arrays, 1 VEs, 2 Churn, 3 Skim, 4 Rennet, 5 Creamery, 6 HBM,
  7 Ladle, 8 adders, 9 links (R316, R390). -/
  act : Map Nat := []
  /-- The job on whose behalf memory is accessed at the moment, 0 for the device itself (the model's own, R390). -/
  actJob : Nat := 0
  /-- Table pairs of the VEs' function units: images by VE * 8 + pair (R135). -/
  tables : Map (List Byte) := []
  layers : Map Layer := []
  skm : Skm := {}
  lnk : Lnk := {}
  /-- Link keys by job (R383). -/
  keys : Map LinkKey := []
  pwr : Pwr := {}
  clk : Clk := {}
  mtr : Mtr := {}
  mgt : Mgt := {}
  sec : Sec := {}
  sys : Sys := {}
  /-- Free values drawn so far (the model's own counter). -/
  free : Nat := 0
  deriving DecidableEq, Repr

/-- The machine right after reset: every field at the value its declaration gives. -/
def State.reset : State := {}

end Sys2Proof.Machine
end

