-- ==== Sys2Proof/Machine/Ops.lean ====
section
/-! DEFINITION. The named operations that every family shares: sparse maps, memory bytes, registers, errors and
interrupts, counters, blocks, the address map. -/

namespace Sys2Proof.Machine

/-! ### Sparse maps -/

/-- The value at a key, if listed. -/
def mfind {α : Type} : Map α → Nat → Option α
  | [], _ => none
  | (k, v) :: m, n => if k = n then some v else mfind m n

/-- The value at a key, or a default. -/
def mget {α : Type} (m : Map α) (n : Nat) (d : α) : α := (mfind m n).getD d

/-- The map with a value put at a key, keys rising. -/
def mput {α : Type} : Map α → Nat → α → Map α
  | [], n, v => [(n, v)]
  | (k, w) :: m, n, v =>
    if n < k then (n, v) :: (k, w) :: m
    else if n = k then (n, v) :: m
    else (k, w) :: mput m n v

/-- The map without a key. -/
def mdel {α : Type} : Map α → Nat → Map α
  | [], _ => []
  | (k, w) :: m, n => if n = k then m else (k, w) :: mdel m n

/-- Every value of a map changed, keys kept. -/
def mmap {α : Type} (f : Nat → α → α) (m : Map α) : Map α := m.map (fun x => (x.1, f x.1 x.2))

/-- An element put before the first that `le` does not put before it. -/
def insertBy {α : Type} (le : α → α → Bool) (x : α) : List α → List α
  | [] => [x]
  | y :: ys => if le x y then x :: y :: ys else y :: insertBy le x ys

/-- A list in the order of `le`; elements that are equal in it keep their order. -/
def sortBy {α : Type} (le : α → α → Bool) : List α → List α
  | [] => []
  | x :: xs => insertBy le x (sortBy le xs)

/-! ### Memory -/

/-- The loss covers the byte at an address. -/
def Lost.covers (x : Lost) (a : Nat) : Bool :=
  match x with
  | .all _ => true
  | .lines _ count lpcs => decide (a < 0x6000000000) && lpcs.contains (a / 256 % count)
  | .zeroed lo hi | .span _ lo hi => decide (lo ≤ a ∧ a < hi)

/-- What the byte reads as from then on. -/
def Lost.value (x : Lost) (a : Nat) : Byte :=
  match x with
  | .all seed => Config.lostByte seed a
  | .lines seed _ _ | .span seed _ _ => Config.lostByte seed a
  | .zeroed _ _ => 0

/-- What a byte reads as that memory does not list: 0 where nothing has been written since the first reset (DESIGN CHOICE,
log 3), and a free value where its content has been lost since (R241, R244). -/
def unlisted : List Lost → Nat → Byte
  | [], _ => 0
  | x :: xs, a => if x.covers a then x.value a else unlisted xs a

/-- The byte listed at an address, or what `d` gives. -/
def cellGet (d : Nat → Byte) : List Host.Cell → Nat → Byte
  | [], a => d a
  | (k, v) :: m, a => if k = a then v else cellGet d m a

/-- One byte written to the listed ones: a byte that reads as an unlisted one is not listed. -/
def cellPut (d : Nat → Byte) : List Host.Cell → Nat → Byte → List Host.Cell
  | [], a, b => if b = d a then [] else [(a, b)]
  | (k, w) :: m, a, b =>
    if a < k then (if b = d a then (k, w) :: m else (a, b) :: (k, w) :: m)
    else if a = k then (if b = d a then m else (a, b) :: m)
    else (k, w) :: cellPut d m a b

/-- Every listed address is above `lo`, addresses rise, and no listed byte reads as an unlisted one. -/
def cellsWf (d : Nat → Byte) : Option Nat → List Host.Cell → Bool
  | _, [] => true
  | lo, (k, w) :: m =>
    (match lo with | none => true | some l => decide (l < k)) && decide (w ≠ d k) && cellsWf d (some k) m

/-- The byte at an address. -/
def memGet (m : Mem) (a : Nat) : Byte := cellGet (unlisted m.lost) m.cells a

/-- Memory with one byte written, in canonical form. -/
def memPut (m : Mem) (a : Nat) (b : Byte) : Mem := { m with cells := cellPut (unlisted m.lost) m.cells a b }

/-- The canonical form of memory: addresses strictly rising, no entry that reads as an unlisted address does. -/
def Memory.wf (m : Mem) : Bool := cellsWf (unlisted m.lost) none m.cells

/-- Content lost: the bytes concerned are listed no more. -/
def memLose (x : Lost) (m : Mem) : Mem :=
  { cells := m.cells.filter (fun c => !x.covers c.1), lost := match x with | .all n => [.all n] | _ => x :: m.lost }

/-- A range written with zeros. -/
def memZero (lo hi : Nat) (m : Mem) : Mem :=
  if m.lost.isEmpty then { m with cells := m.cells.filter (fun c => decide (c.1 < lo ∨ hi ≤ c.1)) } else memLose (.zeroed lo hi) m

/-- Bytes from an address up, `n` of them. -/
def memBytes (m : Mem) (a n : Nat) : List Byte := (List.range n).map (fun i => memGet m (a + i))

/-- Memory with bytes stored from an address up. -/
def memStore : Mem → Nat → List Byte → Mem
  | m, _, [] => m
  | m, a, b :: bs => memStore (memPut m a b) (a + 1) bs

/-- The number little-endian bytes stand for. -/
def leNat : List Byte → Nat
  | [] => 0
  | b :: bs => b.toNat + 256 * leNat bs

/-- `n` little-endian bytes of a number. -/
def toLe : Nat → Nat → List Byte
  | 0, _ => []
  | n + 1, v => BitVec.ofNat 8 v :: toLe n (v / 256)

/-- The eight bytes of a word, little-endian (R36). -/
def wordBytes (w : Word) : List Byte := toLe 8 w.toNat

/-- Bytes of several words. -/
def wordsBytes (ws : List Word) : List Byte := ws.flatMap wordBytes

/-- The word at an address. -/
def memWord (m : Mem) (a : Nat) : Word := word (leNat (memBytes m a 8))

/-- `n` words from an address up. -/
def memWords (m : Mem) (a n : Nat) : List Word := (List.range n).map (fun i => memWord m (a + 8 * i))

/-! ### Blocks and pages (Table 1.5) -/

/-- The row of a block. -/
def blockRow (b : Block) : BlockRow := (blockTable.find? (fun r => r.block = b)).getD ⟨b, 0, 0, 0, 0⟩

/-- The page index of page `sub` of instance `n` (R24). -/
def pageOf (b : Block) (n sub : Nat) : Nat :=
  let r := blockRow b
  r.first + n * r.pages + sub

/-- The block, instance and page within it that a page index belongs to; none for an unassigned page (R25). -/
def pageOwner (page : Nat) : Option (Block × Nat × Nat) :=
  match blockTable.find? (fun r => decide (r.first ≤ page ∧ page < r.first + r.insts * r.pages)) with
  | some r => some (r.block, (page - r.first) / r.pages, (page - r.first) % r.pages)
  | none => none

/-- The first page of the instance that owns a page. -/
def firstPage (page : Nat) : Nat :=
  match pageOwner page with
  | some (b, n, _) => pageOf b n 0
  | none => page

/-- Blocks whose EN resets to 1 (Table 1.9). -/
def enAtReset : Block → Bool
  | .sys | .tck | .pwr | .clk | .sec | .nvs | .mgt | .cbl => true
  | _ => false

/-- A register row stands at this offset. -/
def RegRow.covers (r : RegRow) (sub inst off : Nat) : Bool :=
  decide (r.page = sub ∧ r.off ≤ off ∧ off < r.off + r.count * r.stride ∧ (off - r.off) % r.stride = 0 ∧
    (r.only0 = true → inst = 0))

/-- The register at an offset beyond the head, if one is defined there. -/
def regAt (page off : Nat) : Option RegRow :=
  match pageOwner page with
  | none => none
  | some (b, n, sub) => (regRows b).find? (fun r => r.covers sub n off)

/-- The head row of a page. -/
def headAt (page : Nat) : HeadRow :=
  match pageOwner page with
  | none => ⟨0, false, 0, 0, 0⟩
  | some (b, n, sub) =>
    ((headRows b).find? (fun r => decide (r.page = sub ∧ (r.only0 = true → n = 0)))).getD ⟨sub, false, 0, 0, 0⟩

/-- The reset value of a register whose instances differ (Tables 7.2, 9.x). -/
def resetSpecial (b : Block) (n sub off : Nat) : Option Nat :=
  match b with
  | .tck =>
    -- Q_CFG of command queue c (Table 7.2)
    if sub = 1 ∧ 0x4000 ≤ off ∧ off < 0x8000 ∧ off % 64 = 0 then some (0xA01 + (off - 0x4000) / 64 * 0x4000000) else none
  | .lnk =>
    if sub = 0 ∧ off = 0x200 then some (0x100000000 + (if n < 7 then 0x41 else if n < 15 then 0x42 else 0x47))
    else if sub = 1 ∧ (off = 0x4000 ∨ off = 0x4040) then some (1 * 2 ^ 48 + 12 * 256 + 1)
    else if n = 0 ∧ sub = 2 ∧ 0x1020 ≤ off ∧ off % 32 = 0x10 then some 0x1000000
    else none
  | _ => none

/-- The reset value of the register at an offset of a page (Table 1.6 and the tables of the blocks). -/
def resetOf (page off : Nat) : Word :=
  match pageOwner page with
  | none => 0
  | some (b, n, sub) =>
    if off = 0x10 then word (b2n (enAtReset b))
    else if off = 0x48 then word (if b = .sec ∨ b = .nvs then 2 else 1)
    else if off < 0x200 then 0
    else match resetSpecial b n sub off with
      | some v => word v
      | none => word (((regRows b).find? (fun r => r.covers sub n off)).elim 0 (·.reset))

/-- The key of a register. -/
def regKey (page off : Nat) : Nat := page * 8192 + off / 8

/-- What a register holds. -/
def getReg (s : State) (page off : Nat) : Word := mget s.regs (regKey page off) (resetOf page off)

/-- A register written. -/
def setReg (page off : Nat) (v : Word) (s : State) : State := { s with regs := mput s.regs (regKey page off) v }

/-- A register's fields [hi:lo]. -/
def regFld (s : State) (page off hi lo : Nat) : Nat := fld (getReg s page off) hi lo

/-- One bit of a register. -/
def regBit (s : State) (page off i : Nat) : Bool := bit (getReg s page off) i

/-- A block's state, by its first page. -/
def getBlk (s : State) (page : Nat) : Blk := mget s.blk (firstPage page) {}

def setBlk (page : Nat) (b : Blk) (s : State) : State := { s with blk := mput s.blk (firstPage page) b }

/-! ### Interrupts, errors, counters -/

/-- The low 32 bits of the tick number. -/
def tickLo (s : State) : Nat := s.tck.num % 2 ^ 32

/-- Something put on the device's wires. -/
def emit (o : Out) (s : State) : State := { s with out := s.out ++ [o] }

/-- An interrupt delivered to a target of Table 1.13: 0b11 is not delivered, nor is VECTOR 0 to a core; a core's becomes
pending in its supervisor-level interrupt file (R412). -/
def deliver (target core vector : Nat) (s : State) : State :=
  if target = 3 ∨ (target = 0 ∧ vector = 0) then s
  else if target = 0 then
    emit (.irq target core vector)
      { s with sys := { s.sys with imsic := if s.sys.imsic.contains (core, vector) then s.sys.imsic
                                            else s.sys.imsic ++ [(core, vector)] } }
  else emit (.irq target core vector) s

/-- INT_STS bit `i` of a page is set; an enabled bit is delivered where INT_ROUTE says (Table 1.13). -/
def intSet (page i : Nat) (s : State) : State :=
  let s1 := setReg page 0x38 (setBit (getReg s page 0x38) i true) s
  if bit (getReg s page 0x40) i then
    deliver (regFld s page 0x48 1 0) (regFld s page 0x48 11 8) (regFld s page 0x48 23 16) s1
  else s1

/-- ERR_STS bit `i` of a page is set by an access at `off` (0 for none): captured and signalled unless masked (R28). -/
def raise (page i off : Nat) (s : State) : State :=
  let s1 := setReg page 0x20 (setBit (getReg s page 0x20) i true) s
  if bit (getReg s page 0x28) i then s1 else
  let s2 := if bit (getReg s1 page 0x30) 8 then s1 else
    setReg page 0x30 (word (i + 256 + off * 2 ^ 16 + tickLo s * 2 ^ 32)) s1
  intSet page 0 s2

/-- An error event is handed to the Cobbler or the Last, unless its page routes its interrupt elsewhere (R340). -/
def report (page : Nat) (e : ErrEvent) (s : State) : State :=
  let t := regFld s page 0x48 1 0
  if t = 1 ∨ t = 2 then
    { s with rel := { s.rel with events := s.rel.events ++ [{ e with toLast := decide (t = 2), tick := s.tck.num }] } }
  else s

/-- An event of page `page` kept until it is known whether its step could still be discarded (R346). -/
def reportLate (page : Nat) (e : ErrEvent) (s : State) : State :=
  let t := regFld s page 0x48 1 0
  if t = 1 ∨ t = 2 then
    { s with rel := { s.rel with lateEvs := s.rel.lateEvs ++ [{ e with toLast := decide (t = 2), tick := s.tck.num }] } }
  else s

/-- The events kept for a job go to the Cobbler, with LATE as it has come out (R346). -/
def releaseLate (job : Nat) (late : Bool) (s : State) : State :=
  { s with rel := { s.rel with
      events := s.rel.events ++ (s.rel.lateEvs.filter (fun e => e.job == job)).map (fun e => { e with late := late }),
      lateEvs := s.rel.lateEvs.filter (fun e => e.job != job) } }

/-- An error that is an event of Table 12.1: its bit is raised and, unless masked, a record is due (R28). An engine check's
LOCUS is its bit (Table 12.3). -/
def raiseEv (page i off : Nat) (e : ErrEvent) (s : State) : State :=
  let s1 := raise page i off s
  if bit (getReg s page 0x28) i then s1
  else report page { e with errBit := i, locus := if e.kind = 5 then i else e.locus } s1

/-- An event of a page's block: class and kind (Tables 12.1, 12.3), and the rest 0. -/
def mkEv (page cls kind : Nat) : ErrEvent :=
  let o := (pageOwner page).getD (.sys, 0, 0)
  { code := (blockRow o.1).code, inst := o.2.1, unit := 0, kind := kind, cls := cls, errBit := 0, locus := 0, job := 0,
    status := 0, addr := 0, detail := 0, tick := 0, toLast := false, late := false }

/-- Counter `i` of event set `set` of a page advances by `n`, while that set is shown and the counters are not frozen
(Table 1.14). -/
def bump (page set i n : Nat) (s : State) : State :=
  let sel := getReg s page 0x50
  if fld sel 7 0 = set ∧ bit sel 8 = false then
    { s with cnt := mput s.cnt (page * 32 + i) ((mget s.cnt (page * 32 + i) 0 + n) % 2 ^ 64) }
  else s

/-- Activity counted for a job (R316, R390). -/
def addAct (job cls n : Nat) (s : State) : State :=
  { s with act := mput s.act (job * 16 + cls) (mget s.act (job * 16 + cls) 0 + n) }

/-- Something done on a job's behalf: the memory accesses in it are that job's activity (R390). -/
def forJob (job : Nat) (f : State → State) (s : State) : State := { f { s with actJob := job } with actJob := s.actJob }

/-! ### The device number and the local address map -/

/-- SYS.DEV_ID. -/
def devId (s : State) : Word := getReg s 0 0x200

/-- The address is the device's own (R18). -/
def isLocal (s : State) (a : Nat) : Bool := decide (a / 2 ^ 50 = fld (devId s) 13 0)

/-- The local part of a global address. -/
def localPart (a : Nat) : Nat := a % 2 ^ 50

/-- A window of Table 1.4; each array's and each VE's store is a window of its own (R20). -/
inductive Win where
  | hbm
  | scr
  | arr (n : Nat)
  | ve (n : Nat)
  | ctrl
  | core
  | none
  deriving DecidableEq, Repr

/-- The window a local address lies in. -/
def winOf (a : Nat) : Win :=
  if a < 0x6000000000 then .hbm
  else if 0x100000000000 ≤ a ∧ a < 0x100800000000 then .scr
  else if 0x180000000000 ≤ a ∧ a < 0x180040000000 then .arr ((a - 0x180000000000) / 0x10000000)
  else if 0x180040000000 ≤ a ∧ a < 0x180060000000 then .ve ((a - 0x180040000000) / 0x2000000)
  else if 0x200000000000 ≤ a ∧ a < 0x200010000000 then .ctrl
  else if 0x300000000000 ≤ a ∧ a < 0x300001000000 then .core
  else .none

/-- Logical pseudo-channels in use: 512 - SPARE (R228). -/
def lpcCount (s : State) : Nat := 512 - regFld s (pageOf .hbm 0 0) 0x230 4 0

/-- The end of the mapped part of the HBM window (R228). -/
def hbmEnd (s : State) : Nat := lpcCount s * 0x30000000

/-- The end of the mapped part of the scratchpad window (R21, R218). -/
def scrEnd (s : State) : Nat := 0x100000000000 + (if s.crm.normal then s.crm.sp * 0x80000000 else 0)

/-- A local address is mapped memory: HBM, scratchpad or a local store (R20, R21). -/
def mappedMem (s : State) (a : Nat) : Bool :=
  match winOf a with
  | .hbm => decide (a < hbmEnd s)
  | .scr => decide (a < scrEnd s)
  | .arr _ | .ve _ => true
  | _ => false

/-- The line of an address: 256 bytes. -/
def lineOf (a : Nat) : Nat := a / 256

/-- Exclusive or of the `n` lowest 6-bit groups (R219, R220). -/
def fold6 : Nat → Nat → Nat
  | 0, _ => 0
  | n + 1, l => Nat.xor (l % 64) (fold6 n (l / 64))

/-- The slice is in service. -/
def sliceIn (s : State) (n : Nat) : Bool := !(getBlk s (pageOf .crm n 0)).mappedOut

/-- The next slice in service in ascending order from `n`, modulo 64 (R220). -/
def nextSlice (s : State) : Nat → Nat → Nat
  | 0, n => n % 64
  | k + 1, n => if sliceIn s (n % 64) then n % 64 else nextSlice s k (n + 1)

/-- The home slice of an HBM line (R220). -/
def homeSlice (s : State) (line : Nat) : Nat := nextSlice s 63 (fold6 6 line)

/-- The slice of a scratchpad address (R219). -/
def scrSlice (a : Nat) : Nat := fold6 5 ((a - 0x100000000000) / 256)

def getHbm (s : State) (n : Nat) : Hbm := mget s.hbm n {}

def setHbm (n : Nat) (h : Hbm) (s : State) : State := { s with hbm := mput s.hbm n h }

/-- The line within its logical pseudo-channel (R228). -/
def localLine (s : State) (a : Nat) : Nat := lineOf a / lpcCount s

/-- The bank of an HBM address: bank group in bits 2-0, bank in bits 4-3 (R228). -/
def bankOf (s : State) (a : Nat) : Nat := localLine s a % 32

/-- The physical pseudo-channel of a logical one, by lpc_map. -/
def lpcMap (s : State) (l : Nat) : Nat := mget s.lpc l l

/-- The physical pseudo-channel that serves an HBM address (R228): while its pseudo-channel is being replaced, the spare
for the lines below the copy position (R242). -/
def physPc (s : State) (a : Nat) : Nat :=
  let p := lpcMap s (lineOf a % lpcCount s)
  let h := getHbm s (p % 8)
  if h.copyBusy && h.copySrc == p / 8 && decide (localLine s a < h.copyLines) then h.copyDst else p

/-- The stack that holds an HBM address (R228). -/
def stackOf (s : State) (a : Nat) : Nat := physPc s a % 8

/-- The channel and the pseudo-channel within it that hold an HBM address (R228). -/
def channelOf (s : State) (a : Nat) : Nat × Nat := (physPc s a / 8 / 2, physPc s a / 8 % 2)

/-- The slice that serves line `off` of granule `g` of slice `m`: `m` itself, or once the granule is re-homed its host; a
slice whose granules are being copied goes on serving the lines not yet copied (R227). -/
def servesGran (s : State) (m g : Nat) (prov : Bool) (off : Nat) : Nat :=
  let host := ((s.crm.hosting.find? (fun h => h.ownerSlice == m && h.ownerGranule == g && h.prov == prov)).map (·.slice)).getD m
  match s.crm.copying.find? (fun x => x.2.contains (m, g, prov)) with
  | some (n, gs) => if gs.idxOf (m, g, prov) * 131072 + off < mget s.crm.pos n 0 then host else n
  | none => host

/-- The slice that serves a scratchpad address (R219, R227). -/
def scrServes (s : State) (a : Nat) : Nat :=
  let l := (a - 0x100000000000) / 256 / 64
  servesGran s (scrSlice a) (l / 131072) false (l % 131072)

/-- The slice on which a provisional line is counted: that of its granule, or the host of a granule copied whole (R223). -/
def granSlice (s : State) (p : Nat) : Nat := servesGran s (p / 16) (p % 16) true 131071

/-! ### Engines, tasks -/

/-- The number of an engine: array units 0-3 whole and 4-19 by quadrant, VEs 32-47, Churn 48, Ladle 56-63 as in Table
6.1, and the reduction lanes 64-79. -/
def engNo : Engine → Nat
  | .whole n => n.val
  | .quad n q => 4 + 4 * n.val + q.val
  | .ve n => 0x20 + n.val
  | .churn => 0x30
  | .ladle n => 0x38 + n.val
  | .lane n => 0x80 + n.val

def getEng (s : State) (e : Nat) : Eng := mget s.eng e {}

def setEng (e : Nat) (v : Eng) (s : State) : State := { s with eng := mput s.eng e v }

/-- A task by its number. -/
def findTask (s : State) (id : Nat) : Option Task := s.tasks.find? (fun t => t.id == id)

/-- The task list with one task replaced. -/
def putTask (t : Task) (s : State) : State :=
  { s with tasks := s.tasks.map (fun u => if u.id = t.id then t else u) }

/-- A task leaves the list. -/
def dropTask (id : Nat) (s : State) : State := { s with tasks := s.tasks.filter (fun u => u.id ≠ id) }

def getQueue (s : State) (q : Nat) : Queue := mget s.queues q {}

def setQueue (q : Nat) (v : Queue) (s : State) : State := { s with queues := mput s.queues q v }

def getPool (s : State) (p : Nat) : Pool := mget s.pools p {}

def setPool (p : Nat) (v : Pool) (s : State) : State := { s with pools := mput s.pools p v }

def getLdl (s : State) (n : Nat) : Ldl := mget s.ldl n {}

def setLdl (n : Nat) (v : Ldl) (s : State) : State := { s with ldl := mput s.ldl n v }

def getSlot (s : State) (n : Nat) : JobSlot := mget s.tck.slots n {}

def setSlot (n : Nat) (v : JobSlot) (s : State) : State :=
  { s with tck := { s.tck with slots := mput s.tck.slots n v } }

/-- A descriptor word. -/
def Task.w (t : Task) (i : Nat) : Word := t.desc.getD i 0

def Task.cls (t : Task) : Nat := fld (t.w 0) 11 8
def Task.job (t : Task) : Nat := fld (t.w 0) 31 16
def Task.op (t : Task) : Nat := fld (t.w 0) 47 32
def Task.spec (t : Task) : Bool := bit (t.w 0) 48
def Task.fence (t : Task) : Bool := bit (t.w 0) 49
def Task.notify (t : Task) : Bool := bit (t.w 0) 50
def Task.tag (t : Task) : Nat := fld (t.w 1) 31 0
def Task.gid (t : Task) : Nat := fld (t.w 1) 47 32
def Task.bound (t : Task) : Nat := fld (t.w 2) 31 0
def Task.units (t : Task) : Nat := fld (t.w 2) 55 32
def Task.completion (t : Task) : Nat := (t.w 3).toNat
/-- The two words of operand slot `i` (Table 2.4). -/
def Task.sl0 (t : Task) (i : Nat) : Word := t.w (8 + 2 * i)
def Task.sl1 (t : Task) (i : Nat) : Word := t.w (9 + 2 * i)
def Task.role (t : Task) (i : Nat) : Nat := fld (t.sl1 i) 33 32
def Task.source (t : Task) (i : Nat) : Nat := fld (t.sl1 i) 35 34
def Task.push (t : Task) (i : Nat) : Bool := bit (t.sl1 i) 36
def Task.rel (t : Task) (i : Nat) : Bool := bit (t.sl1 i) 37
def Task.lace (t : Task) (i : Nat) : Nat := fld (t.sl1 i) 49 38
def Task.pushLace (t : Task) (i : Nat) : Nat := fld (t.sl1 i) 61 50
/-- The word of tensor descriptor `i`. -/
def Task.tdw (t : Task) (i j : Nat) : Word := (t.td.getD i []).getD j 0

/-- A new free value: the next number of the run. -/
def draw (s : State) : Nat × State := (s.free, { s with free := s.free + 1 })

/-- An error whose event's W8 the spec does not state, a syndrome or the capture register of a block that has none: a free value
(Table 12.3; DESIGN CHOICE, log 98). -/
def raiseFree (page i off : Nat) (e : ErrEvent) (s : State) : State :=
  let r := draw s
  raiseEv page i off { e with detail := (Config.freeWord r.1).toNat } r.2

/-- The slot of an open or closing job. -/
def slotOfJob (s : State) (job : Nat) : Option Nat :=
  (List.range 32).find? (fun i => let j := getSlot s i; (j.active || j.closing) && fld j.w0 15 0 == job)

/-- The job is open (R66, R167): JOB 0 always is. -/
def jobOpen (s : State) (job : Nat) : Bool :=
  job == 0 || (List.range 32).any (fun i => let j := getSlot s i; j.active && fld j.w0 15 0 == job)

/-! ### Blocks at work -/

/-- The engine holds dispatched tasks beyond its contexts. -/
def engRuns (s : State) (e : Nat) : Bool :=
  let g := getEng s e
  g.running.isSome || g.further.isSome || !g.queue.isEmpty || !g.active.isEmpty || !g.shadow.isEmpty

/-- The engine holds work. -/
def engBusy (s : State) (e : Nat) : Bool := engRuns s e || !(getEng s e).ctx.isEmpty

/-- The engines of an array: whole, and by quadrant. -/
def arrEngines (n : Nat) : List Nat := n :: (List.range 4).map (fun q => 4 + 4 * n + q)

/-- BLK_STS.WORK of the block that owns a page (Table 1.10; R425 for TCK). -/
def work (s : State) (page : Nat) : Bool :=
  match pageOwner page with
  | some (.tck, _, _) =>
    (List.range 32).any (fun i => let j := getSlot s i; j.active || j.closing) ||
    (List.range 256).any (fun c => !(getQueue s c).items.isEmpty) || s.tasks.any (fun t => t.phase != .held && t.direct.isNone) ||
    s.tck.abortBusy
  | some (.arr, n, _) =>
    -- a suspended context is no work (R72, R97); a block that waits for the epilogue is
    (arrEngines n).any (engRuns s) || s.tasks.any (fun t => (arrEngines n).contains t.eng && !t.blocks.isEmpty)
  | some (.ve, n, _) => engBusy s (0x20 + n)
  | some (.chn, _, _) => engBusy s 0x30
  | some (.ldl, n, _) =>
    engBusy s (0x38 + n) || (getLdl s n).active.any (fun c => c.2.busy) || (getLdl s n).shadow.any (fun c => c.2.busy) ||
    (getLdl s n).recs.any (fun r => r.2.refetching)
  | some (.skm, _, _) => s.skm.busy
  | some (.hbm, n, _) =>
    (getHbm s n).marginBusy || (getHbm s n).copyBusy || (getHbm s n).state == 1 || s.lnk.adders.any (fun x => x.1 / 4096 == 64 + n)
  | some (.crm, n, _) =>
    (mfind s.crm.copying n).isSome || (n == 0 && s.crm.busy) || s.prov.any (fun p => granSlice s p.gran == n) ||
    s.drain.any (fun d => granSlice s d.gran == n) || s.lnk.adders.any (fun x => x.1 / 4096 == n)
  | some (.lnk, n, _) =>
    let x := mget s.lnk.ports n {}
    !x.tx.isEmpty || !x.replay.isEmpty || !x.req.isEmpty || !x.resp.isEmpty || (n == 0 && !s.lnk.track.isEmpty)
  | some (.pwr, _, _) => !s.mtr.staged.isEmpty || !s.mtr.runs.isEmpty || !s.mtr.ended.isEmpty
  | some (.stn, _, _) => s.rel.checking || s.lnk.check.isSome
  | some (.sec, _, _) | some (.nvs, _, _) => s.sec.compacting || s.sec.door.isSome || !s.sec.mapWait.isEmpty
  | some (.mgt, _, _) => s.sec.door.isSome || s.mgt.held.any (fun x => !x.2.isEmpty)
  | some (.cbl, _, _) => s.rel.mapBusy
  | _ => false

/-- BLK_CTL.EN of the block that owns a page. -/
def enabled (s : State) (page : Nat) : Bool := regBit s (firstPage page) 0x10 0

/-- BLK_STS.EN_ACK (R32): EN taken into effect, and kept while admitted work runs on. -/
def enAck (s : State) (page : Nat) : Bool :=
  (getBlk s page).ready && !(getBlk s page).rstBusy && (enabled s page || work s page)

/-- The block takes new work: EN_ACK with EN set (R32). -/
def takesWork (s : State) (page : Nat) : Bool := enAck s page && enabled s page && !(getBlk s page).mappedOut

/-- The block takes the accesses that come to it: EN_ACK with EN set (R32). A slice mapped out serves the lines not yet
copied from it (R227). -/
def serves (s : State) (page : Nat) : Bool := enAck s page && enabled s page

end Sys2Proof.Machine
end

