-- ==== Sys2Proof/Machine/Memory.lean ====
section
/-! DEFINITION. Memory as the engines see it: which accesses go, wait or fault (R22, R231), the Creamery's cache tags
(R220-R222), poisoned lines (R225, R226), provisional lines (R63, R223), write-epochs and the marks of prefetch
records (R211, R212, R214). -/

namespace Sys2Proof.Machine

/-- What an access to a local address meets. -/
inductive Acc where
  | ok
  /-- It waits (R218, R231). -/
  | wait
  /-- It is not performed (R22). -/
  | fault
  deriving DecidableEq, Repr

/-- The state of an access to a local memory address (R20-R22, R218, R231). -/
def access (s : State) (a : Nat) : Acc :=
  match winOf a with
  | .hbm =>
    if s.crm.busy then .wait
    else if ¬ a < hbmEnd s then .fault
    else if serves s (pageOf .crm (homeSlice s (lineOf a)) 0) = false then .wait
    else match (getHbm s (stackOf s a)).state with
      | 2 => if serves s (pageOf .hbm (stackOf s a) 0) then .ok else .wait
      | 1 | 3 => .wait
      | _ => .fault
  | .scr =>
    if s.crm.busy then .wait
    else if ¬ a < scrEnd s then .fault
    else if serves s (pageOf .crm (scrServes s a) 0) = false then .wait
    else .ok
  | .arr _ | .ve _ => .ok
  | _ => .fault

/-- The lines that `len` bytes from `a` touch. -/
def linesOf (a len : Nat) : List Nat :=
  if len = 0 then [] else (List.range (lineOf (a + len - 1) + 1 - lineOf a)).map (fun i => lineOf a + i)

/-- What a list of reads meets before any is made. -/
inductive Need where
  | ok
  | wait
  | fault (a : Nat)
  | poison (a : Nat)
  deriving DecidableEq, Repr

/-- Cache granules of a slice in the mode in effect, less those given to hosting (SLICE_STS, R227). -/
def cacheGran (s : State) (slice : Nat) : Nat :=
  if sliceIn s slice then
    (if s.crm.normal then 14 - s.crm.sp else 14) - (s.crm.hosting.filter (fun h => h.slice == slice)).length
  else 0

/-- The key of the set in which a line lies within its home slice, and the ways of that set (R220). -/
def setOf (s : State) (line : Nat) : Nat × List Way :=
  let sl := homeSlice s line
  let key := sl * 2 ^ 20 + line / 64 % (8192 * cacheGran s sl)
  (key, if cacheGran s sl = 0 then [] else mget s.crm.sets key [])

/-- The cache holds a copy of the line. -/
def cached (s : State) (line : Nat) : Bool := (setOf s line).2.any (fun w => w.line == line)

/-- A read of the line from HBM meets an error that its check bits cannot correct: more than one byte lane of a 32-byte
burst (R225). -/
def eccFails (s : State) (line : Nat) : Bool :=
  decide (line < 0x60000000) && !cached s line && s.ecc.any (fun x => x.1 / 8 == line && decide (2 ≤ x.2))

/-- A slice holds the line: a scratchpad line, or an HBM line that its home slice caches. -/
def sliceHolds (s : State) (line : Nat) : Bool :=
  match winOf (line * 256) with
  | .scr => true
  | .hbm => cached s line
  | _ => false

/-- The slice that serves an address. -/
def sliceOf (s : State) (a : Nat) : Nat :=
  match winOf a with
  | .scr => scrServes s a
  | _ => homeSlice s (lineOf a)

/-- The granule that holds an address of a slice: a scratchpad granule, or a cache granule. -/
def granuleOf (s : State) (slice a : Nat) : Nat :=
  match winOf a with
  | .scr => (a - 0x100000000000) / 0x80000000
  | _ => (if s.crm.normal then s.crm.sp else 0) + lineOf a / 64 % (8192 * max 1 (cacheGran s slice)) / 8192

/-- A read of the line from its slice meets a word that SECDED cannot correct: more than one bit of it (R225). -/
def cwFails (s : State) (line : Nat) : Bool := s.cw.any (fun x => x.1 / 32 == line && decide (2 ≤ x.2)) && sliceHolds s line

/-- A read of the line returns poison (R225, R226). -/
def poisoned (s : State) (line : Nat) : Bool := s.poison.contains line || eccFails s line || cwFails s line

/-- One line of an access. -/
def needLine (s : State) (read : Bool) (line : Nat) : Need :=
  match access s (line * 256) with
  | .wait => .wait
  | .fault => .fault (line * 256)
  | .ok => if read && poisoned s line then .poison (line * 256) else .ok

/-- The first obstacle of several lines. -/
def needLines (s : State) (read : Bool) : List Nat → Need
  | [] => .ok
  | l :: ls => match needLine s read l with
    | .ok => needLines s read ls
    | n => n

/-- The word at `w * 8` lies in a span. -/
def wordIn (a n w : Nat) : Bool := decide (a < w * 8 + 8 ∧ w * 8 < a + n)

/-- The first word of a span, in an array's local store, whose errors its check bits cannot correct: more than one bit of
64 (R96). -/
def lsBad (s : State) (a n : Nat) : Option Nat :=
  (s.ls.find? (fun x => decide (2 ≤ x.2) && wordIn a n x.1)).map (fun x => x.1 * 8)

/-- The lowest byte of a span that is not accessible. -/
def spanFault (s : State) (a n : Nat) : Option Nat :=
  ((linesOf a n).find? (fun l => access s (l * 256) == .fault)).map (fun l => max a (l * 256))

/-- The lowest byte of several spans that is not accessible (R55); `d` where all are. -/
def lowestFault (s : State) (rs : List (Nat × Nat)) (d : Nat) : Nat :=
  ((rs.filterMap (fun x => spanFault s x.1 x.2)).min?).getD d

/-- The first obstacle of several spans; a fault names the lowest address of theirs that is not accessible. -/
def needSpans (s : State) (read : Bool) : List (Nat × Nat) → Need
  | [] => .ok
  | (a, n) :: rs => match needLines s read (linesOf a n) with
    | .ok => match (if read then lsBad s a n else none) with
      | some w => .poison w
      | none => needSpans s read rs
    | .fault x => .fault (lowestFault s ((a, n) :: rs) x)
    | x => x

/-! ### The cache (R220-R222) -/

/-- Initiator class of DECIDE flag reads and Skim records, and of drains, copies and scrubbing: Table 8.5 gives them no
hint, so in hinted mode they act as STREAM (DESIGN CHOICE, log 95). -/
def tckClass : Nat := 16
def drainClass : Nat := 17

/-- The bandwidth class of a request by its initiator class (Table 8.3); the link complex's own reads and writes are of C2 like
the accesses that arrive (DESIGN CHOICE, log 135). -/
def bwClass (cls : Nat) (write : Bool) : Nat :=
  if cls ≤ 2 ∨ cls = tckClass then 0
  else if cls = 3 ∨ cls = drainClass then 3
  else if cls = 14 then (if write then 1 else 0)
  else if cls = 15 then 2
  else 1

/-- Bytes moved to or from HBM for a request, counted by its class (R233, CNT0-CNT3 of page 0) and as activity of the job it is
for (R390). -/
def hbmMove (cls line : Nat) (write : Bool) (n : Nat) (s : State) : State :=
  let k := stackOf s (line * 256)
  addAct s.actJob 6 n <| bump (pageOf .hbm k 0) 0 (bwClass cls write) n
    (if (getHbm s k).tracked then s else setHbm k { getHbm s k with tracked := true } s)

/-- Bursts of a line with errors within one byte lane are corrected as they are read (R225). -/
def eccCorrect (line : Nat) (s : State) : State :=
  let p := physPc s (line * 256)
  let n := ((s.ecc.filter (fun x => x.1 / 8 == line && x.2 == 1)).map (·.1)).length
  if n = 0 then s else
  let page := pageOf .hbm (p % 8) 2
  let h := getHbm s (p % 8)
  let s1 := bump page 0 0 n (setReg page 0x200 (word (line * 256))
    (setHbm (p % 8) { h with corrected := mput h.corrected (p / 8) (mget h.corrected (p / 8) 0 + n) } s))
  raiseFree page 8 0 { mkEv page 0 1 with unit := p / 8, locus := nfld (line * 256) 34 3, addr := line * 256 } s1

/-- Bytes of a line read from HBM. -/
def hbmFetch (cls line n : Nat) (s : State) : State := eccCorrect line (hbmMove cls line false n s)

/-- Words that no slice holds any more stand in error no more: the line has left its cache. -/
def pruneCw (s : State) : State := { s with cw := s.cw.filter (fun x => sliceHolds s (x.1 / 32)) }

/-- The event of a word of a slice: UNIT its granule, LOCUS and address its place (Table 12.3). -/
def wordEv (s : State) (slice a cls kind : Nat) : ErrEvent :=
  { mkEv (pageOf .crm slice 0) cls kind with unit := granuleOf s slice a, locus := nfld a 34 3, addr := a }

/-- A word of slice `n` at `a` has been corrected and rewritten: CE and CE_ADDR (R225). -/
def wordFixed (n a : Nat) (s : State) : State :=
  let page := pageOf .crm n 0
  raiseFree page 9 0 (wordEv s n a 0 1)
    (bump page 0 13 1 (setReg page 0x290 (word a) { s with cw := s.cw.filter (fun x => x.1 != a / 8) }))

/-- A word of slice `n` at `a` cannot be corrected: its line is poisoned, UE and UE_ADDR (R225). -/
def wordLost (n a : Nat) (s : State) : State :=
  let page := pageOf .crm n 0
  let line := lineOf a
  raiseFree page 10 0 (wordEv s n a 1 2)
    (bump page 0 14 1 (setReg page 0x298 (word (line * 256))
      { s with poison := if s.poison.contains line then s.poison else sortBy (· ≤ ·) (line :: s.poison),
               cw := s.cw.filter (fun x => x.1 != a / 8) }))

/-- The words of a line with one bit in error that lie in a span are corrected as they are read (R225). -/
def cwCorrect (line a n : Nat) (s : State) : State :=
  if sliceHolds s line = false then s else
  (s.cw.filter (fun x => x.1 / 32 == line && x.2 == 1 && wordIn a n x.1)).foldl
    (fun u x => wordFixed (sliceOf u (line * 256)) (x.1 * 8) u) s

/-- The words of a line that cannot be corrected poison it (R225). -/
def cwPoison (line : Nat) (s : State) : State :=
  if sliceHolds s line = false then s else
  (s.cw.filter (fun x => x.1 / 32 == line && decide (2 ≤ x.2))).foldl (fun u x => wordLost (sliceOf u (line * 256)) (x.1 * 8) u) s

/-- The hint of an initiator class (R222); normal mode acts as plain caching, coded 4. -/
def hintOf (s : State) (cls : Nat) : Nat :=
  if s.crm.normal then 4 else regFld s (pageOf .crm 0 0) 0x210 (2 * cls + 1) (2 * cls)

/-- KEEP_WAYS (Table 8.5): 0 acts as 1, above 16 acts as 16. -/
def keepWays (s : State) : Nat := min 16 (max 1 (regFld s (pageOf .crm 0 0) 0x218 4 0))

/-- The ways without the last that satisfies `p`. -/
def dropLast (p : Way → Bool) (ws : List Way) : List Way := (ws.reverse.eraseP p).reverse

/-- A line allocated in a set, most recently used first, with the replacement rule of R220 and R221. -/
def allocate (limit : Nat) (line : Nat) (keep : Bool) (ws : List Way) : List Way :=
  let keeps := (ws.filter (·.keep)).length
  let full := decide (16 ≤ ws.length)
  let room :=
    if keep && decide (limit ≤ keeps) then dropLast (·.keep) ws
    else if !full then ws
    else if keeps = ws.length then dropLast (·.keep) ws
    else dropLast (fun w => !w.keep) ws
  ⟨line, keep⟩ :: room

/-- The effect of one access of `n` bytes to an HBM line on the tags of its home slice, on its counters and on HBM: a
write goes through, a read that misses fetches its bytes, or the whole line when it allocates it (R220, R221). A KEEP read
that hits an unmarked line of a set at KEEP_WAYS leaves it unmarked (DESIGN CHOICE, log 81). -/
def cacheTouch (cls line : Nat) (write : Bool) (n : Nat) (s : State) : State :=
  let sl := homeSlice s line
  let s0 := addAct s.actJob 5 n (if write then hbmMove cls line true n s else s)
  let fetch (k : Nat) (t : State) : State := if write then t else hbmFetch cls line k t
  if cacheGran s sl = 0 then fetch n s0 else
  let key := (setOf s line).1
  let ws := (setOf s line).2
  let h := hintOf s cls
  let plain := decide (h = 4)
  let keep := decide (h = 1)
  let page := pageOf .crm sl 0
  let put (x : List Way) (t : State) : State := { t with crm := { t.crm with sets := mput t.crm.sets key x } }
  match ws.find? (fun w => w.line == line) with
  | some w =>
    let s1 := bump page 0 (if write then 2 else 0) 1 s0
    let rest := ws.filter (fun x => x.line != line)
    if plain || (keep && write) then put (w :: rest) s1
    else if keep then
      let k := w.keep || decide ((ws.filter (·.keep)).length < keepWays s)
      put (⟨line, k⟩ :: rest) s1
    else if h = 2 ∧ write = false then pruneCw (put rest (bump page 0 7 1 s1))
    else s1
  | none =>
    let s1 := bump page 0 (if write then 3 else 1) 1 s0
    if (plain || keep) && (!write || decide (n = 256)) then
      let x := allocate (keepWays s) line keep ws
      let s2 := bump page 0 4 1 (fetch 256 s1)
      let s3 := if x.length ≤ ws.length then bump page 0 5 1 s2 else s2
      let s4 := if (x.filter (·.keep)).length ≤ (ws.filter (·.keep)).length ∧ keep then bump page 0 6 1 s3 else s3
      pruneCw (put x s4)
    else fetch n s1

/-- The home slice's copy of a line is invalidated (R220). -/
def dropLine (line : Nat) (s : State) : State :=
  let x := setOf s line
  if x.2.any (fun w => w.line == line) then
    pruneCw { s with crm := { s.crm with sets := mput s.crm.sets x.1 (x.2.filter (fun w => w.line != line)) } } else s

/-- Keep marks beyond KEEP_WAYS taken from the least recently used keep lines of a set (R221). -/
def trimKeeps : Nat → List Way → List Way
  | _, [] => []
  | 0, w :: ws => { w with keep := false } :: trimKeeps 0 ws
  | k + 1, w :: ws => if w.keep then w :: trimKeeps k ws else w :: trimKeeps (k + 1) ws

/-! ### Epochs and prefetch records (R211-R214) -/

/-- A byte range touches the 64 KiB regions of another. -/
def regionsMeet (lo hi lo' hi' : Nat) : Bool := decide (lo / 65536 ≤ hi' / 65536 ∧ lo' / 65536 ≤ hi / 65536)

/-- Byte ranges overlap. -/
def overlap (lo hi lo' hi' : Nat) : Bool := decide (lo ≤ hi' ∧ lo' ≤ hi)

/-- The lowest and highest byte a MOVE task reads: its data and, when scaled, its scale array (R212). -/
def Task.srcExtent (t : Task) : Nat × Nat := ((t.cap.getD 0 0).toNat, (t.cap.getD 1 0).toNat)

/-- An epoch advance over `[lo, hi]`: records and running prefetches whose source it touches are marked (R212). -/
def epochAdvance (lo hi : Nat) (s : State) : State :=
  match winOf lo with
  | .hbm | .scr =>
    let regs := (List.range (hi / 65536 + 1 - lo / 65536)).map (fun i => lo / 65536 + i)
    let s1 := { s with epochs := regs.foldl (fun m r => mput m r (mget m r 0 + 1)) s.epochs }
    let mark (_ : Nat) (r : PfRec) : PfRec := if regionsMeet lo hi r.srcLo r.srcHi then { r with changed := true } else r
    let s2 : State := { s1 with ldl := mmap (fun _ l => { l with recs := mmap mark l.recs }) s1.ldl }
    let run (t : Task) : Task :=
      if t.cls = 5 ∧ t.startTick.isSome = true ∧ bit (t.w 24) 2 = true ∧
        regionsMeet lo hi t.srcExtent.1 t.srcExtent.2 = true
      then { t with pfChanged := true } else t
    { s2 with tasks := s2.tasks.map run }
  | _ => s

/-- A write lands in `[lo, hi]`: the prefetch records whose destination it meets are retired, but not by their own
refetch (R214). -/
def retireOn (lo hi : Nat) (self : Option (Nat × Nat)) (s : State) : State :=
  let gone (n : Nat) (x : Nat × PfRec) : Bool :=
    overlap lo hi x.2.dstLo x.2.dstHi && !decide (self = some (n, x.1))
  let count (t : State) (x : Nat × Ldl) : State :=
    x.2.recs.foldl (fun u r => if gone x.1 r then bump (pageOf .ldl x.1 1) 0 (if r.2.used then 1 else 2) 1 u else u) t
  let s1 := s.ldl.foldl count s
  { s1 with ldl := mmap (fun n l => { l with recs := l.recs.filter (fun x => !gone n x) }) s1.ldl }

/-! ### Reading -/

/-- The byte of a provisional line a task sees: the newest written by a member it sees (R63, R223). -/
def provByte (p : ProvLine) (vis : List Nat) (off : Nat) : Option Byte :=
  match p.bytes.find? (fun b => b.1 == off && vis.contains b.2.1) with
  | some b => some b.2.2
  | none => none

/-- The byte at a local address as a task sees it: a speculative task sees the provisional writes of the members of
its group's use whose records were written before it was dispatched, everyone else target memory (R63). -/
def viewByte (s : State) (t : Option Task) (a : Nat) : Byte :=
  match t with
  | some t =>
    if t.spec then
      match s.prov.find? (fun p => p.job == t.job && p.gid == t.gid && p.use == t.use && p.line == lineOf a) with
      | some p => (provByte p t.vis (a % 256)).getD (memGet s.mem a)
      | none => memGet s.mem a
    else memGet s.mem a
  | none => memGet s.mem a

/-- Bytes as a task sees them. -/
def viewBytes (s : State) (t : Option Task) (a n : Nat) : List Byte :=
  (List.range n).map (fun i => viewByte s t (a + i))

/-- The provisional line that serves a task's read of a line, if one does (R63, R223). -/
def provSeen (s : State) (t : Task) (line : Nat) : Option ProvLine :=
  if t.spec then s.prov.find? (fun p => p.job == t.job && p.gid == t.gid && p.use == t.use && p.line == line &&
    p.bytes.any (fun b => t.vis.contains b.2.1)) else none

/-- A provisional line read or copied: the words with one bit in error are corrected and rewritten, and a word that cannot be
corrected poisons the line (R225). -/
def provCheck (p : ProvLine) (s : State) : State :=
  if p.err.isEmpty then s else
  let n := granSlice s p.gran
  let q : ProvLine := { p with err := [], bad := p.bad || p.err.any (fun x => decide (2 ≤ x.2)) }
  p.err.foldl (fun u x =>
      let a := p.line * 256 + x.1 * 8
      let page := pageOf .crm n 0
      if x.2 = 1 then raiseFree page 9 0 { wordEv u n a 0 1 with unit := p.gran % 16 } (bump page 0 13 1 (setReg page 0x290 (word a) u))
      else raiseFree page 10 0 { wordEv u n a 1 2 with unit := p.gran % 16 }
        (bump page 0 14 1 (setReg page 0x298 (word (p.line * 256)) u)))
    { s with prov := s.prov.map (fun x => if x = p then q else x) }

/-- The first line of several spans whose provisional line returns poison to the task (R225, R226). -/
def provPoison (s : State) (t : Task) (rs : List (Nat × Nat)) : Option ProvLine :=
  (rs.flatMap (fun r => linesOf r.1 r.2)).findSome? (fun l =>
    (provSeen s t l).filter (fun p => p.bad || p.err.any (fun x => decide (2 ≤ x.2))))

/-- Reads of a speculative task that its group's provisional lines serve are counted (CNT12 of the slices). -/
def provReads (t : Task) (rs : List (Nat × Nat)) (s : State) : State :=
  (rs.flatMap (fun r => linesOf r.1 r.2)).foldl (fun u l =>
    match provSeen u t l with
    | some p => provCheck p (bump (pageOf .crm (granSlice u p.gran) 0) 0 12 1 (addAct u.actJob 5 256 u))
    | none => u) s

/-- The number stored little-endian in `n` bytes as a task sees it. -/
def viewNat (s : State) (t : Option Task) (a n : Nat) : Nat := leNat (viewBytes s t a n)

/-- A word of memory as everyone but a speculative task sees it. -/
def rdWord (s : State) (a : Nat) : Word := memWord s.mem a

/-- Bytes of a span that lie in a line. -/
def spanIn (a n line : Nat) : Nat := min (a + n) (line * 256 + 256) - max a (line * 256)

/-- Words of an array's local store with one bit in error, read, are corrected and rewritten (R96). -/
def lsCorrect (k a n : Nat) (s : State) : State :=
  match (s.ls.filter (fun x => x.2 == 1 && wordIn a n x.1)).map (·.1) with
  | [] => s
  | w :: ws =>
    let page := pageOf .arr k 4
    let s1 : State := { s with ls := s.ls.filter (fun x => !(x.2 == 1 && wordIn a n x.1)) }
    raiseFree page 8 0 { mkEv page 0 1 with locus := nfld (w * 8) 34 3, addr := w * 8 }
      (setReg page 0x208 (word ((w :: ws).getLastD w * 8)) (bump page 0 0 (ws.length + 1) s1))

/-- The tags and counters after reading spans (initiator class of Table 8.5). -/
def touchReads (cls : Nat) : List (Nat × Nat) → State → State
  | [], s => s
  | (a, n) :: rs, s =>
    let s1 := match winOf a with
      | .hbm => (linesOf a n).foldl (fun t l => cacheTouch cls l false (spanIn a n l) (cwCorrect l a n t)) s
      | .scr => (linesOf a n).foldl (fun t l =>
          addAct t.actJob 5 (spanIn a n l) (bump (pageOf .crm (scrServes t (l * 256)) 0) 0 8 (spanIn a n l) (cwCorrect l a n t))) s
      | .arr k => lsCorrect k a n s
      | _ => s
    touchReads cls rs s1

/-! ### Writing -/

/-- A run of bytes cut at line boundaries. -/
def cutLines : Nat → Nat → List Byte → List (Nat × List Byte)
  | 0, _, _ => []
  | _, _, [] => []
  | k + 1, a, bs =>
    let n := 256 - a % 256
    if bs.length ≤ n then [(a, bs)] else (a, bs.take n) :: cutLines k (a + n) (bs.drop n)

/-- Contiguous, ascending neighbours joined into one run (R206). -/
def joinRuns : List (Nat × List Byte) → List (Nat × List Byte)
  | [] => []
  | (a, bs) :: rs =>
    match joinRuns rs with
    | (b, cs) :: rest => if a + bs.length = b then (a, bs ++ cs) :: rest else (a, bs) :: (b, cs) :: rest
    | [] => [(a, bs)]

/-- The bursts of a run that are written whole. -/
def wholeBursts (a n : Nat) (burst : Nat) : Bool := decide (a ≤ burst * 32 ∧ burst * 32 + 32 ≤ a + n)

/-- A run within one line lands in target memory: poison is cleared by a whole line and burst errors by whole bursts
(R225), as are those of the words of a slice or of a local store by whole words (R225, R96); epochs advance (R211), prefetch records are retired
(R214). -/
def landRun (self : Option (Nat × Nat)) (a : Nat) (bs : List Byte) (s : State) : State :=
  let full := decide (bs.length = 256 ∧ a % 256 = 0)
  epochAdvance a (a + bs.length - 1) (retireOn a (a + bs.length - 1) self
    { s with mem := memStore s.mem a bs,
             poison := if full then s.poison.filter (fun l => l != lineOf a) else s.poison,
             ecc := s.ecc.filter (fun x => !wholeBursts a bs.length x.1),
             cw := s.cw.filter (fun x => !decide (a ≤ x.1 * 8 ∧ x.1 * 8 + 8 ≤ a + bs.length)),
             ls := s.ls.filter (fun x => !decide (a ≤ x.1 * 8 ∧ x.1 * 8 + 8 ≤ a + bs.length)) })

/-- A run within one line written by an initiator class: the cache follows (R220), and bytes that come to an array's local
store over the network are counted (Table 3.16). -/
def writeRun (cls : Nat) (self : Option (Nat × Nat)) (a : Nat) (bs : List Byte) (s : State) : State :=
  if bs.isEmpty then s else
  landRun self a bs (match winOf a with
    | .hbm => cacheTouch cls (lineOf a) true bs.length s
    | .scr => addAct s.actJob 5 bs.length (bump (pageOf .crm (scrServes s a) 0) 0 9 bs.length s)
    | .arr n => if cls = 12 then s else bump (pageOf .arr n 4) 0 5 bs.length s
    | _ => s)

/-- A run that an adder writes: on an HBM address at the controller, the home slice's copy invalidated (R220). -/
def adderRun (a : Nat) (bs : List Byte) (s : State) : State :=
  if bs.isEmpty then s else
  landRun none a bs (match winOf a with
    | .hbm => hbmMove 15 (lineOf a) true bs.length (hbmFetch 15 (lineOf a) bs.length (dropLine (lineOf a) s))
    | .scr => addAct s.actJob 5 bs.length (bump (pageOf .crm (scrServes s a) 0) 0 9 bs.length s)
    | _ => s)

/-- A run written provisionally by a speculative task; the device chooses the slice that holds a new line (R223). -/
def provRun (t : Task) (a : Nat) (bs : List Byte) (s : State) : State :=
  let line := lineOf a
  let new := ((List.range bs.length).zip bs).map (fun x => (a % 256 + x.1, t.id, x.2))
  let mine (p : ProvLine) : Bool := p.job == t.job && p.gid == t.gid && p.use == t.use && p.line == line
  let whole (w : Nat) : Bool := decide (a % 256 ≤ w * 8 ∧ w * 8 + 8 ≤ a % 256 + bs.length)
  if s.prov.any mine then
    { s with prov := s.prov.map (fun p => if mine p then
        { p with bytes := new.reverse ++ p.bytes, err := p.err.filter (fun x => !whole x.1),
                 bad := p.bad && decide (bs.length ≠ 256) } else p) }
  else
    let r := draw s
    let g := nextSlice s 63 (Config.choose r.1 % 64) * 16 + (14 + Config.choose r.1 / 64 % 2)
    let x : ProvLine := { job := t.job, gid := t.gid, use := t.use, line := line, bytes := new.reverse, gran := g }
    bump (pageOf .crm (granSlice s g) 0) 0 10 1 { r.2 with prov := s.prov ++ [x] }

/-- Runs written by a task or, with none, by another initiator. -/
def writeRuns (cls : Nat) (t : Option Task) (self : Option (Nat × Nat)) (ws : List (Nat × List Byte)) (s : State) : State :=
  ((joinRuns ws).flatMap (fun w => cutLines (w.2.length / 256 + 2) w.1 w.2)).foldl
    (fun u w => match t with
      | some t => if t.spec then provRun t w.1 w.2 (addAct u.actJob 5 w.2.length u) else writeRun cls self w.1 w.2 u
      | none => writeRun cls self w.1 w.2 u) s

/-- Bytes written to target memory. -/
def wrBytes (cls a : Nat) (bs : List Byte) (s : State) : State := writeRuns cls none none [(a, bs)] s

/-- Bytes that an adder writes, line by line. -/
def adderWrite (a : Nat) (bs : List Byte) (s : State) : State :=
  (cutLines (bs.length / 256 + 2) a bs).foldl (fun u w => adderRun w.1 w.2 u) s

/-- A word written to target memory. -/
def wrWord (cls a : Nat) (w : Word) (s : State) : State := wrBytes cls a (wordBytes w) s

/-! ### Poisoned reads (R226) -/

/-- A line whose errors HBM cannot correct is poisoned and counted (R225). -/
def eccPoison (line : Nat) (s : State) : State :=
  if eccFails s line then
    let n := (s.ecc.filter (fun x => x.1 / 8 == line && decide (2 ≤ x.2))).length
    bump (pageOf .hbm (stackOf s (line * 256)) 2) 0 1 n
      { s with poison := if s.poison.contains line then s.poison else sortBy (· ≤ ·) (line :: s.poison) }
  else s

/-- A poisoned line has been read: POISON_READ of the slice that holds it, or UE of its HBM controller, and an event; or a word of an
array's local store that cannot be corrected, LS_UE (R96). -/
def poisonRead (cls : Nat) (a job status : Nat) (s : State) : State :=
  let line := a / 256 * 256
  let slice : State :=
    let s := cwPoison (a / 256) s
    let page := pageOf .crm (sliceOf s a) 0
    raiseEv page 11 0 { mkEv page 1 3 with unit := granuleOf s (sliceOf s a) a, locus := nfld line 39 8,
                                           addr := line, job := job, status := status, detail := cls } s
  match winOf a with
  | .hbm =>
    if cached s (a / 256) then slice else
    let p := physPc s a
    let page := pageOf .hbm (p % 8) 2
    raiseEv page 9 0 { mkEv page 1 3 with unit := p / 8, locus := nfld line 39 8, addr := line, job := job,
                                          status := status, detail := cls }
      (setReg page 0x208 (word line) (eccPoison (a / 256) s))
  | .scr => slice
  | .arr n =>
    let page := pageOf .arr n 4
    raiseFree page 9 0 { mkEv page 1 2 with locus := nfld a 34 3, addr := a / 8 * 8, job := job, status := status }
      (setReg page 0x210 (word (a / 8 * 8)) (bump page 0 1 1 s))
  | _ => s

/-- A poisoned provisional line has been read: POISON_READ of the slice that holds it, and an event (R225, R226). -/
def provPoisonRead (cls : Nat) (p : ProvLine) (job : Nat) (s : State) : State :=
  let s := provCheck p s
  let page := pageOf .crm (granSlice s p.gran) 0
  raiseEv page 11 0 { mkEv page 1 3 with unit := p.gran % 16, locus := nfld (p.line * 256) 39 8, addr := p.line * 256, job := job,
                                         status := 9, detail := cls } s

end Sys2Proof.Machine
end

