-- ==== Sys2Proof/Machine/Access.lean ====
section
/-! DEFINITION. Register writes as every page takes them: which registers exist and which of their bits take a write
(R6-R8, R26-R33). -/

namespace Sys2Proof.Machine

/-- What a command answers. -/
abbrev Res := Host.Outcome State Fault Refusal

/-- A head register as a row (Tables 1.6, 1.9, 1.11, 1.13, 1.14). -/
def headReg (page sub off : Nat) : Option RegRow :=
  let h := headAt page
  let row (rw w1c w1s ro : Nat) : Option RegRow := some ⟨sub, off, 1, 8, "head", 0, rw, w1c, w1s, 0, ro, false⟩
  if off = 0 then row 0 0 0 0xFFFFFFFFFF
  else if off = 8 then row 0 0 0 (2 ^ 64 - 1)
  else if off = 0x10 then (if sub = 0 then row 5 0 2 0 else none)
  else if off = 0x18 then (if sub = 0 then row 0 0 0 (2 ^ 64 - 1 - 0xE0) else none)
  else if off = 0x20 then row 0 (0x3F + h.err) 0 0
  else if off = 0x28 then row (0x3F + h.err) 0 0 0
  else if off = 0x30 then row 0 0 0 (2 ^ 64 - 1 - 0xFE00)
  else if off = 0x38 then row 0 (1 + h.int) 0 0
  else if off = 0x40 then row (1 + h.int) 0 0 0
  else if off = 0x48 then row 0xFF0F03 0 0 0
  else if off = 0x50 then row 0x5FF 0 0x200 0
  else if 0x100 ≤ off ∧ off < 0x100 + 8 * h.counters ∧ off % 8 = 0 then row 0 0 0 (2 ^ 64 - 1)
  else none

/-- The register at an offset, head included, with the instances on which Creamery-wide and device-wide registers are
mirrors taken into account (R27, R245, R246). -/
def fieldsAt (page off : Nat) : Option RegRow :=
  match pageOwner page with
  | none => none
  | some (b, n, sub) =>
    if off < 0x200 then headReg page sub off
    else match regAt page off with
      | none => none
      | some r =>
        if b = .crm ∧ n ≠ 0 ∧ off ≤ 0x220 then none
        else if b = .hbm ∧ n ≠ 0 ∧ sub = 0 ∧ off = 0x230 then some { r with rw := 0, ro := r.rw }
        else some r

/-- The bits a register defines; the rest are reserved (R7). -/
def RegRow.defined (r : RegRow) : Word :=
  word r.rw ||| word r.w1c ||| word r.w1s ||| word r.wo ||| word r.ro

/-- R29: the initiator may reach the configuration and table area of the block. -/
def mayReach (who : Initiator) (b : Block) : Bool :=
  match b, who with
  | .sec, .last | .nvs, .last => true
  | .sec, _ | .nvs, _ => false
  | .cbl, .cobbler | .cbl, .last => true
  | .cbl, _ => false
  | _, _ => true

/-- NO_PAGE: an access at an offset of an unassigned page (R25). -/
def noPage (off : Nat) (s : State) : State := raise 0 8 off s

/-- A write at `off` with reserved bits: RSVD_WRITE (R7). Where the register written is one whose bits that error sets, the
write clears first and the error's bit remains (R35). -/
def reserved (page off : Nat) (k : State → State) (s : State) : State :=
  if off = 0x20 ∨ off = 0x38 then raise page 1 off (k s) else k (raise page 1 off s)

/-- A register write up to its effect: privilege (R29), soft reset (R31), undefined registers (R27, R30), map-out
(R33), reserved bits (R7); `k` takes the value's defined bits. -/
def regGuard (who : Initiator) (page off : Nat) (v : Word) (k : Word → State → State) (s : State) : State :=
  match pageOwner page with
  | none => noPage off s
  | some (b, _, _) =>
    if 0x200 ≤ off ∧ mayReach who b = false then raise page 3 off s
    else if (getBlk s page).rstBusy ∧ ¬ (off = 0x10 ∧ page = firstPage page) then
      let x := getBlk s page
      if x.busyPend.any (fun y => y.1 == page) then s else setBlk page { x with busyPend := x.busyPend ++ [(page, off)] } s
    else match fieldsAt page off with
      | none => raise page 2 off s
      | some r =>
        if 0x200 ≤ off ∧ (getBlk s page).mappedOut then raise page 5 off s
        else if v &&& ~~~ r.defined = 0 then k (v &&& r.defined) s
        else reserved page off (k (v &&& r.defined)) s

/-- The value a plain register takes from a write: RW bits stored, W1C bits cleared (R8). -/
def merged (r : RegRow) (old v : Word) : Word :=
  ((old &&& ~~~ (word r.rw)) ||| (v &&& word r.rw)) &&& ~~~ (v &&& word r.w1c)

/-- A plain register written. -/
def storeReg (page off : Nat) (v : Word) (s : State) : State :=
  match fieldsAt page off with
  | none => s
  | some r => setReg page off (merged r (getReg s page off) v) s

/-- A register read answered to its initiator. -/
def answer (v : Word) (s : State) : State := { s with resp := v }

/-- A read of a register that clears it (RC): answered by privilege (R29), zero while the block is in soft reset
(R31). -/
def readClear (who : Initiator) (page off : Nat) (s : State) : State :=
  match pageOwner page with
  | none => answer (BitVec.allOnes 64) (noPage off s)
  | some (b, _, _) =>
    if 0x200 ≤ off ∧ mayReach who b = false then answer 0 (raise page 3 off s)
    else if 0x200 ≤ off ∧ (getBlk s page).rstBusy then answer 0 s
    else setReg page off 0 (answer (getReg s page off) s)

end Sys2Proof.Machine
end

