-- ==== Sys2Proof/Machine/Queues.lean ====
section
/-! DEFINITION. The common queue block, the lace queues and the pools (R50-R54, R184, R188-R201). Queues 0-255 are the
command queues, 256-1279 the lace queues. -/

namespace Sys2Proof.Machine

/-- The page of a queue's register group (Table 7.1). -/
def qPage (q : Nat) : Nat :=
  if q < 256 then pageOf .tck 0 1 else if q < 768 then pageOf .sys 0 2 else pageOf .sys 0 3

/-- The offset of register `r` of a queue's group (Table 7.2). -/
def qOff (q r : Nat) : Nat :=
  (if q < 256 then 0x4000 + 64 * q else if q < 768 then 0x8000 + 64 * (q - 256) else 0x8000 + 64 * (q - 768)) + r

/-- Entries of a queue: 2 to the DEPTH_LOG2 (R188). -/
def qDepth (s : State) (q : Nat) : Nat := 2 ^ regFld s (qPage q) (qOff q 0) 12 8

/-- The queue is enabled; a command queue always is (Table 7.3). -/
def qEnabled (s : State) (q : Nat) : Bool := q < 256 || regBit s (qPage q) (qOff q 0) 0

/-- Full: items plus reservations fill the depth (R188). -/
def qFull (s : State) (q : Nat) : Bool :=
  decide (qDepth s q ≤ (getQueue s q).items.length + (getQueue s q).rsvd)

/-- A bit of Q_ERR set. -/
def qErr (q i : Nat) (s : State) : State :=
  setReg (qPage q) (qOff q 0x38) (setBit (getReg s (qPage q) (qOff q 0x38)) i true) s

/-- An interrupt to the target in Q_LVL (R192). -/
def qDeliver (q : Nat) (s : State) : State :=
  let l := getReg s (qPage q) (qOff q 8)
  deliver (fld l 29 28) (fld l 35 32) (fld l 47 40) s

/-- Register pushes held back are discarded when the queue is flushed, disabled or reset (R194). -/
def dropHeld (q : Nat) (s : State) : State :=
  let x := getQueue s q
  if x.held.isEmpty then s else qErr q 1 (setQueue q { x with held := [] } s)

/-- R191: the two copies of a pointer are compared on every use; on a mismatch every item is lost, reservations are
kept, PTR_MISMATCH is set and an event is reported. -/
def ptrCheck (q : Nat) (s : State) : State :=
  let x := getQueue s q
  if x.wr = x.wr2 ∧ x.rd = x.rd2 then s else
  let page := qPage q
  let e : ErrEvent := { mkEv page 1 4 with
    locus := if q < 256 then q else q - 256,
    detail := x.wr % 65536 + x.wr2 % 65536 * 2 ^ 16 + x.rd % 65536 * 2 ^ 32 + x.rd2 % 65536 * 2 ^ 48 }
  let s1 := qErr q 0 (setQueue q { x with items := [], wr := 0, rd := 0, wr2 := 0, rd2 := 0 } s)
  let s2 := if q < 256 then report page e s1 else raiseEv page 12 0 e s1
  if bit (getReg s page (qOff q 8)) 26 then qDeliver q s2 else s2

/-- An item put into a queue that has room, with the level event of R192. -/
def qPut (q : Nat) (v : Word) (s : State) : State :=
  let x := getQueue s q
  let d := 2 * qDepth s q
  let y := { x with items := x.items ++ [v], wr := (x.wr + 1) % d, wr2 := (x.wr2 + 1) % d }
  let s1 := setQueue q y s
  let l := getReg s (qPage q) (qOff q 8)
  if x.items.length = fld l 16 0 ∧ bit l 24 = true ∧ bit l 25 = false then
    qDeliver q (setReg (qPage q) (qOff q 8) (setBit l 25 true) s1)
  else s1

/-- The front item taken out. -/
def qTake (q : Nat) (s : State) : Option Word × State :=
  let x := getQueue s q
  match x.items with
  | [] => (none, s)
  | v :: rest =>
    let d := 2 * qDepth s q
    (some v, setQueue q { x with items := rest, rd := (x.rd + 1) % d, rd2 := (x.rd2 + 1) % d } s)

/-- The item's bits in a push (Table 7.1). -/
def itemBits (q : Nat) (v : Word) : Word := if q < 256 then v &&& mask 49 0 else v &&& mask 31 0

/-- In fail-quiet command queues accept nothing (R363). -/
def qQuiet (s : State) (q : Nat) : Bool := s.rel.fqActive && decide (q < 256)

/-- A register push (R194, R197, R198). In fail-quiet one to a command queue is discarded, with PUSH_DROP as at a queue that is
disabled (R363; DESIGN CHOICE, log 145). -/
def pushEffect (who : Initiator) (q : Nat) (v : Word) (s : State) : State :=
  let s1 := ptrCheck q s
  if qEnabled s1 q = false ∨ qQuiet s1 q = true then qErr q 1 s1
  else if qFull s1 q then
    let x := getQueue s1 q
    setQueue q { x with held := x.held ++ [(who, itemBits q v)] } s1
  else qPut q (itemBits q v) s1

/-- Q_PUSH: held while the queue is full (R194). -/
def execQPush (who : Initiator) (q : Fin 1280) (v : Word) (s : State) : Res :=
  .next (regGuard who (qPage q.val) (qOff q.val 0x20) v (fun w t => pushEffect who q.val w t) s)

/-- A held push completes once the queue has room (R190, R194), and in fail-quiet not into a command queue (R363). -/
def heldEffect (q : Nat) (s : State) : State :=
  let x := getQueue s q
  match x.held with
  | [] => s
  | (_, v) :: rest =>
    if qFull s q = true ∨ qQuiet s q = true then s else qPut q v (setQueue q { x with held := rest } s)

/-- HELD_PUSH_COMPLETE (R190). -/
def execHeldPushComplete (q : Fin 1280) (s : State) : Res := .next (heldEffect q.val (ptrCheck q.val s))

/-- A push that is never held: to a full queue it is discarded with NB_DROP, to a disabled one with PUSH_DROP (R194,
R197). -/
def pushNbEffect (q : Nat) (v : Word) (s : State) : State :=
  let s1 := ptrCheck q s
  if qEnabled s1 q = false ∨ qQuiet s1 q = true then qErr q 1 s1
  else if qFull s1 q then qErr q 2 s1
  else qPut q (itemBits q v) s1

/-- Q_PUSH_NB (R194). -/
def execQPushNb (who : Initiator) (q : Fin 1280) (v : Word) (s : State) : Res :=
  .next (regGuard who (qPage q.val) (qOff q.val 0x28) v (fun w t => pushNbEffect q.val w t) s)

/-- A register pop: lace queues only; zero when empty (R194). -/
def popEffect (q : Nat) (s : State) : State :=
  if q < 256 then answer 0 s else
  let r := qTake q (ptrCheck q s)
  match r.1 with
  | none => answer 0 r.2
  | some v => answer ((v &&& mask 31 0) ||| word (2 ^ 63)) r.2

/-- Q_POP (R194). -/
def execQPop (who : Initiator) (q : Fin 1280) (s : State) : Res :=
  let page := qPage q.val
  .next (if (getBlk s page).rstBusy then answer 0 s
    else if mayReach who .sys = false then answer 0 s else popEffect q.val s)

/-- The storage of an enabled lace queue overlaps `[lo, hi)` (R196). -/
def laceOverlap (s : State) (self lo hi : Nat) : Bool :=
  (List.range 1024).any (fun i =>
    i != self && qEnabled s (256 + i) &&
    (let b := regFld s (qPage (256 + i)) (qOff (256 + i) 0) 33 16
     decide (lo < b + qDepth s (256 + i) ∧ b < hi)))

/-- R196: where an enabled lace queue may lie. -/
def laceFits (s : State) (lace : Nat) (v : Word) : Bool :=
  let n := fld v 12 8
  let b := fld v 33 16
  decide (4 ≤ n ∧ n ≤ 16 ∧ b % 2 ^ n = 0 ∧ b + 2 ^ n ≤ 262144) && !laceOverlap s lace b (b + 2 ^ n)

/-- A flush (Table 7.3): refused with FLUSH_BUSY while reservations are held, or on a command queue that is bound and
enabled. -/
def flushEffect (q : Nat) (s0 : State) : State :=
  let s := ptrCheck q s0
  let x := getQueue s q
  let bound := q < 256 && regBit s (pageOf .tck 0 1) (0x1000 + 8 * q) 8
  if x.rsvd ≠ 0 ∨ bound = true then qErr q 3 s
  else dropHeld q (setQueue q { x with items := [], rd := x.wr, rd2 := x.wr2 } s)

/-- A write of a lace queue's Q_CFG (R196). -/
def laceCfgEffect (lace : Nat) (v : Word) (s0 : State) : State :=
  let q := 256 + lace
  let s := ptrCheck q s0
  let page := qPage q
  let old := getReg s page (qOff q 0)
  let x := getQueue s q
  let moved := decide (fld old 12 8 ≠ fld v 12 8 ∨ fld old 33 16 ≠ fld v 33 16)
  let clearing := bit old 0 && !bit v 0
  let setting := !bit old 0 && bit v 0
  let idle := x.items.isEmpty && x.rsvd == 0
  let ok := (!(moved || clearing) || idle) && (!(bit v 0 && (setting || moved)) || laceFits s lace v)
  if ok = false then raise page 8 (qOff q 0) s else
  let new := setFld (setFld (setBit old 0 (bit v 0)) 12 8 (fld v 12 8)) 33 16 (fld v 33 16)
  let s1 := setReg page (qOff q 0) new s
  let s2 := if moved then setQueue q { x with wr := 0, rd := 0, wr2 := 0, rd2 := 0 } s1 else s1
  let s3 := if clearing then dropHeld q s2 else s2
  if bit v 1 then flushEffect q s3 else s3

/-- Q_CFG_WRITE: a lace queue's configuration (R196). -/
def execQCfgWrite (who : Initiator) (lace : Fin 1024) (v : Word) (s : State) : Res :=
  .next (regGuard who (qPage (256 + lace.val)) (qOff (256 + lace.val) 0) v (fun w t => laceCfgEffect lace.val w t) s)

/-- QUEUE_FLUSH: a write of Q_CFG.FLUSH that leaves the rest (Table 7.3). -/
def execQueueFlush (who : Initiator) (q : Fin 1280) (s : State) : Res :=
  .next (regGuard who (qPage q.val) (qOff q.val 0) 2 (fun _ t => flushEffect q.val t) s)

/-! ### Pools -/

def poolPage : Nat := pageOf .sys 0 2

def poolOff (p r : Nat) : Nat := 0x1000 + 32 * p + r

/-- COUNT, EN and BUF_SIZE in bytes of a pool (Table 7.5). -/
def poolCount (s : State) (p : Nat) : Nat := regFld s poolPage (poolOff p 8) 18 0
def poolEn (s : State) (p : Nat) : Bool := regBit s poolPage (poolOff p 8) 19
def bufSize (s : State) (p : Nat) : Nat := regFld s poolPage (poolOff p 8) 39 20 * 256
def poolBase (s : State) (p : Nat) : Nat := regFld s poolPage (poolOff p 0) 49 0

/-- The current generation of a buffer: 1-255, skipping 0 (R52). -/
def Pool.gen (x : Pool) (i : Nat) : Nat := (x.era + mget x.adv i 0) % 255 + 1

/-- Buffers an enabled pool may allocate: those not allocated (R201). -/
def poolFree (s : State) (p : Nat) : Nat :=
  if poolEn s p then poolCount s p - (getPool s p).alloc.length else 0

/-- The pool, the index and the generation of an eyelet (Table 2.6). -/
def eyePool (e : Nat) : Nat := nfld e 31 26
def eyeIdx (e : Nat) : Nat := nfld e 25 8
def eyeGen (e : Nat) : Nat := nfld e 7 0

def mkEye (p i g : Nat) : Nat := p * 2 ^ 26 + i * 2 ^ 8 + g

/-- An eyelet is valid while its buffer is allocated and its generation is current (R52). -/
def eyeValid (s : State) (e : Nat) : Bool :=
  let x := getPool s (eyePool e)
  eyeGen e != 0 && (mfind x.alloc (eyeIdx e)).isSome && x.gen (eyeIdx e) == eyeGen e

/-- CQ_BIND of a command queue. -/
def cqBind (s : State) (c : Nat) : Word := getReg s (pageOf .tck 0 1) (0x1000 + 8 * c)

/-- Buffers of a pool that a queue holds (R184). -/
def heldBy (s : State) (p c : Nat) : Nat := ((getPool s p).alloc.filter (fun x => x.2 == c)).length

/-- R184: buffers of pool `p` reserved for the queues other than `self` that name it and not yet held by them. -/
def reservedFor (s : State) (p self : Nat) : Nat :=
  ((List.range 256).map (fun c =>
    if c != self && fld (cqBind s c) 23 18 == p then fld (cqBind s c) 47 32 - heldBy s p c else 0)).sum

/-- The free buffers' indexes, at most `n` of them counted from index `i`. -/
def freeIdx (x : Pool) : Nat → Nat → Nat → Option Nat
  | 0, _, _ => none
  | n + 1, i, k =>
    if (mfind x.alloc i).isSome then freeIdx x n (i + 1) k
    else if k = 0 then some i else freeIdx x n (i + 1) (k - 1)

/-- A free buffer of the pool, chosen by the device (R52), allocated to a holder. -/
def allocBuf (p holder : Nat) (s : State) : Option Nat × State :=
  let free := poolFree s p
  if free = 0 then (none, s) else
  let r := draw s
  let x := getPool s p
  match freeIdx x (poolCount s p) 0 (Config.choose r.1 % free) with
  | none => (none, s)
  | some i => (some (mkEye p i (x.gen i)), setPool p { x with alloc := mput x.alloc i holder } r.2)

/-- A buffer released: its generation advances (R52). -/
def freeBuf (e : Nat) (s : State) : State :=
  let p := eyePool e
  let x := getPool s p
  setPool p { x with adv := mput x.adv (eyeIdx e) (mget x.adv (eyeIdx e) 0 + 1), alloc := mdel x.alloc (eyeIdx e) } s

/-- A release at a commit point or through a register: of an eyelet no longer valid it sets STALE_RELEASE (R52,
R201). -/
def releaseEye (e off : Nat) (s : State) : State :=
  if eyeValid s e then freeBuf e s else raise poolPage 11 off s

/-- All of `[base, base + len)` lies in one window of R200. -/
def poolWindow (s : State) (base len : Nat) : Bool :=
  winOf base == winOf (base + len - 1) && mappedMem s base && mappedMem s (base + len - 1)

/-- A write of POOL_CFG (R200). -/
def poolCfgEffect (p : Nat) (v : Word) (s : State) : State :=
  let old := getReg s poolPage (poolOff p 8)
  let same := decide (fld old 18 0 = fld v 18 0 ∧ fld old 39 20 = fld v 39 20)
  if bit old 19 then
    if same = false then raise poolPage 9 (poolOff p 8) s
    else if bit v 19 then s
    else if (getPool s p).alloc.isEmpty then setReg poolPage (poolOff p 8) (setBit old 19 false) s
    else raise poolPage 10 (poolOff p 8) s
  else
    let n := fld v 18 0
    let b := fld v 39 20
    if bit v 19 then
      if 1 ≤ n ∧ n ≤ 262144 ∧ 1 ≤ b ∧ poolWindow s (poolBase s p) (n * b * 256) = true then
        let x := getPool s p
        setPool p { x with era := x.era + 1, alloc := [] } (setReg poolPage (poolOff p 8) (v &&& mask 39 0) s)
      else raise poolPage 9 (poolOff p 8) s
    else setReg poolPage (poolOff p 8) (v &&& mask 39 0) s

/-- POOL_CFG_WRITE (R200). -/
def execPoolCfgWrite (who : Initiator) (pool : Fin 64) (v : Word) (s : State) : Res :=
  .next (regGuard who poolPage (poolOff pool.val 8) v (fun w t => poolCfgEffect pool.val w t) s)

/-- A write of POOL_BASE: discarded with POOL_CFG while the pool is enabled; aligned to 256 bytes (R200, Table 7.5). -/
def poolBaseEffect (p : Nat) (v : Word) (s : State) : State :=
  if poolEn s p then raise poolPage 9 (poolOff p 0) s
  else setReg poolPage (poolOff p 0) (v &&& mask 49 8) s

/-- POOL_ALLOC through a register (R201): its buffers count as held by no queue. -/
def allocEffect (p : Nat) (s : State) : State :=
  if poolEn s p ∧ reservedFor s p 256 < poolFree s p then
    let r := allocBuf p 256 s
    match r.1 with
    | some e => answer (word (e + 2 ^ 63)) r.2
    | none => answer 0 r.2
  else answer 0 s

/-- POOL_ALLOC (R201). -/
def execPoolAlloc (_who : Initiator) (pool : Fin 64) (s : State) : Res :=
  .next (if (getBlk s poolPage).rstBusy then answer 0 s else allocEffect pool.val s)

/-- POOL_RELEASE through a register (R201). -/
def releaseEffect (p : Nat) (v : Word) (s : State) : State :=
  let e := fld v 31 0
  if eyePool e = p then releaseEye e (poolOff p 0x18) s else raise poolPage 11 (poolOff p 0x18) s

/-- POOL_RELEASE (R201). -/
def execPoolRelease (who : Initiator) (pool : Fin 64) (v : Word) (s : State) : Res :=
  .next (regGuard who poolPage (poolOff pool.val 0x18) v (fun w t => releaseEffect pool.val w t) s)

end Sys2Proof.Machine
end

