-- ==== Sys2Proof/Machine/Tensor.lean ====
section
/-! DEFINITION. Tensor descriptors and the elements they name (R45-R49, R98). -/

namespace Sys2Proof.Machine

/-- Why a task ends at a check: status (Table 2.8), slot and detail. -/
structure Fail where
  status : Nat
  slot : Nat := 0
  detail : Nat := 0
  deriving DecidableEq, Repr

/-- BAD_DESCRIPTOR, naming a slot. -/
def badDesc (slot : Nat) : Fail := { status := 6, slot := slot }

/-- ADDRESS_FAULT with the lowest faulting address. -/
def addrFault (slot a : Nat) : Fail := { status := 3, slot := slot, detail := a }

/-- The first failure of a list of checks. -/
def firstFail : List (Option Fail) → Option Fail
  | [] => none
  | some f :: _ => some f
  | none :: r => firstFail r

/-- A check that fails when `b` holds. -/
def failIf (b : Bool) (f : Fail) : Option Fail := if b then some f else none

/-- A tensor descriptor read out (Table 2.5); `base` is the absolute address of element 0. -/
structure Tensor where
  base : Nat
  fmt : Nat
  rank : Nat
  relative : Bool
  scaled : Bool
  counts : List Nat
  strides : List Int
  sbase : Nat
  bdim : Nat
  blen : Nat
  deriving DecidableEq, Repr

/-- The fields of a tensor descriptor's 16 words. -/
def tensorOf (ws : List Word) : Tensor :=
  let w (i : Nat) : Word := ws.getD i 0
  { base := (w 0).toNat, fmt := fld (w 1) 7 0, rank := fld (w 1) 10 8, relative := bit (w 1) 11, scaled := bit (w 1) 12,
    counts := (List.range 6).map (fun d => fld (w (2 + 2 * d)) 31 0),
    strides := (List.range 6).map (fun d => toSigned 48 (fld (w (3 + 2 * d)) 47 0)),
    sbase := (w 14).toNat, bdim := fld (w 15) 10 8, blen := fld (w 15) 23 16 }

/-- The tensor of a task's slot, with the base computed at dispatch. -/
def Task.tensor (t : Task) (i : Nat) : Tensor := { tensorOf (t.td.getD i []) with base := t.base.getD i 0 }

/-- The slot is in use. -/
def Task.used (t : Task) (i : Nat) : Bool := t.role i != 0

def Tensor.count (x : Tensor) (d : Nat) : Nat := x.counts.getD d 1
def Tensor.stride (x : Tensor) (d : Nat) : Int := x.strides.getD d 0

/-- Width in bits of an element. -/
def Tensor.width (x : Tensor) : Nat := Num.widthOf x.fmt

/-- A format narrower than 8 bits (R46). -/
def Tensor.packed (x : Tensor) : Bool := x.width < 8

/-- Bytes of an element of 8 bits or more. -/
def Tensor.size (x : Tensor) : Nat := x.width / 8

/-- Number of elements. -/
def Tensor.elems (x : Tensor) : Nat := x.counts.foldl (· * ·) 1

/-- A descriptor that breaks a rule of R36, R45, R46, R49 or R98; `b` is its absolute base, `noEye` whether the slot
has SOURCE 0b11. -/
def tdBad (ws : List Word) (b : Nat) (noEye : Bool) : Bool :=
  let w (i : Nat) : Word := ws.getD i 0
  let x := tensorOf ws
  let r := x.rank
  let ds := List.range 6
  fld (w 1) 63 13 != 0 || ds.any (fun d => fld (w (2 + 2 * d)) 63 32 != 0 || fld (w (3 + 2 * d)) 63 48 != 0) ||
  r == 0 || decide (6 < r) || !Num.isFormat x.fmt || (x.relative && noEye) ||
  ds.any (fun d => if d < r then x.count d == 0 else x.count d != 1 || x.stride d != 0) ||
  (if x.scaled then
     fld (w 15) 7 0 != 0 || fld (w 15) 15 11 != 0 || fld (w 15) 63 24 != 0 || decide (r ≤ x.bdim) ||
     (x.blen != 0 && x.blen != 32)
   else w 14 != 0 || w 15 != 0) ||
  -- R49, R98
  (if Num.isMx x.fmt then !x.scaled || x.blen != 32 else x.scaled && x.blen != 0) ||
  (decide (0x20 ≤ x.fmt) && x.scaled) ||
  (x.scaled && x.blen == 32 && x.count x.bdim % 32 != 0) ||
  -- R46
  (if x.packed then x.stride 0 != 0 || x.count 0 % 32 != 0
   else b % x.size != 0 || ds.any (fun d => x.stride d % (x.size : Int) != 0))

/-- Lowest and highest byte of the data (R48). -/
def Tensor.extent (x : Tensor) : Int × Int :=
  let ds := (List.range 6).filter (fun d => !(x.packed && d == 0))
  let span := ds.map (fun d => ((x.count d : Int) - 1) * x.stride d)
  let last : Int := if x.packed then x.count 0 * x.width / 8 else x.size
  ((x.base : Int) + (span.map (fun v => min v 0)).foldl (· + ·) 0,
   (x.base : Int) + (span.map (fun v => max v 0)).foldl (· + ·) 0 + last - 1)

/-- Counts of the scale array (R49). -/
def Tensor.scaleCounts (x : Tensor) : List Nat :=
  (List.range 6).map (fun d => if d = x.bdim then x.count d / 32 else x.count d)

/-- Bytes of the scale array. -/
def Tensor.scaleBytes (x : Tensor) : Nat :=
  if x.scaled then (if x.blen = 32 then x.scaleCounts.foldl (· * ·) 1 else 1) else 0

/-- The extents of a tensor and of its scale array (R48). -/
def Tensor.extents (x : Tensor) : List (Int × Int) :=
  x.extent :: (if x.scaled then [((x.sbase : Int), (x.sbase : Int) + x.scaleBytes - 1)] else [])

/-- The indices of the `n`-th element, dimension 0 fastest. -/
def unravel : List Nat → Nat → List Nat
  | [], _ => []
  | c :: cs, n => n % c :: unravel cs (n / c)

/-- The linear number of an index list in a dense array, dimension 0 fastest (R49). -/
def ravel : List Nat → List Nat → Nat
  | c :: cs, i :: is => i + c * ravel cs is
  | _, _ => 0

/-- The address of an element, or of its row for a packed format (R46), as a local address. -/
def Tensor.addr (x : Tensor) (idx : List Nat) : Nat :=
  let part := (List.range 6).map (fun d => if x.packed && d == 0 then 0 else (idx.getD d 0 : Int) * x.stride d)
  localPart (((x.base : Int) + part.foldl (· + ·) 0).toNat)

/-- The first byte and the number of bytes an element lies in, and the bit it starts at. -/
def Tensor.place (x : Tensor) (idx : List Nat) : Nat × Nat × Nat :=
  if x.packed then
    let b := idx.getD 0 0 * x.width
    (x.addr idx + b / 8, (b % 8 + x.width + 7) / 8, b % 8)
  else (x.addr idx, x.size, 0)

/-- Bytes about to be written, by address. -/
abbrev Buf := Map Byte

/-- The bits of an element as a task sees them. -/
def Tensor.get (x : Tensor) (s : State) (t : Option Task) (idx : List Nat) : Nat :=
  let p := x.place idx
  viewNat s t p.1 p.2.1 / 2 ^ p.2.2 % 2 ^ x.width

/-- The byte a buffer holds, or memory's. -/
def bufByte (s : State) (t : Option Task) (buf : Buf) (a : Nat) : Byte := (mfind buf a).getD (viewByte s t a)

/-- The strides keep all elements apart: each exceeds what the dimensions of no greater stride span together. -/
def Tensor.spread (x : Tensor) : Bool :=
  let ds := (List.range 6).filter (fun d => !(x.packed && d == 0) && decide (1 < x.count d))
  let row := if x.packed then x.count 0 * x.width / 8 - 1 else 0
  ds.all (fun d => decide (row + ((ds.filter (fun e => e != d && decide ((x.stride e).natAbs ≤ (x.stride d).natAbs))).map
    (fun e => (x.count e - 1) * (x.stride e).natAbs)).sum < (x.stride d).natAbs))

/-- The element's value is the one that stands at its address: it alone lies there, or the device's choice among the
elements that share the address falls on it (R47). -/
def Tensor.stands (x : Tensor) (task : Nat) (idx : List Nat) : Bool :=
  if x.spread then true else
  let p := x.place idx
  let same := (List.range x.elems).filter (fun k => x.place (unravel x.counts k) == p)
  same.getD (Config.aliasWinner task p.1 p.2.2 % same.length) 0 == ravel x.counts idx

/-- An element's bits put into a buffer, unless another element's value stands there (R47); a packed element leaves its
neighbours' bits. -/
def Tensor.put (x : Tensor) (s : State) (t : Option Task) (idx : List Nat) (code : Nat) (buf : Buf) : Buf :=
  if x.stands ((t.map (·.id)).getD 0) idx = false then buf else
  let p := x.place idx
  let old := leNat ((List.range p.2.1).map (fun i => bufByte s t buf (p.1 + i)))
  let w := 2 ^ x.width
  let new := if x.packed then old - old / 2 ^ p.2.2 % w * 2 ^ p.2.2 + code % w * 2 ^ p.2.2 else code
  let bs := toLe p.2.1 new
  ((List.range p.2.1).zip bs).foldl (fun b y => mput b (p.1 + y.1) y.2) buf

/-- The address of the scale byte that covers an element (R49). -/
def Tensor.scaleAddr (x : Tensor) (idx : List Nat) : Nat :=
  if x.blen = 32 then
    let j := (List.range 6).map (fun d => if d = x.bdim then idx.getD d 0 / 32 else idx.getD d 0)
    localPart (x.sbase + ravel x.scaleCounts j)
  else localPart x.sbase

/-- The scale byte of an element; 127, the scale 1, where there is none. -/
def Tensor.scale (x : Tensor) (s : State) (t : Option Task) (idx : List Nat) : Nat :=
  if x.scaled then (viewByte s t (x.scaleAddr idx)).toNat else 127

/-- The decoded value of an element without its scale. -/
def Tensor.raw (x : Tensor) (s : State) (t : Option Task) (idx : List Nat) : Num.Val :=
  match Num.fmtOf x.fmt with
  | some f => Num.decode f (x.get s t idx)
  | none => Num.ofNat (x.get s t idx)

/-- The value of an element: its decoded value times its scale (R49, R101). -/
def Tensor.val (x : Tensor) (s : State) (t : Option Task) (idx : List Nat) : Num.Val :=
  let v := x.raw s t idx
  if x.scaled then Num.mul v (Num.scaleVal (x.scale s t idx)) else v

/-- The spans an element read touches: its bytes and its scale byte. -/
def Tensor.spans (x : Tensor) (idx : List Nat) : List (Nat × Nat) :=
  let p := x.place idx
  (p.1, p.2.1) :: (if x.scaled then [(x.scaleAddr idx, 1)] else [])

/-- The buffer as single-byte writes in address order. -/
def bufWrites (b : Buf) : List (Nat × List Byte) := b.map (fun x => (x.1, [x.2]))

end Sys2Proof.Machine
end

