-- ==== Sys2Proof/Machine/Units.lean ====
section
/-! DEFINITION. The units of the matrix arrays: where a MATMUL's passes lie (R69, R85, R87), the stationary tile, its
loading and swap (R76, R77, R91, R97), the current keeper (R93-R95). -/

namespace Sys2Proof.Machine

/-- The page of the TCK counters. -/
def tckPage : Nat := pageOf .tck 0 0

/-- The array page 0 counter base of an array unit's engine number: its page and its quadrant. -/
def arrUnit (e : Nat) : Nat × Nat := if e < 4 then (e, 0) else ((e - 4) / 4, (e - 4) % 4)

/-- The unit is a quadrant (R69). -/
def isQuad (t : Task) : Bool := 4 ≤ t.eng

/-- U: the edge of the unit (R69). -/
def edge (t : Task) : Nat := if isQuad t then 256 else 512

/-- Rows of an M block (R87). -/
def blockRows (t : Task) : Nat := if isQuad t then 1024 else 2048

def transA (t : Task) : Bool := bit (t.w 24) 4
def transB (t : Task) : Bool := bit (t.w 24) 5
def heritage (t : Task) : Bool := t.op == 1
def ovfInf (t : Task) : Bool := bit (t.w 24) 8

/-- The row of Table 3.2 a format belongs to: 0 BF16, 1 FP16, 2 FP8, 3 MX8/6, 4 MXFP4, 5 FP32. -/
def cellRow (fmt : Nat) : Option Nat :=
  match fmt with
  | 3 => some 0
  | 2 => some 1
  | 4 | 5 => some 2
  | 0x10 | 0x11 | 0x12 | 0x13 => some 3
  | 0x14 => some 4
  | 1 => some 5
  | _ => none

/-- Values per cell and bank (Table 3.2). -/
def perCell (row : Nat) : Nat := if row = 2 ∨ row = 3 then 2 else if row = 4 then 4 else 1

/-- Kt: contraction indices of a stationary tile (Table 3.2). -/
def tileK (t : Task) : Nat := edge t * perCell ((cellRow (t.tensor 0).fmt).getD 0)

/-- Kc, Ms and Nc (R85). -/
def kc (t : Task) : Nat := (t.tensor 0).count (if transA t then 1 else 0)
def ms (t : Task) : Nat := (t.tensor 0).count (if transA t then 0 else 1)
def nc (t : Task) : Nat := (t.tensor 1).count (if transB t then 0 else 1)

/-- Batch count over dimensions 2-5. -/
def batches (t : Task) : Nat := ((t.tensor 2).counts.drop 2).foldl (· * ·) 1

def kTiles (t : Task) : Nat := cdiv (kc t) (tileK t)
def mBlocks (t : Task) : Nat := cdiv (ms t) (blockRows t)
def nTiles (t : Task) : Nat := cdiv (nc t) (edge t)

/-- Rows of M block `b`. -/
def rowsOf (t : Task) (b : Nat) : Nat := min (blockRows t) (ms t - b * blockRows t)

/-- Granules of the task: rows over all its passes (R87). -/
def matTotal (t : Task) : Nat := batches t * nTiles t * (ms t * kTiles t)

/-- The granule at which pass `u` starts, in the order of R87. -/
def passStart (t : Task) (u : Nat) : Nat :=
  let per := mBlocks t * kTiles t
  let r := u % per
  let b := r / kTiles t
  u / per * (ms t * kTiles t) + b * blockRows t * kTiles t + r % kTiles t * rowsOf t b

/-- Passes of the task. -/
def passes (t : Task) : Nat := batches t * nTiles t * mBlocks t * kTiles t

/-- Batch and N tile (as one number), M block, K tile and row of a granule. -/
def place (t : Task) (pos : Nat) : Nat × Nat × Nat × Nat :=
  let bn := pos / (ms t * kTiles t)
  let r := pos % (ms t * kTiles t)
  let b := r / (blockRows t * kTiles t)
  let r2 := r - b * (blockRows t * kTiles t)
  (bn, b, r2 / rowsOf t b, r2 % rowsOf t b)

/-- The pass a granule belongs to. -/
def passOf (t : Task) (pos : Nat) : Nat :=
  let p := place t pos
  p.1 * (mBlocks t * kTiles t) + p.2.1 * kTiles t + p.2.2.1

/-- The granule at which a slice that starts at `pos` ends: SLICE_UNITS passes on, or at the end (R42, R87). -/
def matStop (t : Task) (pos : Nat) : Nat :=
  if t.units = 0 then matTotal t
  else if passes t ≤ passOf t pos + t.units then matTotal t else passStart t (passOf t pos + t.units)

/-- The indices of an element of A, B or an output, with its batch indices. -/
def idxA (t : Task) (m k : Nat) (bt : List Nat) : List Nat := (if transA t then [m, k] else [k, m]) ++ bt
def idxB (t : Task) (n k : Nat) (bt : List Nat) : List Nat := (if transB t then [n, k] else [k, n]) ++ bt

/-- The batch indices of a linear batch number. -/
def batchIdx (t : Task) (bn : Nat) : List Nat := unravel ((t.tensor 2).counts.drop 2) (bn / nTiles t)

/-- The columns of N tile `j`: first and one past the last. -/
def tileCols (t : Task) (bn : Nat) : Nat × Nat :=
  let j := bn % nTiles t
  (j * edge t, min (nc t) (j * edge t + edge t))

/-! ### Units -/

def ap (n sub : Nat) : Nat := pageOf .arr n sub

def getArr (s : State) (n : Nat) : Arr := mget s.arr n {}
def setArr (n : Nat) (a : Arr) (s : State) : State := { s with arr := mput s.arr n a }
def getUnit (s : State) (n q : Nat) : Unit := mget (getArr s n).units q {}
def setUnit (n q : Nat) (u : Unit) (s : State) : State :=
  setArr n { getArr s n with units := mput (getArr s n).units q u } s

/-- The array runs in quadrants (MODE.QUAD_ACK). -/
def quadMode (s : State) (n : Nat) : Bool := regBit s (pageOf .arr n 0) 0x200 0

/-- The unit exists in the array's mode: in whole mode only unit 0 does. -/
def unitIn (s : State) (n q : Nat) : Bool := q == 0 || quadMode s n

/-- SWAP_CTL.AUTO of a unit. -/
def swapAuto (s : State) (n q : Nat) : Bool := regBit s (ap n 0) 0x208 (4 + q)

/-! ### The current keeper (R93-R95) -/

def keepCycles (s : State) (n : Nat) : Nat := min 4096 (regFld s (ap n 5) 0x200 12 0)
def rampSteps (s : State) (n : Nat) : Nat := min 8 (max 1 (regFld s (ap n 5) 0x200 19 16))
def rampDwell (s : State) (n : Nat) : Nat := max 1 (regFld s (ap n 5) 0x200 31 20)
def keepEn (s : State) (n : Nat) : Bool := regBit s (ap n 5) 0x200 32

/-- The engine of unit `q` in the array's mode. -/
def unitEng (s : State) (n q : Nat) : Nat := if quadMode s n then 4 + 4 * n + q else n

/-- Dummy rows: activity of the last slice's job on the unit (R95). -/
def dummyRows (n q cycles : Nat) (s : State) : State :=
  bump (ap n 5) 0 q cycles (addAct (getEng s (unitEng s n q)).lastJob 0 cycles s)


/-! ### The stationary tile (R73, R76, R97) -/

/-- Where cell (`r`, `c`) of unit `q` lies: its quadrant of the array, and its number there. -/
def cellAt (quad : Bool) (q r c : Nat) : Nat × Nat :=
  if quad then (q, r * 256 + c) else (r / 256 * 2 + c / 256, r % 256 * 256 + c % 256)

/-- The key of a bank of a quadrant. -/
def bankKey (bank : Bool) (q : Nat) : Nat := 4 * b2n bank + q

/-- The 16 bits of a cell in a bank. -/
def getCell (s : State) (n : Nat) (bank : Bool) (k : Nat × Nat) : Nat :=
  mget (mget (getArr s n).banks (bankKey bank k.1) []) k.2 0

/-- Bits of a cell that one of its values takes. -/
def laneBits (t : Task) : Nat := 16 / perCell ((cellRow (t.tensor 0).fmt).getD 0)

/-- Cell (`r`, `c`) of a stationary tile: its values from the lowest contraction index up in its low bits; of a binary32
element the high part (DESIGN CHOICE, log 113). -/
def tileCell (t : Task) (s : State) (bn kt r c : Nat) : Nat :=
  let x := t.tensor 1
  let k := kt * tileK t + r * perCell ((cellRow (t.tensor 0).fmt).getD 0)
  let code (i : Nat) : Nat := x.get s (some t) (idxB t ((tileCols t bn).1 + c) i (batchIdx t bn))
  if x.fmt = 1 then code k / 65536
  else ((List.range (perCell ((cellRow (t.tensor 0).fmt).getD 0))).map
    (fun j => if k + j < kc t then code (k + j) * 2 ^ (laneBits t * j) else 0)).sum

/-- Rows of cells and columns that the tile of pass `u` fills. -/
def tileSize (t : Task) (u : Nat) : Nat × Nat :=
  let p := place t (passStart t u)
  let cols := tileCols t p.1
  (cdiv (min (kc t - p.2.2.1 * tileK t) (tileK t)) (perCell ((cellRow (t.tensor 0).fmt).getD 0)), cols.2 - cols.1)

/-- Bytes of the tile of pass `u` and of its scales that the loader reads (Table 3.16). -/
def tileBytesIn (t : Task) (u : Nat) : Nat :=
  let p := place t (passStart t u)
  let k := min (kc t - p.2.2.1 * tileK t) (tileK t)
  let x := t.tensor 1
  (tileSize t u).2 * (cdiv (k * x.width) 8 + (if x.blen = 32 then cdiv k 32 else 0))

/-- A quadrant's part of the tile of pass `u`. -/
def tilePart (t : Task) (s : State) (u quadrant : Nat) : Map Nat :=
  let p := place t (passStart t u)
  let r0 := if isQuad t then 0 else quadrant / 2 * 256
  let c0 := if isQuad t then 0 else quadrant % 2 * 256
  (List.range (min 256 ((tileSize t u).1 - r0))).flatMap (fun r =>
    (List.range (min 256 ((tileSize t u).2 - c0))).map (fun c => (r * 256 + c, tileCell t s p.1 p.2.2.1 (r0 + r) (c0 + c))))

/-- The quadrants of a unit. -/
def unitQuads (quad : Bool) (q : Nat) : List Nat := if quad then [q] else [0, 1, 2, 3]

/-- The loader writes the tile of a task's pass `u` into a bank of unit `q`; cells that the tile leaves out hold zero (R76). -/
def loadTile (n q : Nat) (bank : Bool) (t : Task) (u : Nat) (s : State) : State :=
  let a := getArr s n
  bump (ap n 4) 0 3 (tileBytesIn t u)
    (setArr n { a with banks := (unitQuads (isQuad t) q).foldl (fun m p => mput m (bankKey bank p) (tilePart t s u p)) a.banks } s)

/-- The task of the slice in hand on a unit, else the running task. -/
def unitTask (s : State) (n q : Nat) : Option Task :=
  let g := getEng s (unitEng s n q)
  (match g.queue with | a :: _ => some a.task | [] => g.running).bind (findTask s)

/-- The task and the pass whose tile the loader loads next: that of the slice in hand, else the first of the further task (R88). -/
def nextTile (s : State) (n q : Nat) : Option (Task × Nat) :=
  let next := ((getEng s (unitEng s n q)).further.bind (findTask s)).map (fun t => (t, 0))
  match unitTask s n q with
  | none => next
  | some t =>
    let u := passOf t t.pos + (if (getUnit s n q).placed == some t.id then 1 else 0)
    if u < passes t then some (t, u) else next

/-- The swap is armed with a load for pass `p` of the task: its tile, or cells written through page 6 (R76, R97). -/
def canSwap (s : State) (n q : Nat) (t : Task) (p : Nat) : Bool :=
  let u := getUnit s n q
  u.armed && (u.insole || u.load == some (t.id, p))

/-- The first row of a pass is issued with the swap tag: the insole bank becomes the active one behind the front (R76). -/
def swapIn (n q : Nat) (t : Option Task) (s : State) : State :=
  let u := getUnit s n q
  setUnit n q { u with armed := false, ready := false, chained := false, front := true, bank := !u.bank,
                       placed := t.map (·.id), pattern := u.insole, insole := false, load := none, row := [] } s

/-- The task's tile for the pass in hand is active: it stays so through the pass, and is swapped in before its first row
and after another slice has run on the unit (R91); none while the swap is not armed (R77). -/
def tileIn (t : Task) (s : State) : Option State :=
  let x := arrUnit t.eng
  if (getUnit s x.1 x.2).placed == some t.id then some s
  else if canSwap s x.1 x.2 t (passOf t t.pos) then some (swapIn x.1 x.2 (some t) s) else none

/-- The pass in hand has issued its last row. -/
def passOver (n q : Nat) (s : State) : State := setUnit n q { getUnit s n q with placed := none, front := false } s

/-- The keeper holds the unit's real rows back until it has climbed to full activity (R94). -/
def climbing (s : State) (n q : Nat) : Bool := keepEn s n && decide (0 < (getUnit s n q).step)

/-- Cycles in which a row is issued: three passes for binary32, and an eighth of the rate for the heritage product (R88). -/
def issueCycles (t : Task) : Nat := (if (t.tensor 0).fmt = 1 then 3 else 1) * (if heritage t then 8 else 1)

/-- Of `k` rows of a slice that ends at granule `stop`, those that the unit can issue with the swaps armed now. -/
def rowsReady (t : Task) (stop k : Nat) (s : State) : Nat :=
  let x := arrUnit t.eng
  let u := getUnit s x.1 x.2
  let p := place t t.pos
  let left := rowsOf t p.2.1 - p.2.2.2
  let lim :=
    if u.placed == some t.id then
      (if canSwap s x.1 x.2 t (passOf t (t.pos + left)) then left + rowsOf t (place t (t.pos + left)).2.1 else left)
    else if canSwap s x.1 x.2 t (passOf t t.pos) then left else 0
  if climbing s x.1 x.2 then 0 else min (min k (stop - t.pos)) lim

/-- The cycles of a MATMUL slice: those in which no row can be issued carry dummy rows while the keeper is enabled, and
count as LOAD_WAIT where the feeder waits for the swap (R77, R93, R95). The climb of the keeper counts for itself. A gap
before it is over. -/
def chargeRows (t : Task) (stop k cycles : Nat) (s : State) : State :=
  let x := arrUnit t.eng
  if climbing s x.1 x.2 then s else
  let n := rowsReady t stop k s
  let idle := cycles - n * issueCycles t
  let s1 := if keepEn s x.1 then bump (ap x.1 5) 0 x.2 idle (addAct t.job 0 cycles s) else addAct t.job 0 (cycles - idle) s
  let s2 := setUnit x.1 x.2 { getUnit s1 x.1 x.2 with gap := 0 } s1
  if n < min k (stop - t.pos) then bump (ap x.1 0) 0 (4 + x.2) idle s2 else s2

/-! ### Checks of a unit (R79, R96) -/

/-- The two copies of a pointer disagree (R191). -/
def Ptrs.bad (p : Ptrs) : Bool := p.wr != p.wr2 || p.rd != p.rd2

/-- Both copies of both pointers, 16 bits each, as W8 of a QUEUE_PTR record. -/
def Ptrs.both (p : Ptrs) : Nat := p.wr % 65536 + p.wr2 % 65536 * 2 ^ 16 + p.rd % 65536 * 2 ^ 32 + p.rd2 % 65536 * 2 ^ 48

/-- A welt of the unit whose pointer copies disagree. -/
def badWelt (s : State) (e : Nat) : Option (Nat × Ptrs) :=
  if e < 20 then (getUnit s (arrUnit e).1 (arrUnit e).2).welts.find? (fun x => x.2.bad) else none

end Sys2Proof.Machine
end

