-- ==== Sys2Proof/Machine/Engine.lean ====
section
/-! DEFINITION. How an engine runs the slices admitted to it: start, granules of work, the end of a slice and of a
task's work (R42, R57-R59, R91, R172-R175). A granule is the smallest piece after which a class may be suspended. -/

namespace Sys2Proof.Machine

/-- The activity class of an engine. -/
def actClass (e : Nat) : Nat :=
  if e < 32 then 0 else if e < 48 then 1 else if e = 48 then 2 else if e < 64 then 7 else 9

/-- The initiator class of a task's accesses (Table 8.5). -/
def clsOf (e : Nat) : Nat :=
  if e < 32 then 12 else if e < 48 then 13 else if e = 48 then 14 else if e < 64 then 4 + (e - 56) else 15

/-- A job has shown activity in this tick (R186). -/
def markAlive (job : Nat) (s : State) : State :=
  { s with tck := { s.tck with alive := if s.tck.alive.contains job then s.tck.alive else s.tck.alive ++ [job] } }

/-- The task leaves its engine: as running task, further task, context or admitted slice. -/
def leaveEngine (t : Task) (s : State) : State :=
  let g := getEng s t.eng
  let was := g.running == some t.id
  let head := match g.queue with | a :: _ => a.task == t.id | [] => false
  let g1 := { g with
    running := if was then g.further else g.running,
    further := if was || g.further == some t.id then none else g.further,
    ctx := g.ctx.filter (· ≠ t.id),
    ctxBad := g.ctxBad.filter (· ≠ t.id),
    queue := g.queue.filter (fun a => a.task ≠ t.id),
    started := g.started && !head,
    active := g.active.filter (fun x => x.2 ≠ t.id),
    shadow := g.shadow.filter (fun x => x.2 ≠ t.id) }
  setEng t.eng g1 s

/-- The slices admitted to the task and its context go, while it keeps its place on the engine: a MOVE does so until its
commit point (R202, R203). -/
def leaveSlices (t : Task) (s : State) : State :=
  let g := getEng s t.eng
  let head := match g.queue with | a :: _ => a.task == t.id | [] => false
  setEng t.eng { g with ctx := g.ctx.filter (· ≠ t.id), ctxBad := g.ctxBad.filter (· ≠ t.id),
                        queue := g.queue.filter (fun a => a.task ≠ t.id), started := g.started && !head } s

/-- A Ladle channel's shadow task moves to the active set when the active one leaves (R202). -/
def promoteShadow (e : Nat) (s : State) : State :=
  let g := getEng s e
  let up := g.shadow.filter (fun x => (mfind g.active x.1).isNone)
  setEng e { g with active := up.foldl (fun m x => mput m x.1 x.2) g.active,
                    shadow := g.shadow.filter (fun x => (mfind g.active x.1).isSome) } s

/-- DETAIL of a task's record (R55): the fault's for ADDRESS_FAULT, BOUNDS_FAULT and STALE_EYELET, and otherwise the
class's, of a MATMUL the passes run and the reloads (Table 3.6). -/
def Task.recDetail (t : Task) : Word :=
  if 3 ≤ t.status ∧ t.status ≤ 5 then t.fault
  else if t.cls = 1 then word (passOf t t.pos % 2 ^ 32 + t.reloads * 2 ^ 32) else t.detail

/-- The end of a direct transfer: the write of STATUS, and LDL_CH_DONE with NOTIFY (R204). -/
def directEnd (t : Task) (c : Nat) (f : Fail) (s : State) : State :=
  let n := t.eng - 0x38
  let l := getLdl s n
  let ch := mget l.active c {}
  let ch1 := { ch with status := f.status, busy := false, pos := t.detail.toNat,
                       detail := if f.status = 3 ∨ f.status = 4 then word f.detail else 0 }
  let page := pageOf .ldl n 0
  let s1 := bump page 0 5 1 (setLdl n { l with active := mput l.active c ch1, serving := none } (dropTask t.id s))
  if bit ch.ctl 19 then intSet page 1 (setReg page 0x218 (setBit (getReg s page 0x218) c true) s1) else s1

/-- The bucket of a REDUCE task (Table 10.4). -/
def bucketOf (t : Task) : Nat := fld (t.w 24) 50 32

/-- Flags of the task's staged share for its record (Table 10.4). -/
def redDetail (t : Task) (s : State) : Word :=
  let mine := s.lnk.adders.filter (fun x => x.2.job == t.job && x.2.bucket == bucketOf t)
  let d1 := if mine.any (fun x => x.2.resc) then setBit t.detail 0 true else t.detail
  if mine.any (fun x => x.2.prom) || s.lnk.promoted.contains (t.job, bucketOf t) then setBit d1 1 true else d1

/-- What the class has put into DETAIL when the task's work is over; an ALLREDUCE reports what became of its share whatever
its status (R294). -/
def endDetail (t : Task) (s : State) : Word :=
  if t.cls = 6 ∧ t.op = 1 ∧ t.phase = .dispatched then redDetail t s else t.detail

/-- The task's work is over with a status, ABORTED where an abort has reached it (R59); its commit point remains (R57,
R58), and a MOVE stands on its engine until then (R203). A direct transfer ends here (R204). -/
def finish (t : Task) (f : Fail) (s : State) : State :=
  let f1 := if s.tck.aborting.contains t.id then { status := 2 } else f
  let s1 := putTask { t with phase := .complete, status := f1.status, slot := f1.slot, fault := word f1.detail, parked := false,
                             detail := endDetail t s, blocks := [] } s
  match t.direct with
  | some c => directEnd t c f1 (leaveEngine t s1)
  | none => if t.cls = 5 then leaveSlices t s1 else leaveEngine t s1

/-- What a granule of work answers. -/
inductive StepRes where
  /-- An access waits: nothing happens. -/
  | wait
  /-- The task ends with a fault status. -/
  | fail (f : Fail) (s : State)
  /-- The granule is done: the task's new accumulators and the state with its writes. -/
  | go (t : Task) (s : State)

/-- The device dispatches, issues and accepts: it is not in fail-quiet (R363). -/
def running (s : State) : Bool := !s.rel.fqActive

/-- Cycles of a slice counted as busy cycles of the Churn or as cycles with a transfer active (R158, Table 7.10). -/
def busyCount (e cycles : Nat) (s : State) : State :=
  if e = 0x30 then bump (pageOf .chn 0 0) 0 1 cycles s
  else if 0x38 ≤ e ∧ e < 0x40 then bump (pageOf .ldl (e - 0x38) 0) 0 8 cycles s
  else s

/-- The cycles of a slice command counted: as activity of the task's job, as busy cycles of the engine, and as a slice that
has run beyond its SLICE_BOUND once they exceed it (R174, R187); a direct transfer is no slice (R202). -/
def chargeSlice (t : Task) (stop k cycles : Nat) (s : State) : State :=
  let s1 := if t.eng < 32 then chargeRows t stop k cycles s else addAct t.job (actClass t.eng) cycles s
  let s2 := busyCount t.eng cycles s1
  if t.direct.isSome then s2 else
  markAlive t.job (if t.run ≤ t.bound ∧ t.bound < t.run + cycles then bump tckPage 0 5 1 s2 else s2)

/-- The first work of an admitted slice: its context freed, its reload noted (R91, R175). -/
def startSlice (t : Task) (a : Adm) (s : State) : Task × State :=
  let g := getEng s t.eng
  let u := arrUnit t.eng
  let page := pageOf .arr u.1 0
  let reload := decide (t.eng < 32) && t.startTick.isSome && g.lastTask != some t.id
  let t1 := { t with startTick := some (t.startTick.getD s.tck.num),
                     reloads := if reload then t.reloads + 1 else t.reloads,
                     sliceEnd := a.stop, counted := false }
  let s0 := setEng t.eng { g with started := true, ctx := g.ctx.filter (· ≠ t.id), lastTask := some t.id, lastJob := t.job,
                                  served := if a.resume then g.served else t.cq % 16,
                                  running := if g.running.isNone then some t.id else g.running,
                                  further := if g.running.isNone && g.further == some t.id then none else g.further } s
  let s1 := if a.resume then bump tckPage 0 3 1 s0 else s0
  let s2 := if t.eng < 32 ∧ a.resume = true then bump page 0 (16 + u.2) 1 s1 else s1
  (t1, if reload then bump page 0 (20 + u.2) 1 s2 else s2)

/-- Another task is running on a Ladle engine: a channel's next task waits for its commit point (R203). -/
def ladleHeld (s : State) (t : Task) : Bool :=
  decide (0x38 ≤ t.eng ∧ t.eng < 0x40) && (getEng s t.eng).running.any (· != t.id)

/-- The slice in hand has ended: the next admitted one may start (R172, R174). -/
def endSlice (t : Task) (s : State) : State :=
  let g := getEng s t.eng
  putTask { t with run := 0 } (setEng t.eng { g with queue := g.queue.drop 1, started := false } s)

/-! ### The checks of an engine (R79, R96, R158) -/

/-- The first page of the block an engine belongs to. -/
def checkPage (e : Nat) : Nat :=
  if e < 20 then ap (arrUnit e).1 0 else if e < 0x30 then pageOf .ve (e - 0x20) 0 else if e = 0x30 then pageOf .chn 0 0
  else if 0x38 ≤ e ∧ e < 0x40 then pageOf .ldl (e - 0x38) 0 else tckPage

/-- The event of an engine's check, of a kind of Table 12.3, during a task that ends with ENGINE_FAULT. -/
def checkEv (t : Task) (kind : Nat) : ErrEvent :=
  { mkEv (checkPage t.eng) 1 kind with unit := if t.eng < 20 then (arrUnit t.eng).2 else 0, job := t.job, status := 9 }

/-- A welt whose pointers disagree is noted, and its pointers return to 0 (R79, R191). -/
def weltReset (t : Task) (w : Nat) (p : Ptrs) (s : State) : State :=
  let x := arrUnit t.eng
  let u := getUnit s x.1 x.2
  raiseEv (checkPage t.eng) 10 0 { checkEv t 4 with locus := w, detail := p.both }
    (setUnit x.1 x.2 { u with welts := mdel u.welts w } s)

/-- The bit of QUEUE_PTR on the first page of a block with clock-domain crossings (R245, R246). -/
def crossBit (page : Nat) : Option Nat :=
  match pageOwner page with
  | some (.crm, _, _) => some 12
  | some (.hbm, _, _) => some 10
  | _ => none

/-- A clock-domain crossing of a block whose pointers disagree is noted with an event, and its pointers return to 0 (R191, Table
7.1). -/
def crossReset (page : Nat) (p : Ptrs) (e : ErrEvent) (s : State) : State :=
  let s1 : State := { s with cross := mdel s.cross page }
  match crossBit page with
  | some b => raiseEv page b 0 { e with detail := p.both } s1
  | none => report page { e with detail := p.both } s1

/-- The crossing in front of an engine whose pointer copies disagree. -/
def badCross (s : State) (e : Nat) : Option Ptrs :=
  if checkPage e = tckPage then none else (mfind s.cross (checkPage e)).bind (fun p => if p.bad then some p else none)

/-- An error that one of the engine's checks finds as a task's slice goes on, noted: in the context it was resumed from, in
a welt, in a crossing, or elsewhere in the engine (R79, R96, R158, R191). The task then ends with ENGINE_FAULT. -/
def engFault (t : Task) (s : State) : Option State :=
  let g := getEng s t.eng
  if g.ctxBad.contains t.id then
    some (raiseFree (checkPage t.eng) 11 0 (checkEv t 5) (setEng t.eng { g with ctxBad := g.ctxBad.filter (· ≠ t.id) } s))
  else match badWelt s t.eng with
    | some (w, p) => some (weltReset t w p s)
    | none => match badCross s t.eng with
    | some p => some (crossReset (checkPage t.eng) p (checkEv t 4) s)
    | none => match s.upset.find? (fun x => x.1 == t.eng && decide (x.2 < 64)) with
      | some x => some (raiseFree (checkPage t.eng) x.2 0 (checkEv t 5) { s with upset := s.upset.erase x })
      | none => none

/-! ### Running a slice -/

/-- What running granules comes to: the task and the state after them, or after those before the one that failed. -/
inductive GranRes where
  | done (t : Task) (s : State)
  | fail (f : Fail) (t : Task) (s : State)

/-- Up to `n` granules of a slice that ends at granule `stop`. -/
def runGranules (step : Task → State → StepRes) (stop : Nat) : Nat → Task → State → GranRes
  | 0, t, s => .done t s
  | n + 1, t, s =>
    if stop ≤ t.pos ∨ t.parked = true then .done t s else
    match step t s with
    | .wait => .done t s
    | .fail f s1 => .fail f t s1
    | .go t1 s1 => runGranules step stop n t1 s1

/-- The task's last granule is done: with work behind the engine (`drains`) it leaves the engine, but a MOVE keeps it until
its commit point (R203); another ends with OK. An abort that reached it has it end with ABORTED (R59). -/
def workDone (t : Task) (drains : Bool) (s : State) : State :=
  if drains = true ∧ s.tck.aborting.contains t.id = false then
    (if t.cls = 5 then putTask t s else leaveEngine t (putTask t s))
  else finish t { status := 1 } s

/-- The slice has reached its stop: the task's work is over, an abort ends it, or it goes on in a later slice (R59). -/
def sliceOver (t : Task) (total : Nat) (drains : Bool) (s : State) : State :=
  let t1 := { t with run := 0 }
  let s1 := endSlice t s
  if total ≤ t.pos then workDone t1 drains s1
  else if s1.tck.aborting.contains t.id then finish t1 { status := 2 } s1
  else s1

/-- A slice command: `k` granules of the task's slice at the head of its engine's admitted slices, in `cycles` of the
engine's clock. With the task not there, or waiting, or about to end for a refused request (R263), or the device quiet,
nothing happens. -/
def runSlice (id k cycles : Nat) (mine : Task → Bool) (total : Task → Nat) (drains : Task → Bool)
    (step : Task → State → StepRes) (s : State) : State :=
  match findTask s id with
  | none => s
  | some t =>
    let g := getEng s t.eng
    match g.queue with
    | [] => s
    | a :: _ =>
      if a.task ≠ id ∨ g.draining = true ∨ mine t = false ∨ t.phase ≠ .dispatched ∨ t.status ≠ 0 ∨
          t.refetch.isSome = true ∨ t.parked = true ∨ t.nacked.isSome = true ∨ running s = false ∨ ladleHeld s t = true then s
      else
        forJob t.job (fun s =>
        let x := if g.started then (t, s) else startSlice t a s
        let s0 := chargeSlice x.1 a.stop k cycles x.2
        let t0 := { x.1 with run := x.1.run + cycles }
        match engFault t0 s0 with
        | some s1 => finish t0 { status := 9 } s1
        | none =>
          match runGranules step a.stop k t0 s0 with
          | .fail f t1 s1 => finish t1 f s1
          | .done t1 s1 =>
            let s2 := putTask t1 s1
            if t1.parked then leaveEngine t1 (endSlice t1 s2)
            else if a.stop ≤ t1.pos then sliceOver t1 (total t1) (drains t1) s2
            else s2) s

/-- The slot a fault at an address concerns (R55): the first in use with bit `r` of ROLE whose extent has bytes in that
line; 0 when there is none. -/
def slotAt (t : Task) (r a : Nat) : Nat :=
  ((List.range 8).find? (fun i => bit (word (t.role i)) r && (t.tensor i).extents.any (fun e =>
    decide (lineOf (localPart e.1.toNat) ≤ lineOf a) && decide (lineOf a ≤ lineOf (localPart e.2.toNat))))).getD 0

/-- Reads checked before a granule (R22, R226, R231): what they meet, or the state with tags and counters moved. -/
def readSpans (t : Task) (rs : List (Nat × Nat)) (s : State) (k : State → StepRes) : StepRes :=
  match needSpans s true rs with
  | .wait => .wait
  | .fault a => .fail (addrFault (slotAt t 0 a) a) s
  | .poison a => .fail { status := 9, slot := slotAt t 0 a } (poisonRead (clsOf t.eng) a t.job 9 s)
  | .ok =>
    match provPoison s t rs with
    | some p => .fail { status := 9, slot := slotAt t 0 (p.line * 256) } (provPoisonRead (clsOf t.eng) p t.job s)
    | none => k (provReads t rs (touchReads (clsOf t.eng) rs s))

/-- An output extent of the task overlaps an input extent of it: its output values are unspecified (R84, R127, R205). -/
def overlapped (t : Task) : Bool :=
  let of (r : Nat) : List (Int × Int) := ((List.range 8).filter (fun i => t.role i == r)).flatMap (fun i => (t.tensor i).extents)
  [1, 2, 3, 5].contains t.cls && (of 2).any (fun y => (of 1).any (fun x => decide (x.1 ≤ y.2) && decide (y.1 ≤ x.2)))

/-- The values a task writes, and the state that has drawn those that are free: each byte of an overlapped task's (R84,
R127, R205). -/
def outBuf (t : Task) (b : Buf) (s : State) : Buf × State :=
  if overlapped t then
    (((List.range b.length).zip b).map (fun z => (z.2.1, (Config.freeWord (s.free + z.1)).setWidth 8)), { s with free := s.free + b.length })
  else (b, s)

/-- Writes of a granule: checked, then made, provisionally for a speculative task (R61). -/
def writeBuf (t : Task) (b : Buf) (s : State) (k : State → StepRes) : StepRes :=
  match (if t.spec then Need.ok else needLines s false ((b.map (fun x => lineOf x.1)).eraseDups)) with
  | .wait => .wait
  | .fault a | .poison a =>
    let low := lowestFault s ((bufWrites b).map (fun w => (w.1, w.2.length))) a
    .fail (addrFault (slotAt t 1 low) low) s
  | .ok =>
    let o := outBuf t b s
    k (writeRuns (clsOf t.eng) (some t) none (bufWrites o.1) o.2)

end Sys2Proof.Machine
end

