-- ==== Sys2Proof/Machine/Checks.lean ====
section
/-! DEFINITION. The checks that dispatch makes on tensor descriptors and extents (R37, R44-R49, R52, R60), shared by
tasks and direct transfers. -/

namespace Sys2Proof.Machine

/-- Base address and length in bytes of an eyelet's buffer (R51). -/
def eyeBuf (s : State) (e : Nat) : Nat × Nat :=
  (poolBase s (eyePool e) + eyeIdx e * bufSize s (eyePool e), bufSize s (eyePool e))

/-- The absolute global address of element 0 of a slot's tensor (R46). -/
def absBase (s : State) (e : Nat) (ws : List Word) : Nat :=
  let x := tensorOf ws
  if x.relative then fld (devId s) 13 0 * 2 ^ 50 + (eyeBuf s e).1 + x.base else x.base

/-- A structure's address in the HBM or the scratchpad window, aligned (R38). -/
def addrOk (a align : Nat) : Bool := a % align == 0 && (winOf a == .hbm || winOf a == .scr)

/-- One past the end of the window of Table 1.4 that holds an address. -/
def winEnd (a : Nat) : Nat :=
  match winOf a with
  | .hbm => 0x6000000000
  | .scr => 0x100800000000
  | .arr n => 0x180000000000 + (n + 1) * 0x10000000
  | .ve n => 0x180040000000 + (n + 1) * 0x2000000
  | _ => a

/-- One past the end of the mapped part of the window that holds an address. -/
def mappedEnd (s : State) (a : Nat) : Nat :=
  match winOf a with
  | .hbm => hbmEnd s
  | .scr => scrEnd s
  | _ => winEnd a

/-- The windows in which tensors may lie (R20, R22). -/
def tensorWin (w : Win) : Bool :=
  match w with
  | .hbm | .scr | .arr _ | .ve _ => true
  | _ => false

/-- One extent against the windows (R48): `allow` are the class's windows for it, `remote` whether its class may name
another device. -/
def extentFail (s : State) (slot : Nat) (allow : Nat → Bool) (remote : Bool) (e : Int × Int) : Option Fail :=
  if e.1 < 0 then some (addrFault slot (2 ^ 64 - e.1.natAbs)) else
  let lo := e.1.toNat
  let hi := e.2.toNat
  let l := localPart lo
  let h := localPart hi
  let dev := lo - l
  if dev = fld (devId s) 13 0 * 2 ^ 50 then
    if mappedMem s l = false ∨ allow l = false then some (addrFault slot lo)
    else if hi / 2 ^ 50 ≠ lo / 2 ^ 50 ∨ winOf l ≠ winOf h ∨ mappedMem s h = false then some (addrFault slot (dev + mappedEnd s l))
    else if allow h = false then some (addrFault slot lo)
    else none
  else if remote = false ∨ bit (devId s) 63 = false ∨ tensorWin (winOf l) = false then some (addrFault slot lo)
  else if hi / 2 ^ 50 ≠ lo / 2 ^ 50 ∨ winOf l ≠ winOf h then some (addrFault slot (dev + winEnd l))
  else none

/-- A RELATIVE tensor's data extent against its buffer, which lies on this device (R48, R51). DETAIL is the local address
of a byte of this device, and the 64-bit address of any other. -/
def boundsFail (s : State) (slot : Nat) (buf : Nat × Nat) (e : Int × Int) : Option Fail :=
  let dev := fld (devId s) 13 0 * 2 ^ 50
  let lo := (e.1 % 2 ^ 64).toNat
  if e.1 < (dev + buf.1 : Nat) ∨ ((dev + buf.1 + buf.2 : Nat) : Int) ≤ e.1 then
    some { status := 4, slot := slot, detail := if isLocal s lo then localPart lo else lo }
  else if ((dev + buf.1 + buf.2 : Nat) : Int) ≤ e.2 then some { status := 4, slot := slot, detail := buf.1 + buf.2 }
  else none

/-- The extents of every slot in use (R48), and those of a speculative task's outputs (R60). -/
def extentsFail (s : State) (t : Task) (allow : Nat → Nat → Bool) (remote : Nat → Bool) : Option Fail :=
  firstFail ((List.range 8).map (fun i =>
    if t.td.getD i [] = [] then none else
    let x := t.tensor i
    let b := if x.relative then boundsFail s i (eyeBuf s (t.eye.getD i 0)) x.extent else none
    let a := firstFail (x.extents.map (extentFail s i (allow i) (remote i)))
    let own (e : Int × Int) : Bool :=
      let l := localPart e.1.toNat
      isLocal s e.1.toNat && (winOf l == .hbm || winOf l == .scr)
    let sp := if t.spec && bit (word (t.role i)) 1 && !x.extents.all own then some (badDesc i) else none
    firstFail [b, sp, a]))

end Sys2Proof.Machine
end

