-- ==== Sys2Proof/Machine/Crypto.lean ====
section
/-! DEFINITION. The standard functions that the spec names and a reader can compute: the CRC-32 of IEEE 802.3 (R255),
SHA-256 and HMAC-SHA-256 (R375), AES-256 in Galois/counter mode (R276) and in XTS mode (R240). Byte strings stand as lists,
first byte first. -/

namespace Sys2Proof.Crypto

/-- One bit of the CRC-32, polynomial 0x04C11DB7 in reflected form. -/
def crcBit (c : Nat) : Nat := if c % 2 = 1 then Nat.xor (c / 2) 0xEDB88320 else c / 2

/-- One byte of the CRC-32. -/
def crcByte (c : Nat) (b : Byte) : Nat :=
  crcBit (crcBit (crcBit (crcBit (crcBit (crcBit (crcBit (crcBit (Nat.xor c b.toNat))))))))

/-- The CRC-32 of IEEE 802.3 (R255). -/
def crc32 (bs : List Byte) : BitVec 32 := BitVec.ofNat 32 (Nat.xor (bs.foldl crcByte 0xFFFFFFFF) 0xFFFFFFFF)

/-- `n` bytes of a number, most significant first. -/
def beBytes (n v : Nat) : List Byte := (List.range n).map (fun i => BitVec.ofNat 8 (v / 256 ^ (n - 1 - i)))

/-- The number of a byte string, most significant byte first. -/
def beNat (bs : List Byte) : Nat := bs.foldl (fun n b => n * 256 + b.toNat) 0

/-- Two byte strings combined by exclusive or, as long as the shorter. -/
def xorBytes (x y : List Byte) : List Byte := List.zipWith (· ^^^ ·) x y

/-- A byte string cut into pieces of `n` bytes, the last as it comes out. -/
def pieces (n : Nat) (bs : List Byte) : List (List Byte) :=
  (List.range (cdiv bs.length n)).map (fun i => (bs.drop (n * i)).take n)

/-! ### SHA-256 (FIPS 180-4) -/

/-- The largest `r` below `2 ^ k` with `r ^ d ≤ n`, bit by bit. -/
def rootBits (d n : Nat) : Nat → Nat → Nat
  | 0, r => r
  | k + 1, r => rootBits d n k (if (r + 2 ^ k) ^ d ≤ n then r + 2 ^ k else r)

/-- The first 32 bits of the fraction of the `d`-th root of a number below 2^10. -/
def rootFraction (d p : Nat) : BitVec 32 := BitVec.ofNat 32 (rootBits d (p * 2 ^ (32 * d)) 42 0)

/-- The primes below 312: the first 64. -/
def primes : List Nat :=
  ((List.range 312).drop 2).filter (fun p => ((List.range p).drop 2).all (fun q => p % q != 0))

/-- The constant of each round: the fraction of a cube root of a prime. -/
def roundKeys : List (BitVec 32) := primes.map (rootFraction 3)

/-- The initial hash value: the fractions of square roots of primes. -/
def hashStart : List (BitVec 32) := (primes.take 8).map (rootFraction 2)

/-- The exclusive or of a word turned right by each of some amounts. -/
def turns (rs : List Nat) (x : BitVec 32) : BitVec 32 := rs.foldl (fun y r => y ^^^ x.rotateRight r) (0 : BitVec 32)

/-- The message schedule, newest word first, extended by `n` words. -/
def schedule : Nat → List (BitVec 32) → List (BitVec 32)
  | 0, ws => ws
  | n + 1, ws =>
    let back (i : Nat) : BitVec 32 := ws.getD (i - 1) 0
    let w := (turns [17, 19] (back 2) ^^^ back 2 >>> 10) + back 7 + (turns [7, 18] (back 15) ^^^ back 15 >>> 3) + back 16
    schedule n (w :: ws)

/-- A round on the last four values of the two chains, `x` the standard's a to d and `y` its e to h, newest first. -/
def mixStep (c : List (BitVec 32) × List (BitVec 32)) (kw : BitVec 32 × BitVec 32) : List (BitVec 32) × List (BitVec 32) :=
  let x (i : Nat) : BitVec 32 := c.1.getD i 0
  let y (i : Nat) : BitVec 32 := c.2.getD i 0
  let pick := y 2 ^^^ (y 0 &&& (y 1 ^^^ y 2))
  let most := (x 0 &&& x 1) ||| (x 2 &&& (x 0 ||| x 1))
  let add := y 3 + turns [6, 11, 25] (y 0) + pick + kw.1 + kw.2
  ((add + turns [2, 13, 22] (x 0) + most) :: c.1.take 3, (x 3 + add) :: c.2.take 3)

/-- The hash value after a 64-byte piece. -/
def absorb (h : List (BitVec 32)) (piece : List Byte) : List (BitVec 32) :=
  let ws := (pieces 4 piece).map (fun b => BitVec.ofNat 32 (beNat b))
  let r := (roundKeys.zip (schedule 48 ws.reverse).reverse).foldl mixStep (h.take 4, h.drop 4)
  List.zipWith (· + ·) h (r.1 ++ r.2)

/-- SHA-256 of a byte string. -/
def sha256 (bs : List Byte) : List Byte :=
  let fill := bs ++ 0x80 :: List.replicate ((119 - bs.length % 64) % 64) 0 ++ beBytes 8 (8 * bs.length)
  ((pieces 64 fill).foldl absorb hashStart).flatMap (fun w => beBytes 4 w.toNat)

/-- HMAC-SHA-256 under a key of at most 64 bytes. -/
def hmac (key msg : List Byte) : List Byte :=
  let pad (c : Byte) : List Byte := (key ++ List.replicate (64 - key.length) 0).map (· ^^^ c)
  sha256 (pad 0x5c ++ sha256 (pad 0x36 ++ msg))

/-! ### AES-256 (FIPS 197) -/

/-- A byte times x in the field of AES. -/
def timesX (a : Byte) : Byte := (a <<< 1) ^^^ (if a.msb then 0x1b else 0)

/-- The product of two bytes in the field, over the `n` low bits of the second. -/
def byteMul : Nat → Byte → Byte → Byte
  | 0, _, _ => 0
  | n + 1, a, b => (if b.getLsbD 0 then a else 0) ^^^ byteMul n (timesX a) (b >>> 1)

/-- `a ^ (2 ^ (n + 1) - 2)`: with `n` = 7 the inverse, and 0 for 0. -/
def byteInv : Nat → Byte → Byte
  | 0, _ => 1
  | n + 1, a => byteMul 8 (byteMul 8 a a) (byteInv n (byteMul 8 a a))

/-- The substitution of one byte. -/
def subByte (a : Byte) : Byte :=
  let b := byteInv 7 a
  b ^^^ b.rotateLeft 1 ^^^ b.rotateLeft 2 ^^^ b.rotateLeft 3 ^^^ b.rotateLeft 4 ^^^ 0x63

/-- The substitution as a table, and its inverse. -/
def subTable : List Byte := (List.range 256).map (fun i => subByte (BitVec.ofNat 8 i))
def subst (a : Byte) : Byte := subTable.getD a.toNat 0
def unsubst (a : Byte) : Byte := BitVec.ofNat 8 (subTable.idxOf a)

/-- The key schedule of a 32-byte key, newest four-byte word first, extended by `n` words; `rc` is the next round
constant. -/
def keyWords : Nat → Byte → List (List Byte) → List (List Byte)
  | 0, _, ws => ws
  | n + 1, rc, ws =>
    let last := ws.getD 0 []
    let t :=
      if ws.length % 8 = 0 then xorBytes ((last.drop 1 ++ last.take 1).map subst) [rc, 0, 0, 0]
      else if ws.length % 8 = 4 then last.map subst else last
    keyWords n (if ws.length % 8 = 0 then timesX rc else rc) (xorBytes (ws.getD 7 []) t :: ws)

/-- The fifteen 16-byte round keys of a 32-byte key. -/
def aesKeys (key : List Byte) : List (List Byte) :=
  pieces 16 (((keyWords 52 1 (pieces 4 key).reverse).reverse).flatten)

/-- Byte `r` of each column turned `r` columns to the left, or with `d` = 3 to the right. -/
def shiftRows (d : Nat) (b : List Byte) : List Byte :=
  (List.range 16).map (fun i => b.getD (4 * ((i / 4 + d * (i % 4)) % 4) + i % 4) 0)

/-- Each column times the polynomial with coefficients `m`. -/
def mixColumns (m : List Byte) (b : List Byte) : List Byte :=
  (List.range 16).map (fun i => (List.range 4).foldl
    (fun x j => x ^^^ byteMul 8 (b.getD (i / 4 * 4 + j) 0) (m.getD ((j + 4 - i % 4) % 4) 0)) 0)

/-- A 16-byte block enciphered under its round keys. -/
def aesBlock : List (List Byte) → List Byte → List Byte
  | [], b => b
  | k :: ks, b =>
    let round (u : List Byte) (k : List Byte) : List Byte := xorBytes (mixColumns [2, 3, 1, 1] (shiftRows 1 (u.map subst))) k
    xorBytes (shiftRows 1 ((ks.dropLast.foldl round (xorBytes b k)).map subst)) (ks.getLastD [])

/-- A block deciphered: the rounds undone from the last. -/
def aesUnblock (ks : List (List Byte)) (b : List Byte) : List Byte :=
  match ks.reverse with
  | [] => b
  | k :: rest =>
    let round (u : List Byte) (k : List Byte) : List Byte :=
      (shiftRows 3 (mixColumns [14, 11, 13, 9] (xorBytes u k))).map unsubst
    xorBytes (rest.dropLast.foldl round ((shiftRows 3 (xorBytes b k)).map unsubst)) (rest.getLastD [])

/-! ### Galois/counter mode (NIST SP 800-38D) -/

/-- The product in the field of GHASH of two 128-bit strings, first bit most significant, over `n` bits of the first. -/
def ghashMul : Nat → BitVec 128 → BitVec 128 → BitVec 128
  | 0, _, _ => 0
  | n + 1, x, v =>
    (if x.msb then v else 0) ^^^ ghashMul n (x <<< 1) ((v >>> 1) ^^^ (if v.getLsbD 0 then 0xE1#128 <<< 120 else 0))

/-- A byte string filled up with zeros to whole blocks, and the hash of it going on from `y`. -/
def ghash (h y : BitVec 128) (bs : List Byte) : BitVec 128 :=
  (pieces 16 bs).foldl (fun y b => ghashMul 128 (y ^^^ BitVec.ofNat 128 (beNat b * 256 ^ (16 - b.length))) h) y

/-- Byte strings under the key stream that counter `2` starts, of a 12-byte nonce. -/
def gcmCrypt (key nonce bs : List Byte) : List Byte :=
  let ks := aesKeys key
  ((List.range (cdiv bs.length 16)).zip (pieces 16 bs)).flatMap (fun x => xorBytes x.2 (aesBlock ks (nonce ++ beBytes 4 (x.1 + 2))))

/-- The 16-byte tag over authenticated and enciphered bytes. -/
def gcmTag (key nonce auth bs : List Byte) : List Byte :=
  let ks := aesKeys key
  let h := BitVec.ofNat 128 (beNat (aesBlock ks (List.replicate 16 0)))
  let y := ghash h (ghash h (ghash h 0 auth) bs) (beBytes 8 (8 * auth.length) ++ beBytes 8 (8 * bs.length))
  xorBytes (beBytes 16 y.toNat) (aesBlock ks (nonce ++ [0, 0, 0, 1]))

/-! ### XTS mode (IEEE 1619) -/

/-- A tweak times x: 128 bits, first byte least significant. -/
def tweakNext (t : BitVec 128) : BitVec 128 := (t <<< 1) ^^^ (if t.msb then 0x87 else 0)

/-- Little-endian bytes of a tweak. -/
def tweakBytes (t : BitVec 128) : List Byte := (beBytes 16 t.toNat).reverse

/-- Whole blocks of a data unit passed one by one through `f`, each between its tweak. -/
def xtsBlocks (f : List Byte → List Byte) : List (List Byte) → BitVec 128 → List Byte
  | [], _ => []
  | b :: bs, t => xorBytes (f (xorBytes b (tweakBytes t))) (tweakBytes t) ++ xtsBlocks f bs (tweakNext t)

/-- The first tweak of a data unit: its number, little-endian, enciphered under the second key. -/
def xtsTweak (key2 : List Byte) (unit : Nat) : BitVec 128 :=
  BitVec.ofNat 128 (beNat (aesBlock (aesKeys key2) (beBytes 16 unit).reverse).reverse)

/-- A data unit of whole blocks enciphered under two 32-byte keys, and deciphered. -/
def xtsSeal (key1 key2 : List Byte) (unit : Nat) (bs : List Byte) : List Byte :=
  xtsBlocks (aesBlock (aesKeys key1)) (pieces 16 bs) (xtsTweak key2 unit)
def xtsOpen (key1 key2 : List Byte) (unit : Nat) (bs : List Byte) : List Byte :=
  xtsBlocks (aesUnblock (aesKeys key1)) (pieces 16 bs) (xtsTweak key2 unit)

end Sys2Proof.Crypto
end

