-- ==== Sys2Proof/Machine/LinkBase.lean ====
section
/-! DEFINITION. The link complex and its ports as senders: frames and their replay (R255-R258), packets and their
protection (R260, R276, R300), the transport of the Ethernet personality (R280, R281), requests with their tracking
entries, routes, resolution and failure (R261-R269). -/

namespace Sys2Proof

/-! ### Packets: the fields of Table 9.5 -/

def Packet.op (k : Packet) : Nat := fld k.w0 43 38
def Packet.dst (k : Packet) : Nat := fld k.w0 13 0
def Packet.unit (k : Packet) : Nat := fld k.w0 23 14
def Packet.src (k : Packet) : Nat := fld k.w0 37 24
def Packet.epoch (k : Packet) : Nat := fld k.w0 51 44
def Packet.rescaled (k : Packet) : Bool := bit k.w0 52
def Packet.promoted (k : Packet) : Bool := bit k.w0 53
def Packet.hop (k : Packet) : Bool := bit k.w0 54
def Packet.job (k : Packet) : Nat := fld k.w1 15 0
def Packet.bucket (k : Packet) : Nat := fld k.w1 35 16
def Packet.seq (k : Packet) : Nat := fld k.w1 59 36
def Packet.addr (k : Packet) : Nat := fld k.w2 49 0
def Packet.len (k : Packet) : Nat := fld k.w2 62 50
def Packet.nonce (k : Packet) : Nat := fld k.w3 55 0
def Packet.code (k : Packet) : Nat := fld k.w3 63 56

def Packet.header (k : Packet) : List Byte := Machine.wordsBytes [k.w0, k.w1, k.w2, k.w3]

/-- The packet's bytes on the wire (R260). -/
def Packet.bytes (k : Packet) : List Byte := k.header ++ k.body ++ Machine.toLe 16 k.tag.toNat

/-- 64-byte words the packet takes in a receive queue (R258, R259). -/
def Packet.words (k : Packet) : Nat := cdiv (48 + k.body.length) 64

/-- Responses travel in RESP (R258). -/
def Packet.isResp (k : Packet) : Bool := k.op == 2 || k.op == 4 || k.op == 5 || k.op == 0x1B

/-- Frame bodies that carry packets back to back, after the bytes `cur` of a body begun (R255): the last body is filled up
with zeros when it is sent. No packet begins in the last 7 bytes of a body, so that its first word is not taken for fill
(DESIGN CHOICE, log 20). -/
def Machine.packBodies : List Byte → List (List Byte) → List (List Byte)
  | cur, [] => if cur.isEmpty then [] else [cur]
  | cur, bs :: rest =>
    let fits := decide (cur.length ≤ 236)
    let all := if fits then cur ++ bs else bs
    let n := all.length / 244
    (if fits then [] else [cur]) ++ (List.range n).map (fun i => (all.drop (244 * i)).take 244) ++
      Machine.packBodies (all.drop (244 * n)) rest

/-- The most frames the packet takes part in. -/
def Packet.frames (k : Packet) : Nat := cdiv (48 + k.body.length) 244

/-- Bytes of a datagram's packets. -/
def Datagram.size (d : Datagram) : Nat := (d.packets.map (fun k => 48 + k.body.length)).sum

end Sys2Proof

namespace Sys2Proof.Machine

/-- Page `sub` of port `p`'s LNK block; the link complex's registers stand on pages 2 and 3 of LNK00. -/
def lp (p sub : Nat) : Nat := pageOf .lnk p sub
def cx2 : Nat := pageOf .lnk 0 2
def cx3 : Nat := pageOf .lnk 0 3

def getPort (s : State) (p : Nat) : Port := mget s.lnk.ports p {}
def setPort (p : Nat) (x : Port) (s : State) : State := { s with lnk := { s.lnk with ports := mput s.lnk.ports p x } }

def portRole (s : State) (p : Nat) : Nat := regFld s (lp p 0) 0x200 1 0
def portEth (s : State) (p : Nat) : Bool := regBit s (lp p 0) 0x200 2
def portActive (s : State) (p : Nat) : Bool := (getPort s p).state == 6

def devNum (s : State) : Nat := fld (devId s) 13 0
def devValid (s : State) : Bool := bit (devId s) 63

/-! ### Packets -/

/-- A packet with a header of Table 9.5; LEN is the data's length. -/
def mkPacket (dst unit src op epoch : Nat) (resc prom hop : Bool) (job bucket seq addr code : Nat) (data : List Byte) :
    Packet :=
  { w0 := word (dst % 2 ^ 14 + unit % 1024 * 2 ^ 14 + src % 2 ^ 14 * 2 ^ 24 + op * 2 ^ 38 + epoch % 256 * 2 ^ 44 +
            b2n resc * 2 ^ 52 + b2n prom * 2 ^ 53 + b2n hop * 2 ^ 54),
    w1 := word (job % 65536 + bucket % 2 ^ 20 * 2 ^ 16 + seq % 2 ^ 24 * 2 ^ 36),
    w2 := word (addr % 2 ^ 50 + data.length * 2 ^ 50),
    w3 := word (code % 256 * 2 ^ 56), body := data, tag := 0 }

/-! ### Protection (R276, R300) -/

def getKey (s : State) (job : Nat) : LinkKey := mget s.keys job {}

/-- The 96-bit nonce: SRC_DEV, 8 zero bits, NONCE, 16 zero bits. -/
def nonce96 (src n : Nat) : BitVec 96 := BitVec.ofNat 96 (src * 2 ^ 80 + n * 2 ^ 16)

/-- A link key's bytes, least significant first, and a nonce's, as R276 writes it from left to right (DEDUCED, log 9). -/
def keyBytes (key : BitVec 256) : List Byte := toLe 32 key.toNat
def nonceBytes (n : BitVec 96) : List Byte := Crypto.beBytes 12 n.toNat

/-- The data encrypted or decrypted with AES-256-GCM (R276). -/
def gcmData (key : BitVec 256) (n : BitVec 96) (bs : List Byte) : List Byte := Crypto.gcmCrypt (keyBytes key) (nonceBytes n) bs

/-- The tag over the header and the encrypted data (R276). -/
def gcmMark (key : BitVec 256) (n : BitVec 96) (header bs : List Byte) : BitVec 128 :=
  BitVec.ofNat 128 (leNat (Crypto.gcmTag (keyBytes key) (nonceBytes n) header bs))

/-- A packet protected under the key of its JOB with the next nonce; none without a key or with the counter used up
(R300, R383). -/
def sealPacket (k : Packet) (s : State) : Option (Packet × State) :=
  let x := getKey s k.job
  match x.cur with
  | none => none
  | some key =>
    if 2 ^ 55 - 1 ≤ x.nonce then none else
    let k1 := { k with w3 := setFld k.w3 55 0 x.nonce }
    let n := nonce96 k.src x.nonce
    let body := gcmData key n k.body
    some ({ k1 with body := body, tag := gcmMark key n k1.header body },
          { s with keys := mput s.keys k.job { x with nonce := x.nonce + 1 } })

/-- The data of an arriving packet that verifies under the key in force or, for one tick after a change, under the
old one (R276, R383). -/
def openPacket (s : State) (k : Packet) : Option (List Byte) :=
  let x := getKey s k.job
  let n := nonce96 k.src k.nonce
  let ok (key : BitVec 256) : Bool := gcmMark key n k.header k.body == k.tag
  let old := if s.tck.num ≤ x.oldTick then x.old else none
  match x.cur.toList ++ old.toList with
  | [] => none
  | ks => match ks.find? ok with
    | some key => some (gcmData key n k.body)
    | none => none

/-! ### Frames (R255-R258) -/

/-- The first word of a frame. -/
def frameWord (fseq ack type : Nat) (nak : Bool) : Word :=
  word (fseq % 2 ^ 24 + ack % 2 ^ 24 * 2 ^ 24 + type * 2 ^ 48 + b2n nak * 2 ^ 52)

/-- A body filled up with zeros. -/
def padBody (bs : List Byte) : List Byte := bs ++ List.replicate (244 - bs.length) 0

/-- A frame as it leaves the port, with its CRC over bytes 0-251 (R255). -/
def frameOut (p : Nat) (w0 : Word) (body : List Byte) : Out := .frame p w0 body (Crypto.crc32 (wordBytes w0 ++ body))

/-- A frame sent, and its body bytes, counted (R283). -/
def putFrame (p : Nat) (w0 : Word) (body : List Byte) (s : State) : State :=
  bump (lp p 0) 0 7 body.length (bump (lp p 0) 0 0 1 (emit (frameOut p w0 body) s))

/-- A control frame sent: it carries the FSEQ of the last DATA frame. -/
def sendControl (p type : Nat) (nak : Bool) (body : List Byte) (s : State) : State :=
  let x := getPort s p
  putFrame p (frameWord x.fseq x.rseq type nak) (padBody body) s

/-- A DATA frame sent and kept for replay. -/
def sendData (p : Nat) (bs : List Byte) (s : State) : State :=
  let x := getPort s p
  let f := (x.fseq + 1) % 2 ^ 24
  putFrame p (frameWord f x.rseq 0 false) (padBody bs) (setPort p { x with fseq := f, replay := x.replay ++ [(f, padBody bs)] } s)

/-- What goes out of a port at once: the port, the packets to send, those that go on waiting, whether a request and whether a
response waits among them, and the frames that the packets to send take at most. -/
structure Pump where
  port : Port
  sent : List Packet := []
  left : List Packet := []
  stuckReq : Bool := false
  stuckResp : Bool := false
  frames : Nat := 0
  deriving DecidableEq, Repr

/-- The port can send one more packet now: it is ACTIVE, the partner's queue has room for all of it, and the replay buffer
has (R257, R258). -/
def Pump.mayGo (x : Pump) (k : Packet) : Bool :=
  let y := x.port
  y.state == 6 && decide (y.replay.length + x.frames + k.frames ≤ 8192) &&
  (if k.isResp then !x.stuckResp && decide (y.sentResp + k.words ≤ y.peerResp + 4096)
   else !x.stuckReq && decide (y.sentReq + k.words ≤ y.peerReq + 4096))

/-- One packet goes, or waits with those of its kind behind it; a response may pass requests that wait (R258). -/
def Pump.next (x : Pump) (k : Packet) : Pump :=
  if x.mayGo k then
    let y := x.port
    { x with port := if k.isResp then { y with sentResp := y.sentResp + k.words } else { y with sentReq := y.sentReq + k.words },
             sent := x.sent ++ [k], frames := x.frames + k.frames }
  else { x with left := x.left ++ [k], stuckReq := x.stuckReq || !k.isResp, stuckResp := x.stuckResp || k.isResp }

/-- Waiting packets sent in order as far as they may go, those of a catch-up after the others (R258, R275). -/
def portPump (p : Nat) (s : State) : State :=
  let x := getPort s p
  let a := x.tx.foldl Pump.next { port := x }
  let b := x.txLow.foldl Pump.next { a with left := [] }
  let s1 := setPort p { b.port with tx := a.left, txLow := b.left } s
  let s2 := b.sent.foldl (fun u k => emit (.packet p k) u) s1
  (packBodies [] (b.sent.map Packet.bytes)).foldl (fun u bs => sendData p bs u) s2

/-! ### Training states (Table 9.3) -/

/-- The port moves to a state; entering DOWN or DISABLED loses its frames (R249, R254). `quiet` is an entry into DOWN that
WIRING or LOOPBACK caused. -/
def portState (p new : Nat) (quiet : Bool) (s : State) : State :=
  let x := getPort s p
  if x.state = new then setPort p { x with step := new } s else
  let lost := new = 8 ∨ new = 0
  let y := if lost then { x with replay := [], replays := 0, rx := [] } else x
  let s1 := setPort p { y with state := new, step := new } s
  let s2 := intSet (lp p 0) 1 s1
  if new = 8 ∧ quiet = false then raise (lp p 0) 8 0 s2 else s2

/-- An Ethernet port advertises the configured PHY, and no other (R278). -/
def autoneg (p : Nat) (s : State) : State :=
  if portEth s p then emit (.autoneg p (regFld s (lp p 0) 0x200 4 3)) s else s

/-- The first step of training: the Ethernet personality skips DETECT (R278). A port whose block takes no new work does not
train (R32). -/
def startTraining (p : Nat) (s : State) : State :=
  if takesWork s (lp p 0) = false then s else
  let s1 := setPort p { getPort s p with mirrored := false, reversed := false, echoes := [] } s
  autoneg p (portState p (if portEth s p then 2 else 1) false s1)

/-- A trigger of R254: an ACTIVE port retrains with AUTO_RETRAIN, and else goes DOWN. -/
def retrainTrigger (p : Nat) (s : State) : State :=
  if (getPort s p).state ≠ 6 then s
  else if regBit s (lp p 0) 0x200 32 then
    let s1 := bump (lp p 0) 0 6 1 (portState p 7 false s)
    autoneg p (setPort p { getPort s1 p with step := 2, mirrored := false, reversed := false } s1)
  else portState p 8 false s

/-! ### The receive queues (R188-R194, R258, R259) -/

/-- The pointers of a receive queue. -/
def Port.ptrs (x : Port) (resp : Bool) : Ptrs := if resp then x.respPtr else x.reqPtr
def Port.withPtrs (x : Port) (resp : Bool) (q : Ptrs) : Port := if resp then { x with respPtr := q } else { x with reqPtr := q }

/-- The packets in a receive queue. -/
def Port.queued (x : Port) (resp : Bool) : List Packet := if resp then x.resp else x.req
def Port.withQueued (x : Port) (resp : Bool) (ks : List Packet) : Port := if resp then { x with resp := ks } else { x with req := ks }

/-- A receive queue's item count: (WR − RD) modulo twice its 4,096 words (R188). -/
def Ptrs.count (q : Ptrs) : Nat := (q.wr + 8192 - q.rd) % 8192

/-- The offset of a receive queue's register `r` on page 1 (R259). -/
def rxOff (resp : Bool) (r : Nat) : Nat := (if resp then 0x4040 else 0x4000) + r

/-- An interrupt to the target in a receive queue's Q_LVL (R192). -/
def rxDeliver (p : Nat) (resp : Bool) (s : State) : State :=
  let l := getReg s (lp p 1) (rxOff resp 8)
  deliver (fld l 29 28) (fld l 35 32) (fld l 47 40) s

/-- R191 and R259 for a receive queue: on a mismatch its packets are lost, PTR_MISMATCH and QUEUE_PTR are set, an event is
reported, and the port retrains. -/
def rxCheck (p : Nat) (resp : Bool) (s : State) : State :=
  let x := getPort s p
  let q := x.ptrs resp
  if q.wr = q.wr2 ∧ q.rd = q.rd2 then s else
  let page := lp p 1
  let off := rxOff resp 0x38
  let e : ErrEvent := { mkEv page 1 4 with unit := 0xFF, locus := b2n resp, detail := q.both }
  let s1 := setPort p ((x.withPtrs resp {}).withQueued resp []) s
  let s2 := raiseEv page 8 0 e (setReg page off (setBit (getReg s1 page off) 0 true) s1)
  retrainTrigger p (if bit (getReg s page (rxOff resp 8)) 26 then rxDeliver p resp s2 else s2)

/-- A packet put into its receive queue, with the level event of R192. -/
def rxPut (p : Nat) (k : Packet) (s : State) : State :=
  let resp := k.isResp
  let x := getPort s p
  let q := x.ptrs resp
  let n := k.words
  let q1 : Ptrs := { q with wr := (q.wr + n) % 8192, wr2 := (q.wr2 + n) % 8192 }
  let s1 := setPort p ((x.withPtrs resp q1).withQueued resp (x.queued resp ++ [k])) s
  let l := getReg s (lp p 1) (rxOff resp 8)
  if q.count ≤ fld l 16 0 ∧ fld l 16 0 < q.count + n ∧ bit l 24 = true ∧ bit l 25 = false then
    rxDeliver p resp (setReg (lp p 1) (rxOff resp 8) (setBit l 25 true) s1)
  else s1

/-- A receive queue can take the packet: it is enabled and has room (R188, R194). -/
def rxRoom (s : State) (p : Nat) (k : Packet) : Bool :=
  regBit s (lp p 1) (rxOff k.isResp 0) 0 && decide (((getPort s p).ptrs k.isResp).count + k.words ≤ 4096)

/-- Packets offered to the receive queues in order; one that a queue cannot take is kept and offered again, and with it those
of its kind behind it (R194). -/
def rxOffer (p : Nat) (s : State) : State :=
  let step (u : State) (k : Packet) : State :=
    let u1 := rxCheck p k.isResp u
    let y := getPort u1 p
    if rxRoom u1 p k ∧ y.held.all (fun h => h.isResp != k.isResp) = true then rxPut p k u1
    else setPort p { y with held := y.held ++ [k] } u1
  (getPort s p).held.foldl step (setPort p { getPort s p with held := [] } s)

/-- Packets that have arrived whole are offered to the receive queues (R258, R259). -/
def arrive (p : Nat) (ks : List Packet) (s : State) : State :=
  let x := getPort s p
  rxOffer p (setPort p { x with held := x.held ++ ks } s)

/-- Words freed in a receive queue; a CREDIT frame goes when 16 or more are owed (R258). -/
def freeWords (p n : Nat) (resp : Bool) (s : State) : State :=
  let x := getPort s p
  let y := if resp then { x with freedResp := (x.freedResp + n) % 2 ^ 64, owed := x.owed + n }
    else { x with freedReq := (x.freedReq + n) % 2 ^ 64, owed := x.owed + n }
  let s1 := setPort p y s
  if y.state = 6 ∧ 16 ≤ y.owed ∧ portEth s p = false then
    sendControl p 2 false (toLe 8 y.freedReq ++ toLe 8 y.freedResp) (setPort p { y with owed := 0 } s1)
  else s1

/-- The packet stands in a receive queue whose pointers do not agree: it is lost with the queue before it is served (R191,
R259). -/
def rxLost (p : Nat) (k : Packet) (s : State) : Bool :=
  let x := getPort s p
  let q := x.ptrs k.isResp
  (q.wr != q.wr2 || q.rd != q.rd2) && (x.queued k.isResp).contains k

/-- A packet taken off its receive queue; one that stands in none has arrived without one. -/
def takeOff (p : Nat) (k : Packet) (s : State) : State :=
  let resp := k.isResp
  let s0 := rxCheck p resp (bump (lp p 1) 0 0 1 s)
  let x := getPort s0 p
  if (x.queued resp).contains k then
    let q := x.ptrs resp
    let n := k.words
    let q1 : Ptrs := { q with rd := (q.rd + n) % 8192, rd2 := (q.rd2 + n) % 8192 }
    rxOffer p (freeWords p n resp (setPort p ((x.withPtrs resp q1).withQueued resp ((x.queued resp).erase k)) s0))
  else s0

/-- A flush of a receive queue drops every packet in it (Table 7.3). -/
def rxFlush (p : Nat) (resp : Bool) (s : State) : State :=
  let s0 := rxCheck p resp s
  let x := getPort s0 p
  let q := x.ptrs resp
  let n := q.count
  let s1 := setPort p ((x.withPtrs resp { q with rd := q.wr, rd2 := q.wr2 }).withQueued resp []) s0
  rxOffer p (if n = 0 then s1 else freeWords p n resp s1)

/-! ### Ethernet frames (Table 9.9, R279) -/

/-- The address of a device on a port's plane (R279). -/
def planeAddr (s : State) (p dev : Nat) : BitVec 128 :=
  let plane := if portRole s p = 2 then p - 7 else 0
  BitVec.ofNat 128 ((getReg s cx2 0x218).toNat * 2 ^ 64 + plane * 2 ^ 16 + dev)

/-- The device's address on a port's plane (R279). -/
def ipv6 (s : State) (p : Nat) : BitVec 128 := planeAddr s p (devNum s)

/-- The sum of 16-bit words in ones' complement, as the checksums of UDP and ICMPv6 take it. -/
def onesSum : List Byte → Nat
  | [] => 0
  | [a] => a.toNat * 256
  | a :: b :: r => a.toNat * 256 + b.toNat + onesSum r

/-- The checksum of a message over the pseudo-header of IPv6 (RFC 8200). -/
def ipSum (src dst : BitVec 128) (next : Nat) (msg : List Byte) : Nat :=
  let t := onesSum (Crypto.beBytes 16 src.toNat ++ Crypto.beBytes 16 dst.toNat ++ Crypto.beBytes 4 msg.length ++
    Crypto.beBytes 4 next ++ msg)
  let f1 := t % 65536 + t / 65536
  let f2 := f1 % 65536 + f1 / 65536
  65535 - f2

/-- An Ethernet frame that a port sends to NEXTHOP_MAC, with the tag of ETH_VLAN, around an IPv6 packet with hop limit 64 and
traffic class ECT(0) (Table 9.9, R279). -/
def etherFrame (s : State) (p : Nat) (src dst : BitVec 128) (next : Nat) (msg : List Byte) : List Byte :=
  let vlan := getReg s (lp p 0) 0x240
  let tag := if bit vlan 12 then [0x81, 0x00] ++ Crypto.beBytes 2 (fld vlan 11 0) else []
  let ip := [0x60, 0x20, 0, 0] ++ Crypto.beBytes 2 msg.length ++ [BitVec.ofNat 8 next, 64] ++
    Crypto.beBytes 16 src.toNat ++ Crypto.beBytes 16 dst.toNat
  let bs := Crypto.beBytes 6 (regFld s (lp p 0) 0x238 47 0) ++ Crypto.beBytes 6 (regFld s (lp p 0) 0x230 47 0) ++ tag ++
    [0x86, 0xDD] ++ ip ++ msg
  bs ++ toLe 4 (Crypto.crc32 bs).toNat

/-- A UDP datagram between two devices' ports UDP_PORT, with its checksum (Table 9.9); a sum of 0 is sent as 0xFFFF (RFC
768). -/
def udpFrame (s : State) (p dev : Nat) (payload : List Byte) : List Byte :=
  let src := ipv6 s p
  let dst := planeAddr s p dev
  let port := Crypto.beBytes 2 (regFld s cx2 0x210 15 0)
  let msg (ck : Nat) : List Byte := port ++ port ++ Crypto.beBytes 2 (payload.length + 8) ++ Crypto.beBytes 2 ck ++ payload
  let ck := ipSum src dst 17 (msg 0)
  etherFrame s p src dst 17 (msg (if ck = 0 then 65535 else ck))

/-- The headers of a received frame are those of the device's transport on the port (Table 9.9): untagged, or tagged with the
port's VID. -/
def headOk (s : State) (p : Nat) (h : EthHead) : Bool :=
  let vlan := getReg s (lp p 0) 0x240
  !h.pause && h.ipv6 && !h.ext && h.vlan == (if bit vlan 12 then some (fld vlan 11 0) else none) && h.dst == ipv6 s p &&
  h.udp == regFld s cx2 0x210 15 0 && h.sumOk && decide (h.size ≤ 9216)

/-! ### The transport (R280, R281) -/

def connKey (p dev : Nat) : Nat := dev * 16 + p
def getConn (s : State) (p dev : Nat) : Conn := mget s.lnk.conns (connKey p dev) {}
def setConn (p dev : Nat) (c : Conn) (s : State) : State :=
  { s with lnk := { s.lnk with conns := mput s.lnk.conns (connKey p dev) c } }

/-- Receive space offered, in KiB: the room in REQ. -/
def offerKib (s : State) (p : Nat) : Nat :=
  (4096 - min 4096 (((getPort s p).req.map Packet.words).sum)) * 64 / 1024

/-- A transport datagram: header of Table 9.10. -/
def mkDatagram (s : State) (p dev type psn : Nat) (ks : List Packet) : Datagram :=
  let c := getConn s p dev
  { w0 := word (psn % 2 ^ 32 + c.rxNext % 2 ^ 32 * 2 ^ 32),
    w1 := word (devNum s + type * 2 ^ 16 + b2n c.ece * 2 ^ 20 + offerKib s p * 2 ^ 32), packets := ks, ce := false }

/-- Whether there is a connection with a device on a port, or room for one more: 4,096 in all (R281). -/
def hasConn (s : State) (p dev : Nat) : Bool := (mfind s.lnk.conns (connKey p dev)).isSome
def connRoom (s : State) (p dev : Nat) : Bool := hasConn s p dev || decide (s.lnk.conns.length < 4096)

/-- A datagram as it leaves the port (R280). -/
def datagramOut (s : State) (p dev : Nat) (d : Datagram) : Out :=
  .datagram p d (udpFrame s p dev (wordsBytes [d.w0, d.w1] ++ d.packets.flatMap Packet.bytes))

/-- An Ethernet frame sent, and counted (R283). -/
def putEther (p : Nat) (o : Out) (s : State) : State := bump (lp p 0) 0 0 1 (emit o s)

/-- A datagram put on the wire; its ECE echoes a mark once. A peer without a connection gets no state by it. -/
def sendDatagram (p dev : Nat) (d : Datagram) (s : State) : State :=
  let s1 := putEther p (datagramOut s p dev d) s
  if hasConn s p dev then setConn p dev { getConn s p dev with ece := false, since := 0 } s1 else s1

/-- Bytes in flight. -/
def Conn.inFlight (c : Conn) : Nat := (c.flight.map Datagram.size).sum

/-- Packets of a connection sent, one to a datagram, within both windows; the first opens it with a SYN. -/
def connPump : Nat → Nat → Nat → State → State
  | 0, _, _, s => s
  | n + 1, p, dev, s =>
    let c := getConn s p dev
    match c.queue with
    | [] => s
    | k :: rest =>
      if portActive s p = false ∨ min c.cwnd c.peerWin < c.inFlight + 48 + k.body.length then s else
      let s1 := if c.opened then s else
        sendDatagram p dev (mkDatagram s p dev 4 c.psn []) (setConn p dev { c with opened := true } s)
      let c1 := getConn s1 p dev
      let d := mkDatagram s1 p dev 1 c1.psn [k]
      let c2 := { c1 with queue := rest, psn := (c1.psn + 1) % 2 ^ 32, flight := c1.flight ++ [d] }
      connPump n p dev (sendDatagram p dev d (emit (.packet p k) (setConn p dev c2 s1)))

/-- A protected packet handed to a port for a device; with `low`, behind the packets of other requests (R275). -/
def handOver (p dev : Nat) (low : Bool) (k : Packet) (s : State) : State :=
  let s0 := addAct k.job 9 (48 + k.body.length) s
  if portEth s p then
    if connRoom s p dev = false then s0 else
    let c := getConn s0 p dev
    connPump (c.queue.length + 1) p dev (setConn p dev { c with queue := c.queue ++ [k] } s0)
  else
    let x := getPort s0 p
    portPump p (setPort p (if low then { x with txLow := x.txLow ++ [k] } else { x with tx := x.tx ++ [k] }) s0)

/-! ### Requests (R262-R269) -/

/-- An event of the link complex for a task that ends with ENGINE_FAULT (Table 12.1); it names no lane. -/
def linkFault (port dev job kind : Nat) (s : State) : State :=
  report cx2 { mkEv cx2 1 kind with unit := 0xFF, locus := port, detail := dev, job := job, status := 9 } s

/-- The event of an error that ERR_STS bit `i` of a page shows; masked there, it makes no record (R28). -/
def maskedFault (page i port dev job kind : Nat) (s : State) : State :=
  if regBit s page 0x28 i then s else linkFault port dev job kind s

/-- The task a request is for still works on it: it has not ended (R303). -/
def ownerLive (s : State) (owner : Nat) : Bool :=
  match findTask s owner with
  | none => false
  | some t => t.phase == .dispatched && t.status == 0

/-- The requests of a task that are not sent are dropped (R263, R303). -/
def dropUnsent (owner : Nat) (s : State) : State :=
  { s with lnk := { s.lnk with track := s.lnk.track.filter (fun x => x.2.owner != owner || x.2.state == 1) } }

/-- The task a request is for ends with a fault; its requests not yet sent are dropped (R263, R303). -/
def failOwner (owner : Nat) (f : Fail) (s : State) : State :=
  match findTask s owner with
  | none => s
  | some t => if t.phase ≠ .dispatched ∨ t.status ≠ 0 then s else finish t f (dropUnsent owner s)

/-- The slot a request is for (R55): that of the input it reads, or of the output whose extent it writes to. -/
def reqSlot (s : State) (x : Track) : Nat :=
  match findTask s x.owner with
  | none => 0
  | some t => if x.kind = .moveRead then 0 else if x.kind = .finite then 3 else slotAt t 1 x.k.addr

/-- The port a request to a device takes (R265). -/
def route (s : State) (dev : Nat) : Option Nat :=
  let ps := List.range 16
  let partner (p : Nat) : Bool := portRole s p == 1 && (getPort s p).peerValid && (getPort s p).peerDev == dev
  match ps.find? (fun p => partner p && portActive s p) with
  | some p => some p
  | none =>
    if ps.any partner && !regBit s cx2 0x200 0 then none else
    let fs := ps.filter (fun p => portRole s p == 2 && portActive s p)
    fs[dev % fs.length]?

/-- The window-cache entry that covers an address of a device for a job, moved to the front (R268). -/
def cacheHit (s : State) (dev job addr : Nat) : Option (WinEnt × State) :=
  match s.lnk.cache.find? (fun w => w.dev == dev && w.job == job && decide (w.base ≤ addr ∧ addr < w.base + w.size)) with
  | none => none
  | some w => some (w, { s with lnk := { s.lnk with cache := w :: s.lnk.cache.filter (· ≠ w) } })

/-- Operations that name a window of the destination; remote accumulates go to unit 0 (R297). -/
def needsWindow (k : Packet) : Bool := k.op == 1 || k.op == 3 || k.op == 0x10

def getTrack (s : State) (seq : Nat) : Option Track := mfind s.lnk.track seq
def setTrack (seq : Nat) (x : Track) (s : State) : State := { s with lnk := { s.lnk with track := mput s.lnk.track seq x } }
def dropTrack (seq : Nat) (s : State) : State := { s with lnk := { s.lnk with track := mdel s.lnk.track seq } }

/-- There are tracking entries for `n` more requests (R262). -/
def trackRoom (s : State) (n : Nat) : Bool := decide (s.lnk.track.length + n ≤ 131072)

/-- The next SEQ: it counts up and passes over the numbers of outstanding requests (R260; DESIGN CHOICE, log 21). -/
def nextSeq (s : State) : Nat :=
  (((List.range (s.lnk.track.length + 1)).map (fun i => (s.lnk.seq + i) % 2 ^ 24)).find? (fun q =>
    (mfind s.lnk.track q).isNone)).getD (s.lnk.seq % 2 ^ 24)

/-- A new tracking entry. -/
def newTrack (x : Track) (s : State) : Nat × State :=
  let q := nextSeq s
  (q, { s with lnk := { s.lnk with seq := (q + 1) % 2 ^ 24, ord := s.lnk.ord + 1,
                                   track := mput s.lnk.track q { x with ord := s.lnk.ord, k := { x.k with w1 := setFld x.k.w1 59 36 q } } } })

/-- A request put on the wire through a port: without a usable key its task ends with ENGINE_FAULT (R300, R383). -/
def sendTrack (seq : Nat) (x : Track) (port : Nat) (s : State) : State :=
  match sealPacket x.k s with
  | none => failOwner x.owner { status := 9 } (dropTrack seq (linkFault port x.dev x.k.job 5 s))
  | some (k, s1) =>
    handOver port x.dev (x.kind == .mcast && x.k.op == 3) k
      (setTrack seq { x with state := 1, port := port, asking := false } s1)

/-- Held requests to a device, oldest first. -/
def heldTo (s : State) (dev : Nat) : List (Nat × Track) :=
  sortBy (fun a b => a.2.ord ≤ b.2.ord)
    (s.lnk.track.filter (fun x => x.2.dev == dev && x.2.state == 0 && x.2.kind != .exchange))

/-- Held requests to a device sent in order, as far as the route (R265), the window cache (R268) and the tracking
entries allow. A task that has ended sends nothing further (R303), and without a valid device number no request goes out
(R19). -/
def pumpDev : Nat → Nat → State → State
  | 0, _, s => s
  | n + 1, dev, s =>
    match heldTo s dev with
    | [] => s
    | (seq, x) :: _ =>
      if ownerLive s x.owner = false then pumpDev n dev (dropTrack seq s)
      else if devValid s = false then
        pumpDev n dev (failOwner x.owner { status := 3, slot := reqSlot s x, detail := x.dev * 2 ^ 50 + x.k.addr } (dropTrack seq s))
      else match route s dev with
      | none => pumpDev n dev (failOwner x.owner { status := 9 } (dropTrack seq (linkFault 0 dev x.k.job 5 s)))
      | some p =>
        if s.lnk.track.any (fun y => y.2.dev == dev && y.2.state == 1 && y.2.port != p && y.2.kind != .exchange) then s
        else if needsWindow x.k = false then pumpDev n dev (sendTrack seq x p s)
        else match cacheHit s dev x.k.job x.k.addr with
          | some (w, s1) =>
            let k := { x.k with w0 := setFld (setFld x.k.w0 23 14 w.unit) 51 44 w.epoch }
            pumpDev n dev (sendTrack seq { x with k := k } p s1)
          | none =>
            if x.asking ∨ trackRoom s 1 = false then s else
            let r := mkPacket dev 0 (devNum s) 0x1A 0 false false false x.k.job 0 0 x.k.addr 0 []
            let s1 := setTrack seq { x with asking := true, resolves := x.resolves + 1 } s
            let y := newTrack { ord := 0, dev := dev, k := r, owner := x.owner, kind := .resolve, first := seq } s1
            match getTrack y.2 y.1 with
            | some z => sendTrack y.1 z p (bump cx2 0 0 1 y.2)
            | none => y.2

/-- Requests held for every device go on as far as they may: one that ends frees a tracking entry (R262). -/
def pumpAll (s : State) : State :=
  ((s.lnk.track.filter (fun x => x.2.state == 0)).map (fun x => x.2.dev)).eraseDups.foldl (fun u d =>
    pumpDev (u.lnk.track.length + 1) d u) s

/-- A request issued for a task (R262). -/
def issue (dev : Nat) (k : Packet) (owner : Nat) (kind : ReqKind) (first count : Nat) (s : State) : State :=
  let y := newTrack { ord := 0, dev := dev, k := k, owner := owner, kind := kind, first := first, count := count } s
  pumpDev (y.2.lnk.track.length + 1) dev y.2

/-- The task waits for `n` more answers. -/
def addWaits (id n : Nat) (s : State) : State :=
  { s with tasks := s.tasks.map (fun t => if t.id = id then { t with waits := t.waits + n } else t) }

/-- A response sent through the port on which its request came (R258). -/
def respond (p : Nat) (q : Packet) (op code : Nat) (resc prom : Bool) (data : List Byte) (s : State) : State :=
  let k := mkPacket q.src 0 (devNum s) op 0 resc prom false q.job 0 q.seq 0 code data
  match sealPacket k s with
  | none => s
  | some (k1, s1) => handOver p q.src false k1 s1

/-- A NACK (R263). -/
def nack (p : Nat) (q : Packet) (code : Nat) (s : State) : State :=
  let s1 := bump (lp p 1) 0 1 1 s
  respond p q 5 code false false [] (if code = 3 then bump (lp p 1) 0 2 1 s1 else s1)

/-! ### Notices (R273) -/

/-- A notice sent; it has no tracking entry and no answer. -/
def sendNotice (p dev code cause : Nat) (hop : Bool) (w4 w5 : Nat) (s : State) : State :=
  let data := wordsBytes [word w4, word w5, word cause, word s.tck.num]
  match sealPacket (mkPacket dev 0 (devNum s) 0x18 0 false false hop 0 0 0 0 code data) s with
  | none => s
  | some (k, s1) => handOver p dev false k (bump cx3 0 2 1 s1)

/-- A notice sent to a device under R265. -/
def noticeTo (dev code cause w4 w5 : Nat) (s : State) : State :=
  match route s dev with
  | none => s
  | some p => sendNotice p dev code cause false w4 w5 s

/-- The bytes of a multicast group's list (R274). -/
def groupSpan (s : State) (g : Nat) : List (Nat × Nat) :=
  let b := 0x1000 + 32 * g
  if regBit s cx3 (b + 8) 16 then [(regFld s cx3 b 49 0, 4 * regFld s cx3 (b + 8) 10 0)] else []

/-- The members of a multicast group's list (R274). -/
def groupList (s : State) (g : Nat) : List Nat :=
  let b := 0x1000 + 32 * g
  if regBit s cx3 (b + 8) 16 then
    (List.range (regFld s cx3 (b + 8) 10 0)).map (fun i => leNat (memBytes s.mem (regFld s cx3 b 49 0 + 4 * i) 4))
  else []

/-- A notice sent to every device of the group of SLOW_NOTICE except this one (R309). -/
def slowNotice (code cause w4 w5 : Nat) (s : State) : State :=
  let c := getReg s cx3 0x228
  if bit c 8 then ((groupList s (fld c 7 0)).filter (· ≠ devNum s)).foldl (fun u d => noticeTo d code cause w4 w5 u) s else s

/-- A notice counted, and its record written to the notice ring, or dropped with NOTICE_LOST when it is full (R272,
R273). -/
def noticeRecord (w0 w1 : Word) (code cause : Nat) (unauth : Bool) (port tick : Nat) (detail : List Word) (s : State) : State :=
  let q := getReg s cx3 0x210
  let wr := fld q 7 0
  let rd := fld q 23 16
  let s0 := bump cx3 0 3 1 s
  if (wr + 1) % 256 = rd then raise cx3 9 0 s0 else
  let w2 := word (code % 256 + cause % 256 * 256 + b2n unauth * 2 ^ 16 + port * 2 ^ 17)
  let a := regFld s cx3 0x208 49 0 + 64 * wr
  let s1 := wrBytes 15 a (wordsBytes ([w0, w1, w2, word tick] ++ detail)) s0
  intSet cx3 1 (setReg cx3 0x210 (setFld q 7 0 ((wr + 1) % 256)) s1)

end Sys2Proof.Machine
end

