-- ==== Sys2Proof/Machine/Move.lean ====
section
/-! DEFINITION. The MOVE class, direct transfers and prefetch records (R202-R215). A granule is one read request: a run
of consecutive elements, contiguous and ascending in the source, within one aligned line (R206). An element of a packed
format moves the bytes that begin in it. -/

namespace Sys2Proof.Machine

def ldlPage (n sub : Nat) : Nat := pageOf .ldl n sub

/-- SWAP of the task (Table 7.6). -/
def swapOf (t : Task) : Nat := fld (t.w 24) 1 0

def prefetch (t : Task) : Bool := bit (t.w 24) 2

/-- Elements, and with them the bytes of the scale array (R209). -/
def movElems (t : Task) : Nat := (t.tensor 1).elems
def movTotal (t : Task) : Nat := movElems t + (t.tensor 1).scaleBytes

/-- Bytes of the data. -/
def movData (t : Task) : Nat := movElems t * (t.tensor 1).width / 8

/-- Destination bytes before granule position `i`. -/
def movBytes (t : Task) (i : Nat) : Nat :=
  if i < movElems t then cdiv (i * (t.tensor 1).width) 8 else movData t + (i - movElems t)

/-- The position at which a slice from `pos` ends: SLICE_UNITS units of 65,536 destination bytes on (R210). -/
def movStop (t : Task) (pos : Nat) : Nat :=
  if t.units = 0 then movTotal t else
  let b := (movBytes t pos / 65536 + t.units) * 65536
  min (movTotal t) (if b ≤ movData t then cdiv (8 * b) (t.tensor 1).width else movElems t + (b - movData t))

/-- The parameter area and the roles of a MOVE task (R205). -/
def movParams (t : Task) : Option Fail :=
  firstFail [
    failIf (t.op != 0 || fld (t.w 24) 63 3 != 0 || swapOf t == 3 || (List.range 7).any (fun i => t.w (25 + i) != 0)) (badDesc 0),
    failIf (prefetch t && t.spec) (badDesc 0),
    firstFail ((List.range 8).map (fun i =>
      failIf (t.role i != (if i = 0 then 1 else if i = 1 then 2 else 0)) (badDesc i)))]

/-- The tensors of a MOVE (R205, R208). -/
def movTensors (s : State) (t : Task) : Option Fail :=
  let a := t.tensor 0
  let b := t.tensor 1
  let w := a.width
  let far (x : Tensor) : Bool := !isLocal s x.base
  let win (x : Tensor) : Win := winOf (localPart x.base)
  firstFail [
    failIf (a.fmt != b.fmt || a.rank != b.rank || !(a.counts == b.counts) || a.scaled != b.scaled || a.bdim != b.bdim ||
      a.blen != b.blen) (badDesc 1),
    failIf (far a && far b) (badDesc 0),
    failIf ((swapOf t == 1 && w != 16 && w != 32 && w != 64) || (swapOf t == 2 && w != 32 && w != 64)) (badDesc 0),
    failIf (prefetch t && (far a || (win a != .hbm && win a != .scr))) (badDesc 0),
    failIf (prefetch t && (far b || (match win b with | .arr _ | .ve _ => false | _ => true))) (badDesc 0)]

/-- Which of its tensors is on another device. -/
def srcFar (s : State) (t : Task) : Bool := !isLocal s (t.base.getD 0 0)
def dstFar (s : State) (t : Task) : Bool := !isLocal s (t.base.getD 1 0)

/-- The local address and the length of the bytes that position `i` moves, in one of the tensors. -/
def movSpan (t : Task) (x : Tensor) (i : Nat) : Nat × Nat :=
  if movElems t ≤ i then (localPart (x.sbase + (i - movElems t)), 1) else
  let ix := unravel x.counts i
  if x.packed then
    let c := ix.getD 0 0
    (x.addr ix + cdiv (c * x.width) 8, cdiv ((c + 1) * x.width) 8 - cdiv (c * x.width) 8)
  else (x.addr ix, x.size)

/-- The position goes on the run of the one before it: contiguous, ascending, in the same line and the same array, or of no
byte of its own. -/
def goesOn (t : Task) (x : Tensor) (i0 i : Nat) : Bool :=
  let p := movSpan t x (i - 1)
  let q := movSpan t x i
  decide ((i < movElems t) = (i0 < movElems t)) &&
  (q.2 == 0 || (decide (q.1 = p.1 + p.2) && decide (lineOf (q.1 + (q.2 - 1)) = lineOf (movSpan t x i0).1)))

/-- One past the last position of the run of `x` that starts at `i0`, at most up to `stop`. -/
def runEnd (t : Task) (x : Tensor) (i0 stop : Nat) : Nat → Nat → Nat
  | 0, i => i
  | n + 1, i => if i < stop ∧ goesOn t x i0 i = true then runEnd t x i0 stop n (i + 1) else i

/-- The runs of `x` within `[i, stop)`: first position and one past the last. -/
def runsOf (t : Task) (x : Tensor) (stop : Nat) : Nat → Nat → List (Nat × Nat)
  | 0, _ => []
  | n + 1, i => if stop ≤ i then [] else
    let e := runEnd t x i stop 512 (i + 1)
    (i, e) :: runsOf t x stop n e

/-- SWAP on the bytes of one element (R208). -/
def swapBytes (k : Nat) (bs : List Byte) : List Byte :=
  if k = 1 then bs.reverse
  else if k = 2 then ((Num.chunks 2 bs.length bs).reverse).flatten
  else bs

/-- The bytes of a position after SWAP. -/
def swapped (t : Task) (i : Nat) (bs : List Byte) : List Byte := if i < movElems t then swapBytes (swapOf t) bs else bs

/-- The last byte a MOVE writes. -/
def lastByte (t : Task) : Nat :=
  let p := movSpan t (t.tensor 1) (movTotal t - 1)
  p.1 + (p.2 - 1)

/-- The destination's device. -/
def dstDev (t : Task) : Nat := t.base.getD 1 0 / 2 ^ 50
def srcDev (t : Task) : Nat := t.base.getD 0 0 / 2 ^ 50

/-- The read-back of a remote destination is requested once every write is acknowledged (R207). -/
def moveTail (id : Nat) (s : State) : State :=
  match findTask s id with
  | none => s
  | some t =>
    if t.cls ≠ 5 ∨ t.phase ≠ .dispatched ∨ t.status ≠ 0 ∨ t.pos < movTotal t ∨ t.waits ≠ 0 ∨ t.rb = true ∨
        t.nacked.isSome = true ∨ dstFar s t = false then s
    else
      let k := mkPacket (dstDev t) 0 (devNum s) 1 0 false false false t.job 0 0 (lastByte t / 256 * 256) 1 []
      issue (dstDev t) k id .readback 0 0 (putTask { t with rb := true, waits := 1 } s)

/-- Counters of a read or write request (Table 7.10). -/
def movCount (t : Task) (wr : Bool) (reqs bytes : Nat) (s : State) : State :=
  let page := ldlPage (t.eng - 0x38) 0
  bump page 0 (if wr then 1 else 0) bytes (bump page 0 (if wr then 3 else 2) reqs s)

/-- The bytes of positions `[i, e)` given their source bytes, written to a local destination; of elements that share an
address one stands (R47). -/
def movBuf (t : Task) (i e : Nat) (src : Nat → List Byte) : Buf :=
  (List.range (e - i)).foldl (fun b j =>
    let q := i + j
    let y := t.tensor 1
    if q < movElems t ∧ y.stands t.id (unravel y.counts q) = false then b else
    let d := movSpan t (t.tensor 1) q
    let bs := swapped t q (src q)
    ((List.range bs.length).zip bs).foldl (fun b y => mput b (d.1 + y.1) y.2) b) []

/-- The write runs that the positions read so far complete, in a slice that ends at `stop`: they are formed independently of
the read runs (R206). -/
def doneRuns (t : Task) (stop : Nat) : List (Nat × Nat) :=
  (runsOf t (t.tensor 1) stop (t.hold.length + 1) t.wpos).filter (fun r => decide (r.2 ≤ t.wpos + t.hold.length))

/-- Bytes of the positions of a run. -/
def runBytes (t : Task) (r : Nat × Nat) : Nat := movBytes t r.2 - movBytes t r.1

/-- Runs written to a local destination one after the other; the task goes on as `t1`. -/
def writeEach (t t1 : Task) (src : Nat → List Byte) : List (Nat × Nat) → State → StepRes
  | [], s => .go t1 s
  | r :: rs, s => writeBuf t (movBuf t r.1 r.2 src) s (fun s1 => writeEach t t1 src rs (movCount t true 1 (runBytes t r) s1))

/-- A task that a request has ended, or one that goes on (R263, R300). -/
def afterSend (id : Nat) (s0 s : State) : StepRes :=
  match findTask s id with
  | some t => if t.status = 0 then .go t s else .fail { status := t.status, slot := t.slot, detail := t.fault.toNat } s
  | none => .fail { status := 9 } s0

/-- One run sent to a remote destination (R206, R262). -/
def sendRun (t : Task) (src : Nat → List Byte) (s : State) (r : Nat × Nat) : State :=
  let bs := (List.range (r.2 - r.1)).flatMap (fun j => swapped t (r.1 + j) (src (r.1 + j)))
  let k := mkPacket (dstDev t) 0 (devNum s) 3 0 false false false t.job 0 0 (movSpan t (t.tensor 1) r.1).1 0 bs
  movCount t true 1 bs.length (issue (dstDev t) k t.id .moveWrite r.1 bs.length s)

/-- The write requests that a task's held bytes are enough for, in a slice that ends at `stop` (R206, R210). -/
def moveOut (t : Task) (stop : Nat) (s : State) : StepRes :=
  let rs := doneRuns t stop
  let w := (rs.getLast?.map (·.2)).getD t.wpos
  let src (q : Nat) : List Byte := t.hold.getD (q - t.wpos) []
  let t1 := { t with wpos := w, hold := t.hold.drop (w - t.wpos), detail := word (movBytes t w) }
  if dstFar s t = false then writeEach t t1 src rs s
  else if trackRoom s (rs.length + 1) = false then .wait
  else afterSend t.id s (rs.foldl (sendRun t src) (putTask { t1 with waits := t.waits + rs.length } s))

/-- One granule of a MOVE (R206-R210). -/
def movStep (t : Task) (s : State) : StepRes :=
  let i := t.pos
  let x := t.tensor 0
  let stop := min (movTotal t) t.sliceEnd
  let e := runEnd t x i stop 512 (i + 1)
  let a := (movSpan t x i).1
  let z := movSpan t x (e - 1)
  let n := z.1 + z.2 - a
  if srcFar s t then
    if trackRoom s 2 = false ∨ 8192 ≤ t.waits then .wait else
    let k := mkPacket (srcDev t) 0 (devNum s) 1 0 false false false t.job 0 0 (a / 256 * 256) 1 []
    let s1 := putTask { t with pos := e, waits := t.waits + 1 } s
    afterSend t.id s (movCount t false 1 n (issue (srcDev t) k t.id .moveRead i (e - i) s1))
  else
    readSpans t [(a, n)] s (fun s1 =>
      let new := (List.range (e - i)).map (fun j => let p := movSpan t x (i + j); viewBytes s1 (some t) p.1 p.2)
      moveOut { t with pos := e, hold := t.hold ++ new } stop (movCount t false (b2n (n != 0)) n s1))

/-- A suspension completes the requests in flight: what has been read is written (R210). -/
def moveFlush (id : Nat) (s : State) : State :=
  match findTask s id with
  | none => s
  | some t =>
    if t.cls ≠ 5 ∨ t.hold.isEmpty = true then s else
    match moveOut t t.pos s with
    | .wait => s
    | .fail f s1 => finish t f s1
    | .go t1 s1 => putTask t1 s1

/-- COPY: `k` read requests of a MOVE's slice (R206). -/
def copyEffect (id k cycles : Nat) (s : State) : State :=
  moveTail id (runSlice id k cycles (fun t => t.cls == 5) movTotal (fun _ => true) movStep s)

/-- COPY (R206-R210). -/
def execCopy (task k cycles : Nat) (s : State) : Res := .next (copyEffect task k cycles s)

/-- The positions that go on those held, taken from those that arrived early. -/
def movJoin : Nat → Task → Task
  | 0, t => t
  | n + 1, t =>
    let q := t.wpos + t.hold.length
    match mfind t.got q with
    | none => t
    | some bs => movJoin n { t with hold := t.hold ++ [bs], got := mdel t.got q }

/-- The data of a source line has arrived: with the bytes that came before it, it completes write runs, which are formed
independently of the read runs (R206, R262). -/
def movTaken (x : Track) (data : List Byte) (t : Task) (s : State) : State :=
  if t.phase ≠ .dispatched ∨ t.status ≠ 0 then s else
  let a0 := (movSpan t (t.tensor 0) x.first).1 / 256 * 256
  let src (q : Nat) : List Byte := let p := movSpan t (t.tensor 0) q; (data.drop (p.1 - a0)).take p.2
  let got := (List.range x.count).foldl (fun m j => mput m (x.first + j) (src (x.first + j))) t.got
  let t0 := movJoin got.length { t with waits := t.waits - 1, got := got }
  let stop := if (getEng s t.eng).ctx.contains t.id then t.pos else min (movTotal t) t.sliceEnd
  match moveOut t0 stop s with
  | .go t1 s1 => moveTail t.id (putTask t1 s1)
  | .fail f s1 => finish t0 f s1
  | .wait => putTask t0 s

/-- The data of a task's source line has arrived: what it completes is written as activity of the task's job (R206, R390). -/
def movArrived (x : Track) (data : List Byte) (s : State) : State :=
  match findTask s x.owner with
  | none => s
  | some t => forJob t.job (movTaken x data t) s

/-- A write of the task has been acknowledged. -/
def movAcked (id : Nat) (s : State) : State :=
  match findTask s id with
  | none => s
  | some t => moveTail id (putTask { t with waits := t.waits - 1 } s)

/-- The read-back has returned: 1 good, 9 an uncorrectable error, 3 refused (R207). -/
def readbackEnd (t : Task) (status : Nat) (s : State) : State :=
  let page := ldlPage (t.eng - 0x38) 0
  let s1 := bump page 0 7 1 s
  let s2 := if status = 1 then s1 else raise page 10 0 s1
  let t1 := { t with waits := 0 }
  if status = 1 then finish { t1 with detail := word (movBytes t (movTotal t)) } { status := 1 } s2
  else finish t1 { status := status, slot := 1, detail := if status = 3 then dstDev t * 2 ^ 50 + lastByte t / 256 * 256 else 0 } s2

/-- The transfer on a Ladle engine that awaits the read-back of a local destination. -/
def awaiting (s : State) (n : Nat) : Option Task :=
  s.tasks.find? (fun t => t.eng == 0x38 + n && t.cls == 5 && t.phase == .dispatched && t.status == 0 && t.pos != 0 &&
    decide (movTotal t ≤ t.pos) && t.waits == 0 && !dstFar s t)

/-- READBACK_DONE of a local destination (R207); a provisional line is read where it is. Bytes whose memory did not answer when
they came are written first. -/
def readbackEffect (n : Nat) (s0 : State) : State :=
  let s := match awaiting s0 n with | some t => moveFlush t.id s0 | none => s0
  match awaiting s n with
  | none => s
  | some t =>
    if t.hold.isEmpty = false then s
    else if t.spec then readbackEnd t 1 s else
    match needLines s true [lineOf (lastByte t)] with
    | .wait => s
    | .fault _ => readbackEnd t 3 s
    | .poison a => readbackEnd t 9 (poisonRead (clsOf t.eng) a t.job 9 s)
    | .ok => readbackEnd t 1 (forJob t.job (touchReads (clsOf t.eng) [(lastByte t / 256 * 256, 256)]) s)

/-- READBACK_DONE (R207). -/
def execReadbackDone (n : Fin 8) (s : State) : Res := .next (readbackEffect n.val s)

/-! ### Prefetch records (R212-R214) -/

/-- The lowest and highest byte of a tensor and its scale array. -/
def hull (x : Tensor) : Nat × Nat :=
  let es := x.extents
  (localPart ((es.map (·.1)).foldl min ((es.headD (0, 0)).1)).toNat, localPart ((es.map (·.2)).foldl max ((es.headD (0, 0)).2)).toNat)

/-- The record that a new one replaces: of the used ones the one used longest ago, else the one made first (R214). -/
def victim (recs : Map PfRec) : Nat :=
  let used := recs.filter (fun r => r.2.used)
  let pool := if used.isEmpty then recs else used
  let age (r : PfRec) : Nat := if r.used then r.lastUse else r.made
  (pool.foldl (fun (b : Option (Nat × PfRec)) r => match b with
    | none => some r
    | some q => if age r.2 < age q.2 then some r else some q) none).elim 0 (·.1)

/-- A record retired, counted by whether it was used. -/
def retireRec (n i : Nat) (s : State) : State :=
  let l := getLdl s n
  match mfind l.recs i with
  | none => s
  | some r => bump (ldlPage n 1) 0 (if r.used then 1 else 2) 1 (setLdl n { l with recs := mdel l.recs i } s)

/-- A MOVE task reaches its commit point: its Ladle engine counts it (Table 7.10). -/
def countMove (t : Task) (s : State) : State := if t.cls = 5 ∧ 0x38 ≤ t.eng ∧ t.eng < 0x40 then bump (ldlPage (t.eng - 0x38) 0) 0 4 1 s else s

/-- A MOVE with PF = 1 reaches its commit point with OK: its engine makes a record (R212, R214). -/
def makeRecord (t : Task) (s : State) : State :=
  if t.cls ≠ 5 ∨ prefetch t = false then s else
  let n := t.eng - 0x38
  let recs := (getLdl s n).recs
  let i := ((List.range 64).find? (fun i => (mfind recs i).isNone)).getD (victim recs)
  let s1 := if (mfind recs i).isSome then retireRec n i s else s
  let l := getLdl s1 n
  let d := hull (t.tensor 1)
  let r : PfRec := { srcLo := t.srcExtent.1, srcHi := t.srcExtent.2, dstLo := d.1, dstHi := d.2, changed := t.pfChanged,
                     job := t.job, tick := s.tck.num, made := l.clock, lastUse := l.clock, seen := s.nextTask,
                     desc := t.desc, td := t.td, base := t.base }
  bump (ldlPage n 1) 0 0 1 (setLdl n { l with recs := mput l.recs i r, clock := l.clock + 1 } s1)

/-- The records whose destination an input slot of the task overlaps: engine and index (R213). -/
def usedBy (s : State) (t : Task) : List (Nat × Nat) :=
  let ins := (List.range 8).filter (fun i => t.td.getD i [] != [] && (t.role i == 1 || t.role i == 3))
  let es := ins.flatMap (fun i => (t.tensor i).extents.filter (fun e => isLocal s e.1.toNat))
  let meets (r : PfRec) : Bool := es.any (fun e => overlap (localPart e.1.toNat) (localPart e.2.toNat) r.dstLo r.dstHi)
  s.ldl.flatMap (fun l => (l.2.recs.filter (fun r => meets r.2)).map (fun r => (l.1, r.1)))

/-- The record counts as used by the task, and its use is counted (R213, Table 7.10). -/
def noteUse (t : Task) (n i : Nat) (s : State) : State :=
  let l := getLdl s n
  match mfind l.recs i with
  | none => s
  | some r =>
    let page := ldlPage n 1
    let s1 := setLdl n { l with recs := mput l.recs i { r with used := true, lastUse := l.clock }, clock := l.clock + 1 } s
    let s2 := if t.id < r.seen then bump page 0 5 1 s1 else s1
    if r.used then s2 else
    let d := s.tck.num - r.tick
    bump page 0 (if d = 0 then 6 else if d < 16 then 7 else 8) 1 s2

/-- The first CHANGED record, or one being copied again, among those the task uses; its refetch starts (R213). -/
def startRefetch (t : Task) (s : State) : Task × State :=
  let pick := (usedBy s t).find? (fun x =>
    match mfind (getLdl s x.1).recs x.2 with | some r => r.changed || r.refetching | none => false)
  match pick with
  | none => ({ t with refetch := none }, s)
  | some (n, i) =>
    let l := getLdl s n
    match mfind l.recs i with
    | none => (t, s)
    | some r =>
      let r1 := if r.refetching then r else { r with refetching := true, changed := false }
      let s1 := setLdl n { l with recs := mput l.recs i r1 } s
      ({ t with refetch := some (n, i) }, if r.refetching then s1 else bump (ldlPage n 1) 0 3 1 s1)

/-- The record's transfer as a task. -/
def recTask (n : Nat) (r : PfRec) : Task :=
  { id := 0, cq := 256, eng := 0x38 + n, addr := 0, desc := r.desc, accTick := 0, td := r.td, base := r.base }

/-- Every task that waits for a refetch goes on, or ends with ENGINE_FAULT without having touched its tensors (R213). -/
def releaseWaiting (n i : Nat) (ok : Bool) (s : State) : State :=
  (s.tasks.filter (fun t => t.refetch == some (n, i))).foldl (fun u t =>
    if ok then let r := startRefetch t u; putTask r.1 r.2
    else finish { t with refetch := none, checked := false } { status := 9 } u) s

/-- Tasks that wait for a refetch of a record that has been retired meanwhile go on (R213, R214). -/
def freshWaits (s : State) : State :=
  (s.tasks.filter (fun t => t.refetch.any (fun x => !(mfind (getLdl s x.1).recs x.2).any (·.refetching)))).foldl
    (fun u t => let r := startRefetch t u; putTask r.1 r.2) s

/-- The runs of a record's transfer copied again in order, up to one whose read is refused: the state, the positions done and
what the read met. -/
def copyRuns (t : Task) (self : Nat × Nat) : List (Nat × Nat) → Nat → State → State × Nat × Need
  | [], e, s => (s, e, .ok)
  | r :: rs, e, s =>
    let x := t.tensor 0
    let z := movSpan t x (r.2 - 1)
    let span := ((movSpan t x r.1).1, z.1 + z.2 - (movSpan t x r.1).1)
    match needSpans s true [span] with
    | .ok =>
      let b := movBuf t r.1 r.2 (fun q => let p := movSpan t x q; memBytes s.mem p.1 p.2)
      copyRuns t self rs r.2 (forJob t.job (fun u => writeRuns (clsOf t.eng) none (some self) (bufWrites b)
        (movCount t false 1 span.2 (touchReads (clsOf t.eng) [span] u))) s)
    | n => (s, e, n)

/-- The read-back of a refetch (R207, R213): what it meets. -/
def refetchBack (t : Task) (x : State × Nat × Need) : State × Nat × Need :=
  if x.2.2 ≠ .ok then x else
  let span := (lastByte t / 256 * 256, 256)
  let s := bump (ldlPage (t.eng - 0x38) 0) 0 7 1 x.1
  match needSpans s true [span] with
  | .ok => (forJob t.job (touchReads (clsOf t.eng) [span]) s, x.2.1, .ok)
  | n => (raise (ldlPage (t.eng - 0x38) 0) 10 0 s, x.2.1, n)

/-- REFETCH_DONE: the whole transfer has been copied again and read back, or has met a poisoned line (R213). -/
def refetchEffect (n i : Nat) (s : State) : State :=
  match mfind (getLdl s n).recs i with
  | none => releaseWaiting n i true s
  | some r =>
    if r.refetching = false then releaseWaiting n i true s else
    let t := recTask n r
    let all := List.range (movTotal t)
    if needSpans s false (all.map (movSpan t (t.tensor 0))) = .wait then s else
    let y := refetchBack t (copyRuns t (n, i) (runsOf t (t.tensor 0) (movTotal t) (movTotal t) 0) 0 s)
    let e := y.2.1
    let ws := runsOf t (t.tensor 1) e e 0
    let s1 := bump (ldlPage n 1) 0 4 (movBytes t e) (addAct r.job 7 ws.length (movCount t true ws.length (movBytes t e) y.1))
    match y.2.2 with
    | .ok =>
      let l := getLdl s1 n
      releaseWaiting n i true (setLdl n { l with recs := mmap (fun j x => if j = i then { x with refetching := false } else x) l.recs } s1)
    | .poison a => releaseWaiting n i false (retireRec n i (poisonRead (clsOf t.eng) a r.job 9 s1))
    | _ => releaseWaiting n i false (retireRec n i s1)

/-- REFETCH_DONE (R213). -/
def execRefetchDone (n : Fin 8) (record : Fin 64) (s : State) : Res := .next (refetchEffect n.val record.val s)

/-! ### Direct mode (R202, R204) -/

/-- LDL_CFG.DIRECT. -/
def directMode (s : State) (n : Nat) : Bool := regBit s (ldlPage n 0) 0x200 0

/-- A write of LDL_CFG (R202). -/
def directModeEffect (n : Nat) (v : Word) (s : State) : State :=
  let page := ldlPage n 0
  if work s page then raise page 8 0x200 s else storeReg page 0x200 v s

/-- DIRECT_MODE_WRITE (R202). -/
def execDirectModeWrite (who : Initiator) (n : Fin 8) (v : Word) (s : State) : Res :=
  .next (regGuard who (ldlPage n.val 0) 0x200 v (fun w t => directModeEffect n.val w t) s)

/-- A write of CH_SRC (0), CH_DST (8) or CH_CTL (16) of a shadow set: only in direct mode and not armed (R204,
R216). -/
def chanWrite (n c r : Nat) (v : Word) (s : State) : State :=
  let page := ldlPage n 0
  let l := getLdl s n
  let x := mget l.shadow c {}
  if directMode s n = false ∨ x.busy = true then raise page 9 (0x1040 + 128 * c + r) s else
  let y := if r = 0 then { x with src := v } else if r = 8 then { x with dst := v }
    else { x with ctl := v &&& ~~~ (mask 18 18), busy := bit v 18 && takesWork s page }
  setLdl n { l with shadow := mput l.shadow c y } s

/-- CHANNEL_ARM (R204): a write of CH_CTL. -/
def execChannelArm (who : Initiator) (n : Fin 8) (c : Fin 16) (v : Word) (s : State) : Res :=
  .next (regGuard who (ldlPage n.val 0) (0x1040 + 128 * c.val + 16) v (fun w t => chanWrite n.val c.val 16 w t) s)

/-- The channel an engine in direct mode serves next: in ascending order after the one it served last (R203). -/
def nextChannel (s : State) (n : Nat) : Option Nat :=
  let l := getLdl s n
  ((List.range 16).map (fun i => (l.served + 1 + i) % 16)).find? (fun c =>
    (mget l.shadow c {}).busy && !(mget l.active c {}).busy)

/-- A MOVE descriptor for a channel's set. -/
def chanDesc (x : Chan) : List Word :=
  let z : Word := 0
  [word (1 + 5 * 256 + fld x.ctl 15 0 * 65536), 0, 1, 0, 0, 0, 0, 0,
   x.src, word (1 * 2 ^ 32 + 3 * 2 ^ 34), x.dst, word (2 * 2 ^ 32 + 3 * 2 ^ 34)] ++ List.replicate 12 z ++
   [word (fld x.ctl 17 16)] ++ List.replicate 7 z

/-- A structure's bytes lie in mapped memory. -/
def inHere (s : State) (a n : Nat) : Bool := mappedMem s a && mappedMem s (a + n - 1)

/-- The transfer of channel `c`'s set `x` on engine `n`, as a task (R204). -/
def directTask (s : State) (n c : Nat) (x : Chan) : Task :=
  let rd (w : Word) : List Word := memWords s.mem w.toNat 16
  { id := s.nextTask, cq := 256, eng := 0x38 + n, addr := 0, desc := chanDesc x, accTick := s.tck.num,
    phase := .dispatched, direct := some c, td := [rd x.src, rd x.dst],
    base := [absBase s 0 (rd x.src), absBase s 0 (rd x.dst)] }

/-- The two tensor descriptors of a channel's set lie where R204 wants them. -/
def descOk (s : State) (w : Word) : Bool := addrOk w.toNat 128 && inHere s w.toNat 128

/-- What reading a channel's descriptors meets (R204, R226). -/
def descNeed (s : State) (x : Chan) : Need :=
  if descOk s x.src && descOk s x.dst then needSpans s true [(x.src.toNat, 128), (x.dst.toNat, 128)] else .ok

/-- The checks of a direct transfer, those of a MOVE task with PF = 0 (R204). -/
def directFail (s : State) (n c : Nat) (x : Chan) : Option Fail :=
  let t0 := directTask s n c x
  firstFail [
    failIf (!descOk s x.src) (badDesc 0), failIf (!descOk s x.dst) (badDesc 1),
    (match descNeed s x with
     | .poison a => some { status := 9, slot := b2n (lineOf a != lineOf x.src.toNat) }
     | .fault _ => some (if access s x.src.toNat = .fault then addrFault 0 x.src.toNat else addrFault 1 x.dst.toNat)
     | _ => none),
    movParams t0, failIf (tdBad (t0.td.getD 0 []) (t0.base.getD 0 0) true) (badDesc 0),
    failIf (tdBad (t0.td.getD 1 []) (t0.base.getD 1 0) true) (badDesc 1), movTensors s t0,
    extentsFail s t0 (fun _ _ => true) (fun _ => true)]

/-- The accesses to a channel's descriptors noted: a poisoned one is reported (R13, R226). -/
def descRead (n : Nat) (x : Chan) (s : State) : State :=
  match descNeed s x with
  | .poison a => poisonRead (clsOf (0x38 + n)) a (fld x.ctl 15 0) 9 s
  | _ => if descOk s x.src && descOk s x.dst
    then forJob (fld x.ctl 15 0) (touchReads (clsOf (0x38 + n)) [(x.src.toNat, 128), (x.dst.toNat, 128)]) s else s

/-- DIRECT_TRANSFER_START: the engine's next armed channel; its shadow set becomes the active one (R204). -/
def directStart (n c : Nat) (s : State) : State :=
  let l := getLdl s n
  let x := mget l.shadow c {}
  if directMode s n = false ∨ takesWork s (ldlPage n 0) = false ∨ running s = false ∨ l.serving.isSome = true ∨
      nextChannel s n ≠ some c ∨ descNeed s x = .wait then s
  else
    let a : Chan := { x with status := 0, busy := true, pos := 0, detail := 0 }
    let s1 := setLdl n { l with active := mput l.active c a, shadow := mput l.shadow c { x with busy := false },
                                serving := some c, served := c } (descRead n x s)
    let t0 := directTask s n c x
    let s2 : State := { s1 with nextTask := s.nextTask + 1, tasks := s1.tasks ++ [t0] }
    match directFail s n c x with
    | some f => finish t0 f s2
    | none =>
      let adm : Adm := { task := t0.id, resume := false, bound := 0, stop := movTotal t0 }
      setEng t0.eng { getEng s2 t0.eng with running := some t0.id, queue := [adm] } s2

/-- DIRECT_TRANSFER_START (R204). -/
def execDirectTransferStart (n : Fin 8) (c : Fin 16) (s : State) : Res := .next (directStart n.val c.val s)

end Sys2Proof.Machine
end

