-- ==== Sys2Proof/Machine/Matmul.lean ====
section
/-! DEFINITION. The MATMUL class: its checks (R71, R73, R83-R87, R99, R118, R119), the product (R74, R113, R114), the
heritage product (R120, R121), the epilogue (R80, R81) and the Strainer's tile sample (R344). A granule is one row of
one tile pass (R89). -/

namespace Sys2Proof.Machine

/-! ### Checks -/

/-- The parameter area and slot roles (R44, R83, R84). -/
def matParams (t : Task) : Option Fail :=
  let act := fld (t.w 24) 3 0
  let p1 := Num.decode Num.fp32 (fld (t.w 25) 63 32)
  let p2 := Num.decode Num.fp32 (fld (t.w 26) 31 0)
  firstFail [
    failIf (decide (1 < t.op)) (badDesc 0),
    failIf (decide (3 < act)) (badDesc 0),
    failIf (fld (t.w 24) 15 9 != 0 || fld (t.w 24) 63 28 != 0 || fld (t.w 26) 63 32 != 0 ||
      (List.range 5).any (fun i => t.w (27 + i) != 0)) (badDesc 0),
    failIf (act == 3 && (p1.isNan || p2.isNan || Num.lt p2 p1)) (badDesc 0),
    failIf (t.role 0 != 1) (badDesc 0),
    failIf (t.role 1 != 1) (badDesc 1),
    failIf (t.role 2 != 2) (badDesc 2),
    failIf (t.role 3 != 0 && t.role 3 != 1) (badDesc 3),
    failIf (t.role 4 != 0 && t.role 4 != 1) (badDesc 4),
    failIf (t.role 5 != 0 && t.role 5 != 2) (badDesc 5),
    failIf (t.role 6 != 0) (badDesc 6),
    failIf (t.role 7 != 0) (badDesc 7)]

/-- Dimension 0 contiguous (R85). -/
def contiguous (x : Tensor) : Bool := if x.packed then x.stride 0 == 0 else x.stride 0 == (x.size : Int)

/-- Dimensions 2-5 agree. -/
def sameBatch (x y : Tensor) : Bool := x.counts.drop 2 == y.counts.drop 2

/-- Formats of slots 3 and 4 (R99). -/
def sideFmt (x : Tensor) : Bool := decide (1 ≤ x.fmt ∧ x.fmt ≤ 5) && !x.scaled

/-- WIDE of the task's job (R118). -/
def wideOf (s : State) (t : Task) : Nat :=
  match slotOfJob s t.job with
  | some i => fld (getSlot s i).w0 18 17
  | none => 0

/-- All the byte ranges of a tensor lie in the scratchpad window. -/
def inScr (x : Tensor) : Bool :=
  x.extents.all (fun e => winOf (localPart e.1.toNat) == .scr && winOf (localPart e.2.toNat) == .scr)

/-- Checks on the tensors of a MATMUL (R73, R85, R86, R99, R118, R119); SLOT names the first that breaks one. -/
def matTensors (s : State) (t : Task) : Option Fail :=
  let a := t.tensor 0
  let b := t.tensor 1
  let y := t.tensor 2
  let c := t.tensor 3
  let r := t.tensor 4
  let w := t.tensor 5
  let h := heritage t
  let wide := wideOf s t
  let blk (x : Tensor) (tr : Bool) : Bool := x.blen == 32 && x.bdim != (if tr then 1 else 0)
  firstFail [
    failIf (decide (a.rank < 2) || !contiguous a || (cellRow a.fmt).isNone || blk a (transA t) ||
      (h && (decide (2 < (cellRow a.fmt).getD 0)))) (badDesc 0),
    failIf (decide (b.rank < 2) || !contiguous b || cellRow b.fmt != cellRow a.fmt || blk b (transB t) ||
      b.count (if transB t then 1 else 0) != kc t || !sameBatch b a) (badDesc 1),
    failIf (decide (y.rank < 2) || !contiguous y || !Num.isFloat y.fmt || y.count 0 != nc t || y.count 1 != ms t ||
      !sameBatch y a || (y.blen == 32 && y.bdim != 0) || (h && decide (5 < y.fmt))) (badDesc 2),
    failIf (t.used 3 && (c.rank != 1 || !contiguous c || !sideFmt c || c.count 0 != nc t)) (badDesc 3),
    failIf (t.used 4 && (!contiguous r || !sideFmt r || r.count 0 != nc t || r.count 1 != ms t || !sameBatch r a ||
      (wide == 1 && (r.fmt != 1 || !inScr r)) || (wide == 2 && r.fmt != 3))) (badDesc 4),
    failIf (t.used 5 && (!contiguous w || w.fmt == 0 || decide (3 < w.fmt) || w.scaled || w.count 0 != nc t ||
      w.count 1 != ms t || !sameBatch w a || (wide == 1 && (w.fmt != 1 || !inScr w)) || wide == 2)) (badDesc 5)]

/-- A local address lies in the local-store section of an array unit (Table 3.1). -/
def inSection (e a : Nat) : Bool :=
  let u := arrUnit e
  winOf a == .arr u.1 && (decide (e < 4) || decide ((a - 0x180000000000) % 0x10000000 / 0x4000000 = u.2))

/-- Windows permitted to a MATMUL slot (Table 3.7), for one local address. -/
def matWindow (t : Task) (slot a : Nat) : Bool :=
  match slot with
  | 0 | 1 => inSection t.eng a
  | 3 | 4 => inSection t.eng a || winOf a == .scr
  | _ => true

/-! ### The product -/

/-- The stationary operand's code that the cells hold at contraction index `k` and column `n`: slot 1's, or what page 6 put
there (R97). -/
def operB (t : Task) (s : State) (k n : Nat) (bt : List Nat) : Nat :=
  let x := arrUnit t.eng
  let u := getUnit s x.1 x.2
  if u.pattern then
    let per := perCell ((cellRow (t.tensor 0).fmt).getD 0)
    let c := getCell s x.1 u.bank (cellAt (isQuad t) x.2 (k % tileK t / per) (n % edge t))
    if (t.tensor 0).fmt = 1 then c * 65536 else c / 2 ^ (laneBits t * (k % tileK t % per)) % 2 ^ (t.tensor 1).width
  else (t.tensor 1).get s (some t) (idxB t n k bt)

/-- A code's value in a format. -/
def codeVal (fmt code : Nat) : Num.Val :=
  match Num.fmtOf fmt with
  | some f => Num.decode f code
  | none => Num.ofNat code

/-- The exact products of one pair of operands: split for the FP32 row (R114), else one (R113). -/
def products (t : Task) (s : State) (m n k : Nat) (bt : List Nat) : List Num.Val :=
  let a := t.tensor 0
  if a.fmt = 1 then
    Num.splitProducts (BitVec.ofNat 32 (a.get s (some t) (idxA t m k bt))) (BitVec.ofNat 32 (operB t s k n bt))
  else [Num.mul (a.raw s (some t) (idxA t m k bt)) (codeVal (t.tensor 1).fmt (operB t s k n bt))]

/-- The scaled exact sum of the group of contraction indices `[k, k')` (R109, R113). -/
def groupOf (t : Task) (s : State) (m n : Nat) (bt : List Nat) (k k' : Nat) : Num.Val :=
  let ks := (List.range (k' - k)).map (· + k)
  let sum := Num.groupSum (ks.flatMap (fun i => products t s m n i bt))
  let sc (x : Tensor) (i : List Nat) : Num.Val := Num.scaleVal (x.scale s (some t) i)
  Num.mul (Num.mul sum (sc (t.tensor 0) (idxA t m k bt))) (sc (t.tensor 1) (idxB t n k bt))

/-- The running sum carried over the contraction indices `[k0, k1)`, in groups of 32 (R113). -/
def runSum (t : Task) (s : State) (m n : Nat) (bt : List Nat) (k0 k1 : Nat) (start : F32) : F32 :=
  (List.range (cdiv (k1 - k0) 32)).foldl
    (fun acc g => Num.accum acc (groupOf t s m n bt (k0 + 32 * g) (min k1 (k0 + 32 * g + 32)))) start

/-- A heritage operand's value: a subnormal element is a zero of its sign (R120). -/
def flushedCode (fmt code : Nat) : Num.Val :=
  match Num.fmtOf fmt with
  | some f => Num.decode f (Num.flush f code)
  | none => Num.ofNat code

/-- An element's value as a heritage task takes it. -/
def flushedVal (x : Tensor) (s : State) (t : Task) (i : List Nat) : Num.Val := flushedCode x.fmt (x.get s (some t) i)

/-- The running sum of the heritage order over `[k0, k1)`: segments of 128, groups of 8, the groups of a segment
ascending or, with TRANS_B, descending (R120). -/
def heritageSum (t : Task) (s : State) (m n : Nat) (bt : List Nat) (k0 k1 : Nat) (start : F32) : F32 :=
  let term (i : Nat) : Num.Val :=
    Num.mul (flushedVal (t.tensor 0) s t (idxA t m i bt)) (flushedCode (t.tensor 1).fmt (operB t s i n bt))
  let group (g e : Nat) : F32 := Num.r32h (Num.groupSum ((List.range (min 8 (e - g))).map (fun j => term (g + j))))
  let segment (b : Nat) : F32 :=
    let e := min k1 (b + 128)
    let gs := (List.range (cdiv (e - b) 8)).map (fun j => group (b + 8 * j) e)
    (if transB t then gs.reverse else gs).foldl (fun a g => Num.r32h (Num.add (Num.d32 a) (Num.d32 g))) 0
  (List.range (cdiv (k1 - k0) 128)).foldl
    (fun a j => Num.r32h (Num.add (Num.d32 a) (Num.d32 (segment (k0 + 128 * j))))) start

/-- Step 5 of R120: the running sum times the product of the single scales, once, at the end. -/
def heritageScale (t : Task) (s : State) (x : F32) : F32 :=
  let a := t.tensor 0
  let b := t.tensor 1
  if a.scaled || b.scaled then
    Num.r32h (Num.mul (Num.d32 x) (Num.mul (Num.scaleVal (a.scale s (some t) [])) (Num.scaleVal (b.scale s (some t) []))))
  else x

/-- The spans of the local store that row `m` of A takes its contraction indices `[k0, k1)` from. -/
def rowSpans (t : Task) (m k0 k1 : Nat) (bt : List Nat) : List (Nat × Nat) :=
  (List.range (k1 - k0)).flatMap (fun k => (t.tensor 0).spans (idxA t m (k0 + k) bt))

/-- The spans of the local store that the tile of pass `u` comes from: its columns of B, its contraction indices. -/
def tileSpans (t : Task) (u : Nat) : List (Nat × Nat) :=
  let p := place t (passStart t u)
  let cols := tileCols t p.1
  let k0 := p.2.2.1 * tileK t
  (List.range (cols.2 - cols.1)).flatMap (fun j => (List.range (min (kc t) (k0 + tileK t) - k0)).flatMap (fun k =>
    (t.tensor 1).spans (idxB t (cols.1 + j) (k0 + k) (batchIdx t p.1))))

/-- Words of the local store that a row reads pass its check bits (R96); without an error in the store nothing is to be
seen. -/
def lsChecked (t : Task) (rs : List (Nat × Nat)) (s : State) (k : State → StepRes) : StepRes :=
  if s.ls.isEmpty then k s else
  match needSpans s true rs with
  | .poison a => .fail { status := 9, slot := slotAt t 0 a } (poisonRead (clsOf t.eng) a t.job 9 s)
  | _ => k (touchReads (clsOf t.eng) rs s)

/-- Bytes of A and of its scales that the feeder reads for `k` contraction indices of a row (Table 3.16). -/
def feedBytes (t : Task) (k : Nat) : Nat :=
  cdiv (k * (t.tensor 0).width) 8 + (if (t.tensor 0).blen = 32 then cdiv k 32 else 0)

/-- The running sums of the columns `[n0, n1)` after row `m` has met the contraction indices of K tile `kt`. -/
def rowSums (t : Task) (s : State) (m n0 n1 kt : Nat) (bt : List Nat) (start : List F32) : List F32 :=
  let k0 := kt * tileK t
  let k1 := min (kc t) (k0 + tileK t)
  (List.range (n1 - n0)).map (fun j =>
    let x := start.getD j 0
    if heritage t then
      let y := heritageSum t s m (n0 + j) bt k0 k1 x
      if kt + 1 = kTiles t then heritageScale t s y else y
    else runSum t s m (n0 + j) bt k0 k1 x)

/-- The sums of a row are kept; with the last row of a pass the pass is counted and its front is through, and with that of
the last K tile the output block is complete. -/
def rowDone (t : Task) (rows : Map (List F32)) (s : State) : StepRes :=
  let p := place t t.pos
  let u := arrUnit t.eng
  let page := pageOf .arr u.1 0
  let s1 := bump page 0 u.2 (issueCycles t) s
  if p.2.2.2 + 1 = rowsOf t p.2.1 then
    let s2 := passOver u.1 u.2 (bump page 0 (8 + u.2) 1 s1)
    if p.2.2.1 + 1 = kTiles t then
      let flat := (List.range (rowsOf t p.2.1)).flatMap (fun i => mget rows i [])
      .go { t with pos := t.pos + 1, rows := [], blocks := t.blocks ++ [(p.1 * mBlocks t + p.2.1, flat)] } s2
    else .go { t with pos := t.pos + 1, rows := rows } s2
  else .go { t with pos := t.pos + 1, rows := rows } s1

/-- One streamed row of one pass, once the keeper has climbed and the pass's tile is active (R77, R94): the running sums of
its columns go on. -/
def matRow (t : Task) (s : State) : StepRes :=
  let p := place t t.pos
  let u := arrUnit t.eng
  let m := p.2.1 * blockRows t + p.2.2.2
  let bt := batchIdx t p.1
  let cols := tileCols t p.1
  let k0 := p.2.2.1 * tileK t
  let k1 := min (kc t) (k0 + tileK t)
  if climbing s u.1 u.2 then .wait else
  match tileIn t s with
  | none => .wait
  | some s0 =>
    lsChecked t (rowSpans t m k0 k1 bt) s0 (fun s1 =>
      let start := if p.2.2.1 = 0 then [] else mget t.rows p.2.2.2 []
      rowDone t (mput t.rows p.2.2.2 (rowSums t s1 m cols.1 cols.2 p.2.2.1 bt start))
        (bump (ap u.1 4) 0 2 (feedBytes t (k1 - k0)) s1))

/-- A task's rows run on; its last row leaves its blocks to the epilogue (R88). -/
def matSlice (op id k cycles : Nat) (s : State) : State :=
  runSlice id k cycles (fun t => t.cls == 1 && t.op == op) matTotal (fun _ => true) matRow s

/-- MATMUL_PRODUCT: rows of OP 0x0000 (R74, R113, R114). -/
def execMatmulProduct (task k cycles : Nat) (s : State) : Res := .next (matSlice 0 task k cycles s)

/-- HERITAGE_PRODUCT: rows of OP 0x0001 (R120). -/
def execHeritageProduct (task k cycles : Nat) (s : State) : Res := .next (matSlice 1 task k cycles s)

/-! ### The epilogue -/

/-- Rounding to FP32 in the epilogue: RNE, with flushes for a heritage task (R80, R121). -/
def ernd (t : Task) (v : Num.Val) : F32 := if heritage t then Num.r32h v else Num.r32 v

/-- A side operand's value, flushed for a heritage task (R120). -/
def sideVal (t : Task) (slot : Nat) (s : State) (i : List Nat) : Num.Val :=
  if heritage t then flushedVal (t.tensor slot) s t i else (t.tensor slot).val s (some t) i

/-- Steps 2-4 of R80 without the bias: ACT on a value (R112). -/
def activate (t : Task) (v : F32) : F32 :=
  let x := Num.d32 v
  let p1 : F32 := BitVec.ofNat 32 (fld (t.w 25) 63 32)
  let p2 : F32 := BitVec.ofNat 32 (fld (t.w 26) 31 0)
  match fld (t.w 24) 3 0 with
  | 1 => if Num.lt x (Num.ofNat 0) then 0 else v
  | 2 => if Num.lt x (Num.ofNat 0) then ernd t (Num.mul x (Num.d32 p1)) else v
  | 3 => if x.isNan then v else if Num.lt x (Num.d32 p1) then p1 else if Num.lt (Num.d32 p2) x then p2 else v
  | _ => v

/-- Steps 1-5 of R80 for one element. -/
def epilogueVal (t : Task) (s : State) (v : F32) (m n : Nat) (bt : List Nat) : F32 :=
  let v1 := if bit (t.w 24) 6 then ernd t (Num.mul (Num.d32 v) (Num.decode Num.fp32 (fld (t.w 25) 31 0))) else v
  let v2 := if t.used 3 then ernd t (Num.add (Num.d32 v1) (sideVal t 3 s [n])) else v1
  let v3 := activate t v2
  if t.used 4 then ernd t (Num.add (Num.d32 v3) (sideVal t 4 s ([n, m] ++ bt))) else v3

/-- A conversion to an output format (R103, R106), with the flush and the NaN of a heritage task (R121). -/
def outCode (herit inf : Bool) (fmt : Nat) (v : Num.Val) : Nat :=
  match Num.fmtOf fmt with
  | none => 0
  | some f =>
    if herit then (if v.isNan then Num.heritageNan f else Num.flush f (Num.conv f inf v)) else Num.conv f inf v

/-- Statistics of one value written (R80 step 7, R141): the magnitude's bits and an underflow. -/
def Stats.note (x : Stats) (v : F32) (under : Bool) : Stats :=
  { x with amax := max x.amax (v.toNat % 2 ^ 31), under := min (x.under + b2n under) (2 ^ 32 - 1), count := x.count + 1 }

/-- A code is a zero of its format. -/
def zeroCode (fmt code : Nat) : Bool := code % 2 ^ (Num.widthOf fmt - 1) == 0

/-- Values of one row written into an output tensor at consecutive indices of dimension 0 from `n0`: converted under
R99, or in blocks under R108; the buffer, and which of the values were non-zero and became zero in the conversion: none of
a block whose scale says NaN. -/
def writeRow (herit inf : Bool) (y : Tensor) (s : State) (t : Task) (n0 : Nat) (rest : List Nat) (vs : List F32)
    (buf : Buf) : Buf × List Bool :=
  if Num.isMx y.fmt then
    let blocks := Num.groups32 vs
    let go := fun (acc : Buf × List Bool × Nat) (bl : List F32) =>
      let r := Num.mxBlockRne y.fmt inf (bl.map Num.d32)
      let n := acc.2.2
      let b1 := ((List.range bl.length).zip r.2.1).foldl (fun b z => y.put s (some t) ((n + z.1) :: rest) z.2 b) acc.1
      let b2 := mput b1 (y.scaleAddr (n :: rest)) (BitVec.ofNat 8 r.1)
      let us := (bl.zip r.2.1).map (fun z => r.1 != 255 && !(Num.d32 z.1).isZero && zeroCode y.fmt z.2)
      (b2, acc.2.1 ++ us, n + bl.length)
    let r := blocks.foldl go (buf, [], n0)
    (r.1, r.2.1)
  else
    let codes := vs.map (fun v =>
      outCode herit inf y.fmt (if y.scaled then Num.divScale (Num.d32 v) (y.scale s (some t) []) else Num.d32 v))
    let b := ((List.range vs.length).zip codes).foldl (fun b z => y.put s (some t) ((n0 + z.1) :: rest) z.2 b) buf
    (b, (vs.zip codes).map (fun z => !(Num.d32 z.1).isZero && zeroCode y.fmt z.2))

/-- One row of an output block through the epilogue: the buffer and the statistics. -/
def epilogueRow (t : Task) (s : State) (bn m : Nat) (sums : List F32) (acc : Buf × Stats) : Buf × Stats :=
  let bt := batchIdx t bn
  let cols := tileCols t bn
  let vs := ((List.range sums.length).zip sums).map (fun z => epilogueVal t s z.2 m (cols.1 + z.1) bt)
  let b1 := if t.used 5 then (writeRow (heritage t) (ovfInf t) (t.tensor 5) s t cols.1 (m :: bt) vs acc.1).1 else acc.1
  let r := writeRow (heritage t) (ovfInf t) (t.tensor 2) s t cols.1 (m :: bt) vs b1
  let st := if bit (t.w 24) 7 then (vs.zip r.2).foldl (fun x z => x.note z.1 z.2) acc.2 else acc.2
  (r.1, st)

/-- The bytes of a tile's streamed rows, stationary columns, their scales, and its delivered sums (R344). -/
def tileBytes (t : Task) (s : State) (bn m0 ms' n0 ns' : Nat) (sums : List F32) : List Byte :=
  let bt := batchIdx t bn
  let a := t.tensor 0
  let b := t.tensor 1
  let el (x : Tensor) (i : List Nat) : List Byte := toLe (cdiv x.width 8) (x.get s (some t) i)
  let rowsB := (List.range ms').flatMap (fun i => (List.range (kc t)).flatMap (fun k => el a (idxA t (m0 + i) k bt)))
  let colsB := (List.range ns').flatMap (fun j => (List.range (kc t)).flatMap (fun k => el b (idxB t (n0 + j) k bt)))
  let sc (x : Tensor) (ix : Nat → Nat → List Nat) (n o : Nat) : List Byte :=
    if x.blen = 32 then (List.range n).flatMap (fun i =>
      (List.range (cdiv (kc t) 32)).map (fun g => BitVec.ofNat 8 (x.scale s (some t) (ix (o + i) (32 * g)))))
    else if x.scaled then (List.range n).map (fun _ => BitVec.ofNat 8 (x.scale s (some t) [])) else []
  rowsB ++ colsB ++ sc a (fun i k => idxA t i k bt) ms' m0 ++ sc b (fun j k => idxB t j k bt) ns' n0 ++
    sums.flatMap (fun v => toLe 4 v.toNat)

/-- MiB of each array's store kept for tests and recomputes (R349). -/
def arrReserve (s : State) : Nat := regFld s (pageOf .tst 0 0) 0x218 7 0

/-- The arrays other than `n` that can compute a tile again: in service (R345). -/
def otherArrays (s : State) (n : Nat) : List Nat :=
  (List.range 4).filter (fun m => m != n && !(getBlk s (pageOf .arr m 0)).mappedOut)

/-- The first byte of the test reserve of an array's unit (R349). -/
def reserveBase (s : State) (n q : Nat) : Nat :=
  let r := arrReserve s * 1048576
  if quadMode s n then 0x180000000000 + n * 0x10000000 + (q + 1) * 0x4000000 - r / 4 else 0x180000000000 + (n + 1) * 0x10000000 - r

/-- Bytes of the test reserve of an array's unit (R349). -/
def reserveSize (s : State) (n : Nat) : Nat := arrReserve s * 1048576 / (if quadMode s n then 4 else 1)

/-- The recompute of a captured tile on array `m` (R345): on JOB 0, with Y in FP32, ACT NONE and ALPHA_EN 0, under the sampled
task's OP and by DEADLINE_TICKS; the captured columns are streamed and the captured rows stationary, but the product of a
heritage task keeps its roles and its TRANS_B (R122). On an array in quadrants it takes the quadrant with the sampled
unit's number (DESIGN CHOICE, log 146). -/
def recompOf (s : State) (c : Capture) (m : Nat) : Recomp :=
  let q := if quadMode s m then c.quad else 0
  let keep := decide (c.op = 1)
  { arr := m, quad := q, job := 0, op := c.op, transB := keep && c.transB, yType := 1, act := 0, alpha := false,
    rows := if keep then c.rows else c.cols, cols := if keep then c.cols else c.rows, base := reserveBase s m q,
    deadline := c.tick + regFld s (pageOf .stn 0 0) 0x200 31 16 }

/-- The recompute is submitted: its operands, which are the capture but for its sums, are copied into the test reserve of its unit
(R345). -/
def submitRecomp (c : Capture) (m : Nat) (s : State) : State :=
  let x := recompOf s c m
  let operands := c.bytes.take (c.bytes.length - 4 * c.sums.length)
  forJob 0 (wrBytes 15 x.base operands) { s with rel := { s.rel with recomp := [x] } }

/-- TILE_SAMPLE: one block in every 2^RATE_LOG2 delivered by a unit for a job other than 0 is sampled, at a tile that
rotates; a sample is skipped and counted when it cannot be taken, or has no reserve to be computed again in (R344, R349), or no
other array in service, or not room enough in the reserve (DESIGN CHOICE, log 146). Which of the other arrays computes it
again is the device's choice. -/
def tileSample (t : Task) (bn b : Nat) (sums : List F32) (s : State) : State :=
  let page := pageOf .stn 0 0
  let cfg := getReg s page 0x200
  if t.job = 0 ∨ bit cfg 8 = false ∨ takesWork s page = false then s else
  let u := arrUnit t.eng
  let key := u.1 * 4 + u.2
  let suspect := (getBlk s (pageOf .arr u.1 0)).suspect
  let rate := 2 ^ (if suspect then fld cfg 3 0 - 3 else fld cfg 3 0)
  let n := mget s.rel.tileCount key 0 + 1
  let put (m : Nat) (x : State) : State := { x with rel := { x.rel with tileCount := mput x.rel.tileCount key m } }
  if n < rate then put n s else
  let s1 := put 0 s
  let groupsM := cdiv (rowsOf t b) 32
  let cols := tileCols t bn
  let groupsN := cdiv (cols.2 - cols.1) 32
  let r := s.rel.rotate
  let m0 := 32 * (r % groupsM)
  let n0 := 32 * (r / groupsM % groupsN)
  let mh := min 32 (rowsOf t b - m0)
  let nw := min 32 (cols.2 - cols.1 - n0)
  let tile := (List.range mh).flatMap (fun i => (List.range nw).map (fun j =>
    sums.getD ((m0 + i) * (cols.2 - cols.1) + n0 + j) 0))
  let bytes := tileBytes t s bn (b * blockRows t + m0) mh (cols.1 + n0) nw tile
  let s2 : State := { s1 with rel := { s1.rel with rotate := r + 1 } }
  let base := regFld s page 0x208 49 0
  let d := draw s2
  let os := otherArrays s u.1
  let arr := os[Config.choose d.1 % os.length]?
  if regFld s page 0x210 31 0 < bytes.length ∨ arrReserve s = 0 ∨ s.rel.capHeld = true ∨ s.rel.checking = true ∨ s.crm.normal = false ∨
      arr.any (fun m => decide (bytes.length - 4 * tile.length ≤ reserveSize s m)) = false then
    setReg page 0x228 (word (satAdd 64 (getReg s2 page 0x228).toNat 1)) d.2
  else
    let cap : Capture := ⟨u.1, u.2, isQuad t, t.job, n0, t.op, transB t, s.tck.num, bytes, tile, mh, nw⟩
    submitRecomp cap (arr.getD 0) (wrBytes 15 base bytes { d.2 with rel := { d.2.rel with capture := some cap, checking := true } })

/-- Bytes of a buffer that lie in an array's local store. -/
def storeBytes (n : Nat) (b : Buf) : Nat := (b.filter (fun w => winOf w.1 == .arr n)).length

/-- An output block counted, and its bytes by where they went: through the drain port of the array's own store, or over the
network, there through the fill port of another array's (R96, pages 3 and 4). -/
def blockCount (n : Nat) (b : Buf) (s : State) : State :=
  let own := storeBytes n b
  let s1 := bump (ap n 3) 0 18 1 (bump (ap n 3) 0 17 (b.length - own) (bump (ap n 3) 0 16 own s))
  ((List.range 4).filter (· ≠ n)).foldl (fun u k => bump (ap k 4) 0 5 (storeBytes k b) u) (bump (ap n 4) 0 4 own s1)

/-- A task's oldest complete block is emptied into the outputs; with the last one the task's work is over (R80, R87). -/
def emptyBlock (t : Task) (s : State) : State :=
  match t.blocks with
  | [] => s
  | (i, sums) :: rest =>
    if t.cls ≠ 1 ∨ t.phase ≠ .dispatched ∨ t.status ≠ 0 ∨ running s = false then s else
    let bn := i / mBlocks t
    let b := i % mBlocks t
    let cols := tileCols t bn
    let wd := cols.2 - cols.1
    let rowSums := Num.chunks wd (rowsOf t b) sums
    let side := (List.range (rowsOf t b)).flatMap (fun r =>
      (if t.used 4 then (List.range wd).flatMap (fun j =>
        (t.tensor 4).spans ([cols.1 + j, b * blockRows t + r] ++ batchIdx t bn)) else []))
    let bias := if t.used 3 then (List.range wd).flatMap (fun j => (t.tensor 3).spans [cols.1 + j]) else []
    let r := ((List.range (rowsOf t b)).zip rowSums).foldl
      (fun acc z => epilogueRow t s bn (b * blockRows t + z.1) z.2 acc) (([] : Buf), t.stats)
    match readSpans t (bias ++ side) s (fun s1 => writeBuf t r.1 s1 (fun s2 => .go t s2)) with
    | .wait => s
    | .fail f s1 => finish t f s1
    | .go _ s1 =>
      let u := arrUnit t.eng
      let s2 := blockCount u.1 r.1 (tileSample t bn b sums s1)
      let t1 := { t with blocks := rest, stats := r.2 }
      if rest.isEmpty ∧ matTotal t ≤ t.pos then finish t1 { status := 1 } s2 else putTask t1 s2

/-- OUTPUT_BLOCK_EPILOGUE (R80), as activity of the task's job (R390). -/
def epilogue (id : Nat) (s : State) : State :=
  match findTask s id with
  | none => s
  | some t => forJob t.job (emptyBlock t) s

/-- OUTPUT_BLOCK_EPILOGUE (R80, R344). -/
def execOutputBlockEpilogue (task : Nat) (s : State) : Res := .next (epilogue task s)

end Sys2Proof.Machine
end

