-- ==== Sys2Proof/Machine/Adder.lean ====
section
/-! DEFINITION. The memory-side adders: slots and reservations (R289, R290), the remote-accumulate operations (R285-R288)
and the Strainer's exact record of a bucket (R307). -/

namespace Sys2Proof.Machine

/-- The adder of a local address: the Creamery slice 0-63 that serves it, or 64 + n for HBM controller n (R289); of a line
that is re-homed the host's (R227). -/
def adderOf (s : State) (a : Nat) : Nat :=
  match winOf a with
  | .hbm => 64 + stackOf s a
  | _ => scrServes s a

/-- A bucket armed for (JOB, BUCKET). -/
def findBuck (s : State) (job bucket : Nat) : Option Buck :=
  s.lnk.bucks.find? (fun b => b.job == job && b.bucket == bucket)

def putBuck (b : Buck) (s : State) : State :=
  { s with lnk := { s.lnk with bucks := s.lnk.bucks.map (fun x => if x.job = b.job ∧ x.bucket = b.bucket then b else x) } }

/-- The slot of (JOB, BUCKET) in an adder: its key. -/
def slotIn (s : State) (adder job bucket : Nat) : Option Nat :=
  (s.lnk.adders.find? (fun x => x.1 / 4096 == adder && x.2.job == job && x.2.bucket == bucket)).map (·.1)

/-- Slots of an adder that a job uses. -/
def slotsUsed (s : State) (adder job : Nat) : Nat :=
  (s.lnk.adders.filter (fun x => x.1 / 4096 == adder && x.2.job == job)).length

/-- SLOT_RSV of a job's slot (R290). -/
def slotRsv (s : State) (job : Nat) : Nat :=
  match slotOfJob s job with
  | some i => regFld s cx3 (0x400 + 8 * i) 12 0
  | none => 0

/-- A slot armed in an adder: the lowest free one. -/
def armSlot (adder job bucket : Nat) (s : State) : State :=
  match (List.range 4096).find? (fun i => (mfind s.lnk.adders (adder * 4096 + i)).isNone) with
  | some i => { s with lnk := { s.lnk with adders := mput s.lnk.adders (adder * 4096 + i) { job := job, bucket := bucket } } }
  | none => s

/-- The slots of one adder set up in another that takes over lines of it (R227, R242): those not there already, in the lowest
free places. -/
def copySlots (src dst : Nat) (s : State) : State :=
  if src = dst then s else
  (s.lnk.adders.filter (fun x => x.1 / 4096 == src)).foldl (fun u x =>
    if (slotIn u dst x.2.job x.2.bucket).isSome then u else
    match (List.range 4096).find? (fun i => (mfind u.lnk.adders (dst * 4096 + i)).isNone) with
    | some i => { u with lnk := { u.lnk with adders := mput u.lnk.adders (dst * 4096 + i) x.2 } }
    | none => u) s

/-- The slots of a bucket disarmed (R289), with any check of it. -/
def disarm (job bucket : Nat) (s : State) : State :=
  { s with lnk := { s.lnk with
    adders := s.lnk.adders.filter (fun x => !(x.2.job == job && x.2.bucket == bucket)),
    bucks := s.lnk.bucks.filter (fun b => !(b.job == job && b.bucket == bucket)),
    check := match s.lnk.check with
      | some c => if c.job = job ∧ c.bucket = bucket then none else some c
      | none => none } }

/-- Bytes of a target element (Table 10.2): by the slot's operation. -/
def Buck.size (b : Buck) : Nat :=
  match b.op with
  | 0 | 1 => 4
  | 2 => 1
  | 3 => if b.maxFp32 then 4 else 8
  | _ => 8

/-- The RA_OP code of a packet's operation (Tables 9.6, 10.4). -/
def raOp (op : Nat) : Nat := op - 8

/-- Bytes of one wire element. -/
def wireSize (op code : Nat) : Nat :=
  match op with
  | 8 => 4
  | 9 => 2
  | 0xA => 1
  | 0xB => if code = 0 then 8 else 4
  | _ => 8

/-- Elements of an RA packet's data. -/
def raCount (op code len : Nat) : Nat := if op = 0xA then len / 33 * 32 else len / wireSize op code

/-- CODE, LEN and alignment of Table 10.2. -/
def raFormOk (op code len addr : Nat) : Bool :=
  match op with
  | 8 => code == 0 && len % 4 == 0 && len != 0 && addr % 4 == 0
  | 9 => code == 0 && len % 2 == 0 && len != 0 && addr % 4 == 0
  | 0xA => decide (code < 16) && len % 33 == 0 && len != 0 && decide (len ≤ 64 * 33) && addr % 32 == 0
  | 0xB => (code == 0 && len % 8 == 0 && len != 0 && addr % 8 == 0) || (code == 1 && len % 4 == 0 && len != 0 && addr % 4 == 0)
  | _ => code == 0 && len % 8 == 0 && len != 0 && addr % 8 == 0

/-- The packet is a contribution to the bucket's flag word. -/
def toFlag (b : Buck) (op addr len : Nat) : Bool := op == 0xC && addr == b.flag && len == 8

/-- The packet's operation fits the slot it matches (R286, R287, R297). -/
def raFits (b : Buck) (op code addr len : Nat) (prom : Bool) : Bool :=
  toFlag b op addr len ||
  (match op with
   | 8 => b.op == 0 || b.op == 1 || (b.op == 2 && prom)
   | 9 => b.op == 1
   | 0xA => b.op == 2 && (code % 2 == 1) == (b.fmt == 0x11)
   | 0xB => b.op == 3 && (code == 1) == b.maxFp32
   | _ => b.op == 4)

/-- Bytes of memory the packet's target elements occupy. -/
def raSpan (b : Buck) (op code addr len : Nat) : Nat × Nat :=
  if toFlag b op addr len then (addr, 8) else (addr, raCount op code len * b.size)

/-- The decoded wire values of an additive packet (R101, R285). -/
def raVals (op code : Nat) (data : List Byte) : List Num.Val :=
  let n := raCount op code data.length
  let at_ (w i : Nat) : Nat := leNat ((data.drop (w * i)).take w)
  (List.range n).map (fun i =>
    match op with
    | 8 => Num.decode Num.fp32 (at_ 4 i)
    | 9 => Num.decode Num.bf16 (at_ 2 i)
    | _ =>
      let f := if code % 2 = 1 then Num.e5m2 else Num.e4m3
      Num.mul (Num.decode f (at_ 1 i)) (Num.scaleVal ((data.getD (n + i / 32) 0).toNat)))

/-- RA_MAX on FP32 (Table 10.2): NaN if either is NaN, +0 where the larger is a zero (DEDUCED, log 114), else the larger. -/
def maxF32 (a b : F32) : F32 :=
  let x := Num.d32 a
  let y := Num.d32 b
  if x.isNan || y.isNan then 0x7FC00000
  else
    let v := if Num.lt x y then b else a
    if (Num.d32 v).isZero then 0 else v

/-- One block of 32 elements of an ADD_MX8 bucket after a contribution (R287): the writes to elements, scale byte and
promotion area, and the flags rescaled and promoted. -/
def mxAdd (s : State) (b : Buck) (e0 : Nat) (xs : List Num.Val) (xscale margin : Nat) (promF32 : Bool) :
    List (Nat × List Byte) × Bool × Bool :=
  let f := if b.fmt = 0x11 then Num.e5m2 else Num.e4m3
  let a0 := b.base + e0
  let sa := b.sbase + e0 / 32
  let pa := b.pbase + 4 * e0
  let ts := (memGet s.mem sa).toNat
  let ids := List.range 32
  let code (k : Nat) : Nat := (memGet s.mem (a0 + k)).toNat
  let t (k : Nat) : Num.Val := Num.mul (Num.decode f (code k)) (Num.scaleVal ts)
  let pOld (k : Nat) : Num.Val := Num.d32 (BitVec.ofNat 32 (leNat (memBytes s.mem (pa + 4 * k) 4)))
  let x (k : Nat) : Num.Val := xs.getD k (Num.ofNat 0)
  let pOut (v : Nat → F32) : Nat × List Byte := (pa, ids.flatMap (fun k => toLe 4 (v k).toNat))
  if ts = 255 then ([pOut (fun k => Num.r32 (Num.add (pOld k) (x k)))], false, false)
  else if promF32 then ([pOut (fun k => Num.r32 (Num.add (t k) (x k))), (sa, [0xFF])], false, true)
  else
    let w (k : Nat) : F32 := Num.r32 (Num.add (t k) (x k))
    let fits (q : Nat) : Bool := ids.all (fun k =>
      (Num.d32 (w k)).isFinite && (Num.decode f (Num.conv f true (Num.divScale (Num.d32 (w k)) q))).isFinite)
    let nonzero := ids.any (fun k => !(Num.decode f (code k)).isZero)
    let a := if nonzero then ts else min (xscale + margin) 254
    let q := ((List.range 256).find? (fun i => decide (254 < a + i) || fits (a + i))).getD 0 + a
    if min (a + b.lift) 254 < q then ([pOut w, (sa, [0xFF])], false, true)
    else
      ([(a0, ids.map (fun k => BitVec.ofNat 8 (Num.conv f true (Num.divScale (Num.d32 (w k)) q)))), (sa, [BitVec.ofNat 8 q])],
       decide (a < q), false)

/-- The exact record of the values added to the elements of a bucket from `e0` on (R307). -/
def noteSums (e0 : Nat) (vs : List Num.Val) (m : Map (Num.Val × Num.Val × Nat)) : Map (Num.Val × Num.Val × Nat) :=
  ((List.range vs.length).zip vs).foldl (fun m z =>
    let o := mget m (e0 + z.1) (Num.ofNat 0, Num.ofNat 0, 0)
    mput m (e0 + z.1) (Num.add o.1 z.2, Num.add o.2.1 z.2.abs, o.2.2 + 1)) m

/-- The exact maximum or AND of the 64-bit values that the adders have added to the elements from `e0` on (R307). -/
def noteWords (isMax : Bool) (e0 : Nat) (vs : List Nat) (m : Map Nat) : Map Nat :=
  ((List.range vs.length).zip vs).foldl (fun m z =>
    let k := e0 + z.1
    mput m k (if isMax then max (mget m k 0) z.2 else Nat.land (mget m k (2 ^ 64 - 1)) z.2)) m

/-- Contributions of elements `[e0, e0 + n)` counted by chunk of 2,048. -/
def noteChunks (e0 n : Nat) (m : Map Nat) : Map Nat :=
  (List.range ((e0 + n - 1) / 2048 + 1 - e0 / 2048)).foldl (fun m i =>
    let c := e0 / 2048 + i
    let lo := max e0 (2048 * c)
    let hi := min (e0 + n) (2048 * (c + 1))
    mput m c (mget m c 0 + (hi - lo))) m

/-- The slots of a bucket in the adders of a span: element contributions counted (Table 10.9). Those of a re-homed line are
performed, and counted, by the slice that serves it (R227). -/
def noteSlots (b : Buck) (a len size : Nat) (s : State) : State :=
  (linesOf a len).foldl (fun u l =>
    let lo := max a (l * 256)
    let hi := min (a + len) (l * 256 + 256)
    match slotIn u (adderOf u (l * 256)) b.job b.bucket with
    | none => u
    | some key =>
      let x := mget u.lnk.adders key { job := b.job, bucket := b.bucket }
      let y := { x with count := satAdd 32 x.count ((hi - lo) / size) }
      let u1 : State := { u with lnk := { u.lnk with adders := mput u.lnk.adders key y } }
      if key < 64 * 4096 then bump (pageOf .crm (scrServes u (l * 256)) 0) 0 15 ((hi - lo) / size) u1 else u1) s

/-- The flags of the slot in the adder that holds an address, set for a block it has rescaled or promoted (R287, R311). -/
def noteFlags (b : Buck) (a : Nat) (resc prom : Bool) (s : State) : State :=
  match slotIn s (adderOf s a) b.job b.bucket with
  | none => s
  | some key =>
    let x := mget s.lnk.adders key { job := b.job, bucket := b.bucket }
    { s with lnk := { s.lnk with adders := mput s.lnk.adders key { x with resc := x.resc || resc, prom := x.prom || prom } } }

/-- A slot of the bucket in an adder of the span has its PROMOTED flag set (R288). -/
def slotPromoted (s : State) (b : Buck) (a len : Nat) : Bool :=
  (linesOf a len).any (fun l => match slotIn s (adderOf s (l * 256)) b.job b.bucket with
    | some key => (mget s.lnk.adders key { job := 0, bucket := 0 }).prom
    | none => false)

/-- A packet's elements lie where the bucket's staging lies; an ADD_MX8 block has its scale there. -/
def inStaging (b : Buck) (op code addr len : Nat) : Bool :=
  toFlag b op addr len || (decide (b.base ≤ addr) && decide (addr + raCount op code len * b.size ≤ b.base + b.elems * b.size))

/-- A contribution performed by the adders (R285-R287): every element's read, operation and write as one. -/
def perform (b : Buck) (op code addr : Nat) (data : List Byte) (s : State) : State :=
  let n := raCount op code data.length
  let word64 (i : Nat) : Nat := leNat ((data.drop (8 * i)).take 8)
  let tgt (w i : Nat) : Nat := leNat (memBytes s.mem (addr + w * i) w)
  if toFlag b op addr data.length then
    let v := Nat.land (tgt 8 0) (word64 0)
    let s1 := adderWrite addr (toLe 8 v) (putBuck { b with flags := b.flags + 1 } s)
    noteSlots b addr 8 8 s1
  else
    let e0 := (addr - b.base) / b.size
    let vs := if op ≤ 0xA then raVals op code data else []
    let keep (u : State) : State :=
      if inStaging b op code addr data.length = false then u else
      match findBuck u b.job b.bucket with
      | some c => putBuck { c with
          chunks := noteChunks e0 n c.chunks,
          sums := if op ≤ 0xA then noteSums e0 vs c.sums else c.sums,
          words := if op ≤ 0xA ∨ code = 1 then c.words else noteWords (op == 0xB) e0 ((List.range n).map word64) c.words } u
      | none => u
    let count (u : State) : State := addAct b.job 8 n u
    if b.op = 2 then
      let margin := if op = 0xA then code / 2 % 8 else 0
      let go (u : State) (j : Nat) : State :=
        let r := mxAdd u b (e0 + 32 * j) ((vs.drop (32 * j)).take 32) ((data.getD (n + j) 0).toNat) margin (op == 8)
        let u1 := r.1.foldl (fun u w => adderWrite w.1 w.2 u) u
        let u2 := if r.2.2 then bump cx3 1 2 1 u1 else u1
        let u3 := if r.2.1 then bump cx3 1 3 1 u2 else u2
        noteFlags b (addr + 32 * j) r.2.1 r.2.2 u3
      noteSlots b addr n 1 (count (keep ((List.range (cdiv n 32)).foldl go s)))
    else
      let out : List Byte :=
        if op ≤ 9 then ((List.range n).zip vs).flatMap (fun z =>
          toLe 4 (Num.r32 (Num.add (Num.d32 (BitVec.ofNat 32 (tgt 4 z.1))) z.2)).toNat)
        else if op = 0xB ∧ code = 1 then (List.range n).flatMap (fun i =>
          toLe 4 (maxF32 (BitVec.ofNat 32 (tgt 4 i)) (BitVec.ofNat 32 (leNat ((data.drop (4 * i)).take 4)))).toNat)
        else if op = 0xB then (List.range n).flatMap (fun i => toLe 8 (max (tgt 8 i) (word64 i)))
        else (List.range n).flatMap (fun i => toLe 8 (Nat.land (tgt 8 i) (word64 i)))
      noteSlots b addr (n * b.size) b.size (count (keep (adderWrite addr out s)))

/-- Bytes of the target of an RA packet that has found no bucket yet (Table 10.2). -/
def wireTarget (op code : Nat) (prom : Bool) (len : Nat) : Nat :=
  raCount op code len * (match op with
    | 8 => if prom then 1 else 4
    | 9 => 4
    | 0xA => 1
    | 0xB => if code = 1 then 4 else 8
    | _ => 8)

/-- Every adder that holds one of the span's lines has a slot armed for the bucket (R286). -/
def slotsArmed (s : State) (job bucket : Nat) (span : Nat × Nat) : Bool :=
  (linesOf span.1 span.2).all (fun l => (slotIn s (adderOf s (l * 256)) job bucket).isSome)

end Sys2Proof.Machine
end

