-- ==== Sys2Proof/Machine/Reduce.lean ====
section
/-! DEFINITION. The REDUCE class (R284, R292-R308): ARM, ALLREDUCE with its phases, MULTICAST with its windows (R275),
parking (R305), and the Strainer's reduction check (R307, R308). A granule is one chunk of 2,048 elements, or one flag
word, issued to one destination. -/

namespace Sys2Proof.Machine

/-! ### Parameters -/

def raOpOf (t : Task) : Nat := fld (t.w 24) 2 0
def maxFp32Of (t : Task) : Bool := bit (t.w 24) 3
def fabricOf (t : Task) : Nat := fld (t.w 24) 5 4
def planesOf (t : Task) : Nat := fld (t.w 25) 23 16
def elemsOf (t : Task) : Nat := fld (t.w 26) 47 0
def liftOf (t : Task) : Nat := fld (t.w 24) 22 20
def skimEnOf (t : Task) : Bool := bit (t.w 24) 7

/-- The bucket id of the flag phase (R292). -/
def flagBucket (b : Nat) : Nat := b + 0x80000

/-- The slots an operation uses and their roles (Table 10.3); 9 marks an optional input. -/
def redRoles (op raop : Nat) : List Nat :=
  let p (r : Nat) : Nat := if raop = 2 then r else 0
  match op with
  | 0 => [0, 2, 0, 0, 2, 2, p 2, 0]
  | 1 => [1, 3, 2, 9, 3, 3, p 3, 0]
  | _ => [1, 2, 0, 0, 0, 0, 0, 0]

/-- The parameter area and roles of a REDUCE task (R293, R294, R296). -/
def redParams (t : Task) : Option Fail :=
  let w := t.w 24
  firstFail [
    failIf (decide (2 < t.op)) (badDesc 0),
    failIf (decide (4 < raOpOf t) || (maxFp32Of t && raOpOf t != 3) || fabricOf t == 3 || fld w 31 23 != 0 ||
      fld w 63 51 != 0 || fld (t.w 25) 63 24 != 0 || fld (t.w 26) 63 48 != 0 ||
      (List.range 5).any (fun i => t.w (27 + i) != 0)) (badDesc 0),
    failIf (elemsOf t % 2048 != 0) (badDesc 0),
    failIf (t.op == 0 && t.units != 0) (badDesc 0),
    firstFail ((List.range 8).map (fun i =>
      let r := (redRoles t.op (raOpOf t)).getD i 0
      failIf (if r = 9 then t.role i != 0 && t.role i != 1 else t.role i != r) (badDesc i)))]

/-- Position of a device in a list. -/
def posIn (ds : List Nat) (d : Nat) : Nat := ds.findIdx (· == d)

/-- The device's number appears exactly once. -/
def onceIn (ds : List Nat) (d : Nat) : Bool := (ds.filter (· == d)).length == 1

def grpR (t : Task) : Nat := t.grp.length
def grpJ (s : State) (t : Task) : Nat := posIn t.grp (devNum s)
def ringG (t : Task) : Nat := t.ring.length
def ringI (s : State) (t : Task) : Nat := posIn t.ring (devNum s)

/-- Chunks of the whole bucket, and the first chunk of share `m` (R295). -/
def chunksOf (t : Task) : Nat := elemsOf t / 2048
def shareLo (t : Task) (m : Nat) : Nat := m * chunksOf t / grpR t
def shareLen (t : Task) (m : Nat) : Nat := shareLo t (m + 1) - shareLo t m

/-- First chunk of ring chunk `c` within the share of `m` chunks (R295). -/
def ringLo (t : Task) (m c : Nat) : Nat := c * m / ringG t
def ringLen (t : Task) (m c : Nat) : Nat := ringLo t m (c + 1) - ringLo t m c

/-- Formats of Table 10.3. -/
def redFmt (t : Task) (slot : Nat) (x : Tensor) : Bool :=
  let f := x.fmt
  let wire : Bool :=
    match raOpOf t with
    | 0 => f == 1
    | 1 => f == 3
    | 2 => f == 0x10 || f == 0x11
    | 3 => if maxFp32Of t then f == 1 else f == 0x23
    | _ => f == 0x23
  match slot with
  | 0 => wire
  | 1 => if raOpOf t < 2 then f == 1 else wire && (raOpOf t != 2 || (x.bdim == 0 && x.blen == 32))
  | 2 => if raOpOf t < 3 then decide (1 ≤ f ∧ f ≤ 5) || f == 0x10 || f == 0x11 else wire
  | 6 => f == 1
  | _ => f == 0x23 && x.count 0 == 1

/-- The group lists that dispatch reads (R295). -/
def withGroups (s : State) (t : Task) : Task :=
  let g := groupList s (fld (t.w 25) 7 0)
  let r := if t.op != 2 && fabricOf t == 2 then groupList s (fld (t.w 25) 15 8) else []
  { t with grp := g, ring := r }

/-- The tensors and groups of a REDUCE task (R293, R295, R297, R304). -/
def redTensors (s : State) (t : Task) : Option Fail :=
  let me := devNum s
  let flat (x : Tensor) : Bool := x.rank == 1 && (if x.packed then true else x.stride 0 == (x.size : Int))
  let shape := firstFail ((List.range 7).map (fun i =>
    if t.used i = false then none else
    let x := t.tensor i
    failIf (!flat x || (if t.op = 2 then false else !redFmt t i x || (i == 2 && x.scaled && !Num.isMx x.fmt && raOpOf t > 2))) (badDesc i)))
  let a := t.tensor 0
  let b := t.tensor 1
  if t.op = 2 then
    firstFail [shape, failIf (a.fmt != b.fmt || a.count 0 != b.count 0 || a.scaled != b.scaled || a.blen != b.blen ||
      a.bdim != b.bdim) (badDesc 1)]
  else
    let n := shareLen t (grpJ s t) * 2048
    firstFail [
      failIf (decide (8 < grpR t) || !onceIn t.grp me) (badDesc 0),
      failIf (fabricOf t == 2 && !onceIn t.ring me) (badDesc 0),
      shape,
      failIf (t.op == 1 && a.count 0 != elemsOf t) (badDesc 0),
      failIf (t.op == 1 && raOpOf t == 2 && b.fmt != a.fmt) (badDesc 1),
      failIf (b.count 0 != n) (badDesc 1),
      failIf (t.op == 1 && (t.tensor 2).count 0 != elemsOf t) (badDesc 2),
      failIf (raOpOf t == 2 && (t.tensor 6).count 0 != n) (badDesc 6),
      (match findBuck s t.job (bucketOf t) with
       | none => none
       | some k => failIf (t.op == 0 || k.op != raOpOf t || k.maxFp32 != maxFp32Of t) (badDesc 0))]

/-- Windows of the REDUCE slots (R293): slots 1, 4, 5 and 6 in the scratchpad. -/
def redWindow (slot a : Nat) : Bool := if slot = 1 ∨ slot = 4 ∨ slot = 5 ∨ slot = 6 then winOf a == .scr else true

/-- The local address of a slot's tensor. -/
def slotAddr (t : Task) (i : Nat) : Nat := localPart (t.base.getD i 0)

/-- The adders an ARM takes slots in for its bucket (R296). -/
def armAdders (s : State) (t : Task) : List Nat :=
  let x := t.tensor 1
  let spans := [(slotAddr t 1, x.elems * x.size), (slotAddr t 4, 8)] ++
    (if x.scaled then [(localPart x.sbase, x.scaleBytes)] else []) ++
    (if t.used 6 then [(slotAddr t 6, (t.tensor 6).elems * 4)] else [])
  ((spans.flatMap (fun p => linesOf p.1 p.2)).map (fun l => adderOf s (l * 256))).eraseDups

/-- An ARM's job has a slot free in every adder it needs (R290, R296). -/
def armReady (s : State) (t : Task) : Bool :=
  let a := armAdders s t
  let f := adderOf s (slotAddr t 5)
  let need (k : Nat) : Nat := (if a.contains k then 1 else 0) + (if k = f then 1 else 0)
  (f :: a).all (fun k => decide (slotsUsed s k t.job + need k ≤ slotRsv s t.job))

/-- What a REDUCE task waits for before dispatch: an ARM for slots, an ALLREDUCE for its armed bucket, all for room
among the parked (R296, R297, R305). -/
def redReady (s : State) (t : Task) : Bool :=
  decide ((s.tasks.filter (fun u => u.parked)).length < 1024) &&
  (match t.op with
   | 0 => armReady s t
   | 1 => (match findBuck s t.job (bucketOf t) with | some b => b.live | none => false)
   | _ => true)

/-- An ARM takes its slots at dispatch; they match packets from its commit point on (R296). -/
def armTake (t : Task) (s : State) : State :=
  let x := t.tensor 1
  let b : Buck := { job := t.job, bucket := bucketOf t, op := raOpOf t, maxFp32 := maxFp32Of t, lift := liftOf t, fmt := x.fmt,
                    base := slotAddr t 1, elems := x.elems, sbase := localPart x.sbase, pbase := slotAddr t 6, flag := slotAddr t 4 }
  let f : Buck := { b with bucket := flagBucket (bucketOf t), op := 4, base := slotAddr t 5, elems := 1, flag := slotAddr t 5 }
  let s1 := (armAdders s t).foldl (fun u a => armSlot a t.job (bucketOf t) u) s
  let s2 := armSlot (adderOf s (slotAddr t 5)) t.job (flagBucket (bucketOf t)) s1
  { s2 with lnk := { s2.lnk with bucks := s2.lnk.bucks ++ [b, f] } }

/-- The slots of a task's bucket disarmed, those of the flag phase too (R289). -/
def disarmTask (t : Task) (s : State) : State := disarm t.job (flagBucket (bucketOf t)) (disarm t.job (bucketOf t) s)

/-! ### Stages -/

/-- A stage of a REDUCE task: 0 contribute, 1 exchange chunks, 2 exchange the flag word, 3 ring step `arg`, 4 gather,
5 ring flag, 6 distribute, 7 flag, 8 MULTICAST, 9 ARM; and its granules. -/
structure Stage where
  kind : Nat
  arg : Nat
  n : Nat
  deriving DecidableEq, Repr

/-- Chunks of a tensor. -/
def tensorChunks (x : Tensor) : Nat := cdiv x.elems 2048

/-- The stages of a task in order (R296-R301, R304). -/
def stagesOf (s : State) (t : Task) : List Stage :=
  let r := grpR t
  let j := grpJ s t
  let m := shareLen t j
  match t.op with
  | 0 => [⟨9, 0, 1⟩]
  | 1 =>
    let g := ringG t
    let i := ringI s t
    let fab : List Stage :=
      match fabricOf t with
      | 1 => [⟨1, 0, m⟩, ⟨2, 0, 1⟩]
      | 2 => (List.range (g - 1)).map (fun k => ⟨3, k, ringLen t m ((i + g - k) % g)⟩) ++
             [⟨4, 0, ringLen t m ((i + 1) % g) * (g - 1)⟩, ⟨5, 0, g - 1⟩]
      | _ => []
    [⟨0, 0, chunksOf t + r⟩] ++ fab ++ [⟨6, 0, m * max 1 (r - 1)⟩, ⟨7, 0, r⟩]
  | _ => [⟨8, 0, max 1 (tensorChunks (t.tensor 0) * ((t.grp.filter (· ≠ devNum s)).length))⟩]

def redTotal (s : State) (t : Task) : Nat := ((stagesOf s t).map (·.n)).sum

/-- The granule at which a slice from `pos` ends (R305). -/
def redStop (s : State) (t : Task) (pos : Nat) : Nat :=
  if t.units = 0 then redTotal s t else min (redTotal s t) (pos + t.units)

/-- The stage in hand and the granules before it. -/
def stageNo (t : Task) : Nat := (t.acc.getD 0 0).toNat
def stageAt (s : State) (t : Task) : Stage := (stagesOf s t).getD (stageNo t) ⟨7, 0, 0⟩
def stageBase (s : State) (t : Task) : Nat := (((stagesOf s t).take (stageNo t)).map (·.n)).sum

/-! ### Wire data -/

/-- Elements of a chunk. -/
def chunkLen (x : Tensor) (c : Nat) : Nat := min 2048 (x.elems - 2048 * c)

/-- The bytes of chunk `c` of a contiguous tensor: data, then its scales (R209, R274). -/
def chunkSpans (x : Tensor) (c : Nat) : List (Nat × Nat) :=
  let a := localPart x.base
  let n := chunkLen x c
  (a + 2048 * c * x.width / 8, n * x.width / 8) ::
    (if x.blen = 32 then [(localPart x.sbase + 64 * c, cdiv n 32)]
     else if x.scaled && c == 0 then [(localPart x.sbase, 1)] else [])

/-- A span cut at aligned 4,096-byte blocks (R261). -/
def cut4k : Nat → Nat → Nat → List (Nat × Nat)
  | 0, _, _ => []
  | n + 1, a, len =>
    if len = 0 then [] else
    let k := min len (4096 - a % 4096)
    (a, k) :: cut4k n (a + k) (len - k)

/-- Wire elements cut into packets: for each its target address, its first element and its number of elements, so
that ADDR to ADDR + LEN − 1 lies in one aligned 4,096-byte block (R261); `wire` and `tgt` are bytes per element. -/
def cutRa (wire tgt : Nat) : Nat → Nat → Nat → Nat → List (Nat × Nat × Nat)
  | 0, _, _, _ => []
  | k + 1, a, i, n =>
    if n = 0 then [] else
    let m := min n (max 1 ((4096 - a % 4096) / wire))
    (a, i, m) :: cutRa wire tgt k (a + m * tgt) (i + m) (n - m)

/-- One RA packet ready to send: operation, code, promoted, target address, data. -/
structure RaPkt where
  op : Nat
  code : Nat
  prom : Bool
  addr : Nat
  data : List Byte
  deriving DecidableEq, Repr

/-- MARGIN captured at dispatch. -/
def marginOf (t : Task) : Nat := (t.cap.getD 0 0).toNat

/-- The packets of a chunk held as wire bytes `data` (and scales) of format `fmt`, to `addr` (R297). -/
def rawPkts (op code wire tgt : Nat) (addr n : Nat) (data scales : List Byte) : List RaPkt :=
  if op = 0xA then
    (cutRa 1 1 64 addr 0 n).map (fun p =>
      ⟨op, code, false, p.1, ((data.drop p.2.1).take p.2.2) ++ ((scales.drop (p.2.1 / 32)).take (p.2.2 / 32))⟩)
  else (cutRa wire tgt 64 addr 0 n).map (fun p => ⟨op, code, false, p.1, (data.drop (wire * p.2.1)).take (wire * p.2.2)⟩)

/-- The packets of a chunk sent promoted: FP32 values, at most 1,024 to a packet (R288), the elements of each within one
aligned 4,096-byte block (R261). -/
def promPkts (addr : Nat) (vs : List F32) : List RaPkt :=
  (cutRa 1 1 64 addr 0 vs.length).flatMap (fun p =>
    (List.range (cdiv p.2.2 1024)).map (fun i =>
      ⟨8, 0, true, p.1 + 1024 * i,
       (((vs.drop p.2.1).take p.2.2).drop (1024 * i)).take 1024 |>.flatMap (fun v => toLe 4 v.toNat)⟩))

/-- Values of a stored MX chunk as FP32: decoded, or from the promotion area where the block is promoted (R287). -/
def stagedVal (s : State) (b : Buck) (e : Nat) : Num.Val :=
  if b.op = 2 then
    let sc := (memGet s.mem (b.sbase + e / 32)).toNat
    if sc = 255 then Num.d32 (BitVec.ofNat 32 (leNat (memBytes s.mem (b.pbase + 4 * e) 4)))
    else Num.mul (Num.decode (if b.fmt = 0x11 then Num.e5m2 else Num.e4m3) (memGet s.mem (b.base + e)).toNat) (Num.scaleVal sc)
  else Num.d32 (BitVec.ofNat 32 (leNat (memBytes s.mem (b.base + 4 * e) 4)))

/-- The RA operation and code of the contribute phase. -/
def ownOp (t : Task) : Nat × Nat :=
  match raOpOf t with
  | 2 => (0xA, b2n ((t.tensor 1).fmt == 0x11) + 2 * marginOf t)
  | 3 => (0xB, b2n (maxFp32Of t))
  | n => (n + 8, 0)

/-- The packets of chunk `c` of slot 0 toward target address `addr` (R288, R297). -/
def contribPkts (t : Task) (s : State) (c addr : Nat) : List RaPkt :=
  let x := t.tensor 0
  let oc := ownOp t
  let sp := chunkSpans x c
  let rd (p : Nat × Nat) : List Byte := memBytes s.mem p.1 p.2
  let data := rd (sp.headD (0, 0))
  let scales := (sp.drop 1).flatMap rd
  if s.lnk.promoted.contains (t.job, bucketOf t) ∧ raOpOf t = 2 then
    promPkts addr ((raVals 0xA oc.2 (data ++ scales)).map Num.r32)
  else rawPkts oc.1 oc.2 (wireSize oc.1 oc.2) ((t.tensor 1).size) addr 2048 data scales

/-- The staged bytes of chunk `c`: its elements and scales; promoted blocks are read in the promotion area. -/
def stagedSpans (b : Buck) (c : Nat) : List (Nat × Nat) :=
  (b.base + 2048 * c * b.size, 2048 * b.size) :: (if b.op = 2 then [(b.sbase + 64 * c, 64)] else [])

/-- The packets of chunk `c` of the staged share, in the form of the fabric and ring phases (R288, R297). -/
def stagedPkts (t : Task) (s : State) (b : Buck) (c : Nat) : List RaPkt :=
  let e := 2048 * c
  let data := memBytes s.mem (b.base + e * b.size) (2048 * b.size)
  match raOpOf t with
  | 2 =>
    let scales := memBytes s.mem (b.sbase + 64 * c) 64
    if scales.any (· = 0xFF) ∨ s.lnk.promoted.contains (t.job, bucketOf t) = true then
      promPkts (b.base + e) ((List.range 2048).map (fun i => Num.r32 (stagedVal s b (e + i))))
    else rawPkts 0xA (ownOp t).2 1 1 (b.base + e) 2048 data scales
  | 3 => rawPkts 0xB (ownOp t).2 b.size b.size (b.base + e * b.size) 2048 data []
  | 4 => rawPkts 0xC 0 8 8 (b.base + e * 8) 2048 data []
  | _ => rawPkts 8 0 4 4 (b.base + e * 4) 2048 data []

/-! ### Issuing -/

/-- An RA packet sent to a device as a contribution of the task. -/
def sendRa (t : Task) (dev bucket : Nat) (p : RaPkt) (s : State) : State :=
  let k := mkPacket dev 0 (devNum s) p.op 0 false p.prom false t.job bucket 0 p.addr p.code p.data
  issue dev k t.id .contribute 0 0 (addWaits t.id 1 s)

/-- An RA packet performed by the device's own adders. -/
def ownRa (t : Task) (bucket : Nat) (p : RaPkt) (s : State) : State :=
  match findBuck s t.job bucket with
  | some b => perform b p.op p.code p.addr p.data s
  | none => s

/-- Packets to one member: the device itself through its own adders. -/
def toMember (t : Task) (dev bucket : Nat) (ps : List RaPkt) (s : State) : State :=
  ps.foldl (fun u p => if dev = devNum u then ownRa t bucket p u else sendRa t dev bucket p u) s

/-- A flag word sent by RA_AND. -/
def flagPkt (addr : Nat) (w : Nat) : RaPkt := ⟨0xC, 0, false, addr, toLe 8 w⟩

/-- A HOP request to a switch plane (R298); without an ACTIVE FABRIC port there, or a valid device number (R19), the task ends
with ENGINE_FAULT. -/
def sendHop (t : Task) (plane first : Nat) (p : RaPkt) (s : State) : State :=
  let port := 7 + plane
  if portRole s port ≠ 2 ∨ portActive s port = false ∨ devValid s = false then
    failOwner t.id { status := 9 } (linkFault port (devNum s) t.job 5 s)
  else
    let k := mkPacket (devNum s) 0 (devNum s) p.op 0 false p.prom true t.job (bucketOf t) 0 p.addr p.code p.data
    let y := newTrack { ord := 0, dev := devNum s, k := k, owner := t.id, kind := .exchange, first := first } (addWaits t.id 1 s)
    match getTrack y.2 y.1 with
    | some x => sendTrack y.1 x port y.2
    | none => y.2

/-- The `k`-th set bit of PLANES, counted modulo their number (R298). -/
def planeOf (t : Task) (k : Nat) : Nat :=
  let ps := (List.range 8).filter (fun i => (planesOf t).testBit i)
  ps.getD (k % ps.length) 0

/-- The devices of a stage's multicast (R274, R297, R301, R304). -/
def castDevs (s : State) (t : Task) (kind : Nat) : List Nat :=
  (if kind = 4 then t.ring else t.grp).filter (· ≠ devNum s)

/-- The multicast group of a stage. -/
def castGroup (t : Task) (kind : Nat) : Nat := if kind = 4 then fld (t.w 25) 15 8 else fld (t.w 25) 7 0

/-- The bytes chunk `c` of a stage's stream takes at its source and at its destination (R274). -/
def castSpans (s : State) (t : Task) (kind c : Nat) : List ((Nat × Nat) × Nat) :=
  let j := grpJ s t
  let m := shareLen t j
  match kind with
  | 6 => (chunkSpans (t.tensor 2) (shareLo t j + c)).map (fun p => (p, p.1))
  | 4 =>
    let q := ringLo t m ((ringI s t + 1) % ringG t) + c
    let own := chunkSpans (t.tensor 1) q
    let prom := if t.used 6 then [(slotAddr t 6 + 8192 * q, 8192)] else []
    (own ++ prom).map (fun p => (p, p.1))
  | _ => (chunkSpans (t.tensor 0) c).zip ((chunkSpans (t.tensor 1) c).map (·.1))

/-- One packet of a stream: destination and source address, and length. -/
structure CastPkt where
  dst : Nat
  src : Nat
  len : Nat
  deriving DecidableEq, Repr

/-- The packets of chunk `c` of a stage's stream. -/
def castPkts (s : State) (t : Task) (kind c : Nat) : List CastPkt :=
  (castSpans s t kind c).flatMap (fun x =>
    (cut4k (x.1.2 / 4096 + 2) x.2 x.1.2).map (fun y => ⟨y.1, x.1.1 + (y.1 - x.2), y.2⟩))

/-- A packet of a stream sent to member `r`: MCAST_WRITE, or WRITE for catch-up (R274, R275). -/
def castTo (t : Task) (kind r op : Nat) (p : CastPkt) (s : State) : State :=
  match t.members[r]? with
  | none => s
  | some m =>
    let k := mkPacket m.dev 0 (devNum s) op 0 false false false t.job (if op = 0x10 then castGroup t kind else 0) 0 p.dst 0
      (memBytes s.mem p.src p.len)
    let s1 : State := { s with tasks := s.tasks.map (fun x => if x.id = t.id then
      { x with waits := x.waits + 1, members := x.members.modify r (fun y => { y with out := y.out + p.len }) } else x) }
    issue m.dev k t.id .mcast r p.len s1

/-- The task as the state now holds it. -/
def current (t : Task) (s : State) : Task := (findTask s t.id).getD t

/-- The window of R275. -/
def castWindow : Nat := 4194304

/-- Chunks of a stage's stream. -/
def castChunks (s : State) (t : Task) (kind : Nat) : Nat :=
  let m := shareLen t (grpJ s t)
  match kind with
  | 6 => m
  | 4 => ringLen t m ((ringI s t + 1) % ringG t)
  | _ => tensorChunks (t.tensor 0)

/-- Chunks of the stage's stream that are there to be sent: in a distribute stage those converted so far (R297). -/
def castMade (s : State) (t : Task) (kind : Nat) : Nat :=
  if kind = 6 then min (castChunks s t kind) (cdiv (t.pos - stageBase s t) t.members.length) else castChunks s t kind

/-- The stream has room in the window of member `r` for `n` more bytes (R275). -/
def castRoom (t : Task) (r n : Nat) : Bool := decide ((t.members.getD r { dev := 0 }).out + n ≤ castWindow)

/-- Another attached member's window has room for them. -/
def otherRoom (t : Task) (r n : Nat) : Bool :=
  ((List.range t.members.length).zip t.members).any (fun z =>
    z.1 != r && z.2.detached.isNone && decide (z.2.out + n ≤ castWindow))

/-- A member with no room is detached (R275). -/
def mayDetach (s : State) (t : Task) (r n : Nat) : Bool := regBit s cx3 0x200 0 && otherRoom t r n

/-- A detached member's catch-up goes on within its window (R275). -/
def catchUp : Nat → Nat → Nat → State → State
  | 0, _, _, s => s
  | n + 1, id, r, s =>
    match findTask s id with
    | none => s
    | some t =>
      let kind := (stageAt s t).kind
      match (t.members.getD r { dev := 0 }).detached with
      | none => s
      | some (c, i) =>
        if castMade s t kind ≤ c ∨ t.status ≠ 0 ∨ t.nacked.isSome = true then s else
        match (castPkts s t kind c)[i]? with
        | none =>
          catchUp n id r (putTask { t with members := t.members.modify r (fun y => { y with detached := some (c + 1, 0) }) } s)
        | some p =>
          if castRoom t r p.len = false ∨ trackRoom s 2 = false then s else
          match needSpans s true [(p.src, p.len)] with
          | .wait => s
          | .fault a => failOwner id (addrFault (slotAt t 0 a) a) s
          | .poison a => failOwner id { status := 9, slot := slotAt t 0 a } (poisonRead (clsOf t.eng) a t.job 9 s)
          | .ok =>
            let t1 := { t with members := t.members.modify r (fun y => { y with detached := some (c, i + 1) }) }
            let s1 := forJob t.job (touchReads (clsOf t.eng) [(p.src, p.len)]) (putTask t1 s)
            catchUp n id r (bump cx3 0 1 p.len (castTo t1 kind r 3 p s1))

/-- The member is detached at packet `i` of chunk `c`, and counted (R275, Table 9.13). -/
def detach (t : Task) (kind c r i : Nat) (s : State) : Task × State :=
  let g := castGroup t kind
  ({ t with members := t.members.modify r (fun y => { y with detached := some (c, i), part := 0 }), detail := setBit t.detail 3 true },
   bump cx3 0 0 1 { s with lnk := { s.lnk with lastDetached := mput s.lnk.lastDetached g (mget s.lnk.lastDetached g 0 + 1) } })

/-- The packets of chunk `c` to member `r` from packet `i` on, one after the other (R275): a member without room is detached,
or the task is parked until the wait is over (R305). -/
def castEach (kind c r : Nat) : List CastPkt → Nat → Task → State → StepRes
  | [], _, t, s => .go { t with pos := t.pos + 1, members := t.members.modify r (fun y => { y with part := 0 }) } s
  | p :: ps, i, t, s =>
    if castRoom t r p.len = false then
      if mayDetach s t r p.len then
        let x := detach t kind c r i s
        let t1 := { x.1 with pos := x.1.pos + 1 }
        let s1 := catchUp 2048 t.id r (putTask t1 x.2)
        .go (current t1 s1) s1
      else .go { t with parked := true } s
    else if trackRoom s 2 = false then .wait
    else
      readSpans t [(p.src, p.len)] s (fun s0 =>
        let t1 := { t with members := t.members.modify r (fun y => { y with part := i + 1 }) }
        let s1 := castTo t1 kind r 0x10 p (putTask t1 s0)
        let t2 := current t1 s1
        if t2.status = 0 then castEach kind c r ps (i + 1) t2 s1
        else .fail { status := t2.status, slot := t2.slot, detail := t2.fault.toNat } s1)

/-- One granule of a multicast stage: chunk `c` to member `r`; a detached member's catch-up goes on instead (R275). -/
def castStep (t : Task) (s : State) (kind c r : Nat) : StepRes :=
  let m := t.members.getD r { dev := 0 }
  if m.detached.isSome then
    let t1 := { t with pos := t.pos + 1 }
    let s1 := catchUp 2048 t.id r (putTask t1 s)
    .go (current t1 s1) s1
  else castEach kind c r ((castPkts s t kind c).drop m.part) m.part t s

/-- The granule would find no room at its first packet, and none to detach its member for (R275). -/
def castFull (t : Task) (s : State) (kind c r : Nat) : Bool :=
  let m := t.members.getD r { dev := 0 }
  match (castPkts s t kind c)[m.part]? with
  | none => false
  | some p => m.detached.isNone && !castRoom t r p.len && !mayDetach s t r p.len

/-- An acknowledgement of a multicast packet (R275); a catch-up goes on while its task does (R303). -/
def mcastAcked (id r bytes : Nat) (s : State) : State :=
  let s1 : State := { s with tasks := s.tasks.map (fun x => if x.id = id then
    { x with waits := x.waits - 1, members := x.members.modify r (fun y => { y with out := y.out - bytes }) } else x) }
  catchUp 2048 id r s1

/-- Every member of the stage's multicast has acknowledged every byte. -/
def castDone (s : State) (t : Task) (kind : Nat) : Bool :=
  t.members.all (fun m => m.out == 0 && (match m.detached with | some c => decide (castChunks s t kind ≤ c.1) | none => true))

/-- The members of the stage in hand, attached and with nothing outstanding. -/
def enterStage (s : State) (t : Task) : Task :=
  let k := (stageAt s t).kind
  if k = 4 ∨ k = 6 ∨ k = 8 then { t with members := (castDevs s t k).map (fun d => { dev := d }) } else { t with members := [] }

/-- A use of the stage's multicast group begins: none of its members is detached in it yet (Table 9.13). -/
def beginCast (t : Task) (s : State) : State :=
  let k := (stageAt s t).kind
  if k = 4 ∨ k = 6 ∨ k = 8 then { s with lnk := { s.lnk with lastDetached := mdel s.lnk.lastDetached (castGroup t k) } } else s

/-! ### Granules -/

/-- The member and the chunk of slot 0 of granule `i` of the contribute phase: shares of the others in order, then the
device's own, then the flag words (R297). -/
def contribItem (s : State) (t : Task) (i : Nat) : Option (Nat × Nat) :=
  let j := grpJ s t
  let order := (List.range (grpR t)).filter (· ≠ j) ++ [j]
  let all := order.flatMap (fun m => (List.range (shareLen t m)).map (fun c => (m, shareLo t m + c)))
  all[i]?

/-- Share j of slot 1 (and slot 6) converted into share j of slot 2, chunk `c` (R297); MAX and AND are copied. -/
def convertChunk (t : Task) (s : State) (b : Buck) (c : Nat) : Buf :=
  let y := t.tensor 2
  let e0 := 2048 * c
  let o := 2048 * (shareLo t (grpJ s t) + c)
  let inf := bit (t.w 24) 6
  if 3 ≤ raOpOf t then
    let bs := memBytes s.mem (b.base + e0 * b.size) (2048 * b.size)
    ((List.range bs.length).zip bs).foldl (fun m z => mput m (localPart y.base + o * b.size + z.1) z.2) []
  else
    let vs := (List.range 2048).map (fun i => stagedVal s b (e0 + i))
    if Num.isMx y.fmt then
      let blocks := Num.groups32 vs
      (((List.range blocks.length).zip blocks).foldl (fun m z =>
        let r := Num.mxBlockRne y.fmt inf z.2
        let i0 := o + 32 * z.1
        let m1 := ((List.range z.2.length).zip r.2.1).foldl (fun q w => y.put s (some t) [i0 + w.1] w.2 q) m
        mput m1 (y.scaleAddr [i0]) (BitVec.ofNat 8 r.1)) [])
    else
      ((List.range vs.length).zip vs).foldl (fun m z =>
        y.put s (some t) [o + z.1] (outCode false inf y.fmt (if y.scaled then Num.divScale z.2 (y.scale s (some t) []) else z.2)) m) []

/-- The identity that arming writes (Table 10.2), as bytes of the staging and of its scales. -/
def identity (b : Buck) : List Byte :=
  match b.op with
  | 3 => if b.maxFp32 then (List.replicate b.elems (toLe 4 0xFF800000)).flatten else List.replicate (8 * b.elems) 0
  | 4 => List.replicate (8 * b.elems) 0xFF
  | _ => List.replicate (b.elems * b.size) 0

/-- ARM's work (R296). -/
def armStep (t : Task) (s : State) : StepRes :=
  match findBuck s t.job (bucketOf t) with
  | none => .fail (badDesc 0) s
  | some b =>
    let x := t.tensor 1
    let sc := if x.scaled then [(b.sbase, List.replicate x.scaleBytes 0)] else []
    let ws := [(b.base, identity b)] ++ sc ++ [(slotAddr t 4, toLe 8 (2 ^ 64 - 1)), (slotAddr t 5, toLe 8 (2 ^ 64 - 1))]
    match needLines s false (ws.flatMap (fun w => linesOf w.1 w.2.length)) with
    | .wait => .wait
    | .fault a => .fail (addrFault 0 (lowestFault s (ws.map (fun w => (w.1, w.2.length))) a)) s
    | _ => .go { t with pos := 1 } (ws.foldl (fun u w => wrBytes (clsOf t.eng) w.1 w.2 u) s)

/-- A granule that sends the packets `ps`: its reads are checked before it (R226), and there are tracking entries for all of
them (R262). -/
def withReads (t : Task) (spans : List (Nat × Nat)) (ps : State → List RaPkt) (s : State) (k : State → State) : StepRes :=
  if trackRoom s (ps s).length = false then .wait else
  readSpans t spans s (fun s1 =>
    let t1 := { t with pos := t.pos + 1 }
    let s2 := k (putTask t1 s1)
    let t2 := current t1 s2
    if t2.status = 0 then .go t2 s2 else .fail { status := t2.status, slot := t2.slot, detail := t2.fault.toNat } s2)

/-- The word of slot 4. -/
def flagWord (t : Task) (s : State) : Nat := leNat (memBytes s.mem (slotAddr t 4) 8)

/-- Slot 4 is about to be sent: the Strainer clears its bit 2 for a job whose tile mismatch it holds against, and the mismatch is not
LATE (R346). -/
def flagOut (t : Task) (s : State) : State :=
  if s.rel.discards.contains t.job then
    releaseLate t.job false (forJob t.job (wrBytes 15 (slotAddr t 4) (toLe 8 (flagWord t s - flagWord t s / 4 % 2 * 4))) s)
  else s

/-- Slot 3 names another device. -/
def finiteFar (s : State) (t : Task) : Bool := t.used 3 && !isLocal s (t.base.getD 3 0)

/-- The word of slot 3 on another device is requested, and the task waits parked for it (R37, R305). -/
def fetchFinite (t : Task) (s : State) : StepRes :=
  if trackRoom s 2 = false then .wait else
  let dev := t.base.getD 3 0 / 2 ^ 50
  let k := mkPacket dev 0 (devNum s) 1 0 false false false t.job 0 0 (slotAddr t 3 / 256 * 256) 1 []
  let s1 := issue dev k t.id .finite 0 0 (putTask { t with waits := t.waits + 1 } s)
  let t1 := current t s1
  if t1.status = 0 then .go { t1 with parked := true } s1
  else .fail { status := t1.status, slot := t1.slot, detail := t1.fault.toNat } s1

/-- The word of slot 3 has arrived. -/
def finiteArrived (x : Track) (data : List Byte) (s : State) : State :=
  match findTask s x.owner with
  | none => s
  | some t =>
    let w := word (leNat ((data.drop (slotAddr t 3 % 256)).take 8))
    putTask { t with waits := t.waits - 1, cap := t.cap.take 1 ++ [w] } s

/-- The word of slot 3 that the device contributes: all ones with the slot unused (R297). -/
def finiteWord (t : Task) (s : State) : Nat :=
  if t.used 3 = false then 2 ^ 64 - 1
  else if finiteFar s t then (t.cap.getD 1 0).toNat else leNat (memBytes s.mem (slotAddr t 3) 8)

/-- One granule of an ALLREDUCE (R297-R301). -/
def allGranule (t : Task) (s : State) : StepRes :=
  let st := stageAt s t
  let i := t.pos - stageBase s t
  let bk := bucketOf t
  let one (_ : State) : List RaPkt := [flagPkt 0 0]
  let tsz := (t.tensor 1).size
  match findBuck s t.job bk with
  | none => .fail { status := 9 } s
  | some b =>
    match st.kind with
    | 0 =>
      match contribItem s t i with
      | some (m, c) =>
        let addr := slotAddr t 1 + 2048 * (c - shareLo t m) * tsz
        let ps (u : State) : List RaPkt := contribPkts t u c addr
        withReads t (chunkSpans (t.tensor 0) c) ps s (fun u => toMember t (t.grp.getD m 0) bk (ps u) u)
      | none =>
        let m := i - chunksOf t
        if finiteFar s t = true ∧ t.cap.length < 2 then fetchFinite t s else
        let rd := if t.used 3 && !finiteFar s t then [(slotAddr t 3, 8)] else []
        let ps (u : State) : List RaPkt := [flagPkt (slotAddr t 4) (finiteWord t u)]
        withReads t rd ps s (fun u => toMember t (t.grp.getD m 0) bk (ps u) u)
    | 1 =>
      let ps (u : State) : List RaPkt := stagedPkts t u b i
      withReads t (stagedSpans b i) ps s (fun u => (ps u).foldl (fun v p => sendHop t (planeOf t i) i p v) u)
    | 2 => withReads t [(slotAddr t 4, 8)] one s (fun u =>
        let v := flagOut t u
        sendHop t (planeOf t 0) 0 (flagPkt (slotAddr t 4) (flagWord t v)) v)
    | 3 =>
      let g := ringG t
      let m := shareLen t (grpJ s t)
      let c := ringLo t m ((ringI s t + g - st.arg) % g) + i
      let d := t.ring.getD ((ringI s t + 1) % g) 0
      let ps (u : State) : List RaPkt := stagedPkts t u b c
      withReads t (stagedSpans b c) ps s (fun u => (ps u).foldl (fun v p => sendRa t d bk p v) u)
    | 4 =>
      let n := t.members.length
      castStep t s 4 (i / n) (i % n)
    | 5 =>
      let d := (t.ring.filter (· ≠ devNum s)).getD i 0
      withReads t [(slotAddr t 4, 8)] one s (fun u =>
        let v := flagOut t u
        sendRa t d bk (flagPkt (slotAddr t 4) (flagWord t v)) v)
    | 6 =>
      let n := max 1 (grpR t - 1)
      let c := i / n
      let r := i % n
      let conv (k : State → StepRes) : StepRes :=
        if r = 0 ∧ (t.members.getD 0 { dev := 0 }).part = 0 then
          readSpans t (stagedSpans b c) s (fun u => writeBuf t (convertChunk t u b c) u k)
        else k s
      if castFull t s 6 c r then .go { t with parked := true } s
      else conv (fun u => if grpR t ≤ 1 then .go { t with pos := t.pos + 1 } u else castStep t u 6 c r)
    | _ =>
      withReads t [(slotAddr t 4, 8)] one s (fun u =>
        let v := flagOut t u
        toMember t (t.grp.getD i 0) (flagBucket bk) [flagPkt (slotAddr t 5) (flagWord t v)] v)

/-- A granule of a REDUCE task; the last of a stage parks it (R305). -/
def redStep (t : Task) (s : State) : StepRes :=
  match t.op with
  | 0 => armStep t s
  | _ =>
    let st := stageAt s t
    let n := t.members.length
    let i := t.pos - stageBase s t
    let r := if t.op = 1 then allGranule t s
      else if n = 0 then .go { t with pos := t.pos + 1 } s else castStep t s 8 (i / n) (i % n)
    match r with
    | .go t1 s1 => if stageBase s t + st.n ≤ t1.pos then .go { t1 with parked := true } s1 else .go t1 s1
    | x => x

/-- A slice of one REDUCE operation. -/
def redSlice (op id k cycles : Nat) (s : State) : State :=
  runSlice id k cycles (fun t => t.cls == 6 && t.op == op) (redTotal s) (fun _ => false) redStep s

/-- ARM (R296). -/
def execRedArm (task k cycles : Nat) (s : State) : Res := .next (redSlice 0 task k cycles s)
/-- ALLREDUCE (R297). -/
def execAllreduce (task k cycles : Nat) (s : State) : Res := .next (redSlice 1 task k cycles s)
/-- MULTICAST (R304). -/
def execMulticast (task k cycles : Nat) (s : State) : Res := .next (redSlice 2 task k cycles s)

/-! ### Waits (R297-R302, R305) -/

/-- Requests of a kind that the task has outstanding. -/
def outstanding (s : State) (id : Nat) (k : ReqKind) : Bool := s.lnk.track.any (fun x => x.2.owner == id && x.2.kind == k)

/-- Chunks `[lo, lo + n)` of the staging hold `r` contributions per element. -/
def chunksHold (b : Buck) (lo n r : Nat) : Bool := (List.range n).all (fun i => decide (2048 * r ≤ mget b.chunks (lo + i) 0))

/-- The wait at the end of the stage in hand is over. -/
def stageOver (s : State) (t : Task) : Bool :=
  let st := stageAt s t
  let r := grpR t
  let m := shareLen t (grpJ s t)
  match findBuck s t.job (bucketOf t) with
  | none => st.kind == 8 && castDone s t 8 && t.waits == 0
  | some b =>
    match st.kind with
    | 0 => chunksHold b 0 m r && decide (r ≤ b.flags)
    | 1 | 2 => !outstanding s t.id .exchange
    | 3 =>
      let g := ringG t
      let c := (ringI s t + g - 1 - st.arg) % g
      !outstanding s t.id .contribute && chunksHold b (ringLo t m c) (ringLen t m c) (r + 1)
    | 4 => castDone s t 4
    | 5 => decide (r + ringG t - 1 ≤ b.flags)
    | 6 => castDone s t 6
    | 7 => (match findBuck s t.job (flagBucket (bucketOf t)) with | some f => decide (r ≤ f.flags) | none => false) && t.waits == 0
    | _ => castDone s t 8 && t.waits == 0

/-! ### The Strainer's check (R307, R308) -/

def stnPage : Nat := pageOf .stn 0 0

/-- A saturating count in a register. -/
def countReg (page off : Nat) (s : State) : State := setReg page off (word (satAdd 64 (getReg s page off).toNat 1)) s

/-- An ALLREDUCE is dispatched: one in every 2^RATE_LOG2 is sampled (R307). -/
def redSample (t : Task) (s : State) : State :=
  let cfg := getReg s stnPage 0x300
  if t.cls ≠ 6 ∨ t.op ≠ 1 ∨ bit cfg 8 = false ∨ takesWork s stnPage = false then s else
  let n := s.lnk.redCount + 1
  if n < 2 ^ fld cfg 3 0 then { s with lnk := { s.lnk with redCount := n } } else
  let s1 : State := { s with lnk := { s.lnk with redCount := 0, redSamples := s.lnk.redSamples + 1 } }
  if s.lnk.check.isSome then countReg stnPage 0x318 s1 else
  let m := shareLen t (grpJ s t)
  let g := ringG t
  let rc := (ringI s t + 1) % g
  let c := if fabricOf t = 2 then ringLo t m rc + s.lnk.redSamples % (ringLen t m rc) else s.lnk.redSamples % m
  if (if fabricOf t = 2 then ringLen t m rc else m) = 0 then s1 else
  { s1 with lnk := { s1.lnk with check := some ⟨t.id, t.job, bucketOf t, c⟩ } }

/-- TOL times the bound of Table 10.6 is exceeded by an element (R308): for 64-bit MAX and AND the bound is 0. -/
def beyond (s : State) (b : Buck) (tol : Num.Val) (e : Nat) : Bool :=
  if b.op = 3 ∨ b.op = 4 then
    leNat (memBytes s.mem (b.base + 8 * e) 8) != mget b.words e (if b.op = 3 then 0 else 2 ^ 64 - 1)
  else
  let o := mget b.sums e (Num.ofNat 0, Num.ofNat 0, 0)
  let v := stagedVal s b e
  let sc := (memGet s.mem (b.sbase + e / 32)).toNat
  let n := o.2.2
  let fp := Num.add (Num.mul (Num.mul (Num.ofNat (n - 1)) (Num.pow2 (-24))) o.2.1) (Num.mul (Num.ofNat (n - 1)) (Num.pow2 (-150)))
  let bound :=
    if b.op = 2 ∧ sc ≠ 255 then
      Num.add (Num.mul (Num.mul (Num.ofNat n) (Num.pow2 (-24))) o.2.1)
        (Num.mul (Num.ofNat (n * (if b.fmt = 0x11 then 4096 else 16))) (Num.pow2 ((sc : Int) - 127)))
    else fp
  Num.lt (Num.mul tol bound) (Num.sub v o.1).abs

/-- The sampled chunk is compared (R307): a mismatch is signalled, captured and, with DISCARD, clears bit 1 of slot 4. -/
def redCompare (t : Task) (s : State) : Task × State :=
  match s.lnk.check with
  | none => (t, s)
  | some ck =>
    if ck.task ≠ t.id then (t, s) else
    let s0 : State := countReg stnPage 0x310 { s with lnk := { s.lnk with check := none } }
    match findBuck s t.job (bucketOf t) with
    | none => (t, s0)
    | some b =>
      let es := (List.range 2048).map (fun i => 2048 * ck.chunk + i)
      let fin := decide (b.op = 3 ∨ b.op = 4) ||
        es.all (fun e => (stagedVal s b e).isFinite && (mget b.sums e (Num.ofNat 0, Num.ofNat 0, 0)).1.isFinite)
      let tol := Num.decode Num.fp32 (regFld s stnPage 0x308 31 0)
      if (b.op = 3 ∧ b.maxFp32 = true) ∨ fin = false ∨ es.any (beyond s b tol) = false then (t, s0) else
      let slot := (slotOfJob s t.job).getD 0
      let s1 := countReg stnPage 0x320 s0
      let s2 := if regBit s1 stnPage 0x328 25 then s1 else
        setReg stnPage 0x328 (word (b.bucket + slot * 2 ^ 20 + 2 ^ 25 + ck.chunk % 2048 * 2 ^ 26)) s1
      let e : ErrEvent := { mkEv stnPage 2 7 with locus := b.bucket, detail := ck.chunk, job := t.job }
      let s3 := intSet stnPage 24 (raiseEv stnPage 24 0 e s2)
      let w := leNat (memBytes s3.mem b.flag 8)
      let s4 := if regBit s stnPage 0x300 9 then forJob t.job (wrBytes 15 b.flag (toLe 8 (w - w / 2 % 2 * 2))) s3 else s3
      ({ t with detail := setBit t.detail 2 true }, s4)

/-- The comparison due when a stage is over: after the domain phase, or in ring mode before the gather. -/
def compareAt (s : State) (t : Task) : Bool :=
  let next := (stagesOf s t).getD (stageNo t + 1) ⟨7, 0, 0⟩
  if fabricOf t = 2 then next.kind == 4 else (stageAt s t).kind == 0

/-- The task is parked within a stage: its next granule has not gone (R305). -/
def midStage (s : State) (t : Task) : Bool := decide (t.pos < stageBase s t + (stageAt s t).n)

/-- The wait of a task parked within a multicast stage goes on: its next packet still finds no room (R275). -/
def stillFull (s : State) (t : Task) : Bool :=
  let st := stageAt s t
  let n := t.members.length
  let i := t.pos - stageBase s t
  castFull t s st.kind (i / n) (i % n)

/-- A task whose waits are over goes to its next stage that has granules, or has finished them all; `true` then. -/
def advanceStage : Nat → Task → State → Task × State × Bool
  | 0, t, s => (t, s, false)
  | n + 1, t, s =>
    if stageOver s t = false then (t, s, false) else
    let x := if compareAt s t then redCompare t s else (t, s)
    if (stagesOf s t).length ≤ stageNo t + 1 then (x.1, x.2, true) else
    let t1 := { x.1 with acc := [word (stageNo t + 1)] }
    let t2 := enterStage x.2 t1
    let s2 := beginCast t2 x.2
    if (stageAt s2 t2).n = 0 then advanceStage n t2 s2 else ({ t2 with parked := false }, s2, false)

/-- TASK_UNPARK (R305): a parked task whose wait is over completes, or becomes a candidate of its lane again: its running or
further task where that place is free. -/
def unpark (id : Nat) (s : State) : State :=
  match findTask s id with
  | none => s
  | some t =>
    if t.parked = false ∨ t.phase ≠ .dispatched ∨ t.status ≠ 0 ∨ t.nacked.isSome = true ∨ running s = false then s
    else if midStage s t = true ∧ (stillFull s t = true ∨ outstanding s id .finite = true) then s
    else
      let r := if midStage s t then ({ t with parked := false }, s, false) else advanceStage 600 t s
      if r.2.2 then finish { r.1 with parked := false } { status := 1 } (putTask r.1 r.2.1)
      else if r.1.parked then putTask r.1 r.2.1
      else
        let g1 := getEng r.2.1 t.eng
        let s1 := putTask r.1 r.2.1
        if g1.running.isNone then setEng t.eng { g1 with running := some id } s1
        else if g1.further.isNone then setEng t.eng { g1 with further := some id } s1 else s1

/-- TASK_UNPARK (R305). -/
def execTaskUnpark (task : Nat) (s : State) : Res := .next (unpark task s)

/-- Data of an exchange that has returned is written over the chunk or the flag word (R298). -/
def exchanged (x : Track) (k : Packet) (data : List Byte) (s : State) : State :=
  match findTask s x.owner with
  | none => s
  | some t =>
    if t.phase ≠ .dispatched ∨ t.status ≠ 0 then s else
    let d1 := if k.rescaled then setBit t.detail 0 true else t.detail
    let d2 := if k.promoted then setBit d1 1 true else d1
    let s1 := putTask { t with waits := t.waits - 1, detail := d2 } s
    match findBuck s1 t.job (bucketOf t) with
    | none => s1
    | some b =>
      let a := x.k.addr
      if b.op ≠ 2 ∨ a = b.flag then forJob t.job (wrBytes 15 a data) s1
      else
        let e := a - b.base
        if k.promoted then
          let n := data.length / 4
          forJob t.job (wrBytes 15 (b.sbase + e / 32) (List.replicate (n / 32) 0xFF) ∘ wrBytes 15 (b.pbase + 4 * e) data) s1
        else
          let n := data.length / 33 * 32
          forJob t.job (wrBytes 15 (b.sbase + e / 32) (data.drop n) ∘ wrBytes 15 a (data.take n)) s1

/-- A contribution has been acknowledged; a PROMOTED acknowledgement changes the form of later packets (R288). -/
def redAcked (x : Track) (k : Packet) (s : State) : State :=
  let key := (x.k.job, x.k.bucket)
  let s1 : State := { s with tasks := s.tasks.map (fun t => if t.id = x.owner then { t with waits := t.waits - 1 } else t) }
  if k.promoted ∧ s1.lnk.promoted.contains key = false then
    { s1 with lnk := { s1.lnk with promoted := s1.lnk.promoted ++ [key] } }
  else s1

/-- RED_FAIL_FIRST_READ (R312). -/
def execRedFailFirstRead (who : Initiator) (s : State) : Res := .next (readClear who stnPage 0x328 s)

end Sys2Proof.Machine
end

