-- ==== Sys2Proof/Machine/LinkRx.lean ====
section
/-! DEFINITION. Packets that arrive (R259-R268, R273, R276, R285-R288), units and the window cache (R266-R268), and the
timers of outstanding requests (R264, R291). -/

namespace Sys2Proof.Machine

/-! ### Requests: header, target and tag (R259, R261, R266, R267, R276) -/

/-- A unit's entry (Table 9.14). -/
def unitW (s : State) (u w : Nat) : Word := getReg s cx2 (0x1000 + 32 * u + 8 * w)
def unitBase (s : State) (u : Nat) : Nat := fld (unitW s u 0) 49 0
def unitSize (s : State) (u : Nat) : Nat := fld (unitW s u 1) 49 0
def unitJob (s : State) (u : Nat) : Nat := fld (unitW s u 2) 15 0
def unitValid (s : State) (u : Nat) : Bool := bit (unitW s u 2) 16
def unitIngest (s : State) (u : Nat) : Bool := bit (unitW s u 2) 17
def unitEpoch (s : State) (u : Nat) : Nat := if u = 0 then 0 else fld (unitW s u 2) 31 24

/-- The bytes a request reads or writes, from ADDR on. -/
def packetRange (k : Packet) : Nat := if k.op = 1 then k.code * 256 else k.len

/-- The form of a request (R261). The range of a PROMOTED RA_ADD_F32, whose targets are one-byte elements, is that of its
elements, as R286 gives it for RA_ADD_MX8 (DEDUCED, log 141). -/
def formOk (k : Packet) : Bool :=
  let body := k.body.length == k.len
  let op := k.op
  let known := op == 1 || op == 3 || op == 0x10 || op == 0x1A || decide (8 ≤ op ∧ op ≤ 0xC)
  let len := match op with
    | 1 => k.len == 0 && decide (1 ≤ k.code ∧ k.code ≤ 16)
    | 3 | 0x10 => decide (1 ≤ k.len ∧ k.len ≤ 4096)
    | 0x1A => k.len == 0
    | _ => decide (k.len ≤ 4096) && raFormOk op k.code k.len k.addr
  let n := if op = 0xA then raCount op k.code k.len else if op = 8 && k.promoted then k.len / 4 else packetRange k
  known && body && len && fld k.w0 63 55 == 0 && fld k.w1 63 60 == 0 && bit k.w2 63 == false &&
  (n == 0 || k.addr / 4096 == (k.addr + n - 1) / 4096)

/-- The first reason to refuse a request on its header and target, as a code of Table 9.7. -/
def headerNack (s : State) (p : Nat) (k : Packet) : Option Nat :=
  let u := k.unit
  let ingest := portRole s p == 3
  if devValid s = false then some 7
  else if k.hop = false ∧ k.dst ≠ devNum s then some 1
  else if formOk k = false then some 5
  else if ingest && (decide (8 ≤ k.op ∧ k.op ≤ 0x10) || (k.op != 0x1A && !unitIngest s u)) then some 7
  else if (u != 0 && !unitValid s u) || k.epoch != unitEpoch s u then some 3
  else if jobOpen s k.job = false ∨ (u ≠ 0 ∧ unitJob s u ≠ k.job) then some 4
  else none

/-- The request's range against the memory and its unit's window (R20, R22, R23, R266). -/
def rangeOk (s : State) (k : Packet) (n : Nat) : Bool :=
  let a := k.addr
  tensorWin (winOf a) && winOf a == winOf (a + n - 1) && mappedMem s a && mappedMem s (a + n - 1) &&
  (k.unit == 0 || (decide (unitBase s k.unit ≤ a) && decide (a + n ≤ unitBase s k.unit + unitSize s k.unit)))

/-- A request that fails verification: AUTH_FAIL and an event (R276). For a job with no key the answer is sent all the same
(R383), and its NONCE and tag, which the spec does not state, are free values (DESIGN CHOICE, log 140). -/
def authFail (p : Nat) (k : Packet) (s : State) : State :=
  let e : ErrEvent := { mkEv (lp p 1) 1 0xA with unit := 0xFF, locus := p, detail := k.src, job := k.job }
  let s1 := raiseEv (lp p 1) 9 0 e (bump (lp p 1) 0 3 1 s)
  match (getKey s k.job).cur with
  | some _ => nack p k 6 s1
  | none =>
    let r := draw (bump (lp p 1) 0 1 1 s1)
    let q := draw r.2
    let n := mkPacket k.src 0 (devNum s) 5 0 false false false k.job 0 k.seq 0 6 []
    handOver p k.src false { n with w3 := setFld n.w3 55 0 (Config.freeWord r.1).toNat,
                                    tag := (Config.freeWord (r.1)).append (Config.freeWord q.1) } q.2

/-- A request up to its effect: header, target, range of `n` bytes, then its tag (R259); `f` takes the data. A port whose block
takes no new work leaves it where it is (R32). -/
def accept (p : Nat) (k : Packet) (n : Nat) (f : List Byte → State → State) (s : State) : State :=
  if running s = false ∨ takesWork s (lp p 0) = false then s else
  if rxLost p k s then rxCheck p k.isResp s else
  match headerNack s p k with
  | some c => nack p k c (takeOff p k s)
  | none =>
    if n ≠ 0 ∧ rangeOk s k n = false then nack p k 1 (takeOff p k s)
    else match openPacket s k with
      | none => authFail p k (takeOff p k s)
      | some data => forJob k.job (f data) s

/-- READ (R261): answered with the bytes, or POISONED; it waits while its memory waits. -/
def readEffect (p : Nat) (k : Packet) (s : State) : State :=
  accept p k (k.code * 256) (fun _ u =>
    let span := [(k.addr, k.code * 256)]
    match needSpans u true span with
    | .wait => u
    | .fault _ => nack p k 1 (takeOff p k u)
    | .poison a => nack p k 2 (poisonRead 15 a k.job 0 (takeOff p k u))
    | .ok => respond p k 2 0 false false (memBytes u.mem k.addr (k.code * 256)) (touchReads 15 span (takeOff p k u))) s

/-- READ (R261). -/
def execRead (p : Fin 16) (k : Packet) (s : State) : Res := .next (readEffect p.val k s)

/-- WRITE and MCAST_WRITE (R261, R274): performed once verified, then acknowledged. -/
def writeEffect (p : Nat) (k : Packet) (s : State) : State :=
  accept p k k.len (fun data u =>
    match needLines u false (linesOf k.addr k.len) with
    | .wait => u
    | .fault _ => nack p k 1 (takeOff p k u)
    | _ => respond p k 4 0 false false [] (wrBytes 15 k.addr data (takeOff p k u))) s

/-- WRITE (R261). -/
def execWrite (p : Fin 16) (k : Packet) (s : State) : Res := .next (writeEffect p.val k s)

/-- MCAST_WRITE (R274). -/
def execMcastWrite (p : Fin 16) (k : Packet) (s : State) : Res := .next (writeEffect p.val k s)

/-- Bytes of the target elements of an RA packet, up to the last of them (R286). -/
def raTarget (s : State) (k : Packet) : Nat :=
  max 1 (match findBuck s k.job k.bucket with
    | some b => (raSpan b k.op k.code k.addr k.len).2
    | none => wireTarget k.op k.code k.promoted k.len)

/-- A remote accumulate (R286-R288): refused without a slot in every adder it needs, else applied and acknowledged. -/
def raEffect (p : Nat) (k : Packet) (s : State) : State :=
  accept p k (raTarget s k) (fun data u =>
    let two (a : Nat) : Bool := winOf a == .hbm || winOf a == .scr
    let noSlot (v : State) : State := nack p k 8 (bump cx3 1 0 1 (takeOff p k v))
    if two k.addr = false then nack p k 1 (takeOff p k u) else
    match findBuck u k.job k.bucket with
    | none => noSlot u
    | some b =>
      let span := raSpan b k.op k.code k.addr k.len
      if b.live = false ∨ slotsArmed u k.job k.bucket span = false then noSlot u
      else if raFits b k.op k.code k.addr k.len k.promoted = false then nack p k 5 (takeOff p k u)
      else if b.op = 2 ∧ inStaging b k.op k.code k.addr k.len = false then nack p k 1 (takeOff p k u)
      else match needLines u false (linesOf span.1 span.2) with
        | .wait => u
        | .fault _ => nack p k 1 (takeOff p k u)
        | _ =>
          let u1 := perform b k.op k.code k.addr data (takeOff p k u)
          respond p k 4 0 false (slotPromoted u1 b span.1 span.2) [] u1) s

/-- RA_ADD_F32 (R286). -/
def execRaAddF32 (p : Fin 16) (k : Packet) (s : State) : Res := .next (raEffect p.val k s)
/-- RA_ADD_BF16 (R286). -/
def execRaAddBf16 (p : Fin 16) (k : Packet) (s : State) : Res := .next (raEffect p.val k s)
/-- RA_ADD_MX8 (R287). -/
def execRaAddMx8 (p : Fin 16) (k : Packet) (s : State) : Res := .next (raEffect p.val k s)
/-- RA_MAX (R286). -/
def execRaMax (p : Fin 16) (k : Packet) (s : State) : Res := .next (raEffect p.val k s)
/-- RA_AND (R286). -/
def execRaAnd (p : Fin 16) (k : Packet) (s : State) : Res := .next (raEffect p.val k s)

/-- The valid unit of a job whose window covers an address (R268). -/
def unitFor (s : State) (job addr : Nat) : Option Nat :=
  (List.range 1024).find? (fun u => u != 0 && unitValid s u && unitJob s u == job &&
    decide (unitBase s u ≤ addr ∧ addr < unitBase s u + unitSize s u))

/-- RESOLVE (R268): answered with the unit, its window and its epoch. The layout of the 32 bytes is the model's
(DESIGN CHOICE, log 22). -/
def resolveEffect (p : Nat) (k : Packet) (s : State) : State :=
  accept p k 0 (fun _ u =>
    let ans := match unitFor u k.job k.addr with
      | some n => [word (unitBase u n), word (unitSize u n), word (n + unitEpoch u n * 2 ^ 24), 0]
      | none => [word (k.addr / 4096 * 4096), 4096, 0, 0]
    respond p k 0x1B 0 false false (wordsBytes ans) (takeOff p k u)) s

/-- RESOLVE (R268). -/
def execResolve (p : Fin 16) (k : Packet) (s : State) : Res := .next (resolveEffect p.val k s)

/-- NOTICE (R273): a record in the notice ring; unknown codes are dropped. Which words of the detail carry the cause and
the sender's tick is the model's choice (log 23). -/
def noticeEffect (p : Nat) (k : Packet) (s : State) : State :=
  if running s = false ∨ takesWork s (lp p 0) = false then s else
  if rxLost p k s then rxCheck p k.isResp s else
  let s1 := takeOff p k s
  match openPacket s k with
  | none => bump (lp p 1) 0 3 1 s1
  | some data =>
    if k.code < 1 ∨ 4 < k.code ∨ (k.hop = false ∧ k.dst ≠ devNum s) then s1 else
    let w (i : Nat) : Word := word (leNat ((data.drop (8 * i)).take 8))
    noticeRecord k.w0 k.w1 k.code (fld (w 2) 7 0) false p (w 3).toNat [w 0, w 1, w 2, w 3] s1

/-- NOTICE (R273). -/
def execNotice (p : Fin 16) (k : Packet) (s : State) : Res := .next (noticeEffect p.val k s)

/-! ### Responses (R262, R263, R269) -/

/-- The sent request a response answers: by SRC_DEV and SEQ. -/
def matching (s : State) (k : Packet) : Option Track :=
  match getTrack s k.seq with
  | some x => if x.state = 1 ∧ x.dev = k.src then some x else none
  | none => none

/-- The lowest byte of the task's in a request: of a read of a source line, the first that it is for (R263). -/
def reqLow (s : State) (x : Track) : Nat :=
  x.dev * 2 ^ 50 + (match x.kind, findTask s x.owner with
    | .moveRead, some t => (movSpan t (t.tensor 0) x.first).1
    | _, _ => x.k.addr)

/-- A task to which an address has been refused ends once none of its requests at a lower address is outstanding, so that
DETAIL is the lowest faulting address (R263). -/
def settleNack (id : Nat) (s : State) : State :=
  match findTask s id with
  | none => s
  | some t =>
    match t.nacked with
    | none => s
    | some (a, slot) =>
      if s.lnk.track.any (fun y => y.2.owner == id && y.2.state != 0 && y.2.kind != .resolve && decide (reqLow s y.2 < a)) then s
      else failOwner id { status := 3, slot := slot, detail := a } s

/-- An address refused to a request of a task (R263). -/
def noteNack (x : Track) (s : State) : State :=
  match findTask s x.owner with
  | none => s
  | some t =>
    if t.phase ≠ .dispatched ∨ t.status ≠ 0 then s else
    let a := reqLow s x
    let lower := match t.nacked with | some (b, _) => decide (a < b) | none => true
    settleNack x.owner (dropUnsent x.owner
      (putTask { t with nacked := if lower then some (a, reqSlot s x) else t.nacked } s))

/-- A response up to its effect: dropped unless it verifies and matches (R262, R276). -/
def onResponse (p : Nat) (k : Packet) (f : Track → List Byte → State → State) (s : State) : State :=
  if running s = false then s else
  if rxLost p k s then rxCheck p k.isResp s else
  let s1 := takeOff p k s
  match openPacket s k with
  | none => bump (lp p 1) 0 3 1 s1
  | some data =>
    match matching s k with
    | none => bump cx2 0 4 1 s1
    | some x => f x data s1

/-- A request has ended: its task may end for an address refused before, and requests held behind it may go on. -/
def answered (x : Track) (s : State) : State := pumpAll (settleNack x.owner s)

/-- READ_RESP (R262, R298). -/
def readRespEffect (p : Nat) (k : Packet) (s : State) : State :=
  onResponse p k (fun x data u =>
    let u1 := dropTrack k.seq u
    let u2 := match x.kind with
      | .moveRead => movArrived x data u1
      | .readback => (match findTask u1 x.owner with
          | some t => if t.phase = .dispatched ∧ t.status = 0 then readbackEnd t 1 u1 else u1
          | none => u1)
      | .exchange => exchanged x k data u1
      | .finite => finiteArrived x data u1
      | _ => u1
    answered x u2) s

/-- READ_RESP (R262). -/
def execReadResp (p : Fin 16) (k : Packet) (s : State) : Res := .next (readRespEffect p.val k s)

/-- ACK (R262). -/
def ackEffect (p : Nat) (k : Packet) (s : State) : State :=
  onResponse p k (fun x _ u =>
    let u1 := dropTrack k.seq u
    let u2 := match x.kind with
      | .moveWrite => movAcked x.owner u1
      | .contribute => redAcked x k u1
      | .mcast => mcastAcked x.owner x.first x.count u1
      | _ => u1
    answered x u2) s

/-- ACK (R262). -/
def execAck (p : Fin 16) (k : Packet) (s : State) : Res := .next (ackEffect p.val k s)

/-- RESOLVE_RESP: an entry of the window cache, least recently used replaced, and the held request goes on (R268). -/
def resolveRespEffect (p : Nat) (k : Packet) (s : State) : State :=
  onResponse p k (fun x data u =>
    if x.kind ≠ .resolve then u else
    let w (i : Nat) : Nat := leNat ((data.drop (8 * i)).take 8)
    let e : WinEnt := { dev := x.dev, job := x.k.job, base := w 0, size := w 1, unit := nfld (w 2) 9 0, epoch := nfld (w 2) 31 24 }
    let u1 := { u with lnk := { u.lnk with cache := (e :: u.lnk.cache).take 4096 } }
    let u2 := match getTrack u1 x.first with
      | some y => setTrack x.first { y with asking := false } u1
      | none => u1
    answered x (dropTrack k.seq u2)) s

/-- RESOLVE_RESP (R268). -/
def execResolveResp (p : Fin 16) (k : Packet) (s : State) : Res := .next (resolveRespEffect p.val k s)

/-- A request refused for good: its task ends with a status, naming the address (R263); a read-back ends its transfer
(R207). -/
def refuse (x : Track) (status : Nat) (s : State) : State :=
  if x.kind = .readback then
    match findTask s x.owner with
    | some t => if t.phase = .dispatched ∧ t.status = 0 then readbackEnd t (if status = 9 then 9 else 3) s else s
    | none => s
  else if status = 3 then noteNack x s
  else
    let s1 := if status = 9 then linkFault x.port x.dev x.k.job 5 s else s
    failOwner x.owner { status := status, slot := if status = 9 then reqSlot s x else 0 } s1

/-- NACK (Table 9.7). A request of a task that has ended is not sent again (R303). -/
def nackEffect (p : Nat) (k : Packet) (s : State) : State :=
  onResponse p k (fun x _ u =>
    let out (status : Nat) : State := answered x (refuse x status (dropTrack k.seq u))
    if ownerLive u x.owner = false then
      answered x (dropTrack k.seq (if k.code = 3 then bump cx2 0 1 1 u else if k.code = 8 then bump cx3 1 1 1 u else u))
    else match k.code with
    | 1 => out 3
    | 3 =>
      let cfg := getReg u cx2 0x200
      let u1 := bump cx2 0 1 1 { u with lnk := { u.lnk with cache := u.lnk.cache.filter (fun w => !(w.dev == x.dev && w.unit == x.k.unit)) } }
      if fld cfg 11 8 ≤ x.resolves then answered x (refuse x 3 (dropTrack k.seq u1))
      else answered x (setTrack k.seq { x with state := 0, asking := false } (bump cx2 0 2 1 u1))
    | 4 => out 7
    | 6 => if x.auth < regFld u cx2 0x200 15 12 then
        sendTrack k.seq { x with auth := x.auth + 1 } x.port (bump cx2 0 2 1 u) else out 9
    | 8 => bump cx3 1 1 1 (setTrack k.seq { x with state := 2 } u)
    | _ => out 9) s

/-- NACK (R263). -/
def execNack (p : Fin 16) (k : Packet) (s : State) : Res := .next (nackEffect p.val k s)

/-! ### Timers (R264, R291, R298) -/

/-- RESP_TIMEOUT (R264): a READ, WRITE or MCAST_WRITE, and a RESOLVE, is sent at most three times. -/
def respTimeoutEffect (seq : Nat) (s : State) : State :=
  match getTrack s seq with
  | none => s
  | some x =>
    if x.state ≠ 1 ∨ x.kind = .exchange then s else
    let s1 := bump cx2 0 3 1 (raise cx2 9 0 s)
    if x.kind = .contribute then
      answered x (failOwner x.owner { status := 9, slot := reqSlot s x }
        (dropTrack seq (maskedFault cx2 9 x.port x.dev x.k.job 0xA s1)))
    else if ownerLive s x.owner = false then answered x (dropTrack seq s1)
    else if x.timeouts < 2 then
      let y := { x with timeouts := x.timeouts + 1, state := 0 }
      let s2 := bump cx2 0 2 1 s1
      if x.kind = .resolve then
        (match route s x.dev with
         | some p => sendTrack seq y p s2
         | none => refuse x 9 (dropTrack seq s2))
      else answered x (setTrack seq y s2)
    else answered x (refuse x 9 (dropTrack seq s1))

/-- RESP_TIMEOUT (R264). -/
def execRespTimeout (seq : Nat) (s : State) : Res := .next (respTimeoutEffect seq s)

/-- NOSLOT_RETRY: the same request again (R291). -/
def noslotEffect (seq : Nat) (s : State) : State :=
  match getTrack s seq with
  | none => s
  | some x =>
    if x.state ≠ 2 then s
    else if ownerLive s x.owner = false then answered x (dropTrack seq s)
    else match route s x.dev with
    | some p => sendTrack seq x p (bump cx2 0 2 1 s)
    | none => answered x (failOwner x.owner { status := 9 } (dropTrack seq (linkFault x.port x.dev x.k.job 5 s)))

/-- NOSLOT_RETRY (R291). -/
def execNoslotRetry (seq : Nat) (s : State) : Res := .next (noslotEffect seq s)

/-- RED_TIMEOUT: a request refused with NO_SLOT, or an exchange unanswered, for too long (R291, R298). -/
def redTimeoutEffect (seq : Nat) (s : State) : State :=
  match getTrack s seq with
  | none => s
  | some x =>
    if x.state = 2 ∨ (x.kind = .exchange ∧ x.state = 1) then
      answered x (failOwner x.owner { status := 9, slot := reqSlot s x }
        (dropTrack seq (maskedFault cx3 11 x.port x.dev x.k.job 0xA (raise cx3 11 0 s))))
    else s

/-- RED_TIMEOUT (R291). -/
def execRedTimeout (seq : Nat) (s : State) : Res := .next (redTimeoutEffect seq s)

/-! ### Units and the cache -/

/-- CACHE_FLUSH (R268). -/
def cacheFlushEffect (v : Word) (s : State) : State :=
  if bit v 0 then { s with lnk := { s.lnk with cache := [] } } else s

/-- CACHE_FLUSH (R268). -/
def execCacheFlush (who : Initiator) (v : Word) (s : State) : Res :=
  .next (regGuard who cx2 0x228 v (fun w t => cacheFlushEffect w t) s)

/-- The window of a unit lies within one window of R20 (Table 9.14). -/
def unitFits (b n : Nat) : Bool :=
  n == 0 || (winOf b != .none && winOf b == winOf (b + n - 1))

/-- A write of word `w` of a unit's entry (R266, R267): a change advances the epoch, from 255 to 1. -/
def unitEffect (u w : Nat) (v : Word) (s : State) : State :=
  let off := 0x1000 + 32 * u + 8 * w
  let old := getReg s cx2 off
  let ep := unitEpoch s u
  let new := if w = 2 then setFld v 31 24 ep else v
  let b := if w = 0 then fld v 49 0 else unitBase s u
  let n := if w = 1 then fld v 49 0 else unitSize s u
  if u = 0 ∨ w = 3 then s
  else if b % 256 ≠ 0 ∨ n % 256 ≠ 0 ∨ unitFits b n = false then raise cx2 8 off s
  else if new = old then s
  else
    let s1 := setReg cx2 off new s
    let o2 := 0x1000 + 32 * u + 16
    setReg cx2 o2 (setFld (getReg s1 cx2 o2) 31 24 (if ep = 255 then 1 else ep + 1)) s1

/-- UNIT_WRITE (R267). -/
def execUnitWrite (who : Initiator) (u : Fin 1024) (w : Fin 4) (v : Word) (s : State) : Res :=
  .next (regGuard who cx2 (0x1000 + 32 * u.val + 8 * w.val) v (fun x t => unitEffect u.val w.val x t) s)

/-- A multicast group's table entry is well formed (Table 9.13). -/
def groupOk (w : Nat) (v : Word) : Bool :=
  if w = 0 then fld v 1 0 == 0 else if w = 1 then decide (1 ≤ fld v 10 0 ∧ fld v 10 0 ≤ 1024) else true

/-- A write of a multicast group: one that breaks its table sets MCAST_CFG (R283). -/
def groupEffect (g w : Nat) (v : Word) (s : State) : State :=
  let off := 0x1000 + 32 * g + 8 * w
  if groupOk w v then storeReg cx3 off v s else raise cx3 8 off s

/-- A write of SLOT_RSV (R290): the reservations must not sum to more than 4,096. -/
def rsvEffect (i : Nat) (v : Word) (s : State) : State :=
  let rest := ((List.range 32).map (fun k => if k = i then 0 else regFld s cx3 (0x400 + 8 * k) 12 0)).sum
  if 4096 < rest + fld v 12 0 then raise cx3 10 (0x400 + 8 * i) s else storeReg cx3 (0x400 + 8 * i) v s

end Sys2Proof.Machine
end

