-- ==== Sys2Proof/Machine/LinkPort.lean ====
section
/-! DEFINITION. A link port's training (R249-R254), the frames it receives (R255-R258, R272), the Ethernet personality's
transport and its answers (R278-R281). The tick mark of a TICK frame is placed in Machine/Tick.lean. -/

namespace Sys2Proof.Machine

/-! ### States (Table 9.3) -/

/-- The pattern sent on each lane in IDENTIFY (R250): the lane's number, reversed on a mirrored cable, the port's number, and
the device number or 0x3FFF with a flag. The report of an order found reversed in this training goes with it. -/
def sendPatterns (p : Nat) (s : State) : State :=
  let x := getPort s p
  (List.range 8).foldl (fun u k =>
    emit (.pattern p k (if x.mirrored then 7 - k else k) (if devValid s then devNum s else 0x3FFF) (!devValid s) x.reversed) u) s

/-- A training step: within RETRAIN the state stays RETRAIN (Table 9.3). IDENTIFY sends its patterns (R250), DELAY the device
and port number and the last acknowledged frame (R252, R254). -/
def trainStep (p step : Nat) (s : State) : State :=
  let x := getPort s p
  let s1 := if x.state = 7 then setPort p { x with step := step } s else portState p step false s
  if step = 3 then sendPatterns p s1
  else if step = 5 then emit (.identity p (devNum s) (devValid s) x.rseq) s1
  else s1

/-- The port is in a training step. -/
def inStep (s : State) (p step : Nat) : Bool :=
  let x := getPort s p
  x.step == step && (x.state == step || x.state == 7)

/-- A lane of the port is excluded by the map-out table (R251). -/
def laneOut (s : State) (p lane : Nat) : Bool :=
  s.rel.mapTab.any (fun m => m.code == 0x40 && m.inst == p && m.unit == lane)

/-- Set bits of a lane mask. -/
def laneCount (m : Nat) : Nat := ((List.range 8).filter (fun i => m.testBit i)).length

/-- A DISABLED port trains once TRAIN_EN is 1, its role is not OFF and its block takes work (Table 9.3, R32). -/
def leaveDisabled (p : Nat) (s : State) : State :=
  let cfg := getReg s (lp p 0) 0x200
  if (getPort s p).state = 0 ∧ bit cfg 5 = true ∧ fld cfg 1 0 ≠ 0 then startTraining p s else s

/-- DETECT (Table 9.3): at least 4 lanes see signal. -/
def detectEffect (p : Nat) (signal : BitVec 8) (s : State) : State :=
  let s1 := leaveDisabled p s
  let n := ((List.range 8).filter (fun i => signal.getLsbD i && !laneOut s p i)).length
  let s2 := if inStep s1 p 1 then setPort p { getPort s1 p with signal := signal.toNat } s1 else s1
  if inStep s1 p 1 ∧ 4 ≤ n then trainStep p 2 s2 else s2

/-- DETECT (R249). -/
def execDetect (p : Fin 16) (signal : BitVec 8) (s : State) : Res := .next (detectEffect p.val signal s)

/-- The lanes that a port's Ethernet PHY runs on (Table 9.9). -/
def phyLanes (s : State) (p : Nat) : Nat := if regFld s (lp p 0) 0x200 4 3 = 2 then 0x0F else 0xFF

/-- Lanes locked in each direction are enough to go on: 4 or more for GKL, those that the map-out table excludes treated as
absent (R357), and every lane of the PHY for Ethernet (R249, R278). -/
def locksEnough (s : State) (p rx tx : Nat) : Bool :=
  if portEth s p then
    let m := phyLanes s p
    Nat.land rx m == m && Nat.land tx m == m
  else
    let here (m : Nat) : Nat := ((List.range 8).filter (fun i => m.testBit i && !laneOut s p i)).length
    decide (4 ≤ here rx) && decide (4 ≤ here tx)

/-- EQUALISE: the Ethernet personality goes on to ALIGN (R249, R278). -/
def equaliseEffect (p : Nat) (rxLock txLock : BitVec 8) (s : State) : State :=
  let s1 := if portEth s p then leaveDisabled p s else s
  if inStep s1 p 2 ∧ locksEnough s1 p rxLock.toNat txLock.toNat = true then trainStep p (if portEth s1 p then 4 else 3) s1 else s1

/-- EQUALISE (R249). -/
def execEqualise (p : Fin 16) (rxLock txLock : BitVec 8) (s : State) : Res := .next (equaliseEffect p.val rxLock txLock s)

/-- The receive lanes that are good (R251): locked, recognised, and alone in carrying their number; a lane that the map-out
table excludes is absent (R357). -/
def goodLanes (s : State) (p : Nat) (ls : List LanePattern) : List (Nat × LanePattern) :=
  let here := ((List.range 8).zip ls).filter (fun z => z.2.locked && z.2.known && !laneOut s p z.1)
  here.filter (fun z => (here.filter (fun y => y.2.lane == z.2.lane)).length == 1)

/-- Why a lane was mapped out (Table 12.3): 1 no signal in DETECT, 2 no lock, 3 short, 4 unrecognised. -/
def laneReason (signal : Bool) (l : LanePattern) : Nat :=
  if l.locked then (if l.known then 3 else 4) else if signal then 2 else 1

/-- The new LANE_MAP: where each of the partner's lanes arrives, and the transmit lanes as they are or reversed. -/
def mapWord (good : List (Nat × LanePattern)) (mirrored : Bool) : Word :=
  let rx := (good.map (fun z => z.1 * 8 ^ z.2.lane.val)).sum
  let tx := ((List.range 8).map (fun k => (if mirrored then 7 - k else k) * 8 ^ k)).sum
  word (rx + tx * 2 ^ 32)

/-- IDENTIFY (R250, R251): polarity, order and mirroring; an order newly found reversed is reported in the patterns, and the step
goes on with what the lanes report next (DEDUCED, log 138). Then the width: all eight lanes, or the four lowest-numbered good
ones. Lanes mapped out and not excluded give LANE events. -/
def identifyEffect (p : Nat) (ls : List LanePattern) (partnerReversed : Bool) (partnerGood : BitVec 8) (s : State) : State :=
  if inStep s p 3 = false then s else
  let good := goodLanes s p ls
  let gm : Nat := (good.map (fun z => 2 ^ z.1)).sum
  let pol := (good.map (fun z => if z.2.inverted then 2 ^ z.1 else 0)).sum
  let rev := decide (good.length = 8) && good.all (fun z => z.2.lane.val == 7 - z.1)
  let x := getPort s p
  if rev ∧ partnerReversed = true ∧ x.mirrored = false then
    sendPatterns p (setPort p { x with mirrored := true, reversed := true, polInv := pol, laneMap := mapWord good true } s)
  else if rev ∧ x.reversed = false then
    sendPatterns p (setPort p { x with reversed := true, polInv := pol, laneMap := mapWord good x.mirrored } s)
  else
    let cfg := getReg s (lp p 0) 0x200
    let both := decide (gm = 255 ∧ partnerGood.toNat = 255)
    let four := bit cfg 6 && decide (4 ≤ good.length ∧ 4 ≤ laneCount partnerGood.toNat)
    let bad := ((List.range 8).zip ls).filter (fun z => !laneOut s p z.1 && !gm.testBit z.1)
    let ev (u : State) (z : Nat × LanePattern) : State :=
      report (lp p 0) { mkEv (lp p 0) 1 9 with unit := z.1, locus := z.1, detail := laneReason (x.signal.testBit z.1) z.2 } u
    let used := if both then good else if four then good.take 4 else []
    let s1 := bad.foldl ev (setPort p { x with good := gm, x4 := !both && four, reversed := rev, polInv := pol,
                                               laneMap := mapWord used x.mirrored } s)
    if both || four then trainStep p 4 s1 else portState p 8 false s1

/-- IDENTIFY (R250). -/
def execIdentify (p : Fin 16) (lanes : List LanePattern) (partnerReversed : Bool) (partnerGood : BitVec 8) (s : State) : Res :=
  .next (identifyEffect p.val lanes partnerReversed partnerGood s)

/-- Entry into ACTIVE: credits start again (R258), and frames after the partner's last acknowledged one are sent again
(R254). -/
def enterActive (p ack : Nat) (s : State) : State :=
  let x := getPort s p
  let left := if x.replay.any (fun f => f.1 == ack) then (x.replay.dropWhile (fun f => f.1 != ack)).drop 1 else x.replay
  let y := { x with replay := left, replays := 0, fseq := if left.isEmpty then ack else x.fseq, freedReq := 0, freedResp := 0,
                    owed := 0, peerReq := 0, peerResp := 0, sentReq := 0, sentResp := 0, fecCount := 0 }
  let s1 := portState p 6 false (setPort p y s)
  let s2 := left.foldl (fun u f => putFrame p (frameWord f.1 y.rseq 0 false) f.2 u) s1
  portPump p s2

/-- ALIGN: codewords locked, lanes deskewed; DELAY sends its 16 echo frames (R249, R253). The Ethernet personality is
ACTIVE then. -/
def alignEffect (p : Nat) (s : State) : State :=
  if inStep s p 4 = false then s
  else if portEth s p then portState p 6 false s
  else
    let s1 := trainStep p 5 (setPort p { getPort s p with echoes := [] } s)
    (List.range 16).foldl (fun u _ => sendControl p 5 false [] u) s1

/-- ALIGN (R249). -/
def execAlign (p : Fin 16) (s : State) : Res := .next (alignEffect p.val s)

/-- The mean of the echo samples, halved (R253). -/
def meanDelay (es : List Int) : Nat := (es.foldl (· + ·) 0 / (2 * (es.length : Int))).toNat % 2 ^ 24

/-- DELAY (R252, R253): the partner's identity is judged and, with all 16 echoes in, the link is ACTIVE. -/
def delayEffect (p peerDev peerPort : Nat) (peerValid : Bool) (ack : Nat) (s : State) : State :=
  let x := getPort s p
  if inStep s p 5 = false ∨ x.echoes.length < 16 then s else
  let cfg := getReg s (lp p 0) 0x200
  let y := { x with peerDev := peerDev, peerPort := peerPort, peerValid := peerValid, delay := meanDelay x.echoes }
  let s1 := setPort p y s
  if peerValid = devValid s ∧ peerDev = devNum s ∧ peerPort = p ∧ bit cfg 7 = false then
    portState p 8 true (raise (lp p 0) 10 0 s1)
  else if bit cfg 22 = true ∧ peerValid = true ∧ peerDev ≠ fld cfg 21 8 then portState p 8 true (raise (lp p 0) 9 0 s1)
  else enterActive p ack s1

/-- DELAY (R252). -/
def execDelay (p : Fin 16) (peerDev : Fin 16384) (peerPort : Fin 16) (peerValid : Bool) (peerAck : BitVec 24) (s : State) : Res :=
  .next (delayEffect p.val peerDev.val peerPort.val peerValid peerAck.toNat s)

/-- A write of TRAIN_CTL.RETRAIN (R249, R254). -/
def retrainEffect (p : Nat) (v : Word) (s : State) : State :=
  if bit v 0 = false then s
  else if (getPort s p).state = 8 then startTraining p s
  else retrainTrigger p s

/-- RETRAIN (R254). -/
def execRetrain (who : Initiator) (p : Fin 16) (v : Word) (s : State) : Res :=
  .next (regGuard who (lp p.val 0) 0x228 v (fun w t => retrainEffect p.val w t) s)

/-- DOWN_RETRY: one second after entering DOWN, with AUTO_RETRAIN (Table 9.3). -/
def downRetryEffect (p : Nat) (s : State) : State :=
  if (getPort s p).state = 8 ∧ regBit s (lp p 0) 0x200 32 = true then startTraining p s else s

/-- DOWN_RETRY (R249). -/
def execDownRetry (p : Fin 16) (s : State) : Res := .next (downRetryEffect p.val s)

/-- TRAINING_TIMEOUT: a failure or timeout in DETECT to DELAY leads to DOWN (R249). -/
def trainingTimeoutEffect (p : Nat) (s : State) : State :=
  let x := getPort s p
  if (1 ≤ x.state ∧ x.state ≤ 5) ∨ x.state = 7 then portState p 8 false s else s

/-- TRAINING_TIMEOUT (R249). -/
def execTrainingTimeout (p : Fin 16) (s : State) : Res := .next (trainingTimeoutEffect p.val s)

/-- A write of PORT_CFG (R247, R249, R283): role, personality, PHY and width choice only in DISABLED or DOWN. -/
def portCfgEffect (p : Nat) (v : Word) (s : State) : State :=
  let page := lp p 0
  let old := getReg s page 0x200
  let st := (getPort s p).state
  let fixed := decide (fld old 4 0 ≠ fld v 4 0) || bit old 6 != bit v 6
  if fixed ∧ st ≠ 0 ∧ st ≠ 8 then raise page 13 0x200 s
  else if fld v 4 3 = 3 then raise page 13 0x200 s
  else
    let s1 := storeReg page 0x200 v s
    let on := bit v 5 && fld v 1 0 != 0
    if on = false then portState p 0 false s1 else if st = 0 then startTraining p s1 else s1

/-- A write of the ETH registers (R283). -/
def ethCfgEffect (p off : Nat) (v : Word) (s : State) : State :=
  let st := (getPort s p).state
  if st = 0 ∨ st = 8 then storeReg (lp p 0) off v s else raise (lp p 0) 13 off s

/-! ### Frames received (R255-R258) -/

/-- A frame's fields (Table 9.4). -/
def frameSeq (f : Frame) : Nat := fld f.w0 23 0
def frameAck (f : Frame) : Nat := fld f.w0 47 24
def frameType (f : Frame) : Nat := fld f.w0 51 48
def frameNak (f : Frame) : Bool := bit f.w0 52

/-- The frame arrived whole: no uncorrectable codeword, and its CRC is right (R255, R256). -/
def frameGood (f : Frame) : Bool :=
  !f.fecBad && f.lost == 0 && f.body.length == 244 && Crypto.crc32 (wordBytes f.w0 ++ f.body) == f.crc

/-- Frames replayed after a NAK: RETRY_MAX replays in succession retrain the port (R254, R257). -/
def replayFrames (p : Nat) (s : State) : State :=
  let x := getPort s p
  if x.replay.isEmpty then s else
  let limit := max 1 (regFld s (lp p 0) 0x220 7 0)
  if limit ≤ x.replays then retrainTrigger p (raise (lp p 0) 11 0 s) else
  let s1 := setPort p { x with replays := x.replays + 1 } s
  x.replay.foldl (fun u f => bump (lp p 0) 0 3 1 (putFrame p (frameWord f.1 x.rseq 0 false) f.2 u)) s1

/-- The acknowledgement and the NAK that any good frame carries (R257). -/
def ackFrames (p : Nat) (f : Frame) (s : State) : State :=
  let x := getPort s p
  let a := frameAck f
  let s1 := if x.replay.any (fun r => r.1 == a) then
      setPort p { x with replay := (x.replay.dropWhile (fun r => r.1 != a)).drop 1, replays := 0 } s
    else s
  portPump p (if frameNak f then replayFrames p s1 else s1)

/-- Uncorrectable codewords counted; more than FEC_UE_MAX in 1 ms retrain the port (R254, R256), which is a corrected event of the
whole port (Table 12.1; that its kind is LINK is DEDUCED, log 126). -/
def fecBad (p k : Nat) (s : State) : State :=
  let x := getPort s p
  let us := regFld s (pageOf .tck 0 0) 0x200 6 0
  let fresh := decide (1000 ≤ (s.tck.num - x.fecTick) * us)
  let n := (if fresh then 0 else x.fecCount) + k
  let s1 := bump (lp p 0) 0 5 k (setPort p { x with fecTick := if fresh then s.tck.num else x.fecTick, fecCount := n } s)
  if regFld s (lp p 0) 0x220 23 8 < n then
    retrainTrigger p (raiseEv (lp p 0) 12 0 { mkEv (lp p 0) 0 0xA with unit := 0xFF, locus := p } s1) else s1

/-- A frame that did not arrive whole is answered with NAK naming the last good frame (R257). -/
def badFrame (p : Nat) (f : Frame) (s : State) : State :=
  let s1 := sendControl p 1 true [] (bump (lp p 0) 0 2 1 s)
  if f.lost = 0 then s1 else fecBad p f.lost s1

/-- A good control frame that names another last DATA frame than the one received shows a gap in FSEQ, which an ACTIVE port
answers with NAK; what the frame itself carries stands (Table 9.4, R257; DEDUCED, log 139). -/
def ctlGap (p : Nat) (f : Frame) (s : State) : State :=
  let x := getPort s p
  if frameType f ≠ 0 ∧ x.state = 6 ∧ frameSeq f ≠ x.rseq then sendControl p 1 true [] s else s

/-- A control frame up to its effect: only an ACTIVE GKL port, or one in a training step that uses it, takes it. -/
def onFrame (p : Nat) (f : Frame) (type : Nat) (k : State → State) (s : State) : State :=
  if portEth s p ∨ (getPort s p).state < 5 ∨ (getPort s p).state = 8 ∨ running s = false then s
  else
    let s1 := bump (lp p 0) 0 8 f.body.length (bump (lp p 0) 0 4 f.fixed (bump (lp p 0) 0 1 1 s))
    if frameGood f = false then badFrame p f s1
    else if frameType f ≠ type then s1
    else k (ctlGap p f s1)

/-- Whole packets at the front of received bytes, and the rest; zeros where a packet would start are fill (R255). -/
def parsePackets : Nat → List Byte → List Packet × List Byte
  | 0, bs => ([], bs)
  | n + 1, bs =>
    let w (i : Nat) : Word := word (leNat ((bs.drop (8 * i)).take 8))
    if bs.length < 8 then ([], if bs.all (· = 0) then [] else bs)
    else if w 0 = 0 then ([], [])
    else if bs.length < 32 ∨ bs.length < 48 + fld (w 2) 62 50 then ([], bs)
    else
      let len := fld (w 2) 62 50
      let k : Packet := { w0 := w 0, w1 := w 1, w2 := w 2, w3 := w 3, body := (bs.drop 32).take len,
                          tag := BitVec.ofNat 128 (leNat ((bs.drop (32 + len)).take 16)) }
      let r := parsePackets n (bs.drop (48 + len))
      (k :: r.1, r.2)

/-- DATA (R257): delivered in FSEQ order, or discarded and answered with NAK. -/
def dataEffect (p : Nat) (f : Frame) (s : State) : State :=
  onFrame p f 0 (fun u =>
    let x := getPort u p
    if frameSeq f ≠ (x.rseq + 1) % 2 ^ 24 then sendControl p 1 true [] u
    else
      let r := parsePackets 8 (x.rx ++ f.body)
      let u1 := setPort p { x with rseq := frameSeq f, rx := r.2 } u
      ackFrames p f (arrive p r.1 u1)) s

/-- DATA (R257). -/
def execData (p : Fin 16) (f : Frame) (s : State) : Res := .next (dataEffect p.val f s)

/-- IDLE: its acknowledgement and NAK (R257). -/
def execIdleFrame (p : Fin 16) (f : Frame) (s : State) : Res := .next (onFrame p.val f 1 (ackFrames p.val f) s)

/-- CREDIT: running totals of words the partner has freed (R258). -/
def creditEffect (p : Nat) (f : Frame) (s : State) : State :=
  onFrame p f 2 (fun u =>
    let x := getPort u p
    ackFrames p f (setPort p { x with peerReq := leNat (f.body.take 8), peerResp := leNat ((f.body.drop 8).take 8) } u)) s

/-- CREDIT (R258). -/
def execCredit (p : Fin 16) (f : Frame) (s : State) : Res := .next (creditEffect p.val f s)

/-- CREDIT_SEND (R258). -/
def creditSendEffect (p : Nat) (s : State) : State :=
  let x := getPort s p
  if x.state ≠ 6 ∨ portEth s p = true ∨ running s = false then s
  else sendControl p 2 false (toLe 8 x.freedReq ++ toLe 8 x.freedResp) (setPort p { x with owed := 0 } s)

/-- CREDIT_SEND (R258). -/
def execCreditSend (p : Fin 16) (s : State) : Res := .next (creditSendEffect p.val s)

/-- DOWN: a notice record with UNAUTH (R272). -/
def downEffect (p : Nat) (f : Frame) (s : State) : State :=
  onFrame p f 4 (fun u =>
    let dev := leNat (f.body.take 2) % 2 ^ 14
    let cause := leNat ((f.body.drop 2).take 1)
    ackFrames p f (noticeRecord (word (dev * 2 ^ 24)) 0 1 cause true p 0 [0, 0, 0, 0] u)) s

/-- DOWN (R272). -/
def execDown (p : Fin 16) (f : Frame) (s : State) : Res := .next (downEffect p.val f s)

/-- ECHO: returned with the turnaround time, in its first 8 body bytes (R253; the place is the model's, log 24). -/
def echoEffect (p : Nat) (f : Frame) (turnaround : Nat) (s : State) : State :=
  onFrame p f 5 (fun u => sendControl p 6 false (toLe 8 turnaround) u) s

/-- ECHO (R253). -/
def execEcho (p : Fin 16) (f : Frame) (turnaround : Nat) (s : State) : Res := .next (echoEffect p.val f turnaround s)

/-- ECHO_RESP: a sample of the link's delay (R253). -/
def echoRespEffect (p : Nat) (f : Frame) (roundTrip : Nat) (s : State) : State :=
  onFrame p f 6 (fun u =>
    let x := getPort u p
    if inStep u p 5 ∧ x.echoes.length < 16 then
      setPort p { x with echoes := x.echoes ++ [(roundTrip : Int) - leNat (f.body.take 8)] } u
    else u) s

/-- ECHO_RESP (R253). -/
def execEchoResp (p : Fin 16) (f : Frame) (roundTrip : Nat) (s : State) : Res := .next (echoRespEffect p.val f roundTrip s)

/-! ### The transport received (R281) -/

def dgPsn (d : Datagram) : Nat := fld d.w0 31 0
def dgAck (d : Datagram) : Nat := fld d.w0 63 32
def dgDev (d : Datagram) : Nat := fld d.w1 13 0
def dgWin (d : Datagram) : Nat := fld d.w1 47 32 * 1024
def dgEce (d : Datagram) : Bool := bit d.w1 20

/-- A frame reaches an ACTIVE Ethernet port. -/
def onEther (p : Nat) (k : State → State) (s : State) : State :=
  if portEth s p = true ∧ portActive s p = true ∧ running s = true then k s else s

/-- A frame received on an ACTIVE Ethernet port, counted (R283). -/
def etherIn (p : Nat) (k : State → State) (s : State) : State := onEther p (fun u => k (bump (lp p 0) 0 1 1 u)) s

/-- A datagram reaches an ACTIVE Ethernet port; one whose headers are not those of Table 9.9 is dropped and counted. A CE mark
on any of a connection is echoed (Table 9.10). -/
def onDatagram (p : Nat) (d : Datagram) (k : State → State) (s : State) : State :=
  etherIn p (fun u =>
    if headOk u p d.head then
      k (if d.ce && hasConn u p (dgDev d) then setConn p (dgDev d) { getConn u p (dgDev d) with ece := true } u else u)
    else bump (lp p 1) 0 5 1 u) s

/-- The congestion window halved, down to 16 KiB. -/
def halve (c : Conn) : Conn := { c with cwnd := max 16384 (c.cwnd / 2), acked := 0 }

/-- What ACK_PSN acknowledges leaves the flight; the window grows by a datagram per acknowledged window (R281). -/
def ackPsn (d : Datagram) (c : Conn) : Conn :=
  let n := (dgAck d + 2 ^ 32 - c.una) % 2 ^ 32
  let c1 := { c with peerWin := dgWin d }
  let c2 := if 0 < n ∧ n ≤ c.flight.length then
      let bytes := ((c.flight.take n).map Datagram.size).sum
      let got := c.acked + bytes
      let grow := decide (c.cwnd ≤ got)
      { c1 with una := dgAck d, flight := c.flight.drop n, attempts := 0, acked := if grow then 0 else got,
                cwnd := if grow then min 8388608 (c.cwnd + 8288) else c.cwnd }
    else c1
  if dgEce d then halve c2 else c2

/-- TRANSPORT_SYN: the first PSN is adopted (R281). -/
def synEffect (p : Nat) (d : Datagram) (s : State) : State :=
  onDatagram p d (fun u =>
    let c := getConn u p (dgDev d)
    if c.rxOpen = true ∨ connRoom u p (dgDev d) = false then u
    else setConn p (dgDev d) { c with rxOpen := true, rxNext := dgPsn d, peerWin := dgWin d, ece := c.ece || d.ce } u) s

/-- TRANSPORT_SYN (R281). -/
def execTransportSyn (p : Fin 16) (d : Datagram) (s : State) : Res := .next (synEffect p.val d s)

/-- TRANSPORT_DATA: accepted in PSN order, else dropped and answered with NAK; acknowledged at every 16th (R281). -/
def tdataEffect (p : Nat) (d : Datagram) (s : State) : State :=
  onDatagram p d (fun u =>
    let dev := dgDev d
    let c := { getConn u p dev with ece := (getConn u p dev).ece || d.ce }
    if c.rxOpen = false ∨ dgPsn d ≠ c.rxNext then
      let u1 := bump (lp p 1) 0 5 1 (if hasConn u p dev then setConn p dev c u else u)
      sendDatagram p dev (mkDatagram u1 p dev 3 c.psn []) u1
    else
      let c1 := ackPsn d { c with rxNext := (c.rxNext + 1) % 2 ^ 32, since := c.since + 1 }
      let u1 := arrive p d.packets (setConn p dev c1 u)
      let u2 := if 16 ≤ c1.since then sendDatagram p dev (mkDatagram u1 p dev 2 c1.psn []) u1 else u1
      connPump ((getConn u2 p dev).queue.length + 1) p dev u2) s

/-- TRANSPORT_DATA (R281). -/
def execTransportData (p : Fin 16) (d : Datagram) (s : State) : Res := .next (tdataEffect p.val d s)

/-- TRANSPORT_ACK (R281). -/
def tackEffect (p : Nat) (d : Datagram) (s : State) : State :=
  onDatagram p d (fun u =>
    let dev := dgDev d
    if hasConn u p dev = false then u else
    let u1 := setConn p dev (ackPsn d (getConn u p dev)) u
    connPump ((getConn u1 p dev).queue.length + 1) p dev u1) s

/-- TRANSPORT_ACK (R281). -/
def execTransportAck (p : Fin 16) (d : Datagram) (s : State) : Res := .next (tackEffect p.val d s)

/-- The flight sent again, under headers that say what holds now (R280, R281). -/
def resendFlight (p dev : Nat) (s : State) : State :=
  (getConn s p dev).flight.foldl (fun u d => sendDatagram p dev (mkDatagram u p dev (fld d.w1 19 16) (dgPsn d) d.packets) u) s

/-- TRANSPORT_NAK: back to ACK_PSN, the window halved (R281). -/
def tnakEffect (p : Nat) (d : Datagram) (s : State) : State :=
  onDatagram p d (fun u =>
    let dev := dgDev d
    if hasConn u p dev = false then u else
    resendFlight p dev (setConn p dev (halve (ackPsn d (getConn u p dev))) u)) s

/-- TRANSPORT_NAK (R281). -/
def execTransportNak (p : Fin 16) (d : Datagram) (s : State) : Res := .next (tnakEffect p.val d s)

/-- TRANSPORT_TIMEOUT: retransmitted, or after 8 attempts the connection fails (R281). -/
def ttimeoutEffect (p dev : Nat) (s : State) : State :=
  onEther p (fun u =>
    let c := getConn u p dev
    if c.flight.isEmpty then u
    else if 8 ≤ c.attempts then { u with lnk := { u.lnk with conns := mdel u.lnk.conns (connKey p dev) } }
    else resendFlight p dev (setConn p dev { halve c with attempts := c.attempts + 1 } u)) s

/-- TRANSPORT_TIMEOUT (R281). -/
def execTransportTimeout (p : Fin 16) (dev : Fin 16384) (s : State) : Res := .next (ttimeoutEffect p.val dev.val s)

/-- TRANSPORT_ACK_TIMER: 8 µs after the last acknowledgement (R281). -/
def tackTimerEffect (p dev : Nat) (s : State) : State :=
  onEther p (fun u =>
    let c := getConn u p dev
    if c.since = 0 then u else sendDatagram p dev (mkDatagram u p dev 2 c.psn []) u) s

/-- TRANSPORT_ACK_TIMER (R281). -/
def execTransportAckTimer (p : Fin 16) (dev : Fin 16384) (s : State) : Res := .next (tackTimerEffect p.val dev.val s)

/-! ### ICMPv6 (R278, R279) -/

/-- An ICMPv6 message with its checksum over the pseudo-header (RFC 4443): type, code, body. -/
def icmp6 (src dst : BitVec 128) (type : Nat) (body : List Byte) : List Byte :=
  let msg (ck : Nat) : List Byte := [BitVec.ofNat 8 type, 0] ++ Crypto.beBytes 2 ck ++ body
  msg (ipSum src dst 58 (msg 0))

/-- ICMPV6_ECHO_REQUEST for the device's own address (R278). -/
def icmpEchoEffect (p : Nat) (dst src : BitVec 128) (payload : List Byte) (s : State) : State :=
  etherIn p (fun u => if dst = ipv6 u p then putEther p (.icmp p (etherFrame u p dst src 58 (icmp6 dst src 129 payload))) u else u) s

/-- ICMPV6_ECHO_REQUEST (R278). -/
def execIcmpv6EchoRequest (p : Fin 16) (dst src : BitVec 128) (payload : List Byte) (s : State) : Res :=
  .next (icmpEchoEffect p.val dst src payload s)

/-- NEIGHBOUR_SOLICITATION for the device's own address: a solicited advertisement with the port's MAC (R278). -/
def neighbourEffect (p : Nat) (target src : BitVec 128) (s : State) : State :=
  etherIn p (fun u => if target = ipv6 u p then
    let mac := Crypto.beBytes 6 (regFld u (lp p 0) 0x230 47 0)
    let msg := icmp6 target src 136 ([0x60, 0, 0, 0] ++ Crypto.beBytes 16 target.toNat ++ [2, 1] ++ mac)
    putEther p (.icmp p (etherFrame u p target src 58 msg)) u else u) s

/-- NEIGHBOUR_SOLICITATION (R278). -/
def execNeighbourSolicitation (p : Fin 16) (target src : BitVec 128) (s : State) : Res :=
  .next (neighbourEffect p.val target src s)

end Sys2Proof.Machine
end

