-- ==== Sys2Proof/Machine/Measure.lean ====
section
/-! DEFINITION. The MRAM store and its journal (R385, R386), the firmware images of SPI NOR (R369, R370), the keys the Last holds
(R372), the measurement blocks of Table 13.3 (R374) in the DMTF measurement format, and the words of MAPOUT_TAB (Table
12.13). -/

namespace Sys2Proof.Machine

/-! ### Keys (R372) -/

/-- A key as MRAM holds it: sealed with AES-256-GCM under a key derived from the device secret, with its tag. -/
def sealed (n : BitVec 96) (bs : List Byte) : List Byte :=
  let key := Config.derivedKey Config.deviceSecret 0
  let body := gcmData key n bs
  body ++ toLe 16 (gcmMark key n [] body).toNat

/-- What MRAM holds of the DIK, of the RSK and KTK of the owner period, and of the OCK. -/
def sealedKeys (s : State) : List (List Byte) :=
  let one (k gen : Nat) : List Byte := sealed (Config.sealNonce k gen) (Config.privateKey k gen)
  [one 0 0, one 1 s.sec.keyGen, one 2 s.sec.keyGen, sealed (Config.sealNonce 3 s.sec.epoch) s.sec.ock]

/-! ### The MRAM store (R385, R386) -/

/-- The objects of the store as they stand; a ceiling that has been committed counts (R384). -/
def storeOf (s : State) : Store :=
  let x := s.sec
  { owned := x.owned, epoch := x.epoch, ock := x.ock, counter := x.counter, stored := x.stored, svnCount := x.svnCount,
    recalCount := x.recalCount, ceilCount := x.ceilCount, fwSvn := x.fwSvn, awlSvn := x.awlSvn,
    ceil := x.ceilNext.getD s.pwr.ceil, keyGen := x.keyGen, vtRec := x.vtRec, calRec := x.calRec, active := x.active,
    lastPend := x.lastPend, lastTrial := x.lastTrial, undo := x.undo, keys := sealedKeys s,
    recSeq := s.rel.seq, faultLog := s.rel.faultLog, hist := s.rel.hist, mapTab := s.rel.mapTab, opMin := s.rel.opMin,
    lastLockstep := s.rel.lastLockstep, life := s.mtr.life, firkinSeq := s.mtr.seq, kept := s.mtr.kept }

/-- A change record appended to the active half, its commit word written last. -/
def appendRec (r : JRec) (x : Sec) : Sec :=
  if x.half then { x with halfB := { x.halfB with recs := x.halfB.recs ++ [r] } }
  else { x with halfA := { x.halfA with recs := x.halfA.recs ++ [r] } }

/-- A change of `n` bytes, made in the state already, appended to the active half of the MRAM journal, or held in the Last's
SRAM while a compaction runs; a half more than 75 % full is compacted (R385, R386). -/
def journal (n : Nat) (s : State) : State :=
  let x := s.sec
  let m := n + Config.journalBytes
  if x.compacting then { s with sec := { x with heldBytes := x.heldBytes + m } }
  else
    let y := appendRec { value := storeOf s, bytes := m } x
    { s with sec := { y with used := x.used + m, compacting := decide (25165824 < x.used + m) } }

/-- Replay: record after record up to the first without its commit word, or whose CRC or HMAC fails; a failing HMAC is
tampering. -/
def replayRecs : Store → List JRec → Store × Bool
  | v, [] => (v, false)
  | v, r :: rs =>
    if r.committed = false ∨ r.crcOk = false then (v, false)
    else if r.macOk = false then (v, true)
    else replayRecs r.value rs

/-- The half that is active: of those whose header and snapshot verify, the one with the highest generation. -/
def activeHalf (x : Sec) : Bool := x.halfB.good && (!x.halfA.good || decide (x.halfA.gen < x.halfB.gen))

/-- The store as the ROM opens it at start-up, and whether it was tampered with. -/
def replay (x : Sec) : Store × Bool :=
  let h := if activeHalf x then x.halfB else x.halfA
  replayRecs h.snap h.recs

/-! ### Firmware images (R369, R370) -/

/-- The image in a slot of SPI NOR. -/
def imageOf (s : State) (g slot : Nat) : List Byte := (mfind s.sec.nor (2 * g + slot)).getD (Config.norImage g slot)

/-- Header word `i` of an image (Table 13.1). -/
def imgWord (s : State) (g slot i : Nat) : Nat := leNat (((imageOf s g slot).drop (8 * i)).take 8)

/-- SVN, VERSION and LENGTH of the image in a slot. -/
def imageSvn (s : State) (g slot : Nat) : Nat := nfld (imgWord s g slot 0) 55 48
def imageVersion (s : State) (g slot : Nat) : Nat := nfld (imgWord s g slot 1) 31 0
def imageLen (s : State) (g slot : Nat) : Nat := nfld (imgWord s g slot 1) 63 32

/-- The body of an image, and the image whole, its signature included. -/
def imageBody (s : State) (g slot : Nat) : List Byte := ((imageOf s g slot).take (imageLen s g slot)).drop 64
def imageBytes (s : State) (g slot : Nat) : List Byte := (imageOf s g slot).take (imageLen s g slot + 384)

/-- The image in a slot is valid (R370): it is whole, its signature verifies under the firmware signing key, STEPPING is 0xB0, GROUP
names the slot, and its SVN is not below the firmware security version. -/
def slotGood (s : State) (g slot : Nat) : Bool :=
  let bs := imageBytes s g slot
  let n := imageLen s g slot
  let w := imgWord s g slot 0
  decide (64 ≤ n ∧ bs.length = n + 384 ∧ nfld w 31 0 = 0x4D494B47 ∧ nfld w 39 32 = g ∧ nfld w 47 40 = 0xB0 ∧
    s.sec.fwSvn ≤ imageSvn s g slot) && Config.pssVerify 0 (bs.take n) (bs.drop n)

/-- An image written into a slot of SPI NOR (R360 and R371, step 1). No command of the table writes one (log 15). -/
def writeImage (g slot : Nat) (bs : List Byte) (s : State) : State :=
  { s with sec := { s.sec with nor := mput s.sec.nor (2 * g + slot) bs } }

/-! ### Records in the form of R324 -/

/-- SEQ of a record. -/
def vtSeq (r : List Byte) : Nat := leNat ((r.drop 4).take 4)

/-- A record of a kind, told by its MAGIC, is valid: its CHIP_ID matches the die, and its signature verifies under the production
key (R325, R389). -/
def recValid (magic : Nat) (r : List Byte) : Bool :=
  r.length == 832 && leNat (r.take 4) == magic && word (leNat ((r.drop 8).take 8)) == Config.chipId &&
  Config.pssVerify 2 (r.take 448) (r.drop 448)

/-- The valid record with the highest SEQ of a list. -/
def newestRec (magic : Nat) (rs : List (List Byte)) : Option (List Byte) :=
  (rs.filter (recValid magic)).foldl (fun b r => match b with
    | none => some r
    | some x => if vtSeq x ≤ vtSeq r then some r else some x) none

/-- The calibration record in use: production's or a replacement (R389). Where neither is valid the meter goes on with production's
(DESIGN CHOICE, log 143). -/
def calInUse (s : State) : List Byte := (newestRec Config.calMagic (Config.calRecord :: s.sec.calRec.toList)).getD Config.calRecord

/-! ### Measurements (R374) -/

/-- The part number of the module, padded to 16 bytes (R417, R420). -/
def partNumber : List Byte :=
  "NDM-GKM8-384L".toList.map (fun c => BitVec.ofNat 8 c.toNat) ++ [0, 0, 0]

/-- MAPOUT_TAB entry `i`. -/
def mapTabWord (s : State) (i : Nat) : Word :=
  match s.rel.mapTab[i]? with
  | some m => word (m.code + m.inst * 65536 + m.unit * 2 ^ 24 + 2 ^ 32 + b2n m.forced * 2 ^ 33 + m.minute % 2 ^ 24 * 2 ^ 40)
  | none => 0

/-- The slot, 0 for A or 1 for B, in which a firmware group runs; group 5 is the Last. -/
def fwSlot (s : State) (g : Nat) : Nat := s.sec.active / 2 ^ g % 2

/-- A measurement block: value type (bit 7 for a raw value) and value (PRESUMED from DMTF DSP0274, log 40). -/
def measBlock (i type : Nat) (v : List Byte) : List Byte :=
  [BitVec.ofNat 8 i, 1] ++ toLe 2 (v.length + 3) ++ [BitVec.ofNat 8 type] ++ toLe 2 v.length ++ v

/-- The digest of 32 bytes of a 256-bit value, most significant byte first. -/
def digestBytes (d : BitVec 256) : List Byte := Crypto.beBytes 32 d.toNat

/-- The value of measurement block `i`, with its DMTF value type (Table 13.3). -/
def measValue (s : State) (i : Nat) : Nat × List Byte :=
  let fw (g : Nat) : List Byte := Crypto.sha256 (imageBytes s g (fwSlot s g))
  match i with
  | 1 => (0x82, 0xB0#8 :: wordBytes Config.chipId)
  | 2 => (0x00, digestBytes Config.romDigest)
  | 3 => (0x01, fw 5)
  | 9 => (0x87, [BitVec.ofNat 8 s.sec.fwSvn, BitVec.ofNat 8 s.sec.awlSvn])
  | 10 => (0x83, toLe 4 (s.sec.vtUse.getD 0) ++ [BitVec.ofNat 8 (b2n s.sec.vtUse.isSome)])
  | 11 => (0x03, Crypto.sha256 (s.sec.packs.flatMap (fun x => toLe 2 x.1 ++ toLe 2 x.2.1 ++ digestBytes x.2.2)))
  | 12 => (0x02, Crypto.sha256 ((List.range 256).flatMap (fun j => wordBytes (mapTabWord s j))))
  | 13 => (0x85, [BitVec.ofNat 8 (b2n s.sec.owned), BitVec.ofNat 8 s.sec.epoch])
  | 14 => (0x83, [BitVec.ofNat 8 s.sec.epoch, BitVec.ofNat 8 s.sec.svnCount, BitVec.ofNat 8 s.sec.recalCount,
                  BitVec.ofNat 8 s.sec.ceilCount] ++ toLe 2 s.pwr.ceil)
  | 15 => (0x83, toLe 4 s.mtr.calSeq)
  | _ => (0x01, fw (i - 4))

/-- Measurement block `i` in DMTF measurement format. -/
def measBytes (s : State) (i : Nat) : List Byte := measBlock i (measValue s i).1 (measValue s i).2

/-- All fifteen blocks. -/
def measAll (s : State) : List Byte := (List.range 15).flatMap (fun i => measBytes s (i + 1))

end Sys2Proof.Machine
end

