-- ==== Sys2Proof/Machine/Meter.lean ====
section
/-! DEFINITION. The energy meter, the attribution of energy to jobs, requests and firkin records (R387-R395). -/

namespace Sys2Proof.Machine

def pwr1 : Nat := pageOf .pwr 0 1

/-! ### Activity (R316, R390) -/

/-- Length of a tick in nanoseconds. -/
def tickNs (s : State) : Nat := regFld s (pageOf .tck 0 0) 0x200 6 0 * 1000

/-- Activity energy of a job over a list of activity classes. -/
def actOf (s : State) (job : Nat) (cs : List Nat) : Nat :=
  (cs.map (fun c => Config.powerCoef c * mget s.act (job * 16 + c) 0)).sum

/-- The slot of a job for the order of ties; a job without one comes after. -/
def slotNo (s : State) (job : Nat) : Nat := (slotOfJob s job).getD 32

/-- The activity of every job but 0 in the tick in hand: slot, job, compute, memory, links. -/
def tickActs (s : State) : List (Nat × Nat × Nat × Nat × Nat) :=
  let jobs := ((s.act.map (fun x => x.1 / 16)).eraseDups).filter (· ≠ 0)
  sortBy (fun a b => a.1 ≤ b.1)
    (jobs.map (fun j => (slotNo s j, j, actOf s j [0, 1, 2, 3, 4], actOf s j [5, 6, 7, 8], actOf s j [9])))

/-- The raw power estimate of the tick in hand, in watts (R316). -/
def rawWatts (s : State) : Nat :=
  Config.powerStatic + (s.act.map (fun x => Config.powerCoef (x.1 % 16) * x.2)).sum

/-- The raw estimate of the tick in hand over `ns` nanoseconds of it, in nanojoules: the activity counted in it, and the
static terms over that time. -/
def rawEnergy (s : State) (ns : Nat) : Nat := Config.powerStatic * ns + (rawWatts s - Config.powerStatic) * tickNs s

/-- A level of Table 11.3 stands below its top. -/
def belowTop (s : State) : Bool := decide (s.pwr.mclk < 3000 ∨ s.pwr.duty < 16 ∨ s.pwr.mem < 100)

/-- The part of the tick in hand up to `ns` nanoseconds after its start is closed off. -/
def closePart (ns : Nat) (s : State) : State :=
  let m := s.mtr
  let t := { m.cur with num := s.tck.num, dur := ns - m.cut, capped := belowTop s, acts := tickActs s,
                        raw := rawEnergy s (ns - m.cut), rest := m.split }
  { s with act := [], mtr := { m with ticks := m.ticks ++ [t], cur := {}, cut := ns } }

/-- Phase M: the closing tick's activity is fixed (R390), and the wall clock and the count of the reference go on by its
length. -/
def closeTick (s : State) : State :=
  let s1 := closePart (tickNs s) s
  { s1 with mtr := { s1.mtr with cut := 0, split := false }, sec := { s1.sec with time := s1.sec.time.map (· + tickNs s) },
            sys := { s1.sys with tickTime := s1.sys.tickTime + tickNs s / 10 } }

/-! ### Samples (R387-R390) -/

/-- The shares of `e` microjoules among the activities of a tick: each rounded down, and the rest one each to the largest
fractional parts, ties in the order given. -/
def shares (e : Nat) (acts : List Nat) : List Nat :=
  let sum := acts.sum
  let lo := acts.map (fun a => e * a / sum)
  let left := e - lo.sum
  let order := sortBy (fun x y => decide (e * y.2 % sum ≤ e * x.2 % sum)) ((List.range acts.length).zip acts)
  let up := (order.take left).map (·.1)
  (List.range acts.length).map (fun i => lo.getD i 0 + (if up.contains i then 1 else 0))

/-- A request takes its part of a tick (R392). -/
def Req.take (t : TickE) (parts : List (Nat × Nat × Nat × Nat)) (r : Req) : Req :=
  if t.num < r.start ∨ r.last.any (fun l => decide (l < t.num)) = true then r else
  let p := ((parts.find? (fun x => x.1 == r.job)).map (·.2)).getD (0, 0, 0)
  { r with comp := r.comp + p.1, memE := r.memE + p.2.1, link := r.link + p.2.2, dev := r.dev + t.e, peak := max r.peak t.peak,
           capTicks := r.capTicks + b2n t.capped, low := r.low || t.low, fault := r.fault || t.fault }

/-- The energy of a tick attributed (R390); what follows the start of the fail-quiet sequencer goes to overhead (R391). -/
def giveTick (t : TickE) (m : Mtr) : Mtr :=
  let flat := t.acts.flatMap (fun a => [a.2.2.1, a.2.2.2.1, a.2.2.2.2])
  if t.rest then { m with overhead := m.overhead + t.e }
  else if flat.sum = 0 then
    let f := Req.take t []
    { m with overhead := m.overhead + t.e, runs := m.runs.map f, ended := m.ended.map f }
  else
    let sh := shares t.e flat
    let parts := ((List.range t.acts.length).zip t.acts).map (fun z =>
      (z.2.2.1, sh.getD (3 * z.1) 0, sh.getD (3 * z.1 + 1) 0, sh.getD (3 * z.1 + 2) 0))
    let f := Req.take t parts
    { m with runs := m.runs.map f, ended := m.ended.map f }

/-- The lengths of a sample of 100 microseconds in each tick it covers, oldest first, given the closed ticks and the
nanoseconds of it in the tick in hand; what is left lies before the first. -/
def sampleLens (ticks : List TickE) (inCur : Nat) : Nat × List Nat :=
  let r := ticks.reverse.foldl (fun (acc : Nat × List Nat) t => let n := min t.dur acc.1; (acc.1 - n, n :: acc.2))
    (100000 - min 100000 inCur, [])
  r

/-- Energy spread over lengths in time order, the earlier part rounded down (R390). -/
def spread : Nat → Nat → List Nat → List Nat
  | _, _, [] => []
  | e, tot, n :: ns => let x := if tot = 0 then 0 else e * n / tot; x :: spread (e - x) (tot - n) ns

/-- A reading of a channel, 0 voltage and 1 current: its 24-bit sample under the gain and offset in use, in nanovolts or
nanoamperes (R387, R389). -/
def reading (s : State) (ch : Nat) (raw : BitVec 24) : Nat :=
  ((raw.toNat : Int) * Config.calGain (calInUse s) ch + Config.calOffset (calInUse s) ch).toNat

/-- One meter sample (R387): the product V x I x 100 microseconds with its fraction, the reading registers, PWR's
reconciliation (R316), and the ticks it completes. -/
def sampleEffect (rawV rawI : BitVec 24) (sinceNs : Nat) (fault : Bool) (s : State) : State :=
  if s.sys.powered = false then s else
  let m := s.mtr
  let v := reading s 0 rawV
  let i := reading s 1 rawI
  let tot := m.carry + v * i
  let e := tot / 10 ^ 16
  let mW := v * i / 10 ^ 15
  let low := decide (mW < 300000)
  let w := mW / 1000
  let inCur := min 100000 (sinceNs - m.cut)
  let lens := sampleLens m.ticks inCur
  let parts := spread e 100000 (lens.1 :: lens.2)
  let mark (t : TickE) (x n : Nat) : TickE :=
    if n = 0 then t else { t with e := t.e + x, peak := max t.peak w, low := t.low || low, fault := t.fault || fault }
  let done := (m.ticks.zip ((parts.drop 1).zip lens.2)).map (fun z => mark z.1 z.2.1 z.2.2)
  let m1 := { m with carry := tot % 10 ^ 16, total := m.total + e, samples := m.samples + 1, valid := true, mW := mW, low := low,
                     fault := fault, calSeq := vtSeq (calInUse s), ticks := [], overhead := m.overhead + parts.headD 0,
                     cur := mark m.cur (e - parts.sum) inCur }
  let p := s.pwr
  let raw := ((m.ticks.zip lens.2).map (fun z => if z.1.dur = 0 then 0 else z.1.raw * z.2 / z.1.dur)).sum + rawEnergy s inCur
  let k := if raw = 0 then p.k else Num.r32 (Num.divVal (Num.ofNat (v * i)) (Num.ofNat (10 ^ 13 * raw)))
  let s1 : State := { s with mtr := done.foldl (fun u t => giveTick t u) m1,
                             pwr := { p with vin := v / 10 ^ 6, iin := i / 10 ^ 7, measured := w, k := k, rawAcc := raw } }
  if fault then raise pwr1 10 0 s1 else s1

/-- METER_SAMPLE (R387); a channel that saturates or fails its self-check makes the sample faulty (R388). -/
def execMeterSample (rawV rawI : BitVec 24) (sinceNs : Nat) (faultV faultI : Bool) (s : State) : Res :=
  .next (sampleEffect rawV rawI sinceNs (faultV || faultI) s)

/-! ### Requests (R391, R393) -/

/-- The wall clock in nanoseconds, if it has been set (R341, Table 13.4). -/
def wallNs (s : State) : Option Nat := s.sec.time

/-- Entries in use (R393). -/
def reqEntries (s : State) : Nat := s.mtr.staged.length + s.mtr.runs.length + s.mtr.ended.length

/-- The running requests that satisfy `p` end with tick `last` (R391). -/
def endRuns (p : Req → Bool) (last : Nat) (trunc : Bool) (s : State) : State :=
  let m := s.mtr
  let go := (m.runs.filter p).map (fun r => { r with last := some last, trunc := trunc, time := (wallNs s).map (· / 1000000) })
  { s with mtr := { m with runs := m.runs.filter (fun r => !p r), ended := m.ended ++ go } }

/-- A write of REQ_CTL (R391, R393); OPEN asks for new work (R32). -/
def reqCtlEffect (slot : Nat) (v : Word) (s : State) : State :=
  let m := s.mtr
  let s1 := if bit v 1 ∧ m.closing.contains slot = false then { s with mtr := { m with closing := m.closing ++ [slot] } } else s
  if bit v 0 = false ∨ takesWork s pwr1 = false then s1
  else if (mfind m.staged slot).isNone ∧ 256 ≤ reqEntries s then raise pwr1 9 (0x280 + 8 * slot) s1
  else { s1 with mtr := { s1.mtr with staged := mput s1.mtr.staged slot (getReg s pwr1 (0x400 + 8 * slot)) } }

/-- OPEN (R391). -/
def execReqOpen (who : Initiator) (slot : Fin 32) (v : Word) (s : State) : Res :=
  .next (regGuard who pwr1 (0x280 + 8 * slot.val) (v ||| 1) (fun w t => reqCtlEffect slot.val w t) s)

/-- CLOSE (R391). -/
def execReqClose (who : Initiator) (slot : Fin 32) (v : Word) (s : State) : Res :=
  .next (regGuard who pwr1 (0x280 + 8 * slot.val) (v ||| 2) (fun w t => reqCtlEffect slot.val w t) s)

/-- Requests at a boundary, after the job table (R391): `closed` is the closing tick. -/
def reqBoundary (closed : Nat) (s : State) : State :=
  let gone (r : Req) : Bool := let j := getSlot s r.slot; !(j.active || j.closing) || fld j.w0 15 0 != r.job
  let ends (r : Req) : Bool := gone r || s.mtr.closing.contains r.slot ||
    ((mfind s.mtr.staged r.slot).isSome && (getSlot s r.slot).active)
  let s1 := endRuns ends closed false s
  let meas := BitVec.ofNat 128 (leNat ((Crypto.sha256 (measAll s1)).take 16))
  let start (u : State) (x : Nat × Word) : State :=
    let j := getSlot u x.1
    if j.active then
      let r : Req := { slot := x.1, job := fld j.w0 15 0, id := x.2, start := u.tck.num, calSeq := u.mtr.calSeq,
                       calCount := u.sec.recalCount, meas := meas }
      { u with mtr := { u.mtr with runs := u.mtr.runs ++ [r] } }
    else raise pwr1 8 0 u
  let s2 := s1.mtr.staged.foldl start s1
  { s2 with mtr := { s2.mtr with staged := [], closing := [] } }

/-! ### Firkin records (R392-R395) -/

/-- An ended request whose last tick has been covered by a sample (R393). -/
def reqReady (s : State) (r : Req) : Bool :=
  match r.last with
  | some l => !s.mtr.ticks.any (fun t => decide (t.num < l ∨ (t.num = l ∧ t.rest = false))) && (r.trunc || decide (l < s.tck.num))
  | none => false

/-- The body of a firkin record (Table 13.8). -/
def firkinBody (s : State) (seq : Nat) (r : Req) : List Byte :=
  wordsBytes [word (0x4E4B5246 + 2 ^ 32 + s.sec.epoch * 2 ^ 40 + devNum s * 2 ^ 48 + b2n (devValid s) * 2 ^ 62),
    word seq, Config.chipId,
    word (r.job + r.calSeq % 2 ^ 32 * 2 ^ 16 + r.calCount % 16 * 2 ^ 48 + b2n r.low * 2 ^ 52 + b2n r.fault * 2 ^ 53 +
      b2n r.trunc * 2 ^ 54 + b2n r.time.isSome * 2 ^ 55),
    r.id, word r.start, word (r.last.getD 0), word (r.comp + r.memE + r.link), word r.comp, word r.memE, word r.link,
    word r.dev, word (r.time.getD 0), word (r.peak % 2 ^ 32 + r.capTicks % 2 ^ 32 * 2 ^ 32),
    word (r.meas.toNat % 2 ^ 64), word (r.meas.toNat / 2 ^ 64)]

/-- The firkin ring's base, and the offset of slot `i` after its 64-byte head (R343, R395). -/
def firkinBase (s : State) : Nat := regFld s pwr1 0x230 49 12 * 4096
def firkinSlot (s : State) (i : Nat) : Nat := firkinBase s + 64 + 512 * i

/-- The head's WR and RD written to mirror FIRKIN_PTR. -/
def mirrorPtr (s : State) : State :=
  let q := getReg s pwr1 0x238
  if access s (firkinBase s) = .ok then wrBytes 2 (firkinBase s) (toLe 8 (fld q 9 0) ++ toLe 8 (fld q 25 16)) s else s

/-- The newest 16,384 records are kept; one displaced unread is lost (R395). -/
def keepFirkin (f : Firkin) (s : State) : State :=
  let all := s.mtr.kept ++ [f]
  if all.length ≤ 16384 then { s with mtr := { s.mtr with kept := all } } else
  let s1 : State := { s with mtr := { s.mtr with kept := all.drop 1 } }
  match all with
  | old :: _ => if old.read then s1 else raise pwr1 11 0 (setReg pwr1 0x250 (word old.seq) s1)
  | [] => s1

/-- FIRKIN_SIGN: the earliest ended request that is ready is signed and written (R392-R395). -/
def firkinEffect (s : State) : State :=
  match s.mtr.ended.find? (reqReady s) with
  | none => s
  | some r =>
    let seq := s.mtr.seq + 1
    let body := firkinBody s seq r
    let bytes := body ++ Config.pssSign (1 + s.sec.keyGen) body
    let q := getReg s pwr1 0x238
    let wr := fld q 9 0
    let room := decide ((wr + 1) % 1024 ≠ fld q 25 16) && access s (firkinSlot s wr) == .ok && access s (firkinSlot s wr + 511) == .ok
    let s1 : State := { s with mtr := { s.mtr with seq := seq, ended := s.mtr.ended.erase r } }
    let s2 := if room then mirrorPtr (setReg pwr1 0x238 (setFld q 9 0 ((wr + 1) % 1024)) (wrBytes 2 (firkinSlot s wr) bytes s1))
      else setReg pwr1 0x248 (word seq) s1
    let s3 := keepFirkin { seq := seq, bytes := bytes, ring := if room then some wr else none, read := false } (journal 512 s2)
    intSet pwr1 1 (setReg pwr1 0x240 (word seq) s3)

/-- FIRKIN_SIGN (R392). -/
def execFirkinSign (s : State) : Res := .next (firkinEffect s)

/-- The ready records are signed: the Last's RSA engine takes firkin and CPER records in the order in which they are ready, so those
go before a CPER record that is ready now (R394). -/
def signReady (s : State) : State := s.mtr.ended.foldl (fun u _ => firkinEffect u) s

/-- Kept firkin records marked read; the marks are kept with them (R386, R395). -/
def markRead (f : Firkin → Firkin) (s : State) : State :=
  let kept := s.mtr.kept.map f
  if kept = s.mtr.kept then s else journal 8 { s with mtr := { s.mtr with kept := kept } }

/-- A write of FIRKIN_PTR: RD moves, and the slots it passes count as read (R395). -/
def firkinPtrEffect (v : Word) (s : State) : State :=
  let q := getReg s pwr1 0x238
  let rd := fld q 25 16
  let new := fld v 25 16
  let passed (i : Nat) : Bool := decide ((i + 1024 - rd) % 1024 < (new + 1024 - rd) % 1024)
  let mark (f : Firkin) : Firkin := match f.ring with
    | some i => if passed i then { f with read := true, ring := none } else f
    | none => f
  mirrorPtr (setReg pwr1 0x238 (setFld q 25 16 new) (markRead mark s))

end Sys2Proof.Machine
end

