-- ==== Sys2Proof/Machine/Quiet.lean ====
section
/-! DEFINITION. The fail-quiet sequencer (R362-R364, Tables 12.9 and 12.10). -/

namespace Sys2Proof.Machine

def cblPage : Nat := pageOf .cbl 0 0

/-- Eight DOWN frames carrying the cause on an ACTIVE port, which then goes to DISABLED (R272, Table 12.10). -/
def downPort (cause p : Nat) (s : State) : State :=
  let s1 := if portActive s p = false ∨ portEth s p = true then s else
    (List.range 8).foldl (fun u _ => sendControl p 4 false (toLe 2 (devNum u) ++ [BitVec.ofNat 8 cause]) u) s
  portState p 0 false s1

/-- The content of HBM lines on these logical pseudo-channels is lost: they read as free values (R241, R244). -/
def loseLines (lpcs : List Nat) (s : State) : State :=
  { s with mem := memLose (.lines s.free (lpcCount s) lpcs) s.mem, free := s.free + 1 }

/-- The logical pseudo-channels on a stack. -/
def stackLpcs (s : State) (n : Nat) : List Nat := (List.range (lpcCount s)).filter (fun l => lpcMap s l % 8 == n)

/-- The controller leaves TEST: margin offsets return to zero, and the stack's contents are unspecified (R230, R244). -/
def leaveTest (n : Nat) (s : State) : State :=
  loseLines (stackLpcs s n) (setHbm n { getHbm s n with voff := 0, marginBusy := false } s)

/-- A controller goes to SELF_REFRESH, out of TEST if it was there; one that is there because of CRIT still leaves it by
itself (Table 8.2, R236). -/
def refreshOnly (n : Nat) (s : State) : State :=
  let h := getHbm s n
  let s1 := if h.state = 4 then leaveTest n s else s
  setHbm n { getHbm s1 n with state := 3, byCrit := h.state == 3 && h.byCrit } s1

/-- A controller enters SELF_REFRESH held by the sequencer (R230, Table 12.10). -/
def holdStack (n : Nat) (s : State) : State :=
  let s1 := refreshOnly n s
  setHbm n { getHbm s1 n with held := true } s1

/-- Every request is ended, truncated, at a moment of the tick in hand that is the device's (R391). -/
def truncateAll (s : State) : State :=
  let r := draw s
  let s1 := closePart (max s.mtr.cut (Config.choose r.1 % (tickNs s + 1))) r.2
  let s2 := endRuns (fun _ => true) s.tck.num true s1
  { s2 with mtr := { s2.mtr with staged := [], closing := [], split := true } }

/-- The sequencer starts, with a cause of Table 12.9; the first trigger counts, and the sequencer is armed from the rise
of RESET_N (R362, R363, R408). The event becomes the Last's FATAL record. -/
def failQuiet (cause kind locus : Nat) (page detail : Nat) (s : State) : State :=
  if s.rel.fqActive ∨ s.sys.released = false then s else
  let s1 := truncateAll s
  let again := decide (cause = 1) && s.rel.lastLockstep.any (fun m => decide (s.rel.opMin ≤ m + 1440))
  let sts := if kind = 0x10 then (1 + 256 * cause + 2 ^ 32 * tickLo s) * 2 ^ 64 else 0
  let bit' := if cause = 1 then 8 else if cause = 2 then 9 else 0
  let e := { mkEv page 3 kind with locus := locus, detail := detail + sts, tick := s.tck.num, toLast := true, errBit := bit' }
  let s2 : State := { s1 with
    rel := { s1.rel with fqActive := true, fqCause := cause, fqTick := s.tck.num,
                         lastLockstep := if cause = 1 then some s.rel.opMin else s.rel.lastLockstep,
                         noWarm := s.rel.noWarm || again, events := s1.rel.events ++ [e] },
    sys := { s1.sys with fault := true, phase := 15 } }
  let s3 := (List.range 16).foldl (fun u p => downPort cause p u) s2
  (List.range 8).foldl (fun u n => holdStack n u) s3

end Sys2Proof.Machine
end

