-- ==== Sys2Proof/Machine/Power.lean ====
section
/-! DEFINITION. PWR and CLK: the cap and its levels, the protective paths, clocks under judgement, temperatures
(R313-R338). -/

namespace Sys2Proof.Machine

def pwr0 : Nat := pageOf .pwr 0 0
def clkPage : Nat := pageOf .clk 0 0

/-! ### Levels (R317) -/

/-- MCLK_FLOOR, DUTY_FLOOR and MEM_FLOOR in effect (Table 11.8). -/
def Pwr.mclkFloor (p : Pwr) : Nat := fld p.floor 11 0
def Pwr.dutyFloor (p : Pwr) : Nat := fld p.floor 20 16
def Pwr.memFloor (p : Pwr) : Nat := fld p.floor 30 24
def Pwr.fixed (p : Pwr) : Bool := bit p.mode 0
def Pwr.boostEn (p : Pwr) : Bool := bit p.mode 1
/-- The cap in force, in watts. -/
def Pwr.limitW (p : Pwr) : Nat := 10 * min (fld p.cap 11 0) p.ceil

/-- Every level stands at its floor (R321). -/
def Pwr.atFloor (p : Pwr) : Bool := decide (p.mclk ≤ p.mclkFloor ∧ p.duty ≤ p.dutyFloor ∧ p.mem ≤ p.memFloor)

/-- A level of orders 2 to 4 stands below its top. -/
def Pwr.below (p : Pwr) : Bool := decide (p.mclk < 3000 ∨ p.duty < 16 ∨ p.mem < 100)

/-- The points of MCLK, ascending: the multiples of 100 MHz that the record in use lists (R324). -/
def Pwr.points (p : Pwr) : List Nat :=
  (p.vtArr.map (·.1)).filter (fun f => f % 100 == 0 && decide (1000 ≤ f ∧ f ≤ 3400))

/-- The lowest point at or above MCLK_FLOOR; with no record the safe point, where MCLK stands (R325). -/
def Pwr.lowPoint (p : Pwr) : Nat := (p.points.find? (fun f => decide (p.mclkFloor ≤ f))).getD p.mclk

/-- The next point down from MCLK that is not below its floor. -/
def Pwr.pointDown (p : Pwr) : Option Nat :=
  (p.points.filter (fun f => decide (p.mclkFloor ≤ f ∧ f < p.mclk))).getLast?

/-- One step cut from the highest level above its floor; none when all stand there (R317). -/
def Pwr.cutOne (p : Pwr) : Option Pwr :=
  if let some f := p.pointDown then some { p with mclk := f }
  else if p.dutyFloor < p.duty then some { p with duty := p.duty - 1 }
  else if p.memFloor < p.mem then some { p with mem := max (p.mem - 10) p.memFloor }
  else none

/-- Up to `n` steps cut, and how many were. -/
def Pwr.cut : Nat → Pwr → Pwr × Nat
  | 0, p => (p, 0)
  | n + 1, p => match p.cutOne with
    | none => (p, 0)
    | some q => let r := Pwr.cut n q; (r.1, r.2 + 1)

/-- Every level at its floor, without steps (Table 11.1, Table 11.7). -/
def Pwr.toFloors (p : Pwr) : Pwr :=
  { p with mclk := min p.mclk p.lowPoint, duty := min p.duty p.dutyFloor, mem := min p.mem p.memFloor, rise := none,
           settled := false }

/-- MCLK takes only listed frequencies (R324). -/
def Pwr.listed (p : Pwr) (f : Nat) : Bool := p.vtArr.any (fun x => x.1 == f)

/-- The voltage in mV that a point list gives a frequency (R324); 0 stands for the built-in one of a safe point. -/
def voltAt (pts : List (Nat × Nat)) (f : Nat) : Nat := ((pts.find? (fun x => x.1 == f)).map (·.2)).getD 0

/-- A rise to a point prepared: its rail begins to rise (R326). -/
def Pwr.prepareTo (f : Nat) (p : Pwr) : Pwr :=
  if p.rise.isNone then { p with rise := some f, settled := false, railArr := max p.railArr (voltAt p.vtArr f) } else p

/-- A ramp or a glide has ended (R326). In a rise the PLL glides up once the rail has settled, and the rise is ready when it has
settled too; otherwise, once the PLL has settled at the effective frequency, the rail may fall to that frequency's voltage. -/
def Pwr.ramped (pllSettled : Bool) (p : Pwr) : Pwr :=
  match p.rise with
  | some f => if pllSettled then { p with settled := true, pll := f } else { p with settled := false }
  | none => if pllSettled then { p with pll := p.mclk, railArr := voltAt p.vtArr p.mclk } else p

/-- The MCLK PLL glides: toward a pending rise, or down after a fall (R326). -/
def Pwr.gliding (p : Pwr) : Bool := p.rise.isSome || p.pll != p.mclk

/-- A boost point prepared: the one 100 MHz up, if it is listed (R322). -/
def Pwr.prepare (p : Pwr) : Pwr := if p.points.contains (p.mclk + 100) then p.prepareTo (p.mclk + 100) else p

/-- The lowest level below its top raised by one step (R317); MCLK only up to its top of 3.0 GHz. -/
def Pwr.restoreOne (p : Pwr) : Pwr :=
  if p.mem < 100 then { p with mem := min 100 (p.mem + 10) }
  else if p.duty < 16 then { p with duty := p.duty + 1 }
  else match p.points.find? (fun f => decide (p.mclk < f ∧ f ≤ 3000)) with
    | some f => p.prepareTo f
    | none => p

/-- Effective MCLK and FCLK, with the divider's protective reductions (R326-R329). -/
def Pwr.effM (p : Pwr) : Nat :=
  let f := if p.dropped then min p.mclk p.lowPoint else p.mclk
  if p.fastHalf || p.droopArr then f / 2 else f

def Pwr.effF (p : Pwr) : Nat := if p.droopFab then p.fclk / 2 else p.fclk

/-- A reduction in the middle of a tick noted: it counts as one below 3.0 GHz (R323). -/
def Pwr.noteSlow (p : Pwr) : Pwr := { p with slow := p.slow || decide (p.effM < 3000) }

/-! ### Temperatures (R335, R336) -/

def thermLim (s : State) (hi lo : Nat) : Int := regFld s pwr0 0x250 hi lo
def boostC (s : State) : Int := thermLim s 7 0
def throtC (s : State) : Int := thermLim s 15 8
def critC (s : State) : Int := thermLim s 23 16
def inletHiC (s : State) : Int := thermLim s 31 24
def inletCutC (s : State) : Int := thermLim s 39 32

/-- What sensor `i` is taken to read: after three failures THROT_C, and nothing before its first reading. -/
def sensorTemp (s : State) (i : Nat) : Option Int :=
  match mfind s.pwr.temps i with
  | none => none
  | some x => if 3 ≤ x.2 then some (throtC s) else if x.1 = 256 then none else some (toSigned 8 x.1)

/-- The hottest die sensor, the lower number on a tie, and its temperature. -/
def hottest (s : State) : Option (Nat × Int) :=
  (List.range 48).foldl (fun b i => match sensorTemp s i, b with
    | none, _ => b
    | some t, none => some (i, t)
    | some t, some u => if u.2 < t then some (i, t) else b) none

/-- THERM_ALERT on J4: asserted while a stack is at CRIT, a die sensor at or above CRIT_C, or the inlet at or above
INLET_CUT_C, unless a short has turned its driver off (R236, R336, R404). -/
def thermAlert (s : State) : Bool :=
  !s.mgt.shorts.contains 2 && (s.pwr.tjCrit || s.pwr.inletCut || (List.range 8).any (fun n => (getHbm s n).therm == 3))

/-- THERM_ALERT follows its conditions: a change of it appears on the pin. -/
def alertPin (before after : State) : State :=
  if thermAlert after = thermAlert before then after else emit (.thermAlert (thermAlert after)) after

/-- A condition that sets at a threshold and clears 3 degrees below it (R336). -/
def hyst (old : Bool) (t thr : Int) : Bool := if thr ≤ t then true else if t ≤ thr - 3 then false else old

/-- INT_STS.THERM on a change of THERM_LIMIT, INLET_HIGH or TJ_CRIT. -/
def thermInt (old : Pwr) (s : State) : State :=
  if old.thermLimit ≠ s.pwr.thermLimit ∨ old.inletHigh ≠ s.pwr.inletHigh ∨ old.tjCrit ≠ s.pwr.tjCrit then intSet pwr0 2 s else s

/-- A reading of one sensor: a failed one counts, and the third in succession sets SENSOR_FAIL. -/
def readSensor (s : State) (x : Nat × Option Int) : State :=
  let old := mget s.pwr.temps x.1 (256, 0)
  match x.2 with
  | some t => { s with pwr := { s.pwr with temps := mput s.pwr.temps x.1 ((t % 256).toNat, 0) } }
  | none =>
    let s1 : State := { s with pwr := { s.pwr with temps := mput s.pwr.temps x.1 (old.1, old.2 + 1) } }
    if old.2 = 2 then raise pwr0 14 0 s1 else s1

/-- The thermal limits applied to the hottest sensor (Table 11.7). -/
def dieEffect (readings : List (Option Int)) (s : State) : State :=
  if s.sys.powered = false then s else
  let old := s.pwr
  let s1 := ((List.range 48).zip readings).foldl readSensor s
  match hottest s1 with
  | none => s1
  | some (i, t) =>
    let p := s1.pwr
    let crit := hyst p.tjCrit t (critC s1)
    let q := { p with maxTj := max p.maxTj t.toNat, thermLimit := hyst p.thermLimit t (throtC s1), tjCrit := crit }
    let q1 := (if critC s1 ≤ t then { q with dropped := true, rise := none, settled := false } else q).noteSlow
    let s2 := thermInt old { s1 with pwr := q1 }
    let s3 := if crit ∧ old.tjCrit = false then
        raiseEv pwr0 13 0 { mkEv pwr0 4 0x0C with locus := i, detail := t.toNat } s2 else s2
    let s4 := alertPin s s3
    if 120 ≤ t then failQuiet 3 0x0C i pwr0 t.toNat s4 else s4

/-- DIE_TEMP_READ (R335, R336). -/
def execDieTempRead (readings : List (Option Int)) (s : State) : Res := .next (dieEffect readings s)

/-- INLET_READ (R335, R336): INLET_HIGH sets above its threshold. -/
def inletEffect (inlet outlet : Int) (s : State) : State :=
  if s.sys.powered = false then s else
  let old := s.pwr
  let high := if inletHiC s < inlet then true else if inlet ≤ inletHiC s - 3 then false else old.inletHigh
  alertPin s (thermInt old
    { s with pwr := { old with inlet := some inlet, outlet := some outlet, inletHigh := high,
                               inletCut := hyst old.inletCut inlet (inletCutC s) } })

/-- INLET_READ (R335). -/
def execInletRead (inlet outlet : Int) (s : State) : Res := .next (inletEffect inlet outlet s)

/-! ### The decision at E4 (R315-R323) -/

/-- P_EST of the closing tick (R316). -/
def estimate (s : State) : State :=
  { s with pwr := { s.pwr with pEst := Num.floorNat (Num.mul (Num.d32 s.pwr.k) (Num.ofNat (rawWatts s))) } }

/-- Registers written since the last E4 take effect, and with them a new ceiling (R315, R337, R384). -/
def loadPwrRegs (s : State) : State :=
  let ceil := s.sec.ceilNext.getD s.pwr.ceil
  let cap := getReg s pwr0 0x200
  let s1 := if s.sec.ceilNext.isSome ∧ ceil < fld cap 11 0 then setReg pwr0 0x200 (setFld cap 11 0 ceil) s else s
  { s1 with sec := { s1.sec with ceilNext := none },
            pwr := { s1.pwr with ceil := ceil, cap := getReg s1 pwr0 0x200, mode := getReg s1 pwr0 0x210,
                                 floor := getReg s1 pwr0 0x218, loop := getReg s1 pwr0 0x220, fast := getReg s1 pwr0 0x240,
                                 droop := getReg s1 pwr0 0x248 } }

/-- With FIXED a boost point is removed as a cut: MCLK goes to the highest listed point up to 3.0 GHz (R323, R324). -/
def dropBoost (p : Pwr) : Pwr × Nat :=
  if p.fixed ∧ 3000 < p.mclk then
    let f := ((p.points.filter (fun f => decide (f ≤ 3000))).getLast?).getD p.mclk
    ({ p with mclk := f, rise := none, settled := false }, (p.mclk - f) / 100)
  else if p.fixed ∧ p.rise.any (fun f => decide (3000 < f)) = true then ({ p with rise := none, settled := false }, 0)
  else (p, 0)

/-- Boost is allowed (R322). -/
def boostAllowed (s : State) (p : Pwr) : Bool :=
  p.boostEn && !p.fixed && decide (p.duty = 16 ∧ p.mem = 100 ∧ 3000 ≤ p.mclk ∧ p.mclk < 3400) &&
  decide (p.pEst + fld p.loop 11 0 + fld p.loop 27 16 ≤ p.limitW) &&
  (match hottest s with | some x => decide (x.2 < boostC s) | none => true) && decide (64 ≤ p.sinceTrip)

/-- The excess over the cap in watts (R318): heat and trips count as excess. -/
def excess (s : State) (p : Pwr) : Int :=
  let step := fld p.loop 11 0
  let o0 : Int := (p.pEst : Int) - p.limitW
  let hot := (match hottest s with | some x => decide (throtC s ≤ x.2) | none => false) ||
    (match p.inlet with | some t => decide (inletCutC s ≤ t) | none => false)
  let o1 := if hot then max o0 step else o0
  if p.trip then max o1 (fld p.loop 35 32 * step : Nat) else o1

/-- The levels of the new tick, and the steps cut (R318). -/
def decideLevels (s : State) (p0 : Pwr) : Pwr × Nat :=
  let b := dropBoost p0
  let p := b.1
  let exc := excess s p
  let step := max 1 (fld p.loop 11 0)
  if p.dropped then
    let q := p.toFloors
    (q, b.2 + (p.mclk - q.mclk) / 100 + (p.duty - q.duty) + (p.mem - q.mem) / 10)
  else if 0 < exc then
    let r := Pwr.cut (min (fld p.loop 35 32) (cdiv exc.toNat step)) { p with rise := none, settled := false }
    (r.1, b.2 + r.2)
  else
    let q := match p.rise with
      | some f => if p.settled then { p with mclk := f, rise := none, settled := false } else p
      | none => p
    let q1 := if exc < -(fld p.loop 27 16 : Int) ∧ p.trip = false then q.restoreOne else q
    (if b.2 = 0 ∧ boostAllowed s q1 = true then q1.prepare else q1, b.2)

/-- A level below its top because of the cap: set by a cut under an excess over the cap itself, held until every level of
orders 2 to 4 is at its top. -/
def capMark (p q : Pwr) (cuts : Nat) : Bool :=
  q.below && (p.capLimit || (decide (0 < cuts) && decide (p.limitW < p.pEst)))

/-- PWR's limit on every controller (R238). -/
def setPwrThrot (s : State) : State :=
  (List.range 8).foldl (fun u n => setHbm n { getHbm u n with pwrThrot := s.pwr.mem } u) s

/-- BUDGET for a frequency in MHz (R171). -/
def budgetOf (s : State) (f : Nat) : Nat :=
  let c := getReg s (pageOf .tck 0 0) 0x200
  (100 * fld c 6 0 - fld c 23 16) * f / 100

/-- The notice of a member slowed by the cap, or recovered (R309). -/
def capNotice (s : State) : State :=
  let slow := s.pwr.capLimit && decide (s.pwr.mclk < 3000)
  let known := s.lnk.slow.contains 0x10
  if slow && !known then
    slowNotice 2 0x10 (1000 - s.pwr.mclk * 1000 / 3000 - (if s.pwr.mclk * 1000 % 3000 = 0 then 0 else 1)) s.tck.num
      { s with lnk := { s.lnk with slow := s.lnk.slow ++ [0x10] } }
  else if !slow && known then
    slowNotice 3 0x10 0 s.tck.num { s with lnk := { s.lnk with slow := s.lnk.slow.filter (· ≠ 0x10) } }
  else s

/-- Counters of the tick that starts (Table of R337); `slow` says that the tick that ends ran below 3.0 GHz, at its start or later,
in fixed-frequency mode (R323). -/
def pwrCounts (cuts : Nat) (slow : Bool) (s : State) : State :=
  let p := s.pwr
  let c (i : Nat) (b : Bool) (u : State) : State := if b then bump pwr0 0 i 1 u else u
  c 7 p.atFloor (c 6 slow (c 5 p.thermLimit (c 2 (decide (3000 < p.mclk))
    (bump pwr0 0 1 cuts (c 0 p.capLimit s)))))

/-- POWER_DECISION, phase E4 (R318, R326, R328): the levels, the clocks and the budgets of the new tick. With no valid
voltage table no point is listed, so that MCLK stays at its safe point and the other levels go on (R325). -/
def powerDecision (s : State) : State :=
  let slow := s.pwr.fixed && s.pwr.slow
  let s1 := loadPwrRegs s
  let r := decideLevels s1 { s1.pwr with sinceTrip := if s1.pwr.trip then 0 else s1.pwr.sinceTrip + 1 }
  let q := r.1
  let cap := capMark s1.pwr q r.2
  let q0 := { q with capLimit := cap, fastHalf := false, dropped := false, trip := false,
                     floorTicks := if q.atFloor then q.floorTicks + 1 else 0 }
  let q1 := { q0 with slow := decide (q0.effM < 3000) }
  let s2 := setPwrThrot { s1 with pwr := q1, tck := { s1.tck with mclk := q1.mclk, fclk := q1.fclk } }
  let s3 := if cap ∧ s1.pwr.capLimit = false then intSet pwr0 1 s2 else s2
  capNotice (pwrCounts r.2 slow s3)

/-! ### The commands of PWR -/

/-- A write of PWR_CAP (R315). -/
def pwrCapEffect (v : Word) (s : State) : State :=
  if fld v 11 0 < 100 ∨ s.pwr.ceil < fld v 11 0 then raise pwr0 8 0x200 s else storeReg pwr0 0x200 v s

/-- PWR_CAP_WRITE (R315). -/
def execPwrCapWrite (who : Initiator) (v : Word) (s : State) : Res :=
  .next (regGuard who pwr0 0x200 v (fun w t => pwrCapEffect w t) s)

/-- CAP_UNMET (R321): 64 ticks with every level at its floor and P_EST above the cap. -/
def capUnmetEffect (s : State) : State :=
  if s.pwr.floorTicks < 64 ∨ s.pwr.pEst ≤ s.pwr.limitW then s else
  raiseEv pwr0 10 0 { mkEv pwr0 4 5 with locus := 10, detail := (getReg s pwr0 0x200).toNat }
    { s with pwr := { s.pwr with floorTicks := 0 } }

/-- CAP_UNMET (R321). -/
def execCapUnmet (s : State) : Res := .next (capUnmetEffect s)

/-- DROOP (R327): detectors 0-15 of the quadrants stand on VDD_ARR, 16-19 of the VE groups on VDD_FAB. -/
def droopEffect (fabric : Bool) (det : Nat) (s : State) : State :=
  if s.sys.powered = false ∨ fabric ≠ decide (16 ≤ det) then s else
  let p := s.pwr
  let q := if fabric then { p with droopFab := true, trip := true } else { p with droopArr := true, trip := true }
  intSet pwr0 3 (bump pwr0 0 3 1 { s with pwr := q.noteSlow })

/-- DROOP (R327). -/
def execDroop (fabric : Bool) (det : Fin 20) (s : State) : Res := .next (droopEffect fabric det.val s)

/-- DROOP_RELEASE (R327): the rail has recovered and DROOP_HOLD has passed. -/
def execDroopRelease (fabric : Bool) (s : State) : Res :=
  .next { s with pwr := if fabric then { s.pwr with droopFab := false } else { s.pwr with droopArr := false } }

/-- The fast protector trips (R328). -/
def fastEffect (s : State) : State :=
  if s.sys.powered = false then s else
  bump pwr0 0 4 1 { s with pwr := Pwr.noteSlow { s.pwr with fastHalf := true, trip := true } }

/-- FAST_TRIP (R328). -/
def execFastTrip (s : State) : Res := .next (fastEffect s)

/-- OVER_CURRENT (R313): the input stage limits, and the fast protector trips. -/
def execOverCurrent (s : State) : Res := .next (fastEffect s)

/-- INPUT_RANGE: VIN in a warning band (Table 11.1). -/
def inputRangeEffect (milliV : Nat) (s : State) : State :=
  if s.sys.powered = true ∧ ((38000 ≤ milliV ∧ milliV < 40000) ∨ (60000 < milliV ∧ milliV ≤ 63000)) then raise pwr0 12 0 s else s

/-- INPUT_RANGE (R313). -/
def execInputRange (milliV : Nat) (s : State) : Res := .next (inputRangeEffect milliV s)

/-- INPUT_UV: every level goes to its floor at once (Table 11.1, R329). -/
def inputUvEffect (milliV : Nat) (s : State) : State :=
  if s.sys.powered = true ∧ milliV < 38000 then
    raise pwr0 11 0 (setPwrThrot { s with pwr := s.pwr.toFloors.noteSlow }) else s

/-- INPUT_UV (R313). -/
def execInputUv (milliV : Nat) (s : State) : Res := .next (inputUvEffect milliV s)

/-- RAIL_SETTLED (R326): with the PLL settled too, a pending rise is ready for the next E4; after a fall the rail follows. -/
def execRailSettled (pllSettled : Bool) (s : State) : Res := .next { s with pwr := s.pwr.ramped pllSettled }

/-! ### The voltage table (R324, R325) -/

/-- `n` points of a record from byte `b` up, those in use. -/
def vtPoints (r : List Byte) (b n : Nat) : List (Nat × Nat) :=
  (List.range n).map (fun i => (leNat ((r.drop (b + 4 * i)).take 2), leNat ((r.drop (b + 4 * i + 2)).take 2)))

/-- MAGIC, CHIP_ID and signature of a record (R325). -/
def vtValid (r : List Byte) : Bool :=
  recValid 0x56544231 r

/-- The record in use: of the stored ones, that of production test and a replacement, the valid one with the highest SEQ (Table
11.4); none when neither is valid. -/
def vtInUse (s : State) : Option (List Byte) :=
  newestRec 0x56544231 (Config.vtRecord :: s.sec.vtRec.toList)

/-- TRIM at a value, within its range: at either end TRIM_LIMIT is set (R333). -/
def setTrim (v : Int) (s : State) : State :=
  let t := max (-32767) (min 32767 v)
  let lim := decide (t = 32767 ∨ t = -32767)
  let s1 : State := { s with clk := { s.clk with trim := t, trimLimit := lim } }
  if lim ∧ s.clk.trimLimit = false then raise clkPage 11 0 s1 else s1

/-- PWR takes the points of the record in use and CLK its trim; with no valid record PWR stays at its safe points with VT_BAD
(R325, R331). The Last keeps the record's SEQ for its measurements (R374). -/
def takeVt (s : State) : State :=
  match vtInUse s with
  | some r =>
    let n (i : Nat) : Nat := min 32 (leNat ((r.drop (18 + i)).take 1))
    let trim := toSigned 16 (leNat ((r.drop 16).take 2))
    let p := { s.pwr with vt := some (vtSeq r), vtArr := vtPoints r 64 (n 0), vtFab := vtPoints r 192 (n 1),
                          vtCore := vtPoints r 320 (n 2), vtTrim := trim, fclk := 2400, cclk := 2400 }
    let f := p.lowPoint
    setTrim trim { s with
      sec := { s.sec with vtUse := some (vtSeq r) },
      pwr := { p with mclk := f, pll := f, railArr := voltAt p.vtArr f, railFab := voltAt p.vtFab 2400,
                      railCore := voltAt p.vtCore 2400 } }
  | none =>
    raise pwr0 15 0 (setTrim 0 { s with
      sec := { s.sec with vtUse := none },
      pwr := { s.pwr with vt := none, mclk := 1000, fclk := 1200, cclk := 1200, pll := 1000, railArr := 0, railFab := 0, railCore := 0 } })

/-! ### Clocks (R330-R333) -/

def tolPpm (s : State) : Nat := regFld s clkPage 0x200 9 0
def judgeWins (s : State) : Nat := regFld s clkPage 0x200 19 16

/-- N of a window of 4,096 cycles of the judging clock (R330). -/
def windowN (s : State) : Clock → Nat
  | .ref => 2048
  | .osc => 8192
  | .pll n =>
    let f := if n.val = 0 then s.pwr.pll else if n.val = 1 then s.pwr.fclk else if n.val = 2 then s.pwr.cclk else Config.pllMHz n.val
    f * 4096 / 100

/-- The deviation allowed; the reference is judged within 6 % until the oscillator's trim locks (R330, R331). -/
def windowTol (s : State) (c : Clock) : Nat :=
  if c = .ref ∧ s.clk.trimLock = false then windowN s c * 6 / 100 else windowN s c * tolPpm s / 1000000

/-- A window judged. -/
def Judge.window (j : Judge) (pass : Bool) (dev : Int) (wins : Nat) : Judge :=
  if pass then { passes := j.passes + 1, fails := 0, stable := j.stable || decide (wins ≤ j.passes + 1), dev := dev }
  else { j with passes := 0, fails := j.fails + 1, dev := dev }

/-- The PLL, by its bit of PLL_STS, whose clock an instance of a block needs (Tables 1.1, 1.3): MCLK for the arrays, the HBM and
SerDes PLLs for their controllers and ports, none in the always-on domain, and FCLK for the rest. -/
def pllOf (b : Block) (n : Nat) : Option Nat :=
  match b with
  | .arr => some 0
  | .hbm => some (3 + n)
  | .lnk => some (11 + n)
  | .pwr | .clk | .sec | .nvs | .cbl | .mgt => none
  | _ => some 1

/-- The block's PLL is stable, or it needs none (R331). -/
def pllGood (s : State) (page : Nat) : Bool :=
  match pageOwner page with
  | none => true
  | some (b, n, _) => match pllOf b n with
    | none => true
    | some i => (mget s.clk.plls i {}).stable

/-- A block whose EN_ACK is down cannot raise it while its PLL is not stable (R331). -/
def holdAck (page : Nat) (s : State) : State :=
  if pllGood s page then s else setBlk page { getBlk s page with ready := false } s

/-- The pages of the blocks that a PLL clocks. -/
def pllPages (n : Nat) : List Nat :=
  blockTable.flatMap (fun r => ((List.range r.insts).filter (fun i => pllOf r.block i == some n)).map (fun i => pageOf r.block i 0))

/-- A PLL's window (R332): two failures in succession make it unstable, one is a corrected event. -/
def pllWindow (n : Nat) (j : Judge) (s : State) : State :=
  let old := mget s.clk.plls n {}
  let e (cls : Nat) : ErrEvent := { mkEv clkPage cls 0x0B with locus := n, detail := (j.dev % 2 ^ 64).toNat }
  let unstable := decide (2 ≤ j.fails) && old.stable
  let j1 := if unstable then { j with stable := false } else j
  let s1 : State := { s with clk := { s.clk with plls := mput s.clk.plls n j1 } }
  if unstable then raiseEv clkPage 10 0 (e 1) s1
  else if j.fails = 1 ∧ old.stable = true then report clkPage (e 0) s1
  else if j1.stable ∧ old.stable = false ∧ 4 ≤ s.sys.phase then
    (pllPages n).foldl (fun u p => setBlk p { getBlk u p with ready := true } u) s1
  else s1

/-- The reference's window (R331, R332): lost after two failures, regained after WINDOWS passes; a single failure is a corrected
event (Table 12.1), whose LOCUS 27 follows those of the PLLs (DESIGN CHOICE, log 142). -/
def refWindow (j : Judge) (s : State) : State :=
  let c := s.clk
  let lost := c.ref.stable && !c.refLost && decide (2 ≤ j.fails)
  let back := c.refLost && decide (judgeWins s ≤ j.passes)
  let first := !c.ref.stable && j.stable
  let s1 : State := { s with clk := { c with ref := j, refLost := (c.refLost || lost) && !back, hold := (c.hold || lost) && !back,
                                             refFail := c.refFail && !back },
                             sys := { s.sys with fault := s.sys.fault && !(first && decide (s.sys.phase < 14)) } }
  let e : ErrEvent := { mkEv clkPage 0 0x0B with locus := 27, detail := (j.dev % 2 ^ 64).toNat }
  if lost then raise clkPage 9 0 (intSet clkPage 1 (bump clkPage 0 3 1 s1))
  else if back then intSet clkPage 1 s1
  else if j.fails = 1 ∧ c.ref.stable = true ∧ c.refLost = false then report clkPage e s1 else s1

/-- The trim moved by `d` steps (R333). -/
def moveTrim (d : Int) (s : State) : State := setTrim (s.clk.trim + d) (bump clkPage 0 2 1 s)

def trimSrc (s : State) : Nat := regFld s clkPage 0x210 17 16

/-- The oscillator's window (R331, R333): every 8 windows the trim follows the reference. -/
def oscWindow (count : Nat) (j : Judge) (s : State) : State :=
  let c := s.clk
  let lock := !c.trimLock && j.stable
  let sum := c.oscSum + count
  let full := decide (8 ≤ c.oscWins + 1)
  let s1 : State := { s with clk := { c with osc := j, kHz := count * 100000 / 4096, oscSum := if full then 0 else sum,
                                             oscWins := if full then 0 else c.oscWins + 1 } }
  let lim : Int := if c.trimLock then 1 else 64
  let s2 := if full ∧ trimSrc s = 1 then moveTrim (max (-lim) (min lim (-3 * ((sum : Int) - 65536)))) s1 else s1
  if lock then intSet clkPage 2 { s2 with clk := { s2.clk with trimLock := true } } else s2

/-- The trim follows received marks over every 16 ticks; the count of oscillator cycles between them is free (R333). -/
def trimByMarks (s : State) : State :=
  if trimSrc s = 2 ∧ s.tck.align = 2 ∧ s.tck.num % 16 = 0 then
    let r := draw s
    moveTrim ((16 * regFld s (pageOf .tck 0 0) 0x200 6 0 * 200 : Nat) - (Config.choose r.1 : Int)) r.2
  else s

/-- The clock's judgement so far. -/
def judgeOf (s : State) : Clock → Judge
  | .ref => s.clk.ref
  | .osc => s.clk.osc
  | .pll n => mget s.clk.plls n.val {}

/-- The clock's turn in the order of R331 has come: the reference first, then the oscillator under the Last's firmware, then the
PLLs. -/
def judged (s : State) : Clock → Bool
  | .ref => s.sys.released
  | .osc => s.sys.released && s.clk.ref.stable && decide (2 ≤ s.sys.phase)
  | .pll n => s.sys.released && s.clk.trimLock && !(n.val == 0 && s.pwr.gliding)

/-- JUDGE_WINDOW (R330-R333): `count` cycles of the clock in one window. A PLL is not judged while it glides. -/
def judgeEffect (c : Clock) (count : Nat) (s : State) : State :=
  if judged s c = false then s else
  let dev : Int := (count : Int) - windowN s c
  let pass := decide (dev.natAbs ≤ windowTol s c)
  let j := (judgeOf s c).window pass dev (judgeWins s)
  let s0 : State := if s.sys.phase = 2 ∧ c = .osc then { s with sys := { s.sys with phase := 3 } } else s
  let s1 := bump clkPage 0 (if pass then 0 else 1) 1 s0
  match c with
  | .ref => refWindow j s1
  | .osc => oscWindow count j s1
  | .pll n => pllWindow n.val j s1

/-- JUDGE_WINDOW (R330). -/
def execJudgeWindow (c : Clock) (count : Nat) (s : State) : Res := .next (judgeEffect c count s)

/-- REF_FAIL: 10 ms without the reference (R332). -/
def refFailEffect (s : State) : State :=
  if s.clk.refLost ∧ s.clk.refFail = false then raise clkPage 12 0 { s with clk := { s.clk with refFail := true } } else s

/-- REF_FAIL (R332). -/
def execRefFail (s : State) : Res := .next (refFailEffect s)

/-- REF_START_FAIL: no reference within 100 ms of the rise of RESET_N (R408). -/
def execRefStartFail (s : State) : Res :=
  .next (if s.sys.released ∧ s.clk.ref.stable = false then { s with sys := { s.sys with fault := true } } else s)

end Sys2Proof.Machine
end

