-- ==== Sys2Proof/Machine/Creamery.lean ====
section
/-! DEFINITION. The Creamery's modes and partition (R217, R218), the re-homing of a slice (R227) and the scrubber (R225). -/

namespace Sys2Proof.Machine

def crm0 : Nat := pageOf .crm 0 0

/-- A job other than JOB 0x0000 is open (R167). -/
def anyJobOpen (s : State) : Bool := (List.range 32).any (fun i => (getSlot s i).active)

/-- A range of addresses zeroed, and no line of it poisoned any more. -/
def zeroRange (lo hi : Nat) (s : State) : State :=
  { s with mem := memZero lo hi s.mem,
           cw := s.cw.filter (fun x => decide (x.1 * 8 < lo ∨ hi ≤ x.1 * 8)),
           poison := s.poison.filter (fun l => decide (l * 256 < lo ∨ hi ≤ l * 256)) }

/-- Scratchpad granules `a` to `b - 1` of every slice zeroed: 2 GiB of the window each (R217, R219). -/
def zeroGranules (a b : Nat) (s : State) : State :=
  zeroRange (0x100000000000 + a * 0x80000000) (0x100000000000 + b * 0x80000000) s

/-! ### Re-homing (R227) -/

/-- Granules of a slice that must be re-homed: scratchpad, provisional, and those it hosts. -/
def ownGranules (s : State) (n : Nat) : List (Nat × Nat × Bool) :=
  (if s.crm.normal then (List.range s.crm.sp).map (fun g => (n, g, false)) else []) ++ [(n, 14, true), (n, 15, true)] ++
  (s.crm.hosting.filter (fun h => h.slice == n)).map (fun h => (h.ownerSlice, h.ownerGranule, h.prov))

/-- The highest-numbered cache granule of a slice that hosts nothing. -/
def topCache (s : State) (hs : List Hosting) (n : Nat) : Option Nat :=
  ((List.range 14).reverse.filter (fun g => decide ((if s.crm.normal then s.crm.sp else 0) ≤ g))).find?
    (fun g => !hs.any (fun h => h.slice == n && h.granule == g))

/-- Hosts taken one at a time, in ascending order of slices from `at`, for the granules that need one. -/
def takeHosts (s : State) : Nat → Nat → List (Nat × Nat × Bool) → List Hosting → List Hosting
  | 0, _, _, hs => hs
  | _, _, [], hs => hs
  | k + 1, i, g :: gs, hs =>
    let n := i % 64
    match (if sliceIn s n then topCache s hs n else none) with
    | some c => takeHosts s k (i + 1) gs (hs ++ [⟨n, c, g.1, g.2.1, g.2.2⟩])
    | none => takeHosts s k (i + 1) (g :: gs) hs

/-- Cache granules of the other slices in service. -/
def otherCache (s : State) (n : Nat) : Nat :=
  ((List.range 64).map (fun i => if i = n then 0 else cacheGran s i)).sum

/-- The tags of slices whose number of cache granules changes, and of the slice itself, are dropped: the cache is
write-through. -/
def dropTags (ns : List Nat) (s : State) : State :=
  pruneCw { s with crm := { s.crm with sets := s.crm.sets.filter (fun x => !ns.contains (x.1 / 2 ^ 20)) } }

/-- The map-out of slice `n` begins: its granules get hosts and are copied; refused when the others have no room
(R227). -/
def rehomeStart (n : Nat) (copy : Bool) (s : State) : Option State :=
  let gs := ownGranules s n
  if otherCache s n < gs.length then none else
  let s1 := setBlk (pageOf .crm n 0) { getBlk s (pageOf .crm n 0) with mappedOut := true } s
  let kept := s1.crm.hosting.filter (fun h => h.slice != n)
  let hs := takeHosts s1 (64 * 15) (n + 1) gs kept
  let new := ((hs.drop kept.length).map (·.slice)).eraseDups
  let s2 := dropTags (n :: new) s1
  let s2 := if copy then new.foldl (fun u m => copySlots n m u) s2 else s2
  some { s2 with crm := { s2.crm with hosting := hs,
                                      copying := if copy then mput s2.crm.copying n gs else s2.crm.copying,
                                      pos := mput s2.crm.pos n (if copy then 0 else gs.length * 131072) } }

/-- Line `off` of granule `g` lies between the copy positions `p` and `q` of the granules `gs`. -/
def copiedNow (gs : List (Nat × Nat × Bool)) (p q : Nat) (g : Nat × Nat × Bool) (off : Nat) : Bool :=
  gs.contains g && decide (p ≤ gs.idxOf g * 131072 + off ∧ gs.idxOf g * 131072 + off < q)

/-- A scratchpad line is copied between the positions `p` and `q`. -/
def scrCopied (gs : List (Nat × Nat × Bool)) (p q line : Nat) : Bool :=
  let l := (line * 256 - 0x100000000000) / 256 / 64
  winOf (line * 256) == .scr && copiedNow gs p q (scrSlice (line * 256), l / 131072, false) (l % 131072)

/-- A provisional line is copied between the positions `p` and `q`: with the last line of its granule (DESIGN CHOICE,
log 137). -/
def provCopied (gs : List (Nat × Nat × Bool)) (p q : Nat) (x : ProvLine) : Bool :=
  copiedNow gs p q (x.gran / 16, x.gran % 16, true) 131071

/-- The lines of slice `n` between the copy positions `p` and `q` are copied, with correction: each that cannot be corrected
is written to its host as a poisoned line and sets REHOME_LOSS (R227). -/
def copyLines (n : Nat) (gs : List (Nat × Nat × Bool)) (p q : Nat) (s : State) : State :=
  let s1 := (s.cw.filter (fun x => scrCopied gs p q (x.1 / 32))).foldl
    (fun u x => if x.2 = 1 then wordFixed n (x.1 * 8) u else wordLost n (x.1 * 8) u) s
  let s2 := (s1.prov.filter (provCopied gs p q)).foldl (fun u x => provCheck x u) s1
  if s2.poison.any (scrCopied gs p q) || s2.prov.any (fun x => x.bad && provCopied gs p q x)
  then raise (pageOf .crm n 0) 13 0 s2 else s2

/-- REHOME_DONE: the copy ends and the slice stops serving, its adder among the rest (R227). -/
def rehomeEffect (n : Nat) (s : State) : State :=
  match mfind s.crm.copying n with
  | none => s
  | some gs =>
    let k := gs.length * 131072
    let s0 := copyLines n gs (mget s.crm.pos n 0) k s
    let s1 : State := { s0 with crm := { s0.crm with copying := mdel s0.crm.copying n, pos := mput s0.crm.pos n k },
                                lnk := { s0.lnk with adders := s0.lnk.adders.filter (fun x => x.1 / 4096 != n) } }
    intSet (pageOf .crm n 0) 2 s1

/-- REHOME_DONE (R227). -/
def execRehomeDone (slice : Fin 64) (s : State) : Res := .next (rehomeEffect slice.val s)

/-! ### Modes (R218) -/

/-- Hosts of every slice mapped out, for the roles now in effect; a copy that runs is completed first (DESIGN CHOICE,
log 137). -/
def rehost (s : State) : State :=
  let s := s.crm.copying.foldl (fun u x => rehomeEffect x.1 u) s
  let outs := (List.range 64).filter (fun n => !sliceIn s n)
  let go (u : State) (n : Nat) : State :=
    { u with crm := { u.crm with hosting := takeHosts u (64 * 15) (n + 1) (ownGranules u n) u.crm.hosting } }
  outs.foldl go { s with crm := { s.crm with hosting := [], copying := [] } }

/-- The conditions of R218 for a change. -/
def modeFree (s : State) : Bool := !anyJobOpen s && s.prov.isEmpty && s.drain.isEmpty && !s.crm.busy

/-- A change begins: BUSY, every cache line invalid, the roles as they will be. -/
def startChange (normal : Bool) (sp : Nat) (s : State) : State :=
  rehost (pruneCw { s with crm := { s.crm with busy := true, sets := [], normal := normal, sp := sp } })

/-- A write of CRM_MODE (R218): to normal mode every scratchpad granule is zeroed, and in leaving it all data is lost. -/
def crmModeEffect (v : Word) (s : State) : State :=
  if bit v 0 = s.crm.normal ∨ takesWork s crm0 = false then s
  else if modeFree s = false then raise crm0 8 0x200 s
  else startChange (bit v 0) (regFld s crm0 0x208 3 0) (zeroGranules 0 14 s)

/-- CRM_MODE_WRITE (R218). -/
def execCrmModeWrite (who : Initiator) (v : Word) (s : State) : Res :=
  .next (regGuard who crm0 0x200 v (fun w t => crmModeEffect w t) s)

/-- A write of CRM_PART (R218): granules that stay scratchpad keep their contents. -/
def crmPartEffect (v : Word) (s : State) : State :=
  let sp := fld v 3 0
  let old := regFld s crm0 0x208 3 0
  if sp = old ∨ takesWork s crm0 = false then s
  else if 14 < sp ∨ modeFree s = false then raise crm0 8 0x208 s
  else startChange s.crm.normal sp (setReg crm0 0x208 (word sp) (zeroGranules (min sp old) 14 s))

/-- CRM_PART_WRITE (R218). -/
def execCrmPartWrite (who : Initiator) (v : Word) (s : State) : Res :=
  .next (regGuard who crm0 0x208 v (fun w t => crmPartEffect w t) s)

/-- MODE_CHANGE_DONE (R218). -/
def modeDoneEffect (s : State) : State :=
  if s.crm.busy then intSet crm0 1 { s with crm := { s.crm with busy := false, ack := s.crm.normal } } else s

/-- MODE_CHANGE_DONE (R218). -/
def execModeChangeDone (s : State) : Res := .next (modeDoneEffect s)

/-- Every re-homing copy of a slice goes on during a tick by a free number of lines (R227). -/
def rehomeTick (s : State) : State :=
  s.crm.copying.foldl (fun u x =>
    let r := draw u
    let p := mget u.crm.pos x.1 0
    let q := p + Config.choose r.1 % (x.2.length * 131072 - p + 1)
    let v := copyLines x.1 x.2 p q r.2
    { v with crm := { v.crm with pos := mput v.crm.pos x.1 q } }) s

/-- A write of KEEP_CFG: no set goes on holding more keep lines than KEEP_WAYS (R221). -/
def keepCfgEffect (v : Word) (s : State) : State :=
  let s1 := setReg crm0 0x218 v s
  { s1 with crm := { s1.crm with sets := mmap (fun _ ws => trimKeeps (keepWays s1) ws) s1.crm.sets } }

/-! ### The scrubber (R225) -/

/-- What the scrubber finds in a word: what the command says, or the error the word stands in where that is greater. -/
def scrubFound (s : State) (a : Nat) (found : Ecc) : Ecc :=
  match mget s.cw (a / 8) 0, found with
  | 0, x => x
  | 1, .good => .corrected
  | 1, x => x
  | _, _ => .uncorrectable

/-- SCRUB: a word of a line that the slice holds, found corrected or not correctable (R225). The syndrome is a free value. -/
def scrubEffect (slice a : Nat) (found : Ecc) (s : State) : State :=
  let page := pageOf .crm slice 0
  if regBit s page 0x288 0 = false ∨ mappedMem s a = false ∨ sliceHolds s (lineOf a) = false ∨ sliceOf s a ≠ slice ∨
    enAck s page = false then s else
  match scrubFound s a found with
  | .good => s
  | .corrected => wordFixed slice a s
  | .uncorrectable => wordLost slice a s

/-- SCRUB (R225). -/
def execScrub (slice : Fin 64) (addr : Nat) (found : Ecc) (s : State) : Res := .next (scrubEffect slice.val addr found s)

end Sys2Proof.Machine
end

