-- ==== Sys2Proof/Machine/Hbm.lean ====
section
/-! DEFINITION. The HBM controllers: states (R230), temperature and refresh (R236-R239), replacement of a pseudo-channel
(R242), margining (R243, R244). -/

namespace Sys2Proof.Machine

def hp (n sub : Nat) : Nat := pageOf .hbm n sub

/-- An XTS key that the controllers hold: the first for the data, the second for the tweak (R240, R241). -/
def xtsKey (s : State) (second : Bool) : List Byte :=
  Crypto.beBytes 32 (Config.genKey (s.sec.xts + (if second then 2 ^ 64 else 0))).toNat

/-- What a stack holds of an HBM line (R240): its bytes under AES-256-XTS with the line number as the data unit, in TEST the bytes
themselves. What software reads of a line is its plaintext, `memBytes`, which depends on no pseudo-channel; a copy moves the
stored bytes unchanged (R242). -/
def storedLine (s : State) (line : Nat) : List Byte :=
  let bs := memBytes s.mem (line * 256) 256
  if (getHbm s (stackOf s (line * 256))).state = 4 then bs else Crypto.xtsSeal (xtsKey s false) (xtsKey s true) line bs

/-- A line that a stack holds, as its controller reads it (R240). -/
def readStored (s : State) (line : Nat) (bs : List Byte) : List Byte :=
  if (getHbm s (stackOf s (line * 256))).state = 4 then bs else Crypto.xtsOpen (xtsKey s false) (xtsKey s true) line bs

/-- The state in which a stack serves: at CRIT all its access stops, and it stays in SELF_REFRESH until it has left CRIT
(Table 8.4, R236). -/
def serving (h : Hbm) : Hbm := if h.therm = 3 then { h with state := 3, byCrit := true } else { h with state := 2, byCrit := false }

/-- A request in HBM_CTL.REQ (Table 8.2); one that the table does not allow sets STATE_REFUSED. -/
def hbmRequest (n req : Nat) (s : State) : State :=
  let h := getHbm s n
  let no := raise (hp n 0) 8 0x200 s
  let req1 (u : State) : State := setReg (hp n 0) 0x200 (word req) u
  let go (st : Nat) (u : State) : State := setHbm n { getHbm u n with state := st } (req1 u)
  let serve (u : State) : State := setHbm n (serving (getHbm u n)) (req1 u)
  if enAck s (hp n 0) = false then no
  else if req = 1 ∧ h.state = 0 then go 1 (setHbm n { h with initFail := false } s)
  else if req = 2 ∧ h.state = 3 ∧ h.held = false ∧ h.therm ≠ 3 then serve s
  else if req = 2 ∧ h.state = 4 then serve (leaveTest n s)
  else if req = 3 ∧ h.state = 2 then go 3 (setHbm n { h with byCrit := false } s)
  else if req = 4 ∧ h.state = 2 ∧ s.crm.normal = false ∧ anyJobOpen s = false ∧
      (List.range 8).all (fun m => (getHbm s m).state != 4) = true then go 4 s
  else no

/-- INIT (R230). -/
def execHbmInit (who : Initiator) (n : Fin 8) (s : State) : Res :=
  .next (regGuard who (hp n.val 0) 0x200 1 (fun _ t => hbmRequest n.val 1 t) s)

/-- ACTIVE (R230). -/
def execHbmActive (who : Initiator) (n : Fin 8) (s : State) : Res :=
  .next (regGuard who (hp n.val 0) 0x200 2 (fun _ t => hbmRequest n.val 2 t) s)

/-- SELF_REFRESH (R230). -/
def execSelfRefresh (who : Initiator) (n : Fin 8) (s : State) : Res :=
  .next (regGuard who (hp n.val 0) 0x200 3 (fun _ t => hbmRequest n.val 3 t) s)

/-- TEST (R230). -/
def execHbmTest (who : Initiator) (n : Fin 8) (s : State) : Res :=
  .next (regGuard who (hp n.val 0) 0x200 4 (fun _ t => hbmRequest n.val 4 t) s)

/-- HBM_INIT_DONE: training succeeds or fails (R230). -/
def initDoneEffect (n : Nat) (ok : Bool) (s : State) : State :=
  let h := getHbm s n
  if h.state ≠ 1 then s
  else setHbm n { (if ok then serving h else { h with state := 0 }) with initFail := !ok } s

/-- HBM_INIT_DONE (R230). -/
def execHbmInitDone (n : Fin 8) (ok : Bool) (s : State) : Res := .next (initDoneEffect n.val ok s)

/-! ### Temperature (R236) -/

def thermCfg (s : State) (n hi lo : Nat) : Nat := regFld s (hp n 1) 0x200 hi lo

/-- The thermal state a temperature gives (Table 8.4). -/
def thermOf (s : State) (n t : Nat) : Nat :=
  if thermCfg s n 23 16 ≤ t then 3 else if thermCfg s n 15 8 ≤ t then 2 else if thermCfg s n 7 0 ≤ t then 1 else 0

/-- The throttle in effect on a stack (R238): the lower of the thermal throttle and the limit PWR sets. At CRIT all access
stops, and a controller that is OFF issues no command: no slot is left (DEDUCED, log 96). -/
def throttle (s : State) (n : Nat) : Nat :=
  let h := getHbm s n
  if h.state = 0 ∨ h.therm = 3 then 0 else min (if h.therm = 2 then thermCfg s n 38 32 else 100) h.pwrThrot

/-- A stack enters a thermal state, with what comes with it (Table 8.4, R239, R309). -/
def enterTherm (n st : Nat) (s : State) : State :=
  let h := getHbm s n
  if h.therm = st then s else
  let s1 := intSet (hp n 1) 1 (setHbm n { h with therm := st } s)
  if st = 2 then
    let s2 := bump (hp n 1) 0 0 1 s1
    slowNotice 2 n (1000 - 10 * thermCfg s n 38 32) s.tck.num
      { s2 with lnk := { s2.lnk with slow := if s2.lnk.slow.contains n then s2.lnk.slow else s2.lnk.slow ++ [n] } }
  else if st = 3 then
    let h1 := getHbm s1 n
    let s2 := bump (hp n 1) 0 1 1 (setHbm n (if h1.state = 2 then serving h1 else h1) s1)
    alertPin s (raiseEv (hp n 1) 8 0 { mkEv (hp n 1) 4 0x0C with locus := n, detail := h.temp } s2)
  else s1

/-- STACK_TEMP_READ: a hotter state takes effect at once; three failed readings in succession count as HOT, and leave a stack
at CRIT there (R236; DESIGN CHOICE, log 136). -/
def stackTempEffect (n : Nat) (reading : Option Nat) (s : State) : State :=
  let h := getHbm s n
  match reading with
  | some t =>
    let s1 := setHbm n { h with temp := t, tempRead := true, maxTemp := max h.maxTemp t, fails := 0, sensorFail := false } s
    if h.therm < thermOf s n t then enterTherm n (thermOf s n t) s1 else s1
  | none =>
    let s1 := setHbm n { h with fails := h.fails + 1, sensorFail := h.sensorFail || decide (2 ≤ h.fails) } s
    if h.fails = 2 then
      let s2 := raise (hp n 1) 9 0 s1
      if h.therm < 2 then enterTherm n 2 s2 else s2
    else s1

/-- STACK_TEMP_READ (R236). -/
def execStackTempRead (n : Fin 8) (reading : Option Nat) (s : State) : Res := .next (stackTempEffect n.val reading s)

/-- A stack at a boundary: a cooler state takes effect once the temperature has fallen HYST below the threshold of the
hotter one, and a stack that entered SELF_REFRESH at CRIT returns (R236). -/
def coolStack (n : Nat) (s : State) : State :=
  let h := getHbm s n
  let thr := if h.therm = 3 then thermCfg s n 23 16 else if h.therm = 2 then thermCfg s n 15 8 else thermCfg s n 7 0
  if h.therm = 0 ∨ h.sensorFail = true ∨ thr < h.temp + thermCfg s n 27 24 then s else
  let s1 := enterTherm n (min (h.therm - 1) (thermOf s n h.temp)) s
  let h1 := getHbm s1 n
  alertPin s (if h.therm = 3 ∧ h1.byCrit = true ∧ h1.held = false ∧ h1.state = 3 then setHbm n (serving h1) s1 else s1)

/-- Every stack at a boundary; a stack that is no longer HOT sends its recovered notice, so that the last one does when
every stack has left HOT (R239, R309). -/
def hbmBoundary (s : State) : State :=
  let s1 := (List.range 8).foldl (fun u n => coolStack n u) s
  let gone := s1.lnk.slow.filter (fun n => decide (n < 8 ∧ (getHbm s1 n).therm < 2))
  gone.foldl (fun u n => slowNotice 3 n 0 u.tck.num u)
    { s1 with lnk := { s1.lnk with slow := s1.lnk.slow.filter (fun c => !gone.contains c) } }

/-- REFRESH: a refresh command to a pseudo-channel (R237). -/
def refreshEffect (n : Nat) (s : State) : State :=
  if (getHbm s n).state = 2 then bump (hp n 1) 0 2 1 s else s

/-- REFRESH (R237). -/
def execRefresh (n : Fin 8) (_pc : Fin 64) (s : State) : Res := .next (refreshEffect n.val s)

/-! ### Replacing a pseudo-channel (R242) -/

/-- The logical pseudo-channel served by a physical one. -/
def lpcOf (s : State) (p : Nat) : Option Nat := (List.range (lpcCount s)).find? (fun l => lpcMap s l == p)

/-- The physical pseudo-channel is mapped out. -/
def pcOut (s : State) (p : Nat) : Bool := (getHbm s (p % 8)).outPcs.contains (p / 8)

/-- A copy runs to the physical pseudo-channel. -/
def pcTarget (s : State) (p : Nat) : Bool := (List.range 8).any (fun n => (getHbm s n).copyBusy && (getHbm s n).copyDst == p)

/-- The lowest-numbered free spare. -/
def freeSpare (s : State) : Option Nat :=
  (List.range 512).find? (fun p => (lpcOf s p).isNone && !pcOut s p && !pcTarget s p)

/-- The logical pseudo-channel moves to its new place: lpc_map names it, the old one is mapped out (R242). -/
def pcMove (n pc : Nat) (dst : Option Nat) (s : State) : State :=
  let p := pc * 8 + n
  let h := getHbm s n
  let s1 := setHbm n { h with outPcs := h.outPcs ++ [pc] } s
  match lpcOf s p, dst with
  | some l, some d => copySlots (64 + n) (64 + d % 8) { s1 with lpc := if d = l then mdel s1.lpc l else mput s1.lpc l d }
  | _, _ => s1

/-- The map-out of a pseudo-channel begins with the copy to the spare; refused with NO_SPARE when none is free. At a cold start the
spare is the one that the map-out table names (R357). -/
def pcReplace (n pc : Nat) (keep : Option Nat) (copy : Bool) (s : State) : Option State :=
  let p := pc * 8 + n
  if (lpcOf s p).isNone then some (pcMove n pc none s)
  else match keep.or (freeSpare s) with
    | none => none
    | some d =>
      if copy then some (copySlots (64 + n) (64 + d % 8)
        (setHbm n { getHbm s n with copySrc := pc, copyDst := d, copyLines := 0, copyBusy := true } s))
      else some (pcMove n pc (some d) s)

/-- A line that HBM cannot correct, as it is copied: poisoned, with UE, ECC_UE_ADDR and its event (R225, R242). -/
def copyPoison (line : Nat) (s : State) : State :=
  let a := line * 256
  let p := physPc s a
  let page := hp (p % 8) 2
  let n := (s.ecc.filter (fun x => x.1 / 8 == line && decide (2 ≤ x.2))).length
  raiseFree page 9 0 { mkEv page 1 2 with unit := p / 8, locus := nfld a 34 3, addr := a }
    (bump page 0 1 n (setReg page 0x208 (word a)
      { s with poison := if s.poison.contains line then s.poison else sortBy (· ≤ ·) (line :: s.poison) }))

/-- The copy of controller `n` goes on to line `k`: errors that can be corrected are, a line that cannot is written
poisoned and sets REHOME_LOSS, and the bytes move in class C3 (R233, R242). -/
def pcCopyTo (n k : Nat) (s : State) : State :=
  let h := getHbm s n
  let p := h.copySrc * 8 + n
  let here (line : Nat) : Bool :=
    winOf (line * 256) == .hbm && lpcMap s (line % lpcCount s) == p &&
    decide (h.copyLines ≤ localLine s (line * 256) ∧ localLine s (line * 256) < k)
  let errs := (s.ecc.filter (fun x => here (x.1 / 8)))
  let s1 := (errs.map (fun x => x.1 / 8)).eraseDups.foldl (fun u l => eccCorrect l u) s
  let s2 := ((errs.filter (fun x => decide (2 ≤ x.2))).map (fun x => x.1 / 8)).eraseDups.foldl (fun u l => copyPoison l u) s1
  let s3 : State := { s2 with ecc := s2.ecc.filter (fun x => !here (x.1 / 8)) }
  let bad := (s3.poison.filter here).length
  let m := k - h.copyLines
  let s4 := bump (hp (h.copyDst % 8) 0) 0 3 (m * 256) (bump (hp n 0) 0 3 (m * 256) (bump (hp n 2) 0 3 bad (bump (hp n 2) 0 2 m s3)))
  let s5 := setHbm n { getHbm s4 n with copyLines := k } s4
  if 0 < bad then raise (hp n 2) 10 0 s5 else s5

/-- Every copy of a pseudo-channel goes on during a tick by a free number of its 3,145,728 lines (R242). -/
def pcCopyTick (s : State) : State :=
  (List.range 8).foldl (fun u n =>
    let h := getHbm u n
    if h.copyBusy then
      let r := draw u
      pcCopyTo n (h.copyLines + Config.choose r.1 % (3145728 - h.copyLines + 1)) r.2
    else u) s

/-- PC_REHOME_DONE (R242): the rest is copied, and the copy ends. -/
def pcDoneEffect (n : Nat) (s : State) : State :=
  let h := getHbm s n
  if h.copyBusy = false then s else
  let s1 := pcCopyTo n 3145728 s
  let s2 := setHbm n { getHbm s1 n with copyBusy := false } s1
  intSet (hp n 2) 1 (pcMove n h.copySrc (some h.copyDst) s2)

/-- PC_REHOME_DONE (R242). -/
def execPcRehomeDone (n : Fin 8) (s : State) : Res := .next (pcDoneEffect n.val s)

/-! ### Margining (R243, R244) -/

/-- A write of MARGIN_CTL: discarded with MARGIN_REFUSED for GO while BUSY or outside TEST, an offset out of range, no
bursts or a reserved pattern. -/
def marginEffect (n : Nat) (v : Word) (s : State) : State :=
  let page := hp n 3
  let h := getHbm s n
  let toff := toSigned 7 (fld v 22 16)
  let voff := toSigned 5 (fld v 28 24)
  let pat := getReg s page 0x208
  let go := bit v 32 && takesWork s page
  if (go && (h.marginBusy || h.state != 4 || fld pat 31 0 == 0 || fld pat 33 32 == 3)) || decide (32 < toff.natAbs ∨ 10 < voff.natAbs)
  then raise page 8 0x200 s
  else
    let h1 := { h with voff := if h.state = 4 then fld v 28 24 else h.voff }
    let h2 := if go then { h1 with marginBusy := true, marginDone := false, errors := 0, bits := 0 } else h1
    setHbm n h2 (storeReg page 0x200 v s)

/-- MARGIN_RUN (R243). -/
def execMarginRun (who : Initiator) (n : Fin 8) (v : Word) (s : State) : Res :=
  .next (regGuard who (hp n.val 3) 0x200 (v ||| word (2 ^ 32)) (fun w t => marginEffect n.val w t) s)

/-- A write of MARGIN_PAT: BURSTS 0 is refused with MARGIN_REFUSED (Table 8.7). -/
def marginPatEffect (n : Nat) (v : Word) (s : State) : State :=
  if fld v 31 0 = 0 then raise (hp n 3) 8 0x208 s else storeReg (hp n 3) 0x208 v s

/-- MARGIN_DONE (R244). -/
def marginDoneEffect (n errors : Nat) (bits : BitVec 32) (s : State) : State :=
  let h := getHbm s n
  if h.marginBusy = false then s else
  intSet (hp n 3) 1 (setHbm n { h with marginBusy := false, marginDone := true, errors := min errors (2 ^ 32 - 1), bits := bits } s)

/-- MARGIN_DONE (R244). -/
def execMarginDone (n : Fin 8) (errors : Nat) (bits : BitVec 32) (s : State) : Res := .next (marginDoneEffect n.val errors bits s)

/-- TRACK_PEAK_READ: the most entries in use since the last read: none while no access has reached HBM since; otherwise
how many were in use at once depends on timing, and is a free value of at most 16,384 (R232, R246). -/
def trackPeakEffect (n : Nat) (s : State) : State :=
  if (getBlk s (hp n 0)).rstBusy then answer 0 s else
  if (getHbm s n).tracked = false then answer 0 s else
  let r := draw s
  answer (word (1 + Config.choose r.1 % 16384)) (setHbm n { getHbm s n with tracked := false } r.2)

/-- TRACK_PEAK_READ (R246). -/
def execTrackPeakRead (_who : Initiator) (n : Fin 8) (s : State) : Res := .next (trackPeakEffect n.val s)

end Sys2Proof.Machine
end

