-- ==== Sys2Proof/Machine/Vector.lean ====
section
/-! DEFINITION. The VECTOR and FUNCTION classes (R124-R140) and Rennet's random words (R155, R156). A granule is 32
elements of a row of the reference tensor (R125). -/

namespace Sys2Proof.Machine

/-! ### Rennet -/

/-- The two halves of a 64-bit product (R155). -/
def mulHi (a b : Nat) : Nat := a * b / 2 ^ 32 % 2 ^ 32
def mulLo (a b : Nat) : Nat := a * b % 2 ^ 32

/-- Rounds of Philox 4x32 on a counter and a key, the key advancing before each round but the first. -/
def philoxRounds : Nat → Nat × Nat → Nat × Nat × Nat × Nat → Nat × Nat × Nat × Nat
  | 0, _, c => c
  | n + 1, k, c =>
    let h0 := mulHi 0xD2511F53 c.1
    let l0 := mulLo 0xD2511F53 c.1
    let h1 := mulHi 0xCD9E8D57 c.2.2.1
    let l1 := mulLo 0xCD9E8D57 c.2.2.1
    let d := (Nat.xor (Nat.xor h1 c.2.1) k.1, l1, Nat.xor (Nat.xor h0 c.2.2.2) k.2, l0)
    philoxRounds n ((k.1 + 0x9E3779B9) % 2 ^ 32, (k.2 + 0xBB67AE85) % 2 ^ 32) d

/-- Philox 4x32 with 10 rounds (R155). -/
def philox (key : Nat) (c0 c1 c2 c3 : Nat) : Nat × Nat × Nat × Nat :=
  philoxRounds 10 (key % 2 ^ 32, key / 2 ^ 32 % 2 ^ 32) (c0, c1, c2, c3)

/-- The random word of a seed, stream, step and element index (R155). -/
def rennet (seed stream step e : Nat) : Nat :=
  let q := e / 4
  let r := philox seed (q % 2 ^ 32) (q / 2 ^ 32) step stream
  match e % 4 with
  | 0 => r.1
  | 1 => r.2.1
  | 2 => r.2.2.1
  | _ => r.2.2.2

/-- The seed in an entry of the table (R156). -/
def seedOf (s : State) (i : Nat) : Word := getReg s (pageOf .rng 0 0) (0x1000 + 8 * i)

/-! ### Shapes -/

/-- The VE a VECTOR or FUNCTION task runs on. -/
def veOf (t : Task) : Nat := t.eng - 0x20

/-- The reference tensor's slot (R124). -/
def refSlot (t : Task) : Nat := if t.cls = 2 ∧ t.op = 0xD then 2 else 0

/-- Elements of a row, granules of a row, rows (R124, R125). -/
def rowLen (t : Task) : Nat := (t.tensor (refSlot t)).count 0
def rowGran (t : Task) : Nat := cdiv (rowLen t) 32
def rowCount (t : Task) : Nat := (t.tensor (refSlot t)).elems / rowLen t

/-- A LOAD is one granule. -/
def isLoad (t : Task) : Bool := t.cls == 3 && t.op == 2

def vecTotal (t : Task) : Nat := if isLoad t then 1 else rowCount t * rowGran t

/-- The granule at which a slice from `pos` ends (R124). -/
def vecStop (t : Task) (pos : Nat) : Nat :=
  if t.units = 0 then vecTotal t else min (vecTotal t) ((pos / rowGran t + t.units) * rowGran t)

/-! ### Checks -/

/-- The slots an operation uses, as (inputs, output 2 used) in the order of Table 5.2. -/
def vecSlots (op : Nat) : List Nat :=
  if op = 1 ∨ op = 2 ∨ op = 5 ∨ op = 0xA then [0, 1, 2]
  else if op = 3 ∨ op = 0xB then [0, 1, 2, 3]
  else if op = 0xD then [2] else [0, 2]

/-- Slots whose roles do not fit: `uses` with outputs `outs`, all others unused. -/
def roleFails (t : Task) (uses outs : List Nat) : Option Fail :=
  firstFail ((List.range 8).map (fun i =>
    failIf (t.role i != (if uses.contains i then (if outs.contains i then 2 else 1) else 0)) (badDesc i)))

/-- The parameter area and roles of a VECTOR task (R129, R134). -/
def vecParams (t : Task) : Option Fail :=
  firstFail [
    failIf (decide (0xD < t.op)) (badDesc 0),
    failIf (fld (t.w 24) 15 2 != 0 || fld (t.w 24) 63 28 != 0 || fld (t.w 26) 63 40 != 0 || fld (t.w 28) 63 48 != 0 ||
      fld (t.w 29) 63 32 != 0 || t.w 30 != 0 || t.w 31 != 0) (badDesc 0),
    roleFails t (vecSlots t.op) [2]]

/-- The formats a slot of a VECTOR operation takes (R129). -/
def vecFmt (op slot fmt : Nat) : Bool :=
  if op = 0xA ∧ slot = 1 then fmt == 0x20
  else if op = 0xB ∧ (slot = 1 ∨ slot = 3) then fmt == 0x21 || fmt == 0x22
  else if op = 9 ∧ slot = 2 then fmt == 0x23
  else if op = 0xD ∧ slot = 2 then fmt == 0x22
  else Num.isFloat fmt

/-- Same rank-independent counts. -/
def sameCounts (x y : Tensor) : Bool := x.counts == y.counts

/-- The tensors of a VECTOR task: formats, shapes, MX outputs along dimension 0, the element index (R128-R130,
R155). -/
def vecTensors (t : Task) : Option Fail :=
  let y := t.tensor 2
  let a := t.tensor 0
  let shape (i : Nat) : Bool :=
    if i = 2 ∧ (t.op = 6 ∨ t.op = 7 ∨ t.op = 8) then y.count 0 == 1 && y.counts.drop 1 == a.counts.drop 1
    else if i = 2 ∧ t.op = 9 then y.rank == 1 && y.count 0 == 1
    else sameCounts (t.tensor i) (t.tensor (refSlot t))
  firstFail ((List.range 4).map (fun i =>
      failIf (t.used i && (!vecFmt t.op i (t.tensor i).fmt || !shape i ||
        (i == 3 && t.op == 0xB && (t.tensor 3).fmt != (t.tensor 1).fmt) ||
        (i == 2 && y.blen == 32 && y.bdim != 0))) (badDesc i)) ++
    [failIf ((t.op == 0xC || t.op == 0xD) &&
      decide (2 ^ 48 ≤ fld (t.w 28) 47 0 + (t.tensor (refSlot t)).elems - 1)) (badDesc 0)])

/-- The parameter area and roles of a FUNCTION task (R124, R138). -/
def funParams (t : Task) : Option Fail :=
  firstFail [
    failIf (decide (2 < t.op)) (badDesc 0),
    failIf (fld (t.w 24) 15 5 != 0 || fld (t.w 24) 63 28 != 0 || (List.range 7).any (fun i => t.w (25 + i) != 0)) (badDesc 0),
    failIf (t.op == 2 && t.units != 0) (badDesc 0),
    (match t.op with
     | 0 => roleFails t (if t.role 3 = 0 then [0, 2] else [0, 2, 3]) [2, 3]
     | 1 => roleFails t [0, 1, 2] [2]
     | _ => roleFails t [0] [])]

/-- The table pair a FUNCTION task names. -/
def pairOf (t : Task) : Nat := fld (t.w 24) 2 0

/-- The tensors of a FUNCTION task and its pair (R135, R138). -/
def funTensors (s : State) (t : Task) : Option Fail :=
  if t.op = 2 then
    let x := t.tensor 0
    failIf (x.fmt != 0x20 || x.rank != 1 || x.count 0 != 131200) (badDesc 0)
  else
    firstFail ((List.range 4).map (fun i =>
        let x := t.tensor i
        failIf (t.used i && (!Num.isFloat x.fmt || x.rank != (t.tensor 0).rank || !sameCounts x (t.tensor 0) ||
          (decide (2 ≤ i) && x.blen == 32 && x.bdim != 0))) (badDesc i)) ++
      [failIf (mfind s.tables (veOf t * 8 + pairOf t)).isNone (badDesc 0)])

/-- Inputs in the VE's own store, outputs in any memory of the device (R127). -/
def vecWindow (t : Task) (slot a : Nat) : Bool := t.role slot == 2 || winOf a == .ve (veOf t)

/-! ### One granule -/

/-- The indices of dimension 1-5 of a row, and the elements of granule `g` of it. -/
def rowIdx (t : Task) (row : Nat) : List Nat := unravel ((t.tensor (refSlot t)).counts.drop 1) row

/-- The elements of a granule: first index and number. -/
def granElems (t : Task) (g : Nat) : Nat × Nat := (32 * g, min 32 (rowLen t - 32 * g))

/-- Blocks of four words a granule of `n` elements from linear number `lin` generates anew: a block that the granule
before it began is not generated again (R155, R160). -/
def rngBlocks (base lin n : Nat) : Nat :=
  if n = 0 then 0
  else if lin = 0 then (base + n - 1) / 4 - base / 4 + 1
  else (base + lin + n - 1) / 4 - (base + lin - 1) / 4

/-- The page of Rennet. -/
def rngPage : Nat := pageOf .rng 0 0

/-- Blocks generated, counted by pipeline (`i`: 0 the Churn's, 1 the VEs'); one in 65,536 is computed again by the checker, and
a mismatch ends the task with ENGINE_FAULT (R156, R160). -/
def generate (t : Task) (i n : Nat) (s : State) (k : State → StepRes) : StepRes :=
  let c := s.rngBlocks + n
  let s1 := bump rngPage 0 2 (c / 65536) (bump rngPage 0 i n { s with rngBlocks := c % 65536 })
  if 65536 ≤ c ∧ s.upset.contains (t.eng, 72) = true then
    .fail { status := 9 } (raiseFree rngPage 8 0 { mkEv rngPage 1 5 with job := t.job, status := 9 }
      (bump rngPage 0 3 1 { s1 with upset := s1.upset.erase (t.eng, 72) }))
  else k s1

/-- One output value of an element-wise operation (Table 5.2); `u` is the element's random word. -/
def vecValue (t : Task) (s : State) (i : List Nat) (u : Nat) : F32 :=
  let a := (t.tensor 0).val s (some t) i
  let b := (t.tensor 1).val s (some t) i
  let c := (t.tensor 3).val s (some t) i
  let alpha := Num.decode Num.fp32 (fld (t.w 25) 31 0)
  let beta := Num.decode Num.fp32 (fld (t.w 25) 63 32)
  let fill : F32 := BitVec.ofNat 32 (fld (t.w 26) 31 0)
  match t.op with
  | 0 => Num.r32 a
  | 1 => Num.r32 (Num.add a b)
  | 2 => Num.r32 (Num.mul a b)
  | 3 => Num.r32 (Num.add (Num.mul a b) c)
  | 4 => Num.r32 (Num.add (Num.mul a alpha) beta)
  | 5 => Num.r32 (Num.vmax a b)
  | 0xA => if (t.tensor 1).get s (some t) i ≠ 0 then Num.r32 a else fill
  | 0xB => if (t.tensor 1).get s (some t) i = (t.tensor 3).get s (some t) i then Num.r32 a else fill
  | 0xC => if u < fld (t.w 29) 31 0 then Num.r32 (Num.mul a alpha) else 0
  | _ => 0

/-- The random word of an element of a VECTOR task (R133): the seed was captured at dispatch. -/
def vecRandom (t : Task) (lin : Nat) : Nat :=
  rennet (t.cap.getD 0 0).toNat (fld (t.w 27) 31 0) (fld (t.w 27) 63 32) (fld (t.w 28) 47 0 + lin)

/-- The task's written elements and statistics after a run of values (R134, R138). -/
def noteRow (t : Task) (amax : Bool) (vs : List F32) (under : List Bool) : Task :=
  { t with stats := if amax then (vs.zip under).foldl (fun x z => x.note z.1 z.2) t.stats else t.stats,
           detail := word (t.detail.toNat + vs.length) }

/-- One granule of a VECTOR task. -/
def vecStep (t : Task) (s : State) : StepRes :=
  let row := t.pos / rowGran t
  let g := t.pos % rowGran t
  let rest := rowIdx t row
  let el := granElems t g
  let ids := (List.range el.2).map (fun j => (el.1 + j) :: rest)
  let inf := bit (t.w 24) 0
  let amax := bit (t.w 24) 1
  let y := t.tensor 2
  let av (i : List Nat) : Num.Val := (t.tensor 0).val s (some t) i
  let t1 := { t with pos := t.pos + 1 }
  let lastG := decide (g + 1 = rowGran t)
  let rowOp := decide (t.op = 6 ∨ t.op = 7 ∨ t.op = 8)
  if rowOp then
    let acc : F32 := if g = 0 then (if t.op = 8 then 0xFF800000 else 0) else BitVec.ofNat 32 (t.acc.getD 0 0).toNat
    let acc1 : F32 :=
      if t.op = 6 then Num.accum acc (Num.groupSum (ids.map av))
      else if t.op = 7 then Num.accum acc (Num.groupSum (ids.map (fun i => Num.mul (av i) (av i))))
      else Num.r32 (ids.foldl (fun m i => Num.vmax m (Num.d32 (Num.r32 (av i)))) (Num.d32 acc))
    let t2 := { t1 with acc := [word acc1.toNat] }
    if lastG then
      let r := writeRow false inf y s t 0 rest [acc1] []
      writeBuf t r.1 s (fun s1 => .go (noteRow t2 amax [acc1] r.2) s1)
    else .go t2 s
  else if t.op = 9 then
    let bad := ids.any (fun i => !(av i).isFinite)
    let old := if t.pos = 0 then false else t.acc.getD 0 0 == 1
    let t2 := { t1 with acc := [word (b2n (bad || old))] }
    if vecTotal t ≤ t1.pos then
      let v : Nat := 2 ^ 64 - 1 - b2n (bad || old)
      writeBuf t (y.put s (some t) [0] v []) s (fun s1 => .go { t2 with detail := 1 } s1)
    else .go t2 s
  else
    let lin := row * rowLen t + el.1
    if t.op = 0xD then
      let b := ((List.range el.2).zip ids).foldl (fun b z => y.put s (some t) z.2 (vecRandom t (lin + z.1)) b) []
      generate t 1 (rngBlocks (fld (t.w 28) 47 0) lin el.2) s (fun s0 =>
        writeBuf t b s0 (fun s1 => .go { t1 with detail := word (t.detail.toNat + el.2) } s1))
    else
      let vs := ((List.range el.2).zip ids).map (fun z => vecValue t s z.2 (if t.op = 0xC then vecRandom t (lin + z.1) else 0))
      let r := writeRow false inf y s t el.1 rest vs []
      generate t 1 (if t.op = 0xC then rngBlocks (fld (t.w 28) 47 0) lin el.2 else 0) s (fun s0 =>
        writeBuf t r.1 s0 (fun s1 => .go (noteRow t1 amax vs r.2) s1))

/-! ### Function tables (R136, R137) -/

/-- The `i`-th 32-bit word of a table in an image: 0 forward, 1 derivative. -/
def tabWord (img : List Byte) (which i : Nat) : Nat := leNat ((img.drop (which * 65600 + 4 * i)).take 4)

/-- An image with a non-zero reserved field or the mode 0b11 (R136). -/
def imageBad (img : List Byte) : Bool :=
  [0, 1].any (fun k =>
    let w (i : Nat) : Nat := tabWord img k i
    w 2 / 16 != 0 || w 3 != 0 || w 2 % 4 == 3 || w 2 / 4 % 4 == 3 || (List.range 10).any (fun i => w (6 + i) != 0) ||
    (List.range 4096).any (fun i => w (16 + 4 * i + 3) != 0))

/-- A table evaluated at an FP32 input (R137). -/
def tabEval (img : List Byte) (which : Nat) (x : F32) : F32 :=
  let w (i : Nat) : F32 := BitVec.ofNat 32 (tabWord img which i)
  let nan : F32 := 0x7FC00000
  let vx := Num.d32 x
  if vx.isNan then nan else
  let sv := Num.mul32 (Num.sub32 x (w 0)) (w 1)
  let vs := Num.d32 sv
  if vs.isNan then nan else
  let below := Num.lt vs (Num.ofNat 0)
  let above := !Num.lt vs (Num.ofNat 4096)
  let mode := if below then (w 2).toNat % 4 else if above then (w 2).toNat / 4 % 4 else 4
  let i := if below then 0 else if above then 4095 else Num.floorNat vs
  let tt : F32 := if below then sv else if above then Num.sub32 sv (Num.r32 (Num.ofNat 4095))
    else Num.r32 (Num.sub vs (Num.ofNat i))
  if mode = 0 then (if below then w 4 else w 5)
  else if mode = 1 then x
  else Num.fma32 tt (Num.fma32 tt (w (16 + 4 * i + 2)) (w (16 + 4 * i + 1))) (w (16 + 4 * i))

/-- One granule of a FORWARD or BACKWARD task (R137, R140). It reads the tables as they stand when it runs, so a task dispatched
between the dispatch and the commit point of a LOAD takes the new ones from that commit point on (R139; DESIGN CHOICE, log
134). -/
def funStep (t : Task) (s : State) : StepRes :=
  let row := t.pos / rowGran t
  let rest := rowIdx t row
  let el := granElems t (t.pos % rowGran t)
  let ids := (List.range el.2).map (fun j => (el.1 + j) :: rest)
  let inf := bit (t.w 24) 3
  let img := mget s.tables (veOf t * 8 + pairOf t) []
  let x (i : List Nat) : F32 := Num.r32 ((t.tensor 0).val s (some t) i)
  let vs := ids.map (fun i =>
    if t.op = 0 then tabEval img 0 (x i)
    else Num.r32 (Num.mul ((t.tensor 1).val s (some t) i) (Num.d32 (tabEval img 1 (x i)))))
  let r := writeRow false inf (t.tensor 2) s t el.1 rest vs []
  let b := if t.used 3 then (writeRow false inf (t.tensor 3) s t el.1 rest (ids.map x) r.1).1 else r.1
  writeBuf t b s (fun s1 => .go (noteRow { t with pos := t.pos + 1 } (bit (t.w 24) 4) vs r.2) s1)

/-- A LOAD: the image is checked and becomes the pair's tables (R136). -/
def loadStep (t : Task) (s : State) : StepRes :=
  let img := (List.range 131200).map (fun i => BitVec.ofNat 8 ((t.tensor 0).get s (some t) [i]))
  if imageBad img then .fail { status := 6 } s
  else .go { t with pos := 1 } { s with tables := mput s.tables (veOf t * 8 + pairOf t) img }

/-- A slice of one VECTOR operation. -/
def vecSlice (op id k cycles : Nat) (s : State) : State :=
  runSlice id k cycles (fun t => t.cls == 2 && t.op == op) vecTotal (fun _ => false) vecStep s

/-- A slice of one FUNCTION operation. -/
def funSlice (op id k cycles : Nat) (s : State) : State :=
  runSlice id k cycles (fun t => t.cls == 3 && t.op == op) vecTotal (fun _ => false)
    (if op = 2 then loadStep else funStep) s

/-- CONVERT (Table 5.2). -/
def execVecConvert (task k cycles : Nat) (s : State) : Res := .next (vecSlice 0 task k cycles s)
/-- ADD. -/
def execVecAdd (task k cycles : Nat) (s : State) : Res := .next (vecSlice 1 task k cycles s)
/-- MUL. -/
def execVecMul (task k cycles : Nat) (s : State) : Res := .next (vecSlice 2 task k cycles s)
/-- FMA. -/
def execVecFma (task k cycles : Nat) (s : State) : Res := .next (vecSlice 3 task k cycles s)
/-- AFFINE. -/
def execVecAffine (task k cycles : Nat) (s : State) : Res := .next (vecSlice 4 task k cycles s)
/-- MAX. -/
def execVecMax (task k cycles : Nat) (s : State) : Res := .next (vecSlice 5 task k cycles s)
/-- ROW_SUM (R131). -/
def execRowSum (task k cycles : Nat) (s : State) : Res := .next (vecSlice 6 task k cycles s)
/-- ROW_SUMSQ (R131). -/
def execRowSumsq (task k cycles : Nat) (s : State) : Res := .next (vecSlice 7 task k cycles s)
/-- ROW_MAX (R131). -/
def execRowMax (task k cycles : Nat) (s : State) : Res := .next (vecSlice 8 task k cycles s)
/-- FINITE (R132). -/
def execVecFinite (task k cycles : Nat) (s : State) : Res := .next (vecSlice 9 task k cycles s)
/-- MASK. -/
def execVecMask (task k cycles : Nat) (s : State) : Res := .next (vecSlice 0xA task k cycles s)
/-- SEG_MASK. -/
def execSegMask (task k cycles : Nat) (s : State) : Res := .next (vecSlice 0xB task k cycles s)
/-- DROPOUT (R133). -/
def execDropout (task k cycles : Nat) (s : State) : Res := .next (vecSlice 0xC task k cycles s)
/-- RANDOM (R133). -/
def execRandom (task k cycles : Nat) (s : State) : Res := .next (vecSlice 0xD task k cycles s)
/-- FORWARD (R137). -/
def execFunForward (task k cycles : Nat) (s : State) : Res := .next (funSlice 0 task k cycles s)
/-- BACKWARD (R137). -/
def execFunBackward (task k cycles : Nat) (s : State) : Res := .next (funSlice 1 task k cycles s)
/-- LOAD (R136). -/
def execFunLoad (task k cycles : Nat) (s : State) : Res := .next (funSlice 2 task k cycles s)

end Sys2Proof.Machine
end

