-- ==== Sys2Proof/Machine/Churn.lean ====
section
/-! DEFINITION. The UPDATE class and the layer statistics (R148-R154, R426). A granule is 64 parameters in master
order, or 32 rows of dimension 0 where a copy has BLOCK_DIM = 1 (R148); a block along another dimension is written with its last
parameter (log 87). -/

namespace Sys2Proof.Machine

def chnPage : Nat := pageOf .chn 0 0

/-- A copy has BLOCK_DIM = 1 (R148). -/
def byRows (t : Task) : Bool := [4, 5].any (fun i => t.used i && (t.tensor i).bdim == 1)

/-- Parameters of a granule, at whose boundaries a slice is suspended: 64, or 32 rows of dimension 0 (R148). -/
def granParams (t : Task) : Nat := if byRows t then 32 * (t.tensor 0).count 0 else 64

/-- Parameters of a work unit (R148). -/
def unitParams (t : Task) : Nat := if byRows t then 32 * (t.tensor 0).count 0 else 65536

def updTotal (t : Task) : Nat := cdiv (t.tensor 0).elems (granParams t)

/-- The granule at which a slice from `pos` ends (R148). -/
def updStop (t : Task) (pos : Nat) : Nat :=
  if t.units = 0 then updTotal t
  else min (updTotal t) (cdiv ((pos * granParams t / unitParams t + t.units) * unitParams t) (granParams t))

/-- The parameter area and the roles of an UPDATE task (R150, R151, R154). -/
def updParams (t : Task) : Option Fail :=
  firstFail [
    failIf (decide (2 < t.op)) (badDesc 0),
    failIf (fld (t.w 24) 7 6 != 0 || fld (t.w 24) 31 28 != 0 || fld (t.w 24) 63 60 != 0 || fld (t.w 27) 63 48 != 0 ||
      (List.range 4).any (fun i => t.w (28 + i) != 0)) (badDesc 0),
    failIf ((t.op == 0 && bit (t.w 24) 0) || (t.op == 2 && !bit (t.w 24) 0)) (badDesc 0),
    failIf (t.op != 0 && bit (t.w 24) 1) (badDesc 0),
    failIf (bit (t.w 24) 4 && fld (t.w 24) 47 32 == 0) (badDesc 0),
    failIf (t.role 0 != 3) (badDesc 0),
    failIf (t.role 1 != 1) (badDesc 1),
    failIf (t.role 2 != 3) (badDesc 2),
    failIf (t.role 3 != (if t.op = 1 then 3 else 0)) (badDesc 3),
    failIf (t.role 4 != 0 && t.role 4 != 2) (badDesc 4),
    failIf (t.role 5 != 0 && t.role 5 != 2) (badDesc 5),
    failIf (t.role 6 != 0) (badDesc 6),
    failIf (t.role 7 != 0) (badDesc 7)]

/-- Formats of the UPDATE slots (Table 5.8). -/
def updFmt (slot fmt : Nat) : Bool :=
  match slot with
  | 0 => fmt == 1
  | 1 => decide (1 ≤ fmt ∧ fmt ≤ 5) || fmt == 0x10 || fmt == 0x11
  | 2 | 3 => fmt == 1 || fmt == 3
  | _ => decide (2 ≤ fmt ∧ fmt ≤ 5) || Num.isMx fmt

/-- The loss exponent an UPDATE task takes at dispatch: the entry must be a valid loss entry of its job (R147). -/
def lossOf (s : State) (t : Task) : Option Nat :=
  if bit (t.w 24) 5 then
    let e := mget s.skm.ents (fld (t.w 24) 59 48) {}
    if bit e.cfg 16 && bit e.cfg 17 && fld e.cfg 15 0 == t.job then some (fld e.st 6 0) else none
  else some 0

/-- The tensors of an UPDATE task (R148, R150, R155, R426) and its loss entry (R147). -/
def updTensors (s : State) (t : Task) : Option Fail :=
  let w := t.tensor 0
  firstFail ((List.range 6).map (fun i =>
      let x := t.tensor i
      failIf (t.used i && (!updFmt i x.fmt || x.rank != w.rank || !sameCounts x w ||
        (x.scaled && (i == 0 || i == 2 || i == 3)) ||
        (decide (4 ≤ i) && x.bdim == 1 && decide (16384 < w.count 0)))) (badDesc i)) ++
    [failIf ((t.used 4 || t.used 5) && decide (2 ^ 48 ≤ fld (t.w 27) 47 0 + w.elems - 1)) (badDesc 0),
     failIf (lossOf s t).isNone (badDesc 0)])

/-- Windows of the UPDATE slots (Table 5.8). -/
def updWindow (slot a : Nat) : Bool :=
  match slot with
  | 0 | 1 | 2 | 3 => winOf a == .hbm || winOf a == .scr
  | _ => true

/-- The hyperparameter block as read at dispatch (R151): its eight words, or the status that ends the task. -/
def hyperBlock (s : State) (t : Task) : Fail ⊕ List Word :=
  let a := (t.w 25).toNat
  if a % 64 ≠ 0 then .inl (badDesc 0)
  else if isLocal s a = false then .inl (addrFault 0 a)
  else
    let l := localPart a
    if (winOf l != .hbm && winOf l != .scr) || !mappedMem s l || !mappedMem s (l + 63) then .inl (addrFault 0 a)
    else
      let ws := (List.range 8).map (fun i => word (viewNat s (some t) (l + 8 * i) 8))
      if ws.getD 5 0 != 0 || ws.getD 6 0 != 0 || ws.getD 7 0 != 0 then .inl (badDesc 0) else .inr ws

/-- What an UPDATE task captures at dispatch: seed, loss exponent, hyperparameters (R147, R151, R156). -/
def updCapture (s : State) (t : Task) (h : List Word) : List Word :=
  [seedOf s (fld (t.w 24) 15 8), word ((lossOf s t).getD 0)] ++ h

/-- One parameter's new master and moments (R152). -/
def updateParam (t : Task) (w m v : F32) (g : Num.Val) : F32 × F32 × F32 :=
  let h (i hi lo : Nat) : F32 := BitVec.ofNat 32 (fld (t.cap.getD (2 + i) 0) hi lo)
  let lr := h 0 31 0
  let wd := h 0 63 32
  let b1 := h 1 31 0
  let b2 := h 1 63 32
  let omb1 := h 2 31 0
  let omb2 := h 2 63 32
  let c1 := h 3 31 0
  let c2 := h 3 63 32
  let eps := h 4 31 0
  let clip := h 4 63 32
  let l := (t.cap.getD 1 0).toNat
  let g0 := Num.r32 (Num.mul g (Num.pow2 (-(l : Int))))
  let g1 := if bit (t.w 24) 2 then Num.mul32 g0 clip else g0
  let r : F32 × F32 × F32 :=
    match t.op with
    | 0 =>
      let g2 := Num.fma32 wd w g1
      let m1 := Num.fma32 b1 m (Num.mul32 omb1 g2)
      (if bit (t.w 24) 1 then Num.fma32 b1 m1 g2 else m1, m1, v)
    | 1 =>
      let dec := bit (t.w 24) 0
      let g2 := if dec then g1 else Num.fma32 wd w g1
      let m1 := Num.fma32 b1 m (Num.mul32 omb1 g2)
      let v1 := Num.fma32 b2 v (Num.mul32 omb2 (Num.mul32 g2 g2))
      let d := Num.div32 (Num.mul32 m1 c1) (Num.add32 (Num.sqrt32 (Num.mul32 v1 c2)) eps)
      (if dec then Num.fma32 wd w d else d, m1, v1)
    | _ =>
      let x := Num.add32 (Num.mul32 b1 m) (Num.mul32 omb1 g1)
      let vx := Num.d32 x
      let d : F32 := if vx.isNan then 0x7FC00000 else if vx.isZero then 0 else if vx.neg then 0xBF800000 else 0x3F800000
      (Num.fma32 wd w d, Num.add32 (Num.mul32 b2 m) (Num.mul32 omb2 g1), v)
  (Num.sub32 w (Num.mul32 lr r.1), r.2.1, r.2.2)

/-- The numerator over 2^298 of a finite FP32 value's square; none for a value that is not finite. -/
def squareNum (v : Num.Val) : Nat := (v.scaled (-149)).natAbs ^ 2

/-- The 32 parameters of a block along dimension `d`, by its last one: linear number, indices and new master. With a
BLOCK_DIM above 1 the others may lie in earlier granules, whose masters are written (R148). -/
def blockMembers (t : Task) (s : State) (d : Nat) (news : List ((Nat × List Nat) × F32)) (last : Nat × List Nat) :
    List ((Nat × List Nat) × F32) :=
  let step := ((t.tensor 0).counts.take d).foldl (· * ·) 1
  (List.range 32).map (fun j =>
    let ix := last.2.set d (last.2.getD d 0 - (31 - j))
    let w := match news.find? (fun y => y.1.2 == ix) with
      | some y => y.2
      | none => Num.r32 ((t.tensor 0).val s (some { t with vis := t.id :: t.vis }) ix)
    ((last.1 - (31 - j) * step, ix), w))

/-- The working copy in slot `i` of the parameters at the given indices (R153); `stream` is the slot's. Of an MX format the blocks
whose last parameter is among them are written. -/
def writeCopy (t : Task) (s : State) (i : Nat) (stream : Nat) (ids : List (Nat × List Nat)) (ws : List F32) (buf : Buf) : Buf :=
  let x := t.tensor i
  let inf := bit (t.w 24) 3
  let seed := (t.cap.getD 0 0).toNat
  let base := fld (t.w 27) 47 0
  let step := fld (t.w 26) 63 32
  let u (lin : Nat) : Nat := rennet seed stream step (base + lin)
  if Num.isMx x.fmt then
    let news := ids.zip ws
    (news.filter (fun z => z.1.2.getD x.bdim 0 % 32 == 31)).foldl (fun b z =>
      let mem := blockMembers t s x.bdim news z.1
      let r := Num.mxBlockSr (mem.map (fun y => u y.1.1)) x.fmt inf (mem.map (fun y => Num.d32 y.2))
      let b1 := (mem.zip r.2.1).foldl (fun b y => x.put s (some t) y.1.1.2 y.2 b) b
      mput b1 (x.scaleAddr z.1.2) (BitVec.ofNat 8 r.1)) buf
  else
    match Num.fmtOf x.fmt with
    | none => buf
    | some f =>
      (ids.zip ws).foldl (fun b z =>
        let q := if x.scaled then Num.divScale (Num.d32 z.2) (x.scale s (some t) []) else Num.d32 z.2
        x.put s (some t) z.1.2 (Num.convSr (u z.1.1) f inf q) b) buf

/-- The parameters of a granule: linear number and indices. -/
def granIds (t : Task) : List (Nat × List Nat) :=
  let w := t.tensor 0
  let n0 := t.pos * granParams t
  (List.range (min (granParams t) (w.elems - n0))).map (fun i => (n0 + i, unravel w.counts (n0 + i)))

/-- One granule of an UPDATE task (R152-R154). -/
def updStep (t : Task) (s : State) : StepRes :=
  let ids := granIds t
  let used := (List.range 4).filter (fun i => t.used i)
  let rs := ids.flatMap (fun z => used.flatMap (fun i => (t.tensor i).spans z.2))
  readSpans t rs s (fun s1 =>
    let rd (i : Nat) (ix : List Nat) : F32 := if t.used i then Num.r32 ((t.tensor i).val s1 (some t) ix) else 0
    let news := ids.map (fun z => updateParam t (rd 0 z.2) (rd 2 z.2) (rd 3 z.2) ((t.tensor 1).val s1 (some t) z.2))
    let put (i : Nat) (f : F32 × F32 × F32 → F32) (b : Buf) : Buf :=
      if t.used i then (ids.zip news).foldl (fun b z =>
        (t.tensor i).put s1 (some t) z.1.2 (outCode false true (t.tensor i).fmt (Num.d32 (f z.2))) b) b else b
    let b1 := (ids.zip news).foldl (fun b z => (t.tensor 0).put s1 (some t) z.1.2 z.2.1.toNat b) ([] : Buf)
    let b2 := put 3 (·.2.2) (put 2 (·.2.1) b1)
    let ws := news.map (·.1)
    let stream := fld (t.w 26) 31 0
    let b3 := if t.used 4 then writeCopy t s1 4 stream ids ws b2 else b2
    let b4 := if t.used 5 then writeCopy t s1 5 ((stream + 1) % 2 ^ 32) ids ws b3 else b3
    let olds := ids.map (fun z => Num.d32 (rd 0 z.2))
    let fin := (olds.all (·.isFinite)) && ws.all (fun w => (Num.d32 w).isFinite)
    let addW := (olds.map (fun v => if v.isFinite then squareNum v else 0)).sum
    let addU := ((olds.zip ws).map (fun z =>
      if z.1.isFinite && (Num.d32 z.2).isFinite then squareNum (Num.sub (Num.d32 z.2) z.1) else 0)).sum
    let bad := (ws.filter (fun w => !(Num.d32 w).isFinite)).length
    let st := { t.stats with sumW := t.stats.sumW + addW, sumU := t.stats.sumU + addU, fin := t.stats.fin && fin }
    let t1 := { t with pos := t.pos + 1, stats := st, detail := word (t.detail.toNat + bad) }
    let copies := ((List.range 2).filter (fun i => t.used (i + 4))).length
    generate t 0 (copies * rngBlocks (fld (t.w 27) 47 0) (t.pos * granParams t) ids.length) s1 (fun s2 =>
      let s3 := bump chnPage 0 5 b4.length (bump chnPage 0 4 (rs.eraseDups.map (·.2)).sum (bump chnPage 0 0 ids.length s2))
      writeBuf t b4 s3 (fun s4 => .go t1 s4)))

/-- A slice of one optimiser. -/
def updSlice (op id k cycles : Nat) (s : State) : State :=
  runSlice id k cycles (fun t => t.cls == 4 && t.op == op) updTotal (fun _ => false) updStep s

/-- SGD (R152). -/
def execSgd (task k cycles : Nat) (s : State) : Res := .next (updSlice 0 task k cycles s)
/-- ADAM and AdamW (R152). -/
def execAdam (task k cycles : Nat) (s : State) : Res := .next (updSlice 1 task k cycles s)
/-- LION (R152). -/
def execLion (task k cycles : Nat) (s : State) : Res := .next (updSlice 2 task k cycles s)

/-! ### Layer statistics (R154) -/

/-- The square root of a quotient of naturals, rounded once to FP32. -/
def sqrtRatio (u w : Nat) : F32 :=
  let k := 64 + (Nat.log2 w - Nat.log2 u)
  let q := u * 4 ^ k / w
  let r := Num.isqrt q
  Num.r32 (.fin false (2 * r + b2n (decide (r * r * w ≠ u * 4 ^ k))) (-(k : Int) - 1))

/-- RATIO of a closed row: 0 when both sums are 0, +infinity when only the first is, NaN when not finite. -/
def ratioOf (fin : Bool) (w u : Nat) : F32 :=
  if !fin then 0x7FC00000 else if w = 0 then (if u = 0 then 0 else 0x7F800000) else if u = 0 then 0 else sqrtRatio u w

/-- A norm from its exact sum of squares over 2^298. -/
def normOf (fin : Bool) (x : Nat) : F32 := if !fin then 0x7FC00000 else Num.r32 (Num.sqrtVal (.fin false x (-298)))

/-- LAYER_CLOSE: the row's words are written, and an alarm is raised and captured (R154, Tables 5.13, 5.14). -/
def layerClose (row : Nat) (x : Layer) (s : State) : State :=
  let ratio := ratioOf x.fin x.sumW x.sumU
  let hi := regFld s chnPage 0x208 31 0
  let lo := regFld s chnPage 0x210 31 0
  let r := Num.d32 ratio
  let aHi := hi != 0 && !r.isNan && Num.lt (Num.decode Num.fp32 hi) r
  let aLo := lo != 0 && !r.isNan && Num.lt r (Num.decode Num.fp32 lo)
  let aNf := !x.fin && regBit s chnPage 0x200 1
  let w0 := word (ratio.toNat + x.step % 2 ^ 24 * 2 ^ 32 + b2n aHi * 2 ^ 56 + b2n aLo * 2 ^ 57 + b2n (!x.fin) * 2 ^ 58)
  let w1 := word ((normOf x.fin x.sumW).toNat + (normOf x.fin x.sumU).toNat * 2 ^ 32)
  let s1 := bump chnPage 0 7 1 { s with layers := mput s.layers row { w0 := w0, w1 := w1 } }
  if aHi || aLo || aNf then
    let s2 := bump chnPage 0 8 1 s1
    let s3 := if regBit s2 chnPage 0x218 12 then s2 else
      setReg chnPage 0x218 (word (row + 2 ^ 12 + b2n aHi * 2 ^ 13 + b2n aLo * 2 ^ 14 + b2n aNf * 2 ^ 15 +
        x.step % 2 ^ 24 * 2 ^ 16)) s2
    intSet chnPage 1 s3
  else s1

/-- A task's contribution to its layer row (R154). -/
def contribute (t : Task) (s : State) : State :=
  if t.cls ≠ 4 ∨ bit (t.w 24) 4 = false ∨ regBit s chnPage 0x200 0 = false then s else
  let row := fld (t.w 24) 27 16
  let step := fld (t.w 26) 63 32
  let n := fld (t.w 24) 47 32
  let x := mget s.layers row {}
  let other := x.isOpen && x.step != step
  let s1 := if other || (x.isOpen && !other && x.tasks != n) then raise chnPage 10 0 s else s
  let y : Layer := if x.isOpen && !other then x else { x with isOpen := true, step := step, tasks := n, got := 0, sumW := 0, sumU := 0, fin := true }
  let z := { y with got := y.got + 1, sumW := y.sumW + t.stats.sumW, sumU := y.sumU + t.stats.sumU, fin := y.fin && t.stats.fin }
  if z.tasks ≤ z.got then layerClose row z s1 else { s1 with layers := mput s1.layers row z }

/-- CLEAR_STATS: all rows and open steps cleared (Table 5.12). -/
def chnCfgEffect (v : Word) (s : State) : State :=
  let s1 := storeReg chnPage 0x200 v s
  if bit v 2 then { s1 with layers := [] } else s1

/-- CLEAR_STATS (R158): a write of CHN_CFG. -/
def execClearStats (who : Initiator) (v : Word) (s : State) : Res :=
  .next (regGuard who chnPage 0x200 v (fun w t => chnCfgEffect w t) s)

/-- ALARM_FIRST_READ (R158). -/
def execAlarmFirstRead (who : Initiator) (s : State) : Res := .next (readClear who chnPage 0x218 s)

/-- TEST_GO: Philox on the test key and counter, while the block takes new work (R32, R160). -/
def testGoEffect (v : Word) (s : State) : State :=
  let p := rngPage
  if bit v 0 ∧ takesWork s p = true then
    let lo := getReg s p 0x208
    let hi := getReg s p 0x210
    let r := philox (getReg s p 0x200).toNat (fld lo 31 0) (fld lo 63 32) (fld hi 31 0) (fld hi 63 32)
    setReg p 0x228 (word (r.2.2.1 + r.2.2.2 * 2 ^ 32)) (setReg p 0x220 (word (r.1 + r.2.1 * 2 ^ 32)) s)
  else s

/-- TEST_GO (R160). -/
def execTestGo (who : Initiator) (v : Word) (s : State) : Res :=
  .next (regGuard who rngPage 0x218 v (fun w t => testGoEffect w t) s)

/-- A write of an entry of the seed table, which is whole again (R160). -/
def seedEffect (i : Nat) (v : Word) (s : State) : State :=
  storeReg rngPage (0x1000 + 8 * i) v { s with seedBad := s.seedBad.filter (· ≠ i) }

end Sys2Proof.Machine
end

