-- ==== Sys2Proof/Machine/Skim.lean ====
section
/-! DEFINITION. The Skim: deliveries, EXPORT and ADVANCE, the choice of format and scale, bindings, the loss scale
(R141-R147, R159). -/

namespace Sys2Proof.Machine

def skmPage : Nat := pageOf .skm 0 0

def getEnt (s : State) (e : Nat) : SkimEnt := mget s.skm.ents e {}

def setEnt (e : Nat) (x : SkimEnt) (s : State) : State := { s with skm := { s.skm with ents := mput s.skm.ents e x } }

/-- A delivery added to a step; of one whose largest magnitude is infinite or NaN nothing counts but NONFIN and the overflow flag:
neither its underflows nor its elements (R141; DESIGN CHOICE, log 133). -/
def SkimRec.plus (p d : SkimRec) : SkimRec :=
  let bad := decide (0x7F800000 ≤ d.amax)
  if bad || d.nonfin then { p with nonfin := true, ovf := p.ovf || d.ovf }
  else { amax := max p.amax d.amax, under := min (p.under + d.under) (2 ^ 32 - 1),
         count := min (p.count + d.count) (2 ^ 48 - 1), ovf := p.ovf || d.ovf, nonfin := p.nonfin }

/-- The deliveries of two parts of a step together. -/
def SkimRec.join (p q : SkimRec) : SkimRec :=
  { amax := max p.amax q.amax, under := min (p.under + q.under) (2 ^ 32 - 1), count := min (p.count + q.count) (2 ^ 48 - 1),
    ovf := p.ovf || q.ovf, nonfin := p.nonfin || q.nonfin }

/-- A delivery to an entry: dropped with DELIV_DROP unless the entry is valid, of the gradient kind and of the job
(R141); counted toward the following step during a phase of its job (R142). -/
def deliverSkim (e job : Nat) (d : SkimRec) (s : State) : State :=
  let x := getEnt s e
  if bit x.cfg 16 && !bit x.cfg 17 && fld x.cfg 15 0 == job then
    let s1 := bump skmPage 0 0 1 s
    if s.skm.busy && s.skm.job == job then setEnt e { x with next := x.next.plus d } s1
    else setEnt e { x with pend := x.pend.plus d } s1
  else raise skmPage 10 0 s

/-- What a task delivers at its commit point, if anything (R81, R134, R141). FINITE and RANDOM write no floating-point value to
slot 2: with AMAX_EN they deliver a record of no elements (DESIGN CHOICE, log 115). -/
def deliveryOf (t : Task) : Option (Nat × SkimRec) :=
  let en := match t.cls with | 1 => bit (t.w 24) 7 | 2 => bit (t.w 24) 1 | 3 => bit (t.w 24) 4 && t.op != 2 | _ => false
  if en then
    some (fld (t.w 24) 27 16, { amax := t.stats.amax, under := t.stats.under, count := t.stats.count })
  else none

/-- DELIVERY at a commit point with status OK: held with a speculative task's group (R142). -/
def deliverTask (t : Task) (s : State) : State :=
  match deliveryOf t with
  | none => s
  | some (e, d) =>
    let s0 := if t.cls = 1 then bump (pageOf .arr (arrUnit t.eng).1 3) 0 19 1 s else s
    if t.spec then { s0 with skm := { s0.skm with held := s0.skm.held ++ [⟨t.id, e, t.job, d⟩] } }
    else deliverSkim e t.job d s0

/-- A held delivery goes on at a commit, or is dropped (R142). -/
def settleDelivery (id : Nat) (commit : Bool) (s : State) : State :=
  let mine := s.skm.held.filter (fun d => d.task == id)
  let s1 : State := { s with skm := { s.skm with held := s.skm.held.filter (fun d => d.task != id) } }
  if commit then mine.foldl (fun u d => deliverSkim d.entry d.job d.stat u) s1 else s1

/-! ### Bindings (R145) -/

/-- A span lies in the mapped part of the HBM or of the scratchpad window. -/
def inMapped (s : State) (a len : Nat) : Bool :=
  (winOf a == .hbm || winOf a == .scr) && winOf (a + len - 1) == winOf a && mappedMem s a && mappedMem s (a + len - 1)

/-- One binding written: format and block fields by `f`, and a scale byte if one is given (R145, R147). -/
def writeBinding (b : Nat) (fmt : Option Nat) (dimLen : Option Nat × Nat) (scale : Option Nat) (s : State) : State :=
  let x := mget s.skm.binds b (0, 0)
  let a := fld x.2 49 0
  let fault := raise (pageOf .skm 0 1) 8 0
  if inMapped s a 128 = false then fault s
  else if poisoned s (lineOf a) then fault (poisonRead tckClass a 0 0 s)
  else
    let w1 := rdWord s (a + 8)
    let sb := (rdWord s (a + 112)).toNat
    if bit w1 12 = false ∨ sb = 0 then fault s
    else if isLocal s sb = false ∨ inMapped s (localPart sb) 1 = false then fault s
    else
      let w1' := match fmt with | some f => setFld w1 7 0 f | none => w1
      let w15 := rdWord s (a + 120)
      let w15a := match dimLen.1 with | some d => setFld w15 10 8 d | none => w15
      let w15' := setFld w15a 23 16 dimLen.2
      let s1 := wrWord tckClass (a + 120) w15' (wrWord tckClass (a + 8) w1' (touchReads tckClass [(a, 128)] s))
      let s2 := match scale with | some v => wrBytes tckClass (localPart sb) [BitVec.ofNat 8 v] s1 | none => s1
      bump (pageOf .skm 0 1) 0 0 1 s2

/-- The valid bindings of an entry. -/
def bindingsOf (s : State) (e : Nat) : List Nat :=
  (s.skm.binds.filter (fun x => bit x.2.1 12 && fld x.2.1 11 0 == e)).map (·.1)

/-! ### The choice (R144) -/

/-- The candidates of an entry. -/
def cands (cfg : Word) : List Nat :=
  [fld cfg 31 24, fld cfg 39 32, fld cfg 47 40, fld cfg 55 48].take (fld cfg 20 19 + 1)

/-- Candidates that Table 5.15 allows: its codes, narrowest first; of equal widths in any order (DESIGN CHOICE, log 116). -/
def candsOk (cfg : Word) : Bool :=
  let c := cands cfg
  c.all (fun f => decide (1 ≤ f ∧ f ≤ 5) || f == 0x10 || f == 0x11) &&
  (List.range (c.length - 1)).all (fun i => decide (Num.widthOf (c.getD i 0) ≤ Num.widthOf (c.getD (i + 1) 0)))

/-- The state of a gradient entry after a step pushed into its history, with what the counters note: widened,
narrowed, margin raised. -/
def choose (x : SkimEnt) : Word × Bool × Bool × Bool :=
  let cs := cands x.cfg
  let cur := fld x.st 1 0
  let margin := fld x.st 4 2
  let scale := fld x.st 12 5
  let calm := fld x.st 20 13
  let hold := fld x.st 28 21
  let mMin := fld x.param 34 32
  let mMax := fld x.param 37 35
  let narrow := fld x.param 47 40
  let holdSteps := fld x.param 55 48
  let lim := Num.decode Num.fp32 (fld x.param 31 0)
  let h0 := x.hist.headD {}
  let fOld := cs.getD cur 1
  let big : Num.Val := match Num.fmtOf fOld with
    | some f => Num.mul (.fin false (Num.maxFin f).1 (Num.maxFin f).2) (Num.pow2 ((scale : Int) - 127))
    | none => Num.ofNat 0
  let ovf := if !Num.isMx fOld && Num.lt big (Num.decode Num.fp32 h0.amax) then true else h0.ovf
  let calm1 := if ovf then 0 else min (calm + 1) 255
  let drop := !ovf && decide (narrow ≤ calm1) && decide (mMin < margin)
  let margin1 := if ovf then min (margin + 1) mMax else if drop then margin - 1 else margin
  let calm2 := if drop then 0 else calm1
  -- uf > uf_limit, and uf * 16 <= uf_limit, as exact comparisons
  let n := Num.ofNat (if h0.count = 0 then 0 else h0.under)
  let d := Num.mul lim (Num.ofNat (max 1 h0.count))
  let wide := Num.lt d n && decide (cur + 1 < cs.length)
  let slim := !wide && hold == 0 && !lim.isNan && !Num.lt d (Num.mul n (Num.ofNat 16)) && decide (0 < cur)
  let cur1 := if wide then cur + 1 else if slim then cur - 1 else cur
  let hold1 := if wide || slim then holdSteps else hold - 1
  let a := (x.hist.map (·.amax)).foldl max 0
  let e := match Num.decode Num.fp32 a with | .fin _ m q => Num.flog2 m q | _ => 0
  let scale1 := if a = 0 then 127 else (max 0 (min 254 (e + margin1 - Num.emaxOf (cs.getD cur1 1) + 127))).toNat
  (word (cur1 + margin1 % 8 * 4 + scale1 * 32 + calm2 * 2 ^ 13 + hold1 * 2 ^ 21), wide, slim, decide (margin < margin1))

/-- The statistics record of a pending step (Table 5.7). -/
def recWords (r : SkimRec) : List Word :=
  [word r.amax, word r.under, word r.count, word (b2n r.ovf), word (b2n r.nonfin), 0, 0, 0]

/-- A record read from memory. -/
def recAt (s : State) (a : Nat) : SkimRec :=
  { amax := fld (rdWord s a) 31 0, under := fld (rdWord s (a + 8)) 31 0, count := fld (rdWord s (a + 16)) 47 0,
    ovf := bit (rdWord s (a + 24)) 0, nonfin := bit (rdWord s (a + 32)) 0 }

/-- STAT_BASE. -/
def statBase (s : State) : Nat := regFld s (pageOf .skm 0 1) 0x200 49 6 * 64

/-- Valid gradient entries of a job. -/
def gradEnts (s : State) (job : Nat) : List Nat :=
  (s.skm.ents.filter (fun x => bit x.2.cfg 16 && !bit x.2.cfg 17 && fld x.2.cfg 15 0 == job)).map (·.1)

/-- One entry exported (R143). -/
def exportEnt (e : Nat) (s : State) : State :=
  let x := getEnt s e
  if bit x.cfg 18 then
    bump (pageOf .skm 0 1) 0 1 1
      (setEnt e { x with pend := {} } (wrBytes tckClass (statBase s + 64 * e) (wordsBytes (recWords x.pend)) s))
  else s

/-- HIST_CHECK finds an error in the history as it is read (R159): the bit and an event; what the entry holds goes on as it
is (DESIGN CHOICE, log 117). -/
def histCheck (s : State) : State :=
  if s.upset.contains (0x60, 11) then
    raiseFree skmPage 11 0 (mkEv skmPage 1 5) { s with upset := s.upset.erase (0x60, 11) } else s

/-- One entry advanced (R143-R145, R159). Each entry whose record enters its history counts as an advance, and an entry
skipped with ENTRY_CFG keeps its pending step (DESIGN CHOICE, log 116). -/
def advanceEnt (e : Nat) (s : State) : State :=
  let x := getEnt s e
  if candsOk x.cfg = false ∨ fld x.cfg 20 19 < fld x.st 1 0 then raise skmPage 9 0 s else
  let sync := bit x.cfg 18
  let a := statBase s + 64 * e
  if sync && poisoned s (lineOf a) then raise skmPage 12 0 (poisonRead tckClass a (fld x.cfg 15 0) 0 s) else
  let r := if sync then recAt s a else x.pend
  let s1 := histCheck (if sync then bump (pageOf .skm 0 1) 0 2 1 (touchReads tckClass [(a, 64)] s) else setEnt e { x with pend := {} } s)
  let y := getEnt s1 e
  if r.nonfin || decide (0x7F800000 ≤ r.amax) then bump skmPage 0 7 1 s1 else
  let y1 := { y with hist := (r :: y.hist).take 16 }
  let c := choose y1
  let s2 := setEnt e { y1 with st := c.1 } s1
  let s3 := bump skmPage 0 1 1 s2
  let s4 := if c.2.1 then bump skmPage 0 2 1 s3 else s3
  let s5 := if c.2.2.1 then bump skmPage 0 3 1 s4 else s4
  let s6 := if c.2.2.2 then bump skmPage 0 4 1 s5 else s5
  let f := (cands y1.cfg).getD (fld c.1 1 0) 1
  (bindingsOf s6 e).foldl (fun u b =>
    let dim := fld (mget u.skm.binds b (0, 0)).1 15 13
    if Num.isMx f then writeBinding b (some f) (some dim, 32) none u
    else writeBinding b (some f) (none, 0) (some (fld c.1 12 5)) u) s6

/-- The records of the job's SYNC entries can be reached now. -/
def statReady (s : State) (job : Nat) : Bool :=
  (gradEnts s job).all (fun e => !bit (getEnt s e).cfg 18 || access s (statBase s + 64 * e) == .ok)

/-- The phases asked for are performed, once memory serves them (R143), and are the job's activity (R390). -/
def skimRun (s : State) : State :=
  if s.skm.busy = false ∨ statReady s s.skm.job = false then s else
  let job := s.skm.job
  let work (s : State) : State := addAct job 3 (gradEnts s job).length s
  let one (s : State) : State := if s.skm.doExport then (gradEnts s job).foldl (fun u e => exportEnt e u) (work s) else s
  let two (s : State) : State := if s.skm.doAdvance then (gradEnts s job).foldl (fun u e => advanceEnt e u) (work s) else s
  let s2 := forJob job (two ∘ one) s
  { s2 with skm := { s2.skm with doExport := false, doAdvance := false } }

/-- The statistics area lies wholly in mapped memory (R143). -/
def statMapped (s : State) : Bool := inMapped s (statBase s) (64 * 4096)

/-- A write of STEP_CTL (R143); while the Skim takes no new work it starts no phase (R32). -/
def stepCtlEffect (v : Word) (s : State) : State :=
  if s.skm.busy then raise skmPage 8 0x200 s else
  let ex := bit v 16
  let ad := bit v 17
  let job := fld v 15 0
  let sync := (gradEnts s job).any (fun e => bit (getEnt s e).cfg 18)
  if (ex || (ad && sync)) && !statMapped s then raise skmPage 12 0x200 s else
  let s1 := setReg skmPage 0x200 (word job) s
  if (ex || ad) && takesWork s skmPage then
    skimRun { s1 with skm := { s1.skm with busy := true, job := job, doExport := ex, doAdvance := ad, adv := ad } }
  else s1

/-- EXPORT: a write of STEP_CTL with EXPORT set (R143). -/
def execSkimExport (who : Initiator) (v : Word) (s : State) : Res :=
  .next (regGuard who skmPage 0x200 (v ||| mask 16 16) (fun w t => stepCtlEffect w t) s)

/-- ADVANCE: a write of STEP_CTL with ADVANCE set (R143). -/
def execSkimAdvance (who : Initiator) (v : Word) (s : State) : Res :=
  .next (regGuard who skmPage 0x200 (v ||| mask 17 17) (fun w t => stepCtlEffect w t) s)

/-- Every write of the phase has been performed: BUSY falls, STEP_DONE is set, and the deliveries that came meanwhile
start the following step: that of a SYNC entry with its EXPORT, that of any other with its ADVANCE (R142, R143). -/
def stepDoneEffect (s : State) : State :=
  if s.skm.busy = false then s else
  let s1 := skimRun s
  if s1.skm.doExport || s1.skm.doAdvance then s1 else
  let fold (_ : Nat) (x : SkimEnt) : SkimEnt :=
    if fld x.cfg 15 0 = s.skm.job ∧ (s.skm.adv = true ∨ bit x.cfg 18 = true) then { x with pend := x.pend.join x.next, next := {} }
    else x
  intSet skmPage 1 { s1 with skm := { s1.skm with busy := false, ents := mmap fold s1.skm.ents } }

/-- STEP_DONE (R143). -/
def execStepDone (s : State) : Res := .next (stepDoneEffect s)

/-- The entry and the binding that the windows select. -/
def entSel (s : State) : Nat := regFld s skmPage 0x210 11 0
def bindSel (s : State) : Nat := regFld s (pageOf .skm 0 1) 0x208 13 0

/-- The bits of ENTRY_PARAM or ENTRY_STATE that the entry's kind defines (Table 5.15). -/
def entryMask (param loss : Bool) : Word :=
  if param then (if loss then mask 31 0 ||| mask 38 32 ||| mask 46 40 ||| mask 50 48 ||| mask 54 52
                 else mask 37 0 ||| mask 55 40)
  else (if loss then mask 6 0 ||| mask 31 16 else mask 28 0)

/-- A write of the entry window's ENTRY_CFG (R159): making an entry valid clears its history and pending step. Bits of
ENTRY_PARAM and ENTRY_STATE that its kind reserves read zero (R7). -/
def entryCfgEffect (v : Word) (s : State) : State :=
  if s.skm.busy then raise skmPage 8 0x218 s else
  let e := entSel s
  let x := getEnt s e
  let y := { x with cfg := v, param := x.param &&& entryMask true (bit v 17), st := x.st &&& entryMask false (bit v 17) }
  setEnt e (if bit v 16 && !bit x.cfg 16 then { y with hist := [], pend := {} } else y) s

/-- ENTRY_CFG_WRITE (R159). -/
def execEntryCfgWrite (who : Initiator) (v : Word) (s : State) : Res :=
  .next (regGuard who skmPage 0x218 v (fun w t => entryCfgEffect w t) s)

/-- A write of ENTRY_PARAM or ENTRY_STATE of the selected entry (R159). -/
def entryWinEffect (param : Bool) (v : Word) (s : State) : State :=
  let off := if param then 0x220 else 0x228
  if s.skm.busy then raise skmPage 8 off s else
  let e := entSel s
  let x := getEnt s e
  let m := entryMask param (bit x.cfg 17)
  let s1 := if v &&& ~~~ m = 0 then s else raise skmPage 1 off s
  setEnt e (if param then { x with param := v &&& m } else { x with st := v &&& m }) s1

/-- A write of BIND_CFG or BIND_ADDR of the selected binding (R159). -/
def bindWinEffect (cfg : Bool) (v : Word) (s : State) : State :=
  if s.skm.busy then raise skmPage 8 (if cfg then 0x210 else 0x218) s else
  let b := bindSel s
  let x := mget s.skm.binds b (0, 0)
  let y := if cfg then (v, x.2) else (x.1, v)
  { s with skm := { s.skm with binds := mput s.skm.binds b y } }

/-! ### The loss scale (R147) -/

/-- One loss entry after the outcome of its group. -/
def lossStep (commit : Bool) (e : Nat) (s : State) : State :=
  let x := getEnt s e
  let l := fld x.st 6 0
  let good := fld x.st 31 16
  let growth := fld x.param 31 16
  let lsMin := fld x.param 38 32
  let lsMax := fld x.param 46 40
  let up := fld x.param 50 48
  let down := fld x.param 54 52
  let grow := commit && decide (growth ≤ good + 1)
  let l1 := if !commit then max lsMin (l - down) else if grow then min lsMax (l + up) else l
  let g1 := if !commit || grow then 0 else min (good + 1) 65535
  let s1 := setEnt e { x with st := word (l1 + g1 * 2 ^ 16) } s
  let s2 := if l1 < l then intSet skmPage 2 (bump skmPage 0 5 1 s1) else if l < l1 then bump skmPage 0 6 1 s1 else s1
  (bindingsOf s2 e).foldl (fun u b => writeBinding b none (none, 0) (some (127 - l1)) u) s2

/-- LOSS_UPDATE: every valid loss entry that names the group (R147). -/
def lossUpdate (job gid : Nat) (commit : Bool) (s : State) : State :=
  ((s.skm.ents.filter (fun x => bit x.2.cfg 16 && bit x.2.cfg 17 && fld x.2.cfg 15 0 == job &&
      fld x.2.param 15 0 == gid)).map (·.1)).foldl (fun u e => forJob job (lossStep commit e) u) s

end Sys2Proof.Machine
end

