-- ==== Sys2Proof/Machine/Tasks.lean ====
section
/-! DEFINITION. The life of a task: acceptance, the checks of R424, dispatch in one indivisible step, the commit point,
commit groups and their settlement (R38-R66, R164-R166, R181, R184). -/

namespace Sys2Proof.Machine

def tck1Page : Nat := pageOf .tck 0 1

/-- The number of the decide unit among the engines (Table 6.1). -/
def decideEng : Nat := 0x48

/-- The engine that serves a queue's tasks (Table 6.1): target 0x40 is one of the 16 reduction lanes (R305). -/
def engOfTarget (tg c : Nat) : Option Nat :=
  if tg < 0x14 ∨ (0x20 ≤ tg ∧ tg ≤ 0x30) ∨ (0x38 ≤ tg ∧ tg < 0x40) ∨ tg = 0x48 then some tg
  else if tg = 0x40 then some (0x80 + c % 16) else none

/-- The class is one the target runs (Table 6.1). -/
def servesClass (e cls : Nat) : Bool :=
  if e < 0x14 then cls == 1 else if e < 0x30 then cls == 2 || cls == 3 else if e = 0x30 then cls == 4
  else if e < 0x40 then cls == 5 else if e = 0x48 then cls == 7 else cls == 6

/-- The page of the block an engine belongs to; the decide unit's is TCK's, and the link complex has no EN of its own,
so that its lanes stand on TCK's too (DEDUCED, log 30). -/
def engPage (e : Nat) : Nat :=
  if e < 0x14 then pageOf .arr (arrUnit e).1 0 else if e < 0x30 then pageOf .ve (e - 0x20) 0
  else if e = 0x30 then pageOf .chn 0 0 else if 0x38 ≤ e ∧ e < 0x40 then pageOf .ldl (e - 0x38) 0 else tckPage

/-- The engine's block is mapped out. -/
def engOut (s : State) (e : Nat) : Bool := (getBlk s (engPage e)).mappedOut

/-- The queue's mapping is the one in effect (R181). -/
def mapServed (s : State) (c : Nat) : Bool :=
  let b := cqBind s c
  !bit b 15 || (let j := getSlot s (fld b 14 10); j.active && !j.closing && j.mapAck == fld b 17 16)

/-- The device accepts tasks from the queue: always where MAP_EN is 0 (R164, R181, R183). -/
def cqServed (s : State) (c : Nat) : Bool :=
  let b := cqBind s c
  running s && takesWork s tckPage && bit b 8 && mapServed s c &&
  (match engOfTarget (fld b 7 0) c with | some e => !bit b 15 || !engOut s e | none => false)

/-- CQ_DROP: the front item goes without a record (R39). -/
def dropItem (c : Nat) (s : State) : State :=
  let s1 := raise tck1Page 8 0 (qTake c s).2
  if regBit s1 tck1Page 0x220 8 then s1 else setReg tck1Page 0x220 (word (c + 256)) s1

/-- The address of a structure of a task, in a mapped part of its windows (R38). -/
def structOk (s : State) (a align len : Nat) : Bool := addrOk a align && mappedMem s a && mappedMem s (a + len - 1)

/-- A task read from its descriptor. -/
def taskOf (s : State) (c a : Nat) : Task :=
  { id := s.nextTask, cq := c, eng := (engOfTarget (fld (cqBind s c) 7 0) c).getD decideEng, addr := a,
    desc := memWords s.mem a 32, accTick := s.tck.num }

/-- Acceptance of the front item of a command queue (R38, R39). -/
def acceptEffect (c : Nat) (s : State) : State :=
  if cqServed s c = false ∨ (getQueue s c).items.isEmpty = true then s else
  let s0 := ptrCheck c s
  match (getQueue s0 c).items with
  | [] => s0
  | v :: _ =>
    let a := v.toNat
    if addrOk a 256 = false then dropItem c s0 else
    match needLine s0 true (lineOf a) with
    | .wait => s
    | .fault _ => dropItem c s0
    | .poison x => dropItem c (poisonRead tckClass x 0 0 s0)
    | .ok =>
      let t := taskOf s0 c a
      let sr := touchReads tckClass [(a, 256)] s0
      if structOk s0 t.completion 64 64 = false then dropItem c sr else
      let s1 := (qTake c sr).2
      { s1 with tasks := s1.tasks ++ [t], nextTask := s1.nextTask + 1 }

/-- TASK_ACCEPT (R39). -/
def execTaskAccept (cq : Fin 256) (s : State) : Res := .next (acceptEffect cq.val s)

/-! ### Order within a queue (R41) -/

/-- A fence holds the task: an earlier task of its queue has not written its record. -/
def fenceHeld (s : State) (t : Task) : Bool :=
  t.fence && s.tasks.any (fun u => u.cq == t.cq && decide (u.id < t.id) && u.phase != .held)

/-- The lace queues a task pops. -/
def popsOf (t : Task) : List Nat := ((List.range 8).filter (fun i => t.used i && t.source i == 1)).map (fun i => t.lace i)

/-- An earlier task of the queue, not yet dispatched, pops one of the same lace queues. -/
def popHeld (s : State) (t : Task) : Bool :=
  s.tasks.any (fun u => u.cq == t.cq && decide (u.id < t.id) && (u.phase == .accepted || u.phase == .waiting) &&
    (popsOf u).any (fun q => (popsOf t).contains q))

/-! ### The checks of R424 -/

/-- Header fields (Table 2.3), the class against its target and against speculation (R37, R60, R164). -/
def headFail (t : Task) : Option Fail :=
  firstFail [
    failIf (fld (t.w 0) 7 0 != 1 || fld (t.w 0) 15 12 != 0 || fld (t.w 0) 63 51 != 0 || fld (t.w 1) 63 48 != 0 ||
      fld (t.w 2) 63 56 != 0 || t.w 4 != 0 || t.w 5 != 0 || t.w 6 != 0 || t.w 7 != 0) (badDesc 0),
    failIf (t.cls == 0 || decide (7 < t.cls) || t.bound == 0) (badDesc 0),
    failIf (servesClass t.eng t.cls == false) (badDesc 0),
    failIf (t.spec && decide (5 < t.cls)) (badDesc 0),
    failIf (if t.spec || t.cls == 7 then t.gid == 0 else t.gid != 0) (badDesc 0)]

/-- One operand slot (Table 2.4, R44, R53). -/
def slotFail (t : Task) (i : Nat) : Option Fail :=
  let a := t.sl0 i
  let b := t.sl1 i
  let e := fld b 31 0
  let src := t.source i
  let bad :=
    if t.used i = false then a != 0 || b != 0
    else
      fld b 63 62 != 0 || (t.push i && t.rel i) || (src == 3 && (t.push i || t.rel i)) || (src == 2 && t.role i != 2) ||
      (src == 0 && eyeGen e == 0) || (src == 2 && fld b 25 0 != 0) || ((src == 1 || src == 3) && e != 0) ||
      (if t.cls = 7 then a != 0 || t.role i != 1 else !addrOk a.toNat 128) ||
      (src == 1 && decide (1024 ≤ t.lace i)) || (t.push i && decide (1024 ≤ t.pushLace i))
  failIf bad (badDesc i)

/-- The parameter area of DECIDE (Table 2.10, R64). -/
def decParams (t : Task) : Option Fail :=
  let w := t.w 25
  let n := fld w 15 0
  let rule := fld w 17 16
  let m := fld w 24 18
  failIf (t.op != 0 || rule == 3 || decide (256 < n) || (n == 0 && rule == 1) || m == 0 || decide (64 < m) ||
    fld w 63 25 != 0 || (List.range 5).any (fun i => t.w (27 + i) != 0) || fld (t.w 24) 2 0 != 0) (badDesc 0)

/-- The parameter area of the task's class. -/
def classParams (t : Task) : Option Fail :=
  match t.cls with
  | 1 => matParams t
  | 2 => vecParams t
  | 3 => funParams t
  | 4 => updParams t
  | 5 => movParams t
  | 6 => redParams t
  | _ => decParams t

/-- The job is not open to the task (R66, R181). -/
def jobShut (s : State) (t : Task) : Bool :=
  let b := cqBind s t.cq
  (t.job == 0 && decide (t.cq < 248)) || !jobOpen s t.job ||
  (bit b 15 && fld (getSlot s (fld b 14 10)).w0 15 0 != t.job)

/-- JOB_CLOSED. -/
def jobClosed : Fail := { status := 7 }

/-- Every check of R424, in its order. -/
def checkFail (s : State) (t : Task) : Option Fail :=
  firstFail [headFail t, firstFail ((List.range 8).map (slotFail t)), classParams t, failIf (jobShut s t) jobClosed]

/-- DISPATCH_CHECK of an accepted task that comes up (R424). -/
def checkEffect (id : Nat) (s : State) : State :=
  match findTask s id with
  | none => s
  | some t =>
    if t.phase ≠ .accepted ∨ running s = false ∨ fenceHeld s t = true ∨ popHeld s t = true then s else
    match checkFail s t with
    | some f => finish t f s
    | none => putTask { t with phase := .waiting } s

/-- DISPATCH_CHECK (R424). -/
def execDispatchCheck (task : Nat) (s : State) : Res := .next (checkEffect task s)

/-! ### Commit groups (R60-R64) -/

/-- The current use of a group. -/
def useOf (s : State) (job gid : Nat) : Nat :=
  match s.groups.find? (fun g => g.job == job && g.gid == gid) with
  | some g => g.use
  | none => 1

/-- A group's current use set. -/
def setUse (job gid use : Nat) (s : State) : State :=
  { s with groups := ⟨job, gid, use⟩ :: s.groups.filter (fun g => !(g.job == job && g.gid == gid)) }

/-- A member of a group's use. -/
def memberOf (job gid use : Nat) (t : Task) : Bool :=
  t.spec && t.job == job && t.gid == gid && t.use == use

/-- A speculative task counts as in flight from dispatch until its group is settled (R61). -/
def inFlight (t : Task) : Bool := t.spec && (t.prov != 0 || t.checked)

/-- Lines of provisional space that a speculative task reserves (R61). -/
def provNeed (t : Task) : Nat :=
  if t.spec = false then 0 else
  ((List.range 8).map (fun i =>
    if t.role i = 2 ∨ t.role i = 3 then
      ((t.tensor i).extents.map (fun e => lineOf e.2.toNat + 1 - lineOf e.1.toNat)).sum else 0)).sum

/-- The limits of R61: lines and tasks. -/
def provLimit : Nat := 16777216
def specLimit : Nat := 64

/-- The members' reservations together with a new one. -/
def provSum (ts : List Task) : Nat := (ts.map (·.prov)).sum

/-- The reservation exceeds the limits with no other group present (R62). A group's members are those of its use in hand: what
an earlier use still holds, evaluated and not settled, does not count here (DESIGN CHOICE, log 118). -/
def specOverflow (s : State) (t : Task) : Bool :=
  let g := s.tasks.filter (fun u => inFlight u && memberOf t.job t.gid t.use u)
  t.spec && (decide (provLimit < provSum g + t.prov) || decide (specLimit < g.length + 1))

/-- The reservation does not fit yet (R62). -/
def specWaits (s : State) (t : Task) : Bool :=
  let g := s.tasks.filter inFlight
  t.spec && (decide (provLimit < provSum g + s.drain.length + t.prov) || decide (specLimit < g.length + 1))

/-! ### Dispatch (R40) -/

/-- The next state of a task that takes its resources one by one; none while one is not to be had. -/
abbrev Take := Option (Task × State)

/-- Slot `i`'s eyelet set. -/
def Task.setEye (t : Task) (i e : Nat) : Task := { t with eye := t.eye.set i e }

/-- Slot `i` pops its eyelet (R40, R197). -/
def takePop (i : Nat) (x : Task × State) : Take :=
  let t := x.1
  if t.used i = false ∨ t.source i ≠ 1 then some x else
  let q := 256 + t.lace i
  if qEnabled x.2 q = false then none else
  match qTake q x.2 with
  | (some v, s1) => some (t.setEye i (fld v 31 0), s1)
  | (none, _) => none

/-- Slot `i` allocates from its pool, beyond what others have reserved (R40, R184). -/
def takeAlloc (i : Nat) (x : Task × State) : Take :=
  let t := x.1
  if t.used i = false ∨ t.source i ≠ 2 then some x else
  let p := fld (t.sl1 i) 31 26
  if poolFree x.2 p ≤ reservedFor x.2 p t.cq then none else
  match allocBuf p t.cq x.2 with
  | (some e, s1) => some ({ t.setEye i e with own := t.own.set i true }, s1)
  | (none, _) => none

/-- Slot `i` reserves an entry in the lace queue it will push to (R40, R54, R197). -/
def takePush (i : Nat) (x : Task × State) : Take :=
  let t := x.1
  if t.used i = false ∨ t.push i = false then some x else
  let q := 256 + t.pushLace i
  if qEnabled x.2 q = false ∨ qFull x.2 q = true then none else
  let y := getQueue x.2 q
  some ({ t with resv := t.resv ++ [(q, i)] }, setQueue q { y with rsvd := y.rsvd + 1 } x.2)

/-- Steps taken in order, all or none. -/
def takeAll : List (Task × State → Take) → Task × State → Take
  | [], x => some x
  | f :: fs, x => (f x).bind (takeAll fs)

/-- Fixed eyelets, then pops, allocations and push reservations: the entry that the task's own pop frees counts for its push
into the same full lace queue (DESIGN CHOICE, log 128). -/
def takeRes (t : Task) (s : State) : Take :=
  let ix := List.range 8
  let t0 := ix.foldl (fun u i => if t.used i && t.source i == 0 then u.setEye i (fld (t.sl1 i) 31 0) else u) t
  takeAll (ix.map takePop ++ ix.map takeAlloc ++ ix.map takePush) (t0, s)

/-- The first stale eyelet (R52). -/
def staleFail (s : State) (t : Task) : Option Fail :=
  firstFail ((List.range 8).map (fun i =>
    let e := t.eye.getD i 0
    failIf (t.used i && decide (t.source i < 2) && !eyeValid s e) { status := 5, slot := i, detail := e }))

/-- What reading the tensor descriptors gives. -/
inductive TdRead where
  | wait
  | fail (f : Fail) (s : State)
  | ok (t : Task) (s : State)

/-- The tensor descriptor of slot `i` read (R39), for a speculative task too from target memory and not through its group's view
(DESIGN CHOICE, log 129). -/
def readTd (i : Nat) : TdRead → TdRead
  | .wait => .wait
  | .fail f s => .fail f s
  | .ok t s =>
    if t.used i = false ∨ t.cls = 7 then .ok t s else
    let a := (t.sl0 i).toNat
    match needLine s true (lineOf a) with
    | .wait => .wait
    | .fault _ => .fail (addrFault i a) s
    | .poison x => .fail { status := 9, slot := i } (poisonRead (clsOf t.eng) x t.job 9 s)
    | .ok =>
      let ws := memWords s.mem a 16
      .ok { t with td := t.td.set i ws, base := t.base.set i (absBase s (t.eye.getD i 0) ws) }
        (forJob t.job (touchReads (clsOf t.eng) [(a, 128)]) s)

/-- Descriptor rules (R36, R45, R46, R49). -/
def tdFail (t : Task) : Option Fail :=
  firstFail ((List.range 8).map (fun i =>
    failIf (t.td.getD i [] != [] && tdBad (t.td.getD i []) (t.base.getD i 0) (t.source i == 3)) (badDesc i)))

/-- The class's rules on its tensors. -/
def classTensors (s : State) (t : Task) : Option Fail :=
  match t.cls with
  | 1 => matTensors s t
  | 2 => vecTensors t
  | 3 => funTensors s t
  | 4 => updTensors s t
  | 5 => movTensors s t
  | 6 => redTensors s t
  | _ => none

/-- The windows of the class's slots. -/
def classWindow (t : Task) (slot a : Nat) : Bool :=
  match t.cls with
  | 1 => matWindow t slot a
  | 2 | 3 => vecWindow t slot a
  | 4 => updWindow slot a
  | 6 => redWindow slot a
  | _ => true

/-- ARR_MIB and VE_MIB of LS_RSV in bytes (R349). -/
def rsvArr (s : State) : Nat := regFld s (pageOf .tst 0 0) 0x218 7 0 * 1048576
def rsvVe (s : State) : Nat := regFld s (pageOf .tst 0 0) 0x218 15 8 * 1048576

/-- The test reserves of the window that holds a local address: first byte and one past the last (R349). -/
def reserves (s : State) (a : Nat) : List (Nat × Nat) :=
  match winOf a with
  | .arr n =>
    let b := 0x180000000000 + n * 0x10000000
    if quadMode s n then (List.range 4).map (fun q => (b + (q + 1) * 0x4000000 - rsvArr s / 4, b + (q + 1) * 0x4000000))
    else [(b + 0x10000000 - rsvArr s, b + 0x10000000)]
  | .ve n => [(0x180040000000 + (n + 1) * 0x2000000 - rsvVe s, 0x180040000000 + (n + 1) * 0x2000000)]
  | _ => []

/-- A task of a job other than 0 touches a test reserve (R349). -/
def reserveFail (s : State) (t : Task) : Option Fail :=
  if t.job = 0 then none else
  firstFail ((List.range 8).map (fun i =>
    if t.td.getD i [] = [] then none else
    firstFail ((t.tensor i).extents.map (fun e =>
      if isLocal s e.1.toNat = false then none else
      let lo := localPart e.1.toNat
      let hi := localPart e.2.toNat
      match (reserves s lo).find? (fun r => decide (lo < r.2 ∧ r.1 ≤ hi)) with
      | some r => some (addrFault i (e.1.toNat - lo + max lo r.1))
      | none => none))))

/-- What the class captures at dispatch (R133, R151, R212, R294, R304). -/
def capture (s : State) (t : Task) : Fail ⊕ Task :=
  match t.cls with
  | 2 => .inr { t with cap := [seedOf s (fld (t.w 26) 39 32)] }
  | 4 => match hyperBlock s t with
    | .inl f => .inl f
    | .inr h => .inr { t with cap := updCapture s t h }
  | 5 =>
    let h := hull (t.tensor 0)
    .inr { t with cap := [word h.1, word h.2] }
  | 6 => .inr (enterStage s { t with cap := [if skimEnOf t then word (fld (getEnt s (fld (t.w 24) 19 8)).st 4 2) else 0] })
  | _ => .inr t

/-- What a class waits for once its checks have passed: a LOAD for every FORWARD and BACKWARD of its pair to be over (R139), REDUCE for slots,
its bucket and room (R296, R297, R305), a MATMUL for its array's mode (R165). -/
def classReady (s : State) (t : Task) : Bool :=
  match t.cls with
  | 1 => quadMode s (arrUnit t.eng).1 == isQuad t
  | 3 => t.op != 2 || !s.tasks.any (fun u => u.cls == 3 && u.op != 2 && u.eng == t.eng && u.phase == .dispatched && pairOf u == pairOf t)
  | 6 => redReady s t
  | _ => true

/-- The engine has a place for a further dispatched task (R69, R124, R148, R202). -/
def engRoom (s : State) (t : Task) : Bool :=
  let g := getEng s t.eng
  if t.eng = decideEng then true
  else if 0x38 ≤ t.eng ∧ t.eng < 0x40 then
    !directMode s (t.eng - 0x38) && ((mfind g.active (t.cq % 16)).isNone || (mfind g.shadow (t.cq % 16)).isNone)
  else g.running.isNone || g.further.isNone

/-- The task put on its engine. -/
def putOn (t : Task) (s : State) : State :=
  let g := getEng s t.eng
  if t.eng = decideEng then s
  else if 0x38 ≤ t.eng ∧ t.eng < 0x40 then
    setEng t.eng (if (mfind g.active (t.cq % 16)).isNone then { g with active := mput g.active (t.cq % 16) t.id }
                  else { g with shadow := mput g.shadow (t.cq % 16) t.id }) s
  else setEng t.eng (if g.running.isNone then { g with running := some t.id } else { g with further := some t.id }) s

/-- Members of the task's group whose records were written before it (R63). -/
def visOf (s : State) (t : Task) : List Nat :=
  (s.tasks.filter (fun u => memberOf t.job t.gid t.use u && u.phase == .held)).map (·.id)

/-- The task has passed every check: its class's own effects, its reservation, its place (R40, R61, R213, R307). -/
def dispatched (t : Task) (s : State) : State :=
  let x := startRefetch t s
  let t1 := { x.1 with phase := .dispatched, checked := true }
  let s1 := (usedBy x.2 t1).foldl (fun u r => noteUse t1 r.1 r.2 u) x.2
  let s2 := putOn t1 (putTask t1 s1)
  let s3 := if t.cls ≠ 6 then s2 else if t.op = 0 then armTake t1 s2 else if t.op = 1 then redSample t1 s2 else beginCast t1 s2
  markAlive t.job (setEng t.eng { getEng s3 t.eng with rr := (t.cq + 1) % 256 } s3)

/-- A check of the indivisible step fails: the task ends there (R40, R58). -/
def dispatchFail (t : Task) (f : Fail) (s : State) : State :=
  setEng t.eng { getEng s t.eng with rr := (t.cq + 1) % 256 } (finish t f s)

/-- The entry of the seed table that a task reads at dispatch (R133, R156): of a VECTOR task that draws, and of an UPDATE task
that rounds a copy stochastically. -/
def seedRead (t : Task) : Option Nat :=
  if t.cls = 2 ∧ (t.op = 0xC ∨ t.op = 0xD) then some (fld (t.w 26) 39 32)
  else if t.cls = 4 ∧ (t.used 4 = true ∨ t.used 5 = true) then some (fld (t.w 24) 15 8)
  else none

/-- The entry that the task reads is found in error: SEED_CHECK (R160). -/
def seedCheck (t : Task) (s : State) : Option State :=
  match seedRead t with
  | none => none
  | some i =>
    if s.seedBad.contains i then
      some (raiseFree rngPage 9 0 { mkEv rngPage 1 5 with job := t.job, status := 9 } s)
    else none

/-- What else than tensors a task reads at dispatch, and as which class: the hyperparameter block of an UPDATE task, the group
lists of a REDUCE task (R151, R295). -/
def dispatchReads (s : State) (t : Task) : List (Nat × Nat) :=
  if t.cls = 4 then
    (let a := localPart (t.w 25).toNat
     if isLocal s (t.w 25).toNat && a % 64 == 0 && mappedMem s a && mappedMem s (a + 63) then [(a, 64)] else [])
  else if t.cls = 6 then
    groupSpan s (fld (t.w 25) 7 0) ++ (if t.op != 2 && fabricOf t == 2 then groupSpan s (fld (t.w 25) 15 8) else [])
  else []

/-- The indivisible step of R40; none while the task waits. A task accepted before the mapping of its queue went out of effect is
dispatched all the same (DESIGN CHOICE, log 130). -/
def tryDispatch (t0 : Task) (s : State) : Option State :=
  if t0.phase ≠ .waiting ∨ running s = false then none
  else if jobShut s t0 then some (finish t0 jobClosed s)
  else if fenceHeld s t0 = true ∨ popHeld s t0 = true ∨ takesWork s (engPage t0.eng) = false then none
  else if engRoom s t0 = false ∨ (t0.cls = 1 ∧ classReady s t0 = false) then none
  else match takeRes t0 s with
  | none => none
  | some (t1, s1) =>
    let t2 := { t1 with use := useOf s t1.job t1.gid }
    match staleFail s1 t2 with
    | some f => some (dispatchFail t2 f s1)
    | none =>
      match (List.range 8).foldl (fun r i => readTd i r) (.ok t2 s1) with
      | .wait => none
      | .fail f s2 => some (dispatchFail t2 f s2)
      | .ok t3 s2 =>
        match needSpans s2 true (dispatchReads s2 t3) with
        | .wait => none
        | .fault a => some (dispatchFail t3 (addrFault 0 a) s2)
        | .poison a => some (dispatchFail t3 { status := 9 } (poisonRead (clsOf t3.eng) a t3.job 9 s2))
        | .ok =>
        let t4 := if t3.cls = 6 then withGroups s2 t3 else t3
        match firstFail [tdFail t4, classTensors s2 t4,
            extentsFail s2 t4 (classWindow t4) (fun i => t4.cls == 5 || (t4.cls == 6 && i == 3)), reserveFail s2 t4] with
        | some f => some (dispatchFail t4 f s2)
        | none =>
          match seedCheck t4 s2 with
          | some s3 => some (dispatchFail t4 { status := 9 } s3)
          | none =>
          match capture s2 { t4 with vis := visOf s2 t4 } with
          | .inl f => some (dispatchFail t4 f s2)
          | .inr t5 =>
            let t6 := { t5 with prov := provNeed t5 }
            if specOverflow s2 t6 then some (dispatchFail { t6 with prov := 0 } { status := 8 } s2)
            else if specWaits s2 t6 ∨ classReady s2 t6 = false then none
            else some (dispatched t6 (forJob t6.job (touchReads (clsOf t6.eng) (dispatchReads s2 t6)) s2))

/-- The lace queues a task names have their pointers compared on use (R191). -/
def checkLaces (t : Task) (s : State) : State :=
  (List.range 8).foldl (fun u i =>
    let u1 := if t.used i && t.source i == 1 then ptrCheck (256 + t.lace i) u else u
    if t.used i && t.push i then ptrCheck (256 + t.pushLace i) u1 else u1) s

/-- Tasks of an engine whose step can be taken now, at most the first of each queue. -/
def readyOn (s : State) (e : Nat) : List Task :=
  let r := s.tasks.filter (fun t => t.eng == e && t.phase == .waiting && (tryDispatch t s).isSome)
  r.filter (fun t => !r.any (fun u => u.cq == t.cq && decide (u.id < t.id)))

/-- The task an engine dispatches next (R165): of the owner job, else of the next queue in round-robin order. -/
def nextOn (s : State) (e : Nat) : Option Nat :=
  let g := getEng s e
  let r := readyOn s e
  let mine := r.filter (fun t => g.owner == some t.job)
  let pool := if mine.isEmpty then r else mine
  let dist (t : Task) : Nat := (t.cq + 256 - g.rr) % 256
  (pool.foldl (fun (b : Option Task) t => match b with
    | none => some t
    | some u => if dist t < dist u then some t else some u) none).map (·.id)

/-- TASK_DISPATCH: the step is taken when the task is the one its engine takes next; otherwise it waits (R40, R165). -/
def dispatchEffect (id : Nat) (s : State) : State :=
  match findTask s id with
  | none => s
  | some t =>
    if t.phase ≠ .waiting then s else
    let s0 := checkLaces t s
    if nextOn s0 t.eng = some id then (tryDispatch t s0).getD s0 else s0

/-- TASK_DISPATCH (R40). -/
def execTaskDispatch (task : Nat) (s : State) : Res := .next (dispatchEffect task s)

/-- A speculative task's reservation does not fit, as its descriptors stand (R62). -/
def provShort (s : State) (t : Task) : Bool :=
  match takeRes t s with
  | none => false
  | some (t1, s1) =>
    match (List.range 8).foldl (fun r i => readTd i r) (.ok { t1 with use := useOf s t1.job t1.gid } s1) with
    | .ok t2 s2 => specWaits s2 { t2 with prov := provNeed t2 }
    | _ => false

/-- What a waiting task waits for, as NOPROG_FIRST codes it (Table 6.5); 0 for anything else. -/
def waitCode (s : State) (t : Task) : Nat :=
  let ix := List.range 8
  match takeAll (ix.map takePop) (t, s) with
  | none => 1
  | some x => match takeAll (ix.map takeAlloc) x with
    | none => 2
    | some y => match takeAll (ix.map takePush) y with
      | none => 3
      | some _ =>
        if t.cls = 1 ∧ classReady s t = false then 5
        else if t.spec = true ∧ engRoom s t = true ∧ provShort s t = true then 4 else 0

/-! ### The commit point (R55-R58) -/

/-- W0-W7 of the record (Table 2.7). -/
def recordWords (s : State) (t : Task) (specState : Nat) : List Word :=
  let e (i : Nat) : Nat := t.eye.getD i 0
  [word (t.status + specState * 256 + t.slot % 8 * 1024 + t.job * 65536 + t.tag * 2 ^ 32),
   word ((t.startTick.getD s.tck.num) % 2 ^ 32 + s.tck.num % 2 ^ 32 * 2 ^ 32),
   word (t.slices % 2 ^ 32 + t.overruns % 2 ^ 32 * 2 ^ 32), t.recDetail,
   word (e 0 + e 1 * 2 ^ 32), word (e 2 + e 3 * 2 ^ 32), word (e 4 + e 5 * 2 ^ 32), word (e 6 + e 7 * 2 ^ 32)]

/-- The record written: W1-W7, then W0 (R57). Where its line is accessible no more (its stack OFF or in TEST, the scratchpad
unmapped since acceptance), the write is not performed (R22) and the commit point is taken all the same (DESIGN CHOICE, log
132). -/
def writeRecord (t : Task) (specState : Nat) (s : State) : State :=
  if access s t.completion = .fault then s else
  let ws := recordWords s t specState
  let c := clsOf t.eng
  forJob t.job (wrWord c t.completion (ws.getD 0 0) ∘ wrBytes c (t.completion + 8) (wordsBytes (ws.drop 1))) s

/-- Reserved entries returned (R54, R58). -/
def returnResv (t : Task) (s : State) : State :=
  t.resv.foldl (fun u r => let y := getQueue u r.1; setQueue r.1 { y with rsvd := y.rsvd - 1 } u) s

/-- The task's pushes made, each into its reserved entry, and its releases (R52, R57). -/
def pushAndRelease (t : Task) (s : State) : State :=
  let s1 := t.resv.foldl (fun u r =>
    let v := ptrCheck r.1 u
    let y := getQueue v r.1
    qPut r.1 (word (t.eye.getD r.2 0)) (setQueue r.1 { y with rsvd := y.rsvd - 1 } v)) s
  (List.range 8).foldl (fun u i => if t.used i && t.rel i then releaseEye (t.eye.getD i 0) 0 u else u) s1

/-- Eyelets the task allocated go back (R58). -/
def releaseOwn (t : Task) (s : State) : State :=
  (List.range 8).foldl (fun u i => if t.own.getD i false then releaseEye (t.eye.getD i 0) 0 u else u) s

/-- The completion interrupt of the queue's page (NOTIFY). -/
def notifyDone (t : Task) (s : State) : State :=
  if t.notify = false ∨ 256 ≤ t.cq then s else
  let off := 0x200 + 8 * (t.cq / 64)
  intSet tck1Page 1 (setReg tck1Page off (setBit (getReg s tck1Page off) (t.cq % 64) true) s)

/-- The bucket of an ARM or ALLREDUCE task at its end (R289, R296, R302, R303); an ARM that was never dispatched holds
no slots. -/
def reduceEnd (t : Task) (s : State) : State :=
  let b := bucketOf t
  if t.op = 0 then
    if t.status = 1 then
      { s with lnk := { s.lnk with bucks := s.lnk.bucks.map (fun k =>
          if k.job = t.job ∧ (k.bucket = b ∨ k.bucket = flagBucket b) then { k with live := true } else k) } }
    else if t.cap.isEmpty then s else disarmTask t s
  else if t.op = 1 then
    let s1 := disarmTask t s
    let s2 : State := { s1 with lnk := { s1.lnk with promoted := s1.lnk.promoted.filter (· ≠ (t.job, b)) } }
    if t.status = 1 ∧ skimEnOf t = true ∧ fld t.detail 1 0 ≠ 0 then
      deliverSkim (fld (t.w 24) 19 8) t.job { ovf := true } s2
    else s2
  else s

/-- The effects of a commit point with status OK that a class adds: deliveries, layer rows, prefetch records (R81, R134,
R141, R154, R212). -/
def classCommit (t : Task) (s : State) : State :=
  let s1 := if t.status = 1 then deliverTask t s else s
  let s2 := if t.status = 1 ∧ t.spec = false then contribute t s1 else s1
  let s3 := countMove t (if t.status = 1 then makeRecord t s2 else s2)
  if t.cls = 6 then reduceEnd t s3 else s3

/-- Memory from `e.1` to `e.2` holds unspecified values: its bytes read as free ones (R58). -/
def openSpan (s : State) (e : Int × Int) : State :=
  let a := localPart e.1.toNat
  { s with mem := memLose (.span s.free a (a + (e.2 + 1 - e.1).toNat)) s.mem, free := s.free + 1 }

/-- The extents of the task's output tensors on this device. -/
def outExtents (s : State) (t : Task) : List (Int × Int) :=
  ((List.range 8).filter (fun i => (t.role i == 2 || t.role i == 3) && t.base.getD i 0 / 2 ^ 50 == devNum s)).flatMap
    (fun i => (t.tensor i).extents)

/-- What a task that ends with a status other than OK leaves in its outputs: nothing certain, once it has passed its
checks and unless its writes were provisional (R58). -/
def openOutputs (t : Task) (s : State) : State :=
  if t.status = 1 ∨ t.checked = false ∨ t.spec = true then s else (outExtents s t).foldl openSpan s

/-- A MOVE leaves its engine at its commit point, and its channel's shadow task moves up (R202, R203). -/
def freeLadle (t : Task) (s : State) : State := if t.cls = 5 then promoteShadow t.eng (leaveEngine t s) else s

/-- A task's commit point: its record and what takes effect with it (R57, R58, R63). -/
def commitNow (t0 : Task) (s : State) : State :=
  let member := t0.spec && t0.gid != 0
  let t := { t0 with use := if member && t0.use == 0 then useOf s t0.job t0.gid else t0.use }
  let s0 : State := { s with tck := { s.tck with aborting := s.tck.aborting.filter (· ≠ t.id) } }
  let s1 := writeRecord t (if member then 1 else 0) (classCommit t (openOutputs t s0))
  let s2 := freeLadle t (notifyDone t (markAlive t.job s1))
  let s3 := if t.status ≠ 1 then releaseOwn t (returnResv t s2) else if member then s2 else pushAndRelease t s2
  if member then putTask { t with phase := .held, resv := if t.status = 1 then t.resv else [],
                                  own := if t.status = 1 then t.own else t.own.map (fun _ => false) } s3
  else dropTask t.id s3

/-- TASK_COMMIT of a task whose work is over (R57); it waits while its record's memory does. -/
def commitEffect (id : Nat) (s : State) : State :=
  match findTask s id with
  | none => s
  | some t =>
    if t.phase ≠ .complete then s else
    match access s t.completion with
    | .wait => s
    | _ => commitNow t s

/-- TASK_COMMIT (R57). -/
def execTaskCommit (task : Nat) (s : State) : Res := .next (commitEffect task s)

/-! ### DECIDE (R64, R65) -/

/-- The members of a group's use that are held. -/
def heldMembers (s : State) (job gid use : Nat) : List Task :=
  s.tasks.filter (fun t => memberOf job gid use t && t.phase == .held)

/-- A member of the group's use has been dispatched and has not written its record. -/
def memberRuns (s : State) (job gid use : Nat) : Bool :=
  s.tasks.any (fun t => memberOf job gid use t && (t.phase == .dispatched || t.phase == .complete))

/-- A DECIDE task of the group is evaluated and has not taken effect. -/
def decidePending (s : State) (job gid : Nat) : Bool :=
  s.tasks.any (fun t => t.cls == 7 && t.job == job && t.gid == gid && t.phase == .evaluated)

/-- The addresses of the flag words. -/
def flagSpan (t : Task) : Nat × Nat := ((t.w 24).toNat, 8 * fld (t.w 25) 15 0)

/-- RULE evaluated over the flag words (Table 2.10). -/
def ruleHolds (s : State) (t : Task) : Bool :=
  match fld (t.w 25) 17 16 with
  | 0 => true
  | 1 => (memWords s.mem (flagSpan t).1 (fld (t.w 25) 15 0)).all (fun w => w &&& t.w 26 == t.w 26)
  | _ => false

/-- DECIDE: the group's members have written their records and none runs; the flag words are read and RULE gives the
outcome, which takes effect at the next boundary (R64, R65). -/
def decideEffect (id : Nat) (s : State) : State :=
  match findTask s id with
  | none => s
  | some t =>
    let use := useOf s t.job t.gid
    let held := heldMembers s t.job t.gid use
    if t.cls ≠ 7 ∨ t.phase ≠ .dispatched ∨ t.status ≠ 0 ∨ running s = false ∨ held.length < fld (t.w 25) 24 18 ∨
        memberRuns s t.job t.gid use = true ∨ decidePending s t.job t.gid = true then s
    else
      let sp := flagSpan t
      match needSpans s true (if sp.2 = 0 then [] else [sp]) with
      | .wait => s
      | .fault a => finish t (addrFault 0 a) s
      | .poison a => finish t { status := 9 } (poisonRead tckClass a t.job 9 s)
      | .ok =>
        let s := forJob t.job (touchReads tckClass (if sp.2 = 0 then [] else [sp])) s
        let failed := held.any (fun u => u.status != 1)
        let commit := ruleHolds s t && !failed
        putTask { t with phase := .evaluated, status := 1, use := use, outcome := some commit, memberFailed := failed,
                         detail := word ((if commit then 1 else 2) + 4 * b2n failed) }
          (setUse t.job t.gid (use + 1) (markAlive t.job s))

/-- DECIDE (R64). -/
def execDecideGroup (task : Nat) (s : State) : Res := .next (decideEffect task s)

/-- The bytes of a provisional line that its mask covers, newest first taken, as runs of single bytes (R223). -/
def provBytes (p : ProvLine) : List (Nat × List Byte) :=
  (List.range 256).filterMap (fun i =>
    (p.bytes.find? (fun b => b.1 == i)).map (fun b => (p.line * 256 + i, [b.2.2])))

/-- A committed line at its target: everyone sees it, and its copy drains in the background (R65, R211). It stays poisoned
where it was poisoned or could not be corrected (R225). -/
def commitLine (p : ProvLine) (s : State) : State :=
  let s0 := (joinRuns (provBytes p)).foldl (fun u w => landRun none w.1 w.2 u) (provCheck p s)
  let bad := p.bad || p.err.any (fun x => decide (2 ≤ x.2))
  let s1 : State := if bad && !s0.poison.contains p.line then { s0 with poison := sortBy (· ≤ ·) (p.line :: s0.poison) } else s0
  { s1 with drain := s1.drain ++ [⟨p.job, p.gid, p.line, p.gran, (provBytes p).length⟩] }

/-- SPEC_STATE of a member's record rewritten (R65). -/
def rewriteState (st : Nat) (t : Task) (s : State) : State :=
  let w := word (t.status + st * 256 + t.slot % 8 * 1024 + t.job * 65536 + t.tag * 2 ^ 32)
  if access s t.completion = .fault then s else forJob t.job (wrWord (clsOf t.eng) t.completion w) s

/-- GROUP_OUTCOME: the outcome takes effect for every held member (R65, R142). -/
def settleGroup (job gid use : Nat) (commit : Bool) (s : State) : State :=
  let ms := heldMembers s job gid use
  let mine (p : ProvLine) : Bool := p.job == job && p.gid == gid && p.use == use
  let lines := s.prov.filter mine
  let s1 := if commit then lines.foldl (fun u p => commitLine p u) s else s
  let s2 : State := { s1 with prov := s1.prov.filter (fun p => !mine p) }
  let one (u : State) (t : Task) : State :=
    let u1 := if t.status ≠ 1 then u else if commit then pushAndRelease t u else releaseOwn t (returnResv t u)
    rewriteState (if commit then 2 else 3) t (settleDelivery t.id commit u1)
  let s3 := ms.foldl one s2
  { s3 with tasks := s3.tasks.filter (fun t => !(ms.any (fun m => m.id == t.id))) }

/-- A DECIDE task at its commit point (R65). -/
def decideCommit (t : Task) (s : State) : State :=
  let s1 := writeRecord t 0 s
  let s2 := notifyDone t (markAlive t.job s1)
  dropTask t.id (pushAndRelease t s2)

/-- E1: every outcome evaluated in the closing tick takes effect, then the loss entries follow, then the layer rows
(R65, R147, R154, R176); the Strainer's discard mark of the job goes, and a mismatch for which no slot 4 has been sent is
LATE (R346). -/
def outcomes (s : State) : State :=
  let ds := s.tasks.filter (fun t => t.phase == .evaluated)
  let parts := ds.flatMap (fun d => if d.outcome = some true then heldMembers s d.job d.gid d.use else [])
  let s1 := ds.foldl (fun u d => decideCommit d (settleGroup d.job d.gid d.use (d.outcome == some true) u)) s
  let s2 := ds.foldl (fun u d => lossUpdate d.job d.gid (d.outcome == some true) u) s1
  let s3 := parts.foldl (fun u t => contribute t u) s2
  let s4 := ds.foldl (fun u d => releaseLate d.job true u) s3
  { s4 with rel := { s4.rel with discards := s4.rel.discards.filter (fun j => !ds.any (fun d => d.job == j)) } }

/-- PROVISIONAL_DRAIN: the background copy of a committed line is done and its space is free (R65, R223). -/
def drainEffect (job gid line : Nat) (s : State) : State :=
  match s.drain.find? (fun d => d.job == job && d.gid == gid && d.line == line) with
  | none => s
  | some d =>
    let s1 := bump (pageOf .crm (granSlice s d.gran) 0) 0 11 1 { s with drain := s.drain.erase d }
    match winOf (line * 256) with
    | .hbm => forJob d.job (cacheTouch drainClass line true d.len) s1
    | .scr => bump (pageOf .crm (scrServes s (line * 256)) 0) 0 9 d.len s1
    | _ => s1

/-- PROVISIONAL_DRAIN (R65). -/
def execProvisionalDrain (job group line : Nat) (s : State) : Res := .next (drainEffect job group line s)

end Sys2Proof.Machine
end

