-- ==== Sys2Proof/Machine/Arrays.lean ====
section
/-! DEFINITION. The controls of a matrix array: its mode (R72), the swap of its banks (R76, R77), the current keeper
(R93-R95), long stalls (R96) and the test access to the banks (R97). -/

namespace Sys2Proof.Machine

/-- A page's counters cleared. -/
def clearCounters (page : Nat) (s : State) : State := { s with cnt := s.cnt.filter (fun x => x.1 / 32 != page) }

/-- A write of MODE (R72): while the array works or holds a context it is discarded. A change clears page 2's counters
(Table 3.14), and no tile is in place in the units of the new mode. -/
def arrayModeEffect (n : Nat) (v : Word) (s : State) : State :=
  if work s (ap n 0) ∨ (arrEngines n).any (fun e => !(getEng s e).ctx.isEmpty) = true then raise (ap n 0) 8 0x200 s
  else if bit v 0 = quadMode s n then s
  else
    let a := getArr s n
    clearCounters (ap n 2)
      (setArr n { a with bands := [], cols := [], units := mmap (fun _ u => { u with placed := none }) a.units }
        (storeReg (ap n 0) 0x200 v s))

/-- ARRAY_MODE_WRITE (R72). -/
def execArrayModeWrite (who : Initiator) (n : Fin 4) (v : Word) (s : State) : Res :=
  .next (regGuard who (ap n.val 0) 0x200 v (fun w t => arrayModeEffect n.val w t) s)

/-- ARM written for a unit (R76): with AUTO it has no effect; before the load is ready it is held. -/
def armUnit (n : Nat) (s : State) (q : Nat) : State :=
  let u := getUnit s n q
  if swapAuto s n q = true ∨ unitIn s n q = false then s
  else if u.ready then setUnit n q { u with armed := true } s
  else setUnit n q { u with armHeld := true } s

/-- A write of SWAP_CTL (Table 3.12). -/
def swapEffect (n : Nat) (v : Word) (s : State) : State :=
  ((List.range 4).filter (fun q => bit v q)).foldl (armUnit n) (storeReg (ap n 0) 0x208 v s)

/-- SWAP_ARM (R76). -/
def execSwapArm (who : Initiator) (n : Fin 4) (v : Word) (s : State) : Res :=
  .next (regGuard who (ap n.val 0) 0x208 v (fun w t => swapEffect n.val w t) s)

/-- The unit's insole load is ready for arming, and armed with AUTO or a held ARM (R76). A swap front of the pass before has
crossed the unit's first row by then, and the model ends FRONT here (DESIGN CHOICE, log 41). -/
def markReady (n q : Nat) (load : Option (Nat × Nat)) (page6 : Bool) (s : State) : State :=
  let u := getUnit s n q
  let arm := swapAuto s n q || u.armHeld || u.armed
  setUnit n q { u with ready := true, chained := false, armed := arm, armHeld := u.armHeld && !arm, front := false,
                       insole := page6, load := load } s

/-- LOAD_READY: the loader has written the insole bank with the tile it loads next, whose words pass their check bits (R96), and
the load becomes ready for arming (R76, R77). A ready load of another pass gives way: the unit has run another slice since
(R91). -/
def loadReadyEffect (n q : Nat) (s : State) : State :=
  let u := getUnit s n q
  if unitIn s n q = false then s else
  match nextTile s n q with
  | none => if u.ready then s else markReady n q none false s
  | some x =>
    if u.ready && (u.insole || u.load == some (x.1.id, x.2)) then s else
    match lsChecked x.1 (tileSpans x.1 x.2) s (fun s1 => .go x.1 s1) with
    | .go _ s1 => markReady n q (some (x.1.id, x.2)) false (loadTile n q (!u.bank) x.1 x.2 s1)
    | .fail f s1 => finish x.1 f s1
    | .wait => s

/-- LOAD_READY (R76). -/
def execLoadReady (n q : Fin 4) (s : State) : Res := .next (loadReadyEffect n.val q.val s)

/-- CHAINED_LOAD_START: behind the swap front of the running pass (R77). -/
def chainedEffect (n q : Nat) (s : State) : State :=
  let u := getUnit s n q
  if u.front = false ∨ u.chained = true ∨ u.ready = true ∨ unitIn s n q = false then s else setUnit n q { u with chained := true } s

/-- CHAINED_LOAD_START (R77). -/
def execChainedLoadStart (n q : Fin 4) (s : State) : Res := .next (chainedEffect n.val q.val s)

/-- TILE_PASS_START: with the swap armed, and the keeper at full activity, the insole bank becomes the active one behind the
front, for the task that runs on the unit; without, the feeder waits (R76, R77, R94). -/
def passStartEffect (n q : Nat) (s : State) : State :=
  if (getUnit s n q).armed = false ∨ unitIn s n q = false ∨ climbing s n q = true then s else
  match unitTask s n q with
  | none => swapIn n q none s
  | some t => if canSwap s n q t (passOf t t.pos) then swapIn n q (some t) s else s

/-- TILE_PASS_START (R76). -/
def execTilePassStart (n q : Fin 4) (s : State) : Res := .next (passStartEffect n.val q.val s)

/-! ### The current keeper (R93-R95) -/

/-- KEEPER_STEP_DOWN: `gap` cycles into a gap (R94). The cycles of the gap not counted yet carry dummy rows up to the step that
is due (R93); before it is due the keeper takes none. -/
def keeperDownEffect (n q gap : Nat) (s : State) : State :=
  let u := getUnit s n q
  let due := keepCycles s n + u.step * rampDwell s n
  if keepEn s n = false ∨ unitIn s n q = false ∨ rampSteps s n ≤ u.step then s
  else if gap < due then dummyRows n q (gap - u.gap) (setUnit n q { u with gap := max u.gap gap } s)
  else
    let s1 := dummyRows n q (due - u.gap) (setUnit n q { u with step := u.step + 1, gap := due } s)
    if u.step + 1 = rampSteps s n then bump (ap n 5) 0 (4 + q) 1 s1 else s1

/-- KEEPER_STEP_DOWN (R94). -/
def execKeeperStepDown (n q : Fin 4) (gap : Nat) (s : State) : Res := .next (keeperDownEffect n.val q.val gap s)

/-- A write of KEEP_CTL: with KEEP_EN 0 there is no keeper and no ramp, and every unit is at full activity (R94). -/
def keepCtlEffect (n : Nat) (v : Word) (s : State) : State :=
  let s1 := storeReg (ap n 5) 0x200 v s
  if keepEn s1 n then s1 else setArr n { getArr s1 n with units := mmap (fun _ u => { u with step := 0 }) (getArr s1 n).units } s1

/-- KEEPER_STEP_UP: one step of the climb before the first real row (R94). -/
def keeperUpEffect (n q : Nat) (s : State) : State :=
  let u := getUnit s n q
  if keepEn s n = false ∨ u.step = 0 ∨ unitIn s n q = false then s
  else bump (ap n 5) 0 (8 + q) (rampDwell s n) (dummyRows n q (rampDwell s n) (setUnit n q { u with step := u.step - 1, gap := 0 } s))

/-- KEEPER_STEP_UP (R94). -/
def execKeeperStepUp (n q : Fin 4) (s : State) : Res := .next (keeperUpEffect n.val q.val s)

/-! ### Stalls and test access -/

/-- LONG_STALL: a band or column group has stalled for `cycles` without a break; with 0 its stall is over (Table 3.14). -/
def longStallEffect (n : Nat) (column : Bool) (idx cycles : Nat) (s : State) : State :=
  let lim := regFld s (ap n 2) 0x200 15 0
  if quadMode s n = false ∧ 16 ≤ idx then s else
  let a := getArr s n
  let upd (l : List Nat) : List Nat := (l.filter (· ≠ idx)) ++ (if cycles = 0 then [] else [idx])
  let s1 := setArr n (if column then { a with cols := upd a.cols } else { a with bands := upd a.bands }) s
  if lim ≠ 0 ∧ lim < cycles then intSet (ap n 0) 1 s1 else s1

/-- LONG_STALL (R96). -/
def execLongStall (n : Fin 4) (column : Bool) (idx : Fin 32) (cycles : Nat) (s : State) : Res :=
  .next (longStallEffect n.val column idx.val cycles s)

/-- Row and bank selected in TBANK_SEL (Table 3.19). -/
def bankRow (s : State) (n : Nat) : Nat := regFld s (ap n 6) 0x200 8 0
def bankSel (s : State) (n : Nat) : Bool := regBit s (ap n 6) 0x200 9

/-- A cell of a bank written. -/
def putCell (n : Nat) (bank : Bool) (r c v : Nat) (s : State) : State :=
  let a := getArr s n
  let k := cellAt false 0 r c
  setArr n { a with banks := mput a.banks (bankKey bank k.1) (mput (mget a.banks (bankKey bank k.1) []) k.2 v) } s

/-- Word `w` of row `r` of a unit's bank was written through page 6, `k` words being a row of it: in the active bank the cells
stand there at once; in the insole bank they are a standalone load, which is ready once every word of its last row has
been written (R76, R97). -/
def bankWritten (n q : Nat) (bank last : Bool) (w k : Nat) (s : State) : State :=
  let u := getUnit s n q
  if bank == u.bank then setUnit n q { u with pattern := true } s
  else if last = false then s
  else
    let row := if u.row.contains w then u.row else w :: u.row
    if row.length < k then setUnit n q { u with row := row } s else markReady n q none true (setUnit n q { u with row := [] } s)

/-- A word of the selected row written: four cells of 16 bits; discarded with BUSY while the array works (R97). -/
def tbankEffect (n w : Nat) (v : Word) (s : State) : State :=
  if work s (ap n 0) then raise (ap n 6) 4 (0x1000 + 8 * w) s else
  let r := bankRow s n
  let quad := quadMode s n
  bankWritten n (if quad then r / 256 * 2 + w / 64 else 0) (bankSel s n) (if quad then r % 256 == 255 else r == 511)
    (if quad then w % 64 else w) (if quad then 64 else 128)
    ((List.range 4).foldl (fun u i => putCell n (bankSel s n) r (4 * w + i) (fld v (16 * i + 15) (16 * i)) u) s)

/-- TBANK_ROW_WRITE (R97). -/
def execTbankRowWrite (who : Initiator) (n : Fin 4) (w : Fin 128) (v : Word) (s : State) : Res :=
  .next (regGuard who (ap n.val 6) (0x1000 + 8 * w.val) v (fun x t => tbankEffect n.val w.val x t) s)

end Sys2Proof.Machine
end

