-- ==== Sys2Proof/Machine/Keyed.lean ====
section
/-! DEFINITION. Command envelopes (R375, Table 13.5): their bytes, their check value, their responses, and where a response
goes (R377, R397, R417, R418). -/

namespace Sys2Proof

/-- CMD, VERSION, PAYLOAD_LEN of an envelope. -/
def Envelope.cmd (e : Envelope) : Nat := fld e.w0 39 32
def Envelope.len (e : Envelope) : Nat := fld e.w2 43 32

/-- The bytes before the MAC. -/
def Envelope.head (e : Envelope) : List Byte := Machine.wordsBytes [e.w0, e.chipId, e.w2, e.counter] ++ e.payload

/-- The envelope's bytes. -/
def Envelope.bytes (e : Envelope) : List Byte := e.head ++ Machine.toLe 16 e.mac.toNat

/-- The payload without its padding. -/
def Envelope.data (e : Envelope) : List Byte := e.payload.take e.len

/-- MAGIC, VERSION, reserved fields and length are those of Table 13.5 (R376, check 1). -/
def Envelope.formOk (e : Envelope) : Bool :=
  decide (fld e.w0 31 0 = 0x444E4D43 ∧ fld e.w0 47 40 = 1 ∧ fld e.w0 63 48 = 0 ∧ fld e.w2 31 17 = 0 ∧ fld e.w2 63 44 = 0 ∧
    e.len ≤ 2048 ∧ e.payload.length = cdiv e.len 8 * 8)

end Sys2Proof

namespace Sys2Proof.Machine

def mgtPage : Nat := pageOf .mgt 0 0

/-- The MAC field: the first 16 bytes of HMAC-SHA-256 under a key (R375). -/
def macOf (key bs : List Byte) : BitVec 128 := BitVec.ofNat 128 (leNat ((Crypto.hmac key bs).take 16))

/-- The bytes of a response before its MAC: it carries the epoch, echoes COUNTER, and its payload is padded (R377). -/
def respHead (s : State) (cmd status : Nat) (counter : Word) (payload : List Byte) : List Byte :=
  wordsBytes [word (0x50534552 + (cmd % 128 + 128) * 2 ^ 32 + 2 ^ 40), Config.chipId,
              word (s.sec.epoch + status * 256 + payload.length * 2 ^ 32), counter] ++
  payload ++ List.replicate (cdiv payload.length 8 * 8 - payload.length) 0

/-- A response sealed with its MAC; a device without an owner uses the empty key (DESIGN CHOICE, log 60). -/
def respSealed (key head : List Byte) : List Byte := head ++ toLe 16 (macOf key head).toNat

/-- A stored response sent again, with REPLAYED (R377). -/
def markReplayed (head : List Byte) : List Byte := head.set 18 (head.getD 18 0 ||| 1#8)

/-- The header of one fragment of a device's message (Table 14.9): RESP, FIRST and LAST, MSG_ID, OFFSET, FRAG_LEN; MSG_LEN and
STATUS. -/
def mgtHead (chan msg status total off len : Nat) : Word × Word :=
  (word (chan + 256 + b2n (decide (off = 0)) * 512 + b2n (decide (off + len = total)) * 1024 + msg % 65536 * 2 ^ 16 +
     off * 2 ^ 32 + len * 2 ^ 48),
   word (total + status * 65536))

/-- A message goes out on a management port, in fragments of up to 1,484 bytes; CNT2, CNT3 and CNT4 count (R415, R416,
R419). -/
def sendMgt (port : Nat) (dst : BitVec 48) (chan msg status : Nat) (data : List Byte) (s : State) : State :=
  let n := max 1 (cdiv data.length 1484)
  let frag (u : State) (i : Nat) : State :=
    let part := (data.drop (1484 * i)).take 1484
    let h := mgtHead chan msg status data.length (1484 * i) part.length
    emit (.mgt port dst h.1 h.2 part) u
  (List.range n).foldl frag (bump mgtPage 0 4 1 (bump mgtPage 0 (2 + port) n s))

/-- The doorbell's response written into its buffer, or held while the buffer does not answer (R231, R397); to one that no longer
exists it is not written. -/
def doorAnswer (a : Nat) (bs : List Byte) (s : State) : State :=
  let r1 := access s a
  let r2 := access s (a + bs.length - 1)
  if r1 = .wait ∨ r2 = .wait then { s with sec := { s.sec with doorResp := some bs } } else
  let s1 := if r1 = .ok ∧ r2 = .ok then wrBytes 2 a bs s else s
  { s1 with sec := { s1.sec with door := none, doorResp := none, done := true, status := (bs.getD 17 0).toNat } }

/-- A response that waits for its buffer is written once the buffer answers; the model looks at each boundary (DESIGN CHOICE, log
144). -/
def doorRetry (s : State) : State :=
  match s.sec.door, s.sec.doorResp with
  | some a, some bs => doorAnswer a bs s
  | _, _ => s

/-- A response goes back where its command came from: into the doorbell's buffer, out on the management port, or straight
to the sender (R397, R415). -/
def sendResponse (src : CmdSrc) (bs : List Byte) (s : State) : State :=
  match src with
  | .door a => doorAnswer a bs s
  | .mgt r => sendMgt r.port r.src 2 r.msg 0 bs s
  | .direct => emit (.response bs) s

/-- Where a command in hand came from: the doorbell's buffer or the oldest request of the COMMAND channel that holds just
these bytes; the request is taken from its channel (R375, R418). -/
def takeSource (e : Envelope) (s : State) : CmdSrc × State :=
  let bs := e.bytes
  let held := mget s.mgt.held 2 []
  if s.sec.door.any (fun a => access s a == .ok && s.sec.doorResp.isNone && memBytes s.mem a bs.length == bs) then (.door (s.sec.door.getD 0), s)
  else match held with
    | r :: rs => if r.data = bs then (.mgt r, { s with mgt := { s.mgt with held := mput s.mgt.held 2 rs } }) else (.direct, s)
    | [] => (.direct, s)

/-- A command that has no effect is answered with the status of the failing check (R376). -/
def rejectCmd (src : CmdSrc) (e : Envelope) (status : Nat) (s : State) : State :=
  sendResponse src (respSealed s.sec.ock (respHead s e.cmd status e.counter [])) s

/-- A response goes out, or waits behind those that wait for the end of a compaction (R377, R386). -/
def answerOrHold (src : CmdSrc) (bs : List Byte) (held : Bool) (s : State) : State :=
  if held then { s with sec := { s.sec with waiting := s.sec.waiting ++ [(src, bs)] } } else sendResponse src bs s

/-- An accepted command is answered once its journal record is committed: at once, or at the end of a compaction (R377,
R386). `key` makes the MAC; `keep` says whether the counter and the response are stored with it. -/
def acceptCmd (src : CmdSrc) (e : Envelope) (key : List Byte) (keep : Bool) (payload : List Byte) (s : State) : State :=
  let head := respHead s e.cmd 0 e.counter payload
  let x := if keep then { s.sec with counter := e.counter.toNat, stored := some (e.mac, head) } else s.sec
  answerOrHold src (respSealed key head) s.sec.compacting { s with sec := x }

end Sys2Proof.Machine
end

