-- ==== Sys2Proof/Machine/Cper.lean ====
section
/-! DEFINITION. CPER records and the ring they go to (R339, R341, R343, Tables 12.1 to 12.3), and map-out requests up to their
start (R355, R356, Table 12.6). -/

namespace Sys2Proof.Machine

/-! ### Records (R341) -/

/-- CPER severity of a class (Table 12.1). -/
def severity (cls : Nat) : Nat := [2, 0, 0, 1, 3].getD cls 3

/-- Two decimal digits of a number, in BCD. -/
def bcd (n : Nat) : Nat := n % 10 + n / 10 % 10 * 16

/-- Year, month and day of a day counted from 1970-01-01. -/
def civil (days : Nat) : Nat × Nat × Nat :=
  let z := days + 719468
  let doe := z % 146097
  let yoe := (doe - doe / 1460 + doe / 36524 - doe / 146096) / 365
  let doy := doe - (365 * yoe + yoe / 4 - yoe / 100)
  let mp := (5 * doy + 2) / 153
  let m := if mp < 10 then mp + 3 else mp - 9
  (yoe + z / 146097 * 400 + b2n (decide (m ≤ 2)), m, doy - (153 * mp + 2) / 5 + 1)

/-- The header's Timestamp: seconds, minutes, hours, a flag byte, day, month, year and century in BCD (PRESUMED from UEFI,
log 61). -/
def timestamp (ns : Nat) : List Byte :=
  let t := ns / 1000000000
  let c := civil (t / 86400)
  [bcd (t % 60), bcd (t / 60 % 60), bcd (t / 3600 % 24), 0, bcd c.2.2, bcd c.2.1, bcd (c.1 % 100), bcd (c.1 / 100)].map
    (BitVec.ofNat 8)

/-- The bytes of a GUID written as its five groups: the first three little-endian (PRESUMED from UEFI, log 61). -/
def guidBytes (a b c d e : Nat) : List Byte := toLe 4 a ++ toLe 2 b ++ toLe 2 c ++ Crypto.beBytes 2 d ++ Crypto.beBytes 6 e

/-- Section type GUIDs of the device and signature sections (R341). -/
def guidDevice : List Byte := guidBytes 0x5B2D0E71 0x9C34 0x4F0A 0xB8D6 0x3E41A7C92F05
def guidSign : List Byte := guidBytes 0x5B2D0E72 0x9C34 0x4F0A 0xB8D6 0x3E41A7C92F05

/-- The 128-byte UEFI record header (R341; the layout is PRESUMED from UEFI, log 61). -/
def recHeader (s : State) (sev seq : Nat) : List Byte :=
  let t := wallNs s
  [0x43#8, 0x50#8, 0x45#8, 0x52#8] ++ toLe 2 0x0101 ++ toLe 4 0xFFFFFFFF ++ toLe 2 2 ++ toLe 4 sev ++
  toLe 4 (1 + 2 * b2n t.isSome) ++ toLe 4 784 ++ (match t with | some ns => timestamp ns | none => toLe 8 0) ++
  guidDevice ++ toLe 16 0 ++ guidDevice ++ toLe 16 (Config.cperGuid (if sev = 0 ∨ sev = 1 then 1 else 0)).toNat ++
  toLe 8 seq ++ toLe 4 0 ++ toLe 8 0 ++ toLe 12 0

/-- A 72-byte section descriptor (R341). -/
def sectionDesc (off len : Nat) (primary : Bool) (guid : List Byte) (sev : Nat) : List Byte :=
  toLe 4 off ++ toLe 4 len ++ toLe 2 0x0101 ++ [2#8, 0#8] ++ toLe 4 (b2n primary) ++ guid ++ toLe 16 0 ++ toLe 4 sev ++
  partNumber ++ toLe 4 0

/-- What a record says beyond its event: occurrences covered, HIST_COUNT, DECISION, BUDGET_OUT, and the ERR_STS bit of an event the
Cobbler itself sets (R341). -/
structure RecInfo where
  count : Nat := 1
  hist : Nat := 0
  decision : Nat := 0
  budget : Bool := false
  errBit : Nat := 0
  deriving DecidableEq, Repr

/-- The device section (Table 12.2). -/
def devSection (s : State) (e : ErrEvent) (seq : Nat) (r : RecInfo) : List Byte :=
  wordsBytes [word seq,
    word (devNum s + b2n (devValid s) * 2 ^ 14 + e.cls * 2 ^ 16 + e.code * 2 ^ 24 + e.inst * 2 ^ 40 + e.unit % 256 * 2 ^ 48 +
      e.kind * 2 ^ 56),
    word e.tick,
    word (s.rel.opMin % 2 ^ 32 + e.job * 2 ^ 32 + e.status % 256 * 2 ^ 48 + e.errBit * 2 ^ 56),
    word e.addr,
    word (e.locus % 2 ^ 32 + r.count % 2 ^ 32 * 2 ^ 32),
    word (min r.hist 65535 + r.decision * 2 ^ 16 + b2n e.late * 2 ^ 20 + b2n r.budget * 2 ^ 21 +
      imageVersion s 0 (fwSlot s 0) % 2 ^ 32 * 2 ^ 32),
    word (if e.cls = 3 then s.rel.fqCause else 0)] ++
  toLe 64 e.detail

/-- A whole record (R341). -/
def recBytes (s : State) (e : ErrEvent) (seq : Nat) (r : RecInfo) : List Byte :=
  let sev := severity e.cls
  let body := recHeader s sev seq ++ sectionDesc 272 128 true guidDevice sev ++ sectionDesc 400 384 false guidSign sev ++
    devSection s e seq r
  body ++ Config.pssSign (1 + s.sec.keyGen) body

/-! ### The ring and the fault log (R343) -/

def cperBase (s : State) : Nat := regFld s cblPage 0x260 49 12 * 4096

/-- A record written to the ring, or lost with CPER_LOST when the ring is full or cannot be reached. -/
def ringPut (bs : List Byte) (s : State) : State :=
  let b := cperBase s
  let wr := (memWord s.mem b).toNat % 1024
  let rd := (memWord s.mem (b + 8)).toNat % 1024
  let a := b + 64 + 1024 * wr
  if access s b = .ok ∧ access s a = .ok ∧ access s (a + 1023) = .ok ∧ (wr + 1) % 1024 ≠ rd then
    wrBytes 1 b (toLe 8 ((wr + 1) % 1024)) (wrBytes 1 a (bs ++ List.replicate (1024 - bs.length) 0) s)
  else raise cblPage 11 0 { s with rel := { s.rel with lost := satAdd 32 s.rel.lost 1 } }

/-- A record built, signed and put where it goes: into the ring unless the device is in fail-quiet, and into the fault log
with severity 0 or 1 or a decision (R341, R343, R363). Firkin records that are ready are signed before it (R394). -/
def emitRecord (e : ErrEvent) (r : RecInfo) (s0 : State) : State :=
  let s := signReady s0
  let seq := s.rel.seq + 1
  let bs := recBytes s e seq r
  let logged := decide (severity e.cls < 2 ∨ r.decision ≠ 0)
  let all := if logged then s.rel.faultLog ++ [bs] else s.rel.faultLog
  let s1 : State := { s with rel := { s.rel with seq := seq, emitted := satAdd 32 s.rel.emitted 1,
                                                 faultLog := all.drop (all.length - 4096) } }
  let s2 := journal (if logged then 784 else 8) s1
  if s2.rel.fqActive then s2 else ringPut bs s2

/-- An INFO record of the Cobbler about a unit. -/
def infoRecord (code inst unit kind locus detail : Nat) (r : RecInfo) (s : State) : State :=
  emitRecord { mkEv cblPage 4 kind with code := code, inst := inst, unit := unit, locus := locus, detail := detail,
                                        errBit := r.errBit, tick := s.tck.num } r s

/-! ### Units (Table 12.6) -/

/-- The first page of the instance of a block code. -/
def codePage (code inst : Nat) : Nat :=
  match blockTable.find? (fun r => r.code == code) with
  | some r => pageOf r.block inst 0
  | none => 0

/-- The unit can be mapped out: its number within its block, 0 where a block is mapped out whole. -/
def unitOf (code inst unit : Nat) : Option Nat :=
  if code = 0x10 then (if inst < 4 then some 0 else none)
  else if code = 0x11 then (if inst < 16 then some 0 else none)
  else if code = 0x20 then (if inst < 8 then some 0 else none)
  else if code = 0x30 then (if inst < 64 then some 0 else none)
  else if code = 0x31 then (if inst < 8 ∧ unit < 64 then some unit else none)
  else if code = 0x40 then (if inst < 16 ∧ unit < 8 then some unit else none)
  else if code = 0x01 then (if inst = 0 ∧ unit < 16 then some unit else none)
  else none

/-- The unit is mapped out already. -/
def isOut (s : State) (code inst unit : Nat) : Bool :=
  s.rel.mapTab.any (fun m => m.code == code && m.inst == inst && m.unit == unit)

/-- Units of a block code mapped out. -/
def usedOut (s : State) (code : Nat) : Nat := (s.rel.mapTab.filter (fun m => m.code == code)).length

/-- The budget of a block code (MAPOUT_LIMIT); spares bound that of HBM (R242). -/
def budgetFor (s : State) (code : Nat) : Nat :=
  let l := getReg s cblPage 0x240
  if code = 0x10 then fld l 3 0 else if code = 0x11 then fld l 7 4 else if code = 0x20 then fld l 11 8
  else if code = 0x30 then fld l 15 12 else if code = 0x01 then fld l 19 16 else if code = 0x40 then fld l 27 20 else 512

/-- The entry of a unit among the suspects. -/
def isSuspect (code inst unit : Nat) (x : Nat × Nat × Nat × Nat) : Bool := x.1 == code && x.2.1 == inst && x.2.2.1 == unit

/-- The unit becomes suspect, or its minute moves on (R354); newly suspect gives an INFO record (Table 12.1). -/
def suspectUnit (code inst unit kind locus : Nat) (s : State) : State :=
  let known := s.rel.suspects.any (isSuspect code inst unit)
  let rest := s.rel.suspects.filter (fun x => !isSuspect code inst unit x)
  let s1 : State := { s with rel := { s.rel with suspects := rest ++ [(code, inst, unit, s.rel.opMin)] } }
  if known then s1 else
  let p := codePage code inst
  infoRecord code inst unit kind locus 0 { decision := 1 } (setBlk p { getBlk s1 p with suspect := true } s1)

/-- A further event of a suspect unit moves its minute on (R354). -/
def suspectSeen (code inst unit : Nat) (s : State) : State :=
  let f (x : Nat × Nat × Nat × Nat) : Nat × Nat × Nat × Nat :=
    if isSuspect code inst unit x then (code, inst, unit, s.rel.opMin) else x
  { s with rel := { s.rel with suspects := s.rel.suspects.map f } }

/-! ### Map-out requests (R356) -/

/-- The request is judged and its map-out begins: the RESULT of MAPOUT_STS, and the state with the start made. -/
def mapStart (q : MapReq) (s : State) : Nat × State :=
  match unitOf q.code q.inst q.unit with
  | none => (4, s)
  | some u =>
    if isOut s q.code q.inst u then (5, s)
    else if budgetFor s q.code ≤ usedOut s q.code ∧ q.force = false then (1, s)
    else if q.code = 0x30 then
      match rehomeStart q.inst true s with
      | some s1 => (0, s1)
      | none => (3, s)
    else if q.code = 0x31 then
      match pcReplace q.inst u none true s with
      | some s1 => (0, s1)
      | none => (2, raise (hp q.inst 2) 11 0 s)
    else (0, s)

/-- The oldest request is taken up, if it has not been. -/
def mapBegin (s : State) : State :=
  match s.rel.reqs with
  | [] => { s with rel := { s.rel with mapBusy := false } }
  | q :: rest =>
    if q.begun then s else
    let r := mapStart q s
    let full := decide (budgetFor s q.code ≤ usedOut s q.code)
    let q1 := { q with begun := true, result := r.1, beyond := full && decide (r.1 = 0 ∨ r.1 = 1) }
    { r.2 with rel := { r.2.rel with reqs := q1 :: rest, mapBusy := true, mapDone := false } }

/-- A request written to MAPOUT_REQ: requests are handled one at a time, in the order written (R356). -/
def mapEnqueue (q : MapReq) (s : State) : State :=
  mapBegin { s with rel := { s.rel with reqs := s.rel.reqs ++ [q] } }

/-- The unit of the request whose map-out has begun and takes effect at E2 (R355): block code and instance. -/
def mapAtE2 (s : State) : Option (Nat × Nat) :=
  match s.rel.reqs with
  | q :: _ => if q.begun ∧ q.result = 0 ∧ (q.code = 0x10 ∨ q.code = 0x11 ∨ q.code = 0x20) then some (q.code, q.inst) else none
  | [] => none

/-- The words of MAPOUT_STS. -/
def mapStsWord (s : State) : Word :=
  word (b2n s.rel.mapBusy + b2n s.rel.mapDone * 2 + s.rel.mapResult * 4)

end Sys2Proof.Machine
end

