-- ==== Sys2Proof/Machine/Reliab.lean ====
section
/-! DEFINITION. Reliability: the Cobbler's events and fault history (R339-R354), map-out (R355-R357), the Strainer's comparison
(R345, R346), in-field tests (R348-R350), firmware switches (R360), the watchdog and the triggers of the fail-quiet sequencer
(R361, R362). -/

namespace Sys2Proof.Machine

def tstPage : Nat := pageOf .tst 0 0

/-- The Cobbler runs (R408). -/
def cobblerUp (s : State) : Bool := decide (4 ≤ s.sys.phase ∧ s.sys.phase ≤ 7)

/-! ### The fault history (R351-R353) -/

/-- The entry of an event's key (R342). -/
def Hist.is (h : Hist) (e : ErrEvent) : Bool :=
  h.code == e.code && h.inst == e.inst && h.unit == e.unit && h.kind == e.kind && h.locus == e.locus

/-- act_permanent (R352): the DECISION it leads to, and the state after it. A whole port is no unit of Table 12.6: its map-out is
requested and refused as not mappable. -/
def actPermanent (e : ErrEvent) (kind : Nat) (s : State) : Nat × State :=
  if kind = 1 then (2, suspectUnit e.code e.inst e.unit e.kind e.locus s)
  else if kind = 0x0B ∧ 11 ≤ e.locus ∧ e.locus < 27 then (2, s)
  else if kind ∈ [2, 3, 4, 5, 6, 8, 9, 0x0A] ∧ e.code ∈ [0x10, 0x11, 0x20, 0x30, 0x31, 0x40] then
    if regBit s cblPage 0x200 0 then
      (3, mapEnqueue { code := e.code, inst := e.inst, unit := (unitOf e.code e.inst e.unit).getD e.unit, force := false } s)
    else (2, s)
  else (6, s)

/-- Room for a new entry: the TRANSIENT one with the oldest last minute goes; none when every entry is PERMANENT (R351). -/
def histRoom (hs : List Hist) : Option (List Hist) :=
  if hs.length < 4096 then some hs else
  let older (a : Option Hist) (h : Hist) : Option Hist :=
    if h.perm then a else match a with
      | none => some h
      | some x => if h.last < x.last then some h else some x
  match hs.foldl older none with
  | none => none
  | some h => some (hs.erase h)

/-- The fault history takes an event (R352): HIST_COUNT and DECISION, and the state after it. -/
def histApply (e : ErrEvent) (s : State) : Nat × Nat × State :=
  let now := s.rel.opMin
  let win := regFld s cblPage 0x208 23 0
  let others := s.rel.hist.filter (fun h => !h.is e)
  let set (hs : List Hist) (u : State) : State := { u with rel := { u.rel with hist := hs } }
  let fresh (hs : List Hist) : Nat × Nat × State :=
    let s1 := match histRoom hs with
      | some room => journal 32 (set (room ++ [⟨e.code, e.inst, e.unit, e.kind, e.locus, now, now, 1, false⟩]) s)
      | none => raise cblPage 10 0 s
    if e.cls = 0 then (1, 0, s1) else (1, 1, suspectUnit e.code e.inst e.unit e.kind e.locus s1)
  match s.rel.hist.find? (fun h => h.is e) with
  | some h =>
    if now ≤ h.last + win then
      let h1 := { h with count := h.count + 1, last := now, perm := true }
      let s1 := journal 32 (set (others ++ [h1]) s)
      if h.perm then (h1.count, 2, s1) else
      let r := actPermanent e e.kind s1
      (h1.count, r.1, r.2)
    else fresh others
  | none => fresh others

/-- Corrected events of a unit are counted by operating hour against CE_LIMIT and CE_MAPOUT (R353): the DECISION that CE_MAPOUT
leads to, once in an hour, and the state after it. -/
def ceCount (e : ErrEvent) (s : State) : Nat × State :=
  let hour := s.rel.opMin / 60
  let isU (c : CeHour) : Bool := c.code == e.code && c.inst == e.inst && c.unit == e.unit
  let old := s.rel.ce.find? (fun c => isU c && c.hour == hour)
  let n := old.elim 0 (·.count) + 1
  let acts := decide (regFld s cblPage 0x210 63 32 < n) && !old.any (·.acted)
  let rest := s.rel.ce.filter (fun c => c.hour == hour && !isU c)
  let s1 : State := { s with rel := { s.rel with ce := rest ++ [⟨e.code, e.inst, e.unit, hour, n, acts || old.any (·.acted)⟩] } }
  let s2 := if regFld s cblPage 0x210 31 0 < n then suspectUnit e.code e.inst e.unit e.kind e.locus s1 else s1
  if acts then actPermanent e 2 s2 else (0, s2)

/-! ### COBBLER_EVENT -/

/-- The oldest event whose handler runs: the Cobbler's or the Last's (R340). -/
def nextEvent (s : State) : Option ErrEvent :=
  s.rel.events.find? (fun e => if e.toLast then s.sys.lastUp else cobblerUp s)

/-- The handler has read ERR_FIRST of the instance's pages, which clears it (R28, R340). -/
def readFirst (e : ErrEvent) (s : State) : State :=
  match blockTable.find? (fun r => r.code == e.code) with
  | none => s
  | some r =>
    (List.range r.pages).foldl (fun u k =>
      let p := r.first + e.inst * r.pages + k
      let f := getReg u p 0x30
      if bit f 8 && fld f 7 0 == e.errBit then setReg p 0x30 0 u else u) s

/-- What the Cobbler does about an unstable PLL (R340); `seq` is the event's record. -/
def clockEvent (e : ErrEvent) (seq : Nat) (s : State) : State :=
  let n := e.locus
  if e.kind ≠ 0x0B ∨ e.cls ≠ 1 then s
  else if n < 3 then failQuiet 4 0x10 4 cblPage seq s
  else if n < 11 then
    let s1 : State := { s with rel := { s.rel with pllGrace := s.rel.pllGrace.filter (· ≠ n - 3) ++ [n - 3] } }
    if (getHbm s (n - 3)).state = 0 then s1 else refreshOnly (n - 3) s1
  else
    let p := n - 11
    let lane (k : Nat) : ErrEvent := { mkEv (lp p 0) 1 9 with unit := k, locus := k, tick := s.tck.num }
    let s1 := if (getPort s p).state = 0 then s else portState p 8 false s
    { s1 with rel := { s1.rel with events := s1.rel.events ++ (List.range 8).map lane } }

/-- The Cobbler or the Last takes an event: history, record, and what follows from it (R340-R354). A further corrected event of a
key is counted for the record at the end of its period; one that passes CE_MAPOUT makes a record of its own, which carries the
decision (R342, R353; DESIGN CHOICE, log 147). -/
def eventEffect (s : State) : State :=
  match nextEvent s with
  | none => s
  | some e =>
    let s0 := readFirst e { s with rel := { s.rel with events := s.rel.events.erase e } }
    if e.cls = 3 then
      emitRecord e { decision := if s.rel.noWarm ∧ e.kind = 0x0D then 6 else 0 } s0
    else if e.cls = 4 then emitRecord e {} s0
    else
      let r := histApply e (suspectSeen e.code e.inst e.unit s0)
      let s1 := r.2.2
      if e.cls = 0 then
        let key (c : Coal) : Bool := c.ev.code == e.code && c.ev.inst == e.inst && c.ev.unit == e.unit &&
          c.ev.kind == e.kind && c.ev.locus == e.locus
        let c := ceCount e s1
        let d := if c.1 = 0 then r.2.1 else c.1
        if c.2.rel.coal.any key then
          let s2 : State := { c.2 with
            rel := { c.2.rel with coal := c.2.rel.coal.map (fun x => if key x then { x with count := x.count + 1 } else x) } }
          if c.1 = 0 then s2 else emitRecord e { hist := r.1, decision := d } s2
        else
          emitRecord e { hist := r.1, decision := d }
            { c.2 with rel := { c.2.rel with coal := c.2.rel.coal ++ [⟨e, 0, s.rel.opMin⟩] } }
      else clockEvent e (s1.rel.seq + 1) (emitRecord e { hist := r.1, decision := r.2.1 } s1)

/-- COBBLER_EVENT (R352). -/
def execCobblerEvent (s : State) : Res := .next (eventEffect s)

/-- COALESCE_EXPIRE: the period of the `key`-th coalesced key, COALESCE minutes long, has ended (R342). -/
def coalesceEffect (key : Nat) (s : State) : State :=
  match s.rel.coal[key]? with
  | none => s
  | some c =>
    if cobblerUp s = false ∨ s.rel.opMin < c.start + regFld s cblPage 0x218 15 0 then s else
    let s1 : State := { s with rel := { s.rel with coal := s.rel.coal.eraseIdx key } }
    if c.count = 0 then s1 else
    let h := s.rel.hist.find? (fun h => h.is c.ev)
    emitRecord { c.ev with tick := s.tck.num }
      { count := c.count, hist := h.elim 1 (·.count), decision := if h.any (·.perm) then 2 else 0 } s1

/-- COALESCE_EXPIRE (R342). -/
def execCoalesceExpire (key : Nat) (s : State) : Res := .next (coalesceEffect key s)

/-- SEQ of the newest logged record of a clock event at a place, 0 for none (Table 12.3). -/
def clockSeq (s : State) (locus : Nat) : Nat :=
  let at' (r : List Byte) (i : Nat) : Nat := leNat ((r.drop (272 + 8 * i)).take 8)
  match s.rel.faultLog.reverse.find? (fun r => nfld (at' r 1) 63 56 == 0x0B && nfld (at' r 5) 31 0 == locus) with
  | some r => at' r 0
  | none => 0

/-- HBM_PLL_GRACE: 10 ms have passed since the Cobbler took the PLL_UNSTABLE of a stack (R340). -/
def hbmGraceEffect (n : Nat) (s : State) : State :=
  if cobblerUp s = false ∨ s.rel.pllGrace.contains n = false then s else
  failQuiet 4 0x10 4 cblPage (clockSeq s (n + 3)) { s with rel := { s.rel with pllGrace := s.rel.pllGrace.filter (· ≠ n) } }

/-- HBM_PLL_GRACE (R340). -/
def execHbmPllGrace (n : Fin 8) (s : State) : Res := .next (hbmGraceEffect n.val s)

/-- REF_GRACE_EXPIRE (R340). -/
def execRefGraceExpire (s : State) : Res :=
  .next (if cobblerUp s ∧ s.clk.refLost ∧ s.clk.refFail then failQuiet 4 0x10 4 cblPage 0 s else s)

/-- SUSPECT_CLEARED: the unit is suspect no more; its block shows SUSPECT while another of its units is (R354). -/
def suspectClearEffect (code inst unit : Nat) (s : State) : State :=
  match s.rel.suspects.find? (isSuspect code inst unit) with
  | none => s
  | some x =>
    if s.rel.opMin < x.2.2.2 + regFld s cblPage 0x208 47 24 ∨ cobblerUp s = false then s else
    let p := codePage code inst
    let s1 : State := { s with rel := { s.rel with suspects := s.rel.suspects.erase x } }
    infoRecord code inst unit 0 0 0 { decision := 7 }
      (setBlk p { getBlk s1 p with suspect := s1.rel.suspects.any (fun y => y.1 == code && y.2.1 == inst) } s1)

/-- SUSPECT_CLEARED (R354). -/
def execSuspectCleared (block : Nat × Nat) (unit : Nat) (s : State) : Res :=
  .next (suspectClearEffect block.1 block.2 unit s)

/-- OPERATING_MINUTE: the count advances and the lifetime energy is stored (R351, Table 13.9). -/
def minuteEffect (s : State) : State :=
  if s.sys.powered = false ∨ s.sys.released = false then s else
  let kJ := (s.mtr.total - s.mtr.lifeDone) / 1000000000
  journal 16 { s with rel := { s.rel with opMin := s.rel.opMin + 1 },
                      mtr := { s.mtr with life := s.mtr.life + kJ, lifeDone := s.mtr.lifeDone + kJ * 1000000000 } }

/-- OPERATING_MINUTE (R351). -/
def execOperatingMinute (s : State) : Res := .next (minuteEffect s)

/-! ### Map-out (R355-R357) -/

/-- A write of MAPOUT_REQ: GO adds the request it names (R356), while the Cobbler takes work (R32). -/
def mapoutReqEffect (v : Word) (s : State) : State :=
  let s1 := storeReg cblPage 0x230 v s
  if bit v 33 = false ∨ takesWork s cblPage = false then s1 else
  mapEnqueue { code := fld v 15 0, inst := fld v 23 16, unit := fld v 31 24, force := bit v 32 } s1

/-- MAPOUT_REQ (R356). -/
def execMapoutReq (who : Initiator) (v : Word) (s : State) : Res :=
  .next (regGuard who cblPage 0x230 (v ||| word (2 ^ 33)) mapoutReqEffect s)

/-- The map-out in hand has taken effect, or can take effect now (Table 12.6). -/
def mapReady (s : State) (q : MapReq) : Bool :=
  if q.result ≠ 0 then true
  else if q.code = 0x30 then (mfind s.crm.copying q.inst).isNone
  else if q.code = 0x31 then !(getHbm s q.inst).copyBusy
  else if q.code = 0x40 ∨ q.code = 1 then true
  else (getBlk s (codePage q.code q.inst)).mappedOut

/-- What a map-out of a lane or a core does at its end: the port retrains, SYS stops the core (Table 12.6). -/
def mapFinish (q : MapReq) (u : Nat) (s : State) : State :=
  if q.code = 0x40 then retrainTrigger q.inst s
  else if q.code = 1 then
    let off (m : Nat) : Nat := m - m / 2 ^ u % 2 * 2 ^ u
    setReg 0 0x210 (word (off (getReg s 0 0x210).toNat))
      { s with sys := { s.sys with cores := off s.sys.cores, coresOut := s.sys.coresOut - s.sys.coresOut / 2 ^ u % 2 * 2 ^ u + 2 ^ u } }
  else s

/-- MAP_OUT notices: with HOP = 1 on every ACTIVE MESH port, and to the group of R309 (R356). -/
def mapNotice (q : MapReq) (s : State) : State :=
  let w4 := q.code + q.inst * 65536
  let one (u : State) (p : Nat) : State :=
    if portActive u p ∧ portRole u p = 1 ∧ portEth u p = false then sendNotice p (devNum u) 4 0 true w4 u.tck.num u else u
  slowNotice 4 0 w4 s.tck.num ((List.range 16).foldl one s)

/-- MAPOUT_DONE: the request in hand ends, with its record, its notice and, for a keyed command, its response; the next one
is taken up (R356, Table 13.4). -/
def mapoutDoneEffect (s : State) : State :=
  match s.rel.reqs with
  | [] => s
  | q :: rest =>
    if q.begun = false ∨ mapReady s q = false ∨ cobblerUp s = false then s else
    let u := (unitOf q.code q.inst q.unit).getD q.unit
    let ok := decide (q.result = 0)
    let tab := if ok then s.rel.mapTab ++ [⟨q.code, q.inst, u, q.force, s.rel.opMin, (getHbm s q.inst).copyDst⟩] else s.rel.mapTab
    let s1 : State := { s with rel := { s.rel with reqs := rest, mapTab := tab, mapBusy := false, mapDone := true,
                                                   mapResult := q.result } }
    let s2 := if ok then intSet cblPage 1 (journal 16 (mapFinish q u s1)) else raise cblPage 12 0 s1
    let s3 := infoRecord q.code q.inst u 0x0E u (mapStsWord s2).toNat
      { decision := if ok then 4 else 5, budget := q.beyond, errBit := if ok then 0 else 12 } s2
    let s4 := if ok then mapNotice q s3 else s3
    let s5 := match q.keyed, s4.sec.mapWait with
      | true, (src, e) :: more =>
        acceptCmd src e s4.sec.ock true (wordBytes (mapStsWord s4)) { s4 with sec := { s4.sec with mapWait := more } }
      | _, _ => s4
    mapBegin s5

/-- MAPOUT_DONE (R356). -/
def execMapoutDone (s : State) : Res := .next (mapoutDoneEffect s)

/-! ### The Strainer's tile check (R345, R346) -/

/-- A mismatch charged to an array: its SILENT event (R346), unless TILE_MISMATCH is masked (R28). `wait` holds it until it is
known whether its step could still be discarded. -/
def chargeArr (n quad col job detail : Nat) (wait : Bool) (s : State) : State :=
  let e := { mkEv (pageOf .arr n 0) 2 6 with
    unit := quad, locus := col + b2n (quadMode s n) * 512, job := job, errBit := 8, detail := detail }
  if regBit s stnPage 0x28 8 then s else if wait then reportLate stnPage e s else report stnPage e s

/-- The elements in which a recompute differs from the delivered sums (R345). -/
def tileDiffs (c : Capture) (result : List F32) : List Nat :=
  (List.range c.sums.length).filter (fun i => result.getD i 0 != c.sums.getD i 0)

/-- The first differing column of the unit, and the first element of the tile in it. -/
def firstDiff (c : Capture) (ds : List Nat) : Nat × Nat :=
  let col := (ds.map (· % c.cols)).foldl min c.cols
  (c.col + col, (ds.find? (fun i => i % c.cols == col)).getD 0)

/-- DETAIL of a TILE_MISMATCH (Table 12.3): CAPTURE_HASH; the expected and the delivered FP32 of the first element that differs, the
expected in the low half (DEDUCED, log 148); how many differ; the units of the recompute and of the third computation. -/
def tileDetail (c : Capture) (result : List F32) (ds : List Nat) (i other third : Nat) : Nat :=
  leNat ((Crypto.sha256 c.bytes).take 8) + (result.getD i 0).toNat * 2 ^ 64 + (c.sums.getD i 0).toNat * 2 ^ 96 +
    ds.length * 2 ^ 128 + (other + third * 256) * 2 ^ 192

/-- The array of a third computation of a tile: `arr3` where it is a third one in service, or else the lowest-numbered such array;
none where there is none, THIRD is 0, or the computation has not ended OK (R345; DESIGN CHOICE, log 146). -/
def thirdArr (s : State) (c : Capture) (x : Recomp) (arr3 status3 : Nat) : Option Nat :=
  let ms := (otherArrays s c.arr).filter (· ≠ x.arr)
  if bit (getReg s stnPage 0x200) 10 = false ∨ status3 ≠ 1 then none else if ms.contains arr3 then some arr3 else ms.head?

/-- TILE_COMPARE: the recompute has run `cycles` cycles in all, has ended with `status` and come out as `result`; where that differs,
the third computation, if there is one, has ended with `status3` and come out as `third` (R345, R346). A sound unit gives the
delivered bits in either (R115). A recompute that has not ended OK, or whose array has been mapped out since, ends the check
without a comparison (DESIGN CHOICE, log 146). -/
def tileEffect (cycles status : Nat) (result : List F32) (arr3 status3 : Nat) (third : List F32) (s : State) : State :=
  match s.rel.capture, s.rel.recomp with
  | some c, x :: _ =>
    if s.rel.checking = false then s
    else if status ≠ 1 ∨ (getBlk s (pageOf .arr x.arr 0)).mappedOut = true then
      addAct 0 0 cycles { s with rel := { s.rel with checking := false, recomp := [], capture := none } }
    else
    let cfg := getReg s stnPage 0x200
    let s0 := countReg stnPage 0x220 (addAct 0 0 cycles { s with rel := { s.rel with checking := false, recomp := [] } })
    let ds := tileDiffs c result
    if ds.isEmpty then { s0 with rel := { s0.rel with capture := none } } else
    let used := thirdArr s c x arr3 status3
    let withDel := (tileDiffs c third).isEmpty
    let withRec := (List.range c.sums.length).all (fun i => third.getD i 0 == result.getD i 0)
    let chargeSampled := used.isNone || !withDel
    let chargeOther := used.isNone || withDel || !withRec
    let at' := firstDiff c ds
    let detail := tileDetail c result ds at'.2 x.arr (used.getD 0xFF)
    let wait := bit cfg 9 && chargeSampled
    let s1 := countReg stnPage 0x230 { s0 with rel := { s0.rel with capHeld := true } }
    let s2 := intSet stnPage 8 (raise stnPage 8 0 s1)
    let s3 := if regBit s2 stnPage 0x238 14 then s2 else
      setReg stnPage 0x238 (word (c.arr + c.quad * 4 + b2n c.quadMode * 16 + at'.1 * 32 + 2 ^ 14 + x.arr * 2 ^ 15 + tickLo s2 * 2 ^ 32)) s2
    let s4 := if chargeSampled then chargeArr c.arr c.quad at'.1 c.job detail wait s3 else s3
    let s5 := if chargeOther then chargeArr x.arr x.quad at'.1 c.job detail wait s4 else s4
    if wait && !s5.rel.discards.contains c.job then
      { s5 with rel := { s5.rel with discards := s5.rel.discards ++ [c.job] } }
    else s5
  | _, _ => s

/-- TILE_COMPARE (R345). -/
def execTileCompare (cycles status : Nat) (result : List F32) (arr3 : Fin 4) (status3 : Nat) (third : List F32) (s : State) : Res :=
  .next (tileEffect cycles status result arr3.val status3 third s)

/-- A write of CAP_CTL: RELEASE by the Cobbler or the Last ends the hold (R346). -/
def captureEffect (who : Initiator) (v : Word) (s : State) : State :=
  let may : Bool := match who with | .core _ => false | _ => true
  if bit v 1 && may && s.rel.capHeld then { s with rel := { s.rel with capHeld := false, capture := none } } else s

/-- CAPTURE_RELEASE (R346). -/
def execCaptureRelease (who : Initiator) (v : Word) (s : State) : Res :=
  .next (regGuard who stnPage 0x218 (v ||| 2#64) (captureEffect who) s)

/-- TILE_FAIL_FIRST_READ (R366). -/
def execTileFailFirstRead (who : Initiator) (s : State) : Res := .next (readClear who stnPage 0x238 s)

/-! ### In-field tests (R347-R350) -/

/-- A pack as it stands in SPI NOR: its header's first three words; the reserved ones and the test entries; task lists and data
images; signature (R347). -/
def packBytes (w0 w1 w2 : Word) (tests lists sign : List Byte) : List Byte := wordsBytes [w0, w1, w2] ++ tests ++ lists ++ sign

/-- Word `i` of a pack. -/
def packWord (bs : List Byte) (i : Nat) : Nat := leNat ((bs.drop (8 * i)).take 8)

/-- Test entry `i` of a pack (Table 12.5). -/
def packTest (bs : List Byte) (i : Nat) : PackTest :=
  let w (k : Nat) : Nat := packWord bs (8 + 8 * i + k)
  { code := nfld (w 0) 15 0, perQuad := nfld (w 0) 16 16 == 1, insts := w 1, period := nfld (w 2) 31 0, deadline := nfld (w 2) 63 32,
    taskOff := nfld (w 3) 31 0, taskCount := nfld (w 3) 47 32, imageOff := nfld (w 4) 31 0, imageLen := nfld (w 4) 63 32,
    expect := BitVec.ofNat 128 (w 5 + w 6 * 2 ^ 64) }

/-- What a pack's header and entries say (Tables 12.4, 12.5), with its place in HBM. -/
def packOf (bs : List Byte) (place : Nat) : Pack :=
  { id := nfld (packWord bs 0) 47 32, version := nfld (packWord bs 0) 63 48, svn := nfld (packWord bs 1) 15 8,
    tests := (List.range (nfld (packWord bs 1) 26 16)).map (packTest bs), digest := BitVec.ofNat 256 (Crypto.beNat (Crypto.sha256 bs)),
    bytes := bs, place := place }

/-- A pack may be loaded (R347, R348): MAGIC, STEPPING, LENGTH and TESTS are those of Table 12.4, its signature verifies under the
Awl signing key, and its SVN is not below the Awl security version. -/
def packGood (s : State) (bs : List Byte) : Bool :=
  let w1 := packWord bs 1
  let n := bs.length - 384
  decide (nfld (packWord bs 0) 31 0 = 0x314C5741 ∧ nfld w1 7 0 = 0xB0 ∧ nfld (packWord bs 2) 31 0 = bs.length ∧
    1 ≤ nfld w1 26 16 ∧ nfld w1 26 16 ≤ 1024 ∧ 64 + 64 * nfld w1 26 16 + 384 ≤ bs.length ∧ s.sec.awlSvn ≤ nfld w1 15 8) &&
  Config.pssVerify 1 (bs.take n) (bs.drop n)

/-- Where the next pack goes: behind those loaded, from PACK_BASE up, at the next 4 KiB (DESIGN CHOICE, log 99). -/
def packPlace (s : State) (others : List Pack) : Nat :=
  others.foldl (fun a p => max a (cdiv (p.place + p.bytes.length) 4096 * 4096)) (regFld s tstPage 0x208 49 12 * 4096)

/-- AWL_PACK_LOAD: a pack that passes every check of R348 is loaded or replaces the one with its PACK_ID; it stands in HBM from
PACK_BASE on where that answers, and measurement block 11 changes (R374). -/
def packEffect (bs : List Byte) (s : State) : State :=
  if s.sys.lastUp = false ∨ s.sys.phase < 4 then s
  else if packGood s bs = false then raise tstPage 8 0 s
  else
    let id := (packOf bs 0).id
    let others := s.rel.packs.filter (fun x => x.id != id)
    let a := packPlace s others
    let p := packOf bs a
    let s1 := if access s a = .ok ∧ access s (a + bs.length - 1) = .ok ∧ winOf a = .hbm then wrBytes 2 a bs s else s
    { s1 with rel := { s1.rel with packs := others ++ [p], tests := s1.rel.tests.filter (fun t => t.pack != id) },
              sec := { s1.sec with packs := mput s1.sec.packs id (p.version, p.digest) } }

/-- AWL_PACK_LOAD (R348). -/
def execAwlPackLoad (w0 w1 w2 : Word) (tests lists sign : List Byte) (s : State) : Res :=
  .next (packEffect (packBytes w0 w1 w2 tests lists sign) s)

/-- The first page of the engine of an ENG_TEST register: arrays, VEs, the Churn, Ladle engines (Table 12.12). -/
def testPage (e : Nat) : Nat :=
  if e < 4 then pageOf .arr e 0 else if e < 20 then pageOf .ve (e - 4) 0 else if e = 20 then pageOf .chn 0 0
  else pageOf .ldl (e - 21) 0

/-- Tests run on an engine by its number in TST: an array's and a VE's need a reserve in its store (R349). -/
def testsRun (s : State) (k : Nat) : Bool :=
  if k < 4 then arrReserve s != 0 else if k < 20 then regFld s tstPage 0x218 15 8 != 0 else true

/-- A test of a loaded pack. -/
def testEntry (s : State) (pack test : Nat) : Option PackTest := (s.rel.packs.find? (fun p => p.id == pack)).bind (·.tests[test]?)

/-- The test runs on the engine: one of its BLOCK_CODE and INSTANCES, and with PER_QUAD on each quadrant of an array (Table
12.5). -/
def PackTest.onUnit (x : PackTest) (e q : Nat) : Bool :=
  (x.code == (if e < 4 then 0x10 else if e < 20 then 0x11 else if e = 20 then 0x12 else 0x20)) &&
  x.insts.testBit (if e < 4 then e else if e < 20 then e - 4 else if e = 20 then 0 else e - 21) &&
  (q == 0 || (x.perQuad && decide (e < 4)))

/-- The test of a loaded pack that runs on the unit. -/
def hasTest (s : State) (e q pack test : Nat) : Bool := (testEntry s pack test).any (fun x => x.onUnit e q)

/-- The state kept of a test, changed by `f`; made when there is none yet. -/
def onTest (e q pack test : Nat) (f : TestSt → TestSt) (s : State) : State :=
  let is (t : TestSt) : Bool := t.eng == e && t.quad == q && t.pack == pack && t.test == test
  let ts := if s.rel.tests.any is then s.rel.tests.map (fun t => if is t then f t else t)
    else s.rel.tests ++ [f { eng := e, quad := q, pack := pack, test := test, dueAt := s.rel.opMin }]
  { s with rel := { s.rel with tests := ts } }

/-- The test is due on the unit. -/
def testIsDue (s : State) (e q pack test : Nat) : Bool :=
  s.rel.tests.any (fun t => t.eng == e && t.quad == q && t.pack == pack && t.test == test && t.due)

/-- The version of a loaded pack. -/
def packVersion (s : State) (pack : Nat) : Nat := (s.rel.packs.find? (fun p => p.id == pack)).elim 0 (·.version)

/-- The minute at which the test falls due on a unit: PERIOD_MIN after its last pass, an eighth of it while the unit is SUSPECT; at
once where it has never passed (R350; the last is a DESIGN CHOICE, log 99). -/
def testDueAt (s : State) (e q pack test : Nat) : Nat :=
  let period := (testEntry s pack test).elim 0 (·.period)
  match (s.rel.tests.find? (fun t => t.eng == e && t.quad == q && t.pack == pack && t.test == test)).bind (·.lastPass) with
  | some m => m + (if (getBlk s (testPage e)).suspect then period / 8 else period)
  | none => s.rel.opMin

/-- TEST_DUE (R350): on an engine without a reserve the test is skipped and counted (R349). -/
def testDueEffect (e q pack test : Nat) (s : State) : State :=
  let due := testDueAt s e q pack test
  if hasTest s e q pack test = false ∨ (getBlk s (testPage e)).mappedOut = true ∨ s.rel.opMin < due ∨ testIsDue s e q pack test = true
  then s
  else if testsRun s e = false then { s with rel := { s.rel with testsSkipped := s.rel.testsSkipped + 1 } }
  else onTest e q pack test (fun t => { t with due := true, dueAt := due }) s

/-- TEST_DUE (R350). -/
def execTestDue (e : Fin 29) (q : Fin 4) (pack test : Nat) (s : State) : Res := .next (testDueEffect e.val q.val pack test s)

/-- DEADLINE_MIN have passed since the test fell due on the unit. -/
def testIsLate (s : State) (e q pack test : Nat) : Bool :=
  testsRun s e && s.rel.tests.any (fun t => t.eng == e && t.quad == q && t.pack == pack && t.test == test && t.due &&
    decide (t.dueAt + (testEntry s pack test).elim 0 (·.deadline) ≤ s.rel.opMin))

/-- TEST_DEADLINE (R350). -/
def testLateEffect (e q pack test : Nat) (s : State) : State :=
  if testIsLate s e q pack test = false then s
  else intSet tstPage 2 (onTest e q pack test (fun t => { t with past := true }) s)

/-- TEST_DEADLINE (R350). -/
def execTestDeadline (e : Fin 29) (q : Fin 4) (pack test : Nat) (s : State) : Res :=
  .next (testLateEffect e.val q.val pack test s)

/-- TEST_RESULT (R350): OK with the expected hash is a pass, all else a failure. -/
def testResultEffect (e q pack test : Nat) (hash : BitVec 128) (status : Nat) (s : State) : State :=
  if testIsDue s e q pack test = false ∨ testsRun s e = false then s else
  let version := packVersion s pack
  let s1 := bump tstPage 0 0 1 s
  if status = 1 ∧ (testEntry s pack test).any (fun x => x.expect == hash) = true then
    bump tstPage 0 1 1 (onTest e q pack test (fun t => { t with lastPass := some s.rel.opMin, due := false, past := false }) s1)
  else
    let page := testPage e
    let o := (pageOwner page).getD (.sys, 0, 0)
    let unit := if e < 4 ∧ quadMode s e = true then q else 0
    let s2 := bump tstPage 0 2 1 (onTest e q pack test (fun t => { t with due := false, past := false }) s1)
    let s3 := if regBit s2 tstPage 0x228 26 then s2 else
      setReg tstPage 0x228 (word (pack % 65536 + test % 1024 * 2 ^ 16 + 2 ^ 26 + o.2.1 * 2 ^ 32 + q * 2 ^ 40)) s2
    let ev : ErrEvent := { mkEv page 2 8 with unit := unit, locus := pack % 65536 * 65536 + test % 65536, status := status,
                                              detail := version % 2 ^ 64 + hash.toNat % 2 ^ 64 * 2 ^ 64 }
    intSet tstPage 1 (raiseEv tstPage 9 0 ev s3)

/-- TEST_RESULT (R350). -/
def execTestResult (e : Fin 29) (q : Fin 4) (pack test : Nat) (hash : BitVec 128) (status : Nat) (s : State) : Res :=
  .next (testResultEffect e.val q.val pack test hash status s)

/-- TEST_FAIL_FIRST_READ (R367). -/
def execTestFailFirstRead (who : Initiator) (s : State) : Res := .next (readClear who tstPage 0x228 s)

/-! ### Firmware switches (R359, R360) -/

/-- The group's other slot becomes the active one, with its INFO record (R360, Table 12.3). -/
def fwFlip (g : Nat) (reverted : Bool) (s : State) : State :=
  let old := fwSlot s g
  let s1 := journal 8 { s with sec := { s.sec with active := s.sec.active + 2 ^ g - 2 * old * 2 ^ g } }
  let d := imageVersion s g old + imageVersion s g (1 - old) * 2 ^ 64 + b2n reverted * 2 ^ 128
  infoRecord 0x73 0 0 0x0F g d {} s1

/-- A group switches or reverts at its switch point: groups 0 and 1 at once, the others at the next boundary (Table
12.8). -/
def fwTurn (g : Nat) (reverted : Bool) (s : State) : State :=
  if g < 2 then fwFlip g reverted s
  else { s with sec := { s.sec with switching := s.sec.switching ++ [g + 8 * b2n reverted] } }

/-- The groups that switch at a boundary. -/
def fwBoundary (s : State) : State :=
  s.sec.switching.foldl (fun u x => fwFlip (x % 8) (decide (8 ≤ x)) u) { s with sec := { s.sec with switching := [] } }

/-- HEALTH_TIMEOUT (R360). -/
def healthEffect (g : Nat) (s : State) : State :=
  match mfind s.sec.trial g with
  | none => s
  | some limit =>
    if s.tck.num < limit then s else
    fwTurn g true { s with sec := { s.sec with trial := mdel s.sec.trial g } }

/-- HEALTH_TIMEOUT (R360). -/
def execHealthTimeout (group : Fin 5) (s : State) : Res := .next (healthEffect group.val s)

/-! ### Watchdog and triggers (R361, R362) -/

/-- A write of WDOG; KICK starts WDOG_MS again (R361). -/
def kickEffect (v : Word) (s : State) : State :=
  let s1 := storeReg cblPage 0x220 v s
  if bit v 16 then { s1 with rel := { s1.rel with kickTick := s1.tck.num } } else s1

/-- KICK (R361). -/
def execKick (who : Initiator) (v : Word) (s : State) : Res :=
  .next (regGuard who cblPage 0x220 (v ||| word (2 ^ 16)) kickEffect s)

/-- WATCHDOG (R361, R362): WDOG_MS have passed since the last kick; a tick lasts less than 65 microseconds. -/
def watchdogEffect (s : State) : State :=
  let ms := regFld s cblPage 0x220 15 0
  if cobblerUp s = false ∨ (s.tck.num - s.rel.kickTick + 1) * 65 < ms * 1000 then s
  else failQuiet 2 0x10 2 cblPage ms (raise cblPage 9 0 s)

/-- WATCHDOG (R362). -/
def execWatchdog (s : State) : Res := .next (watchdogEffect s)

/-- LOCKSTEP (R361, R362). -/
def execLockstep (s : State) : Res :=
  .next (if cobblerUp s then failQuiet 1 0x0D 0 cblPage 0 (raise cblPage 8 0 s) else s)

/-- RAIL (R362, Table 12.3). -/
def execRail (r : Fin 6) (milliV : Nat) (s : State) : Res :=
  .next (failQuiet 6 0x10 6 cblPage (r.val + milliV % 2 ^ 24 * 65536) s)

/-- A write of FQ_CTL (R362). -/
def policyEffect (v : Word) (s : State) : State := if bit v 0 then failQuiet 4 0x10 4 cblPage 0 s else s

/-- POLICY (R362). -/
def execPolicy (who : Initiator) (v : Word) (s : State) : Res := .next (regGuard who cblPage 0x250 (v ||| 1#64) policyEffect s)

end Sys2Proof.Machine
end

