-- ==== Sys2Proof/Machine/Admit.lean ====
section
/-! DEFINITION. Admission: candidate slices, their charge, the owner job, stolen ticks and the procedure of R173 (R170-R173,
R178, R180, R203, R305). -/

namespace Sys2Proof.Machine

/-- Every engine that runs slices: arrays whole and by quadrant, VEs, the Churn, Ladle engines, reduction lanes. -/
def allEngines : List Nat :=
  List.range 20 ++ (List.range 17).map (· + 0x20) ++ (List.range 8).map (· + 0x38) ++ (List.range 16).map (· + 0x80)

/-- The engine is a Ladle engine. -/
def isLadle (e : Nat) : Bool := decide (0x38 ≤ e ∧ e < 0x40)

/-- Contexts an engine holds at most (R173, R203, R305). -/
def ctxMax (e : Nat) : Nat := if e = 0x30 then 8 else if isLadle e then 1 else 4

/-- D of R172: U + 64 for an array unit, 64 for every other engine. -/
def resumeCost (e : Nat) : Nat := if e < 4 then 576 else if e < 20 then 320 else 64

/-- Cycles that the compute duty in force leaves an engine of `b`: on array units, VEs and the Churn `duty` sixteenths of them
(R319). -/
def dutyOf (s : State) (e b : Nat) : Nat := if e ≤ 0x30 then b * s.pwr.duty / 16 else b

/-- The whole budget of an engine for the tick: MCLK cycles for an array unit, FCLK cycles for the rest (R170, R171), by the
compute duty (R319). -/
def engBudget (s : State) (e : Nat) : Nat := dutyOf s e (budgetOf s (if e < 20 then s.tck.mclk else s.tck.fclk))

/-- The granule at which a slice from the task's position ends. -/
def sliceStop (s : State) (t : Task) : Nat :=
  match t.cls with
  | 1 => matStop t t.pos
  | 4 => updStop t t.pos
  | 5 => movStop t t.pos
  | 6 => redStop s t t.pos
  | _ => vecStop t t.pos

/-- The granules of the whole task. -/
def taskTotal (s : State) (t : Task) : Nat :=
  match t.cls with
  | 1 => matTotal t
  | 4 => updTotal t
  | 5 => movTotal t
  | 6 => redTotal s t
  | _ => vecTotal t

/-! ### Candidates (R172, R203) -/

/-- Tasks on an engine that have granules left and wait for nothing. -/
def liveOn (s : State) (e : Nat) : List Task :=
  s.tasks.filter (fun t => t.eng == e && t.phase == .dispatched && t.status == 0 && t.refetch.isNone && !t.parked &&
    t.direct.isNone && decide (t.pos < taskTotal s t))

/-- The active task of the Ladle channel served next: of the owner job, else of the next channel in ascending order
(R203). -/
def ladlePick (s : State) (e : Nat) (owner : Option Nat) : Option Task :=
  let g := getEng s e
  let ts := (List.range 16).filterMap (fun i =>
    (mfind g.active ((g.served + 1 + i) % 16)).bind (fun id => (liveOn s e).find? (fun t => t.id == id)))
  match ts.find? (fun t => owner == some t.job) with
  | some t => some t
  | none => ts.head?

/-- What a candidate is: a resumption, the next slice of a running task, the first of the further task. -/
inductive Cand where
  | ctx
  | run
  | next
  deriving DecidableEq, Repr

/-- Contexts, running tasks and the further task of an engine. -/
def candidates (s : State) (e : Nat) (owner : Option Nat) : List (Task × Cand) :=
  let g := getEng s e
  let live := liveOn s e
  let ctx := g.ctx.filterMap (fun id => live.find? (fun t => t.id == id))
  let rest := live.filter (fun t => !g.ctx.contains t.id)
  let runs := if isLadle e then rest.filter (fun t => g.running == some t.id)
    else (rest.filter (fun t => g.running == some t.id)) ++
      rest.filter (fun t => g.running != some t.id && g.further != some t.id)
  let next := if isLadle e then (if g.running.isNone ∧ g.ctx.isEmpty = true then (ladlePick s e owner).toList else [])
    else rest.filter (fun t => g.further == some t.id)
  ctx.map (fun t => (t, Cand.ctx)) ++ runs.map (fun t => (t, Cand.run)) ++ next.map (fun t => (t, Cand.next))

/-- Test slices are offered (R350, Table 12.12). -/
def testsOffered (s : State) : Bool := regBit s tstPage 0x200 0 && takesWork s tstPage

/-- The jobs of the candidates other than test slices, by job slot; a further task counts while nothing runs before it
(R178). On a Ladle engine with active tasks on several channels R178 and R203 refer to each other: the model takes the job of
the channel next in order alone (DESIGN CHOICE, log 51). -/
def readyJobs (s : State) (e : Nat) : List Nat :=
  let cs := candidates s e none
  let free := !cs.any (fun c => c.2 != .next)
  let js := (cs.filter (fun c => c.1.job != 0 && (c.2 != .next || free))).map (fun c => c.1.job)
  sortBy (fun a b => slotNo s a ≤ slotNo s b) js.eraseDups

/-- The number that TST gives an engine (Table 12.12); none for a reduction lane. -/
def testNo (e : Nat) : Option Nat :=
  if e < 20 then some (arrUnit e).1 else if e < 0x30 then some (e - 0x20 + 4) else if e = 0x30 then some 20
  else if isLadle e then some (e - 0x38 + 21) else none

/-- The order in which R173 goes through the candidates. -/
def candOrder (s : State) (e : Nat) (owner : Option Nat) (testsOnly : Bool) : List (Task × Cand) :=
  let cs := candidates s e owner
  let g := getEng s e
  let head := if ctxMax e ≤ g.ctx.length then cs.filter (fun c => c.2 == .ctx && g.ctx.head? == some c.1.id) else []
  let jobs := sortBy (fun a b => decide (owner = some a) || (!decide (owner = some b) && decide (slotNo s a ≤ slotNo s b)))
    ((cs.map (fun c => c.1.job)).filter (· ≠ 0)).eraseDups
  let tests := if testsOffered s && (testNo e).all (testsRun s) then cs.filter (fun c => c.1.job == 0) else []
  if testsOnly then tests
  else (head ++ jobs.flatMap (fun j => cs.filter (fun c => c.1.job == j)) ++ tests).eraseDups

/-! ### The procedure of R173 -/

/-- The charge of a slice (R172). -/
def sliceCharge (e : Nat) (c : Task × Cand) : Nat :=
  let d := resumeCost e
  if c.2 = .ctx then min c.1.bound (max d (c.1.bound - c.1.run + d)) else c.1.bound

/-- Admission under way. -/
structure AdmAcc where
  queue : List Adm := []
  budget : Nat
  held : Nat
  /-- Nothing has been admitted to the engine in this tick, and the budget is still whole. -/
  whole : Bool
  /-- The running task's last slice has been admitted, or none runs. -/
  lastOk : Bool
  stopped : Bool := false
  refused : Nat := 0
  big : Nat := 0
  tests : Nat := 0
  deriving DecidableEq, Repr

/-- One candidate of the order; a further task waits for the running task's last slice, while a test slice is a candidate of
its own (R172). -/
def admitOne (s : State) (e : Nat) (a : AdmAcc) (c : Task × Cand) : AdmAcc :=
  let t := c.1
  let n := sliceCharge e c
  let adm : Adm := { task := t.id, resume := c.2 == .ctx, bound := t.bound, stop := if c.2 = .ctx then t.sliceEnd else sliceStop s t }
  let last := decide (taskTotal s t ≤ adm.stop) && (getEng s e).running == some t.id
  let taken : AdmAcc := { a with queue := a.queue ++ [adm], budget := a.budget - n, whole := false,
                                 held := if c.2 = .ctx then a.held - 1 else a.held, lastOk := a.lastOk || last,
                                 tests := if t.job = 0 then a.tests + 1 else a.tests }
  if a.stopped then a
  else if c.2 = .next ∧ t.job ≠ 0 ∧ a.lastOk = false then a
  else if c.2 ≠ .ctx ∧ ctxMax e ≤ a.held then { a with stopped := true, refused := a.refused + 1 }
  else if n ≤ a.budget then taken
  else if a.whole then { taken with stopped := true, big := a.big + 1 }
  else if t.job = 0 then a
  else { a with stopped := true }

/-- Admission on an engine with a budget; `full` at the boundary (R173). -/
def admitWith (s : State) (e : Nat) (budget : Nat) (full testsOnly : Bool) : AdmAcc :=
  let g := getEng s e
  (candOrder s e g.owner testsOnly).foldl (fun a c => admitOne s e a c)
    { budget := budget, held := g.ctx.length, whole := full && g.fresh, lastOk := g.running.isNone }

/-- A slice admitted is counted in its task (SLICES, Table 2.7): once, though it may be returned before it starts and admitted
again (R174), or suspended and resumed (R175) (DESIGN CHOICE, log 127). -/
def countSlice (s : State) (a : Adm) : State :=
  match findTask s a.task with
  | some t => if a.resume || t.counted then s else putTask { t with slices := t.slices + 1, counted := true } s
  | none => s

/-- The slices admitted stand on the engine, counted (R55, R187). -/
def admitEngine (e : Nat) (budget : Nat) (full : Bool) (s : State) : State :=
  let g := getEng s e
  let a := admitWith s e budget full g.stolen
  let s1 := a.queue.foldl countSlice (setEng e { g with queue := a.queue, started := false, fresh := g.fresh && a.queue.isEmpty } s)
  bump tckPage 0 13 a.refused (bump tckPage 0 6 a.tests (bump tckPage 0 4 a.big (bump tckPage 0 1 a.queue.length s1)))

/-! ### The owner job (R178) -/

/-- WEIGHT of a job; 0 acts as 1. -/
def weightOf (s : State) (job : Nat) : Nat :=
  match slotOfJob s job with
  | some i => max 1 (fld (getSlot s i).w0 31 24)
  | none => 1

/-- The owner of an engine for the new tick: every ready job's credit grows by its weight, the largest takes the tick. -/
def chooseOwner (e : Nat) (s : State) : State :=
  let g := getEng s e
  let ready := readyJobs s e
  let grown := ready.foldl (fun m j => mput m j (mget m j 0 + (weightOf s j : Int))) g.credit
  let best := ready.foldl (fun (b : Option Nat) j => match b with
    | none => some j
    | some k => if mget grown k 0 < mget grown j 0 then some j else some k) none
  match best with
  | none => setEng e { g with owner := none } s
  | some o =>
    let sum : Int := ((ready.map (weightOf s)).sum : Nat)
    let s1 := setEng e { g with owner := some o, prevOwner := some o, credit := mput grown o (mget grown o 0 - sum) } s
    if g.prevOwner.any (· != o) then bump tckPage 0 8 1 s1 else s1

/-! ### Stolen ticks (R180) -/

/-- The engine whose window a steal counts against: an array unit's is its array's. -/
def stealKey (e : Nat) : Nat := if e < 20 then (arrUnit e).1 else e

/-- The Strainer's recompute is on the array unit and past its deadline (R345). -/
def recomputeLate (s : State) (e : Nat) : Bool :=
  decide (e < 20) && s.rel.checking &&
  s.rel.recomp.any (fun x => x.arr == (arrUnit e).1 && x.quad == (arrUnit e).2 && decide (x.deadline ≤ s.tck.num))

/-- A test on the engine is past its deadline, or the Strainer's recompute on it is (R180, R345). -/
def pastOn (s : State) (e : Nat) : Bool :=
  recomputeLate s e || match testNo e with
  | none => false
  | some k => testsRun s k && s.rel.tests.any (fun t => t.past && t.eng == k && (decide (e < 4 ∨ 20 ≤ e) || t.quad == (arrUnit e).2))

/-- The engine is one of those its block has in its mode: an array's units, whole or by quadrant (R72). -/
def engInMode (s : State) (e : Nat) : Bool :=
  if e < 4 then !quadMode s e else if e < 20 then quadMode s (arrUnit e).1 else true

/-- The sequencer steals the engine's tick: a test on it is past its deadline, it is in service, and the window allows it; a
Ladle engine must have no task running (R177, R180, R203). -/
def steals (s : State) (e : Nat) : Bool :=
  let g := getEng s e
  pastOn s e && engInMode s e && !engOut s e &&
  ((getEng s (stealKey e)).lastSteal.all (fun l => decide (l + max 4096 (regFld s tckPage 0x260 15 0) ≤ s.tck.num))) &&
  (!isLadle e || (g.running.isNone && g.ctx.isEmpty))

/-- The steal made and counted. -/
def stealTick (e : Nat) (s : State) : State :=
  if steals s e = false then setEng e { getEng s e with stolen := false } s else
  let s1 := setEng (stealKey e) { getEng s (stealKey e) with lastSteal := some s.tck.num } s
  bump tstPage 0 3 1 (bump tckPage 0 7 1 (setEng e { getEng s1 e with stolen := true } s1))

/-- A Ladle engine in direct mode: nothing is admitted to it, and its transfers are no slices (R202). -/
def ladleDirect (s : State) (e : Nat) : Bool := isLadle e && directMode s (e - 0x38)

/-- Phase A on one engine (R173). -/
def admitTick (e : Nat) (s : State) : State :=
  if ladleDirect s e then s else
  let s1 := stealTick e (chooseOwner e s)
  admitEngine e (engBudget s1 e) true s1

/-- The notice of a stolen tick, and of the end of stealing (R309). -/
def stealNotice (s : State) : State :=
  let now := allEngines.any (fun e => (getEng s e).stolen)
  let known := s.lnk.slow.contains 0x20
  if now then
    slowNotice 2 0x20 0 s.tck.num { s with lnk := { s.lnk with slow := if known then s.lnk.slow else s.lnk.slow ++ [0x20] } }
  else if known then
    slowNotice 3 0x20 0 s.tck.num { s with lnk := { s.lnk with slow := s.lnk.slow.filter (· ≠ 0x20) } }
  else s

/-- ADMISSION_RERUN: an engine that has finished every slice admitted to it in this tick is admitted again, on the cycles
left less GUARD (R173), of which the compute duty leaves its share (R319; DESIGN CHOICE, log 119). One to which nothing has been
admitted in this tick has finished none, and is not admitted again (DESIGN CHOICE, log 50). -/
def rerunEffect (e left : Nat) (s : State) : State :=
  let g := getEng s e
  if g.fresh = true ∨ g.queue.isEmpty = false ∨ g.draining = true ∨ running s = false ∨ ladleDirect s e = true then s else
  let f := if e < 20 then s.tck.mclk else s.tck.fclk
  let guard := regFld s tckPage 0x200 23 16 * f / 100
  admitEngine e (dutyOf s e (min left (regFld s tckPage 0x200 6 0 * f) - guard)) false s

/-- ADMISSION_RERUN (R173). -/
def execAdmissionRerun (e : Engine) (cyclesLeft : Nat) (s : State) : Res := .next (rerunEffect (engNo e) cyclesLeft s)

end Sys2Proof.Machine
end

