-- ==== Sys2Proof/Machine/Tick.lean ====
section
/-! DEFINITION. The tick: the boundary and its phases (R161-R183, Table 6.3), alignment (R162, R163), command-queue binding
(R165, R166, R185), the job table (R167, R168), aborts (R59, R169) and the no-progress detector (R186). -/

namespace Sys2Proof.Machine

/-! ### Phase M (R162, R163, R270) -/

/-- ALIGN_STS.STATE changes (R163). -/
def setAlign (st : Nat) (s : State) : State :=
  if s.tck.align = st then s else intSet tckPage 4 { s with tck := { s.tck with align := st, good := 0 } }

/-- TICK_SRC.SRC; 0b11 acts as 0b00 (Table 6.6). -/
def tickSrc (s : State) : Nat := if regFld s tckPage 0x218 1 0 = 3 then 0 else regFld s tckPage 0x218 1 0

/-- A tick of a follower without a mark (R163). -/
def missMark (s : State) : State :=
  if s.tck.marked = true ∨ s.tck.align = 0 then { s with tck := { s.tck with marked := false } }
  else bump tckPage 0 10 1 { s with tck := { s.tck with missed := min 255 (s.tck.missed + 1), good := 0 } }

/-- TICK frames on every ACTIVE GKL port with MARK_EN, and the pulse on TICK_OUT with OUT_EN (R162, R270); the moment a
frame leaves after the boundary is the device's. -/
def sendMarks (s : State) : State :=
  let one (u : State) (p : Nat) : State :=
    if portActive u p ∧ portEth u p = false then
      let r := draw u
      sendControl p 3 false (toLe 8 u.tck.num ++ toLe 4 (Config.choose r.1) ++ toLe 4 0 ++ toLe 2 (devNum u)) r.2
    else u
  let s1 := if regBit s tckPage 0x218 9 then (List.range 16).foldl one s else s
  if regBit s1 tckPage 0x218 8 ∧ s1.mgt.shorts.contains 0 = false then emit .tickOut s1 else s1

/-- A task of the job waits for dispatch, none is dispatched, and nothing of it moved in the closing tick (R186). -/
def jobStalls (s : State) (job : Nat) : Bool :=
  s.tasks.any (fun t => t.job == job && t.direct.isNone && (t.phase == .waiting || t.phase == .accepted)) &&
  !s.tasks.any (fun t => t.job == job && t.direct.isNone && (t.phase == .dispatched || t.phase == .complete || t.phase == .evaluated)) &&
  !s.tck.alive.contains job

/-- The count of ticks without progress of every job slot (R186). -/
def countStalls (s : State) : State :=
  let one (m : Map Nat) (i : Nat) : Map Nat :=
    let j := getSlot s i
    if j.active && jobStalls s (fld j.w0 15 0) then mput m i (mget m i 0 + 1) else mdel m i
  { s with tck := { s.tck with noprog := (List.range 32).foldl one s.tck.noprog, alive := [] } }

/-- Counters of stalls, waits and clock gating, which no row of the table makes: the page, the event set, and the counters from
one up to another (Tables 3.14, 3.15, 5.12, 7.10, 8.12, 9.13, 11.8). -/
def openCounters (s : State) : List (Nat × Nat × Nat × Nat) :=
  (List.range 4).flatMap (fun n =>
    [(ap n 2, 0, 0, 32), (ap n 3, 0, 0, 16)] ++ (if quadMode s n then [(ap n 2, 1, 0, 32)] else [])) ++
  (List.range 8).flatMap (fun n => [(ldlPage n 0, 1, 0, 11), (hp n 0, 0, 4, 7), (hp n 1, 0, 3, 4)]) ++
  (List.range 16).map (fun p => (lp p 0, 0, 9, 10)) ++ [(chnPage, 0, 2, 4), (clkPage, 0, 4, 5)]

/-- In a closing tick each of them that counts has advanced by a free value (DESIGN CHOICE, log 55). -/
def openTick (s : State) : State :=
  let go (m : Map Nat) (x : Nat × Nat × Nat × Nat) : Map Nat :=
    if regFld s x.1 0x50 8 0 = x.2.1 ∧ enAck s x.1 = true then
      ((List.range (x.2.2.2 - x.2.2.1)).map (· + x.2.2.1)).foldl (fun u i =>
        mput u (x.1 * 32 + i) ((mget u (x.1 * 32 + i) 0 + (Config.openReg (x.1 * 32 + i) s.free).toNat % 2 ^ 32) % 2 ^ 64)) m
    else m
  { s with cnt := (openCounters s).foldl go s.cnt, free := s.free + 1 }

/-- Phase M: the closing tick is accounted, TICK_NUM increments, the mark is sent, counters latch (Table 6.3). -/
def phaseM (s : State) : State :=
  let s1 := missMark (trimByMarks (countStalls (closeTick (estimate (openTick s)))))
  let s2 : State := { s1 with tck := { s1.tck with num := s1.tck.num + 1, snap := s1.cnt, adjust := 0 } }
  intSet tckPage 1 (bump tckPage 0 0 1 (if running s2 then sendMarks s2 else s2))

/-! ### Phase S (R174, R175) -/

/-- A slice counted as an overrun: the task's, its job slot's and the sequencer's counts, and the engine's own. -/
def countOverrun (t : Task) (s : State) : State :=
  let s1 := match slotOfJob s t.job with
    | some i => setSlot i { getSlot s i with overruns := satAdd 32 (getSlot s i).overruns 1 } s
    | none => s
  let s2 := bump tckPage 0 2 1 s1
  let u := arrUnit t.eng
  if t.eng < 20 then bump (pageOf .arr u.1 0) 0 (12 + u.2) 1 s2
  else if t.eng = 0x30 then bump (pageOf .chn 0 0) 0 6 1 s2
  else if isLadle t.eng then bump (pageOf .ldl (t.eng - 0x38) 0) 0 6 1 s2 else s2

/-- The running slice of an engine suspended into a context, also that of a task under abort, whose context goes when the
drain is done (R175, Table 6.4); a MOVE completes its requests in flight (R210). Contexts are numbered by age, oldest first,
so a number moves down when an older task resumes (DESIGN CHOICE, log 131). -/
def suspendSlice (e : Nat) (t : Task) (s : State) : State :=
  let g := getEng s e
  let was := g.running == some t.id && !isLadle e
  let s1 := putTask { t with overruns := t.overruns + 1 }
    (setEng e { g with ctx := g.ctx ++ [t.id], draining := true,
                       running := if was then g.further else g.running, further := if was then none else g.further } s)
  let s2 := moveFlush t.id (countOverrun t s1)
  if e < 20 ∧ g.ctx.length = 3 then intSet (ap (arrUnit e).1 0) 2 s2
  else if e = 0x30 ∧ g.ctx.length = 7 then intSet chnPage 2 s2 else s2

/-- Phase S on one engine: the slice that runs is suspended, the others admitted are returned; a direct transfer is no slice
and runs on (R202). -/
def phaseS (e : Nat) (s : State) : State :=
  if ladleDirect s e then s else
  let g := getEng s e
  let clear (u : State) : State := setEng e { getEng u e with queue := [], started := false, fresh := true } u
  match g.queue with
  | [] => clear s
  | a :: _ =>
    if g.started = false then clear s else
    match findTask s a.task with
    | none => clear s
    | some t => clear (suspendSlice e t s)

/-! ### Phase E2: map-outs and mapping swaps (R183, R355) -/

/-- The queue belongs to mapping `m` of slot `i`. -/
def inMap (s : State) (i m c : Nat) : Bool :=
  let b := cqBind s c
  bit b 15 && fld b 14 10 == i && fld b 17 16 == m

/-- The queue targets a mapped-out engine. -/
def cqOut (s : State) (c : Nat) : Bool :=
  match engOfTarget (fld (cqBind s c) 7 0) c with
  | some e => engOut s e
  | none => false

/-- A queue of mapping `m` of slot `i` targets a mapped-out engine. -/
def mapBroken (s : State) (i m : Nat) : Bool := (List.range 256).any (fun c => inMap s i m c && cqOut s c)

/-- The mapping is registered and usable. -/
def mapUsable (s : State) (i m : Nat) : Bool := bit (getSlot s i).w0 (34 + m) && !mapBroken s i m

/-- The job of a slot switches to the lowest usable mapping, or has none (R183). -/
def mapSwap (s : State) (i : Nat) : State :=
  let j := getSlot s i
  if j.active = false ∨ mapBroken s i j.mapAck = false then s else
  match (List.range 4).find? (fun m => mapUsable s i m) with
  | some m => bump tckPage 0 11 1 (setSlot i { j with mapAck := m, noMap := false } s)
  | none => raise tckPage 13 0 (setSlot i { j with noMap := true } s)

/-- A queue of the mapping in effect of slot `i` targets one of these engines (R183). -/
def mapHit (s : State) (es : List Nat) (i : Nat) : Bool :=
  (List.range 256).any (fun c => inMap s i (getSlot s i).mapAck c && (engOfTarget (fld (cqBind s c) 7 0) c).any (es.contains ·))

/-- The engines of a block. -/
def enginesOf (code inst : Nat) : List Nat :=
  if code = 0x10 then inst :: (List.range 4).map (fun q => 4 + 4 * inst + q)
  else if code = 0x11 then [0x20 + inst] else if code = 0x20 then [0x38 + inst] else []

/-- E2: the map-out in hand takes effect; tasks on the engine end with ENGINE_FAULT, a Ladle engine's records are
retired, a VE's table pairs are lost, and the jobs concerned switch (R135, R183, R214, R355). -/
def phaseE2 (s : State) : State :=
  match mapAtE2 s with
  | none => s
  | some (code, inst) =>
    let p := codePage code inst
    if (getBlk s p).mappedOut then s else
    let es := enginesOf code inst
    let s1 := setBlk p { getBlk s p with mappedOut := true } s
    let hit := s1.tasks.filter (fun t => es.contains t.eng && t.phase == .dispatched && t.status == 0)
    let s2 := hit.foldl (fun u t => finish t { status := 9 } u) s1
    let s3 := if code = 0x20 then (List.range 64).foldl (fun u i => retireRec inst i u) s2
      else if code = 0x11 then { s2 with tables := s2.tables.filter (fun x => x.1 / 8 != inst) } else s2
    ((List.range 32).filter (mapHit s3 es)).foldl mapSwap s3

/-! ### Phase E3 (R161) -/

/-- E3: a staged TICK_CFG whose tick has come takes effect. -/
def phaseE3 (s : State) : State :=
  match s.tck.staged with
  | none => s
  | some (v, t) =>
    if s.tck.num < t then s else setReg tckPage 0x200 v { s with tck := { s.tck with staged := none } }

/-! ### Phase E5: the job table (R167, R168, R182, R383) -/

/-- A task of the job is dispatched or held. -/
def jobHolds (s : State) (job : Nat) : Bool :=
  s.tasks.any (fun t => t.job == job && t.direct.isNone && t.phase != .accepted && t.phase != .waiting)

/-- What goes with a job's slot: its link keys, its prefetch records, its adder slots and its credits (R168, R178, R214,
R289, R383). -/
def freeJob (job : Nat) (s : State) : State :=
  let recs := s.ldl.flatMap (fun x => (x.2.recs.filter (fun r => r.2.job == job)).map (fun r => (x.1, r.1)))
  let s1 := recs.foldl (fun u x => retireRec x.1 x.2 u) s
  let s2 := releaseLate job true (s1.lnk.bucks.foldl (fun u b => if b.job = job then disarm job b.bucket u else u) s1)
  { s2 with keys := mdel s2.keys job, eng := mmap (fun _ g => { g with credit := mdel g.credit job }) s2.eng,
            rel := { s2.rel with discards := s2.rel.discards.filter (· ≠ job) },
            lnk := { s2.lnk with promoted := s2.lnk.promoted.filter (fun x => x.1 ≠ job) } }

/-- R167: the staged write is refused. -/
def slotRefused (s : State) (i : Nat) (v : Word) : Bool :=
  let j := getSlot s i
  let job := fld v 15 0
  let other := (List.range 32).any (fun k => k != i && (getSlot s k).active && fld (getSlot s k).w0 15 0 == job)
  fld v 18 17 == 3 || (bit v 16 && (job == 0 || other || j.closing || (j.active && fld j.w0 15 0 != job)))

/-- A staged write of slot `i` applied (R167, R168). A job's identifier stays while it is open or closing. -/
def slotApply (i : Nat) (v : Word) (s : State) : State :=
  let j := getSlot s i
  let kept := setFld v 15 0 (fld j.w0 15 0)
  let map := fld v 33 32
  if j.closing then setSlot i { j with w0 := kept } s
  else if j.active ∧ bit v 16 = false then setSlot i { j with w0 := kept, active := false, closing := true, mapReq := false } s
  else if j.active then setSlot i { j with w0 := v, mapReq := decide (map ≠ j.mapAck) } s
  else if bit v 16 then
    setSlot i { w0 := v, active := true, mapReq := decide (map ≠ 0) }
      { s with eng := mmap (fun _ g => { g with credit := mdel g.credit (fld v 15 0) }) s.eng }
  else setSlot i { j with w0 := v } s

/-- A slot at E5: freed once its closing job holds nothing, then its staged write. -/
def slotE5 (s : State) (i : Nat) : State :=
  let j := getSlot s i
  let s1 := if j.closing ∧ jobHolds s (fld j.w0 15 0) = false then
      freeJob (fld j.w0 15 0) (setSlot i { j with closing := false, mapAck := 0, noMap := false } s)
    else s
  match (getSlot s1 i).staged with
  | none => s1
  | some v =>
    let s2 := setSlot i { getSlot s1 i with staged := none } s1
    if slotRefused s2 i v then raise tckPage 9 (0x1000 + 16 * i) s2 else slotApply i v s2

/-- A mapping request at E5 (R182). -/
def slotMap (s : State) (i : Nat) : State :=
  let j := getSlot s i
  let m := fld j.w0 33 32
  if j.active = false ∨ j.mapReq = false then s
  else if mapUsable s i m = false then setSlot i { j with noMap := true, mapReq := false } s
  else if s.tasks.any (fun t => inMap s i j.mapAck t.cq && t.phase != .accepted && t.phase != .waiting) then s
  else bump tckPage 0 11 1 (setSlot i { j with mapAck := m, mapReq := false, noMap := false } s)

/-- A job's link keys at E5: a staged key takes effect once its tick has begun, the one before it holds for one tick; a
staged key of a job that is not open goes (R383). -/
def keyE5 (s : State) (job : Nat) (k : LinkKey) : LinkKey :=
  match k.staged with
  | none => if k.oldTick < s.tck.num then { k with old := none } else k
  | some (key, t) =>
    if jobOpen s job = false then { k with staged := none }
    else if s.tck.num < t then k
    else { cur := some key, old := k.cur, oldTick := s.tck.num, staged := none, nonce := 1 }

/-- Waiting tasks whose job is not open to them end (R424). -/
def closeWaits (s : State) : State :=
  (s.tasks.filter (fun t => t.phase == .waiting && jobShut s t)).foldl (fun u t => finish t jobClosed u) s

/-- E5: the job table, mapping requests, the tasks of jobs that closed, link keys, firmware switches and requests (R167, R168,
R182, R360, R383, R391, R424). Of two slots that open one job at one boundary the lower-numbered opens it, and the other's write
is refused: the slots are taken in ascending order (DESIGN CHOICE, log 120). -/
def phaseE5 (closed : Nat) (s : State) : State :=
  let s1 := (List.range 32).foldl slotE5 s
  let s2 := closeWaits ((List.range 32).foldl slotMap s1)
  let s3 := { s2 with keys := mmap (keyE5 s2) s2.keys }
  reqBoundary closed (fwBoundary s3)

/-! ### The boundary (R176) -/

/-- The scrubber of an array's local store reaches, in a tick, words that are the device's choice: what it finds in error is
corrected, or counted as uncorrectable (R96, LS_CFG). -/
def lsScrub (s : State) : State :=
  s.ls.foldl (fun u x =>
    match winOf (x.1 * 8) with
    | .arr k =>
      if regBit u (ap k 4) 0x200 0 = false ∨ enAck u (ap k 0) = false then u else
      let r := draw u
      if Config.choose r.1 % 2 = 0 then r.2
      else if x.2 = 1 then lsCorrect k (x.1 * 8) 8 r.2 else poisonRead 12 (x.1 * 8) 0 0 r.2
    | _ => u) s

/-- Clock-domain crossings in front of blocks that run no slices have their pointers compared once a tick (R191; DESIGN CHOICE,
log 14); an engine's are compared as its slices run. -/
def crossTick (s : State) : State :=
  (s.cross.filter (fun x => x.2.bad)).foldl (fun u x =>
    match pageOwner x.1 with
    | some (.arr, _, _) | some (.ve, _, _) | some (.chn, _, _) | some (.ldl, _, _) => u
    | _ => crossReset x.1 x.2 (mkEv x.1 1 4) u) s

/-- What goes on in the background of a tick: copies of granules and pseudo-channels, scrubbing, crossings (R225, R227, R242). -/
def background (s : State) : State := crossTick (lsScrub (pcCopyTick (rehomeTick s)))

/-- TICK_BOUNDARY: the phases of Table 6.3 in order. In fail-quiet only the timebase and the meter go on (R363, R387). -/
def boundary (s : State) : State :=
  if s.sys.released = false ∨ (getBlk s tckPage).ready = false then s else
  let closed := s.tck.num
  let s1 := phaseM s
  if running s1 = false then doorRetry (reqBoundary closed s1) else
  let s2 := allEngines.foldl (fun u e => phaseS e u) (background s1)
  let s3 := phaseE5 closed (powerDecision (phaseE3 (phaseE2 (outcomes s2))))
  doorRetry (stealNotice (allEngines.foldl (fun u e => admitTick e u) (freshWaits (hbmBoundary s3))))

/-- TICK_BOUNDARY (R176). -/
def execTickBoundary (s : State) : Res := .next (boundary s)


/-! ### TICK_CFG, TICK_SRC and marks (R161-R163) -/

/-- A write of TICK_CFG: staged with TICK_AT, or discarded when a field is out of range (R161). -/
def tickCfgEffect (v : Word) (s : State) : State :=
  if fld v 6 0 < 4 ∨ 64 < fld v 6 0 ∨ fld v 23 16 < 20 ∨ 200 < fld v 23 16 then raise tckPage 8 0x200 s
  else { s with tck := { s.tck with staged := some (v, (getReg s tckPage 0x208).toNat) } }

/-- TICK_CFG_WRITE (R161). -/
def execTickCfgWrite (who : Initiator) (v : Word) (s : State) : Res := .next (regGuard who tckPage 0x200 v tickCfgEffect s)

/-- A write of TICK_SRC (R162, R163). -/
def tickSrcEffect (v : Word) (s : State) : State :=
  let s1 := storeReg tckPage 0x218 v s
  if tickSrc s1 = 0 then setAlign 0 s1
  else if s1.tck.align = 0 then setAlign 1 { s1 with tck := { s1.tck with missed := 0, marked := false } }
  else s1

/-- TICK_SRC_WRITE (R163). -/
def execTickSrcWrite (who : Initiator) (v : Word) (s : State) : Res := .next (regGuard who tckPage 0x218 v tickSrcEffect s)

/-- A mark judged: its offset in nanoseconds, and its tick number if it carries one; TICK_NUM never goes backwards (R162,
R163). -/
def markEffect (num : Option Nat) (off : Int) (s : State) : State :=
  let c := s.tck
  if c.align = 0 then s else
  let s1 : State := { s with tck := { c with marked := true, missed := 0, offset := off } }
  let lock := regFld s tckPage 0x218 23 16 * 10
  match c.align with
  | 1 =>
    let good := if off.natAbs ≤ lock then c.good + 1 else 0
    let s2 : State := { s1 with tck := { s1.tck with num := max c.num (num.getD c.num), good := good } }
    if 8 ≤ good then setAlign 2 s2 else s2
  | 2 =>
    if 1000 < off.natAbs then setAlign 1 s1
    else if 10 ≤ off.natAbs then
      bump tckPage 0 9 1 { s1 with tck := { s1.tck with adjust := if 0 < off then 1 else -1 } }
    else s1
  | _ => setAlign 1 s1

/-- TICK_IN: a mark without a number (R162). -/
def execTickIn (offsetNs : Int) (s : State) : Res :=
  .next (if s.sys.released ∧ tickSrc s = 1 then markEffect none offsetNs s else s)

/-- TICK: a frame received at `arrival` eighths of a nanosecond after the boundary, as a mark (R270); its offset is taken to the
whole nanosecond below (DESIGN CHOICE, log 120). -/
def tickFrameEffect (p : Nat) (f : Frame) (arrival : Int) (s : State) : State :=
  onFrame p f 3 (fun u =>
    let n := leNat (f.body.take 8)
    let tx := leNat ((f.body.drop 8).take 4)
    let corr := leNat ((f.body.drop 12).take 4)
    let at' : Int := arrival - (getPort u p).delay - tx - corr
    let u1 := bump (lp p 1) 0 4 1 (ackFrames p f u)
    if tickSrc u1 = 2 ∧ regFld u1 tckPage 0x218 7 4 = p then markEffect (some n) (at' / 8) u1 else u1) s

/-- TICK (R270). -/
def execTick (p : Fin 16) (f : Frame) (arrival : Int) (s : State) : Res := .next (tickFrameEffect p.val f arrival s)

/-- ALIGN_HOLDOVER (R163). -/
def holdoverEffect (s : State) : State :=
  if s.tck.align = 2 ∧ max 1 (regFld s tckPage 0x218 31 24) ≤ s.tck.missed then raise tckPage 12 0 (setAlign 3 s) else s

/-- ALIGN_HOLDOVER (R163). -/
def execAlignHoldover (s : State) : Res := .next (holdoverEffect s)

/-! ### Command-queue binding (R164-R166, R184, R185) -/

/-- The queue holds a task, or one accepted from it has not written its record (R165). -/
def cqBusy (s : State) (c : Nat) : Bool :=
  !(getQueue s c).items.isEmpty || s.tasks.any (fun t => t.cq == c && t.phase != .held)

/-- RES_MIN summed over the queues that name a pool, with queue `c` as `v` would bind it (R185). -/
def resSum (s : State) (c : Nat) (v : Word) (p : Nat) : Nat :=
  ((List.range 256).map (fun d =>
    let b := if d = c then v else cqBind s d
    if fld b 23 18 = p then fld b 47 32 else 0)).sum

/-- A write of CQ_BIND up to privilege (R164-R166, R185). One that breaks several checks sets the error of the first in the order
BIND_BAD, BIND_BUSY, RES_OVER (DESIGN CHOICE, log 120). -/
def bindEffect (c : Nat) (v : Word) (s : State) : State :=
  let off := 0x1000 + 8 * c
  let old := cqBind s c
  if bit v 8 ∧ (engOfTarget (fld v 7 0) c).isNone = true then raise tck1Page 11 off s
  else if (fld v 7 0 ≠ fld old 7 0 ∨ fld v 17 15 ≠ fld old 17 15) ∧ cqBusy s c = true then raise tck1Page 10 off s
  else if (fld v 47 32 ≠ fld old 47 32 ∨ fld v 23 18 ≠ fld old 23 18) ∧
      poolCount s (fld v 23 18) < resSum s c v (fld v 23 18) then raise tck1Page 9 off s
  else setReg tck1Page off v s

/-- A write of CQ_BIND: only the Last writes those of the device's own queues (R166). -/
def bindWrite (who : Initiator) (c : Nat) (v : Word) (s : State) : State :=
  if 248 ≤ c ∧ who ≠ .last then raise tck1Page 3 (0x1000 + 8 * c) s else bindEffect c v s

/-- CQ_BIND_WRITE (R165). -/
def execCqBindWrite (who : Initiator) (cq : Fin 256) (v : Word) (s : State) : Res :=
  .next (regGuard who tck1Page (0x1000 + 8 * cq.val) v (bindWrite who cq.val) s)

/-- OWN_QUEUE_BIND: the device binds one of its own queues that is unbound, once the Cobbler runs (R166). -/
def ownBindEffect (c target : Nat) (s : State) : State :=
  if c < 248 ∨ cobblerUp s = false ∨ fld (cqBind s c) 8 0 ≠ 0xFF then s
  else bindEffect c (word (target + 256)) s

/-- OWN_QUEUE_BIND (R166). -/
def execOwnQueueBind (cq target : Fin 256) (s : State) : Res := .next (ownBindEffect cq.val target.val s)

/-- OWN_QUEUE_UNBIND (R166). -/
def ownUnbindEffect (c : Nat) (s : State) : State :=
  if c < 248 ∨ cqBusy s c = true then s else setReg tck1Page (0x1000 + 8 * c) 0xFF s

/-- OWN_QUEUE_UNBIND (R166). -/
def execOwnQueueUnbind (cq : Fin 256) (s : State) : Res := .next (ownUnbindEffect cq.val s)

/-! ### Job slots and aborts -/

/-- A write of a job slot's W0 is staged (R167). -/
def slotEffect (i : Nat) (v : Word) (s : State) : State := setSlot i { getSlot s i with staged := some v } s

/-- JOB_SLOT_WRITE (R167). -/
def execJobSlotWrite (who : Initiator) (slot : Fin 32) (v : Word) (s : State) : Res :=
  .next (regGuard who tckPage (0x1000 + 16 * slot.val) v (slotEffect slot.val) s)

/-- A task reached by an abort that has no slice running ends now; its requests not yet sent go (R59, R169). -/
def abortNow (t : Task) (s : State) : State :=
  finish t { status := 2 } { s with lnk := { s.lnk with track := s.lnk.track.filter (fun x => x.2.owner != t.id || x.2.state == 1) } }

/-- The use of a group that an aborted DECIDE had closed is open again (R64). -/
def reopenUse (t : Task) (s : State) : State :=
  let f (u : Task) : Task := if u.spec ∧ u.job = t.job ∧ u.gid = t.gid ∧ u.use = t.use + 1 then { u with use := t.use } else u
  let g (p : ProvLine) : ProvLine := if p.job = t.job ∧ p.gid = t.gid ∧ p.use = t.use + 1 then { p with use := t.use } else p
  setUse t.job t.gid t.use { s with tasks := s.tasks.map f, prov := s.prov.map g }

/-- The engine runs a slice of the task, or drains one that has just been suspended. -/
def sliceRuns (s : State) (t : Task) : Bool :=
  let g := getEng s t.eng
  (g.started && (match g.queue with | a :: _ => a.task == t.id | [] => false)) || (g.draining && g.ctx.getLast? == some t.id)

/-- SUSPEND_DRAIN_DONE (R175): the context is stored, the first admitted slice may start; the contexts of tasks under abort are
freed (R169, Table 6.4). -/
def drainDoneEffect (e : Nat) (s : State) : State :=
  let g := getEng s e
  ((g.ctx.filter (fun id => s.tck.aborting.contains id)).filterMap (findTask s)).foldl (fun u t => abortNow t u)
    (setEng e { g with draining := false } s)

/-- SUSPEND_DRAIN_DONE (R175). -/
def execSuspendDrainDone (e : Engine) (s : State) : Res := .next (drainDoneEffect (engNo e) s)

/-- An abort reaches a task before its commit point (Table 2.9); suspended in a context, or between its slices, it ends at once
(R169). -/
def abortOne (s : State) (t0 : Task) : State :=
  let t := (findTask s t0.id).getD t0
  let s1 : State := { s with tck := { s.tck with aborting := s.tck.aborting ++ [t.id] } }
  match t.phase with
  | .accepted | .waiting => finish t { status := 2 } s1
  | .complete => putTask { t with status := 2, slot := 0 } s1
  | .evaluated => finish { t with detail := 0 } { status := 2 } (reopenUse t s1)
  | .held => s
  | .dispatched => if sliceRuns s t then s1 else abortNow t s1

/-- Item `w` of command queue `c` leaves it as the task `t`, whose record is to say ABORTED. -/
def abortItem (c : Nat) (w : Word) (t : Task) (s : State) : State :=
  let q := getQueue s c
  let n := 2 * qDepth s c
  let s1 := setQueue c { q with items := q.items.erase w, rd := (q.rd + 1) % n, rd2 := (q.rd2 + 1) % n } s
  { s1 with tasks := s1.tasks ++ [{ t with phase := .complete, status := 2 }], nextTask := s1.nextTask + 1,
            tck := { s1.tck with aborting := s1.tck.aborting ++ [t.id] } }

/-- The items of command queue `c` that name a task satisfying `p`, removed; each becomes a task whose record says ABORTED
(Table 2.9). An item that R39 does not let become a task, by its address or its COMPLETION, stays and is dropped when it
is taken; poison and a stack that does not answer do not keep the abort from reading (DESIGN CHOICE, log 53). The pointers
of a queue that holds items are compared first (R191). -/
def abortQueue (p : Task → Bool) (c : Nat) (s : State) : Nat × State :=
  let s0 := if (getQueue s c).items.isEmpty then s else ptrCheck c s
  (getQueue s0 c).items.foldl (fun (y : Nat × State) (w : Word) =>
    let t := taskOf y.2 c w.toNat
    if structOk y.2 w.toNat 256 256 ∧ structOk y.2 t.completion 64 64 ∧ p t = true then (y.1 + 1, abortItem c w t y.2)
    else y) (0, s0)

/-- The same of every command queue, in ascending order, and how many there were. -/
def abortQueued (p : Task → Bool) (s : State) : Nat × State :=
  (List.range 256).foldl (fun (x : Nat × State) (c : Nat) => let y := abortQueue p c x.2; (x.1 + y.1, y.2)) (0, s)

/-- RESPONSE for a task that is not present: its record tells whether it is done (Table 2.9). -/
def absentResp (s : State) (job a : Nat) : Nat :=
  let w := memWord s.mem a
  if mappedMem s a ∧ w ≠ 0 ∧ fld w 31 16 = job then 2 else 3

/-- An abort of a task named by JOB and COMPLETION (R59). -/
def abortTaskRun (job a : Nat) (s : State) : State :=
  let is (t : Task) : Bool := t.job == job && t.completion == a && t.direct.isNone
  let resp (n : Nat) (u : State) : State := { u with tck := { u.tck with abortBusy := true, abortResp := n } }
  match s.tasks.find? (fun t => is t && t.phase != .held) with
  | some t => resp 1 (abortOne s t)
  | none =>
    if s.tasks.any is then resp 2 s else
    let r := abortQueued is s
    if 0 < r.1 then resp 1 r.2 else resp (absentResp s job a) s

/-- An abort of a job (R59). -/
def abortJobRun (job : Nat) (s : State) : State :=
  let ts := s.tasks.filter (fun t => t.job == job && t.phase != .held && t.direct.isNone)
  let r := abortQueued (fun t => t.job == job) (ts.foldl abortOne s)
  { r.2 with tck := { r.2.tck with abortBusy := true, abortResp := if 0 < r.1 + ts.length then 1 else 3 } }

/-- A write of ABORT_CTL (R169). -/
def abortEffect (v : Word) (s : State) : State :=
  if bit v 17 ∧ s.tck.abortBusy = true then raise tckPage 10 0x238 s else
  let s1 := storeReg tckPage 0x238 v s
  if bit v 17 = false then s1
  else if bit v 16 then abortJobRun (fld v 15 0) s1
  else abortTaskRun (fld v 15 0) (regFld s1 tckPage 0x240 49 0) s1

/-- ABORT_TASK (R59). -/
def execAbortTask (who : Initiator) (v : Word) (s : State) : Res :=
  .next (regGuard who tckPage 0x238 (setFld v 17 16 2) abortEffect s)

/-- ABORT_JOB (R59). -/
def execAbortJob (who : Initiator) (v : Word) (s : State) : Res :=
  .next (regGuard who tckPage 0x238 (setFld v 17 16 3) abortEffect s)

/-- ABORT_DONE: every task the abort reached has its record (R169). -/
def abortDoneEffect (s : State) : State :=
  if s.tck.abortBusy ∧ s.tck.aborting.isEmpty = true then
    intSet tckPage 2 { s with tck := { s.tck with abortBusy := false } } else s

/-- ABORT_DONE (R169). -/
def execAbortDone (s : State) : Res := .next (abortDoneEffect s)

/-! ### The no-progress detector (R186, R187) -/

/-- NOPROG: the job of a slot has stalled for TICKS ticks; the oldest waiting task is captured (R186). -/
def noprogEffect (i : Nat) (s : State) : State :=
  let lim := regFld s tckPage 0x250 15 0
  let j := getSlot s i
  if lim = 0 ∨ j.active = false ∨ mget s.tck.noprog i 0 < lim then s else
  let s1 : State := { s with tck := { s.tck with noprog := mdel s.tck.noprog i } }
  let w := s.tasks.find? (fun t => t.job == fld j.w0 15 0 && (t.phase == .waiting || t.phase == .accepted))
  let s2 := match w with
    | some t =>
      if regBit s1 tckPage 0x258 5 then s1 else
      setReg tckPage 0x258 (word (i + 32 + t.cq % 256 * 256 + waitCode s t % 8 * 2 ^ 16 + tickLo s * 2 ^ 32)) s1
    | none => s1
  bump tckPage 0 12 1 (intSet tckPage 3 (raise tckPage 11 0 s2))

/-- NOPROG (R186). -/
def execNoprog (slot : Fin 32) (s : State) : Res := .next (noprogEffect slot.val s)

/-- NOPROG_FIRST_READ (R187). -/
def execNoprogFirstRead (who : Initiator) (s : State) : Res := .next (readClear who tckPage 0x258 s)

/-- CQ_DROP_FIRST_READ (R187). -/
def execCqDropFirstRead (who : Initiator) (s : State) : Res := .next (readClear who tck1Page 0x220 s)

end Sys2Proof.Machine
end

