-- ==== Sys2Proof/Machine/Boot.lean ====
section
/-! DEFINITION. Power and reset (R313, R364, R404-R411), the boot chain (R370, R371) up to the running cores (R407, R408,
R413). -/

namespace Sys2Proof.Machine

/-! ### Start-up of the Last (R370, R371) -/

/-- The INFO event of a firmware switch at start-up, whose record the Cobbler makes once it runs (R360, R371). -/
def bootSwitch (g old : Nat) (reverted : Bool) (s : State) : State :=
  let d := imageVersion s g old + imageVersion s g (1 - old) * 2 ^ 64 + b2n reverted * 2 ^ 128
  { s with rel := { s.rel with events := s.rel.events ++ [{ mkEv cblPage 4 0x0F with locus := g, detail := d, tick := s.tck.num }] } }

/-- The active slot of a group set. -/
def setSlotOf (g slot : Nat) (s : State) : State :=
  { s with sec := { s.sec with active := s.sec.active - fwSlot s g * 2 ^ g + slot * 2 ^ g } }

/-- A slot can be booted: its image is valid, and SPI NOR delivers it whole, which `reads` says of each slot (DESIGN CHOICE, log
153). -/
def bootable (reads : Nat → Bool) (s : State) (g slot : Nat) : Bool := slotGood s g slot && reads slot

/-- A group boots its active slot, or else the other one with a record; none when neither holds a valid image (R360, R370). -/
def bootGroup (reads : Nat → Bool) (g : Nat) (s : State) : Option State :=
  let cur := fwSlot s g
  if bootable reads s g cur then some s
  else if bootable reads s g (1 - cur) then some (bootSwitch g cur false (journal 8 (setSlotOf g (1 - cur) s)))
  else none

/-- The slot in which the Last starts: a pending slot is booted and on trial, one whose trial failed is reverted, and no trial runs
of a slot that is not the one booted (R371). -/
def bootLast (reads : Nat → Bool) (s : State) : Option State :=
  let x := s.sec
  if x.lastPend then
    let cur := fwSlot s 5
    let s1 := journal 8 (setSlotOf 5 (1 - cur)
      { s with sec := { x with lastPend := false, lastTrial := !x.lastTrial } })
    match bootGroup reads 5 (if x.lastTrial then bootSwitch 5 cur true s1 else s1) with
    | none => none
    | some t => some (if fwSlot t 5 = 1 - cur then t else { t with sec := { t.sec with lastTrial := false } })
  else bootGroup reads 5 { s with sec := { x with lastTrial := false } }

/-- An entry of the map-out table applied at a cold start (R357). -/
def applyEntry (s : State) (m : MapEnt) : State :=
  if m.code = 0x10 ∨ m.code = 0x11 ∨ m.code = 0x20 then
    setBlk (codePage m.code m.inst) { getBlk s (codePage m.code m.inst) with mappedOut := true } s
  else if m.code = 0x30 then (rehomeStart m.inst false s).getD s
  else if m.code = 0x31 then (pcReplace m.inst m.unit (some m.spare) false s).getD s
  else if m.code = 1 then { s with sys := { s.sys with coresOut := s.sys.coresOut ||| 2 ^ m.unit } }
  else s

/-- The map-out table at a cold start: entries undone by a keyed command are removed, the rest is applied (R357). -/
def applyMapTab (s : State) : State :=
  let kept := ((List.range s.rel.mapTab.length).filter (fun i => !s.sec.undo.contains i)).filterMap (fun i => s.rel.mapTab[i]?)
  let s1 : State := { s with rel := { s.rel with mapTab := kept }, sec := { s.sec with undo := [] } }
  kept.foldl applyEntry (if s.sec.undo.isEmpty then s else journal 8 s1)

/-- The start of the Last (R370, steps 1 to 4): the ROM tests itself and loads the Last, which verifies the voltage-table and the
calibration record. `slot` is what SLOT_ID read at the rise of RESET_N (R405), `romOk` whether the ROM's tests pass, `reads` which
slots of the Last SPI NOR delivers whole. -/
def startUp (slot : Nat) (romOk : Bool) (reads : BitVec 2) (s : State) : State :=
  let s1 : State := { s with sys := { s.sys with slot := slot, released := true, phase := 1 } }
  if romOk = false then { s1 with sys := { s1.sys with phase := 14, fault := true } } else
  let s2 := applyMapTab s1
  match bootLast (reads.getLsbD ·) s2 with
  | none => s2
  | some s3 =>
    let s4 := takeVt { s3 with sys := { s3.sys with lastUp := true, phase := 2 } }
    { s4 with sec := { s4.sec with calOk := (newestRec Config.calMagic (Config.calRecord :: s4.sec.calRec.toList)).isSome } }

/-! ### Cold reset (R406, R409) -/

/-- The Last's store as it opens after a cold start: what the journal's replay gives (R385, R386), SPI NOR, and the halves of MRAM
themselves. A change that a compaction still held is lost. SEC draws new XTS keys (R241). -/
def coldSec (x : Sec) : Sec :=
  let v := (replay x).1
  { owned := v.owned, epoch := v.epoch, ock := v.ock, counter := v.counter, stored := v.stored, svnCount := v.svnCount,
    recalCount := v.recalCount, ceilCount := v.ceilCount, fwSvn := v.fwSvn, awlSvn := v.awlSvn, keyGen := v.keyGen,
    vtRec := v.vtRec, calRec := v.calRec, active := v.active, lastPend := v.lastPend, lastTrial := v.lastTrial, undo := v.undo,
    nor := x.nor, halfA := x.halfA, halfB := x.halfB, half := activeHalf x,
    gen := if activeHalf x then x.halfB.gen else x.halfA.gen, used := x.used, tamper := (replay x).2,
    generated := x.generated + 1, xts := x.generated + 1 }

/-- Every block at its reset state; the MRAM store, SPI NOR and the meter's lifetime count survive (R409). What the memories of a
device that ran then hold is unspecified: HBM reads as unrelated values under the new keys (R241). A firkin record that MRAM
keeps stands in the ring no longer, whose pointers start again (R395). -/
def coldState (s0 : State) : State :=
  let s : State := if s0.sys.powered then { s0 with mem := memLose (.all s0.free) s0.mem, free := s0.free + 1 } else s0
  let v := (replay s.sec).1
  let c : State := { State.reset with
    pending := s.pending, out := s.out, free := s.free, mem := s.mem,
    rel := { hist := v.hist, faultLog := v.faultLog, mapTab := v.mapTab, opMin := v.opMin, seq := v.recSeq,
             lastLockstep := v.lastLockstep },
    mtr := { life := v.life, kept := v.kept.map (fun f => { f with ring := none }), seq := v.firkinSeq },
    pwr := { ceil := v.ceil },
    sys := { high := s.sys.high },
    sec := coldSec s.sec }
  { c with mtr := { c.mtr with calSeq := vtSeq (calInUse c) } }

/-- The always-on rails are good; the device waits for RESET_N (Table 14.5), or starts at once where it has risen already
(R406). -/
def poweredState (s : State) : State :=
  let c := coldState s
  let c1 : State := { c with sys := { c.sys with powered := true } }
  match c1.sys.high with
  | some (slot, romOk, reads) => startUp slot romOk reads c1
  | none => c1

/-- VIN_APPLY (R406, Table 14.5). -/
def execVinApply (s : State) : Res := .next (if s.sys.powered then s else poweredState s)

/-- VIN_LOSS: the input stage turns off (Table 11.1); loss of VIN is a cold reset (R409). -/
def execVinLoss (s : State) : Res := .next (if s.sys.powered then coldState s else s)

/-- The module powers off (Table 11.1). -/
def powerOff (s : State) : State := if s.sys.powered then coldState s else s

/-- OVER_VOLTAGE (R313). -/
def execOverVoltage (s : State) : Res := .next (powerOff s)

/-- COLD_RESET: RESET_N low for 1 microsecond or longer; a shorter pulse is ignored (R406). It stays low until RESET_RELEASE. -/
def coldResetEffect (lowNs : Nat) (s : State) : State :=
  if lowNs < 1000 then s else
  let s1 : State := { s with sys := { s.sys with high := none } }
  if s.sys.powered then poweredState s1 else s1

/-- COLD_RESET (R406). -/
def execColdReset (lowNs : Nat) (s : State) : Res := .next (coldResetEffect lowNs s)

/-- RESET_RELEASE: RESET_N rises and SLOT_ID is sampled (R405); before the always-on rails are good the module holds its own reset
(R406). -/
def resetReleaseEffect (slot : Nat) (romOk : Bool) (reads : BitVec 2) (s : State) : State :=
  if s.sys.high.isSome ∨ s.sys.released = true then s else
  let s1 : State := { s with sys := { s.sys with high := some (slot, romOk, reads) } }
  if s.sys.powered then startUp slot romOk reads s1 else s1

/-- SLOT_ID as its three pins give it: a grounded pin reads 0, an open one 1 (R405). -/
def slotId (id0 id1 id2 : Bool) : Nat := b2n id0 + 2 * b2n id1 + 4 * b2n id2

/-- RESET_RELEASE (R407): the straps, the ROM's tests of its two engines (R370, step 1), and what SPI NOR delivers. -/
def execResetRelease (id0 id1 id2 shaOk rsaOk : Bool) (reads : BitVec 2) (s : State) : Res :=
  .next (resetReleaseEffect (slotId id0 id1 id2) (shaOk && rsaOk) reads s)

/-! ### The boot chain (R370) -/

/-- LAST_HEALTH_TIMEOUT: the ROM goes back to the previous slot at the following cold start (R371). -/
def lastTimeoutEffect (s : State) : State :=
  if s.sec.lastTrial ∧ s.sec.lastPend = false ∧ s.sys.lastUp then
    journal 8 { s with sec := { s.sec with lastPend := true } } else s

/-- LAST_HEALTH_TIMEOUT (R371). -/
def execLastHealthTimeout (s : State) : Res := .next (lastTimeoutEffect s)

/-- The first page of every block instance. -/
def allBlocks : List (Block × Nat) := blockTable.flatMap (fun r => (List.range r.insts).map (fun n => (r.block, pageOf r.block n 0)))

/-- Every PLL is stable, and the oscillator's trim has locked (R331). -/
def clocksGood (s : State) : Bool :=
  s.clk.ref.stable && s.clk.trimLock && (List.range 27).all (fun i => (mget s.clk.plls i {}).stable)

/-- A block at the end of the clock phase: ready, and enabled by the Last unless it is mapped out or enables itself
(R32). -/
def readyBlock (s : State) (x : Block × Nat) : State :=
  let b := getBlk s x.2
  let s1 := setBlk x.2 { b with ready := true } s
  if enAtReset x.1 ∨ b.mappedOut = true then s1 else setReg x.2 0x10 (setBit (getReg s1 x.2 0x10) 0 true) s1

/-- CLOCKS_STABLE (R331, step 3; Table 14.5): the blocks are enabled and TCK counts ticks. How long that has taken is not stated. -/
def clocksEffect (s : State) : State :=
  if s.sys.phase ≠ 3 ∨ s.sys.lastUp = false ∨ clocksGood s = false ∨ (getBlk s tckPage).ready = true then s else
  let s1 := allBlocks.foldl readyBlock s
  let r := draw s1
  { r.2 with tck := { r.2.tck with mclk := r.2.pwr.mclk, fclk := r.2.pwr.fclk }, sys := { r.2.sys with tickTime := Config.choose r.1 } }

/-- CLOCKS_STABLE (R331). -/
def execClocksStable (s : State) : Res := .next (clocksEffect s)

/-- COBBLER_RELEASE: the Cobbler starts from a verified slot and requests INIT of every stack (R370, step 5). -/
def cobblerReleaseEffect (reads : Nat → Bool) (s : State) : State :=
  if s.sys.phase ≠ 3 ∨ (getBlk s tckPage).ready = false then s else
  match bootGroup reads 1 s with
  | none => s
  | some s1 =>
    (List.range 8).foldl (fun u n => hbmRequest n 1 u)
      { s1 with sys := { s1.sys with phase := 4 }, rel := { s1.rel with kickTick := s1.tck.num } }

/-- COBBLER_RELEASE (R370). -/
def execCobblerRelease (readA readB : Bool) (s : State) : Res :=
  .next (cobblerReleaseEffect (fun k => if k = 0 then readA else readB) s)

/-- The UPPER_OS image body copied into HBM at `entry`, which UPPER_ENTRY names, and every core that is not mapped out started there;
while HBM does not take it, or SPI NOR does not deliver it whole, the device stays in phase UPPER_LOAD (R370, step 7; R408, R413). -/
def upperLoad (entry : Nat) (copied : Bool) (s : State) : State :=
  let image := imageBody s 0 (fwSlot s 0)
  if copied = false ∨ access s entry ≠ .ok ∨ access s (entry + (image.length - 1)) ≠ .ok ∨ winOf (entry + (image.length - 1)) ≠ .hbm then s else
  let run := (List.range 16).filter (fun i => !s.sys.coresOut.testBit i)
  let cores := (run.map (2 ^ ·)).sum
  let s1 := setReg 0 0x210 (word cores) (setReg 0 0x220 (word entry) (wrBytes 2 entry image s))
  { s1 with sys := { s1.sys with phase := 6, cores := cores } }

/-- UPPER_RELEASE: the other groups are verified, and the UPPER_OS image is loaded (R370, steps 6 and 7; R413). -/
def upperReleaseEffect (reads : Nat → Nat → Bool) (entry : Nat) (copied : Bool) (s : State) : State :=
  if s.sys.lastUp = false then s
  else if s.sys.phase = 5 then upperLoad entry copied s
  else if s.sys.phase ≠ 4 then s else
  let s1 := [2, 3, 4].foldl (fun u g => (bootGroup (reads g) g u).getD u) s
  match bootGroup (reads 0) 0 s1 with
  | none => s1
  | some s2 => upperLoad entry copied { s2 with sys := { s2.sys with phase := 5 } }

/-- UPPER_RELEASE (R413). -/
def execUpperRelease (readsA readsB : BitVec 5) (entry : BitVec 50) (copied : Bool) (s : State) : Res :=
  .next (upperReleaseEffect (fun g k => if k = 0 then readsA.getLsbD g else readsB.getLsbD g) entry.toNat copied s)

/-! ### SYS boot registers (R408, R413) -/

/-- A write of BOOT_STS: UPPER_OK moves PHASE to RUNNING and releases FAULT (R408, R364). -/
def bootStsEffect (v : Word) (s : State) : State :=
  if bit v 4 = false then s
  else if s.sys.phase = 6 then { s with sys := { s.sys with upperOk := true, phase := 7, fault := false } }
  else { s with sys := { s.sys with upperOk := true } }

/-- UPPER_OK (R408). -/
def execUpperOk (who : Initiator) (v : Word) (s : State) : Res :=
  .next (regGuard who 0 0x208 (v ||| 16#64) bootStsEffect s)

/-- The initiator is an application core. -/
def isCore : Initiator → Bool
  | .core _ => true
  | _ => false

/-- A write of CORE_CTL: RUN starts and stops cores; a mapped-out core does not start (R357, R413). -/
def coreCtlEffect (who : Initiator) (v : Word) (s : State) : State :=
  if isCore who then raise 0 3 0x210 s else
  let run := ((List.range 16).filter (fun i => bit v i && !s.sys.coresOut.testBit i)).map (2 ^ ·)
  setReg 0 0x210 (word run.sum) { s with sys := { s.sys with cores := run.sum } }

/-- CORE_RUN (R413). -/
def execCoreRun (who : Initiator) (v : Word) (s : State) : Res :=
  .next (regGuard who 0 0x210 v (coreCtlEffect who) s)

/-- A write of UPPER_ENTRY (R413). -/
def upperEntryEffect (who : Initiator) (v : Word) (s : State) : State :=
  if isCore who then raise 0 3 0x220 s else storeReg 0 0x220 v s

end Sys2Proof.Machine
end

