-- ==== Sys2Proof/Machine/Secure.lean ====
section
/-! DEFINITION. The keyed commands (R375-R384, Table 13.4) and the end of a journal compaction (R386). Numbers in payloads
are packed little-endian in the order of Table 13.4 (DESIGN CHOICE, log 62). -/

namespace Sys2Proof.Machine

/-- The number at byte `a` of a payload, `n` bytes long. -/
def payNat (e : Envelope) (a n : Nat) : Nat := leNat ((e.payload.drop a).take n)

/-- R377: the command is the last accepted one again. -/
def isReplay (s : State) (e : Envelope) : Bool :=
  decide (e.counter.toNat = s.sec.counter) && s.sec.stored.any (fun x => x.1 == e.mac)

/-- Checks 1 to 3 of R376 of the command with code `code`, whose payload has `len` bytes; `k` goes on. A repeated command
meets R377 whatever its epoch: a TAKE_OWNERSHIP carries the one before it. The Last handles one command at a time. -/
def keyedHead (code len : Nat) (e : Envelope) (k : CmdSrc → State → State) (s : State) : State :=
  if s.sys.lastUp = false ∨ s.sec.mapWait.isEmpty = false ∨ (e.cmd ≠ code ∧ 1 ≤ e.cmd ∧ e.cmd ≤ 15) then s else
  let r := takeSource e s
  if e.formOk = false ∨ e.cmd ≠ code ∨ e.len ≠ len then rejectCmd r.1 e 1 r.2
  else if s.sec.owned = false ∧ code ≠ 1 ∧ code ≠ 3 then rejectCmd r.1 e 6 r.2
  else if e.chipId ≠ Config.chipId then rejectCmd r.1 e 2 r.2
  else if fld e.w2 7 0 ≠ s.sec.epoch ∧ isReplay s e = false then rejectCmd r.1 e 3 r.2
  else k r.1 r.2

/-- Checks 4 and 5 of R376 under the owner's key; `k` judges the command's own conditions. While the last accepted command's
response waits for its commit, the answer to a repetition of it waits behind it (R377, R386). -/
def keyedMac (e : Envelope) (k : CmdSrc → State → State) (src : CmdSrc) (s : State) : State :=
  if macOf s.sec.ock e.head ≠ e.mac then rejectCmd src e 4 s
  else if isReplay s e then
    answerOrHold src (respSealed s.sec.ock (markReplayed ((s.sec.stored.map (·.2)).getD []))) (!s.sec.waiting.isEmpty) s
  else if e.counter.toNat ≤ s.sec.counter then rejectCmd src e 5 s
  else k src s

/-- A command under the owner's key: checks 1 to 5, then `k`. -/
def keyed (code len : Nat) (e : Envelope) (k : CmdSrc → State → State) (s : State) : State :=
  keyedHead code len e (keyedMac e k) s

/-- The owner's command has been carried out: its counter and response are stored with it, in one journal record of `n`
bytes (R377). -/
def ownerDone (e : Envelope) (src : CmdSrc) (n : Nat) (s : State) : State :=
  journal n (acceptCmd src e s.sec.ock true [] s)

/-! ### Ownership (R380, R381) -/

/-- TAKE_OWNERSHIP (R380, R382): its MAC is checked under the key it brings. -/
def takeOwner (e : Envelope) (src : CmdSrc) (s : State) : State :=
  if s.sec.owned then keyedMac e (fun src t => rejectCmd src e 6 t) src s else
  match Config.oaepOpen s.sec.keyGen (e.payload.take 384) with
  | none => rejectCmd src e 1 s
  | some ock =>
    if ock.length ≠ 32 then rejectCmd src e 1 s
    else if macOf ock e.head ≠ e.mac then rejectCmd src e 4 s
    else if e.counter.toNat ≤ s.sec.counter then rejectCmd src e 5 s
    else if 255 ≤ s.sec.epoch then rejectCmd src e 7 s
    else ownerDone e src 64 { s with sec := { s.sec with owned := true, epoch := s.sec.epoch + 1, ock := ock } }

/-- TAKE_OWNERSHIP (R380). -/
def execTakeOwnership (e : Envelope) (s : State) : Res := .next (keyedHead 1 384 e (takeOwner e) s)

/-- A release is refused while a job or a request is open, a request is staged, or a firkin record waits (R381). -/
def releaseBlocked (s : State) : Bool := anyJobOpen s || decide (0 < reqEntries s)

/-- Every byte that a provisional granule holds becomes zero. -/
def zeroProv (s : State) : State :=
  { s with prov := s.prov.map (fun p => { p with bytes := p.bytes.map (fun b => (b.1, b.2.1, 0)) }) }

/-- The release of the device (R381): HBM reads as unrelated values, the other memories are zero, the keys are gone. The
response goes out under the old owner's key. -/
def releaseOwner (e : Envelope) (src : CmdSrc) (s : State) : State :=
  if releaseBlocked s then rejectCmd src e 6 s else
  let old := s.sec.ock
  let s1 := zeroRange 0x180000000000 0x180060000000 (zeroRange 0x100000000000 0x100800000000
    (zeroProv (loseLines (List.range (lpcCount s)) s)))
  let x := s1.sec
  let s2 : State := { s1 with
    keys := [],
    sec := { x with owned := false, ock := [], counter := 0, stored := none, keyGen := x.keyGen + 1,
                    generated := x.generated + 1, xts := x.generated + 1 } }
  journal 64 (acceptCmd src e old false [] s2)

/-- RELEASE_OWNERSHIP (R381). -/
def execReleaseOwnership (e : Envelope) (s : State) : Res := .next (keyed 2 0 e (releaseOwner e) s)

/-- VENDOR_RELEASE: the firmware key's signature over CHIP_ID and OWNER_EPOCH stands in the place of MAC and COUNTER (Table
13.4). -/
def vendorRelease (e : Envelope) (src : CmdSrc) (s : State) : State :=
  if Config.pssVerify 0 (wordBytes Config.chipId ++ toLe 1 s.sec.epoch) (e.payload.take 384) = false then rejectCmd src e 8 s
  else releaseOwner e src s

/-- VENDOR_RELEASE (R376). -/
def execVendorRelease (e : Envelope) (s : State) : Res := .next (keyedHead 3 384 e (vendorRelease e) s)

/-! ### Keys and limited settings (R379, R383, R384, R389) -/

/-- INSTALL_LINK_KEY: JOB (2 bytes), EFFECTIVE_TICK (8), the wrapped key (384) (R383). -/
def installKey (e : Envelope) (src : CmdSrc) (s : State) : State :=
  let job := payNat e 0 2
  match Config.oaepOpen s.sec.keyGen ((e.payload.drop 10).take 384) with
  | none => rejectCmd src e 1 s
  | some key =>
    if key.length ≠ 32 then rejectCmd src e 1 s
    else if jobOpen s job = false then rejectCmd src e 6 s
    else
      let k := { getKey s job with staged := some (BitVec.ofNat 256 (leNat key), payNat e 2 8) }
      ownerDone e src 0 { s with keys := mput s.keys job k }

/-- INSTALL_LINK_KEY (R383). -/
def execInstallLinkKey (e : Envelope) (s : State) : Res := .next (keyed 4 394 e (installKey e) s)

/-- An advance would leave an active Upper slot, the running Last or a loaded pack below the new value (R379). -/
def svnBelow (s : State) (which v : Nat) : Bool :=
  if which = 0 then (List.range 6).any (fun g => decide (imageSvn s g (fwSlot s g) < v))
  else s.rel.packs.any (fun p => decide (p.svn < v))

/-- ADVANCE_SVN: which counter (1 byte), the new value (1) (R379). -/
def advanceSvn (e : Envelope) (src : CmdSrc) (s : State) : State :=
  let which := payNat e 0 1
  let v := payNat e 1 1
  let cur := if which = 0 then s.sec.fwSvn else s.sec.awlSvn
  if 1 < which ∨ 63 < v ∨ v ≤ cur ∨ svnBelow s which v = true then rejectCmd src e 6 s
  else if 63 ≤ s.sec.svnCount then rejectCmd src e 7 s
  else
    let x := { s.sec with svnCount := s.sec.svnCount + 1 }
    ownerDone e src 8 { s with sec := if which = 0 then { x with fwSvn := v } else { x with awlSvn := v } }

/-- ADVANCE_SVN (R379). -/
def execAdvanceSvn (e : Envelope) (s : State) : Res := .next (keyed 5 2 e (advanceSvn e) s)

/-- SET_CEILING: units of 10 W (2 bytes) (R384). -/
def setCeiling (e : Envelope) (src : CmdSrc) (s : State) : State :=
  let v := payNat e 0 2
  if v < 100 ∨ 300 < v then rejectCmd src e 6 s
  else if v = s.sec.ceilNext.getD s.pwr.ceil then ownerDone e src 0 s
  else if 31 ≤ s.sec.ceilCount then rejectCmd src e 7 s
  else ownerDone e src 8 { s with sec := { s.sec with ceilNext := some v, ceilCount := s.sec.ceilCount + 1 } }

/-- SET_CEILING (R384). -/
def execSetCeiling (e : Envelope) (s : State) : Res := .next (keyed 6 2 e (setCeiling e) s)

/-- The signature of a record in the form of R324 verifies. -/
def recSigned (r : List Byte) : Bool := Config.pssVerify 2 (r.take 448) (r.drop 448)

/-- MAGIC and CHIP_ID of a record in the form of R324. -/
def recFor (magic : Nat) (r : List Byte) : Bool :=
  leNat (r.take 4) == magic && word (leNat ((r.drop 8).take 8)) == Config.chipId

/-- RECAL_METER: a valid calibration record with a higher SEQ, used from the next sample (R389). -/
def recalMeter (e : Envelope) (src : CmdSrc) (s : State) : State :=
  let r := e.payload.take 832
  if recFor Config.calMagic r = false ∨ vtSeq r ≤ vtSeq (calInUse s) then rejectCmd src e 6 s
  else if 15 ≤ s.sec.recalCount then rejectCmd src e 7 s
  else if recSigned r = false then rejectCmd src e 8 s
  else ownerDone e src 832 { s with sec := { s.sec with calRec := some r, recalCount := s.sec.recalCount + 1 } }

/-- RECAL_METER (R389). -/
def execRecalMeter (e : Envelope) (s : State) : Res := .next (keyed 7 832 e (recalMeter e) s)

/-- REPLACE_VT: a valid record with a higher SEQ, used from the next cold start (R325). -/
def replaceVt (e : Envelope) (src : CmdSrc) (s : State) : State :=
  let r := e.payload.take 832
  if recFor 0x56544231 r = false ∨ (vtInUse s).any (fun x => decide (vtSeq r ≤ vtSeq x)) = true then rejectCmd src e 6 s
  else if recSigned r = false then rejectCmd src e 8 s
  else ownerDone e src 832 { s with sec := { s.sec with vtRec := some r } }

/-- REPLACE_VT (R325). -/
def execReplaceVt (e : Envelope) (s : State) : Res := .next (keyed 8 832 e (replaceVt e) s)

/-! ### Firmware and map-outs -/

/-- FW_SWITCH: the group (1 byte) switches at its switch point, and must report itself healthy within HEALTH_TICKS
(R360). -/
def fwSwitchCmd (e : Envelope) (src : CmdSrc) (s : State) : State :=
  let g := payNat e 0 1
  if 4 < g ∨ slotGood s g (1 - fwSlot s g) = false then rejectCmd src e 6 s else
  let at' := s.tck.num + b2n (decide (2 ≤ g)) + regFld s cblPage 0x228 31 0
  ownerDone e src 0 (fwTurn g false { s with sec := { s.sec with trial := mput s.sec.trial g at' } })

/-- FW_SWITCH (R360). -/
def execFwSwitch (e : Envelope) (s : State) : Res := .next (keyed 9 1 e (fwSwitchCmd e) s)

/-- UPDATE_LAST: the inactive Last image is verified and its slot marked pending (R371). -/
def updateLast (e : Envelope) (src : CmdSrc) (s : State) : State :=
  if slotGood s 5 (1 - fwSlot s 5) = false then rejectCmd src e 6 s
  else ownerDone e src 8 { s with sec := { s.sec with lastPend := true, lastTrial := false } }

/-- UPDATE_LAST (R371). -/
def execUpdateLast (e : Envelope) (s : State) : Res := .next (keyed 10 0 e (updateLast e) s)

/-- MAPOUT: BLOCK_CODE (2 bytes), INSTANCE, UNIT and FORCE (1 each), relayed to the Cobbler; the response waits for the
outcome (R356, Table 13.4). -/
def mapoutCmd (e : Envelope) (src : CmdSrc) (s : State) : State :=
  if cobblerUp s = false then rejectCmd src e 6 s else
  mapEnqueue { code := payNat e 0 2, inst := payNat e 2 1, unit := payNat e 3 1, force := decide (payNat e 4 1 ≠ 0), keyed := true }
    { s with sec := { s.sec with mapWait := [(src, e)] } }

/-- MAPOUT (R356). -/
def execMapout (e : Envelope) (s : State) : Res := .next (keyed 11 5 e (mapoutCmd e) s)

/-- UNDO_MAPOUT: the index in MAPOUT_TAB (1 byte) of an entry that goes at the next cold start (R357). -/
def undoMapout (e : Envelope) (src : CmdSrc) (s : State) : State :=
  let i := payNat e 0 1
  if s.rel.mapTab.length ≤ i then rejectCmd src e 6 s
  else ownerDone e src 8 { s with sec := { s.sec with undo := if s.sec.undo.contains i then s.sec.undo else s.sec.undo ++ [i] } }

/-- UNDO_MAPOUT (R357). -/
def execUndoMapout (e : Envelope) (s : State) : Res := .next (keyed 12 1 e (undoMapout e) s)

/-! ### The running state (R362, R364) -/

/-- A warm restart may be performed (R364). -/
def warmOk (s : State) : Bool :=
  s.rel.fqActive && regBit s cblPage 0x200 1 && s.rel.fqCause != 3 && s.rel.fqCause != 6 && !s.rel.noWarm

/-- A port trains again if it is used. -/
def restartPort (s : State) (p : Nat) : State :=
  let c := getReg s (lp p 0) 0x200
  if bit c 5 && fld c 1 0 != 0 then startTraining p s else s

/-- The job of a slot closes (R364). -/
def closeJob (s : State) (i : Nat) : State :=
  let j := getSlot s i
  if j.active then setSlot i { j with w0 := setFld j.w0 16 16 0, active := false, closing := true, mapReq := false } s else s

/-- A warm restart (R364): the Cobbler and the Upper start from their active slots, every job closes, the ports retrain,
HELD_BY_CBL is released. -/
def warmRestart (s : State) : State :=
  let run := (((List.range 16).filter (fun i => !s.sys.coresOut.testBit i)).map (2 ^ ·)).sum
  let s1 : State := { s with
    rel := { s.rel with fqActive := false, kickTick := s.tck.num },
    hbm := mmap (fun _ h => { h with held := false }) s.hbm,
    sys := { s.sys with phase := 6, upperOk := false, cores := run } }
  (List.range 16).foldl restartPort ((List.range 32).foldl closeJob (setReg 0 0x210 (word run) s1))

/-- WARM_RESTART (R364). -/
def warmCmd (e : Envelope) (src : CmdSrc) (s : State) : State :=
  if warmOk s = false then rejectCmd src e 6 s else ownerDone e src 0 (warmRestart s)

/-- WARM_RESTART (R364). -/
def execWarmRestart (e : Envelope) (s : State) : Res := .next (keyed 13 0 e (warmCmd e) s)

/-- FAIL_QUIET: cause REMOTE (R362); the record names the command's COUNTER (Table 12.3). -/
def failQuietCmd (e : Envelope) (src : CmdSrc) (s : State) : State :=
  ownerDone e src 0 (failQuiet 5 0x10 5 cblPage e.counter.toNat s)

/-- FAIL_QUIET (R362). -/
def execFailQuiet (e : Envelope) (s : State) : Res := .next (keyed 14 0 e (failQuietCmd e) s)

/-- SET_TIME: seconds (8 bytes) and nanoseconds (4) since 1970 (Table 13.4). -/
def setTime (e : Envelope) (src : CmdSrc) (s : State) : State :=
  ownerDone e src 0 { s with sec := { s.sec with time := some (payNat e 0 8 * 1000000000 + payNat e 8 4) } }

/-- SET_TIME (R341). -/
def execSetTime (e : Envelope) (s : State) : Res := .next (keyed 15 12 e (setTime e) s)

/-! ### Compaction (R386) -/

/-- The half that is not active, written with the snapshot of the store and a header of the next generation. -/
def newHalf (recs : List JRec) (x : Sec) : Sec :=
  let h : Half := { gen := x.gen + 1, good := true, snap := (replay x).1, recs := recs }
  if x.half then { x with halfA := h } else { x with halfB := h }

/-- COMPACTION_DONE: the other half holds the snapshot under the next generation and becomes active, the held changes are
appended to it, and the responses that waited go out. How many bytes the snapshot takes is a free value. -/
def compactEffect (s : State) : State :=
  if s.sec.compacting = false then s else
  let r := draw s
  let x := r.2.sec
  let s1 : State := { r.2 with
    sec := { newHalf (if (replay x).1 = storeOf s then [] else [{ value := storeOf s, bytes := x.heldBytes }]) x with
             half := !x.half, gen := x.gen + 1, used := Config.choose r.1 + x.heldBytes, compacting := false,
                    heldBytes := 0, waiting := [] } }
  x.waiting.foldl (fun u w => sendResponse w.1 w.2 u) s1

/-- COMPACTION_DONE (R386). -/
def execCompactionDone (s : State) : Res := .next (compactEffect s)

end Sys2Proof.Machine
end

