-- ==== Sys2Proof/Machine/Manage.lean ====
section
/-! DEFINITION. The management ports and channels (R414-R419), SPDM (R373, R374), the sideband pins (R404) and the SMBus
(R420). -/

namespace Sys2Proof.Machine

/-- Hardware and the Last handle management frames: from phase COBBLER on and through fail-quiet (R415). -/
def mgtUp (s : State) : Bool := decide (4 ≤ s.sys.phase) && s.sys.phase != 14

/-! ### Frames (R415, R416) -/

/-- A management response of no data that carries a status (Table 14.9). -/
def sendStatus (f : MgtFrame) (status : Nat) (s : State) : State :=
  sendMgt f.port.val f.src (fld f.w0 7 0) (fld f.w0 31 16) status [] s

/-- A frame that is not for the management hardware: to the Upper while UPPER_RX is 1 and the Upper runs, else dropped and
counted (R411, R415). -/
def toUpper (port : Nat) (bytes : List Byte) (s : State) : State :=
  if regBit s mgtPage 0x200 2 ∧ (s.sys.phase = 6 ∨ s.sys.phase = 7) then emit (.upper port bytes) s
  else bump mgtPage 0 5 1 s

/-- A partial message of a channel, discarded. -/
def dropPartial (chan : Nat) (s : State) : State := { s with mgt := { s.mgt with partials := mdel s.mgt.partials chan } }

/-- A whole request is held for the Last, four to a channel; a fifth is answered with BUSY (R418). -/
def holdRequest (f : MgtFrame) (r : MgtReq) (s : State) : State :=
  let chan := fld f.w0 7 0
  let held := mget s.mgt.held chan []
  if 4 ≤ held.length then sendStatus f 2 (raise mgtPage 9 0 s)
  else { s with mgt := { s.mgt with held := mput s.mgt.held chan (held ++ [r]) } }

/-- The partial message that a fragment continues: its own, if port, sender and MSG_ID are the same. -/
def partialFor (s : State) (f : MgtFrame) : Option (MgtReq × Nat) :=
  (mfind s.mgt.partials (fld f.w0 7 0)).filter
    (fun x => x.1.port == f.port.val && x.1.src == f.src && x.1.msg == fld f.w0 31 16)

/-- A fragment of a management message (R416). -/
def fragEffect (f : MgtFrame) (s : State) : State :=
  let chan := fld f.w0 7 0
  let off := fld f.w0 47 32
  let len := fld f.w0 63 48
  let total := fld f.w1 15 0
  let first := bit f.w0 9
  let last := bit f.w0 10
  let cur := if first then none else partialFor s f
  let s1 := dropPartial chan s
  if 4 < chan then sendStatus f 1 s
  else if 1484 < len then sendStatus f 4 s1
  else
    let have' : Option (MgtReq × Nat) :=
      if first then some (⟨f.port.val, f.src, fld f.w0 31 16, []⟩, total) else cur
    match have' with
    | none => sendStatus f 3 s1
    | some (r, n) =>
      let r1 := { r with data := r.data ++ f.data }
      if f.data.length ≠ len ∨ off ≠ r.data.length ∨ total ≠ n ∨ n < r1.data.length ∨ (last = true) ≠ (r1.data.length = n) then
        sendStatus f 3 s1
      else if last then holdRequest f r1 s1
      else { s1 with mgt := { s1.mgt with partials := mput s1.mgt.partials chan (r1, n) } }

/-- The port is enabled and its link is up. -/
def mgtLink (s : State) (port : Nat) : Bool :=
  regBit s mgtPage 0x200 port && (if port = 0 then s.mgt.link0 else s.mgt.link1)

/-- MANAGEMENT_FRAGMENT: a frame classified by R415. -/
def mgtFrameEffect (f : MgtFrame) (s : State) : State :=
  if mgtUp s = false ∨ mgtLink s f.port.val = false then s else
  let s1 := bump mgtPage 0 f.port.val 1 s
  if f.etherType = 0x88B5 ∧ (f.toPort = true ∨ (f.broadcast = true ∧ fld f.w0 7 0 = 0)) then fragEffect f s1
  else toUpper f.port.val (wordsBytes [f.w0, f.w1] ++ f.data) s1

/-- MANAGEMENT_FRAGMENT (R416). -/
def execManagementFragment (f : MgtFrame) (s : State) : Res := .next (mgtFrameEffect f s)

/-- REASSEMBLY_TIMEOUT (R416). -/
def execReassemblyTimeout (chan : Fin 5) (s : State) : Res := .next (dropPartial chan.val s)

/-- UPPER_FRAME (R415). -/
def upperFrameEffect (port : Nat) (bytes : List Byte) (s : State) : State :=
  if mgtLink s port = false then s else toUpper port bytes (bump mgtPage 0 port 1 s)

/-- UPPER_FRAME (R415). -/
def execUpperFrame (port : Fin 2) (bytes : List Byte) (s : State) : Res := .next (upperFrameEffect port.val bytes s)

/-- MANAGEMENT_LINK_CHANGE: LINK and FEC of a port; INT_STS.LINK on a change of LINK (R419). -/
def mgtLinkEffect (port : Nat) (up fec : Bool) (s : State) : State :=
  if mgtUp s = false ∨ (up = true ∧ regBit s mgtPage 0x200 port = false) then s else
  let old := if port = 0 then s.mgt.link0 else s.mgt.link1
  let m := if port = 0 then { s.mgt with link0 := up, fec0 := up && fec } else { s.mgt with link1 := up, fec1 := up && fec }
  if old = up then { s with mgt := m } else intSet mgtPage 1 { s with mgt := m }

/-- MANAGEMENT_LINK_CHANGE (R419). -/
def execManagementLinkChange (port : Fin 2) (up fec : Bool) (s : State) : Res := .next (mgtLinkEffect port.val up fec s)

/-- A write of MGT_CFG: EN0 and EN1 change only by the Last; another's change of them is discarded with PRIV (R419). A
port that is turned off loses its link. -/
def mgtCfgEffect (who : Initiator) (v : Word) (s : State) : State :=
  let old := getReg s mgtPage 0x200
  if who ≠ .last ∧ fld v 1 0 ≠ fld old 1 0 then raise mgtPage 3 0x200 s
  else
    let s1 := storeReg mgtPage 0x200 v s
    let off (u : State) (p : Nat) : State :=
      if bit v p = false ∧ (if p = 0 then u.mgt.link0 else u.mgt.link1) = true then
        intSet mgtPage 1 { u with mgt := if p = 0 then { u.mgt with link0 := false, fec0 := false }
                                           else { u.mgt with link1 := false, fec1 := false } }
      else u
    [0, 1].foldl off s1

/-! ### Answers of the channels (R417, R418) -/

/-- An answer to the request at the head of a channel, which is the one on `port` with `msg`, taken from it; `data` gives what it
answers with. A channel's requests are answered one at a time, in order of arrival (R418). -/
def answerChan (chan port msg : Nat) (data : MgtReq → List Byte) (s : State) : State :=
  if mgtUp s = false ∨ mgtLink s port = false then s else
  match mget s.mgt.held chan [] with
  | r :: rs =>
    if r.port = port ∧ r.msg = msg then
      sendMgt r.port r.src chan r.msg 0 (data r) { s with mgt := { s.mgt with held := mput s.mgt.held chan rs } }
    else s
  | [] => s

/-- The IDENT response (Table 14.10). -/
def identBytes (s : State) : List Byte :=
  wordsBytes [Config.chipId, word (0xB0 + s.sys.phase * 256 + devNum s * 65536 + b2n (devValid s) * 2 ^ 30 + s.rel.fqCause * 2 ^ 32)] ++
  partNumber

/-- IDENT (R417). -/
def execMgtIdent (port : Fin 2) (msgId : BitVec 16) (s : State) : Res :=
  .next (answerChan 0 port.val msgId.toNat (fun _ => identBytes s) s)

/-- SEQ of a CPER record. -/
def recSeq (r : List Byte) : Nat := leNat ((r.drop 272).take 8)

/-- First SEQ and count of a LOG or FIRKIN request: its W0 and W1[15:0] (Table 14.10). -/
def MgtReq.first (r : MgtReq) : Nat := leNat (r.data.take 8)
def MgtReq.count (r : MgtReq) : Nat := leNat ((r.data.drop 8).take 2)

/-- The fault-log records a LOG request asks for, up to 32 (R417). -/
def logRecords (s : State) (r : MgtReq) : List (List Byte) :=
  (s.rel.faultLog.filter (fun x => decide (r.first ≤ recSeq x))).take (min r.count 32)

/-- The request at the head of a channel asks for `count` records from `first` on. -/
def asksFor (s : State) (chan first count : Nat) : Bool :=
  (mget s.mgt.held chan []).head?.any (fun r => r.first == first && r.count == count)

/-- LOG, for the request that asks for just these records (R417). -/
def execMgtLog (port : Fin 2) (msgId : BitVec 16) (first count : Nat) (s : State) : Res :=
  .next (if asksFor s 3 first count then answerChan 3 port.val msgId.toNat (fun r => (logRecords s r).flatten) s else s)

/-- The records held in MRAM that a FIRKIN request asks for, up to 64 (R417). -/
def firkinRecords (s : State) (r : MgtReq) : List Firkin :=
  (s.mtr.kept.filter (fun f => decide (r.first ≤ f.seq))).take (min r.count 64)

/-- FIRKIN: the records it returns count as read (R395, R417). -/
def firkinAnswer (port msg : Nat) (s : State) : State :=
  let s1 := answerChan 4 port msg (fun r => (firkinRecords s r).flatMap (·.bytes)) s
  if s1.mgt.held = s.mgt.held then s1 else
  let fs := firkinRecords s ((mget s.mgt.held 4 []).headD ⟨port, 0, msg, []⟩)
  markRead (fun f => if fs.any (fun g => g.seq == f.seq) then { f with read := true } else f) s1

/-- FIRKIN, for the request that asks for just these records (R417). -/
def execMgtFirkin (port : Fin 2) (msgId : BitVec 16) (first count : Nat) (s : State) : Res :=
  .next (if asksFor s 4 first count then firkinAnswer port.val msgId.toNat s else s)

/-! ### SPDM (R373, R374). Message layouts are those of DMTF DSP0274 1.3 (PRESUMED, log 40) -/

/-- `n` bytes that the device chooses, or that the standard forms from others. -/
def spdmFree (k n : Nat) (x : List Byte) : List Byte := (Config.spdmBody k x ++ List.replicate n 0).take n

/-- An ERROR response. -/
def spdmError (code : Nat) : List Byte := [0x13#8, 0x7F#8, BitVec.ofNat 8 code, 0#8]

/-- The response goes out as an answer on the SPDM channel, or to the sender of the command. -/
def spdmSend (src : Nat) (req resp : List Byte) (s : State) : State :=
  match mget s.mgt.held 1 [] with
  | r :: rs =>
    if r.port = src ∧ r.data = req then
      sendMgt r.port r.src 1 r.msg 0 resp { s with mgt := { s.mgt with held := mput s.mgt.held 1 rs } }
    else emit (.spdm src resp) s
  | [] => emit (.spdm src resp) s

/-- The exchange joins the transcript. -/
def spdmKeep (st : Nat) (req resp : List Byte) (s : State) : State :=
  { s with sec := { s.sec with spdm := s.sec.spdm ++ req ++ resp, spdmState := st } }

/-- A request under its own code: `k` gives the response and the state after it. Any other request than the seven is
answered with UnsupportedRequest, another version with VersionMismatch, one out of order with UnexpectedRequest. -/
def spdmRow (code need src : Nat) (req : List Byte) (k : State → List Byte × State) (s : State) : State :=
  let c := (req.getD 1 0).toNat
  let known := c ∈ [0x84, 0xE1, 0xE3, 0x81, 0x82, 0x83, 0xE0]
  if s.sys.released = false ∨ s.sys.phase = 14 ∨ (c ≠ code ∧ known) then s
  else if c ≠ code then spdmSend src req (spdmError 7) s
  else if (req.getD 0 0).toNat ≠ (if code = 0x84 then 0x10 else 0x13) then spdmSend src req (spdmError 0x41) s
  else if s.sec.spdmState < need then spdmSend src req (spdmError 4) s
  else let r := k s; spdmSend src req r.1 r.2

/-- GET_VERSION: 1.3 only; it starts the transcript again. -/
def spdmVersion (req : List Byte) (s : State) : List Byte × State :=
  let resp := [0x10#8, 0x04#8, 0#8, 0#8, 0#8, 1#8, 0#8, 0x13#8]
  (resp, { s with sec := { s.sec with spdm := req ++ resp, spdmState := 1 } })

/-- GET_VERSION (R373). -/
def execGetVersion (src : Fin 2) (req : List Byte) (s : State) : Res :=
  .next (spdmRow 0x84 0 src.val req (spdmVersion req) s)

/-- GET_CAPABILITIES: CERT_CAP, CHAL_CAP and MEAS_CAP with signatures. -/
def spdmCaps (req : List Byte) (s : State) : List Byte × State :=
  let resp := [0x13#8, 0x61#8, 0#8, 0#8, 0#8] ++ spdmFree 0 1 [] ++ [0#8, 0#8] ++ toLe 4 0x16 ++ spdmFree 1 8 []
  (resp, spdmKeep 2 req resp s)

/-- GET_CAPABILITIES (R373). -/
def execGetCapabilities (src : Fin 2) (req : List Byte) (s : State) : Res :=
  .next (spdmRow 0xE1 1 src.val req (spdmCaps req) s)

/-- NEGOTIATE_ALGORITHMS: RSAPSS-3072, SHA-256 and DMTF measurements; a requester that does not offer them gets
ERROR. -/
def spdmAlgos (req : List Byte) (s : State) : List Byte × State :=
  let meas := (req.getD 6 0).toNat
  let asym := leNat ((req.drop 8).take 4)
  let hash := leNat ((req.drop 12).take 4)
  if meas % 2 = 0 ∨ asym / 8 % 2 = 0 ∨ hash % 2 = 0 then (spdmError 1, s) else
  let resp := [0x13#8, 0x63#8, 0#8, 0#8] ++ toLe 2 36 ++ [1#8, 0#8] ++ toLe 4 2 ++ toLe 4 8 ++ toLe 4 1 ++ toLe 16 0
  (resp, spdmKeep 3 req resp s)

/-- NEGOTIATE_ALGORITHMS (R373). -/
def execNegotiateAlgorithms (src : Fin 2) (req : List Byte) (s : State) : Res :=
  .next (spdmRow 0xE3 2 src.val req (spdmAlgos req) s)

/-- The certificate chain of a slot: the DIK's, the RSK's or the KTK's (R373). The subject of the RSK's and the KTK's certificate
carries CHIP_ID and OWNER_EPOCH; where in the DER they stand, and how they are written there, is not given (R372; DESIGN CHOICE,
log 149). -/
def chainOf (s : State) (slot : Nat) : List Byte :=
  let gen := if slot = 0 then 0 else s.sec.keyGen
  let piece (i : Nat) : List Byte := Config.certPiece slot gen i
  if slot = 0 then piece 0
  else piece 0 ++ wordBytes Config.chipId ++ piece 1 ++ [BitVec.ofNat 8 s.sec.epoch] ++ piece 2

/-- GET_DIGESTS: the chains of slots 0 to 2. -/
def spdmDigests (req : List Byte) (s : State) : List Byte × State :=
  let resp := [0x13#8, 0x01#8, 0#8, 7#8] ++ (List.range 3).flatMap (fun i => Crypto.sha256 (chainOf s i))
  (resp, spdmKeep 3 req resp s)

/-- GET_DIGESTS (R373). -/
def execGetDigests (src : Fin 2) (req : List Byte) (s : State) : Res :=
  .next (spdmRow 0x81 3 src.val req (spdmDigests req) s)

/-- GET_CERTIFICATE: a portion of a slot's chain; slots 3 to 7 are empty. -/
def spdmCert (req : List Byte) (s : State) : List Byte × State :=
  let slot := (req.getD 2 0).toNat % 16
  let off := leNat ((req.drop 4).take 2)
  let len := leNat ((req.drop 6).take 2)
  let c := chainOf s slot
  if 2 < slot ∨ c.length ≤ off then (spdmError 1, s) else
  let part := (c.drop off).take (min len 65527)
  let resp := [0x13#8, 0x02#8, BitVec.ofNat 8 slot, 0#8] ++ toLe 2 part.length ++ toLe 2 (c.length - off - part.length) ++ part
  (resp, spdmKeep 3 req resp s)

/-- GET_CERTIFICATE (R373). -/
def execGetCertificate (src : Fin 2) (req : List Byte) (s : State) : Res :=
  .next (spdmRow 0x82 3 src.val req (spdmCert req) s)

/-- A fresh 32-byte nonce: a free value. -/
def nonce (s : State) : List Byte × State :=
  ((List.range 4).flatMap (fun i => wordBytes (Config.freeWord (s.free + i))), { s with free := s.free + 4 })

/-- The measurement blocks the device answers with: all of them, or the ROM's alone when no Last firmware runs (R370,
step 3). -/
def measFor (s : State) : List Nat := if s.sys.lastUp then (List.range 15).map (· + 1) else [2]

/-- A response signed with the DIK over what the standard forms from the transcript. -/
def spdmSigned (s : State) (req body : List Byte) : List Byte :=
  body ++ Config.pssSign 0 (Config.spdmBody 2 (s.sec.spdm ++ req ++ body))

/-- CHALLENGE: signed with the DIK, whichever slot is named. -/
def spdmChallenge (req : List Byte) (s : State) : List Byte × State :=
  let slot := (req.getD 2 0).toNat % 16
  let sum := (req.getD 3 0).toNat
  if 2 < slot then (spdmError 1, s) else
  let n := nonce s
  let summary : List Byte :=
    if sum = 0 then [] else Crypto.sha256 ((if sum = 1 then [2] else measFor s).flatMap (measBytes s))
  let body := [0x13#8, 0x03#8, BitVec.ofNat 8 slot, 7#8] ++ Crypto.sha256 (chainOf s slot) ++ n.1 ++ summary ++ [0#8, 0#8] ++
    (req.drop 36).take 8
  (spdmSigned s req body, { n.2 with sec := { n.2.sec with spdm := [] } })

/-- CHALLENGE (R373). -/
def execChallenge (src : Fin 2) (req : List Byte) (s : State) : Res :=
  .next (spdmRow 0x83 3 src.val req (spdmChallenge req) s)

/-- GET_MEASUREMENTS: the number of blocks, one block or all of them, signed with the DIK on request (R374). -/
def spdmMeas (req : List Byte) (s : State) : List Byte × State :=
  let sign := ((req.getD 2 0).toNat % 2 == 1)
  let op := (req.getD 3 0).toNat
  let all := measFor s
  let ids := if op = 0 then [] else if op = 255 then all else all.filter (· == op)
  if op ≠ 0 ∧ ids.isEmpty = true then (spdmError 1, s) else
  let recs := ids.flatMap (measBytes s)
  let n := nonce s
  let ctx := if sign then (req.drop 37).take 8 else (req.drop 4).take 8
  let body := [0x13#8, 0x60#8, BitVec.ofNat 8 (if op = 0 then all.length else 0), req.getD 36 0 &&& 15#8] ++
    [BitVec.ofNat 8 ids.length] ++ toLe 3 recs.length ++ recs ++ n.1 ++ [0#8, 0#8] ++ ctx
  if sign then (spdmSigned s req body, { n.2 with sec := { n.2.sec with spdm := [] } })
  else (body, spdmKeep 3 req body n.2)

/-- GET_MEASUREMENTS (R374). -/
def execGetMeasurements (src : Fin 2) (req : List Byte) (s : State) : Res :=
  .next (spdmRow 0xE0 3 src.val req (spdmMeas req) s)

/-! ### Sideband pins (R404) -/

/-- SB_STS[11:8]: drivers turned off. -/
def shortBits (s : State) : Nat := ((List.range 4).map (fun i => b2n (s.mgt.shorts.contains i) * 2 ^ i)).sum

/-- The module drives the pin against which a short is judged: TICK_OUT is push-pull; FAULT_N and THERM_ALERT_N only while it pulls
them low; SMB_DAT is pulled low within its own transfers, which the model does not hold (R404; DESIGN CHOICE, log 150). -/
def pinDriven (s : State) (pin : Nat) : Bool :=
  if pin = 1 then s.sys.fault else if pin = 2 then thermAlert s else true

/-- SIDEBAND_SHORT: the driver is turned off until a cold reset or REARM, with an event that carries SB_STS. A released open-drain
pin that reads low is no fault (R404). -/
def shortEffect (pin : Nat) (s : State) : State :=
  if s.sys.powered = false ∨ s.mgt.shorts.contains pin ∨ pinDriven s pin = false then s else
  let s1 := alertPin s { s with mgt := { s.mgt with shorts := s.mgt.shorts ++ [pin] } }
  raiseEv mgtPage 8 0 { mkEv mgtPage 1 5 with detail := s.sys.slot + shortBits s1 * 256 } s1

/-- SIDEBAND_SHORT (R404). -/
def execSidebandShort (pin : Fin 4) (s : State) : Res := .next (shortEffect pin.val s)

/-- A write of SB_CTL (R404). -/
def rearmEffect (v : Word) (s : State) : State :=
  if bit v 0 then alertPin s { s with mgt := { s.mgt with shorts := [] } } else s

/-- REARM (R404). -/
def execRearm (who : Initiator) (v : Word) (s : State) : Res := .next (regGuard who mgtPage 0x308 (v ||| 1#64) rearmEffect s)

/-! ### SMBus (R420) -/

/-- The packet error code: a CRC-8 with the polynomial x^8 + x^2 + x + 1 (PRESUMED from SMBus 3.1, log 151). -/
def crc8Bit (c : Nat) : Nat := if 128 ≤ c then Nat.xor (c * 2 % 256) 7 else c * 2
def crc8Byte (c : Nat) (b : Byte) : Nat :=
  crc8Bit (crc8Bit (crc8Bit (crc8Bit (crc8Bit (crc8Bit (crc8Bit (crc8Bit (Nat.xor c b.toNat))))))))
def crc8 (bs : List Byte) : Byte := BitVec.ofNat 8 (bs.foldl crc8Byte 0)

/-- The module's SMBus address (R405, R420). -/
def smbAddr (s : State) : Nat := 0x58 + s.sys.slot

/-- Bytes answered to a read of command `code` at the module's own address, the only one it acknowledges, from phase RESET on and
unless the driver of SMB_DAT is off. A Block Read begins with the count; the PEC over the whole transfer follows for a host
that reads one byte further (R420; the form is PRESUMED from SMBus 3.1, log 151). A write command has no row: the module does
not acknowledge it. -/
def smbAnswer (code : Nat) (block : Bool) (data : List Byte) (s : State) : State :=
  if s.sys.powered = false ∨ s.mgt.shorts.contains 3 then s else
  let bs := if block then BitVec.ofNat 8 data.length :: data else data
  let a := smbAddr s * 2
  emit (.smb (smbAddr s) bs (crc8 ([BitVec.ofNat 8 a, BitVec.ofNat 8 code, BitVec.ofNat 8 (a + 1)] ++ bs))) s

/-- A temperature as a signed byte; 0x80 while there is none. -/
def smbTemp (t : Option Int) : List Byte := [match t with | some x => BitVec.ofInt 8 x | none => 0x80#8]

/-- SMB_IDENT. -/
def execSmbIdent (s : State) : Res :=
  .next (smbAnswer 0x00 true (partNumber ++ wordBytes Config.chipId) s)

/-- SMB_PHASE. -/
def execSmbPhase (s : State) : Res :=
  .next (smbAnswer 0x01 false [BitVec.ofNat 8 s.sys.phase] s)

/-- SMB_FQ. -/
def execSmbFq (s : State) : Res :=
  .next (smbAnswer 0x02 false [if s.rel.fqActive then BitVec.ofNat 8 s.rel.fqCause else 0] s)

/-- SMB_VIN: units of 10 mV. -/
def execSmbVin (s : State) : Res :=
  .next (smbAnswer 0x03 false (toLe 2 (s.pwr.vin / 10)) s)

/-- SMB_IIN: units of 10 mA. -/
def execSmbIin (s : State) : Res :=
  .next (smbAnswer 0x04 false (toLe 2 s.pwr.iin) s)

/-- SMB_PIN: watts. -/
def execSmbPin (s : State) : Res :=
  .next (smbAnswer 0x05 false (toLe 2 (s.mtr.mW / 1000)) s)

/-- SMB_T_INLET. -/
def execSmbTInlet (s : State) : Res :=
  .next (smbAnswer 0x06 false (smbTemp s.pwr.inlet) s)

/-- SMB_T_OUTLET. -/
def execSmbTOutlet (s : State) : Res :=
  .next (smbAnswer 0x07 false (smbTemp s.pwr.outlet) s)

/-- SMB_T_DIE. -/
def execSmbTDie (s : State) : Res :=
  .next (smbAnswer 0x08 false (smbTemp ((hottest s).map (·.2))) s)

/-- The hottest HBM stack that has been read. -/
def hottestHbm (s : State) : Option Int :=
  let ts := ((List.range 8).map (getHbm s)).filter (·.tempRead)
  ts.foldl (fun (b : Option Int) h => match b with
    | none => some (h.temp : Int)
    | some x => some (max x (h.temp : Int))) none

/-- SMB_T_HBM. -/
def execSmbTHbm (s : State) : Res :=
  .next (smbAnswer 0x09 false (smbTemp (hottestHbm s)) s)

/-- The ALERTS word (Table 14.12). -/
def alertWord (s : State) : Nat :=
  b2n (regBit s pwr0 0x20 12) + b2n (regBit s pwr0 0x20 11) * 2 + b2n s.pwr.thermLimit * 4 + b2n s.pwr.tjCrit * 8 +
  b2n s.pwr.inletHigh * 16 + b2n ((List.range 8).any (fun n => decide (2 ≤ (getHbm s n).therm))) * 32 + b2n s.sys.fault * 64 +
  shortBits s * 128

/-- SMB_ALERTS. -/
def execSmbAlerts (s : State) : Res :=
  .next (smbAnswer 0x0A false (toLe 2 (alertWord s)) s)

/-- SMB_SLOT. -/
def execSmbSlot (s : State) : Res :=
  .next (smbAnswer 0x0B false [BitVec.ofNat 8 s.sys.slot] s)

end Sys2Proof.Machine
end

