-- ==== Sys2Proof/Machine/Registers.lean ====
section
/-! DEFINITION. The register commands: writes by address (R6, R24, R25, R34), the common head (R26-R32), soft resets (R31,
R423, R425), SYS.DEV_ID (R19), and the effect of a write on every register of the blocks. -/

namespace Sys2Proof.Machine

/-! ### The common head -/

/-- A write of PERF_SEL: CLEAR, or a change of SET, clears the page's counters (Table 1.14). -/
def perfSelEffect (page : Nat) (v : Word) (s : State) : State :=
  let changed := fld v 7 0 ≠ regFld s page 0x50 7 0
  let s1 := storeReg page 0x50 v s
  if bit v 9 ∨ changed then clearCounters page s1 else s1

/-- PERF_CLEAR (R26). -/
def execPerfClear (who : Initiator) (page : Fin 4096) (v : Word) (s : State) : Res :=
  .next (regGuard who page.val 0x50 (v ||| word 0x200) (perfSelEffect page.val) s)

/-- The registers of page `sub` of a block that a soft reset keeps: ERR_FIRST (R31), those of R423 and R425, and the
ceiling, which only its own command changes (R315). -/
def resetKeeps (b : Block) (sub off : Nat) : Bool :=
  off == 0x30 ||
  (match b with
   | .sys => decide (0x200 ≤ off)
   | .tck => sub == 0 && (off == 0x200 || off == 0x208 || off == 0x218)
   | _ => false)

/-- Registers and counters of the pages `p` to `p + n - 1` at their reset values. -/
def resetRegs (b : Block) (p n : Nat) (s : State) : State :=
  let mine (k per : Nat) : Bool := decide (p ≤ k / per ∧ k / per < p + n)
  { s with regs := s.regs.filter (fun x => !mine x.1 8192 || resetKeeps b (x.1 / 8192 - p) (x.1 % 8192 * 8)),
           cnt := s.cnt.filter (fun x => !mine x.1 32),
           tck := { s.tck with snap := s.tck.snap.filter (fun x => !mine x.1 32) } }

/-- TCK after a soft reset: the timebase, a staged TICK_CFG and the alignment go on (R425); register pushes held at its
queues are discarded with PUSH_DROP (R194). -/
def resetTck (s : State) : State :=
  let t := s.tck
  let held := ((List.range 256).filter (fun c => !(getQueue s c).held.isEmpty))
  let s1 : State := { s with
    tck := { num := t.num, staged := t.staged, align := t.align, missed := t.missed, offset := t.offset, good := t.good,
             marked := t.marked, adjust := t.adjust, mclk := t.mclk, fclk := t.fclk, snap := t.snap },
    queues := s.queues.filter (fun x => decide (256 ≤ x.1)) }
  held.foldl (fun u c => qErr c 1 u) s1

/-- CRM00 returns to hinted mode; a slice drops its tags, and its registers show no copy. What the Cobbler has decided of
mapped-out slices stays. -/
def resetCrm (n : Nat) (s : State) : State :=
  let s0 := dropTags [n] { s with crm := { s.crm with pos := mdel s.crm.pos n } }
  if n = 0 ∧ s.crm.normal = true then
    rehost (pruneCw { zeroGranules 0 14 s0 with crm := { s0.crm with sets := [], normal := false, sp := 0, ack := false } })
  else s0

/-- PWR after a soft reset: levels, estimates, readings and totals as after reset, no request staged or running. The
ceiling (R315), the trim of the record in use (R325) and what MRAM holds stay. -/
def resetPwr (s : State) : State :=
  { s with pwr := { ceil := s.pwr.ceil, vtTrim := s.pwr.vtTrim },
           mtr := { life := s.mtr.life, kept := s.mtr.kept, seq := s.mtr.seq, calSeq := s.mtr.calSeq } }

/-- What the Strainer holds, after a soft reset. -/
def resetStn (s : State) : State :=
  { s with rel := { s.rel with tileCount := [], rotate := 0, capture := none, checking := false, recomp := [], capHeld := false },
           lnk := { s.lnk with redCount := 0, redSamples := 0, check := none } }

/-- The contexts of an array at its soft reset: all free, as CTX_TASK and UNIT_STS read then (R31). The tasks that stood in them
cannot go on and end with ENGINE_FAULT (DESIGN CHOICE, log 70). -/
def dropContexts (n : Nat) (s : State) : State :=
  (arrEngines n).foldl (fun u e => (getEng u e).ctx.foldl (fun v id =>
    match findTask v id with | some t => finish t { status := 9 } v | none => v) u) s

/-- What an instance holds behind its registers, after a soft reset (R31): what its registers set or show returns with
them. What is kept in MRAM, what the Cobbler has decided (MAPPED_OUT, SUSPECT, the map-out table, lpc_map, fail-quiet), the
ceiling and a strap stay (DESIGN CHOICE, log 70). -/
def resetInner (b : Block) (n : Nat) (s : State) : State :=
  match b with
  | .tck => resetTck s
  | .arr => setArr n { banks := (getArr s n).banks } (dropContexts n s)
  | .ve => { s with tables := s.tables.filter (fun x => x.1 / 8 != n) }
  | .chn => { s with layers := [] }
  | .skm => { s with skm := {} }
  | .ldl => setLdl n {} s
  | .crm => resetCrm n s
  | .hbm =>
    let s1 := if (getHbm s n).state = 0 then s else loseLines (stackLpcs s n) s
    setHbm n { outPcs := (getHbm s n).outPcs } s1
  | .lnk =>
    let s1 := setPort n {} s
    if n = 0 then { s1 with lnk := { s1.lnk with cache := [], lastDetached := [] } } else s1
  | .pwr => resetPwr s
  | .clk => setTrim s.pwr.vtTrim { s with clk := {} }
  | .tst => { s with rel := { s.rel with packs := [], tests := [] } }
  | .stn => resetStn s
  | .mgt => { s with sec := { s.sec with door := none, doorResp := none, done := false, status := 0 }, mgt := { shorts := s.mgt.shorts } }
  | .cbl => { s with rel := { s.rel with emitted := 0, lost := 0, mapDone := false, mapResult := 0, kickTick := s.tck.num } }
  | .sys | .rng | .sec | .nvs => s

/-- A write of BLK_CTL (R31, R32): a soft reset is refused with BUSY while WORK is 1, and then EN and CG_OVR take effect
as in any other write. -/
def blkCtlEffect (page : Nat) (v : Word) (s : State) : State :=
  let s0 := storeReg page 0x10 v s
  let s1 := if enAck s page then s0 else holdAck page s0
  if bit v 1 = false then s1
  else if work s page then raise page 4 0x10 s1
  else match pageOwner page with
    | none => s
    | some (b, n, _) =>
      let s2 := resetInner b n (resetRegs b (firstPage page) (blockRow b).pages s)
      setBlk page { getBlk s2 page with rstBusy := true, busyPend := [] } s2

/-- BLOCK_ENABLE: a write of BLK_CTL that requests no reset (R32). -/
def execBlockEnable (who : Initiator) (page : Fin 4096) (v : Word) (s : State) : Res :=
  .next (regGuard who page.val 0x10 (setBit v 1 false) (blkCtlEffect page.val) s)

/-- SOFT_RESET: a write of BLK_CTL with SRST set (R31). -/
def execSoftReset (who : Initiator) (page : Fin 4096) (v : Word) (s : State) : Res :=
  .next (regGuard who page.val 0x10 (setBit v 1 true) (blkCtlEffect page.val) s)

/-- The reset completes: RST_BUSY falls, and the pages whose writes were discarded set BUSY (R31); a block whose PLL is not stable
does not raise EN_ACK (R331). -/
def resetDoneEffect (page : Nat) (s : State) : State :=
  let b := getBlk s page
  if b.rstBusy = false then s else
  b.busyPend.foldl (fun u p => raise p.1 4 p.2 u) (holdAck page (setBlk page { b with rstBusy := false, busyPend := [] } s))

/-- SOFT_RESET_DONE (R31). -/
def execSoftResetDone (page : Fin 4096) (s : State) : Res := .next (resetDoneEffect page.val s)

/-- A read of ERR_FIRST, which clears it (R28); the head of every page is readable by every controller (R29). -/
def errFirstEffect (page : Nat) (s : State) : State :=
  match pageOwner page with
  | none => answer (BitVec.allOnes 64) (noPage 0x30 s)
  | some _ => setReg page 0x30 0 (answer (getReg s page 0x30) s)

/-- ERR_FIRST_READ (R28). -/
def execErrFirstRead (_who : Initiator) (page : Fin 4096) (s : State) : Res := .next (errFirstEffect page.val s)

/-- UNASSIGNED_PAGE_ACCESS (R25), taken as made at the page's first offset, since the command names none (DESIGN CHOICE,
log 97): of an assigned page it is no such access, and changes nothing. -/
def unassignedEffect (page : Nat) (wr : Bool) (s : State) : State :=
  match pageOwner page with
  | some _ => s
  | none => if wr then noPage 0 s else answer (BitVec.allOnes 64) (noPage 0 s)

/-- UNASSIGNED_PAGE_ACCESS (R25). -/
def execUnassignedPageAccess (_who : Initiator) (page : Fin 4096) (wr : Bool) (_v : Word) (s : State) : Res :=
  .next (unassignedEffect page.val wr s)

/-! ### Registers with conditions of their own -/

/-- A write of DEV_ID: locked once VALID is 1 (R19). -/
def devIdEffect (v : Word) (s : State) : State := if bit (devId s) 63 then s else setReg 0 0x200 v s

/-- DEV_ID_WRITE (R19). -/
def execDevIdWrite (who : Initiator) (v : Word) (s : State) : Res := .next (regGuard who 0 0x200 v devIdEffect s)

/-- A write accepted when `ok`, otherwise discarded with ERR_STS bit `i`. -/
def checkedReg (page off i : Nat) (ok : Bool) (v : Word) (s : State) : State :=
  if ok then storeReg page off v s else raise page i off s

/-- The fields of PWR_FLOOR are in range (Table 11.8). -/
def floorOk (s : State) (v : Word) : Bool :=
  let f := fld v 11 0
  decide (1000 ≤ f ∧ f ≤ 3000 ∧ f % 100 = 0) && (s.pwr.vt.isNone || s.pwr.listed f) &&
  decide (1 ≤ fld v 20 16 ∧ fld v 20 16 ≤ 16 ∧ 10 ≤ fld v 30 24 ∧ fld v 30 24 ≤ 100 ∧ fld v 30 24 % 10 = 0)

/-- The fields of PWR_LOOP are in range. -/
def loopOk (v : Word) : Bool :=
  decide (10 ≤ fld v 11 0 ∧ fld v 11 0 ≤ 1000 ∧ 10 ≤ fld v 27 16 ∧ fld v 27 16 ≤ 1000 ∧ 1 ≤ fld v 35 32 ∧ fld v 35 32 ≤ 8)

/-- The limits of THERM_LIM are in order (R336). -/
def thermOk (v : Word) : Bool :=
  decide (fld v 7 0 < fld v 15 8 ∧ fld v 15 8 < fld v 23 16 ∧ fld v 23 16 ≤ 115 ∧ fld v 31 24 ≤ fld v 39 32 ∧ fld v 39 32 ≤ 50)

/-- The thresholds of a stack's THERM_CFG are in order, HYST and THROT_PCT in range (R236). -/
def stackThermOk (v : Word) : Bool :=
  decide (fld v 7 0 < fld v 15 8 ∧ fld v 15 8 < fld v 23 16 ∧ fld v 23 16 ≤ 110 ∧ 1 ≤ fld v 27 24 ∧ fld v 27 24 ≤ 10 ∧
    10 ≤ fld v 38 32 ∧ fld v 38 32 ≤ 100)

/-- SPARE may be written (R229). -/
def spareOk (s : State) (v : Word) : Bool :=
  decide (fld v 4 0 ≤ 16) && !s.crm.normal &&
  (List.range 8).all (fun n => decide ((getHbm s n).state ≤ 1) && (getHbm s n).outPcs.isEmpty)

/-- Every array and VE has WORK = 0 (R367). -/
def enginesIdle (s : State) : Bool :=
  (List.range 4).all (fun n => !work s (pageOf .arr n 0)) && (List.range 16).all (fun n => !work s (pageOf .ve n 0))

/-- A write of OSC_TRIM: TRIM is writable only while SRC is 0b00, as which 0b11 acts (Table 11.9). -/
def oscTrimEffect (v : Word) (s : State) : State :=
  let hold := trimSrc s = 0 ∨ trimSrc s = 3
  let s1 := setReg clkPage 0x210 (setFld (getReg s clkPage 0x210) 17 16 (fld v 17 16)) s
  if hold then setTrim (toSigned 16 (fld v 15 0)) s1 else s1

/-- A write of CMD_CTL: GO hands the envelope at CMD_ADDR to the Last, and is discarded while BUSY (Table 13.10). The
buffer lies in HBM or the scratchpad (R397). -/
def cmdCtlEffect (v : Word) (s : State) : State :=
  let a := regFld s mgtPage 0x400 49 6 * 64
  if bit v 0 = false ∨ s.sec.door.isSome = true then s
  else if (winOf a = .hbm ∨ winOf a = .scr) ∧ access s a ≠ .fault then { s with sec := { s.sec with door := some a, done := false } }
  else s

/-- A write of a link receive queue's Q_CFG: EN, CUT, and FLUSH, which drops every packet and frees its words (R259, Table
7.3); packets kept for a queue that was disabled are offered again. -/
def portQueueEffect (p : Nat) (resp : Bool) (v : Word) (s : State) : State :=
  let s1 := storeReg (lp p 1) (rxOff resp 0) v s
  if bit v 1 then rxFlush p resp s1 else rxOffer p s1

/-! ### A write of any register beyond the head -/

/-- A register of the common queue block's group at offset `r` (Table 7.2). -/
def queueRegEffect (who : Initiator) (page off q r : Nat) (v : Word) (s : State) : State :=
  if r = 0 then (if q < 256 then (if bit v 1 then flushEffect q s else s) else laceCfgEffect (q - 256) v s)
  else if r = 0x20 then pushEffect who q v s
  else if r = 0x28 then pushNbEffect q v s
  else storeReg page off v s

def sysRegEffect (who : Initiator) (sub page off : Nat) (v : Word) (s : State) : State :=
  if sub = 0 then
    if off = 0x200 then devIdEffect v s else if off = 0x208 then bootStsEffect v s
    else if off = 0x210 then coreCtlEffect who v s else if off = 0x220 then upperEntryEffect who v s else storeReg page off v s
  else if 0x8000 ≤ off then queueRegEffect who page off (256 + (sub - 2) * 512 + (off - 0x8000) / 64) (off % 64) v s
  else
    let p := (off - 0x1000) / 32
    if off % 32 = 0 then poolBaseEffect p v s else if off % 32 = 8 then poolCfgEffect p v s
    else if off % 32 = 0x18 then releaseEffect p v s else storeReg page off v s

def tckRegEffect (who : Initiator) (sub page off : Nat) (v : Word) (s : State) : State :=
  if sub = 0 then
    if off = 0x200 then tickCfgEffect v s else if off = 0x218 then tickSrcEffect v s
    else if off = 0x238 then abortEffect v s
    else if 0x1000 ≤ off ∧ off % 16 = 0 then slotEffect ((off - 0x1000) / 16) v s else storeReg page off v s
  else if 0x4000 ≤ off then queueRegEffect who page off ((off - 0x4000) / 64) (off % 64) v s
  else if 0x1000 ≤ off then bindWrite who ((off - 0x1000) / 8) v s
  else storeReg page off v s

def arrRegEffect (n sub page off : Nat) (v : Word) (s : State) : State :=
  if sub = 0 ∧ off = 0x200 then arrayModeEffect n v s
  else if sub = 0 ∧ off = 0x208 then swapEffect n v s
  else if sub = 5 ∧ off = 0x200 then keepCtlEffect n v s
  else if sub = 6 ∧ 0x1000 ≤ off then tbankEffect n ((off - 0x1000) / 8) v s
  else if sub = 7 ∧ 0x1000 ≤ off ∧ work s page = true then raise page 4 off s
  else storeReg page off v s

def skmRegEffect (sub page off : Nat) (v : Word) (s : State) : State :=
  if sub = 0 ∧ off = 0x200 then stepCtlEffect v s
  else if sub = 0 ∧ off = 0x218 then entryCfgEffect v s
  else if sub = 0 ∧ off = 0x220 then entryWinEffect true v s
  else if sub = 0 ∧ off = 0x228 then entryWinEffect false v s
  else if sub = 1 ∧ off = 0x210 then bindWinEffect true v s
  else if sub = 1 ∧ off = 0x218 then bindWinEffect false v s
  else storeReg page off v s

def ldlRegEffect (n sub page off : Nat) (v : Word) (s : State) : State :=
  if sub = 0 ∧ off = 0x200 then directModeEffect n v s
  else if sub = 0 ∧ 0x1000 ≤ off then
    let r := (off - 0x1000) % 128
    if r = 0x40 ∨ r = 0x48 ∨ r = 0x50 then chanWrite n ((off - 0x1000) / 128) (r - 0x40) v s else raise page 9 off s
  else storeReg page off v s

def crmRegEffect (page off : Nat) (v : Word) (s : State) : State :=
  if off = 0x200 then crmModeEffect v s else if off = 0x208 then crmPartEffect v s
  else if off = 0x218 then keepCfgEffect v s else storeReg page off v s

def hbmRegEffect (n sub page off : Nat) (v : Word) (s : State) : State :=
  if sub = 0 ∧ off = 0x200 then hbmRequest n (fld v 2 0) s
  else if sub = 0 ∧ off = 0x210 then
    checkedReg page off 9 (decide (fld v 5 0 + fld v 13 8 + fld v 21 16 + fld v 29 24 ≤ 64)) v s
  else if sub = 0 ∧ off = 0x218 then
    checkedReg page off 9 (decide (fld v 15 0 + fld v 31 16 + fld v 47 32 + fld v 63 48 ≤ 16384)) v s
  else if sub = 0 ∧ off = 0x230 ∧ n = 0 then checkedReg page off 9 (spareOk s v) v s
  else if sub = 1 ∧ off = 0x200 then checkedReg page off 10 (stackThermOk v) v s
  else if sub = 3 ∧ off = 0x200 then marginEffect n v s
  else if sub = 3 ∧ off = 0x208 then marginPatEffect n v s
  else storeReg page off v s

def lnkRegEffect (p sub page off : Nat) (v : Word) (s : State) : State :=
  if sub = 0 ∧ off = 0x200 then portCfgEffect p v s
  else if sub = 0 ∧ off = 0x228 then retrainEffect p v s
  else if sub = 0 ∧ (off = 0x230 ∨ off = 0x238 ∨ off = 0x240) then ethCfgEffect p off v s
  else if sub = 1 ∧ (off = 0x4000 ∨ off = 0x4040) then portQueueEffect p (off == 0x4040) v s
  else if sub = 2 ∧ off = 0x228 then cacheFlushEffect v s
  else if sub = 2 ∧ 0x1000 ≤ off then unitEffect ((off - 0x1000) / 32) (off % 32 / 8) v s
  else if sub = 3 ∧ 0x1000 ≤ off then groupEffect ((off - 0x1000) / 32) (off % 32 / 8) v s
  else if sub = 3 ∧ 0x400 ≤ off then rsvEffect ((off - 0x400) / 8) v s
  else storeReg page off v s

def pwrRegEffect (sub page off : Nat) (v : Word) (s : State) : State :=
  if sub = 0 then
    if off = 0x200 then pwrCapEffect v s
    else if off = 0x218 then checkedReg page off 9 (floorOk s v) v s
    else if off = 0x220 then checkedReg page off 9 (loopOk v) v s
    else if off = 0x240 then checkedReg page off 9 (decide (300 ≤ fld v 11 0 ∧ fld v 11 0 ≤ 360)) v s
    else if off = 0x248 then
      checkedReg page off 9 (decide (10 ≤ fld v 7 0 ∧ fld v 7 0 ≤ 100 ∧ 16 ≤ fld v 27 16)) v s
    else if off = 0x250 then checkedReg page off 9 (thermOk v) v s
    else storeReg page off v s
  else if off = 0x238 then firkinPtrEffect v s
  else if 0x280 ≤ off ∧ off < 0x380 then reqCtlEffect ((off - 0x280) / 8) v s
  else storeReg page off v s

def clkRegEffect (page off : Nat) (v : Word) (s : State) : State :=
  if off = 0x200 then
    checkedReg page off 8 (decide (1 ≤ fld v 9 0 ∧ fld v 9 0 ≤ 1000 ∧ 1 ≤ fld v 19 16)) v s
  else if off = 0x210 then oscTrimEffect v s
  else storeReg page off v s

def mgtRegEffect (who : Initiator) (page off : Nat) (v : Word) (s : State) : State :=
  if off = 0x200 then mgtCfgEffect who v s else if off = 0x308 then rearmEffect v s
  else if off = 0x408 then cmdCtlEffect v s else storeReg page off v s

def cblRegEffect (page off : Nat) (v : Word) (s : State) : State :=
  if off = 0x220 then kickEffect v s else if off = 0x230 then mapoutReqEffect v s
  else if off = 0x250 then policyEffect v s else storeReg page off v s

/-- The effect of a write that `regGuard` has let through. -/
def regEffect (who : Initiator) (page off : Nat) (v : Word) (s : State) : State :=
  if off = 0x10 then blkCtlEffect page v s
  else if off = 0x50 then perfSelEffect page v s
  else if off < 0x200 then storeReg page off v s
  else match pageOwner page with
    | some (.sys, _, sub) => sysRegEffect who sub page off v s
    | some (.tck, _, sub) => tckRegEffect who sub page off v s
    | some (.arr, n, sub) => arrRegEffect n sub page off v s
    | some (.chn, _, 0) => if off = 0x200 then chnCfgEffect v s else storeReg page off v s
    | some (.skm, _, sub) => skmRegEffect sub page off v s
    | some (.rng, _, _) =>
      if off = 0x218 then testGoEffect v s else if 0x1000 ≤ off then seedEffect ((off - 0x1000) / 8) v s else storeReg page off v s
    | some (.ldl, n, sub) => ldlRegEffect n sub page off v s
    | some (.crm, _, _) => crmRegEffect page off v s
    | some (.hbm, n, sub) => hbmRegEffect n sub page off v s
    | some (.lnk, p, sub) => lnkRegEffect p sub page off v s
    | some (.pwr, _, sub) => pwrRegEffect sub page off v s
    | some (.clk, _, _) => clkRegEffect page off v s
    | some (.tst, _, 0) => if off = 0x218 then checkedReg page off 10 (enginesIdle s) v s else storeReg page off v s
    | some (.stn, _, _) => if off = 0x218 then captureEffect who v s else storeReg page off v s
    | some (.mgt, _, _) => mgtRegEffect who page off v s
    | some (.cbl, _, _) => cblRegEffect page off v s
    | _ => storeReg page off v s

/-- Page index and page offset of a global address in the device's own control-page window (R18, R24). -/
def pageAt (s : State) (a : Nat) : Option (Nat × Nat) :=
  if isLocal s a ∧ winOf (localPart a) = .ctrl then some ((localPart a - 0x200000000000) / 65536, a % 65536) else none

/-- A core's own resources in its core-private window (Table 14.7); the rest of the window is unmapped (R22, R412). -/
def coreReg (off : Nat) : Bool := decide (off < 0x2000 ∨ (0x10000 ≤ off ∧ off < 0x10010))

/-- A controller may address the location outside the control pages: mapped memory of this device, and for a core its
core-private window (R15, R19, R20, R22). -/
def mayAddress (s : State) (who : Initiator) (a : Nat) : Bool :=
  isLocal s a &&
  (match winOf (localPart a), who with
   | .core, .core _ => coreReg (localPart a % 0x1000000)
   | _, _ => mappedMem s (localPart a))

/-- A core's write into its interrupt files: a 32-bit write of an identity to the first word of a file, or with its bytes reversed to
the second, makes it pending there; the rest of a file, CORE_ID and CORE_TIME take no write (R412; PRESUMED from the RISC-V
AIA, log 11). -/
def coreWrite (core off size : Nat) (v : Word) (s : State) : State :=
  let w := toLe 4 v.toNat
  let id := if off % 4096 = 0 then leNat w else leNat w.reverse
  if 0x2000 ≤ off ∨ size ≠ 4 ∨ (off % 4096 ≠ 0 ∧ off % 4096 ≠ 4) ∨ id = 0 ∨ 2048 ≤ id then s
  else if off < 0x1000 then
    { s with sys := { s.sys with imsicM := if s.sys.imsicM.contains (core, id) then s.sys.imsicM else s.sys.imsicM ++ [(core, id)] } }
  else { s with sys := { s.sys with imsic := if s.sys.imsic.contains (core, id) then s.sys.imsic else s.sys.imsic ++ [(core, id)] } }

/-- An access that is not performed: its initiator takes an access fault (R15, R22). -/
def accessFault (who : Initiator) (a : Nat) (wr : Bool) (s : State) : State := emit (.accessFault who a wr) s

/-- A register write by address and size: an unassigned page sets NO_PAGE (R25), any other than an aligned 64-bit access
sets ACC_FORM (R6). An address outside the window is no register access; one that the initiator may not address takes an
access fault (R22). -/
def regWrite (who : Initiator) (addr size : Nat) (v : Word) (s : State) : State :=
  match pageAt s addr with
  | none =>
    if mayAddress s who addr = false then accessFault who addr true s
    else match winOf (localPart addr), who with
      | .core, .core c => coreWrite c.val (localPart addr % 0x1000000) size v s
      | _, _ => s
  | some (page, off) =>
    if (pageOwner page).isNone then noPage off s
    else if size ≠ 8 ∨ off % 8 ≠ 0 then raise page 0 off s
    else regGuard who page off v (regEffect who page off) s

/-- The Last writes the configuration or table area of SEC or NVS, whose layout is not given (R397). -/
def lastOwnArea (s : State) (who : Initiator) (addr size : Nat) : Bool :=
  match pageAt s addr with
  | none => false
  | some (page, off) =>
    decide (who = .last) && size == 8 && off % 8 == 0 && decide (0x200 ≤ off) &&
    (match pageOwner page with
     | some (.sec, _, _) | some (.nvs, _, _) => true
     | _ => false)

/-- REGISTER_WRITE (R34). -/
def execRegisterWrite (who : Initiator) (addr size : Nat) (v : Word) (s : State) : Res :=
  if lastOwnArea s who addr size then .refused .secLayoutNotGiven else .next (regWrite who addr size v s)

end Sys2Proof.Machine
end

