-- ==== Sys2Proof/Machine/Dispatch.lean ====
section
/-! DEFINITION. The dispatch: one arm per command, each a direct call of its meaning. -/

namespace Sys2Proof.Machine

/-- The effect of a command on everything but the queue. -/
def exec (i : Instr) (s : State) : Host.Outcome State Fault Refusal :=
  match i with
  | .registerWrite who addr size v => Sys2Proof.Machine.execRegisterWrite who addr size v s
  | .unassignedPageAccess who page wr v => Sys2Proof.Machine.execUnassignedPageAccess who page wr v s
  | .errFirstRead who page => Sys2Proof.Machine.execErrFirstRead who page s
  | .perfClear who page v => Sys2Proof.Machine.execPerfClear who page v s
  | .blockEnable who page v => Sys2Proof.Machine.execBlockEnable who page v s
  | .softReset who page v => Sys2Proof.Machine.execSoftReset who page v s
  | .softResetDone page => Sys2Proof.Machine.execSoftResetDone page s
  | .devIdWrite who v => Sys2Proof.Machine.execDevIdWrite who v s
  | .qPush who q v => Sys2Proof.Machine.execQPush who q v s
  | .heldPushComplete q => Sys2Proof.Machine.execHeldPushComplete q s
  | .qPushNb who q v => Sys2Proof.Machine.execQPushNb who q v s
  | .qPop who q => Sys2Proof.Machine.execQPop who q s
  | .qCfgWrite who lace v => Sys2Proof.Machine.execQCfgWrite who lace v s
  | .queueFlush who q => Sys2Proof.Machine.execQueueFlush who q s
  | .poolCfgWrite who pool v => Sys2Proof.Machine.execPoolCfgWrite who pool v s
  | .poolAlloc who pool => Sys2Proof.Machine.execPoolAlloc who pool s
  | .poolRelease who pool v => Sys2Proof.Machine.execPoolRelease who pool v s
  | .taskAccept cq => Sys2Proof.Machine.execTaskAccept cq s
  | .dispatchCheck task => Sys2Proof.Machine.execDispatchCheck task s
  | .taskDispatch task => Sys2Proof.Machine.execTaskDispatch task s
  | .refetchDone n record => Sys2Proof.Machine.execRefetchDone n record s
  | .taskCommit task => Sys2Proof.Machine.execTaskCommit task s
  | .matmulProduct task k cycles => Sys2Proof.Machine.execMatmulProduct task k cycles s
  | .heritageProduct task k cycles => Sys2Proof.Machine.execHeritageProduct task k cycles s
  | .vecConvert task k cycles => Sys2Proof.Machine.execVecConvert task k cycles s
  | .vecAdd task k cycles => Sys2Proof.Machine.execVecAdd task k cycles s
  | .vecMul task k cycles => Sys2Proof.Machine.execVecMul task k cycles s
  | .vecFma task k cycles => Sys2Proof.Machine.execVecFma task k cycles s
  | .vecAffine task k cycles => Sys2Proof.Machine.execVecAffine task k cycles s
  | .vecMax task k cycles => Sys2Proof.Machine.execVecMax task k cycles s
  | .rowSum task k cycles => Sys2Proof.Machine.execRowSum task k cycles s
  | .rowSumsq task k cycles => Sys2Proof.Machine.execRowSumsq task k cycles s
  | .rowMax task k cycles => Sys2Proof.Machine.execRowMax task k cycles s
  | .vecFinite task k cycles => Sys2Proof.Machine.execVecFinite task k cycles s
  | .vecMask task k cycles => Sys2Proof.Machine.execVecMask task k cycles s
  | .segMask task k cycles => Sys2Proof.Machine.execSegMask task k cycles s
  | .dropout task k cycles => Sys2Proof.Machine.execDropout task k cycles s
  | .random task k cycles => Sys2Proof.Machine.execRandom task k cycles s
  | .funForward task k cycles => Sys2Proof.Machine.execFunForward task k cycles s
  | .funBackward task k cycles => Sys2Proof.Machine.execFunBackward task k cycles s
  | .funLoad task k cycles => Sys2Proof.Machine.execFunLoad task k cycles s
  | .sgd task k cycles => Sys2Proof.Machine.execSgd task k cycles s
  | .adam task k cycles => Sys2Proof.Machine.execAdam task k cycles s
  | .lion task k cycles => Sys2Proof.Machine.execLion task k cycles s
  | .copy task k cycles => Sys2Proof.Machine.execCopy task k cycles s
  | .redArm task k cycles => Sys2Proof.Machine.execRedArm task k cycles s
  | .allreduce task k cycles => Sys2Proof.Machine.execAllreduce task k cycles s
  | .multicast task k cycles => Sys2Proof.Machine.execMulticast task k cycles s
  | .taskUnpark task => Sys2Proof.Machine.execTaskUnpark task s
  | .decideGroup task => Sys2Proof.Machine.execDecideGroup task s
  | .tickBoundary => Sys2Proof.Machine.execTickBoundary s
  | .admissionRerun e cyclesLeft => Sys2Proof.Machine.execAdmissionRerun e cyclesLeft s
  | .suspendDrainDone e => Sys2Proof.Machine.execSuspendDrainDone e s
  | .provisionalDrain job group line => Sys2Proof.Machine.execProvisionalDrain job group line s
  | .tickCfgWrite who v => Sys2Proof.Machine.execTickCfgWrite who v s
  | .tickSrcWrite who v => Sys2Proof.Machine.execTickSrcWrite who v s
  | .tickIn offsetNs => Sys2Proof.Machine.execTickIn offsetNs s
  | .alignHoldover => Sys2Proof.Machine.execAlignHoldover s
  | .cqBindWrite who cq v => Sys2Proof.Machine.execCqBindWrite who cq v s
  | .ownQueueBind cq target => Sys2Proof.Machine.execOwnQueueBind cq target s
  | .ownQueueUnbind cq => Sys2Proof.Machine.execOwnQueueUnbind cq s
  | .jobSlotWrite who slot v => Sys2Proof.Machine.execJobSlotWrite who slot v s
  | .abortTask who v => Sys2Proof.Machine.execAbortTask who v s
  | .abortJob who v => Sys2Proof.Machine.execAbortJob who v s
  | .abortDone => Sys2Proof.Machine.execAbortDone s
  | .noprog slot => Sys2Proof.Machine.execNoprog slot s
  | .noprogFirstRead who => Sys2Proof.Machine.execNoprogFirstRead who s
  | .cqDropFirstRead who => Sys2Proof.Machine.execCqDropFirstRead who s
  | .arrayModeWrite who n v => Sys2Proof.Machine.execArrayModeWrite who n v s
  | .swapArm who n v => Sys2Proof.Machine.execSwapArm who n v s
  | .loadReady n q => Sys2Proof.Machine.execLoadReady n q s
  | .chainedLoadStart n q => Sys2Proof.Machine.execChainedLoadStart n q s
  | .tilePassStart n q => Sys2Proof.Machine.execTilePassStart n q s
  | .outputBlockEpilogue task => Sys2Proof.Machine.execOutputBlockEpilogue task s
  | .keeperStepDown n q gap => Sys2Proof.Machine.execKeeperStepDown n q gap s
  | .keeperStepUp n q => Sys2Proof.Machine.execKeeperStepUp n q s
  | .longStall n column idx cycles => Sys2Proof.Machine.execLongStall n column idx cycles s
  | .tbankRowWrite who n w v => Sys2Proof.Machine.execTbankRowWrite who n w v s
  | .scrub slice addr found => Sys2Proof.Machine.execScrub slice addr found s
  | .skimExport who v => Sys2Proof.Machine.execSkimExport who v s
  | .skimAdvance who v => Sys2Proof.Machine.execSkimAdvance who v s
  | .stepDone => Sys2Proof.Machine.execStepDone s
  | .entryCfgWrite who v => Sys2Proof.Machine.execEntryCfgWrite who v s
  | .clearStats who v => Sys2Proof.Machine.execClearStats who v s
  | .alarmFirstRead who => Sys2Proof.Machine.execAlarmFirstRead who s
  | .testGo who v => Sys2Proof.Machine.execTestGo who v s
  | .directModeWrite who n v => Sys2Proof.Machine.execDirectModeWrite who n v s
  | .channelArm who n c v => Sys2Proof.Machine.execChannelArm who n c v s
  | .directTransferStart n c => Sys2Proof.Machine.execDirectTransferStart n c s
  | .readbackDone n => Sys2Proof.Machine.execReadbackDone n s
  | .crmModeWrite who v => Sys2Proof.Machine.execCrmModeWrite who v s
  | .crmPartWrite who v => Sys2Proof.Machine.execCrmPartWrite who v s
  | .modeChangeDone => Sys2Proof.Machine.execModeChangeDone s
  | .rehomeDone slice => Sys2Proof.Machine.execRehomeDone slice s
  | .hbmInit who n => Sys2Proof.Machine.execHbmInit who n s
  | .hbmInitDone n ok => Sys2Proof.Machine.execHbmInitDone n ok s
  | .hbmActive who n => Sys2Proof.Machine.execHbmActive who n s
  | .selfRefresh who n => Sys2Proof.Machine.execSelfRefresh who n s
  | .hbmTest who n => Sys2Proof.Machine.execHbmTest who n s
  | .stackTempRead n reading => Sys2Proof.Machine.execStackTempRead n reading s
  | .refresh n pc => Sys2Proof.Machine.execRefresh n pc s
  | .pcRehomeDone n => Sys2Proof.Machine.execPcRehomeDone n s
  | .marginRun who n v => Sys2Proof.Machine.execMarginRun who n v s
  | .marginDone n errors bits => Sys2Proof.Machine.execMarginDone n errors bits s
  | .trackPeakRead who n => Sys2Proof.Machine.execTrackPeakRead who n s
  | .detect p signal => Sys2Proof.Machine.execDetect p signal s
  | .equalise p rxLock txLock => Sys2Proof.Machine.execEqualise p rxLock txLock s
  | .identify p lanes partnerReversed partnerGood => Sys2Proof.Machine.execIdentify p lanes partnerReversed partnerGood s
  | .align p => Sys2Proof.Machine.execAlign p s
  | .delay p peerDev peerPort peerValid peerAck => Sys2Proof.Machine.execDelay p peerDev peerPort peerValid peerAck s
  | .retrain who p v => Sys2Proof.Machine.execRetrain who p v s
  | .downRetry p => Sys2Proof.Machine.execDownRetry p s
  | .data p f => Sys2Proof.Machine.execData p f s
  | .credit p f => Sys2Proof.Machine.execCredit p f s
  | .creditSend p => Sys2Proof.Machine.execCreditSend p s
  | .tick p f arrival => Sys2Proof.Machine.execTick p f arrival s
  | .down p f => Sys2Proof.Machine.execDown p f s
  | .echo p f turnaround => Sys2Proof.Machine.execEcho p f turnaround s
  | .echoResp p f roundTrip => Sys2Proof.Machine.execEchoResp p f roundTrip s
  | .read p k => Sys2Proof.Machine.execRead p k s
  | .readResp p k => Sys2Proof.Machine.execReadResp p k s
  | .write p k => Sys2Proof.Machine.execWrite p k s
  | .ack p k => Sys2Proof.Machine.execAck p k s
  | .nack p k => Sys2Proof.Machine.execNack p k s
  | .raAddF32 p k => Sys2Proof.Machine.execRaAddF32 p k s
  | .raAddBf16 p k => Sys2Proof.Machine.execRaAddBf16 p k s
  | .raAddMx8 p k => Sys2Proof.Machine.execRaAddMx8 p k s
  | .raMax p k => Sys2Proof.Machine.execRaMax p k s
  | .raAnd p k => Sys2Proof.Machine.execRaAnd p k s
  | .mcastWrite p k => Sys2Proof.Machine.execMcastWrite p k s
  | .notice p k => Sys2Proof.Machine.execNotice p k s
  | .resolve p k => Sys2Proof.Machine.execResolve p k s
  | .resolveResp p k => Sys2Proof.Machine.execResolveResp p k s
  | .respTimeout seq => Sys2Proof.Machine.execRespTimeout seq s
  | .noslotRetry seq => Sys2Proof.Machine.execNoslotRetry seq s
  | .redTimeout seq => Sys2Proof.Machine.execRedTimeout seq s
  | .cacheFlush who v => Sys2Proof.Machine.execCacheFlush who v s
  | .unitWrite who u w v => Sys2Proof.Machine.execUnitWrite who u w v s
  | .transportSyn p d => Sys2Proof.Machine.execTransportSyn p d s
  | .transportData p d => Sys2Proof.Machine.execTransportData p d s
  | .transportAck p d => Sys2Proof.Machine.execTransportAck p d s
  | .transportNak p d => Sys2Proof.Machine.execTransportNak p d s
  | .transportTimeout p dev => Sys2Proof.Machine.execTransportTimeout p dev s
  | .icmpv6EchoRequest p dst src payload => Sys2Proof.Machine.execIcmpv6EchoRequest p dst src payload s
  | .neighbourSolicitation p target src => Sys2Proof.Machine.execNeighbourSolicitation p target src s
  | .redFailFirstRead who => Sys2Proof.Machine.execRedFailFirstRead who s
  | .pwrCapWrite who v => Sys2Proof.Machine.execPwrCapWrite who v s
  | .meterSample rawV rawI sinceNs faultV faultI => Sys2Proof.Machine.execMeterSample rawV rawI sinceNs faultV faultI s
  | .capUnmet => Sys2Proof.Machine.execCapUnmet s
  | .droop fabric det => Sys2Proof.Machine.execDroop fabric det s
  | .fastTrip => Sys2Proof.Machine.execFastTrip s
  | .vinApply => Sys2Proof.Machine.execVinApply s
  | .inputRange milliV => Sys2Proof.Machine.execInputRange milliV s
  | .inputUv milliV => Sys2Proof.Machine.execInputUv milliV s
  | .vinLoss => Sys2Proof.Machine.execVinLoss s
  | .overVoltage => Sys2Proof.Machine.execOverVoltage s
  | .overCurrent => Sys2Proof.Machine.execOverCurrent s
  | .judgeWindow c count => Sys2Proof.Machine.execJudgeWindow c count s
  | .refFail => Sys2Proof.Machine.execRefFail s
  | .clocksStable => Sys2Proof.Machine.execClocksStable s
  | .dieTempRead readings => Sys2Proof.Machine.execDieTempRead readings s
  | .inletRead inlet outlet => Sys2Proof.Machine.execInletRead inlet outlet s
  | .cobblerEvent => Sys2Proof.Machine.execCobblerEvent s
  | .coalesceExpire key => Sys2Proof.Machine.execCoalesceExpire key s
  | .hbmPllGrace n => Sys2Proof.Machine.execHbmPllGrace n s
  | .refGraceExpire => Sys2Proof.Machine.execRefGraceExpire s
  | .tileCompare cycles status result arr3 status3 third => Sys2Proof.Machine.execTileCompare cycles status result arr3 status3 third s
  | .captureRelease who v => Sys2Proof.Machine.execCaptureRelease who v s
  | .tileFailFirstRead who => Sys2Proof.Machine.execTileFailFirstRead who s
  | .testDue e q pack test => Sys2Proof.Machine.execTestDue e q pack test s
  | .testDeadline e q pack test => Sys2Proof.Machine.execTestDeadline e q pack test s
  | .testResult e q pack test hash status => Sys2Proof.Machine.execTestResult e q pack test hash status s
  | .testFailFirstRead who => Sys2Proof.Machine.execTestFailFirstRead who s
  | .operatingMinute => Sys2Proof.Machine.execOperatingMinute s
  | .suspectCleared block unit => Sys2Proof.Machine.execSuspectCleared block unit s
  | .mapoutReq who v => Sys2Proof.Machine.execMapoutReq who v s
  | .mapoutDone => Sys2Proof.Machine.execMapoutDone s
  | .healthTimeout group => Sys2Proof.Machine.execHealthTimeout group s
  | .kick who v => Sys2Proof.Machine.execKick who v s
  | .watchdog => Sys2Proof.Machine.execWatchdog s
  | .lockstep => Sys2Proof.Machine.execLockstep s
  | .rail r milliV => Sys2Proof.Machine.execRail r milliV s
  | .policy who v => Sys2Proof.Machine.execPolicy who v s
  | .coldReset lowNs => Sys2Proof.Machine.execColdReset lowNs s
  | .resetRelease id0 id1 id2 shaOk rsaOk reads => Sys2Proof.Machine.execResetRelease id0 id1 id2 shaOk rsaOk reads s
  | .cobblerRelease readA readB => Sys2Proof.Machine.execCobblerRelease readA readB s
  | .upperRelease readsA readsB entry copied => Sys2Proof.Machine.execUpperRelease readsA readsB entry copied s
  | .lastHealthTimeout => Sys2Proof.Machine.execLastHealthTimeout s
  | .upperOk who v => Sys2Proof.Machine.execUpperOk who v s
  | .coreRun who v => Sys2Proof.Machine.execCoreRun who v s
  | .takeOwnership e => Sys2Proof.Machine.execTakeOwnership e s
  | .releaseOwnership e => Sys2Proof.Machine.execReleaseOwnership e s
  | .vendorRelease e => Sys2Proof.Machine.execVendorRelease e s
  | .installLinkKey e => Sys2Proof.Machine.execInstallLinkKey e s
  | .advanceSvn e => Sys2Proof.Machine.execAdvanceSvn e s
  | .setCeiling e => Sys2Proof.Machine.execSetCeiling e s
  | .recalMeter e => Sys2Proof.Machine.execRecalMeter e s
  | .replaceVt e => Sys2Proof.Machine.execReplaceVt e s
  | .fwSwitch e => Sys2Proof.Machine.execFwSwitch e s
  | .updateLast e => Sys2Proof.Machine.execUpdateLast e s
  | .mapout e => Sys2Proof.Machine.execMapout e s
  | .undoMapout e => Sys2Proof.Machine.execUndoMapout e s
  | .warmRestart e => Sys2Proof.Machine.execWarmRestart e s
  | .failQuiet e => Sys2Proof.Machine.execFailQuiet e s
  | .setTime e => Sys2Proof.Machine.execSetTime e s
  | .compactionDone => Sys2Proof.Machine.execCompactionDone s
  | .reqOpen who slot v => Sys2Proof.Machine.execReqOpen who slot v s
  | .reqClose who slot v => Sys2Proof.Machine.execReqClose who slot v s
  | .firkinSign => Sys2Proof.Machine.execFirkinSign s
  | .getVersion src req => Sys2Proof.Machine.execGetVersion src req s
  | .getCapabilities src req => Sys2Proof.Machine.execGetCapabilities src req s
  | .negotiateAlgorithms src req => Sys2Proof.Machine.execNegotiateAlgorithms src req s
  | .getDigests src req => Sys2Proof.Machine.execGetDigests src req s
  | .getCertificate src req => Sys2Proof.Machine.execGetCertificate src req s
  | .challenge src req => Sys2Proof.Machine.execChallenge src req s
  | .getMeasurements src req => Sys2Proof.Machine.execGetMeasurements src req s
  | .managementFragment f => Sys2Proof.Machine.execManagementFragment f s
  | .reassemblyTimeout chan => Sys2Proof.Machine.execReassemblyTimeout chan s
  | .mgtIdent port msgId => Sys2Proof.Machine.execMgtIdent port msgId s
  | .mgtLog port msgId first count => Sys2Proof.Machine.execMgtLog port msgId first count s
  | .mgtFirkin port msgId first count => Sys2Proof.Machine.execMgtFirkin port msgId first count s
  | .upperFrame port bytes => Sys2Proof.Machine.execUpperFrame port bytes s
  | .sidebandShort pin => Sys2Proof.Machine.execSidebandShort pin s
  | .rearm who v => Sys2Proof.Machine.execRearm who v s
  | .smbIdent => Sys2Proof.Machine.execSmbIdent s
  | .smbPhase => Sys2Proof.Machine.execSmbPhase s
  | .smbFq => Sys2Proof.Machine.execSmbFq s
  | .smbVin => Sys2Proof.Machine.execSmbVin s
  | .smbIin => Sys2Proof.Machine.execSmbIin s
  | .smbPin => Sys2Proof.Machine.execSmbPin s
  | .smbTInlet => Sys2Proof.Machine.execSmbTInlet s
  | .smbTOutlet => Sys2Proof.Machine.execSmbTOutlet s
  | .smbTDie => Sys2Proof.Machine.execSmbTDie s
  | .smbTHbm => Sys2Proof.Machine.execSmbTHbm s
  | .smbAlerts => Sys2Proof.Machine.execSmbAlerts s
  | .smbSlot => Sys2Proof.Machine.execSmbSlot s
  | .trainingTimeout p => Sys2Proof.Machine.execTrainingTimeout p s
  | .idleFrame p f => Sys2Proof.Machine.execIdleFrame p f s
  | .transportAckTimer p dev => Sys2Proof.Machine.execTransportAckTimer p dev s
  | .managementLinkChange port up fec => Sys2Proof.Machine.execManagementLinkChange port up fec s
  | .refStartFail => Sys2Proof.Machine.execRefStartFail s
  | .awlPackLoad w0 w1 w2 tests lists sign => Sys2Proof.Machine.execAwlPackLoad w0 w1 w2 tests lists sign s
  | .droopRelease fabric => Sys2Proof.Machine.execDroopRelease fabric s
  | .railSettled pllSettled => Sys2Proof.Machine.execRailSettled pllSettled s

end Sys2Proof.Machine
end

