-- ==== Sys2Proof/Safety.lean ====
section
/-! DEFINITION. What the claims about runs are stated in: the parts of the state, what a change may touch, the invariant of
the state, and running on without a stop. -/

namespace Sys2Proof.Machine

/-- The parts of the state, one for each of its fields. -/
inductive Part where
  | pending | resp | out | regs | cnt | mem | poison | epochs | blk | queues | pools | tasks | nextTask | groups
  | prov | drain | eng | tck | crm | hbm | lpc | ldl | rel | arr | act | tables | layers | skm | lnk | keys | pwr
  | clk | mtr | mgt | sec | sys | free | ecc | ls | upset | seedBad | rngBlocks | cross | cw | actJob
  deriving DecidableEq, Repr

/-- The part holds in `t` what it holds in `s`. -/
abbrev Part.same (p : Part) (s t : State) : Prop :=
  match p with
  | .pending => t.pending = s.pending
  | .resp => t.resp = s.resp
  | .out => t.out = s.out
  | .regs => t.regs = s.regs
  | .cnt => t.cnt = s.cnt
  | .mem => t.mem = s.mem
  | .poison => t.poison = s.poison
  | .epochs => t.epochs = s.epochs
  | .blk => t.blk = s.blk
  | .queues => t.queues = s.queues
  | .pools => t.pools = s.pools
  | .tasks => t.tasks = s.tasks
  | .nextTask => t.nextTask = s.nextTask
  | .groups => t.groups = s.groups
  | .prov => t.prov = s.prov
  | .drain => t.drain = s.drain
  | .eng => t.eng = s.eng
  | .tck => t.tck = s.tck
  | .crm => t.crm = s.crm
  | .hbm => t.hbm = s.hbm
  | .lpc => t.lpc = s.lpc
  | .ldl => t.ldl = s.ldl
  | .rel => t.rel = s.rel
  | .arr => t.arr = s.arr
  | .act => t.act = s.act
  | .tables => t.tables = s.tables
  | .layers => t.layers = s.layers
  | .skm => t.skm = s.skm
  | .lnk => t.lnk = s.lnk
  | .keys => t.keys = s.keys
  | .pwr => t.pwr = s.pwr
  | .clk => t.clk = s.clk
  | .mtr => t.mtr = s.mtr
  | .mgt => t.mgt = s.mgt
  | .sec => t.sec = s.sec
  | .sys => t.sys = s.sys
  | .free => t.free = s.free
  | .ecc => t.ecc = s.ecc
  | .ls => t.ls = s.ls
  | .upset => t.upset = s.upset
  | .seedBad => t.seedBad = s.seedBad
  | .rngBlocks => t.rngBlocks = s.rngBlocks
  | .cross => t.cross = s.cross
  | .cw => t.cw = s.cw
  | .actJob => t.actJob = s.actJob

/-- Between `s` and `t` only the listed parts differ. -/
def State.onlyChanges (ps : List Part) (s t : State) : Prop := ∀ p, p ∉ ps → p.same s t

/-- The invariant every step keeps: memory in its canonical form. -/
def State.Inv (s : State) : Prop := Memory.wf s.mem = true

/-- A write of `v` to the register at `off` of `page` meets none of the obstacles of R7 and R25 to R33: the page is
assigned, the initiator may reach it, its block is not in soft reset and not mapped out, the register exists, and no
reserved bit of it is written. -/
def State.admits (s : State) (who : Initiator) (page off : Nat) (v : Word) : Bool :=
  match pageOwner page, fieldsAt page off with
  | some (b, _, _), some r =>
    (decide (off < 0x200) || (mayReach who b && !(getBlk s page).mappedOut)) && !(getBlk s page).rstBusy &&
      (v &&& ~~~ r.defined == 0)
  | _, _ => false

/-- The task charged with the cycles of a slice command. -/
def Task.charged (t : Task) (cycles : Nat) : Task := { t with run := t.run + cycles }

/-- What a slice command of `k` granules counts before its first granule, for a slice that ends at `stop`; what the granules
access is activity of the task's job. -/
def State.charged (s : State) (t : Task) (stop k cycles : Nat) : State :=
  chargeSlice t stop k cycles { s with actJob := t.job }

/-- The task's slice is the one its engine runs: admitted, begun, not waiting, not at its end, and its engine's checks find no
error as `k` granules of it take `cycles`. -/
def State.inSlice (s : State) (t : Task) (a : Adm) (k cycles : Nat) : Prop :=
  findTask s t.id = some t ∧ (getEng s t.eng).queue.head? = some a ∧ a.task = t.id ∧ (getEng s t.eng).started = true ∧
  (getEng s t.eng).draining = false ∧ t.phase = .dispatched ∧ t.status = 0 ∧ t.refetch = none ∧ t.parked = false ∧
  t.nacked = none ∧ running s = true ∧ ladleHeld s t = false ∧ t.pos < a.stop ∧
  engFault (t.charged cycles) (s.charged t a.stop k cycles) = none

/-- A step from the state goes on. -/
def State.runsOn (s : State) : Prop := ∃ t, step s = .next t

end Sys2Proof.Machine
end

