-- ==== Sys2Proof/Certificates/Slice0/Obligations.lean ====
section
/-! DEFINITION. The statements for the provers, from the spec's numbered rules: what every command does where it does its
own work, what it leaves as it was, and what holds in every state that a step reaches. -/

open Sys2Proof Sys2Proof.Machine

/-! ### The block as a whole -/

/-- A step with a command at the front of the queue is that command's effect on the state with the queue's rest. With no
command waiting the block idles (the model's choice, log 2). -/
def Obligations.StepRunsTheFrontCommand : Prop :=
  (∀ (s : State) (c : Instr) (rest : List Instr), s.pending = c :: rest → step s = exec c { s with pending := rest }) ∧
  (∀ s : State, s.pending = [] → step s = .next s)

/-- Every command of the table answers a next state in every state, but a register write of the Last to the area of SEC or
NVS whose layout the spec leaves open (R397); and no command's effect touches the queue of waiting commands: only the step
takes them off. -/
def Obligations.CommandsLeaveTheQueue : Prop :=
  ∀ (c : Instr) (s : State),
    (∀ who addr size v, c = .registerWrite who addr size v → lastOwnArea s who addr size = false) →
    ∃ t, exec c s = .next t ∧ t.pending = s.pending

/-- Every step, whatever command it runs and in whatever state, keeps memory in its canonical form: addresses rising, and
no listed byte that reads as an unlisted one does. -/
def Obligations.EveryStepKeepsMemoryCanonical : Prop :=
  ∀ s t : State, s.Inv → step s = .next t → t.Inv

/-- The state after reset has memory in its canonical form. What reset leaves: no command, task, packet or output; memory
unlisted; on every page of every instance EN of the blocks of Table 1.9 and of no other; DEV_ID not valid; TICK_CFG, TICK_SRC,
SWAP_CTL, WELT_CFG and PWR_CAP at the values of their tables; every port DISABLED, with no frame or packet in it, nothing
tracked, no window cached and no link key; command queue c's Q_CFG with its BASE at 1024 c entries. -/
def Obligations.ResetLeavesTableValues : Prop :=
  (State.reset.Inv) ∧
  (State.reset.pending = [] ∧ State.reset.tasks = [] ∧ State.reset.out = [] ∧ State.reset.mem = {} ∧
  getReg State.reset 0 0x200 = 0 ∧
  (∀ (p : Fin 4096) (b : Block) (n sub : Nat), pageOwner p.val = some (b, n, sub) →
    getReg State.reset p.val 0x10 = if b ∈ [Block.sys, .tck, .pwr, .clk, .sec, .nvs, .mgt, .cbl] then 1 else 0) ∧
  getReg State.reset tckPage 0x200 = 0x280010 ∧ getReg State.reset tckPage 0x218 = 0x80A0300 ∧
  getReg State.reset pwr0 0x200 = 0x12C ∧
  (∀ n : Fin 4, getReg State.reset (ap n.val 0) 0x208 = 0xF0 ∧ getReg State.reset (ap n.val 2) 0x200 = 0x1000) ∧
  (∀ p : Fin 16, let x := getPort State.reset p.val
    x.state = 0 ∧ x.replay = [] ∧ x.tx = [] ∧ x.txLow = [] ∧ x.rx = [] ∧ x.req = [] ∧ x.resp = [] ∧ x.held = []) ∧
  State.reset.lnk.track = [] ∧ State.reset.lnk.cache = [] ∧ State.reset.lnk.conns = [] ∧ State.reset.keys = [] ∧
  (∀ c : Fin 256, getReg State.reset (qPage c.val) (qOff c.val 0) = word (0xA01 + c.val * 0x4000000)))

/-! ### Register accesses -/

/-- The address of a register of the device's own control window (R18, R24). -/
def ctrlAddr (s : State) (page off : Nat) : Nat := 0x200000000000 + (2 ^ 50 * fld (devId s) 13 0 + (65536 * page + off))

/-- A write to a register of the common head that has no condition of its own: ERR_STS and INT_STS clear the bits written
as 1, ERR_MASK, INT_EN and INT_ROUTE store their bits (Tables 1.11 to 1.13). Nothing else changes. -/
def Obligations.HeadRegisterWriteTakesItsBits : Prop :=
  ∀ (s : State) (who : Initiator) (page off : Nat) (v : Word) (r : RegRow),
    off ∈ [0x20, 0x28, 0x38, 0x40, 0x48] → page < 4096 → fieldsAt page off = some r → s.admits who page off v = true →
    ∃ t, exec (.registerWrite who (ctrlAddr s page off) 8 v) s = .next t ∧
      getReg t page off =
        ((getReg s page off &&& ~~~ (word r.rw)) ||| (v &&& word r.rw)) &&& ~~~ (v &&& word r.w1c) ∧
      (∀ page' off', regKey page' off' ≠ regKey page off → getReg t page' off' = getReg s page' off') ∧
      State.onlyChanges [.regs] s t

/-- The error bit `i` of a page is raised by an access at `off`: ERR_STS holds it; unmasked, ERR_FIRST captures it unless
it holds an earlier one, and INT_STS.ERR is set (R28). -/
def raisedAt (s t : State) (page i off : Nat) : Prop :=
  bit (getReg t page 0x20) i = true ∧
  (bit (getReg s page 0x28) i = true → getReg t page 0x30 = getReg s page 0x30 ∧ getReg t page 0x38 = getReg s page 0x38) ∧
  (bit (getReg s page 0x28) i = false → bit (getReg t page 0x38) 0 = true ∧
    getReg t page 0x30 = if bit (getReg s page 0x30) 8 then getReg s page 0x30
      else word (i + 256 + off * 2 ^ 16 + tickLo s * 2 ^ 32))

/-- An access that is not an aligned 64-bit one is not performed and sets ACC_FORM; a write where no register is defined
sets NO_REG; a write to an address that is another device's, or that is mapped nowhere, gives its initiator an access
fault (R22). An access to an unassigned page, by any initiator, sets NO_PAGE of SYS page 0, and a read of it answers ones.
Nothing but the errors' registers, an interrupt and the read's answer changes. A write by the Last to the configuration or
table area of SEC or NVS stops: the spec leaves that layout to the Last (R397). -/
def Obligations.RefusedAccessesAreReported : Prop :=
  (∀ (s : State) (who : Initiator) (page off size : Nat) (v : Word), page < 4096 → off < 65536 →
    (pageOwner page).isSome = true → size ≠ 8 ∨ off % 8 ≠ 0 →
    ∃ t, exec (.registerWrite who (ctrlAddr s page off) size v) s = .next t ∧ raisedAt s t page 0 off ∧
      State.onlyChanges [.regs, .out, .sys] s t) ∧
  (∀ (s : State) (who : Initiator) (page off : Nat) (v : Word) (b : Block) (n m : Nat), page < 4096 → off < 65536 →
    off % 8 = 0 → pageOwner page = some (b, n, m) → off < 0x200 ∨ mayReach who b = true →
    lastOwnArea s who (ctrlAddr s page off) 8 = false → fieldsAt page off = none → (getBlk s page).rstBusy = false →
    ∃ t, exec (.registerWrite who (ctrlAddr s page off) 8 v) s = .next t ∧ raisedAt s t page 2 off ∧
      State.onlyChanges [.regs, .out, .sys] s t) ∧
  (∀ (s : State) (who : Initiator) (a size : Nat) (v : Word), pageAt s a = none → mayAddress s who a = false →
    ∃ t, exec (.registerWrite who a size v) s = .next t ∧ t.out = s.out ++ [.accessFault who a true] ∧
      State.onlyChanges [.out] s t) ∧
  (∀ (s : State) (who : Initiator) (page : Fin 4096) (wr : Bool) (v : Word), pageOwner page.val = none →
    ∃ t, exec (.unassignedPageAccess who page wr v) s = .next t ∧ raisedAt s t 0 8 0 ∧
      (wr = false → t.resp = BitVec.allOnes 64) ∧ (wr = true → t.resp = s.resp) ∧
      State.onlyChanges [.resp, .regs, .out, .sys] s t) ∧
  (∀ (s : State) (page off : Nat) (v : Word) (n sub : Nat), page < 4096 → 0x200 ≤ off → off < 65536 → off % 8 = 0 →
    (pageOwner page = some (.sec, n, sub) ∨ pageOwner page = some (.nvs, n, sub)) →
    exec (.registerWrite .last (ctrlAddr s page off) 8 v) s = .refused .secLayoutNotGiven)

/-- The commands that read a first-error register, and the register each reads. -/
def firstRead (who : Initiator) : List (Instr × Nat × Nat) :=
  [(.noprogFirstRead who, tckPage, 0x258), (.cqDropFirstRead who, tck1Page, 0x220), (.alarmFirstRead who, chnPage, 0x218),
   (.redFailFirstRead who, stnPage, 0x328), (.tileFailFirstRead who, stnPage, 0x238), (.testFailFirstRead who, tstPage, 0x228)]

/-- A read of a register that a read clears answers what it held, leaves it zero, and changes nothing else; ERR_FIRST of
every assigned page is read so (R28), and the six registers of the blocks are, outside a soft reset. -/
def Obligations.FirstReadsAnswerAndClear : Prop :=
  (∀ (s : State) (who : Initiator) (page : Fin 4096), (pageOwner page.val).isSome = true →
    ∃ t, exec (.errFirstRead who page) s = .next t ∧ t.resp = getReg s page.val 0x30 ∧ getReg t page.val 0x30 = 0 ∧
      (∀ p o, regKey p o ≠ regKey page.val 0x30 → getReg t p o = getReg s p o) ∧ State.onlyChanges [.resp, .regs] s t) ∧
  (∀ (s : State) (who : Initiator) (x : Instr × Nat × Nat), x ∈ firstRead who → (getBlk s x.2.1).rstBusy = false →
    ∃ t, exec x.1 s = .next t ∧ t.resp = getReg s x.2.1 x.2.2 ∧ getReg t x.2.1 x.2.2 = 0 ∧
      (∀ p o, regKey p o ≠ regKey x.2.1 x.2.2 → getReg t p o = getReg s p o) ∧ State.onlyChanges [.resp, .regs] s t)

/-- DEV_ID takes a write while VALID is 0 and is locked once VALID is 1 (R19); a write of PERF_SEL with CLEAR zeroes the
page's counters and stores the selection (Table 1.14). -/
def Obligations.DevIdLocksAndPerfClearZeroes : Prop :=
  (∀ (s : State) (who : Initiator) (v : Word), s.admits who 0 0x200 v = true →
    ∃ t, exec (.devIdWrite who v) s = .next t ∧
      getReg t 0 0x200 = (if bit (getReg s 0 0x200) 63 then getReg s 0 0x200 else v) ∧
      (∀ p o, regKey p o ≠ regKey 0 0x200 → getReg t p o = getReg s p o) ∧ State.onlyChanges [.regs] s t) ∧
  (∀ (s : State) (who : Initiator) (page : Fin 4096) (v : Word), s.admits who page.val 0x50 (v ||| 0x200) = true →
    ∃ t, exec (.perfClear who page v) s = .next t ∧ (∀ i < 32, mget t.cnt (page.val * 32 + i) 0 = 0) ∧
      (∀ k, k / 32 ≠ page.val → mget t.cnt k 0 = mget s.cnt k 0) ∧
      fld (getReg t page.val 0x50) 7 0 = fld v 7 0 ∧ bit (getReg t page.val 0x50) 8 = bit v 8 ∧ State.onlyChanges [.regs, .cnt] s t)

/-- A soft reset meets nothing that sets an error bit anew: no register push held at a command queue, no slice in the middle of
its copy, and a stored oscillator trim inside its range (R194, R227, R333). -/
def resetsQuietly (s : State) : Block → Prop
  | .tck => ∀ c < 256, (getQueue s c).held = []
  | .crm => s.crm.copying = []
  | .clk => s.pwr.vtTrim.natAbs < 32767
  | _ => True

/-- The registers that a soft reset keeps: ERR_FIRST of every page (R31), of SYS all but the common head (R423), of TCK those
of R425. -/
def keptByReset (b : Block) (sub off : Nat) : Prop :=
  off = 0x30 ∨ (b = .sys ∧ 0x200 ≤ off) ∨ (b = .tck ∧ sub = 0 ∧ off ∈ [0x200, 0x208, 0x218])

/-- What stands behind the registers of instance `n` after its soft reset: as after reset, but for what R423 and R425 keep. What
the model keeps besides (the pseudo-channels in use and the ceiling among it) is its choice (log 70). -/
def resetReturns (s t : State) (n : Nat) : Block → Prop
  | .sys => State.onlyChanges [.regs, .cnt, .blk, .tck] s t ∧ t.tck = { s.tck with snap := t.tck.snap }
  | .tck => t.tck.num = s.tck.num ∧ t.tck.staged = s.tck.staged ∧ t.tck.align = s.tck.align ∧ t.tck.slots = [] ∧
      ∀ q, 256 ≤ q → getQueue t q = getQueue s q
  | .arr => ∀ q, getUnit t n q = {}
  | .ve => ∀ k, k / 8 = n → mfind t.tables k = none
  | .chn => t.layers = []
  | .skm => t.skm = {}
  | .ldl => getLdl t n = {}
  | .crm => n = 0 → t.crm.normal = false ∧ (s.crm.normal = true → t.crm.sp = 0 ∧ t.crm.sets = [])
  | .hbm => getHbm t n = { outPcs := (getHbm s n).outPcs }
  | .lnk => getPort t n = {}
  | .pwr => t.pwr = { ceil := s.pwr.ceil, vtTrim := s.pwr.vtTrim }
  | .stn => t.rel.capture = none ∧ t.rel.capHeld = false ∧ t.rel.checking = false
  | _ => True

/-- BLK_CTL: a write without SRST stores EN and CG_OVR; a block that is not acknowledged while its PLL is not stable stays so
(R331). With SRST it starts a reset while the block has no work: RST_BUSY is 1, every register of every page of the instance
reads its reset value and every counter zero, but for those that R31, R423 and R425 keep, what stands behind the registers
returns with them, and no register of another block, no pool and no link key changes; while the block works the reset is
refused with BUSY (R31). SOFT_RESET_DONE ends RST_BUSY. -/
def Obligations.BlockControlEnablesAndResets : Prop :=
  (∀ (s : State) (who : Initiator) (page : Fin 4096) (v : Word), s.admits who page.val 0x10 (setBit v 1 false) = true →
    ∃ t, exec (.blockEnable who page v) s = .next t ∧ bit (getReg t page.val 0x10) 0 = bit v 0 ∧
      bit (getReg t page.val 0x10) 2 = bit v 2 ∧
      (∀ p, getBlk t p = if enAck s page.val = false ∧ pllGood s page.val = false ∧ firstPage p = firstPage page.val
        then { getBlk s p with ready := false } else getBlk s p) ∧ State.onlyChanges [.regs, .blk] s t) ∧
  (∀ (s : State) (who : Initiator) (page : Fin 4096) (v : Word) (b : Block) (n m : Nat),
    s.admits who page.val 0x10 (setBit v 1 true) = true → pageOwner page.val = some (b, n, m) → work s page.val = false →
    resetsQuietly s b →
    ∃ t, exec (.softReset who page v) s = .next t ∧ (getBlk t page.val).rstBusy = true ∧
      (∀ p off sub, p < 4096 → off < 65536 → off % 8 = 0 → pageOwner p = some (b, n, sub) →
        (keptByReset b sub off → getReg t p off = getReg s p off) ∧
        (¬ keptByReset b sub off → getReg t p off = resetOf p off) ∧ ∀ i < 32, mget t.cnt (p * 32 + i) 0 = 0) ∧
      resetReturns s t n b ∧ t.pools = s.pools ∧ t.keys = s.keys ∧
      (b ≠ .arr → t.tasks = s.tasks ∧ ∀ p off, p < 4096 → off < 65536 → (∀ sub, pageOwner p ≠ some (b, n, sub)) →
        getReg t p off = getReg s p off)) ∧
  (∀ (s : State) (who : Initiator) (page : Fin 4096) (v : Word), s.admits who page.val 0x10 (setBit v 1 true) = true →
    work s page.val = true →
    ∃ t, exec (.softReset who page v) s = .next t ∧ bit (getReg t page.val 0x20) 4 = true ∧
      (∀ p, getBlk t p = getBlk s p) ∧ State.onlyChanges [.regs, .out, .sys, .blk] s t) ∧
  (∀ (s : State) (page : Fin 4096), (getBlk s page.val).rstBusy = true →
    ∃ t, exec (.softResetDone page) s = .next t ∧ (getBlk t page.val).rstBusy = false ∧
      (∀ p ∈ (getBlk s page.val).busyPend, bit (getReg t p.1 0x20) 4 = true) ∧
      State.onlyChanges [.regs, .out, .sys, .blk] s t)

/-! ### Queues and pools -/

/-- Both copies of a queue's pointers agree (R191). -/
abbrev pointersAgree (s : State) (q : Nat) : Prop :=
  (getQueue s q).wr = (getQueue s q).wr2 ∧ (getQueue s q).rd = (getQueue s q).rd2

/-- No earlier push of the initiator is held at a queue of the page, so that its next access there is performed (R34). -/
def pageFree (s : State) (who : Initiator) (q : Nat) : Prop :=
  ∀ c, c < 1280 → qPage c = qPage q → ∀ x ∈ (getQueue s c).held, x.1 ≠ who

/-- A push to an enabled queue that has room, by either of its registers or by completion of the held push at its front,
puts the item's bits at the back; no other queue changes (R190, R194). A push that finds the queue full is held by Q_PUSH
and dropped with NB_DROP by Q_PUSH_NB; to a disabled queue, and in fail-quiet to a command queue, both drop it with PUSH_DROP
(R194, R197, R363; the error of the latter is the model's, log 145). Each is the initiator's next access to the page: a push
of its that is held there comes first (R34). -/
def Obligations.PushesTakeRoomOrAreHeld : Prop :=
  (∀ (s : State) (who : Initiator) (q : Fin 1280) (v : Word),
    s.admits who (qPage q.val) (qOff q.val 0x20) v = true → pageFree s who q.val → pointersAgree s q.val → qEnabled s q.val = true →
    qQuiet s q.val = false →
    qFull s q.val = false →
    ∃ t, exec (.qPush who q v) s = .next t ∧ (getQueue t q.val).items = (getQueue s q.val).items ++ [itemBits q.val v] ∧
      (getQueue t q.val).held = (getQueue s q.val).held ∧ (∀ p, p ≠ q.val → getQueue t p = getQueue s p) ∧
      State.onlyChanges [.queues, .regs, .out, .sys] s t) ∧
  (∀ (s : State) (who : Initiator) (q : Fin 1280) (v : Word),
    s.admits who (qPage q.val) (qOff q.val 0x28) v = true → pageFree s who q.val → pointersAgree s q.val → qEnabled s q.val = true →
    qQuiet s q.val = false →
    qFull s q.val = false →
    ∃ t, exec (.qPushNb who q v) s = .next t ∧ (getQueue t q.val).items = (getQueue s q.val).items ++ [itemBits q.val v] ∧
      (getQueue t q.val).held = (getQueue s q.val).held ∧ (∀ p, p ≠ q.val → getQueue t p = getQueue s p) ∧
      State.onlyChanges [.queues, .regs, .out, .sys] s t) ∧
  (∀ (s : State) (q : Fin 1280) (who : Initiator) (v : Word) (rest : List (Initiator × Word)),
    (∀ c, c < 1280 → c ≠ q.val → qPage c = qPage q.val → ∀ x ∈ (getQueue s c).held, x.1 ≠ who) → pointersAgree s q.val →
    (getQueue s q.val).held = (who, v) :: rest → qFull s q.val = false → qQuiet s q.val = false →
    ∃ t, exec (.heldPushComplete q) s = .next t ∧ (getQueue t q.val).items = (getQueue s q.val).items ++ [v] ∧
      (getQueue t q.val).held = rest ∧ (∀ p, p ≠ q.val → getQueue t p = getQueue s p) ∧
      State.onlyChanges [.queues, .regs, .out, .sys] s t) ∧
  (∀ (s : State) (who : Initiator) (q : Fin 1280) (v : Word),
    s.admits who (qPage q.val) (qOff q.val 0x20) v = true → pageFree s who q.val → pointersAgree s q.val → qEnabled s q.val = true →
    qQuiet s q.val = false →
    qFull s q.val = true →
    ∃ t, exec (.qPush who q v) s = .next t ∧ (getQueue t q.val).items = (getQueue s q.val).items ∧
      (getQueue t q.val).held = (getQueue s q.val).held ++ [(who, itemBits q.val v)] ∧ State.onlyChanges [.queues] s t) ∧
  (∀ (s : State) (who : Initiator) (q : Fin 1280) (v : Word),
    s.admits who (qPage q.val) (qOff q.val 0x28) v = true → pageFree s who q.val → pointersAgree s q.val → qEnabled s q.val = true →
    qQuiet s q.val = false →
    qFull s q.val = true →
    ∃ t, exec (.qPushNb who q v) s = .next t ∧ bit (getReg t (qPage q.val) (qOff q.val 0x38)) 2 = true ∧
      State.onlyChanges [.regs] s t) ∧
  (∀ (s : State) (who : Initiator) (q : Fin 1280) (v : Word),
    s.admits who (qPage q.val) (qOff q.val 0x20) v = true → s.admits who (qPage q.val) (qOff q.val 0x28) v = true →
    pageFree s who q.val → pointersAgree s q.val → qEnabled s q.val = false ∨ qQuiet s q.val = true →
    ∃ t, exec (.qPush who q v) s = .next t ∧ exec (.qPushNb who q v) s = .next t ∧
      bit (getReg t (qPage q.val) (qOff q.val 0x38)) 1 = true ∧ State.onlyChanges [.regs] s t) ∧
  (∀ (s : State) (q : Fin 1280), pointersAgree s q.val → qQuiet s q.val = true → exec (.heldPushComplete q) s = .next s)

/-- A register pop takes the front item of a lace queue and answers it with bit 63 set; from an empty queue, and from a
command queue, it answers zero and changes nothing else (R194). A flush of a queue without reservations and without a
bound engine empties it. A lace queue at rest takes the enable, depth and base of a Q_CFG write that fits (R196). -/
def Obligations.PopsFlushesAndQueueConfiguration : Prop :=
  (∀ (s : State) (who : Initiator) (q : Fin 1280) (v : Word) (rest : List Word), 256 ≤ q.val →
    (getBlk s (qPage q.val)).rstBusy = false → pointersAgree s q.val → (getQueue s q.val).items = v :: rest →
    ∃ t, exec (.qPop who q) s = .next t ∧ t.resp = (v &&& mask 31 0) ||| word (2 ^ 63) ∧
      (getQueue t q.val).items = rest ∧ (∀ p, p ≠ q.val → getQueue t p = getQueue s p) ∧
      State.onlyChanges [.resp, .queues] s t) ∧
  (∀ (s : State) (who : Initiator) (q : Fin 1280), pointersAgree s q.val → (getQueue s q.val).items = [] →
    ∃ t, exec (.qPop who q) s = .next t ∧ t.resp = 0 ∧ State.onlyChanges [.resp] s t) ∧
  (∀ (s : State) (who : Initiator) (q : Fin 1280), q.val < 256 →
    ∃ t, exec (.qPop who q) s = .next t ∧ t.resp = 0 ∧ State.onlyChanges [.resp] s t) ∧
  (∀ (s : State) (who : Initiator) (q : Fin 1280), s.admits who (qPage q.val) (qOff q.val 0) 2 = true →
    pointersAgree s q.val → (getQueue s q.val).rsvd = 0 → (q.val < 256 → bit (cqBind s q.val) 8 = false) →
    ∃ t, exec (.queueFlush who q) s = .next t ∧ (getQueue t q.val).items = [] ∧ (getQueue t q.val).held = [] ∧
      (∀ p, p ≠ q.val → getQueue t p = getQueue s p) ∧ State.onlyChanges [.queues, .regs] s t) ∧
  (∀ (s : State) (who : Initiator) (lace : Fin 1024) (v : Word),
    s.admits who (qPage (256 + lace.val)) (qOff (256 + lace.val) 0) v = true → bit v 1 = false → bit v 0 = true →
    pointersAgree s (256 + lace.val) → (getQueue s (256 + lace.val)).items = [] → (getQueue s (256 + lace.val)).rsvd = 0 →
    laceFits s lace.val v = true →
    ∃ t, exec (.qCfgWrite who lace v) s = .next t ∧ qEnabled t (256 + lace.val) = true ∧
      qDepth t (256 + lace.val) = 2 ^ fld v 12 8 ∧
      regFld t (qPage (256 + lace.val)) (qOff (256 + lace.val) 0) 33 16 = fld v 33 16 ∧
      (getQueue t (256 + lace.val)).items = [] ∧ (∀ p, p ≠ 256 + lace.val → getQueue t p = getQueue s p) ∧
      State.onlyChanges [.queues, .regs] s t)

/-- A disabled pool is enabled by a write whose count and size are in range and whose buffers lie in one window, and then
holds that many free buffers; an enabled pool refuses other fields with POOL_CFG (R200). An allocation answers an eyelet
of the pool that names a buffer no one held, and that buffer is then allocated with the eyelet valid; with no buffer
beyond the reserved ones it answers zero and changes nothing else (R52, R184, R201). A release of a valid eyelet frees its
buffer: the eyelet is valid no more and every eyelet of another buffer stays as it was; the release of an eyelet that is
not valid, or of another pool, sets STALE_RELEASE and frees nothing (R52, R201). -/
def Obligations.PoolsHandOutAndTakeBackBuffers : Prop :=
  (∀ (s : State) (who : Initiator) (p : Fin 64) (v : Word), s.admits who poolPage (poolOff p.val 8) v = true →
    poolEn s p.val = false → bit v 19 = true → 1 ≤ fld v 18 0 → fld v 18 0 ≤ 262144 → 1 ≤ fld v 39 20 →
    poolWindow s (poolBase s p.val) (fld v 18 0 * fld v 39 20 * 256) = true →
    ∃ t, exec (.poolCfgWrite who p v) s = .next t ∧ poolEn t p.val = true ∧ poolFree t p.val = fld v 18 0 ∧
      bufSize t p.val = fld v 39 20 * 256 ∧ (∀ e, eyePool e = p.val → eyeValid t e = false) ∧
      (∀ n, n ≠ p.val → getPool t n = getPool s n) ∧ State.onlyChanges [.pools, .regs] s t) ∧
  (∀ (s : State) (who : Initiator) (p : Fin 64) (v : Word), s.admits who poolPage (poolOff p.val 8) v = true →
    poolEn s p.val = true → fld (getReg s poolPage (poolOff p.val 8)) 18 0 ≠ fld v 18 0 →
    ∃ t, exec (.poolCfgWrite who p v) s = .next t ∧ raisedAt s t poolPage 9 (poolOff p.val 8) ∧
      State.onlyChanges [.regs, .out, .sys] s t) ∧
  (∀ (s : State) (who : Initiator) (p : Fin 64), (getBlk s poolPage).rstBusy = false → poolEn s p.val = true →
    poolCount s p.val ≤ 262144 → ((getPool s p.val).alloc.map (·.1)).Nodup →
    (∀ i ∈ (getPool s p.val).alloc.map (·.1), i < poolCount s p.val) → reservedFor s p.val 256 < poolFree s p.val →
    ∃ t e, exec (.poolAlloc who p) s = .next t ∧ t.resp = word (e + 2 ^ 63) ∧ eyePool e = p.val ∧
      eyeIdx e < poolCount s p.val ∧ mfind (getPool s p.val).alloc (eyeIdx e) = none ∧ eyeValid t e = true ∧
      (∀ n, n ≠ p.val → getPool t n = getPool s n) ∧ State.onlyChanges [.resp, .pools, .free] s t) ∧
  (∀ (s : State) (who : Initiator) (p : Fin 64), poolFree s p.val ≤ reservedFor s p.val 256 →
    ∃ t, exec (.poolAlloc who p) s = .next t ∧ t.resp = 0 ∧ State.onlyChanges [.resp] s t) ∧
  (∀ (s : State) (who : Initiator) (p : Fin 64) (v : Word), s.admits who poolPage (poolOff p.val 0x18) v = true →
    eyePool (fld v 31 0) = p.val → eyeValid s (fld v 31 0) = true →
    ∃ t, exec (.poolRelease who p v) s = .next t ∧ eyeValid t (fld v 31 0) = false ∧
      (∀ e, eyePool e ≠ p.val ∨ eyeIdx e ≠ eyeIdx (fld v 31 0) → eyeValid t e = eyeValid s e) ∧
      State.onlyChanges [.pools] s t) ∧
  (∀ (s : State) (who : Initiator) (p : Fin 64) (v : Word), s.admits who poolPage (poolOff p.val 0x18) v = true →
    eyePool (fld v 31 0) ≠ p.val ∨ eyeValid s (fld v 31 0) = false →
    ∃ t, exec (.poolRelease who p v) s = .next t ∧ raisedAt s t poolPage 11 (poolOff p.val 0x18) ∧
      State.onlyChanges [.regs, .out, .sys] s t)

/-! ### Tasks -/

/-- The parts of the state that reading memory through the caches may change: errors corrected on the way, and what is
counted and reported of them (R13, R220, R225, R226). -/
abbrev readParts : List Part := [.out, .regs, .cnt, .poison, .crm, .hbm, .cw, .ls, .rel, .act, .sys, .free]

/-- The parts that writing memory may change besides (R61, R211, R212, R214, R225). -/
abbrev writeParts : List Part := readParts ++ [.mem, .epochs, .tasks, .prov, .ecc, .ldl]

/-- Acceptance reads the descriptor once and the task joins the device's tasks, in order, with the next number; an item
whose descriptor or record address is not fit is dropped without a record, and CQ_DROP says so (R38, R39). -/
def Obligations.AcceptanceReadsTheDescriptorOnce : Prop :=
  (∀ (s : State) (cq : Fin 256) (v : Word) (rest : List Word), cqServed s cq.val = true → pointersAgree s cq.val →
    (getQueue s cq.val).items = v :: rest → structOk s v.toNat 256 256 = true → needLine s true (lineOf v.toNat) = .ok →
    structOk s (memWord s.mem (v.toNat + 24)).toNat 64 64 = true →
    ∃ t u, exec (.taskAccept cq) s = .next t ∧ t.tasks = s.tasks ++ [u] ∧ u.desc = memWords s.mem v.toNat 32 ∧
      u.id = s.nextTask ∧ u.cq = cq.val ∧ u.phase = .accepted ∧ u.accTick = s.tck.num ∧ t.nextTask = s.nextTask + 1 ∧
      (getQueue t cq.val).items = rest ∧ (∀ q, q ≠ cq.val → getQueue t q = getQueue s q) ∧
      State.onlyChanges (readParts ++ [.queues, .tasks, .nextTask]) s t) ∧
  (∀ (s : State) (cq : Fin 256) (v : Word) (rest : List Word), cqServed s cq.val = true → pointersAgree s cq.val →
    (getQueue s cq.val).items = v :: rest → addrOk v.toNat 256 = false ∨ (∃ a, needLine s true (lineOf v.toNat) = .fault a) →
    ∃ t, exec (.taskAccept cq) s = .next t ∧ t.tasks = s.tasks ∧ (getQueue t cq.val).items = rest ∧
      bit (getReg t tck1Page 0x20) 8 = true ∧
      getReg t tck1Page 0x220 = (if bit (getReg s tck1Page 0x220) 8 then getReg s tck1Page 0x220 else word (cq.val + 256)) ∧
      State.onlyChanges [.queues, .regs, .out, .sys] s t) ∧
  (∀ (s : State) (cq : Fin 256) (v : Word) (rest : List Word), cqServed s cq.val = true → pointersAgree s cq.val →
    (getQueue s cq.val).items = v :: rest → structOk s v.toNat 256 256 = true → needLine s true (lineOf v.toNat) = .ok →
    structOk s (memWord s.mem (v.toNat + 24)).toNat 64 64 = false →
    ∃ t, exec (.taskAccept cq) s = .next t ∧ t.tasks = s.tasks ∧ (getQueue t cq.val).items = rest ∧
      bit (getReg t tck1Page 0x20) 8 = true ∧ State.onlyChanges (readParts ++ [.queues]) s t)

/-- Nothing that R40 makes a task wait for holds this one back, and it passes every check of the indivisible step: the device
runs, its job is open, no fence and no earlier pop is in front of it, its engine takes work, has room and stands in its
mode; what it pops, allocates and reserves is to be had (`t1`, `s1`) and not stale; its descriptors are read (`t3`, `s2`)
and right, as are its extents; its class captures what it needs (`t5`), and its provisional lines fit. `v` is the task
then, in the state `w`. -/
def dispatchPasses (s : State) (u v : Task) (w : State) : Prop :=
  ∃ (t1 : Task) (s1 : State) (t3 : Task) (s2 : State) (t5 : Task),
    u.phase = .waiting ∧ running s = true ∧ jobShut s u = false ∧ fenceHeld s u = false ∧ popHeld s u = false ∧
    takesWork s (engPage u.eng) = true ∧ engRoom s u = true ∧ (u.cls = 1 → classReady s u = true) ∧
    takeRes u s = some (t1, s1) ∧ staleFail s1 { t1 with use := useOf s t1.job t1.gid } = none ∧
    (List.range 8).foldl (fun r i => readTd i r) (.ok { t1 with use := useOf s t1.job t1.gid } s1) = .ok t3 s2 ∧
    needSpans s2 true (dispatchReads s2 t3) = .ok ∧
    (let t4 := if t3.cls = 6 then withGroups s2 t3 else t3
     firstFail [tdFail t4, classTensors s2 t4,
       extentsFail s2 t4 (classWindow t4) (fun i => t4.cls == 5 || (t4.cls == 6 && i == 3)), reserveFail s2 t4] = none ∧
     seedCheck t4 s2 = none ∧ capture s2 { t4 with vis := visOf s2 t4 } = .inr t5) ∧
    specOverflow s2 { t5 with prov := provNeed t5 } = false ∧ specWaits s2 { t5 with prov := provNeed t5 } = false ∧
    classReady s2 { t5 with prov := provNeed t5 } = true ∧
    v = { t5 with prov := provNeed t5 } ∧ w = forJob t5.job (touchReads (clsOf t5.eng) (dispatchReads s2 t5)) s2

/-- The checks of R424 let an accepted task on to wait for dispatch when it passes them all, and end it with the status,
slot and detail of the first that fails, or as ABORTED where an abort has reached it; neither touches memory, queues or
pools. Dispatch is one indivisible step (R40): when the task's turn has come on its engine (R165), nothing holds it back
and it passes the step's checks, it is dispatched with its eyelets, reservations and captured values, and its engine's
round-robin place moves past its queue; a task that cannot be dispatched, or whose turn it is not, keeps everything as it
is. Dispatch writes no memory, takes nothing off the queue of commands, and changes no security state. -/
def Obligations.DispatchChecksAndDispatches : Prop :=
  (∀ (s : State) (u : Task), findTask s u.id = some u → u.phase = .accepted → running s = true → fenceHeld s u = false →
    popHeld s u = false →
    firstFail [headFail u, firstFail ((List.range 8).map (slotFail u)), classParams u] = none → jobShut s u = false →
    ∃ t, exec (.dispatchCheck u.id) s = .next t ∧ findTask t u.id = some { u with phase := .waiting } ∧
      State.onlyChanges [.tasks] s t) ∧
  (∀ (s : State) (u : Task) (f : Fail), findTask s u.id = some u → u.phase = .accepted → u.direct = none →
    running s = true → fenceHeld s u = false → popHeld s u = false → checkFail s u = some f →
    ∃ t w, exec (.dispatchCheck u.id) s = .next t ∧ findTask t u.id = some w ∧ w.phase = .complete ∧ w.desc = u.desc ∧
      (s.tck.aborting.contains u.id = false → w.status = f.status ∧ w.slot = f.slot ∧ w.fault = word f.detail) ∧
      (s.tck.aborting.contains u.id = true → w.status = 2) ∧ State.onlyChanges [.tasks, .eng] s t) ∧
  (∀ (s : State) (u v : Task) (w : State), findTask s u.id = some u → nextOn (checkLaces u s) u.eng = some u.id →
    dispatchPasses (checkLaces u s) u v w →
    ∃ t x, exec (.taskDispatch u.id) s = .next t ∧ findTask t u.id = some x ∧ x.phase = .dispatched ∧ x.checked = true ∧
      x.eye = v.eye ∧ x.resv = v.resv ∧ x.td = v.td ∧ x.cap = v.cap ∧ x.prov = v.prov ∧
      (getEng t v.eng).rr = (v.cq + 1) % 256 ∧
      State.onlyChanges [.out, .regs, .cnt, .poison, .queues, .pools, .tasks, .eng, .tck, .crm, .hbm, .cw, .ls, .ldl, .rel, .act, .lnk, .sys, .free] s t) ∧
  (∀ (s : State) (u : Task), findTask s u.id = some u → u.phase = .waiting →
    tryDispatch u (checkLaces u s) = none ∨ nextOn (checkLaces u s) u.eng ≠ some u.id →
    exec (.taskDispatch u.id) s = .next (checkLaces u s))

/-- The commit point of a task that is no member of a group writes the eight words of its record and the task is gone; of
a member it writes the record and the task is held until its group is decided (R57, R63). It writes no other byte, but for
those within the output extents of a task that ends with another status than OK after it had passed its checks (R58). Where
the record's line is accessible no more, the commit point is taken without the write (the model's choice, log 132).
With OK the task's pushes go into their queues and its releases take effect (R52, R57), with another status its reservations
are returned; its delivery joins the pending step of a valid gradient entry of its job, or waits with its group (R141, R142);
its sums join its layer's row (R154); a MOVE with PF leaves a prefetch record of its transfer (R212). -/
def Obligations.CommitWritesTheRecord : Prop :=
  (∀ (s : State) (u : Task), findTask s u.id = some u → u.phase = .complete → access s u.completion = .ok →
    ∃ t, exec (.taskCommit u.id) s = .next t ∧
      (s.Inv → ∀ i < 8, memWord t.mem (u.completion + 8 * i) =
        (recordWords s u (if u.spec && u.gid != 0 then 1 else 0)).getD i 0) ∧
      ((u.spec && u.gid != 0) = false → findTask t u.id = none) ∧
      ((u.spec && u.gid != 0) = true → ∃ w, findTask t u.id = some w ∧ w.phase = .held) ∧
      (s.Inv → ∀ a, a < u.completion ∨ u.completion + 64 ≤ a →
        (u.status = 1 ∨ u.checked = false ∨ u.spec = true ∨ ∀ e ∈ outExtents s u,
          a < localPart e.1.toNat ∨ localPart e.1.toNat + (e.2 + 1 - e.1).toNat ≤ a) → memGet t.mem a = memGet s.mem a) ∧
      State.onlyChanges (writeParts ++ [.queues, .pools, .eng, .tck, .layers, .skm, .lnk]) s t) ∧
  (∀ (s : State) (u : Task), findTask s u.id = some u → u.phase = .complete → access s u.completion = .fault →
    u.status = 1 ∨ u.checked = false ∨ u.spec = true →
    ∃ t, exec (.taskCommit u.id) s = .next t ∧ t.mem = s.mem ∧
      ((u.spec && u.gid != 0) = false → findTask t u.id = none) ∧
      ((u.spec && u.gid != 0) = true → ∃ w, findTask t u.id = some w ∧ w.phase = .held)) ∧
  (∀ (s : State) (u : Task), findTask s u.id = some u → u.phase = .complete → access s u.completion ≠ .wait →
    (u.resv.map (·.1)).Nodup → (∀ r ∈ u.resv, pointersAgree s r.1) →
    ∃ t, exec (.taskCommit u.id) s = .next t ∧ (∀ q, q ∉ u.resv.map (·.1) → getQueue t q = getQueue s q) ∧
      (u.status = 1 → (u.spec && u.gid != 0) = false → ∀ r ∈ u.resv,
        (getQueue t r.1).items = (getQueue s r.1).items ++ [word (u.eye.getD r.2 0)] ∧
        (getQueue t r.1).rsvd = (getQueue s r.1).rsvd - 1) ∧
      (u.status = 1 → (u.spec && u.gid != 0) = true → ∀ r ∈ u.resv, getQueue t r.1 = getQueue s r.1) ∧
      (u.status ≠ 1 → ∀ r ∈ u.resv, getQueue t r.1 = { getQueue s r.1 with rsvd := (getQueue s r.1).rsvd - 1 })) ∧
  (∀ (s : State) (u : Task), findTask s u.id = some u → u.phase = .complete → access s u.completion ≠ .wait →
    u.status = 1 → (u.spec && u.gid != 0) = false →
    ∃ t, exec (.taskCommit u.id) s = .next t ∧
      (∀ i < 8, u.used i = true → u.rel i = true → eyeValid t (u.eye.getD i 0) = false ∧
        (eyeValid s (u.eye.getD i 0) = false → bit (getReg t poolPage 0x20) 11 = true)) ∧
      ((∀ i < 8, (u.used i && u.rel i) = false) → t.pools = s.pools)) ∧
  (∀ (s : State) (u : Task) (e : Nat) (d : SkimRec), findTask s u.id = some u → u.phase = .complete →
    access s u.completion ≠ .wait → u.status = 1 → deliveryOf u = some (e, d) →
    let x := getEnt s e
    let takes := bit x.cfg 16 = true ∧ bit x.cfg 17 = false ∧ fld x.cfg 15 0 = u.job
    ∃ t, exec (.taskCommit u.id) s = .next t ∧
      (u.spec = true → t.skm = { s.skm with held := s.skm.held ++ [⟨u.id, e, u.job, d⟩] }) ∧
      (u.spec = false → ¬ takes → t.skm = s.skm ∧ bit (getReg t skmPage 0x20) 10 = true) ∧
      (u.spec = false → takes → (∀ k, k ≠ e → getEnt t k = getEnt s k) ∧
        getEnt t e = (if s.skm.busy = true ∧ s.skm.job = u.job then { x with next := x.next.plus d }
          else { x with pend := x.pend.plus d }))) ∧
  (∀ p d : SkimRec, d.nonfin = false →
    (d.amax < 0x7F800000 → p.plus d =
      ⟨max p.amax d.amax, min (p.under + d.under) (2 ^ 32 - 1), min (p.count + d.count) (2 ^ 48 - 1), p.ovf || d.ovf, p.nonfin⟩) ∧
    (0x7F800000 ≤ d.amax → p.plus d = { p with nonfin := true, ovf := p.ovf || d.ovf })) ∧
  (∀ (s : State) (u : Task), findTask s u.id = some u → u.phase = .complete → access s u.completion ≠ .wait →
    u.status = 1 → u.spec = false → u.cls = 4 → bit (u.w 24) 4 = true → regBit s chnPage 0x200 0 = true →
    let row := fld (u.w 24) 27 16
    let x := mget s.layers row {}
    let step := fld (u.w 26) 63 32
    ∃ t, exec (.taskCommit u.id) s = .next t ∧ (∀ k, k ≠ row → mget t.layers k {} = mget s.layers k {}) ∧
      (x.isOpen = true → x.step = step → x.got + 1 < x.tasks → mget t.layers row {} =
        { x with got := x.got + 1, sumW := x.sumW + u.stats.sumW, sumU := x.sumU + u.stats.sumU, fin := x.fin && u.stats.fin }) ∧
      (x.isOpen = true → x.step = step → x.tasks ≤ x.got + 1 → (mget t.layers row {}).isOpen = false ∧
        fld (mget t.layers row {}).w0 31 0 =
          (ratioOf (x.fin && u.stats.fin) (x.sumW + u.stats.sumW) (x.sumU + u.stats.sumU)).toNat ∧
        fld (mget t.layers row {}).w1 31 0 = (normOf (x.fin && u.stats.fin) (x.sumW + u.stats.sumW)).toNat ∧
        fld (mget t.layers row {}).w1 63 32 = (normOf (x.fin && u.stats.fin) (x.sumU + u.stats.sumU)).toNat) ∧
      (x.isOpen = false ∨ x.step ≠ step → 2 ≤ fld (u.w 24) 47 32 → mget t.layers row {} =
        ⟨true, step, fld (u.w 24) 47 32, 1, u.stats.sumW, u.stats.sumU, u.stats.fin, x.w0, x.w1⟩) ∧
      (x.isOpen = true ∧ x.step ≠ step ∨ x.isOpen = true ∧ x.tasks ≠ fld (u.w 24) 47 32 →
        bit (getReg t chnPage 0x20) 10 = true)) ∧
  (∀ (s : State) (u : Task) (i : Nat), findTask s u.id = some u → u.phase = .complete → access s u.completion ≠ .wait →
    u.status = 1 → u.cls = 5 → prefetch u = true →
    (List.range 64).find? (fun i => (mfind (getLdl s (u.eng - 0x38)).recs i).isNone) = some i →
    u.completion + 64 ≤ (hull (u.tensor 1)).1 ∨ (hull (u.tensor 1)).2 < u.completion →
    ∃ t r, exec (.taskCommit u.id) s = .next t ∧ mfind (getLdl t (u.eng - 0x38)).recs i = some r ∧ r.job = u.job ∧
      r.srcLo = u.srcExtent.1 ∧ r.srcHi = u.srcExtent.2 ∧ r.dstLo = (hull (u.tensor 1)).1 ∧ r.dstHi = (hull (u.tensor 1)).2 ∧
      r.desc = u.desc ∧ r.td = u.td ∧ r.base = u.base ∧ r.used = false ∧ (u.pfChanged = true → r.changed = true))

/-- The bytes of a record's transfer lie nowhere in what it writes. -/
def refetchApart (t : Task) : Prop :=
  ∀ p q, p < movTotal t → q < movTotal t →
    (movSpan t (t.tensor 0) p).1 + (movSpan t (t.tensor 0) p).2 ≤ (movSpan t (t.tensor 1) q).1 ∨
    (movSpan t (t.tensor 1) q).1 + (movSpan t (t.tensor 1) q).2 ≤ (movSpan t (t.tensor 0) p).1

/-- An engine with the task in the first of its two places that is free. -/
def tookPlace (g : Eng) (id : Nat) : Eng :=
  if g.running = none then { g with running := some id } else if g.further = none then { g with further := some id } else g

/-- DECIDE, with its group's members ready and its flag words readable, is evaluated: the outcome is COMMIT when RULE
holds of the flag words and no member failed, and the group's number names a new use from then on (R64). A drained line's
space is free, the first such entry going (R65). A parked reduction whose wait is over is not parked any more: in the
middle of a stage it takes a free place of its lane, past the stage it takes one in the next stage, and past its last stage
its work is over (R302, R304, R305). A refetch whose lines can
be read writes the record's destination with the bytes of its source and no other byte, and the record stays (R213). -/
def Obligations.GroupsDrainsAndParkedTasksGoOn : Prop :=
  (∀ (s : State) (u : Task), findTask s u.id = some u → u.cls = 7 → u.phase = .dispatched → u.status = 0 →
    running s = true → fld (u.w 25) 24 18 ≤ (heldMembers s u.job u.gid (useOf s u.job u.gid)).length →
    memberRuns s u.job u.gid (useOf s u.job u.gid) = false → decidePending s u.job u.gid = false →
    (flagSpan u).2 = 0 ∨ needSpans s true [flagSpan u] = .ok →
    ∃ t w, exec (.decideGroup u.id) s = .next t ∧ findTask t u.id = some w ∧ w.phase = .evaluated ∧ w.status = 1 ∧
      w.outcome = some (ruleHolds s u &&
        !(heldMembers s u.job u.gid (useOf s u.job u.gid)).any (fun m => m.status != 1)) ∧
      useOf t u.job u.gid = useOf s u.job u.gid + 1 ∧ State.onlyChanges (readParts ++ [.tasks, .groups, .tck]) s t) ∧
  (∀ (s : State) (d : DrainLine), d ∈ s.drain →
    ∃ t, exec (.provisionalDrain d.job d.gid d.line) s = .next t ∧ t.drain.length + 1 = s.drain.length ∧
      (∀ e ∈ s.drain, e.job ≠ d.job ∨ e.gid ≠ d.gid ∨ e.line ≠ d.line → e ∈ t.drain) ∧
      State.onlyChanges [.out, .regs, .cnt, .drain, .crm, .hbm, .cw, .rel, .act, .sys, .free] s t) ∧
  (∀ (s : State) (u : Task), findTask s u.id = some u → u.parked = true → u.phase = .dispatched → u.status = 0 →
    u.nacked = none → running s = true → midStage s u = false → stageOver s u = true → compareAt s u = false → (stagesOf s u).length ≤ stageNo u + 1 → u.direct = none → s.tck.aborting.contains u.id = false →
    ∃ t w, exec (.taskUnpark u.id) s = .next t ∧ findTask t u.id = some w ∧ w.parked = false ∧ w.phase = .complete ∧
      w.status = 1 ∧ State.onlyChanges [.tasks, .eng] s t) ∧
  (∀ (s : State) (u : Task), findTask s u.id = some u → u.parked = true → u.phase = .dispatched → u.status = 0 →
    u.nacked = none → running s = true → midStage s u = true → stillFull s u = false → outstanding s u.id .finite = false →
    ∃ t, exec (.taskUnpark u.id) s = .next t ∧ findTask t u.id = some { u with parked := false } ∧
      getEng t u.eng = tookPlace (getEng s u.eng) u.id ∧ State.onlyChanges [.tasks, .eng] s t) ∧
  (∀ (s : State) (u : Task), findTask s u.id = some u → u.parked = true → u.phase = .dispatched → u.status = 0 →
    u.nacked = none → running s = true → midStage s u = false → stageOver s u = true → compareAt s u = false →
    let v := enterStage s { u with acc := [word (stageNo u + 1)] }
    stageNo u + 1 < (stagesOf s u).length → (stageAt s v).n ≠ 0 →
    ∃ t, exec (.taskUnpark u.id) s = .next t ∧ findTask t u.id = some { v with parked := false } ∧
      getEng t u.eng = tookPlace (getEng s u.eng) u.id ∧ t.lnk = (beginCast v s).lnk ∧
      State.onlyChanges [.tasks, .eng, .lnk] s t) ∧
  (∀ (s : State) (n : Fin 8) (i : Fin 64) (r : PfRec), mfind (getLdl s n.val).recs i.val = some r → r.refetching = true →
    let T := recTask n.val r
    let last := (lastByte T / 256 * 256, 256)
    needSpans s false ((List.range (movTotal T)).map (movSpan T (T.tensor 0))) ≠ .wait →
    (∀ x ∈ s.ecc, x.2 < 2) → (∀ x ∈ s.cw, x.2 < 2) → (∀ x ∈ s.ls, x.2 < 2) → refetchApart T →
    (∀ x ∈ runsOf T (T.tensor 0) (movTotal T) (movTotal T) 0,
      let z := movSpan T (T.tensor 0) (x.2 - 1)
      let lo := (movSpan T (T.tensor 0) x.1).1
      needSpans s true [(lo, z.1 + z.2 - lo)] = .ok) →
    needSpans s true [last] = .ok →
    ∃ t r', exec (.refetchDone n i) s = .next t ∧ mfind (getLdl t n.val).recs i.val = some r' ∧
      r'.desc = r.desc ∧ r'.base = r.base ∧
      (s.Inv → ∀ a,
        let b := movBuf T 0 (movTotal T) (fun q => let p := movSpan T (T.tensor 0) q; memBytes s.mem p.1 p.2)
        memGet t.mem a = (mfind b a).getD (memGet s.mem a)) ∧
      State.onlyChanges (writeParts ++ [.eng, .act]) s t)

/-! ### Slices of work -/

/-- The commands that run granules of an admitted slice, with the class and operation of the tasks they serve and what a
granule of it does. -/
def sliceCommands (id k cycles : Nat) : List (Instr × Nat × Nat × (Task → State → StepRes)) :=
  [(.matmulProduct id k cycles, 1, 0, matRow), (.heritageProduct id k cycles, 1, 1, matRow),
   (.vecConvert id k cycles, 2, 0, vecStep), (.vecAdd id k cycles, 2, 1, vecStep), (.vecMul id k cycles, 2, 2, vecStep),
   (.vecFma id k cycles, 2, 3, vecStep), (.vecAffine id k cycles, 2, 4, vecStep), (.vecMax id k cycles, 2, 5, vecStep),
   (.rowSum id k cycles, 2, 6, vecStep), (.rowSumsq id k cycles, 2, 7, vecStep), (.rowMax id k cycles, 2, 8, vecStep),
   (.vecFinite id k cycles, 2, 9, vecStep), (.vecMask id k cycles, 2, 0xA, vecStep), (.segMask id k cycles, 2, 0xB, vecStep),
   (.dropout id k cycles, 2, 0xC, vecStep), (.random id k cycles, 2, 0xD, vecStep),
   (.funForward id k cycles, 3, 0, funStep), (.funBackward id k cycles, 3, 1, funStep), (.funLoad id k cycles, 3, 2, loadStep),
   (.sgd id k cycles, 4, 0, updStep), (.adam id k cycles, 4, 1, updStep), (.lion id k cycles, 4, 2, updStep),
   (.redArm id k cycles, 6, 0, redStep), (.allreduce id k cycles, 6, 1, redStep), (.multicast id k cycles, 6, 2, redStep)]

/-- The granules of a task's work, by its class. -/
def granTotal (s : State) (t : Task) : Nat :=
  if t.cls = 1 then matTotal t else if t.cls = 2 ∨ t.cls = 3 then vecTotal t else if t.cls = 4 then updTotal t else redTotal s t

/-- One granule of a slice: the command's next state is the granule's own, with the task as the granule leaves it, within the
slice; at the slice's stop the slice is over too, and past the task's last granule its work (R57, R91); a granule whose access
waits changes nothing of the task but the cycles charged; one that parks the task takes it off its engine (R305); one that
meets a fault ends the task with that fault (R226). A slice that is over leaves its engine to the next admitted one, and the
task stands for a later one, or has ended where an abort reached it; work that is over ends the task with OK, but a MATMUL's
last rows leave it dispatched, off its engine, to its epilogue (R59, R80, R88, R174). An error that one of the engine's checks
finds ends the task with ENGINE_FAULT (R79, R96, R158). A slice of another class or operation's command changes nothing. -/
def Obligations.SlicesRunGranuleByGranule : Prop :=
  (∀ (s : State) (t : Task) (a : Adm) (cycles : Nat) (c : Instr) (cls op : Nat) (step : Task → State → StepRes),
    (c, cls, op, step) ∈ sliceCommands t.id 1 cycles → s.inSlice t a 1 cycles →
    (t.cls = cls → t.op = op → ∀ t1 s1, step (t.charged cycles) (s.charged t a.stop 1 cycles) = .go t1 s1 →
      (t1.parked = false → t1.pos < a.stop → exec c s = .next { putTask t1 s1 with actJob := s.actJob }) ∧
      (t1.parked = false → a.stop ≤ t1.pos →
        exec c s = .next { sliceOver t1 (granTotal s t1) (t.cls == 1) (putTask t1 s1) with actJob := s.actJob }) ∧
      (t1.parked = true → exec c s = .next { leaveEngine t1 (endSlice t1 (putTask t1 s1)) with actJob := s.actJob })) ∧
    (t.cls = cls → t.op = op → step (t.charged cycles) (s.charged t a.stop 1 cycles) = .wait →
      exec c s = .next { putTask (t.charged cycles) (s.charged t a.stop 1 cycles) with actJob := s.actJob }) ∧
    (t.cls = cls → t.op = op → ∀ f s1, step (t.charged cycles) (s.charged t a.stop 1 cycles) = .fail f s1 →
      exec c s = .next { finish (t.charged cycles) f s1 with actJob := s.actJob }) ∧
    (t.cls ≠ cls ∨ t.op ≠ op → exec c s = .next s)) ∧
  (∀ (s : State) (t : Task) (total : Nat) (drains : Bool), (∃ x, findTask s t.id = some x) → t.phase = .dispatched →
    t.direct = none →
    let u := sliceOver t total drains s
    (t.pos < total → s.tck.aborting.contains t.id = false → findTask u t.id = some { t with run := 0 } ∧
      getEng u t.eng = { getEng s t.eng with queue := (getEng s t.eng).queue.drop 1, started := false }) ∧
    (s.tck.aborting.contains t.id = true →
      ∃ w, findTask u t.id = some w ∧ w.phase = .complete ∧ w.status = 2) ∧
    (total ≤ t.pos → drains = false → s.tck.aborting.contains t.id = false →
      ∃ w, findTask u t.id = some w ∧ w.phase = .complete ∧ w.status = 1) ∧
    (total ≤ t.pos → drains = true → s.tck.aborting.contains t.id = false → findTask u t.id = some { t with run := 0 } ∧
      (t.cls ≠ 5 → (getEng s t.eng).running = some t.id → (getEng u t.eng).running = (getEng s t.eng).further)) ∧
    (∀ e, e ≠ t.eng → getEng u e = getEng s e) ∧ State.onlyChanges [.tasks, .eng] s u) ∧
  (∀ (s u : State) (t : Task) (a : Adm) (k cycles : Nat) (c : Instr) (cls op : Nat) (step : Task → State → StepRes),
    (c, cls, op, step) ∈ sliceCommands t.id k cycles → t.cls = cls → t.op = op → findTask s t.id = some t →
    (getEng s t.eng).queue.head? = some a → a.task = t.id → (getEng s t.eng).started = true →
    (getEng s t.eng).draining = false → t.phase = .dispatched → t.status = 0 → t.refetch = none → t.parked = false →
    t.nacked = none → running s = true → ladleHeld s t = false → t.direct = none → s.tck.aborting.contains t.id = false →
    engFault (t.charged cycles) (s.charged t a.stop k cycles) = some u →
    ∃ v w, exec c s = .next v ∧ findTask v t.id = some w ∧ w.phase = .complete ∧ w.status = 9 ∧ v.mem = s.mem ∧
      State.onlyChanges [.out, .regs, .cnt, .tasks, .eng, .tck, .upset, .cross, .rel, .arr, .act, .sys, .free] s v)

/-- The value a VECTOR operation gives an element from its inputs there (Table 5.2): exact, then rounded once to FP32;
`u` is the element's random word. -/
def elementRule (op : Nat) (t : Task) (s : State) (i : List Nat) (u : Nat) : F32 :=
  let x (k : Nat) : Sys2Proof.Num.Val := (t.tensor k).val s (some t) i
  let code (k : Nat) : Nat := (t.tensor k).get s (some t) i
  let alpha := Sys2Proof.Num.decode Sys2Proof.Num.fp32 (fld (t.w 25) 31 0)
  let beta := Sys2Proof.Num.decode Sys2Proof.Num.fp32 (fld (t.w 25) 63 32)
  let fill : F32 := BitVec.ofNat 32 (fld (t.w 26) 31 0)
  if op = 0 then Sys2Proof.Num.r32 (x 0)
  else if op = 1 then Sys2Proof.Num.r32 (Sys2Proof.Num.add (x 0) (x 1))
  else if op = 2 then Sys2Proof.Num.r32 (Sys2Proof.Num.mul (x 0) (x 1))
  else if op = 3 then Sys2Proof.Num.r32 (Sys2Proof.Num.add (Sys2Proof.Num.mul (x 0) (x 1)) (x 3))
  else if op = 4 then Sys2Proof.Num.r32 (Sys2Proof.Num.add (Sys2Proof.Num.mul (x 0) alpha) beta)
  else if op = 5 then Sys2Proof.Num.r32 (Sys2Proof.Num.vmax (x 0) (x 1))
  else if op = 0xA then (if code 1 ≠ 0 then Sys2Proof.Num.r32 (x 0) else fill)
  else if op = 0xB then (if code 1 = code 3 then Sys2Proof.Num.r32 (x 0) else fill)
  else if u < fld (t.w 29) 31 0 then Sys2Proof.Num.r32 (Sys2Proof.Num.mul (x 0) alpha) else 0

/-- The indices of the elements of the granule the task is at. -/
def granuleIds (t : Task) : List (List Nat) :=
  (List.range (granElems t (t.pos % rowGran t)).2).map
    (fun j => ((granElems t (t.pos % rowGran t)).1 + j) :: rowIdx t (t.pos / rowGran t))

/-- The lines a buffer of written bytes lies on take writes. -/
def writable (s : State) (b : Buf) : Prop := needLines s false ((b.map (fun x => lineOf x.1)).eraseDups) = .ok

/-- With memory in its canonical form, a buffer's bytes stand in it after, and every other byte reads as before. -/
def writesBuf (s t : State) (b : Buf) : Prop := s.Inv → ∀ a, memGet t.mem a = (mfind b a).getD (memGet s.mem a)

/-- What a task writes: a speculative one writes provisionally, so that target memory is as it was, and only a reader of its
group's use whose view takes the task's writes in sees them (R61, R63). -/
def wrote (s u : State) (t : Task) (b : Buf) : Prop :=
  (t.spec = false → writesBuf s u b) ∧
  (t.spec = true → u.mem = s.mem ∧ ∀ (vis : List Nat) (a : Nat),
    viewByte u (some { t with vis := vis }) a =
      if t.id ∈ vis then (mfind b a).getD (viewByte s (some { t with vis := vis }) a)
      else viewByte s (some { t with vis := vis }) a)

/-- Where a task stands that a granule leaves at `pos` of its `total`: within its slice it goes on; at the slice's stop the
slice is over and the task stands for a later one; past its last granule its work is over, and an abort that reached it has
it end with ABORTED (R57, R59, R91). -/
def goneOn (s u : State) (t : Task) (a : Adm) (pos total : Nat) : Prop :=
  ∃ w, findTask u t.id = some w ∧ w.pos = pos ∧ (pos < a.stop → w.phase = .dispatched ∧ u.eng = s.eng) ∧
    (a.stop ≤ pos → pos < total → s.tck.aborting.contains t.id = false → w.phase = .dispatched ∧
      getEng u t.eng = { getEng s t.eng with queue := (getEng s t.eng).queue.drop 1, started := false }) ∧
    (a.stop ≤ pos → total ≤ pos ∨ s.tck.aborting.contains t.id = true → t.direct = none →
      w.phase = .complete ∧ w.status = if s.tck.aborting.contains t.id then 2 else 1) ∧
    ∀ e, e ≠ t.eng → getEng u e = getEng s e

/-- A granule of an element-wise VECTOR operation writes, at the output's addresses, the conversions of the values the
operation's rule gives (free values where its output overlaps an input, R127), and no other byte, a speculative task
provisionally; the task is one granule further, with the elements written counted, and ends with OK past its last one (R61,
R128 to R134, Table 5.2). -/
def Obligations.VectorGranulesWriteTheirElements : Prop :=
  ∀ (s : State) (t : Task) (a : Adm) (cycles op : Nat) (c : Instr),
    (c, op) ∈ [(Instr.vecConvert t.id 1 cycles, 0), (.vecAdd t.id 1 cycles, 1), (.vecMul t.id 1 cycles, 2),
      (.vecFma t.id 1 cycles, 3), (.vecAffine t.id 1 cycles, 4), (.vecMax t.id 1 cycles, 5), (.vecMask t.id 1 cycles, 0xA),
      (.segMask t.id 1 cycles, 0xB), (.dropout t.id 1 cycles, 0xC)] →
    s.inSlice t a 1 cycles → t.cls = 2 → t.op = op → s.upset.contains (t.eng, 72) = false →
    let s0 := s.charged t a.stop 1 cycles
    let el := granElems t (t.pos % rowGran t)
    let lin := t.pos / rowGran t * rowLen t + el.1
    let vs := ((List.range el.2).zip (granuleIds t)).map
      (fun z => elementRule op (t.charged cycles) s0 z.2 (if op = 0xC then vecRandom t (lin + z.1) else 0))
    let b := (writeRow false (bit (t.w 24) 0) (t.tensor 2) s0 (t.charged cycles) el.1
      (rowIdx t (t.pos / rowGran t)) vs []).1
    (t.spec = false → writable s b) →
    ∃ u w, exec c s = .next u ∧ wrote s u t (outBuf t b s).1 ∧ goneOn s u t a (t.pos + 1) (vecTotal t) ∧
      findTask u t.id = some w ∧ w.detail = word (t.detail.toNat + vs.length) ∧
      State.onlyChanges (writeParts ++ [.tck, .rngBlocks, .eng]) s u

/-- A granule of a row operation carries the row's running value on and writes nothing before the row's last granule: the
sum of the group's exact values added and rounded once for ROW_SUM, of their squares for ROW_SUMSQ, the greater for
ROW_MAX; FINITE carries whether a value was not finite. The row's last granule writes that value, converted, and no other
byte; the last granule of FINITE writes its flag word. A granule of RANDOM writes each element's random word (R131 to R133).
FUNCTION: a granule of FORWARD writes the table's value of each input, with slot 3 in use the input beside it, one of BACKWARD
the incoming gradient times the derivative table's value, rounded once; a LOAD whose image is good gives its pair the image
and writes no memory, and one whose image has a reserved field set ends with BAD_DESCRIPTOR's status (R135 to R140). Past its
last granule each task has ended with OK; a speculative one writes provisionally (R57, R61). -/
def Obligations.RowsRandomsAndFunctionsWriteElements : Prop :=
  (∀ (s : State) (t : Task) (a : Adm) (cycles op : Nat) (c : Instr),
    (c, op) ∈ [(Instr.rowSum t.id 1 cycles, 6), (.rowSumsq t.id 1 cycles, 7), (.rowMax t.id 1 cycles, 8),
      (.vecFinite t.id 1 cycles, 9)] →
    s.inSlice t a 1 cycles → t.cls = 2 → t.op = op →
    let s0 := s.charged t a.stop 1 cycles
    let x (i : List Nat) : Sys2Proof.Num.Val := (t.tensor 0).val s0 (some (t.charged cycles)) i
    let old : F32 := if t.pos % rowGran t = 0 then (if op = 8 then 0xFF800000 else 0) else BitVec.ofNat 32 (t.acc.getD 0 0).toNat
    let new : F32 :=
      if op = 6 then Sys2Proof.Num.accum old (Sys2Proof.Num.groupSum ((granuleIds t).map x))
      else if op = 7 then Sys2Proof.Num.accum old (Sys2Proof.Num.groupSum ((granuleIds t).map (fun i => Sys2Proof.Num.mul (x i) (x i))))
      else Sys2Proof.Num.r32 ((granuleIds t).foldl (fun m i => Sys2Proof.Num.vmax m (Sys2Proof.Num.d32 (Sys2Proof.Num.r32 (x i)))) (Sys2Proof.Num.d32 old))
    let bad := (granuleIds t).any (fun i => !(x i).isFinite) || (if t.pos = 0 then false else t.acc.getD 0 0 == 1)
    let b := (writeRow false (bit (t.w 24) 0) (t.tensor 2) s0 (t.charged cycles) 0 (rowIdx t (t.pos / rowGran t)) [new] []).1
    let flag := (t.tensor 2).put s0 (some (t.charged cycles)) [0] (2 ^ 64 - 1 - b2n bad) []
    ((op = 9 → t.pos + 1 < vecTotal t) → (op ≠ 9 → t.pos % rowGran t + 1 ≠ rowGran t) →
      ∃ u w, exec c s = .next u ∧ goneOn s u t a (t.pos + 1) (vecTotal t) ∧ findTask u t.id = some w ∧
        w.acc = [word (if op = 9 then b2n bad else new.toNat)] ∧ State.onlyChanges [.cnt, .tasks, .tck, .act, .eng] s u) ∧
    (op ≠ 9 → t.pos % rowGran t + 1 = rowGran t → (t.spec = false → writable s b) →
      ∃ u w, exec c s = .next u ∧ wrote s u t (outBuf t b s).1 ∧ goneOn s u t a (t.pos + 1) (vecTotal t) ∧
        findTask u t.id = some w ∧ w.detail = word (t.detail.toNat + 1) ∧
        State.onlyChanges (writeParts ++ [.tck, .eng]) s u) ∧
    (op = 9 → vecTotal t ≤ t.pos + 1 → (t.spec = false → writable s flag) →
      ∃ u w, exec c s = .next u ∧ wrote s u t (outBuf t flag s).1 ∧ goneOn s u t a (t.pos + 1) (vecTotal t) ∧
        findTask u t.id = some w ∧ w.detail = 1 ∧ State.onlyChanges (writeParts ++ [.tck, .eng]) s u)) ∧
  (∀ (s : State) (t : Task) (a : Adm) (cycles : Nat), s.inSlice t a 1 cycles → t.cls = 2 → t.op = 0xD →
    s.upset.contains (t.eng, 72) = false →
    let el := granElems t (t.pos % rowGran t)
    let lin := t.pos / rowGran t * rowLen t + el.1
    let b := ((List.range el.2).zip (granuleIds t)).foldl (fun b z =>
      (t.tensor 2).put (s.charged t a.stop 1 cycles) (some (t.charged cycles)) z.2
        (rennet (t.cap.getD 0 0).toNat (fld (t.w 27) 31 0) (fld (t.w 27) 63 32) (fld (t.w 28) 47 0 + (lin + z.1))) b) []
    (t.spec = false → writable s b) →
    ∃ u w, exec (.random t.id 1 cycles) s = .next u ∧ wrote s u t (outBuf t b s).1 ∧
      goneOn s u t a (t.pos + 1) (vecTotal t) ∧ findTask u t.id = some w ∧ w.detail = word (t.detail.toNat + el.2) ∧
      State.onlyChanges (writeParts ++ [.tck, .rngBlocks, .eng]) s u) ∧
  (∀ (s : State) (t : Task) (a : Adm) (cycles op : Nat) (c : Instr),
    (c, op) ∈ [(Instr.funForward t.id 1 cycles, 0), (.funBackward t.id 1 cycles, 1)] →
    s.inSlice t a 1 cycles → t.cls = 3 → t.op = op →
    let s0 := s.charged t a.stop 1 cycles
    let t0 := t.charged cycles
    let el := granElems t (t.pos % rowGran t)
    let rest := rowIdx t (t.pos / rowGran t)
    let img := mget s.tables (veOf t * 8 + pairOf t) []
    let v (k : Nat) (i : List Nat) : Sys2Proof.Num.Val := (t.tensor k).val s0 (some t0) i
    let vs := (granuleIds t).map (fun i => if op = 0 then tabEval img 0 (Sys2Proof.Num.r32 (v 0 i))
      else Sys2Proof.Num.r32 (Sys2Proof.Num.mul (v 1 i) (Sys2Proof.Num.d32 (tabEval img 1 (Sys2Proof.Num.r32 (v 0 i))))))
    let r := (writeRow false (bit (t.w 24) 3) (t.tensor 2) s0 t0 el.1 rest vs []).1
    let b := if t.used 3 then (writeRow false (bit (t.w 24) 3) (t.tensor 3) s0 t0 el.1 rest
      ((granuleIds t).map (fun i => Sys2Proof.Num.r32 (v 0 i))) r).1 else r
    (t.spec = false → writable s b) →
    ∃ u w, exec c s = .next u ∧ wrote s u t (outBuf t b s).1 ∧ goneOn s u t a (t.pos + 1) (vecTotal t) ∧
      findTask u t.id = some w ∧ w.detail = word (t.detail.toNat + vs.length) ∧
      State.onlyChanges (writeParts ++ [.tck, .eng]) s u) ∧
  (∀ (s : State) (t : Task) (a : Adm) (cycles : Nat), s.inSlice t a 1 cycles → t.cls = 3 → t.op = 2 → t.pos = 0 → a.stop = 1 →
    t.direct = none → s.tck.aborting.contains t.id = false →
    let img := (List.range 131200).map
      (fun i => BitVec.ofNat 8 ((t.tensor 0).get (s.charged t a.stop 1 cycles) (some (t.charged cycles)) [i]))
    ∃ u w, exec (.funLoad t.id 1 cycles) s = .next u ∧ findTask u t.id = some w ∧ w.phase = .complete ∧
      (imageBad img = false → w.status = 1 ∧ mfind u.tables (veOf t * 8 + pairOf t) = some img ∧
        ∀ k, k ≠ veOf t * 8 + pairOf t → mfind u.tables k = mfind s.tables k) ∧
      (imageBad img = true → w.status = 6 ∧ u.tables = s.tables) ∧
      State.onlyChanges [.tables, .tasks, .tck, .act, .eng, .cnt] s u)

/-- A row of a matrix product whose pass's tile is active, or swapped in before it (`s0`), carries on the running sums of
its columns, in groups of 32 contraction indices (R113) for MATMUL and in the heritage order for HERITAGE, with its scales once
at the end (R120), and writes no memory. The last row of a pass ends the pass on its unit; with that of the last K tile the
output block is complete with its rows' sums, and the next block begins anew (R74, R76, R87). Past the task's last row the
task leaves its engine, still dispatched, to its epilogue (R88). While the swap is not armed, or the current keeper climbs, no
row is issued (R77, R94). -/
def Obligations.MatrixRowsCarryTheirSums : Prop :=
  ∀ (s : State) (t : Task) (a : Adm) (cycles op : Nat) (c : Instr),
    (c, op) ∈ [(Instr.matmulProduct t.id 1 cycles, 0), (.heritageProduct t.id 1 cycles, 1)] →
    s.inSlice t a 1 cycles → t.cls = 1 → t.op = op →
    let sc := s.charged t a.stop 1 cycles
    let tc := t.charged cycles
    let x := arrUnit t.eng
    let p := place t t.pos
    let bt := batchIdx t p.1
    let cols := tileCols t p.1
    let k0 := p.2.2.1 * tileK t
    let k1 := min (kc t) (k0 + tileK t)
    let start := if p.2.2.1 = 0 then [] else mget t.rows p.2.2.2 []
    let m := p.2.1 * blockRows t + p.2.2.2
    (∀ s0, s.tck.aborting.contains t.id = false → climbing s x.1 x.2 = false → tileIn tc sc = some s0 →
      (s.ls = [] ∨ needSpans s0 true (rowSpans t m k0 k1 bt) = .ok) →
      let sums : List F32 := (List.range (cols.2 - cols.1)).map (fun j =>
        if op = 0 then runSum tc s0 m (cols.1 + j) bt k0 k1 (start.getD j 0)
        else
          let y := heritageSum tc s0 m (cols.1 + j) bt k0 k1 (start.getD j 0)
          if p.2.2.1 + 1 = kTiles t then heritageScale tc s0 y else y)
      let rows := mput t.rows p.2.2.2 sums
      ∃ u w, exec c s = .next u ∧ findTask u t.id = some w ∧ w.pos = t.pos + 1 ∧ w.phase = .dispatched ∧
        (p.2.2.2 + 1 ≠ rowsOf t p.2.1 → w.rows = rows ∧ w.blocks = t.blocks ∧ (getUnit u x.1 x.2).placed = some t.id) ∧
        (p.2.2.2 + 1 = rowsOf t p.2.1 → (getUnit u x.1 x.2).placed = none ∧ (getUnit u x.1 x.2).front = false) ∧
        (p.2.2.2 + 1 = rowsOf t p.2.1 → p.2.2.1 + 1 ≠ kTiles t → w.rows = rows ∧ w.blocks = t.blocks) ∧
        (p.2.2.2 + 1 = rowsOf t p.2.1 → p.2.2.1 + 1 = kTiles t → w.rows = [] ∧
          w.blocks = t.blocks ++ [(p.1 * mBlocks t + p.2.1, (List.range (rowsOf t p.2.1)).flatMap (fun i => mget rows i []))]) ∧
        (t.pos + 1 < a.stop → u.eng = s.eng) ∧
        (a.stop ≤ t.pos + 1 → t.pos + 1 < matTotal t →
          getEng u t.eng = { getEng s t.eng with queue := (getEng s t.eng).queue.drop 1, started := false }) ∧
        (a.stop ≤ t.pos + 1 → matTotal t ≤ t.pos + 1 → (getEng s t.eng).running = some t.id →
          (getEng u t.eng).running = (getEng s t.eng).further) ∧
        State.onlyChanges (readParts ++ [.tasks, .tck, .arr, .eng]) s u) ∧
    (climbing s x.1 x.2 = true ∨
        ((getUnit s x.1 x.2).placed ≠ some t.id ∧ canSwap s x.1 x.2 t (passOf t t.pos) = false) →
      ∃ u w, exec c s = .next u ∧ findTask u t.id = some w ∧ w.pos = t.pos ∧ w.rows = t.rows ∧
        State.onlyChanges [.cnt, .tasks, .tck, .act, .arr] s u)

/-- The epilogue empties the oldest complete block: its rows, through the steps of R80, are written at the outputs'
addresses, a speculative task's provisionally, no other byte changes, and the block is gone from the task; with the last block
the task's work is over (R61, R80, R87). -/
def Obligations.EpilogueEmptiesTheOldestBlock : Prop :=
  ∀ (s : State) (t : Task) (i : Nat) (sums : List F32) (rest : List (Nat × List F32)),
    findTask s t.id = some t → t.blocks = (i, sums) :: rest → t.cls = 1 →
    t.phase = .dispatched → t.status = 0 → running s = true →
    (t.job = 0 ∨ bit (getReg s (pageOf .stn 0 0) 0x200) 8 = false ∨ takesWork s (pageOf .stn 0 0) = false) →
    let bn := i / mBlocks t
    let b := i % mBlocks t
    let cols := tileCols t bn
    let wd := cols.2 - cols.1
    let side := (List.range (rowsOf t b)).flatMap (fun r =>
      (if t.used 4 then (List.range wd).flatMap (fun j =>
        (t.tensor 4).spans ([cols.1 + j, b * blockRows t + r] ++ batchIdx t bn)) else []))
    let bias := if t.used 3 then (List.range wd).flatMap (fun j => (t.tensor 3).spans [cols.1 + j]) else []
    let r := ((List.range (rowsOf t b)).zip (Sys2Proof.Num.chunks wd (rowsOf t b) sums)).foldl
      (fun acc z => epilogueRow t s bn (b * blockRows t + z.1) z.2 acc) (([] : Buf), t.stats)
    needSpans s true (bias ++ side) = .ok → provPoison s t (bias ++ side) = none → (t.spec = false → writable s r.1) →
    ∃ u w n, exec (.outputBlockEpilogue t.id) s = .next u ∧ wrote s u t (outBuf t r.1 { s with free := n }).1 ∧
      findTask u t.id = some w ∧ w.stats = r.2 ∧
      (rest ≠ [] ∨ t.pos < matTotal t → w = { t with blocks := rest, stats := r.2 } ∧ u.eng = s.eng) ∧
      (rest = [] → matTotal t ≤ t.pos → t.direct = none → w.phase = .complete ∧
        w.status = if s.tck.aborting.contains t.id then 2 else 1) ∧
      State.onlyChanges (writeParts ++ [.eng]) s u

/-- A granule of an optimiser writes the new master, the moments and the working copies that are used of its parameters,
a speculative task provisionally, and no other byte, and counts the new masters that are not finite (R61, R152, R153). The new
values are those of R152's steps: SGD's with and without the look-ahead, ADAM's with the decay in the gradient or decoupled,
LION's. Past its last granule the task has ended with OK. -/
def Obligations.OptimiserGranulesStepTheirParameters : Prop :=
  (∀ (s : State) (t : Task) (a : Adm) (cycles op : Nat) (c : Instr),
    (c, op) ∈ [(Instr.sgd t.id 1 cycles, 0), (.adam t.id 1 cycles, 1), (.lion t.id 1 cycles, 2)] →
    s.inSlice t a 1 cycles → t.cls = 4 → t.op = op → s.upset.contains (t.eng, 72) = false →
    let s0 := s.charged t a.stop 1 cycles
    let t0 := t.charged cycles
    let ids := granIds t
    let v (k : Nat) (i : List Nat) : Sys2Proof.Num.Val := (t.tensor k).val s0 (some t0) i
    let rd (k : Nat) (i : List Nat) : F32 := if t.used k then Sys2Proof.Num.r32 (v k i) else 0
    let news := ids.map (fun z => updateParam t (rd 0 z.2) (rd 2 z.2) (rd 3 z.2) (v 1 z.2))
    let put (k : Nat) (f : F32 × F32 × F32 → F32) (b : Buf) : Buf :=
      if t.used k then (ids.zip news).foldl (fun b z => (t.tensor k).put s0 (some t0) z.1.2
        (outCode false true (t.tensor k).fmt (Sys2Proof.Num.d32 (f z.2))) b) b else b
    let b2 := put 3 (·.2.2) (put 2 (·.2.1) ((ids.zip news).foldl (fun b z =>
      (t.tensor 0).put s0 (some t0) z.1.2 z.2.1.toNat b) []))
    let stream := fld (t.w 26) 31 0
    let b3 := if t.used 4 then writeCopy t0 s0 4 stream ids (news.map (·.1)) b2 else b2
    let b4 := if t.used 5 then writeCopy t0 s0 5 ((stream + 1) % 2 ^ 32) ids (news.map (·.1)) b3 else b3
    let reads := ids.flatMap (fun z => ((List.range 4).filter (fun i => t.used i)).flatMap (fun i => (t.tensor i).spans z.2))
    needSpans s true reads = .ok → provPoison s t reads = none → (t.spec = false → writable s b4) →
    ∃ u w n, exec c s = .next u ∧ wrote s u t (outBuf t b4 { s with free := n }).1 ∧
      goneOn s u t a (t.pos + 1) (updTotal t) ∧ findTask u t.id = some w ∧
      w.detail = word (t.detail.toNat + (news.filter (fun z => !(Sys2Proof.Num.d32 z.1).isFinite)).length) ∧
      State.onlyChanges (writeParts ++ [.tck, .rngBlocks, .eng]) s u) ∧
  (∀ (t : Task) (w m v : F32) (g : Sys2Proof.Num.Val),
    let h (i hi lo : Nat) : F32 := BitVec.ofNat 32 (fld (t.cap.getD (2 + i) 0) hi lo)
    let lr := h 0 31 0
    let wd := h 0 63 32
    let b1 := h 1 31 0
    let b2 := h 1 63 32
    let omb1 := h 2 31 0
    let omb2 := h 2 63 32
    let g0 := Sys2Proof.Num.r32 (Sys2Proof.Num.mul g (Sys2Proof.Num.pow2 (-((t.cap.getD 1 0).toNat : Int))))
    let g1 := if bit (t.w 24) 2 then Sys2Proof.Num.mul32 g0 (h 4 63 32) else g0
    let next (d : F32) : F32 := Sys2Proof.Num.sub32 w (Sys2Proof.Num.mul32 lr d)
    (t.op = 0 →
      let g2 := Sys2Proof.Num.fma32 wd w g1
      let m1 := Sys2Proof.Num.fma32 b1 m (Sys2Proof.Num.mul32 omb1 g2)
      (bit (t.w 24) 1 = false → updateParam t w m v g = (next m1, m1, v)) ∧
      (bit (t.w 24) 1 = true → updateParam t w m v g = (next (Sys2Proof.Num.fma32 b1 m1 g2), m1, v))) ∧
    (t.op = 1 →
      let g2 := if bit (t.w 24) 0 then g1 else Sys2Proof.Num.fma32 wd w g1
      let m1 := Sys2Proof.Num.fma32 b1 m (Sys2Proof.Num.mul32 omb1 g2)
      let v1 := Sys2Proof.Num.fma32 b2 v (Sys2Proof.Num.mul32 omb2 (Sys2Proof.Num.mul32 g2 g2))
      let d := Sys2Proof.Num.div32 (Sys2Proof.Num.mul32 m1 (h 3 31 0))
        (Sys2Proof.Num.add32 (Sys2Proof.Num.sqrt32 (Sys2Proof.Num.mul32 v1 (h 3 63 32))) (h 4 31 0))
      (bit (t.w 24) 0 = false → updateParam t w m v g = (next d, m1, v1)) ∧
      (bit (t.w 24) 0 = true → updateParam t w m v g = (next (Sys2Proof.Num.fma32 wd w d), m1, v1))) ∧
    (t.op = 2 →
      let x := Sys2Proof.Num.d32 (Sys2Proof.Num.add32 (Sys2Proof.Num.mul32 b1 m) (Sys2Proof.Num.mul32 omb1 g1))
      let m1 := Sys2Proof.Num.add32 (Sys2Proof.Num.mul32 b2 m) (Sys2Proof.Num.mul32 omb2 g1)
      (x.isNan = false → x.isZero = false →
        updateParam t w m v g = (next (Sys2Proof.Num.fma32 wd w (if x.neg then 0xBF800000 else 0x3F800000)), m1, v)) ∧
      (x.isNan = false → x.isZero = true → updateParam t w m v g = (next (Sys2Proof.Num.fma32 wd w 0), m1, v)) ∧
      (x.isNan = true → updateParam t w m v g = (next (Sys2Proof.Num.fma32 wd w 0x7FC00000), m1, v))))

/-- Requests to a device go out, `n` of them, with none outstanding: the device number is valid, a port leads there, and the
job has a link key with that many nonces left (R19, R262, R265, R276). -/
def sendsTo (s : State) (dev job n : Nat) : Prop :=
  devValid s = true ∧ s.lnk.track = [] ∧ n + 2 ≤ 131072 ∧ route s dev ≠ none ∧ (getKey s job).cur ≠ none ∧
  (getKey s job).nonce + n < 2 ^ 55 - 1

/-- `n` HOP requests go out through a switch plane's port, with no request outstanding (R19, R262, R298). -/
def hopsTo (s : State) (plane job n : Nat) : Prop :=
  portRole s (7 + plane) = 2 ∧ portActive s (7 + plane) = true ∧ devValid s = true ∧ s.lnk.track = [] ∧ n + 2 ≤ 131072 ∧
  (getKey s job).cur ≠ none ∧ (getKey s job).nonce + n < 2 ^ 55 - 1

/-- A request for the task, of what the packet asks of the device, is tracked until it is answered (R262). -/
def requests (u : State) (t : Task) (kind : ReqKind) (dev : Nat) (k : Packet) : Prop :=
  ∃ y ∈ u.lnk.track, y.2.kind = kind ∧ y.2.owner = t.id ∧ y.2.dev = dev ∧ y.2.k.op = k.op ∧ y.2.k.promoted = k.promoted ∧
    y.2.k.hop = k.hop ∧ y.2.k.job = k.job ∧ y.2.k.bucket = k.bucket ∧ y.2.k.addr = k.addr ∧ y.2.k.code = k.code ∧
    y.2.k.body = k.body

/-- The parts that a slice that sends requests may change. -/
def sendParts : List Part :=
  [.out, .regs, .cnt, .mem, .poison, .epochs, .tasks, .prov, .eng, .tck, .crm, .hbm, .ecc, .cw, .ls, .upset, .cross, .ldl, .rel, .arr, .act, .lnk, .keys, .sys, .free]

/-- Where a granule of an ALLREDUCE sends, to a member or the ring's next device or its own adders, and with what: the device,
the bucket, the bytes read for it and the packets. In the contribute phase a chunk of slot 0 to the owner of its share, or the
FINITE word to a member's slot 4; in a ring step a staged chunk to the next device; in the ring's flag step slot 4 to each
device of the ring; in the flag phase slot 4 to each member's slot 5, in the flag bucket (R297, R299, R301). -/
def sendsOf (s : State) (t : Task) (b : Buck) : Option (Nat × Nat × List (Nat × Nat) × List RaPkt) :=
  let i := t.pos - stageBase s t
  let st := stageAt s t
  let slot4 := [(slotAddr t 4, 8)]
  if st.kind = 0 then
    match contribItem s t i with
    | some (m, c) => some (t.grp.getD m 0, bucketOf t, chunkSpans (t.tensor 0) c,
        contribPkts t s c (slotAddr t 1 + 2048 * (c - shareLo t m) * (t.tensor 1).size))
    | none => if finiteFar s t = true ∧ t.cap.length < 2 then none else
        some (t.grp.getD (i - chunksOf t) 0, bucketOf t, if t.used 3 && !finiteFar s t then [(slotAddr t 3, 8)] else [],
          [flagPkt (slotAddr t 4) (finiteWord t s)])
  else if st.kind = 3 then
    let c := ringLo t (shareLen t (grpJ s t)) ((ringI s t + ringG t - st.arg) % ringG t) + i
    some (t.ring.getD ((ringI s t + 1) % ringG t) 0, bucketOf t, stagedSpans b c, stagedPkts t s b c)
  else if st.kind = 5 then
    some ((t.ring.filter (· ≠ devNum s)).getD i 0, bucketOf t, slot4, [flagPkt (slotAddr t 4) (flagWord t s)])
  else if st.kind = 7 then
    some (t.grp.getD i 0, flagBucket (bucketOf t), slot4, [flagPkt (slotAddr t 5) (flagWord t s)])
  else none

/-- What a granule of an ALLREDUCE exchanges with a switch plane: the plane, the bytes read, and the packets: a staged chunk,
or slot 4 at the end (R298). -/
def hopsOf (s : State) (t : Task) (b : Buck) : Option (Nat × List (Nat × Nat) × List RaPkt) :=
  let i := t.pos - stageBase s t
  if (stageAt s t).kind = 1 then some (planeOf t i, stagedSpans b i, stagedPkts t s b i)
  else if (stageAt s t).kind = 2 then some (planeOf t 0, [(slotAddr t 4, 8)], [flagPkt (slotAddr t 4) (flagWord t s)])
  else none

/-- The task is one granule further with `n` more answers to wait for; the last granule of a stage parks it, and the slice is
over at its stop (R297, R305). -/
def granuleSent (s u : State) (t : Task) (a : Adm) (n : Nat) : Prop :=
  ∃ w, findTask u t.id = some w ∧ w.phase = .dispatched ∧ w.status = 0 ∧ w.pos = t.pos + 1 ∧ w.waits = t.waits + n ∧
    w.parked = decide (stageBase s t + (stageAt s t).n ≤ t.pos + 1) ∧
    (w.parked = false → t.pos + 1 < a.stop → u.eng = s.eng)

/-- The flag word is sent as it stands: no mismatch is held against the job (R346). -/
def flagKept (s : State) (t : Task) : Prop := (stageAt s t).kind ∈ [2, 5, 7] → s.rel.discards.contains t.job = false

/-- ALLREDUCE, granule by granule. What it sends to another device, in the contribute, ring and flag phases, is requested and
awaited; what is for its own share goes through its own adders; what it exchanges with a switch plane goes there as HOP
requests, and their answers are awaited (R297 to R299, R301). A FINITE word on another device is read first, the task parked
(R37, R297). In the distribute stage a chunk of the device's share is converted into slot 2, with its format and scale, and no
other byte (R297). A chunk of a multicast stage, of the gather, the distribute or a MULTICAST, goes to its member in order, as
far as the member's window reaches (R274, R275, R299, R304). The last granule of a stage parks the task (R305). -/
def reductionsSend : Prop :=
  (∀ (s : State) (t : Task) (a : Adm) (cycles : Nat) (b : Buck) (x : Nat × Nat × List (Nat × Nat) × List RaPkt),
    s.inSlice t a 1 cycles → t.cls = 6 → t.op = 1 → t.spec = false → s.tck.aborting.contains t.id = false →
    findBuck s t.job (bucketOf t) = some b → sendsOf s t b = some x → flagKept s t → needSpans s true x.2.2.1 = .ok →
    (x.1 ≠ devNum s → sendsTo s x.1 t.job x.2.2.2.length →
      ∃ u, exec (.allreduce t.id 1 cycles) s = .next u ∧ granuleSent s u t a x.2.2.2.length ∧
        (∀ p ∈ x.2.2.2, requests u t .contribute x.1
          (mkPacket x.1 0 (devNum s) p.op 0 false p.prom false t.job x.2.1 0 p.addr p.code p.data)) ∧
        u.mem = s.mem ∧ State.onlyChanges sendParts s u) ∧
    (x.1 = devNum s → (stageAt s t).kind ∈ [0, 7] → trackRoom s x.2.2.2.length = true →
      ∃ u v, exec (.allreduce t.id 1 cycles) s = .next u ∧ granuleSent s u t a 0 ∧ v.mem = s.mem ∧ v.lnk = s.lnk ∧
        u.mem = (x.2.2.2.foldl (fun y p => ownRa t x.2.1 p y) v).mem ∧
        u.lnk = (x.2.2.2.foldl (fun y p => ownRa t x.2.1 p y) v).lnk ∧ State.onlyChanges sendParts s u)) ∧
  (∀ (s : State) (t : Task) (a : Adm) (cycles : Nat) (b : Buck) (x : Nat × List (Nat × Nat) × List RaPkt),
    s.inSlice t a 1 cycles → t.cls = 6 → t.op = 1 → t.spec = false → s.tck.aborting.contains t.id = false →
    findBuck s t.job (bucketOf t) = some b → hopsOf s t b = some x → flagKept s t → needSpans s true x.2.1 = .ok →
    hopsTo s x.1 t.job x.2.2.length →
    ∃ u, exec (.allreduce t.id 1 cycles) s = .next u ∧ granuleSent s u t a x.2.2.length ∧
      (∀ p ∈ x.2.2, requests u t .exchange (devNum s)
        (mkPacket (devNum s) 0 (devNum s) p.op 0 false p.prom true t.job (bucketOf t) 0 p.addr p.code p.data)) ∧
      u.mem = s.mem ∧ State.onlyChanges sendParts s u) ∧
  (∀ (s : State) (t : Task) (a : Adm) (cycles : Nat) (b : Buck), s.inSlice t a 1 cycles → t.cls = 6 → t.op = 1 →
    findBuck s t.job (bucketOf t) = some b → (stageAt s t).kind = 0 → contribItem s t (t.pos - stageBase s t) = none →
    finiteFar s t = true → t.cap.length < 2 → sendsTo s (t.base.getD 3 0 / 2 ^ 50) t.job 1 →
    ∃ u w, exec (.allreduce t.id 1 cycles) s = .next u ∧ findTask u t.id = some w ∧ w.parked = true ∧ w.pos = t.pos ∧
      w.waits = t.waits + 1 ∧
      requests u t .finite (t.base.getD 3 0 / 2 ^ 50) (mkPacket (t.base.getD 3 0 / 2 ^ 50) 0 (devNum s) 1 0 false false false
        t.job 0 0 (slotAddr t 3 / 256 * 256) 1 []) ∧
      u.mem = s.mem ∧ State.onlyChanges sendParts s u) ∧
  (∀ (s : State) (t : Task) (a : Adm) (cycles : Nat) (b : Buck), s.inSlice t a 1 cycles → t.cls = 6 → t.op = 1 →
    t.spec = false → s.tck.aborting.contains t.id = false → findBuck s t.job (bucketOf t) = some b →
    (stageAt s t).kind = 6 →
    let i := t.pos - stageBase s t
    let c := i / max 1 (grpR t - 1)
    let ps := castPkts s t 6 c
    let len := (ps.map (·.len)).sum
    i % max 1 (grpR t - 1) = 0 → needSpans s true (stagedSpans b c) = .ok → writable s (convertChunk t s b c) →
    (grpR t ≤ 1 → castFull t s 6 c 0 = false → (t.members.getD 0 { dev := 0 }).part = 0 →
      ∃ u, exec (.allreduce t.id 1 cycles) s = .next u ∧ granuleSent s u t a 0 ∧ writesBuf s u (convertChunk t s b c) ∧
        State.onlyChanges sendParts s u) ∧
    (∀ m, 1 < grpR t → t.members[0]? = some m → m.detached = none → m.part = 0 → m.out + len ≤ castWindow →
      (∀ x ∈ s.ecc, x.2 < 2) → (∀ x ∈ s.cw, x.2 < 2) → (∀ x ∈ s.ls, x.2 < 2) →
      (∀ x ∈ ps, needSpans s true [(x.src, x.len)] = .ok) → sendsTo s m.dev t.job ps.length →
      ∃ u, exec (.allreduce t.id 1 cycles) s = .next u ∧ granuleSent s u t a ps.length ∧ writesBuf s u (convertChunk t s b c) ∧
        (∀ x ∈ ps, requests u t .mcast m.dev (mkPacket m.dev 0 (devNum s) 0x10 0 false false false t.job (castGroup t 6) 0
          x.dst 0 (memBytes u.mem x.src x.len))) ∧ State.onlyChanges sendParts s u)) ∧
  (∀ (s : State) (t : Task) (a : Adm) (cycles op kind : Nat) (c : Instr) (m : Member),
    (c, op, kind) ∈ [(Instr.multicast t.id 1 cycles, 2, 8), (.allreduce t.id 1 cycles, 1, 4), (.allreduce t.id 1 cycles, 1, 6)] →
    s.inSlice t a 1 cycles → t.cls = 6 → t.op = op → t.spec = false → s.tck.aborting.contains t.id = false →
    (stageAt s t).kind = kind → (op = 1 → ∃ b, findBuck s t.job (bucketOf t) = some b) →
    let n := if kind = 6 then max 1 (grpR t - 1) else t.members.length
    let i := t.pos - stageBase s t
    let r := i % n
    let ps := castPkts s t kind (i / n)
    let len := (ps.map (·.len)).sum
    (kind = 6 → r ≠ 0) → t.members[r]? = some m → m.detached = none → m.part = 0 → m.out + len ≤ castWindow →
    (∀ x ∈ ps, needSpans s true [(x.src, x.len)] = .ok) → sendsTo s m.dev t.job ps.length →
    ∃ u w, exec c s = .next u ∧ granuleSent s u t a ps.length ∧ findTask u t.id = some w ∧
      w.members = t.members.modify r (fun y => { y with out := y.out + len }) ∧
      (∀ x ∈ ps, requests u t .mcast m.dev (mkPacket m.dev 0 (devNum s) 0x10 0 false false false t.job (castGroup t kind) 0
        x.dst 0 (memBytes s.mem x.src x.len))) ∧ u.mem = s.mem ∧ State.onlyChanges sendParts s u)

/-- MOVE and REDUCE. COPY: a granule of a task with a local source reads its run of it; the write runs that the bytes read so far complete are
written to a local destination, after SWAP, a speculative task's provisionally (unspecified where source and destination
overlap, R205), and no other byte; the slice is over at its stop (R206 to R210). ARM writes the identity over its bucket's
staging, zeros over its scales and ones over both flag words, and its work is over (R296). From another device a granule's
request for its line is issued and awaited, to another device the write runs that are complete are (R206, R262). ALLREDUCE and
MULTICAST send their packets as `reductionsSend` says (R275, R297 to R305). -/
def Obligations.CopiesMoveBytesAndArmsWriteIdentity : Prop :=
  (∀ (s : State) (t : Task) (a : Adm) (cycles : Nat), s.inSlice t a 1 cycles → t.cls = 5 →
    srcFar s t = false → dstFar s t = false → s.tck.aborting.contains t.id = false →
    let i := t.pos
    let stop := min (movTotal t) t.sliceEnd
    let e := runEnd t (t.tensor 0) i stop 512 (i + 1)
    let z := movSpan t (t.tensor 0) (e - 1)
    let lo := (movSpan t (t.tensor 0) i).1
    let new := (List.range (e - i)).map (fun j => let p := movSpan t (t.tensor 0) (i + j); viewBytes s (some t) p.1 p.2)
    let src (q : Nat) : List Byte := (t.hold ++ new).getD (q - t.wpos) []
    let rs := doneRuns { t with pos := e, hold := t.hold ++ new } stop
    let w' := (rs.getLast?.map (·.2)).getD t.wpos
    let b := movBuf t t.wpos w' src
    needSpans s true [(lo, z.1 + z.2 - lo)] = .ok → provPoison s t [(lo, z.1 + z.2 - lo)] = none →
    (∀ r ∈ rs, t.spec = false → writable s (movBuf t r.1 r.2 src)) →
    ∃ u w, exec (.copy t.id 1 cycles) s = .next u ∧ findTask u t.id = some w ∧ w.phase = .dispatched ∧ w.pos = e ∧ w.wpos = w' ∧
      w.detail = word (movBytes t w') ∧ (overlapped t = false → wrote s u t b) ∧
      (t.spec = false → s.Inv → ∀ x, mfind b x = none → memGet u.mem x = memGet s.mem x) ∧
      (e < a.stop → u.eng = s.eng) ∧
      (a.stop ≤ e → getEng u t.eng = { getEng s t.eng with queue := (getEng s t.eng).queue.drop 1, started := false }) ∧
      State.onlyChanges (writeParts ++ [.tck, .eng]) s u) ∧
  (∀ (s : State) (t : Task) (a : Adm) (cycles : Nat) (b : Buck), s.inSlice t a 1 cycles → t.cls = 6 → t.op = 0 → t.pos = 0 →
    a.stop = 1 → t.direct = none → s.tck.aborting.contains t.id = false → findBuck s t.job (bucketOf t) = some b →
    let ws := [(b.base, identity b)] ++
      (if (t.tensor 1).scaled then [(b.sbase, List.replicate (t.tensor 1).scaleBytes 0)] else []) ++
      [(slotAddr t 4, toLe 8 (2 ^ 64 - 1)), (slotAddr t 5, toLe 8 (2 ^ 64 - 1))]
    needLines s false (ws.flatMap (fun w => linesOf w.1 w.2.length)) = .ok →
    ∃ u w, exec (.redArm t.id 1 cycles) s = .next u ∧ findTask u t.id = some w ∧ w.phase = .complete ∧ w.status = 1 ∧
      u.mem = ws.foldl (fun m x => memStore m x.1 x.2) s.mem ∧
      State.onlyChanges (writeParts ++ [.tck, .eng]) s u) ∧
  (∀ (s : State) (t : Task) (a : Adm) (cycles : Nat), s.inSlice t a 1 cycles → t.cls = 5 → t.spec = false →
    let stop := min (movTotal t) t.sliceEnd
    let e := runEnd t (t.tensor 0) t.pos stop 512 (t.pos + 1)
    let z := movSpan t (t.tensor 0) (e - 1)
    let lo := (movSpan t (t.tensor 0) t.pos).1
    let new := (List.range (e - t.pos)).map (fun j => let p := movSpan t (t.tensor 0) (t.pos + j); memBytes s.mem p.1 p.2)
    let rs := doneRuns { t with pos := e, hold := t.hold ++ new } stop
    let bytes (r : Nat × Nat) : List Byte :=
      (List.range (r.2 - r.1)).flatMap (fun j => swapped t (r.1 + j) ((t.hold ++ new).getD (r.1 + j - t.wpos) []))
    e < a.stop → a.stop ≤ movTotal t →
    (srcFar s t = true → t.waits < 8192 → sendsTo s (srcDev t) t.job 1 →
      ∃ u w, exec (.copy t.id 1 cycles) s = .next u ∧ findTask u t.id = some w ∧ w.pos = e ∧ w.waits = t.waits + 1 ∧
        requests u t .moveRead (srcDev t)
          (mkPacket (srcDev t) 0 (devNum s) 1 0 false false false t.job 0 0 (lo / 256 * 256) 1 []) ∧
        u.mem = s.mem ∧ State.onlyChanges sendParts s u) ∧
    (srcFar s t = false → dstFar s t = true → needSpans s true [(lo, z.1 + z.2 - lo)] = .ok →
      sendsTo s (dstDev t) t.job rs.length →
      ∃ u w, exec (.copy t.id 1 cycles) s = .next u ∧ findTask u t.id = some w ∧ w.pos = e ∧
        w.wpos = (rs.getLast?.map (·.2)).getD t.wpos ∧ w.waits = t.waits + rs.length ∧
        (∀ r ∈ rs, requests u t .moveWrite (dstDev t) (mkPacket (dstDev t) 0 (devNum s) 3 0 false false false t.job 0 0
          (movSpan t (t.tensor 1) r.1).1 0 (bytes r))) ∧
        u.mem = s.mem ∧ State.onlyChanges sendParts s u)) ∧
  reductionsSend

/-! ### The tick, jobs and aborts -/

/-- The state in which phase E1 of a boundary finds the machine: past phases M and S and what goes on in the background. -/
def atOutcomes (s : State) : State := allEngines.foldl (fun u e => phaseS e u) (background (phaseM s))

/-- The state in which phase A finds it: past E1 to E5. -/
def atAdmission (s : State) : State :=
  freshWaits (hbmBoundary (phaseE5 s.tck.num (powerDecision (phaseE3 (phaseE2 (outcomes (atOutcomes s)))))))

/-- The loss entries that name the group of a DECIDE. -/
def lossEntries (s : State) (d : Task) : List (Nat × SkimEnt) :=
  s.skm.ents.filter (fun x => bit x.2.cfg 16 && bit x.2.cfg 17 && fld x.2.cfg 15 0 == d.job && fld x.2.param 15 0 == d.gid)

/-- E1, of one evaluated DECIDE with its outcome: it and the held members of its use are gone, and so are the use's provisional
lines and no other's; their records say COMMITTED or DISCARDED; on a commit the lines' bytes stand at their targets and the
members' pushes in their queues, and their layers have their sums; on a discard nothing of the three is changed (R65, R154). The
loss entry that names the group steps by R147: a discard lowers L by DOWN, not below LS_MIN, and starts GOOD again; a commit
raises GOOD, and at GROWTH raises L by UP, not above LS_MAX, and starts GOOD again. -/
def outcomesTakeEffect : Prop :=
  (∀ (u : State) (d : Task) (commit : Bool), u.tasks.filter (fun x => x.phase == .evaluated) = [d] →
    d.outcome = some commit → (u.tasks.map (·.id)).Nodup →
    let ms := heldMembers u d.job d.gid d.use
    let mine (p : ProvLine) : Prop := p.job = d.job ∧ p.gid = d.gid ∧ p.use = d.use
    let t := outcomes u
    findTask t d.id = none ∧ (∀ m ∈ ms, findTask t m.id = none) ∧ (∀ p ∈ t.prov, ¬ mine p) ∧
    (commit = false → t.layers = u.layers) ∧
    (u.Inv → lossEntries u d = [] → ((d :: ms).map (·.completion)).Nodup → (∀ x ∈ d :: ms, x.completion % 64 = 0) →
      (∀ m ∈ ms, access u m.completion = .ok → m.status < 256 →
        fld (memWord t.mem m.completion) 9 8 = (if commit then 2 else 3) ∧ fld (memWord t.mem m.completion) 7 0 = m.status) ∧
      (access u d.completion = .ok → ∀ i < 8, memWord t.mem (d.completion + 8 * i) = (recordWords u d 0).getD i 0) ∧
      (∀ a, (∀ x ∈ d :: ms, a < x.completion ∨ x.completion + 64 ≤ a) →
        (commit = false → memGet t.mem a = memGet u.mem a) ∧
        (commit = true → (∀ p ∈ u.prov, mine p → p.line ≠ lineOf a) → memGet t.mem a = memGet u.mem a) ∧
        (commit = true → ∀ p ∈ u.prov, mine p → p.line = lineOf a → (∀ q ∈ u.prov, mine q → q.line = p.line → q = p) →
          ∀ b, p.bytes.find? (fun x => x.1 == a % 256) = some b → memGet t.mem a = b.2.2)))) ∧
  (∀ (u : State) (d m : Task) (commit : Bool), u.tasks.filter (fun x => x.phase == .evaluated) = [d] →
    d.outcome = some commit → heldMembers u d.job d.gid d.use = [m] → m.status = 1 → d.resv = [] →
    let t := outcomes u
    ((m.resv.map (·.1)).Nodup → (∀ r ∈ m.resv, pointersAgree u r.1) → ∀ r ∈ m.resv,
      (getQueue t r.1).items = (if commit then (getQueue u r.1).items ++ [word (m.eye.getD r.2 0)] else (getQueue u r.1).items) ∧
      (getQueue t r.1).rsvd = (getQueue u r.1).rsvd - 1) ∧
    (commit = true → ∃ v, v.layers = u.layers ∧ getReg v chnPage 0x200 = getReg u chnPage 0x200 ∧
      t.layers = (contribute m v).layers)) ∧
  (∀ (u : State) (d : Task) (commit : Bool) (e : Nat), u.tasks.filter (fun x => x.phase == .evaluated) = [d] →
    d.outcome = some commit → lossEntries u d = [(e, getEnt u e)] →
    let x := getEnt u e
    let y := getEnt (outcomes u) e
    let l := fld x.st 6 0
    let good := fld x.st 31 16
    let growth := fld x.param 31 16
    y.cfg = x.cfg ∧ y.param = x.param ∧
    (commit = false → y.st = word (max (fld x.param 38 32) (l - fld x.param 54 52))) ∧
    (commit = true → growth ≤ good + 1 → y.st = word (min (fld x.param 46 40) (l + fld x.param 50 48))) ∧
    (commit = true → good + 1 < growth → y.st = word (l + (good + 1) * 2 ^ 16)))

/-- E2: with no map-out begun nothing changes; a map-out in hand takes its block out, ends what is dispatched on its engines with
ENGINE_FAULT, and moves each job whose mapping in effect used one of them to its lowest usable mapping; a job without one keeps
its mapping, and NO_MAP is set (R183, R355). -/
def mapOutsSwap : Prop :=
  (∀ u : State, mapAtE2 u = none → phaseE2 u = u) ∧
  (∀ (u : State) (code inst : Nat), mapAtE2 u = some (code, inst) → (getBlk u (codePage code inst)).mappedOut = false →
    let es := enginesOf code inst
    let t := phaseE2 u
    (getBlk t (codePage code inst)).mappedOut = true ∧
    ((u.tasks.map (·.id)).Nodup → ∀ x ∈ u.tasks, es.contains x.eng = true → x.phase = .dispatched → x.status = 0 →
      x.direct = none → u.tck.aborting.contains x.id = false →
      ∃ w, findTask t x.id = some w ∧ w.phase = .complete ∧ w.status = 9) ∧
    (∀ i < 32, mapHit u es i = false → getSlot t i = getSlot u i) ∧
    (∀ i < 32, mapHit u es i = true → (getSlot u i).active = true →
      (∀ m, (List.range 4).find? (fun m => mapUsable t i m) = some m →
        (getSlot t i).mapAck = m ∧ (getSlot t i).noMap = false) ∧
      ((List.range 4).find? (fun m => mapUsable t i m) = none →
        (getSlot t i).mapAck = (getSlot u i).mapAck ∧ (getSlot t i).noMap = true ∧ bit (getReg t tckPage 0x20) 13 = true)))

/-- A: an engine's slices are taken from the candidates in R173's order, none that does not fit the budget but a first one alone
against the whole budget; with its contexts full an engine takes nothing new; the first candidate that fits and may start is the
first slice. The owner of an engine is the ready job of the largest credit, which pays the sum of the ready jobs' weights
(R173, R178, R179, R319). -/
def admissionFollows : Prop :=
  (∀ (u : State) (e budget : Nat) (full tests : Bool),
    let order := candOrder u e (getEng u e).owner tests
    let a := admitWith u e budget full tests
    (a.big = 0 → ∃ cs : List (Task × Cand), cs.Sublist order ∧ a.queue.map (·.task) = cs.map (·.1.id) ∧ (cs.map (sliceCharge e)).sum ≤ budget) ∧
    (a.big ≠ 0 → full = true ∧ ∃ c ∈ order, a.queue.map (·.task) = [c.1.id] ∧ budget < sliceCharge e c) ∧
    (ctxMax e ≤ (getEng u e).ctx.length → (∀ c ∈ order, c.2 ≠ .ctx) → a.queue = []) ∧
    (∀ c rest, order = c :: rest → sliceCharge e c ≤ budget → c.2 = .ctx ∨ c.2 = .run ∧ (getEng u e).ctx.length < ctxMax e →
      (a.queue.map (·.task)).head? = some c.1.id)) ∧
  (∀ (u : State) (e : Nat), ladleDirect u e = false →
    let v := stealTick e (chooseOwner e u)
    let t := admitTick e u
    (getEng t e).queue = (admitWith v e (engBudget v e) true (getEng v e).stolen).queue ∧
    (∀ f, f ≠ e → f ≠ stealKey e → getEng t f = getEng u f)) ∧
  (∀ (u : State) (e : Nat),
    let mhz := if e < 20 then u.tck.mclk else u.tck.fclk
    let b := (100 * regFld u tckPage 0x200 6 0 - regFld u tckPage 0x200 23 16) * mhz / 100
    engBudget u e = (if e ≤ 0x30 then b * u.pwr.duty / 16 else b)) ∧
  (∀ (u : State) (e : Nat), readyJobs u e ≠ [] →
    let g := getEng u e
    let grown (j : Nat) : Int := mget g.credit j 0 + (weightOf u j : Int)
    let h := getEng (chooseOwner e u) e
    ∃ o ∈ readyJobs u e, h.owner = some o ∧ (∀ j ∈ readyJobs u e, grown j ≤ grown o) ∧
      mget h.credit o 0 = grown o - (((readyJobs u e).map (weightOf u)).sum : Nat) ∧
      (∀ j ∈ readyJobs u e, j ≠ o → mget h.credit j 0 = grown j))

/-- A tick boundary advances TICK_NUM by one and runs its phases in the order of Table 6.3 (R176): the outcomes of groups, the
map-outs, the tick's configuration, power, the jobs and admission, each as stated for it; and no slice of an engine other than a Ladle engine, whose
direct transfers run on (R202), stands begun after it; in fail-quiet the tick still counts and no task, queue or byte of
memory changes. A rerun admits to an engine that has finished its slices from the cycles left less the guard, by the
compute duty (R173, R319); SUSPEND_DRAIN_DONE ends the engine's drain, and frees the contexts of tasks under abort (R169,
R175). -/
def Obligations.BoundaryCountsTheTick : Prop :=
  (∀ s : State, s.sys.released = true → (getBlk s tckPage).ready = true →
    ∃ t, exec .tickBoundary s = .next t ∧ t.tck.num = s.tck.num + 1 ∧
      (running s = true → t = doorRetry (stealNotice (allEngines.foldl (fun u e => admitTick e u) (atAdmission s)))) ∧
      (running s = true → ∀ e ∈ allEngines, isLadle e = false → (getEng t e).started = false) ∧
      (running s = false → s.sec.door = none ∨ s.sec.doorResp = none →
        State.onlyChanges [.out, .regs, .cnt, .tck, .act, .pwr, .clk, .mtr, .sec, .sys, .free] s t)) ∧
  (∀ (s : State) (e : Engine) (left : Nat), (getEng s (engNo e)).fresh = false → (getEng s (engNo e)).queue = [] →
    (getEng s (engNo e)).draining = false → running s = true → ladleDirect s (engNo e) = false →
    let mhz := if engNo e < 20 then s.tck.mclk else s.tck.fclk
    let budget := dutyOf s (engNo e) (min left (regFld s tckPage 0x200 6 0 * mhz) - regFld s tckPage 0x200 23 16 * mhz / 100)
    ∃ t, exec (.admissionRerun e left) s = .next t ∧
      (getEng t (engNo e)).queue = (admitWith s (engNo e) budget false (getEng s (engNo e)).stolen).queue ∧
      (getEng t (engNo e)).started = false ∧ (∀ f, f ≠ engNo e → getEng t f = getEng s f) ∧
      State.onlyChanges [.cnt, .tasks, .eng] s t) ∧
  (∀ (s : State) (e : Engine), (∀ id ∈ (getEng s (engNo e)).ctx, s.tck.aborting.contains id = false) → ∃ t, exec (.suspendDrainDone e) s = .next t ∧
      getEng t (engNo e) = { getEng s (engNo e) with draining := false } ∧ (∀ f, f ≠ engNo e → getEng t f = getEng s f) ∧
      State.onlyChanges [.eng] s t) ∧
  (∀ (s : State) (e : Engine) (u : Task), u.id ∈ (getEng s (engNo e)).ctx → s.tck.aborting.contains u.id = true →
    findTask s u.id = some u → u.direct = none →
    ∃ t w, exec (.suspendDrainDone e) s = .next t ∧ findTask t u.id = some w ∧ w.phase = .complete ∧ w.status = 2) ∧
  outcomesTakeEffect ∧ mapOutsSwap ∧ admissionFollows

/-- TICK_CFG: a value in range is staged with TICK_AT's tick, another is discarded with CFG_RANGE (R161). TICK_SRC: with
no source the alignment is FREE; a source chosen from FREE starts ACQUIRE (R163). A mark on TICK_IN in ACQUIRE counts as
good within LOCK and starts the count again beyond it, the eighth good mark in a row locking to TRACK; in TRACK one more
than 1,000 ns off goes back to ACQUIRE (R162, R163). A TRACK that misses HOLD ticks goes to HOLDOVER with its error. At phase E3
a staged value whose tick has come is TICK_CFG, and another one stays staged (R161, Table 6.3). -/
def Obligations.TickIsConfiguredAndAligned : Prop :=
  (∀ (u : State) (v : Word) (at_ : Nat), u.tck.staged = some (v, at_) →
    let t := phaseE3 u
    (at_ ≤ u.tck.num → getReg t tckPage 0x200 = v ∧ t.tck.staged = none) ∧
    (u.tck.num < at_ → getReg t tckPage 0x200 = getReg u tckPage 0x200 ∧ t.tck.staged = some (v, at_)) ∧
    State.onlyChanges [.regs, .tck] u t) ∧
  (∀ (s : State) (who : Initiator) (v : Word), s.admits who tckPage 0x200 v = true → 4 ≤ fld v 6 0 → fld v 6 0 ≤ 64 →
    20 ≤ fld v 23 16 → fld v 23 16 ≤ 200 →
    ∃ t, exec (.tickCfgWrite who v) s = .next t ∧ t.tck.staged = some (v, (getReg s tckPage 0x208).toNat) ∧
      t.tck.num = s.tck.num ∧ State.onlyChanges [.tck] s t) ∧
  (∀ (s : State) (who : Initiator) (v : Word), s.admits who tckPage 0x200 v = true →
    fld v 6 0 < 4 ∨ 64 < fld v 6 0 ∨ fld v 23 16 < 20 ∨ 200 < fld v 23 16 →
    ∃ t, exec (.tickCfgWrite who v) s = .next t ∧ raisedAt s t tckPage 8 0x200 ∧ State.onlyChanges [.regs, .out, .sys] s t) ∧
  (∀ (s : State) (who : Initiator) (v : Word), s.admits who tckPage 0x218 v = true →
    ∃ t, exec (.tickSrcWrite who v) s = .next t ∧ regFld t tckPage 0x218 1 0 = fld v 1 0 ∧
      (fld v 1 0 = 0 ∨ fld v 1 0 = 3 → t.tck.align = 0) ∧
      (fld v 1 0 = 1 ∨ fld v 1 0 = 2 → t.tck.align = if s.tck.align = 0 then 1 else s.tck.align) ∧
      t.tck.num = s.tck.num ∧ State.onlyChanges [.out, .regs, .tck, .sys] s t) ∧
  (∀ (s : State) (off : Int), s.sys.released = true → tickSrc s = 1 → s.tck.align = 1 →
    let good := if off.natAbs ≤ regFld s tckPage 0x218 23 16 * 10 then s.tck.good + 1 else 0
    ∃ t, exec (.tickIn off) s = .next t ∧ t.tck.offset = off ∧ t.tck.missed = 0 ∧
      t.tck.align = (if 8 ≤ good then 2 else 1) ∧ t.tck.good = (if 8 ≤ good then 0 else good) ∧ t.tck.num = s.tck.num ∧
      State.onlyChanges [.out, .regs, .tck, .sys] s t) ∧
  (∀ (s : State) (off : Int), s.sys.released = true → tickSrc s = 1 → s.tck.align = 2 →
    ∃ t, exec (.tickIn off) s = .next t ∧ t.tck.offset = off ∧ t.tck.missed = 0 ∧
      t.tck.align = (if 1000 < off.natAbs then 1 else 2) ∧
      (off.natAbs ≤ 1000 → 10 ≤ off.natAbs → t.tck.adjust = if 0 < off then 1 else -1) ∧ t.tck.num = s.tck.num ∧
      State.onlyChanges [.out, .regs, .cnt, .tck, .sys] s t) ∧
  (∀ s : State, s.tck.align = 2 → max 1 (regFld s tckPage 0x218 31 24) ≤ s.tck.missed →
    ∃ t, exec .alignHoldover s = .next t ∧ t.tck.align = 3 ∧ bit (getReg t tckPage 0x20) 12 = true ∧
      bit (getReg t tckPage 0x38) 4 = true ∧ State.onlyChanges [.out, .regs, .tck, .sys] s t)

/-- E5 (R167, R168, R182, R383, R424). A staged write of a slot is refused with SLOT_BAD when its reserved WIDE code, a JOB of 0 or
of another open slot, or a slot not free stands against it; else it opens the slot, changes the open job's fields but not its
JOB, or closes it. A closing slot none of whose tasks is held any more is free, and the job's link keys are erased. A mapping
request is granted once no task of the old mapping holds, refused when its mapping is not usable, and waits otherwise. A staged
link key whose tick has come is the job's key, the one before it good for this tick, and no longer at the next boundary. What
waits for dispatch in a job that is not open to it ends with JOB_CLOSED. -/
def jobTableApplies : Prop :=
  (∀ (u : State) (i : Nat) (v : Word), (getSlot u i).staged = some v → (getSlot u i).closing = false →
    let j := getSlot u i
    let t := slotE5 u i
    let kept := setFld v 15 0 (fld j.w0 15 0)
    (getSlot t i).staged = none ∧ (∀ k, k ≠ i → getSlot t k = getSlot u k) ∧
    (slotRefused u i v = true → bit (getReg t tckPage 0x20) 9 = true ∧ (getSlot t i).w0 = j.w0 ∧ (getSlot t i).active = j.active ∧
      (getSlot t i).closing = false) ∧
    (slotRefused u i v = false → bit v 16 = true → (getSlot t i).w0 = v ∧ (getSlot t i).active = true ∧
      (getSlot t i).closing = false ∧
      (j.active = false → (getSlot t i).mapAck = 0 ∧ (getSlot t i).overruns = 0 ∧
        ∀ e, mget (getEng t e).credit (fld v 15 0) 0 = 0)) ∧
    (slotRefused u i v = false → bit v 16 = false → (getSlot t i).active = false ∧
      (getSlot t i).closing = j.active ∧ (getSlot t i).w0 = (if j.active then kept else v))) ∧
  (∀ (u : State) (i : Nat) (v : Word), slotRefused u i v = true ↔
    fld v 18 17 = 3 ∨ bit v 16 = true ∧ (fld v 15 0 = 0 ∨
      (∃ k < 32, k ≠ i ∧ (getSlot u k).active = true ∧ fld (getSlot u k).w0 15 0 = fld v 15 0) ∨
      (getSlot u i).closing = true ∨ (getSlot u i).active = true ∧ fld (getSlot u i).w0 15 0 ≠ fld v 15 0)) ∧
  (∀ (u : State) (i : Nat), (getSlot u i).closing = true → (getSlot u i).staged = none →
    let job := fld (getSlot u i).w0 15 0
    (jobHolds u job = true → slotE5 u i = u) ∧
    (jobHolds u job = false → getSlot (slotE5 u i) i = { getSlot u i with closing := false, mapAck := 0, noMap := false } ∧
      mfind (slotE5 u i).keys job = none ∧ (∀ k, k ≠ job → mfind (slotE5 u i).keys k = mfind u.keys k) ∧
      (∀ b ∈ (slotE5 u i).lnk.bucks, b.job ≠ job))) ∧
  (∀ (u : State) (i : Nat), (getSlot u i).active = true → (getSlot u i).mapReq = true →
    let j := getSlot u i
    let m := fld j.w0 33 32
    let holds := u.tasks.any (fun x => inMap u i j.mapAck x.cq && x.phase != .accepted && x.phase != .waiting)
    (mapUsable u i m = false → getSlot (slotMap u i) i = { j with noMap := true, mapReq := false }) ∧
    (mapUsable u i m = true → holds = true → slotMap u i = u) ∧
    (mapUsable u i m = true → holds = false →
      getSlot (slotMap u i) i = { j with mapAck := m, mapReq := false, noMap := false })) ∧
  (∀ (closed : Nat) (u : State) (job : Nat) (k : LinkKey), mfind u.keys job = some k →
    (∀ i < 32, (getSlot u i).closing = true → fld (getSlot u i).w0 15 0 ≠ job) →
    let t := phaseE5 closed u
    (∀ key tick, k.staged = some (key, tick) → jobOpen t job = true →
      mfind t.keys job = some (if u.tck.num < tick then k
        else { cur := some key, old := k.cur, oldTick := u.tck.num, staged := none, nonce := 1 })) ∧
    (k.staged ≠ none → jobOpen t job = false → mfind t.keys job = some { k with staged := none }) ∧
    (k.staged = none → mfind t.keys job = some (if k.oldTick < u.tck.num then { k with old := none } else k))) ∧
  (∀ u : State, (u.tasks.map (·.id)).Nodup →
    ∀ x ∈ u.tasks, x.phase = .waiting → jobShut u x = true → u.tck.aborting.contains x.id = false → x.direct = none →
      ∃ w, findTask (closeWaits u) x.id = some w ∧ w.phase = .complete ∧ w.status = 7)

/-- CQ_BIND: a binding of an idle queue to an engine, within its pool's count, takes effect; a queue that holds a task
keeps its binding and CQ_BUSY is set; only the Last binds the device's own queues from outside (R164 to R166, R185). The
device binds an unbound own queue and unbinds an idle one. A job slot's write is staged until the boundary (R167), at whose
phase E5 the job table, the mapping requests and the link keys change. -/
def Obligations.BindingsTakeEffectOnIdleQueues : Prop :=
  (∀ (s : State) (who : Initiator) (cq : Fin 256) (v : Word), s.admits who tck1Page (0x1000 + 8 * cq.val) v = true →
    cq.val < 248 ∨ who = .last → (bit v 8 = true → (engOfTarget (fld v 7 0) cq.val).isSome = true) →
    cqBusy s cq.val = false → resSum s cq.val v (fld v 23 18) ≤ poolCount s (fld v 23 18) →
    ∃ t, exec (.cqBindWrite who cq v) s = .next t ∧ cqBind t cq.val = v ∧
      (∀ c, c < 256 → c ≠ cq.val → cqBind t c = cqBind s c) ∧ State.onlyChanges [.regs] s t) ∧
  (∀ (s : State) (who : Initiator) (cq : Fin 256) (v : Word), s.admits who tck1Page (0x1000 + 8 * cq.val) v = true →
    cq.val < 248 ∨ who = .last → (bit v 8 = true → (engOfTarget (fld v 7 0) cq.val).isSome = true) →
    cqBusy s cq.val = true → fld v 7 0 ≠ fld (cqBind s cq.val) 7 0 →
    ∃ t, exec (.cqBindWrite who cq v) s = .next t ∧ raisedAt s t tck1Page 10 (0x1000 + 8 * cq.val) ∧
      cqBind t cq.val = cqBind s cq.val ∧ State.onlyChanges [.regs, .out, .sys] s t) ∧
  (∀ (s : State) (who : Initiator) (cq : Fin 256) (v : Word), s.admits who tck1Page (0x1000 + 8 * cq.val) v = true →
    248 ≤ cq.val → who ≠ .last →
    ∃ t, exec (.cqBindWrite who cq v) s = .next t ∧ raisedAt s t tck1Page 3 (0x1000 + 8 * cq.val) ∧
      cqBind t cq.val = cqBind s cq.val ∧ State.onlyChanges [.regs, .out, .sys] s t) ∧
  (∀ (s : State) (cq target : Fin 256), 248 ≤ cq.val → cobblerUp s = true → fld (cqBind s cq.val) 8 0 = 0xFF →
    (engOfTarget target.val cq.val).isSome = true → cqBusy s cq.val = false →
    resSum s cq.val (word (target.val + 256)) 0 ≤ poolCount s 0 →
    ∃ t, exec (.ownQueueBind cq target) s = .next t ∧ cqBind t cq.val = word (target.val + 256) ∧
      (∀ c, c < 256 → c ≠ cq.val → cqBind t c = cqBind s c) ∧ State.onlyChanges [.regs] s t) ∧
  (∀ (s : State) (cq : Fin 256), 248 ≤ cq.val → cqBusy s cq.val = false →
    ∃ t, exec (.ownQueueUnbind cq) s = .next t ∧ cqBind t cq.val = 0xFF ∧
      (∀ c, c < 256 → c ≠ cq.val → cqBind t c = cqBind s c) ∧ State.onlyChanges [.regs] s t) ∧
  (∀ (s : State) (who : Initiator) (slot : Fin 32) (v : Word), s.admits who tckPage (0x1000 + 16 * slot.val) v = true →
    ∃ t, exec (.jobSlotWrite who slot v) s = .next t ∧ getSlot t slot.val = { getSlot s slot.val with staged := some v } ∧
      (∀ i, i ≠ slot.val → getSlot t i = getSlot s i) ∧ State.onlyChanges [.tck] s t) ∧
  jobTableApplies

/-- An abort of a task that waits for dispatch ends it with ABORTED, and of a job every such task of the job, no task of
another job changing; ABORT_STS is busy until every task reached has its record (R59, R169). A job whose slot has stalled
for the limit's ticks is reported: the error and the interrupt are set, and the oldest of its waiting tasks is captured
with its slot, queue and tick, unless an earlier capture stands (R186). -/
def Obligations.AbortsAndMissingProgress : Prop :=
  (∀ (s : State) (who : Initiator) (v : Word) (u : Task), s.admits who tckPage 0x238 (setFld v 17 16 2) = true →
    s.tck.abortBusy = false →
    s.tasks.find? (fun t => (t.job == fld v 15 0 && t.completion == regFld s tckPage 0x240 49 0 && t.direct.isNone) &&
      t.phase != .held) = some u →
    findTask s u.id = some u → u.phase = .accepted ∨ u.phase = .waiting →
    ∃ t w, exec (.abortTask who v) s = .next t ∧ findTask t u.id = some w ∧ w.phase = .complete ∧ w.status = 2 ∧
      w.desc = u.desc ∧ t.tck.abortBusy = true ∧ t.tck.abortResp = 1 ∧ u.id ∈ t.tck.aborting ∧
      State.onlyChanges [.regs, .tasks, .eng, .tck] s t) ∧
  (∀ (s : State) (who : Initiator) (v : Word), s.admits who tckPage 0x238 (setFld v 17 16 3) = true →
    s.tck.abortBusy = false → (s.tasks.map (·.id)).Nodup → (∀ u ∈ s.tasks, u.id < s.nextTask) →
    ∃ t, exec (.abortJob who v) s = .next t ∧ t.tck.abortBusy = true ∧
      (∀ u ∈ s.tasks, u.job = fld v 15 0 → u.phase = .accepted ∨ u.phase = .waiting → u.direct = none →
        ∃ w, findTask t u.id = some w ∧ w.phase = .complete ∧ w.status = 2 ∧ u.id ∈ t.tck.aborting) ∧
      (∀ u ∈ s.tasks, u.job ≠ fld v 15 0 → findTask t u.id = some u)) ∧
  (∀ s : State, s.tck.abortBusy = true → s.tck.aborting = [] →
    ∃ t, exec .abortDone s = .next t ∧ t.tck.abortBusy = false ∧ t.tck.abortResp = s.tck.abortResp ∧
      bit (getReg t tckPage 0x38) 2 = true ∧ State.onlyChanges [.out, .regs, .tck, .sys] s t) ∧
  (∀ (s : State) (slot : Fin 32) (u : Task), regFld s tckPage 0x250 15 0 ≠ 0 → (getSlot s slot.val).active = true →
    regFld s tckPage 0x250 15 0 ≤ mget s.tck.noprog slot.val 0 →
    s.tasks.find? (fun t => t.job == fld (getSlot s slot.val).w0 15 0 && (t.phase == .waiting || t.phase == .accepted)) = some u →
    ∃ t, exec (.noprog slot) s = .next t ∧ bit (getReg t tckPage 0x20) 11 = true ∧ bit (getReg t tckPage 0x38) 3 = true ∧
      (regBit s tckPage 0x258 5 = true → getReg t tckPage 0x258 = getReg s tckPage 0x258) ∧
      (regBit s tckPage 0x258 5 = false → regFld t tckPage 0x258 4 0 = slot.val ∧ regBit t tckPage 0x258 5 = true ∧
        regFld t tckPage 0x258 15 8 = u.cq % 256 ∧ regFld t tckPage 0x258 63 32 = tickLo s) ∧
      State.onlyChanges [.out, .regs, .cnt, .tck, .sys] s t)

/-! ### Matrix arrays -/

/-- MODE takes effect on an array at rest and clears the counters of its page 2; on one that works or holds a context it
is discarded (R72). SWAP_CTL arms the swap of each unit named that is not in AUTO, or holds the ARM until its load is
ready; a ready load has written the next tile into the insole bank and arms by AUTO or a held ARM, and a tile whose words the
local store cannot correct ends its task with ENGINE_FAULT (R96); a chained load starts behind the front; a pass that starts
armed with its tile swaps the unit's banks (R76, R77), and one without it, or at a keeper still climbing, waits (R94). The
current keeper takes one step down when the gap is long enough for it, and one step up towards a real row, the gap's cycles
counted as dummy rows of the unit's last job (R93 to R95). A stall beyond the limit is kept as the band's or column group's and
interrupts; one that is over is not (R96). A row word of a bank at rest takes four cells, which stand in the active bank at
once; those of the insole bank become a ready load with the last word of its last row (R76); on an array that works the word is
discarded (R97). -/
def Obligations.ArrayModesBanksAndKeeper : Prop :=
  (∀ (s : State) (who : Initiator) (n : Fin 4) (v : Word), s.admits who (ap n.val 0) 0x200 v = true →
    work s (ap n.val 0) = false → (∀ e ∈ arrEngines n.val, (getEng s e).ctx = []) → bit v 0 ≠ quadMode s n.val →
    ∃ t, exec (.arrayModeWrite who n v) s = .next t ∧ quadMode t n.val = bit v 0 ∧
      (∀ i < 32, mget t.cnt (ap n.val 2 * 32 + i) 0 = 0) ∧ (∀ k, k / 32 ≠ ap n.val 2 → mget t.cnt k 0 = mget s.cnt k 0) ∧
      State.onlyChanges [.regs, .cnt, .arr] s t) ∧
  (∀ (s : State) (who : Initiator) (n : Fin 4) (v : Word), s.admits who (ap n.val 0) 0x200 v = true →
    work s (ap n.val 0) = true ∨ (∃ e ∈ arrEngines n.val, (getEng s e).ctx ≠ []) →
    ∃ t, exec (.arrayModeWrite who n v) s = .next t ∧ raisedAt s t (ap n.val 0) 8 0x200 ∧
      quadMode t n.val = quadMode s n.val ∧ State.onlyChanges [.regs, .out, .sys] s t) ∧
  (∀ (s : State) (who : Initiator) (n : Fin 4) (v : Word), s.admits who (ap n.val 0) 0x208 v = true →
    ∃ t, exec (.swapArm who n v) s = .next t ∧
      (∀ q < 4, bit v q = true → bit v (4 + q) = false → unitIn s n.val q = true →
        getUnit t n.val q = (if (getUnit s n.val q).ready then { getUnit s n.val q with armed := true }
          else { getUnit s n.val q with armHeld := true })) ∧
      (∀ q, bit v q = false ∨ bit v (4 + q) = true ∨ 4 ≤ q ∨ unitIn s n.val q = false → getUnit t n.val q = getUnit s n.val q) ∧
      State.onlyChanges [.regs, .arr] s t) ∧
  (∀ (s : State) (n q : Fin 4), unitIn s n.val q.val = true →
    let v := getUnit s n.val q.val
    let arm := swapAuto s n.val q.val || v.armHeld || v.armed
    let done (load : Option (Nat × Nat)) : Sys2Proof.Machine.Unit :=
      { v with ready := true, chained := false, armed := arm, armHeld := false, front := false, insole := false, load := load }
    (nextTile s n.val q.val = none → ∃ t, exec (.loadReady n q) s = .next t ∧
      getUnit t n.val q.val = (if v.ready then v else done none) ∧ State.onlyChanges [.arr] s t) ∧
    (∀ x u, nextTile s n.val q.val = some (x, u) →
      (v.ready = true → v.insole = true ∨ v.load = some (x.id, u) → exec (.loadReady n q) s = .next s) ∧
      (v.ready = false ∨ v.insole = false ∧ v.load ≠ some (x.id, u) →
        (s.ls = [] → ∃ t, exec (.loadReady n q) s = .next t ∧ getUnit t n.val q.val = done (some (x.id, u)) ∧
          (∀ m r, m ≠ n.val ∨ r ≠ q.val → getUnit t m r = getUnit s m r) ∧
          (∀ p ∈ unitQuads (isQuad x) q.val, mget (getArr t n.val).banks (bankKey (!v.bank) p) [] = tilePart x s u p) ∧
          (∀ p < 4, mget (getArr t n.val).banks (bankKey v.bank p) [] = mget (getArr s n.val).banks (bankKey v.bank p) []) ∧
          State.onlyChanges [.cnt, .arr] s t) ∧
        (∀ a, s.ls ≠ [] → needSpans s true (tileSpans x u) = .poison a → findTask s x.id = some x → x.direct = none →
          s.tck.aborting.contains x.id = false →
          ∃ t w, exec (.loadReady n q) s = .next t ∧ findTask t x.id = some w ∧ w.phase = .complete ∧ w.status = 9 ∧
            t.arr = s.arr)))) ∧
  (∀ (s : State) (n q : Fin 4), (getUnit s n.val q.val).front = true → (getUnit s n.val q.val).chained = false →
    (getUnit s n.val q.val).ready = false → unitIn s n.val q.val = true →
    ∃ t, exec (.chainedLoadStart n q) s = .next t ∧
      getUnit t n.val q.val = { getUnit s n.val q.val with chained := true } ∧ State.onlyChanges [.arr] s t) ∧
  (∀ (s : State) (n q : Fin 4), (getUnit s n.val q.val).armed = true → unitIn s n.val q.val = true →
    climbing s n.val q.val = false →
    let u := getUnit s n.val q.val
    (∀ x, unitTask s n.val q.val = some x → u.insole = true ∨ u.load = some (x.id, passOf x x.pos)) →
    ∃ t, exec (.tilePassStart n q) s = .next t ∧
      getUnit t n.val q.val =
        { u with armed := false, ready := false, chained := false, front := true, bank := !u.bank, pattern := u.insole,
                 insole := false, load := none, row := [], placed := (unitTask s n.val q.val).map (fun x => x.id) } ∧
      (∀ m r, m ≠ n.val ∨ r ≠ q.val → getUnit t m r = getUnit s m r) ∧ State.onlyChanges [.arr] s t) ∧
  (∀ (s : State) (n q : Fin 4), (getUnit s n.val q.val).armed = false ∨ climbing s n.val q.val = true ∨
      (∃ x, unitTask s n.val q.val = some x ∧ (getUnit s n.val q.val).insole = false ∧
        (getUnit s n.val q.val).load ≠ some (x.id, passOf x x.pos)) →
    exec (.tilePassStart n q) s = .next s) ∧
  (∀ (s : State) (n q : Fin 4) (gap : Nat), keepEn s n.val = true → unitIn s n.val q.val = true →
    (getUnit s n.val q.val).step < rampSteps s n.val →
    let u := getUnit s n.val q.val
    let due := keepCycles s n.val + u.step * rampDwell s n.val
    let job := (getEng s (unitEng s n.val q.val)).lastJob
    ∃ t, exec (.keeperStepDown n q gap) s = .next t ∧
      getUnit t n.val q.val = (if due ≤ gap then { u with step := u.step + 1, gap := due } else { u with gap := max u.gap gap }) ∧
      mget t.act (job * 16) 0 = mget s.act (job * 16) 0 + (min due gap - u.gap) ∧ State.onlyChanges [.cnt, .arr, .act] s t) ∧
  (∀ (s : State) (n q : Fin 4), keepEn s n.val = true → (getUnit s n.val q.val).step ≠ 0 → unitIn s n.val q.val = true →
    let job := (getEng s (unitEng s n.val q.val)).lastJob
    ∃ t, exec (.keeperStepUp n q) s = .next t ∧
      getUnit t n.val q.val = { getUnit s n.val q.val with step := (getUnit s n.val q.val).step - 1, gap := 0 } ∧
      mget t.act (job * 16) 0 = mget s.act (job * 16) 0 + rampDwell s n.val ∧ State.onlyChanges [.cnt, .arr, .act] s t) ∧
  (∀ (s : State) (n : Fin 4) (column : Bool) (idx : Fin 32) (cycles : Nat), quadMode s n.val = true ∨ idx.val < 16 →
    ∃ t, exec (.longStall n column idx cycles) s = .next t ∧
      (idx.val ∈ (if column then (getArr t n.val).cols else (getArr t n.val).bands) ↔ cycles ≠ 0) ∧
      (∀ i, i ≠ idx.val → (i ∈ (getArr t n.val).bands ↔ i ∈ (getArr s n.val).bands) ∧
        (i ∈ (getArr t n.val).cols ↔ i ∈ (getArr s n.val).cols)) ∧
      (regFld s (ap n.val 2) 0x200 15 0 ≠ 0 → regFld s (ap n.val 2) 0x200 15 0 < cycles →
        bit (getReg t (ap n.val 0) 0x38) 1 = true) ∧
      State.onlyChanges [.out, .regs, .arr, .sys] s t) ∧
  (∀ (s : State) (who : Initiator) (n : Fin 4) (w : Fin 128) (v : Word),
    s.admits who (ap n.val 6) (0x1000 + 8 * w.val) v = true → work s (ap n.val 0) = false →
    ∃ t, exec (.tbankRowWrite who n w v) s = .next t ∧
      (∀ i < 4, getCell t n.val (bankSel s n.val) (cellAt false 0 (bankRow s n.val) (4 * w.val + i)) =
        fld v (16 * i + 15) (16 * i)) ∧
      (∀ (b : Bool) (k : Nat × Nat), k.1 < 4 →
        b ≠ bankSel s n.val ∨ (∀ i < 4, k ≠ cellAt false 0 (bankRow s n.val) (4 * w.val + i)) →
        getCell t n.val b k = getCell s n.val b k) ∧
      (let quad := quadMode s n.val
       let q := if quad then bankRow s n.val / 256 * 2 + w.val / 64 else 0
       let u := getUnit s n.val q
       let k := if quad then w.val % 64 else w.val
       let words := if k ∈ u.row then u.row else k :: u.row
       let last := if quad then bankRow s n.val % 256 = 255 else bankRow s n.val = 511
       (bankSel s n.val = u.bank → getUnit t n.val q = { u with pattern := true }) ∧
       (bankSel s n.val ≠ u.bank → ¬ last → getUnit t n.val q = u) ∧
       (bankSel s n.val ≠ u.bank → last → words.length < (if quad then 64 else 128) →
         getUnit t n.val q = { u with row := words }) ∧
       (bankSel s n.val ≠ u.bank → last → (if quad then 64 else 128) ≤ words.length →
         (getUnit t n.val q).ready = true ∧ (getUnit t n.val q).insole = true ∧ (getUnit t n.val q).row = [] ∧
         (getUnit t n.val q).armed = (swapAuto s n.val q || u.armHeld || u.armed))) ∧
      State.onlyChanges [.arr] s t) ∧
  (∀ (s : State) (who : Initiator) (n : Fin 4) (w : Fin 128) (v : Word),
    s.admits who (ap n.val 6) (0x1000 + 8 * w.val) v = true → work s (ap n.val 0) = true →
    ∃ t, exec (.tbankRowWrite who n w v) s = .next t ∧ raisedAt s t (ap n.val 6) 4 (0x1000 + 8 * w.val) ∧
      State.onlyChanges [.regs, .out, .sys] s t)

/-! ### The Skim, the Churn, the Rennet and the Ladle -/

/-- EXPORT writes the pending record of every exported entry of the job to its place in the statistics area and starts a
new one; ADVANCE puts the pending record of each entry that is not synchronised and is finite at the front of its history,
and chooses its format and scale from that, and takes the record of a synchronised entry from the statistics area;
STEP_DONE ends the phases, and what was delivered meanwhile opens the next step (R142 to R145). A write of ENTRY_CFG
outside a step configures the selected entry, whose history and pending record start anew when it becomes valid; during a
step it is refused (R159). CHN_CFG.CLEAR_STATS clears every layer's statistics (R158). TEST_GO leaves in TEST_OUT the
Philox block of the test key and counter (R160). -/
def Obligations.SkimMovesRecordsAndEntries : Prop :=
  (∀ (s : State) (who : Initiator) (v : Word), s.admits who skmPage 0x200 (v ||| mask 16 16) = true → bit v 17 = false →
    s.skm.busy = false → takesWork s skmPage = true → statMapped s = true → statReady s (fld v 15 0) = true →
    (gradEnts s (fld v 15 0)).Nodup →
    ∃ t, exec (.skimExport who v) s = .next t ∧ t.skm.busy = true ∧ t.skm.job = fld v 15 0 ∧
      (∀ e ∈ gradEnts s (fld v 15 0), bit (getEnt s e).cfg 18 = true →
        (s.Inv → ∀ i < 8, memWord t.mem (statBase s + 64 * e + 8 * i) = (recWords (getEnt s e).pend).getD i 0) ∧
        getEnt t e = { getEnt s e with pend := {} }) ∧
      (∀ e, e ∉ gradEnts s (fld v 15 0) → getEnt t e = getEnt s e)) ∧
  (∀ (s : State) (who : Initiator) (v : Word), s.admits who skmPage 0x200 (v ||| mask 17 17) = true → bit v 16 = false →
    s.skm.busy = false → takesWork s skmPage = true →
    statMapped s = true ∨ (∀ e ∈ gradEnts s (fld v 15 0), bit (getEnt s e).cfg 18 = false) →
    statReady s (fld v 15 0) = true → (gradEnts s (fld v 15 0)).Nodup →
    ∃ t, exec (.skimAdvance who v) s = .next t ∧ t.skm.busy = true ∧
      (∀ e, gradEnts s (fld v 15 0) = [e] → bit (getEnt s e).cfg 18 = true → candsOk (getEnt s e).cfg = true →
        fld (getEnt s e).st 1 0 ≤ fld (getEnt s e).cfg 20 19 → poisoned s (lineOf (statBase s + 64 * e)) = false →
        (recAt s (statBase s + 64 * e)).nonfin = false → (recAt s (statBase s + 64 * e)).amax < 0x7F800000 →
        (getEnt t e).hist = (recAt s (statBase s + 64 * e) :: (getEnt s e).hist).take 16 ∧
        (getEnt t e).pend = (getEnt s e).pend) ∧
      (∀ e ∈ gradEnts s (fld v 15 0), bit (getEnt s e).cfg 18 = false → candsOk (getEnt s e).cfg = true →
        fld (getEnt s e).st 1 0 ≤ fld (getEnt s e).cfg 20 19 → (getEnt s e).pend.nonfin = false →
        (getEnt s e).pend.amax < 0x7F800000 →
        (getEnt t e).hist = ((getEnt s e).pend :: (getEnt s e).hist).take 16 ∧ (getEnt t e).pend = {} ∧
        (getEnt t e).cfg = (getEnt s e).cfg ∧
        (getEnt t e).st = (choose { getEnt s e with pend := {}, hist := ((getEnt s e).pend :: (getEnt s e).hist).take 16 }).1) ∧
      (∀ e, e ∉ gradEnts s (fld v 15 0) → getEnt t e = getEnt s e)) ∧
  (∀ s : State, s.skm.busy = true → s.skm.doExport = false → s.skm.doAdvance = false →
    ∃ t, exec .stepDone s = .next t ∧ t.skm.busy = false ∧ bit (getReg t skmPage 0x38) 1 = true ∧
      (∀ e x, mfind s.skm.ents e = some x → getEnt t e =
        (if fld x.cfg 15 0 = s.skm.job ∧ (s.skm.adv = true ∨ bit x.cfg 18 = true)
         then { x with pend := x.pend.join x.next, next := {} } else x)) ∧
      State.onlyChanges [.out, .regs, .skm, .sys] s t) ∧
  (∀ (s : State) (who : Initiator) (v : Word), s.admits who skmPage 0x218 v = true → s.skm.busy = false →
    ∃ t, exec (.entryCfgWrite who v) s = .next t ∧ (getEnt t (entSel s)).cfg = v ∧
      (getEnt t (entSel s)).param = (getEnt s (entSel s)).param &&& entryMask true (bit v 17) ∧
      (getEnt t (entSel s)).st = (getEnt s (entSel s)).st &&& entryMask false (bit v 17) ∧
      (bit v 16 = true → bit (getEnt s (entSel s)).cfg 16 = false →
        (getEnt t (entSel s)).hist = [] ∧ (getEnt t (entSel s)).pend = {}) ∧
      (bit v 16 = false ∨ bit (getEnt s (entSel s)).cfg 16 = true →
        (getEnt t (entSel s)).hist = (getEnt s (entSel s)).hist ∧ (getEnt t (entSel s)).pend = (getEnt s (entSel s)).pend) ∧
      (∀ e, e ≠ entSel s → getEnt t e = getEnt s e) ∧ State.onlyChanges [.skm] s t) ∧
  (∀ (s : State) (who : Initiator) (v : Word), s.admits who skmPage 0x218 v = true → s.skm.busy = true →
    ∃ t, exec (.entryCfgWrite who v) s = .next t ∧ raisedAt s t skmPage 8 0x218 ∧ State.onlyChanges [.regs, .out, .sys] s t) ∧
  (∀ (s : State) (who : Initiator) (v : Word), s.admits who chnPage 0x200 v = true →
    ∃ t, exec (.clearStats who v) s = .next t ∧ (bit v 2 = true → t.layers = []) ∧ (bit v 2 = false → t.layers = s.layers) ∧
      regFld t chnPage 0x200 1 0 = fld v 1 0 ∧ State.onlyChanges [.regs, .layers] s t) ∧
  (∀ (s : State) (who : Initiator) (v : Word), s.admits who rngPage 0x218 v = true → bit v 0 = true →
    takesWork s rngPage = true →
    let p := rngPage
    let r := philox (getReg s p 0x200).toNat (regFld s p 0x208 31 0) (regFld s p 0x208 63 32) (regFld s p 0x210 31 0)
      (regFld s p 0x210 63 32)
    ∃ t, exec (.testGo who v) s = .next t ∧ getReg t p 0x220 = word (r.1 + r.2.1 * 2 ^ 32) ∧
      getReg t p 0x228 = word (r.2.2.1 + r.2.2.2 * 2 ^ 32) ∧ State.onlyChanges [.regs] s t)

/-- Direct mode changes only while the engine is at rest (R202). A write of CH_CTL arms the shadow set of its channel
(R204); the next armed channel's set becomes the active one and its transfer, if it passes a MOVE's checks, starts, or
ends with the status of the first that fails. The read-back of a local destination ends the transfer with OK, or with
ENGINE_FAULT and READBACK where its line is poisoned (R207). -/
def Obligations.DirectTransfersRunTheArmedChannel : Prop :=
  (∀ (s : State) (who : Initiator) (n : Fin 8) (v : Word), s.admits who (ldlPage n.val 0) 0x200 v = true →
    work s (ldlPage n.val 0) = false →
    ∃ t, exec (.directModeWrite who n v) s = .next t ∧ directMode t n.val = bit v 0 ∧ State.onlyChanges [.regs] s t) ∧
  (∀ (s : State) (who : Initiator) (n : Fin 8) (v : Word), s.admits who (ldlPage n.val 0) 0x200 v = true →
    work s (ldlPage n.val 0) = true →
    ∃ t, exec (.directModeWrite who n v) s = .next t ∧ raisedAt s t (ldlPage n.val 0) 8 0x200 ∧
      directMode t n.val = directMode s n.val ∧ State.onlyChanges [.regs, .out, .sys] s t) ∧
  (∀ (s : State) (who : Initiator) (n : Fin 8) (c : Fin 16) (v : Word),
    s.admits who (ldlPage n.val 0) (0x1040 + 128 * c.val + 16) v = true → directMode s n.val = true →
    (mget (getLdl s n.val).shadow c.val {}).busy = false →
    ∃ t, exec (.channelArm who n c v) s = .next t ∧
      mget (getLdl t n.val).shadow c.val {} =
        { mget (getLdl s n.val).shadow c.val {} with ctl := v &&& ~~~ (mask 18 18), busy := bit v 18 } ∧
      (∀ d, d ≠ c.val → mget (getLdl t n.val).shadow d {} = mget (getLdl s n.val).shadow d {}) ∧
      (getLdl t n.val).active = (getLdl s n.val).active ∧ State.onlyChanges [.ldl] s t) ∧
  (∀ (s : State) (n : Fin 8) (c : Fin 16), directMode s n.val = true → takesWork s (ldlPage n.val 0) = true →
    running s = true → (getLdl s n.val).serving = none → nextChannel s n.val = some c.val →
    descNeed s (mget (getLdl s n.val).shadow c.val {}) ≠ .wait →
    let x := mget (getLdl s n.val).shadow c.val {}
    ∃ t, exec (.directTransferStart n c) s = .next t ∧ (getLdl t n.val).served = c.val ∧
      (mget (getLdl t n.val).shadow c.val {}).busy = false ∧ (mget (getLdl t n.val).active c.val {}).src = x.src ∧
      (mget (getLdl t n.val).active c.val {}).dst = x.dst ∧
      (directFail s n.val c.val x = none → (getLdl t n.val).serving = some c.val ∧
        t.tasks = s.tasks ++ [directTask s n.val c.val x] ∧
        (getEng t (0x38 + n.val)).queue = [⟨s.nextTask, false, 0, movTotal (directTask s n.val c.val x)⟩] ∧
        (mget (getLdl t n.val).active c.val {}).busy = true) ∧
      (∀ f, directFail s n.val c.val x = some f → s.tck.aborting.contains s.nextTask = false → (getLdl t n.val).serving = none ∧
        (mget (getLdl t n.val).active c.val {}).status = f.status ∧ (mget (getLdl t n.val).active c.val {}).busy = false) ∧
      State.onlyChanges [.out, .regs, .cnt, .poison, .tasks, .nextTask, .eng, .crm, .hbm, .cw, .ls, .ldl, .rel, .act, .sys, .free] s t) ∧
  (∀ (s : State) (n : Fin 8) (u : Task), awaiting s n.val = some u → findTask s u.id = some u → u.hold = [] → u.direct = none →
    u.spec = false → needLines s true [lineOf (lastByte u)] = .ok → s.tck.aborting.contains u.id = false →
    ∃ t w, exec (.readbackDone n) s = .next t ∧ findTask t u.id = some w ∧ w.phase = .complete ∧ w.status = 1 ∧
      w.detail = word (movBytes u (movTotal u)) ∧
      State.onlyChanges [.out, .regs, .cnt, .poison, .tasks, .eng, .crm, .hbm, .cw, .ls, .ldl, .rel, .act, .sys, .free] s t) ∧
  (∀ (s : State) (n : Fin 8) (u : Task) (a : Nat), awaiting s n.val = some u → findTask s u.id = some u → u.hold = [] → u.direct = none →
    u.spec = false → needLines s true [lineOf (lastByte u)] = .poison a → s.tck.aborting.contains u.id = false →
    ∃ t w, exec (.readbackDone n) s = .next t ∧ findTask t u.id = some w ∧ w.phase = .complete ∧ w.status = 9 ∧ w.slot = 1 ∧
      bit (getReg t (ldlPage n.val 0) 0x20) 10 = true)

/-! ### The Creamery and the HBM -/

/-- The first byte of scratchpad granules `a` of the slices (R219). -/
abbrev scrByte (a : Nat) : Nat := 0x100000000000 + a * 0x80000000

/-- What a change of the Creamery's roles leaves: BUSY, the roles, no cache line valid, no slice's copy running, and the
scratchpad granules from `keep` up zeroed, with every other byte as it was. -/
def rolesChange (normal : Bool) (sp keep : Nat) (s t : State) : Prop :=
  t.crm.busy = true ∧ t.crm.normal = normal ∧ t.crm.sp = sp ∧ t.crm.sets = [] ∧ t.crm.copying = [] ∧ t.crm.ack = s.crm.ack ∧
  (∀ a, scrByte keep ≤ a → a < scrByte 14 → memGet t.mem a = 0) ∧
  (∀ a, a < scrByte keep ∨ scrByte 14 ≤ a → memGet t.mem a = memGet s.mem a)

/-- With no job open and no change under way, CRM_MODE and CRM_PART start a change at once: BUSY, no cache line valid, and
the scratchpad granules that do not stay zeroed, with every other byte as it was; else CRM_MODE and CRM_PART are refused, as is
a partition of more than 14 granules, with CFG_REFUSED (R218). MODE_CHANGE_DONE acknowledges the mode. REHOME_DONE ends the copy
of a slice's granules: their words in error are corrected or their lines poisoned, REHOME_LOSS tells of a poisoned line among
those copied, and the slice's adder slots go (R227). A scrub that finds a word corrected names its address and raises ECC_CE,
one not correctable poisons its line and raises ECC_UE; memory's bytes stay (R225). -/
def Obligations.CreameryModesAndScrubs : Prop :=
  (∀ (s : State) (who : Initiator) (v : Word), s.admits who crm0 0x200 v = true → bit v 0 ≠ s.crm.normal →
    takesWork s crm0 = true → modeFree s = true →
    ∃ t, exec (.crmModeWrite who v) s = .next t ∧ rolesChange (bit v 0) (regFld s crm0 0x208 3 0) 0 s t ∧
      (s.crm.copying = [] → State.onlyChanges [.mem, .poison, .crm, .cw] s t) ∧
      State.onlyChanges [.out, .regs, .cnt, .mem, .poison, .prov, .crm, .cw, .rel, .lnk, .sys, .free] s t) ∧
  (∀ (s : State) (who : Initiator) (v : Word), s.admits who crm0 0x200 v = true → bit v 0 ≠ s.crm.normal →
    takesWork s crm0 = true → modeFree s = false →
    ∃ t, exec (.crmModeWrite who v) s = .next t ∧ raisedAt s t crm0 8 0x200 ∧ State.onlyChanges [.regs, .out, .sys] s t) ∧
  (∀ (s : State) (who : Initiator) (v : Word), s.admits who crm0 0x200 v = true → bit v 0 = s.crm.normal →
    exec (.crmModeWrite who v) s = .next s) ∧
  (∀ (s : State) (who : Initiator) (v : Word), s.admits who crm0 0x208 v = true →
    fld v 3 0 ≠ regFld s crm0 0x208 3 0 → fld v 3 0 ≤ 14 → takesWork s crm0 = true → modeFree s = true →
    ∃ t, exec (.crmPartWrite who v) s = .next t ∧
      rolesChange s.crm.normal (fld v 3 0) (min (fld v 3 0) (regFld s crm0 0x208 3 0)) s t ∧ regFld t crm0 0x208 3 0 = fld v 3 0 ∧
      (s.crm.copying = [] → State.onlyChanges [.regs, .mem, .poison, .crm, .cw] s t) ∧
      State.onlyChanges [.out, .regs, .cnt, .mem, .poison, .prov, .crm, .cw, .rel, .lnk, .sys, .free] s t) ∧
  (∀ (s : State) (who : Initiator) (v : Word), s.admits who crm0 0x208 v = true →
    fld v 3 0 ≠ regFld s crm0 0x208 3 0 → takesWork s crm0 = true → 14 < fld v 3 0 ∨ modeFree s = false →
    ∃ t, exec (.crmPartWrite who v) s = .next t ∧ raisedAt s t crm0 8 0x208 ∧ t.crm = s.crm ∧
      regFld t crm0 0x208 3 0 = regFld s crm0 0x208 3 0 ∧ State.onlyChanges [.regs, .out, .sys] s t) ∧
  (∀ (s : State) (who : Initiator) (v : Word), s.admits who crm0 0x208 v = true → fld v 3 0 = regFld s crm0 0x208 3 0 →
    exec (.crmPartWrite who v) s = .next s) ∧
  (∀ s : State, s.crm.busy = true →
    ∃ t, exec .modeChangeDone s = .next t ∧ t.crm = { s.crm with busy := false, ack := s.crm.normal } ∧
      bit (getReg t crm0 0x38) 1 = true ∧ State.onlyChanges [.out, .regs, .crm, .sys] s t) ∧
  (∀ (s : State) (n : Fin 64) (gs : List (Nat × Nat × Bool)), mfind s.crm.copying n.val = some gs →
    let k := gs.length * 131072
    let here (l : Nat) : Bool := scrCopied gs (mget s.crm.pos n.val 0) k l
    ∃ t, exec (.rehomeDone n) s = .next t ∧ mget t.crm.pos n.val 0 = k ∧ mfind t.crm.copying n.val = none ∧
      bit (getReg t (pageOf .crm n.val 0) 0x38) 2 = true ∧
      (∀ x ∈ t.cw, here (x.1 / 32) = false) ∧ (∀ x ∈ s.cw, here (x.1 / 32) = false → x ∈ t.cw) ∧
      (∀ x ∈ s.cw, here (x.1 / 32) = true → x.2 ≠ 1 → x.1 / 32 ∈ t.poison) ∧ (∀ l ∈ s.poison, l ∈ t.poison) ∧
      ((∃ l ∈ t.poison, here l = true) → bit (getReg t (pageOf .crm n.val 0) 0x20) 13 = true) ∧
      t.lnk.adders = s.lnk.adders.filter (fun x => x.1 / 4096 ≠ n.val) ∧
      State.onlyChanges [.out, .regs, .cnt, .poison, .prov, .crm, .cw, .rel, .lnk, .sys, .free] s t) ∧
  (∀ (s : State) (n : Fin 64), mfind s.crm.copying n.val = none → exec (.rehomeDone n) s = .next s) ∧
  (∀ (s : State) (n : Fin 64) (a : Nat), regBit s (pageOf .crm n.val 0) 0x288 0 = true → mappedMem s a = true →
    sliceHolds s (lineOf a) = true → sliceOf s a = n.val → enAck s (pageOf .crm n.val 0) = true →
    (mget s.cw (a / 8) 0 < 2 →
      ∃ t, exec (.scrub n a .corrected) s = .next t ∧ getReg t (pageOf .crm n.val 0) 0x290 = word a ∧
        bit (getReg t (pageOf .crm n.val 0) 0x20) 9 = true ∧ t.cw = s.cw.filter (fun x => x.1 ≠ a / 8) ∧
        State.onlyChanges [.out, .regs, .cnt, .cw, .rel, .sys, .free] s t) ∧
    (mget s.cw (a / 8) 0 = 0 → exec (.scrub n a .good) s = .next s)) ∧
  (∀ (s : State) (n : Fin 64) (a : Nat), regBit s (pageOf .crm n.val 0) 0x288 0 = true → mappedMem s a = true →
    sliceHolds s (lineOf a) = true → sliceOf s a = n.val → enAck s (pageOf .crm n.val 0) = true →
    ∃ t, exec (.scrub n a .uncorrectable) s = .next t ∧ getReg t (pageOf .crm n.val 0) 0x298 = word (lineOf a * 256) ∧
      bit (getReg t (pageOf .crm n.val 0) 0x20) 10 = true ∧ lineOf a ∈ t.poison ∧
      (∀ l, l ≠ lineOf a → (l ∈ t.poison ↔ l ∈ s.poison)) ∧ t.cw = s.cw.filter (fun x => x.1 ≠ a / 8) ∧
      State.onlyChanges [.out, .regs, .cnt, .poison, .cw, .rel, .sys, .free] s t)

/-- The states of an HBM controller (Table 8.2, R230): from OFF to INIT on request, and on with training's outcome;
between ACTIVE and SELF_REFRESH; from ACTIVE to TEST only in test mode with no job open and no other stack in TEST; from
TEST back, with the margin offset at zero and no byte outside the stack touched. A stack at CRIT stays in SELF_REFRESH. A
request that the table does not allow is refused with STATE_REFUSED and changes no stack: INIT outside OFF, ACTIVE from OFF, INIT
or ACTIVE, or from SELF_REFRESH at CRIT or held by the Cobbler, SELF_REFRESH outside ACTIVE, TEST as said. -/
def Obligations.HbmControllersChangeState : Prop :=
  (∀ (s : State) (who : Initiator) (n : Fin 8), s.admits who (hp n.val 0) 0x200 1 = true → enAck s (hp n.val 0) = true →
    (getHbm s n.val).state = 0 →
    ∃ t, exec (.hbmInit who n) s = .next t ∧ (getHbm t n.val).state = 1 ∧ (getHbm t n.val).initFail = false ∧
      (∀ m, m ≠ n.val → getHbm t m = getHbm s m) ∧ State.onlyChanges [.regs, .hbm] s t) ∧
  (∀ (s : State) (n : Fin 8) (ok : Bool), (getHbm s n.val).state = 1 →
    ∃ t, exec (.hbmInitDone n ok) s = .next t ∧ (getHbm t n.val).state = (if ok then if (getHbm s n.val).therm = 3 then 3 else 2 else 0) ∧
      (getHbm t n.val).initFail = !ok ∧ (∀ m, m ≠ n.val → getHbm t m = getHbm s m) ∧ State.onlyChanges [.hbm] s t) ∧
  (∀ (s : State) (who : Initiator) (n : Fin 8), s.admits who (hp n.val 0) 0x200 2 = true → enAck s (hp n.val 0) = true →
    (getHbm s n.val).state = 3 → (getHbm s n.val).held = false → (getHbm s n.val).therm ≠ 3 →
    ∃ t, exec (.hbmActive who n) s = .next t ∧ (getHbm t n.val).state = 2 ∧ (∀ m, m ≠ n.val → getHbm t m = getHbm s m) ∧
      State.onlyChanges [.regs, .hbm] s t) ∧
  (∀ (s : State) (who : Initiator) (n : Fin 8), s.admits who (hp n.val 0) 0x200 2 = true → enAck s (hp n.val 0) = true →
    (getHbm s n.val).state = 4 →
    ∃ t, exec (.hbmActive who n) s = .next t ∧
      (getHbm t n.val).state = (if (getHbm s n.val).therm = 3 then 3 else 2) ∧ (getHbm t n.val).voff = 0 ∧
      (getHbm t n.val).marginBusy = false ∧
      (∀ a, winOf a ≠ .hbm ∨ lpcMap s (lineOf a % lpcCount s) % 8 ≠ n.val → memGet t.mem a = memGet s.mem a) ∧
      State.onlyChanges [.regs, .hbm, .mem, .free] s t) ∧
  (∀ (s : State) (who : Initiator) (n : Fin 8), s.admits who (hp n.val 0) 0x200 3 = true → enAck s (hp n.val 0) = true →
    (getHbm s n.val).state = 2 →
    ∃ t, exec (.selfRefresh who n) s = .next t ∧ (getHbm t n.val).state = 3 ∧ (∀ m, m ≠ n.val → getHbm t m = getHbm s m) ∧
      State.onlyChanges [.regs, .hbm] s t) ∧
  (∀ (s : State) (who : Initiator) (n : Fin 8), s.admits who (hp n.val 0) 0x200 4 = true → enAck s (hp n.val 0) = true →
    (getHbm s n.val).state = 2 → s.crm.normal = false → anyJobOpen s = false → (∀ m < 8, (getHbm s m).state ≠ 4) →
    ∃ t, exec (.hbmTest who n) s = .next t ∧ (getHbm t n.val).state = 4 ∧ (∀ m, m ≠ n.val → getHbm t m = getHbm s m) ∧
      State.onlyChanges [.regs, .hbm] s t) ∧
  (∀ (s : State) (who : Initiator) (n : Fin 8), s.admits who (hp n.val 0) 0x200 4 = true →
    enAck s (hp n.val 0) = false ∨ s.crm.normal = true ∨ anyJobOpen s = true ∨ (getHbm s n.val).state ≠ 2 ∨
      (∃ m < 8, (getHbm s m).state = 4) →
    ∃ t, exec (.hbmTest who n) s = .next t ∧ raisedAt s t (hp n.val 0) 8 0x200 ∧ State.onlyChanges [.regs, .out, .sys] s t) ∧
  (∀ (s : State) (who : Initiator) (n : Fin 8) (c : Instr) (req : Word) (bad : Prop),
    (c, req, bad) ∈
      [(Instr.hbmInit who n, (1 : Word), (getHbm s n.val).state ≠ 0),
       (.hbmActive who n, 2, (getHbm s n.val).state ≠ 3 ∧ (getHbm s n.val).state ≠ 4 ∨
         (getHbm s n.val).state = 3 ∧ ((getHbm s n.val).held = true ∨ (getHbm s n.val).therm = 3)),
       (.selfRefresh who n, 3, (getHbm s n.val).state ≠ 2)] →
    s.admits who (hp n.val 0) 0x200 req = true → enAck s (hp n.val 0) = false ∨ bad →
    ∃ t, exec c s = .next t ∧ raisedAt s t (hp n.val 0) 8 0x200 ∧ State.onlyChanges [.regs, .out, .sys] s t)

/-- A reading that is hotter than the stack's thermal state takes effect at once, a cooler one waits for the boundary; the
third failed reading in a row counts as HOT at least and raises SENSOR_FAIL (R236, Table 8.4). A stack that reaches CRIT
while ACTIVE leaves to SELF_REFRESH. A refresh of an ACTIVE stack is counted and changes nothing else (R237). The copy of
a pseudo-channel done, the logical one lives in its new place and the old one is mapped out (R242). A margin run starts
only in TEST, outside a run, with a legal pattern and offsets in range, and clears the result; it is refused otherwise;
its end gives the errors and the failing bits (R243, R244). TRACK_PEAK answers a count of entries, which is open, of at
most 16,384, and none while no access has come since the last (R246). -/
def Obligations.HbmTemperaturesRefreshAndMargins : Prop :=
  (∀ (s : State) (n : Fin 8) (c : Nat), ∃ t, exec (.stackTempRead n (some c)) s = .next t ∧
      (getHbm t n.val).temp = c ∧ (getHbm t n.val).maxTemp = max (getHbm s n.val).maxTemp c ∧ (getHbm t n.val).fails = 0 ∧
      (getHbm t n.val).therm = max (getHbm s n.val).therm (thermOf s n.val c) ∧
      ((getHbm s n.val).therm < 3 → thermOf s n.val c = 3 → (getHbm s n.val).state = 2 → (getHbm t n.val).state = 3) ∧
      (∀ m, m ≠ n.val → getHbm t m = getHbm s m) ∧
      State.onlyChanges [.out, .regs, .cnt, .hbm, .rel, .act, .lnk, .keys, .sys] s t) ∧
  (∀ (s : State) (n : Fin 8), ∃ t, exec (.stackTempRead n none) s = .next t ∧
      (getHbm t n.val).temp = (getHbm s n.val).temp ∧ (getHbm t n.val).fails = (getHbm s n.val).fails + 1 ∧
      ((getHbm s n.val).fails = 2 → (getHbm t n.val).therm = max (getHbm s n.val).therm 2 ∧
        (getHbm t n.val).sensorFail = true ∧ bit (getReg t (hp n.val 1) 0x20) 9 = true) ∧
      ((getHbm s n.val).fails ≠ 2 → (getHbm t n.val).therm = (getHbm s n.val).therm ∧ State.onlyChanges [.hbm] s t)) ∧
  (∀ (s : State) (n : Fin 8) (pc : Fin 64), (getHbm s n.val).state = 2 → fld (getReg s (hp n.val 1) 0x50) 7 0 = 0 →
    bit (getReg s (hp n.val 1) 0x50) 8 = false →
    ∃ t, exec (.refresh n pc) s = .next t ∧
      mget t.cnt (hp n.val 1 * 32 + 2) 0 = (mget s.cnt (hp n.val 1 * 32 + 2) 0 + 1) % 2 ^ 64 ∧
      (∀ k, k ≠ hp n.val 1 * 32 + 2 → mget t.cnt k 0 = mget s.cnt k 0) ∧ State.onlyChanges [.cnt] s t) ∧
  (∀ (s : State) (n : Fin 8) (l : Nat), (getHbm s n.val).copyBusy = true →
    lpcOf s ((getHbm s n.val).copySrc * 8 + n.val) = some l → (getHbm s n.val).copyDst ≠ l →
    ∃ t, exec (.pcRehomeDone n) s = .next t ∧ lpcMap t l = (getHbm s n.val).copyDst ∧
      (∀ k, k ≠ l → lpcMap t k = lpcMap s k) ∧ (getHbm t n.val).copyBusy = false ∧
      (getHbm t n.val).copyLines = 3145728 ∧
      (getHbm s n.val).copySrc ∈ (getHbm t n.val).outPcs ∧ bit (getReg t (hp n.val 2) 0x38) 1 = true ∧
      State.onlyChanges [.out, .regs, .cnt, .poison, .hbm, .ecc, .lpc, .rel, .lnk, .sys, .free] s t) ∧
  (∀ (s : State) (who : Initiator) (n : Fin 8) (v : Word), s.admits who (hp n.val 3) 0x200 (v ||| word (2 ^ 32)) = true →
    (getHbm s n.val).marginBusy = false → (getHbm s n.val).state = 4 → regFld s (hp n.val 3) 0x208 31 0 ≠ 0 →
    regFld s (hp n.val 3) 0x208 33 32 ≠ 3 → (toSigned 7 (fld v 22 16)).natAbs ≤ 32 → (toSigned 5 (fld v 28 24)).natAbs ≤ 10 →
    ∃ t, exec (.marginRun who n v) s = .next t ∧
      getHbm t n.val = { getHbm s n.val with voff := fld v 28 24, marginBusy := true, marginDone := false, errors := 0, bits := 0 } ∧
      (∀ m, m ≠ n.val → getHbm t m = getHbm s m) ∧ State.onlyChanges [.regs, .hbm] s t) ∧
  (∀ (s : State) (who : Initiator) (n : Fin 8) (v : Word), s.admits who (hp n.val 3) 0x200 (v ||| word (2 ^ 32)) = true →
    (getHbm s n.val).marginBusy = true ∨ (getHbm s n.val).state ≠ 4 ∨ regFld s (hp n.val 3) 0x208 31 0 = 0 ∨
      regFld s (hp n.val 3) 0x208 33 32 = 3 ∨ 32 < (toSigned 7 (fld v 22 16)).natAbs ∨ 10 < (toSigned 5 (fld v 28 24)).natAbs →
    ∃ t, exec (.marginRun who n v) s = .next t ∧ raisedAt s t (hp n.val 3) 8 0x200 ∧ State.onlyChanges [.regs, .out, .sys] s t) ∧
  (∀ (s : State) (n : Fin 8) (errors : Nat) (bits : BitVec 32), (getHbm s n.val).marginBusy = true →
    ∃ t, exec (.marginDone n errors bits) s = .next t ∧ (getHbm t n.val).marginBusy = false ∧
      (getHbm t n.val).marginDone = true ∧ (getHbm t n.val).errors = min errors (2 ^ 32 - 1) ∧ (getHbm t n.val).bits = bits ∧
      bit (getReg t (hp n.val 3) 0x38) 1 = true ∧ State.onlyChanges [.out, .regs, .hbm, .sys] s t) ∧
  (∀ (s : State) (who : Initiator) (n : Fin 8), (getBlk s (hp n.val 0)).rstBusy = false →
    ∃ t, exec (.trackPeakRead who n) s = .next t ∧ t.resp.toNat ≤ 16384 ∧
      ((getHbm s n.val).tracked = false → t.resp = 0) ∧ (getHbm t n.val).tracked = false ∧
      (∀ m, m ≠ n.val → getHbm t m = getHbm s m) ∧ State.onlyChanges [.resp, .hbm, .free] s t)

/-! ### Link ports -/

/-- Where a training step leads: within RETRAIN the state stays, else it is the step's own. -/
def trained (s t : State) (p step : Nat) : Prop :=
  (getPort t p).step = step ∧ (getPort t p).state = if (getPort s p).state = 7 then 7 else step

/-- The steps of Table 9.3: a DISABLED port that may train does; DETECT leads to EQUALISE with signal on 4 lanes, EQUALISE
to IDENTIFY with 4 lanes locked each way (to ALIGN on Ethernet, with every lane of the PHY); IDENTIFY reports an order newly
found reversed in its patterns, mirrored where the partner has reported one too (log 138), and leads to ALIGN with all 8 lanes
good at both ends, or on the four lowest good ones where ALLOW_X4 permits, and to DOWN with fewer than 4; ALIGN leads to
DELAY with 16 ECHO frames sent (to ACTIVE on Ethernet) (R249 to R253, R278). -/
def Obligations.TrainingStepsLeadOn : Prop :=
  (∀ (s : State) (p : Fin 16) (signal : BitVec 8), inStep (leaveDisabled p.val s) p.val 1 = true →
    4 ≤ ((List.range 8).filter (fun i => signal.getLsbD i && !laneOut s p.val i)).length →
    ∃ t, exec (.detect p signal) s = .next t ∧ trained (leaveDisabled p.val s) t p.val 2 ∧ State.onlyChanges [.out, .regs, .lnk, .sys] s t) ∧
  (∀ (s : State) (p : Fin 16) (rx tx : BitVec 8),
    let s0 := if portEth s p.val then leaveDisabled p.val s else s
    inStep s0 p.val 2 = true → locksEnough s p.val rx.toNat tx.toNat = true →
    ∃ t, exec (.equalise p rx tx) s = .next t ∧ trained s0 t p.val (if portEth s p.val then 4 else 3) ∧
      State.onlyChanges [.out, .regs, .lnk, .sys] s t) ∧
  (∀ (s : State) (p : Fin 16) (ls : List LanePattern), inStep s p.val 3 = true →
    ((goodLanes s p.val ls).map (fun z => 2 ^ z.1)).sum = 255 →
    (getPort s p.val).reversed = true ∨ (∃ z ∈ goodLanes s p.val ls, z.2.lane.val ≠ 7 - z.1) →
    ∃ t, exec (.identify p ls false 255) s = .next t ∧ trained s t p.val 4 ∧ (getPort t p.val).good = 255 ∧
      (getPort t p.val).x4 = false ∧ (getPort t p.val).laneMap = mapWord (goodLanes s p.val ls) (getPort s p.val).mirrored ∧
      State.onlyChanges [.out, .regs, .rel, .lnk, .sys] s t) ∧
  (∀ (s : State) (p : Fin 16) (ls : List LanePattern) (rev : Bool) (good : BitVec 8), inStep s p.val 3 = true →
    (goodLanes s p.val ls).length = 8 → (∀ z ∈ goodLanes s p.val ls, z.2.lane.val = 7 - z.1) →
    let x := getPort s p.val
    let mirrors := rev = true ∧ x.mirrored = false
    mirrors ∨ x.reversed = false →
    ∃ t, exec (.identify p ls rev good) s = .next t ∧ (getPort t p.val).reversed = true ∧
      (mirrors → (getPort t p.val).mirrored = true) ∧ (¬ mirrors → (getPort t p.val).mirrored = x.mirrored) ∧
      (getPort t p.val).step = x.step ∧ (getPort t p.val).state = x.state ∧
      t.out = s.out ++ (List.range 8).map (fun k => Out.pattern p.val k (if (getPort t p.val).mirrored then 7 - k else k)
        (if devValid s then devNum s else 0x3FFF) (!devValid s) true) ∧
      State.onlyChanges [.out, .lnk] s t) ∧
  (∀ (s : State) (p : Fin 16) (ls : List LanePattern) (good : BitVec 8), inStep s p.val 3 = true →
    regBit s (lp p.val 0) 0x200 6 = true → 4 ≤ (goodLanes s p.val ls).length → 4 ≤ laneCount good.toNat →
    ((goodLanes s p.val ls).map (fun z => 2 ^ z.1)).sum ≠ 255 →
    ∃ t, exec (.identify p ls false good) s = .next t ∧ trained s t p.val 4 ∧ (getPort t p.val).x4 = true ∧
      (getPort t p.val).laneMap = mapWord ((goodLanes s p.val ls).take 4) (getPort s p.val).mirrored ∧
      State.onlyChanges [.out, .regs, .rel, .lnk, .sys] s t) ∧
  (∀ (s : State) (p : Fin 16) (ls : List LanePattern) (rev : Bool) (good : BitVec 8), inStep s p.val 3 = true →
    (goodLanes s p.val ls).length < 4 →
    ∃ t, exec (.identify p ls rev good) s = .next t ∧ (getPort t p.val).state = 8 ∧
      bit (getReg t (lp p.val 0) 0x20) 8 = true ∧ (getPort t p.val).replay = [] ∧
      State.onlyChanges [.out, .regs, .rel, .lnk, .sys] s t) ∧
  (∀ (s : State) (p : Fin 16), inStep s p.val 4 = true → portEth s p.val = false →
    ∃ t pre, exec (.align p) s = .next t ∧ trained s t p.val 5 ∧ (getPort t p.val).echoes = [] ∧
      t.out = pre ++ List.replicate 16
        (frameOut p.val (frameWord (getPort s p.val).fseq (getPort s p.val).rseq 5 false) (padBody [])) ∧
      State.onlyChanges [.out, .regs, .cnt, .lnk, .sys] s t) ∧
  (∀ (s : State) (p : Fin 16), inStep s p.val 4 = true → portEth s p.val = true →
    ∃ t, exec (.align p) s = .next t ∧ (getPort t p.val).state = 6 ∧ State.onlyChanges [.out, .regs, .lnk, .sys] s t)

/-- DELAY with all 16 samples makes the link ACTIVE with the partner's identity and the mean delay, or DOWN with LOOPBACK
for the port's own identity and with WIRING for an unexpected partner (R252, R253). RETRAIN starts training from DOWN, and
from ACTIVE goes to RETRAIN with AUTO_RETRAIN and to DOWN without; DOWN_RETRY starts training again; a timeout leads from
training to DOWN, where no frame of the port is left (R249, R254). -/
def Obligations.DelaysRetrainingAndDown : Prop :=
  (∀ (s : State) (p : Fin 16) (dev : Fin 16384) (port : Fin 16) (valid : Bool) (ack : BitVec 24), inStep s p.val 5 = true →
    16 ≤ (getPort s p.val).echoes.length →
    (valid ≠ devValid s ∨ dev.val ≠ devNum s ∨ port.val ≠ p.val ∨ regBit s (lp p.val 0) 0x200 7 = true) →
    (regBit s (lp p.val 0) 0x200 22 = false ∨ valid = false ∨ dev.val = regFld s (lp p.val 0) 0x200 21 8) →
    ∃ t, exec (.delay p dev port valid ack) s = .next t ∧ (getPort t p.val).state = 6 ∧ (getPort t p.val).peerDev = dev.val ∧
      (getPort t p.val).peerPort = port.val ∧ (getPort t p.val).peerValid = valid ∧
      (getPort t p.val).delay = meanDelay (getPort s p.val).echoes ∧
      State.onlyChanges [.out, .regs, .cnt, .lnk, .sys] s t) ∧
  (∀ (s : State) (p : Fin 16) (dev : Fin 16384) (ack : BitVec 24), inStep s p.val 5 = true →
    16 ≤ (getPort s p.val).echoes.length → dev.val = devNum s →
    regBit s (lp p.val 0) 0x200 7 = false →
    ∃ t, exec (.delay p dev p (devValid s) ack) s = .next t ∧ (getPort t p.val).state = 8 ∧
      bit (getReg t (lp p.val 0) 0x20) 10 = true ∧ State.onlyChanges [.out, .regs, .lnk, .sys] s t) ∧
  (∀ (s : State) (p : Fin 16) (dev : Fin 16384) (port : Fin 16) (ack : BitVec 24), inStep s p.val 5 = true →
    16 ≤ (getPort s p.val).echoes.length → dev.val ≠ devNum s → regBit s (lp p.val 0) 0x200 22 = true →
    dev.val ≠ regFld s (lp p.val 0) 0x200 21 8 →
    ∃ t, exec (.delay p dev port true ack) s = .next t ∧ (getPort t p.val).state = 8 ∧
      bit (getReg t (lp p.val 0) 0x20) 9 = true ∧ State.onlyChanges [.out, .regs, .lnk, .sys] s t) ∧
  (∀ (s : State) (who : Initiator) (p : Fin 16) (v : Word), s.admits who (lp p.val 0) 0x228 v = true → bit v 0 = true →
    (getPort s p.val).state = 8 → takesWork s (lp p.val 0) = true →
    ∃ t, exec (.retrain who p v) s = .next t ∧ (getPort t p.val).state = (if portEth s p.val then 2 else 1) ∧
      (getPort t p.val).echoes = [] ∧ State.onlyChanges [.out, .regs, .lnk, .sys] s t) ∧
  (∀ (s : State) (who : Initiator) (p : Fin 16) (v : Word), s.admits who (lp p.val 0) 0x228 v = true → bit v 0 = true →
    (getPort s p.val).state = 6 →
    ∃ t, exec (.retrain who p v) s = .next t ∧
      (regBit s (lp p.val 0) 0x200 32 = true → (getPort t p.val).state = 7 ∧ (getPort t p.val).step = 2 ∧
        (getPort t p.val).replay = (getPort s p.val).replay) ∧
      (regBit s (lp p.val 0) 0x200 32 = false → (getPort t p.val).state = 8 ∧ (getPort t p.val).replay = []) ∧
      State.onlyChanges [.out, .regs, .cnt, .lnk, .sys] s t) ∧
  (∀ (s : State) (p : Fin 16), (getPort s p.val).state = 8 → regBit s (lp p.val 0) 0x200 32 = true →
    takesWork s (lp p.val 0) = true →
    ∃ t, exec (.downRetry p) s = .next t ∧ (getPort t p.val).state = (if portEth s p.val then 2 else 1) ∧
      State.onlyChanges [.out, .regs, .lnk, .sys] s t) ∧
  (∀ (s : State) (p : Fin 16), (1 ≤ (getPort s p.val).state ∧ (getPort s p.val).state ≤ 5) ∨ (getPort s p.val).state = 7 →
    ∃ t, exec (.trainingTimeout p) s = .next t ∧ (getPort t p.val).state = 8 ∧ (getPort t p.val).replay = [] ∧
      (getPort t p.val).rx = [] ∧
      bit (getReg t (lp p.val 0) 0x20) 8 = true ∧ (∀ r, r ≠ p.val → getPort t r = getPort s r) ∧
      State.onlyChanges [.out, .regs, .lnk, .sys] s t)

/-- The port takes frames of the GKL, and this one arrived whole with the type. -/
def takesFrame (s : State) (p : Nat) (f : Frame) (type : Nat) : Prop :=
  portEth s p = false ∧ 5 ≤ (getPort s p).state ∧ (getPort s p).state ≠ 8 ∧ running s = true ∧ frameGood f = true ∧
    frameType f = type

/-- What a good frame that carries no NAK acknowledges leaves the replay buffer; frames sent since may follow. -/
def acknowledged (s t : State) (p : Nat) (f : Frame) : Prop :=
  ∃ more, (getPort t p).replay =
    (if (getPort s p).replay.any (fun r => r.1 == frameAck f)
      then ((getPort s p).replay.dropWhile (fun r => r.1 != frameAck f)).drop 1 else (getPort s p).replay) ++ more

/-- The receive queues of a port take these packets now: none is kept from before, their pointers agree, and each queue that
one is for is enabled and has room (R188, R191, R194). -/
def rxTakes (s : State) (p : Nat) (ks : List Packet) : Prop :=
  (getPort s p).held = [] ∧ (∀ resp, ((getPort s p).ptrs resp).bad = false) ∧
  ∀ k ∈ ks, regBit s (lp p 1) (rxOff k.isResp 0) 0 = true ∧
    ((getPort s p).ptrs k.isResp).count + ((ks.filter (fun x => x.isResp == k.isResp)).map Packet.words).sum ≤ 4096

/-- A DATA frame in order is delivered: its number is the last received, its bytes follow those kept and the packets that
are whole stand in the receive queues; out of order, or in a frame that did not arrive whole, it is answered with NAK
naming the last good frame and delivers nothing, and so is a control frame that names another last DATA frame than the one
received (log 139). Every good frame acknowledges (R255 to R257). -/
def Obligations.DataFramesAreDeliveredInOrder : Prop :=
  (∀ (s : State) (p : Fin 16) (f : Frame), takesFrame s p.val f 0 → frameNak f = false →
    frameSeq f = ((getPort s p.val).rseq + 1) % 2 ^ 24 →
    let got := parsePackets 8 ((getPort s p.val).rx ++ f.body)
    rxTakes s p.val got.1 →
    ∃ t, exec (.data p f) s = .next t ∧ (getPort t p.val).rseq = frameSeq f ∧ (getPort t p.val).rx = got.2 ∧
      (getPort t p.val).req = (getPort s p.val).req ++ got.1.filter (fun k => !k.isResp) ∧
      (getPort t p.val).resp = (getPort s p.val).resp ++ got.1.filter Packet.isResp ∧ acknowledged s t p.val f ∧
      State.onlyChanges [.out, .regs, .cnt, .lnk, .sys] s t) ∧
  (∀ (s : State) (p : Fin 16) (f : Frame), takesFrame s p.val f 0 → frameSeq f ≠ ((getPort s p.val).rseq + 1) % 2 ^ 24 →
    ∃ t, exec (.data p f) s = .next t ∧
      t.out = s.out ++ [frameOut p.val (frameWord (getPort s p.val).fseq (getPort s p.val).rseq 1 true) (padBody [])] ∧
      State.onlyChanges [.out, .cnt] s t) ∧
  (∀ (s : State) (p : Fin 16) (f : Frame), portEth s p.val = false → 5 ≤ (getPort s p.val).state →
    (getPort s p.val).state ≠ 8 → running s = true → frameGood f = false →
    ∃ t more, exec (.data p f) s = .next t ∧
      t.out = s.out ++ [frameOut p.val (frameWord (getPort s p.val).fseq (getPort s p.val).rseq 1 true) (padBody [])] ++ more ∧
      (f.lost = 0 → more = [] ∧ State.onlyChanges [.out, .cnt] s t) ∧
      State.onlyChanges [.out, .regs, .cnt, .rel, .lnk, .sys] s t) ∧
  (∀ (s : State) (p : Fin 16) (f : Frame), takesFrame s p.val f 1 → frameNak f = false →
    ∃ t, exec (.idleFrame p f) s = .next t ∧ acknowledged s t p.val f ∧ (getPort t p.val).rseq = (getPort s p.val).rseq ∧
      (getPort t p.val).req = (getPort s p.val).req ∧ State.onlyChanges [.out, .cnt, .lnk] s t) ∧
  (∀ (s : State) (p : Fin 16) (f : Frame), takesFrame s p.val f 1 → (getPort s p.val).state = 6 →
    frameSeq f ≠ (getPort s p.val).rseq →
    ∃ t more, exec (.idleFrame p f) s = .next t ∧
      t.out = s.out ++ [frameOut p.val (frameWord (getPort s p.val).fseq (getPort s p.val).rseq 1 true) (padBody [])] ++ more)

/-- CREDIT gives the partner's running totals, and CREDIT_SEND sends the port's own (R258). ECHO is returned with its
turnaround and ECHO_RESP is a sample of the delay (R253; the place of the turnaround in the body is the model's, log 24).
A TICK frame on the port that TICK_SRC selects is a mark: its offset is that of its arrival less the link's delay and the
sender's stamps, and in ACQUIRE the tick number is taken from it, never backwards (R163, R270). A DOWN frame leaves a
record with UNAUTH at the ring's write index (R272, R273). -/
def Obligations.ControlFramesTakeEffect : Prop :=
  (∀ (s : State) (p : Fin 16) (f : Frame), takesFrame s p.val f 2 → frameNak f = false →
    ∃ t, exec (.credit p f) s = .next t ∧ (getPort t p.val).peerReq = leNat (f.body.take 8) ∧
      (getPort t p.val).peerResp = leNat ((f.body.drop 8).take 8) ∧ acknowledged s t p.val f ∧
      State.onlyChanges [.out, .cnt, .lnk] s t) ∧
  (∀ (s : State) (p : Fin 16), (getPort s p.val).state = 6 → portEth s p.val = false → running s = true →
    ∃ t, exec (.creditSend p) s = .next t ∧ (getPort t p.val).owed = 0 ∧
      t.out = s.out ++ [frameOut p.val (frameWord (getPort s p.val).fseq (getPort s p.val).rseq 2 false)
        (padBody (toLe 8 (getPort s p.val).freedReq ++ toLe 8 (getPort s p.val).freedResp))] ∧
      State.onlyChanges [.out, .cnt, .lnk] s t) ∧
  (∀ (s : State) (p : Fin 16) (f : Frame) (turnaround : Nat), takesFrame s p.val f 5 →
    (getPort s p.val).state ≠ 6 ∨ frameSeq f = (getPort s p.val).rseq →
    ∃ t, exec (.echo p f turnaround) s = .next t ∧
      t.out = s.out ++ [frameOut p.val (frameWord (getPort s p.val).fseq (getPort s p.val).rseq 6 false)
        (padBody (toLe 8 turnaround))] ∧ State.onlyChanges [.out, .cnt] s t) ∧
  (∀ (s : State) (p : Fin 16) (f : Frame) (roundTrip : Nat), takesFrame s p.val f 6 → inStep s p.val 5 = true →
    (getPort s p.val).echoes.length < 16 →
    ∃ t, exec (.echoResp p f roundTrip) s = .next t ∧
      (getPort t p.val).echoes = (getPort s p.val).echoes ++ [(roundTrip : Int) - leNat (f.body.take 8)] ∧
      (∀ r, r ≠ p.val → getPort t r = getPort s r) ∧ State.onlyChanges [.cnt, .lnk] s t) ∧
  (∀ (s : State) (p : Fin 16) (f : Frame) (arrival : Int), takesFrame s p.val f 3 → frameNak f = false → tickSrc s = 2 →
    regFld s tckPage 0x218 7 4 = p.val → s.tck.align ≠ 0 →
    let late : Int := arrival - (getPort s p.val).delay - leNat ((f.body.drop 8).take 4) - leNat ((f.body.drop 12).take 4)
    ∃ t, exec (.tick p f arrival) s = .next t ∧ t.tck.offset = late / 8 ∧ t.tck.missed = 0 ∧
      t.tck.num = (if s.tck.align = 1 then max s.tck.num (leNat (f.body.take 8)) else s.tck.num) ∧
      acknowledged s t p.val f ∧ State.onlyChanges [.out, .regs, .cnt, .tck, .lnk, .sys] s t) ∧
  (∀ (s : State) (p : Fin 16) (f : Frame), takesFrame s p.val f 4 → frameNak f = false →
    (regFld s cx3 0x210 7 0 + 1) % 256 ≠ regFld s cx3 0x210 23 16 →
    let a := regFld s cx3 0x208 49 0 + 64 * regFld s cx3 0x210 7 0
    ∃ t, exec (.down p f) s = .next t ∧
      (s.Inv → memWord t.mem a = word (leNat (f.body.take 2) % 2 ^ 14 * 2 ^ 24) ∧
        memWord t.mem (a + 16) = word (1 + leNat ((f.body.drop 2).take 1) % 256 * 256 + 2 ^ 16 + p.val * 2 ^ 17) ∧
        (∀ b, b < a ∨ a + 64 ≤ b → memGet t.mem b = memGet s.mem b)) ∧
      regFld t cx3 0x210 7 0 = (regFld s cx3 0x210 7 0 + 1) % 256 ∧
      regFld t cx3 0x210 23 16 = regFld s cx3 0x210 23 16 ∧ bit (getReg t cx3 0x38) 1 = true ∧
      State.onlyChanges [.out, .regs, .cnt, .mem, .poison, .epochs, .tasks, .prov, .crm, .hbm, .ecc, .cw, .ls, .ldl, .rel, .act, .lnk, .sys, .free] s t)

/-! ### Requests, responses and the transport -/

/-- The request commands, with the operation of each (Table 9.6). -/
def requestCommands (p : Fin 16) (k : Packet) : List (Instr × Nat) :=
  [(.read p k, 1), (.write p k, 3), (.raAddF32 p k, 8), (.raAddBf16 p k, 9), (.raAddMx8 p k, 0xA), (.raMax p k, 0xB),
   (.raAnd p k, 0xC), (.mcastWrite p k, 0x10), (.resolve p k, 0x1A)]

/-- The target bytes of a request, checked before its tag. -/
def requestBytes (s : State) (k : Packet) (op : Nat) : Nat :=
  if op = 1 then k.code * 256 else if op = 3 ∨ op = 0x10 then k.len else if op = 0x1A then 0 else raTarget s k

/-- The port serves the packet: the device runs, the port's block takes new work (R32), and the packet has not been lost with a
receive queue whose pointers do not agree (R259). -/
def takesRequests (s : State) (p : Nat) (k : Packet) : Prop :=
  running s = true ∧ takesWork s (lp p 0) = true ∧ rxLost p k s = false

/-- A request of `n` target bytes passes every check of R259, and its data are these. -/
def accepted (s : State) (p : Nat) (k : Packet) (n : Nat) (data : List Byte) : Prop :=
  takesRequests s p k ∧ headerNack s p k = none ∧ (n = 0 ∨ rangeOk s k n = true) ∧ openPacket s k = some data

/-- READ answers with the bytes and changes none; WRITE and MCAST_WRITE put their data at the address and change no other
byte; RESOLVE answers with the window of the job's unit that covers the address, or with the address's 4 KiB when none
does (R261, R268, R274; the answer's layout is the model's, log 22). -/
def Obligations.ReadsWritesAndResolvesAreServed : Prop :=
  (∀ (s : State) (p : Fin 16) (k : Packet) (data : List Byte), accepted s p.val k (k.code * 256) data →
    needSpans s true [(k.addr, k.code * 256)] = .ok →
    ∃ t, exec (.read p k) s = .next t ∧
      t = forJob k.job (fun u => respond p.val k 2 0 false false (memBytes u.mem k.addr (k.code * 256))
        (touchReads 15 [(k.addr, k.code * 256)] (takeOff p.val k u))) s ∧
      State.onlyChanges [.out, .regs, .cnt, .poison, .crm, .hbm, .cw, .ls, .rel, .act, .lnk, .keys, .sys, .free] s t) ∧
  (∀ (s : State) (p : Fin 16) (k : Packet) (data : List Byte) (c : Instr), c = .write p k ∨ c = .mcastWrite p k →
    accepted s p.val k k.len data → needLines s false (linesOf k.addr k.len) = .ok →
    ∃ t, exec c s = .next t ∧ (s.Inv → ∀ i < data.length, memGet t.mem (k.addr + i) = data.getD i 0) ∧
      (s.Inv → ∀ a, a < k.addr ∨ k.addr + data.length ≤ a → memGet t.mem a = memGet s.mem a) ∧
      State.onlyChanges [.out, .regs, .cnt, .mem, .poison, .epochs, .tasks, .prov, .crm, .hbm, .ecc, .cw, .ls, .ldl, .rel, .act, .lnk, .keys, .sys, .free] s t) ∧
  (∀ (s : State) (p : Fin 16) (k : Packet) (data : List Byte), accepted s p.val k 0 data →
    ∃ t, exec (.resolve p k) s = .next t ∧
      (∀ n, unitFor s k.job k.addr = some n → t = forJob k.job (fun u => respond p.val k 0x1B 0 false false
        (wordsBytes [word (unitBase s n), word (unitSize s n), word (n + unitEpoch s n * 2 ^ 24), 0]) (takeOff p.val k u)) s) ∧
      (unitFor s k.job k.addr = none → t = forJob k.job (fun u => respond p.val k 0x1B 0 false false
        (wordsBytes [word (k.addr / 4096 * 4096), 4096, 0, 0]) (takeOff p.val k u)) s) ∧
      State.onlyChanges [.out, .regs, .cnt, .rel, .act, .lnk, .keys, .sys] s t)

/-- The adders take the packet for an armed bucket: the target is memory they serve, slots are armed in each of them, and
the operation fits (R286, R289). -/
def addersTake (s : State) (k : Packet) (b : Buck) : Prop :=
  let span := raSpan b k.op k.code k.addr k.len
  (winOf k.addr = .hbm ∨ winOf k.addr = .scr) ∧
  findBuck s k.job k.bucket = some b ∧ b.live = true ∧ slotsArmed s k.job k.bucket span = true ∧
  raFits b k.op k.code k.addr k.len k.promoted = true ∧ (b.op = 2 → inStaging b k.op k.code k.addr k.len = true) ∧
  needLines s false (linesOf span.1 span.2) = .ok

/-- The value a memory-side adder leaves in an element of `w` bytes (Table 10.2): the exact sum rounded once to FP32, the
larger, or the bitwise and; `old` and `new` are the element's codes in memory and in the packet, `v` the decoded addend. -/
def adderRule (op code old new : Nat) (v : Sys2Proof.Num.Val) : Nat :=
  if op = 8 ∨ op = 9 then (Sys2Proof.Num.r32 (Sys2Proof.Num.add (Sys2Proof.Num.d32 (BitVec.ofNat 32 old)) v)).toNat
  else if op = 0xB ∧ code = 1 then (maxF32 (BitVec.ofNat 32 old) (BitVec.ofNat 32 new)).toNat
  else if op = 0xB then max old new
  else Nat.land old new

/-- A remote accumulate that the adders take changes its target elements by the operation's rule and no other byte: the
sum for RA_ADD_F32 and RA_ADD_BF16, the larger for RA_MAX, the and for RA_AND. In a bucket of MX8 elements the change is
confined to the blocks' elements, scales and promoted values. Without a slot it is refused with code 8 (R285 to R288). -/
def Obligations.RemoteAccumulatesApplyTheirRule : Prop :=
  (∀ (s : State) (p : Fin 16) (k : Packet) (b : Buck) (data : List Byte) (x : Instr × Nat), x ∈ requestCommands p k →
    x.2 = k.op → k.op ∈ [8, 9, 0xB, 0xC] → accepted s p.val k (raTarget s k) data → data.length = k.len → addersTake s k b →
    b.op ≠ 2 ∨ toFlag b k.op k.addr k.len = true →
    let w := if k.op = 8 ∨ k.op = 9 ∨ (k.op = 0xB ∧ k.code = 1) then 4 else 8
    let n := raCount k.op k.code k.len
    ∃ t, exec x.1 s = .next t ∧
      (s.Inv → ∀ i < n, leNat (memBytes t.mem (k.addr + w * i) w) =
        adderRule k.op k.code (leNat (memBytes s.mem (k.addr + w * i) w)) (leNat ((data.drop (w * i)).take w))
          ((raVals k.op k.code data).getD i (Sys2Proof.Num.ofNat 0))) ∧
      (s.Inv → ∀ a, a < k.addr ∨ k.addr + w * n ≤ a → memGet t.mem a = memGet s.mem a) ∧
      State.onlyChanges [.out, .regs, .cnt, .mem, .poison, .epochs, .tasks, .crm, .hbm, .ecc, .cw, .ls, .ldl, .rel, .act, .lnk, .keys, .sys, .free] s t) ∧
  (∀ (s : State) (p : Fin 16) (k : Packet) (b : Buck) (data : List Byte) (x : Instr × Nat),
    x ∈ [(.raAddMx8 p k, 0xA), (.raAddF32 p k, 8)] → x.2 = k.op → accepted s p.val k (raTarget s k) data →
    addersTake s k b → b.op = 2 →
    let e := k.addr - b.base
    let m := cdiv (raCount k.op k.code data.length) 32
    ∃ t, exec x.1 s = .next t ∧ t.mem = (perform b k.op k.code k.addr data s).mem ∧
      (s.Inv → ∀ a, (a < k.addr ∨ k.addr + 32 * m ≤ a) → (a < b.sbase + e / 32 ∨ b.sbase + e / 32 + m ≤ a) →
        (a < b.pbase + 4 * e ∨ b.pbase + 4 * e + 128 * m ≤ a) → memGet t.mem a = memGet s.mem a) ∧
      State.onlyChanges [.out, .regs, .cnt, .mem, .poison, .epochs, .tasks, .crm, .hbm, .ecc, .cw, .ls, .ldl, .rel, .act, .lnk, .keys, .sys, .free] s t) ∧
  (∀ (s : State) (p : Fin 16) (k : Packet) (data : List Byte) (x : Instr × Nat), x ∈ requestCommands p k →
    8 ≤ x.2 → x.2 ≤ 0xC → accepted s p.val k (raTarget s k) data → findBuck s k.job k.bucket = none →
    winOf k.addr = .hbm ∨ winOf k.addr = .scr →
    ∃ t, exec x.1 s = .next t ∧ t = forJob k.job (fun u => nack p.val k 8 (bump cx3 1 0 1 (takeOff p.val k u))) s ∧ t.mem = s.mem)

/-- A response that has not been lost with its queue (R259) verifies and answers an outstanding request. -/
def answers (s : State) (p : Nat) (k : Packet) (x : Track) (data : List Byte) : Prop :=
  running s = true ∧ rxLost p k s = false ∧ openPacket s k = some data ∧ matching s k = some x

/-- The task that a request is for still works on it. -/
def working (s : State) (x : Track) (u : Task) : Prop :=
  findTask s x.owner = some u ∧ u.phase = .dispatched ∧ u.status = 0 ∧ u.direct = none

/-- A response ends the tracking of its request and does what the request was for, and then requests held for a free entry
go on (R262, R268): the data of a transfer's read is kept until it completes a run of the transfer's writes, which are formed
independently of its reads, and that run is written where the transfer puts it (R206); a read-back ends its transfer; an
exchange's data is written over its target; the word of a remote FINITE result comes to its task; an acknowledged
contribution leaves its task one wait fewer; a RESOLVE's answer enters the window cache at its front. -/
def Obligations.ResponsesServeTheirRequest : Prop :=
  (∀ (s : State) (p : Fin 16) (k : Packet) (x : Track) (data : List Byte) (u : Task), answers s p.val k x data →
    x.kind = .moveRead → findTask s x.owner = some u → u.phase = .dispatched → u.status = 0 → u.spec = false →
    dstFar s u = false → u.got = [] →
    let held := u.wpos + u.hold.length
    let lo := (movSpan u (u.tensor 0) x.first).1 / 256 * 256
    let come (q : Nat) : List Byte := (data.drop ((movSpan u (u.tensor 0) q).1 - lo)).take (movSpan u (u.tensor 0) q).2
    let stop := if (getEng s u.eng).ctx.contains u.id then u.pos else min (movTotal u) u.sliceEnd
    let w0 := { u with hold := u.hold ++ (List.range x.count).map (fun j => come (x.first + j)) }
    (held < x.first → doneRuns u stop = [] → ∃ v w, exec (.readResp p k) s = .next (answered x v) ∧
      findTask v x.owner = some w ∧ w.hold = u.hold ∧ w.wpos = u.wpos ∧
      (∀ j < x.count, mfind w.got (x.first + j) = some (come (x.first + j))) ∧ v.mem = s.mem) ∧
    (x.first = held → doneRuns w0 stop = [] → ∃ v w, exec (.readResp p k) s = .next (answered x v) ∧
      findTask v x.owner = some w ∧ w.hold = w0.hold ∧ w.wpos = u.wpos ∧ w.got = [] ∧ v.mem = s.mem) ∧
    (∀ i e, x.first = held → doneRuns w0 stop = [(i, e)] →
      let b := movBuf u i e (fun q => w0.hold.getD (q - u.wpos) [])
      writable s b →
      ∃ v w, exec (.readResp p k) s = .next (answered x v) ∧ findTask v x.owner = some w ∧ w.wpos = e ∧
        w.hold = w0.hold.drop (e - u.wpos) ∧ writesBuf s v (outBuf u b s).1 ∧
        State.onlyChanges [.out, .regs, .cnt, .mem, .poison, .epochs, .tasks, .prov, .eng, .crm, .hbm, .ecc, .cw, .ls, .ldl, .rel, .act, .lnk, .keys, .sys, .free] s (answered x v))) ∧
  (∀ (s : State) (p : Fin 16) (k : Packet) (x : Track) (data : List Byte) (u : Task), answers s p.val k x data →
    x.kind = .readback → working s x u → s.tck.aborting.contains u.id = false →
    ∃ v w, exec (.readResp p k) s = .next (answered x v) ∧ findTask v x.owner = some w ∧
      w.phase = .complete ∧ w.status = 1 ∧ v.lnk.track = mdel s.lnk.track k.seq ∧ v.mem = s.mem) ∧
  (∀ (s : State) (p : Fin 16) (k : Packet) (x : Track) (data : List Byte) (u : Task) (b : Buck), answers s p.val k x data →
    x.kind = .exchange → findTask s x.owner = some u → u.phase = .dispatched → u.status = 0 →
    findBuck s u.job (bucketOf u) = some b →
    ∃ v, exec (.readResp p k) s = .next (answered x v) ∧
      (b.op ≠ 2 ∨ x.k.addr = b.flag → v.mem = memStore s.mem x.k.addr data) ∧
      (b.op = 2 → x.k.addr ≠ b.flag →
        let e := x.k.addr - b.base
        let n := data.length / 33 * 32
        (k.promoted = false → v.mem = memStore (memStore s.mem x.k.addr (data.take n)) (b.sbase + e / 32) (data.drop n)) ∧
        (k.promoted = true → v.mem =
          memStore (memStore s.mem (b.pbase + 4 * e) data) (b.sbase + e / 32) (List.replicate (data.length / 4 / 32) 0xFF)))) ∧
  (∀ (s : State) (p : Fin 16) (k : Packet) (x : Track) (data : List Byte) (u : Task), answers s p.val k x data →
    x.kind = .finite → findTask s x.owner = some u →
    ∃ v w, exec (.readResp p k) s = .next (answered x v) ∧ findTask v x.owner = some w ∧ w.waits = u.waits - 1 ∧
      w.cap = u.cap.take 1 ++ [word (leNat ((data.drop (slotAddr u 3 % 256)).take 8))] ∧ v.mem = s.mem) ∧
  (∀ (s : State) (p : Fin 16) (k : Packet) (x : Track) (data : List Byte), answers s p.val k x data → x.kind = .contribute →
    ∃ v, exec (.ack p k) s = .next (answered x v) ∧
      v.tasks = s.tasks.map (fun t => if t.id = x.owner then { t with waits := t.waits - 1 } else t) ∧
      (k.promoted = true → (x.k.job, x.k.bucket) ∈ v.lnk.promoted) ∧ v.lnk.track = mdel s.lnk.track k.seq ∧ v.mem = s.mem) ∧
  (∀ (s : State) (p : Fin 16) (k : Packet) (x : Track) (data : List Byte), answers s p.val k x data → x.kind ≠ .contribute →
    ∃ v, exec (.ack p k) s = .next (answered x v) ∧
      (x.kind = .moveWrite → v = movAcked x.owner (dropTrack k.seq (takeOff p.val k s))) ∧
      (x.kind = .mcast → v = mcastAcked x.owner x.first x.count (dropTrack k.seq (takeOff p.val k s))) ∧
      State.onlyChanges [.out, .regs, .cnt, .poison, .tasks, .eng, .crm, .hbm, .cw, .ls, .ldl, .rel, .act, .lnk, .keys, .sys, .free] s (answered x v)) ∧
  (∀ (s : State) (p : Fin 16) (k : Packet) (x : Track) (data : List Byte), answers s p.val k x data → x.kind = .resolve →
    let w (i : Nat) : Nat := leNat ((data.drop (8 * i)).take 8)
    ∃ v, exec (.resolveResp p k) s = .next (answered x v) ∧
      v.lnk.cache = (⟨x.dev, x.k.job, w 0, w 1, nfld (w 2) 9 0, nfld (w 2) 31 24⟩ :: s.lnk.cache).take 4096 ∧
      (∀ y, x.first ≠ k.seq → getTrack s x.first = some y → getTrack v x.first = some { y with asking := false }) ∧
      State.onlyChanges [.out, .regs, .cnt, .rel, .lnk, .sys] s v)

/-- A request that fails a check of its header or unit is refused with that check's code, one out of range with code 1,
and one whose tag does not verify with code 6 and AUTH_FAIL, and none writes memory or ends a task (R259, R263, R276). A
NOTICE that verifies and has a code of Table 9.12 leaves its record in the ring (R273; which detail words carry cause and
tick is the model's, log 23). A packet lost with its queue is neither performed nor answered (R259). A refusal ends the task that asked for the request: for a closed job with JOB_CLOSED's
status, for other causes with ENGINE_FAULT; out of range, with ADDRESS_FAULT naming the lowest address refused once no
request at a lower one is outstanding. A stale unit is resolved again, a refused tag is tried again, NO_SLOT leaves the
request to be sent again (R263, R291). An answer that does not come in time sends the request again, and the third time,
or for a contribution at once, ends its task with ENGINE_FAULT (R264). For a task that has ended nothing is sent again
(R303). -/
def Obligations.RefusalsNoticesAndTimeouts : Prop :=
  (∀ (s : State) (p : Fin 16) (k : Packet) (x : Instr × Nat) (code : Nat), x ∈ requestCommands p k →
    takesRequests s p.val k → headerNack s p.val k = some code →
    ∃ t, exec x.1 s = .next t ∧ t = nack p.val k code (takeOff p.val k s) ∧
      State.onlyChanges [.out, .regs, .cnt, .rel, .act, .lnk, .keys, .sys] s t) ∧
  (∀ (s : State) (p : Fin 16) (k : Packet) (x : Instr × Nat), x ∈ requestCommands p k →
    takesRequests s p.val k → headerNack s p.val k = none → requestBytes s k x.2 ≠ 0 →
    rangeOk s k (requestBytes s k x.2) = false →
    ∃ t, exec x.1 s = .next t ∧ t = nack p.val k 1 (takeOff p.val k s) ∧
      State.onlyChanges [.out, .regs, .cnt, .rel, .act, .lnk, .keys, .sys] s t) ∧
  (∀ (s : State) (p : Fin 16) (k : Packet) (x : Instr × Nat), x ∈ requestCommands p k → takesRequests s p.val k →
    headerNack s p.val k = none → requestBytes s k x.2 = 0 ∨ rangeOk s k (requestBytes s k x.2) = true →
    openPacket s k = none →
    ∃ t, exec x.1 s = .next t ∧ bit (getReg t (lp p.val 1) 0x20) 9 = true ∧
      ((getKey s k.job).cur ≠ none → State.onlyChanges [.out, .regs, .cnt, .rel, .act, .lnk, .keys, .sys] s t) ∧
      State.onlyChanges [.out, .regs, .cnt, .rel, .act, .lnk, .keys, .sys, .free] s t) ∧
  (∀ (s : State) (p : Fin 16) (k : Packet) (x : Instr × Nat), x ∈ requestCommands p k ++ [(.readResp p k, 2), (.ack p k, 4),
      (.nack p k, 5), (.resolveResp p k, 0x1B)] → running s = true → takesWork s (lp p.val 0) = true → rxLost p.val k s = true →
    ∃ t, exec x.1 s = .next t ∧ t = rxCheck p.val k.isResp s ∧ t.mem = s.mem ∧ t.tasks = s.tasks) ∧
  (∀ (s : State) (p : Fin 16) (k : Packet) (data : List Byte), takesRequests s p.val k → openPacket s k = some data →
    1 ≤ k.code → k.code ≤ 4 → k.hop = true ∨ k.dst = devNum s →
    (regFld s cx3 0x210 7 0 + 1) % 256 ≠ regFld s cx3 0x210 23 16 →
    let a := regFld s cx3 0x208 49 0 + 64 * regFld s cx3 0x210 7 0
    ∃ t, exec (.notice p k) s = .next t ∧
      (s.Inv → memWord t.mem a = k.w0 ∧ memWord t.mem (a + 8) = k.w1 ∧
        (∀ b, b < a ∨ a + 64 ≤ b → memGet t.mem b = memGet s.mem b)) ∧
      regFld t cx3 0x210 7 0 = (regFld s cx3 0x210 7 0 + 1) % 256 ∧
      State.onlyChanges [.out, .regs, .cnt, .mem, .poison, .epochs, .tasks, .prov, .crm, .hbm, .ecc, .cw, .ls, .ldl, .rel, .act, .lnk, .sys, .free] s t) ∧
  (∀ (s : State) (p : Fin 16) (k : Packet) (x : Track) (data : List Byte) (u : Task) (status : Nat), answers s p.val k x data →
    (k.code, status) ∈ [(4, 7), (2, 9), (5, 9), (7, 9)] ∨
      (k.code = 6 ∧ regFld s cx2 0x200 15 12 ≤ x.auth ∧ status = 9) → x.kind ≠ .readback → working s x u →
    s.tck.aborting.contains u.id = false →
    ∃ v w, exec (.nack p k) s = .next (answered x v) ∧ findTask v x.owner = some w ∧
      w.phase = .complete ∧ w.status = status ∧ State.onlyChanges [.out, .regs, .cnt, .tasks, .eng, .ldl, .rel, .act, .lnk, .keys, .sys] s (answered x v)) ∧
  (∀ (s : State) (p : Fin 16) (k : Packet) (x : Track) (data : List Byte) (u : Task), answers s p.val k x data →
    k.code = 1 → x.kind ≠ .readback → working s x u → s.tck.aborting.contains u.id = false → u.nacked = none →
    ∃ v w, exec (.nack p k) s = .next (answered x v) ∧ findTask v x.owner = some w ∧
      ((∀ y ∈ mdel s.lnk.track k.seq, y.2.owner = x.owner → y.2.state = 1 → y.2.kind = .resolve ∨ reqLow s x ≤ reqLow s y.2) →
        w.phase = .complete ∧ w.status = 3 ∧ w.slot = reqSlot s x ∧ w.fault = word (reqLow s x)) ∧
      ((∃ y ∈ mdel s.lnk.track k.seq, y.2.owner = x.owner ∧ y.2.state = 1 ∧ y.2.kind ≠ .resolve ∧ reqLow s y.2 < reqLow s x) →
        w.phase = .dispatched ∧ w.nacked = some (reqLow s x, reqSlot s x)) ∧
      State.onlyChanges [.out, .regs, .cnt, .tasks, .eng, .ldl, .rel, .act, .lnk, .keys, .sys] s (answered x v)) ∧
  (∀ (s : State) (p : Fin 16) (k : Packet) (x : Track) (data : List Byte), answers s p.val k x data → k.code = 8 →
    ownerLive s x.owner = true →
    ∃ t, exec (.nack p k) s = .next t ∧ getTrack t k.seq = some { x with state := 2 } ∧ t.tasks = s.tasks ∧ t.mem = s.mem) ∧
  (∀ (s : State) (p : Fin 16) (k : Packet) (x : Track) (data : List Byte), answers s p.val k x data → k.code = 3 →
    ownerLive s x.owner = true → x.resolves < regFld s cx2 0x200 11 8 →
    ∃ v, exec (.nack p k) s = .next (answered x v) ∧ getTrack v k.seq = some { x with state := 0, asking := false } ∧
      v.lnk.cache = s.lnk.cache.filter (fun w => !(w.dev == x.dev && w.unit == x.k.unit)) ∧ v.tasks = s.tasks ∧ v.mem = s.mem) ∧
  (∀ (s : State) (p : Fin 16) (k : Packet) (x : Track) (data : List Byte), answers s p.val k x data → k.code = 6 →
    ownerLive s x.owner = true → x.auth < regFld s cx2 0x200 15 12 →
    exec (.nack p k) s = .next (sendTrack k.seq { x with auth := x.auth + 1 } x.port (bump cx2 0 2 1 (takeOff p.val k s)))) ∧
  (∀ (s : State) (p : Fin 16) (k : Packet) (x : Track) (data : List Byte), answers s p.val k x data →
    ownerLive s x.owner = false →
    ∃ v, exec (.nack p k) s = .next (answered x v) ∧ v.lnk.track = mdel s.lnk.track k.seq ∧ v.tasks = s.tasks ∧ v.mem = s.mem) ∧
  (∀ (s : State) (seq : Nat) (x : Track), getTrack s seq = some x → x.state = 1 → x.kind ≠ .exchange → x.kind ≠ .contribute →
    x.kind ≠ .resolve → ownerLive s x.owner = true → x.timeouts < 2 →
    ∃ v, exec (.respTimeout seq) s = .next (answered x v) ∧
      getTrack v seq = some { x with timeouts := x.timeouts + 1, state := 0 } ∧ bit (getReg v cx2 0x20) 9 = true ∧
      v.tasks = s.tasks ∧ v.mem = s.mem) ∧
  (∀ (s : State) (seq : Nat) (x : Track) (port : Nat), getTrack s seq = some x → x.state = 1 → x.kind = .resolve →
    ownerLive s x.owner = true → x.timeouts < 2 → route s x.dev = some port →
    exec (.respTimeout seq) s = .next (sendTrack seq { x with timeouts := x.timeouts + 1, state := 0 } port
      (bump cx2 0 2 1 (bump cx2 0 3 1 (raise cx2 9 0 s))))) ∧
  (∀ (s : State) (seq : Nat) (x : Track) (u : Task), getTrack s seq = some x → x.state = 1 →
    x.kind = .contribute ∨ (x.kind ≠ .exchange ∧ x.kind ≠ .readback ∧ 2 ≤ x.timeouts) → working s x u →
    s.tck.aborting.contains u.id = false →
    ∃ v w, exec (.respTimeout seq) s = .next (answered x v) ∧ findTask v x.owner = some w ∧
      w.phase = .complete ∧ w.status = 9 ∧ bit (getReg v cx2 0x20) 9 = true ∧ v.mem = s.mem) ∧
  (∀ (s : State) (seq : Nat) (x : Track) (port : Nat), getTrack s seq = some x → x.state = 2 → ownerLive s x.owner = true →
    route s x.dev = some port →
    ∃ t, exec (.noslotRetry seq) s = .next t ∧ t = sendTrack seq x port (bump cx2 0 2 1 s) ∧ t.mem = s.mem ∧
      (∀ y, sealPacket x.k (bump cx2 0 2 1 s) = some y → t = handOver port x.dev (x.kind == .mcast && x.k.op == 3) y.1
        (setTrack seq { x with state := 1, port := port, asking := false } y.2))) ∧
  (∀ (s : State) (seq : Nat) (x : Track) (u : Task), getTrack s seq = some x → x.state = 2 ∨ (x.kind = .exchange ∧ x.state = 1) →
    working s x u → s.tck.aborting.contains u.id = false →
    ∃ v w, exec (.redTimeout seq) s = .next (answered x v) ∧ findTask v x.owner = some w ∧ w.phase = .complete ∧
      w.status = 9 ∧ bit (getReg v cx3 0x20) 11 = true ∧ v.mem = s.mem)

/-- A unit's entry takes a window that fits and advances the unit's epoch, from 255 to 1; one that does not fit is refused
(R266, R267). CACHE_FLUSH empties the window cache (R268). -/
def Obligations.UnitsAdvanceTheirEpoch : Prop :=
  (∀ (s : State) (who : Initiator) (u : Fin 1024) (w : Fin 4) (v : Word),
    s.admits who cx2 (0x1000 + 32 * u.val + 8 * w.val) v = true → u.val ≠ 0 → w.val < 2 →
    v ≠ unitW s u.val w.val → (if w.val = 0 then fld v 49 0 else unitBase s u.val) % 256 = 0 →
    (if w.val = 1 then fld v 49 0 else unitSize s u.val) % 256 = 0 →
    unitFits (if w.val = 0 then fld v 49 0 else unitBase s u.val) (if w.val = 1 then fld v 49 0 else unitSize s u.val) = true →
    ∃ t, exec (.unitWrite who u w v) s = .next t ∧ unitW t u.val w.val = v ∧
      unitEpoch t u.val = (if unitEpoch s u.val = 255 then 1 else unitEpoch s u.val + 1) ∧
      (∀ x y, x ≠ u.val → x < 1024 → y < 4 → unitW t x y = unitW s x y) ∧ State.onlyChanges [.regs] s t) ∧
  (∀ (s : State) (who : Initiator) (u : Fin 1024) (v : Word), s.admits who cx2 (0x1000 + 32 * u.val + 16) v = true →
    u.val ≠ 0 → setFld v 31 24 (unitEpoch s u.val) ≠ unitW s u.val 2 → unitBase s u.val % 256 = 0 → unitSize s u.val % 256 = 0 →
    unitFits (unitBase s u.val) (unitSize s u.val) = true →
    ∃ t, exec (.unitWrite who u 2 v) s = .next t ∧ unitJob t u.val = fld v 15 0 ∧ unitValid t u.val = bit v 16 ∧
      unitIngest t u.val = bit v 17 ∧
      unitEpoch t u.val = (if unitEpoch s u.val = 255 then 1 else unitEpoch s u.val + 1) ∧
      (∀ x y, x ≠ u.val → x < 1024 → y < 4 → unitW t x y = unitW s x y) ∧ State.onlyChanges [.regs] s t) ∧
  (∀ (s : State) (who : Initiator) (u : Fin 1024) (v : Word), s.admits who cx2 (0x1000 + 32 * u.val) v = true → u.val ≠ 0 →
    fld v 49 0 % 256 ≠ 0 →
    ∃ t, exec (.unitWrite who u 0 v) s = .next t ∧ raisedAt s t cx2 8 (0x1000 + 32 * u.val) ∧
      (∀ y, unitW t u.val y = unitW s u.val y) ∧ State.onlyChanges [.regs, .out, .sys] s t) ∧
  (∀ (s : State) (who : Initiator) (v : Word), s.admits who cx2 0x228 v = true →
    ∃ t, exec (.cacheFlush who v) s = .next t ∧ t.lnk.cache = (if bit v 0 then [] else s.lnk.cache) ∧
      t.lnk.track = s.lnk.track ∧ State.onlyChanges [.lnk] s t)

/-- A frame reaches an ACTIVE Ethernet port of a device that runs. -/
def takesEther (s : State) (p : Nat) : Prop := portEth s p = true ∧ portActive s p = true ∧ running s = true

/-- A datagram reaches such a port under the headers of Table 9.9. -/
def takesDatagram (s : State) (p : Nat) (d : Datagram) : Prop := takesEther s p ∧ headOk s p d.head = true

/-- The datagrams in flight go out again in order, with their packets and numbers, and acknowledging what is next now. -/
def sentAgain (s t : State) (p dev : Nat) (c : Conn) : Prop :=
  ∃ es : List Datagram, t.out = s.out ++ es.map (datagramOut s p dev) ∧
    es.map (fun e => e.packets) = c.flight.map (fun e => e.packets) ∧ es.map dgPsn = c.flight.map dgPsn ∧
    ∀ e ∈ es, dgAck e = c.rxNext % 2 ^ 32

/-- The reliable transport of the Ethernet personality: a SYN's number is adopted, data in order is delivered and data out
of order answered with NAK and not delivered; an acknowledgement takes datagrams out of flight; a NAK and a timeout send
the flight again with the window halved, and the eighth attempt ends the connection (R281). An echo request and a
neighbour solicitation for the port's own address are answered to their sender, with the payload returned and with the
port's MAC address; for another address nothing happens but the count of frames (R278, R279, R283). -/
def Obligations.TransportAndOwnAddress : Prop :=
  (∀ (s : State) (p : Fin 16) (d : Datagram), takesDatagram s p.val d → (getConn s p.val (dgDev d)).rxOpen = false →
    connRoom s p.val (dgDev d) = true →
    ∃ t, exec (.transportSyn p d) s = .next t ∧
      getConn t p.val (dgDev d) = { getConn s p.val (dgDev d) with
        rxOpen := true, rxNext := dgPsn d, peerWin := dgWin d, ece := (getConn s p.val (dgDev d)).ece || d.ce } ∧
      State.onlyChanges [.cnt, .lnk] s t) ∧
  (∀ (s : State) (p : Fin 16) (d : Datagram), takesDatagram s p.val d → (getConn s p.val (dgDev d)).rxOpen = true →
    dgPsn d = (getConn s p.val (dgDev d)).rxNext → rxTakes s p.val d.packets →
    ∃ t, exec (.transportData p d) s = .next t ∧
      (getConn t p.val (dgDev d)).rxNext = ((getConn s p.val (dgDev d)).rxNext + 1) % 2 ^ 32 ∧
      (getPort t p.val).req = (getPort s p.val).req ++ d.packets.filter (fun k => !k.isResp) ∧
      (getPort t p.val).resp = (getPort s p.val).resp ++ d.packets.filter Packet.isResp ∧
      State.onlyChanges [.out, .regs, .cnt, .lnk, .sys] s t) ∧
  (∀ (s : State) (p : Fin 16) (d : Datagram), takesDatagram s p.val d →
    (getConn s p.val (dgDev d)).rxOpen = false ∨ dgPsn d ≠ (getConn s p.val (dgDev d)).rxNext →
    ∃ t e, exec (.transportData p d) s = .next t ∧ t.out = s.out ++ [datagramOut s p.val (dgDev d) e] ∧ fld e.w1 19 16 = 3 ∧
      dgAck e = (getConn s p.val (dgDev d)).rxNext % 2 ^ 32 ∧
      (getConn t p.val (dgDev d)).rxNext = (getConn s p.val (dgDev d)).rxNext ∧ getPort t p.val = getPort s p.val ∧
      State.onlyChanges [.out, .cnt, .lnk] s t) ∧
  (∀ (s : State) (p : Fin 16) (d : Datagram), takesDatagram s p.val d →
    hasConn s p.val (dgDev d) = true →
    ∃ t more, exec (.transportAck p d) s = .next t ∧
      (getConn t p.val (dgDev d)).flight = (ackPsn d (getConn s p.val (dgDev d))).flight ++ more ∧
      (getConn t p.val (dgDev d)).una = (ackPsn d (getConn s p.val (dgDev d))).una ∧
      (getConn t p.val (dgDev d)).cwnd = (ackPsn d (getConn s p.val (dgDev d))).cwnd ∧ State.onlyChanges [.out, .cnt, .lnk] s t) ∧
  (∀ (s : State) (p : Fin 16) (d : Datagram), takesDatagram s p.val d →
    hasConn s p.val (dgDev d) = true →
    let c := halve (ackPsn d (getConn s p.val (dgDev d)))
    ∃ t, exec (.transportNak p d) s = .next t ∧
      getConn t p.val (dgDev d) =
        (if c.flight = [] then { c with ece := c.ece || d.ce } else { c with ece := false, since := 0 }) ∧
      sentAgain s t p.val (dgDev d) c ∧ State.onlyChanges [.out, .cnt, .lnk] s t) ∧
  (∀ (s : State) (p : Fin 16) (d : Datagram), takesEther s p.val → headOk s p.val d.head = false →
    ∀ c ∈ [Instr.transportData p d, .transportAck p d, .transportNak p d, .transportSyn p d],
      exec c s = .next (bump (lp p.val 1) 0 5 1 (bump (lp p.val 0) 0 1 1 s))) ∧
  (∀ (s : State) (p : Fin 16) (dev : Fin 16384), takesEther s p.val → (getConn s p.val dev.val).flight ≠ [] →
    (getConn s p.val dev.val).attempts < 8 →
    ∃ t, exec (.transportTimeout p dev) s = .next t ∧
      getConn t p.val dev.val = { halve (getConn s p.val dev.val) with
        attempts := (getConn s p.val dev.val).attempts + 1, ece := false, since := 0 } ∧
      sentAgain s t p.val dev.val (getConn s p.val dev.val) ∧ State.onlyChanges [.out, .cnt, .lnk] s t) ∧
  (∀ (s : State) (p : Fin 16) (dev : Fin 16384), takesEther s p.val → (getConn s p.val dev.val).flight ≠ [] →
    8 ≤ (getConn s p.val dev.val).attempts →
    ∃ t, exec (.transportTimeout p dev) s = .next t ∧ t.lnk.conns = mdel s.lnk.conns (connKey p.val dev.val) ∧
      State.onlyChanges [.lnk] s t) ∧
  (∀ (s : State) (p : Fin 16) (dev : Fin 16384), takesEther s p.val → (getConn s p.val dev.val).since ≠ 0 →
    ∃ t e, exec (.transportAckTimer p dev) s = .next t ∧ t.out = s.out ++ [datagramOut s p.val dev.val e] ∧ fld e.w1 19 16 = 2 ∧
      dgAck e = (getConn s p.val dev.val).rxNext % 2 ^ 32 ∧ (getConn t p.val dev.val).since = 0 ∧
      State.onlyChanges [.out, .cnt, .lnk] s t) ∧
  (∀ (s : State) (p : Fin 16) (src : BitVec 128) (payload : List Byte), takesEther s p.val →
    exec (.icmpv6EchoRequest p (ipv6 s p.val) src payload) s = .next (putEther p.val
      (.icmp p.val (etherFrame s p.val (ipv6 s p.val) src 58 (icmp6 (ipv6 s p.val) src 129 payload)))
      (bump (lp p.val 0) 0 1 1 s))) ∧
  (∀ (s : State) (p : Fin 16) (src : BitVec 128), takesEther s p.val →
    exec (.neighbourSolicitation p (ipv6 s p.val) src) s = .next (putEther p.val
      (.icmp p.val (etherFrame s p.val (ipv6 s p.val) src 58
        (icmp6 (ipv6 s p.val) src 136 ([0x60, 0, 0, 0] ++ Crypto.beBytes 16 (ipv6 s p.val).toNat ++ [2, 1] ++
          Crypto.beBytes 6 (regFld s (lp p.val 0) 0x230 47 0)))))
      (bump (lp p.val 0) 0 1 1 s))) ∧
  (∀ (s : State) (p : Fin 16) (dst src : BitVec 128) (payload : List Byte), dst ≠ ipv6 s p.val → takesEther s p.val →
    exec (.icmpv6EchoRequest p dst src payload) s = .next (bump (lp p.val 0) 0 1 1 s) ∧
    exec (.neighbourSolicitation p dst src) s = .next (bump (lp p.val 0) 0 1 1 s))

/-! ### Power, clocks and temperatures -/

/-- A state in which the module has gone off: nothing is powered, no block works, and SEC, the fault history, the map-out table and
the lifetime energy are what the MRAM store's replay gives (R385, R409). -/
def isCold (s t : State) : Prop :=
  let v := (replay s.sec).1
  t.sys.powered = false ∧ t.sys.released = false ∧ t.tasks = [] ∧ t.regs = [] ∧ t.tck.num = 0 ∧ t.rel.hist = v.hist ∧
  t.rel.mapTab = v.mapTab ∧ t.mtr.life = v.life ∧ t.sec.ock = v.ock ∧ t.sec.epoch = v.epoch ∧
  t.sec.counter = v.counter ∧ t.out = s.out

/-- PWR_CAP takes a cap from 1,000 W to the ceiling and refuses another (R315). The cap unmet for 64 ticks raises its
error; a droop halves the clock of its rail and counts as a trip until its release; the fast protector and an over-current
halve the arrays' clock, and each is noted as a tick below 3.0 GHz where it is one (R313, R321, R323, R327, R328). The input (Table
11.1): a voltage in a warning band raises its error;
below 38 V every level goes to its floor; loss of the input and an over-voltage turn the module off, which is a cold
reset, and an applied input powers it from its cold state, where it starts at once if RESET_N has risen already; a rise is ready
when its rail and its PLL have settled, and after a fall the rail goes to the voltage of the frequency at which the PLL has settled
(R313, R326, R406, R409). -/
def Obligations.PowerProtectionActs : Prop :=
  (∀ (s : State) (who : Initiator) (v : Word), s.admits who pwr0 0x200 v = true → 100 ≤ fld v 11 0 → fld v 11 0 ≤ s.pwr.ceil →
    ∃ t, exec (.pwrCapWrite who v) s = .next t ∧ regFld t pwr0 0x200 11 0 = fld v 11 0 ∧ State.onlyChanges [.regs] s t) ∧
  (∀ (s : State) (who : Initiator) (v : Word), s.admits who pwr0 0x200 v = true → fld v 11 0 < 100 ∨ s.pwr.ceil < fld v 11 0 →
    ∃ t, exec (.pwrCapWrite who v) s = .next t ∧ raisedAt s t pwr0 8 0x200 ∧
      getReg t pwr0 0x200 = getReg s pwr0 0x200 ∧ State.onlyChanges [.regs, .out, .sys] s t) ∧
  (∀ s : State, 64 ≤ s.pwr.floorTicks → s.pwr.limitW < s.pwr.pEst → ∃ t, exec .capUnmet s = .next t ∧ t.pwr = { s.pwr with floorTicks := 0 } ∧
      bit (getReg t pwr0 0x20) 10 = true ∧ State.onlyChanges [.out, .regs, .rel, .pwr, .sys] s t) ∧
  (∀ (s : State) (fabric : Bool) (det : Fin 20), s.sys.powered = true → fabric = decide (16 ≤ det.val) →
    let p := if fabric then { s.pwr with droopFab := true, trip := true } else { s.pwr with droopArr := true, trip := true }
    ∃ t, exec (.droop fabric det) s = .next t ∧ t.pwr = { p with slow := p.slow || decide (p.effM < 3000) } ∧
      (fabric = true → t.pwr.effF = s.pwr.fclk / 2) ∧ (fabric = false → s.pwr.dropped = false → t.pwr.effM = s.pwr.mclk / 2) ∧
      bit (getReg t pwr0 0x38) 3 = true ∧
      State.onlyChanges [.out, .regs, .cnt, .pwr, .sys] s t) ∧
  (∀ (s : State) (fabric : Bool), ∃ t, exec (.droopRelease fabric) s = .next t ∧
      (fabric = true → t.pwr.effF = s.pwr.fclk) ∧ (if fabric then t.pwr.droopFab else t.pwr.droopArr) = false ∧
      (if fabric then t.pwr.droopArr = s.pwr.droopArr else t.pwr.droopFab = s.pwr.droopFab) ∧
      State.onlyChanges [.pwr] s t) ∧
  (∀ (s : State) (c : Instr), c = .fastTrip ∨ c = .overCurrent → s.sys.powered = true →
    let p := { s.pwr with fastHalf := true, trip := true }
    ∃ t, exec c s = .next t ∧ t.pwr = { p with slow := p.slow || decide (p.effM < 3000) } ∧
      (s.pwr.dropped = false → t.pwr.effM = s.pwr.mclk / 2) ∧ State.onlyChanges [.cnt, .pwr] s t) ∧
  (∀ (s : State) (mv : Nat), s.sys.powered = true → (38000 ≤ mv ∧ mv < 40000) ∨ (60000 < mv ∧ mv ≤ 63000) →
    ∃ t, exec (.inputRange mv) s = .next t ∧ raisedAt s t pwr0 12 0 ∧ State.onlyChanges [.regs, .out, .sys] s t) ∧
  (∀ (s : State) (mv : Nat), s.sys.powered = true → mv < 38000 →
    ∃ t, exec (.inputUv mv) s = .next t ∧ t.pwr.mclk = min s.pwr.mclk s.pwr.lowPoint ∧ t.pwr.duty = min s.pwr.duty s.pwr.dutyFloor ∧
      t.pwr.mem = min s.pwr.mem s.pwr.memFloor ∧ t.pwr.rise = none ∧ (t.pwr.effM < 3000 → t.pwr.slow = true) ∧
      bit (getReg t pwr0 0x20) 11 = true ∧ (∀ n < 8, getHbm t n = { getHbm s n with pwrThrot := t.pwr.mem }) ∧
      State.onlyChanges [.out, .regs, .hbm, .pwr, .sys] s t) ∧
  (∀ (s : State) (c : Instr), c = .vinLoss ∨ c = .overVoltage → s.sys.powered = true →
    ∃ t, exec c s = .next t ∧ isCold s t) ∧
  (∀ s : State, s.sys.powered = false → s.sys.high = none → ∃ t, exec .vinApply s = .next t ∧ t.sys.powered = true ∧
      t.sys.released = false ∧ t.tasks = [] ∧ t.regs = [] ∧ t.rel.mapTab = (replay s.sec).1.mapTab ∧ t.sec.ock = (replay s.sec).1.ock) ∧
  (∀ (s : State) (id0 id1 id2 shaOk rsaOk : Bool) (reads : BitVec 2), s.sys.powered = false →
    s.sys.high = some (slotId id0 id1 id2, shaOk && rsaOk, reads) →
    ∃ u t, exec .vinApply { s with sys := { s.sys with high := none } } = .next u ∧
      exec (.resetRelease id0 id1 id2 shaOk rsaOk reads) u = .next t ∧
      exec .vinApply s = .next t ∧ t.sys.powered = true ∧ t.sys.released = true ∧ t.sys.slot = slotId id0 id1 id2) ∧
  (∀ (s : State) (ok : Bool), ∃ t, exec (.railSettled ok) s = .next t ∧
      (∀ f, s.pwr.rise = some f → t.pwr = { s.pwr with settled := ok, pll := if ok then f else s.pwr.pll }) ∧
      (s.pwr.rise = none → ok = true → t.pwr = { s.pwr with pll := s.pwr.mclk, railArr := voltAt s.pwr.vtArr s.pwr.mclk }) ∧
      (s.pwr.rise = none → ok = false → t.pwr = s.pwr) ∧ State.onlyChanges [.pwr] s t)

/-- POWER_DECISION at phase E4 of a tick boundary, `u` being the state that reaches it, whose registers PWR takes then, with
fixed-frequency mode's removal of a boost point (R315, R318, R323). With an excess over the cap no level rises: min(MAX_STEPS,
ceil(excess / STEP_W)) steps are cut in the order of Table 11.3, from MCLK down its listed points to its floor, then from the duty,
then from the memory, and a prepared rise is cancelled. With none, a rise that has settled is taken; and where the margin is above
HYST and nothing tripped, one step is restored, the last cut first. A level dropped at CRIT or by the input goes to its floor. -/
def Obligations.NoLevelRisesOverTheCap : Prop :=
  ∀ s : State, s.sys.released = true → (getBlk s tckPage).ready = true → running s = true →
    let u := phaseE3 (phaseE2 (outcomes (atOutcomes s)))
    let v := loadPwrRegs u
    let p := (dropBoost v.pwr).1
    let exc := excess v p
    let hyst : Int := fld p.loop 27 16
    let k := min (fld p.loop 35 32) (cdiv exc.toNat (max 1 (fld p.loop 11 0)))
    let downs := (p.points.filter (fun f => decide (p.mclkFloor ≤ f ∧ f < p.mclk))).reverse
    let a := k - downs.length
    let b := a - (p.duty - p.dutyFloor)
    ∃ t, exec .tickBoundary s = .next t ∧ t.tck.mclk = t.pwr.mclk ∧
      (0 < exc → t.pwr.mclk ≤ u.pwr.mclk ∧ t.pwr.duty ≤ u.pwr.duty ∧ t.pwr.mem ≤ u.pwr.mem) ∧
      (0 < exc → p.dropped = false → p.points.Pairwise (· < ·) →
        t.pwr.mclk = (p.mclk :: downs).getD (min k downs.length) 0 ∧ t.pwr.duty = p.duty - min a (p.duty - p.dutyFloor) ∧
        t.pwr.mem = min p.mem (max p.memFloor (p.mem - 10 * b)) ∧ t.pwr.rise = none) ∧
      (p.dropped = true → t.pwr.mclk = min p.mclk p.lowPoint ∧ t.pwr.duty = min p.duty p.dutyFloor ∧
        t.pwr.mem = min p.mem p.memFloor ∧ t.pwr.rise = none) ∧
      (exc ≤ 0 → p.dropped = false →
        (∀ f, p.rise = some f → t.pwr.mclk = if p.settled then f else p.mclk) ∧ (p.rise = none → t.pwr.mclk = p.mclk) ∧
        (-hyst ≤ exc ∨ p.trip = true → t.pwr.duty = p.duty ∧ t.pwr.mem = p.mem) ∧
        (exc < -hyst → p.trip = false → p.mem < 100 → t.pwr.mem = min 100 (p.mem + 10) ∧ t.pwr.duty = p.duty) ∧
        (exc < -hyst → p.trip = false → 100 ≤ p.mem → p.duty < 16 → t.pwr.mem = p.mem ∧ t.pwr.duty = p.duty + 1) ∧
        (exc < -hyst → p.trip = false → 100 ≤ p.mem → 16 ≤ p.duty → t.pwr.mem = p.mem ∧ t.pwr.duty = p.duty ∧
          ∀ f, p.rise = none → p.points.find? (fun f => decide (p.mclk < f ∧ f ≤ 3000)) = some f → t.pwr.rise = some f))

/-- A clock's window is a pass within the tolerance and a failure outside, and counts so in its judgement: two failures
running make a stable PLL unstable, and lose a good reference; WINDOWS passes running make a PLL stable, so that the blocks it
clocks may answer EN, and bring a lost reference back (R330 to R332). Judgement goes in R331's order: the reference from the rise
of RESET_N, the oscillator once the Last starts it on a good reference, the PLLs once the trim has locked, and no PLL while it
glides. The reference lost for 10 ms raises
REF_FAIL; none at the start lights FAULT; all clocks good, every block is ready and each that is not mapped out is enabled
(R331, R332, R408). -/
def Obligations.ClocksAreJudgedAndStarted : Prop :=
  (∀ (s : State) (n : Fin 27) (count : Nat), s.sys.released = true → s.clk.trimLock = true →
    n.val ≠ 0 ∨ s.pwr.rise = none ∧ s.pwr.pll = s.pwr.mclk →
    let pass := decide (((count : Int) - windowN s (.pll n)).natAbs ≤ windowTol s (.pll n))
    let old := mget s.clk.plls n.val {}
    ∃ t, exec (.judgeWindow (.pll n) count) s = .next t ∧
      (mget t.clk.plls n.val {}).passes = (if pass then old.passes + 1 else 0) ∧
      (mget t.clk.plls n.val {}).fails = (if pass then 0 else old.fails + 1) ∧
      (old.stable = true → (mget t.clk.plls n.val {}).stable = decide (pass = true ∨ old.fails = 0)) ∧
      (old.stable = false → (mget t.clk.plls n.val {}).stable = decide (pass = true ∧ judgeWins s ≤ old.passes + 1)) ∧
      (old.stable = false → pass = true → judgeWins s ≤ old.passes + 1 → 4 ≤ s.sys.phase →
        ∀ p ∈ pllPages n.val, (getBlk t p).ready = true) ∧
      (old.stable = true → pass = false → 1 ≤ old.fails → bit (getReg t clkPage 0x20) 10 = true) ∧
      (∀ m, m ≠ n.val → mget t.clk.plls m {} = mget s.clk.plls m {}) ∧
      State.onlyChanges [.out, .regs, .cnt, .blk, .rel, .clk, .sys] s t) ∧
  (∀ (s : State) (count : Nat), s.sys.released = true → s.clk.ref.stable = true → s.clk.refLost = false →
    windowTol s .ref < ((count : Int) - windowN s .ref).natAbs →
    ∃ t, exec (.judgeWindow .ref count) s = .next t ∧ t.clk.ref.fails = s.clk.ref.fails + 1 ∧
      t.clk.refLost = decide (1 ≤ s.clk.ref.fails) ∧ t.clk.hold = (s.clk.hold || decide (1 ≤ s.clk.ref.fails)) ∧
      State.onlyChanges [.out, .regs, .cnt, .rel, .clk, .sys] s t) ∧
  (∀ (s : State) (count : Nat), s.sys.released = true → s.clk.refLost = true →
    ((count : Int) - windowN s .ref).natAbs ≤ windowTol s .ref → judgeWins s ≤ s.clk.ref.passes + 1 →
    ∃ t, exec (.judgeWindow .ref count) s = .next t ∧ t.clk.refLost = false ∧ t.clk.hold = false ∧ t.clk.refFail = false ∧
      bit (getReg t clkPage 0x38) 1 = true ∧ State.onlyChanges [.out, .regs, .cnt, .clk, .sys] s t) ∧
  (∀ (s : State) (count : Nat), s.sys.released = true → s.clk.ref.stable = true → 2 ≤ s.sys.phase →
    ∃ t, exec (.judgeWindow .osc count) s = .next t ∧ t.clk.kHz = count * 100000 / 4096 ∧
      (t.clk.osc.fails = 0 ↔ ((count : Int) - windowN s .osc).natAbs ≤ windowTol s .osc) ∧
      (trimSrc s ≠ 1 → t.clk.trim = s.clk.trim) ∧ t.clk.trimLock = (s.clk.trimLock || t.clk.osc.stable) ∧
      t.sys.phase = (if s.sys.phase = 2 then 3 else s.sys.phase) ∧ State.onlyChanges [.out, .regs, .cnt, .clk, .sys] s t) ∧
  (∀ (s : State) (c : Clock) (count : Nat),
    (s.sys.released = false ∨ (c = .osc ∧ (s.clk.ref.stable = false ∨ s.sys.phase < 2)) ∨
      (∃ n : Fin 27, c = .pll n ∧ (s.clk.trimLock = false ∨ n.val = 0 ∧ (s.pwr.rise.isSome = true ∨ s.pwr.pll ≠ s.pwr.mclk)))) →
    exec (.judgeWindow c count) s = .next s) ∧
  (∀ s : State, s.clk.refLost = true → s.clk.refFail = false →
    ∃ t, exec .refFail s = .next t ∧ t.clk = { s.clk with refFail := true } ∧ bit (getReg t clkPage 0x20) 12 = true ∧
      State.onlyChanges [.out, .regs, .clk, .sys] s t) ∧
  (∀ s : State, s.sys.released = true → s.clk.ref.stable = false →
    exec .refStartFail s = .next { s with sys := { s.sys with fault := true } }) ∧
  (∀ s : State, s.sys.phase = 3 → s.sys.lastUp = true → clocksGood s = true → (getBlk s tckPage).ready = false →
    ∃ t, exec .clocksStable s = .next t ∧ (∀ x ∈ allBlocks, (getBlk t x.2).ready = true) ∧
      (∀ x ∈ allBlocks, enAtReset x.1 = false → (getBlk s x.2).mappedOut = false → enabled t x.2 = true) ∧
      t.tck = { s.tck with mclk := s.pwr.mclk, fclk := s.pwr.fclk } ∧ State.onlyChanges [.regs, .blk, .tck, .sys, .free] s t)

/-- A reading of the die sensors keeps the highest temperature seen and sets or clears the thermal limit with its
hysteresis of 3 degrees; at CRIT_C the arrays' clock drops to its floor at once, halved by a protector in force, and no rise stays
prepared (R335, R336, Table 11.7). The inlet's reading is kept, INLET_HIGH sets above its threshold, and the cut for the inlet at its
own, each with 3 degrees of hysteresis. -/
def Obligations.TemperaturesLimitTheClocks : Prop :=
  (∀ (s : State) (rs : List (Option Int)) (i : Nat) (c : Int), s.sys.powered = true →
    let u := ((List.range 48).zip rs).foldl readSensor s
    let floorM := min s.pwr.mclk s.pwr.lowPoint
    hottest u = some (i, c) → c < 120 →
    ∃ t, exec (.dieTempRead rs) s = .next t ∧ t.pwr.maxTj = max s.pwr.maxTj c.toNat ∧ t.pwr.temps = u.pwr.temps ∧
      t.pwr.thermLimit = (if throtC s ≤ c then true else if c ≤ throtC s - 3 then false else s.pwr.thermLimit) ∧
      (critC s ≤ c → t.pwr.dropped = true ∧ t.pwr.tjCrit = true ∧ t.pwr.rise = none ∧
        t.pwr.effM = if s.pwr.fastHalf || s.pwr.droopArr then floorM / 2 else floorM) ∧
      (c < critC s → t.pwr.dropped = s.pwr.dropped ∧ t.pwr.effM = s.pwr.effM) ∧
      t.pwr.mclk = s.pwr.mclk ∧ State.onlyChanges [.out, .regs, .rel, .pwr, .sys] s t) ∧
  (∀ (s : State) (inlet outlet : Int), s.sys.powered = true →
    ∃ t, exec (.inletRead inlet outlet) s = .next t ∧ t.pwr.inlet = some inlet ∧ t.pwr.outlet = some outlet ∧
      t.pwr.inletHigh = (if inletHiC s < inlet then true else if inlet ≤ inletHiC s - 3 then false else s.pwr.inletHigh) ∧
      t.pwr.inletCut = (if inletCutC s ≤ inlet then true else if inlet ≤ inletCutC s - 3 then false else s.pwr.inletCut) ∧
      t.pwr.temps = s.pwr.temps ∧ State.onlyChanges [.out, .regs, .pwr, .sys] s t)

/-! ### Reliability -/

/-- The parts that a record's emission may change: its ring's and the firkin ring's, the meter's ended requests, whose records are
signed before it, and the journal's (R343, R386, R394). -/
def recordParts : List Part := .mtr :: .sec :: writeParts

/-- The device has gone to fail-quiet with the cause: the state is marked, the Last has a FATAL event, FAULT is lit, every port is
DISABLED, every stack in SELF_REFRESH, no request runs, and no byte of memory has changed but in stacks that leave TEST
(R363, Table 12.10). -/
def quietNow (s t : State) (cause : Nat) : Prop :=
  t.rel.fqActive = true ∧ t.rel.fqCause = cause ∧ t.rel.fqTick = s.tck.num ∧ t.sys.fault = true ∧ t.sys.phase = 15 ∧
  (∀ p < 16, (getPort t p).state = 0) ∧ (∀ n < 8, (getHbm t n).state = 3) ∧ t.mtr.runs = [] ∧
  (∃ e ∈ t.rel.events, e.cls = 3 ∧ e.toLast = true ∧ e.tick = s.tck.num) ∧
  (∀ a, winOf a ≠ .hbm ∨ (getHbm s (lpcMap s (lineOf a % lpcCount s) % 8)).state ≠ 4 → memGet t.mem a = memGet s.mem a)

/-- The device has gone to fail-quiet, and no task, queue or unit has changed. -/
def wentQuiet (s t : State) (cause : Nat) : Prop :=
  quietNow s t cause ∧ State.onlyChanges [.out, .regs, .cnt, .mem, .hbm, .rel, .act, .lnk, .mtr, .sys, .free] s t

/-- The triggers of the fail-quiet sequencer (Table 12.9): the watchdog, the Cobbler's lockstep, the die at 120 degrees, a rail, the
policy register, and an HBM PLL and a reference at the end of their grace; in fail-quiet already, a rail and the
policy register change nothing (R361, R362). A kick starts the watchdog's time again. -/
def Obligations.TriggersStartFailQuiet : Prop :=
  (∀ s : State, s.sys.released = true → s.rel.fqActive = false → cobblerUp s = true →
    regFld s cblPage 0x220 15 0 * 1000 ≤ (s.tck.num - s.rel.kickTick + 1) * 65 →
    ∃ t, exec .watchdog s = .next t ∧ wentQuiet s t 2 ∧ bit (getReg t cblPage 0x20) 9 = true) ∧
  (∀ s : State, s.sys.released = true → s.rel.fqActive = false → cobblerUp s = true →
    ∃ t, exec .lockstep s = .next t ∧ wentQuiet s t 1 ∧ t.rel.lastLockstep = some s.rel.opMin ∧
      bit (getReg t cblPage 0x20) 8 = true) ∧
  (∀ (s : State) (rs : List (Option Int)) (i : Nat) (c : Int), s.sys.powered = true → s.sys.released = true →
    s.rel.fqActive = false → hottest (((List.range 48).zip rs).foldl readSensor s) = some (i, c) → 120 ≤ c →
    ∃ t, exec (.dieTempRead rs) s = .next t ∧ quietNow s t 3 ∧
      State.onlyChanges [.out, .regs, .cnt, .mem, .hbm, .rel, .act, .lnk, .pwr, .mtr, .sys, .free] s t) ∧
  (∀ (s : State) (r : Fin 6) (mv : Nat), s.sys.released = true → s.rel.fqActive = false →
    ∃ t, exec (.rail r mv) s = .next t ∧ wentQuiet s t 6) ∧
  (∀ (s : State) (who : Initiator) (v : Word), s.admits who cblPage 0x250 (v ||| 1) = true → s.sys.released = true →
    s.rel.fqActive = false → ∃ t, exec (.policy who v) s = .next t ∧ wentQuiet s t 4) ∧
  (∀ (s : State) (n : Fin 8), s.sys.released = true → s.rel.fqActive = false → cobblerUp s = true →
    s.rel.pllGrace.contains n.val = true → ∃ t, exec (.hbmPllGrace n) s = .next t ∧ wentQuiet s t 4) ∧
  (∀ s : State, s.sys.released = true → s.rel.fqActive = false → cobblerUp s = true → s.clk.refLost = true →
    s.clk.refFail = true → ∃ t, exec .refGraceExpire s = .next t ∧ wentQuiet s t 4) ∧
  (∀ (s : State) (r : Fin 6) (mv : Nat) (who : Initiator) (v : Word), s.rel.fqActive = true →
    exec (.rail r mv) s = .next s ∧ (s.admits who cblPage 0x250 (v ||| 1) = true → exec (.policy who v) s = .next s)) ∧
  (∀ (s : State) (who : Initiator) (v : Word), s.admits who cblPage 0x220 (v ||| word (2 ^ 16)) = true →
    ∃ t, exec (.kick who v) s = .next t ∧ t.rel = { s.rel with kickTick := s.tck.num } ∧
      regFld t cblPage 0x220 15 0 = fld v 15 0 ∧ State.onlyChanges [.regs, .rel] s t)

/-- The Cobbler takes the oldest event it may handle: an INFO event's record goes into the ring with the next SEQ, where no firkin
record is ready that would be signed before it (R394); an
event of a new key enters the history as TRANSIENT and makes its unit suspect; one that comes again within the window
makes its entry PERMANENT (R340 to R343, R351, R352, R354). A corrected event of a key whose coalescing
period runs is counted in it; the period's end, COALESCE minutes after its start, gives one record of what was
counted, and before it nothing ends (R342); a suspect unit without events for the clearing time is suspect no more, and its block
shows SUSPECT while another of its units is (R354). -/
def Obligations.EventsBecomeRecordsAndHistory : Prop :=
  (∀ (s : State) (e : ErrEvent), nextEvent s = some e → e.cls = 4 → s.rel.fqActive = false →
    s.mtr.ended.find? (reqReady s) = none →
    let b := cperBase s
    let wr := (memWord s.mem b).toNat % 1024
    let u := readFirst e { s with rel := { s.rel with events := s.rel.events.erase e } }
    access s b = .ok → access s (b + 64 + 1024 * wr) = .ok → access s (b + 64 + 1024 * wr + 1023) = .ok →
    (wr + 1) % 1024 ≠ (memWord s.mem (b + 8)).toNat % 1024 →
    ∃ t, exec .cobblerEvent s = .next t ∧ t.rel.events = s.rel.events.erase e ∧ t.rel.seq = s.rel.seq + 1 ∧
      (s.Inv → memBytes t.mem (b + 64 + 1024 * wr) 784 = recBytes u e (s.rel.seq + 1) {} ∧
        (memWord t.mem b).toNat = (wr + 1) % 1024) ∧ t.rel.hist = s.rel.hist ∧
      State.onlyChanges [.out, .regs, .cnt, .mem, .poison, .epochs, .blk, .tasks, .prov, .crm, .hbm, .ecc, .cw, .ls, .lpc, .ldl, .rel, .act, .lnk, .mtr, .sec, .sys, .free] s t) ∧
  (∀ (s : State) (e : ErrEvent), nextEvent s = some e → e.cls = 2 → s.rel.hist.find? (fun h => h.is e) = none →
    s.rel.hist.length < 4096 →
    ∃ t, exec .cobblerEvent s = .next t ∧ t.rel.events = s.rel.events.erase e ∧
      ⟨e.code, e.inst, e.unit, e.kind, e.locus, s.rel.opMin, s.rel.opMin, 1, false⟩ ∈ t.rel.hist ∧
      (e.code, e.inst, e.unit, s.rel.opMin) ∈ t.rel.suspects ∧ s.rel.seq < t.rel.seq ∧
      State.onlyChanges [.out, .regs, .cnt, .mem, .poison, .epochs, .blk, .tasks, .prov, .crm, .hbm, .ecc, .cw, .ls, .lpc, .ldl, .rel, .act, .lnk, .mtr, .sec, .sys, .free] s t) ∧
  (∀ (s : State) (e : ErrEvent) (h : Hist), nextEvent s = some e → e.cls = 2 → s.rel.hist.find? (fun h => h.is e) = some h →
    s.rel.opMin ≤ h.last + regFld s cblPage 0x208 23 0 →
    ∃ t, exec .cobblerEvent s = .next t ∧ t.rel.events = s.rel.events.erase e ∧
      { h with count := h.count + 1, last := s.rel.opMin, perm := true } ∈ t.rel.hist ∧
      State.onlyChanges [.out, .regs, .cnt, .mem, .poison, .epochs, .blk, .tasks, .prov, .crm, .hbm, .ecc, .cw, .ls, .lpc, .ldl, .rel, .act, .lnk, .mtr, .sec, .sys, .free] s t) ∧
  (∀ (s : State) (e : ErrEvent) (c : Coal), nextEvent s = some e → e.cls = 0 → s.rel.coal = [c] → c.ev.code = e.code →
    c.ev.inst = e.inst → c.ev.unit = e.unit → c.ev.kind = e.kind → c.ev.locus = e.locus →
    ∃ t, exec .cobblerEvent s = .next t ∧ t.rel.coal = [{ c with count := c.count + 1 }]) ∧
  (∀ (s : State) (key : Nat) (c : Coal), s.rel.coal[key]? = some c →
    cobblerUp s = false ∨ s.rel.opMin < c.start + regFld s cblPage 0x218 15 0 → exec (.coalesceExpire key) s = .next s) ∧
  (∀ (s : State) (key : Nat) (c : Coal), s.rel.coal[key]? = some c → c.count = 0 → cobblerUp s = true →
    c.start + regFld s cblPage 0x218 15 0 ≤ s.rel.opMin →
    ∃ t, exec (.coalesceExpire key) s = .next t ∧ t.rel = { s.rel with coal := s.rel.coal.eraseIdx key } ∧
      State.onlyChanges [.rel] s t) ∧
  (∀ (s : State) (key : Nat) (c : Coal), s.rel.coal[key]? = some c → c.count ≠ 0 → cobblerUp s = true →
    c.start + regFld s cblPage 0x218 15 0 ≤ s.rel.opMin →
    ∃ t, exec (.coalesceExpire key) s = .next t ∧ t.rel.coal = s.rel.coal.eraseIdx key ∧ t.rel.seq = s.rel.seq + 1 ∧
      t.rel.events = s.rel.events ∧ t.rel.hist = s.rel.hist ∧ State.onlyChanges recordParts s t) ∧
  (∀ (s : State) (code inst unit minute : Nat),
    s.rel.suspects.find? (isSuspect code inst unit) = some (code, inst, unit, minute) →
    minute + regFld s cblPage 0x208 47 24 ≤ s.rel.opMin → cobblerUp s = true →
    ∃ t, exec (.suspectCleared (code, inst) unit) s = .next t ∧
      t.rel.suspects = s.rel.suspects.erase (code, inst, unit, minute) ∧ t.rel.seq = s.rel.seq + 1 ∧
      ((getBlk t (codePage code inst)).suspect = true ↔ ∃ y ∈ t.rel.suspects, y.1 = code ∧ y.2.1 = inst) ∧
      State.onlyChanges (.blk :: recordParts) s t)

/-- The Strainer's comparison (R345, R346): a recompute that gives the delivered sums frees the capture; one that differs in an
element holds it until the Cobbler or the Last releases it, raises TILE_MISMATCH, records the first mismatch, and without a third
computation charges both units with a SILENT event, at once or, under DISCARD_STEP, once the step's fate is known, when the job's
step is to be discarded, and with one that agrees with either of the two charges the other alone; a recompute that fails, or whose
array has been mapped out meanwhile, ends the check. Its cycles are activity of JOB 0 (R390). A pack that passes the checks of R348 is loaded,
stands in HBM and enters measurement block 11, and one that fails any is
refused; a test due on an engine with a reserve is due until a passing or failing result, on one without it is skipped and counted,
and past its deadline it is marked so (R349, R350). -/
def Obligations.TileChecksPacksAndTests : Prop :=
  (∀ (s : State) (c : Capture) (x : Recomp) (more : List Recomp) (cycles : Nat) (result : List F32) (arr3 : Fin 4) (status3 : Nat)
    (third : List F32), s.rel.capture = some c → s.rel.recomp = x :: more → s.rel.checking = true →
    (getBlk s (pageOf .arr x.arr 0)).mappedOut = false → (∀ i < c.sums.length, result.getD i 0 = c.sums.getD i 0) →
    ∃ t, exec (.tileCompare cycles 1 result arr3 status3 third) s = .next t ∧
      t.rel = { s.rel with checking := false, recomp := [], capture := none } ∧ mget t.act 0 0 = mget s.act 0 0 + cycles ∧
      getReg t stnPage 0x220 = word (satAdd 64 (getReg s stnPage 0x220).toNat 1) ∧ State.onlyChanges [.regs, .rel, .act] s t) ∧
  (∀ (s : State) (c : Capture) (x : Recomp) (more : List Recomp) (cycles : Nat) (result : List F32) (arr3 : Fin 4) (status3 : Nat)
    (third : List F32), s.rel.capture = some c → s.rel.recomp = x :: more → s.rel.checking = true →
    (getBlk s (pageOf .arr x.arr 0)).mappedOut = false → c.arr < 4 → c.quad < 4 → x.arr < 4 → (∃ i < c.sums.length, result.getD i 0 ≠ c.sums.getD i 0) →
    let cfg := getReg s stnPage 0x200
    let told := regBit s stnPage 0x28 8 = false ∧ regFld s stnPage 0x48 1 0 = 1
    let other := status3 = 1 ∧ arr3.val ≠ c.arr ∧ arr3.val ≠ x.arr ∧ (getBlk s (pageOf .arr arr3.val 0)).mappedOut = false
    ∃ t, exec (.tileCompare cycles 1 result arr3 status3 third) s = .next t ∧ t.rel.checking = false ∧ t.rel.recomp = [] ∧ t.rel.capHeld = true ∧
      t.rel.capture = some c ∧ bit (getReg t stnPage 0x20) 8 = true ∧ bit (getReg t stnPage 0x38) 8 = true ∧
      (regBit s stnPage 0x238 14 = true → getReg t stnPage 0x238 = getReg s stnPage 0x238) ∧
      (regBit s stnPage 0x238 14 = false → regFld t stnPage 0x238 1 0 = c.arr ∧ regFld t stnPage 0x238 3 2 = c.quad) ∧
      (bit cfg 10 = false ∨ status3 ≠ 1 → bit cfg 9 = false → told →
        ∃ a b, t.rel.events = s.rel.events ++ [a, b] ∧ a.cls = 2 ∧ a.code = 0x10 ∧ a.inst = c.arr ∧ a.unit = c.quad ∧
          a.kind = 6 ∧ a.job = c.job ∧ b.cls = 2 ∧ b.code = 0x10 ∧ b.inst = x.arr ∧ b.unit = x.quad ∧ b.kind = 6) ∧
      (bit cfg 10 = false ∨ status3 ≠ 1 → bit cfg 9 = true → c.job ∈ t.rel.discards ∧ t.rel.events = s.rel.events) ∧
      (bit cfg 10 = true → other → (∀ i < c.sums.length, third.getD i 0 = c.sums.getD i 0) → told →
        ∃ b, t.rel.events = s.rel.events ++ [b] ∧ b.cls = 2 ∧ b.inst = x.arr ∧ b.unit = x.quad ∧ b.kind = 6 ∧
          t.rel.discards = s.rel.discards) ∧
      (bit cfg 10 = true → bit cfg 9 = false → other → (∀ i < c.sums.length, third.getD i 0 = result.getD i 0) → told →
        ∃ a, t.rel.events = s.rel.events ++ [a] ∧ a.cls = 2 ∧ a.inst = c.arr ∧ a.unit = c.quad ∧ a.kind = 6) ∧
      mget t.act 0 0 = mget s.act 0 0 + cycles ∧ State.onlyChanges [.out, .regs, .rel, .act, .sys] s t) ∧
  (∀ (s : State) (c : Capture) (x : Recomp) (more : List Recomp) (cycles status : Nat) (result : List F32) (arr3 : Fin 4)
    (status3 : Nat) (third : List F32), s.rel.capture = some c → s.rel.recomp = x :: more → s.rel.checking = true →
    status ≠ 1 ∨ (getBlk s (pageOf .arr x.arr 0)).mappedOut = true →
    ∃ t, exec (.tileCompare cycles status result arr3 status3 third) s = .next t ∧
      t.rel = { s.rel with checking := false, recomp := [], capture := none } ∧ State.onlyChanges [.rel, .act] s t) ∧
  (∀ (s : State) (who : Initiator) (v : Word), s.admits who stnPage 0x218 (v ||| 2) = true → s.rel.capHeld = true →
    ∃ t, exec (.captureRelease who v) s = .next t ∧
      (who = .cobbler ∨ who = .last → t.rel = { s.rel with capHeld := false, capture := none }) ∧
      (∀ n, who = .core n → t.rel = s.rel) ∧ State.onlyChanges [.rel] s t) ∧
  (∀ (s : State) (w0 w1 w2 : Word) (tests lists sign : List Byte), s.sys.lastUp = true → 4 ≤ s.sys.phase →
    packGood s (packBytes w0 w1 w2 tests lists sign) = true →
    let bs := packBytes w0 w1 w2 tests lists sign
    let others := s.rel.packs.filter (fun x => x.id != nfld (packWord bs 0) 47 32)
    let p := packOf bs (packPlace s others)
    ∃ t, exec (.awlPackLoad w0 w1 w2 tests lists sign) s = .next t ∧ t.rel.packs = others ++ [p] ∧ (∀ x ∈ t.rel.tests, x.pack ≠ p.id) ∧
      t.sec.packs = mput s.sec.packs p.id (p.version, p.digest) ∧
      (s.Inv → access s p.place = .ok → access s (p.place + bs.length - 1) = .ok → winOf p.place = .hbm →
        memBytes t.mem p.place bs.length = bs) ∧
      (access s p.place ≠ .ok → t.mem = s.mem) ∧ State.onlyChanges (.sec :: writeParts) s t) ∧
  (∀ (s : State) (w0 w1 w2 : Word) (tests lists sign : List Byte), s.sys.lastUp = true → 4 ≤ s.sys.phase →
    let bs := packBytes w0 w1 w2 tests lists sign
    let w := packWord bs 1
    Config.pssVerify 1 (bs.take (bs.length - 384)) (bs.drop (bs.length - 384)) = false ∨ nfld (packWord bs 0) 31 0 ≠ 0x314C5741 ∨
      nfld w 7 0 ≠ 0xB0 ∨ nfld w 15 8 < s.sec.awlSvn ∨ nfld (packWord bs 2) 31 0 ≠ bs.length ∨ nfld w 26 16 = 0 ∨
      1024 < nfld w 26 16 →
    ∃ t, exec (.awlPackLoad w0 w1 w2 tests lists sign) s = .next t ∧ raisedAt s t tstPage 8 0 ∧ State.onlyChanges [.regs, .out, .sys] s t) ∧
  (∀ (s : State) (e : Fin 29) (q : Fin 4) (pack test : Nat), hasTest s e.val q.val pack test = true →
    (getBlk s (testPage e.val)).mappedOut = false → testDueAt s e.val q.val pack test ≤ s.rel.opMin → testsRun s e.val = true →
    ∃ t, exec (.testDue e q pack test) s = .next t ∧ testIsDue t e.val q.val pack test = true ∧ State.onlyChanges [.rel] s t) ∧
  (∀ (s : State) (e : Fin 29) (q : Fin 4) (pack test : Nat), hasTest s e.val q.val pack test = true →
    (getBlk s (testPage e.val)).mappedOut = false → testDueAt s e.val q.val pack test ≤ s.rel.opMin → testsRun s e.val = false →
    testIsDue s e.val q.val pack test = false →
    ∃ t, exec (.testDue e q pack test) s = .next t ∧ t.rel = { s.rel with testsSkipped := s.rel.testsSkipped + 1 } ∧
      State.onlyChanges [.rel] s t) ∧
  (∀ (s : State) (e : Fin 29) (q : Fin 4) (pack test : Nat), testIsLate s e.val q.val pack test = true →
    ∃ t, exec (.testDeadline e q pack test) s = .next t ∧ testIsDue t e.val q.val pack test = true ∧
      (∀ x ∈ t.rel.tests, x.eng = e.val → x.quad = q.val → x.pack = pack → x.test = test → x.past = true) ∧
      bit (getReg t tstPage 0x38) 2 = true ∧ State.onlyChanges [.out, .regs, .rel, .sys] s t) ∧
  (∀ (s : State) (e : Fin 29) (q : Fin 4) (pack test : Nat) (x : PackTest) (hash : BitVec 128) (status : Nat),
    testIsDue s e.val q.val pack test = true → testsRun s e.val = true → testEntry s pack test = some x →
    let good := decide (status = 1 ∧ hash = x.expect)
    ∃ t, exec (.testResult e q pack test hash status) s = .next t ∧ testIsDue t e.val q.val pack test = false ∧
      (good = true → (∀ y ∈ t.rel.tests, y.eng = e.val → y.quad = q.val → y.pack = pack → y.test = test →
        y.lastPass = some s.rel.opMin ∧ y.past = false) ∧ State.onlyChanges [.cnt, .rel] s t) ∧
      (good = false → bit (getReg t tstPage 0x20) 9 = true ∧ bit (getReg t tstPage 0x38) 1 = true) ∧
      State.onlyChanges [.out, .regs, .cnt, .rel, .sys] s t)

/-- Map-out requests are handled one at a time: with none in hand the written one is taken up and judged at once, with no
unit of that name refused, and a Cobbler that takes no work only stores it (R32); its end enters the unit in the map-out table, a
pseudo-channel with its spare, when it succeeded, and raises its error when it
was refused (R355 to R357). Each operating minute is counted and the lifetime energy with it (R351). A group that is not
reported healthy in time goes back to its other slot (R360). -/
def Obligations.MapOutsMinutesAndHealth : Prop :=
  (∀ (s : State) (who : Initiator) (v : Word), s.admits who cblPage 0x230 (v ||| word (2 ^ 33)) = true → s.rel.reqs = [] →
    takesWork s cblPage = true →
    ∃ t q, exec (.mapoutReq who v) s = .next t ∧ t.rel.reqs = [q] ∧ q.begun = true ∧ q.code = fld v 15 0 ∧
      q.inst = fld v 23 16 ∧ q.unit = fld v 31 24 ∧ q.force = bit v 32 ∧ t.rel.mapBusy = true ∧ t.rel.mapDone = false ∧
      (unitOf q.code q.inst q.unit = none → q.result = 4) ∧
      (∀ u, unitOf q.code q.inst q.unit = some u → isOut s q.code q.inst u = true → q.result = 5) ∧
      t.rel.mapTab = s.rel.mapTab ∧ State.onlyChanges [.out, .regs, .blk, .crm, .hbm, .cw, .lpc, .rel, .lnk, .sys] s t) ∧
  (∀ (s : State) (who : Initiator) (v : Word), s.admits who cblPage 0x230 (v ||| word (2 ^ 33)) = true →
    takesWork s cblPage = false →
    ∃ t, exec (.mapoutReq who v) s = .next t ∧ t.rel.reqs = s.rel.reqs ∧ State.onlyChanges [.regs] s t) ∧
  (∀ (s : State) (who : Initiator) (v : Word) (q : MapReq) (rest : List MapReq),
    s.admits who cblPage 0x230 (v ||| word (2 ^ 33)) = true → s.rel.reqs = q :: rest → q.begun = true →
    takesWork s cblPage = true →
    ∃ t, exec (.mapoutReq who v) s = .next t ∧
      t.rel.reqs = q :: rest ++ [⟨fld v 15 0, fld v 23 16, fld v 31 24, bit v 32, false, false, 0, false⟩] ∧
      State.onlyChanges [.regs, .rel] s t) ∧
  (∀ (s : State) (q : MapReq), s.rel.reqs = [q] → q.begun = true → mapReady s q = true → cobblerUp s = true →
    ∃ t, exec .mapoutDone s = .next t ∧ t.rel.reqs = [] ∧ t.rel.mapBusy = false ∧ t.rel.mapDone = true ∧
      t.rel.mapResult = q.result ∧ t.rel.seq = s.rel.seq + 1 ∧
      (q.result = 0 → t.rel.mapTab = s.rel.mapTab ++
        [⟨q.code, q.inst, (unitOf q.code q.inst q.unit).getD q.unit, q.force, s.rel.opMin, (getHbm s q.inst).copyDst⟩] ∧
        bit (getReg t cblPage 0x38) 1 = true) ∧
      (q.result ≠ 0 → t.rel.mapTab = s.rel.mapTab ∧ bit (getReg t cblPage 0x20) 12 = true) ∧
      State.onlyChanges [.out, .regs, .cnt, .mem, .poison, .epochs, .blk, .tasks, .prov, .crm, .hbm, .ecc, .cw, .ls, .lpc, .ldl, .rel, .act, .lnk, .keys, .mtr, .sec, .sys, .free] s t) ∧
  (∀ s : State, s.sys.powered = true → s.sys.released = true →
    ∃ t, exec .operatingMinute s = .next t ∧ t.rel.opMin = s.rel.opMin + 1 ∧
      t.mtr.life = s.mtr.life + (s.mtr.total - s.mtr.lifeDone) / 1000000000 ∧
      t.mtr.total = s.mtr.total ∧ State.onlyChanges [.rel, .mtr, .sec] s t) ∧
  (∀ (s : State) (g : Fin 5) (limit : Nat), mfind s.sec.trial g.val = some limit → limit ≤ s.tck.num →
    ∃ t, exec (.healthTimeout g) s = .next t ∧ t.sec.trial = mdel s.sec.trial g.val ∧
      (2 ≤ g.val → t.sec.switching = s.sec.switching ++ [g.val + 8] ∧ t.sec.active = s.sec.active) ∧
      (g.val < 2 → fwSlot t g.val = 1 - fwSlot s g.val ∧ t.sec.switching = s.sec.switching) ∧
      State.onlyChanges recordParts s t)

/-! ### Power-up and the boot chain -/

/-- The entries of the map-out table that no keyed command has undone (R357). -/
def keptEntries (s : State) : List MapEnt :=
  ((List.range s.rel.mapTab.length).filter (fun i => !s.sec.undo.contains i)).filterMap (fun i => s.rel.mapTab[i]?)

/-- RESET_N rises on a powered device that it has held in reset. -/
def resetRises (s : State) : Prop := s.sys.powered = true ∧ s.sys.released = false ∧ s.sys.high = none

/-- The chain of Table 14.5 up to the running cores: RESET_N low for a microsecond resets the powered device, a shorter
pulse does nothing; its rise samples the slot, before the always-on rails are good it is kept for their start (R406), and with a good
ROM the map-out table applies and the active slot of the Last, or else the other one, starts in
phase LAST where its image is valid and SPI NOR delivers it whole (the latter the model's, log 153), a pending slot on trial and one whose trial failed put back (R357, R370, R371), with the newest
valid voltage table in use (R324, R325); the Cobbler starts once the blocks are ready, and asks for INIT of every
stack; the Upper's image body is written and every core that is not mapped out starts at its entry, and until HBM takes it the phase
is UPPER_LOAD; UPPER_OK makes the device
RUNNING; CORE_CTL starts and stops cores and no application core may write it (R370, R371, R406 to R408, R413). -/
def Obligations.BootChainReachesRunning : Prop :=
  (∀ (s : State) (low : Nat), 1000 ≤ low → s.sys.powered = true →
    let v := (replay s.sec).1
    ∃ t, exec (.coldReset low) s = .next t ∧ t.sys.powered = true ∧ t.sys.released = false ∧ t.sys.phase = 0 ∧
      t.tasks = [] ∧ t.regs = [] ∧ t.queues = [] ∧ t.rel.mapTab = v.mapTab ∧ t.sec.ock = v.ock ∧
      t.sec.epoch = v.epoch ∧ t.sec.counter = v.counter ∧ t.rel.faultLog = v.faultLog ∧ t.sec.nor = s.sec.nor ∧
      t.sec.tamper = (replay s.sec).2) ∧
  (∀ (s : State) (low : Nat), low < 1000 → exec (.coldReset low) s = .next s) ∧
  (∀ (s : State) (low : Nat), 1000 ≤ low → s.sys.powered = false →
    exec (.coldReset low) s = .next { s with sys := { s.sys with high := none } }) ∧
  (∀ (s : State) (id0 id1 id2 shaOk rsaOk : Bool) (reads : BitVec 2), resetRises s → shaOk = false ∨ rsaOk = false →
    ∃ t, exec (.resetRelease id0 id1 id2 shaOk rsaOk reads) s = .next t ∧ t.sys.slot = slotId id0 id1 id2 ∧ t.sys.released = true ∧
      t.sys.phase = 14 ∧ t.sys.fault = true ∧ State.onlyChanges [.sys] s t) ∧
  (∀ (s : State) (id0 id1 id2 : Bool) (reads : BitVec 2), resetRises s → s.sec.lastPend = false →
    bootable reads.getLsbD s 5 (fwSlot s 5) = true →
    ∃ t, exec (.resetRelease id0 id1 id2 true true reads) s = .next t ∧ t.sys.slot = b2n id0 + 2 * b2n id1 + 4 * b2n id2 ∧ t.sys.released = true ∧
      t.sys.phase = 2 ∧ t.sys.lastUp = true ∧ fwSlot t 5 = fwSlot s 5 ∧ t.sec.lastTrial = false ∧
      (vtInUse s = none → t.pwr.mclk = 1000 ∧ t.pwr.fclk = 1200 ∧ t.pwr.vt = none ∧ t.sec.vtUse = none ∧
        bit (getReg t pwr0 0x20) 15 = true) ∧
      (∀ r, vtInUse s = some r → t.pwr.vt = some (vtSeq r) ∧ t.sec.vtUse = some (vtSeq r) ∧ t.pwr.fclk = 2400 ∧
        t.clk.trim = max (-32767) (toSigned 16 (leNat ((r.drop 16).take 2)))) ∧
      t.rel.mapTab = keptEntries s ∧
      (∀ m ∈ keptEntries s, m.code ∈ [0x10, 0x11, 0x20] → (getBlk t (codePage m.code m.inst)).mappedOut = true) ∧
      (∀ m ∈ keptEntries s, m.code = 1 → t.sys.coresOut.testBit m.unit = true) ∧
      State.onlyChanges [.out, .regs, .blk, .crm, .hbm, .cw, .lpc, .rel, .lnk, .pwr, .clk, .sec, .sys] s t) ∧
  (∀ (s : State) (id0 id1 id2 : Bool) (reads : BitVec 2), resetRises s → s.sec.lastPend = false →
    let good := bootable reads.getLsbD s 5
    good (fwSlot s 5) = false →
    ∃ t, exec (.resetRelease id0 id1 id2 true true reads) s = .next t ∧ t.sys.slot = slotId id0 id1 id2 ∧ t.sys.released = true ∧
      (good (1 - fwSlot s 5) = true → t.sys.phase = 2 ∧ t.sys.lastUp = true ∧ fwSlot t 5 = 1 - fwSlot s 5) ∧
      (good (1 - fwSlot s 5) = false → t.sys.phase = 1 ∧ t.sys.lastUp = s.sys.lastUp)) ∧
  (∀ (s : State) (id0 id1 id2 : Bool) (reads : BitVec 2), resetRises s → s.sec.lastPend = true →
    let good := bootable reads.getLsbD s 5
    ∃ t, exec (.resetRelease id0 id1 id2 true true reads) s = .next t ∧
      (good (1 - fwSlot s 5) = true → t.sys.phase = 2 ∧ fwSlot t 5 = 1 - fwSlot s 5 ∧ t.sec.lastPend = false ∧
        t.sec.lastTrial = !s.sec.lastTrial) ∧
      (good (1 - fwSlot s 5) = false → good (fwSlot s 5) = true → t.sys.phase = 2 ∧ fwSlot t 5 = fwSlot s 5 ∧
        t.sec.lastPend = false ∧ t.sec.lastTrial = false)) ∧
  (∀ (s : State) (id0 id1 id2 shaOk rsaOk : Bool) (reads : BitVec 2), s.sys.high ≠ none ∨ s.sys.released = true →
    exec (.resetRelease id0 id1 id2 shaOk rsaOk reads) s = .next s) ∧
  (∀ (s : State) (id0 id1 id2 shaOk rsaOk : Bool) (reads : BitVec 2), s.sys.high = none → s.sys.released = false →
    s.sys.powered = false → exec (.resetRelease id0 id1 id2 shaOk rsaOk reads) s =
      .next { s with sys := { s.sys with high := some (slotId id0 id1 id2, shaOk && rsaOk, reads) } }) ∧
  (∀ (s : State) (readA readB : Bool), s.sys.phase = 3 → (getBlk s tckPage).ready = true →
    let good := bootable (fun k => if k = 0 then readA else readB) s 1
    good 0 = true ∨ good 1 = true →
    ∃ t, exec (.cobblerRelease readA readB) s = .next t ∧ t.sys.phase = 4 ∧ t.rel.kickTick = s.tck.num ∧
      (∀ n < 8, (getHbm t n).state =
        if enAck s (hp n 0) = true ∧ (getHbm s n).state = 0 then 1 else (getHbm s n).state) ∧
      (good (fwSlot s 1) = true → t.sec = s.sec) ∧
      (good (fwSlot s 1) = false → fwSlot t 1 = 1 - fwSlot s 1)) ∧
  (∀ (s : State) (readA readB : Bool), s.sys.phase ≠ 3 ∨ (getBlk s tckPage).ready = false ∨
    (slotGood s 1 0 = false ∨ readA = false) ∧ (slotGood s 1 1 = false ∨ readB = false) →
    exec (.cobblerRelease readA readB) s = .next s) ∧
  (∀ (s : State) (readsA readsB : BitVec 5) (entry : BitVec 50) (copied : Bool), s.sys.lastUp = true →
    s.sys.phase = 4 ∧ (∀ g ∈ [0, 2, 3, 4],
      bootable (fun k => if k = 0 then readsA.getLsbD g else readsB.getLsbD g) s g (fwSlot s g) = true) ∨ s.sys.phase = 5 →
    let image := imageBody s 0 (fwSlot s 0)
    let last := entry.toNat + (image.length - 1)
    let run := (((List.range 16).filter (fun i => !s.sys.coresOut.testBit i)).map (2 ^ ·)).sum
    (copied = true → access s entry.toNat = .ok → access s last = .ok → winOf last = .hbm →
      ∃ t, exec (.upperRelease readsA readsB entry copied) s = .next t ∧ t.sys.phase = 6 ∧ t.sys.cores = run ∧
        getReg t 0 0x220 = word entry.toNat ∧ getReg t 0 0x210 = word run ∧
        (s.Inv → ∀ i < image.length, memGet t.mem (entry.toNat + i) = image.getD i 0) ∧
        (s.Inv → ∀ x, x < entry.toNat ∨ entry.toNat + image.length ≤ x → memGet t.mem x = memGet s.mem x) ∧ t.sec = s.sec) ∧
    (copied = false ∨ access s entry.toNat ≠ .ok ∨ access s last ≠ .ok ∨ winOf last ≠ .hbm →
      exec (.upperRelease readsA readsB entry copied) s = .next { s with sys := { s.sys with phase := 5 } })) ∧
  (∀ (s : State) (who : Initiator) (v : Word), s.admits who 0 0x208 (v ||| 16) = true →
    exec (.upperOk who v) s = .next { s with
      sys := if s.sys.phase = 6 then { s.sys with upperOk := true, phase := 7, fault := false }
             else { s.sys with upperOk := true } }) ∧
  (∀ (s : State) (who : Initiator) (v : Word), s.admits who 0 0x210 v = true → isCore who = false →
    let run := (((List.range 16).filter (fun i => bit v i && !s.sys.coresOut.testBit i)).map (2 ^ ·)).sum
    ∃ t, exec (.coreRun who v) s = .next t ∧ t.sys = { s.sys with cores := run } ∧ getReg t 0 0x210 = word run ∧
      State.onlyChanges [.regs, .sys] s t) ∧
  (∀ (s : State) (n : Fin 16) (v : Word), s.admits (.core n) 0 0x210 v = true →
    ∃ t, exec (.coreRun (.core n) v) s = .next t ∧ raisedAt s t 0 3 0x210 ∧ t.sys.cores = s.sys.cores) ∧
  (∀ s : State, s.sec.lastTrial = true → s.sec.lastPend = false → s.sys.lastUp = true →
    ∃ t, exec .lastHealthTimeout s = .next t ∧ t.sec.lastPend = true ∧ t.sec.lastTrial = true ∧ State.onlyChanges [.sec] s t) ∧
  (∀ s : State, s.sec.lastTrial = false ∨ s.sec.lastPend = true ∨ s.sys.lastUp = false →
    exec .lastHealthTimeout s = .next s)

/-! ### Keyed commands -/

/-- The keyed commands under the owner's key, with the code and payload length of each (Table 13.4). -/
def ownerCommands (e : Envelope) : List (Instr × Nat × Nat) :=
  [(.releaseOwnership e, 2, 0), (.installLinkKey e, 4, 394), (.advanceSvn e, 5, 2), (.setCeiling e, 6, 2),
   (.recalMeter e, 7, 832), (.replaceVt e, 8, 832), (.fwSwitch e, 9, 1), (.updateLast e, 10, 0), (.mapout e, 11, 5),
   (.undoMapout e, 12, 1), (.warmRestart e, 13, 0), (.failQuiet e, 14, 0), (.setTime e, 15, 12)]

/-- The envelope passes checks 1 to 3 of R376 as the command with the code, outside a map-out command in hand. -/
def passesHead (s : State) (e : Envelope) (code len : Nat) : Prop :=
  s.sys.lastUp = true ∧ s.sec.mapWait = [] ∧ e.cmd = code ∧ e.formOk = true ∧ e.len = len ∧
  (s.sec.owned = true ∨ code = 1 ∨ code = 3) ∧ e.chipId = Config.chipId ∧
  (fld e.w2 7 0 = s.sec.epoch ∨ isReplay s e = true)

/-- It passes checks 4 and 5 too: the owner's MAC over it, and a counter above the last accepted one. -/
def passesAll (s : State) (e : Envelope) (code len : Nat) : Prop :=
  passesHead s e code len ∧ macOf s.sec.ock e.head = e.mac ∧ s.sec.counter < e.counter.toNat

/-- SEC as `x` but for the doorbell's response, and for one that waits for a compaction's end (R386, R397). -/
def onlyAnswered (t : State) (x : Sec) : Prop :=
  t.sec = { x with waiting := t.sec.waiting, door := t.sec.door, doorResp := t.sec.doorResp, done := t.sec.done,
                   status := t.sec.status }

/-- The parts that the journal and a response may change: a response to a command that did not come by the doorbell is
sent and counted, one that did is written to memory. -/
def answerParts (s : State) : List Part :=
  if s.sec.door = none then [.out, .cnt, .mgt, .sec] else
    [.out, .regs, .cnt, .mem, .poison, .epochs, .tasks, .prov, .crm, .hbm, .ecc, .cw, .ls, .ldl, .rel, .act, .mgt, .sec, .sys, .free]

/-- The command has been carried out with SEC as `x`, but for its answer and the journal: its counter and its response are stored
with it, and while a compaction runs the response waits (R377, R385, R386). -/
def carriedOut (t : State) (e : Envelope) (x : Sec) : Prop :=
  t.sec = { x with counter := e.counter.toNat, stored := t.sec.stored, halfA := t.sec.halfA, halfB := t.sec.halfB,
                   used := t.sec.used, compacting := t.sec.compacting, heldBytes := t.sec.heldBytes, waiting := t.sec.waiting,
                   door := t.sec.door, doorResp := t.sec.doorResp, done := t.sec.done, status := t.sec.status } ∧
  t.sec.stored.map (·.1) = some e.mac ∧ (x.compacting = true → t.sec.waiting.length = x.waiting.length + 1)

/-- Out of form, for another device or another epoch, without the owner's key, or with a counter that is not above the
last accepted one, no command under the owner's key has an effect: SEC keeps everything but the doorbell's answer, and no
link key, level, map-out or job changes. The last accepted command sent again has none either (R375 to R377). -/
def Obligations.CommandsNeedTheOwnersKey : Prop :=
  (∀ (s : State) (e : Envelope) (x : Instr × Nat × Nat), x ∈ ownerCommands e → ¬ passesHead s e x.2.1 x.2.2 →
    ∃ t, exec x.1 s = .next t ∧ onlyAnswered t s.sec ∧ State.onlyChanges (answerParts s) s t) ∧
  (∀ (s : State) (e : Envelope) (x : Instr × Nat × Nat), x ∈ ownerCommands e → passesHead s e x.2.1 x.2.2 →
    macOf s.sec.ock e.head ≠ e.mac →
    ∃ t, exec x.1 s = .next t ∧ onlyAnswered t s.sec ∧ State.onlyChanges (answerParts s) s t) ∧
  (∀ (s : State) (e : Envelope) (x : Instr × Nat × Nat), x ∈ ownerCommands e → passesHead s e x.2.1 x.2.2 →
    e.counter.toNat ≤ s.sec.counter →
    ∃ t, exec x.1 s = .next t ∧ onlyAnswered t s.sec ∧ State.onlyChanges (answerParts s) s t)

/-- TAKE_OWNERSHIP of a device without an owner, under the key it brings, makes that the owner's key, with the next epoch
(R380); a device that has an owner keeps it. A release that no job or request stands against ends the ownership: the key,
the counter, the stored response and every link key are gone, the scratchpad and the local stores read zero, and HBM is
under new keys (R381, R241); VENDOR_RELEASE does the same on the vendor's signature. -/
def Obligations.OwnershipIsTakenAndReleased : Prop :=
  (∀ (s : State) (e : Envelope) (ock : List Byte), passesHead s e 1 384 → s.sec.owned = false →
    Config.oaepOpen s.sec.keyGen (e.payload.take 384) = some ock → ock.length = 32 → macOf ock e.head = e.mac →
    s.sec.counter < e.counter.toNat → s.sec.epoch < 255 →
    ∃ t, exec (.takeOwnership e) s = .next t ∧
      carriedOut t e { s.sec with owned := true, epoch := s.sec.epoch + 1, ock := ock } ∧ State.onlyChanges (answerParts s) s t) ∧
  (∀ (s : State) (e : Envelope) (c : Instr),
    (c = .releaseOwnership e ∧ passesAll s e 2 0) ∨
    (c = .vendorRelease e ∧ passesHead s e 3 384 ∧
      Config.pssVerify 0 (wordBytes Config.chipId ++ toLe 1 s.sec.epoch) (e.payload.take 384) = true) →
    releaseBlocked s = false →
    ∃ t, exec c s = .next t ∧ t.sec.owned = false ∧ t.sec.ock = [] ∧ t.sec.counter = 0 ∧ t.sec.stored = none ∧
      t.sec.keyGen = s.sec.keyGen + 1 ∧ t.sec.xts = s.sec.generated + 1 ∧ t.sec.epoch = s.sec.epoch ∧ t.keys = [] ∧
      (s.sec.door = none → ∀ a, (0x100000000000 ≤ a ∧ a < 0x100800000000) ∨ (0x180000000000 ≤ a ∧ a < 0x180060000000) →
        memGet t.mem a = 0) ∧
      State.onlyChanges (.keys :: .mem :: .poison :: .cw :: .prov :: .free :: answerParts s) s t) ∧
  (∀ (s : State) (e : Envelope), passesHead s e 1 384 → s.sec.owned = true →
    ∃ t, exec (.takeOwnership e) s = .next t ∧ onlyAnswered t s.sec ∧ State.onlyChanges (answerParts s) s t) ∧
  (∀ (s : State) (e : Envelope) (c : Instr), (c = .releaseOwnership e ∧ passesAll s e 2 0) ∨
    (c = .vendorRelease e ∧ passesHead s e 3 384) → releaseBlocked s = true →
    ∃ t, exec c s = .next t ∧ onlyAnswered t s.sec ∧ State.onlyChanges (answerParts s) s t)

/-- What each command under the owner's key changes where its own conditions hold, counter and response being stored with
it: a link key is staged for its tick, a security version or the ceiling moves on with its count, a record is taken, a
group switches, the Last's other slot is pending, an entry's map-out is undone, the time is set; a map-out is relayed and
its answer waits (R325, R341, R356, R357, R360, R371, R377, R379, R383, R384, R389). -/
def Obligations.OwnerCommandsTakeEffect : Prop :=
  (∀ (s : State) (e : Envelope) (key : List Byte), passesAll s e 4 394 →
    Config.oaepOpen s.sec.keyGen ((e.payload.drop 10).take 384) = some key → key.length = 32 → jobOpen s (payNat e 0 2) = true →
    ∃ t, exec (.installLinkKey e) s = .next t ∧ carriedOut t e s.sec ∧
      getKey t (payNat e 0 2) = { getKey s (payNat e 0 2) with staged := some (BitVec.ofNat 256 (leNat key), payNat e 2 8) } ∧
      (∀ j, j ≠ payNat e 0 2 → getKey t j = getKey s j) ∧ State.onlyChanges (.keys :: answerParts s) s t) ∧
  (∀ (s : State) (e : Envelope), passesAll s e 5 2 → payNat e 0 1 ≤ 1 → payNat e 1 1 ≤ 63 →
    (if payNat e 0 1 = 0 then s.sec.fwSvn else s.sec.awlSvn) < payNat e 1 1 → svnBelow s (payNat e 0 1) (payNat e 1 1) = false →
    s.sec.svnCount < 63 →
    ∃ t, exec (.advanceSvn e) s = .next t ∧ State.onlyChanges (answerParts s) s t ∧
      carriedOut t e (if payNat e 0 1 = 0 then { s.sec with svnCount := s.sec.svnCount + 1, fwSvn := payNat e 1 1 }
        else { s.sec with svnCount := s.sec.svnCount + 1, awlSvn := payNat e 1 1 })) ∧
  (∀ (s : State) (e : Envelope), passesAll s e 6 2 → 100 ≤ payNat e 0 2 → payNat e 0 2 ≤ 300 →
    payNat e 0 2 ≠ s.sec.ceilNext.getD s.pwr.ceil → s.sec.ceilCount < 31 →
    ∃ t, exec (.setCeiling e) s = .next t ∧ State.onlyChanges (answerParts s) s t ∧
      carriedOut t e { s.sec with ceilNext := some (payNat e 0 2), ceilCount := s.sec.ceilCount + 1 }) ∧
  (∀ (s : State) (e : Envelope), passesAll s e 6 2 → 100 ≤ payNat e 0 2 → payNat e 0 2 ≤ 300 →
    payNat e 0 2 = s.sec.ceilNext.getD s.pwr.ceil →
    ∃ t, exec (.setCeiling e) s = .next t ∧ State.onlyChanges (answerParts s) s t ∧ carriedOut t e s.sec) ∧
  (∀ (s : State) (e : Envelope), passesAll s e 7 832 → recFor Config.calMagic (e.payload.take 832) = true →
    vtSeq (calInUse s) < vtSeq (e.payload.take 832) → s.sec.recalCount < 15 → recSigned (e.payload.take 832) = true →
    ∃ t, exec (.recalMeter e) s = .next t ∧ State.onlyChanges (answerParts s) s t ∧ calInUse t = e.payload.take 832 ∧
      carriedOut t e { s.sec with calRec := some (e.payload.take 832), recalCount := s.sec.recalCount + 1 }) ∧
  (∀ (s : State) (e : Envelope), passesAll s e 8 832 → recFor 0x56544231 (e.payload.take 832) = true →
    (∀ x, vtInUse s = some x → vtSeq x < vtSeq (e.payload.take 832)) → recSigned (e.payload.take 832) = true →
    ∃ t, exec (.replaceVt e) s = .next t ∧ State.onlyChanges (answerParts s) s t ∧
      carriedOut t e { s.sec with vtRec := some (e.payload.take 832) }) ∧
  (∀ (s : State) (e : Envelope), passesAll s e 9 1 → payNat e 0 1 ≤ 4 →
    slotGood s (payNat e 0 1) (1 - fwSlot s (payNat e 0 1)) = true →
    ∃ t, exec (.fwSwitch e) s = .next t ∧ t.sec.counter = e.counter.toNat ∧
      mfind t.sec.trial (payNat e 0 1) =
        some (s.tck.num + b2n (decide (2 ≤ payNat e 0 1)) + regFld s cblPage 0x228 31 0) ∧
      (payNat e 0 1 < 2 → fwSlot t (payNat e 0 1) = 1 - fwSlot s (payNat e 0 1)) ∧
      (2 ≤ payNat e 0 1 → t.sec.active = s.sec.active ∧ t.sec.switching = s.sec.switching ++ [payNat e 0 1]) ∧
      State.onlyChanges [.out, .regs, .cnt, .mem, .poison, .epochs, .tasks, .prov, .crm, .hbm, .ecc, .cw, .ls, .ldl, .rel, .act, .mgt, .mtr, .sec, .sys, .free] s t) ∧
  (∀ (s : State) (e : Envelope), passesAll s e 10 0 → slotGood s 5 (1 - fwSlot s 5) = true →
    ∃ t, exec (.updateLast e) s = .next t ∧ State.onlyChanges (answerParts s) s t ∧
      carriedOut t e { s.sec with lastPend := true, lastTrial := false }) ∧
  (∀ (s : State) (e : Envelope), passesAll s e 11 5 → cobblerUp s = true →
    ∃ t src l q, exec (.mapout e) s = .next t ∧ t.sec = { s.sec with mapWait := [(src, e)] } ∧ t.rel.reqs = l ++ [q] ∧
      l.length = s.rel.reqs.length ∧ q.code = payNat e 0 2 ∧ q.inst = payNat e 2 1 ∧ q.unit = payNat e 3 1 ∧
      q.force = decide (payNat e 4 1 ≠ 0) ∧ q.keyed = true ∧
      State.onlyChanges [.out, .regs, .blk, .crm, .hbm, .cw, .lpc, .rel, .lnk, .mgt, .sec, .sys] s t) ∧
  (∀ (s : State) (e : Envelope), passesAll s e 12 1 → payNat e 0 1 < s.rel.mapTab.length →
    ∃ t, exec (.undoMapout e) s = .next t ∧ State.onlyChanges (answerParts s) s t ∧
      carriedOut t e { s.sec with
        undo := if payNat e 0 1 ∈ s.sec.undo then s.sec.undo else s.sec.undo ++ [payNat e 0 1] }) ∧
  (∀ (s : State) (e : Envelope), passesAll s e 15 12 →
    ∃ t, exec (.setTime e) s = .next t ∧ State.onlyChanges (answerParts s) s t ∧
      carriedOut t e { s.sec with time := some (payNat e 0 8 * 1000000000 + payNat e 8 4) })

/-- The command is answered with LIMIT and has no other effect: to its sender when it came from no buffer and no channel, in its
doorbell's buffer with CMD_STS showing the status (R397), or with a message on its management port (R417). -/
def answeredLimit (s t : State) (e : Envelope) : Prop :=
  let resp := respSealed s.sec.ock (respHead s e.cmd 7 e.counter [])
  onlyAnswered t s.sec ∧ State.onlyChanges (answerParts s) s t ∧
  (s.sec.door = none → mget s.mgt.held 2 [] = [] → t.out = s.out ++ [.response resp]) ∧
  (∀ a, s.sec.door = some a → s.sec.doorResp = none → access s a = .ok → memBytes s.mem a e.bytes.length = e.bytes →
    access s (a + 47) = .ok → s.sec.epoch < 256 →
    t.sec.door = none ∧ t.sec.done = true ∧ t.sec.status = 7 ∧ (s.Inv → memBytes t.mem a 48 = resp)) ∧
  (∀ r rest, s.sec.door = none → mget s.mgt.held 2 [] = r :: rest → r.data = e.bytes →
    mget t.mgt.held 2 [] = rest ∧
    t.out = s.out ++ [.mgt r.port r.src (mgtHead 2 r.msg 0 48 0 48).1 (mgtHead 2 r.msg 0 48 0 48).2 resp])

/-- The commands that put the device into its cold state. -/
def coldCommand (c : Instr) : Prop := c = .vinApply ∨ c = .vinLoss ∨ c = .overVoltage ∨ ∃ low, c = .coldReset low

/-- The active half of the MRAM store is the one in use, under the highest generation, and each of its records is whole (R385). -/
def storeWhole (x : Sec) : Prop :=
  let h := if x.half then x.halfB else x.halfA
  activeHalf x = x.half ∧ x.halfA.gen ≤ x.gen ∧ x.halfB.gen ≤ x.gen ∧ h.gen = x.gen ∧ h.good = true ∧
  ∀ r ∈ h.recs, r.committed = true ∧ r.crcOk = true ∧ r.macOk = true

/-- The counts of Table 13.7 as MRAM holds them: the epoch, which counts owner transfers, the advances of security versions, the
recalibrations and the ceiling changes. -/
def mramCounts (s : State) : List Nat :=
  let v := (replay s.sec).1
  [v.epoch, v.svnCount, v.recalCount, v.ceilCount]

/-- The counts as the Last has them in hand, those of MRAM among them or passed. -/
def lastCounts (s : State) : List Nat := [s.sec.epoch, s.sec.svnCount, s.sec.recalCount, s.sec.ceilCount]

/-- The store is whole, and MRAM is not ahead of the Last. -/
def storeSound (s : State) : Prop := storeWhole s.sec ∧ ∀ i < 4, (mramCounts s).getD i 0 ≤ (lastCounts s).getD i 0

/-- No command, reset, update or release ever lowers a count of Table 13.7, which MRAM holds: the epoch, which counts owner
transfers, and
the counts of security-version advances, recalibrations and ceiling changes; this rests on the store being sound, as it is after reset
and as every command keeps it; nor does the Last's copy fall but to MRAM's at a cold start (R385, R386). A command that would exceed
its limit is answered with LIMIT and has no effect (R378). -/
def Obligations.LimitedCountsNeverFall : Prop :=
  storeSound State.reset ∧
  (∀ (c : Instr) (s t : State), storeSound s → exec c s = .next t →
    storeSound t ∧ ∀ i < 4, (mramCounts s).getD i 0 ≤ (mramCounts t).getD i 0) ∧
  (∀ (c : Instr) (s t : State), exec c s = .next t → ¬ coldCommand c →
    ∀ i < 4, (lastCounts s).getD i 0 ≤ (lastCounts t).getD i 0) ∧
  (∀ (s : State) (e : Envelope) (ock : List Byte), passesHead s e 1 384 → s.sec.owned = false →
    Config.oaepOpen s.sec.keyGen (e.payload.take 384) = some ock → ock.length = 32 → macOf ock e.head = e.mac →
    s.sec.counter < e.counter.toNat → s.sec.epoch = 255 →
    ∃ t, exec (.takeOwnership e) s = .next t ∧ answeredLimit s t e) ∧
  (∀ (s : State) (e : Envelope), passesAll s e 5 2 → payNat e 0 1 ≤ 1 → payNat e 1 1 ≤ 63 →
    (if payNat e 0 1 = 0 then s.sec.fwSvn else s.sec.awlSvn) < payNat e 1 1 → svnBelow s (payNat e 0 1) (payNat e 1 1) = false →
    63 ≤ s.sec.svnCount →
    ∃ t, exec (.advanceSvn e) s = .next t ∧ answeredLimit s t e) ∧
  (∀ (s : State) (e : Envelope), passesAll s e 6 2 → 100 ≤ payNat e 0 2 → payNat e 0 2 ≤ 300 →
    payNat e 0 2 ≠ s.sec.ceilNext.getD s.pwr.ceil → 31 ≤ s.sec.ceilCount →
    ∃ t, exec (.setCeiling e) s = .next t ∧ answeredLimit s t e) ∧
  (∀ (s : State) (e : Envelope), passesAll s e 7 832 → recFor Config.calMagic (e.payload.take 832) = true →
    vtSeq (calInUse s) < vtSeq (e.payload.take 832) → 15 ≤ s.sec.recalCount →
    ∃ t, exec (.recalMeter e) s = .next t ∧ answeredLimit s t e)

/-- WARM_RESTART leaves fail-quiet for phase UPPER where R364 allows it: every open job closes, no stack is held, and the
cores that are not mapped out run; FAIL_QUIET starts the sequencer with cause REMOTE (R362). A change of the
persistent objects is appended to the active half of the MRAM store, so that a start-up after it finds the objects as they stand; one
made during a compaction is held, so that a start-up before its end finds the old half's; replay stops at a record
without its commit word or with a bad CRC, and at one whose HMAC fails with tampering shown (R385, R386). The end of a compaction
makes the other half active with the next generation, holding the objects as they stand, and sends the responses that waited. -/
def Obligations.RestartQuietAndCompaction : Prop :=
  (∀ (s : State) (e : Envelope), passesAll s e 13 0 → warmOk s = true →
    ∃ t, exec (.warmRestart e) s = .next t ∧ carriedOut t e s.sec ∧ t.rel.fqActive = false ∧ t.sys.phase = 6 ∧
      t.sys.cores = (((List.range 16).filter (fun i => !s.sys.coresOut.testBit i)).map (2 ^ ·)).sum ∧
      (∀ i < 32, (getSlot s i).active = true → (getSlot t i).active = false ∧ (getSlot t i).closing = true) ∧
      (∀ n, (getHbm t n).held = false ∧ (getHbm t n).state = (getHbm s n).state) ∧
      State.onlyChanges [.out, .regs, .cnt, .mem, .poison, .epochs, .tasks, .prov, .tck, .crm, .hbm, .ecc, .cw, .ls, .ldl, .rel, .act, .lnk, .mgt, .sec, .sys, .free] s t) ∧
  (∀ (s : State) (e : Envelope), passesAll s e 14 0 → s.sys.released = true → s.rel.fqActive = false →
    ∃ t, exec (.failQuiet e) s = .next t ∧ carriedOut t e s.sec ∧ t.rel.fqActive = true ∧ t.rel.fqCause = 5 ∧
      t.sys.fault = true ∧ t.sys.phase = 15 ∧ (∀ p < 16, (getPort t p).state = 0) ∧ (∀ n < 8, (getHbm t n).state = 3) ∧ t.mtr.runs = [] ∧
      State.onlyChanges [.out, .regs, .cnt, .mem, .poison, .epochs, .tasks, .prov, .crm, .hbm, .ecc, .cw, .ls, .ldl, .rel, .act, .lnk, .mtr, .mgt, .sec, .sys, .free] s t) ∧
  (∀ (s : State) (e : Envelope), passesAll s e 14 0 → s.sys.released = false ∨ s.rel.fqActive = true →
    ∃ t, exec (.failQuiet e) s = .next t ∧ carriedOut t e s.sec ∧ State.onlyChanges (answerParts s) s t) ∧
  (∀ (s : State) (n : Nat), s.sec.compacting = false → storeWhole s.sec →
    storeWhole (journal n s).sec ∧ replay (journal n s).sec = (storeOf s, false)) ∧
  (∀ (s : State) (n : Nat), s.sec.compacting = true → replay (journal n s).sec = replay s.sec) ∧
  (∀ (v : Store) (rs : List JRec) (r : JRec) (more : List JRec),
    (∀ x ∈ rs, x.committed = true ∧ x.crcOk = true ∧ x.macOk = true) →
    let last := ((rs.getLast?).map (·.value)).getD v
    (r.committed = false ∨ r.crcOk = false → replayRecs v (rs ++ r :: more) = (last, false)) ∧
    (r.committed = true → r.crcOk = true → r.macOk = false → replayRecs v (rs ++ r :: more) = (last, true))) ∧
  (∀ s : State, s.sec.compacting = true → storeWhole s.sec →
    ∃ t, exec .compactionDone s = .next t ∧ t.sec.half = (!s.sec.half) ∧ t.sec.gen = s.sec.gen + 1 ∧
      t.sec.compacting = false ∧ t.sec.heldBytes = 0 ∧ t.sec.waiting = [] ∧ t.sec.ock = s.sec.ock ∧
      t.sec.counter = s.sec.counter ∧ storeWhole t.sec ∧ replay t.sec = (storeOf s, false) ∧
      State.onlyChanges [.out, .regs, .cnt, .mem, .poison, .epochs, .tasks, .prov, .crm, .hbm, .ecc, .cw, .ls, .ldl, .rel, .act, .sec, .sys, .free] s t) ∧
  (∀ s : State, s.sec.compacting = false → exec .compactionDone s = .next s)

/-! ### Meter, requests and firkin records -/

/-- The energy of a tick is shared (R390). A tick boundary closes the tick in hand with the energy metered in it and the activity
of each job. A sample over several ticks is split by time, each part but the last rounded down. The energy of a tick is split among
the jobs' activities, each share rounded down and the leftover one each to the largest fractional parts, ties to the earlier of job
slot and class: the shares add up to it. Each running request takes the shares of its job, and the device's energy, for the ticks it
covers; a tick without activity of a job, and what follows the fail-quiet sequencer's start, go to overhead. -/
def energyIsShared : Prop :=
  (∀ s : State, s.sys.released = true → (getBlk s tckPage).ready = true →
    ∃ t k, exec .tickBoundary s = .next t ∧ t.mtr.ticks = s.mtr.ticks ++ [k] ∧ k.num = s.tck.num ∧
      k.dur = tickNs s - s.mtr.cut ∧ k.acts = tickActs s ∧ k.e = s.mtr.cur.e ∧ k.rest = s.mtr.split ∧ t.mtr.cur = {}) ∧
  (∀ (e tot n : Nat) (ns : List Nat), (n :: ns).sum = tot → tot ≠ 0 →
    (spread e tot (n :: ns)).sum = e ∧ (spread e tot (n :: ns)).headD 0 = e * n / tot ∧
    (spread e tot (n :: ns)).length = ns.length + 1) ∧
  (∀ (e : Nat) (acts : List Nat), acts.sum ≠ 0 →
    let sh := shares e acts
    let down (i : Nat) : Nat := e * acts.getD i 0 / acts.sum
    let part (i : Nat) : Nat := e * acts.getD i 0 % acts.sum
    sh.sum = e ∧ sh.length = acts.length ∧ (∀ i < acts.length, sh.getD i 0 = down i ∨ sh.getD i 0 = down i + 1) ∧
    (∀ i < acts.length, ∀ j < acts.length, sh.getD i 0 = down i → sh.getD j 0 = down j + 1 →
      part i < part j ∨ part i = part j ∧ j < i)) ∧
  (∀ (k : TickE) (m : Mtr), k.rest = true → giveTick k m = { m with overhead := m.overhead + k.e }) ∧
  (∀ (k : TickE) (m : Mtr) (i : Nat) (r : Req), k.rest = false →
    let flat := k.acts.flatMap (fun a => [a.2.2.1, a.2.2.2.1, a.2.2.2.2])
    let sh := shares k.e flat
    let m' := giveTick k m
    m.runs[i]? = some r →
    (r.start ≤ k.num → (∀ l, r.last = some l → k.num ≤ l) →
      ∃ r', m'.runs[i]? = some r' ∧ r'.dev = r.dev + k.e ∧ r'.peak = max r.peak k.peak ∧
        (flat.sum = 0 → m'.overhead = m.overhead + k.e ∧ r'.comp = r.comp ∧ r'.memE = r.memE ∧ r'.link = r.link) ∧
        (flat.sum ≠ 0 → m'.overhead = m.overhead ∧ ∀ j < k.acts.length, (k.acts.map (·.2.1)).Nodup →
          (k.acts.map (·.2.1)).getD j 0 = r.job →
          r'.comp = r.comp + sh.getD (3 * j) 0 ∧ r'.memE = r.memE + sh.getD (3 * j + 1) 0 ∧
          r'.link = r.link + sh.getD (3 * j + 2) 0)) ∧
    (k.num < r.start ∨ (∃ l, r.last = some l ∧ l < k.num) → m'.runs[i]? = some r))

/-- A meter sample reads both channels through the gain and offset of the calibration record in use, and adds the product
V x I x 100 us to the energy, in nanovolts and nanoamperes, with the fraction below a microjoule carried; it gives PWR its reading; a
saturated channel sets
METER_FAULT; K is the measured energy over the raw estimate of the sample's 100 microseconds (R316, R387 to R389). A boundary and the
samples share the energy among the jobs (R390). OPEN
stages the slot's REQ_ID for the next boundary while PWR takes work and an entry is free, and is dropped with FIRKIN_BUSY without one;
CLOSE ends the slot's request at it (R32, R391, R393). The record of the earliest ended request that is ready goes out signed: 512
bytes under the next SEQ, kept, and put into the ring where it has room (R392, R395). -/
def Obligations.SamplesRequestsAndFirkinRecords : Prop :=
  (∀ (s : State) (rawV rawI : BitVec 24) (sinceNs : Nat) (faultV faultI : Bool), s.sys.powered = true →
    let fault := faultV || faultI
    let v := ((rawV.toNat : Int) * Config.calGain (calInUse s) 0 + Config.calOffset (calInUse s) 0).toNat
    let i := ((rawI.toNat : Int) * Config.calGain (calInUse s) 1 + Config.calOffset (calInUse s) 1).toNat
    ∃ t, exec (.meterSample rawV rawI sinceNs faultV faultI) s = .next t ∧
      t.mtr.total = s.mtr.total + (s.mtr.carry + v * i) / 10 ^ 16 ∧ t.mtr.carry = (s.mtr.carry + v * i) % 10 ^ 16 ∧
      t.mtr.samples = s.mtr.samples + 1 ∧ t.mtr.low = decide (v * i / 10 ^ 15 < 300000) ∧ t.mtr.fault = fault ∧
      t.mtr.mW = v * i / 10 ^ 15 ∧ t.mtr.calSeq = vtSeq (calInUse s) ∧
      t.mtr.ticks = [] ∧ t.mtr.runs.map (·.id) = s.mtr.runs.map (·.id) ∧ t.mtr.ended.map (·.id) = s.mtr.ended.map (·.id) ∧
      t.pwr.vin = v / 10 ^ 6 ∧ t.pwr.iin = i / 10 ^ 7 ∧ t.pwr.measured = v * i / 10 ^ 18 ∧
      (100000 ≤ sinceNs - s.mtr.cut → t.pwr.rawAcc = rawEnergy s 100000) ∧
      t.pwr.k = (if t.pwr.rawAcc = 0 then s.pwr.k
        else Sys2Proof.Num.r32 (Sys2Proof.Num.divVal (Sys2Proof.Num.ofNat (v * i)) (Sys2Proof.Num.ofNat (10 ^ 13 * t.pwr.rawAcc)))) ∧
      (fault = true → bit (getReg t pwr1 0x20) 10 = true) ∧ State.onlyChanges [.out, .regs, .pwr, .mtr, .sys] s t) ∧
  energyIsShared ∧
  (∀ (s : State) (who : Initiator) (slot : Fin 32) (v : Word), s.admits who pwr1 (0x280 + 8 * slot.val) (v ||| 1) = true →
    let m := if bit v 1 = true ∧ slot.val ∉ s.mtr.closing then { s.mtr with closing := s.mtr.closing ++ [slot.val] } else s.mtr
    (takesWork s pwr1 = false → exec (.reqOpen who slot v) s = .next { s with mtr := m }) ∧
    (takesWork s pwr1 = true → reqEntries s < 256 ∨ mfind s.mtr.staged slot.val ≠ none →
      exec (.reqOpen who slot v) s = .next { s with
        mtr := { m with staged := mput s.mtr.staged slot.val (getReg s pwr1 (0x400 + 8 * slot.val)) } }) ∧
    (takesWork s pwr1 = true → 256 ≤ reqEntries s → mfind s.mtr.staged slot.val = none → ∃ t, exec (.reqOpen who slot v) s = .next t ∧
      raisedAt s t pwr1 9 (0x280 + 8 * slot.val) ∧ t.mtr = m ∧ State.onlyChanges [.regs, .out, .mtr, .sys] s t)) ∧
  (∀ (s : State) (who : Initiator) (slot : Fin 32) (v : Word), s.admits who pwr1 (0x280 + 8 * slot.val) (v ||| 2) = true →
    (bit v 0 = false → exec (.reqClose who slot v) s = .next { s with
      mtr := { s.mtr with
        closing := if slot.val ∈ s.mtr.closing then s.mtr.closing else s.mtr.closing ++ [slot.val] } }) ∧
    (bit v 0 = true → exec (.reqClose who slot v) s = exec (.reqOpen who slot (v ||| 2)) s)) ∧
  (∀ (s : State) (r : Req), s.mtr.ended.find? (reqReady s) = some r →
    ∃ t f, exec .firkinSign s = .next t ∧ f ∈ t.mtr.kept ∧ f.seq = s.mtr.seq + 1 ∧ f.bytes.length = 512 ∧
      f.bytes.take 128 = firkinBody s (s.mtr.seq + 1) r ∧
      f.bytes.drop 128 = Config.pssSign (1 + s.sec.keyGen) (firkinBody s (s.mtr.seq + 1) r) ∧
      t.mtr.seq = s.mtr.seq + 1 ∧ t.mtr.ended = s.mtr.ended.erase r ∧ t.mtr.runs = s.mtr.runs ∧ t.mtr.total = s.mtr.total ∧
      getReg t pwr1 0x240 = word (s.mtr.seq + 1) ∧ bit (getReg t pwr1 0x38) 1 = true ∧
      (s.Inv → (fld (getReg s pwr1 0x238) 9 0 + 1) % 1024 ≠ fld (getReg s pwr1 0x238) 25 16 →
        access s (firkinSlot s (fld (getReg s pwr1 0x238) 9 0)) = .ok →
        access s (firkinSlot s (fld (getReg s pwr1 0x238) 9 0) + 511) = .ok →
        memBytes t.mem (firkinSlot s (fld (getReg s pwr1 0x238) 9 0)) 512 = f.bytes ∧
        fld (getReg t pwr1 0x238) 9 0 = (fld (getReg s pwr1 0x238) 9 0 + 1) % 1024) ∧
      ((fld (getReg s pwr1 0x238) 9 0 + 1) % 1024 = fld (getReg s pwr1 0x238) 25 16 →
        getReg t pwr1 0x248 = word (s.mtr.seq + 1) ∧ getReg t pwr1 0x238 = getReg s pwr1 0x238 ∧ t.mem = s.mem) ∧
      State.onlyChanges [.out, .regs, .cnt, .mem, .poison, .epochs, .tasks, .prov, .crm, .hbm, .ecc, .cw, .ls, .ldl, .rel, .act, .mtr, .sec, .sys, .free] s t) ∧
  (∀ s : State, s.mtr.ended.find? (reqReady s) = none → exec .firkinSign s = .next s)

/-! ### SPDM -/

/-- An SPDM request of the named code and version 1.3 (1.0 for GET_VERSION) that the responder takes in its state. -/
def spdmTakes (s : State) (req : List Byte) (code need : Nat) : Prop :=
  s.sys.released = true ∧ s.sys.phase ≠ 14 ∧ (req.getD 1 0).toNat = code ∧
  (req.getD 0 0).toNat = (if code = 0x84 then 0x10 else 0x13) ∧ need ≤ s.sec.spdmState

/-- A device's message on a management port: fragments of up to 1,484 bytes, each under the header of Table 14.9 (R416). -/
def mgtMessage (port : Nat) (dst : BitVec 48) (chan msg status : Nat) (data : List Byte) : List Out :=
  (List.range (max 1 ((data.length + 1483) / 1484))).map (fun i =>
    let part := (data.drop (1484 * i)).take 1484
    let h := mgtHead chan msg status data.length (1484 * i) part.length
    .mgt port dst h.1 h.2 part)

/-- Where the response goes: back over the management port when the request is the oldest held on the SPDM channel. -/
def spdmOut (s : State) (src : Nat) (req resp : List Byte) : List Out :=
  match (mget s.mgt.held 1 []).head? with
  | some r => if r.port = src ∧ r.data = req then mgtMessage r.port r.src 1 r.msg 0 resp else [.spdm src resp]
  | none => [.spdm src resp]

/-- The response goes out, and SEC is `x`. -/
def spdmAnswers (s t : State) (src : Nat) (req resp : List Byte) (x : Sec) : Prop :=
  t.out = s.out ++ spdmOut s src req resp ∧ t.sec = x ∧ State.onlyChanges [.out, .cnt, .mgt, .sec, .free] s t

/-- The seven SPDM requests with the code of each and the negotiation state it needs. -/
def spdmRequests (src : Fin 2) (req : List Byte) : List (Instr × Nat × Nat) :=
  [(.getVersion src req, 0x84, 0), (.getCapabilities src req, 0xE1, 1), (.negotiateAlgorithms src req, 0xE3, 2),
   (.getDigests src req, 0x81, 3), (.getCertificate src req, 0x82, 3), (.challenge src req, 0x83, 3),
   (.getMeasurements src req, 0xE0, 3)]

/-- What each SPDM request is answered with, and how the exchange joins the transcript: version 1.3; the capabilities;
RSAPSS-3072, SHA-256 and DMTF measurements; the digests of three chains; a portion of a chain; CHALLENGE and signed
measurements under the DIK over the transcript, which they end; measurements without a signature join it. A request out of
order, of another version or of no known code gets ERROR and changes nothing (R373, R374; the layouts are the model's, log
40). -/
def Obligations.SpdmRequestsAreAnswered : Prop :=
  (∀ (s : State) (src : Fin 2) (req : List Byte), spdmTakes s req 0x84 0 →
    ∃ t, exec (.getVersion src req) s = .next t ∧ ∃ resp, resp.take 2 = [0x10#8, 0x04#8] ∧ resp.drop 6 = [0x00#8, 0x13#8] ∧
      spdmAnswers s t src.val req resp { s.sec with spdm := req ++ resp, spdmState := 1 }) ∧
  (∀ (s : State) (src : Fin 2) (req : List Byte), spdmTakes s req 0xE1 1 →
    ∃ t, exec (.getCapabilities src req) s = .next t ∧ ∃ resp, resp.take 2 = [0x13#8, 0x61#8] ∧ resp.length = 20 ∧
      (resp.drop 8).take 4 = toLe 4 0x16 ∧
      spdmAnswers s t src.val req resp { s.sec with spdm := s.sec.spdm ++ req ++ resp, spdmState := 2 }) ∧
  (∀ (s : State) (src : Fin 2) (req : List Byte), spdmTakes s req 0xE3 2 →
    let offers := (req.getD 6 0).toNat % 2 = 1 ∧ (req.getD 8 0).toNat / 8 % 2 = 1 ∧ (req.getD 12 0).toNat % 2 = 1
    (offers →
      ∃ t, exec (.negotiateAlgorithms src req) s = .next t ∧ ∃ resp, resp.take 2 = [0x13#8, 0x63#8] ∧ resp.length = 36 ∧
        (resp.drop 8).take 12 = toLe 4 2 ++ toLe 4 8 ++ toLe 4 1 ∧
        spdmAnswers s t src.val req resp { s.sec with spdm := s.sec.spdm ++ req ++ resp, spdmState := 3 }) ∧
    (¬ offers →
      ∃ t, exec (.negotiateAlgorithms src req) s = .next t ∧ spdmAnswers s t src.val req (spdmError 1) s.sec)) ∧
  (∀ (s : State) (src : Fin 2) (req : List Byte), spdmTakes s req 0x81 3 →
    ∃ t, exec (.getDigests src req) s = .next t ∧ ∃ resp, resp.take 4 = [0x13#8, 0x01#8, 0#8, 7#8] ∧
      resp.drop 4 = Crypto.sha256 (chainOf s 0) ++ Crypto.sha256 (chainOf s 1) ++ Crypto.sha256 (chainOf s 2) ∧
      spdmAnswers s t src.val req resp { s.sec with spdm := s.sec.spdm ++ req ++ resp, spdmState := 3 }) ∧
  (∀ (s : State) (src : Fin 2) (req : List Byte), spdmTakes s req 0x82 3 →
    ((req.getD 2 0).toNat % 16 ≤ 2 → leNat ((req.drop 4).take 2) < (chainOf s ((req.getD 2 0).toNat % 16)).length →
      ∃ t, exec (.getCertificate src req) s = .next t ∧ ∃ resp, resp.take 2 = [0x13#8, 0x02#8] ∧
        resp.drop 8 = ((chainOf s ((req.getD 2 0).toNat % 16)).drop (leNat ((req.drop 4).take 2))).take
          (min (leNat ((req.drop 6).take 2)) 65527) ∧
        spdmAnswers s t src.val req resp { s.sec with spdm := s.sec.spdm ++ req ++ resp, spdmState := 3 }) ∧
    (3 ≤ (req.getD 2 0).toNat % 16 ∨ (chainOf s ((req.getD 2 0).toNat % 16)).length ≤ leNat ((req.drop 4).take 2) →
      ∃ t, exec (.getCertificate src req) s = .next t ∧ spdmAnswers s t src.val req (spdmError 1) s.sec)) ∧
  (∀ (s : State) (src : Fin 2) (req : List Byte), spdmTakes s req 0x83 3 →
    ((req.getD 2 0).toNat % 16 ≤ 2 →
      ∃ t, exec (.challenge src req) s = .next t ∧ ∃ body, body.take 2 = [0x13#8, 0x03#8] ∧
        Crypto.sha256 (chainOf s ((req.getD 2 0).toNat % 16)) <+: body.drop 4 ∧
        spdmAnswers s t src.val req (body ++ Config.pssSign 0 (Config.spdmBody 2 (s.sec.spdm ++ req ++ body)))
          { s.sec with spdm := [] }) ∧
    (3 ≤ (req.getD 2 0).toNat % 16 →
      ∃ t, exec (.challenge src req) s = .next t ∧ spdmAnswers s t src.val req (spdmError 1) s.sec)) ∧
  (∀ (s : State) (src : Fin 2) (req : List Byte), spdmTakes s req 0xE0 3 →
    let op := (req.getD 3 0).toNat
    let ids := if op = 0 then [] else if op = 255 then measFor s else (measFor s).filter (· == op)
    (op = 0 ∨ ids ≠ [] →
      ∃ t, exec (.getMeasurements src req) s = .next t ∧ ∃ body, body.take 2 = [0x13#8, 0x60#8] ∧
        body.getD 2 0 = BitVec.ofNat 8 (if op = 0 then (measFor s).length else 0) ∧ body.getD 4 0 = BitVec.ofNat 8 ids.length ∧
        ids.flatMap (measBytes s) <+: body.drop 8 ∧
        ((req.getD 2 0).toNat % 2 = 1 →
          spdmAnswers s t src.val req (body ++ Config.pssSign 0 (Config.spdmBody 2 (s.sec.spdm ++ req ++ body)))
            { s.sec with spdm := [] }) ∧
        ((req.getD 2 0).toNat % 2 = 0 →
          spdmAnswers s t src.val req body { s.sec with spdm := s.sec.spdm ++ req ++ body, spdmState := 3 })) ∧
    (op ≠ 0 → ids = [] → ∃ t, exec (.getMeasurements src req) s = .next t ∧ spdmAnswers s t src.val req (spdmError 1) s.sec)) ∧
  (∀ (s : State) (src : Fin 2) (req : List Byte) (x : Instr × Nat × Nat), x ∈ spdmRequests src req →
    s.sys.released = true → s.sys.phase ≠ 14 →
    ((req.getD 1 0).toNat ∉ [0x84, 0xE1, 0xE3, 0x81, 0x82, 0x83, 0xE0] →
      ∃ t, exec x.1 s = .next t ∧ spdmAnswers s t src.val req (spdmError 7) s.sec) ∧
    ((req.getD 1 0).toNat = x.2.1 → (req.getD 0 0).toNat ≠ (if x.2.1 = 0x84 then 0x10 else 0x13) →
      ∃ t, exec x.1 s = .next t ∧ spdmAnswers s t src.val req (spdmError 0x41) s.sec) ∧
    ((req.getD 1 0).toNat = x.2.1 → (req.getD 0 0).toNat = (if x.2.1 = 0x84 then 0x10 else 0x13) → s.sec.spdmState < x.2.2 →
      ∃ t, exec x.1 s = .next t ∧ spdmAnswers s t src.val req (spdmError 4) s.sec))

/-! ### Management ports, sideband pins and SMBus -/

/-- The frame is one for the management hardware: to the port, or a broadcast on the IDENT channel. -/
def forHardware (f : MgtFrame) : Prop :=
  f.etherType = 0x88B5#16 ∧ (f.toPort = true ∨ (f.broadcast = true ∧ fld f.w0 7 0 = 0))

/-- A well-formed frame for the management hardware, the first and the last of its message as the flags say. -/
def fragment (s : State) (f : MgtFrame) (first last : Bool) : Prop :=
  mgtUp s = true ∧ mgtLink s f.port.val = true ∧ forHardware f ∧ bit f.w0 9 = first ∧ bit f.w0 10 = last ∧
  fld f.w0 63 48 = f.data.length ∧ f.data.length ≤ 1484

/-- The frame of one whole message for the management hardware. -/
def wholeMessage (s : State) (f : MgtFrame) : Prop :=
  fragment s f true true ∧ fld f.w0 47 32 = 0 ∧ fld f.w1 15 0 = f.data.length

/-- The request that a frame begins. -/
def beginsRequest (f : MgtFrame) : MgtReq := ⟨f.port.val, f.src, fld f.w0 31 16, f.data⟩

/-- The answers of the IDENT, LOG and FIRKIN channels to a request: CHIP_ID, BRING_UP, FQ_STS and the part
number; whole fault-log records from the SEQ in the request's W0 on, as many as its W1[15:0] says, up to 32; whole firkin records
likewise, up to 64 (Table 14.10). -/
def channelAnswers (s : State) (port : Fin 2) (msg : BitVec 16) (r : MgtReq) : List (Instr × Nat × List Byte) :=
  let first := leNat (r.data.take 8)
  let count := leNat ((r.data.drop 8).take 2)
  [(.mgtIdent port msg, 0, wordsBytes [Config.chipId, word (0xB0 + s.sys.phase * 256 + devNum s * 65536 +
      b2n (devValid s) * 2 ^ 30 + s.rel.fqCause * 2 ^ 32)] ++ partNumber),
   (.mgtLog port msg first count, 3, ((s.rel.faultLog.filter (fun x => decide (first ≤ recSeq x))).take (min count 32)).flatten),
   (.mgtFirkin port msg first count, 4, ((s.mtr.kept.filter (fun f => decide (first ≤ f.seq))).take (min count 64)).flatMap (·.bytes))]

/-- What the module answers to the reads of the SMBus: the row, the command's code and the bytes. -/
def smbReads (s : State) : List (Instr × Nat × List Byte) :=
  let ident := partNumber ++ wordBytes Config.chipId
  [(.smbIdent, 0, BitVec.ofNat 8 ident.length :: ident), (.smbPhase, 1, [BitVec.ofNat 8 s.sys.phase]),
   (.smbFq, 2, [if s.rel.fqActive then BitVec.ofNat 8 s.rel.fqCause else 0]),
   (.smbVin, 3, toLe 2 (s.pwr.vin / 10)), (.smbIin, 4, toLe 2 s.pwr.iin),
   (.smbPin, 5, toLe 2 (s.mtr.mW / 1000)), (.smbTInlet, 6, smbTemp s.pwr.inlet),
   (.smbTOutlet, 7, smbTemp s.pwr.outlet), (.smbTDie, 8, smbTemp ((hottest s).map (·.2))),
   (.smbTHbm, 9, smbTemp (hottestHbm s)), (.smbAlerts, 10, toLe 2 (alertWord s)),
   (.smbSlot, 11, [BitVec.ofNat 8 s.sys.slot])]

/-- A whole message is held for the Last, four to a channel; a fifth is answered with BUSY and counted as dropped, and a
frame of no channel with BAD_CHANNEL; a frame with another EtherType goes to the Upper while it takes them, or is dropped
(R415 to R418). A message in several fragments is put together in order; a partial one ends with its timeout. The channels
of the management ports answer the oldest held request of the MSG_ID, to its sender, and take it from their queue; a
command that names another than the oldest request, or other records than it asks for, answers nothing; only
FIRKIN marks its records as read, which lets them be displaced (R395, R416 to R418, Table 14.9). A short turns a driver off with
SB_SHORT until REARM, where the module drives the pin: an open-drain pin that it has released is no short (R404). The SMBus answers
each read at the module's own address, 0x58 + SLOT_ID, while its data pin is driven, with the packet error code behind the bytes (R405,
R420, Table 14.12; the code's form is the model's, log 151). -/
def Obligations.ManagementPortsPinsAndSmbus : Prop :=
  (∀ (s : State) (f : MgtFrame), wholeMessage s f →
    (fld f.w0 7 0 ≤ 4 → (mget s.mgt.held (fld f.w0 7 0) []).length < 4 →
      ∃ t, exec (.managementFragment f) s = .next t ∧
        mget t.mgt.held (fld f.w0 7 0) [] =
          mget s.mgt.held (fld f.w0 7 0) [] ++ [beginsRequest f] ∧
        (∀ c, c ≠ fld f.w0 7 0 → mget t.mgt.held c [] = mget s.mgt.held c []) ∧ State.onlyChanges [.cnt, .mgt] s t) ∧
    (fld f.w0 7 0 ≤ 4 → 4 ≤ (mget s.mgt.held (fld f.w0 7 0) []).length →
      ∃ t, exec (.managementFragment f) s = .next t ∧ bit (getReg t mgtPage 0x20) 9 = true ∧
        (∃ o, t.out = o ++ mgtMessage f.port.val f.src (fld f.w0 7 0) (fld f.w0 31 16) 2 []) ∧
        t.mgt.held = s.mgt.held ∧ State.onlyChanges [.out, .regs, .cnt, .mgt, .sys] s t) ∧
    (5 ≤ fld f.w0 7 0 →
      ∃ t, exec (.managementFragment f) s = .next t ∧ t.mgt = s.mgt ∧
        t.out = s.out ++ mgtMessage f.port.val f.src (fld f.w0 7 0) (fld f.w0 31 16) 1 [] ∧ State.onlyChanges [.out, .cnt] s t)) ∧
  (∀ (s : State) (f : MgtFrame), fragment s f true false → fld f.w0 7 0 ≤ 4 → fld f.w0 47 32 = 0 →
    f.data.length < fld f.w1 15 0 →
    ∃ t, exec (.managementFragment f) s = .next t ∧ t.mgt.held = s.mgt.held ∧
      mfind t.mgt.partials (fld f.w0 7 0) = some (beginsRequest f, fld f.w1 15 0) ∧ State.onlyChanges [.cnt, .mgt] s t) ∧
  (∀ (s : State) (f : MgtFrame) (r : MgtReq) (n : Nat) (last : Bool), fragment s f false last → fld f.w0 7 0 ≤ 4 →
    partialFor s f = some (r, n) → fld f.w0 47 32 = r.data.length → fld f.w1 15 0 = n →
    (last = true → r.data.length + f.data.length = n → (mget s.mgt.held (fld f.w0 7 0) []).length < 4 →
      ∃ t, exec (.managementFragment f) s = .next t ∧ State.onlyChanges [.cnt, .mgt] s t ∧
        mget t.mgt.held (fld f.w0 7 0) [] = mget s.mgt.held (fld f.w0 7 0) [] ++ [{ r with data := r.data ++ f.data }]) ∧
    (last = false → r.data.length + f.data.length < n →
      ∃ t, exec (.managementFragment f) s = .next t ∧ State.onlyChanges [.cnt, .mgt] s t ∧
        mfind t.mgt.partials (fld f.w0 7 0) = some ({ r with data := r.data ++ f.data }, n))) ∧
  (∀ (s : State) (f : MgtFrame), mgtUp s = true → mgtLink s f.port.val = true → ¬ forHardware f →
    ∃ t, exec (.managementFragment f) s = .next t ∧ State.onlyChanges [.out, .cnt] s t ∧
      t.out = s.out ++ (if regBit s mgtPage 0x200 2 = true ∧ (s.sys.phase = 6 ∨ s.sys.phase = 7) then
        [.upper f.port.val (wordsBytes [f.w0, f.w1] ++ f.data)] else [])) ∧
  (∀ (s : State) (port : Fin 2) (bytes : List Byte), mgtLink s port.val = true →
    ∃ t, exec (.upperFrame port bytes) s = .next t ∧ State.onlyChanges [.out, .cnt] s t ∧
      t.out = s.out ++ (if regBit s mgtPage 0x200 2 = true ∧ (s.sys.phase = 6 ∨ s.sys.phase = 7) then
        [.upper port.val bytes] else [])) ∧
  (∀ (s : State) (f : MgtFrame), mgtUp s = false ∨ mgtLink s f.port.val = false →
    exec (.managementFragment f) s = .next s) ∧
  (∀ (s : State) (port : Fin 2) (bytes : List Byte), mgtLink s port.val = false →
    exec (.upperFrame port bytes) s = .next s) ∧
  (∀ (s : State) (chan : Fin 5),
    ∃ t, exec (.reassemblyTimeout chan) s = .next t ∧ t.mgt.held = s.mgt.held ∧ State.onlyChanges [.mgt] s t ∧
      ((s.mgt.partials.map (·.1)).Nodup → mfind t.mgt.partials chan.val = none) ∧
      (∀ c, c ≠ chan.val → mfind t.mgt.partials c = mfind s.mgt.partials c)) ∧
  (∀ (s : State) (port : Fin 2) (up fec : Bool), mgtUp s = true → (up = false ∨ regBit s mgtPage 0x200 port.val = true) →
    ∃ t, exec (.managementLinkChange port up fec) s = .next t ∧ State.onlyChanges [.out, .regs, .mgt, .sys] s t ∧
      (port.val = 0 → t.mgt = { s.mgt with link0 := up, fec0 := up && fec } ∧
        (s.mgt.link0 ≠ up → bit (getReg t mgtPage 0x38) 1 = true)) ∧
      (port.val = 1 → t.mgt = { s.mgt with link1 := up, fec1 := up && fec } ∧
        (s.mgt.link1 ≠ up → bit (getReg t mgtPage 0x38) 1 = true))) ∧
  (∀ (chan msg status total off len : Nat), chan < 256 → msg < 65536 → status < 256 → total < 65536 → off + len ≤ total →
    let h := mgtHead chan msg status total off len
    fld h.1 7 0 = chan ∧ bit h.1 8 = true ∧ bit h.1 9 = decide (off = 0) ∧ bit h.1 10 = decide (off + len = total) ∧
      fld h.1 31 16 = msg ∧ fld h.1 47 32 = off ∧ fld h.1 63 48 = len ∧ fld h.2 15 0 = total ∧ fld h.2 23 16 = status) ∧
  (∀ (s : State) (port : Fin 2) (msg : BitVec 16) (r : MgtReq) (rest : List MgtReq) (x : Instr × Nat × List Byte),
    x ∈ channelAnswers s port msg r → mgtUp s = true → mgtLink s port.val = true →
    mget s.mgt.held x.2.1 [] = r :: rest → r.port = port.val → r.msg = msg.toNat →
    ∃ t, exec x.1 s = .next t ∧ t.out = s.out ++ mgtMessage port.val r.src x.2.1 msg.toNat 0 x.2.2 ∧
      mget t.mgt.held x.2.1 [] = rest ∧ (∀ c, c ≠ x.2.1 → mget t.mgt.held c [] = mget s.mgt.held c []) ∧
      t.mtr.kept.map (·.bytes) = s.mtr.kept.map (·.bytes) ∧
      (∀ f ∈ t.mtr.kept, x.2.1 = 4 → f.seq ∈ ((s.mtr.kept.filter (fun f => decide (leNat (r.data.take 8) ≤ f.seq))).take
        (min (leNat ((r.data.drop 8).take 2)) 64)).map (·.seq) → f.read = true) ∧
      State.onlyChanges [.out, .cnt, .mtr, .mgt, .sec] s t) ∧
  (∀ (s : State) (port : Fin 2) (msg : BitVec 16) (r : MgtReq) (x : Instr × Nat × List Byte),
    x ∈ channelAnswers s port msg r → (∀ y rest, mget s.mgt.held x.2.1 [] = y :: rest → y.port ≠ port.val ∨ y.msg ≠ msg.toNat ∨
      (x.2.1 ≠ 0 ∧ (leNat (y.data.take 8) ≠ leNat (r.data.take 8) ∨
        leNat ((y.data.drop 8).take 2) ≠ leNat ((r.data.drop 8).take 2)))) →
    exec x.1 s = .next s) ∧
  (∀ (s : State) (pin : Fin 4), s.sys.powered = true → pin.val ∉ s.mgt.shorts → (pin.val = 1 → s.sys.fault = true) →
    (pin.val = 2 → thermAlert s = true) →
    ∃ t, exec (.sidebandShort pin) s = .next t ∧ t.mgt = { s.mgt with shorts := s.mgt.shorts ++ [pin.val] } ∧
      bit (getReg t mgtPage 0x20) 8 = true ∧ State.onlyChanges [.out, .regs, .rel, .mgt, .sys] s t) ∧
  (∀ (s : State) (pin : Fin 4), s.sys.powered = false ∨ pin.val ∈ s.mgt.shorts ∨ (pin.val = 1 ∧ s.sys.fault = false) ∨
    (pin.val = 2 ∧ thermAlert s = false) → exec (.sidebandShort pin) s = .next s) ∧
  (∀ (s : State) (who : Initiator) (v : Word), s.admits who mgtPage 0x308 (v ||| 1) = true →
    ∃ t, exec (.rearm who v) s = .next t ∧ t.mgt = { s.mgt with shorts := [] } ∧ State.onlyChanges [.out, .mgt] s t) ∧
  (∀ (s : State) (x : Instr × Nat × List Byte), x ∈ smbReads s →
    let addr := 0x58 + s.sys.slot
    (s.sys.powered = true → 3 ∉ s.mgt.shorts →
      exec x.1 s = .next { s with out := s.out ++ [.smb addr x.2.2
        (crc8 ([BitVec.ofNat 8 (2 * addr), BitVec.ofNat 8 x.2.1, BitVec.ofNat 8 (2 * addr + 1)] ++ x.2.2))] }) ∧
    (s.sys.powered = false ∨ 3 ∈ s.mgt.shorts → exec x.1 s = .next s))
end

