-- ==== Sys2Proof/Laws/Memory.lean ====
section
/-! SUPPORT. Memory: every operation keeps the canonical form, and reads see what was written. -/

set_option Elab.async false

namespace Sys2Proof.Machine

variable {d : Nat → Byte}

/-! ### The listed cells, beside what an unlisted address reads as -/

theorem cellsWf_mono {lo lo' : Option Nat} {m : List Host.Cell} (h : cellsWf d lo m = true)
    (hle : ∀ l, lo' = some l → ∃ k, lo = some k ∧ l ≤ k) : cellsWf d lo' m = true := by
  cases m with
  | nil => rfl
  | cons c m =>
    obtain ⟨k, w⟩ := c
    cases lo' with
    | none => cases lo <;> simp_all [cellsWf]
    | some l =>
      obtain ⟨k', rfl, hk⟩ := hle l rfl
      simp only [cellsWf, Bool.and_eq_true, decide_eq_true_eq] at h ⊢
      exact ⟨⟨by omega, h.1.2⟩, h.2⟩

theorem cellsWf_tail {lo : Option Nat} {c : Host.Cell} {m : List Host.Cell} (h : cellsWf d lo (c :: m) = true) :
    cellsWf d (some c.1) m = true := by
  obtain ⟨k, w⟩ := c
  simp only [cellsWf, Bool.and_eq_true] at h
  exact h.2

theorem cellPut_wf (m : List Host.Cell) : ∀ (lo : Option Nat) (a : Nat) (b : Byte), cellsWf d lo m = true →
    (∀ l, lo = some l → l < a) → cellsWf d lo (cellPut d m a b) = true := by
  induction m with
  | nil =>
    intro lo a b _ hl
    unfold cellPut
    split
    · rfl
    · cases lo <;> simp_all [cellsWf]
  | cons c m ih =>
    obtain ⟨k, w⟩ := c
    intro lo a b h hl
    have ht := cellsWf_tail h
    simp only [cellPut]
    simp only [cellsWf, Bool.and_eq_true, decide_eq_true_eq] at h
    split
    · split
      · simp only [cellsWf, Bool.and_eq_true, decide_eq_true_eq]; exact h
      · simp only [cellsWf, Bool.and_eq_true, decide_eq_true_eq]
        refine ⟨⟨?_, by assumption⟩, ⟨by assumption, h.1.2⟩, ht⟩
        cases lo <;> simp_all
    · split
      · subst_vars
        split
        · exact cellsWf_mono ht (fun l hl' => ⟨_, rfl, Nat.le_of_lt (hl l hl')⟩)
        · simp only [cellsWf, Bool.and_eq_true, decide_eq_true_eq]
          exact ⟨⟨h.1.1, by assumption⟩, ht⟩
      · simp only [cellsWf, Bool.and_eq_true, decide_eq_true_eq]
        refine ⟨h.1, ih _ _ _ ht ?_⟩
        intro l hl'
        cases hl'
        show k < a
        omega

/-- Cells left out keep the form, also where the values of the unlisted change only at addresses left out. -/
theorem cellFilter_wf {d' : Nat → Byte} {p : Host.Cell → Bool} (hd : ∀ c, p c = true → d' c.1 = d c.1) (m : List Host.Cell) :
    ∀ (lo : Option Nat), cellsWf d lo m = true → cellsWf d' lo (m.filter p) = true := by
  induction m with
  | nil => intro lo _; rfl
  | cons c m ih =>
    intro lo h
    have ht := cellsWf_tail h
    obtain ⟨k, w⟩ := c
    simp only [cellsWf, Bool.and_eq_true, decide_eq_true_eq] at h
    simp only [List.filter_cons]
    split
    · rename_i hp
      have e : d' k = d k := hd (k, w) hp
      simp only [cellsWf, Bool.and_eq_true, decide_eq_true_eq]
      exact ⟨⟨h.1.1, by rw [e]; exact h.1.2⟩, ih _ ht⟩
    · refine cellsWf_mono (ih _ ht) (fun l hl => ⟨k, rfl, ?_⟩)
      subst hl
      have := h.1.1
      simp at this
      omega

theorem cellGet_below {k : Nat} (m : List Host.Cell) : ∀ (lo : Option Nat), cellsWf d lo m = true →
    (∃ l, lo = some l ∧ k ≤ l) → cellGet d m k = d k := by
  induction m with
  | nil => intro _ _ _; rfl
  | cons c m ih =>
    intro lo h hl
    have ht := cellsWf_tail h
    obtain ⟨a, w⟩ := c
    obtain ⟨l, rfl, hk⟩ := hl
    simp only [cellsWf, Bool.and_eq_true, decide_eq_true_eq] at h
    have hne : ¬ a = k := by omega
    simp only [cellGet, hne, if_false]
    exact ih _ ht ⟨a, rfl, by omega⟩

theorem cellGet_cellPut (m : List Host.Cell) : ∀ (lo : Option Nat) (a : Nat) (b : Byte) (x : Nat),
    cellsWf d lo m = true → cellGet d (cellPut d m a b) x = if x = a then b else cellGet d m x := by
  induction m with
  | nil =>
    intro lo a b x _
    unfold cellPut
    by_cases hb : b = d a
    · subst hb; by_cases hx : x = a <;> simp [hx, cellGet]
    · rw [if_neg hb]
      by_cases hx : x = a
      · simp [hx, cellGet]
      · simp [hx, cellGet, Ne.symm hx]
  | cons c m ih =>
    intro lo a b x h
    have ht := cellsWf_tail h
    obtain ⟨k, w⟩ := c
    have hk : ∀ y, y ≤ k → cellGet d m y = d y := fun y hy => cellGet_below m _ ht ⟨k, rfl, hy⟩
    simp only [cellPut]
    by_cases h1 : a < k
    · simp only [h1, if_true]
      by_cases hb : b = d a
      · subst hb
        simp only [if_true]
        by_cases hx : x = a
        · subst hx
          have : ¬ k = x := by omega
          simp [cellGet, this, hk x (by omega)]
        · simp [hx]
      · simp only [hb, if_false, cellGet]
        by_cases hx : x = a
        · simp [hx]
        · simp [hx, Ne.symm hx]
    · simp only [h1, if_false]
      by_cases h2 : a = k
      · subst h2
        simp only [if_true]
        by_cases hb : b = d a
        · subst hb
          simp only [if_true]
          by_cases hx : x = a
          · subst hx; simp [hk x (Nat.le_refl x)]
          · simp [hx, cellGet, Ne.symm hx]
        · simp only [hb, if_false, cellGet]
          by_cases hx : x = a
          · simp [hx]
          · simp [hx, Ne.symm hx]
      · simp only [h2, if_false, cellGet]
        rw [ih _ a b x ht]
        by_cases hx : x = a
        · subst hx
          have : ¬ k = x := fun e => h2 e.symm
          simp [this]
        · simp [hx]

/-! ### Memory -/

variable {m : Mem}

@[simp] theorem memPut_lost (a : Nat) (b : Byte) : (memPut m a b).lost = m.lost := rfl

/-- One byte written keeps the canonical form. -/
theorem memPut_wf {a : Nat} {b : Byte} (h : Memory.wf m = true) : Memory.wf (memPut m a b) = true :=
  cellPut_wf m.cells none a b h (by simp)

/-- Bytes written keep the canonical form. -/
theorem memStore_wf {bs : List Byte} : ∀ {m : Mem} {a : Nat}, Memory.wf m = true → Memory.wf (memStore m a bs) = true := by
  induction bs with
  | nil => intro m a h; exact h
  | cons b bs ih => intro m a h; exact ih (memPut_wf h)

/-- Content lost keeps the canonical form: what is listed no more reads as its new value. -/
theorem memLose_wf {x : Lost} (h : Memory.wf m = true) : Memory.wf (memLose x m) = true := by
  apply cellFilter_wf (d := unlisted m.lost) _ _ _ h
  intro c hc
  have hn : x.covers c.1 = false := by simpa using hc
  have step (y : Lost) (l : List Lost) (hy : y.covers c.1 = false) : unlisted (y :: l) c.1 = unlisted l c.1 := by
    simp [unlisted, hy]
  cases x with
  | all n => cases hn
  | lines n k l => exact step _ _ hn
  | zeroed lo hi => exact step _ _ hn
  | span n lo hi => exact step _ _ hn

/-- A range zeroed keeps the canonical form. -/
theorem memZero_wf {lo hi : Nat} (h : Memory.wf m = true) : Memory.wf (memZero lo hi m) = true := by
  unfold memZero
  split
  · exact cellFilter_wf (d := unlisted m.lost) (fun _ _ => rfl) _ _ h
  · exact memLose_wf h

/-- A byte read after a byte written. -/
theorem memGet_memPut (h : Memory.wf m = true) (a x : Nat) (b : Byte) :
    memGet (memPut m a b) x = if x = a then b else memGet m x := cellGet_cellPut m.cells none a b x h

/-- A byte read after bytes written: the byte written there, or what was there before. -/
theorem memGet_memStore {bs : List Byte} : ∀ {m : Mem} {a : Nat}, Memory.wf m = true → ∀ x,
    memGet (memStore m a bs) x = if a ≤ x ∧ x < a + bs.length then bs.getD (x - a) 0 else memGet m x := by
  induction bs with
  | nil =>
    intro m a _ x
    have h2 : ¬ (a ≤ x ∧ x < a + ([] : List Byte).length) := by simp
    rw [if_neg h2]; rfl
  | cons b bs ih =>
    intro m a h x
    simp only [memStore]
    rw [ih (memPut_wf h), memGet_memPut h]
    by_cases h1 : a + 1 ≤ x ∧ x < a + 1 + bs.length
    · have h2 : a ≤ x ∧ x < a + (b :: bs).length := by simp; omega
      rw [if_pos h1, if_pos h2]
      obtain ⟨j, rfl⟩ : ∃ j, x = a + 1 + j := ⟨x - (a + 1), by omega⟩
      have e1 : a + 1 + j - (a + 1) = j := by omega
      have e2 : a + 1 + j - a = j + 1 := by omega
      rw [e1, e2]
      simp
    · rw [if_neg h1]
      by_cases hx : x = a
      · subst hx; simp
      · have h2 : ¬ (a ≤ x ∧ x < a + (b :: bs).length) := by simp; omega
        rw [if_neg h2]
        simp [hx]

end Sys2Proof.Machine
end

