-- ==== Sys2Proof/Laws/Frame.lean ====
section
/-! SUPPORT. The relation the frame laws are stated with: from `s` to `t` only the listed parts change, and memory stays in
its canonical form. It composes, so that one law per function says everything that function can change. -/

set_option Elab.async false

namespace Sys2Proof.Machine

/-- Only the listed parts change, and the invariant is kept. -/
def Keeps (ps : List Part) (s t : State) : Prop := State.onlyChanges ps s t ∧ (s.Inv → t.Inv)

variable {ps qs : List Part} {s t u : State}

theorem Keeps.refl : Keeps ps s s := ⟨fun p _ => by cases p <;> rfl, id⟩

theorem Part.same_trans (p : Part) (h : p.same s t) (k : p.same t u) : p.same s u := by
  cases p <;> exact Eq.trans k h

theorem Keeps.trans (h : Keeps ps s t) (k : Keeps ps t u) : Keeps ps s u :=
  ⟨fun p hp => p.same_trans (h.1 p hp) (k.1 p hp), fun i => k.2 (h.2 i)⟩

theorem Keeps.mono (h : Keeps ps s t) (hq : ps ⊆ qs) : Keeps qs s t := ⟨fun p hp => h.1 p (fun m => hp (hq m)), h.2⟩

/-- One more change of the parts listed. -/
theorem Keeps.step (h : Keeps ps s t) (k : Keeps qs t u) (hq : qs ⊆ ps := by decide) : Keeps ps s u := h.trans (k.mono hq)

theorem Keeps.ite {c : Prop} [Decidable c] (ht : c → Keeps ps s t) (hu : ¬c → Keeps ps s u) :
    Keeps ps s (if c then t else u) := by
  split
  · exact ht ‹_›
  · exact hu ‹_›

theorem Keeps.foldl {α : Type} {f : State → α → State} {l : List α} (h : Keeps ps s t)
    (hf : ∀ a x, Keeps ps s a → Keeps ps s (f a x)) : Keeps ps s (l.foldl f t) := by
  induction l generalizing t with
  | nil => exact h
  | cons x l ih => exact ih (hf _ _ h)

theorem Keeps.foldl_fst {α β : Type} {f : State × β → α → State × β} {p : State × β} {l : List α} (h : Keeps ps s p.1)
    (hf : ∀ a x, Keeps ps s a.1 → Keeps ps s (f a x).1) : Keeps ps s (l.foldl f p).1 := by
  induction l generalizing p with
  | nil => exact h
  | cons x l ih => exact ih (hf _ _ h)

theorem Keeps.foldl_snd {α β : Type} {f : β × State → α → β × State} {p : β × State} {l : List α} (h : Keeps ps s p.2)
    (hf : ∀ a x, Keeps ps s a.2 → Keeps ps s (f a x).2) : Keeps ps s (l.foldl f p).2 := by
  induction l generalizing p with
  | nil => exact h
  | cons x l ih => exact ih (hf _ _ h)

theorem Keeps.fst {β : Type} {p : State × β} {b : β} (e : p = (t, b)) (h : Keeps ps s p.1) : Keeps ps s t := by
  subst e; exact h

theorem Keeps.snd {β : Type} {p : β × State} {b : β} (e : p = (b, t)) (h : Keeps ps s p.2) : Keeps ps s t := by
  subst e; exact h

/-- What a granule's answer changes. -/
def StepKeeps (ps : List Part) (s : State) : StepRes → Prop
  | .wait => True
  | .fail _ t => Keeps ps s t
  | .go _ t => Keeps ps s t

/-- What a command's answer changes. -/
def ResKeeps (ps : List Part) (s : State) : Res → Prop
  | .next t => Keeps ps s t
  | _ => True

/-- What running granules changes. -/
def GranKeeps (ps : List Part) (s : State) : GranRes → Prop
  | .done _ t => Keeps ps s t
  | .fail _ _ t => Keeps ps s t

/-- What a descriptor read changes. -/
def TdKeeps (ps : List Part) (s : State) : TdRead → Prop
  | .wait => True
  | .fail _ t => Keeps ps s t
  | .ok _ t => Keeps ps s t

theorem StepKeeps.go {r : StepRes} {k : Task} (e : r = .go k t) (h : StepKeeps ps s r) : Keeps ps s t := by subst e; exact h

theorem StepKeeps.fail {r : StepRes} {f : Fail} (e : r = .fail f t) (h : StepKeeps ps s r) : Keeps ps s t := by
  subst e; exact h

theorem StepKeeps.step {r : StepRes} (h : Keeps ps s t) (k : StepKeeps qs t r) (hq : qs ⊆ ps := by decide) :
    StepKeeps ps s r := by
  cases r with
  | wait => trivial
  | fail _ _ => exact h.step k hq
  | go _ _ => exact h.step k hq

theorem TdKeeps.ok {r : TdRead} {k : Task} (e : r = .ok k t) (h : TdKeeps ps s r) : Keeps ps s t := by subst e; exact h

theorem TdKeeps.fail {r : TdRead} {f : Fail} (e : r = .fail f t) (h : TdKeeps ps s r) : Keeps ps s t := by subst e; exact h

/-- What an answer with a state, if there is one, changes. -/
def OptKeeps (ps : List Part) (s : State) : Option State → Prop
  | none => True
  | some t => Keeps ps s t

/-- What an answer with a value and a state, if there is one, changes. -/
def OptSnd {α : Type} (ps : List Part) (s : State) : Option (α × State) → Prop
  | none => True
  | some x => Keeps ps s x.2

theorem OptKeeps.some {o : Option State} (e : o = .some t) (h : OptKeeps ps s o) : Keeps ps s t := by subst e; exact h

theorem OptKeeps.step {o : Option State} (h : Keeps ps s t) (k : OptKeeps qs t o) (hq : qs ⊆ ps := by decide) :
    OptKeeps ps s o := by
  cases o with
  | none => trivial
  | some u => exact h.step k hq

theorem OptSnd.some {α : Type} {o : Option (α × State)} {x : α × State} (e : o = .some x) (h : OptSnd ps s o) :
    Keeps ps s x.2 := by subst e; exact h

theorem OptSnd.pair {α : Type} {o : Option (α × State)} {a : α} (e : o = .some (a, t)) (h : OptSnd ps s o) :
    Keeps ps s t := by subst e; exact h

theorem OptSnd.step {α : Type} {o : Option (α × State)} (h : Keeps ps s t) (k : OptSnd qs t o)
    (hq : qs ⊆ ps := by decide) : OptSnd ps s o := by
  cases o with
  | none => trivial
  | some u => exact h.step k hq

theorem Keeps.getD {o : Option State} {d : State} (h : Keeps ps s d) (k : ∀ u, o = some u → Keeps ps s u) :
    Keeps ps s (o.getD d) := by
  cases o with
  | none => exact h
  | some u => exact k u rfl

/-- A record update of listed parts, memory apart. -/
theorem Keeps.mk {a0 a1 a2 a3 a4 a5 a6 a7 a8 a9 a10 a11 a12 a13 a14 a15 a16 a17 a18 a19 a20 a21 a22 a23 a24 a25 a26 a27 a28 a29 a30
    a31 a32 a33 a34 a35 a36 a37 a38 a39 a40 a41 a42 a43 a44}
    (_ : a0 = t.pending) (h : Keeps ps s t) (hm : a5 = t.mem)
    (hu : State.onlyChanges ps t ⟨a0, a1, a2, a3, a4, a5, a6, a7, a8, a9, a10, a11, a12, a13, a14, a15, a16, a17, a18, a19, a20, a21, a22, a23,
      a24, a25, a26, a27, a28, a29, a30, a31, a32, a33, a34, a35, a36, a37, a38, a39, a40, a41, a42, a43, a44⟩) :
    Keeps ps s ⟨a0, a1, a2, a3, a4, a5, a6, a7, a8, a9, a10, a11, a12, a13, a14, a15, a16, a17, a18, a19, a20, a21, a22, a23,
      a24, a25, a26, a27, a28, a29, a30, a31, a32, a33, a34, a35, a36, a37, a38, a39, a40, a41, a42, a43, a44⟩ :=
  ⟨fun p hp => p.same_trans (h.1 p hp) (hu p hp), fun i => by
    have := h.2 i; unfold State.Inv at *; rw [← hm] at this; exact this⟩

/-- A record update of listed parts, memory among them. -/
theorem Keeps.mkm {a0 a1 a2 a3 a4 a5 a6 a7 a8 a9 a10 a11 a12 a13 a14 a15 a16 a17 a18 a19 a20 a21 a22 a23 a24 a25 a26 a27 a28 a29 a30
    a31 a32 a33 a34 a35 a36 a37 a38 a39 a40 a41 a42 a43 a44}
    (_ : a0 = t.pending) (h : Keeps ps s t) (hm : Memory.wf t.mem = true → Memory.wf a5 = true)
    (hu : State.onlyChanges ps t ⟨a0, a1, a2, a3, a4, a5, a6, a7, a8, a9, a10, a11, a12, a13, a14, a15, a16, a17, a18, a19, a20, a21, a22, a23,
      a24, a25, a26, a27, a28, a29, a30, a31, a32, a33, a34, a35, a36, a37, a38, a39, a40, a41, a42, a43, a44⟩) :
    Keeps ps s ⟨a0, a1, a2, a3, a4, a5, a6, a7, a8, a9, a10, a11, a12, a13, a14, a15, a16, a17, a18, a19, a20, a21, a22, a23,
      a24, a25, a26, a27, a28, a29, a30, a31, a32, a33, a34, a35, a36, a37, a38, a39, a40, a41, a42, a43, a44⟩ :=
  ⟨fun p hp => p.same_trans (h.1 p hp) (hu p hp), fun i => hm (h.2 i)⟩

/-- An update of memory that keeps its form. -/
theorem Keeps.set_mem (h : Keeps ps s t) (v) (hv : Memory.wf t.mem = true → Memory.wf v = true) (hp : .mem ∈ ps := by decide) :
    Keeps ps s { t with mem := v } :=
  ⟨fun p hq => p.same_trans (h.1 p hq) (by cases p <;> first | rfl | exact absurd hp hq), fun i => hv (h.2 i)⟩

theorem Keeps.set_resp (h : Keeps ps s t) (v) (hp : .resp ∈ ps := by decide) : Keeps ps s { t with resp := v } :=
  Keeps.mk rfl h rfl (fun p hq => by cases p <;> first | rfl | exact absurd hp hq)

theorem Keeps.set_out (h : Keeps ps s t) (v) (hp : .out ∈ ps := by decide) : Keeps ps s { t with out := v } :=
  Keeps.mk rfl h rfl (fun p hq => by cases p <;> first | rfl | exact absurd hp hq)

theorem Keeps.set_regs (h : Keeps ps s t) (v) (hp : .regs ∈ ps := by decide) : Keeps ps s { t with regs := v } :=
  Keeps.mk rfl h rfl (fun p hq => by cases p <;> first | rfl | exact absurd hp hq)

theorem Keeps.set_cnt (h : Keeps ps s t) (v) (hp : .cnt ∈ ps := by decide) : Keeps ps s { t with cnt := v } :=
  Keeps.mk rfl h rfl (fun p hq => by cases p <;> first | rfl | exact absurd hp hq)

theorem Keeps.set_poison (h : Keeps ps s t) (v) (hp : .poison ∈ ps := by decide) : Keeps ps s { t with poison := v } :=
  Keeps.mk rfl h rfl (fun p hq => by cases p <;> first | rfl | exact absurd hp hq)

theorem Keeps.set_epochs (h : Keeps ps s t) (v) (hp : .epochs ∈ ps := by decide) : Keeps ps s { t with epochs := v } :=
  Keeps.mk rfl h rfl (fun p hq => by cases p <;> first | rfl | exact absurd hp hq)

theorem Keeps.set_blk (h : Keeps ps s t) (v) (hp : .blk ∈ ps := by decide) : Keeps ps s { t with blk := v } :=
  Keeps.mk rfl h rfl (fun p hq => by cases p <;> first | rfl | exact absurd hp hq)

theorem Keeps.set_queues (h : Keeps ps s t) (v) (hp : .queues ∈ ps := by decide) : Keeps ps s { t with queues := v } :=
  Keeps.mk rfl h rfl (fun p hq => by cases p <;> first | rfl | exact absurd hp hq)

theorem Keeps.set_pools (h : Keeps ps s t) (v) (hp : .pools ∈ ps := by decide) : Keeps ps s { t with pools := v } :=
  Keeps.mk rfl h rfl (fun p hq => by cases p <;> first | rfl | exact absurd hp hq)

theorem Keeps.set_tasks (h : Keeps ps s t) (v) (hp : .tasks ∈ ps := by decide) : Keeps ps s { t with tasks := v } :=
  Keeps.mk rfl h rfl (fun p hq => by cases p <;> first | rfl | exact absurd hp hq)

theorem Keeps.set_nextTask (h : Keeps ps s t) (v) (hp : .nextTask ∈ ps := by decide) : Keeps ps s { t with nextTask := v } :=
  Keeps.mk rfl h rfl (fun p hq => by cases p <;> first | rfl | exact absurd hp hq)

theorem Keeps.set_groups (h : Keeps ps s t) (v) (hp : .groups ∈ ps := by decide) : Keeps ps s { t with groups := v } :=
  Keeps.mk rfl h rfl (fun p hq => by cases p <;> first | rfl | exact absurd hp hq)

theorem Keeps.set_prov (h : Keeps ps s t) (v) (hp : .prov ∈ ps := by decide) : Keeps ps s { t with prov := v } :=
  Keeps.mk rfl h rfl (fun p hq => by cases p <;> first | rfl | exact absurd hp hq)

theorem Keeps.set_drain (h : Keeps ps s t) (v) (hp : .drain ∈ ps := by decide) : Keeps ps s { t with drain := v } :=
  Keeps.mk rfl h rfl (fun p hq => by cases p <;> first | rfl | exact absurd hp hq)

theorem Keeps.set_eng (h : Keeps ps s t) (v) (hp : .eng ∈ ps := by decide) : Keeps ps s { t with eng := v } :=
  Keeps.mk rfl h rfl (fun p hq => by cases p <;> first | rfl | exact absurd hp hq)

theorem Keeps.set_tck (h : Keeps ps s t) (v) (hp : .tck ∈ ps := by decide) : Keeps ps s { t with tck := v } :=
  Keeps.mk rfl h rfl (fun p hq => by cases p <;> first | rfl | exact absurd hp hq)

theorem Keeps.set_crm (h : Keeps ps s t) (v) (hp : .crm ∈ ps := by decide) : Keeps ps s { t with crm := v } :=
  Keeps.mk rfl h rfl (fun p hq => by cases p <;> first | rfl | exact absurd hp hq)

theorem Keeps.set_hbm (h : Keeps ps s t) (v) (hp : .hbm ∈ ps := by decide) : Keeps ps s { t with hbm := v } :=
  Keeps.mk rfl h rfl (fun p hq => by cases p <;> first | rfl | exact absurd hp hq)

theorem Keeps.set_lpc (h : Keeps ps s t) (v) (hp : .lpc ∈ ps := by decide) : Keeps ps s { t with lpc := v } :=
  Keeps.mk rfl h rfl (fun p hq => by cases p <;> first | rfl | exact absurd hp hq)

theorem Keeps.set_ldl (h : Keeps ps s t) (v) (hp : .ldl ∈ ps := by decide) : Keeps ps s { t with ldl := v } :=
  Keeps.mk rfl h rfl (fun p hq => by cases p <;> first | rfl | exact absurd hp hq)

theorem Keeps.set_rel (h : Keeps ps s t) (v) (hp : .rel ∈ ps := by decide) : Keeps ps s { t with rel := v } :=
  Keeps.mk rfl h rfl (fun p hq => by cases p <;> first | rfl | exact absurd hp hq)

theorem Keeps.set_arr (h : Keeps ps s t) (v) (hp : .arr ∈ ps := by decide) : Keeps ps s { t with arr := v } :=
  Keeps.mk rfl h rfl (fun p hq => by cases p <;> first | rfl | exact absurd hp hq)

theorem Keeps.set_act (h : Keeps ps s t) (v) (hp : .act ∈ ps := by decide) : Keeps ps s { t with act := v } :=
  Keeps.mk rfl h rfl (fun p hq => by cases p <;> first | rfl | exact absurd hp hq)

theorem Keeps.set_tables (h : Keeps ps s t) (v) (hp : .tables ∈ ps := by decide) : Keeps ps s { t with tables := v } :=
  Keeps.mk rfl h rfl (fun p hq => by cases p <;> first | rfl | exact absurd hp hq)

theorem Keeps.set_layers (h : Keeps ps s t) (v) (hp : .layers ∈ ps := by decide) : Keeps ps s { t with layers := v } :=
  Keeps.mk rfl h rfl (fun p hq => by cases p <;> first | rfl | exact absurd hp hq)

theorem Keeps.set_skm (h : Keeps ps s t) (v) (hp : .skm ∈ ps := by decide) : Keeps ps s { t with skm := v } :=
  Keeps.mk rfl h rfl (fun p hq => by cases p <;> first | rfl | exact absurd hp hq)

theorem Keeps.set_lnk (h : Keeps ps s t) (v) (hp : .lnk ∈ ps := by decide) : Keeps ps s { t with lnk := v } :=
  Keeps.mk rfl h rfl (fun p hq => by cases p <;> first | rfl | exact absurd hp hq)

theorem Keeps.set_keys (h : Keeps ps s t) (v) (hp : .keys ∈ ps := by decide) : Keeps ps s { t with keys := v } :=
  Keeps.mk rfl h rfl (fun p hq => by cases p <;> first | rfl | exact absurd hp hq)

theorem Keeps.set_pwr (h : Keeps ps s t) (v) (hp : .pwr ∈ ps := by decide) : Keeps ps s { t with pwr := v } :=
  Keeps.mk rfl h rfl (fun p hq => by cases p <;> first | rfl | exact absurd hp hq)

theorem Keeps.set_clk (h : Keeps ps s t) (v) (hp : .clk ∈ ps := by decide) : Keeps ps s { t with clk := v } :=
  Keeps.mk rfl h rfl (fun p hq => by cases p <;> first | rfl | exact absurd hp hq)

theorem Keeps.set_mtr (h : Keeps ps s t) (v) (hp : .mtr ∈ ps := by decide) : Keeps ps s { t with mtr := v } :=
  Keeps.mk rfl h rfl (fun p hq => by cases p <;> first | rfl | exact absurd hp hq)

theorem Keeps.set_mgt (h : Keeps ps s t) (v) (hp : .mgt ∈ ps := by decide) : Keeps ps s { t with mgt := v } :=
  Keeps.mk rfl h rfl (fun p hq => by cases p <;> first | rfl | exact absurd hp hq)

theorem Keeps.set_sec (h : Keeps ps s t) (v) (hp : .sec ∈ ps := by decide) : Keeps ps s { t with sec := v } :=
  Keeps.mk rfl h rfl (fun p hq => by cases p <;> first | rfl | exact absurd hp hq)

theorem Keeps.set_sys (h : Keeps ps s t) (v) (hp : .sys ∈ ps := by decide) : Keeps ps s { t with sys := v } :=
  Keeps.mk rfl h rfl (fun p hq => by cases p <;> first | rfl | exact absurd hp hq)

theorem Keeps.set_free (h : Keeps ps s t) (v) (hp : .free ∈ ps := by decide) : Keeps ps s { t with free := v } :=
  Keeps.mk rfl h rfl (fun p hq => by cases p <;> first | rfl | exact absurd hp hq)

theorem Keeps.set_ecc (h : Keeps ps s t) (v) (hp : .ecc ∈ ps := by decide) : Keeps ps s { t with ecc := v } :=
  Keeps.mk rfl h rfl (fun p hq => by cases p <;> first | rfl | exact absurd hp hq)

theorem Keeps.set_ls (h : Keeps ps s t) (v) (hp : .ls ∈ ps := by decide) : Keeps ps s { t with ls := v } :=
  Keeps.mk rfl h rfl (fun p hq => by cases p <;> first | rfl | exact absurd hp hq)

theorem Keeps.set_upset (h : Keeps ps s t) (v) (hp : .upset ∈ ps := by decide) : Keeps ps s { t with upset := v } :=
  Keeps.mk rfl h rfl (fun p hq => by cases p <;> first | rfl | exact absurd hp hq)

theorem Keeps.set_seedBad (h : Keeps ps s t) (v) (hp : .seedBad ∈ ps := by decide) : Keeps ps s { t with seedBad := v } :=
  Keeps.mk rfl h rfl (fun p hq => by cases p <;> first | rfl | exact absurd hp hq)

theorem Keeps.set_rngBlocks (h : Keeps ps s t) (v) (hp : .rngBlocks ∈ ps := by decide) : Keeps ps s { t with rngBlocks := v } :=
  Keeps.mk rfl h rfl (fun p hq => by cases p <;> first | rfl | exact absurd hp hq)

theorem Keeps.set_cross (h : Keeps ps s t) (v) (hp : .cross ∈ ps := by decide) : Keeps ps s { t with cross := v } :=
  Keeps.mk rfl h rfl (fun p hq => by cases p <;> first | rfl | exact absurd hp hq)

theorem Keeps.set_cw (h : Keeps ps s t) (v) (hp : .cw ∈ ps := by decide) : Keeps ps s { t with cw := v } :=
  Keeps.mk rfl h rfl (fun p hq => by cases p <;> first | rfl | exact absurd hp hq)

theorem Keeps.set_actJob (h : Keeps ps s t) (v) (hp : .actJob ∈ ps := by decide) : Keeps ps s { t with actJob := v } :=
  Keeps.mk rfl h rfl (fun p hq => by cases p <;> first | rfl | exact absurd hp hq)

end Sys2Proof.Machine
end

