-- ==== Sys2Proof/Laws/FrameCore.lean ====
section
/-! SUPPORT. What each function can change, one law a function: the shared operations, the queues and pools, and the engines. -/

set_option Elab.async false

namespace Sys2Proof.Machine

/-! ### Machine/Ops.lean -/

theorem setReg_keeps (page off : ℕ) (v : Word) (s : State) :
    Keeps [.regs] s (setReg page off v s) := by
  unfold setReg
  refine .set_regs ?_ _
  exact .refl

theorem setBlk_keeps (page : ℕ) (b : Blk) (s : State) :
    Keeps [.blk] s (setBlk page b s) := by
  unfold setBlk
  refine .set_blk ?_ _
  exact .refl

theorem emit_keeps (o : Out) (s : State) :
    Keeps [.out] s (emit o s) := by
  unfold emit
  refine .set_out ?_ _
  exact .refl

theorem deliver_keeps (target core vector : ℕ) (s : State) :
    Keeps [.out, .sys] s (deliver target core vector s) := by
  unfold deliver
  dsimp only
  refine .ite (fun _ => ?_) (fun _ => ?_)
  · exact .refl
  · refine .ite (fun _ => ?_) (fun _ => ?_)
    · refine .step ?_ (emit_keeps ..)
      refine .set_sys ?_ _
      exact .refl
    · refine .step ?_ (emit_keeps ..)
      exact .refl

theorem intSet_keeps (page i : ℕ) (s : State) :
    Keeps [.out, .regs, .sys] s (intSet page i s) := by
  unfold intSet
  dsimp only
  refine .ite (fun _ => ?_) (fun _ => ?_)
  · refine .step ?_ (deliver_keeps ..)
    refine .step ?_ (setReg_keeps ..)
    exact .refl
  · refine .step ?_ (setReg_keeps ..)
    exact .refl

theorem raise_keeps (page i off : ℕ) (s : State) :
    Keeps [.out, .regs, .sys] s (raise page i off s) := by
  unfold raise
  dsimp only
  refine .ite (fun _ => ?_) (fun _ => ?_)
  · refine .step ?_ (setReg_keeps ..)
    exact .refl
  · refine .step ?_ (intSet_keeps ..)
    refine .ite (fun _ => ?_) (fun _ => ?_)
    · refine .step ?_ (setReg_keeps ..)
      exact .refl
    · refine .step ?_ (setReg_keeps ..)
      refine .step ?_ (setReg_keeps ..)
      exact .refl

theorem report_keeps (page : ℕ) (e : ErrEvent) (s : State) :
    Keeps [.rel] s (report page e s) := by
  unfold report
  dsimp only
  refine .ite (fun _ => ?_) (fun _ => ?_)
  · refine .set_rel ?_ _
    exact .refl
  · exact .refl

theorem reportLate_keeps (page : ℕ) (e : ErrEvent) (s : State) :
    Keeps [.rel] s (reportLate page e s) := by
  unfold reportLate
  dsimp only
  refine .ite (fun _ => ?_) (fun _ => ?_)
  · refine .set_rel ?_ _
    exact .refl
  · exact .refl

theorem releaseLate_keeps (job : ℕ) (late : Bool) (s : State) :
    Keeps [.rel] s (releaseLate job late s) := by
  unfold releaseLate
  dsimp only
  refine .set_rel ?_ _
  exact .refl

theorem raiseEv_keeps (page i off : ℕ) (e : ErrEvent) (s : State) :
    Keeps [.out, .regs, .rel, .sys] s (raiseEv page i off e s) := by
  unfold raiseEv
  dsimp only
  refine .ite (fun _ => ?_) (fun _ => ?_)
  · refine .step ?_ (raise_keeps ..)
    exact .refl
  · refine .step ?_ (report_keeps ..)
    refine .step ?_ (raise_keeps ..)
    exact .refl

theorem bump_keeps (page set i n : ℕ) (s : State) :
    Keeps [.cnt] s (bump page set i n s) := by
  unfold bump
  dsimp only
  refine .ite (fun _ => ?_) (fun _ => ?_)
  · refine .set_cnt ?_ _
    exact .refl
  · exact .refl

theorem addAct_keeps (job cls n : ℕ) (s : State) :
    Keeps [.act] s (addAct job cls n s) := by
  unfold addAct
  refine .set_act ?_ _
  exact .refl

theorem forJob_keeps {ps : List Part} {s0 s : State} {j : Nat} {f : State → State} (h : Keeps ps s0 s)
    (hf : ∀ u, Keeps (.actJob :: ps) s0 u → Keeps (.actJob :: ps) s0 (f u)) : Keeps ps s0 (forJob j f s) := by
  have k := hf _ ((h.mono (List.subset_cons_self ..)).set_actJob j (.head _))
  refine ⟨fun p hp => ?_, fun i => k.2 i⟩
  by_cases e : p = .actJob
  · subst e; exact h.1 _ hp
  · have := k.1 p (by simp [e, hp])
    cases p <;> first | exact this | exact absurd rfl e

theorem setHbm_keeps (n : ℕ) (h : Hbm) (s : State) :
    Keeps [.hbm] s (setHbm n h s) := by
  unfold setHbm
  refine .set_hbm ?_ _
  exact .refl

theorem setEng_keeps (e : ℕ) (v : Eng) (s : State) :
    Keeps [.eng] s (setEng e v s) := by
  unfold setEng
  refine .set_eng ?_ _
  exact .refl

theorem putTask_keeps (t : Task) (s : State) :
    Keeps [.tasks] s (putTask t s) := by
  unfold putTask
  refine .set_tasks ?_ _
  exact .refl

theorem dropTask_keeps (id : ℕ) (s : State) :
    Keeps [.tasks] s (dropTask id s) := by
  unfold dropTask
  refine .set_tasks ?_ _
  exact .refl

theorem setQueue_keeps (q : ℕ) (v : Queue) (s : State) :
    Keeps [.queues] s (setQueue q v s) := by
  unfold setQueue
  refine .set_queues ?_ _
  exact .refl

theorem setPool_keeps (p : ℕ) (v : Pool) (s : State) :
    Keeps [.pools] s (setPool p v s) := by
  unfold setPool
  refine .set_pools ?_ _
  exact .refl

theorem setLdl_keeps (n : ℕ) (v : Ldl) (s : State) :
    Keeps [.ldl] s (setLdl n v s) := by
  unfold setLdl
  refine .set_ldl ?_ _
  exact .refl

theorem setSlot_keeps (n : ℕ) (v : JobSlot) (s : State) :
    Keeps [.tck] s (setSlot n v s) := by
  unfold setSlot
  dsimp only
  refine .set_tck ?_ _
  exact .refl

theorem draw_keeps (s : State) :
    Keeps [.free] s (draw s).2 := by
  unfold draw
  dsimp only
  refine .set_free ?_ _
  exact .refl

theorem raiseFree_keeps (page i off : ℕ) (e : ErrEvent) (s : State) :
    Keeps [.out, .regs, .rel, .sys, .free] s (raiseFree page i off e s) := by
  unfold raiseFree
  dsimp only
  refine .step ?_ (raiseEv_keeps ..)
  refine .step ?_ (draw_keeps ..)
  exact .refl

/-! ### Machine/Memory.lean -/

theorem hbmMove_keeps (cls line : ℕ) (write : Bool) (n : ℕ) (s : State) :
    Keeps [.cnt, .hbm, .act] s (hbmMove cls line write n s) := by
  unfold hbmMove
  dsimp only
  refine .step ?_ (addAct_keeps ..)
  refine .step ?_ (bump_keeps ..)
  refine .ite (fun _ => ?_) (fun _ => ?_)
  · exact .refl
  · refine .step ?_ (setHbm_keeps ..)
    exact .refl

theorem eccCorrect_keeps (line : ℕ) (s : State) :
    Keeps [.out, .regs, .cnt, .hbm, .rel, .sys, .free] s (eccCorrect line s) := by
  unfold eccCorrect
  dsimp only
  refine .ite (fun _ => ?_) (fun _ => ?_)
  · exact .refl
  · refine .step ?_ (raiseFree_keeps ..)
    refine .step ?_ (bump_keeps ..)
    refine .step ?_ (setReg_keeps ..)
    refine .step ?_ (setHbm_keeps ..)
    exact .refl

theorem hbmFetch_keeps (cls line n : ℕ) (s : State) :
    Keeps [.out, .regs, .cnt, .hbm, .rel, .act, .sys, .free] s (hbmFetch cls line n s) := by
  unfold hbmFetch
  refine .step ?_ (eccCorrect_keeps ..)
  refine .step ?_ (hbmMove_keeps ..)
  exact .refl

theorem pruneCw_keeps (s : State) :
    Keeps [.cw] s (pruneCw s) := by
  unfold pruneCw
  refine .set_cw ?_ _
  exact .refl

theorem wordFixed_keeps (n x1 : ℕ) (s : State) :
    Keeps [.out, .regs, .cnt, .cw, .rel, .sys, .free] s (wordFixed n x1 s) := by
  unfold wordFixed
  dsimp only
  refine .step ?_ (raiseFree_keeps ..)
  refine .step ?_ (bump_keeps ..)
  refine .step ?_ (setReg_keeps ..)
  refine .set_cw ?_ _
  exact .refl

theorem wordLost_keeps (n x1 : ℕ) (s : State) :
    Keeps [.out, .regs, .cnt, .poison, .cw, .rel, .sys, .free] s (wordLost n x1 s) := by
  unfold wordLost
  dsimp only
  refine .step ?_ (raiseFree_keeps ..)
  refine .step ?_ (bump_keeps ..)
  refine .step ?_ (setReg_keeps ..)
  refine .mk rfl ?_ rfl (fun p hp => by cases p <;> first | with_reducible rfl | exact absurd (by decide) hp)
  exact .refl

theorem cwCorrect_keeps (line x1 n : ℕ) (s : State) :
    Keeps [.out, .regs, .cnt, .cw, .rel, .sys, .free] s (cwCorrect line x1 n s) := by
  unfold cwCorrect
  refine .ite (fun _ => ?_) (fun _ => ?_)
  · exact .refl
  · refine .foldl ?_ (fun _ _ _ => ?_)
    · exact .refl
    · refine .step ?_ (wordFixed_keeps ..)
      assumption

theorem cwPoison_keeps (line : ℕ) (s : State) :
    Keeps [.out, .regs, .cnt, .poison, .cw, .rel, .sys, .free] s (cwPoison line s) := by
  unfold cwPoison
  refine .ite (fun _ => ?_) (fun _ => ?_)
  · exact .refl
  · refine .foldl ?_ (fun _ _ _ => ?_)
    · exact .refl
    · refine .step ?_ (wordLost_keeps ..)
      assumption

theorem cacheTouch_keeps (cls line : ℕ) (write : Bool) (n : ℕ) (s : State) :
    Keeps [.out, .regs, .cnt, .crm, .hbm, .cw, .rel, .act, .sys, .free] s (cacheTouch cls line write n s) := by
  unfold cacheTouch
  dsimp only
  refine .ite (fun _ => ?_) (fun _ => ?_)
  · refine .ite (fun _ => ?_) (fun _ => ?_)
    · refine .step ?_ (addAct_keeps ..)
      refine .ite (fun _ => ?_) (fun _ => ?_)
      · refine .step ?_ (hbmMove_keeps ..)
        exact .refl
      · exact .refl
    · refine .step ?_ (hbmFetch_keeps ..)
      refine .step ?_ (addAct_keeps ..)
      refine .ite (fun _ => ?_) (fun _ => ?_)
      · refine .step ?_ (hbmMove_keeps ..)
        exact .refl
      · exact .refl
  · split
    · refine .ite (fun _ => ?_) (fun _ => ?_)
      · refine .set_crm ?_ _
        refine .step ?_ (bump_keeps ..)
        refine .step ?_ (addAct_keeps ..)
        refine .ite (fun _ => ?_) (fun _ => ?_)
        · refine .step ?_ (hbmMove_keeps ..)
          exact .refl
        · exact .refl
      · refine .ite (fun _ => ?_) (fun _ => ?_)
        · refine .set_crm ?_ _
          refine .step ?_ (bump_keeps ..)
          refine .step ?_ (addAct_keeps ..)
          refine .ite (fun _ => ?_) (fun _ => ?_)
          · refine .step ?_ (hbmMove_keeps ..)
            exact .refl
          · exact .refl
        · refine .ite (fun _ => ?_) (fun _ => ?_)
          · refine .step ?_ (pruneCw_keeps ..)
            refine .set_crm ?_ _
            refine .step ?_ (bump_keeps ..)
            refine .step ?_ (bump_keeps ..)
            refine .step ?_ (addAct_keeps ..)
            refine .ite (fun _ => ?_) (fun _ => ?_)
            · refine .step ?_ (hbmMove_keeps ..)
              exact .refl
            · exact .refl
          · refine .step ?_ (bump_keeps ..)
            refine .step ?_ (addAct_keeps ..)
            refine .ite (fun _ => ?_) (fun _ => ?_)
            · refine .step ?_ (hbmMove_keeps ..)
              exact .refl
            · exact .refl
    · refine .ite (fun _ => ?_) (fun _ => ?_)
      · refine .step ?_ (pruneCw_keeps ..)
        refine .set_crm ?_ _
        refine .ite (fun _ => ?_) (fun _ => ?_)
        · refine .step ?_ (bump_keeps ..)
          refine .ite (fun _ => ?_) (fun _ => ?_)
          · refine .step ?_ (bump_keeps ..)
            refine .step ?_ (bump_keeps ..)
            refine .ite (fun _ => ?_) (fun _ => ?_)
            · refine .step ?_ (bump_keeps ..)
              refine .step ?_ (addAct_keeps ..)
              refine .ite (fun _ => ?_) (fun _ => ?_)
              · refine .step ?_ (hbmMove_keeps ..)
                exact .refl
              · exact .refl
            · refine .step ?_ (hbmFetch_keeps ..)
              refine .step ?_ (bump_keeps ..)
              refine .step ?_ (addAct_keeps ..)
              refine .ite (fun _ => ?_) (fun _ => ?_)
              · refine .step ?_ (hbmMove_keeps ..)
                exact .refl
              · exact .refl
          · refine .step ?_ (bump_keeps ..)
            refine .ite (fun _ => ?_) (fun _ => ?_)
            · refine .step ?_ (bump_keeps ..)
              refine .step ?_ (addAct_keeps ..)
              refine .ite (fun _ => ?_) (fun _ => ?_)
              · refine .step ?_ (hbmMove_keeps ..)
                exact .refl
              · exact .refl
            · refine .step ?_ (hbmFetch_keeps ..)
              refine .step ?_ (bump_keeps ..)
              refine .step ?_ (addAct_keeps ..)
              refine .ite (fun _ => ?_) (fun _ => ?_)
              · refine .step ?_ (hbmMove_keeps ..)
                exact .refl
              · exact .refl
        · refine .ite (fun _ => ?_) (fun _ => ?_)
          · refine .step ?_ (bump_keeps ..)
            refine .step ?_ (bump_keeps ..)
            refine .ite (fun _ => ?_) (fun _ => ?_)
            · refine .step ?_ (bump_keeps ..)
              refine .step ?_ (addAct_keeps ..)
              refine .ite (fun _ => ?_) (fun _ => ?_)
              · refine .step ?_ (hbmMove_keeps ..)
                exact .refl
              · exact .refl
            · refine .step ?_ (hbmFetch_keeps ..)
              refine .step ?_ (bump_keeps ..)
              refine .step ?_ (addAct_keeps ..)
              refine .ite (fun _ => ?_) (fun _ => ?_)
              · refine .step ?_ (hbmMove_keeps ..)
                exact .refl
              · exact .refl
          · refine .step ?_ (bump_keeps ..)
            refine .ite (fun _ => ?_) (fun _ => ?_)
            · refine .step ?_ (bump_keeps ..)
              refine .step ?_ (addAct_keeps ..)
              refine .ite (fun _ => ?_) (fun _ => ?_)
              · refine .step ?_ (hbmMove_keeps ..)
                exact .refl
              · exact .refl
            · refine .step ?_ (hbmFetch_keeps ..)
              refine .step ?_ (bump_keeps ..)
              refine .step ?_ (addAct_keeps ..)
              refine .ite (fun _ => ?_) (fun _ => ?_)
              · refine .step ?_ (hbmMove_keeps ..)
                exact .refl
              · exact .refl
      · refine .ite (fun _ => ?_) (fun _ => ?_)
        · refine .step ?_ (bump_keeps ..)
          refine .step ?_ (addAct_keeps ..)
          refine .ite (fun _ => ?_) (fun _ => ?_)
          · refine .step ?_ (hbmMove_keeps ..)
            exact .refl
          · exact .refl
        · refine .step ?_ (hbmFetch_keeps ..)
          refine .step ?_ (bump_keeps ..)
          refine .step ?_ (addAct_keeps ..)
          refine .ite (fun _ => ?_) (fun _ => ?_)
          · refine .step ?_ (hbmMove_keeps ..)
            exact .refl
          · exact .refl

theorem dropLine_keeps (line : ℕ) (s : State) :
    Keeps [.crm, .cw] s (dropLine line s) := by
  unfold dropLine
  dsimp only
  refine .ite (fun _ => ?_) (fun _ => ?_)
  · refine .step ?_ (pruneCw_keeps ..)
    refine .set_crm ?_ _
    exact .refl
  · exact .refl

theorem epochAdvance_keeps (lo hi : ℕ) (s : State) :
    Keeps [.epochs, .tasks, .ldl] s (epochAdvance lo hi s) := by
  unfold epochAdvance
  dsimp only
  split
  · refine .mk rfl ?_ rfl (fun p hp => by cases p <;> first | with_reducible rfl | exact absurd (by decide) hp)
    exact .refl
  · refine .mk rfl ?_ rfl (fun p hp => by cases p <;> first | with_reducible rfl | exact absurd (by decide) hp)
    exact .refl
  · exact .refl

theorem retireOn_keeps (lo hi : ℕ) (self : Option (ℕ × ℕ)) (s : State) :
    Keeps [.cnt, .ldl] s (retireOn lo hi self s) := by
  unfold retireOn
  dsimp only
  refine .set_ldl ?_ _
  refine .foldl ?_ (fun _ _ _ => ?_)
  · exact .refl
  · refine .foldl ?_ (fun _ _ _ => ?_)
    · assumption
    · refine .ite (fun _ => ?_) (fun _ => ?_)
      · refine .step ?_ (bump_keeps ..)
        assumption
      · assumption

theorem provCheck_keeps (p : ProvLine) (s : State) :
    Keeps [.out, .regs, .cnt, .prov, .rel, .sys, .free] s (provCheck p s) := by
  unfold provCheck
  dsimp only
  refine .ite (fun _ => ?_) (fun _ => ?_)
  · exact .refl
  · refine .foldl ?_ (fun _ _ _ => ?_)
    · refine .set_prov ?_ _
      exact .refl
    · refine .ite (fun _ => ?_) (fun _ => ?_)
      · refine .step ?_ (raiseFree_keeps ..)
        refine .step ?_ (bump_keeps ..)
        refine .step ?_ (setReg_keeps ..)
        assumption
      · refine .step ?_ (raiseFree_keeps ..)
        refine .step ?_ (bump_keeps ..)
        refine .step ?_ (setReg_keeps ..)
        assumption

theorem provReads_keeps (t : Task) (rs : List (ℕ × ℕ)) (s : State) :
    Keeps [.out, .regs, .cnt, .prov, .rel, .act, .sys, .free] s (provReads t rs s) := by
  unfold provReads
  refine .foldl ?_ (fun _ _ _ => ?_)
  · exact .refl
  · split
    · refine .step ?_ (provCheck_keeps ..)
      refine .step ?_ (bump_keeps ..)
      refine .step ?_ (addAct_keeps ..)
      assumption
    · assumption

theorem lsCorrect_keeps (k x1 n : ℕ) (s : State) :
    Keeps [.out, .regs, .cnt, .ls, .rel, .sys, .free] s (lsCorrect k x1 n s) := by
  unfold lsCorrect
  dsimp only
  split
  · exact .refl
  · refine .step ?_ (raiseFree_keeps ..)
    refine .step ?_ (setReg_keeps ..)
    refine .step ?_ (bump_keeps ..)
    refine .set_ls ?_ _
    exact .refl

theorem touchReads_keeps (cls : ℕ) (x1 : List (ℕ × ℕ)) (x2 : State) :
    Keeps [.out, .regs, .cnt, .crm, .hbm, .cw, .ls, .rel, .act, .sys, .free] x2 (touchReads cls x1 x2) := by
  induction x1 generalizing x2
  · unfold touchReads
    exact .refl
  · rename_i x rs ih
    obtain ⟨_, _⟩ := x
    unfold touchReads
    dsimp only
    refine .step ?_ (ih ..)
    split
    · refine .foldl ?_ (fun _ _ _ => ?_)
      · exact .refl
      · refine .step ?_ (cacheTouch_keeps ..)
        refine .step ?_ (cwCorrect_keeps ..)
        assumption
    · refine .foldl ?_ (fun _ _ _ => ?_)
      · exact .refl
      · refine .step ?_ (addAct_keeps ..)
        refine .step ?_ (bump_keeps ..)
        refine .step ?_ (cwCorrect_keeps ..)
        assumption
    · refine .step ?_ (lsCorrect_keeps ..)
      exact .refl
    · exact .refl

theorem landRun_keeps (self : Option (ℕ × ℕ)) (x1 : ℕ) (bs : List Byte) (s : State) :
    Keeps [.cnt, .mem, .poison, .epochs, .tasks, .ecc, .cw, .ls, .ldl] s (landRun self x1 bs s) := by
  unfold landRun
  dsimp only
  refine .step ?_ (epochAdvance_keeps ..)
  refine .step ?_ (retireOn_keeps ..)
  refine .mkm rfl ?_ (fun hm => ?_) (fun p hp => by cases p <;> first | with_reducible rfl | exact absurd (by decide) hp)
  · exact .refl
  · exact memStore_wf hm

theorem writeRun_keeps (cls : ℕ) (self : Option (ℕ × ℕ)) (x2 : ℕ) (bs : List Byte) (s : State) :
    Keeps [.out, .regs, .cnt, .mem, .poison, .epochs, .tasks, .crm, .hbm, .ecc, .cw, .ls, .ldl, .rel, .act, .sys, .free] s (writeRun cls self x2 bs s) := by
  unfold writeRun
  refine .ite (fun _ => ?_) (fun _ => ?_)
  · exact .refl
  · refine .step ?_ (landRun_keeps ..)
    split
    · refine .step ?_ (cacheTouch_keeps ..)
      exact .refl
    · refine .step ?_ (addAct_keeps ..)
      refine .step ?_ (bump_keeps ..)
      exact .refl
    · refine .ite (fun _ => ?_) (fun _ => ?_)
      · exact .refl
      · refine .step ?_ (bump_keeps ..)
        exact .refl
    · exact .refl

theorem adderRun_keeps (x0 : ℕ) (bs : List Byte) (s : State) :
    Keeps [.out, .regs, .cnt, .mem, .poison, .epochs, .tasks, .crm, .hbm, .ecc, .cw, .ls, .ldl, .rel, .act, .sys, .free] s (adderRun x0 bs s) := by
  unfold adderRun
  refine .ite (fun _ => ?_) (fun _ => ?_)
  · exact .refl
  · refine .step ?_ (landRun_keeps ..)
    split
    · refine .step ?_ (hbmMove_keeps ..)
      refine .step ?_ (hbmFetch_keeps ..)
      refine .step ?_ (dropLine_keeps ..)
      exact .refl
    · refine .step ?_ (addAct_keeps ..)
      refine .step ?_ (bump_keeps ..)
      exact .refl
    · exact .refl

theorem provRun_keeps (t : Task) (x1 : ℕ) (bs : List Byte) (s : State) :
    Keeps [.cnt, .prov, .free] s (provRun t x1 bs s) := by
  unfold provRun
  dsimp only
  refine .ite (fun _ => ?_) (fun _ => ?_)
  · refine .set_prov ?_ _
    exact .refl
  · refine .step ?_ (bump_keeps ..)
    refine .set_prov ?_ _
    refine .step ?_ (draw_keeps ..)
    exact .refl

theorem writeRuns_keeps (cls : ℕ) (t : Option Task) (self : Option (ℕ × ℕ)) (ws : List (ℕ × List Byte)) (s : State) :
    Keeps [.out, .regs, .cnt, .mem, .poison, .epochs, .tasks, .prov, .crm, .hbm, .ecc, .cw, .ls, .ldl, .rel, .act, .sys, .free] s (writeRuns cls t self ws s) := by
  unfold writeRuns
  refine .foldl ?_ (fun _ _ _ => ?_)
  · exact .refl
  · split
    · refine .ite (fun _ => ?_) (fun _ => ?_)
      · refine .step ?_ (provRun_keeps ..)
        refine .step ?_ (addAct_keeps ..)
        assumption
      · refine .step ?_ (writeRun_keeps ..)
        assumption
    · refine .step ?_ (writeRun_keeps ..)
      assumption

theorem wrBytes_keeps (cls x1 : ℕ) (bs : List Byte) (s : State) :
    Keeps [.out, .regs, .cnt, .mem, .poison, .epochs, .tasks, .prov, .crm, .hbm, .ecc, .cw, .ls, .ldl, .rel, .act, .sys, .free] s (wrBytes cls x1 bs s) := by
  unfold wrBytes
  refine .step ?_ (writeRuns_keeps ..)
  exact .refl

theorem adderWrite_keeps (x0 : ℕ) (bs : List Byte) (s : State) :
    Keeps [.out, .regs, .cnt, .mem, .poison, .epochs, .tasks, .crm, .hbm, .ecc, .cw, .ls, .ldl, .rel, .act, .sys, .free] s (adderWrite x0 bs s) := by
  unfold adderWrite
  refine .foldl ?_ (fun _ _ _ => ?_)
  · exact .refl
  · refine .step ?_ (adderRun_keeps ..)
    assumption

theorem wrWord_keeps (cls x1 : ℕ) (w : Word) (s : State) :
    Keeps [.out, .regs, .cnt, .mem, .poison, .epochs, .tasks, .prov, .crm, .hbm, .ecc, .cw, .ls, .ldl, .rel, .act, .sys, .free] s (wrWord cls x1 w s) := by
  unfold wrWord
  refine .step ?_ (wrBytes_keeps ..)
  exact .refl

theorem eccPoison_keeps (line : ℕ) (s : State) :
    Keeps [.cnt, .poison] s (eccPoison line s) := by
  unfold eccPoison
  dsimp only
  refine .ite (fun _ => ?_) (fun _ => ?_)
  · refine .step ?_ (bump_keeps ..)
    refine .set_poison ?_ _
    exact .refl
  · exact .refl

theorem poisonRead_keeps (cls x1 job status : ℕ) (s : State) :
    Keeps [.out, .regs, .cnt, .poison, .cw, .rel, .sys, .free] s (poisonRead cls x1 job status s) := by
  unfold poisonRead
  dsimp only
  split
  · refine .ite (fun _ => ?_) (fun _ => ?_)
    · refine .step ?_ (raiseEv_keeps ..)
      refine .step ?_ (cwPoison_keeps ..)
      exact .refl
    · refine .step ?_ (raiseEv_keeps ..)
      refine .step ?_ (setReg_keeps ..)
      refine .step ?_ (eccPoison_keeps ..)
      exact .refl
  · refine .step ?_ (raiseEv_keeps ..)
    refine .step ?_ (cwPoison_keeps ..)
    exact .refl
  · refine .step ?_ (raiseFree_keeps ..)
    refine .step ?_ (setReg_keeps ..)
    refine .step ?_ (bump_keeps ..)
    exact .refl
  · exact .refl

theorem provPoisonRead_keeps (cls : ℕ) (p : ProvLine) (job : ℕ) (s : State) :
    Keeps [.out, .regs, .cnt, .prov, .rel, .sys, .free] s (provPoisonRead cls p job s) := by
  unfold provPoisonRead
  dsimp only
  refine .step ?_ (raiseEv_keeps ..)
  refine .step ?_ (provCheck_keeps ..)
  exact .refl

/-! ### Machine/Access.lean -/

theorem noPage_keeps (off : ℕ) (s : State) :
    Keeps [.out, .regs, .sys] s (noPage off s) := by
  unfold noPage
  refine .step ?_ (raise_keeps ..)
  exact .refl

theorem reserved_keeps {ps : List Part} {s0 s : State} {page off : Nat} {k : State → State} (h : Keeps ps s0 s)
    (hk : ∀ t, Keeps ps s0 t → Keeps ps s0 (k t)) (hp : [.out, .regs, .sys] ⊆ ps := by decide) :
    Keeps ps s0 (reserved page off k s) := by
  unfold reserved
  exact .ite (fun _ => (hk _ h).step (raise_keeps ..) hp) (fun _ => hk _ (h.step (raise_keeps ..) hp))

theorem regGuard_keeps {ps : List Part} {s0 s : State} {who : Initiator} {page off : Nat} {v : Word}
    {k : Word → State → State} (h : Keeps ps s0 s) (hk : ∀ w t, Keeps ps s0 t → Keeps ps s0 (k w t))
    (hp : [.out, .regs, .blk, .sys] ⊆ ps := by decide) : Keeps ps s0 (regGuard who page off v k s) := by
  have sub {qs : List Part} {t u : State} (ht : Keeps ps s0 t) (k : Keeps qs t u)
      (hq : qs ⊆ [.out, .regs, .blk, .sys] := by decide) : Keeps ps s0 u := ht.step k (fun _ m => hp (hq m))
  have hr (i a : Nat) : Keeps ps s0 (raise page i a s) := sub h (raise_keeps ..)
  unfold regGuard
  split
  · exact sub h (noPage_keeps ..)
  refine .ite (fun _ => hr ..) (fun _ => .ite (fun _ => ?_) (fun _ => ?_))
  · exact .ite (fun _ => h) (fun _ => sub h (setBlk_keeps ..))
  split
  · exact hr ..
  · exact .ite (fun _ => hr ..) (fun _ => .ite (fun _ => hk _ _ h) (fun _ => reserved_keeps h (fun _ ht => hk _ _ ht)
      (fun _ m => hp (by revert m; cases ‹Part› <;> decide))))

theorem storeReg_keeps (page off : ℕ) (v : Word) (s : State) :
    Keeps [.regs] s (storeReg page off v s) := by
  unfold storeReg
  split
  · exact .refl
  · refine .step ?_ (setReg_keeps ..)
    exact .refl

theorem answer_keeps (v : Word) (s : State) :
    Keeps [.resp] s (answer v s) := by
  unfold answer
  refine .set_resp ?_ _
  exact .refl

theorem readClear_keeps (who : Initiator) (page off : ℕ) (s : State) :
    Keeps [.resp, .out, .regs, .sys] s (readClear who page off s) := by
  unfold readClear
  split
  · refine .step ?_ (answer_keeps ..)
    refine .step ?_ (noPage_keeps ..)
    exact .refl
  · refine .ite (fun _ => ?_) (fun _ => ?_)
    · refine .step ?_ (answer_keeps ..)
      refine .step ?_ (raise_keeps ..)
      exact .refl
    · refine .ite (fun _ => ?_) (fun _ => ?_)
      · refine .step ?_ (answer_keeps ..)
        exact .refl
      · refine .step ?_ (setReg_keeps ..)
        refine .step ?_ (answer_keeps ..)
        exact .refl

/-! ### Machine/Queues.lean -/

theorem qErr_keeps (q i : ℕ) (s : State) :
    Keeps [.regs] s (qErr q i s) := by
  unfold qErr
  refine .step ?_ (setReg_keeps ..)
  exact .refl

theorem qDeliver_keeps (q : ℕ) (s : State) :
    Keeps [.out, .sys] s (qDeliver q s) := by
  unfold qDeliver
  dsimp only
  refine .step ?_ (deliver_keeps ..)
  exact .refl

theorem dropHeld_keeps (q : ℕ) (s : State) :
    Keeps [.regs, .queues] s (dropHeld q s) := by
  unfold dropHeld
  dsimp only
  refine .ite (fun _ => ?_) (fun _ => ?_)
  · exact .refl
  · refine .step ?_ (qErr_keeps ..)
    refine .step ?_ (setQueue_keeps ..)
    exact .refl

theorem ptrCheck_keeps (q : ℕ) (s : State) :
    Keeps [.out, .regs, .queues, .rel, .sys] s (ptrCheck q s) := by
  unfold ptrCheck
  dsimp only
  refine .ite (fun _ => ?_) (fun _ => ?_)
  · exact .refl
  · refine .ite (fun _ => ?_) (fun _ => ?_)
    · refine .step ?_ (qDeliver_keeps ..)
      refine .ite (fun _ => ?_) (fun _ => ?_)
      · refine .step ?_ (report_keeps ..)
        refine .step ?_ (qErr_keeps ..)
        refine .step ?_ (setQueue_keeps ..)
        exact .refl
      · refine .step ?_ (raiseEv_keeps ..)
        refine .step ?_ (qErr_keeps ..)
        refine .step ?_ (setQueue_keeps ..)
        exact .refl
    · refine .ite (fun _ => ?_) (fun _ => ?_)
      · refine .step ?_ (report_keeps ..)
        refine .step ?_ (qErr_keeps ..)
        refine .step ?_ (setQueue_keeps ..)
        exact .refl
      · refine .step ?_ (raiseEv_keeps ..)
        refine .step ?_ (qErr_keeps ..)
        refine .step ?_ (setQueue_keeps ..)
        exact .refl

theorem qPut_keeps (q : ℕ) (v : Word) (s : State) :
    Keeps [.out, .regs, .queues, .sys] s (qPut q v s) := by
  unfold qPut
  dsimp only
  refine .ite (fun _ => ?_) (fun _ => ?_)
  · refine .step ?_ (qDeliver_keeps ..)
    refine .step ?_ (setReg_keeps ..)
    refine .step ?_ (setQueue_keeps ..)
    exact .refl
  · refine .step ?_ (setQueue_keeps ..)
    exact .refl

theorem qTake_keeps (q : ℕ) (s : State) :
    Keeps [.queues] s (qTake q s).2 := by
  unfold qTake
  dsimp only
  split
  · dsimp only
    exact .refl
  · dsimp only
    refine .step ?_ (setQueue_keeps ..)
    exact .refl

theorem pushEffect_keeps (who : Initiator) (q : ℕ) (v : Word) (s : State) :
    Keeps [.out, .regs, .queues, .rel, .sys] s (pushEffect who q v s) := by
  unfold pushEffect
  dsimp only
  refine .ite (fun _ => ?_) (fun _ => ?_)
  · refine .step ?_ (qErr_keeps ..)
    refine .step ?_ (ptrCheck_keeps ..)
    exact .refl
  · refine .ite (fun _ => ?_) (fun _ => ?_)
    · refine .step ?_ (setQueue_keeps ..)
      refine .step ?_ (ptrCheck_keeps ..)
      exact .refl
    · refine .step ?_ (qPut_keeps ..)
      refine .step ?_ (ptrCheck_keeps ..)
      exact .refl

theorem execQPush_keeps (who : Initiator) (q : Fin 1280) (v : Word) (s : State) :
    ResKeeps [.out, .regs, .blk, .queues, .rel, .sys] s (execQPush who q v s) := by
  unfold execQPush
  change Keeps _ _ _
  refine regGuard_keeps ?_ (fun _ _ _ => ?_)
  · exact .refl
  · refine .step ?_ (pushEffect_keeps ..)
    assumption

theorem heldEffect_keeps (q : ℕ) (s : State) :
    Keeps [.out, .regs, .queues, .sys] s (heldEffect q s) := by
  unfold heldEffect
  dsimp only
  split
  · exact .refl
  · refine .ite (fun _ => ?_) (fun _ => ?_)
    · exact .refl
    · refine .step ?_ (qPut_keeps ..)
      refine .step ?_ (setQueue_keeps ..)
      exact .refl

theorem execHeldPushComplete_keeps (q : Fin 1280) (s : State) :
    ResKeeps [.out, .regs, .queues, .rel, .sys] s (execHeldPushComplete q s) := by
  unfold execHeldPushComplete
  change Keeps _ _ _
  refine .step ?_ (heldEffect_keeps ..)
  refine .step ?_ (ptrCheck_keeps ..)
  exact .refl

theorem pushNbEffect_keeps (q : ℕ) (v : Word) (s : State) :
    Keeps [.out, .regs, .queues, .rel, .sys] s (pushNbEffect q v s) := by
  unfold pushNbEffect
  dsimp only
  refine .ite (fun _ => ?_) (fun _ => ?_)
  · refine .step ?_ (qErr_keeps ..)
    refine .step ?_ (ptrCheck_keeps ..)
    exact .refl
  · refine .ite (fun _ => ?_) (fun _ => ?_)
    · refine .step ?_ (qErr_keeps ..)
      refine .step ?_ (ptrCheck_keeps ..)
      exact .refl
    · refine .step ?_ (qPut_keeps ..)
      refine .step ?_ (ptrCheck_keeps ..)
      exact .refl

theorem execQPushNb_keeps (who : Initiator) (q : Fin 1280) (v : Word) (s : State) :
    ResKeeps [.out, .regs, .blk, .queues, .rel, .sys] s (execQPushNb who q v s) := by
  unfold execQPushNb
  change Keeps _ _ _
  refine regGuard_keeps ?_ (fun _ _ _ => ?_)
  · exact .refl
  · refine .step ?_ (pushNbEffect_keeps ..)
    assumption

theorem popEffect_keeps (q : ℕ) (s : State) :
    Keeps [.resp, .out, .regs, .queues, .rel, .sys] s (popEffect q s) := by
  unfold popEffect
  dsimp only
  refine .ite (fun _ => ?_) (fun _ => ?_)
  · refine .step ?_ (answer_keeps ..)
    exact .refl
  · split
    · refine .step ?_ (answer_keeps ..)
      refine .step ?_ (qTake_keeps ..)
      refine .step ?_ (ptrCheck_keeps ..)
      exact .refl
    · refine .step ?_ (answer_keeps ..)
      refine .step ?_ (qTake_keeps ..)
      refine .step ?_ (ptrCheck_keeps ..)
      exact .refl

theorem execQPop_keeps (who : Initiator) (q : Fin 1280) (s : State) :
    ResKeeps [.resp, .out, .regs, .queues, .rel, .sys] s (execQPop who q s) := by
  unfold execQPop
  dsimp only
  change Keeps _ _ _
  refine .ite (fun _ => ?_) (fun _ => ?_)
  · refine .step ?_ (answer_keeps ..)
    exact .refl
  · refine .ite (fun _ => ?_) (fun _ => ?_)
    · refine .step ?_ (answer_keeps ..)
      exact .refl
    · refine .step ?_ (popEffect_keeps ..)
      exact .refl

theorem flushEffect_keeps (q : ℕ) (s0 : State) :
    Keeps [.out, .regs, .queues, .rel, .sys] s0 (flushEffect q s0) := by
  unfold flushEffect
  dsimp only
  refine .ite (fun _ => ?_) (fun _ => ?_)
  · refine .step ?_ (qErr_keeps ..)
    refine .step ?_ (ptrCheck_keeps ..)
    exact .refl
  · refine .step ?_ (dropHeld_keeps ..)
    refine .step ?_ (setQueue_keeps ..)
    refine .step ?_ (ptrCheck_keeps ..)
    exact .refl

theorem laceCfgEffect_keeps (lace : ℕ) (v : Word) (s0 : State) :
    Keeps [.out, .regs, .queues, .rel, .sys] s0 (laceCfgEffect lace v s0) := by
  unfold laceCfgEffect
  dsimp only
  refine .ite (fun _ => ?_) (fun _ => ?_)
  · refine .step ?_ (raise_keeps ..)
    refine .step ?_ (ptrCheck_keeps ..)
    exact .refl
  · refine .ite (fun _ => ?_) (fun _ => ?_)
    · refine .step ?_ (flushEffect_keeps ..)
      refine .ite (fun _ => ?_) (fun _ => ?_)
      · refine .step ?_ (dropHeld_keeps ..)
        refine .ite (fun _ => ?_) (fun _ => ?_)
        · refine .step ?_ (setQueue_keeps ..)
          refine .step ?_ (setReg_keeps ..)
          refine .step ?_ (ptrCheck_keeps ..)
          exact .refl
        · refine .step ?_ (setReg_keeps ..)
          refine .step ?_ (ptrCheck_keeps ..)
          exact .refl
      · refine .ite (fun _ => ?_) (fun _ => ?_)
        · refine .step ?_ (setQueue_keeps ..)
          refine .step ?_ (setReg_keeps ..)
          refine .step ?_ (ptrCheck_keeps ..)
          exact .refl
        · refine .step ?_ (setReg_keeps ..)
          refine .step ?_ (ptrCheck_keeps ..)
          exact .refl
    · refine .ite (fun _ => ?_) (fun _ => ?_)
      · refine .step ?_ (dropHeld_keeps ..)
        refine .ite (fun _ => ?_) (fun _ => ?_)
        · refine .step ?_ (setQueue_keeps ..)
          refine .step ?_ (setReg_keeps ..)
          refine .step ?_ (ptrCheck_keeps ..)
          exact .refl
        · refine .step ?_ (setReg_keeps ..)
          refine .step ?_ (ptrCheck_keeps ..)
          exact .refl
      · refine .ite (fun _ => ?_) (fun _ => ?_)
        · refine .step ?_ (setQueue_keeps ..)
          refine .step ?_ (setReg_keeps ..)
          refine .step ?_ (ptrCheck_keeps ..)
          exact .refl
        · refine .step ?_ (setReg_keeps ..)
          refine .step ?_ (ptrCheck_keeps ..)
          exact .refl

theorem execQCfgWrite_keeps (who : Initiator) (lace : Fin 1024) (v : Word) (s : State) :
    ResKeeps [.out, .regs, .blk, .queues, .rel, .sys] s (execQCfgWrite who lace v s) := by
  unfold execQCfgWrite
  change Keeps _ _ _
  refine regGuard_keeps ?_ (fun _ _ _ => ?_)
  · exact .refl
  · refine .step ?_ (laceCfgEffect_keeps ..)
    assumption

theorem execQueueFlush_keeps (who : Initiator) (q : Fin 1280) (s : State) :
    ResKeeps [.out, .regs, .blk, .queues, .rel, .sys] s (execQueueFlush who q s) := by
  unfold execQueueFlush
  change Keeps _ _ _
  refine regGuard_keeps ?_ (fun _ _ _ => ?_)
  · exact .refl
  · refine .step ?_ (flushEffect_keeps ..)
    assumption

theorem allocBuf_keeps (p holder : ℕ) (s : State) :
    Keeps [.pools, .free] s (allocBuf p holder s).2 := by
  unfold allocBuf
  dsimp only
  split
  · dsimp only
    exact .refl
  · split
    · dsimp only
      exact .refl
    · dsimp only
      refine .step ?_ (setPool_keeps ..)
      refine .step ?_ (draw_keeps ..)
      exact .refl

theorem freeBuf_keeps (e : ℕ) (s : State) :
    Keeps [.pools] s (freeBuf e s) := by
  unfold freeBuf
  dsimp only
  refine .step ?_ (setPool_keeps ..)
  exact .refl

theorem releaseEye_keeps (e off : ℕ) (s : State) :
    Keeps [.out, .regs, .pools, .sys] s (releaseEye e off s) := by
  unfold releaseEye
  refine .ite (fun _ => ?_) (fun _ => ?_)
  · refine .step ?_ (freeBuf_keeps ..)
    exact .refl
  · refine .step ?_ (raise_keeps ..)
    exact .refl

theorem poolCfgEffect_keeps (p : ℕ) (v : Word) (s : State) :
    Keeps [.out, .regs, .pools, .sys] s (poolCfgEffect p v s) := by
  unfold poolCfgEffect
  dsimp only
  refine .ite (fun _ => ?_) (fun _ => ?_)
  · refine .ite (fun _ => ?_) (fun _ => ?_)
    · refine .step ?_ (raise_keeps ..)
      exact .refl
    · refine .ite (fun _ => ?_) (fun _ => ?_)
      · exact .refl
      · refine .ite (fun _ => ?_) (fun _ => ?_)
        · refine .step ?_ (setReg_keeps ..)
          exact .refl
        · refine .step ?_ (raise_keeps ..)
          exact .refl
  · refine .ite (fun _ => ?_) (fun _ => ?_)
    · refine .ite (fun _ => ?_) (fun _ => ?_)
      · refine .step ?_ (setPool_keeps ..)
        refine .step ?_ (setReg_keeps ..)
        exact .refl
      · refine .step ?_ (raise_keeps ..)
        exact .refl
    · refine .step ?_ (setReg_keeps ..)
      exact .refl

theorem execPoolCfgWrite_keeps (who : Initiator) (pool : Fin 64) (v : Word) (s : State) :
    ResKeeps [.out, .regs, .blk, .pools, .sys] s (execPoolCfgWrite who pool v s) := by
  unfold execPoolCfgWrite
  change Keeps _ _ _
  refine regGuard_keeps ?_ (fun _ _ _ => ?_)
  · exact .refl
  · refine .step ?_ (poolCfgEffect_keeps ..)
    assumption

theorem poolBaseEffect_keeps (p : ℕ) (v : Word) (s : State) :
    Keeps [.out, .regs, .sys] s (poolBaseEffect p v s) := by
  unfold poolBaseEffect
  refine .ite (fun _ => ?_) (fun _ => ?_)
  · refine .step ?_ (raise_keeps ..)
    exact .refl
  · refine .step ?_ (setReg_keeps ..)
    exact .refl

theorem allocEffect_keeps (p : ℕ) (s : State) :
    Keeps [.resp, .pools, .free] s (allocEffect p s) := by
  unfold allocEffect
  dsimp only
  refine .ite (fun _ => ?_) (fun _ => ?_)
  · split
    · refine .step ?_ (answer_keeps ..)
      refine .step ?_ (allocBuf_keeps ..)
      exact .refl
    · refine .step ?_ (answer_keeps ..)
      refine .step ?_ (allocBuf_keeps ..)
      exact .refl
  · refine .step ?_ (answer_keeps ..)
    exact .refl

theorem execPoolAlloc_keeps (_who : Initiator) (pool : Fin 64) (s : State) :
    ResKeeps [.resp, .pools, .free] s (execPoolAlloc _who pool s) := by
  unfold execPoolAlloc
  change Keeps _ _ _
  refine .ite (fun _ => ?_) (fun _ => ?_)
  · refine .step ?_ (answer_keeps ..)
    exact .refl
  · refine .step ?_ (allocEffect_keeps ..)
    exact .refl

theorem releaseEffect_keeps (p : ℕ) (v : Word) (s : State) :
    Keeps [.out, .regs, .pools, .sys] s (releaseEffect p v s) := by
  unfold releaseEffect
  dsimp only
  refine .ite (fun _ => ?_) (fun _ => ?_)
  · refine .step ?_ (releaseEye_keeps ..)
    exact .refl
  · refine .step ?_ (raise_keeps ..)
    exact .refl

theorem execPoolRelease_keeps (who : Initiator) (pool : Fin 64) (v : Word) (s : State) :
    ResKeeps [.out, .regs, .blk, .pools, .sys] s (execPoolRelease who pool v s) := by
  unfold execPoolRelease
  change Keeps _ _ _
  refine regGuard_keeps ?_ (fun _ _ _ => ?_)
  · exact .refl
  · refine .step ?_ (releaseEffect_keeps ..)
    assumption

/-! ### Machine/Units.lean -/

theorem setArr_keeps (n : ℕ) (x1 : Arr) (s : State) :
    Keeps [.arr] s (setArr n x1 s) := by
  unfold setArr
  refine .set_arr ?_ _
  exact .refl

theorem setUnit_keeps (n q : ℕ) (u : Unit) (s : State) :
    Keeps [.arr] s (setUnit n q u s) := by
  unfold setUnit
  dsimp only
  refine .step ?_ (setArr_keeps ..)
  exact .refl

theorem dummyRows_keeps (n q cycles : ℕ) (s : State) :
    Keeps [.cnt, .act] s (dummyRows n q cycles s) := by
  unfold dummyRows
  refine .step ?_ (bump_keeps ..)
  refine .step ?_ (addAct_keeps ..)
  exact .refl

theorem loadTile_keeps (n q : ℕ) (bank : Bool) (t : Task) (u : ℕ) (s : State) :
    Keeps [.cnt, .arr] s (loadTile n q bank t u s) := by
  unfold loadTile
  dsimp only
  refine .step ?_ (bump_keeps ..)
  refine .step ?_ (setArr_keeps ..)
  exact .refl

theorem swapIn_keeps (n q : ℕ) (t : Option Task) (s : State) :
    Keeps [.arr] s (swapIn n q t s) := by
  unfold swapIn
  dsimp only
  refine .step ?_ (setUnit_keeps ..)
  exact .refl

theorem tileIn_keeps (t : Task) (s : State) :
    OptKeeps [.arr] s (tileIn t s) := by
  unfold tileIn
  dsimp only
  split
  · change Keeps _ _ _
    exact .refl
  · split
    · change Keeps _ _ _
      refine .step ?_ (swapIn_keeps ..)
      exact .refl
    · trivial

theorem passOver_keeps (n q : ℕ) (s : State) :
    Keeps [.arr] s (passOver n q s) := by
  unfold passOver
  dsimp only
  refine .step ?_ (setUnit_keeps ..)
  exact .refl

theorem chargeRows_keeps (t : Task) (stop k cycles : ℕ) (s : State) :
    Keeps [.cnt, .arr, .act] s (chargeRows t stop k cycles s) := by
  unfold chargeRows
  dsimp only
  refine .ite (fun _ => ?_) (fun _ => ?_)
  · exact .refl
  · refine .ite (fun _ => ?_) (fun _ => ?_)
    · refine .step ?_ (bump_keeps ..)
      refine .step ?_ (setUnit_keeps ..)
      refine .ite (fun _ => ?_) (fun _ => ?_)
      · refine .step ?_ (bump_keeps ..)
        refine .step ?_ (addAct_keeps ..)
        exact .refl
      · refine .step ?_ (addAct_keeps ..)
        exact .refl
    · refine .step ?_ (setUnit_keeps ..)
      refine .ite (fun _ => ?_) (fun _ => ?_)
      · refine .step ?_ (bump_keeps ..)
        refine .step ?_ (addAct_keeps ..)
        exact .refl
      · refine .step ?_ (addAct_keeps ..)
        exact .refl

/-! ### Machine/Engine.lean -/

theorem markAlive_keeps (job : ℕ) (s : State) :
    Keeps [.tck] s (markAlive job s) := by
  unfold markAlive
  dsimp only
  refine .set_tck ?_ _
  exact .refl

theorem leaveEngine_keeps (t : Task) (s : State) :
    Keeps [.eng] s (leaveEngine t s) := by
  unfold leaveEngine
  dsimp only
  refine .step ?_ (setEng_keeps ..)
  exact .refl

theorem leaveSlices_keeps (t : Task) (s : State) :
    Keeps [.eng] s (leaveSlices t s) := by
  unfold leaveSlices
  dsimp only
  refine .step ?_ (setEng_keeps ..)
  exact .refl

theorem promoteShadow_keeps (e : ℕ) (s : State) :
    Keeps [.eng] s (promoteShadow e s) := by
  unfold promoteShadow
  dsimp only
  refine .step ?_ (setEng_keeps ..)
  exact .refl

theorem directEnd_keeps (t : Task) (c : ℕ) (f : Fail) (s : State) :
    Keeps [.out, .regs, .cnt, .tasks, .ldl, .sys] s (directEnd t c f s) := by
  unfold directEnd
  dsimp only
  refine .ite (fun _ => ?_) (fun _ => ?_)
  · refine .step ?_ (intSet_keeps ..)
    refine .step ?_ (setReg_keeps ..)
    refine .step ?_ (bump_keeps ..)
    refine .step ?_ (setLdl_keeps ..)
    refine .step ?_ (dropTask_keeps ..)
    exact .refl
  · refine .step ?_ (bump_keeps ..)
    refine .step ?_ (setLdl_keeps ..)
    refine .step ?_ (dropTask_keeps ..)
    exact .refl

theorem finish_keeps (t : Task) (f : Fail) (s : State) :
    Keeps [.out, .regs, .cnt, .tasks, .eng, .ldl, .sys] s (finish t f s) := by
  unfold finish
  dsimp only
  split
  · refine .step ?_ (directEnd_keeps ..)
    refine .step ?_ (leaveEngine_keeps ..)
    refine .step ?_ (putTask_keeps ..)
    exact .refl
  · refine .ite (fun _ => ?_) (fun _ => ?_)
    · refine .step ?_ (leaveSlices_keeps ..)
      refine .step ?_ (putTask_keeps ..)
      exact .refl
    · refine .step ?_ (leaveEngine_keeps ..)
      refine .step ?_ (putTask_keeps ..)
      exact .refl

theorem busyCount_keeps (e cycles : ℕ) (s : State) :
    Keeps [.cnt] s (busyCount e cycles s) := by
  unfold busyCount
  refine .ite (fun _ => ?_) (fun _ => ?_)
  · refine .step ?_ (bump_keeps ..)
    exact .refl
  · refine .ite (fun _ => ?_) (fun _ => ?_)
    · refine .step ?_ (bump_keeps ..)
      exact .refl
    · exact .refl

theorem chargeSlice_keeps (t : Task) (stop k cycles : ℕ) (s : State) :
    Keeps [.cnt, .tck, .arr, .act] s (chargeSlice t stop k cycles s) := by
  unfold chargeSlice
  dsimp only
  refine .ite (fun _ => ?_) (fun _ => ?_)
  · refine .step ?_ (busyCount_keeps ..)
    refine .ite (fun _ => ?_) (fun _ => ?_)
    · refine .step ?_ (chargeRows_keeps ..)
      exact .refl
    · refine .step ?_ (addAct_keeps ..)
      exact .refl
  · refine .step ?_ (markAlive_keeps ..)
    refine .ite (fun _ => ?_) (fun _ => ?_)
    · refine .step ?_ (bump_keeps ..)
      refine .step ?_ (busyCount_keeps ..)
      refine .ite (fun _ => ?_) (fun _ => ?_)
      · refine .step ?_ (chargeRows_keeps ..)
        exact .refl
      · refine .step ?_ (addAct_keeps ..)
        exact .refl
    · refine .step ?_ (busyCount_keeps ..)
      refine .ite (fun _ => ?_) (fun _ => ?_)
      · refine .step ?_ (chargeRows_keeps ..)
        exact .refl
      · refine .step ?_ (addAct_keeps ..)
        exact .refl

theorem startSlice_keeps (t : Task) (x1 : Adm) (s : State) :
    Keeps [.cnt, .eng] s (startSlice t x1 s).2 := by
  unfold startSlice
  dsimp only
  refine .ite (fun _ => ?_) (fun _ => ?_)
  · refine .step ?_ (bump_keeps ..)
    refine .ite (fun _ => ?_) (fun _ => ?_)
    · refine .step ?_ (bump_keeps ..)
      refine .ite (fun _ => ?_) (fun _ => ?_)
      · refine .step ?_ (bump_keeps ..)
        refine .step ?_ (setEng_keeps ..)
        exact .refl
      · refine .step ?_ (setEng_keeps ..)
        exact .refl
    · refine .ite (fun _ => ?_) (fun _ => ?_)
      · refine .step ?_ (bump_keeps ..)
        refine .step ?_ (setEng_keeps ..)
        exact .refl
      · refine .step ?_ (setEng_keeps ..)
        exact .refl
  · refine .ite (fun _ => ?_) (fun _ => ?_)
    · refine .step ?_ (bump_keeps ..)
      refine .ite (fun _ => ?_) (fun _ => ?_)
      · refine .step ?_ (bump_keeps ..)
        refine .step ?_ (setEng_keeps ..)
        exact .refl
      · refine .step ?_ (setEng_keeps ..)
        exact .refl
    · refine .ite (fun _ => ?_) (fun _ => ?_)
      · refine .step ?_ (bump_keeps ..)
        refine .step ?_ (setEng_keeps ..)
        exact .refl
      · refine .step ?_ (setEng_keeps ..)
        exact .refl

theorem endSlice_keeps (t : Task) (s : State) :
    Keeps [.tasks, .eng] s (endSlice t s) := by
  unfold endSlice
  dsimp only
  refine .step ?_ (putTask_keeps ..)
  refine .step ?_ (setEng_keeps ..)
  exact .refl

theorem weltReset_keeps (t : Task) (w : ℕ) (p : Ptrs) (s : State) :
    Keeps [.out, .regs, .rel, .arr, .sys] s (weltReset t w p s) := by
  unfold weltReset
  dsimp only
  refine .step ?_ (raiseEv_keeps ..)
  refine .step ?_ (setUnit_keeps ..)
  exact .refl

theorem crossReset_keeps (page : ℕ) (p : Ptrs) (e : ErrEvent) (s : State) :
    Keeps [.out, .regs, .cross, .rel, .sys] s (crossReset page p e s) := by
  unfold crossReset
  dsimp only
  split
  · refine .step ?_ (raiseEv_keeps ..)
    refine .set_cross ?_ _
    exact .refl
  · refine .step ?_ (report_keeps ..)
    refine .set_cross ?_ _
    exact .refl

theorem engFault_keeps (t : Task) (s : State) :
    OptKeeps [.out, .regs, .eng, .upset, .cross, .rel, .arr, .sys, .free] s (engFault t s) := by
  unfold engFault
  dsimp only
  split
  · change Keeps _ _ _
    refine .step ?_ (raiseFree_keeps ..)
    refine .step ?_ (setEng_keeps ..)
    exact .refl
  · split
    · change Keeps _ _ _
      refine .step ?_ (weltReset_keeps ..)
      exact .refl
    · split
      · change Keeps _ _ _
        refine .step ?_ (crossReset_keeps ..)
        exact .refl
      · split
        · change Keeps _ _ _
          refine .step ?_ (raiseFree_keeps ..)
          refine .set_upset ?_ _
          exact .refl
        · trivial

theorem workDone_keeps (t : Task) (drains : Bool) (s : State) :
    Keeps [.out, .regs, .cnt, .tasks, .eng, .ldl, .sys] s (workDone t drains s) := by
  unfold workDone
  refine .ite (fun _ => ?_) (fun _ => ?_)
  · refine .ite (fun _ => ?_) (fun _ => ?_)
    · refine .step ?_ (putTask_keeps ..)
      exact .refl
    · refine .step ?_ (leaveEngine_keeps ..)
      refine .step ?_ (putTask_keeps ..)
      exact .refl
  · refine .step ?_ (finish_keeps ..)
    exact .refl

theorem sliceOver_keeps (t : Task) (total : ℕ) (drains : Bool) (s : State) :
    Keeps [.out, .regs, .cnt, .tasks, .eng, .ldl, .sys] s (sliceOver t total drains s) := by
  unfold sliceOver
  dsimp only
  refine .ite (fun _ => ?_) (fun _ => ?_)
  · refine .step ?_ (workDone_keeps ..)
    refine .step ?_ (endSlice_keeps ..)
    exact .refl
  · refine .ite (fun _ => ?_) (fun _ => ?_)
    · refine .step ?_ (finish_keeps ..)
      refine .step ?_ (endSlice_keeps ..)
      exact .refl
    · refine .step ?_ (endSlice_keeps ..)
      exact .refl

theorem runGranules_keeps {ps : List Part} {s0 : State} {step : Task → State → StepRes} {stop : Nat}
    (hs : ∀ t u, Keeps ps s0 u → StepKeeps ps s0 (step t u)) (n : Nat) (t : Task) (s : State) (h : Keeps ps s0 s) :
    GranKeeps ps s0 (runGranules step stop n t s) := by
  induction n generalizing t s with
  | zero => exact h
  | succ n ih =>
    unfold runGranules
    split
    · exact h
    have k := hs t s h
    split
    · exact h
    · rename_i e; rw [e] at k; exact k
    · rename_i e; rw [e] at k; exact ih _ _ k

theorem runSlice_keeps {ps : List Part} {s0 s : State} {id k cycles : Nat} {mine : Task → Bool} {total : Task → Nat}
    {drains : Task → Bool} {step : Task → State → StepRes} (h : Keeps ps s0 s)
    (hs : ∀ t u, Keeps (.actJob :: ps) s0 u → StepKeeps (.actJob :: ps) s0 (step t u))
    (hp : [.out, .regs, .cnt, .tasks, .eng, .tck, .upset, .cross, .ldl, .rel, .arr, .act, .sys,
        .free] ⊆ ps := by decide) : Keeps ps s0 (runSlice id k cycles mine total drains step s) := by
  unfold runSlice
  split
  · exact h
  rename_i t _
  dsimp only
  split
  · exact h
  rename_i a _ _
  refine .ite (fun _ => h) (fun _ => forJob_keeps h (fun v hv => ?_))
  have suba {qs : List Part} {t u : State} (ht : Keeps (.actJob :: ps) s0 t) (k : Keeps qs t u)
      (hq : qs ⊆ [.out, .regs, .cnt, .tasks, .eng, .tck, .upset, .cross, .ldl, .rel, .arr, .act, .sys,
          .free] := by decide) : Keeps (.actJob :: ps) s0 u :=
    ht.step k (fun _ m => .tail _ (hp (hq m)))
  have hx : Keeps (.actJob :: ps) s0 (if (getEng s t.eng).started = true then (t, v) else startSlice t a v).2 := by
    split
    · exact hv
    · exact suba hv (startSlice_keeps ..)
  generalize (if (getEng s t.eng).started = true then (t, v) else startSlice t a v) = x at hx
  have hc := suba hx (chargeSlice_keeps x.1 a.stop k cycles x.2)
  split
  · rename_i e
    have he := engFault_keeps { x.1 with run := x.1.run + cycles } (chargeSlice x.1 a.stop k cycles x.2)
    rw [e] at he
    exact suba (suba hc he) (finish_keeps ..)
  have hg := runGranules_keeps (stop := a.stop) hs k { x.1 with run := x.1.run + cycles } _ hc
  split
  · rename_i e; rw [e] at hg; exact suba hg (finish_keeps ..)
  · rename_i t1 s1 e
    rw [e] at hg
    have hp1 := suba hg (putTask_keeps t1 s1)
    refine .ite (fun _ => suba (suba hp1 (endSlice_keeps t1 _)) (leaveEngine_keeps ..)) (fun _ => ?_)
    exact .ite (fun _ => suba hp1 (sliceOver_keeps ..)) (fun _ => hp1)

theorem readSpans_keeps {ps : List Part} {s0 s : State} {t : Task} {rs : List (Nat × Nat)} {k : State → StepRes}
    (h : Keeps ps s0 s) (hk : ∀ u, Keeps ps s0 u → StepKeeps ps s0 (k u))
    (hp : [.out, .regs, .cnt, .poison, .prov, .crm, .hbm, .cw, .ls, .rel, .act, .sys,
        .free] ⊆ ps := by decide) : StepKeeps ps s0 (readSpans t rs s k) := by
  have sub {qs : List Part} {t u : State} (ht : Keeps ps s0 t) (k : Keeps qs t u)
      (hq : qs ⊆ [.out, .regs, .cnt, .poison, .prov, .crm, .hbm, .cw, .ls, .rel, .act, .sys,
          .free] := by decide) : Keeps ps s0 u := ht.step k (fun _ m => hp (hq m))
  unfold readSpans
  split
  · trivial
  · exact h
  · exact sub h (poisonRead_keeps ..)
  split
  · exact sub h (provPoisonRead_keeps ..)
  · exact hk _ (sub (sub h (touchReads_keeps ..)) (provReads_keeps ..))

theorem outBuf_keeps (t : Task) (b : Buf) (s : State) :
    Keeps [.free] s (outBuf t b s).2 := by
  unfold outBuf
  split
  · dsimp only
    refine .set_free ?_ _
    exact .refl
  · dsimp only
    exact .refl

theorem writeBuf_keeps {ps : List Part} {s0 s : State} {t : Task} {b : Buf} {k : State → StepRes}
    (h : Keeps ps s0 s) (hk : ∀ u, Keeps ps s0 u → StepKeeps ps s0 (k u))
    (hp : [.out, .regs, .cnt, .mem, .poison, .epochs, .tasks, .prov, .crm, .hbm, .ecc, .cw, .ls, .ldl, .rel, .act,
        .sys, .free] ⊆ ps := by decide) :
    StepKeeps ps s0 (writeBuf t b s k) := by
  have sub {qs : List Part} {t u : State} (ht : Keeps ps s0 t) (k : Keeps qs t u)
      (hq : qs ⊆ [.out, .regs, .cnt, .mem, .poison, .epochs, .tasks, .prov, .crm, .hbm, .ecc, .cw, .ls, .ldl, .rel,
          .act, .sys, .free] := by decide) : Keeps ps s0 u := ht.step k (fun _ m => hp (hq m))
  unfold writeBuf
  split
  · trivial
  · exact h
  · exact h
  · exact hk _ (sub (sub h (outBuf_keeps ..)) (writeRuns_keeps ..))

end Sys2Proof.Machine
end

