-- ==== Sys2Proof/Laws/FrameClasses.lean ====
section
/-! SUPPORT. What each function can change, one law a function: the matrix, vector, function, update, statistics and table commands. -/

set_option Elab.async false

namespace Sys2Proof.Machine

/-! ### Machine/Matmul.lean -/

theorem lsChecked_keeps {ps : List Part} {s0 s : State} {t : Task} {rs : List (Nat × Nat)} {k : State → StepRes}
    (h : Keeps ps s0 s) (hk : ∀ u, Keeps ps s0 u → StepKeeps ps s0 (k u))
    (hp : [.out, .regs, .cnt, .poison, .crm, .hbm, .cw, .ls, .rel, .act, .sys,
        .free] ⊆ ps := by decide) : StepKeeps ps s0 (lsChecked t rs s k) := by
  have sub {qs : List Part} {t u : State} (ht : Keeps ps s0 t) (k : Keeps qs t u)
      (hq : qs ⊆ [.out, .regs, .cnt, .poison, .crm, .hbm, .cw, .ls, .rel, .act, .sys,
          .free] := by decide) : Keeps ps s0 u := ht.step k (fun _ m => hp (hq m))
  unfold lsChecked
  split
  · exact hk _ h
  split
  · exact sub h (poisonRead_keeps ..)
  · exact hk _ (sub h (touchReads_keeps ..))

theorem rowDone_keeps (t : Task) (rows : Map (List F32)) (s : State) :
    StepKeeps [.cnt, .arr] s (rowDone t rows s) := by
  unfold rowDone
  dsimp only
  split
  · split
    · change Keeps _ _ _
      refine .step ?_ (passOver_keeps ..)
      refine .step ?_ (bump_keeps ..)
      refine .step ?_ (bump_keeps ..)
      exact .refl
    · change Keeps _ _ _
      refine .step ?_ (passOver_keeps ..)
      refine .step ?_ (bump_keeps ..)
      refine .step ?_ (bump_keeps ..)
      exact .refl
  · change Keeps _ _ _
    refine .step ?_ (bump_keeps ..)
    exact .refl

theorem matRow_keeps (t : Task) (s : State) :
    StepKeeps [.out, .regs, .cnt, .poison, .crm, .hbm, .cw, .ls, .rel, .arr, .act, .sys, .free] s (matRow t s) := by
  unfold matRow
  dsimp only
  split
  · trivial
  · split
    · trivial
    · refine lsChecked_keeps ?_ (fun _ _ => ?_)
      · refine OptKeeps.some (by assumption) ?_
        refine .step ?_ (tileIn_keeps ..)
        exact .refl
      · refine .step ?_ (rowDone_keeps ..)
        refine .step ?_ (bump_keeps ..)
        assumption

theorem matSlice_keeps (op id k cycles : ℕ) (s : State) :
    Keeps [.out, .regs, .cnt, .poison, .tasks, .eng, .tck, .crm, .hbm, .cw, .ls, .upset, .cross, .ldl, .rel, .arr, .act, .sys, .free] s (matSlice op id k cycles s) := by
  unfold matSlice
  refine runSlice_keeps ?_ (fun _ _ _ => ?_)
  · exact .refl
  · refine .step ?_ (matRow_keeps ..)
    assumption

theorem execMatmulProduct_keeps (task k cycles : ℕ) (s : State) :
    ResKeeps [.out, .regs, .cnt, .poison, .tasks, .eng, .tck, .crm, .hbm, .cw, .ls, .upset, .cross, .ldl, .rel, .arr, .act, .sys, .free] s (execMatmulProduct task k cycles s) := by
  unfold execMatmulProduct
  change Keeps _ _ _
  refine .step ?_ (matSlice_keeps ..)
  exact .refl

theorem execHeritageProduct_keeps (task k cycles : ℕ) (s : State) :
    ResKeeps [.out, .regs, .cnt, .poison, .tasks, .eng, .tck, .crm, .hbm, .cw, .ls, .upset, .cross, .ldl, .rel, .arr, .act, .sys, .free] s (execHeritageProduct task k cycles s) := by
  unfold execHeritageProduct
  change Keeps _ _ _
  refine .step ?_ (matSlice_keeps ..)
  exact .refl

theorem submitRecomp_keeps (c : Capture) (m : ℕ) (s : State) :
    Keeps [.out, .regs, .cnt, .mem, .poison, .epochs, .tasks, .prov, .crm, .hbm, .ecc, .cw, .ls, .ldl, .rel, .act, .sys, .free] s (submitRecomp c m s) := by
  unfold submitRecomp
  dsimp only
  refine forJob_keeps ?_ (fun _ _ => ?_)
  · refine .set_rel ?_ _
    exact .refl
  · refine .step ?_ (wrBytes_keeps ..)
    assumption

theorem tileSample_keeps (t : Task) (bn b : ℕ) (sums : List F32) (s : State) :
    Keeps [.out, .regs, .cnt, .mem, .poison, .epochs, .tasks, .prov, .crm, .hbm, .ecc, .cw, .ls, .ldl, .rel, .act, .sys, .free] s (tileSample t bn b sums s) := by
  unfold tileSample
  dsimp only
  refine .ite (fun _ => ?_) (fun _ => ?_)
  · exact .refl
  · refine .ite (fun _ => ?_) (fun _ => ?_)
    · refine .set_rel ?_ _
      exact .refl
    · refine .ite (fun _ => ?_) (fun _ => ?_)
      · refine .step ?_ (setReg_keeps ..)
        refine .step ?_ (draw_keeps ..)
        refine .set_rel ?_ _
        exact .refl
      · refine .step ?_ (submitRecomp_keeps ..)
        refine .step ?_ (wrBytes_keeps ..)
        refine .set_rel ?_ _
        refine .step ?_ (draw_keeps ..)
        refine .set_rel ?_ _
        exact .refl

theorem blockCount_keeps (n : ℕ) (b : Buf) (s : State) :
    Keeps [.cnt] s (blockCount n b s) := by
  unfold blockCount
  dsimp only
  refine .foldl ?_ (fun _ _ _ => ?_)
  · refine .step ?_ (bump_keeps ..)
    refine .step ?_ (bump_keeps ..)
    refine .step ?_ (bump_keeps ..)
    refine .step ?_ (bump_keeps ..)
    exact .refl
  · refine .step ?_ (bump_keeps ..)
    assumption

theorem emptyBlock_keeps (t : Task) (s : State) :
    Keeps [.out, .regs, .cnt, .mem, .poison, .epochs, .tasks, .prov, .eng, .crm, .hbm, .ecc, .cw, .ls, .ldl, .rel, .act, .sys, .free] s (emptyBlock t s) := by
  unfold emptyBlock
  dsimp only
  split
  · exact .refl
  · refine .ite (fun _ => ?_) (fun _ => ?_)
    · exact .refl
    · split
      · exact .refl
      · refine .step ?_ (finish_keeps ..)
        refine StepKeeps.fail (by assumption) ?_
        refine readSpans_keeps ?_ (fun _ _ => ?_)
        · exact .refl
        · refine writeBuf_keeps ?_ (fun _ _ => ?_)
          · assumption
          · change Keeps _ _ _
            assumption
      · refine .ite (fun _ => ?_) (fun _ => ?_)
        · refine .step ?_ (finish_keeps ..)
          refine .step ?_ (blockCount_keeps ..)
          refine .step ?_ (tileSample_keeps ..)
          refine StepKeeps.go (by assumption) ?_
          refine readSpans_keeps ?_ (fun _ _ => ?_)
          · exact .refl
          · refine writeBuf_keeps ?_ (fun _ _ => ?_)
            · assumption
            · change Keeps _ _ _
              assumption
        · refine .step ?_ (putTask_keeps ..)
          refine .step ?_ (blockCount_keeps ..)
          refine .step ?_ (tileSample_keeps ..)
          refine StepKeeps.go (by assumption) ?_
          refine readSpans_keeps ?_ (fun _ _ => ?_)
          · exact .refl
          · refine writeBuf_keeps ?_ (fun _ _ => ?_)
            · assumption
            · change Keeps _ _ _
              assumption

theorem epilogue_keeps (id : ℕ) (s : State) :
    Keeps [.out, .regs, .cnt, .mem, .poison, .epochs, .tasks, .prov, .eng, .crm, .hbm, .ecc, .cw, .ls, .ldl, .rel, .act, .sys, .free] s (epilogue id s) := by
  unfold epilogue
  split
  · exact .refl
  · refine forJob_keeps ?_ (fun _ _ => ?_)
    · exact .refl
    · refine .step ?_ (emptyBlock_keeps ..)
      assumption

theorem execOutputBlockEpilogue_keeps (task : ℕ) (s : State) :
    ResKeeps [.out, .regs, .cnt, .mem, .poison, .epochs, .tasks, .prov, .eng, .crm, .hbm, .ecc, .cw, .ls, .ldl, .rel, .act, .sys, .free] s (execOutputBlockEpilogue task s) := by
  unfold execOutputBlockEpilogue
  change Keeps _ _ _
  refine .step ?_ (epilogue_keeps ..)
  exact .refl

/-! ### Machine/Vector.lean -/

theorem generate_keeps {ps : List Part} {s0 s : State} {t : Task} {i n : Nat} {k : State → StepRes}
    (h : Keeps ps s0 s) (hk : ∀ u, Keeps ps s0 u → StepKeeps ps s0 (k u))
    (hp : [.out, .regs, .cnt, .upset, .rngBlocks, .rel, .sys,
        .free] ⊆ ps := by decide) : StepKeeps ps s0 (generate t i n s k) := by
  have sub {qs : List Part} {t u : State} (ht : Keeps ps s0 t) (k : Keeps qs t u)
      (hq : qs ⊆ [.out, .regs, .cnt, .upset, .rngBlocks, .rel, .sys,
          .free] := by decide) : Keeps ps s0 u := ht.step k (fun _ m => hp (hq m))
  have hb : Keeps ps s0 (bump rngPage 0 2 ((s.rngBlocks + n) / 65536)
      (bump rngPage 0 i n { s with rngBlocks := (s.rngBlocks + n) % 65536 })) :=
    sub (sub (sub h (Keeps.refl.set_rngBlocks (ps := [.rngBlocks]) _)) (bump_keeps ..)) (bump_keeps ..)
  unfold generate
  dsimp only
  split
  · exact sub (sub (sub hb (Keeps.refl.set_upset (ps := [.upset]) _)) (bump_keeps ..)) (raiseFree_keeps ..)
  · exact hk _ hb

theorem vecStep_keeps (t : Task) (s : State) :
    StepKeeps [.out, .regs, .cnt, .mem, .poison, .epochs, .tasks, .prov, .crm, .hbm, .ecc, .cw, .ls, .upset, .rngBlocks, .ldl, .rel, .act, .sys, .free] s (vecStep t s) := by
  unfold vecStep
  dsimp only
  split
  · split
    · refine writeBuf_keeps ?_ (fun _ _ => ?_)
      · exact .refl
      · change Keeps _ _ _
        assumption
    · change Keeps _ _ _
      exact .refl
  · split
    · split
      · refine writeBuf_keeps ?_ (fun _ _ => ?_)
        · exact .refl
        · change Keeps _ _ _
          assumption
      · change Keeps _ _ _
        exact .refl
    · split
      · refine generate_keeps ?_ (fun _ _ => ?_)
        · exact .refl
        · refine writeBuf_keeps ?_ (fun _ _ => ?_)
          · assumption
          · change Keeps _ _ _
            assumption
      · refine generate_keeps ?_ (fun _ _ => ?_)
        · exact .refl
        · refine writeBuf_keeps ?_ (fun _ _ => ?_)
          · assumption
          · change Keeps _ _ _
            assumption

theorem funStep_keeps (t : Task) (s : State) :
    StepKeeps [.out, .regs, .cnt, .mem, .poison, .epochs, .tasks, .prov, .crm, .hbm, .ecc, .cw, .ls, .ldl, .rel, .act, .sys, .free] s (funStep t s) := by
  unfold funStep
  dsimp only
  refine writeBuf_keeps ?_ (fun _ _ => ?_)
  · exact .refl
  · change Keeps _ _ _
    assumption

theorem loadStep_keeps (t : Task) (s : State) :
    StepKeeps [.tables] s (loadStep t s) := by
  unfold loadStep
  dsimp only
  split
  · change Keeps _ _ _
    exact .refl
  · change Keeps _ _ _
    refine .set_tables ?_ _
    exact .refl

theorem vecSlice_keeps (op id k cycles : ℕ) (s : State) :
    Keeps [.out, .regs, .cnt, .mem, .poison, .epochs, .tasks, .prov, .eng, .tck, .crm, .hbm, .ecc, .cw, .ls, .upset, .rngBlocks, .cross, .ldl, .rel, .arr, .act, .sys, .free] s (vecSlice op id k cycles s) := by
  unfold vecSlice
  refine runSlice_keeps ?_ (fun _ _ _ => ?_)
  · exact .refl
  · refine .step ?_ (vecStep_keeps ..)
    assumption

theorem funSlice_keeps (op id k cycles : ℕ) (s : State) :
    Keeps [.out, .regs, .cnt, .mem, .poison, .epochs, .tasks, .prov, .eng, .tck, .crm, .hbm, .ecc, .cw, .ls, .upset, .cross, .ldl, .rel, .arr, .act, .tables, .sys, .free] s (funSlice op id k cycles s) := by
  unfold funSlice
  refine runSlice_keeps ?_ (fun _ _ _ => ?_)
  · exact .refl
  · split
    · refine .step ?_ (loadStep_keeps ..)
      assumption
    · refine .step ?_ (funStep_keeps ..)
      assumption

theorem execVecConvert_keeps (task k cycles : ℕ) (s : State) :
    ResKeeps [.out, .regs, .cnt, .mem, .poison, .epochs, .tasks, .prov, .eng, .tck, .crm, .hbm, .ecc, .cw, .ls, .upset, .rngBlocks, .cross, .ldl, .rel, .arr, .act, .sys, .free] s (execVecConvert task k cycles s) := by
  unfold execVecConvert
  change Keeps _ _ _
  refine .step ?_ (vecSlice_keeps ..)
  exact .refl

theorem execVecAdd_keeps (task k cycles : ℕ) (s : State) :
    ResKeeps [.out, .regs, .cnt, .mem, .poison, .epochs, .tasks, .prov, .eng, .tck, .crm, .hbm, .ecc, .cw, .ls, .upset, .rngBlocks, .cross, .ldl, .rel, .arr, .act, .sys, .free] s (execVecAdd task k cycles s) := by
  unfold execVecAdd
  change Keeps _ _ _
  refine .step ?_ (vecSlice_keeps ..)
  exact .refl

theorem execVecMul_keeps (task k cycles : ℕ) (s : State) :
    ResKeeps [.out, .regs, .cnt, .mem, .poison, .epochs, .tasks, .prov, .eng, .tck, .crm, .hbm, .ecc, .cw, .ls, .upset, .rngBlocks, .cross, .ldl, .rel, .arr, .act, .sys, .free] s (execVecMul task k cycles s) := by
  unfold execVecMul
  change Keeps _ _ _
  refine .step ?_ (vecSlice_keeps ..)
  exact .refl

theorem execVecFma_keeps (task k cycles : ℕ) (s : State) :
    ResKeeps [.out, .regs, .cnt, .mem, .poison, .epochs, .tasks, .prov, .eng, .tck, .crm, .hbm, .ecc, .cw, .ls, .upset, .rngBlocks, .cross, .ldl, .rel, .arr, .act, .sys, .free] s (execVecFma task k cycles s) := by
  unfold execVecFma
  change Keeps _ _ _
  refine .step ?_ (vecSlice_keeps ..)
  exact .refl

theorem execVecAffine_keeps (task k cycles : ℕ) (s : State) :
    ResKeeps [.out, .regs, .cnt, .mem, .poison, .epochs, .tasks, .prov, .eng, .tck, .crm, .hbm, .ecc, .cw, .ls, .upset, .rngBlocks, .cross, .ldl, .rel, .arr, .act, .sys, .free] s (execVecAffine task k cycles s) := by
  unfold execVecAffine
  change Keeps _ _ _
  refine .step ?_ (vecSlice_keeps ..)
  exact .refl

theorem execVecMax_keeps (task k cycles : ℕ) (s : State) :
    ResKeeps [.out, .regs, .cnt, .mem, .poison, .epochs, .tasks, .prov, .eng, .tck, .crm, .hbm, .ecc, .cw, .ls, .upset, .rngBlocks, .cross, .ldl, .rel, .arr, .act, .sys, .free] s (execVecMax task k cycles s) := by
  unfold execVecMax
  change Keeps _ _ _
  refine .step ?_ (vecSlice_keeps ..)
  exact .refl

theorem execRowSum_keeps (task k cycles : ℕ) (s : State) :
    ResKeeps [.out, .regs, .cnt, .mem, .poison, .epochs, .tasks, .prov, .eng, .tck, .crm, .hbm, .ecc, .cw, .ls, .upset, .rngBlocks, .cross, .ldl, .rel, .arr, .act, .sys, .free] s (execRowSum task k cycles s) := by
  unfold execRowSum
  change Keeps _ _ _
  refine .step ?_ (vecSlice_keeps ..)
  exact .refl

theorem execRowSumsq_keeps (task k cycles : ℕ) (s : State) :
    ResKeeps [.out, .regs, .cnt, .mem, .poison, .epochs, .tasks, .prov, .eng, .tck, .crm, .hbm, .ecc, .cw, .ls, .upset, .rngBlocks, .cross, .ldl, .rel, .arr, .act, .sys, .free] s (execRowSumsq task k cycles s) := by
  unfold execRowSumsq
  change Keeps _ _ _
  refine .step ?_ (vecSlice_keeps ..)
  exact .refl

theorem execRowMax_keeps (task k cycles : ℕ) (s : State) :
    ResKeeps [.out, .regs, .cnt, .mem, .poison, .epochs, .tasks, .prov, .eng, .tck, .crm, .hbm, .ecc, .cw, .ls, .upset, .rngBlocks, .cross, .ldl, .rel, .arr, .act, .sys, .free] s (execRowMax task k cycles s) := by
  unfold execRowMax
  change Keeps _ _ _
  refine .step ?_ (vecSlice_keeps ..)
  exact .refl

theorem execVecFinite_keeps (task k cycles : ℕ) (s : State) :
    ResKeeps [.out, .regs, .cnt, .mem, .poison, .epochs, .tasks, .prov, .eng, .tck, .crm, .hbm, .ecc, .cw, .ls, .upset, .rngBlocks, .cross, .ldl, .rel, .arr, .act, .sys, .free] s (execVecFinite task k cycles s) := by
  unfold execVecFinite
  change Keeps _ _ _
  refine .step ?_ (vecSlice_keeps ..)
  exact .refl

theorem execVecMask_keeps (task k cycles : ℕ) (s : State) :
    ResKeeps [.out, .regs, .cnt, .mem, .poison, .epochs, .tasks, .prov, .eng, .tck, .crm, .hbm, .ecc, .cw, .ls, .upset, .rngBlocks, .cross, .ldl, .rel, .arr, .act, .sys, .free] s (execVecMask task k cycles s) := by
  unfold execVecMask
  change Keeps _ _ _
  refine .step ?_ (vecSlice_keeps ..)
  exact .refl

theorem execSegMask_keeps (task k cycles : ℕ) (s : State) :
    ResKeeps [.out, .regs, .cnt, .mem, .poison, .epochs, .tasks, .prov, .eng, .tck, .crm, .hbm, .ecc, .cw, .ls, .upset, .rngBlocks, .cross, .ldl, .rel, .arr, .act, .sys, .free] s (execSegMask task k cycles s) := by
  unfold execSegMask
  change Keeps _ _ _
  refine .step ?_ (vecSlice_keeps ..)
  exact .refl

theorem execDropout_keeps (task k cycles : ℕ) (s : State) :
    ResKeeps [.out, .regs, .cnt, .mem, .poison, .epochs, .tasks, .prov, .eng, .tck, .crm, .hbm, .ecc, .cw, .ls, .upset, .rngBlocks, .cross, .ldl, .rel, .arr, .act, .sys, .free] s (execDropout task k cycles s) := by
  unfold execDropout
  change Keeps _ _ _
  refine .step ?_ (vecSlice_keeps ..)
  exact .refl

theorem execRandom_keeps (task k cycles : ℕ) (s : State) :
    ResKeeps [.out, .regs, .cnt, .mem, .poison, .epochs, .tasks, .prov, .eng, .tck, .crm, .hbm, .ecc, .cw, .ls, .upset, .rngBlocks, .cross, .ldl, .rel, .arr, .act, .sys, .free] s (execRandom task k cycles s) := by
  unfold execRandom
  change Keeps _ _ _
  refine .step ?_ (vecSlice_keeps ..)
  exact .refl

theorem execFunForward_keeps (task k cycles : ℕ) (s : State) :
    ResKeeps [.out, .regs, .cnt, .mem, .poison, .epochs, .tasks, .prov, .eng, .tck, .crm, .hbm, .ecc, .cw, .ls, .upset, .cross, .ldl, .rel, .arr, .act, .tables, .sys, .free] s (execFunForward task k cycles s) := by
  unfold execFunForward
  change Keeps _ _ _
  refine .step ?_ (funSlice_keeps ..)
  exact .refl

theorem execFunBackward_keeps (task k cycles : ℕ) (s : State) :
    ResKeeps [.out, .regs, .cnt, .mem, .poison, .epochs, .tasks, .prov, .eng, .tck, .crm, .hbm, .ecc, .cw, .ls, .upset, .cross, .ldl, .rel, .arr, .act, .tables, .sys, .free] s (execFunBackward task k cycles s) := by
  unfold execFunBackward
  change Keeps _ _ _
  refine .step ?_ (funSlice_keeps ..)
  exact .refl

theorem execFunLoad_keeps (task k cycles : ℕ) (s : State) :
    ResKeeps [.out, .regs, .cnt, .mem, .poison, .epochs, .tasks, .prov, .eng, .tck, .crm, .hbm, .ecc, .cw, .ls, .upset, .cross, .ldl, .rel, .arr, .act, .tables, .sys, .free] s (execFunLoad task k cycles s) := by
  unfold execFunLoad
  change Keeps _ _ _
  refine .step ?_ (funSlice_keeps ..)
  exact .refl

/-! ### Machine/Churn.lean -/

theorem updStep_keeps (t : Task) (s : State) :
    StepKeeps [.out, .regs, .cnt, .mem, .poison, .epochs, .tasks, .prov, .crm, .hbm, .ecc, .cw, .ls, .upset, .rngBlocks, .ldl, .rel, .act, .sys, .free] s (updStep t s) := by
  unfold updStep
  dsimp only
  refine readSpans_keeps ?_ (fun _ _ => ?_)
  · exact .refl
  · refine generate_keeps ?_ (fun _ _ => ?_)
    · assumption
    · refine writeBuf_keeps ?_ (fun _ _ => ?_)
      · refine .step ?_ (bump_keeps ..)
        refine .step ?_ (bump_keeps ..)
        refine .step ?_ (bump_keeps ..)
        assumption
      · change Keeps _ _ _
        assumption

theorem updSlice_keeps (op id k cycles : ℕ) (s : State) :
    Keeps [.out, .regs, .cnt, .mem, .poison, .epochs, .tasks, .prov, .eng, .tck, .crm, .hbm, .ecc, .cw, .ls, .upset, .rngBlocks, .cross, .ldl, .rel, .arr, .act, .sys, .free] s (updSlice op id k cycles s) := by
  unfold updSlice
  refine runSlice_keeps ?_ (fun _ _ _ => ?_)
  · exact .refl
  · refine .step ?_ (updStep_keeps ..)
    assumption

theorem execSgd_keeps (task k cycles : ℕ) (s : State) :
    ResKeeps [.out, .regs, .cnt, .mem, .poison, .epochs, .tasks, .prov, .eng, .tck, .crm, .hbm, .ecc, .cw, .ls, .upset, .rngBlocks, .cross, .ldl, .rel, .arr, .act, .sys, .free] s (execSgd task k cycles s) := by
  unfold execSgd
  change Keeps _ _ _
  refine .step ?_ (updSlice_keeps ..)
  exact .refl

theorem execAdam_keeps (task k cycles : ℕ) (s : State) :
    ResKeeps [.out, .regs, .cnt, .mem, .poison, .epochs, .tasks, .prov, .eng, .tck, .crm, .hbm, .ecc, .cw, .ls, .upset, .rngBlocks, .cross, .ldl, .rel, .arr, .act, .sys, .free] s (execAdam task k cycles s) := by
  unfold execAdam
  change Keeps _ _ _
  refine .step ?_ (updSlice_keeps ..)
  exact .refl

theorem execLion_keeps (task k cycles : ℕ) (s : State) :
    ResKeeps [.out, .regs, .cnt, .mem, .poison, .epochs, .tasks, .prov, .eng, .tck, .crm, .hbm, .ecc, .cw, .ls, .upset, .rngBlocks, .cross, .ldl, .rel, .arr, .act, .sys, .free] s (execLion task k cycles s) := by
  unfold execLion
  change Keeps _ _ _
  refine .step ?_ (updSlice_keeps ..)
  exact .refl

theorem layerClose_keeps (row : ℕ) (x : Layer) (s : State) :
    Keeps [.out, .regs, .cnt, .layers, .sys] s (layerClose row x s) := by
  unfold layerClose
  dsimp only
  refine .ite (fun _ => ?_) (fun _ => ?_)
  · refine .step ?_ (intSet_keeps ..)
    refine .ite (fun _ => ?_) (fun _ => ?_)
    · refine .step ?_ (bump_keeps ..)
      refine .step ?_ (bump_keeps ..)
      refine .set_layers ?_ _
      exact .refl
    · refine .step ?_ (setReg_keeps ..)
      refine .step ?_ (bump_keeps ..)
      refine .step ?_ (bump_keeps ..)
      refine .set_layers ?_ _
      exact .refl
  · refine .step ?_ (bump_keeps ..)
    refine .set_layers ?_ _
    exact .refl

theorem contribute_keeps (t : Task) (s : State) :
    Keeps [.out, .regs, .cnt, .layers, .sys] s (contribute t s) := by
  unfold contribute
  dsimp only
  refine .ite (fun _ => ?_) (fun _ => ?_)
  · exact .refl
  · refine .ite (fun _ => ?_) (fun _ => ?_)
    · refine .step ?_ (layerClose_keeps ..)
      refine .ite (fun _ => ?_) (fun _ => ?_)
      · refine .step ?_ (raise_keeps ..)
        exact .refl
      · exact .refl
    · refine .set_layers ?_ _
      refine .ite (fun _ => ?_) (fun _ => ?_)
      · refine .step ?_ (raise_keeps ..)
        exact .refl
      · exact .refl

theorem chnCfgEffect_keeps (v : Word) (s : State) :
    Keeps [.regs, .layers] s (chnCfgEffect v s) := by
  unfold chnCfgEffect
  dsimp only
  refine .ite (fun _ => ?_) (fun _ => ?_)
  · refine .set_layers ?_ _
    refine .step ?_ (storeReg_keeps ..)
    exact .refl
  · refine .step ?_ (storeReg_keeps ..)
    exact .refl

theorem execClearStats_keeps (who : Initiator) (v : Word) (s : State) :
    ResKeeps [.out, .regs, .blk, .layers, .sys] s (execClearStats who v s) := by
  unfold execClearStats
  change Keeps _ _ _
  refine regGuard_keeps ?_ (fun _ _ _ => ?_)
  · exact .refl
  · refine .step ?_ (chnCfgEffect_keeps ..)
    assumption

theorem execAlarmFirstRead_keeps (who : Initiator) (s : State) :
    ResKeeps [.resp, .out, .regs, .sys] s (execAlarmFirstRead who s) := by
  unfold execAlarmFirstRead
  change Keeps _ _ _
  refine .step ?_ (readClear_keeps ..)
  exact .refl

theorem testGoEffect_keeps (v : Word) (s : State) :
    Keeps [.regs] s (testGoEffect v s) := by
  unfold testGoEffect
  dsimp only
  refine .ite (fun _ => ?_) (fun _ => ?_)
  · refine .step ?_ (setReg_keeps ..)
    refine .step ?_ (setReg_keeps ..)
    exact .refl
  · exact .refl

theorem execTestGo_keeps (who : Initiator) (v : Word) (s : State) :
    ResKeeps [.out, .regs, .blk, .sys] s (execTestGo who v s) := by
  unfold execTestGo
  change Keeps _ _ _
  refine regGuard_keeps ?_ (fun _ _ _ => ?_)
  · exact .refl
  · refine .step ?_ (testGoEffect_keeps ..)
    assumption

theorem seedEffect_keeps (i : ℕ) (v : Word) (s : State) :
    Keeps [.regs, .seedBad] s (seedEffect i v s) := by
  unfold seedEffect
  refine .step ?_ (storeReg_keeps ..)
  refine .set_seedBad ?_ _
  exact .refl

/-! ### Machine/Skim.lean -/

theorem setEnt_keeps (e : ℕ) (x : SkimEnt) (s : State) :
    Keeps [.skm] s (setEnt e x s) := by
  unfold setEnt
  dsimp only
  refine .set_skm ?_ _
  exact .refl

theorem deliverSkim_keeps (e job : ℕ) (d : SkimRec) (s : State) :
    Keeps [.out, .regs, .cnt, .skm, .sys] s (deliverSkim e job d s) := by
  unfold deliverSkim
  dsimp only
  refine .ite (fun _ => ?_) (fun _ => ?_)
  · refine .ite (fun _ => ?_) (fun _ => ?_)
    · refine .step ?_ (setEnt_keeps ..)
      refine .step ?_ (bump_keeps ..)
      exact .refl
    · refine .step ?_ (setEnt_keeps ..)
      refine .step ?_ (bump_keeps ..)
      exact .refl
  · refine .step ?_ (raise_keeps ..)
    exact .refl

theorem deliverTask_keeps (t : Task) (s : State) :
    Keeps [.out, .regs, .cnt, .skm, .sys] s (deliverTask t s) := by
  unfold deliverTask
  dsimp only
  split
  · exact .refl
  · refine .ite (fun _ => ?_) (fun _ => ?_)
    · refine .set_skm ?_ _
      refine .ite (fun _ => ?_) (fun _ => ?_)
      · refine .step ?_ (bump_keeps ..)
        exact .refl
      · exact .refl
    · refine .step ?_ (deliverSkim_keeps ..)
      refine .ite (fun _ => ?_) (fun _ => ?_)
      · refine .step ?_ (bump_keeps ..)
        exact .refl
      · exact .refl

theorem settleDelivery_keeps (id : ℕ) (commit : Bool) (s : State) :
    Keeps [.out, .regs, .cnt, .skm, .sys] s (settleDelivery id commit s) := by
  unfold settleDelivery
  dsimp only
  refine .ite (fun _ => ?_) (fun _ => ?_)
  · refine .foldl ?_ (fun _ _ _ => ?_)
    · refine .set_skm ?_ _
      exact .refl
    · refine .step ?_ (deliverSkim_keeps ..)
      assumption
  · refine .set_skm ?_ _
    exact .refl

theorem writeBinding_keeps (b : ℕ) (fmt : Option ℕ) (dimLen : Option ℕ × ℕ) (scale : Option ℕ) (s : State) :
    Keeps [.out, .regs, .cnt, .mem, .poison, .epochs, .tasks, .prov, .crm, .hbm, .ecc, .cw, .ls, .ldl, .rel, .act, .sys, .free] s (writeBinding b fmt dimLen scale s) := by
  unfold writeBinding
  dsimp only
  refine .ite (fun _ => ?_) (fun _ => ?_)
  · refine .step ?_ (raise_keeps ..)
    exact .refl
  · refine .ite (fun _ => ?_) (fun _ => ?_)
    · refine .step ?_ (raise_keeps ..)
      refine .step ?_ (poisonRead_keeps ..)
      exact .refl
    · refine .ite (fun _ => ?_) (fun _ => ?_)
      · refine .step ?_ (raise_keeps ..)
        exact .refl
      · refine .ite (fun _ => ?_) (fun _ => ?_)
        · refine .step ?_ (raise_keeps ..)
          exact .refl
        · refine .step ?_ (bump_keeps ..)
          split
          · refine .step ?_ (wrBytes_keeps ..)
            refine .step ?_ (wrWord_keeps ..)
            refine .step ?_ (wrWord_keeps ..)
            refine .step ?_ (touchReads_keeps ..)
            exact .refl
          · refine .step ?_ (wrWord_keeps ..)
            refine .step ?_ (wrWord_keeps ..)
            refine .step ?_ (touchReads_keeps ..)
            exact .refl

theorem exportEnt_keeps (e : ℕ) (s : State) :
    Keeps [.out, .regs, .cnt, .mem, .poison, .epochs, .tasks, .prov, .crm, .hbm, .ecc, .cw, .ls, .ldl, .rel, .act, .skm, .sys, .free] s (exportEnt e s) := by
  unfold exportEnt
  dsimp only
  refine .ite (fun _ => ?_) (fun _ => ?_)
  · refine .step ?_ (bump_keeps ..)
    refine .step ?_ (setEnt_keeps ..)
    refine .step ?_ (wrBytes_keeps ..)
    exact .refl
  · exact .refl

theorem histCheck_keeps (s : State) :
    Keeps [.out, .regs, .upset, .rel, .sys, .free] s (histCheck s) := by
  unfold histCheck
  refine .ite (fun _ => ?_) (fun _ => ?_)
  · refine .step ?_ (raiseFree_keeps ..)
    refine .set_upset ?_ _
    exact .refl
  · exact .refl

theorem advanceEnt_keeps (e : ℕ) (s : State) :
    Keeps [.out, .regs, .cnt, .mem, .poison, .epochs, .tasks, .prov, .crm, .hbm, .ecc, .cw, .ls, .upset, .ldl, .rel, .act, .skm, .sys, .free] s (advanceEnt e s) := by
  unfold advanceEnt
  dsimp only
  refine .ite (fun _ => ?_) (fun _ => ?_)
  · refine .step ?_ (raise_keeps ..)
    exact .refl
  · refine .ite (fun _ => ?_) (fun _ => ?_)
    · refine .step ?_ (raise_keeps ..)
      refine .step ?_ (poisonRead_keeps ..)
      exact .refl
    · refine .ite (fun _ => ?_) (fun _ => ?_)
      · refine .step ?_ (bump_keeps ..)
        refine .step ?_ (histCheck_keeps ..)
        refine .ite (fun _ => ?_) (fun _ => ?_)
        · refine .step ?_ (bump_keeps ..)
          refine .step ?_ (touchReads_keeps ..)
          exact .refl
        · refine .step ?_ (setEnt_keeps ..)
          exact .refl
      · refine .foldl ?_ (fun _ _ _ => ?_)
        · refine .ite (fun _ => ?_) (fun _ => ?_)
          · refine .step ?_ (bump_keeps ..)
            refine .ite (fun _ => ?_) (fun _ => ?_)
            · refine .step ?_ (bump_keeps ..)
              refine .ite (fun _ => ?_) (fun _ => ?_)
              · refine .step ?_ (bump_keeps ..)
                refine .step ?_ (bump_keeps ..)
                refine .step ?_ (setEnt_keeps ..)
                refine .step ?_ (histCheck_keeps ..)
                refine .ite (fun _ => ?_) (fun _ => ?_)
                · refine .step ?_ (bump_keeps ..)
                  refine .step ?_ (touchReads_keeps ..)
                  exact .refl
                · refine .step ?_ (setEnt_keeps ..)
                  exact .refl
              · refine .step ?_ (bump_keeps ..)
                refine .step ?_ (setEnt_keeps ..)
                refine .step ?_ (histCheck_keeps ..)
                refine .ite (fun _ => ?_) (fun _ => ?_)
                · refine .step ?_ (bump_keeps ..)
                  refine .step ?_ (touchReads_keeps ..)
                  exact .refl
                · refine .step ?_ (setEnt_keeps ..)
                  exact .refl
            · refine .ite (fun _ => ?_) (fun _ => ?_)
              · refine .step ?_ (bump_keeps ..)
                refine .step ?_ (bump_keeps ..)
                refine .step ?_ (setEnt_keeps ..)
                refine .step ?_ (histCheck_keeps ..)
                refine .ite (fun _ => ?_) (fun _ => ?_)
                · refine .step ?_ (bump_keeps ..)
                  refine .step ?_ (touchReads_keeps ..)
                  exact .refl
                · refine .step ?_ (setEnt_keeps ..)
                  exact .refl
              · refine .step ?_ (bump_keeps ..)
                refine .step ?_ (setEnt_keeps ..)
                refine .step ?_ (histCheck_keeps ..)
                refine .ite (fun _ => ?_) (fun _ => ?_)
                · refine .step ?_ (bump_keeps ..)
                  refine .step ?_ (touchReads_keeps ..)
                  exact .refl
                · refine .step ?_ (setEnt_keeps ..)
                  exact .refl
          · refine .ite (fun _ => ?_) (fun _ => ?_)
            · refine .step ?_ (bump_keeps ..)
              refine .ite (fun _ => ?_) (fun _ => ?_)
              · refine .step ?_ (bump_keeps ..)
                refine .step ?_ (bump_keeps ..)
                refine .step ?_ (setEnt_keeps ..)
                refine .step ?_ (histCheck_keeps ..)
                refine .ite (fun _ => ?_) (fun _ => ?_)
                · refine .step ?_ (bump_keeps ..)
                  refine .step ?_ (touchReads_keeps ..)
                  exact .refl
                · refine .step ?_ (setEnt_keeps ..)
                  exact .refl
              · refine .step ?_ (bump_keeps ..)
                refine .step ?_ (setEnt_keeps ..)
                refine .step ?_ (histCheck_keeps ..)
                refine .ite (fun _ => ?_) (fun _ => ?_)
                · refine .step ?_ (bump_keeps ..)
                  refine .step ?_ (touchReads_keeps ..)
                  exact .refl
                · refine .step ?_ (setEnt_keeps ..)
                  exact .refl
            · refine .ite (fun _ => ?_) (fun _ => ?_)
              · refine .step ?_ (bump_keeps ..)
                refine .step ?_ (bump_keeps ..)
                refine .step ?_ (setEnt_keeps ..)
                refine .step ?_ (histCheck_keeps ..)
                refine .ite (fun _ => ?_) (fun _ => ?_)
                · refine .step ?_ (bump_keeps ..)
                  refine .step ?_ (touchReads_keeps ..)
                  exact .refl
                · refine .step ?_ (setEnt_keeps ..)
                  exact .refl
              · refine .step ?_ (bump_keeps ..)
                refine .step ?_ (setEnt_keeps ..)
                refine .step ?_ (histCheck_keeps ..)
                refine .ite (fun _ => ?_) (fun _ => ?_)
                · refine .step ?_ (bump_keeps ..)
                  refine .step ?_ (touchReads_keeps ..)
                  exact .refl
                · refine .step ?_ (setEnt_keeps ..)
                  exact .refl
        · refine .ite (fun _ => ?_) (fun _ => ?_)
          · refine .step ?_ (writeBinding_keeps ..)
            assumption
          · refine .step ?_ (writeBinding_keeps ..)
            assumption

theorem skimRun_keeps (s : State) :
    Keeps [.out, .regs, .cnt, .mem, .poison, .epochs, .tasks, .prov, .crm, .hbm, .ecc, .cw, .ls, .upset, .ldl, .rel, .act, .skm, .sys, .free] s (skimRun s) := by
  unfold skimRun
  dsimp only
  refine .ite (fun _ => ?_) (fun _ => ?_)
  · exact .refl
  · refine .set_skm ?_ _
    refine forJob_keeps ?_ (fun _ _ => ?_)
    · exact .refl
    · dsimp only [Function.comp]
      refine .ite (fun _ => ?_) (fun _ => ?_)
      · refine .foldl ?_ (fun _ _ _ => ?_)
        · refine .step ?_ (addAct_keeps ..)
          refine .ite (fun _ => ?_) (fun _ => ?_)
          · refine .foldl ?_ (fun _ _ _ => ?_)
            · refine .step ?_ (addAct_keeps ..)
              assumption
            · refine .step ?_ (exportEnt_keeps ..)
              assumption
          · assumption
        · refine .step ?_ (advanceEnt_keeps ..)
          assumption
      · refine .ite (fun _ => ?_) (fun _ => ?_)
        · refine .foldl ?_ (fun _ _ _ => ?_)
          · refine .step ?_ (addAct_keeps ..)
            assumption
          · refine .step ?_ (exportEnt_keeps ..)
            assumption
        · assumption

theorem stepCtlEffect_keeps (v : Word) (s : State) :
    Keeps [.out, .regs, .cnt, .mem, .poison, .epochs, .tasks, .prov, .crm, .hbm, .ecc, .cw, .ls, .upset, .ldl, .rel, .act, .skm, .sys, .free] s (stepCtlEffect v s) := by
  unfold stepCtlEffect
  dsimp only
  refine .ite (fun _ => ?_) (fun _ => ?_)
  · refine .step ?_ (raise_keeps ..)
    exact .refl
  · refine .ite (fun _ => ?_) (fun _ => ?_)
    · refine .step ?_ (raise_keeps ..)
      exact .refl
    · refine .ite (fun _ => ?_) (fun _ => ?_)
      · refine .step ?_ (skimRun_keeps ..)
        refine .set_skm ?_ _
        refine .step ?_ (setReg_keeps ..)
        exact .refl
      · refine .step ?_ (setReg_keeps ..)
        exact .refl

theorem execSkimExport_keeps (who : Initiator) (v : Word) (s : State) :
    ResKeeps [.out, .regs, .cnt, .mem, .poison, .epochs, .blk, .tasks, .prov, .crm, .hbm, .ecc, .cw, .ls, .upset, .ldl, .rel, .act, .skm, .sys, .free] s (execSkimExport who v s) := by
  unfold execSkimExport
  change Keeps _ _ _
  refine regGuard_keeps ?_ (fun _ _ _ => ?_)
  · exact .refl
  · refine .step ?_ (stepCtlEffect_keeps ..)
    assumption

theorem execSkimAdvance_keeps (who : Initiator) (v : Word) (s : State) :
    ResKeeps [.out, .regs, .cnt, .mem, .poison, .epochs, .blk, .tasks, .prov, .crm, .hbm, .ecc, .cw, .ls, .upset, .ldl, .rel, .act, .skm, .sys, .free] s (execSkimAdvance who v s) := by
  unfold execSkimAdvance
  change Keeps _ _ _
  refine regGuard_keeps ?_ (fun _ _ _ => ?_)
  · exact .refl
  · refine .step ?_ (stepCtlEffect_keeps ..)
    assumption

theorem stepDoneEffect_keeps (s : State) :
    Keeps [.out, .regs, .cnt, .mem, .poison, .epochs, .tasks, .prov, .crm, .hbm, .ecc, .cw, .ls, .upset, .ldl, .rel, .act, .skm, .sys, .free] s (stepDoneEffect s) := by
  unfold stepDoneEffect
  dsimp only
  refine .ite (fun _ => ?_) (fun _ => ?_)
  · exact .refl
  · refine .ite (fun _ => ?_) (fun _ => ?_)
    · refine .step ?_ (skimRun_keeps ..)
      exact .refl
    · refine .step ?_ (intSet_keeps ..)
      refine .set_skm ?_ _
      refine .step ?_ (skimRun_keeps ..)
      exact .refl

theorem execStepDone_keeps (s : State) :
    ResKeeps [.out, .regs, .cnt, .mem, .poison, .epochs, .tasks, .prov, .crm, .hbm, .ecc, .cw, .ls, .upset, .ldl, .rel, .act, .skm, .sys, .free] s (execStepDone s) := by
  unfold execStepDone
  change Keeps _ _ _
  refine .step ?_ (stepDoneEffect_keeps ..)
  exact .refl

theorem entryCfgEffect_keeps (v : Word) (s : State) :
    Keeps [.out, .regs, .skm, .sys] s (entryCfgEffect v s) := by
  unfold entryCfgEffect
  dsimp only
  refine .ite (fun _ => ?_) (fun _ => ?_)
  · refine .step ?_ (raise_keeps ..)
    exact .refl
  · refine .step ?_ (setEnt_keeps ..)
    exact .refl

theorem execEntryCfgWrite_keeps (who : Initiator) (v : Word) (s : State) :
    ResKeeps [.out, .regs, .blk, .skm, .sys] s (execEntryCfgWrite who v s) := by
  unfold execEntryCfgWrite
  change Keeps _ _ _
  refine regGuard_keeps ?_ (fun _ _ _ => ?_)
  · exact .refl
  · refine .step ?_ (entryCfgEffect_keeps ..)
    assumption

theorem entryWinEffect_keeps (param : Bool) (v : Word) (s : State) :
    Keeps [.out, .regs, .skm, .sys] s (entryWinEffect param v s) := by
  unfold entryWinEffect
  dsimp only
  refine .ite (fun _ => ?_) (fun _ => ?_)
  · refine .step ?_ (raise_keeps ..)
    exact .refl
  · refine .step ?_ (setEnt_keeps ..)
    refine .ite (fun _ => ?_) (fun _ => ?_)
    · exact .refl
    · refine .step ?_ (raise_keeps ..)
      exact .refl

theorem bindWinEffect_keeps (cfg : Bool) (v : Word) (s : State) :
    Keeps [.out, .regs, .skm, .sys] s (bindWinEffect cfg v s) := by
  unfold bindWinEffect
  dsimp only
  refine .ite (fun _ => ?_) (fun _ => ?_)
  · refine .step ?_ (raise_keeps ..)
    exact .refl
  · refine .set_skm ?_ _
    exact .refl

theorem lossStep_keeps (commit : Bool) (e : ℕ) (s : State) :
    Keeps [.out, .regs, .cnt, .mem, .poison, .epochs, .tasks, .prov, .crm, .hbm, .ecc, .cw, .ls, .ldl, .rel, .act, .skm, .sys, .free] s (lossStep commit e s) := by
  unfold lossStep
  dsimp only
  refine .foldl ?_ (fun _ _ _ => ?_)
  · refine .ite (fun _ => ?_) (fun _ => ?_)
    · refine .step ?_ (intSet_keeps ..)
      refine .step ?_ (bump_keeps ..)
      refine .step ?_ (setEnt_keeps ..)
      exact .refl
    · refine .ite (fun _ => ?_) (fun _ => ?_)
      · refine .step ?_ (bump_keeps ..)
        refine .step ?_ (setEnt_keeps ..)
        exact .refl
      · refine .step ?_ (setEnt_keeps ..)
        exact .refl
  · refine .step ?_ (writeBinding_keeps ..)
    assumption

theorem lossUpdate_keeps (job gid : ℕ) (commit : Bool) (s : State) :
    Keeps [.out, .regs, .cnt, .mem, .poison, .epochs, .tasks, .prov, .crm, .hbm, .ecc, .cw, .ls, .ldl, .rel, .act, .skm, .sys, .free] s (lossUpdate job gid commit s) := by
  unfold lossUpdate
  refine .foldl ?_ (fun _ _ _ => ?_)
  · exact .refl
  · refine forJob_keeps ?_ (fun _ _ => ?_)
    · assumption
    · refine .step ?_ (lossStep_keeps ..)
      assumption

end Sys2Proof.Machine
end

