-- ==== Sys2Proof/Laws/FrameLinks.lean ====
section
/-! SUPPORT. What each function can change, one law a function: copies, reductions and the links. -/

set_option Elab.async false

namespace Sys2Proof.Machine

/-! ### Machine/LinkBase.lean -/

theorem setPort_keeps (p : ℕ) (x : Port) (s : State) :
    Keeps [.lnk] s (setPort p x s) := by
  unfold setPort
  dsimp only
  refine .set_lnk ?_ _
  exact .refl

theorem sealPacket_keeps (k : Packet) (s : State) :
    OptSnd [.keys] s (sealPacket k s) := by
  unfold sealPacket
  dsimp only
  split
  · trivial
  · split
    · trivial
    · change Keeps _ _ _
      dsimp only
      refine .set_keys ?_ _
      exact .refl

theorem putFrame_keeps (p : ℕ) (w0 : Word) (body : List Byte) (s : State) :
    Keeps [.out, .cnt] s (putFrame p w0 body s) := by
  unfold putFrame
  refine .step ?_ (bump_keeps ..)
  refine .step ?_ (bump_keeps ..)
  refine .step ?_ (emit_keeps ..)
  exact .refl

theorem sendControl_keeps (p type : ℕ) (nak : Bool) (body : List Byte) (s : State) :
    Keeps [.out, .cnt] s (sendControl p type nak body s) := by
  unfold sendControl
  dsimp only
  refine .step ?_ (putFrame_keeps ..)
  exact .refl

theorem sendData_keeps (p : ℕ) (bs : List Byte) (s : State) :
    Keeps [.out, .cnt, .lnk] s (sendData p bs s) := by
  unfold sendData
  dsimp only
  refine .step ?_ (putFrame_keeps ..)
  refine .step ?_ (setPort_keeps ..)
  exact .refl

theorem portPump_keeps (p : ℕ) (s : State) :
    Keeps [.out, .cnt, .lnk] s (portPump p s) := by
  unfold portPump
  dsimp only
  refine .foldl ?_ (fun _ _ _ => ?_)
  · refine .foldl ?_ (fun _ _ _ => ?_)
    · refine .step ?_ (setPort_keeps ..)
      exact .refl
    · refine .step ?_ (emit_keeps ..)
      assumption
  · refine .step ?_ (sendData_keeps ..)
    assumption

theorem portState_keeps (p new : ℕ) (quiet : Bool) (s : State) :
    Keeps [.out, .regs, .lnk, .sys] s (portState p new quiet s) := by
  unfold portState
  dsimp only
  refine .ite (fun _ => ?_) (fun _ => ?_)
  · refine .step ?_ (setPort_keeps ..)
    exact .refl
  · refine .ite (fun _ => ?_) (fun _ => ?_)
    · refine .step ?_ (raise_keeps ..)
      refine .step ?_ (intSet_keeps ..)
      refine .step ?_ (setPort_keeps ..)
      exact .refl
    · refine .step ?_ (intSet_keeps ..)
      refine .step ?_ (setPort_keeps ..)
      exact .refl

theorem autoneg_keeps (p : ℕ) (s : State) :
    Keeps [.out] s (autoneg p s) := by
  unfold autoneg
  refine .ite (fun _ => ?_) (fun _ => ?_)
  · refine .step ?_ (emit_keeps ..)
    exact .refl
  · exact .refl

theorem startTraining_keeps (p : ℕ) (s : State) :
    Keeps [.out, .regs, .lnk, .sys] s (startTraining p s) := by
  unfold startTraining
  dsimp only
  refine .ite (fun _ => ?_) (fun _ => ?_)
  · exact .refl
  · refine .step ?_ (autoneg_keeps ..)
    refine .step ?_ (portState_keeps ..)
    refine .step ?_ (setPort_keeps ..)
    exact .refl

theorem retrainTrigger_keeps (p : ℕ) (s : State) :
    Keeps [.out, .regs, .cnt, .lnk, .sys] s (retrainTrigger p s) := by
  unfold retrainTrigger
  dsimp only
  refine .ite (fun _ => ?_) (fun _ => ?_)
  · exact .refl
  · refine .ite (fun _ => ?_) (fun _ => ?_)
    · refine .step ?_ (autoneg_keeps ..)
      refine .step ?_ (setPort_keeps ..)
      refine .step ?_ (bump_keeps ..)
      refine .step ?_ (portState_keeps ..)
      exact .refl
    · refine .step ?_ (portState_keeps ..)
      exact .refl

theorem rxDeliver_keeps (p : ℕ) (resp : Bool) (s : State) :
    Keeps [.out, .sys] s (rxDeliver p resp s) := by
  unfold rxDeliver
  dsimp only
  refine .step ?_ (deliver_keeps ..)
  exact .refl

theorem rxCheck_keeps (p : ℕ) (resp : Bool) (s : State) :
    Keeps [.out, .regs, .cnt, .rel, .lnk, .sys] s (rxCheck p resp s) := by
  unfold rxCheck
  dsimp only
  refine .ite (fun _ => ?_) (fun _ => ?_)
  · exact .refl
  · refine .step ?_ (retrainTrigger_keeps ..)
    refine .ite (fun _ => ?_) (fun _ => ?_)
    · refine .step ?_ (rxDeliver_keeps ..)
      refine .step ?_ (raiseEv_keeps ..)
      refine .step ?_ (setReg_keeps ..)
      refine .step ?_ (setPort_keeps ..)
      exact .refl
    · refine .step ?_ (raiseEv_keeps ..)
      refine .step ?_ (setReg_keeps ..)
      refine .step ?_ (setPort_keeps ..)
      exact .refl

theorem rxPut_keeps (p : ℕ) (k : Packet) (s : State) :
    Keeps [.out, .regs, .lnk, .sys] s (rxPut p k s) := by
  unfold rxPut
  dsimp only
  refine .ite (fun _ => ?_) (fun _ => ?_)
  · refine .step ?_ (rxDeliver_keeps ..)
    refine .step ?_ (setReg_keeps ..)
    refine .step ?_ (setPort_keeps ..)
    exact .refl
  · refine .step ?_ (setPort_keeps ..)
    exact .refl

theorem rxOffer_keeps (p : ℕ) (s : State) :
    Keeps [.out, .regs, .cnt, .rel, .lnk, .sys] s (rxOffer p s) := by
  unfold rxOffer
  dsimp only
  refine .foldl ?_ (fun _ _ _ => ?_)
  · refine .step ?_ (setPort_keeps ..)
    exact .refl
  · refine .ite (fun _ => ?_) (fun _ => ?_)
    · refine .step ?_ (rxPut_keeps ..)
      refine .step ?_ (rxCheck_keeps ..)
      assumption
    · refine .step ?_ (setPort_keeps ..)
      refine .step ?_ (rxCheck_keeps ..)
      assumption

theorem arrive_keeps (p : ℕ) (ks : List Packet) (s : State) :
    Keeps [.out, .regs, .cnt, .rel, .lnk, .sys] s (arrive p ks s) := by
  unfold arrive
  dsimp only
  refine .step ?_ (rxOffer_keeps ..)
  refine .step ?_ (setPort_keeps ..)
  exact .refl

theorem freeWords_keeps (p n : ℕ) (resp : Bool) (s : State) :
    Keeps [.out, .cnt, .lnk] s (freeWords p n resp s) := by
  unfold freeWords
  dsimp only
  refine .ite (fun _ => ?_) (fun _ => ?_)
  · refine .step ?_ (sendControl_keeps ..)
    refine .step ?_ (setPort_keeps ..)
    refine .step ?_ (setPort_keeps ..)
    exact .refl
  · refine .step ?_ (setPort_keeps ..)
    exact .refl

theorem takeOff_keeps (p : ℕ) (k : Packet) (s : State) :
    Keeps [.out, .regs, .cnt, .rel, .lnk, .sys] s (takeOff p k s) := by
  unfold takeOff
  dsimp only
  refine .ite (fun _ => ?_) (fun _ => ?_)
  · refine .step ?_ (rxOffer_keeps ..)
    refine .step ?_ (freeWords_keeps ..)
    refine .step ?_ (setPort_keeps ..)
    refine .step ?_ (rxCheck_keeps ..)
    refine .step ?_ (bump_keeps ..)
    exact .refl
  · refine .step ?_ (rxCheck_keeps ..)
    refine .step ?_ (bump_keeps ..)
    exact .refl

theorem rxFlush_keeps (p : ℕ) (resp : Bool) (s : State) :
    Keeps [.out, .regs, .cnt, .rel, .lnk, .sys] s (rxFlush p resp s) := by
  unfold rxFlush
  dsimp only
  refine .step ?_ (rxOffer_keeps ..)
  refine .ite (fun _ => ?_) (fun _ => ?_)
  · refine .step ?_ (setPort_keeps ..)
    refine .step ?_ (rxCheck_keeps ..)
    exact .refl
  · refine .step ?_ (freeWords_keeps ..)
    refine .step ?_ (setPort_keeps ..)
    refine .step ?_ (rxCheck_keeps ..)
    exact .refl

theorem setConn_keeps (p dev : ℕ) (c : Conn) (s : State) :
    Keeps [.lnk] s (setConn p dev c s) := by
  unfold setConn
  dsimp only
  refine .set_lnk ?_ _
  exact .refl

theorem putEther_keeps (p : ℕ) (o : Out) (s : State) :
    Keeps [.out, .cnt] s (putEther p o s) := by
  unfold putEther
  refine .step ?_ (bump_keeps ..)
  refine .step ?_ (emit_keeps ..)
  exact .refl

theorem sendDatagram_keeps (p dev : ℕ) (d : Datagram) (s : State) :
    Keeps [.out, .cnt, .lnk] s (sendDatagram p dev d s) := by
  unfold sendDatagram
  dsimp only
  refine .ite (fun _ => ?_) (fun _ => ?_)
  · refine .step ?_ (setConn_keeps ..)
    refine .step ?_ (putEther_keeps ..)
    exact .refl
  · refine .step ?_ (putEther_keeps ..)
    exact .refl

theorem connPump_keeps (x0 x1 x2 : ℕ) (x3 : State) :
    Keeps [.out, .cnt, .lnk] x3 (connPump x0 x1 x2 x3) := by
  induction x0 generalizing x1 x2 x3
  · unfold connPump
    exact .refl
  · rename_i n ih
    unfold connPump
    dsimp only
    split
    · exact .refl
    · refine .ite (fun _ => ?_) (fun _ => ?_)
      · exact .refl
      · refine .step ?_ (ih ..)
        refine .step ?_ (sendDatagram_keeps ..)
        refine .step ?_ (emit_keeps ..)
        refine .step ?_ (setConn_keeps ..)
        refine .ite (fun _ => ?_) (fun _ => ?_)
        · exact .refl
        · refine .step ?_ (sendDatagram_keeps ..)
          refine .step ?_ (setConn_keeps ..)
          exact .refl

theorem handOver_keeps (p dev : ℕ) (low : Bool) (k : Packet) (s : State) :
    Keeps [.out, .cnt, .act, .lnk] s (handOver p dev low k s) := by
  unfold handOver
  dsimp only
  refine .ite (fun _ => ?_) (fun _ => ?_)
  · refine .ite (fun _ => ?_) (fun _ => ?_)
    · refine .step ?_ (addAct_keeps ..)
      exact .refl
    · refine .step ?_ (connPump_keeps ..)
      refine .step ?_ (setConn_keeps ..)
      refine .step ?_ (addAct_keeps ..)
      exact .refl
  · refine .step ?_ (portPump_keeps ..)
    refine .step ?_ (setPort_keeps ..)
    refine .step ?_ (addAct_keeps ..)
    exact .refl

theorem linkFault_keeps (port dev job kind : ℕ) (s : State) :
    Keeps [.rel] s (linkFault port dev job kind s) := by
  unfold linkFault
  dsimp only
  refine .step ?_ (report_keeps ..)
  exact .refl

theorem maskedFault_keeps (page i port dev job kind : ℕ) (s : State) :
    Keeps [.rel] s (maskedFault page i port dev job kind s) := by
  unfold maskedFault
  refine .ite (fun _ => ?_) (fun _ => ?_)
  · exact .refl
  · refine .step ?_ (linkFault_keeps ..)
    exact .refl

theorem dropUnsent_keeps (owner : ℕ) (s : State) :
    Keeps [.lnk] s (dropUnsent owner s) := by
  unfold dropUnsent
  dsimp only
  refine .set_lnk ?_ _
  exact .refl

theorem failOwner_keeps (owner : ℕ) (f : Fail) (s : State) :
    Keeps [.out, .regs, .cnt, .tasks, .eng, .ldl, .lnk, .sys] s (failOwner owner f s) := by
  unfold failOwner
  split
  · exact .refl
  · refine .ite (fun _ => ?_) (fun _ => ?_)
    · exact .refl
    · refine .step ?_ (finish_keeps ..)
      refine .step ?_ (dropUnsent_keeps ..)
      exact .refl

theorem cacheHit_keeps (s : State) (dev job addr : ℕ) :
    OptSnd [.lnk] s (cacheHit s dev job addr) := by
  unfold cacheHit
  dsimp only
  split
  · trivial
  · change Keeps _ _ _
    dsimp only
    refine .set_lnk ?_ _
    exact .refl

theorem setTrack_keeps (seq : ℕ) (x : Track) (s : State) :
    Keeps [.lnk] s (setTrack seq x s) := by
  unfold setTrack
  dsimp only
  refine .set_lnk ?_ _
  exact .refl

theorem dropTrack_keeps (seq : ℕ) (s : State) :
    Keeps [.lnk] s (dropTrack seq s) := by
  unfold dropTrack
  dsimp only
  refine .set_lnk ?_ _
  exact .refl

theorem newTrack_keeps (x : Track) (s : State) :
    Keeps [.lnk] s (newTrack x s).2 := by
  unfold newTrack
  dsimp only
  refine .set_lnk ?_ _
  exact .refl

theorem sendTrack_keeps (seq : ℕ) (x : Track) (port : ℕ) (s : State) :
    Keeps [.out, .regs, .cnt, .tasks, .eng, .ldl, .rel, .act, .lnk, .keys, .sys] s (sendTrack seq x port s) := by
  unfold sendTrack
  split
  · refine .step ?_ (failOwner_keeps ..)
    refine .step ?_ (dropTrack_keeps ..)
    refine .step ?_ (linkFault_keeps ..)
    exact .refl
  · refine .step ?_ (handOver_keeps ..)
    refine .step ?_ (setTrack_keeps ..)
    refine OptSnd.pair (by assumption) ?_
    refine .step ?_ (sealPacket_keeps ..)
    exact .refl

theorem pumpDev_keeps (x0 x1 : ℕ) (x2 : State) :
    Keeps [.out, .regs, .cnt, .tasks, .eng, .ldl, .rel, .act, .lnk, .keys, .sys] x2 (pumpDev x0 x1 x2) := by
  induction x0 generalizing x1 x2
  · unfold pumpDev
    exact .refl
  · rename_i n ih
    unfold pumpDev
    dsimp only
    split
    · exact .refl
    · refine .ite (fun _ => ?_) (fun _ => ?_)
      · refine .step ?_ (ih ..)
        refine .step ?_ (dropTrack_keeps ..)
        exact .refl
      · refine .ite (fun _ => ?_) (fun _ => ?_)
        · refine .step ?_ (ih ..)
          refine .step ?_ (failOwner_keeps ..)
          refine .step ?_ (dropTrack_keeps ..)
          exact .refl
        · split
          · refine .step ?_ (ih ..)
            refine .step ?_ (failOwner_keeps ..)
            refine .step ?_ (dropTrack_keeps ..)
            refine .step ?_ (linkFault_keeps ..)
            exact .refl
          · refine .ite (fun _ => ?_) (fun _ => ?_)
            · exact .refl
            · refine .ite (fun _ => ?_) (fun _ => ?_)
              · refine .step ?_ (ih ..)
                refine .step ?_ (sendTrack_keeps ..)
                exact .refl
              · split
                · refine .step ?_ (ih ..)
                  refine .step ?_ (sendTrack_keeps ..)
                  refine OptSnd.pair (by assumption) ?_
                  refine .step ?_ (cacheHit_keeps ..)
                  exact .refl
                · refine .ite (fun _ => ?_) (fun _ => ?_)
                  · exact .refl
                  · split
                    · refine .step ?_ (sendTrack_keeps ..)
                      refine .step ?_ (bump_keeps ..)
                      refine .step ?_ (newTrack_keeps ..)
                      refine .step ?_ (setTrack_keeps ..)
                      exact .refl
                    · refine .step ?_ (newTrack_keeps ..)
                      refine .step ?_ (setTrack_keeps ..)
                      exact .refl

theorem pumpAll_keeps (s : State) :
    Keeps [.out, .regs, .cnt, .tasks, .eng, .ldl, .rel, .act, .lnk, .keys, .sys] s (pumpAll s) := by
  unfold pumpAll
  refine .foldl ?_ (fun _ _ _ => ?_)
  · exact .refl
  · refine .step ?_ (pumpDev_keeps ..)
    assumption

theorem issue_keeps (dev : ℕ) (k : Packet) (owner : ℕ) (kind : ReqKind) (first count : ℕ) (s : State) :
    Keeps [.out, .regs, .cnt, .tasks, .eng, .ldl, .rel, .act, .lnk, .keys, .sys] s (issue dev k owner kind first count s) := by
  unfold issue
  dsimp only
  refine .step ?_ (pumpDev_keeps ..)
  refine .step ?_ (newTrack_keeps ..)
  exact .refl

theorem addWaits_keeps (id n : ℕ) (s : State) :
    Keeps [.tasks] s (addWaits id n s) := by
  unfold addWaits
  refine .set_tasks ?_ _
  exact .refl

theorem respond_keeps (p : ℕ) (q : Packet) (op code : ℕ) (resc prom : Bool) (data : List Byte) (s : State) :
    Keeps [.out, .cnt, .act, .lnk, .keys] s (respond p q op code resc prom data s) := by
  unfold respond
  dsimp only
  split
  · exact .refl
  · refine .step ?_ (handOver_keeps ..)
    refine OptSnd.pair (by assumption) ?_
    refine .step ?_ (sealPacket_keeps ..)
    exact .refl

theorem nack_keeps (p : ℕ) (q : Packet) (code : ℕ) (s : State) :
    Keeps [.out, .cnt, .act, .lnk, .keys] s (nack p q code s) := by
  unfold nack
  dsimp only
  refine .step ?_ (respond_keeps ..)
  refine .ite (fun _ => ?_) (fun _ => ?_)
  · refine .step ?_ (bump_keeps ..)
    refine .step ?_ (bump_keeps ..)
    exact .refl
  · refine .step ?_ (bump_keeps ..)
    exact .refl

theorem sendNotice_keeps (p dev code cause : ℕ) (hop : Bool) (w4 w5 : ℕ) (s : State) :
    Keeps [.out, .cnt, .act, .lnk, .keys] s (sendNotice p dev code cause hop w4 w5 s) := by
  unfold sendNotice
  dsimp only
  split
  · exact .refl
  · refine .step ?_ (handOver_keeps ..)
    refine .step ?_ (bump_keeps ..)
    refine OptSnd.pair (by assumption) ?_
    refine .step ?_ (sealPacket_keeps ..)
    exact .refl

theorem noticeTo_keeps (dev code cause w4 w5 : ℕ) (s : State) :
    Keeps [.out, .cnt, .act, .lnk, .keys] s (noticeTo dev code cause w4 w5 s) := by
  unfold noticeTo
  split
  · exact .refl
  · refine .step ?_ (sendNotice_keeps ..)
    exact .refl

theorem slowNotice_keeps (code cause w4 w5 : ℕ) (s : State) :
    Keeps [.out, .cnt, .act, .lnk, .keys] s (slowNotice code cause w4 w5 s) := by
  unfold slowNotice
  dsimp only
  refine .ite (fun _ => ?_) (fun _ => ?_)
  · refine .foldl ?_ (fun _ _ _ => ?_)
    · exact .refl
    · refine .step ?_ (noticeTo_keeps ..)
      assumption
  · exact .refl

theorem noticeRecord_keeps (w0 w1 : Word) (code cause : ℕ) (unauth : Bool) (port tick : ℕ) (detail : List Word) (s : State) :
    Keeps [.out, .regs, .cnt, .mem, .poison, .epochs, .tasks, .prov, .crm, .hbm, .ecc, .cw, .ls, .ldl, .rel, .act, .sys, .free] s (noticeRecord w0 w1 code cause unauth port tick detail s) := by
  unfold noticeRecord
  dsimp only
  refine .ite (fun _ => ?_) (fun _ => ?_)
  · refine .step ?_ (raise_keeps ..)
    refine .step ?_ (bump_keeps ..)
    exact .refl
  · refine .step ?_ (intSet_keeps ..)
    refine .step ?_ (setReg_keeps ..)
    refine .step ?_ (wrBytes_keeps ..)
    refine .step ?_ (bump_keeps ..)
    exact .refl

/-! ### Machine/Move.lean -/

theorem moveTail_keeps (id : ℕ) (s : State) :
    Keeps [.out, .regs, .cnt, .tasks, .eng, .ldl, .rel, .act, .lnk, .keys, .sys] s (moveTail id s) := by
  unfold moveTail
  dsimp only
  split
  · exact .refl
  · refine .ite (fun _ => ?_) (fun _ => ?_)
    · exact .refl
    · refine .step ?_ (issue_keeps ..)
      refine .step ?_ (putTask_keeps ..)
      exact .refl

theorem movCount_keeps (t : Task) (wr : Bool) (reqs bytes : ℕ) (s : State) :
    Keeps [.cnt] s (movCount t wr reqs bytes s) := by
  unfold movCount
  dsimp only
  refine .step ?_ (bump_keeps ..)
  refine .step ?_ (bump_keeps ..)
  exact .refl

theorem writeEach_keeps (t t1 : Task) (src : ℕ → List Byte) (rs : List (ℕ × ℕ)) (s : State) :
    StepKeeps [.out, .regs, .cnt, .mem, .poison, .epochs, .tasks, .prov, .crm, .hbm, .ecc, .cw, .ls, .ldl, .rel,
        .act, .sys, .free] s (writeEach t t1 src rs s) := by
  have go (s0 : State) : ∀ u, Keeps [.out, .regs, .cnt, .mem, .poison, .epochs, .tasks, .prov, .crm, .hbm, .ecc,
      .cw, .ls, .ldl, .rel, .act, .sys, .free] s0 u →
      StepKeeps [.out, .regs, .cnt, .mem, .poison, .epochs, .tasks, .prov, .crm, .hbm, .ecc, .cw, .ls, .ldl, .rel,
          .act, .sys, .free] s0 (writeEach t t1 src rs u) := by
    induction rs with
    | nil => exact fun u h => h
    | cons r rs ih =>
      intro u h
      unfold writeEach
      exact writeBuf_keeps h (fun v hv => ih _ (hv.step (movCount_keeps ..)))
  exact go s s .refl

theorem afterSend_keeps {ps : List Part} {s0 s u : State} {id : Nat} (hs : Keeps ps s0 s) (h : Keeps ps s0 u) :
    StepKeeps ps s0 (afterSend id s u) := by
  unfold afterSend
  split
  · split
    · exact h
    · exact h
  · exact hs

theorem sendRun_keeps (t : Task) (src : ℕ → List Byte) (s : State) (r : ℕ × ℕ) :
    Keeps [.out, .regs, .cnt, .tasks, .eng, .ldl, .rel, .act, .lnk, .keys, .sys] s (sendRun t src s r) := by
  unfold sendRun
  dsimp only
  refine .step ?_ (movCount_keeps ..)
  refine .step ?_ (issue_keeps ..)
  exact .refl

theorem moveOut_keeps (t : Task) (stop : ℕ) (s : State) :
    StepKeeps [.out, .regs, .cnt, .mem, .poison, .epochs, .tasks, .prov, .eng, .crm, .hbm, .ecc, .cw, .ls, .ldl, .rel, .act, .lnk, .keys, .sys, .free] s (moveOut t stop s) := by
  unfold moveOut
  dsimp only
  split
  · refine .step ?_ (writeEach_keeps ..)
    exact .refl
  · split
    · trivial
    · refine afterSend_keeps ?_ ?_
      · exact .refl
      · refine .foldl ?_ (fun _ _ _ => ?_)
        · refine .step ?_ (putTask_keeps ..)
          exact .refl
        · refine .step ?_ (sendRun_keeps ..)
          assumption

theorem movStep_keeps (t : Task) (s : State) :
    StepKeeps [.out, .regs, .cnt, .mem, .poison, .epochs, .tasks, .prov, .eng, .crm, .hbm, .ecc, .cw, .ls, .ldl, .rel, .act, .lnk, .keys, .sys, .free] s (movStep t s) := by
  unfold movStep
  dsimp only
  split
  · split
    · trivial
    · refine afterSend_keeps ?_ ?_
      · exact .refl
      · refine .step ?_ (movCount_keeps ..)
        refine .step ?_ (issue_keeps ..)
        refine .step ?_ (putTask_keeps ..)
        exact .refl
  · refine readSpans_keeps ?_ (fun _ _ => ?_)
    · exact .refl
    · refine .step ?_ (moveOut_keeps ..)
      refine .step ?_ (movCount_keeps ..)
      assumption

theorem moveFlush_keeps (id : ℕ) (s : State) :
    Keeps [.out, .regs, .cnt, .mem, .poison, .epochs, .tasks, .prov, .eng, .crm, .hbm, .ecc, .cw, .ls, .ldl, .rel, .act, .lnk, .keys, .sys, .free] s (moveFlush id s) := by
  unfold moveFlush
  split
  · exact .refl
  · refine .ite (fun _ => ?_) (fun _ => ?_)
    · exact .refl
    · split
      · exact .refl
      · refine .step ?_ (finish_keeps ..)
        refine StepKeeps.fail (by assumption) ?_
        refine .step ?_ (moveOut_keeps ..)
        exact .refl
      · refine .step ?_ (putTask_keeps ..)
        refine StepKeeps.go (by assumption) ?_
        refine .step ?_ (moveOut_keeps ..)
        exact .refl

theorem copyEffect_keeps (id k cycles : ℕ) (s : State) :
    Keeps [.out, .regs, .cnt, .mem, .poison, .epochs, .tasks, .prov, .eng, .tck, .crm, .hbm, .ecc, .cw, .ls, .upset, .cross, .ldl, .rel, .arr, .act, .lnk, .keys, .sys, .free] s (copyEffect id k cycles s) := by
  unfold copyEffect
  refine .step ?_ (moveTail_keeps ..)
  refine runSlice_keeps ?_ (fun _ _ _ => ?_)
  · exact .refl
  · refine .step ?_ (movStep_keeps ..)
    assumption

theorem execCopy_keeps (task k cycles : ℕ) (s : State) :
    ResKeeps [.out, .regs, .cnt, .mem, .poison, .epochs, .tasks, .prov, .eng, .tck, .crm, .hbm, .ecc, .cw, .ls, .upset, .cross, .ldl, .rel, .arr, .act, .lnk, .keys, .sys, .free] s (execCopy task k cycles s) := by
  unfold execCopy
  change Keeps _ _ _
  refine .step ?_ (copyEffect_keeps ..)
  exact .refl

theorem movTaken_keeps (x : Track) (data : List Byte) (t : Task) (s : State) :
    Keeps [.out, .regs, .cnt, .mem, .poison, .epochs, .tasks, .prov, .eng, .crm, .hbm, .ecc, .cw, .ls, .ldl, .rel, .act, .lnk, .keys, .sys, .free] s (movTaken x data t s) := by
  unfold movTaken
  dsimp only
  refine .ite (fun _ => ?_) (fun _ => ?_)
  · exact .refl
  · split
    · refine .step ?_ (moveTail_keeps ..)
      refine .step ?_ (putTask_keeps ..)
      refine StepKeeps.go (by assumption) ?_
      refine .step ?_ (moveOut_keeps ..)
      exact .refl
    · refine .step ?_ (finish_keeps ..)
      refine StepKeeps.fail (by assumption) ?_
      refine .step ?_ (moveOut_keeps ..)
      exact .refl
    · refine .step ?_ (putTask_keeps ..)
      exact .refl

theorem movArrived_keeps (x : Track) (data : List Byte) (s : State) :
    Keeps [.out, .regs, .cnt, .mem, .poison, .epochs, .tasks, .prov, .eng, .crm, .hbm, .ecc, .cw, .ls, .ldl, .rel, .act, .lnk, .keys, .sys, .free] s (movArrived x data s) := by
  unfold movArrived
  split
  · exact .refl
  · refine forJob_keeps ?_ (fun _ _ => ?_)
    · exact .refl
    · refine .step ?_ (movTaken_keeps ..)
      assumption

theorem movAcked_keeps (id : ℕ) (s : State) :
    Keeps [.out, .regs, .cnt, .tasks, .eng, .ldl, .rel, .act, .lnk, .keys, .sys] s (movAcked id s) := by
  unfold movAcked
  split
  · exact .refl
  · refine .step ?_ (moveTail_keeps ..)
    refine .step ?_ (putTask_keeps ..)
    exact .refl

theorem readbackEnd_keeps (t : Task) (status : ℕ) (s : State) :
    Keeps [.out, .regs, .cnt, .tasks, .eng, .ldl, .sys] s (readbackEnd t status s) := by
  unfold readbackEnd
  dsimp only
  refine .ite (fun _ => ?_) (fun _ => ?_)
  · refine .step ?_ (finish_keeps ..)
    refine .ite (fun _ => ?_) (fun _ => ?_)
    · refine .step ?_ (bump_keeps ..)
      exact .refl
    · refine .step ?_ (raise_keeps ..)
      refine .step ?_ (bump_keeps ..)
      exact .refl
  · refine .step ?_ (finish_keeps ..)
    refine .ite (fun _ => ?_) (fun _ => ?_)
    · refine .step ?_ (bump_keeps ..)
      exact .refl
    · refine .step ?_ (raise_keeps ..)
      refine .step ?_ (bump_keeps ..)
      exact .refl

theorem readbackEffect_keeps (n : ℕ) (s0 : State) :
    Keeps [.out, .regs, .cnt, .mem, .poison, .epochs, .tasks, .prov, .eng, .crm, .hbm, .ecc, .cw, .ls, .ldl, .rel, .act, .lnk, .keys, .sys, .free] s0 (readbackEffect n s0) := by
  unfold readbackEffect
  dsimp only
  split
  · split
    · refine .step ?_ (moveFlush_keeps ..)
      exact .refl
    · exact .refl
  · refine .ite (fun _ => ?_) (fun _ => ?_)
    · split
      · refine .step ?_ (moveFlush_keeps ..)
        exact .refl
      · exact .refl
    · refine .ite (fun _ => ?_) (fun _ => ?_)
      · refine .step ?_ (readbackEnd_keeps ..)
        split
        · refine .step ?_ (moveFlush_keeps ..)
          exact .refl
        · exact .refl
      · split
        · split
          · refine .step ?_ (moveFlush_keeps ..)
            exact .refl
          · exact .refl
        · refine .step ?_ (readbackEnd_keeps ..)
          split
          · refine .step ?_ (moveFlush_keeps ..)
            exact .refl
          · exact .refl
        · refine .step ?_ (readbackEnd_keeps ..)
          refine .step ?_ (poisonRead_keeps ..)
          split
          · refine .step ?_ (moveFlush_keeps ..)
            exact .refl
          · exact .refl
        · refine .step ?_ (readbackEnd_keeps ..)
          refine forJob_keeps ?_ (fun _ _ => ?_)
          · split
            · refine .step ?_ (moveFlush_keeps ..)
              exact .refl
            · exact .refl
          · refine .step ?_ (touchReads_keeps ..)
            assumption

theorem execReadbackDone_keeps (n : Fin 8) (s : State) :
    ResKeeps [.out, .regs, .cnt, .mem, .poison, .epochs, .tasks, .prov, .eng, .crm, .hbm, .ecc, .cw, .ls, .ldl, .rel, .act, .lnk, .keys, .sys, .free] s (execReadbackDone n s) := by
  unfold execReadbackDone
  change Keeps _ _ _
  refine .step ?_ (readbackEffect_keeps ..)
  exact .refl

theorem retireRec_keeps (n i : ℕ) (s : State) :
    Keeps [.cnt, .ldl] s (retireRec n i s) := by
  unfold retireRec
  dsimp only
  split
  · exact .refl
  · refine .step ?_ (bump_keeps ..)
    refine .step ?_ (setLdl_keeps ..)
    exact .refl

theorem countMove_keeps (t : Task) (s : State) :
    Keeps [.cnt] s (countMove t s) := by
  unfold countMove
  refine .ite (fun _ => ?_) (fun _ => ?_)
  · refine .step ?_ (bump_keeps ..)
    exact .refl
  · exact .refl

theorem makeRecord_keeps (t : Task) (s : State) :
    Keeps [.cnt, .ldl] s (makeRecord t s) := by
  unfold makeRecord
  dsimp only
  refine .ite (fun _ => ?_) (fun _ => ?_)
  · exact .refl
  · refine .step ?_ (bump_keeps ..)
    refine .step ?_ (setLdl_keeps ..)
    refine .ite (fun _ => ?_) (fun _ => ?_)
    · refine .step ?_ (retireRec_keeps ..)
      exact .refl
    · exact .refl

theorem noteUse_keeps (t : Task) (n i : ℕ) (s : State) :
    Keeps [.cnt, .ldl] s (noteUse t n i s) := by
  unfold noteUse
  dsimp only
  split
  · exact .refl
  · refine .ite (fun _ => ?_) (fun _ => ?_)
    · refine .ite (fun _ => ?_) (fun _ => ?_)
      · refine .step ?_ (bump_keeps ..)
        refine .step ?_ (setLdl_keeps ..)
        exact .refl
      · refine .step ?_ (setLdl_keeps ..)
        exact .refl
    · refine .step ?_ (bump_keeps ..)
      refine .ite (fun _ => ?_) (fun _ => ?_)
      · refine .step ?_ (bump_keeps ..)
        refine .step ?_ (setLdl_keeps ..)
        exact .refl
      · refine .step ?_ (setLdl_keeps ..)
        exact .refl

theorem startRefetch_keeps (t : Task) (s : State) :
    Keeps [.cnt, .ldl] s (startRefetch t s).2 := by
  unfold startRefetch
  dsimp only
  split
  · dsimp only
    exact .refl
  · split
    · dsimp only
      exact .refl
    · dsimp only
      refine .ite (fun _ => ?_) (fun _ => ?_)
      · refine .step ?_ (setLdl_keeps ..)
        exact .refl
      · refine .step ?_ (bump_keeps ..)
        refine .step ?_ (setLdl_keeps ..)
        exact .refl

theorem releaseWaiting_keeps (n i : ℕ) (ok : Bool) (s : State) :
    Keeps [.out, .regs, .cnt, .tasks, .eng, .ldl, .sys] s (releaseWaiting n i ok s) := by
  unfold releaseWaiting
  dsimp only
  refine .foldl ?_ (fun _ _ _ => ?_)
  · exact .refl
  · refine .ite (fun _ => ?_) (fun _ => ?_)
    · refine .step ?_ (putTask_keeps ..)
      refine .step ?_ (startRefetch_keeps ..)
      assumption
    · refine .step ?_ (finish_keeps ..)
      assumption

theorem freshWaits_keeps (s : State) :
    Keeps [.cnt, .tasks, .ldl] s (freshWaits s) := by
  unfold freshWaits
  dsimp only
  refine .foldl ?_ (fun _ _ _ => ?_)
  · exact .refl
  · refine .step ?_ (putTask_keeps ..)
    refine .step ?_ (startRefetch_keeps ..)
    assumption

theorem copyRuns_keeps (t : Task) (self : ℕ × ℕ) (rs : List (ℕ × ℕ)) (e : ℕ) (s : State) :
    Keeps [.out, .regs, .cnt, .mem, .poison, .epochs, .tasks, .prov, .crm, .hbm, .ecc, .cw, .ls, .ldl, .rel, .act,
        .sys, .free] s (copyRuns t self rs e s).1 := by
  induction rs generalizing e s with
  | nil => exact .refl
  | cons r rs ih =>
    unfold copyRuns
    dsimp only
    split
    · refine .step ?_ (ih ..)
      refine forJob_keeps .refl (fun u hu => ?_)
      refine .step ?_ (writeRuns_keeps ..)
      refine .step ?_ (movCount_keeps ..)
      exact .step hu (touchReads_keeps ..)
    · exact .refl

theorem refetchBack_keeps {ps : List Part} {s0 : State} {t : Task} {x : State × ℕ × Need} (h : Keeps ps s0 x.1)
    (hp : [.out, .regs, .cnt, .crm, .hbm, .cw, .ls, .rel, .act, .sys,
        .free] ⊆ ps := by decide) : Keeps ps s0 (refetchBack t x).1 := by
  have sub {qs : List Part} {t u : State} (ht : Keeps ps s0 t) (k : Keeps qs t u)
      (hq : qs ⊆ [.out, .regs, .cnt, .crm, .hbm, .cw, .ls, .rel, .act, .sys,
          .free] := by decide) : Keeps ps s0 u := ht.step k (fun _ m => hp (hq m))
  unfold refetchBack
  split
  · exact h
  dsimp only
  have hb := sub h (bump_keeps (ldlPage (t.eng - 56) 0) 0 7 1 x.1)
  split
  · exact forJob_keeps hb (fun _ hu => hu.step (touchReads_keeps ..) (fun _ m => .tail _ (hp (by revert m; cases ‹Part› <;> decide))))
  · exact sub hb (raise_keeps ..)

theorem refetchEffect_keeps (n i : ℕ) (s : State) :
    Keeps [.out, .regs, .cnt, .mem, .poison, .epochs, .tasks, .prov, .eng, .crm, .hbm, .ecc, .cw, .ls, .ldl, .rel, .act, .sys, .free] s (refetchEffect n i s) := by
  unfold refetchEffect
  dsimp only
  split
  · refine .step ?_ (releaseWaiting_keeps ..)
    exact .refl
  · refine .ite (fun _ => ?_) (fun _ => ?_)
    · refine .step ?_ (releaseWaiting_keeps ..)
      exact .refl
    · refine .ite (fun _ => ?_) (fun _ => ?_)
      · exact .refl
      · split
        · refine .step ?_ (releaseWaiting_keeps ..)
          refine .step ?_ (setLdl_keeps ..)
          refine .step ?_ (bump_keeps ..)
          refine .step ?_ (addAct_keeps ..)
          refine .step ?_ (movCount_keeps ..)
          refine refetchBack_keeps ?_
          refine .step ?_ (copyRuns_keeps ..)
          exact .refl
        · refine .step ?_ (releaseWaiting_keeps ..)
          refine .step ?_ (retireRec_keeps ..)
          refine .step ?_ (poisonRead_keeps ..)
          refine .step ?_ (bump_keeps ..)
          refine .step ?_ (addAct_keeps ..)
          refine .step ?_ (movCount_keeps ..)
          refine refetchBack_keeps ?_
          refine .step ?_ (copyRuns_keeps ..)
          exact .refl
        · refine .step ?_ (releaseWaiting_keeps ..)
          refine .step ?_ (retireRec_keeps ..)
          refine .step ?_ (bump_keeps ..)
          refine .step ?_ (addAct_keeps ..)
          refine .step ?_ (movCount_keeps ..)
          refine refetchBack_keeps ?_
          refine .step ?_ (copyRuns_keeps ..)
          exact .refl

theorem execRefetchDone_keeps (n : Fin 8) (record : Fin 64) (s : State) :
    ResKeeps [.out, .regs, .cnt, .mem, .poison, .epochs, .tasks, .prov, .eng, .crm, .hbm, .ecc, .cw, .ls, .ldl, .rel, .act, .sys, .free] s (execRefetchDone n record s) := by
  unfold execRefetchDone
  change Keeps _ _ _
  refine .step ?_ (refetchEffect_keeps ..)
  exact .refl

theorem directModeEffect_keeps (n : ℕ) (v : Word) (s : State) :
    Keeps [.out, .regs, .sys] s (directModeEffect n v s) := by
  unfold directModeEffect
  dsimp only
  refine .ite (fun _ => ?_) (fun _ => ?_)
  · refine .step ?_ (raise_keeps ..)
    exact .refl
  · refine .step ?_ (storeReg_keeps ..)
    exact .refl

theorem execDirectModeWrite_keeps (who : Initiator) (n : Fin 8) (v : Word) (s : State) :
    ResKeeps [.out, .regs, .blk, .sys] s (execDirectModeWrite who n v s) := by
  unfold execDirectModeWrite
  change Keeps _ _ _
  refine regGuard_keeps ?_ (fun _ _ _ => ?_)
  · exact .refl
  · refine .step ?_ (directModeEffect_keeps ..)
    assumption

theorem chanWrite_keeps (n c r : ℕ) (v : Word) (s : State) :
    Keeps [.out, .regs, .ldl, .sys] s (chanWrite n c r v s) := by
  unfold chanWrite
  dsimp only
  refine .ite (fun _ => ?_) (fun _ => ?_)
  · refine .step ?_ (raise_keeps ..)
    exact .refl
  · refine .step ?_ (setLdl_keeps ..)
    exact .refl

theorem execChannelArm_keeps (who : Initiator) (n : Fin 8) (c : Fin 16) (v : Word) (s : State) :
    ResKeeps [.out, .regs, .blk, .ldl, .sys] s (execChannelArm who n c v s) := by
  unfold execChannelArm
  change Keeps _ _ _
  refine regGuard_keeps ?_ (fun _ _ _ => ?_)
  · exact .refl
  · refine .step ?_ (chanWrite_keeps ..)
    assumption

theorem descRead_keeps (n : ℕ) (x : Chan) (s : State) :
    Keeps [.out, .regs, .cnt, .poison, .crm, .hbm, .cw, .ls, .rel, .act, .sys, .free] s (descRead n x s) := by
  unfold descRead
  split
  · refine .step ?_ (poisonRead_keeps ..)
    exact .refl
  · refine .ite (fun _ => ?_) (fun _ => ?_)
    · refine forJob_keeps ?_ (fun _ _ => ?_)
      · exact .refl
      · refine .step ?_ (touchReads_keeps ..)
        assumption
    · exact .refl

theorem directStart_keeps (n c : ℕ) (s : State) :
    Keeps [.out, .regs, .cnt, .poison, .tasks, .nextTask, .eng, .crm, .hbm, .cw, .ls, .ldl, .rel, .act, .sys, .free] s (directStart n c s) := by
  unfold directStart
  dsimp only
  refine .ite (fun _ => ?_) (fun _ => ?_)
  · exact .refl
  · split
    · refine .step ?_ (finish_keeps ..)
      refine .mk rfl ?_ rfl (fun p hp => by cases p <;> first | with_reducible rfl | exact absurd (by decide) hp)
      refine .step ?_ (setLdl_keeps ..)
      refine .step ?_ (descRead_keeps ..)
      exact .refl
    · refine .step ?_ (setEng_keeps ..)
      refine .mk rfl ?_ rfl (fun p hp => by cases p <;> first | with_reducible rfl | exact absurd (by decide) hp)
      refine .step ?_ (setLdl_keeps ..)
      refine .step ?_ (descRead_keeps ..)
      exact .refl

theorem execDirectTransferStart_keeps (n : Fin 8) (c : Fin 16) (s : State) :
    ResKeeps [.out, .regs, .cnt, .poison, .tasks, .nextTask, .eng, .crm, .hbm, .cw, .ls, .ldl, .rel, .act, .sys, .free] s (execDirectTransferStart n c s) := by
  unfold execDirectTransferStart
  change Keeps _ _ _
  refine .step ?_ (directStart_keeps ..)
  exact .refl

/-! ### Machine/Adder.lean -/

theorem putBuck_keeps (b : Buck) (s : State) :
    Keeps [.lnk] s (putBuck b s) := by
  unfold putBuck
  dsimp only
  refine .set_lnk ?_ _
  exact .refl

theorem armSlot_keeps (adder job bucket : ℕ) (s : State) :
    Keeps [.lnk] s (armSlot adder job bucket s) := by
  unfold armSlot
  dsimp only
  split
  · refine .set_lnk ?_ _
    exact .refl
  · exact .refl

theorem copySlots_keeps (src dst : ℕ) (s : State) :
    Keeps [.lnk] s (copySlots src dst s) := by
  unfold copySlots
  dsimp only
  refine .ite (fun _ => ?_) (fun _ => ?_)
  · exact .refl
  · refine .foldl ?_ (fun _ _ _ => ?_)
    · exact .refl
    · refine .ite (fun _ => ?_) (fun _ => ?_)
      · assumption
      · split
        · refine .set_lnk ?_ _
          assumption
        · assumption

theorem disarm_keeps (job bucket : ℕ) (s : State) :
    Keeps [.lnk] s (disarm job bucket s) := by
  unfold disarm
  dsimp only
  refine .set_lnk ?_ _
  exact .refl

theorem noteSlots_keeps (b : Buck) (x1 len size : ℕ) (s : State) :
    Keeps [.cnt, .lnk] s (noteSlots b x1 len size s) := by
  unfold noteSlots
  dsimp only
  refine .foldl ?_ (fun _ _ _ => ?_)
  · exact .refl
  · split
    · assumption
    · refine .ite (fun _ => ?_) (fun _ => ?_)
      · refine .step ?_ (bump_keeps ..)
        refine .set_lnk ?_ _
        assumption
      · refine .set_lnk ?_ _
        assumption

theorem noteFlags_keeps (b : Buck) (x1 : ℕ) (resc prom : Bool) (s : State) :
    Keeps [.lnk] s (noteFlags b x1 resc prom s) := by
  unfold noteFlags
  dsimp only
  split
  · exact .refl
  · refine .set_lnk ?_ _
    exact .refl

theorem perform_keeps (b : Buck) (op code addr : ℕ) (data : List Byte) (s : State) :
    Keeps [.out, .regs, .cnt, .mem, .poison, .epochs, .tasks, .crm, .hbm, .ecc, .cw, .ls, .ldl, .rel, .act, .lnk, .sys, .free] s (perform b op code addr data s) := by
  unfold perform
  dsimp only
  refine .ite (fun _ => ?_) (fun _ => ?_)
  · refine .step ?_ (noteSlots_keeps ..)
    refine .step ?_ (adderWrite_keeps ..)
    refine .step ?_ (putBuck_keeps ..)
    exact .refl
  · refine .ite (fun _ => ?_) (fun _ => ?_)
    · refine .step ?_ (noteSlots_keeps ..)
      refine .step ?_ (addAct_keeps ..)
      refine .ite (fun _ => ?_) (fun _ => ?_)
      · refine .foldl ?_ (fun _ _ _ => ?_)
        · exact .refl
        · refine .step ?_ (noteFlags_keeps ..)
          refine .ite (fun _ => ?_) (fun _ => ?_)
          · refine .step ?_ (bump_keeps ..)
            refine .ite (fun _ => ?_) (fun _ => ?_)
            · refine .step ?_ (bump_keeps ..)
              refine .foldl ?_ (fun _ _ _ => ?_)
              · assumption
              · refine .step ?_ (adderWrite_keeps ..)
                assumption
            · refine .foldl ?_ (fun _ _ _ => ?_)
              · assumption
              · refine .step ?_ (adderWrite_keeps ..)
                assumption
          · refine .ite (fun _ => ?_) (fun _ => ?_)
            · refine .step ?_ (bump_keeps ..)
              refine .foldl ?_ (fun _ _ _ => ?_)
              · assumption
              · refine .step ?_ (adderWrite_keeps ..)
                assumption
            · refine .foldl ?_ (fun _ _ _ => ?_)
              · assumption
              · refine .step ?_ (adderWrite_keeps ..)
                assumption
      · split
        · refine .step ?_ (putBuck_keeps ..)
          refine .foldl ?_ (fun _ _ _ => ?_)
          · exact .refl
          · refine .step ?_ (noteFlags_keeps ..)
            refine .ite (fun _ => ?_) (fun _ => ?_)
            · refine .step ?_ (bump_keeps ..)
              refine .ite (fun _ => ?_) (fun _ => ?_)
              · refine .step ?_ (bump_keeps ..)
                refine .foldl ?_ (fun _ _ _ => ?_)
                · assumption
                · refine .step ?_ (adderWrite_keeps ..)
                  assumption
              · refine .foldl ?_ (fun _ _ _ => ?_)
                · assumption
                · refine .step ?_ (adderWrite_keeps ..)
                  assumption
            · refine .ite (fun _ => ?_) (fun _ => ?_)
              · refine .step ?_ (bump_keeps ..)
                refine .foldl ?_ (fun _ _ _ => ?_)
                · assumption
                · refine .step ?_ (adderWrite_keeps ..)
                  assumption
              · refine .foldl ?_ (fun _ _ _ => ?_)
                · assumption
                · refine .step ?_ (adderWrite_keeps ..)
                  assumption
        · refine .foldl ?_ (fun _ _ _ => ?_)
          · exact .refl
          · refine .step ?_ (noteFlags_keeps ..)
            refine .ite (fun _ => ?_) (fun _ => ?_)
            · refine .step ?_ (bump_keeps ..)
              refine .ite (fun _ => ?_) (fun _ => ?_)
              · refine .step ?_ (bump_keeps ..)
                refine .foldl ?_ (fun _ _ _ => ?_)
                · assumption
                · refine .step ?_ (adderWrite_keeps ..)
                  assumption
              · refine .foldl ?_ (fun _ _ _ => ?_)
                · assumption
                · refine .step ?_ (adderWrite_keeps ..)
                  assumption
            · refine .ite (fun _ => ?_) (fun _ => ?_)
              · refine .step ?_ (bump_keeps ..)
                refine .foldl ?_ (fun _ _ _ => ?_)
                · assumption
                · refine .step ?_ (adderWrite_keeps ..)
                  assumption
              · refine .foldl ?_ (fun _ _ _ => ?_)
                · assumption
                · refine .step ?_ (adderWrite_keeps ..)
                  assumption
    · refine .step ?_ (noteSlots_keeps ..)
      refine .step ?_ (addAct_keeps ..)
      refine .ite (fun _ => ?_) (fun _ => ?_)
      · refine .step ?_ (adderWrite_keeps ..)
        exact .refl
      · split
        · refine .step ?_ (putBuck_keeps ..)
          refine .step ?_ (adderWrite_keeps ..)
          exact .refl
        · refine .step ?_ (adderWrite_keeps ..)
          exact .refl

/-! ### Machine/Reduce.lean -/

theorem armTake_keeps (t : Task) (s : State) :
    Keeps [.lnk] s (armTake t s) := by
  unfold armTake
  dsimp only
  refine .set_lnk ?_ _
  refine .step ?_ (armSlot_keeps ..)
  refine .foldl ?_ (fun _ _ _ => ?_)
  · exact .refl
  · refine .step ?_ (armSlot_keeps ..)
    assumption

theorem disarmTask_keeps (t : Task) (s : State) :
    Keeps [.lnk] s (disarmTask t s) := by
  unfold disarmTask
  refine .step ?_ (disarm_keeps ..)
  refine .step ?_ (disarm_keeps ..)
  exact .refl

theorem sendRa_keeps (t : Task) (dev bucket : ℕ) (p : RaPkt) (s : State) :
    Keeps [.out, .regs, .cnt, .tasks, .eng, .ldl, .rel, .act, .lnk, .keys, .sys] s (sendRa t dev bucket p s) := by
  unfold sendRa
  dsimp only
  refine .step ?_ (issue_keeps ..)
  refine .step ?_ (addWaits_keeps ..)
  exact .refl

theorem ownRa_keeps (t : Task) (bucket : ℕ) (p : RaPkt) (s : State) :
    Keeps [.out, .regs, .cnt, .mem, .poison, .epochs, .tasks, .crm, .hbm, .ecc, .cw, .ls, .ldl, .rel, .act, .lnk, .sys, .free] s (ownRa t bucket p s) := by
  unfold ownRa
  split
  · refine .step ?_ (perform_keeps ..)
    exact .refl
  · exact .refl

theorem toMember_keeps (t : Task) (dev bucket : ℕ) (ps : List RaPkt) (s : State) :
    Keeps [.out, .regs, .cnt, .mem, .poison, .epochs, .tasks, .eng, .crm, .hbm, .ecc, .cw, .ls, .ldl, .rel, .act, .lnk, .keys, .sys, .free] s (toMember t dev bucket ps s) := by
  unfold toMember
  refine .foldl ?_ (fun _ _ _ => ?_)
  · exact .refl
  · refine .ite (fun _ => ?_) (fun _ => ?_)
    · refine .step ?_ (ownRa_keeps ..)
      assumption
    · refine .step ?_ (sendRa_keeps ..)
      assumption

theorem sendHop_keeps (t : Task) (plane first : ℕ) (p : RaPkt) (s : State) :
    Keeps [.out, .regs, .cnt, .tasks, .eng, .ldl, .rel, .act, .lnk, .keys, .sys] s (sendHop t plane first p s) := by
  unfold sendHop
  dsimp only
  refine .ite (fun _ => ?_) (fun _ => ?_)
  · refine .step ?_ (failOwner_keeps ..)
    refine .step ?_ (linkFault_keeps ..)
    exact .refl
  · split
    · refine .step ?_ (sendTrack_keeps ..)
      refine .step ?_ (newTrack_keeps ..)
      refine .step ?_ (addWaits_keeps ..)
      exact .refl
    · refine .step ?_ (newTrack_keeps ..)
      refine .step ?_ (addWaits_keeps ..)
      exact .refl

theorem castTo_keeps (t : Task) (kind r op : ℕ) (p : CastPkt) (s : State) :
    Keeps [.out, .regs, .cnt, .tasks, .eng, .ldl, .rel, .act, .lnk, .keys, .sys] s (castTo t kind r op p s) := by
  unfold castTo
  dsimp only
  split
  · exact .refl
  · refine .step ?_ (issue_keeps ..)
    refine .set_tasks ?_ _
    exact .refl

theorem catchUp_keeps (x0 x1 x2 : ℕ) (x3 : State) :
    Keeps [.out, .regs, .cnt, .poison, .tasks, .eng, .crm, .hbm, .cw, .ls, .ldl, .rel, .act, .lnk, .keys, .sys, .free] x3 (catchUp x0 x1 x2 x3) := by
  induction x0 generalizing x1 x2 x3
  · unfold catchUp
    exact .refl
  · rename_i n ih
    unfold catchUp
    dsimp only
    split
    · exact .refl
    · split
      · exact .refl
      · refine .ite (fun _ => ?_) (fun _ => ?_)
        · exact .refl
        · split
          · refine .step ?_ (ih ..)
            refine .step ?_ (putTask_keeps ..)
            exact .refl
          · refine .ite (fun _ => ?_) (fun _ => ?_)
            · exact .refl
            · split
              · exact .refl
              · refine .step ?_ (failOwner_keeps ..)
                exact .refl
              · refine .step ?_ (failOwner_keeps ..)
                refine .step ?_ (poisonRead_keeps ..)
                exact .refl
              · refine .step ?_ (ih ..)
                refine .step ?_ (bump_keeps ..)
                refine .step ?_ (castTo_keeps ..)
                refine forJob_keeps ?_ (fun _ _ => ?_)
                · refine .step ?_ (putTask_keeps ..)
                  exact .refl
                · refine .step ?_ (touchReads_keeps ..)
                  assumption

theorem detach_keeps (t : Task) (kind c r i : ℕ) (s : State) :
    Keeps [.cnt, .lnk] s (detach t kind c r i s).2 := by
  unfold detach
  dsimp only
  refine .step ?_ (bump_keeps ..)
  refine .set_lnk ?_ _
  exact .refl

theorem castEach_keeps (kind c r : ℕ) (ps : List CastPkt) (i : ℕ) (t : Task) (s : State) :
    StepKeeps [.out, .regs, .cnt, .poison, .tasks, .prov, .eng, .crm, .hbm, .cw, .ls, .ldl, .rel, .act, .lnk, .keys,
        .sys, .free] s (castEach kind c r ps i t s) := by
  have go (s0 : State) : ∀ i t u, Keeps [.out, .regs, .cnt, .poison, .tasks, .prov, .eng, .crm, .hbm, .cw, .ls,
      .ldl, .rel, .act, .lnk, .keys, .sys, .free] s0 u →
      StepKeeps [.out, .regs, .cnt, .poison, .tasks, .prov, .eng, .crm, .hbm, .cw, .ls, .ldl, .rel, .act, .lnk,
          .keys, .sys, .free] s0 (castEach kind c r ps i t u) := by
    induction ps with
    | nil => exact fun i t u h => h
    | cons p ps ih =>
      intro i t u h
      unfold castEach
      split
      · split
        · exact .step (.step (.step h (detach_keeps ..)) (putTask_keeps ..)) (catchUp_keeps ..)
        · exact h
      split
      · trivial
      refine readSpans_keeps h (fun v hv => ?_)
      have hc := Keeps.step (.step hv (putTask_keeps { t with members := t.members.modify r (fun y => { y with part := i + 1 }) } v))
        (castTo_keeps { t with members := t.members.modify r (fun y => { y with part := i + 1 }) } kind r 0x10 p _)
      dsimp only
      split
      · exact ih _ _ _ hc
      · exact hc
  exact go s i t s .refl

theorem castStep_keeps (t : Task) (s : State) (kind c r : ℕ) :
    StepKeeps [.out, .regs, .cnt, .poison, .tasks, .prov, .eng, .crm, .hbm, .cw, .ls, .ldl, .rel, .act, .lnk, .keys, .sys, .free] s (castStep t s kind c r) := by
  unfold castStep
  dsimp only
  split
  · change Keeps _ _ _
    refine .step ?_ (catchUp_keeps ..)
    refine .step ?_ (putTask_keeps ..)
    exact .refl
  · refine .step ?_ (castEach_keeps ..)
    exact .refl

theorem mcastAcked_keeps (id r bytes : ℕ) (s : State) :
    Keeps [.out, .regs, .cnt, .poison, .tasks, .eng, .crm, .hbm, .cw, .ls, .ldl, .rel, .act, .lnk, .keys, .sys, .free] s (mcastAcked id r bytes s) := by
  unfold mcastAcked
  dsimp only
  refine .step ?_ (catchUp_keeps ..)
  refine .set_tasks ?_ _
  exact .refl

theorem beginCast_keeps (t : Task) (s : State) :
    Keeps [.lnk] s (beginCast t s) := by
  unfold beginCast
  dsimp only
  refine .ite (fun _ => ?_) (fun _ => ?_)
  · refine .set_lnk ?_ _
    exact .refl
  · exact .refl

theorem armStep_keeps (t : Task) (s : State) :
    StepKeeps [.out, .regs, .cnt, .mem, .poison, .epochs, .tasks, .prov, .crm, .hbm, .ecc, .cw, .ls, .ldl, .rel, .act, .sys, .free] s (armStep t s) := by
  unfold armStep
  dsimp only
  split
  · change Keeps _ _ _
    exact .refl
  · split
    · trivial
    · change Keeps _ _ _
      exact .refl
    · change Keeps _ _ _
      refine .foldl ?_ (fun _ _ _ => ?_)
      · exact .refl
      · refine .step ?_ (wrBytes_keeps ..)
        assumption

theorem withReads_keeps {ps : List Part} {s0 s : State} {t : Task} {spans : List (Nat × Nat)} {qs : State → List RaPkt}
    {k : State → State} (h : Keeps ps s0 s) (hk : ∀ u, Keeps ps s0 u → Keeps ps s0 (k u))
    (hp : [.out, .regs, .cnt, .poison, .prov, .crm, .hbm, .cw, .ls, .rel, .act, .sys, .free,
        .tasks] ⊆ ps := by decide) : StepKeeps ps s0 (withReads t spans qs s k) := by
  have sub {qs : List Part} {t u : State} (ht : Keeps ps s0 t) (k : Keeps qs t u)
      (hq : qs ⊆ [.out, .regs, .cnt, .poison, .prov, .crm, .hbm, .cw, .ls, .rel, .act, .sys, .free,
          .tasks] := by decide) : Keeps ps s0 u := ht.step k (fun _ m => hp (hq m))
  unfold withReads
  split
  · trivial
  refine readSpans_keeps h (fun u hu => ?_) (fun _ m => hp (by revert m; cases ‹Part› <;> decide))
  have hs := hk _ (sub hu (putTask_keeps { t with pos := t.pos + 1 } u))
  dsimp only
  split
  · exact hs
  · exact hs

theorem flagOut_keeps (t : Task) (s : State) :
    Keeps [.out, .regs, .cnt, .mem, .poison, .epochs, .tasks, .prov, .crm, .hbm, .ecc, .cw, .ls, .ldl, .rel, .act, .sys, .free] s (flagOut t s) := by
  unfold flagOut
  refine .ite (fun _ => ?_) (fun _ => ?_)
  · refine .step ?_ (releaseLate_keeps ..)
    refine forJob_keeps ?_ (fun _ _ => ?_)
    · exact .refl
    · refine .step ?_ (wrBytes_keeps ..)
      assumption
  · exact .refl

theorem fetchFinite_keeps (t : Task) (s : State) :
    StepKeeps [.out, .regs, .cnt, .tasks, .eng, .ldl, .rel, .act, .lnk, .keys, .sys] s (fetchFinite t s) := by
  unfold fetchFinite
  dsimp only
  split
  · trivial
  · split
    · change Keeps _ _ _
      refine .step ?_ (issue_keeps ..)
      refine .step ?_ (putTask_keeps ..)
      exact .refl
    · change Keeps _ _ _
      refine .step ?_ (issue_keeps ..)
      refine .step ?_ (putTask_keeps ..)
      exact .refl

theorem finiteArrived_keeps (x : Track) (data : List Byte) (s : State) :
    Keeps [.tasks] s (finiteArrived x data s) := by
  unfold finiteArrived
  dsimp only
  split
  · exact .refl
  · refine .step ?_ (putTask_keeps ..)
    exact .refl

theorem allGranule_keeps (t : Task) (s : State) :
    StepKeeps [.out, .regs, .cnt, .mem, .poison, .epochs, .tasks, .prov, .eng, .crm, .hbm, .ecc, .cw, .ls, .ldl, .rel, .act, .lnk, .keys, .sys, .free] s (allGranule t s) := by
  unfold allGranule
  dsimp only
  split
  · change Keeps _ _ _
    exact .refl
  · split
    · split
      · refine withReads_keeps ?_ (fun _ _ => ?_)
        · exact .refl
        · refine .step ?_ (toMember_keeps ..)
          assumption
      · split
        · refine .step ?_ (fetchFinite_keeps ..)
          exact .refl
        · refine withReads_keeps ?_ (fun _ _ => ?_)
          · exact .refl
          · refine .step ?_ (toMember_keeps ..)
            assumption
    · refine withReads_keeps ?_ (fun _ _ => ?_)
      · exact .refl
      · refine .foldl ?_ (fun _ _ _ => ?_)
        · assumption
        · refine .step ?_ (sendHop_keeps ..)
          assumption
    · refine withReads_keeps ?_ (fun _ _ => ?_)
      · exact .refl
      · refine .step ?_ (sendHop_keeps ..)
        refine .step ?_ (flagOut_keeps ..)
        assumption
    · refine withReads_keeps ?_ (fun _ _ => ?_)
      · exact .refl
      · refine .foldl ?_ (fun _ _ _ => ?_)
        · assumption
        · refine .step ?_ (sendRa_keeps ..)
          assumption
    · refine .step ?_ (castStep_keeps ..)
      exact .refl
    · refine withReads_keeps ?_ (fun _ _ => ?_)
      · exact .refl
      · refine .step ?_ (sendRa_keeps ..)
        refine .step ?_ (flagOut_keeps ..)
        assumption
    · split
      · change Keeps _ _ _
        exact .refl
      · split
        · refine readSpans_keeps ?_ (fun _ _ => ?_)
          · exact .refl
          · refine writeBuf_keeps ?_ (fun _ _ => ?_)
            · assumption
            · split
              · change Keeps _ _ _
                assumption
              · refine .step ?_ (castStep_keeps ..)
                assumption
        · split
          · change Keeps _ _ _
            exact .refl
          · refine .step ?_ (castStep_keeps ..)
            exact .refl
    · refine withReads_keeps ?_ (fun _ _ => ?_)
      · exact .refl
      · refine .step ?_ (toMember_keeps ..)
        refine .step ?_ (flagOut_keeps ..)
        assumption

theorem redStep_keeps (t : Task) (s : State) :
    StepKeeps [.out, .regs, .cnt, .mem, .poison, .epochs, .tasks, .prov, .eng, .crm, .hbm, .ecc, .cw, .ls, .ldl, .rel, .act, .lnk, .keys, .sys, .free] s (redStep t s) := by
  unfold redStep
  dsimp only
  split
  · refine .step ?_ (armStep_keeps ..)
    exact .refl
  · split
    · split
      · change Keeps _ _ _
        refine StepKeeps.go (by assumption) ?_
        split
        · refine .step ?_ (allGranule_keeps ..)
          exact .refl
        · split
          · change Keeps _ _ _
            exact .refl
          · refine .step ?_ (castStep_keeps ..)
            exact .refl
      · change Keeps _ _ _
        refine StepKeeps.go (by assumption) ?_
        split
        · refine .step ?_ (allGranule_keeps ..)
          exact .refl
        · split
          · change Keeps _ _ _
            exact .refl
          · refine .step ?_ (castStep_keeps ..)
            exact .refl
    · split
      · refine .step ?_ (allGranule_keeps ..)
        exact .refl
      · split
        · change Keeps _ _ _
          exact .refl
        · refine .step ?_ (castStep_keeps ..)
          exact .refl

theorem redSlice_keeps (op id k cycles : ℕ) (s : State) :
    Keeps [.out, .regs, .cnt, .mem, .poison, .epochs, .tasks, .prov, .eng, .tck, .crm, .hbm, .ecc, .cw, .ls, .upset, .cross, .ldl, .rel, .arr, .act, .lnk, .keys, .sys, .free] s (redSlice op id k cycles s) := by
  unfold redSlice
  refine runSlice_keeps ?_ (fun _ _ _ => ?_)
  · exact .refl
  · refine .step ?_ (redStep_keeps ..)
    assumption

theorem execRedArm_keeps (task k cycles : ℕ) (s : State) :
    ResKeeps [.out, .regs, .cnt, .mem, .poison, .epochs, .tasks, .prov, .eng, .tck, .crm, .hbm, .ecc, .cw, .ls, .upset, .cross, .ldl, .rel, .arr, .act, .lnk, .keys, .sys, .free] s (execRedArm task k cycles s) := by
  unfold execRedArm
  change Keeps _ _ _
  refine .step ?_ (redSlice_keeps ..)
  exact .refl

theorem execAllreduce_keeps (task k cycles : ℕ) (s : State) :
    ResKeeps [.out, .regs, .cnt, .mem, .poison, .epochs, .tasks, .prov, .eng, .tck, .crm, .hbm, .ecc, .cw, .ls, .upset, .cross, .ldl, .rel, .arr, .act, .lnk, .keys, .sys, .free] s (execAllreduce task k cycles s) := by
  unfold execAllreduce
  change Keeps _ _ _
  refine .step ?_ (redSlice_keeps ..)
  exact .refl

theorem execMulticast_keeps (task k cycles : ℕ) (s : State) :
    ResKeeps [.out, .regs, .cnt, .mem, .poison, .epochs, .tasks, .prov, .eng, .tck, .crm, .hbm, .ecc, .cw, .ls, .upset, .cross, .ldl, .rel, .arr, .act, .lnk, .keys, .sys, .free] s (execMulticast task k cycles s) := by
  unfold execMulticast
  change Keeps _ _ _
  refine .step ?_ (redSlice_keeps ..)
  exact .refl

theorem countReg_keeps (page off : ℕ) (s : State) :
    Keeps [.regs] s (countReg page off s) := by
  unfold countReg
  refine .step ?_ (setReg_keeps ..)
  exact .refl

theorem redSample_keeps (t : Task) (s : State) :
    Keeps [.regs, .lnk] s (redSample t s) := by
  unfold redSample
  dsimp only
  refine .ite (fun _ => ?_) (fun _ => ?_)
  · exact .refl
  · refine .ite (fun _ => ?_) (fun _ => ?_)
    · refine .set_lnk ?_ _
      exact .refl
    · refine .ite (fun _ => ?_) (fun _ => ?_)
      · refine .step ?_ (countReg_keeps ..)
        refine .set_lnk ?_ _
        exact .refl
      · refine .ite (fun _ => ?_) (fun _ => ?_)
        · refine .set_lnk ?_ _
          exact .refl
        · refine .set_lnk ?_ _
          exact .refl

theorem redCompare_keeps (t : Task) (s : State) :
    Keeps [.out, .regs, .cnt, .mem, .poison, .epochs, .tasks, .prov, .crm, .hbm, .ecc, .cw, .ls, .ldl, .rel, .act, .lnk, .sys, .free] s (redCompare t s).2 := by
  unfold redCompare
  dsimp only
  split
  · dsimp only
    exact .refl
  · split
    · dsimp only
      exact .refl
    · split
      · dsimp only
        refine .step ?_ (countReg_keeps ..)
        refine .set_lnk ?_ _
        exact .refl
      · split
        · dsimp only
          refine .step ?_ (countReg_keeps ..)
          refine .set_lnk ?_ _
          exact .refl
        · dsimp only
          refine .ite (fun _ => ?_) (fun _ => ?_)
          · refine forJob_keeps ?_ (fun _ _ => ?_)
            · refine .step ?_ (intSet_keeps ..)
              refine .step ?_ (raiseEv_keeps ..)
              refine .ite (fun _ => ?_) (fun _ => ?_)
              · refine .step ?_ (countReg_keeps ..)
                refine .step ?_ (countReg_keeps ..)
                refine .set_lnk ?_ _
                exact .refl
              · refine .step ?_ (setReg_keeps ..)
                refine .step ?_ (countReg_keeps ..)
                refine .step ?_ (countReg_keeps ..)
                refine .set_lnk ?_ _
                exact .refl
            · refine .step ?_ (wrBytes_keeps ..)
              assumption
          · refine .step ?_ (intSet_keeps ..)
            refine .step ?_ (raiseEv_keeps ..)
            refine .ite (fun _ => ?_) (fun _ => ?_)
            · refine .step ?_ (countReg_keeps ..)
              refine .step ?_ (countReg_keeps ..)
              refine .set_lnk ?_ _
              exact .refl
            · refine .step ?_ (setReg_keeps ..)
              refine .step ?_ (countReg_keeps ..)
              refine .step ?_ (countReg_keeps ..)
              refine .set_lnk ?_ _
              exact .refl

theorem advanceStage_keeps (x0 : ℕ) (x1 : Task) (x2 : State) :
    Keeps [.out, .regs, .cnt, .mem, .poison, .epochs, .tasks, .prov, .crm, .hbm, .ecc, .cw, .ls, .ldl, .rel, .act, .lnk, .sys, .free] x2 (advanceStage x0 x1 x2).2.1 := by
  induction x0 generalizing x1 x2
  · unfold advanceStage
    dsimp only
    exact .refl
  · rename_i n ih
    unfold advanceStage
    dsimp only
    split
    · dsimp only
      exact .refl
    · split
      · dsimp only
        split
        · refine .step ?_ (redCompare_keeps ..)
          exact .refl
        · dsimp only
          exact .refl
      · split
        · split
          · refine .step ?_ (ih ..)
            refine .step ?_ (beginCast_keeps ..)
            refine .step ?_ (redCompare_keeps ..)
            exact .refl
          · dsimp only
            refine .step ?_ (beginCast_keeps ..)
            refine .step ?_ (redCompare_keeps ..)
            exact .refl
        · split
          · refine .step ?_ (ih ..)
            refine .step ?_ (beginCast_keeps ..)
            dsimp only
            exact .refl
          · dsimp only
            refine .step ?_ (beginCast_keeps ..)
            exact .refl

theorem unpark_keeps (id : ℕ) (s : State) :
    Keeps [.out, .regs, .cnt, .mem, .poison, .epochs, .tasks, .prov, .eng, .crm, .hbm, .ecc, .cw, .ls, .ldl, .rel, .act, .lnk, .sys, .free] s (unpark id s) := by
  unfold unpark
  dsimp only
  split
  · exact .refl
  · refine .ite (fun _ => ?_) (fun _ => ?_)
    · exact .refl
    · refine .ite (fun _ => ?_) (fun _ => ?_)
      · exact .refl
      · refine .ite (fun _ => ?_) (fun _ => ?_)
        · refine .step ?_ (finish_keeps ..)
          refine .step ?_ (putTask_keeps ..)
          split
          · dsimp only
            exact .refl
          · refine .step ?_ (advanceStage_keeps ..)
            exact .refl
        · refine .ite (fun _ => ?_) (fun _ => ?_)
          · refine .step ?_ (putTask_keeps ..)
            split
            · dsimp only
              exact .refl
            · refine .step ?_ (advanceStage_keeps ..)
              exact .refl
          · refine .ite (fun _ => ?_) (fun _ => ?_)
            · refine .step ?_ (setEng_keeps ..)
              refine .step ?_ (putTask_keeps ..)
              split
              · dsimp only
                exact .refl
              · refine .step ?_ (advanceStage_keeps ..)
                exact .refl
            · refine .ite (fun _ => ?_) (fun _ => ?_)
              · refine .step ?_ (setEng_keeps ..)
                refine .step ?_ (putTask_keeps ..)
                split
                · dsimp only
                  exact .refl
                · refine .step ?_ (advanceStage_keeps ..)
                  exact .refl
              · refine .step ?_ (putTask_keeps ..)
                split
                · dsimp only
                  exact .refl
                · refine .step ?_ (advanceStage_keeps ..)
                  exact .refl

theorem execTaskUnpark_keeps (task : ℕ) (s : State) :
    ResKeeps [.out, .regs, .cnt, .mem, .poison, .epochs, .tasks, .prov, .eng, .crm, .hbm, .ecc, .cw, .ls, .ldl, .rel, .act, .lnk, .sys, .free] s (execTaskUnpark task s) := by
  unfold execTaskUnpark
  change Keeps _ _ _
  refine .step ?_ (unpark_keeps ..)
  exact .refl

theorem exchanged_keeps (x : Track) (k : Packet) (data : List Byte) (s : State) :
    Keeps [.out, .regs, .cnt, .mem, .poison, .epochs, .tasks, .prov, .crm, .hbm, .ecc, .cw, .ls, .ldl, .rel, .act, .sys, .free] s (exchanged x k data s) := by
  unfold exchanged
  dsimp only
  split
  · exact .refl
  · refine .ite (fun _ => ?_) (fun _ => ?_)
    · exact .refl
    · split
      · refine .step ?_ (putTask_keeps ..)
        exact .refl
      · refine .ite (fun _ => ?_) (fun _ => ?_)
        · refine forJob_keeps ?_ (fun _ _ => ?_)
          · refine .step ?_ (putTask_keeps ..)
            exact .refl
          · refine .step ?_ (wrBytes_keeps ..)
            assumption
        · refine .ite (fun _ => ?_) (fun _ => ?_)
          · refine forJob_keeps ?_ (fun _ _ => ?_)
            · refine .step ?_ (putTask_keeps ..)
              exact .refl
            · dsimp only [Function.comp]
              refine .step ?_ (wrBytes_keeps ..)
              refine .step ?_ (wrBytes_keeps ..)
              assumption
          · refine forJob_keeps ?_ (fun _ _ => ?_)
            · refine .step ?_ (putTask_keeps ..)
              exact .refl
            · dsimp only [Function.comp]
              refine .step ?_ (wrBytes_keeps ..)
              refine .step ?_ (wrBytes_keeps ..)
              assumption

theorem redAcked_keeps (x : Track) (k : Packet) (s : State) :
    Keeps [.tasks, .lnk] s (redAcked x k s) := by
  unfold redAcked
  dsimp only
  refine .ite (fun _ => ?_) (fun _ => ?_)
  · refine .mk rfl ?_ rfl (fun p hp => by cases p <;> first | with_reducible rfl | exact absurd (by decide) hp)
    exact .refl
  · refine .set_tasks ?_ _
    exact .refl

theorem execRedFailFirstRead_keeps (who : Initiator) (s : State) :
    ResKeeps [.resp, .out, .regs, .sys] s (execRedFailFirstRead who s) := by
  unfold execRedFailFirstRead
  change Keeps _ _ _
  refine .step ?_ (readClear_keeps ..)
  exact .refl

/-! ### Machine/LinkRx.lean -/

theorem authFail_keeps (p : ℕ) (k : Packet) (s : State) :
    Keeps [.out, .regs, .cnt, .rel, .act, .lnk, .keys, .sys, .free] s (authFail p k s) := by
  unfold authFail
  dsimp only
  split
  · refine .step ?_ (nack_keeps ..)
    refine .step ?_ (raiseEv_keeps ..)
    refine .step ?_ (bump_keeps ..)
    exact .refl
  · refine .step ?_ (handOver_keeps ..)
    refine .step ?_ (draw_keeps ..)
    refine .step ?_ (draw_keeps ..)
    refine .step ?_ (bump_keeps ..)
    refine .step ?_ (raiseEv_keeps ..)
    refine .step ?_ (bump_keeps ..)
    exact .refl

theorem accept_keeps {ps : List Part} {s0 s : State} {p : Nat} {k : Packet} {n : Nat} {f : List Byte → State → State}
    (h : Keeps ps s0 s) (hf : ∀ d u, Keeps (.actJob :: ps) s0 u → Keeps (.actJob :: ps) s0 (f d u))
    (hp : [.out, .regs, .cnt, .rel, .act, .lnk, .keys, .sys, .free] ⊆ ps := by decide) : Keeps ps s0 (accept p k n f s) := by
  have sub {qs : List Part} {t u : State} (ht : Keeps ps s0 t) (k : Keeps qs t u)
      (hq : qs ⊆ [.out, .regs, .cnt, .rel, .act, .lnk, .keys, .sys,
          .free] := by decide) : Keeps ps s0 u := ht.step k (fun _ m => hp (hq m))
  unfold accept
  refine .ite (fun _ => h) (fun _ => .ite (fun _ => sub h (rxCheck_keeps ..)) (fun _ => ?_))
  split
  · exact sub (sub h (takeOff_keeps ..)) (nack_keeps ..)
  refine .ite (fun _ => sub (sub h (takeOff_keeps ..)) (nack_keeps ..)) (fun _ => ?_)
  split
  · exact sub (sub h (takeOff_keeps ..)) (authFail_keeps ..)
  · exact forJob_keeps h (fun _ hu => hf _ _ hu)

theorem readEffect_keeps (p : ℕ) (k : Packet) (s : State) :
    Keeps [.out, .regs, .cnt, .poison, .crm, .hbm, .cw, .ls, .rel, .act, .lnk, .keys, .sys, .free] s (readEffect p k s) := by
  unfold readEffect
  dsimp only
  refine accept_keeps ?_ (fun _ _ _ => ?_)
  · exact .refl
  · split
    · assumption
    · refine .step ?_ (nack_keeps ..)
      refine .step ?_ (takeOff_keeps ..)
      assumption
    · refine .step ?_ (nack_keeps ..)
      refine .step ?_ (poisonRead_keeps ..)
      refine .step ?_ (takeOff_keeps ..)
      assumption
    · refine .step ?_ (respond_keeps ..)
      refine .step ?_ (touchReads_keeps ..)
      refine .step ?_ (takeOff_keeps ..)
      assumption

theorem execRead_keeps (p : Fin 16) (k : Packet) (s : State) :
    ResKeeps [.out, .regs, .cnt, .poison, .crm, .hbm, .cw, .ls, .rel, .act, .lnk, .keys, .sys, .free] s (execRead p k s) := by
  unfold execRead
  change Keeps _ _ _
  refine .step ?_ (readEffect_keeps ..)
  exact .refl

theorem writeEffect_keeps (p : ℕ) (k : Packet) (s : State) :
    Keeps [.out, .regs, .cnt, .mem, .poison, .epochs, .tasks, .prov, .crm, .hbm, .ecc, .cw, .ls, .ldl, .rel, .act, .lnk, .keys, .sys, .free] s (writeEffect p k s) := by
  unfold writeEffect
  refine accept_keeps ?_ (fun _ _ _ => ?_)
  · exact .refl
  · split
    · assumption
    · refine .step ?_ (nack_keeps ..)
      refine .step ?_ (takeOff_keeps ..)
      assumption
    · refine .step ?_ (respond_keeps ..)
      refine .step ?_ (wrBytes_keeps ..)
      refine .step ?_ (takeOff_keeps ..)
      assumption

theorem execWrite_keeps (p : Fin 16) (k : Packet) (s : State) :
    ResKeeps [.out, .regs, .cnt, .mem, .poison, .epochs, .tasks, .prov, .crm, .hbm, .ecc, .cw, .ls, .ldl, .rel, .act, .lnk, .keys, .sys, .free] s (execWrite p k s) := by
  unfold execWrite
  change Keeps _ _ _
  refine .step ?_ (writeEffect_keeps ..)
  exact .refl

theorem execMcastWrite_keeps (p : Fin 16) (k : Packet) (s : State) :
    ResKeeps [.out, .regs, .cnt, .mem, .poison, .epochs, .tasks, .prov, .crm, .hbm, .ecc, .cw, .ls, .ldl, .rel, .act, .lnk, .keys, .sys, .free] s (execMcastWrite p k s) := by
  unfold execMcastWrite
  change Keeps _ _ _
  refine .step ?_ (writeEffect_keeps ..)
  exact .refl

theorem raEffect_keeps (p : ℕ) (k : Packet) (s : State) :
    Keeps [.out, .regs, .cnt, .mem, .poison, .epochs, .tasks, .crm, .hbm, .ecc, .cw, .ls, .ldl, .rel, .act, .lnk, .keys, .sys, .free] s (raEffect p k s) := by
  unfold raEffect
  dsimp only
  refine accept_keeps ?_ (fun _ _ _ => ?_)
  · exact .refl
  · refine .ite (fun _ => ?_) (fun _ => ?_)
    · refine .step ?_ (nack_keeps ..)
      refine .step ?_ (takeOff_keeps ..)
      assumption
    · split
      · refine .step ?_ (nack_keeps ..)
        refine .step ?_ (bump_keeps ..)
        refine .step ?_ (takeOff_keeps ..)
        assumption
      · refine .ite (fun _ => ?_) (fun _ => ?_)
        · refine .step ?_ (nack_keeps ..)
          refine .step ?_ (bump_keeps ..)
          refine .step ?_ (takeOff_keeps ..)
          assumption
        · refine .ite (fun _ => ?_) (fun _ => ?_)
          · refine .step ?_ (nack_keeps ..)
            refine .step ?_ (takeOff_keeps ..)
            assumption
          · refine .ite (fun _ => ?_) (fun _ => ?_)
            · refine .step ?_ (nack_keeps ..)
              refine .step ?_ (takeOff_keeps ..)
              assumption
            · split
              · assumption
              · refine .step ?_ (nack_keeps ..)
                refine .step ?_ (takeOff_keeps ..)
                assumption
              · refine .step ?_ (respond_keeps ..)
                refine .step ?_ (perform_keeps ..)
                refine .step ?_ (takeOff_keeps ..)
                assumption

theorem execRaAddF32_keeps (p : Fin 16) (k : Packet) (s : State) :
    ResKeeps [.out, .regs, .cnt, .mem, .poison, .epochs, .tasks, .crm, .hbm, .ecc, .cw, .ls, .ldl, .rel, .act, .lnk, .keys, .sys, .free] s (execRaAddF32 p k s) := by
  unfold execRaAddF32
  change Keeps _ _ _
  refine .step ?_ (raEffect_keeps ..)
  exact .refl

theorem execRaAddBf16_keeps (p : Fin 16) (k : Packet) (s : State) :
    ResKeeps [.out, .regs, .cnt, .mem, .poison, .epochs, .tasks, .crm, .hbm, .ecc, .cw, .ls, .ldl, .rel, .act, .lnk, .keys, .sys, .free] s (execRaAddBf16 p k s) := by
  unfold execRaAddBf16
  change Keeps _ _ _
  refine .step ?_ (raEffect_keeps ..)
  exact .refl

theorem execRaAddMx8_keeps (p : Fin 16) (k : Packet) (s : State) :
    ResKeeps [.out, .regs, .cnt, .mem, .poison, .epochs, .tasks, .crm, .hbm, .ecc, .cw, .ls, .ldl, .rel, .act, .lnk, .keys, .sys, .free] s (execRaAddMx8 p k s) := by
  unfold execRaAddMx8
  change Keeps _ _ _
  refine .step ?_ (raEffect_keeps ..)
  exact .refl

theorem execRaMax_keeps (p : Fin 16) (k : Packet) (s : State) :
    ResKeeps [.out, .regs, .cnt, .mem, .poison, .epochs, .tasks, .crm, .hbm, .ecc, .cw, .ls, .ldl, .rel, .act, .lnk, .keys, .sys, .free] s (execRaMax p k s) := by
  unfold execRaMax
  change Keeps _ _ _
  refine .step ?_ (raEffect_keeps ..)
  exact .refl

theorem execRaAnd_keeps (p : Fin 16) (k : Packet) (s : State) :
    ResKeeps [.out, .regs, .cnt, .mem, .poison, .epochs, .tasks, .crm, .hbm, .ecc, .cw, .ls, .ldl, .rel, .act, .lnk, .keys, .sys, .free] s (execRaAnd p k s) := by
  unfold execRaAnd
  change Keeps _ _ _
  refine .step ?_ (raEffect_keeps ..)
  exact .refl

theorem resolveEffect_keeps (p : ℕ) (k : Packet) (s : State) :
    Keeps [.out, .regs, .cnt, .rel, .act, .lnk, .keys, .sys, .free] s (resolveEffect p k s) := by
  unfold resolveEffect
  dsimp only
  refine accept_keeps ?_ (fun _ _ _ => ?_)
  · exact .refl
  · refine .step ?_ (respond_keeps ..)
    refine .step ?_ (takeOff_keeps ..)
    assumption

theorem execResolve_keeps (p : Fin 16) (k : Packet) (s : State) :
    ResKeeps [.out, .regs, .cnt, .rel, .act, .lnk, .keys, .sys, .free] s (execResolve p k s) := by
  unfold execResolve
  change Keeps _ _ _
  refine .step ?_ (resolveEffect_keeps ..)
  exact .refl

theorem noticeEffect_keeps (p : ℕ) (k : Packet) (s : State) :
    Keeps [.out, .regs, .cnt, .mem, .poison, .epochs, .tasks, .prov, .crm, .hbm, .ecc, .cw, .ls, .ldl, .rel, .act, .lnk, .sys, .free] s (noticeEffect p k s) := by
  unfold noticeEffect
  dsimp only
  refine .ite (fun _ => ?_) (fun _ => ?_)
  · exact .refl
  · refine .ite (fun _ => ?_) (fun _ => ?_)
    · refine .step ?_ (rxCheck_keeps ..)
      exact .refl
    · split
      · refine .step ?_ (bump_keeps ..)
        refine .step ?_ (takeOff_keeps ..)
        exact .refl
      · refine .ite (fun _ => ?_) (fun _ => ?_)
        · refine .step ?_ (takeOff_keeps ..)
          exact .refl
        · refine .step ?_ (noticeRecord_keeps ..)
          refine .step ?_ (takeOff_keeps ..)
          exact .refl

theorem execNotice_keeps (p : Fin 16) (k : Packet) (s : State) :
    ResKeeps [.out, .regs, .cnt, .mem, .poison, .epochs, .tasks, .prov, .crm, .hbm, .ecc, .cw, .ls, .ldl, .rel, .act, .lnk, .sys, .free] s (execNotice p k s) := by
  unfold execNotice
  change Keeps _ _ _
  refine .step ?_ (noticeEffect_keeps ..)
  exact .refl

theorem settleNack_keeps (id : ℕ) (s : State) :
    Keeps [.out, .regs, .cnt, .tasks, .eng, .ldl, .lnk, .sys] s (settleNack id s) := by
  unfold settleNack
  split
  · exact .refl
  · split
    · exact .refl
    · refine .ite (fun _ => ?_) (fun _ => ?_)
      · exact .refl
      · refine .step ?_ (failOwner_keeps ..)
        exact .refl

theorem noteNack_keeps (x : Track) (s : State) :
    Keeps [.out, .regs, .cnt, .tasks, .eng, .ldl, .lnk, .sys] s (noteNack x s) := by
  unfold noteNack
  dsimp only
  split
  · exact .refl
  · refine .ite (fun _ => ?_) (fun _ => ?_)
    · exact .refl
    · refine .step ?_ (settleNack_keeps ..)
      refine .step ?_ (dropUnsent_keeps ..)
      refine .step ?_ (putTask_keeps ..)
      exact .refl

theorem onResponse_keeps {ps : List Part} {s0 s : State} {p : Nat} {k : Packet} {f : Track → List Byte → State → State}
    (h : Keeps ps s0 s) (hf : ∀ x d u, Keeps ps s0 u → Keeps ps s0 (f x d u))
    (hp : [.out, .regs, .cnt, .rel, .lnk, .sys] ⊆ ps := by decide) : Keeps ps s0 (onResponse p k f s) := by
  have sub {qs : List Part} {t u : State} (ht : Keeps ps s0 t) (k : Keeps qs t u)
      (hq : qs ⊆ [.out, .regs, .cnt, .rel, .lnk, .sys] := by decide) : Keeps ps s0 u := ht.step k (fun _ m => hp (hq m))
  unfold onResponse
  refine .ite (fun _ => h) (fun _ => .ite (fun _ => sub h (rxCheck_keeps ..)) (fun _ => ?_))
  have ht := sub h (takeOff_keeps p k s)
  dsimp only
  split
  · exact sub ht (bump_keeps ..)
  split
  · exact sub ht (bump_keeps ..)
  · exact hf _ _ _ ht

theorem answered_keeps (x : Track) (s : State) :
    Keeps [.out, .regs, .cnt, .tasks, .eng, .ldl, .rel, .act, .lnk, .keys, .sys] s (answered x s) := by
  unfold answered
  refine .step ?_ (pumpAll_keeps ..)
  refine .step ?_ (settleNack_keeps ..)
  exact .refl

theorem readRespEffect_keeps (p : ℕ) (k : Packet) (s : State) :
    Keeps [.out, .regs, .cnt, .mem, .poison, .epochs, .tasks, .prov, .eng, .crm, .hbm, .ecc, .cw, .ls, .ldl, .rel, .act, .lnk, .keys, .sys, .free] s (readRespEffect p k s) := by
  unfold readRespEffect
  dsimp only
  refine onResponse_keeps ?_ (fun _ _ _ _ => ?_)
  · exact .refl
  · refine .step ?_ (answered_keeps ..)
    split
    · refine .step ?_ (movArrived_keeps ..)
      refine .step ?_ (dropTrack_keeps ..)
      assumption
    · split
      · refine .ite (fun _ => ?_) (fun _ => ?_)
        · refine .step ?_ (readbackEnd_keeps ..)
          refine .step ?_ (dropTrack_keeps ..)
          assumption
        · refine .step ?_ (dropTrack_keeps ..)
          assumption
      · refine .step ?_ (dropTrack_keeps ..)
        assumption
    · refine .step ?_ (exchanged_keeps ..)
      refine .step ?_ (dropTrack_keeps ..)
      assumption
    · refine .step ?_ (finiteArrived_keeps ..)
      refine .step ?_ (dropTrack_keeps ..)
      assumption
    · refine .step ?_ (dropTrack_keeps ..)
      assumption

theorem execReadResp_keeps (p : Fin 16) (k : Packet) (s : State) :
    ResKeeps [.out, .regs, .cnt, .mem, .poison, .epochs, .tasks, .prov, .eng, .crm, .hbm, .ecc, .cw, .ls, .ldl, .rel, .act, .lnk, .keys, .sys, .free] s (execReadResp p k s) := by
  unfold execReadResp
  change Keeps _ _ _
  refine .step ?_ (readRespEffect_keeps ..)
  exact .refl

theorem ackEffect_keeps (p : ℕ) (k : Packet) (s : State) :
    Keeps [.out, .regs, .cnt, .poison, .tasks, .eng, .crm, .hbm, .cw, .ls, .ldl, .rel, .act, .lnk, .keys, .sys, .free] s (ackEffect p k s) := by
  unfold ackEffect
  dsimp only
  refine onResponse_keeps ?_ (fun _ _ _ _ => ?_)
  · exact .refl
  · refine .step ?_ (answered_keeps ..)
    split
    · refine .step ?_ (movAcked_keeps ..)
      refine .step ?_ (dropTrack_keeps ..)
      assumption
    · refine .step ?_ (redAcked_keeps ..)
      refine .step ?_ (dropTrack_keeps ..)
      assumption
    · refine .step ?_ (mcastAcked_keeps ..)
      refine .step ?_ (dropTrack_keeps ..)
      assumption
    · refine .step ?_ (dropTrack_keeps ..)
      assumption

theorem execAck_keeps (p : Fin 16) (k : Packet) (s : State) :
    ResKeeps [.out, .regs, .cnt, .poison, .tasks, .eng, .crm, .hbm, .cw, .ls, .ldl, .rel, .act, .lnk, .keys, .sys, .free] s (execAck p k s) := by
  unfold execAck
  change Keeps _ _ _
  refine .step ?_ (ackEffect_keeps ..)
  exact .refl

theorem resolveRespEffect_keeps (p : ℕ) (k : Packet) (s : State) :
    Keeps [.out, .regs, .cnt, .tasks, .eng, .ldl, .rel, .act, .lnk, .keys, .sys] s (resolveRespEffect p k s) := by
  unfold resolveRespEffect
  dsimp only
  refine onResponse_keeps ?_ (fun _ _ _ _ => ?_)
  · exact .refl
  · refine .ite (fun _ => ?_) (fun _ => ?_)
    · assumption
    · refine .step ?_ (answered_keeps ..)
      refine .step ?_ (dropTrack_keeps ..)
      split
      · refine .step ?_ (setTrack_keeps ..)
        refine .set_lnk ?_ _
        assumption
      · refine .set_lnk ?_ _
        assumption

theorem execResolveResp_keeps (p : Fin 16) (k : Packet) (s : State) :
    ResKeeps [.out, .regs, .cnt, .tasks, .eng, .ldl, .rel, .act, .lnk, .keys, .sys] s (execResolveResp p k s) := by
  unfold execResolveResp
  change Keeps _ _ _
  refine .step ?_ (resolveRespEffect_keeps ..)
  exact .refl

theorem refuse_keeps (x : Track) (status : ℕ) (s : State) :
    Keeps [.out, .regs, .cnt, .tasks, .eng, .ldl, .rel, .lnk, .sys] s (refuse x status s) := by
  unfold refuse
  dsimp only
  refine .ite (fun _ => ?_) (fun _ => ?_)
  · split
    · refine .ite (fun _ => ?_) (fun _ => ?_)
      · refine .step ?_ (readbackEnd_keeps ..)
        exact .refl
      · exact .refl
    · exact .refl
  · refine .ite (fun _ => ?_) (fun _ => ?_)
    · refine .step ?_ (noteNack_keeps ..)
      exact .refl
    · refine .step ?_ (failOwner_keeps ..)
      refine .ite (fun _ => ?_) (fun _ => ?_)
      · refine .step ?_ (linkFault_keeps ..)
        exact .refl
      · exact .refl

theorem nackEffect_keeps (p : ℕ) (k : Packet) (s : State) :
    Keeps [.out, .regs, .cnt, .tasks, .eng, .ldl, .rel, .act, .lnk, .keys, .sys] s (nackEffect p k s) := by
  unfold nackEffect
  dsimp only
  refine onResponse_keeps ?_ (fun _ _ _ _ => ?_)
  · exact .refl
  · refine .ite (fun _ => ?_) (fun _ => ?_)
    · refine .step ?_ (answered_keeps ..)
      refine .step ?_ (dropTrack_keeps ..)
      refine .ite (fun _ => ?_) (fun _ => ?_)
      · refine .step ?_ (bump_keeps ..)
        assumption
      · refine .ite (fun _ => ?_) (fun _ => ?_)
        · refine .step ?_ (bump_keeps ..)
          assumption
        · assumption
    · split
      · refine .step ?_ (answered_keeps ..)
        refine .step ?_ (refuse_keeps ..)
        refine .step ?_ (dropTrack_keeps ..)
        assumption
      · refine .ite (fun _ => ?_) (fun _ => ?_)
        · refine .step ?_ (answered_keeps ..)
          refine .step ?_ (refuse_keeps ..)
          refine .step ?_ (dropTrack_keeps ..)
          refine .step ?_ (bump_keeps ..)
          refine .set_lnk ?_ _
          assumption
        · refine .step ?_ (answered_keeps ..)
          refine .step ?_ (setTrack_keeps ..)
          refine .step ?_ (bump_keeps ..)
          refine .step ?_ (bump_keeps ..)
          refine .set_lnk ?_ _
          assumption
      · refine .step ?_ (answered_keeps ..)
        refine .step ?_ (refuse_keeps ..)
        refine .step ?_ (dropTrack_keeps ..)
        assumption
      · refine .ite (fun _ => ?_) (fun _ => ?_)
        · refine .step ?_ (sendTrack_keeps ..)
          refine .step ?_ (bump_keeps ..)
          assumption
        · refine .step ?_ (answered_keeps ..)
          refine .step ?_ (refuse_keeps ..)
          refine .step ?_ (dropTrack_keeps ..)
          assumption
      · refine .step ?_ (bump_keeps ..)
        refine .step ?_ (setTrack_keeps ..)
        assumption
      · refine .step ?_ (answered_keeps ..)
        refine .step ?_ (refuse_keeps ..)
        refine .step ?_ (dropTrack_keeps ..)
        assumption

theorem execNack_keeps (p : Fin 16) (k : Packet) (s : State) :
    ResKeeps [.out, .regs, .cnt, .tasks, .eng, .ldl, .rel, .act, .lnk, .keys, .sys] s (execNack p k s) := by
  unfold execNack
  change Keeps _ _ _
  refine .step ?_ (nackEffect_keeps ..)
  exact .refl

theorem respTimeoutEffect_keeps (seq : ℕ) (s : State) :
    Keeps [.out, .regs, .cnt, .tasks, .eng, .ldl, .rel, .act, .lnk, .keys, .sys] s (respTimeoutEffect seq s) := by
  unfold respTimeoutEffect
  dsimp only
  split
  · exact .refl
  · refine .ite (fun _ => ?_) (fun _ => ?_)
    · exact .refl
    · refine .ite (fun _ => ?_) (fun _ => ?_)
      · refine .step ?_ (answered_keeps ..)
        refine .step ?_ (failOwner_keeps ..)
        refine .step ?_ (dropTrack_keeps ..)
        refine .step ?_ (maskedFault_keeps ..)
        refine .step ?_ (bump_keeps ..)
        refine .step ?_ (raise_keeps ..)
        exact .refl
      · refine .ite (fun _ => ?_) (fun _ => ?_)
        · refine .step ?_ (answered_keeps ..)
          refine .step ?_ (dropTrack_keeps ..)
          refine .step ?_ (bump_keeps ..)
          refine .step ?_ (raise_keeps ..)
          exact .refl
        · refine .ite (fun _ => ?_) (fun _ => ?_)
          · refine .ite (fun _ => ?_) (fun _ => ?_)
            · split
              · refine .step ?_ (sendTrack_keeps ..)
                refine .step ?_ (bump_keeps ..)
                refine .step ?_ (bump_keeps ..)
                refine .step ?_ (raise_keeps ..)
                exact .refl
              · refine .step ?_ (refuse_keeps ..)
                refine .step ?_ (dropTrack_keeps ..)
                refine .step ?_ (bump_keeps ..)
                refine .step ?_ (bump_keeps ..)
                refine .step ?_ (raise_keeps ..)
                exact .refl
            · refine .step ?_ (answered_keeps ..)
              refine .step ?_ (setTrack_keeps ..)
              refine .step ?_ (bump_keeps ..)
              refine .step ?_ (bump_keeps ..)
              refine .step ?_ (raise_keeps ..)
              exact .refl
          · refine .step ?_ (answered_keeps ..)
            refine .step ?_ (refuse_keeps ..)
            refine .step ?_ (dropTrack_keeps ..)
            refine .step ?_ (bump_keeps ..)
            refine .step ?_ (raise_keeps ..)
            exact .refl

theorem execRespTimeout_keeps (seq : ℕ) (s : State) :
    ResKeeps [.out, .regs, .cnt, .tasks, .eng, .ldl, .rel, .act, .lnk, .keys, .sys] s (execRespTimeout seq s) := by
  unfold execRespTimeout
  change Keeps _ _ _
  refine .step ?_ (respTimeoutEffect_keeps ..)
  exact .refl

theorem noslotEffect_keeps (seq : ℕ) (s : State) :
    Keeps [.out, .regs, .cnt, .tasks, .eng, .ldl, .rel, .act, .lnk, .keys, .sys] s (noslotEffect seq s) := by
  unfold noslotEffect
  split
  · exact .refl
  · refine .ite (fun _ => ?_) (fun _ => ?_)
    · exact .refl
    · refine .ite (fun _ => ?_) (fun _ => ?_)
      · refine .step ?_ (answered_keeps ..)
        refine .step ?_ (dropTrack_keeps ..)
        exact .refl
      · split
        · refine .step ?_ (sendTrack_keeps ..)
          refine .step ?_ (bump_keeps ..)
          exact .refl
        · refine .step ?_ (answered_keeps ..)
          refine .step ?_ (failOwner_keeps ..)
          refine .step ?_ (dropTrack_keeps ..)
          refine .step ?_ (linkFault_keeps ..)
          exact .refl

theorem execNoslotRetry_keeps (seq : ℕ) (s : State) :
    ResKeeps [.out, .regs, .cnt, .tasks, .eng, .ldl, .rel, .act, .lnk, .keys, .sys] s (execNoslotRetry seq s) := by
  unfold execNoslotRetry
  change Keeps _ _ _
  refine .step ?_ (noslotEffect_keeps ..)
  exact .refl

theorem redTimeoutEffect_keeps (seq : ℕ) (s : State) :
    Keeps [.out, .regs, .cnt, .tasks, .eng, .ldl, .rel, .act, .lnk, .keys, .sys] s (redTimeoutEffect seq s) := by
  unfold redTimeoutEffect
  split
  · exact .refl
  · refine .ite (fun _ => ?_) (fun _ => ?_)
    · refine .step ?_ (answered_keeps ..)
      refine .step ?_ (failOwner_keeps ..)
      refine .step ?_ (dropTrack_keeps ..)
      refine .step ?_ (maskedFault_keeps ..)
      refine .step ?_ (raise_keeps ..)
      exact .refl
    · exact .refl

theorem execRedTimeout_keeps (seq : ℕ) (s : State) :
    ResKeeps [.out, .regs, .cnt, .tasks, .eng, .ldl, .rel, .act, .lnk, .keys, .sys] s (execRedTimeout seq s) := by
  unfold execRedTimeout
  change Keeps _ _ _
  refine .step ?_ (redTimeoutEffect_keeps ..)
  exact .refl

theorem cacheFlushEffect_keeps (v : Word) (s : State) :
    Keeps [.lnk] s (cacheFlushEffect v s) := by
  unfold cacheFlushEffect
  dsimp only
  refine .ite (fun _ => ?_) (fun _ => ?_)
  · refine .set_lnk ?_ _
    exact .refl
  · exact .refl

theorem execCacheFlush_keeps (who : Initiator) (v : Word) (s : State) :
    ResKeeps [.out, .regs, .blk, .lnk, .sys] s (execCacheFlush who v s) := by
  unfold execCacheFlush
  change Keeps _ _ _
  refine regGuard_keeps ?_ (fun _ _ _ => ?_)
  · exact .refl
  · refine .step ?_ (cacheFlushEffect_keeps ..)
    assumption

theorem unitEffect_keeps (u w : ℕ) (v : Word) (s : State) :
    Keeps [.out, .regs, .sys] s (unitEffect u w v s) := by
  unfold unitEffect
  dsimp only
  refine .ite (fun _ => ?_) (fun _ => ?_)
  · exact .refl
  · refine .ite (fun _ => ?_) (fun _ => ?_)
    · refine .step ?_ (raise_keeps ..)
      exact .refl
    · refine .ite (fun _ => ?_) (fun _ => ?_)
      · exact .refl
      · refine .step ?_ (setReg_keeps ..)
        refine .step ?_ (setReg_keeps ..)
        exact .refl

theorem execUnitWrite_keeps (who : Initiator) (u : Fin 1024) (w : Fin 4) (v : Word) (s : State) :
    ResKeeps [.out, .regs, .blk, .sys] s (execUnitWrite who u w v s) := by
  unfold execUnitWrite
  change Keeps _ _ _
  refine regGuard_keeps ?_ (fun _ _ _ => ?_)
  · exact .refl
  · refine .step ?_ (unitEffect_keeps ..)
    assumption

theorem groupEffect_keeps (g w : ℕ) (v : Word) (s : State) :
    Keeps [.out, .regs, .sys] s (groupEffect g w v s) := by
  unfold groupEffect
  dsimp only
  refine .ite (fun _ => ?_) (fun _ => ?_)
  · refine .step ?_ (storeReg_keeps ..)
    exact .refl
  · refine .step ?_ (raise_keeps ..)
    exact .refl

theorem rsvEffect_keeps (i : ℕ) (v : Word) (s : State) :
    Keeps [.out, .regs, .sys] s (rsvEffect i v s) := by
  unfold rsvEffect
  dsimp only
  refine .ite (fun _ => ?_) (fun _ => ?_)
  · refine .step ?_ (raise_keeps ..)
    exact .refl
  · refine .step ?_ (storeReg_keeps ..)
    exact .refl

/-! ### Machine/LinkPort.lean -/

theorem sendPatterns_keeps (p : ℕ) (s : State) :
    Keeps [.out] s (sendPatterns p s) := by
  unfold sendPatterns
  dsimp only
  refine .foldl ?_ (fun _ _ _ => ?_)
  · exact .refl
  · refine .step ?_ (emit_keeps ..)
    assumption

theorem trainStep_keeps (p step : ℕ) (s : State) :
    Keeps [.out, .regs, .lnk, .sys] s (trainStep p step s) := by
  unfold trainStep
  dsimp only
  refine .ite (fun _ => ?_) (fun _ => ?_)
  · refine .step ?_ (sendPatterns_keeps ..)
    refine .ite (fun _ => ?_) (fun _ => ?_)
    · refine .step ?_ (setPort_keeps ..)
      exact .refl
    · refine .step ?_ (portState_keeps ..)
      exact .refl
  · refine .ite (fun _ => ?_) (fun _ => ?_)
    · refine .step ?_ (emit_keeps ..)
      refine .ite (fun _ => ?_) (fun _ => ?_)
      · refine .step ?_ (setPort_keeps ..)
        exact .refl
      · refine .step ?_ (portState_keeps ..)
        exact .refl
    · refine .ite (fun _ => ?_) (fun _ => ?_)
      · refine .step ?_ (setPort_keeps ..)
        exact .refl
      · refine .step ?_ (portState_keeps ..)
        exact .refl

theorem leaveDisabled_keeps (p : ℕ) (s : State) :
    Keeps [.out, .regs, .lnk, .sys] s (leaveDisabled p s) := by
  unfold leaveDisabled
  dsimp only
  refine .ite (fun _ => ?_) (fun _ => ?_)
  · refine .step ?_ (startTraining_keeps ..)
    exact .refl
  · exact .refl

theorem detectEffect_keeps (p : ℕ) (signal : BitVec 8) (s : State) :
    Keeps [.out, .regs, .lnk, .sys] s (detectEffect p signal s) := by
  unfold detectEffect
  dsimp only
  refine .ite (fun _ => ?_) (fun _ => ?_)
  · refine .step ?_ (trainStep_keeps ..)
    refine .ite (fun _ => ?_) (fun _ => ?_)
    · refine .step ?_ (setPort_keeps ..)
      refine .step ?_ (leaveDisabled_keeps ..)
      exact .refl
    · refine .step ?_ (leaveDisabled_keeps ..)
      exact .refl
  · refine .ite (fun _ => ?_) (fun _ => ?_)
    · refine .step ?_ (setPort_keeps ..)
      refine .step ?_ (leaveDisabled_keeps ..)
      exact .refl
    · refine .step ?_ (leaveDisabled_keeps ..)
      exact .refl

theorem execDetect_keeps (p : Fin 16) (signal : BitVec 8) (s : State) :
    ResKeeps [.out, .regs, .lnk, .sys] s (execDetect p signal s) := by
  unfold execDetect
  change Keeps _ _ _
  refine .step ?_ (detectEffect_keeps ..)
  exact .refl

theorem equaliseEffect_keeps (p : ℕ) (rxLock txLock : BitVec 8) (s : State) :
    Keeps [.out, .regs, .lnk, .sys] s (equaliseEffect p rxLock txLock s) := by
  unfold equaliseEffect
  dsimp only
  refine .ite (fun _ => ?_) (fun _ => ?_)
  · refine .step ?_ (trainStep_keeps ..)
    refine .ite (fun _ => ?_) (fun _ => ?_)
    · refine .step ?_ (leaveDisabled_keeps ..)
      exact .refl
    · exact .refl
  · refine .ite (fun _ => ?_) (fun _ => ?_)
    · refine .step ?_ (leaveDisabled_keeps ..)
      exact .refl
    · exact .refl

theorem execEqualise_keeps (p : Fin 16) (rxLock txLock : BitVec 8) (s : State) :
    ResKeeps [.out, .regs, .lnk, .sys] s (execEqualise p rxLock txLock s) := by
  unfold execEqualise
  change Keeps _ _ _
  refine .step ?_ (equaliseEffect_keeps ..)
  exact .refl

theorem identifyEffect_keeps (p : ℕ) (ls : List LanePattern) (partnerReversed : Bool) (partnerGood : BitVec 8) (s : State) :
    Keeps [.out, .regs, .rel, .lnk, .sys] s (identifyEffect p ls partnerReversed partnerGood s) := by
  unfold identifyEffect
  dsimp only
  refine .ite (fun _ => ?_) (fun _ => ?_)
  · exact .refl
  · refine .ite (fun _ => ?_) (fun _ => ?_)
    · refine .step ?_ (sendPatterns_keeps ..)
      refine .step ?_ (setPort_keeps ..)
      exact .refl
    · refine .ite (fun _ => ?_) (fun _ => ?_)
      · refine .step ?_ (sendPatterns_keeps ..)
        refine .step ?_ (setPort_keeps ..)
        exact .refl
      · refine .ite (fun _ => ?_) (fun _ => ?_)
        · refine .step ?_ (trainStep_keeps ..)
          refine .foldl ?_ (fun _ _ _ => ?_)
          · refine .step ?_ (setPort_keeps ..)
            exact .refl
          · refine .step ?_ (report_keeps ..)
            assumption
        · refine .step ?_ (portState_keeps ..)
          refine .foldl ?_ (fun _ _ _ => ?_)
          · refine .step ?_ (setPort_keeps ..)
            exact .refl
          · refine .step ?_ (report_keeps ..)
            assumption

theorem execIdentify_keeps (p : Fin 16) (lanes : List LanePattern) (partnerReversed : Bool) (partnerGood : BitVec 8) (s : State) :
    ResKeeps [.out, .regs, .rel, .lnk, .sys] s (execIdentify p lanes partnerReversed partnerGood s) := by
  unfold execIdentify
  change Keeps _ _ _
  refine .step ?_ (identifyEffect_keeps ..)
  exact .refl

theorem enterActive_keeps (p ack : ℕ) (s : State) :
    Keeps [.out, .regs, .cnt, .lnk, .sys] s (enterActive p ack s) := by
  unfold enterActive
  dsimp only
  refine .step ?_ (portPump_keeps ..)
  refine .foldl ?_ (fun _ _ _ => ?_)
  · refine .step ?_ (portState_keeps ..)
    refine .step ?_ (setPort_keeps ..)
    exact .refl
  · refine .step ?_ (putFrame_keeps ..)
    assumption

theorem alignEffect_keeps (p : ℕ) (s : State) :
    Keeps [.out, .regs, .cnt, .lnk, .sys] s (alignEffect p s) := by
  unfold alignEffect
  dsimp only
  refine .ite (fun _ => ?_) (fun _ => ?_)
  · exact .refl
  · refine .ite (fun _ => ?_) (fun _ => ?_)
    · refine .step ?_ (portState_keeps ..)
      exact .refl
    · refine .foldl ?_ (fun _ _ _ => ?_)
      · refine .step ?_ (trainStep_keeps ..)
        refine .step ?_ (setPort_keeps ..)
        exact .refl
      · refine .step ?_ (sendControl_keeps ..)
        assumption

theorem execAlign_keeps (p : Fin 16) (s : State) :
    ResKeeps [.out, .regs, .cnt, .lnk, .sys] s (execAlign p s) := by
  unfold execAlign
  change Keeps _ _ _
  refine .step ?_ (alignEffect_keeps ..)
  exact .refl

theorem delayEffect_keeps (p peerDev peerPort : ℕ) (peerValid : Bool) (ack : ℕ) (s : State) :
    Keeps [.out, .regs, .cnt, .lnk, .sys] s (delayEffect p peerDev peerPort peerValid ack s) := by
  unfold delayEffect
  dsimp only
  refine .ite (fun _ => ?_) (fun _ => ?_)
  · exact .refl
  · refine .ite (fun _ => ?_) (fun _ => ?_)
    · refine .step ?_ (portState_keeps ..)
      refine .step ?_ (raise_keeps ..)
      refine .step ?_ (setPort_keeps ..)
      exact .refl
    · refine .ite (fun _ => ?_) (fun _ => ?_)
      · refine .step ?_ (portState_keeps ..)
        refine .step ?_ (raise_keeps ..)
        refine .step ?_ (setPort_keeps ..)
        exact .refl
      · refine .step ?_ (enterActive_keeps ..)
        refine .step ?_ (setPort_keeps ..)
        exact .refl

theorem execDelay_keeps (p : Fin 16) (peerDev : Fin 16384) (peerPort : Fin 16) (peerValid : Bool) (peerAck : BitVec 24) (s : State) :
    ResKeeps [.out, .regs, .cnt, .lnk, .sys] s (execDelay p peerDev peerPort peerValid peerAck s) := by
  unfold execDelay
  change Keeps _ _ _
  refine .step ?_ (delayEffect_keeps ..)
  exact .refl

theorem retrainEffect_keeps (p : ℕ) (v : Word) (s : State) :
    Keeps [.out, .regs, .cnt, .lnk, .sys] s (retrainEffect p v s) := by
  unfold retrainEffect
  refine .ite (fun _ => ?_) (fun _ => ?_)
  · exact .refl
  · refine .ite (fun _ => ?_) (fun _ => ?_)
    · refine .step ?_ (startTraining_keeps ..)
      exact .refl
    · refine .step ?_ (retrainTrigger_keeps ..)
      exact .refl

theorem execRetrain_keeps (who : Initiator) (p : Fin 16) (v : Word) (s : State) :
    ResKeeps [.out, .regs, .cnt, .blk, .lnk, .sys] s (execRetrain who p v s) := by
  unfold execRetrain
  change Keeps _ _ _
  refine regGuard_keeps ?_ (fun _ _ _ => ?_)
  · exact .refl
  · refine .step ?_ (retrainEffect_keeps ..)
    assumption

theorem downRetryEffect_keeps (p : ℕ) (s : State) :
    Keeps [.out, .regs, .lnk, .sys] s (downRetryEffect p s) := by
  unfold downRetryEffect
  refine .ite (fun _ => ?_) (fun _ => ?_)
  · refine .step ?_ (startTraining_keeps ..)
    exact .refl
  · exact .refl

theorem execDownRetry_keeps (p : Fin 16) (s : State) :
    ResKeeps [.out, .regs, .lnk, .sys] s (execDownRetry p s) := by
  unfold execDownRetry
  change Keeps _ _ _
  refine .step ?_ (downRetryEffect_keeps ..)
  exact .refl

theorem trainingTimeoutEffect_keeps (p : ℕ) (s : State) :
    Keeps [.out, .regs, .lnk, .sys] s (trainingTimeoutEffect p s) := by
  unfold trainingTimeoutEffect
  dsimp only
  refine .ite (fun _ => ?_) (fun _ => ?_)
  · refine .step ?_ (portState_keeps ..)
    exact .refl
  · exact .refl

theorem execTrainingTimeout_keeps (p : Fin 16) (s : State) :
    ResKeeps [.out, .regs, .lnk, .sys] s (execTrainingTimeout p s) := by
  unfold execTrainingTimeout
  change Keeps _ _ _
  refine .step ?_ (trainingTimeoutEffect_keeps ..)
  exact .refl

theorem portCfgEffect_keeps (p : ℕ) (v : Word) (s : State) :
    Keeps [.out, .regs, .lnk, .sys] s (portCfgEffect p v s) := by
  unfold portCfgEffect
  dsimp only
  refine .ite (fun _ => ?_) (fun _ => ?_)
  · refine .step ?_ (raise_keeps ..)
    exact .refl
  · refine .ite (fun _ => ?_) (fun _ => ?_)
    · refine .step ?_ (raise_keeps ..)
      exact .refl
    · refine .ite (fun _ => ?_) (fun _ => ?_)
      · refine .step ?_ (portState_keeps ..)
        refine .step ?_ (storeReg_keeps ..)
        exact .refl
      · refine .ite (fun _ => ?_) (fun _ => ?_)
        · refine .step ?_ (startTraining_keeps ..)
          refine .step ?_ (storeReg_keeps ..)
          exact .refl
        · refine .step ?_ (storeReg_keeps ..)
          exact .refl

theorem ethCfgEffect_keeps (p off : ℕ) (v : Word) (s : State) :
    Keeps [.out, .regs, .sys] s (ethCfgEffect p off v s) := by
  unfold ethCfgEffect
  dsimp only
  refine .ite (fun _ => ?_) (fun _ => ?_)
  · refine .step ?_ (storeReg_keeps ..)
    exact .refl
  · refine .step ?_ (raise_keeps ..)
    exact .refl

theorem replayFrames_keeps (p : ℕ) (s : State) :
    Keeps [.out, .regs, .cnt, .lnk, .sys] s (replayFrames p s) := by
  unfold replayFrames
  dsimp only
  refine .ite (fun _ => ?_) (fun _ => ?_)
  · exact .refl
  · refine .ite (fun _ => ?_) (fun _ => ?_)
    · refine .step ?_ (retrainTrigger_keeps ..)
      refine .step ?_ (raise_keeps ..)
      exact .refl
    · refine .foldl ?_ (fun _ _ _ => ?_)
      · refine .step ?_ (setPort_keeps ..)
        exact .refl
      · refine .step ?_ (bump_keeps ..)
        refine .step ?_ (putFrame_keeps ..)
        assumption

theorem ackFrames_keeps (p : ℕ) (f : Frame) (s : State) :
    Keeps [.out, .regs, .cnt, .lnk, .sys] s (ackFrames p f s) := by
  unfold ackFrames
  dsimp only
  refine .step ?_ (portPump_keeps ..)
  refine .ite (fun _ => ?_) (fun _ => ?_)
  · refine .step ?_ (replayFrames_keeps ..)
    refine .ite (fun _ => ?_) (fun _ => ?_)
    · refine .step ?_ (setPort_keeps ..)
      exact .refl
    · exact .refl
  · refine .ite (fun _ => ?_) (fun _ => ?_)
    · refine .step ?_ (setPort_keeps ..)
      exact .refl
    · exact .refl

theorem fecBad_keeps (p k : ℕ) (s : State) :
    Keeps [.out, .regs, .cnt, .rel, .lnk, .sys] s (fecBad p k s) := by
  unfold fecBad
  dsimp only
  refine .ite (fun _ => ?_) (fun _ => ?_)
  · refine .step ?_ (retrainTrigger_keeps ..)
    refine .step ?_ (raiseEv_keeps ..)
    refine .step ?_ (bump_keeps ..)
    refine .step ?_ (setPort_keeps ..)
    exact .refl
  · refine .step ?_ (bump_keeps ..)
    refine .step ?_ (setPort_keeps ..)
    exact .refl

theorem badFrame_keeps (p : ℕ) (f : Frame) (s : State) :
    Keeps [.out, .regs, .cnt, .rel, .lnk, .sys] s (badFrame p f s) := by
  unfold badFrame
  dsimp only
  refine .ite (fun _ => ?_) (fun _ => ?_)
  · refine .step ?_ (sendControl_keeps ..)
    refine .step ?_ (bump_keeps ..)
    exact .refl
  · refine .step ?_ (fecBad_keeps ..)
    refine .step ?_ (sendControl_keeps ..)
    refine .step ?_ (bump_keeps ..)
    exact .refl

theorem ctlGap_keeps (p : ℕ) (f : Frame) (s : State) :
    Keeps [.out, .cnt] s (ctlGap p f s) := by
  unfold ctlGap
  dsimp only
  refine .ite (fun _ => ?_) (fun _ => ?_)
  · refine .step ?_ (sendControl_keeps ..)
    exact .refl
  · exact .refl

theorem onFrame_keeps {ps : List Part} {s0 s : State} {p : Nat} {f : Frame} {type : Nat} {k : State → State}
    (h : Keeps ps s0 s) (hk : ∀ u, Keeps ps s0 u → Keeps ps s0 (k u))
    (hp : [.out, .regs, .cnt, .rel, .lnk, .sys] ⊆ ps := by decide) : Keeps ps s0 (onFrame p f type k s) := by
  have sub {qs : List Part} {t u : State} (ht : Keeps ps s0 t) (k : Keeps qs t u)
      (hq : qs ⊆ [.out, .regs, .cnt, .rel, .lnk, .sys] := by decide) : Keeps ps s0 u := ht.step k (fun _ m => hp (hq m))
  unfold onFrame
  have hb := sub (sub (sub h (bump_keeps (lp p 0) 0 1 1 s)) (bump_keeps (lp p 0) 0 4 f.fixed _))
    (bump_keeps (lp p 0) 0 8 f.body.length _)
  exact .ite (fun _ => h) (fun _ => .ite (fun _ => sub hb (badFrame_keeps ..)) 
    (fun _ => .ite (fun _ => hb) (fun _ => hk _ (sub hb (ctlGap_keeps ..)))))

theorem dataEffect_keeps (p : ℕ) (f : Frame) (s : State) :
    Keeps [.out, .regs, .cnt, .rel, .lnk, .sys] s (dataEffect p f s) := by
  unfold dataEffect
  dsimp only
  refine onFrame_keeps ?_ (fun _ _ => ?_)
  · exact .refl
  · refine .ite (fun _ => ?_) (fun _ => ?_)
    · refine .step ?_ (sendControl_keeps ..)
      assumption
    · refine .step ?_ (ackFrames_keeps ..)
      refine .step ?_ (arrive_keeps ..)
      refine .step ?_ (setPort_keeps ..)
      assumption

theorem execData_keeps (p : Fin 16) (f : Frame) (s : State) :
    ResKeeps [.out, .regs, .cnt, .rel, .lnk, .sys] s (execData p f s) := by
  unfold execData
  change Keeps _ _ _
  refine .step ?_ (dataEffect_keeps ..)
  exact .refl

theorem execIdleFrame_keeps (p : Fin 16) (f : Frame) (s : State) :
    ResKeeps [.out, .regs, .cnt, .rel, .lnk, .sys] s (execIdleFrame p f s) := by
  unfold execIdleFrame
  change Keeps _ _ _
  refine onFrame_keeps ?_ (fun _ _ => ?_)
  · exact .refl
  · refine .step ?_ (ackFrames_keeps ..)
    assumption

theorem creditEffect_keeps (p : ℕ) (f : Frame) (s : State) :
    Keeps [.out, .regs, .cnt, .rel, .lnk, .sys] s (creditEffect p f s) := by
  unfold creditEffect
  dsimp only
  refine onFrame_keeps ?_ (fun _ _ => ?_)
  · exact .refl
  · refine .step ?_ (ackFrames_keeps ..)
    refine .step ?_ (setPort_keeps ..)
    assumption

theorem execCredit_keeps (p : Fin 16) (f : Frame) (s : State) :
    ResKeeps [.out, .regs, .cnt, .rel, .lnk, .sys] s (execCredit p f s) := by
  unfold execCredit
  change Keeps _ _ _
  refine .step ?_ (creditEffect_keeps ..)
  exact .refl

theorem creditSendEffect_keeps (p : ℕ) (s : State) :
    Keeps [.out, .cnt, .lnk] s (creditSendEffect p s) := by
  unfold creditSendEffect
  dsimp only
  refine .ite (fun _ => ?_) (fun _ => ?_)
  · exact .refl
  · refine .step ?_ (sendControl_keeps ..)
    refine .step ?_ (setPort_keeps ..)
    exact .refl

theorem execCreditSend_keeps (p : Fin 16) (s : State) :
    ResKeeps [.out, .cnt, .lnk] s (execCreditSend p s) := by
  unfold execCreditSend
  change Keeps _ _ _
  refine .step ?_ (creditSendEffect_keeps ..)
  exact .refl

theorem downEffect_keeps (p : ℕ) (f : Frame) (s : State) :
    Keeps [.out, .regs, .cnt, .mem, .poison, .epochs, .tasks, .prov, .crm, .hbm, .ecc, .cw, .ls, .ldl, .rel, .act, .lnk, .sys, .free] s (downEffect p f s) := by
  unfold downEffect
  dsimp only
  refine onFrame_keeps ?_ (fun _ _ => ?_)
  · exact .refl
  · refine .step ?_ (ackFrames_keeps ..)
    refine .step ?_ (noticeRecord_keeps ..)
    assumption

theorem execDown_keeps (p : Fin 16) (f : Frame) (s : State) :
    ResKeeps [.out, .regs, .cnt, .mem, .poison, .epochs, .tasks, .prov, .crm, .hbm, .ecc, .cw, .ls, .ldl, .rel, .act, .lnk, .sys, .free] s (execDown p f s) := by
  unfold execDown
  change Keeps _ _ _
  refine .step ?_ (downEffect_keeps ..)
  exact .refl

theorem echoEffect_keeps (p : ℕ) (f : Frame) (turnaround : ℕ) (s : State) :
    Keeps [.out, .regs, .cnt, .rel, .lnk, .sys] s (echoEffect p f turnaround s) := by
  unfold echoEffect
  refine onFrame_keeps ?_ (fun _ _ => ?_)
  · exact .refl
  · refine .step ?_ (sendControl_keeps ..)
    assumption

theorem execEcho_keeps (p : Fin 16) (f : Frame) (turnaround : ℕ) (s : State) :
    ResKeeps [.out, .regs, .cnt, .rel, .lnk, .sys] s (execEcho p f turnaround s) := by
  unfold execEcho
  change Keeps _ _ _
  refine .step ?_ (echoEffect_keeps ..)
  exact .refl

theorem echoRespEffect_keeps (p : ℕ) (f : Frame) (roundTrip : ℕ) (s : State) :
    Keeps [.out, .regs, .cnt, .rel, .lnk, .sys] s (echoRespEffect p f roundTrip s) := by
  unfold echoRespEffect
  dsimp only
  refine onFrame_keeps ?_ (fun _ _ => ?_)
  · exact .refl
  · refine .ite (fun _ => ?_) (fun _ => ?_)
    · refine .step ?_ (setPort_keeps ..)
      assumption
    · assumption

theorem execEchoResp_keeps (p : Fin 16) (f : Frame) (roundTrip : ℕ) (s : State) :
    ResKeeps [.out, .regs, .cnt, .rel, .lnk, .sys] s (execEchoResp p f roundTrip s) := by
  unfold execEchoResp
  change Keeps _ _ _
  refine .step ?_ (echoRespEffect_keeps ..)
  exact .refl

theorem onEther_keeps {ps : List Part} {s0 s : State} {p : Nat} {k : State → State}
    (h : Keeps ps s0 s) (hk : ∀ u, Keeps ps s0 u → Keeps ps s0 (k u)) : Keeps ps s0 (onEther p k s) := by
  unfold onEther
  exact .ite (fun _ => hk _ h) (fun _ => h)

theorem etherIn_keeps {ps : List Part} {s0 s : State} {p : Nat} {k : State → State}
    (h : Keeps ps s0 s) (hk : ∀ u, Keeps ps s0 u → Keeps ps s0 (k u)) (hp : [.cnt] ⊆ ps := by decide) :
    Keeps ps s0 (etherIn p k s) := by
  unfold etherIn
  exact onEther_keeps h (fun u hu => hk _ (hu.step (bump_keeps ..) hp))

theorem onDatagram_keeps {ps : List Part} {s0 s : State} {p : Nat} {d : Datagram} {k : State → State}
    (h : Keeps ps s0 s) (hk : ∀ u, Keeps ps s0 u → Keeps ps s0 (k u))
    (hp : [.cnt, .lnk] ⊆ ps := by decide) : Keeps ps s0 (onDatagram p d k s) := by
  have sub {qs : List Part} {t u : State} (ht : Keeps ps s0 t) (k : Keeps qs t u)
      (hq : qs ⊆ [.cnt, .lnk] := by decide) : Keeps ps s0 u := ht.step k (fun _ m => hp (hq m))
  unfold onDatagram
  exact onEther_keeps h (fun u hu => by
    have hb := sub hu (bump_keeps (lp p 0) 0 1 1 u)
    dsimp only
    split
    · refine hk _ ?_
      split
      · exact sub hb (setConn_keeps ..)
      · exact hb
    · exact sub hb (bump_keeps ..))

theorem synEffect_keeps (p : ℕ) (d : Datagram) (s : State) :
    Keeps [.cnt, .lnk] s (synEffect p d s) := by
  unfold synEffect
  dsimp only
  refine onDatagram_keeps ?_ (fun _ _ => ?_)
  · exact .refl
  · refine .ite (fun _ => ?_) (fun _ => ?_)
    · assumption
    · refine .step ?_ (setConn_keeps ..)
      assumption

theorem execTransportSyn_keeps (p : Fin 16) (d : Datagram) (s : State) :
    ResKeeps [.cnt, .lnk] s (execTransportSyn p d s) := by
  unfold execTransportSyn
  change Keeps _ _ _
  refine .step ?_ (synEffect_keeps ..)
  exact .refl

theorem tdataEffect_keeps (p : ℕ) (d : Datagram) (s : State) :
    Keeps [.out, .regs, .cnt, .rel, .lnk, .sys] s (tdataEffect p d s) := by
  unfold tdataEffect
  dsimp only
  refine onDatagram_keeps ?_ (fun _ _ => ?_)
  · exact .refl
  · refine .ite (fun _ => ?_) (fun _ => ?_)
    · refine .step ?_ (sendDatagram_keeps ..)
      refine .step ?_ (bump_keeps ..)
      refine .ite (fun _ => ?_) (fun _ => ?_)
      · refine .step ?_ (setConn_keeps ..)
        assumption
      · assumption
    · refine .step ?_ (connPump_keeps ..)
      refine .ite (fun _ => ?_) (fun _ => ?_)
      · refine .step ?_ (sendDatagram_keeps ..)
        refine .step ?_ (arrive_keeps ..)
        refine .step ?_ (setConn_keeps ..)
        assumption
      · refine .step ?_ (arrive_keeps ..)
        refine .step ?_ (setConn_keeps ..)
        assumption

theorem execTransportData_keeps (p : Fin 16) (d : Datagram) (s : State) :
    ResKeeps [.out, .regs, .cnt, .rel, .lnk, .sys] s (execTransportData p d s) := by
  unfold execTransportData
  change Keeps _ _ _
  refine .step ?_ (tdataEffect_keeps ..)
  exact .refl

theorem tackEffect_keeps (p : ℕ) (d : Datagram) (s : State) :
    Keeps [.out, .cnt, .lnk] s (tackEffect p d s) := by
  unfold tackEffect
  dsimp only
  refine onDatagram_keeps ?_ (fun _ _ => ?_)
  · exact .refl
  · refine .ite (fun _ => ?_) (fun _ => ?_)
    · assumption
    · refine .step ?_ (connPump_keeps ..)
      refine .step ?_ (setConn_keeps ..)
      assumption

theorem execTransportAck_keeps (p : Fin 16) (d : Datagram) (s : State) :
    ResKeeps [.out, .cnt, .lnk] s (execTransportAck p d s) := by
  unfold execTransportAck
  change Keeps _ _ _
  refine .step ?_ (tackEffect_keeps ..)
  exact .refl

theorem resendFlight_keeps (p dev : ℕ) (s : State) :
    Keeps [.out, .cnt, .lnk] s (resendFlight p dev s) := by
  unfold resendFlight
  refine .foldl ?_ (fun _ _ _ => ?_)
  · exact .refl
  · refine .step ?_ (sendDatagram_keeps ..)
    assumption

theorem tnakEffect_keeps (p : ℕ) (d : Datagram) (s : State) :
    Keeps [.out, .cnt, .lnk] s (tnakEffect p d s) := by
  unfold tnakEffect
  dsimp only
  refine onDatagram_keeps ?_ (fun _ _ => ?_)
  · exact .refl
  · refine .ite (fun _ => ?_) (fun _ => ?_)
    · assumption
    · refine .step ?_ (resendFlight_keeps ..)
      refine .step ?_ (setConn_keeps ..)
      assumption

theorem execTransportNak_keeps (p : Fin 16) (d : Datagram) (s : State) :
    ResKeeps [.out, .cnt, .lnk] s (execTransportNak p d s) := by
  unfold execTransportNak
  change Keeps _ _ _
  refine .step ?_ (tnakEffect_keeps ..)
  exact .refl

theorem ttimeoutEffect_keeps (p dev : ℕ) (s : State) :
    Keeps [.out, .cnt, .lnk] s (ttimeoutEffect p dev s) := by
  unfold ttimeoutEffect
  dsimp only
  refine onEther_keeps ?_ (fun _ _ => ?_)
  · exact .refl
  · refine .ite (fun _ => ?_) (fun _ => ?_)
    · assumption
    · refine .ite (fun _ => ?_) (fun _ => ?_)
      · refine .set_lnk ?_ _
        assumption
      · refine .step ?_ (resendFlight_keeps ..)
        refine .step ?_ (setConn_keeps ..)
        assumption

theorem execTransportTimeout_keeps (p : Fin 16) (dev : Fin 16384) (s : State) :
    ResKeeps [.out, .cnt, .lnk] s (execTransportTimeout p dev s) := by
  unfold execTransportTimeout
  change Keeps _ _ _
  refine .step ?_ (ttimeoutEffect_keeps ..)
  exact .refl

theorem tackTimerEffect_keeps (p dev : ℕ) (s : State) :
    Keeps [.out, .cnt, .lnk] s (tackTimerEffect p dev s) := by
  unfold tackTimerEffect
  dsimp only
  refine onEther_keeps ?_ (fun _ _ => ?_)
  · exact .refl
  · refine .ite (fun _ => ?_) (fun _ => ?_)
    · assumption
    · refine .step ?_ (sendDatagram_keeps ..)
      assumption

theorem execTransportAckTimer_keeps (p : Fin 16) (dev : Fin 16384) (s : State) :
    ResKeeps [.out, .cnt, .lnk] s (execTransportAckTimer p dev s) := by
  unfold execTransportAckTimer
  change Keeps _ _ _
  refine .step ?_ (tackTimerEffect_keeps ..)
  exact .refl

theorem icmpEchoEffect_keeps (p : ℕ) (dst src : BitVec 128) (payload : List Byte) (s : State) :
    Keeps [.out, .cnt] s (icmpEchoEffect p dst src payload s) := by
  unfold icmpEchoEffect
  refine etherIn_keeps ?_ (fun _ _ => ?_)
  · exact .refl
  · refine .ite (fun _ => ?_) (fun _ => ?_)
    · refine .step ?_ (putEther_keeps ..)
      assumption
    · assumption

theorem execIcmpv6EchoRequest_keeps (p : Fin 16) (dst src : BitVec 128) (payload : List Byte) (s : State) :
    ResKeeps [.out, .cnt] s (execIcmpv6EchoRequest p dst src payload s) := by
  unfold execIcmpv6EchoRequest
  change Keeps _ _ _
  refine .step ?_ (icmpEchoEffect_keeps ..)
  exact .refl

theorem neighbourEffect_keeps (p : ℕ) (target src : BitVec 128) (s : State) :
    Keeps [.out, .cnt] s (neighbourEffect p target src s) := by
  unfold neighbourEffect
  dsimp only
  refine etherIn_keeps ?_ (fun _ _ => ?_)
  · exact .refl
  · refine .ite (fun _ => ?_) (fun _ => ?_)
    · refine .step ?_ (putEther_keeps ..)
      assumption
    · assumption

theorem execNeighbourSolicitation_keeps (p : Fin 16) (target src : BitVec 128) (s : State) :
    ResKeeps [.out, .cnt] s (execNeighbourSolicitation p target src s) := by
  unfold execNeighbourSolicitation
  change Keeps _ _ _
  refine .step ?_ (neighbourEffect_keeps ..)
  exact .refl

end Sys2Proof.Machine
end

