-- ==== Sys2Proof/Laws/FrameTasks.lean ====
section
/-! SUPPORT. What each function can change, one law a function: tasks, measurements, the meter, envelopes and fail-quiet. -/

set_option Elab.async false

namespace Sys2Proof.Machine

/-! ### Machine/Tasks.lean -/

theorem dropItem_keeps (c : ℕ) (s : State) :
    Keeps [.out, .regs, .queues, .sys] s (dropItem c s) := by
  unfold dropItem
  dsimp only
  refine .ite (fun _ => ?_) (fun _ => ?_)
  · refine .step ?_ (raise_keeps ..)
    refine .step ?_ (qTake_keeps ..)
    exact .refl
  · refine .step ?_ (setReg_keeps ..)
    refine .step ?_ (raise_keeps ..)
    refine .step ?_ (qTake_keeps ..)
    exact .refl

theorem acceptEffect_keeps (c : ℕ) (s : State) :
    Keeps [.out, .regs, .cnt, .poison, .queues, .tasks, .nextTask, .crm, .hbm, .cw, .ls, .rel, .act, .sys, .free] s (acceptEffect c s) := by
  unfold acceptEffect
  dsimp only
  refine .ite (fun _ => ?_) (fun _ => ?_)
  · exact .refl
  · split
    · refine .step ?_ (ptrCheck_keeps ..)
      exact .refl
    · refine .ite (fun _ => ?_) (fun _ => ?_)
      · refine .step ?_ (dropItem_keeps ..)
        refine .step ?_ (ptrCheck_keeps ..)
        exact .refl
      · split
        · exact .refl
        · refine .step ?_ (dropItem_keeps ..)
          refine .step ?_ (ptrCheck_keeps ..)
          exact .refl
        · refine .step ?_ (dropItem_keeps ..)
          refine .step ?_ (poisonRead_keeps ..)
          refine .step ?_ (ptrCheck_keeps ..)
          exact .refl
        · refine .ite (fun _ => ?_) (fun _ => ?_)
          · refine .step ?_ (dropItem_keeps ..)
            refine .step ?_ (touchReads_keeps ..)
            refine .step ?_ (ptrCheck_keeps ..)
            exact .refl
          · refine .mk rfl ?_ rfl (fun p hp => by cases p <;> first | with_reducible rfl | exact absurd (by decide) hp)
            refine .step ?_ (qTake_keeps ..)
            refine .step ?_ (touchReads_keeps ..)
            refine .step ?_ (ptrCheck_keeps ..)
            exact .refl

theorem execTaskAccept_keeps (cq : Fin 256) (s : State) :
    ResKeeps [.out, .regs, .cnt, .poison, .queues, .tasks, .nextTask, .crm, .hbm, .cw, .ls, .rel, .act, .sys, .free] s (execTaskAccept cq s) := by
  unfold execTaskAccept
  change Keeps _ _ _
  refine .step ?_ (acceptEffect_keeps ..)
  exact .refl

theorem checkEffect_keeps (id : ℕ) (s : State) :
    Keeps [.out, .regs, .cnt, .tasks, .eng, .ldl, .sys] s (checkEffect id s) := by
  unfold checkEffect
  split
  · exact .refl
  · refine .ite (fun _ => ?_) (fun _ => ?_)
    · exact .refl
    · split
      · refine .step ?_ (finish_keeps ..)
        exact .refl
      · refine .step ?_ (putTask_keeps ..)
        exact .refl

theorem execDispatchCheck_keeps (task : ℕ) (s : State) :
    ResKeeps [.out, .regs, .cnt, .tasks, .eng, .ldl, .sys] s (execDispatchCheck task s) := by
  unfold execDispatchCheck
  change Keeps _ _ _
  refine .step ?_ (checkEffect_keeps ..)
  exact .refl

theorem setUse_keeps (job gid use : ℕ) (s : State) :
    Keeps [.groups] s (setUse job gid use s) := by
  unfold setUse
  refine .set_groups ?_ _
  exact .refl

theorem OptSnd.bind {ps : List Part} {s0 : State} {o : Take} {f : Task × State → Take} (h : OptSnd ps s0 o)
    (hf : ∀ x, Keeps ps s0 x.2 → OptSnd ps s0 (f x)) : OptSnd ps s0 (o.bind f) := by
  cases o with
  | none => trivial
  | some x => exact hf x h

theorem takeAll_keeps {ps : List Part} {s0 : State} (fs : List (Task × State → Take)) (x : Task × State)
    (h : Keeps ps s0 x.2) (hf : ∀ f ∈ fs, ∀ y, Keeps ps s0 y.2 → OptSnd ps s0 (f y)) : OptSnd ps s0 (takeAll fs x) := by
  induction fs generalizing x with
  | nil => exact h
  | cons f fs ih =>
    unfold takeAll
    exact OptSnd.bind (hf f (.head _) x h) (fun y hy => ih y hy (fun g hg => hf g (.tail _ hg)))

theorem takePop_keeps (i : Nat) (x : Task × State) : OptSnd [.queues] x.2 (takePop i x) := by
  unfold takePop
  dsimp only
  split
  · exact .refl
  split
  · trivial
  split
  · exact .snd (by assumption) (qTake_keeps ..)
  · trivial

theorem takeAlloc_keeps (i : Nat) (x : Task × State) : OptSnd [.pools, .free] x.2 (takeAlloc i x) := by
  unfold takeAlloc
  dsimp only
  split
  · exact .refl
  split
  · trivial
  split
  · exact .snd (by assumption) (allocBuf_keeps ..)
  · trivial

theorem takePush_keeps (i : Nat) (x : Task × State) : OptSnd [.queues] x.2 (takePush i x) := by
  unfold takePush
  dsimp only
  split
  · exact .refl
  split
  · trivial
  · exact setQueue_keeps ..

theorem takeRes_keeps (t : Task) (s : State) : OptSnd [.queues, .pools, .free] s (takeRes t s) := by
  unfold takeRes
  refine takeAll_keeps _ _ .refl (fun f hf y hy => ?_)
  simp only [List.mem_append, List.mem_map] at hf
  obtain (⟨i, _, rfl⟩ | ⟨i, _, rfl⟩) | ⟨i, _, rfl⟩ := hf
  · exact .step hy (takePop_keeps i y)
  · exact .step hy (takeAlloc_keeps i y)
  · exact .step hy (takePush_keeps i y)

theorem readTd_keeps {ps : List Part} {s0 : State} (i : Nat) (r : TdRead) (h : TdKeeps ps s0 r)
    (hp : [.out, .regs, .cnt, .poison, .crm, .hbm, .cw, .ls, .rel, .act, .sys,
        .free] ⊆ ps := by decide) : TdKeeps ps s0 (readTd i r) := by
  have sub {qs : List Part} {t u : State} (ht : Keeps ps s0 t) (k : Keeps qs t u)
      (hq : qs ⊆ [.out, .regs, .cnt, .poison, .crm, .hbm, .cw, .ls, .rel, .act, .sys,
          .free] := by decide) : Keeps ps s0 u := ht.step k (fun _ m => hp (hq m))
  cases r with
  | wait => trivial
  | fail f t => exact h
  | ok t s =>
    have hs : Keeps ps s0 s := h
    unfold readTd
    dsimp only
    split
    · exact hs
    split
    · trivial
    · exact hs
    · exact sub hs (poisonRead_keeps ..)
    · exact forJob_keeps hs (fun _ hu => hu.step (touchReads_keeps ..) (fun _ m => .tail _ (hp (by revert m; cases ‹Part› <;> decide))))

theorem readTds_keeps {ps : List Part} {s0 s : State} {t : Task} (h : Keeps ps s0 s)
    (hp : [.out, .regs, .cnt, .poison, .crm, .hbm, .cw, .ls, .rel, .act, .sys, .free] ⊆ ps := by decide) :
    TdKeeps ps s0 ((List.range 8).foldl (fun r i => readTd i r) (.ok t s)) := by
  have go (l : List Nat) : ∀ r, TdKeeps ps s0 r → TdKeeps ps s0 (l.foldl (fun r i => readTd i r) r) := by
    induction l with
    | nil => exact fun r h => h
    | cons i l ih => exact fun r h => ih _ (readTd_keeps i r h hp)
  exact go _ _ h

theorem putOn_keeps (t : Task) (s : State) :
    Keeps [.eng] s (putOn t s) := by
  unfold putOn
  dsimp only
  refine .ite (fun _ => ?_) (fun _ => ?_)
  · exact .refl
  · refine .ite (fun _ => ?_) (fun _ => ?_)
    · refine .step ?_ (setEng_keeps ..)
      exact .refl
    · refine .step ?_ (setEng_keeps ..)
      exact .refl

theorem dispatched_keeps (t : Task) (s : State) :
    Keeps [.regs, .cnt, .tasks, .eng, .tck, .ldl, .lnk] s (dispatched t s) := by
  unfold dispatched
  dsimp only
  refine .step ?_ (markAlive_keeps ..)
  refine .step ?_ (setEng_keeps ..)
  refine .ite (fun _ => ?_) (fun _ => ?_)
  · refine .step ?_ (putOn_keeps ..)
    refine .step ?_ (putTask_keeps ..)
    refine .foldl ?_ (fun _ _ _ => ?_)
    · refine .step ?_ (startRefetch_keeps ..)
      exact .refl
    · refine .step ?_ (noteUse_keeps ..)
      assumption
  · refine .ite (fun _ => ?_) (fun _ => ?_)
    · refine .step ?_ (armTake_keeps ..)
      refine .step ?_ (putOn_keeps ..)
      refine .step ?_ (putTask_keeps ..)
      refine .foldl ?_ (fun _ _ _ => ?_)
      · refine .step ?_ (startRefetch_keeps ..)
        exact .refl
      · refine .step ?_ (noteUse_keeps ..)
        assumption
    · refine .ite (fun _ => ?_) (fun _ => ?_)
      · refine .step ?_ (redSample_keeps ..)
        refine .step ?_ (putOn_keeps ..)
        refine .step ?_ (putTask_keeps ..)
        refine .foldl ?_ (fun _ _ _ => ?_)
        · refine .step ?_ (startRefetch_keeps ..)
          exact .refl
        · refine .step ?_ (noteUse_keeps ..)
          assumption
      · refine .step ?_ (beginCast_keeps ..)
        refine .step ?_ (putOn_keeps ..)
        refine .step ?_ (putTask_keeps ..)
        refine .foldl ?_ (fun _ _ _ => ?_)
        · refine .step ?_ (startRefetch_keeps ..)
          exact .refl
        · refine .step ?_ (noteUse_keeps ..)
          assumption

theorem dispatchFail_keeps (t : Task) (f : Fail) (s : State) :
    Keeps [.out, .regs, .cnt, .tasks, .eng, .ldl, .sys] s (dispatchFail t f s) := by
  unfold dispatchFail
  dsimp only
  refine .step ?_ (setEng_keeps ..)
  refine .step ?_ (finish_keeps ..)
  exact .refl

theorem seedCheck_keeps (t : Task) (s : State) :
    OptKeeps [.out, .regs, .rel, .sys, .free] s (seedCheck t s) := by
  unfold seedCheck
  dsimp only
  split
  · trivial
  · split
    · change Keeps _ _ _
      refine .step ?_ (raiseFree_keeps ..)
      exact .refl
    · trivial

theorem tryDispatch_keeps (t0 : Task) (s : State) :
    OptKeeps [.out, .regs, .cnt, .poison, .queues, .pools, .tasks, .eng, .tck, .crm, .hbm, .cw, .ls, .ldl, .rel, .act, .lnk, .sys, .free] s (tryDispatch t0 s) := by
  unfold tryDispatch
  dsimp only
  split
  · trivial
  · split
    · change Keeps _ _ _
      refine .step ?_ (finish_keeps ..)
      exact .refl
    · split
      · trivial
      · split
        · trivial
        · split
          · trivial
          · split
            · change Keeps _ _ _
              refine .step ?_ (dispatchFail_keeps ..)
              refine OptSnd.pair (by assumption) ?_
              refine .step ?_ (takeRes_keeps ..)
              exact .refl
            · split
              · trivial
              · change Keeps _ _ _
                refine .step ?_ (dispatchFail_keeps ..)
                refine TdKeeps.fail (by assumption) ?_
                refine readTds_keeps ?_
                refine OptSnd.pair (by assumption) ?_
                refine .step ?_ (takeRes_keeps ..)
                exact .refl
              · split
                · trivial
                · change Keeps _ _ _
                  refine .step ?_ (dispatchFail_keeps ..)
                  refine TdKeeps.ok (by assumption) ?_
                  refine readTds_keeps ?_
                  refine OptSnd.pair (by assumption) ?_
                  refine .step ?_ (takeRes_keeps ..)
                  exact .refl
                · change Keeps _ _ _
                  refine .step ?_ (dispatchFail_keeps ..)
                  refine .step ?_ (poisonRead_keeps ..)
                  refine TdKeeps.ok (by assumption) ?_
                  refine readTds_keeps ?_
                  refine OptSnd.pair (by assumption) ?_
                  refine .step ?_ (takeRes_keeps ..)
                  exact .refl
                · split
                  · change Keeps _ _ _
                    refine .step ?_ (dispatchFail_keeps ..)
                    refine TdKeeps.ok (by assumption) ?_
                    refine readTds_keeps ?_
                    refine OptSnd.pair (by assumption) ?_
                    refine .step ?_ (takeRes_keeps ..)
                    exact .refl
                  · split
                    · change Keeps _ _ _
                      refine .step ?_ (dispatchFail_keeps ..)
                      refine OptKeeps.some (by assumption) ?_
                      refine .step ?_ (seedCheck_keeps ..)
                      refine TdKeeps.ok (by assumption) ?_
                      refine readTds_keeps ?_
                      refine OptSnd.pair (by assumption) ?_
                      refine .step ?_ (takeRes_keeps ..)
                      exact .refl
                    · split
                      · change Keeps _ _ _
                        refine .step ?_ (dispatchFail_keeps ..)
                        refine TdKeeps.ok (by assumption) ?_
                        refine readTds_keeps ?_
                        refine OptSnd.pair (by assumption) ?_
                        refine .step ?_ (takeRes_keeps ..)
                        exact .refl
                      · split
                        · change Keeps _ _ _
                          refine .step ?_ (dispatchFail_keeps ..)
                          refine TdKeeps.ok (by assumption) ?_
                          refine readTds_keeps ?_
                          refine OptSnd.pair (by assumption) ?_
                          refine .step ?_ (takeRes_keeps ..)
                          exact .refl
                        · split
                          · trivial
                          · change Keeps _ _ _
                            refine .step ?_ (dispatched_keeps ..)
                            refine forJob_keeps ?_ (fun _ _ => ?_)
                            · refine TdKeeps.ok (by assumption) ?_
                              refine readTds_keeps ?_
                              refine OptSnd.pair (by assumption) ?_
                              refine .step ?_ (takeRes_keeps ..)
                              exact .refl
                            · refine .step ?_ (touchReads_keeps ..)
                              assumption

theorem checkLaces_keeps (t : Task) (s : State) :
    Keeps [.out, .regs, .queues, .rel, .sys] s (checkLaces t s) := by
  unfold checkLaces
  dsimp only
  refine .foldl ?_ (fun _ _ _ => ?_)
  · exact .refl
  · refine .ite (fun _ => ?_) (fun _ => ?_)
    · refine .step ?_ (ptrCheck_keeps ..)
      refine .ite (fun _ => ?_) (fun _ => ?_)
      · refine .step ?_ (ptrCheck_keeps ..)
        assumption
      · assumption
    · refine .ite (fun _ => ?_) (fun _ => ?_)
      · refine .step ?_ (ptrCheck_keeps ..)
        assumption
      · assumption

theorem dispatchEffect_keeps (id : ℕ) (s : State) :
    Keeps [.out, .regs, .cnt, .poison, .queues, .pools, .tasks, .eng, .tck, .crm, .hbm, .cw, .ls, .ldl, .rel, .act, .lnk, .sys, .free] s (dispatchEffect id s) := by
  unfold dispatchEffect
  dsimp only
  split
  · exact .refl
  · refine .ite (fun _ => ?_) (fun _ => ?_)
    · exact .refl
    · refine .ite (fun _ => ?_) (fun _ => ?_)
      · refine .getD ?_ (fun _ _ => ?_)
        · refine .step ?_ (checkLaces_keeps ..)
          exact .refl
        · refine OptKeeps.some (by assumption) ?_
          refine .step ?_ (tryDispatch_keeps ..)
          refine .step ?_ (checkLaces_keeps ..)
          exact .refl
      · refine .step ?_ (checkLaces_keeps ..)
        exact .refl

theorem execTaskDispatch_keeps (task : ℕ) (s : State) :
    ResKeeps [.out, .regs, .cnt, .poison, .queues, .pools, .tasks, .eng, .tck, .crm, .hbm, .cw, .ls, .ldl, .rel, .act, .lnk, .sys, .free] s (execTaskDispatch task s) := by
  unfold execTaskDispatch
  change Keeps _ _ _
  refine .step ?_ (dispatchEffect_keeps ..)
  exact .refl

theorem writeRecord_keeps (t : Task) (specState : ℕ) (s : State) :
    Keeps [.out, .regs, .cnt, .mem, .poison, .epochs, .tasks, .prov, .crm, .hbm, .ecc, .cw, .ls, .ldl, .rel, .act, .sys, .free] s (writeRecord t specState s) := by
  unfold writeRecord
  dsimp only
  refine .ite (fun _ => ?_) (fun _ => ?_)
  · exact .refl
  · refine forJob_keeps ?_ (fun _ _ => ?_)
    · exact .refl
    · dsimp only [Function.comp]
      refine .step ?_ (wrWord_keeps ..)
      refine .step ?_ (wrBytes_keeps ..)
      assumption

theorem returnResv_keeps (t : Task) (s : State) :
    Keeps [.queues] s (returnResv t s) := by
  unfold returnResv
  dsimp only
  refine .foldl ?_ (fun _ _ _ => ?_)
  · exact .refl
  · refine .step ?_ (setQueue_keeps ..)
    assumption

theorem pushAndRelease_keeps (t : Task) (s : State) :
    Keeps [.out, .regs, .queues, .pools, .rel, .sys] s (pushAndRelease t s) := by
  unfold pushAndRelease
  dsimp only
  refine .foldl ?_ (fun _ _ _ => ?_)
  · refine .foldl ?_ (fun _ _ _ => ?_)
    · exact .refl
    · refine .step ?_ (qPut_keeps ..)
      refine .step ?_ (setQueue_keeps ..)
      refine .step ?_ (ptrCheck_keeps ..)
      assumption
  · refine .ite (fun _ => ?_) (fun _ => ?_)
    · refine .step ?_ (releaseEye_keeps ..)
      assumption
    · assumption

theorem releaseOwn_keeps (t : Task) (s : State) :
    Keeps [.out, .regs, .pools, .sys] s (releaseOwn t s) := by
  unfold releaseOwn
  refine .foldl ?_ (fun _ _ _ => ?_)
  · exact .refl
  · refine .ite (fun _ => ?_) (fun _ => ?_)
    · refine .step ?_ (releaseEye_keeps ..)
      assumption
    · assumption

theorem notifyDone_keeps (t : Task) (s : State) :
    Keeps [.out, .regs, .sys] s (notifyDone t s) := by
  unfold notifyDone
  dsimp only
  refine .ite (fun _ => ?_) (fun _ => ?_)
  · exact .refl
  · refine .step ?_ (intSet_keeps ..)
    refine .step ?_ (setReg_keeps ..)
    exact .refl

theorem reduceEnd_keeps (t : Task) (s : State) :
    Keeps [.out, .regs, .cnt, .skm, .lnk, .sys] s (reduceEnd t s) := by
  unfold reduceEnd
  dsimp only
  refine .ite (fun _ => ?_) (fun _ => ?_)
  · refine .ite (fun _ => ?_) (fun _ => ?_)
    · refine .set_lnk ?_ _
      exact .refl
    · refine .ite (fun _ => ?_) (fun _ => ?_)
      · exact .refl
      · refine .step ?_ (disarmTask_keeps ..)
        exact .refl
  · refine .ite (fun _ => ?_) (fun _ => ?_)
    · refine .ite (fun _ => ?_) (fun _ => ?_)
      · refine .step ?_ (deliverSkim_keeps ..)
        refine .set_lnk ?_ _
        refine .step ?_ (disarmTask_keeps ..)
        exact .refl
      · refine .set_lnk ?_ _
        refine .step ?_ (disarmTask_keeps ..)
        exact .refl
    · exact .refl

theorem classCommit_keeps (t : Task) (s : State) :
    Keeps [.out, .regs, .cnt, .ldl, .layers, .skm, .lnk, .sys] s (classCommit t s) := by
  unfold classCommit
  dsimp only
  refine .ite (fun _ => ?_) (fun _ => ?_)
  · refine .step ?_ (reduceEnd_keeps ..)
    refine .step ?_ (countMove_keeps ..)
    refine .ite (fun _ => ?_) (fun _ => ?_)
    · refine .step ?_ (makeRecord_keeps ..)
      refine .ite (fun _ => ?_) (fun _ => ?_)
      · refine .step ?_ (contribute_keeps ..)
        refine .ite (fun _ => ?_) (fun _ => ?_)
        · refine .step ?_ (deliverTask_keeps ..)
          exact .refl
        · exact .refl
      · refine .ite (fun _ => ?_) (fun _ => ?_)
        · refine .step ?_ (deliverTask_keeps ..)
          exact .refl
        · exact .refl
    · refine .ite (fun _ => ?_) (fun _ => ?_)
      · refine .step ?_ (contribute_keeps ..)
        refine .ite (fun _ => ?_) (fun _ => ?_)
        · refine .step ?_ (deliverTask_keeps ..)
          exact .refl
        · exact .refl
      · refine .ite (fun _ => ?_) (fun _ => ?_)
        · refine .step ?_ (deliverTask_keeps ..)
          exact .refl
        · exact .refl
  · refine .step ?_ (countMove_keeps ..)
    refine .ite (fun _ => ?_) (fun _ => ?_)
    · refine .step ?_ (makeRecord_keeps ..)
      refine .ite (fun _ => ?_) (fun _ => ?_)
      · refine .step ?_ (contribute_keeps ..)
        refine .ite (fun _ => ?_) (fun _ => ?_)
        · refine .step ?_ (deliverTask_keeps ..)
          exact .refl
        · exact .refl
      · refine .ite (fun _ => ?_) (fun _ => ?_)
        · refine .step ?_ (deliverTask_keeps ..)
          exact .refl
        · exact .refl
    · refine .ite (fun _ => ?_) (fun _ => ?_)
      · refine .step ?_ (contribute_keeps ..)
        refine .ite (fun _ => ?_) (fun _ => ?_)
        · refine .step ?_ (deliverTask_keeps ..)
          exact .refl
        · exact .refl
      · refine .ite (fun _ => ?_) (fun _ => ?_)
        · refine .step ?_ (deliverTask_keeps ..)
          exact .refl
        · exact .refl

theorem openSpan_keeps (s : State) (e : ℤ × ℤ) :
    Keeps [.mem, .free] s (openSpan s e) := by
  unfold openSpan
  dsimp only
  refine .mkm rfl ?_ (fun hm => ?_) (fun p hp => by cases p <;> first | with_reducible rfl | exact absurd (by decide) hp)
  · exact .refl
  · exact memLose_wf hm

theorem openOutputs_keeps (t : Task) (s : State) :
    Keeps [.mem, .free] s (openOutputs t s) := by
  unfold openOutputs
  refine .ite (fun _ => ?_) (fun _ => ?_)
  · exact .refl
  · refine .foldl ?_ (fun _ _ _ => ?_)
    · exact .refl
    · refine .step ?_ (openSpan_keeps ..)
      assumption

theorem freeLadle_keeps (t : Task) (s : State) :
    Keeps [.eng] s (freeLadle t s) := by
  unfold freeLadle
  refine .ite (fun _ => ?_) (fun _ => ?_)
  · refine .step ?_ (promoteShadow_keeps ..)
    refine .step ?_ (leaveEngine_keeps ..)
    exact .refl
  · exact .refl

theorem commitNow_keeps (t0 : Task) (s : State) :
    Keeps [.out, .regs, .cnt, .mem, .poison, .epochs, .queues, .pools, .tasks, .prov, .eng, .tck, .crm, .hbm, .ecc, .cw, .ls, .ldl, .rel, .act, .layers, .skm, .lnk, .sys, .free] s (commitNow t0 s) := by
  unfold commitNow
  dsimp only
  refine .ite (fun _ => ?_) (fun _ => ?_)
  · refine .step ?_ (putTask_keeps ..)
    refine .ite (fun _ => ?_) (fun _ => ?_)
    · refine .step ?_ (releaseOwn_keeps ..)
      refine .step ?_ (returnResv_keeps ..)
      refine .step ?_ (freeLadle_keeps ..)
      refine .step ?_ (notifyDone_keeps ..)
      refine .step ?_ (markAlive_keeps ..)
      refine .step ?_ (writeRecord_keeps ..)
      refine .step ?_ (classCommit_keeps ..)
      refine .step ?_ (openOutputs_keeps ..)
      refine .set_tck ?_ _
      exact .refl
    · refine .ite (fun _ => ?_) (fun _ => ?_)
      · refine .step ?_ (freeLadle_keeps ..)
        refine .step ?_ (notifyDone_keeps ..)
        refine .step ?_ (markAlive_keeps ..)
        refine .step ?_ (writeRecord_keeps ..)
        refine .step ?_ (classCommit_keeps ..)
        refine .step ?_ (openOutputs_keeps ..)
        refine .set_tck ?_ _
        exact .refl
      · refine .step ?_ (pushAndRelease_keeps ..)
        refine .step ?_ (freeLadle_keeps ..)
        refine .step ?_ (notifyDone_keeps ..)
        refine .step ?_ (markAlive_keeps ..)
        refine .step ?_ (writeRecord_keeps ..)
        refine .step ?_ (classCommit_keeps ..)
        refine .step ?_ (openOutputs_keeps ..)
        refine .set_tck ?_ _
        exact .refl
  · refine .step ?_ (dropTask_keeps ..)
    refine .ite (fun _ => ?_) (fun _ => ?_)
    · refine .step ?_ (releaseOwn_keeps ..)
      refine .step ?_ (returnResv_keeps ..)
      refine .step ?_ (freeLadle_keeps ..)
      refine .step ?_ (notifyDone_keeps ..)
      refine .step ?_ (markAlive_keeps ..)
      refine .step ?_ (writeRecord_keeps ..)
      refine .step ?_ (classCommit_keeps ..)
      refine .step ?_ (openOutputs_keeps ..)
      refine .set_tck ?_ _
      exact .refl
    · refine .ite (fun _ => ?_) (fun _ => ?_)
      · refine .step ?_ (freeLadle_keeps ..)
        refine .step ?_ (notifyDone_keeps ..)
        refine .step ?_ (markAlive_keeps ..)
        refine .step ?_ (writeRecord_keeps ..)
        refine .step ?_ (classCommit_keeps ..)
        refine .step ?_ (openOutputs_keeps ..)
        refine .set_tck ?_ _
        exact .refl
      · refine .step ?_ (pushAndRelease_keeps ..)
        refine .step ?_ (freeLadle_keeps ..)
        refine .step ?_ (notifyDone_keeps ..)
        refine .step ?_ (markAlive_keeps ..)
        refine .step ?_ (writeRecord_keeps ..)
        refine .step ?_ (classCommit_keeps ..)
        refine .step ?_ (openOutputs_keeps ..)
        refine .set_tck ?_ _
        exact .refl

theorem commitEffect_keeps (id : ℕ) (s : State) :
    Keeps [.out, .regs, .cnt, .mem, .poison, .epochs, .queues, .pools, .tasks, .prov, .eng, .tck, .crm, .hbm, .ecc, .cw, .ls, .ldl, .rel, .act, .layers, .skm, .lnk, .sys, .free] s (commitEffect id s) := by
  unfold commitEffect
  split
  · exact .refl
  · refine .ite (fun _ => ?_) (fun _ => ?_)
    · exact .refl
    · split
      · exact .refl
      · refine .step ?_ (commitNow_keeps ..)
        exact .refl

theorem execTaskCommit_keeps (task : ℕ) (s : State) :
    ResKeeps [.out, .regs, .cnt, .mem, .poison, .epochs, .queues, .pools, .tasks, .prov, .eng, .tck, .crm, .hbm, .ecc, .cw, .ls, .ldl, .rel, .act, .layers, .skm, .lnk, .sys, .free] s (execTaskCommit task s) := by
  unfold execTaskCommit
  change Keeps _ _ _
  refine .step ?_ (commitEffect_keeps ..)
  exact .refl

theorem decideEffect_keeps (id : ℕ) (s : State) :
    Keeps [.out, .regs, .cnt, .poison, .tasks, .groups, .eng, .tck, .crm, .hbm, .cw, .ls, .ldl, .rel, .act, .sys, .free] s (decideEffect id s) := by
  unfold decideEffect
  dsimp only
  split
  · exact .refl
  · refine .ite (fun _ => ?_) (fun _ => ?_)
    · exact .refl
    · split
      · exact .refl
      · refine .step ?_ (finish_keeps ..)
        exact .refl
      · refine .step ?_ (finish_keeps ..)
        refine .step ?_ (poisonRead_keeps ..)
        exact .refl
      · refine .step ?_ (putTask_keeps ..)
        refine .step ?_ (setUse_keeps ..)
        refine .step ?_ (markAlive_keeps ..)
        refine forJob_keeps ?_ (fun _ _ => ?_)
        · exact .refl
        · refine .step ?_ (touchReads_keeps ..)
          assumption

theorem execDecideGroup_keeps (task : ℕ) (s : State) :
    ResKeeps [.out, .regs, .cnt, .poison, .tasks, .groups, .eng, .tck, .crm, .hbm, .cw, .ls, .ldl, .rel, .act, .sys, .free] s (execDecideGroup task s) := by
  unfold execDecideGroup
  change Keeps _ _ _
  refine .step ?_ (decideEffect_keeps ..)
  exact .refl

theorem commitLine_keeps (p : ProvLine) (s : State) :
    Keeps [.out, .regs, .cnt, .mem, .poison, .epochs, .tasks, .prov, .drain, .ecc, .cw, .ls, .ldl, .rel, .sys, .free] s (commitLine p s) := by
  unfold commitLine
  dsimp only
  refine .set_drain ?_ _
  refine .ite (fun _ => ?_) (fun _ => ?_)
  · refine .set_poison ?_ _
    refine .foldl ?_ (fun _ _ _ => ?_)
    · refine .step ?_ (provCheck_keeps ..)
      exact .refl
    · refine .step ?_ (landRun_keeps ..)
      assumption
  · refine .foldl ?_ (fun _ _ _ => ?_)
    · refine .step ?_ (provCheck_keeps ..)
      exact .refl
    · refine .step ?_ (landRun_keeps ..)
      assumption

theorem rewriteState_keeps (st : ℕ) (t : Task) (s : State) :
    Keeps [.out, .regs, .cnt, .mem, .poison, .epochs, .tasks, .prov, .crm, .hbm, .ecc, .cw, .ls, .ldl, .rel, .act, .sys, .free] s (rewriteState st t s) := by
  unfold rewriteState
  dsimp only
  refine .ite (fun _ => ?_) (fun _ => ?_)
  · exact .refl
  · refine forJob_keeps ?_ (fun _ _ => ?_)
    · exact .refl
    · refine .step ?_ (wrWord_keeps ..)
      assumption

theorem settleGroup_keeps (job gid use : ℕ) (commit : Bool) (s : State) :
    Keeps [.out, .regs, .cnt, .mem, .poison, .epochs, .queues, .pools, .tasks, .prov, .drain, .crm, .hbm, .ecc, .cw, .ls, .ldl, .rel, .act, .skm, .sys, .free] s (settleGroup job gid use commit s) := by
  unfold settleGroup
  dsimp only
  refine .set_tasks ?_ _
  refine .foldl ?_ (fun _ _ _ => ?_)
  · refine .set_prov ?_ _
    refine .ite (fun _ => ?_) (fun _ => ?_)
    · refine .foldl ?_ (fun _ _ _ => ?_)
      · exact .refl
      · refine .step ?_ (commitLine_keeps ..)
        assumption
    · exact .refl
  · refine .step ?_ (rewriteState_keeps ..)
    refine .step ?_ (settleDelivery_keeps ..)
    refine .ite (fun _ => ?_) (fun _ => ?_)
    · assumption
    · refine .ite (fun _ => ?_) (fun _ => ?_)
      · refine .step ?_ (pushAndRelease_keeps ..)
        assumption
      · refine .step ?_ (releaseOwn_keeps ..)
        refine .step ?_ (returnResv_keeps ..)
        assumption

theorem decideCommit_keeps (t : Task) (s : State) :
    Keeps [.out, .regs, .cnt, .mem, .poison, .epochs, .queues, .pools, .tasks, .prov, .tck, .crm, .hbm, .ecc, .cw, .ls, .ldl, .rel, .act, .sys, .free] s (decideCommit t s) := by
  unfold decideCommit
  dsimp only
  refine .step ?_ (dropTask_keeps ..)
  refine .step ?_ (pushAndRelease_keeps ..)
  refine .step ?_ (notifyDone_keeps ..)
  refine .step ?_ (markAlive_keeps ..)
  refine .step ?_ (writeRecord_keeps ..)
  exact .refl

theorem outcomes_keeps (s : State) :
    Keeps [.out, .regs, .cnt, .mem, .poison, .epochs, .queues, .pools, .tasks, .prov, .drain, .tck, .crm, .hbm, .ecc, .cw, .ls, .ldl, .rel, .act, .layers, .skm, .sys, .free] s (outcomes s) := by
  unfold outcomes
  dsimp only
  refine .set_rel ?_ _
  refine .foldl ?_ (fun _ _ _ => ?_)
  · refine .foldl ?_ (fun _ _ _ => ?_)
    · refine .foldl ?_ (fun _ _ _ => ?_)
      · refine .foldl ?_ (fun _ _ _ => ?_)
        · exact .refl
        · refine .step ?_ (decideCommit_keeps ..)
          refine .step ?_ (settleGroup_keeps ..)
          assumption
      · refine .step ?_ (lossUpdate_keeps ..)
        assumption
    · refine .step ?_ (contribute_keeps ..)
      assumption
  · refine .step ?_ (releaseLate_keeps ..)
    assumption

theorem drainEffect_keeps (job gid line : ℕ) (s : State) :
    Keeps [.out, .regs, .cnt, .drain, .crm, .hbm, .cw, .rel, .act, .sys, .free] s (drainEffect job gid line s) := by
  unfold drainEffect
  dsimp only
  split
  · exact .refl
  · split
    · refine forJob_keeps ?_ (fun _ _ => ?_)
      · refine .step ?_ (bump_keeps ..)
        refine .set_drain ?_ _
        exact .refl
      · refine .step ?_ (cacheTouch_keeps ..)
        assumption
    · refine .step ?_ (bump_keeps ..)
      refine .step ?_ (bump_keeps ..)
      refine .set_drain ?_ _
      exact .refl
    · refine .step ?_ (bump_keeps ..)
      refine .set_drain ?_ _
      exact .refl

theorem execProvisionalDrain_keeps (job group line : ℕ) (s : State) :
    ResKeeps [.out, .regs, .cnt, .drain, .crm, .hbm, .cw, .rel, .act, .sys, .free] s (execProvisionalDrain job group line s) := by
  unfold execProvisionalDrain
  change Keeps _ _ _
  refine .step ?_ (drainEffect_keeps ..)
  exact .refl

/-! ### Machine/Measure.lean -/

theorem journal_keeps (n : ℕ) (s : State) :
    Keeps [.sec] s (journal n s) := by
  unfold journal
  dsimp only
  refine .ite (fun _ => ?_) (fun _ => ?_)
  · refine .set_sec ?_ _
    exact .refl
  · refine .set_sec ?_ _
    exact .refl

theorem writeImage_keeps (g slot : ℕ) (bs : List Byte) (s : State) :
    Keeps [.sec] s (writeImage g slot bs s) := by
  unfold writeImage
  dsimp only
  refine .set_sec ?_ _
  exact .refl

/-! ### Machine/Meter.lean -/

theorem closePart_keeps (ns : ℕ) (s : State) :
    Keeps [.act, .mtr] s (closePart ns s) := by
  unfold closePart
  dsimp only
  refine .mk rfl ?_ rfl (fun p hp => by cases p <;> first | with_reducible rfl | exact absurd (by decide) hp)
  exact .refl

theorem closeTick_keeps (s : State) :
    Keeps [.act, .mtr, .sec, .sys] s (closeTick s) := by
  unfold closeTick
  dsimp only
  refine .mk rfl ?_ rfl (fun p hp => by cases p <;> first | with_reducible rfl | exact absurd (by decide) hp)
  refine .step ?_ (closePart_keeps ..)
  exact .refl

theorem sampleEffect_keeps (rawV rawI : BitVec 24) (sinceNs : ℕ) (fault : Bool) (s : State) :
    Keeps [.out, .regs, .pwr, .mtr, .sys] s (sampleEffect rawV rawI sinceNs fault s) := by
  unfold sampleEffect
  dsimp only
  refine .ite (fun _ => ?_) (fun _ => ?_)
  · exact .refl
  · refine .ite (fun _ => ?_) (fun _ => ?_)
    · refine .step ?_ (raise_keeps ..)
      refine .mk rfl ?_ rfl (fun p hp => by cases p <;> first | with_reducible rfl | exact absurd (by decide) hp)
      exact .refl
    · refine .mk rfl ?_ rfl (fun p hp => by cases p <;> first | with_reducible rfl | exact absurd (by decide) hp)
      exact .refl

theorem execMeterSample_keeps (rawV rawI : BitVec 24) (sinceNs : ℕ) (faultV faultI : Bool) (s : State) :
    ResKeeps [.out, .regs, .pwr, .mtr, .sys] s (execMeterSample rawV rawI sinceNs faultV faultI s) := by
  unfold execMeterSample
  change Keeps _ _ _
  refine .step ?_ (sampleEffect_keeps ..)
  exact .refl

theorem endRuns_keeps (p : Req → Bool) (last : ℕ) (trunc : Bool) (s : State) :
    Keeps [.mtr] s (endRuns p last trunc s) := by
  unfold endRuns
  dsimp only
  refine .set_mtr ?_ _
  exact .refl

theorem reqCtlEffect_keeps (slot : ℕ) (v : Word) (s : State) :
    Keeps [.out, .regs, .mtr, .sys] s (reqCtlEffect slot v s) := by
  unfold reqCtlEffect
  dsimp only
  refine .ite (fun _ => ?_) (fun _ => ?_)
  · refine .ite (fun _ => ?_) (fun _ => ?_)
    · refine .set_mtr ?_ _
      exact .refl
    · exact .refl
  · refine .ite (fun _ => ?_) (fun _ => ?_)
    · refine .step ?_ (raise_keeps ..)
      refine .ite (fun _ => ?_) (fun _ => ?_)
      · refine .set_mtr ?_ _
        exact .refl
      · exact .refl
    · refine .set_mtr ?_ _
      refine .ite (fun _ => ?_) (fun _ => ?_)
      · refine .set_mtr ?_ _
        exact .refl
      · exact .refl

theorem execReqOpen_keeps (who : Initiator) (slot : Fin 32) (v : Word) (s : State) :
    ResKeeps [.out, .regs, .blk, .mtr, .sys] s (execReqOpen who slot v s) := by
  unfold execReqOpen
  change Keeps _ _ _
  refine regGuard_keeps ?_ (fun _ _ _ => ?_)
  · exact .refl
  · refine .step ?_ (reqCtlEffect_keeps ..)
    assumption

theorem execReqClose_keeps (who : Initiator) (slot : Fin 32) (v : Word) (s : State) :
    ResKeeps [.out, .regs, .blk, .mtr, .sys] s (execReqClose who slot v s) := by
  unfold execReqClose
  change Keeps _ _ _
  refine regGuard_keeps ?_ (fun _ _ _ => ?_)
  · exact .refl
  · refine .step ?_ (reqCtlEffect_keeps ..)
    assumption

theorem reqBoundary_keeps (closed : ℕ) (s : State) :
    Keeps [.out, .regs, .mtr, .sys] s (reqBoundary closed s) := by
  unfold reqBoundary
  dsimp only
  refine .set_mtr ?_ _
  refine .foldl ?_ (fun _ _ _ => ?_)
  · refine .step ?_ (endRuns_keeps ..)
    exact .refl
  · refine .ite (fun _ => ?_) (fun _ => ?_)
    · refine .set_mtr ?_ _
      assumption
    · refine .step ?_ (raise_keeps ..)
      assumption

theorem mirrorPtr_keeps (s : State) :
    Keeps [.out, .regs, .cnt, .mem, .poison, .epochs, .tasks, .prov, .crm, .hbm, .ecc, .cw, .ls, .ldl, .rel, .act, .sys, .free] s (mirrorPtr s) := by
  unfold mirrorPtr
  dsimp only
  refine .ite (fun _ => ?_) (fun _ => ?_)
  · refine .step ?_ (wrBytes_keeps ..)
    exact .refl
  · exact .refl

theorem keepFirkin_keeps (f : Firkin) (s : State) :
    Keeps [.out, .regs, .mtr, .sys] s (keepFirkin f s) := by
  unfold keepFirkin
  dsimp only
  refine .ite (fun _ => ?_) (fun _ => ?_)
  · refine .set_mtr ?_ _
    exact .refl
  · split
    · refine .ite (fun _ => ?_) (fun _ => ?_)
      · refine .set_mtr ?_ _
        exact .refl
      · refine .step ?_ (raise_keeps ..)
        refine .step ?_ (setReg_keeps ..)
        refine .set_mtr ?_ _
        exact .refl
    · refine .set_mtr ?_ _
      exact .refl

theorem firkinEffect_keeps (s : State) :
    Keeps [.out, .regs, .cnt, .mem, .poison, .epochs, .tasks, .prov, .crm, .hbm, .ecc, .cw, .ls, .ldl, .rel, .act, .mtr, .sec, .sys, .free] s (firkinEffect s) := by
  unfold firkinEffect
  dsimp only
  split
  · exact .refl
  · refine .step ?_ (intSet_keeps ..)
    refine .step ?_ (setReg_keeps ..)
    refine .step ?_ (keepFirkin_keeps ..)
    refine .step ?_ (journal_keeps ..)
    refine .ite (fun _ => ?_) (fun _ => ?_)
    · refine .step ?_ (mirrorPtr_keeps ..)
      refine .step ?_ (setReg_keeps ..)
      refine .step ?_ (wrBytes_keeps ..)
      refine .set_mtr ?_ _
      exact .refl
    · refine .step ?_ (setReg_keeps ..)
      refine .set_mtr ?_ _
      exact .refl

theorem execFirkinSign_keeps (s : State) :
    ResKeeps [.out, .regs, .cnt, .mem, .poison, .epochs, .tasks, .prov, .crm, .hbm, .ecc, .cw, .ls, .ldl, .rel, .act, .mtr, .sec, .sys, .free] s (execFirkinSign s) := by
  unfold execFirkinSign
  change Keeps _ _ _
  refine .step ?_ (firkinEffect_keeps ..)
  exact .refl

theorem signReady_keeps (s : State) :
    Keeps [.out, .regs, .cnt, .mem, .poison, .epochs, .tasks, .prov, .crm, .hbm, .ecc, .cw, .ls, .ldl, .rel, .act, .mtr, .sec, .sys, .free] s (signReady s) := by
  unfold signReady
  refine .foldl ?_ (fun _ _ _ => ?_)
  · exact .refl
  · refine .step ?_ (firkinEffect_keeps ..)
    assumption

theorem markRead_keeps (f : Firkin → Firkin) (s : State) :
    Keeps [.mtr, .sec] s (markRead f s) := by
  unfold markRead
  dsimp only
  refine .ite (fun _ => ?_) (fun _ => ?_)
  · exact .refl
  · refine .step ?_ (journal_keeps ..)
    refine .set_mtr ?_ _
    exact .refl

theorem firkinPtrEffect_keeps (v : Word) (s : State) :
    Keeps [.out, .regs, .cnt, .mem, .poison, .epochs, .tasks, .prov, .crm, .hbm, .ecc, .cw, .ls, .ldl, .rel, .act, .mtr, .sec, .sys, .free] s (firkinPtrEffect v s) := by
  unfold firkinPtrEffect
  dsimp only
  refine .step ?_ (mirrorPtr_keeps ..)
  refine .step ?_ (setReg_keeps ..)
  refine .step ?_ (markRead_keeps ..)
  exact .refl

/-! ### Machine/Keyed.lean -/

theorem sendMgt_keeps (port : ℕ) (dst : BitVec 48) (chan msg status : ℕ) (data : List Byte) (s : State) :
    Keeps [.out, .cnt] s (sendMgt port dst chan msg status data s) := by
  unfold sendMgt
  dsimp only
  refine .foldl ?_ (fun _ _ _ => ?_)
  · refine .step ?_ (bump_keeps ..)
    refine .step ?_ (bump_keeps ..)
    exact .refl
  · refine .step ?_ (emit_keeps ..)
    assumption

theorem doorAnswer_keeps (x0 : ℕ) (bs : List Byte) (s : State) :
    Keeps [.out, .regs, .cnt, .mem, .poison, .epochs, .tasks, .prov, .crm, .hbm, .ecc, .cw, .ls, .ldl, .rel, .act, .sec, .sys, .free] s (doorAnswer x0 bs s) := by
  unfold doorAnswer
  dsimp only
  refine .ite (fun _ => ?_) (fun _ => ?_)
  · refine .set_sec ?_ _
    exact .refl
  · refine .set_sec ?_ _
    refine .ite (fun _ => ?_) (fun _ => ?_)
    · refine .step ?_ (wrBytes_keeps ..)
      exact .refl
    · exact .refl

theorem doorRetry_keeps (s : State) :
    Keeps [.out, .regs, .cnt, .mem, .poison, .epochs, .tasks, .prov, .crm, .hbm, .ecc, .cw, .ls, .ldl, .rel, .act, .sec, .sys, .free] s (doorRetry s) := by
  unfold doorRetry
  split
  · refine .step ?_ (doorAnswer_keeps ..)
    exact .refl
  · exact .refl

theorem sendResponse_keeps (src : CmdSrc) (bs : List Byte) (s : State) :
    Keeps [.out, .regs, .cnt, .mem, .poison, .epochs, .tasks, .prov, .crm, .hbm, .ecc, .cw, .ls, .ldl, .rel, .act, .sec, .sys, .free] s (sendResponse src bs s) := by
  unfold sendResponse
  split
  · refine .step ?_ (doorAnswer_keeps ..)
    exact .refl
  · refine .step ?_ (sendMgt_keeps ..)
    exact .refl
  · refine .step ?_ (emit_keeps ..)
    exact .refl

theorem takeSource_keeps (e : Envelope) (s : State) :
    Keeps [.mgt] s (takeSource e s).2 := by
  unfold takeSource
  dsimp only
  split
  · dsimp only
    exact .refl
  · split
    · split
      · dsimp only
        refine .set_mgt ?_ _
        exact .refl
      · dsimp only
        exact .refl
    · dsimp only
      exact .refl

theorem rejectCmd_keeps (src : CmdSrc) (e : Envelope) (status : ℕ) (s : State) :
    Keeps [.out, .regs, .cnt, .mem, .poison, .epochs, .tasks, .prov, .crm, .hbm, .ecc, .cw, .ls, .ldl, .rel, .act, .sec, .sys, .free] s (rejectCmd src e status s) := by
  unfold rejectCmd
  refine .step ?_ (sendResponse_keeps ..)
  exact .refl

theorem answerOrHold_keeps (src : CmdSrc) (bs : List Byte) (held : Bool) (s : State) :
    Keeps [.out, .regs, .cnt, .mem, .poison, .epochs, .tasks, .prov, .crm, .hbm, .ecc, .cw, .ls, .ldl, .rel, .act, .sec, .sys, .free] s (answerOrHold src bs held s) := by
  unfold answerOrHold
  dsimp only
  refine .ite (fun _ => ?_) (fun _ => ?_)
  · refine .set_sec ?_ _
    exact .refl
  · refine .step ?_ (sendResponse_keeps ..)
    exact .refl

theorem acceptCmd_keeps (src : CmdSrc) (e : Envelope) (key : List Byte) (keep : Bool) (payload : List Byte) (s : State) :
    Keeps [.out, .regs, .cnt, .mem, .poison, .epochs, .tasks, .prov, .crm, .hbm, .ecc, .cw, .ls, .ldl, .rel, .act, .sec, .sys, .free] s (acceptCmd src e key keep payload s) := by
  unfold acceptCmd
  dsimp only
  refine .step ?_ (answerOrHold_keeps ..)
  refine .set_sec ?_ _
  exact .refl

/-! ### Machine/Quiet.lean -/

theorem downPort_keeps (cause p : ℕ) (s : State) :
    Keeps [.out, .regs, .cnt, .lnk, .sys] s (downPort cause p s) := by
  unfold downPort
  dsimp only
  refine .step ?_ (portState_keeps ..)
  refine .ite (fun _ => ?_) (fun _ => ?_)
  · exact .refl
  · refine .foldl ?_ (fun _ _ _ => ?_)
    · exact .refl
    · refine .step ?_ (sendControl_keeps ..)
      assumption

theorem loseLines_keeps (lpcs : List ℕ) (s : State) :
    Keeps [.mem, .free] s (loseLines lpcs s) := by
  unfold loseLines
  refine .mkm rfl ?_ (fun hm => ?_) (fun p hp => by cases p <;> first | with_reducible rfl | exact absurd (by decide) hp)
  · exact .refl
  · exact memLose_wf hm

theorem leaveTest_keeps (n : ℕ) (s : State) :
    Keeps [.mem, .hbm, .free] s (leaveTest n s) := by
  unfold leaveTest
  dsimp only
  refine .step ?_ (loseLines_keeps ..)
  refine .step ?_ (setHbm_keeps ..)
  exact .refl

theorem refreshOnly_keeps (n : ℕ) (s : State) :
    Keeps [.mem, .hbm, .free] s (refreshOnly n s) := by
  unfold refreshOnly
  dsimp only
  refine .step ?_ (setHbm_keeps ..)
  refine .ite (fun _ => ?_) (fun _ => ?_)
  · refine .step ?_ (leaveTest_keeps ..)
    exact .refl
  · exact .refl

theorem holdStack_keeps (n : ℕ) (s : State) :
    Keeps [.mem, .hbm, .free] s (holdStack n s) := by
  unfold holdStack
  dsimp only
  refine .step ?_ (setHbm_keeps ..)
  refine .step ?_ (refreshOnly_keeps ..)
  exact .refl

theorem truncateAll_keeps (s : State) :
    Keeps [.act, .mtr, .free] s (truncateAll s) := by
  unfold truncateAll
  dsimp only
  refine .set_mtr ?_ _
  refine .step ?_ (endRuns_keeps ..)
  refine .step ?_ (closePart_keeps ..)
  refine .step ?_ (draw_keeps ..)
  exact .refl

theorem failQuiet_keeps (cause kind locus page detail : ℕ) (s : State) :
    Keeps [.out, .regs, .cnt, .mem, .hbm, .rel, .act, .lnk, .mtr, .sys, .free] s (failQuiet cause kind locus page detail s) := by
  unfold failQuiet
  dsimp only
  refine .ite (fun _ => ?_) (fun _ => ?_)
  · exact .refl
  · refine .foldl ?_ (fun _ _ _ => ?_)
    · refine .foldl ?_ (fun _ _ _ => ?_)
      · refine .mk rfl ?_ rfl (fun p hp => by cases p <;> first | with_reducible rfl | exact absurd (by decide) hp)
        refine .step ?_ (truncateAll_keeps ..)
        exact .refl
      · refine .step ?_ (downPort_keeps ..)
        assumption
    · refine .step ?_ (holdStack_keeps ..)
      assumption

end Sys2Proof.Machine
end

