-- ==== Sys2Proof/Laws/FrameBlocks.lean ====
section
/-! SUPPORT. What each function can change, one law a function: power, memory, arrays, reliability, admission, the tick and the boot chain. -/

set_option Elab.async false

namespace Sys2Proof.Machine

/-! ### Machine/Power.lean -/

theorem alertPin_keeps {ps : List Part} {s0 s u : State} (h : Keeps ps s0 u) (hp : [.out] ⊆ ps := by decide) :
    Keeps ps s0 (alertPin s u) := by
  unfold alertPin
  exact .ite (fun _ => h) (fun _ => h.step (emit_keeps ..) hp)

theorem thermInt_keeps (old : Pwr) (s : State) :
    Keeps [.out, .regs, .sys] s (thermInt old s) := by
  unfold thermInt
  refine .ite (fun _ => ?_) (fun _ => ?_)
  · refine .step ?_ (intSet_keeps ..)
    exact .refl
  · exact .refl

theorem readSensor_keeps (s : State) (x : ℕ × Option ℤ) :
    Keeps [.out, .regs, .pwr, .sys] s (readSensor s x) := by
  unfold readSensor
  dsimp only
  split
  · refine .set_pwr ?_ _
    exact .refl
  · refine .ite (fun _ => ?_) (fun _ => ?_)
    · refine .step ?_ (raise_keeps ..)
      refine .set_pwr ?_ _
      exact .refl
    · refine .set_pwr ?_ _
      exact .refl

theorem dieEffect_keeps (readings : List (Option ℤ)) (s : State) :
    Keeps [.out, .regs, .cnt, .mem, .hbm, .rel, .act, .lnk, .pwr, .mtr, .sys, .free] s (dieEffect readings s) := by
  unfold dieEffect
  dsimp only
  refine .ite (fun _ => ?_) (fun _ => ?_)
  · exact .refl
  · split
    · refine .foldl ?_ (fun _ _ _ => ?_)
      · exact .refl
      · refine .step ?_ (readSensor_keeps ..)
        assumption
    · refine .ite (fun _ => ?_) (fun _ => ?_)
      · refine .step ?_ (failQuiet_keeps ..)
        refine alertPin_keeps ?_
        refine .ite (fun _ => ?_) (fun _ => ?_)
        · refine .step ?_ (raiseEv_keeps ..)
          refine .step ?_ (thermInt_keeps ..)
          refine .set_pwr ?_ _
          refine .foldl ?_ (fun _ _ _ => ?_)
          · exact .refl
          · refine .step ?_ (readSensor_keeps ..)
            assumption
        · refine .step ?_ (thermInt_keeps ..)
          refine .set_pwr ?_ _
          refine .foldl ?_ (fun _ _ _ => ?_)
          · exact .refl
          · refine .step ?_ (readSensor_keeps ..)
            assumption
      · refine alertPin_keeps ?_
        refine .ite (fun _ => ?_) (fun _ => ?_)
        · refine .step ?_ (raiseEv_keeps ..)
          refine .step ?_ (thermInt_keeps ..)
          refine .set_pwr ?_ _
          refine .foldl ?_ (fun _ _ _ => ?_)
          · exact .refl
          · refine .step ?_ (readSensor_keeps ..)
            assumption
        · refine .step ?_ (thermInt_keeps ..)
          refine .set_pwr ?_ _
          refine .foldl ?_ (fun _ _ _ => ?_)
          · exact .refl
          · refine .step ?_ (readSensor_keeps ..)
            assumption

theorem execDieTempRead_keeps (readings : List (Option ℤ)) (s : State) :
    ResKeeps [.out, .regs, .cnt, .mem, .hbm, .rel, .act, .lnk, .pwr, .mtr, .sys, .free] s (execDieTempRead readings s) := by
  unfold execDieTempRead
  change Keeps _ _ _
  refine .step ?_ (dieEffect_keeps ..)
  exact .refl

theorem inletEffect_keeps (inlet outlet : ℤ) (s : State) :
    Keeps [.out, .regs, .pwr, .sys] s (inletEffect inlet outlet s) := by
  unfold inletEffect
  dsimp only
  refine .ite (fun _ => ?_) (fun _ => ?_)
  · exact .refl
  · refine alertPin_keeps ?_
    refine .step ?_ (thermInt_keeps ..)
    refine .set_pwr ?_ _
    exact .refl

theorem execInletRead_keeps (inlet outlet : ℤ) (s : State) :
    ResKeeps [.out, .regs, .pwr, .sys] s (execInletRead inlet outlet s) := by
  unfold execInletRead
  change Keeps _ _ _
  refine .step ?_ (inletEffect_keeps ..)
  exact .refl

theorem estimate_keeps (s : State) :
    Keeps [.pwr] s (estimate s) := by
  unfold estimate
  dsimp only
  refine .set_pwr ?_ _
  exact .refl

theorem loadPwrRegs_keeps (s : State) :
    Keeps [.regs, .pwr, .sec] s (loadPwrRegs s) := by
  unfold loadPwrRegs
  dsimp only
  refine .mk rfl ?_ rfl (fun p hp => by cases p <;> first | with_reducible rfl | exact absurd (by decide) hp)
  refine .ite (fun _ => ?_) (fun _ => ?_)
  · refine .step ?_ (setReg_keeps ..)
    exact .refl
  · exact .refl

theorem setPwrThrot_keeps (s : State) :
    Keeps [.hbm] s (setPwrThrot s) := by
  unfold setPwrThrot
  dsimp only
  refine .foldl ?_ (fun _ _ _ => ?_)
  · exact .refl
  · refine .step ?_ (setHbm_keeps ..)
    assumption

theorem capNotice_keeps (s : State) :
    Keeps [.out, .cnt, .act, .lnk, .keys] s (capNotice s) := by
  unfold capNotice
  dsimp only
  refine .ite (fun _ => ?_) (fun _ => ?_)
  · refine .step ?_ (slowNotice_keeps ..)
    refine .set_lnk ?_ _
    exact .refl
  · refine .ite (fun _ => ?_) (fun _ => ?_)
    · refine .step ?_ (slowNotice_keeps ..)
      refine .set_lnk ?_ _
      exact .refl
    · exact .refl

theorem pwrCounts_keeps (cuts : ℕ) (slow : Bool) (s : State) :
    Keeps [.cnt] s (pwrCounts cuts slow s) := by
  unfold pwrCounts
  dsimp only
  refine .ite (fun _ => ?_) (fun _ => ?_)
  · refine .step ?_ (bump_keeps ..)
    refine .ite (fun _ => ?_) (fun _ => ?_)
    · refine .step ?_ (bump_keeps ..)
      refine .ite (fun _ => ?_) (fun _ => ?_)
      · refine .step ?_ (bump_keeps ..)
        refine .ite (fun _ => ?_) (fun _ => ?_)
        · refine .step ?_ (bump_keeps ..)
          refine .step ?_ (bump_keeps ..)
          refine .ite (fun _ => ?_) (fun _ => ?_)
          · refine .step ?_ (bump_keeps ..)
            exact .refl
          · exact .refl
        · refine .step ?_ (bump_keeps ..)
          refine .ite (fun _ => ?_) (fun _ => ?_)
          · refine .step ?_ (bump_keeps ..)
            exact .refl
          · exact .refl
      · refine .ite (fun _ => ?_) (fun _ => ?_)
        · refine .step ?_ (bump_keeps ..)
          refine .step ?_ (bump_keeps ..)
          refine .ite (fun _ => ?_) (fun _ => ?_)
          · refine .step ?_ (bump_keeps ..)
            exact .refl
          · exact .refl
        · refine .step ?_ (bump_keeps ..)
          refine .ite (fun _ => ?_) (fun _ => ?_)
          · refine .step ?_ (bump_keeps ..)
            exact .refl
          · exact .refl
    · refine .ite (fun _ => ?_) (fun _ => ?_)
      · refine .step ?_ (bump_keeps ..)
        refine .ite (fun _ => ?_) (fun _ => ?_)
        · refine .step ?_ (bump_keeps ..)
          refine .step ?_ (bump_keeps ..)
          refine .ite (fun _ => ?_) (fun _ => ?_)
          · refine .step ?_ (bump_keeps ..)
            exact .refl
          · exact .refl
        · refine .step ?_ (bump_keeps ..)
          refine .ite (fun _ => ?_) (fun _ => ?_)
          · refine .step ?_ (bump_keeps ..)
            exact .refl
          · exact .refl
      · refine .ite (fun _ => ?_) (fun _ => ?_)
        · refine .step ?_ (bump_keeps ..)
          refine .step ?_ (bump_keeps ..)
          refine .ite (fun _ => ?_) (fun _ => ?_)
          · refine .step ?_ (bump_keeps ..)
            exact .refl
          · exact .refl
        · refine .step ?_ (bump_keeps ..)
          refine .ite (fun _ => ?_) (fun _ => ?_)
          · refine .step ?_ (bump_keeps ..)
            exact .refl
          · exact .refl
  · refine .ite (fun _ => ?_) (fun _ => ?_)
    · refine .step ?_ (bump_keeps ..)
      refine .ite (fun _ => ?_) (fun _ => ?_)
      · refine .step ?_ (bump_keeps ..)
        refine .ite (fun _ => ?_) (fun _ => ?_)
        · refine .step ?_ (bump_keeps ..)
          refine .step ?_ (bump_keeps ..)
          refine .ite (fun _ => ?_) (fun _ => ?_)
          · refine .step ?_ (bump_keeps ..)
            exact .refl
          · exact .refl
        · refine .step ?_ (bump_keeps ..)
          refine .ite (fun _ => ?_) (fun _ => ?_)
          · refine .step ?_ (bump_keeps ..)
            exact .refl
          · exact .refl
      · refine .ite (fun _ => ?_) (fun _ => ?_)
        · refine .step ?_ (bump_keeps ..)
          refine .step ?_ (bump_keeps ..)
          refine .ite (fun _ => ?_) (fun _ => ?_)
          · refine .step ?_ (bump_keeps ..)
            exact .refl
          · exact .refl
        · refine .step ?_ (bump_keeps ..)
          refine .ite (fun _ => ?_) (fun _ => ?_)
          · refine .step ?_ (bump_keeps ..)
            exact .refl
          · exact .refl
    · refine .ite (fun _ => ?_) (fun _ => ?_)
      · refine .step ?_ (bump_keeps ..)
        refine .ite (fun _ => ?_) (fun _ => ?_)
        · refine .step ?_ (bump_keeps ..)
          refine .step ?_ (bump_keeps ..)
          refine .ite (fun _ => ?_) (fun _ => ?_)
          · refine .step ?_ (bump_keeps ..)
            exact .refl
          · exact .refl
        · refine .step ?_ (bump_keeps ..)
          refine .ite (fun _ => ?_) (fun _ => ?_)
          · refine .step ?_ (bump_keeps ..)
            exact .refl
          · exact .refl
      · refine .ite (fun _ => ?_) (fun _ => ?_)
        · refine .step ?_ (bump_keeps ..)
          refine .step ?_ (bump_keeps ..)
          refine .ite (fun _ => ?_) (fun _ => ?_)
          · refine .step ?_ (bump_keeps ..)
            exact .refl
          · exact .refl
        · refine .step ?_ (bump_keeps ..)
          refine .ite (fun _ => ?_) (fun _ => ?_)
          · refine .step ?_ (bump_keeps ..)
            exact .refl
          · exact .refl

theorem powerDecision_keeps (s : State) :
    Keeps [.out, .regs, .cnt, .tck, .hbm, .act, .lnk, .keys, .pwr, .sec, .sys] s (powerDecision s) := by
  unfold powerDecision
  dsimp only
  refine .step ?_ (capNotice_keeps ..)
  refine .step ?_ (pwrCounts_keeps ..)
  refine .ite (fun _ => ?_) (fun _ => ?_)
  · refine .step ?_ (intSet_keeps ..)
    refine .step ?_ (setPwrThrot_keeps ..)
    refine .mk rfl ?_ rfl (fun p hp => by cases p <;> first | with_reducible rfl | exact absurd (by decide) hp)
    refine .step ?_ (loadPwrRegs_keeps ..)
    exact .refl
  · refine .step ?_ (setPwrThrot_keeps ..)
    refine .mk rfl ?_ rfl (fun p hp => by cases p <;> first | with_reducible rfl | exact absurd (by decide) hp)
    refine .step ?_ (loadPwrRegs_keeps ..)
    exact .refl

theorem pwrCapEffect_keeps (v : Word) (s : State) :
    Keeps [.out, .regs, .sys] s (pwrCapEffect v s) := by
  unfold pwrCapEffect
  refine .ite (fun _ => ?_) (fun _ => ?_)
  · refine .step ?_ (raise_keeps ..)
    exact .refl
  · refine .step ?_ (storeReg_keeps ..)
    exact .refl

theorem execPwrCapWrite_keeps (who : Initiator) (v : Word) (s : State) :
    ResKeeps [.out, .regs, .blk, .sys] s (execPwrCapWrite who v s) := by
  unfold execPwrCapWrite
  change Keeps _ _ _
  refine regGuard_keeps ?_ (fun _ _ _ => ?_)
  · exact .refl
  · refine .step ?_ (pwrCapEffect_keeps ..)
    assumption

theorem capUnmetEffect_keeps (s : State) :
    Keeps [.out, .regs, .rel, .pwr, .sys] s (capUnmetEffect s) := by
  unfold capUnmetEffect
  dsimp only
  refine .ite (fun _ => ?_) (fun _ => ?_)
  · exact .refl
  · refine .step ?_ (raiseEv_keeps ..)
    refine .set_pwr ?_ _
    exact .refl

theorem execCapUnmet_keeps (s : State) :
    ResKeeps [.out, .regs, .rel, .pwr, .sys] s (execCapUnmet s) := by
  unfold execCapUnmet
  change Keeps _ _ _
  refine .step ?_ (capUnmetEffect_keeps ..)
  exact .refl

theorem droopEffect_keeps (fabric : Bool) (det : ℕ) (s : State) :
    Keeps [.out, .regs, .cnt, .pwr, .sys] s (droopEffect fabric det s) := by
  unfold droopEffect
  dsimp only
  refine .ite (fun _ => ?_) (fun _ => ?_)
  · exact .refl
  · refine .step ?_ (intSet_keeps ..)
    refine .step ?_ (bump_keeps ..)
    refine .set_pwr ?_ _
    exact .refl

theorem execDroop_keeps (fabric : Bool) (det : Fin 20) (s : State) :
    ResKeeps [.out, .regs, .cnt, .pwr, .sys] s (execDroop fabric det s) := by
  unfold execDroop
  change Keeps _ _ _
  refine .step ?_ (droopEffect_keeps ..)
  exact .refl

theorem execDroopRelease_keeps (fabric : Bool) (s : State) :
    ResKeeps [.pwr] s (execDroopRelease fabric s) := by
  unfold execDroopRelease
  dsimp only
  change Keeps _ _ _
  refine .set_pwr ?_ _
  exact .refl

theorem fastEffect_keeps (s : State) :
    Keeps [.cnt, .pwr] s (fastEffect s) := by
  unfold fastEffect
  dsimp only
  refine .ite (fun _ => ?_) (fun _ => ?_)
  · exact .refl
  · refine .step ?_ (bump_keeps ..)
    refine .set_pwr ?_ _
    exact .refl

theorem execFastTrip_keeps (s : State) :
    ResKeeps [.cnt, .pwr] s (execFastTrip s) := by
  unfold execFastTrip
  change Keeps _ _ _
  refine .step ?_ (fastEffect_keeps ..)
  exact .refl

theorem execOverCurrent_keeps (s : State) :
    ResKeeps [.cnt, .pwr] s (execOverCurrent s) := by
  unfold execOverCurrent
  change Keeps _ _ _
  refine .step ?_ (fastEffect_keeps ..)
  exact .refl

theorem inputRangeEffect_keeps (milliV : ℕ) (s : State) :
    Keeps [.out, .regs, .sys] s (inputRangeEffect milliV s) := by
  unfold inputRangeEffect
  refine .ite (fun _ => ?_) (fun _ => ?_)
  · refine .step ?_ (raise_keeps ..)
    exact .refl
  · exact .refl

theorem execInputRange_keeps (milliV : ℕ) (s : State) :
    ResKeeps [.out, .regs, .sys] s (execInputRange milliV s) := by
  unfold execInputRange
  change Keeps _ _ _
  refine .step ?_ (inputRangeEffect_keeps ..)
  exact .refl

theorem inputUvEffect_keeps (milliV : ℕ) (s : State) :
    Keeps [.out, .regs, .hbm, .pwr, .sys] s (inputUvEffect milliV s) := by
  unfold inputUvEffect
  refine .ite (fun _ => ?_) (fun _ => ?_)
  · refine .step ?_ (raise_keeps ..)
    refine .step ?_ (setPwrThrot_keeps ..)
    refine .set_pwr ?_ _
    exact .refl
  · exact .refl

theorem execInputUv_keeps (milliV : ℕ) (s : State) :
    ResKeeps [.out, .regs, .hbm, .pwr, .sys] s (execInputUv milliV s) := by
  unfold execInputUv
  change Keeps _ _ _
  refine .step ?_ (inputUvEffect_keeps ..)
  exact .refl

theorem execRailSettled_keeps (pllSettled : Bool) (s : State) :
    ResKeeps [.pwr] s (execRailSettled pllSettled s) := by
  unfold execRailSettled
  change Keeps _ _ _
  refine .set_pwr ?_ _
  exact .refl

theorem setTrim_keeps (v : ℤ) (s : State) :
    Keeps [.out, .regs, .clk, .sys] s (setTrim v s) := by
  unfold setTrim
  dsimp only
  refine .ite (fun _ => ?_) (fun _ => ?_)
  · refine .step ?_ (raise_keeps ..)
    refine .set_clk ?_ _
    exact .refl
  · refine .set_clk ?_ _
    exact .refl

theorem takeVt_keeps (s : State) :
    Keeps [.out, .regs, .pwr, .clk, .sec, .sys] s (takeVt s) := by
  unfold takeVt
  dsimp only
  split
  · refine .step ?_ (setTrim_keeps ..)
    refine .mk rfl ?_ rfl (fun p hp => by cases p <;> first | with_reducible rfl | exact absurd (by decide) hp)
    exact .refl
  · refine .step ?_ (raise_keeps ..)
    refine .step ?_ (setTrim_keeps ..)
    refine .mk rfl ?_ rfl (fun p hp => by cases p <;> first | with_reducible rfl | exact absurd (by decide) hp)
    exact .refl

theorem holdAck_keeps (page : ℕ) (s : State) :
    Keeps [.blk] s (holdAck page s) := by
  unfold holdAck
  dsimp only
  refine .ite (fun _ => ?_) (fun _ => ?_)
  · exact .refl
  · refine .step ?_ (setBlk_keeps ..)
    exact .refl

theorem pllWindow_keeps (n : ℕ) (j : Judge) (s : State) :
    Keeps [.out, .regs, .blk, .rel, .clk, .sys] s (pllWindow n j s) := by
  unfold pllWindow
  dsimp only
  refine .ite (fun _ => ?_) (fun _ => ?_)
  · refine .step ?_ (raiseEv_keeps ..)
    refine .set_clk ?_ _
    exact .refl
  · refine .ite (fun _ => ?_) (fun _ => ?_)
    · refine .step ?_ (report_keeps ..)
      refine .set_clk ?_ _
      exact .refl
    · refine .ite (fun _ => ?_) (fun _ => ?_)
      · refine .foldl ?_ (fun _ _ _ => ?_)
        · refine .set_clk ?_ _
          exact .refl
        · refine .step ?_ (setBlk_keeps ..)
          assumption
      · refine .set_clk ?_ _
        exact .refl

theorem refWindow_keeps (j : Judge) (s : State) :
    Keeps [.out, .regs, .cnt, .rel, .clk, .sys] s (refWindow j s) := by
  unfold refWindow
  dsimp only
  refine .ite (fun _ => ?_) (fun _ => ?_)
  · refine .step ?_ (raise_keeps ..)
    refine .step ?_ (intSet_keeps ..)
    refine .step ?_ (bump_keeps ..)
    refine .mk rfl ?_ rfl (fun p hp => by cases p <;> first | with_reducible rfl | exact absurd (by decide) hp)
    exact .refl
  · refine .ite (fun _ => ?_) (fun _ => ?_)
    · refine .step ?_ (intSet_keeps ..)
      refine .mk rfl ?_ rfl (fun p hp => by cases p <;> first | with_reducible rfl | exact absurd (by decide) hp)
      exact .refl
    · refine .ite (fun _ => ?_) (fun _ => ?_)
      · refine .step ?_ (report_keeps ..)
        refine .mk rfl ?_ rfl (fun p hp => by cases p <;> first | with_reducible rfl | exact absurd (by decide) hp)
        exact .refl
      · refine .mk rfl ?_ rfl (fun p hp => by cases p <;> first | with_reducible rfl | exact absurd (by decide) hp)
        exact .refl

theorem moveTrim_keeps (d : ℤ) (s : State) :
    Keeps [.out, .regs, .cnt, .clk, .sys] s (moveTrim d s) := by
  unfold moveTrim
  refine .step ?_ (setTrim_keeps ..)
  refine .step ?_ (bump_keeps ..)
  exact .refl

theorem oscWindow_keeps (count : ℕ) (j : Judge) (s : State) :
    Keeps [.out, .regs, .cnt, .clk, .sys] s (oscWindow count j s) := by
  unfold oscWindow
  dsimp only
  refine .ite (fun _ => ?_) (fun _ => ?_)
  · refine .step ?_ (intSet_keeps ..)
    refine .set_clk ?_ _
    refine .ite (fun _ => ?_) (fun _ => ?_)
    · refine .step ?_ (moveTrim_keeps ..)
      refine .set_clk ?_ _
      exact .refl
    · refine .set_clk ?_ _
      exact .refl
  · refine .ite (fun _ => ?_) (fun _ => ?_)
    · refine .step ?_ (moveTrim_keeps ..)
      refine .set_clk ?_ _
      exact .refl
    · refine .set_clk ?_ _
      exact .refl

theorem trimByMarks_keeps (s : State) :
    Keeps [.out, .regs, .cnt, .clk, .sys, .free] s (trimByMarks s) := by
  unfold trimByMarks
  dsimp only
  refine .ite (fun _ => ?_) (fun _ => ?_)
  · refine .step ?_ (moveTrim_keeps ..)
    refine .step ?_ (draw_keeps ..)
    exact .refl
  · exact .refl

theorem judgeEffect_keeps (c : Clock) (count : ℕ) (s : State) :
    Keeps [.out, .regs, .cnt, .blk, .rel, .clk, .sys] s (judgeEffect c count s) := by
  unfold judgeEffect
  dsimp only
  refine .ite (fun _ => ?_) (fun _ => ?_)
  · exact .refl
  · split
    · refine .step ?_ (refWindow_keeps ..)
      refine .step ?_ (bump_keeps ..)
      refine .ite (fun _ => ?_) (fun _ => ?_)
      · refine .set_sys ?_ _
        exact .refl
      · exact .refl
    · refine .step ?_ (oscWindow_keeps ..)
      refine .step ?_ (bump_keeps ..)
      refine .ite (fun _ => ?_) (fun _ => ?_)
      · refine .set_sys ?_ _
        exact .refl
      · exact .refl
    · refine .step ?_ (pllWindow_keeps ..)
      refine .step ?_ (bump_keeps ..)
      refine .ite (fun _ => ?_) (fun _ => ?_)
      · refine .set_sys ?_ _
        exact .refl
      · exact .refl

theorem execJudgeWindow_keeps (c : Clock) (count : ℕ) (s : State) :
    ResKeeps [.out, .regs, .cnt, .blk, .rel, .clk, .sys] s (execJudgeWindow c count s) := by
  unfold execJudgeWindow
  change Keeps _ _ _
  refine .step ?_ (judgeEffect_keeps ..)
  exact .refl

theorem refFailEffect_keeps (s : State) :
    Keeps [.out, .regs, .clk, .sys] s (refFailEffect s) := by
  unfold refFailEffect
  dsimp only
  refine .ite (fun _ => ?_) (fun _ => ?_)
  · refine .step ?_ (raise_keeps ..)
    refine .set_clk ?_ _
    exact .refl
  · exact .refl

theorem execRefFail_keeps (s : State) :
    ResKeeps [.out, .regs, .clk, .sys] s (execRefFail s) := by
  unfold execRefFail
  change Keeps _ _ _
  refine .step ?_ (refFailEffect_keeps ..)
  exact .refl

theorem execRefStartFail_keeps (s : State) :
    ResKeeps [.sys] s (execRefStartFail s) := by
  unfold execRefStartFail
  dsimp only
  change Keeps _ _ _
  refine .ite (fun _ => ?_) (fun _ => ?_)
  · refine .set_sys ?_ _
    exact .refl
  · exact .refl

/-! ### Machine/Creamery.lean -/

theorem zeroRange_keeps (lo hi : ℕ) (s : State) :
    Keeps [.mem, .poison, .cw] s (zeroRange lo hi s) := by
  unfold zeroRange
  refine .mkm rfl ?_ (fun hm => ?_) (fun p hp => by cases p <;> first | with_reducible rfl | exact absurd (by decide) hp)
  · exact .refl
  · exact memZero_wf hm

theorem zeroGranules_keeps (x0 b : ℕ) (s : State) :
    Keeps [.mem, .poison, .cw] s (zeroGranules x0 b s) := by
  unfold zeroGranules
  refine .step ?_ (zeroRange_keeps ..)
  exact .refl

theorem dropTags_keeps (ns : List ℕ) (s : State) :
    Keeps [.crm, .cw] s (dropTags ns s) := by
  unfold dropTags
  dsimp only
  refine .step ?_ (pruneCw_keeps ..)
  refine .set_crm ?_ _
  exact .refl

theorem rehomeStart_keeps (n : ℕ) (copy : Bool) (s : State) :
    OptKeeps [.blk, .crm, .cw, .lnk] s (rehomeStart n copy s) := by
  unfold rehomeStart
  dsimp only
  split
  · trivial
  · change Keeps _ _ _
    refine .set_crm ?_ _
    refine .ite (fun _ => ?_) (fun _ => ?_)
    · refine .foldl ?_ (fun _ _ _ => ?_)
      · refine .step ?_ (dropTags_keeps ..)
        refine .step ?_ (setBlk_keeps ..)
        exact .refl
      · refine .step ?_ (copySlots_keeps ..)
        assumption
    · refine .step ?_ (dropTags_keeps ..)
      refine .step ?_ (setBlk_keeps ..)
      exact .refl

theorem copyLines_keeps (n : ℕ) (gs : List (ℕ × ℕ × Bool)) (p q : ℕ) (s : State) :
    Keeps [.out, .regs, .cnt, .poison, .prov, .cw, .rel, .sys, .free] s (copyLines n gs p q s) := by
  unfold copyLines
  dsimp only
  refine .ite (fun _ => ?_) (fun _ => ?_)
  · refine .step ?_ (raise_keeps ..)
    refine .foldl ?_ (fun _ _ _ => ?_)
    · refine .foldl ?_ (fun _ _ _ => ?_)
      · exact .refl
      · refine .ite (fun _ => ?_) (fun _ => ?_)
        · refine .step ?_ (wordFixed_keeps ..)
          assumption
        · refine .step ?_ (wordLost_keeps ..)
          assumption
    · refine .step ?_ (provCheck_keeps ..)
      assumption
  · refine .foldl ?_ (fun _ _ _ => ?_)
    · refine .foldl ?_ (fun _ _ _ => ?_)
      · exact .refl
      · refine .ite (fun _ => ?_) (fun _ => ?_)
        · refine .step ?_ (wordFixed_keeps ..)
          assumption
        · refine .step ?_ (wordLost_keeps ..)
          assumption
    · refine .step ?_ (provCheck_keeps ..)
      assumption

theorem rehomeEffect_keeps (n : ℕ) (s : State) :
    Keeps [.out, .regs, .cnt, .poison, .prov, .crm, .cw, .rel, .lnk, .sys, .free] s (rehomeEffect n s) := by
  unfold rehomeEffect
  dsimp only
  split
  · exact .refl
  · refine .step ?_ (intSet_keeps ..)
    refine .mk rfl ?_ rfl (fun p hp => by cases p <;> first | with_reducible rfl | exact absurd (by decide) hp)
    refine .step ?_ (copyLines_keeps ..)
    exact .refl

theorem execRehomeDone_keeps (slice : Fin 64) (s : State) :
    ResKeeps [.out, .regs, .cnt, .poison, .prov, .crm, .cw, .rel, .lnk, .sys, .free] s (execRehomeDone slice s) := by
  unfold execRehomeDone
  change Keeps _ _ _
  refine .step ?_ (rehomeEffect_keeps ..)
  exact .refl

theorem rehost_keeps (s : State) :
    Keeps [.out, .regs, .cnt, .poison, .prov, .crm, .cw, .rel, .lnk, .sys, .free] s (rehost s) := by
  unfold rehost
  dsimp only
  refine .foldl ?_ (fun _ _ _ => ?_)
  · refine .set_crm ?_ _
    refine .foldl ?_ (fun _ _ _ => ?_)
    · exact .refl
    · refine .step ?_ (rehomeEffect_keeps ..)
      assumption
  · refine .set_crm ?_ _
    assumption

theorem startChange_keeps (normal : Bool) (sp : ℕ) (s : State) :
    Keeps [.out, .regs, .cnt, .poison, .prov, .crm, .cw, .rel, .lnk, .sys, .free] s (startChange normal sp s) := by
  unfold startChange
  dsimp only
  refine .step ?_ (rehost_keeps ..)
  refine .step ?_ (pruneCw_keeps ..)
  refine .set_crm ?_ _
  exact .refl

theorem crmModeEffect_keeps (v : Word) (s : State) :
    Keeps [.out, .regs, .cnt, .mem, .poison, .prov, .crm, .cw, .rel, .lnk, .sys, .free] s (crmModeEffect v s) := by
  unfold crmModeEffect
  refine .ite (fun _ => ?_) (fun _ => ?_)
  · exact .refl
  · refine .ite (fun _ => ?_) (fun _ => ?_)
    · refine .step ?_ (raise_keeps ..)
      exact .refl
    · refine .step ?_ (startChange_keeps ..)
      refine .step ?_ (zeroGranules_keeps ..)
      exact .refl

theorem execCrmModeWrite_keeps (who : Initiator) (v : Word) (s : State) :
    ResKeeps [.out, .regs, .cnt, .mem, .poison, .blk, .prov, .crm, .cw, .rel, .lnk, .sys, .free] s (execCrmModeWrite who v s) := by
  unfold execCrmModeWrite
  change Keeps _ _ _
  refine regGuard_keeps ?_ (fun _ _ _ => ?_)
  · exact .refl
  · refine .step ?_ (crmModeEffect_keeps ..)
    assumption

theorem crmPartEffect_keeps (v : Word) (s : State) :
    Keeps [.out, .regs, .cnt, .mem, .poison, .prov, .crm, .cw, .rel, .lnk, .sys, .free] s (crmPartEffect v s) := by
  unfold crmPartEffect
  dsimp only
  refine .ite (fun _ => ?_) (fun _ => ?_)
  · exact .refl
  · refine .ite (fun _ => ?_) (fun _ => ?_)
    · refine .step ?_ (raise_keeps ..)
      exact .refl
    · refine .step ?_ (startChange_keeps ..)
      refine .step ?_ (setReg_keeps ..)
      refine .step ?_ (zeroGranules_keeps ..)
      exact .refl

theorem execCrmPartWrite_keeps (who : Initiator) (v : Word) (s : State) :
    ResKeeps [.out, .regs, .cnt, .mem, .poison, .blk, .prov, .crm, .cw, .rel, .lnk, .sys, .free] s (execCrmPartWrite who v s) := by
  unfold execCrmPartWrite
  change Keeps _ _ _
  refine regGuard_keeps ?_ (fun _ _ _ => ?_)
  · exact .refl
  · refine .step ?_ (crmPartEffect_keeps ..)
    assumption

theorem modeDoneEffect_keeps (s : State) :
    Keeps [.out, .regs, .crm, .sys] s (modeDoneEffect s) := by
  unfold modeDoneEffect
  dsimp only
  refine .ite (fun _ => ?_) (fun _ => ?_)
  · refine .step ?_ (intSet_keeps ..)
    refine .set_crm ?_ _
    exact .refl
  · exact .refl

theorem execModeChangeDone_keeps (s : State) :
    ResKeeps [.out, .regs, .crm, .sys] s (execModeChangeDone s) := by
  unfold execModeChangeDone
  change Keeps _ _ _
  refine .step ?_ (modeDoneEffect_keeps ..)
  exact .refl

theorem rehomeTick_keeps (s : State) :
    Keeps [.out, .regs, .cnt, .poison, .prov, .crm, .cw, .rel, .sys, .free] s (rehomeTick s) := by
  unfold rehomeTick
  dsimp only
  refine .foldl ?_ (fun _ _ _ => ?_)
  · exact .refl
  · refine .set_crm ?_ _
    refine .step ?_ (copyLines_keeps ..)
    refine .step ?_ (draw_keeps ..)
    assumption

theorem keepCfgEffect_keeps (v : Word) (s : State) :
    Keeps [.regs, .crm] s (keepCfgEffect v s) := by
  unfold keepCfgEffect
  dsimp only
  refine .set_crm ?_ _
  refine .step ?_ (setReg_keeps ..)
  exact .refl

theorem scrubEffect_keeps (slice x1 : ℕ) (found : Ecc) (s : State) :
    Keeps [.out, .regs, .cnt, .poison, .cw, .rel, .sys, .free] s (scrubEffect slice x1 found s) := by
  unfold scrubEffect
  dsimp only
  refine .ite (fun _ => ?_) (fun _ => ?_)
  · exact .refl
  · split
    · exact .refl
    · refine .step ?_ (wordFixed_keeps ..)
      exact .refl
    · refine .step ?_ (wordLost_keeps ..)
      exact .refl

theorem execScrub_keeps (slice : Fin 64) (addr : ℕ) (found : Ecc) (s : State) :
    ResKeeps [.out, .regs, .cnt, .poison, .cw, .rel, .sys, .free] s (execScrub slice addr found s) := by
  unfold execScrub
  change Keeps _ _ _
  refine .step ?_ (scrubEffect_keeps ..)
  exact .refl

/-! ### Machine/Hbm.lean -/

theorem hbmRequest_keeps (n req : ℕ) (s : State) :
    Keeps [.out, .regs, .mem, .hbm, .sys, .free] s (hbmRequest n req s) := by
  unfold hbmRequest
  dsimp only
  refine .ite (fun _ => ?_) (fun _ => ?_)
  · refine .step ?_ (raise_keeps ..)
    exact .refl
  · refine .ite (fun _ => ?_) (fun _ => ?_)
    · refine .step ?_ (setHbm_keeps ..)
      refine .step ?_ (setReg_keeps ..)
      refine .step ?_ (setHbm_keeps ..)
      exact .refl
    · refine .ite (fun _ => ?_) (fun _ => ?_)
      · refine .step ?_ (setHbm_keeps ..)
        refine .step ?_ (setReg_keeps ..)
        exact .refl
      · refine .ite (fun _ => ?_) (fun _ => ?_)
        · refine .step ?_ (setHbm_keeps ..)
          refine .step ?_ (setReg_keeps ..)
          refine .step ?_ (leaveTest_keeps ..)
          exact .refl
        · refine .ite (fun _ => ?_) (fun _ => ?_)
          · refine .step ?_ (setHbm_keeps ..)
            refine .step ?_ (setReg_keeps ..)
            refine .step ?_ (setHbm_keeps ..)
            exact .refl
          · refine .ite (fun _ => ?_) (fun _ => ?_)
            · refine .step ?_ (setHbm_keeps ..)
              refine .step ?_ (setReg_keeps ..)
              exact .refl
            · refine .step ?_ (raise_keeps ..)
              exact .refl

theorem execHbmInit_keeps (who : Initiator) (n : Fin 8) (s : State) :
    ResKeeps [.out, .regs, .mem, .blk, .hbm, .sys, .free] s (execHbmInit who n s) := by
  unfold execHbmInit
  change Keeps _ _ _
  refine regGuard_keeps ?_ (fun _ _ _ => ?_)
  · exact .refl
  · refine .step ?_ (hbmRequest_keeps ..)
    assumption

theorem execHbmActive_keeps (who : Initiator) (n : Fin 8) (s : State) :
    ResKeeps [.out, .regs, .mem, .blk, .hbm, .sys, .free] s (execHbmActive who n s) := by
  unfold execHbmActive
  change Keeps _ _ _
  refine regGuard_keeps ?_ (fun _ _ _ => ?_)
  · exact .refl
  · refine .step ?_ (hbmRequest_keeps ..)
    assumption

theorem execSelfRefresh_keeps (who : Initiator) (n : Fin 8) (s : State) :
    ResKeeps [.out, .regs, .mem, .blk, .hbm, .sys, .free] s (execSelfRefresh who n s) := by
  unfold execSelfRefresh
  change Keeps _ _ _
  refine regGuard_keeps ?_ (fun _ _ _ => ?_)
  · exact .refl
  · refine .step ?_ (hbmRequest_keeps ..)
    assumption

theorem execHbmTest_keeps (who : Initiator) (n : Fin 8) (s : State) :
    ResKeeps [.out, .regs, .mem, .blk, .hbm, .sys, .free] s (execHbmTest who n s) := by
  unfold execHbmTest
  change Keeps _ _ _
  refine regGuard_keeps ?_ (fun _ _ _ => ?_)
  · exact .refl
  · refine .step ?_ (hbmRequest_keeps ..)
    assumption

theorem initDoneEffect_keeps (n : ℕ) (ok : Bool) (s : State) :
    Keeps [.hbm] s (initDoneEffect n ok s) := by
  unfold initDoneEffect
  dsimp only
  refine .ite (fun _ => ?_) (fun _ => ?_)
  · exact .refl
  · refine .step ?_ (setHbm_keeps ..)
    exact .refl

theorem execHbmInitDone_keeps (n : Fin 8) (ok : Bool) (s : State) :
    ResKeeps [.hbm] s (execHbmInitDone n ok s) := by
  unfold execHbmInitDone
  change Keeps _ _ _
  refine .step ?_ (initDoneEffect_keeps ..)
  exact .refl

theorem enterTherm_keeps (n st : ℕ) (s : State) :
    Keeps [.out, .regs, .cnt, .hbm, .rel, .act, .lnk, .keys, .sys] s (enterTherm n st s) := by
  unfold enterTherm
  dsimp only
  refine .ite (fun _ => ?_) (fun _ => ?_)
  · exact .refl
  · refine .ite (fun _ => ?_) (fun _ => ?_)
    · refine .step ?_ (slowNotice_keeps ..)
      refine .set_lnk ?_ _
      refine .step ?_ (bump_keeps ..)
      refine .step ?_ (intSet_keeps ..)
      refine .step ?_ (setHbm_keeps ..)
      exact .refl
    · refine .ite (fun _ => ?_) (fun _ => ?_)
      · refine alertPin_keeps ?_
        refine .step ?_ (raiseEv_keeps ..)
        refine .step ?_ (bump_keeps ..)
        refine .step ?_ (setHbm_keeps ..)
        refine .step ?_ (intSet_keeps ..)
        refine .step ?_ (setHbm_keeps ..)
        exact .refl
      · refine .step ?_ (intSet_keeps ..)
        refine .step ?_ (setHbm_keeps ..)
        exact .refl

theorem stackTempEffect_keeps (n : ℕ) (reading : Option ℕ) (s : State) :
    Keeps [.out, .regs, .cnt, .hbm, .rel, .act, .lnk, .keys, .sys] s (stackTempEffect n reading s) := by
  unfold stackTempEffect
  dsimp only
  split
  · refine .ite (fun _ => ?_) (fun _ => ?_)
    · refine .step ?_ (enterTherm_keeps ..)
      refine .step ?_ (setHbm_keeps ..)
      exact .refl
    · refine .step ?_ (setHbm_keeps ..)
      exact .refl
  · refine .ite (fun _ => ?_) (fun _ => ?_)
    · refine .ite (fun _ => ?_) (fun _ => ?_)
      · refine .step ?_ (enterTherm_keeps ..)
        refine .step ?_ (raise_keeps ..)
        refine .step ?_ (setHbm_keeps ..)
        exact .refl
      · refine .step ?_ (raise_keeps ..)
        refine .step ?_ (setHbm_keeps ..)
        exact .refl
    · refine .step ?_ (setHbm_keeps ..)
      exact .refl

theorem execStackTempRead_keeps (n : Fin 8) (reading : Option ℕ) (s : State) :
    ResKeeps [.out, .regs, .cnt, .hbm, .rel, .act, .lnk, .keys, .sys] s (execStackTempRead n reading s) := by
  unfold execStackTempRead
  change Keeps _ _ _
  refine .step ?_ (stackTempEffect_keeps ..)
  exact .refl

theorem coolStack_keeps (n : ℕ) (s : State) :
    Keeps [.out, .regs, .cnt, .hbm, .rel, .act, .lnk, .keys, .sys] s (coolStack n s) := by
  unfold coolStack
  dsimp only
  refine .ite (fun _ => ?_) (fun _ => ?_)
  · exact .refl
  · refine alertPin_keeps ?_
    refine .ite (fun _ => ?_) (fun _ => ?_)
    · refine .step ?_ (setHbm_keeps ..)
      refine .step ?_ (enterTherm_keeps ..)
      exact .refl
    · refine .step ?_ (enterTherm_keeps ..)
      exact .refl

theorem hbmBoundary_keeps (s : State) :
    Keeps [.out, .regs, .cnt, .hbm, .rel, .act, .lnk, .keys, .sys] s (hbmBoundary s) := by
  unfold hbmBoundary
  dsimp only
  refine .foldl ?_ (fun _ _ _ => ?_)
  · refine .set_lnk ?_ _
    refine .foldl ?_ (fun _ _ _ => ?_)
    · exact .refl
    · refine .step ?_ (coolStack_keeps ..)
      assumption
  · refine .step ?_ (slowNotice_keeps ..)
    assumption

theorem refreshEffect_keeps (n : ℕ) (s : State) :
    Keeps [.cnt] s (refreshEffect n s) := by
  unfold refreshEffect
  refine .ite (fun _ => ?_) (fun _ => ?_)
  · refine .step ?_ (bump_keeps ..)
    exact .refl
  · exact .refl

theorem execRefresh_keeps (n : Fin 8) (_pc : Fin 64) (s : State) :
    ResKeeps [.cnt] s (execRefresh n _pc s) := by
  unfold execRefresh
  change Keeps _ _ _
  refine .step ?_ (refreshEffect_keeps ..)
  exact .refl

theorem pcMove_keeps (n pc : ℕ) (dst : Option ℕ) (s : State) :
    Keeps [.hbm, .lpc, .lnk] s (pcMove n pc dst s) := by
  unfold pcMove
  dsimp only
  split
  · refine .step ?_ (copySlots_keeps ..)
    refine .set_lpc ?_ _
    refine .step ?_ (setHbm_keeps ..)
    exact .refl
  · refine .step ?_ (setHbm_keeps ..)
    exact .refl

theorem pcReplace_keeps (n pc : ℕ) (keep : Option ℕ) (copy : Bool) (s : State) :
    OptKeeps [.hbm, .lpc, .lnk] s (pcReplace n pc keep copy s) := by
  unfold pcReplace
  dsimp only
  split
  · change Keeps _ _ _
    refine .step ?_ (pcMove_keeps ..)
    exact .refl
  · split
    · trivial
    · split
      · change Keeps _ _ _
        refine .step ?_ (copySlots_keeps ..)
        refine .step ?_ (setHbm_keeps ..)
        exact .refl
      · change Keeps _ _ _
        refine .step ?_ (pcMove_keeps ..)
        exact .refl

theorem copyPoison_keeps (line : ℕ) (s : State) :
    Keeps [.out, .regs, .cnt, .poison, .rel, .sys, .free] s (copyPoison line s) := by
  unfold copyPoison
  dsimp only
  refine .step ?_ (raiseFree_keeps ..)
  refine .step ?_ (bump_keeps ..)
  refine .step ?_ (setReg_keeps ..)
  refine .set_poison ?_ _
  exact .refl

theorem pcCopyTo_keeps (n k : ℕ) (s : State) :
    Keeps [.out, .regs, .cnt, .poison, .hbm, .ecc, .rel, .sys, .free] s (pcCopyTo n k s) := by
  unfold pcCopyTo
  dsimp only
  refine .ite (fun _ => ?_) (fun _ => ?_)
  · refine .step ?_ (raise_keeps ..)
    refine .step ?_ (setHbm_keeps ..)
    refine .step ?_ (bump_keeps ..)
    refine .step ?_ (bump_keeps ..)
    refine .step ?_ (bump_keeps ..)
    refine .step ?_ (bump_keeps ..)
    refine .set_ecc ?_ _
    refine .foldl ?_ (fun _ _ _ => ?_)
    · refine .foldl ?_ (fun _ _ _ => ?_)
      · exact .refl
      · refine .step ?_ (eccCorrect_keeps ..)
        assumption
    · refine .step ?_ (copyPoison_keeps ..)
      assumption
  · refine .step ?_ (setHbm_keeps ..)
    refine .step ?_ (bump_keeps ..)
    refine .step ?_ (bump_keeps ..)
    refine .step ?_ (bump_keeps ..)
    refine .step ?_ (bump_keeps ..)
    refine .set_ecc ?_ _
    refine .foldl ?_ (fun _ _ _ => ?_)
    · refine .foldl ?_ (fun _ _ _ => ?_)
      · exact .refl
      · refine .step ?_ (eccCorrect_keeps ..)
        assumption
    · refine .step ?_ (copyPoison_keeps ..)
      assumption

theorem pcCopyTick_keeps (s : State) :
    Keeps [.out, .regs, .cnt, .poison, .hbm, .ecc, .rel, .sys, .free] s (pcCopyTick s) := by
  unfold pcCopyTick
  dsimp only
  refine .foldl ?_ (fun _ _ _ => ?_)
  · exact .refl
  · refine .ite (fun _ => ?_) (fun _ => ?_)
    · refine .step ?_ (pcCopyTo_keeps ..)
      refine .step ?_ (draw_keeps ..)
      assumption
    · assumption

theorem pcDoneEffect_keeps (n : ℕ) (s : State) :
    Keeps [.out, .regs, .cnt, .poison, .hbm, .ecc, .lpc, .rel, .lnk, .sys, .free] s (pcDoneEffect n s) := by
  unfold pcDoneEffect
  dsimp only
  refine .ite (fun _ => ?_) (fun _ => ?_)
  · exact .refl
  · refine .step ?_ (intSet_keeps ..)
    refine .step ?_ (pcMove_keeps ..)
    refine .step ?_ (setHbm_keeps ..)
    refine .step ?_ (pcCopyTo_keeps ..)
    exact .refl

theorem execPcRehomeDone_keeps (n : Fin 8) (s : State) :
    ResKeeps [.out, .regs, .cnt, .poison, .hbm, .ecc, .lpc, .rel, .lnk, .sys, .free] s (execPcRehomeDone n s) := by
  unfold execPcRehomeDone
  change Keeps _ _ _
  refine .step ?_ (pcDoneEffect_keeps ..)
  exact .refl

theorem marginEffect_keeps (n : ℕ) (v : Word) (s : State) :
    Keeps [.out, .regs, .hbm, .sys] s (marginEffect n v s) := by
  unfold marginEffect
  dsimp only
  refine .ite (fun _ => ?_) (fun _ => ?_)
  · refine .step ?_ (raise_keeps ..)
    exact .refl
  · refine .step ?_ (setHbm_keeps ..)
    refine .step ?_ (storeReg_keeps ..)
    exact .refl

theorem execMarginRun_keeps (who : Initiator) (n : Fin 8) (v : Word) (s : State) :
    ResKeeps [.out, .regs, .blk, .hbm, .sys] s (execMarginRun who n v s) := by
  unfold execMarginRun
  change Keeps _ _ _
  refine regGuard_keeps ?_ (fun _ _ _ => ?_)
  · exact .refl
  · refine .step ?_ (marginEffect_keeps ..)
    assumption

theorem marginPatEffect_keeps (n : ℕ) (v : Word) (s : State) :
    Keeps [.out, .regs, .sys] s (marginPatEffect n v s) := by
  unfold marginPatEffect
  refine .ite (fun _ => ?_) (fun _ => ?_)
  · refine .step ?_ (raise_keeps ..)
    exact .refl
  · refine .step ?_ (storeReg_keeps ..)
    exact .refl

theorem marginDoneEffect_keeps (n errors : ℕ) (bits : BitVec 32) (s : State) :
    Keeps [.out, .regs, .hbm, .sys] s (marginDoneEffect n errors bits s) := by
  unfold marginDoneEffect
  dsimp only
  refine .ite (fun _ => ?_) (fun _ => ?_)
  · exact .refl
  · refine .step ?_ (intSet_keeps ..)
    refine .step ?_ (setHbm_keeps ..)
    exact .refl

theorem execMarginDone_keeps (n : Fin 8) (errors : ℕ) (bits : BitVec 32) (s : State) :
    ResKeeps [.out, .regs, .hbm, .sys] s (execMarginDone n errors bits s) := by
  unfold execMarginDone
  change Keeps _ _ _
  refine .step ?_ (marginDoneEffect_keeps ..)
  exact .refl

theorem trackPeakEffect_keeps (n : ℕ) (s : State) :
    Keeps [.resp, .hbm, .free] s (trackPeakEffect n s) := by
  unfold trackPeakEffect
  dsimp only
  refine .ite (fun _ => ?_) (fun _ => ?_)
  · refine .step ?_ (answer_keeps ..)
    exact .refl
  · refine .ite (fun _ => ?_) (fun _ => ?_)
    · refine .step ?_ (answer_keeps ..)
      exact .refl
    · refine .step ?_ (answer_keeps ..)
      refine .step ?_ (setHbm_keeps ..)
      refine .step ?_ (draw_keeps ..)
      exact .refl

theorem execTrackPeakRead_keeps (_who : Initiator) (n : Fin 8) (s : State) :
    ResKeeps [.resp, .hbm, .free] s (execTrackPeakRead _who n s) := by
  unfold execTrackPeakRead
  change Keeps _ _ _
  refine .step ?_ (trackPeakEffect_keeps ..)
  exact .refl

/-! ### Machine/Arrays.lean -/

theorem clearCounters_keeps (page : ℕ) (s : State) :
    Keeps [.cnt] s (clearCounters page s) := by
  unfold clearCounters
  refine .set_cnt ?_ _
  exact .refl

theorem arrayModeEffect_keeps (n : ℕ) (v : Word) (s : State) :
    Keeps [.out, .regs, .cnt, .arr, .sys] s (arrayModeEffect n v s) := by
  unfold arrayModeEffect
  dsimp only
  refine .ite (fun _ => ?_) (fun _ => ?_)
  · refine .step ?_ (raise_keeps ..)
    exact .refl
  · refine .ite (fun _ => ?_) (fun _ => ?_)
    · exact .refl
    · refine .step ?_ (clearCounters_keeps ..)
      refine .step ?_ (setArr_keeps ..)
      refine .step ?_ (storeReg_keeps ..)
      exact .refl

theorem execArrayModeWrite_keeps (who : Initiator) (n : Fin 4) (v : Word) (s : State) :
    ResKeeps [.out, .regs, .cnt, .blk, .arr, .sys] s (execArrayModeWrite who n v s) := by
  unfold execArrayModeWrite
  change Keeps _ _ _
  refine regGuard_keeps ?_ (fun _ _ _ => ?_)
  · exact .refl
  · refine .step ?_ (arrayModeEffect_keeps ..)
    assumption

theorem armUnit_keeps (n : ℕ) (s : State) (q : ℕ) :
    Keeps [.arr] s (armUnit n s q) := by
  unfold armUnit
  dsimp only
  refine .ite (fun _ => ?_) (fun _ => ?_)
  · exact .refl
  · refine .ite (fun _ => ?_) (fun _ => ?_)
    · refine .step ?_ (setUnit_keeps ..)
      exact .refl
    · refine .step ?_ (setUnit_keeps ..)
      exact .refl

theorem swapEffect_keeps (n : ℕ) (v : Word) (s : State) :
    Keeps [.regs, .arr] s (swapEffect n v s) := by
  unfold swapEffect
  refine .foldl ?_ (fun _ _ _ => ?_)
  · refine .step ?_ (storeReg_keeps ..)
    exact .refl
  · refine .step ?_ (armUnit_keeps ..)
    assumption

theorem execSwapArm_keeps (who : Initiator) (n : Fin 4) (v : Word) (s : State) :
    ResKeeps [.out, .regs, .blk, .arr, .sys] s (execSwapArm who n v s) := by
  unfold execSwapArm
  change Keeps _ _ _
  refine regGuard_keeps ?_ (fun _ _ _ => ?_)
  · exact .refl
  · refine .step ?_ (swapEffect_keeps ..)
    assumption

theorem markReady_keeps (n q : ℕ) (load : Option (ℕ × ℕ)) (page6 : Bool) (s : State) :
    Keeps [.arr] s (markReady n q load page6 s) := by
  unfold markReady
  dsimp only
  refine .step ?_ (setUnit_keeps ..)
  exact .refl

theorem loadReadyEffect_keeps (n q : ℕ) (s : State) :
    Keeps [.out, .regs, .cnt, .poison, .tasks, .eng, .crm, .hbm, .cw, .ls, .ldl, .rel, .arr, .act, .sys, .free] s (loadReadyEffect n q s) := by
  unfold loadReadyEffect
  dsimp only
  refine .ite (fun _ => ?_) (fun _ => ?_)
  · exact .refl
  · split
    · refine .ite (fun _ => ?_) (fun _ => ?_)
      · exact .refl
      · refine .step ?_ (markReady_keeps ..)
        exact .refl
    · refine .ite (fun _ => ?_) (fun _ => ?_)
      · exact .refl
      · split
        · refine .step ?_ (markReady_keeps ..)
          refine .step ?_ (loadTile_keeps ..)
          refine StepKeeps.go (by assumption) ?_
          refine lsChecked_keeps ?_ (fun _ _ => ?_)
          · exact .refl
          · change Keeps _ _ _
            assumption
        · refine .step ?_ (finish_keeps ..)
          refine StepKeeps.fail (by assumption) ?_
          refine lsChecked_keeps ?_ (fun _ _ => ?_)
          · exact .refl
          · change Keeps _ _ _
            assumption
        · exact .refl

theorem execLoadReady_keeps (n q : Fin 4) (s : State) :
    ResKeeps [.out, .regs, .cnt, .poison, .tasks, .eng, .crm, .hbm, .cw, .ls, .ldl, .rel, .arr, .act, .sys, .free] s (execLoadReady n q s) := by
  unfold execLoadReady
  change Keeps _ _ _
  refine .step ?_ (loadReadyEffect_keeps ..)
  exact .refl

theorem chainedEffect_keeps (n q : ℕ) (s : State) :
    Keeps [.arr] s (chainedEffect n q s) := by
  unfold chainedEffect
  dsimp only
  refine .ite (fun _ => ?_) (fun _ => ?_)
  · exact .refl
  · refine .step ?_ (setUnit_keeps ..)
    exact .refl

theorem execChainedLoadStart_keeps (n q : Fin 4) (s : State) :
    ResKeeps [.arr] s (execChainedLoadStart n q s) := by
  unfold execChainedLoadStart
  change Keeps _ _ _
  refine .step ?_ (chainedEffect_keeps ..)
  exact .refl

theorem passStartEffect_keeps (n q : ℕ) (s : State) :
    Keeps [.arr] s (passStartEffect n q s) := by
  unfold passStartEffect
  refine .ite (fun _ => ?_) (fun _ => ?_)
  · exact .refl
  · split
    · refine .step ?_ (swapIn_keeps ..)
      exact .refl
    · refine .ite (fun _ => ?_) (fun _ => ?_)
      · refine .step ?_ (swapIn_keeps ..)
        exact .refl
      · exact .refl

theorem execTilePassStart_keeps (n q : Fin 4) (s : State) :
    ResKeeps [.arr] s (execTilePassStart n q s) := by
  unfold execTilePassStart
  change Keeps _ _ _
  refine .step ?_ (passStartEffect_keeps ..)
  exact .refl

theorem keeperDownEffect_keeps (n q gap : ℕ) (s : State) :
    Keeps [.cnt, .arr, .act] s (keeperDownEffect n q gap s) := by
  unfold keeperDownEffect
  dsimp only
  refine .ite (fun _ => ?_) (fun _ => ?_)
  · exact .refl
  · refine .ite (fun _ => ?_) (fun _ => ?_)
    · refine .step ?_ (dummyRows_keeps ..)
      refine .step ?_ (setUnit_keeps ..)
      exact .refl
    · refine .ite (fun _ => ?_) (fun _ => ?_)
      · refine .step ?_ (bump_keeps ..)
        refine .step ?_ (dummyRows_keeps ..)
        refine .step ?_ (setUnit_keeps ..)
        exact .refl
      · refine .step ?_ (dummyRows_keeps ..)
        refine .step ?_ (setUnit_keeps ..)
        exact .refl

theorem execKeeperStepDown_keeps (n q : Fin 4) (gap : ℕ) (s : State) :
    ResKeeps [.cnt, .arr, .act] s (execKeeperStepDown n q gap s) := by
  unfold execKeeperStepDown
  change Keeps _ _ _
  refine .step ?_ (keeperDownEffect_keeps ..)
  exact .refl

theorem keepCtlEffect_keeps (n : ℕ) (v : Word) (s : State) :
    Keeps [.regs, .arr] s (keepCtlEffect n v s) := by
  unfold keepCtlEffect
  dsimp only
  refine .ite (fun _ => ?_) (fun _ => ?_)
  · refine .step ?_ (storeReg_keeps ..)
    exact .refl
  · refine .step ?_ (setArr_keeps ..)
    refine .step ?_ (storeReg_keeps ..)
    exact .refl

theorem keeperUpEffect_keeps (n q : ℕ) (s : State) :
    Keeps [.cnt, .arr, .act] s (keeperUpEffect n q s) := by
  unfold keeperUpEffect
  dsimp only
  refine .ite (fun _ => ?_) (fun _ => ?_)
  · exact .refl
  · refine .step ?_ (bump_keeps ..)
    refine .step ?_ (dummyRows_keeps ..)
    refine .step ?_ (setUnit_keeps ..)
    exact .refl

theorem execKeeperStepUp_keeps (n q : Fin 4) (s : State) :
    ResKeeps [.cnt, .arr, .act] s (execKeeperStepUp n q s) := by
  unfold execKeeperStepUp
  change Keeps _ _ _
  refine .step ?_ (keeperUpEffect_keeps ..)
  exact .refl

theorem longStallEffect_keeps (n : ℕ) (column : Bool) (idx cycles : ℕ) (s : State) :
    Keeps [.out, .regs, .arr, .sys] s (longStallEffect n column idx cycles s) := by
  unfold longStallEffect
  dsimp only
  refine .ite (fun _ => ?_) (fun _ => ?_)
  · exact .refl
  · refine .ite (fun _ => ?_) (fun _ => ?_)
    · refine .step ?_ (intSet_keeps ..)
      refine .step ?_ (setArr_keeps ..)
      exact .refl
    · refine .step ?_ (setArr_keeps ..)
      exact .refl

theorem execLongStall_keeps (n : Fin 4) (column : Bool) (idx : Fin 32) (cycles : ℕ) (s : State) :
    ResKeeps [.out, .regs, .arr, .sys] s (execLongStall n column idx cycles s) := by
  unfold execLongStall
  change Keeps _ _ _
  refine .step ?_ (longStallEffect_keeps ..)
  exact .refl

theorem putCell_keeps (n : ℕ) (bank : Bool) (r c v : ℕ) (s : State) :
    Keeps [.arr] s (putCell n bank r c v s) := by
  unfold putCell
  dsimp only
  refine .step ?_ (setArr_keeps ..)
  exact .refl

theorem bankWritten_keeps (n q : ℕ) (bank last : Bool) (w k : ℕ) (s : State) :
    Keeps [.arr] s (bankWritten n q bank last w k s) := by
  unfold bankWritten
  dsimp only
  refine .ite (fun _ => ?_) (fun _ => ?_)
  · refine .step ?_ (setUnit_keeps ..)
    exact .refl
  · refine .ite (fun _ => ?_) (fun _ => ?_)
    · exact .refl
    · refine .ite (fun _ => ?_) (fun _ => ?_)
      · refine .step ?_ (setUnit_keeps ..)
        exact .refl
      · refine .step ?_ (markReady_keeps ..)
        refine .step ?_ (setUnit_keeps ..)
        exact .refl

theorem tbankEffect_keeps (n w : ℕ) (v : Word) (s : State) :
    Keeps [.out, .regs, .arr, .sys] s (tbankEffect n w v s) := by
  unfold tbankEffect
  dsimp only
  refine .ite (fun _ => ?_) (fun _ => ?_)
  · refine .step ?_ (raise_keeps ..)
    exact .refl
  · refine .step ?_ (bankWritten_keeps ..)
    refine .foldl ?_ (fun _ _ _ => ?_)
    · exact .refl
    · refine .step ?_ (putCell_keeps ..)
      assumption

theorem execTbankRowWrite_keeps (who : Initiator) (n : Fin 4) (w : Fin 128) (v : Word) (s : State) :
    ResKeeps [.out, .regs, .blk, .arr, .sys] s (execTbankRowWrite who n w v s) := by
  unfold execTbankRowWrite
  change Keeps _ _ _
  refine regGuard_keeps ?_ (fun _ _ _ => ?_)
  · exact .refl
  · refine .step ?_ (tbankEffect_keeps ..)
    assumption

/-! ### Machine/Cper.lean -/

theorem ringPut_keeps (bs : List Byte) (s : State) :
    Keeps [.out, .regs, .cnt, .mem, .poison, .epochs, .tasks, .prov, .crm, .hbm, .ecc, .cw, .ls, .ldl, .rel, .act, .sys, .free] s (ringPut bs s) := by
  unfold ringPut
  dsimp only
  refine .ite (fun _ => ?_) (fun _ => ?_)
  · refine .step ?_ (wrBytes_keeps ..)
    refine .step ?_ (wrBytes_keeps ..)
    exact .refl
  · refine .step ?_ (raise_keeps ..)
    refine .set_rel ?_ _
    exact .refl

theorem emitRecord_keeps (e : ErrEvent) (r : RecInfo) (s0 : State) :
    Keeps [.out, .regs, .cnt, .mem, .poison, .epochs, .tasks, .prov, .crm, .hbm, .ecc, .cw, .ls, .ldl, .rel, .act, .mtr, .sec, .sys, .free] s0 (emitRecord e r s0) := by
  unfold emitRecord
  dsimp only
  refine .ite (fun _ => ?_) (fun _ => ?_)
  · refine .step ?_ (journal_keeps ..)
    refine .set_rel ?_ _
    refine .step ?_ (signReady_keeps ..)
    exact .refl
  · refine .step ?_ (ringPut_keeps ..)
    refine .step ?_ (journal_keeps ..)
    refine .set_rel ?_ _
    refine .step ?_ (signReady_keeps ..)
    exact .refl

theorem infoRecord_keeps (code inst unit kind locus detail : ℕ) (r : RecInfo) (s : State) :
    Keeps [.out, .regs, .cnt, .mem, .poison, .epochs, .tasks, .prov, .crm, .hbm, .ecc, .cw, .ls, .ldl, .rel, .act, .mtr, .sec, .sys, .free] s (infoRecord code inst unit kind locus detail r s) := by
  unfold infoRecord
  dsimp only
  refine .step ?_ (emitRecord_keeps ..)
  exact .refl

theorem suspectUnit_keeps (code inst unit kind locus : ℕ) (s : State) :
    Keeps [.out, .regs, .cnt, .mem, .poison, .epochs, .blk, .tasks, .prov, .crm, .hbm, .ecc, .cw, .ls, .ldl, .rel, .act, .mtr, .sec, .sys, .free] s (suspectUnit code inst unit kind locus s) := by
  unfold suspectUnit
  dsimp only
  refine .ite (fun _ => ?_) (fun _ => ?_)
  · refine .set_rel ?_ _
    exact .refl
  · refine .step ?_ (infoRecord_keeps ..)
    refine .step ?_ (setBlk_keeps ..)
    refine .set_rel ?_ _
    exact .refl

theorem suspectSeen_keeps (code inst unit : ℕ) (s : State) :
    Keeps [.rel] s (suspectSeen code inst unit s) := by
  unfold suspectSeen
  dsimp only
  refine .set_rel ?_ _
  exact .refl

theorem mapStart_keeps (q : MapReq) (s : State) :
    Keeps [.out, .regs, .blk, .crm, .hbm, .cw, .lpc, .lnk, .sys] s (mapStart q s).2 := by
  unfold mapStart
  split
  · dsimp only
    exact .refl
  · split
    · dsimp only
      exact .refl
    · split
      · dsimp only
        exact .refl
      · split
        · split
          · dsimp only
            refine OptKeeps.some (by assumption) ?_
            refine .step ?_ (rehomeStart_keeps ..)
            exact .refl
          · dsimp only
            exact .refl
        · split
          · split
            · dsimp only
              refine OptKeeps.some (by assumption) ?_
              refine .step ?_ (pcReplace_keeps ..)
              exact .refl
            · dsimp only
              refine .step ?_ (raise_keeps ..)
              exact .refl
          · dsimp only
            exact .refl

theorem mapBegin_keeps (s : State) :
    Keeps [.out, .regs, .blk, .crm, .hbm, .cw, .lpc, .rel, .lnk, .sys] s (mapBegin s) := by
  unfold mapBegin
  dsimp only
  split
  · refine .set_rel ?_ _
    exact .refl
  · refine .ite (fun _ => ?_) (fun _ => ?_)
    · exact .refl
    · refine .set_rel ?_ _
      refine .step ?_ (mapStart_keeps ..)
      exact .refl

theorem mapEnqueue_keeps (q : MapReq) (s : State) :
    Keeps [.out, .regs, .blk, .crm, .hbm, .cw, .lpc, .rel, .lnk, .sys] s (mapEnqueue q s) := by
  unfold mapEnqueue
  dsimp only
  refine .step ?_ (mapBegin_keeps ..)
  refine .set_rel ?_ _
  exact .refl

/-! ### Machine/Reliab.lean -/

theorem actPermanent_keeps (e : ErrEvent) (kind : ℕ) (s : State) :
    Keeps [.out, .regs, .cnt, .mem, .poison, .epochs, .blk, .tasks, .prov, .crm, .hbm, .ecc, .cw, .ls, .lpc, .ldl, .rel, .act, .lnk, .mtr, .sec, .sys, .free] s (actPermanent e kind s).2 := by
  unfold actPermanent
  split
  · dsimp only
    refine .step ?_ (suspectUnit_keeps ..)
    exact .refl
  · split
    · dsimp only
      exact .refl
    · split
      · split
        · dsimp only
          refine .step ?_ (mapEnqueue_keeps ..)
          exact .refl
        · dsimp only
          exact .refl
      · dsimp only
        exact .refl

theorem histApply_keeps (e : ErrEvent) (s : State) :
    Keeps [.out, .regs, .cnt, .mem, .poison, .epochs, .blk, .tasks, .prov, .crm, .hbm, .ecc, .cw, .ls, .lpc, .ldl, .rel, .act, .lnk, .mtr, .sec, .sys, .free] s (histApply e s).2.2 := by
  unfold histApply
  dsimp only
  split
  · split
    · split
      · dsimp only
        refine .step ?_ (journal_keeps ..)
        refine .set_rel ?_ _
        exact .refl
      · dsimp only
        refine .step ?_ (actPermanent_keeps ..)
        refine .step ?_ (journal_keeps ..)
        refine .set_rel ?_ _
        exact .refl
    · split
      · dsimp only
        split
        · refine .step ?_ (journal_keeps ..)
          refine .set_rel ?_ _
          exact .refl
        · refine .step ?_ (raise_keeps ..)
          exact .refl
      · dsimp only
        refine .step ?_ (suspectUnit_keeps ..)
        split
        · refine .step ?_ (journal_keeps ..)
          refine .set_rel ?_ _
          exact .refl
        · refine .step ?_ (raise_keeps ..)
          exact .refl
  · split
    · dsimp only
      split
      · refine .step ?_ (journal_keeps ..)
        refine .set_rel ?_ _
        exact .refl
      · refine .step ?_ (raise_keeps ..)
        exact .refl
    · dsimp only
      refine .step ?_ (suspectUnit_keeps ..)
      split
      · refine .step ?_ (journal_keeps ..)
        refine .set_rel ?_ _
        exact .refl
      · refine .step ?_ (raise_keeps ..)
        exact .refl

theorem ceCount_keeps (e : ErrEvent) (s : State) :
    Keeps [.out, .regs, .cnt, .mem, .poison, .epochs, .blk, .tasks, .prov, .crm, .hbm, .ecc, .cw, .ls, .lpc, .ldl, .rel, .act, .lnk, .mtr, .sec, .sys, .free] s (ceCount e s).2 := by
  unfold ceCount
  dsimp only
  split
  · refine .step ?_ (actPermanent_keeps ..)
    refine .ite (fun _ => ?_) (fun _ => ?_)
    · refine .step ?_ (suspectUnit_keeps ..)
      refine .set_rel ?_ _
      exact .refl
    · refine .set_rel ?_ _
      exact .refl
  · dsimp only
    refine .ite (fun _ => ?_) (fun _ => ?_)
    · refine .step ?_ (suspectUnit_keeps ..)
      refine .set_rel ?_ _
      exact .refl
    · refine .set_rel ?_ _
      exact .refl

theorem readFirst_keeps (e : ErrEvent) (s : State) :
    Keeps [.regs] s (readFirst e s) := by
  unfold readFirst
  dsimp only
  split
  · exact .refl
  · refine .foldl ?_ (fun _ _ _ => ?_)
    · exact .refl
    · refine .ite (fun _ => ?_) (fun _ => ?_)
      · refine .step ?_ (setReg_keeps ..)
        assumption
      · assumption

theorem clockEvent_keeps (e : ErrEvent) (seq : ℕ) (s : State) :
    Keeps [.out, .regs, .cnt, .mem, .hbm, .rel, .act, .lnk, .mtr, .sys, .free] s (clockEvent e seq s) := by
  unfold clockEvent
  dsimp only
  refine .ite (fun _ => ?_) (fun _ => ?_)
  · exact .refl
  · refine .ite (fun _ => ?_) (fun _ => ?_)
    · refine .step ?_ (failQuiet_keeps ..)
      exact .refl
    · refine .ite (fun _ => ?_) (fun _ => ?_)
      · refine .ite (fun _ => ?_) (fun _ => ?_)
        · refine .set_rel ?_ _
          exact .refl
        · refine .step ?_ (refreshOnly_keeps ..)
          refine .set_rel ?_ _
          exact .refl
      · refine .set_rel ?_ _
        refine .ite (fun _ => ?_) (fun _ => ?_)
        · exact .refl
        · refine .step ?_ (portState_keeps ..)
          exact .refl

theorem eventEffect_keeps (s : State) :
    Keeps [.out, .regs, .cnt, .mem, .poison, .epochs, .blk, .tasks, .prov, .crm, .hbm, .ecc, .cw, .ls, .lpc, .ldl, .rel, .act, .lnk, .mtr, .sec, .sys, .free] s (eventEffect s) := by
  unfold eventEffect
  dsimp only
  split
  · exact .refl
  · refine .ite (fun _ => ?_) (fun _ => ?_)
    · refine .step ?_ (emitRecord_keeps ..)
      refine .step ?_ (readFirst_keeps ..)
      refine .set_rel ?_ _
      exact .refl
    · refine .ite (fun _ => ?_) (fun _ => ?_)
      · refine .step ?_ (emitRecord_keeps ..)
        refine .step ?_ (readFirst_keeps ..)
        refine .set_rel ?_ _
        exact .refl
      · refine .ite (fun _ => ?_) (fun _ => ?_)
        · refine .ite (fun _ => ?_) (fun _ => ?_)
          · refine .ite (fun _ => ?_) (fun _ => ?_)
            · refine .set_rel ?_ _
              refine .step ?_ (ceCount_keeps ..)
              refine .step ?_ (histApply_keeps ..)
              refine .step ?_ (suspectSeen_keeps ..)
              refine .step ?_ (readFirst_keeps ..)
              refine .set_rel ?_ _
              exact .refl
            · refine .step ?_ (emitRecord_keeps ..)
              refine .set_rel ?_ _
              refine .step ?_ (ceCount_keeps ..)
              refine .step ?_ (histApply_keeps ..)
              refine .step ?_ (suspectSeen_keeps ..)
              refine .step ?_ (readFirst_keeps ..)
              refine .set_rel ?_ _
              exact .refl
          · refine .step ?_ (emitRecord_keeps ..)
            refine .set_rel ?_ _
            refine .step ?_ (ceCount_keeps ..)
            refine .step ?_ (histApply_keeps ..)
            refine .step ?_ (suspectSeen_keeps ..)
            refine .step ?_ (readFirst_keeps ..)
            refine .set_rel ?_ _
            exact .refl
        · refine .step ?_ (clockEvent_keeps ..)
          refine .step ?_ (emitRecord_keeps ..)
          refine .step ?_ (histApply_keeps ..)
          refine .step ?_ (suspectSeen_keeps ..)
          refine .step ?_ (readFirst_keeps ..)
          refine .set_rel ?_ _
          exact .refl

theorem execCobblerEvent_keeps (s : State) :
    ResKeeps [.out, .regs, .cnt, .mem, .poison, .epochs, .blk, .tasks, .prov, .crm, .hbm, .ecc, .cw, .ls, .lpc, .ldl, .rel, .act, .lnk, .mtr, .sec, .sys, .free] s (execCobblerEvent s) := by
  unfold execCobblerEvent
  change Keeps _ _ _
  refine .step ?_ (eventEffect_keeps ..)
  exact .refl

theorem coalesceEffect_keeps (key : ℕ) (s : State) :
    Keeps [.out, .regs, .cnt, .mem, .poison, .epochs, .tasks, .prov, .crm, .hbm, .ecc, .cw, .ls, .ldl, .rel, .act, .mtr, .sec, .sys, .free] s (coalesceEffect key s) := by
  unfold coalesceEffect
  dsimp only
  split
  · exact .refl
  · refine .ite (fun _ => ?_) (fun _ => ?_)
    · exact .refl
    · refine .ite (fun _ => ?_) (fun _ => ?_)
      · refine .set_rel ?_ _
        exact .refl
      · refine .step ?_ (emitRecord_keeps ..)
        refine .set_rel ?_ _
        exact .refl

theorem execCoalesceExpire_keeps (key : ℕ) (s : State) :
    ResKeeps [.out, .regs, .cnt, .mem, .poison, .epochs, .tasks, .prov, .crm, .hbm, .ecc, .cw, .ls, .ldl, .rel, .act, .mtr, .sec, .sys, .free] s (execCoalesceExpire key s) := by
  unfold execCoalesceExpire
  change Keeps _ _ _
  refine .step ?_ (coalesceEffect_keeps ..)
  exact .refl

theorem hbmGraceEffect_keeps (n : ℕ) (s : State) :
    Keeps [.out, .regs, .cnt, .mem, .hbm, .rel, .act, .lnk, .mtr, .sys, .free] s (hbmGraceEffect n s) := by
  unfold hbmGraceEffect
  dsimp only
  refine .ite (fun _ => ?_) (fun _ => ?_)
  · exact .refl
  · refine .step ?_ (failQuiet_keeps ..)
    refine .set_rel ?_ _
    exact .refl

theorem execHbmPllGrace_keeps (n : Fin 8) (s : State) :
    ResKeeps [.out, .regs, .cnt, .mem, .hbm, .rel, .act, .lnk, .mtr, .sys, .free] s (execHbmPllGrace n s) := by
  unfold execHbmPllGrace
  change Keeps _ _ _
  refine .step ?_ (hbmGraceEffect_keeps ..)
  exact .refl

theorem execRefGraceExpire_keeps (s : State) :
    ResKeeps [.out, .regs, .cnt, .mem, .hbm, .rel, .act, .lnk, .mtr, .sys, .free] s (execRefGraceExpire s) := by
  unfold execRefGraceExpire
  change Keeps _ _ _
  refine .ite (fun _ => ?_) (fun _ => ?_)
  · refine .step ?_ (failQuiet_keeps ..)
    exact .refl
  · exact .refl

theorem suspectClearEffect_keeps (code inst unit : ℕ) (s : State) :
    Keeps [.out, .regs, .cnt, .mem, .poison, .epochs, .blk, .tasks, .prov, .crm, .hbm, .ecc, .cw, .ls, .ldl, .rel, .act, .mtr, .sec, .sys, .free] s (suspectClearEffect code inst unit s) := by
  unfold suspectClearEffect
  dsimp only
  split
  · exact .refl
  · refine .ite (fun _ => ?_) (fun _ => ?_)
    · exact .refl
    · refine .step ?_ (infoRecord_keeps ..)
      refine .step ?_ (setBlk_keeps ..)
      refine .set_rel ?_ _
      exact .refl

theorem execSuspectCleared_keeps (block : ℕ × ℕ) (unit : ℕ) (s : State) :
    ResKeeps [.out, .regs, .cnt, .mem, .poison, .epochs, .blk, .tasks, .prov, .crm, .hbm, .ecc, .cw, .ls, .ldl, .rel, .act, .mtr, .sec, .sys, .free] s (execSuspectCleared block unit s) := by
  unfold execSuspectCleared
  change Keeps _ _ _
  refine .step ?_ (suspectClearEffect_keeps ..)
  exact .refl

theorem minuteEffect_keeps (s : State) :
    Keeps [.rel, .mtr, .sec] s (minuteEffect s) := by
  unfold minuteEffect
  dsimp only
  refine .ite (fun _ => ?_) (fun _ => ?_)
  · exact .refl
  · refine .step ?_ (journal_keeps ..)
    refine .mk rfl ?_ rfl (fun p hp => by cases p <;> first | with_reducible rfl | exact absurd (by decide) hp)
    exact .refl

theorem execOperatingMinute_keeps (s : State) :
    ResKeeps [.rel, .mtr, .sec] s (execOperatingMinute s) := by
  unfold execOperatingMinute
  change Keeps _ _ _
  refine .step ?_ (minuteEffect_keeps ..)
  exact .refl

theorem mapoutReqEffect_keeps (v : Word) (s : State) :
    Keeps [.out, .regs, .blk, .crm, .hbm, .cw, .lpc, .rel, .lnk, .sys] s (mapoutReqEffect v s) := by
  unfold mapoutReqEffect
  dsimp only
  refine .ite (fun _ => ?_) (fun _ => ?_)
  · refine .step ?_ (storeReg_keeps ..)
    exact .refl
  · refine .step ?_ (mapEnqueue_keeps ..)
    refine .step ?_ (storeReg_keeps ..)
    exact .refl

theorem execMapoutReq_keeps (who : Initiator) (v : Word) (s : State) :
    ResKeeps [.out, .regs, .blk, .crm, .hbm, .cw, .lpc, .rel, .lnk, .sys] s (execMapoutReq who v s) := by
  unfold execMapoutReq
  change Keeps _ _ _
  refine regGuard_keeps ?_ (fun _ _ _ => ?_)
  · exact .refl
  · refine .step ?_ (mapoutReqEffect_keeps ..)
    assumption

theorem mapFinish_keeps (q : MapReq) (u : ℕ) (s : State) :
    Keeps [.out, .regs, .cnt, .lnk, .sys] s (mapFinish q u s) := by
  unfold mapFinish
  dsimp only
  refine .ite (fun _ => ?_) (fun _ => ?_)
  · refine .step ?_ (retrainTrigger_keeps ..)
    exact .refl
  · refine .ite (fun _ => ?_) (fun _ => ?_)
    · refine .step ?_ (setReg_keeps ..)
      refine .set_sys ?_ _
      exact .refl
    · exact .refl

theorem mapNotice_keeps (q : MapReq) (s : State) :
    Keeps [.out, .cnt, .act, .lnk, .keys] s (mapNotice q s) := by
  unfold mapNotice
  dsimp only
  refine .step ?_ (slowNotice_keeps ..)
  refine .foldl ?_ (fun _ _ _ => ?_)
  · exact .refl
  · refine .ite (fun _ => ?_) (fun _ => ?_)
    · refine .step ?_ (sendNotice_keeps ..)
      assumption
    · assumption

theorem mapoutDoneEffect_keeps (s : State) :
    Keeps [.out, .regs, .cnt, .mem, .poison, .epochs, .blk, .tasks, .prov, .crm, .hbm, .ecc, .cw, .ls, .lpc, .ldl, .rel, .act, .lnk, .keys, .mtr, .sec, .sys, .free] s (mapoutDoneEffect s) := by
  unfold mapoutDoneEffect
  dsimp only
  split
  · exact .refl
  · refine .ite (fun _ => ?_) (fun _ => ?_)
    · exact .refl
    · refine .step ?_ (mapBegin_keeps ..)
      split
      · refine .step ?_ (acceptCmd_keeps ..)
        refine .set_sec ?_ _
        refine .ite (fun _ => ?_) (fun _ => ?_)
        · refine .step ?_ (mapNotice_keeps ..)
          refine .step ?_ (infoRecord_keeps ..)
          refine .ite (fun _ => ?_) (fun _ => ?_)
          · refine .step ?_ (intSet_keeps ..)
            refine .step ?_ (journal_keeps ..)
            refine .step ?_ (mapFinish_keeps ..)
            refine .set_rel ?_ _
            exact .refl
          · refine .step ?_ (raise_keeps ..)
            refine .set_rel ?_ _
            exact .refl
        · refine .step ?_ (infoRecord_keeps ..)
          refine .ite (fun _ => ?_) (fun _ => ?_)
          · refine .step ?_ (intSet_keeps ..)
            refine .step ?_ (journal_keeps ..)
            refine .step ?_ (mapFinish_keeps ..)
            refine .set_rel ?_ _
            exact .refl
          · refine .step ?_ (raise_keeps ..)
            refine .set_rel ?_ _
            exact .refl
      · refine .ite (fun _ => ?_) (fun _ => ?_)
        · refine .step ?_ (mapNotice_keeps ..)
          refine .step ?_ (infoRecord_keeps ..)
          refine .ite (fun _ => ?_) (fun _ => ?_)
          · refine .step ?_ (intSet_keeps ..)
            refine .step ?_ (journal_keeps ..)
            refine .step ?_ (mapFinish_keeps ..)
            refine .set_rel ?_ _
            exact .refl
          · refine .step ?_ (raise_keeps ..)
            refine .set_rel ?_ _
            exact .refl
        · refine .step ?_ (infoRecord_keeps ..)
          refine .ite (fun _ => ?_) (fun _ => ?_)
          · refine .step ?_ (intSet_keeps ..)
            refine .step ?_ (journal_keeps ..)
            refine .step ?_ (mapFinish_keeps ..)
            refine .set_rel ?_ _
            exact .refl
          · refine .step ?_ (raise_keeps ..)
            refine .set_rel ?_ _
            exact .refl

theorem execMapoutDone_keeps (s : State) :
    ResKeeps [.out, .regs, .cnt, .mem, .poison, .epochs, .blk, .tasks, .prov, .crm, .hbm, .ecc, .cw, .ls, .lpc, .ldl, .rel, .act, .lnk, .keys, .mtr, .sec, .sys, .free] s (execMapoutDone s) := by
  unfold execMapoutDone
  change Keeps _ _ _
  refine .step ?_ (mapoutDoneEffect_keeps ..)
  exact .refl

theorem chargeArr_keeps (n quad col job detail : ℕ) (wait : Bool) (s : State) :
    Keeps [.rel] s (chargeArr n quad col job detail wait s) := by
  unfold chargeArr
  dsimp only
  refine .ite (fun _ => ?_) (fun _ => ?_)
  · exact .refl
  · refine .ite (fun _ => ?_) (fun _ => ?_)
    · refine .step ?_ (reportLate_keeps ..)
      exact .refl
    · refine .step ?_ (report_keeps ..)
      exact .refl

theorem tileEffect_keeps (cycles status : ℕ) (result : List F32) (arr3 status3 : ℕ) (third : List F32) (s : State) :
    Keeps [.out, .regs, .rel, .act, .sys] s (tileEffect cycles status result arr3 status3 third s) := by
  unfold tileEffect
  dsimp only
  split
  · refine .ite (fun _ => ?_) (fun _ => ?_)
    · exact .refl
    · refine .ite (fun _ => ?_) (fun _ => ?_)
      · refine .step ?_ (addAct_keeps ..)
        refine .set_rel ?_ _
        exact .refl
      · refine .ite (fun _ => ?_) (fun _ => ?_)
        · refine .set_rel ?_ _
          refine .step ?_ (countReg_keeps ..)
          refine .step ?_ (addAct_keeps ..)
          refine .set_rel ?_ _
          exact .refl
        · refine .ite (fun _ => ?_) (fun _ => ?_)
          · refine .set_rel ?_ _
            refine .ite (fun _ => ?_) (fun _ => ?_)
            · refine .step ?_ (chargeArr_keeps ..)
              refine .ite (fun _ => ?_) (fun _ => ?_)
              · refine .step ?_ (chargeArr_keeps ..)
                refine .ite (fun _ => ?_) (fun _ => ?_)
                · refine .step ?_ (intSet_keeps ..)
                  refine .step ?_ (raise_keeps ..)
                  refine .step ?_ (countReg_keeps ..)
                  refine .set_rel ?_ _
                  refine .step ?_ (countReg_keeps ..)
                  refine .step ?_ (addAct_keeps ..)
                  refine .set_rel ?_ _
                  exact .refl
                · refine .step ?_ (setReg_keeps ..)
                  refine .step ?_ (intSet_keeps ..)
                  refine .step ?_ (raise_keeps ..)
                  refine .step ?_ (countReg_keeps ..)
                  refine .set_rel ?_ _
                  refine .step ?_ (countReg_keeps ..)
                  refine .step ?_ (addAct_keeps ..)
                  refine .set_rel ?_ _
                  exact .refl
              · refine .ite (fun _ => ?_) (fun _ => ?_)
                · refine .step ?_ (intSet_keeps ..)
                  refine .step ?_ (raise_keeps ..)
                  refine .step ?_ (countReg_keeps ..)
                  refine .set_rel ?_ _
                  refine .step ?_ (countReg_keeps ..)
                  refine .step ?_ (addAct_keeps ..)
                  refine .set_rel ?_ _
                  exact .refl
                · refine .step ?_ (setReg_keeps ..)
                  refine .step ?_ (intSet_keeps ..)
                  refine .step ?_ (raise_keeps ..)
                  refine .step ?_ (countReg_keeps ..)
                  refine .set_rel ?_ _
                  refine .step ?_ (countReg_keeps ..)
                  refine .step ?_ (addAct_keeps ..)
                  refine .set_rel ?_ _
                  exact .refl
            · refine .ite (fun _ => ?_) (fun _ => ?_)
              · refine .step ?_ (chargeArr_keeps ..)
                refine .ite (fun _ => ?_) (fun _ => ?_)
                · refine .step ?_ (intSet_keeps ..)
                  refine .step ?_ (raise_keeps ..)
                  refine .step ?_ (countReg_keeps ..)
                  refine .set_rel ?_ _
                  refine .step ?_ (countReg_keeps ..)
                  refine .step ?_ (addAct_keeps ..)
                  refine .set_rel ?_ _
                  exact .refl
                · refine .step ?_ (setReg_keeps ..)
                  refine .step ?_ (intSet_keeps ..)
                  refine .step ?_ (raise_keeps ..)
                  refine .step ?_ (countReg_keeps ..)
                  refine .set_rel ?_ _
                  refine .step ?_ (countReg_keeps ..)
                  refine .step ?_ (addAct_keeps ..)
                  refine .set_rel ?_ _
                  exact .refl
              · refine .ite (fun _ => ?_) (fun _ => ?_)
                · refine .step ?_ (intSet_keeps ..)
                  refine .step ?_ (raise_keeps ..)
                  refine .step ?_ (countReg_keeps ..)
                  refine .set_rel ?_ _
                  refine .step ?_ (countReg_keeps ..)
                  refine .step ?_ (addAct_keeps ..)
                  refine .set_rel ?_ _
                  exact .refl
                · refine .step ?_ (setReg_keeps ..)
                  refine .step ?_ (intSet_keeps ..)
                  refine .step ?_ (raise_keeps ..)
                  refine .step ?_ (countReg_keeps ..)
                  refine .set_rel ?_ _
                  refine .step ?_ (countReg_keeps ..)
                  refine .step ?_ (addAct_keeps ..)
                  refine .set_rel ?_ _
                  exact .refl
          · refine .ite (fun _ => ?_) (fun _ => ?_)
            · refine .step ?_ (chargeArr_keeps ..)
              refine .ite (fun _ => ?_) (fun _ => ?_)
              · refine .step ?_ (chargeArr_keeps ..)
                refine .ite (fun _ => ?_) (fun _ => ?_)
                · refine .step ?_ (intSet_keeps ..)
                  refine .step ?_ (raise_keeps ..)
                  refine .step ?_ (countReg_keeps ..)
                  refine .set_rel ?_ _
                  refine .step ?_ (countReg_keeps ..)
                  refine .step ?_ (addAct_keeps ..)
                  refine .set_rel ?_ _
                  exact .refl
                · refine .step ?_ (setReg_keeps ..)
                  refine .step ?_ (intSet_keeps ..)
                  refine .step ?_ (raise_keeps ..)
                  refine .step ?_ (countReg_keeps ..)
                  refine .set_rel ?_ _
                  refine .step ?_ (countReg_keeps ..)
                  refine .step ?_ (addAct_keeps ..)
                  refine .set_rel ?_ _
                  exact .refl
              · refine .ite (fun _ => ?_) (fun _ => ?_)
                · refine .step ?_ (intSet_keeps ..)
                  refine .step ?_ (raise_keeps ..)
                  refine .step ?_ (countReg_keeps ..)
                  refine .set_rel ?_ _
                  refine .step ?_ (countReg_keeps ..)
                  refine .step ?_ (addAct_keeps ..)
                  refine .set_rel ?_ _
                  exact .refl
                · refine .step ?_ (setReg_keeps ..)
                  refine .step ?_ (intSet_keeps ..)
                  refine .step ?_ (raise_keeps ..)
                  refine .step ?_ (countReg_keeps ..)
                  refine .set_rel ?_ _
                  refine .step ?_ (countReg_keeps ..)
                  refine .step ?_ (addAct_keeps ..)
                  refine .set_rel ?_ _
                  exact .refl
            · refine .ite (fun _ => ?_) (fun _ => ?_)
              · refine .step ?_ (chargeArr_keeps ..)
                refine .ite (fun _ => ?_) (fun _ => ?_)
                · refine .step ?_ (intSet_keeps ..)
                  refine .step ?_ (raise_keeps ..)
                  refine .step ?_ (countReg_keeps ..)
                  refine .set_rel ?_ _
                  refine .step ?_ (countReg_keeps ..)
                  refine .step ?_ (addAct_keeps ..)
                  refine .set_rel ?_ _
                  exact .refl
                · refine .step ?_ (setReg_keeps ..)
                  refine .step ?_ (intSet_keeps ..)
                  refine .step ?_ (raise_keeps ..)
                  refine .step ?_ (countReg_keeps ..)
                  refine .set_rel ?_ _
                  refine .step ?_ (countReg_keeps ..)
                  refine .step ?_ (addAct_keeps ..)
                  refine .set_rel ?_ _
                  exact .refl
              · refine .ite (fun _ => ?_) (fun _ => ?_)
                · refine .step ?_ (intSet_keeps ..)
                  refine .step ?_ (raise_keeps ..)
                  refine .step ?_ (countReg_keeps ..)
                  refine .set_rel ?_ _
                  refine .step ?_ (countReg_keeps ..)
                  refine .step ?_ (addAct_keeps ..)
                  refine .set_rel ?_ _
                  exact .refl
                · refine .step ?_ (setReg_keeps ..)
                  refine .step ?_ (intSet_keeps ..)
                  refine .step ?_ (raise_keeps ..)
                  refine .step ?_ (countReg_keeps ..)
                  refine .set_rel ?_ _
                  refine .step ?_ (countReg_keeps ..)
                  refine .step ?_ (addAct_keeps ..)
                  refine .set_rel ?_ _
                  exact .refl
  · exact .refl

theorem execTileCompare_keeps (cycles status : ℕ) (result : List F32) (arr3 : Fin 4) (status3 : ℕ) (third : List F32) (s : State) :
    ResKeeps [.out, .regs, .rel, .act, .sys] s (execTileCompare cycles status result arr3 status3 third s) := by
  unfold execTileCompare
  change Keeps _ _ _
  refine .step ?_ (tileEffect_keeps ..)
  exact .refl

theorem captureEffect_keeps (who : Initiator) (v : Word) (s : State) :
    Keeps [.rel] s (captureEffect who v s) := by
  unfold captureEffect
  dsimp only
  refine .ite (fun _ => ?_) (fun _ => ?_)
  · refine .set_rel ?_ _
    exact .refl
  · exact .refl

theorem execCaptureRelease_keeps (who : Initiator) (v : Word) (s : State) :
    ResKeeps [.out, .regs, .blk, .rel, .sys] s (execCaptureRelease who v s) := by
  unfold execCaptureRelease
  change Keeps _ _ _
  refine regGuard_keeps ?_ (fun _ _ _ => ?_)
  · exact .refl
  · refine .step ?_ (captureEffect_keeps ..)
    assumption

theorem execTileFailFirstRead_keeps (who : Initiator) (s : State) :
    ResKeeps [.resp, .out, .regs, .sys] s (execTileFailFirstRead who s) := by
  unfold execTileFailFirstRead
  change Keeps _ _ _
  refine .step ?_ (readClear_keeps ..)
  exact .refl

theorem packEffect_keeps (bs : List Byte) (s : State) :
    Keeps [.out, .regs, .cnt, .mem, .poison, .epochs, .tasks, .prov, .crm, .hbm, .ecc, .cw, .ls, .ldl, .rel, .act, .sec, .sys, .free] s (packEffect bs s) := by
  unfold packEffect
  dsimp only
  refine .ite (fun _ => ?_) (fun _ => ?_)
  · exact .refl
  · refine .ite (fun _ => ?_) (fun _ => ?_)
    · refine .step ?_ (raise_keeps ..)
      exact .refl
    · refine .mk rfl ?_ rfl (fun p hp => by cases p <;> first | with_reducible rfl | exact absurd (by decide) hp)
      refine .ite (fun _ => ?_) (fun _ => ?_)
      · refine .step ?_ (wrBytes_keeps ..)
        exact .refl
      · exact .refl

theorem execAwlPackLoad_keeps (w0 w1 w2 : Word) (tests lists sign : List Byte) (s : State) :
    ResKeeps [.out, .regs, .cnt, .mem, .poison, .epochs, .tasks, .prov, .crm, .hbm, .ecc, .cw, .ls, .ldl, .rel, .act, .sec, .sys, .free] s (execAwlPackLoad w0 w1 w2 tests lists sign s) := by
  unfold execAwlPackLoad
  change Keeps _ _ _
  refine .step ?_ (packEffect_keeps ..)
  exact .refl

theorem onTest_keeps (e q pack test : ℕ) (f : TestSt → TestSt) (s : State) :
    Keeps [.rel] s (onTest e q pack test f s) := by
  unfold onTest
  dsimp only
  refine .set_rel ?_ _
  exact .refl

theorem testDueEffect_keeps (e q pack test : ℕ) (s : State) :
    Keeps [.rel] s (testDueEffect e q pack test s) := by
  unfold testDueEffect
  dsimp only
  refine .ite (fun _ => ?_) (fun _ => ?_)
  · exact .refl
  · refine .ite (fun _ => ?_) (fun _ => ?_)
    · refine .set_rel ?_ _
      exact .refl
    · refine .step ?_ (onTest_keeps ..)
      exact .refl

theorem execTestDue_keeps (e : Fin 29) (q : Fin 4) (pack test : ℕ) (s : State) :
    ResKeeps [.rel] s (execTestDue e q pack test s) := by
  unfold execTestDue
  change Keeps _ _ _
  refine .step ?_ (testDueEffect_keeps ..)
  exact .refl

theorem testLateEffect_keeps (e q pack test : ℕ) (s : State) :
    Keeps [.out, .regs, .rel, .sys] s (testLateEffect e q pack test s) := by
  unfold testLateEffect
  refine .ite (fun _ => ?_) (fun _ => ?_)
  · exact .refl
  · refine .step ?_ (intSet_keeps ..)
    refine .step ?_ (onTest_keeps ..)
    exact .refl

theorem execTestDeadline_keeps (e : Fin 29) (q : Fin 4) (pack test : ℕ) (s : State) :
    ResKeeps [.out, .regs, .rel, .sys] s (execTestDeadline e q pack test s) := by
  unfold execTestDeadline
  change Keeps _ _ _
  refine .step ?_ (testLateEffect_keeps ..)
  exact .refl

theorem testResultEffect_keeps (e q pack test : ℕ) (hash : BitVec 128) (status : ℕ) (s : State) :
    Keeps [.out, .regs, .cnt, .rel, .sys] s (testResultEffect e q pack test hash status s) := by
  unfold testResultEffect
  dsimp only
  refine .ite (fun _ => ?_) (fun _ => ?_)
  · exact .refl
  · refine .ite (fun _ => ?_) (fun _ => ?_)
    · refine .step ?_ (bump_keeps ..)
      refine .step ?_ (onTest_keeps ..)
      refine .step ?_ (bump_keeps ..)
      exact .refl
    · refine .step ?_ (intSet_keeps ..)
      refine .step ?_ (raiseEv_keeps ..)
      refine .ite (fun _ => ?_) (fun _ => ?_)
      · refine .step ?_ (bump_keeps ..)
        refine .step ?_ (onTest_keeps ..)
        refine .step ?_ (bump_keeps ..)
        exact .refl
      · refine .step ?_ (setReg_keeps ..)
        refine .step ?_ (bump_keeps ..)
        refine .step ?_ (onTest_keeps ..)
        refine .step ?_ (bump_keeps ..)
        exact .refl

theorem execTestResult_keeps (e : Fin 29) (q : Fin 4) (pack test : ℕ) (hash : BitVec 128) (status : ℕ) (s : State) :
    ResKeeps [.out, .regs, .cnt, .rel, .sys] s (execTestResult e q pack test hash status s) := by
  unfold execTestResult
  change Keeps _ _ _
  refine .step ?_ (testResultEffect_keeps ..)
  exact .refl

theorem execTestFailFirstRead_keeps (who : Initiator) (s : State) :
    ResKeeps [.resp, .out, .regs, .sys] s (execTestFailFirstRead who s) := by
  unfold execTestFailFirstRead
  change Keeps _ _ _
  refine .step ?_ (readClear_keeps ..)
  exact .refl

theorem fwFlip_keeps (g : ℕ) (reverted : Bool) (s : State) :
    Keeps [.out, .regs, .cnt, .mem, .poison, .epochs, .tasks, .prov, .crm, .hbm, .ecc, .cw, .ls, .ldl, .rel, .act, .mtr, .sec, .sys, .free] s (fwFlip g reverted s) := by
  unfold fwFlip
  dsimp only
  refine .step ?_ (infoRecord_keeps ..)
  refine .step ?_ (journal_keeps ..)
  refine .set_sec ?_ _
  exact .refl

theorem fwTurn_keeps (g : ℕ) (reverted : Bool) (s : State) :
    Keeps [.out, .regs, .cnt, .mem, .poison, .epochs, .tasks, .prov, .crm, .hbm, .ecc, .cw, .ls, .ldl, .rel, .act, .mtr, .sec, .sys, .free] s (fwTurn g reverted s) := by
  unfold fwTurn
  dsimp only
  refine .ite (fun _ => ?_) (fun _ => ?_)
  · refine .step ?_ (fwFlip_keeps ..)
    exact .refl
  · refine .set_sec ?_ _
    exact .refl

theorem fwBoundary_keeps (s : State) :
    Keeps [.out, .regs, .cnt, .mem, .poison, .epochs, .tasks, .prov, .crm, .hbm, .ecc, .cw, .ls, .ldl, .rel, .act, .mtr, .sec, .sys, .free] s (fwBoundary s) := by
  unfold fwBoundary
  dsimp only
  refine .foldl ?_ (fun _ _ _ => ?_)
  · refine .set_sec ?_ _
    exact .refl
  · refine .step ?_ (fwFlip_keeps ..)
    assumption

theorem healthEffect_keeps (g : ℕ) (s : State) :
    Keeps [.out, .regs, .cnt, .mem, .poison, .epochs, .tasks, .prov, .crm, .hbm, .ecc, .cw, .ls, .ldl, .rel, .act, .mtr, .sec, .sys, .free] s (healthEffect g s) := by
  unfold healthEffect
  dsimp only
  split
  · exact .refl
  · refine .ite (fun _ => ?_) (fun _ => ?_)
    · exact .refl
    · refine .step ?_ (fwTurn_keeps ..)
      refine .set_sec ?_ _
      exact .refl

theorem execHealthTimeout_keeps (group : Fin 5) (s : State) :
    ResKeeps [.out, .regs, .cnt, .mem, .poison, .epochs, .tasks, .prov, .crm, .hbm, .ecc, .cw, .ls, .ldl, .rel, .act, .mtr, .sec, .sys, .free] s (execHealthTimeout group s) := by
  unfold execHealthTimeout
  change Keeps _ _ _
  refine .step ?_ (healthEffect_keeps ..)
  exact .refl

theorem kickEffect_keeps (v : Word) (s : State) :
    Keeps [.regs, .rel] s (kickEffect v s) := by
  unfold kickEffect
  dsimp only
  refine .ite (fun _ => ?_) (fun _ => ?_)
  · refine .set_rel ?_ _
    refine .step ?_ (storeReg_keeps ..)
    exact .refl
  · refine .step ?_ (storeReg_keeps ..)
    exact .refl

theorem execKick_keeps (who : Initiator) (v : Word) (s : State) :
    ResKeeps [.out, .regs, .blk, .rel, .sys] s (execKick who v s) := by
  unfold execKick
  change Keeps _ _ _
  refine regGuard_keeps ?_ (fun _ _ _ => ?_)
  · exact .refl
  · refine .step ?_ (kickEffect_keeps ..)
    assumption

theorem watchdogEffect_keeps (s : State) :
    Keeps [.out, .regs, .cnt, .mem, .hbm, .rel, .act, .lnk, .mtr, .sys, .free] s (watchdogEffect s) := by
  unfold watchdogEffect
  dsimp only
  refine .ite (fun _ => ?_) (fun _ => ?_)
  · exact .refl
  · refine .step ?_ (failQuiet_keeps ..)
    refine .step ?_ (raise_keeps ..)
    exact .refl

theorem execWatchdog_keeps (s : State) :
    ResKeeps [.out, .regs, .cnt, .mem, .hbm, .rel, .act, .lnk, .mtr, .sys, .free] s (execWatchdog s) := by
  unfold execWatchdog
  change Keeps _ _ _
  refine .step ?_ (watchdogEffect_keeps ..)
  exact .refl

theorem execLockstep_keeps (s : State) :
    ResKeeps [.out, .regs, .cnt, .mem, .hbm, .rel, .act, .lnk, .mtr, .sys, .free] s (execLockstep s) := by
  unfold execLockstep
  change Keeps _ _ _
  refine .ite (fun _ => ?_) (fun _ => ?_)
  · refine .step ?_ (failQuiet_keeps ..)
    refine .step ?_ (raise_keeps ..)
    exact .refl
  · exact .refl

theorem execRail_keeps (r : Fin 6) (milliV : ℕ) (s : State) :
    ResKeeps [.out, .regs, .cnt, .mem, .hbm, .rel, .act, .lnk, .mtr, .sys, .free] s (execRail r milliV s) := by
  unfold execRail
  change Keeps _ _ _
  refine .step ?_ (failQuiet_keeps ..)
  exact .refl

theorem policyEffect_keeps (v : Word) (s : State) :
    Keeps [.out, .regs, .cnt, .mem, .hbm, .rel, .act, .lnk, .mtr, .sys, .free] s (policyEffect v s) := by
  unfold policyEffect
  refine .ite (fun _ => ?_) (fun _ => ?_)
  · refine .step ?_ (failQuiet_keeps ..)
    exact .refl
  · exact .refl

theorem execPolicy_keeps (who : Initiator) (v : Word) (s : State) :
    ResKeeps [.out, .regs, .cnt, .mem, .blk, .hbm, .rel, .act, .lnk, .mtr, .sys, .free] s (execPolicy who v s) := by
  unfold execPolicy
  change Keeps _ _ _
  refine regGuard_keeps ?_ (fun _ _ _ => ?_)
  · exact .refl
  · refine .step ?_ (policyEffect_keeps ..)
    assumption

/-! ### Machine/Admit.lean -/

theorem countSlice_keeps (s : State) (x1 : Adm) :
    Keeps [.tasks] s (countSlice s x1) := by
  unfold countSlice
  split
  · refine .ite (fun _ => ?_) (fun _ => ?_)
    · exact .refl
    · refine .step ?_ (putTask_keeps ..)
      exact .refl
  · exact .refl

theorem admitEngine_keeps (e budget : ℕ) (full : Bool) (s : State) :
    Keeps [.cnt, .tasks, .eng] s (admitEngine e budget full s) := by
  unfold admitEngine
  dsimp only
  refine .step ?_ (bump_keeps ..)
  refine .step ?_ (bump_keeps ..)
  refine .step ?_ (bump_keeps ..)
  refine .step ?_ (bump_keeps ..)
  refine .foldl ?_ (fun _ _ _ => ?_)
  · refine .step ?_ (setEng_keeps ..)
    exact .refl
  · refine .step ?_ (countSlice_keeps ..)
    assumption

theorem chooseOwner_keeps (e : ℕ) (s : State) :
    Keeps [.cnt, .eng] s (chooseOwner e s) := by
  unfold chooseOwner
  dsimp only
  split
  · refine .step ?_ (setEng_keeps ..)
    exact .refl
  · refine .ite (fun _ => ?_) (fun _ => ?_)
    · refine .step ?_ (bump_keeps ..)
      refine .step ?_ (setEng_keeps ..)
      exact .refl
    · refine .step ?_ (setEng_keeps ..)
      exact .refl

theorem stealTick_keeps (e : ℕ) (s : State) :
    Keeps [.cnt, .eng] s (stealTick e s) := by
  unfold stealTick
  dsimp only
  refine .ite (fun _ => ?_) (fun _ => ?_)
  · refine .step ?_ (setEng_keeps ..)
    exact .refl
  · refine .step ?_ (bump_keeps ..)
    refine .step ?_ (bump_keeps ..)
    refine .step ?_ (setEng_keeps ..)
    refine .step ?_ (setEng_keeps ..)
    exact .refl

theorem admitTick_keeps (e : ℕ) (s : State) :
    Keeps [.cnt, .tasks, .eng] s (admitTick e s) := by
  unfold admitTick
  dsimp only
  refine .ite (fun _ => ?_) (fun _ => ?_)
  · exact .refl
  · refine .step ?_ (admitEngine_keeps ..)
    refine .step ?_ (stealTick_keeps ..)
    refine .step ?_ (chooseOwner_keeps ..)
    exact .refl

theorem stealNotice_keeps (s : State) :
    Keeps [.out, .cnt, .act, .lnk, .keys] s (stealNotice s) := by
  unfold stealNotice
  dsimp only
  refine .ite (fun _ => ?_) (fun _ => ?_)
  · refine .step ?_ (slowNotice_keeps ..)
    refine .set_lnk ?_ _
    exact .refl
  · refine .ite (fun _ => ?_) (fun _ => ?_)
    · refine .step ?_ (slowNotice_keeps ..)
      refine .set_lnk ?_ _
      exact .refl
    · exact .refl

theorem rerunEffect_keeps (e left : ℕ) (s : State) :
    Keeps [.cnt, .tasks, .eng] s (rerunEffect e left s) := by
  unfold rerunEffect
  dsimp only
  refine .ite (fun _ => ?_) (fun _ => ?_)
  · exact .refl
  · refine .step ?_ (admitEngine_keeps ..)
    exact .refl

theorem execAdmissionRerun_keeps (e : Engine) (cyclesLeft : ℕ) (s : State) :
    ResKeeps [.cnt, .tasks, .eng] s (execAdmissionRerun e cyclesLeft s) := by
  unfold execAdmissionRerun
  change Keeps _ _ _
  refine .step ?_ (rerunEffect_keeps ..)
  exact .refl

/-! ### Machine/Tick.lean -/

theorem setAlign_keeps (st : ℕ) (s : State) :
    Keeps [.out, .regs, .tck, .sys] s (setAlign st s) := by
  unfold setAlign
  dsimp only
  refine .ite (fun _ => ?_) (fun _ => ?_)
  · exact .refl
  · refine .step ?_ (intSet_keeps ..)
    refine .set_tck ?_ _
    exact .refl

theorem missMark_keeps (s : State) :
    Keeps [.cnt, .tck] s (missMark s) := by
  unfold missMark
  dsimp only
  refine .ite (fun _ => ?_) (fun _ => ?_)
  · refine .set_tck ?_ _
    exact .refl
  · refine .step ?_ (bump_keeps ..)
    refine .set_tck ?_ _
    exact .refl

theorem sendMarks_keeps (s : State) :
    Keeps [.out, .cnt, .free] s (sendMarks s) := by
  unfold sendMarks
  dsimp only
  refine .ite (fun _ => ?_) (fun _ => ?_)
  · refine .step ?_ (emit_keeps ..)
    refine .ite (fun _ => ?_) (fun _ => ?_)
    · refine .foldl ?_ (fun _ _ _ => ?_)
      · exact .refl
      · refine .ite (fun _ => ?_) (fun _ => ?_)
        · refine .step ?_ (sendControl_keeps ..)
          refine .step ?_ (draw_keeps ..)
          assumption
        · assumption
    · exact .refl
  · refine .ite (fun _ => ?_) (fun _ => ?_)
    · refine .foldl ?_ (fun _ _ _ => ?_)
      · exact .refl
      · refine .ite (fun _ => ?_) (fun _ => ?_)
        · refine .step ?_ (sendControl_keeps ..)
          refine .step ?_ (draw_keeps ..)
          assumption
        · assumption
    · exact .refl

theorem countStalls_keeps (s : State) :
    Keeps [.tck] s (countStalls s) := by
  unfold countStalls
  dsimp only
  refine .set_tck ?_ _
  exact .refl

theorem openTick_keeps (s : State) :
    Keeps [.cnt, .free] s (openTick s) := by
  unfold openTick
  dsimp only
  refine .mk rfl ?_ rfl (fun p hp => by cases p <;> first | with_reducible rfl | exact absurd (by decide) hp)
  exact .refl

theorem phaseM_keeps (s : State) :
    Keeps [.out, .regs, .cnt, .tck, .act, .pwr, .clk, .mtr, .sec, .sys, .free] s (phaseM s) := by
  unfold phaseM
  dsimp only
  refine .step ?_ (intSet_keeps ..)
  refine .step ?_ (bump_keeps ..)
  refine .ite (fun _ => ?_) (fun _ => ?_)
  · refine .step ?_ (sendMarks_keeps ..)
    refine .set_tck ?_ _
    refine .step ?_ (missMark_keeps ..)
    refine .step ?_ (trimByMarks_keeps ..)
    refine .step ?_ (countStalls_keeps ..)
    refine .step ?_ (closeTick_keeps ..)
    refine .step ?_ (estimate_keeps ..)
    refine .step ?_ (openTick_keeps ..)
    exact .refl
  · refine .set_tck ?_ _
    refine .step ?_ (missMark_keeps ..)
    refine .step ?_ (trimByMarks_keeps ..)
    refine .step ?_ (countStalls_keeps ..)
    refine .step ?_ (closeTick_keeps ..)
    refine .step ?_ (estimate_keeps ..)
    refine .step ?_ (openTick_keeps ..)
    exact .refl

theorem countOverrun_keeps (t : Task) (s : State) :
    Keeps [.cnt, .tck] s (countOverrun t s) := by
  unfold countOverrun
  dsimp only
  refine .ite (fun _ => ?_) (fun _ => ?_)
  · refine .step ?_ (bump_keeps ..)
    refine .step ?_ (bump_keeps ..)
    split
    · refine .step ?_ (setSlot_keeps ..)
      exact .refl
    · exact .refl
  · refine .ite (fun _ => ?_) (fun _ => ?_)
    · refine .step ?_ (bump_keeps ..)
      refine .step ?_ (bump_keeps ..)
      split
      · refine .step ?_ (setSlot_keeps ..)
        exact .refl
      · exact .refl
    · refine .ite (fun _ => ?_) (fun _ => ?_)
      · refine .step ?_ (bump_keeps ..)
        refine .step ?_ (bump_keeps ..)
        split
        · refine .step ?_ (setSlot_keeps ..)
          exact .refl
        · exact .refl
      · refine .step ?_ (bump_keeps ..)
        split
        · refine .step ?_ (setSlot_keeps ..)
          exact .refl
        · exact .refl

theorem suspendSlice_keeps (e : ℕ) (t : Task) (s : State) :
    Keeps [.out, .regs, .cnt, .mem, .poison, .epochs, .tasks, .prov, .eng, .tck, .crm, .hbm, .ecc, .cw, .ls, .ldl, .rel, .act, .lnk, .keys, .sys, .free] s (suspendSlice e t s) := by
  unfold suspendSlice
  dsimp only
  refine .ite (fun _ => ?_) (fun _ => ?_)
  · refine .step ?_ (intSet_keeps ..)
    refine .step ?_ (moveFlush_keeps ..)
    refine .step ?_ (countOverrun_keeps ..)
    refine .step ?_ (putTask_keeps ..)
    refine .step ?_ (setEng_keeps ..)
    exact .refl
  · refine .ite (fun _ => ?_) (fun _ => ?_)
    · refine .step ?_ (intSet_keeps ..)
      refine .step ?_ (moveFlush_keeps ..)
      refine .step ?_ (countOverrun_keeps ..)
      refine .step ?_ (putTask_keeps ..)
      refine .step ?_ (setEng_keeps ..)
      exact .refl
    · refine .step ?_ (moveFlush_keeps ..)
      refine .step ?_ (countOverrun_keeps ..)
      refine .step ?_ (putTask_keeps ..)
      refine .step ?_ (setEng_keeps ..)
      exact .refl

theorem phaseS_keeps (e : ℕ) (s : State) :
    Keeps [.out, .regs, .cnt, .mem, .poison, .epochs, .tasks, .prov, .eng, .tck, .crm, .hbm, .ecc, .cw, .ls, .ldl, .rel, .act, .lnk, .keys, .sys, .free] s (phaseS e s) := by
  unfold phaseS
  dsimp only
  refine .ite (fun _ => ?_) (fun _ => ?_)
  · exact .refl
  · split
    · refine .step ?_ (setEng_keeps ..)
      exact .refl
    · refine .ite (fun _ => ?_) (fun _ => ?_)
      · refine .step ?_ (setEng_keeps ..)
        exact .refl
      · split
        · refine .step ?_ (setEng_keeps ..)
          exact .refl
        · refine .step ?_ (setEng_keeps ..)
          refine .step ?_ (suspendSlice_keeps ..)
          exact .refl

theorem mapSwap_keeps (s : State) (i : ℕ) :
    Keeps [.out, .regs, .cnt, .tck, .sys] s (mapSwap s i) := by
  unfold mapSwap
  dsimp only
  refine .ite (fun _ => ?_) (fun _ => ?_)
  · exact .refl
  · split
    · refine .step ?_ (bump_keeps ..)
      refine .step ?_ (setSlot_keeps ..)
      exact .refl
    · refine .step ?_ (raise_keeps ..)
      refine .step ?_ (setSlot_keeps ..)
      exact .refl

theorem phaseE2_keeps (s : State) :
    Keeps [.out, .regs, .cnt, .blk, .tasks, .eng, .tck, .ldl, .tables, .sys] s (phaseE2 s) := by
  unfold phaseE2
  dsimp only
  split
  · exact .refl
  · refine .ite (fun _ => ?_) (fun _ => ?_)
    · exact .refl
    · refine .foldl ?_ (fun _ _ _ => ?_)
      · refine .ite (fun _ => ?_) (fun _ => ?_)
        · refine .foldl ?_ (fun _ _ _ => ?_)
          · refine .foldl ?_ (fun _ _ _ => ?_)
            · refine .step ?_ (setBlk_keeps ..)
              exact .refl
            · refine .step ?_ (finish_keeps ..)
              assumption
          · refine .step ?_ (retireRec_keeps ..)
            assumption
        · refine .ite (fun _ => ?_) (fun _ => ?_)
          · refine .set_tables ?_ _
            refine .foldl ?_ (fun _ _ _ => ?_)
            · refine .step ?_ (setBlk_keeps ..)
              exact .refl
            · refine .step ?_ (finish_keeps ..)
              assumption
          · refine .foldl ?_ (fun _ _ _ => ?_)
            · refine .step ?_ (setBlk_keeps ..)
              exact .refl
            · refine .step ?_ (finish_keeps ..)
              assumption
      · refine .step ?_ (mapSwap_keeps ..)
        assumption

theorem phaseE3_keeps (s : State) :
    Keeps [.regs, .tck] s (phaseE3 s) := by
  unfold phaseE3
  dsimp only
  split
  · exact .refl
  · refine .ite (fun _ => ?_) (fun _ => ?_)
    · exact .refl
    · refine .step ?_ (setReg_keeps ..)
      refine .set_tck ?_ _
      exact .refl

theorem freeJob_keeps (job : ℕ) (s : State) :
    Keeps [.cnt, .eng, .ldl, .rel, .lnk, .keys] s (freeJob job s) := by
  unfold freeJob
  dsimp only
  refine .mk rfl ?_ rfl (fun p hp => by cases p <;> first | with_reducible rfl | exact absurd (by decide) hp)
  refine .step ?_ (releaseLate_keeps ..)
  refine .foldl ?_ (fun _ _ _ => ?_)
  · refine .foldl ?_ (fun _ _ _ => ?_)
    · exact .refl
    · refine .step ?_ (retireRec_keeps ..)
      assumption
  · refine .ite (fun _ => ?_) (fun _ => ?_)
    · refine .step ?_ (disarm_keeps ..)
      assumption
    · assumption

theorem slotApply_keeps (i : ℕ) (v : Word) (s : State) :
    Keeps [.eng, .tck] s (slotApply i v s) := by
  unfold slotApply
  dsimp only
  refine .ite (fun _ => ?_) (fun _ => ?_)
  · refine .step ?_ (setSlot_keeps ..)
    exact .refl
  · refine .ite (fun _ => ?_) (fun _ => ?_)
    · refine .step ?_ (setSlot_keeps ..)
      exact .refl
    · refine .ite (fun _ => ?_) (fun _ => ?_)
      · refine .step ?_ (setSlot_keeps ..)
        exact .refl
      · refine .ite (fun _ => ?_) (fun _ => ?_)
        · refine .step ?_ (setSlot_keeps ..)
          refine .set_eng ?_ _
          exact .refl
        · refine .step ?_ (setSlot_keeps ..)
          exact .refl

theorem slotE5_keeps (s : State) (i : ℕ) :
    Keeps [.out, .regs, .cnt, .eng, .tck, .ldl, .rel, .lnk, .keys, .sys] s (slotE5 s i) := by
  unfold slotE5
  dsimp only
  split
  · refine .ite (fun _ => ?_) (fun _ => ?_)
    · refine .step ?_ (freeJob_keeps ..)
      refine .step ?_ (setSlot_keeps ..)
      exact .refl
    · exact .refl
  · refine .ite (fun _ => ?_) (fun _ => ?_)
    · refine .step ?_ (raise_keeps ..)
      refine .step ?_ (setSlot_keeps ..)
      refine .ite (fun _ => ?_) (fun _ => ?_)
      · refine .step ?_ (freeJob_keeps ..)
        refine .step ?_ (setSlot_keeps ..)
        exact .refl
      · exact .refl
    · refine .step ?_ (slotApply_keeps ..)
      refine .step ?_ (setSlot_keeps ..)
      refine .ite (fun _ => ?_) (fun _ => ?_)
      · refine .step ?_ (freeJob_keeps ..)
        refine .step ?_ (setSlot_keeps ..)
        exact .refl
      · exact .refl

theorem slotMap_keeps (s : State) (i : ℕ) :
    Keeps [.cnt, .tck] s (slotMap s i) := by
  unfold slotMap
  dsimp only
  refine .ite (fun _ => ?_) (fun _ => ?_)
  · exact .refl
  · refine .ite (fun _ => ?_) (fun _ => ?_)
    · refine .step ?_ (setSlot_keeps ..)
      exact .refl
    · refine .ite (fun _ => ?_) (fun _ => ?_)
      · exact .refl
      · refine .step ?_ (bump_keeps ..)
        refine .step ?_ (setSlot_keeps ..)
        exact .refl

theorem closeWaits_keeps (s : State) :
    Keeps [.out, .regs, .cnt, .tasks, .eng, .ldl, .sys] s (closeWaits s) := by
  unfold closeWaits
  refine .foldl ?_ (fun _ _ _ => ?_)
  · exact .refl
  · refine .step ?_ (finish_keeps ..)
    assumption

theorem phaseE5_keeps (closed : ℕ) (s : State) :
    Keeps [.out, .regs, .cnt, .mem, .poison, .epochs, .tasks, .prov, .eng, .tck, .crm, .hbm, .ecc, .cw, .ls, .ldl, .rel, .act, .lnk, .keys, .mtr, .sec, .sys, .free] s (phaseE5 closed s) := by
  unfold phaseE5
  dsimp only
  refine .step ?_ (reqBoundary_keeps ..)
  refine .step ?_ (fwBoundary_keeps ..)
  refine .set_keys ?_ _
  refine .step ?_ (closeWaits_keeps ..)
  refine .foldl ?_ (fun _ _ _ => ?_)
  · refine .foldl ?_ (fun _ _ _ => ?_)
    · exact .refl
    · refine .step ?_ (slotE5_keeps ..)
      assumption
  · refine .step ?_ (slotMap_keeps ..)
    assumption

theorem lsScrub_keeps (s : State) :
    Keeps [.out, .regs, .cnt, .poison, .cw, .ls, .rel, .sys, .free] s (lsScrub s) := by
  unfold lsScrub
  dsimp only
  refine .foldl ?_ (fun _ _ _ => ?_)
  · exact .refl
  · split
    · refine .ite (fun _ => ?_) (fun _ => ?_)
      · assumption
      · refine .ite (fun _ => ?_) (fun _ => ?_)
        · refine .step ?_ (draw_keeps ..)
          assumption
        · refine .ite (fun _ => ?_) (fun _ => ?_)
          · refine .step ?_ (lsCorrect_keeps ..)
            refine .step ?_ (draw_keeps ..)
            assumption
          · refine .step ?_ (poisonRead_keeps ..)
            refine .step ?_ (draw_keeps ..)
            assumption
    · assumption

theorem crossTick_keeps (s : State) :
    Keeps [.out, .regs, .cross, .rel, .sys] s (crossTick s) := by
  unfold crossTick
  refine .foldl ?_ (fun _ _ _ => ?_)
  · exact .refl
  · split
    · assumption
    · assumption
    · assumption
    · assumption
    · refine .step ?_ (crossReset_keeps ..)
      assumption

theorem background_keeps (s : State) :
    Keeps [.out, .regs, .cnt, .poison, .prov, .crm, .hbm, .ecc, .cw, .ls, .cross, .rel, .sys, .free] s (background s) := by
  unfold background
  refine .step ?_ (crossTick_keeps ..)
  refine .step ?_ (lsScrub_keeps ..)
  refine .step ?_ (pcCopyTick_keeps ..)
  refine .step ?_ (rehomeTick_keeps ..)
  exact .refl

theorem boundary_keeps (s : State) :
    Keeps [.out, .regs, .cnt, .mem, .poison, .epochs, .blk, .queues, .pools, .tasks, .prov, .drain, .eng, .tck, .crm, .hbm, .ecc, .cw, .ls, .cross, .ldl, .rel, .act, .tables, .layers, .skm, .lnk, .keys, .pwr, .clk, .mtr, .sec, .sys, .free] s (boundary s) := by
  unfold boundary
  dsimp only
  refine .ite (fun _ => ?_) (fun _ => ?_)
  · exact .refl
  · refine .ite (fun _ => ?_) (fun _ => ?_)
    · refine .step ?_ (doorRetry_keeps ..)
      refine .step ?_ (reqBoundary_keeps ..)
      refine .step ?_ (phaseM_keeps ..)
      exact .refl
    · refine .step ?_ (doorRetry_keeps ..)
      refine .step ?_ (stealNotice_keeps ..)
      refine .foldl ?_ (fun _ _ _ => ?_)
      · refine .step ?_ (freshWaits_keeps ..)
        refine .step ?_ (hbmBoundary_keeps ..)
        refine .step ?_ (phaseE5_keeps ..)
        refine .step ?_ (powerDecision_keeps ..)
        refine .step ?_ (phaseE3_keeps ..)
        refine .step ?_ (phaseE2_keeps ..)
        refine .step ?_ (outcomes_keeps ..)
        refine .foldl ?_ (fun _ _ _ => ?_)
        · refine .step ?_ (background_keeps ..)
          refine .step ?_ (phaseM_keeps ..)
          exact .refl
        · refine .step ?_ (phaseS_keeps ..)
          assumption
      · refine .step ?_ (admitTick_keeps ..)
        assumption

theorem execTickBoundary_keeps (s : State) :
    ResKeeps [.out, .regs, .cnt, .mem, .poison, .epochs, .blk, .queues, .pools, .tasks, .prov, .drain, .eng, .tck, .crm, .hbm, .ecc, .cw, .ls, .cross, .ldl, .rel, .act, .tables, .layers, .skm, .lnk, .keys, .pwr, .clk, .mtr, .sec, .sys, .free] s (execTickBoundary s) := by
  unfold execTickBoundary
  dsimp only
  change Keeps _ _ _
  refine .step ?_ (boundary_keeps ..)
  exact .refl

theorem tickCfgEffect_keeps (v : Word) (s : State) :
    Keeps [.out, .regs, .tck, .sys] s (tickCfgEffect v s) := by
  unfold tickCfgEffect
  dsimp only
  refine .ite (fun _ => ?_) (fun _ => ?_)
  · refine .step ?_ (raise_keeps ..)
    exact .refl
  · refine .set_tck ?_ _
    exact .refl

theorem execTickCfgWrite_keeps (who : Initiator) (v : Word) (s : State) :
    ResKeeps [.out, .regs, .blk, .tck, .sys] s (execTickCfgWrite who v s) := by
  unfold execTickCfgWrite
  change Keeps _ _ _
  refine regGuard_keeps ?_ (fun _ _ _ => ?_)
  · exact .refl
  · refine .step ?_ (tickCfgEffect_keeps ..)
    assumption

theorem tickSrcEffect_keeps (v : Word) (s : State) :
    Keeps [.out, .regs, .tck, .sys] s (tickSrcEffect v s) := by
  unfold tickSrcEffect
  dsimp only
  refine .ite (fun _ => ?_) (fun _ => ?_)
  · refine .step ?_ (setAlign_keeps ..)
    refine .step ?_ (storeReg_keeps ..)
    exact .refl
  · refine .ite (fun _ => ?_) (fun _ => ?_)
    · refine .step ?_ (setAlign_keeps ..)
      refine .set_tck ?_ _
      refine .step ?_ (storeReg_keeps ..)
      exact .refl
    · refine .step ?_ (storeReg_keeps ..)
      exact .refl

theorem execTickSrcWrite_keeps (who : Initiator) (v : Word) (s : State) :
    ResKeeps [.out, .regs, .blk, .tck, .sys] s (execTickSrcWrite who v s) := by
  unfold execTickSrcWrite
  change Keeps _ _ _
  refine regGuard_keeps ?_ (fun _ _ _ => ?_)
  · exact .refl
  · refine .step ?_ (tickSrcEffect_keeps ..)
    assumption

theorem markEffect_keeps (num : Option ℕ) (off : ℤ) (s : State) :
    Keeps [.out, .regs, .cnt, .tck, .sys] s (markEffect num off s) := by
  unfold markEffect
  dsimp only
  refine .ite (fun _ => ?_) (fun _ => ?_)
  · exact .refl
  · split
    · refine .ite (fun _ => ?_) (fun _ => ?_)
      · refine .step ?_ (setAlign_keeps ..)
        refine .set_tck ?_ _
        exact .refl
      · refine .set_tck ?_ _
        exact .refl
    · refine .ite (fun _ => ?_) (fun _ => ?_)
      · refine .step ?_ (setAlign_keeps ..)
        refine .set_tck ?_ _
        exact .refl
      · refine .ite (fun _ => ?_) (fun _ => ?_)
        · refine .step ?_ (bump_keeps ..)
          refine .set_tck ?_ _
          exact .refl
        · refine .set_tck ?_ _
          exact .refl
    · refine .step ?_ (setAlign_keeps ..)
      refine .set_tck ?_ _
      exact .refl

theorem execTickIn_keeps (offsetNs : ℤ) (s : State) :
    ResKeeps [.out, .regs, .cnt, .tck, .sys] s (execTickIn offsetNs s) := by
  unfold execTickIn
  change Keeps _ _ _
  refine .ite (fun _ => ?_) (fun _ => ?_)
  · refine .step ?_ (markEffect_keeps ..)
    exact .refl
  · exact .refl

theorem tickFrameEffect_keeps (p : ℕ) (f : Frame) (arrival : ℤ) (s : State) :
    Keeps [.out, .regs, .cnt, .tck, .rel, .lnk, .sys] s (tickFrameEffect p f arrival s) := by
  unfold tickFrameEffect
  dsimp only
  refine onFrame_keeps ?_ (fun _ _ => ?_)
  · exact .refl
  · refine .ite (fun _ => ?_) (fun _ => ?_)
    · refine .step ?_ (markEffect_keeps ..)
      refine .step ?_ (bump_keeps ..)
      refine .step ?_ (ackFrames_keeps ..)
      assumption
    · refine .step ?_ (bump_keeps ..)
      refine .step ?_ (ackFrames_keeps ..)
      assumption

theorem execTick_keeps (p : Fin 16) (f : Frame) (arrival : ℤ) (s : State) :
    ResKeeps [.out, .regs, .cnt, .tck, .rel, .lnk, .sys] s (execTick p f arrival s) := by
  unfold execTick
  change Keeps _ _ _
  refine .step ?_ (tickFrameEffect_keeps ..)
  exact .refl

theorem holdoverEffect_keeps (s : State) :
    Keeps [.out, .regs, .tck, .sys] s (holdoverEffect s) := by
  unfold holdoverEffect
  refine .ite (fun _ => ?_) (fun _ => ?_)
  · refine .step ?_ (raise_keeps ..)
    refine .step ?_ (setAlign_keeps ..)
    exact .refl
  · exact .refl

theorem execAlignHoldover_keeps (s : State) :
    ResKeeps [.out, .regs, .tck, .sys] s (execAlignHoldover s) := by
  unfold execAlignHoldover
  change Keeps _ _ _
  refine .step ?_ (holdoverEffect_keeps ..)
  exact .refl

theorem bindEffect_keeps (c : ℕ) (v : Word) (s : State) :
    Keeps [.out, .regs, .sys] s (bindEffect c v s) := by
  unfold bindEffect
  dsimp only
  refine .ite (fun _ => ?_) (fun _ => ?_)
  · refine .step ?_ (raise_keeps ..)
    exact .refl
  · refine .ite (fun _ => ?_) (fun _ => ?_)
    · refine .step ?_ (raise_keeps ..)
      exact .refl
    · refine .ite (fun _ => ?_) (fun _ => ?_)
      · refine .step ?_ (raise_keeps ..)
        exact .refl
      · refine .step ?_ (setReg_keeps ..)
        exact .refl

theorem bindWrite_keeps (who : Initiator) (c : ℕ) (v : Word) (s : State) :
    Keeps [.out, .regs, .sys] s (bindWrite who c v s) := by
  unfold bindWrite
  refine .ite (fun _ => ?_) (fun _ => ?_)
  · refine .step ?_ (raise_keeps ..)
    exact .refl
  · refine .step ?_ (bindEffect_keeps ..)
    exact .refl

theorem execCqBindWrite_keeps (who : Initiator) (cq : Fin 256) (v : Word) (s : State) :
    ResKeeps [.out, .regs, .blk, .sys] s (execCqBindWrite who cq v s) := by
  unfold execCqBindWrite
  change Keeps _ _ _
  refine regGuard_keeps ?_ (fun _ _ _ => ?_)
  · exact .refl
  · refine .step ?_ (bindWrite_keeps ..)
    assumption

theorem ownBindEffect_keeps (c target : ℕ) (s : State) :
    Keeps [.out, .regs, .sys] s (ownBindEffect c target s) := by
  unfold ownBindEffect
  refine .ite (fun _ => ?_) (fun _ => ?_)
  · exact .refl
  · refine .step ?_ (bindEffect_keeps ..)
    exact .refl

theorem execOwnQueueBind_keeps (cq target : Fin 256) (s : State) :
    ResKeeps [.out, .regs, .sys] s (execOwnQueueBind cq target s) := by
  unfold execOwnQueueBind
  change Keeps _ _ _
  refine .step ?_ (ownBindEffect_keeps ..)
  exact .refl

theorem ownUnbindEffect_keeps (c : ℕ) (s : State) :
    Keeps [.regs] s (ownUnbindEffect c s) := by
  unfold ownUnbindEffect
  refine .ite (fun _ => ?_) (fun _ => ?_)
  · exact .refl
  · refine .step ?_ (setReg_keeps ..)
    exact .refl

theorem execOwnQueueUnbind_keeps (cq : Fin 256) (s : State) :
    ResKeeps [.regs] s (execOwnQueueUnbind cq s) := by
  unfold execOwnQueueUnbind
  change Keeps _ _ _
  refine .step ?_ (ownUnbindEffect_keeps ..)
  exact .refl

theorem slotEffect_keeps (i : ℕ) (v : Word) (s : State) :
    Keeps [.tck] s (slotEffect i v s) := by
  unfold slotEffect
  dsimp only
  refine .step ?_ (setSlot_keeps ..)
  exact .refl

theorem execJobSlotWrite_keeps (who : Initiator) (slot : Fin 32) (v : Word) (s : State) :
    ResKeeps [.out, .regs, .blk, .tck, .sys] s (execJobSlotWrite who slot v s) := by
  unfold execJobSlotWrite
  change Keeps _ _ _
  refine regGuard_keeps ?_ (fun _ _ _ => ?_)
  · exact .refl
  · refine .step ?_ (slotEffect_keeps ..)
    assumption

theorem abortNow_keeps (t : Task) (s : State) :
    Keeps [.out, .regs, .cnt, .tasks, .eng, .ldl, .lnk, .sys] s (abortNow t s) := by
  unfold abortNow
  dsimp only
  refine .step ?_ (finish_keeps ..)
  refine .set_lnk ?_ _
  exact .refl

theorem reopenUse_keeps (t : Task) (s : State) :
    Keeps [.tasks, .groups, .prov] s (reopenUse t s) := by
  unfold reopenUse
  dsimp only
  refine .step ?_ (setUse_keeps ..)
  refine .mk rfl ?_ rfl (fun p hp => by cases p <;> first | with_reducible rfl | exact absurd (by decide) hp)
  exact .refl

theorem drainDoneEffect_keeps (e : ℕ) (s : State) :
    Keeps [.out, .regs, .cnt, .tasks, .eng, .ldl, .lnk, .sys] s (drainDoneEffect e s) := by
  unfold drainDoneEffect
  dsimp only
  refine .foldl ?_ (fun _ _ _ => ?_)
  · refine .step ?_ (setEng_keeps ..)
    exact .refl
  · refine .step ?_ (abortNow_keeps ..)
    assumption

theorem execSuspendDrainDone_keeps (e : Engine) (s : State) :
    ResKeeps [.out, .regs, .cnt, .tasks, .eng, .ldl, .lnk, .sys] s (execSuspendDrainDone e s) := by
  unfold execSuspendDrainDone
  change Keeps _ _ _
  refine .step ?_ (drainDoneEffect_keeps ..)
  exact .refl

theorem abortOne_keeps (s : State) (t0 : Task) :
    Keeps [.out, .regs, .cnt, .tasks, .groups, .prov, .eng, .tck, .ldl, .lnk, .sys] s (abortOne s t0) := by
  unfold abortOne
  dsimp only
  split
  · refine .step ?_ (finish_keeps ..)
    refine .set_tck ?_ _
    exact .refl
  · refine .step ?_ (finish_keeps ..)
    refine .set_tck ?_ _
    exact .refl
  · refine .step ?_ (putTask_keeps ..)
    refine .set_tck ?_ _
    exact .refl
  · refine .step ?_ (finish_keeps ..)
    refine .step ?_ (reopenUse_keeps ..)
    refine .set_tck ?_ _
    exact .refl
  · exact .refl
  · refine .ite (fun _ => ?_) (fun _ => ?_)
    · refine .set_tck ?_ _
      exact .refl
    · refine .step ?_ (abortNow_keeps ..)
      refine .set_tck ?_ _
      exact .refl

theorem abortItem_keeps (c : ℕ) (w : Word) (t : Task) (s : State) :
    Keeps [.queues, .tasks, .nextTask, .tck] s (abortItem c w t s) := by
  unfold abortItem
  dsimp only
  refine .mk rfl ?_ rfl (fun p hp => by cases p <;> first | with_reducible rfl | exact absurd (by decide) hp)
  refine .step ?_ (setQueue_keeps ..)
  exact .refl

theorem abortQueue_keeps (p : Task → Bool) (c : ℕ) (s : State) :
    Keeps [.out, .regs, .queues, .tasks, .nextTask, .tck, .rel, .sys] s (abortQueue p c s).2 := by
  unfold abortQueue
  dsimp only
  refine .foldl_snd ?_ (fun _ _ _ => ?_)
  · dsimp only
    refine .ite (fun _ => ?_) (fun _ => ?_)
    · exact .refl
    · refine .step ?_ (ptrCheck_keeps ..)
      exact .refl
  · split
    · dsimp only
      refine .step ?_ (abortItem_keeps ..)
      assumption
    · assumption

theorem abortQueued_keeps (p : Task → Bool) (s : State) :
    Keeps [.out, .regs, .queues, .tasks, .nextTask, .tck, .rel, .sys] s (abortQueued p s).2 := by
  unfold abortQueued
  dsimp only
  refine .foldl_snd ?_ (fun _ _ _ => ?_)
  · dsimp only
    exact .refl
  · dsimp only
    refine .step ?_ (abortQueue_keeps ..)
    assumption

theorem abortTaskRun_keeps (job x1 : ℕ) (s : State) :
    Keeps [.out, .regs, .cnt, .queues, .tasks, .nextTask, .groups, .prov, .eng, .tck, .ldl, .rel, .lnk, .sys] s (abortTaskRun job x1 s) := by
  unfold abortTaskRun
  dsimp only
  split
  · refine .set_tck ?_ _
    refine .step ?_ (abortOne_keeps ..)
    exact .refl
  · refine .ite (fun _ => ?_) (fun _ => ?_)
    · refine .set_tck ?_ _
      exact .refl
    · refine .ite (fun _ => ?_) (fun _ => ?_)
      · refine .set_tck ?_ _
        refine .step ?_ (abortQueued_keeps ..)
        exact .refl
      · refine .set_tck ?_ _
        exact .refl

theorem abortJobRun_keeps (job : ℕ) (s : State) :
    Keeps [.out, .regs, .cnt, .queues, .tasks, .nextTask, .groups, .prov, .eng, .tck, .ldl, .rel, .lnk, .sys] s (abortJobRun job s) := by
  unfold abortJobRun
  dsimp only
  refine .set_tck ?_ _
  refine .step ?_ (abortQueued_keeps ..)
  refine .foldl ?_ (fun _ _ _ => ?_)
  · exact .refl
  · refine .step ?_ (abortOne_keeps ..)
    assumption

theorem abortEffect_keeps (v : Word) (s : State) :
    Keeps [.out, .regs, .cnt, .queues, .tasks, .nextTask, .groups, .prov, .eng, .tck, .ldl, .rel, .lnk, .sys] s (abortEffect v s) := by
  unfold abortEffect
  dsimp only
  refine .ite (fun _ => ?_) (fun _ => ?_)
  · refine .step ?_ (raise_keeps ..)
    exact .refl
  · refine .ite (fun _ => ?_) (fun _ => ?_)
    · refine .step ?_ (storeReg_keeps ..)
      exact .refl
    · refine .ite (fun _ => ?_) (fun _ => ?_)
      · refine .step ?_ (abortJobRun_keeps ..)
        refine .step ?_ (storeReg_keeps ..)
        exact .refl
      · refine .step ?_ (abortTaskRun_keeps ..)
        refine .step ?_ (storeReg_keeps ..)
        exact .refl

theorem execAbortTask_keeps (who : Initiator) (v : Word) (s : State) :
    ResKeeps [.out, .regs, .cnt, .blk, .queues, .tasks, .nextTask, .groups, .prov, .eng, .tck, .ldl, .rel, .lnk, .sys] s (execAbortTask who v s) := by
  unfold execAbortTask
  change Keeps _ _ _
  refine regGuard_keeps ?_ (fun _ _ _ => ?_)
  · exact .refl
  · refine .step ?_ (abortEffect_keeps ..)
    assumption

theorem execAbortJob_keeps (who : Initiator) (v : Word) (s : State) :
    ResKeeps [.out, .regs, .cnt, .blk, .queues, .tasks, .nextTask, .groups, .prov, .eng, .tck, .ldl, .rel, .lnk, .sys] s (execAbortJob who v s) := by
  unfold execAbortJob
  change Keeps _ _ _
  refine regGuard_keeps ?_ (fun _ _ _ => ?_)
  · exact .refl
  · refine .step ?_ (abortEffect_keeps ..)
    assumption

theorem abortDoneEffect_keeps (s : State) :
    Keeps [.out, .regs, .tck, .sys] s (abortDoneEffect s) := by
  unfold abortDoneEffect
  dsimp only
  refine .ite (fun _ => ?_) (fun _ => ?_)
  · refine .step ?_ (intSet_keeps ..)
    refine .set_tck ?_ _
    exact .refl
  · exact .refl

theorem execAbortDone_keeps (s : State) :
    ResKeeps [.out, .regs, .tck, .sys] s (execAbortDone s) := by
  unfold execAbortDone
  change Keeps _ _ _
  refine .step ?_ (abortDoneEffect_keeps ..)
  exact .refl

theorem noprogEffect_keeps (i : ℕ) (s : State) :
    Keeps [.out, .regs, .cnt, .poison, .queues, .pools, .tck, .crm, .hbm, .cw, .ls, .rel, .act, .sys, .free] s (noprogEffect i s) := by
  unfold noprogEffect
  dsimp only
  refine .ite (fun _ => ?_) (fun _ => ?_)
  · exact .refl
  · refine .step ?_ (bump_keeps ..)
    refine .step ?_ (intSet_keeps ..)
    refine .step ?_ (raise_keeps ..)
    split
    · refine .ite (fun _ => ?_) (fun _ => ?_)
      · refine .set_tck ?_ _
        exact .refl
      · refine .step ?_ (setReg_keeps ..)
        refine .set_tck ?_ _
        exact .refl
    · refine .set_tck ?_ _
      exact .refl

theorem execNoprog_keeps (slot : Fin 32) (s : State) :
    ResKeeps [.out, .regs, .cnt, .poison, .queues, .pools, .tck, .crm, .hbm, .cw, .ls, .rel, .act, .sys, .free] s (execNoprog slot s) := by
  unfold execNoprog
  change Keeps _ _ _
  refine .step ?_ (noprogEffect_keeps ..)
  exact .refl

theorem execNoprogFirstRead_keeps (who : Initiator) (s : State) :
    ResKeeps [.resp, .out, .regs, .sys] s (execNoprogFirstRead who s) := by
  unfold execNoprogFirstRead
  change Keeps _ _ _
  refine .step ?_ (readClear_keeps ..)
  exact .refl

theorem execCqDropFirstRead_keeps (who : Initiator) (s : State) :
    ResKeeps [.resp, .out, .regs, .sys] s (execCqDropFirstRead who s) := by
  unfold execCqDropFirstRead
  change Keeps _ _ _
  refine .step ?_ (readClear_keeps ..)
  exact .refl

/-! ### Machine/Boot.lean -/

theorem bootSwitch_keeps (g old : ℕ) (reverted : Bool) (s : State) :
    Keeps [.rel] s (bootSwitch g old reverted s) := by
  unfold bootSwitch
  dsimp only
  refine .set_rel ?_ _
  exact .refl

theorem setSlotOf_keeps (g slot : ℕ) (s : State) :
    Keeps [.sec] s (setSlotOf g slot s) := by
  unfold setSlotOf
  dsimp only
  refine .set_sec ?_ _
  exact .refl

theorem bootGroup_keeps (reads : ℕ → Bool) (g : ℕ) (s : State) :
    OptKeeps [.rel, .sec] s (bootGroup reads g s) := by
  unfold bootGroup
  dsimp only
  split
  · change Keeps _ _ _
    exact .refl
  · split
    · change Keeps _ _ _
      refine .step ?_ (bootSwitch_keeps ..)
      refine .step ?_ (journal_keeps ..)
      refine .step ?_ (setSlotOf_keeps ..)
      exact .refl
    · trivial

theorem bootLast_keeps (reads : ℕ → Bool) (s : State) :
    OptKeeps [.rel, .sec] s (bootLast reads s) := by
  unfold bootLast
  dsimp only
  split
  · split
    · trivial
    · change Keeps _ _ _
      refine .ite (fun _ => ?_) (fun _ => ?_)
      · refine OptKeeps.some (by assumption) ?_
        refine .step ?_ (bootGroup_keeps ..)
        refine .ite (fun _ => ?_) (fun _ => ?_)
        · refine .step ?_ (bootSwitch_keeps ..)
          refine .step ?_ (journal_keeps ..)
          refine .step ?_ (setSlotOf_keeps ..)
          refine .set_sec ?_ _
          exact .refl
        · refine .step ?_ (journal_keeps ..)
          refine .step ?_ (setSlotOf_keeps ..)
          refine .set_sec ?_ _
          exact .refl
      · refine .set_sec ?_ _
        refine OptKeeps.some (by assumption) ?_
        refine .step ?_ (bootGroup_keeps ..)
        refine .ite (fun _ => ?_) (fun _ => ?_)
        · refine .step ?_ (bootSwitch_keeps ..)
          refine .step ?_ (journal_keeps ..)
          refine .step ?_ (setSlotOf_keeps ..)
          refine .set_sec ?_ _
          exact .refl
        · refine .step ?_ (journal_keeps ..)
          refine .step ?_ (setSlotOf_keeps ..)
          refine .set_sec ?_ _
          exact .refl
  · refine .step ?_ (bootGroup_keeps ..)
    refine .set_sec ?_ _
    exact .refl

theorem applyEntry_keeps (s : State) (m : MapEnt) :
    Keeps [.blk, .crm, .hbm, .cw, .lpc, .lnk, .sys] s (applyEntry s m) := by
  unfold applyEntry
  dsimp only
  refine .ite (fun _ => ?_) (fun _ => ?_)
  · refine .step ?_ (setBlk_keeps ..)
    exact .refl
  · refine .ite (fun _ => ?_) (fun _ => ?_)
    · refine .getD ?_ (fun _ _ => ?_)
      · exact .refl
      · refine OptKeeps.some (by assumption) ?_
        refine .step ?_ (rehomeStart_keeps ..)
        exact .refl
    · refine .ite (fun _ => ?_) (fun _ => ?_)
      · refine .getD ?_ (fun _ _ => ?_)
        · exact .refl
        · refine OptKeeps.some (by assumption) ?_
          refine .step ?_ (pcReplace_keeps ..)
          exact .refl
      · refine .ite (fun _ => ?_) (fun _ => ?_)
        · refine .set_sys ?_ _
          exact .refl
        · exact .refl

theorem applyMapTab_keeps (s : State) :
    Keeps [.blk, .crm, .hbm, .cw, .lpc, .rel, .lnk, .sec, .sys] s (applyMapTab s) := by
  unfold applyMapTab
  dsimp only
  refine .foldl ?_ (fun _ _ _ => ?_)
  · refine .ite (fun _ => ?_) (fun _ => ?_)
    · exact .refl
    · refine .step ?_ (journal_keeps ..)
      refine .mk rfl ?_ rfl (fun p hp => by cases p <;> first | with_reducible rfl | exact absurd (by decide) hp)
      exact .refl
  · refine .step ?_ (applyEntry_keeps ..)
    assumption

theorem startUp_keeps (slot : ℕ) (romOk : Bool) (reads : BitVec 2) (s : State) :
    Keeps [.out, .regs, .blk, .crm, .hbm, .cw, .lpc, .rel, .lnk, .pwr, .clk, .sec, .sys] s (startUp slot romOk reads s) := by
  unfold startUp
  dsimp only
  refine .ite (fun _ => ?_) (fun _ => ?_)
  · refine .set_sys ?_ _
    exact .refl
  · split
    · refine .step ?_ (applyMapTab_keeps ..)
      refine .set_sys ?_ _
      exact .refl
    · refine .set_sec ?_ _
      refine .step ?_ (takeVt_keeps ..)
      refine .set_sys ?_ _
      refine OptKeeps.some (by assumption) ?_
      refine .step ?_ (bootLast_keeps ..)
      refine .step ?_ (applyMapTab_keeps ..)
      refine .set_sys ?_ _
      exact .refl

theorem coldState_keeps (s0 : State) :
    Keeps [.resp, .regs, .cnt, .mem, .poison, .epochs, .blk, .queues, .pools, .tasks, .nextTask, .groups, .prov, .drain, .eng, .tck, .crm, .hbm, .ecc, .cw, .ls, .upset, .seedBad, .rngBlocks, .cross, .lpc, .ldl, .rel, .arr, .act, .actJob, .tables, .layers, .skm, .lnk, .keys, .pwr, .clk, .mtr, .mgt, .sec, .sys, .free] s0 (coldState s0) := by
  unfold coldState
  dsimp only
  refine .mk rfl ?_ rfl (fun p hp => by cases p <;> first | with_reducible rfl | exact absurd (by decide) hp)
  refine .ite (fun _ => ?_) (fun _ => ?_)
  · refine .mkm rfl ?_ (fun hm => ?_) (fun p hp => by cases p <;> first | with_reducible rfl | exact absurd (by decide) hp)
    · exact .refl
    · exact memLose_wf hm
  · exact .refl

theorem poweredState_keeps (s : State) :
    Keeps [.resp, .out, .regs, .cnt, .mem, .poison, .epochs, .blk, .queues, .pools, .tasks, .nextTask, .groups, .prov, .drain, .eng, .tck, .crm, .hbm, .ecc, .cw, .ls, .upset, .seedBad, .rngBlocks, .cross, .lpc, .ldl, .rel, .arr, .act, .actJob, .tables, .layers, .skm, .lnk, .keys, .pwr, .clk, .mtr, .mgt, .sec, .sys, .free] s (poweredState s) := by
  unfold poweredState
  dsimp only
  split
  · refine .step ?_ (startUp_keeps ..)
    refine .set_sys ?_ _
    refine .step ?_ (coldState_keeps ..)
    exact .refl
  · refine .set_sys ?_ _
    refine .step ?_ (coldState_keeps ..)
    exact .refl

theorem execVinApply_keeps (s : State) :
    ResKeeps [.resp, .out, .regs, .cnt, .mem, .poison, .epochs, .blk, .queues, .pools, .tasks, .nextTask, .groups, .prov, .drain, .eng, .tck, .crm, .hbm, .ecc, .cw, .ls, .upset, .seedBad, .rngBlocks, .cross, .lpc, .ldl, .rel, .arr, .act, .actJob, .tables, .layers, .skm, .lnk, .keys, .pwr, .clk, .mtr, .mgt, .sec, .sys, .free] s (execVinApply s) := by
  unfold execVinApply
  dsimp only
  change Keeps _ _ _
  refine .ite (fun _ => ?_) (fun _ => ?_)
  · exact .refl
  · refine .step ?_ (poweredState_keeps ..)
    exact .refl

theorem execVinLoss_keeps (s : State) :
    ResKeeps [.resp, .regs, .cnt, .mem, .poison, .epochs, .blk, .queues, .pools, .tasks, .nextTask, .groups, .prov, .drain, .eng, .tck, .crm, .hbm, .ecc, .cw, .ls, .upset, .seedBad, .rngBlocks, .cross, .lpc, .ldl, .rel, .arr, .act, .actJob, .tables, .layers, .skm, .lnk, .keys, .pwr, .clk, .mtr, .mgt, .sec, .sys, .free] s (execVinLoss s) := by
  unfold execVinLoss
  dsimp only
  change Keeps _ _ _
  refine .ite (fun _ => ?_) (fun _ => ?_)
  · refine .step ?_ (coldState_keeps ..)
    exact .refl
  · exact .refl

theorem powerOff_keeps (s : State) :
    Keeps [.resp, .regs, .cnt, .mem, .poison, .epochs, .blk, .queues, .pools, .tasks, .nextTask, .groups, .prov, .drain, .eng, .tck, .crm, .hbm, .ecc, .cw, .ls, .upset, .seedBad, .rngBlocks, .cross, .lpc, .ldl, .rel, .arr, .act, .actJob, .tables, .layers, .skm, .lnk, .keys, .pwr, .clk, .mtr, .mgt, .sec, .sys, .free] s (powerOff s) := by
  unfold powerOff
  dsimp only
  refine .ite (fun _ => ?_) (fun _ => ?_)
  · refine .step ?_ (coldState_keeps ..)
    exact .refl
  · exact .refl

theorem execOverVoltage_keeps (s : State) :
    ResKeeps [.resp, .regs, .cnt, .mem, .poison, .epochs, .blk, .queues, .pools, .tasks, .nextTask, .groups, .prov, .drain, .eng, .tck, .crm, .hbm, .ecc, .cw, .ls, .upset, .seedBad, .rngBlocks, .cross, .lpc, .ldl, .rel, .arr, .act, .actJob, .tables, .layers, .skm, .lnk, .keys, .pwr, .clk, .mtr, .mgt, .sec, .sys, .free] s (execOverVoltage s) := by
  unfold execOverVoltage
  dsimp only
  change Keeps _ _ _
  refine .step ?_ (powerOff_keeps ..)
  exact .refl

theorem coldResetEffect_keeps (lowNs : ℕ) (s : State) :
    Keeps [.resp, .out, .regs, .cnt, .mem, .poison, .epochs, .blk, .queues, .pools, .tasks, .nextTask, .groups, .prov, .drain, .eng, .tck, .crm, .hbm, .ecc, .cw, .ls, .upset, .seedBad, .rngBlocks, .cross, .lpc, .ldl, .rel, .arr, .act, .actJob, .tables, .layers, .skm, .lnk, .keys, .pwr, .clk, .mtr, .mgt, .sec, .sys, .free] s (coldResetEffect lowNs s) := by
  unfold coldResetEffect
  dsimp only
  refine .ite (fun _ => ?_) (fun _ => ?_)
  · exact .refl
  · refine .ite (fun _ => ?_) (fun _ => ?_)
    · refine .step ?_ (poweredState_keeps ..)
      refine .set_sys ?_ _
      exact .refl
    · refine .set_sys ?_ _
      exact .refl

theorem execColdReset_keeps (lowNs : ℕ) (s : State) :
    ResKeeps [.resp, .out, .regs, .cnt, .mem, .poison, .epochs, .blk, .queues, .pools, .tasks, .nextTask, .groups, .prov, .drain, .eng, .tck, .crm, .hbm, .ecc, .cw, .ls, .upset, .seedBad, .rngBlocks, .cross, .lpc, .ldl, .rel, .arr, .act, .actJob, .tables, .layers, .skm, .lnk, .keys, .pwr, .clk, .mtr, .mgt, .sec, .sys, .free] s (execColdReset lowNs s) := by
  unfold execColdReset
  dsimp only
  change Keeps _ _ _
  refine .step ?_ (coldResetEffect_keeps ..)
  exact .refl

theorem resetReleaseEffect_keeps (slot : ℕ) (romOk : Bool) (reads : BitVec 2) (s : State) :
    Keeps [.out, .regs, .blk, .crm, .hbm, .cw, .lpc, .rel, .lnk, .pwr, .clk, .sec, .sys] s (resetReleaseEffect slot romOk reads s) := by
  unfold resetReleaseEffect
  dsimp only
  refine .ite (fun _ => ?_) (fun _ => ?_)
  · exact .refl
  · refine .ite (fun _ => ?_) (fun _ => ?_)
    · refine .step ?_ (startUp_keeps ..)
      refine .set_sys ?_ _
      exact .refl
    · refine .set_sys ?_ _
      exact .refl

theorem execResetRelease_keeps (id0 id1 id2 shaOk rsaOk : Bool) (reads : BitVec 2) (s : State) :
    ResKeeps [.out, .regs, .blk, .crm, .hbm, .cw, .lpc, .rel, .lnk, .pwr, .clk, .sec, .sys] s (execResetRelease id0 id1 id2 shaOk rsaOk reads s) := by
  unfold execResetRelease
  change Keeps _ _ _
  refine .step ?_ (resetReleaseEffect_keeps ..)
  exact .refl

theorem lastTimeoutEffect_keeps (s : State) :
    Keeps [.sec] s (lastTimeoutEffect s) := by
  unfold lastTimeoutEffect
  dsimp only
  refine .ite (fun _ => ?_) (fun _ => ?_)
  · refine .step ?_ (journal_keeps ..)
    refine .set_sec ?_ _
    exact .refl
  · exact .refl

theorem execLastHealthTimeout_keeps (s : State) :
    ResKeeps [.sec] s (execLastHealthTimeout s) := by
  unfold execLastHealthTimeout
  change Keeps _ _ _
  refine .step ?_ (lastTimeoutEffect_keeps ..)
  exact .refl

theorem readyBlock_keeps (s : State) (x : Block × ℕ) :
    Keeps [.regs, .blk] s (readyBlock s x) := by
  unfold readyBlock
  dsimp only
  refine .ite (fun _ => ?_) (fun _ => ?_)
  · refine .step ?_ (setBlk_keeps ..)
    exact .refl
  · refine .step ?_ (setReg_keeps ..)
    refine .step ?_ (setBlk_keeps ..)
    exact .refl

theorem clocksEffect_keeps (s : State) :
    Keeps [.regs, .blk, .tck, .sys, .free] s (clocksEffect s) := by
  unfold clocksEffect
  dsimp only
  refine .ite (fun _ => ?_) (fun _ => ?_)
  · exact .refl
  · refine .mk rfl ?_ rfl (fun p hp => by cases p <;> first | with_reducible rfl | exact absurd (by decide) hp)
    refine .step ?_ (draw_keeps ..)
    refine .foldl ?_ (fun _ _ _ => ?_)
    · exact .refl
    · refine .step ?_ (readyBlock_keeps ..)
      assumption

theorem execClocksStable_keeps (s : State) :
    ResKeeps [.regs, .blk, .tck, .sys, .free] s (execClocksStable s) := by
  unfold execClocksStable
  change Keeps _ _ _
  refine .step ?_ (clocksEffect_keeps ..)
  exact .refl

theorem cobblerReleaseEffect_keeps (reads : ℕ → Bool) (s : State) :
    Keeps [.out, .regs, .mem, .hbm, .rel, .sec, .sys, .free] s (cobblerReleaseEffect reads s) := by
  unfold cobblerReleaseEffect
  dsimp only
  refine .ite (fun _ => ?_) (fun _ => ?_)
  · exact .refl
  · split
    · exact .refl
    · refine .foldl ?_ (fun _ _ _ => ?_)
      · refine .mk rfl ?_ rfl (fun p hp => by cases p <;> first | with_reducible rfl | exact absurd (by decide) hp)
        refine OptKeeps.some (by assumption) ?_
        refine .step ?_ (bootGroup_keeps ..)
        exact .refl
      · refine .step ?_ (hbmRequest_keeps ..)
        assumption

theorem execCobblerRelease_keeps (readA readB : Bool) (s : State) :
    ResKeeps [.out, .regs, .mem, .hbm, .rel, .sec, .sys, .free] s (execCobblerRelease readA readB s) := by
  unfold execCobblerRelease
  change Keeps _ _ _
  refine .step ?_ (cobblerReleaseEffect_keeps ..)
  exact .refl

theorem upperLoad_keeps (entry : ℕ) (copied : Bool) (s : State) :
    Keeps [.out, .regs, .cnt, .mem, .poison, .epochs, .tasks, .prov, .crm, .hbm, .ecc, .cw, .ls, .ldl, .rel, .act, .sys, .free] s (upperLoad entry copied s) := by
  unfold upperLoad
  dsimp only
  refine .ite (fun _ => ?_) (fun _ => ?_)
  · exact .refl
  · refine .set_sys ?_ _
    refine .step ?_ (setReg_keeps ..)
    refine .step ?_ (setReg_keeps ..)
    refine .step ?_ (wrBytes_keeps ..)
    exact .refl

theorem upperReleaseEffect_keeps (reads : ℕ → ℕ → Bool) (entry : ℕ) (copied : Bool) (s : State) :
    Keeps [.out, .regs, .cnt, .mem, .poison, .epochs, .tasks, .prov, .crm, .hbm, .ecc, .cw, .ls, .ldl, .rel, .act, .sec, .sys, .free] s (upperReleaseEffect reads entry copied s) := by
  unfold upperReleaseEffect
  dsimp only
  refine .ite (fun _ => ?_) (fun _ => ?_)
  · exact .refl
  · refine .ite (fun _ => ?_) (fun _ => ?_)
    · refine .step ?_ (upperLoad_keeps ..)
      exact .refl
    · refine .ite (fun _ => ?_) (fun _ => ?_)
      · exact .refl
      · split
        · refine .foldl ?_ (fun _ _ _ => ?_)
          · exact .refl
          · refine .getD ?_ (fun _ _ => ?_)
            · assumption
            · refine OptKeeps.some (by assumption) ?_
              refine .step ?_ (bootGroup_keeps ..)
              assumption
        · refine .step ?_ (upperLoad_keeps ..)
          refine .set_sys ?_ _
          refine OptKeeps.some (by assumption) ?_
          refine .step ?_ (bootGroup_keeps ..)
          refine .foldl ?_ (fun _ _ _ => ?_)
          · exact .refl
          · refine .getD ?_ (fun _ _ => ?_)
            · assumption
            · refine OptKeeps.some (by assumption) ?_
              refine .step ?_ (bootGroup_keeps ..)
              assumption

theorem execUpperRelease_keeps (readsA readsB : BitVec 5) (entry : BitVec 50) (copied : Bool) (s : State) :
    ResKeeps [.out, .regs, .cnt, .mem, .poison, .epochs, .tasks, .prov, .crm, .hbm, .ecc, .cw, .ls, .ldl, .rel, .act, .sec, .sys, .free] s (execUpperRelease readsA readsB entry copied s) := by
  unfold execUpperRelease
  change Keeps _ _ _
  refine .step ?_ (upperReleaseEffect_keeps ..)
  exact .refl

theorem bootStsEffect_keeps (v : Word) (s : State) :
    Keeps [.sys] s (bootStsEffect v s) := by
  unfold bootStsEffect
  dsimp only
  refine .ite (fun _ => ?_) (fun _ => ?_)
  · exact .refl
  · refine .ite (fun _ => ?_) (fun _ => ?_)
    · refine .set_sys ?_ _
      exact .refl
    · refine .set_sys ?_ _
      exact .refl

theorem execUpperOk_keeps (who : Initiator) (v : Word) (s : State) :
    ResKeeps [.out, .regs, .blk, .sys] s (execUpperOk who v s) := by
  unfold execUpperOk
  change Keeps _ _ _
  refine regGuard_keeps ?_ (fun _ _ _ => ?_)
  · exact .refl
  · refine .step ?_ (bootStsEffect_keeps ..)
    assumption

theorem coreCtlEffect_keeps (who : Initiator) (v : Word) (s : State) :
    Keeps [.out, .regs, .sys] s (coreCtlEffect who v s) := by
  unfold coreCtlEffect
  dsimp only
  refine .ite (fun _ => ?_) (fun _ => ?_)
  · refine .step ?_ (raise_keeps ..)
    exact .refl
  · refine .step ?_ (setReg_keeps ..)
    refine .set_sys ?_ _
    exact .refl

theorem execCoreRun_keeps (who : Initiator) (v : Word) (s : State) :
    ResKeeps [.out, .regs, .blk, .sys] s (execCoreRun who v s) := by
  unfold execCoreRun
  change Keeps _ _ _
  refine regGuard_keeps ?_ (fun _ _ _ => ?_)
  · exact .refl
  · refine .step ?_ (coreCtlEffect_keeps ..)
    assumption

theorem upperEntryEffect_keeps (who : Initiator) (v : Word) (s : State) :
    Keeps [.out, .regs, .sys] s (upperEntryEffect who v s) := by
  unfold upperEntryEffect
  refine .ite (fun _ => ?_) (fun _ => ?_)
  · refine .step ?_ (raise_keeps ..)
    exact .refl
  · refine .step ?_ (storeReg_keeps ..)
    exact .refl

end Sys2Proof.Machine
end

