-- ==== Sys2Proof/Laws/FrameManage.lean ====
section
/-! SUPPORT. What each function can change, one law a function: the keyed commands, management and register writes. -/

set_option Elab.async false

namespace Sys2Proof.Machine

/-! ### Machine/Secure.lean -/

theorem keyedHead_keeps {ps : List Part} {s0 s : State} {code len : Nat} {e : Envelope} {k : CmdSrc → State → State}
    (h : Keeps ps s0 s) (hk : ∀ r u, Keeps ps s0 u → Keeps ps s0 (k r u))
    (hp : [.out, .regs, .cnt, .mem, .poison, .epochs, .tasks, .prov, .crm, .hbm, .ecc, .cw, .ls, .ldl, .rel, .act,
        .mgt, .sec, .sys, .free] ⊆ ps := by decide) :
    Keeps ps s0 (keyedHead code len e k s) := by
  have sub {qs : List Part} {t u : State} (ht : Keeps ps s0 t) (k : Keeps qs t u)
      (hq : qs ⊆ [.out, .regs, .cnt, .mem, .poison, .epochs, .tasks, .prov, .crm, .hbm, .ecc, .cw, .ls, .ldl, .rel,
          .act, .mgt, .sec, .sys, .free] := by decide) : Keeps ps s0 u := ht.step k (fun _ m => hp (hq m))
  unfold keyedHead
  have ht := sub h (takeSource_keeps e s)
  have hr (c : Nat) := sub ht (rejectCmd_keeps (takeSource e s).1 e c _)
  exact .ite (fun _ => h) (fun _ => .ite (fun _ => hr _) (fun _ => .ite (fun _ => hr _) (fun _ => .ite (fun _ => hr _)
    (fun _ => .ite (fun _ => hr _) (fun _ => hk _ _ ht)))))

theorem keyedMac_keeps {ps : List Part} {s0 s : State} {src : CmdSrc} {e : Envelope} {k : CmdSrc → State → State}
    (h : Keeps ps s0 s) (hk : ∀ r u, Keeps ps s0 u → Keeps ps s0 (k r u))
    (hp : [.out, .regs, .cnt, .mem, .poison, .epochs, .tasks, .prov, .crm, .hbm, .ecc, .cw, .ls, .ldl, .rel, .act,
        .sec, .sys, .free] ⊆ ps := by decide) :
    Keeps ps s0 (keyedMac e k src s) := by
  have sub {qs : List Part} {t u : State} (ht : Keeps ps s0 t) (k : Keeps qs t u)
      (hq : qs ⊆ [.out, .regs, .cnt, .mem, .poison, .epochs, .tasks, .prov, .crm, .hbm, .ecc, .cw, .ls, .ldl, .rel,
          .act, .sec, .sys, .free] := by decide) : Keeps ps s0 u := ht.step k (fun _ m => hp (hq m))
  unfold keyedMac
  exact .ite (fun _ => sub h (rejectCmd_keeps ..)) (fun _ => .ite (fun _ => sub h (answerOrHold_keeps ..))
    (fun _ => .ite (fun _ => sub h (rejectCmd_keeps ..)) (fun _ => hk _ _ h)))

theorem keyed_keeps {ps : List Part} {s0 s : State} {code len : Nat} {e : Envelope} {k : CmdSrc → State → State}
    (h : Keeps ps s0 s) (hk : ∀ r u, Keeps ps s0 u → Keeps ps s0 (k r u))
    (hp : [.out, .regs, .cnt, .mem, .poison, .epochs, .tasks, .prov, .crm, .hbm, .ecc, .cw, .ls, .ldl, .rel, .act,
        .mgt, .sec, .sys, .free] ⊆ ps := by decide) :
    Keeps ps s0 (keyed code len e k s) :=
  keyedHead_keeps h (fun _ _ hu => keyedMac_keeps hu hk (fun _ m => hp (by revert m; cases ‹Part› <;> decide))) hp

theorem ownerDone_keeps (e : Envelope) (src : CmdSrc) (n : ℕ) (s : State) :
    Keeps [.out, .regs, .cnt, .mem, .poison, .epochs, .tasks, .prov, .crm, .hbm, .ecc, .cw, .ls, .ldl, .rel, .act, .sec, .sys, .free] s (ownerDone e src n s) := by
  unfold ownerDone
  refine .step ?_ (journal_keeps ..)
  refine .step ?_ (acceptCmd_keeps ..)
  exact .refl

theorem takeOwner_keeps (e : Envelope) (src : CmdSrc) (s : State) :
    Keeps [.out, .regs, .cnt, .mem, .poison, .epochs, .tasks, .prov, .crm, .hbm, .ecc, .cw, .ls, .ldl, .rel, .act, .sec, .sys, .free] s (takeOwner e src s) := by
  unfold takeOwner
  dsimp only
  refine .ite (fun _ => ?_) (fun _ => ?_)
  · refine keyedMac_keeps ?_ (fun _ _ _ => ?_)
    · exact .refl
    · refine .step ?_ (rejectCmd_keeps ..)
      assumption
  · split
    · refine .step ?_ (rejectCmd_keeps ..)
      exact .refl
    · refine .ite (fun _ => ?_) (fun _ => ?_)
      · refine .step ?_ (rejectCmd_keeps ..)
        exact .refl
      · refine .ite (fun _ => ?_) (fun _ => ?_)
        · refine .step ?_ (rejectCmd_keeps ..)
          exact .refl
        · refine .ite (fun _ => ?_) (fun _ => ?_)
          · refine .step ?_ (rejectCmd_keeps ..)
            exact .refl
          · refine .ite (fun _ => ?_) (fun _ => ?_)
            · refine .step ?_ (rejectCmd_keeps ..)
              exact .refl
            · refine .step ?_ (ownerDone_keeps ..)
              refine .set_sec ?_ _
              exact .refl

theorem execTakeOwnership_keeps (e : Envelope) (s : State) :
    ResKeeps [.out, .regs, .cnt, .mem, .poison, .epochs, .tasks, .prov, .crm, .hbm, .ecc, .cw, .ls, .ldl, .rel, .act, .mgt, .sec, .sys, .free] s (execTakeOwnership e s) := by
  unfold execTakeOwnership
  change Keeps _ _ _
  refine keyedHead_keeps ?_ (fun _ _ _ => ?_)
  · exact .refl
  · refine .step ?_ (takeOwner_keeps ..)
    assumption

theorem zeroProv_keeps (s : State) :
    Keeps [.prov] s (zeroProv s) := by
  unfold zeroProv
  refine .set_prov ?_ _
  exact .refl

theorem releaseOwner_keeps (e : Envelope) (src : CmdSrc) (s : State) :
    Keeps [.out, .regs, .cnt, .mem, .poison, .epochs, .tasks, .prov, .crm, .hbm, .ecc, .cw, .ls, .ldl, .rel, .act, .keys, .sec, .sys, .free] s (releaseOwner e src s) := by
  unfold releaseOwner
  dsimp only
  refine .ite (fun _ => ?_) (fun _ => ?_)
  · refine .step ?_ (rejectCmd_keeps ..)
    exact .refl
  · refine .step ?_ (journal_keeps ..)
    refine .step ?_ (acceptCmd_keeps ..)
    refine .mk rfl ?_ rfl (fun p hp => by cases p <;> first | with_reducible rfl | exact absurd (by decide) hp)
    refine .step ?_ (zeroRange_keeps ..)
    refine .step ?_ (zeroRange_keeps ..)
    refine .step ?_ (zeroProv_keeps ..)
    refine .step ?_ (loseLines_keeps ..)
    exact .refl

theorem execReleaseOwnership_keeps (e : Envelope) (s : State) :
    ResKeeps [.out, .regs, .cnt, .mem, .poison, .epochs, .tasks, .prov, .crm, .hbm, .ecc, .cw, .ls, .ldl, .rel, .act, .keys, .mgt, .sec, .sys, .free] s (execReleaseOwnership e s) := by
  unfold execReleaseOwnership
  change Keeps _ _ _
  refine keyed_keeps ?_ (fun _ _ _ => ?_)
  · exact .refl
  · refine .step ?_ (releaseOwner_keeps ..)
    assumption

theorem vendorRelease_keeps (e : Envelope) (src : CmdSrc) (s : State) :
    Keeps [.out, .regs, .cnt, .mem, .poison, .epochs, .tasks, .prov, .crm, .hbm, .ecc, .cw, .ls, .ldl, .rel, .act, .keys, .sec, .sys, .free] s (vendorRelease e src s) := by
  unfold vendorRelease
  refine .ite (fun _ => ?_) (fun _ => ?_)
  · refine .step ?_ (rejectCmd_keeps ..)
    exact .refl
  · refine .step ?_ (releaseOwner_keeps ..)
    exact .refl

theorem execVendorRelease_keeps (e : Envelope) (s : State) :
    ResKeeps [.out, .regs, .cnt, .mem, .poison, .epochs, .tasks, .prov, .crm, .hbm, .ecc, .cw, .ls, .ldl, .rel, .act, .keys, .mgt, .sec, .sys, .free] s (execVendorRelease e s) := by
  unfold execVendorRelease
  change Keeps _ _ _
  refine keyedHead_keeps ?_ (fun _ _ _ => ?_)
  · exact .refl
  · refine .step ?_ (vendorRelease_keeps ..)
    assumption

theorem installKey_keeps (e : Envelope) (src : CmdSrc) (s : State) :
    Keeps [.out, .regs, .cnt, .mem, .poison, .epochs, .tasks, .prov, .crm, .hbm, .ecc, .cw, .ls, .ldl, .rel, .act, .keys, .sec, .sys, .free] s (installKey e src s) := by
  unfold installKey
  dsimp only
  split
  · refine .step ?_ (rejectCmd_keeps ..)
    exact .refl
  · refine .ite (fun _ => ?_) (fun _ => ?_)
    · refine .step ?_ (rejectCmd_keeps ..)
      exact .refl
    · refine .ite (fun _ => ?_) (fun _ => ?_)
      · refine .step ?_ (rejectCmd_keeps ..)
        exact .refl
      · refine .step ?_ (ownerDone_keeps ..)
        refine .set_keys ?_ _
        exact .refl

theorem execInstallLinkKey_keeps (e : Envelope) (s : State) :
    ResKeeps [.out, .regs, .cnt, .mem, .poison, .epochs, .tasks, .prov, .crm, .hbm, .ecc, .cw, .ls, .ldl, .rel, .act, .keys, .mgt, .sec, .sys, .free] s (execInstallLinkKey e s) := by
  unfold execInstallLinkKey
  change Keeps _ _ _
  refine keyed_keeps ?_ (fun _ _ _ => ?_)
  · exact .refl
  · refine .step ?_ (installKey_keeps ..)
    assumption

theorem advanceSvn_keeps (e : Envelope) (src : CmdSrc) (s : State) :
    Keeps [.out, .regs, .cnt, .mem, .poison, .epochs, .tasks, .prov, .crm, .hbm, .ecc, .cw, .ls, .ldl, .rel, .act, .sec, .sys, .free] s (advanceSvn e src s) := by
  unfold advanceSvn
  dsimp only
  refine .ite (fun _ => ?_) (fun _ => ?_)
  · refine .step ?_ (rejectCmd_keeps ..)
    exact .refl
  · refine .ite (fun _ => ?_) (fun _ => ?_)
    · refine .step ?_ (rejectCmd_keeps ..)
      exact .refl
    · refine .step ?_ (ownerDone_keeps ..)
      refine .set_sec ?_ _
      exact .refl

theorem execAdvanceSvn_keeps (e : Envelope) (s : State) :
    ResKeeps [.out, .regs, .cnt, .mem, .poison, .epochs, .tasks, .prov, .crm, .hbm, .ecc, .cw, .ls, .ldl, .rel, .act, .mgt, .sec, .sys, .free] s (execAdvanceSvn e s) := by
  unfold execAdvanceSvn
  change Keeps _ _ _
  refine keyed_keeps ?_ (fun _ _ _ => ?_)
  · exact .refl
  · refine .step ?_ (advanceSvn_keeps ..)
    assumption

theorem setCeiling_keeps (e : Envelope) (src : CmdSrc) (s : State) :
    Keeps [.out, .regs, .cnt, .mem, .poison, .epochs, .tasks, .prov, .crm, .hbm, .ecc, .cw, .ls, .ldl, .rel, .act, .sec, .sys, .free] s (setCeiling e src s) := by
  unfold setCeiling
  dsimp only
  refine .ite (fun _ => ?_) (fun _ => ?_)
  · refine .step ?_ (rejectCmd_keeps ..)
    exact .refl
  · refine .ite (fun _ => ?_) (fun _ => ?_)
    · refine .step ?_ (ownerDone_keeps ..)
      exact .refl
    · refine .ite (fun _ => ?_) (fun _ => ?_)
      · refine .step ?_ (rejectCmd_keeps ..)
        exact .refl
      · refine .step ?_ (ownerDone_keeps ..)
        refine .set_sec ?_ _
        exact .refl

theorem execSetCeiling_keeps (e : Envelope) (s : State) :
    ResKeeps [.out, .regs, .cnt, .mem, .poison, .epochs, .tasks, .prov, .crm, .hbm, .ecc, .cw, .ls, .ldl, .rel, .act, .mgt, .sec, .sys, .free] s (execSetCeiling e s) := by
  unfold execSetCeiling
  change Keeps _ _ _
  refine keyed_keeps ?_ (fun _ _ _ => ?_)
  · exact .refl
  · refine .step ?_ (setCeiling_keeps ..)
    assumption

theorem recalMeter_keeps (e : Envelope) (src : CmdSrc) (s : State) :
    Keeps [.out, .regs, .cnt, .mem, .poison, .epochs, .tasks, .prov, .crm, .hbm, .ecc, .cw, .ls, .ldl, .rel, .act, .sec, .sys, .free] s (recalMeter e src s) := by
  unfold recalMeter
  dsimp only
  refine .ite (fun _ => ?_) (fun _ => ?_)
  · refine .step ?_ (rejectCmd_keeps ..)
    exact .refl
  · refine .ite (fun _ => ?_) (fun _ => ?_)
    · refine .step ?_ (rejectCmd_keeps ..)
      exact .refl
    · refine .ite (fun _ => ?_) (fun _ => ?_)
      · refine .step ?_ (rejectCmd_keeps ..)
        exact .refl
      · refine .step ?_ (ownerDone_keeps ..)
        refine .set_sec ?_ _
        exact .refl

theorem execRecalMeter_keeps (e : Envelope) (s : State) :
    ResKeeps [.out, .regs, .cnt, .mem, .poison, .epochs, .tasks, .prov, .crm, .hbm, .ecc, .cw, .ls, .ldl, .rel, .act, .mgt, .sec, .sys, .free] s (execRecalMeter e s) := by
  unfold execRecalMeter
  change Keeps _ _ _
  refine keyed_keeps ?_ (fun _ _ _ => ?_)
  · exact .refl
  · refine .step ?_ (recalMeter_keeps ..)
    assumption

theorem replaceVt_keeps (e : Envelope) (src : CmdSrc) (s : State) :
    Keeps [.out, .regs, .cnt, .mem, .poison, .epochs, .tasks, .prov, .crm, .hbm, .ecc, .cw, .ls, .ldl, .rel, .act, .sec, .sys, .free] s (replaceVt e src s) := by
  unfold replaceVt
  dsimp only
  refine .ite (fun _ => ?_) (fun _ => ?_)
  · refine .step ?_ (rejectCmd_keeps ..)
    exact .refl
  · refine .ite (fun _ => ?_) (fun _ => ?_)
    · refine .step ?_ (rejectCmd_keeps ..)
      exact .refl
    · refine .step ?_ (ownerDone_keeps ..)
      refine .set_sec ?_ _
      exact .refl

theorem execReplaceVt_keeps (e : Envelope) (s : State) :
    ResKeeps [.out, .regs, .cnt, .mem, .poison, .epochs, .tasks, .prov, .crm, .hbm, .ecc, .cw, .ls, .ldl, .rel, .act, .mgt, .sec, .sys, .free] s (execReplaceVt e s) := by
  unfold execReplaceVt
  change Keeps _ _ _
  refine keyed_keeps ?_ (fun _ _ _ => ?_)
  · exact .refl
  · refine .step ?_ (replaceVt_keeps ..)
    assumption

theorem fwSwitchCmd_keeps (e : Envelope) (src : CmdSrc) (s : State) :
    Keeps [.out, .regs, .cnt, .mem, .poison, .epochs, .tasks, .prov, .crm, .hbm, .ecc, .cw, .ls, .ldl, .rel, .act, .mtr, .sec, .sys, .free] s (fwSwitchCmd e src s) := by
  unfold fwSwitchCmd
  dsimp only
  refine .ite (fun _ => ?_) (fun _ => ?_)
  · refine .step ?_ (rejectCmd_keeps ..)
    exact .refl
  · refine .step ?_ (ownerDone_keeps ..)
    refine .step ?_ (fwTurn_keeps ..)
    refine .set_sec ?_ _
    exact .refl

theorem execFwSwitch_keeps (e : Envelope) (s : State) :
    ResKeeps [.out, .regs, .cnt, .mem, .poison, .epochs, .tasks, .prov, .crm, .hbm, .ecc, .cw, .ls, .ldl, .rel, .act, .mtr, .mgt, .sec, .sys, .free] s (execFwSwitch e s) := by
  unfold execFwSwitch
  change Keeps _ _ _
  refine keyed_keeps ?_ (fun _ _ _ => ?_)
  · exact .refl
  · refine .step ?_ (fwSwitchCmd_keeps ..)
    assumption

theorem updateLast_keeps (e : Envelope) (src : CmdSrc) (s : State) :
    Keeps [.out, .regs, .cnt, .mem, .poison, .epochs, .tasks, .prov, .crm, .hbm, .ecc, .cw, .ls, .ldl, .rel, .act, .sec, .sys, .free] s (updateLast e src s) := by
  unfold updateLast
  dsimp only
  refine .ite (fun _ => ?_) (fun _ => ?_)
  · refine .step ?_ (rejectCmd_keeps ..)
    exact .refl
  · refine .step ?_ (ownerDone_keeps ..)
    refine .set_sec ?_ _
    exact .refl

theorem execUpdateLast_keeps (e : Envelope) (s : State) :
    ResKeeps [.out, .regs, .cnt, .mem, .poison, .epochs, .tasks, .prov, .crm, .hbm, .ecc, .cw, .ls, .ldl, .rel, .act, .mgt, .sec, .sys, .free] s (execUpdateLast e s) := by
  unfold execUpdateLast
  change Keeps _ _ _
  refine keyed_keeps ?_ (fun _ _ _ => ?_)
  · exact .refl
  · refine .step ?_ (updateLast_keeps ..)
    assumption

theorem mapoutCmd_keeps (e : Envelope) (src : CmdSrc) (s : State) :
    Keeps [.out, .regs, .cnt, .mem, .poison, .epochs, .blk, .tasks, .prov, .crm, .hbm, .ecc, .cw, .ls, .lpc, .ldl, .rel, .act, .lnk, .sec, .sys, .free] s (mapoutCmd e src s) := by
  unfold mapoutCmd
  dsimp only
  refine .ite (fun _ => ?_) (fun _ => ?_)
  · refine .step ?_ (rejectCmd_keeps ..)
    exact .refl
  · refine .step ?_ (mapEnqueue_keeps ..)
    refine .set_sec ?_ _
    exact .refl

theorem execMapout_keeps (e : Envelope) (s : State) :
    ResKeeps [.out, .regs, .cnt, .mem, .poison, .epochs, .blk, .tasks, .prov, .crm, .hbm, .ecc, .cw, .ls, .lpc, .ldl, .rel, .act, .lnk, .mgt, .sec, .sys, .free] s (execMapout e s) := by
  unfold execMapout
  change Keeps _ _ _
  refine keyed_keeps ?_ (fun _ _ _ => ?_)
  · exact .refl
  · refine .step ?_ (mapoutCmd_keeps ..)
    assumption

theorem undoMapout_keeps (e : Envelope) (src : CmdSrc) (s : State) :
    Keeps [.out, .regs, .cnt, .mem, .poison, .epochs, .tasks, .prov, .crm, .hbm, .ecc, .cw, .ls, .ldl, .rel, .act, .sec, .sys, .free] s (undoMapout e src s) := by
  unfold undoMapout
  dsimp only
  refine .ite (fun _ => ?_) (fun _ => ?_)
  · refine .step ?_ (rejectCmd_keeps ..)
    exact .refl
  · refine .step ?_ (ownerDone_keeps ..)
    refine .set_sec ?_ _
    exact .refl

theorem execUndoMapout_keeps (e : Envelope) (s : State) :
    ResKeeps [.out, .regs, .cnt, .mem, .poison, .epochs, .tasks, .prov, .crm, .hbm, .ecc, .cw, .ls, .ldl, .rel, .act, .mgt, .sec, .sys, .free] s (execUndoMapout e s) := by
  unfold execUndoMapout
  change Keeps _ _ _
  refine keyed_keeps ?_ (fun _ _ _ => ?_)
  · exact .refl
  · refine .step ?_ (undoMapout_keeps ..)
    assumption

theorem restartPort_keeps (s : State) (p : ℕ) :
    Keeps [.out, .regs, .lnk, .sys] s (restartPort s p) := by
  unfold restartPort
  dsimp only
  refine .ite (fun _ => ?_) (fun _ => ?_)
  · refine .step ?_ (startTraining_keeps ..)
    exact .refl
  · exact .refl

theorem closeJob_keeps (s : State) (i : ℕ) :
    Keeps [.tck] s (closeJob s i) := by
  unfold closeJob
  dsimp only
  refine .ite (fun _ => ?_) (fun _ => ?_)
  · refine .step ?_ (setSlot_keeps ..)
    exact .refl
  · exact .refl

theorem warmRestart_keeps (s : State) :
    Keeps [.out, .regs, .tck, .hbm, .rel, .lnk, .sys] s (warmRestart s) := by
  unfold warmRestart
  dsimp only
  refine .foldl ?_ (fun _ _ _ => ?_)
  · refine .foldl ?_ (fun _ _ _ => ?_)
    · refine .step ?_ (setReg_keeps ..)
      refine .mk rfl ?_ rfl (fun p hp => by cases p <;> first | with_reducible rfl | exact absurd (by decide) hp)
      exact .refl
    · refine .step ?_ (closeJob_keeps ..)
      assumption
  · refine .step ?_ (restartPort_keeps ..)
    assumption

theorem warmCmd_keeps (e : Envelope) (src : CmdSrc) (s : State) :
    Keeps [.out, .regs, .cnt, .mem, .poison, .epochs, .tasks, .prov, .tck, .crm, .hbm, .ecc, .cw, .ls, .ldl, .rel, .act, .lnk, .sec, .sys, .free] s (warmCmd e src s) := by
  unfold warmCmd
  refine .ite (fun _ => ?_) (fun _ => ?_)
  · refine .step ?_ (rejectCmd_keeps ..)
    exact .refl
  · refine .step ?_ (ownerDone_keeps ..)
    refine .step ?_ (warmRestart_keeps ..)
    exact .refl

theorem execWarmRestart_keeps (e : Envelope) (s : State) :
    ResKeeps [.out, .regs, .cnt, .mem, .poison, .epochs, .tasks, .prov, .tck, .crm, .hbm, .ecc, .cw, .ls, .ldl, .rel, .act, .lnk, .mgt, .sec, .sys, .free] s (execWarmRestart e s) := by
  unfold execWarmRestart
  change Keeps _ _ _
  refine keyed_keeps ?_ (fun _ _ _ => ?_)
  · exact .refl
  · refine .step ?_ (warmCmd_keeps ..)
    assumption

theorem failQuietCmd_keeps (e : Envelope) (src : CmdSrc) (s : State) :
    Keeps [.out, .regs, .cnt, .mem, .poison, .epochs, .tasks, .prov, .crm, .hbm, .ecc, .cw, .ls, .ldl, .rel, .act, .lnk, .mtr, .sec, .sys, .free] s (failQuietCmd e src s) := by
  unfold failQuietCmd
  refine .step ?_ (ownerDone_keeps ..)
  refine .step ?_ (failQuiet_keeps ..)
  exact .refl

theorem execFailQuiet_keeps (e : Envelope) (s : State) :
    ResKeeps [.out, .regs, .cnt, .mem, .poison, .epochs, .tasks, .prov, .crm, .hbm, .ecc, .cw, .ls, .ldl, .rel, .act, .lnk, .mtr, .mgt, .sec, .sys, .free] s (execFailQuiet e s) := by
  unfold execFailQuiet
  change Keeps _ _ _
  refine keyed_keeps ?_ (fun _ _ _ => ?_)
  · exact .refl
  · refine .step ?_ (failQuietCmd_keeps ..)
    assumption

theorem setTime_keeps (e : Envelope) (src : CmdSrc) (s : State) :
    Keeps [.out, .regs, .cnt, .mem, .poison, .epochs, .tasks, .prov, .crm, .hbm, .ecc, .cw, .ls, .ldl, .rel, .act, .sec, .sys, .free] s (setTime e src s) := by
  unfold setTime
  dsimp only
  refine .step ?_ (ownerDone_keeps ..)
  refine .set_sec ?_ _
  exact .refl

theorem execSetTime_keeps (e : Envelope) (s : State) :
    ResKeeps [.out, .regs, .cnt, .mem, .poison, .epochs, .tasks, .prov, .crm, .hbm, .ecc, .cw, .ls, .ldl, .rel, .act, .mgt, .sec, .sys, .free] s (execSetTime e s) := by
  unfold execSetTime
  change Keeps _ _ _
  refine keyed_keeps ?_ (fun _ _ _ => ?_)
  · exact .refl
  · refine .step ?_ (setTime_keeps ..)
    assumption

theorem compactEffect_keeps (s : State) :
    Keeps [.out, .regs, .cnt, .mem, .poison, .epochs, .tasks, .prov, .crm, .hbm, .ecc, .cw, .ls, .ldl, .rel, .act, .sec, .sys, .free] s (compactEffect s) := by
  unfold compactEffect
  dsimp only
  refine .ite (fun _ => ?_) (fun _ => ?_)
  · exact .refl
  · refine .foldl ?_ (fun _ _ _ => ?_)
    · refine .set_sec ?_ _
      refine .step ?_ (draw_keeps ..)
      exact .refl
    · refine .step ?_ (sendResponse_keeps ..)
      assumption

theorem execCompactionDone_keeps (s : State) :
    ResKeeps [.out, .regs, .cnt, .mem, .poison, .epochs, .tasks, .prov, .crm, .hbm, .ecc, .cw, .ls, .ldl, .rel, .act, .sec, .sys, .free] s (execCompactionDone s) := by
  unfold execCompactionDone
  change Keeps _ _ _
  refine .step ?_ (compactEffect_keeps ..)
  exact .refl

/-! ### Machine/Manage.lean -/

theorem sendStatus_keeps (f : MgtFrame) (status : ℕ) (s : State) :
    Keeps [.out, .cnt] s (sendStatus f status s) := by
  unfold sendStatus
  refine .step ?_ (sendMgt_keeps ..)
  exact .refl

theorem toUpper_keeps (port : ℕ) (bytes : List Byte) (s : State) :
    Keeps [.out, .cnt] s (toUpper port bytes s) := by
  unfold toUpper
  refine .ite (fun _ => ?_) (fun _ => ?_)
  · refine .step ?_ (emit_keeps ..)
    exact .refl
  · refine .step ?_ (bump_keeps ..)
    exact .refl

theorem dropPartial_keeps (chan : ℕ) (s : State) :
    Keeps [.mgt] s (dropPartial chan s) := by
  unfold dropPartial
  dsimp only
  refine .set_mgt ?_ _
  exact .refl

theorem holdRequest_keeps (f : MgtFrame) (r : MgtReq) (s : State) :
    Keeps [.out, .regs, .cnt, .mgt, .sys] s (holdRequest f r s) := by
  unfold holdRequest
  dsimp only
  refine .ite (fun _ => ?_) (fun _ => ?_)
  · refine .step ?_ (sendStatus_keeps ..)
    refine .step ?_ (raise_keeps ..)
    exact .refl
  · refine .set_mgt ?_ _
    exact .refl

theorem fragEffect_keeps (f : MgtFrame) (s : State) :
    Keeps [.out, .regs, .cnt, .mgt, .sys] s (fragEffect f s) := by
  unfold fragEffect
  dsimp only
  refine .ite (fun _ => ?_) (fun _ => ?_)
  · refine .step ?_ (sendStatus_keeps ..)
    exact .refl
  · refine .ite (fun _ => ?_) (fun _ => ?_)
    · refine .step ?_ (sendStatus_keeps ..)
      refine .step ?_ (dropPartial_keeps ..)
      exact .refl
    · split
      · refine .step ?_ (sendStatus_keeps ..)
        refine .step ?_ (dropPartial_keeps ..)
        exact .refl
      · refine .ite (fun _ => ?_) (fun _ => ?_)
        · refine .step ?_ (sendStatus_keeps ..)
          refine .step ?_ (dropPartial_keeps ..)
          exact .refl
        · refine .ite (fun _ => ?_) (fun _ => ?_)
          · refine .step ?_ (holdRequest_keeps ..)
            refine .step ?_ (dropPartial_keeps ..)
            exact .refl
          · refine .set_mgt ?_ _
            refine .step ?_ (dropPartial_keeps ..)
            exact .refl

theorem mgtFrameEffect_keeps (f : MgtFrame) (s : State) :
    Keeps [.out, .regs, .cnt, .mgt, .sys] s (mgtFrameEffect f s) := by
  unfold mgtFrameEffect
  dsimp only
  refine .ite (fun _ => ?_) (fun _ => ?_)
  · exact .refl
  · refine .ite (fun _ => ?_) (fun _ => ?_)
    · refine .step ?_ (fragEffect_keeps ..)
      refine .step ?_ (bump_keeps ..)
      exact .refl
    · refine .step ?_ (toUpper_keeps ..)
      refine .step ?_ (bump_keeps ..)
      exact .refl

theorem execManagementFragment_keeps (f : MgtFrame) (s : State) :
    ResKeeps [.out, .regs, .cnt, .mgt, .sys] s (execManagementFragment f s) := by
  unfold execManagementFragment
  change Keeps _ _ _
  refine .step ?_ (mgtFrameEffect_keeps ..)
  exact .refl

theorem execReassemblyTimeout_keeps (chan : Fin 5) (s : State) :
    ResKeeps [.mgt] s (execReassemblyTimeout chan s) := by
  unfold execReassemblyTimeout
  change Keeps _ _ _
  refine .step ?_ (dropPartial_keeps ..)
  exact .refl

theorem upperFrameEffect_keeps (port : ℕ) (bytes : List Byte) (s : State) :
    Keeps [.out, .cnt] s (upperFrameEffect port bytes s) := by
  unfold upperFrameEffect
  refine .ite (fun _ => ?_) (fun _ => ?_)
  · exact .refl
  · refine .step ?_ (toUpper_keeps ..)
    refine .step ?_ (bump_keeps ..)
    exact .refl

theorem execUpperFrame_keeps (port : Fin 2) (bytes : List Byte) (s : State) :
    ResKeeps [.out, .cnt] s (execUpperFrame port bytes s) := by
  unfold execUpperFrame
  change Keeps _ _ _
  refine .step ?_ (upperFrameEffect_keeps ..)
  exact .refl

theorem mgtLinkEffect_keeps (port : ℕ) (up fec : Bool) (s : State) :
    Keeps [.out, .regs, .mgt, .sys] s (mgtLinkEffect port up fec s) := by
  unfold mgtLinkEffect
  dsimp only
  refine .ite (fun _ => ?_) (fun _ => ?_)
  · exact .refl
  · refine .ite (fun _ => ?_) (fun _ => ?_)
    · refine .set_mgt ?_ _
      exact .refl
    · refine .step ?_ (intSet_keeps ..)
      refine .set_mgt ?_ _
      exact .refl

theorem execManagementLinkChange_keeps (port : Fin 2) (up fec : Bool) (s : State) :
    ResKeeps [.out, .regs, .mgt, .sys] s (execManagementLinkChange port up fec s) := by
  unfold execManagementLinkChange
  change Keeps _ _ _
  refine .step ?_ (mgtLinkEffect_keeps ..)
  exact .refl

theorem mgtCfgEffect_keeps (who : Initiator) (v : Word) (s : State) :
    Keeps [.out, .regs, .mgt, .sys] s (mgtCfgEffect who v s) := by
  unfold mgtCfgEffect
  dsimp only
  refine .ite (fun _ => ?_) (fun _ => ?_)
  · refine .step ?_ (raise_keeps ..)
    exact .refl
  · refine .foldl ?_ (fun _ _ _ => ?_)
    · refine .step ?_ (storeReg_keeps ..)
      exact .refl
    · refine .ite (fun _ => ?_) (fun _ => ?_)
      · refine .step ?_ (intSet_keeps ..)
        refine .set_mgt ?_ _
        assumption
      · assumption

theorem answerChan_keeps (chan port msg : ℕ) (data : MgtReq → List Byte) (s : State) :
    Keeps [.out, .cnt, .mgt] s (answerChan chan port msg data s) := by
  unfold answerChan
  dsimp only
  refine .ite (fun _ => ?_) (fun _ => ?_)
  · exact .refl
  · split
    · refine .ite (fun _ => ?_) (fun _ => ?_)
      · refine .step ?_ (sendMgt_keeps ..)
        refine .set_mgt ?_ _
        exact .refl
      · exact .refl
    · exact .refl

theorem execMgtIdent_keeps (port : Fin 2) (msgId : BitVec 16) (s : State) :
    ResKeeps [.out, .cnt, .mgt] s (execMgtIdent port msgId s) := by
  unfold execMgtIdent
  change Keeps _ _ _
  refine .step ?_ (answerChan_keeps ..)
  exact .refl

theorem execMgtLog_keeps (port : Fin 2) (msgId : BitVec 16) (first count : ℕ) (s : State) :
    ResKeeps [.out, .cnt, .mgt] s (execMgtLog port msgId first count s) := by
  unfold execMgtLog
  change Keeps _ _ _
  refine .ite (fun _ => ?_) (fun _ => ?_)
  · refine .step ?_ (answerChan_keeps ..)
    exact .refl
  · exact .refl

theorem firkinAnswer_keeps (port msg : ℕ) (s : State) :
    Keeps [.out, .cnt, .mtr, .mgt, .sec] s (firkinAnswer port msg s) := by
  unfold firkinAnswer
  dsimp only
  refine .ite (fun _ => ?_) (fun _ => ?_)
  · refine .step ?_ (answerChan_keeps ..)
    exact .refl
  · refine .step ?_ (markRead_keeps ..)
    refine .step ?_ (answerChan_keeps ..)
    exact .refl

theorem execMgtFirkin_keeps (port : Fin 2) (msgId : BitVec 16) (first count : ℕ) (s : State) :
    ResKeeps [.out, .cnt, .mtr, .mgt, .sec] s (execMgtFirkin port msgId first count s) := by
  unfold execMgtFirkin
  change Keeps _ _ _
  refine .ite (fun _ => ?_) (fun _ => ?_)
  · refine .step ?_ (firkinAnswer_keeps ..)
    exact .refl
  · exact .refl

theorem spdmSend_keeps (src : ℕ) (req resp : List Byte) (s : State) :
    Keeps [.out, .cnt, .mgt] s (spdmSend src req resp s) := by
  unfold spdmSend
  dsimp only
  split
  · refine .ite (fun _ => ?_) (fun _ => ?_)
    · refine .step ?_ (sendMgt_keeps ..)
      refine .set_mgt ?_ _
      exact .refl
    · refine .step ?_ (emit_keeps ..)
      exact .refl
  · refine .step ?_ (emit_keeps ..)
    exact .refl

theorem spdmKeep_keeps (st : ℕ) (req resp : List Byte) (s : State) :
    Keeps [.sec] s (spdmKeep st req resp s) := by
  unfold spdmKeep
  dsimp only
  refine .set_sec ?_ _
  exact .refl

theorem spdmRow_keeps {ps : List Part} {s0 s : State} {code need src : Nat} {req : List Byte}
    {k : State → List Byte × State} (h : Keeps ps s0 s) (hk : ∀ u, Keeps ps s0 u → Keeps ps s0 (k u).2)
    (hp : [.out, .cnt, .mgt] ⊆ ps := by decide) : Keeps ps s0 (spdmRow code need src req k s) := by
  have sub {qs : List Part} {t u : State} (ht : Keeps ps s0 t) (k : Keeps qs t u)
      (hq : qs ⊆ [.out, .cnt, .mgt] := by decide) : Keeps ps s0 u := ht.step k (fun _ m => hp (hq m))
  have hr (b : List Byte) := sub h (spdmSend_keeps src req b s)
  unfold spdmRow
  exact .ite (fun _ => h) (fun _ => .ite (fun _ => hr _) (fun _ => .ite (fun _ => hr _) (fun _ => .ite (fun _ => hr _)
    (fun _ => sub (hk s h) (spdmSend_keeps ..)))))

theorem spdmVersion_keeps (req : List Byte) (s : State) :
    Keeps [.sec] s (spdmVersion req s).2 := by
  unfold spdmVersion
  dsimp only
  refine .set_sec ?_ _
  exact .refl

theorem execGetVersion_keeps (src : Fin 2) (req : List Byte) (s : State) :
    ResKeeps [.out, .cnt, .mgt, .sec] s (execGetVersion src req s) := by
  unfold execGetVersion
  change Keeps _ _ _
  refine spdmRow_keeps ?_ (fun _ _ => ?_)
  · exact .refl
  · refine .step ?_ (spdmVersion_keeps ..)
    assumption

theorem spdmCaps_keeps (req : List Byte) (s : State) :
    Keeps [.sec] s (spdmCaps req s).2 := by
  unfold spdmCaps
  dsimp only
  refine .step ?_ (spdmKeep_keeps ..)
  exact .refl

theorem execGetCapabilities_keeps (src : Fin 2) (req : List Byte) (s : State) :
    ResKeeps [.out, .cnt, .mgt, .sec] s (execGetCapabilities src req s) := by
  unfold execGetCapabilities
  change Keeps _ _ _
  refine spdmRow_keeps ?_ (fun _ _ => ?_)
  · exact .refl
  · refine .step ?_ (spdmCaps_keeps ..)
    assumption

theorem spdmAlgos_keeps (req : List Byte) (s : State) :
    Keeps [.sec] s (spdmAlgos req s).2 := by
  unfold spdmAlgos
  dsimp only
  split
  · dsimp only
    exact .refl
  · dsimp only
    refine .step ?_ (spdmKeep_keeps ..)
    exact .refl

theorem execNegotiateAlgorithms_keeps (src : Fin 2) (req : List Byte) (s : State) :
    ResKeeps [.out, .cnt, .mgt, .sec] s (execNegotiateAlgorithms src req s) := by
  unfold execNegotiateAlgorithms
  change Keeps _ _ _
  refine spdmRow_keeps ?_ (fun _ _ => ?_)
  · exact .refl
  · refine .step ?_ (spdmAlgos_keeps ..)
    assumption

theorem spdmDigests_keeps (req : List Byte) (s : State) :
    Keeps [.sec] s (spdmDigests req s).2 := by
  unfold spdmDigests
  dsimp only
  refine .step ?_ (spdmKeep_keeps ..)
  exact .refl

theorem execGetDigests_keeps (src : Fin 2) (req : List Byte) (s : State) :
    ResKeeps [.out, .cnt, .mgt, .sec] s (execGetDigests src req s) := by
  unfold execGetDigests
  change Keeps _ _ _
  refine spdmRow_keeps ?_ (fun _ _ => ?_)
  · exact .refl
  · refine .step ?_ (spdmDigests_keeps ..)
    assumption

theorem spdmCert_keeps (req : List Byte) (s : State) :
    Keeps [.sec] s (spdmCert req s).2 := by
  unfold spdmCert
  dsimp only
  split
  · dsimp only
    exact .refl
  · dsimp only
    refine .step ?_ (spdmKeep_keeps ..)
    exact .refl

theorem execGetCertificate_keeps (src : Fin 2) (req : List Byte) (s : State) :
    ResKeeps [.out, .cnt, .mgt, .sec] s (execGetCertificate src req s) := by
  unfold execGetCertificate
  change Keeps _ _ _
  refine spdmRow_keeps ?_ (fun _ _ => ?_)
  · exact .refl
  · refine .step ?_ (spdmCert_keeps ..)
    assumption

theorem nonce_keeps (s : State) :
    Keeps [.free] s (nonce s).2 := by
  unfold nonce
  dsimp only
  refine .set_free ?_ _
  exact .refl

theorem spdmChallenge_keeps (req : List Byte) (s : State) :
    Keeps [.sec, .free] s (spdmChallenge req s).2 := by
  unfold spdmChallenge
  dsimp only
  split
  · dsimp only
    exact .refl
  · dsimp only
    refine .set_sec ?_ _
    refine .step ?_ (nonce_keeps ..)
    exact .refl

theorem execChallenge_keeps (src : Fin 2) (req : List Byte) (s : State) :
    ResKeeps [.out, .cnt, .mgt, .sec, .free] s (execChallenge src req s) := by
  unfold execChallenge
  change Keeps _ _ _
  refine spdmRow_keeps ?_ (fun _ _ => ?_)
  · exact .refl
  · refine .step ?_ (spdmChallenge_keeps ..)
    assumption

theorem spdmMeas_keeps (req : List Byte) (s : State) :
    Keeps [.sec, .free] s (spdmMeas req s).2 := by
  unfold spdmMeas
  dsimp only
  split
  · split
    · dsimp only
      exact .refl
    · split
      · dsimp only
        refine .set_sec ?_ _
        refine .step ?_ (nonce_keeps ..)
        exact .refl
      · dsimp only
        refine .step ?_ (spdmKeep_keeps ..)
        refine .step ?_ (nonce_keeps ..)
        exact .refl
  · split
    · split
      · dsimp only
        exact .refl
      · split
        · dsimp only
          refine .set_sec ?_ _
          refine .step ?_ (nonce_keeps ..)
          exact .refl
        · dsimp only
          refine .step ?_ (spdmKeep_keeps ..)
          refine .step ?_ (nonce_keeps ..)
          exact .refl
    · split
      · dsimp only
        exact .refl
      · split
        · dsimp only
          refine .set_sec ?_ _
          refine .step ?_ (nonce_keeps ..)
          exact .refl
        · dsimp only
          refine .step ?_ (spdmKeep_keeps ..)
          refine .step ?_ (nonce_keeps ..)
          exact .refl

theorem execGetMeasurements_keeps (src : Fin 2) (req : List Byte) (s : State) :
    ResKeeps [.out, .cnt, .mgt, .sec, .free] s (execGetMeasurements src req s) := by
  unfold execGetMeasurements
  change Keeps _ _ _
  refine spdmRow_keeps ?_ (fun _ _ => ?_)
  · exact .refl
  · refine .step ?_ (spdmMeas_keeps ..)
    assumption

theorem shortEffect_keeps (pin : ℕ) (s : State) :
    Keeps [.out, .regs, .rel, .mgt, .sys] s (shortEffect pin s) := by
  unfold shortEffect
  dsimp only
  refine .ite (fun _ => ?_) (fun _ => ?_)
  · exact .refl
  · refine .step ?_ (raiseEv_keeps ..)
    refine alertPin_keeps ?_
    refine .set_mgt ?_ _
    exact .refl

theorem execSidebandShort_keeps (pin : Fin 4) (s : State) :
    ResKeeps [.out, .regs, .rel, .mgt, .sys] s (execSidebandShort pin s) := by
  unfold execSidebandShort
  change Keeps _ _ _
  refine .step ?_ (shortEffect_keeps ..)
  exact .refl

theorem rearmEffect_keeps (v : Word) (s : State) :
    Keeps [.out, .mgt] s (rearmEffect v s) := by
  unfold rearmEffect
  dsimp only
  refine .ite (fun _ => ?_) (fun _ => ?_)
  · refine alertPin_keeps ?_
    refine .set_mgt ?_ _
    exact .refl
  · exact .refl

theorem execRearm_keeps (who : Initiator) (v : Word) (s : State) :
    ResKeeps [.out, .regs, .blk, .mgt, .sys] s (execRearm who v s) := by
  unfold execRearm
  change Keeps _ _ _
  refine regGuard_keeps ?_ (fun _ _ _ => ?_)
  · exact .refl
  · refine .step ?_ (rearmEffect_keeps ..)
    assumption

theorem smbAnswer_keeps (code : ℕ) (block : Bool) (data : List Byte) (s : State) :
    Keeps [.out] s (smbAnswer code block data s) := by
  unfold smbAnswer
  dsimp only
  refine .ite (fun _ => ?_) (fun _ => ?_)
  · exact .refl
  · refine .step ?_ (emit_keeps ..)
    exact .refl

theorem execSmbIdent_keeps (s : State) :
    ResKeeps [.out] s (execSmbIdent s) := by
  unfold execSmbIdent
  change Keeps _ _ _
  refine .step ?_ (smbAnswer_keeps ..)
  exact .refl

theorem execSmbPhase_keeps (s : State) :
    ResKeeps [.out] s (execSmbPhase s) := by
  unfold execSmbPhase
  change Keeps _ _ _
  refine .step ?_ (smbAnswer_keeps ..)
  exact .refl

theorem execSmbFq_keeps (s : State) :
    ResKeeps [.out] s (execSmbFq s) := by
  unfold execSmbFq
  change Keeps _ _ _
  refine .step ?_ (smbAnswer_keeps ..)
  exact .refl

theorem execSmbVin_keeps (s : State) :
    ResKeeps [.out] s (execSmbVin s) := by
  unfold execSmbVin
  change Keeps _ _ _
  refine .step ?_ (smbAnswer_keeps ..)
  exact .refl

theorem execSmbIin_keeps (s : State) :
    ResKeeps [.out] s (execSmbIin s) := by
  unfold execSmbIin
  change Keeps _ _ _
  refine .step ?_ (smbAnswer_keeps ..)
  exact .refl

theorem execSmbPin_keeps (s : State) :
    ResKeeps [.out] s (execSmbPin s) := by
  unfold execSmbPin
  change Keeps _ _ _
  refine .step ?_ (smbAnswer_keeps ..)
  exact .refl

theorem execSmbTInlet_keeps (s : State) :
    ResKeeps [.out] s (execSmbTInlet s) := by
  unfold execSmbTInlet
  change Keeps _ _ _
  refine .step ?_ (smbAnswer_keeps ..)
  exact .refl

theorem execSmbTOutlet_keeps (s : State) :
    ResKeeps [.out] s (execSmbTOutlet s) := by
  unfold execSmbTOutlet
  change Keeps _ _ _
  refine .step ?_ (smbAnswer_keeps ..)
  exact .refl

theorem execSmbTDie_keeps (s : State) :
    ResKeeps [.out] s (execSmbTDie s) := by
  unfold execSmbTDie
  change Keeps _ _ _
  refine .step ?_ (smbAnswer_keeps ..)
  exact .refl

theorem execSmbTHbm_keeps (s : State) :
    ResKeeps [.out] s (execSmbTHbm s) := by
  unfold execSmbTHbm
  change Keeps _ _ _
  refine .step ?_ (smbAnswer_keeps ..)
  exact .refl

theorem execSmbAlerts_keeps (s : State) :
    ResKeeps [.out] s (execSmbAlerts s) := by
  unfold execSmbAlerts
  change Keeps _ _ _
  refine .step ?_ (smbAnswer_keeps ..)
  exact .refl

theorem execSmbSlot_keeps (s : State) :
    ResKeeps [.out] s (execSmbSlot s) := by
  unfold execSmbSlot
  change Keeps _ _ _
  refine .step ?_ (smbAnswer_keeps ..)
  exact .refl

/-! ### Machine/Registers.lean -/

theorem perfSelEffect_keeps (page : ℕ) (v : Word) (s : State) :
    Keeps [.regs, .cnt] s (perfSelEffect page v s) := by
  unfold perfSelEffect
  dsimp only
  refine .ite (fun _ => ?_) (fun _ => ?_)
  · refine .step ?_ (clearCounters_keeps ..)
    refine .step ?_ (storeReg_keeps ..)
    exact .refl
  · refine .step ?_ (storeReg_keeps ..)
    exact .refl

theorem execPerfClear_keeps (who : Initiator) (page : Fin 4096) (v : Word) (s : State) :
    ResKeeps [.out, .regs, .cnt, .blk, .sys] s (execPerfClear who page v s) := by
  unfold execPerfClear
  change Keeps _ _ _
  refine regGuard_keeps ?_ (fun _ _ _ => ?_)
  · exact .refl
  · refine .step ?_ (perfSelEffect_keeps ..)
    assumption

theorem resetRegs_keeps (b : Block) (p n : ℕ) (s : State) :
    Keeps [.regs, .cnt, .tck] s (resetRegs b p n s) := by
  unfold resetRegs
  dsimp only
  refine .mk rfl ?_ rfl (fun p hp => by cases p <;> first | with_reducible rfl | exact absurd (by decide) hp)
  exact .refl

theorem resetTck_keeps (s : State) :
    Keeps [.regs, .queues, .tck] s (resetTck s) := by
  unfold resetTck
  dsimp only
  refine .foldl ?_ (fun _ _ _ => ?_)
  · refine .mk rfl ?_ rfl (fun p hp => by cases p <;> first | with_reducible rfl | exact absurd (by decide) hp)
    exact .refl
  · refine .step ?_ (qErr_keeps ..)
    assumption

theorem resetCrm_keeps (n : ℕ) (s : State) :
    Keeps [.out, .regs, .cnt, .mem, .poison, .prov, .crm, .cw, .rel, .lnk, .sys, .free] s (resetCrm n s) := by
  unfold resetCrm
  dsimp only
  refine .ite (fun _ => ?_) (fun _ => ?_)
  · refine .step ?_ (rehost_keeps ..)
    refine .step ?_ (pruneCw_keeps ..)
    refine .set_crm ?_ _
    refine .step ?_ (zeroGranules_keeps ..)
    refine .step ?_ (dropTags_keeps ..)
    refine .set_crm ?_ _
    exact .refl
  · refine .step ?_ (dropTags_keeps ..)
    refine .set_crm ?_ _
    exact .refl

theorem resetPwr_keeps (s : State) :
    Keeps [.pwr, .mtr] s (resetPwr s) := by
  unfold resetPwr
  refine .mk rfl ?_ rfl (fun p hp => by cases p <;> first | with_reducible rfl | exact absurd (by decide) hp)
  exact .refl

theorem resetStn_keeps (s : State) :
    Keeps [.rel, .lnk] s (resetStn s) := by
  unfold resetStn
  dsimp only
  refine .mk rfl ?_ rfl (fun p hp => by cases p <;> first | with_reducible rfl | exact absurd (by decide) hp)
  exact .refl

theorem dropContexts_keeps (n : ℕ) (s : State) :
    Keeps [.out, .regs, .cnt, .tasks, .eng, .ldl, .sys] s (dropContexts n s) := by
  unfold dropContexts
  refine .foldl ?_ (fun _ _ _ => ?_)
  · exact .refl
  · refine .foldl ?_ (fun _ _ _ => ?_)
    · assumption
    · split
      · refine .step ?_ (finish_keeps ..)
        assumption
      · assumption

theorem resetInner_keeps (b : Block) (n : ℕ) (s : State) :
    Keeps [.out, .regs, .cnt, .mem, .poison, .queues, .tasks, .prov, .eng, .tck, .crm, .hbm, .cw, .ldl, .rel, .arr, .tables, .layers, .skm, .lnk, .pwr, .clk, .mtr, .mgt, .sec, .sys, .free] s (resetInner b n s) := by
  unfold resetInner
  dsimp only
  split
  · refine .step ?_ (resetTck_keeps ..)
    exact .refl
  · refine .step ?_ (setArr_keeps ..)
    refine .step ?_ (dropContexts_keeps ..)
    exact .refl
  · refine .set_tables ?_ _
    exact .refl
  · refine .set_layers ?_ _
    exact .refl
  · refine .set_skm ?_ _
    exact .refl
  · refine .step ?_ (setLdl_keeps ..)
    exact .refl
  · refine .step ?_ (resetCrm_keeps ..)
    exact .refl
  · refine .step ?_ (setHbm_keeps ..)
    refine .ite (fun _ => ?_) (fun _ => ?_)
    · exact .refl
    · refine .step ?_ (loseLines_keeps ..)
      exact .refl
  · refine .ite (fun _ => ?_) (fun _ => ?_)
    · refine .set_lnk ?_ _
      refine .step ?_ (setPort_keeps ..)
      exact .refl
    · refine .step ?_ (setPort_keeps ..)
      exact .refl
  · refine .step ?_ (resetPwr_keeps ..)
    exact .refl
  · refine .step ?_ (setTrim_keeps ..)
    refine .set_clk ?_ _
    exact .refl
  · refine .set_rel ?_ _
    exact .refl
  · refine .step ?_ (resetStn_keeps ..)
    exact .refl
  · refine .mk rfl ?_ rfl (fun p hp => by cases p <;> first | with_reducible rfl | exact absurd (by decide) hp)
    exact .refl
  · refine .set_rel ?_ _
    exact .refl
  · exact .refl
  · exact .refl
  · exact .refl
  · exact .refl

theorem blkCtlEffect_keeps (page : ℕ) (v : Word) (s : State) :
    Keeps [.out, .regs, .cnt, .mem, .poison, .blk, .queues, .tasks, .prov, .eng, .tck, .crm, .hbm, .cw, .ldl, .rel, .arr, .tables, .layers, .skm, .lnk, .pwr, .clk, .mtr, .mgt, .sec, .sys, .free] s (blkCtlEffect page v s) := by
  unfold blkCtlEffect
  dsimp only
  refine .ite (fun _ => ?_) (fun _ => ?_)
  · refine .ite (fun _ => ?_) (fun _ => ?_)
    · refine .step ?_ (storeReg_keeps ..)
      exact .refl
    · refine .step ?_ (holdAck_keeps ..)
      refine .step ?_ (storeReg_keeps ..)
      exact .refl
  · refine .ite (fun _ => ?_) (fun _ => ?_)
    · refine .step ?_ (raise_keeps ..)
      refine .ite (fun _ => ?_) (fun _ => ?_)
      · refine .step ?_ (storeReg_keeps ..)
        exact .refl
      · refine .step ?_ (holdAck_keeps ..)
        refine .step ?_ (storeReg_keeps ..)
        exact .refl
    · split
      · exact .refl
      · refine .step ?_ (setBlk_keeps ..)
        refine .step ?_ (resetInner_keeps ..)
        refine .step ?_ (resetRegs_keeps ..)
        exact .refl

theorem execBlockEnable_keeps (who : Initiator) (page : Fin 4096) (v : Word) (s : State) :
    ResKeeps [.out, .regs, .cnt, .mem, .poison, .blk, .queues, .tasks, .prov, .eng, .tck, .crm, .hbm, .cw, .ldl, .rel, .arr, .tables, .layers, .skm, .lnk, .pwr, .clk, .mtr, .mgt, .sec, .sys, .free] s (execBlockEnable who page v s) := by
  unfold execBlockEnable
  change Keeps _ _ _
  refine regGuard_keeps ?_ (fun _ _ _ => ?_)
  · exact .refl
  · refine .step ?_ (blkCtlEffect_keeps ..)
    assumption

theorem execSoftReset_keeps (who : Initiator) (page : Fin 4096) (v : Word) (s : State) :
    ResKeeps [.out, .regs, .cnt, .mem, .poison, .blk, .queues, .tasks, .prov, .eng, .tck, .crm, .hbm, .cw, .ldl, .rel, .arr, .tables, .layers, .skm, .lnk, .pwr, .clk, .mtr, .mgt, .sec, .sys, .free] s (execSoftReset who page v s) := by
  unfold execSoftReset
  change Keeps _ _ _
  refine regGuard_keeps ?_ (fun _ _ _ => ?_)
  · exact .refl
  · refine .step ?_ (blkCtlEffect_keeps ..)
    assumption

theorem resetDoneEffect_keeps (page : ℕ) (s : State) :
    Keeps [.out, .regs, .blk, .sys] s (resetDoneEffect page s) := by
  unfold resetDoneEffect
  dsimp only
  refine .ite (fun _ => ?_) (fun _ => ?_)
  · exact .refl
  · refine .foldl ?_ (fun _ _ _ => ?_)
    · refine .step ?_ (holdAck_keeps ..)
      refine .step ?_ (setBlk_keeps ..)
      exact .refl
    · refine .step ?_ (raise_keeps ..)
      assumption

theorem execSoftResetDone_keeps (page : Fin 4096) (s : State) :
    ResKeeps [.out, .regs, .blk, .sys] s (execSoftResetDone page s) := by
  unfold execSoftResetDone
  change Keeps _ _ _
  refine .step ?_ (resetDoneEffect_keeps ..)
  exact .refl

theorem errFirstEffect_keeps (page : ℕ) (s : State) :
    Keeps [.resp, .out, .regs, .sys] s (errFirstEffect page s) := by
  unfold errFirstEffect
  split
  · refine .step ?_ (answer_keeps ..)
    refine .step ?_ (noPage_keeps ..)
    exact .refl
  · refine .step ?_ (setReg_keeps ..)
    refine .step ?_ (answer_keeps ..)
    exact .refl

theorem execErrFirstRead_keeps (_who : Initiator) (page : Fin 4096) (s : State) :
    ResKeeps [.resp, .out, .regs, .sys] s (execErrFirstRead _who page s) := by
  unfold execErrFirstRead
  change Keeps _ _ _
  refine .step ?_ (errFirstEffect_keeps ..)
  exact .refl

theorem unassignedEffect_keeps (page : ℕ) (wr : Bool) (s : State) :
    Keeps [.resp, .out, .regs, .sys] s (unassignedEffect page wr s) := by
  unfold unassignedEffect
  split
  · exact .refl
  · refine .ite (fun _ => ?_) (fun _ => ?_)
    · refine .step ?_ (noPage_keeps ..)
      exact .refl
    · refine .step ?_ (answer_keeps ..)
      refine .step ?_ (noPage_keeps ..)
      exact .refl

theorem execUnassignedPageAccess_keeps (_who : Initiator) (page : Fin 4096) (wr : Bool) (_v : Word) (s : State) :
    ResKeeps [.resp, .out, .regs, .sys] s (execUnassignedPageAccess _who page wr _v s) := by
  unfold execUnassignedPageAccess
  change Keeps _ _ _
  refine .step ?_ (unassignedEffect_keeps ..)
  exact .refl

theorem devIdEffect_keeps (v : Word) (s : State) :
    Keeps [.regs] s (devIdEffect v s) := by
  unfold devIdEffect
  refine .ite (fun _ => ?_) (fun _ => ?_)
  · exact .refl
  · refine .step ?_ (setReg_keeps ..)
    exact .refl

theorem execDevIdWrite_keeps (who : Initiator) (v : Word) (s : State) :
    ResKeeps [.out, .regs, .blk, .sys] s (execDevIdWrite who v s) := by
  unfold execDevIdWrite
  change Keeps _ _ _
  refine regGuard_keeps ?_ (fun _ _ _ => ?_)
  · exact .refl
  · refine .step ?_ (devIdEffect_keeps ..)
    assumption

theorem checkedReg_keeps (page off i : ℕ) (ok : Bool) (v : Word) (s : State) :
    Keeps [.out, .regs, .sys] s (checkedReg page off i ok v s) := by
  unfold checkedReg
  refine .ite (fun _ => ?_) (fun _ => ?_)
  · refine .step ?_ (storeReg_keeps ..)
    exact .refl
  · refine .step ?_ (raise_keeps ..)
    exact .refl

theorem oscTrimEffect_keeps (v : Word) (s : State) :
    Keeps [.out, .regs, .clk, .sys] s (oscTrimEffect v s) := by
  unfold oscTrimEffect
  dsimp only
  refine .ite (fun _ => ?_) (fun _ => ?_)
  · refine .step ?_ (setTrim_keeps ..)
    refine .step ?_ (setReg_keeps ..)
    exact .refl
  · refine .step ?_ (setReg_keeps ..)
    exact .refl

theorem cmdCtlEffect_keeps (v : Word) (s : State) :
    Keeps [.sec] s (cmdCtlEffect v s) := by
  unfold cmdCtlEffect
  dsimp only
  refine .ite (fun _ => ?_) (fun _ => ?_)
  · exact .refl
  · refine .ite (fun _ => ?_) (fun _ => ?_)
    · refine .set_sec ?_ _
      exact .refl
    · exact .refl

theorem portQueueEffect_keeps (p : ℕ) (resp : Bool) (v : Word) (s : State) :
    Keeps [.out, .regs, .cnt, .rel, .lnk, .sys] s (portQueueEffect p resp v s) := by
  unfold portQueueEffect
  dsimp only
  refine .ite (fun _ => ?_) (fun _ => ?_)
  · refine .step ?_ (rxFlush_keeps ..)
    refine .step ?_ (storeReg_keeps ..)
    exact .refl
  · refine .step ?_ (rxOffer_keeps ..)
    refine .step ?_ (storeReg_keeps ..)
    exact .refl

theorem queueRegEffect_keeps (who : Initiator) (page off q r : ℕ) (v : Word) (s : State) :
    Keeps [.out, .regs, .queues, .rel, .sys] s (queueRegEffect who page off q r v s) := by
  unfold queueRegEffect
  refine .ite (fun _ => ?_) (fun _ => ?_)
  · refine .ite (fun _ => ?_) (fun _ => ?_)
    · refine .ite (fun _ => ?_) (fun _ => ?_)
      · refine .step ?_ (flushEffect_keeps ..)
        exact .refl
      · exact .refl
    · refine .step ?_ (laceCfgEffect_keeps ..)
      exact .refl
  · refine .ite (fun _ => ?_) (fun _ => ?_)
    · refine .step ?_ (pushEffect_keeps ..)
      exact .refl
    · refine .ite (fun _ => ?_) (fun _ => ?_)
      · refine .step ?_ (pushNbEffect_keeps ..)
        exact .refl
      · refine .step ?_ (storeReg_keeps ..)
        exact .refl

theorem sysRegEffect_keeps (who : Initiator) (sub page off : ℕ) (v : Word) (s : State) :
    Keeps [.out, .regs, .queues, .pools, .rel, .sys] s (sysRegEffect who sub page off v s) := by
  unfold sysRegEffect
  dsimp only
  refine .ite (fun _ => ?_) (fun _ => ?_)
  · refine .ite (fun _ => ?_) (fun _ => ?_)
    · refine .step ?_ (devIdEffect_keeps ..)
      exact .refl
    · refine .ite (fun _ => ?_) (fun _ => ?_)
      · refine .step ?_ (bootStsEffect_keeps ..)
        exact .refl
      · refine .ite (fun _ => ?_) (fun _ => ?_)
        · refine .step ?_ (coreCtlEffect_keeps ..)
          exact .refl
        · refine .ite (fun _ => ?_) (fun _ => ?_)
          · refine .step ?_ (upperEntryEffect_keeps ..)
            exact .refl
          · refine .step ?_ (storeReg_keeps ..)
            exact .refl
  · refine .ite (fun _ => ?_) (fun _ => ?_)
    · refine .step ?_ (queueRegEffect_keeps ..)
      exact .refl
    · refine .ite (fun _ => ?_) (fun _ => ?_)
      · refine .step ?_ (poolBaseEffect_keeps ..)
        exact .refl
      · refine .ite (fun _ => ?_) (fun _ => ?_)
        · refine .step ?_ (poolCfgEffect_keeps ..)
          exact .refl
        · refine .ite (fun _ => ?_) (fun _ => ?_)
          · refine .step ?_ (releaseEffect_keeps ..)
            exact .refl
          · refine .step ?_ (storeReg_keeps ..)
            exact .refl

theorem tckRegEffect_keeps (who : Initiator) (sub page off : ℕ) (v : Word) (s : State) :
    Keeps [.out, .regs, .cnt, .queues, .tasks, .nextTask, .groups, .prov, .eng, .tck, .ldl, .rel, .lnk, .sys] s (tckRegEffect who sub page off v s) := by
  unfold tckRegEffect
  refine .ite (fun _ => ?_) (fun _ => ?_)
  · refine .ite (fun _ => ?_) (fun _ => ?_)
    · refine .step ?_ (tickCfgEffect_keeps ..)
      exact .refl
    · refine .ite (fun _ => ?_) (fun _ => ?_)
      · refine .step ?_ (tickSrcEffect_keeps ..)
        exact .refl
      · refine .ite (fun _ => ?_) (fun _ => ?_)
        · refine .step ?_ (abortEffect_keeps ..)
          exact .refl
        · refine .ite (fun _ => ?_) (fun _ => ?_)
          · refine .step ?_ (slotEffect_keeps ..)
            exact .refl
          · refine .step ?_ (storeReg_keeps ..)
            exact .refl
  · refine .ite (fun _ => ?_) (fun _ => ?_)
    · refine .step ?_ (queueRegEffect_keeps ..)
      exact .refl
    · refine .ite (fun _ => ?_) (fun _ => ?_)
      · refine .step ?_ (bindWrite_keeps ..)
        exact .refl
      · refine .step ?_ (storeReg_keeps ..)
        exact .refl

theorem arrRegEffect_keeps (n sub page off : ℕ) (v : Word) (s : State) :
    Keeps [.out, .regs, .cnt, .arr, .sys] s (arrRegEffect n sub page off v s) := by
  unfold arrRegEffect
  refine .ite (fun _ => ?_) (fun _ => ?_)
  · refine .step ?_ (arrayModeEffect_keeps ..)
    exact .refl
  · refine .ite (fun _ => ?_) (fun _ => ?_)
    · refine .step ?_ (swapEffect_keeps ..)
      exact .refl
    · refine .ite (fun _ => ?_) (fun _ => ?_)
      · refine .step ?_ (keepCtlEffect_keeps ..)
        exact .refl
      · refine .ite (fun _ => ?_) (fun _ => ?_)
        · refine .step ?_ (tbankEffect_keeps ..)
          exact .refl
        · refine .ite (fun _ => ?_) (fun _ => ?_)
          · refine .step ?_ (raise_keeps ..)
            exact .refl
          · refine .step ?_ (storeReg_keeps ..)
            exact .refl

theorem skmRegEffect_keeps (sub page off : ℕ) (v : Word) (s : State) :
    Keeps [.out, .regs, .cnt, .mem, .poison, .epochs, .tasks, .prov, .crm, .hbm, .ecc, .cw, .ls, .upset, .ldl, .rel, .act, .skm, .sys, .free] s (skmRegEffect sub page off v s) := by
  unfold skmRegEffect
  refine .ite (fun _ => ?_) (fun _ => ?_)
  · refine .step ?_ (stepCtlEffect_keeps ..)
    exact .refl
  · refine .ite (fun _ => ?_) (fun _ => ?_)
    · refine .step ?_ (entryCfgEffect_keeps ..)
      exact .refl
    · refine .ite (fun _ => ?_) (fun _ => ?_)
      · refine .step ?_ (entryWinEffect_keeps ..)
        exact .refl
      · refine .ite (fun _ => ?_) (fun _ => ?_)
        · refine .step ?_ (entryWinEffect_keeps ..)
          exact .refl
        · refine .ite (fun _ => ?_) (fun _ => ?_)
          · refine .step ?_ (bindWinEffect_keeps ..)
            exact .refl
          · refine .ite (fun _ => ?_) (fun _ => ?_)
            · refine .step ?_ (bindWinEffect_keeps ..)
              exact .refl
            · refine .step ?_ (storeReg_keeps ..)
              exact .refl

theorem ldlRegEffect_keeps (n sub page off : ℕ) (v : Word) (s : State) :
    Keeps [.out, .regs, .ldl, .sys] s (ldlRegEffect n sub page off v s) := by
  unfold ldlRegEffect
  dsimp only
  refine .ite (fun _ => ?_) (fun _ => ?_)
  · refine .step ?_ (directModeEffect_keeps ..)
    exact .refl
  · refine .ite (fun _ => ?_) (fun _ => ?_)
    · refine .ite (fun _ => ?_) (fun _ => ?_)
      · refine .step ?_ (chanWrite_keeps ..)
        exact .refl
      · refine .step ?_ (raise_keeps ..)
        exact .refl
    · refine .step ?_ (storeReg_keeps ..)
      exact .refl

theorem crmRegEffect_keeps (page off : ℕ) (v : Word) (s : State) :
    Keeps [.out, .regs, .cnt, .mem, .poison, .prov, .crm, .cw, .rel, .lnk, .sys, .free] s (crmRegEffect page off v s) := by
  unfold crmRegEffect
  refine .ite (fun _ => ?_) (fun _ => ?_)
  · refine .step ?_ (crmModeEffect_keeps ..)
    exact .refl
  · refine .ite (fun _ => ?_) (fun _ => ?_)
    · refine .step ?_ (crmPartEffect_keeps ..)
      exact .refl
    · refine .ite (fun _ => ?_) (fun _ => ?_)
      · refine .step ?_ (keepCfgEffect_keeps ..)
        exact .refl
      · refine .step ?_ (storeReg_keeps ..)
        exact .refl

theorem hbmRegEffect_keeps (n sub page off : ℕ) (v : Word) (s : State) :
    Keeps [.out, .regs, .mem, .hbm, .sys, .free] s (hbmRegEffect n sub page off v s) := by
  unfold hbmRegEffect
  refine .ite (fun _ => ?_) (fun _ => ?_)
  · refine .step ?_ (hbmRequest_keeps ..)
    exact .refl
  · refine .ite (fun _ => ?_) (fun _ => ?_)
    · refine .step ?_ (checkedReg_keeps ..)
      exact .refl
    · refine .ite (fun _ => ?_) (fun _ => ?_)
      · refine .step ?_ (checkedReg_keeps ..)
        exact .refl
      · refine .ite (fun _ => ?_) (fun _ => ?_)
        · refine .step ?_ (checkedReg_keeps ..)
          exact .refl
        · refine .ite (fun _ => ?_) (fun _ => ?_)
          · refine .step ?_ (checkedReg_keeps ..)
            exact .refl
          · refine .ite (fun _ => ?_) (fun _ => ?_)
            · refine .step ?_ (marginEffect_keeps ..)
              exact .refl
            · refine .ite (fun _ => ?_) (fun _ => ?_)
              · refine .step ?_ (marginPatEffect_keeps ..)
                exact .refl
              · refine .step ?_ (storeReg_keeps ..)
                exact .refl

theorem lnkRegEffect_keeps (p sub page off : ℕ) (v : Word) (s : State) :
    Keeps [.out, .regs, .cnt, .rel, .lnk, .sys] s (lnkRegEffect p sub page off v s) := by
  unfold lnkRegEffect
  refine .ite (fun _ => ?_) (fun _ => ?_)
  · refine .step ?_ (portCfgEffect_keeps ..)
    exact .refl
  · refine .ite (fun _ => ?_) (fun _ => ?_)
    · refine .step ?_ (retrainEffect_keeps ..)
      exact .refl
    · refine .ite (fun _ => ?_) (fun _ => ?_)
      · refine .step ?_ (ethCfgEffect_keeps ..)
        exact .refl
      · refine .ite (fun _ => ?_) (fun _ => ?_)
        · refine .step ?_ (portQueueEffect_keeps ..)
          exact .refl
        · refine .ite (fun _ => ?_) (fun _ => ?_)
          · refine .step ?_ (cacheFlushEffect_keeps ..)
            exact .refl
          · refine .ite (fun _ => ?_) (fun _ => ?_)
            · refine .step ?_ (unitEffect_keeps ..)
              exact .refl
            · refine .ite (fun _ => ?_) (fun _ => ?_)
              · refine .step ?_ (groupEffect_keeps ..)
                exact .refl
              · refine .ite (fun _ => ?_) (fun _ => ?_)
                · refine .step ?_ (rsvEffect_keeps ..)
                  exact .refl
                · refine .step ?_ (storeReg_keeps ..)
                  exact .refl

theorem pwrRegEffect_keeps (sub page off : ℕ) (v : Word) (s : State) :
    Keeps [.out, .regs, .cnt, .mem, .poison, .epochs, .tasks, .prov, .crm, .hbm, .ecc, .cw, .ls, .ldl, .rel, .act, .mtr, .sec, .sys, .free] s (pwrRegEffect sub page off v s) := by
  unfold pwrRegEffect
  refine .ite (fun _ => ?_) (fun _ => ?_)
  · refine .ite (fun _ => ?_) (fun _ => ?_)
    · refine .step ?_ (pwrCapEffect_keeps ..)
      exact .refl
    · refine .ite (fun _ => ?_) (fun _ => ?_)
      · refine .step ?_ (checkedReg_keeps ..)
        exact .refl
      · refine .ite (fun _ => ?_) (fun _ => ?_)
        · refine .step ?_ (checkedReg_keeps ..)
          exact .refl
        · refine .ite (fun _ => ?_) (fun _ => ?_)
          · refine .step ?_ (checkedReg_keeps ..)
            exact .refl
          · refine .ite (fun _ => ?_) (fun _ => ?_)
            · refine .step ?_ (checkedReg_keeps ..)
              exact .refl
            · refine .ite (fun _ => ?_) (fun _ => ?_)
              · refine .step ?_ (checkedReg_keeps ..)
                exact .refl
              · refine .step ?_ (storeReg_keeps ..)
                exact .refl
  · refine .ite (fun _ => ?_) (fun _ => ?_)
    · refine .step ?_ (firkinPtrEffect_keeps ..)
      exact .refl
    · refine .ite (fun _ => ?_) (fun _ => ?_)
      · refine .step ?_ (reqCtlEffect_keeps ..)
        exact .refl
      · refine .step ?_ (storeReg_keeps ..)
        exact .refl

theorem clkRegEffect_keeps (page off : ℕ) (v : Word) (s : State) :
    Keeps [.out, .regs, .clk, .sys] s (clkRegEffect page off v s) := by
  unfold clkRegEffect
  refine .ite (fun _ => ?_) (fun _ => ?_)
  · refine .step ?_ (checkedReg_keeps ..)
    exact .refl
  · refine .ite (fun _ => ?_) (fun _ => ?_)
    · refine .step ?_ (oscTrimEffect_keeps ..)
      exact .refl
    · refine .step ?_ (storeReg_keeps ..)
      exact .refl

theorem mgtRegEffect_keeps (who : Initiator) (page off : ℕ) (v : Word) (s : State) :
    Keeps [.out, .regs, .mgt, .sec, .sys] s (mgtRegEffect who page off v s) := by
  unfold mgtRegEffect
  refine .ite (fun _ => ?_) (fun _ => ?_)
  · refine .step ?_ (mgtCfgEffect_keeps ..)
    exact .refl
  · refine .ite (fun _ => ?_) (fun _ => ?_)
    · refine .step ?_ (rearmEffect_keeps ..)
      exact .refl
    · refine .ite (fun _ => ?_) (fun _ => ?_)
      · refine .step ?_ (cmdCtlEffect_keeps ..)
        exact .refl
      · refine .step ?_ (storeReg_keeps ..)
        exact .refl

theorem cblRegEffect_keeps (page off : ℕ) (v : Word) (s : State) :
    Keeps [.out, .regs, .cnt, .mem, .blk, .crm, .hbm, .cw, .lpc, .rel, .act, .lnk, .mtr, .sys, .free] s (cblRegEffect page off v s) := by
  unfold cblRegEffect
  refine .ite (fun _ => ?_) (fun _ => ?_)
  · refine .step ?_ (kickEffect_keeps ..)
    exact .refl
  · refine .ite (fun _ => ?_) (fun _ => ?_)
    · refine .step ?_ (mapoutReqEffect_keeps ..)
      exact .refl
    · refine .ite (fun _ => ?_) (fun _ => ?_)
      · refine .step ?_ (policyEffect_keeps ..)
        exact .refl
      · refine .step ?_ (storeReg_keeps ..)
        exact .refl

theorem regEffect_keeps (who : Initiator) (page off : ℕ) (v : Word) (s : State) :
    Keeps [.out, .regs, .cnt, .mem, .poison, .epochs, .blk, .queues, .pools, .tasks, .nextTask, .groups, .prov, .eng, .tck, .crm, .hbm, .ecc, .cw, .ls, .upset, .seedBad, .lpc, .ldl, .rel, .arr, .act, .tables, .layers, .skm, .lnk, .pwr, .clk, .mtr, .mgt, .sec, .sys, .free] s (regEffect who page off v s) := by
  unfold regEffect
  dsimp only
  refine .ite (fun _ => ?_) (fun _ => ?_)
  · refine .step ?_ (blkCtlEffect_keeps ..)
    exact .refl
  · refine .ite (fun _ => ?_) (fun _ => ?_)
    · refine .step ?_ (perfSelEffect_keeps ..)
      exact .refl
    · refine .ite (fun _ => ?_) (fun _ => ?_)
      · refine .step ?_ (storeReg_keeps ..)
        exact .refl
      · split
        · refine .step ?_ (sysRegEffect_keeps ..)
          exact .refl
        · refine .step ?_ (tckRegEffect_keeps ..)
          exact .refl
        · refine .step ?_ (arrRegEffect_keeps ..)
          exact .refl
        · refine .ite (fun _ => ?_) (fun _ => ?_)
          · refine .step ?_ (chnCfgEffect_keeps ..)
            exact .refl
          · refine .step ?_ (storeReg_keeps ..)
            exact .refl
        · refine .step ?_ (skmRegEffect_keeps ..)
          exact .refl
        · refine .ite (fun _ => ?_) (fun _ => ?_)
          · refine .step ?_ (testGoEffect_keeps ..)
            exact .refl
          · refine .ite (fun _ => ?_) (fun _ => ?_)
            · refine .step ?_ (seedEffect_keeps ..)
              exact .refl
            · refine .step ?_ (storeReg_keeps ..)
              exact .refl
        · refine .step ?_ (ldlRegEffect_keeps ..)
          exact .refl
        · refine .step ?_ (crmRegEffect_keeps ..)
          exact .refl
        · refine .step ?_ (hbmRegEffect_keeps ..)
          exact .refl
        · refine .step ?_ (lnkRegEffect_keeps ..)
          exact .refl
        · refine .step ?_ (pwrRegEffect_keeps ..)
          exact .refl
        · refine .step ?_ (clkRegEffect_keeps ..)
          exact .refl
        · refine .ite (fun _ => ?_) (fun _ => ?_)
          · refine .step ?_ (checkedReg_keeps ..)
            exact .refl
          · refine .step ?_ (storeReg_keeps ..)
            exact .refl
        · refine .ite (fun _ => ?_) (fun _ => ?_)
          · refine .step ?_ (captureEffect_keeps ..)
            exact .refl
          · refine .step ?_ (storeReg_keeps ..)
            exact .refl
        · refine .step ?_ (mgtRegEffect_keeps ..)
          exact .refl
        · refine .step ?_ (cblRegEffect_keeps ..)
          exact .refl
        · refine .step ?_ (storeReg_keeps ..)
          exact .refl

theorem coreWrite_keeps (core off size : ℕ) (v : Word) (s : State) :
    Keeps [.sys] s (coreWrite core off size v s) := by
  unfold coreWrite
  dsimp only
  refine .ite (fun _ => ?_) (fun _ => ?_)
  · exact .refl
  · refine .ite (fun _ => ?_) (fun _ => ?_)
    · refine .set_sys ?_ _
      exact .refl
    · refine .set_sys ?_ _
      exact .refl

theorem accessFault_keeps (who : Initiator) (x1 : ℕ) (wr : Bool) (s : State) :
    Keeps [.out] s (accessFault who x1 wr s) := by
  unfold accessFault
  refine .step ?_ (emit_keeps ..)
  exact .refl

theorem regWrite_keeps (who : Initiator) (addr size : ℕ) (v : Word) (s : State) :
    Keeps [.out, .regs, .cnt, .mem, .poison, .epochs, .blk, .queues, .pools, .tasks, .nextTask, .groups, .prov, .eng, .tck, .crm, .hbm, .ecc, .cw, .ls, .upset, .seedBad, .lpc, .ldl, .rel, .arr, .act, .tables, .layers, .skm, .lnk, .pwr, .clk, .mtr, .mgt, .sec, .sys, .free] s (regWrite who addr size v s) := by
  unfold regWrite
  dsimp only
  split
  · refine .ite (fun _ => ?_) (fun _ => ?_)
    · refine .step ?_ (accessFault_keeps ..)
      exact .refl
    · split
      · refine .step ?_ (coreWrite_keeps ..)
        exact .refl
      · exact .refl
  · refine .ite (fun _ => ?_) (fun _ => ?_)
    · refine .step ?_ (noPage_keeps ..)
      exact .refl
    · refine .ite (fun _ => ?_) (fun _ => ?_)
      · refine .step ?_ (raise_keeps ..)
        exact .refl
      · refine regGuard_keeps ?_ (fun _ _ _ => ?_)
        · exact .refl
        · refine .step ?_ (regEffect_keeps ..)
          assumption

theorem execRegisterWrite_keeps (who : Initiator) (addr size : ℕ) (v : Word) (s : State) :
    ResKeeps [.out, .regs, .cnt, .mem, .poison, .epochs, .blk, .queues, .pools, .tasks, .nextTask, .groups, .prov, .eng, .tck, .crm, .hbm, .ecc, .cw, .ls, .upset, .seedBad, .lpc, .ldl, .rel, .arr, .act, .tables, .layers, .skm, .lnk, .pwr, .clk, .mtr, .mgt, .sec, .sys, .free] s (execRegisterWrite who addr size v s) := by
  unfold execRegisterWrite
  dsimp only
  split
  · trivial
  · change Keeps _ _ _
    refine .step ?_ (regWrite_keeps ..)
    exact .refl

end Sys2Proof.Machine
end

