-- ==== Sys2Proof/Laws/State.lean ====
section
/-! SUPPORT. What the named updates of the state leave and set, field by field, and reading a map after writing it. -/

set_option Elab.async false

namespace Sys2Proof.Machine

@[simp] theorem setReg_fields (page off : Nat) (v : Word) (s : State) :
    (setReg page off v s).pending = s.pending ∧ (setReg page off v s).resp = s.resp ∧ (setReg page off v s).out = s.out
    ∧ (setReg page off v s).regs = mput s.regs (regKey page off) v ∧ (setReg page off v s).cnt = s.cnt ∧ (setReg page
    off v s).mem = s.mem ∧ (setReg page off v s).poison = s.poison ∧ (setReg page off v s).epochs = s.epochs ∧ (setReg
    page off v s).blk = s.blk ∧ (setReg page off v s).queues = s.queues ∧ (setReg page off v s).pools = s.pools ∧
    (setReg page off v s).tasks = s.tasks ∧ (setReg page off v s).nextTask = s.nextTask ∧ (setReg page off v s).groups =
    s.groups ∧ (setReg page off v s).prov = s.prov ∧ (setReg page off v s).drain = s.drain ∧ (setReg page off v s).eng =
    s.eng ∧ (setReg page off v s).tck = s.tck ∧ (setReg page off v s).crm = s.crm ∧ (setReg page off v s).hbm = s.hbm ∧
    (setReg page off v s).ecc = s.ecc ∧ (setReg page off v s).ls = s.ls ∧ (setReg page off v s).upset = s.upset ∧
    (setReg page off v s).seedBad = s.seedBad ∧ (setReg page off v s).rngBlocks = s.rngBlocks ∧ (setReg page off v
    s).cross = s.cross ∧ (setReg page off v s).cw = s.cw ∧ (setReg page off v s).actJob = s.actJob ∧ (setReg page off v
    s).lpc = s.lpc ∧ (setReg page off v s).ldl = s.ldl ∧ (setReg page off v s).rel = s.rel ∧ (setReg page off v s).arr =
    s.arr ∧ (setReg page off v s).act = s.act ∧ (setReg page off v s).tables = s.tables ∧ (setReg page off v s).layers =
    s.layers ∧ (setReg page off v s).skm = s.skm ∧ (setReg page off v s).lnk = s.lnk ∧ (setReg page off v s).keys =
    s.keys ∧ (setReg page off v s).pwr = s.pwr ∧ (setReg page off v s).clk = s.clk ∧ (setReg page off v s).mtr = s.mtr ∧
    (setReg page off v s).mgt = s.mgt ∧ (setReg page off v s).sec = s.sec ∧ (setReg page off v s).sys = s.sys ∧ (setReg
    page off v s).free = s.free := by
  exact ⟨rfl, rfl, rfl, rfl, rfl, rfl, rfl, rfl, rfl, rfl, rfl, rfl, rfl, rfl, rfl, rfl, rfl, rfl, rfl, rfl, rfl, rfl, rfl, rfl, rfl, rfl, rfl, rfl, rfl, rfl, rfl, rfl, rfl, rfl, rfl, rfl, rfl, rfl, rfl, rfl, rfl, rfl, rfl, rfl, rfl⟩

@[simp] theorem setBlk_fields (page : Nat) (b : Blk) (s : State) :
    (setBlk page b s).pending = s.pending ∧ (setBlk page b s).resp = s.resp ∧ (setBlk page b s).out = s.out ∧ (setBlk
    page b s).regs = s.regs ∧ (setBlk page b s).cnt = s.cnt ∧ (setBlk page b s).mem = s.mem ∧ (setBlk page b s).poison =
    s.poison ∧ (setBlk page b s).epochs = s.epochs ∧ (setBlk page b s).blk = mput s.blk (firstPage page) b ∧ (setBlk
    page b s).queues = s.queues ∧ (setBlk page b s).pools = s.pools ∧ (setBlk page b s).tasks = s.tasks ∧ (setBlk page b
    s).nextTask = s.nextTask ∧ (setBlk page b s).groups = s.groups ∧ (setBlk page b s).prov = s.prov ∧ (setBlk page b
    s).drain = s.drain ∧ (setBlk page b s).eng = s.eng ∧ (setBlk page b s).tck = s.tck ∧ (setBlk page b s).crm = s.crm ∧
    (setBlk page b s).hbm = s.hbm ∧ (setBlk page b s).ecc = s.ecc ∧ (setBlk page b s).ls = s.ls ∧ (setBlk page b
    s).upset = s.upset ∧ (setBlk page b s).seedBad = s.seedBad ∧ (setBlk page b s).rngBlocks = s.rngBlocks ∧ (setBlk
    page b s).cross = s.cross ∧ (setBlk page b s).cw = s.cw ∧ (setBlk page b s).actJob = s.actJob ∧ (setBlk page b
    s).lpc = s.lpc ∧ (setBlk page b s).ldl = s.ldl ∧ (setBlk page b s).rel = s.rel ∧ (setBlk page b s).arr = s.arr ∧
    (setBlk page b s).act = s.act ∧ (setBlk page b s).tables = s.tables ∧ (setBlk page b s).layers = s.layers ∧ (setBlk
    page b s).skm = s.skm ∧ (setBlk page b s).lnk = s.lnk ∧ (setBlk page b s).keys = s.keys ∧ (setBlk page b s).pwr =
    s.pwr ∧ (setBlk page b s).clk = s.clk ∧ (setBlk page b s).mtr = s.mtr ∧ (setBlk page b s).mgt = s.mgt ∧ (setBlk page
    b s).sec = s.sec ∧ (setBlk page b s).sys = s.sys ∧ (setBlk page b s).free = s.free := by
  exact ⟨rfl, rfl, rfl, rfl, rfl, rfl, rfl, rfl, rfl, rfl, rfl, rfl, rfl, rfl, rfl, rfl, rfl, rfl, rfl, rfl, rfl, rfl, rfl, rfl, rfl, rfl, rfl, rfl, rfl, rfl, rfl, rfl, rfl, rfl, rfl, rfl, rfl, rfl, rfl, rfl, rfl, rfl, rfl, rfl, rfl⟩

@[simp] theorem emit_fields (o : Out) (s : State) :
    (emit o s).pending = s.pending ∧ (emit o s).resp = s.resp ∧ (emit o s).out = s.out ++ [o] ∧ (emit o s).regs = s.regs
    ∧ (emit o s).cnt = s.cnt ∧ (emit o s).mem = s.mem ∧ (emit o s).poison = s.poison ∧ (emit o s).epochs = s.epochs ∧
    (emit o s).blk = s.blk ∧ (emit o s).queues = s.queues ∧ (emit o s).pools = s.pools ∧ (emit o s).tasks = s.tasks ∧
    (emit o s).nextTask = s.nextTask ∧ (emit o s).groups = s.groups ∧ (emit o s).prov = s.prov ∧ (emit o s).drain =
    s.drain ∧ (emit o s).eng = s.eng ∧ (emit o s).tck = s.tck ∧ (emit o s).crm = s.crm ∧ (emit o s).hbm = s.hbm ∧ (emit
    o s).ecc = s.ecc ∧ (emit o s).ls = s.ls ∧ (emit o s).upset = s.upset ∧ (emit o s).seedBad = s.seedBad ∧ (emit o
    s).rngBlocks = s.rngBlocks ∧ (emit o s).cross = s.cross ∧ (emit o s).cw = s.cw ∧ (emit o s).actJob = s.actJob ∧
    (emit o s).lpc = s.lpc ∧ (emit o s).ldl = s.ldl ∧ (emit o s).rel = s.rel ∧ (emit o s).arr = s.arr ∧ (emit o s).act =
    s.act ∧ (emit o s).tables = s.tables ∧ (emit o s).layers = s.layers ∧ (emit o s).skm = s.skm ∧ (emit o s).lnk =
    s.lnk ∧ (emit o s).keys = s.keys ∧ (emit o s).pwr = s.pwr ∧ (emit o s).clk = s.clk ∧ (emit o s).mtr = s.mtr ∧ (emit
    o s).mgt = s.mgt ∧ (emit o s).sec = s.sec ∧ (emit o s).sys = s.sys ∧ (emit o s).free = s.free := by
  exact ⟨rfl, rfl, rfl, rfl, rfl, rfl, rfl, rfl, rfl, rfl, rfl, rfl, rfl, rfl, rfl, rfl, rfl, rfl, rfl, rfl, rfl, rfl, rfl, rfl, rfl, rfl, rfl, rfl, rfl, rfl, rfl, rfl, rfl, rfl, rfl, rfl, rfl, rfl, rfl, rfl, rfl, rfl, rfl, rfl, rfl⟩

@[simp] theorem setHbm_fields (n : Nat) (h : Hbm) (s : State) :
    (setHbm n h s).pending = s.pending ∧ (setHbm n h s).resp = s.resp ∧ (setHbm n h s).out = s.out ∧ (setHbm n h s).regs
    = s.regs ∧ (setHbm n h s).cnt = s.cnt ∧ (setHbm n h s).mem = s.mem ∧ (setHbm n h s).poison = s.poison ∧ (setHbm n h
    s).epochs = s.epochs ∧ (setHbm n h s).blk = s.blk ∧ (setHbm n h s).queues = s.queues ∧ (setHbm n h s).pools =
    s.pools ∧ (setHbm n h s).tasks = s.tasks ∧ (setHbm n h s).nextTask = s.nextTask ∧ (setHbm n h s).groups = s.groups ∧
    (setHbm n h s).prov = s.prov ∧ (setHbm n h s).drain = s.drain ∧ (setHbm n h s).eng = s.eng ∧ (setHbm n h s).tck =
    s.tck ∧ (setHbm n h s).crm = s.crm ∧ (setHbm n h s).hbm = mput s.hbm n h ∧ (setHbm n h s).ecc = s.ecc ∧ (setHbm n h
    s).ls = s.ls ∧ (setHbm n h s).upset = s.upset ∧ (setHbm n h s).seedBad = s.seedBad ∧ (setHbm n h s).rngBlocks =
    s.rngBlocks ∧ (setHbm n h s).cross = s.cross ∧ (setHbm n h s).cw = s.cw ∧ (setHbm n h s).actJob = s.actJob ∧ (setHbm
    n h s).lpc = s.lpc ∧ (setHbm n h s).ldl = s.ldl ∧ (setHbm n h s).rel = s.rel ∧ (setHbm n h s).arr = s.arr ∧ (setHbm
    n h s).act = s.act ∧ (setHbm n h s).tables = s.tables ∧ (setHbm n h s).layers = s.layers ∧ (setHbm n h s).skm =
    s.skm ∧ (setHbm n h s).lnk = s.lnk ∧ (setHbm n h s).keys = s.keys ∧ (setHbm n h s).pwr = s.pwr ∧ (setHbm n h s).clk
    = s.clk ∧ (setHbm n h s).mtr = s.mtr ∧ (setHbm n h s).mgt = s.mgt ∧ (setHbm n h s).sec = s.sec ∧ (setHbm n h s).sys
    = s.sys ∧ (setHbm n h s).free = s.free := by
  exact ⟨rfl, rfl, rfl, rfl, rfl, rfl, rfl, rfl, rfl, rfl, rfl, rfl, rfl, rfl, rfl, rfl, rfl, rfl, rfl, rfl, rfl, rfl, rfl, rfl, rfl, rfl, rfl, rfl, rfl, rfl, rfl, rfl, rfl, rfl, rfl, rfl, rfl, rfl, rfl, rfl, rfl, rfl, rfl, rfl, rfl⟩

@[simp] theorem setEng_fields (n : Nat) (v : Eng) (s : State) :
    (setEng n v s).pending = s.pending ∧ (setEng n v s).resp = s.resp ∧ (setEng n v s).out = s.out ∧ (setEng n v s).regs
    = s.regs ∧ (setEng n v s).cnt = s.cnt ∧ (setEng n v s).mem = s.mem ∧ (setEng n v s).poison = s.poison ∧ (setEng n v
    s).epochs = s.epochs ∧ (setEng n v s).blk = s.blk ∧ (setEng n v s).queues = s.queues ∧ (setEng n v s).pools =
    s.pools ∧ (setEng n v s).tasks = s.tasks ∧ (setEng n v s).nextTask = s.nextTask ∧ (setEng n v s).groups = s.groups ∧
    (setEng n v s).prov = s.prov ∧ (setEng n v s).drain = s.drain ∧ (setEng n v s).eng = mput s.eng n v ∧ (setEng n v
    s).tck = s.tck ∧ (setEng n v s).crm = s.crm ∧ (setEng n v s).hbm = s.hbm ∧ (setEng n v s).ecc = s.ecc ∧ (setEng n v
    s).ls = s.ls ∧ (setEng n v s).upset = s.upset ∧ (setEng n v s).seedBad = s.seedBad ∧ (setEng n v s).rngBlocks =
    s.rngBlocks ∧ (setEng n v s).cross = s.cross ∧ (setEng n v s).cw = s.cw ∧ (setEng n v s).actJob = s.actJob ∧ (setEng
    n v s).lpc = s.lpc ∧ (setEng n v s).ldl = s.ldl ∧ (setEng n v s).rel = s.rel ∧ (setEng n v s).arr = s.arr ∧ (setEng
    n v s).act = s.act ∧ (setEng n v s).tables = s.tables ∧ (setEng n v s).layers = s.layers ∧ (setEng n v s).skm =
    s.skm ∧ (setEng n v s).lnk = s.lnk ∧ (setEng n v s).keys = s.keys ∧ (setEng n v s).pwr = s.pwr ∧ (setEng n v s).clk
    = s.clk ∧ (setEng n v s).mtr = s.mtr ∧ (setEng n v s).mgt = s.mgt ∧ (setEng n v s).sec = s.sec ∧ (setEng n v s).sys
    = s.sys ∧ (setEng n v s).free = s.free := by
  exact ⟨rfl, rfl, rfl, rfl, rfl, rfl, rfl, rfl, rfl, rfl, rfl, rfl, rfl, rfl, rfl, rfl, rfl, rfl, rfl, rfl, rfl, rfl, rfl, rfl, rfl, rfl, rfl, rfl, rfl, rfl, rfl, rfl, rfl, rfl, rfl, rfl, rfl, rfl, rfl, rfl, rfl, rfl, rfl, rfl, rfl⟩

@[simp] theorem putTask_fields (t : Task) (s : State) :
    (putTask t s).pending = s.pending ∧ (putTask t s).resp = s.resp ∧ (putTask t s).out = s.out ∧ (putTask t s).regs =
    s.regs ∧ (putTask t s).cnt = s.cnt ∧ (putTask t s).mem = s.mem ∧ (putTask t s).poison = s.poison ∧ (putTask t
    s).epochs = s.epochs ∧ (putTask t s).blk = s.blk ∧ (putTask t s).queues = s.queues ∧ (putTask t s).pools = s.pools ∧
    (putTask t s).tasks = s.tasks.map (fun u => if u.id = t.id then t else u) ∧ (putTask t s).nextTask = s.nextTask ∧
    (putTask t s).groups = s.groups ∧ (putTask t s).prov = s.prov ∧ (putTask t s).drain = s.drain ∧ (putTask t s).eng =
    s.eng ∧ (putTask t s).tck = s.tck ∧ (putTask t s).crm = s.crm ∧ (putTask t s).hbm = s.hbm ∧ (putTask t s).ecc =
    s.ecc ∧ (putTask t s).ls = s.ls ∧ (putTask t s).upset = s.upset ∧ (putTask t s).seedBad = s.seedBad ∧ (putTask t
    s).rngBlocks = s.rngBlocks ∧ (putTask t s).cross = s.cross ∧ (putTask t s).cw = s.cw ∧ (putTask t s).actJob =
    s.actJob ∧ (putTask t s).lpc = s.lpc ∧ (putTask t s).ldl = s.ldl ∧ (putTask t s).rel = s.rel ∧ (putTask t s).arr =
    s.arr ∧ (putTask t s).act = s.act ∧ (putTask t s).tables = s.tables ∧ (putTask t s).layers = s.layers ∧ (putTask t
    s).skm = s.skm ∧ (putTask t s).lnk = s.lnk ∧ (putTask t s).keys = s.keys ∧ (putTask t s).pwr = s.pwr ∧ (putTask t
    s).clk = s.clk ∧ (putTask t s).mtr = s.mtr ∧ (putTask t s).mgt = s.mgt ∧ (putTask t s).sec = s.sec ∧ (putTask t
    s).sys = s.sys ∧ (putTask t s).free = s.free := by
  exact ⟨rfl, rfl, rfl, rfl, rfl, rfl, rfl, rfl, rfl, rfl, rfl, rfl, rfl, rfl, rfl, rfl, rfl, rfl, rfl, rfl, rfl, rfl, rfl, rfl, rfl, rfl, rfl, rfl, rfl, rfl, rfl, rfl, rfl, rfl, rfl, rfl, rfl, rfl, rfl, rfl, rfl, rfl, rfl, rfl, rfl⟩

@[simp] theorem dropTask_fields (n : Nat) (s : State) :
    (dropTask n s).pending = s.pending ∧ (dropTask n s).resp = s.resp ∧ (dropTask n s).out = s.out ∧ (dropTask n s).regs
    = s.regs ∧ (dropTask n s).cnt = s.cnt ∧ (dropTask n s).mem = s.mem ∧ (dropTask n s).poison = s.poison ∧ (dropTask n
    s).epochs = s.epochs ∧ (dropTask n s).blk = s.blk ∧ (dropTask n s).queues = s.queues ∧ (dropTask n s).pools =
    s.pools ∧ (dropTask n s).tasks = s.tasks.filter (fun u => u.id ≠ n) ∧ (dropTask n s).nextTask = s.nextTask ∧
    (dropTask n s).groups = s.groups ∧ (dropTask n s).prov = s.prov ∧ (dropTask n s).drain = s.drain ∧ (dropTask n
    s).eng = s.eng ∧ (dropTask n s).tck = s.tck ∧ (dropTask n s).crm = s.crm ∧ (dropTask n s).hbm = s.hbm ∧ (dropTask n
    s).ecc = s.ecc ∧ (dropTask n s).ls = s.ls ∧ (dropTask n s).upset = s.upset ∧ (dropTask n s).seedBad = s.seedBad ∧
    (dropTask n s).rngBlocks = s.rngBlocks ∧ (dropTask n s).cross = s.cross ∧ (dropTask n s).cw = s.cw ∧ (dropTask n
    s).actJob = s.actJob ∧ (dropTask n s).lpc = s.lpc ∧ (dropTask n s).ldl = s.ldl ∧ (dropTask n s).rel = s.rel ∧
    (dropTask n s).arr = s.arr ∧ (dropTask n s).act = s.act ∧ (dropTask n s).tables = s.tables ∧ (dropTask n s).layers =
    s.layers ∧ (dropTask n s).skm = s.skm ∧ (dropTask n s).lnk = s.lnk ∧ (dropTask n s).keys = s.keys ∧ (dropTask n
    s).pwr = s.pwr ∧ (dropTask n s).clk = s.clk ∧ (dropTask n s).mtr = s.mtr ∧ (dropTask n s).mgt = s.mgt ∧ (dropTask n
    s).sec = s.sec ∧ (dropTask n s).sys = s.sys ∧ (dropTask n s).free = s.free := by
  exact ⟨rfl, rfl, rfl, rfl, rfl, rfl, rfl, rfl, rfl, rfl, rfl, rfl, rfl, rfl, rfl, rfl, rfl, rfl, rfl, rfl, rfl, rfl, rfl, rfl, rfl, rfl, rfl, rfl, rfl, rfl, rfl, rfl, rfl, rfl, rfl, rfl, rfl, rfl, rfl, rfl, rfl, rfl, rfl, rfl, rfl⟩

@[simp] theorem setQueue_fields (q : Nat) (v : Queue) (s : State) :
    (setQueue q v s).pending = s.pending ∧ (setQueue q v s).resp = s.resp ∧ (setQueue q v s).out = s.out ∧ (setQueue q v
    s).regs = s.regs ∧ (setQueue q v s).cnt = s.cnt ∧ (setQueue q v s).mem = s.mem ∧ (setQueue q v s).poison = s.poison
    ∧ (setQueue q v s).epochs = s.epochs ∧ (setQueue q v s).blk = s.blk ∧ (setQueue q v s).queues = mput s.queues q v ∧
    (setQueue q v s).pools = s.pools ∧ (setQueue q v s).tasks = s.tasks ∧ (setQueue q v s).nextTask = s.nextTask ∧
    (setQueue q v s).groups = s.groups ∧ (setQueue q v s).prov = s.prov ∧ (setQueue q v s).drain = s.drain ∧ (setQueue q
    v s).eng = s.eng ∧ (setQueue q v s).tck = s.tck ∧ (setQueue q v s).crm = s.crm ∧ (setQueue q v s).hbm = s.hbm ∧
    (setQueue q v s).ecc = s.ecc ∧ (setQueue q v s).ls = s.ls ∧ (setQueue q v s).upset = s.upset ∧ (setQueue q v
    s).seedBad = s.seedBad ∧ (setQueue q v s).rngBlocks = s.rngBlocks ∧ (setQueue q v s).cross = s.cross ∧ (setQueue q v
    s).cw = s.cw ∧ (setQueue q v s).actJob = s.actJob ∧ (setQueue q v s).lpc = s.lpc ∧ (setQueue q v s).ldl = s.ldl ∧
    (setQueue q v s).rel = s.rel ∧ (setQueue q v s).arr = s.arr ∧ (setQueue q v s).act = s.act ∧ (setQueue q v s).tables
    = s.tables ∧ (setQueue q v s).layers = s.layers ∧ (setQueue q v s).skm = s.skm ∧ (setQueue q v s).lnk = s.lnk ∧
    (setQueue q v s).keys = s.keys ∧ (setQueue q v s).pwr = s.pwr ∧ (setQueue q v s).clk = s.clk ∧ (setQueue q v s).mtr
    = s.mtr ∧ (setQueue q v s).mgt = s.mgt ∧ (setQueue q v s).sec = s.sec ∧ (setQueue q v s).sys = s.sys ∧ (setQueue q v
    s).free = s.free := by
  exact ⟨rfl, rfl, rfl, rfl, rfl, rfl, rfl, rfl, rfl, rfl, rfl, rfl, rfl, rfl, rfl, rfl, rfl, rfl, rfl, rfl, rfl, rfl, rfl, rfl, rfl, rfl, rfl, rfl, rfl, rfl, rfl, rfl, rfl, rfl, rfl, rfl, rfl, rfl, rfl, rfl, rfl, rfl, rfl, rfl, rfl⟩

@[simp] theorem setPool_fields (p : Nat) (v : Pool) (s : State) :
    (setPool p v s).pending = s.pending ∧ (setPool p v s).resp = s.resp ∧ (setPool p v s).out = s.out ∧ (setPool p v
    s).regs = s.regs ∧ (setPool p v s).cnt = s.cnt ∧ (setPool p v s).mem = s.mem ∧ (setPool p v s).poison = s.poison ∧
    (setPool p v s).epochs = s.epochs ∧ (setPool p v s).blk = s.blk ∧ (setPool p v s).queues = s.queues ∧ (setPool p v
    s).pools = mput s.pools p v ∧ (setPool p v s).tasks = s.tasks ∧ (setPool p v s).nextTask = s.nextTask ∧ (setPool p v
    s).groups = s.groups ∧ (setPool p v s).prov = s.prov ∧ (setPool p v s).drain = s.drain ∧ (setPool p v s).eng = s.eng
    ∧ (setPool p v s).tck = s.tck ∧ (setPool p v s).crm = s.crm ∧ (setPool p v s).hbm = s.hbm ∧ (setPool p v s).ecc =
    s.ecc ∧ (setPool p v s).ls = s.ls ∧ (setPool p v s).upset = s.upset ∧ (setPool p v s).seedBad = s.seedBad ∧ (setPool
    p v s).rngBlocks = s.rngBlocks ∧ (setPool p v s).cross = s.cross ∧ (setPool p v s).cw = s.cw ∧ (setPool p v
    s).actJob = s.actJob ∧ (setPool p v s).lpc = s.lpc ∧ (setPool p v s).ldl = s.ldl ∧ (setPool p v s).rel = s.rel ∧
    (setPool p v s).arr = s.arr ∧ (setPool p v s).act = s.act ∧ (setPool p v s).tables = s.tables ∧ (setPool p v
    s).layers = s.layers ∧ (setPool p v s).skm = s.skm ∧ (setPool p v s).lnk = s.lnk ∧ (setPool p v s).keys = s.keys ∧
    (setPool p v s).pwr = s.pwr ∧ (setPool p v s).clk = s.clk ∧ (setPool p v s).mtr = s.mtr ∧ (setPool p v s).mgt =
    s.mgt ∧ (setPool p v s).sec = s.sec ∧ (setPool p v s).sys = s.sys ∧ (setPool p v s).free = s.free := by
  exact ⟨rfl, rfl, rfl, rfl, rfl, rfl, rfl, rfl, rfl, rfl, rfl, rfl, rfl, rfl, rfl, rfl, rfl, rfl, rfl, rfl, rfl, rfl, rfl, rfl, rfl, rfl, rfl, rfl, rfl, rfl, rfl, rfl, rfl, rfl, rfl, rfl, rfl, rfl, rfl, rfl, rfl, rfl, rfl, rfl, rfl⟩

@[simp] theorem setLdl_fields (n : Nat) (v : Ldl) (s : State) :
    (setLdl n v s).pending = s.pending ∧ (setLdl n v s).resp = s.resp ∧ (setLdl n v s).out = s.out ∧ (setLdl n v s).regs
    = s.regs ∧ (setLdl n v s).cnt = s.cnt ∧ (setLdl n v s).mem = s.mem ∧ (setLdl n v s).poison = s.poison ∧ (setLdl n v
    s).epochs = s.epochs ∧ (setLdl n v s).blk = s.blk ∧ (setLdl n v s).queues = s.queues ∧ (setLdl n v s).pools =
    s.pools ∧ (setLdl n v s).tasks = s.tasks ∧ (setLdl n v s).nextTask = s.nextTask ∧ (setLdl n v s).groups = s.groups ∧
    (setLdl n v s).prov = s.prov ∧ (setLdl n v s).drain = s.drain ∧ (setLdl n v s).eng = s.eng ∧ (setLdl n v s).tck =
    s.tck ∧ (setLdl n v s).crm = s.crm ∧ (setLdl n v s).hbm = s.hbm ∧ (setLdl n v s).ecc = s.ecc ∧ (setLdl n v s).ls =
    s.ls ∧ (setLdl n v s).upset = s.upset ∧ (setLdl n v s).seedBad = s.seedBad ∧ (setLdl n v s).rngBlocks = s.rngBlocks
    ∧ (setLdl n v s).cross = s.cross ∧ (setLdl n v s).cw = s.cw ∧ (setLdl n v s).actJob = s.actJob ∧ (setLdl n v s).lpc
    = s.lpc ∧ (setLdl n v s).ldl = mput s.ldl n v ∧ (setLdl n v s).rel = s.rel ∧ (setLdl n v s).arr = s.arr ∧ (setLdl n
    v s).act = s.act ∧ (setLdl n v s).tables = s.tables ∧ (setLdl n v s).layers = s.layers ∧ (setLdl n v s).skm = s.skm
    ∧ (setLdl n v s).lnk = s.lnk ∧ (setLdl n v s).keys = s.keys ∧ (setLdl n v s).pwr = s.pwr ∧ (setLdl n v s).clk =
    s.clk ∧ (setLdl n v s).mtr = s.mtr ∧ (setLdl n v s).mgt = s.mgt ∧ (setLdl n v s).sec = s.sec ∧ (setLdl n v s).sys =
    s.sys ∧ (setLdl n v s).free = s.free := by
  exact ⟨rfl, rfl, rfl, rfl, rfl, rfl, rfl, rfl, rfl, rfl, rfl, rfl, rfl, rfl, rfl, rfl, rfl, rfl, rfl, rfl, rfl, rfl, rfl, rfl, rfl, rfl, rfl, rfl, rfl, rfl, rfl, rfl, rfl, rfl, rfl, rfl, rfl, rfl, rfl, rfl, rfl, rfl, rfl, rfl, rfl⟩

@[simp] theorem answer_fields (v : Word) (s : State) :
    (answer v s).pending = s.pending ∧ (answer v s).resp = v ∧ (answer v s).out = s.out ∧ (answer v s).regs = s.regs ∧
    (answer v s).cnt = s.cnt ∧ (answer v s).mem = s.mem ∧ (answer v s).poison = s.poison ∧ (answer v s).epochs =
    s.epochs ∧ (answer v s).blk = s.blk ∧ (answer v s).queues = s.queues ∧ (answer v s).pools = s.pools ∧ (answer v
    s).tasks = s.tasks ∧ (answer v s).nextTask = s.nextTask ∧ (answer v s).groups = s.groups ∧ (answer v s).prov =
    s.prov ∧ (answer v s).drain = s.drain ∧ (answer v s).eng = s.eng ∧ (answer v s).tck = s.tck ∧ (answer v s).crm =
    s.crm ∧ (answer v s).hbm = s.hbm ∧ (answer v s).ecc = s.ecc ∧ (answer v s).ls = s.ls ∧ (answer v s).upset = s.upset
    ∧ (answer v s).seedBad = s.seedBad ∧ (answer v s).rngBlocks = s.rngBlocks ∧ (answer v s).cross = s.cross ∧ (answer v
    s).cw = s.cw ∧ (answer v s).actJob = s.actJob ∧ (answer v s).lpc = s.lpc ∧ (answer v s).ldl = s.ldl ∧ (answer v
    s).rel = s.rel ∧ (answer v s).arr = s.arr ∧ (answer v s).act = s.act ∧ (answer v s).tables = s.tables ∧ (answer v
    s).layers = s.layers ∧ (answer v s).skm = s.skm ∧ (answer v s).lnk = s.lnk ∧ (answer v s).keys = s.keys ∧ (answer v
    s).pwr = s.pwr ∧ (answer v s).clk = s.clk ∧ (answer v s).mtr = s.mtr ∧ (answer v s).mgt = s.mgt ∧ (answer v s).sec =
    s.sec ∧ (answer v s).sys = s.sys ∧ (answer v s).free = s.free := by
  exact ⟨rfl, rfl, rfl, rfl, rfl, rfl, rfl, rfl, rfl, rfl, rfl, rfl, rfl, rfl, rfl, rfl, rfl, rfl, rfl, rfl, rfl, rfl, rfl, rfl, rfl, rfl, rfl, rfl, rfl, rfl, rfl, rfl, rfl, rfl, rfl, rfl, rfl, rfl, rfl, rfl, rfl, rfl, rfl, rfl, rfl⟩

theorem mfind_mput {α : Type} (m : Map α) (k j : Nat) (v : α) :
    mfind (mput m k v) j = if j = k then some v else mfind m j := by
  induction m with
  | nil => simp [mput, mfind, eq_comm]
  | cons c m ih =>
    obtain ⟨i, w⟩ := c
    by_cases h1 : k < i
    · simp [mput, mfind, h1, eq_comm]
    · by_cases h2 : k = i
      · subst h2
        by_cases h3 : j = k
        · simp [mput, mfind, h3]
        · simp [mput, mfind, h3, Ne.symm h3]
      · by_cases h3 : j = k
        · subst h3
          simp [mput, mfind, h1, h2, ih, Ne.symm h2]
        · simp [mput, mfind, h1, h2, ih, h3]

@[simp] theorem mget_mput {α : Type} (m : Map α) (k j : Nat) (v d : α) :
    mget (mput m k v) j d = if j = k then v else mget m j d := by
  unfold mget
  rw [mfind_mput]
  split <;> rfl

@[simp] theorem mget_mmap {α : Type} (f : Nat → α → α) (m : Map α) (j : Nat) :
    mfind (mmap f m) j = (mfind m j).map (f j) := by
  induction m with
  | nil => rfl
  | cons c m ih =>
    obtain ⟨i, w⟩ := c
    by_cases h : i = j
    · subst h; simp [mmap, mfind]
    · simp only [mmap, List.map_cons, mfind, h, if_false]
      exact ih

@[simp] theorem getReg_setReg (page off page' off' : Nat) (v : Word) (s : State) :
    getReg (setReg page off v s) page' off' = if regKey page' off' = regKey page off then v else getReg s page' off' := by
  simp [getReg]

/-- Registers read the same in states with the same registers. -/
theorem getReg_congr {s t : State} (h : t.regs = s.regs) (page off : Nat) : getReg t page off = getReg s page off := by
  simp [getReg, h]

theorem getBlk_congr {s t : State} (h : t.blk = s.blk) (page : Nat) : getBlk t page = getBlk s page := by simp [getBlk, h]

theorem getQueue_congr {s t : State} (h : t.queues = s.queues) (q : Nat) : getQueue t q = getQueue s q := by
  simp [getQueue, h]

theorem findTask_congr {s t : State} (h : t.tasks = s.tasks) (id : Nat) : findTask t id = findTask s id := by
  simp [findTask, h]

@[simp] theorem getBlk_setBlk (page page' : Nat) (b : Blk) (s : State) :
    getBlk (setBlk page b s) page' = if firstPage page' = firstPage page then b else getBlk s page' := by simp [getBlk]

@[simp] theorem getHbm_setHbm (n m : Nat) (h : Hbm) (s : State) :
    getHbm (setHbm n h s) m = if m = n then h else getHbm s m := by simp [getHbm]

@[simp] theorem getEng_setEng (n m : Nat) (h : Eng) (s : State) :
    getEng (setEng n h s) m = if m = n then h else getEng s m := by simp [getEng]

@[simp] theorem getQueue_setQueue (n m : Nat) (h : Queue) (s : State) :
    getQueue (setQueue n h s) m = if m = n then h else getQueue s m := by simp [getQueue]

@[simp] theorem getPool_setPool (n m : Nat) (h : Pool) (s : State) :
    getPool (setPool n h s) m = if m = n then h else getPool s m := by simp [getPool]

@[simp] theorem getLdl_setLdl (n m : Nat) (h : Ldl) (s : State) :
    getLdl (setLdl n h s) m = if m = n then h else getLdl s m := by simp [getLdl]

theorem find_map_put (l : List Task) (t u : Task) (h : l.find? (fun x => x.id == t.id) = some u) :
    (l.map (fun x => if x.id = t.id then t else x)).find? (fun x => x.id == t.id) = some t := by
  induction l with
  | nil => simp at h
  | cons x l ih =>
    by_cases e : x.id = t.id
    · simp [e]
    · simp only [List.find?_cons, beq_eq_false_iff_ne.mpr e] at h
      simp [e, ih h]

/-- A task replaced is found as replaced. -/
theorem findTask_putTask (s : State) (t u : Task) (h : findTask s t.id = some u) : findTask (putTask t s) t.id = some t :=
  find_map_put s.tasks t u h

/-- A dropped task is not found. -/
theorem findTask_dropTask (s : State) (n : Nat) : findTask (dropTask n s) n = none := by
  simp [findTask, dropTask]

/-- A register write that meets no obstacle takes its effect with the value as written. -/
theorem regGuard_admits {who : Initiator} {page off : Nat} {v : Word} {s : State} {k : Word → State → State}
    (h : s.admits who page off v = true) : regGuard who page off v k s = k v s := by
  unfold State.admits at h
  split at h
  · rename_i b n m r hp hf
    simp only [Bool.and_eq_true, Bool.or_eq_true, decide_eq_true_eq, Bool.not_eq_eq_eq_not, Bool.not_true,
      beq_iff_eq] at h
    obtain ⟨⟨hr, hb⟩, hv⟩ := h
    have hw : v &&& r.defined = v := by
      have h : v = (v &&& r.defined) ||| (v &&& ~~~ r.defined) := by
        ext i hi
        simp
        cases v[i] <;> cases r.defined[i] <;> rfl
      rw [hv] at h
      simpa using h.symm
    have h0 : ¬ (0x200 ≤ off ∧ mayReach who b = false) := by
      rintro ⟨h, g⟩
      rcases hr with hr | hr
      · omega
      · rw [g] at hr; cases hr.1
    have h1 : ¬ (0x200 ≤ off ∧ (getBlk s page).mappedOut = true) := by
      rintro ⟨h, g⟩
      rcases hr with hr | hr
      · omega
      · rw [g] at hr; cases hr.2
    unfold regGuard
    rw [hp]
    simp [h0, h1, hb, hf, hv, hw]
  · cases h

end Sys2Proof.Machine
end

