-- ==== Sys2Proof/Laws/Word.lean ====
section
/-! SUPPORT. Bit fields: what reading a field or a bit gives after writing one. -/

set_option Elab.async false

namespace Sys2Proof

theorem bit_mask (hi lo i : Nat) : bit (mask hi lo) i = decide (i < 64 ∧ lo ≤ i ∧ i < hi + 1) := by
  unfold bit mask
  rw [BitVec.getLsbD_ofNat, Nat.testBit_mul_two_pow, Nat.testBit_two_pow_sub_one]
  by_cases h1 : i < 64 <;> by_cases h2 : lo ≤ i <;> simp [h1, h2]
  omega

theorem bit_setFld (w : Word) (hi lo v i : Nat) : bit (setFld w hi lo v) i =
    if i < 64 ∧ lo ≤ i ∧ i < hi + 1 then v.testBit (i - lo) else bit w i := by
  have hm := bit_mask hi lo i
  unfold setFld bit at *
  rw [BitVec.getLsbD_or, BitVec.getLsbD_and, BitVec.getLsbD_not, hm, BitVec.getLsbD_ofNat, Nat.testBit_mul_two_pow,
    Nat.testBit_mod_two_pow]
  by_cases h1 : i < 64
  · by_cases h2 : lo ≤ i
    · by_cases h3 : i < hi + 1
      · have : i - lo < hi + 1 - lo := by omega
        simp [h1, h2, h3, this]
      · have : ¬ i - lo < hi + 1 - lo := by omega
        simp [h1, h2, h3, this]
    · simp [h1, h2]
  · have hw : w.getLsbD i = false := BitVec.getLsbD_of_ge w i (by omega)
    simp [h1, hw]

@[simp] theorem bit_setBit (w : Word) (i : Nat) (b : Bool) (hi : i < 64) : bit (setBit w i b) i = b := by
  unfold setBit
  rw [bit_setFld]
  cases b <;> simp [hi, b2n]

theorem bit_setBit_ne (w : Word) (i j : Nat) (b : Bool) (h : j ≠ i) : bit (setBit w i b) j = bit w j := by
  unfold setBit
  rw [bit_setFld, if_neg (by omega)]

theorem testBit_fld (w : Word) (hi lo i : Nat) : (fld w hi lo).testBit i = (decide (i < hi + 1 - lo) && bit w (i + lo)) := by
  unfold fld nfld bit
  rw [Nat.testBit_mod_two_pow, Nat.testBit_div_two_pow]
  rfl

/-- A field reads as written. -/
theorem fld_setFld (w : Word) (hi lo v : Nat) (hh : hi < 64) : fld (setFld w hi lo v) hi lo = v % 2 ^ (hi + 1 - lo) := by
  apply Nat.eq_of_testBit_eq
  intro i
  rw [testBit_fld, bit_setFld, Nat.testBit_mod_two_pow]
  by_cases h : i < hi + 1 - lo
  · have : i + lo < 64 ∧ lo ≤ i + lo ∧ i + lo < hi + 1 := by omega
    simp [h, this]
  · simp [h]

/-- A field that another does not meet reads as before. -/
theorem fld_setFld_ne (w : Word) (hi lo v a b : Nat) (h : a < lo ∨ hi < b) : fld (setFld w hi lo v) a b = fld w a b := by
  apply Nat.eq_of_testBit_eq
  intro i
  rw [testBit_fld, bit_setFld, testBit_fld]
  by_cases h1 : i < a + 1 - b
  · rw [if_neg (by omega)]
  · simp [h1]

theorem fld_lt (w : Word) (hi lo : Nat) : fld w hi lo < 2 ^ (hi + 1 - lo) := Nat.mod_lt _ (Nat.two_pow_pos _)

end Sys2Proof
end

