-- ==== Sys2Proof/Laws/Ops.lean ====
section
/-! SUPPORT. What the shared operations leave in the registers they write: errors, interrupts, events, counters. -/

set_option Elab.async false

namespace Sys2Proof.Machine

theorem deliver_regs (target core vector : Nat) (s : State) : (deliver target core vector s).regs = s.regs :=
  (deliver_keeps target core vector s).1 .regs (by decide)

theorem getReg_intSet (page i p o : Nat) (s : State) : getReg (intSet page i s) p o =
    if regKey p o = regKey page 0x38 then setBit (getReg s page 0x38) i true else getReg s p o := by
  unfold intSet
  dsimp only
  split
  · rw [getReg_congr (deliver_regs ..)]; simp
  · simp

/-- The three registers of a page that an error writes are different. -/
theorem errKeys (page : Nat) : regKey page 0x20 ≠ regKey page 0x28 ∧ regKey page 0x20 ≠ regKey page 0x30 ∧
    regKey page 0x20 ≠ regKey page 0x38 ∧ regKey page 0x30 ≠ regKey page 0x38 ∧ regKey page 0x28 ≠ regKey page 0x38 ∧
    regKey page 0x28 ≠ regKey page 0x30 := by
  unfold regKey
  omega

/-- What an error leaves in the registers (R28). -/
theorem getReg_raise (page i off p o : Nat) (s : State) : getReg (raise page i off s) p o =
    if regKey p o = regKey page 0x20 then setBit (getReg s page 0x20) i true
    else if bit (getReg s page 0x28) i = true then getReg s p o
    else if regKey p o = regKey page 0x38 then setBit (getReg s page 0x38) 0 true
    else if regKey p o = regKey page 0x30 ∧ bit (getReg s page 0x30) 8 = false then
      word (i + 256 + off * 2 ^ 16 + tickLo s * 2 ^ 32)
    else getReg s p o := by
  obtain ⟨_, h1, h2, h3, _, _⟩ := errKeys page
  have n1 := Ne.symm h1
  have n2 := Ne.symm h2
  have n3 := Ne.symm h3
  unfold raise
  dsimp only
  by_cases hm : bit (getReg s page 0x28) i = true
  · rw [if_pos hm]
    simp [hm]
  · rw [if_neg hm, getReg_intSet]
    by_cases hf : bit (getReg s page 0x30) 8 = true
    · have : bit (getReg (setReg page 0x20 (setBit (getReg s page 0x20) i true) s) page 0x30) 8 = true := by
        simpa [n1] using hf
      rw [if_pos this]
      by_cases k : regKey p o = regKey page 0x20
      · have : regKey p o ≠ regKey page 0x38 := by rw [k]; exact h2
        simp [k, h2]
      · simp [k, hm, hf, n2]
    · have : ¬ bit (getReg (setReg page 0x20 (setBit (getReg s page 0x20) i true) s) page 0x30) 8 = true := by
        simpa [n1] using hf
      rw [if_neg this]
      by_cases k : regKey p o = regKey page 0x20
      · simp [k, h1, h2]
      · by_cases k2 : regKey p o = regKey page 0x38
        · simp [k2, hm, n2, n3]
        · by_cases k3 : regKey p o = regKey page 0x30
          · simp [k3, hm, hf, n1, h3, tickLo]
          · simp [k, k2, k3, hm]

end Sys2Proof.Machine
end

