-- ==== Sys2Proof/Machine/View.lean ====
section
/-! DEFINITION. What every register reads as (R25-R35 and the register tables). The table has no row for a plain read;
`readReg` is what such a read would show, and `readAccess` the read with its side effects (R8, R25, R29, R31). -/

namespace Sys2Proof.Machine

/-- A word from fields, each a value and its lowest bit. -/
def packed (fs : List (Nat × Nat)) : Word := word ((fs.map (fun x => x.1 * 2 ^ x.2)).sum)

/-- The number of truth values at successive bits. -/
def bitsAt (lo : Nat) (bs : List Bool) : Nat := ((bs.zipIdx).map (fun x => b2n x.1 * 2 ^ (lo + x.2))).sum

/-- The block-specific part of BLK_CAP (R96, R158-R160, R187, R216, R245, R246, R283, R337, R338). -/
def capOf : Block → List (Nat × Nat)
  | .arr => [(512, 16), (4, 32), (64, 36)]
  | .chn => [(64, 16), (8, 24), (4096, 32)]
  | .skm => [(4096, 16), (16384, 32)]
  | .rng => [(256, 16), (10, 32)]
  | .tck => [(32, 16), (256, 24), (4, 36)]
  | .ldl => [(16, 16), (8192, 24), (64, 40)]
  | .crm => [(16, 16), (16, 24), (4096, 32)]
  | .hbm => [(64, 16), (16384, 24), (256, 40)]
  | .lnk => [(8, 16), (1024, 24), (256, 40)]
  | .pwr => [(48, 16), (25, 24)]
  | .clk => [(27, 16)]
  | _ => []

/-- BLK_STS (Table 1.10), the same on every page of an instance (R27). -/
def blkSts (s : State) (page : Nat) : Word :=
  let b := getBlk s page
  word (bitsAt 0 [enAck s page, b.rstBusy, work s page, b.mappedOut, b.suspect])

/-- A head register (Tables 1.6-1.14). -/
def readHead (s : State) (b : Block) (n sub page off : Nat) : Word :=
  if off = 0 then
    packed [((blockRow b).code, 0), (n, 16), (sub, 24), (if b = .sys then 0xB0 else Config.blockVersion (blockRow b).code % 256, 32)]
  else if off = 8 then packed ([((blockRow b).pages, 0), ((headAt page).counters, 8)] ++ capOf b)
  else if off = 0x10 then getReg s (firstPage page) 0x10
  else if off = 0x18 then blkSts s page
  else if 0x100 ≤ off then
    let i := (off - 0x100) / 8
    if i < (headAt page).counters then
      word (mget (if regBit s page 0x50 10 then s.tck.snap else s.cnt) (page * 32 + i) 0)
    else 0
  else getReg s page off

/-- The descriptor address of a task; 0 for none. -/
def addrOf (s : State) (id : Option Nat) : Nat := ((id.bind (findTask s)).map (·.addr)).getD 0

/-- The common queue block's registers at offset `r` of the group of queue `q` (Tables 7.2-7.4). -/
def readQueue (s : State) (page off q r : Nat) : Word :=
  let x := getQueue s q
  let n := regFld s (qPage q) (qOff q 0) 12 8
  if r = 0x10 then
    packed [(x.items.length, 0), (x.rsvd, 17), (b2n x.items.isEmpty, 34), (b2n (qFull s q), 35)]
  else if r = 0x18 then packed [(x.wr % 2 ^ (n + 1), 0), (x.rd % 2 ^ (n + 1), 32)]
  else if r = 0x30 then if q < 256 then 0 else (match x.items with | v :: _ => (v &&& mask 31 0) ||| word (2 ^ 63) | [] => 0)
  else if 0x20 ≤ r ∧ r < 0x30 then 0
  else getReg s page off

/-- Storage words of a packet that has not come in whole and that its receive queue holds already (R193, R259). -/
def partWords (s : State) (p : Nat) (resp : Bool) : Nat :=
  let x := getPort s p
  let k : Packet := { w0 := word (leNat (x.rx.take 8)), w1 := 0, w2 := 0, w3 := 0, body := [], tag := 0 }
  if k.isResp = resp ∧ regBit s (lp p 1) (rxOff resp 0) 0 = true ∧ x.held.all (fun h => h.isResp != resp) = true then
    min (x.rx.length / 64) (4096 - (x.ptrs resp).count)
  else 0

/-- The registers of a link receive queue: its items are packets of one to 65 storage words (R259, Table 9.12). The words of a
packet show as they are written, whole or not (R193). -/
def readPortQueue (s : State) (p page off : Nat) (resp : Bool) : Word :=
  let q := (getPort s p).ptrs resp
  let n := q.count + partWords s p resp
  let r := off % 64
  if r = 0x10 then packed [(n, 0), (b2n (n == 0), 34), (b2n (decide (4096 ≤ n)), 35)]
  else if r = 0x18 then packed [((q.wr + partWords s p resp) % 8192, 0), (q.rd % 8192, 32)]
  else if 0x20 ≤ r ∧ r < 0x38 then 0
  else getReg s page off

/-! ### Block by block -/

def readSys (s : State) (sub page off : Nat) : Word :=
  if sub = 0 then
    if off = 0x208 then packed [(s.sys.phase, 0), (b2n s.sys.upperOk, 4)]
    else if off = 0x218 then packed [(s.sys.cores, 0), (s.sys.coresOut, 16)]
    else getReg s page off
  else if 0x8000 ≤ off then readQueue s page off (256 + (sub - 2) * 512 + (off - 0x8000) / 64) (off % 64)
  else
    let p := (off - 0x1000) / 32
    if off % 32 = 8 then getReg s page off ||| packed [(poolCount s p - (getPool s p).alloc.length, 40)]
    else if off % 32 = 0x10 then packed []
    else getReg s page off

def readTck (s : State) (sub page off : Nat) : Word :=
  let t := s.tck
  if sub = 1 then (if 0x4000 ≤ off then readQueue s page off ((off - 0x4000) / 64) (off % 64) else getReg s page off)
  else if off = 0x210 then word t.num
  else if off = 0x220 then packed [(t.align, 0), (t.missed % 256, 8), ((t.offset % 65536).toNat, 16)]
  else if off = 0x228 then packed [(t.mclk, 0), (t.fclk, 16)]
  else if off = 0x230 then packed [(budgetOf s t.mclk % 2 ^ 32, 0), (budgetOf s t.fclk % 2 ^ 32, 32)]
  else if off = 0x248 then packed [(b2n t.abortBusy, 0), (t.abortResp, 1)]
  else if 0x1000 ≤ off then
    let j := getSlot s ((off - 0x1000) / 16)
    if off % 16 = 0 then j.w0
    else packed [(bitsAt 0 [j.active, j.closing], 0), (j.mapAck, 2), (b2n j.noMap, 4), (j.overruns, 32)]
  else getReg s page off

/-- The engine of unit `q` of an array in its present mode; none for a unit that does not exist in whole mode. -/
def unitOn (s : State) (n q : Nat) : Option Nat := if unitIn s n q then some (unitEng s n q) else none

/-- The column group of the array that column group `g` of Table 3.14 is: in quadrant mode the groups of the left quadrants
come before those of the right (R70). -/
def colGroup (s : State) (n g : Nat) : Nat := if quadMode s n then g / 8 % 2 * 8 + g % 8 else g

/-- RUN_POS and RUN_BATCH of a unit (Table 3.13): the next row, K tile, M block, N tile; and the batch. During a suspension drain
they are the saved ones. -/
def runPos (s : State) (e : Nat) : Word × Word :=
  let g := getEng s e
  match (if g.draining then g.ctx.getLast? else g.running).bind (findTask s) with
  | none => (0, 0)
  | some t =>
    let p := place t t.pos
    (packed [(p.2.2.2 % 65536, 0), (p.2.2.1 % 65536, 16), (p.2.1 % 65536, 32), (p.1 % nTiles t % 65536, 48)],
     packed [(p.1 / nTiles t % 2 ^ 32, 0)])

def readArr (s : State) (n sub page off : Nat) : Word :=
  let i := (off - 0x200) / 8
  let unitBits (f : Nat → Nat) (w : Nat) : Nat := ((List.range 4).map (fun q => f q * 2 ^ (w * q))).sum
  let onUnit (f : Nat → Nat) (q : Nat) : Nat := ((unitOn s n q).map f).getD 0
  if sub = 0 then
    if off = 0x200 then packed [(regFld s page 0x200 0 0, 0), (b2n (quadMode s n), 1)]
    else if off = 0x208 then
      let us := (List.range 4).map (fun q => if unitIn s n q then getUnit s n q else {})
      packed [(if quadMode s n then regFld s page 0x208 7 4 else regFld s page 0x208 4 4, 4),
              (bitsAt 0 (us.map (fun u => u.ready && u.armed)), 8), (bitsAt 0 (us.map (·.front)), 12)]
    else if off = 0x210 then
      packed [(unitBits (onUnit (fun e => let g := getEng s e
                b2n g.started + b2n g.further.isSome * 2 + g.ctx.length % 8 * 4)) 16, 0)]
    else getReg s page off
  else if sub = 1 then
    if off < 0x220 then word (onUnit (fun e => addrOf s (getEng s e).running) (i % 4))
    else if off < 0x240 then ((unitOn s n (i % 4)).map (fun e => (runPos s e).1)).getD 0
    else if off < 0x260 then ((unitOn s n (i % 4)).map (fun e => (runPos s e).2)).getD 0
    else
      let c := (off - 0x300) / 8
      word (onUnit (fun e => addrOf s (getEng s e).ctx[c % 4]?) (c / 4))
  else if sub = 2 ∧ off = 0x208 then
    packed [(((getArr s n).bands.eraseDups.map (2 ^ ·)).sum, 0), (((getArr s n).cols.eraseDups.map (2 ^ ·)).sum, 32)]
  else if sub = 3 ∧ off = 0x200 then
    packed [((((getArr s n).cols.map (colGroup s n)).eraseDups.map (2 ^ ·)).sum, 0),
            (unitBits (onUnit (fun e => b2n (s.tasks.any (fun t => t.eng == e && !t.blocks.isEmpty)))) 1, 16)]
  else if sub = 5 ∧ off = 0x208 then
    packed [(unitBits (fun q => if unitIn s n q then (getUnit s n q).step else 0) 8, 0)]
  else if sub = 6 ∧ 0x1000 ≤ off then
    if work s page then 0 else
    let w := (off - 0x1000) / 8
    packed ((List.range 4).map (fun k => (getCell s n (bankSel s n) (cellAt false 0 (bankRow s n) (4 * w + k)), 16 * k)))
  else if sub = 7 ∧ 0x1000 ≤ off then
    if work s page then 0 else
    let open' := Config.openReg (page * 65536 + off + regFld s page 0x200 14 0 * 2 ^ 32) s.free
    let c := regFld s page 0x200 3 0
    let row := (((unitOn s n (c / 4)).bind (fun e => (getEng s e).ctx[c % 4]?)).bind (findTask s)).map
      (fun t => mget t.rows (regFld s page 0x200 14 4) [])
    let lane (j d : Nat) : Nat := ((row.bind (fun r => r[j]?)).map (·.toNat)).getD d
    packed [(lane ((off - 0x1000) / 4) (fld open' 31 0), 0), (lane ((off - 0x1000) / 4 + 1) (fld open' 63 32), 32)]
  else getReg s page off

def readChn (s : State) (sub page off : Nat) : Word :=
  let g := getEng s 0x30
  let posOf (id : Option Nat) : Nat := ((id.bind (findTask s)).map (fun t => t.pos * granParams t)).getD 0
  if sub = 0 then
    if off = 0x220 then packed [(bitsAt 0 [g.running.isSome, g.further.isSome], 0), (g.ctx.length, 2)]
    else if off = 0x228 then word (addrOf s g.running)
    else if off = 0x230 then word (posOf g.running)
    else getReg s page off
  else if sub = 1 then
    let i := (off - 0x200) / 8
    if i < 8 then word (addrOf s g.ctx[i]?) else word (posOf g.ctx[i - 8]?)
  else
    let x := mget s.layers ((sub - 2) * 2048 + (off - 0x1000) / 16) {}
    if off % 16 = 0 then x.w0 else x.w1

def readSkm (s : State) (sub page off : Nat) : Word :=
  let x := getEnt s (entSel s)
  if sub = 0 then
    if off = 0x208 then word (b2n s.skm.busy)
    else if off = 0x218 then x.cfg
    else if off = 0x220 then x.param
    else if off = 0x228 then x.st
    else if off = 0x1080 then word ((x.hist.getD 0 {}).count)
    else if off = 0x1088 then packed [(x.pend.amax, 0), (x.pend.under, 32)]
    else if off = 0x1090 then packed [(x.pend.count, 0), (bitsAt 0 [x.pend.ovf, x.pend.nonfin], 48)]
    else if 0x1000 ≤ off then
      let h := x.hist.getD ((off - 0x1000) / 8) {}
      packed [(h.amax, 0), (h.under, 32)]
    else getReg s page off
  else
    let y := mget s.skm.binds (bindSel s) (0, 0)
    if off = 0x210 then y.1 else if off = 0x218 then y.2 else getReg s page off

/-- A Ladle channel's register `r`: from the task in task mode, from what was written in direct mode (Table 7.8). -/
def readChan (s : State) (n c r : Nat) (shadow : Bool) : Word :=
  let g := getEng s (0x38 + n)
  if directMode s n then
    let x := mget (if shadow then (getLdl s n).shadow else (getLdl s n).active) c {}
    if r = 0 then x.src else if r = 8 then x.dst else if r = 0x10 then x.ctl
    else if r = 0x18 then packed [(x.status, 0), (b2n x.busy, 8)]
    else if r = 0x20 then
      (if x.busy && !shadow then ((s.tasks.find? (fun t => t.eng == 0x38 + n && t.direct == some c)).map (·.detail)).getD 0 else word x.pos)
    else if r = 0x30 then x.detail else 0
  else
    match (mfind (if shadow then g.shadow else g.active) c).bind (findTask s) with
    | none => 0
    | some t =>
      if r = 0 then word (fld (t.sl0 0) 49 0) else if r = 8 then word (fld (t.sl0 1) 49 0)
      else if r = 0x10 then packed [(t.job, 0), (swapOf t, 16)]
      else if r = 0x18 then packed [(t.status, 0), (b2n (!shadow), 8)]
      else if r = 0x20 then t.detail
      else if r = 0x28 then word t.addr
      else if r = 0x30 then (if t.status = 3 ∨ t.status = 4 then t.fault else 0) else 0

def readLdl (s : State) (n sub page off : Nat) : Word :=
  let l := getLdl s n
  let g := getEng s (0x38 + n)
  let mine (ks : List ReqKind) : Nat :=
    (s.lnk.track.filter (fun x => ks.contains x.2.kind && (((findTask s x.2.owner).map (·.eng)).getD 0 == 0x38 + n))).length
  if sub = 0 then
    if off = 0x208 then
      packed [(b2n (g.running.isSome || l.serving.isSome), 0),
              (if directMode s n then l.serving.getD 0 else if g.running.isSome then g.served else 0, 4),
              (b2n (!g.ctx.isEmpty), 8), (b2n (l.recs.any (fun r => r.2.refetching)), 9)]
    else if off = 0x210 then
      let again := if l.recs.any (fun r => r.2.refetching) then (Config.openReg (page * 65536 + off) s.free).toNat % 8193 else 0
      packed [((mine [.moveRead, .readback] + b2n (awaiting s n).isSome + again) % 65536, 0), (mine [.moveWrite] % 65536, 16)]
    else if 0x1000 ≤ off then
      let r := (off - 0x1000) % 128
      readChan s n ((off - 0x1000) / 128) (r % 64) (decide (64 ≤ r))
    else getReg s page off
  else match mfind l.recs ((off - 0x1000) / 64) with
    | none => 0
    | some r =>
      let k := off % 64
      if k = 0 then word r.srcLo else if k = 8 then word r.srcHi else if k = 16 then word r.dstLo
      else if k = 24 then word r.dstHi
      else packed [(bitsAt 0 [true, r.changed, r.used], 0), (r.job, 16), (r.tick % 2 ^ 32, 32)]

/-- An adder slot's word (Table 10.9): of a bucket that is armed, with the commit point of its ARM task (R289, R311). -/
def slotWord (s : State) (adder i : Nat) : Word :=
  match mfind s.lnk.adders (adder * 4096 + i) with
  | none => 0
  | some a =>
    match findBuck s a.job a.bucket with
    | none => 0
    | some b =>
      if b.live = false then 0 else
      packed [(a.bucket, 0), ((slotOfJob s a.job).getD 0, 20), (b.op, 25),
              (bitsAt 0 [true, a.resc, a.prom], 28), (min a.count (2 ^ 32 - 1), 32)]

/-- GRAN_MAP of granule `g` of a slice (Table 8.6). -/
def granMap (s : State) (n g : Nat) : Word :=
  let r (cache : Bool) : Nat := b2n (!sliceIn s n && (cache || (mfind s.crm.copying n).isNone)) * 4
  match s.crm.hosting.find? (fun h => h.slice == n && h.granule == g) with
  | some h => packed [(3 + r false, 0), (h.ownerSlice, 8), (h.ownerGranule, 16), (b2n h.prov, 20)]
  | none => let role := if 14 ≤ g then 2 else if s.crm.normal ∧ g < s.crm.sp then 1 else 0
    word (role + r (role == 0))

def readCrm (s : State) (n page off : Nat) : Word :=
  if off = 0x200 then packed [(b2n s.crm.normal, 0), (bitsAt 1 [s.crm.ack, s.crm.busy], 0)]
  else if off = 0x220 then
    packed [(provSum (s.tasks.filter (fun t => t.spec && inFlight t)) % 2 ^ 25, 0), ((s.prov.length + s.drain.length) % 2 ^ 25, 32)]
  else if off < 0x220 then getReg s crm0 off
  else if off = 0x280 then
    packed [(cacheGran s n, 0), (bitsAt 4 [s.crm.hosting.any (fun h => h.slice == n), (mfind s.crm.copying n).isSome], 0)]
  else if off = 0x2A0 then word (mget s.crm.pos n 0)
  else if 0x8000 ≤ off then slotWord s n ((off - 0x8000) / 8)
  else if 0x1000 ≤ off then granMap s n ((off - 0x1000) / 8)
  else getReg s page off

/-- PC_STS of pseudo-channel `i` of stack `n` (Table 8.7). -/
def pcSts (s : State) (n i : Nat) : Word :=
  let p := 8 * i + n
  let h := getHbm s n
  let l := lpcOf s p
  let out := h.outPcs.contains i
  packed [(bitsAt 0 [l.isSome, l.isNone && !out, out, h.copyBusy && h.copySrc == i, pcTarget s p], 0), (l.getD 0, 8),
          (min (mget h.corrected i 0) (2 ^ 32 - 1), 32)]

def readHbm (s : State) (n sub page off : Nat) : Word :=
  let h := getHbm s n
  if sub = 0 then
    if off = 0x208 then packed [(h.state, 0), (bitsAt 3 [h.initFail, h.held], 0)]
    else if off = 0x220 then 0
    else if off = 0x228 then word (b2n h.tracked)
    else if off = 0x230 then getReg s (hp 0 0) 0x230
    else getReg s page off
  else if sub = 1 then
    if off = 0x208 then
      packed [(h.temp, 0), (h.therm, 8), (b2n (decide (1 ≤ h.therm)), 10), (throttle s n, 16), (h.maxTemp, 24)]
    else if off = 0x210 then word h.pwrThrot
    else getReg s page off
  else if sub = 2 then
    if off = 0x210 then packed [(h.copySrc, 0), (h.copyDst, 6), (b2n h.copyBusy, 15), (h.copyLines, 16)]
    else if 0x2000 ≤ off then word (lpcMap s ((off - 0x2000) / 8))
    else if 0x1000 ≤ off then pcSts s n ((off - 0x1000) / 8)
    else getReg s page off
  else
    if off = 0x210 then packed [(bitsAt 0 [h.marginBusy, h.marginDone], 0), (min h.errors (2 ^ 32 - 1), 32)]
    else if off = 0x218 then word h.bits.toNat
    else if 0x8000 ≤ off then slotWord s (64 + n) ((off - 0x8000) / 8)
    else getReg s page off

def readLnk (s : State) (p sub page off : Nat) : Word :=
  let x := getPort s p
  if sub = 0 then
    if off = 0x208 then
      packed [(x.state, 0), (b2n x.x4, 4), (x.good, 5), (bitsAt 13 [x.reversed, x.mirrored], 0), (x.polInv, 15),
              (x.peerDev, 23), (x.peerPort, 37), (b2n x.peerValid, 41)]
    else if off = 0x210 then x.laneMap
    else if off = 0x218 then word x.delay
    else getReg s page off
  else if sub = 1 then readPortQueue s p page off (decide (0x4040 ≤ off))
  else if sub = 2 then
    if off = 0x220 then word s.lnk.track.length else getReg s page off
  else if off = 0x230 then
    let on := s.tasks.filter (fun t => decide (0x80 ≤ t.eng) && t.phase == .dispatched)
    packed [((on.filter (·.parked)).length, 0), ((on.filter (fun t => !t.parked)).length, 16)]
  else if 0x1000 ≤ off ∧ off % 32 = 0x10 then word (mget s.lnk.lastDetached ((off - 0x1000) / 32) 0)
  else getReg s page off

/-- A point of a voltage table. -/
def ptWord (ps : List (Nat × Nat)) (i : Nat) : Word := match ps[i]? with | some x => packed [(x.1, 0), (x.2, 16)] | none => 0

def readPwr0 (s : State) (off : Nat) : Word :=
  let p := s.pwr
  if off = 0x208 then word p.ceil
  else if off = 0x228 then
    packed [(p.effM, 0), (p.effF, 16), (p.duty, 32), (p.mem, 40),
            (bitsAt 48 [p.capLimit, p.thermLimit, decide (3000 < p.mclk), p.rise.isSome, p.vt.isNone, p.atFloor], 0)]
  else if off = 0x230 then packed [(p.pEst % 65536, 0), (p.measured % 65536, 16), (p.k.toNat, 32)]
  else if off = 0x238 then packed [(p.vin % 65536, 0), (p.iin % 65536, 16)]
  else if off = 0x258 then
    let h := (hottest s).getD (0, 0)
    let i8 (x : Int) : Nat := (x % 256).toNat
    packed [(i8 h.2, 0), (h.1, 8), (i8 (p.inlet.getD 0), 16), (i8 (p.outlet.getD 0), 24), (b2n p.inletHigh, 32), (p.maxTj % 256, 40)]
  else if off = 0x260 then packed [(p.vt.getD 0 % 2 ^ 32, 0), (b2n p.vt.isSome, 32)]
  else getReg s pwr0 off

def readPwr1 (s : State) (off : Nat) : Word :=
  let m := s.mtr
  if 0x2000 ≤ off then
    let t := mget s.pwr.temps ((off - 0x2000) / 8) (256, 0)
    packed [(t.1 % 256, 0), (bitsAt 8 [decide (t.1 < 256 ∧ t.2 < 3), decide (3 ≤ t.2)], 0)]
  else if 0x1200 ≤ off then ptWord s.pwr.vtCore ((off - 0x1200) / 8)
  else if 0x1100 ≤ off then ptWord s.pwr.vtFab ((off - 0x1100) / 8)
  else if 0x1000 ≤ off then ptWord s.pwr.vtArr ((off - 0x1000) / 8)
  else if off = 0x200 then packed [(bitsAt 0 [m.valid, m.low, m.fault], 0), (m.samples % 2 ^ 32, 32)]
  else if off = 0x208 then word (m.mW % 2 ^ 32)
  else if off = 0x210 then word m.total
  else if off = 0x218 then word m.life
  else if off = 0x220 then packed [(m.calSeq % 2 ^ 32, 0), (s.sec.recalCount % 16, 32)]
  else if off = 0x228 then word m.overhead
  else if 0x280 ≤ off ∧ off < 0x380 then
    let i := (off - 0x280) / 8
    word (bitsAt 2 [m.runs.any (fun r => r.slot == i), (mfind m.staged i).isSome])
  else getReg s pwr1 off

def readClk (s : State) (page off : Nat) : Word :=
  let c := s.clk
  if off = 0x208 then packed [(bitsAt 0 [c.ref.stable, c.refLost, c.hold], 0), ((c.ref.dev % 65536).toNat, 16)]
  else if off = 0x210 then packed [((c.trim % 65536).toNat, 0), (regFld s page 0x210 17 16, 16)]
  else if off = 0x218 then packed [(c.kHz % 2 ^ 32, 0), (bitsAt 32 [c.trimLock, c.trimLimit], 0)]
  else if off = 0x220 then word (bitsAt 0 ((List.range 27).map (fun i => (mget c.plls i {}).stable)))
  else if off = 0x228 then packed [(s.pwr.effM, 0), (s.pwr.effF, 16), (s.pwr.cclk, 32)]
  else getReg s page off

def readTst (s : State) (sub page off : Nat) : Word :=
  let ts := s.rel.tests
  let due (l : List TestSt) : Nat := (l.filter (fun t => t.due && testsRun s t.eng)).length
  let past (l : List TestSt) : Nat := (l.filter (fun t => t.past && testsRun s t.eng)).length
  if sub = 0 then
    if off = 0x210 then packed [(s.rel.packs.length % 256, 0), ((s.rel.packs.map (·.tests.length)).sum % 65536, 8)]
    else if off = 0x220 then packed [(due ts, 0), (past ts, 32)]
    else getReg s page off
  else
    let mine := ts.filter (fun t => t.eng == (off - 0x1000) / 8)
    packed [(due mine % 65536, 0), (past mine % 65536, 16), ((s.rel.opMin - (mine.map (·.lastPass.getD 0)).foldl max 0) % 2 ^ 32, 32)]

def readCbl (s : State) (page off : Nat) : Word :=
  let r := s.rel
  if off = 0x238 then mapStsWord s
  else if off = 0x248 then
    packed [(usedOut s 0x10, 0), (usedOut s 0x11, 4), (usedOut s 0x20, 8), (usedOut s 0x30, 12), (usedOut s 1, 16), (usedOut s 0x40, 20)]
  else if off = 0x258 then packed [(b2n r.fqActive, 0), (r.fqCause, 8), (r.fqTick % 2 ^ 32, 32)]
  else if off = 0x268 then packed [(min r.emitted (2 ^ 32 - 1), 0), (min r.lost (2 ^ 32 - 1), 32)]
  else if off = 0x270 then word (r.opMin % 2 ^ 32)
  else if 0x1000 ≤ off then mapTabWord s ((off - 0x1000) / 8)
  else getReg s page off

/-- The MAC address of a management port: an octet, then the low 40 bits of CHIP_ID (R414). -/
def mgtMac (port : Nat) : Nat := (if port = 0 then 0x02 else 0x06) * 2 ^ 40 + Config.chipId.toNat % 2 ^ 40

def readMgt (s : State) (page off : Nat) : Word :=
  let x := s.sec
  if off = 0x208 then word (bitsAt 0 [s.mgt.link0, s.mgt.link1, s.mgt.fec0, s.mgt.fec1])
  else if off = 0x210 then word (mgtMac 0)
  else if off = 0x218 then word (mgtMac 1)
  else if off = 0x300 then packed [(s.sys.slot, 0), (shortBits s, 8)]
  else if off = 0x410 then packed [(bitsAt 0 [x.door.isSome, x.done], 0), (x.status, 8)]
  else if off = 0x418 then packed [(b2n x.owned, 0), (x.epoch % 256, 8), (x.fwSvn % 64, 16), (x.awlSvn % 64, 24)]
  else if off = 0x420 then packed [(bitsAt 0 [x.half, x.compacting, x.tamper], 0), (x.used / 1024 % 2 ^ 24, 8), (x.gen % 2 ^ 32, 32)]
  else getReg s page off

/-- A register beyond the head, where one is defined (R30). -/
def readBody (s : State) (b : Block) (n sub page off : Nat) : Word :=
  match b with
  | .sys => readSys s sub page off
  | .tck => readTck s sub page off
  | .arr => readArr s n sub page off
  | .chn => readChn s sub page off
  | .skm => readSkm s sub page off
  | .ldl => readLdl s n sub page off
  | .crm => readCrm s n page off
  | .hbm => readHbm s n sub page off
  | .lnk => readLnk s n sub page off
  | .pwr => if sub = 0 then readPwr0 s off else readPwr1 s off
  | .clk => readClk s page off
  | .tst => readTst s sub page off
  | .stn => if off = 0x218 then word (b2n s.rel.capHeld) else getReg s page off
  | .cbl => readCbl s page off
  | .mgt => readMgt s page off
  | .ve | .rng | .sec | .nvs => getReg s page off

/-- What the register at an offset of a page reads as, for an initiator that may reach it: all ones on an unassigned page
(R25), zero where no register is defined (R30) and, from 0x200 up, during a soft reset (R31). -/
def readReg (s : State) (page off : Nat) : Word :=
  match pageOwner page with
  | none => BitVec.allOnes 64
  | some (b, n, sub) =>
    if off < 0x200 then readHead s b n sub page off
    else if (getBlk s page).rstBusy then 0
    else if (regAt page off).isNone then 0
    else readBody s b n sub page off

/-- A read by address and size: its value, and its effect on an unassigned page (R25), with another form than an aligned
64-bit access (R6) or without the privilege (R29). A register that a read clears or pops has a row of its own. -/
def readAccess (who : Initiator) (addr size : Nat) (s : State) : State :=
  match pageAt s addr with
  | none => if mayAddress s who addr then s else accessFault who addr false s
  | some (page, off) => match pageOwner page with
    | none => answer (BitVec.allOnes 64) (noPage off s)
    | some (b, _, _) =>
      if size ≠ 8 ∨ off % 8 ≠ 0 then answer 0 (raise page 0 off s)
      else if 0x200 ≤ off ∧ mayReach who b = false then answer 0 (raise page 3 off s)
      else answer (readReg s page off) s

/-- The core-private window of Table 14.7 as core `core` reads it: its number; the count of the 100 MHz reference, at a moment of the
tick in hand that is the device's; and the interrupt files, whose memory-mapped words read as zero (PRESUMED from the RISC-V
AIA, log 11). -/
def readPrivate (s : State) (core off : Nat) : Option Word :=
  if off = 0x10000 then some (word (core % 16))
  else if off = 0x10008 then
    some (word (s.sys.tickTime + Config.choose s.free % (if (getBlk s tckPage).ready then tickNs s / 10 + 1 else 2 ^ 64)))
  else if off < 0x2000 then some 0
  else none

end Sys2Proof.Machine
end

