-- ==== Sys2Proof/WellFormed.lean ====
section
/-! DEFINITION. Which commands can be sent at all: the shapes that the bus, the frames and the sensors allow. The machine
gives every command its meaning, well formed or not. -/

namespace Sys2Proof

/-- A register access is of 1, 2, 4 or 8 bytes at a 64-bit address (R6, R18). -/
def accessWf (addr size : Nat) : Bool := decide (addr < 2 ^ 64) && [1, 2, 4, 8].contains size

/-- A frame holds 244 body bytes (Table 9.4). -/
def Frame.wf (f : Frame) : Bool := f.body.length == 244

/-- A packet holds at most 4,096 data bytes after its header (R260). -/
def Packet.wf (k : Packet) : Bool := decide (k.body.length ≤ 4096)

def Datagram.wf (d : Datagram) : Bool := d.packets.all Packet.wf

/-- A management frame carries at most 1,484 bytes of message data (R416). -/
def MgtFrame.wf (f : MgtFrame) : Bool := decide (f.data.length ≤ 1484)

/-- A command's payload is a multiple of eight bytes, at most 2,048 (R375). -/
def Envelope.wf (e : Envelope) : Bool := e.payload.length % 8 == 0 && decide (e.payload.length ≤ 2048)

/-- IDENTIFY reports on eight receive lanes (R247). -/
def lanesWf (ls : List LanePattern) : Bool := ls.length == 8

/-- A temperature sensor reads a signed byte. -/
def tempWf (t : Int) : Bool := decide (-128 ≤ t ∧ t ≤ 127)

/-- The 48 die sensors are read together (R335). -/
def tempsWf (ts : List (Option Int)) : Bool := ts.length == 48 && ts.all (fun t => t.all tempWf)

/-- The command can be sent. -/
def Instr.wf : Instr → Bool
  | .registerWrite _ addr size _ => accessWf addr size
  | .data _ f | .credit _ f | .tick _ f _ | .down _ f | .echo _ f _ | .echoResp _ f _ | .idleFrame _ f => f.wf
  | .read _ k | .readResp _ k | .write _ k | .ack _ k | .nack _ k | .raAddF32 _ k | .raAddBf16 _ k | .raAddMx8 _ k
  | .raMax _ k | .raAnd _ k | .mcastWrite _ k | .notice _ k | .resolve _ k | .resolveResp _ k => k.wf
  | .transportSyn _ d | .transportData _ d | .transportAck _ d | .transportNak _ d => d.wf
  | .identify _ ls _ _ => lanesWf ls
  | .dieTempRead ts => tempsWf ts
  | .inletRead i o => tempWf i && tempWf o
  | .stackTempRead _ r => r.all (fun t => decide (t < 256))
  | .awlPackLoad _ _ _ tests lists sign => decide (24 + tests.length + lists.length + sign.length < 2 ^ 32)
  | .takeOwnership e | .releaseOwnership e | .vendorRelease e | .installLinkKey e | .advanceSvn e | .setCeiling e
  | .recalMeter e | .replaceVt e | .fwSwitch e | .updateLast e | .mapout e | .undoMapout e | .warmRestart e
  | .failQuiet e | .setTime e => e.wf
  | .managementFragment f => f.wf
  | _ => true

end Sys2Proof
end

