-- ==== Sys2Proof/Tests/Slice0.lean ====
section
/-! SUPPORT. Tests: ill-formed commands are told apart, the spec's worked examples come out, and the hypotheses of the
obligations are met together by states and operands written here. -/

set_option maxRecDepth 20000

namespace Sys2Proof.Machine

/-! ### Well-formedness -/

/-- A whole empty frame, and one byte short. -/
def frameOf (n : Nat) : Frame := { w0 := 0, body := List.replicate n 0, crc := 0, fecBad := false }

theorem test_wf_access : (Instr.registerWrite .last 0x200000000000 8 0).wf = true ∧
    (Instr.registerWrite .last 0x200000000000 3 0).wf = false ∧ (Instr.registerWrite .last (2 ^ 64) 8 0).wf = false := by decide


theorem test_wf_frame : (Instr.data 0 (frameOf 244)).wf = true ∧ (Instr.data 0 (frameOf 243)).wf = false := by decide

theorem test_wf_temps : (Instr.dieTempRead (List.replicate 48 (some 30))).wf = true ∧
    (Instr.dieTempRead (List.replicate 47 (some 30))).wf = false ∧
    (Instr.dieTempRead (List.replicate 48 (some 200))).wf = false ∧ (Instr.inletRead 30 200).wf = false ∧
    (Instr.stackTempRead 0 (some 256)).wf = false := by decide

/-- A pack's length is a 32-bit number. -/
theorem test_wf_pack (bs : List Byte) (h : bs.length = 2 ^ 32) : (Instr.awlPackLoad 0 0 0 [] bs []).wf = false ∧
    (Instr.awlPackLoad 0 0 0 [] [] []).wf = true := by simp [Instr.wf, h]

/-- A packet with a data part of `n` bytes. -/
def packetOf (n : Nat) : Packet := { w0 := 0, w1 := 0, w2 := 0, w3 := 0, body := List.replicate n 0, tag := 0 }

theorem test_wf_packet : (Instr.read 0 (packetOf 0)).wf = true ∧ (packetOf 64).wf = true ∧
    (Instr.transportData 0 { w0 := 0, w1 := 0, packets := [packetOf 16], ce := false }).wf = true := by decide

/-- A packet of more than 4,096 bytes is ill-formed, wherever it travels. -/
theorem test_wf_packet_long (k : Packet) (p : Fin 16) (h : k.body.length = 4097) : (Instr.write p k).wf = false ∧
    (Instr.transportSyn p { w0 := 0, w1 := 0, packets := [k], ce := false }).wf = false := by
  simp [Instr.wf, Packet.wf, Datagram.wf, h]

/-- A management frame of more than 1,484 message bytes is ill-formed. -/
theorem test_wf_management (f : MgtFrame) (h : f.data.length = 1485) : (Instr.managementFragment f).wf = false := by
  simp [Instr.wf, MgtFrame.wf, h]

/-- An envelope's payload is a multiple of eight bytes, and not more than 2,048 of them. -/
theorem test_wf_envelope (e : Envelope) (h : e.payload.length = 2056 ∨ e.payload.length = 4) :
    (Instr.mapout e).wf = false := by
  rcases h with h | h <;> simp [Instr.wf, Envelope.wf, h]

theorem test_wf_lanes : (Instr.identify 0 (List.replicate 8 ⟨true, true, 0, false⟩) false 0).wf = true ∧
    (Instr.identify 0 [] false 0).wf = false := by decide

/-! ### The spec's worked examples -/

/-- The eyelet of the example after R52. -/
theorem test_eyelet : eyePool 0x1C004A07 = 7 ∧ eyeIdx 0x1C004A07 = 74 ∧ eyeGen 0x1C004A07 = 7 := by decide

/-- The value `a / b` rounded to FP32. -/
def q32 (a b : Nat) : Num.Val := Num.d32 (Num.r32 (Num.divVal (Num.ofNat a) (Num.ofNat b)))

/-- The MXFP8 block of the example after R108: scale 0x7A, elements 0x7E, 0xF3, 0x19 and 0x00. -/
theorem test_mx_block : (Num.mxBlockRne 0x10 true ([q32 137 10, (q32 53 10).negate, q32 21 10000, q32 1 100000] ++
    List.replicate 28 (Num.ofNat 0))).1 = 0x7A ∧
    (Num.mxBlockRne 0x10 true ([q32 137 10, (q32 53 10).negate, q32 21 10000, q32 1 100000] ++
      List.replicate 28 (Num.ofNat 0))).2.1.take 4 = [0x7E, 0xF3, 0x19, 0x00] := by decide

/-- The grouped sums of the example after R113: 1.0 when the three products share a group, +0 when they do not. -/
theorem test_group_sums :
    Num.accum 0 (Num.groupSum [Num.pow2 24, Num.ofNat 1, (Num.pow2 24).negate]) = 0x3F800000 ∧
    Num.accum (Num.accum (Num.accum 0 (Num.groupSum [Num.pow2 24])) (Num.groupSum [Num.ofNat 1]))
      (Num.groupSum [(Num.pow2 24).negate]) = 0 := by decide

/-- Stochastic rounding of 1.0029296875 to BF16 (the example after R153): up from 0xA000_0000. -/
theorem test_stochastic : Num.convSr 0xA0000000 Num.bf16 true (.fin false 1027 (-10)) = 0x3F81 ∧
    Num.convSr 0x9FFFFFFF Num.bf16 true (.fin false 1027 (-10)) = 0x3F80 := by decide

/-- The scratchpad mapping of the example after R219: slice 26 and then 25. -/
theorem test_scratchpad_slice : scrSlice 0x100001234500 = 26 ∧ scrSlice 0x100001234600 = 25 := by decide

/-- The HBM mapping of the example after R228: pseudo-channel 128, which is on HBM0, and 129 on HBM1 next. -/
theorem test_hbm_channel : physPc State.reset 0x1000000000 = 128 ∧ stackOf State.reset 0x1000000000 = 0 ∧
    stackOf State.reset 0x1000000100 = 1 := by decide

/-- The window of the MCLK PLL of the example after R330. -/
theorem test_pll_window : windowN { State.reset with pwr := { State.reset.pwr with pll := 3000 } } (.pll 0) = 122880 ∧
    windowTol { State.reset with pwr := { State.reset.pwr with pll := 3000 } } (.pll 0) = 24 ∧
    windowN State.reset .osc = 8192 := by decide


/-- The energy shares of the example after R390. -/
theorem test_energy_shares : shares 38417 [20000, 8000, 1500, 2000, 500, 0] = [24011, 9604, 1801, 2401, 600, 0] := by decide

/-- Philox 4x32-10 of key and counter zero, as its authors publish it. -/
theorem test_philox : philox 0 0 0 0 0 = (0x6627E8D5, 0xE169C58D, 0xBC57AC4C, 0x9B00DBD8) := by decide


/-- SHA-256 of the empty message begins as FIPS 180-4 has it. -/
theorem test_sha256 : (Crypto.sha256 []).take 4 = [0xE3, 0xB0, 0xC4, 0x42] := by decide

/-! ### Witnesses: the block as a whole, registers, queues and pools -/

/-- A powered device in phase RUNNING, with the blocks of the pages ready. -/
def upWith (pages : List Nat) : State :=
  { State.reset with
    sys := { powered := true, released := true, phase := 7, lastUp := true },
    blk := pages.map (fun p => (firstPage p, { ready := true })) }

/-- A running device with TCK ready. -/
def up : State := upWith [tckPage]

theorem wit_step_front : ({ up with pending := [.smbPhase] } : State).pending = .smbPhase :: [] ∧ up.pending = [] :=
  ⟨rfl, rfl⟩

theorem wit_leave_queue : exec .smbPhase up = .next { up with out := [.smb 0x58 [7] (crc8 [0xB0, 1, 0xB1, 7])] } := rfl

theorem wit_canonical : up.Inv ∧ step up = .next up := ⟨rfl, rfl⟩

theorem wit_head_write : ∃ r, 0x28 ∈ [0x20, 0x28, 0x38, 0x40, 0x48] ∧ fieldsAt 0 0x28 = some r ∧
    up.admits (.core 0) 0 0x28 1 = true := ⟨_, by decide, rfl, by decide⟩

theorem wit_refused_form : (pageOwner 0).isSome = true ∧ (8 ≠ 8 ∨ 0x204 % 8 ≠ 0) := by decide

theorem wit_refused_address : pageAt up (2 ^ 50) = none ∧ mayAddress up (.core 0) (2 ^ 50) = false := by decide

theorem wit_refused_no_reg : pageOwner 0 = some (.sys, 0, 0) ∧ mayReach (.core 0) .sys = true ∧
    lastOwnArea up (.core 0) (ctrlAddr up 0 0xFFF8) 8 = false ∧ fieldsAt 0 0xFFF8 = none ∧ (getBlk up 0).rstBusy = false := by decide

theorem wit_refused_no_page : pageOwner 0xFFF = none := by decide

theorem wit_sec_area : pageOwner (pageOf .sec 0 0) = some (.sec, 0, 0) ∧ pageOwner (pageOf .nvs 0 0) = some (.nvs, 0, 0) := by
  decide

theorem wit_first_reads : ∀ x ∈ firstRead .last, (getBlk up x.2.1).rstBusy = false := by decide

theorem wit_dev_id : up.admits (.core 0) 0 0x200 (word (2 ^ 63 + 5)) = true ∧
    up.admits (.core 0) 0 0x50 ((0x101 : Word) ||| 0x200) = true := by decide

theorem wit_block_enable : up.admits (.core 0) (pageOf .chn 0 0) 0x10 (setBit 1 1 false) = true := by decide

theorem wit_soft_reset : up.admits (.core 0) (pageOf .chn 0 0) 0x10 (setBit 1 1 true) = true ∧
    work up (pageOf .chn 0 0) = false ∧ resetsQuietly up .clk ∧ resetsQuietly up .crm ∧ keptByReset .sys 0 0x30 ∧
    ¬ keptByReset .chn 0 0x200 ∧ resetsQuietly up .tck ∧ resetsQuietly up .chn :=
  ⟨by decide, by decide, by show up.pwr.vtTrim.natAbs < 32767; decide, rfl, .inl rfl, by
    rintro (h | h | h)
    · exact absurd h (by decide)
    · exact absurd h.1 (by decide)
    · exact absurd h.1 (by decide), fun _ _ => rfl, trivial⟩

/-- The Skim at work on a step. -/
def skimBusy : State := { up with skm := { busy := true, job := 5 } }

theorem wit_soft_reset_busy : skimBusy.admits (.core 0) skmPage 0x10 (setBit 1 1 true) = true ∧ work skimBusy skmPage = true := by
  decide

theorem wit_soft_reset_done :
    (getBlk { up with blk := [(firstPage skmPage, { ready := true, rstBusy := true, busyPend := [(skmPage, 8)] })] } skmPage).rstBusy =
      true := by decide

/-- A lace queue of two entries, enabled. -/
def laceTwo : State := { up with regs := [(regKey (qPage 256) (qOff 256 0), word (1 + 1 * 256))] }

theorem wit_push_room : laceTwo.admits (.core 0) (qPage 256) (qOff 256 0x20) 7 = true ∧
    laceTwo.admits (.core 0) (qPage 256) (qOff 256 0x28) 7 = true ∧ pointersAgree laceTwo 256 ∧ qEnabled laceTwo 256 = true ∧
    qFull laceTwo 256 = false := by decide

/-- The same full, with a push held. -/
def laceFull : State := { laceTwo with queues := [(256, { items := [1, 2], held := [(.core 0, 7)] })] }

/-- A queue list of one queue holds pushes at that queue alone. -/
theorem held_one (s : State) (q : Nat) (x : Queue) (h : s.queues = [(q, x)]) (c : Nat) (hc : c ≠ q) : (getQueue s c).held = [] := by
  simp [getQueue, mget, h, mfind, Ne.symm hc]

/-- Another core's push finds the page free, and the held one's own is the only one of its initiator. -/
theorem wit_push_others : pageFree laceFull (.core 1) 256 ∧
    ∀ c, c < 1280 → c ≠ 256 → qPage c = qPage 256 → ∀ x ∈ (getQueue laceFull c).held, x.1 ≠ .core 0 := by
  refine ⟨fun c _ _ x hx => ?_, fun c _ hc _ x hx => ?_⟩
  · by_cases hc : c = 256
    · subst hc
      simp [getQueue, laceFull, mget, mfind] at hx
      simp [hx]
    · simp [held_one laceFull 256 _ rfl c hc] at hx
  · simp [held_one laceFull 256 _ rfl c hc] at hx

/-- Nothing held, at any queue of any page; and the pages of other queues than one with a push held. -/
theorem pageFree_up (s : State) (h : s.queues = []) (who : Initiator) (q : Nat) : pageFree s who q := by
  intro c _ _ x hx
  simp [getQueue, mget, h, mfind] at hx

theorem wit_push_page : pageFree laceTwo (.core 0) 256 ∧ qQuiet laceTwo 256 = false ∧
    pageFree { up with queues := [] } (.core 0) 256 ∧ qQuiet { up with rel := { fqActive := true } } 0 = true ∧
    pointersAgree { up with rel := { fqActive := true } } 0 :=
  ⟨pageFree_up _ rfl _ _, by decide, pageFree_up _ rfl _ _, by decide, by decide⟩

theorem wit_push_full : laceFull.admits (.core 1) (qPage 256) (qOff 256 0x20) 7 = true ∧
    laceFull.admits (.core 1) (qPage 256) (qOff 256 0x28) 7 = true ∧ pointersAgree laceFull 256 ∧ qEnabled laceFull 256 = true ∧
    qQuiet laceFull 256 = false ∧ qFull laceFull 256 = true := by decide

theorem wit_push_held : pointersAgree { laceFull with queues := [(256, { items := [1], held := [(.core 0, 7)] })] } 256 ∧
    (getQueue { laceFull with queues := [(256, { items := [1], held := [(.core 0, 7)] })] } 256).held = (.core 0, 7) :: [] ∧
    qFull { laceFull with queues := [(256, { items := [1], held := [(.core 0, 7)] })] } 256 = false := by decide

theorem wit_push_disabled : up.admits (.core 0) (qPage 256) (qOff 256 0x20) 7 = true ∧
    up.admits (.core 0) (qPage 256) (qOff 256 0x28) 7 = true ∧ pointersAgree up 256 ∧ qEnabled up 256 = false := by decide

theorem wit_pop : (getBlk laceFull (qPage 256)).rstBusy = false ∧ (getQueue laceFull 256).items = 1 :: [2] ∧
    (getQueue up 0).items = [] ∧ pointersAgree up 0 := by decide

theorem wit_flush : laceFull.admits (.core 0) (qPage 256) (qOff 256 0) 2 = true ∧ pointersAgree laceFull 256 ∧
    (getQueue laceFull 256).rsvd = 0 ∧ ¬ 256 < 256 := by decide

theorem wit_lace_config : up.admits (.core 0) (qPage 256) (qOff 256 0) (word 0x401) = true ∧ bit (word 0x401) 1 = false ∧
    bit (word 0x401) 0 = true ∧ (getQueue up 256).items = [] ∧ (getQueue up 256).rsvd = 0 ∧ laceFits up 0 (word 0x401) = true := by
  decide

/-- POOL_CFG of four buffers of 256 bytes, enabled. -/
def fourBuffers : Word := word (4 + 2 ^ 19 + 1 * 2 ^ 20)

/-- Pool 0 based in ARR0's local store. -/
def poolBased : State := { up with regs := [(regKey poolPage (poolOff 0 0), word 0x180000000000)] }

theorem wit_pool_config : poolBased.admits (.core 0) poolPage (poolOff 0 8) fourBuffers = true ∧ poolEn poolBased 0 = false ∧
    bit fourBuffers 19 = true ∧ 1 ≤ fld fourBuffers 18 0 ∧ 1 ≤ fld fourBuffers 39 20 ∧
    poolWindow poolBased (poolBase poolBased 0) (fld fourBuffers 18 0 * fld fourBuffers 39 20 * 256) = true := by decide

/-- Pool 0 enabled, its buffer 2 allocated. -/
def poolOn : State := { poolBased with regs := poolBased.regs ++ [(regKey poolPage (poolOff 0 8), fourBuffers)],
                                       pools := [(0, { alloc := [(2, 256)] })] }

theorem wit_pool_config_refused : poolOn.admits (.core 0) poolPage (poolOff 0 8) (word (5 + 2 ^ 19 + 1 * 2 ^ 20)) = true ∧
    poolEn poolOn 0 = true ∧
    fld (getReg poolOn poolPage (poolOff 0 8)) 18 0 ≠ fld (word (5 + 2 ^ 19 + 1 * 2 ^ 20)) 18 0 := by decide

theorem wit_pool_alloc : (getBlk poolOn poolPage).rstBusy = false ∧ poolEn poolOn 0 = true ∧ poolCount poolOn 0 ≤ 262144 ∧
    ((getPool poolOn 0).alloc.map (·.1)).Nodup ∧ (∀ i ∈ (getPool poolOn 0).alloc.map (·.1), i < poolCount poolOn 0) ∧
    reservedFor poolOn 0 256 < poolFree poolOn 0 ∧ poolFree up 0 ≤ reservedFor up 0 256 := by decide

theorem wit_pool_release : poolOn.admits (.core 0) poolPage (poolOff 0 0x18) 0x201 = true ∧ eyePool (fld 0x201 31 0) = 0 ∧
    eyeValid poolOn (fld 0x201 31 0) = true ∧ poolOn.admits (.core 0) poolPage (poolOff 0 0x18) 0x301 = true ∧
    eyeValid poolOn (fld 0x301 31 0) = false := by decide

/-! ### Witnesses: tasks -/

/-- The bytes of a word as memory cells; a zero byte is not listed. -/
def cellsOf (a : Nat) (w : Word) : Mem := memStore {} a (wordBytes w)

/-- A running device whose memory answers where the first slice is home: lines 0 and 65 among others. -/
def memUp : State := { upWith (tckPage :: crm0 :: (List.range 8).map (fun n => pageOf .hbm n 0)) with
  regs := (regKey crm0 0x10, 1) :: (List.range 8).map (fun n => (regKey (pageOf .hbm n 0) 0x10, 1)),
  hbm := (List.range 8).map (fun n => (n, { state := 2 })) }

/-- A completion address on line 65. -/
def recordAt : Nat := 65 * 256

/-- Queue 0 bound to ARR0 with an item whose descriptor, at 0, names a completion address. -/
def queueBound : State := { memUp with
  regs := memUp.regs ++ [(regKey tck1Page 0x1000, word (0 + 256))], queues := [(0, { items := [0] })],
  mem := cellsOf 24 (word recordAt) }

theorem wit_accept : cqServed queueBound 0 = true ∧ pointersAgree queueBound 0 ∧
    (getQueue queueBound 0).items = 0 :: [] ∧ structOk queueBound (0 : Word).toNat 256 256 = true ∧
    needLine queueBound true (lineOf (0 : Word).toNat) = .ok ∧
    structOk queueBound (memWord queueBound.mem ((0 : Word).toNat + 24)).toNat 64 64 = true ∧
    structOk queueBound 1 256 256 = false := by decide

/-- A task of a job from the words of its descriptor: header, operand slots and parameters. -/
def descTask (cls op job eng : Nat) (phase : TPhase) (w1 : Nat) (slots params : List Word) : Task :=
  { id := 1, cq := 1, eng := eng, addr := 0, accTick := 0, phase := phase,
    desc := [word (1 + cls * 256 + job * 65536 + op * 2 ^ 32), word w1, word 600, word recordAt, 0, 0, 0, 0] ++
      (slots ++ List.replicate (16 - slots.length) 0) ++ (params ++ List.replicate (8 - params.length) 0) }

/-- DECIDE on job 5's group 3 with one member and no flag words. -/
def decideTask (phase : TPhase) : Task := descTask 7 0 5 0x48 phase (3 * 2 ^ 32) [] [0, word (2 ^ 18)]

/-- Job 5 open in slot 0, with tasks. -/
def jobFive (ts : List Task) : State := { memUp with
  tasks := ts, nextTask := 9, groups := [⟨5, 3, 0⟩], tck := { slots := [(0, { w0 := 5, active := true })] } }

theorem wit_dispatch_check : findTask (jobFive [decideTask .accepted]) 1 = some (decideTask .accepted) ∧
    running (jobFive [decideTask .accepted]) = true ∧ fenceHeld (jobFive [decideTask .accepted]) (decideTask .accepted) = false ∧
    popHeld (jobFive [decideTask .accepted]) (decideTask .accepted) = false ∧
    jobShut (jobFive [decideTask .accepted]) (decideTask .accepted) = false ∧
    firstFail [headFail (decideTask .accepted), firstFail ((List.range 8).map (slotFail (decideTask .accepted))),
      classParams (decideTask .accepted)] = none := by decide

theorem wit_dispatch_check_fails : checkFail { jobFive [decideTask .accepted] with tck := {} } (decideTask .accepted) = some jobClosed ∧
    jobClosed.status = 7 := ⟨rfl, by decide⟩

theorem wit_dispatch : findTask (jobFive [decideTask .waiting]) 1 = some (decideTask .waiting) ∧
    nextOn (checkLaces (decideTask .waiting) (jobFive [decideTask .waiting])) 0x48 = some 1 ∧
    ∃ w, dispatchPasses (checkLaces (decideTask .waiting) (jobFive [decideTask .waiting])) (decideTask .waiting)
      (decideTask .waiting) w :=
  ⟨by decide, by decide, _, decideTask .waiting, checkLaces (decideTask .waiting) (jobFive [decideTask .waiting]),
    decideTask .waiting, checkLaces (decideTask .waiting) (jobFive [decideTask .waiting]), decideTask .waiting,
    by decide, by decide, by decide, by decide, by decide, by decide, by decide, by decide, rfl, by decide, rfl, by decide,
    ⟨by decide, by decide, rfl⟩, by decide, by decide, by decide, rfl, rfl⟩

theorem wit_dispatch_waits : tryDispatch (descTask 1 0 5 0 .waiting (3 * 2 ^ 32) [] [])
    (checkLaces (descTask 1 0 5 0 .waiting (3 * 2 ^ 32) [] []) (jobFive [descTask 1 0 5 0 .waiting (3 * 2 ^ 32) [] []])) = none := by
  decide

/-- A task of a class over, with OK. -/
def overTask (cls op eng : Nat) (params : List Word) : Task := { descTask cls op 5 eng .complete 0 [] params with status := 1 }

/-- DECIDE over, its record at an address that is mapped nowhere. -/
def lostRecord : Task := { overTask 7 0 0x48 [] with desc := (overTask 7 0 0x48 []).desc.set 3 (word 0x170000000000) }

theorem wit_commit : findTask (jobFive [overTask 7 0 0x48 []]) 1 = some (overTask 7 0 0x48 []) ∧
    access (jobFive []) (overTask 7 0 0x48 []).completion = .ok ∧ ((overTask 7 0 0x48 []).spec && (overTask 7 0 0x48 []).gid != 0) = false ∧
    access (jobFive []) lostRecord.completion = .fault ∧ findTask (jobFive [lostRecord]) 1 = some lostRecord ∧ lostRecord.status = 1 := by
  decide

/-- A task whose eyelet goes into a lace queue at its commit point. -/
theorem wit_commit_lace : findTask (jobFive [{ overTask 2 1 0x20 [] with resv := [(256, 2)] }]) 1 =
      some { overTask 2 1 0x20 [] with resv := [(256, 2)] } ∧
    ((({ overTask 2 1 0x20 [] with resv := [(256, 2)] } : Task).resv).map (·.1)).Nodup ∧
    (∀ r ∈ ({ overTask 2 1 0x20 [] with resv := [(256, 2)] } : Task).resv, pointersAgree (jobFive []) r.1) ∧
    (∀ i < 8, ((overTask 2 1 0x20 []).used i && (overTask 2 1 0x20 []).rel i) = false) := by decide

theorem wit_commit_skim : deliveryOf (overTask 2 1 0x20 [2]) = some (0, {}) ∧ (overTask 2 1 0x20 [2]).spec = false ∧
    ({ amax := 0x7F800000 } : SkimRec).nonfin = false := by decide

theorem wit_commit_layer : (overTask 4 0 0x30 [word (16 + 2 * 2 ^ 32)]).cls = 4 ∧ bit ((overTask 4 0 0x30 [word (16 + 2 * 2 ^ 32)]).w 24) 4 = true ∧
    regBit { jobFive [] with regs := memUp.regs ++ [(regKey chnPage 0x200, 1)] } chnPage 0x200 0 = true ∧
    2 ≤ fld ((overTask 4 0 0x30 [word (16 + 2 * 2 ^ 32)]).w 24) 47 32 ∧ (mget (jobFive []).layers 0 {}).isOpen = false := by decide

/-- A member of the group, held after its record. -/
def heldMember : Task :=
  { descTask 5 0 5 0x38 .held (3 * 2 ^ 32) [] [] with
    id := 2, status := 1, desc := [word (1 + 5 * 256 + 5 * 65536 + 2 ^ 48), word (3 * 2 ^ 32)] }

theorem wit_decide : findTask (jobFive [decideTask .dispatched, heldMember]) 1 = some (decideTask .dispatched) ∧
    fld ((decideTask .dispatched).w 25) 24 18 ≤ (heldMembers (jobFive [decideTask .dispatched, heldMember]) 5 3
      (useOf (jobFive [decideTask .dispatched, heldMember]) 5 3)).length ∧
    memberRuns (jobFive [decideTask .dispatched, heldMember]) 5 3 (useOf (jobFive [decideTask .dispatched, heldMember]) 5 3) = false ∧
    decidePending (jobFive [decideTask .dispatched, heldMember]) 5 3 = false ∧ fld ((decideTask .dispatched).w 25) 15 0 = 0 := by
  decide

theorem wit_drain : ⟨5, 3, 7, 0, 256⟩ ∈ ({ up with drain := [⟨5, 3, 7, 0, 256⟩] } : State).drain := by decide

/-- MULTICAST parked on lane 0 of complex 0 after its last stage, its cast acknowledged. -/
def parkedTask : Task := { descTask 6 2 5 0x80 .dispatched 0 [] [] with parked := true, pos := 1 }

theorem wit_unpark : findTask (jobFive [parkedTask]) 1 = some parkedTask ∧ running (jobFive [parkedTask]) = true ∧
    parkedTask.nacked = none ∧ (getEng (jobFive [parkedTask]) 0x80).further = none ∧
    midStage (jobFive [parkedTask]) parkedTask = false ∧ stageOver (jobFive [parkedTask]) parkedTask = true ∧
    compareAt (jobFive [parkedTask]) parkedTask = false ∧
    (stagesOf (jobFive [parkedTask]) parkedTask).length ≤ stageNo parkedTask + 1 ∧ parkedTask.direct = none ∧
    (jobFive [parkedTask]).tck.aborting.contains 1 = false := by decide

theorem wit_unpark_mid : findTask (jobFive [{ parkedTask with pos := 0 }]) 1 = some { parkedTask with pos := 0 } ∧
    running (jobFive [{ parkedTask with pos := 0 }]) = true ∧
    (getEng (jobFive [{ parkedTask with pos := 0 }]) 0x80).further = none ∧
    midStage (jobFive [{ parkedTask with pos := 0 }]) { parkedTask with pos := 0 } = true ∧
    stillFull (jobFive [{ parkedTask with pos := 0 }]) { parkedTask with pos := 0 } = false ∧
    outstanding (jobFive [{ parkedTask with pos := 0 }]) 1 .finite = false := by decide

/-- The words of a tensor at `a` of `r` rows of `n` elements each, in a format of `size` bytes. -/
def tensorWords (fmt size a n r : Nat) : List Word :=
  [word a, word (fmt + 2 * 256), word n, word size, word r, word (size * n), 1, 0, 1, 0, 1, 0, 1, 0, 0, 0]

/-- A prefetch record of Ladle 3 being copied again: two FP32 elements at 0, to ARR0's local store. -/
def refetching : PfRec := { srcLo := 0, srcHi := 7, dstLo := 0x180000000000, dstHi := 0x180000000007, refetching := true,
                            td := [tensorWords 1 4 0 2 1, tensorWords 1 4 0x180000000000 2 1], base := [0, 0x180000000000] }

/-- A prefetch over, its destination off the line of its record. -/
def prefetched : Task := { overTask 5 0 0x38 [4] with
  td := [tensorWords 1 4 0 2 1, tensorWords 1 4 0x180000000000 2 1], base := [0, 0x180000000000] }

theorem wit_commit_prefetch : prefetched.status = 1 ∧ prefetched.cls = 5 ∧ prefetch prefetched = true ∧
    (List.range 64).find? (fun i => (mfind (getLdl (jobFive [prefetched]) (prefetched.eng - 0x38)).recs i).isNone) = some 0 ∧
    prefetched.completion + 64 ≤ (hull (prefetched.tensor 1)).1 := by decide

theorem wit_refetch : mfind (getLdl { memUp with ldl := [(3, { recs := [(7, refetching)] })] } 3).recs 7 = some refetching ∧
    needSpans memUp false ((List.range (movTotal (recTask 3 refetching))).map (movSpan (recTask 3 refetching)
      ((recTask 3 refetching).tensor 0))) ≠ .wait ∧ movTotal (recTask 3 refetching) = 2 ∧
    (∀ p < 2, ∀ q < 2, (movSpan (recTask 3 refetching) ((recTask 3 refetching).tensor 0) p).1 +
      (movSpan (recTask 3 refetching) ((recTask 3 refetching).tensor 0) p).2 ≤
        (movSpan (recTask 3 refetching) ((recTask 3 refetching).tensor 1) q).1) ∧
    (∀ x ∈ runsOf (recTask 3 refetching) ((recTask 3 refetching).tensor 0) 2 2 0,
      needSpans memUp true [((movSpan (recTask 3 refetching) ((recTask 3 refetching).tensor 0) x.1).1, 8)] = .ok ∧
        (movSpan (recTask 3 refetching) ((recTask 3 refetching).tensor 0) (x.2 - 1)).1 + 4 =
          (movSpan (recTask 3 refetching) ((recTask 3 refetching).tensor 0) x.1).1 + 8) ∧
    needSpans memUp true [(lastByte (recTask 3 refetching) / 256 * 256, 256)] = .ok := by decide

/-! ### Witnesses: slices -/

/-- The two words of an operand slot of a role. -/
def slotWords (role : Nat) : List Word := [0, word (role * 2 ^ 32)]

/-- Three FP32 tensors of three rows of two elements in ARR0's local store, a task over them on an engine, a granule of
three its slice. -/
def sliceTask (cls op eng : Nat) (params : List Word) : Task :=
  { descTask cls op 5 eng .dispatched 0 (slotWords 1 ++ slotWords 1 ++ slotWords 2) params with
    td := [tensorWords 1 4 0x180000000000 2 3, tensorWords 1 4 0x180000000100 2 3, tensorWords 1 4 0x180000000200 2 3,
      tensorWords 1 4 0x180000000300 2 3],
    base := [0x180000000000, 0x180000000100, 0x180000000200, 0x180000000300], sliceEnd := 6 }

def sliceAdm : Adm := { task := 1, resume := false, bound := 600, stop := 3 }

/-- Its state: job 5 open, the slice begun. -/
def sliceOn (t : Task) (a : Adm) : State := { jobFive [t] with
  eng := [(t.eng, { running := some 1, queue := [a], started := true })],
  regs := memUp.regs ++ [(regKey (pageOf .stn 0 0) 0x200, 0)],
  mem := memStore (memStore {} 0x180000000000 [0, 0, 0x80, 0x3F, 0, 0, 0, 0x40]) 0x180000000100 [0, 0, 0x40, 0x40] }

theorem wit_slice : (.vecAdd 1 1 4, 2, 1, vecStep) ∈ sliceCommands 1 1 4 ∧ (.vecMul 1 1 4, 2, 2, vecStep) ∈ sliceCommands 1 1 4 ∧
    (sliceTask 2 1 0x20 []).id = 1 ∧ (sliceOn (sliceTask 2 1 0x20 []) sliceAdm).inSlice (sliceTask 2 1 0x20 []) sliceAdm 1 4 := by
  refine ⟨by simp [sliceCommands], by simp [sliceCommands], by rfl, by unfold State.inSlice; decide⟩

/-- What the slice statement's cases ask of a granule, by its answer. -/
def goesWithin (r : StepRes) (stop : Nat) : Bool :=
  match r with
  | .go t _ => !t.parked && decide (t.pos < stop)
  | _ => false

def endsWith (r : StepRes) (stop : Nat) : Bool :=
  match r with
  | .go t _ => !t.parked && decide (stop ≤ t.pos)
  | _ => false

def parks (r : StepRes) : Bool := match r with | .go t _ => t.parked | _ => false
def waitsStill (r : StepRes) : Bool := match r with | .wait => true | _ => false
def failsWith (r : StepRes) : Option Nat := match r with | .fail f _ => some f.status | _ => none

/-- The first granule of the slice of a task, four cycles charged. -/
def firstGranule (step : Task → State → StepRes) (t : Task) (s : State) : StepRes :=
  step (t.charged 4) (s.charged t sliceAdm.stop 1 4)

/-- The addition at its last granule. -/
def lastAdd : Task := { sliceTask 2 1 0x20 [] with pos := 2 }

/-- The addition with its output at an address. -/
def addTo (a : Nat) : Task := { sliceTask 2 1 0x20 [] with
  td := (sliceTask 2 1 0x20 []).td.set 2 (tensorWords 1 4 a 2 3), base := (sliceTask 2 1 0x20 []).base.set 2 a }

theorem wit_slice_answers :
    goesWithin (firstGranule vecStep (sliceTask 2 1 0x20 []) (sliceOn (sliceTask 2 1 0x20 []) sliceAdm)) 3 = true ∧
    waitsStill (firstGranule vecStep (addTo 0) { sliceOn (addTo 0) sliceAdm with crm := { busy := true } }) = true ∧
    failsWith (firstGranule vecStep (addTo 0x170000000000) (sliceOn (addTo 0x170000000000) sliceAdm)) = some 3 ∧
    endsWith (firstGranule vecStep (lastAdd) (sliceOn lastAdd sliceAdm)) 3 = true ∧ (sliceTask 2 1 0x20 []).op ≠ 2 ∧
    parks (firstGranule redStep (sliceTask 6 2 0x80 []) (sliceOn (sliceTask 6 2 0x80 []) sliceAdm)) = true := by decide

/-- A slice is over: in the middle of the task, past its end, with an abort, and on an array whose engine runs the task. -/
theorem wit_slice_over : findTask (sliceOn (sliceTask 2 1 0x20 []) sliceAdm) 1 = some (sliceTask 2 1 0x20 []) ∧
    (sliceTask 2 1 0x20 []).pos < 3 ∧ 3 ≤ ({ sliceTask 2 1 0x20 [] with pos := 3 } : Task).pos ∧ (sliceTask 2 1 0x20 []).direct = none ∧
    (sliceOn (sliceTask 2 1 0x20 []) sliceAdm).tck.aborting.contains 1 = false ∧
    ({ sliceOn (sliceTask 2 1 0x20 []) sliceAdm with tck := { aborting := [1] } } : State).tck.aborting.contains 1 = true ∧
    (sliceTask 1 0 0 []).cls ≠ 5 ∧ (getEng (sliceOn (sliceTask 1 0 0 []) sliceAdm) 0).running = some 1 := by decide

theorem wit_slice_upset : (engFault ((sliceTask 2 1 0x20 []).charged 4) (({ sliceOn (sliceTask 2 1 0x20 []) sliceAdm with
      upset := [(0x20, 5)] } : State).charged (sliceTask 2 1 0x20 []) 3 1 4)).isSome = true ∧
    (sliceTask 2 1 0x20 []).direct = none ∧ (sliceOn (sliceTask 2 1 0x20 []) sliceAdm).tck.aborting.contains 1 = false := by decide

/-- The values of the first granule of an addition: 1 + 3 and 2 + 0. -/
theorem wit_vector : (sliceTask 2 1 0x20 []).spec = false ∧ (sliceTask 2 1 0x20 []).pos + 1 < sliceAdm.stop ∧
    sliceAdm.stop ≤ lastAdd.pos + 1 ∧ vecTotal lastAdd ≤ lastAdd.pos + 1 ∧ (sliceOn lastAdd sliceAdm).inSlice lastAdd sliceAdm 1 4 ∧
    (sliceOn (sliceTask 2 1 0x20 []) sliceAdm).upset.contains (0x20, 72) = false ∧
    (granuleIds (sliceTask 2 1 0x20 [])).map (fun i => elementRule 1 ((sliceTask 2 1 0x20 []).charged 4)
      ((sliceOn (sliceTask 2 1 0x20 []) sliceAdm).charged (sliceTask 2 1 0x20 []) 3 1 4) i 0) = [0x40800000, 0x40000000] ∧
    writable (sliceOn (sliceTask 2 1 0x20 []) sliceAdm) [(0x180000000200, 0), (0x180000000207, 0x40)] :=
  ⟨by decide, by decide, by decide, by decide, by unfold State.inSlice; decide, by decide, by decide, rfl⟩

/-- The addition of a speculative task. -/
def provAdd : Task := { sliceTask 2 1 0x20 [] with desc := (sliceTask 2 1 0x20 []).desc.set 0 (word (1 + 2 * 256 + 5 * 65536 + 2 ^ 32 + 2 ^ 48)) }

theorem wit_vector_spec : provAdd.spec = true ∧ provAdd.cls = 2 ∧ provAdd.op = 1 ∧ (sliceOn provAdd sliceAdm).inSlice provAdd sliceAdm 1 4 := by
  unfold State.inSlice; decide

/-- A row of 64 elements: two granules. -/
def rowTask : Task := { sliceTask 2 6 0x20 [] with td := [tensorWords 1 4 0x180000000000 64 3], base := [0x180000000000] }

theorem wit_row_op : (sliceOn rowTask sliceAdm).inSlice rowTask sliceAdm 1 4 ∧ rowTask.pos + 1 < sliceAdm.stop ∧
    rowTask.pos + 1 < vecTotal rowTask ∧ rowTask.pos % rowGran rowTask + 1 ≠ rowGran rowTask := by unfold State.inSlice; decide

/-- At the second and last granule of the first row, and of FINITE over one granule. -/
theorem wit_row_last : (sliceOn { rowTask with pos := 1 } sliceAdm).inSlice { rowTask with pos := 1 } sliceAdm 1 4 ∧
    ({ rowTask with pos := 1 } : Task).pos % rowGran rowTask + 1 = rowGran rowTask ∧
    (sliceOn { sliceTask 2 9 0x20 [] with pos := 2 } sliceAdm).inSlice { sliceTask 2 9 0x20 [] with pos := 2 } sliceAdm 1 4 ∧
    vecTotal { sliceTask 2 9 0x20 [] with pos := 2 } = 3 ∧ sliceAdm.stop = 3 ∧
    (sliceOn { sliceTask 2 9 0x20 [] with pos := 2 } sliceAdm).tck.aborting.contains 1 = false := by unfold State.inSlice; decide

theorem wit_row_writes : writable (sliceOn { rowTask with pos := 1 } sliceAdm) [(0x180000000200, 1)] ∧
    writable (sliceOn (sliceTask 2 9 0x20 []) sliceAdm) [(0x180000000200, 1)] := ⟨rfl, rfl⟩

theorem wit_random : (sliceOn (sliceTask 2 0xD 0x20 []) sliceAdm).inSlice (sliceTask 2 0xD 0x20 []) sliceAdm 1 4 ∧
    (sliceOn (sliceTask 2 0xD 0x20 []) sliceAdm).upset.contains (0x20, 72) = false ∧
    writable (sliceOn (sliceTask 2 0xD 0x20 []) sliceAdm) [(0x180000000200, 1)] := ⟨by unfold State.inSlice; decide, by decide, rfl⟩

theorem wit_function : (sliceOn (sliceTask 3 1 0x20 []) sliceAdm).inSlice (sliceTask 3 1 0x20 []) sliceAdm 1 4 ∧
    (sliceTask 3 1 0x20 []).used 3 = false ∧
    writable (sliceOn (sliceTask 3 1 0x20 []) sliceAdm) [(0x180000000200, 1)] := ⟨by unfold State.inSlice; decide, by decide, rfl⟩

theorem wit_load : (sliceOn (sliceTask 3 2 0x20 []) { sliceAdm with stop := 1 }).inSlice (sliceTask 3 2 0x20 [])
      { sliceAdm with stop := 1 } 1 4 ∧ vecTotal (sliceTask 3 2 0x20 []) = 1 ∧ (sliceTask 3 2 0x20 []).direct = none ∧
    (sliceOn (sliceTask 3 2 0x20 []) sliceAdm).tck.aborting.contains 1 = false := by unfold State.inSlice; decide

/-- A product's slice with the tile of its first pass loaded and armed. -/
def loadedOn (t : Task) (a : Adm) : State := { sliceOn t a with
  arr := [(0, { units := [(0, { ready := true, armed := true, load := some (1, 0) })] })] }

/-- The product at row `n` of its first pass. -/
def productAt (n : Nat) : Task := { sliceTask 1 0 0 [] with pos := n }

/-- The product's slice, in whose tile is swapped before its first row, or is active at its last. -/
theorem wit_matrix : (loadedOn (productAt 0) sliceAdm).inSlice (productAt 0) sliceAdm 1 4 ∧
    (loadedOn (productAt 0) sliceAdm).tck.aborting.contains 1 = false ∧
    (place (productAt 0) 0).2.2.2 + 1 ≠ rowsOf (productAt 0) (place (productAt 0) 0).2.1 ∧
    climbing (loadedOn (productAt 0) sliceAdm) 0 0 = false ∧ (loadedOn (productAt 0) sliceAdm).ls = [] ∧
    (tileIn ((productAt 0).charged 4) ((loadedOn (productAt 0) sliceAdm).charged (productAt 0) 3 1 4)).isSome = true ∧
    (productAt 0).pos + 1 < sliceAdm.stop ∧ (productAt 0).pos + 1 < matTotal (productAt 0) ∧
    (loadedOn (productAt 0) { sliceAdm with stop := 1 }).inSlice (productAt 0) { sliceAdm with stop := 1 } 1 4 := by
  unfold State.inSlice; decide

/-- Its last row, which is its pass's and its task's. -/
theorem wit_matrix_last : (loadedOn (productAt 2) sliceAdm).inSlice (productAt 2) sliceAdm 1 4 ∧
    (place (productAt 2) 2).2.2.2 + 1 = rowsOf (productAt 2) (place (productAt 2) 2).2.1 ∧
    (place (productAt 2) 2).2.2.1 + 1 = kTiles (productAt 2) ∧ matTotal (productAt 2) ≤ 3 ∧ sliceAdm.stop ≤ 3 ∧
    (tileIn ((productAt 2).charged 4) ((loadedOn (productAt 2) sliceAdm).charged (productAt 2) 3 1 4)).isSome = true ∧
    (getEng (loadedOn (productAt 2) sliceAdm) 0).running = some 1 := by unfold State.inSlice; decide

/-- The same with the keeper at its first step and enabled. -/
def keptDown : State := { sliceOn (sliceTask 1 0 0 []) sliceAdm with
  regs := (sliceOn (sliceTask 1 0 0 []) sliceAdm).regs ++ [(regKey (ap 0 5) 0x200, word (16 + 2 ^ 32))],
  arr := [(0, { units := [(0, { step := 1 })] })] }

theorem wit_matrix_waits : keptDown.inSlice (sliceTask 1 0 0 []) sliceAdm 1 4 ∧ climbing keptDown 0 0 = true ∧
    (getUnit (sliceOn (sliceTask 1 0 0 []) sliceAdm) 0 0).placed ≠ some 1 ∧
    canSwap (sliceOn (sliceTask 1 0 0 []) sliceAdm) 0 0 (sliceTask 1 0 0 []) 0 = false := by unfold State.inSlice; decide

/-- The heritage product over more than one K tile. -/
def heritageTask : Task := { sliceTask 1 1 0 [] with
  td := [tensorWords 4 1 0x180000000000 4096 3, tensorWords 4 1 0x180000010000 4 4096, tensorWords 1 4 0x180000020000 4 3],
  base := [0x180000000000, 0x180000010000, 0x180000020000] }

theorem wit_heritage : (loadedOn heritageTask sliceAdm).inSlice heritageTask sliceAdm 1 4 ∧
    (tileIn (heritageTask.charged 4) ((loadedOn heritageTask sliceAdm).charged heritageTask 3 1 4)).isSome = true ∧
    (place { heritageTask with pos := 2 } 2).2.2.2 + 1 = rowsOf heritageTask (place heritageTask 2).2.1 ∧
    (place heritageTask 0).2.2.2 + 1 ≠ rowsOf heritageTask (place heritageTask 0).2.1 ∧
    (place heritageTask 0).2.2.1 + 1 ≠ kTiles heritageTask := by unfold State.inSlice; decide

/-- A product with two complete blocks that wait for the epilogue. -/
def blocksTask : Task := { sliceTask 1 0 0 [] with blocks := [(0, [0x3F800000]), (1, [])] }

theorem wit_epilogue : findTask (sliceOn blocksTask sliceAdm) 1 = some blocksTask ∧
    blocksTask.blocks = (0, [0x3F800000]) :: [(1, [])] ∧ running (sliceOn blocksTask sliceAdm) = true ∧
    blocksTask.used 3 = false ∧ blocksTask.used 4 = false ∧
    bit (getReg (sliceOn blocksTask sliceAdm) (pageOf .stn 0 0) 0x200) 8 = false ∧
    provPoison (sliceOn blocksTask sliceAdm) blocksTask [] = none ∧
    matTotal { blocksTask with blocks := [(0, [])], pos := 3 } ≤ 3 ∧ blocksTask.direct = none ∧
    writable (sliceOn blocksTask sliceAdm) [(0x180000000200, 1)] := ⟨by decide, rfl, by decide, by decide, by decide, by decide, by decide, by decide, by decide, rfl⟩

theorem wit_optimiser : (sliceOn (sliceTask 4 0 0x30 []) sliceAdm).inSlice (sliceTask 4 0 0x30 []) sliceAdm 1 4 ∧
    (sliceTask 4 0 0x30 []).used 4 = false ∧ (sliceTask 4 0 0x30 []).used 5 = false ∧
    (sliceOn (sliceTask 4 0 0x30 []) sliceAdm).upset.contains (0x30, 72) = false ∧ bit ((sliceTask 4 0 0x30 []).w 24) 1 = false ∧
    provPoison (sliceOn (sliceTask 4 0 0x30 []) sliceAdm) (sliceTask 4 0 0x30 []) [] = none ∧
    needSpans (sliceOn (sliceTask 4 0 0x30 []) sliceAdm) true ((granIds (sliceTask 4 0 0x30 [])).flatMap (fun z =>
      ((List.range 4).filter (fun i => (sliceTask 4 0 0x30 []).used i)).flatMap
        (fun i => ((sliceTask 4 0 0x30 []).tensor i).spans z.2))) = .ok := by unfold State.inSlice; decide

/-- A copy of six elements, its slice to end past the run it is at. -/
theorem wit_copy : (sliceOn (sliceTask 5 0 0x38 []) { sliceAdm with stop := 7 }).inSlice (sliceTask 5 0 0x38 [])
      { sliceAdm with stop := 7 } 1 4 ∧ srcFar (sliceOn (sliceTask 5 0 0x38 []) sliceAdm) (sliceTask 5 0 0x38 []) = false ∧
    dstFar (sliceOn (sliceTask 5 0 0x38 []) sliceAdm) (sliceTask 5 0 0x38 []) = false ∧
    runEnd (sliceTask 5 0 0x38 []) ((sliceTask 5 0 0x38 []).tensor 0) 0 6 512 1 = 6 ∧ provPoison (sliceOn (sliceTask 5 0 0x38 []) sliceAdm) (sliceTask 5 0 0x38 []) [(0x180000000000, 24)] = none ∧
    doneRuns { sliceTask 5 0 0x38 [] with pos := 6, hold := List.replicate 6 [] } 6 = [(0, 6)] ∧
    (sliceOn (sliceTask 5 0 0x38 []) sliceAdm).inSlice (sliceTask 5 0 0x38 []) sliceAdm 1 4 ∧ overlapped (sliceTask 5 0 0x38 []) = false ∧
    needSpans (sliceOn (sliceTask 5 0 0x38 []) sliceAdm) true [(0x180000000000, 24)] = .ok ∧
    writable (sliceOn (sliceTask 5 0 0x38 []) sliceAdm) [(0x180000000100, 1)] :=
  ⟨by unfold State.inSlice; decide, by decide, by decide, by decide, by decide, by decide, by unfold State.inSlice; decide, by decide,
    by decide, rfl⟩

/-- ARM of bucket 0 of six FP32 elements. -/
def armBuck : Buck := { job := 5, bucket := 0, op := 0, maxFp32 := false, lift := 0, fmt := 1, base := 0x180000000100,
                        elems := 6, sbase := 0, pbase := 0, flag := 0 }

theorem wit_arm : (sliceOn (sliceTask 6 0 0x80 []) { sliceAdm with stop := 1 }).inSlice (sliceTask 6 0 0x80 [])
      { sliceAdm with stop := 1 } 1 4 ∧ redTotal (sliceOn (sliceTask 6 0 0x80 []) sliceAdm) (sliceTask 6 0 0x80 []) = 1 ∧
    findBuck { (sliceOn (sliceTask 6 0 0x80 []) sliceAdm) with lnk := { bucks := [armBuck] } } 5
      (bucketOf (sliceTask 6 0 0x80 [])) = some armBuck ∧ (identity armBuck).length = 24 ∧ (sliceTask 6 0 0x80 []).direct = none ∧
    (sliceOn (sliceTask 6 0 0x80 []) sliceAdm).tck.aborting.contains 1 = false := by unfold State.inSlice; decide

/-! ### Witnesses: the tick, jobs, arrays, the Skim and the Ladle -/

theorem wit_boundary : up.sys.released = true ∧ (getBlk up tckPage).ready = true ∧ running up = true ∧
    running { up with rel := { fqActive := true } } = false := by decide

theorem wit_rerun : ladleDirect { up with eng := [(0, { fresh := false })] } 0 = false ∧
    (getEng { up with eng := [(0, { fresh := false })] } 0).fresh = false ∧
    (getEng { up with eng := [(0, { fresh := false })] } 0).queue = [] ∧
    (getEng { up with eng := [(0, { fresh := false })] } 0).draining = false ∧
    running { up with eng := [(0, { fresh := false })] } = true := by decide

/-- A task suspended on engine 0 that an abort has reached. -/
def drainedAway : State := { jobFive [decideTask .dispatched] with
  eng := [(0, { ctx := [1], draining := true })], tck := { (jobFive []).tck with aborting := [1] } }

theorem wit_drain_abort : 1 ∈ (getEng drainedAway 0).ctx ∧ drainedAway.tck.aborting.contains 1 = true ∧
    findTask drainedAway 1 = some (decideTask .dispatched) ∧ (decideTask .dispatched).direct = none ∧
    (∀ id ∈ (getEng up 0).ctx, up.tck.aborting.contains id = false) := by decide

/-- Job 5's DECIDE evaluated, with its member. -/
def evaluated (c : Bool) : State := jobFive [{ decideTask .evaluated with status := 1, outcome := some c }, heldMember]

theorem wit_outcomes (c : Bool) : (evaluated c).tasks.filter (fun x => x.phase == .evaluated) =
      [{ decideTask .evaluated with status := 1, outcome := some c }] ∧ ((evaluated c).tasks.map (·.id)).Nodup ∧
    heldMembers (evaluated c) 5 3 (decideTask .evaluated).use = [heldMember] ∧ heldMember.status = 1 ∧ heldMember.resv = [] ∧
    (([{ decideTask .evaluated with status := 1, outcome := some c }, heldMember] : List Task).map (·.completion)).Nodup ∧
    (∀ x ∈ ([decideTask .evaluated, heldMember] : List Task), x.completion % 64 = 0 ∧ access (evaluated c) x.completion = .ok) ∧
    lossEntries (evaluated c) (decideTask .evaluated) = [] := by cases c <;> decide

/-- A loss entry names the group, to grow after two steps. -/
def lossOn : State := { evaluated true with
  skm := { ents := [(2, { cfg := word (5 + 2 ^ 16 + 2 ^ 17), param := word (3 + 2 * 2 ^ 16) })] } }

theorem wit_outcome_loss : lossEntries lossOn (decideTask .evaluated) = [(2, getEnt lossOn 2)] := by decide

/-- A map-out of ARR0 has begun while job 5's task runs there, from a queue of the job's mapping. -/
def swapping : State := { sliceOn (sliceTask 1 0 0 []) sliceAdm with
  regs := memUp.regs ++ [(regKey tck1Page 0x1008, word (0 + 256 + 2 ^ 15))], rel := { reqs := [⟨0x10, 0, 0, false, false, true, 0, false⟩] } }

theorem wit_map_out_e2 : mapAtE2 up = none ∧ mapAtE2 swapping = some (0x10, 0) ∧ (getBlk swapping (codePage 0x10 0)).mappedOut = false ∧
    (swapping.tasks.map (·.id)).Nodup ∧ (enginesOf 0x10 0).contains (sliceTask 1 0 0 []).eng = true ∧ (sliceTask 1 0 0 []).direct = none ∧
    mapHit swapping (enginesOf 0x10 0) 0 = true ∧ (getSlot swapping 0).active = true ∧ mapHit up (enginesOf 0x10 0) 0 = false := by decide

theorem wit_admission : ladleDirect (sliceOn (sliceTask 1 0 0 []) sliceAdm) 0 = false ∧
    readyJobs (sliceOn (sliceTask 1 0 0 []) sliceAdm) 0 ≠ [] ∧ ctxMax 0 ≠ 0 := by decide

/-- Slot 0 open for job 5, slot 1 as given. -/
def slotsTwo (a b : JobSlot) : State := { jobFive [decideTask .waiting] with tck := { slots := [(0, a), (1, b)] } }

theorem wit_slot_staged : slotRefused (slotsTwo { w0 := 5, active := true } {}) 1 (word (5 + 2 ^ 16)) = true ∧
    slotRefused (slotsTwo { w0 := 5, active := true } {}) 1 (word (6 + 2 ^ 16)) = false ∧
    slotRefused (slotsTwo { w0 := 5, active := true } {}) 0 5 = false ∧ bit (5 : Word) 16 = false ∧
    jobHolds (slotsTwo { w0 := 5, closing := true } {}) 5 = false ∧ jobHolds (jobFive [decideTask .dispatched]) 5 = true ∧
    mapUsable (slotsTwo { w0 := word (5 + 2 ^ 34), active := true, mapReq := true } {}) 0 0 = true ∧
    mapUsable (slotsTwo { w0 := 5, active := true, mapReq := true } {}) 0 0 = false ∧
    ((slotsTwo {} {}).tasks.map (·.id)).Nodup ∧ jobShut (slotsTwo {} {}) (decideTask .waiting) = true ∧
    (decideTask .waiting).direct = none := by decide

/-- A task of the mapping in effect, of a queue bound to it, is dispatched. -/
theorem wit_map_holds : inMap { up with regs := [(regKey tck1Page 0x1008, word (256 + 2 ^ 15))] } 0 0 (decideTask .dispatched).cq = true ∧
    (decideTask .dispatched).phase = .dispatched := by decide

/-- A link key of job 5 staged for tick 0, in a state whose slot stays open. -/
def keyStaged : State := { jobFive [] with keys := [(5, { cur := some 66, staged := some (77, 0) })] }

theorem wit_key_staged : mfind keyStaged.keys 5 = some { cur := some 66, staged := some (77, 0) } ∧
    (∀ i < 32, (getSlot keyStaged i).closing = false) ∧ jobOpen (phaseE5 0 keyStaged) 5 = true := by decide

theorem wit_tick_staged : ({ up with tck := { staged := some (word (64 + 20 * 65536), 4), num := 4 } } : State).tck.staged =
    some (word (64 + 20 * 65536), 4) := rfl

theorem wit_tick_cfg : up.admits (.core 0) tckPage 0x200 (word (64 + 20 * 65536)) = true ∧
    fld (word (64 + 20 * 65536)) 6 0 = 64 ∧ fld (word (64 + 20 * 65536)) 23 16 = 20 ∧
    up.admits (.core 0) tckPage 0x200 (word (65 + 20 * 65536)) = true ∧ 64 < fld (word (65 + 20 * 65536)) 6 0 ∧
    fld (word (3 + 20 * 65536)) 6 0 < 4 ∧ fld (word (4 + 19 * 65536)) 23 16 < 20 ∧ 200 < fld (word (4 + 201 * 65536)) 23 16 := by
  decide

theorem wit_tick_src : up.admits (.core 0) tckPage 0x218 (word 1) = true ∧ fld (word 1) 1 0 = 1 ∧
    up.admits (.core 0) tckPage 0x218 0 = true := by decide

/-- A device that follows TICK_IN, in a state of its alignment. -/
def follows (align : Nat) : State := { up with
  regs := [(regKey tckPage 0x218, word (1 + 100 * 65536 + 16 * 2 ^ 24))], tck := { align := align, good := 7, missed := 16 } }

theorem wit_tick_in : (follows 1).sys.released = true ∧ tickSrc (follows 1) = 1 ∧ (follows 1).tck.align = 1 ∧
    (1000 : Int).natAbs ≤ regFld (follows 1) tckPage 0x218 23 16 * 10 ∧ tickSrc (follows 2) = 1 ∧
    (follows 2).tck.align = 2 := by decide

theorem wit_holdover : (follows 2).tck.align = 2 ∧
    max 1 (regFld (follows 2) tckPage 0x218 31 24) ≤ (follows 2).tck.missed := by decide

theorem wit_cq_bind : up.admits (.core 0) tck1Page (0x1000 + 8 * 247) (word 0x138) = true ∧
    bit (word 0x138) 8 = true ∧ (engOfTarget (fld (word 0x138) 7 0) 247).isSome = true ∧ cqBusy up 247 = false ∧
    resSum up 247 (word 0x138) (fld (word 0x138) 23 18) ≤ poolCount up (fld (word 0x138) 23 18) := by decide

theorem wit_cq_bind_busy : queueBound.admits (.core 0) tck1Page (0x1000 + 8 * 0) (word 0x138) = true ∧
    (engOfTarget (fld (word 0x138) 7 0) 0).isSome = true ∧ cqBusy queueBound 0 = true ∧
    fld (word 0x138) 7 0 ≠ fld (cqBind queueBound 0) 7 0 := by decide

theorem wit_cq_bind_own : up.admits (.core 0) tck1Page (0x1000 + 8 * 248) (word 0x138) = true ∧
    Initiator.core 0 ≠ .last := ⟨by decide, by decide⟩

theorem wit_own_queue : cobblerUp up = true ∧ fld (cqBind up 248) 8 0 = 0xFF ∧ (engOfTarget 0x38 248).isSome = true ∧
    cqBusy up 248 = false ∧ resSum up 248 (word (0x38 + 256)) 0 ≤ poolCount up 0 := by decide

theorem wit_job_slot : up.admits (.core 0) tckPage (0x1000 + 16 * 31) (word 5) = true := by decide

/-- A task of job 5 that waits, with its completion address in ABORT_ADDR. -/
def abortable : State := { jobFive [decideTask .waiting] with
  regs := (jobFive []).regs ++ [(regKey tckPage 0x240, word recordAt)] }

theorem wit_abort_task : abortable.admits (.core 0) tckPage 0x238 (setFld (word 5) 17 16 2) = true ∧
    abortable.tck.abortBusy = false ∧
    abortable.tasks.find? (fun t => (t.job == 5 && t.completion == regFld abortable tckPage 0x240 49 0 && t.direct.isNone) && t.phase != .held) =
      some (decideTask .waiting) ∧ findTask abortable 1 = some (decideTask .waiting) := by decide

theorem wit_abort_job : abortable.admits (.core 0) tckPage 0x238 (setFld (word 5) 17 16 3) = true ∧
    (abortable.tasks.map (·.id)).Nodup ∧ (∀ u ∈ abortable.tasks, u.id < abortable.nextTask) := by decide

theorem wit_abort_done : ({ up with tck := { abortBusy := true } } : State).tck.aborting = [] := rfl

/-- Job 5 has waited for three ticks, the limit. -/
def stuck : State := { abortable with
  regs := abortable.regs ++ [(regKey tckPage 0x250, 3)],
  tck := { slots := [(0, { w0 := 5, active := true })], noprog := [(0, 3)] } }

theorem wit_noprog : regFld stuck tckPage 0x250 15 0 ≠ 0 ∧ (getSlot stuck 0).active = true ∧
    regFld stuck tckPage 0x250 15 0 ≤ mget stuck.tck.noprog 0 0 ∧
    stuck.tasks.find? (fun t => t.job == fld (getSlot stuck 0).w0 15 0 && (t.phase == .waiting || t.phase == .accepted)) =
      some (decideTask .waiting) := by decide

/-- ARR0 with its first unit as given. -/
def arrUp (u : Unit) : State := { upWith [tckPage, ap 0 0, ap 0 6] with
  regs := [(regKey (ap 0 5) 0x200, word (16 + 4 * 65536 + 8 * 2 ^ 20 + 2 ^ 32))], arr := [(0, { units := [(0, u)] })] }

theorem wit_array_mode_held : (arrUp {}).admits (.core 0) (ap 0 0) 0x200 1 = true ∧
    ∃ e ∈ arrEngines 0, (getEng { arrUp {} with eng := [(0, { ctx := [1] })] } e).ctx ≠ [] :=
  ⟨by decide, 0, by decide, by decide⟩

theorem wit_array_mode : (∀ e ∈ arrEngines 0, (getEng (arrUp {}) e).ctx = []) ∧ (arrUp {}).admits (.core 0) (ap 0 0) 0x200 (word (b2n (!quadMode (arrUp {}) 0))) = true ∧
    work (arrUp {}) (ap 0 0) = false ∧ bit (word (b2n (!quadMode (arrUp {}) 0))) 0 ≠ quadMode (arrUp {}) 0 := by decide

theorem wit_array_mode_busy : (sliceOn (sliceTask 1 0 0 []) sliceAdm).admits (.core 0) (ap 0 0) 0x200 1 = true ∧
    work (sliceOn (sliceTask 1 0 0 []) sliceAdm) (ap 0 0) = true := by decide

theorem wit_swap : (arrUp {}).admits (.core 0) (ap 0 0) 0x208 1 = true ∧ unitIn (arrUp {}) 0 0 = true ∧ bit (1 : Word) 0 = true ∧
    bit (1 : Word) 4 = false ∧ climbing (arrUp { armed := true }) 0 0 = false ∧ climbing (arrUp { armed := true, step := 1 }) 0 0 = true ∧
    (∃ x u, nextTile (sliceOn (sliceTask 1 0 0 []) sliceAdm) 0 0 = some (x, u)) ∧
    (getUnit (arrUp {}) 0 0).ready = false ∧ (getUnit (arrUp { front := true }) 0 0).front = true ∧
    (getUnit (arrUp { front := true }) 0 0).chained = false ∧ (getUnit (arrUp { armed := true }) 0 0).armed = true :=
  ⟨by decide, by decide, by decide, by decide, by decide, by decide, ⟨_, _, rfl⟩, by decide, by decide, by decide, by decide⟩

/-- A unit whose load is ready: the task's own, one written through page 6, or none; and the tile's words in error. -/
def loadOn (u : Unit) : State := { sliceOn (sliceTask 1 0 0 []) sliceAdm with arr := [(0, { units := [(0, u)] })] }

theorem wit_load_ready : unitIn (loadOn {}) 0 0 = true ∧ nextTile (loadOn {}) 0 0 = some (sliceTask 1 0 0 [], 0) ∧
    nextTile (arrUp {}) 0 0 = none ∧ (loadOn {}).ls = [] ∧
    (getUnit (loadOn { ready := true, load := some (1, 0) }) 0 0).load = some (1, 0) ∧
    needSpans { loadOn {} with ls := [(0x180000000100 / 8, 2)] } true (tileSpans (sliceTask 1 0 0 []) 0) = .poison 0x180000000100 ∧
    findTask (loadOn {}) 1 = some (sliceTask 1 0 0 []) ∧ (loadOn {}).tck.aborting.contains 1 = false := by decide

theorem wit_tile_pass : (getUnit (loadOn { armed := true, load := some (1, 0) }) 0 0).armed = true ∧
    unitTask (loadOn { armed := true, load := some (1, 0) }) 0 0 = some (sliceTask 1 0 0 []) ∧
    passOf (sliceTask 1 0 0 []) 0 = 0 ∧ climbing (loadOn { armed := true, load := some (1, 0) }) 0 0 = false := by decide

theorem wit_keeper : keepEn (arrUp {}) 0 = true ∧ unitIn (arrUp {}) 0 0 = true ∧ keepEn (arrUp { step := 4 }) 0 = true ∧ (15 : Fin 32).val < 16 ∧ (getUnit (arrUp {}) 0 0).step < rampSteps (arrUp {}) 0 ∧
    keepCycles (arrUp {}) 0 + (getUnit (arrUp {}) 0 0).step * rampDwell (arrUp {}) 0 ≤ 16 ∧
    (getUnit (arrUp { step := 4 }) 0 0).step ≠ 0 := by decide

theorem wit_tbank : (arrUp {}).admits (.core 0) (ap 0 6) (0x1000 + 8 * 127) 7 = true ∧ work (arrUp {}) (ap 0 0) = false ∧
    (sliceOn (sliceTask 1 0 0 []) sliceAdm).admits (.core 0) (ap 0 6) 0x1000 7 = true ∧
    work (sliceOn (sliceTask 1 0 0 []) sliceAdm) (ap 0 0) = true := by
  decide

/-- The Skim with entry 3 of job 5 valid and exported, its statistics area at the start of HBM. -/
def skimUp (cfg : Word) : State := { memUp with
  blk := memUp.blk ++ [(firstPage skmPage, { ready := true })], regs := memUp.regs ++ [(regKey skmPage 0x10, 1)], skm := { ents := [(3, { cfg := cfg })] } }

theorem wit_skim_export : (skimUp (word (5 + 2 ^ 16 + 2 ^ 18))).admits (.core 0) skmPage 0x200 (word 5 ||| mask 16 16) = true ∧
    bit (word 5) 17 = false ∧ statMapped (skimUp (word (5 + 2 ^ 16 + 2 ^ 18))) = true ∧
    statReady (skimUp (word (5 + 2 ^ 16 + 2 ^ 18))) (fld (word 5) 15 0) = true ∧
    gradEnts (skimUp (word (5 + 2 ^ 16 + 2 ^ 18))) (fld (word 5) 15 0) = [3] ∧
    takesWork (skimUp (word (5 + 2 ^ 16 + 2 ^ 18))) skmPage = true ∧ (skimUp (word (5 + 2 ^ 16 + 2 ^ 18))).skm.busy = false := by decide

theorem wit_skim_advance : (skimUp (word (5 + 2 ^ 16 + 2 ^ 24))).admits (.core 0) skmPage 0x200 (word 5 ||| mask 17 17) = true ∧
    bit (word 5) 16 = false ∧ statReady (skimUp (word (5 + 2 ^ 16 + 2 ^ 24))) 5 = true ∧
    gradEnts (skimUp (word (5 + 2 ^ 16 + 2 ^ 24))) 5 = [3] ∧ bit (word (5 + 2 ^ 16 + 2 ^ 24)) 18 = false ∧
    candsOk (word (5 + 2 ^ 16 + 2 ^ 24)) = true ∧
    fld (getEnt (skimUp (word (5 + 2 ^ 16 + 2 ^ 24))) 3).st 1 0 ≤ fld (word (5 + 2 ^ 16 + 2 ^ 24)) 20 19 ∧
    (getEnt (skimUp (word (5 + 2 ^ 16 + 2 ^ 24))) 3).pend.amax < 0x7F800000 := by decide

/-- A synchronised entry's record lies in the statistics area. -/
theorem wit_skim_sync : gradEnts (skimUp (word (5 + 2 ^ 16 + 2 ^ 18 + 2 ^ 24))) 5 = [3] ∧
    bit (getEnt (skimUp (word (5 + 2 ^ 16 + 2 ^ 18 + 2 ^ 24))) 3).cfg 18 = true ∧
    candsOk (getEnt (skimUp (word (5 + 2 ^ 16 + 2 ^ 18 + 2 ^ 24))) 3).cfg = true ∧
    statMapped (skimUp (word (5 + 2 ^ 16 + 2 ^ 18 + 2 ^ 24))) = true ∧ statReady (skimUp (word (5 + 2 ^ 16 + 2 ^ 18 + 2 ^ 24))) 5 = true ∧
    poisoned (skimUp (word (5 + 2 ^ 16 + 2 ^ 18 + 2 ^ 24))) (lineOf (statBase (skimUp (word (5 + 2 ^ 16 + 2 ^ 18 + 2 ^ 24))) + 64 * 3)) = false ∧
    (recAt (skimUp (word (5 + 2 ^ 16 + 2 ^ 18 + 2 ^ 24))) (statBase (skimUp (word (5 + 2 ^ 16 + 2 ^ 18 + 2 ^ 24))) + 64 * 3)).nonfin = false ∧
    (recAt (skimUp (word (5 + 2 ^ 16 + 2 ^ 18 + 2 ^ 24))) (statBase (skimUp (word (5 + 2 ^ 16 + 2 ^ 18 + 2 ^ 24))) + 64 * 3)).amax < 0x7F800000 := by
  decide

theorem wit_skim_done : skimBusy.skm.busy = true ∧ skimBusy.skm.doExport = false ∧ skimBusy.skm.doAdvance = false ∧
    mfind ({ skimBusy with skm := { skimBusy.skm with ents := [(3, {})] } } : State).skm.ents 3 = some {} := by decide

theorem wit_entry_cfg : (skimUp 0).admits (.core 0) skmPage 0x218 (word (5 + 2 ^ 16)) = true ∧ (skimUp 0).skm.busy = false ∧
    skimBusy.admits (.core 0) skmPage 0x218 (word (5 + 2 ^ 16)) = true ∧ skimBusy.skm.busy = true := by decide

theorem wit_churn_rennet : up.admits (.core 0) chnPage 0x200 4 = true ∧ bit (4 : Word) 2 = true ∧
    up.admits (.core 0) rngPage 0x218 1 = true ∧ bit (1 : Word) 0 = true ∧
    takesWork { upWith [rngPage] with regs := [(regKey rngPage 0x10, 1)] } rngPage = true := by decide

/-- Ladle 0 in direct mode, with channel 15's shadow set as given. -/
def direct (x : Chan) : State := { memUp with
  blk := memUp.blk ++ [(firstPage (ldlPage 0 0), { ready := true })],
  regs := memUp.regs ++ [(regKey (ldlPage 0 0) 0x200, 1), (regKey (ldlPage 0 0) 0x10, 1)], ldl := [(0, { shadow := [(15, x)] })] }

theorem wit_direct_mode : up.admits (.core 0) (ldlPage 0 0) 0x200 1 = true ∧ work up (ldlPage 0 0) = false ∧
    (sliceOn (sliceTask 5 0 0x38 []) sliceAdm).admits (.core 0) (ldlPage 0 0) 0x200 1 = true ∧
    work (sliceOn (sliceTask 5 0 0x38 []) sliceAdm) (ldlPage 0 0) = true ∧
    bit (1 : Word) 0 ≠ directMode (sliceOn (sliceTask 5 0 0x38 []) sliceAdm) 0 := by decide

theorem wit_channel_arm : (direct {}).admits (.core 0) (ldlPage 0 0) (0x1040 + 128 * 15 + 16) (mask 18 18) = true ∧
    directMode (direct {}) 0 = true ∧ (mget (getLdl (direct {}) 0).shadow 15 {}).busy = false := by decide

theorem wit_direct_start : directMode (direct { busy := true }) 0 = true ∧ takesWork (direct { busy := true }) (ldlPage 0 0) = true ∧
    running (direct { busy := true }) = true ∧ (getLdl (direct { busy := true }) 0).serving = none ∧
    nextChannel (direct { busy := true }) 0 = some 15 ∧
    descNeed (direct { busy := true }) (mget (getLdl (direct { busy := true }) 0).shadow 15 {}) ≠ .wait := by decide

/-- A channel whose transfer is good: the descriptors at lines 0 and 65 name two rows of a local store. -/
def goodChannel : State :=
  { direct { src := 0, dst := word recordAt, ctl := 5, busy := true } with
    mem := memStore (memStore {} 0 (wordsBytes (tensorWords 1 4 0x180000000000 2 3))) recordAt
      (wordsBytes (tensorWords 1 4 0x180000000100 2 3)) }

theorem wit_direct_start_good : directFail goodChannel 0 15 { src := 0, dst := word recordAt, ctl := 5, busy := true } = none ∧
    ∃ f, directFail (direct { src := 1, busy := true }) 0 15 { src := 1, busy := true } = some f := ⟨by decide, _, rfl⟩

/-- A MOVE on Ladle 0 past its last byte. -/
def movedTask : Task := { sliceTask 5 0 0x38 [] with pos := 6 }

theorem wit_readback : awaiting (sliceOn movedTask sliceAdm) 0 = some movedTask ∧
    findTask (sliceOn movedTask sliceAdm) 1 = some movedTask ∧ movedTask.direct = none ∧ movedTask.spec = false ∧
    needLines (sliceOn movedTask sliceAdm) true [lineOf (lastByte movedTask)] = .ok ∧
    (sliceOn movedTask sliceAdm).tck.aborting.contains 1 = false := by decide

/-- It moved to HBM, where the line of its last byte is poisoned. -/
def poisonedMove : Task := { movedTask with
  td := movedTask.td.set 1 (tensorWords 1 4 0 2 3), base := movedTask.base.set 1 0 }

theorem wit_readback_poison : awaiting { sliceOn poisonedMove sliceAdm with poison := [0] } 0 = some poisonedMove ∧
    ∃ a, needLines { sliceOn poisonedMove sliceAdm with poison := [0] } true [lineOf (lastByte poisonedMove)] = .poison a :=
  ⟨by decide, _, rfl⟩

/-! ### Witnesses: the Creamery, the HBM and the links -/

/-- A scratchpad byte is listed in granule 0 of a slice. -/
def crmUp : State := { memUp with mem := memStore (memStore {} (scrByte 0) [7]) (scrByte 14) [7] }

theorem wit_crm_mode : crmUp.admits (.core 0) crm0 0x200 1 = true ∧ bit (1 : Word) 0 ≠ crmUp.crm.normal ∧ modeFree crmUp = true ∧ takesWork crmUp crm0 = true ∧
    crmUp.admits (.core 0) crm0 0x208 15 = true ∧ 14 < fld (15 : Word) 3 0 ∧ crmUp.admits (.core 0) crm0 0x200 0 = true ∧
    crmUp.admits (.core 0) crm0 0x208 0 = true ∧ fld (0 : Word) 3 0 = regFld crmUp crm0 0x208 3 0 ∧
    crmUp.admits (.core 0) crm0 0x208 3 = true ∧ fld (3 : Word) 3 0 ≠ regFld crmUp crm0 0x208 3 0 ∧
    modeFree (jobFive []) = false ∧ (jobFive []).admits (.core 0) crm0 0x200 1 = true := by decide

theorem wit_mode_done : ({ crmUp with crm := { busy := true } } : State).crm.busy = true := rfl

/-- The copy of a slice's first scratchpad granule, one of its lines poisoned and a word of another beyond correction. -/
def copying : State := { crmUp with
  crm := { copying := [(26, [(26, 0, false)])] }, poison := [0x1000012345], cw := [(0x1000012345 * 32, 2)] }

theorem wit_rehome : mfind copying.crm.copying (26 : Fin 64).val = some [(26, 0, false)] ∧
    scrCopied [(26, 0, false)] 0 131072 0x1000012345 = true ∧ mfind copying.crm.copying (27 : Fin 64).val = none := by decide

/-- The first slice's scrubber on. -/
def scrubbing : State := { memUp with regs := memUp.regs ++ [(regKey crm0 0x288, 1)], crm := { normal := true, sp := 14 } }

theorem wit_scrub : sliceHolds scrubbing (lineOf 0x100000000000) = true ∧ mappedMem scrubbing 0x100000000000 = true ∧
    sliceOf scrubbing 0x100000000000 = 0 ∧ mget scrubbing.cw (0x100000000000 / 8) 0 = 0 ∧ regBit scrubbing crm0 0x288 0 = true ∧     enAck scrubbing crm0 = true := by decide

/-- A running device with HBM controller 0 enabled and its stack as given. -/
def hbmUp (h : Hbm) : State := { upWith [tckPage, hp 0 0] with
  regs := [(regKey (hp 0 0) 0x10, 1), (regKey (hp 0 3) 0x208, 5)], hbm := [(0, h)] }

theorem wit_hbm_request : (hbmUp {}).admits (.core 0) (hp 0 0) 0x200 1 = true ∧ enAck (hbmUp {}) (hp 0 0) = true ∧
    (getHbm (hbmUp {}) 0).state = 0 ∧ (getHbm (hbmUp { state := 1 }) 0).state = 1 ∧
    (hbmUp { state := 3 }).admits (.core 0) (hp 0 0) 0x200 2 = true ∧ (getHbm (hbmUp { state := 3 }) 0).therm ≠ 3 ∧
    (getHbm (hbmUp { state := 3 }) 0).held = false ∧ (getHbm (hbmUp { state := 1, therm := 3 }) 0).therm = 3 ∧ (hbmUp { state := 4 }).admits (.core 0) (hp 0 0) 0x200 2 = true ∧
    (hbmUp { state := 2 }).admits (.core 0) (hp 0 0) 0x200 3 = true := by decide

/-- INIT, ACTIVE and SELF_REFRESH where the table does not allow them. -/
theorem wit_hbm_refused : (hbmUp { state := 1 }).admits (.core 0) (hp 0 0) 0x200 1 = true ∧
    (hbmUp { state := 1 }).admits (.core 0) (hp 0 0) 0x200 2 = true ∧ (hbmUp { state := 1 }).admits (.core 0) (hp 0 0) 0x200 3 = true ∧
    (getHbm (hbmUp { state := 1 }) 0).state = 1 ∧ (getHbm (hbmUp { state := 3, held := true }) 0).held = true ∧
    (getHbm (hbmUp { state := 3, therm := 3 }) 0).therm = 3 := by decide

theorem wit_hbm_test : (hbmUp { state := 2 }).admits (.core 0) (hp 0 0) 0x200 4 = true ∧
    (hbmUp { state := 2 }).crm.normal = false ∧ anyJobOpen (hbmUp { state := 2 }) = false ∧
    (∀ m < 8, (getHbm (hbmUp { state := 2 }) m).state ≠ 4) ∧ enAck (hbmUp { state := 2 }) (hp 0 0) = true ∧
    (getHbm (hbmUp { state := 3 }) 0).state ≠ 2 ∧ anyJobOpen (jobFive []) = true := by decide

theorem wit_hbm_temp : (getHbm (hbmUp { state := 2 }) 0).therm < 3 ∧ thermOf (hbmUp { state := 2 }) 0 255 = 3 ∧
    (getHbm (hbmUp { fails := 2 }) 0).fails = 2 := by decide

theorem wit_refresh : (getHbm (hbmUp { state := 2 }) 0).state = 2 ∧
    fld (getReg (hbmUp { state := 2 }) (hp 0 1) 0x50) 7 0 = 0 ∧ bit (getReg (hbmUp { state := 2 }) (hp 0 1) 0x50) 8 = false := by
  decide

theorem wit_pc_rehome : (getHbm (hbmUp { copyBusy := true, copySrc := 3, copyDst := 504 }) 0).copyBusy = true ∧
    (getHbm (hbmUp { copyBusy := true, copySrc := 3, copyDst := 504 }) 0).copyDst ≠ 24 ∧
    lpcOf (hbmUp { copyBusy := true, copySrc := 3, copyDst := 504 }) (3 * 8 + 0) = some 24 := by decide

theorem wit_margin : (hbmUp { state := 4 }).admits (.core 0) (hp 0 3) 0x200 (word (32 * 65536) ||| word (2 ^ 32)) = true ∧
    regFld (hbmUp { state := 4 }) (hp 0 3) 0x208 31 0 ≠ 0 ∧ regFld (hbmUp { state := 4 }) (hp 0 3) 0x208 33 32 ≠ 3 ∧
    (toSigned 7 (fld (word (32 * 65536)) 22 16)).natAbs ≤ 32 ∧ (toSigned 5 (fld (word (32 * 65536)) 28 24)).natAbs ≤ 10 ∧
    (hbmUp { state := 2 }).admits (.core 0) (hp 0 3) 0x200 (0 ||| word (2 ^ 32)) = true ∧
    32 < (toSigned 7 (fld (word (33 * 65536)) 22 16)).natAbs ∧
    32 < (toSigned 7 (fld (word (95 * 65536)) 22 16)).natAbs ∧ 10 < (toSigned 5 (fld (word (11 * 2 ^ 24)) 28 24)).natAbs ∧
    10 < (toSigned 5 (fld (word (21 * 2 ^ 24)) 28 24)).natAbs ∧
    regFld { hbmUp { state := 4 } with regs := [(regKey (hp 0 3) 0x208, word (3 * 2 ^ 32 + 5))] } (hp 0 3) 0x208 33 32 = 3 ∧
    (getHbm (hbmUp { marginBusy := true }) 0).marginBusy = true := by decide

theorem wit_track : (getBlk (hbmUp { tracked := true }) (hp 0 0)).rstBusy = false ∧ (getHbm (hbmUp {}) 0).tracked = false := by decide

/-- A running device with port 0 in a state, with the PORT_CFG word as given. -/
def portUp (x : Port) (cfg : Word) : State := { upWith [tckPage, lp 0 0] with
  regs := [(regKey (lp 0 0) 0x10, 1), (regKey (lp 0 0) 0x200, cfg), (regKey 0 0x200, word (2 ^ 63 + 3))], lnk := { ports := [(0, x)] } }

/-- All eight lanes in order. -/
def eightLanes : List LanePattern := (List.finRange 8).map (fun i => ⟨true, true, i, false⟩)

theorem wit_training : inStep (leaveDisabled 0 (portUp {} 33)) 0 1 = true ∧
    4 ≤ ((List.range 8).filter (fun i => (0x0F : BitVec 8).getLsbD i && !laneOut (portUp {} 33) 0 i)).length ∧
    inStep (portUp { state := 7, step := 2 } 0) 0 2 = true ∧
    locksEnough (portUp { state := 7, step := 2 } 0) 0 (0x0F : BitVec 8).toNat (0xF0 : BitVec 8).toNat = true ∧
    inStep (leaveDisabled 0 (portUp {} 37)) 0 2 = true ∧ locksEnough (portUp {} 37) 0 255 255 = true ∧
    inStep (portUp { state := 3, step := 3 } 0) 0 3 = true ∧
    ((goodLanes (portUp { state := 3, step := 3 } 0) 0 eightLanes).map (fun z => 2 ^ z.1)).sum = 255 ∧
    (goodLanes (portUp { state := 3, step := 3 } 0) 0 (eightLanes.take 3)).length < 4 ∧
    inStep (portUp { state := 4, step := 4 } 0) 0 4 = true ∧
    portEth (portUp { state := 4, step := 4 } 0) 0 = false ∧ portEth (portUp { state := 4, step := 4 } 4) 0 = true := by decide

/-- All eight lanes in reverse order, as the port finds them first. -/
theorem wit_training_reversed : inStep (portUp { state := 3, step := 3 } 0) 0 3 = true ∧
    (goodLanes (portUp { state := 3, step := 3 } 0) 0 ((List.finRange 8).map (fun i => ⟨true, true, 7 - i, false⟩))).length = 8 ∧
    (∀ z ∈ goodLanes (portUp { state := 3, step := 3 } 0) 0 ((List.finRange 8).map (fun i => ⟨true, true, 7 - i, false⟩)),
      z.2.lane.val = 7 - z.1) ∧ (getPort (portUp { state := 3, step := 3 } 0) 0).reversed = false ∧
    (getPort (portUp { state := 3, step := 3 } 0) 0).mirrored = false := by decide

/-- Four lanes of eight good where ALLOW_X4 permits. -/
theorem wit_training_x4 : inStep (portUp { state := 3, step := 3 } 64) 0 3 = true ∧
    regBit (portUp { state := 3, step := 3 } 64) (lp 0 0) 0x200 6 = true ∧
    4 ≤ (goodLanes (portUp { state := 3, step := 3 } 64) 0 (eightLanes.take 4)).length ∧ 4 ≤ laneCount (0x0F : BitVec 8).toNat ∧
    ((goodLanes (portUp { state := 3, step := 3 } 64) 0 (eightLanes.take 4)).map (fun z => 2 ^ z.1)).sum ≠ 255 := by decide

/-- A port with all its echo samples. -/
def delaying (cfg : Word) : State := portUp { state := 5, step := 5, echoes := List.replicate 16 40 } cfg

theorem wit_delay : inStep (delaying 0) 0 5 = true ∧ 16 ≤ (getPort (delaying 0) 0).echoes.length ∧
    regBit (delaying 0) (lp 0 0) 0x200 22 = false ∧ devValid (delaying 0) = true ∧ devNum (delaying 0) = 3 ∧
    regBit (delaying 0) (lp 0 0) 0x200 7 = false ∧ regBit (delaying (word (2 ^ 22 + 9 * 256))) (lp 0 0) 0x200 22 = true ∧
    regFld (delaying (word (2 ^ 22 + 9 * 256))) (lp 0 0) 0x200 21 8 = 9 ∧
    devValid { delaying 0 with regs := [(regKey (lp 0 0) 0x200, 0)] } = false ∧
    inStep { delaying 0 with regs := [(regKey (lp 0 0) 0x200, 0)] } 0 5 = true := by decide

theorem wit_retrain : (portUp { state := 8 } 0).admits (.core 0) (lp 0 0) 0x228 1 = true ∧ bit (1 : Word) 0 = true ∧
    (getPort (portUp { state := 8 } 0) 0).state = 8 ∧ (getPort (portUp { state := 6 } 0) 0).state = 6 ∧
    regBit (portUp { state := 8 } (word (2 ^ 32))) (lp 0 0) 0x200 32 = true ∧ takesWork (portUp { state := 8 } (word (2 ^ 32))) (lp 0 0) = true ∧
    1 ≤ (getPort (portUp { state := 1 } 0) 0).state ∧ (getPort (portUp { state := 1 } 0) 0).state ≤ 5 := by decide

/-- A frame of a type and number that arrives whole, its body zeros. -/
def goodFrame (type seq : Nat) : Frame :=
  { w0 := frameWord seq 0 type false, body := List.replicate 244 0,
    crc := Crypto.crc32 (wordBytes (frameWord seq 0 type false) ++ List.replicate 244 0), fecBad := false }

theorem frameGood_goodFrame (type seq : Nat) : frameGood (goodFrame type seq) = true := by simp [frameGood, goodFrame]

theorem wit_frames : (∀ ty ∈ [0, 1, 2, 3, 4, 5, 6], takesFrame (portUp { state := 6 } 0) 0 (goodFrame ty 1) ty) ∧
    frameNak (goodFrame 0 1) = false ∧ frameSeq (goodFrame 0 1) = ((getPort (portUp { state := 6 } 0) 0).rseq + 1) % 2 ^ 24 ∧
    frameSeq (goodFrame 1 1) ≠ (getPort (portUp { state := 6 } 0) 0).rseq ∧ frameNak (goodFrame 1 1) = false ∧
    frameSeq (goodFrame 5 0) = (getPort (portUp { state := 6 } 0) 0).rseq ∧
    frameSeq (goodFrame 0 5) ≠ ((getPort (portUp { state := 6 } 0) 0).rseq + 1) % 2 ^ 24 := by
  refine ⟨fun ty h => ⟨by decide, by decide, by decide, by decide, frameGood_goodFrame ty 1, ?_⟩, by decide, by decide, by decide, by decide, by decide,
    by decide⟩
  simp only [List.mem_cons, List.not_mem_nil, or_false] at h
  rcases h with h | h | h | h | h | h | h <;> subst h <;> decide

/-- The receive queues take a frame of no packets, and one packet of each kind. -/
theorem wit_rx_takes : rxTakes (portUp { state := 6 } 0) 0 (parsePackets 8 ((getPort (portUp { state := 6 } 0) 0).rx ++ (goodFrame 0 1).body)).1 ∧
    rxTakes (portUp { state := 6 } 0) 0 [packetOf 0, { packetOf 64 with w0 := 2 }] := by
  refine ⟨⟨by decide, by decide, ?_⟩, by decide, by decide, ?_⟩ <;> decide

theorem wit_bad_frame : frameGood { goodFrame 0 1 with body := [] } = false ∧ ({ goodFrame 0 1 with body := [] } : Frame).fecBad = false ∧
    5 ≤ (getPort (portUp { state := 6 } 0) 0).state ∧ running (portUp { state := 6 } 0) = true := by
  refine ⟨by simp [frameGood, goodFrame], rfl, by decide, by decide⟩

theorem wit_echo_sample : takesFrame (portUp { state := 5, step := 5 } 0) 0 (goodFrame 6 1) 6 ∧
    inStep (portUp { state := 5, step := 5 } 0) 0 5 = true ∧ (getPort (portUp { state := 5, step := 5 } 0) 0).echoes.length < 16 :=
  ⟨⟨by decide, by decide, by decide, by decide, frameGood_goodFrame 6 1, by decide⟩, by decide, by decide⟩

/-- The port is the one whose TICK frames set the tick. -/
def marking : State := { portUp { state := 6 } 0 with
  regs := [(regKey tckPage 0x218, 2)], tck := { align := 1, num := 4 } }

theorem wit_mark_frame : takesFrame marking 0 (goodFrame 3 1) 3 ∧ tickSrc marking = 2 ∧ regFld marking tckPage 0x218 7 4 = 0 ∧
    marking.tck.align ≠ 0 := ⟨⟨by decide, by decide, by decide, by decide, frameGood_goodFrame 3 1, by decide⟩, by decide, by decide, by decide⟩

theorem wit_down_frame : (regFld (portUp { state := 6 } 0) cx3 0x210 7 0 + 1) % 256 ≠ regFld (portUp { state := 6 } 0) cx3 0x210 23 16 := by
  decide

/-! ### Witnesses: requests, responses and the transport -/

/-- A packet of job 5 from device 9 to this device, number 3, its tag right under the key 77. -/
def taggedPacket (op code addr seq : Nat) (data : List Byte) : Packet :=
  let k := mkPacket 3 0 9 op 0 false false false 5 0 seq addr code data
  { k with tag := gcmMark 77 (nonce96 9 0) k.header k.body }

/-- Memory up, job 5 open with the key 77, port 0 ACTIVE. -/
def linkUp : State := { jobFive [] with
  regs := memUp.regs ++ [(regKey 0 0x200, word (2 ^ 63 + 3)), (regKey (lp 0 0) 0x10, 1)],
  blk := memUp.blk ++ [(firstPage (lp 0 0), { ready := true })],
  keys := [(5, { cur := some 77 })], lnk := { ports := [(0, { state := 6 })] } }

theorem openPacket_tagged (s : State) (k : Packet) (key : BitVec 256) (hk : getKey s k.job = { cur := some key })
    (ht : k.tag = gcmMark key (nonce96 k.src k.nonce) k.header k.body) : (openPacket s k).isSome = true := by
  simp [openPacket, hk, ht]

theorem linkUp_opens (op code addr seq : Nat) (data : List Byte)
    (hj : (taggedPacket op code addr seq data).job = 5) (hs : (taggedPacket op code addr seq data).src = 9)
    (hn : (taggedPacket op code addr seq data).nonce = 0) (s : State) (hk : getKey s 5 = { cur := some 77 }) :
    (openPacket s (taggedPacket op code addr seq data)).isSome = true := by
  refine openPacket_tagged _ _ 77 (by rw [hj]; exact hk) ?_
  rw [hs, hn]
  simp only [taggedPacket, Packet.header]

/-- No receive queue's pointers stand apart. -/
theorem linkUp_keeps (k : Packet) : rxLost 0 k linkUp = false := by
  cases h : k.isResp <;> simp only [rxLost, h] <;> rfl

/-- What the served-request statements ask of a packet, its data aside. -/
theorem wit_accepted (op code addr n : Nat) (data : List Byte) (hj : (taggedPacket op code addr 0 data).job = 5)
    (hs : (taggedPacket op code addr 0 data).src = 9) (hn : (taggedPacket op code addr 0 data).nonce = 0)
    (hh : headerNack linkUp 0 (taggedPacket op code addr 0 data) = none)
    (hr : n = 0 ∨ rangeOk linkUp (taggedPacket op code addr 0 data) n = true) :
    ∃ d, accepted linkUp 0 (taggedPacket op code addr 0 data) n d := by
  obtain ⟨d, hd⟩ := Option.isSome_iff_exists.mp (linkUp_opens op code addr 0 data hj hs hn linkUp (by decide))
  exact ⟨d, ⟨by decide, by decide, linkUp_keeps _⟩, hh, hr, hd⟩

theorem wit_read : (∃ d, accepted linkUp 0 (taggedPacket 1 1 0 0 []) ((taggedPacket 1 1 0 0 []).code * 256) d) ∧
    needSpans linkUp true [((taggedPacket 1 1 0 0 []).addr, (taggedPacket 1 1 0 0 []).code * 256)] = .ok :=
  ⟨wit_accepted 1 1 0 _ [] (by rfl) (by rfl) (by rfl) (by rfl) (by right; rfl), by rfl⟩

theorem wit_write : (∃ d, accepted linkUp 0 (taggedPacket 3 0 4 0 [1, 2]) (taggedPacket 3 0 4 0 [1, 2]).len d) ∧
    needLines linkUp false (linesOf (taggedPacket 3 0 4 0 [1, 2]).addr (taggedPacket 3 0 4 0 [1, 2]).len) = .ok :=
  ⟨wit_accepted 3 0 4 _ [1, 2] (by rfl) (by rfl) (by rfl) (by rfl) (by right; rfl), by rfl⟩

theorem wit_resolve : ∃ d, accepted linkUp 0 (taggedPacket 0x1A 0 4 0 []) 0 d :=
  wit_accepted 0x1A 0 4 _ [] (by rfl) (by rfl) (by rfl) (by rfl) (.inl rfl)

/-- Bucket 0 of job 5 armed, live, on line 0: FP32 sums, or MX8 blocks whose scales are at 64 and promoted sums at 128. -/
def armedBuck (op fmt : Nat) : Buck :=
  { job := 5, bucket := 0, op := op, maxFp32 := false, lift := 0, fmt := fmt, base := 0, elems := 32, sbase := 64, pbase := 128,
    flag := 192, live := true }

/-- linkUp with the bucket, a slot in the adder of line 0's stack. -/
def accUp (b : Buck) : State := { linkUp with
  lnk := { linkUp.lnk with bucks := [b], adders := [(4096 * 64, { job := 5, bucket := 0 })] } }

theorem wit_accumulate : addersTake (accUp (armedBuck 0 1)) (taggedPacket 8 0 0 0 [0, 0, 0x80, 0x3F]) (armedBuck 0 1) ∧
    headerNack (accUp (armedBuck 0 1)) 0 (taggedPacket 8 0 0 0 [0, 0, 0x80, 0x3F]) = none ∧
    (taggedPacket 8 0 0 0 [0, 0, 0x80, 0x3F]).len = 4 ∧ running (accUp (armedBuck 0 1)) = true ∧
    (openPacket (accUp (armedBuck 0 1)) (taggedPacket 8 0 0 0 [0, 0, 0x80, 0x3F])).isSome = true := by
  exact ⟨⟨.inl (by rfl), by rfl, by rfl, by rfl, by rfl, fun h => absurd h (by decide), by rfl⟩, by rfl, by rfl, by rfl,
    linkUp_opens 8 0 0 0 _ (by rfl) (by rfl) (by rfl) _ (by rfl)⟩

theorem wit_accumulate_mx : addersTake (accUp (armedBuck 2 0x10)) (taggedPacket 0xA 0 0 0 (List.replicate 33 0)) (armedBuck 2 0x10) ∧
    headerNack (accUp (armedBuck 2 0x10)) 0 (taggedPacket 0xA 0 0 0 (List.replicate 33 0)) = none ∧
    findBuck linkUp 5 0 = none := by
  exact ⟨⟨.inl (by rfl), by rfl, by rfl, by rfl, by rfl, fun _ => by rfl, by rfl⟩, by rfl, by rfl⟩

/-- A request outstanding to device 9, number 4, of task 1. -/
def trackOf (kind : ReqKind) (state : Nat) : Track :=
  { ord := 0, dev := 9, k := mkPacket 9 0 3 1 0 false false false 5 0 4 0 1 [], owner := 1, kind := kind, count := 1, state := state }

/-- linkUp with the request and its task. -/
def asking (kind : ReqKind) (state : Nat) (t : Task) : State := { linkUp with
  tasks := [t], lnk := { linkUp.lnk with track := [(4, trackOf kind state)], bucks := [armedBuck 0 1] } }

/-- What the answering statements ask of a packet: each response, and a NACK of each code. -/
theorem wit_answers (kind : ReqKind) (t : Task) (x : Nat × Nat)
    (h : x ∈ [(2, 0), (4, 0), (0x1B, 0), (5, 1), (5, 2), (5, 3), (5, 4), (5, 5), (5, 6), (5, 7), (5, 8)]) :
    ∃ d, answers (asking kind 1 t) 0 (taggedPacket x.1 x.2 0 4 []) (trackOf kind 1) d := by
  have hd : (openPacket (asking kind 1 t) (taggedPacket x.1 x.2 0 4 [])).isSome = true := by
    simp only [List.mem_cons, List.not_mem_nil, or_false] at h
    rcases h with h | h | h | h | h | h | h | h | h | h | h <;> subst h <;>
      exact linkUp_opens _ _ 0 4 [] (by rfl) (by rfl) (by rfl) _ (by rfl)
  obtain ⟨d, hd⟩ := Option.isSome_iff_exists.mp hd
  refine ⟨d, by rfl, ?_, hd, ?_⟩
  · cases h : (taggedPacket x.1 x.2 0 4 []).isResp <;> simp only [rxLost, h] <;> rfl
  simp only [List.mem_cons, List.not_mem_nil, or_false] at h
  rcases h with h | h | h | h | h | h | h | h | h | h | h <;> subst h <;> rfl

theorem wit_owner : ownerLive (asking .moveRead 1 (sliceTask 5 0 0x38 [])) 1 = true ∧ ownerLive linkUp 1 = false ∧
    (trackOf .moveRead 1).resolves < regFld linkUp cx2 0x200 11 8 ∧ (trackOf .moveRead 1).auth < regFld linkUp cx2 0x200 15 12 ∧
    regFld linkUp cx2 0x200 15 12 ≤ ({ trackOf .moveRead 1 with auth := 15 } : Track).auth ∧
    (sliceTask 5 0 0x38 []).nacked = none ∧ (taggedPacket 5 7 0 4 []).code = 7 ∧
    (∀ y ∈ mdel (asking .moveRead 1 (sliceTask 5 0 0x38 [])).lnk.track 4, y.2.owner = 1 → y.2.state = 1 → y.2.kind = .resolve) := by
  decide

/-- Two requests outstanding: number 5 is to a lower address than number 4. -/
def askingTwo : State := { asking .moveWrite 1 (sliceTask 5 0 0x38 []) with
  lnk := { linkUp.lnk with track := [(4, { trackOf .moveWrite 1 with k := mkPacket 9 0 3 3 0 false false false 5 0 4 256 0 [] }),
    (5, trackOf .moveWrite 1)] } }

theorem wit_lower : ∃ y ∈ mdel askingTwo.lnk.track 4, y.2.owner = 1 ∧ y.2.state = 1 ∧ y.2.kind ≠ .resolve ∧
    reqLow askingTwo y.2 < reqLow askingTwo { trackOf .moveWrite 1 with k := mkPacket 9 0 3 3 0 false false false 5 0 4 256 0 [] } :=
  ⟨(5, trackOf .moveWrite 1), by decide, by decide, by decide, by decide, by decide⟩

/-- A RESOLVE asks for the request number 5. -/
theorem wit_resolve_for : ({ trackOf .resolve 1 with first := 5 } : Track).first ≠ 4 ∧
    getTrack askingTwo 5 = some (trackOf .moveWrite 1) := by decide

theorem wit_answered_task : findTask (asking .moveRead 1 (sliceTask 5 0 0x38 [])) 1 = some (sliceTask 5 0 0x38 []) ∧
    (sliceTask 5 0 0x38 []).phase = .dispatched ∧ (sliceTask 5 0 0x38 []).status = 0 ∧ (sliceTask 5 0 0x38 []).spec = false ∧
    (sliceTask 5 0 0x38 []).direct = none ∧ (asking .readback 1 (sliceTask 5 0 0x38 [])).tck.aborting = [] ∧
    findBuck (asking .exchange 1 (sliceTask 6 1 0x80 [])) 5 (bucketOf (sliceTask 6 1 0x80 [])) = some (armedBuck 0 1) ∧
    writable (asking .moveRead 1 (sliceTask 5 0 0x38 [])) [(0x180000000100, 1)] :=
  ⟨by decide, by decide, by decide, by decide, by decide, by decide, by decide, rfl⟩

/-- A packet in a queue whose pointers do not agree. -/
theorem wit_rx_lost : rxLost 0 (packetOf 0) { linkUp with
    lnk := { linkUp.lnk with ports := [(0, { state := 6, req := [packetOf 0], reqPtr := { wr := 1 } })] } } = true := by decide

theorem wit_header_nack : headerNack { linkUp with tck := {} } 0 (taggedPacket 1 1 0 0 []) = some 4 ∧
    (Instr.read 0 (taggedPacket 1 1 0 0 []), 1) ∈ requestCommands 0 (taggedPacket 1 1 0 0 []) := by
  refine ⟨by rfl, by simp [requestCommands]⟩

theorem wit_auth_fail : headerNack { linkUp with keys := [] } 0 (taggedPacket 1 1 0 0 []) = none ∧
    rangeOk { linkUp with keys := [] } (taggedPacket 1 1 0 0 []) (requestBytes { linkUp with keys := [] } (taggedPacket 1 1 0 0 []) 1) = true ∧
    openPacket { linkUp with keys := [] } (taggedPacket 1 1 0 0 []) = none := ⟨by rfl, by rfl, by rfl⟩

theorem wit_notice : (openPacket linkUp (taggedPacket 0x18 4 0 0 [])).isSome = true ∧ (taggedPacket 0x18 4 0 0 []).code = 4 ∧
    (taggedPacket 0x18 4 0 0 []).dst = devNum linkUp ∧
    (regFld linkUp cx3 0x210 7 0 + 1) % 256 ≠ regFld linkUp cx3 0x210 23 16 :=
  ⟨linkUp_opens 0x18 4 0 0 [] (by rfl) (by rfl) (by rfl) _ (by rfl), by rfl, by rfl, by decide⟩

theorem wit_timeouts : getTrack (asking .moveRead 1 (sliceTask 5 0 0x38 [])) 4 = some (trackOf .moveRead 1) ∧
    (trackOf .moveRead 1).timeouts < 2 ∧ (trackOf .moveRead 1).state = 1 ∧
    2 ≤ ({ trackOf .moveRead 1 with timeouts := 2 } : Track).timeouts ∧
    getTrack (asking .contribute 2 (sliceTask 6 1 0x80 [])) 4 = some (trackOf .contribute 2) := by decide

/-- Port 0 linked to device 9. -/
def routed : State := { asking .contribute 2 (sliceTask 6 1 0x80 []) with
  regs := linkUp.regs ++ [(regKey (lp 0 0) 0x200, 1)],
  lnk := { (asking .contribute 2 (sliceTask 6 1 0x80 [])).lnk with ports := [(0, { state := 6, peerValid := true, peerDev := 9 })] } }

theorem wit_noslot : getTrack routed 4 = some (trackOf .contribute 2) ∧ route routed 9 = some 0 ∧ ownerLive routed 1 = true ∧
    getTrack (asking .exchange 1 (sliceTask 6 1 0x80 [])) 4 = some (trackOf .exchange 1) := by decide

/-- A RESOLVE outstanding on a port to device 9. -/
def resolving : State := { routed with lnk := { routed.lnk with track := [(4, trackOf .resolve 1)] } }

theorem wit_resolve_timeout : getTrack resolving 4 = some (trackOf .resolve 1) ∧ ownerLive resolving 1 = true ∧
    (trackOf .resolve 1).timeouts < 2 ∧ route resolving 9 = some 0 := by decide

/-- Requests of a slice go to device 9 through port 0. -/
def slicing (t : Task) (a : Adm) : State := { sliceOn t a with
  regs := (sliceOn t a).regs ++ [(regKey 0 0x200, word (2 ^ 63 + 3)), (regKey (lp 0 0) 0x10, 1), (regKey (lp 0 0) 0x200, 1)],
  keys := [(5, { cur := some 77 })],
  lnk := { ports := [(0, { state := 6, peerValid := true, peerDev := 9 })], bucks := [{ armBuck with live := true }] } }

/-- The copy with its source, or its destination, on device 9. -/
def farTask (i : Nat) : Task := { sliceTask 5 0 0x38 [] with
  td := [tensorWords 1 4 (if i = 0 then 9 * 2 ^ 50 else 3 * 2 ^ 50 + 0x180000000000) 200 3,
    tensorWords 1 4 (if i = 1 then 9 * 2 ^ 50 else 3 * 2 ^ 50 + 0x180000001000) 200 3],
  base := [if i = 0 then 9 * 2 ^ 50 else 3 * 2 ^ 50 + 0x180000000000, if i = 1 then 9 * 2 ^ 50 else 3 * 2 ^ 50 + 0x180000001000], sliceEnd := 600 }

/-- A transfer of six positions from device 9: a read's answer that comes before the positions ahead of it, one that keeps a run
waiting, and one that completes it. -/
def readingTask (hold : List (List Byte)) : Task := { farTask 0 with sliceEnd := 6, hold := hold }

theorem wit_move_read : (readingTask []).got = [] ∧ (readingTask []).wpos + (readingTask []).hold.length < 1 ∧
    doneRuns (readingTask []) 6 = [] ∧ doneRuns (readingTask [[]]) 6 = [] ∧
    doneRuns (readingTask (List.replicate 6 [])) 6 = [(0, 6)] ∧ (readingTask []).phase = .dispatched ∧ (readingTask []).status = 0 ∧
    (getEng (asking .moveRead 1 (readingTask [])) 0x38).ctx.contains 1 = false ∧ (readingTask []).spec = false ∧
    dstFar (asking .moveRead 1 (readingTask [])) (readingTask []) = false ∧
    findTask (asking .moveRead 1 (readingTask [])) 1 = some (readingTask []) ∧
    min (movTotal (readingTask [])) (readingTask []).sliceEnd = 6 ∧ (trackOf .moveRead 1).first = 0 := by decide

theorem wit_copy_far : (slicing (farTask 0) { sliceAdm with stop := 600 }).inSlice (farTask 0) { sliceAdm with stop := 600 } 1 4 ∧
    srcFar (slicing (farTask 0) sliceAdm) (farTask 0) = true ∧ srcFar (slicing (farTask 1) sliceAdm) (farTask 1) = false ∧
    dstFar (slicing (farTask 1) sliceAdm) (farTask 1) = true ∧ dstDev (farTask 1) = 9 ∧ srcDev (farTask 0) = 9 ∧
    runEnd (farTask 0) ((farTask 0).tensor 0) 0 600 512 1 < 600 ∧ 600 ≤ movTotal (farTask 0) := by unfold State.inSlice; decide

theorem wit_sends : sendsTo (slicing (farTask 0) sliceAdm) 9 5 1 := ⟨by decide, by decide, by decide, by decide, by decide, by decide⟩

/-- A reduction over a group, with the ring of devices 3 and 9 and plane 0: in a stage, at a granule. -/
def groupTask (grp : List Nat) (fabric stage pos : Nat) (ms : List Member) (far : Nat := 0) : Task :=
  { sliceTask 6 1 0x80 [word (fabric * 16), word (2 ^ 16), 4096] with
    td := [tensorWords 1 4 0x180000000000 4096 1, tensorWords 1 4 0x180000004000 4096 1, tensorWords 1 4 0x180000008000 4096 1],
    base := [0x180000000000, 0x180000004000, 0x180000008000, far, 0x18000000C000, 0x18000000C008], grp := grp, ring := [3, 9],
    acc := [word stage], pos := pos, members := ms }

def groupOn (t : Task) : State := slicing t { sliceAdm with stop := 100 }

/-- The bucket of the task, and a granule that sends to a device. -/
abbrev sendsIn (t : Task) (dev : Nat) : Prop :=
  (groupOn t).inSlice t { sliceAdm with stop := 100 } 1 4 ∧ t.spec = false ∧ (groupOn t).tck.aborting.contains t.id = false ∧
  findBuck (groupOn t) 5 (bucketOf t) = some { armBuck with live := true } ∧ (groupOn t).rel.discards = [] ∧
  ∃ x, sendsOf (groupOn t) t { armBuck with live := true } = some x ∧ x.1 = dev ∧
    needSpans (groupOn t) true x.2.2.1 = .ok ∧ x.2.2.2.length ≤ 3

/-- A chunk to another member, the FINITE word to the device itself, a chunk of the ring, the ring's flag, and the flags of the
flag phase to both. -/
theorem wit_reduction_sends : sendsIn (groupTask [3, 9] 0 0 0 []) 9 ∧ sendsIn (groupTask [3, 9] 0 0 2 []) 3 ∧
    sendsIn (groupTask [3] 2 1 3 []) 9 ∧ sendsIn (groupTask [3] 2 3 5 []) 9 ∧ sendsIn (groupTask [3, 9] 0 2 5 []) 3 ∧
    sendsIn (groupTask [3, 9] 0 2 6 []) 9 := by
  unfold sendsIn State.inSlice
  refine ⟨?_, ?_, ?_, ?_, ?_, ?_⟩ <;>
    exact ⟨by decide, by rfl, by decide, by decide, by rfl, _, rfl, by decide, by decide, by decide⟩

theorem wit_sends_to : sendsTo (groupOn (groupTask [3, 9] 0 0 0 [])) 9 5 3 ∧
    trackRoom (groupOn (groupTask [3, 9] 0 2 5 [])) 1 = true := ⟨by unfold sendsTo; decide, by decide⟩

/-- The port of switch plane 0 is up. -/
def planeOn (t : Task) : State := { groupOn t with
  regs := (groupOn t).regs ++ [(regKey (lp 7 0) 0x200, 2)],
  lnk := { (groupOn t).lnk with ports := (groupOn t).lnk.ports ++ [(7, { state := 6 })] } }

theorem wit_hops : hopsTo (planeOn (groupTask [3] 1 1 3 [])) 0 5 3 ∧
    (∃ x, hopsOf (planeOn (groupTask [3] 1 1 3 [])) (groupTask [3] 1 1 3 []) { armBuck with live := true } = some x ∧ x.1 = 0 ∧
      needSpans (planeOn (groupTask [3] 1 1 3 [])) true x.2.1 = .ok) ∧
    (∃ x, hopsOf (planeOn (groupTask [3] 1 2 5 [])) (groupTask [3] 1 2 5 []) { armBuck with live := true } = some x ∧ x.1 = 0 ∧
      needSpans (planeOn (groupTask [3] 1 2 5 [])) true x.2.1 = .ok) ∧
    (planeOn (groupTask [3] 1 1 3 [])).inSlice (groupTask [3] 1 1 3 []) { sliceAdm with stop := 100 } 1 4 :=
  ⟨by unfold hopsTo; decide, ⟨_, rfl, by decide, by decide⟩, ⟨_, rfl, by decide, by decide⟩, by unfold State.inSlice; decide⟩

/-- The FINITE word of device 9 is asked for. -/
def finiteTask : Task := { groupTask [3] 0 0 2 [] (9 * 2 ^ 50) with
  desc := (sliceTask 6 1 0x80 [0, word (2 ^ 16), 4096]).desc.set 15 (word (2 ^ 32)) }

theorem wit_finite : (groupOn finiteTask).inSlice finiteTask { sliceAdm with stop := 100 } 1 4 ∧
    finiteFar (groupOn finiteTask) finiteTask = true ∧ finiteTask.cap.length < 2 ∧ (stageAt (groupOn finiteTask) finiteTask).kind = 0 ∧
    contribItem (groupOn finiteTask) finiteTask (finiteTask.pos - stageBase (groupOn finiteTask) finiteTask) = none ∧
    finiteTask.base.getD 3 0 / 2 ^ 50 = 9 ∧ sendsTo (groupOn finiteTask) 9 5 1 := by
  unfold State.inSlice sendsTo; decide

/-- A chunk of the share converted for the device alone, and for device 9 too. -/
theorem wit_distribute : (groupOn (groupTask [3] 0 1 3 [])).inSlice (groupTask [3] 0 1 3 []) { sliceAdm with stop := 100 } 1 4 ∧
    (stageAt (groupOn (groupTask [3] 0 1 3 [])) (groupTask [3] 0 1 3 [])).kind = 6 ∧ grpR (groupTask [3] 0 1 3 []) ≤ 1 ∧
    castFull (groupTask [3] 0 1 3 []) (groupOn (groupTask [3] 0 1 3 [])) 6 0 0 = false ∧
    needSpans (groupOn (groupTask [3] 0 1 3 [])) true (stagedSpans { armBuck with live := true } 0) = .ok ∧
    (stageAt (groupOn (groupTask [3, 9] 0 1 4 [{ dev := 9 }])) (groupTask [3, 9] 0 1 4 [{ dev := 9 }])).kind = 6 ∧
    1 < grpR (groupTask [3, 9] 0 1 4 [{ dev := 9 }]) ∧
    ((castPkts (groupOn (groupTask [3, 9] 0 1 4 [])) (groupTask [3, 9] 0 1 4 []) 6 0).map (·.len)).sum ≤ castWindow ∧
    (∀ x ∈ castPkts (groupOn (groupTask [3, 9] 0 1 4 [])) (groupTask [3, 9] 0 1 4 []) 6 0,
      needSpans (groupOn (groupTask [3, 9] 0 1 4 [])) true [(x.src, x.len)] = .ok) ∧
    (stageAt (groupOn (groupTask [3] 2 2 4 [{ dev := 9 }])) (groupTask [3] 2 2 4 [{ dev := 9 }])).kind = 4 := by
  unfold State.inSlice; decide

/-- A share of 2,048 elements staged is written where the lines take it. -/
theorem wit_distribute_writes : writable (groupOn (groupTask [3] 0 1 3 [])) [(0x180000008000, 1)] := rfl

/-- A parked reduction past its distribute stage goes into its flag stage. -/
theorem wit_unpark_next :
    let t := { groupTask [3] 0 1 5 [] with parked := true }
    findTask (groupOn t) 1 = some t ∧ midStage (groupOn t) t = false ∧ stageOver (groupOn t) t = true ∧
    compareAt (groupOn t) t = false ∧ stageNo t + 1 < (stagesOf (groupOn t) t).length ∧
    (stageAt (groupOn t) (enterStage (groupOn t) { t with acc := [word (stageNo t + 1)] })).n ≠ 0 := by decide

/-- A multicast to devices 9 and 10. -/
def castTask : Task := { sliceTask 6 2 0x80 [] with grp := [3, 9, 10], members := [{ dev := 9 }, { dev := 10 }] }

theorem wit_multicast : (slicing castTask sliceAdm).inSlice castTask sliceAdm 1 4 ∧
    castTask.pos + 1 < stageBase (slicing castTask sliceAdm) castTask + (stageAt (slicing castTask sliceAdm) castTask).n ∧
    castTask.members[0]? = some { dev := 9 } ∧
    ((castPkts (slicing castTask sliceAdm) castTask 8 0).map (·.len)).sum ≤ castWindow ∧
    (∀ x ∈ castPkts (slicing castTask sliceAdm) castTask 8 0, needSpans (slicing castTask sliceAdm) true [(x.src, x.len)] = .ok) ∧
    (castPkts (slicing castTask sliceAdm) castTask 8 0).length = 1 := by unfold State.inSlice; decide

theorem wit_unit : up.admits (.core 0) cx2 (0x1000 + 32 * 1023 + 8 * 1) 0x100 = true ∧ (0x100 : Word) ≠ unitW up 1023 1 ∧
    unitBase up 1023 % 256 = 0 ∧ fld (0x100 : Word) 49 0 % 256 = 0 ∧
    unitFits (unitBase up 1023) (fld (0x100 : Word) 49 0) = true ∧ up.admits (.core 0) cx2 (0x1000 + 32 * 1 + 16) 5 = true ∧
    setFld 5 31 24 (unitEpoch up 1) ≠ unitW up 1 2 ∧ unitSize up 1 % 256 = 0 ∧ unitFits (unitBase up 1) (unitSize up 1) = true ∧
    up.admits (.core 0) cx2 (0x1000 + 32 * 1) 0x80 = true ∧ fld (0x80 : Word) 49 0 % 256 ≠ 0 ∧
    up.admits (.core 0) cx2 0x228 1 = true := by decide

/-- Port 4, of the Ethernet personality, ACTIVE, with a connection to device 9. -/
def ethUp (c : Conn) : State := { upWith [tckPage, lp 4 0] with
  regs := [(regKey (lp 4 0) 0x200, 4)],
  lnk := { ports := [(4, { state := 6 })], conns := [(connKey 4 9, c)] } }

/-- A datagram from device 9. -/
def datagramOf (psn type : Nat) : Datagram :=
  { w0 := word psn, w1 := word (9 + type * 2 ^ 16), packets := [], ce := false, head := { dst := ipv6 (ethUp {}) 4 } }

theorem wit_datagram : takesDatagram (ethUp {}) 4 (datagramOf 5 0) ∧
    (getConn (ethUp {}) 4 (dgDev (datagramOf 5 0))).rxOpen = false ∧ connRoom (ethUp {}) 4 (dgDev (datagramOf 5 0)) = true ∧
    hasConn (ethUp {}) 4 (dgDev (datagramOf 5 2)) = true ∧
    takesDatagram (ethUp { rxOpen := true, rxNext := 5 }) 4 (datagramOf 5 1) ∧
    (getConn (ethUp { rxOpen := true, rxNext := 5 }) 4 (dgDev (datagramOf 5 1))).rxOpen = true ∧
    dgPsn (datagramOf 5 1) = (getConn (ethUp { rxOpen := true, rxNext := 5 }) 4 (dgDev (datagramOf 5 1))).rxNext ∧
    dgPsn (datagramOf 7 1) ≠ (getConn (ethUp { rxOpen := true, rxNext := 5 }) 4 (dgDev (datagramOf 7 1))).rxNext ∧
    headOk (ethUp {}) 4 { (datagramOf 5 1).head with udp := 0 } = false := by
  refine ⟨⟨⟨by decide, by decide, by decide⟩, by decide⟩, by decide, by decide, by decide, ⟨⟨by decide, by decide, by decide⟩, by decide⟩,
    by decide, by decide, by decide, by decide⟩

/-- A datagram of a packet for the request queue. -/
theorem wit_datagram_packet : rxTakes (ethUp {}) 4 [packetOf 0] ∧ rxTakes (ethUp { rxOpen := true, rxNext := 5 }) 4 (datagramOf 5 1).packets := by
  refine ⟨⟨by decide, by decide, ?_⟩, by decide, by decide, ?_⟩ <;> decide

theorem wit_transport : (getConn (ethUp { flight := [datagramOf 1 1], attempts := 7 }) 4 9).flight ≠ [] ∧
    (getConn (ethUp { flight := [datagramOf 1 1], attempts := 7 }) 4 9).attempts < 8 ∧
    (getConn (ethUp { flight := [datagramOf 1 1], attempts := 8 }) 4 9).attempts = 8 ∧
    (getConn (ethUp { since := 3 }) 4 9).since ≠ 0 ∧ (5 : BitVec 128) ≠ ipv6 (ethUp {}) 4 := by decide

/-! ### Witnesses: power, clocks and reliability -/

theorem wit_pwr_cap : up.admits (.core 0) pwr0 0x200 300 = true ∧ 100 ≤ fld (300 : Word) 11 0 ∧
    fld (300 : Word) 11 0 ≤ up.pwr.ceil ∧ up.admits (.core 0) pwr0 0x200 99 = true ∧ fld (99 : Word) 11 0 < 100 := by decide

theorem wit_power : 64 ≤ ({ up with pwr := { floorTicks := 64, pEst := 3001 } } : State).pwr.floorTicks ∧
    ({ up with pwr := { floorTicks := 64, pEst := 3001 } } : State).pwr.limitW < 3001 ∧ up.sys.powered = true ∧
    true = decide (16 ≤ (19 : Fin 20).val) ∧ false = decide (16 ≤ (15 : Fin 20).val) ∧ up.pwr.dropped = false ∧
    State.reset.sys.powered = false ∧ (({ up with pwr := { rise := some 3000 } } : State).pwr.rise).isSome = true ∧
    (38000 ≤ 39999 ∧ 39999 < 40000) := by decide

/-- The estimate stands 100 W over the cap. -/
def overCap : State := { up with pwr := { up.pwr with pEst := 3100 } }

theorem wit_over_cap : 0 < excess overCap (dropBoost overCap.pwr).1 := by decide

/-- Every clock good before the blocks are ready. -/
def clocked : State := { up with
  sys := { up.sys with phase := 3 }, blk := [],
  clk := { ref := { stable := true }, trimLock := true, plls := (List.range 27).map (fun n => (n, { stable := true })) } }

theorem wit_clocks : clocksGood clocked = true ∧ (getBlk clocked tckPage).ready = false ∧ clocked.sys.lastUp = true ∧
    clocked.sys.released = true ∧ clocked.pwr.rise = none ∧ clocked.clk.refLost = false ∧
    windowTol clocked .ref < ((1 : Int) - windowN clocked .ref).natAbs ∧ trimSrc { clocked with regs := [(regKey clkPage 0x210, word (2 * 65536))] } ≠ 1 ∧ up.clk.ref.stable = false ∧
    ({ up with clk := { refLost := true } } : State).clk.refFail = false := by decide

/-- The other sides of the judgement: nothing released, no trim locked, the MCLK PLL gliding; and RESET_N up before the rails. -/
theorem wit_clock_order : clocked.clk.trimLock = true ∧ clocked.pwr.pll = clocked.pwr.mclk ∧ clocked.clk.ref.stable = true ∧
    2 ≤ clocked.sys.phase ∧ State.reset.sys.released = false ∧ up.clk.trimLock = false ∧
    ({ clocked with pwr := { clocked.pwr with rise := some 3000 } } : State).pwr.rise.isSome = true ∧
    ({ State.reset with sys := { high := some (5, true, 3) } } : State).sys.high = some (slotId true false true, true && true, 3) ∧
    State.reset.sys.high = none ∧ ({ clocked with clk := { clocked.clk with refLost := true } } : State).clk.refLost = true ∧
    ((windowN clocked .ref : Int) - windowN clocked .ref).natAbs ≤ windowTol clocked .ref := by decide

theorem wit_die_hot : hottest (((List.range 48).zip [some 50, none, some 120]).foldl readSensor up) = some (2, 120) ∧
    up.sys.released = true ∧ ({ up with rel := { pllGrace := [3] } } : State).rel.pllGrace.contains 3 = true := by decide

theorem wit_temps : hottest (((List.range 48).zip [some 50, none, some 60]).foldl readSensor up) = some (2, 60) ∧ (60 : Int) < 120 ∧
    inletHiC up < 200 ∧ critC up ≤ 119 := by decide

theorem wit_triggers : up.rel.fqActive = false ∧ cobblerUp up = true ∧
    regFld { up with tck := { num := 2000 } } cblPage 0x220 15 0 * 1000 ≤ (2000 - up.rel.kickTick + 1) * 65 ∧
    up.admits .last cblPage 0x250 (0 ||| 1) = true ∧ (mget up.clk.plls (7 + 3) {}).stable = false ∧
    ({ up with clk := { refLost := true, refFail := true } } : State).clk.refFail = true ∧
    ({ up with rel := { fqActive := true } } : State).rel.fqActive = true ∧
    ({ up with rel := { fqActive := true } } : State).admits .last cblPage 0x250 (0 ||| 1) = true ∧
    up.admits .last cblPage 0x220 (0 ||| word (2 ^ 16)) = true := by decide

/-- Memory up, with events for the Cobbler and the ring at the start of HBM. -/
def eventful (e : ErrEvent) (h : List Hist) : State := { memUp with
  blk := memUp.blk ++ (List.range 8).map (fun n => (firstPage (pageOf .crm n 0), { ready := true })),
  regs := memUp.regs ++ (List.range 8).map (fun n => (regKey (pageOf .crm n 0) 0x10, 1)), rel := { events := [e], hist := h } }

theorem wit_info_event : nextEvent (eventful (mkEv crm0 4 1) []) = some (mkEv crm0 4 1) ∧
    access (eventful (mkEv crm0 4 1) []) (cperBase (eventful (mkEv crm0 4 1) [])) = .ok ∧
    access (eventful (mkEv crm0 4 1) []) (cperBase (eventful (mkEv crm0 4 1) []) + 64) = .ok ∧
    access (eventful (mkEv crm0 4 1) []) (cperBase (eventful (mkEv crm0 4 1) []) + 64 + 1023) = .ok ∧ (mkEv crm0 4 1).cls = 4 ∧ (eventful (mkEv crm0 4 1) []).mtr.ended = [] ∧
    (memWord (eventful (mkEv crm0 4 1) []).mem (cperBase (eventful (mkEv crm0 4 1) []))).toNat % 1024 = 0 ∧
    (0 + 1) % 1024 ≠ (memWord (eventful (mkEv crm0 4 1) []).mem (cperBase (eventful (mkEv crm0 4 1) []) + 8)).toNat % 1024 := by
  decide

/-- An entry for the event's key, of minute 0. -/
def histOf (e : ErrEvent) : Hist := ⟨e.code, e.inst, e.unit, e.kind, e.locus, 0, 0, 1, false⟩

theorem wit_contained_event : nextEvent (eventful (mkEv crm0 2 1) []) = some (mkEv crm0 2 1) ∧ (mkEv crm0 2 1).cls = 2 ∧
    (eventful (mkEv crm0 2 1) []).rel.hist.find? (fun h => h.is (mkEv crm0 2 1)) = none ∧
    (eventful (mkEv crm0 2 1) [histOf (mkEv crm0 2 1)]).rel.hist.find? (fun h => h.is (mkEv crm0 2 1)) =
      some (histOf (mkEv crm0 2 1)) ∧
    (eventful (mkEv crm0 2 1) []).rel.opMin ≤ (histOf (mkEv crm0 2 1)).last + regFld (eventful (mkEv crm0 2 1) []) cblPage 0x208 23 0 := by
  decide

/-- Two keys that coalesce from minute 0, three occurrences of the second counted. -/
def coalescing (min : Nat) : State := { up with
  rel := { coal := [⟨mkEv crm0 0 1, 0, 0⟩, ⟨mkEv crm0 0 1, 3, 0⟩], suspects := [(0x30, 0, 0, 0)], opMin := min } }

theorem wit_coalesce : (coalescing (2 ^ 24)).rel.coal[0]? = some ⟨mkEv crm0 0 1, 0, 0⟩ ∧
    (coalescing (2 ^ 24)).rel.coal[1]? = some ⟨mkEv crm0 0 1, 3, 0⟩ ∧ cobblerUp (coalescing 0) = true ∧
    0 + regFld (coalescing (2 ^ 24)) cblPage 0x218 15 0 ≤ 2 ^ 24 ∧
    0 < 0 + regFld { coalescing 0 with regs := [(regKey cblPage 0x218, 5)] } cblPage 0x218 15 0 ∧
    (coalescing (2 ^ 24)).rel.suspects.find? (isSuspect 0x30 0 0) = some (0x30, 0, 0, 0) ∧
    0 + regFld (coalescing (2 ^ 24)) cblPage 0x208 47 24 ≤ 2 ^ 24 ∧ nextEvent (eventful (mkEv crm0 0 1) []) = some (mkEv crm0 0 1) ∧
    (mkEv crm0 0 1).cls = 0 := by decide

/-- A tile of one sum captured on ARR0, its recompute on ARR1 submitted; a pack of one test for the arrays of which one is due. -/
def tileOf : Capture := ⟨0, 0, false, 5, 0, 0, false, 0, [], [0x3F800000], 1, 1⟩
def recomputeOf : Recomp := ⟨1, 0, 5, 0, false, 1, 0, false, 1, 1, 0, 9⟩
def testOf : PackTest := ⟨0x10, false, 15, 10, 20, 0, 1, 0, 0, 77⟩
def compared : State := { memUp with
  blk := memUp.blk ++ [(firstPage stnPage, { ready := true })],
  rel := { capture := some tileOf, recomp := [recomputeOf], checking := true, capHeld := true, opMin := 20,
           packs := [⟨1, 1, 1, [testOf], 0, [], 0⟩], tests := [{ eng := 0, quad := 0, pack := 1, test := 0, due := true }] } }

theorem wit_tile : compared.rel.capture = some tileOf ∧ compared.rel.recomp = recomputeOf :: [] ∧ compared.rel.checking = true ∧
    (getBlk compared (pageOf .arr recomputeOf.arr 0)).mappedOut = false ∧ tileOf.arr < 4 ∧ tileOf.quad < 4 ∧ recomputeOf.arr < 4 ∧
    (∀ i < tileOf.sums.length, ([0x3F800000] : List F32).getD i 0 = tileOf.sums.getD i 0) ∧
    (∃ i < tileOf.sums.length, ([0x40000000] : List F32).getD i 0 ≠ tileOf.sums.getD i 0) ∧
    (getBlk { compared with blk := [(firstPage (pageOf .arr 1 0), { mappedOut := true })] } (pageOf .arr recomputeOf.arr 0)).mappedOut = true ∧
    compared.admits .last stnPage 0x218 (0 ||| 2) = true ∧ compared.admits (.core 2) stnPage 0x218 (0 ||| 2) = true ∧
    compared.admits .cobbler stnPage 0x218 (0 ||| 2) = true ∧ compared.rel.capHeld = true := by decide

/-- A third computation on ARR2, that agrees with the delivered sums or with the recompute. -/
theorem wit_third : (getBlk compared (pageOf .arr (2 : Fin 4).val 0)).mappedOut = false ∧ (2 : Fin 4).val ≠ tileOf.arr ∧
    (2 : Fin 4).val ≠ recomputeOf.arr ∧ regBit compared stnPage 0x28 8 = false ∧
    regFld { compared with regs := [(regKey stnPage 0x48, 1)] } stnPage 0x48 1 0 = 1 ∧
    bit (getReg { compared with regs := [(regKey stnPage 0x200, 0x400)] } stnPage 0x200) 10 = true ∧
    bit (getReg { compared with regs := [(regKey stnPage 0x200, 0x200)] } stnPage 0x200) 10 = false ∧
    bit (getReg { compared with regs := [(regKey stnPage 0x200, 0x200)] } stnPage 0x200) 9 = true := by decide

theorem wit_tests : 4 ≤ compared.sys.phase ∧ compared.sys.lastUp = true ∧ hasTest compared 0 0 1 0 = true ∧
    (getBlk compared (testPage 0)).mappedOut = false ∧ testIsDue compared 0 0 1 0 = true ∧ testDueAt compared 0 0 1 0 ≤ compared.rel.opMin ∧
    testsRun compared 0 = true ∧ testsRun { compared with regs := [(regKey tstPage 0x218, 0)] } 0 = false ∧
    testIsLate compared 0 0 1 0 = true ∧
    testIsDue { compared with rel := { compared.rel with tests := [] } } 0 0 1 0 = false ∧ testEntry compared 1 0 = some testOf := by
  decide

/-- Packs that the checks refuse: no bytes at all. -/
theorem wit_pack_bad : nfld (packWord [] 0) 31 0 ≠ 0x314C5741 ∧ nfld (packWord [] 1) 26 16 = 0 := by decide

/-- A pack of one test, for STEPPING 0xB0, its signature zeros. -/
def packText : List Byte :=
  packBytes (word (0x314C5741 + 2 ^ 32)) (word (0xB0 + 2 ^ 16)) 512 (List.replicate 104 0) [] (List.replicate 384 0)

theorem wit_pack (h : Config.pssVerify 1 (packText.take 128) (packText.drop 128) = true) : compared.sys.lastUp = true ∧
    4 ≤ compared.sys.phase ∧ packGood compared packText = true := by
  refine ⟨by decide, by decide, ?_⟩
  have hn : packText.length - 384 = 128 := by decide
  simp only [packGood, hn, h, Bool.and_true]
  decide

/-- A request to map ARR0 out, in hand, refused or with ARR0 out. -/
def mapping (result : Nat) : State := { up with
  blk := up.blk ++ [(firstPage (ap 0 0), { mappedOut := true })],
  rel := { reqs := [⟨0x10, 0, 0, false, false, true, result, false⟩] } }

theorem wit_mapout : takesWork { up with blk := [(firstPage cblPage, { ready := true })], regs := [(regKey cblPage 0x10, 1)] } cblPage = true ∧
    takesWork up cblPage = false ∧ up.admits .last cblPage 0x230 (0x10 ||| word (2 ^ 33)) = true ∧ up.rel.reqs = [] ∧
    unitOf (fld (0x10 : Word) 15 0) 0 0 = some 0 ∧ unitOf 0x99 0 0 = none ∧
    (mapping 0).admits .last cblPage 0x230 (0x10 ||| word (2 ^ 33)) = true ∧
    mapReady (mapping 0) ⟨0x10, 0, 0, false, false, true, 0, false⟩ = true ∧
    mapReady (mapping 4) ⟨0x10, 0, 0, false, false, true, 4, false⟩ = true ∧ cobblerUp (mapping 0) = true ∧
    isOut { up with rel := { mapTab := [⟨0x10, 0, 0, false, 0, 0⟩] } } 0x10 0 0 = true := by decide

theorem wit_health : mfind ({ up with sec := { trial := [(2, 0)] } } : State).sec.trial 2 = some 0 ∧
    mfind ({ up with sec := { trial := [(1, 0)] } } : State).sec.trial 1 = some 0 ∧ 0 ≤ up.tck.num := by decide

/-! ### Witnesses: power-up, keyed commands, firkin, SPDM, management

Where a hypothesis asks what an opaque function of Config answers, the witness is for whatever makes it so. -/

/-- An image of a group with a body of eight bytes and a signature of zeros. -/
def imageFor (g : Nat) : List Byte := toLe 8 (0x4D494B47 + g * 2 ^ 32 + 0xB0 * 2 ^ 40) ++ toLe 8 (72 * 2 ^ 32) ++ List.replicate 440 0

/-- The state with that image in every slot of SPI NOR; and with nothing written in any. -/
def withImages (s : State) : State := { s with sec := { s.sec with nor := (List.range 12).map (fun k => (k, imageFor (k / 2))) } }
def blankNor (s : State) : State := { s with sec := { s.sec with nor := (List.range 12).map (fun k => (k, [])) } }

/-- An image whose signature verifies is good in either slot of its group while its SVN, 0, is not below the version in force; a
slot with nothing in it is not. -/
theorem wit_slot (s : State) (hv : s.sec.fwSvn = 0) (g : Nat) (hg : g < 6) (slot : Nat) (hs : slot < 2)
    (h : Config.pssVerify 0 ((imageFor g).take 72) ((imageFor g).drop 72) = true) :
    slotGood (withImages s) g slot = true ∧ slotGood (blankNor s) g slot = false := by
  have hw : ∀ g < 6, ∀ slot < 2, (mfind ((List.range 12).map (fun k => (k, imageFor (k / 2)))) (2 * g + slot)) = some (imageFor g) ∧
      (mfind ((List.range 12).map (fun k => (k, ([] : List Byte)))) (2 * g + slot)) = some [] := by decide
  obtain ⟨h1, h2⟩ := hw g hg slot hs
  have e1 : imageOf (withImages s) g slot = imageFor g := by simp [imageOf, withImages, h1]
  have e2 : imageOf (blankNor s) g slot = [] := by simp [imageOf, blankNor, h2]
  have hn : ∀ g < 6, nfld (leNat (((imageFor g).drop 8).take 8)) 63 32 = 72 ∧ ((imageFor g).take 456).length = 456 ∧
      (imageFor g).take 456 = imageFor g ∧ nfld (leNat (((imageFor g).drop 0).take 8)) 31 0 = 0x4D494B47 ∧
      nfld (leNat (((imageFor g).drop 0).take 8)) 39 32 = g ∧ nfld (leNat (((imageFor g).drop 0).take 8)) 47 40 = 0xB0 := by decide
  obtain ⟨n1, n2, n3, n4, n5, n6⟩ := hn g hg
  refine ⟨?_, ?_⟩
  · have hv' : (withImages s).sec.fwSvn = 0 := hv
    have hb : imageLen (withImages s) g slot = 72 := by rw [imageLen, imgWord, e1]; exact n1
    have hl : imageBytes (withImages s) g slot = imageFor g := by rw [imageBytes, hb, e1]; exact n3
    have hw0 : imgWord (withImages s) g slot 0 = leNat (((imageFor g).drop 0).take 8) := by rw [imgWord, e1]
    rw [n3] at n2
    simp only [slotGood, hb, hl, hw0, hv', n2, n4, n5, n6, h, Bool.and_true]
    simp
  · simp [slotGood, imageLen, imgWord, e2, leNat, nfld]

/-- It can be booted where SPI NOR delivers it whole, as it does every slot of the reads below. -/
theorem wit_bootable (s : State) (hv : s.sec.fwSvn = 0) (g : Nat) (hg : g < 6) (slot : Nat) (hs : slot < 2) (reads : Nat → Bool)
    (h : Config.pssVerify 0 ((imageFor g).take 72) ((imageFor g).drop 72) = true) (hr : reads slot = true) :
    bootable reads (withImages s) g slot = true ∧ bootable reads (blankNor s) g slot = false := by
  obtain ⟨h1, h2⟩ := wit_slot s hv g hg slot hs h
  simp [bootable, h1, h2, hr]

theorem wit_reads : (∀ k < 2, (3 : BitVec 2).getLsbD k = true) ∧ (∀ k < 2, (if k = 0 then true else true) = true) ∧
    (∀ g < 5, ∀ k < 2, (if k = 0 then (31 : BitVec 5).getLsbD g else (31 : BitVec 5).getLsbD g) = true) ∧
    (1 : BitVec 2).getLsbD 1 = false := by decide

/-- A powered device held in reset, with its slots as they are, or a pending one on trial or not. -/
def held (pend trial : Bool) : State := { State.reset with sys := { powered := true }, sec := { State.reset.sec with lastPend := pend, lastTrial := trial } }

theorem wit_reset_pin : up.sys.powered = true ∧ up.sys.released = true ∧ resetRises (held false false) ∧ resetRises (held true true) ∧
    (held false false).sec.lastPend = false ∧ (held true true).sec.lastPend = true ∧ State.reset.sys.powered = false ∧
    State.reset.sys.released = false ∧ State.reset.sys.high = none ∧ (held true true).sec.fwSvn = 0 := by
  unfold resetRises; decide

/-- A stored voltage record for this device whose signature verifies, with another one that is not valid. -/
theorem wit_voltage (r : List Byte) (h1 : newestRec 0x56544231 [Config.vtRecord, r] = some r)
    (h2 : newestRec 0x56544231 [Config.vtRecord] = none) :
    vtInUse { held false false with sec := { (held false false).sec with vtRec := some r } } = some r ∧
    vtInUse (held false false) = none := ⟨h1, h2⟩

/-- The blocks ready in phase CLOCKS, the HBM controllers enabled. -/
def bootUp (phase : Nat) : State := { upWith (tckPage :: (List.range 8).map (fun n => hp n 0)) with
  sys := { powered := true, released := true, phase := phase, lastUp := true },
  regs := (List.range 8).map (fun n => (regKey (hp n 0) 0x10, 1)) }

theorem wit_cobbler : (bootUp 3).sys.phase = 3 ∧ (getBlk (bootUp 3) tckPage).ready = true ∧
    (bootUp 3).sec.fwSvn = 0 ∧ (∀ n < 8, enAck (bootUp 3) (hp n 0) = true) := by decide

/-- Memory up in phase COBBLER. -/
def upperReady : State := { memUp with sys := { memUp.sys with phase := 4 } }

theorem wit_upper : upperReady.sys.phase = 4 ∧ upperReady.sys.lastUp = true ∧ access upperReady (0 : BitVec 50).toNat = .ok ∧
    imageBody (withImages upperReady) 0 (fwSlot upperReady 0) = List.replicate 8 0 ∧ access upperReady ((0 : BitVec 50).toNat + 7) = .ok ∧
    winOf ((0 : BitVec 50).toNat + 7) = .hbm ∧ (bootUp 5).sys.phase = 5 ∧ access (bootUp 5) (0 : BitVec 50).toNat ≠ .ok ∧
    (bootUp 6).admits (.core 0) 0 0x208 (0 ||| 16) = true ∧ up.admits .last 0 0x210 5 = true ∧
    up.admits (.core 3) 0 0x210 5 = true ∧ ({ up with sec := { lastTrial := true } } : State).sec.lastPend = false ∧
    up.sys.lastUp = true ∧ (bootUp 4).admits (.core 0) 0 0x208 (0 ||| 16) = true ∧ (bootUp 4).sys.phase ≠ 6 ∧ up.sec.lastTrial = false ∧
    isCore .last = false := by decide

/-- The owner's key of the witnesses. -/
def ownerKey : List Byte := List.replicate 32 7

/-- An envelope of a command with a counter, without a MAC. -/
def bareEnvelope (cmd len counter : Nat) (payload : List Byte) (epoch : Nat := 0) : Envelope :=
  { w0 := word (0x444E4D43 + cmd * 2 ^ 32 + 2 ^ 40), chipId := Config.chipId, w2 := word (len * 2 ^ 32 + epoch),
    counter := word counter, payload := payload, mac := 0 }

/-- It with the MAC that is right under a key, and `d` more. -/
def envelopeOf (key : List Byte) (d : BitVec 128) (cmd len counter : Nat) (payload : List Byte) (epoch : Nat := 0) : Envelope :=
  { bareEnvelope cmd len counter payload epoch with mac := macOf key (bareEnvelope cmd len counter payload epoch).head + d }

/-- An owned device with the key, the last accepted counter being 3. -/
def owned : State := { up with sec := { owned := true, ock := ownerKey, counter := 3 } }

theorem envelope_mac (key : List Byte) (cmd len counter : Nat) (payload : List Byte) (epoch : Nat) :
    macOf key (envelopeOf key 0 cmd len counter payload epoch).head = (envelopeOf key 0 cmd len counter payload epoch).mac := by
  simp only [envelopeOf, Envelope.head]
  exact (BitVec.add_zero _).symm

theorem passesHead_of (s : State) (key : List Byte) (d : BitVec 128) (cmd len counter : Nat) (payload : List Byte) (epoch : Nat)
    (hl : s.sys.lastUp = true) (hm : s.sec.mapWait = []) (hc : (bareEnvelope cmd len counter payload epoch).cmd = cmd)
    (hf : (bareEnvelope cmd len counter payload epoch).formOk = true) (hn : (bareEnvelope cmd len counter payload epoch).len = len)
    (ho : s.sec.owned = true ∨ cmd = 1 ∨ cmd = 3) (he : fld (bareEnvelope cmd len counter payload epoch).w2 7 0 = s.sec.epoch) :
    passesHead s (envelopeOf key d cmd len counter payload epoch) cmd len := by
  refine ⟨hl, hm, ?_, ?_, ?_, ho, ?_, .inl ?_⟩
  · simpa only [envelopeOf, Envelope.cmd] using hc
  · unfold Envelope.formOk at hf ⊢; exact decide_eq_true (of_decide_eq_true hf)
  · simpa only [envelopeOf, Envelope.len] using hn
  · simp only [envelopeOf, bareEnvelope]
  · simpa only [envelopeOf] using he

/-- Every command under the owner's key, in any state with the key and the Last running. -/
theorem wit_owner_commands (s : State) (hs : s.sec = owned.sec) (hl : s.sys.lastUp = true) (cmd len : Nat)
    (h : (cmd, len) ∈ [(2, 0), (4, 394), (5, 2), (6, 2), (7, 832), (8, 832), (9, 1), (10, 0), (11, 5), (12, 1), (13, 0), (14, 0), (15, 12)]) :
    passesAll s (envelopeOf ownerKey 0 cmd len 4 (List.replicate (cdiv len 8 * 8) 0)) cmd len := by
  simp only [List.mem_cons, Prod.mk.injEq, List.not_mem_nil, or_false] at h
  rcases h with h | h | h | h | h | h | h | h | h | h | h | h | h <;> obtain ⟨rfl, rfl⟩ := h <;>
    exact ⟨passesHead_of _ _ _ _ _ _ _ _ hl (by rw [hs]; decide) (by decide) (by decide) (by decide) (.inl (by rw [hs]; decide))
      (by rw [hs]; decide), by rw [hs]; exact envelope_mac _ _ _ _ _ _, by rw [hs]; show 3 < (word 4).toNat; decide⟩

/-- A device without an owner takes none of them, nor does one for which its epoch is not the envelope's. -/
theorem wit_no_head : ¬ passesHead up (envelopeOf ownerKey 0 6 2 4 (List.replicate 8 0)) 6 2 ∧
    ¬ passesHead { owned with sec := { owned.sec with epoch := 1 } } (envelopeOf ownerKey 0 6 2 4 (List.replicate 8 0)) 6 2 :=
  ⟨fun h => absurd h.2.2.2.2.2.1 (by decide), fun h => by
    rcases h.2.2.2.2.2.2.2 with h | h
    · exact absurd h (by show ¬ fld (word (2 * 2 ^ 32 + 0)) 7 0 = 1; decide)
    · simp [isReplay, owned] at h⟩

theorem wit_old_counter : passesHead owned (envelopeOf ownerKey 0 6 2 3 (List.replicate 8 0)) 6 2 ∧
    (envelopeOf ownerKey 0 6 2 3 (List.replicate 8 0)).counter.toNat ≤ owned.sec.counter ∧
    ((Instr.setCeiling (envelopeOf ownerKey 0 6 2 3 (List.replicate 8 0)), 6, 2) : Instr × Nat × Nat) ∈
      ownerCommands (envelopeOf ownerKey 0 6 2 3 (List.replicate 8 0)) :=
  ⟨passesHead_of _ _ _ _ _ _ _ _ (by decide) (by decide) (by decide) (by decide) (by decide) (.inl (by decide)) (by decide),
   by show (word 3).toNat ≤ 3; decide, by simp [ownerCommands]⟩

/-- A command with a MAC that is not the owner's. -/
theorem wit_wrong_mac : passesHead owned (envelopeOf ownerKey 1 6 2 4 (List.replicate 8 0)) 6 2 ∧
    macOf owned.sec.ock (envelopeOf ownerKey 1 6 2 4 (List.replicate 8 0)).head ≠
      (envelopeOf ownerKey 1 6 2 4 (List.replicate 8 0)).mac := by
  refine ⟨passesHead_of _ _ _ _ _ _ _ _ (by decide) (by decide) (by decide) (by decide) (by decide) (.inl (by decide)) (by decide), ?_⟩
  simp only [owned, envelopeOf, Envelope.head]
  generalize macOf ownerKey _ = m
  bv_omega

theorem wit_take_ownership (ock : List Byte) (h : Config.oaepOpen 0 (List.replicate 384 0) = some ock) (n : ock.length = 32) :
    passesHead up (envelopeOf ock 0 1 384 1 (List.replicate 384 0)) 1 384 ∧ up.sec.owned = false ∧
    Config.oaepOpen up.sec.keyGen ((envelopeOf ock 0 1 384 1 (List.replicate 384 0)).payload.take 384) = some ock ∧ ock.length = 32 ∧
    macOf ock (envelopeOf ock 0 1 384 1 (List.replicate 384 0)).head = (envelopeOf ock 0 1 384 1 (List.replicate 384 0)).mac ∧
    up.sec.counter < (envelopeOf ock 0 1 384 1 (List.replicate 384 0)).counter.toNat ∧ up.sec.epoch < 255 :=
  ⟨passesHead_of _ _ _ _ _ _ _ _ (by decide) (by decide) (by decide) (by decide) (by decide) (.inr (.inl rfl)) (by decide), by decide,
   by show Config.oaepOpen 0 ((List.replicate 384 (0 : Byte)).take 384) = some ock; rw [List.take_of_length_le (by simp)]; exact h, n,
   envelope_mac _ _ _ _ _ _, by show 0 < (word 1).toNat; decide, by decide⟩

/-- It in the last epoch, where the count is at its limit; and on a device that has an owner. -/
theorem wit_take_limit : passesHead { up with sec := { epoch := 255 } } (envelopeOf ownerKey 0 1 384 1 (List.replicate 384 0) 255) 1 384 ∧
    ({ up with sec := { epoch := 255 } } : State).sec.epoch = 255 ∧
    passesHead owned (envelopeOf ownerKey 0 1 384 4 (List.replicate 384 0)) 1 384 ∧ owned.sec.owned = true :=
  ⟨passesHead_of _ _ _ _ _ _ _ _ (by decide) (by decide) (by decide) (by decide) (by decide) (.inr (.inl rfl)) (by decide), by decide,
   passesHead_of _ _ _ _ _ _ _ _ (by decide) (by decide) (by decide) (by decide) (by decide) (.inr (.inl rfl)) (by decide), by decide⟩

theorem wit_release : releaseBlocked owned = false ∧ releaseBlocked { owned with mtr := { staged := [(0, 1)] } } = true ∧ passesHead owned (envelopeOf ownerKey 0 3 384 4 (List.replicate 384 0)) 3 384 :=
  ⟨by decide, by decide, passesHead_of _ _ _ _ _ _ _ _ (by decide) (by decide) (by decide) (by decide) (by decide) (.inr (.inr rfl)) (by decide)⟩

theorem wit_advance : payNat (envelopeOf ownerKey 0 5 2 4 [1, 63, 0, 0, 0, 0, 0, 0]) 0 1 = 1 ∧
    payNat (envelopeOf ownerKey 0 5 2 4 [1, 63, 0, 0, 0, 0, 0, 0]) 1 1 = 63 ∧ owned.sec.awlSvn < 63 ∧
    svnBelow owned 1 63 = false ∧ owned.sec.svnCount < 63 ∧
    63 ≤ ({ owned with sec := { owned.sec with svnCount := 63 } } : State).sec.svnCount := by
  refine ⟨by rfl, by rfl, by decide, by rfl, by decide, by decide⟩

theorem wit_ceiling : payNat (envelopeOf ownerKey 0 6 2 4 [200, 0, 0, 0, 0, 0, 0, 0]) 0 2 = 200 ∧
    200 ≠ owned.sec.ceilNext.getD owned.pwr.ceil ∧ owned.sec.ceilCount < 31 ∧
    payNat (envelopeOf ownerKey 0 6 2 4 [44, 1, 0, 0, 0, 0, 0, 0]) 0 2 = owned.sec.ceilNext.getD owned.pwr.ceil ∧ jobOpen owned 0 = true ∧
    payNat (envelopeOf ownerKey 0 12 1 4 (List.replicate 8 0)) 0 1 < ({ owned with rel := { mapTab := [⟨0x10, 0, 0, false, 0, 0⟩] } } : State).rel.mapTab.length := by
  refine ⟨by rfl, by decide, by decide, by rfl, by decide, by decide⟩

/-- Records for this device with a higher SEQ, where the stored record's is below and the vendor's signature verifies. -/
theorem wit_records (r : List Byte) (magic : Nat) (hm : leNat (r.take 4) = magic)
    (hc : word (leNat ((r.drop 8).take 8)) = Config.chipId) (hs : Config.pssVerify 2 (r.take 448) (r.drop 448) = true) :
    recFor magic r = true ∧ recSigned r = true := by simp [recFor, recSigned, hm, hc, hs]

/-- A record of higher SEQ than the one in use is taken. -/
theorem wit_recal (r : List Byte) (h : vtSeq (calInUse owned) < vtSeq r) : owned.sec.recalCount < 15 ∧ vtSeq (calInUse owned) < vtSeq r ∧
    15 ≤ ({ owned with sec := { owned.sec with recalCount := 15 } } : State).sec.recalCount := ⟨by decide, h, by decide⟩

/-- The journal's active half whole, as after reset; a compaction under way, one that has ended. -/
theorem wit_store : storeWhole State.reset.sec ∧ storeWhole { State.reset.sec with compacting := true } ∧
    State.reset.sec.compacting = false := by unfold storeWhole; decide

/-- A command that would pass its limit has come by the doorbell, its bytes at the start of HBM. -/
def atDoor (e : Envelope) : State := { memUp with
  mem := memStore {} 0 e.bytes, sec := { owned.sec with door := some 0, svnCount := 63 } }

theorem wit_limit_door (e : Envelope) : (atDoor e).sec.door = some 0 ∧ (atDoor e).sec.doorResp = none ∧ access (atDoor e) 0 = .ok ∧
    access (atDoor e) (0 + 47) = .ok ∧ memBytes (atDoor e).mem 0 e.bytes.length = e.bytes ∧ (atDoor e).sec.epoch < 256 ∧
    63 ≤ (atDoor e).sec.svnCount := by
  refine ⟨rfl, rfl, show access memUp 0 = .ok by decide, show access memUp (0 + 47) = .ok by decide, ?_,
    by show 0 < 256; decide, by show 63 ≤ 63; decide⟩
  apply List.ext_getElem (by simp [memBytes])
  intro i h1 h2
  simp only [memBytes, List.getElem_map, List.getElem_range, atDoor]
  rw [memGet_memStore (by rfl)]
  simp [h2]

/-- And the same on the COMMAND channel of a management port. -/
theorem wit_limit_channel (e : Envelope) : mget ({ owned with mgt := { held := [(2, [⟨0, 1, 7, e.bytes⟩])] } } : State).mgt.held 2 [] =
    ⟨0, 1, 7, e.bytes⟩ :: [] ∧ owned.sec.door = none := ⟨rfl, rfl⟩

theorem wit_warm : warmOk { owned with rel := { fqActive := true, fqCause := 2 }, regs := [(regKey cblPage 0x200, 2)] } = true ∧
    owned.rel.fqActive = false ∧ owned.sys.released = true ∧ cobblerUp owned = true ∧
    ({ owned with rel := { fqActive := true } } : State).rel.fqActive = true ∧ owned.sec.compacting = false ∧ owned.sec.recalCount < 15 ∧ ({ up with sec := { compacting := true } } : State).sec.compacting = true := by
  decide

/-- PWR takes work, or does not. -/
theorem wit_open : takesWork { up with blk := [(firstPage pwr0, { ready := true })] } pwr1 = true ∧ takesWork State.reset pwr1 = false ∧
    mfind up.mtr.staged 0 = none := by decide

/-- A request of job 5 that has ended. -/
def endedReq : Req := { slot := 0, job := 5, id := 1, start := 0, last := some 3 }

theorem wit_firkin : ({ up with mtr := { ended := [endedReq] }, tck := { num := 4 } } : State).mtr.ended.find?
      (reqReady { up with mtr := { ended := [endedReq] }, tck := { num := 4 } }) = some endedReq ∧
    up.admits (.core 0) pwr1 0x280 (0 ||| 1) = true ∧ reqEntries up < 256 ∧ bit (0 : Word) 1 = false ∧
    up.admits (.core 0) pwr1 0x280 (0 ||| 2) = true ∧ up.mtr.ended.find? (reqReady up) = none ∧
    256 ≤ reqEntries { up with mtr := { ended := List.replicate 256 endedReq } } := by decide

/-- The record's ring has room at the start of HBM, or none. -/
def recording (ring : Word) : State := { eventful (mkEv crm0 4 1) [] with
  regs := (eventful (mkEv crm0 4 1) []).regs ++ [(regKey pwr1 0x238, ring)], mtr := { ended := [endedReq] }, tck := { num := 4 } }

theorem wit_firkin_ring : (recording 0).Inv ∧ (recording 0).mtr.ended.find? (reqReady (recording 0)) = some endedReq ∧
    (fld (getReg (recording 0) pwr1 0x238) 9 0 + 1) % 1024 ≠ fld (getReg (recording 0) pwr1 0x238) 25 16 ∧
    access (recording 0) (firkinSlot (recording 0) 0) = .ok ∧ access (recording 0) (firkinSlot (recording 0) 0 + 511) = .ok ∧
    (fld (getReg (recording (word (2 ^ 16))) pwr1 0x238) 9 0 + 1) % 1024 = fld (getReg (recording (word (2 ^ 16))) pwr1 0x238) 25 16 := by
  refine ⟨by rfl, by decide, by decide, by decide, by decide, by decide⟩

/-- Requests that are in error or in order: no such code, another version, out of order, a chain that is not there, none of
the algorithms, a block that is not there, and all or none of the blocks. -/
theorem wit_spdm_errors : (([0x13, 0xFF, 0, 0] : List Byte).getD 1 0).toNat ∉ [0x84, 0xE1, 0xE3, 0x81, 0x82, 0x83, 0xE0] ∧
    (([0x12, 0xE1, 0, 0] : List Byte).getD 0 0).toNat ≠ 0x13 ∧ up.sec.spdmState < 1 ∧ 3 ≤ (([0x13, 0x83, 3, 0] : List Byte).getD 2 0).toNat % 16 ∧
    ¬ ((([0x13, 0xE3, 0, 0] : List Byte).getD 6 0).toNat % 2 = 1) ∧ (measFor up).filter (· == 16) = [] ∧ measFor up ≠ [] ∧
    (([0x13, 0xE0, 1, 0] : List Byte).getD 2 0).toNat % 2 = 1 ∧
    (let req : List Byte := [0x13, 0xE3, 0, 0, 0, 0, 1, 0, 8, 0, 0, 0, 1]
     (req.getD 6 0).toNat % 2 = 1 ∧ (req.getD 8 0).toNat / 8 % 2 = 1 ∧ (req.getD 12 0).toNat % 2 = 1) := by decide

theorem wit_spdm : spdmTakes up [0x10, 0x84, 0, 0] 0x84 0 ∧
    (∀ c ∈ [0xE1, 0xE3, 0x81, 0x82, 0x83, 0xE0], spdmTakes { up with sec := { spdmState := 3 } } [0x13, BitVec.ofNat 8 c, 1, 255] c 3) ∧
    (0 : Nat) < 3 := by
  refine ⟨⟨by decide, by decide, by decide, by decide, by decide⟩, fun c h => ?_, by decide⟩
  simp only [List.mem_cons, List.not_mem_nil, or_false] at h
  rcases h with h | h | h | h | h | h <;> subst h <;> exact ⟨by decide, by decide, by decide, by decide, by decide⟩

/-- A certificate chain is not empty where GET_CERTIFICATE's portion begins inside it. -/
theorem wit_chain (h : chainOf up 0 ≠ []) : leNat (([0x13, 0x82, 0, 0] ++ [0, 0, 0, 1] : List Byte).drop 4 |>.take 2) < (chainOf up 0).length := by
  show 0 < (chainOf up 0).length
  exact List.length_pos_iff.mpr h

/-- The management port 0 up, requests held on a channel. -/
def mgtUp0 (held : Map (List MgtReq)) : State := { upWith [tckPage, mgtPage] with
  regs := [(regKey mgtPage 0x200, 1)], mgt := { link0 := true, held := held } }

/-- A frame of one whole message of two bytes on a channel. -/
def messageOf (chan : Nat) : MgtFrame :=
  { port := 0, src := 1, toPort := true, broadcast := false, etherType := 0x88B5, w0 := word (chan + 3 * 2 ^ 9 + 2 * 2 ^ 48),
    w1 := 2, data := [1, 2] }

theorem wit_message (c : Nat) (h : c ∈ [0, 4, 5]) : wholeMessage (mgtUp0 []) (messageOf c) := by
  simp only [List.mem_cons, List.not_mem_nil, or_false] at h
  rcases h with h | h | h <;> subst h <;>
    exact ⟨⟨by decide, by decide, ⟨by decide, .inl (by decide)⟩, by decide, by decide, by decide, by decide⟩, by decide, by decide⟩

theorem wit_answers_held : 4 ≤ (mget (mgtUp0 [(0, List.replicate 4 ⟨0, 1, 0, []⟩)]).mgt.held 0 []).length ∧
    (∀ x ∈ channelAnswers (mgtUp0 [(0, [⟨0, 1, 7, []⟩]), (3, [⟨0, 1, 7, []⟩]), (4, [⟨0, 1, 7, []⟩])]) 0 7 ⟨0, 1, 7, []⟩,
      mget (mgtUp0 [(0, [⟨0, 1, 7, []⟩]), (3, [⟨0, 1, 7, []⟩]), (4, [⟨0, 1, 7, []⟩])]).mgt.held x.2.1 [] = [⟨0, 1, 7, []⟩]) ∧
    (∀ x ∈ channelAnswers (mgtUp0 []) 0 7 ⟨0, 1, 7, []⟩, mget (mgtUp0 []).mgt.held x.2.1 [] = []) ∧
    mgtUp (mgtUp0 []) = true ∧ mgtLink (mgtUp0 []) 0 = true ∧ mgtLink (mgtUp0 []) 1 = false ∧ mgtUp State.reset = false := by
  refine ⟨by decide, fun x h => ?_, fun x _ => rfl, by decide, by decide, by decide, by decide⟩
  simp only [channelAnswers, List.mem_cons, List.not_mem_nil, or_false] at h
  rcases h with h | h | h <;> subst h <;> rfl

/-- A request at the head of a channel that asks for other records than the command says. -/
theorem wit_other_records : leNat ((⟨0, 1, 7, []⟩ : MgtReq).data.take 8) ≠ leNat ((⟨0, 1, 7, [1]⟩ : MgtReq).data.take 8) ∧
    leNat (((⟨0, 1, 7, []⟩ : MgtReq).data.drop 8).take 2) ≠ leNat (((⟨0, 1, 7, List.replicate 10 1⟩ : MgtReq).data.drop 8).take 2) := by
  decide

/-- Fragments of a message of four bytes on channel 0: its first two, and its last two. -/
def firstPart : MgtFrame := { messageOf 0 with w0 := word (2 ^ 9 + 2 * 2 ^ 48), w1 := 4 }
def lastPart : MgtFrame := { messageOf 0 with w0 := word (2 ^ 10 + 2 * 2 ^ 32 + 2 * 2 ^ 48), w1 := 4 }

/-- The first has arrived; of four bytes, or of a longer message. -/
def halfway (n : Nat) : State := { mgtUp0 [] with mgt := { link0 := true, partials := [(0, (beginsRequest firstPart, n))] } }

theorem wit_fragments : fragment (mgtUp0 []) firstPart true false ∧ firstPart.data.length < fld firstPart.w1 15 0 ∧
    fragment (halfway 4) lastPart false true ∧ partialFor (halfway 4) lastPart = some (beginsRequest firstPart, 4) ∧
    fld lastPart.w0 47 32 = (beginsRequest firstPart).data.length ∧ fld lastPart.w1 15 0 = 4 ∧
    fragment (halfway 6) { lastPart with w0 := word (2 * 2 ^ 32 + 2 * 2 ^ 48), w1 := 6 } false false :=
  ⟨⟨by decide, by decide, ⟨by decide, .inl (by decide)⟩, by decide, by decide, by decide, by decide⟩, by decide,
   ⟨by decide, by decide, ⟨by decide, .inl (by decide)⟩, by decide, by decide, by decide, by decide⟩, by decide, by decide, by decide,
   ⟨by decide, by decide, ⟨by decide, .inl (by decide)⟩, by decide, by decide, by decide, by decide⟩⟩

theorem wit_other_frame : ¬ forHardware { messageOf 0 with etherType := 0x0800 } ∧
    ¬ forHardware { messageOf 4 with toPort := false, broadcast := true } :=
  ⟨fun h => absurd h.1 (by decide), fun h => by
    rcases h.2 with h | h
    · exact absurd h (by decide)
    · exact absurd h.2 (by decide)⟩

/-- The pins that the module drives low, and those it has released. -/
theorem wit_pins : ({ up with sys := { up.sys with fault := true } } : State).sys.fault = true ∧ up.sys.fault = false ∧
    thermAlert { up with pwr := { tjCrit := true } } = true ∧ thermAlert up = false := by decide

theorem wit_sideband : (3 : Fin 4).val ∉ up.mgt.shorts ∧ up.sys.powered = true ∧ up.admits (.core 0) mgtPage 0x308 (0 ||| 1) = true ∧
    mgtUp up = true ∧ (up.mgt.partials.map (·.1)).Nodup ∧ regBit (mgtUp0 []) mgtPage 0x200 0 = true ∧
    3 ∈ ({ up with mgt := { shorts := [3] } } : State).mgt.shorts := by decide

end Sys2Proof.Machine
end

section
/-! SUPPORT. Accesses that are refused: which branch of a register write each of them takes, and what a raised error bit
shows in its page (R6, R22, R25, R28, R30, R397). -/

namespace Sys2Proof.Machine

/-! ### The address of a register of the device's own control pages -/

/-- `ctrlAddr` is a right inverse of `pageAt` (R18, R24). -/
theorem pageAt_ctrlAddr (s : State) {page off : Nat} (hp : page < 4096) (ho : off < 65536) :
    pageAt s (ctrlAddr s page off) = some (page, off) := by
  have hlocal : isLocal s (ctrlAddr s page off) = true := by
    unfold isLocal ctrlAddr
    exact decide_eq_true (by omega)
  have hpart : localPart (ctrlAddr s page off) = 0x200000000000 + (65536 * page + off) := by
    unfold localPart ctrlAddr
    omega
  have hwin : winOf (0x200000000000 + (65536 * page + off)) = .ctrl := by
    unfold winOf
    iterate 4 rw [if_neg (by omega)]
    rw [if_pos (by omega)]
  have hpage : (0x200000000000 + (65536 * page + off) - 0x200000000000) / 65536 = page := by omega
  have hoff : ctrlAddr s page off % 65536 = off := by
    unfold ctrlAddr
    omega
  rw [pageAt, hpart, if_pos ⟨hlocal, hwin⟩, hpage, hoff]

/-! ### The area that the Last lays out itself (R397) -/

theorem lastOwnArea_of_pageAt_none {s : State} {who : Initiator} {a size : Nat} (h : pageAt s a = none) :
    lastOwnArea s who a size = false := by
  rw [lastOwnArea, h]

/-- An access that is not an aligned 64-bit one is none to that area. -/
theorem lastOwnArea_of_illFormed {s : State} {who : Initiator} {a size page off : Nat} (ha : pageAt s a = some (page, off))
    (h : size ≠ 8 ∨ off % 8 ≠ 0) : lastOwnArea s who a size = false := by
  rw [lastOwnArea, ha]
  rcases h with h | h <;> simp [h]

theorem lastOwnArea_last {s : State} {a page off n sub : Nat} (ha : pageAt s a = some (page, off)) (h8 : off % 8 = 0)
    (hoff : 0x200 ≤ off) (hb : pageOwner page = some (.sec, n, sub) ∨ pageOwner page = some (.nvs, n, sub)) :
    lastOwnArea s .last a 8 = true := by
  rw [lastOwnArea, ha]
  rcases hb with hb | hb <;> simp [hb, h8, hoff]

/-! ### Register writes that are not performed -/

theorem exec_registerWrite {s : State} {who : Initiator} {a size : Nat} {v : Word} (h : lastOwnArea s who a size = false) :
    exec (.registerWrite who a size v) s = .next (regWrite who a size v s) :=
  if_neg (Bool.eq_false_iff.mp h)

theorem exec_registerWrite_lastOwnArea {s : State} {who : Initiator} {a size : Nat} {v : Word}
    (h : lastOwnArea s who a size = true) : exec (.registerWrite who a size v) s = .refused .secLayoutNotGiven :=
  if_pos h

theorem regWrite_of_illFormed {s : State} {who : Initiator} {a size page off : Nat} {v : Word}
    (ha : pageAt s a = some (page, off)) (hp : (pageOwner page).isSome = true) (h : size ≠ 8 ∨ off % 8 ≠ 0) :
    regWrite who a size v s = raise page 0 off s := by
  have hassigned : ¬ (pageOwner page).isNone = true := ne_true_of_eq_false (Option.isNone_eq_false_iff.mpr hp)
  unfold regWrite
  rw [ha]
  exact (if_neg hassigned).trans (if_pos h)

/-- A well-formed access to an assigned page comes to the checks of `regGuard`. -/
theorem regWrite_of_wellFormed {s : State} {who : Initiator} {a page off : Nat} {v : Word}
    (ha : pageAt s a = some (page, off)) (hp : (pageOwner page).isSome = true) (h8 : off % 8 = 0) :
    regWrite who a 8 v s = regGuard who page off v (regEffect who page off) s := by
  have hassigned : ¬ (pageOwner page).isNone = true := ne_true_of_eq_false (Option.isNone_eq_false_iff.mpr hp)
  unfold regWrite
  rw [ha]
  exact (if_neg hassigned).trans (if_neg (by omega))

/-- With the privilege and outside a soft reset, a write where no register is defined sets NO_REG (R30). -/
theorem regGuard_of_no_register {s : State} {who : Initiator} {page off n sub : Nat} {b : Block} {v : Word}
    {k : Word → State → State} (hp : pageOwner page = some (b, n, sub)) (hr : off < 0x200 ∨ mayReach who b = true)
    (hrst : (getBlk s page).rstBusy = false) (hf : fieldsAt page off = none) :
    regGuard who page off v k s = raise page 2 off s := by
  have hreach : ¬ (0x200 ≤ off ∧ mayReach who b = false) := by
    rintro ⟨hoff, hno⟩
    rcases hr with hr | hr
    · omega
    · exact Bool.false_ne_true (hno.symm.trans hr)
  unfold regGuard
  simp only [hp, if_neg hreach, hrst, hf, Bool.false_eq_true, false_and, if_false]

theorem regWrite_of_not_mayAddress {s : State} {who : Initiator} {a size : Nat} {v : Word} (ha : pageAt s a = none)
    (hm : mayAddress s who a = false) : regWrite who a size v s = accessFault who a true s := by
  unfold regWrite
  rw [ha]
  exact if_pos hm

/-! ### Accesses to an unassigned page (R25) -/

theorem unassignedEffect_read {page : Nat} (s : State) (h : pageOwner page = none) :
    unassignedEffect page false s = answer (BitVec.allOnes 64) (noPage 0 s) := by
  rw [unassignedEffect, h]
  rfl

theorem unassignedEffect_write {page : Nat} (s : State) (h : pageOwner page = none) :
    unassignedEffect page true s = noPage 0 s := by
  rw [unassignedEffect, h]
  rfl

/-! ### What a raised error shows -/

/-- A raised bit is in ERR_STS; unmasked, it is captured and signalled (R28). -/
theorem raisedAt_raise (page : Nat) {i : Nat} (off : Nat) (s : State) (hi : i < 64) :
    raisedAt s (raise page i off s) page i off := by
  obtain ⟨_, h2030, h2038, h3038, _, _⟩ := errKeys page
  refine ⟨?_, fun hmask => ⟨?_, ?_⟩, fun hmask => ⟨?_, ?_⟩⟩
  · rw [getReg_raise, if_pos rfl, bit_setBit _ _ _ hi]
  · rw [getReg_raise, if_neg h2030.symm, if_pos hmask]
  · rw [getReg_raise, if_neg h2038.symm, if_pos hmask]
  · rw [getReg_raise, if_neg h2038.symm, hmask, if_neg Bool.false_ne_true, if_pos rfl, bit_setBit _ _ _ (by decide)]
  · rw [getReg_raise, if_neg h2030.symm, hmask, if_neg Bool.false_ne_true, if_neg h3038]
    cases bit (getReg s page 0x30) 8 <;> simp

/-- `raisedAt` speaks of the registers alone. -/
theorem raisedAt_congr {s t u : State} {page i off : Nat} (hu : u.regs = t.regs) (h : raisedAt s t page i off) :
    raisedAt s u page i off := by
  unfold raisedAt at h ⊢
  simp only [getReg_congr hu]
  exact h

/-- An error changes the registers, and what an interrupt changes. -/
theorem raise_onlyChanges (page i off : Nat) (s : State) :
    State.onlyChanges [.regs, .out, .sys] s (raise page i off s) :=
  ((raise_keeps page i off s).mono (by decide)).1

theorem answer_noPage_onlyChanges (v : Word) (off : Nat) (s : State) :
    State.onlyChanges [.resp, .regs, .out, .sys] s (answer v (noPage off s)) :=
  (((raise_keeps 0 8 off s).mono (by decide)).step (answer_keeps v _)).1

/-! ### The refusals, one lemma for each -/

/-- A write that is not an aligned 64-bit one sets ACC_FORM and does nothing else (R6). -/
theorem registerWrite_illFormed_sets_ACC_FORM {s : State} {who : Initiator} {page off size : Nat} {v : Word}
    (hp : page < 4096) (ho : off < 65536) (hpo : (pageOwner page).isSome = true) (h : size ≠ 8 ∨ off % 8 ≠ 0) :
    exec (.registerWrite who (ctrlAddr s page off) size v) s = .next (raise page 0 off s) := by
  have ha := pageAt_ctrlAddr s hp ho
  rw [exec_registerWrite (lastOwnArea_of_illFormed ha h), regWrite_of_illFormed ha hpo h]

/-- A well-formed write where no register is defined sets NO_REG and does nothing else (R30). -/
theorem registerWrite_no_register_sets_NO_REG {s : State} {who : Initiator} {page off n sub : Nat} {b : Block} {v : Word}
    (hp : page < 4096) (ho : off < 65536) (h8 : off % 8 = 0) (hpo : pageOwner page = some (b, n, sub))
    (hr : off < 0x200 ∨ mayReach who b = true) (hl : lastOwnArea s who (ctrlAddr s page off) 8 = false)
    (hf : fieldsAt page off = none) (hrst : (getBlk s page).rstBusy = false) :
    exec (.registerWrite who (ctrlAddr s page off) 8 v) s = .next (raise page 2 off s) := by
  have hsome : (pageOwner page).isSome = true := by rw [hpo]; rfl
  rw [exec_registerWrite hl, regWrite_of_wellFormed (pageAt_ctrlAddr s hp ho) hsome h8,
    regGuard_of_no_register hpo hr hrst hf]

/-- A write to an address that is no register's and that the initiator may not address is an access fault (R22). -/
theorem registerWrite_unaddressable_faults {s : State} {who : Initiator} {a size : Nat} {v : Word} (ha : pageAt s a = none)
    (hm : mayAddress s who a = false) :
    exec (.registerWrite who a size v) s = .next (accessFault who a true s) := by
  rw [exec_registerWrite (lastOwnArea_of_pageAt_none ha), regWrite_of_not_mayAddress ha hm]

/-- An access to an unassigned page sets NO_PAGE of SYS page 0 with offset 0 (the model's choice, log 97), and a read of it answers
ones (R25). -/
theorem unassignedPageAccess_reported {s : State} {who : Initiator} {page : Fin 4096} {wr : Bool} {v : Word}
    (h : pageOwner page.val = none) :
    ∃ t, exec (.unassignedPageAccess who page wr v) s = .next t ∧ raisedAt s t 0 8 0 ∧
      (wr = false → t.resp = BitVec.allOnes 64) ∧ (wr = true → t.resp = s.resp) ∧
      State.onlyChanges [.resp, .regs, .out, .sys] s t := by
  have hraised : raisedAt s (noPage 0 s) 0 8 0 := raisedAt_raise 0 0 s (by decide)
  refine ⟨_, rfl, ?_⟩
  cases wr with
  | false =>
    rw [unassignedEffect_read s h]
    exact ⟨raisedAt_congr rfl hraised, fun _ => rfl, nofun, answer_noPage_onlyChanges _ 0 s⟩
  | true =>
    rw [unassignedEffect_write s h]
    have hkeeps : Keeps [.out, .regs, .sys] s (noPage 0 s) := raise_keeps 0 8 0 s
    exact ⟨hraised, nofun, fun _ => hkeeps.1 .resp (by decide), (hkeeps.mono (by decide)).1⟩

/-- Settles O6: each refused access takes the one branch that raises its error bit, emits the access fault or stops. -/
theorem refusedAccessesAreReported : Obligations.RefusedAccessesAreReported := by
  unfold Obligations.RefusedAccessesAreReported
  refine ⟨?accForm, ?noReg, ?fault, ?noPage, ?lastOwn⟩
  case accForm =>
    intro s who page off size v hp ho hpo h
    exact ⟨_, registerWrite_illFormed_sets_ACC_FORM hp ho hpo h, raisedAt_raise page off s (by decide),
      raise_onlyChanges page 0 off s⟩
  case noReg =>
    intro s who page off v b n m hp ho h8 hpo hr hl hf hrst
    exact ⟨_, registerWrite_no_register_sets_NO_REG hp ho h8 hpo hr hl hf hrst, raisedAt_raise page off s (by decide),
      raise_onlyChanges page 2 off s⟩
  case fault =>
    intro s who a size v ha hm
    exact ⟨_, registerWrite_unaddressable_faults ha hm, rfl, (emit_keeps _ s).1⟩
  case noPage =>
    intro s who page wr v h
    exact unassignedPageAccess_reported h
  case lastOwn =>
    intro s page off v n sub hp hoff ho h8 hb
    exact exec_registerWrite_lastOwnArea (lastOwnArea_last (pageAt_ctrlAddr s hp ho) h8 hoff hb)

end Sys2Proof.Machine
end

section
/-! SUPPORT. The limited counts of Table 13.7 under change: what an append to the journal, a compaction and a cold start leave in
the MRAM store (R385, R386), and the relation by which every command is shown to lower none of them (R378). -/

set_option Elab.async false

namespace Sys2Proof.Machine

/-! ### The counts and the relation -/

/-- No count is lower in the second list. -/
def CountsLe (xs ys : List Nat) : Prop := ∀ i < 4, xs.getD i 0 ≤ ys.getD i 0

theorem CountsLe.refl (xs : List Nat) : CountsLe xs xs := fun _ _ => le_rfl

theorem CountsLe.trans {xs ys zs : List Nat} (h : CountsLe xs ys) (k : CountsLe ys zs) : CountsLe xs zs :=
  fun i hi => (h i hi).trans (k i hi)

theorem CountsLe.of_le {a b c d a' b' c' d' : Nat} (ha : a ≤ a') (hb : b ≤ b') (hc : c ≤ c') (hd : d ≤ d') :
    CountsLe [a, b, c, d] [a', b', c', d'] := fun i hi => by interval_cases i <;> assumption

/-- The change keeps the MRAM store sound and lowers no count in it. -/
def StoreKept (s t : State) : Prop := storeSound s → storeSound t ∧ CountsLe (mramCounts s) (mramCounts t)

/-- The change lowers no count that the Last has in hand either. -/
def CountsKept (s t : State) : Prop := StoreKept s t ∧ CountsLe (lastCounts s) (lastCounts t)

variable {s t u : State} {ps : List Part}

theorem StoreKept.trans (h : StoreKept s t) (k : StoreKept t u) : StoreKept s u := fun hs =>
  ⟨(k (h hs).1).1, (h hs).2.trans (k (h hs).1).2⟩

theorem StoreKept.refl : StoreKept s s := fun hs => ⟨hs, .refl _⟩

theorem StoreKept.ite {c : Prop} [Decidable c] (ht : StoreKept s t) (hu : StoreKept s u) : StoreKept s (if c then t else u) := by
  split
  · exact ht
  · exact hu

theorem CountsKept.refl : CountsKept s s := ⟨.refl, .refl _⟩

/-- One more change; the last one is named first, as a composition of functions is written. -/
theorem CountsKept.step (k : CountsKept t u) (h : CountsKept s t) : CountsKept s u := ⟨h.1.trans k.1, h.2.trans k.2⟩

theorem CountsKept.ite {c : Prop} [Decidable c] (ht : CountsKept s t) (hu : CountsKept s u) :
    CountsKept s (if c then t else u) := by
  split
  · exact ht
  · exact hu

theorem CountsKept.foldl {α : Type} {f : State → α → State} {l : List α} (hf : ∀ a x, CountsKept a (f a x))
    (h : CountsKept s t) : CountsKept s (l.foldl f t) := by
  induction l generalizing t with
  | nil => exact h
  | cons x l ih => exact ih (.step (hf t x) h)

/-- The fields of SEC that hold the store. -/
def storeHalves (x : Sec) : Bool × Nat × Half × Half := (x.half, x.gen, x.halfA, x.halfB)

/-- The Last's counts in SEC. -/
def Sec.counts (x : Sec) : List Nat := [x.epoch, x.svnCount, x.recalCount, x.ceilCount]

/-- All fields of SEC that the counts and the soundness of the store depend on. -/
def storeParts (x : Sec) : (Bool × Nat × Half × Half) × List Nat := (storeHalves x, x.counts)

/-- Soundness and replay depend on the halves alone. -/
theorem storeHalves_congr {x y : Sec} (h : storeHalves y = storeHalves x) :
    (storeWhole y ↔ storeWhole x) ∧ replay y = replay x := by
  simp only [storeHalves, Prod.mk.injEq] at h
  obtain ⟨hhalf, hgen, hA, hB⟩ := h
  unfold storeWhole replay activeHalf
  rw [hhalf, hgen, hA, hB]
  exact ⟨.rfl, rfl⟩

/-- A change that leaves the halves and lowers no count of the Last, after others. -/
theorem CountsKept.raise (hh : storeHalves u.sec = storeHalves t.sec) (hc : CountsLe t.sec.counts u.sec.counts)
    (h : CountsKept s t) : CountsKept s u := by
  obtain ⟨hwhole, hreplay⟩ := storeHalves_congr hh
  have hmram : mramCounts u = mramCounts t := by unfold mramCounts; rw [hreplay]
  refine .step ⟨fun ⟨hw, hle⟩ => ⟨⟨hwhole.mpr hw, ?_⟩, ?_⟩, hc⟩ h
  · rw [hmram]; exact CountsLe.trans hle hc
  · rw [hmram]; exact .refl _

/-- A change that leaves the counts too, after others. -/
theorem CountsKept.same (hu : storeParts u.sec = storeParts t.sec) (h : CountsKept s t) : CountsKept s u :=
  have hc : u.sec.counts = t.sec.counts := congrArg Prod.snd hu
  .raise (congrArg Prod.fst hu) (hc ▸ .refl _) h

/-- A change of parts that SEC is not among. -/
theorem CountsKept.of_keeps (k : Keeps ps s t) (hp : .sec ∉ ps := by decide) : CountsKept s t :=
  .same (by rw [show t.sec = s.sec from k.1 .sec hp]) .refl

theorem CountsKept.other (k : Keeps ps t u) (h : CountsKept s t) (hp : .sec ∉ ps := by decide) : CountsKept s u :=
  .step (.of_keeps k hp) h

theorem CountsKept.set_sec {x : Sec} (hx : storeParts x = storeParts t.sec) (h : CountsKept s t) :
    CountsKept s { t with sec := x } := .same hx h

theorem CountsKept.set_rel {v : Rel} (h : CountsKept s t) : CountsKept s { t with rel := v } := .same rfl h

theorem CountsKept.set_mtr {v : Mtr} (h : CountsKept s t) : CountsKept s { t with mtr := v } := .same rfl h

theorem CountsKept.set_sys {v : Sys} (h : CountsKept s t) : CountsKept s { t with sys := v } := .same rfl h

theorem CountsKept.set_tck {v : Tck} (h : CountsKept s t) : CountsKept s { t with tck := v } := .same rfl h

theorem CountsKept.set_keys {v : Map LinkKey} (h : CountsKept s t) : CountsKept s { t with keys := v } := .same rfl h

/-! ### The journal, a compaction and a cold start -/

/-- A change record is whole: committed, and its CRC-32 and its HMAC right. -/
def JRec.whole (r : JRec) : Prop := r.committed = true ∧ r.crcOk = true ∧ r.macOk = true

/-- Replay of whole records gives the value of the last one. -/
theorem replayRecs_append {r : JRec} (hr : r.whole) (v : Store) (rs : List JRec) (h : ∀ x ∈ rs, x.whole) :
    replayRecs v (rs ++ [r]) = (r.value, false) := by
  induction rs generalizing v with
  | nil => obtain ⟨hc, hk, hm⟩ := hr; simp [replayRecs, hc, hk, hm]
  | cons x rs ih =>
    obtain ⟨hc, hk, hm⟩ := h x (by simp)
    simp only [List.cons_append, replayRecs, hc, hk, hm]
    exact ih _ (fun y hy => h y (by simp [hy]))

/-- The half of the store that SEC has in use. -/
def Sec.inUse (x : Sec) : Half := if x.half then x.halfB else x.halfA

/-- Replay of a whole store reads the half in use. -/
theorem replay_of_storeWhole {x : Sec} (h : storeWhole x) : replay x = replayRecs x.inUse.snap x.inUse.recs := by
  obtain ⟨hact, -⟩ := h
  unfold replay Sec.inUse
  rw [hact]

theorem appendRec_half (r : JRec) (x : Sec) : (appendRec r x).half = x.half := by unfold appendRec; split <;> rfl

theorem appendRec_gens (r : JRec) (x : Sec) : (appendRec r x).gen = x.gen ∧ (appendRec r x).halfA.gen = x.halfA.gen ∧
    (appendRec r x).halfB.gen = x.halfB.gen ∧ activeHalf (appendRec r x) = activeHalf x := by
  unfold appendRec
  split <;> exact ⟨rfl, rfl, rfl, rfl⟩

theorem appendRec_counts (r : JRec) (x : Sec) : (appendRec r x).counts = x.counts := by
  unfold appendRec
  split <;> rfl

theorem appendRec_inUse (r : JRec) (x : Sec) : (appendRec r x).inUse = { x.inUse with recs := x.inUse.recs ++ [r] } := by
  unfold appendRec Sec.inUse
  cases x.half <;> rfl

/-- A whole record appended leaves the store whole, and replay gives its value. -/
theorem storeWhole_appendRec {x : Sec} {r : JRec} (hx : storeWhole x) (hr : r.whole) :
    storeWhole (appendRec r x) ∧ replay (appendRec r x) = (r.value, false) := by
  obtain ⟨hact, hA, hB, hgen, hgood, hrecs⟩ := hx
  obtain ⟨eg, eA, eB, eact⟩ := appendRec_gens r x
  have hw : storeWhole (appendRec r x) := by
    refine ⟨by rw [eact, hact, appendRec_half], by rw [eA, eg]; exact hA, by rw [eB, eg]; exact hB, ?_⟩
    change (appendRec r x).inUse.gen = _ ∧ (appendRec r x).inUse.good = true ∧ ∀ y ∈ (appendRec r x).inUse.recs, y.whole
    rw [appendRec_inUse, eg]
    refine ⟨hgen, hgood, fun y hy => ?_⟩
    rcases List.mem_append.mp hy with hy | hy
    · exact hrecs y hy
    · exact List.mem_singleton.mp hy ▸ hr
  refine ⟨hw, ?_⟩
  rw [replay_of_storeWhole hw, appendRec_inUse]
  exact replayRecs_append hr _ _ hrecs

/-- The half that was not in use, written with what replay gives and with further whole records under the next
generation, is whole when it is taken into use. -/
theorem storeWhole_of_newHalf {x y : Sec} {recs : List JRec} (hx : storeWhole x) (hr : ∀ r ∈ recs, r.whole)
    (hhalf : y.half = !x.half) (hgen : y.gen = x.gen + 1) (hA : y.halfA = (newHalf recs x).halfA)
    (hB : y.halfB = (newHalf recs x).halfB) : storeWhole y ∧ replay y = replayRecs (replay x).1 recs := by
  obtain ⟨-, hgenA, hgenB, -⟩ := hx
  have huse : y.inUse = { gen := x.gen + 1, good := true, snap := (replay x).1, recs := recs } := by
    unfold Sec.inUse
    rw [hhalf, hA, hB]
    unfold newHalf
    cases x.half <;> rfl
  have hw : storeWhole y := by
    have hold : y.halfA.gen ≤ y.gen ∧ y.halfB.gen ≤ y.gen ∧ activeHalf y = y.half := by
      unfold activeHalf
      rw [hhalf, hA, hB, hgen]
      unfold newHalf
      cases x.half with
      | false => exact ⟨Nat.le_succ_of_le hgenA, le_rfl, by simp [Nat.lt_succ_of_le hgenA]⟩
      | true => exact ⟨le_rfl, Nat.le_succ_of_le hgenB, by simp [Nat.le_succ_of_le hgenB]⟩
    refine ⟨hold.2.2, hold.1, hold.2.1, ?_⟩
    change y.inUse.gen = y.gen ∧ y.inUse.good = true ∧ ∀ r ∈ y.inUse.recs, r.whole
    rw [huse, hgen]
    exact ⟨rfl, rfl, hr⟩
  rw [replay_of_storeWhole hw, huse]
  exact ⟨hw, rfl⟩

/-- The counts of a store, in the order of Table 13.7. -/
def Store.counts (v : Store) : List Nat := [v.epoch, v.svnCount, v.recalCount, v.ceilCount]

theorem newHalf_counts (recs : List JRec) (x : Sec) : (newHalf recs x).counts = x.counts := by
  unfold newHalf
  cases x.half <;> rfl

/-- A change after which replay gives the Last's counts, or still those MRAM had. -/
theorem CountsKept.of_replay {s t : State} (hw : storeWhole s.sec → storeWhole t.sec ∧
      ((replay t.sec).1.counts = lastCounts s ∨ (replay t.sec).1.counts = mramCounts s))
    (hl : lastCounts t = lastCounts s) : CountsKept s t := by
  refine ⟨fun ⟨hs, hle⟩ => ?_, hl ▸ .refl _⟩
  obtain ⟨ht, hr⟩ := hw hs
  have hm : CountsLe (mramCounts s) (mramCounts t) ∧ CountsLe (mramCounts t) (lastCounts s) := by
    change CountsLe _ (replay t.sec).1.counts ∧ CountsLe (replay t.sec).1.counts _
    rcases hr with hr | hr <;> rw [hr]
    · exact ⟨hle, .refl _⟩
    · exact ⟨.refl _, hle⟩
  exact ⟨⟨ht, by rw [hl]; exact hm.2⟩, hm.1⟩

/-- Every change appended to the journal brings MRAM's counts up to the Last's; one held during a compaction leaves them. -/
theorem journal_countsKept (n : Nat) (s : State) : CountsKept s (journal n s) := by
  let r : JRec := { value := storeOf s, bytes := n + Config.journalBytes }
  have happend : CountsKept s { s with sec := appendRec r s.sec } := by
    refine .of_replay (fun hs => ?_) (appendRec_counts ..)
    obtain ⟨hw, hr⟩ := storeWhole_appendRec (r := r) hs ⟨rfl, rfl, rfl⟩
    exact ⟨hw, .inl (congrArg (·.1.counts) hr)⟩
  unfold journal
  exact .ite (.set_sec rfl .refl) (.same rfl happend)

/-- The end of a compaction: what MRAM held, or the objects as they stand, is in the half taken into use. -/
theorem newHalf_countsKept {s t : State} {n : Nat} (hl : lastCounts t = lastCounts s) (hhalf : t.sec.half = !s.sec.half)
    (hgen : t.sec.gen = s.sec.gen + 1)
    (hAB : let recs := if (replay s.sec).1 = storeOf s then [] else [{ value := storeOf s, bytes := n }]
      t.sec.halfA = (newHalf recs s.sec).halfA ∧ t.sec.halfB = (newHalf recs s.sec).halfB) : CountsKept s t := by
  refine .of_replay (fun hs => ?_) hl
  have hwhole : JRec.whole { value := storeOf s, bytes := n } := ⟨rfl, rfl, rfl⟩
  by_cases h : (replay s.sec).1 = storeOf s
  · rw [if_pos h] at hAB
    obtain ⟨hw, hr⟩ := storeWhole_of_newHalf hs (fun _ hr => absurd hr List.not_mem_nil) hhalf hgen hAB.1 hAB.2
    exact ⟨hw, .inr (congrArg (·.1.counts) hr)⟩
  · rw [if_neg h] at hAB
    obtain ⟨hw, hr⟩ := storeWhole_of_newHalf hs (fun r hr => List.mem_singleton.mp hr ▸ hwhole) hhalf hgen hAB.1 hAB.2
    exact ⟨hw, .inl (congrArg (·.1.counts) hr)⟩

/-- A cold start leaves MRAM as it is, and the Last's counts are those of MRAM from then on (R385, R386). -/
theorem coldSec_storeKept {s t : State} (ht : t.sec = coldSec s.sec) : StoreKept s t := by
  rintro ⟨hw, -⟩
  have hhalves : storeHalves t.sec = storeHalves s.sec := by
    obtain ⟨hact, -, -, hgen, -⟩ := hw
    have hgen' : (if activeHalf s.sec then s.sec.halfB.gen else s.sec.halfA.gen) = s.sec.gen := by
      rw [hact, ← hgen]
      exact (apply_ite Half.gen ..).symm
    rw [ht]
    exact congrArg₂ (fun a b => (a, b, s.sec.halfA, s.sec.halfB)) hact hgen'
  obtain ⟨hwhole, hreplay⟩ := storeHalves_congr hhalves
  have hm : mramCounts t = mramCounts s := by unfold mramCounts; rw [hreplay]
  have hl : lastCounts t = mramCounts s := by unfold lastCounts; rw [ht]; rfl
  refine ⟨⟨hwhole.mpr hw, ?_⟩, ?_⟩
  · rw [hm, hl]; exact CountsLe.refl _
  · rw [hm]; exact CountsLe.refl _

end Sys2Proof.Machine
end

section
/-! SUPPORT. Every function that changes SEC keeps the store sound and lowers no limited count, one law a function; what leaves SEC
alone is covered by its frame law. -/

set_option Elab.async false

namespace Sys2Proof.Machine

/-! ### The meter and the responses -/

theorem closeTick_countsKept (s : State) : CountsKept s (closeTick s) :=
  .same (t := closePart (tickNs s) s) rfl <| .of_keeps (closePart_keeps ..)

theorem firkinEffect_countsKept (s : State) : CountsKept s (firkinEffect s) := by
  unfold firkinEffect
  split
  · exact .refl
  · refine .other (intSet_keeps ..) <| .other (setReg_keeps ..) <| .other (keepFirkin_keeps ..) <|
      .step (journal_countsKept ..) <| .ite ?_ ?_
    · exact .other (mirrorPtr_keeps ..) <| .other (setReg_keeps ..) <| .other (wrBytes_keeps ..) <| .set_mtr .refl
    · exact .other (setReg_keeps ..) <| .set_mtr .refl

theorem signReady_countsKept (s : State) : CountsKept s (signReady s) := .foldl (fun _ _ => firkinEffect_countsKept _) .refl

theorem markRead_countsKept (f : Firkin → Firkin) (s : State) : CountsKept s (markRead f s) :=
  .ite .refl <| .step (journal_countsKept ..) <| .set_mtr .refl

theorem firkinPtrEffect_countsKept (v : Word) (s : State) : CountsKept s (firkinPtrEffect v s) :=
  .other (mirrorPtr_keeps ..) <| .other (setReg_keeps ..) <| markRead_countsKept ..

theorem firkinAnswer_countsKept (port msg : Nat) (s : State) : CountsKept s (firkinAnswer port msg s) :=
  .ite (.of_keeps (answerChan_keeps ..)) <| .step (markRead_countsKept ..) <| .of_keeps (answerChan_keeps ..)

theorem doorAnswer_countsKept (a : Nat) (bs : List Byte) (s : State) : CountsKept s (doorAnswer a bs s) :=
  .ite (.set_sec rfl .refl) <| .set_sec rfl <| .ite (.of_keeps (wrBytes_keeps ..)) .refl

theorem doorRetry_countsKept (s : State) : CountsKept s (doorRetry s) := by
  unfold doorRetry
  split
  · exact doorAnswer_countsKept ..
  · exact .refl

theorem sendResponse_countsKept (src : CmdSrc) (bs : List Byte) (s : State) : CountsKept s (sendResponse src bs s) := by
  cases src with
  | door a => exact doorAnswer_countsKept ..
  | mgt r => exact .of_keeps (sendMgt_keeps ..)
  | direct => exact .of_keeps (emit_keeps ..)

theorem rejectCmd_countsKept (src : CmdSrc) (e : Envelope) (status : Nat) (s : State) : CountsKept s (rejectCmd src e status s) :=
  sendResponse_countsKept ..

theorem answerOrHold_countsKept (src : CmdSrc) (bs : List Byte) (held : Bool) (s : State) :
    CountsKept s (answerOrHold src bs held s) :=
  .ite (.set_sec rfl .refl) (sendResponse_countsKept ..)

theorem acceptCmd_countsKept (src : CmdSrc) (e : Envelope) (key : List Byte) (keep : Bool) (payload : List Byte) (s : State) :
    CountsKept s (acceptCmd src e key keep payload s) := by
  unfold acceptCmd
  refine .step (answerOrHold_countsKept ..) <| .set_sec ?_ .refl
  cases keep <;> rfl

/-! ### Power, and the Cobbler's records -/

theorem loadPwrRegs_countsKept (s : State) : CountsKept s (loadPwrRegs s) :=
  .same (t := ite _ (setReg pwr0 0x200 _ s) s) rfl <| .ite (.of_keeps (setReg_keeps ..)) .refl

theorem powerDecision_countsKept (s : State) : CountsKept s (powerDecision s) := by
  unfold powerDecision
  refine .other (capNotice_keeps ..) <| .other (pwrCounts_keeps ..) <| .ite ?_ ?_
  · exact .other (intSet_keeps ..) <| .other (setPwrThrot_keeps ..) <| .same (t := loadPwrRegs s) rfl (loadPwrRegs_countsKept ..)
  · exact .other (setPwrThrot_keeps ..) <| .same (t := loadPwrRegs s) rfl (loadPwrRegs_countsKept ..)

theorem takeVt_countsKept (s : State) : CountsKept s (takeVt s) := by
  unfold takeVt
  split
  · exact .other (setTrim_keeps ..) <| .same rfl .refl
  · exact .other (raise_keeps ..) <| .other (setTrim_keeps ..) <| .same rfl .refl

theorem emitRecord_countsKept (e : ErrEvent) (r : RecInfo) (s : State) : CountsKept s (emitRecord e r s) := by
  unfold emitRecord
  refine .ite ?_ <| .other (ringPut_keeps ..) ?_ <;>
    exact .step (journal_countsKept ..) <| .set_rel (signReady_countsKept ..)

theorem infoRecord_countsKept (code inst unit kind locus detail : Nat) (r : RecInfo) (s : State) :
    CountsKept s (infoRecord code inst unit kind locus detail r s) := emitRecord_countsKept ..

theorem suspectUnit_countsKept (code inst unit kind locus : Nat) (s : State) :
    CountsKept s (suspectUnit code inst unit kind locus s) :=
  .ite (.set_rel .refl) <| .step (infoRecord_countsKept ..) <| .other (setBlk_keeps ..) <| .set_rel .refl

theorem actPermanent_countsKept (e : ErrEvent) (kind : Nat) (s : State) : CountsKept s (actPermanent e kind s).2 := by
  unfold actPermanent
  split
  · exact suspectUnit_countsKept ..
  split
  · exact .refl
  split
  · split
    · exact .of_keeps (mapEnqueue_keeps ..)
    · exact .refl
  · exact .refl

theorem histApply_countsKept (e : ErrEvent) (s : State) : CountsKept s (histApply e s).2.2 := by
  unfold histApply
  extract_lets now win others set fresh
  have hfresh (hs : List Hist) : CountsKept s (fresh hs).2.2 := by
    unfold fresh
    extract_lets s1
    have h1 : CountsKept s s1 := by
      unfold s1
      split
      · exact .step (journal_countsKept ..) <| .set_rel .refl
      · exact .of_keeps (raise_keeps ..)
    split
    · exact h1
    · exact .step (suspectUnit_countsKept ..) h1
  split
  · split
    · split
      · exact .step (journal_countsKept ..) <| .set_rel .refl
      · exact .step (actPermanent_countsKept ..) <| .step (journal_countsKept ..) <| .set_rel .refl
    · exact hfresh _
  · exact hfresh _

theorem ceCount_countsKept (e : ErrEvent) (s : State) : CountsKept s (ceCount e s).2 := by
  have unit (s1 : State) (h : CountsKept s s1) (n : Nat) : CountsKept s
      (if regFld s cblPage 0x210 31 0 < n then suspectUnit e.code e.inst e.unit e.kind e.locus s1 else s1) :=
    .ite (.step (suspectUnit_countsKept ..) h) h
  unfold ceCount
  dsimp only
  split
  · exact .step (actPermanent_countsKept ..) <| unit _ (.set_rel .refl) _
  · exact unit _ (.set_rel .refl) _

theorem eventEffect_countsKept (s : State) : CountsKept s (eventEffect s) := by
  unfold eventEffect
  split
  · exact .refl
  rename_i e _
  have hs0 : CountsKept s (readFirst e { s with rel := { s.rel with events := s.rel.events.erase e } }) :=
    .other (readFirst_keeps ..) <| .set_rel .refl
  generalize readFirst e _ = s0 at hs0
  have hs1 := CountsKept.step (histApply_countsKept e _) <| .other (suspectSeen_keeps e.code e.inst e.unit s0) hs0
  refine .ite (.step (emitRecord_countsKept ..) hs0) <| .ite (.step (emitRecord_countsKept ..) hs0) <| .ite ?_ ?_
  · have hc := CountsKept.step (ceCount_countsKept e _) hs1
    exact .ite (.ite (.set_rel hc) (.step (emitRecord_countsKept ..) <| .set_rel hc)) <|
      .step (emitRecord_countsKept ..) <| .set_rel hc
  · exact .other (clockEvent_keeps ..) <| .step (emitRecord_countsKept ..) hs1

theorem coalesceEffect_countsKept (key : Nat) (s : State) : CountsKept s (coalesceEffect key s) := by
  unfold coalesceEffect
  split
  · exact .refl
  · exact .ite .refl <| .ite (.set_rel .refl) <| .step (emitRecord_countsKept ..) <| .set_rel .refl

theorem suspectClearEffect_countsKept (code inst unit : Nat) (s : State) : CountsKept s (suspectClearEffect code inst unit s) := by
  unfold suspectClearEffect
  split
  · exact .refl
  · exact .ite .refl <| .step (infoRecord_countsKept ..) <| .other (setBlk_keeps ..) <| .set_rel .refl

theorem minuteEffect_countsKept (s : State) : CountsKept s (minuteEffect s) :=
  .ite .refl <| .step (journal_countsKept ..) <| .same rfl .refl

theorem mapoutDoneEffect_countsKept (s : State) : CountsKept s (mapoutDoneEffect s) := by
  unfold mapoutDoneEffect
  split
  · exact .refl
  refine .ite .refl ?_
  extract_lets u ok tab rel s1 s2 s3 s4 sec s5
  have h1 : CountsKept s s1 := .set_rel .refl
  have h2 : CountsKept s s2 :=
    .ite (.other (intSet_keeps ..) <| .step (journal_countsKept ..) <| .other (mapFinish_keeps _ u s1) h1) <|
      .other (raise_keeps ..) h1
  have h4 : CountsKept s s4 :=
    have h3 : CountsKept s s3 := .step (infoRecord_countsKept ..) h2
    .ite (.other (mapNotice_keeps ..) h3) h3
  have h5 : CountsKept s s5 := by
    unfold s5
    split
    · exact .step (acceptCmd_countsKept ..) <| .set_sec rfl h4
    · exact h4
  exact .other (mapBegin_keeps ..) h5

theorem packEffect_countsKept (bs : List Byte) (s : State) : CountsKept s (packEffect bs s) :=
  .ite .refl <| .ite (.of_keeps (raise_keeps ..)) <|
    .same (t := ite _ (wrBytes 2 _ bs s) s) rfl <| .ite (.of_keeps (wrBytes_keeps ..)) .refl

theorem fwFlip_countsKept (g : Nat) (reverted : Bool) (s : State) : CountsKept s (fwFlip g reverted s) :=
  .step (infoRecord_countsKept ..) <| .step (journal_countsKept ..) <| .set_sec rfl .refl

theorem fwTurn_countsKept (g : Nat) (reverted : Bool) (s : State) : CountsKept s (fwTurn g reverted s) :=
  .ite (fwFlip_countsKept ..) <| .set_sec rfl .refl

theorem fwBoundary_countsKept (s : State) : CountsKept s (fwBoundary s) :=
  .foldl (fun _ _ => fwFlip_countsKept ..) <| .set_sec rfl .refl

theorem healthEffect_countsKept (g : Nat) (s : State) : CountsKept s (healthEffect g s) := by
  unfold healthEffect
  split
  · exact .refl
  · exact .ite .refl <| .step (fwTurn_countsKept ..) <| .set_sec rfl .refl

/-! ### The tick boundary -/

theorem phaseM_countsKept (s : State) : CountsKept s (phaseM s) := by
  have closed : CountsKept s (missMark (trimByMarks (countStalls (closeTick (estimate (openTick s)))))) :=
    .other (missMark_keeps ..) <| .other (trimByMarks_keeps ..) <| .other (countStalls_keeps ..) <|
      .step (closeTick_countsKept ..) <| .other (estimate_keeps ..) <| .of_keeps (openTick_keeps ..)
  exact .other (intSet_keeps ..) <| .other (bump_keeps ..) <|
    .ite (.other (sendMarks_keeps ..) <| .set_tck closed) <| .set_tck closed

theorem phaseE5_countsKept (closed : Nat) (s : State) : CountsKept s (phaseE5 closed s) :=
  .other (reqBoundary_keeps ..) <| .step (fwBoundary_countsKept ..) <| .set_keys <| .other (closeWaits_keeps ..) <|
    .foldl (fun _ _ => .of_keeps (slotMap_keeps ..)) <| .foldl (fun _ _ => .of_keeps (slotE5_keeps ..)) .refl

theorem boundary_countsKept (s : State) : CountsKept s (boundary s) := by
  unfold boundary
  refine .ite .refl <| .ite ?_ <| .step (doorRetry_countsKept ..) <| .other (stealNotice_keeps ..) ?_
  · exact .step (doorRetry_countsKept ..) <| .other (reqBoundary_keeps ..) <| phaseM_countsKept ..
  · exact .foldl (fun _ _ => .of_keeps (admitTick_keeps ..)) <| .other (freshWaits_keeps ..) <| .other (hbmBoundary_keeps ..) <|
      .step (phaseE5_countsKept ..) <| .step (powerDecision_countsKept ..) <| .other (phaseE3_keeps ..) <|
      .other (phaseE2_keeps ..) <| .other (outcomes_keeps ..) <| .foldl (fun _ _ => .of_keeps (phaseS_keeps ..)) <|
      .other (background_keeps ..) <| phaseM_countsKept ..

/-! ### Start-up -/

theorem setSlotOf_countsKept (g slot : Nat) (s : State) : CountsKept s (setSlotOf g slot s) := .set_sec rfl .refl

theorem bootGroup_countsKept {reads : Nat → Bool} {g : Nat} {s t : State} (h : bootGroup reads g s = some t) :
    CountsKept s t := by
  unfold bootGroup at h
  dsimp only at h
  split at h
  · cases h
    exact .refl
  split at h
  · cases h
    exact .other (bootSwitch_keeps ..) <| .step (journal_countsKept ..) <| setSlotOf_countsKept ..
  · cases h

theorem bootLast_countsKept {reads : Nat → Bool} {s t : State} (h : bootLast reads s = some t) : CountsKept s t := by
  unfold bootLast at h
  dsimp only at h
  split at h
  · split at h
    · cases h
    rename_i u hu
    have hswitched : CountsKept s u := by
      refine .step (bootGroup_countsKept hu) ?_
      have hslot : CountsKept s (journal 8 (setSlotOf 5 (1 - fwSlot s 5)
          { s with sec := { s.sec with lastPend := false, lastTrial := !s.sec.lastTrial } })) :=
        .step (journal_countsKept ..) <| .step (setSlotOf_countsKept ..) <| .set_sec rfl .refl
      exact .ite (.other (bootSwitch_keeps ..) hslot) hslot
    cases h
    exact .ite hswitched <| .set_sec rfl hswitched
  · exact .step (bootGroup_countsKept h) <| .set_sec rfl .refl

theorem applyMapTab_countsKept (s : State) : CountsKept s (applyMapTab s) :=
  .foldl (fun _ _ => .of_keeps (applyEntry_keeps ..)) <| .ite .refl <| .step (journal_countsKept ..) <| .same rfl .refl

theorem startUp_countsKept (slot : Nat) (romOk : Bool) (reads : BitVec 2) (s : State) :
    CountsKept s (startUp slot romOk reads s) := by
  unfold startUp
  refine .ite (.set_sys .refl) ?_
  have hmap := CountsKept.step (applyMapTab_countsKept
    { s with sys := { s.sys with slot := slot, released := true, phase := 1 } }) (.set_sys .refl)
  dsimp only
  split
  · exact hmap
  · rename_i u hu
    exact .set_sec rfl <| .step (takeVt_countsKept ..) <| .set_sys <| .step (bootLast_countsKept hu) hmap

theorem resetReleaseEffect_countsKept (slot : Nat) (romOk : Bool) (reads : BitVec 2) (s : State) :
    CountsKept s (resetReleaseEffect slot romOk reads s) :=
  .ite .refl <| .ite (.step (startUp_countsKept ..) <| .set_sys .refl) <| .set_sys .refl

theorem lastTimeoutEffect_countsKept (s : State) : CountsKept s (lastTimeoutEffect s) :=
  .ite (.step (journal_countsKept ..) <| .set_sec rfl .refl) .refl

theorem cobblerReleaseEffect_countsKept (reads : Nat → Bool) (s : State) : CountsKept s (cobblerReleaseEffect reads s) := by
  unfold cobblerReleaseEffect
  refine .ite .refl ?_
  split
  · exact .refl
  · rename_i u hu
    exact .foldl (fun _ _ => .of_keeps (hbmRequest_keeps ..)) <| .same (t := u) rfl (bootGroup_countsKept hu)

theorem upperReleaseEffect_countsKept (reads : Nat → Nat → Bool) (entry : Nat) (copied : Bool) (s : State) :
    CountsKept s (upperReleaseEffect reads entry copied s) := by
  have hgroup (u : State) (g : Nat) : CountsKept u ((bootGroup (reads g) g u).getD u) := by
    cases h : bootGroup (reads g) g u with
    | none => exact .refl
    | some v => exact bootGroup_countsKept h
  have hgroups : CountsKept s ([2, 3, 4].foldl (fun u g => (bootGroup (reads g) g u).getD u) s) := .foldl hgroup .refl
  unfold upperReleaseEffect
  refine .ite .refl <| .ite (.of_keeps (upperLoad_keeps ..)) <| .ite .refl ?_
  dsimp only
  split
  · exact hgroups
  · rename_i u hu
    exact .other (upperLoad_keeps ..) <| .set_sys <| .step (bootGroup_countsKept hu) hgroups

/-! ### A cold start -/

theorem coldState_storeKept (s : State) : StoreKept s (coldState s) := by
  refine coldSec_storeKept ?_
  unfold coldState
  dsimp only
  split <;> rfl

theorem poweredState_storeKept (s : State) : StoreKept s (poweredState s) := by
  unfold poweredState
  dsimp only
  split
  · exact (coldState_storeKept s).trans (CountsKept.step (startUp_countsKept ..) (.set_sys .refl)).1
  · exact (coldState_storeKept s).trans (CountsKept.set_sys .refl).1

theorem coldResetEffect_storeKept (lowNs : Nat) (s : State) : StoreKept s (coldResetEffect lowNs s) := by
  have hlow : StoreKept s { s with sys := { s.sys with high := none } } := (CountsKept.set_sys .refl).1
  exact .ite .refl <| .ite (hlow.trans (poweredState_storeKept _)) hlow

/-! ### The keyed commands -/

section
variable {e : Envelope} {k : CmdSrc → State → State} (hk : ∀ src u, CountsKept u (k src u))
include hk

theorem keyedHead_countsKept (code len : Nat) (s : State) : CountsKept s (keyedHead code len e k s) := by
  have hsrc : CountsKept s (takeSource e s).2 := .of_keeps (takeSource_keeps e s)
  have hreject (n : Nat) := CountsKept.step (rejectCmd_countsKept (takeSource e s).1 e n _) hsrc
  exact .ite .refl <| .ite (hreject 1) <| .ite (hreject 6) <| .ite (hreject 2) <| .ite (hreject 3) <| .step (hk ..) hsrc

theorem keyedMac_countsKept (src : CmdSrc) (s : State) : CountsKept s (keyedMac e k src s) :=
  .ite (rejectCmd_countsKept ..) <| .ite (answerOrHold_countsKept ..) <| .ite (rejectCmd_countsKept ..) (hk ..)

theorem keyed_countsKept (code len : Nat) (s : State) : CountsKept s (keyed code len e k s) :=
  keyedHead_countsKept (fun _ _ => keyedMac_countsKept hk _ _) code len s

end

theorem ownerDone_countsKept (e : Envelope) (src : CmdSrc) (n : Nat) (s : State) : CountsKept s (ownerDone e src n s) :=
  .step (journal_countsKept ..) (acceptCmd_countsKept ..)

theorem takeOwner_countsKept (e : Envelope) (src : CmdSrc) (s : State) : CountsKept s (takeOwner e src s) := by
  unfold takeOwner
  refine .ite (keyedMac_countsKept (fun _ _ => rejectCmd_countsKept ..) ..) ?_
  split
  · exact rejectCmd_countsKept ..
  exact .ite (rejectCmd_countsKept ..) <| .ite (rejectCmd_countsKept ..) <| .ite (rejectCmd_countsKept ..) <|
    .ite (rejectCmd_countsKept ..) <| .step (ownerDone_countsKept ..) <|
    .raise (t := s) rfl (.of_le (Nat.le_succ _) le_rfl le_rfl le_rfl) .refl

theorem releaseOwner_countsKept (e : Envelope) (src : CmdSrc) (s : State) : CountsKept s (releaseOwner e src s) := by
  unfold releaseOwner
  refine .ite (rejectCmd_countsKept ..) ?_
  extract_lets old s1 x s2
  have h1 : CountsKept s s1 := .other (zeroRange_keeps ..) <| .other (zeroRange_keeps ..) <| .other (zeroProv_keeps ..) <|
    .of_keeps (loseLines_keeps ..)
  exact .step (journal_countsKept ..) <| .step (acceptCmd_countsKept ..) <| .same (t := s1) rfl h1

theorem vendorRelease_countsKept (e : Envelope) (src : CmdSrc) (s : State) : CountsKept s (vendorRelease e src s) :=
  .ite (rejectCmd_countsKept ..) (releaseOwner_countsKept ..)

theorem installKey_countsKept (e : Envelope) (src : CmdSrc) (s : State) : CountsKept s (installKey e src s) := by
  unfold installKey
  dsimp only
  split
  · exact rejectCmd_countsKept ..
  · exact .ite (rejectCmd_countsKept ..) <| .ite (rejectCmd_countsKept ..) <| .step (ownerDone_countsKept ..) <| .set_keys .refl

theorem advanceSvn_countsKept (e : Envelope) (src : CmdSrc) (s : State) : CountsKept s (advanceSvn e src s) := by
  have hraise (x : Sec) (hh : storeHalves x = storeHalves s.sec)
      (hc : x.counts = [s.sec.epoch, s.sec.svnCount + 1, s.sec.recalCount, s.sec.ceilCount]) :
      CountsKept s { s with sec := x } :=
    .raise (t := s) hh (hc ▸ .of_le le_rfl (Nat.le_succ _) le_rfl le_rfl) .refl
  refine .ite (rejectCmd_countsKept ..) <| .ite (rejectCmd_countsKept ..) <| .step (ownerDone_countsKept ..) <| hraise _ ?_ ?_ <;>
    split <;> rfl

theorem setCeiling_countsKept (e : Envelope) (src : CmdSrc) (s : State) : CountsKept s (setCeiling e src s) :=
  .ite (rejectCmd_countsKept ..) <| .ite (ownerDone_countsKept ..) <| .ite (rejectCmd_countsKept ..) <|
    .step (ownerDone_countsKept ..) <| .raise (t := s) rfl (.of_le le_rfl le_rfl le_rfl (Nat.le_succ _)) .refl

theorem recalMeter_countsKept (e : Envelope) (src : CmdSrc) (s : State) : CountsKept s (recalMeter e src s) :=
  .ite (rejectCmd_countsKept ..) <| .ite (rejectCmd_countsKept ..) <| .ite (rejectCmd_countsKept ..) <|
    .step (ownerDone_countsKept ..) <| .raise (t := s) rfl (.of_le le_rfl le_rfl (Nat.le_succ _) le_rfl) .refl

theorem replaceVt_countsKept (e : Envelope) (src : CmdSrc) (s : State) : CountsKept s (replaceVt e src s) :=
  .ite (rejectCmd_countsKept ..) <| .ite (rejectCmd_countsKept ..) <| .step (ownerDone_countsKept ..) <| .set_sec rfl .refl

theorem fwSwitchCmd_countsKept (e : Envelope) (src : CmdSrc) (s : State) : CountsKept s (fwSwitchCmd e src s) :=
  .ite (rejectCmd_countsKept ..) <| .step (ownerDone_countsKept ..) <| .step (fwTurn_countsKept ..) <| .set_sec rfl .refl

theorem updateLast_countsKept (e : Envelope) (src : CmdSrc) (s : State) : CountsKept s (updateLast e src s) :=
  .ite (rejectCmd_countsKept ..) <| .step (ownerDone_countsKept ..) <| .set_sec rfl .refl

theorem mapoutCmd_countsKept (e : Envelope) (src : CmdSrc) (s : State) : CountsKept s (mapoutCmd e src s) :=
  .ite (rejectCmd_countsKept ..) <| .other (mapEnqueue_keeps ..) <| .set_sec rfl .refl

theorem undoMapout_countsKept (e : Envelope) (src : CmdSrc) (s : State) : CountsKept s (undoMapout e src s) :=
  .ite (rejectCmd_countsKept ..) <| .step (ownerDone_countsKept ..) <| .set_sec rfl .refl

theorem warmCmd_countsKept (e : Envelope) (src : CmdSrc) (s : State) : CountsKept s (warmCmd e src s) :=
  .ite (rejectCmd_countsKept ..) <| .step (ownerDone_countsKept ..) <| .of_keeps (warmRestart_keeps ..)

theorem failQuietCmd_countsKept (e : Envelope) (src : CmdSrc) (s : State) : CountsKept s (failQuietCmd e src s) :=
  .step (ownerDone_countsKept ..) <| .of_keeps (failQuiet_keeps ..)

theorem setTime_countsKept (e : Envelope) (src : CmdSrc) (s : State) : CountsKept s (setTime e src s) :=
  .step (ownerDone_countsKept ..) <| .set_sec rfl .refl

theorem compactEffect_countsKept (s : State) : CountsKept s (compactEffect s) := by
  unfold compactEffect
  refine .ite .refl <| .foldl (fun _ _ => sendResponse_countsKept ..) ?_
  exact .step (newHalf_countsKept (s := (draw s).2) (newHalf_counts ..) rfl rfl ⟨rfl, rfl⟩) <| .of_keeps (draw_keeps s)

/-! ### SPDM -/

theorem spdmRow_countsKept {k : State → List Byte × State} (hk : ∀ u, CountsKept u (k u).2) (code need src : Nat)
    (req : List Byte) (s : State) : CountsKept s (spdmRow code need src req k s) := by
  have hsend (resp : List Byte) (u : State) : CountsKept u (spdmSend src req resp u) := .of_keeps (spdmSend_keeps ..)
  exact .ite .refl <| .ite (hsend ..) <| .ite (hsend ..) <| .ite (hsend ..) <| .step (hsend ..) (hk s)

theorem spdmVersion_countsKept (req : List Byte) (s : State) : CountsKept s (spdmVersion req s).2 := .set_sec rfl .refl

theorem spdmKeep_countsKept (st : Nat) (req resp : List Byte) (s : State) : CountsKept s (spdmKeep st req resp s) :=
  .set_sec rfl .refl

theorem spdmCaps_countsKept (req : List Byte) (s : State) : CountsKept s (spdmCaps req s).2 := spdmKeep_countsKept ..

theorem spdmAlgos_countsKept (req : List Byte) (s : State) : CountsKept s (spdmAlgos req s).2 := by
  unfold spdmAlgos
  dsimp only
  split
  · exact .refl
  · exact spdmKeep_countsKept ..

theorem spdmDigests_countsKept (req : List Byte) (s : State) : CountsKept s (spdmDigests req s).2 := spdmKeep_countsKept ..

theorem spdmCert_countsKept (req : List Byte) (s : State) : CountsKept s (spdmCert req s).2 := by
  unfold spdmCert
  dsimp only
  split
  · exact .refl
  · exact spdmKeep_countsKept ..

theorem spdmChallenge_countsKept (req : List Byte) (s : State) : CountsKept s (spdmChallenge req s).2 := by
  unfold spdmChallenge
  dsimp only
  split
  · exact .refl
  · exact .set_sec rfl <| .of_keeps (nonce_keeps s)

theorem spdmMeas_countsKept (req : List Byte) (s : State) : CountsKept s (spdmMeas req s).2 := by
  have hnonce : CountsKept s (nonce s).2 := .of_keeps (nonce_keeps s)
  unfold spdmMeas
  extract_lets sign op all ids recs n ctx body
  split
  · exact .refl
  split
  · exact .set_sec rfl hnonce
  · exact .step (spdmKeep_countsKept ..) hnonce

/-! ### Registers -/

theorem resetInner_countsKept (b : Block) (n : Nat) (s : State) : CountsKept s (resetInner b n s) := by
  cases b with
  | mgt => exact .same rfl .refl
  | tck => exact .of_keeps (resetTck_keeps ..)
  | arr => exact .other (setArr_keeps ..) <| .of_keeps (dropContexts_keeps ..)
  | ldl => exact .of_keeps (setLdl_keeps ..)
  | crm => exact .of_keeps (resetCrm_keeps ..)
  | hbm => exact .other (setHbm_keeps ..) <| .ite .refl <| .of_keeps (loseLines_keeps ..)
  | lnk =>
    have hport : CountsKept s (setPort n {} s) := .of_keeps (setPort_keeps ..)
    exact .ite (.same (t := setPort n {} s) rfl hport) hport
  | pwr => exact .of_keeps (resetPwr_keeps ..)
  | clk => exact .other (setTrim_keeps ..) <| .same (t := s) rfl .refl
  | stn => exact .of_keeps (resetStn_keeps ..)
  | ve | chn | skm | tst | cbl | sys | rng | sec | nvs => exact .same rfl .refl

theorem blkCtlEffect_countsKept (page : Nat) (v : Word) (s : State) : CountsKept s (blkCtlEffect page v s) := by
  have hstore : CountsKept s (storeReg page 0x10 v s) := .of_keeps (storeReg_keeps ..)
  unfold blkCtlEffect
  extract_lets s0 s1
  have h1 : CountsKept s s1 := .ite hstore (.other (holdAck_keeps ..) hstore)
  refine .ite h1 <| .ite (.other (raise_keeps ..) h1) ?_
  split
  · exact .refl
  · exact .other (setBlk_keeps ..) <| .step (resetInner_countsKept ..) <| .of_keeps (resetRegs_keeps ..)

theorem regGuard_countsKept {k : Word → State → State} (hk : ∀ w u, CountsKept u (k w u)) (who : Initiator) (page off : Nat)
    (v : Word) (s : State) : CountsKept s (regGuard who page off v k s) := by
  have hraise (i : Nat) (u : State) : CountsKept u (raise page i off u) := .of_keeps (raise_keeps ..)
  have hreserved (w : Word) : CountsKept s (reserved page off (k w) s) :=
    .ite (.step (hraise ..) (hk ..)) (.step (hk ..) (hraise ..))
  unfold regGuard
  split
  · exact .of_keeps (noPage_keeps ..)
  refine .ite (hraise ..) <| .ite (.ite .refl <| .of_keeps (setBlk_keeps ..)) ?_
  split
  · exact hraise ..
  · exact .ite (hraise ..) <| .ite (hk ..) (hreserved _)

theorem cmdCtlEffect_countsKept (v : Word) (s : State) : CountsKept s (cmdCtlEffect v s) :=
  .ite .refl <| .ite (.set_sec rfl .refl) .refl

theorem mgtRegEffect_countsKept (who : Initiator) (page off : Nat) (v : Word) (s : State) :
    CountsKept s (mgtRegEffect who page off v s) :=
  .ite (.of_keeps (mgtCfgEffect_keeps ..)) <| .ite (.of_keeps (rearmEffect_keeps ..)) <| .ite (cmdCtlEffect_countsKept ..) <|
    .of_keeps (storeReg_keeps ..)

theorem pwrRegEffect_countsKept (sub page off : Nat) (v : Word) (s : State) : CountsKept s (pwrRegEffect sub page off v s) := by
  have hstore : CountsKept s (storeReg page off v s) := .of_keeps (storeReg_keeps ..)
  have hcheck (ok : Bool) : CountsKept s (checkedReg page off 9 ok v s) := .of_keeps (checkedReg_keeps ..)
  exact .ite (.ite (.of_keeps (pwrCapEffect_keeps ..)) <| .ite (hcheck _) <| .ite (hcheck _) <| .ite (hcheck _) <|
      .ite (hcheck _) <| .ite (hcheck _) hstore) <|
    .ite (firkinPtrEffect_countsKept ..) <| .ite (.of_keeps (reqCtlEffect_keeps ..)) hstore

theorem regEffect_countsKept (who : Initiator) (page off : Nat) (v : Word) (s : State) :
    CountsKept s (regEffect who page off v s) := by
  have hstore : CountsKept s (storeReg page off v s) := .of_keeps (storeReg_keeps ..)
  unfold regEffect
  refine .ite (blkCtlEffect_countsKept ..) <| .ite (.of_keeps (perfSelEffect_keeps ..)) <| .ite hstore ?_
  split
  · exact .of_keeps (sysRegEffect_keeps ..)
  · exact .of_keeps (tckRegEffect_keeps ..)
  · exact .of_keeps (arrRegEffect_keeps ..)
  · exact .ite (.of_keeps (chnCfgEffect_keeps ..)) hstore
  · exact .of_keeps (skmRegEffect_keeps ..)
  · exact .ite (.of_keeps (testGoEffect_keeps ..)) <| .ite (.of_keeps (seedEffect_keeps ..)) hstore
  · exact .of_keeps (ldlRegEffect_keeps ..)
  · exact .of_keeps (crmRegEffect_keeps ..)
  · exact .of_keeps (hbmRegEffect_keeps ..)
  · exact .of_keeps (lnkRegEffect_keeps ..)
  · exact pwrRegEffect_countsKept ..
  · exact .of_keeps (clkRegEffect_keeps ..)
  · exact .ite (.of_keeps (checkedReg_keeps ..)) hstore
  · exact .ite (.of_keeps (captureEffect_keeps ..)) hstore
  · exact mgtRegEffect_countsKept ..
  · exact .of_keeps (cblRegEffect_keeps ..)
  · exact hstore

theorem regWrite_countsKept (who : Initiator) (addr size : Nat) (v : Word) (s : State) :
    CountsKept s (regWrite who addr size v s) := by
  unfold regWrite
  split
  · refine .ite (.of_keeps (accessFault_keeps ..)) ?_
    split
    · exact .of_keeps (coreWrite_keeps ..)
    · exact .refl
  · exact .ite (.of_keeps (noPage_keeps ..)) <| .ite (.of_keeps (raise_keeps ..)) <|
      regGuard_countsKept (fun _ _ => regEffect_countsKept ..) ..

/-! ### Every command -/

/-- What a command's answer keeps: the store and its counts, and the Last's counts unless the command brings the cold state. -/
def ResKept (c : Instr) (s : State) : Res → Prop
  | .next t => StoreKept s t ∧ (¬ coldCommand c → CountsLe (lastCounts s) (lastCounts t))
  | _ => True

theorem ResKept.of_keeps {c : Instr} {s : State} {r : Res} {ps : List Part} (k : ResKeeps ps s r) (hp : .sec ∉ ps := by decide) :
    ResKept c s r := by
  cases r with
  | next t =>
    obtain ⟨hstore, hlast⟩ := CountsKept.of_keeps (show Keeps ps s t from k) hp
    exact ⟨hstore, fun _ => hlast⟩
  | fault _ => trivial
  | refused _ => trivial

theorem CountsKept.res {c : Instr} {s t : State} (h : CountsKept s t) : ResKept c s (.next t) := ⟨h.1, fun _ => h.2⟩

theorem StoreKept.res {c : Instr} {s t : State} (h : StoreKept s t) (hc : coldCommand c) : ResKept c s (.next t) :=
  ⟨h, fun hn => absurd hc hn⟩

theorem execRegisterWrite_resKept (who : Initiator) (addr size : Nat) (v : Word) (s : State) :
    ResKept (.registerWrite who addr size v) s (execRegisterWrite who addr size v s) := by
  unfold execRegisterWrite
  split
  · trivial
  · exact (regWrite_countsKept ..).res

/-- Every command keeps the store sound and lowers no limited count (R378, R385, R386). -/
theorem exec_resKept (c : Instr) (s : State) : ResKept c s (exec c s) :=
  match c with
  | .registerWrite .. => execRegisterWrite_resKept ..
  | .unassignedPageAccess who page wr v => .of_keeps (execUnassignedPageAccess_keeps who page wr v s)
  | .errFirstRead who page => .of_keeps (execErrFirstRead_keeps who page s)
  | .perfClear .. => .of_keeps (execPerfClear_keeps ..)
  | .blockEnable .. => (regGuard_countsKept (blkCtlEffect_countsKept _) ..).res
  | .softReset .. => (regGuard_countsKept (blkCtlEffect_countsKept _) ..).res
  | .softResetDone .. => .of_keeps (execSoftResetDone_keeps ..)
  | .devIdWrite .. => .of_keeps (execDevIdWrite_keeps ..)
  | .qPush .. => .of_keeps (execQPush_keeps ..)
  | .heldPushComplete .. => .of_keeps (execHeldPushComplete_keeps ..)
  | .qPushNb .. => .of_keeps (execQPushNb_keeps ..)
  | .qPop .. => .of_keeps (execQPop_keeps ..)
  | .qCfgWrite .. => .of_keeps (execQCfgWrite_keeps ..)
  | .queueFlush .. => .of_keeps (execQueueFlush_keeps ..)
  | .poolCfgWrite .. => .of_keeps (execPoolCfgWrite_keeps ..)
  | .poolAlloc who pool => .of_keeps (execPoolAlloc_keeps who pool s)
  | .poolRelease .. => .of_keeps (execPoolRelease_keeps ..)
  | .taskAccept .. => .of_keeps (execTaskAccept_keeps ..)
  | .dispatchCheck .. => .of_keeps (execDispatchCheck_keeps ..)
  | .taskDispatch .. => .of_keeps (execTaskDispatch_keeps ..)
  | .refetchDone .. => .of_keeps (execRefetchDone_keeps ..)
  | .taskCommit .. => .of_keeps (execTaskCommit_keeps ..)
  | .matmulProduct .. => .of_keeps (execMatmulProduct_keeps ..)
  | .heritageProduct .. => .of_keeps (execHeritageProduct_keeps ..)
  | .vecConvert .. => .of_keeps (execVecConvert_keeps ..)
  | .vecAdd .. => .of_keeps (execVecAdd_keeps ..)
  | .vecMul .. => .of_keeps (execVecMul_keeps ..)
  | .vecFma .. => .of_keeps (execVecFma_keeps ..)
  | .vecAffine .. => .of_keeps (execVecAffine_keeps ..)
  | .vecMax .. => .of_keeps (execVecMax_keeps ..)
  | .rowSum .. => .of_keeps (execRowSum_keeps ..)
  | .rowSumsq .. => .of_keeps (execRowSumsq_keeps ..)
  | .rowMax .. => .of_keeps (execRowMax_keeps ..)
  | .vecFinite .. => .of_keeps (execVecFinite_keeps ..)
  | .vecMask .. => .of_keeps (execVecMask_keeps ..)
  | .segMask .. => .of_keeps (execSegMask_keeps ..)
  | .dropout .. => .of_keeps (execDropout_keeps ..)
  | .random .. => .of_keeps (execRandom_keeps ..)
  | .funForward .. => .of_keeps (execFunForward_keeps ..)
  | .funBackward .. => .of_keeps (execFunBackward_keeps ..)
  | .funLoad .. => .of_keeps (execFunLoad_keeps ..)
  | .sgd .. => .of_keeps (execSgd_keeps ..)
  | .adam .. => .of_keeps (execAdam_keeps ..)
  | .lion .. => .of_keeps (execLion_keeps ..)
  | .copy .. => .of_keeps (execCopy_keeps ..)
  | .redArm .. => .of_keeps (execRedArm_keeps ..)
  | .allreduce .. => .of_keeps (execAllreduce_keeps ..)
  | .multicast .. => .of_keeps (execMulticast_keeps ..)
  | .taskUnpark .. => .of_keeps (execTaskUnpark_keeps ..)
  | .decideGroup .. => .of_keeps (execDecideGroup_keeps ..)
  | .tickBoundary => (boundary_countsKept s).res
  | .admissionRerun .. => .of_keeps (execAdmissionRerun_keeps ..)
  | .suspendDrainDone .. => .of_keeps (execSuspendDrainDone_keeps ..)
  | .provisionalDrain .. => .of_keeps (execProvisionalDrain_keeps ..)
  | .tickCfgWrite .. => .of_keeps (execTickCfgWrite_keeps ..)
  | .tickSrcWrite .. => .of_keeps (execTickSrcWrite_keeps ..)
  | .tickIn .. => .of_keeps (execTickIn_keeps ..)
  | .alignHoldover => .of_keeps (execAlignHoldover_keeps ..)
  | .cqBindWrite .. => .of_keeps (execCqBindWrite_keeps ..)
  | .ownQueueBind .. => .of_keeps (execOwnQueueBind_keeps ..)
  | .ownQueueUnbind .. => .of_keeps (execOwnQueueUnbind_keeps ..)
  | .jobSlotWrite .. => .of_keeps (execJobSlotWrite_keeps ..)
  | .abortTask .. => .of_keeps (execAbortTask_keeps ..)
  | .abortJob .. => .of_keeps (execAbortJob_keeps ..)
  | .abortDone => .of_keeps (execAbortDone_keeps ..)
  | .noprog .. => .of_keeps (execNoprog_keeps ..)
  | .noprogFirstRead .. => .of_keeps (execNoprogFirstRead_keeps ..)
  | .cqDropFirstRead .. => .of_keeps (execCqDropFirstRead_keeps ..)
  | .arrayModeWrite .. => .of_keeps (execArrayModeWrite_keeps ..)
  | .swapArm .. => .of_keeps (execSwapArm_keeps ..)
  | .loadReady .. => .of_keeps (execLoadReady_keeps ..)
  | .chainedLoadStart .. => .of_keeps (execChainedLoadStart_keeps ..)
  | .tilePassStart .. => .of_keeps (execTilePassStart_keeps ..)
  | .outputBlockEpilogue .. => .of_keeps (execOutputBlockEpilogue_keeps ..)
  | .keeperStepDown .. => .of_keeps (execKeeperStepDown_keeps ..)
  | .keeperStepUp .. => .of_keeps (execKeeperStepUp_keeps ..)
  | .longStall .. => .of_keeps (execLongStall_keeps ..)
  | .tbankRowWrite .. => .of_keeps (execTbankRowWrite_keeps ..)
  | .scrub .. => .of_keeps (execScrub_keeps ..)
  | .skimExport .. => .of_keeps (execSkimExport_keeps ..)
  | .skimAdvance .. => .of_keeps (execSkimAdvance_keeps ..)
  | .stepDone => .of_keeps (execStepDone_keeps ..)
  | .entryCfgWrite .. => .of_keeps (execEntryCfgWrite_keeps ..)
  | .clearStats .. => .of_keeps (execClearStats_keeps ..)
  | .alarmFirstRead .. => .of_keeps (execAlarmFirstRead_keeps ..)
  | .testGo .. => .of_keeps (execTestGo_keeps ..)
  | .directModeWrite .. => .of_keeps (execDirectModeWrite_keeps ..)
  | .channelArm .. => .of_keeps (execChannelArm_keeps ..)
  | .directTransferStart .. => .of_keeps (execDirectTransferStart_keeps ..)
  | .readbackDone .. => .of_keeps (execReadbackDone_keeps ..)
  | .crmModeWrite .. => .of_keeps (execCrmModeWrite_keeps ..)
  | .crmPartWrite .. => .of_keeps (execCrmPartWrite_keeps ..)
  | .modeChangeDone => .of_keeps (execModeChangeDone_keeps ..)
  | .rehomeDone .. => .of_keeps (execRehomeDone_keeps ..)
  | .hbmInit .. => .of_keeps (execHbmInit_keeps ..)
  | .hbmInitDone .. => .of_keeps (execHbmInitDone_keeps ..)
  | .hbmActive .. => .of_keeps (execHbmActive_keeps ..)
  | .selfRefresh .. => .of_keeps (execSelfRefresh_keeps ..)
  | .hbmTest .. => .of_keeps (execHbmTest_keeps ..)
  | .stackTempRead .. => .of_keeps (execStackTempRead_keeps ..)
  | .refresh n pc => .of_keeps (execRefresh_keeps n pc s)
  | .pcRehomeDone .. => .of_keeps (execPcRehomeDone_keeps ..)
  | .marginRun .. => .of_keeps (execMarginRun_keeps ..)
  | .marginDone .. => .of_keeps (execMarginDone_keeps ..)
  | .trackPeakRead who n => .of_keeps (execTrackPeakRead_keeps who n s)
  | .detect .. => .of_keeps (execDetect_keeps ..)
  | .equalise .. => .of_keeps (execEqualise_keeps ..)
  | .identify .. => .of_keeps (execIdentify_keeps ..)
  | .align .. => .of_keeps (execAlign_keeps ..)
  | .delay .. => .of_keeps (execDelay_keeps ..)
  | .retrain .. => .of_keeps (execRetrain_keeps ..)
  | .downRetry .. => .of_keeps (execDownRetry_keeps ..)
  | .data .. => .of_keeps (execData_keeps ..)
  | .credit .. => .of_keeps (execCredit_keeps ..)
  | .creditSend .. => .of_keeps (execCreditSend_keeps ..)
  | .tick .. => .of_keeps (execTick_keeps ..)
  | .down .. => .of_keeps (execDown_keeps ..)
  | .echo .. => .of_keeps (execEcho_keeps ..)
  | .echoResp .. => .of_keeps (execEchoResp_keeps ..)
  | .read .. => .of_keeps (execRead_keeps ..)
  | .readResp .. => .of_keeps (execReadResp_keeps ..)
  | .write .. => .of_keeps (execWrite_keeps ..)
  | .ack .. => .of_keeps (execAck_keeps ..)
  | .nack .. => .of_keeps (execNack_keeps ..)
  | .raAddF32 .. => .of_keeps (execRaAddF32_keeps ..)
  | .raAddBf16 .. => .of_keeps (execRaAddBf16_keeps ..)
  | .raAddMx8 .. => .of_keeps (execRaAddMx8_keeps ..)
  | .raMax .. => .of_keeps (execRaMax_keeps ..)
  | .raAnd .. => .of_keeps (execRaAnd_keeps ..)
  | .mcastWrite .. => .of_keeps (execMcastWrite_keeps ..)
  | .notice .. => .of_keeps (execNotice_keeps ..)
  | .resolve .. => .of_keeps (execResolve_keeps ..)
  | .resolveResp .. => .of_keeps (execResolveResp_keeps ..)
  | .respTimeout .. => .of_keeps (execRespTimeout_keeps ..)
  | .noslotRetry .. => .of_keeps (execNoslotRetry_keeps ..)
  | .redTimeout .. => .of_keeps (execRedTimeout_keeps ..)
  | .cacheFlush .. => .of_keeps (execCacheFlush_keeps ..)
  | .unitWrite .. => .of_keeps (execUnitWrite_keeps ..)
  | .transportSyn .. => .of_keeps (execTransportSyn_keeps ..)
  | .transportData .. => .of_keeps (execTransportData_keeps ..)
  | .transportAck .. => .of_keeps (execTransportAck_keeps ..)
  | .transportNak .. => .of_keeps (execTransportNak_keeps ..)
  | .transportTimeout .. => .of_keeps (execTransportTimeout_keeps ..)
  | .icmpv6EchoRequest .. => .of_keeps (execIcmpv6EchoRequest_keeps ..)
  | .neighbourSolicitation .. => .of_keeps (execNeighbourSolicitation_keeps ..)
  | .redFailFirstRead .. => .of_keeps (execRedFailFirstRead_keeps ..)
  | .pwrCapWrite .. => .of_keeps (execPwrCapWrite_keeps ..)
  | .meterSample .. => .of_keeps (execMeterSample_keeps ..)
  | .capUnmet => .of_keeps (execCapUnmet_keeps ..)
  | .droop .. => .of_keeps (execDroop_keeps ..)
  | .fastTrip => .of_keeps (execFastTrip_keeps ..)
  | .vinApply => (StoreKept.ite .refl (poweredState_storeKept s)).res (.inl rfl)
  | .inputRange .. => .of_keeps (execInputRange_keeps ..)
  | .inputUv .. => .of_keeps (execInputUv_keeps ..)
  | .vinLoss => (StoreKept.ite (coldState_storeKept s) .refl).res (.inr (.inl rfl))
  | .overVoltage => (StoreKept.ite (coldState_storeKept s) .refl).res (.inr (.inr (.inl rfl)))
  | .overCurrent => .of_keeps (execOverCurrent_keeps ..)
  | .judgeWindow .. => .of_keeps (execJudgeWindow_keeps ..)
  | .refFail => .of_keeps (execRefFail_keeps ..)
  | .clocksStable => .of_keeps (execClocksStable_keeps ..)
  | .dieTempRead .. => .of_keeps (execDieTempRead_keeps ..)
  | .inletRead .. => .of_keeps (execInletRead_keeps ..)
  | .cobblerEvent => (eventEffect_countsKept s).res
  | .coalesceExpire .. => (coalesceEffect_countsKept ..).res
  | .hbmPllGrace .. => .of_keeps (execHbmPllGrace_keeps ..)
  | .refGraceExpire => .of_keeps (execRefGraceExpire_keeps ..)
  | .tileCompare .. => .of_keeps (execTileCompare_keeps ..)
  | .captureRelease .. => .of_keeps (execCaptureRelease_keeps ..)
  | .tileFailFirstRead .. => .of_keeps (execTileFailFirstRead_keeps ..)
  | .testDue .. => .of_keeps (execTestDue_keeps ..)
  | .testDeadline .. => .of_keeps (execTestDeadline_keeps ..)
  | .testResult .. => .of_keeps (execTestResult_keeps ..)
  | .testFailFirstRead .. => .of_keeps (execTestFailFirstRead_keeps ..)
  | .operatingMinute => (minuteEffect_countsKept s).res
  | .suspectCleared .. => (suspectClearEffect_countsKept ..).res
  | .mapoutReq .. => .of_keeps (execMapoutReq_keeps ..)
  | .mapoutDone => (mapoutDoneEffect_countsKept s).res
  | .healthTimeout .. => (healthEffect_countsKept ..).res
  | .kick .. => .of_keeps (execKick_keeps ..)
  | .watchdog => .of_keeps (execWatchdog_keeps ..)
  | .lockstep => .of_keeps (execLockstep_keeps ..)
  | .rail .. => .of_keeps (execRail_keeps ..)
  | .policy .. => .of_keeps (execPolicy_keeps ..)
  | .coldReset .. => (coldResetEffect_storeKept _ s).res (.inr (.inr (.inr ⟨_, rfl⟩)))
  | .resetRelease .. => (resetReleaseEffect_countsKept ..).res
  | .cobblerRelease .. => (cobblerReleaseEffect_countsKept ..).res
  | .upperRelease .. => (upperReleaseEffect_countsKept ..).res
  | .lastHealthTimeout => (lastTimeoutEffect_countsKept s).res
  | .upperOk .. => .of_keeps (execUpperOk_keeps ..)
  | .coreRun .. => .of_keeps (execCoreRun_keeps ..)
  | .takeOwnership .. => (keyedHead_countsKept (takeOwner_countsKept _) ..).res
  | .releaseOwnership .. => (keyed_countsKept (releaseOwner_countsKept _) ..).res
  | .vendorRelease .. => (keyedHead_countsKept (vendorRelease_countsKept _) ..).res
  | .installLinkKey .. => (keyed_countsKept (installKey_countsKept _) ..).res
  | .advanceSvn .. => (keyed_countsKept (advanceSvn_countsKept _) ..).res
  | .setCeiling .. => (keyed_countsKept (setCeiling_countsKept _) ..).res
  | .recalMeter .. => (keyed_countsKept (recalMeter_countsKept _) ..).res
  | .replaceVt .. => (keyed_countsKept (replaceVt_countsKept _) ..).res
  | .fwSwitch .. => (keyed_countsKept (fwSwitchCmd_countsKept _) ..).res
  | .updateLast .. => (keyed_countsKept (updateLast_countsKept _) ..).res
  | .mapout .. => (keyed_countsKept (mapoutCmd_countsKept _) ..).res
  | .undoMapout .. => (keyed_countsKept (undoMapout_countsKept _) ..).res
  | .warmRestart .. => (keyed_countsKept (warmCmd_countsKept _) ..).res
  | .failQuiet .. => (keyed_countsKept (failQuietCmd_countsKept _) ..).res
  | .setTime .. => (keyed_countsKept (setTime_countsKept _) ..).res
  | .compactionDone => (compactEffect_countsKept s).res
  | .reqOpen .. => .of_keeps (execReqOpen_keeps ..)
  | .reqClose .. => .of_keeps (execReqClose_keeps ..)
  | .firkinSign => (firkinEffect_countsKept s).res
  | .getVersion .. => (spdmRow_countsKept (spdmVersion_countsKept _) ..).res
  | .getCapabilities .. => (spdmRow_countsKept (spdmCaps_countsKept _) ..).res
  | .negotiateAlgorithms .. => (spdmRow_countsKept (spdmAlgos_countsKept _) ..).res
  | .getDigests .. => (spdmRow_countsKept (spdmDigests_countsKept _) ..).res
  | .getCertificate .. => (spdmRow_countsKept (spdmCert_countsKept _) ..).res
  | .challenge .. => (spdmRow_countsKept (spdmChallenge_countsKept _) ..).res
  | .getMeasurements .. => (spdmRow_countsKept (spdmMeas_countsKept _) ..).res
  | .managementFragment .. => .of_keeps (execManagementFragment_keeps ..)
  | .reassemblyTimeout .. => .of_keeps (execReassemblyTimeout_keeps ..)
  | .mgtIdent .. => .of_keeps (execMgtIdent_keeps ..)
  | .mgtLog .. => .of_keeps (execMgtLog_keeps ..)
  | .mgtFirkin .. => (CountsKept.ite (firkinAnswer_countsKept ..) .refl).res
  | .upperFrame .. => .of_keeps (execUpperFrame_keeps ..)
  | .sidebandShort .. => .of_keeps (execSidebandShort_keeps ..)
  | .rearm .. => .of_keeps (execRearm_keeps ..)
  | .smbIdent => .of_keeps (execSmbIdent_keeps ..)
  | .smbPhase => .of_keeps (execSmbPhase_keeps ..)
  | .smbFq => .of_keeps (execSmbFq_keeps ..)
  | .smbVin => .of_keeps (execSmbVin_keeps ..)
  | .smbIin => .of_keeps (execSmbIin_keeps ..)
  | .smbPin => .of_keeps (execSmbPin_keeps ..)
  | .smbTInlet => .of_keeps (execSmbTInlet_keeps ..)
  | .smbTOutlet => .of_keeps (execSmbTOutlet_keeps ..)
  | .smbTDie => .of_keeps (execSmbTDie_keeps ..)
  | .smbTHbm => .of_keeps (execSmbTHbm_keeps ..)
  | .smbAlerts => .of_keeps (execSmbAlerts_keeps ..)
  | .smbSlot => .of_keeps (execSmbSlot_keeps ..)
  | .trainingTimeout .. => .of_keeps (execTrainingTimeout_keeps ..)
  | .idleFrame .. => .of_keeps (execIdleFrame_keeps ..)
  | .transportAckTimer .. => .of_keeps (execTransportAckTimer_keeps ..)
  | .managementLinkChange .. => .of_keeps (execManagementLinkChange_keeps ..)
  | .refStartFail => .of_keeps (execRefStartFail_keeps ..)
  | .awlPackLoad .. => (packEffect_countsKept ..).res
  | .droopRelease .. => .of_keeps (execDroopRelease_keeps ..)
  | .railSettled .. => .of_keeps (execRailSettled_keeps ..)

end Sys2Proof.Machine
end

section
/-! SUPPORT. A command past its limit (R378): what a response leaves in memory, on the ports and in SEC, and the answer LIMIT. -/

set_option Elab.async false

namespace Sys2Proof.Machine

/-! ### Bytes written to memory -/

theorem memStore_append (xs ys : List Byte) (m : Mem) (a : Nat) :
    memStore m a (xs ++ ys) = memStore (memStore m a xs) (a + xs.length) ys := by
  induction xs generalizing m a with
  | nil => rfl
  | cons x xs ih =>
    simp only [List.cons_append, memStore, List.length_cons]
    rw [ih, Nat.add_assoc, Nat.add_comm 1]

theorem landRun_mem (self : Option (Nat × Nat)) (a : Nat) (bs : List Byte) (s : State) :
    (landRun self a bs s).mem = memStore s.mem a bs :=
  ((epochAdvance_keeps ..).1 .mem (by decide)).trans ((retireOn_keeps ..).1 .mem (by decide))

theorem writeRun_mem (cls : Nat) (self : Option (Nat × Nat)) (a : Nat) (bs : List Byte) (s : State) :
    (writeRun cls self a bs s).mem = memStore s.mem a bs := by
  unfold writeRun
  split
  · rename_i h
    rw [List.isEmpty_iff.mp h]
    rfl
  rw [landRun_mem]
  congr 1
  split
  · exact (cacheTouch_keeps ..).1 .mem (by decide)
  · exact ((addAct_keeps ..).1 .mem (by decide)).trans ((bump_keeps ..).1 .mem (by decide))
  · split
    · rfl
    · exact (bump_keeps ..).1 .mem (by decide)
  · rfl

/-- The runs that a write is cut into at line boundaries store its bytes one after another. -/
theorem foldl_writeRun_cutLines_mem (cls : Nat) (k a : Nat) (bs : List Byte) (s : State) (hk : a % 256 + bs.length ≤ 256 * k) :
    ((cutLines k a bs).foldl (fun u w => writeRun cls none w.1 w.2 u) s).mem = memStore s.mem a bs := by
  induction k generalizing a bs s with
  | zero =>
    have : bs = [] := List.length_eq_zero_iff.mp (by omega)
    subst this
    rfl
  | succ k ih =>
    cases bs with
    | nil => rfl
    | cons b bs =>
      unfold cutLines
      dsimp only
      split
      · exact writeRun_mem cls none a (b :: bs) s
      · rename_i hlong
        have hlen : ((b :: bs).take (256 - a % 256)).length = 256 - a % 256 := by rw [List.length_take]; omega
        rw [List.foldl_cons, ih _ _ _ (by rw [List.length_drop]; omega), writeRun_mem]
        conv_rhs => rw [← List.take_append_drop (256 - a % 256) (b :: bs), memStore_append, hlen]

theorem wrBytes_mem (cls a : Nat) (bs : List Byte) (s : State) : (wrBytes cls a bs s).mem = memStore s.mem a bs := by
  unfold wrBytes writeRuns
  simp only [joinRuns, List.flatMap_cons, List.flatMap_nil, List.append_nil]
  exact foldl_writeRun_cutLines_mem _ _ _ _ _ (by omega)

/-- Bytes stored read back. -/
theorem memBytes_memStore {m : Mem} (h : Memory.wf m = true) (a : Nat) (bs : List Byte) :
    memBytes (memStore m a bs) a bs.length = bs := by
  apply List.ext_getElem (by simp [memBytes])
  intro i h1 h2
  simp only [memBytes, List.getElem_map, List.getElem_range]
  rw [memGet_memStore h]
  simp [h2]

/-! ### Where a command came from -/

theorem takeSource_state (e : Envelope) (s : State) : ∃ m, (takeSource e s).2 = { s with mgt := m } := by
  unfold takeSource
  dsimp only
  split
  · exact ⟨s.mgt, rfl⟩
  split
  · split
    · exact ⟨_, rfl⟩
    · exact ⟨s.mgt, rfl⟩
  · exact ⟨s.mgt, rfl⟩

theorem takeSource_ne_door {s : State} (h : s.sec.door = none) (e : Envelope) (a : Nat) : (takeSource e s).1 ≠ .door a := by
  unfold takeSource
  simp only [h, Option.any_none, Bool.false_eq_true, if_false]
  split
  · split <;> nofun
  · nofun

theorem takeSource_direct {s : State} (h : s.sec.door = none) (hh : mget s.mgt.held 2 [] = []) (e : Envelope) :
    takeSource e s = (.direct, s) := by
  unfold takeSource
  simp only [h, hh, Option.any_none, Bool.false_eq_true, if_false]

theorem takeSource_door {s : State} {e : Envelope} {a : Nat} (h : s.sec.door = some a) (hr : s.sec.doorResp = none)
    (ha : access s a = .ok) (hb : memBytes s.mem a e.bytes.length = e.bytes) : takeSource e s = (.door a, s) := by
  unfold takeSource
  simp [h, hr, ha, hb]

theorem takeSource_channel {s : State} {e : Envelope} {r : MgtReq} {rest : List MgtReq} (h : s.sec.door = none)
    (hh : mget s.mgt.held 2 [] = r :: rest) (hd : r.data = e.bytes) :
    takeSource e s = (.mgt r, { s with mgt := { s.mgt with held := mput s.mgt.held 2 rest } }) := by
  unfold takeSource
  simp [h, hh, hd]

/-! ### The response -/

@[simp] theorem length_toLe (n v : Nat) : (toLe n v).length = n := by
  induction n generalizing v with
  | zero => rfl
  | succ n ih => simp [toLe, ih]

/-- A sealed response without a payload is 48 bytes long. -/
theorem length_respSealed (key : List Byte) (s : State) (cmd status : Nat) (counter : Word) :
    (respSealed key (respHead s cmd status counter [])).length = 48 := by
  simp [respSealed, respHead, wordsBytes, wordBytes, cdiv]

/-- Byte 17 of a sealed response is its status. -/
theorem respSealed_status (key : List Byte) (s : State) (cmd : Nat) (counter : Word) (h : s.sec.epoch < 256) :
    ((respSealed key (respHead s cmd 7 counter [])).getD 17 0).toNat = 7 := by
  simp [respSealed, respHead, wordsBytes, wordBytes, cdiv, toLe, word]
  omega

theorem onlyAnswered_of_sec {t : State} {x : Sec} (h : t.sec = x) : onlyAnswered t x := by
  unfold onlyAnswered
  rw [h]

theorem sendResponse_onlyAnswered (src : CmdSrc) (bs : List Byte) (s : State) : onlyAnswered (sendResponse src bs s) s.sec := by
  cases src with
  | door a =>
    have hwrite : (wrBytes 2 a bs s).sec = s.sec := (wrBytes_keeps ..).1 .sec (by decide)
    unfold onlyAnswered sendResponse doorAnswer
    dsimp only
    split
    · rfl
    · split
      · rw [hwrite]
      · rfl
  | mgt r => exact onlyAnswered_of_sec ((sendMgt_keeps ..).1 .sec (by decide))
  | direct => exact onlyAnswered_of_sec ((emit_keeps ..).1 .sec (by decide))

theorem sendResponse_keeps_of_ne_door {src : CmdSrc} (h : ∀ a, src ≠ .door a) (bs : List Byte) (s : State) :
    Keeps [.out, .cnt] s (sendResponse src bs s) := by
  cases src with
  | door a => exact absurd rfl (h a)
  | mgt r => exact (sendMgt_keeps ..).mono (by decide)
  | direct => exact (emit_keeps ..).mono (by decide)

/-- A message that fits goes out in one fragment. -/
theorem sendMgt_out (port : Nat) (dst : BitVec 48) (chan msg status : Nat) {data : List Byte} (h : data.length = 48) (s : State) :
    (sendMgt port dst chan msg status data s).out =
      s.out ++ [.mgt port dst (mgtHead chan msg status 48 0 48).1 (mgtHead chan msg status 48 0 48).2 data] := by
  have htake : data.take 1484 = data := List.take_of_length_le (by omega)
  unfold sendMgt
  simp [h, htake, cdiv]
  exact ((bump_keeps ..).1 .out (by decide)).trans ((bump_keeps ..).1 .out (by decide))

/-- A response goes into its doorbell's buffer where that answers, and CMD_STS shows its status (R397). -/
theorem doorAnswer_done {s : State} {a : Nat} {bs : List Byte} (hlen : bs.length = 48) (ha : access s a = .ok)
    (hb : access s (a + 47) = .ok) : (doorAnswer a bs s).sec.door = none ∧ (doorAnswer a bs s).sec.done = true ∧
      (doorAnswer a bs s).sec.status = (bs.getD 17 0).toNat ∧ (s.Inv → memBytes (doorAnswer a bs s).mem a 48 = bs) := by
  have hb' : access s (a + bs.length - 1) = .ok := by rw [hlen]; exact hb
  unfold doorAnswer
  simp only [ha, hb', reduceCtorEq, or_self, if_false, and_self, if_true, wrBytes_mem]
  refine ⟨trivial, trivial, trivial, fun hi => ?_⟩
  have := memBytes_memStore hi a bs
  rwa [hlen] at this

/-- The command answered with LIMIT, wherever it came from (R378). -/
theorem rejectCmd_answeredLimit (s : State) (e : Envelope) :
    answeredLimit s (rejectCmd (takeSource e s).1 e 7 (takeSource e s).2) e := by
  have hsec : (takeSource e s).2.sec = s.sec := (takeSource_keeps e s).1 .sec (by decide)
  have hreject : rejectCmd (takeSource e s).1 e 7 (takeSource e s).2 =
      sendResponse (takeSource e s).1 (respSealed s.sec.ock (respHead s e.cmd 7 e.counter [])) (takeSource e s).2 := by
    unfold rejectCmd respHead
    rw [hsec]
  have hlen := length_respSealed s.sec.ock s e.cmd 7 e.counter
  have hstatus := respSealed_status s.sec.ock s e.cmd e.counter
  unfold answeredLimit
  rw [hreject]
  generalize respSealed s.sec.ock (respHead s e.cmd 7 e.counter []) = resp at hlen hstatus
  refine ⟨?_, ?_, ?_, ?_, ?_⟩
  · rw [← hsec]
    exact sendResponse_onlyAnswered ..
  · unfold answerParts
    split
    · rename_i hdoor
      exact (Keeps.step ((takeSource_keeps e s).mono (by decide))
        (sendResponse_keeps_of_ne_door (takeSource_ne_door hdoor e) ..)).1
    · exact (Keeps.step (.mono (takeSource_keeps e s) (by decide)) (sendResponse_keeps ..)).1
  · intro hdoor hheld
    rw [takeSource_direct hdoor hheld]
    rfl
  · intro a hdoor hresp ha hbytes hb hepoch
    rw [takeSource_door hdoor hresp ha hbytes]
    obtain ⟨h1, h2, h3, h4⟩ := doorAnswer_done hlen ha hb
    exact ⟨h1, h2, h3.trans (hstatus hepoch), h4⟩
  · intro r rest hdoor hheld hdata
    rw [takeSource_channel hdoor hheld hdata]
    refine ⟨?_, sendMgt_out _ _ _ _ _ hlen _⟩
    rw [show (sendResponse (.mgt r) resp _).mgt = _ from (sendMgt_keeps ..).1 .mgt (by decide)]
    simp

/-! ### The four commands that count (Table 13.7) -/

section
variable {s : State} {e : Envelope} {code len : Nat} {k : CmdSrc → State → State}

/-- Checks 1 to 3 of R376 passed, the command's own checks follow. -/
theorem keyedHead_of_passesHead (h : passesHead s e code len) :
    keyedHead code len e k s = k (takeSource e s).1 (takeSource e s).2 := by
  obtain ⟨hup, hwait, hcode, hform, hlen, howner, hchip, hepoch⟩ := h
  have hstart : ¬ (s.sys.lastUp = false ∨ s.sec.mapWait.isEmpty = false ∨
      (e.cmd ≠ code ∧ 1 ≤ e.cmd ∧ e.cmd ≤ 15)) := by
    simp [hup, hwait, hcode]
  have hshape : ¬ (e.formOk = false ∨ e.cmd ≠ code ∨ e.len ≠ len) := by simp [hform, hcode, hlen]
  have hown : ¬ (s.sec.owned = false ∧ code ≠ 1 ∧ code ≠ 3) := fun ⟨h0, h1, h3⟩ => by
    rcases howner with ho | ho | ho
    · exact Bool.false_ne_true (h0.symm.trans ho)
    · exact h1 ho
    · exact h3 ho
  have hnow : ¬ (fld e.w2 7 0 ≠ s.sec.epoch ∧ isReplay s e = false) := fun ⟨h1, h2⟩ => by
    rcases hepoch with he | he
    · exact h1 he
    · exact Bool.false_ne_true (h2.symm.trans he)
  exact (if_neg hstart).trans <| (if_neg hshape).trans <| (if_neg hown).trans <|
    (if_neg (not_not_intro hchip)).trans (if_neg hnow)

/-- Checks 1 to 5 passed, the command's own conditions follow. -/
theorem keyed_of_passesAll (h : passesAll s e code len) : keyed code len e k s = k (takeSource e s).1 (takeSource e s).2 := by
  obtain ⟨hhead, hmac, hcounter⟩ := h
  unfold keyed
  rw [keyedHead_of_passesHead hhead]
  obtain ⟨m, hm⟩ := takeSource_state e s
  rw [hm]
  have hreplay : ¬ isReplay { s with mgt := m } e = true := by
    have hne : e.counter.toNat ≠ s.sec.counter := by omega
    simp [isReplay, hne]
  exact (if_neg (not_not_intro hmac)).trans <| (if_neg hreplay).trans (if_neg (Nat.not_le.mpr hcounter))

/-- A command that finds its count at the limit is answered with LIMIT, and does nothing else. -/
theorem answeredLimit_of_reject (hk : ∀ src m, k src { s with mgt := m } = rejectCmd src e 7 { s with mgt := m }) :
    answeredLimit s (k (takeSource e s).1 (takeSource e s).2) e := by
  have hreject := rejectCmd_answeredLimit s e
  obtain ⟨m, hm⟩ := takeSource_state e s
  rw [hm] at hreject ⊢
  rw [hk]
  exact hreject

end

theorem takeOwner_limit {s : State} {e : Envelope} {ock : List Byte} (src : CmdSrc) (howned : s.sec.owned = false)
    (hopen : Config.oaepOpen s.sec.keyGen (e.payload.take 384) = some ock) (hlen : ock.length = 32)
    (hmac : macOf ock e.head = e.mac) (hcounter : s.sec.counter < e.counter.toNat) (hepoch : s.sec.epoch = 255) :
    takeOwner e src s = rejectCmd src e 7 s := by
  unfold takeOwner
  have hc : ¬ e.counter.toNat ≤ s.sec.counter := Nat.not_le.mpr hcounter
  simp [howned, hopen, hlen, hmac, hc, hepoch]

theorem advanceSvn_limit {s : State} {e : Envelope} (src : CmdSrc) (hwhich : payNat e 0 1 ≤ 1) (hv : payNat e 1 1 ≤ 63)
    (hcur : (if payNat e 0 1 = 0 then s.sec.fwSvn else s.sec.awlSvn) < payNat e 1 1)
    (hbelow : svnBelow s (payNat e 0 1) (payNat e 1 1) = false) (hlimit : 63 ≤ s.sec.svnCount) :
    advanceSvn e src s = rejectCmd src e 7 s := by
  refine (if_neg ?_).trans (if_pos hlimit)
  rintro (h | h | h | h)
  · omega
  · omega
  · omega
  · exact Bool.false_ne_true (hbelow.symm.trans h)

theorem setCeiling_limit {s : State} {e : Envelope} (src : CmdSrc) (hlo : 100 ≤ payNat e 0 2) (hhi : payNat e 0 2 ≤ 300)
    (hnew : payNat e 0 2 ≠ s.sec.ceilNext.getD s.pwr.ceil) (hlimit : 31 ≤ s.sec.ceilCount) :
    setCeiling e src s = rejectCmd src e 7 s :=
  (if_neg (by omega)).trans <| (if_neg hnew).trans (if_pos hlimit)

theorem recalMeter_limit {s : State} {e : Envelope} (src : CmdSrc) (hrec : recFor Config.calMagic (e.payload.take 832) = true)
    (hseq : vtSeq (calInUse s) < vtSeq (e.payload.take 832)) (hlimit : 15 ≤ s.sec.recalCount) :
    recalMeter e src s = rejectCmd src e 7 s := by
  refine (if_neg ?_).trans (if_pos hlimit)
  rintro (h | h)
  · exact Bool.false_ne_true (h.symm.trans hrec)
  · exact absurd hseq (Nat.not_lt.mpr h)

/-! ### The limited counts never fall -/

/-- Settles O56: the store of the reset state is sound, each command keeps it and its counts, and one past its limit is refused. -/
theorem limitedCountsNeverFall : Obligations.LimitedCountsNeverFall := by
  unfold Obligations.LimitedCountsNeverFall
  refine ⟨?reset, ?mram, ?last, ?epoch, ?svn, ?ceiling, ?recal⟩
  case reset =>
    unfold storeSound storeWhole
    decide
  case mram =>
    intro c s t hs ht
    have hkept := exec_resKept c s
    rw [ht] at hkept
    exact hkept.1 hs
  case last =>
    intro c s t ht hc
    have hkept := exec_resKept c s
    rw [ht] at hkept
    exact hkept.2 hc
  case epoch =>
    intro s e ock hpass howned hopen hlen hmac hcounter hepoch
    refine ⟨_, rfl, ?_⟩
    rw [keyedHead_of_passesHead hpass]
    exact answeredLimit_of_reject fun src _ => takeOwner_limit src howned hopen hlen hmac hcounter hepoch
  case svn =>
    intro s e hpass hwhich hv hcur hbelow hlimit
    refine ⟨_, rfl, ?_⟩
    rw [keyed_of_passesAll hpass]
    exact answeredLimit_of_reject fun src _ => advanceSvn_limit src hwhich hv hcur hbelow hlimit
  case ceiling =>
    intro s e hpass hlo hhi hnew hlimit
    refine ⟨_, rfl, ?_⟩
    rw [keyed_of_passesAll hpass]
    exact answeredLimit_of_reject fun src _ => setCeiling_limit src hlo hhi hnew hlimit
  case recal =>
    intro s e hpass hrec hseq hlimit
    refine ⟨_, rfl, ?_⟩
    rw [keyed_of_passesAll hpass]
    exact answeredLimit_of_reject fun src _ => recalMeter_limit src hrec hseq hlimit

end Sys2Proof.Machine
end

section
/-! SUPPORT. Every command completes, and none takes a command off the queue or leaves memory out of its canonical form: the
laws of all commands, put together. -/

namespace Sys2Proof.Machine

/-- The command completes: queue of waiting commands as it was, memory in its canonical form if it was so. -/
def Completes (s : State) (r : Res) : Prop := ∃ t, r = .next t ∧ t.pending = s.pending ∧ (s.Inv → t.Inv)

theorem Completes.of_keeps {s t : State} {ps : List Part} (k : ResKeeps ps s (.next t)) (hp : .pending ∉ ps := by decide) :
    Completes s (.next t) := by
  obtain ⟨hsame, hinv⟩ : Keeps ps s t := k
  exact ⟨t, rfl, hsame .pending hp, hinv⟩

theorem execRegisterWrite_completes {who : Initiator} {addr size : Nat} (v : Word) {s : State}
    (h : lastOwnArea s who addr size = false) : Completes s (execRegisterWrite who addr size v s) := by
  have hk := execRegisterWrite_keeps who addr size v s
  have hr : execRegisterWrite who addr size v s = .next (regWrite who addr size v s) := exec_registerWrite h
  rw [hr] at hk ⊢
  exact .of_keeps hk

/-- Every command completes but the write that has no meaning (R397). -/
theorem exec_completes (c : Instr) (s : State)
    (h : ∀ who addr size v, c = .registerWrite who addr size v → lastOwnArea s who addr size = false) :
    Completes s (exec c s) :=
  match c with
  | .registerWrite who addr size v => execRegisterWrite_completes v (h who addr size v rfl)
  | .unassignedPageAccess who page wr v => .of_keeps (execUnassignedPageAccess_keeps who page wr v s)
  | .errFirstRead who page => .of_keeps (execErrFirstRead_keeps who page s)
  | .perfClear .. => .of_keeps (execPerfClear_keeps ..)
  | .blockEnable .. => .of_keeps (execBlockEnable_keeps ..)
  | .softReset .. => .of_keeps (execSoftReset_keeps ..)
  | .softResetDone .. => .of_keeps (execSoftResetDone_keeps ..)
  | .devIdWrite .. => .of_keeps (execDevIdWrite_keeps ..)
  | .qPush .. => .of_keeps (execQPush_keeps ..)
  | .heldPushComplete .. => .of_keeps (execHeldPushComplete_keeps ..)
  | .qPushNb .. => .of_keeps (execQPushNb_keeps ..)
  | .qPop .. => .of_keeps (execQPop_keeps ..)
  | .qCfgWrite .. => .of_keeps (execQCfgWrite_keeps ..)
  | .queueFlush .. => .of_keeps (execQueueFlush_keeps ..)
  | .poolCfgWrite .. => .of_keeps (execPoolCfgWrite_keeps ..)
  | .poolAlloc who pool => .of_keeps (execPoolAlloc_keeps who pool s)
  | .poolRelease .. => .of_keeps (execPoolRelease_keeps ..)
  | .taskAccept .. => .of_keeps (execTaskAccept_keeps ..)
  | .dispatchCheck .. => .of_keeps (execDispatchCheck_keeps ..)
  | .taskDispatch .. => .of_keeps (execTaskDispatch_keeps ..)
  | .refetchDone .. => .of_keeps (execRefetchDone_keeps ..)
  | .taskCommit .. => .of_keeps (execTaskCommit_keeps ..)
  | .matmulProduct .. => .of_keeps (execMatmulProduct_keeps ..)
  | .heritageProduct .. => .of_keeps (execHeritageProduct_keeps ..)
  | .vecConvert .. => .of_keeps (execVecConvert_keeps ..)
  | .vecAdd .. => .of_keeps (execVecAdd_keeps ..)
  | .vecMul .. => .of_keeps (execVecMul_keeps ..)
  | .vecFma .. => .of_keeps (execVecFma_keeps ..)
  | .vecAffine .. => .of_keeps (execVecAffine_keeps ..)
  | .vecMax .. => .of_keeps (execVecMax_keeps ..)
  | .rowSum .. => .of_keeps (execRowSum_keeps ..)
  | .rowSumsq .. => .of_keeps (execRowSumsq_keeps ..)
  | .rowMax .. => .of_keeps (execRowMax_keeps ..)
  | .vecFinite .. => .of_keeps (execVecFinite_keeps ..)
  | .vecMask .. => .of_keeps (execVecMask_keeps ..)
  | .segMask .. => .of_keeps (execSegMask_keeps ..)
  | .dropout .. => .of_keeps (execDropout_keeps ..)
  | .random .. => .of_keeps (execRandom_keeps ..)
  | .funForward .. => .of_keeps (execFunForward_keeps ..)
  | .funBackward .. => .of_keeps (execFunBackward_keeps ..)
  | .funLoad .. => .of_keeps (execFunLoad_keeps ..)
  | .sgd .. => .of_keeps (execSgd_keeps ..)
  | .adam .. => .of_keeps (execAdam_keeps ..)
  | .lion .. => .of_keeps (execLion_keeps ..)
  | .copy .. => .of_keeps (execCopy_keeps ..)
  | .redArm .. => .of_keeps (execRedArm_keeps ..)
  | .allreduce .. => .of_keeps (execAllreduce_keeps ..)
  | .multicast .. => .of_keeps (execMulticast_keeps ..)
  | .taskUnpark .. => .of_keeps (execTaskUnpark_keeps ..)
  | .decideGroup .. => .of_keeps (execDecideGroup_keeps ..)
  | .tickBoundary => .of_keeps (execTickBoundary_keeps ..)
  | .admissionRerun .. => .of_keeps (execAdmissionRerun_keeps ..)
  | .suspendDrainDone .. => .of_keeps (execSuspendDrainDone_keeps ..)
  | .provisionalDrain .. => .of_keeps (execProvisionalDrain_keeps ..)
  | .tickCfgWrite .. => .of_keeps (execTickCfgWrite_keeps ..)
  | .tickSrcWrite .. => .of_keeps (execTickSrcWrite_keeps ..)
  | .tickIn .. => .of_keeps (execTickIn_keeps ..)
  | .alignHoldover => .of_keeps (execAlignHoldover_keeps ..)
  | .cqBindWrite .. => .of_keeps (execCqBindWrite_keeps ..)
  | .ownQueueBind .. => .of_keeps (execOwnQueueBind_keeps ..)
  | .ownQueueUnbind .. => .of_keeps (execOwnQueueUnbind_keeps ..)
  | .jobSlotWrite .. => .of_keeps (execJobSlotWrite_keeps ..)
  | .abortTask .. => .of_keeps (execAbortTask_keeps ..)
  | .abortJob .. => .of_keeps (execAbortJob_keeps ..)
  | .abortDone => .of_keeps (execAbortDone_keeps ..)
  | .noprog .. => .of_keeps (execNoprog_keeps ..)
  | .noprogFirstRead .. => .of_keeps (execNoprogFirstRead_keeps ..)
  | .cqDropFirstRead .. => .of_keeps (execCqDropFirstRead_keeps ..)
  | .arrayModeWrite .. => .of_keeps (execArrayModeWrite_keeps ..)
  | .swapArm .. => .of_keeps (execSwapArm_keeps ..)
  | .loadReady .. => .of_keeps (execLoadReady_keeps ..)
  | .chainedLoadStart .. => .of_keeps (execChainedLoadStart_keeps ..)
  | .tilePassStart .. => .of_keeps (execTilePassStart_keeps ..)
  | .outputBlockEpilogue .. => .of_keeps (execOutputBlockEpilogue_keeps ..)
  | .keeperStepDown .. => .of_keeps (execKeeperStepDown_keeps ..)
  | .keeperStepUp .. => .of_keeps (execKeeperStepUp_keeps ..)
  | .longStall .. => .of_keeps (execLongStall_keeps ..)
  | .tbankRowWrite .. => .of_keeps (execTbankRowWrite_keeps ..)
  | .scrub .. => .of_keeps (execScrub_keeps ..)
  | .skimExport .. => .of_keeps (execSkimExport_keeps ..)
  | .skimAdvance .. => .of_keeps (execSkimAdvance_keeps ..)
  | .stepDone => .of_keeps (execStepDone_keeps ..)
  | .entryCfgWrite .. => .of_keeps (execEntryCfgWrite_keeps ..)
  | .clearStats .. => .of_keeps (execClearStats_keeps ..)
  | .alarmFirstRead .. => .of_keeps (execAlarmFirstRead_keeps ..)
  | .testGo .. => .of_keeps (execTestGo_keeps ..)
  | .directModeWrite .. => .of_keeps (execDirectModeWrite_keeps ..)
  | .channelArm .. => .of_keeps (execChannelArm_keeps ..)
  | .directTransferStart .. => .of_keeps (execDirectTransferStart_keeps ..)
  | .readbackDone .. => .of_keeps (execReadbackDone_keeps ..)
  | .crmModeWrite .. => .of_keeps (execCrmModeWrite_keeps ..)
  | .crmPartWrite .. => .of_keeps (execCrmPartWrite_keeps ..)
  | .modeChangeDone => .of_keeps (execModeChangeDone_keeps ..)
  | .rehomeDone .. => .of_keeps (execRehomeDone_keeps ..)
  | .hbmInit .. => .of_keeps (execHbmInit_keeps ..)
  | .hbmInitDone .. => .of_keeps (execHbmInitDone_keeps ..)
  | .hbmActive .. => .of_keeps (execHbmActive_keeps ..)
  | .selfRefresh .. => .of_keeps (execSelfRefresh_keeps ..)
  | .hbmTest .. => .of_keeps (execHbmTest_keeps ..)
  | .stackTempRead .. => .of_keeps (execStackTempRead_keeps ..)
  | .refresh n pc => .of_keeps (execRefresh_keeps n pc s)
  | .pcRehomeDone .. => .of_keeps (execPcRehomeDone_keeps ..)
  | .marginRun .. => .of_keeps (execMarginRun_keeps ..)
  | .marginDone .. => .of_keeps (execMarginDone_keeps ..)
  | .trackPeakRead who n => .of_keeps (execTrackPeakRead_keeps who n s)
  | .detect .. => .of_keeps (execDetect_keeps ..)
  | .equalise .. => .of_keeps (execEqualise_keeps ..)
  | .identify .. => .of_keeps (execIdentify_keeps ..)
  | .align .. => .of_keeps (execAlign_keeps ..)
  | .delay .. => .of_keeps (execDelay_keeps ..)
  | .retrain .. => .of_keeps (execRetrain_keeps ..)
  | .downRetry .. => .of_keeps (execDownRetry_keeps ..)
  | .data .. => .of_keeps (execData_keeps ..)
  | .credit .. => .of_keeps (execCredit_keeps ..)
  | .creditSend .. => .of_keeps (execCreditSend_keeps ..)
  | .tick .. => .of_keeps (execTick_keeps ..)
  | .down .. => .of_keeps (execDown_keeps ..)
  | .echo .. => .of_keeps (execEcho_keeps ..)
  | .echoResp .. => .of_keeps (execEchoResp_keeps ..)
  | .read .. => .of_keeps (execRead_keeps ..)
  | .readResp .. => .of_keeps (execReadResp_keeps ..)
  | .write .. => .of_keeps (execWrite_keeps ..)
  | .ack .. => .of_keeps (execAck_keeps ..)
  | .nack .. => .of_keeps (execNack_keeps ..)
  | .raAddF32 .. => .of_keeps (execRaAddF32_keeps ..)
  | .raAddBf16 .. => .of_keeps (execRaAddBf16_keeps ..)
  | .raAddMx8 .. => .of_keeps (execRaAddMx8_keeps ..)
  | .raMax .. => .of_keeps (execRaMax_keeps ..)
  | .raAnd .. => .of_keeps (execRaAnd_keeps ..)
  | .mcastWrite .. => .of_keeps (execMcastWrite_keeps ..)
  | .notice .. => .of_keeps (execNotice_keeps ..)
  | .resolve .. => .of_keeps (execResolve_keeps ..)
  | .resolveResp .. => .of_keeps (execResolveResp_keeps ..)
  | .respTimeout .. => .of_keeps (execRespTimeout_keeps ..)
  | .noslotRetry .. => .of_keeps (execNoslotRetry_keeps ..)
  | .redTimeout .. => .of_keeps (execRedTimeout_keeps ..)
  | .cacheFlush .. => .of_keeps (execCacheFlush_keeps ..)
  | .unitWrite .. => .of_keeps (execUnitWrite_keeps ..)
  | .transportSyn .. => .of_keeps (execTransportSyn_keeps ..)
  | .transportData .. => .of_keeps (execTransportData_keeps ..)
  | .transportAck .. => .of_keeps (execTransportAck_keeps ..)
  | .transportNak .. => .of_keeps (execTransportNak_keeps ..)
  | .transportTimeout .. => .of_keeps (execTransportTimeout_keeps ..)
  | .icmpv6EchoRequest .. => .of_keeps (execIcmpv6EchoRequest_keeps ..)
  | .neighbourSolicitation .. => .of_keeps (execNeighbourSolicitation_keeps ..)
  | .redFailFirstRead .. => .of_keeps (execRedFailFirstRead_keeps ..)
  | .pwrCapWrite .. => .of_keeps (execPwrCapWrite_keeps ..)
  | .meterSample .. => .of_keeps (execMeterSample_keeps ..)
  | .capUnmet => .of_keeps (execCapUnmet_keeps ..)
  | .droop .. => .of_keeps (execDroop_keeps ..)
  | .fastTrip => .of_keeps (execFastTrip_keeps ..)
  | .vinApply => .of_keeps (execVinApply_keeps ..)
  | .inputRange .. => .of_keeps (execInputRange_keeps ..)
  | .inputUv .. => .of_keeps (execInputUv_keeps ..)
  | .vinLoss => .of_keeps (execVinLoss_keeps ..)
  | .overVoltage => .of_keeps (execOverVoltage_keeps ..)
  | .overCurrent => .of_keeps (execOverCurrent_keeps ..)
  | .judgeWindow .. => .of_keeps (execJudgeWindow_keeps ..)
  | .refFail => .of_keeps (execRefFail_keeps ..)
  | .clocksStable => .of_keeps (execClocksStable_keeps ..)
  | .dieTempRead .. => .of_keeps (execDieTempRead_keeps ..)
  | .inletRead .. => .of_keeps (execInletRead_keeps ..)
  | .cobblerEvent => .of_keeps (execCobblerEvent_keeps ..)
  | .coalesceExpire .. => .of_keeps (execCoalesceExpire_keeps ..)
  | .hbmPllGrace .. => .of_keeps (execHbmPllGrace_keeps ..)
  | .refGraceExpire => .of_keeps (execRefGraceExpire_keeps ..)
  | .tileCompare .. => .of_keeps (execTileCompare_keeps ..)
  | .captureRelease .. => .of_keeps (execCaptureRelease_keeps ..)
  | .tileFailFirstRead .. => .of_keeps (execTileFailFirstRead_keeps ..)
  | .testDue .. => .of_keeps (execTestDue_keeps ..)
  | .testDeadline .. => .of_keeps (execTestDeadline_keeps ..)
  | .testResult .. => .of_keeps (execTestResult_keeps ..)
  | .testFailFirstRead .. => .of_keeps (execTestFailFirstRead_keeps ..)
  | .operatingMinute => .of_keeps (execOperatingMinute_keeps ..)
  | .suspectCleared .. => .of_keeps (execSuspectCleared_keeps ..)
  | .mapoutReq .. => .of_keeps (execMapoutReq_keeps ..)
  | .mapoutDone => .of_keeps (execMapoutDone_keeps ..)
  | .healthTimeout .. => .of_keeps (execHealthTimeout_keeps ..)
  | .kick .. => .of_keeps (execKick_keeps ..)
  | .watchdog => .of_keeps (execWatchdog_keeps ..)
  | .lockstep => .of_keeps (execLockstep_keeps ..)
  | .rail .. => .of_keeps (execRail_keeps ..)
  | .policy .. => .of_keeps (execPolicy_keeps ..)
  | .coldReset .. => .of_keeps (execColdReset_keeps ..)
  | .resetRelease .. => .of_keeps (execResetRelease_keeps ..)
  | .cobblerRelease .. => .of_keeps (execCobblerRelease_keeps ..)
  | .upperRelease .. => .of_keeps (execUpperRelease_keeps ..)
  | .lastHealthTimeout => .of_keeps (execLastHealthTimeout_keeps ..)
  | .upperOk .. => .of_keeps (execUpperOk_keeps ..)
  | .coreRun .. => .of_keeps (execCoreRun_keeps ..)
  | .takeOwnership .. => .of_keeps (execTakeOwnership_keeps ..)
  | .releaseOwnership .. => .of_keeps (execReleaseOwnership_keeps ..)
  | .vendorRelease .. => .of_keeps (execVendorRelease_keeps ..)
  | .installLinkKey .. => .of_keeps (execInstallLinkKey_keeps ..)
  | .advanceSvn .. => .of_keeps (execAdvanceSvn_keeps ..)
  | .setCeiling .. => .of_keeps (execSetCeiling_keeps ..)
  | .recalMeter .. => .of_keeps (execRecalMeter_keeps ..)
  | .replaceVt .. => .of_keeps (execReplaceVt_keeps ..)
  | .fwSwitch .. => .of_keeps (execFwSwitch_keeps ..)
  | .updateLast .. => .of_keeps (execUpdateLast_keeps ..)
  | .mapout .. => .of_keeps (execMapout_keeps ..)
  | .undoMapout .. => .of_keeps (execUndoMapout_keeps ..)
  | .warmRestart .. => .of_keeps (execWarmRestart_keeps ..)
  | .failQuiet .. => .of_keeps (execFailQuiet_keeps ..)
  | .setTime .. => .of_keeps (execSetTime_keeps ..)
  | .compactionDone => .of_keeps (execCompactionDone_keeps ..)
  | .reqOpen .. => .of_keeps (execReqOpen_keeps ..)
  | .reqClose .. => .of_keeps (execReqClose_keeps ..)
  | .firkinSign => .of_keeps (execFirkinSign_keeps ..)
  | .getVersion .. => .of_keeps (execGetVersion_keeps ..)
  | .getCapabilities .. => .of_keeps (execGetCapabilities_keeps ..)
  | .negotiateAlgorithms .. => .of_keeps (execNegotiateAlgorithms_keeps ..)
  | .getDigests .. => .of_keeps (execGetDigests_keeps ..)
  | .getCertificate .. => .of_keeps (execGetCertificate_keeps ..)
  | .challenge .. => .of_keeps (execChallenge_keeps ..)
  | .getMeasurements .. => .of_keeps (execGetMeasurements_keeps ..)
  | .managementFragment .. => .of_keeps (execManagementFragment_keeps ..)
  | .reassemblyTimeout .. => .of_keeps (execReassemblyTimeout_keeps ..)
  | .mgtIdent .. => .of_keeps (execMgtIdent_keeps ..)
  | .mgtLog .. => .of_keeps (execMgtLog_keeps ..)
  | .mgtFirkin .. => .of_keeps (execMgtFirkin_keeps ..)
  | .upperFrame .. => .of_keeps (execUpperFrame_keeps ..)
  | .sidebandShort .. => .of_keeps (execSidebandShort_keeps ..)
  | .rearm .. => .of_keeps (execRearm_keeps ..)
  | .smbIdent => .of_keeps (execSmbIdent_keeps ..)
  | .smbPhase => .of_keeps (execSmbPhase_keeps ..)
  | .smbFq => .of_keeps (execSmbFq_keeps ..)
  | .smbVin => .of_keeps (execSmbVin_keeps ..)
  | .smbIin => .of_keeps (execSmbIin_keeps ..)
  | .smbPin => .of_keeps (execSmbPin_keeps ..)
  | .smbTInlet => .of_keeps (execSmbTInlet_keeps ..)
  | .smbTOutlet => .of_keeps (execSmbTOutlet_keeps ..)
  | .smbTDie => .of_keeps (execSmbTDie_keeps ..)
  | .smbTHbm => .of_keeps (execSmbTHbm_keeps ..)
  | .smbAlerts => .of_keeps (execSmbAlerts_keeps ..)
  | .smbSlot => .of_keeps (execSmbSlot_keeps ..)
  | .trainingTimeout .. => .of_keeps (execTrainingTimeout_keeps ..)
  | .idleFrame .. => .of_keeps (execIdleFrame_keeps ..)
  | .transportAckTimer .. => .of_keeps (execTransportAckTimer_keeps ..)
  | .managementLinkChange .. => .of_keeps (execManagementLinkChange_keeps ..)
  | .refStartFail => .of_keeps (execRefStartFail_keeps ..)
  | .awlPackLoad .. => .of_keeps (execAwlPackLoad_keeps ..)
  | .droopRelease .. => .of_keeps (execDroopRelease_keeps ..)
  | .railSettled .. => .of_keeps (execRailSettled_keeps ..)

/-! ### Steps -/

theorem step_of_pending_nil {s : State} (h : s.pending = []) : step s = .next s := by
  unfold step
  rw [h]

theorem step_of_pending_cons {s : State} {c : Instr} {rest : List Instr} (h : s.pending = c :: rest) :
    step s = exec c { s with pending := rest } := by
  unfold step
  rw [h]

/-- A command that answers a next state keeps memory in its canonical form, the write without a meaning included: it answers
none. -/
theorem exec_keeps_inv {c : Instr} {s t : State} (hs : s.Inv) (ht : exec c s = .next t) : t.Inv := by
  by_cases h : ∀ who addr size v, c = .registerWrite who addr size v → lastOwnArea s who addr size = false
  · obtain ⟨u, hu, _, hinv⟩ := exec_completes c s h
    obtain rfl : t = u := by simpa [ht] using hu
    exact hinv hs
  · push Not at h
    obtain ⟨who, addr, size, v, rfl, hown⟩ := h
    rw [exec_registerWrite_lastOwnArea (Bool.eq_true_of_not_eq_false hown)] at ht
    cases ht

/-- Settles O1: both branches of the step's definition. -/
theorem stepRunsTheFrontCommand : Obligations.StepRunsTheFrontCommand :=
  ⟨fun _ _ _ h => step_of_pending_cons h, fun _ h => step_of_pending_nil h⟩

/-- Settles O2: each command's law says that it completes and lists no queue of commands among what it changes. -/
theorem commandsLeaveTheQueue : Obligations.CommandsLeaveTheQueue := by
  intro c s h
  obtain ⟨t, ht, hp, _⟩ := exec_completes c s h
  exact ⟨t, ht, hp⟩

/-- Settles O3: the front command runs on a state with the same memory, and keeps its form. -/
theorem everyStepKeepsMemoryCanonical : Obligations.EveryStepKeepsMemoryCanonical := by
  intro s t hs ht
  cases hp : s.pending with
  | nil =>
    rw [step_of_pending_nil hp] at ht
    cases ht
    exact hs
  | cons c rest =>
    rw [step_of_pending_cons hp] at ht
    exact exec_keeps_inv (s := { s with pending := rest }) hs ht

end Sys2Proof.Machine
end

section
/-! SUPPORT. The state after reset, writes to the common head and reads that clear: what `getReg` shows of a state without listed
registers, what a plain register takes from a write, and what a clearing read leaves (R7, R8, R19, R26, R28). -/

namespace Sys2Proof.Machine

/-! ### The registers after reset -/

theorem getReg_reset (page off : Nat) : getReg State.reset page off = resetOf page off := rfl

theorem resetOf_blkCtl {page n sub : Nat} {b : Block} (h : pageOwner page = some (b, n, sub)) :
    resetOf page 0x10 = word (b2n (enAtReset b)) := by
  unfold resetOf
  rw [h]
  rfl

/-- EN at reset is that of Table 1.9. -/
theorem word_enAtReset (b : Block) : word (b2n (enAtReset b)) =
    if b ∈ [Block.sys, .tck, .pwr, .clk, .sec, .nvs, .mgt, .cbl] then 1 else 0 := by
  cases b <;> decide

/-- Q_CFG of command queue `c` at reset: 1,024 entries behind those of the queues before it (Table 7.2). -/
theorem resetOf_cqCfg (c : Fin 256) : resetOf (qPage c.val) (qOff c.val 0) = word (0xA01 + c.val * 0x4000000) := by
  have hpage : qPage c.val = 0x11 := if_pos c.isLt
  have hoff : qOff c.val 0 = 0x4000 + 64 * c.val := if_pos c.isLt
  have howner : pageOwner 0x11 = some (.tck, 0, 1) := by decide
  have hspecial : resetSpecial .tck 0 1 (0x4000 + 64 * c.val) = some (0xA01 + c.val * 0x4000000) := by
    unfold resetSpecial
    have hc : (0x4000 + 64 * c.val - 0x4000) / 64 = c.val := by omega
    have hlt := c.isLt
    simp only [hc]
    rw [if_pos ⟨trivial, by omega, by omega, by omega⟩]
  unfold resetOf
  rw [hpage, hoff, howner]
  simp only
  rw [if_neg (by omega), if_neg (by omega), if_neg (by omega), hspecial]

/-- Settles O4: no register is listed after reset, so each reads its table's value. -/
theorem resetLeavesTableValues : Obligations.ResetLeavesTableValues := by
  have hregs : getReg State.reset 0 0x200 = 0 ∧ getReg State.reset tckPage 0x200 = 0x280010 ∧
      getReg State.reset tckPage 0x218 = 0x80A0300 ∧ getReg State.reset pwr0 0x200 = 0x12C := by decide
  have harrays : ∀ n : Fin 4, getReg State.reset (ap n.val 0) 0x208 = 0xF0 ∧ getReg State.reset (ap n.val 2) 0x200 = 0x1000 := by
    decide
  obtain ⟨hdev, htick, hsrc, hcap⟩ := hregs
  refine ⟨rfl, rfl, rfl, rfl, rfl, hdev, ?enables, htick, hsrc, hcap, harrays, ?ports, rfl, rfl, rfl, rfl, ?queues⟩
  case enables =>
    intro p b n sub hp
    rw [getReg_reset, resetOf_blkCtl hp, word_enAtReset]
  case ports => exact fun _ => ⟨rfl, rfl, rfl, rfl, rfl, rfl, rfl, rfl⟩
  case queues => exact fun c => resetOf_cqCfg c

/-! ### Registers written -/

/-- A state that differs in the registers alone. -/
theorem setReg_onlyChanges {page off : Nat} {v : Word} {s : State} : State.onlyChanges [.regs] s (setReg page off v s) :=
  (setReg_keeps page off v s).1

theorem getReg_setReg_same (page off : Nat) (v : Word) (s : State) : getReg (setReg page off v s) page off = v := by simp

theorem getReg_setReg_ne {page off p o : Nat} (h : regKey p o ≠ regKey page off) (v : Word) (s : State) :
    getReg (setReg page off v s) p o = getReg s p o := by simp [h]

theorem storeReg_eq {page off : Nat} {r : RegRow} (h : fieldsAt page off = some r) (v : Word) (s : State) :
    storeReg page off v s = setReg page off (merged r (getReg s page off) v) s := by
  unfold storeReg
  rw [h]

/-- What a write admitted at a page tells of it. -/
theorem State.admits_owner {s : State} {who : Initiator} {page off : Nat} {v : Word} (h : s.admits who page off v = true) :
    ∃ b n sub r, pageOwner page = some (b, n, sub) ∧ fieldsAt page off = some r := by
  unfold State.admits at h
  split at h
  · exact ⟨_, _, _, _, ‹_›, ‹_›⟩
  · cases h

/-- A register write by address that is admitted takes its effect. -/
theorem exec_registerWrite_admits {s : State} {who : Initiator} {page off : Nat} {v : Word} (hp : page < 4096)
    (ho : off < 65536) (h8 : off % 8 = 0) (h : s.admits who page off v = true)
    (hl : lastOwnArea s who (ctrlAddr s page off) 8 = false) :
    exec (.registerWrite who (ctrlAddr s page off) 8 v) s = .next (regEffect who page off v s) := by
  obtain ⟨b, n, sub, r, hown, _⟩ := State.admits_owner h
  rw [exec_registerWrite hl, regWrite_of_wellFormed (pageAt_ctrlAddr s hp ho) (by rw [hown]; rfl) h8, regGuard_admits h]

theorem lastOwnArea_head {s : State} {who : Initiator} {page off : Nat} (hp : page < 4096) (ho : off < 0x200) :
    lastOwnArea s who (ctrlAddr s page off) 8 = false := by
  rw [lastOwnArea, pageAt_ctrlAddr s hp (by omega)]
  simp [show ¬ 0x200 ≤ off by omega]

theorem regEffect_head {who : Initiator} {page off : Nat} {v : Word} {s : State} (ho : off < 0x200) (h10 : off ≠ 0x10)
    (h50 : off ≠ 0x50) : regEffect who page off v s = storeReg page off v s := by
  unfold regEffect
  rw [if_neg h10, if_neg h50, if_pos ho]

/-- Settles O5: the write comes through to `storeReg`. -/
theorem headRegisterWriteTakesItsBits : Obligations.HeadRegisterWriteTakesItsBits := by
  intro s who page off v r hoff hp hr ha
  have hcond : off < 0x200 ∧ off ≠ 0x10 ∧ off ≠ 0x50 ∧ off % 8 = 0 := by
    simp only [List.mem_cons, List.not_mem_nil, or_false] at hoff
    omega
  obtain ⟨hlt, h10, h50, h8⟩ := hcond
  refine ⟨_, exec_registerWrite_admits hp (by omega) h8 ha (lastOwnArea_head hp hlt), ?_⟩
  rw [regEffect_head hlt h10 h50, storeReg_eq hr]
  exact ⟨getReg_setReg_same .., fun _ _ h => getReg_setReg_ne h _ _, setReg_onlyChanges⟩

/-! ### Reads that clear -/

/-- The state after a clearing read: the answer is what the register held, and it holds zero. -/
def clearedRead (page off : Nat) (s : State) : State := setReg page off 0 (answer (getReg s page off) s)

theorem clearedRead_spec (page off : Nat) (s : State) :
    (clearedRead page off s).resp = getReg s page off ∧ getReg (clearedRead page off s) page off = 0 ∧
    (∀ p o, regKey p o ≠ regKey page off → getReg (clearedRead page off s) p o = getReg s p o) ∧
    State.onlyChanges [.resp, .regs] s (clearedRead page off s) := by
  refine ⟨rfl, getReg_setReg_same .., fun p o h => getReg_setReg_ne h _ _, ?_⟩
  have hk : Keeps [.resp, .regs] s (answer (getReg s page off) s) := (answer_keeps ..).mono (by decide)
  exact (hk.step (setReg_keeps ..)).1

theorem readClear_eq {who : Initiator} {page off n sub : Nat} {b : Block} {s : State} (hp : pageOwner page = some (b, n, sub))
    (hr : mayReach who b = true) (hrst : (getBlk s page).rstBusy = false) : readClear who page off s = clearedRead page off s := by
  unfold readClear
  simp only [hp, hr, hrst, Bool.true_eq_false, Bool.false_eq_true, and_false, if_false]
  rfl

theorem errFirstEffect_eq {page : Nat} {s : State} (hp : (pageOwner page).isSome = true) :
    errFirstEffect page s = clearedRead page 0x30 s := by
  obtain ⟨o, ho⟩ := Option.isSome_iff_exists.mp hp
  unfold errFirstEffect
  rw [ho]
  rfl

theorem exec_firstRead {s : State} {who : Initiator} {x : Instr × Nat × Nat} (hx : x ∈ firstRead who)
    (hrst : (getBlk s x.2.1).rstBusy = false) : exec x.1 s = .next (clearedRead x.2.1 x.2.2 s) := by
  simp only [firstRead, List.mem_cons, List.not_mem_nil, or_false] at hx
  have hreach (b : Block) (n sub page off : Nat) (hp : pageOwner page = some (b, n, sub)) (hb : mayReach who b = true)
      (h : (getBlk s page).rstBusy = false) : Host.Outcome.next (readClear who page off s) =
        (Host.Outcome.next (clearedRead page off s) : Res) := by
    rw [readClear_eq hp hb h]
  rcases hx with rfl | rfl | rfl | rfl | rfl | rfl
  · exact hreach .tck 0 0 tckPage 0x258 (by decide) rfl hrst
  · exact hreach .tck 0 1 tck1Page 0x220 (by decide) rfl hrst
  · exact hreach .chn 0 0 chnPage 0x218 (by decide) rfl hrst
  · exact hreach .stn 0 0 stnPage 0x328 (by decide) rfl hrst
  · exact hreach .stn 0 0 stnPage 0x238 (by decide) rfl hrst
  · exact hreach .tst 0 0 tstPage 0x228 (by decide) rfl hrst

/-- Settles O7: both kinds of read come to `clearedRead`. -/
theorem firstReadsAnswerAndClear : Obligations.FirstReadsAnswerAndClear := by
  refine ⟨?errFirst, ?blocks⟩
  case errFirst =>
    intro s who page hp
    refine ⟨_, congrArg Host.Outcome.next (errFirstEffect_eq hp), clearedRead_spec ..⟩
  case blocks =>
    intro s who x hx hrst
    exact ⟨_, exec_firstRead hx hrst, clearedRead_spec ..⟩

/-! ### DEV_ID and PERF_SEL -/

theorem devIdEffect_spec (v : Word) (s : State) :
    getReg (devIdEffect v s) 0 0x200 = (if bit (getReg s 0 0x200) 63 then getReg s 0 0x200 else v) ∧
    (∀ p o, regKey p o ≠ regKey 0 0x200 → getReg (devIdEffect v s) p o = getReg s p o) ∧
    State.onlyChanges [.regs] s (devIdEffect v s) := by
  unfold devIdEffect devId
  by_cases h : bit (getReg s 0 0x200) 63 = true
  · rw [if_pos h, if_pos h]
    exact ⟨rfl, fun _ _ _ => rfl, Keeps.refl.1⟩
  · rw [if_neg h, if_neg h]
    exact ⟨getReg_setReg_same .., fun _ _ h => getReg_setReg_ne h _ _, setReg_onlyChanges⟩

theorem mfind_filter_of_pos {α : Type} {f : Nat × α → Bool} {k : Nat} (hf : ∀ v, f (k, v) = true) (m : Map α) :
    mfind (m.filter f) k = mfind m k := by
  induction m with
  | nil => rfl
  | cons c m ih =>
    obtain ⟨j, w⟩ := c
    by_cases hj : j = k
    · subst hj
      simp [mfind, hf w]
    · by_cases hw : f (j, w) = true <;> simp [mfind, hw, hj, ih]

theorem mfind_filter_of_neg {α : Type} {f : Nat × α → Bool} {k : Nat} (hf : ∀ v, f (k, v) = false) (m : Map α) :
    mfind (m.filter f) k = none := by
  induction m with
  | nil => rfl
  | cons c m ih =>
    obtain ⟨j, w⟩ := c
    by_cases hj : j = k
    · subst hj
      simpa [hf w] using ih
    · by_cases hw : f (j, w) = true <;> simp [mfind, hw, hj, ih]

theorem mget_clearCounters_of_page (page k : Nat) (s : State) (h : k / 32 = page) : mget (clearCounters page s).cnt k 0 = 0 := by
  have : mfind (clearCounters page s).cnt k = none := mfind_filter_of_neg (by simp [h]) _
  rw [mget, this]
  rfl

theorem mget_clearCounters_of_ne (page k : Nat) (s : State) (h : k / 32 ≠ page) :
    mget (clearCounters page s).cnt k 0 = mget s.cnt k 0 := by
  have : mfind (clearCounters page s).cnt k = mfind s.cnt k := mfind_filter_of_pos (by simp [h]) _
  rw [mget, this]
  rfl

/-- PERF_SEL: SET and FREEZE are stored, CLEAR is a trigger (Table 1.14). -/
theorem fieldsAt_perfSel {page n sub : Nat} {b : Block} (h : pageOwner page = some (b, n, sub)) :
    fieldsAt page 0x50 = some ⟨sub, 0x50, 1, 8, "head", 0, 0x5FF, 0, 0x200, 0, 0, false⟩ := by
  unfold fieldsAt
  rw [h]
  rfl

/-- A field of stored bits reads as written. -/
theorem bit_merged {r : RegRow} {i : Nat} (hrw : bit (word r.rw) i = true) (hw : bit (word r.w1c) i = false) (old v : Word) :
    bit (merged r old v) i = bit v i := by
  have hi : i < 64 := by
    by_contra h
    rw [bit, BitVec.getLsbD_of_ge _ _ (by omega)] at hrw
    cases hrw
  unfold merged
  unfold bit at *
  rw [BitVec.getLsbD_and, BitVec.getLsbD_or, BitVec.getLsbD_and, BitVec.getLsbD_and, BitVec.getLsbD_not, BitVec.getLsbD_not,
    BitVec.getLsbD_and, hrw, hw]
  simp [hi]

theorem fld_eq_of_bits {v w : Word} {hi lo : Nat} (h : ∀ i, lo ≤ i → i ≤ hi → bit v i = bit w i) : fld v hi lo = fld w hi lo := by
  apply Nat.eq_of_testBit_eq
  intro i
  rw [testBit_fld, testBit_fld]
  by_cases hi' : i < hi + 1 - lo
  · rw [h (i + lo) (by omega) (by omega)]
  · simp [hi']

theorem bit_or_word {v : Word} {n i : Nat} (h : bit (word n) i = false) : bit (v ||| word n) i = bit v i := by
  unfold bit at *
  simp [h]

/-- The low bits of PERF_SEL as a write with CLEAR leaves them. -/
theorem bit_perfSel {page n sub : Nat} {b : Block} (h : pageOwner page = some (b, n, sub)) (v : Word) (s : State) {i : Nat}
    (hi : i < 9) : bit (getReg (storeReg page 0x50 (v ||| word 0x200) s) page 0x50) i = bit v i := by
  have hmask : ∀ i < 9, bit (word 0x5FF) i = true ∧ bit (word 0) i = false ∧ bit (word 0x200) i = false := by decide
  obtain ⟨hrw, hw1c, hclear⟩ := hmask i hi
  rw [storeReg_eq (fieldsAt_perfSel h), getReg_setReg_same, bit_merged hrw hw1c, bit_or_word hclear]

theorem perfSelEffect_clear {page : Nat} {v : Word} {s : State} (h : bit v 9 = true) :
    perfSelEffect page v s = clearCounters page (storeReg page 0x50 v s) := if_pos (.inl h)

/-- Settles O8. -/
theorem devIdLocksAndPerfClearZeroes : Obligations.DevIdLocksAndPerfClearZeroes := by
  refine ⟨?devId, ?perf⟩
  case devId =>
    intro s who v ha
    exact ⟨_, congrArg Host.Outcome.next (regGuard_admits ha), devIdEffect_spec v s⟩
  case perf =>
    intro s who page v ha
    obtain ⟨b, n, sub, _, hown, _⟩ := State.admits_owner ha
    have h9 : bit (v ||| 0x200) 9 = true := by
      unfold bit
      simp
    refine ⟨_, congrArg Host.Outcome.next ((regGuard_admits ha).trans (perfSelEffect_clear h9)), ?_, ?_, ?_, ?_, ?_⟩
    · exact fun i hi => mget_clearCounters_of_page _ _ _ (by omega)
    · intro k hk
      rw [mget_clearCounters_of_ne _ _ _ hk, (storeReg_keeps ..).1 .cnt (by decide)]
    · exact fld_eq_of_bits fun i _ hi => bit_perfSel hown v s (by omega)
    · exact bit_perfSel hown v s (by omega)
    · have hk : Keeps [.regs, .cnt] s (storeReg page.val 0x50 (v ||| 0x200) s) := (storeReg_keeps ..).mono (by decide)
      exact (hk.step (clearCounters_keeps ..)).1

end Sys2Proof.Machine
end

section
/-! SUPPORT. The pages of one block (Table 1.5) and BLK_CTL: what a soft reset returns and what it leaves (R31, R32, R331,
R423, R425). -/

namespace Sys2Proof.Machine

/-! ### The pages of one block (Table 1.5) -/

theorem blockRow_of_mem {r : BlockRow} (h : r ∈ blockTable) : blockRow r.block = r ∧ 0 < r.pages := by
  revert r
  decide

/-- The page ranges of two blocks do not meet. -/
theorem blockTable_disjoint : ∀ r ∈ blockTable, ∀ q ∈ blockTable,
    r = q ∨ r.first + r.insts * r.pages ≤ q.first ∨ q.first + q.insts * q.pages ≤ r.first := by
  decide

theorem pageOwner_eq_some {page n sub : Nat} {b : Block} (h : pageOwner page = some (b, n, sub)) :
    blockRow b ∈ blockTable ∧ (blockRow b).block = b ∧ n < (blockRow b).insts ∧ sub < (blockRow b).pages ∧
      page = pageOf b n sub := by
  unfold pageOwner at h
  split at h
  case h_2 => cases h
  case h_1 r hr =>
    have hmem := List.mem_of_find?_eq_some hr
    have hrange := List.find?_some hr
    obtain ⟨hlo, hhi⟩ := of_decide_eq_true hrange
    simp only [Option.some.injEq, Prod.mk.injEq] at h
    obtain ⟨rfl, rfl, rfl⟩ := h
    obtain ⟨hrow, hpos⟩ := blockRow_of_mem hmem
    rw [pageOf, hrow]
    refine ⟨hmem, rfl, ?_, Nat.mod_lt _ hpos, ?_⟩
    · exact (Nat.div_lt_iff_lt_mul hpos).mpr (by omega)
    · have := Nat.div_add_mod' (page - r.first) r.pages
      omega

theorem pageOwner_pageOf {r : BlockRow} (hr : r ∈ blockTable) {n sub : Nat} (hn : n < r.insts) (hsub : sub < r.pages) :
    pageOwner (r.first + n * r.pages + sub) = some (r.block, n, sub) := by
  have hmul : n * r.pages + r.pages ≤ r.insts * r.pages := by
    rw [← Nat.succ_mul]
    exact Nat.mul_le_mul_right _ hn
  have hfind : blockTable.find? (fun q => decide (q.first ≤ r.first + n * r.pages + sub ∧
      r.first + n * r.pages + sub < q.first + q.insts * q.pages)) = some r := by
    cases hq : blockTable.find? (fun q => decide (q.first ≤ r.first + n * r.pages + sub ∧
      r.first + n * r.pages + sub < q.first + q.insts * q.pages)) with
    | none =>
      have := List.find?_eq_none.mp hq r hr
      exact absurd (decide_eq_true (by omega)) this
    | some q =>
      have hrange := List.find?_some hq
      obtain ⟨hlo, hhi⟩ := of_decide_eq_true hrange
      rcases blockTable_disjoint r hr q (List.mem_of_find?_eq_some hq) with rfl | h | h
      · rfl
      · omega
      · omega
  unfold pageOwner
  rw [hfind]
  have hpos := (blockRow_of_mem hr).2
  have hsub' : r.first + n * r.pages + sub - r.first = sub + n * r.pages := by omega
  simp only [hsub', Nat.add_mul_div_right _ _ hpos, Nat.div_eq_of_lt hsub, Nat.add_mul_mod_self_right, Nat.mod_eq_of_lt hsub,
    Nat.zero_add]

theorem firstPage_of_owner {page n sub : Nat} {b : Block} (h : pageOwner page = some (b, n, sub)) :
    firstPage page = pageOf b n 0 := by
  unfold firstPage
  rw [h]

/-- A page is one of a block's if it lies from its first page on. -/
theorem pageOwner_of_range {page n m : Nat} {b : Block} (h : pageOwner page = some (b, n, m)) {p : Nat}
    (hlo : firstPage page ≤ p) (hhi : p < firstPage page + (blockRow b).pages) :
    pageOwner p = some (b, n, p - firstPage page) := by
  obtain ⟨hmem, hb, hn, _, _⟩ := pageOwner_eq_some h
  rw [firstPage_of_owner h] at hlo hhi ⊢
  have hp : p = (blockRow b).first + n * (blockRow b).pages + (p - pageOf b n 0) := by
    simp only [pageOf] at hlo ⊢
    omega
  have howner := pageOwner_pageOf hmem hn (sub := p - pageOf b n 0) (by omega)
  rw [← hp, hb] at howner
  exact howner

theorem range_of_pageOwner {page n m p sub : Nat} {b : Block} (h : pageOwner page = some (b, n, m))
    (hp : pageOwner p = some (b, n, sub)) :
    firstPage page ≤ p ∧ p < firstPage page + (blockRow b).pages ∧ p - firstPage page = sub := by
  obtain ⟨_, _, _, hsub, hp⟩ := pageOwner_eq_some hp
  rw [firstPage_of_owner h, hp]
  simp only [pageOf]
  omega

/-! ### Registers and counters at their reset values -/

theorem regKey_page {page off : Nat} (ho : off < 65536) : regKey page off / 8192 = page := by
  unfold regKey
  omega

theorem regKey_off {page off : Nat} (ho : off < 65536) (h8 : off % 8 = 0) : regKey page off % 8192 * 8 = off := by
  unfold regKey
  omega

theorem resetKeeps_iff {b : Block} {sub off : Nat} : resetKeeps b sub off = true ↔ keptByReset b sub off := by
  unfold resetKeeps keptByReset
  cases b <;> simp [or_assoc]

section
variable {b : Block} {n m page : Nat}

/-- A register of the block after the reset of its pages. -/
theorem getReg_resetRegs_own (h : pageOwner page = some (b, n, m)) {p off sub : Nat} (ho : off < 65536) (h8 : off % 8 = 0)
    (hp : pageOwner p = some (b, n, sub)) (s : State) :
    (keptByReset b sub off →
      getReg (resetRegs b (firstPage page) (blockRow b).pages s) p off = getReg s p off) ∧
    (¬ keptByReset b sub off →
      getReg (resetRegs b (firstPage page) (blockRow b).pages s) p off = resetOf p off) := by
  obtain ⟨hlo, hhi, hsub⟩ := range_of_pageOwner h hp
  have hkeep (v : Word) : (!decide (firstPage page ≤ regKey p off / 8192 ∧ regKey p off / 8192 < firstPage page + (blockRow b).pages) ||
      resetKeeps b (regKey p off / 8192 - firstPage page) (regKey p off % 8192 * 8)) = resetKeeps b sub off := by
    rw [regKey_page ho, regKey_off ho h8, hsub, decide_eq_true ⟨hlo, hhi⟩]
    rfl
  constructor
  · intro hk
    have : mfind (resetRegs b (firstPage page) (blockRow b).pages s).regs (regKey p off) = mfind s.regs (regKey p off) :=
      mfind_filter_of_pos (fun v => (hkeep v).trans (resetKeeps_iff.mpr hk)) _
    rw [getReg, mget, this]
    rfl
  · intro hk
    have : mfind (resetRegs b (firstPage page) (blockRow b).pages s).regs (regKey p off) = none :=
      mfind_filter_of_neg (fun v => (hkeep v).trans (Bool.eq_false_iff.mpr fun hr => hk (resetKeeps_iff.mp hr))) _
    rw [getReg, mget, this]
    rfl

theorem getReg_resetRegs_other {p off k : Nat} (ho : off < 65536) (hp : ¬ (page ≤ p ∧ p < page + k)) (s : State) :
    getReg (resetRegs b page k s) p off = getReg s p off := by
  have : mfind (resetRegs b page k s).regs (regKey p off) = mfind s.regs (regKey p off) := by
    refine mfind_filter_of_pos (fun v => ?_) _
    simp only [regKey_page ho, decide_eq_false hp, Bool.not_false, Bool.true_or]
  rw [getReg, mget, this]
  rfl

theorem mget_cnt_resetRegs {p i k : Nat} (hi : i < 32) (hp : page ≤ p ∧ p < page + k) (s : State) :
    mget (resetRegs b page k s).cnt (p * 32 + i) 0 = 0 := by
  have hdiv : (p * 32 + i) / 32 = p := by omega
  have : mfind (resetRegs b page k s).cnt (p * 32 + i) = none := by
    refine mfind_filter_of_neg (fun v => ?_) _
    simp only [hdiv, decide_eq_true hp, Bool.not_true]
  rw [mget, this]
  rfl

end

/-! ### What stands behind the registers -/

/-- The registers and counters of the pages below the Ladle's are the same. -/
def LowPagesSame (s t : State) : Prop :=
  (∀ p off, p < 0xD0 → off < 65536 → getReg t p off = getReg s p off) ∧
  (∀ p i, p < 0xD0 → i < 32 → mget t.cnt (p * 32 + i) 0 = mget s.cnt (p * 32 + i) 0)

theorem LowPagesSame.trans {s t u : State} (h : LowPagesSame s t) (k : LowPagesSame t u) : LowPagesSame s u :=
  ⟨fun p off hp ho => (k.1 p off hp ho).trans (h.1 p off hp ho), fun p i hp hi => (k.2 p i hp hi).trans (h.2 p i hp hi)⟩

theorem LowPagesSame.of_keeps {s t : State} {ps : List Part} (k : Keeps ps s t) (hr : .regs ∉ ps := by decide)
    (hc : .cnt ∉ ps := by decide) : LowPagesSame s t := by
  have hregs : t.regs = s.regs := k.1 .regs hr
  have hcnt : t.cnt = s.cnt := k.1 .cnt hc
  exact ⟨fun _ _ _ _ => getReg_congr hregs .., fun _ _ _ _ => by rw [hcnt]⟩

theorem LowPagesSame.refl {s : State} : LowPagesSame s s := ⟨fun _ _ _ _ => rfl, fun _ _ _ _ => rfl⟩

theorem setReg_lowPagesSame {page : Nat} (off : Nat) (v : Word) (s : State) (h : 0xD0 ≤ page) :
    LowPagesSame s (setReg page off v s) := by
  refine ⟨fun p o hp ho => getReg_setReg_ne ?_ v s, fun _ _ _ _ => rfl⟩
  unfold regKey
  omega

theorem intSet_lowPagesSame {page : Nat} (i : Nat) (s : State) (h : 0xD0 ≤ page) : LowPagesSame s (intSet page i s) := by
  unfold intSet
  have hset := setReg_lowPagesSame 0x38 (setBit (getReg s page 0x38) i true) s h
  split
  · exact hset.trans (.of_keeps (deliver_keeps ..))
  · exact hset

theorem bump_lowPagesSame {page : Nat} (set i n : Nat) (s : State) (h : 0xD0 ≤ page) : LowPagesSame s (bump page set i n s) := by
  unfold bump
  dsimp only
  split
  · refine ⟨fun _ _ _ _ => rfl, fun p j hp hj => ?_⟩
    rw [mget_mput, if_neg (by omega)]
  · exact .refl

theorem directEnd_lowPagesSame (t : Task) (c : Nat) (f : Fail) (s : State) : LowPagesSame s (directEnd t c f s) := by
  have hpage : 0xD0 ≤ pageOf .ldl (t.eng - 0x38) 0 := by
    have : blockRow .ldl = ⟨.ldl, 0x0020, 8, 2, 0x0D0⟩ := by decide
    unfold pageOf
    rw [this]
    simp only
    omega
  unfold directEnd
  have hkeep (l : Ldl) : LowPagesSame s (setLdl (t.eng - 0x38) l (dropTask t.id s)) := .of_keeps (ps := [.tasks, .ldl]) <|
    .step ((dropTask_keeps ..).mono (by decide)) (setLdl_keeps ..)
  have hbump (l : Ldl) := (hkeep l).trans (bump_lowPagesSame 0 5 1 _ hpage)
  dsimp only
  split
  · exact (hbump _).trans <| (setReg_lowPagesSame _ _ _ hpage).trans (intSet_lowPagesSame _ _ hpage)
  · exact hbump _

theorem finish_lowPagesSame (t : Task) (f : Fail) (s : State) : LowPagesSame s (finish t f s) := by
  unfold finish
  have hput (u : Task) : LowPagesSame s (putTask u s) := .of_keeps (putTask_keeps ..)
  simp only
  split
  · exact (hput _).trans <| (LowPagesSame.of_keeps (leaveEngine_keeps ..)).trans (directEnd_lowPagesSame ..)
  · split
    · exact (hput _).trans (.of_keeps (leaveSlices_keeps ..))
    · exact (hput _).trans (.of_keeps (leaveEngine_keeps ..))

theorem LowPagesSame.foldl {α : Type} {f : State → α → State} (hf : ∀ a x, LowPagesSame a (f a x)) (l : List α) (s : State) :
    LowPagesSame s (l.foldl f s) := by
  induction l generalizing s with
  | nil => exact .refl
  | cons x l ih => exact (hf s x).trans (ih _)

/-- The tasks of the freed contexts end without a write to an array's page. -/
theorem dropContexts_lowPagesSame (n : Nat) (s : State) : LowPagesSame s (dropContexts n s) := by
  refine .foldl (fun u e => .foldl (fun v id => ?_) _ _) _ _
  split
  · exact finish_lowPagesSame ..
  · exact .refl

theorem setTrim_quiet {v : Int} (h : v.natAbs < 32767) (s : State) :
    setTrim v s = { s with clk := { s.clk with trim := v, trimLimit := false } } := by
  have ht : max (-32767) (min 32767 v) = v := by omega
  have hlim : ¬ (v = 32767 ∨ v = -32767) := by omega
  unfold setTrim
  simp [ht, hlim]

theorem rehost_quiet {s : State} (h : s.crm.copying = []) : Keeps [.crm] s (rehost s) := by
  unfold rehost
  simp only [h, List.foldl_nil]
  refine .foldl (.set_crm .refl _) fun _ _ hu => .set_crm hu _

theorem rehost_quiet_crm {s : State} (h : s.crm.copying = []) :
    (rehost s).crm.normal = s.crm.normal ∧ (rehost s).crm.sp = s.crm.sp ∧ (rehost s).crm.sets = s.crm.sets := by
  unfold rehost
  simp only [h, List.foldl_nil]
  refine List.foldlRecOn (motive := fun t : State => t.crm.normal = s.crm.normal ∧ t.crm.sp = s.crm.sp ∧ t.crm.sets = s.crm.sets)
    _ _ ⟨rfl, rfl, rfl⟩ ?_
  exact fun _ hu _ _ => hu

theorem resetCrm_quiet {n : Nat} {s : State} (h : s.crm.copying = []) :
    Keeps [.mem, .poison, .crm, .cw] s (resetCrm n s) ∧
    (n = 0 → (resetCrm n s).crm.normal = false ∧
      (s.crm.normal = true → (resetCrm n s).crm.sp = 0 ∧ (resetCrm n s).crm.sets = [])) := by
  unfold resetCrm
  have htags (u : State) : Keeps [.mem, .poison, .crm, .cw] u (dropTags [n] u) := (dropTags_keeps ..).mono (by decide)
  have hpos : Keeps [.mem, .poison, .crm, .cw] s (dropTags [n] { s with crm := { s.crm with pos := mdel s.crm.pos n } }) :=
    (Keeps.set_crm .refl _).trans (htags _)
  simp only
  split
  · refine ⟨?_, fun _ => ?_⟩
    · refine .step ?_ (rehost_quiet (by exact h))
      refine .step ?_ (pruneCw_keeps ..)
      exact .set_crm (hpos.step (zeroGranules_keeps ..)) _
    · have hc := rehost_quiet_crm (s := pruneCw { zeroGranules 0 14 (dropTags [n] { s with crm := { s.crm with pos := mdel s.crm.pos n } }) with
        crm := { (dropTags [n] { s with crm := { s.crm with pos := mdel s.crm.pos n } }).crm with
          sets := [], normal := false, sp := 0, ack := false } }) (by exact h)
      exact ⟨hc.1, fun _ => hc.2⟩
  · rename_i hn
    refine ⟨hpos, fun h0 => ?_⟩
    have hnormal : ¬ s.crm.normal = true := fun hs => hn ⟨h0, hs⟩
    exact ⟨Bool.eq_false_iff.mpr hnormal, fun hs => absurd hs hnormal⟩

theorem resetTck_quiet {s : State} (h : ∀ c < 256, (getQueue s c).held = []) : Keeps [.queues, .tck] s (resetTck s) := by
  have hheld : (List.range 256).filter (fun c => !(getQueue s c).held.isEmpty) = [] := by
    rw [List.filter_eq_nil_iff]
    intro c hc
    rw [h c (List.mem_range.mp hc)]
    decide
  unfold resetTck
  simp only [hheld, List.foldl_nil]
  have hself : Keeps [.queues, .tck] s s := .refl
  exact (hself.set_tck {
    num := s.tck.num, staged := s.tck.staged, align := s.tck.align, missed := s.tck.missed, offset := s.tck.offset,
    good := s.tck.good, marked := s.tck.marked, adjust := s.tck.adjust, mclk := s.tck.mclk, fclk := s.tck.fclk,
    snap := s.tck.snap }).set_queues (s.queues.filter (fun x => decide (256 ≤ x.1)))

/-- A reset that meets nothing of R194, R227 and R333 sets no register of its block's pages, and ends no task but an array's. -/
theorem resetInner_quiet {b : Block} {n : Nat} {s : State} (h : resetsQuietly s b) (hb : b ≠ .arr) :
    Keeps [.mem, .poison, .queues, .tck, .crm, .cw, .hbm, .ldl, .rel, .tables, .layers, .skm, .lnk, .pwr, .clk, .mtr, .mgt, .sec,
      .free] s (resetInner b n s) := by
  have hself : Keeps [.mem, .poison, .queues, .tck, .crm, .cw, .hbm, .ldl, .rel, .tables, .layers, .skm, .lnk, .pwr, .clk, .mtr,
    .mgt, .sec, .free] s s := .refl
  cases b with
  | arr => exact absurd rfl hb
  | sys => exact .refl
  | rng => exact .refl
  | sec => exact .refl
  | nvs => exact .refl
  | tck => exact (resetTck_quiet h).mono (by decide)
  | ve => exact .set_tables .refl _
  | chn => exact .set_layers .refl _
  | skm => exact .set_skm .refl _
  | ldl => exact (setLdl_keeps ..).mono (by decide)
  | crm => exact (resetCrm_quiet h).1.mono (by decide)
  | hbm =>
    have hlose : Keeps [.mem, .hbm, .free] s (if (getHbm s n).state = 0 then s else loseLines (stackLpcs s n) s) :=
      .ite (fun _ => .refl) fun _ => (loseLines_keeps ..).mono (by decide)
    exact (hlose.step (setHbm_keeps ..)).mono (by decide)
  | lnk =>
    have hport : Keeps [.lnk] s (setPort n {} s) := setPort_keeps ..
    exact (Keeps.ite (fun _ => .set_lnk hport _) fun _ => hport).mono (by decide)
  | pwr => exact (hself.set_pwr (resetInner .pwr n s).pwr).set_mtr (resetInner .pwr n s).mtr
  | clk =>
    show Keeps _ s (setTrim s.pwr.vtTrim { s with clk := {} })
    rw [setTrim_quiet h]
    exact .set_clk .refl _
  | tst => exact .set_rel .refl _
  | stn => exact (hself.set_rel (resetInner .stn n s).rel).set_lnk (resetInner .stn n s).lnk
  | mgt => exact (hself.set_sec (resetInner .mgt n s).sec).set_mgt (resetInner .mgt n s).mgt
  | cbl => exact .set_rel .refl _

theorem resetInner_lowPagesSame_of_arr (n : Nat) (s : State) : LowPagesSame s (resetInner .arr n s) :=
  (dropContexts_lowPagesSame n s).trans (.of_keeps (setArr_keeps ..))

/-! ### The soft reset -/

/-- The state in which a soft reset of the block of `page` leaves the device. -/
def softResetState (b : Block) (n page : Nat) (s : State) : State :=
  let t := resetInner b n (resetRegs b (firstPage page) (blockRow b).pages s)
  setBlk page { getBlk t page with rstBusy := true, busyPend := [] } t

theorem blkCtlEffect_reset {page n m : Nat} {b : Block} {v : Word} {s : State} (hv : bit v 1 = true) (hw : work s page = false)
    (h : pageOwner page = some (b, n, m)) : blkCtlEffect page v s = softResetState b n page s := by
  unfold blkCtlEffect
  simp only [hv, hw, h, Bool.true_eq_false, Bool.false_eq_true, if_false]
  rfl

theorem resetsQuietly_resetRegs {b c : Block} {p n : Nat} {s : State} (h : resetsQuietly s b) :
    resetsQuietly (resetRegs c p n s) b := by
  cases b <;> exact h

theorem LowPagesSame.softReset {b : Block} {n page : Nat} {s : State} (hb : b = .arr) :
    LowPagesSame (resetRegs b (firstPage page) (blockRow b).pages s) (softResetState b n page s) := by
  subst hb
  exact (resetInner_lowPagesSame_of_arr n _).trans (.of_keeps (setBlk_keeps ..))

/-- Registers and counters of the block: those of `resetRegs`, whatever else the reset brings. -/
theorem softResetState_own_pages {page n p sub : Nat} {b : Block} {s : State} (hq : resetsQuietly s b)
    (hp : pageOwner p = some (b, n, sub)) :
    (∀ off, off < 65536 → getReg (softResetState b n page s) p off =
      getReg (resetRegs b (firstPage page) (blockRow b).pages s) p off) ∧
    (∀ i, i < 32 → mget (softResetState b n page s).cnt (p * 32 + i) 0 =
      mget (resetRegs b (firstPage page) (blockRow b).pages s).cnt (p * 32 + i) 0) := by
  by_cases hb : b = .arr
  · have hlow : p < 0xD0 := by
      obtain ⟨_, _, hn, hsub, hpage⟩ := pageOwner_eq_some hp
      have hrow : blockRow .arr = ⟨.arr, 0x0010, 4, 8, 0x040⟩ := by decide
      rw [hb, hrow] at hn hsub
      rw [hb, pageOf, hrow] at hpage
      simp only at hn hsub hpage
      omega
    have hsame := LowPagesSame.softReset (n := n) (page := page) (s := s) hb
    exact ⟨fun off ho => hsame.1 p off hlow ho, fun i hi => hsame.2 p i hlow hi⟩
  · have hk := resetInner_quiet (n := n) (resetsQuietly_resetRegs (c := b) (p := firstPage page) (n := (blockRow b).pages) hq) hb
    have hregs : (softResetState b n page s).regs = (resetRegs b (firstPage page) (blockRow b).pages s).regs :=
      hk.1 .regs (by decide)
    have hcnt : (softResetState b n page s).cnt = (resetRegs b (firstPage page) (blockRow b).pages s).cnt :=
      hk.1 .cnt (by decide)
    exact ⟨fun off _ => getReg_congr hregs .., fun i _ => by rw [hcnt]⟩

/-- What stands behind the registers returns (R31, R423, R425). -/
theorem softResetState_returns {page n : Nat} {b : Block} {s : State} (hq : resetsQuietly s b) :
    resetReturns s (softResetState b n page s) n b := by
  cases b with
  | sys => exact ⟨((Keeps.step ((resetRegs_keeps ..).mono (by decide)) (setBlk_keeps ..) : Keeps [.regs, .cnt, .blk, .tck] s _)).1, rfl⟩
  | tck =>
    have hheld : (List.range 256).filter (fun c => !(getQueue s c).held.isEmpty) = [] := by
      rw [List.filter_eq_nil_iff]
      intro c hc
      rw [hq c (List.mem_range.mp hc)]
      decide
    have hqueues (t : State) (ht : t.queues = s.queues) : (resetTck t).queues = s.queues.filter (fun x => decide (256 ≤ x.1)) ∧
        (resetTck t).tck.num = t.tck.num ∧ (resetTck t).tck.staged = t.tck.staged ∧ (resetTck t).tck.align = t.tck.align ∧
        (resetTck t).tck.slots = [] := by
      have hheld' : (List.range 256).filter (fun c => !(getQueue t c).held.isEmpty) = [] := by
        simpa only [getQueue_congr ht] using hheld
      unfold resetTck
      simp [hheld', ht]
    obtain ⟨hqs, hnum, hstaged, halign, hslots⟩ := hqueues (resetRegs .tck (firstPage page) (blockRow .tck).pages s) rfl
    refine ⟨hnum, hstaged, halign, hslots, fun q hq256 => ?_⟩
    have hfind : mfind (softResetState .tck n page s).queues q = mfind s.queues q := by
      refine (congrArg (mfind · q) hqs).trans ?_
      exact mfind_filter_of_pos (fun v => decide_eq_true hq256) _
    rw [getQueue, mget, hfind]
    rfl
  | arr =>
    intro q
    have harr : (softResetState .arr n page s).arr = mput _ n { banks := (getArr _ n).banks } := rfl
    rw [getUnit, getArr, harr, mget_mput, if_pos rfl]
    rfl
  | ve => exact fun k hk => mfind_filter_of_neg (fun v => by simp [hk]) _
  | chn => rfl
  | skm => rfl
  | ldl =>
    show getLdl (setLdl n {} _) n = {}
    simp
  | crm =>
    intro h0
    exact (resetCrm_quiet (n := n) (s := resetRegs .crm (firstPage page) (blockRow .crm).pages s) hq).2 h0
  | hbm =>
    show getHbm (setHbm n { outPcs := (getHbm s n).outPcs } _) n = _
    simp
  | lnk =>
    have hport (t : State) : getPort (resetInner .lnk n t) n = {} := by
      have h1 : getPort (setPort n {} t) n = {} := by simp [getPort, setPort]
      unfold resetInner
      simp only
      split
      · exact h1
      · exact h1
    exact hport _
  | pwr => rfl
  | stn => exact ⟨rfl, rfl, rfl⟩
  | _ => trivial

/-- Settles O9 (second part): the soft reset of a block at rest. -/
theorem softReset_of_rest {s : State} {page n m : Nat} {b : Block} {v : Word} (h : pageOwner page = some (b, n, m))
    (hv : bit v 1 = true) (hw : work s page = false) (hq : resetsQuietly s b) :
    let t := blkCtlEffect page v s
    (getBlk t page).rstBusy = true ∧
      (∀ p off sub, p < 4096 → off < 65536 → off % 8 = 0 → pageOwner p = some (b, n, sub) →
        (keptByReset b sub off → getReg t p off = getReg s p off) ∧
        (¬ keptByReset b sub off → getReg t p off = resetOf p off) ∧ ∀ i < 32, mget t.cnt (p * 32 + i) 0 = 0) ∧
      resetReturns s t n b ∧ t.pools = s.pools ∧ t.keys = s.keys ∧
      (b ≠ .arr → t.tasks = s.tasks ∧ ∀ p off, p < 4096 → off < 65536 → (∀ sub, pageOwner p ≠ some (b, n, sub)) →
        getReg t p off = getReg s p off) := by
  intro t
  have ht : t = softResetState b n page s := blkCtlEffect_reset hv hw h
  rw [ht]
  have hall := (resetInner_keeps b n (resetRegs b (firstPage page) (blockRow b).pages s)).1
  refine ⟨?busy, ?own, softResetState_returns hq, hall .pools (by decide), hall .keys (by decide), ?other⟩
  case busy => simp [softResetState]
  case own =>
    intro p off sub _ ho h8 hp
    obtain ⟨hregs, hcnt⟩ := softResetState_own_pages (page := page) hq hp
    obtain ⟨hkept, hreset⟩ := getReg_resetRegs_own h ho h8 hp s
    obtain ⟨hlo, hhi, _⟩ := range_of_pageOwner h hp
    refine ⟨fun hk => (hregs off ho).trans (hkept hk), fun hk => (hregs off ho).trans (hreset hk), fun i hi => ?_⟩
    rw [hcnt i hi, mget_cnt_resetRegs hi ⟨hlo, hhi⟩]
  case other =>
    intro hb
    have hk := resetInner_quiet (n := n) (resetsQuietly_resetRegs (c := b) (p := firstPage page) (n := (blockRow b).pages) hq) hb
    refine ⟨hk.1 .tasks (by decide), fun p off _ ho hp => ?_⟩
    have hregs : (softResetState b n page s).regs = (resetRegs b (firstPage page) (blockRow b).pages s).regs :=
      hk.1 .regs (by decide)
    rw [getReg_congr hregs, getReg_resetRegs_other ho]
    rintro ⟨hlo, hhi⟩
    exact hp _ (pageOwner_of_range h hlo hhi)

/-! ### Writes without a reset, refusals, and the end of a reset -/

theorem getBlk_eq_of_firstPage {s : State} {p q : Nat} (h : firstPage p = firstPage q) : getBlk s p = getBlk s q := by
  unfold getBlk
  rw [h]

theorem fieldsAt_blkCtl {page n sub : Nat} {b : Block} {r : RegRow} (h : pageOwner page = some (b, n, sub))
    (hf : fieldsAt page 0x10 = some r) : r = ⟨sub, 0x10, 1, 8, "head", 0, 5, 0, 2, 0, 0, false⟩ := by
  unfold fieldsAt at hf
  rw [h] at hf
  simp only [headReg] at hf
  by_cases hs : sub = 0
  · simpa [hs, eq_comm] using hf
  · simp [hs] at hf

/-- EN and CG_OVR are stored. -/
theorem bit_storeReg_blkCtl {s : State} {who : Initiator} {page : Nat} {v w : Word} (ha : s.admits who page 0x10 w = true) {i : Nat}
    (hi : i = 0 ∨ i = 2) : bit (getReg (storeReg page 0x10 v s) page 0x10) i = bit v i := by
  obtain ⟨b, n, sub, r, hown, hf⟩ := State.admits_owner ha
  have hmask : bit (word 5) i = true ∧ bit (word 0) i = false := by rcases hi with rfl | rfl <;> decide
  rw [storeReg_eq hf, getReg_setReg_same]
  obtain rfl := fieldsAt_blkCtl hown hf
  exact bit_merged hmask.1 hmask.2 _ _

theorem getBlk_holdAck (page p : Nat) (s : State) :
    getBlk (holdAck page s) p = if pllGood s page = false ∧ firstPage p = firstPage page
      then { getBlk s p with ready := false } else getBlk s p := by
  unfold holdAck
  by_cases hg : pllGood s page = true
  · simp [hg]
  · by_cases hp : firstPage p = firstPage page
    · have hsame := getBlk_eq_of_firstPage (s := s) hp
      simp [hg, hp, hsame]
    · simp [hg, hp]

theorem pllGood_congr {s t : State} (h : t.clk = s.clk) (page : Nat) : pllGood t page = pllGood s page := by
  unfold pllGood
  rw [h]

/-- A write of BLK_CTL as far as it asks for no reset. -/
def blkCtlStored (page : Nat) (v : Word) (s : State) : State :=
  if enAck s page then storeReg page 0x10 v s else holdAck page (storeReg page 0x10 v s)

theorem blkCtlStored_regs (page : Nat) (v : Word) (s : State) : (blkCtlStored page v s).regs = (storeReg page 0x10 v s).regs := by
  unfold blkCtlStored
  split
  · rfl
  · exact (holdAck_keeps ..).1 .regs (by decide)

theorem getBlk_blkCtlStored (page : Nat) (v : Word) (s : State) (p : Nat) : getBlk (blkCtlStored page v s) p =
    if enAck s page = false ∧ pllGood s page = false ∧ firstPage p = firstPage page
      then { getBlk s p with ready := false } else getBlk s p := by
  have hclk : (storeReg page 0x10 v s).clk = s.clk := (storeReg_keeps ..).1 .clk (by decide)
  have hblk : (storeReg page 0x10 v s).blk = s.blk := (storeReg_keeps ..).1 .blk (by decide)
  unfold blkCtlStored
  by_cases he : enAck s page = true
  · simp [he, getBlk_congr hblk]
  · simp [he, getBlk_holdAck, getBlk_congr hblk, pllGood_congr hclk]

theorem blkCtlStored_keeps (page : Nat) (v : Word) (s : State) : Keeps [.regs, .blk] s (blkCtlStored page v s) := by
  have hstore : Keeps [.regs, .blk] s (storeReg page 0x10 v s) := (storeReg_keeps ..).mono (by decide)
  exact .ite (fun _ => hstore) fun _ => hstore.step (holdAck_keeps ..)

theorem blkCtlEffect_enable {page : Nat} {v : Word} {s : State} (hv : bit v 1 = false) :
    blkCtlEffect page v s = blkCtlStored page v s := if_pos hv

theorem blkCtlEffect_busy {page : Nat} {v : Word} {s : State} (hv : bit v 1 = true) (hw : work s page = true) :
    blkCtlEffect page v s = raise page 4 0x10 (blkCtlStored page v s) := by
  unfold blkCtlEffect
  simp only [hv, hw, Bool.true_eq_false, if_false, if_true]
  rfl

theorem getBlk_raise (page i off p : Nat) (s : State) : getBlk (raise page i off s) p = getBlk s p :=
  getBlk_congr ((raise_keeps ..).1 .blk (by decide)) p

theorem bit_errSts_raise (page i off : Nat) (s : State) (hi : i < 64) : bit (getReg (raise page i off s) page 0x20) i = true := by
  rw [getReg_raise, if_pos rfl, bit_setBit _ _ _ hi]

/-- An error that is shown stays shown as others are raised. -/
theorem bit_errSts_raise_of_bit {s : State} {p j : Nat} (hj : j < 64) (h : bit (getReg s p 0x20) j = true) (page i off : Nat) :
    bit (getReg (raise page i off s) p 0x20) j = true := by
  have hkey : regKey p 0x20 ≠ regKey page 0x38 ∧ regKey p 0x20 ≠ regKey page 0x30 := by
    unfold regKey
    omega
  rw [getReg_raise]
  by_cases hp : regKey p 0x20 = regKey page 0x20
  · obtain rfl : p = page := by
      unfold regKey at hp
      omega
    rw [if_pos rfl]
    by_cases hij : j = i
    · subst hij
      exact bit_setBit _ _ _ hj
    · rwa [bit_setBit_ne _ _ _ _ hij]
  · simp [hp, hkey, h]

theorem bit_errSts_foldl_raise {l : List (Nat × Nat)} {p : Nat × Nat} {s : State}
    (h : p ∈ l ∨ bit (getReg s p.1 0x20) 4 = true) :
    bit (getReg (l.foldl (fun u q => raise q.1 4 q.2 u) s) p.1 0x20) 4 = true := by
  induction l generalizing s with
  | nil => simpa using h
  | cons q l ih =>
    refine ih ?_
    rcases h with h | h
    · rcases List.mem_cons.mp h with rfl | h
      · exact .inr (bit_errSts_raise _ _ _ _ (by decide))
      · exact .inl h
    · exact .inr (bit_errSts_raise_of_bit (by decide) h _ _ _)

theorem resetDoneEffect_eq {page : Nat} {s : State} (h : (getBlk s page).rstBusy = true) : resetDoneEffect page s =
    (getBlk s page).busyPend.foldl (fun u p => raise p.1 4 p.2 u)
      (holdAck page (setBlk page { getBlk s page with rstBusy := false, busyPend := [] } s)) := by
  unfold resetDoneEffect
  simp only [h, Bool.true_eq_false, if_false]

theorem getBlk_foldl_raise (l : List (Nat × Nat)) (s : State) (page : Nat) :
    getBlk (l.foldl (fun u p => raise p.1 4 p.2 u) s) page = getBlk s page :=
  List.foldlRecOn (motive := fun t => getBlk t page = getBlk s page) _ _ rfl fun _ hu _ _ => (getBlk_raise ..).trans hu

/-- Settles O9: `blkCtlEffect` either stores the write, refuses the reset beside it, or resets. -/
theorem blockControlEnablesAndResets : Obligations.BlockControlEnablesAndResets := by
  have hset (v : Word) (b : Bool) : bit (setBit v 1 b) 1 = b := bit_setBit v 1 b (by decide)
  refine ⟨?enable, ?reset, ?busy, ?done⟩
  case enable =>
    intro s who page v ha
    refine ⟨_, congrArg Host.Outcome.next ((regGuard_admits ha).trans (blkCtlEffect_enable (hset v false))), ?_, ?_, ?_, ?_⟩
    · rw [getReg_congr (blkCtlStored_regs ..), bit_storeReg_blkCtl ha (.inl rfl), bit_setBit_ne _ _ _ _ (by decide)]
    · rw [getReg_congr (blkCtlStored_regs ..), bit_storeReg_blkCtl ha (.inr rfl), bit_setBit_ne _ _ _ _ (by decide)]
    · exact getBlk_blkCtlStored _ _ _
    · exact (blkCtlStored_keeps ..).1
  case reset =>
    intro s who page v b n m ha hown hw hq
    exact ⟨_, congrArg Host.Outcome.next (regGuard_admits ha), softReset_of_rest hown (hset v true) hw hq⟩
  case busy =>
    intro s who page v ha hw
    refine ⟨_, congrArg Host.Outcome.next ((regGuard_admits ha).trans (blkCtlEffect_busy (hset v true) hw)), ?_, ?_, ?_⟩
    · exact bit_errSts_raise _ _ _ _ (by decide)
    · intro p
      rw [getBlk_raise, getBlk_blkCtlStored]
      by_cases hp : enAck s page.val = false ∧ pllGood s page.val = false ∧ firstPage p = firstPage page.val
      · rw [if_pos hp]
        obtain ⟨hack, _, hfirst⟩ := hp
        have hrst : (getBlk s page.val).rstBusy = false := by
          unfold State.admits at ha
          split at ha
          · simp only [Bool.and_eq_true, Bool.not_eq_true'] at ha
            exact ha.1.2
          · cases ha
        have hready : (getBlk s page.val).ready = false := by simpa [enAck, hrst, hw] using hack
        rw [getBlk_eq_of_firstPage hfirst, ← hready]
      · rw [if_neg hp]
    · have hk : Keeps [.regs, .out, .sys, .blk] s (blkCtlStored page.val (setBit v 1 true) s) :=
        (blkCtlStored_keeps ..).mono (by decide)
      exact (hk.step (raise_keeps ..)).1
  case done =>
    intro s page hrst
    refine ⟨_, congrArg Host.Outcome.next (resetDoneEffect_eq hrst), ?_, ?_, ?_⟩
    · rw [getBlk_foldl_raise, getBlk_holdAck]
      split <;> simp
    · exact fun p hp => bit_errSts_foldl_raise (.inl hp)
    · have hk := (resetDoneEffect_keeps page.val s).mono (qs := [.regs, .out, .sys, .blk]) (by decide)
      rw [resetDoneEffect_eq hrst] at hk
      exact hk.1

end Sys2Proof.Machine
end

section
/-! SUPPORT. Queues and pools: what a push, a pop, a flush, a configuration, an allocation and a release do once the pointers agree
(R50-R54, R184, R188-R201). -/

namespace Sys2Proof.Machine

variable {s : State} {q : Nat} {v : Word}

/-! ### Queues -/

theorem ptrCheck_of_agree (h : pointersAgree s q) : ptrCheck q s = s := if_pos h

/-- From `s` to `t` queue `q` alone changes among the queues. -/
def OtherQueuesSame (q : Nat) (s t : State) : Prop := ∀ p, p ≠ q → getQueue t p = getQueue s p

theorem setQueue_otherQueuesSame (q : Nat) (x : Queue) (s : State) : OtherQueuesSame q s (setQueue q x s) := by
  intro p hp
  simp [hp]

/-- An item stands at the back of queue `q`, whose held pushes are `held`. -/
structure Pushed (s t : State) (q : Nat) (v : Word) (held : List (Initiator × Word)) : Prop where
  items : (getQueue t q).items = (getQueue s q).items ++ [v]
  held : (getQueue t q).held = held
  others : OtherQueuesSame q s t
  only : State.onlyChanges [.queues, .regs, .out, .sys] s t

theorem qPut_queues (q : Nat) (v : Word) (s : State) : (qPut q v s).queues =
    (setQueue q { getQueue s q with
      items := (getQueue s q).items ++ [v],
      wr := ((getQueue s q).wr + 1) % (2 * qDepth s q), wr2 := ((getQueue s q).wr2 + 1) % (2 * qDepth s q) } s).queues := by
  unfold qPut
  dsimp only
  split
  · exact (qDeliver_keeps ..).1 .queues (by decide)
  · rfl

theorem qPut_pushed (q : Nat) (v : Word) (s : State) : Pushed s (qPut q v s) q v (getQueue s q).held where
  items := by
    rw [getQueue_congr (qPut_queues q v s)]
    simp
  held := by
    rw [getQueue_congr (qPut_queues q v s)]
    simp
  others p hp := by
    rw [getQueue_congr (qPut_queues q v s)]
    exact setQueue_otherQueuesSame _ _ _ p hp
  only := ((qPut_keeps q v s).mono (by decide)).1

theorem bit_qErr (q i : Nat) (s : State) (hi : i < 64) : bit (getReg (qErr q i s) (qPage q) (qOff q 0x38)) i = true := by
  unfold qErr
  rw [getReg_setReg_same, bit_setBit _ _ _ hi]

theorem pushEffect_room {who : Initiator} (hp : pointersAgree s q) (he : qEnabled s q = true) (hq : qQuiet s q = false)
    (hf : qFull s q = false) : pushEffect who q v s = qPut q (itemBits q v) s := by
  unfold pushEffect
  simp only [ptrCheck_of_agree hp, he, hq, hf, Bool.false_eq_true, Bool.true_eq_false, or_self, if_false]

theorem pushEffect_full {who : Initiator} (hp : pointersAgree s q) (he : qEnabled s q = true) (hq : qQuiet s q = false)
    (hf : qFull s q = true) : pushEffect who q v s =
      setQueue q { getQueue s q with held := (getQueue s q).held ++ [(who, itemBits q v)] } s := by
  unfold pushEffect
  simp only [ptrCheck_of_agree hp, he, hq, hf, Bool.false_eq_true, Bool.true_eq_false, or_self, if_false, if_true]

theorem pushNbEffect_room (hp : pointersAgree s q) (he : qEnabled s q = true) (hq : qQuiet s q = false)
    (hf : qFull s q = false) : pushNbEffect q v s = qPut q (itemBits q v) s := by
  unfold pushNbEffect
  simp only [ptrCheck_of_agree hp, he, hq, hf, Bool.false_eq_true, Bool.true_eq_false, or_self, if_false]

theorem pushNbEffect_full (hp : pointersAgree s q) (he : qEnabled s q = true) (hq : qQuiet s q = false)
    (hf : qFull s q = true) : pushNbEffect q v s = qErr q 2 s := by
  unfold pushNbEffect
  simp only [ptrCheck_of_agree hp, he, hq, hf, Bool.false_eq_true, Bool.true_eq_false, or_self, if_false, if_true]

/-- A queue that takes nothing drops the push, whichever register it comes by. -/
theorem pushes_dropped {who : Initiator} (hp : pointersAgree s q) (h : qEnabled s q = false ∨ qQuiet s q = true) :
    pushEffect who q v s = qErr q 1 s ∧ pushNbEffect q v s = qErr q 1 s := by
  unfold pushEffect pushNbEffect
  simp only [ptrCheck_of_agree hp]
  exact ⟨if_pos h, if_pos h⟩

theorem heldEffect_room {who : Initiator} {rest : List (Initiator × Word)} (hh : (getQueue s q).held = (who, v) :: rest)
    (hf : qFull s q = false) (hq : qQuiet s q = false) :
    heldEffect q s = qPut q v (setQueue q { getQueue s q with held := rest } s) := by
  unfold heldEffect
  simp [hh, hf, hq]

theorem heldEffect_quiet (hq : qQuiet s q = true) : heldEffect q s = s := by
  unfold heldEffect
  dsimp only
  split
  · rfl
  · exact if_pos (.inr hq)

/-- Settles O10: every push comes to `qPut`, to the held pushes, or to an error bit. -/
theorem pushesTakeRoomOrAreHeld : Obligations.PushesTakeRoomOrAreHeld := by
  refine ⟨?push, ?pushNb, ?held, ?full, ?fullNb, ?dropped, ?quiet⟩
  case push =>
    intro s who q v ha _ hp he hq hf
    obtain ⟨hitems, hheld, hothers, honly⟩ := qPut_pushed q.val (itemBits q.val v) s
    exact ⟨_, congrArg Host.Outcome.next ((regGuard_admits ha).trans (pushEffect_room hp he hq hf)), hitems, hheld, hothers, honly⟩
  case pushNb =>
    intro s who q v ha _ hp he hq hf
    obtain ⟨hitems, hheld, hothers, honly⟩ := qPut_pushed q.val (itemBits q.val v) s
    exact ⟨_, congrArg Host.Outcome.next ((regGuard_admits ha).trans (pushNbEffect_room hp he hq hf)), hitems, hheld, hothers, honly⟩
  case held =>
    intro s q who v rest _ hp hh hf hq
    have heff : heldEffect q.val (ptrCheck q.val s) = qPut q.val v (setQueue q.val { getQueue s q.val with held := rest } s) := by
      rw [ptrCheck_of_agree hp, heldEffect_room hh hf hq]
    obtain ⟨hitems, hheld, hothers, _⟩ := qPut_pushed q.val v (setQueue q.val { getQueue s q.val with held := rest } s)
    refine ⟨_, congrArg Host.Outcome.next heff, ?_, ?_, fun p hne => ?_, ?_⟩
    · simpa using hitems
    · simpa using hheld
    · exact (hothers p hne).trans (setQueue_otherQueuesSame _ _ _ p hne)
    · have hk : Keeps [.queues, .regs, .out, .sys] s (setQueue q.val { getQueue s q.val with held := rest } s) :=
        (setQueue_keeps ..).mono (by decide)
      exact (hk.step (qPut_keeps ..)).1
  case full =>
    intro s who q v ha _ hp he hq hf
    refine ⟨_, congrArg Host.Outcome.next ((regGuard_admits ha).trans (pushEffect_full hp he hq hf)), ?_, ?_, (setQueue_keeps ..).1⟩
    · simp
    · simp
  case fullNb =>
    intro s who q v ha _ hp he hq hf
    exact ⟨_, congrArg Host.Outcome.next ((regGuard_admits ha).trans (pushNbEffect_full hp he hq hf)),
      bit_qErr _ _ _ (by decide), (qErr_keeps ..).1⟩
  case dropped =>
    intro s who q v ha hb _ hp h
    obtain ⟨hpush, hpushNb⟩ := pushes_dropped (who := who) (v := v) hp h
    exact ⟨_, congrArg Host.Outcome.next ((regGuard_admits ha).trans hpush),
      congrArg Host.Outcome.next ((regGuard_admits hb).trans hpushNb), bit_qErr _ _ _ (by decide), (qErr_keeps ..).1⟩
  case quiet =>
    intro s q hp hq
    have heff : heldEffect q.val (ptrCheck q.val s) = s := by rw [ptrCheck_of_agree hp, heldEffect_quiet hq]
    exact congrArg Host.Outcome.next heff

/-! ### Pops, flushes, configuration -/

theorem mayReach_sys (who : Initiator) : mayReach who .sys = true := by cases who <;> rfl

theorem answer_zero_onlyChanges {s : State} : State.onlyChanges [.resp] s (answer 0 s) := (answer_keeps ..).1

theorem qTake_cons {rest : List Word} (h : (getQueue s q).items = v :: rest) : qTake q s =
    (some v, setQueue q { getQueue s q with
      items := rest, rd := ((getQueue s q).rd + 1) % (2 * qDepth s q), rd2 := ((getQueue s q).rd2 + 1) % (2 * qDepth s q) } s) := by
  unfold qTake
  simp [h]

theorem qTake_nil (h : (getQueue s q).items = []) : qTake q s = (none, s) := by
  unfold qTake
  simp [h]

theorem popEffect_cons {rest : List Word} (hl : 256 ≤ q) (hp : pointersAgree s q) (h : (getQueue s q).items = v :: rest) :
    popEffect q s = answer ((v &&& mask 31 0) ||| word (2 ^ 63)) (setQueue q { getQueue s q with
      items := rest, rd := ((getQueue s q).rd + 1) % (2 * qDepth s q), rd2 := ((getQueue s q).rd2 + 1) % (2 * qDepth s q) } s) := by
  unfold popEffect
  rw [if_neg (by omega), ptrCheck_of_agree hp, qTake_cons h]

theorem popEffect_nil (hp : pointersAgree s q) (h : (getQueue s q).items = []) : popEffect q s = answer 0 s := by
  unfold popEffect
  rw [ptrCheck_of_agree hp, qTake_nil h]
  exact ite_self _

theorem exec_qPop {who : Initiator} {q : Fin 1280} {s : State} (h : (getBlk s (qPage q.val)).rstBusy = false) :
    exec (.qPop who q) s = .next (popEffect q.val s) := by
  refine congrArg Host.Outcome.next ?_
  rw [if_neg (by simp [h]), if_neg (by simp [mayReach_sys])]

/-- A pop that finds nothing answers zero, in a soft reset too. -/
theorem exec_qPop_zero {who : Initiator} {q : Fin 1280} {s : State} (h : popEffect q.val s = answer 0 s) :
    exec (.qPop who q) s = .next (answer 0 s) := by
  by_cases hb : (getBlk s (qPage q.val)).rstBusy = true
  · exact congrArg Host.Outcome.next (if_pos hb)
  · rw [exec_qPop (Bool.eq_false_iff.mpr hb), h]

theorem dropHeld_spec (q : Nat) (s : State) :
    getQueue (dropHeld q s) q = { getQueue s q with held := [] } ∧ OtherQueuesSame q s (dropHeld q s) := by
  unfold dropHeld
  dsimp only
  by_cases h : (getQueue s q).held.isEmpty = true
  · rw [if_pos h]
    refine ⟨?_, fun _ _ => rfl⟩
    rw [← List.isEmpty_iff.mp h]
  · rw [if_neg h]
    have hq : (qErr q 1 (setQueue q { getQueue s q with held := [] } s)).queues =
        (setQueue q { getQueue s q with held := [] } s).queues := (qErr_keeps ..).1 .queues (by decide)
    refine ⟨?_, fun p hp => ?_⟩
    · rw [getQueue_congr hq]
      simp
    · rw [getQueue_congr hq]
      exact setQueue_otherQueuesSame _ _ _ p hp

theorem flushEffect_idle (hp : pointersAgree s q) (hr : (getQueue s q).rsvd = 0)
    (hb : q < 256 → bit (cqBind s q) 8 = false) : flushEffect q s =
      dropHeld q (setQueue q { getQueue s q with items := [], rd := (getQueue s q).wr, rd2 := (getQueue s q).wr2 } s) := by
  have hbound : ¬ (q < 256 && regBit s (pageOf .tck 0 1) (0x1000 + 8 * q) 8) = true := by
    intro h
    simp only [Bool.and_eq_true, decide_eq_true_eq] at h
    exact Bool.false_ne_true ((hb h.1).symm.trans h.2)
  unfold flushEffect
  simp only [ptrCheck_of_agree hp]
  rw [if_neg]
  rintro (h | h)
  · exact h hr
  · exact hbound h

/-- The configuration word with the enable, depth and base of `v`. -/
def laceCfgWord (old v : Word) : Word := setFld (setFld (setBit old 0 (bit v 0)) 12 8 (fld v 12 8)) 33 16 (fld v 33 16)

theorem laceCfgWord_fields (old v : Word) : bit (laceCfgWord old v) 0 = bit v 0 ∧
    fld (laceCfgWord old v) 12 8 = fld v 12 8 ∧ fld (laceCfgWord old v) 33 16 = fld v 33 16 := by
  unfold laceCfgWord
  refine ⟨?_, ?_, ?_⟩
  · rw [bit_setFld, if_neg (by omega), bit_setFld, if_neg (by omega), bit_setBit _ _ _ (by decide)]
  · rw [fld_setFld_ne _ _ _ _ _ _ (.inl (by decide)), fld_setFld _ _ _ _ (by decide)]
    exact Nat.mod_eq_of_lt (fld_lt v 12 8)
  · rw [fld_setFld _ _ _ _ (by decide)]
    exact Nat.mod_eq_of_lt (fld_lt v 33 16)

/-- A queue at rest takes the configuration; its pointers start anew where its storage moves. -/
theorem laceCfgEffect_idle {lace : Nat} (hp : pointersAgree s (256 + lace)) (hi : (getQueue s (256 + lace)).items = [])
    (hr : (getQueue s (256 + lace)).rsvd = 0) (h0 : bit v 0 = true) (h1 : bit v 1 = false) (hfits : laceFits s lace v = true) :
    let old := getReg s (qPage (256 + lace)) (qOff (256 + lace) 0)
    let s1 := setReg (qPage (256 + lace)) (qOff (256 + lace) 0) (laceCfgWord old v) s
    laceCfgEffect lace v s =
      if fld old 12 8 ≠ fld v 12 8 ∨ fld old 33 16 ≠ fld v 33 16
        then setQueue (256 + lace) { getQueue s (256 + lace) with wr := 0, rd := 0, wr2 := 0, rd2 := 0 } s1 else s1 := by
  unfold laceCfgEffect
  simp [ptrCheck_of_agree hp, hi, hr, h0, h1, hfits, laceCfgWord]

/-- Settles O11. -/
theorem popsFlushesAndQueueConfiguration : Obligations.PopsFlushesAndQueueConfiguration := by
  refine ⟨?pop, ?empty, ?command, ?flush, ?config⟩
  case pop =>
    intro s who q v rest hl hb hp h
    refine ⟨_, (exec_qPop hb).trans (congrArg Host.Outcome.next (popEffect_cons hl hp h)), rfl, ?_, fun p hne => ?_, ?_⟩
    · show (getQueue (setQueue _ _ _) _).items = rest
      simp
    · exact setQueue_otherQueuesSame _ _ _ p hne
    · have hk (x : Queue) : Keeps [.resp, .queues] s (setQueue q.val x s) := (setQueue_keeps ..).mono (by decide)
      exact ((hk _).step (answer_keeps ..)).1
  case empty =>
    intro s who q hp h
    exact ⟨_, exec_qPop_zero (popEffect_nil hp h), rfl, answer_zero_onlyChanges⟩
  case command =>
    intro s who q hc
    exact ⟨_, exec_qPop_zero (if_pos hc), rfl, answer_zero_onlyChanges⟩
  case flush =>
    intro s who q ha hp hr hb
    refine ⟨_, congrArg Host.Outcome.next ((regGuard_admits ha).trans (flushEffect_idle hp hr hb)), ?_, ?_, fun p hne => ?_, ?_⟩
    · rw [(dropHeld_spec ..).1]
      simp
    · rw [(dropHeld_spec ..).1]
    · rw [(dropHeld_spec ..).2 p hne]
      exact setQueue_otherQueuesSame _ _ _ p hne
    · have hk (x : Queue) : Keeps [.queues, .regs] s (setQueue q.val x s) := (setQueue_keeps ..).mono (by decide)
      exact ((hk _).step (dropHeld_keeps ..)).1
  case config =>
    intro s who lace v ha h1 h0 hp hi hr hfits
    obtain ⟨hen, hdepth, hbase⟩ := laceCfgWord_fields (getReg s (qPage (256 + lace.val)) (qOff (256 + lace.val) 0)) v
    have hcfg := laceCfgEffect_idle hp hi hr h0 h1 hfits
    refine ⟨_, congrArg Host.Outcome.next ((regGuard_admits ha).trans hcfg), ?_⟩
    have hset (t : State) (ht : t.regs = (setReg (qPage (256 + lace.val)) (qOff (256 + lace.val) 0)
        (laceCfgWord (getReg s (qPage (256 + lace.val)) (qOff (256 + lace.val) 0)) v) s).regs) :
        qEnabled t (256 + lace.val) = true ∧ qDepth t (256 + lace.val) = 2 ^ fld v 12 8 ∧
        regFld t (qPage (256 + lace.val)) (qOff (256 + lace.val) 0) 33 16 = fld v 33 16 := by
      unfold qEnabled qDepth regFld regBit
      rw [getReg_congr ht, getReg_setReg_same, hen, hdepth, hbase, h0]
      exact ⟨by simp, rfl, rfl⟩
    have hk : Keeps [.queues, .regs] s (setReg (qPage (256 + lace.val)) (qOff (256 + lace.val) 0)
        (laceCfgWord (getReg s (qPage (256 + lace.val)) (qOff (256 + lace.val) 0)) v) s) := (setReg_keeps ..).mono (by decide)
    split
    · obtain ⟨h1, h2, h3⟩ := hset _ (setQueue_fields ..).2.2.2.1
      refine ⟨h1, h2, h3, ?_, fun p hne => setQueue_otherQueuesSame _ _ _ p hne, (hk.step (setQueue_keeps ..)).1⟩
      simpa using hi
    · obtain ⟨h1, h2, h3⟩ := hset _ rfl
      exact ⟨h1, h2, h3, hi, fun _ _ => rfl, hk.1⟩

/-! ### Pools -/

theorem bit_and_mask {w : Word} {hi lo i : Nat} (h : lo ≤ i ∧ i ≤ hi) (hi64 : hi < 64) : bit (w &&& mask hi lo) i = bit w i := by
  have hm := bit_mask hi lo i
  unfold bit at *
  rw [BitVec.getLsbD_and, hm, decide_eq_true (by omega), Bool.and_true]

theorem mfind_mdel_ne {α : Type} {k j : Nat} (h : j ≠ k) (m : Map α) : mfind (mdel m k) j = mfind m j := by
  induction m with
  | nil => rfl
  | cons c m ih =>
    obtain ⟨i, w⟩ := c
    by_cases hk : k = i
    · subst hk
      simp [mdel, mfind, Ne.symm h]
    · by_cases hj : i = j
      · subst hj
        simp [mdel, mfind, hk]
      · simp [mdel, mfind, hk, hj, ih]

theorem mem_keys_of_mfind {α : Type} {m : Map α} {k : Nat} (h : (mfind m k).isSome = true) : k ∈ m.map (·.1) := by
  induction m with
  | nil => cases h
  | cons c m ih =>
    obtain ⟨i, w⟩ := c
    by_cases hi : i = k
    · simp [hi]
    · simp only [mfind, hi, if_false] at h
      exact List.mem_cons_of_mem _ (ih h)

/-- The indexes from `i` on, `n` of them, that name a free buffer. -/
def freeFrom (x : Pool) (i n : Nat) : List Nat := (List.range' i n).filter (fun j => (mfind x.alloc j).isNone)

theorem freeIdx_of_lt (x : Pool) {n i k : Nat} (h : k < (freeFrom x i n).length) :
    ∃ j, freeIdx x n i k = some j ∧ j < i + n ∧ mfind x.alloc j = none := by
  induction n generalizing i k with
  | zero => simp [freeFrom] at h
  | succ n ih =>
    have hsplit : freeFrom x i (n + 1) = if (mfind x.alloc i).isNone then i :: freeFrom x (i + 1) n else freeFrom x (i + 1) n := by
      rw [freeFrom, List.range'_succ, List.filter_cons]
      rfl
    rw [hsplit] at h
    unfold freeIdx
    by_cases hs : (mfind x.alloc i).isSome = true
    · have hn : ¬ (mfind x.alloc i).isNone = true := by simp [Option.isNone_iff_eq_none, Option.isSome_iff_ne_none.mp hs]
      rw [if_neg hn] at h
      obtain ⟨j, hj, hlt, hfree⟩ := ih h
      exact ⟨j, (if_pos hs).trans hj, by omega, hfree⟩
    · have hnone : mfind x.alloc i = none := by simpa using hs
      rw [if_neg hs]
      by_cases hk : k = 0
      · exact ⟨i, if_pos hk, by omega, hnone⟩
      · rw [if_pos (by simp [hnone]), List.length_cons] at h
        obtain ⟨j, hj, hlt, hfree⟩ := ih (k := k - 1) (i := i + 1) (by omega)
        exact ⟨j, (if_neg hk).trans hj, by omega, hfree⟩

/-- At least as many buffers are free as are not listed as allocated. -/
theorem length_freeFrom (x : Pool) (n : Nat) : n - x.alloc.length ≤ (freeFrom x 0 n).length := by
  have hsum := List.length_eq_length_filter_add (l := List.range' 0 n) (fun j => (mfind x.alloc j).isNone)
  have hused : ((List.range' 0 n).filter (fun j => !(mfind x.alloc j).isNone)).length ≤ (x.alloc.map (·.1)).length := by
    refine (List.Nodup.subperm ?_ ?_).length_le
    · exact List.Nodup.filter _ (List.nodup_range' ..)
    · intro j hj
      have : (!(mfind x.alloc j).isNone) = true := (List.mem_filter.mp hj).2
      exact mem_keys_of_mfind (by simpa using this)
  rw [List.length_range'] at hsum
  rw [List.length_map] at hused
  unfold freeFrom
  omega

theorem eye_mkEye {p i g : Nat} (hp : p < 64) (hi : i < 262144) (hg : g < 256) :
    eyePool (mkEye p i g) = p ∧ eyeIdx (mkEye p i g) = i ∧ eyeGen (mkEye p i g) = g := by
  unfold eyePool eyeIdx eyeGen nfld mkEye
  omega

theorem gen_pos_lt (x : Pool) (i : Nat) : 0 < x.gen i ∧ x.gen i < 256 := by
  unfold Pool.gen
  omega

theorem allocBuf_some {p holder : Nat} (hfree : 0 < poolFree s p) : ∃ i, i < poolCount s p ∧ mfind (getPool s p).alloc i = none ∧
    allocBuf p holder s = (some (mkEye p i ((getPool s p).gen i)),
      setPool p { getPool s p with alloc := mput (getPool s p).alloc i holder } (draw s).2) := by
  have hle : poolFree s p ≤ (freeFrom (getPool s p) 0 (poolCount s p)).length := by
    refine le_trans ?_ (length_freeFrom (getPool s p) (poolCount s p))
    unfold poolFree
    split
    · exact le_rfl
    · exact Nat.zero_le _
  obtain ⟨i, hi, hlt, hnone⟩ := freeIdx_of_lt (getPool s p) (lt_of_lt_of_le (Nat.mod_lt (Config.choose (draw s).1) hfree) hle)
  refine ⟨i, by omega, hnone, ?_⟩
  unfold allocBuf
  simp only [if_neg (Nat.pos_iff_ne_zero.mp hfree), hi]

theorem eyeValid_iff {e : Nat} : eyeValid s e = true ↔ eyeGen e ≠ 0 ∧
    (mfind (getPool s (eyePool e)).alloc (eyeIdx e)).isSome = true ∧ (getPool s (eyePool e)).gen (eyeIdx e) = eyeGen e := by
  unfold eyeValid
  simp [and_assoc]

theorem eyeValid_congr {t : State} {e : Nat} (h : getPool t (eyePool e) = getPool s (eyePool e)) : eyeValid t e = eyeValid s e := by
  unfold eyeValid
  rw [h]

/-- The generation of a released buffer is another (R52). -/
theorem gen_freeBuf_ne (x : Pool) (a : Map Nat) (i : Nat) :
    ({ x with adv := mput x.adv i (mget x.adv i 0 + 1), alloc := a } : Pool).gen i ≠ x.gen i := by
  unfold Pool.gen
  simp only [mget_mput, if_true]
  omega

theorem eyeValid_freeBuf_self {e : Nat} (h : eyeValid s e = true) : eyeValid (freeBuf e s) e = false := by
  obtain ⟨_, _, hgen⟩ := eyeValid_iff.mp h
  refine Bool.eq_false_iff.mpr fun hv => ?_
  obtain ⟨_, _, hnew⟩ := eyeValid_iff.mp hv
  have hpool : getPool (freeBuf e s) (eyePool e) = { getPool s (eyePool e) with
      adv := mput (getPool s (eyePool e)).adv (eyeIdx e) (mget (getPool s (eyePool e)).adv (eyeIdx e) 0 + 1),
      alloc := mdel (getPool s (eyePool e)).alloc (eyeIdx e) } := by simp [freeBuf]
  rw [hpool, ← hgen] at hnew
  exact gen_freeBuf_ne _ _ _ hnew

theorem eyeValid_freeBuf_other {e e' : Nat} (h : eyePool e' ≠ eyePool e ∨ eyeIdx e' ≠ eyeIdx e) :
    eyeValid (freeBuf e s) e' = eyeValid s e' := by
  by_cases hp : eyePool e' = eyePool e
  · have hi : eyeIdx e' ≠ eyeIdx e := h.resolve_left (· hp)
    unfold eyeValid freeBuf Pool.gen
    simp [hp, mfind_mdel_ne hi, hi]
  · refine eyeValid_congr ?_
    simp [freeBuf, hp]

theorem poolCfgEffect_enable {p : Nat} (hen : poolEn s p = false) (h19 : bit v 19 = true) (hn : 1 ≤ fld v 18 0)
    (hn' : fld v 18 0 ≤ 262144) (hb : 1 ≤ fld v 39 20)
    (hw : poolWindow s (poolBase s p) (fld v 18 0 * fld v 39 20 * 256) = true) : poolCfgEffect p v s =
      setPool p { getPool s p with era := (getPool s p).era + 1, alloc := [] } (setReg poolPage (poolOff p 8) (v &&& mask 39 0) s) := by
  have hen' : bit (getReg s poolPage (poolOff p 8)) 19 = false := hen
  unfold poolCfgEffect
  simp only [hen', h19, hn, hn', hb, hw, Bool.false_eq_true, if_false, if_true, and_self]

theorem poolCfgEffect_refused {p : Nat} (hen : poolEn s p = true)
    (hne : fld (getReg s poolPage (poolOff p 8)) 18 0 ≠ fld v 18 0) : poolCfgEffect p v s = raise poolPage 9 (poolOff p 8) s := by
  have hen' : bit (getReg s poolPage (poolOff p 8)) 19 = true := hen
  unfold poolCfgEffect
  simp [hen', hne]

theorem fld_and_mask {w : Word} {hi lo a b : Nat} (h : lo ≤ b ∧ a ≤ hi) (hi64 : hi < 64) : fld (w &&& mask hi lo) a b = fld w a b :=
  fld_eq_of_bits fun _ hb ha => bit_and_mask ⟨by omega, by omega⟩ hi64

theorem allocEffect_none {p : Nat} (h : poolFree s p ≤ reservedFor s p 256) : allocEffect p s = answer 0 s :=
  if_neg fun ⟨_, hlt⟩ => absurd hlt (Nat.not_lt.mpr h)

theorem allocEffect_some {p e : Nat} {t : State} (hen : poolEn s p = true) (h : reservedFor s p 256 < poolFree s p)
    (hr : allocBuf p 256 s = (some e, t)) : allocEffect p s = answer (word (e + 2 ^ 63)) t := by
  unfold allocEffect
  rw [if_pos ⟨hen, h⟩, hr]

theorem getPool_answer (w : Word) (s : State) (n : Nat) : getPool (answer w s) n = getPool s n := rfl

theorem releaseEffect_stale {p : Nat} (h : eyePool (fld v 31 0) ≠ p ∨ eyeValid s (fld v 31 0) = false) :
    releaseEffect p v s = raise poolPage 11 (poolOff p 0x18) s := by
  unfold releaseEffect releaseEye
  dsimp only
  by_cases hp : eyePool (fld v 31 0) = p
  · rw [if_pos hp, h.resolve_left (· hp)]
    rfl
  · rw [if_neg hp]

theorem releaseEffect_valid {p : Nat} (hp : eyePool (fld v 31 0) = p) (hv : eyeValid s (fld v 31 0) = true) :
    releaseEffect p v s = freeBuf (fld v 31 0) s := by
  unfold releaseEffect releaseEye
  dsimp only
  rw [if_pos hp, if_pos hv]

/-- Settles O12. -/
theorem poolsHandOutAndTakeBackBuffers : Obligations.PoolsHandOutAndTakeBackBuffers := by
  refine ⟨?enable, ?refuse, ?alloc, ?none, ?release, ?stale⟩
  case enable =>
    intro s who p v ha hen h19 hn hn' hb hw
    have hcfg := poolCfgEffect_enable hen h19 hn hn' hb hw
    refine ⟨_, congrArg Host.Outcome.next ((regGuard_admits ha).trans hcfg), ?_⟩
    have hreg (x : Pool) : getReg (setPool p.val x (setReg poolPage (poolOff p.val 8) (v &&& mask 39 0) s)) poolPage (poolOff p.val 8) =
        v &&& mask 39 0 := getReg_setReg_same ..
    have hen' (x : Pool) : poolEn (setPool p.val x (setReg poolPage (poolOff p.val 8) (v &&& mask 39 0) s)) p.val = true := by
      rw [poolEn, regBit, hreg, bit_and_mask (by decide) (by decide), h19]
    have hk (x : Pool) : Keeps [.pools, .regs] s (setPool p.val x (setReg poolPage (poolOff p.val 8) (v &&& mask 39 0) s)) :=
      .step ((setReg_keeps ..).mono (by decide)) (setPool_keeps ..)
    refine ⟨hen' _, ?_, ?_, fun e he => ?_, fun n hne => ?_, (hk _).1⟩
    · rw [poolFree, hen', if_pos rfl, poolCount, regFld, hreg, fld_and_mask (by decide) (by decide)]
      simp
    · rw [bufSize, regFld, hreg, fld_and_mask (by decide) (by decide)]
    · refine Bool.eq_false_iff.mpr fun h => ?_
      have := (eyeValid_iff.mp h).2.1
      simp [he, mfind] at this
    · simp only [getPool_setPool, if_neg hne]
      rfl
  case refuse =>
    intro s who p v ha hen hne
    exact ⟨_, congrArg Host.Outcome.next ((regGuard_admits ha).trans (poolCfgEffect_refused hen hne)),
      raisedAt_raise _ _ _ (by decide), raise_onlyChanges _ _ _ _⟩
  case alloc =>
    intro s who p hrst hen hcount _ _ hres
    obtain ⟨i, hi, hnone, hbuf⟩ := allocBuf_some (holder := 256) (Nat.lt_of_le_of_lt (Nat.zero_le _) hres)
    obtain ⟨hgen0, hgen256⟩ := gen_pos_lt (getPool s p.val) i
    obtain ⟨hpool, hidx, hgen⟩ := eye_mkEye p.isLt (lt_of_lt_of_le hi hcount) hgen256
    have hgo : exec (.poolAlloc who p) s = .next (allocEffect p.val s) := congrArg Host.Outcome.next (if_neg (by simp [hrst]))
    refine ⟨_, _, hgo.trans (congrArg Host.Outcome.next (allocEffect_some hen hres hbuf)), rfl, hpool, ?_, ?_, ?_, fun n hne => ?_, ?_⟩
    · rwa [hidx]
    · rwa [hidx]
    · rw [eyeValid_iff, getPool_answer, hpool, hidx, hgen, getPool_setPool, if_pos rfl]
      exact ⟨Nat.pos_iff_ne_zero.mp hgen0, by rw [mfind_mput, if_pos rfl]; rfl, rfl⟩
    · rw [getPool_answer, getPool_setPool, if_neg hne]
      rfl
    · have hk (x : Pool) : Keeps [.resp, .pools, .free] s (setPool p.val x (draw s).2) :=
        .step ((draw_keeps s).mono (by decide)) (setPool_keeps ..)
      exact ((hk _).step (answer_keeps ..)).1
  case none =>
    intro s who p h
    have hgo : exec (.poolAlloc who p) s = .next (answer 0 s) := by
      refine congrArg Host.Outcome.next ?_
      rw [allocEffect_none h]
      exact ite_self _
    exact ⟨_, hgo, rfl, answer_zero_onlyChanges⟩
  case release =>
    intro s who p v ha hp hv
    refine ⟨_, congrArg Host.Outcome.next ((regGuard_admits ha).trans (releaseEffect_valid hp hv)), eyeValid_freeBuf_self hv,
      fun e he => eyeValid_freeBuf_other ?_, (freeBuf_keeps ..).1⟩
    rwa [hp]
  case stale =>
    intro s who p v ha h
    exact ⟨_, congrArg Host.Outcome.next ((regGuard_admits ha).trans (releaseEffect_stale h)),
      raisedAt_raise _ _ _ (by decide), raise_onlyChanges _ _ _ _⟩

end Sys2Proof.Machine
end

section
/-! SUPPORT. The HBM controllers between the states of Table 8.2 (R230), and two statements about the Creamery and the HBM that
leave a hypothesis out. -/

namespace Sys2Proof.Machine

variable {s : State} {n : Nat}

/-! ### Requests to a controller -/

theorem raisedAt_stateRefused (n : Nat) (s : State) :
    raisedAt s (raise (hp n 0) 8 0x200 s) (hp n 0) 8 0x200 ∧ State.onlyChanges [.regs, .out, .sys] s (raise (hp n 0) 8 0x200 s) :=
  ⟨raisedAt_raise _ _ _ (by decide), raise_onlyChanges _ _ _ _⟩

/-- A stack set to a state with its request in HBM_CTL. -/
def hbmEntered (n req : Nat) (h : Hbm) (s : State) : State := setHbm n h (setReg (hp n 0) 0x200 (word req) s)

theorem getHbm_hbmEntered (n req m : Nat) (h : Hbm) (s : State) :
    getHbm (hbmEntered n req h s) m = if m = n then h else getHbm s m := getHbm_setHbm n m h _

theorem hbmEntered_onlyChanges {n req : Nat} {h : Hbm} {s : State} : State.onlyChanges [.regs, .hbm] s (hbmEntered n req h s) := by
  have hk : Keeps [.regs, .hbm] s (setReg (hp n 0) 0x200 (word req) s) := (setReg_keeps ..).mono (by decide)
  exact (hk.step (setHbm_keeps ..)).1

theorem getHbm_hbmEntered_other {req m : Nat} {h h' : Hbm} (hm : m ≠ n) :
    getHbm (hbmEntered n req h (setHbm n h' s)) m = getHbm s m := by
  rw [getHbm_hbmEntered, if_neg hm, getHbm_setHbm, if_neg hm]

theorem hbmRequest_init (ha : enAck s (hp n 0) = true) (h : (getHbm s n).state = 0) : hbmRequest n 1 s =
    hbmEntered n 1 { getHbm s n with initFail := false, state := 1 } (setHbm n { getHbm s n with initFail := false } s) := by
  unfold hbmRequest
  have hget (x : Hbm) : getHbm (setHbm n x s) n = x := by simp
  simp [ha, h, hbmEntered, hget]

theorem hbmRequest_active (ha : enAck s (hp n 0) = true) (h : (getHbm s n).state = 3) (hh : (getHbm s n).held = false)
    (ht : (getHbm s n).therm ≠ 3) : hbmRequest n 2 s = hbmEntered n 2 (serving (getHbm s n)) s := by
  unfold hbmRequest
  simp [ha, h, hh, ht, hbmEntered]

theorem hbmRequest_leaveTest (ha : enAck s (hp n 0) = true) (h : (getHbm s n).state = 4) :
    hbmRequest n 2 s = hbmEntered n 2 (serving (getHbm (leaveTest n s) n)) (leaveTest n s) := by
  unfold hbmRequest
  simp [ha, h, hbmEntered]

theorem hbmRequest_selfRefresh (ha : enAck s (hp n 0) = true) (h : (getHbm s n).state = 2) : hbmRequest n 3 s =
    hbmEntered n 3 { getHbm s n with byCrit := false, state := 3 } (setHbm n { getHbm s n with byCrit := false } s) := by
  unfold hbmRequest
  have hget (x : Hbm) : getHbm (setHbm n x s) n = x := by simp
  simp [ha, h, hbmEntered, hget]

theorem hbmRequest_test (ha : enAck s (hp n 0) = true) (h : (getHbm s n).state = 2) (hc : s.crm.normal = false)
    (hj : anyJobOpen s = false) (hall : ∀ m < 8, (getHbm s m).state ≠ 4) :
    hbmRequest n 4 s = hbmEntered n 4 { getHbm s n with state := 4 } s := by
  unfold hbmRequest
  have hnone : (List.range 8).all (fun m => (getHbm s m).state != 4) = true := by
    simpa using hall
  simp [ha, h, hc, hj, hnone, hbmEntered]

/-- TEST is refused where a condition of Table 8.2 fails. -/
theorem hbmRequest_test_refused (h : enAck s (hp n 0) = false ∨ s.crm.normal = true ∨ anyJobOpen s = true ∨ (getHbm s n).state ≠ 2 ∨
    ∃ m < 8, (getHbm s m).state = 4) : hbmRequest n 4 s = raise (hp n 0) 8 0x200 s := by
  unfold hbmRequest
  by_cases ha : enAck s (hp n 0) = false
  · simp [ha]
  · have hcond : ¬ ((getHbm s n).state = 2 ∧ s.crm.normal = false ∧ anyJobOpen s = false ∧
        (List.range 8).all (fun m => (getHbm s m).state != 4) = true) := by
      rintro ⟨h2, hc, hj, hall⟩
      rcases h with h | h | h | h | ⟨m, hm, h⟩
      · exact ha h
      · exact Bool.false_ne_true (hc.symm.trans h)
      · exact Bool.false_ne_true (hj.symm.trans h)
      · exact h h2
      · exact absurd h (by simpa using List.all_eq_true.mp hall m (List.mem_range.mpr hm))
    simp only [ha, if_false, Nat.reduceEqDiff, false_and, true_and, if_neg hcond, ite_self]

theorem hbmRequest_init_refused (h : enAck s (hp n 0) = false ∨ (getHbm s n).state ≠ 0) :
    hbmRequest n 1 s = raise (hp n 0) 8 0x200 s := by
  unfold hbmRequest
  rcases h with h | h <;> simp [h]

theorem hbmRequest_selfRefresh_refused (h : enAck s (hp n 0) = false ∨ (getHbm s n).state ≠ 2) :
    hbmRequest n 3 s = raise (hp n 0) 8 0x200 s := by
  unfold hbmRequest
  rcases h with h | h <;> simp [h]

theorem hbmRequest_active_refused (h : enAck s (hp n 0) = false ∨ (getHbm s n).state ≠ 3 ∧ (getHbm s n).state ≠ 4 ∨
    (getHbm s n).state = 3 ∧ ((getHbm s n).held = true ∨ (getHbm s n).therm = 3)) :
    hbmRequest n 2 s = raise (hp n 0) 8 0x200 s := by
  unfold hbmRequest
  rcases h with h | ⟨h3, h4⟩ | ⟨h3, h | h⟩
  · simp [h]
  · simp [h3, h4]
  · simp [h3, h]
  · simp [h3, h]

/-! ### Leaving TEST: the stack's content is lost, and nothing else -/

theorem cellGet_congr {d d' : Nat → Byte} {a : Nat} (h : d a = d' a) (m : List Host.Cell) : cellGet d m a = cellGet d' m a := by
  induction m with
  | nil => exact h
  | cons c m ih =>
    simp only [cellGet, ih]

theorem cellGet_filter {d : Nat → Byte} {p : Host.Cell → Bool} {a : Nat} (hp : ∀ v, p (a, v) = true) (m : List Host.Cell) :
    cellGet d (m.filter p) a = cellGet d m a := by
  induction m with
  | nil => rfl
  | cons c m ih =>
    obtain ⟨k, v⟩ := c
    by_cases hk : k = a
    · subst hk
      simp [hp v, cellGet]
    · by_cases hc : p (k, v) = true <;> simp [hc, hk, cellGet, ih]

/-- A byte that a loss of lines does not cover reads as before. -/
theorem memGet_memLose_lines {seed count a : Nat} {ls : List Nat} {m : Mem}
    (h : (Lost.lines seed count ls).covers a = false) : memGet (memLose (.lines seed count ls) m) a = memGet m a := by
  unfold memGet memLose
  refine (cellGet_filter (fun v => by simp [h]) m.cells).trans (cellGet_congr ?_ m.cells)
  show unlisted (.lines seed count ls :: m.lost) a = unlisted m.lost a
  simp [unlisted, h]

theorem winOf_hbm_of_lt {a : Nat} (h : a < 0x6000000000) : winOf a = .hbm := if_pos h

theorem leaveTest_mem {a : Nat} (h : winOf a ≠ .hbm ∨ lpcMap s (lineOf a % lpcCount s) % 8 ≠ n) :
    memGet (leaveTest n s).mem a = memGet s.mem a := by
  refine memGet_memLose_lines (m := s.mem) ?_
  show (decide (a < 0x6000000000) && (stackLpcs s n).contains (a / 256 % lpcCount s)) = false
  rcases h with h | h
  · have : ¬ a < 0x6000000000 := fun hlt => h (winOf_hbm_of_lt hlt)
    simp [this]
  · have hline : lineOf a = a / 256 := rfl
    rw [hline] at h
    simp [stackLpcs, h]

theorem getHbm_leaveTest (n m : Nat) (s : State) :
    getHbm (leaveTest n s) m = if m = n then { getHbm s n with voff := 0, marginBusy := false } else getHbm s m :=
  getHbm_setHbm n m _ s

theorem serving_state (h : Hbm) : (serving h).state = (if h.therm = 3 then 3 else 2) ∧ (serving h).voff = h.voff ∧
    (serving h).marginBusy = h.marginBusy := by
  unfold serving
  split <;> exact ⟨rfl, rfl, rfl⟩

theorem initDoneEffect_init (ok : Bool) (h : (getHbm s n).state = 1) : initDoneEffect n ok s =
    setHbm n { (if ok then serving (getHbm s n) else { getHbm s n with state := 0 }) with initFail := !ok } s := by
  unfold initDoneEffect
  simp [h]

/-- Settles O32: each request's branch, and what leaving TEST loses. -/
theorem hbmControllersChangeState : Obligations.HbmControllersChangeState := by
  refine ⟨?init, ?initDone, ?active, ?leaveTest, ?selfRefresh, ?test, ?testRefused, ?refused⟩
  case init =>
    intro s who n ha hack h
    refine ⟨_, congrArg Host.Outcome.next ((regGuard_admits ha).trans (hbmRequest_init hack h)), ?_, ?_, fun m hm => ?_, ?_⟩
    · rw [getHbm_hbmEntered, if_pos rfl]
    · rw [getHbm_hbmEntered, if_pos rfl]
    · exact getHbm_hbmEntered_other hm
    · have hk : Keeps [.regs, .hbm] s (hbmRequest n.val 1 s) := by
        rw [hbmRequest_init hack h]
        exact .step (.step ((setHbm_keeps ..).mono (by decide)) (setReg_keeps ..)) (setHbm_keeps ..)
      rw [hbmRequest_init hack h] at hk
      exact hk.1
  case initDone =>
    intro s n ok h
    refine ⟨_, congrArg Host.Outcome.next (initDoneEffect_init ok h), ?_, ?_, fun m hm => ?_, (setHbm_keeps ..).1⟩
    · rw [getHbm_setHbm, if_pos rfl]
      cases ok
      · rfl
      · exact (serving_state _).1
    · rw [getHbm_setHbm, if_pos rfl]
    · rw [getHbm_setHbm, if_neg hm]
  case active =>
    intro s who n ha hack h hh ht
    refine ⟨_, congrArg Host.Outcome.next ((regGuard_admits ha).trans (hbmRequest_active hack h hh ht)), ?_, fun m hm => ?_,
      hbmEntered_onlyChanges⟩
    · rw [getHbm_hbmEntered, if_pos rfl, (serving_state _).1, if_neg ht]
    · rw [getHbm_hbmEntered, if_neg hm]
  case leaveTest =>
    intro s who n ha hack h
    obtain ⟨hstate, hvoff, hbusy⟩ := serving_state (getHbm (leaveTest n.val s) n.val)
    rw [getHbm_leaveTest, if_pos rfl] at hstate hvoff hbusy
    refine ⟨_, congrArg Host.Outcome.next ((regGuard_admits ha).trans (hbmRequest_leaveTest hack h)), ?_, ?_, ?_, fun a hout => ?_, ?_⟩
    · rw [getHbm_hbmEntered, if_pos rfl, getHbm_leaveTest, if_pos rfl, hstate]
    · rw [getHbm_hbmEntered, if_pos rfl, getHbm_leaveTest, if_pos rfl, hvoff]
    · rw [getHbm_hbmEntered, if_pos rfl, getHbm_leaveTest, if_pos rfl, hbusy]
    · exact leaveTest_mem hout
    · have hk (x : Hbm) : Keeps [.regs, .hbm, .mem, .free] s (hbmEntered n.val 2 x (leaveTest n.val s)) :=
        .step (.step ((leaveTest_keeps ..).mono (by decide)) (setReg_keeps ..)) (setHbm_keeps ..)
      exact (hk _).1
  case selfRefresh =>
    intro s who n ha hack h
    refine ⟨_, congrArg Host.Outcome.next ((regGuard_admits ha).trans (hbmRequest_selfRefresh hack h)), ?_, fun m hm => ?_, ?_⟩
    · rw [getHbm_hbmEntered, if_pos rfl]
    · exact getHbm_hbmEntered_other hm
    · have hk (x y : Hbm) : Keeps [.regs, .hbm] s (hbmEntered n.val 3 x (setHbm n.val y s)) :=
        .step (.step ((setHbm_keeps ..).mono (by decide)) (setReg_keeps ..)) (setHbm_keeps ..)
      exact (hk _ _).1
  case test =>
    intro s who n ha hack h hc hj hall
    refine ⟨_, congrArg Host.Outcome.next ((regGuard_admits ha).trans (hbmRequest_test hack h hc hj hall)), ?_, fun m hm => ?_,
      hbmEntered_onlyChanges⟩
    · rw [getHbm_hbmEntered, if_pos rfl]
    · rw [getHbm_hbmEntered, if_neg hm]
  case testRefused =>
    intro s who n ha h
    exact ⟨_, congrArg Host.Outcome.next ((regGuard_admits ha).trans (hbmRequest_test_refused h)), raisedAt_stateRefused ..⟩
  case refused =>
    intro s who n c req bad hmem ha h
    simp only [List.mem_cons, List.not_mem_nil, or_false, Prod.mk.injEq] at hmem
    rcases hmem with ⟨rfl, rfl, rfl⟩ | ⟨rfl, rfl, rfl⟩ | ⟨rfl, rfl, rfl⟩
    · exact ⟨_, congrArg Host.Outcome.next ((regGuard_admits ha).trans (hbmRequest_init_refused h)), raisedAt_stateRefused ..⟩
    · exact ⟨_, congrArg Host.Outcome.next ((regGuard_admits ha).trans (hbmRequest_active_refused h)), raisedAt_stateRefused ..⟩
    · exact ⟨_, congrArg Host.Outcome.next ((regGuard_admits ha).trans (hbmRequest_selfRefresh_refused h)), raisedAt_stateRefused ..⟩

/-! ### Two statements that leave a hypothesis out -/

/-- Stack 0 in TEST with a margin pattern of one burst, and its controller not enabled. -/
def testStackDisabled : State := { hbm := [(0, { state := 4 })], regs := [(regKey (hp 0 3) 0x208, 1)] }

/-- Refutes O33: a controller whose EN is 0 takes no work, and then a write with GO only stores the offsets (`marginEffect`), where the
statement asks for a run. -/
theorem not_hbmTemperaturesRefreshAndMargins : ¬ Obligations.HbmTemperaturesRefreshAndMargins := by
  rintro ⟨_, _, _, _, hrun, _⟩
  obtain ⟨t, ht, hbusy, _⟩ := hrun testStackDisabled .last 0 0 (by decide) (by decide) (by decide) (by decide) (by decide)
    (by decide) (by decide)
  cases ht
  exact absurd (congrArg Hbm.marginBusy hbusy) (by decide)

/-- Two entries name the copy of slice 0: a map that no run of the model brings about, but a state that the statement speaks of. -/
def slice0CopiedTwice : State := { crm := { copying := [(0, []), (0, [])] } }

/-- Refutes O31: REHOME_DONE takes away the first entry of the slice alone (`mdel`), and the second still shows a copy. -/
theorem not_creameryModesAndScrubs : ¬ Obligations.CreameryModesAndScrubs := by
  rintro ⟨_, _, _, _, _, _, _, hrehome, _⟩
  obtain ⟨t, ht, _, hnone, _⟩ := hrehome slice0CopiedTwice 0 [] (by decide)
  cases ht
  exact absurd hnone (by decide)

end Sys2Proof.Machine
end

section
/-! SUPPORT. Power: the cap, the protectors, the input and the rails (R313-R329). -/

namespace Sys2Proof.Machine

/-! ### Setting bits of the status registers -/

theorem bit_intSts_intSet (page i : Nat) (s : State) (hi : i < 64) : bit (getReg (intSet page i s) page 0x38) i = true := by
  rw [getReg_intSet, if_pos rfl, bit_setBit _ _ _ hi]

theorem report_regs (page : Nat) (e : ErrEvent) (s : State) : (report page e s).regs = s.regs :=
  (report_keeps page e s).1 .regs (by decide)

/-- An error that is an event too changes the registers as the error alone does. -/
theorem raiseEv_regs (page i off : Nat) (e : ErrEvent) (s : State) : (raiseEv page i off e s).regs = (raise page i off s).regs := by
  unfold raiseEv
  dsimp only
  split
  · rfl
  · exact report_regs ..

theorem bit_errSts_raiseEv (page i off : Nat) (e : ErrEvent) (s : State) (hi : i < 64) :
    bit (getReg (raiseEv page i off e s) page 0x20) i = true := by
  rw [getReg_congr (raiseEv_regs ..)]
  exact bit_errSts_raise page i off s hi

/-! ### Interrupts change the module's own state in their pending identities only -/

/-- But for the interrupts pending in the cores, the module's own state is the same. -/
def IrqOnly (s t : State) : Prop := t.sys = { s.sys with imsic := t.sys.imsic }

theorem IrqOnly.refl {s : State} : IrqOnly s s := rfl

theorem IrqOnly.trans {s t u : State} (h : IrqOnly s t) (k : IrqOnly t u) : IrqOnly s u := by
  unfold IrqOnly at *
  rw [k, h]

theorem IrqOnly.of_eq {s t : State} (h : t.sys = s.sys) : IrqOnly s t := by
  unfold IrqOnly
  rw [h]

theorem IrqOnly.of_keeps {s t : State} {ps : List Part} (k : Keeps ps s t) (h : .sys ∉ ps := by decide) : IrqOnly s t :=
  .of_eq (k.1 .sys h)

/-- A first change that leaves the module's own state leaves nothing to show for it. -/
theorem IrqOnly.of_sys {s t u : State} (k : IrqOnly t u) (h : t.sys = s.sys) : IrqOnly s u := (IrqOnly.of_eq h).trans k

theorem IrqOnly.phase {s t : State} (h : IrqOnly s t) : t.sys.phase = s.sys.phase := by
  rw [IrqOnly] at h
  rw [h]

theorem deliver_irqOnly (target core vector : Nat) (s : State) : IrqOnly s (deliver target core vector s) := by
  unfold deliver
  split
  · exact .refl
  · split
    · exact rfl
    · exact .refl

theorem intSet_irqOnly (page i : Nat) (s : State) : IrqOnly s (intSet page i s) := by
  unfold intSet
  dsimp only
  split
  · exact IrqOnly.trans (.of_keeps (setReg_keeps ..)) (deliver_irqOnly ..)
  · exact .of_keeps (setReg_keeps ..)

theorem raise_irqOnly (page i off : Nat) (s : State) : IrqOnly s (raise page i off s) := by
  have hset (p o : Nat) (v : Word) (u : State) : IrqOnly u (setReg p o v u) := .of_keeps (setReg_keeps ..)
  unfold raise
  dsimp only
  split
  · exact hset ..
  · split
    · exact (hset ..).trans (intSet_irqOnly ..)
    · exact ((hset ..).trans (hset ..)).trans (intSet_irqOnly ..)

theorem setTrim_irqOnly (v : Int) (s : State) : IrqOnly s (setTrim v s) := by
  unfold setTrim
  dsimp only
  split
  · exact (raise_irqOnly ..).of_sys rfl
  · exact IrqOnly.refl.of_sys rfl

/-! ### What the start from reset keeps of the module's own state -/

/-- The power, the reset and the slot of the module are the same. -/
def ModuleSame (s t : State) : Prop :=
  t.sys.powered = s.sys.powered ∧ t.sys.released = s.sys.released ∧ t.sys.slot = s.sys.slot

theorem ModuleSame.refl {s : State} : ModuleSame s s := ⟨rfl, rfl, rfl⟩

theorem ModuleSame.trans {s t u : State} (h : ModuleSame s t) (k : ModuleSame t u) : ModuleSame s u :=
  ⟨k.1.trans h.1, k.2.1.trans h.2.1, k.2.2.trans h.2.2⟩

theorem ModuleSame.of_irqOnly {s t : State} (h : IrqOnly s t) : ModuleSame s t := by
  rw [IrqOnly] at h
  refine ⟨?_, ?_, ?_⟩ <;> rw [h]

theorem ModuleSame.of_keeps {s t : State} {ps : List Part} (k : Keeps ps s t) (h : .sys ∉ ps := by decide) : ModuleSame s t :=
  .of_irqOnly (.of_keeps k h)

/-- A first change that leaves the module's own state leaves nothing to show for it. -/
theorem ModuleSame.of_sys {s t u : State} (k : ModuleSame t u) (h : t.sys = s.sys) : ModuleSame s u :=
  (ModuleSame.of_irqOnly (.of_eq h)).trans k

theorem takeVt_moduleSame (s : State) : ModuleSame s (takeVt s) := by
  unfold takeVt
  split
  · exact .of_irqOnly ((setTrim_irqOnly ..).of_sys rfl)
  · exact .of_irqOnly (((setTrim_irqOnly ..).trans (raise_irqOnly ..)).of_sys rfl)

theorem applyEntry_moduleSame (s : State) (m : MapEnt) : ModuleSame s (applyEntry s m) := by
  have hopt {o : Option State} {ps : List Part} (h : OptKeeps ps s o) (hp : .sys ∉ ps) : ModuleSame s (o.getD s) := by
    cases o with
    | none => exact .refl
    | some u => exact .of_keeps h hp
  unfold applyEntry
  split
  · exact .of_keeps (setBlk_keeps ..)
  split
  · exact hopt (rehomeStart_keeps ..) (by decide)
  split
  · exact hopt (pcReplace_keeps ..) (by decide)
  split <;> exact .refl

theorem applyMapTab_moduleSame (s : State) : ModuleSame s (applyMapTab s) := by
  have hfold (l : List MapEnt) (u : State) : ModuleSame u (l.foldl applyEntry u) := by
    induction l generalizing u with
    | nil => exact .refl
    | cons m l ih => exact (applyEntry_moduleSame u m).trans (ih _)
  unfold applyMapTab
  refine ModuleSame.trans ?_ (hfold ..)
  split
  · exact .refl
  · exact (ModuleSame.of_keeps (journal_keeps ..)).of_sys rfl

/-- The start takes the slot and releases the reset. -/
theorem startUp_module (slot : Nat) (romOk : Bool) (reads : BitVec 2) (s : State) :
    (startUp slot romOk reads s).sys.powered = s.sys.powered ∧ (startUp slot romOk reads s).sys.released = true ∧
      (startUp slot romOk reads s).sys.slot = slot := by
  let s1 : State := { s with sys := { s.sys with slot := slot, released := true, phase := 1 } }
  suffices h : ModuleSame s1 (startUp slot romOk reads s) from h
  unfold startUp
  dsimp only
  split
  · exact .refl
  split
  · exact applyMapTab_moduleSame _
  · rename_i hb
    have hboot := (bootLast_keeps (fun i => reads.getLsbD i) (applyMapTab s1)).some hb
    exact ((applyMapTab_moduleSame s1).trans (.of_keeps hboot)).trans (takeVt_moduleSame _)

theorem coldState_isCold (s : State) : isCold s (coldState s) := by
  cases hp : s.sys.powered <;> simp [isCold, coldState, hp, coldSec, State.reset]

/-! ### The commands of PWR -/

theorem pwrCapEffect_stores {v : Word} {s : State} (hlo : 100 ≤ fld v 11 0) (hhi : fld v 11 0 ≤ s.pwr.ceil) :
    pwrCapEffect v s = storeReg pwr0 0x200 v s := if_neg (by omega)

theorem fld_storeReg_pwrCap (v : Word) (s : State) : regFld (storeReg pwr0 0x200 v s) pwr0 0x200 11 0 = fld v 11 0 := by
  have hrow : ∃ r, fieldsAt pwr0 0x200 = some r ∧ ∀ i < 12, bit (word r.rw) i = true ∧ bit (word r.w1c) i = false := by
    decide +kernel
  obtain ⟨r, hr, hbits⟩ := hrow
  rw [regFld, storeReg_eq hr, getReg_setReg_same]
  exact fld_eq_of_bits fun i _ hi => bit_merged (hbits i (by omega)).1 (hbits i (by omega)).2 _ _

theorem capUnmetEffect_raises {s : State} (h64 : 64 ≤ s.pwr.floorTicks) (hcap : s.pwr.limitW < s.pwr.pEst) : capUnmetEffect s =
    raiseEv pwr0 10 0 { mkEv pwr0 4 5 with locus := 10, detail := (getReg s pwr0 0x200).toNat }
      { s with pwr := { s.pwr with floorTicks := 0 } } := if_neg (by omega)

/-- What a droop makes of PWR: its rail's divider halves, and it counts as a trip. -/
def droopPwr (fabric : Bool) (p : Pwr) : Pwr :=
  if fabric then { p with droopFab := true, trip := true } else { p with droopArr := true, trip := true }

theorem droopEffect_taken {s : State} {fabric : Bool} {det : Nat} (hp : s.sys.powered = true) (hf : fabric = decide (16 ≤ det)) :
    droopEffect fabric det s = intSet pwr0 3 (bump pwr0 0 3 1 { s with pwr := (droopPwr fabric s.pwr).noteSlow }) := by
  unfold droopEffect
  rw [if_neg (by simp [hp, hf])]
  rfl

theorem fastEffect_taken {s : State} (hp : s.sys.powered = true) : fastEffect s =
    bump pwr0 0 4 1 { s with pwr := Pwr.noteSlow { s.pwr with fastHalf := true, trip := true } } := if_neg (by simp [hp])

theorem inputUvEffect_taken {s : State} {mv : Nat} (hp : s.sys.powered = true) (hmv : mv < 38000) : inputUvEffect mv s =
    raise pwr0 11 0 (setPwrThrot { s with pwr := s.pwr.toFloors.noteSlow }) := if_pos ⟨hp, hmv⟩

/-- PWR's limit reaches the controllers of a range of stacks. -/
theorem getHbm_foldl_pwrThrot (mem : Nat) (l : List Nat) (s : State) (n : Nat) :
    getHbm (l.foldl (fun u n => setHbm n { getHbm u n with pwrThrot := mem } u) s) n =
      if n ∈ l then { getHbm s n with pwrThrot := mem } else getHbm s n := by
  induction l generalizing s with
  | nil => rfl
  | cons m l ih =>
    rw [List.foldl_cons, ih, getHbm_setHbm]
    by_cases hnm : n = m
    · subst hnm; simp
    · simp [hnm]

theorem getHbm_setPwrThrot {s : State} {n : Nat} (hn : n < 8) :
    getHbm (setPwrThrot s) n = { getHbm s n with pwrThrot := s.pwr.mem } := by
  rw [setPwrThrot, getHbm_foldl_pwrThrot, if_pos (List.mem_range.mpr hn)]

theorem effM_of_half {p : Pwr} (hd : p.dropped = false) (hh : (p.fastHalf || p.droopArr) = true) : p.effM = p.mclk / 2 := by
  unfold Pwr.effM
  rw [if_pos hh, hd]
  rfl

theorem vinApply_poweredState {s : State} (h : s.sys.powered = false) : exec .vinApply s = .next (poweredState s) :=
  congrArg Host.Outcome.next (if_neg (by simp [h]))

theorem poweredState_low {s : State} (h : s.sys.high = none) : poweredState s =
    { coldState s with sys := { (coldState s).sys with powered := true } } := by
  have hh : (coldState s).sys.high = none := by
    rw [← h]; unfold coldState; dsimp only; split <;> rfl
  unfold poweredState
  simp only [hh]

/-- With RESET_N high already the applied input starts the module as a rise of RESET_N after it would. -/
theorem poweredState_high {s : State} {slot : Nat} {romOk : Bool} {reads : BitVec 2} (hp : s.sys.powered = false)
    (h : s.sys.high = some (slot, romOk, reads)) : poweredState s =
    resetReleaseEffect slot romOk reads (poweredState { s with sys := { s.sys with high := none } }) := by
  have hlow := poweredState_low (s := { s with sys := { s.sys with high := none } }) rfl
  rw [hlow]
  simp [poweredState, resetReleaseEffect, coldState, hp, h, calInUse, State.reset]

theorem poweredState_high_module {s : State} {slot : Nat} {romOk : Bool} {reads : BitVec 2}
    (h : s.sys.high = some (slot, romOk, reads)) :
    (poweredState s).sys.powered = true ∧ (poweredState s).sys.released = true ∧ (poweredState s).sys.slot = slot := by
  have hh : (coldState s).sys.high = some (slot, romOk, reads) := by
    rw [← h]; unfold coldState; dsimp only; split <;> rfl
  unfold poweredState
  simp only [hh]
  exact startUp_module ..

/-- Settles O44. -/
theorem powerProtectionActs : Obligations.PowerProtectionActs := by
  refine ⟨?cap, ?capRefused, ?unmet, ?droop, ?droopEnds, ?fast, ?range, ?uv, ?off, ?on, ?onHigh, ?rail⟩
  case cap =>
    intro s who v ha hlo hhi
    refine ⟨_, congrArg Host.Outcome.next ((regGuard_admits ha).trans (pwrCapEffect_stores hlo hhi)), fld_storeReg_pwrCap v s, ?_⟩
    exact (storeReg_keeps ..).1
  case capRefused =>
    intro s who v ha hbad
    refine ⟨_, congrArg Host.Outcome.next ((regGuard_admits ha).trans (if_pos hbad)), raisedAt_raise _ _ _ (by decide), ?_,
      raise_onlyChanges _ _ _ _⟩
    rw [getReg_raise]
    simp [regKey]
  case unmet =>
    intro s h64 hcap
    have hk := raiseEv_keeps pwr0 10 0 { mkEv pwr0 4 5 with locus := 10, detail := (getReg s pwr0 0x200).toNat }
      { s with pwr := { s.pwr with floorTicks := 0 } }
    exact ⟨_, congrArg Host.Outcome.next (capUnmetEffect_raises h64 hcap), hk.1 .pwr (by decide), bit_errSts_raiseEv _ _ _ _ _ (by decide),
      by rw [← capUnmetEffect_raises h64 hcap]; exact ((capUnmetEffect_keeps s).mono (by decide)).1⟩
  case droop =>
    intro s fabric det hp hf
    have hpwr : (droopEffect fabric det.val s).pwr = (droopPwr fabric s.pwr).noteSlow := by
      rw [droopEffect_taken hp hf, (intSet_keeps ..).1 .pwr (by decide), (bump_keeps ..).1 .pwr (by decide)]
    refine ⟨_, rfl, hpwr, ?_, ?_, ?_, ((droopEffect_keeps ..).mono (by decide)).1⟩
    · rintro rfl; rw [hpwr]; rfl
    · rintro rfl hd; rw [hpwr]; exact effM_of_half hd (by simp [droopPwr, Pwr.noteSlow])
    · rw [droopEffect_taken hp hf]; exact bit_intSts_intSet _ _ _ (by decide)
  case droopEnds =>
    intro s fabric
    refine ⟨_, rfl, ?_, ?_, ?_, ((Keeps.refl (ps := [.pwr])).set_pwr _).1⟩
    · rintro rfl; rfl
    · cases fabric <;> rfl
    · cases fabric <;> rfl
  case fast =>
    intro s c hc hp
    have hexec : exec c s = .next (fastEffect s) := by rcases hc with rfl | rfl <;> rfl
    have hpwr : (fastEffect s).pwr = Pwr.noteSlow { s.pwr with fastHalf := true, trip := true } := by
      rw [fastEffect_taken hp, (bump_keeps ..).1 .pwr (by decide)]
    refine ⟨_, hexec, hpwr, fun hd => ?_, ((fastEffect_keeps ..).mono (by decide)).1⟩
    rw [hpwr]
    exact effM_of_half hd rfl
  case range =>
    intro s mv hp hmv
    exact ⟨_, congrArg Host.Outcome.next (if_pos ⟨hp, hmv⟩), raisedAt_raise _ _ _ (by decide), raise_onlyChanges _ _ _ _⟩
  case uv =>
    intro s mv hp hmv
    have hpwr : (inputUvEffect mv s).pwr = s.pwr.toFloors.noteSlow := by
      rw [inputUvEffect_taken hp hmv, (raise_keeps ..).1 .pwr (by decide), (setPwrThrot_keeps ..).1 .pwr (by decide)]
    refine ⟨_, rfl, ?_, ?_, ?_, ?_, ?_, ?_, ?_, ((inputUvEffect_keeps ..).mono (by decide)).1⟩
    · rw [hpwr]; rfl
    · rw [hpwr]; rfl
    · rw [hpwr]; rfl
    · rw [hpwr]; rfl
    · intro hslow
      rw [hpwr] at hslow ⊢
      exact Bool.or_eq_true_iff.mpr (.inr (decide_eq_true hslow))
    · rw [inputUvEffect_taken hp hmv]; exact bit_errSts_raise _ _ _ _ (by decide)
    · intro n hn
      rw [hpwr, inputUvEffect_taken hp hmv, getHbm, (raise_keeps ..).1 .hbm (by decide)]
      exact getHbm_setPwrThrot hn
  case off =>
    intro s c hc hp
    have hexec : exec c s = .next (coldState s) := by
      rcases hc with rfl | rfl <;> exact congrArg Host.Outcome.next (if_pos hp)
    exact ⟨_, hexec, coldState_isCold s⟩
  case on =>
    intro s hp hh
    refine ⟨_, vinApply_poweredState hp, ?_⟩
    obtain ⟨_, hrel, htasks, hregs, _, _, hmap, _, hock, _⟩ := coldState_isCold s
    rw [poweredState_low hh]
    exact ⟨rfl, hrel, htasks, hregs, hmap, hock⟩
  case onHigh =>
    intro s id0 id1 id2 shaOk rsaOk reads hp hh
    refine ⟨_, _, vinApply_poweredState hp, rfl, ?_, ?_⟩
    · rw [vinApply_poweredState hp, poweredState_high hp hh]
    · rw [← poweredState_high hp hh]
      exact poweredState_high_module hh
  case rail =>
    intro s ok
    refine ⟨_, rfl, ?_, ?_, ?_, ((Keeps.refl (ps := [.pwr])).set_pwr _).1⟩
    · intro f hf
      cases ok <;> simp [Pwr.ramped, hf]
    · rintro hn rfl
      simp [Pwr.ramped, hn]
    · rintro hn rfl
      simp [Pwr.ramped, hn]

end Sys2Proof.Machine
end

section
/-! SUPPORT. The power decision of a boundary (R317, R318). -/

namespace Sys2Proof.Machine

/-! ### Cuts -/

/-- The points that cuts of MCLK go through, from the highest below it down to its floor. -/
def Pwr.downs (p : Pwr) : List Nat := (p.points.filter (fun f => decide (p.mclkFloor ≤ f ∧ f < p.mclk))).reverse

theorem Pwr.pointDown_eq (p : Pwr) : p.pointDown = p.downs.head? := by
  rw [Pwr.pointDown, Pwr.downs, List.head?_reverse]

/-- The next cut takes MCLK to the first point down and leaves the points below it. -/
theorem Pwr.downs_cut {p : Pwr} (hp : p.points.Pairwise (· < ·)) {f : Nat} {fs : List Nat} (h : p.downs = f :: fs) :
    ({ p with mclk := f } : Pwr).downs = fs := by
  have hsorted : p.downs.Pairwise (· > ·) := List.pairwise_reverse.mpr (hp.filter _)
  rw [h, List.pairwise_cons] at hsorted
  have hmem : ∀ g ∈ f :: fs, g < p.mclk := by
    intro g hg
    rw [← h, Pwr.downs, List.mem_reverse, List.mem_filter, decide_eq_true_eq] at hg
    exact hg.2.2
  have hf := hmem f List.mem_cons_self
  have hdowns : ({ p with mclk := f } : Pwr).downs = p.downs.filter (fun g => decide (g < f)) := by
    rw [Pwr.downs, Pwr.downs, List.filter_reverse, List.filter_filter]
    congr 1
    refine List.filter_congr fun g _ => ?_
    rw [← Bool.decide_and, decide_eq_decide]
    show p.mclkFloor ≤ g ∧ g < f ↔ g < f ∧ p.mclkFloor ≤ g ∧ g < p.mclk
    omega
  rw [hdowns, h, List.filter_cons_of_neg (by simp)]
  exact List.filter_eq_self.mpr fun g hg => decide_eq_true (hsorted.1 g hg)

theorem Pwr.cut_succ (n : Nat) (p : Pwr) : (Pwr.cut (n + 1) p).1 = match p.cutOne with
    | none => p
    | some q => (Pwr.cut n q).1 := by
  rw [Pwr.cut]
  cases p.cutOne <;> rfl

/-- No cut raises a level, and none prepares a rise. -/
theorem Pwr.cut_le (n : Nat) (p : Pwr) :
    (Pwr.cut n p).1.mclk ≤ p.mclk ∧ (Pwr.cut n p).1.duty ≤ p.duty ∧ (Pwr.cut n p).1.mem ≤ p.mem := by
  induction n generalizing p with
  | zero => exact ⟨le_rfl, le_rfl, le_rfl⟩
  | succ n ih =>
    have hone : ∀ q, p.cutOne = some q → q.mclk ≤ p.mclk ∧ q.duty ≤ p.duty ∧ q.mem ≤ p.mem := by
      intro q hq
      unfold Pwr.cutOne at hq
      split at hq
      · rename_i f hf
        cases hq
        have hmem : f ∈ p.downs := List.mem_of_head? ((Pwr.pointDown_eq p).symm.trans hf)
        rw [Pwr.downs, List.mem_reverse, List.mem_filter, decide_eq_true_eq] at hmem
        exact ⟨hmem.2.2.le, le_rfl, le_rfl⟩
      split at hq
      · cases hq
        exact ⟨le_rfl, Nat.sub_le .., le_rfl⟩
      split at hq
      · cases hq
        exact ⟨le_rfl, le_rfl, max_le (Nat.sub_le ..) (by omega)⟩
      · cases hq
    rw [Pwr.cut_succ]
    split
    · exact ⟨le_rfl, le_rfl, le_rfl⟩
    · rename_i q hq
      obtain ⟨h1, h2, h3⟩ := hone q hq
      obtain ⟨k1, k2, k3⟩ := ih q
      exact ⟨k1.trans h1, k2.trans h2, k3.trans h3⟩

/-- The levels that `n` cuts leave: the points of MCLK are cut first, then the duty, then the memory (Table 11.3). -/
theorem Pwr.cut_levels (n : Nat) (p : Pwr) (hp : p.points.Pairwise (· < ·)) :
    let a := n - p.downs.length
    let b := a - (p.duty - p.dutyFloor)
    let q := (Pwr.cut n p).1
    q.mclk = (p.mclk :: p.downs).getD (min n p.downs.length) 0 ∧ q.duty = p.duty - min a (p.duty - p.dutyFloor) ∧
      q.mem = min p.mem (max p.memFloor (p.mem - 10 * b)) ∧ q.rise = p.rise := by
  induction n generalizing p with
  | zero => exact ⟨by simp [Pwr.cut], by simp [Pwr.cut], by simp [Pwr.cut], rfl⟩
  | succ n ih =>
    dsimp only
    rw [Pwr.cut_succ]
    cases hd : p.downs with
    | cons f fs =>
      have hone : p.cutOne = some { p with mclk := f } := by
        unfold Pwr.cutOne
        rw [Pwr.pointDown_eq, hd]
        rfl
      obtain ⟨h1, h2, h3, h4⟩ := ih { p with mclk := f } hp
      rw [Pwr.downs_cut hp hd] at h1 h2 h3
      rw [hone]
      refine ⟨h1.trans ?_, h2.trans ?_, h3.trans ?_, h4⟩ <;>
        simp only [List.length_cons, Nat.add_min_add_right, List.getD_cons_succ, Nat.add_sub_add_right]
      · rfl
      · rfl
    | nil =>
      have hpt : p.pointDown = none := by rw [Pwr.pointDown_eq, hd]; rfl
      simp only [List.length_nil, Nat.min_zero, List.getD_cons_zero, Nat.sub_zero]
      by_cases hduty : p.dutyFloor < p.duty
      · have hone : p.cutOne = some { p with duty := p.duty - 1 } := by
          unfold Pwr.cutOne
          rw [hpt]
          exact if_pos hduty
        obtain ⟨h1, h2, h3, h4⟩ := ih { p with duty := p.duty - 1 } hp
        have hd' : ({ p with duty := p.duty - 1 } : Pwr).downs = [] := hd
        rw [hd'] at h1 h2 h3
        rw [hone]
        simp only [List.length_nil, Nat.min_zero, List.getD_cons_zero, Nat.sub_zero] at h1 h2 h3
        refine ⟨h1, h2.trans ?_, h3.trans ?_, h4⟩
        · show p.duty - 1 - min n (p.duty - 1 - p.dutyFloor) = _
          omega
        · show min p.mem (max p.memFloor (p.mem - 10 * (n - (p.duty - 1 - p.dutyFloor)))) = _
          congr 4
          omega
      · by_cases hmem : p.memFloor < p.mem
        · have hone : p.cutOne = some { p with mem := max (p.mem - 10) p.memFloor } := by
            unfold Pwr.cutOne
            rw [hpt]
            exact (if_neg hduty).trans (if_pos hmem)
          obtain ⟨h1, h2, h3, h4⟩ := ih { p with mem := max (p.mem - 10) p.memFloor } hp
          have hd' : ({ p with mem := max (p.mem - 10) p.memFloor } : Pwr).downs = [] := hd
          rw [hd'] at h1 h2 h3
          rw [hone]
          simp only [List.length_nil, Nat.min_zero, List.getD_cons_zero, Nat.sub_zero] at h1 h2 h3
          refine ⟨h1, h2.trans ?_, h3.trans ?_, h4⟩
          · show p.duty - min n (p.duty - p.dutyFloor) = _
            omega
          · show min (max (p.mem - 10) p.memFloor) (max p.memFloor (max (p.mem - 10) p.memFloor -
              10 * (n - (p.duty - p.dutyFloor)))) = _
            omega
        · have hone : p.cutOne = none := by
            unfold Pwr.cutOne
            rw [hpt]
            exact (if_neg hduty).trans (if_neg hmem)
          rw [hone]
          refine ⟨rfl, ?_, ?_, rfl⟩
          · show p.duty = _
            omega
          · show p.mem = _
            omega

/-! ### The decision -/

theorem loadPwrRegs_levels (s : State) : (loadPwrRegs s).pwr.mclk = s.pwr.mclk ∧ (loadPwrRegs s).pwr.duty = s.pwr.duty ∧
    (loadPwrRegs s).pwr.mem = s.pwr.mem := by
  unfold loadPwrRegs
  dsimp only
  split <;> exact ⟨rfl, rfl, rfl⟩

theorem dropBoost_sinceTrip (p : Pwr) (n : Nat) :
    dropBoost { p with sinceTrip := n } = ({ (dropBoost p).1 with sinceTrip := n }, (dropBoost p).2) := by
  unfold dropBoost
  by_cases h1 : p.fixed ∧ 3000 < p.mclk
  · rw [if_pos h1, if_pos (show ({ p with sinceTrip := n } : Pwr).fixed ∧ _ from h1)]
    rfl
  · rw [if_neg h1, if_neg (show ¬ (({ p with sinceTrip := n } : Pwr).fixed ∧ _) from h1)]
    by_cases h2 : p.fixed ∧ p.rise.any (fun f => decide (3000 < f)) = true
    · rw [if_pos h2, if_pos (show ({ p with sinceTrip := n } : Pwr).fixed ∧ _ from h2)]
    · rw [if_neg h2, if_neg (show ¬ (({ p with sinceTrip := n } : Pwr).fixed ∧ _) from h2)]

/-- The removal of a boost point raises no level. -/
theorem dropBoost_le (p : Pwr) : (dropBoost p).1.mclk ≤ p.mclk ∧ (dropBoost p).1.duty = p.duty ∧ (dropBoost p).1.mem = p.mem := by
  unfold dropBoost
  split
  · rename_i h
    refine ⟨?_, rfl, rfl⟩
    show ((p.points.filter (fun f => decide (f ≤ 3000))).getLast?).getD p.mclk ≤ p.mclk
    cases hl : (p.points.filter (fun f => decide (f ≤ 3000))).getLast? with
    | none => exact le_rfl
    | some f =>
      have hf := (List.mem_filter.mp (List.mem_of_getLast? hl)).2
      exact (of_decide_eq_true hf).trans h.2.le
  split <;> exact ⟨le_rfl, rfl, rfl⟩

theorem decideLevels_dropped {s : State} {p : Pwr} (h : (dropBoost p).1.dropped = true) :
    (decideLevels s p).1 = (dropBoost p).1.toFloors := by
  unfold decideLevels
  dsimp only
  rw [if_pos h]

theorem decideLevels_cut {s : State} {p : Pwr} (hd : (dropBoost p).1.dropped = false) (he : 0 < excess s (dropBoost p).1) :
    (decideLevels s p).1 = (Pwr.cut (min (fld (dropBoost p).1.loop 35 32)
      (cdiv (excess s (dropBoost p).1).toNat (max 1 (fld (dropBoost p).1.loop 11 0))))
      { (dropBoost p).1 with rise := none, settled := false }).1 := by
  unfold decideLevels
  dsimp only
  rw [if_neg (ne_true_of_eq_false hd), if_pos he]

/-- A settled rise is taken. -/
def Pwr.takeRise (p : Pwr) : Pwr :=
  match p.rise with
  | some f => if p.settled then { p with mclk := f, rise := none, settled := false } else p
  | none => p

/-- The levels with a settled rise taken, and a step restored where the margin is above HYST and nothing tripped. -/
def restoredAt (s : State) (p : Pwr) : Pwr :=
  if excess s p < -(fld p.loop 27 16 : Int) ∧ p.trip = false then p.takeRise.restoreOne else p.takeRise

/-- Without excess a settled rise is taken, one step is restored where the margin allows it, and a boost may be prepared. -/
theorem decideLevels_rest {s : State} {p : Pwr} (hd : (dropBoost p).1.dropped = false) (he : excess s (dropBoost p).1 ≤ 0) :
    (decideLevels s p).1 = restoredAt s (dropBoost p).1 ∨ (decideLevels s p).1 = (restoredAt s (dropBoost p).1).prepare := by
  have heq : (decideLevels s p).1 = if (dropBoost p).2 = 0 ∧ boostAllowed s (restoredAt s (dropBoost p).1) = true then
      (restoredAt s (dropBoost p).1).prepare else restoredAt s (dropBoost p).1 := by
    unfold decideLevels
    dsimp only
    rw [if_neg (ne_true_of_eq_false hd), if_neg (not_lt.mpr he)]
    rfl
  rw [heq]
  by_cases h : (dropBoost p).2 = 0 ∧ boostAllowed s (restoredAt s (dropBoost p).1) = true
  · exact .inr (if_pos h)
  · exact .inl (if_neg h)

/-- PWR as the decision takes it: the registers, and the count of ticks since the last trip moved on. -/
def countedPwr (s : State) : Pwr :=
  let p := (loadPwrRegs s).pwr
  { p with sinceTrip := if p.trip then 0 else p.sinceTrip + 1 }

/-- The levels decided for the new tick. -/
def newLevels (s : State) : Pwr := (decideLevels (loadPwrRegs s) (countedPwr s)).1

/-- The count of ticks since the last trip apart, boost removal leaves what the statement takes. -/
theorem dropBoost_countedPwr (s : State) :
    ∃ n, (dropBoost (countedPwr s)).1 = { (dropBoost (loadPwrRegs s).pwr).1 with sinceTrip := n } :=
  ⟨if (loadPwrRegs s).pwr.trip then 0 else (loadPwrRegs s).pwr.sinceTrip + 1,
    congrArg Prod.fst (dropBoost_sinceTrip (loadPwrRegs s).pwr _)⟩

theorem Pwr.prepareTo_levels (f : Nat) (p : Pwr) : (p.prepareTo f).mclk = p.mclk ∧ (p.prepareTo f).duty = p.duty ∧
    (p.prepareTo f).mem = p.mem := by
  unfold Pwr.prepareTo
  split <;> exact ⟨rfl, rfl, rfl⟩

/-- Preparing a boost moves no level and no rise already prepared. -/
theorem Pwr.prepare_levels (p : Pwr) : p.prepare.mclk = p.mclk ∧ p.prepare.duty = p.duty ∧ p.prepare.mem = p.mem ∧
    ∀ f, p.rise = some f → p.prepare.rise = some f := by
  unfold Pwr.prepare
  split
  · obtain ⟨h1, h2, h3⟩ := Pwr.prepareTo_levels (p.mclk + 100) p
    refine ⟨h1, h2, h3, fun f hf => ?_⟩
    unfold Pwr.prepareTo
    rw [hf]
    exact hf
  · exact ⟨rfl, rfl, rfl, fun _ h => h⟩

theorem Pwr.restoreOne_mclk (p : Pwr) : p.restoreOne.mclk = p.mclk := by
  unfold Pwr.restoreOne
  split
  · rfl
  split
  · rfl
  split
  · exact (Pwr.prepareTo_levels ..).1
  · rfl

theorem Pwr.restoreOne_mem {p : Pwr} (h : p.mem < 100) : p.restoreOne = { p with mem := min 100 (p.mem + 10) } := if_pos h

theorem Pwr.restoreOne_duty {p : Pwr} (hm : 100 ≤ p.mem) (h : p.duty < 16) : p.restoreOne = { p with duty := p.duty + 1 } :=
  (if_neg (by omega)).trans (if_pos h)

theorem Pwr.restoreOne_rise {p : Pwr} (hm : 100 ≤ p.mem) (h : 16 ≤ p.duty) :
    p.restoreOne.mem = p.mem ∧ p.restoreOne.duty = p.duty ∧
    ∀ f, p.rise = none → p.points.find? (fun f => decide (p.mclk < f ∧ f ≤ 3000)) = some f → p.restoreOne.rise = some f := by
  have heq : p.restoreOne = match p.points.find? (fun f => decide (p.mclk < f ∧ f ≤ 3000)) with
    | some f => p.prepareTo f
    | none => p := (if_neg (by omega)).trans (if_neg (by omega))
  rw [heq]
  split
  · rename_i g hg
    obtain ⟨_, h2, h3⟩ := Pwr.prepareTo_levels g p
    refine ⟨h3, h2, fun f hr hf => ?_⟩
    obtain rfl : g = f := Option.some.inj (hg.symm.trans hf)
    rw [Pwr.prepareTo, if_pos (by rw [hr]; rfl)]
  · rename_i hnone
    exact ⟨rfl, rfl, fun f _ hf => by rw [hnone] at hf; cases hf⟩

theorem Pwr.takeRise_levels (p : Pwr) : p.takeRise.duty = p.duty ∧ p.takeRise.mem = p.mem ∧ p.takeRise.points = p.points := by
  unfold Pwr.takeRise
  split
  · split <;> exact ⟨rfl, rfl, rfl⟩
  · exact ⟨rfl, rfl, rfl⟩

theorem Pwr.takeRise_none {p : Pwr} (h : p.rise = none) : p.takeRise = p := by
  unfold Pwr.takeRise
  rw [h]

theorem Pwr.takeRise_some {p : Pwr} {f : Nat} (h : p.rise = some f) : p.takeRise.mclk = if p.settled then f else p.mclk := by
  unfold Pwr.takeRise
  rw [h]
  dsimp only
  split <;> rfl

/-- The levels of `p` stand in `t`, and in its tick. -/
structure LevelsAre (p : Pwr) (t : State) : Prop where
  mclk : t.pwr.mclk = p.mclk
  duty : t.pwr.duty = p.duty
  mem : t.pwr.mem = p.mem
  rise : t.pwr.rise = p.rise
  tick : t.tck.mclk = p.mclk

/-- PWR as the decision leaves it. -/
def takenPwr (s : State) : Pwr :=
  let r := decideLevels (loadPwrRegs s) (countedPwr s)
  let q := r.1
  let q0 := { q with capLimit := capMark (loadPwrRegs s).pwr q r.2, fastHalf := false, dropped := false, trip := false,
                     floorTicks := if q.atFloor then q.floorTicks + 1 else 0 }
  { q0 with slow := decide (q0.effM < 3000) }

/-- The levels taken, before PWR tells of them. -/
def levelsTaken (s : State) : State :=
  { loadPwrRegs s with
    pwr := takenPwr s, tck := { (loadPwrRegs s).tck with mclk := (takenPwr s).mclk, fclk := (takenPwr s).fclk } }

theorem powerDecision_eq (s : State) : powerDecision s =
    capNotice (pwrCounts (decideLevels (loadPwrRegs s) (countedPwr s)).2 (s.pwr.fixed && s.pwr.slow)
      (if capMark (loadPwrRegs s).pwr (newLevels s) (decideLevels (loadPwrRegs s) (countedPwr s)).2 = true ∧
          (loadPwrRegs s).pwr.capLimit = false then intSet pwr0 1 (setPwrThrot (levelsTaken s))
        else setPwrThrot (levelsTaken s))) := rfl

theorem powerDecision_levels (s : State) : LevelsAre (newLevels s) (powerDecision s) := by
  have hthrot : Keeps [.out, .regs, .cnt, .hbm, .act, .lnk, .keys, .sys] (levelsTaken s) (setPwrThrot (levelsTaken s)) :=
    (setPwrThrot_keeps _).mono (by decide)
  have hk : Keeps [.out, .regs, .cnt, .hbm, .act, .lnk, .keys, .sys] (levelsTaken s) (powerDecision s) := by
    rw [powerDecision_eq]
    refine (Keeps.step ?_ (pwrCounts_keeps ..)).step (capNotice_keeps _)
    split
    · exact hthrot.step (intSet_keeps ..)
    · exact hthrot
  have hp : (powerDecision s).pwr = takenPwr s := hk.1 .pwr (by decide)
  have ht : (powerDecision s).tck.mclk = (takenPwr s).mclk := congrArg Tck.mclk (hk.1 .tck (by decide))
  constructor
  · rw [hp]; rfl
  · rw [hp]; rfl
  · rw [hp]; rfl
  · rw [hp]; rfl
  · rw [ht]; rfl

/-! ### What follows the decision at a boundary leaves the levels -/

/-- Power and the clock of the tick are the same. -/
def TickClockSame (s t : State) : Prop := t.pwr = s.pwr ∧ t.tck.mclk = s.tck.mclk

theorem TickClockSame.refl {s : State} : TickClockSame s s := ⟨rfl, rfl⟩

theorem TickClockSame.trans {s t u : State} (h : TickClockSame s t) (k : TickClockSame t u) : TickClockSame s u :=
  ⟨k.1.trans h.1, k.2.trans h.2⟩

theorem TickClockSame.of_keeps {s t : State} {ps : List Part} (k : Keeps ps s t) (hp : .pwr ∉ ps := by decide)
    (ht : .tck ∉ ps := by decide) : TickClockSame s t :=
  ⟨k.1 .pwr hp, congrArg Tck.mclk (k.1 .tck ht)⟩

theorem TickClockSame.foldl {α : Type} {f : State → α → State} (hf : ∀ a x, TickClockSame a (f a x)) (l : List α) (s : State) :
    TickClockSame s (l.foldl f s) := by
  induction l generalizing s with
  | nil => exact .refl
  | cons x l ih => exact (hf s x).trans (ih _)

theorem setSlot_tickClockSame (n : Nat) (v : JobSlot) (s : State) : TickClockSame s (setSlot n v s) := ⟨rfl, rfl⟩

theorem slotApply_tickClockSame (i : Nat) (v : Word) (s : State) : TickClockSame s (slotApply i v s) := by
  unfold slotApply
  dsimp only
  split
  · exact setSlot_tickClockSame ..
  split
  · exact setSlot_tickClockSame ..
  split
  · exact setSlot_tickClockSame ..
  split
  · exact ⟨rfl, rfl⟩
  · exact setSlot_tickClockSame ..

theorem slotE5_tickClockSame (s : State) (i : Nat) : TickClockSame s (slotE5 s i) := by
  unfold slotE5
  extract_lets j s1
  have hs1 : TickClockSame s s1 := by
    by_cases h : j.closing = true ∧ jobHolds s (fld j.w0 15 0) = false
    · rw [show s1 = _ from if_pos h]
      exact (setSlot_tickClockSame ..).trans (.of_keeps (freeJob_keeps ..))
    · rw [show s1 = s from if_neg h]
      exact .refl
  split
  · exact hs1
  · rename_i v _
    have hs2 := hs1.trans (setSlot_tickClockSame i { getSlot s1 i with staged := none } s1)
    split
    · exact hs2.trans (.of_keeps (raise_keeps ..))
    · exact hs2.trans (slotApply_tickClockSame ..)

theorem slotMap_tickClockSame (s : State) (i : Nat) : TickClockSame s (slotMap s i) := by
  unfold slotMap
  dsimp only
  split
  · exact .refl
  split
  · exact setSlot_tickClockSame ..
  split
  · exact .refl
  · exact (setSlot_tickClockSame ..).trans (.of_keeps (bump_keeps ..))

theorem setKeys_tickClockSame (m : Map LinkKey) (s : State) : TickClockSame s { s with keys := m } := ⟨rfl, rfl⟩

theorem phaseE5_tickClockSame (closed : Nat) (s : State) : TickClockSame s (phaseE5 closed s) := by
  unfold phaseE5
  extract_lets s1 s2 s3
  have hslots : TickClockSame s s1 := .foldl slotE5_tickClockSame ..
  have hmaps := hslots.trans (TickClockSame.foldl slotMap_tickClockSame (List.range 32) s1)
  have hwaits : TickClockSame s s2 := hmaps.trans (.of_keeps (closeWaits_keeps _))
  have hkeys : TickClockSame s2 s3 := setKeys_tickClockSame ..
  have hlast : TickClockSame s3 (reqBoundary closed (fwBoundary s3)) :=
    TickClockSame.trans (.of_keeps (fwBoundary_keeps _)) (.of_keeps (reqBoundary_keeps _ _))
  exact (hwaits.trans hkeys).trans hlast

/-- Phase A and what closes the boundary. -/
def admitAll (es : List Nat) (s : State) : State := doorRetry (stealNotice (es.foldl (fun u e => admitTick e u) s))

theorem admitAll_tickClockSame (es : List Nat) (s : State) : TickClockSame s (admitAll es s) := by
  have hadmit : TickClockSame s (es.foldl (fun u e => admitTick e u) s) :=
    .foldl (fun _ _ => .of_keeps (admitTick_keeps ..)) ..
  exact (hadmit.trans (.of_keeps (stealNotice_keeps _))).trans (.of_keeps (doorRetry_keeps _))

/-- What follows phase E5 at a boundary. -/
def afterE5 (s : State) : State := admitAll allEngines (freshWaits (hbmBoundary s))

theorem afterE5_tickClockSame (s : State) : TickClockSame s (afterE5 s) := by
  have hwaits : TickClockSame s (freshWaits (hbmBoundary s)) :=
    TickClockSame.trans (.of_keeps (hbmBoundary_keeps _)) (.of_keeps (freshWaits_keeps _))
  exact hwaits.trans (admitAll_tickClockSame ..)

theorem boundary_running {s : State} (hrel : s.sys.released = true) (hready : (getBlk s tckPage).ready = true)
    (hrun : running s = true) : boundary s =
    afterE5 (phaseE5 s.tck.num (powerDecision (phaseE3 (phaseE2 (outcomes (atOutcomes s)))))) := by
  have hrunM : running (phaseM s) = true := by
    have hrel : (phaseM s).rel = s.rel := (phaseM_keeps s).1 .rel (by decide)
    unfold running at *
    rwa [hrel]
  have h1 : ¬ (s.sys.released = false ∨ (getBlk s tckPage).ready = false) := by simp [hrel, hready]
  exact (if_neg h1).trans (if_neg (by simp [hrunM]))

/-- Past phase E4 of a boundary no level changes. -/
theorem boundary_levels {s : State} (hrel : s.sys.released = true) (hready : (getBlk s tckPage).ready = true)
    (hrun : running s = true) : LevelsAre (newLevels (phaseE3 (phaseE2 (outcomes (atOutcomes s))))) (boundary s) := by
  rw [boundary_running hrel hready hrun]
  obtain ⟨h1, h2, h3, h4, h5⟩ := powerDecision_levels (phaseE3 (phaseE2 (outcomes (atOutcomes s))))
  obtain ⟨hp, hm⟩ := (phaseE5_tickClockSame s.tck.num (powerDecision (phaseE3 (phaseE2 (outcomes (atOutcomes s)))))).trans
    (afterE5_tickClockSame _)
  constructor
  · rw [hp, h1]
  · rw [hp, h2]
  · rw [hp, h3]
  · rw [hp, h4]
  · rw [hm, h5]

/-- What R318 asks of the levels in `t`, where `u` is the state that reaches the decision. -/
def LevelsDecided (u t : State) : Prop :=
  let v := loadPwrRegs u
  let p := (dropBoost v.pwr).1
  let exc := excess v p
  let hyst : Int := fld p.loop 27 16
  let k := min (fld p.loop 35 32) (cdiv exc.toNat (max 1 (fld p.loop 11 0)))
  let downs := (p.points.filter (fun f => decide (p.mclkFloor ≤ f ∧ f < p.mclk))).reverse
  let a := k - downs.length
  let b := a - (p.duty - p.dutyFloor)
  t.tck.mclk = t.pwr.mclk ∧
      (0 < exc → t.pwr.mclk ≤ u.pwr.mclk ∧ t.pwr.duty ≤ u.pwr.duty ∧ t.pwr.mem ≤ u.pwr.mem) ∧
      (0 < exc → p.dropped = false → p.points.Pairwise (· < ·) →
        t.pwr.mclk = (p.mclk :: downs).getD (min k downs.length) 0 ∧ t.pwr.duty = p.duty - min a (p.duty - p.dutyFloor) ∧
        t.pwr.mem = min p.mem (max p.memFloor (p.mem - 10 * b)) ∧ t.pwr.rise = none) ∧
      (p.dropped = true → t.pwr.mclk = min p.mclk p.lowPoint ∧ t.pwr.duty = min p.duty p.dutyFloor ∧
        t.pwr.mem = min p.mem p.memFloor ∧ t.pwr.rise = none) ∧
      (exc ≤ 0 → p.dropped = false →
        (∀ f, p.rise = some f → t.pwr.mclk = if p.settled then f else p.mclk) ∧ (p.rise = none → t.pwr.mclk = p.mclk) ∧
        (-hyst ≤ exc ∨ p.trip = true → t.pwr.duty = p.duty ∧ t.pwr.mem = p.mem) ∧
        (exc < -hyst → p.trip = false → p.mem < 100 → t.pwr.mem = min 100 (p.mem + 10) ∧ t.pwr.duty = p.duty) ∧
        (exc < -hyst → p.trip = false → 100 ≤ p.mem → p.duty < 16 → t.pwr.mem = p.mem ∧ t.pwr.duty = p.duty + 1) ∧
        (exc < -hyst → p.trip = false → 100 ≤ p.mem → 16 ≤ p.duty → t.pwr.mem = p.mem ∧ t.pwr.duty = p.duty ∧
          ∀ f, p.rise = none → p.points.find? (fun f => decide (p.mclk < f ∧ f ≤ 3000)) = some f → t.pwr.rise = some f))

theorem excess_sinceTrip (s : State) (p : Pwr) (n : Nat) : excess s { p with sinceTrip := n } = excess s p := rfl

/-- The new levels are as R318 asks, by the three cases of `decideLevels`. -/
theorem LevelsAre.decided {u t : State} (h : LevelsAre (newLevels u) t) : LevelsDecided u t := by
  unfold LevelsDecided
  intro v p exc hyst k downs a b
  obtain ⟨hm, hd, hmem, hr, htick⟩ := h
  obtain ⟨n, hn⟩ := dropBoost_countedPwr u
  have hexc : excess (loadPwrRegs u) (dropBoost (countedPwr u)).1 = exc := by rw [hn, excess_sinceTrip]
  have hdrop : (dropBoost (countedPwr u)).1.dropped = p.dropped := by rw [hn]
  obtain ⟨hum, hud, humem⟩ := loadPwrRegs_levels u
  obtain ⟨hbm, hbd, hbmem⟩ := dropBoost_le v.pwr
  rw [← hdrop]
  refine ⟨htick.trans hm.symm, ?_, ?_, ?_, ?_⟩
  · intro hpos
    rw [hm, hd, hmem]
    cases hdr : (dropBoost (countedPwr u)).1.dropped with
    | true =>
      rw [newLevels, decideLevels_dropped hdr, hn]
      exact ⟨(min_le_left ..).trans (hbm.trans hum.le), (min_le_left ..).trans (hbd.le.trans hud.le),
        (min_le_left ..).trans (hbmem.le.trans humem.le)⟩
    | false =>
      rw [newLevels, decideLevels_cut hdr (hexc ▸ hpos)]
      obtain ⟨h1, h2, h3⟩ := Pwr.cut_le (min (fld (dropBoost (countedPwr u)).1.loop 35 32)
        (cdiv (excess (loadPwrRegs u) (dropBoost (countedPwr u)).1).toNat (max 1 (fld (dropBoost (countedPwr u)).1.loop 11 0))))
        { (dropBoost (countedPwr u)).1 with rise := none, settled := false }
      rw [hn] at *
      exact ⟨h1.trans (hbm.trans hum.le), h2.trans (hbd.le.trans hud.le), h3.trans (hbmem.le.trans humem.le)⟩
  · intro hpos hdr hpair
    rw [hm, hd, hmem, hr, newLevels, decideLevels_cut hdr (hexc ▸ hpos), hexc, hn]
    exact Pwr.cut_levels k { p with sinceTrip := n, rise := none, settled := false } hpair
  · intro hdr
    rw [hm, hd, hmem, hr, newLevels, decideLevels_dropped hdr, hn]
    exact ⟨rfl, rfl, rfl, rfl⟩
  · intro hle hdr
    have hrest : t.pwr.mclk = (restoredAt (loadPwrRegs u) (dropBoost (countedPwr u)).1).mclk ∧ t.pwr.duty = (restoredAt (loadPwrRegs u) (dropBoost (countedPwr u)).1).duty ∧
        t.pwr.mem = (restoredAt (loadPwrRegs u) (dropBoost (countedPwr u)).1).mem ∧ ∀ f, (restoredAt (loadPwrRegs u) (dropBoost (countedPwr u)).1).rise = some f → t.pwr.rise = some f := by
      rw [hm, hd, hmem, hr]
      rcases decideLevels_rest hdr (hexc ▸ hle) with h | h
      · rw [newLevels, h]; exact ⟨rfl, rfl, rfl, fun _ h => h⟩
      · rw [newLevels, h]; exact Pwr.prepare_levels _
    obtain ⟨r1, r2, r3, r4⟩ := hrest
    have hmclk : (restoredAt (loadPwrRegs u) (dropBoost (countedPwr u)).1).mclk = (dropBoost (countedPwr u)).1.takeRise.mclk := by
      unfold restoredAt
      split
      · exact Pwr.restoreOne_mclk _
      · rfl
    obtain ⟨t1, t2, t3⟩ := Pwr.takeRise_levels (dropBoost (countedPwr u)).1
    have hstay (h : -hyst ≤ exc ∨ p.trip = true) : restoredAt (loadPwrRegs u) (dropBoost (countedPwr u)).1 = (dropBoost (countedPwr u)).1.takeRise := by
      refine if_neg ?_
      rw [hexc, hn]
      rintro ⟨h1, h2⟩
      rcases h with h | h
      · exact absurd h1 (not_lt.mpr h)
      · exact absurd (h.symm.trans h2) (by decide)
    have hstep (h1 : exc < -hyst) (h2 : p.trip = false) : restoredAt (loadPwrRegs u) (dropBoost (countedPwr u)).1 = (dropBoost (countedPwr u)).1.takeRise.restoreOne := by
      refine if_pos ?_
      rw [hexc, hn]
      exact ⟨h1, h2⟩
    have hpm : (dropBoost (countedPwr u)).1.mem = p.mem := by rw [hn]
    have hpd : (dropBoost (countedPwr u)).1.duty = p.duty := by rw [hn]
    refine ⟨?_, ?_, ?_, ?_, ?_, ?_⟩
    · intro f hf
      rw [r1, hmclk, Pwr.takeRise_some (by rw [hn]; exact hf), hn]
    · intro hf
      rw [r1, hmclk, Pwr.takeRise_none (by rw [hn]; exact hf), hn]
    · intro h
      rw [r2, r3, hstay h, t1, t2, hpm, hpd]
      exact ⟨rfl, rfl⟩
    · intro h1 h2 h3
      rw [r2, r3, hstep h1 h2, Pwr.restoreOne_mem (by rw [t2, hpm]; exact h3)]
      exact ⟨by rw [← hpm, ← t2], by rw [← hpd, ← t1]⟩
    · intro h1 h2 h3 h4
      rw [r2, r3, hstep h1 h2, Pwr.restoreOne_duty (by rw [t2, hpm]; exact h3) (by rw [t1, hpd]; exact h4)]
      exact ⟨by rw [← hpm, ← t2], by rw [← hpd, ← t1]⟩
    · intro h1 h2 h3 h4
      obtain ⟨q1, q2, q3⟩ := Pwr.restoreOne_rise (p := (dropBoost (countedPwr u)).1.takeRise) (by rw [t2, hpm]; exact h3)
        (by rw [t1, hpd]; exact h4)
      rw [r2, r3, hstep h1 h2]
      refine ⟨q1.trans (t2.trans hpm), q2.trans (t1.trans hpd), fun f hf hfind => r4 f ?_⟩
      have hnone : (dropBoost (countedPwr u)).1.rise = none := by rw [hn]; exact hf
      rw [hstep h1 h2]
      refine q3 f ?_ ?_
      · rw [Pwr.takeRise_none hnone]; exact hnone
      · rw [Pwr.takeRise_none hnone, hn]; exact hfind

/-- Settles O45: the decision's levels are R318's, and what follows the decision at the boundary leaves them. -/
theorem noLevelRisesOverTheCap : Obligations.NoLevelRisesOverTheCap := by
  intro s hrel hready hrun
  exact ⟨_, rfl, (boundary_levels hrel hready hrun).decided⟩

end Sys2Proof.Machine
end

section
/-! SUPPORT. Clocks under judgement (R330-R333) and temperatures (R335, R336). -/

namespace Sys2Proof.Machine

/-! ### Windows -/

theorem Judge.window_pass (j : Judge) (dev : Int) (wins : Nat) : j.window true dev wins =
    { passes := j.passes + 1, fails := 0, stable := j.stable || decide (wins ≤ j.passes + 1), dev := dev } := rfl

theorem Judge.window_fail (j : Judge) (dev : Int) (wins : Nat) : j.window false dev wins =
    { j with passes := 0, fails := j.fails + 1, dev := dev } := rfl

/-- Whether a window of a clock passes. -/
def windowPass (s : State) (c : Clock) (count : Nat) : Bool :=
  decide (((count : Int) - windowN s c).natAbs ≤ windowTol s c)

/-- The judgement of a clock after a window. -/
def judgedOnce (s : State) (c : Clock) (count : Nat) : Judge :=
  (judgeOf s c).window (windowPass s c count) ((count : Int) - windowN s c) (judgeWins s)

/-- In phase 2 the oscillator's first window leads on. -/
def oscStarted (s : State) (c : Clock) : State :=
  if s.sys.phase = 2 ∧ c = .osc then { s with sys := { s.sys with phase := 3 } } else s

/-- The state in which a window is taken: it is counted. -/
def windowCounted (s : State) (c : Clock) (count : Nat) : State :=
  bump clkPage 0 (if windowPass s c count then 0 else 1) 1 (oscStarted s c)

theorem judgeEffect_taken {s : State} {c : Clock} (count : Nat) (h : judged s c = true) : judgeEffect c count s =
    match c with
    | .ref => refWindow (judgedOnce s c count) (windowCounted s c count)
    | .osc => oscWindow count (judgedOnce s c count) (windowCounted s c count)
    | .pll n => pllWindow n.val (judgedOnce s c count) (windowCounted s c count) := by
  unfold judgeEffect
  rw [if_neg (by simp [h])]
  cases c <;> rfl

theorem judgeEffect_untaken {s : State} {c : Clock} (count : Nat) (h : judged s c = false) : judgeEffect c count s = s := if_pos h

/-- Counting a window of another clock than the oscillator leaves everything but the counters. -/
theorem windowCounted_keeps {s : State} {c : Clock} (count : Nat) (h : c ≠ .osc) : Keeps [.cnt] s (windowCounted s c count) := by
  rw [windowCounted, show oscStarted s c = s from if_neg fun k => h k.2]
  exact bump_keeps ..

/-! ### The PLLs -/

/-- A PLL's judgement once two failures have made it unstable. -/
def unstabled (old j : Judge) : Judge := if (decide (2 ≤ j.fails) && old.stable) = true then { j with stable := false } else j

theorem pllWindow_clk (n : Nat) (j : Judge) (s : State) : (pllWindow n j s).clk =
    { s.clk with plls := mput s.clk.plls n (unstabled (mget s.clk.plls n {}) j) } := by
  have hfold (l : List Nat) (u : State) : (l.foldl (fun u p => setBlk p { getBlk u p with ready := true } u) u).clk = u.clk :=
    (Keeps.foldl (ps := [.blk]) .refl fun _ _ h => h.step (setBlk_keeps ..)).1 .clk (by decide)
  unfold pllWindow
  extract_lets old e unstable j1 s1
  by_cases h1 : unstable = true
  · rw [if_pos h1, (raiseEv_keeps ..).1 .clk (by decide)]
    rfl
  by_cases h2 : j.fails = 1 ∧ old.stable = true
  · rw [if_neg h1, if_pos h2, (report_keeps ..).1 .clk (by decide)]
    rfl
  rw [if_neg h1, if_neg h2]
  split
  · rw [hfold]
    rfl
  · rfl

theorem pllWindow_unstable {n : Nat} {j : Judge} {s : State} (h : (mget s.clk.plls n {}).stable = true) (hf : 2 ≤ j.fails) :
    bit (getReg (pllWindow n j s) clkPage 0x20) 10 = true := by
  unfold pllWindow
  extract_lets old e unstable j1 s1
  have hu : unstable = true := by
    show (decide (2 ≤ j.fails) && (mget s.clk.plls n {}).stable) = true
    rw [h, decide_eq_true hf]
    rfl
  rw [if_pos hu]
  exact bit_errSts_raiseEv _ _ _ _ _ (by decide)

/-- Blocks made ready are ready. -/
theorem ready_foldl_setReady {l : List Nat} {p : Nat} {s : State} (h : p ∈ l ∨ (getBlk s p).ready = true) :
    (getBlk (l.foldl (fun u q => setBlk q { getBlk u q with ready := true } u) s) p).ready = true := by
  induction l generalizing s with
  | nil => exact h.resolve_left List.not_mem_nil
  | cons q l ih =>
    refine ih ?_
    rw [getBlk_setBlk]
    by_cases hfp : firstPage p = firstPage q
    · exact .inr (by rw [if_pos hfp])
    · rcases h with h | h
      · rcases List.mem_cons.mp h with rfl | h
        · exact absurd rfl hfp
        · exact .inl h
      · exact .inr (by rw [if_neg hfp]; exact h)

theorem pllWindow_ready {n : Nat} {j : Judge} {s : State} (h : (mget s.clk.plls n {}).stable = false) (hj : j.stable = true)
    (hp : 4 ≤ s.sys.phase) : ∀ p ∈ pllPages n, (getBlk (pllWindow n j s) p).ready = true := by
  intro p hpl
  unfold pllWindow
  extract_lets old e unstable j1 s1
  have hold : old.stable = false := h
  have hu : unstable = false := by
    show (decide (2 ≤ j.fails) && old.stable) = false
    rw [hold, Bool.and_false]
  have hj1 : j1 = j := if_neg (by rw [hu]; decide)
  rw [if_neg (by rw [hu]; decide), if_neg (by rw [hold]; exact fun k => absurd k.2 (by decide)),
    if_pos ⟨by rw [hj1]; exact hj, hold, hp⟩]
  exact ready_foldl_setReady (.inl hpl)

/-! ### The reference -/

/-- The judgement of the reference moves its loss and its return. -/
theorem refWindow_clk (j : Judge) (s : State) :
    let lost := s.clk.ref.stable && !s.clk.refLost && decide (2 ≤ j.fails)
    let back := s.clk.refLost && decide (judgeWins s ≤ j.passes)
    (refWindow j s).clk = { s.clk with ref := j, refLost := (s.clk.refLost || lost) && !back, hold := (s.clk.hold || lost) && !back,
                                       refFail := s.clk.refFail && !back } := by
  intro lost back
  unfold refWindow
  extract_lets c lost' back' first old s1 e
  have hs1 : s1.clk = { s.clk with ref := j, refLost := (s.clk.refLost || lost) && !back, hold := (s.clk.hold || lost) && !back,
                                   refFail := s.clk.refFail && !back } := rfl
  rw [← hs1]
  split
  · rw [(raise_keeps ..).1 .clk (by decide), (intSet_keeps ..).1 .clk (by decide), (bump_keeps ..).1 .clk (by decide)]
  split
  · exact (intSet_keeps ..).1 .clk (by decide)
  split
  · exact (report_keeps ..).1 .clk (by decide)
  · rfl

/-- A reference that is lost comes back without an error. -/
theorem refWindow_back {j : Judge} {s : State} (hl : s.clk.refLost = true) (hj : judgeWins s ≤ j.passes) :
    bit (getReg (refWindow j s) clkPage 0x38) 1 = true ∧ Keeps [.out, .regs, .clk, .sys] s (refWindow j s) := by
  have hself : Keeps [.out, .regs, .clk, .sys] s s := .refl
  unfold refWindow
  extract_lets c lost back first old s1 e
  have hlost : lost = false := by simp [lost, c, hl]
  have hback : back = true := by simp [back, c, hl, hj]
  rw [hlost, hback, if_neg Bool.false_ne_true, if_pos rfl]
  refine ⟨bit_intSts_intSet _ _ _ (by decide), ?_⟩
  have hs1 : Keeps [.out, .regs, .clk, .sys] s s1 := (hself.set_clk s1.clk).set_sys s1.sys
  exact hs1.step (intSet_keeps ..)

/-! ### The oscillator -/

/-- A trim set at a value is in CLK with whether it stands at an end. -/
theorem setTrim_clk (v : Int) (s : State) : ∃ t l, (setTrim v s).clk = { s.clk with trim := t, trimLimit := l } := by
  unfold setTrim
  extract_lets t lim old s1
  refine ⟨t, lim, ?_⟩
  split
  · exact (raise_keeps ..).1 .clk (by decide)
  · rfl

/-- The trim apart, moving the trim leaves CLK. -/
theorem moveTrim_clk (d : Int) (s : State) : ∃ t l, (moveTrim d s).clk = { s.clk with trim := t, trimLimit := l } := by
  obtain ⟨t, l, h⟩ := setTrim_clk (s.clk.trim + d) (bump clkPage 0 2 1 s)
  exact ⟨t, l, by rw [moveTrim, h, (bump_keeps ..).1 .clk (by decide)]⟩

theorem moveTrim_irqOnly (d : Int) (s : State) : IrqOnly s (moveTrim d s) :=
  IrqOnly.trans (.of_keeps (bump_keeps ..)) (setTrim_irqOnly ..)

/-- What a window of the oscillator leaves in CLK. -/
theorem oscWindow_spec (count : Nat) (j : Judge) (s : State) :
    (oscWindow count j s).clk.kHz = count * 100000 / 4096 ∧ (oscWindow count j s).clk.osc = j ∧
    (trimSrc s ≠ 1 → (oscWindow count j s).clk.trim = s.clk.trim) ∧
    (oscWindow count j s).clk.trimLock = (s.clk.trimLock || j.stable) ∧ IrqOnly s (oscWindow count j s) := by
  unfold oscWindow
  extract_lets c lock sum full s1 lim s2
  have hs2 : s2.clk.kHz = count * 100000 / 4096 ∧ s2.clk.osc = j ∧ (trimSrc s ≠ 1 → s2.clk.trim = s.clk.trim) ∧
      s2.clk.trimLock = s.clk.trimLock ∧ IrqOnly s s2 := by
    by_cases h : full = true ∧ trimSrc s = 1
    · rw [show s2 = moveTrim _ s1 from if_pos h]
      obtain ⟨t, l, ht⟩ := moveTrim_clk (max (-lim) (min lim (-3 * ((sum : Int) - 65536)))) s1
      rw [ht]
      exact ⟨rfl, rfl, fun k => absurd h.2 k, rfl, (moveTrim_irqOnly _ s1).of_sys rfl⟩
    · rw [show s2 = s1 from if_neg h]
      exact ⟨rfl, rfl, fun _ => rfl, rfl, rfl⟩
  obtain ⟨h1, h2, h3, h4, h5⟩ := hs2
  by_cases hlock : lock = true
  · rw [if_pos hlock, (intSet_keeps ..).1 .clk (by decide)]
    have hj : j.stable = true := (Bool.and_eq_true _ _ ▸ hlock : _ ∧ _).2
    exact ⟨h1, h2, h3, by rw [hj, Bool.or_true], h5.trans ((intSet_irqOnly ..).of_sys rfl)⟩
  · rw [if_neg hlock]
    have hstay : s.clk.trimLock = (s.clk.trimLock || j.stable) := by
      cases hl : s.clk.trimLock with
      | true => rfl
      | false =>
        have hn : (!s.clk.trimLock && j.stable) = false := Bool.eq_false_iff.mpr hlock
        rw [hl] at hn
        exact hn.symm
    exact ⟨h1, h2, h3, h4.trans hstay, h5⟩

/-! ### Clocks stable -/

theorem firstPage_of_allBlocks {x : Block × Nat} (h : x ∈ allBlocks) : firstPage x.2 = x.2 := by
  obtain ⟨r, hr, hx⟩ := List.mem_flatMap.mp h
  obtain ⟨n, hn, rfl⟩ := List.mem_map.mp hx
  obtain ⟨hrow, hpages⟩ := blockRow_of_mem hr
  have hown := pageOwner_pageOf hr (List.mem_range.mp hn) hpages
  rw [Nat.add_zero] at hown
  have hp : pageOf r.block n 0 = r.first + n * r.pages := by rw [pageOf, hrow]; rfl
  rw [hp, firstPage_of_owner hown, hp]

/-- What making a block ready leaves and sets at a block's page. -/
theorem readyBlock_spec (s : State) (x : Block × Nat) (p : Nat) :
    (getBlk (readyBlock s x) p).mappedOut = (getBlk s p).mappedOut ∧
    ((getBlk s p).ready = true ∨ firstPage p = firstPage x.2 → (getBlk (readyBlock s x) p).ready = true) ∧
    (bit (getReg s p 0x10) 0 = true → bit (getReg (readyBlock s x) p 0x10) 0 = true) ∧
    (p = x.2 → enAtReset x.1 = false → (getBlk s p).mappedOut = false → bit (getReg (readyBlock s x) p 0x10) 0 = true) := by
  have hblk (q : Nat) : getBlk (setBlk x.2 { getBlk s x.2 with ready := true } s) q =
      if firstPage q = firstPage x.2 then { getBlk s x.2 with ready := true } else getBlk s q := getBlk_setBlk ..
  have hkept : (getBlk (setBlk x.2 { getBlk s x.2 with ready := true } s) p).mappedOut = (getBlk s p).mappedOut ∧
      ((getBlk s p).ready = true ∨ firstPage p = firstPage x.2 →
        (getBlk (setBlk x.2 { getBlk s x.2 with ready := true } s) p).ready = true) := by
    rw [hblk]
    by_cases h : firstPage p = firstPage x.2
    · rw [if_pos h, getBlk_eq_of_firstPage h]
      exact ⟨rfl, fun _ => rfl⟩
    · rw [if_neg h]
      exact ⟨rfl, fun k => k.resolve_right h⟩
  have hregs (q o : Nat) : getReg (setBlk x.2 { getBlk s x.2 with ready := true } s) q o = getReg s q o := rfl
  unfold readyBlock
  extract_lets b s1
  by_cases h : enAtReset x.1 = true ∨ b.mappedOut = true
  · rw [if_pos h]
    refine ⟨hkept.1, hkept.2, id, ?_⟩
    rintro rfl hen hm
    rcases h with h | h
    · exact absurd (hen.symm.trans h) (by decide)
    · exact absurd (hm.symm.trans h) (by decide)
  · rw [if_neg h]
    refine ⟨hkept.1, hkept.2, fun hb => ?_, ?_⟩
    · rw [getReg_setReg]
      split
      · exact bit_setBit _ _ _ (by decide)
      · exact hb
    · rintro rfl _ _
      rw [getReg_setReg_same]
      exact bit_setBit _ _ _ (by decide)

theorem foldl_readyBlock_spec (l : List (Block × Nat)) (s : State) (p : Nat) :
    ((getBlk s p).ready = true ∨ p ∈ l.map (·.2) → (getBlk (l.foldl readyBlock s) p).ready = true) ∧
    (bit (getReg s p 0x10) 0 = true → bit (getReg (l.foldl readyBlock s) p 0x10) 0 = true) ∧
    (∀ x ∈ l, p = x.2 → enAtReset x.1 = false → (getBlk s p).mappedOut = false →
      bit (getReg (l.foldl readyBlock s) p 0x10) 0 = true) := by
  induction l generalizing s with
  | nil => exact ⟨fun h => h.resolve_right List.not_mem_nil, id, fun x hx => absurd hx List.not_mem_nil⟩
  | cons y l ih =>
    obtain ⟨hmap, hready, hbit, hown⟩ := readyBlock_spec s y p
    obtain ⟨ih1, ih2, ih3⟩ := ih (readyBlock s y)
    refine ⟨fun h => ih1 ?_, fun h => ih2 (hbit h), fun x hx hp hen hm => ?_⟩
    · rcases h with h | h
      · exact .inl (hready (.inl h))
      · rcases List.mem_cons.mp h with h | h
        · exact .inl (hready (.inr (by rw [h])))
        · exact .inr h
    · rcases List.mem_cons.mp hx with rfl | hx
      · exact ih2 (hown hp hen hm)
      · exact ih3 x hx hp hen (hmap.trans hm)

/-- The state after the clocks of these blocks have become stable. -/
def clocksTaken (l : List (Block × Nat)) (s : State) : State :=
  let r := draw (l.foldl readyBlock s)
  { r.2 with tck := { r.2.tck with mclk := r.2.pwr.mclk, fclk := r.2.pwr.fclk }, sys := { r.2.sys with tickTime := Config.choose r.1 } }

theorem clocksEffect_taken {s : State} (h3 : s.sys.phase = 3) (hl : s.sys.lastUp = true) (hg : clocksGood s = true)
    (hr : (getBlk s tckPage).ready = false) : clocksEffect s = clocksTaken allBlocks s := if_neg (by simp [h3, hl, hg, hr])

theorem getBlk_clocksTaken (l : List (Block × Nat)) (s : State) (p : Nat) :
    getBlk (clocksTaken l s) p = getBlk (l.foldl readyBlock s) p := rfl

theorem getReg_clocksTaken (l : List (Block × Nat)) (s : State) (p o : Nat) :
    getReg (clocksTaken l s) p o = getReg (l.foldl readyBlock s) p o := rfl

theorem clocksTaken_tck (l : List (Block × Nat)) (s : State) :
    (clocksTaken l s).tck = { s.tck with mclk := s.pwr.mclk, fclk := s.pwr.fclk } := by
  have hk : Keeps [.regs, .blk] s (l.foldl readyBlock s) := Keeps.foldl .refl fun _ _ h => h.step (readyBlock_keeps ..)
  have htck : (l.foldl readyBlock s).tck = s.tck := hk.1 .tck (by decide)
  have hpwr : (l.foldl readyBlock s).pwr = s.pwr := hk.1 .pwr (by decide)
  rw [← htck, ← hpwr]
  rfl

/-- Settles O46. -/
theorem clocksAreJudgedAndStarted : Obligations.ClocksAreJudgedAndStarted := by
  refine ⟨?pll, ?refLost, ?refBack, ?osc, ?untaken, ?refFail, ?refStart, ?stable⟩
  case pll =>
    intro s n count hrel hlock hglide pass old
    have hj : judged s (.pll n) = true := by
      have hg : (n.val == 0 && s.pwr.gliding) = false := by
        rcases hglide with h | ⟨h1, h2⟩
        · rw [beq_false_of_ne h, Bool.false_and]
        · simp [Pwr.gliding, h1, h2]
      simp [judged, hrel, hlock, hg]
    have hk : Keeps [.cnt] s (windowCounted s (.pll n) count) := windowCounted_keeps count (by simp)
    have hclk : (windowCounted s (.pll n) count).clk = s.clk := hk.1 .clk (by decide)
    have hsys : (windowCounted s (.pll n) count).sys = s.sys := hk.1 .sys (by decide)
    have heq : judgeEffect (.pll n) count s =
        pllWindow n.val (judgedOnce s (.pll n) count) (windowCounted s (.pll n) count) := judgeEffect_taken count hj
    have hplls (m : Nat) : mget (judgeEffect (.pll n) count s).clk.plls m {} =
        if m = n.val then unstabled old (judgedOnce s (.pll n) count) else mget s.clk.plls m {} := by
      rw [heq, pllWindow_clk, hclk]
      exact mget_mput ..
    have hown := (hplls n.val).trans (if_pos rfl)
    have hpass : judgedOnce s (.pll n) count = old.window pass ((count : Int) - windowN s (.pll n)) (judgeWins s) := rfl
    refine ⟨_, rfl, ?_, ?_, ?_, ?_, ?_, ?_, ?_, (judgeEffect_keeps ..).1⟩
    · rw [hown, hpass, unstabled]
      cases pass <;> split <;> rfl
    · rw [hown, hpass, unstabled]
      cases pass <;> split <;> rfl
    · intro hst
      rw [hown, hpass, unstabled]
      cases pass with
      | true => simp [Judge.window_pass, hst]
      | false =>
        rw [Judge.window_fail]
        by_cases hf : old.fails = 0
        · simp [hst, hf]
        · simp [hst, hf, show 2 ≤ old.fails + 1 by omega]
    · intro hst
      rw [hown, hpass, unstabled]
      cases pass with
      | true => simp [Judge.window_pass, hst]
      | false => simp [Judge.window_fail, hst]
    · intro hst hp hw hph p hpl
      rw [heq]
      refine pllWindow_ready (by rw [hclk]; exact hst) ?_ (by rw [hsys]; exact hph) p hpl
      rw [hpass, hp, Judge.window_pass]
      simp [hw]
    · intro hst hp hf
      rw [heq]
      refine pllWindow_unstable (by rw [hclk]; exact hst) ?_
      rw [hpass, hp, Judge.window_fail]
      exact Nat.succ_le_succ hf
    · intro m hm
      rw [hplls, if_neg hm]
  case refLost =>
    intro s count hrel hst hl hdev
    have hk : Keeps [.cnt] s (windowCounted s .ref count) := windowCounted_keeps count (by simp)
    have hclk : (windowCounted s .ref count).clk = s.clk := hk.1 .clk (by decide)
    have heq : judgeEffect .ref count s = refWindow (judgedOnce s .ref count) (windowCounted s .ref count) :=
      judgeEffect_taken (c := .ref) count hrel
    have hpass : judgedOnce s .ref count =
        { s.clk.ref with passes := 0, fails := s.clk.ref.fails + 1, dev := (count : Int) - windowN s .ref } := by
      rw [judgedOnce, windowPass, decide_eq_false (by omega)]
      rfl
    refine ⟨_, rfl, ?_, ?_, ?_, ?_⟩
    · rw [heq, refWindow_clk, hpass]
    · rw [heq, refWindow_clk, hpass, hclk]
      simp [hl, hst]
    · rw [heq, refWindow_clk, hpass, hclk]
      simp [hl, hst]
    · rw [heq]
      have hall : Keeps [.out, .regs, .cnt, .rel, .clk, .sys] s (windowCounted s .ref count) := hk.mono (by decide)
      exact (hall.step (refWindow_keeps ..)).1
  case refBack =>
    intro s count hrel hl hdev hw
    have hk : Keeps [.cnt] s (windowCounted s .ref count) := windowCounted_keeps count (by simp)
    have hclk : (windowCounted s .ref count).clk = s.clk := hk.1 .clk (by decide)
    have hwins : judgeWins (windowCounted s .ref count) = judgeWins s := by
      rw [judgeWins, regFld, getReg_congr (hk.1 .regs (by decide))]
      rfl
    have heq : judgeEffect .ref count s = refWindow (judgedOnce s .ref count) (windowCounted s .ref count) :=
      judgeEffect_taken (c := .ref) count hrel
    have hpasses : (judgedOnce s .ref count).passes = s.clk.ref.passes + 1 := by
      rw [judgedOnce, windowPass, decide_eq_true hdev]
      rfl
    have hback : judgeWins (windowCounted s .ref count) ≤ (judgedOnce s .ref count).passes := by rw [hwins, hpasses]; exact hw
    have hlost : (windowCounted s .ref count).clk.refLost = true := by rw [hclk]; exact hl
    obtain ⟨hbit, hback'⟩ := refWindow_back hlost hback
    refine ⟨_, rfl, ?_, ?_, ?_, ?_, ?_⟩
    · rw [heq, refWindow_clk]
      simp [hlost, hback]
    · rw [heq, refWindow_clk]
      simp [hlost, hback]
    · rw [heq, refWindow_clk]
      simp [hlost, hback]
    · rw [heq]; exact hbit
    · rw [heq]
      have hall : Keeps [.out, .regs, .cnt, .clk, .sys] s (windowCounted s .ref count) := hk.mono (by decide)
      exact (hall.step hback').1
  case osc =>
    intro s count hrel hst hph
    have hj : judged s .osc = true := by simp [judged, hrel, hst, hph]
    have heq : judgeEffect .osc count s = oscWindow count (judgedOnce s .osc count) (windowCounted s .osc count) :=
      judgeEffect_taken (c := .osc) count hj
    have hself : Keeps [.out, .regs, .cnt, .clk, .sys] s s := .refl
    have hstart : Keeps [.out, .regs, .cnt, .clk, .sys] s (oscStarted s .osc) := by
      unfold oscStarted
      split
      · exact hself.set_sys _
      · exact hself
    have hk : Keeps [.out, .regs, .cnt, .clk, .sys] s (windowCounted s .osc count) := hstart.step (bump_keeps ..)
    have hphase : (windowCounted s .osc count).sys.phase = if s.sys.phase = 2 then 3 else s.sys.phase := by
      rw [windowCounted, (bump_keeps ..).1 .sys (by decide), oscStarted]
      by_cases h : s.sys.phase = 2
      · rw [if_pos ⟨h, rfl⟩, if_pos h]
      · rw [if_neg fun k => h k.1, if_neg h]
    have hcnt : Keeps [.cnt] (oscStarted s .osc) (windowCounted s .osc count) := bump_keeps ..
    have hclk : (windowCounted s .osc count).clk = s.clk := by
      rw [hcnt.1 .clk (by decide), oscStarted]
      split <;> rfl
    have hsrc : trimSrc (windowCounted s .osc count) = trimSrc s := by
      rw [trimSrc, regFld, getReg_congr (hcnt.1 .regs (by decide)), oscStarted]
      split <;> rfl
    obtain ⟨hkHz, hosc, htrim, hlock, hirq⟩ := oscWindow_spec count (judgedOnce s .osc count) (windowCounted s .osc count)
    rw [← heq] at hkHz hosc htrim hlock hirq
    refine ⟨_, rfl, hkHz, ?_, ?_, ?_, ?_, ?_⟩
    · rw [hosc, judgedOnce, windowPass]
      by_cases hdev : ((count : Int) - windowN s .osc).natAbs ≤ windowTol s .osc
      · rw [decide_eq_true hdev, Judge.window_pass]
        exact ⟨fun _ => hdev, fun _ => rfl⟩
      · rw [decide_eq_false hdev, Judge.window_fail]
        exact ⟨fun h => absurd h (Nat.succ_ne_zero _), fun h => absurd h hdev⟩
    · intro hne
      rw [htrim (by rw [hsrc]; exact hne), hclk]
    · rw [hlock, hosc, hclk]
    · rw [hirq.phase, hphase]
    · rw [heq]
      exact (hk.step (oscWindow_keeps ..)).1
  case untaken =>
    intro s c count h
    refine congrArg Host.Outcome.next (judgeEffect_untaken count ?_)
    rcases h with h | ⟨rfl, h⟩ | ⟨n, rfl, h⟩
    · cases c <;> simp [judged, h]
    · rcases h with h | h <;> simp [judged, h]
    · rcases h with h | ⟨h0, h | h⟩
      · simp [judged, h]
      · simp [judged, h0, Pwr.gliding, h]
      · simp [judged, h0, Pwr.gliding, h]
  case refFail =>
    intro s hl hf
    have heq : refFailEffect s = raise clkPage 12 0 { s with clk := { s.clk with refFail := true } } := if_pos ⟨hl, hf⟩
    have hself : Keeps [.out, .regs, .clk, .sys] s s := .refl
    refine ⟨_, congrArg Host.Outcome.next heq, (raise_keeps ..).1 .clk (by decide), bit_errSts_raise _ _ _ _ (by decide), ?_⟩
    exact ((hself.set_clk { s.clk with refFail := true }).step (raise_keeps ..)).1
  case refStart =>
    intro s hrel hst
    exact congrArg Host.Outcome.next (if_pos ⟨hrel, hst⟩)
  case stable =>
    intro s h3 hl hg hr
    refine ⟨clocksTaken allBlocks s, congrArg Host.Outcome.next (clocksEffect_taken h3 hl hg hr), ?_, ?_, clocksTaken_tck .., ?_⟩
    · intro x hx
      rw [getBlk_clocksTaken]
      exact (foldl_readyBlock_spec allBlocks s x.2).1 (.inr (List.mem_map_of_mem hx))
    · intro x hx hen hm
      rw [enabled, firstPage_of_allBlocks hx, regBit, getReg_clocksTaken]
      exact (foldl_readyBlock_spec allBlocks s x.2).2.2 x hx rfl hen hm
    · rw [← clocksEffect_taken h3 hl hg hr]
      exact (clocksEffect_keeps s).1

/-! ### Temperatures -/

/-- What readings of sensors leave: PWR but for the sensors, and the thresholds. -/
structure SensorsRead (s t : State) : Prop where
  pwr : t.pwr = { s.pwr with temps := t.pwr.temps }
  lim : getReg t pwr0 0x250 = getReg s pwr0 0x250
  keeps : Keeps [.out, .regs, .pwr, .sys] s t

theorem readSensor_read (s : State) (x : Nat × Option Int) : SensorsRead s (readSensor s x) := by
  suffices h : (readSensor s x).pwr = { s.pwr with temps := (readSensor s x).pwr.temps } ∧
      getReg (readSensor s x) pwr0 0x250 = getReg s pwr0 0x250 from ⟨h.1, h.2, readSensor_keeps s x⟩
  have hraise (u : State) : (raise pwr0 14 0 u).pwr = u.pwr ∧ getReg (raise pwr0 14 0 u) pwr0 0x250 = getReg u pwr0 0x250 := by
    refine ⟨(raise_keeps ..).1 .pwr (by decide), ?_⟩
    rw [getReg_raise]
    simp [regKey]
  unfold readSensor
  cases x.2 with
  | some c => exact ⟨rfl, rfl⟩
  | none =>
    dsimp only
    split
    · rw [(hraise _).1, (hraise _).2]
      exact ⟨rfl, rfl⟩
    · exact ⟨rfl, rfl⟩

theorem SensorsRead.foldl (l : List (Nat × Option Int)) (s : State) : SensorsRead s (l.foldl readSensor s) := by
  induction l generalizing s with
  | nil => exact ⟨rfl, rfl, .refl⟩
  | cons x l ih =>
    obtain ⟨h1, h2, h3⟩ := readSensor_read s x
    obtain ⟨k1, k2, k3⟩ := ih (readSensor s x)
    exact ⟨by rw [List.foldl_cons, k1, h1], k2.trans h2, h3.step k3⟩

/-- PWR with the limits of Table 11.7 applied to a hottest sensor at `t` degrees. -/
def limited (s : State) (t : Int) : Pwr :=
  let p := s.pwr
  let q := { p with maxTj := max p.maxTj t.toNat, thermLimit := hyst p.thermLimit t (throtC s), tjCrit := hyst p.tjCrit t (critC s) }
  (if critC s ≤ t then { q with dropped := true, rise := none, settled := false } else q).noteSlow

/-- At CRIT_C the clock drops to its floor at once and no rise stays prepared. -/
theorem limited_crit {s : State} {t : Int} (h : critC s ≤ t) : (limited s t).dropped = true ∧ (limited s t).tjCrit = true ∧
    (limited s t).rise = none ∧ (limited s t).effM = if (s.pwr.fastHalf || s.pwr.droopArr) = true then
      min s.pwr.mclk s.pwr.lowPoint / 2 else min s.pwr.mclk s.pwr.lowPoint := by
  have hcrit : hyst s.pwr.tjCrit t (critC s) = true := if_pos h
  unfold limited
  dsimp only
  rw [if_pos h, hcrit]
  exact ⟨rfl, rfl, rfl, rfl⟩

theorem limited_cool {s : State} {t : Int} (h : t < critC s) : (limited s t).dropped = s.pwr.dropped ∧
    (limited s t).effM = s.pwr.effM := by
  unfold limited
  dsimp only
  rw [if_neg (by omega)]
  exact ⟨rfl, rfl⟩

/-- The limits applied to the readings of `u` and told. -/
def dieTold (s u : State) (i : Nat) (c : Int) : State :=
  let v := thermInt s.pwr { u with pwr := limited u c }
  alertPin s (if hyst u.pwr.tjCrit c (critC u) = true ∧ s.pwr.tjCrit = false then
    raiseEv pwr0 13 0 { mkEv pwr0 4 0x0C with locus := i, detail := c.toNat } v else v)

theorem dieEffect_eq {s : State} {rs : List (Option Int)} {i : Nat} {c : Int} (hp : s.sys.powered = true)
    (hh : hottest (((List.range 48).zip rs).foldl readSensor s) = some (i, c)) :
    let u := dieTold s (((List.range 48).zip rs).foldl readSensor s) i c
    dieEffect rs s = if 120 ≤ c then failQuiet 3 0x0C i pwr0 c.toNat u else u := by
  unfold dieEffect
  rw [if_neg (by simp [hp])]
  dsimp only
  rw [hh]
  rfl

theorem dieTold_spec {s u : State} (i : Nat) (c : Int) (hu : Keeps [.out, .regs, .rel, .pwr, .sys] s u) :
    (dieTold s u i c).pwr = limited u c ∧ Keeps [.out, .regs, .rel, .pwr, .sys] s (dieTold s u i c) := by
  unfold dieTold
  extract_lets v
  have hlim : Keeps [.out, .regs, .rel, .pwr, .sys] s v := (hu.set_pwr (limited u c)).step (thermInt_keeps ..)
  have hpwr : v.pwr = limited u c := (thermInt_keeps ..).1 .pwr (by decide)
  have hpin (w : State) : (alertPin s w).pwr = w.pwr := (alertPin_keeps (ps := [.out]) (s := s) (u := w) .refl).1 .pwr (by decide)
  rw [hpin]
  split
  · exact ⟨((raiseEv_keeps ..).1 .pwr (by decide)).trans hpwr, alertPin_keeps (hlim.step (raiseEv_keeps ..))⟩
  · exact ⟨hpwr, alertPin_keeps hlim⟩

/-- Settles O47. -/
theorem temperaturesLimitTheClocks : Obligations.TemperaturesLimitTheClocks := by
  refine ⟨?die, ?inlet⟩
  case die =>
    intro s rs i c hp u floorM hh hc
    obtain ⟨husame, hlim, hukeeps⟩ := SensorsRead.foldl ((List.range 48).zip rs) s
    obtain ⟨hpwr, honly⟩ := dieTold_spec i c (hukeeps.mono (by decide))
    rw [← (dieEffect_eq hp hh).trans (if_neg (by omega))] at hpwr honly
    have hthr : throtC u = throtC s := by rw [throtC, thermLim, regFld, hlim]; rfl
    have hcrit : critC u = critC s := by rw [critC, thermLim, regFld, hlim]; rfl
    have hparts : (limited u c).maxTj = max u.pwr.maxTj c.toNat ∧ (limited u c).temps = u.pwr.temps ∧
        (limited u c).thermLimit = hyst u.pwr.thermLimit c (throtC u) ∧ (limited u c).mclk = u.pwr.mclk := by
      unfold limited Pwr.noteSlow
      dsimp only
      split <;> exact ⟨rfl, rfl, rfl, rfl⟩
    obtain ⟨h1, h2, h3, h4⟩ := hparts
    have hu : u.pwr = { s.pwr with temps := u.pwr.temps } := husame
    refine ⟨_, rfl, ?_, ?_, ?_, ?_, ?_, ?_, honly.1⟩
    · rw [hpwr, h1, hu]
    · rw [hpwr, h2]
    · rw [hpwr, h3, hu, hthr]
      rfl
    · intro hge
      rw [hpwr]
      obtain ⟨k1, k2, k3, k4⟩ := limited_crit (hcrit ▸ hge)
      rw [k4, hu]
      exact ⟨k1, k2, k3, rfl⟩
    · intro hlt
      rw [hpwr]
      obtain ⟨k1, k2⟩ := limited_cool (hcrit ▸ hlt)
      rw [k1, k2, hu]
      exact ⟨rfl, rfl⟩
    · rw [hpwr, h4, hu]
  case inlet =>
    intro s inlet outlet hp
    have heq : inletEffect inlet outlet s = alertPin s (thermInt s.pwr
        { s with pwr := { s.pwr with
            inlet := some inlet, outlet := some outlet,
            inletHigh := if inletHiC s < inlet then true else if inlet ≤ inletHiC s - 3 then false else s.pwr.inletHigh,
            inletCut := hyst s.pwr.inletCut inlet (inletCutC s) } }) := if_neg (by simp [hp])
    have hpin (v : State) : (alertPin s v).pwr = v.pwr := (alertPin_keeps (ps := [.out]) (s := s) (u := v) .refl).1 .pwr (by decide)
    have hpwr := congrArg State.pwr heq
    rw [hpin, (thermInt_keeps ..).1 .pwr (by decide)] at hpwr
    refine ⟨_, rfl, ?_, ?_, ?_, ?_, ?_, ((inletEffect_keeps ..).mono (by decide)).1⟩ <;> rw [hpwr]
    rfl

end Sys2Proof.Machine
end

section
/-! SUPPORT. The training of a link port (R249-R254). -/

namespace Sys2Proof.Machine

/-! ### Ports read after an update -/

theorem getPort_congr {s t : State} (h : t.lnk = s.lnk) (p : Nat) : getPort t p = getPort s p := by rw [getPort, getPort, h]

theorem getPort_of_keeps {s t : State} {ps : List Part} (k : Keeps ps s t) (p : Nat) (h : .lnk ∉ ps := by decide) :
    getPort t p = getPort s p := getPort_congr (k.1 .lnk h) p

theorem getPort_setPort (p q : Nat) (x : Port) (s : State) : getPort (setPort p x s) q = if q = p then x else getPort s q :=
  mget_mput ..

theorem getPort_setPort_same (p : Nat) (x : Port) (s : State) : getPort (setPort p x s) p = x := by
  rw [getPort_setPort, if_pos rfl]

/-- A register from 0x200 up is none that an error or an interrupt of a block writes. -/
theorem getReg_raise_high {o : Nat} (h : 0x200 ≤ o) (ho : o < 65536) (page i off p : Nat) (s : State) :
    getReg (raise page i off s) p o = getReg s p o := by
  have hkey (k : Nat) (hk : k < 0x200) : regKey p o ≠ regKey page k := by unfold regKey; omega
  rw [getReg_raise, if_neg (hkey 0x20 (by decide)), if_neg (hkey 0x38 (by decide)),
    if_neg (c := _ ∧ _) fun h => hkey 0x30 (by decide) h.1, ite_self]

theorem getReg_intSet_high {o : Nat} (h : 0x200 ≤ o) (ho : o < 65536) (page i p : Nat) (s : State) :
    getReg (intSet page i s) p o = getReg s p o := by
  rw [getReg_intSet, if_neg]
  unfold regKey
  omega

/-! ### The states of a port -/

/-- A port that has entered a state: DOWN and DISABLED lose its frames (R249, R254). -/
def Port.entered (x : Port) (new : Nat) : Port :=
  if x.state = new then { x with step := new }
  else { (if new = 8 ∨ new = 0 then { x with replay := [], replays := 0, rx := [] } else x) with state := new, step := new }

theorem getPort_portState (p new : Nat) (quiet : Bool) (s : State) (q : Nat) :
    getPort (portState p new quiet s) q = if q = p then (getPort s p).entered new else getPort s q := by
  unfold portState Port.entered
  extract_lets x lost y s1 s2
  by_cases hx : x.state = new
  · rw [if_pos hx, if_pos hx]
    exact getPort_setPort ..
  · rw [if_neg hx, if_neg hx]
    have hs2 : getPort s2 q = if q = p then { y with state := new, step := new } else getPort s q :=
      (getPort_of_keeps (intSet_keeps ..) q).trans (getPort_setPort ..)
    split
    · exact (getPort_of_keeps (raise_keeps ..) q).trans hs2
    · exact hs2

theorem Port.entered_state (x : Port) (new : Nat) : (x.entered new).state = new := by
  unfold Port.entered
  split
  · assumption
  · rfl

/-- Outside DOWN and DISABLED a port keeps everything but its state. -/
theorem Port.entered_of_ne {x : Port} {new : Nat} (h8 : new ≠ 8) (h0 : new ≠ 0) :
    x.entered new = { x with state := new, step := new } := by
  unfold Port.entered
  rw [if_neg (show ¬ (new = 8 ∨ new = 0) from fun h => h.elim h8 h0)]
  split
  · rename_i h
    rw [← h]
  · rfl

theorem Port.entered_down {x : Port} (h : x.state ≠ 8) :
    x.entered 8 = { x with replay := [], replays := 0, rx := [], state := 8, step := 8 } := by
  unfold Port.entered
  rw [if_neg h, if_pos (.inl rfl)]

theorem getReg_portState_high {o : Nat} (h : 0x200 ≤ o) (ho : o < 65536) (p new : Nat) (quiet : Bool) (s : State) (q : Nat) :
    getReg (portState p new quiet s) q o = getReg s q o := by
  unfold portState
  extract_lets x lost y s1 s2
  have hs2 : getReg s2 q o = getReg s q o := getReg_intSet_high h ho ..
  split
  · rfl
  split
  · exact (getReg_raise_high h ho ..).trans hs2
  · exact hs2

/-- An entry into DOWN that nothing but the port's training caused is an error (R249). -/
theorem bit_errSts_portState_down {p : Nat} {s : State} (h : (getPort s p).state ≠ 8) :
    bit (getReg (portState p 8 false s) (lp p 0) 0x20) 8 = true := by
  unfold portState
  extract_lets x lost y s1 s2
  rw [if_neg h, if_pos ⟨rfl, rfl⟩]
  exact bit_errSts_raise _ _ _ _ (by decide)

theorem portState_irqOnly (p new : Nat) (quiet : Bool) (s : State) : IrqOnly s (portState p new quiet s) := by
  unfold portState
  extract_lets x lost y s1 s2
  have hs2 : IrqOnly s s2 := (intSet_irqOnly ..).of_sys rfl
  split
  · exact .refl
  split
  · exact hs2.trans (raise_irqOnly ..)
  · exact hs2

/-- A quiet entry into DOWN leaves the error bits that stand. -/
theorem bit_errSts_portState_quiet {p i new : Nat} {s : State} (h : bit (getReg s (lp p 0) 0x20) i = true) :
    bit (getReg (portState p new true s) (lp p 0) 0x20) i = true := by
  unfold portState
  extract_lets x lost y s1 s2
  split
  · exact h
  · rw [if_neg fun k => absurd k.2 (by decide)]
    show bit (getReg (intSet (lp p 0) 1 s1) (lp p 0) 0x20) i = true
    rw [getReg_intSet, if_neg (errKeys (lp p 0)).2.2.1]
    exact h

/-! ### Training starts -/

theorem portEth_congr {s t : State} {p : Nat} (h : getReg t (lp p 0) 0x200 = getReg s (lp p 0) 0x200) : portEth t p = portEth s p := by
  rw [portEth, portEth, regBit, regBit, h]

/-- The port as its training starts. -/
def Port.trainStart (x : Port) (eth : Bool) : Port :=
  { x with mirrored := false, reversed := false, echoes := [] }.entered (if eth then 2 else 1)

theorem getPort_startTraining {p : Nat} {s : State} (h : takesWork s (lp p 0) = true) :
    getPort (startTraining p s) p = (getPort s p).trainStart (portEth s p) := by
  unfold startTraining
  rw [if_neg (by simp [h])]
  rw [getPort_of_keeps (autoneg_keeps ..), getPort_portState, if_pos rfl, getPort_setPort_same]
  rfl

theorem Port.trainStart_spec (x : Port) (eth : Bool) :
    (x.trainStart eth).state = (if eth then 2 else 1) ∧ (x.trainStart eth).echoes = [] := by
  refine ⟨Port.entered_state .., ?_⟩
  unfold Port.trainStart
  rw [Port.entered_of_ne (by cases eth <;> decide) (by cases eth <;> decide)]

/-- Leaving DISABLED changes no register of a configuration. -/
theorem getReg_leaveDisabled_high {o : Nat} (h : 0x200 ≤ o) (ho : o < 65536) (p : Nat) (s : State) (q : Nat) :
    getReg (leaveDisabled p s) q o = getReg s q o := by
  unfold leaveDisabled
  extract_lets cfg
  split
  · unfold startTraining
    split
    · rfl
    · exact (getReg_congr ((autoneg_keeps ..).1 .regs (by decide)) q o).trans (getReg_portState_high h ho ..)
  · rfl

/-! ### Steps -/

/-- The port after a training step: within RETRAIN the state stays. -/
def Port.trainedTo (x : Port) (step : Nat) : Port := if x.state = 7 then { x with step := step } else x.entered step

theorem getPort_trainStep (p step : Nat) (s : State) (q : Nat) :
    getPort (trainStep p step s) q = if q = p then (getPort s p).trainedTo step else getPort s q := by
  unfold trainStep
  extract_lets x s1
  have hs1 : getPort s1 q = if q = p then (getPort s p).trainedTo step else getPort s q := by
    unfold Port.trainedTo
    by_cases h : x.state = 7
    · rw [show s1 = _ from if_pos h, if_pos h]
      exact getPort_setPort ..
    · rw [show s1 = _ from if_neg h, if_neg h]
      exact getPort_portState ..
  split
  · exact (getPort_of_keeps (sendPatterns_keeps ..) q).trans hs1
  split
  · exact hs1
  · exact hs1

theorem Port.trainedTo_of_ne {x : Port} {step : Nat} (h8 : step ≠ 8) (h0 : step ≠ 0) :
    x.trainedTo step = { x with state := if x.state = 7 then 7 else step, step := step } := by
  unfold Port.trainedTo
  split
  · rename_i h
    rw [← h]
  · exact Port.entered_of_ne h8 h0

/-- A step taken from a state whose port stands as in `s` but for what the training keeps in it. -/
theorem trained_trainStep {s u : State} {p step : Nat} (h : (getPort u p).state = (getPort s p).state) (h8 : step ≠ 8) (h0 : step ≠ 0) :
    trained s (trainStep p step u) p step := by
  rw [trained, getPort_trainStep, if_pos rfl, Port.trainedTo_of_ne h8 h0, h]
  exact ⟨rfl, rfl⟩

theorem inStep_state {s : State} {p step : Nat} (h : inStep s p step = true) :
    (getPort s p).state = step ∨ (getPort s p).state = 7 := by
  unfold inStep at h
  simp only [Bool.and_eq_true, Bool.or_eq_true, beq_iff_eq] at h
  exact h.2

/-! ### IDENTIFY -/

theorem map_fst_zip_sublist {α β : Type} (as : List α) (bs : List β) : ((as.zip bs).map (·.1)).Sublist as := by
  induction as generalizing bs with
  | nil => exact List.Sublist.slnil
  | cons a as ih =>
    cases bs with
    | nil => exact List.nil_sublist _
    | cons b bs => exact (ih bs).cons_cons a

/-- The lanes of the port that are good are lanes of it in ascending order. -/
theorem goodLanes_sublist (s : State) (p : Nat) (ls : List LanePattern) :
    ((goodLanes s p ls).map (·.1)).Sublist (List.range 8) := by
  have hsub : (goodLanes s p ls).Sublist ((List.range 8).zip ls) := (List.filter_sublist).trans List.filter_sublist
  refine (hsub.map _).trans ?_
  exact map_fst_zip_sublist ..

/-- The masks of eight lanes and of fewer than four. -/
theorem laneMask_of_sublist : ∀ l ∈ (List.range 8).sublists,
    (l.length = 8 → (l.map (fun i => 2 ^ i)).sum = 255) ∧ (l.length < 4 → (l.map (fun i => 2 ^ i)).sum ≠ 255) := by
  decide +kernel

/-- The mask of the good lanes is full where there are eight of them, and not where there are fewer than four. -/
theorem goodMask (s : State) (p : Nat) (ls : List LanePattern) :
    ((goodLanes s p ls).length = 8 → ((goodLanes s p ls).map (fun z => 2 ^ z.1)).sum = 255) ∧
    ((goodLanes s p ls).length < 4 → ((goodLanes s p ls).map (fun z => 2 ^ z.1)).sum ≠ 255) := by
  have h := laneMask_of_sublist _ (List.mem_sublists.mpr (goodLanes_sublist s p ls))
  rw [List.length_map, List.map_map] at h
  exact h

/-- The lanes arrive in reversed order. -/
def lanesReversed (s : State) (p : Nat) (ls : List LanePattern) : Bool :=
  decide ((goodLanes s p ls).length = 8) && (goodLanes s p ls).all (fun z => z.2.lane.val == 7 - z.1)

/-- The port's lanes as IDENTIFY finds them, with the width and the order it settles. -/
def Port.identified (x : Port) (good used : List (Nat × LanePattern)) (x4 rev : Bool) : Port :=
  { x with good := (good.map (fun z => 2 ^ z.1)).sum, x4 := x4, reversed := rev,
           polInv := (good.map (fun z => if z.2.inverted then 2 ^ z.1 else 0)).sum, laneMap := mapWord used x.mirrored }

/-- Past the report of a reversed order IDENTIFY settles the width: a state `u` with the port so identified, from which the step
leads on, or to DOWN. -/
theorem identifyEffect_settles {s : State} {p : Nat} {ls : List LanePattern} {prev : Bool} {pgood : BitVec 8}
    (h : inStep s p 3 = true) (h1 : ¬ (lanesReversed s p ls = true ∧ prev = true ∧ (getPort s p).mirrored = false))
    (h2 : ¬ (lanesReversed s p ls = true ∧ (getPort s p).reversed = false)) :
    let good := goodLanes s p ls
    let both := decide ((good.map (fun z => 2 ^ z.1)).sum = 255 ∧ pgood.toNat = 255)
    let four := regBit s (lp p 0) 0x200 6 && decide (4 ≤ good.length ∧ 4 ≤ laneCount pgood.toNat)
    let used := if both then good else if four then good.take 4 else []
    ∃ u, getPort u p = (getPort s p).identified good used (!both && four) (lanesReversed s p ls) ∧
      identifyEffect p ls prev pgood s = if both || four then trainStep p 4 u else portState p 8 false u := by
  have hfold (l : List (Nat × LanePattern)) (c : Nat × LanePattern → ErrEvent) (u : State) :
      getPort (l.foldl (fun v z => report (lp p 0) (c z) v) u) p = getPort u p :=
    getPort_of_keeps (ps := [.rel]) (Keeps.foldl .refl fun _ _ h => h.step (report_keeps ..)) p
  intro good both four used
  unfold identifyEffect
  rw [if_neg (by simp [h])]
  extract_lets good' gm pol rev x cfg both' four' bad ev used' s1
  refine ⟨s1, ?_, ?_⟩
  · exact (hfold _ _ _).trans (getPort_setPort_same ..)
  · exact (if_neg h1).trans (if_neg h2)

/-- The patterns of the port's lanes. -/
theorem sendPatterns_out (p : Nat) (s : State) : (sendPatterns p s).out = s.out ++ (List.range 8).map (fun k =>
    Out.pattern p k (if (getPort s p).mirrored then 7 - k else k) (if devValid s then devNum s else 0x3FFF) (!devValid s)
      (getPort s p).reversed) := by
  have hfold (l : List Nat) (c : Nat → Out) (u : State) : (l.foldl (fun v k => emit (c k) v) u).out = u.out ++ l.map c := by
    induction l generalizing u with
    | nil => exact (List.append_nil _).symm
    | cons k l ih => rw [List.foldl_cons, ih, List.map_cons]; simp [emit]
  exact hfold ..

/-- The echo frames of DELAY. -/
theorem sendControls_out (n p type : Nat) (body : List Byte) (s : State) :
    ((List.range n).foldl (fun u _ => sendControl p type false body u) s).out =
      s.out ++ List.replicate n (frameOut p (frameWord (getPort s p).fseq (getPort s p).rseq type false) (padBody body)) ∧
    Keeps [.out, .cnt] s ((List.range n).foldl (fun u _ => sendControl p type false body u) s) := by
  induction n with
  | zero => exact ⟨(List.append_nil _).symm, .refl⟩
  | succ n ih =>
    obtain ⟨ih1, ih2⟩ := ih
    rw [List.range_succ, List.foldl_append, List.foldl_cons, List.foldl_nil]
    refine ⟨?_, ih2.step (sendControl_keeps ..)⟩
    have hout (w : Word) (bs : List Byte) (u : State) : (putFrame p w bs u).out = u.out ++ [frameOut p w bs] := by
      unfold putFrame
      rw [(bump_keeps ..).1 .out (by decide), (bump_keeps ..).1 .out (by decide)]
      rfl
    rw [sendControl, hout, getPort_of_keeps ih2, ih1, List.append_assoc, List.replicate_succ']

/-- Settles O34. -/
theorem trainingStepsLeadOn : Obligations.TrainingStepsLeadOn := by
  refine ⟨?detect, ?equalise, ?eight, ?reversed, ?four, ?few, ?align, ?alignEth⟩
  case detect =>
    intro s p signal hst hn
    refine ⟨_, rfl, ?_, (detectEffect_keeps ..).1⟩
    unfold detectEffect
    extract_lets s1 n src s2
    have hs2 : s2 = setPort p.val { getPort s1 p.val with signal := signal.toNat } s1 := if_pos hst
    rw [if_pos ⟨hst, hn⟩]
    refine trained_trainStep ?_ (by decide) (by decide)
    rw [hs2, getPort_setPort_same]
  case equalise =>
    intro s p rx tx s0 hst hl
    refine ⟨_, rfl, ?_, (equaliseEffect_keeps ..).1⟩
    have h0 : getReg s0 (lp p.val 0) 0x200 = getReg s (lp p.val 0) 0x200 := by
      by_cases he : portEth s p.val = true
      · rw [show s0 = _ from if_pos he]
        exact getReg_leaveDisabled_high (by decide) (by decide) ..
      · rw [show s0 = _ from if_neg he]
    have hrel : s0.rel = s.rel := by
      by_cases he : portEth s p.val = true
      · rw [show s0 = _ from if_pos he]
        exact (leaveDisabled_keeps ..).1 .rel (by decide)
      · rw [show s0 = _ from if_neg he]
    have heth : portEth s0 p.val = portEth s p.val := portEth_congr h0
    have hlock : locksEnough s0 p.val rx.toNat tx.toNat = true := by
      rw [← hl]
      unfold locksEnough laneOut phyLanes regFld
      rw [heth, h0, hrel]
    have heq : equaliseEffect p.val rx tx s = trainStep p.val (if portEth s p.val then 4 else 3) s0 := by
      rw [← heth]
      exact if_pos ⟨hst, hlock⟩
    rw [heq]
    refine trained_trainStep rfl ?_ ?_ <;> split <;> decide
  case eight =>
    intro s p ls hst hsum hrev
    refine ⟨_, rfl, ?_⟩
    have hn : ¬ (lanesReversed s p.val ls = true ∧ (getPort s p.val).reversed = false) := by
      rintro ⟨h1, h2⟩
      rcases hrev with h | ⟨z, hz, hne⟩
      · exact absurd (h.symm.trans h2) (by decide)
      · have hall := (Bool.and_eq_true _ _ ▸ h1 : _ ∧ _).2
        exact hne (eq_of_beq (List.all_eq_true.mp hall z hz))
    obtain ⟨u, hu, heq⟩ := identifyEffect_settles (prev := false) (pgood := 255) hst (fun h => absurd h.2.1 (by decide)) hn
    have hboth : decide (((goodLanes s p.val ls).map (fun z => 2 ^ z.1)).sum = 255 ∧ (255 : BitVec 8).toNat = 255) = true :=
      decide_eq_true ⟨hsum, rfl⟩
    rw [hboth] at hu heq
    rw [if_pos rfl] at hu
    have hkeeps := (identifyEffect_keeps p.val ls false 255 s).1
    rw [heq, Bool.true_or, if_pos rfl] at hkeeps ⊢
    refine ⟨trained_trainStep (by rw [hu]; rfl) (by decide) (by decide), ?_, ?_, ?_, hkeeps⟩ <;>
      rw [getPort_trainStep, if_pos rfl, Port.trainedTo_of_ne (by decide) (by decide), hu]
    · exact hsum
    · rfl
    · rfl
  case reversed =>
    intro s p ls rev good hst hlen hall x mirrors hor
    have hlr : lanesReversed s p.val ls = true := by
      rw [lanesReversed, decide_eq_true hlen, Bool.true_and]
      exact List.all_eq_true.mpr fun z hz => beq_iff_eq.mpr (hall z hz)
    have hsend (y : Port) : getPort (sendPatterns p.val (setPort p.val y s)) p.val = y :=
      (getPort_of_keeps (sendPatterns_keeps ..) _).trans (getPort_setPort_same ..)
    have hout (y : Port) (hy : y.reversed = true) : (sendPatterns p.val (setPort p.val y s)).out = s.out ++ (List.range 8).map
        (fun k => Out.pattern p.val k (if y.mirrored then 7 - k else k) (if devValid s then devNum s else 0x3FFF) (!devValid s) true) := by
      rw [sendPatterns_out, getPort_setPort_same, hy]
      rfl
    have hkeeps (y : Port) : State.onlyChanges [.out, .lnk] s (sendPatterns p.val (setPort p.val y s)) := by
      have hset : Keeps [.out, .lnk] s (setPort p.val y s) := (setPort_keeps ..).mono (by decide)
      exact (hset.step (sendPatterns_keeps ..)).1
    by_cases hm : mirrors
    · refine ⟨_, congrArg Host.Outcome.next ((if_neg (by simp [hst])).trans (if_pos ⟨hlr, hm⟩)), ?_, fun _ => ?_,
        fun h => absurd hm h, ?_, ?_, ?_, hkeeps _⟩
      all_goals rw [hsend]
      exact hout _ rfl
    · have hrev := hor.resolve_left hm
      refine ⟨_, congrArg Host.Outcome.next ((if_neg (by simp [hst])).trans ((if_neg fun h => hm h.2).trans (if_pos ⟨hlr, hrev⟩))),
        ?_, fun h => absurd h hm, fun _ => ?_, ?_, ?_, ?_, hkeeps _⟩
      all_goals rw [hsend]
      exact hout _ rfl
  case four =>
    intro s p ls good hst hcfg hlen hcount hsum
    have hn : lanesReversed s p.val ls = false := by
      rw [lanesReversed, decide_eq_false fun h => hsum ((goodMask s p.val ls).1 h), Bool.false_and]
    obtain ⟨u, hu, heq⟩ := identifyEffect_settles (prev := false) (pgood := good) hst (fun h => absurd h.2.1 (by decide))
      (fun h => absurd (hn.symm.trans h.1) (by decide))
    rw [decide_eq_false (fun h => hsum h.1), hcfg, decide_eq_true ⟨hlen, hcount⟩] at hu heq
    have hkeeps := (identifyEffect_keeps p.val ls false good s).1
    refine ⟨_, rfl, ?_⟩
    change identifyEffect p.val ls false good s = trainStep p.val 4 u at heq
    rw [heq] at hkeeps ⊢
    refine ⟨trained_trainStep (by rw [hu]; rfl) (by decide) (by decide), ?_, ?_, hkeeps⟩ <;>
      rw [getPort_trainStep, if_pos rfl, Port.trainedTo_of_ne (by decide) (by decide), hu] <;> rfl
  case few =>
    intro s p ls rev good hst hlen
    have hn : lanesReversed s p.val ls = false := by
      rw [lanesReversed, decide_eq_false (by omega), Bool.false_and]
    obtain ⟨u, hu, heq⟩ := identifyEffect_settles (prev := rev) (pgood := good) hst
      (fun h => absurd (hn.symm.trans h.1) (by decide)) (fun h => absurd (hn.symm.trans h.1) (by decide))
    rw [decide_eq_false (fun h => (goodMask s p.val ls).2 hlen h.1),
      decide_eq_false (p := 4 ≤ _ ∧ _) (fun h => by omega), Bool.and_false] at heq
    have hkeeps := (identifyEffect_keeps p.val ls rev good s).1
    refine ⟨_, rfl, ?_⟩
    change identifyEffect p.val ls rev good s = portState p.val 8 false u at heq
    rw [heq] at hkeeps ⊢
    have hne : (getPort u p.val).state ≠ 8 := by
      rw [hu]
      rcases inStep_state hst with h | h <;> exact fun k => absurd (h.symm.trans k) (by decide)
    refine ⟨?_, bit_errSts_portState_down hne, ?_, hkeeps⟩
    · rw [getPort_portState, if_pos rfl, Port.entered_state]
    · rw [getPort_portState, if_pos rfl, Port.entered_down hne]
  case align =>
    intro s p hst heth
    have hstep := getPort_trainStep p.val 5 (setPort p.val { getPort s p.val with echoes := [] } s) p.val
    rw [if_pos rfl, getPort_setPort_same, Port.trainedTo_of_ne (by decide) (by decide)] at hstep
    obtain ⟨hout, hk⟩ := sendControls_out 16 p.val 5 [] (trainStep p.val 5 (setPort p.val { getPort s p.val with echoes := [] } s))
    have heq : alignEffect p.val s = (List.range 16).foldl (fun u _ => sendControl p.val 5 false [] u)
        (trainStep p.val 5 (setPort p.val { getPort s p.val with echoes := [] } s)) :=
      (if_neg (by simp [hst])).trans (if_neg (by simp [heth]))
    refine ⟨_, (trainStep p.val 5 (setPort p.val { getPort s p.val with echoes := [] } s)).out, rfl, ?_, ?_, ?_,
      (alignEffect_keeps ..).1⟩
    · rw [heq, trained, getPort_of_keeps hk, hstep]
      exact ⟨rfl, rfl⟩
    · rw [heq, getPort_of_keeps hk, hstep]
    · rw [heq, hout, hstep]
  case alignEth =>
    intro s p hst heth
    have heq : alignEffect p.val s = portState p.val 6 false s := (if_neg (by simp [hst])).trans (if_pos heth)
    refine ⟨_, congrArg Host.Outcome.next heq, ?_, ((portState_keeps ..).mono (by decide)).1⟩
    rw [getPort_portState, if_pos rfl, Port.entered_state]

/-! ### ACTIVE and DOWN -/

/-- What going on ACTIVE leaves of a port: its state and what it knows of the partner. -/
def PartnerSame (x y : Port) : Prop :=
  y.state = x.state ∧ y.peerDev = x.peerDev ∧ y.peerPort = x.peerPort ∧ y.peerValid = x.peerValid ∧ y.delay = x.delay

theorem PartnerSame.refl {x : Port} : PartnerSame x x := ⟨rfl, rfl, rfl, rfl, rfl⟩

theorem PartnerSame.trans {x y z : Port} (h : PartnerSame x y) (k : PartnerSame y z) : PartnerSame x z := by
  obtain ⟨h1, h2, h3, h4, h5⟩ := h
  obtain ⟨k1, k2, k3, k4, k5⟩ := k
  exact ⟨k1.trans h1, k2.trans h2, k3.trans h3, k4.trans h4, k5.trans h5⟩

theorem Pump.next_partnerSame (x : Pump) (k : Packet) : PartnerSame x.port (x.next k).port := by
  unfold Pump.next
  split
  · dsimp only
    split <;> exact .refl
  · exact .refl

theorem Pump.foldl_partnerSame (ks : List Packet) (x : Pump) : PartnerSame x.port (ks.foldl Pump.next x).port := by
  induction ks generalizing x with
  | nil => exact .refl
  | cons k ks ih => exact (Pump.next_partnerSame x k).trans (ih _)

theorem sendData_partnerSame (p : Nat) (bs : List Byte) (s : State) : PartnerSame (getPort s p) (getPort (sendData p bs s) p) := by
  unfold sendData
  extract_lets x f
  rw [getPort_of_keeps (putFrame_keeps ..), getPort_setPort_same]
  exact .refl

theorem portPump_partnerSame (p : Nat) (s : State) : PartnerSame (getPort s p) (getPort (portPump p s) p) := by
  have hdata (l : List (List Byte)) (u : State) :
      PartnerSame (getPort u p) (getPort (l.foldl (fun v bs => sendData p bs v) u) p) := by
    induction l generalizing u with
    | nil => exact .refl
    | cons b l ih => exact (sendData_partnerSame p b u).trans (ih _)
  have hemit (l : List Packet) (u : State) : getPort (l.foldl (fun v k => emit (.packet p k) v) u) p = getPort u p :=
    getPort_of_keeps (ps := [.out]) (Keeps.foldl .refl fun _ _ h => h.step (emit_keeps ..)) p
  unfold portPump
  extract_lets x a b src s1 s2
  have hs2 : getPort s2 p = { b.port with tx := a.left, txLow := b.left } := (hemit ..).trans (getPort_setPort_same ..)
  have hb : PartnerSame (getPort s p) (getPort s2 p) := by
    rw [hs2]
    exact (Pump.foldl_partnerSame x.tx { port := x }).trans (Pump.foldl_partnerSame x.txLow { a with left := [] })
  exact hb.trans (hdata ..)

/-- The port that goes on ACTIVE is ACTIVE, and knows its partner as before. -/
theorem enterActive_partner (p ack : Nat) (s : State) :
    PartnerSame { getPort s p with state := 6 } (getPort (enterActive p ack s) p) := by
  have hframes (l : List (Nat × List Byte)) (n : Nat) (u : State) :
      getPort (l.foldl (fun v f => putFrame p (frameWord f.1 n 0 false) f.2 v) u) p = getPort u p :=
    getPort_of_keeps (ps := [.out, .cnt]) (Keeps.foldl .refl fun _ _ h => h.step (putFrame_keeps ..)) p
  unfold enterActive
  extract_lets x left y s1 s2
  have hs2 : getPort s2 p = y.entered 6 := by
    show getPort (left.foldl _ s1) p = _
    rw [hframes, getPort_portState, if_pos rfl, getPort_setPort_same]
  refine PartnerSame.trans ?_ (portPump_partnerSame p s2)
  rw [hs2, Port.entered_of_ne (by decide) (by decide)]
  exact .refl

/-- Settles O35. -/
theorem delaysRetrainingAndDown : Obligations.DelaysRetrainingAndDown := by
  refine ⟨?active, ?loopback, ?wiring, ?fromDown, ?fromActive, ?retry, ?timeout⟩
  case active =>
    intro s p dev port valid ack hst hech hown hexp
    have heq : delayEffect p.val dev.val port.val valid ack.toNat s = enterActive p.val ack.toNat (setPort p.val
        { getPort s p.val with peerDev := dev.val, peerPort := port.val, peerValid := valid,
                               delay := meanDelay (getPort s p.val).echoes } s) := by
      refine (if_neg ?_).trans ((if_neg ?_).trans (if_neg ?_))
      · rintro (h | h)
        · exact absurd (hst.symm.trans h) (by decide)
        · omega
      · rintro ⟨h1, h2, h3, h4⟩
        rcases hown with h | h | h | h
        · exact h h1
        · exact h h2
        · exact h h3
        · exact absurd (h.symm.trans h4) (by decide)
      · rintro ⟨h1, h2, h3⟩
        rcases hexp with h | h | h
        · exact absurd (h1.symm.trans h) (by decide)
        · exact absurd (h2.symm.trans h) (by decide)
        · exact h3 h
    obtain ⟨h1, h2, h3, h4, h5⟩ := enterActive_partner p.val ack.toNat (setPort p.val
        { getPort s p.val with peerDev := dev.val, peerPort := port.val, peerValid := valid,
                               delay := meanDelay (getPort s p.val).echoes } s)
    rw [getPort_setPort_same] at h1 h2 h3 h4 h5
    rw [← heq] at h1 h2 h3 h4 h5
    exact ⟨_, rfl, h1, h2, h3, h4, h5, (delayEffect_keeps ..).1⟩
  case loopback =>
    intro s p dev ack hst hech hdev hcfg
    have heq : delayEffect p.val dev.val p.val (devValid s) ack.toNat s = portState p.val 8 true (raise (lp p.val 0) 10 0
        (setPort p.val { getPort s p.val with peerDev := dev.val, peerPort := p.val, peerValid := devValid s,
                                              delay := meanDelay (getPort s p.val).echoes } s)) := by
      refine (if_neg ?_).trans (if_pos ⟨rfl, hdev, rfl, hcfg⟩)
      rintro (h | h)
      · exact absurd (hst.symm.trans h) (by decide)
      · omega
    have hself : Keeps [.out, .regs, .lnk, .sys] s s := .refl
    refine ⟨_, congrArg Host.Outcome.next heq, ?_, ?_, (((hself.step (setPort_keeps ..)).step (raise_keeps ..)).step (portState_keeps ..)).1⟩
    · rw [getPort_portState, if_pos rfl, Port.entered_state]
    · exact bit_errSts_portState_quiet (bit_errSts_raise _ _ _ _ (by decide))
  case wiring =>
    intro s p dev port ack hst hech hdev hcfg hexp
    have heq : delayEffect p.val dev.val port.val true ack.toNat s = portState p.val 8 true (raise (lp p.val 0) 9 0
        (setPort p.val { getPort s p.val with peerDev := dev.val, peerPort := port.val, peerValid := true,
                                              delay := meanDelay (getPort s p.val).echoes } s)) := by
      refine (if_neg ?_).trans ((if_neg fun h => hdev h.2.1).trans (if_pos ⟨hcfg, rfl, hexp⟩))
      rintro (h | h)
      · exact absurd (hst.symm.trans h) (by decide)
      · omega
    have hself : Keeps [.out, .regs, .lnk, .sys] s s := .refl
    refine ⟨_, congrArg Host.Outcome.next heq, ?_, ?_, (((hself.step (setPort_keeps ..)).step (raise_keeps ..)).step (portState_keeps ..)).1⟩
    · rw [getPort_portState, if_pos rfl, Port.entered_state]
    · exact bit_errSts_portState_quiet (bit_errSts_raise _ _ _ _ (by decide))
  case fromDown =>
    intro s who p v ha hv hst hw
    have heq : retrainEffect p.val v s = startTraining p.val s := (if_neg (by simp [hv])).trans (if_pos hst)
    obtain ⟨h1, h2⟩ := Port.trainStart_spec (getPort s p.val) (portEth s p.val)
    refine ⟨_, congrArg Host.Outcome.next ((regGuard_admits ha).trans heq), ?_, ?_, (startTraining_keeps ..).1⟩
    · rw [getPort_startTraining hw, h1]
    · rw [getPort_startTraining hw, h2]
  case fromActive =>
    intro s who p v ha hv hst
    have heq : retrainEffect p.val v s = retrainTrigger p.val s :=
      (if_neg (by simp [hv])).trans (if_neg fun h => absurd (hst.symm.trans h) (by decide))
    refine ⟨_, congrArg Host.Outcome.next ((regGuard_admits ha).trans heq), ?_, ?_, (retrainTrigger_keeps ..).1⟩
    · intro hauto
      have hport : getPort (retrainTrigger p.val s) p.val =
          { getPort s p.val with state := 7, step := 2, mirrored := false, reversed := false } := by
        unfold retrainTrigger
        rw [if_neg (by simp [hst]), if_pos hauto]
        dsimp only
        rw [getPort_of_keeps (autoneg_keeps ..), getPort_setPort_same, getPort_of_keeps (bump_keeps ..), getPort_portState,
          if_pos rfl, Port.entered_of_ne (by decide) (by decide)]
      rw [hport]
      exact ⟨rfl, rfl, rfl⟩
    · intro hauto
      have hdown : retrainTrigger p.val s = portState p.val 8 false s :=
        (if_neg (by simp [hst])).trans (if_neg (by simp [hauto]))
      rw [hdown, getPort_portState, if_pos rfl, Port.entered_down (by rw [hst]; decide)]
      exact ⟨rfl, rfl⟩
  case retry =>
    intro s p hst hauto hw
    have heq : downRetryEffect p.val s = startTraining p.val s := if_pos ⟨hst, hauto⟩
    refine ⟨_, congrArg Host.Outcome.next heq, ?_, (startTraining_keeps ..).1⟩
    rw [getPort_startTraining hw, (Port.trainStart_spec ..).1]
  case timeout =>
    intro s p hst
    have heq : trainingTimeoutEffect p.val s = portState p.val 8 false s := if_pos hst
    have hne : (getPort s p.val).state ≠ 8 := by omega
    have hport := getPort_portState p.val 8 false s
    refine ⟨_, congrArg Host.Outcome.next heq, ?_, ?_, ?_, bit_errSts_portState_down hne, ?_, (portState_keeps ..).1⟩
    · rw [hport, if_pos rfl, Port.entered_state]
    · rw [hport, if_pos rfl, Port.entered_down hne]
    · rw [hport, if_pos rfl, Port.entered_down hne]
    · intro r hr
      rw [hport, if_neg hr]

end Sys2Proof.Machine
end

section
/-! SUPPORT. The fail-quiet sequencer and its triggers (R361-R364). -/

namespace Sys2Proof.Machine

/-! ### Registers from 0x200 up -/

/-- No register from 0x200 up has changed. -/
def HighRegsSame (s t : State) : Prop := ∀ p o, 0x200 ≤ o → o < 65536 → getReg t p o = getReg s p o

theorem HighRegsSame.refl {s : State} : HighRegsSame s s := fun _ _ _ _ => rfl

theorem HighRegsSame.trans {s t u : State} (h : HighRegsSame s t) (k : HighRegsSame t u) : HighRegsSame s u :=
  fun p o hlo hhi => (k p o hlo hhi).trans (h p o hlo hhi)

theorem HighRegsSame.of_regs {s t : State} (h : t.regs = s.regs) : HighRegsSame s t := fun _ _ _ _ => getReg_congr h _ _

/-- A first change that leaves the registers leaves nothing to show for it. -/
theorem HighRegsSame.of_first {s t u : State} (k : HighRegsSame t u) (h : t.regs = s.regs) : HighRegsSame s u :=
  (HighRegsSame.of_regs h).trans k

theorem HighRegsSame.of_keeps {s t : State} {ps : List Part} (k : Keeps ps s t) (h : .regs ∉ ps := by decide) : HighRegsSame s t :=
  .of_regs (k.1 .regs h)

theorem raise_highRegsSame (page i off : Nat) (s : State) : HighRegsSame s (raise page i off s) :=
  fun _ _ hlo hhi => getReg_raise_high hlo hhi ..

theorem intSet_highRegsSame (page i : Nat) (s : State) : HighRegsSame s (intSet page i s) :=
  fun _ _ hlo hhi => getReg_intSet_high hlo hhi ..

theorem lpcCount_of_highRegsSame {s t : State} (h : HighRegsSame s t) : lpcCount t = lpcCount s := by
  rw [lpcCount, lpcCount, regFld, regFld, h _ _ (by decide) (by decide)]

/-! ### Ports and stacks -/

theorem downPort_spec (cause p : Nat) (s : State) (q : Nat) :
    (getPort (downPort cause p s) q).state = (if q = p then 0 else (getPort s q).state) ∧
    IrqOnly s (downPort cause p s) ∧ ∀ o < 65536, o / 8 ≠ 7 → getReg (downPort cause p s) q o = getReg s q o := by
  have hsent (l : List Nat) : Keeps [.out, .cnt] s
      (l.foldl (fun u _ => sendControl p 4 false (toLe 2 (devNum u) ++ [BitVec.ofNat 8 cause]) u) s) :=
    Keeps.foldl .refl fun _ _ h => h.step (sendControl_keeps ..)
  unfold downPort
  extract_lets s1
  have hs1 : Keeps [.out, .cnt] s s1 := Keeps.ite (fun _ => .refl) (fun _ => hsent _)
  have hint (u : State) (o : Nat) (ho : o < 65536) (h7 : o / 8 ≠ 7) : getReg (intSet (lp p 0) 1 u) q o = getReg u q o := by
    rw [getReg_intSet, if_neg]
    unfold regKey
    omega
  refine ⟨?_, (IrqOnly.of_keeps hs1).trans (portState_irqOnly ..), fun o ho h7 => ?_⟩
  · rw [getPort_portState, getPort_of_keeps hs1, getPort_of_keeps hs1]
    split
    · exact Port.entered_state ..
    · rfl
  · refine Eq.trans ?_ (getReg_congr (hs1.1 .regs (by decide)) q o)
    unfold portState
    extract_lets x lost y s1' s2
    split
    · rfl
    · rw [if_neg (by decide)]
      exact hint s1' o ho h7

theorem downPorts_spec (cause : Nat) (l : List Nat) (s : State) (q : Nat) :
    ((getPort s q).state = 0 ∨ q ∈ l → (getPort (l.foldl (fun u p => downPort cause p u) s) q).state = 0) ∧
    IrqOnly s (l.foldl (fun u p => downPort cause p u) s) ∧
    ∀ o < 65536, o / 8 ≠ 7 → getReg (l.foldl (fun u p => downPort cause p u) s) q o = getReg s q o := by
  induction l generalizing s with
  | nil => exact ⟨fun h => h.resolve_right List.not_mem_nil, .refl, fun _ _ _ => rfl⟩
  | cons p l ih =>
    obtain ⟨h1, h2, h3⟩ := downPort_spec cause p s q
    obtain ⟨ih1, ih2, ih3⟩ := ih (downPort cause p s)
    refine ⟨fun h => ih1 ?_, h2.trans ih2, fun o ho h7 => (ih3 o ho h7).trans (h3 o ho h7)⟩
    rw [h1]
    by_cases hq : q = p
    · exact .inl (if_pos hq)
    · rw [if_neg hq]
      exact h.imp_right fun hm => (List.mem_cons.mp hm).resolve_left hq

theorem downPorts_keeps (cause : Nat) (l : List Nat) (s : State) :
    Keeps [.out, .regs, .cnt, .lnk, .sys] s (l.foldl (fun u p => downPort cause p u) s) :=
  Keeps.foldl .refl fun _ _ h => h.step (downPort_keeps ..)

theorem getHbm_holdStack (n m : Nat) (s : State) : (getHbm (holdStack n s) m).state = if m = n then 3 else (getHbm s m).state := by
  unfold holdStack
  extract_lets s1
  rw [getHbm_setHbm]
  have hs1 : (getHbm s1 m).state = if m = n then 3 else (getHbm s m).state := by
    show (getHbm (refreshOnly n s) m).state = _
    unfold refreshOnly
    extract_lets h s2
    rw [getHbm_setHbm]
    by_cases hm : m = n
    · rw [if_pos hm, if_pos hm]
    · rw [if_neg hm, if_neg hm]
      by_cases h4 : h.state = 4
      · rw [show s2 = leaveTest n s from if_pos h4, getHbm_leaveTest, if_neg hm]
      · rw [show s2 = s from if_neg h4]
  by_cases hm : m = n
  · subst hm
    rw [if_pos rfl] at hs1 ⊢
    rw [if_pos rfl]
    exact hs1
  · rw [if_neg hm]
    exact hs1

/-- The stack of an HBM address's line. -/
def lineStack (s : State) (a : Nat) : Nat := lpcMap s (lineOf a % lpcCount s) % 8

theorem holdStack_mem {n a : Nat} {s : State} (h : winOf a ≠ .hbm ∨ (getHbm s (lineStack s a)).state ≠ 4) :
    memGet (holdStack n s).mem a = memGet s.mem a := by
  have hr : (holdStack n s).mem = (if (getHbm s n).state = 4 then leaveTest n s else s).mem := rfl
  rw [hr]
  split
  · rename_i h4
    refine leaveTest_mem (h.imp_right fun hne heq => hne ?_)
    rw [lineStack, heq]
    exact h4
  · rfl

theorem lineStack_congr {s t : State} (hl : t.lpc = s.lpc) (hc : lpcCount t = lpcCount s) (a : Nat) : lineStack t a = lineStack s a := by
  rw [lineStack, lineStack, hc, lpcMap, lpcMap, hl]

theorem holdStacks_spec (l : List Nat) (s : State) :
    (∀ m, (getHbm s m).state = 3 ∨ m ∈ l → (getHbm (l.foldl (fun u n => holdStack n u) s) m).state = 3) ∧
    (∀ a, winOf a ≠ .hbm ∨ (getHbm s (lineStack s a)).state ≠ 4 →
      memGet (l.foldl (fun u n => holdStack n u) s).mem a = memGet s.mem a) := by
  induction l generalizing s with
  | nil => exact ⟨fun _ h => h.resolve_right List.not_mem_nil, fun _ _ => rfl⟩
  | cons n l ih =>
    obtain ⟨ih1, ih2⟩ := ih (holdStack n s)
    refine ⟨fun m h => ih1 m ?_, fun a h => (ih2 a ?_).trans (holdStack_mem h)⟩
    · rw [getHbm_holdStack]
      by_cases hm : m = n
      · exact .inl (if_pos hm)
      · rw [if_neg hm]
        exact h.imp_right fun hl => (List.mem_cons.mp hl).resolve_left hm
    · refine h.imp_right fun h4 => ?_
      have hk := holdStack_keeps n s
      rw [lineStack_congr (hk.1 .lpc (by decide)) (lpcCount_of_highRegsSame (.of_keeps hk)), getHbm_holdStack]
      split
      · decide
      · exact h4

theorem holdStacks_keeps (l : List Nat) (s : State) : Keeps [.mem, .hbm, .free] s (l.foldl (fun u n => holdStack n u) s) :=
  Keeps.foldl .refl fun _ _ h => h.step (holdStack_keeps ..)

/-! ### The sequencer -/

/-- Every request ended and the sequencer's start marked, before ports and stacks go down. -/
def quietMarked (cause kind locus page detail : Nat) (s : State) : State :=
  let s1 := truncateAll s
  let again := decide (cause = 1) && s.rel.lastLockstep.any (fun m => decide (s.rel.opMin ≤ m + 1440))
  let sts := if kind = 0x10 then (1 + 256 * cause + 2 ^ 32 * tickLo s) * 2 ^ 64 else 0
  let bit' := if cause = 1 then 8 else if cause = 2 then 9 else 0
  let e := { mkEv page 3 kind with locus := locus, detail := detail + sts, tick := s.tck.num, toLast := true, errBit := bit' }
  { s1 with
    rel := { s1.rel with fqActive := true, fqCause := cause, fqTick := s.tck.num,
                         lastLockstep := if cause = 1 then some s.rel.opMin else s.rel.lastLockstep,
                         noWarm := s.rel.noWarm || again, events := s1.rel.events ++ [e] },
    sys := { s1.sys with fault := true, phase := 15 } }

theorem failQuiet_armed {s : State} (cause kind locus page detail : Nat) (hrel : s.sys.released = true)
    (hq : s.rel.fqActive = false) : failQuiet cause kind locus page detail s =
    (List.range 8).foldl (fun u n => holdStack n u)
      ((List.range 16).foldl (fun u p => downPort cause p u) (quietMarked cause kind locus page detail s)) :=
  if_neg (by simp [hrel, hq])

theorem failQuiet_active {s : State} (cause kind locus page detail : Nat) (hq : s.rel.fqActive = true) :
    failQuiet cause kind locus page detail s = s := if_pos (.inl hq)

theorem truncateAll_runs (s : State) : (truncateAll s).mtr.runs = [] := by
  unfold truncateAll
  extract_lets r s1 s2
  show (endRuns (fun _ => true) s.tck.num true s1).mtr.runs = []
  exact List.filter_eq_nil_iff.mpr fun _ _ => Bool.false_ne_true

/-- A trigger starts the sequencer (R363). -/
theorem failQuiet_quietNow {s : State} (cause kind locus page detail : Nat) (hrel : s.sys.released = true)
    (hq : s.rel.fqActive = false) : quietNow s (failQuiet cause kind locus page detail s) cause := by
  rw [failQuiet_armed cause kind locus page detail hrel hq]
  have hk2 := downPorts_keeps cause (List.range 16) (quietMarked cause kind locus page detail s)
  have hk3 := holdStacks_keeps (List.range 8)
    ((List.range 16).foldl (fun u p => downPort cause p u) (quietMarked cause kind locus page detail s))
  have ht := truncateAll_keeps s
  have hirq := (downPorts_spec cause (List.range 16) (quietMarked cause kind locus page detail s) 0).2.1
  have hstart : Keeps [.rel, .sys, .act, .mtr, .free] s (truncateAll s) := ht.mono (by decide)
  have hsame : Keeps [.rel, .sys, .act, .mtr, .free] s (quietMarked cause kind locus page detail s) :=
    (hstart.set_rel (quietMarked cause kind locus page detail s).rel).set_sys (quietMarked cause kind locus page detail s).sys
  obtain ⟨hstack, hmem⟩ := holdStacks_spec (List.range 8)
    ((List.range 16).foldl (fun u p => downPort cause p u) (quietMarked cause kind locus page detail s))
  have hrels := (hk3.1 .rel (by decide)).trans (hk2.1 .rel (by decide))
  have hsys := hk3.1 .sys (by decide)
  refine ⟨?_, ?_, ?_, ?_, ?_, fun p hp => ?_, fun n hn => hstack n (.inr (List.mem_range.mpr hn)), ?_, ?_, fun a ha => ?_⟩
  · rw [hrels]; rfl
  · rw [hrels]; rfl
  · rw [hrels]; rfl
  · rw [hsys, hirq]; rfl
  · rw [hsys, hirq]; rfl
  · rw [getPort_of_keeps hk3]
    exact (downPorts_spec cause _ _ p).1 (.inr (List.mem_range.mpr hp))
  · rw [hk3.1 .mtr (by decide), hk2.1 .mtr (by decide)]
    exact truncateAll_runs s
  · rw [hrels]
    exact ⟨_, List.mem_append_right _ (List.mem_singleton_self _), rfl, rfl, rfl⟩
  · have hhbm := (hk2.1 .hbm (by decide)).trans (hsame.1 .hbm (by decide))
    have hlpc := (hk2.1 .lpc (by decide)).trans (hsame.1 .lpc (by decide))
    have hcount : lpcCount ((List.range 16).foldl (fun u p => downPort cause p u) (quietMarked cause kind locus page detail s)) =
        lpcCount s := by
      rw [lpcCount, lpcCount, regFld, regFld, (downPorts_spec cause _ _ _).2.2 _ (by decide) (by decide),
        getReg_congr (hsame.1 .regs (by decide))]
    refine (hmem a (ha.imp_right fun h4 => ?_)).trans ?_
    · rw [lineStack_congr hlpc hcount, getHbm, hhbm]
      exact h4
    · rw [hk2.1 .mem (by decide), hsame.1 .mem (by decide)]

/-- What a trigger does before the sequencer starts leaves what the start is judged by. -/
theorem quietNow_of_before {s u t : State} {cause : Nat} (h : quietNow u t cause) (htck : u.tck = s.tck) (hmem : u.mem = s.mem)
    (hhbm : u.hbm = s.hbm) (hlpc : u.lpc = s.lpc) (hregs : HighRegsSame s u) : quietNow s t cause := by
  have hstack (a : Nat) : lpcMap u (lineOf a % lpcCount u) % 8 = lpcMap s (lineOf a % lpcCount s) % 8 :=
    lineStack_congr hlpc (lpcCount_of_highRegsSame hregs) a
  unfold quietNow at *
  simp only [htck, hmem, getHbm, hhbm, hstack] at h
  exact h

theorem wentQuiet_failQuiet {s : State} (cause kind locus page detail : Nat) (hrel : s.sys.released = true)
    (hq : s.rel.fqActive = false) : wentQuiet s (failQuiet cause kind locus page detail s) cause :=
  ⟨failQuiet_quietNow cause kind locus page detail hrel hq, (failQuiet_keeps ..).1⟩

/-- The sequencer writes none of the error registers. -/
theorem getReg_failQuiet {s : State} (cause kind locus page detail : Nat) {p o : Nat} (ho : o < 65536) (h7 : o / 8 ≠ 7) :
    getReg (failQuiet cause kind locus page detail s) p o = getReg s p o := by
  by_cases h : s.rel.fqActive = true ∨ s.sys.released = false
  · rw [failQuiet, if_pos h]
  · have hq : failQuiet cause kind locus page detail s = (List.range 8).foldl (fun u n => holdStack n u)
        ((List.range 16).foldl (fun u p => downPort cause p u) (quietMarked cause kind locus page detail s)) := if_neg h
    have hm : getReg (quietMarked cause kind locus page detail s) p o = getReg s p o :=
      getReg_congr ((truncateAll_keeps s).1 .regs (by decide)) p o
    rw [hq, getReg_congr ((holdStacks_keeps ..).1 .regs (by decide)), (downPorts_spec cause _ _ _).2.2 _ ho h7, hm]

/-- After an error at the Cobbler's page the sequencer starts, and the error stands. -/
theorem wentQuiet_raise {s : State} (i cause kind locus detail : Nat) (hi : i < 64) (hrel : s.sys.released = true)
    (hq : s.rel.fqActive = false) :
    wentQuiet s (failQuiet cause kind locus cblPage detail (raise cblPage i 0 s)) cause ∧
      bit (getReg (failQuiet cause kind locus cblPage detail (raise cblPage i 0 s)) cblPage 0x20) i = true := by
  have hk := raise_keeps cblPage i 0 s
  have hrel' : (raise cblPage i 0 s).sys.released = true := by rw [raise_irqOnly cblPage i 0 s]; exact hrel
  have hq' : (raise cblPage i 0 s).rel.fqActive = false := by rw [hk.1 .rel (by decide)]; exact hq
  have hquiet := failQuiet_quietNow cause kind locus cblPage detail hrel' hq'
  refine ⟨⟨quietNow_of_before hquiet (hk.1 .tck (by decide)) (hk.1 .mem (by decide)) (hk.1 .hbm (by decide)) (hk.1 .lpc (by decide))
    (raise_highRegsSame _ _ _ _), ?_⟩, ?_⟩
  · have hall : Keeps [.out, .regs, .cnt, .mem, .hbm, .rel, .act, .lnk, .mtr, .sys, .free] s (raise cblPage i 0 s) :=
      hk.mono (by decide)
    exact (hall.step (failQuiet_keeps ..)).1
  · rw [getReg_failQuiet _ _ _ _ _ (by decide) (by decide)]
    exact bit_errSts_raise _ _ _ _ hi

/-! ### The die -/

theorem readSensor_quiet (s : State) (x : Nat × Option Int) : HighRegsSame s (readSensor s x) ∧ IrqOnly s (readSensor s x) := by
  unfold readSensor
  cases x.2 with
  | some c => exact ⟨.refl, rfl⟩
  | none =>
    dsimp only
    split
    · exact ⟨(raise_highRegsSame pwr0 14 0 _).of_first rfl, (raise_irqOnly ..).of_sys rfl⟩
    · exact ⟨.refl, rfl⟩

theorem foldl_readSensor_quiet (l : List (Nat × Option Int)) (s : State) :
    HighRegsSame s (l.foldl readSensor s) ∧ IrqOnly s (l.foldl readSensor s) := by
  induction l generalizing s with
  | nil => exact ⟨.refl, .refl⟩
  | cons x l ih =>
    obtain ⟨h1, h2⟩ := readSensor_quiet s x
    obtain ⟨k1, k2⟩ := ih (readSensor s x)
    exact ⟨h1.trans k1, h2.trans k2⟩

theorem thermInt_quiet (old : Pwr) (s : State) : HighRegsSame s (thermInt old s) ∧ IrqOnly s (thermInt old s) := by
  unfold thermInt
  split
  · exact ⟨intSet_highRegsSame _ _ _, intSet_irqOnly ..⟩
  · exact ⟨.refl, .refl⟩

theorem raiseEv_quiet (page i off : Nat) (e : ErrEvent) (s : State) :
    HighRegsSame s (raiseEv page i off e s) ∧ IrqOnly s (raiseEv page i off e s) := by
  refine ⟨(raise_highRegsSame page i off s).trans (.of_regs (raiseEv_regs ..)), ?_⟩
  unfold raiseEv
  extract_lets s1
  split
  · exact raise_irqOnly ..
  · exact (raise_irqOnly ..).trans (.of_keeps (report_keeps ..))

theorem raiseEv_fqActive (page i off : Nat) (e : ErrEvent) (s : State) :
    (raiseEv page i off e s).rel.fqActive = s.rel.fqActive := by
  have hr : (raise page i off s).rel.fqActive = s.rel.fqActive := congrArg Rel.fqActive ((raise_keeps ..).1 .rel (by decide))
  unfold raiseEv report
  extract_lets s1
  split
  · exact hr
  split
  · exact hr
  · exact hr

/-- Telling of the limits changes nothing that a start of the sequencer is judged by. -/
theorem dieTold_quiet {s u : State} (i : Nat) (c : Int) :
    HighRegsSame u (dieTold s u i c) ∧ IrqOnly u (dieTold s u i c) ∧ (dieTold s u i c).rel.fqActive = u.rel.fqActive := by
  unfold dieTold
  extract_lets v
  have hv : HighRegsSame u v ∧ IrqOnly u v :=
    ⟨(thermInt_quiet ..).1.of_first rfl, (thermInt_quiet ..).2.of_sys rfl⟩
  have hvrel : v.rel = u.rel := (thermInt_keeps ..).1 .rel (by decide)
  have hpin (w : State) : Keeps [.out] w (alertPin s w) := alertPin_keeps .refl
  have hout (w : State) : HighRegsSame w (alertPin s w) ∧ IrqOnly w (alertPin s w) ∧ (alertPin s w).rel.fqActive = w.rel.fqActive :=
    ⟨.of_keeps (hpin w), .of_keeps (hpin w), congrArg Rel.fqActive ((hpin w).1 .rel (by decide))⟩
  split
  · obtain ⟨h1, h2, h3⟩ := hout (raiseEv pwr0 13 0 { mkEv pwr0 4 0x0C with locus := i, detail := c.toNat } v)
    obtain ⟨k1, k2⟩ := raiseEv_quiet pwr0 13 0 { mkEv pwr0 4 0x0C with locus := i, detail := c.toNat } v
    exact ⟨(hv.1.trans k1).trans h1, (hv.2.trans k2).trans h2, by rw [h3, raiseEv_fqActive, hvrel]⟩
  · obtain ⟨h1, h2, h3⟩ := hout v
    exact ⟨hv.1.trans h1, hv.2.trans h2, by rw [h3, hvrel]⟩

/-- Settles O48. -/
theorem triggersStartFailQuiet : Obligations.TriggersStartFailQuiet := by
  refine ⟨?watchdog, ?lockstep, ?die, ?rail, ?policy, ?pll, ?ref, ?again, ?kick⟩
  case watchdog =>
    intro s hrel hq hup hms
    have heq : watchdogEffect s = failQuiet 2 0x10 2 cblPage (regFld s cblPage 0x220 15 0) (raise cblPage 9 0 s) :=
      if_neg (by simp [hup]; omega)
    exact ⟨_, congrArg Host.Outcome.next heq, wentQuiet_raise 9 2 0x10 2 _ (by decide) hrel hq⟩
  case lockstep =>
    intro s hrel hq hup
    have hrel' : (raise cblPage 8 0 s).sys.released = true := by rw [raise_irqOnly cblPage 8 0 s]; exact hrel
    have hrels : (raise cblPage 8 0 s).rel = s.rel := (raise_keeps ..).1 .rel (by decide)
    obtain ⟨hquiet, hbit⟩ := wentQuiet_raise 8 1 0x0D 0 0 (by decide) hrel hq
    refine ⟨_, congrArg Host.Outcome.next (if_pos hup), hquiet, ?_, hbit⟩
    rw [failQuiet_armed _ _ _ _ _ hrel' (by rw [hrels]; exact hq), (holdStacks_keeps ..).1 .rel (by decide),
      (downPorts_keeps ..).1 .rel (by decide), ← hrels]
    rfl
  case die =>
    intro s rs i c hp hrel hq hh hc
    have hread := (SensorsRead.foldl ((List.range 48).zip rs) s).keeps
    obtain ⟨hregs1, hirq1⟩ := foldl_readSensor_quiet ((List.range 48).zip rs) s
    obtain ⟨hregs2, hirq2, hfq⟩ := dieTold_quiet (s := s) (u := ((List.range 48).zip rs).foldl readSensor s) i c
    have hk := (dieTold_spec i c (hread.mono (by decide))).2
    have heq := (dieEffect_eq hp hh).trans (if_pos hc)
    have hrel' : (dieTold s (((List.range 48).zip rs).foldl readSensor s) i c).sys.released = true := by
      rw [hirq1.trans hirq2]; exact hrel
    have hfq' : (dieTold s (((List.range 48).zip rs).foldl readSensor s) i c).rel.fqActive = false := by
      rw [hfq, hread.1 .rel (by decide)]; exact hq
    have hquiet := failQuiet_quietNow 3 0x0C i pwr0 c.toNat hrel' hfq'
    refine ⟨_, congrArg Host.Outcome.next heq, quietNow_of_before hquiet (hk.1 .tck (by decide)) (hk.1 .mem (by decide))
      (hk.1 .hbm (by decide)) (hk.1 .lpc (by decide)) (hregs1.trans hregs2), ?_⟩
    rw [← heq]
    exact ((dieEffect_keeps ..).mono (by decide)).1
  case rail =>
    intro s r mv hrel hq
    exact ⟨_, rfl, wentQuiet_failQuiet _ _ _ _ _ hrel hq⟩
  case policy =>
    intro s who v ha hrel hq
    have heq : policyEffect (v ||| 1) s = failQuiet 4 0x10 4 cblPage 0 s := if_pos (by simp [bit])
    exact ⟨_, congrArg Host.Outcome.next ((regGuard_admits ha).trans heq), wentQuiet_failQuiet _ _ _ _ _ hrel hq⟩
  case pll =>
    intro s n hrel hq hup hg
    have heq : hbmGraceEffect n.val s = failQuiet 4 0x10 4 cblPage (clockSeq s (n.val + 3))
        { s with rel := { s.rel with pllGrace := s.rel.pllGrace.filter (· ≠ n.val) } } := if_neg (by rw [hup, hg]; decide)
    refine ⟨_, congrArg Host.Outcome.next heq, ?_, ?_⟩
    · exact quietNow_of_before (failQuiet_quietNow (s := { s with rel := { s.rel with pllGrace := s.rel.pllGrace.filter (· ≠ n.val) } })
        4 0x10 4 cblPage _ hrel hq) rfl rfl rfl rfl .refl
    · have hself : Keeps [.out, .regs, .cnt, .mem, .hbm, .rel, .act, .lnk, .mtr, .sys, .free] s s := .refl
      exact ((hself.set_rel { s.rel with pllGrace := s.rel.pllGrace.filter (· ≠ n.val) }).step (failQuiet_keeps ..)).1
  case ref =>
    intro s hrel hq hup hl hf
    exact ⟨_, congrArg Host.Outcome.next (if_pos ⟨hup, hl, hf⟩), wentQuiet_failQuiet _ _ _ _ _ hrel hq⟩
  case again =>
    intro s r mv who v hq
    refine ⟨congrArg Host.Outcome.next (failQuiet_active _ _ _ _ _ hq), fun ha => ?_⟩
    refine congrArg Host.Outcome.next ((regGuard_admits ha).trans ?_)
    unfold policyEffect
    split
    · exact failQuiet_active _ _ _ _ _ hq
    · rfl
  case kick =>
    intro s who v ha
    have hrow : ∃ r, fieldsAt cblPage 0x220 = some r ∧ ∀ i < 16, bit (word r.rw) i = true ∧ bit (word r.w1c) i = false ∧
        bit (word (2 ^ 16)) i = false := by decide +kernel
    obtain ⟨r, hr, hbits⟩ := hrow
    have h16 : bit (v ||| word (2 ^ 16)) 16 = true := by simp [bit, word]
    have heq : kickEffect (v ||| word (2 ^ 16)) s = { storeReg cblPage 0x220 (v ||| word (2 ^ 16)) s with
        rel := { (storeReg cblPage 0x220 (v ||| word (2 ^ 16)) s).rel with
          kickTick := (storeReg cblPage 0x220 (v ||| word (2 ^ 16)) s).tck.num } } := if_pos h16
    have hk := storeReg_keeps cblPage 0x220 (v ||| word (2 ^ 16)) s
    have hrel : (storeReg cblPage 0x220 (v ||| word (2 ^ 16)) s).rel = s.rel := hk.1 .rel (by decide)
    have htck : (storeReg cblPage 0x220 (v ||| word (2 ^ 16)) s).tck = s.tck := hk.1 .tck (by decide)
    refine ⟨_, congrArg Host.Outcome.next ((regGuard_admits ha).trans heq), ?_, ?_, ?_⟩
    · rw [← hrel, ← htck]
    · show fld (getReg (storeReg cblPage 0x220 (v ||| word (2 ^ 16)) s) cblPage 0x220) 15 0 = _
      rw [storeReg_eq hr, getReg_setReg_same]
      refine fld_eq_of_bits fun i _ hi => ?_
      obtain ⟨h1, h2, h3⟩ := hbits i (by omega)
      rw [bit_merged h1 h2, bit_or_word h3]
    · have hall : Keeps [.regs, .rel] s (storeReg cblPage 0x220 (v ||| word (2 ^ 16)) s) := hk.mono (by decide)
      exact (hall.set_rel _).1

end Sys2Proof.Machine
end

section
/-! SUPPORT. Bytes of memory after a store, and records written to memory (R341-R343). -/

namespace Sys2Proof.Machine

/-! ### Bytes and words of memory -/

theorem leNat_toLe {n v : Nat} (h : v < 256 ^ n) : leNat (toLe n v) = v := by
  induction n generalizing v with
  | zero => rw [Nat.lt_one_iff.mp h]; rfl
  | succ n ih =>
    rw [toLe, leNat, ih (by rw [Nat.pow_succ] at h; omega), BitVec.toNat_ofNat]
    omega

theorem length_memBytes (m : Mem) (a n : Nat) : (memBytes m a n).length = n := by simp [memBytes]

theorem memBytes_congr {m m' : Mem} {a n : Nat} (h : ∀ x, a ≤ x → x < a + n → memGet m' x = memGet m x) :
    memBytes m' a n = memBytes m a n :=
  List.map_congr_left fun i hi => h (a + i) (Nat.le_add_right ..) (by have := List.mem_range.mp hi; omega)

/-- Bytes stored elsewhere leave these. -/
theorem memBytes_memStore_disjoint {m : Mem} (h : Memory.wf m = true) {a b n : Nat} {bs : List Byte}
    (hd : b + n ≤ a ∨ a + bs.length ≤ b) : memBytes (memStore m a bs) b n = memBytes m b n :=
  memBytes_congr fun x hlo hhi => by rw [memGet_memStore h, if_neg (by omega)]

/-- A store's first bytes read back. -/
theorem memBytes_memStore_append {m : Mem} (h : Memory.wf m = true) (a : Nat) (xs ys : List Byte) :
    memBytes (memStore m a (xs ++ ys)) a xs.length = xs := by
  rw [memStore_append, memBytes_memStore_disjoint (memStore_wf h) (.inl le_rfl), memBytes_memStore h]

theorem memWord_memStore_toLe {m : Mem} (h : Memory.wf m = true) (a v : Nat) (hv : v < 2 ^ 64) :
    memWord (memStore m a (toLe 8 v)) a = word v := by
  have hb := memBytes_memStore h a (toLe 8 v)
  rw [length_toLe] at hb
  rw [memWord, hb, leNat_toLe hv]

/-! ### What a write changes besides memory -/

/-- A write never reads HBM, so it finds no error there. -/
theorem cacheTouch_write_keeps (cls line n : Nat) (s : State) :
    Keeps [.cnt, .crm, .hbm, .cw, .act] s (cacheTouch cls line true n s) := by
  have hself : Keeps [.cnt, .crm, .hbm, .cw, .act] s s := .refl
  unfold cacheTouch
  extract_lets sl s0 fetch key ws h plain keep page put
  have hs0 : Keeps [.cnt, .crm, .hbm, .cw, .act] s s0 := (hself.step (hbmMove_keeps ..)).step (addAct_keeps ..)
  have hput (x : List Way) {t : State} (ht : Keeps [.cnt, .crm, .hbm, .cw, .act] s t) :
      Keeps [.cnt, .crm, .hbm, .cw, .act] s (put x t) := ht.set_crm _
  have hbump (i k : Nat) {t : State} (ht : Keeps [.cnt, .crm, .hbm, .cw, .act] s t) :
      Keeps [.cnt, .crm, .hbm, .cw, .act] s (bump page 0 i k t) := ht.step (bump_keeps ..)
  refine .ite (fun _ => hs0) (fun _ => ?_)
  split
  · refine .ite (fun _ => hput _ (hbump _ _ hs0)) fun _ => .ite (fun _ => hput _ (hbump _ _ hs0)) fun _ =>
      .ite (fun _ => ?_) fun _ => hbump _ _ hs0
    exact (hput _ (hbump _ _ (hbump _ _ hs0))).step (pruneCw_keeps ..)
  · refine .ite (fun _ => ?_) fun _ => hbump _ _ hs0
    refine (hput _ ?_).step (pruneCw_keeps ..)
    have h2 := hbump 4 1 (hbump 3 1 hs0)
    have h3 := Keeps.ite (c := (allocate (keepWays s) line keep ws).length ≤ ws.length) (fun _ => hbump 5 1 h2) (fun _ => h2)
    exact .ite (fun _ => hbump 6 1 h3) fun _ => h3

/-- Bytes written count, and land; no other part of the state hears of them. -/
theorem wrBytes_counts (cls a : Nat) (bs : List Byte) (s : State) :
    Keeps [.cnt, .mem, .poison, .epochs, .tasks, .crm, .hbm, .ecc, .cw, .ls, .ldl, .act] s (wrBytes cls a bs s) := by
  have hrun (a : Nat) (bs : List Byte) (u : State) :
      Keeps [.cnt, .mem, .poison, .epochs, .tasks, .crm, .hbm, .ecc, .cw, .ls, .ldl, .act] u (writeRun cls none a bs u) := by
    have hself : Keeps [.cnt, .mem, .poison, .epochs, .tasks, .crm, .hbm, .ecc, .cw, .ls, .ldl, .act] u u := .refl
    unfold writeRun
    refine .ite (fun _ => .refl) fun _ => Keeps.step ?_ (landRun_keeps ..)
    split
    · exact hself.step (cacheTouch_write_keeps ..)
    · exact (hself.step (bump_keeps ..)).step (addAct_keeps ..)
    · exact .ite (fun _ => .refl) fun _ => hself.step (bump_keeps ..)
    · exact .refl
  unfold wrBytes writeRuns
  exact Keeps.foldl .refl fun _ _ h => h.step (hrun ..)

/-! ### Records (R341-R343, R394) -/

/-- Records have been made: nothing else of the Cobbler's state has changed, and no SEQ goes back. -/
structure RecordsOnly (s t : State) : Prop where
  rel : t.rel = { s.rel with seq := t.rel.seq, emitted := t.rel.emitted, faultLog := t.rel.faultLog, lost := t.rel.lost }
  seq : s.rel.seq ≤ t.rel.seq

theorem RecordsOnly.of_rel {s t : State} (h : t.rel = s.rel) : RecordsOnly s t := ⟨by rw [h], by rw [h]⟩

theorem RecordsOnly.trans {s t u : State} (h : RecordsOnly s t) (k : RecordsOnly t u) : RecordsOnly s u :=
  ⟨by rw [k.rel, h.rel], h.seq.trans k.seq⟩

theorem firkinEffect_rel (s : State) : (firkinEffect s).rel = s.rel := by
  have hmirror (u : State) : (mirrorPtr u).rel = u.rel := by
    unfold mirrorPtr
    extract_lets q
    split
    · exact (wrBytes_counts ..).1 .rel (by decide)
    · rfl
  unfold firkinEffect
  split
  · rfl
  · rename_i r _
    extract_lets seq body bytes q wr room old s1 s2 s3
    have hs2 : s2.rel = s.rel := by
      unfold s2
      split
      · rw [hmirror, (setReg_keeps ..).1 .rel (by decide), (wrBytes_counts ..).1 .rel (by decide)]
      · rfl
    rw [(intSet_keeps ..).1 .rel (by decide), (setReg_keeps ..).1 .rel (by decide), (keepFirkin_keeps ..).1 .rel (by decide),
      (journal_keeps ..).1 .rel (by decide), hs2]

theorem signReady_rel (s : State) : (signReady s).rel = s.rel := by
  have hfold (l : List Req) (u : State) : (l.foldl (fun v _ => firkinEffect v) u).rel = u.rel := by
    induction l generalizing u with
    | nil => rfl
    | cons r l ih => rw [List.foldl_cons, ih, firkinEffect_rel]
  exact hfold ..

/-- Without a request that is ready nothing is signed before a record. -/
theorem signReady_none {s : State} (h : s.mtr.ended.find? (reqReady s) = none) : signReady s = s := by
  have hone : firkinEffect s = s := by unfold firkinEffect; rw [h]
  have hfold (l : List Req) : l.foldl (fun v _ => firkinEffect v) s = s := by
    induction l with
    | nil => rfl
    | cons r l ih => rw [List.foldl_cons, hone, ih]
  exact hfold _

theorem ringPut_recordsOnly (bs : List Byte) (s : State) : RecordsOnly s (ringPut bs s) ∧ (ringPut bs s).rel.seq = s.rel.seq := by
  unfold ringPut
  extract_lets b wr rd a
  split
  · have hrel : (wrBytes 1 b (toLe 8 ((wr + 1) % 1024)) (wrBytes 1 a (bs ++ List.replicate (1024 - bs.length) 0) s)).rel = s.rel := by
      rw [(wrBytes_counts ..).1 .rel (by decide), (wrBytes_counts ..).1 .rel (by decide)]
    exact ⟨.of_rel hrel, by rw [hrel]⟩
  · rw [(raise_keeps ..).1 .rel (by decide)]
    refine ⟨⟨by rw [(raise_keeps ..).1 .rel (by decide)], by rw [(raise_keeps ..).1 .rel (by decide)]⟩, rfl⟩

/-- A record takes the next SEQ. -/
theorem emitRecord_recordsOnly (e : ErrEvent) (r : RecInfo) (s : State) :
    RecordsOnly s (emitRecord e r s) ∧ (emitRecord e r s).rel.seq = s.rel.seq + 1 := by
  have hsign := signReady_rel s
  unfold emitRecord
  extract_lets u seq bs logged all old s1 s2
  have hs2 : s2.rel = s1.rel := (journal_keeps ..).1 .rel (by decide)
  have hseq : s2.rel.seq = s.rel.seq + 1 := by
    rw [hs2]
    exact congrArg (fun x => x.seq + 1) hsign
  have hrec : RecordsOnly s s2 := by
    refine ⟨?_, by rw [hseq]; exact Nat.le_succ _⟩
    rw [hs2, ← hsign]
  split
  · exact ⟨hrec, hseq⟩
  · obtain ⟨h1, h2⟩ := ringPut_recordsOnly bs s2
    exact ⟨hrec.trans h1, h2.trans hseq⟩

theorem infoRecord_recordsOnly (code inst unit kind locus detail : Nat) (r : RecInfo) (s : State) :
    RecordsOnly s (infoRecord code inst unit kind locus detail r s) ∧
      (infoRecord code inst unit kind locus detail r s).rel.seq = s.rel.seq + 1 := emitRecord_recordsOnly ..

/-! ### Which accesses go -/

/-- What decides whether an access goes is the same: the Creamery, HBM and the blocks that serve it (R218, R231). -/
structure AccessSame (s t : State) : Prop where
  crm : t.crm = s.crm
  hbm : t.hbm = s.hbm
  blk : t.blk = s.blk
  lpc : t.lpc = s.lpc
  en : ∀ p, getReg t p 0x10 = getReg s p 0x10
  count : lpcCount t = lpcCount s

theorem AccessSame.serves {s t : State} (h : AccessSame s t) (p : Nat) : serves t p = serves s p := by
  have hb : getBlk t p = getBlk s p := getBlk_congr h.blk p
  have he : enabled t p = enabled s p := by rw [enabled, enabled, regBit, regBit, h.en]
  simp only [Machine.serves, enAck, hb, he]
  cases enabled s p <;> simp

theorem AccessSame.nextSlice {s t : State} (h : AccessSame s t) (k n : Nat) : nextSlice t k n = nextSlice s k n := by
  have hin (m : Nat) : sliceIn t m = sliceIn s m := by rw [sliceIn, sliceIn, getBlk_congr h.blk]
  induction k generalizing n with
  | zero => rfl
  | succ k ih => rw [Machine.nextSlice, Machine.nextSlice, hin, ih]

theorem AccessSame.access {s t : State} (h : AccessSame s t) (a : Nat) : access t a = access s a := by
  have hcount := h.count
  have hstack : stackOf t a = stackOf s a := by
    rw [stackOf, stackOf, physPc, physPc, lpcMap, lpcMap, getHbm, getHbm, localLine, localLine, h.count, h.lpc, h.hbm]
  have hscr : scrServes t a = scrServes s a := by
    rw [scrServes, scrServes, servesGran, servesGran, h.crm]
  unfold Machine.access
  rw [h.crm, hbmEnd, hbmEnd, hcount, scrEnd, scrEnd, h.crm, homeSlice, homeSlice, h.nextSlice, hstack, getHbm, getHbm, h.hbm, hscr]
  simp only [h.serves]

theorem AccessSame.trans {s t u : State} (h : AccessSame s t) (k : AccessSame t u) : AccessSame s u :=
  ⟨k.crm.trans h.crm, k.hbm.trans h.hbm, k.blk.trans h.blk, k.lpc.trans h.lpc, fun p => (k.en p).trans (h.en p), k.count.trans h.count⟩

theorem AccessSame.of_keeps {s t : State} {ps : List Part} (k : Keeps ps s t)
    (h : .crm ∉ ps ∧ .hbm ∉ ps ∧ .blk ∉ ps ∧ .lpc ∉ ps ∧ .regs ∉ ps := by decide) : AccessSame s t := by
  obtain ⟨h1, h2, h3, h4, h5⟩ := h
  have hregs (p o : Nat) : getReg t p o = getReg s p o := getReg_congr (k.1 .regs h5) p o
  exact ⟨k.1 .crm h1, k.1 .hbm h2, k.1 .blk h3, k.1 .lpc h4, fun p => hregs p _, by rw [lpcCount, lpcCount, regFld, regFld, hregs]⟩

/-! ### COBBLER_EVENT -/

/-- The handler's reading of ERR_FIRST clears nothing but those registers. -/
theorem getReg_readFirst {o : Nat} (ho : o < 65536) (h6 : o / 8 ≠ 6) (e : ErrEvent) (s : State) (p : Nat) :
    getReg (readFirst e s) p o = getReg s p o := by
  have hset (q : Nat) (u : State) : getReg (setReg q 0x30 0 u) p o = getReg u p o :=
    getReg_setReg_ne (by unfold regKey; omega) _ _
  unfold readFirst
  split
  · rfl
  · rename_i r _
    generalize hf : (fun (u : State) (k : Nat) => _) = f
    have hone (u : State) (k : Nat) : getReg (f u k) p o = getReg u p o := by
      rw [← hf]
      dsimp only
      split
      · exact hset ..
      · rfl
    have hfold (l : List Nat) (u : State) : getReg (l.foldl f u) p o = getReg u p o := by
      induction l generalizing u with
      | nil => rfl
      | cons k l ih => rw [List.foldl_cons, ih, hone]
    exact hfold ..

theorem readFirst_accessSame (e : ErrEvent) (s : State) : AccessSame s (readFirst e s) := by
  have hk := readFirst_keeps e s
  refine ⟨hk.1 .crm (by decide), hk.1 .hbm (by decide), hk.1 .blk (by decide), hk.1 .lpc (by decide), fun p => ?_, ?_⟩
  · exact getReg_readFirst (by decide) (by decide) e s p
  · rw [lpcCount, lpcCount, regFld, regFld, getReg_readFirst (by decide) (by decide)]

/-- The event taken off the queue, its first records read. -/
def eventTaken (e : ErrEvent) (s : State) : State := readFirst e { s with rel := { s.rel with events := s.rel.events.erase e } }

theorem eventTaken_keeps (e : ErrEvent) (s : State) : Keeps [.regs, .rel] s (eventTaken e s) :=
  have hself : Keeps [.regs, .rel] s s := .refl
  (hself.set_rel _).step (readFirst_keeps ..)

theorem eventTaken_rel (e : ErrEvent) (s : State) : (eventTaken e s).rel = { s.rel with events := s.rel.events.erase e } :=
  (readFirst_keeps ..).1 .rel (by decide)

theorem getReg_eventTaken {o : Nat} (ho : o < 65536) (h6 : o / 8 ≠ 6) (e : ErrEvent) (s : State) (p : Nat) :
    getReg (eventTaken e s) p o = getReg s p o := getReg_readFirst ho h6 e _ p

theorem eventTaken_accessSame (e : ErrEvent) (s : State) : AccessSame s (eventTaken e s) :=
  .trans (.of_keeps ((Keeps.refl (ps := [.rel])).set_rel _)) (readFirst_accessSame ..)

theorem eventEffect_info {s : State} {e : ErrEvent} (h : nextEvent s = some e) (hc : e.cls = 4) :
    eventEffect s = emitRecord e {} (eventTaken e s) := by
  unfold eventEffect
  rw [h]
  exact (if_neg (by omega)).trans (if_pos hc)

/-- The event taken, its unit's suspicion refreshed: the state that the history is applied in. -/
def eventSeen (e : ErrEvent) (s : State) : State := suspectSeen e.code e.inst e.unit (eventTaken e s)

theorem eventSeen_rel (e : ErrEvent) (s : State) : (eventSeen e s).rel.events = s.rel.events.erase e ∧
    (eventSeen e s).rel.hist = s.rel.hist ∧ (eventSeen e s).rel.opMin = s.rel.opMin ∧ (eventSeen e s).rel.seq = s.rel.seq ∧
    (eventSeen e s).rel.coal = s.rel.coal := by
  unfold eventSeen suspectSeen
  dsimp only
  rw [eventTaken_rel]
  exact ⟨rfl, rfl, rfl, rfl, rfl⟩

theorem eventEffect_silent {s : State} {e : ErrEvent} (h : nextEvent s = some e) (hc : e.cls = 2) :
    ∃ r, eventEffect s = emitRecord e r (histApply e (eventSeen e s)).2.2 := by
  have hclock (seq : Nat) (u : State) : clockEvent e seq u = u := if_pos (.inr (by omega))
  have hstep : eventEffect s = clockEvent e ((histApply e (eventSeen e s)).2.2.rel.seq + 1)
      (emitRecord e { hist := (histApply e (eventSeen e s)).1, decision := (histApply e (eventSeen e s)).2.1 }
        (histApply e (eventSeen e s)).2.2) := by
    unfold eventEffect
    rw [h]
    exact (if_neg (by omega)).trans ((if_neg (by omega)).trans (if_neg (by omega)))
  exact ⟨_, hstep.trans (hclock ..)⟩

/-- The oldest events, the history and the running periods of coalescing are the same. -/
structure KeysSame (s t : State) : Prop where
  events : t.rel.events = s.rel.events
  hist : t.rel.hist = s.rel.hist
  coal : t.rel.coal = s.rel.coal
  opMin : t.rel.opMin = s.rel.opMin
  seq : s.rel.seq ≤ t.rel.seq

theorem KeysSame.refl {s : State} : KeysSame s s := ⟨rfl, rfl, rfl, rfl, le_rfl⟩

theorem KeysSame.trans {s t u : State} (h : KeysSame s t) (k : KeysSame t u) : KeysSame s u :=
  ⟨k.events.trans h.events, k.hist.trans h.hist, k.coal.trans h.coal, k.opMin.trans h.opMin, h.seq.trans k.seq⟩

theorem KeysSame.of_rel {s t : State} (h : t.rel = s.rel) : KeysSame s t := ⟨by rw [h], by rw [h], by rw [h], by rw [h], by rw [h]⟩

theorem RecordsOnly.keysSame {s t : State} (h : RecordsOnly s t) : KeysSame s t :=
  ⟨by rw [h.rel], by rw [h.rel], by rw [h.rel], by rw [h.rel], h.seq⟩

/-- A unit made suspect stands among the suspects with the minute in hand. -/
theorem suspectUnit_spec (code inst unit kind locus : Nat) (s : State) :
    KeysSame s (suspectUnit code inst unit kind locus s) ∧
      (code, inst, unit, s.rel.opMin) ∈ (suspectUnit code inst unit kind locus s).rel.suspects := by
  unfold suspectUnit
  extract_lets known rest old s1 p
  have hkeys : KeysSame s s1 := ⟨rfl, rfl, rfl, rfl, le_rfl⟩
  have hmem : (code, inst, unit, s.rel.opMin) ∈ s1.rel.suspects := List.mem_append_right _ (List.mem_singleton_self _)
  split
  · exact ⟨hkeys, hmem⟩
  · have hrec (u : State) (hu : u.rel = s1.rel) :
        KeysSame s (infoRecord code inst unit kind locus 0 { decision := 1 } u) ∧ (code, inst, unit, s.rel.opMin) ∈
          (infoRecord code inst unit kind locus 0 { decision := 1 } u).rel.suspects := by
      have h := (infoRecord_recordsOnly code inst unit kind locus 0 { decision := 1 } u).1
      refine ⟨hkeys.trans ((KeysSame.of_rel hu).trans h.keysSame), ?_⟩
      rw [h.rel, hu]
      exact hmem
    exact hrec _ rfl

theorem mapStart_rel (q : MapReq) (s : State) : (mapStart q s).2.rel = s.rel := (mapStart_keeps q s).1 .rel (by decide)

theorem mapEnqueue_keysSame (q : MapReq) (s : State) : KeysSame s (mapEnqueue q s) := by
  have hbegin (u : State) : KeysSame u (mapBegin u) := by
    unfold mapBegin
    split
    · exact ⟨rfl, rfl, rfl, rfl, le_rfl⟩
    · split
      · exact .refl
      · have hr := fun x => mapStart_rel x u
        constructor <;> simp only [hr, le_refl]
  exact KeysSame.trans (t := { s with rel := { s.rel with reqs := s.rel.reqs ++ [q] } }) ⟨rfl, rfl, rfl, rfl, le_rfl⟩ (hbegin _)

theorem actPermanent_keysSame (e : ErrEvent) (kind : Nat) (s : State) : KeysSame s (actPermanent e kind s).2 := by
  unfold actPermanent
  split
  · exact (suspectUnit_spec ..).1
  split
  · exact .refl
  split
  · split
    · exact mapEnqueue_keysSame ..
    · exact .refl
  · exact .refl

theorem ceCount_keysSame (e : ErrEvent) (s : State) : KeysSame s (ceCount e s).2 := by
  unfold ceCount
  extract_lets hour isU old n acts rest oldRel s1 s2
  have h1 : KeysSame s s1 := ⟨rfl, rfl, rfl, rfl, le_rfl⟩
  have h2 : KeysSame s s2 := by
    unfold s2
    split
    · exact h1.trans (suspectUnit_spec ..).1
    · exact h1
  split
  · exact h2.trans (actPermanent_keysSame ..)
  · exact h2

/-- The fault history with an entry for a new key. -/
def freshEntry (e : ErrEvent) (s : State) : Hist := ⟨e.code, e.inst, e.unit, e.kind, e.locus, s.rel.opMin, s.rel.opMin, 1, false⟩

/-- The fault history set to a list, and kept in MRAM. -/
def histSet (hs : List Hist) (s : State) : State := journal 32 { s with rel := { s.rel with hist := hs } }

theorem histSet_rel (hs : List Hist) (s : State) : (histSet hs s).rel = { s.rel with hist := hs } := (journal_keeps ..).1 .rel (by decide)

/-- A SILENT event of a new key enters the history as TRANSIENT, and its unit is suspect. -/
theorem histApply_new {e : ErrEvent} {s : State} (hc : e.cls ≠ 0) (hf : s.rel.hist.find? (fun h => h.is e) = none)
    (hl : s.rel.hist.length < 4096) : (histApply e s).2.2 = suspectUnit e.code e.inst e.unit e.kind e.locus
      (histSet (s.rel.hist.filter (fun h => !h.is e) ++ [freshEntry e s]) s) := by
  have hroom : histRoom (s.rel.hist.filter (fun h => !h.is e)) = some (s.rel.hist.filter (fun h => !h.is e)) :=
    if_pos ((List.length_filter_le ..).trans_lt hl)
  unfold histApply
  simp only [hf, hroom, if_neg hc]
  rfl

/-- An event of a known key within the window makes its entry PERMANENT. -/
theorem histApply_again {e : ErrEvent} {s : State} {h : Hist} (hf : s.rel.hist.find? (fun h => h.is e) = some h)
    (hw : s.rel.opMin ≤ h.last + regFld s cblPage 0x208 23 0) :
    let h1 := { h with count := h.count + 1, last := s.rel.opMin, perm := true }
    let u := histSet (s.rel.hist.filter (fun h => !h.is e) ++ [h1]) s
    (histApply e s).2.2 = u ∨ (histApply e s).2.2 = (actPermanent e e.kind u).2 := by
  intro h1 u
  unfold histApply
  simp only [hf, if_pos hw]
  split
  · exact .inl rfl
  · exact .inr rfl

/-! ### Corrected events and the end of a coalescing period -/

theorem histApply_coal (e : ErrEvent) (s : State) : (histApply e s).2.2.rel.coal = s.rel.coal := by
  have hset (hs : List Hist) : KeysSame (histSet hs s) (histSet hs s) ∧ (histSet hs s).rel.coal = s.rel.coal :=
    ⟨.refl, by rw [histSet_rel]⟩
  have hfresh (u : State) (hu : u.rel.coal = s.rel.coal) :
      (if e.cls = 0 then (1, 0, u) else (1, 1, suspectUnit e.code e.inst e.unit e.kind e.locus u) : Nat × Nat × State).2.2.rel.coal =
        s.rel.coal := by
    split
    · exact hu
    · exact (suspectUnit_spec ..).1.coal.trans hu
  have hroom (l : List Hist) : (match histRoom l with
      | some room => histSet (room ++ [freshEntry e s]) s
      | none => raise cblPage 10 0 s).rel.coal = s.rel.coal := by
    split
    · exact (hset _).2
    · rw [(raise_keeps ..).1 .rel (by decide)]
  unfold histApply
  extract_lets now win others set fresh
  split
  · rename_i h _
    split
    · extract_lets h1 s1
      split
      · exact (hset _).2
      · exact (actPermanent_keysSame ..).coal.trans (hset _).2
    · exact hfresh _ (hroom _)
  · exact hfresh _ (hroom _)

/-- The coalescing period is that of the event's key. -/
def sameKey (e : ErrEvent) (c : Coal) : Bool :=
  c.ev.code == e.code && c.ev.inst == e.inst && c.ev.unit == e.unit && c.ev.kind == e.kind && c.ev.locus == e.locus

/-- The event counted in its key's coalescing period. -/
def sameKeyCounted (e : ErrEvent) (s : State) : State :=
  { s with rel := { s.rel with coal := s.rel.coal.map (fun x => if sameKey e x then { x with count := x.count + 1 } else x) } }

/-- A corrected event of the key whose period runs is counted in it. -/
theorem eventEffect_counted {s : State} {e : ErrEvent} {c : Coal} (h : nextEvent s = some e) (hc : e.cls = 0) (hcoal : s.rel.coal = [c])
    (hkey : sameKey e c = true) :
    (eventEffect s).rel.coal = [{ c with count := c.count + 1 }] := by
  have happ : (histApply e (eventSeen e s)).2.2.rel.coal = [c] :=
    (histApply_coal ..).trans ((eventSeen_rel e s).2.2.2.2.trans hcoal)
  have hce : (ceCount e (histApply e (eventSeen e s)).2.2).2.rel.coal = [c] := (ceCount_keysSame ..).coal.trans happ
  obtain ⟨u, hu, r, hr⟩ : ∃ u, u.rel.coal = [{ c with count := c.count + 1 }] ∧ ∃ r, eventEffect s = u ∨ eventEffect s = emitRecord e r u := by
    generalize hv : (ceCount e (histApply e (eventSeen e s)).2.2) = v at hce
    refine ⟨sameKeyCounted e v.2, ?_, { hist := (histApply e (eventSeen e s)).1, decision := if v.1 = 0 then (histApply e (eventSeen e s)).2.1 else v.1 }, ?_⟩
    · show v.2.rel.coal.map _ = _
      rw [hce]
      simp [hkey]
    · have hany : v.2.rel.coal.any (sameKey e) = true := by
        rw [hce]
        simp [hkey]
      have hstep : eventEffect s = if v.1 = 0 then sameKeyCounted e v.2 else
          emitRecord e { hist := (histApply e (eventSeen e s)).1, decision := if v.1 = 0 then (histApply e (eventSeen e s)).2.1 else v.1 }
            (sameKeyCounted e v.2) := by
        rw [← hv] at hany ⊢
        unfold eventEffect
        rw [h]
        exact (if_neg (by omega)).trans ((if_neg (by omega)).trans ((if_pos hc).trans (if_pos hany)))
      rw [hstep]
      split
      · exact .inl rfl
      · exact .inr rfl
  obtain hr | hr := hr
  · rw [hr]
    exact hu
  · rw [hr, (emitRecord_recordsOnly e r u).1.keysSame.coal]
    exact hu

/-- The coalescing period at the key ended. -/
def coalEnded (key : Nat) (s : State) : State := { s with rel := { s.rel with coal := s.rel.coal.eraseIdx key } }

/-- The unit suspect no more, its block showing what the others leave. -/
def unsuspected (code inst unit minute : Nat) (s : State) : State :=
  let s1 : State := { s with rel := { s.rel with suspects := s.rel.suspects.erase (code, inst, unit, minute) } }
  setBlk (codePage code inst) { getBlk s1 (codePage code inst) with
    suspect := s1.rel.suspects.any (fun y => y.1 == code && y.2.1 == inst) } s1

theorem unsuspected_keeps (code inst unit minute : Nat) (s : State) : Keeps (.blk :: recordParts) s (unsuspected code inst unit minute s) :=
  have hself : Keeps (.blk :: recordParts) s s := .refl
  (hself.set_rel _).trans ((setBlk_keeps ..).mono (by decide))

/-! ### The record of an INFO event -/

theorem length_recBytes (s : State) (e : ErrEvent) (seq : Nat) (r : RecInfo) : (recBytes s e seq r).length = 784 := by
  have hguid (a b c d f : Nat) : (guidBytes a b c d f).length = 16 := by simp [guidBytes, Crypto.beBytes]
  have htime (n : Nat) : (timestamp n).length = 8 := rfl
  have hpart : partNumber.length = 16 := by decide
  have hwords (ws : List Word) : (wordsBytes ws).length = 8 * ws.length := by
    induction ws with
    | nil => rfl
    | cons w ws ih =>
      have h8 : (wordBytes w).length = 8 := length_toLe ..
      rw [wordsBytes, List.flatMap_cons, List.length_append, h8, List.length_cons]
      rw [wordsBytes] at ih
      omega
  have hdesc (off len : Nat) (pr : Bool) (g : List Byte) (sev : Nat) (hg : g.length = 16) : (sectionDesc off len pr g sev).length = 72 := by
    simp only [sectionDesc, List.length_append, length_toLe, hg, hpart, List.length_cons, List.length_nil]
  have hhead (sev : Nat) : (recHeader s sev seq).length = 128 := by
    unfold recHeader
    simp only [List.length_append, length_toLe, guidDevice, hguid, List.length_cons, List.length_nil]
    split <;> simp [htime]
  have hdev : (devSection s e seq r).length = 128 := by
    simp only [devSection, List.length_append, length_toLe, hwords, List.length_cons, List.length_nil]
  unfold recBytes
  simp only [List.length_append, hhead, hdesc _ _ _ guidDevice _ (hguid ..), hdesc _ _ _ guidSign _ (hguid ..), hdev,
    Config.pssSign, List.length_map, List.length_range]

theorem ringPut_room {s : State} (bs : List Byte)
    (hb : access s (cperBase s) = .ok)
    (ha : access s (cperBase s + 64 + 1024 * ((memWord s.mem (cperBase s)).toNat % 1024)) = .ok)
    (he : access s (cperBase s + 64 + 1024 * ((memWord s.mem (cperBase s)).toNat % 1024) + 1023) = .ok)
    (hroom : ((memWord s.mem (cperBase s)).toNat % 1024 + 1) % 1024 ≠ (memWord s.mem (cperBase s + 8)).toNat % 1024) :
    (ringPut bs s).mem = memStore (memStore s.mem (cperBase s + 64 + 1024 * ((memWord s.mem (cperBase s)).toNat % 1024))
      (bs ++ List.replicate (1024 - bs.length) 0)) (cperBase s) (toLe 8 (((memWord s.mem (cperBase s)).toNat % 1024 + 1) % 1024)) := by
  have heq : ringPut bs s = wrBytes 1 (cperBase s) (toLe 8 (((memWord s.mem (cperBase s)).toNat % 1024 + 1) % 1024))
      (wrBytes 1 (cperBase s + 64 + 1024 * ((memWord s.mem (cperBase s)).toNat % 1024))
        (bs ++ List.replicate (1024 - bs.length) 0) s) := if_pos ⟨hb, ha, he, hroom⟩
  rw [heq, wrBytes_mem, wrBytes_mem]

/-- What a record stored in the ring and the ring's WR behind it read. -/
theorem memBytes_ring {m : Mem} (h : Memory.wf m = true) (b wr : Nat) {v : Nat} {bs : List Byte} (hv : v < 1024) :
    memBytes (memStore (memStore m (b + 64 + 1024 * wr) (bs ++ List.replicate (1024 - bs.length) 0)) b (toLe 8 v))
        (b + 64 + 1024 * wr) bs.length = bs ∧
      (memWord (memStore (memStore m (b + 64 + 1024 * wr) (bs ++ List.replicate (1024 - bs.length) 0)) b (toLe 8 v)) b).toNat = v := by
  have hwf := memStore_wf (a := b + 64 + 1024 * wr) (bs := bs ++ List.replicate (1024 - bs.length) 0) h
  refine ⟨?_, ?_⟩
  · rw [memBytes_memStore_disjoint hwf (.inr (by rw [length_toLe]; omega)), memBytes_memStore_append h]
  · rw [memWord_memStore_toLe hwf b v (by omega), word, BitVec.toNat_ofNat]
    exact Nat.mod_eq_of_lt (by omega)

/-- Outside fail-quiet, without a firkin record to sign before it, the next record goes to the ring. -/
theorem emitRecord_ringPut {s : State} (e : ErrEvent) (r : RecInfo) (hfq : s.rel.fqActive = false)
    (hend : s.mtr.ended.find? (reqReady s) = none) : ∃ v, emitRecord e r s = ringPut (recBytes s e (s.rel.seq + 1) r) v ∧
      AccessSame s v ∧ v.mem = s.mem ∧ v.regs = s.regs := by
  have hsign : signReady s = s := signReady_none hend
  unfold emitRecord
  extract_lets x seq bs logged all old s1 s2
  have hx : x = s := hsign
  have hs1 : Keeps [.rel, .sec] s s1 := by
    unfold s1
    rw [hx]
    exact (Keeps.refl (ps := [.rel, .sec])).set_rel _
  have hs2 : Keeps [.rel, .sec] s s2 := hs1.step (journal_keeps ..)
  have hfq2 : s2.rel.fqActive = false := by
    rw [show s2.rel = s1.rel from (journal_keeps ..).1 .rel (by decide)]
    show x.rel.fqActive = false
    rw [hx]
    exact hfq
  refine ⟨s2, ?_, .of_keeps hs2, hs2.1 .mem (by decide), hs2.1 .regs (by decide)⟩
  rw [if_neg (by simp [hfq2])]
  show ringPut (recBytes x e (x.rel.seq + 1) r) s2 = _
  rw [hx]

/-- With room in the ring and no firkin record to sign before it, a record stands at the ring's WR, which moves on. -/
theorem emitRecord_ring {s : State} (e : ErrEvent) (r : RecInfo) {b wr : Nat} (hwf : Memory.wf s.mem = true) (hfq : s.rel.fqActive = false)
    (hend : s.mtr.ended.find? (reqReady s) = none) (hcper : cperBase s = b) (hwr : (memWord s.mem b).toNat % 1024 = wr)
    (hb : access s b = .ok) (ha : access s (b + 64 + 1024 * wr) = .ok) (he : access s (b + 64 + 1024 * wr + 1023) = .ok)
    (hroom : (wr + 1) % 1024 ≠ (memWord s.mem (b + 8)).toNat % 1024) :
    memBytes (emitRecord e r s).mem (b + 64 + 1024 * wr) 784 = recBytes s e (s.rel.seq + 1) r ∧
      (memWord (emitRecord e r s).mem b).toNat = (wr + 1) % 1024 := by
  obtain ⟨v, hv, hsame, hmem, hregs⟩ := emitRecord_ringPut e r hfq hend
  have hbase : cperBase v = b := by rw [← hcper, cperBase, cperBase, regFld, regFld, getReg_congr hregs]
  have hring := ringPut_room (s := v) (recBytes s e (s.rel.seq + 1) r)
  rw [hbase, hmem, hwr, hsame.access, hsame.access, hsame.access] at hring
  rw [hv, hring hb ha he hroom]
  have hat := memBytes_ring (bs := recBytes s e (s.rel.seq + 1) r) hwf b wr (Nat.mod_lt (wr + 1) (by decide : 0 < 1024))
  rw [length_recBytes s] at hat ⊢
  exact hat

/-- Settles O49: every event ends in `emitRecord`, which changes nothing of the Cobbler but the records (`RecordsOnly`). -/
theorem eventsBecomeRecordsAndHistory : Obligations.EventsBecomeRecordsAndHistory := by
  refine ⟨?info, ?new, ?again, ?counted, ?running, ?none, ?some, ?cleared⟩
  case info =>
    intro s e hn hc hfq hend b wr u hb ha he hroom
    have heq : eventEffect s = emitRecord e {} u := eventEffect_info hn hc
    have hrel : u.rel = { s.rel with events := s.rel.events.erase e } := eventTaken_rel e s
    obtain ⟨hrec, hseq⟩ := emitRecord_recordsOnly e {} u
    refine ⟨_, congrArg Host.Outcome.next heq, ?_, ?_, fun hinv => ?_, ?_, ?_⟩
    · rw [hrec.rel, hrel]
    · rw [hseq, hrel]
    · have hk := eventTaken_keeps e s
      have hsame : AccessSame s u := eventTaken_accessSame e s
      have hmtr : u.mtr = s.mtr := hk.1 .mtr (by decide)
      have htck : u.tck = s.tck := hk.1 .tck (by decide)
      have hready : reqReady u = reqReady s := by
        funext r
        rw [reqReady, reqReady, hmtr, htck]
      have hbase : cperBase u = cperBase s :=
        congrArg (fun x => fld x 49 12 * 4096) (getReg_eventTaken (by decide) (by decide) e s _)
      have hm : u.mem = s.mem := hk.1 .mem (by decide)
      have hwf : Memory.wf u.mem = true := by rw [hm]; exact hinv
      have hring := emitRecord_ring (s := u) (b := b) (wr := wr) e {} hwf (by rw [hrel]; exact hfq) (by rw [hready, hmtr]; exact hend)
        hbase (by rw [hm]) (by rw [hsame.access]; exact hb) (by rw [hsame.access]; exact ha) (by rw [hsame.access]; exact he)
        (by rw [hm]; exact hroom)
      rw [hrel] at hring
      exact hring
    · rw [hrec.rel, hrel]
    · rw [← heq]
      exact ((eventEffect_keeps s).mono (by decide)).1
  case new =>
    intro s e hn hc hf hl
    obtain ⟨r, heq⟩ := eventEffect_silent hn hc
    obtain ⟨hev, hhist, hmin, hseq, -⟩ := eventSeen_rel e s
    have happ := histApply_new (e := e) (s := eventSeen e s) (by omega) (by rw [hhist]; exact hf) (by rw [hhist]; exact hl)
    obtain ⟨hkeys, hsus⟩ := suspectUnit_spec e.code e.inst e.unit e.kind e.locus
      (histSet ((eventSeen e s).rel.hist.filter (fun h => !h.is e) ++ [freshEntry e (eventSeen e s)]) (eventSeen e s))
    rw [← happ] at hkeys hsus
    rw [histSet_rel] at hsus
    obtain ⟨hrec, hnext⟩ := emitRecord_recordsOnly e r (histApply e (eventSeen e s)).2.2
    refine ⟨_, congrArg Host.Outcome.next heq, ?_, ?_, ?_, ?_, ?_⟩
    · rw [hrec.keysSame.events, hkeys.events, histSet_rel]
      exact hev
    · rw [hrec.keysSame.hist, hkeys.hist, histSet_rel]
      refine List.mem_append_right _ ?_
      rw [freshEntry, hmin]
      exact List.mem_singleton_self _
    · rw [hrec.rel, ← hmin]
      exact hsus
    · have h1 := hkeys.seq
      rw [histSet_rel] at h1
      have h2 : (eventSeen e s).rel.seq ≤ (histApply e (eventSeen e s)).2.2.rel.seq := h1
      omega
    · rw [← heq]
      exact ((eventEffect_keeps s).mono (by decide)).1
  case again =>
    intro s e h hn hc hf hw
    obtain ⟨r, heq⟩ := eventEffect_silent hn hc
    obtain ⟨hev, hhist, hmin, -, -⟩ := eventSeen_rel e s
    have hreg : regFld (eventSeen e s) cblPage 0x208 23 0 = regFld s cblPage 0x208 23 0 :=
      congrArg (fld · 23 0) (getReg_eventTaken (by decide) (by decide) e s _)
    have happ := histApply_again (e := e) (s := eventSeen e s) (h := h) (by rw [hhist]; exact hf) (by rw [hmin, hreg]; exact hw)
    have hkeys : KeysSame (histSet ((eventSeen e s).rel.hist.filter (fun h => !h.is e) ++
        [{ h with count := h.count + 1, last := (eventSeen e s).rel.opMin, perm := true }]) (eventSeen e s))
        (histApply e (eventSeen e s)).2.2 := by
      obtain h | h := happ
      · rw [h]
        exact .refl
      · rw [h]
        exact actPermanent_keysSame ..
    have hrec := (emitRecord_recordsOnly e r (histApply e (eventSeen e s)).2.2).1.keysSame
    refine ⟨_, congrArg Host.Outcome.next heq, ?_, ?_, ?_⟩
    · rw [hrec.events, hkeys.events, histSet_rel]
      exact hev
    · rw [hrec.hist, hkeys.hist, histSet_rel]
      refine List.mem_append_right _ ?_
      rw [hmin]
      exact List.mem_singleton_self _
    · rw [← heq]
      exact ((eventEffect_keeps s).mono (by decide)).1
  case counted =>
    intro s e c hn hc hcoal hcode hinst hunit hkind hlocus
    refine ⟨_, rfl, eventEffect_counted hn hc hcoal ?_⟩
    simp [sameKey, hcode, hinst, hunit, hkind, hlocus]
  case running =>
    intro s key c hc h
    have heq : coalesceEffect key s = s := by
      unfold coalesceEffect
      rw [hc]
      exact if_pos h
    exact congrArg Host.Outcome.next heq
  case none =>
    intro s key c hc h0 hup hmin
    have heq : coalesceEffect key s = { s with rel := { s.rel with coal := s.rel.coal.eraseIdx key } } := by
      unfold coalesceEffect
      rw [hc]
      exact (if_neg (by simp [hup]; omega)).trans (if_pos h0)
    refine ⟨_, congrArg Host.Outcome.next heq, rfl, ((Keeps.refl (ps := [.rel])).set_rel _).1⟩
  case some =>
    intro s key c hc h0 hup hmin
    obtain ⟨r, heq⟩ : ∃ r, coalesceEffect key s = emitRecord { c.ev with tick := s.tck.num } r (coalEnded key s) := by
      unfold coalesceEffect
      rw [hc]
      exact ⟨_, (if_neg (by simp [hup]; omega)).trans (if_neg h0)⟩
    obtain ⟨hrec, hseq⟩ := emitRecord_recordsOnly { c.ev with tick := s.tck.num } r (coalEnded key s)
    refine ⟨_, congrArg Host.Outcome.next heq, ?_, hseq, ?_, ?_, ?_⟩
    · rw [hrec.rel]
      rfl
    · rw [hrec.rel]
      rfl
    · rw [hrec.rel]
      rfl
    · have hself : Keeps recordParts s s := .refl
      have hk : Keeps recordParts (coalEnded key s) (emitRecord { c.ev with tick := s.tck.num } r (coalEnded key s)) :=
        (emitRecord_keeps ..).mono (by decide)
      exact ((hself.set_rel { s.rel with coal := s.rel.coal.eraseIdx key }).trans hk).1
  case cleared =>
    intro s code inst unit minute hf hmin hup
    obtain ⟨e, r, heq⟩ : ∃ e r, suspectClearEffect code inst unit s = emitRecord e r (unsuspected code inst unit minute s) := by
      unfold suspectClearEffect
      rw [hf]
      exact ⟨_, _, if_neg (by simp [hup]; omega)⟩
    obtain ⟨hrec, hseq⟩ := emitRecord_recordsOnly e r (unsuspected code inst unit minute s)
    have hk : Keeps recordParts (unsuspected code inst unit minute s) (emitRecord e r (unsuspected code inst unit minute s)) :=
      (emitRecord_keeps ..).mono (by decide)
    have hsus : (emitRecord e r (unsuspected code inst unit minute s)).rel.suspects = s.rel.suspects.erase (code, inst, unit, minute) := by
      rw [hrec.rel]
      rfl
    refine ⟨_, congrArg Host.Outcome.next heq, hsus, hseq, ?_, ?_⟩
    · have hblk : (getBlk (emitRecord e r (unsuspected code inst unit minute s)) (codePage code inst)).suspect =
          (s.rel.suspects.erase (code, inst, unit, minute)).any (fun y => y.1 == code && y.2.1 == inst) := by
        rw [getBlk_congr (hk.1 .blk (by decide))]
        rw [unsuspected, getBlk_setBlk, if_pos rfl]
      rw [hblk, hsus]
      simp
    · have hself : Keeps (.blk :: recordParts) s s := .refl
      exact ((hself.trans (unsuspected_keeps code inst unit minute s)).trans (hk.mono (by decide))).1

end Sys2Proof.Machine
end

section
/-! SUPPORT. Map-out requests, operating minutes and firmware health (R351, R355-R357, R360). -/

namespace Sys2Proof.Machine

/-! ### Registers that a store leaves -/

theorem getReg_storeReg_ne {page off p o : Nat} (h : regKey p o ≠ regKey page off) (v : Word) (s : State) :
    getReg (storeReg page off v s) p o = getReg s p o := by
  unfold storeReg
  split
  · rfl
  · exact getReg_setReg_ne h _ _

/-! ### Error and interrupt bits stay -/

/-- No bit of an ERR_STS or INT_STS that was 1 is 0. -/
structure BitsStay (s t : State) : Prop where
  stay : ∀ p o i, o = 0x20 ∨ o = 0x38 → i < 64 → bit (getReg s p o) i = true → bit (getReg t p o) i = true

theorem BitsStay.refl {s : State} : BitsStay s s := ⟨fun _ _ _ _ _ h => h⟩

theorem BitsStay.trans {s t u : State} (h : BitsStay s t) (k : BitsStay t u) : BitsStay s u :=
  ⟨fun p o i ho hi hb => k.stay p o i ho hi (h.stay p o i ho hi hb)⟩

theorem BitsStay.of_regs {s t : State} (h : t.regs = s.regs) : BitsStay s t := ⟨fun p o _ _ _ hb => by rw [getReg_congr h p o]; exact hb⟩

theorem BitsStay.of_keeps {s t : State} {ps : List Part} (k : Keeps ps s t) (h : .regs ∉ ps := by decide) : BitsStay s t :=
  .of_regs (k.1 .regs h)

/-- A first change that leaves the registers leaves nothing to show for it. -/
theorem BitsStay.of_first {s t u : State} (k : BitsStay t u) (h : t.regs = s.regs) : BitsStay s u := (BitsStay.of_regs h).trans k

theorem setReg_bitsStay {off : Nat} (ho : off < 65536) (h4 : off / 8 ≠ 4) (h7 : off / 8 ≠ 7) (page : Nat) (v : Word) (s : State) :
    BitsStay s (setReg page off v s) := by
  refine ⟨fun p o i h hi hb => ?_⟩
  rw [getReg_setReg_ne]
  · exact hb
  · unfold regKey
    omega

/-- A bit set in one of the two registers leaves the others as they are. -/
theorem setBit_bitsStay {off n : Nat} (hn : n < 64) (h : off = 0x20 ∨ off = 0x38) (page : Nat) (s : State) :
    BitsStay s (setReg page off (setBit (getReg s page off) n true) s) := by
  refine ⟨fun p o i ho hi hb => ?_⟩
  by_cases hk : regKey p o = regKey page off
  · obtain ⟨rfl, rfl⟩ : p = page ∧ o = off := by
      unfold regKey at hk
      omega
    rw [getReg_setReg_same]
    by_cases hin : i = n
    · rw [hin, bit_setBit _ _ _ hn]
    · rw [bit_setBit_ne _ _ _ _ hin]
      exact hb
  · rw [getReg_setReg_ne hk]
    exact hb

theorem intSet_bitsStay {i : Nat} (hi : i < 64) (page : Nat) (s : State) : BitsStay s (intSet page i s) := by
  unfold intSet
  extract_lets s1
  have h1 : BitsStay s s1 := setBit_bitsStay hi (.inr rfl) page s
  split
  · exact h1.trans (.of_keeps (deliver_keeps ..))
  · exact h1

theorem raise_bitsStay {i : Nat} (hi : i < 64) (page off : Nat) (s : State) : BitsStay s (raise page i off s) := by
  unfold raise
  extract_lets s1 s2
  have h1 : BitsStay s s1 := setBit_bitsStay hi (.inl rfl) page s
  split
  · exact h1
  · refine (h1.trans ?_).trans (intSet_bitsStay (by decide) page s2)
    unfold s2
    split
    · exact .refl
    · exact setReg_bitsStay (by decide) (by decide) (by decide) ..

theorem wrBytes_bitsStay (cls a : Nat) (bs : List Byte) (s : State) : BitsStay s (wrBytes cls a bs s) := .of_keeps (wrBytes_counts ..)

theorem firkinEffect_bitsStay (s : State) : BitsStay s (firkinEffect s) := by
  have hmirror (u : State) : BitsStay u (mirrorPtr u) := by
    unfold mirrorPtr
    extract_lets q
    split
    · exact wrBytes_bitsStay ..
    · exact .refl
  have hkept (f : Firkin) (u : State) : BitsStay u (keepFirkin f u) := by
    unfold keepFirkin
    dsimp only
    generalize u.mtr.kept ++ [f] = all
    split
    · exact .of_regs rfl
    cases all with
    | nil => exact .of_regs rfl
    | cons old rest =>
      dsimp only
      split
      · exact .of_regs rfl
      · exact ((setReg_bitsStay (by decide) (by decide) (by decide) ..).trans (raise_bitsStay (by decide) ..)).of_first rfl
  unfold firkinEffect
  split
  · exact .refl
  · rename_i r _
    extract_lets seq body bytes q wr room old s1 s2 s3
    have hs2 : BitsStay s s2 := by
      unfold s2
      split
      · exact ((wrBytes_bitsStay ..).trans ((setReg_bitsStay (by decide) (by decide) (by decide) ..).trans (hmirror _))).of_first rfl
      · exact (setReg_bitsStay (by decide) (by decide) (by decide) ..).of_first rfl
    have hs3 : BitsStay s s3 := hs2.trans ((BitsStay.of_keeps (journal_keeps ..)).trans (hkept _ _))
    exact hs3.trans ((setReg_bitsStay (by decide) (by decide) (by decide) ..).trans (intSet_bitsStay (by decide) ..))

theorem signReady_bitsStay (s : State) : BitsStay s (signReady s) := by
  have hfold (l : List Req) (u : State) : BitsStay u (l.foldl (fun v _ => firkinEffect v) u) := by
    induction l generalizing u with
    | nil => exact .refl
    | cons r l ih => exact (firkinEffect_bitsStay u).trans (ih _)
  exact hfold ..

theorem emitRecord_bitsStay (e : ErrEvent) (r : RecInfo) (s : State) : BitsStay s (emitRecord e r s) := by
  unfold emitRecord
  extract_lets u seq bs logged all old s1 s2
  have hs1 : BitsStay s s1 := (signReady_bitsStay s).trans (.of_regs rfl)
  have hs2 : BitsStay s s2 := hs1.trans (.of_keeps (journal_keeps ..))
  split
  · exact hs2
  · refine hs2.trans ?_
    unfold ringPut
    extract_lets b wr rd a
    split
    · exact (wrBytes_bitsStay ..).trans (wrBytes_bitsStay ..)
    · exact (raise_bitsStay (by decide) ..).of_first rfl

theorem acceptCmd_bitsStay (src : CmdSrc) (e : Envelope) (key : List Byte) (keep : Bool) (payload : List Byte) (s : State) :
    BitsStay s (acceptCmd src e key keep payload s) := by
  have hdoor (a : Nat) (bs : List Byte) (u : State) : BitsStay u (doorAnswer a bs u) := by
    unfold doorAnswer
    extract_lets r1 r2 src s1
    split
    · exact .of_regs rfl
    · refine BitsStay.trans (t := s1) ?_ (.of_regs rfl)
      unfold s1
      split
      · exact wrBytes_bitsStay ..
      · exact .refl
  have hsend (bs : List Byte) (u : State) : BitsStay u (sendResponse src bs u) := by
    unfold sendResponse
    split
    · exact hdoor ..
    · exact .of_keeps (sendMgt_keeps ..)
    · exact .of_regs rfl
  unfold acceptCmd answerOrHold
  extract_lets head x
  split
  · exact .of_regs rfl
  · exact (hsend _ _).of_first rfl

/-! ### The persistent objects (R385) -/

/-- The journal has grown: nothing else of SEC's state has changed. -/
def JournalOnly (s t : State) : Prop :=
  t.sec = { s.sec with halfA := t.sec.halfA, halfB := t.sec.halfB, used := t.sec.used, compacting := t.sec.compacting,
                       heldBytes := t.sec.heldBytes }

theorem JournalOnly.of_sec {s t : State} (h : t.sec = s.sec) : JournalOnly s t := by
  unfold JournalOnly
  rw [h]

theorem JournalOnly.of_keeps {s t : State} {ps : List Part} (k : Keeps ps s t) (h : .sec ∉ ps := by decide) : JournalOnly s t :=
  .of_sec (k.1 .sec h)

theorem JournalOnly.trans {s t u : State} (h : JournalOnly s t) (k : JournalOnly t u) : JournalOnly s u := by
  unfold JournalOnly at *
  rw [k, h]

theorem journal_journalOnly (n : Nat) (s : State) : JournalOnly s (journal n s) := by
  unfold journal
  extract_lets x m y
  split
  · exact rfl
  · have hy : y = { x with halfA := y.halfA, halfB := y.halfB } := by
      unfold y appendRec
      split <;> rfl
    unfold JournalOnly
    show { y with used := _, compacting := _ } = _
    rw [hy]

theorem firkinEffect_journalOnly (s : State) : JournalOnly s (firkinEffect s) := by
  have hwr (cls a : Nat) (bs : List Byte) (u : State) : JournalOnly u (wrBytes cls a bs u) := .of_keeps (wrBytes_counts ..)
  have hmirror (u : State) : JournalOnly u (mirrorPtr u) := by
    unfold mirrorPtr
    extract_lets q
    split
    · exact hwr ..
    · exact .of_sec rfl
  unfold firkinEffect
  split
  · exact .of_sec rfl
  · rename_i r _
    extract_lets seq body bytes q wr room old s1 s2 s3
    have hs2 : JournalOnly s s2 := by
      unfold s2
      split
      · exact (JournalOnly.of_sec (t := s1) rfl).trans ((hwr ..).trans ((JournalOnly.of_keeps (setReg_keeps ..)).trans (hmirror _)))
      · exact .of_sec rfl
    have hs3 : JournalOnly s s3 := hs2.trans ((journal_journalOnly ..).trans (.of_keeps (keepFirkin_keeps ..)))
    exact hs3.trans ((JournalOnly.of_keeps (setReg_keeps ..)).trans (.of_keeps (intSet_keeps ..)))

theorem emitRecord_journalOnly (e : ErrEvent) (r : RecInfo) (s : State) : JournalOnly s (emitRecord e r s) := by
  have hsign (l : List Req) (u : State) : JournalOnly u (l.foldl (fun v _ => firkinEffect v) u) := by
    induction l generalizing u with
    | nil => exact .of_sec rfl
    | cons r l ih => exact (firkinEffect_journalOnly u).trans (ih _)
  unfold emitRecord
  extract_lets u seq bs logged all old s1 s2
  have hs1 : JournalOnly s s1 := (hsign ..).trans (.of_sec rfl)
  have hs2 : JournalOnly s s2 := hs1.trans (journal_journalOnly ..)
  split
  · exact hs2
  · refine hs2.trans ?_
    unfold ringPut
    extract_lets b wr rd a
    split
    · exact (JournalOnly.of_keeps (wrBytes_counts ..)).trans (.of_keeps (wrBytes_counts ..))
    · exact .of_sec ((raise_keeps ..).1 .sec (by decide))

/-! ### Map-out requests (R355-R357) -/

theorem acceptCmd_rel (src : CmdSrc) (e : Envelope) (key : List Byte) (keep : Bool) (payload : List Byte) (s : State) :
    (acceptCmd src e key keep payload s).rel = s.rel := by
  have hdoor (a : Nat) (bs : List Byte) (u : State) : (doorAnswer a bs u).rel = u.rel := by
    unfold doorAnswer
    extract_lets r1 r2 src s1
    split
    · rfl
    · show s1.rel = u.rel
      unfold s1
      split
      · exact (wrBytes_counts ..).1 .rel (by decide)
      · rfl
  have hsend (bs : List Byte) (u : State) : (sendResponse src bs u).rel = u.rel := by
    unfold sendResponse
    split
    · exact hdoor ..
    · exact (sendMgt_keeps ..).1 .rel (by decide)
    · rfl
  unfold acceptCmd answerOrHold
  extract_lets head x
  split
  · rfl
  · exact hsend _ _

/-- The requests with a new one behind them: taken up at once where it is the only one, waiting behind one that has begun. -/
theorem mapBegin_first {s : State} {q : MapReq} (hreqs : s.rel.reqs = [q]) (hb : q.begun = false) :
    ∃ beyond, (mapBegin s).rel = { s.rel with
      reqs := [{ q with begun := true, result := (mapStart q s).1, beyond := beyond }], mapBusy := true, mapDone := false } := by
  unfold mapBegin
  rw [hreqs]
  dsimp only
  rw [if_neg (by simp [hb])]
  exact ⟨_, by rw [mapStart_rel]⟩

theorem mapBegin_begun {s : State} {q : MapReq} {rest : List MapReq} (hreqs : s.rel.reqs = q :: rest) (hb : q.begun = true) :
    mapBegin s = s := by
  unfold mapBegin
  rw [hreqs]
  exact if_pos hb

theorem mapBegin_none {s : State} (hreqs : s.rel.reqs = []) : mapBegin s = { s with rel := { s.rel with mapBusy := false } } := by
  unfold mapBegin
  rw [hreqs]

theorem mapStart_refused {q : MapReq} {s : State} :
    (unitOf q.code q.inst q.unit = none → (mapStart q s).1 = 4) ∧
    ∀ u, unitOf q.code q.inst q.unit = some u → isOut s q.code q.inst u = true → (mapStart q s).1 = 5 := by
  unfold mapStart
  refine ⟨fun h => ?_, fun u h hout => ?_⟩
  · rw [h]
  · rw [h]
    exact congrArg Prod.fst (if_pos hout)

/-- The request that a write of MAPOUT_REQ names. -/
def namedReq (v : Word) : MapReq := ⟨fld v 15 0, fld v 23 16, fld v 31 24, bit v 32, false, false, 0, false⟩

theorem mapoutReqEffect_go {v : Word} {s : State} (h : takesWork s cblPage = true) :
    mapoutReqEffect (v ||| word (2 ^ 33)) s = mapEnqueue (namedReq v) (storeReg cblPage 0x230 (v ||| word (2 ^ 33)) s) := by
  have hgo : bit (v ||| word (2 ^ 33)) 33 = true := by
    have h33 : bit (word (2 ^ 33)) 33 = true := by decide
    rw [bit] at h33 ⊢
    rw [BitVec.getLsbD_or, h33, Bool.or_true]
  have hmask : ∀ i < 33, bit (word (2 ^ 33)) i = false := by decide
  have hfld (hi lo : Nat) (hlt : hi < 33) : fld (v ||| word (2 ^ 33)) hi lo = fld v hi lo :=
    fld_eq_of_bits fun i _ hhi => bit_or_word (hmask i (by omega))
  unfold mapoutReqEffect
  dsimp only
  rw [if_neg (not_or.mpr ⟨by rw [hgo]; decide, by rw [h]; decide⟩), hfld 15 0 (by decide), hfld 23 16 (by decide), hfld 31 24 (by decide), bit_or_word (hmask 32 (by decide))]
  rfl

/-- The map-out table with the unit of a request that succeeded. -/
def mapEntered (q : MapReq) (s : State) : List MapEnt :=
  s.rel.mapTab ++ [⟨q.code, q.inst, (unitOf q.code q.inst q.unit).getD q.unit, q.force, s.rel.opMin, (getHbm s q.inst).copyDst⟩]

/-- The map-out in hand over, with its result and, when it succeeded, its entry in the table. -/
def mapEnded (q : MapReq) (s : State) : Rel :=
  { s.rel with reqs := [], mapBusy := false, mapDone := true, mapResult := q.result, mapTab := if q.result = 0 then mapEntered q s else s.rel.mapTab }

/-- A map-out's end enters the unit or raises the refusal, with one record, before the next request is taken up. -/
theorem mapoutDoneEffect_chain {s : State} {q : MapReq} (hreqs : s.rel.reqs = [q]) (hb : q.begun = true) (hr : mapReady s q = true)
    (hup : cobblerUp s = true) : ∃ s2 s5, mapoutDoneEffect s = mapBegin s5 ∧ RecordsOnly s2 s5 ∧ s5.rel.seq = s2.rel.seq + 1 ∧
      BitsStay s2 s5 ∧ s2.rel = mapEnded q s ∧
      (q.result = 0 → bit (getReg s2 cblPage 0x38) 1 = true) ∧ (q.result ≠ 0 → bit (getReg s2 cblPage 0x20) 12 = true) := by
  unfold mapoutDoneEffect
  split
  · rename_i h
    cases hreqs.symm.trans h
  rename_i q' rest h
  cases hreqs.symm.trans h
  rw [if_neg (by simp [hb, hr, hup])]
  extract_lets u ok tab src s1 s2 s3 s4 src4 s5
  have hok : ok = true ↔ q.result = 0 := decide_eq_true_iff
  have hs1 : s2.rel = s1.rel := by
    unfold s2
    split
    · rw [(intSet_keeps ..).1 .rel (by decide), (journal_keeps ..).1 .rel (by decide), (mapFinish_keeps ..).1 .rel (by decide)]
    · exact (raise_keeps ..).1 .rel (by decide)
  obtain ⟨hrec, hseq⟩ : RecordsOnly s2 s3 ∧ s3.rel.seq = s2.rel.seq + 1 := infoRecord_recordsOnly ..
  have hb3 : BitsStay s2 s3 := emitRecord_bitsStay ..
  have hk4 : Keeps [.out, .cnt, .act, .lnk, .keys] s3 s4 := .ite (fun _ => mapNotice_keeps ..) (fun _ => .refl)
  have hs5 : s5.rel = s4.rel ∧ BitsStay s4 s5 := by
    unfold s5
    split
    · exact ⟨acceptCmd_rel .., (acceptCmd_bitsStay ..).of_first rfl⟩
    · exact ⟨rfl, .refl⟩
  have hrel5 : s5.rel = s3.rel := hs5.1.trans (hk4.1 .rel (by decide))
  refine ⟨s2, s5, rfl, hrec.trans (.of_rel hrel5), by rw [hrel5, hseq], (hb3.trans (.of_keeps hk4)).trans hs5.2, ?_, fun h0 => ?_, fun h0 => ?_⟩
  · rw [hs1]
    unfold s1 tab mapEnded
    simp only [hok]
    rfl
  · unfold s2
    rw [if_pos (hok.mpr h0)]
    exact bit_intSts_intSet _ _ _ (by decide)
  · unfold s2
    rw [if_neg (fun h => h0 (hok.mp h))]
    exact bit_errSts_raise _ _ _ _ (by decide)

/-- The operating minute counted, with the whole kilojoules since the last one in the lifetime energy. -/
def minuteCounted (s : State) : State :=
  let kJ := (s.mtr.total - s.mtr.lifeDone) / 1000000000
  { s with rel := { s.rel with opMin := s.rel.opMin + 1 },
           mtr := { s.mtr with life := s.mtr.life + kJ, lifeDone := s.mtr.lifeDone + kJ * 1000000000 } }

theorem minuteCounted_keeps (s : State) : Keeps [.rel, .mtr] s (minuteCounted s) :=
  have hself : Keeps [.rel, .mtr] s s := .refl
  (hself.set_rel { s.rel with opMin := s.rel.opMin + 1 }).set_mtr _

/-! ### A group switched (R360) -/

/-- The number with bit g turned. -/
theorem turned_bit (a g : Nat) : (a + 2 ^ g - 2 * (a / 2 ^ g % 2) * 2 ^ g) / 2 ^ g % 2 = 1 - a / 2 ^ g % 2 := by
  have hpos : 0 < 2 ^ g := Nat.two_pow_pos g
  obtain h | h : a / 2 ^ g % 2 = 0 ∨ a / 2 ^ g % 2 = 1 := by omega
  · rw [h, show a + 2 ^ g - 2 * 0 * 2 ^ g = a + 2 ^ g from by omega, Nat.add_div_right _ hpos]
    omega
  · have hle : 2 ^ g ≤ a := by
      by_contra hlt
      rw [Nat.div_eq_of_lt (by omega)] at h
      omega
    rw [h, show a + 2 ^ g - 2 * 1 * 2 ^ g = a - 2 ^ g from by omega]
    have h1 := Nat.add_div_right (a - 2 ^ g) hpos
    rw [show a - 2 ^ g + 2 ^ g = a from by omega] at h1
    omega

theorem fwFlip_spec (g : Nat) (reverted : Bool) (s : State) :
    fwSlot (fwFlip g reverted s) g = 1 - fwSlot s g ∧ (fwFlip g reverted s).sec.trial = s.sec.trial ∧
      (fwFlip g reverted s).sec.switching = s.sec.switching := by
  unfold fwFlip
  extract_lets old src s1 d
  have hj : JournalOnly { s with sec := { s.sec with active := s.sec.active + 2 ^ g - 2 * old * 2 ^ g } } (infoRecord 0x73 0 0 0x0F g d {} s1) :=
    (journal_journalOnly ..).trans (emitRecord_journalOnly ..)
  rw [JournalOnly] at hj
  refine ⟨?_, ?_, ?_⟩
  · rw [fwSlot, hj]
    exact turned_bit _ _
  · rw [hj]
  · rw [hj]

/-- Settles O51: a request is judged when it is taken up, and its end makes one record between the entry and the next request. -/
theorem mapOutsMinutesAndHealth : Obligations.MapOutsMinutesAndHealth := by
  refine ⟨?first, ?idle, ?behind, ?done, ?minute, ?health⟩
  case first =>
    intro s who v ha hreqs hw
    have heff := mapoutReqEffect_go (v := v) hw
    have hrel : (storeReg cblPage 0x230 (v ||| word (2 ^ 33)) s).rel = s.rel := (storeReg_keeps ..).1 .rel (by decide)
    obtain ⟨u, hu⟩ : ∃ u : State, u = { storeReg cblPage 0x230 (v ||| word (2 ^ 33)) s with rel := { s.rel with reqs := [namedReq v] } } := ⟨_, rfl⟩
    have hen : mapEnqueue (namedReq v) (storeReg cblPage 0x230 (v ||| word (2 ^ 33)) s) = mapBegin u := by
      rw [mapEnqueue, hrel, hreqs, hu]
      rfl
    have hurel : u.rel = { s.rel with reqs := [namedReq v] } := by rw [hu]
    obtain ⟨beyond, hb⟩ := mapBegin_first (s := u) (q := namedReq v) (by rw [hurel]) rfl
    refine ⟨_, _, congrArg Host.Outcome.next ((regGuard_admits ha).trans (heff.trans hen)), by rw [hb], rfl, rfl, rfl, rfl, rfl,
      by rw [hb], by rw [hb], mapStart_refused.1, fun w hw1 hout => mapStart_refused.2 w hw1 ?_, ?_, ?_⟩
    · rw [isOut, hurel]
      exact hout
    · rw [hb, hurel]
    · rw [← hen, ← heff]
      exact (mapoutReqEffect_keeps ..).1
  case idle =>
    intro s who v ha hw
    have heff : mapoutReqEffect (v ||| word (2 ^ 33)) s = storeReg cblPage 0x230 (v ||| word (2 ^ 33)) s := if_pos (.inr hw)
    exact ⟨_, congrArg Host.Outcome.next ((regGuard_admits ha).trans heff), congrArg Rel.reqs ((storeReg_keeps ..).1 .rel (by decide)),
      (storeReg_keeps ..).1⟩
  case behind =>
    intro s who v q rest ha hreqs hb hw
    have heff := mapoutReqEffect_go (v := v) hw
    have hrel : (storeReg cblPage 0x230 (v ||| word (2 ^ 33)) s).rel = s.rel := (storeReg_keeps ..).1 .rel (by decide)
    obtain ⟨u, hu⟩ : ∃ u : State, u = { storeReg cblPage 0x230 (v ||| word (2 ^ 33)) s with
      rel := { s.rel with reqs := q :: rest ++ [namedReq v] } } := ⟨_, rfl⟩
    have hen : mapEnqueue (namedReq v) (storeReg cblPage 0x230 (v ||| word (2 ^ 33)) s) = u := by
      rw [mapEnqueue, hrel, hreqs, hu]
      exact mapBegin_begun rfl hb
    refine ⟨u, congrArg Host.Outcome.next ((regGuard_admits ha).trans (heff.trans hen)), by rw [hu]; rfl, ?_⟩
    have hself : Keeps [.regs, .rel] s s := .refl
    rw [hu]
    exact ((hself.step (storeReg_keeps ..)).set_rel _).1
  case done =>
    intro s q hreqs hb hr hup
    obtain ⟨s2, s5, heq, hrec, hseq, hbits, hrel, hpos, hneg⟩ := mapoutDoneEffect_chain hreqs hb hr hup
    have hrel5 : s5.rel = _ := hrec.rel
    have hnone : mapBegin s5 = { s5 with rel := { s5.rel with mapBusy := false } } := mapBegin_none (by rw [hrel5, hrel]; rfl)
    have hseqs : s2.rel.seq = s.rel.seq := by rw [hrel]; rfl
    have hrelt : (mapoutDoneEffect s).rel = { s5.rel with mapBusy := false } := by rw [heq, hnone]
    have hregs (o : Nat) : getReg (mapoutDoneEffect s) cblPage o = getReg s5 cblPage o := by
      rw [heq, hnone]
      rfl
    have htab : s5.rel.mapTab = if q.result = 0 then mapEntered q s else s.rel.mapTab := by rw [hrel5, hrel]; rfl
    refine ⟨_, rfl, by rw [hrelt, hrel5, hrel]; rfl, by rw [hrelt], by rw [hrelt, hrel5, hrel]; rfl, by rw [hrelt, hrel5, hrel]; rfl,
      by rw [hrelt, ← hseqs, ← hseq], fun h0 => ⟨?_, ?_⟩, fun h0 => ⟨?_, ?_⟩, ?_⟩
    · rw [hrelt]
      exact htab.trans (if_pos h0)
    · rw [hregs]
      exact hbits.stay _ _ _ (.inr rfl) (by decide) (hpos h0)
    · rw [hrelt]
      exact htab.trans (if_neg h0)
    · rw [hregs]
      exact hbits.stay _ _ _ (.inl rfl) (by decide) (hneg h0)
    · exact (mapoutDoneEffect_keeps s).1
  case minute =>
    intro s hp hrls
    have heff : minuteEffect s = journal 16 (minuteCounted s) := if_neg (by simp [hp, hrls])
    have hk : Keeps [.rel, .mtr, .sec] s (minuteCounted s) := (minuteCounted_keeps s).mono (by decide)
    have hj := journal_keeps 16 (minuteCounted s)
    exact ⟨_, congrArg Host.Outcome.next heff, by rw [hj.1 .rel (by decide)]; rfl, by rw [hj.1 .mtr (by decide)]; rfl,
      by rw [hj.1 .mtr (by decide)]; rfl, (hk.step hj).1⟩
  case health =>
    intro s g limit hm hl
    have heff : healthEffect g.val s = fwTurn g.val true { s with sec := { s.sec with trial := mdel s.sec.trial g.val } } := by
      unfold healthEffect
      rw [hm]
      exact if_neg (by omega)
    have honly : State.onlyChanges recordParts s (healthEffect g.val s) := by
      rw [heff]
      have hself : Keeps recordParts s s := .refl
      have hk := (fwTurn_keeps g.val true { s with sec := { s.sec with trial := mdel s.sec.trial g.val } }).mono
        (by decide : _ ⊆ recordParts)
      exact ((hself.set_sec { s.sec with trial := mdel s.sec.trial g.val }).trans hk).1
    obtain ⟨hslot, htrial, hswitch⟩ := fwFlip_spec g.val true { s with sec := { s.sec with trial := mdel s.sec.trial g.val } }
    by_cases h2 : g.val < 2
    · have hflip := heff.trans (if_pos h2)
      refine ⟨_, rfl, ?_, fun h => absurd h (by omega), fun _ => ?_, honly⟩
      · rw [hflip, htrial]
      · rw [hflip, hslot, hswitch]
        exact ⟨rfl, rfl⟩
    · have hlist := heff.trans (if_neg h2)
      refine ⟨_, rfl, ?_, fun _ => ?_, fun h => absurd h h2, honly⟩
      · rw [hlist]
      · rw [hlist]
        exact ⟨rfl, rfl⟩

end Sys2Proof.Machine
end

section
/-! SUPPORT. Frames of a link port: delivery, acknowledgement and the control frames (R253-R258, R270-R273). -/

namespace Sys2Proof.Machine

/-! ### The device's output grows -/

/-- What the device has put out stands; more may follow. -/
structure OutGrows (s t : State) : Prop where
  more : ∃ more, t.out = s.out ++ more

theorem OutGrows.of_out {s t : State} (h : t.out = s.out) : OutGrows s t := ⟨[], by simp [h]⟩

theorem OutGrows.of_keeps {s t : State} {ps : List Part} (k : Keeps ps s t) (h : .out ∉ ps := by decide) : OutGrows s t :=
  .of_out (k.1 .out h)

theorem OutGrows.trans {s t u : State} (h : OutGrows s t) (k : OutGrows t u) : OutGrows s u := by
  obtain ⟨x, hx⟩ := h.more
  obtain ⟨y, hy⟩ := k.more
  exact ⟨x ++ y, by rw [hy, hx, List.append_assoc]⟩

/-- A first change that leaves the output leaves nothing to show for it. -/
theorem OutGrows.of_first {s t u : State} (k : OutGrows t u) (h : t.out = s.out) : OutGrows s u := (OutGrows.of_out h).trans k

theorem OutGrows.foldl {α : Type} {f : State → α → State} (hf : ∀ u x, OutGrows u (f u x)) (l : List α) (s : State) :
    OutGrows s (l.foldl f s) := by
  induction l generalizing s with
  | nil => exact .of_out rfl
  | cons x l ih => exact (hf s x).trans (ih _)

theorem deliver_outGrows (target core vector : Nat) (s : State) : OutGrows s (deliver target core vector s) := by
  unfold deliver
  split
  · exact .of_out rfl
  · split
    · exact ⟨_, rfl⟩
    · exact ⟨_, rfl⟩

theorem intSet_outGrows (page i : Nat) (s : State) : OutGrows s (intSet page i s) := by
  unfold intSet
  dsimp only
  split
  · exact (deliver_outGrows ..).of_first rfl
  · exact .of_out rfl

theorem raise_outGrows (page i off : Nat) (s : State) : OutGrows s (raise page i off s) := by
  unfold raise
  dsimp only
  split
  · exact .of_out rfl
  · refine (intSet_outGrows ..).of_first ?_
    split <;> rfl

theorem raiseEv_outGrows (page i off : Nat) (e : ErrEvent) (s : State) : OutGrows s (raiseEv page i off e s) := by
  unfold raiseEv
  dsimp only
  split
  · exact raise_outGrows ..
  · exact (raise_outGrows ..).trans (.of_keeps (report_keeps ..))

theorem portState_outGrows (p new : Nat) (quiet : Bool) (s : State) : OutGrows s (portState p new quiet s) := by
  unfold portState
  extract_lets x lost y s1 s2
  have h2 : OutGrows s s2 := (intSet_outGrows ..).of_first rfl
  split
  · exact .of_out rfl
  · split
    · exact h2.trans (raise_outGrows ..)
    · exact h2

theorem retrainTrigger_outGrows (p : Nat) (s : State) : OutGrows s (retrainTrigger p s) := by
  unfold retrainTrigger
  split
  · exact .of_out rfl
  split
  · extract_lets s1
    have h1 : OutGrows s s1 := (portState_outGrows ..).trans (.of_keeps (bump_keeps ..))
    unfold autoneg
    split
    · exact h1.trans ⟨_, rfl⟩
    · exact h1.trans (.of_out rfl)
  · exact portState_outGrows ..

theorem putFrame_out (p : Nat) (w0 : Word) (body : List Byte) (s : State) : (putFrame p w0 body s).out = s.out ++ [frameOut p w0 body] := by
  unfold putFrame
  rw [(bump_keeps ..).1 .out (by decide), (bump_keeps ..).1 .out (by decide)]
  rfl

theorem putFrame_outGrows (p : Nat) (w0 : Word) (body : List Byte) (s : State) : OutGrows s (putFrame p w0 body s) := ⟨_, putFrame_out ..⟩

theorem sendControl_out (p type : Nat) (nak : Bool) (body : List Byte) (s : State) : (sendControl p type nak body s).out =
    s.out ++ [frameOut p (frameWord (getPort s p).fseq (getPort s p).rseq type nak) (padBody body)] := putFrame_out ..

theorem portPump_outGrows (p : Nat) (s : State) : OutGrows s (portPump p s) := by
  have hdata (u : State) (bs : List Byte) : OutGrows u (sendData p bs u) := (putFrame_outGrows ..).of_first rfl
  have hemit (u : State) (k : Packet) : OutGrows u (emit (.packet p k) u) := ⟨_, rfl⟩
  unfold portPump
  extract_lets x a b src s1 s2
  have h1 : OutGrows s s1 := .of_out rfl
  have h2 : OutGrows s s2 := h1.trans (.foldl hemit _ s1)
  exact h2.trans (.foldl hdata _ s2)

theorem replayFrames_outGrows (p : Nat) (s : State) : OutGrows s (replayFrames p s) := by
  unfold replayFrames
  extract_lets x limit s1
  split
  · exact .of_out rfl
  split
  · exact (raise_outGrows ..).trans (retrainTrigger_outGrows ..)
  · refine OutGrows.of_first (t := s1) (.foldl (fun u f => ?_) ..) rfl
    exact (putFrame_outGrows ..).trans (.of_keeps (bump_keeps ..))

theorem ackFrames_outGrows (p : Nat) (f : Frame) (s : State) : OutGrows s (ackFrames p f s) := by
  unfold ackFrames
  extract_lets x a s1
  have h1 : OutGrows s s1 := by
    unfold s1
    split <;> exact .of_out rfl
  refine (h1.trans ?_).trans (portPump_outGrows ..)
  split
  · exact replayFrames_outGrows ..
  · exact .of_out rfl

theorem fecBad_outGrows (p k : Nat) (s : State) : OutGrows s (fecBad p k s) := by
  unfold fecBad
  extract_lets x us fresh n s1
  have h1 : OutGrows s s1 := (OutGrows.of_keeps (bump_keeps ..)).of_first rfl
  split
  · exact h1.trans ((raiseEv_outGrows ..).trans (retrainTrigger_outGrows ..))
  · exact h1

/-! ### What the sender changes of its port -/

/-- The port has sent: its numbers, its credit, its waiting packets and the frames kept for replay have changed, nothing else. -/
def Pumped (x y : Port) : Prop :=
  ∃ more, y = { x with fseq := y.fseq, replay := x.replay ++ more, tx := y.tx, txLow := y.txLow, sentReq := y.sentReq,
                       sentResp := y.sentResp }

theorem Pumped.of_sent {x y : Port} (h : y = { x with tx := y.tx, txLow := y.txLow, sentReq := y.sentReq, sentResp := y.sentResp }) :
    Pumped x y := by
  refine ⟨[], ?_⟩
  rw [h]
  simp

theorem Pumped.trans {x y z : Port} (h : Pumped x y) (k : Pumped y z) : Pumped x z := by
  obtain ⟨m, h⟩ := h
  obtain ⟨n, k⟩ := k
  refine ⟨m ++ n, ?_⟩
  rw [k, h]
  simp

theorem Pump.next_pumped (x : Pump) (k : Packet) :
    (x.next k).port = { x.port with sentReq := (x.next k).port.sentReq, sentResp := (x.next k).port.sentResp } := by
  unfold Pump.next
  split
  · dsimp only
    split <;> rfl
  · rfl

theorem Pump.foldl_pumped (ks : List Packet) (x : Pump) : (ks.foldl Pump.next x).port =
    { x.port with sentReq := (ks.foldl Pump.next x).port.sentReq, sentResp := (ks.foldl Pump.next x).port.sentResp } := by
  induction ks generalizing x with
  | nil => rfl
  | cons k ks ih =>
    rw [List.foldl_cons, ih, Pump.next_pumped]

theorem portPump_pumped (p : Nat) (s : State) : Pumped (getPort s p) (getPort (portPump p s) p) := by
  have hone (bs : List Byte) (u : State) : Pumped (getPort u p) (getPort (sendData p bs u) p) := by
    unfold sendData
    extract_lets x f
    rw [getPort_of_keeps (putFrame_keeps ..), getPort_setPort_same]
    exact ⟨_, rfl⟩
  have hdata (l : List (List Byte)) (u : State) : Pumped (getPort u p) (getPort (l.foldl (fun v bs => sendData p bs v) u) p) := by
    induction l generalizing u with
    | nil => exact .of_sent rfl
    | cons b l ih => exact (hone b u).trans (ih _)
  have hemit (l : List Packet) (u : State) : getPort (l.foldl (fun v k => emit (.packet p k) v) u) p = getPort u p :=
    getPort_of_keeps (ps := [.out]) (Keeps.foldl .refl fun _ _ h => h.step (emit_keeps ..)) p
  unfold portPump
  extract_lets x a b src s1 s2
  have hs2 : getPort s2 p = { b.port with tx := a.left, txLow := b.left } := (hemit ..).trans (getPort_setPort_same ..)
  have hb : Pumped (getPort s p) (getPort s2 p) := by
    refine .of_sent ?_
    rw [hs2]
    show ({ b.port with tx := a.left, txLow := b.left } : Port) = _
    have h1 := Pump.foldl_pumped x.txLow { a with left := [] }
    have h2 := Pump.foldl_pumped x.tx { port := x }
    have h3 : b.port = { a.port with sentReq := b.port.sentReq, sentResp := b.port.sentResp } := h1
    have h4 : a.port = { x with sentReq := a.port.sentReq, sentResp := a.port.sentResp } := h2
    rw [h3, h4]
  exact hb.trans (hdata ..)

/-! ### Acknowledgement (R255, R256) -/

/-- What a frame's acknowledgement leaves of the frames kept for replay. -/
def ackedReplay (x : Port) (f : Frame) : List (Nat × List Byte) :=
  if x.replay.any (fun r => r.1 == frameAck f) then (x.replay.dropWhile (fun r => r.1 != frameAck f)).drop 1 else x.replay

/-- The port has taken a frame's acknowledgement and has sent; nothing else of it has changed. -/
def Acked (f : Frame) (x y : Port) : Prop :=
  ∃ more, y = { x with fseq := y.fseq, replay := ackedReplay x f ++ more, replays := y.replays, tx := y.tx, txLow := y.txLow,
                       sentReq := y.sentReq, sentResp := y.sentResp }

theorem ackFrames_acked {f : Frame} (h : frameNak f = false) (p : Nat) (s : State) :
    Acked f (getPort s p) (getPort (ackFrames p f s) p) ∧ Keeps [.out, .cnt, .lnk] s (ackFrames p f s) := by
  have hself : Keeps [.out, .cnt, .lnk] s s := .refl
  unfold ackFrames
  rw [h]
  extract_lets x a s1
  have h1 : getPort s1 p = { getPort s p with replay := ackedReplay (getPort s p) f, replays := (getPort s1 p).replays } := by
    unfold s1 ackedReplay
    split
    · rw [getPort_setPort_same]
    · rfl
  have hk : Keeps [.out, .cnt, .lnk] s s1 := .ite (fun _ => hself.step (setPort_keeps ..)) fun _ => hself
  refine ⟨?_, hk.trans (portPump_keeps ..)⟩
  change Acked f (getPort s p) (getPort (portPump p s1) p)
  obtain ⟨more, hp⟩ := portPump_pumped p s1
  refine ⟨more, ?_⟩
  rw [hp, h1]

theorem acknowledged_of_acked {s t : State} {p : Nat} {f : Frame} {x : Port} (h : Acked f x (getPort t p))
    (hx : x.replay = (getPort s p).replay) : acknowledged s t p f := by
  obtain ⟨more, h⟩ := h
  refine ⟨more, ?_⟩
  rw [h, ← hx]
  rfl

/-! ### A frame that is taken -/

/-- The frame counted at its port. -/
def frameCounted (p : Nat) (f : Frame) (s : State) : State :=
  bump (lp p 0) 0 8 f.body.length (bump (lp p 0) 0 4 f.fixed (bump (lp p 0) 0 1 1 s))

theorem frameCounted_keeps (p : Nat) (f : Frame) (s : State) : Keeps [.cnt] s (frameCounted p f s) :=
  ((bump_keeps ..).trans (bump_keeps ..)).trans (bump_keeps ..)

theorem onFrame_taken {p type : Nat} {f : Frame} {k : State → State} {s : State} (h : takesFrame s p f type) :
    onFrame p f type k s = k (ctlGap p f (frameCounted p f s)) := by
  obtain ⟨heth, hlo, hdown, hrun, hgood, htype⟩ := h
  unfold onFrame
  rw [if_neg (by simp [heth, hdown, hrun]; omega)]
  exact (if_neg (by simp [hgood])).trans (if_neg (by simp [htype]))

theorem onFrame_bad {p type : Nat} {f : Frame} {k : State → State} {s : State} (heth : portEth s p = false)
    (hlo : 5 ≤ (getPort s p).state) (hdown : (getPort s p).state ≠ 8) (hrun : running s = true) (hgood : frameGood f = false) :
    onFrame p f type k s = badFrame p f (frameCounted p f s) := by
  unfold onFrame
  rw [if_neg (by simp [heth, hdown, hrun]; omega)]
  exact if_pos hgood

theorem ctlGap_none {p : Nat} {f : Frame} {s : State}
    (h : frameType f = 0 ∨ (getPort s p).state ≠ 6 ∨ frameSeq f = (getPort s p).rseq) : ctlGap p f s = s :=
  if_neg (by tauto)

theorem ctlGap_gap {p : Nat} {f : Frame} {s : State} (h0 : frameType f ≠ 0) (h6 : (getPort s p).state = 6)
    (hs : frameSeq f ≠ (getPort s p).rseq) : ctlGap p f s = sendControl p 1 true [] s := if_pos ⟨h0, h6, hs⟩

theorem getPort_frameCounted (p : Nat) (f : Frame) (s : State) (q : Nat) : getPort (frameCounted p f s) q = getPort s q :=
  getPort_of_keeps (frameCounted_keeps ..) q

/-- The frame counted, a gap that it shows answered. -/
theorem ctlGap_frameCounted_keeps (p : Nat) (f : Frame) (s : State) : Keeps [.out, .cnt] s (ctlGap p f (frameCounted p f s)) :=
  ((frameCounted_keeps p f s).mono (by decide)).trans (ctlGap_keeps ..)

/-! ### Delivery of whole packets (R188, R191, R194) -/

theorem Ptrs.count_advance (q : Ptrs) (n : Nat) : ({ q with wr := (q.wr + n) % 8192, wr2 := (q.wr2 + n) % 8192 } : Ptrs).count ≤ q.count + n := by
  unfold Ptrs.count
  dsimp only
  omega


theorem Port.ptrs_withQueued (x : Port) (a b : Bool) (ks : List Packet) : (x.withQueued a ks).ptrs b = x.ptrs b := by
  cases a <;> cases b <;> rfl

theorem Port.ptrs_withPtrs (x : Port) (a b : Bool) (q : Ptrs) : (x.withPtrs a q).ptrs b = if b = a then q else x.ptrs b := by
  cases a <;> cases b <;> rfl

/-- The port with a packet at the end of its receive queue. -/
def Port.received (x : Port) (k : Packet) : Port :=
  (x.withPtrs k.isResp { x.ptrs k.isResp with wr := ((x.ptrs k.isResp).wr + k.words) % 8192,
                                              wr2 := ((x.ptrs k.isResp).wr2 + k.words) % 8192 }).withQueued k.isResp
    (x.queued k.isResp ++ [k])

theorem getPort_rxPut (p : Nat) (k : Packet) (s : State) :
    getPort (rxPut p k s) p = (getPort s p).received k ∧ ∀ resp, getReg (rxPut p k s) (lp p 1) (rxOff resp 0) = getReg s (lp p 1) (rxOff resp 0) := by
  unfold rxPut
  extract_lets resp x q n q1 s1 l
  have h1 : getPort s1 p = (getPort s p).received k := getPort_setPort_same ..
  split
  · refine ⟨?_, fun r => ?_⟩
    · rw [getPort_of_keeps (rxDeliver_keeps ..), getPort_of_keeps (setReg_keeps ..), h1]
    · rw [getReg_congr ((rxDeliver_keeps ..).1 .regs (by decide)), getReg_setReg_ne]
      · rfl
      · cases r <;> cases resp <;> simp [regKey, rxOff]
  · exact ⟨h1, fun _ => rfl⟩

theorem Port.ptrs_received (x : Port) (k : Packet) (resp : Bool) : (x.received k).ptrs resp = if resp = k.isResp then
    { x.ptrs k.isResp with wr := ((x.ptrs k.isResp).wr + k.words) % 8192, wr2 := ((x.ptrs k.isResp).wr2 + k.words) % 8192 }
    else x.ptrs resp := by
  rw [Port.received, Port.ptrs_withQueued, Port.ptrs_withPtrs]

theorem Port.held_received (x : Port) (k : Packet) : (x.received k).held = x.held := by
  unfold Port.received Port.withQueued Port.withPtrs
  cases k.isResp <;> rfl

/-- One packet offered to its receive queue, as RX_ACCEPT offers it. -/
def rxStep (p : Nat) (u : State) (k : Packet) : State :=
  let u1 := rxCheck p k.isResp u
  let y := getPort u1 p
  if rxRoom u1 p k ∧ y.held.all (fun h => h.isResp != k.isResp) = true then rxPut p k u1
  else setPort p { y with held := y.held ++ [k] } u1

theorem rxStep_takes {p : Nat} {k : Packet} {u : State} (hh : (getPort u p).held = []) (hbad : ((getPort u p).ptrs k.isResp).bad = false)
    (hon : regBit u (lp p 1) (rxOff k.isResp 0) 0 = true) (hroom : ((getPort u p).ptrs k.isResp).count + k.words ≤ 4096) :
    rxStep p u k = rxPut p k u := by
  have hcheck : rxCheck p k.isResp u = u := by
    unfold rxCheck
    refine if_pos ?_
    simp only [Ptrs.bad, Bool.or_eq_false_iff, bne_eq_false_iff_eq] at hbad
    exact hbad
  unfold rxStep
  rw [hcheck]
  exact if_pos ⟨by rw [rxRoom, hon]; simpa using hroom, by rw [hh]; rfl⟩

theorem foldl_rxStep_takes {p : Nat} (ks : List Packet) {u : State} (ht : rxTakes u p ks) :
    getPort (ks.foldl (rxStep p) u) p = ks.foldl Port.received (getPort u p) ∧ Keeps [.out, .regs, .lnk, .sys] u (ks.foldl (rxStep p) u) := by
  induction ks generalizing u with
  | nil => exact ⟨rfl, .refl⟩
  | cons k ks ih =>
    obtain ⟨hh, hbad, hall⟩ := ht
    obtain ⟨hon, hroom⟩ := hall k (List.mem_cons_self ..)
    have hsum (r : Bool) : ((k :: ks).filter (fun x => x.isResp == r)).map Packet.words =
        if k.isResp = r then k.words :: (ks.filter (fun x => x.isResp == r)).map Packet.words else
          (ks.filter (fun x => x.isResp == r)).map Packet.words := by
      rw [List.filter_cons]
      split <;> simp_all
    rw [hsum, if_pos rfl, List.sum_cons] at hroom
    have hstep := rxStep_takes hh (hbad _) hon (by omega)
    obtain ⟨hport, hregs⟩ := getPort_rxPut p k u
    have hnext : rxTakes (rxPut p k u) p ks := by
      refine ⟨by rw [hport, Port.held_received, hh], fun r => ?_, fun k' hk' => ?_⟩
      · rw [hport, Port.ptrs_received]
        split
        · have hb := hbad k.isResp
          simp only [Ptrs.bad, Bool.or_eq_false_iff, bne_eq_false_iff_eq] at hb ⊢
          exact ⟨by rw [hb.1], hb.2⟩
        · exact hbad r
      · obtain ⟨hon', hroom'⟩ := hall k' (List.mem_cons_of_mem _ hk')
        refine ⟨by rw [regBit, hregs]; exact hon', ?_⟩
        rw [hport, Port.ptrs_received]
        split
        · rename_i heq
          have hadv := Ptrs.count_advance ((getPort u p).ptrs k.isResp) k.words
          rw [heq]
          exact (Nat.add_le_add_right hadv _).trans (by omega)
        · rename_i hne
          rw [hsum, if_neg (Ne.symm hne)] at hroom'
          exact hroom'
    obtain ⟨h1, h2⟩ := ih hnext
    rw [List.foldl_cons, List.foldl_cons, hstep]
    exact ⟨by rw [h1, hport], (rxPut_keeps ..).trans h2⟩

/-- The receive queues of the port take the packets. -/
theorem arrive_takes {p : Nat} {ks : List Packet} {s : State} (ht : rxTakes s p ks) :
    getPort (arrive p ks s) p = ks.foldl Port.received (getPort s p) ∧ Keeps [.out, .regs, .lnk, .sys] s (arrive p ks s) := by
  have hh := ht.1
  have heq : arrive p ks s = ks.foldl (rxStep p) (setPort p { getPort s p with held := [] } (setPort p { getPort s p with held := ks } s)) := by
    unfold arrive rxOffer
    dsimp only
    rw [hh, List.nil_append, getPort_setPort_same]
    rfl
  have hx : ({ getPort s p with held := [] } : Port) = getPort s p := by rw [← hh]
  rw [hx] at heq
  have hport : getPort (setPort p (getPort s p) (setPort p { getPort s p with held := ks } s)) p = getPort s p := getPort_setPort_same ..
  have hnext : rxTakes (setPort p (getPort s p) (setPort p { getPort s p with held := ks } s)) p ks := by
    unfold rxTakes
    rw [hport]
    exact ht
  have hself : Keeps [.out, .regs, .lnk, .sys] s s := .refl
  obtain ⟨h1, h2⟩ := foldl_rxStep_takes ks hnext
  rw [heq]
  exact ⟨by rw [h1, hport], ((hself.step (setPort_keeps ..)).step (setPort_keeps ..)).trans h2⟩

/-- The packets received stand behind those before them, in their order; the rest of the port is as it was. -/
theorem foldl_received (ks : List Packet) (x : Port) : ks.foldl Port.received x =
    { x with req := x.req ++ ks.filter (fun k => !k.isResp), resp := x.resp ++ ks.filter Packet.isResp,
             reqPtr := (ks.foldl Port.received x).reqPtr, respPtr := (ks.foldl Port.received x).respPtr } := by
  induction ks generalizing x with
  | nil => simp
  | cons k ks ih =>
    rw [List.foldl_cons, ih]
    unfold Port.received Port.withQueued Port.withPtrs Port.queued
    cases h : k.isResp <;> simp [h]

/-- Settles O36: an acknowledgement changes nothing of what is delivered, and a delivery nothing of what is kept for replay. -/
theorem dataFramesAreDeliveredInOrder : Obligations.DataFramesAreDeliveredInOrder := by
  refine ⟨?delivered, ?outOfOrder, ?notWhole, ?idle, ?gap⟩
  case delivered =>
    intro s p f ht hnak hseq got hrx
    obtain ⟨u, hu⟩ : ∃ u, u = frameCounted p.val f s := ⟨_, rfl⟩
    have hport : getPort u p.val = getPort s p.val := by rw [hu, getPort_frameCounted]
    obtain ⟨u1, hu1⟩ : ∃ v, v = setPort p.val { getPort s p.val with rseq := frameSeq f, rx := got.2 } u := ⟨_, rfl⟩
    have hport1 : getPort u1 p.val = { getPort s p.val with rseq := frameSeq f, rx := got.2 } := by rw [hu1, getPort_setPort_same]
    have heff : dataEffect p.val f s = ackFrames p.val f (arrive p.val got.1 u1) := by
      refine (onFrame_taken ht).trans ?_
      rw [ctlGap_none (.inl ht.2.2.2.2.2), ← hu]
      dsimp only
      rw [hport, if_neg (by rw [hseq]; simp), ← hu1]
    have hk1 : Keeps [.out, .regs, .cnt, .lnk, .sys] s u1 := by
      have hself : Keeps [.out, .regs, .cnt, .lnk, .sys] s s := .refl
      rw [hu1, hu]
      exact (hself.step (frameCounted_keeps ..)).step (setPort_keeps ..)
    have hregs : u1.regs = s.regs := by
      rw [hu1, hu]
      exact (frameCounted_keeps ..).1 .regs (by decide)
    have htakes : rxTakes u1 p.val got.1 := by
      obtain ⟨hh, hbad, hall⟩ := hrx
      unfold rxTakes
      rw [hport1]
      refine ⟨hh, hbad, fun k hk => ?_⟩
      rw [regBit, getReg_congr hregs]
      exact hall k hk
    obtain ⟨harr, hk2⟩ := arrive_takes htakes
    obtain ⟨hacked, hk3⟩ := ackFrames_acked hnak p.val (arrive p.val got.1 u1)
    have hfold := foldl_received got.1 (getPort u1 p.val)
    rw [← harr, hport1] at hfold
    refine ⟨_, congrArg Host.Outcome.next heff, ?_, ?_, ?_, ?_, acknowledged_of_acked hacked ?_, ?_⟩
    · obtain ⟨more, h⟩ := hacked
      rw [h]
      exact (congrArg Port.rseq hfold)
    · obtain ⟨more, h⟩ := hacked
      rw [h]
      exact (congrArg Port.rx hfold)
    · obtain ⟨more, h⟩ := hacked
      rw [h]
      exact (congrArg Port.req hfold)
    · obtain ⟨more, h⟩ := hacked
      rw [h]
      exact (congrArg Port.resp hfold)
    · have hreplay := congrArg Port.replay hfold
      exact hreplay
    · exact ((hk1.step hk2).step hk3).1
  case outOfOrder =>
    intro s p f ht hseq
    have heff : dataEffect p.val f s = sendControl p.val 1 true [] (frameCounted p.val f s) := by
      refine (onFrame_taken ht).trans ?_
      rw [ctlGap_none (.inl ht.2.2.2.2.2)]
      dsimp only
      rw [getPort_frameCounted]
      exact if_pos hseq
    have hk : Keeps [.out, .cnt] s (dataEffect p.val f s) := by
      rw [heff]
      exact ((frameCounted_keeps ..).mono (by decide)).trans (sendControl_keeps ..)
    refine ⟨_, rfl, ?_, hk.1⟩
    rw [heff, sendControl_out, getPort_frameCounted, (frameCounted_keeps ..).1 .out (by decide)]
  case notWhole =>
    intro s p f heth hlo hdown hrun hgood
    obtain ⟨u, hu⟩ : ∃ u, u = sendControl p.val 1 true [] (bump (lp p.val 0) 0 2 1 (frameCounted p.val f s)) := ⟨_, rfl⟩
    have hku : Keeps [.out, .cnt] s u := by
      have hself : Keeps [.out, .cnt] s s := .refl
      rw [hu]
      exact ((hself.step (frameCounted_keeps ..)).step (bump_keeps ..)).trans (sendControl_keeps ..)
    have hout : u.out = s.out ++ [frameOut p.val (frameWord (getPort s p.val).fseq (getPort s p.val).rseq 1 true) (padBody [])] := by
      rw [hu, sendControl_out, getPort_of_keeps (bump_keeps ..), getPort_frameCounted, (bump_keeps ..).1 .out (by decide),
        (frameCounted_keeps ..).1 .out (by decide)]
    have heff : dataEffect p.val f s = if f.lost = 0 then u else fecBad p.val f.lost u := by
      rw [hu]
      exact onFrame_bad heth hlo hdown hrun hgood
    have hself : Keeps [.out, .regs, .cnt, .rel, .lnk, .sys] s s := .refl
    by_cases hl : f.lost = 0
    · exact ⟨u, [], congrArg Host.Outcome.next (heff.trans (if_pos hl)), by rw [hout, List.append_nil], fun _ => ⟨rfl, hku.1⟩,
        (hself.step hku).1⟩
    · obtain ⟨more, hm⟩ := (fecBad_outGrows p.val f.lost u).more
      exact ⟨_, more, congrArg Host.Outcome.next (heff.trans (if_neg hl)), by rw [hm, hout], fun h => absurd h hl,
        ((hself.step hku).step (fecBad_keeps ..)).1⟩
  case idle =>
    intro s p f ht hnak
    obtain ⟨hacked, hk⟩ := ackFrames_acked hnak p.val (ctlGap p.val f (frameCounted p.val f s))
    have hgap := ctlGap_frameCounted_keeps p.val f s
    rw [getPort_of_keeps hgap] at hacked
    refine ⟨_, congrArg Host.Outcome.next (onFrame_taken ht), acknowledged_of_acked hacked rfl, ?_, ?_, ((hgap.mono (by decide)).trans hk).1⟩
    · obtain ⟨more, h⟩ := hacked
      rw [h]
    · obtain ⟨more, h⟩ := hacked
      rw [h]
  case gap =>
    intro s p f ht h6 hseq
    have heff : onFrame p.val f 1 (ackFrames p.val f) s = ackFrames p.val f (sendControl p.val 1 true [] (frameCounted p.val f s)) := by
      rw [onFrame_taken ht, ctlGap_gap (by rw [ht.2.2.2.2.2]; decide)]
      · rw [getPort_frameCounted]
        exact h6
      · rw [getPort_frameCounted]
        exact hseq
    obtain ⟨more, hm⟩ := (ackFrames_outGrows p.val f (sendControl p.val 1 true [] (frameCounted p.val f s))).more
    refine ⟨_, more, congrArg Host.Outcome.next heff, ?_⟩
    rw [hm, sendControl_out, getPort_frameCounted, (frameCounted_keeps ..).1 .out (by decide)]

/-! ### Marks and notices (R163, R270, R272, R273) -/

theorem setAlign_tck (st : Nat) (s : State) : ∃ a g, (setAlign st s).tck = { s.tck with align := a, good := g } := by
  unfold setAlign
  split
  · exact ⟨_, _, rfl⟩
  · exact ⟨_, _, (intSet_keeps ..).1 .tck (by decide)⟩

/-- A mark is taken outside FREE: its offset is kept, no tick is missed, and in ACQUIRE the number may go forward. -/
theorem markEffect_taken (n : Nat) (off : Int) {s : State} (h : s.tck.align ≠ 0) :
    let t := markEffect (some n) off s
    t.tck.offset = off ∧ t.tck.missed = 0 ∧ t.tck.num = if s.tck.align = 1 then max s.tck.num n else s.tck.num := by
  have halign (st : Nat) (u : State) : (setAlign st u).tck.offset = u.tck.offset ∧ (setAlign st u).tck.missed = u.tck.missed ∧
      (setAlign st u).tck.num = u.tck.num := by
    obtain ⟨a, g, hu⟩ := setAlign_tck st u
    rw [hu]
    exact ⟨rfl, rfl, rfl⟩
  intro t
  have ht : t = markEffect (some n) off s := rfl
  clear_value t
  unfold markEffect at ht
  rw [if_neg h] at ht
  subst ht
  generalize hnum : (if s.tck.align = 1 then max s.tck.num n else s.tck.num) = num
  split
  · rename_i h1
    rw [if_pos h1] at hnum
    subst hnum
    extract_lets good src s2
    split
    · rw [(halign ..).1, (halign ..).2.1, (halign ..).2.2]
      exact ⟨rfl, rfl, rfl⟩
    · exact ⟨rfl, rfl, rfl⟩
  · rename_i h2
    rw [if_neg (by omega)] at hnum
    subst hnum
    split
    · rw [(halign ..).1, (halign ..).2.1, (halign ..).2.2]
      exact ⟨rfl, rfl, rfl⟩
    split
    · rw [(bump_keeps ..).1 .tck (by decide)]
      exact ⟨rfl, rfl, rfl⟩
    · exact ⟨rfl, rfl, rfl⟩
  · rename_i h1 h2
    rw [if_neg h1] at hnum
    subst hnum
    rw [(halign ..).1, (halign ..).2.1, (halign ..).2.2]
    exact ⟨rfl, rfl, rfl⟩

theorem noticeRecord_room {s : State} (w0 w1 : Word) (code cause : Nat) (unauth : Bool) (port tick : Nat) (detail : List Word)
    (h : (regFld s cx3 0x210 7 0 + 1) % 256 ≠ regFld s cx3 0x210 23 16) :
    noticeRecord w0 w1 code cause unauth port tick detail s =
      intSet cx3 1 (setReg cx3 0x210 (setFld (getReg s cx3 0x210) 7 0 ((regFld s cx3 0x210 7 0 + 1) % 256))
        (wrBytes 15 (regFld s cx3 0x208 49 0 + 64 * regFld s cx3 0x210 7 0)
          (wordsBytes ([w0, w1, word (code % 256 + cause % 256 * 256 + b2n unauth * 2 ^ 16 + port * 2 ^ 17), word tick] ++ detail))
          (bump cx3 0 3 1 s))) := if_neg h

theorem length_wordsBytes (ws : List Word) : (wordsBytes ws).length = 8 * ws.length := by
  induction ws with
  | nil => rfl
  | cons w ws ih =>
    have h8 : (wordBytes w).length = 8 := length_toLe ..
    rw [wordsBytes, List.flatMap_cons, List.length_append, h8, List.length_cons]
    rw [wordsBytes] at ih
    omega

/-- With room in the ring a notice's record stands at its WR, which moves on, and its interrupt is set. -/
theorem noticeRecord_spec {s : State} (w0 w1 : Word) (code cause : Nat) (unauth : Bool) (port tick : Nat) (detail : List Word)
    (h : (regFld s cx3 0x210 7 0 + 1) % 256 ≠ regFld s cx3 0x210 23 16) :
    let t := noticeRecord w0 w1 code cause unauth port tick detail s
    t.mem = memStore s.mem (regFld s cx3 0x208 49 0 + 64 * regFld s cx3 0x210 7 0)
      (wordsBytes ([w0, w1, word (code % 256 + cause % 256 * 256 + b2n unauth * 2 ^ 16 + port * 2 ^ 17), word tick] ++ detail)) ∧
    regFld t cx3 0x210 7 0 = (regFld s cx3 0x210 7 0 + 1) % 256 ∧ regFld t cx3 0x210 23 16 = regFld s cx3 0x210 23 16 ∧
    bit (getReg t cx3 0x38) 1 = true := by
  intro t
  have ht := noticeRecord_room w0 w1 code cause unauth port tick detail h
  have hreg (v : Word) (u : State) : getReg (intSet cx3 1 (setReg cx3 0x210 v u)) cx3 0x210 = v := by
    rw [getReg_intSet_high (by decide) (by decide), getReg_setReg_same]
  refine ⟨?_, ?_, ?_, ?_⟩
  · show (noticeRecord ..).mem = _
    rw [ht, (intSet_keeps ..).1 .mem (by decide), (setReg_keeps ..).1 .mem (by decide), wrBytes_mem, (bump_keeps ..).1 .mem (by decide)]
  · show regFld (noticeRecord ..) .. = _
    rw [ht, regFld, hreg, fld_setFld _ _ _ _ (by decide)]
    exact Nat.mod_mod_of_dvd _ (by decide)
  · show regFld (noticeRecord ..) .. = _
    rw [ht, regFld, hreg, fld_setFld_ne _ _ _ _ _ _ (.inr (by decide))]
    rfl
  · show bit (getReg (noticeRecord ..) ..) _ = _
    rw [ht]
    exact bit_intSts_intSet _ _ _ (by decide)

theorem length_wordBytes (w : Word) : (wordBytes w).length = 8 := length_toLe ..

theorem word_leNat_wordBytes (w : Word) : word (leNat (wordBytes w)) = w := by
  rw [wordBytes, leNat_toLe (n := 8) (by have := w.isLt; omega), word, BitVec.ofNat_toNat, BitVec.setWidth_eq]

theorem memWord_memStore_first {m : Mem} (h : Memory.wf m = true) (a : Nat) (w : Word) (ys : List Byte) :
    memWord (memStore m a (wordBytes w ++ ys)) a = w := by
  have happ := memBytes_memStore_append h a (wordBytes w) ys
  rw [length_wordBytes] at happ
  rw [memWord, happ, word_leNat_wordBytes]

theorem memWord_memStore_words {m : Mem} (h : Memory.wf m = true) (a : Nat) (pre : List Word) (w : Word) (post : List Word) {n : Nat}
    (hn : (wordsBytes pre).length = n) : memWord (memStore m a (wordsBytes (pre ++ w :: post))) (a + n) = w := by
  have hsplit : wordsBytes (pre ++ w :: post) = wordsBytes pre ++ (wordBytes w ++ wordsBytes post) := by simp [wordsBytes]
  subst hn
  rw [hsplit, memStore_append]
  exact memWord_memStore_first (memStore_wf h) ..

/-- The first and the third word of a record of eight, and what stands beside it. -/
theorem memWord_memStore_record {m : Mem} (h : Memory.wf m = true) (a : Nat) (w0 w1 w2 w3 d0 d1 d2 d3 : Word) :
    memWord (memStore m a (wordsBytes ([w0, w1, w2, w3] ++ [d0, d1, d2, d3]))) a = w0 ∧
    memWord (memStore m a (wordsBytes ([w0, w1, w2, w3] ++ [d0, d1, d2, d3]))) (a + 16) = w2 ∧
    ∀ b, b < a ∨ a + 64 ≤ b → memGet (memStore m a (wordsBytes ([w0, w1, w2, w3] ++ [d0, d1, d2, d3]))) b = memGet m b := by
  have h0 := memWord_memStore_words h a [] w0 [w1, w2, w3, d0, d1, d2, d3] (n := 0) (length_wordsBytes _)
  have h2 := memWord_memStore_words h a [w0, w1] w2 [w3, d0, d1, d2, d3] (n := 16) (length_wordsBytes _)
  refine ⟨h0, h2, fun b hb => ?_⟩
  rw [memGet_memStore h, length_wordsBytes, if_neg]
  simp only [List.cons_append, List.nil_append, List.length_cons, List.length_nil]
  omega

/-- Settles O37: every control frame acknowledges, which leaves memory, the tick and what the partner has told. -/
theorem controlFramesTakeEffect : Obligations.ControlFramesTakeEffect := by
  refine ⟨?credit, ?creditSend, ?echo, ?echoResp, ?tick, ?down⟩
  case credit =>
    intro s p f ht hnak
    have hgap := ctlGap_frameCounted_keeps p.val f s
    obtain ⟨u, hu⟩ : ∃ u, u = setPort p.val { getPort s p.val with peerReq := leNat (f.body.take 8), peerResp := leNat ((f.body.drop 8).take 8) }
      (ctlGap p.val f (frameCounted p.val f s)) := ⟨_, rfl⟩
    have hport : getPort u p.val = { getPort s p.val with peerReq := leNat (f.body.take 8), peerResp := leNat ((f.body.drop 8).take 8) } := by
      rw [hu, getPort_setPort_same]
    have heff : creditEffect p.val f s = ackFrames p.val f u := by
      refine (onFrame_taken ht).trans ?_
      rw [hu]
      dsimp only
      rw [getPort_of_keeps hgap]
    have hku : Keeps [.out, .cnt, .lnk] s u := by
      have hself : Keeps [.out, .cnt, .lnk] s s := .refl
      rw [hu]
      exact (hself.step hgap).step (setPort_keeps ..)
    obtain ⟨hacked, hk⟩ := ackFrames_acked hnak p.val u
    rw [hport] at hacked
    refine ⟨_, congrArg Host.Outcome.next heff, ?_, ?_, acknowledged_of_acked hacked rfl, (hku.trans hk).1⟩
    · obtain ⟨more, h⟩ := hacked
      rw [h]
    · obtain ⟨more, h⟩ := hacked
      rw [h]
  case creditSend =>
    intro s p h6 heth hrun
    have heff : creditSendEffect p.val s = sendControl p.val 2 false (toLe 8 (getPort s p.val).freedReq ++ toLe 8 (getPort s p.val).freedResp)
        (setPort p.val { getPort s p.val with owed := 0 } s) := if_neg (by simp [h6, heth, hrun])
    have hself : Keeps [.out, .cnt, .lnk] s s := .refl
    refine ⟨_, congrArg Host.Outcome.next heff, ?_, ?_, ((hself.step (setPort_keeps ..)).step (sendControl_keeps ..)).1⟩
    · rw [getPort_of_keeps (sendControl_keeps ..), getPort_setPort_same]
    · rw [sendControl_out, getPort_setPort_same]
      rfl
  case echo =>
    intro s p f turn ht hgap
    have heff : echoEffect p.val f turn s = sendControl p.val 6 false (toLe 8 turn) (frameCounted p.val f s) := by
      refine (onFrame_taken ht).trans ?_
      rw [ctlGap_none (.inr (by rw [getPort_frameCounted]; exact hgap))]
    refine ⟨_, congrArg Host.Outcome.next heff, ?_, (((frameCounted_keeps ..).mono (by decide)).trans (sendControl_keeps ..)).1⟩
    rw [sendControl_out, getPort_frameCounted, (frameCounted_keeps ..).1 .out (by decide)]
  case echoResp =>
    intro s p f rt ht hstep hlen
    obtain ⟨u, hu⟩ : ∃ u, u = frameCounted p.val f s := ⟨_, rfl⟩
    have hport (q : Nat) : getPort u q = getPort s q := by rw [hu, getPort_frameCounted]
    have hin : inStep u p.val 5 = true := by rw [inStep, hport]; exact hstep
    have h6 : (getPort u p.val).state ≠ 6 := by
      intro h6
      simp [inStep, h6] at hin
    have heff : echoRespEffect p.val f rt s = setPort p.val { getPort s p.val with
        echoes := (getPort s p.val).echoes ++ [(rt : Int) - leNat (f.body.take 8)] } u := by
      refine (onFrame_taken ht).trans ?_
      rw [← hu, ctlGap_none (.inr (.inl h6))]
      dsimp only
      rw [hport, if_pos ⟨hin, hlen⟩]
    have hself : Keeps [.cnt, .lnk] s s := .refl
    refine ⟨_, congrArg Host.Outcome.next heff, ?_, fun r hr => ?_, ?_⟩
    · rw [getPort_setPort_same]
    · rw [getPort_setPort, if_neg hr, hport]
    · rw [hu]
      exact ((hself.step (frameCounted_keeps ..)).step (setPort_keeps ..)).1
  case tick =>
    intro s p f arrival ht hnak hsrc hsel halign late
    have hgap := ctlGap_frameCounted_keeps p.val f s
    obtain ⟨hacked, hk⟩ := ackFrames_acked hnak p.val (ctlGap p.val f (frameCounted p.val f s))
    obtain ⟨u, hu⟩ : ∃ u, u = bump (lp p.val 1) 0 4 1 (ackFrames p.val f (ctlGap p.val f (frameCounted p.val f s))) := ⟨_, rfl⟩
    have hku : Keeps [.out, .cnt, .lnk] s u := by
      have hself : Keeps [.out, .cnt, .lnk] s s := .refl
      rw [hu]
      exact ((hself.step hgap).step hk).step (bump_keeps ..)
    have htck : u.tck = s.tck := hku.1 .tck (by decide)
    have hreg (o : Nat) : getReg u tckPage o = getReg s tckPage o := getReg_congr (hku.1 .regs (by decide)) _ _
    have heff : tickFrameEffect p.val f arrival s = markEffect (some (leNat (f.body.take 8))) (late / 8) u := by
      refine (onFrame_taken ht).trans ?_
      dsimp only
      rw [← hu, getPort_of_keeps hgap]
      refine if_pos ⟨?_, ?_⟩
      · rw [tickSrc, regFld, hreg]
        exact hsrc
      · rw [regFld, hreg]
        exact hsel
    have hmark := markEffect_taken (leNat (f.body.take 8)) (late / 8) (s := u) (by rw [htck]; exact halign)
    rw [htck] at hmark
    obtain ⟨hoff, hmissed, hnum⟩ := hmark
    rw [getPort_of_keeps hgap] at hacked
    refine ⟨_, congrArg Host.Outcome.next heff, hoff, hmissed, hnum, acknowledged_of_acked (x := getPort s p.val) ?_ rfl, ?_⟩
    · rw [getPort_of_keeps (markEffect_keeps ..), hu, getPort_of_keeps (bump_keeps ..)]
      exact hacked
    · have hself : Keeps [.out, .regs, .cnt, .tck, .lnk, .sys] s s := .refl
      exact ((hself.step hku).step (markEffect_keeps ..)).1
  case down =>
    intro s p f ht hnak hroom a
    have hgap := ctlGap_frameCounted_keeps p.val f s
    obtain ⟨u, hu⟩ : ∃ u, u = ctlGap p.val f (frameCounted p.val f s) := ⟨_, rfl⟩
    rw [← hu] at hgap
    have hreg (o : Nat) : getReg u cx3 o = getReg s cx3 o := getReg_congr (hgap.1 .regs (by decide)) _ _
    have hmem : u.mem = s.mem := hgap.1 .mem (by decide)
    have hnote := noticeRecord_spec (s := u) (word (leNat (f.body.take 2) % 2 ^ 14 * 2 ^ 24)) 0 1 (leNat ((f.body.drop 2).take 1)) true
      p.val 0 [0, 0, 0, 0] (by rw [regFld, regFld, hreg]; exact hroom)
    obtain ⟨n, hn⟩ : ∃ n, n = noticeRecord (word (leNat (f.body.take 2) % 2 ^ 14 * 2 ^ 24)) 0 1 (leNat ((f.body.drop 2).take 1)) true
      p.val 0 [0, 0, 0, 0] u := ⟨_, rfl⟩
    have hkn : Keeps [.out, .regs, .cnt, .mem, .poison, .epochs, .tasks, .prov, .crm, .hbm, .ecc, .cw, .ls, .ldl, .rel, .act, .sys, .free] u n := by
      rw [hn]
      exact noticeRecord_keeps ..
    rw [← hn] at hnote
    simp only [regFld, hreg, hmem] at hnote
    obtain ⟨hnm, hwr, hrd, hint⟩ := hnote
    obtain ⟨-, hk⟩ := ackFrames_acked hnak p.val n
    have heff : downEffect p.val f s = ackFrames p.val f n := by
      rw [hn, hu]
      exact onFrame_taken ht
    have hregt (o : Nat) : getReg (ackFrames p.val f n) cx3 o = getReg n cx3 o := getReg_congr (hk.1 .regs (by decide)) _ _
    have hmt : (ackFrames p.val f n).mem = n.mem := hk.1 .mem (by decide)
    refine ⟨_, congrArg Host.Outcome.next heff, fun hinv => ⟨?_, ?_, fun b hb => ?_⟩, ?_, ?_, ?_, ?_⟩
    · rw [hmt, hnm]
      exact (memWord_memStore_record hinv ..).1
    · rw [hmt, hnm]
      exact (memWord_memStore_record hinv ..).2.1
    · rw [hmt, hnm]
      exact (memWord_memStore_record hinv ..).2.2 b hb
    · rw [regFld, hregt]
      exact hwr
    · rw [regFld, hregt]
      exact hrd
    · rw [hregt]
      exact hint
    · exact (((hgap.mono (by decide)).trans (hkn.mono (by decide))).trans (hk.mono (by decide))).1

end Sys2Proof.Machine
end

section
/-! SUPPORT. The tick's configuration and alignment, and aborts (R59, R161-R163, R169, R186). -/

namespace Sys2Proof.Machine

/-! ### The tick's alignment (R162, R163) -/

theorem setAlign_align (st : Nat) (s : State) : (setAlign st s).tck.align = st ∧
    (setAlign st s).tck = { s.tck with align := st, good := (setAlign st s).tck.good } ∧
    (setAlign st s).tck.good = if s.tck.align = st then s.tck.good else 0 := by
  unfold setAlign
  by_cases h : s.tck.align = st
  · rw [if_pos h, if_pos h, ← h]
    exact ⟨rfl, rfl, rfl⟩
  · rw [if_neg h, if_neg h, (intSet_keeps ..).1 .tck (by decide)]
    exact ⟨rfl, rfl, rfl⟩

theorem getReg_setAlign_high {o : Nat} (hlo : 0x200 ≤ o) (hhi : o < 65536) (st : Nat) (s : State) (p : Nat) :
    getReg (setAlign st s) p o = getReg s p o := by
  unfold setAlign
  split
  · rfl
  · rw [getReg_intSet_high hlo hhi]
    rfl

/-- A field of a register whose bits are all writable takes the value written. -/
theorem regFld_storeReg {page off hi lo : Nat} {r : RegRow} (h : fieldsAt page off = some r)
    (hb : ∀ i, lo ≤ i → i ≤ hi → bit (word r.rw) i = true ∧ bit (word r.w1c) i = false) (v : Word) (s : State) :
    regFld (storeReg page off v s) page off hi lo = fld v hi lo := by
  rw [regFld, storeReg_eq h, getReg_setReg_same]
  exact fld_eq_of_bits fun i h1 h2 => bit_merged (hb i h1 h2).1 (hb i h1 h2).2 _ _

/-- The count of good marks in a row with one more, at the offset. -/
def goodMarks (s : State) (off : Int) : Nat := if off.natAbs ≤ regFld s tckPage 0x218 23 16 * 10 then s.tck.good + 1 else 0

/-- The state that a mark in ACQUIRE leaves, before the lock. -/
def markCounted (num : Option Nat) (off : Int) (s : State) : State :=
  { s with tck := { s.tck with marked := true, missed := 0, offset := off, num := max s.tck.num (num.getD s.tck.num), good := goodMarks s off } }

/-- What a mark does in ACQUIRE: good ones in a row are counted, and the eighth locks. -/
theorem markEffect_acquire (num : Option Nat) (off : Int) {s : State} (h : s.tck.align = 1) : markEffect num off s =
    if 8 ≤ goodMarks s off then setAlign 2 (markCounted num off s) else markCounted num off s := by
  unfold markEffect
  rw [if_neg (by omega)]
  split
  · rfl
  · rename_i h2
    omega
  · rename_i h1 _
    exact absurd h h1

theorem markEffect_acquire_tck (num : Option Nat) (off : Int) {s : State} (h : s.tck.align = 1) : (markEffect num off s).tck =
    { (markCounted num off s).tck with align := if 8 ≤ goodMarks s off then 2 else 1,
                                       good := if 8 ≤ goodMarks s off then 0 else goodMarks s off } := by
  have halign : (markCounted num off s).tck.align = 1 := h
  rw [markEffect_acquire num off h]
  by_cases h8 : 8 ≤ goodMarks s off
  · obtain ⟨-, h2, h3⟩ := setAlign_align 2 (markCounted num off s)
    rw [if_pos h8, if_pos h8, if_pos h8, h2, h3, if_neg (by rw [halign]; decide)]
  · rw [if_neg h8, if_neg h8, if_neg h8, ← halign]
    rfl

/-- What a mark does in TRACK: one more than 1,000 ns off goes back to ACQUIRE, one at least 10 ns off adjusts. -/
theorem markEffect_track (num : Option Nat) (off : Int) {s : State} (h : s.tck.align = 2) :
    let t := markEffect num off s
    t.tck.offset = off ∧ t.tck.missed = 0 ∧ t.tck.num = s.tck.num ∧ t.tck.align = (if 1000 < off.natAbs then 1 else 2) ∧
      (off.natAbs ≤ 1000 → 10 ≤ off.natAbs → t.tck.adjust = if 0 < off then 1 else -1) := by
  intro t
  have ht : t = markEffect num off s := rfl
  clear_value t
  unfold markEffect at ht
  rw [if_neg (by omega)] at ht
  split at ht
  · rename_i h1
    omega
  · by_cases hfar : 1000 < off.natAbs
    · rw [if_pos hfar] at ht ⊢
      obtain ⟨h1, h2, -⟩ := setAlign_align 1 { s with tck := { s.tck with marked := true, missed := 0, offset := off } }
      rw [← ht] at h1 h2
      exact ⟨by rw [h2], by rw [h2], by rw [h2], h1, fun h => absurd h (by omega)⟩
    · rw [if_neg hfar] at ht ⊢
      by_cases hten : 10 ≤ off.natAbs
      · rw [if_pos hten] at ht
        rw [ht, (bump_keeps ..).1 .tck (by decide)]
        exact ⟨rfl, rfl, rfl, h, fun _ _ => rfl⟩
      · rw [if_neg hten] at ht
        rw [ht]
        exact ⟨rfl, rfl, rfl, h, fun _ h => absurd h hten⟩
  · rename_i h2
    exact absurd h h2

/-- Settles O25, register by register. -/
theorem tickIsConfiguredAndAligned : Obligations.TickIsConfiguredAndAligned := by
  refine ⟨?taken, ?staged, ?range, ?source, ?acquire, ?track, ?holdover⟩
  case taken =>
    intro u v at_ hst t
    have ht : t = if u.tck.num < at_ then u else setReg tckPage 0x200 v { u with tck := { u.tck with staged := none } } := by
      show phaseE3 u = _
      unfold phaseE3
      rw [hst]
    refine ⟨fun hle => ?_, fun hlt => ?_, (phaseE3_keeps u).1⟩
    · rw [ht, if_neg (by omega), getReg_setReg_same]
      exact ⟨rfl, rfl⟩
    · rw [ht, if_pos hlt]
      exact ⟨rfl, hst⟩
  case staged =>
    intro s who v ha h1 h2 h3 h4
    have heff : tickCfgEffect v s = { s with tck := { s.tck with staged := some (v, (getReg s tckPage 0x208).toNat) } } :=
      if_neg (by omega)
    exact ⟨_, congrArg Host.Outcome.next ((regGuard_admits ha).trans heff), rfl, rfl, ((Keeps.refl (ps := [.tck])).set_tck _).1⟩
  case range =>
    intro s who v ha h
    have heff : tickCfgEffect v s = raise tckPage 8 0x200 s := if_pos h
    exact ⟨_, congrArg Host.Outcome.next ((regGuard_admits ha).trans heff), raisedAt_raise _ _ _ (by decide), raise_onlyChanges _ _ _ _⟩
  case source =>
    intro s who v ha
    obtain ⟨u, hu⟩ : ∃ u, u = storeReg tckPage 0x218 v s := ⟨_, rfl⟩
    have hreg : regFld u tckPage 0x218 1 0 = fld v 1 0 := by
      rw [hu]
      exact regFld_storeReg (r := (fieldsAt tckPage 0x218).get (by decide)) (by decide) (by decide) v s
    have hk : Keeps [.regs] s u := hu ▸ storeReg_keeps ..
    have htck : u.tck = s.tck := hk.1 .tck (by decide)
    have hsrc : tickSrc u = if fld v 1 0 = 3 then 0 else fld v 1 0 := by rw [tickSrc, hreg]
    have heff : tickSrcEffect v s = if tickSrc u = 0 then setAlign 0 u
        else if u.tck.align = 0 then setAlign 1 { u with tck := { u.tck with missed := 0, marked := false } } else u := by
      rw [hu]
      rfl
    have honly : State.onlyChanges [.out, .regs, .tck, .sys] s (tickSrcEffect v s) := (tickSrcEffect_keeps v s).1
    refine ⟨_, congrArg Host.Outcome.next (regGuard_admits ha), ?_, fun h => ?_, fun h => ?_, ?_, honly⟩
    · rw [heff]
      split
      · rw [regFld, getReg_setAlign_high (by decide) (by decide)]
        exact hreg
      split
      · rw [regFld, getReg_setAlign_high (by decide) (by decide)]
        exact hreg
      · exact hreg
    · rw [heff, if_pos (by rw [hsrc]; split <;> omega)]
      exact (setAlign_align ..).1
    · rw [heff, if_neg (by rw [hsrc]; split <;> omega), htck]
      split
      · exact (setAlign_align ..).1
      · exact congrArg Tck.align htck
    · rw [heff]
      split
      · rw [(setAlign_align ..).2.1, htck]
      split
      · rw [(setAlign_align ..).2.1, htck]
      · rw [htck]
  case acquire =>
    intro s off hrel hsrc hal good
    have heff := markEffect_acquire_tck none off hal
    have hself : Keeps [.out, .regs, .tck, .sys] s s := .refl
    have hk : Keeps [.out, .regs, .tck, .sys] s (markEffect none off s) := by
      rw [markEffect_acquire none off hal]
      exact .ite (fun _ => Keeps.step (hself.set_tck _) (setAlign_keeps ..)) fun _ => hself.set_tck _
    refine ⟨_, congrArg Host.Outcome.next (if_pos ⟨hrel, hsrc⟩), ?_, ?_, ?_, ?_, ?_, hk.1⟩
    · rw [heff]
      rfl
    · rw [heff]
      rfl
    · rw [heff]
      rfl
    · rw [heff]
      rfl
    · rw [heff]
      exact Nat.max_self _
  case track =>
    intro s off hrel hsrc hal
    obtain ⟨h1, h2, h3, h4, h5⟩ := markEffect_track none off hal
    exact ⟨_, congrArg Host.Outcome.next (if_pos ⟨hrel, hsrc⟩), h1, h2, h4, h5, h3, (markEffect_keeps none off s).1⟩
  case holdover =>
    intro s hal hm
    have heff : holdoverEffect s = raise tckPage 12 0 (setAlign 3 s) := if_pos ⟨hal, hm⟩
    have hset : setAlign 3 s = intSet tckPage 4 { s with tck := { s.tck with align := 3, good := 0 } } := if_neg (by omega)
    refine ⟨_, congrArg Host.Outcome.next heff, ?_, bit_errSts_raise _ _ _ _ (by decide), ?_, heff ▸ (holdoverEffect_keeps s).1⟩
    · rw [(raise_keeps ..).1 .tck (by decide)]
      exact (setAlign_align ..).1
    · refine (raise_bitsStay (by decide) ..).stay _ _ _ (.inr rfl) (by decide) ?_
      rw [hset]
      exact bit_intSts_intSet _ _ _ (by decide)

/-! ### Tasks that end -/

theorem findTask_id {s : State} {id : Nat} {t : Task} (h : findTask s id = some t) : t.id = id := by
  have := List.find?_some h
  exact eq_of_beq this

theorem findTask_putTask_ne {s : State} {t : Task} {id : Nat} (h : id ≠ t.id) : findTask (putTask t s) id = findTask s id := by
  unfold findTask putTask
  dsimp only
  induction s.tasks with
  | nil => rfl
  | cons u l ih =>
    rw [List.map_cons, List.find?_cons, List.find?_cons, ih]
    by_cases hu : u.id = t.id
    · rw [if_pos hu, beq_false_of_ne h.symm, beq_false_of_ne (fun he => h (he.symm.trans hu))]
    · rw [if_neg hu]

theorem findTask_dropTask_ne {s : State} {n id : Nat} (h : id ≠ n) : findTask (dropTask n s) id = findTask s id := by
  unfold findTask dropTask
  dsimp only
  induction s.tasks with
  | nil => rfl
  | cons u l ih =>
    rw [List.filter_cons, List.find?_cons]
    by_cases hu : u.id = n
    · rw [if_neg (by simp [hu]), ih, beq_false_of_ne (fun he => h (he.symm.trans hu))]
    · rw [if_pos (by simp [hu]), List.find?_cons, ih]

/-- A task's end leaves the others. -/
theorem findTask_finish_ne {t : Task} {id : Nat} (h : id ≠ t.id) (f : Fail) (s : State) : findTask (finish t f s) id = findTask s id := by
  have hdirect (c : Nat) (g : Fail) (u : State) : findTask (directEnd t c g u) id = findTask u id := by
    unfold directEnd
    extract_lets n l ch ch1 page s1
    have h1 : findTask s1 id = findTask u id := by
      rw [findTask_congr ((bump_keeps ..).1 .tasks (by decide)), findTask_congr ((setLdl_keeps ..).1 .tasks (by decide)),
        findTask_dropTask_ne h]
    split
    · rw [findTask_congr ((intSet_keeps ..).1 .tasks (by decide))]
      exact h1
    · exact h1
  unfold finish
  extract_lets f1 s1
  have h1 : findTask s1 id = findTask s id := findTask_putTask_ne h
  split
  · rw [hdirect]
    exact h1
  · split <;> exact h1

/-- The task at its end, with the outcome. -/
def endedTask (t : Task) (f : Fail) (s : State) : Task :=
  { t with phase := .complete, status := f.status, slot := f.slot, fault := word f.detail, parked := false, detail := endDetail t s, blocks := [] }

/-- What the end of a queue's task is: ABORTED where an abort has reached it. -/
theorem finish_queued {t : Task} (hd : t.direct = none) (f : Fail) (s : State) : ∃ g, g = (if s.tck.aborting.contains t.id then { status := 2 } else f) ∧
    finish t f s = if t.cls = 5 then leaveSlices t (putTask (endedTask t g s) s) else leaveEngine t (putTask (endedTask t g s) s) := by
  refine ⟨_, rfl, ?_⟩
  unfold finish
  extract_lets f1 s1
  split
  · rename_i c hc
    cases hd.symm.trans hc
  · rfl

theorem finish_queued_keeps {t : Task} (hd : t.direct = none) (f : Fail) (s : State) : Keeps [.tasks, .eng] s (finish t f s) := by
  have hself : Keeps [.tasks, .eng] s s := .refl
  obtain ⟨g, -, heq⟩ := finish_queued hd f s
  rw [heq]
  exact .ite (fun _ => (hself.step (putTask_keeps ..)).step (leaveSlices_keeps ..)) fun _ =>
    (hself.step (putTask_keeps ..)).step (leaveEngine_keeps ..)

/-- A task of a queue that ends is complete with the status, ABORTED where an abort has reached it. -/
theorem findTask_finish {t u : Task} {s : State} (f : Fail) (h : findTask s t.id = some u) (hd : t.direct = none) :
    findTask (finish t f s) t.id = some (endedTask t (if s.tck.aborting.contains t.id then { status := 2 } else f) s) := by
  obtain ⟨g, hg, heq⟩ := finish_queued hd f s
  have hleave : (finish t f s).tasks = (putTask (endedTask t g s) s).tasks := by
    rw [heq]
    split <;> rfl
  rw [findTask_congr hleave, ← hg]
  exact findTask_putTask s (endedTask t g s) u h

/-! ### Aborts (R59, R169) -/

/-- Tasks and reached tasks may have been added; none has gone. -/
structure TasksGrow (s t : State) : Prop where
  tasks : ∃ more, t.tasks = s.tasks ++ more
  aborting : s.tck.aborting ⊆ t.tck.aborting

theorem TasksGrow.trans {s t u : State} (h : TasksGrow s t) (k : TasksGrow t u) : TasksGrow s u := by
  obtain ⟨x, hx⟩ := h.tasks
  obtain ⟨y, hy⟩ := k.tasks
  exact ⟨⟨x ++ y, by rw [hy, hx, List.append_assoc]⟩, List.Subset.trans h.aborting k.aborting⟩

theorem TasksGrow.of_keeps {s t : State} {ps : List Part} (k : Keeps ps s t) (h : .tasks ∉ ps ∧ .tck ∉ ps := by decide) : TasksGrow s t :=
  ⟨⟨[], by rw [k.1 .tasks h.1, List.append_nil]⟩, by rw [k.1 .tck h.2]; exact List.Subset.refl _⟩

theorem TasksGrow.refl {s : State} : TasksGrow s s := ⟨⟨[], by simp⟩, List.Subset.refl _⟩

theorem TasksGrow.findTask {s t : State} (h : TasksGrow s t) {id : Nat} {u : Task} (hu : findTask s id = some u) :
    findTask t id = some u := by
  obtain ⟨more, hm⟩ := h.tasks
  rw [Machine.findTask, hm, List.find?_append]
  rw [Machine.findTask] at hu
  rw [hu]
  rfl

theorem abortItem_tasksGrow (c : Nat) (w : Word) (t : Task) (s : State) : TasksGrow s (abortItem c w t s) :=
  ⟨⟨_, rfl⟩, List.subset_append_left _ _⟩

theorem abortQueued_tasksGrow (p : Task → Bool) (s : State) : TasksGrow s (abortQueued p s).2 := by
  have hitems (c : Nat) (l : List Word) (y : Nat × State) : TasksGrow y.2 (l.foldl (fun (y : Nat × State) (w : Word) =>
      let t := taskOf y.2 c w.toNat
      if structOk y.2 w.toNat 256 256 ∧ structOk y.2 t.completion 64 64 ∧ p t = true then (y.1 + 1, abortItem c w t y.2) else y) y).2 := by
    induction l generalizing y with
    | nil => exact .refl
    | cons w l ih =>
      rw [List.foldl_cons]
      refine TasksGrow.trans ?_ (ih _)
      dsimp only
      split
      · exact abortItem_tasksGrow ..
      · exact .refl
  have hqueue (c : Nat) (u : State) : TasksGrow u (abortQueue p c u).2 := by
    unfold abortQueue
    extract_lets s0
    refine TasksGrow.trans (t := s0) ?_ (hitems c _ (0, s0))
    unfold s0
    split
    · exact .refl
    · exact .of_keeps (ptrCheck_keeps ..)
  have hall (l : List Nat) (x : Nat × State) : TasksGrow x.2 (l.foldl (fun (x : Nat × State) (c : Nat) =>
      let y := abortQueue p c x.2
      (x.1 + y.1, y.2)) x).2 := by
    induction l generalizing x with
    | nil => exact .refl
    | cons c l ih =>
      rw [List.foldl_cons]
      have h1 := ih ((x.1 + (abortQueue p c x.2).1, (abortQueue p c x.2).2))
      exact (hqueue c x.2).trans h1
  exact hall _ (0, s)

/-- The task is as it was, but that the use of its group may have been opened again where its job is the one. -/
def ReUsed (job : Nat) (w w' : Task) : Prop := ∃ n, w' = { w with use := n } ∧ (w.job ≠ job → n = w.use)

theorem reopenUse_findTask {t : Task} {s : State} {id : Nat} {w : Task} (h : findTask s id = some w) :
    ∃ w', findTask (reopenUse t s) id = some w' ∧ ReUsed t.job w w' := by
  have hmap (l : List Task) (f : Task → Task) (hf : ∀ u, (f u).id = u.id) (hl : l.find? (fun u => u.id == id) = some w) :
      (l.map f).find? (fun u => u.id == id) = some (f w) := by
    rw [List.find?_map, show ((fun u : Task => u.id == id) ∘ f) = fun u => u.id == id from funext fun u => by simp [hf], hl]
    rfl
  refine ⟨_, hmap s.tasks _ (fun u => by split <;> rfl) h, ?_⟩
  split
  · rename_i hc
    exact ⟨t.use, rfl, fun hne => absurd hc.2.1 hne⟩
  · exact ⟨w.use, rfl, fun _ => rfl⟩

/-- An abort has reached the task. -/
def reached (id : Nat) (s : State) : State := { s with tck := { s.tck with aborting := s.tck.aborting ++ [id] } }

theorem abortOne_eq {s : State} {t0 t : Task} (h0 : findTask s t0.id = some t) : abortOne s t0 = match t.phase with
    | .accepted | .waiting => finish t { status := 2 } (reached t.id s)
    | .complete => putTask { t with status := 2, slot := 0 } (reached t.id s)
    | .evaluated => finish { t with detail := 0 } { status := 2 } (reopenUse t (reached t.id s))
    | .held => s
    | .dispatched => if sliceRuns s t then reached t.id s else abortNow t (reached t.id s) := by
  unfold abortOne
  rw [h0]
  rfl

/-- An abort of one task leaves every other as it was, but for the uses of the groups of its job. -/
theorem abortOne_other {s : State} {t0 t : Task} {id : Nat} {w : Task} (h0 : findTask s t0.id = some t) (hid : id ≠ t0.id)
    (h : findTask s id = some w) : (∃ w', findTask (abortOne s t0) id = some w' ∧ ReUsed t.job w w') ∧
      s.tck.aborting ⊆ (abortOne s t0).tck.aborting := by
  have hsame : ReUsed t.job w w := ⟨w.use, rfl, fun _ => rfl⟩
  have htid : t.id = t0.id := findTask_id h0
  have hne : id ≠ t.id := by rw [htid]; exact hid
  have hsub : s.tck.aborting ⊆ (reached t.id s).tck.aborting := List.subset_append_left _ _
  have hfin (v : Task) (hv : v.id = t.id) (f : Fail) (u : State) : findTask (finish v f u) id = findTask u id :=
    findTask_finish_ne (hv ▸ hne) f u
  have htck (v : Task) (f : Fail) (u : State) : (finish v f u).tck = u.tck := (finish_keeps ..).1 .tck (by decide)
  have h1 : findTask (reached t.id s) id = some w := h
  rw [abortOne_eq h0]
  split
  · exact ⟨⟨w, by rw [hfin _ rfl]; exact h1, hsame⟩, by rw [htck]; exact hsub⟩
  · exact ⟨⟨w, by rw [hfin _ rfl]; exact h1, hsame⟩, by rw [htck]; exact hsub⟩
  · refine ⟨⟨w, ?_, hsame⟩, hsub⟩
    rw [findTask_putTask_ne (t := { t with status := 2, slot := 0 }) hne]
    exact h1
  · obtain ⟨w', hw', hr⟩ := reopenUse_findTask (t := t) h1
    refine ⟨⟨w', by rw [hfin { t with detail := 0 } rfl]; exact hw', hr⟩, ?_⟩
    rw [htck, (reopenUse_keeps ..).1 .tck (by decide)]
    exact hsub
  · exact ⟨⟨w, h, hsame⟩, List.Subset.refl _⟩
  · split
    · exact ⟨⟨w, h1, hsame⟩, hsub⟩
    · refine ⟨⟨w, ?_, hsame⟩, ?_⟩
      · rw [abortNow, hfin _ rfl]
        exact h1
      · rw [abortNow, htck]
        exact hsub

/-- An abort that reaches a task before its dispatch ends it with ABORTED. -/
theorem abortOne_waiting {s : State} {t0 t : Task} (h0 : findTask s t0.id = some t) (hp : t.phase = .accepted ∨ t.phase = .waiting)
    (hd : t.direct = none) : abortOne s t0 = finish t { status := 2 } (reached t.id s) ∧
      ∃ w, findTask (abortOne s t0) t0.id = some w ∧ w.phase = .complete ∧ w.status = 2 ∧ w.desc = t.desc := by
  have heq : abortOne s t0 = finish t { status := 2 } (reached t.id s) := by
    rw [abortOne_eq h0]
    obtain hp | hp := hp <;> rw [hp]
  have hfin := findTask_finish { status := 2 } (u := t) (s := reached t.id s) (by rw [findTask_id h0]; exact h0) hd
  rw [heq, ← findTask_id h0]
  refine ⟨rfl, _, hfin, rfl, ?_, rfl⟩
  show Fail.status (if _ then _ else _) = 2
  split <;> rfl

theorem ReUsed.trans {job : Nat} {x y z : Task} (h : ReUsed job x y) (k : ReUsed job y z) : ReUsed job x z := by
  obtain ⟨n, rfl, hn⟩ := h
  obtain ⟨m, rfl, hm⟩ := k
  exact ⟨m, rfl, fun hne => (hm hne).trans (hn hne)⟩

/-- The tasks named are the device's, of one job, but for the uses of their groups; no two have the same number. -/
structure AbortsFound (job : Nat) (l : List Task) (s : State) : Prop where
  nodup : (l.map (·.id)).Nodup
  found : ∀ u ∈ l, ∃ n, findTask s u.id = some { u with use := n }
  job : ∀ u ∈ l, u.job = job

theorem AbortsFound.next {job : Nat} {v : Task} {l : List Task} {s : State} (h : AbortsFound job (v :: l) s) :
    AbortsFound job l (abortOne s v) := by
  have hnd := h.nodup
  rw [List.map_cons, List.nodup_cons] at hnd
  refine ⟨hnd.2, fun u hu => ?_, fun u hu => h.job u (List.mem_cons_of_mem _ hu)⟩
  obtain ⟨n, hv⟩ := h.found v (List.mem_cons_self ..)
  obtain ⟨m, hu1⟩ := h.found u (List.mem_cons_of_mem _ hu)
  have hne : u.id ≠ v.id := fun he => hnd.1 (he ▸ List.mem_map_of_mem hu)
  obtain ⟨⟨w, hw, k, hk, -⟩, -⟩ := abortOne_other hv hne hu1
  exact ⟨k, by rw [hw, hk]⟩

/-- An abort of several tasks leaves a task that it does not name as it was, but for the uses of the groups of their job. -/
theorem foldl_abortOne_other {job : Nat} (l : List Task) {s : State} {id : Nat} {w : Task} (hf : AbortsFound job l s)
    (hid : ∀ u ∈ l, id ≠ u.id) (h : findTask s id = some w) :
    (∃ w', findTask (l.foldl abortOne s) id = some w' ∧ ReUsed job w w') ∧ s.tck.aborting ⊆ (l.foldl abortOne s).tck.aborting := by
  induction l generalizing s w with
  | nil => exact ⟨⟨w, h, w.use, rfl, fun _ => rfl⟩, List.Subset.refl _⟩
  | cons v l ih =>
    obtain ⟨n, hv⟩ := hf.found v (List.mem_cons_self ..)
    obtain ⟨⟨w1, hw1, hr1⟩, hs1⟩ := abortOne_other hv (hid v (List.mem_cons_self ..)) h
    have hjob : v.job = job := hf.job v (List.mem_cons_self ..)
    obtain ⟨⟨w2, hw2, hr2⟩, hs2⟩ := ih hf.next (fun u hu => hid u (List.mem_cons_of_mem _ hu)) hw1
    rw [show ({ v with use := n } : Task).job = job from hjob] at hr1
    exact ⟨⟨w2, hw2, hr1.trans hr2⟩, List.Subset.trans hs1 hs2⟩

/-- Each waiting task of several that an abort reaches ends with ABORTED. -/
theorem foldl_abortOne_waiting {job : Nat} (l : List Task) {s : State} {u : Task} (hf : AbortsFound job l s) (hu : u ∈ l)
    (hp : u.phase = .accepted ∨ u.phase = .waiting) (hd : u.direct = none) :
    (∃ w, findTask (l.foldl abortOne s) u.id = some w ∧ w.phase = .complete ∧ w.status = 2) ∧ u.id ∈ (l.foldl abortOne s).tck.aborting := by
  induction l generalizing s with
  | nil => cases hu
  | cons v l ih =>
    have hnd := hf.nodup
    rw [List.map_cons, List.nodup_cons] at hnd
    obtain rfl | hul := List.mem_cons.mp hu
    · obtain ⟨n, hv⟩ := hf.found u hu
      obtain ⟨heq, w, hw, hwp, hws, -⟩ := abortOne_waiting hv hp hd
      have hin : u.id ∈ (abortOne s u).tck.aborting := by
        rw [heq, (finish_keeps ..).1 .tck (by decide)]
        exact List.mem_append_right _ (List.mem_singleton_self _)
      obtain ⟨⟨w', hw', m, hm, -⟩, hsub⟩ := foldl_abortOne_other l hf.next (fun x hx he => hnd.1 (by rw [he]; exact List.mem_map_of_mem hx)) hw
      exact ⟨⟨w', hw', by rw [hm]; exact hwp, by rw [hm]; exact hws⟩, hsub hin⟩
    · exact ih hf.next hul

/-- In a list whose tasks have different numbers each is the one found by its number. -/
theorem findTask_of_nodup {s : State} (h : (s.tasks.map (·.id)).Nodup) {u : Task} (hu : u ∈ s.tasks) : findTask s u.id = some u := by
  have hlist (l : List Task) (h : (l.map (·.id)).Nodup) (hu : u ∈ l) : l.find? (fun t => t.id == u.id) = some u := by
    induction l with
    | nil => cases hu
    | cons v l ih =>
      rw [List.map_cons, List.nodup_cons] at h
      rw [List.find?_cons]
      obtain rfl | hul := List.mem_cons.mp hu
      · rw [beq_self_eq_true]
      · rw [beq_false_of_ne (fun he => h.1 (by rw [he]; exact List.mem_map_of_mem hul))]
        exact ih h.2 hul
  exact hlist _ h hu

theorem abortEffect_start {v : Word} {s : State} {n : Nat} (hbusy : s.tck.abortBusy = false) (hn : n = 2 ∨ n = 3) :
    abortEffect (setFld v 17 16 n) s = if n = 3 then abortJobRun (fld v 15 0) (storeReg tckPage 0x238 (setFld v 17 16 n) s)
      else abortTaskRun (fld v 15 0) (regFld s tckPage 0x240 49 0) (storeReg tckPage 0x238 (setFld v 17 16 n) s) := by
  have hgo : bit (setFld v 17 16 n) 17 = true := by
    rw [bit_setFld, if_pos (by decide)]
    obtain rfl | rfl := hn <;> decide
  have hjob : bit (setFld v 17 16 n) 16 = decide (n = 3) := by
    rw [bit_setFld, if_pos (by decide)]
    obtain rfl | rfl := hn <;> decide
  have hfld : fld (setFld v 17 16 n) 15 0 = fld v 15 0 := fld_setFld_ne _ _ _ _ _ _ (.inl (by decide))
  have hreg : regFld (storeReg tckPage 0x238 (setFld v 17 16 n) s) tckPage 0x240 49 0 = regFld s tckPage 0x240 49 0 := by
    rw [regFld, getReg_storeReg_ne (by decide)]
    rfl
  unfold abortEffect
  dsimp only
  rw [if_neg (by simp [hbusy]), if_neg (by simp [hgo]), hjob, hfld, hreg]
  simp only [decide_eq_true_eq]

/-- What is captured of a stalled job: its slot, and the oldest waiting task's queue, what it waits for, and the tick. -/
def stallWord (slot : Nat) (u : Task) (s : State) : Word :=
  word (slot + 32 + u.cq % 256 * 256 + waitCode s u % 8 * 2 ^ 16 + tickLo s * 2 ^ 32)

theorem stallWord_fields (slot : Fin 32) (u : Task) (s : State) :
    fld (stallWord slot.val u s) 4 0 = slot.val ∧ bit (stallWord slot.val u s) 5 = true ∧ fld (stallWord slot.val u s) 15 8 = u.cq % 256 ∧
      fld (stallWord slot.val u s) 63 32 = tickLo s := by
  have hslot := slot.isLt
  have htick : tickLo s < 2 ^ 32 := Nat.mod_lt _ (by decide)
  have hcode : waitCode s u % 8 < 8 := Nat.mod_lt _ (by decide)
  have hcq : u.cq % 256 < 256 := Nat.mod_lt _ (by decide)
  unfold stallWord
  generalize waitCode s u % 8 = c at *
  generalize u.cq % 256 = q at *
  generalize tickLo s = k at *
  simp only [fld, nfld, bit, word, BitVec.toNat_ofNat, BitVec.getLsbD_ofNat, Nat.testBit_eq_decide_div_mod_eq]
  refine ⟨by omega, ?_, by omega, by omega⟩
  simp only [Bool.and_eq_true, decide_eq_true_eq]
  omega

/-- Settles O27: an abort leaves every task it does not name but for the use of its group, and the queues' items become new tasks. -/
theorem abortsAndMissingProgress : Obligations.AbortsAndMissingProgress := by
  refine ⟨?task, ?job, ?done, ?noprog⟩
  case task =>
    intro s who v u ha hbusy hfind hu hp
    obtain ⟨s1, hs1⟩ : ∃ s1, s1 = storeReg tckPage 0x238 (setFld v 17 16 2) s := ⟨_, rfl⟩
    have hk1 : Keeps [.regs] s s1 := hs1 ▸ storeReg_keeps ..
    have htasks : s1.tasks = s.tasks := hk1.1 .tasks (by decide)
    have hmem := List.find?_some hfind
    have hdir : u.direct = none := by
      simp only [Bool.and_eq_true, Option.isNone_iff_eq_none] at hmem
      exact hmem.1.2
    have hu1 : findTask s1 u.id = some u := by rw [findTask_congr htasks]; exact hu
    obtain ⟨heq, w, hw, hwp, hws, hwd⟩ := abortOne_waiting hu1 hp hdir
    have heff : abortEffect (setFld v 17 16 2) s = { abortOne s1 u with tck := { (abortOne s1 u).tck with abortBusy := true, abortResp := 1 } } := by
      rw [abortEffect_start hbusy (.inl rfl), if_neg (by decide), ← hs1]
      unfold abortTaskRun
      dsimp only
      rw [htasks, hfind]
    have htck : (abortOne s1 u).tck = (reached u.id s1).tck := by
      rw [heq]
      exact (finish_keeps ..).1 .tck (by decide)
    have honly : Keeps [.regs, .tasks, .eng, .tck] s (abortOne s1 u) := by
      have hself : Keeps [.regs, .tasks, .eng, .tck] s s := .refl
      rw [heq]
      exact ((hself.step hk1).set_tck { s1.tck with aborting := s1.tck.aborting ++ [u.id] }).step (finish_queued_keeps hdir _ (reached u.id s1))
    refine ⟨_, w, congrArg Host.Outcome.next ((regGuard_admits ha).trans heff), hw, hwp, hws, hwd, rfl, rfl, ?_, (honly.set_tck _).1⟩
    show u.id ∈ (abortOne s1 u).tck.aborting
    rw [htck]
    exact List.mem_append_right _ (List.mem_singleton_self _)
  case job =>
    intro s who v ha hbusy hnd hnext
    obtain ⟨s1, hs1⟩ : ∃ s1, s1 = storeReg tckPage 0x238 (setFld v 17 16 3) s := ⟨_, rfl⟩
    have hk1 : Keeps [.regs] s s1 := hs1 ▸ storeReg_keeps ..
    have htasks : s1.tasks = s.tasks := hk1.1 .tasks (by decide)
    obtain ⟨l, hl⟩ : ∃ l, l = s.tasks.filter (fun t => t.job == fld v 15 0 && t.phase != .held && t.direct.isNone) := ⟨_, rfl⟩
    obtain ⟨r, hr⟩ : ∃ r, r = abortQueued (fun t => t.job == fld v 15 0) (l.foldl abortOne s1) := ⟨_, rfl⟩
    have heff : abortEffect (setFld v 17 16 3) s =
        { r.2 with tck := { r.2.tck with abortBusy := true, abortResp := if 0 < r.1 + l.length then 1 else 3 } } := by
      rw [abortEffect_start hbusy (.inr rfl), if_pos rfl, ← hs1, hr, hl]
      unfold abortJobRun
      rw [htasks]
    have hgrow : TasksGrow (l.foldl abortOne s1) r.2 := hr ▸ abortQueued_tasksGrow ..
    have hmem {u : Task} : u ∈ l ↔ u ∈ s.tasks ∧ u.job = fld v 15 0 ∧ u.phase ≠ .held ∧ u.direct = none := by
      rw [hl, List.mem_filter]
      simp [and_assoc]
    have hfound {u : Task} (hu : u ∈ s.tasks) : findTask s1 u.id = some u := by
      rw [findTask_congr htasks]
      exact findTask_of_nodup hnd hu
    have hf : AbortsFound (fld v 15 0) l s1 :=
      ⟨(hl ▸ List.filter_sublist.map _ : (l.map (·.id)).Sublist (s.tasks.map (·.id))).nodup hnd,
        fun u hu => ⟨u.use, hfound (hmem.mp hu).1⟩, fun u hu => (hmem.mp hu).2.1⟩
    refine ⟨_, congrArg Host.Outcome.next ((regGuard_admits ha).trans heff), rfl, fun u hu hj hp hd => ?_, fun u hu hj => ?_⟩
    · obtain ⟨⟨w, hw, hwp, hws⟩, hin⟩ := foldl_abortOne_waiting l hf
        (hmem.mpr ⟨hu, hj, by obtain h | h := hp <;> rw [h] <;> decide, hd⟩) hp hd
      exact ⟨w, hgrow.findTask hw, hwp, hws, hgrow.aborting hin⟩
    · have hother : ∀ x ∈ l, u.id ≠ x.id := by
        intro x hx he
        have h1 := findTask_of_nodup hnd (hmem.mp hx).1
        rw [← he, findTask_of_nodup hnd hu] at h1
        rw [Option.some.inj h1] at hj
        exact hj (hmem.mp hx).2.1
      obtain ⟨⟨w, hw, n, hn, hne⟩, -⟩ := foldl_abortOne_other l hf hother (hfound hu)
      rw [hne hj] at hn
      rw [hn] at hw
      exact hgrow.findTask hw
  case done =>
    intro s hb hnil
    have heff : abortDoneEffect s = intSet tckPage 2 { s with tck := { s.tck with abortBusy := false } } :=
      if_pos ⟨hb, by rw [hnil]; rfl⟩
    have htck := (intSet_keeps tckPage 2 { s with tck := { s.tck with abortBusy := false } }).1 .tck (by decide)
    have hself : Keeps [.out, .regs, .tck, .sys] s s := .refl
    exact ⟨_, congrArg Host.Outcome.next heff, by rw [htck], by rw [htck], bit_intSts_intSet _ _ _ (by decide),
      ((hself.set_tck { s.tck with abortBusy := false }).step (intSet_keeps ..)).1⟩
  case noprog =>
    intro s slot u hlim hact hstall hfind
    obtain ⟨s1, hs1⟩ : ∃ s1 : State, s1 = { s with tck := { s.tck with noprog := mdel s.tck.noprog slot.val } } := ⟨_, rfl⟩
    have hreg1 (o : Nat) : getReg s1 tckPage o = getReg s tckPage o := by rw [hs1]; rfl
    obtain ⟨s2, hs2⟩ : ∃ s2, s2 = if regBit s1 tckPage 0x258 5 then s1 else setReg tckPage 0x258 (stallWord slot.val u s) s1 := ⟨_, rfl⟩
    have heff : noprogEffect slot.val s = bump tckPage 0 12 1 (intSet tckPage 3 (raise tckPage 11 0 s2)) := by
      rw [hs2, hs1]
      unfold noprogEffect
      dsimp only
      rw [if_neg (by simp [hlim, hact]; omega), hfind]
      rfl
    have hregt (o : Nat) : getReg (noprogEffect slot.val s) tckPage o = getReg (intSet tckPage 3 (raise tckPage 11 0 s2)) tckPage o := by
      rw [heff]
      exact getReg_congr ((bump_keeps ..).1 .regs (by decide)) _ _
    have h258 : getReg (noprogEffect slot.val s) tckPage 0x258 = getReg s2 tckPage 0x258 := by
      rw [hregt, getReg_intSet_high (by decide) (by decide), getReg_raise_high (by decide) (by decide)]
    refine ⟨_, rfl, ?_, ?_, fun hb => ?_, fun hb => ?_, ?_⟩
    · rw [hregt]
      exact (intSet_bitsStay (by decide) ..).stay _ _ _ (.inl rfl) (by decide) (bit_errSts_raise _ _ _ _ (by decide))
    · rw [hregt]
      exact bit_intSts_intSet _ _ _ (by decide)
    · rw [h258, hs2, if_pos (by rw [regBit, hreg1]; exact hb), hreg1]
    · rw [regFld, regBit, regFld, regFld, h258, hs2, if_neg (by rw [regBit, hreg1, ← regBit, hb]; decide), getReg_setReg_same]
      exact stallWord_fields slot u s
    · have hself : Keeps [.out, .regs, .cnt, .tck, .sys] s s := .refl
      have hk2 : Keeps [.out, .regs, .cnt, .tck, .sys] s s2 := by
        rw [hs2, hs1]
        exact .ite (fun _ => hself.set_tck _) fun _ => (hself.set_tck _).step (setReg_keeps ..)
      rw [heff]
      exact (((hk2.step (raise_keeps ..)).step (intSet_keeps ..)).step (bump_keeps ..)).1

end Sys2Proof.Machine
end

section
/-! SUPPORT. Bindings and job slots (R164-R168, R383). -/

namespace Sys2Proof.Machine

/-- A job slot that closes, its job's link key listed twice. -/
def keyListedTwice : State :=
  { State.reset with tck := { State.reset.tck with slots := [(0, { w0 := word 5, closing := true })] }, keys := [(5, {}), (5, {})] }

/-- Refutes O26: where a job's link key is listed twice in the map, erasing it when its slot is free leaves the second. -/
theorem not_bindingsTakeEffectOnIdleQueues : ¬ Obligations.BindingsTakeEffectOnIdleQueues := by
  rintro ⟨-, -, -, -, -, -, -, -, hclose, -⟩
  have hkey := ((hclose keyListedTwice 0 (by decide) (by decide)).2 (by decide)).2.1
  exact absurd hkey (by decide)

end Sys2Proof.Machine
end

section
/-! SUPPORT. The commit point (R52, R57). -/

namespace Sys2Proof.Machine

/-- A task that ends with OK and releases two eyelets of one buffer, of its generation and of the next. -/
def releasesTwo : Task :=
  { id := 0, cq := 0, eng := 0x20, addr := 0, phase := .complete, status := 1, accTick := 0, eye := [1, 2, 0, 0, 0, 0, 0, 0],
    desc := [0, 0, 0, word 0x170000000000, 0, 0, 0, 0, 0, word (2 ^ 32 + 2 ^ 37), 0, word (2 ^ 32 + 2 ^ 37)] }

/-- The device with that task at its end, the buffer listed as allocated twice. -/
def bufferListedTwice : State := { pools := [(0, { alloc := [(0, 0), (0, 0)] })], tasks := [releasesTwo] }

/-- Refutes O15: where a pool lists a buffer as allocated twice, the first of two eyelets released makes the second valid, whose
release then sets no STALE_RELEASE. -/
theorem not_commitWritesTheRecord : ¬ Obligations.CommitWritesTheRecord := by
  rintro ⟨-, -, -, hrelease, -⟩
  obtain ⟨t, ht, heyes, -⟩ := hrelease bufferListedTwice releasesTwo (by decide) (by decide) (by decide) (by decide) (by decide)
  have hstale := (heyes 1 (by decide) (by decide) (by decide)).2 (by decide)
  cases ht
  exact absurd hstale (by decide)

end Sys2Proof.Machine
end

section
/-! SUPPORT. Commands under the owner's key that have no effect (R375 to R377): each is refused, answered as a repetition, or left. -/

namespace Sys2Proof.Machine

/-- Nothing but an answer has come of a command. -/
def OnlyAnswers (s t : State) : Prop := onlyAnswered t s.sec ∧ State.onlyChanges (answerParts s) s t

theorem OnlyAnswers.refl (s : State) : OnlyAnswers s s :=
  ⟨onlyAnswered_of_sec rfl, (Keeps.refl (ps := answerParts s) (s := s)).1⟩

/-- The response to a command goes where the command came from. -/
theorem sendResponse_onlyAnswers (s : State) (e : Envelope) (bs : List Byte) :
    OnlyAnswers s (sendResponse (takeSource e s).1 bs (takeSource e s).2) := by
  have hsec : (takeSource e s).2.sec = s.sec := (takeSource_keeps e s).1 .sec (by decide)
  refine ⟨hsec ▸ sendResponse_onlyAnswered .., ?_⟩
  unfold answerParts
  split
  · rename_i hdoor
    exact (Keeps.step ((takeSource_keeps e s).mono (by decide))
      (sendResponse_keeps_of_ne_door (takeSource_ne_door hdoor e) ..)).1
  · exact (Keeps.step (.mono (takeSource_keeps e s) (by decide)) (sendResponse_keeps ..)).1

theorem sec_mem_answerParts (s : State) : Part.sec ∈ answerParts s ∧ Part.mgt ∈ answerParts s := by
  unfold answerParts
  split <;> decide

/-- A response that waits for a compaction's end is an answer too. -/
theorem answerOrHold_onlyAnswers (s : State) (e : Envelope) (bs : List Byte) (held : Bool) :
    OnlyAnswers s (answerOrHold (takeSource e s).1 bs held (takeSource e s).2) := by
  cases held with
  | false => exact sendResponse_onlyAnswers s e bs
  | true =>
    have hsec : (takeSource e s).2.sec = s.sec := (takeSource_keeps e s).1 .sec (by decide)
    obtain ⟨hsecIn, hmgtIn⟩ := sec_mem_answerParts s
    refine ⟨?_, fun q hq => ?_⟩
    · unfold onlyAnswered answerOrHold
      simp only [if_true, hsec]
    · obtain ⟨m, hm⟩ := takeSource_state e s
      unfold answerOrHold
      rw [hm]
      cases q with
      | sec => exact absurd hsecIn hq
      | mgt => exact absurd hmgtIn hq
      | _ => rfl

theorem rejectCmd_onlyAnswers (s : State) (e : Envelope) (status : Nat) :
    OnlyAnswers s (rejectCmd (takeSource e s).1 e status (takeSource e s).2) := sendResponse_onlyAnswers ..

/-- A command that fails one of the checks 1 to 3 of R376 goes no further. -/
theorem keyedHead_onlyAnswers {s : State} {e : Envelope} {code len : Nat} (h : ¬ passesHead s e code len)
    (k : CmdSrc → State → State) : OnlyAnswers s (keyedHead code len e k s) := by
  unfold keyedHead
  split
  · exact .refl s
  next hstart =>
  dsimp only
  split
  · exact rejectCmd_onlyAnswers ..
  next hshape =>
  split
  · exact rejectCmd_onlyAnswers ..
  next howner =>
  split
  · exact rejectCmd_onlyAnswers ..
  next hchip =>
  split
  · exact rejectCmd_onlyAnswers ..
  next hepoch =>
  refine absurd ⟨?_, ?_, ?_, ?_, ?_, ?_, ?_, ?_⟩ h <;> grind [List.isEmpty_iff]

/-- One with another MAC than the owner's key makes, or whose counter is not above the last one, goes no further either. -/
theorem keyedMac_onlyAnswers {s : State} {e : Envelope}
    (h : macOf s.sec.ock e.head ≠ e.mac ∨ e.counter.toNat ≤ s.sec.counter) (k : CmdSrc → State → State) :
    OnlyAnswers s (keyedMac e k (takeSource e s).1 (takeSource e s).2) := by
  have hsec : (takeSource e s).2.sec = s.sec := (takeSource_keeps e s).1 .sec (by decide)
  unfold keyedMac
  rw [hsec]
  split
  · exact rejectCmd_onlyAnswers ..
  next hmac =>
  split
  · exact answerOrHold_onlyAnswers ..
  split
  · exact rejectCmd_onlyAnswers ..
  next hcounter => exact absurd (h.resolve_left hmac) hcounter

/-- Each command under the owner's key runs behind the five checks of R376. -/
theorem exec_ownerCommand {e : Envelope} {x : Instr × Nat × Nat} (hx : x ∈ ownerCommands e) (s : State) :
    ∃ k, exec x.1 s = .next (keyed x.2.1 x.2.2 e k s) := by
  simp only [ownerCommands, List.mem_cons, List.not_mem_nil, or_false] at hx
  obtain rfl | rfl | rfl | rfl | rfl | rfl | rfl | rfl | rfl | rfl | rfl | rfl | rfl := hx <;> exact ⟨_, rfl⟩

/-- Settles O53: each of the five checks stands before the command's own conditions. -/
theorem commandsNeedTheOwnersKey : Obligations.CommandsNeedTheOwnersKey := by
  unfold Obligations.CommandsNeedTheOwnersKey
  refine ⟨?head, ?mac, ?counter⟩
  case head =>
    intro s e x hx hpass
    obtain ⟨k, hk⟩ := exec_ownerCommand hx s
    exact ⟨_, hk, keyedHead_onlyAnswers hpass _⟩
  case mac =>
    intro s e x hx hpass hmac
    obtain ⟨k, hk⟩ := exec_ownerCommand hx s
    refine ⟨_, hk, ?_⟩
    unfold keyed
    rw [keyedHead_of_passesHead hpass]
    exact keyedMac_onlyAnswers (.inl hmac) k
  case counter =>
    intro s e x hx hpass hcounter
    obtain ⟨k, hk⟩ := exec_ownerCommand hx s
    refine ⟨_, hk, ?_⟩
    unfold keyed
    rw [keyedHead_of_passesHead hpass]
    exact keyedMac_onlyAnswers (.inr hcounter) k

end Sys2Proof.Machine
end

section
/-! SUPPORT. Owner commands that are carried out (R377 to R384, R389): the answer, the journal and the command's own setting. -/

namespace Sys2Proof.Machine

/-! ### Ranges written with zeros -/

theorem cellGet_filter_out {d : Nat → Byte} {p : Host.Cell → Bool} {a : Nat} (hp : ∀ v, p (a, v) = false) (m : List Host.Cell) :
    cellGet d (m.filter p) a = d a := by
  induction m with
  | nil => rfl
  | cons c m ih =>
    obtain ⟨k, v⟩ := c
    by_cases hc : p (k, v) = true
    · have hk : k ≠ a := fun hk => by simp [hk, hp v] at hc
      simp [hc, hk, cellGet, ih]
    · simp [hc, ih]

theorem memGet_memZero_in {lo hi a : Nat} (h : lo ≤ a ∧ a < hi) (m : Mem) : memGet (memZero lo hi m) a = 0 := by
  unfold memZero
  split
  next hlost =>
    refine (cellGet_filter_out (fun v => ?_) m.cells).trans ?_
    · simp only [decide_eq_false_iff_not]
      omega
    · rw [List.isEmpty_iff.mp hlost]
      rfl
  next =>
    refine (cellGet_filter_out (fun v => ?_) m.cells).trans ?_
    · simp [Lost.covers, h]
    · show unlisted (.zeroed lo hi :: m.lost) a = 0
      simp [unlisted, Lost.covers, Lost.value, h]

theorem memGet_memZero_out {lo hi a : Nat} (h : ¬ (lo ≤ a ∧ a < hi)) (m : Mem) : memGet (memZero lo hi m) a = memGet m a := by
  unfold memZero
  split
  next =>
    refine cellGet_filter (fun v => ?_) m.cells
    simp only [decide_eq_true_eq]
    omega
  next =>
    refine (cellGet_filter (fun v => ?_) m.cells).trans (cellGet_congr ?_ m.cells)
    · simp only [Lost.covers, Bool.not_eq_true', decide_eq_false_iff_not]
      exact h
    · show unlisted (.zeroed lo hi :: m.lost) a = unlisted m.lost a
      simp [unlisted, Lost.covers, h]

/-! ### A command carried out -/

theorem answerOrHold_sec (src : CmdSrc) (bs : List Byte) (held : Bool) (s : State) :
    onlyAnswered (answerOrHold src bs held s) s.sec ∧
      (held = true → (answerOrHold src bs held s).sec.waiting.length = s.sec.waiting.length + 1) := by
  cases held with
  | false => exact ⟨sendResponse_onlyAnswered .., nofun⟩
  | true =>
    refine ⟨rfl, fun _ => ?_⟩
    show (s.sec.waiting ++ [(src, bs)]).length = _
    simp

/-- The counter and the response are stored with the command, whatever the answer does. -/
theorem acceptCmd_carriedOut (src : CmdSrc) (e : Envelope) (key : List Byte) (payload : List Byte) (s : State) :
    carriedOut (acceptCmd src e key true payload s) e s.sec := by
  have h := answerOrHold_sec src (respSealed key (respHead s e.cmd 0 e.counter payload)) s.sec.compacting
    { s with sec := { s.sec with counter := e.counter.toNat, stored := some (e.mac, respHead s e.cmd 0 e.counter payload) } }
  obtain ⟨hsec, hwait⟩ := h
  have ht : acceptCmd src e key true payload s = answerOrHold src (respSealed key (respHead s e.cmd 0 e.counter payload)) s.sec.compacting
    { s with sec := { s.sec with counter := e.counter.toNat, stored := some (e.mac, respHead s e.cmd 0 e.counter payload) } } := rfl
  rw [ht]
  unfold onlyAnswered at hsec
  refine ⟨?_, ?_, hwait⟩
  · rw [hsec]
  · rw [hsec]
    rfl

theorem ownerDone_carriedOut (e : Envelope) (src : CmdSrc) (n : Nat) (s : State) : carriedOut (ownerDone e src n s) e s.sec := by
  obtain ⟨hsec, hstored, hwait⟩ := acceptCmd_carriedOut src e s.sec.ock [] s
  have hj := journal_journalOnly n (acceptCmd src e s.sec.ock true [] s)
  unfold JournalOnly at hj
  unfold ownerDone
  refine ⟨?_, ?_, fun hc => ?_⟩
  · rw [hj]
    dsimp only
    rw [hsec]
  · rw [hj]
    exact hstored
  · rw [hj]
    exact hwait hc

theorem acceptCmd_keeps_of_ne_door {src : CmdSrc} (h : ∀ a, src ≠ .door a) (e : Envelope) (key : List Byte) (keep : Bool)
    (payload : List Byte) (s : State) : Keeps [.out, .cnt, .sec] s (acceptCmd src e key keep payload s) := by
  have hset (y : Sec) : Keeps [.out, .cnt, .sec] s { s with sec := y } := Keeps.refl.set_sec y
  unfold acceptCmd answerOrHold
  dsimp only
  split
  · exact hset _
  · exact (hset _).step (sendResponse_keeps_of_ne_door h ..)

/-- What carrying a command out changes besides: the parts of its answer. -/
theorem acceptCmd_answer {s u : State} {e : Envelope} {ps : List Part} (hu : State.onlyChanges ps s u)
    (hps : ∀ q ∈ answerParts s, q ∈ ps) (key : List Byte) (keep : Bool) (payload : List Byte) :
    State.onlyChanges ps s (acceptCmd (takeSource e s).1 e key keep payload u) := by
  refine fun q hq => q.same_trans (hu q hq) ?_
  have hq' : q ∉ answerParts s := fun h => hq (hps q h)
  unfold answerParts at hq'
  split at hq'
  · rename_i hdoor
    exact ((acceptCmd_keeps_of_ne_door (takeSource_ne_door hdoor e) ..).mono (by decide)).1 q hq'
  · exact (Keeps.mono (acceptCmd_keeps ..) (by decide)).1 q hq'

theorem ownerDone_answer {s u : State} {e : Envelope} {ps : List Part} (hu : State.onlyChanges ps s u)
    (hps : ∀ q ∈ answerParts s, q ∈ ps) (n : Nat) : State.onlyChanges ps s (ownerDone e (takeSource e s).1 n u) := by
  have hsec : Part.sec ∈ ps := hps _ (sec_mem_answerParts s).1
  exact fun q hq => q.same_trans (acceptCmd_answer hu hps _ _ _ q hq)
    ((journal_keeps ..).1 q (fun h => hq (List.mem_singleton.mp h ▸ hsec)))

/-- SEC with a command's setting, and the request taken from its channel, change no other part than an answer does. -/
theorem onlyChanges_sec (s : State) (m : Mgt) (x : Sec) : State.onlyChanges (answerParts s) s { s with mgt := m, sec := x } := by
  obtain ⟨hsec, hmgt⟩ := sec_mem_answerParts s
  intro q hq
  cases q with
  | sec => exact absurd hsec hq
  | mgt => exact absurd hmgt hq
  | _ => rfl

theorem ownerDone_setting (s : State) (e : Envelope) (m : Mgt) (n : Nat) (x : Sec) :
    State.onlyChanges (answerParts s) s (ownerDone e (takeSource e s).1 n { s with mgt := m, sec := x }) ∧
      carriedOut (ownerDone e (takeSource e s).1 n { s with mgt := m, sec := x }) e x :=
  ⟨ownerDone_answer (onlyChanges_sec s m x) (fun _ h => h) n, ownerDone_carriedOut ..⟩

/-! ### Ownership (R380, R381) -/

theorem takeOwner_go {s : State} {e : Envelope} {ock : List Byte} (src : CmdSrc) (howned : s.sec.owned = false)
    (hopen : Config.oaepOpen s.sec.keyGen (e.payload.take 384) = some ock) (hlen : ock.length = 32)
    (hmac : macOf ock e.head = e.mac) (hcounter : s.sec.counter < e.counter.toNat) (hepoch : s.sec.epoch < 255) :
    takeOwner e src s = ownerDone e src 64 { s with sec := { s.sec with owned := true, epoch := s.sec.epoch + 1, ock := ock } } := by
  unfold takeOwner
  have hc : ¬ e.counter.toNat ≤ s.sec.counter := Nat.not_le.mpr hcounter
  have he : ¬ 255 ≤ s.sec.epoch := Nat.not_le.mpr hepoch
  simp [howned, hopen, hlen, hmac, hc, he]

/-- Under an owner every outcome of TAKE_OWNERSHIP is an answer. -/
theorem takeOwner_owned {s : State} (e : Envelope) (h : s.sec.owned = true) :
    OnlyAnswers s (takeOwner e (takeSource e s).1 (takeSource e s).2) := by
  have hsec : (takeSource e s).2.sec = s.sec := (takeSource_keeps e s).1 .sec (by decide)
  unfold takeOwner
  rw [hsec]
  refine (if_pos h).symm ▸ ?_
  unfold keyedMac
  split
  · exact rejectCmd_onlyAnswers ..
  split
  · exact answerOrHold_onlyAnswers ..
  split
  · exact rejectCmd_onlyAnswers ..
  · exact rejectCmd_onlyAnswers ..

/-- What a release leaves before it is answered (R381): HBM's content is lost and the other memories are zero. -/
def releasedMemory (s : State) : State :=
  zeroRange 0x180000000000 0x180060000000 (zeroRange 0x100000000000 0x100800000000
    (zeroProv (loseLines (List.range (lpcCount s)) s)))

/-- SEC after a release: no owner, and new generations of keys. -/
def releasedSec (x : Sec) : Sec :=
  { x with owned := false, ock := [], counter := 0, stored := none, keyGen := x.keyGen + 1, generated := x.generated + 1,
           xts := x.generated + 1 }

/-- The device without its owner. -/
def released (s : State) : State := { releasedMemory s with keys := [], sec := releasedSec s.sec }

theorem releasedMemory_keeps (s : State) : Keeps [.mem, .poison, .cw, .prov, .free] s (releasedMemory s) :=
  have hself : Keeps [.mem, .poison, .cw, .prov, .free] s s := .refl
  (((hself.step (loseLines_keeps ..)).step (zeroProv_keeps ..)).step (zeroRange_keeps ..)).step (zeroRange_keeps ..)

theorem releaseOwner_go {s : State} {e : Envelope} (src : CmdSrc) (h : releaseBlocked s = false) :
    releaseOwner e src s = journal 64 (acceptCmd src e s.sec.ock false [] (released s)) := by
  have hsec : (releasedMemory s).sec = s.sec := (releasedMemory_keeps s).1 .sec (by decide)
  unfold releaseOwner
  rw [h]
  unfold released releasedSec
  rw [← hsec]
  rfl

theorem releaseOwner_blocked {s : State} {e : Envelope} (src : CmdSrc) (h : releaseBlocked s = true) :
    releaseOwner e src s = rejectCmd src e 6 s := if_pos h

theorem releaseBlocked_takeSource (e : Envelope) (s : State) : releaseBlocked (takeSource e s).2 = releaseBlocked s := by
  obtain ⟨m, hm⟩ := takeSource_state e s
  rw [hm]
  rfl

theorem vendorRelease_signed {s : State} {e : Envelope} (src : CmdSrc)
    (h : Config.pssVerify 0 (wordBytes Config.chipId ++ toLe 1 s.sec.epoch) (e.payload.take 384) = true) :
    vendorRelease e src (takeSource e s).2 = releaseOwner e src (takeSource e s).2 := by
  obtain ⟨m, hm⟩ := takeSource_state e s
  rw [hm]
  exact if_neg (by simp [h])

theorem releasedMemory_zero {a : Nat} (h : (0x100000000000 ≤ a ∧ a < 0x100800000000) ∨ (0x180000000000 ≤ a ∧ a < 0x180060000000))
    (s : State) : memGet (releasedMemory s).mem a = 0 := by
  unfold releasedMemory
  by_cases ha : 0x180000000000 ≤ a ∧ a < 0x180060000000
  · exact memGet_memZero_in ha _
  · exact (memGet_memZero_out ha _).trans (memGet_memZero_in (h.resolve_right ha) _)

theorem released_changes (s : State) :
    State.onlyChanges (.keys :: .mem :: .poison :: .cw :: .prov :: .free :: answerParts s) s (released s) := by
  intro q hq
  have hmem : q ∉ [Part.mem, .poison, .cw, .prov, .free] := fun h => hq (by
    simp only [List.mem_cons, List.not_mem_nil, or_false] at h ⊢
    tauto)
  have hkept := (releasedMemory_keeps s).1 q hmem
  have hsec : Part.sec ∈ answerParts s := (sec_mem_answerParts s).1
  cases q with
  | keys => exact absurd (List.mem_cons_self ..) hq
  | sec => exact absurd (by simp [hsec]) hq
  | _ => exact hkept

/-- What a release leaves once it is answered. -/
theorem releaseOwner_released {s u : State} {e : Envelope} (hu : u = (takeSource e s).2) (h : releaseBlocked s = false) :
    let t := releaseOwner e (takeSource e s).1 u
    t.sec.owned = false ∧ t.sec.ock = [] ∧ t.sec.counter = 0 ∧ t.sec.stored = none ∧
      t.sec.keyGen = s.sec.keyGen + 1 ∧ t.sec.xts = s.sec.generated + 1 ∧ t.sec.epoch = s.sec.epoch ∧ t.keys = [] ∧
      (s.sec.door = none → ∀ a, (0x100000000000 ≤ a ∧ a < 0x100800000000) ∨ (0x180000000000 ≤ a ∧ a < 0x180060000000) →
        memGet t.mem a = 0) ∧
      State.onlyChanges (.keys :: .mem :: .poison :: .cw :: .prov :: .free :: answerParts s) s t := by
  obtain ⟨m, hm⟩ := takeSource_state e s
  have hum : u = { s with mgt := m } := hu.trans hm
  have hblocked : releaseBlocked u = false := by rw [hum]; exact h
  have husec : u.sec = s.sec := by rw [hum]
  extract_lets t
  have ht : t = journal 64 (acceptCmd (takeSource e s).1 e u.sec.ock false [] (released u)) := releaseOwner_go _ hblocked
  have hsec := (answerOrHold_sec (takeSource e s).1 (respSealed u.sec.ock (respHead (released u) e.cmd 0 e.counter []))
    (released u).sec.compacting (released u)).1
  have hj := journal_journalOnly 64 (acceptCmd (takeSource e s).1 e u.sec.ock false [] (released u))
  rw [← ht] at hj
  unfold JournalOnly at hj
  have hacc : (acceptCmd (takeSource e s).1 e u.sec.ock false [] (released u)).sec =
      (answerOrHold (takeSource e s).1 (respSealed u.sec.ock (respHead (released u) e.cmd 0 e.counter []))
        (released u).sec.compacting (released u)).sec := rfl
  unfold onlyAnswered at hsec
  rw [hacc, hsec] at hj
  have hrel : (released u).sec = releasedSec s.sec := by rw [← husec]; rfl
  have hkeys : t.keys = [] := by
    rw [ht]
    exact ((journal_keeps ..).1 .keys (by decide)).trans ((acceptCmd_keeps ..).1 .keys (by decide))
  have hanswer : State.onlyChanges (.keys :: .mem :: .poison :: .cw :: .prov :: .free :: answerParts s) s (released u) := by
    intro q hq
    have hmgt : Part.mgt ∈ answerParts s := (sec_mem_answerParts s).2
    have hparts : answerParts u = answerParts s := by rw [hum]; rfl
    refine q.same_trans ?_ (released_changes u q (hparts ▸ hq))
    rw [hum]
    cases q with
    | mgt => exact absurd (by simp [hmgt]) hq
    | _ => rfl
  have hchanges := acceptCmd_answer (e := e) hanswer (fun q hq => by simp [hq]) u.sec.ock false []
  refine ⟨?_, ?_, ?_, ?_, ?_, ?_, ?_, hkeys, fun hdoor a ha => ?_, fun q hq => ?_⟩
  · rw [hj, hrel]; rfl
  · rw [hj, hrel]; rfl
  · rw [hj, hrel]; rfl
  · rw [hj, hrel]; rfl
  · rw [hj, hrel]; rfl
  · rw [hj, hrel]; rfl
  · rw [hj, hrel]; rfl
  · have hmem : t.mem = (released u).mem := by
      rw [ht]
      exact ((journal_keeps ..).1 .mem (by decide)).trans
        ((acceptCmd_keeps_of_ne_door (takeSource_ne_door hdoor e) ..).1 .mem (by decide))
    rw [hmem]
    exact releasedMemory_zero ha u
  · rw [ht]
    refine q.same_trans (hchanges q hq) ((journal_keeps ..).1 q fun h => hq ?_)
    rw [List.mem_singleton.mp h]
    simp [(sec_mem_answerParts s).1]

/-- Settles O54: a release's answer comes from the state without its owner; every refusal is an answer only. -/
theorem ownershipIsTakenAndReleased : Obligations.OwnershipIsTakenAndReleased := by
  unfold Obligations.OwnershipIsTakenAndReleased
  refine ⟨?take, ?release, ?owned, ?blocked⟩
  case take =>
    intro s e ock hpass howned hopen hlen hmac hcounter hepoch
    obtain ⟨m, hm⟩ := takeSource_state e s
    refine ⟨_, congrArg Host.Outcome.next (keyedHead_of_passesHead hpass), ?_⟩
    rw [hm, takeOwner_go (s := { s with mgt := m }) _ howned hopen hlen hmac hcounter hepoch]
    exact (ownerDone_setting ..).symm
  case release =>
    rintro s e c (⟨rfl, hpass⟩ | ⟨rfl, hpass, hsig⟩) hfree
    · exact ⟨_, congrArg Host.Outcome.next (keyed_of_passesAll hpass), releaseOwner_released rfl hfree⟩
    · refine ⟨_, congrArg Host.Outcome.next (keyedHead_of_passesHead hpass), ?_⟩
      rw [vendorRelease_signed _ hsig]
      exact releaseOwner_released rfl hfree
  case owned =>
    intro s e hpass howned
    exact ⟨_, congrArg Host.Outcome.next (keyedHead_of_passesHead hpass), takeOwner_owned e howned⟩
  case blocked =>
    rintro s e c (⟨rfl, hpass⟩ | ⟨rfl, hpass⟩) hblocked
    · refine ⟨_, congrArg Host.Outcome.next (keyed_of_passesAll hpass), ?_⟩
      rw [releaseOwner_blocked _ (releaseBlocked_takeSource e s ▸ hblocked)]
      exact rejectCmd_onlyAnswers ..
    · refine ⟨_, congrArg Host.Outcome.next (keyedHead_of_passesHead hpass), ?_⟩
      unfold vendorRelease
      split
      · exact rejectCmd_onlyAnswers ..
      · rw [releaseOwner_blocked _ (releaseBlocked_takeSource e s ▸ hblocked)]
        exact rejectCmd_onlyAnswers ..

end Sys2Proof.Machine
end

section
/-! SUPPORT. The owner's settings (R325, R341, R356, R357, R360, R371, R379, R383, R384, R389): each command where nothing stands
against it. -/

namespace Sys2Proof.Machine

/-- The link keys with the one that INSTALL_LINK_KEY brings staged for its tick (R383). -/
def stagedKeys (s : State) (e : Envelope) (key : List Byte) : Map LinkKey :=
  mput s.keys (payNat e 0 2) { getKey s (payNat e 0 2) with staged := some (BitVec.ofNat 256 (leNat key), payNat e 2 8) }

/-- SEC with a group that must report itself healthy by a tick (R360). -/
def onTrial (s : State) (e : Envelope) : Sec :=
  { s.sec with trial := mput s.sec.trial (payNat e 0 1) (s.tck.num + b2n (decide (2 ≤ payNat e 0 1)) + regFld s cblPage 0x228 31 0) }

section
variable {s : State} {e : Envelope}

theorem installKey_go {key : List Byte} (src : CmdSrc)
    (hopen : Config.oaepOpen s.sec.keyGen ((e.payload.drop 10).take 384) = some key) (hlen : key.length = 32)
    (hjob : jobOpen s (payNat e 0 2) = true) :
    installKey e src s = ownerDone e src 0 { s with keys := stagedKeys s e key } := by
  unfold installKey stagedKeys
  simp [hopen, hlen, hjob]

theorem advanceSvn_go (src : CmdSrc) (hwhich : payNat e 0 1 ≤ 1) (hv : payNat e 1 1 ≤ 63)
    (hcur : (if payNat e 0 1 = 0 then s.sec.fwSvn else s.sec.awlSvn) < payNat e 1 1)
    (hbelow : svnBelow s (payNat e 0 1) (payNat e 1 1) = false) (hcount : s.sec.svnCount < 63) :
    advanceSvn e src s = ownerDone e src 8 { s with
      sec := if payNat e 0 1 = 0 then { s.sec with svnCount := s.sec.svnCount + 1, fwSvn := payNat e 1 1 }
        else { s.sec with svnCount := s.sec.svnCount + 1, awlSvn := payNat e 1 1 } } := by
  refine (if_neg ?_).trans (if_neg (Nat.not_le.mpr hcount))
  rintro (h | h | h | h)
  · omega
  · omega
  · omega
  · exact Bool.false_ne_true (hbelow.symm.trans h)

theorem setCeiling_go (src : CmdSrc) (hlo : 100 ≤ payNat e 0 2) (hhi : payNat e 0 2 ≤ 300)
    (hnew : payNat e 0 2 ≠ s.sec.ceilNext.getD s.pwr.ceil) (hcount : s.sec.ceilCount < 31) :
    setCeiling e src s = ownerDone e src 8 { s with
      sec := { s.sec with ceilNext := some (payNat e 0 2), ceilCount := s.sec.ceilCount + 1 } } :=
  (if_neg (by omega)).trans <| (if_neg hnew).trans (if_neg (Nat.not_le.mpr hcount))

theorem setCeiling_same (src : CmdSrc) (hlo : 100 ≤ payNat e 0 2) (hhi : payNat e 0 2 ≤ 300)
    (hsame : payNat e 0 2 = s.sec.ceilNext.getD s.pwr.ceil) : setCeiling e src s = ownerDone e src 0 s :=
  (if_neg (by omega)).trans (if_pos hsame)

theorem recalMeter_go (src : CmdSrc) (hrec : recFor Config.calMagic (e.payload.take 832) = true)
    (hseq : vtSeq (calInUse s) < vtSeq (e.payload.take 832)) (hcount : s.sec.recalCount < 15)
    (hsigned : recSigned (e.payload.take 832) = true) :
    recalMeter e src s = ownerDone e src 832 { s with
      sec := { s.sec with calRec := some (e.payload.take 832), recalCount := s.sec.recalCount + 1 } } := by
  unfold recalMeter
  simp [hrec, hsigned, Nat.not_le.mpr hseq, Nat.not_le.mpr hcount]

theorem replaceVt_go (src : CmdSrc) (hrec : recFor 0x56544231 (e.payload.take 832) = true)
    (hseq : ∀ x, vtInUse s = some x → vtSeq x < vtSeq (e.payload.take 832)) (hsigned : recSigned (e.payload.take 832) = true) :
    replaceVt e src s = ownerDone e src 832 { s with sec := { s.sec with vtRec := some (e.payload.take 832) } } := by
  have hnewer : (vtInUse s).any (fun x => decide (vtSeq (e.payload.take 832) ≤ vtSeq x)) = false := by
    cases hx : vtInUse s with
    | none => rfl
    | some x => exact decide_eq_false (Nat.not_le.mpr (hseq x hx))
  unfold replaceVt
  simp [hrec, hsigned, hnewer]

theorem fwSwitchCmd_go (src : CmdSrc) (hgroup : payNat e 0 1 ≤ 4)
    (hgood : slotGood s (payNat e 0 1) (1 - fwSlot s (payNat e 0 1)) = true) :
    fwSwitchCmd e src s = ownerDone e src 0 (fwTurn (payNat e 0 1) false { s with sec := onTrial s e }) :=
  if_neg (by simp [hgood, Nat.not_lt.mpr hgroup])

theorem updateLast_go (src : CmdSrc) (hgood : slotGood s 5 (1 - fwSlot s 5) = true) :
    updateLast e src s = ownerDone e src 8 { s with sec := { s.sec with lastPend := true, lastTrial := false } } :=
  if_neg (by simp [hgood])

/-- The request that a keyed MAPOUT names. -/
def keyedReq (e : Envelope) : MapReq :=
  { code := payNat e 0 2, inst := payNat e 2 1, unit := payNat e 3 1, force := decide (payNat e 4 1 ≠ 0), keyed := true }

theorem mapoutCmd_go (src : CmdSrc) (hup : cobblerUp s = true) :
    mapoutCmd e src s = mapEnqueue (keyedReq e) { s with sec := { s.sec with mapWait := [(src, e)] } } :=
  if_neg (by simp [hup])

theorem undoMapout_go (src : CmdSrc) (hentry : payNat e 0 1 < s.rel.mapTab.length) :
    undoMapout e src s = ownerDone e src 8 { s with sec := { s.sec with
      undo := if payNat e 0 1 ∈ s.sec.undo then s.sec.undo else s.sec.undo ++ [payNat e 0 1] } } := by
  unfold undoMapout
  simp [Nat.not_le.mpr hentry]

end

/-! ### The records in use (R324, R389) -/

theorem recValid_take {magic : Nat} {e : Envelope} {code : Nat} {s : State} (hpass : passesHead s e code 832)
    (hrec : recFor magic (e.payload.take 832) = true) (hsigned : recSigned (e.payload.take 832) = true) :
    recValid magic (e.payload.take 832) = true := by
  obtain ⟨-, -, -, hform, hlen, -⟩ := hpass
  have hlong : e.payload.length = 832 := by
    simp only [Envelope.formOk, decide_eq_true_eq] at hform
    obtain ⟨-, -, -, -, -, -, hpad⟩ := hform
    rw [hlen] at hpad
    exact hpad
  have htake : e.payload.take 832 = e.payload := List.take_of_length_le (by omega)
  simp only [recFor, Bool.and_eq_true] at hrec
  unfold recSigned at hsigned
  rw [htake] at hrec hsigned ⊢
  simp [recValid, hlong, hrec, hsigned]

/-- A valid record that is newer than the one in use is the one in use from then on. -/
theorem newestRec_replaced {magic : Nat} {first r : List Byte} {old : Option (List Byte)} (hr : recValid magic r = true)
    (hseq : ∀ x, newestRec magic (first :: old.toList) = some x → vtSeq x < vtSeq r) :
    newestRec magic [first, r] = some r := by
  have hfirst : recValid magic first = true → vtSeq first ≤ vtSeq r := by
    intro hf
    cases old with
    | none => exact (hseq first (by simp [newestRec, hf])).le
    | some o =>
      by_cases ho : recValid magic o = true
      · by_cases hle : vtSeq first ≤ vtSeq o
        · exact hle.trans (hseq o (by simp [newestRec, hf, ho, hle])).le
        · exact (hseq first (by simp [newestRec, hf, ho, hle])).le
      · exact (hseq first (by simp [newestRec, hf, ho])).le
  by_cases hf : recValid magic first = true
  · simp [newestRec, hf, hr, hfirst hf]
  · simp [newestRec, hf, hr]

/-! ### Map-outs and firmware -/

/-- A request that has been enqueued is the last one, taken up or not. -/
theorem mapBegin_last {s : State} {l : List MapReq} {q : MapReq} (h : s.rel.reqs = l ++ [q]) :
    ∃ l' b x y, (mapBegin s).rel.reqs = l' ++ [{ q with begun := b, result := x, beyond := y }] ∧ l'.length = l.length := by
  unfold mapBegin
  rw [h]
  cases l with
  | nil =>
    dsimp only [List.nil_append]
    split
    · exact ⟨[], q.begun, q.result, q.beyond, h, rfl⟩
    · exact ⟨[], _, _, _, rfl, rfl⟩
  | cons q0 l =>
    dsimp only [List.cons_append]
    split
    · exact ⟨q0 :: l, q.begun, q.result, q.beyond, h, rfl⟩
    · exact ⟨_ :: l, q.begun, q.result, q.beyond, rfl, rfl⟩

theorem fwTurn_spec (g : Nat) (reverted : Bool) (s : State) :
    (fwTurn g reverted s).sec.trial = s.sec.trial ∧ (g < 2 → fwSlot (fwTurn g reverted s) g = 1 - fwSlot s g) ∧
      (2 ≤ g → (fwTurn g reverted s).sec.active = s.sec.active ∧
        (fwTurn g reverted s).sec.switching = s.sec.switching ++ [g + 8 * b2n reverted]) := by
  obtain ⟨hslot, htrial, -⟩ := fwFlip_spec g reverted s
  unfold fwTurn
  split
  · exact ⟨htrial, fun _ => hslot, fun h => by omega⟩
  · exact ⟨rfl, fun h => by omega, fun _ => ⟨rfl, rfl⟩⟩

/-- What a command has set stands behind its answer and its journal record. -/
theorem carriedOut_fields {t : State} {e : Envelope} {x : Sec} (h : carriedOut t e x) :
    t.sec.counter = e.counter.toNat ∧ t.sec.trial = x.trial ∧ t.sec.active = x.active ∧ t.sec.switching = x.switching ∧
      t.sec.calRec = x.calRec := by
  obtain ⟨hsec, -⟩ := h
  refine ⟨?_, ?_, ?_, ?_, ?_⟩ <;> rw [hsec]

/-- Settles O55: each command is its setting, then the answer and the journal. -/
theorem ownerCommandsTakeEffect : Obligations.OwnerCommandsTakeEffect := by
  unfold Obligations.OwnerCommandsTakeEffect
  refine ⟨?key, ?svn, ?ceiling, ?sameCeiling, ?recal, ?voltage, ?switch, ?last, ?mapout, ?undo, ?time⟩
  case key =>
    intro s e key hpass hopen hlen hjob
    obtain ⟨m, hm⟩ := takeSource_state e s
    refine ⟨_, congrArg Host.Outcome.next (keyed_of_passesAll hpass), ?_⟩
    rw [hm, installKey_go (s := { s with mgt := m }) _ hopen hlen hjob]
    have hkeys (u : State) : (ownerDone e (takeSource e s).1 0 u).keys = u.keys := (ownerDone_keeps ..).1 .keys (by decide)
    refine ⟨ownerDone_carriedOut .., ?_, fun j hj => ?_, ownerDone_answer (fun q hq => ?_) (fun q hq => List.mem_cons_of_mem _ hq) 0⟩
    · exact (congrArg (mget · _ _) (hkeys _)).trans ((mget_mput ..).trans (if_pos rfl))
    · exact (congrArg (mget · _ _) (hkeys _)).trans ((mget_mput ..).trans (if_neg hj))
    · cases q with
      | keys => exact absurd (List.mem_cons_self ..) hq
      | mgt => exact absurd (List.mem_cons_of_mem _ (sec_mem_answerParts s).2) hq
      | _ => rfl
  case svn =>
    intro s e hpass hwhich hv hcur hbelow hcount
    obtain ⟨m, hm⟩ := takeSource_state e s
    refine ⟨_, congrArg Host.Outcome.next (keyed_of_passesAll hpass), ?_⟩
    rw [hm, advanceSvn_go (s := { s with mgt := m }) _ hwhich hv hcur hbelow hcount]
    exact ownerDone_setting ..
  case ceiling =>
    intro s e hpass hlo hhi hnew hcount
    obtain ⟨m, hm⟩ := takeSource_state e s
    refine ⟨_, congrArg Host.Outcome.next (keyed_of_passesAll hpass), ?_⟩
    rw [hm, setCeiling_go (s := { s with mgt := m }) _ hlo hhi hnew hcount]
    exact ownerDone_setting ..
  case sameCeiling =>
    intro s e hpass hlo hhi hsame
    obtain ⟨m, hm⟩ := takeSource_state e s
    refine ⟨_, congrArg Host.Outcome.next (keyed_of_passesAll hpass), ?_⟩
    rw [hm, setCeiling_same (s := { s with mgt := m }) _ hlo hhi hsame]
    exact ownerDone_setting s e m 0 s.sec
  case recal =>
    intro s e hpass hrec hseq hcount hsigned
    obtain ⟨m, hm⟩ := takeSource_state e s
    refine ⟨_, congrArg Host.Outcome.next (keyed_of_passesAll hpass), ?_⟩
    rw [hm, recalMeter_go (s := { s with mgt := m }) _ hrec hseq hcount hsigned]
    obtain ⟨hanswer, hdone⟩ := ownerDone_setting s e m 832
      { s.sec with calRec := some (e.payload.take 832), recalCount := s.sec.recalCount + 1 }
    obtain ⟨-, -, -, -, hcal⟩ := carriedOut_fields hdone
    have hnewest : newestRec Config.calMagic [Config.calRecord, e.payload.take 832] = some (e.payload.take 832) :=
      newestRec_replaced (old := s.sec.calRec) (recValid_take hpass.1 hrec hsigned) fun x hx => by
        unfold calInUse at hseq
        rw [hx] at hseq
        exact hseq
    refine ⟨hanswer, ?_, hdone⟩
    unfold calInUse
    rw [hcal]
    exact congrArg (Option.getD · Config.calRecord) hnewest
  case voltage =>
    intro s e hpass hrec hseq hsigned
    obtain ⟨m, hm⟩ := takeSource_state e s
    refine ⟨_, congrArg Host.Outcome.next (keyed_of_passesAll hpass), ?_⟩
    rw [hm, replaceVt_go (s := { s with mgt := m }) _ hrec hseq hsigned]
    exact ownerDone_setting ..
  case switch =>
    intro s e hpass hgroup hgood
    refine ⟨_, congrArg Host.Outcome.next (keyed_of_passesAll hpass), ?_⟩
    have hself : Keeps [.out, .regs, .cnt, .mem, .poison, .epochs, .tasks, .prov, .crm, .hbm, .ecc, .cw, .ls, .ldl, .rel, .act,
      .mgt, .mtr, .sec, .sys, .free] s s := .refl
    obtain ⟨m, hm⟩ := takeSource_state e s
    rw [hm, fwSwitchCmd_go (s := { s with mgt := m }) _ hgroup hgood]
    obtain ⟨u, hu⟩ : ∃ u, u = { s with mgt := m, sec := onTrial { s with mgt := m } e } := ⟨_, rfl⟩
    refine hu ▸ ?_
    obtain ⟨htrial, hlow, hhigh⟩ := fwTurn_spec (payNat e 0 1) false u
    obtain ⟨hcounter, htrial', hactive, hswitching, -⟩ :=
      carriedOut_fields (ownerDone_carriedOut e (takeSource e s).1 0 (fwTurn (payNat e 0 1) false u))
    refine ⟨hcounter, ?_, fun h => ?_, fun h => ⟨?_, ?_⟩, ?_⟩
    · rw [htrial', htrial, hu]
      exact (mfind_mput ..).trans (if_pos rfl)
    · unfold fwSlot at hlow ⊢
      rw [hactive, hlow h, hu]
      rfl
    · rw [hactive, (hhigh h).1, hu]
      rfl
    · rw [hswitching, (hhigh h).2, hu]
      rfl
    · have hfirst : Keeps [.out, .regs, .cnt, .mem, .poison, .epochs, .tasks, .prov, .crm, .hbm, .ecc, .cw, .ls, .ldl, .rel, .act,
        .mgt, .mtr, .sec, .sys, .free] s u := by
        rw [hu]
        exact (hself.set_mgt m).set_sec _
      exact ((hfirst.step (fwTurn_keeps ..)).step (ownerDone_keeps ..)).1
  case last =>
    intro s e hpass hgood
    obtain ⟨m, hm⟩ := takeSource_state e s
    refine ⟨_, congrArg Host.Outcome.next (keyed_of_passesAll hpass), ?_⟩
    rw [hm, updateLast_go (s := { s with mgt := m }) _ hgood]
    exact ownerDone_setting ..
  case mapout =>
    intro s e hpass hup
    obtain ⟨m, hm⟩ := takeSource_state e s
    obtain ⟨l, b, x, y, hlast, hlen⟩ := mapBegin_last (s := { s with
      mgt := m, sec := { s.sec with mapWait := [((takeSource e s).1, e)] }, rel := { s.rel with reqs := s.rel.reqs ++ [keyedReq e] } })
      (l := s.rel.reqs) rfl
    refine ⟨_, (takeSource e s).1, l, { keyedReq e with begun := b, result := x, beyond := y },
      congrArg Host.Outcome.next (keyed_of_passesAll hpass), ?_⟩
    rw [hm, mapoutCmd_go (s := { s with mgt := m }) _ hup]
    have hself : Keeps [.out, .regs, .blk, .crm, .hbm, .cw, .lpc, .rel, .lnk, .mgt, .sec, .sys] s s := .refl
    exact ⟨(mapEnqueue_keeps ..).1 .sec (by decide), hlast, hlen, rfl, rfl, rfl, rfl, rfl,
      (((hself.set_mgt m).set_sec _).step (mapEnqueue_keeps ..)).1⟩
  case undo =>
    intro s e hpass hentry
    obtain ⟨m, hm⟩ := takeSource_state e s
    refine ⟨_, congrArg Host.Outcome.next (keyed_of_passesAll hpass), ?_⟩
    rw [hm, undoMapout_go (s := { s with mgt := m }) _ hentry]
    exact ownerDone_setting ..
  case time =>
    intro s e hpass
    obtain ⟨m, hm⟩ := takeSource_state e s
    refine ⟨_, congrArg Host.Outcome.next (keyed_of_passesAll hpass), ?_⟩
    rw [hm]
    exact ownerDone_setting ..

end Sys2Proof.Machine
end

section
/-! SUPPORT. The running state from the owner's hand, and the journal (R362, R364, R385, R386). -/

namespace Sys2Proof.Machine

/-! ### An answer leaves the stacks in their states, and the sequencer as it is -/

/-- Of the stacks nothing has changed but whether an access has come. -/
structure TrackedOnly (s t : State) : Prop where
  stack : ∀ n, getHbm t n = { getHbm s n with tracked := (getHbm t n).tracked }

theorem TrackedOnly.of_hbm {s t : State} (h : t.hbm = s.hbm) : TrackedOnly s t := ⟨fun n => by rw [getHbm, getHbm, h]⟩

theorem TrackedOnly.of_keeps {s t : State} {ps : List Part} (k : Keeps ps s t) (h : .hbm ∉ ps := by decide) : TrackedOnly s t :=
  .of_hbm (k.1 .hbm h)

theorem TrackedOnly.trans {s t u : State} (h : TrackedOnly s t) (k : TrackedOnly t u) : TrackedOnly s u :=
  ⟨fun n => by rw [k.stack, h.stack]⟩

theorem hbmMove_trackedOnly (cls line : Nat) (write : Bool) (n : Nat) (s : State) : TrackedOnly s (hbmMove cls line write n s) := by
  have hmark (k : Nat) : TrackedOnly s (if (getHbm s k).tracked then s else setHbm k { getHbm s k with tracked := true } s) := by
    split
    · exact .of_hbm rfl
    · refine ⟨fun m => ?_⟩
      rw [getHbm_setHbm]
      split
      next h => rw [h]
      next => rfl
  unfold hbmMove
  exact (hmark _).trans ((TrackedOnly.of_keeps (bump_keeps ..)).trans (.of_keeps (addAct_keeps ..)))

theorem cacheTouch_write_trackedOnly (cls line n : Nat) (s : State) : TrackedOnly s (cacheTouch cls line true n s) := by
  unfold cacheTouch
  extract_lets sl s0 fetch key ws h plain keep page put
  have hs0 : TrackedOnly s s0 := (hbmMove_trackedOnly ..).trans (.of_keeps (addAct_keeps ..))
  have hput (x : List Way) {t : State} (ht : TrackedOnly s t) : TrackedOnly s (put x t) := ht.trans (.of_hbm rfl)
  have hbump (i k : Nat) {t : State} (ht : TrackedOnly s t) : TrackedOnly s (bump page 0 i k t) := ht.trans (.of_keeps (bump_keeps ..))
  have hprune {t : State} (ht : TrackedOnly s t) : TrackedOnly s (pruneCw t) := ht.trans (.of_keeps (pruneCw_keeps ..))
  have hite {c : Prop} [Decidable c] {t u : State} (ht : TrackedOnly s t) (hu : TrackedOnly s u) :
      TrackedOnly s (if c then t else u) := by split <;> assumption
  refine hite hs0 ?_
  split
  · exact hite (hput _ (hbump _ _ hs0)) (hite (hput _ (hbump _ _ hs0))
      (hite (hprune (hput _ (hbump _ _ (hbump _ _ hs0)))) (hbump _ _ hs0)))
  · have h2 := hbump 4 1 (hbump 3 1 hs0)
    exact hite (hprune (hput _ (hite (hbump 6 1 (hite (hbump 5 1 h2) h2)) (hite (hbump 5 1 h2) h2)))) (hbump _ _ hs0)

theorem writeRun_trackedOnly (cls : Nat) (self : Option (Nat × Nat)) (a : Nat) (bs : List Byte) (s : State) :
    TrackedOnly s (writeRun cls self a bs s) := by
  unfold writeRun
  split
  · exact .of_hbm rfl
  · refine TrackedOnly.trans ?_ (.of_keeps (landRun_keeps ..))
    split
    · exact cacheTouch_write_trackedOnly ..
    · exact (TrackedOnly.of_keeps (bump_keeps ..)).trans (.of_keeps (addAct_keeps ..))
    · split
      · exact .of_hbm rfl
      · exact .of_keeps (bump_keeps ..)
    · exact .of_hbm rfl

theorem wrBytes_trackedOnly (cls a : Nat) (bs : List Byte) (s : State) : TrackedOnly s (wrBytes cls a bs s) := by
  have hfold (l : List (Nat × List Byte)) (u : State) : TrackedOnly u (l.foldl (fun u w => writeRun cls none w.1 w.2 u) u) := by
    induction l generalizing u with
    | nil => exact .of_hbm rfl
    | cons w l ih => exact (writeRun_trackedOnly ..).trans (ih _)
  exact hfold ..

/-- What an answer, wherever it goes, leaves: the sequencer, the phase, the ports, the meter and the stacks' states. -/
structure Unanswered (s t : State) : Prop where
  rel : t.rel = s.rel
  sys : t.sys = s.sys
  lnk : t.lnk = s.lnk
  mtr : t.mtr = s.mtr
  hbm : TrackedOnly s t

theorem Unanswered.of_keeps {s t : State} {ps : List Part} (k : Keeps ps s t)
    (h : .rel ∉ ps ∧ .sys ∉ ps ∧ .lnk ∉ ps ∧ .mtr ∉ ps ∧ .hbm ∉ ps := by decide) : Unanswered s t := by
  obtain ⟨h1, h2, h3, h4, h5⟩ := h
  exact ⟨k.1 .rel h1, k.1 .sys h2, k.1 .lnk h3, k.1 .mtr h4, .of_keeps k h5⟩

theorem Unanswered.trans {s t u : State} (h : Unanswered s t) (k : Unanswered t u) : Unanswered s u :=
  ⟨k.rel.trans h.rel, k.sys.trans h.sys, k.lnk.trans h.lnk, k.mtr.trans h.mtr, h.hbm.trans k.hbm⟩

theorem Unanswered.set_sec (s : State) (x : Sec) : Unanswered s { s with sec := x } := ⟨rfl, rfl, rfl, rfl, .of_hbm rfl⟩

theorem doorAnswer_unanswered (a : Nat) (bs : List Byte) (s : State) : Unanswered s (doorAnswer a bs s) := by
  have hwrite : Unanswered s (wrBytes 2 a bs s) := by
    have k := wrBytes_counts 2 a bs s
    exact ⟨k.1 .rel (by decide), k.1 .sys (by decide), k.1 .lnk (by decide), k.1 .mtr (by decide), wrBytes_trackedOnly ..⟩
  unfold doorAnswer
  dsimp only
  split
  · exact .set_sec ..
  · split
    · exact hwrite.trans (.set_sec ..)
    · exact .set_sec ..

theorem sendResponse_unanswered (src : CmdSrc) (bs : List Byte) (s : State) : Unanswered s (sendResponse src bs s) := by
  cases src with
  | door a => exact doorAnswer_unanswered ..
  | mgt r => exact .of_keeps (sendMgt_keeps ..)
  | direct => exact .of_keeps (emit_keeps ..)

theorem ownerDone_unanswered (e : Envelope) (src : CmdSrc) (n : Nat) (s : State) : Unanswered s (ownerDone e src n s) := by
  unfold ownerDone acceptCmd answerOrHold
  dsimp only
  refine Unanswered.trans ?_ (.of_keeps (journal_keeps ..))
  split
  · exact .set_sec ..
  · exact (Unanswered.set_sec ..).trans (sendResponse_unanswered ..)

/-! ### A warm restart (R364) -/

theorem getSlot_closeJob (s : State) (i j : Nat) :
    getSlot (closeJob s i) j = if j = i ∧ (getSlot s i).active = true then
      { getSlot s i with w0 := setFld (getSlot s i).w0 16 16 0, active := false, closing := true, mapReq := false } else getSlot s j := by
  unfold closeJob
  dsimp only
  by_cases h : (getSlot s i).active = true
  · rw [if_pos h]
    refine (mget_mput ..).trans ?_
    by_cases hj : j = i
    · rw [if_pos hj, if_pos ⟨hj, h⟩]
    · rw [if_neg hj, if_neg (fun hc => hj hc.1)]
      rfl
  · rw [if_neg h, if_neg (fun hc => h hc.2)]

/-- Closing the jobs of a list of slots closes each of them, and opens none. -/
theorem closeJobs_closed (l : List Nat) (s : State) (i : Nat) (hi : i ∈ l ∧ (getSlot s i).active = true ∨
    (getSlot s i).active = false ∧ (getSlot s i).closing = true) :
    (getSlot (l.foldl closeJob s) i).active = false ∧ (getSlot (l.foldl closeJob s) i).closing = true := by
  induction l generalizing s with
  | nil => exact hi.resolve_left (by simp)
  | cons k l ih =>
    refine ih _ ?_
    rw [getSlot_closeJob]
    obtain ⟨hmem, hact⟩ | hclosed := hi
    · by_cases hk : i = k
      · subst hk
        simp [hact]
      · exact .inl ⟨(List.mem_cons.mp hmem).resolve_left hk, by simp [hk, hact]⟩
    · refine .inr ?_
      by_cases hk : i = k
      · subst hk
        simp [hclosed]
      · simp [hk, hclosed]

theorem autoneg_irqOnly (p : Nat) (s : State) : IrqOnly s (autoneg p s) := by
  unfold autoneg
  split
  · exact .of_eq rfl
  · exact .refl

theorem startTraining_irqOnly (p : Nat) (s : State) : IrqOnly s (startTraining p s) := by
  unfold startTraining
  split
  · exact .refl
  · have hstate : IrqOnly s (portState p (if portEth s p then 2 else 1) false
        (setPort p { getPort s p with mirrored := false, reversed := false, echoes := [] } s)) := (portState_irqOnly ..).of_sys rfl
    exact hstate.trans (autoneg_irqOnly ..)

theorem restartPorts_irqOnly (l : List Nat) (s : State) : IrqOnly s (l.foldl restartPort s) := by
  induction l generalizing s with
  | nil => exact .refl
  | cons p l ih =>
    refine IrqOnly.trans ?_ (ih _)
    unfold restartPort
    dsimp only
    split
    · exact startTraining_irqOnly ..
    · exact .refl

/-- The cores that are not mapped out. -/
def allCores (s : State) : Nat := (((List.range 16).filter (fun i => !s.sys.coresOut.testBit i)).map (2 ^ ·)).sum

/-- Out of fail-quiet and into phase UPPER, before jobs close and ports retrain. -/
def restarted (s : State) : State :=
  { s with
    rel := { s.rel with fqActive := false, kickTick := s.tck.num },
    hbm := mmap (fun _ h => { h with held := false }) s.hbm,
    sys := { s.sys with phase := 6, upperOk := false, cores := allCores s } }

theorem warmRestart_eq (s : State) : warmRestart s =
    (List.range 16).foldl restartPort ((List.range 32).foldl closeJob (setReg 0 0x210 (word (allCores s)) (restarted s))) := rfl

/-- What a warm restart leaves. -/
theorem warmRestart_spec (s : State) :
    (warmRestart s).rel.fqActive = false ∧ (warmRestart s).sys.phase = 6 ∧ (warmRestart s).sys.cores = allCores s ∧
      (∀ i < 32, (getSlot s i).active = true → (getSlot (warmRestart s) i).active = false ∧ (getSlot (warmRestart s) i).closing = true) ∧
      ∀ n, (getHbm (warmRestart s) n).held = false ∧ (getHbm (warmRestart s) n).state = (getHbm s n).state := by
  obtain ⟨u, hu⟩ : ∃ u, u = setReg 0 0x210 (word (allCores s)) (restarted s) := ⟨_, rfl⟩
  have hset : Keeps [.regs] (restarted s) u := hu ▸ setReg_keeps ..
  have hjobs : Keeps [.tck] u ((List.range 32).foldl closeJob u) := Keeps.foldl .refl fun _ _ h => h.step (closeJob_keeps ..)
  have hports : Keeps [.out, .regs, .lnk, .sys] ((List.range 32).foldl closeJob u)
      ((List.range 16).foldl restartPort ((List.range 32).foldl closeJob u)) :=
    Keeps.foldl .refl fun _ _ h => h.step (restartPort_keeps ..)
  have hsys := restartPorts_irqOnly (List.range 16) ((List.range 32).foldl closeJob u)
  have hsame : ((List.range 32).foldl closeJob u).sys = (restarted s).sys := (hjobs.1 .sys (by decide)).trans (hset.1 .sys (by decide))
  unfold IrqOnly at hsys
  rw [hsame] at hsys
  rw [warmRestart_eq, ← hu]
  refine ⟨?_, ?_, ?_, fun i hi hact => ?_, fun n => ?_⟩
  · rw [hports.1 .rel (by decide), hjobs.1 .rel (by decide), hset.1 .rel (by decide)]
    rfl
  · rw [hsys]
    rfl
  · rw [hsys]
    rfl
  · unfold getSlot
    rw [hports.1 .tck (by decide)]
    refine closeJobs_closed (List.range 32) u i (.inl ⟨List.mem_range.mpr hi, ?_⟩)
    unfold getSlot
    rw [hset.1 .tck (by decide)]
    exact hact
  · unfold getHbm
    rw [hports.1 .hbm (by decide), hjobs.1 .hbm (by decide), hset.1 .hbm (by decide)]
    show (mget (mmap (fun _ h => { h with held := false }) s.hbm) n {}).held = false ∧
      (mget (mmap (fun _ h => { h with held := false }) s.hbm) n {}).state = _
    unfold mget
    rw [mget_mmap]
    cases mfind s.hbm n <;> exact ⟨rfl, rfl⟩

/-! ### The journal and the end of a compaction (R385, R386) -/

theorem journal_replay {s : State} (n : Nat) (hc : s.sec.compacting = false) (hw : storeWhole s.sec) :
    storeWhole (journal n s).sec ∧ replay (journal n s).sec = (storeOf s, false) := by
  obtain ⟨hwhole, hreplay⟩ := storeWhole_appendRec (r := { value := storeOf s, bytes := n + Config.journalBytes }) hw ⟨rfl, rfl, rfl⟩
  have hsame : storeHalves (journal n s).sec = storeHalves (appendRec { value := storeOf s, bytes := n + Config.journalBytes } s.sec) := by
    unfold journal
    dsimp only
    rw [if_neg (by simp [hc])]
    rfl
  obtain ⟨hw', hr'⟩ := storeHalves_congr hsame
  exact ⟨hw'.mpr hwhole, hr'.trans hreplay⟩

theorem journal_held {s : State} (n : Nat) (hc : s.sec.compacting = true) : replay (journal n s).sec = replay s.sec := by
  refine (storeHalves_congr ?_).2
  unfold journal
  dsimp only
  rw [if_pos hc]
  rfl

/-- Replay goes through whole records, and stops at the first other one. -/
theorem replayRecs_stop {r : JRec} {more : List JRec} (hr : ¬ r.whole) (v : Store) (rs : List JRec) (h : ∀ x ∈ rs, x.whole) :
    replayRecs v (rs ++ r :: more) =
      (((rs.getLast?).map (·.value)).getD v, decide (r.committed = true ∧ r.crcOk = true)) := by
  induction rs generalizing v with
  | nil =>
    unfold JRec.whole at hr
    by_cases hc : r.committed = false ∨ r.crcOk = false
    · have hd : ¬ (r.committed = true ∧ r.crcOk = true) := by
        rintro ⟨h1, h2⟩
        simp [h1, h2] at hc
      simp [replayRecs, hc, hd]
    · have hboth : r.committed = true ∧ r.crcOk = true := by simpa using hc
      have hm : r.macOk = false := by simpa [hboth] using hr
      simp [replayRecs, hboth, hm]
  | cons x rs ih =>
    obtain ⟨hc, hk, hm⟩ := h x (by simp)
    simp only [List.cons_append, replayRecs, hc, hk, hm, Bool.true_eq_false, or_self, if_false]
    rw [ih _ (fun y hy => h y (by simp [hy]))]
    cases rs with
    | nil => simp
    | cons y ys =>
      rw [List.getLast?_cons_cons, List.getLast?_eq_some_getLast (List.cons_ne_nil y ys)]
      rfl

theorem sendResponses_sec (l : List (CmdSrc × List Byte)) (s : State) :
    let t := l.foldl (fun u w => sendResponse w.1 w.2 u) s
    t.sec = { s.sec with door := t.sec.door, doorResp := t.sec.doorResp, done := t.sec.done, status := t.sec.status } := by
  have hsend (src : CmdSrc) (bs : List Byte) (u : State) : (sendResponse src bs u).sec = { u.sec with
      door := (sendResponse src bs u).sec.door, doorResp := (sendResponse src bs u).sec.doorResp,
      done := (sendResponse src bs u).sec.done, status := (sendResponse src bs u).sec.status } := by
    cases src with
    | door a =>
      have hwrite : (wrBytes 2 a bs u).sec = u.sec := (wrBytes_keeps ..).1 .sec (by decide)
      unfold sendResponse doorAnswer
      dsimp only
      split
      · rfl
      · split
        · rw [hwrite]
        · rfl
    | mgt r => rw [show (sendResponse (.mgt r) bs u).sec = u.sec from (sendMgt_keeps ..).1 .sec (by decide)]
    | direct => rw [show (sendResponse .direct bs u).sec = u.sec from (emit_keeps ..).1 .sec (by decide)]
  induction l generalizing s with
  | nil => rfl
  | cons w l ih =>
    have h := ih (sendResponse w.1 w.2 s)
    dsimp only [List.foldl_cons] at h ⊢
    rw [h, hsend]

/-- The state that a compaction's end leaves before the responses that waited go out. -/
def compacted (s : State) : State :=
  let r := draw s
  let x := r.2.sec
  { r.2 with
    sec := { newHalf (if (replay x).1 = storeOf s then [] else [{ value := storeOf s, bytes := x.heldBytes }]) x with
             half := !x.half, gen := x.gen + 1, used := Config.choose r.1 + x.heldBytes, compacting := false,
             heldBytes := 0, waiting := [] } }

theorem compactEffect_go {s : State} (h : s.sec.compacting = true) :
    compactEffect s = s.sec.waiting.foldl (fun u w => sendResponse w.1 w.2 u) (compacted s) := if_neg (by simp [h])

theorem newHalf_others (recs : List JRec) (x : Sec) :
    newHalf recs x = { x with halfA := (newHalf recs x).halfA, halfB := (newHalf recs x).halfB } := by
  unfold newHalf
  dsimp only
  split <;> rfl

theorem compacted_store {s : State} (h : storeWhole s.sec) :
    storeWhole (compacted s).sec ∧ replay (compacted s).sec = (storeOf s, false) := by
  by_cases hsame : (replay s.sec).1 = storeOf s
  · obtain ⟨hw, hr⟩ := storeWhole_of_newHalf (y := (compacted s).sec) (recs := []) h (fun _ hr => absurd hr List.not_mem_nil) rfl rfl
      (by unfold compacted; exact congrArg (fun l => (newHalf l s.sec).halfA) (if_pos hsame))
      (by unfold compacted; exact congrArg (fun l => (newHalf l s.sec).halfB) (if_pos hsame))
    exact ⟨hw, by rw [hr, hsame]; rfl⟩
  · obtain ⟨hw, hr⟩ := storeWhole_of_newHalf (y := (compacted s).sec) (recs := [{ value := storeOf s, bytes := s.sec.heldBytes }]) h
      (fun r hr => List.mem_singleton.mp hr ▸ ⟨rfl, rfl, rfl⟩) rfl rfl
      (by unfold compacted; exact congrArg (fun l => (newHalf l s.sec).halfA) (if_neg hsame))
      (by unfold compacted; exact congrArg (fun l => (newHalf l s.sec).halfB) (if_neg hsame))
    exact ⟨hw, hr.trans rfl⟩

/-- Settles O57: a warm restart or the sequencer's start, then the answer; every journal record makes replay give the store. -/
theorem restartQuietAndCompaction : Obligations.RestartQuietAndCompaction := by
  unfold Obligations.RestartQuietAndCompaction
  refine ⟨?warm, ?quiet, ?noQuiet, ?append, ?held, ?stop, ?compact, ?idle⟩
  case warm =>
    intro s e hpass hok
    obtain ⟨m, hm⟩ := takeSource_state e s
    refine ⟨_, congrArg Host.Outcome.next (keyed_of_passesAll hpass), ?_⟩
    have hself : Keeps [.out, .regs, .cnt, .mem, .poison, .epochs, .tasks, .prov, .tck, .crm, .hbm, .ecc, .cw, .ls, .ldl, .rel, .act,
      .lnk, .mgt, .sec, .sys, .free] s { s with mgt := m } := Keeps.refl.set_mgt m
    have hgo : warmCmd e (takeSource e s).1 { s with mgt := m } =
        ownerDone e (takeSource e s).1 0 (warmRestart { s with mgt := m }) := if_neg (by simp [show warmOk { s with mgt := m } = true from hok])
    rw [hm, hgo]
    obtain ⟨hfq, hphase, hcores, hslots, hhbm⟩ := warmRestart_spec { s with mgt := m }
    have hdone := ownerDone_unanswered e (takeSource e s).1 0 (warmRestart { s with mgt := m })
    have hcarried := ownerDone_carriedOut e (takeSource e s).1 0 (warmRestart { s with mgt := m })
    rw [show (warmRestart { s with mgt := m }).sec = s.sec from (warmRestart_keeps ..).1 .sec (by decide)] at hcarried
    refine ⟨hcarried, ?_, ?_, ?_, fun i hi hact => ?_, fun n => ?_, ((hself.step (warmRestart_keeps ..)).step (ownerDone_keeps ..)).1⟩
    · rw [hdone.rel, hfq]
    · rw [hdone.sys, hphase]
    · rw [hdone.sys, hcores]
      rfl
    · unfold getSlot
      rw [(ownerDone_keeps ..).1 .tck (by decide)]
      exact hslots i hi hact
    · rw [hdone.hbm.stack]
      exact hhbm n
  case quiet =>
    intro s e hpass hrel hq
    obtain ⟨m, hm⟩ := takeSource_state e s
    refine ⟨_, congrArg Host.Outcome.next (keyed_of_passesAll hpass), ?_⟩
    rw [hm]
    have hself : Keeps [.out, .regs, .cnt, .mem, .poison, .epochs, .tasks, .prov, .crm, .hbm, .ecc, .cw, .ls, .ldl, .rel, .act,
      .lnk, .mtr, .mgt, .sec, .sys, .free] s { s with mgt := m } := Keeps.refl.set_mgt m
    obtain ⟨u, hu⟩ : ∃ u, u = failQuiet 5 0x10 5 cblPage e.counter.toNat { s with mgt := m } := ⟨_, rfl⟩
    obtain ⟨hact, hcause, -, hfault, hphase, hports, hstacks, hruns, -⟩ :=
      failQuiet_quietNow (s := { s with mgt := m }) 5 0x10 5 cblPage e.counter.toNat hrel hq
    have hdone := ownerDone_unanswered e (takeSource e s).1 0 u
    have hcarried := ownerDone_carriedOut e (takeSource e s).1 0 u
    have hkept : Keeps [.out, .regs, .cnt, .mem, .hbm, .rel, .act, .lnk, .mtr, .sys, .free] { s with mgt := m } u := hu ▸ failQuiet_keeps ..
    rw [show u.sec = s.sec from hkept.1 .sec (by decide)] at hcarried
    unfold failQuietCmd
    rw [← hu] at hact hcause hfault hphase hports hstacks hruns ⊢
    refine ⟨hcarried, ?_, ?_, ?_, ?_, fun p hp => ?_, fun n hn => ?_, ?_, ((hself.step hkept).step (ownerDone_keeps ..)).1⟩
    · rw [hdone.rel, hact]
    · rw [hdone.rel, hcause]
    · rw [hdone.sys, hfault]
    · rw [hdone.sys, hphase]
    · unfold getPort
      rw [hdone.lnk]
      exact hports p hp
    · rw [hdone.hbm.stack]
      exact hstacks n hn
    · rw [hdone.mtr, hruns]
  case noQuiet =>
    intro s e hpass hno
    obtain ⟨m, hm⟩ := takeSource_state e s
    refine ⟨_, congrArg Host.Outcome.next (keyed_of_passesAll hpass), ?_⟩
    rw [hm]
    have hstays : failQuiet 5 0x10 5 cblPage e.counter.toNat { s with mgt := m } = { s with mgt := m } := if_pos hno.symm
    unfold failQuietCmd
    rw [hstays]
    exact (ownerDone_setting s e m 0 s.sec).symm
  case append => exact fun s n hc hw => journal_replay n hc hw
  case held => exact fun s n hc => journal_held n hc
  case stop =>
    intro v rs r more hrs
    refine ⟨fun hbad => ?_, fun hcommitted hcrc hmac => ?_⟩
    · have hstop : ¬ (r.committed = true ∧ r.crcOk = true) := by
        rintro ⟨h1, h2⟩
        simp [h1, h2] at hbad
      rw [replayRecs_stop (fun hw => hstop ⟨hw.1, hw.2.1⟩) v rs hrs, decide_eq_false hstop]
    · rw [replayRecs_stop (fun hw => Bool.false_ne_true (hmac.symm.trans hw.2.2)) v rs hrs, decide_eq_true ⟨hcommitted, hcrc⟩]
  case compact =>
    intro s hc hw
    have hsec := sendResponses_sec s.sec.waiting (compacted s)
    dsimp only at hsec
    rw [← compactEffect_go hc] at hsec
    obtain ⟨hstore, hreplay⟩ := compacted_store hw
    obtain ⟨hsame, hrsame⟩ := storeHalves_congr (x := (compacted s).sec) (y := (compactEffect s).sec) (by rw [hsec]; rfl)
    have hold : (compacted s).sec.ock = s.sec.ock ∧ (compacted s).sec.counter = s.sec.counter := by
      unfold compacted
      dsimp only
      rw [newHalf_others]
      exact ⟨rfl, rfl⟩
    refine ⟨_, rfl, ?_, ?_, ?_, ?_, ?_, ?_, ?_, hsame.mpr hstore, hrsame.trans hreplay, (compactEffect_keeps s).1⟩
    · rw [hsec]; rfl
    · rw [hsec]; rfl
    · rw [hsec]; rfl
    · rw [hsec]; rfl
    · rw [hsec]; rfl
    · rw [hsec]; exact hold.1
    · rw [hsec]; exact hold.2
  case idle => exact fun s hc => congrArg Host.Outcome.next (if_pos hc)

end Sys2Proof.Machine
end

section
/-! SUPPORT. SPDM (R373, R374): what a response leaves on the ports and in the transcript. -/

namespace Sys2Proof.Machine

/-! ### The response -/

theorem foldl_emit_out (f : Nat → Out) (l : List Nat) (s : State) :
    (l.foldl (fun u i => emit (f i) u) s).out = s.out ++ l.map f := by
  induction l generalizing s with
  | nil => simp
  | cons i l ih =>
    rw [List.foldl_cons, ih]
    simp [emit]

/-- A message goes out in its fragments. -/
theorem sendMgt_message (port : Nat) (dst : BitVec 48) (chan msg status : Nat) (data : List Byte) (s : State) :
    (sendMgt port dst chan msg status data s).out = s.out ++ mgtMessage port dst chan msg status data := by
  have hcounted : (bump mgtPage 0 4 1 (bump mgtPage 0 (2 + port) (max 1 (cdiv data.length 1484)) s)).out = s.out :=
    ((bump_keeps ..).1 .out (by decide)).trans ((bump_keeps ..).1 .out (by decide))
  unfold sendMgt mgtMessage
  exact (foldl_emit_out ..).trans (by rw [hcounted]; rfl)

/-- The response to an SPDM request goes where the request came from, and changes nothing else. -/
theorem spdmSend_answers {s u : State} {x : Sec} (src : Nat) (req resp : List Byte) (hout : u.out = s.out) (hmgt : u.mgt = s.mgt)
    (hsec : u.sec = x) (hu : Keeps [.sec, .free] s u) : spdmAnswers s (spdmSend src req resp u) src req resp x := by
  have hself : Keeps [.out, .cnt, .mgt, .sec, .free] s u := hu.mono (by decide)
  unfold spdmAnswers spdmSend spdmOut
  rw [hmgt]
  cases mget s.mgt.held 1 [] with
  | nil => exact ⟨by rw [← hout]; rfl, hsec, (hself.step (emit_keeps ..)).1⟩
  | cons r rs =>
    dsimp only [List.head?_cons]
    split
    next =>
      refine ⟨?_, ((sendMgt_keeps ..).1 .sec (by decide)).trans hsec, ((hself.set_mgt _).step (sendMgt_keeps ..)).1⟩
      rw [sendMgt_message, ← hout]
    next => exact ⟨by rw [← hout]; rfl, hsec, (hself.step (emit_keeps ..)).1⟩

theorem spdmSend_same (s : State) (src : Nat) (req resp : List Byte) :
    spdmAnswers s (spdmSend src req resp s) src req resp s.sec := spdmSend_answers src req resp rfl rfl rfl .refl

/-- The exchange joins the transcript. -/
theorem spdmSend_kept (s : State) (src st : Nat) (req resp : List Byte) :
    spdmAnswers s (spdmSend src req resp (spdmKeep st req resp s)) src req resp
      { s.sec with spdm := s.sec.spdm ++ req ++ resp, spdmState := st } :=
  spdmSend_answers src req resp rfl rfl rfl (Keeps.refl.set_sec _)

/-- A request that is taken is answered by its row. -/
theorem spdmRow_takes {s : State} {req : List Byte} {code need : Nat} (h : spdmTakes s req code need) (src : Nat)
    (k : State → List Byte × State) : spdmRow code need src req k s = spdmSend src req (k s).1 (k s).2 := by
  obtain ⟨hrel, hphase, hcode, hver, hstate⟩ := h
  have hgo : ¬ (s.sys.released = false ∨ s.sys.phase = 14 ∨
      ((req.getD 1 0).toNat ≠ code ∧ (req.getD 1 0).toNat ∈ [0x84, 0xE1, 0xE3, 0x81, 0x82, 0x83, 0xE0])) := by
    rw [hrel]
    exact fun hn => hn.elim nofun fun hn => hn.elim hphase fun hn => hn.1 hcode
  exact (if_neg hgo).trans <| (if_neg (not_not_intro hcode)).trans <| (if_neg (not_not_intro hver)).trans
    (if_neg (Nat.not_lt.mpr hstate))

/-- The second byte of a number: bits of its low byte are bits of the number. -/
theorem leNat_take_bit (bs : List Byte) (a n i : Nat) (hi : i < 8) :
    leNat ((bs.drop a).take (n + 1)) / 2 ^ i % 2 = (bs.getD a 0).toNat / 2 ^ i % 2 := by
  have hcons : leNat ((bs.drop a).take (n + 1)) % 256 = (bs.getD a 0).toNat := by
    cases h : bs.drop a with
    | nil =>
      have hlen := List.drop_eq_nil_iff.mp h
      rw [List.getD_eq_default _ _ hlen]
      rfl
    | cons b rest =>
      have hb : bs.getD a 0 = b := by
        have hhead := congrArg List.head? h
        rw [List.head?_drop] at hhead
        simp [hhead]
      rw [hb, List.take_succ_cons, leNat]
      have := b.isLt
      omega
  rw [← hcons]
  interval_cases i <;> omega

theorem length_spdmFree (k n : Nat) (x : List Byte) : (spdmFree k n x).length = n := by
  unfold spdmFree
  simp

theorem spdmRow_refused {s : State} {src : Fin 2} {req : List Byte} (code need : Nat) (k : State → List Byte × State)
    (hcode : code ∈ [0x84, 0xE1, 0xE3, 0x81, 0x82, 0x83, 0xE0]) (hrel : s.sys.released = true) (hphase : s.sys.phase ≠ 14) :
    ((req.getD 1 0).toNat ∉ [0x84, 0xE1, 0xE3, 0x81, 0x82, 0x83, 0xE0] →
      spdmRow code need src.val req k s = spdmSend src.val req (spdmError 7) s) ∧
    ((req.getD 1 0).toNat = code → (req.getD 0 0).toNat ≠ (if code = 0x84 then 0x10 else 0x13) →
      spdmRow code need src.val req k s = spdmSend src.val req (spdmError 0x41) s) ∧
    ((req.getD 1 0).toNat = code → (req.getD 0 0).toNat = (if code = 0x84 then 0x10 else 0x13) → s.sec.spdmState < need →
      spdmRow code need src.val req k s = spdmSend src.val req (spdmError 4) s) := by
  have hgo (hother : ¬ ((req.getD 1 0).toNat ≠ code ∧ (req.getD 1 0).toNat ∈ [0x84, 0xE1, 0xE3, 0x81, 0x82, 0x83, 0xE0])) :
      ¬ (s.sys.released = false ∨ s.sys.phase = 14 ∨
        ((req.getD 1 0).toNat ≠ code ∧ (req.getD 1 0).toNat ∈ [0x84, 0xE1, 0xE3, 0x81, 0x82, 0x83, 0xE0])) := by
    rw [hrel]
    exact fun hn => hn.elim nofun fun hn => hn.elim hphase hother
  refine ⟨fun hno => ?_, fun hc hv => ?_, fun hc hv hs => ?_⟩
  · exact (if_neg (hgo fun hn => hno hn.2)).trans (if_pos fun h : (req.getD 1 0).toNat = code => hno (h ▸ hcode))
  · exact (if_neg (hgo fun hn => hn.1 hc)).trans <| (if_neg (not_not_intro hc)).trans (if_pos hv)
  · exact (if_neg (hgo fun hn => hn.1 hc)).trans <| (if_neg (not_not_intro hc)).trans <|
      (if_neg (not_not_intro hv)).trans (if_pos hs)

/-- Each of the seven requests is a row under its code. -/
theorem exec_spdmRequest {src : Fin 2} {req : List Byte} {x : Instr × Nat × Nat} (hx : x ∈ spdmRequests src req) (s : State) :
    ∃ k, x.2.1 ∈ [0x84, 0xE1, 0xE3, 0x81, 0x82, 0x83, 0xE0] ∧ exec x.1 s = .next (spdmRow x.2.1 x.2.2 src.val req k s) := by
  simp only [spdmRequests, List.mem_cons, List.not_mem_nil, or_false] at hx
  obtain rfl | rfl | rfl | rfl | rfl | rfl | rfl := hx <;> exact ⟨_, by simp, rfl⟩

/-! ### The rows -/

/-- CAPABILITIES. -/
def capsResp : List Byte :=
  [0x13#8, 0x61#8, 0#8, 0#8, 0#8] ++ spdmFree 0 1 [] ++ [0#8, 0#8] ++ toLe 4 0x16 ++ spdmFree 1 8 []

theorem capsResp_form : capsResp.take 2 = [0x13#8, 0x61#8] ∧ capsResp.length = 20 ∧ (capsResp.drop 8).take 4 = toLe 4 0x16 := by
  obtain ⟨b, hb⟩ := List.length_eq_one_iff.mp (length_spdmFree 0 1 [])
  have h8 := length_spdmFree 1 8 []
  unfold capsResp
  rw [hb]
  exact ⟨rfl, by simp [h8], rfl⟩

/-- ALGORITHMS. -/
def algosResp : List Byte :=
  [0x13#8, 0x63#8, 0#8, 0#8] ++ toLe 2 36 ++ [1#8, 0#8] ++ toLe 4 2 ++ toLe 4 8 ++ toLe 4 1 ++ toLe 16 0

theorem spdmAlgos_cases (req : List Byte) (s : State) :
    let offers := (req.getD 6 0).toNat % 2 = 1 ∧ (req.getD 8 0).toNat / 8 % 2 = 1 ∧ (req.getD 12 0).toNat % 2 = 1
    (offers → spdmAlgos req s = (algosResp, spdmKeep 3 req algosResp s)) ∧ (¬ offers → spdmAlgos req s = (spdmError 1, s)) := by
  intro offers
  have h8 := leNat_take_bit req 8 3 3 (by decide)
  have h12 := leNat_take_bit req 12 3 0 (by decide)
  simp only [Nat.reducePow, Nat.reduceAdd, Nat.div_one] at h8 h12
  have hbits : ((req.getD 6 0).toNat % 2 = 0 ∨ leNat ((req.drop 8).take 4) / 8 % 2 = 0 ∨ leNat ((req.drop 12).take 4) % 2 = 0) ↔
      ¬ offers := by
    rw [h8, h12]
    simp only [offers]
    omega
  exact ⟨fun ho => if_neg fun hb => hbits.mp hb ho, fun ho => if_pos (hbits.mpr ho)⟩

/-- A portion of a certificate chain. -/
def certResp (req : List Byte) (s : State) : List Byte :=
  let c := chainOf s ((req.getD 2 0).toNat % 16)
  let off := leNat ((req.drop 4).take 2)
  let part := (c.drop off).take (min (leNat ((req.drop 6).take 2)) 65527)
  [0x13#8, 0x02#8, BitVec.ofNat 8 ((req.getD 2 0).toNat % 16), 0#8] ++ toLe 2 part.length ++ toLe 2 (c.length - off - part.length) ++ part

theorem spdmCert_go {req : List Byte} {s : State} (hslot : (req.getD 2 0).toNat % 16 ≤ 2)
    (hoff : leNat ((req.drop 4).take 2) < (chainOf s ((req.getD 2 0).toNat % 16)).length) :
    spdmCert req s = (certResp req s, spdmKeep 3 req (certResp req s) s) := if_neg (by omega)

theorem spdmCert_bad {req : List Byte} {s : State} (h : 3 ≤ (req.getD 2 0).toNat % 16 ∨
    (chainOf s ((req.getD 2 0).toNat % 16)).length ≤ leNat ((req.drop 4).take 2)) : spdmCert req s = (spdmError 1, s) :=
  if_pos (by omega)

/-- The response to CHALLENGE before its signature. -/
def challengeBody (req : List Byte) (s : State) : List Byte :=
  let sum := (req.getD 3 0).toNat
  let summary : List Byte := if sum = 0 then [] else Crypto.sha256 ((if sum = 1 then [2] else measFor s).flatMap (measBytes s))
  [0x13#8, 0x03#8, BitVec.ofNat 8 ((req.getD 2 0).toNat % 16), 7#8] ++ Crypto.sha256 (chainOf s ((req.getD 2 0).toNat % 16)) ++
    (nonce s).1 ++ summary ++ [0#8, 0#8] ++ (req.drop 36).take 8

/-- The transcript ends with a signature over it. -/
def transcriptEnded (s : State) : State := { (nonce s).2 with sec := { (nonce s).2.sec with spdm := [] } }

theorem spdmChallenge_go {req : List Byte} {s : State} (hslot : (req.getD 2 0).toNat % 16 ≤ 2) :
    spdmChallenge req s = (spdmSigned s req (challengeBody req s), transcriptEnded s) := if_neg (by omega)

theorem spdmChallenge_bad {req : List Byte} {s : State} (hslot : 3 ≤ (req.getD 2 0).toNat % 16) :
    spdmChallenge req s = (spdmError 1, s) := if_pos (by omega)

theorem spdmSend_ended (s : State) (src : Nat) (req resp : List Byte) :
    spdmAnswers s (spdmSend src req resp (transcriptEnded s)) src req resp { s.sec with spdm := [] } :=
  spdmSend_answers src req resp rfl rfl rfl ((Keeps.refl.set_free _).set_sec _)

/-- The blocks that GET_MEASUREMENTS asks for (R374). -/
def measAsked (req : List Byte) (s : State) : List Nat :=
  if (req.getD 3 0).toNat = 0 then [] else if (req.getD 3 0).toNat = 255 then measFor s else (measFor s).filter (· == (req.getD 3 0).toNat)

/-- The response to GET_MEASUREMENTS before its signature. -/
def measBody (req : List Byte) (s : State) : List Byte :=
  let recs := (measAsked req s).flatMap (measBytes s)
  [0x13#8, 0x60#8, BitVec.ofNat 8 (if (req.getD 3 0).toNat = 0 then (measFor s).length else 0), req.getD 36 0 &&& 15#8] ++
    [BitVec.ofNat 8 (measAsked req s).length] ++ toLe 3 recs.length ++ recs ++ (nonce s).1 ++ [0#8, 0#8] ++
    (if (req.getD 2 0).toNat % 2 = 1 then (req.drop 37).take 8 else (req.drop 4).take 8)

theorem spdmMeas_signed {req : List Byte} {s : State} (h : (req.getD 3 0).toNat = 0 ∨ measAsked req s ≠ [])
    (hsign : (req.getD 2 0).toNat % 2 = 1) : spdmMeas req s = (spdmSigned s req (measBody req s), transcriptEnded s) := by
  have hsome : ¬ ((req.getD 3 0).toNat ≠ 0 ∧ (measAsked req s).isEmpty = true) := fun hn =>
    h.elim hn.1 fun h => h (List.isEmpty_iff.mp hn.2)
  have hbit : ((req.getD 2 0).toNat % 2 == 1) = true := beq_iff_eq.mpr hsign
  refine (if_neg hsome).trans ?_
  unfold measBody
  rw [if_pos hsign, hbit]
  rfl

theorem spdmMeas_kept {req : List Byte} {s : State} (h : (req.getD 3 0).toNat = 0 ∨ measAsked req s ≠ [])
    (hsign : (req.getD 2 0).toNat % 2 = 0) :
    spdmMeas req s = (measBody req s, spdmKeep 3 req (measBody req s) (nonce s).2) := by
  have hsome : ¬ ((req.getD 3 0).toNat ≠ 0 ∧ (measAsked req s).isEmpty = true) := fun hn =>
    h.elim hn.1 fun h => h (List.isEmpty_iff.mp hn.2)
  have hbit : ((req.getD 2 0).toNat % 2 == 1) = false := by
    rw [hsign]
    rfl
  refine (if_neg hsome).trans ?_
  unfold measBody
  have hneg : ¬ (req.getD 2 0).toNat % 2 = 1 := by omega
  rw [if_neg hneg, hbit]
  rfl

theorem spdmMeas_none {req : List Byte} {s : State} (hop : (req.getD 3 0).toNat ≠ 0) (h : measAsked req s = []) :
    spdmMeas req s = (spdmError 1, s) := if_pos ⟨hop, List.isEmpty_iff.mpr h⟩

theorem spdmRow_answer {s u : State} {req resp : List Byte} {code need : Nat} (h : spdmTakes s req code need) (src : Fin 2)
    {k : State → List Byte × State} (hk : k s = (resp, u)) :
    (Host.Outcome.next (spdmRow code need src.val req k s) : Res) = .next (spdmSend src.val req resp u) := by
  rw [spdmRow_takes h, hk]

/-- Settles O59: a taken request is answered by its row, any other with ERROR. -/
theorem spdmRequestsAreAnswered : Obligations.SpdmRequestsAreAnswered := by
  unfold Obligations.SpdmRequestsAreAnswered
  refine ⟨?version, ?caps, ?algos, ?digests, ?cert, ?challenge, ?meas, ?refused⟩
  case version =>
    intro s src req h
    exact ⟨_, spdmRow_answer h src rfl, _, rfl, rfl, spdmSend_answers _ _ _ rfl rfl rfl (Keeps.refl.set_sec _)⟩
  case caps =>
    intro s src req h
    obtain ⟨hhead, hlen, hcaps⟩ := capsResp_form
    exact ⟨_, spdmRow_answer h src rfl, capsResp, hhead, hlen, hcaps, spdmSend_kept ..⟩
  case algos =>
    intro s src req h
    obtain ⟨hgo, hbad⟩ := spdmAlgos_cases req s
    refine ⟨fun ho => ?_, fun ho => ⟨_, spdmRow_answer h src (hbad ho), spdmSend_same ..⟩⟩
    exact ⟨_, spdmRow_answer h src (hgo ho), algosResp, rfl, rfl, rfl, spdmSend_kept ..⟩
  case digests =>
    intro s src req h
    exact ⟨_, spdmRow_answer h src rfl, _, rfl, by simp [List.range_succ], spdmSend_kept ..⟩
  case cert =>
    intro s src req h
    refine ⟨fun hslot hoff => ?_, fun hbad => ⟨_, spdmRow_answer h src (spdmCert_bad hbad), spdmSend_same ..⟩⟩
    exact ⟨_, spdmRow_answer h src (spdmCert_go hslot hoff), certResp req s, rfl, rfl, spdmSend_kept ..⟩
  case challenge =>
    intro s src req h
    refine ⟨fun hslot => ?_, fun hslot => ⟨_, spdmRow_answer h src (spdmChallenge_bad hslot), spdmSend_same ..⟩⟩
    refine ⟨_, spdmRow_answer h src (spdmChallenge_go hslot), challengeBody req s, rfl, ?_, spdmSend_ended ..⟩
    unfold challengeBody
    simp only [List.append_assoc]
    exact List.prefix_append ..
  case meas =>
    intro s src req h op ids
    refine ⟨fun hsome => ?_, fun hop hnone => ⟨_, spdmRow_answer h src (spdmMeas_none hop hnone), spdmSend_same ..⟩⟩
    obtain hsign | hsign : (req.getD 2 0).toNat % 2 = 1 ∨ (req.getD 2 0).toNat % 2 = 0 := by omega
    all_goals
      have hrecs : (measAsked req s).flatMap (measBytes s) <+: (measBody req s).drop 8 := by
        unfold measBody
        simp only [List.append_assoc]
        exact List.prefix_append ..
    · exact ⟨_, spdmRow_answer h src (spdmMeas_signed hsome hsign), measBody req s, rfl, rfl, rfl, hrecs,
        fun _ => spdmSend_ended .., fun h0 => by omega⟩
    · exact ⟨_, spdmRow_answer h src (spdmMeas_kept hsome hsign), measBody req s, rfl, rfl, rfl, hrecs, fun h1 => by omega,
        fun _ => spdmSend_answers _ _ _ rfl rfl rfl ((Keeps.refl.set_free _).set_sec _)⟩
  case refused =>
    intro s src req x hx hrel hphase
    obtain ⟨k, hcode, hexec⟩ := exec_spdmRequest hx s
    obtain ⟨h7, h41, h4⟩ := spdmRow_refused (src := src) (req := req) x.2.1 x.2.2 k hcode hrel hphase
    refine ⟨fun hno => ⟨_, hexec.trans (congrArg _ (h7 hno)), spdmSend_same ..⟩,
      fun hc hv => ⟨_, hexec.trans (congrArg _ (h41 hc hv)), spdmSend_same ..⟩,
      fun hc hv hs => ⟨_, hexec.trans (congrArg _ (h4 hc hv hs)), spdmSend_same ..⟩⟩

end Sys2Proof.Machine
end

section
/-! SUPPORT. The management ports and channels, the sideband pins and the SMBus (R404, R414 to R420). -/

namespace Sys2Proof.Machine

/-! ### Headers -/

theorem mgtHead_fields {chan msg status total off len : Nat} (hchan : chan < 256) (hmsg : msg < 65536) (hstatus : status < 256)
    (htotal : total < 65536) (hlen : off + len ≤ total) :
    let h := mgtHead chan msg status total off len
    fld h.1 7 0 = chan ∧ bit h.1 8 = true ∧ bit h.1 9 = decide (off = 0) ∧ bit h.1 10 = decide (off + len = total) ∧
      fld h.1 31 16 = msg ∧ fld h.1 47 32 = off ∧ fld h.1 63 48 = len ∧ fld h.2 15 0 = total ∧ fld h.2 23 16 = status := by
  obtain ⟨x, hx, hx1, hx0⟩ : ∃ x, x = b2n (decide (off = 0)) ∧ x ≤ 1 ∧ (x = 1 ↔ off = 0) := by
    refine ⟨_, rfl, ?_⟩
    by_cases h0 : off = 0 <;> simp [b2n, h0]
  obtain ⟨y, hy, hy1, hy0⟩ : ∃ y, y = b2n (decide (off + len = total)) ∧ y ≤ 1 ∧ (y = 1 ↔ off + len = total) := by
    refine ⟨_, rfl, ?_⟩
    by_cases h0 : off + len = total <;> simp [b2n, h0]
  have hw1 : (mgtHead chan msg status total off len).1.toNat =
      chan + 256 + x * 512 + y * 1024 + msg * 65536 + off * 4294967296 + len * 281474976710656 := by
    simp only [mgtHead, word, BitVec.toNat_ofNat, ← hx, ← hy]
    omega
  have hw2 : (mgtHead chan msg status total off len).2.toNat = total + status * 65536 := by
    simp only [mgtHead, word, BitVec.toNat_ofNat]
    omega
  have hbit (w : Word) (i : Nat) : bit w i = decide (w.toNat / 2 ^ i % 2 = 1) := by
    unfold bit
    rw [BitVec.getLsbD, Nat.testBit_eq_decide_div_mod_eq]
  intro h
  simp only [fld, nfld, hbit, h, hw1, hw2, decide_eq_true_eq, decide_eq_decide, ← hx0, ← hy0]
  refine ⟨?_, ?_, ?_, ?_, ?_, ?_, ?_, ?_, ?_⟩ <;> omega

/-! ### Frames (R415, R416, R418) -/

section
variable {s : State} {f : MgtFrame} {first last : Bool}

/-- The frame as it is counted on its port. -/
def frameIn (f : MgtFrame) (s : State) : State := bump mgtPage 0 f.port.val 1 s

theorem frameIn_keeps (f : MgtFrame) (s : State) : Keeps [.cnt] s (frameIn f s) := bump_keeps ..

theorem dropPartial_held (f : MgtFrame) (s : State) : (dropPartial (fld f.w0 7 0) (frameIn f s)).mgt.held = s.mgt.held := by
  show (frameIn f s).mgt.held = _
  rw [(frameIn_keeps f s).1 .mgt (by decide)]

theorem mgtFrameEffect_in (hup : mgtUp s = true) (hlink : mgtLink s f.port.val = true) :
    (forHardware f → mgtFrameEffect f s = fragEffect f (frameIn f s)) ∧
    (¬ forHardware f → mgtFrameEffect f s = toUpper f.port.val (wordsBytes [f.w0, f.w1] ++ f.data) (frameIn f s)) := by
  have hin : ¬ (mgtUp s = false ∨ mgtLink s f.port.val = false) := by simp [hup, hlink]
  exact ⟨fun h => (if_neg hin).trans (if_pos h), fun h => (if_neg hin).trans (if_neg h)⟩

theorem mgtFrameEffect_fragment (h : fragment s f first last) : mgtFrameEffect f s = fragEffect f (frameIn f s) := by
  obtain ⟨hup, hlink, hhw, -⟩ := h
  exact (mgtFrameEffect_in hup hlink).1 hhw

/-- The message that a frame begins or goes on with, and its length. -/
def fragmentOf (f : MgtFrame) (s : State) : Option (MgtReq × Nat) :=
  if bit f.w0 9 then some (⟨f.port.val, f.src, fld f.w0 31 16, []⟩, fld f.w1 15 0) else partialFor s f

/-- What a well-formed fragment does that goes on where its message stands. -/
theorem fragEffect_goes {r : MgtReq} {n : Nat} (hchan : fld f.w0 7 0 ≤ 4) (hlen : fld f.w0 63 48 = f.data.length)
    (hmax : f.data.length ≤ 1484) (hmsg : fragmentOf f s = some (r, n)) (hoff : fld f.w0 47 32 = r.data.length)
    (htotal : fld f.w1 15 0 = n) (hle : r.data.length + f.data.length ≤ n) (hlast : bit f.w0 10 = true ↔ r.data.length + f.data.length = n) :
    fragEffect f s = if bit f.w0 10 then holdRequest f { r with data := r.data ++ f.data } (dropPartial (fld f.w0 7 0) s)
      else { dropPartial (fld f.w0 7 0) s with mgt := { (dropPartial (fld f.w0 7 0) s).mgt with
        partials := mput (dropPartial (fld f.w0 7 0) s).mgt.partials (fld f.w0 7 0) ({ r with data := r.data ++ f.data }, n) } } := by
  have hmsg' : (if bit f.w0 9 then some (⟨f.port.val, f.src, fld f.w0 31 16, []⟩, fld f.w1 15 0)
      else if bit f.w0 9 then none else partialFor s f) = some (r, n) := by
    rw [← hmsg]
    unfold fragmentOf
    split <;> rfl
  have hwhole : ¬ (f.data.length ≠ fld f.w0 63 48 ∨ fld f.w0 47 32 ≠ r.data.length ∨ fld f.w1 15 0 ≠ n ∨
      n < (r.data ++ f.data).length ∨ (bit f.w0 10 = true) ≠ ((r.data ++ f.data).length = n)) := by
    rw [List.length_append, hlen, hoff, htotal, propext hlast]
    simp only [ne_eq, not_true_eq_false, or_false, false_or]
    omega
  unfold fragEffect
  dsimp only
  rw [if_neg (by omega), if_neg (by omega), hmsg']
  dsimp only
  rw [if_neg hwhole]


theorem holdRequest_room {r : MgtReq} (h : (mget s.mgt.held (fld f.w0 7 0) []).length < 4) : holdRequest f r s =
    { s with mgt := { s.mgt with held := mput s.mgt.held (fld f.w0 7 0) (mget s.mgt.held (fld f.w0 7 0) [] ++ [r]) } } :=
  if_neg (by omega)

theorem holdRequest_full {r : MgtReq} (h : 4 ≤ (mget s.mgt.held (fld f.w0 7 0) []).length) :
    holdRequest f r s = sendStatus f 2 (raise mgtPage 9 0 s) := if_pos h

/-- The rest of a frame for no channel. -/
theorem fragEffect_noChannel (h : 5 ≤ fld f.w0 7 0) : fragEffect f s = sendStatus f 1 s := if_pos (by omega)

theorem toUpper_spec (port : Nat) (bytes : List Byte) (s : State) : (toUpper port bytes s).out =
    s.out ++ (if regBit s mgtPage 0x200 2 = true ∧ (s.sys.phase = 6 ∨ s.sys.phase = 7) then [.upper port bytes] else []) := by
  unfold toUpper
  split
  · rfl
  · rw [List.append_nil]
    exact (bump_keeps ..).1 .out (by decide)

end

theorem mfind_mdel_same {α : Type} (m : Map α) (k : Nat) (h : (m.map (·.1)).Nodup) : mfind (mdel m k) k = none := by
  induction m with
  | nil => rfl
  | cons c m ih =>
    obtain ⟨j, v⟩ := c
    rw [List.map_cons, List.nodup_cons] at h
    obtain ⟨hnot, hrest⟩ := h
    unfold mdel
    split
    next hk =>
      subst hk
      clear ih hrest
      induction m with
      | nil => rfl
      | cons d m ih =>
        simp only [List.map_cons, List.mem_cons, not_or] at hnot
        exact (if_neg (Ne.symm hnot.1)).trans (ih hnot.2)
    next hk => exact (if_neg (Ne.symm hk)).trans (ih hrest)

/-! ### Channels (R395, R417, R418) -/

theorem answerChan_answers {s : State} {chan port msg : Nat} {r : MgtReq} {rest : List MgtReq} (data : MgtReq → List Byte)
    (hup : mgtUp s = true) (hlink : mgtLink s port = true) (hheld : mget s.mgt.held chan [] = r :: rest) (hport : r.port = port)
    (hmsg : r.msg = msg) : answerChan chan port msg data s =
      sendMgt port r.src chan msg 0 (data r) { s with mgt := { s.mgt with held := mput s.mgt.held chan rest } } := by
  unfold answerChan
  rw [if_neg (by simp [hup, hlink]), hheld]
  dsimp only
  rw [if_pos ⟨hport, hmsg⟩, hport, hmsg]

/-- A command that names another than the oldest request answers nothing. -/
theorem answerChan_other {s : State} {chan port msg : Nat} (data : MgtReq → List Byte)
    (h : ∀ y rest, mget s.mgt.held chan [] = y :: rest → y.port ≠ port ∨ y.msg ≠ msg) : answerChan chan port msg data s = s := by
  unfold answerChan
  split
  · rfl
  · split
    next y rest hy => exact if_neg fun hn => (h y rest hy).elim (fun k => k hn.1) (fun k => k hn.2)
    next => rfl

/-- The channel of a request's answer: the message goes to the request's sender, and the request is taken from its channel. -/
theorem answerChan_spec {s : State} {chan port msg : Nat} {r : MgtReq} {rest : List MgtReq} (data : MgtReq → List Byte)
    (hup : mgtUp s = true) (hlink : mgtLink s port = true) (hheld : mget s.mgt.held chan [] = r :: rest) (hport : r.port = port)
    (hmsg : r.msg = msg) :
    (answerChan chan port msg data s).out = s.out ++ mgtMessage port r.src chan msg 0 (data r) ∧
      (answerChan chan port msg data s).mgt.held = mput s.mgt.held chan rest := by
  rw [answerChan_answers data hup hlink hheld hport hmsg]
  refine ⟨sendMgt_message .., ?_⟩
  rw [(sendMgt_keeps ..).1 .mgt (by decide)]

theorem mget_held_taken {s t : State} {chan : Nat} {rest : List MgtReq} (h : t.mgt.held = mput s.mgt.held chan rest) :
    mget t.mgt.held chan [] = rest ∧ ∀ c, c ≠ chan → mget t.mgt.held c [] = mget s.mgt.held c [] := by
  rw [h]
  exact ⟨(mget_mput ..).trans (if_pos rfl), fun c hc => (mget_mput ..).trans (if_neg hc)⟩

/-- The records that a FIRKIN answer carries are marked as read. -/
def readOnes (s : State) (r : MgtReq) (f : Firkin) : Firkin :=
  if (firkinRecords s r).any (fun g => g.seq == f.seq) then { f with read := true } else f

theorem markRead_kept (g : Firkin → Firkin) (s : State) : (markRead g s).mtr.kept = s.mtr.kept.map g := by
  unfold markRead
  dsimp only
  split
  next h => exact h.symm
  next => exact congrArg Mtr.kept ((journal_keeps ..).1 .mtr (by decide))

theorem firkinAnswer_spec {s : State} {port msg : Nat} {r : MgtReq} {rest : List MgtReq} (hup : mgtUp s = true)
    (hlink : mgtLink s port = true) (hheld : mget s.mgt.held 4 [] = r :: rest) (hport : r.port = port) (hmsg : r.msg = msg) :
    firkinAnswer port msg s =
      markRead (readOnes s r) (answerChan 4 port msg (fun r => (firkinRecords s r).flatMap (·.bytes)) s) := by
  obtain ⟨-, htaken⟩ := answerChan_spec (fun r => (firkinRecords s r).flatMap (·.bytes)) hup hlink hheld hport hmsg
  have hne : ¬ (answerChan 4 port msg (fun r => (firkinRecords s r).flatMap (·.bytes)) s).mgt.held = s.mgt.held := by
    intro h
    have hrest := (mget_held_taken htaken).1
    rw [h, hheld] at hrest
    exact List.cons_ne_self r rest hrest
  unfold firkinAnswer
  dsimp only
  rw [if_neg hne, hheld]
  rfl

theorem readOnes_bytes (s : State) (r : MgtReq) (f : Firkin) : (readOnes s r f).bytes = f.bytes := by
  unfold readOnes
  split <;> rfl

theorem readOnes_read {s : State} {r : MgtReq} {f : Firkin} (h : (readOnes s r f).seq ∈ (firkinRecords s r).map (·.seq)) :
    (readOnes s r f).read = true := by
  have hseq : (readOnes s r f).seq = f.seq := by
    unfold readOnes
    split <;> rfl
  rw [hseq] at h
  obtain ⟨g, hg, hgf⟩ := List.mem_map.mp h
  have hany : (firkinRecords s r).any (fun g => g.seq == f.seq) = true := List.any_eq_true.mpr ⟨g, hg, beq_iff_eq.mpr hgf⟩
  unfold readOnes
  rw [hany]
  rfl

theorem asksFor_head {s : State} {chan : Nat} {r : MgtReq} {rest : List MgtReq} (h : mget s.mgt.held chan [] = r :: rest)
    (first count : Nat) : asksFor s chan first count = (r.first == first && r.count == count) := by
  unfold asksFor
  rw [h]
  rfl

/-- Each channel's command answers for its own channel, LOG and FIRKIN only when the oldest request asks for just the records that
the command names. -/
theorem exec_channelAnswer {s : State} {port : Fin 2} {msg : BitVec 16} {r : MgtReq} {x : Instr × Nat × List Byte}
    (hx : x ∈ channelAnswers s port msg r) :
    (x = (.mgtIdent port msg, 0, identBytes s)) ∨
    (x = (.mgtLog port msg r.first r.count, 3, (logRecords s r).flatten)) ∨
    (x = (.mgtFirkin port msg r.first r.count, 4, (firkinRecords s r).flatMap (·.bytes))) := by
  simp only [channelAnswers, List.mem_cons, List.not_mem_nil, or_false] at hx
  exact hx

/-! ### The SMBus (R405, R420) -/

theorem smbAnswer_powered {s : State} (code : Nat) (block : Bool) (data : List Byte) (hp : s.sys.powered = true) (hs : 3 ∉ s.mgt.shorts) :
    let addr := 0x58 + s.sys.slot
    let bs := if block then BitVec.ofNat 8 data.length :: data else data
    smbAnswer code block data s = { s with out := s.out ++ [.smb addr bs
      (crc8 ([BitVec.ofNat 8 (2 * addr), BitVec.ofNat 8 code, BitVec.ofNat 8 (2 * addr + 1)] ++ bs))] } := by
  intro addr bs
  refine (if_neg (by simp [hp, hs])).trans ?_
  rw [show 2 * addr = smbAddr s * 2 from Nat.mul_comm ..]
  rfl

theorem smbAnswer_silent {s : State} (code : Nat) (block : Bool) (data : List Byte)
    (h : s.sys.powered = false ∨ 3 ∈ s.mgt.shorts) : smbAnswer code block data s = s :=
  if_pos (h.imp_right fun h => List.contains_iff_mem.mpr h)

/-- Each read of the SMBus is one answer: a block read, or bytes as they are. -/
theorem exec_smbRead {s : State} {x : Instr × Nat × List Byte} (hx : x ∈ smbReads s) :
    ∃ block data, exec x.1 s = .next (smbAnswer x.2.1 block data s) ∧
      x.2.2 = if block then BitVec.ofNat 8 data.length :: data else data := by
  simp only [smbReads, List.mem_cons, List.not_mem_nil, or_false] at hx
  obtain rfl | rfl | rfl | rfl | rfl | rfl | rfl | rfl | rfl | rfl | rfl | rfl := hx
  · exact ⟨true, _, rfl, rfl⟩
  all_goals exact ⟨false, _, rfl, rfl⟩

/-! ### Sideband pins (R404) -/

theorem shortEffect_go {s : State} {pin : Nat} (hp : s.sys.powered = true) (hs : pin ∉ s.mgt.shorts) (hd : pinDriven s pin = true) :
    (shortEffect pin s).mgt = { s.mgt with shorts := s.mgt.shorts ++ [pin] } ∧
      bit (getReg (shortEffect pin s) mgtPage 0x20) 8 = true ∧ Keeps [.out, .regs, .rel, .mgt, .sys] s (shortEffect pin s) := by
  have hgo : ¬ (s.sys.powered = false ∨ s.mgt.shorts.contains pin ∨ pinDriven s pin = false) := by simp [hp, hs, hd]
  have hself : Keeps [.out, .regs, .rel, .mgt, .sys] s s := .refl
  unfold shortEffect
  rw [if_neg hgo]
  extract_lets src s1
  have hs1 : Keeps [.out, .regs, .rel, .mgt, .sys] s s1 := alertPin_keeps (hself.set_mgt _)
  have hmgt : s1.mgt = { s.mgt with shorts := s.mgt.shorts ++ [pin] } :=
    (alertPin_keeps (ps := [.out]) (s0 := { s with mgt := { s.mgt with shorts := s.mgt.shorts ++ [pin] } }) .refl).1 .mgt (by decide)
  exact ⟨((raiseEv_keeps ..).1 .mgt (by decide)).trans hmgt, bit_errSts_raiseEv _ _ _ _ _ (by decide), hs1.step (raiseEv_keeps ..)⟩

theorem pinDriven_of {s : State} {pin : Fin 4} (h1 : pin.val = 1 → s.sys.fault = true) (h2 : pin.val = 2 → thermAlert s = true) :
    pinDriven s pin.val = true := by
  unfold pinDriven
  split
  next h => exact h1 h
  next =>
    split
    next h => exact h2 h
    next => rfl

/-- The state of a port's link after a change, and its interrupt (R419). -/
theorem mgtLinkEffect_spec {s : State} {port : Nat} {up fec : Bool}
    (h : ¬ (mgtUp s = false ∨ (up = true ∧ regBit s mgtPage 0x200 port = false))) :
    (mgtLinkEffect port up fec s).mgt = (if port = 0 then { s.mgt with link0 := up, fec0 := up && fec }
      else { s.mgt with link1 := up, fec1 := up && fec }) ∧
    ((if port = 0 then s.mgt.link0 else s.mgt.link1) ≠ up → bit (getReg (mgtLinkEffect port up fec s) mgtPage 0x38) 1 = true) := by
  unfold mgtLinkEffect
  rw [if_neg h]
  generalize (if port = 0 then s.mgt.link0 else s.mgt.link1) = old
  generalize (if port = 0 then { s.mgt with link0 := up, fec0 := up && fec } else { s.mgt with link1 := up, fec1 := up && fec }) = m
  dsimp only
  by_cases hsame : old = up
  · rw [if_pos hsame]
    exact ⟨rfl, fun hne => absurd hsame hne⟩
  · rw [if_neg hsame]
    exact ⟨(intSet_keeps ..).1 .mgt (by decide), fun _ => bit_intSts_intSet _ _ _ (by decide)⟩

/-- A command that names the records the oldest request asks for, but another request, is not for it. -/
theorem otherOf {s : State} {chan port msg : Nat} {r : MgtReq}
    (hno : ∀ y rest, mget s.mgt.held chan [] = y :: rest → y.port ≠ port ∨ y.msg ≠ msg ∨
      (chan ≠ 0 ∧ (leNat (y.data.take 8) ≠ leNat (r.data.take 8) ∨ leNat ((y.data.drop 8).take 2) ≠ leNat ((r.data.drop 8).take 2))))
    (hasks : asksFor s chan r.first r.count = true) {y : MgtReq} {rest : List MgtReq} (hy : mget s.mgt.held chan [] = y :: rest) :
    y.port ≠ port ∨ y.msg ≠ msg := by
  rw [asksFor_head hy, Bool.and_eq_true, beq_iff_eq, beq_iff_eq] at hasks
  obtain ⟨hfirst, hcount⟩ := hasks
  rcases hno y rest hy with h | h | ⟨-, h | h⟩
  · exact .inl h
  · exact .inr h
  · exact absurd hfirst h
  · exact absurd hcount h

/-- Settles O60: frames, channels, pins and the SMBus, each by its own function. -/
theorem managementPortsPinsAndSmbus : Obligations.ManagementPortsPinsAndSmbus := by
  unfold Obligations.ManagementPortsPinsAndSmbus
  refine ⟨?whole, ?begins, ?goesOn, ?other, ?upper, ?down, ?noLink, ?timeout, ?link, ?head, ?answers, ?silent, ?short, ?noShort, ?rearm, ?smb⟩
  case whole =>
    rintro s f ⟨hfrag, hoff, htotal⟩
    have hself : Keeps [.out, .regs, .cnt, .mgt, .sys] s s := .refl
    have hframe := mgtFrameEffect_fragment hfrag
    obtain ⟨-, -, -, hfirst, hlast, hlen, hmax⟩ := hfrag
    have hmgt : (frameIn f s).mgt = s.mgt := (frameIn_keeps f s).1 .mgt (by decide)
    have hgoes (hchan : fld f.w0 7 0 ≤ 4) : fragEffect f (frameIn f s) =
        holdRequest f (beginsRequest f) (dropPartial (fld f.w0 7 0) (frameIn f s)) := by
      have hmsg : fragmentOf f (frameIn f s) = some (⟨f.port.val, f.src, fld f.w0 31 16, []⟩, fld f.w1 15 0) := if_pos hfirst
      refine (fragEffect_goes hchan hlen hmax hmsg hoff rfl (by simp [htotal]) (by simp [htotal, hlast])).trans ?_
      rw [hlast]
      rfl
    have hheld := dropPartial_held f s
    refine ⟨fun hchan hroom => ?_, fun hchan hfull => ?_, fun hchan => ?_⟩
    · refine ⟨_, congrArg Host.Outcome.next (hframe.trans ((hgoes hchan).trans (holdRequest_room (by rw [hheld]; exact hroom)))), ?_, ?_, ?_⟩
      · rw [hheld]
        exact (mget_mput ..).trans (if_pos rfl)
      · intro c hc
        rw [hheld]
        exact (mget_mput ..).trans (if_neg hc)
      · exact ((Keeps.mono (frameIn_keeps f s) (qs := [.cnt, .mgt]) (by decide)).set_mgt _).1
    · refine ⟨_, congrArg Host.Outcome.next (hframe.trans ((hgoes hchan).trans (holdRequest_full (by rw [hheld]; exact hfull)))), ?_, ?_, ?_, ?_⟩
      · rw [getReg_congr ((sendStatus_keeps ..).1 .regs (by decide))]
        exact bit_errSts_raise _ _ _ _ (by decide)
      · exact ⟨_, sendMgt_message ..⟩
      · rw [(sendStatus_keeps ..).1 .mgt (by decide), (raise_keeps ..).1 .mgt (by decide), hheld]
      · exact ((((hself.step (frameIn_keeps f s)).set_mgt _).step (raise_keeps ..)).step (sendStatus_keeps ..)).1
    · refine ⟨_, congrArg Host.Outcome.next (hframe.trans (fragEffect_noChannel hchan)), ?_, ?_, ?_⟩
      · rw [(sendStatus_keeps ..).1 .mgt (by decide), hmgt]
      · unfold sendStatus
        rw [sendMgt_message, (frameIn_keeps f s).1 .out (by decide)]
      · exact (Keeps.step (Keeps.mono (frameIn_keeps f s) (qs := [.out, .cnt]) (by decide)) (sendStatus_keeps ..)).1
  case begins =>
    intro s f hfrag hchan hoff hshort
    have hframe := mgtFrameEffect_fragment hfrag
    obtain ⟨-, -, -, hfirst, hlast, hlen, hmax⟩ := hfrag
    have hmgt : (frameIn f s).mgt = s.mgt := (frameIn_keeps f s).1 .mgt (by decide)
    have hmsg : fragmentOf f (frameIn f s) = some (⟨f.port.val, f.src, fld f.w0 31 16, []⟩, fld f.w1 15 0) := if_pos hfirst
    have hgoes := fragEffect_goes hchan hlen hmax hmsg hoff rfl (by simp; omega) (by simp [hlast]; omega)
    rw [hlast] at hgoes
    refine ⟨_, congrArg Host.Outcome.next (hframe.trans hgoes), dropPartial_held f s, ?_, ?_⟩
    · exact (mfind_mput ..).trans (if_pos rfl)
    · exact ((Keeps.mono (frameIn_keeps f s) (qs := [.cnt, .mgt]) (by decide)).set_mgt _).1
  case goesOn =>
    intro s f r n last hfrag hchan hpart hoff htotal
    have hframe := mgtFrameEffect_fragment hfrag
    obtain ⟨-, -, -, hfirst, hlast, hlen, hmax⟩ := hfrag
    have hmgt : (frameIn f s).mgt = s.mgt := (frameIn_keeps f s).1 .mgt (by decide)
    have hmsg : fragmentOf f (frameIn f s) = some (r, n) := by
      unfold fragmentOf partialFor
      rw [hfirst, hmgt]
      exact hpart
    have hheld := dropPartial_held f s
    refine ⟨fun hl hn hroom => ?_, fun hl hn => ?_⟩
    · have hgoes := fragEffect_goes hchan hlen hmax hmsg hoff htotal (by omega) (by simp [hlast, hl, hn])
      rw [hlast, hl, if_pos rfl, holdRequest_room (by rw [hheld]; exact hroom)] at hgoes
      refine ⟨_, congrArg Host.Outcome.next (hframe.trans hgoes), ?_, ?_⟩
      · exact ((Keeps.mono (frameIn_keeps f s) (qs := [.cnt, .mgt]) (by decide)).set_mgt _).1
      · rw [hheld]
        exact (mget_mput ..).trans (if_pos rfl)
    · have hgoes := fragEffect_goes hchan hlen hmax hmsg hoff htotal (by omega) (by simp [hlast, hl]; omega)
      rw [hlast, hl] at hgoes
      refine ⟨_, congrArg Host.Outcome.next (hframe.trans hgoes), ?_, (mfind_mput ..).trans (if_pos rfl)⟩
      exact ((Keeps.mono (frameIn_keeps f s) (qs := [.cnt, .mgt]) (by decide)).set_mgt _).1
  case other =>
    intro s f hup hlink hnot
    refine ⟨_, congrArg Host.Outcome.next ((mgtFrameEffect_in hup hlink).2 hnot), ?_, ?_⟩
    · exact (Keeps.step (Keeps.mono (frameIn_keeps f s) (qs := [.out, .cnt]) (by decide)) (toUpper_keeps ..)).1
    · have hk := frameIn_keeps f s
      rw [toUpper_spec, hk.1 .out (by decide), hk.1 .sys (by decide), regBit, getReg_congr (hk.1 .regs (by decide))]
      rfl
  case upper =>
    intro s port bytes hlink
    have hk : Keeps [.cnt] s (bump mgtPage 0 port.val 1 s) := bump_keeps ..
    refine ⟨_, congrArg Host.Outcome.next (if_neg (by simp [hlink])), ?_, ?_⟩
    · exact (Keeps.step (hk.mono (qs := [.out, .cnt]) (by decide)) (toUpper_keeps ..)).1
    · rw [toUpper_spec, hk.1 .out (by decide), hk.1 .sys (by decide), regBit, getReg_congr (hk.1 .regs (by decide))]
      rfl
  case down => exact fun s f h => congrArg Host.Outcome.next (if_pos h)
  case noLink => exact fun s port bytes h => congrArg Host.Outcome.next (if_pos h)
  case timeout =>
    intro s chan
    exact ⟨_, rfl, rfl, (Keeps.refl.set_mgt _).1, mfind_mdel_same _ _, fun c hc => mfind_mdel_ne hc _⟩
  case link =>
    intro s port up fec hup hen
    have hgo : ¬ (mgtUp s = false ∨ (up = true ∧ regBit s mgtPage 0x200 port.val = false)) := by
      rw [hup]
      rcases hen with h | h <;> simp [h]
    have hself : Keeps [.out, .regs, .mgt, .sys] s s := .refl
    obtain ⟨hm, hb⟩ := mgtLinkEffect_spec (s := s) (port := port.val) (up := up) (fec := fec) hgo
    refine ⟨_, rfl, (mgtLinkEffect_keeps ..).1, fun h0 => ⟨hm.trans (if_pos h0), fun h => hb ?_⟩,
      fun h1 => ⟨hm.trans (if_neg (by omega)), fun h => hb ?_⟩⟩
    · rw [if_pos h0]
      exact h
    · rw [if_neg (by omega)]
      exact h
  case head => exact fun chan msg status total off len h1 h2 h3 h4 h5 => mgtHead_fields h1 h2 h3 h4 h5
  case answers =>
    intro s port msg r rest x hx hup hlink hheld hport hmsg
    have hself : Keeps [.out, .cnt, .mtr, .mgt, .sec] s s := .refl
    obtain rfl | rfl | rfl := exec_channelAnswer hx
    · obtain ⟨hout, htaken⟩ := answerChan_spec (fun _ => identBytes s) hup hlink hheld hport hmsg
      obtain ⟨hhead, hrest⟩ := mget_held_taken htaken
      refine ⟨_, rfl, hout, hhead, hrest, ?_, nofun, (hself.step (answerChan_keeps ..)).1⟩
      rw [(answerChan_keeps ..).1 .mtr (by decide)]
    · obtain ⟨hout, htaken⟩ := answerChan_spec (fun r => (logRecords s r).flatten) hup hlink hheld hport hmsg
      obtain ⟨hhead, hrest⟩ := mget_held_taken htaken
      have hasks : asksFor s 3 r.first r.count = true := by simp [asksFor_head hheld]
      refine ⟨_, congrArg Host.Outcome.next (if_pos hasks), hout, hhead, hrest, ?_, nofun, (hself.step (answerChan_keeps ..)).1⟩
      rw [(answerChan_keeps ..).1 .mtr (by decide)]
    · obtain ⟨hout, htaken⟩ := answerChan_spec (fun r => (firkinRecords s r).flatMap (·.bytes)) hup hlink hheld hport hmsg
      obtain ⟨hhead, hrest⟩ := mget_held_taken htaken
      have hasks : asksFor s 4 r.first r.count = true := by simp [asksFor_head hheld]
      have hmgt := (markRead_keeps (readOnes s r) (answerChan 4 port.val msg.toNat (fun r => (firkinRecords s r).flatMap (·.bytes)) s)).1
      have hmtr := (answerChan_keeps 4 port.val msg.toNat (fun r => (firkinRecords s r).flatMap (·.bytes)) s).1 .mtr (by decide)
      refine ⟨_, congrArg Host.Outcome.next ((if_pos hasks).trans (firkinAnswer_spec hup hlink hheld hport hmsg)), ?_, ?_, ?_, ?_, ?_,
        ((hself.step (answerChan_keeps ..)).step (markRead_keeps ..)).1⟩
      · rw [hmgt .out (by decide), hout]
      · rw [hmgt .mgt (by decide), hhead]
      · rw [hmgt .mgt (by decide)]
        exact hrest
      · rw [markRead_kept, hmtr, List.map_map]
        exact List.map_congr_left fun f _ => readOnes_bytes s r f
      · intro f hf _ hseq
        rw [markRead_kept, hmtr] at hf
        obtain ⟨g, -, rfl⟩ := List.mem_map.mp hf
        exact readOnes_read hseq
  case silent =>
    intro s port msg r x hx hno
    obtain rfl | rfl | rfl := exec_channelAnswer hx
    · refine congrArg Host.Outcome.next (answerChan_other _ fun y rest hy => ?_)
      rcases hno y rest hy with h | h | h
      · exact .inl h
      · exact .inr h
      · exact absurd rfl h.1
    · by_cases hasks : asksFor s 3 r.first r.count = true
      · exact congrArg Host.Outcome.next ((if_pos hasks).trans (answerChan_other _ (fun y rest hy => otherOf hno hasks hy)))
      · exact congrArg Host.Outcome.next (if_neg hasks)
    · by_cases hasks : asksFor s 4 r.first r.count = true
      · refine congrArg Host.Outcome.next ((if_pos hasks).trans ?_)
        unfold firkinAnswer
        rw [answerChan_other _ (fun y rest hy => otherOf hno hasks hy)]
        exact if_pos rfl
      · exact congrArg Host.Outcome.next (if_neg hasks)
  case short =>
    intro s pin hp hs h1 h2
    obtain ⟨hmgt, hbit, hk⟩ := shortEffect_go hp hs (pinDriven_of h1 h2)
    exact ⟨_, rfl, hmgt, hbit, hk.1⟩
  case noShort =>
    intro s pin h
    refine congrArg Host.Outcome.next (if_pos ?_)
    rcases h with h | h | ⟨h1, h2⟩ | ⟨h1, h2⟩
    · exact .inl h
    · exact .inr (.inl (List.contains_iff_mem.mpr h))
    · exact .inr (.inr (by simp [pinDriven, h1, h2]))
    · exact .inr (.inr (by simp [pinDriven, h1, h2]))
  case rearm =>
    intro s who v ha
    have hbit : bit (v ||| 1) 0 = true := by simp [bit]
    exact ⟨_, congrArg Host.Outcome.next ((regGuard_admits ha).trans (if_pos hbit)),
      (alertPin_keeps (ps := [.out]) (s0 := { s with mgt := { s.mgt with shorts := [] } }) .refl).1 .mgt (by decide),
      (alertPin_keeps (ps := [.out, .mgt]) (Keeps.refl.set_mgt _)).1⟩
  case smb =>
    intro s x hx addr
    obtain ⟨block, data, hexec, hbytes⟩ := exec_smbRead hx
    refine ⟨fun hp hs => ?_, fun h => ?_⟩
    · rw [hexec, smbAnswer_powered x.2.1 block data hp hs, hbytes]
    · rw [hexec, smbAnswer_silent x.2.1 block data h]

end Sys2Proof.Machine
end

section
/-! SUPPORT. Units and the window cache (R266 to R268). -/

namespace Sys2Proof.Machine

/-- Words of different units, or different words of one, are different registers. -/
theorem unitW_setReg_ne {u w x y : Nat} (hx : x < 1024) (hu : u < 1024) (hy : y < 4) (hw : w < 4) (h : x ≠ u ∨ y ≠ w) (v : Word) (s : State) :
    unitW (setReg cx2 (0x1000 + 32 * u + 8 * w) v s) x y = unitW s x y := by
  refine getReg_setReg_ne ?_ _ _
  unfold regKey
  omega

theorem unitW_setReg_same (u w : Nat) (v : Word) (s : State) : unitW (setReg cx2 (0x1000 + 32 * u + 8 * w) v s) u w = v :=
  getReg_setReg_same ..

/-- An entry's word with the epoch it is read under. -/
def entryWord (u w : Nat) (v : Word) (s : State) : Word := if w = 2 then setFld v 31 24 (unitEpoch s u) else v

/-- The epoch after a write that is accepted: from 255 to 1, for 0 is none (R267). -/
def nextEpoch (e : Nat) : Nat := if e = 255 then 1 else e + 1

/-- The entry with its new word, and its epoch advanced. -/
def unitWritten (u w : Nat) (v : Word) (s : State) : State :=
  let s1 := setReg cx2 (0x1000 + 32 * u + 8 * w) (entryWord u w v s) s
  setReg cx2 (0x1000 + 32 * u + 8 * 2) (setFld (unitW s1 u 2) 31 24 (nextEpoch (unitEpoch s u))) s1

theorem unitEffect_go {s : State} {u w : Nat} {v : Word} (hu : u ≠ 0) (hw : w ≠ 3) (hnew : entryWord u w v s ≠ unitW s u w)
    (hb : (if w = 0 then fld v 49 0 else unitBase s u) % 256 = 0) (hn : (if w = 1 then fld v 49 0 else unitSize s u) % 256 = 0)
    (hfit : unitFits (if w = 0 then fld v 49 0 else unitBase s u) (if w = 1 then fld v 49 0 else unitSize s u) = true) :
    unitEffect u w v s = unitWritten u w v s :=
  (if_neg (by omega)).trans <| (if_neg (by simp [hb, hn, hfit])).trans (if_neg hnew)

theorem unitEpoch_le (s : State) (u : Nat) : nextEpoch (unitEpoch s u) < 256 := by
  have h : unitEpoch s u < 256 := by
    unfold unitEpoch
    split
    · decide
    · exact fld_lt ..
  unfold nextEpoch
  split <;> omega

theorem unitWritten_spec {s : State} {u w : Nat} (v : Word) (hu : u < 1024) (h0 : u ≠ 0) (hw : w < 4) :
    unitW (unitWritten u w v s) u 2 = setFld (if w = 2 then entryWord u w v s else unitW s u 2) 31 24 (nextEpoch (unitEpoch s u)) ∧
      (w ≠ 2 → unitW (unitWritten u w v s) u w = v) ∧ unitEpoch (unitWritten u w v s) u = nextEpoch (unitEpoch s u) ∧
      (∀ x y, x ≠ u → x < 1024 → y < 4 → unitW (unitWritten u w v s) x y = unitW s x y) ∧ Keeps [.regs] s (unitWritten u w v s) := by
  have h2 : unitW (unitWritten u w v s) u 2 =
      setFld (if w = 2 then entryWord u w v s else unitW s u 2) 31 24 (nextEpoch (unitEpoch s u)) := by
    refine (unitW_setReg_same ..).trans ?_
    split
    next h =>
      subst h
      rw [unitW_setReg_same]
    next h => rw [unitW_setReg_ne hu hu (by decide) hw (.inr (Ne.symm h))]
  refine ⟨h2, fun hne => ?_, ?_, fun x y hx hlt hy => ?_, ?_⟩
  · refine (unitW_setReg_ne hu hu hw (by decide) (.inr hne) _ _).trans ((unitW_setReg_same ..).trans ?_)
    exact if_neg hne
  · rw [unitEpoch, if_neg h0, h2, fld_setFld _ _ _ _ (by decide)]
    exact Nat.mod_eq_of_lt (unitEpoch_le s u)
  · exact (unitW_setReg_ne hlt hu hy (by decide) (.inl hx) _ _).trans (unitW_setReg_ne hlt hu hy hw (.inl hx) _ _)
  · exact (setReg_keeps ..).step (setReg_keeps ..)

/-- Settles O42: an accepted write stores its word and then the next epoch; the cache goes with its one register. -/
theorem unitsAdvanceTheirEpoch : Obligations.UnitsAdvanceTheirEpoch := by
  unfold Obligations.UnitsAdvanceTheirEpoch
  refine ⟨?window, ?flags, ?refused, ?flush⟩
  case window =>
    intro s who u w v ha h0 hw hnew hb hn hfit
    have hne : w.val ≠ 2 := by omega
    have hword : entryWord u.val w.val v s = v := if_neg hne
    obtain ⟨-, hv, hepoch, hothers, hk⟩ := unitWritten_spec (s := s) v u.isLt h0 w.isLt
    exact ⟨_, congrArg Host.Outcome.next ((regGuard_admits ha).trans (unitEffect_go h0 (by omega) (hword.symm ▸ hnew) hb hn hfit)),
      hv hne, hepoch, hothers, hk.1⟩
  case flags =>
    intro s who u v ha h0 hnew hb hn hfit
    obtain ⟨hv, -, hepoch, hothers, hk⟩ := unitWritten_spec (s := s) (w := 2) v u.isLt h0 (by decide)
    have hgo := unitEffect_go (s := s) (w := 2) h0 (by decide) hnew hb hn hfit
    refine ⟨_, congrArg Host.Outcome.next ((regGuard_admits ha).trans hgo), ?_, ?_, ?_, hepoch, hothers, hk.1⟩
    · rw [unitJob, hv, fld_setFld_ne _ _ _ _ _ _ (by decide)]
      exact fld_setFld_ne _ _ _ _ _ _ (by decide)
    · rw [unitValid, hv, bit_setFld]
      exact bit_setFld ..
    · rw [unitIngest, hv, bit_setFld]
      exact bit_setFld ..
  case refused =>
    intro s who u v ha h0 hodd
    have hgo : unitEffect u.val 0 v s = raise cx2 8 (0x1000 + 32 * u.val) s :=
      (if_neg (by omega)).trans (if_pos (.inl hodd))
    refine ⟨_, congrArg Host.Outcome.next ((regGuard_admits ha).trans hgo), raisedAt_raise _ _ _ (by decide), fun y => ?_,
      raise_onlyChanges _ _ _ _⟩
    have hkey (k : Nat) (hk : k < 0x200) : regKey cx2 (0x1000 + 32 * u.val + 8 * y) ≠ regKey cx2 k := by
      unfold regKey
      omega
    unfold unitW
    rw [getReg_raise, if_neg (hkey 0x20 (by decide)), if_neg (hkey 0x38 (by decide)),
      if_neg (c := _ ∧ _) fun h => hkey 0x30 (by decide) h.1, ite_self]
  case flush =>
    intro s who v ha
    refine ⟨_, congrArg Host.Outcome.next (regGuard_admits ha), ?_, ?_, ?_⟩
    all_goals
      unfold cacheFlushEffect
      split
    · rfl
    · rfl
    · rfl
    · rfl
    · exact (Keeps.refl.set_lnk _).1
    · exact Keeps.refl.1

end Sys2Proof.Machine
end

section
/-! SUPPORT. The sharing of a tick's energy (R390): parts in time, shares among activities, and what a request takes. -/

namespace Sys2Proof.Machine

/-! ### Parts in time -/

/-- The parts of an energy over lengths add up to it: the last length is all that is left. -/
theorem sum_spread (e : Nat) (ns : List Nat) (n : Nat) (h : (n :: ns).sum ≠ 0) : (spread e (n :: ns).sum (n :: ns)).sum = e := by
  induction ns generalizing e n with
  | nil =>
    simp only [List.sum_cons, List.sum_nil, Nat.add_zero] at h ⊢
    simp [spread, h]
  | cons k ns ih =>
    have hrest : (n :: k :: ns).sum - n = (k :: ns).sum := by simp
    have hfirst : spread e (n :: k :: ns).sum (n :: k :: ns) =
        e * n / (n :: k :: ns).sum :: spread (e - e * n / (n :: k :: ns).sum) (k :: ns).sum (k :: ns) := by
      rw [spread, if_neg h, hrest]
    have hle : e * n / (n :: k :: ns).sum ≤ e := by
      refine Nat.div_le_of_le_mul ?_
      rw [Nat.mul_comm]
      exact Nat.mul_le_mul_right _ (by simp)
    rw [hfirst, List.sum_cons]
    by_cases hz : (k :: ns).sum = 0
    · have hall : e * n / (n :: k :: ns).sum = e := by
        have hn : (n :: k :: ns).sum = n := by rw [List.sum_cons, hz, Nat.add_zero]
        rw [hn]
        exact Nat.mul_div_cancel _ (Nat.pos_of_ne_zero (hn ▸ h))
      have hzeros : ∀ (l : List Nat), (spread 0 0 l).sum = 0 := by
        intro l
        induction l with
        | nil => rfl
        | cons a l ihl => simpa [spread] using ihl
      rw [hall, hz, Nat.sub_self, hzeros, Nat.add_zero]
    · rw [ih _ _ hz]
      omega

theorem spread_first (e tot n : Nat) (ns : List Nat) (h : tot ≠ 0) :
    (spread e tot (n :: ns)).headD 0 = e * n / tot ∧ (spread e tot (n :: ns)).length = ns.length + 1 := by
  have hlen (l : List Nat) (e tot : Nat) : (spread e tot l).length = l.length := by
    induction l generalizing e tot with
    | nil => rfl
    | cons a l ih => simp [spread, ih]
  exact ⟨by simp [spread, h], by rw [hlen, List.length_cons]⟩

/-! ### A stable order -/

theorem perm_insertBy {α : Type} (le : α → α → Bool) (x : α) (l : List α) : (insertBy le x l).Perm (x :: l) := by
  induction l with
  | nil => exact .refl _
  | cons y l ih =>
    unfold insertBy
    split
    · exact .refl _
    · exact (ih.cons y).trans (.swap ..)

theorem perm_sortBy {α : Type} (le : α → α → Bool) (l : List α) : (sortBy le l).Perm l := by
  induction l with
  | nil => exact .refl _
  | cons x l ih => exact (perm_insertBy ..).trans (ih.cons x)

/-- The larger key comes first, and of equal ones the earlier in the list. -/
def before (f : Nat × Nat → Nat) (x y : Nat × Nat) : Prop := f y < f x ∨ f y = f x ∧ x.1 < y.1

theorem pairwise_insertBy {f : Nat × Nat → Nat} {x : Nat × Nat} {l : List (Nat × Nat)} (hl : l.Pairwise (before f))
    (hx : ∀ y ∈ l, x.1 < y.1) : (insertBy (fun x y => decide (f y ≤ f x)) x l).Pairwise (before f) := by
  induction l with
  | nil => exact List.pairwise_singleton _ _
  | cons y l ih =>
    obtain ⟨hy, hrest⟩ := List.pairwise_cons.mp hl
    unfold insertBy
    split
    next hle =>
      have hxy : f y ≤ f x := of_decide_eq_true hle
      refine List.pairwise_cons.mpr ⟨fun z hz => ?_, hl⟩
      have hxz : x.1 < z.1 := hx z hz
      have hzy : f z ≤ f y := by
        rcases List.mem_cons.mp hz with rfl | hz
        · exact le_rfl
        · rcases hy z hz with h | h
          · exact h.le
          · exact h.1.le
      rcases Nat.lt_or_ge (f z) (f x) with h | h
      · exact .inl h
      · exact .inr ⟨by omega, hxz⟩
    next hle =>
      have hxy : f x < f y := Nat.lt_of_not_le fun h => hle (decide_eq_true h)
      refine List.pairwise_cons.mpr ⟨fun z hz => ?_, ih hrest fun z hz => hx z (List.mem_cons_of_mem _ hz)⟩
      rcases List.mem_cons.mp ((perm_insertBy ..).mem_iff.mp hz) with rfl | hz
      · exact .inl hxy
      · exact hy z hz

theorem pairwise_sortBy (f : Nat × Nat → Nat) (l : List (Nat × Nat)) (h : (l.map (·.1)).Pairwise (· < ·)) :
    (sortBy (fun x y => decide (f y ≤ f x)) l).Pairwise (before f) := by
  induction l with
  | nil => exact List.Pairwise.nil
  | cons x l ih =>
    obtain ⟨hx, hrest⟩ := List.pairwise_cons.mp h
    refine pairwise_insertBy (ih hrest) fun y hy => ?_
    exact hx y.1 (List.mem_map_of_mem ((perm_sortBy ..).mem_iff.mp hy))

/-! ### Shares -/

section
variable (e : Nat) (acts : List Nat)

/-- What an activity's share is rounded down from. -/
def fraction (i : Nat) : Nat := e * acts.getD i 0 % acts.sum

/-- The activities, the largest fractional part first. -/
def shareOrder : List (Nat × Nat) :=
  sortBy (fun x y => decide (e * y.2 % acts.sum ≤ e * x.2 % acts.sum)) ((List.range acts.length).zip acts)

/-- What rounding down leaves. -/
def leftOver : Nat := e - (acts.map (fun a => e * a / acts.sum)).sum

/-- The activities that get one of it. -/
def roundedUp : List Nat := ((shareOrder e acts).take (leftOver e acts)).map (·.1)

theorem shares_eq : shares e acts =
    (List.range acts.length).map (fun i => (acts.map (fun a => e * a / acts.sum)).getD i 0 + if (roundedUp e acts).contains i then 1 else 0) := rfl

theorem map_fst_zip_range : ((List.range acts.length).zip acts).map (·.1) = List.range acts.length :=
  List.map_fst_zip (by simp)

theorem shareOrder_fst : ((shareOrder e acts).map (·.1)).Perm (List.range acts.length) := by
  have h := (perm_sortBy (fun x y => decide (e * y.2 % acts.sum ≤ e * x.2 % acts.sum)) ((List.range acts.length).zip acts)).map (·.1)
  rwa [map_fst_zip_range] at h

theorem shareOrder_sorted : (shareOrder e acts).Pairwise (before fun x => e * x.2 % acts.sum) :=
  pairwise_sortBy (fun x => e * x.2 % acts.sum) _ (by rw [map_fst_zip_range]; exact List.pairwise_lt_range)

theorem mem_shareOrder {x : Nat × Nat} (h : x ∈ shareOrder e acts) : x.1 < acts.length ∧ x.2 = acts.getD x.1 0 := by
  have hz := (perm_sortBy ..).mem_iff.mp h
  obtain ⟨i, hi, hx⟩ := List.mem_iff_getElem.mp hz
  rw [List.length_zip, List.length_range, Nat.min_self] at hi
  rw [List.getElem_zip, List.getElem_range] at hx
  subst hx
  exact ⟨hi, by simp [hi]⟩

theorem getD_down (i : Nat) : (acts.map (fun a => e * a / acts.sum)).getD i 0 = e * acts.getD i 0 / acts.sum := by
  rw [List.getD_eq_getElem?_getD, List.getD_eq_getElem?_getD, List.getElem?_map]
  cases acts[i]? <;> simp

theorem getD_shares {i : Nat} (hi : i < acts.length) : (shares e acts).getD i 0 =
    e * acts.getD i 0 / acts.sum + if i ∈ roundedUp e acts then 1 else 0 := by
  rw [shares_eq, List.getD_eq_getElem?_getD, List.getElem?_map, List.getElem?_range hi]
  simp only [Option.map_some, Option.getD_some, getD_down, List.contains_iff_mem]

/-- What is rounded away and what is left of each add up to whole units. -/
theorem sum_down (l : List Nat) (tot : Nat) (h : tot ≠ 0) :
    (l.map (fun a => e * a / tot)).sum * tot + (l.map (fun a => e * a % tot)).sum = e * l.sum ∧
      (l.map (fun a => e * a % tot)).sum ≤ l.length * tot := by
  induction l with
  | nil => simp
  | cons a l ih =>
    obtain ⟨h1, h2⟩ := ih
    simp only [List.map_cons, List.sum_cons, List.length_cons]
    have hd := Nat.div_add_mod (e * a) tot
    have hm := Nat.mod_lt (e * a) (Nat.pos_of_ne_zero h)
    refine ⟨?_, ?_⟩
    · rw [Nat.mul_add, ← h1, Nat.add_mul, Nat.mul_comm (e * a / tot)]
      omega
    · rw [Nat.add_mul]
      omega

theorem sum_range_getD (l : List Nat) (f : Nat → Nat) : ((List.range l.length).map (fun i => f (l.getD i 0))).sum = (l.map f).sum := by
  congr 1
  refine List.ext_getElem (by simp) fun i h1 h2 => ?_
  simp only [List.length_map, List.length_range] at h1
  simp [h1]

theorem roundedUp_nodup : (roundedUp e acts).Nodup := by
  have hall : ((shareOrder e acts).map (·.1)).Nodup := (shareOrder_fst e acts).nodup_iff.mpr List.nodup_range
  unfold roundedUp
  rw [List.map_take]
  exact hall.sublist (List.take_sublist ..)

theorem mem_roundedUp {i : Nat} (h : i ∈ roundedUp e acts) : i < acts.length := by
  obtain ⟨x, hx, rfl⟩ := List.mem_map.mp h
  exact (mem_shareOrder e acts (List.mem_of_mem_take hx)).1

theorem leftOver_spec (h : acts.sum ≠ 0) : leftOver e acts ≤ acts.length ∧ (acts.map (fun a => e * a / acts.sum)).sum + leftOver e acts = e := by
  obtain ⟨hsum, hle⟩ := sum_down e acts acts.sum h
  have hpos : 0 < acts.sum := Nat.pos_of_ne_zero h
  have hlo : (acts.map (fun a => e * a / acts.sum)).sum ≤ e := by
    refine Nat.le_of_mul_le_mul_right ?_ hpos
    omega
  unfold leftOver
  refine ⟨Nat.le_of_mul_le_mul_right ?_ hpos, by omega⟩
  rw [Nat.sub_mul]
  omega

theorem sum_shares (h : acts.sum ≠ 0) : (shares e acts).sum = e := by
  obtain ⟨hle, hsum⟩ := leftOver_spec e acts h
  have hlen : (roundedUp e acts).length = leftOver e acts := by
    have horder : (shareOrder e acts).length = acts.length := by
      have := (shareOrder_fst e acts).length_eq
      simpa using this
    simp [roundedUp, horder, hle]
  have hones : ((List.range acts.length).map (fun i => if (roundedUp e acts).contains i then 1 else 0)).sum = (roundedUp e acts).length := by
    have hset : (Finset.range acts.length).filter (fun i => (roundedUp e acts).contains i) = (roundedUp e acts).toFinset := by
      ext i
      simp only [Finset.mem_filter, Finset.mem_range, List.contains_iff_mem, List.mem_toFinset]
      exact ⟨fun h => h.2, fun h => ⟨mem_roundedUp e acts h, h⟩⟩
    show ∑ i ∈ Finset.range acts.length, (if (roundedUp e acts).contains i then 1 else 0) = _
    rw [← Finset.card_filter, hset, List.toFinset_card_of_nodup (roundedUp_nodup e acts)]
  have hdown : ((List.range acts.length).map (fun i => (acts.map (fun a => e * a / acts.sum)).getD i 0)).sum =
      (acts.map (fun a => e * a / acts.sum)).sum := by
    simp only [getD_down]
    exact sum_range_getD acts (fun a => e * a / acts.sum)
  rw [shares_eq, List.sum_map_add, hdown, hones, hlen, hsum]

/-- One is added to the largest fractional parts, ties to the earlier activity. -/
theorem shares_order {i j : Nat} (hi : i < acts.length) (hj : j < acts.length)
    (h1 : (shares e acts).getD i 0 = e * acts.getD i 0 / acts.sum) (h2 : (shares e acts).getD j 0 = e * acts.getD j 0 / acts.sum + 1) :
    fraction e acts i < fraction e acts j ∨ fraction e acts i = fraction e acts j ∧ j < i := by
  have hup : i ∉ roundedUp e acts := fun hm => by
    rw [getD_shares e acts hi, if_pos hm] at h1
    omega
  have hjup : j ∈ roundedUp e acts := by
    by_contra hm
    rw [getD_shares e acts hj, if_neg hm] at h2
    omega
  obtain ⟨y, hy, rfl⟩ := List.mem_map.mp hjup
  have hmem : i ∈ (shareOrder e acts).map (·.1) := (shareOrder_fst e acts).mem_iff.mpr (List.mem_range.mpr hi)
  obtain ⟨x, hx, rfl⟩ := List.mem_map.mp hmem
  have hxdrop : x ∈ (shareOrder e acts).drop (leftOver e acts) := by
    rw [← List.take_append_drop (leftOver e acts) (shareOrder e acts), List.mem_append] at hx
    exact hx.resolve_left fun h => hup (List.mem_map_of_mem h)
  have hsorted := shareOrder_sorted e acts
  rw [← List.take_append_drop (leftOver e acts) (shareOrder e acts), List.pairwise_append] at hsorted
  have hbefore := hsorted.2.2 y hy x hxdrop
  unfold before at hbefore
  unfold fraction
  rw [← (mem_shareOrder e acts (List.mem_of_mem_take hy)).2, ← (mem_shareOrder e acts (List.mem_of_mem_drop hxdrop)).2]
  exact hbefore

end

/-! ### What a request takes of a tick (R392) -/

/-- A request that covers the tick takes the shares of its job, and the device's energy. -/
theorem take_covered {k : TickE} {r : Req} (parts : List (Nat × Nat × Nat × Nat)) (hstart : r.start ≤ k.num)
    (hlast : ∀ l, r.last = some l → k.num ≤ l) :
    let p := ((parts.find? (fun x => x.1 == r.job)).map (·.2)).getD (0, 0, 0)
    Req.take k parts r = { r with
      comp := r.comp + p.1, memE := r.memE + p.2.1, link := r.link + p.2.2, dev := r.dev + k.e, peak := max r.peak k.peak,
      capTicks := r.capTicks + b2n k.capped, low := r.low || k.low, fault := r.fault || k.fault } := by
  have hno : ¬ (k.num < r.start ∨ r.last.any (fun l => decide (l < k.num)) = true) := by
    rintro (h | h)
    · omega
    · cases hl : r.last with
      | none => simp [hl] at h
      | some l =>
        have := hlast l hl
        simp only [hl, Option.any_some, decide_eq_true_eq] at h
        omega
  exact if_neg hno

theorem take_other {k : TickE} {r : Req} (parts : List (Nat × Nat × Nat × Nat))
    (h : k.num < r.start ∨ ∃ l, r.last = some l ∧ l < k.num) : Req.take k parts r = r := by
  refine if_pos (h.imp_right ?_)
  rintro ⟨l, hl, hlt⟩
  simp [hl, hlt]

/-- The parts of a tick: each job's compute, memory and link shares. -/
def tickParts (k : TickE) : List (Nat × Nat × Nat × Nat) :=
  let sh := shares k.e (k.acts.flatMap (fun a => [a.2.2.1, a.2.2.2.1, a.2.2.2.2]))
  ((List.range k.acts.length).zip k.acts).map (fun z =>
    (z.2.2.1, sh.getD (3 * z.1) 0, sh.getD (3 * z.1 + 1) 0, sh.getD (3 * z.1 + 2) 0))

theorem find_tickParts {k : TickE} {j job : Nat} (hj : j < k.acts.length) (hnodup : (k.acts.map (·.2.1)).Nodup)
    (hjob : (k.acts.map (·.2.1)).getD j 0 = job) :
    let sh := shares k.e (k.acts.flatMap (fun a => [a.2.2.1, a.2.2.2.1, a.2.2.2.2]))
    (tickParts k).find? (fun x => x.1 == job) = some (job, sh.getD (3 * j) 0, sh.getD (3 * j + 1) 0, sh.getD (3 * j + 2) 0) := by
  intro sh
  have hlen : (tickParts k).length = k.acts.length := by simp [tickParts]
  have hget (i : Nat) (hi : i < k.acts.length) : (tickParts k)[i]'(hlen.symm ▸ hi) =
      ((k.acts[i]).2.1, sh.getD (3 * i) 0, sh.getD (3 * i + 1) 0, sh.getD (3 * i + 2) 0) := by
    simp [tickParts, sh]
  have hjob' : (k.acts[j]).2.1 = job := by
    rw [← hjob]
    simp [hj]
  have hpair := List.pairwise_iff_getElem.mp hnodup
  rw [List.find?_eq_some_iff_getElem]
  refine ⟨by simp, j, hlen.symm ▸ hj, ?_, fun i hi => ?_⟩
  · rw [hget j hj, hjob']
  · have hij := hpair i j (by simp; omega) (by simpa using hj) hi
    rw [hget i (by omega)]
    simp only [List.getElem_map, hjob'] at hij
    simpa using hij

theorem giveTick_runs (k : TickE) (m : Mtr) (i : Nat) (hrest : k.rest = false) :
    let flat := k.acts.flatMap (fun a => [a.2.2.1, a.2.2.2.1, a.2.2.2.2])
    (flat.sum = 0 → (giveTick k m).runs[i]? = (m.runs[i]?).map (Req.take k []) ∧ (giveTick k m).overhead = m.overhead + k.e) ∧
    (flat.sum ≠ 0 → (giveTick k m).runs[i]? = (m.runs[i]?).map (Req.take k (tickParts k)) ∧ (giveTick k m).overhead = m.overhead) := by
  intro flat
  unfold giveTick
  rw [hrest]
  dsimp only
  refine ⟨fun h => ?_, fun h => ?_⟩
  · rw [if_neg Bool.false_ne_true, if_pos h]
    exact ⟨List.getElem?_map, rfl⟩
  · rw [if_neg Bool.false_ne_true, if_neg h]
    exact ⟨List.getElem?_map, rfl⟩

/-- What a running request takes of a tick. -/
theorem giveTick_request {k : TickE} {m : Mtr} {i : Nat} {r : Req} (hrest : k.rest = false) (hr : m.runs[i]? = some r) :
    let flat := k.acts.flatMap (fun a => [a.2.2.1, a.2.2.2.1, a.2.2.2.2])
    let sh := shares k.e flat
    let m' := giveTick k m
    (r.start ≤ k.num → (∀ l, r.last = some l → k.num ≤ l) →
      ∃ r', m'.runs[i]? = some r' ∧ r'.dev = r.dev + k.e ∧ r'.peak = max r.peak k.peak ∧
        (flat.sum = 0 → m'.overhead = m.overhead + k.e ∧ r'.comp = r.comp ∧ r'.memE = r.memE ∧ r'.link = r.link) ∧
        (flat.sum ≠ 0 → m'.overhead = m.overhead ∧ ∀ j < k.acts.length, (k.acts.map (·.2.1)).Nodup →
          (k.acts.map (·.2.1)).getD j 0 = r.job →
          r'.comp = r.comp + sh.getD (3 * j) 0 ∧ r'.memE = r.memE + sh.getD (3 * j + 1) 0 ∧
          r'.link = r.link + sh.getD (3 * j + 2) 0)) ∧
    (k.num < r.start ∨ (∃ l, r.last = some l ∧ l < k.num) → m'.runs[i]? = some r) := by
  intro flat sh m'
  obtain ⟨hzero, hsome⟩ := giveTick_runs k m i hrest
  rw [hr] at hzero hsome
  refine ⟨fun hstart hlast => ?_, fun hno => ?_⟩
  · by_cases hsum : flat.sum = 0
    · obtain ⟨hruns, hover⟩ := hzero hsum
      refine ⟨_, hruns, ?_, ?_, fun _ => ⟨hover, ?_, ?_, ?_⟩, fun h => absurd hsum h⟩ <;> rw [take_covered [] hstart hlast] <;> rfl
    · obtain ⟨hruns, hover⟩ := hsome hsum
      refine ⟨_, hruns, ?_, ?_, fun h => absurd h hsum, fun _ => ⟨hover, fun j hj hnodup hjob => ?_⟩⟩
      · rw [take_covered _ hstart hlast]
      · rw [take_covered _ hstart hlast]
      · rw [take_covered _ hstart hlast, find_tickParts hj hnodup hjob]
        exact ⟨rfl, rfl, rfl⟩
  · by_cases hsum : flat.sum = 0
    · exact (hzero hsum).1.trans (congrArg some (take_other _ hno))
    · exact (hsome hsum).1.trans (congrArg some (take_other _ hno))

end Sys2Proof.Machine
end

section
/-! SUPPORT. Meter samples, requests and firkin records (R387 to R395), and the tick that a boundary closes (R390). -/

namespace Sys2Proof.Machine

/-! ### The tick in hand -/

/-- The closed ticks and the tick in hand are the same. -/
structure TicksSame (s t : State) : Prop where
  ticks : t.mtr.ticks = s.mtr.ticks
  cur : t.mtr.cur = s.mtr.cur

theorem TicksSame.of_mtr {s t : State} (h : t.mtr = s.mtr) : TicksSame s t := ⟨by rw [h], by rw [h]⟩

theorem TicksSame.of_keeps {s t : State} {ps : List Part} (k : Keeps ps s t) (h : .mtr ∉ ps := by decide) : TicksSame s t :=
  .of_mtr (k.1 .mtr h)

theorem TicksSame.trans {s t u : State} (h : TicksSame s t) (k : TicksSame t u) : TicksSame s u :=
  ⟨k.ticks.trans h.ticks, k.cur.trans h.cur⟩

theorem keepFirkin_mtr (f : Firkin) (s : State) : ∃ kept, (keepFirkin f s).mtr = { s.mtr with kept := kept } ∧ f ∈ kept := by
  unfold keepFirkin
  extract_lets all src s1
  split
  · exact ⟨all, rfl, by simp [all]⟩
  next hlong =>
    have hf : f ∈ all.drop 1 := by
      have hkept : s.mtr.kept ≠ [] := fun h => hlong (by simp [all, h])
      obtain ⟨x, xs, hx⟩ := List.exists_cons_of_ne_nil hkept
      simp [all, hx]
    have hmtr : s1.mtr = { s.mtr with kept := all.drop 1 } := rfl
    refine ⟨all.drop 1, ?_, hf⟩
    clear_value s1 all
    cases all with
    | nil => exact hmtr
    | cons old tail =>
      dsimp only
      split
      · exact hmtr
      · rw [(raise_keeps ..).1 .mtr (by decide), (setReg_keeps ..).1 .mtr (by decide), hmtr]

theorem mirrorPtr_counts (s : State) :
    Keeps [.cnt, .mem, .poison, .epochs, .tasks, .crm, .hbm, .ecc, .cw, .ls, .ldl, .act] s (mirrorPtr s) := by
  unfold mirrorPtr
  dsimp only
  split
  · exact wrBytes_counts ..
  · exact .refl

/-! ### The record that is signed (R392, R394, R395) -/

/-- The signed bytes of a request's record. -/
def firkinBytes (s : State) (r : Req) : List Byte :=
  firkinBody s (s.mtr.seq + 1) r ++ Config.pssSign (1 + s.sec.keyGen) (firkinBody s (s.mtr.seq + 1) r)

/-- The ring has room for a record, and answers. -/
def firkinRoom (s : State) : Bool :=
  let q := getReg s pwr1 0x238
  decide ((fld q 9 0 + 1) % 1024 ≠ fld q 25 16) && access s (firkinSlot s (fld q 9 0)) == .ok &&
    access s (firkinSlot s (fld q 9 0) + 511) == .ok

/-- The record is numbered, and its request has ended for good. -/
def firkinNumbered (s : State) (r : Req) : State :=
  { s with mtr := { s.mtr with seq := s.mtr.seq + 1, ended := s.mtr.ended.erase r } }

/-- The record stands in the ring, or the ring's loss is noted. -/
def firkinPlaced (s : State) (r : Req) : State :=
  let q := getReg s pwr1 0x238
  if firkinRoom s then mirrorPtr (setReg pwr1 0x238 (setFld q 9 0 ((fld q 9 0 + 1) % 1024))
    (wrBytes 2 (firkinSlot s (fld q 9 0)) (firkinBytes s r) (firkinNumbered s r)))
  else setReg pwr1 0x248 (word (s.mtr.seq + 1)) (firkinNumbered s r)

/-- The record as MRAM keeps it. -/
def firkinKept (s : State) (r : Req) : Firkin :=
  { seq := s.mtr.seq + 1, bytes := firkinBytes s r, ring := if firkinRoom s then some (fld (getReg s pwr1 0x238) 9 0) else none,
    read := false }

theorem firkinEffect_go {s : State} {r : Req} (h : s.mtr.ended.find? (reqReady s) = some r) : firkinEffect s =
    intSet pwr1 1 (setReg pwr1 0x240 (word (s.mtr.seq + 1)) (keepFirkin (firkinKept s r) (journal 512 (firkinPlaced s r)))) := by
  unfold firkinEffect
  rw [h]
  rfl

theorem firkinPlaced_counts (s : State) (r : Req) : (firkinPlaced s r).mtr = (firkinNumbered s r).mtr := by
  unfold firkinPlaced
  dsimp only
  split
  · rw [(mirrorPtr_counts ..).1 .mtr (by decide), (setReg_keeps ..).1 .mtr (by decide), (wrBytes_counts ..).1 .mtr (by decide)]
  · exact (setReg_keeps ..).1 .mtr (by decide)

theorem firkinEffect_mtr {s : State} {r : Req} (h : s.mtr.ended.find? (reqReady s) = some r) :
    ∃ kept, (firkinEffect s).mtr = { s.mtr with seq := s.mtr.seq + 1, ended := s.mtr.ended.erase r, kept := kept } ∧ firkinKept s r ∈ kept := by
  obtain ⟨kept, hmtr, hin⟩ := keepFirkin_mtr (firkinKept s r) (journal 512 (firkinPlaced s r))
  refine ⟨kept, ?_, hin⟩
  rw [firkinEffect_go h, (intSet_keeps ..).1 .mtr (by decide), (setReg_keeps ..).1 .mtr (by decide), hmtr,
    (journal_keeps ..).1 .mtr (by decide), firkinPlaced_counts]
  rfl

theorem firkinEffect_ticksSame (s : State) : TicksSame s (firkinEffect s) := by
  cases h : s.mtr.ended.find? (reqReady s) with
  | none =>
    unfold firkinEffect
    rw [h]
    exact .of_mtr rfl
  | some r =>
    obtain ⟨kept, hmtr, -⟩ := firkinEffect_mtr h
    exact ⟨by rw [hmtr], by rw [hmtr]⟩

theorem length_firkinBytes (s : State) (r : Req) : (firkinBody s (s.mtr.seq + 1) r).length = 128 ∧ (firkinBytes s r).length = 512 := by
  have hbody : (firkinBody s (s.mtr.seq + 1) r).length = 128 := length_wordsBytes _
  refine ⟨hbody, ?_⟩
  unfold firkinBytes Config.pssSign
  rw [List.length_append, hbody]
  simp

/-- The registers of the ring after a record. -/
theorem getReg_firkinEffect {s : State} {r : Req} (h : s.mtr.ended.find? (reqReady s) = some r) {o : Nat}
    (ho : o = 0x238 ∨ o = 0x248) : getReg (firkinEffect s) pwr1 o = getReg (firkinPlaced s r) pwr1 o := by
  have hkeep (u : State) : getReg (keepFirkin (firkinKept s r) u) pwr1 o = getReg u pwr1 o := by
    unfold keepFirkin
    dsimp only
    split
    · rfl
    · split
      · split
        · rfl
        · rw [getReg_raise_high (by omega) (by omega), getReg_setReg_ne (by unfold regKey; omega)]
          rfl
      · rfl
  rw [firkinEffect_go h, getReg_intSet_high (by omega) (by omega), getReg_setReg_ne (by unfold regKey; omega), hkeep,
    getReg_congr ((journal_keeps ..).1 .regs (by decide))]

theorem firkinEffect_mem {s : State} {r : Req} (h : s.mtr.ended.find? (reqReady s) = some r) :
    (firkinEffect s).mem = (firkinPlaced s r).mem := by
  rw [firkinEffect_go h, (intSet_keeps ..).1 .mem (by decide), (setReg_keeps ..).1 .mem (by decide),
    (keepFirkin_keeps ..).1 .mem (by decide), (journal_keeps ..).1 .mem (by decide)]

/-- With room the record's bytes stand in the ring, and its index has moved on. -/
theorem firkinPlaced_room {s : State} (r : Req) (hinv : s.Inv) (h : firkinRoom s = true) :
    memBytes (firkinPlaced s r).mem (firkinSlot s (fld (getReg s pwr1 0x238) 9 0)) 512 = firkinBytes s r ∧
      fld (getReg (firkinPlaced s r) pwr1 0x238) 9 0 = (fld (getReg s pwr1 0x238) 9 0 + 1) % 1024 := by
  obtain ⟨u, hu⟩ : ∃ u, u = setReg pwr1 0x238 (setFld (getReg s pwr1 0x238) 9 0 ((fld (getReg s pwr1 0x238) 9 0 + 1) % 1024))
    (wrBytes 2 (firkinSlot s (fld (getReg s pwr1 0x238) 9 0)) (firkinBytes s r) (firkinNumbered s r)) := ⟨_, rfl⟩
  have hplaced : firkinPlaced s r = mirrorPtr u := by
    rw [hu]
    exact if_pos h
  have hmem : u.mem = memStore s.mem (firkinSlot s (fld (getReg s pwr1 0x238) 9 0)) (firkinBytes s r) := by
    rw [hu, (setReg_keeps ..).1 .mem (by decide), wrBytes_mem]
    rfl
  have hbase : firkinBase u = firkinBase s := by
    have hreg : getReg u pwr1 0x230 = getReg s pwr1 0x230 := by
      rw [hu, getReg_setReg_ne (by decide), getReg_congr ((wrBytes_counts ..).1 .regs (by decide))]
      rfl
    rw [firkinBase, firkinBase, regFld, regFld, hreg]
  have hown : memBytes u.mem (firkinSlot s (fld (getReg s pwr1 0x238) 9 0)) 512 = firkinBytes s r := by
    have hb := memBytes_memStore hinv (firkinSlot s (fld (getReg s pwr1 0x238) 9 0)) (firkinBytes s r)
    rwa [(length_firkinBytes s r).2, ← hmem] at hb
  rw [hplaced]
  refine ⟨?_, ?_⟩
  · have hwf : Memory.wf u.mem = true := by
      rw [hmem]
      exact memStore_wf hinv
    unfold mirrorPtr
    dsimp only
    split
    · rw [wrBytes_mem, memBytes_memStore_disjoint hwf (.inr ?_), hown]
      rw [hbase]
      unfold firkinSlot
      simp
      omega
    · exact hown
  · rw [getReg_congr ((mirrorPtr_counts ..).1 .regs (by decide)), hu, getReg_setReg_same, fld_setFld _ _ _ _ (by decide)]
    exact Nat.mod_mod_of_dvd _ (by decide)

/-- Without it the record is lost to the ring alone. -/
theorem firkinPlaced_full {s : State} (r : Req) (h : firkinRoom s = false) :
    firkinPlaced s r = setReg pwr1 0x248 (word (s.mtr.seq + 1)) (firkinNumbered s r) := if_neg (by simp [h])

/-! ### The boundary closes the tick -/

theorem emitRecord_ticksSame (e : ErrEvent) (r : RecInfo) (s : State) : TicksSame s (emitRecord e r s) := by
  have hsign (l : List Req) (u : State) : TicksSame u (l.foldl (fun v _ => firkinEffect v) u) := by
    induction l generalizing u with
    | nil => exact .of_mtr rfl
    | cons r l ih => exact (firkinEffect_ticksSame u).trans (ih _)
  unfold emitRecord
  extract_lets u seq bs logged all old s1 s2
  have hs1 : TicksSame s s1 := (hsign ..).trans (.of_mtr rfl)
  have hs2 : TicksSame s s2 := hs1.trans (.of_keeps (journal_keeps ..))
  split
  · exact hs2
  · exact hs2.trans (.of_keeps (ringPut_keeps ..))

theorem fwBoundary_ticksSame (s : State) : TicksSame s (fwBoundary s) := by
  have hflip (g : Nat) (b : Bool) (u : State) : TicksSame u (fwFlip g b u) := by
    unfold fwFlip
    extract_lets old src s1 d
    have hs1 : TicksSame u s1 := .of_mtr ((journal_keeps ..).1 .mtr (by decide))
    exact hs1.trans (emitRecord_ticksSame ..)
  have hfold (l : List Nat) (u : State) : TicksSame u (l.foldl (fun u x => fwFlip (x % 8) (decide (8 ≤ x)) u) u) := by
    induction l generalizing u with
    | nil => exact .of_mtr rfl
    | cons x l ih => exact (hflip ..).trans (ih _)
  exact TicksSame.trans (t := { s with sec := { s.sec with switching := [] } }) (.of_mtr rfl) (hfold ..)

theorem reqBoundary_ticksSame (closed : Nat) (s : State) : TicksSame s (reqBoundary closed s) := by
  unfold reqBoundary
  extract_lets gone ends s1 meas start s2
  have hs1 : TicksSame s s1 := ⟨rfl, rfl⟩
  have hstart (u : State) (x : Nat × Word) : TicksSame u (start u x) := by
    unfold start
    extract_lets j r
    split
    · exact ⟨rfl, rfl⟩
    · exact .of_keeps (raise_keeps ..)
  have hfold (l : List (Nat × Word)) (u : State) : TicksSame u (l.foldl start u) := by
    induction l generalizing u with
    | nil => exact .of_mtr rfl
    | cons x l ih => exact (hstart ..).trans (ih _)
  exact (hs1.trans (hfold ..)).trans ⟨rfl, rfl⟩

theorem phaseE5_ticksSame (closed : Nat) (s : State) : TicksSame s (phaseE5 closed s) := by
  have hslots : TicksSame s ((List.range 32).foldl slotE5 s) :=
    .of_keeps (ps := [.out, .regs, .cnt, .eng, .tck, .ldl, .rel, .lnk, .keys, .sys]) (Keeps.foldl .refl fun _ _ h => h.step (slotE5_keeps ..))
  have hmaps (u : State) : TicksSame u ((List.range 32).foldl slotMap u) :=
    .of_keeps (ps := [.cnt, .tck]) (Keeps.foldl .refl fun _ _ h => h.step (slotMap_keeps ..))
  unfold phaseE5
  extract_lets s1 s2 s3
  have hs2 : TicksSame s s2 := (hslots.trans (hmaps _)).trans (.of_keeps (closeWaits_keeps ..))
  clear_value s1 s2
  have hs3 : TicksSame s s3 := hs2.trans (.of_mtr rfl)
  exact (hs3.trans (fwBoundary_ticksSame _)).trans (reqBoundary_ticksSame ..)

/-- What phase M closes (R390). -/
def closedTick (s : State) (k : TickE) : Prop :=
  k.num = s.tck.num ∧ k.dur = tickNs s - s.mtr.cut ∧ k.acts = tickActs s ∧ k.e = s.mtr.cur.e ∧ k.rest = s.mtr.split

theorem phaseM_closes (s : State) : ∃ k, closedTick s k ∧ (phaseM s).mtr.ticks = s.mtr.ticks ++ [k] ∧ (phaseM s).mtr.cur = {} := by
  obtain ⟨u, hu⟩ : ∃ u, u = estimate (openTick s) := ⟨_, rfl⟩
  have hk : Keeps [.cnt, .free, .pwr] s u :=
    hu ▸ (Keeps.mono (openTick_keeps s) (by decide)).step (estimate_keeps ..)
  have hreg (p o : Nat) : getReg u p o = getReg s p o := getReg_congr (hk.1 .regs (by decide)) p o
  have hticks : tickNs u = tickNs s := by rw [tickNs, tickNs, regFld, regFld, hreg]
  have hmtr : u.mtr = s.mtr := hk.1 .mtr (by decide)
  have htck : u.tck = s.tck := hk.1 .tck (by decide)
  have hact : u.act = s.act := hk.1 .act (by decide)
  have hacts : tickActs u = tickActs s := by
    unfold tickActs slotNo slotOfJob actOf getSlot
    rw [hact, htck]
  have hclose : (closeTick u).mtr.ticks = s.mtr.ticks ++ [_] ∧ (closeTick u).mtr.cur = {} :=
    ⟨congrArg (fun m : Mtr => m.ticks ++ [_]) hmtr, rfl⟩
  obtain ⟨hc1, hc2⟩ := hclose
  have hlater : TicksSame (closeTick u) (phaseM s) := by
    unfold phaseM
    rw [← hu]
    extract_lets s1 src s2
    have hs1 : TicksSame (closeTick u) s1 :=
      ((TicksSame.of_keeps (countStalls_keeps ..)).trans (.of_keeps (trimByMarks_keeps ..))).trans (.of_keeps (missMark_keeps ..))
    have hs2 : TicksSame (closeTick u) s2 := hs1.trans (.of_mtr rfl)
    refine (hs2.trans ?_).trans ((TicksSame.of_keeps (bump_keeps ..)).trans (.of_keeps (intSet_keeps ..)))
    split
    · exact .of_keeps (sendMarks_keeps ..)
    · exact .of_mtr rfl
  refine ⟨_, ?_, hlater.ticks.trans hc1, hlater.cur.trans hc2⟩
  refine ⟨congrArg Tck.num htck, ?_, hacts, ?_, ?_⟩
  · rw [← hmtr, ← hticks]
  · rw [← hmtr]
  · rw [← hmtr]

theorem boundary_closes {s : State} (hrel : s.sys.released = true) (hready : (getBlk s tckPage).ready = true) :
    ∃ k, closedTick s k ∧ (boundary s).mtr.ticks = s.mtr.ticks ++ [k] ∧ (boundary s).mtr.cur = {} := by
  obtain ⟨k, hk, hticks, hcur⟩ := phaseM_closes s
  have hlater : TicksSame (phaseM s) (boundary s) := by
    unfold boundary
    rw [if_neg (by simp [hrel, hready])]
    extract_lets closed s1 s2 s3
    split
    · exact (reqBoundary_ticksSame ..).trans (.of_keeps (doorRetry_keeps ..))
    · have hs2 : TicksSame s1 s2 := (TicksSame.of_keeps (background_keeps ..)).trans (.of_keeps
        (ps := [.out, .regs, .cnt, .mem, .poison, .epochs, .tasks, .prov, .eng, .tck, .crm, .hbm, .ecc, .cw, .ls, .ldl, .rel, .act, .lnk,
          .keys, .sys, .free]) (Keeps.foldl .refl fun _ _ h => h.step (phaseS_keeps ..)))
      have hs3 : TicksSame s1 s3 := ((((hs2.trans (.of_keeps (outcomes_keeps ..))).trans (.of_keeps (phaseE2_keeps ..))).trans
        (.of_keeps (phaseE3_keeps ..))).trans (.of_keeps (powerDecision_keeps ..))).trans (phaseE5_ticksSame ..)
      refine (((hs3.trans (.of_keeps (hbmBoundary_keeps ..))).trans (.of_keeps (freshWaits_keeps ..))).trans ?_).trans
        ((TicksSame.of_keeps (stealNotice_keeps ..)).trans (.of_keeps (doorRetry_keeps ..)))
      exact .of_keeps (ps := [.cnt, .tasks, .eng]) (Keeps.foldl .refl fun _ _ h => h.step (admitTick_keeps ..))
  exact ⟨k, hk, hlater.ticks.trans hticks, hlater.cur.trans hcur⟩

/-! ### A sample -/

/-- The requests running and ended are the same ones, and nothing but energies has changed. -/
structure EnergyOnly (m n : Mtr) : Prop where
  total : n.total = m.total
  carry : n.carry = m.carry
  samples : n.samples = m.samples
  low : n.low = m.low
  fault : n.fault = m.fault
  mW : n.mW = m.mW
  calSeq : n.calSeq = m.calSeq
  ticks : n.ticks = m.ticks
  runs : n.runs.map (·.id) = m.runs.map (·.id)
  ended : n.ended.map (·.id) = m.ended.map (·.id)

theorem EnergyOnly.refl (m : Mtr) : EnergyOnly m m := ⟨rfl, rfl, rfl, rfl, rfl, rfl, rfl, rfl, rfl, rfl⟩

theorem EnergyOnly.trans {m n o : Mtr} (h : EnergyOnly m n) (k : EnergyOnly n o) : EnergyOnly m o :=
  ⟨k.total.trans h.total, k.carry.trans h.carry, k.samples.trans h.samples, k.low.trans h.low, k.fault.trans h.fault,
    k.mW.trans h.mW, k.calSeq.trans h.calSeq, k.ticks.trans h.ticks, k.runs.trans h.runs, k.ended.trans h.ended⟩

theorem take_id (k : TickE) (parts : List (Nat × Nat × Nat × Nat)) (r : Req) : (Req.take k parts r).id = r.id := by
  unfold Req.take
  split <;> rfl

theorem map_take_id (k : TickE) (parts : List (Nat × Nat × Nat × Nat)) (l : List Req) :
    (l.map (Req.take k parts)).map (·.id) = l.map (·.id) := by
  rw [List.map_map]
  exact List.map_congr_left fun r _ => take_id k parts r

theorem giveTick_energyOnly (k : TickE) (m : Mtr) : EnergyOnly m (giveTick k m) := by
  unfold giveTick
  extract_lets flat f sh parts g
  split
  · exact ⟨rfl, rfl, rfl, rfl, rfl, rfl, rfl, rfl, rfl, rfl⟩
  · split
    · exact ⟨rfl, rfl, rfl, rfl, rfl, rfl, rfl, rfl, map_take_id .., map_take_id ..⟩
    · exact ⟨rfl, rfl, rfl, rfl, rfl, rfl, rfl, rfl, map_take_id .., map_take_id ..⟩

theorem giveTicks_energyOnly (l : List TickE) (m : Mtr) : EnergyOnly m (l.foldl (fun u t => giveTick t u) m) := by
  induction l generalizing m with
  | nil => exact .refl m
  | cons k l ih => exact (giveTick_energyOnly k m).trans (ih _)

/-- A sample that the tick in hand covers takes nothing of the ticks before it. -/
theorem sampleLens_covered (ticks : List TickE) : (sampleLens ticks 100000).2 = List.replicate ticks.length 0 := by
  have hfold (l : List TickE) (n : Nat) : l.foldl (fun (acc : Nat × List Nat) t => let n := min t.dur acc.1; (acc.1 - n, n :: acc.2))
      (0, List.replicate n 0) = (0, List.replicate (n + l.length) 0) := by
    induction l generalizing n with
    | nil => rfl
    | cons t l ih =>
      rw [List.foldl_cons]
      simp only [Nat.min_zero, Nat.sub_zero]
      rw [← List.replicate_succ, ih, List.length_cons, Nat.add_right_comm]
      rfl
  have h := hfold ticks.reverse 0
  rw [List.length_reverse, Nat.zero_add] at h
  exact congrArg Prod.snd h

theorem rawSum_covered (ticks : List TickE) :
    ((ticks.zip (sampleLens ticks 100000).2).map (fun z => if z.1.dur = 0 then 0 else z.1.raw * z.2 / z.1.dur)).sum = 0 := by
  rw [List.sum_eq_zero_iff]
  intro x hx
  obtain ⟨z, hz, rfl⟩ := List.mem_map.mp hx
  have hz2 := (List.of_mem_zip hz).2
  rw [sampleLens_covered] at hz2
  simp [List.eq_of_mem_replicate hz2]

/-! ### Opening and closing -/

/-- A write that closes notes the slot. -/
def closingNoted (s : State) (slot : Nat) (v : Word) : Mtr :=
  if bit v 1 = true ∧ slot ∉ s.mtr.closing then { s.mtr with closing := s.mtr.closing ++ [slot] } else s.mtr

theorem reqCtlEffect_eq (slot : Nat) (v : Word) (s : State) : reqCtlEffect slot v s =
    if bit v 0 = false ∨ takesWork s pwr1 = false then { s with mtr := closingNoted s slot v }
    else if (mfind s.mtr.staged slot).isNone ∧ 256 ≤ reqEntries s then raise pwr1 9 (0x280 + 8 * slot) { s with mtr := closingNoted s slot v }
    else { s with mtr := { closingNoted s slot v with staged := mput s.mtr.staged slot (getReg s pwr1 (0x400 + 8 * slot)) } } := by
  unfold reqCtlEffect closingNoted
  dsimp only
  by_cases h : bit v 1 = true ∧ slot ∉ s.mtr.closing
  · simp only [List.contains_iff_mem, Bool.eq_false_iff, ne_eq, h, not_false_eq_true, and_self, if_true]
  · have h' : ¬ (bit v 1 = true ∧ s.mtr.closing.contains slot = false) := by simpa using h
    rw [if_neg h, if_neg h']

theorem bit_or_one (v : Word) : bit (v ||| 1) 0 = true ∧ bit (v ||| 1) 1 = bit v 1 := by
  constructor <;> simp [bit]

theorem bit_or_two (v : Word) : bit (v ||| 2) 1 = true ∧ bit (v ||| 2) 0 = bit v 0 := by
  constructor <;> simp [bit]

theorem raisedAt_of_mtr {s : State} (m : Mtr) {page i off : Nat} {t : State} (h : raisedAt { s with mtr := m } t page i off) :
    raisedAt s t page i off := h

/-- What a channel reads, through the gain and the offset of the record in use. -/
def channelReads (s : State) (ch : Nat) (raw : BitVec 24) : Nat :=
  ((raw.toNat : Int) * Config.calGain (calInUse s) ch + Config.calOffset (calInUse s) ch).toNat

/-- What a sample of the voltage `v` and the current `i` leaves. -/
structure Sampled (v i sinceNs : Nat) (fault : Bool) (s t : State) : Prop where
  total : t.mtr.total = s.mtr.total + (s.mtr.carry + v * i) / 10 ^ 16
  carry : t.mtr.carry = (s.mtr.carry + v * i) % 10 ^ 16
  samples : t.mtr.samples = s.mtr.samples + 1
  low : t.mtr.low = decide (v * i / 10 ^ 15 < 300000)
  fault : t.mtr.fault = fault
  mW : t.mtr.mW = v * i / 10 ^ 15
  calSeq : t.mtr.calSeq = vtSeq (calInUse s)
  ticks : t.mtr.ticks = []
  runs : t.mtr.runs.map (·.id) = s.mtr.runs.map (·.id)
  ended : t.mtr.ended.map (·.id) = s.mtr.ended.map (·.id)
  vin : t.pwr.vin = v / 10 ^ 6
  iin : t.pwr.iin = i / 10 ^ 7
  measured : t.pwr.measured = v * i / 10 ^ 18
  rawAcc : 100000 ≤ sinceNs - s.mtr.cut → t.pwr.rawAcc = rawEnergy s 100000
  ratio : t.pwr.k = if t.pwr.rawAcc = 0 then s.pwr.k
    else Sys2Proof.Num.r32 (Sys2Proof.Num.divVal (Sys2Proof.Num.ofNat (v * i)) (Sys2Proof.Num.ofNat (10 ^ 13 * t.pwr.rawAcc)))

theorem sampleEffect_sampled (rawV rawI : BitVec 24) (sinceNs : Nat) (fault : Bool) {s : State} (h : s.sys.powered = true) :
    Sampled (channelReads s 0 rawV) (channelReads s 1 rawI) sinceNs fault s (sampleEffect rawV rawI sinceNs fault s) := by
  obtain ⟨u, hu⟩ : ∃ u, u = sampleEffect rawV rawI sinceNs fault s := ⟨_, rfl⟩
  rw [← hu]
  unfold sampleEffect at hu
  rw [if_neg (by simp [h])] at hu
  extract_lets m v i tot e mW low w inCur lens parts mark done m1 p raw k s1 at hu
  have henergy : EnergyOnly m1 s1.mtr := giveTicks_energyOnly done m1
  have hmtr : u.mtr = s1.mtr := by
    rw [hu]
    split
    · exact (raise_keeps ..).1 .mtr (by decide)
    · rfl
  have hpwr : u.pwr = s1.pwr := by
    rw [hu]
    split
    · exact (raise_keeps ..).1 .pwr (by decide)
    · rfl
  refine ⟨?_, ?_, ?_, ?_, ?_, ?_, ?_, ?_, ?_, ?_, ?_, ?_, ?_, fun hcut => ?_, ?_⟩
  · exact (congrArg Mtr.total hmtr).trans henergy.total
  · exact (congrArg Mtr.carry hmtr).trans henergy.carry
  · exact (congrArg Mtr.samples hmtr).trans henergy.samples
  · exact (congrArg Mtr.low hmtr).trans henergy.low
  · exact (congrArg Mtr.fault hmtr).trans henergy.fault
  · exact (congrArg Mtr.mW hmtr).trans henergy.mW
  · exact (congrArg Mtr.calSeq hmtr).trans henergy.calSeq
  · exact (congrArg Mtr.ticks hmtr).trans henergy.ticks
  · rw [hmtr]
    exact henergy.runs
  · rw [hmtr]
    exact henergy.ended
  · exact congrArg Pwr.vin hpwr
  · exact congrArg Pwr.iin hpwr
  · refine (congrArg Pwr.measured hpwr).trans ?_
    show v * i / 10 ^ 15 / 1000 = v * i / 10 ^ 18
    rw [Nat.div_div_eq_div_mul, ← Nat.pow_add 10 15 3]
  · have hcur : inCur = 100000 := Nat.min_eq_left hcut
    have hraw : raw = rawEnergy s 100000 := by
      show ((m.ticks.zip (sampleLens m.ticks inCur).2).map _).sum + rawEnergy s inCur = _
      rw [hcur, rawSum_covered, Nat.zero_add]
    exact (congrArg Pwr.rawAcc hpwr).trans hraw
  · rw [hpwr]
    rfl

theorem sampleEffect_fault (rawV rawI : BitVec 24) (sinceNs : Nat) {s : State} (h : s.sys.powered = true) :
    bit (getReg (sampleEffect rawV rawI sinceNs true s) pwr1 0x20) 10 = true := by
  unfold sampleEffect
  rw [if_neg (by simp [h])]
  exact (raisedAt_raise _ _ _ (by decide)).1

/-- How energy is shared: closing a tick, splitting a sample, sharing a tick and giving it to the requests. -/
theorem energyIsShared_holds : energyIsShared := by
  refine ⟨fun s hrel hready => ?_, fun e tot n ns hsum htot => ?_, fun e acts hsum => ?_, fun k m hrest => if_pos hrest,
    fun k m i r hrest => ?_⟩
  · obtain ⟨k, hk, hticks, hcur⟩ := boundary_closes hrel hready
    obtain ⟨hnum, hdur, hacts, he, hsplit⟩ := hk
    exact ⟨_, k, rfl, hticks, hnum, hdur, hacts, he, hsplit, hcur⟩
  · subst hsum
    exact ⟨sum_spread e ns n htot, spread_first e _ n ns htot⟩
  · intro sh down part
    refine ⟨sum_shares e acts hsum, by simp [sh, shares_eq], fun i hi => ?_, fun i hi j hj h1 h2 => shares_order e acts hi hj h1 h2⟩
    have h := getD_shares e acts hi
    split at h
    · exact .inr h
    · exact .inl h
  · intro flat sh m' hr
    exact giveTick_request hrest hr

/-- Settles O58: samples, openings and closings, and firkin records each by their effect; energy by `energyIsShared_holds`. -/
theorem samplesRequestsAndFirkinRecords : Obligations.SamplesRequestsAndFirkinRecords := by
  unfold Obligations.SamplesRequestsAndFirkinRecords
  refine ⟨fun s rawV rawI sinceNs faultV faultI hp => ?_, energyIsShared_holds, fun s who slot v ha => ?_, fun s who slot v ha => ?_,
    fun s r hr => ?_, fun s hnone => ?_⟩
  · intro fault v i
    have hs := sampleEffect_sampled rawV rawI sinceNs fault hp
    refine ⟨_, rfl, hs.total, hs.carry, hs.samples, hs.low, hs.fault, hs.mW, hs.calSeq, hs.ticks, hs.runs, hs.ended, hs.vin, hs.iin,
      hs.measured, hs.rawAcc, hs.ratio, fun hf => ?_, (sampleEffect_keeps ..).1⟩
    show bit (getReg (sampleEffect rawV rawI sinceNs fault s) pwr1 0x20) 10 = true
    rw [hf]
    exact sampleEffect_fault rawV rawI sinceNs hp
  · intro m
    have hm : closingNoted s slot.val (v ||| 1) = m := by
      unfold closingNoted
      rw [(bit_or_one v).2]
    have hexec : exec (.reqOpen who slot v) s = .next (reqCtlEffect slot.val (v ||| 1) s) := congrArg Host.Outcome.next (regGuard_admits ha)
    rw [reqCtlEffect_eq, (bit_or_one v).1, hm] at hexec
    refine ⟨fun hw => ?_, fun hw hroom => ?_, fun hw hfull hnew => ?_⟩
    · rwa [if_pos (.inr hw)] at hexec
    · rwa [if_neg (by simp [hw]), if_neg ?_] at hexec
      rintro ⟨hnone, hge⟩
      exact hroom.elim (by omega) fun h => h (by simpa using hnone)
    · rw [if_neg (by simp [hw]), if_pos ⟨by simp [hnew], hfull⟩] at hexec
      have hkeeps : Keeps [.regs, .out, .mtr, .sys] s { s with mtr := m } := Keeps.refl.set_mtr _ (by decide)
      have hraised : raisedAt { s with mtr := m } (raise pwr1 9 (0x280 + 8 * slot.val) { s with mtr := m }) pwr1 9 (0x280 + 8 * slot.val) :=
        raisedAt_raise _ _ _ (by decide)
      exact ⟨_, hexec, raisedAt_of_mtr m hraised, (raise_keeps ..).1 .mtr (by decide), (hkeeps.step (raise_keeps ..)).1⟩
  · have hexec : exec (.reqClose who slot v) s = .next (reqCtlEffect slot.val (v ||| 2) s) := congrArg Host.Outcome.next (regGuard_admits ha)
    refine ⟨fun h0 => ?_, fun h0 => ?_⟩
    · rw [hexec, reqCtlEffect_eq, (bit_or_two v).2, if_pos (.inl h0), closingNoted, (bit_or_two v).1]
      by_cases hc : slot.val ∈ s.mtr.closing <;> simp [hc]
    · show Host.Outcome.next (regGuard who pwr1 _ (v ||| 2) _ s) = Host.Outcome.next (regGuard who pwr1 _ (v ||| 2 ||| 1) _ s)
      have hv : v ||| 2 ||| 1 = v ||| 2 := by
        refine BitVec.eq_of_getLsbD_eq fun i hi => ?_
        by_cases hi0 : i = 0
        · subst hi0
          have h0' : v.getLsbD 0 = true := h0
          simp [h0']
        · have : (1 : Word).getLsbD i = false := by simp [hi0]
          rw [BitVec.getLsbD_or, this, Bool.or_false]
      rw [hv]
  · obtain ⟨kept, hmtr, hin⟩ := firkinEffect_mtr hr
    obtain ⟨hbody, hbytes⟩ := length_firkinBytes s r
    refine ⟨_, firkinKept s r, rfl, by rw [hmtr]; exact hin, rfl, hbytes, List.take_left' hbody, List.drop_left' hbody, by rw [hmtr],
      by rw [hmtr], by rw [hmtr], by rw [hmtr], ?_, ?_, fun hinv hne h1 h2 => ?_, fun hfull => ?_, (firkinEffect_keeps s).1⟩
    · rw [firkinEffect_go hr, getReg_intSet_high (by decide) (by decide), getReg_setReg_same]
    · rw [firkinEffect_go hr]
      exact bit_intSts_intSet _ _ _ (by decide)
    · have hroom : firkinRoom s = true := by simp [firkinRoom, hne, h1, h2]
      rw [firkinEffect_mem hr, getReg_firkinEffect hr (.inl rfl)]
      exact firkinPlaced_room r hinv hroom
    · have hroom : firkinRoom s = false := by simp [firkinRoom, hfull]
      rw [firkinEffect_mem hr, getReg_firkinEffect hr (.inl rfl), getReg_firkinEffect hr (.inr rfl), firkinPlaced_full r hroom]
      exact ⟨getReg_setReg_same .., getReg_setReg_ne (by decide) _ (firkinNumbered s r), (setReg_keeps ..).1 .mem (by decide)⟩
  · show Host.Outcome.next (firkinEffect s) = _
    unfold firkinEffect
    rw [hnone]

end Sys2Proof.Machine
end

section
/-! SUPPORT. The reliable transport of the Ethernet personality, and the port's own address (R278 to R283). -/

namespace Sys2Proof.Machine

/-! ### Datagrams -/

theorem getConn_setConn (p dev : Nat) (c : Conn) (s : State) : getConn (setConn p dev c s) p dev = c :=
  (mget_mput ..).trans (if_pos rfl)

theorem planeAddr_congr {s t : State} (h : t.regs = s.regs) (p dev : Nat) : planeAddr t p dev = planeAddr s p dev := by
  unfold planeAddr portRole regFld
  rw [getReg_congr h, getReg_congr h]

theorem ipv6_congr {s t : State} (h : t.regs = s.regs) (p : Nat) : ipv6 t p = ipv6 s p := by
  unfold ipv6 devNum devId
  rw [planeAddr_congr h, getReg_congr h]

theorem etherFrame_congr {s t : State} (h : t.regs = s.regs) (p : Nat) (src dst : BitVec 128) (next : Nat) (msg : List Byte) :
    etherFrame t p src dst next msg = etherFrame s p src dst next msg := by
  unfold etherFrame regFld
  rw [getReg_congr h, getReg_congr h, getReg_congr h]

/-- What a datagram is on the wire depends on the registers alone. -/
theorem datagramOut_congr {s t : State} (h : t.regs = s.regs) (p dev : Nat) (d : Datagram) :
    datagramOut t p dev d = datagramOut s p dev d := by
  unfold datagramOut udpFrame regFld
  rw [planeAddr_congr h, ipv6_congr h, getReg_congr h, etherFrame_congr h]

theorem headOk_congr {s t : State} (h : t.regs = s.regs) (p : Nat) (e : EthHead) : headOk t p e = headOk s p e := by
  unfold headOk regFld
  rw [ipv6_congr h, getReg_congr h, getReg_congr h]

theorem dgAck_mkDatagram (s : State) (p dev type psn : Nat) (ks : List Packet) :
    dgAck (mkDatagram s p dev type psn ks) = (getConn s p dev).rxNext % 2 ^ 32 := by
  simp only [dgAck, mkDatagram, fld, nfld, word, BitVec.toNat_ofNat]
  omega

theorem dgPsn_mkDatagram (s : State) (p dev type psn : Nat) (ks : List Packet) :
    dgPsn (mkDatagram s p dev type psn ks) = psn % 2 ^ 32 := by
  simp only [dgPsn, mkDatagram, fld, nfld, word, BitVec.toNat_ofNat]
  omega

theorem dgPsn_lt (d : Datagram) : dgPsn d < 2 ^ 32 := by
  simp only [dgPsn, fld, nfld]
  omega

theorem type_mkDatagram (s : State) (p dev psn : Nat) (ks : List Packet) {type : Nat} (h : type < 16) :
    fld (mkDatagram s p dev type psn ks).w1 19 16 = type := by
  have hdev : devNum s < 2 ^ 14 := fld_lt ..
  have hece : b2n (getConn s p dev).ece ≤ 1 := by
    unfold b2n
    split <;> omega
  simp only [mkDatagram, fld, nfld, word, BitVec.toNat_ofNat]
  omega

/-- What sending changes: the wires, the counters and the connections. -/
structure SendsOnly (s t : State) : Prop where
  keeps : Keeps [.out, .cnt, .lnk] s t
  port : ∀ q, getPort t q = getPort s q

theorem SendsOnly.refl (s : State) : SendsOnly s s := ⟨.refl, fun _ => rfl⟩

theorem SendsOnly.trans {s t u : State} (h : SendsOnly s t) (k : SendsOnly t u) : SendsOnly s u :=
  ⟨h.keeps.trans k.keeps, fun q => (k.port q).trans (h.port q)⟩

theorem SendsOnly.regs {s t : State} (h : SendsOnly s t) : t.regs = s.regs := h.keeps.1 .regs (by decide)

theorem setConn_sendsOnly (p dev : Nat) (c : Conn) (s : State) : SendsOnly s (setConn p dev c s) :=
  ⟨(setConn_keeps ..).mono (by decide), fun _ => rfl⟩

theorem bump_sendsOnly (a b c d : Nat) (s : State) : SendsOnly s (bump a b c d s) :=
  ⟨(bump_keeps ..).mono (by decide), getPort_of_keeps (bump_keeps ..)⟩

theorem getConn_bump (a b c d : Nat) (s : State) (p dev : Nat) : getConn (bump a b c d s) p dev = getConn s p dev := by
  unfold getConn
  rw [(bump_keeps ..).1 .lnk (by decide)]

/-- A connection after a datagram: what was held of its marks and arrivals has been told. -/
def Conn.told (c : Conn) : Conn := { c with ece := false, since := 0 }

theorem Conn.rxNext_told (c : Conn) : c.told.rxNext = c.rxNext := rfl

theorem sendDatagram_spec (p dev : Nat) (d : Datagram) (s : State) :
    SendsOnly s (sendDatagram p dev d s) ∧ (sendDatagram p dev d s).out = s.out ++ [datagramOut s p dev d] ∧
      getConn (sendDatagram p dev d s) p dev = (getConn s p dev).told := by
  obtain ⟨u, hu⟩ : ∃ u, u = putEther p (datagramOut s p dev d) s := ⟨_, rfl⟩
  have hout : u.out = s.out ++ [datagramOut s p dev d] := by
    rw [hu, putEther, (bump_keeps ..).1 .out (by decide)]
    rfl
  have hsends : SendsOnly s u := hu ▸ ⟨(putEther_keeps ..).mono (by decide), getPort_of_keeps (putEther_keeps ..)⟩
  have hlnk : u.lnk = s.lnk := hu ▸ (putEther_keeps ..).1 .lnk (by decide)
  unfold sendDatagram
  rw [← hu]
  dsimp only
  split
  · exact ⟨hsends.trans (setConn_sendsOnly ..), hout, getConn_setConn ..⟩
  next hno =>
    have hnone : mfind s.lnk.conns (connKey p dev) = none := by simpa [hasConn] using hno
    have hnew : getConn s p dev = {} := by rw [getConn, mget, hnone]; rfl
    exact ⟨hsends, hout, by rw [getConn, hlnk]; exact hnew.trans (congrArg Conn.told hnew).symm⟩

/-- A connection whose flight has grown at its end. -/
structure FlightGrows (c d : Conn) : Prop where
  flight : ∃ more, d.flight = c.flight ++ more
  una : d.una = c.una
  cwnd : d.cwnd = c.cwnd
  rxNext : d.rxNext = c.rxNext

theorem FlightGrows.trans {c d e : Conn} (h : FlightGrows c d) (k : FlightGrows d e) : FlightGrows c e := by
  obtain ⟨m, hm⟩ := h.flight
  obtain ⟨n, hn⟩ := k.flight
  exact ⟨⟨m ++ n, by rw [hn, hm, List.append_assoc]⟩, k.una.trans h.una, k.cwnd.trans h.cwnd, k.rxNext.trans h.rxNext⟩

theorem emit_sendsOnly (o : Out) (s : State) : SendsOnly s (emit o s) := ⟨(emit_keeps ..).mono (by decide), fun _ => rfl⟩

theorem connPump_spec (n p dev : Nat) (s : State) :
    SendsOnly s (connPump n p dev s) ∧ FlightGrows (getConn s p dev) (getConn (connPump n p dev s) p dev) := by
  induction n generalizing s with
  | zero => exact ⟨.refl s, ⟨[], (List.append_nil _).symm⟩, rfl, rfl, rfl⟩
  | succ n ih =>
    unfold connPump
    extract_lets c s1 c1
    split
    · exact ⟨.refl s, ⟨[], (List.append_nil _).symm⟩, rfl, rfl, rfl⟩
    next k rest hq =>
      split
      · exact ⟨.refl s, ⟨[], (List.append_nil _).symm⟩, rfl, rfl, rfl⟩
      extract_lets d c2
      have hopen : SendsOnly s s1 ∧ FlightGrows c c1 := by
        by_cases ho : c.opened = true
        · have h1 : s1 = s := if_pos ho
          have hc1 : c1 = c := congrArg (getConn · p dev) h1
          rw [h1, hc1]
          exact ⟨.refl s, ⟨[], (List.append_nil _).symm⟩, rfl, rfl, rfl⟩
        · obtain ⟨v, hv⟩ : ∃ v, v = setConn p dev { c with opened := true } s := ⟨_, rfl⟩
          have h1 : s1 = sendDatagram p dev (mkDatagram s p dev 4 c.psn []) v := (if_neg ho).trans (by rw [hv])
          obtain ⟨hs, -, hc⟩ := sendDatagram_spec p dev (mkDatagram s p dev 4 c.psn []) v
          have hget : getConn v p dev = { c with opened := true } := hv ▸ getConn_setConn ..
          have hc1 : c1 = { c with opened := true }.told := by
            show getConn s1 p dev = _
            rw [h1, hc, hget]
          rw [h1, hc1]
          exact ⟨(hv ▸ setConn_sendsOnly ..).trans hs, ⟨[], (List.append_nil _).symm⟩, rfl, rfl, rfl⟩
      obtain ⟨hs1, hg1⟩ := hopen
      clear_value s1 c1
      obtain ⟨w, hw⟩ : ∃ w, w = emit (.packet p k) (setConn p dev c2 s1) := ⟨_, rfl⟩
      have hget : getConn w p dev = c2 := hw ▸ getConn_setConn p dev c2 s1
      have hsw : SendsOnly s1 w := hw ▸ (setConn_sendsOnly ..).trans (emit_sendsOnly ..)
      obtain ⟨hs2, -, hc2⟩ := sendDatagram_spec p dev d w
      obtain ⟨hs3, hg3⟩ := ih (sendDatagram p dev d w)
      rw [← hw]
      have hg2 : FlightGrows c1 (getConn (sendDatagram p dev d w) p dev) := by
        rw [hc2, hget]
        exact ⟨⟨[d], rfl⟩, rfl, rfl, rfl⟩
      exact ⟨((hs1.trans hsw).trans hs2).trans hs3, (hg1.trans hg2).trans hg3⟩

/-- The flight `ds` sent from `s`: the datagrams `es` go out. -/
structure Resent (p dev : Nat) (ds : List Datagram) (s t : State) (es : List Datagram) : Prop where
  sends : SendsOnly s t
  out : t.out = s.out ++ es.map (datagramOut s p dev)
  packets : es.map (fun e => e.packets) = ds.map (fun e => e.packets)
  psn : es.map dgPsn = ds.map dgPsn
  ack : ∀ e ∈ es, dgAck e = (getConn s p dev).rxNext % 2 ^ 32
  conn : getConn t p dev = if ds = [] then getConn s p dev else (getConn s p dev).told

/-- One datagram of a flight, as it is sent again. -/
def again (p dev : Nat) (u : State) (d : Datagram) : Datagram := mkDatagram u p dev (fld d.w1 19 16) (dgPsn d) d.packets

theorem dgPsn_again (p dev : Nat) (u : State) (d : Datagram) : dgPsn (again p dev u d) = dgPsn d := by
  unfold again
  rw [dgPsn_mkDatagram, Nat.mod_eq_of_lt (dgPsn_lt d)]

theorem dgAck_again (p dev : Nat) (u : State) (d : Datagram) : dgAck (again p dev u d) = (getConn u p dev).rxNext % 2 ^ 32 :=
  dgAck_mkDatagram ..

theorem packets_again (p dev : Nat) (u : State) (d : Datagram) : (again p dev u d).packets = d.packets := by
  unfold again mkDatagram
  rfl

theorem foldl_again (p dev : Nat) (ds : List Datagram) (s : State) :
    ∃ es, Resent p dev ds s (ds.foldl (fun u d => sendDatagram p dev (again p dev u d) u) s) es := by
  induction ds generalizing s with
  | nil => exact ⟨[], .refl s, (List.append_nil _).symm, rfl, rfl, by simp, rfl⟩
  | cons d ds ih =>
    obtain ⟨hs, hout, hconn⟩ := sendDatagram_spec p dev (again p dev s d) s
    obtain ⟨es, he⟩ := ih (sendDatagram p dev (again p dev s d) s)
    refine ⟨again p dev s d :: es, hs.trans he.sends, ?_, ?_, ?_, ?_, ?_⟩
    · have hsame : es.map (datagramOut (sendDatagram p dev (again p dev s d) s) p dev) = es.map (datagramOut s p dev) :=
        List.map_congr_left fun e _ => datagramOut_congr hs.regs p dev e
      rw [List.foldl_cons, he.out, hout, hsame, List.append_assoc]
      rfl
    · rw [List.map_cons, List.map_cons, he.packets, packets_again]
    · rw [List.map_cons, List.map_cons, he.psn, dgPsn_again]
    · intro e hmem
      rcases List.mem_cons.mp hmem with rfl | hmem
      · exact dgAck_again ..
      · rw [he.ack e hmem, hconn, Conn.rxNext_told]
    · rw [List.foldl_cons, he.conn, hconn, if_neg (List.cons_ne_nil d ds)]
      split <;> rfl

theorem resendFlight_resent (p dev : Nat) (s : State) : ∃ es, Resent p dev (getConn s p dev).flight s (resendFlight p dev s) es :=
  foldl_again p dev (getConn s p dev).flight s

/-! ### Frames and datagrams that arrive -/

/-- The frame counted. -/
def etherCounted (p : Nat) (s : State) : State := bump (lp p 0) 0 1 1 s

/-- The datagram's mark noted. -/
def marked (p : Nat) (d : Datagram) (s : State) : State :=
  if d.ce && hasConn s p (dgDev d) then setConn p (dgDev d) { getConn s p (dgDev d) with ece := true } s else s

theorem etherIn_taken {p : Nat} {s : State} (h : takesEther s p) (k : State → State) : etherIn p k s = k (etherCounted p s) := if_pos h

theorem etherCounted_keeps (p : Nat) (s : State) : Keeps [.cnt] s (etherCounted p s) := bump_keeps ..

theorem onDatagram_taken {p : Nat} {d : Datagram} {s : State} (h : takesDatagram s p d) (k : State → State) :
    onDatagram p d k s = k (marked p d (etherCounted p s)) := by
  unfold onDatagram
  rw [etherIn_taken h.1]
  exact if_pos ((headOk_congr ((etherCounted_keeps p s).1 .regs (by decide)) p d.head).trans h.2)

/-- A connection with the datagram's mark noted. -/
def Conn.withMark (c : Conn) (b : Bool) : Conn := { c with ece := c.ece || b }

theorem hasConn_marked (p : Nat) (d : Datagram) (s : State) : hasConn (marked p d s) p (dgDev d) = hasConn s p (dgDev d) := by
  unfold marked
  split
  next h =>
    rw [Bool.and_eq_true] at h
    rw [h.2, hasConn, setConn, mfind_mput, if_pos rfl]
    rfl
  · rfl

theorem marked_plain {p : Nat} {d : Datagram} {s : State} (h : d.ce = false ∨ hasConn s p (dgDev d) = false) : marked p d s = s :=
  if_neg (by rcases h with h | h <;> simp [h])

theorem marked_ce {p : Nat} {d : Datagram} {s : State} (hce : d.ce = true) (hc : hasConn s p (dgDev d) = true) :
    marked p d s = setConn p (dgDev d) { getConn s p (dgDev d) with ece := true } s := if_pos (by simp [hce, hc])

theorem marked_spec (p : Nat) (d : Datagram) (s : State) : SendsOnly s (marked p d s) ∧ (marked p d s).out = s.out ∧
    (hasConn s p (dgDev d) = true → getConn (marked p d s) p (dgDev d) = (getConn s p (dgDev d)).withMark d.ce) := by
  by_cases hplain : d.ce = false ∨ hasConn s p (dgDev d) = false
  · rw [marked_plain hplain]
    refine ⟨.refl s, rfl, fun hc => ?_⟩
    have hce : d.ce = false := hplain.resolve_right (by simp [hc])
    rw [hce, Conn.withMark, Bool.or_false]
  · obtain ⟨hce, hc⟩ := not_or.mp hplain
    rw [Bool.not_eq_false] at hce hc
    rw [marked_ce hce hc]
    refine ⟨setConn_sendsOnly .., rfl, fun _ => ?_⟩
    rw [getConn_setConn, hce, Conn.withMark, Bool.or_true]

theorem marked_conn (p : Nat) (d : Datagram) (s : State) :
    (getConn (marked p d s) p (dgDev d)).withMark d.ce = (getConn s p (dgDev d)).withMark d.ce := by
  by_cases hplain : d.ce = false ∨ hasConn s p (dgDev d) = false
  · rw [marked_plain hplain]
  · obtain ⟨hce, hc⟩ := not_or.mp hplain
    rw [Bool.not_eq_false] at hce hc
    rw [marked_ce hce hc, getConn_setConn, hce, Conn.withMark, Conn.withMark, Bool.or_true, Bool.or_true]

theorem halve_withMark (c : Conn) (b : Bool) : halve (c.withMark b) = (halve c).withMark b := rfl

theorem ackPsn_withMark (d : Datagram) (c : Conn) (b : Bool) : ackPsn d (c.withMark b) = (ackPsn d c).withMark b := by
  unfold ackPsn Conn.withMark
  dsimp only
  split <;> split <;> rfl

theorem ackPsn_rxNext (d : Datagram) (c : Conn) : (ackPsn d c).rxNext = c.rxNext := by
  unfold ackPsn halve
  dsimp only
  split <;> split <;> rfl

/-! ### Arrivals leave the connections -/

theorem conns_of_keeps {ps : List Part} {s t : State} (k : Keeps ps s t) (h : .lnk ∉ ps := by decide) : t.lnk.conns = s.lnk.conns := by
  rw [k.1 .lnk h]

theorem portState_conns (p new : Nat) (quiet : Bool) (s : State) : (portState p new quiet s).lnk.conns = s.lnk.conns := by
  unfold portState
  extract_lets x lost y s1 s2
  have hs2 : s2.lnk.conns = s.lnk.conns := (conns_of_keeps (intSet_keeps (lp p 0) 1 s1)).trans rfl
  split
  · rfl
  · split
    · exact (conns_of_keeps (raise_keeps ..)).trans hs2
    · exact hs2

theorem autoneg_conns (p : Nat) (s : State) : (autoneg p s).lnk.conns = s.lnk.conns := by
  unfold autoneg
  split <;> rfl

theorem retrainTrigger_conns (p : Nat) (s : State) : (retrainTrigger p s).lnk.conns = s.lnk.conns := by
  unfold retrainTrigger
  split
  · rfl
  · split
    · exact (autoneg_conns ..).trans ((conns_of_keeps (bump_keeps ..)).trans (portState_conns ..))
    · exact portState_conns ..

theorem rxCheck_conns (p : Nat) (resp : Bool) (s : State) : (rxCheck p resp s).lnk.conns = s.lnk.conns := by
  unfold rxCheck
  extract_lets x q page off src e s1 s2
  have hs2 : s2.lnk.conns = s.lnk.conns :=
    ((conns_of_keeps (raiseEv_keeps page 8 0 e _)).trans (conns_of_keeps (setReg_keeps page off _ s1))).trans rfl
  split
  · rfl
  · rw [retrainTrigger_conns]
    split
    · exact (conns_of_keeps (rxDeliver_keeps ..)).trans hs2
    · exact hs2

theorem rxPut_conns (p : Nat) (k : Packet) (s : State) : (rxPut p k s).lnk.conns = s.lnk.conns := by
  unfold rxPut
  extract_lets resp x q n q1 s1 l
  split
  · rw [(rxDeliver_keeps ..).1 .lnk (by decide), (setReg_keeps ..).1 .lnk (by decide)]
    rfl
  · rfl

theorem rxStep_conns (p : Nat) (s : State) (k : Packet) : (rxStep p s k).lnk.conns = s.lnk.conns := by
  unfold rxStep
  extract_lets u1 y
  split
  · rw [rxPut_conns, rxCheck_conns]
  · exact rxCheck_conns ..

theorem foldl_rxStep_conns (p : Nat) (ks : List Packet) (s : State) : (ks.foldl (rxStep p) s).lnk.conns = s.lnk.conns := by
  induction ks generalizing s with
  | nil => rfl
  | cons k ks ih => rw [List.foldl_cons, ih, rxStep_conns]

theorem arrive_conns (p : Nat) (ks : List Packet) (s : State) : (arrive p ks s).lnk.conns = s.lnk.conns :=
  foldl_rxStep_conns ..

/-! ### The obligation -/

theorem etherCounted_sendsOnly (p : Nat) (s : State) : SendsOnly s (etherCounted p s) := bump_sendsOnly ..

theorem getConn_etherCounted (p q dev : Nat) (s : State) : getConn (etherCounted p s) q dev = getConn s q dev := getConn_bump ..

theorem hasConn_etherCounted (p q dev : Nat) (s : State) : hasConn (etherCounted p s) q dev = hasConn s q dev := by
  unfold hasConn
  rw [(etherCounted_keeps p s).1 .lnk (by decide)]

/-- The state in which a datagram takes effect: its frame counted and its mark noted. -/
structure Taken (p : Nat) (d : Datagram) (s u : State) : Prop where
  sends : SendsOnly s u
  out : u.out = s.out
  has : hasConn u p (dgDev d) = hasConn s p (dgDev d)
  conn : (getConn u p (dgDev d)).withMark d.ce = (getConn s p (dgDev d)).withMark d.ce
  marked : hasConn s p (dgDev d) = true → getConn u p (dgDev d) = (getConn s p (dgDev d)).withMark d.ce

theorem taken_marked (p : Nat) (d : Datagram) (s : State) : Taken p d s (marked p d (etherCounted p s)) := by
  obtain ⟨hs, hout, hconn⟩ := marked_spec p d (etherCounted p s)
  refine ⟨(etherCounted_sendsOnly p s).trans hs, hout.trans ((etherCounted_keeps p s).1 .out (by decide)), ?_, ?_, fun h => ?_⟩
  · rw [hasConn_marked, hasConn_etherCounted]
  · rw [marked_conn, getConn_etherCounted]
  · rw [hconn (by rwa [hasConn_etherCounted]), getConn_etherCounted]

theorem Taken.rxOpen {p : Nat} {d : Datagram} {s u : State} (h : Taken p d s u) :
    (getConn u p (dgDev d)).rxOpen = (getConn s p (dgDev d)).rxOpen := by
  have hc := congrArg Conn.rxOpen h.conn
  exact hc

theorem Taken.rxNext {p : Nat} {d : Datagram} {s u : State} (h : Taken p d s u) :
    (getConn u p (dgDev d)).rxNext = (getConn s p (dgDev d)).rxNext := by
  have hc := congrArg Conn.rxNext h.conn
  exact hc

/-- A SYN's number is adopted. -/
theorem synEffect_adopts {s : State} {p : Nat} {d : Datagram} (ht : takesDatagram s p d)
    (hclosed : (getConn s p (dgDev d)).rxOpen = false) (hroom : connRoom s p (dgDev d) = true) :
    getConn (synEffect p d s) p (dgDev d) = { getConn s p (dgDev d) with
      rxOpen := true, rxNext := dgPsn d, peerWin := dgWin d, ece := (getConn s p (dgDev d)).ece || d.ce } := by
  have hu := taken_marked p d s
  have hlen : connRoom (marked p d (etherCounted p s)) p (dgDev d) = true := by
    cases hc : hasConn s p (dgDev d) with
    | true =>
      unfold connRoom
      rw [hu.has, hc, Bool.true_or]
    | false =>
      rw [marked_plain (.inr (by rw [hasConn_etherCounted, hc]))]
      unfold connRoom at hroom ⊢
      rw [hasConn_etherCounted, (etherCounted_keeps p s).1 .lnk (by decide)]
      exact hroom
  unfold synEffect
  rw [onDatagram_taken ht]
  generalize marked p d (etherCounted p s) = u at hu hlen
  dsimp only
  have hno : ¬ ((getConn u p (dgDev d)).rxOpen = true ∨ connRoom u p (dgDev d) = false) := by
    rw [hu.rxOpen, hclosed, hlen]
    simp
  rw [if_neg hno, getConn_setConn]
  exact congrArg (fun c : Conn => { c with rxOpen := true, rxNext := dgPsn d, peerWin := dgWin d }) hu.conn

/-- Data in order is delivered. -/
theorem tdataEffect_inOrder {s : State} {p : Nat} {d : Datagram} (ht : takesDatagram s p d)
    (hopen : (getConn s p (dgDev d)).rxOpen = true) (hnext : dgPsn d = (getConn s p (dgDev d)).rxNext) (hrx : rxTakes s p d.packets) :
    (getConn (tdataEffect p d s) p (dgDev d)).rxNext = ((getConn s p (dgDev d)).rxNext + 1) % 2 ^ 32 ∧
      getPort (tdataEffect p d s) p = d.packets.foldl Port.received (getPort s p) ∧
      Keeps [.out, .regs, .cnt, .lnk, .sys] s (tdataEffect p d s) := by
  have hu := taken_marked p d s
  unfold tdataEffect
  rw [onDatagram_taken ht]
  generalize marked p d (etherCounted p s) = u at hu
  extract_lets dev src c u0 c1 u1 u2
  have hin : ¬ (c.rxOpen = false ∨ dgPsn d ≠ c.rxNext) := by
    have h1 : c.rxOpen = true := hu.rxOpen.trans hopen
    have h2 : dgPsn d = c.rxNext := hnext.trans hu.rxNext.symm
    rw [h1, h2]
    simp
  rw [if_neg hin]
  obtain ⟨w, hw⟩ : ∃ w, w = setConn p dev c1 u := ⟨_, rfl⟩
  have hsw : SendsOnly s w := hu.sends.trans (hw ▸ setConn_sendsOnly ..)
  have hrxw : rxTakes w p d.packets := by
    obtain ⟨hh, hbad, hall⟩ := hrx
    unfold rxTakes
    rw [hsw.port]
    refine ⟨hh, hbad, fun k hk => ?_⟩
    rw [regBit, getReg_congr hsw.regs]
    exact hall k hk
  obtain ⟨hport, hkeeps⟩ := arrive_takes hrxw
  have hu1 : u1 = arrive p d.packets w := by rw [hw]
  rw [← hu1] at hport hkeeps
  have hconn1 : getConn u1 p dev = c1 := by
    rw [hu1, getConn, arrive_conns, hw]
    exact getConn_setConn ..
  have hsend : SendsOnly u1 u2 ∧ (getConn u2 p dev).rxNext = c1.rxNext := by
    by_cases hack : 16 ≤ c1.since
    · have h2 : u2 = sendDatagram p dev (mkDatagram u1 p dev 2 c1.psn []) u1 := if_pos hack
      obtain ⟨hs2, -, hc2⟩ := sendDatagram_spec p dev (mkDatagram u1 p dev 2 c1.psn []) u1
      rw [h2, hc2, hconn1]
      exact ⟨hs2, rfl⟩
    · have h2 : u2 = u1 := if_neg hack
      rw [h2, hconn1]
      exact ⟨.refl u1, rfl⟩
  obtain ⟨hs2, hn2⟩ := hsend
  obtain ⟨hs3, hg3⟩ := connPump_spec ((getConn u2 p dev).queue.length + 1) p dev u2
  refine ⟨?_, ?_, ?_⟩
  · rw [hg3.rxNext, hn2, ackPsn_rxNext]
    exact congrArg (fun n => (n + 1) % 2 ^ 32) hu.rxNext
  · rw [hs3.port, hs2.port, hport, hsw.port]
  · exact ((hsw.keeps.mono (by decide)).trans (hkeeps.mono (by decide))).trans ((hs2.keeps.trans hs3.keeps).mono (by decide))

/-- What is out of order, or of a peer without a connection, is answered with NAK and not delivered. -/
theorem tdataEffect_outOfOrder {s : State} {p : Nat} {d : Datagram} (ht : takesDatagram s p d)
    (hout : (getConn s p (dgDev d)).rxOpen = false ∨ dgPsn d ≠ (getConn s p (dgDev d)).rxNext) :
    ∃ e, (tdataEffect p d s).out = s.out ++ [datagramOut s p (dgDev d) e] ∧ fld e.w1 19 16 = 3 ∧
      dgAck e = (getConn s p (dgDev d)).rxNext % 2 ^ 32 ∧
      (getConn (tdataEffect p d s) p (dgDev d)).rxNext = (getConn s p (dgDev d)).rxNext ∧ SendsOnly s (tdataEffect p d s) := by
  have hu := taken_marked p d s
  unfold tdataEffect
  rw [onDatagram_taken ht]
  generalize marked p d (etherCounted p s) = u at hu
  extract_lets dev src c u0 c1 u1 u2
  have hin : c.rxOpen = false ∨ dgPsn d ≠ c.rxNext := by
    have h1 : c.rxOpen = (getConn s p (dgDev d)).rxOpen := hu.rxOpen
    have h2 : c.rxNext = (getConn s p (dgDev d)).rxNext := hu.rxNext
    rwa [h1, h2]
  rw [if_pos hin]
  have hu0 : SendsOnly u u0 ∧ u0.out = u.out ∧ (getConn u0 p dev).rxNext = (getConn u p dev).rxNext := by
    obtain ⟨w, hw⟩ : ∃ w, w = if hasConn u p dev = true then setConn p dev c u else u := ⟨_, rfl⟩
    have h0 : u0 = bump (lp p 1) 0 5 1 w := by rw [hw]
    have hsw : SendsOnly u w ∧ w.out = u.out ∧ (getConn w p dev).rxNext = (getConn u p dev).rxNext := by
      rw [hw]
      split
      · exact ⟨setConn_sendsOnly .., rfl, by rw [getConn_setConn]⟩
      · exact ⟨.refl u, rfl, rfl⟩
    obtain ⟨hs, ho, hc⟩ := hsw
    rw [h0, getConn_bump, (bump_keeps ..).1 .out (by decide)]
    exact ⟨hs.trans (bump_sendsOnly ..), ho, hc⟩
  obtain ⟨hs0, ho0, hn0⟩ := hu0
  have hnext : (getConn u0 p dev).rxNext = (getConn s p (dgDev d)).rxNext := hn0.trans hu.rxNext
  obtain ⟨hs1, ho1, hc1⟩ := sendDatagram_spec p dev (mkDatagram u0 p dev 3 c.psn []) u0
  refine ⟨mkDatagram u0 p dev 3 c.psn [], ?_, type_mkDatagram _ _ _ _ _ (by decide), ?_, ?_, (hu.sends.trans hs0).trans hs1⟩
  · rw [ho1, ho0, hu.out, datagramOut_congr (hu.sends.trans hs0).regs]
  · rw [dgAck_mkDatagram, hnext]
  · rw [hc1, Conn.rxNext_told, hnext]

theorem hasConn_eq {p : Nat} {d : Datagram} {s u : State} (h : Taken p d s u) (hc : hasConn s p (dgDev d) = true) :
    ¬ hasConn u p (dgDev d) = false := by
  rw [h.has, hc]
  decide

/-- An acknowledgement takes datagrams out of flight. -/
theorem tackEffect_acks {s : State} {p : Nat} {d : Datagram} (ht : takesDatagram s p d) (hc : hasConn s p (dgDev d) = true) :
    FlightGrows (ackPsn d (getConn s p (dgDev d))) (getConn (tackEffect p d s) p (dgDev d)) := by
  have hu := taken_marked p d s
  unfold tackEffect
  rw [onDatagram_taken ht]
  generalize marked p d (etherCounted p s) = u at hu
  extract_lets dev u1
  rw [if_neg (hasConn_eq hu hc)]
  have hu1 : getConn u1 p dev = (ackPsn d (getConn s p (dgDev d))).withMark d.ce := by
    rw [getConn_setConn, hu.marked hc, ackPsn_withMark]
  obtain ⟨n, hn⟩ : ∃ n, n = (getConn u1 p dev).queue.length + 1 := ⟨_, rfl⟩
  obtain ⟨-, hg⟩ := connPump_spec n p dev u1
  rw [← hn]
  rw [hu1] at hg
  exact ⟨hg.flight, hg.una, hg.cwnd, hg.rxNext⟩

theorem Resent.sentAgain {p dev : Nat} {c : Conn} {s u t : State} {es : List Datagram} (h : Resent p dev c.flight u t es)
    (hregs : u.regs = s.regs) (hout : u.out = s.out) (hnext : (getConn u p dev).rxNext = c.rxNext) : sentAgain s t p dev c := by
  refine ⟨es, ?_, h.packets, h.psn, fun e he => ?_⟩
  · rw [h.out, hout]
    exact congrArg _ (List.map_congr_left fun e _ => datagramOut_congr hregs p dev e)
  · rw [h.ack e he, hnext]

/-- A NAK sends the flight again with the window halved. -/
theorem tnakEffect_resends {s : State} {p : Nat} {d : Datagram} (ht : takesDatagram s p d) (hc : hasConn s p (dgDev d) = true) :
    let c := halve (ackPsn d (getConn s p (dgDev d)))
    getConn (tnakEffect p d s) p (dgDev d) =
        (if c.flight = [] then { c with ece := c.ece || d.ce } else { c with ece := false, since := 0 }) ∧
      sentAgain s (tnakEffect p d s) p (dgDev d) c := by
  intro c
  have hu := taken_marked p d s
  unfold tnakEffect
  rw [onDatagram_taken ht]
  generalize marked p d (etherCounted p s) = u at hu
  dsimp only
  rw [if_neg (hasConn_eq hu hc), hu.marked hc, ackPsn_withMark, halve_withMark]
  obtain ⟨w, hw⟩ : ∃ w, w = setConn p (dgDev d) (c.withMark d.ce) u := ⟨_, rfl⟩
  have hconn : getConn w p (dgDev d) = c.withMark d.ce := hw ▸ getConn_setConn ..
  obtain ⟨es, he⟩ := resendFlight_resent p (dgDev d) w
  rw [hconn] at he
  have hflight : (c.withMark d.ce).flight = c.flight := rfl
  have hnext : (getConn w p (dgDev d)).rxNext = c.rxNext := (congrArg Conn.rxNext hconn).trans rfl
  rw [hflight] at he
  have hsw : SendsOnly s w := hu.sends.trans (hw ▸ setConn_sendsOnly ..)
  have hwout : w.out = s.out := by
    rw [hw]
    exact hu.out
  rw [← hw]
  refine ⟨?_, he.sentAgain hsw.regs hwout hnext⟩
  rw [he.conn, hconn]
  rfl

/-- So does a timeout. -/
theorem ttimeoutEffect_resends {s : State} {p dev : Nat} (ht : takesEther s p) (hf : (getConn s p dev).flight ≠ [])
    (hlow : (getConn s p dev).attempts < 8) :
    getConn (ttimeoutEffect p dev s) p dev = { halve (getConn s p dev) with
        attempts := (getConn s p dev).attempts + 1, ece := false, since := 0 } ∧
      sentAgain s (ttimeoutEffect p dev s) p dev (getConn s p dev) := by
  obtain ⟨w, hw⟩ : ∃ w, w = setConn p dev { halve (getConn s p dev) with attempts := (getConn s p dev).attempts + 1 } s := ⟨_, rfl⟩
  have hconn : getConn w p dev = { halve (getConn s p dev) with attempts := (getConn s p dev).attempts + 1 } := hw ▸ getConn_setConn ..
  have heff : ttimeoutEffect p dev s = resendFlight p dev w := by
    refine (if_pos ht).trans ?_
    rw [if_neg (by simpa using hf), if_neg (by omega), hw]
  obtain ⟨es, he⟩ := resendFlight_resent p dev w
  have hflight : (getConn w p dev).flight = (getConn s p dev).flight := (congrArg Conn.flight hconn).trans rfl
  rw [hflight] at he
  have hsw : SendsOnly s w := hw ▸ setConn_sendsOnly ..
  rw [heff]
  refine ⟨?_, he.sentAgain hsw.regs (by rw [hw]; rfl) ((congrArg Conn.rxNext hconn).trans rfl)⟩
  rw [he.conn, if_neg hf, hconn]
  rfl

/-- A datagram under other headers is dropped and counted. -/
theorem onDatagram_dropped {s : State} {p : Nat} {d : Datagram} (ht : takesEther s p) (h : headOk s p d.head = false) (k : State → State) :
    onDatagram p d k s = bump (lp p 1) 0 5 1 (bump (lp p 0) 0 1 1 s) := by
  unfold onDatagram
  rw [etherIn_taken ht]
  refine if_neg ?_
  rw [headOk_congr ((etherCounted_keeps p s).1 .regs (by decide)), h]
  decide

/-- Settles O43: what a datagram changes is said of the state whose frame is counted and whose mark is noted. -/
theorem transportAndOwnAddress : Obligations.TransportAndOwnAddress := by
  refine ⟨?syn, ?inOrder, ?outOfOrder, ?ack, ?nak, ?dropped, ?timeout, ?failed, ?timer, ?echo, ?neighbour, ?other⟩
  case syn =>
    intro s p d ht hclosed hroom
    exact ⟨_, rfl, synEffect_adopts ht hclosed hroom, (synEffect_keeps ..).1⟩
  case inOrder =>
    intro s p d ht hopen hnext hrx
    obtain ⟨hn, hport, hk⟩ := tdataEffect_inOrder ht hopen hnext hrx
    rw [foldl_received] at hport
    exact ⟨_, rfl, hn, congrArg Port.req hport, congrArg Port.resp hport, hk.1⟩
  case outOfOrder =>
    intro s p d ht hout
    obtain ⟨e, ho, htype, hack, hn, hs⟩ := tdataEffect_outOfOrder ht hout
    exact ⟨_, e, rfl, ho, htype, hack, hn, hs.port _, hs.keeps.1⟩
  case ack =>
    intro s p d ht hc
    obtain ⟨⟨more, hf⟩, huna, hcwnd, -⟩ := tackEffect_acks ht hc
    exact ⟨_, more, rfl, hf, huna, hcwnd, (tackEffect_keeps ..).1⟩
  case nak =>
    intro s p d ht hc
    obtain ⟨hconn, hsent⟩ := tnakEffect_resends ht hc
    exact ⟨_, rfl, hconn, hsent, (tnakEffect_keeps ..).1⟩
  case dropped =>
    intro s p d ht hbad c hc
    have hdrop := onDatagram_dropped ht hbad
    simp only [List.mem_cons, List.not_mem_nil, or_false] at hc
    rcases hc with rfl | rfl | rfl | rfl <;> exact congrArg Host.Outcome.next (hdrop _)
  case timeout =>
    intro s p dev ht hf hlow
    obtain ⟨hconn, hsent⟩ := ttimeoutEffect_resends ht hf hlow
    exact ⟨_, rfl, hconn, hsent, (ttimeoutEffect_keeps ..).1⟩
  case failed =>
    intro s p dev ht hf hhigh
    have heff : ttimeoutEffect p.val dev.val s = { s with lnk := { s.lnk with conns := mdel s.lnk.conns (connKey p.val dev.val) } } := by
      refine (if_pos ht).trans ?_
      rw [if_neg (by simpa using hf), if_pos hhigh]
    have hk : Keeps [.lnk] s { s with lnk := { s.lnk with conns := mdel s.lnk.conns (connKey p.val dev.val) } } :=
      Keeps.refl.set_lnk _ (by decide)
    exact ⟨_, congrArg Host.Outcome.next heff, rfl, hk.1⟩
  case timer =>
    intro s p dev ht hsince
    obtain ⟨hs, ho, hc⟩ := sendDatagram_spec p.val dev.val (mkDatagram s p.val dev.val 2 (getConn s p.val dev.val).psn []) s
    have heff : tackTimerEffect p.val dev.val s =
        sendDatagram p.val dev.val (mkDatagram s p.val dev.val 2 (getConn s p.val dev.val).psn []) s :=
      (if_pos ht).trans (if_neg hsince)
    exact ⟨_, _, congrArg Host.Outcome.next heff, ho, type_mkDatagram _ _ _ _ _ (by decide), dgAck_mkDatagram ..,
      congrArg Conn.since hc, hs.keeps.1⟩
  case echo =>
    intro s p src payload ht
    have hregs := (etherCounted_keeps p.val s).1 .regs (by decide)
    refine congrArg Host.Outcome.next ((etherIn_taken ht _).trans ((if_pos (ipv6_congr hregs p.val).symm).trans ?_))
    rw [etherFrame_congr hregs]
    rfl
  case neighbour =>
    intro s p src ht
    have hregs := (etherCounted_keeps p.val s).1 .regs (by decide)
    refine congrArg Host.Outcome.next ((etherIn_taken ht _).trans ((if_pos (ipv6_congr hregs p.val).symm).trans ?_))
    dsimp only
    rw [etherFrame_congr hregs, regFld, regFld, getReg_congr hregs]
    rfl
  case other =>
    intro s p dst src payload hne ht
    have hno : ¬ dst = ipv6 (etherCounted p.val s) p.val := by
      rw [ipv6_congr ((etherCounted_keeps p.val s).1 .regs (by decide))]
      exact hne
    exact ⟨congrArg Host.Outcome.next ((etherIn_taken ht _).trans (if_neg hno)),
      congrArg Host.Outcome.next ((etherIn_taken ht _).trans (if_neg hno))⟩

end Sys2Proof.Machine
end

section
/-! SUPPORT. Requests that arrive: the packet taken off its queue, and the reads, writes and resolutions served (R259 to R268, R274). -/

namespace Sys2Proof.Machine

/-! ### What taking a packet off its queue changes -/

/-- What happens at a port changes that port's frames and packets and the registers of its pages. -/
structure PortOnly (p : Nat) (s t : State) : Prop where
  lnk : t.lnk = { s.lnk with ports := t.lnk.ports }
  regs : ∀ q o, q ≠ lp p 0 → q ≠ lp p 1 → o < 65536 → getReg t q o = getReg s q o
  en : ∀ q, getReg t q 0x10 = getReg s q 0x10

theorem PortOnly.refl (p : Nat) (s : State) : PortOnly p s s := ⟨rfl, fun _ _ _ _ _ => rfl, fun _ => rfl⟩

theorem PortOnly.trans {p : Nat} {s t u : State} (h : PortOnly p s t) (k : PortOnly p t u) : PortOnly p s u :=
  ⟨by rw [k.lnk, h.lnk], fun q o h0 h1 ho => (k.regs q o h0 h1 ho).trans (h.regs q o h0 h1 ho),
    fun q => (k.en q).trans (h.en q)⟩

theorem PortOnly.of_keeps {p : Nat} {ps : List Part} {s t : State} (k : Keeps ps s t) (hl : .lnk ∉ ps := by decide)
    (hr : .regs ∉ ps := by decide) : PortOnly p s t := by
  refine ⟨?_, fun q o _ _ _ => getReg_congr (k.1 .regs hr) q o, fun q => getReg_congr (k.1 .regs hr) q 0x10⟩
  have h : t.lnk = s.lnk := k.1 .lnk hl
  rw [h]

theorem regKey_ne_page {p q o x : Nat} (h : q ≠ p) (ho : o < 65536) (hx : x < 65536) : regKey q o ≠ regKey p x := by
  unfold regKey
  omega

theorem regKey_ne_en {x : Nat} (h : x / 8 ≠ 2) (hx : x < 65536) (q p : Nat) : regKey q 0x10 ≠ regKey p x := by
  unfold regKey
  omega

theorem setPort_portOnly (p : Nat) (x : Port) (s : State) : PortOnly p s (setPort p x s) := ⟨rfl, fun _ _ _ _ _ => rfl, fun _ => rfl⟩

/-- A register of one of the port's two pages. -/
theorem setReg_portOnly {p page o : Nat} (hp : page = lp p 0 ∨ page = lp p 1) (ho : o < 65536) (he : o / 8 ≠ 2) (v : Word) (s : State) :
    PortOnly p s (setReg page o v s) := by
  refine ⟨rfl, fun q x h0 h1 hx => getReg_setReg_ne (regKey_ne_page ?_ hx ho) v s,
    fun q => getReg_setReg_ne (regKey_ne_en he ho q page) v s⟩
  rcases hp with rfl | rfl
  · exact h0
  · exact h1

theorem intSet_portOnly {p page : Nat} (hp : page = lp p 0 ∨ page = lp p 1) (i : Nat) (s : State) : PortOnly p s (intSet page i s) := by
  refine ⟨by rw [(intSet_keeps ..).1 .lnk (by decide)], fun q x h0 h1 hx => ?_,
    fun q => by rw [getReg_intSet, if_neg (regKey_ne_en (by decide) (by decide) _ _)]⟩
  rw [getReg_intSet, if_neg (regKey_ne_page ?_ hx (by decide))]
  rcases hp with rfl | rfl
  · exact h0
  · exact h1

theorem raise_portOnly {p page : Nat} (hp : page = lp p 0 ∨ page = lp p 1) (i off : Nat) (s : State) :
    PortOnly p s (raise page i off s) := by
  have hraise (q x : Nat) (hkey : ∀ y, y = 0x20 ∨ y = 0x38 ∨ y = 0x30 → regKey q x ≠ regKey page y) :
      getReg (raise page i off s) q x = getReg s q x := by
    have hfirst : ¬ (regKey q x = regKey page 0x30 ∧ bit (getReg s page 0x30) 8 = false) := fun h => hkey _ (by simp) h.1
    rw [getReg_raise, if_neg (hkey _ (by simp)), if_neg (hkey 0x38 (by simp)), if_neg hfirst, ite_self]
  refine ⟨by rw [(raise_keeps ..).1 .lnk (by decide)], fun q x h0 h1 hx => hraise q x fun y hy => ?_,
    fun q => hraise q 0x10 fun y hy => regKey_ne_en (by omega) (by omega) q page⟩
  have hne : q ≠ page := by
    rcases hp with rfl | rfl
    · exact h0
    · exact h1
  exact regKey_ne_page hne hx (by omega)

theorem raiseEv_portOnly {p page : Nat} (hp : page = lp p 0 ∨ page = lp p 1) (i off : Nat) (e : ErrEvent) (s : State) :
    PortOnly p s (raiseEv page i off e s) := by
  unfold raiseEv
  dsimp only
  split
  · exact raise_portOnly hp ..
  · exact (raise_portOnly hp ..).trans (.of_keeps (report_keeps ..))

theorem portState_portOnly (p new : Nat) (quiet : Bool) (s : State) : PortOnly p s (portState p new quiet s) := by
  unfold portState
  extract_lets x lost y s1 s2
  have hs2 : PortOnly p s s2 := (setPort_portOnly p _ s).trans (intSet_portOnly (.inl rfl) 1 s1)
  split
  · exact setPort_portOnly ..
  · split
    · exact hs2.trans (raise_portOnly (.inl rfl) ..)
    · exact hs2

theorem retrainTrigger_portOnly (p : Nat) (s : State) : PortOnly p s (retrainTrigger p s) := by
  have hauto (u : State) : PortOnly p u (autoneg p u) := by
    unfold autoneg
    split
    · exact .of_keeps (emit_keeps ..)
    · exact .refl ..
  unfold retrainTrigger
  split
  · exact .refl ..
  · split
    · exact (((portState_portOnly p 7 false s).trans (.of_keeps (bump_keeps ..))).trans (setPort_portOnly ..)).trans (hauto _)
    · exact portState_portOnly ..

theorem rxOff_lt (resp : Bool) {r : Nat} (h : r < 4096) : rxOff resp r < 65536 := by
  unfold rxOff
  split <;> omega

theorem rxOff_high (resp : Bool) (r : Nat) : rxOff resp r / 8 ≠ 2 := by
  unfold rxOff
  split <;> omega

theorem rxCheck_portOnly (p : Nat) (resp : Bool) (s : State) : PortOnly p s (rxCheck p resp s) := by
  unfold rxCheck
  extract_lets x q page off src e s1 s2
  have hs2 : PortOnly p s s2 := ((setPort_portOnly p _ s).trans (setReg_portOnly (.inr rfl) (rxOff_lt resp (by decide)) (rxOff_high resp _) _ s1)).trans
    (raiseEv_portOnly (.inr rfl) ..)
  split
  · exact .refl ..
  · refine .trans ?_ (retrainTrigger_portOnly ..)
    split
    · exact hs2.trans (.of_keeps (rxDeliver_keeps ..))
    · exact hs2

theorem rxPut_portOnly (p : Nat) (k : Packet) (s : State) : PortOnly p s (rxPut p k s) := by
  unfold rxPut
  extract_lets resp x q n q1 s1 l
  have hs1 : PortOnly p s s1 := setPort_portOnly ..
  split
  · exact (hs1.trans (setReg_portOnly (.inr rfl) (rxOff_lt resp (by decide)) (rxOff_high resp _) _ s1)).trans (.of_keeps (rxDeliver_keeps ..))
  · exact hs1

theorem rxStep_portOnly (p : Nat) (s : State) (k : Packet) : PortOnly p s (rxStep p s k) := by
  unfold rxStep
  extract_lets u1 y
  split
  · exact (rxCheck_portOnly ..).trans (rxPut_portOnly ..)
  · exact (rxCheck_portOnly ..).trans (setPort_portOnly ..)

theorem rxOffer_portOnly (p : Nat) (s : State) : PortOnly p s (rxOffer p s) := by
  have hfold (l : List Packet) (u : State) : PortOnly p u (l.foldl (rxStep p) u) := by
    induction l generalizing u with
    | nil => exact .refl ..
    | cons k l ih => exact (rxStep_portOnly p u k).trans (ih _)
  exact (setPort_portOnly p { getPort s p with held := [] } s).trans (hfold ..)

theorem freeWords_portOnly (p n : Nat) (resp : Bool) (s : State) : PortOnly p s (freeWords p n resp s) := by
  unfold freeWords
  extract_lets x y s1
  have hs1 : PortOnly p s s1 := setPort_portOnly ..
  split
  · exact (hs1.trans (setPort_portOnly p _ s1)).trans (.of_keeps (sendControl_keeps ..))
  · exact hs1

theorem takeOff_portOnly (p : Nat) (k : Packet) (s : State) : PortOnly p s (takeOff p k s) := by
  unfold takeOff
  extract_lets resp s0 x q n q1
  have hs0 : PortOnly p s s0 := (PortOnly.of_keeps (bump_keeps ..)).trans (rxCheck_portOnly ..)
  split
  · exact ((hs0.trans (setPort_portOnly p _ s0)).trans (freeWords_portOnly ..)).trans (rxOffer_portOnly ..)
  · exact hs0

/-! ### The checks of a request (R259) -/

section
variable {s : State} {p n : Nat} {k : Packet} {f : List Byte → State → State}

/-- A request that the port serves has its checks before it. -/
theorem accept_taken (h : takesRequests s p k) : accept p k n f s = (match headerNack s p k with
    | some c => nack p k c (takeOff p k s)
    | none =>
      if n ≠ 0 ∧ rangeOk s k n = false then nack p k 1 (takeOff p k s)
      else match openPacket s k with
        | none => authFail p k (takeOff p k s)
        | some data => forJob k.job (f data) s) := by
  obtain ⟨hrun, hwork, hlost⟩ := h
  unfold accept
  rw [if_neg (by simp [hrun, hwork]), if_neg (by simp [hlost])] <;> rfl

theorem accept_accepted {data : List Byte} (h : accepted s p k n data) : accept p k n f s = forJob k.job (f data) s := by
  obtain ⟨htakes, hhead, hrange, hopen⟩ := h
  rw [accept_taken htakes, hhead]
  dsimp only
  rw [if_neg ?_, hopen]
  rintro ⟨hn, hbad⟩
  rcases hrange with h | h
  · exact hn h
  · rw [hbad] at h
    exact Bool.false_ne_true h

end

theorem takeOff_mem (p : Nat) (k : Packet) (s : State) : (takeOff p k s).mem = s.mem := (takeOff_keeps ..).1 .mem (by decide)

theorem respond_mem (p : Nat) (q : Packet) (op code : Nat) (resc prom : Bool) (data : List Byte) (s : State) :
    (respond p q op code resc prom data s).mem = s.mem := (respond_keeps ..).1 .mem (by decide)

theorem forJob_mem (job : Nat) (f : State → State) (s : State) : (forJob job f s).mem = (f { s with actJob := job }).mem := rfl

theorem forJob_congr {job : Nat} {f g : State → State} {s : State} (h : f { s with actJob := job } = g { s with actJob := job }) :
    forJob job f s = forJob job g s := by
  unfold forJob
  rw [h]

/-- What a state says of its memory's lines does not depend on the job whose activity is counted. -/
theorem needLine_forJob (s : State) (job : Nat) (read : Bool) (l : Nat) : needLine { s with actJob := job } read l = needLine s read l := rfl

theorem needLines_forJob (s : State) (job : Nat) (read : Bool) (ls : List Nat) :
    needLines { s with actJob := job } read ls = needLines s read ls := by
  induction ls with
  | nil => rfl
  | cons l ls ih =>
    unfold needLines
    rw [ih, needLine_forJob]

theorem needSpans_forJob (s : State) (job : Nat) (read : Bool) (rs : List (Nat × Nat)) :
    needSpans { s with actJob := job } read rs = needSpans s read rs := by
  induction rs with
  | nil => rfl
  | cons r rs ih =>
    unfold needSpans
    rw [ih, needLines_forJob]
    rfl

/-- A write that its lines take. -/
theorem writeEffect_ok {s : State} {p : Nat} {k : Packet} {data : List Byte} (h : accepted s p k k.len data)
    (hlines : needLines s false (linesOf k.addr k.len) = .ok) : (writeEffect p k s).mem = memStore s.mem k.addr data := by
  unfold writeEffect
  rw [accept_accepted h, forJob_mem, needLines_forJob, hlines]
  dsimp only
  rw [respond_mem, wrBytes_mem, takeOff_mem]

/-- Settles O38: a request that passes every check is its effect alone. -/
theorem readsWritesAndResolvesAreServed : Obligations.ReadsWritesAndResolvesAreServed := by
  refine ⟨?read, ?write, ?resolve⟩
  case read =>
    intro s p k data h hspans
    have heff : readEffect p.val k s = forJob k.job (fun u => respond p.val k 2 0 false false (memBytes u.mem k.addr (k.code * 256))
        (touchReads 15 [(k.addr, k.code * 256)] (takeOff p.val k u))) s := by
      unfold readEffect
      rw [accept_accepted h]
      refine forJob_congr ?_
      dsimp only
      rw [needSpans_forJob, hspans]
    exact ⟨_, rfl, heff, (readEffect_keeps ..).1⟩
  case write =>
    intro s p k data c hc h hlines
    have hmem := writeEffect_ok h hlines
    have hexec : exec c s = .next (writeEffect p.val k s) := by rcases hc with rfl | rfl <;> rfl
    refine ⟨_, hexec, fun hinv i hi => ?_, fun hinv a ha => ?_, (writeEffect_keeps ..).1⟩
    · rw [hmem, memGet_memStore hinv, if_pos (by omega), Nat.add_sub_cancel_left]
    · rw [hmem, memGet_memStore hinv, if_neg (by omega)]
  case resolve =>
    intro s p k data h
    have heff : resolveEffect p.val k s = _ := accept_accepted h
    refine ⟨_, congrArg Host.Outcome.next heff, fun n hn => ?_, fun hn => ?_, ?_⟩
    · have hu : unitFor { s with actJob := k.job } k.job k.addr = some n := hn
      refine forJob_congr ?_
      dsimp only
      rw [hu]
      rfl
    · have hu : unitFor { s with actJob := k.job } k.job k.addr = none := hn
      refine forJob_congr ?_
      dsimp only
      rw [hu]
    · have hself : Keeps [.out, .regs, .cnt, .rel, .act, .lnk, .keys, .sys] s s := .refl
      exact (forJob_keeps hself fun u hu => (hu.step (takeOff_keeps ..)).step (respond_keeps ..)).1

end Sys2Proof.Machine
end

section
/-! SUPPORT. Requests refused, notices, and requests that are answered with a refusal or not at all (R259, R263, R264, R273, R291). -/

namespace Sys2Proof.Machine

/-! ### A request refused by the device (R259) -/

/-- A request command is the checks of its packet, and then its effect. -/
theorem exec_request {p : Fin 16} {k : Packet} {x : Instr × Nat} (hx : x ∈ requestCommands p k) (s : State) :
    ∃ f, exec x.1 s = .next (accept p.val k (requestBytes s k x.2) f s) := by
  simp only [requestCommands, List.mem_cons, List.not_mem_nil, or_false] at hx
  rcases hx with rfl | rfl | rfl | rfl | rfl | rfl | rfl | rfl | rfl <;> exact ⟨_, rfl⟩

theorem accept_badHeader {s : State} {p n code : Nat} {k : Packet} {f : List Byte → State → State} (h : takesRequests s p k)
    (hc : headerNack s p k = some code) : accept p k n f s = nack p k code (takeOff p k s) := by
  rw [accept_taken h, hc]

theorem accept_badRange {s : State} {p n : Nat} {k : Packet} {f : List Byte → State → State} (h : takesRequests s p k)
    (hc : headerNack s p k = none) (hn : n ≠ 0) (hr : rangeOk s k n = false) : accept p k n f s = nack p k 1 (takeOff p k s) := by
  rw [accept_taken h, hc]
  exact if_pos ⟨hn, hr⟩

theorem accept_badTag {s : State} {p n : Nat} {k : Packet} {f : List Byte → State → State} (h : takesRequests s p k)
    (hc : headerNack s p k = none) (hr : n = 0 ∨ rangeOk s k n = true) (ho : openPacket s k = none) :
    accept p k n f s = authFail p k (takeOff p k s) := by
  rw [accept_taken h, hc]
  dsimp only
  rw [if_neg ?_, ho]
  rintro ⟨hn, hbad⟩
  rcases hr with h | h
  · exact hn h
  · rw [hbad] at h
    exact Bool.false_ne_true h

theorem accept_lost {s : State} {p n : Nat} {k : Packet} {f : List Byte → State → State} (hrun : running s = true)
    (hwork : takesWork s (lp p 0) = true) (hlost : rxLost p k s = true) : accept p k n f s = rxCheck p k.isResp s := by
  unfold accept
  rw [if_neg (by simp [hrun, hwork])]
  exact if_pos hlost

theorem onResponse_lost {s : State} {p : Nat} {k : Packet} {f : Track → List Byte → State → State} (hrun : running s = true)
    (hlost : rxLost p k s = true) : onResponse p k f s = rxCheck p k.isResp s := by
  unfold onResponse
  rw [if_neg (by simp [hrun])]
  exact if_pos hlost

/-- A tag that does not verify leaves AUTH_FAIL, and no free value for a job with a key. -/
theorem authFail_spec (p : Nat) (k : Packet) (s : State) : bit (getReg (authFail p k s) (lp p 1) 0x20) 9 = true ∧
    ((getKey s k.job).cur ≠ none → Keeps [.out, .regs, .cnt, .rel, .act, .lnk, .keys, .sys] s (authFail p k s)) := by
  obtain ⟨e, s1, hs1⟩ : ∃ e s1, s1 = raiseEv (lp p 1) 9 0 e (bump (lp p 1) 0 3 1 s) ∧
      authFail p k s = (match (getKey s k.job).cur with
        | some _ => nack p k 6 s1
        | none =>
          let r := draw (bump (lp p 1) 0 1 1 s1)
          let q := draw r.2
          let n := mkPacket k.src 0 (devNum s) 5 0 false false false k.job 0 k.seq 0 6 []
          handOver p k.src false { n with w3 := setFld n.w3 55 0 (Config.freeWord r.1).toNat,
                                          tag := (Config.freeWord (r.1)).append (Config.freeWord q.1) } q.2) :=
    ⟨_, _, rfl, rfl⟩
  obtain ⟨hs1, heq⟩ := hs1
  have hself : Keeps [.out, .regs, .cnt, .rel, .act, .lnk, .keys, .sys] s s := .refl
  have hk1 : Keeps [.out, .regs, .cnt, .rel, .act, .lnk, .keys, .sys] s s1 := by
    rw [hs1]
    exact (hself.step (bump_keeps ..)).step (raiseEv_keeps ..)
  have hbit : bit (getReg s1 (lp p 1) 0x20) 9 = true := hs1 ▸ bit_errSts_raiseEv _ _ _ _ _ (by decide)
  rw [heq]
  cases hkey : (getKey s k.job).cur with
  | some key =>
    dsimp only
    rw [getReg_congr ((nack_keeps ..).1 .regs (by decide))]
    exact ⟨hbit, fun _ => hk1.step (nack_keeps ..)⟩
  | none =>
    refine ⟨?_, fun h => absurd rfl h⟩
    extract_lets r q n
    have hr : Keeps [.free, .cnt] s1 q.2 := by
      have hself1 : Keeps [.free, .cnt] s1 s1 := .refl
      exact ((hself1.step (bump_keeps ..)).step (draw_keeps ..)).step (draw_keeps ..)
    rw [getReg_congr ((handOver_keeps ..).1 .regs (by decide)), getReg_congr (hr.1 .regs (by decide))]
    exact hbit

/-! ### A task that a refusal ends (R263, R264) -/

/-- A task of a queue that works on is ended with the failure. -/
theorem failOwner_fails {s : State} {id : Nat} {u : Task} (f : Fail) (hu : findTask s id = some u) (hp : u.phase = .dispatched)
    (hs : u.status = 0) (hd : u.direct = none) (ha : s.tck.aborting.contains u.id = false) :
    ∃ w, findTask (failOwner id f s) id = some w ∧ w.phase = .complete ∧ w.status = f.status ∧ w.slot = f.slot ∧
      w.fault = word f.detail ∧ Keeps [.cnt, .tasks, .eng, .lnk] s (failOwner id f s) := by
  have hid := findTask_id hu
  have heq : failOwner id f s = finish u f (dropUnsent id s) := by
    unfold failOwner
    rw [hu]
    exact if_neg (by simp [hp, hs])
  have hdrop : findTask (dropUnsent id s) u.id = some u := by
    rw [hid]
    exact hu
  have hfin := findTask_finish f hdrop hd
  have hno : ¬ (dropUnsent id s).tck.aborting.contains u.id = true := by
    show ¬ s.tck.aborting.contains u.id = true
    rw [ha]
    decide
  rw [if_neg hno, hid] at hfin
  have hself : Keeps [.cnt, .tasks, .eng, .lnk] s s := .refl
  rw [heq]
  exact ⟨_, hfin, rfl, rfl, rfl, rfl, (hself.step (dropUnsent_keeps ..)).trans ((finish_queued_keeps hd f _).mono (by decide))⟩

/-! ### Responses (R262, R263) -/

section
variable {s : State} {p : Nat} {k : Packet} {x : Track} {data : List Byte}

theorem onResponse_answers (h : answers s p k x data) (f : Track → List Byte → State → State) :
    onResponse p k f s = f x data (takeOff p k s) := by
  obtain ⟨hrun, hlost, hopen, hmatch⟩ := h
  unfold onResponse
  rw [if_neg (by simp [hrun]), if_neg (by simp [hlost]), hopen, hmatch]

theorem track_takeOff (p : Nat) (k : Packet) (s : State) : (takeOff p k s).lnk.track = s.lnk.track := by
  rw [(takeOff_portOnly p k s).lnk]

theorem cache_takeOff (p : Nat) (k : Packet) (s : State) : (takeOff p k s).lnk.cache = s.lnk.cache := by
  rw [(takeOff_portOnly p k s).lnk]

theorem tasks_takeOff (p : Nat) (k : Packet) (s : State) : (takeOff p k s).tasks = s.tasks := (takeOff_keeps ..).1 .tasks (by decide)

end

theorem cx_ne_port (p : Fin 16) : cx2 ≠ lp p.val 0 ∧ cx2 ≠ lp p.val 1 ∧ cx3 ≠ lp p.val 0 ∧ cx3 ≠ lp p.val 1 := by decide +revert

theorem getReg_takeOff_cx2 (p : Fin 16) (k : Packet) (s : State) {o : Nat} (ho : o < 65536) :
    getReg (takeOff p.val k s) cx2 o = getReg s cx2 o := by
  obtain ⟨h0, h1, -, -⟩ := cx_ne_port p
  exact (takeOff_portOnly ..).regs _ _ h0 h1 ho

theorem getReg_takeOff_cx3 (p : Fin 16) (k : Packet) (s : State) {o : Nat} (ho : o < 65536) :
    getReg (takeOff p.val k s) cx3 o = getReg s cx3 o := by
  obtain ⟨-, -, h2, h3⟩ := cx_ne_port p
  exact (takeOff_portOnly ..).regs _ _ h2 h3 ho

theorem ownerLive_congr {s t : State} (h : t.tasks = s.tasks) (id : Nat) : ownerLive t id = ownerLive s id := by
  unfold ownerLive
  rw [findTask_congr h]

theorem working_live {s : State} {x : Track} {u : Task} (h : working s x u) : ownerLive s x.owner = true := by
  obtain ⟨hu, hp, hs, -⟩ := h
  unfold ownerLive
  rw [hu]
  simp [hp, hs]

/-- A request refused for good, but for its address, ends its task. -/
theorem refuse_fails {s : State} {x : Track} {u : Task} {status : Nat} (hx : x.kind ≠ .readback) (h3 : status ≠ 3) (h : working s x u)
    (ha : s.tck.aborting.contains u.id = false) : ∃ w, findTask (refuse x status s) x.owner = some w ∧ w.phase = .complete ∧
      w.status = status ∧ Keeps [.cnt, .tasks, .eng, .rel, .lnk] s (refuse x status s) := by
  obtain ⟨hu, hp, hs, hd⟩ := h
  have hself : Keeps [.cnt, .tasks, .eng, .rel, .lnk] s s := .refl
  obtain ⟨v, hv⟩ : ∃ v, v = if status = 9 then linkFault x.port x.dev x.k.job 5 s else s := ⟨_, rfl⟩
  have hk : Keeps [.cnt, .tasks, .eng, .rel, .lnk] s v := by
    rw [hv]
    split
    · exact hself.step (linkFault_keeps ..)
    · exact hself
  have hsame : v.tasks = s.tasks ∧ v.tck = s.tck := by
    rw [hv]
    split
    · exact ⟨(linkFault_keeps ..).1 .tasks (by decide), (linkFault_keeps ..).1 .tck (by decide)⟩
    · exact ⟨rfl, rfl⟩
  have heq : refuse x status s = failOwner x.owner { status := status, slot := if status = 9 then reqSlot s x else 0 } v := by
    unfold refuse
    rw [if_neg hx, if_neg h3, hv]
  obtain ⟨w, hw, hphase, hstatus, -, -, hkw⟩ := failOwner_fails { status := status, slot := if status = 9 then reqSlot s x else 0 }
    ((findTask_congr hsame.1 x.owner).trans hu) hp hs hd (by rw [hsame.2]; exact ha)
  rw [heq]
  exact ⟨w, hw, hphase, hstatus, hk.trans (hkw.mono (by decide))⟩

theorem nackEffect_out {s : State} {p status : Nat} {k : Packet} {x : Track} {data : List Byte} (h : answers s p k x data)
    (hlive : ownerLive s x.owner = true)
    (hcode : (k.code = 1 ∧ status = 3) ∨ (k.code, status) ∈ [(4, 7), (2, 9), (5, 9), (7, 9)] ∨
      (k.code = 6 ∧ regFld (takeOff p k s) cx2 0x200 15 12 ≤ x.auth ∧ status = 9)) :
    nackEffect p k s = answered x (refuse x status (dropTrack k.seq (takeOff p k s))) := by
  unfold nackEffect
  rw [onResponse_answers h]
  dsimp only
  rw [if_neg (by simp [ownerLive_congr (tasks_takeOff ..), hlive])]
  rcases hcode with ⟨hc, rfl⟩ | hc | ⟨hc, hauth, rfl⟩
  · rw [hc]
    rfl
  · simp only [List.mem_cons, Prod.mk.injEq, List.not_mem_nil, or_false] at hc
    rcases hc with ⟨hc, rfl⟩ | ⟨hc, rfl⟩ | ⟨hc, rfl⟩ | ⟨hc, rfl⟩ <;> rw [hc] <;> rfl
  · rw [hc]
    exact if_neg (by omega)

/-! ### An address refused (R263) -/

theorem reqLow_congr {s t : State} (h : t.tasks = s.tasks) (x : Track) : reqLow t x = reqLow s x := by
  unfold reqLow
  rw [findTask_congr h]

theorem reqSlot_congr {s t : State} (h : t.tasks = s.tasks) (x : Track) : reqSlot t x = reqSlot s x := by
  unfold reqSlot
  rw [findTask_congr h]

/-- What a task notes of a refused address is no part of what its requests ask for. -/
theorem reqLow_noted {s : State} {u : Task} (hu : findTask s u.id = some u) (n : Option (Nat × Nat)) (y : Track) :
    reqLow (putTask { u with nacked := n } s) y = reqLow s y := by
  unfold reqLow
  by_cases hid : y.owner = u.id
  · have hput : findTask (putTask { u with nacked := n } s) y.owner = some { u with nacked := n } := by
      rw [hid]
      exact findTask_putTask s { u with nacked := n } u hu
    rw [hput, hid, hu]
    generalize y.kind = kind
    cases kind <;> rfl
  · rw [findTask_putTask_ne (t := { u with nacked := n }) hid]

/-- The requests of the task at lower addresses that are outstanding. -/
def lowerOut (s : State) (track : Map Track) (x : Track) : Prop :=
  ∃ y ∈ track, y.2.owner = x.owner ∧ y.2.state = 1 ∧ y.2.kind ≠ .resolve ∧ reqLow s y.2 < reqLow s x

/-- The task with its refused address noted. -/
def notedTask (s : State) (x : Track) (u : Task) : Task := { u with nacked := some (reqLow s x, reqSlot s x) }

/-- The state in which the first address refused to a task is judged. -/
def notedState (s : State) (x : Track) (u : Task) : State := dropUnsent x.owner (putTask (notedTask s x u) s)

theorem noteNack_first {s : State} {x : Track} {u : Task} (h : working s x u) (hn : u.nacked = none) :
    noteNack x s = if (notedState s x u).lnk.track.any (fun y => y.2.owner == x.owner && y.2.state != 0 && y.2.kind != .resolve &&
        decide (reqLow (notedState s x u) y.2 < reqLow s x)) then notedState s x u
      else failOwner x.owner { status := 3, slot := reqSlot s x, detail := reqLow s x } (notedState s x u) := by
  obtain ⟨hu, hp, hs, -⟩ := h
  have hid := findTask_id hu
  have hput : findTask (notedState s x u) x.owner = some (notedTask s x u) := by
    rw [← hid] at hu ⊢
    exact findTask_putTask s (notedTask s x u) u hu
  unfold noteNack
  rw [hu]
  dsimp only
  rw [if_neg (by simp [hp, hs]), hn]
  show settleNack x.owner (notedState s x u) = _
  unfold settleNack
  rw [hput]
  rfl

theorem lower_any {s : State} {x : Track} {u : Task} (hu : findTask s u.id = some u) :
    ((notedState s x u).lnk.track.any (fun y => y.2.owner == x.owner && y.2.state != 0 && y.2.kind != .resolve &&
        decide (reqLow (notedState s x u) y.2 < reqLow s x)) = true) ↔ lowerOut s s.lnk.track x := by
  have hlow (y : Track) : reqLow (notedState s x u) y = reqLow s y := reqLow_noted hu _ y
  have htrack : (notedState s x u).lnk.track = s.lnk.track.filter (fun y => y.2.owner != x.owner || y.2.state == 1) := rfl
  rw [htrack, List.any_eq_true]
  unfold lowerOut
  constructor
  · rintro ⟨y, hy, hb⟩
    simp only [Bool.and_eq_true, beq_iff_eq, bne_iff_ne, decide_eq_true_eq, hlow] at hb
    obtain ⟨⟨⟨howner, -⟩, hkind⟩, hlt⟩ := hb
    rw [List.mem_filter] at hy
    have hstate : y.2.state = 1 := by simpa [howner] using hy.2
    exact ⟨y, hy.1, howner, hstate, hkind, hlt⟩
  · rintro ⟨y, hy, howner, hstate, hkind, hlt⟩
    refine ⟨y, List.mem_filter.mpr ⟨hy, by simp [hstate]⟩, ?_⟩
    simp [hlow, howner, hstate, hkind, hlt]

/-- The first address refused to a task ends it, unless a request at a lower one is outstanding. -/
theorem noteNack_spec {s : State} {x : Track} {u : Task} (h : working s x u) (hn : u.nacked = none)
    (ha : s.tck.aborting.contains u.id = false) : ∃ w, findTask (noteNack x s) x.owner = some w ∧
      (¬ lowerOut s s.lnk.track x → w.phase = .complete ∧ w.status = 3 ∧ w.slot = reqSlot s x ∧ w.fault = word (reqLow s x)) ∧
      (lowerOut s s.lnk.track x → w.phase = .dispatched ∧ w.nacked = some (reqLow s x, reqSlot s x)) := by
  obtain ⟨hu, hp, hs, hd⟩ := id h
  have hid := findTask_id hu
  have hput : findTask (notedState s x u) x.owner = some (notedTask s x u) := by
    rw [← hid] at hu ⊢
    exact findTask_putTask s (notedTask s x u) u hu
  have hany := lower_any (s := s) (x := x) (u := u) (by rw [hid]; exact hu)
  rw [noteNack_first h hn]
  by_cases hlow : lowerOut s s.lnk.track x
  · rw [if_pos (hany.mpr hlow)]
    exact ⟨_, hput, fun hno => absurd hlow hno, fun _ => ⟨hp, rfl⟩⟩
  · rw [if_neg (fun hb => hlow (hany.mp hb))]
    obtain ⟨w, hw, hphase, hstatus, hslot, hfault, -⟩ := failOwner_fails { status := 3, slot := reqSlot s x, detail := reqLow s x }
      hput hp hs hd ha
    exact ⟨w, hw, fun _ => ⟨hphase, hstatus, hslot, hfault⟩, fun h => absurd h hlow⟩

/-! ### Notices (R273) -/

theorem noticeEffect_known {s : State} {p : Nat} {k : Packet} {data : List Byte} (h : takesRequests s p k) (ho : openPacket s k = some data)
    (h1 : 1 ≤ k.code) (h4 : k.code ≤ 4) (hdst : k.hop = true ∨ k.dst = devNum s) :
    ∃ cause tick d0 d1 d2 d3, noticeEffect p k s =
      noticeRecord k.w0 k.w1 k.code cause false p tick [d0, d1, d2, d3] (takeOff p k s) := by
  obtain ⟨hrun, hwork, hlost⟩ := h
  have hno : ¬ (k.code < 1 ∨ 4 < k.code ∨ (k.hop = false ∧ k.dst ≠ devNum s)) := by
    rintro (h | h | ⟨hhop, hne⟩)
    · omega
    · omega
    · rcases hdst with h | h
      · rw [h] at hhop
        cases hhop
      · exact hne h
  unfold noticeEffect
  rw [if_neg (by simp [hrun, hwork]), if_neg (by simp [hlost]), ho]
  dsimp only
  rw [if_neg hno]
  exact ⟨_, _, _, _, _, _, rfl⟩

/-! ### Requests answered too late (R264, R291) -/

theorem working_congr {s t : State} (h : t.tasks = s.tasks) {x : Track} {u : Task} (hw : working s x u) : working t x u := by
  obtain ⟨hu, hp, hs, hd⟩ := hw
  exact ⟨(findTask_congr h x.owner).trans hu, hp, hs, hd⟩

/-- A timeout is counted and raised. -/
def timedOut (s : State) : State := bump cx2 0 3 1 (raise cx2 9 0 s)

theorem timedOut_keeps (s : State) : Keeps [.out, .regs, .cnt, .sys] s (timedOut s) := by
  have hself : Keeps [.out, .regs, .cnt, .sys] s s := .refl
  exact (hself.step (raise_keeps ..)).step (bump_keeps ..)

theorem bit_timedOut (s : State) : bit (getReg (timedOut s) cx2 0x20) 9 = true := by
  rw [timedOut, getReg_congr ((bump_keeps ..).1 .regs (by decide))]
  exact bit_errSts_raise _ _ _ _ (by decide)

theorem respTimeoutEffect_sent {s : State} {seq : Nat} {x : Track} (hx : getTrack s seq = some x) (h1 : x.state = 1)
    (he : x.kind ≠ .exchange) : respTimeoutEffect seq s =
      if x.kind = .contribute then
        answered x (failOwner x.owner { status := 9, slot := reqSlot s x }
          (dropTrack seq (maskedFault cx2 9 x.port x.dev x.k.job 0xA (timedOut s))))
      else if ownerLive s x.owner = false then answered x (dropTrack seq (timedOut s))
      else if x.timeouts < 2 then
        if x.kind = .resolve then
          (match route s x.dev with
           | some p => sendTrack seq { x with timeouts := x.timeouts + 1, state := 0 } p (bump cx2 0 2 1 (timedOut s))
           | none => refuse x 9 (dropTrack seq (bump cx2 0 2 1 (timedOut s))))
        else answered x (setTrack seq { x with timeouts := x.timeouts + 1, state := 0 } (bump cx2 0 2 1 (timedOut s)))
      else answered x (refuse x 9 (dropTrack seq (timedOut s))) := by
  unfold respTimeoutEffect
  rw [hx]
  dsimp only
  rw [if_neg (by simp [h1, he])]
  rfl

/-- A masked link fault leaves the tasks and the registers. -/
theorem maskedFault_same (page i port dev job kind : Nat) (s : State) :
    (maskedFault page i port dev job kind s).tasks = s.tasks ∧ (maskedFault page i port dev job kind s).tck = s.tck ∧
      (maskedFault page i port dev job kind s).regs = s.regs ∧ (maskedFault page i port dev job kind s).mem = s.mem :=
  ⟨(maskedFault_keeps ..).1 .tasks (by decide), (maskedFault_keeps ..).1 .tck (by decide), (maskedFault_keeps ..).1 .regs (by decide),
    (maskedFault_keeps ..).1 .mem (by decide)⟩

/-- Settles O41: what a refusal, a notice or a timeout does is said of the state in which its packet has been taken off its queue. -/
theorem refusalsNoticesAndTimeouts : Obligations.RefusalsNoticesAndTimeouts := by
  refine ⟨?header, ?range, ?tag, ?lost, ?notice, ?refused, ?address, ?noSlot, ?stale, ?retry, ?ended, ?again, ?resolve, ?failed, ?slotRetry, ?redTimeout⟩
  case header =>
    intro s p k x code hx h hc
    obtain ⟨f, hf⟩ := exec_request hx s
    have hself : Keeps [.out, .regs, .cnt, .rel, .act, .lnk, .keys, .sys] s s := .refl
    refine ⟨_, hf, accept_badHeader h hc, ?_⟩
    rw [accept_badHeader h hc]
    exact ((hself.step (takeOff_keeps ..)).step (nack_keeps ..)).1
  case range =>
    intro s p k x hx h hc hn hr
    obtain ⟨f, hf⟩ := exec_request hx s
    have hself : Keeps [.out, .regs, .cnt, .rel, .act, .lnk, .keys, .sys] s s := .refl
    refine ⟨_, hf, accept_badRange h hc hn hr, ?_⟩
    rw [accept_badRange h hc hn hr]
    exact ((hself.step (takeOff_keeps ..)).step (nack_keeps ..)).1
  case tag =>
    intro s p k x hx h hc hr ho
    obtain ⟨f, hf⟩ := exec_request hx s
    obtain ⟨hbit, hkey⟩ := authFail_spec p.val k (takeOff p.val k s)
    have hoff := takeOff_keeps p.val k s
    have hkeys : getKey (takeOff p.val k s) k.job = getKey s k.job := by
      unfold getKey
      rw [hoff.1 .keys (by decide)]
    rw [accept_badTag h hc hr ho] at hf
    rw [hkeys] at hkey
    have hself : Keeps [.out, .regs, .cnt, .rel, .act, .lnk, .keys, .sys, .free] s s := .refl
    exact ⟨_, hf, hbit, fun hne => ((hoff.mono (by decide)).trans (hkey hne)).1,
      ((hself.step (takeOff_keeps ..)).step (authFail_keeps ..)).1⟩
  case lost =>
    intro s p k x hx hrun hwork hlost
    have hexec : exec x.1 s = .next (rxCheck p.val k.isResp s) := by
      rcases List.mem_append.mp hx with hx | hx
      · obtain ⟨f, hf⟩ := exec_request hx s
        rw [hf, accept_lost hrun hwork hlost]
      · simp only [List.mem_cons, List.not_mem_nil, or_false] at hx
        rcases hx with rfl | rfl | rfl | rfl <;> exact congrArg Host.Outcome.next (onResponse_lost hrun hlost)
    exact ⟨_, hexec, rfl, (rxCheck_keeps ..).1 .mem (by decide), (rxCheck_keeps ..).1 .tasks (by decide)⟩
  case notice =>
    intro s p k data h ho h1 h4 hdst hroom a
    obtain ⟨cause, tick, d0, d1, d2, d3, heff⟩ := noticeEffect_known h ho h1 h4 hdst
    obtain ⟨u, hu⟩ : ∃ u, u = takeOff p.val k s := ⟨_, rfl⟩
    rw [← hu] at heff
    have hring : regFld u cx3 0x210 7 0 = regFld s cx3 0x210 7 0 := by rw [hu, regFld, getReg_takeOff_cx3 _ _ _ (by decide), regFld]
    have hread : regFld u cx3 0x210 23 16 = regFld s cx3 0x210 23 16 := by rw [hu, regFld, getReg_takeOff_cx3 _ _ _ (by decide), regFld]
    have hbase : regFld u cx3 0x208 49 0 = regFld s cx3 0x208 49 0 := by rw [hu, regFld, getReg_takeOff_cx3 _ _ _ (by decide), regFld]
    obtain ⟨hmem, hwr, -, -⟩ := noticeRecord_spec (s := u) k.w0 k.w1 k.code cause false p.val tick [d0, d1, d2, d3] (by rwa [hring, hread])
    rw [hring, hbase, hu, takeOff_mem, ← hu] at hmem
    rw [hring] at hwr
    have hkeeps := noticeEffect_keeps p.val k s
    rw [heff] at hkeeps
    refine ⟨_, congrArg Host.Outcome.next heff, fun hinv => ?_, hwr, hkeeps.1⟩
    rw [hmem]
    obtain ⟨hw0, -, hrest⟩ := memWord_memStore_record hinv a k.w0 k.w1
      (word (k.code % 256 + cause % 256 * 256 + b2n false * 2 ^ 16 + p.val * 2 ^ 17)) (word tick) d0 d1 d2 d3
    exact ⟨hw0, memWord_memStore_words hinv a [k.w0] k.w1 [_, word tick, d0, d1, d2, d3] (length_wordsBytes _), hrest⟩
  case refused =>
    intro s p k x data u status h hcode hkind hw ha
    have hauth : regFld (takeOff p.val k s) cx2 0x200 15 12 = regFld s cx2 0x200 15 12 := by
      rw [regFld, getReg_takeOff_cx2 _ _ _ (by decide), regFld]
    have heff : nackEffect p.val k s = _ := nackEffect_out (status := status) h (working_live hw) (.inr (by rwa [hauth]))
    have h3 : status ≠ 3 := by
      rcases hcode with hc | ⟨-, -, rfl⟩
      · simp only [List.mem_cons, Prod.mk.injEq, List.not_mem_nil, or_false] at hc
        omega
      · decide
    have hw' : working (dropTrack k.seq (takeOff p.val k s)) x u := working_congr (tasks_takeOff ..) hw
    have ha' : (dropTrack k.seq (takeOff p.val k s)).tck.aborting.contains u.id = false := by
      show (takeOff p.val k s).tck.aborting.contains u.id = false
      rw [(takeOff_keeps ..).1 .tck (by decide)]
      exact ha
    obtain ⟨w, hfind, hphase, hstatus, -⟩ := refuse_fails hkind h3 hw' ha'
    have hkeeps := nackEffect_keeps p.val k s
    rw [heff] at hkeeps
    exact ⟨_, w, congrArg Host.Outcome.next heff, hfind, hphase, hstatus, hkeeps.1⟩
  case address =>
    intro s p k x data u h hc hkind hw ha hn
    have heff : nackEffect p.val k s = _ := nackEffect_out (status := 3) h (working_live hw) (.inl ⟨hc, rfl⟩)
    obtain ⟨v, hv⟩ : ∃ v, v = dropTrack k.seq (takeOff p.val k s) := ⟨_, rfl⟩
    have htasks : v.tasks = s.tasks := hv ▸ tasks_takeOff p.val k s
    have htck : v.tck = s.tck := hv ▸ (takeOff_keeps p.val k s).1 .tck (by decide)
    have htrack : v.lnk.track = mdel s.lnk.track k.seq := by
      rw [hv]
      exact congrArg (mdel · k.seq) (track_takeOff p.val k s)
    have href : refuse x 3 v = noteNack x v := by
      unfold refuse
      rw [if_neg hkind]
      exact if_pos rfl
    rw [← hv, href] at heff
    obtain ⟨w, hfind, hends, hwaits⟩ := noteNack_spec (working_congr htasks hw) hn (by rw [htck]; exact ha)
    have hlow : lowerOut v v.lnk.track x ↔ ∃ y ∈ mdel s.lnk.track k.seq, y.2.owner = x.owner ∧ y.2.state = 1 ∧ y.2.kind ≠ .resolve ∧
        reqLow s y.2 < reqLow s x := by
      unfold lowerOut
      simp only [htrack, reqLow_congr htasks]
    rw [hlow, reqLow_congr htasks, reqSlot_congr htasks] at hends hwaits
    have hkeeps := nackEffect_keeps p.val k s
    rw [heff] at hkeeps
    refine ⟨_, w, congrArg Host.Outcome.next heff, hfind, fun hall => hends ?_, hwaits, hkeeps.1⟩
    rintro ⟨y, hy, howner, hstate, hres, hlt⟩
    rcases hall y hy howner hstate with h | h
    · exact hres h
    · omega
  case noSlot =>
    intro s p k x data h hc hlive
    have heff : nackEffect p.val k s = bump cx3 1 1 1 (setTrack k.seq { x with state := 2 } (takeOff p.val k s)) := by
      unfold nackEffect
      rw [onResponse_answers h]
      dsimp only
      rw [if_neg (by simp [ownerLive_congr (tasks_takeOff ..), hlive]), hc]
      rfl
    refine ⟨_, congrArg Host.Outcome.next heff, ?_, ?_, ?_⟩
    · rw [getTrack, (bump_keeps ..).1 .lnk (by decide)]
      exact (mfind_mput ..).trans (if_pos rfl)
    · rw [(bump_keeps ..).1 .tasks (by decide)]
      exact tasks_takeOff ..
    · rw [(bump_keeps ..).1 .mem (by decide)]
      exact takeOff_mem ..
  case stale =>
    intro s p k x data h hc hlive hres
    obtain ⟨cache, hcache⟩ : ∃ c, c = (takeOff p.val k s).lnk.cache.filter (fun w => !(w.dev == x.dev && w.unit == x.k.unit)) := ⟨_, rfl⟩
    obtain ⟨u, hu⟩ : ∃ u : State, u = { takeOff p.val k s with lnk := { (takeOff p.val k s).lnk with cache := cache } } := ⟨_, rfl⟩
    have heff : nackEffect p.val k s = answered x (setTrack k.seq { x with state := 0, asking := false } (bump cx2 0 2 1 (bump cx2 0 1 1 u))) := by
      unfold nackEffect
      rw [onResponse_answers h]
      dsimp only
      rw [if_neg (by simp [ownerLive_congr (tasks_takeOff ..), hlive]), hc]
      refine (if_neg ?_).trans (by rw [hu, hcache])
      rw [getReg_takeOff_cx2 _ _ _ (by decide)]
      exact Nat.not_le.mpr hres
    have hlnk : (bump cx2 0 2 1 (bump cx2 0 1 1 u)).lnk = u.lnk := by
      rw [(bump_keeps ..).1 .lnk (by decide), (bump_keeps ..).1 .lnk (by decide)]
    refine ⟨_, congrArg Host.Outcome.next heff, ?_, ?_, ?_, ?_⟩
    · exact (mfind_mput ..).trans (if_pos rfl)
    · show (bump cx2 0 2 1 (bump cx2 0 1 1 u)).lnk.cache = _
      rw [hlnk, hu, ← cache_takeOff p.val k s]
      exact hcache
    · show (bump cx2 0 2 1 (bump cx2 0 1 1 u)).tasks = _
      rw [(bump_keeps ..).1 .tasks (by decide), (bump_keeps ..).1 .tasks (by decide), hu]
      exact tasks_takeOff ..
    · show (bump cx2 0 2 1 (bump cx2 0 1 1 u)).mem = _
      rw [(bump_keeps ..).1 .mem (by decide), (bump_keeps ..).1 .mem (by decide), hu]
      exact takeOff_mem ..
  case retry =>
    intro s p k x data h hc hlive hauth
    have heff : nackEffect p.val k s = sendTrack k.seq { x with auth := x.auth + 1 } x.port (bump cx2 0 2 1 (takeOff p.val k s)) := by
      unfold nackEffect
      rw [onResponse_answers h]
      dsimp only
      rw [if_neg (by simp [ownerLive_congr (tasks_takeOff ..), hlive]), hc]
      refine if_pos ?_
      rw [regFld, getReg_takeOff_cx2 _ _ _ (by decide)]
      exact hauth
    exact congrArg Host.Outcome.next heff
  case ended =>
    intro s p k x data h hdead
    obtain ⟨u, hu⟩ : ∃ u, u = if k.code = 3 then bump cx2 0 1 1 (takeOff p.val k s) else if k.code = 8 then bump cx3 1 1 1 (takeOff p.val k s)
      else takeOff p.val k s := ⟨_, rfl⟩
    have hk : Keeps [.cnt] (takeOff p.val k s) u := by
      rw [hu]
      split
      · exact bump_keeps ..
      · split
        · exact bump_keeps ..
        · exact .refl
    have heff : nackEffect p.val k s = answered x (dropTrack k.seq u) := by
      unfold nackEffect
      rw [onResponse_answers h]
      dsimp only
      rw [if_pos ((ownerLive_congr (tasks_takeOff ..) _).trans hdead), hu]
    refine ⟨_, congrArg Host.Outcome.next heff, ?_, ?_, ?_⟩
    · show mdel u.lnk.track k.seq = _
      rw [hk.1 .lnk (by decide), track_takeOff]
    · show u.tasks = _
      rw [hk.1 .tasks (by decide), tasks_takeOff]
    · show u.mem = _
      rw [hk.1 .mem (by decide), takeOff_mem]
  case again =>
    intro s seq x hx h1 he hcon hres hlive ht
    have heff := respTimeoutEffect_sent hx h1 he
    rw [if_neg hcon, if_neg (by simp [hlive]), if_pos ht, if_neg hres] at heff
    have hk := timedOut_keeps s
    refine ⟨_, congrArg Host.Outcome.next heff, (mfind_mput ..).trans (if_pos rfl), ?_, ?_, ?_⟩
    · rw [getReg_congr ((setTrack_keeps ..).1 .regs (by decide)), getReg_congr ((bump_keeps ..).1 .regs (by decide))]
      exact bit_timedOut s
    · show (bump cx2 0 2 1 (timedOut s)).tasks = _
      rw [(bump_keeps ..).1 .tasks (by decide), hk.1 .tasks (by decide)]
    · show (bump cx2 0 2 1 (timedOut s)).mem = _
      rw [(bump_keeps ..).1 .mem (by decide), hk.1 .mem (by decide)]
  case resolve =>
    intro s seq x port hx h1 hkind hlive ht hroute
    have heff := respTimeoutEffect_sent hx h1 (by rw [hkind]; decide)
    rw [if_neg (by rw [hkind]; decide), if_neg (by simp [hlive]), if_pos ht, if_pos hkind, hroute] at heff
    exact congrArg Host.Outcome.next heff
  case failed =>
    intro s seq x u hx h1 hkind hw ha
    have hk := timedOut_keeps s
    have he : x.kind ≠ .exchange := by
      rcases hkind with h | ⟨h, -, -⟩
      · rw [h]
        decide
      · exact h
    have heff := respTimeoutEffect_sent hx h1 he
    by_cases hcon : x.kind = .contribute
    · rw [if_pos hcon] at heff
      obtain ⟨htasks, htck, hregs, hmem⟩ := maskedFault_same cx2 9 x.port x.dev x.k.job 0xA (timedOut s)
      obtain ⟨v, hv⟩ : ∃ v, v = dropTrack seq (maskedFault cx2 9 x.port x.dev x.k.job 0xA (timedOut s)) := ⟨_, rfl⟩
      have hvt : v.tasks = s.tasks := by rw [hv]; exact htasks.trans (hk.1 .tasks (by decide))
      have hvc : v.tck = s.tck := by rw [hv]; exact htck.trans (hk.1 .tck (by decide))
      have hvm : v.mem = s.mem := by rw [hv]; exact hmem.trans (hk.1 .mem (by decide))
      have hvr : v.regs = (timedOut s).regs := by rw [hv]; exact hregs
      rw [← hv] at heff
      obtain ⟨hu, hp, hs, hd⟩ := working_congr hvt hw
      obtain ⟨w, hfind, hphase, hstatus, -, -, hkw⟩ := failOwner_fails { status := 9, slot := reqSlot s x } hu hp hs hd (by rw [hvc]; exact ha)
      refine ⟨_, w, congrArg Host.Outcome.next heff, hfind, hphase, hstatus, ?_, ?_⟩
      · rw [getReg_congr (hkw.1 .regs (by decide)), getReg_congr hvr]
        exact bit_timedOut s
      · rw [hkw.1 .mem (by decide), hvm]
    · obtain ⟨-, hread, htime⟩ := hkind.resolve_left hcon
      rw [if_neg hcon, if_neg (by simp [working_live hw]), if_neg (by omega)] at heff
      obtain ⟨w, hfind, hphase, hstatus, hkw⟩ := refuse_fails (s := dropTrack seq (timedOut s)) hread (by decide : 9 ≠ 3)
        (working_congr (hk.1 .tasks (by decide)) hw) (by
          show (timedOut s).tck.aborting.contains u.id = false
          rw [hk.1 .tck (by decide)]
          exact ha)
      refine ⟨_, w, congrArg Host.Outcome.next heff, hfind, hphase, hstatus, ?_, ?_⟩
      · rw [getReg_congr (hkw.1 .regs (by decide)), getReg_congr ((dropTrack_keeps ..).1 .regs (by decide))]
        exact bit_timedOut s
      · rw [hkw.1 .mem (by decide)]
        exact hk.1 .mem (by decide)
  case slotRetry =>
    intro s seq x port hx h2 hlive hroute
    have heff : noslotEffect seq s = sendTrack seq x port (bump cx2 0 2 1 s) := by
      unfold noslotEffect
      rw [hx]
      dsimp only
      rw [if_neg (by simp [h2]), if_neg (by simp [hlive]), hroute]
    refine ⟨_, congrArg Host.Outcome.next heff, rfl, ?_, fun y hy => ?_⟩
    · rw [(sendTrack_keeps ..).1 .mem (by decide), (bump_keeps ..).1 .mem (by decide)]
    · unfold sendTrack
      rw [hy]
  case redTimeout =>
    intro s seq x u hx h2 hw ha
    obtain ⟨v, hv⟩ : ∃ v, v = dropTrack seq (maskedFault cx3 11 x.port x.dev x.k.job 0xA (raise cx3 11 0 s)) := ⟨_, rfl⟩
    have heff : redTimeoutEffect seq s = answered x (failOwner x.owner { status := 9, slot := reqSlot s x } v) := by
      unfold redTimeoutEffect
      rw [hx]
      dsimp only
      rw [if_pos h2, hv]
    obtain ⟨htasks, htck, hregs, hmem⟩ := maskedFault_same cx3 11 x.port x.dev x.k.job 0xA (raise cx3 11 0 s)
    have hvt : v.tasks = s.tasks := by rw [hv]; exact htasks.trans ((raise_keeps ..).1 .tasks (by decide))
    have hvc : v.tck = s.tck := by rw [hv]; exact htck.trans ((raise_keeps ..).1 .tck (by decide))
    have hvm : v.mem = s.mem := by rw [hv]; exact hmem.trans ((raise_keeps ..).1 .mem (by decide))
    have hvr : v.regs = (raise cx3 11 0 s).regs := by rw [hv]; exact hregs
    obtain ⟨hu, hp, hs, hd⟩ := working_congr hvt hw
    obtain ⟨w, hfind, hphase, hstatus, -, -, hkw⟩ := failOwner_fails { status := 9, slot := reqSlot s x } hu hp hs hd (by rw [hvc]; exact ha)
    refine ⟨_, w, congrArg Host.Outcome.next heff, hfind, hphase, hstatus, ?_, ?_⟩
    · rw [getReg_congr (hkw.1 .regs (by decide)), getReg_congr hvr]
      exact bit_errSts_raise _ _ _ _ (by decide)
    · rw [hkw.1 .mem (by decide), hvm]

end Sys2Proof.Machine
end

section
/-! SUPPORT. What a granule writes: the bytes of its buffer, in memory or provisionally (R61, R84). -/

namespace Sys2Proof.Machine

/-! ### Bytes laid over others -/

/-- The bytes `bs` from `a` on, and what was there elsewhere. -/
def overlay (a : Nat) (bs : List Byte) (g : Nat → Byte) (x : Nat) : Byte := if a ≤ x ∧ x < a + bs.length then bs.getD (x - a) 0 else g x

theorem overlay_nil (a : Nat) (g : Nat → Byte) : overlay a [] g = g := by
  funext x
  exact if_neg (by rw [List.length_nil]; omega)

theorem overlay_append (a : Nat) (bs cs : List Byte) (g : Nat → Byte) :
    overlay (a + bs.length) cs (overlay a bs g) = overlay a (bs ++ cs) g := by
  funext x
  simp only [overlay, List.length_append, List.getD_eq_getElem?_getD, List.getElem?_append]
  by_cases h1 : a + bs.length ≤ x ∧ x < a + bs.length + cs.length
  · rw [if_pos h1, if_pos (by omega), if_neg (by omega), Nat.sub_sub]
  · rw [if_neg h1]
    by_cases h2 : a ≤ x ∧ x < a + bs.length
    · rw [if_pos h2, if_pos (by omega), if_pos (by omega)]
    · rw [if_neg h2, if_neg (by omega)]

/-- Writing runs within a line lays their bytes over what a reader sees. -/
structure Lays (ok : State → Prop) (view : State → Nat → Byte) (write : State → Nat × List Byte → State) : Prop where
  lays : ∀ s a bs, ok s → bs ≠ [] → a % 256 + bs.length ≤ 256 → ok (write s (a, bs)) ∧ view (write s (a, bs)) = overlay a bs (view s)

section
variable {ok : State → Prop} {view : State → Nat → Byte} {write : State → Nat × List Byte → State}

theorem Lays.cut (h : Lays ok view write) (k a : Nat) (bs : List Byte) {s : State} (hok : ok s) (hk : a % 256 + bs.length ≤ 256 * k) :
    ok ((cutLines k a bs).foldl write s) ∧ view ((cutLines k a bs).foldl write s) = overlay a bs (view s) := by
  induction k generalizing a bs s with
  | zero =>
    have hnil : bs = [] := List.length_eq_zero_iff.mp (by omega)
    subst hnil
    exact ⟨hok, (overlay_nil ..).symm⟩
  | succ k ih =>
    cases bs with
    | nil => exact ⟨hok, (overlay_nil ..).symm⟩
    | cons b bs =>
      unfold cutLines
      dsimp only
      split
      next hshort => exact h.lays s a (b :: bs) hok (List.cons_ne_nil b bs) (by omega)
      next hlong =>
        have hlen : ((b :: bs).take (256 - a % 256)).length = 256 - a % 256 := by
          rw [List.length_take]
          omega
        have hne : (b :: bs).take (256 - a % 256) ≠ [] := fun hnil => by
          rw [hnil, List.length_nil] at hlen
          omega
        obtain ⟨hok1, hv1⟩ := h.lays s a ((b :: bs).take (256 - a % 256)) hok hne (by omega)
        obtain ⟨hok2, hv2⟩ := ih (a + (256 - a % 256)) ((b :: bs).drop (256 - a % 256)) hok1 (by rw [List.length_drop]; omega)
        refine ⟨hok2, hv2.trans ?_⟩
        have happ := overlay_append a ((b :: bs).take (256 - a % 256)) ((b :: bs).drop (256 - a % 256)) (view s)
        rwa [hlen, List.take_append_drop, ← hv1] at happ

/-- The runs `ws` laid one after the other. -/
def layAll (ws : List (Nat × List Byte)) (g : Nat → Byte) : Nat → Byte := ws.foldl (fun g w => overlay w.1 w.2 g) g

theorem Lays.runs (h : Lays ok view write) (ws : List (Nat × List Byte)) {s : State} (hok : ok s) :
    ok ((ws.flatMap (fun w => cutLines (w.2.length / 256 + 2) w.1 w.2)).foldl write s) ∧
      view ((ws.flatMap (fun w => cutLines (w.2.length / 256 + 2) w.1 w.2)).foldl write s) = layAll ws (view s) := by
  induction ws generalizing s with
  | nil => exact ⟨hok, rfl⟩
  | cons w ws ih =>
    obtain ⟨hok1, hv1⟩ := h.cut (w.2.length / 256 + 2) w.1 w.2 hok (by omega)
    obtain ⟨hok2, hv2⟩ := ih hok1
    rw [List.flatMap_cons, List.foldl_append]
    refine ⟨hok2, hv2.trans ?_⟩
    rw [hv1]
    rfl

end

theorem layAll_joinRuns (ws : List (Nat × List Byte)) (g : Nat → Byte) : layAll (joinRuns ws) g = layAll ws g := by
  induction ws generalizing g with
  | nil => rfl
  | cons w ws ih =>
    obtain ⟨a, bs⟩ := w
    have hcons : layAll ((a, bs) :: ws) g = layAll (joinRuns ws) (overlay a bs g) := (ih (overlay a bs g)).symm
    rw [hcons]
    unfold layAll
    rw [joinRuns]
    cases joinRuns ws with
    | nil => rfl
    | cons y rest =>
      obtain ⟨b, cs⟩ := y
      dsimp only
      split
      next hb =>
        rw [List.foldl_cons, List.foldl_cons, ← hb, overlay_append]
      · rfl

theorem mfind_cons {α : Type} (k : Nat) (v : α) (m : Map α) (n : Nat) : mfind ((k, v) :: m) n = if k = n then some v else mfind m n := rfl

theorem mfind_eq_none {α : Type} {m : Map α} {k : Nat} (h : k ∉ m.map (·.1)) : mfind m k = none := by
  induction m with
  | nil => rfl
  | cons y m ih =>
    rw [List.map_cons, List.mem_cons, not_or] at h
    exact (if_neg (Ne.symm h.1)).trans (ih h.2)

/-- A buffer's bytes laid over others: each address has its own. -/
theorem layAll_bufWrites {b : Buf} (h : (b.map (·.1)).Nodup) (g : Nat → Byte) (x : Nat) :
    layAll (bufWrites b) g x = (mfind b x).getD (g x) := by
  induction b generalizing g with
  | nil => rfl
  | cons y b ih =>
    obtain ⟨a, v⟩ := y
    rw [List.map_cons, List.nodup_cons] at h
    have hstep : layAll (bufWrites ((a, v) :: b)) g x = (mfind b x).getD (overlay a [v] g x) := ih h.2 (overlay a [v] g)
    rw [hstep, mfind_cons]
    by_cases hx : a = x
    · subst hx
      rw [mfind_eq_none h.1, if_pos rfl]
      simp [overlay]
    · have hover : overlay a [v] g x = g x := if_neg (by simp; omega)
      rw [if_neg hx, hover]

/-! ### Memory and the provisional lines -/

/-- A run stored in memory. -/
theorem lays_writeRun (cls : Nat) : Lays (fun s => s.Inv) (fun s a => memGet s.mem a) (fun u w => writeRun cls none w.1 w.2 u) := by
  refine ⟨fun s a bs hinv _ _ => ⟨?_, ?_⟩⟩
  · show Memory.wf (writeRun cls none a bs s).mem = true
    rw [writeRun_mem]
    exact memStore_wf hinv
  · funext x
    show memGet (writeRun cls none a bs s).mem x = _
    rw [writeRun_mem, memGet_memStore hinv]
    rfl

/-- What a task whose view takes the writes of `vis` in sees. -/
def sees (t : Task) (vis : List Nat) (s : State) (a : Nat) : Byte := viewByte s (some { t with vis := vis }) a

/-- A provisional run as a task makes it. -/
def provWrite (t : Task) (u : State) (w : Nat × List Byte) : State := provRun t w.1 w.2 (addAct u.actJob 5 w.2.length u)

/-- The provisional line a task writes to. -/
def provMine (t : Task) (line : Nat) (p : ProvLine) : Bool := p.job == t.job && p.gid == t.gid && p.use == t.use && p.line == line

theorem sees_spec {t : Task} (h : t.spec = true) (vis : List Nat) (s : State) (a : Nat) : sees t vis s a =
    match s.prov.find? (provMine t (lineOf a)) with
    | some p => (provByte p vis (a % 256)).getD (memGet s.mem a)
    | none => memGet s.mem a := if_pos h

/-- The bytes of a provisional run, as its line holds them. -/
def runEntries (t : Task) (a : Nat) (bs : List Byte) : List (Nat × Nat × Byte) :=
  ((List.range bs.length).zip bs).map (fun x => (a % 256 + x.1, t.id, x.2))

theorem mem_runEntries {t : Task} {a : Nat} {bs : List Byte} {y : Nat × Nat × Byte} (h : y ∈ runEntries t a bs) :
    a % 256 ≤ y.1 ∧ y.1 < a % 256 + bs.length ∧ y.2.1 = t.id ∧ y.2.2 = bs.getD (y.1 - a % 256) 0 := by
  obtain ⟨z, hz, rfl⟩ := List.mem_map.mp h
  obtain ⟨i, hi, rfl⟩ := List.mem_iff_getElem.mp hz
  rw [List.length_zip, List.length_range, Nat.min_self] at hi
  simp [List.getElem_zip, hi]

theorem runEntries_mem {t : Task} {a : Nat} {bs : List Byte} {o : Nat} (h1 : a % 256 ≤ o) (h2 : o < a % 256 + bs.length) :
    (o, t.id, bs.getD (o - a % 256) 0) ∈ runEntries t a bs := by
  refine List.mem_map.mpr ⟨(o - a % 256, bs.getD (o - a % 256) 0), ?_, ?_⟩
  · refine List.mem_iff_getElem.mpr ⟨o - a % 256, by simp; omega, ?_⟩
    have hi : o - a % 256 < bs.length := by omega
    simp [List.getElem_zip, hi]
  · simp
    omega

/-- What a line with the run laid over it gives a reader. -/
theorem find_runEntries {t : Task} (vis : List Nat) (a : Nat) (bs : List Byte) (old : List (Nat × Nat × Byte)) (o : Nat) :
    (((runEntries t a bs).reverse ++ old).find? (fun b => b.1 == o && vis.contains b.2.1)).map (·.2.2) =
      if t.id ∈ vis ∧ a % 256 ≤ o ∧ o < a % 256 + bs.length then some (bs.getD (o - a % 256) 0)
      else (old.find? (fun b => b.1 == o && vis.contains b.2.1)).map (·.2.2) := by
  rw [List.find?_append]
  split
  next h =>
    obtain ⟨hvis, h1, h2⟩ := h
    have hin := runEntries_mem (t := t) h1 h2
    have hsome : ((runEntries t a bs).reverse.find? (fun b => b.1 == o && vis.contains b.2.1)).isSome = true := by
      rw [List.find?_isSome]
      exact ⟨_, List.mem_reverse.mpr hin, by simp [hvis]⟩
    obtain ⟨y, hy⟩ := Option.isSome_iff_exists.mp hsome
    have hmem := mem_runEntries (List.mem_reverse.mp (List.mem_of_find?_eq_some hy))
    have hp := List.find?_some hy
    simp only [Bool.and_eq_true, beq_iff_eq] at hp
    rw [hy, Option.some_or, Option.map_some, hmem.2.2.2, hp.1]
  next h =>
    have hnone : (runEntries t a bs).reverse.find? (fun b => b.1 == o && vis.contains b.2.1) = none := by
      rw [List.find?_eq_none]
      intro y hy hp
      simp only [Bool.and_eq_true, beq_iff_eq, List.contains_iff_mem] at hp
      obtain ⟨h1, h2, hid, -⟩ := mem_runEntries (List.mem_reverse.mp hy)
      exact h ⟨hid ▸ hp.2, by omega, by omega⟩
    rw [hnone, Option.none_or]

theorem provByte_eq (p : ProvLine) (vis : List Nat) (o : Nat) :
    provByte p vis o = (p.bytes.find? (fun b => b.1 == o && vis.contains b.2.1)).map (·.2.2) := by
  unfold provByte
  cases p.bytes.find? (fun b => b.1 == o && vis.contains b.2.1) <;> rfl

/-- A line with a run laid over it, to a reader of the task's writes. -/
theorem provByte_run {t : Task} (vis : List Nat) (a : Nat) (bs : List Byte) (p q : ProvLine) (o : Nat)
    (hq : q.bytes = (runEntries t a bs).reverse ++ p.bytes) : provByte q vis o =
      if t.id ∈ vis ∧ a % 256 ≤ o ∧ o < a % 256 + bs.length then some (bs.getD (o - a % 256) 0) else provByte p vis o := by
  rw [provByte_eq, provByte_eq, hq, find_runEntries]

/-- The line as the task's run leaves it. -/
def runLine (t : Task) (a : Nat) (bs : List Byte) (p : ProvLine) : ProvLine :=
  if provMine t (lineOf a) p then
    { p with bytes := (runEntries t a bs).reverse ++ p.bytes,
             err := p.err.filter (fun x => !decide (a % 256 ≤ x.1 * 8 ∧ x.1 * 8 + 8 ≤ a % 256 + bs.length)),
             bad := p.bad && decide (bs.length ≠ 256) }
  else p

theorem provMine_runLine (t : Task) (a : Nat) (bs : List Byte) (line : Nat) (p : ProvLine) :
    provMine t line (runLine t a bs p) = provMine t line p := by
  unfold runLine
  split <;> rfl

theorem provMine_other {t : Task} {p : ProvLine} {l m : Nat} (h : provMine t l p = true) (hne : l ≠ m) : provMine t m p = false := by
  unfold provMine at h ⊢
  simp only [Bool.and_eq_true, beq_iff_eq] at h
  simp [h.2, hne]

/-- The lines after a provisional run: the task's own carries it, or a new one does. -/
theorem provRun_prov (t : Task) (a : Nat) (bs : List Byte) (s : State) :
    (s.prov.any (provMine t (lineOf a)) = true ∧ (provRun t a bs s).prov = s.prov.map (runLine t a bs)) ∨
    (s.prov.any (provMine t (lineOf a)) = false ∧ ∃ p, provMine t (lineOf a) p = true ∧ p.bytes = (runEntries t a bs).reverse ∧
      (provRun t a bs s).prov = s.prov ++ [p]) := by
  unfold provRun
  extract_lets line new mine whole r g x
  cases hany : s.prov.any mine with
  | true => exact .inl ⟨hany, rfl⟩
  | false =>
    refine .inr ⟨hany, x, by simp [provMine, x, line], rfl, ?_⟩
    rw [if_neg (by simp), (bump_keeps ..).1 .prov (by decide)]

theorem find_runLine (t : Task) (a : Nat) (bs : List Byte) (line : Nat) (l : List ProvLine) :
    (l.map (runLine t a bs)).find? (provMine t line) = (l.find? (provMine t line)).map (runLine t a bs) := by
  rw [List.find?_map]
  congr 2
  funext p
  exact provMine_runLine t a bs line p

/-- A provisional run lays its bytes over what the readers see that take the task's writes in, and over nothing else. -/
theorem sees_provRun {t : Task} (h : t.spec = true) (vis : List Nat) (a : Nat) (bs : List Byte) (s : State)
    (hlen : a % 256 + bs.length ≤ 256) (x : Nat) :
    sees t vis (provRun t a bs s) x = if t.id ∈ vis then overlay a bs (sees t vis s) x else sees t vis s x := by
  have hmem : (provRun t a bs s).mem = s.mem := (provRun_keeps ..).1 .mem (by decide)
  have hin : t.id ∈ vis ∧ a ≤ x ∧ x < a + bs.length → lineOf x = lineOf a := by
    unfold lineOf
    omega
  have hrange : lineOf x = lineOf a →
      ((t.id ∈ vis ∧ a ≤ x ∧ x < a + bs.length) ↔ (t.id ∈ vis ∧ a % 256 ≤ x % 256 ∧ x % 256 < a % 256 + bs.length)) := by
    unfold lineOf
    intro hline
    exact and_congr_right fun _ => by omega
  have hsub : lineOf x = lineOf a → a % 256 ≤ x % 256 → x % 256 - a % 256 = x - a := by
    unfold lineOf
    omega
  have hgoal : (if t.id ∈ vis then overlay a bs (sees t vis s) x else sees t vis s x) =
      if t.id ∈ vis ∧ a ≤ x ∧ x < a + bs.length then bs.getD (x - a) 0 else sees t vis s x := by
    unfold overlay
    by_cases hv : t.id ∈ vis <;> simp [hv]
  rw [hgoal, sees_spec h, sees_spec h, hmem]
  by_cases hline : lineOf x = lineOf a
  · rw [hline]
    have hbyte (p q : ProvLine) (hq : q.bytes = (runEntries t a bs).reverse ++ p.bytes) :
        (provByte q vis (x % 256)).getD (memGet s.mem x) =
          if t.id ∈ vis ∧ a ≤ x ∧ x < a + bs.length then bs.getD (x - a) 0 else (provByte p vis (x % 256)).getD (memGet s.mem x) := by
      rw [provByte_run vis a bs p q (x % 256) hq]
      by_cases hc : t.id ∈ vis ∧ a ≤ x ∧ x < a + bs.length
      · have hc' := (hrange hline).mp hc
        rw [if_pos hc, if_pos hc', Option.getD_some, hsub hline hc'.2.1]
      · rw [if_neg hc, if_neg fun h => hc ((hrange hline).mpr h)]
    rcases provRun_prov t a bs s with ⟨hany, hprov⟩ | ⟨hnone, p, hmine, hbytes, hprov⟩
    · rw [hprov, find_runLine]
      obtain ⟨p, hp⟩ : ∃ p, s.prov.find? (provMine t (lineOf a)) = some p := by
        rw [← Option.isSome_iff_exists, List.find?_isSome]
        exact List.any_eq_true.mp hany
      rw [hp]
      exact hbyte p _ (by rw [runLine, if_pos (List.find?_some hp)])
    · have hfind : s.prov.find? (provMine t (lineOf a)) = none := by
        rw [List.find?_eq_none]
        exact List.any_eq_false.mp hnone
      rw [hprov, List.find?_append, hfind, Option.none_or, List.find?_singleton, if_pos hmine]
      exact hbyte { p with bytes := [] } p (by rw [hbytes, List.append_nil])
  · rw [if_neg fun h => hline (hin h)]
    rcases provRun_prov t a bs s with ⟨-, hprov⟩ | ⟨-, p, hmine, -, hprov⟩
    · rw [hprov, find_runLine]
      cases hp : s.prov.find? (provMine t (lineOf x)) with
      | none => rfl
      | some p =>
        have hno := provMine_other (List.find?_some hp) hline
        have hsame : runLine t a bs p = p := if_neg (by rw [hno]; decide)
        rw [Option.map_some, hsame]
    · rw [hprov, List.find?_append, List.find?_singleton, if_neg (by rw [provMine_other hmine (Ne.symm hline)]; decide), Option.or_none]

/-! ### A buffer written (R61) -/

theorem sees_congr {s u : State} (hm : u.mem = s.mem) (hp : u.prov = s.prov) (t : Task) (vis : List Nat) : sees t vis u = sees t vis s := by
  funext a
  unfold sees viewByte
  rw [hm, hp]

theorem lays_provWrite {t : Task} (h : t.spec = true) {vis : List Nat} (hv : t.id ∈ vis) :
    Lays (fun _ => True) (sees t vis) (provWrite t) := by
  refine ⟨fun s a bs _ _ hlen => ⟨trivial, ?_⟩⟩
  funext x
  unfold provWrite
  rw [sees_provRun h vis a bs _ hlen, if_pos hv, sees_congr ((addAct_keeps ..).1 .mem (by decide)) ((addAct_keeps ..).1 .prov (by decide))]

/-- Readers that do not take the task's writes in see what they saw. -/
theorem foldl_provWrite_unseen {t : Task} (h : t.spec = true) {vis : List Nat} (hv : t.id ∉ vis) (ws : List (Nat × List Byte))
    (hlen : ∀ w ∈ ws, w.1 % 256 + w.2.length ≤ 256) (s : State) : sees t vis (ws.foldl (provWrite t) s) = sees t vis s := by
  induction ws generalizing s with
  | nil => rfl
  | cons w ws ih =>
    rw [List.foldl_cons, ih (fun y hy => hlen y (List.mem_cons_of_mem _ hy))]
    funext x
    unfold provWrite
    rw [sees_provRun h vis _ _ _ (hlen w (List.mem_cons_self ..)), if_neg hv,
      sees_congr ((addAct_keeps ..).1 .mem (by decide)) ((addAct_keeps ..).1 .prov (by decide))]

theorem foldl_provWrite_mem (t : Task) (ws : List (Nat × List Byte)) (s : State) : (ws.foldl (provWrite t) s).mem = s.mem := by
  induction ws generalizing s with
  | nil => rfl
  | cons w ws ih =>
    rw [List.foldl_cons, ih]
    unfold provWrite
    rw [(provRun_keeps ..).1 .mem (by decide), (addAct_keeps ..).1 .mem (by decide)]

theorem cutLines_within (k a : Nat) (bs : List Byte) : ∀ w ∈ cutLines k a bs, w.1 % 256 + w.2.length ≤ 256 := by
  induction k generalizing a bs with
  | zero =>
    unfold cutLines
    simp
  | succ k ih =>
    cases bs with
    | nil =>
      unfold cutLines
      simp
    | cons b bs =>
      unfold cutLines
      dsimp only
      intro w hw
      split at hw
      next hshort =>
        rw [List.mem_singleton.mp hw]
        show a % 256 + (b :: bs).length ≤ 256
        omega
      next hlong =>
        rcases List.mem_cons.mp hw with rfl | hw
        · show a % 256 + ((b :: bs).take (256 - a % 256)).length ≤ 256
          rw [List.length_take]
          omega
        · exact ih _ _ w hw

/-- The runs that a list of writes is cut into. -/
def cutAll (ws : List (Nat × List Byte)) : List (Nat × List Byte) :=
  (joinRuns ws).flatMap (fun w => cutLines (w.2.length / 256 + 2) w.1 w.2)

theorem writeRuns_memory {t : Task} (h : t.spec = false) (cls : Nat) (ws : List (Nat × List Byte)) (s : State) :
    writeRuns cls (some t) none ws s = (cutAll ws).foldl (fun u w => writeRun cls none w.1 w.2 u) s := by
  unfold writeRuns
  simp only [h, Bool.false_eq_true, if_false]
  rfl

theorem writeRuns_provisional {t : Task} (h : t.spec = true) (cls : Nat) (ws : List (Nat × List Byte)) (s : State) :
    writeRuns cls (some t) none ws s = (cutAll ws).foldl (provWrite t) s := by
  unfold writeRuns
  simp only [h, if_true]
  rfl

/-- A task writes its buffer. -/
theorem writeRuns_wrote (cls : Nat) (t : Task) {b : Buf} (hb : (b.map (·.1)).Nodup) (s : State) :
    wrote s (writeRuns cls (some t) none (bufWrites b) s) t b := by
  refine ⟨fun hspec hinv a => ?_, fun hspec => ⟨?_, fun vis a => ?_⟩⟩
  · rw [writeRuns_memory hspec]
    have hlay := ((lays_writeRun cls).runs (joinRuns (bufWrites b)) hinv).2
    have ha := congrFun hlay a
    rw [layAll_joinRuns, layAll_bufWrites hb] at ha
    exact ha
  · rw [writeRuns_provisional hspec]
    exact foldl_provWrite_mem ..
  · rw [writeRuns_provisional hspec]
    show sees t vis _ a = if t.id ∈ vis then (mfind b a).getD (sees t vis s a) else sees t vis s a
    by_cases hv : t.id ∈ vis
    · have hlay := ((lays_provWrite hspec hv).runs (joinRuns (bufWrites b)) (s := s) trivial).2
      have ha := congrFun hlay a
      rw [layAll_joinRuns, layAll_bufWrites hb] at ha
      rw [if_pos hv]
      exact ha
    · rw [if_neg hv, foldl_provWrite_unseen hspec hv]
      intro w hw
      obtain ⟨y, -, hw⟩ := List.mem_flatMap.mp hw
      exact cutLines_within _ _ _ w hw

/-- What a task has written is said of memory and the provisional lines alone. -/
theorem wrote_congr {s s' u u' : State} {t t' : Task} {b : Buf} (h : wrote s u t b) (hs : s'.mem = s.mem ∧ s'.prov = s.prov)
    (hu : u'.mem = u.mem ∧ u'.prov = u.prov) (ht : t'.spec = t.spec ∧ t'.job = t.job ∧ t'.gid = t.gid ∧ t'.use = t.use ∧ t'.id = t.id) :
    wrote s' u' t' b := by
  obtain ⟨hspec, hjob, hgid, huse, hid⟩ := ht
  have hview (v v' : State) (hv : v'.mem = v.mem ∧ v'.prov = v.prov) (vis : List Nat) (a : Nat) :
      viewByte v' (some { t' with vis := vis }) a = viewByte v (some { t with vis := vis }) a := by
    obtain ⟨hm, hp⟩ := hv
    have h1 : ({ t' with vis := vis } : Task).spec = ({ t with vis := vis } : Task).spec := hspec
    have h2 : ({ t' with vis := vis } : Task).job = ({ t with vis := vis } : Task).job := hjob
    have h3 : ({ t' with vis := vis } : Task).gid = ({ t with vis := vis } : Task).gid := hgid
    unfold viewByte
    dsimp only
    rw [hm, hp, h1, h2, h3, huse]
  refine ⟨fun hn hinv a => ?_, fun hn => ⟨?_, fun vis a => ?_⟩⟩
  · have hinv' : s.Inv := by
      show Memory.wf s.mem = true
      rw [← hs.1]
      exact hinv
    rw [hu.1, hs.1]
    exact h.1 (hspec ▸ hn) hinv' a
  · rw [hu.1, hs.1]
    exact (h.2 (hspec ▸ hn)).1
  · rw [hview u u' hu, hview s s' hs, hid]
    exact (h.2 (hspec ▸ hn)).2 vis a

/-! ### Buffers hold each address once -/

/-- The addresses of a buffer rise. -/
def Rising (b : Buf) : Prop := (b.map (·.1)).Pairwise (· < ·)

theorem Rising.nodup {b : Buf} (h : Rising b) : (b.map (·.1)).Nodup := h.imp fun hlt => Nat.ne_of_lt hlt

theorem rising_nil : Rising [] := List.Pairwise.nil

theorem mem_keys_mput {b : Buf} {a : Nat} {v : Byte} {x : Nat} (h : x ∈ (mput b a v).map (·.1)) : x = a ∨ x ∈ b.map (·.1) := by
  induction b with
  | nil => simpa [mput] using h
  | cons y b ih =>
    obtain ⟨k, w⟩ := y
    unfold mput at h
    split at h
    · simpa using h
    · split at h
      next heq =>
        rw [List.map_cons, List.mem_cons] at h ⊢
        exact h.imp id .inr
      · rw [List.map_cons, List.mem_cons] at h
        rcases h with rfl | h
        · exact .inr (by simp)
        · exact (ih h).imp id fun hb => List.mem_cons_of_mem _ hb

theorem Rising.mput {b : Buf} (h : Rising b) (a : Nat) (v : Byte) : Rising (mput b a v) := by
  induction b with
  | nil => exact List.pairwise_singleton ..
  | cons y b ih =>
    obtain ⟨k, w⟩ := y
    unfold Rising at h
    rw [List.map_cons, List.pairwise_cons] at h
    obtain ⟨hlt, hrest⟩ := h
    unfold Sys2Proof.Machine.mput
    split
    next hak =>
      refine List.pairwise_cons.mpr ⟨fun x hx => ?_, List.pairwise_cons.mpr ⟨hlt, hrest⟩⟩
      rcases List.mem_cons.mp hx with rfl | hx
      · exact hak
      · exact Nat.lt_trans hak (hlt x hx)
    next hak =>
      split
      next heq =>
        subst heq
        exact List.pairwise_cons.mpr ⟨hlt, hrest⟩
      next hne =>
        refine List.pairwise_cons.mpr ⟨fun x hx => ?_, ih hrest⟩
        rcases mem_keys_mput hx with rfl | hx
        · show k < x
          omega
        · exact hlt x hx

theorem rising_foldl {α : Type} {f : Buf → α → Buf} (hf : ∀ b x, Rising b → Rising (f b x)) (l : List α) {b : Buf} (h : Rising b) :
    Rising (l.foldl f b) := by
  induction l generalizing b with
  | nil => exact h
  | cons x l ih => exact ih (hf b x h)

/-- Free values stand where the task's would. -/
theorem outBuf_keys (t : Task) (b : Buf) (s : State) : (outBuf t b s).1.map (·.1) = b.map (·.1) := by
  unfold outBuf
  split
  · refine List.ext_getElem (by simp) fun i h1 h2 => ?_
    simp only [List.length_map] at h1 h2
    simp [List.getElem_zip]
  · rfl

theorem outBuf_free {s u : State} (h : u.free = s.free) (t : Task) (b : Buf) : (outBuf t b u).1 = (outBuf t b s).1 := by
  unfold outBuf
  split
  · simp only [h]
  · rfl

/-- A task that may writes its buffer. -/
theorem writeBuf_go {t : Task} {b : Buf} {s : State} (k : State → StepRes) (h : t.spec = false → writable s b) :
    writeBuf t b s k = k (writeRuns (clsOf t.eng) (some t) none (bufWrites (outBuf t b s).1) (outBuf t b s).2) := by
  unfold writeBuf
  cases hspec : t.spec with
  | true =>
    rw [if_pos rfl]
  | false =>
    rw [if_neg (by decide), h hspec]

/-- The state in which a task's buffer stands written. -/
def bufWritten (t : Task) (b : Buf) (s : State) : State :=
  writeRuns (clsOf t.eng) (some t) none (bufWrites (outBuf t b s).1) (outBuf t b s).2

theorem bufWritten_wrote {t : Task} {b : Buf} (hb : Rising b) (s : State) : wrote s (bufWritten t b s) t (outBuf t b s).1 := by
  have hnodup : ((outBuf t b s).1.map (·.1)).Nodup := by
    rw [outBuf_keys]
    exact hb.nodup
  have hk := outBuf_keeps t b s
  exact wrote_congr (writeRuns_wrote (clsOf t.eng) t hnodup (outBuf t b s).2)
    ⟨(hk.1 .mem (by decide)).symm, (hk.1 .prov (by decide)).symm⟩ ⟨rfl, rfl⟩ ⟨rfl, rfl, rfl, rfl, rfl⟩

/-! ### Writes leave every task in its place -/

/-- The tasks held are the same ones, in the same order. -/
structure IdsSame (s t : State) : Prop where
  ids : t.tasks.map (·.id) = s.tasks.map (·.id)

theorem IdsSame.refl (s : State) : IdsSame s s := ⟨rfl⟩

theorem IdsSame.trans {s t u : State} (h : IdsSame s t) (k : IdsSame t u) : IdsSame s u := ⟨k.ids.trans h.ids⟩

theorem IdsSame.of_keeps {ps : List Part} {s t : State} (k : Keeps ps s t) (h : .tasks ∉ ps := by decide) : IdsSame s t :=
  ⟨by rw [k.1 .tasks h]⟩

theorem IdsSame.foldl {α : Type} {f : State → α → State} (hf : ∀ u x, IdsSame u (f u x)) (l : List α) (s : State) :
    IdsSame s (l.foldl f s) := by
  induction l generalizing s with
  | nil => exact .refl s
  | cons x l ih => exact (hf s x).trans (ih _)

theorem find_isSome_iff (l : List Task) (id : Nat) : (l.find? (fun t => t.id == id)).isSome = true ↔ id ∈ l.map (·.id) := by
  rw [List.find?_isSome, List.mem_map]
  constructor
  · rintro ⟨t, ht, hid⟩
    exact ⟨t, ht, by simpa using hid⟩
  · rintro ⟨t, ht, hid⟩
    exact ⟨t, ht, by simpa using hid⟩

/-- A task held stays held. -/
theorem IdsSame.held {s t : State} (h : IdsSame s t) {id : Nat} {x : Task} (hx : findTask s id = some x) : ∃ y, findTask t id = some y := by
  rw [← Option.isSome_iff_exists]
  refine (find_isSome_iff t.tasks id).mpr ?_
  rw [h.ids]
  exact (find_isSome_iff s.tasks id).mp (Option.isSome_iff_exists.mpr ⟨x, hx⟩)

theorem epochAdvance_ids (lo hi : Nat) (s : State) : IdsSame s (epochAdvance lo hi s) := by
  have hrun (run : Task → Task) (h : ∀ t, (run t).id = t.id) (l : List Task) : (l.map run).map (·.id) = l.map (·.id) := by
    rw [List.map_map]
    exact List.map_congr_left fun t _ => h t
  unfold epochAdvance
  split
  · exact ⟨hrun _ (fun t => by split <;> rfl) _⟩
  · exact ⟨hrun _ (fun t => by split <;> rfl) _⟩
  · exact .refl s

theorem writeRun_ids (cls : Nat) (self : Option (Nat × Nat)) (a : Nat) (bs : List Byte) (s : State) :
    IdsSame s (writeRun cls self a bs s) := by
  have hland (u : State) : IdsSame u (landRun self a bs u) := by
    unfold landRun
    refine .trans ?_ (epochAdvance_ids ..)
    refine .trans (t := _) ?_ (.of_keeps (retireOn_keeps ..))
    exact ⟨rfl⟩
  unfold writeRun
  split
  · exact .refl s
  · refine .trans ?_ (hland _)
    split
    · exact .of_keeps (cacheTouch_write_keeps ..)
    · exact (IdsSame.of_keeps (bump_keeps ..)).trans (.of_keeps (addAct_keeps ..))
    · split
      · exact .refl s
      · exact .of_keeps (bump_keeps ..)
    · exact .refl s

theorem writeRuns_ids (cls : Nat) (t : Option Task) (self : Option (Nat × Nat)) (ws : List (Nat × List Byte)) (s : State) :
    IdsSame s (writeRuns cls t self ws s) := by
  unfold writeRuns
  refine .foldl (fun u w => ?_) _ s
  split
  · split
    · exact (IdsSame.of_keeps (addAct_keeps ..)).trans (.of_keeps (provRun_keeps ..))
    · exact writeRun_ids ..
  · exact writeRun_ids ..

theorem bufWritten_ids (t : Task) (b : Buf) (s : State) : IdsSame s (bufWritten t b s) :=
  (IdsSame.of_keeps (outBuf_keeps t b s)).trans (writeRuns_ids ..)

/-! ### What else a write changes -/

/-- A run written counts and lands; no register and no output hears of it. -/
theorem writeRun_counts (cls a : Nat) (bs : List Byte) (u : State) :
    Keeps [.cnt, .mem, .poison, .epochs, .tasks, .crm, .hbm, .ecc, .cw, .ls, .ldl, .act] u (writeRun cls none a bs u) := by
  have hself : Keeps [.cnt, .mem, .poison, .epochs, .tasks, .crm, .hbm, .ecc, .cw, .ls, .ldl, .act] u u := .refl
  unfold writeRun
  refine .ite (fun _ => .refl) fun _ => Keeps.step ?_ (landRun_keeps ..)
  split
  · exact hself.step (cacheTouch_write_keeps ..)
  · exact (hself.step (bump_keeps ..)).step (addAct_keeps ..)
  · exact .ite (fun _ => .refl) fun _ => hself.step (bump_keeps ..)
  · exact .refl

theorem writeRuns_counts (cls : Nat) (t : Task) (ws : List (Nat × List Byte)) (s : State) :
    Keeps [.cnt, .mem, .poison, .epochs, .tasks, .prov, .crm, .hbm, .ecc, .cw, .ls, .ldl, .act, .free] s (writeRuns cls (some t) none ws s) := by
  unfold writeRuns
  refine Keeps.foldl .refl fun u w h => ?_
  dsimp only
  split
  · exact (h.step (addAct_keeps ..)).step (provRun_keeps ..)
  · exact h.step (writeRun_counts ..)

theorem bufWritten_counts (t : Task) (b : Buf) (s : State) :
    Keeps [.cnt, .mem, .poison, .epochs, .tasks, .prov, .crm, .hbm, .ecc, .cw, .ls, .ldl, .act, .free] s (bufWritten t b s) :=
  ((outBuf_keeps t b s).mono (by decide)).trans (writeRuns_counts ..)

end Sys2Proof.Machine
end

section
/-! SUPPORT. Responses: what their request was for, done (R206, R207, R262, R268, R297 to R303). -/

namespace Sys2Proof.Machine

/-! ### Source lines that have arrived (R206) -/

section
variable (u : Task) (x : Track) (come : Nat → List Byte)

/-- The positions of the request, with their bytes, after the first `n`. -/
def arrivals (first n : Nat) : Map (List Byte) := (List.range n).map (fun j => (first + j, come (first + j)))

end

theorem mput_above {α : Type} (m : Map α) (k : Nat) (v : α) (h : ∀ y ∈ m, y.1 < k) : mput m k v = m ++ [(k, v)] := by
  induction m with
  | nil => rfl
  | cons y m ih =>
    obtain ⟨j, w⟩ := y
    have hj : j < k := h (j, w) (List.mem_cons_self ..)
    unfold mput
    rw [if_neg (by omega), if_neg (by omega), ih fun y hy => h y (List.mem_cons_of_mem _ hy)]
    rfl

theorem foldl_mput_arrivals (come : Nat → List Byte) (first n : Nat) :
    (List.range n).foldl (fun m j => mput m (first + j) (come (first + j))) [] = arrivals come first n := by
  induction n with
  | zero => rfl
  | succ n ih =>
    rw [List.range_succ, List.foldl_append, ih, List.foldl_cons, List.foldl_nil, mput_above]
    · unfold arrivals
      rw [List.range_succ, List.map_append]
      rfl
    · intro y hy
      obtain ⟨j, hj, rfl⟩ := List.mem_map.mp hy
      rw [List.mem_range] at hj
      show first + j < first + n
      omega

theorem mfind_arrivals (come : Nat → List Byte) (first : Nat) {n j : Nat} (hj : j < n) :
    mfind (arrivals come first n) (first + j) = some (come (first + j)) := by
  induction n with
  | zero => omega
  | succ n ih =>
    have hsplit : arrivals come first (n + 1) = mput (arrivals come first n) (first + n) (come (first + n)) := by
      rw [← foldl_mput_arrivals, List.range_succ, List.foldl_append, foldl_mput_arrivals]
      rfl
    rw [hsplit, mfind_mput]
    split
    next h =>
      have : j = n := by omega
      rw [this]
    next h => exact ih (by omega)

theorem mfind_arrivals_before (come : Nat → List Byte) {first n k : Nat} (h : k < first) : mfind (arrivals come first n) k = none := by
  refine mfind_eq_none fun hmem => ?_
  obtain ⟨y, hy, rfl⟩ := List.mem_map.mp hmem
  obtain ⟨j, -, rfl⟩ := List.mem_map.mp hy
  dsimp only at h
  omega

/-- Positions that arrive early wait. -/
theorem movJoin_early {t : Task} (h : mfind t.got (t.wpos + t.hold.length) = none) (n : Nat) : movJoin n t = t := by
  cases n with
  | zero => rfl
  | succ n =>
    unfold movJoin
    dsimp only
    rw [h]

theorem arrivals_succ (come : Nat → List Byte) (first n : Nat) :
    arrivals come first (n + 1) = (first, come first) :: arrivals come (first + 1) n := by
  unfold arrivals
  rw [List.range_succ_eq_map, List.map_cons, List.map_map]
  congr 1
  refine List.map_congr_left fun j _ => ?_
  simp only [Function.comp, Nat.succ_eq_add_one]
  rw [Nat.add_assoc, Nat.add_comm 1 j]

/-- Positions that go on those held join them, all of them. -/
theorem movJoin_arrivals (come : Nat → List Byte) (n : Nat) {t : Task} (h : t.got = arrivals come (t.wpos + t.hold.length) n) :
    movJoin n t = { t with
      hold := t.hold ++ (List.range n).map (fun j => come (t.wpos + t.hold.length + j)), got := [] } := by
  induction n generalizing t with
  | zero =>
    have hgot : t.got = [] := h
    show t = _
    rw [List.range_zero, List.map_nil, List.append_nil, ← hgot]
  | succ n ih =>
    rw [arrivals_succ] at h
    unfold movJoin
    dsimp only
    rw [h, mfind_cons, if_pos rfl]
    dsimp only
    have hdel : mdel ((t.wpos + t.hold.length, come (t.wpos + t.hold.length)) :: arrivals come (t.wpos + t.hold.length + 1) n)
        (t.wpos + t.hold.length) = arrivals come (t.wpos + t.hold.length + 1) n := if_pos rfl
    rw [hdel, ih]
    · have hlen : t.wpos + (t.hold ++ [come (t.wpos + t.hold.length)]).length = t.wpos + t.hold.length + 1 := by
        rw [List.length_append, List.length_singleton, Nat.add_assoc]
      dsimp only
      rw [hlen, List.append_assoc, List.range_succ_eq_map, List.map_cons, List.map_map]
      congr 2
      refine congrArg (List.cons _) (List.map_congr_left fun j _ => ?_)
      simp only [Function.comp, Nat.succ_eq_add_one]
      rw [Nat.add_assoc _ 1 j, Nat.add_comm 1 j]
    · dsimp only
      rw [List.length_append, List.length_singleton, Nat.add_assoc]

/-! ### The runs that what has arrived completes (R206) -/

theorem isLocal_congr {s t : State} (h : getReg t 0 0x200 = getReg s 0 0x200) (a : Nat) : isLocal t a = isLocal s a := by
  unfold isLocal devId
  rw [h]

theorem dstFar_congr {s t : State} (h : getReg t 0 0x200 = getReg s 0 0x200) (u : Task) : dstFar t u = dstFar s u := by
  unfold dstFar
  rw [isLocal_congr h]

/-- Nothing completed writes nothing. -/
theorem moveOut_none {t : Task} {stop : Nat} {s : State} (hfar : dstFar s t = false) (h : doneRuns t stop = []) :
    moveOut t stop s = .go { t with detail := word (movBytes t t.wpos) } s := by
  unfold moveOut
  rw [h]
  dsimp only
  rw [if_pos hfar, List.getLast?_nil, Option.map_none, Option.getD_none, Nat.sub_self, List.drop_zero]
  rfl

/-- The state in which one run of a transfer stands written. -/
def runWritten (t : Task) (i e : Nat) (s : State) : State :=
  movCount t true 1 (runBytes t (i, e)) (bufWritten t (movBuf t i e (fun q => t.hold.getD (q - t.wpos) [])) s)

theorem moveOut_one {t : Task} {stop i e : Nat} {s : State} (hfar : dstFar s t = false) (h : doneRuns t stop = [(i, e)])
    (hw : writable s (movBuf t i e (fun q => t.hold.getD (q - t.wpos) []))) :
    moveOut t stop s = .go { t with wpos := e, hold := t.hold.drop (e - t.wpos), detail := word (movBytes t e) } (runWritten t i e s) := by
  unfold moveOut
  rw [h]
  dsimp only
  rw [if_pos hfar, writeEach, writeBuf_go _ fun _ => hw, writeEach]
  rfl

theorem rising_movBuf (t : Task) (i e : Nat) (src : Nat → List Byte) : Rising (movBuf t i e src) := by
  unfold movBuf
  refine rising_foldl (fun b j hb => ?_) _ rising_nil
  dsimp only
  split
  · exact hb
  · exact rising_foldl (fun c y hc => hc.mput _ _) _ hb

theorem runWritten_writes {t : Task} (i e : Nat) (s : State) (hspec : t.spec = false) :
    writesBuf s (runWritten t i e s) (outBuf t (movBuf t i e (fun q => t.hold.getD (q - t.wpos) [])) s).1 := by
  have h := (bufWritten_wrote (rising_movBuf t i e (fun q => t.hold.getD (q - t.wpos) [])) s).1 hspec
  intro hinv a
  rw [runWritten, (movCount_keeps ..).1 .mem (by decide)]
  exact h hinv a

theorem runWritten_ids (t : Task) (i e : Nat) (s : State) : IdsSame s (runWritten t i e s) :=
  (bufWritten_ids ..).trans (.of_keeps (movCount_keeps ..))

/-- Of a transfer to this device nothing is awaited at its end. -/
theorem moveTail_near {id : Nat} {s : State} {t : Task} (ht : findTask s id = some t) (h : dstFar s t = false) : moveTail id s = s := by
  unfold moveTail
  rw [ht]
  exact if_pos (.inr (.inr (.inr (.inr (.inr (.inr (.inr h)))))))

/-- The position at which a transfer's slice stops. -/
def movStopNow (s : State) (t : Task) : Nat := if (getEng s t.eng).ctx.contains t.id then t.pos else min (movTotal t) t.sliceEnd

/-- The bytes that a source line brings to a position. -/
def movCome (x : Track) (data : List Byte) (t : Task) (q : Nat) : List Byte :=
  (data.drop ((movSpan t (t.tensor 0) q).1 - (movSpan t (t.tensor 0) x.first).1 / 256 * 256)).take (movSpan t (t.tensor 0) q).2

/-- The task with a source line's bytes taken in. -/
def movTook (x : Track) (data : List Byte) (t : Task) : Task :=
  movJoin (arrivals (movCome x data t) x.first x.count).length
    { t with waits := t.waits - 1, got := arrivals (movCome x data t) x.first x.count }

theorem movTaken_eq {x : Track} {data : List Byte} {t : Task} {s : State} (hp : t.phase = .dispatched) (hs : t.status = 0) (hgot : t.got = []) :
    movTaken x data t s = match moveOut (movTook x data t) (movStopNow s t) s with
      | .go t1 s1 => moveTail t.id (putTask t1 s1)
      | .fail f s1 => finish (movTook x data t) f s1
      | .wait => putTask (movTook x data t) s := by
  have hfold : (List.range x.count).foldl (fun m j => mput m (x.first + j) (movCome x data t (x.first + j))) t.got =
      arrivals (movCome x data t) x.first x.count := by
    rw [hgot]
    exact foldl_mput_arrivals ..
  unfold movTaken
  rw [if_neg (by simp [hp, hs])]
  unfold movTook
  rw [← hfold] <;> rfl

/-- What the transfer's step leaves, its task put back. -/
theorem movTaken_go {x : Track} {data : List Byte} {t t1 : Task} {s s1 : State} (hp : t.phase = .dispatched) (hs : t.status = 0)
    (hgot : t.got = []) (ht : findTask s t.id = some t) (hids : IdsSame s s1) (hid : t1.id = t.id)
    (hgo : moveOut (movTook x data t) (movStopNow s t) s = .go t1 s1) (hfar : dstFar (putTask t1 s1) t1 = false) :
    movTaken x data t s = putTask t1 s1 ∧ findTask (putTask t1 s1) t.id = some t1 := by
  obtain ⟨y, hy⟩ := hids.held ht
  have hfind : findTask (putTask t1 s1) t.id = some t1 := by
    rw [← hid] at hy ⊢
    exact findTask_putTask s1 t1 y hy
  refine ⟨?_, hfind⟩
  rw [movTaken_eq hp hs hgot, hgo]
  exact moveTail_near hfind hfar

/-! ### What a task holds does not move its runs -/

section
variable (u : Task) (waits : Nat) (hold : List (List Byte)) (got : Map (List Byte))

/-- The task with other bytes held. -/
def holding : Task := { u with waits := waits, hold := hold, got := got }

theorem runEnd_holding (x : Tensor) (i0 stop n i : Nat) : runEnd (holding u waits hold got) x i0 stop n i = runEnd u x i0 stop n i := by
  induction n generalizing i with
  | zero => rfl
  | succ n ih =>
    unfold runEnd
    rw [ih]
    rfl

theorem runsOf_holding (x : Tensor) (stop n i : Nat) : runsOf (holding u waits hold got) x stop n i = runsOf u x stop n i := by
  induction n generalizing i with
  | zero => rfl
  | succ n ih =>
    unfold runsOf
    dsimp only
    rw [runEnd_holding, ih]

theorem doneRuns_holding (stop : Nat) : doneRuns (holding u waits hold got) stop = doneRuns { u with hold := hold } stop := by
  have h (w : Nat) (g : Map (List Byte)) : doneRuns (holding u w hold g) stop =
      (runsOf u (u.tensor 1) stop (hold.length + 1) u.wpos).filter (fun r => decide (r.2 ≤ u.wpos + hold.length)) := by
    unfold doneRuns
    rw [runsOf_holding]
    rfl
  exact (h waits got).trans (h u.waits u.got).symm

end

section
variable {s : State} {p : Nat} {k : Packet} {x : Track} {data : List Byte}

/-- A response's packet taken off and its request no longer tracked. -/
def untracked (p : Nat) (k : Packet) (s : State) : State := dropTrack k.seq (takeOff p k s)

theorem untracked_keeps (p : Nat) (k : Packet) (s : State) : Keeps [.out, .regs, .cnt, .rel, .lnk, .sys] s (untracked p k s) :=
  (takeOff_keeps ..).trans ((dropTrack_keeps ..).mono (by decide))

theorem untracked_track (p : Nat) (k : Packet) (s : State) : (untracked p k s).lnk.track = mdel s.lnk.track k.seq :=
  congrArg (mdel · k.seq) (track_takeOff p k s)

theorem findTask_untracked (p : Nat) (k : Packet) (s : State) (id : Nat) : findTask (untracked p k s) id = findTask s id :=
  findTask_congr ((untracked_keeps p k s).1 .tasks (by decide)) id

theorem untracked_mem (p : Nat) (k : Packet) (s : State) : (untracked p k s).mem = s.mem := (untracked_keeps p k s).1 .mem (by decide)

end

theorem id_ne_port (p : Fin 16) : 0 ≠ lp p.val 0 ∧ 0 ≠ lp p.val 1 := by decide +revert

theorem devReg_untracked (p : Fin 16) (k : Packet) (s : State) : getReg (untracked p.val k s) 0 0x200 = getReg s 0 0x200 := by
  obtain ⟨h0, h1⟩ := id_ne_port p
  exact (takeOff_portOnly p.val k s).regs _ _ h0 h1 (by decide)

/-- The state in which a transfer takes its source line: the packet is off its queue, and what is done is activity of the task's job. -/
def taking (p : Nat) (k : Packet) (u : Task) (s : State) : State := { untracked p k s with actJob := u.job }

theorem readResp_moveRead {s : State} {p : Nat} {k : Packet} {x : Track} {data : List Byte} {u : Task} (h : answers s p k x data)
    (hkind : x.kind = .moveRead) (hu : findTask s x.owner = some u) :
    readRespEffect p k s = answered x { movTaken x data u (taking p k u s) with actJob := (untracked p k s).actJob } := by
  unfold readRespEffect
  rw [onResponse_answers h, hkind]
  show answered x (movArrived x data (untracked p k s)) = _
  unfold movArrived
  rw [findTask_untracked, hu]
  rfl

theorem count_ne_port (p : Fin 16) : pageOf .hbm 0 0 ≠ lp p.val 0 ∧ pageOf .hbm 0 0 ≠ lp p.val 1 := by decide +revert

theorem takeOff_accessSame (p : Fin 16) (k : Packet) (s : State) : AccessSame s (takeOff p.val k s) := by
  obtain ⟨h0, h1⟩ := count_ne_port p
  have hk := takeOff_keeps p.val k s
  have hp := takeOff_portOnly p.val k s
  refine ⟨hk.1 .crm (by decide), hk.1 .hbm (by decide), hk.1 .blk (by decide), hk.1 .lpc (by decide), hp.en, ?_⟩
  rw [lpcCount, lpcCount, regFld, regFld, hp.regs _ _ h0 h1 (by decide)]

theorem AccessSame.needLines {s t : State} (h : AccessSame s t) (ls : List Nat) : needLines t false ls = needLines s false ls := by
  induction ls with
  | nil => rfl
  | cons l ls ih =>
    unfold Machine.needLines Machine.needLine
    rw [ih, h.access]
    rfl

theorem writable_taking {s : State} {b : Buf} (p : Fin 16) (k : Packet) (u : Task) (h : writable s b) : writable (taking p.val k u s) b := by
  have hk : Keeps [.lnk, .actJob] (takeOff p.val k s) (taking p.val k u s) :=
    ((dropTrack_keeps ..).mono (by decide)).set_actJob _ (by decide)
  have hacc : AccessSame s (taking p.val k u s) := (takeOff_accessSame p k s).trans (.of_keeps hk)
  unfold writable
  rw [hacc.needLines]
  exact h

/-- A transfer whose response comes, as it takes it: what it needs of the state is as it was. -/
structure Takes (s S : State) (u : Task) : Prop where
  found : findTask S u.id = some u
  near : dstFar S u = false
  stop : movStopNow S u = movStopNow s u
  mem : S.mem = s.mem
  free : S.free = s.free
  dev : getReg S 0 0x200 = getReg s 0 0x200

theorem taking_takes {s : State} (p : Fin 16) (k : Packet) {u : Task} (hu : findTask s u.id = some u) (hfar : dstFar s u = false) :
    Takes s (taking p.val k u s) u := by
  have hk := untracked_keeps p.val k s
  refine ⟨(findTask_untracked p.val k s u.id).trans hu, (dstFar_congr (devReg_untracked p k s) u).trans hfar, ?_,
    hk.1 .mem (by decide), hk.1 .free (by decide), devReg_untracked p k s⟩
  have heng : getEng (taking p.val k u s) u.eng = getEng s u.eng := by
    unfold getEng
    rw [show (taking p.val k u s).eng = s.eng from hk.1 .eng (by decide)]
  unfold movStopNow
  rw [heng]

/-- The transfer goes on with what its step leaves. -/
theorem Takes.go {s S s1 : State} {u t1 : Task} {x : Track} {data : List Byte} (h : Takes s S u)
    {T : Task} (hT : movTook x data u = T) (hgo : moveOut T (movStopNow s u) S = .go t1 s1) (hp : u.phase = .dispatched) (hs : u.status = 0)
    (hgot : u.got = []) (hids : IdsSame S s1) (hid : t1.id = u.id) (hbase : t1.base = u.base)
    (hregs : getReg s1 0 0x200 = getReg S 0 0x200) :
    movTaken x data u S = putTask t1 s1 ∧ findTask (putTask t1 s1) u.id = some t1 := by
  refine movTaken_go hp hs hgot h.found hids hid (by rw [h.stop, hT]; exact hgo) ?_
  have hsame : dstFar (putTask t1 s1) t1 = dstFar S t1 := dstFar_congr hregs t1
  have hbase' : dstFar S t1 = dstFar S u := by
    unfold dstFar
    rw [hbase]
  rw [hsame, hbase', h.near]

/-- Positions that arrive before those that stand between are kept. -/
theorem took_early {u : Task} {x : Track} {data : List Byte} (h : u.wpos + u.hold.length < x.first) :
    movTook x data u = holding u (u.waits - 1) u.hold (arrivals (movCome x data u) x.first x.count) :=
  movJoin_early (mfind_arrivals_before _ h) _

/-- Positions that go on those held are held with them. -/
theorem took_next {u : Task} {x : Track} {data : List Byte} (h : x.first = u.wpos + u.hold.length) :
    movTook x data u = holding u (u.waits - 1) (u.hold ++ (List.range x.count).map (fun j => movCome x data u (x.first + j))) [] := by
  unfold movTook
  have hlen : (arrivals (movCome x data u) x.first x.count).length = x.count := by simp [arrivals]
  rw [hlen, movJoin_arrivals (movCome x data u) x.count (by rw [h])]
  unfold holding
  dsimp only
  rw [h]

/-! ### The obligation -/

/-- The read of a transfer's source line. -/
theorem moveRead_serves (s : State) (p : Fin 16) (k : Packet) (x : Track) (data : List Byte) (u : Task) (h : answers s p.val k x data)
    (hkind : x.kind = .moveRead) (hfound : findTask s x.owner = some u) (hp : u.phase = .dispatched) (hs : u.status = 0)
    (hspec : u.spec = false) (hfar : dstFar s u = false) (hgot : u.got = []) :
    let held := u.wpos + u.hold.length
    let w0 := { u with hold := u.hold ++ (List.range x.count).map (fun j => movCome x data u (x.first + j)) }
    (held < x.first → doneRuns u (movStopNow s u) = [] → ∃ v w, exec (.readResp p k) s = .next (answered x v) ∧
      findTask v x.owner = some w ∧ w.hold = u.hold ∧ w.wpos = u.wpos ∧
      (∀ j < x.count, mfind w.got (x.first + j) = some (movCome x data u (x.first + j))) ∧ v.mem = s.mem) ∧
    (x.first = held → doneRuns w0 (movStopNow s u) = [] → ∃ v w, exec (.readResp p k) s = .next (answered x v) ∧
      findTask v x.owner = some w ∧ w.hold = w0.hold ∧ w.wpos = u.wpos ∧ w.got = [] ∧ v.mem = s.mem) ∧
    (∀ i e, x.first = held → doneRuns w0 (movStopNow s u) = [(i, e)] →
      let b := movBuf u i e (fun q => w0.hold.getD (q - u.wpos) [])
      writable s b →
      ∃ v w, exec (.readResp p k) s = .next (answered x v) ∧ findTask v x.owner = some w ∧ w.wpos = e ∧
        w.hold = w0.hold.drop (e - u.wpos) ∧ writesBuf s v (outBuf u b s).1) := by
  intro held w0
  have hid := findTask_id hfound
  obtain ⟨S, hS⟩ : ∃ S, S = taking p.val k u s := ⟨_, rfl⟩
  have hu : findTask s u.id = some u := by
    rw [hid]
    exact hfound
  have htakes : Takes s S u := hS ▸ taking_takes p k hu hfar
  have hexec : exec (.readResp p k) s = .next (answered x { movTaken x data u S with actJob := (untracked p.val k s).actJob }) := by
    rw [hS]
    exact congrArg Host.Outcome.next (readResp_moveRead h hkind hfound)
  refine ⟨fun hlt hdone => ?_, fun heq hdone => ?_, fun i e heq hdone => ?_⟩
  · obtain ⟨htaken, hfind⟩ := htakes.go (took_early hlt) (moveOut_none htakes.near (by rw [doneRuns_holding]; exact hdone)) hp hs hgot
      (.refl S) rfl rfl rfl
    rw [htaken] at hexec
    rw [hid] at hfind
    exact ⟨_, _, hexec, hfind, rfl, rfl, fun j hj => mfind_arrivals _ _ hj, htakes.mem⟩
  · obtain ⟨htaken, hfind⟩ := htakes.go (took_next heq) (moveOut_none htakes.near (by rw [doneRuns_holding]; exact hdone)) hp hs hgot
      (.refl S) rfl rfl rfl
    rw [htaken] at hexec
    rw [hid] at hfind
    exact ⟨_, _, hexec, hfind, rfl, rfl, rfl, htakes.mem⟩
  · intro b hw
    have hdev : getReg (runWritten (holding u (u.waits - 1) w0.hold []) i e S) 0 0x200 = getReg S 0 0x200 := by
      rw [runWritten, getReg_congr ((movCount_keeps ..).1 .regs (by decide)), getReg_congr ((bufWritten_counts ..).1 .regs (by decide))]
    obtain ⟨htaken, hfind⟩ := htakes.go (took_next heq) (moveOut_one (i := i) (e := e) htakes.near
      (by rw [doneRuns_holding]; exact hdone) (hS ▸ writable_taking p k u hw)) hp hs hgot (runWritten_ids ..) rfl rfl hdev
    rw [htaken] at hexec
    rw [hid] at hfind
    refine ⟨_, _, hexec, hfind, rfl, rfl, ?_⟩
    have hwrites := runWritten_writes (t := holding u (u.waits - 1) w0.hold []) i e S hspec
    intro hinv a
    have hinvS : S.Inv := by
      show Memory.wf S.mem = true
      rw [htakes.mem]
      exact hinv
    have ha := hwrites hinvS a
    rw [outBuf_free htakes.free, htakes.mem] at ha
    exact ha

/-- The task of an exchange as its answer leaves it: one wait fewer, and what the answer says of scales noted. -/
def exchangedTask (u : Task) (k : Packet) : Task :=
  let d1 := if k.rescaled then setBit u.detail 0 true else u.detail
  { u with waits := u.waits - 1, detail := if k.promoted then setBit d1 1 true else d1 }

/-- What an exchange brings stands where its bucket's elements are. -/
theorem exchanged_mem {s : State} {k : Packet} {x : Track} {data : List Byte} {u : Task} {b : Buck} (hu : findTask s x.owner = some u)
    (hp : u.phase = .dispatched) (hs : u.status = 0) (hb : findBuck s u.job (bucketOf u) = some b) :
    (b.op ≠ 2 ∨ x.k.addr = b.flag → (exchanged x k data s).mem = memStore s.mem x.k.addr data) ∧
    (b.op = 2 → x.k.addr ≠ b.flag →
      let e := x.k.addr - b.base
      let n := data.length / 33 * 32
      (k.promoted = false → (exchanged x k data s).mem =
        memStore (memStore s.mem x.k.addr (data.take n)) (b.sbase + e / 32) (data.drop n)) ∧
      (k.promoted = true → (exchanged x k data s).mem =
        memStore (memStore s.mem (b.pbase + 4 * e) data) (b.sbase + e / 32) (List.replicate (data.length / 4 / 32) 0xFF))) := by
  obtain ⟨s1, hs1, heq⟩ : ∃ s1 : State, s1.mem = s.mem ∧ exchanged x k data s =
      if b.op ≠ 2 ∨ x.k.addr = b.flag then forJob u.job (wrBytes 15 x.k.addr data) s1
      else if k.promoted then
        forJob u.job (wrBytes 15 (b.sbase + (x.k.addr - b.base) / 32) (List.replicate (data.length / 4 / 32) 0xFF) ∘
          wrBytes 15 (b.pbase + 4 * (x.k.addr - b.base)) data) s1
      else forJob u.job (wrBytes 15 (b.sbase + (x.k.addr - b.base) / 32) (data.drop (data.length / 33 * 32)) ∘
          wrBytes 15 x.k.addr (data.take (data.length / 33 * 32))) s1 := by
    have hb' : findBuck (putTask (exchangedTask u k) s) u.job (bucketOf u) = some b := hb
    refine ⟨putTask (exchangedTask u k) s, rfl, ?_⟩
    unfold exchanged
    rw [hu]
    dsimp only
    rw [if_neg (by simp [hp, hs])]
    unfold exchangedTask at hb'
    dsimp only at hb'
    rw [hb'] <;> rfl
  rw [heq]
  refine ⟨fun h => ?_, fun h2 hne => ?_⟩
  · rw [if_pos h, forJob_mem, wrBytes_mem]
    exact congrArg (memStore · _ _) hs1
  · have hno : ¬ (b.op ≠ 2 ∨ x.k.addr = b.flag) := not_or.mpr ⟨not_not.mpr h2, hne⟩
    rw [if_neg hno]
    intro e n
    refine ⟨fun hpr => ?_, fun hpr => ?_⟩
    · rw [if_neg (by simp [hpr]), forJob_mem]
      show (wrBytes 15 _ _ (wrBytes 15 _ _ _)).mem = _
      rw [wrBytes_mem, wrBytes_mem]
      exact congrArg (fun m => memStore (memStore m _ _) _ _) hs1
    · rw [if_pos hpr, forJob_mem]
      show (wrBytes 15 _ _ (wrBytes 15 _ _ _)).mem = _
      rw [wrBytes_mem, wrBytes_mem]
      exact congrArg (fun m => memStore (memStore m _ _) _ _) hs1

/-- A read-back that has come ends its transfer with OK. -/
theorem readbackEnd_ok {s : State} {u : Task} (hu : findTask s u.id = some u) (hd : u.direct = none)
    (ha : s.tck.aborting.contains u.id = false) : ∃ w, findTask (readbackEnd u 1 s) u.id = some w ∧ w.phase = .complete ∧ w.status = 1 ∧
      Keeps [.cnt, .tasks, .eng] s (readbackEnd u 1 s) := by
  obtain ⟨t1, ht1, hd1, hid1⟩ : ∃ t1 : Task, t1 = { u with waits := 0, detail := word (movBytes { u with waits := 0 } (movTotal { u with waits := 0 })) } ∧
      t1.direct = none ∧ t1.id = u.id := ⟨_, rfl, hd, rfl⟩
  obtain ⟨S, hS⟩ : ∃ S, S = bump (ldlPage (u.eng - 0x38) 0) 0 7 1 s := ⟨_, rfl⟩
  have hk : Keeps [.cnt] s S := hS ▸ bump_keeps ..
  have heq : readbackEnd u 1 s = finish t1 { status := 1 } S := by
    rw [ht1, hS]
    rfl
  have hfound : findTask S t1.id = some u := by
    rw [hid1, findTask_congr (hk.1 .tasks (by decide))]
    exact hu
  have hfin := findTask_finish { status := 1 } hfound hd1
  rw [hid1, hk.1 .tck (by decide), if_neg (by rw [ha]; decide), ← heq] at hfin
  refine ⟨_, hfin, rfl, rfl, ?_⟩
  rw [heq]
  exact (hk.mono (by decide)).trans ((finish_queued_keeps hd1 _ S).mono (by decide))

theorem ackEffect_answers {s : State} {p : Nat} {k : Packet} {x : Track} {data : List Byte} (h : answers s p k x data) :
    ackEffect p k s = answered x (match x.kind with
      | .moveWrite => movAcked x.owner (untracked p k s)
      | .contribute => redAcked x k (untracked p k s)
      | .mcast => mcastAcked x.owner x.first x.count (untracked p k s)
      | _ => untracked p k s) := by
  unfold ackEffect
  rw [onResponse_answers h] <;> rfl

/-- Settles O40: each kind of request does its work in the state in which the packet is off its queue and its request no longer tracked. -/
theorem responsesServeTheirRequest : Obligations.ResponsesServeTheirRequest := by
  refine ⟨?moveRead, ?readback, ?exchange, ?finite, ?contribute, ?acked, ?resolve⟩
  case moveRead =>
    intro s p k x data u h hkind hfound hp hs hspec hfar hgot held lo come stop w0
    obtain ⟨hearly, hnext, hrun⟩ := moveRead_serves s p k x data u h hkind hfound hp hs hspec hfar hgot
    refine ⟨hearly, hnext, fun i e heq hdone => ?_⟩
    intro b hw
    obtain ⟨v, w, hexec, hfind, hpos, hhold, hwrites⟩ := hrun i e heq hdone hw
    have hkeeps := readRespEffect_keeps p.val k s
    have heff : readRespEffect p.val k s = answered x v := by
      injection hexec
    rw [heff] at hkeeps
    exact ⟨v, w, hexec, hfind, hpos, hhold, hwrites, hkeeps.1⟩
  case readback =>
    intro s p k x data u h hkind hw ha
    obtain ⟨hfound, hp, hs, hd⟩ := hw
    have hid := findTask_id hfound
    have hk := untracked_keeps p.val k s
    have hfound' : findTask (untracked p.val k s) x.owner = some u := (findTask_untracked ..).trans hfound
    have heff : readRespEffect p.val k s = answered x (readbackEnd u 1 (untracked p.val k s)) := by
      unfold readRespEffect
      rw [onResponse_answers h, hkind]
      show answered x (match findTask (untracked p.val k s) x.owner with | some t => _ | none => _) = _
      rw [hfound']
      exact congrArg (answered x) (if_pos ⟨hp, hs⟩)
    obtain ⟨w, hfind, hphase, hstatus, hkw⟩ := readbackEnd_ok (s := untracked p.val k s) (u := u) (by rw [hid]; exact hfound') hd
      (by rw [hk.1 .tck (by decide)]; exact ha)
    rw [hid] at hfind
    refine ⟨_, w, congrArg Host.Outcome.next heff, hfind, hphase, hstatus, ?_, ?_⟩
    · rw [hkw.1 .lnk (by decide), untracked_track]
    · rw [hkw.1 .mem (by decide), untracked_mem]
  case exchange =>
    intro s p k x data u b h hkind hfound hp hs hb
    have heff : readRespEffect p.val k s = answered x (exchanged x k data (untracked p.val k s)) := by
      unfold readRespEffect
      rw [onResponse_answers h, hkind]
      rfl
    have hbucks : findBuck (untracked p.val k s) u.job (bucketOf u) = some b := by
      have hlnk : (untracked p.val k s).lnk.bucks = s.lnk.bucks := by
        show (takeOff p.val k s).lnk.bucks = _
        rw [(takeOff_portOnly p.val k s).lnk]
      unfold findBuck
      rw [hlnk]
      exact hb
    have hmem := exchanged_mem (k := k) (data := data) ((findTask_untracked p.val k s x.owner).trans hfound) hp hs hbucks
    rw [untracked_mem] at hmem
    exact ⟨_, congrArg Host.Outcome.next heff, hmem⟩
  case finite =>
    intro s p k x data u h hkind hfound
    have hid := findTask_id hfound
    have hfound' : findTask (untracked p.val k s) x.owner = some u := (findTask_untracked ..).trans hfound
    obtain ⟨w, hw⟩ : ∃ w : Task, w = { u with
      waits := u.waits - 1, cap := u.cap.take 1 ++ [word (leNat ((data.drop (slotAddr u 3 % 256)).take 8))] } := ⟨_, rfl⟩
    have hwid : w.id = u.id := by rw [hw]
    have heff : readRespEffect p.val k s = answered x (putTask w (untracked p.val k s)) := by
      unfold readRespEffect
      rw [onResponse_answers h, hkind]
      show answered x (finiteArrived x data (untracked p.val k s)) = _
      unfold finiteArrived
      rw [hfound', hw]
    have hfind : findTask (putTask w (untracked p.val k s)) x.owner = some w := by
      have hput := findTask_putTask (untracked p.val k s) w u (by rw [hwid, hid]; exact hfound')
      rwa [hwid, hid] at hput
    exact ⟨_, w, congrArg Host.Outcome.next heff, hfind, by rw [hw], by rw [hw], untracked_mem p.val k s⟩
  case contribute =>
    intro s p k x data h hkind
    have heff : ackEffect p.val k s = answered x (redAcked x k (untracked p.val k s)) := by
      rw [ackEffect_answers h, hkind]
    have htasks : (untracked p.val k s).tasks = s.tasks := (untracked_keeps p.val k s).1 .tasks (by decide)
    refine ⟨_, congrArg Host.Outcome.next heff, ?_, fun hprom => ?_, ?_, ?_⟩
    · rw [← htasks]
      unfold redAcked
      dsimp only
      split <;> rfl
    · unfold redAcked
      dsimp only
      split
      · exact List.mem_append_right _ (List.mem_singleton.mpr rfl)
      next hno =>
        by_contra hmem
        exact hno ⟨hprom, by simpa using hmem⟩
    · rw [← untracked_track p.val k s]
      unfold redAcked
      dsimp only
      split <;> rfl
    · rw [← untracked_mem p.val k s]
      unfold redAcked
      dsimp only
      split <;> rfl
  case acked =>
    intro s p k x data h hcon
    have heff := ackEffect_answers h
    have hkeeps := ackEffect_keeps p.val k s
    rw [heff] at hkeeps
    refine ⟨_, congrArg Host.Outcome.next heff, fun hkind => ?_, fun hkind => ?_, hkeeps.1⟩
    · rw [hkind]
      rfl
    · rw [hkind]
      rfl
  case resolve =>
    intro s p k x data h hkind w
    obtain ⟨e, he⟩ : ∃ e : WinEnt, e = ⟨x.dev, x.k.job, w 0, w 1, nfld (w 2) 9 0, nfld (w 2) 31 24⟩ := ⟨_, rfl⟩
    obtain ⟨u1, hu1⟩ : ∃ u1 : State, u1 = { takeOff p.val k s with
      lnk := { (takeOff p.val k s).lnk with cache := (e :: (takeOff p.val k s).lnk.cache).take 4096 } } := ⟨_, rfl⟩
    obtain ⟨u2, hu2⟩ : ∃ u2, u2 = match getTrack u1 x.first with
      | some y => setTrack x.first { y with asking := false } u1
      | none => u1 := ⟨_, rfl⟩
    have heff : resolveRespEffect p.val k s = answered x (dropTrack k.seq u2) := by
      unfold resolveRespEffect
      rw [onResponse_answers h]
      dsimp only
      rw [if_neg (by simp [hkind]), hu2, hu1, he] <;> rfl
    have hself : Keeps [.out, .regs, .cnt, .rel, .lnk, .sys] s s := .refl
    have hk1 : Keeps [.out, .regs, .cnt, .rel, .lnk, .sys] s u1 := by
      rw [hu1]
      exact (takeOff_keeps p.val k s).set_lnk _ (by decide)
    have hk2 : Keeps [.out, .regs, .cnt, .rel, .lnk, .sys] s u2 := by
      rw [hu2]
      split
      · exact hk1.step (setTrack_keeps ..)
      · exact hk1
    have hcache : u2.lnk.cache = u1.lnk.cache := by
      rw [hu2]
      split <;> rfl
    refine ⟨_, congrArg Host.Outcome.next heff, ?_, fun y hne hy => ?_, (hk2.step (dropTrack_keeps ..)).1⟩
    · show u2.lnk.cache = _
      rw [hcache, hu1, ← he, ← cache_takeOff p.val k s]
    · have hy1 : getTrack u1 x.first = some y := by
        rw [hu1]
        show mfind (takeOff p.val k s).lnk.track x.first = some y
        rw [track_takeOff]
        exact hy
      rw [hy1] at hu2
      show mfind (mdel u2.lnk.track k.seq) x.first = _
      rw [mfind_mdel_ne hne, hu2]
      exact (mfind_mput ..).trans (if_pos rfl)

end Sys2Proof.Machine
end

section
/-! SUPPORT. Slices of a task that stands on a direct channel: its end takes it off the device (R204). -/

namespace Sys2Proof.Machine

/-- A dispatched task without elements, on a direct channel. -/
def onChannel (cls op : Nat) : Task :=
  { id := 1, cq := 0, eng := 0x38, addr := 0, phase := .dispatched, accTick := 0, desc := [word (cls * 256 + op * 2 ^ 32)],
    direct := some 0 }

/-- The slice of that task. -/
def channelSlice : Adm := { task := 1, resume := false, bound := 0, stop := 1 }

/-- The device with that slice begun. -/
def channelBusy (cls op : Nat) : State :=
  { tasks := [onChannel cls op], eng := [(0x38, { queue := [channelSlice], started := true })] }

/-- No state that a command leads to has a task of that number. -/
theorem not_found_of_gone {c : Instr} {s u : State} {w : Task} {id : Nat} (hexec : exec c s = .next u)
    (hgone : (match exec c s with | .next v => findTask v id | _ => none) = none) : findTask u id ≠ some w := by
  rw [hexec] at hgone
  simp only at hgone
  simp [hgone]

/-- Refutes O18: the end of a task on a direct channel takes it off the device, so that no task is found that stands complete. -/
theorem not_vectorGranulesWriteTheirElements : ¬ Obligations.VectorGranulesWriteTheirElements := by
  intro h
  obtain ⟨u, w, hexec, -, -, hfind, -⟩ := h (channelBusy 2 0) (onChannel 2 0) channelSlice 0 0 (.vecConvert 1 1 0)
    (by decide) (by unfold State.inSlice; decide) (by decide) (by decide) (by decide) (by unfold writable; decide)
  exact not_found_of_gone hexec (by decide) hfind

/-- Refutes O19 in the same way, at the last granule of a function's evaluation. -/
theorem not_rowsRandomsAndFunctionsWriteElements : ¬ Obligations.RowsRandomsAndFunctionsWriteElements := by
  rintro ⟨-, -, hfun, -⟩
  obtain ⟨u, w, hexec, -, -, hfind, -⟩ := hfun (channelBusy 3 0) (onChannel 3 0) channelSlice 0 0 (.funForward 1 1 0)
    (by decide) (by unfold State.inSlice; decide) (by decide) (by decide) (by unfold writable; decide)
  exact not_found_of_gone hexec (by decide) hfind

/-- Refutes O22 in the same way, at the last granule of an optimiser. -/
theorem not_optimiserGranulesStepTheirParameters : ¬ Obligations.OptimiserGranulesStepTheirParameters := by
  rintro ⟨hstep, -⟩
  obtain ⟨u, w, n, hexec, -, -, hfind, -⟩ := hstep (channelBusy 4 0) (onChannel 4 0) channelSlice 0 0 (.sgd 1 1 0)
    (by decide) (by unfold State.inSlice; decide) (by decide) (by decide) (by decide) (by decide) (by decide)
    (by unfold writable; decide)
  exact not_found_of_gone hexec (by decide) hfind

/-- A dispatched product on a direct channel whose one block without rows waits for the epilogue. -/
def blockOnChannel : Task := { onChannel 1 0 with blocks := [(0, [])] }

/-- Refutes O21 in the same way, at the last block of a product. -/
theorem not_epilogueEmptiesTheOldestBlock : ¬ Obligations.EpilogueEmptiesTheOldestBlock := by
  intro h
  obtain ⟨u, w, n, hexec, -, hfind, -⟩ := h { tasks := [blockOnChannel] } blockOnChannel 0 [] [] (by decide) (by decide)
    (by decide) (by decide) (by decide) (by decide) (by decide) (by decide) (by decide) (by unfold writable; decide)
  exact not_found_of_gone hexec (by decide) hfind

end Sys2Proof.Machine
end

section
/-! SUPPORT. The memory-side adders (R285-R288). -/

namespace Sys2Proof.Machine

/-! ### What the adders store -/

theorem adderRun_mem (a : Nat) (bs : List Byte) (s : State) : (adderRun a bs s).mem = memStore s.mem a bs := by
  unfold adderRun
  split
  · rename_i h
    rw [List.isEmpty_iff.mp h]
    rfl
  rw [landRun_mem]
  congr 1
  split
  · exact ((hbmMove_keeps ..).1 .mem (by decide)).trans (((hbmFetch_keeps ..).1 .mem (by decide)).trans ((dropLine_keeps ..).1 .mem (by decide)))
  · exact ((addAct_keeps ..).1 .mem (by decide)).trans ((bump_keeps ..).1 .mem (by decide))
  · rfl

theorem foldl_adderRun_cutLines_mem (k a : Nat) (bs : List Byte) (s : State) (hk : a % 256 + bs.length ≤ 256 * k) :
    ((cutLines k a bs).foldl (fun u w => adderRun w.1 w.2 u) s).mem = memStore s.mem a bs := by
  induction k generalizing a bs s with
  | zero =>
    have : bs = [] := List.length_eq_zero_iff.mp (by omega)
    subst this
    rfl
  | succ k ih =>
    cases bs with
    | nil => rfl
    | cons b bs =>
      unfold cutLines
      dsimp only
      split
      · exact adderRun_mem a (b :: bs) s
      · rename_i hlong
        have hlen : ((b :: bs).take (256 - a % 256)).length = 256 - a % 256 := by rw [List.length_take]; omega
        rw [List.foldl_cons, ih _ _ _ (by rw [List.length_drop]; omega), adderRun_mem]
        conv_rhs => rw [← List.take_append_drop (256 - a % 256) (b :: bs), memStore_append, hlen]

theorem adderWrite_mem (a : Nat) (bs : List Byte) (s : State) : (adderWrite a bs s).mem = memStore s.mem a bs :=
  foldl_adderRun_cutLines_mem _ _ _ _ (by omega)

/-! ### Elements of equal width, one after another -/

theorem length_flatten_of_width {l : List (List Byte)} {w : Nat} (h : ∀ x ∈ l, x.length = w) : l.flatten.length = w * l.length := by
  induction l with
  | nil => rfl
  | cons x l ih =>
    rw [List.flatten_cons, List.length_append, h x (List.mem_cons_self ..), ih fun y hy => h y (List.mem_cons_of_mem _ hy),
      List.length_cons, Nat.mul_succ, Nat.add_comm]

/-- The `i`-th element stands at `i` widths. -/
theorem memBytes_memStore_flatten {m : Mem} (h : Memory.wf m = true) {w : Nat} {l : List (List Byte)} (hl : ∀ x ∈ l, x.length = w)
    (a : Nat) {i : Nat} (hi : i < l.length) : memBytes (memStore m a l.flatten) (a + w * i) w = l[i] := by
  induction l generalizing m a i with
  | nil => exact absurd hi (Nat.not_lt_zero _)
  | cons x l ih =>
    have hx := hl x (List.mem_cons_self ..)
    have hl' : ∀ y ∈ l, y.length = w := fun y hy => hl y (List.mem_cons_of_mem _ hy)
    cases i with
    | zero =>
      have := memBytes_memStore_append h a x l.flatten
      rw [hx] at this
      exact this
    | succ i =>
      rw [List.flatten_cons, memStore_append, hx, Nat.mul_succ, Nat.add_comm (w * i), ← Nat.add_assoc, List.getElem_cons_succ]
      exact ih (memStore_wf h) hl' _ (by simpa using hi)

/-! ### A packet outside an MX8 bucket's elements -/

/-- The width of the elements an operation works on in memory. -/
def elemWidth (op code : Nat) : Nat := if op = 8 ∨ op = 9 ∨ (op = 0xB ∧ code = 1) then 4 else 8

/-- The elements an operation leaves, by the rule of Table 10.2. -/
def adderOut (op code addr : Nat) (data : List Byte) (m : Mem) : List (List Byte) :=
  let w := elemWidth op code
  (List.range (raCount op code data.length)).map fun i => toLe w
    (adderRule op code (leNat (memBytes m (addr + w * i) w)) (leNat ((data.drop (w * i)).take w)) ((raVals op code data).getD i (Sys2Proof.Num.ofNat 0)))

theorem raVals_length (op code : Nat) (data : List Byte) : (raVals op code data).length = raCount op code data.length := by
  unfold raVals
  simp

/-- A fold over positions and values is one over positions. -/
theorem flatMap_zip_range {α : Type} (vs : List α) (d : α) (g : Nat × α → List Byte) :
    ((List.range vs.length).zip vs).flatMap g = (List.range vs.length).flatMap fun i => g (i, vs.getD i d) := by
  rw [List.flatMap_def, List.flatMap_def]
  congr 1
  refine List.ext_getElem (by simp) fun i h1 h2 => ?_
  have hi : i < vs.length := by simpa using h2
  simp [hi]

theorem perform_mem {b : Buck} {op code addr : Nat} {data : List Byte} (s : State) (hop : op ∈ [8, 9, 0xB, 0xC])
    (hb : b.op ≠ 2 ∨ toFlag b op addr data.length = true) :
    (perform b op code addr data s).mem = memStore s.mem addr (adderOut op code addr data s.mem).flatten := by
  unfold perform
  extract_lets n word64 tgt v s1 e0 vs keep count margin go out
  by_cases hf : toFlag b op addr data.length = true
  · rw [if_pos hf, (noteSlots_keeps ..).1 .mem (by decide)]
    obtain ⟨⟨rfl, -⟩, hlen⟩ : (op = 0xC ∧ addr = b.flag) ∧ data.length = 8 := by simpa [toFlag] using hf
    have hcells : (adderOut 0xC code addr data s.mem).flatten = toLe 8 v := by
      simp [adderOut, hlen, raCount, wireSize, elemWidth, adderRule, v, tgt, word64]
    rw [hcells]
    exact adderWrite_mem ..
  · have hne : b.op ≠ 2 := hb.resolve_right hf
    have hkeep (u : State) : (keep u).mem = u.mem := by
      unfold keep
      split
      · rfl
      · split
        · exact (putBuck_keeps ..).1 .mem (by decide)
        · rfl
    rw [if_neg hf, if_neg hne, (noteSlots_keeps ..).1 .mem (by decide), (addAct_keeps ..).1 .mem (by decide), hkeep, adderWrite_mem]
    congr 1
    have hvs (h : op ≤ 0xA) : vs = raVals op code data := if_pos h
    have hn : n = raCount op code data.length := rfl
    unfold out
    rcases List.mem_cons.mp hop with rfl | hop
    · rw [if_pos (by decide), hvs (by decide), hn, ← raVals_length, flatMap_zip_range _ (Sys2Proof.Num.ofNat 0)]
      simp [adderOut, elemWidth, adderRule, raVals_length, tgt, List.flatMap_def]
    rcases List.mem_cons.mp hop with rfl | hop
    · rw [if_pos (by decide), hvs (by decide), hn, ← raVals_length, flatMap_zip_range _ (Sys2Proof.Num.ofNat 0)]
      simp [adderOut, elemWidth, adderRule, raVals_length, tgt, List.flatMap_def]
    rcases List.mem_cons.mp hop with rfl | hop
    · by_cases hc : code = 1
      · simp [adderOut, elemWidth, adderRule, tgt, hc, n, List.flatMap_def]
      · simp [adderOut, elemWidth, adderRule, tgt, hc, n, word64, List.flatMap_def]
    · obtain rfl : op = 0xC := by simpa using hop
      simp [adderOut, elemWidth, adderRule, tgt, n, word64, List.flatMap_def]

theorem leNat_lt (bs : List Byte) : leNat bs < 256 ^ bs.length := by
  induction bs with
  | nil => decide
  | cons b bs ih =>
    have hb := b.isLt
    rw [leNat, List.length_cons, Nat.pow_succ]
    omega

/-- The rule's value fits its element. -/
theorem adderRule_lt {op code old new : Nat} (v : Sys2Proof.Num.Val)
    (hold : old < 256 ^ elemWidth op code) (hnew : new < 256 ^ elemWidth op code) : adderRule op code old new v < 256 ^ elemWidth op code := by
  unfold adderRule
  split
  · rename_i h
    rw [elemWidth, if_pos (h.imp_right .inl)]
    exact BitVec.isLt _
  · split
    · rename_i h
      rw [elemWidth, if_pos (.inr (.inr h))]
      exact BitVec.isLt _
    · split
      · exact max_lt hold hnew
      · exact lt_of_le_of_lt Nat.and_le_left hold

theorem mem_adderOut_length {op code addr : Nat} {data x : List Byte} {m : Mem} (h : x ∈ adderOut op code addr data m) :
    x.length = elemWidth op code := by
  unfold adderOut at h
  obtain ⟨i, -, rfl⟩ := List.mem_map.mp h
  exact length_toLe ..

theorem length_adderOut (op code addr : Nat) (data : List Byte) (m : Mem) : (adderOut op code addr data m).length = raCount op code data.length := by
  simp [adderOut]

/-- The operation's rule holds of every element once they are stored. -/
theorem adderOut_stored {m : Mem} (h : Memory.wf m = true) {op code addr i : Nat} {data : List Byte}
    (hi : i < raCount op code data.length) :
    leNat (memBytes (memStore m addr (adderOut op code addr data m).flatten) (addr + elemWidth op code * i) (elemWidth op code)) =
      adderRule op code (leNat (memBytes m (addr + elemWidth op code * i) (elemWidth op code)))
        (leNat ((data.drop (elemWidth op code * i)).take (elemWidth op code))) ((raVals op code data).getD i (Sys2Proof.Num.ofNat 0)) := by
  have hlen : i < (adderOut op code addr data m).length := (length_adderOut ..).symm ▸ hi
  have hold := leNat_lt (memBytes m (addr + elemWidth op code * i) (elemWidth op code))
  have hnew := leNat_lt ((data.drop (elemWidth op code * i)).take (elemWidth op code))
  rw [length_memBytes] at hold
  have hnew' := hnew.trans_le (Nat.pow_le_pow_right (by decide) (List.length_take_le ..))
  rw [memBytes_memStore_flatten h (fun x hx => mem_adderOut_length hx) addr hlen]
  simp only [adderOut, List.getElem_map, List.getElem_range]
  exact leNat_toLe (adderRule_lt _ hold hnew')

/-! ### A packet to an MX8 bucket -/

/-- A block of an MX8 bucket whose new elements, scale and promoted values are written. -/
def mxStored (b : Buck) (op code e0 n : Nat) (data : List Byte) (m : Mem) (j : Nat) : Mem :=
  let vs := if op ≤ 0xA then raVals op code data else []
  (mxAdd { mem := m } b (e0 + 32 * j) ((vs.drop (32 * j)).take 32) ((data.getD (n + j) 0).toNat)
    (if op = 0xA then code / 2 % 8 else 0) (op == 8)).1.foldl (fun m w => memStore m w.1 w.2) m

theorem foldl_adderWrite_mem (ws : List (Nat × List Byte)) (s : State) :
    (ws.foldl (fun u w => adderWrite w.1 w.2 u) s).mem = ws.foldl (fun m w => memStore m w.1 w.2) s.mem := by
  induction ws generalizing s with
  | nil => rfl
  | cons w ws ih => rw [List.foldl_cons, ih, adderWrite_mem, List.foldl_cons]

/-- Block by block. -/
theorem perform_mx_mem {b : Buck} {op code addr : Nat} {data : List Byte} (s : State) (hb : b.op = 2)
    (hf : toFlag b op addr data.length = false) :
    (perform b op code addr data s).mem = (List.range (cdiv (raCount op code data.length) 32)).foldl
      (mxStored b op code ((addr - b.base) / b.size) (raCount op code data.length) data) s.mem := by
  unfold perform
  extract_lets n word64 tgt v s1 e0 vs keep count margin go out
  have hkeep (u : State) : (keep u).mem = u.mem := by
    unfold keep
    split
    · rfl
    · split
      · exact (putBuck_keeps ..).1 .mem (by decide)
      · rfl
  have hgo (u : State) (j : Nat) : (go u j).mem = mxStored b op code e0 n data u.mem j := by
    unfold go mxStored
    extract_lets r u1 u2 u3
    have hu1 : u1.mem = r.1.foldl (fun m w => memStore m w.1 w.2) u.mem := foldl_adderWrite_mem ..
    have hu2 : u2.mem = u1.mem := by
      unfold u2
      split
      · exact (bump_keeps ..).1 .mem (by decide)
      · rfl
    have hu3 : u3.mem = u2.mem := by
      unfold u3
      split
      · exact (bump_keeps ..).1 .mem (by decide)
      · rfl
    rw [(noteFlags_keeps ..).1 .mem (by decide), hu3, hu2, hu1]
    rfl
  have hfold (l : List Nat) (u : State) : (l.foldl go u).mem = l.foldl (mxStored b op code e0 n data) u.mem := by
    induction l generalizing u with
    | nil => rfl
    | cons j l ih => rw [List.foldl_cons, ih, hgo, List.foldl_cons]
  rw [if_neg (by simp [hf]), if_pos hb, (noteSlots_keeps ..).1 .mem (by decide), (addAct_keeps ..).1 .mem (by decide), hkeep, hfold]

/-- The bytes of a write lie in one of three places. -/
def Within (w : Nat × List Byte) (a sa pa : Nat) : Prop :=
  (w.1 = a ∧ w.2.length = 32) ∨ (w.1 = sa ∧ w.2.length = 1) ∨ (w.1 = pa ∧ w.2.length = 128)

theorem length_flatMap_toLe (w : Nat) (f : Nat → Nat) (n : Nat) : ((List.range n).flatMap fun k => toLe w (f k)).length = w * n := by
  rw [List.flatMap_def, length_flatten_of_width (w := w) (by simp), List.length_map, List.length_range]

/-- A block's writes: its elements, its scale, its promoted values. -/
theorem mxAdd_within (s : State) (b : Buck) (e0 : Nat) (xs : List Sys2Proof.Num.Val) (xscale margin : Nat) (prom : Bool) :
    ∀ w ∈ (mxAdd s b e0 xs xscale margin prom).1, Within w (b.base + e0) (b.sbase + e0 / 32) (b.pbase + 4 * e0) := by
  unfold mxAdd
  extract_lets f a0 sa pa ts ids code t pOld x pOut w fits nonzero a q
  have hout (v : Nat → F32) : Within (pOut v) a0 sa pa := .inr (.inr ⟨rfl, length_flatMap_toLe 4 _ 32⟩)
  have hscale (v : Byte) : Within (sa, [v]) a0 sa pa := .inr (.inl ⟨rfl, rfl⟩)
  split
  · simpa using hout _
  · split
    · simpa using ⟨hout _, hscale _⟩
    · split
      · simpa using ⟨hout _, hscale _⟩
      · simpa using ⟨.inl ⟨rfl, by simp [ids]⟩, hscale _⟩

/-- Bytes outside a block's three places stay. -/
theorem foldl_memStore_outside {a sa pa x : Nat} (ha : x < a ∨ a + 32 ≤ x) (hs : x < sa ∨ sa + 1 ≤ x) (hp : x < pa ∨ pa + 128 ≤ x)
    {ws : List (Nat × List Byte)} (hw : ∀ w ∈ ws, Within w a sa pa) {m : Mem} (h : Memory.wf m = true) :
    Memory.wf (ws.foldl (fun m w => memStore m w.1 w.2) m) = true ∧ memGet (ws.foldl (fun m w => memStore m w.1 w.2) m) x = memGet m x := by
  induction ws generalizing m with
  | nil => exact ⟨h, rfl⟩
  | cons w ws ih =>
    obtain ⟨hwf, hget⟩ := ih (fun v hv => hw v (List.mem_cons_of_mem _ hv)) (memStore_wf (a := w.1) (bs := w.2) h)
    refine ⟨hwf, hget.trans ?_⟩
    rw [memGet_memStore h, if_neg]
    rcases hw w (List.mem_cons_self ..) with ⟨h1, h2⟩ | ⟨h1, h2⟩ | ⟨h1, h2⟩ <;> rw [h1, h2] <;> omega

/-- Bytes outside the elements, the scales and the promoted values of the blocks stay. -/
theorem mxStored_outside {b : Buck} {op code e n k x : Nat} {data : List Byte}
    (ha : x < b.base + e ∨ b.base + e + 32 * k ≤ x) (hs : x < b.sbase + e / 32 ∨ b.sbase + e / 32 + k ≤ x)
    (hp : x < b.pbase + 4 * e ∨ b.pbase + 4 * e + 128 * k ≤ x) {m : Mem} (h : Memory.wf m = true) :
    memGet ((List.range k).foldl (mxStored b op code e n data) m) x = memGet m x := by
  have hfold (l : List Nat) (hl : ∀ j ∈ l, j < k) (m : Mem) (h : Memory.wf m = true) :
      memGet (l.foldl (mxStored b op code e n data) m) x = memGet m x := by
    induction l generalizing m with
    | nil => rfl
    | cons j l ih =>
      have hj := hl j (List.mem_cons_self ..)
      have hdiv : (e + 32 * j) / 32 = e / 32 + j := by omega
      obtain ⟨hwf, hget⟩ : Memory.wf (mxStored b op code e n data m j) = true ∧ memGet (mxStored b op code e n data m j) x = memGet m x := by
        unfold mxStored
        dsimp only
        refine foldl_memStore_outside (a := b.base + (e + 32 * j)) (sa := b.sbase + (e + 32 * j) / 32) (pa := b.pbase + 4 * (e + 32 * j))
          ?_ ?_ ?_ (mxAdd_within _ _ _ _ _ _ _) h
        · omega
        · omega
        · omega
      exact (ih (fun i hi => hl i (List.mem_cons_of_mem _ hi)) _ hwf).trans hget
  exact hfold _ (fun j hj => List.mem_range.mp hj) m h

/-! ### The request -/

/-- Slots are found by where a line is served and what the adders hold. -/
theorem slotsArmed_forJob (s : State) (job j bucket : Nat) (span : Nat × Nat) :
    slotsArmed { s with actJob := job } j bucket span = slotsArmed s j bucket span := rfl

/-- A packet that the adders take is performed once it has left its queue. -/
theorem raEffect_performs {s : State} {p : Nat} {k : Packet} {b : Buck} {data : List Byte} (h : accepted s p k (raTarget s k) data)
    (htake : addersTake s k b) : (raEffect p k s).mem = (perform b k.op k.code k.addr data (takeOff p k { s with actJob := k.job })).mem := by
  obtain ⟨hwin, hfind, hlive, harmed, hfits, hin, hlines⟩ := htake
  have hfind' : findBuck { s with actJob := k.job } k.job k.bucket = some b := hfind
  unfold raEffect
  rw [accept_accepted h, forJob_mem]
  dsimp only
  rw [if_neg (by rcases hwin with hw | hw <;> simp [hw]), hfind']
  dsimp only
  rw [if_neg (by simp [hlive, slotsArmed_forJob, harmed]), if_neg (by simp [hfits]), if_neg (by rintro ⟨h2, hno⟩; simp [hin h2] at hno),
    needLines_forJob, hlines]
  exact respond_mem ..

/-- Without a bucket there is no slot. -/
theorem raEffect_noSlot {s : State} {p : Nat} {k : Packet} {data : List Byte} (h : accepted s p k (raTarget s k) data)
    (hwin : winOf k.addr = .hbm ∨ winOf k.addr = .scr) (hnone : findBuck s k.job k.bucket = none) :
    raEffect p k s = forJob k.job (fun u => nack p k 8 (bump cx3 1 0 1 (takeOff p k u))) s := by
  have hnone' : findBuck { s with actJob := k.job } k.job k.bucket = none := hnone
  unfold raEffect
  rw [accept_accepted h]
  refine forJob_congr ?_
  dsimp only
  rw [if_neg (by rcases hwin with hw | hw <;> simp [hw]), hnone']

/-- The request commands of an accumulate. -/
theorem exec_accumulate {s : State} {p : Fin 16} {k : Packet} {x : Instr × Nat} (hx : x ∈ requestCommands p k) (h8 : 8 ≤ x.2)
    (hC : x.2 ≤ 0xC) : exec x.1 s = .next (raEffect p.val k s) := by
  simp only [requestCommands, List.mem_cons, List.not_mem_nil, or_false] at hx
  rcases hx with rfl | rfl | rfl | rfl | rfl | rfl | rfl | rfl | rfl
  · omega
  · omega
  · rfl
  · rfl
  · rfl
  · rfl
  · rfl
  · omega
  · omega

/-- Settles O39: the adders' memory is what the operation's rule stores. -/
theorem remoteAccumulatesApplyTheirRule : Obligations.RemoteAccumulatesApplyTheirRule := by
  refine ⟨?plain, ?blocks, ?noSlot⟩
  case plain =>
    intro s p k b data x hx hxop hop hacc hlen htake hplain w n
    have hmem : (raEffect p.val k s).mem = memStore s.mem k.addr (adderOut k.op k.code k.addr data s.mem).flatten := by
      rw [raEffect_performs hacc htake, perform_mem _ hop (by rwa [hlen]), takeOff_mem]
    have hrange : 8 ≤ k.op ∧ k.op ≤ 0xC := by
      simp only [List.mem_cons, List.not_mem_nil, or_false] at hop
      omega
    have hn : n = raCount k.op k.code data.length := by rw [hlen]
    refine ⟨_, exec_accumulate hx (hxop ▸ hrange.1) (hxop ▸ hrange.2), fun hinv i hi => ?_, fun hinv a ha => ?_, (raEffect_keeps ..).1⟩
    · rw [hmem]
      exact adderOut_stored hinv (hn ▸ hi)
    · have hflat : (adderOut k.op k.code k.addr data s.mem).flatten.length = w * n := by
        rw [length_flatten_of_width (fun x hx => mem_adderOut_length hx), length_adderOut, hn]
        rfl
      rw [hmem, memGet_memStore hinv, if_neg (by omega)]
  case blocks =>
    intro s p k b data x hx hxop hacc htake hb e m
    have hop : k.op = 0xA ∨ k.op = 8 := by
      rw [← hxop]
      simp only [List.mem_cons, List.not_mem_nil, or_false] at hx
      rcases hx with rfl | rfl
      · exact .inl rfl
      · exact .inr rfl
    have hflag (n : Nat) : toFlag b k.op k.addr n = false := by rcases hop with h | h <;> simp [toFlag, h]
    obtain ⟨-, -, -, -, -, hin, -⟩ := id htake
    have hbase : b.base ≤ k.addr := by
      have := hin hb
      simp only [inStaging, hflag, Bool.false_or, Bool.and_eq_true, decide_eq_true_eq] at this
      exact this.1
    have hperf (u : State) : (perform b k.op k.code k.addr data u).mem =
        (List.range m).foldl (mxStored b k.op k.code e (raCount k.op k.code data.length) data) u.mem := by
      rw [perform_mx_mem u hb (hflag _)]
      simp [Buck.size, hb, e, m]
    have hmem : (raEffect p.val k s).mem = (perform b k.op k.code k.addr data s).mem := by
      rw [raEffect_performs hacc htake, hperf, hperf, takeOff_mem]
    have hexec : exec x.1 s = .next (raEffect p.val k s) := by
      simp only [List.mem_cons, List.not_mem_nil, or_false] at hx
      rcases hx with rfl | rfl <;> rfl
    refine ⟨_, hexec, hmem, fun hinv a ha hs hp => ?_, (raEffect_keeps ..).1⟩
    rw [hmem, hperf]
    exact mxStored_outside (by omega) hs hp hinv
  case noSlot =>
    intro s p k data x hx h8 hC hacc hnone hwin
    have heff := raEffect_noSlot hacc hwin hnone
    refine ⟨_, exec_accumulate hx h8 hC, heff, ?_⟩
    rw [heff, forJob_mem, (nack_keeps ..).1 .mem (by decide), (bump_keeps ..).1 .mem (by decide), takeOff_mem]

end Sys2Proof.Machine
end

section
/-! SUPPORT. The map-out of a block at a boundary (R183, R355). -/

namespace Sys2Proof.Machine

/-- A map-out of array 5, which the device does not have, is in hand; the job of slot 0, whose mapping 0 is usable, is in mapping 1,
in which queue 0 is bound to engine 5, a quadrant of array 0. -/
def strayMapOut : State :=
  { regs := [(regKey tck1Page 0x1000, word (5 + 2 ^ 15 + 2 ^ 16))], rel := { reqs := [⟨0x10, 5, 0, false, false, true, 0, false⟩] },
    tck := { slots := [(0, { w0 := word (2 ^ 34), active := true, mapAck := 1 })] } }

/-- Refutes O24: engine 5 counts among that block's engines, but its own block is in service, so that the job stays in mapping 1. -/
theorem not_boundaryCountsTheTick : ¬ Obligations.BoundaryCountsTheTick := by
  rintro ⟨-, -, -, -, -, ⟨-, hswap⟩, -⟩
  obtain ⟨-, -, -, hmoves⟩ := hswap strayMapOut 0x10 5 (by decide) (by decide)
  have hlowest := ((hmoves 0 (by decide) (by decide +kernel) (by decide)).1 0 (by decide +kernel)).1
  exact absurd hlowest (by decide +kernel)

end Sys2Proof.Machine
end

section
/-! SUPPORT. The controls of the matrix arrays (R72, R76, R77, R93-R97). -/

namespace Sys2Proof.Machine

theorem getArr_setArr (n m : Nat) (a : Arr) (s : State) : getArr (setArr n a s) m = if m = n then a else getArr s m := mget_mput ..

theorem getUnit_setUnit (n q m r : Nat) (u : Unit) (s : State) :
    getUnit (setUnit n q u s) m r = if m = n ∧ r = q then u else getUnit s m r := by
  unfold setUnit getUnit
  rw [getArr_setArr]
  by_cases hm : m = n
  · subst hm
    simp
  · simp [hm]

theorem getUnit_setUnit_same (n q : Nat) (u : Unit) (s : State) : getUnit (setUnit n q u s) n q = u := by
  rw [getUnit_setUnit, if_pos ⟨rfl, rfl⟩]

theorem getUnit_setUnit_ne {n q m r : Nat} (h : m ≠ n ∨ r ≠ q) (u : Unit) (s : State) : getUnit (setUnit n q u s) m r = getUnit s m r := by
  rw [getUnit_setUnit, if_neg (by rintro ⟨rfl, rfl⟩; simp at h)]

theorem banks_setUnit (n q m : Nat) (u : Unit) (s : State) : (getArr (setUnit n q u s) m).banks = (getArr s m).banks := by
  unfold setUnit
  rw [getArr_setArr]
  split
  · rename_i h
    rw [h]
  · rfl

theorem setUnit_onlyChanges {n q : Nat} {u : Unit} {s : State} : State.onlyChanges [.arr] s (setUnit n q u s) := (setUnit_keeps ..).1

/-! ### Mode and swap (R72, R76, R77) -/

theorem getArr_congr {s t : State} (h : t.arr = s.arr) (n : Nat) : getArr t n = getArr s n := by
  unfold getArr
  rw [h]

theorem getUnit_congr {s t : State} (h : t.arr = s.arr) (n q : Nat) : getUnit t n q = getUnit s n q := by
  unfold getUnit
  rw [getArr_congr h]

theorem quadMode_congr {s t : State} (h : t.regs = s.regs) (n : Nat) : quadMode t n = quadMode s n := by
  unfold quadMode regBit
  rw [getReg_congr h]

theorem unitIn_congr {s t : State} (h : quadMode t n = quadMode s n) (q : Nat) : unitIn t n q = unitIn s n q := by
  unfold unitIn
  rw [h]

/-- MODE stores its bit. -/
theorem quadMode_storeMode (n : Fin 4) (v : Word) (s : State) : quadMode (storeReg (ap n.val 0) 0x200 v s) n.val = bit v 0 := by
  have hrow : ∀ n : Fin 4, ∃ r, fieldsAt (ap n.val 0) 0x200 = some r ∧ bit (word r.rw) 0 = true ∧ bit (word r.w1c) 0 = false := by decide
  obtain ⟨r, hr, hrw, hw1c⟩ := hrow n
  show bit (getReg (storeReg (ap n.val 0) 0x200 v s) (ap n.val 0) 0x200) 0 = bit v 0
  rw [storeReg_eq hr, getReg_setReg_same]
  exact bit_merged hrw hw1c _ _

/-- SWAP_CTL stores AUTO of each unit and leaves MODE alone. -/
theorem swapAuto_storeSwap (n : Fin 4) {q : Nat} (hq : q < 4) (v : Word) (s : State) :
    swapAuto (storeReg (ap n.val 0) 0x208 v s) n.val q = bit v (4 + q) := by
  have hrow : ∀ n : Fin 4, ∃ r, fieldsAt (ap n.val 0) 0x208 = some r ∧ ∀ q < 4, bit (word r.rw) (4 + q) = true ∧ bit (word r.w1c) (4 + q) = false := by
    decide
  obtain ⟨r, hr, hbits⟩ := hrow n
  show bit (getReg (storeReg (ap n.val 0) 0x208 v s) (ap n.val 0) 0x208) (4 + q) = _
  rw [storeReg_eq hr, getReg_setReg_same]
  exact bit_merged (hbits q hq).1 (hbits q hq).2 _ _

theorem quadMode_storeSwap (n : Nat) (v : Word) (s : State) : quadMode (storeReg (ap n 0) 0x208 v s) n = quadMode s n := by
  have hne : regKey (ap n 0) 0x200 ≠ regKey (ap n 0) 0x208 := by
    unfold regKey
    omega
  exact congrArg (bit · 0) (getReg_storeReg_ne hne v s)

/-- The unit as an ARM leaves it. -/
def armedUnit (u : Unit) : Unit := if u.ready then { u with armed := true } else { u with armHeld := true }

theorem armUnit_taken {n q : Nat} {s : State} (ha : swapAuto s n q = false) (hu : unitIn s n q = true) :
    armUnit n s q = setUnit n q (armedUnit (getUnit s n q)) s := by
  unfold armUnit armedUnit
  extract_lets u
  rw [if_neg (by simp [ha, hu])]
  split <;> rfl

theorem armUnit_left {n q : Nat} {s : State} (h : swapAuto s n q = true ∨ unitIn s n q = false) : armUnit n s q = s := if_pos h

theorem armUnit_regs (n q : Nat) (s : State) : (armUnit n s q).regs = s.regs := by
  unfold armUnit
  extract_lets u
  split
  · rfl
  · split <;> rfl

/-- Arming of several units, each at most once. -/
theorem foldl_armUnit {n : Nat} (l : List Nat) (hl : l.Nodup) (s : State) :
    (l.foldl (armUnit n) s).regs = s.regs ∧ ∀ q, getUnit (l.foldl (armUnit n) s) n q =
      if q ∈ l ∧ swapAuto s n q = false ∧ unitIn s n q = true then armedUnit (getUnit s n q) else getUnit s n q := by
  induction l generalizing s with
  | nil => exact ⟨rfl, fun q => by simp⟩
  | cons p l ih =>
    obtain ⟨hp, hl⟩ := List.nodup_cons.mp hl
    have hregs := armUnit_regs n p s
    obtain ⟨hfold, hunits⟩ := ih hl (armUnit n s p)
    refine ⟨hfold.trans hregs, fun q => ?_⟩
    have hauto : swapAuto (armUnit n s p) n q = swapAuto s n q := congrArg (bit · _) (getReg_congr hregs ..)
    have hin : unitIn (armUnit n s p) n q = unitIn s n q := unitIn_congr (quadMode_congr hregs n) q
    rw [List.foldl_cons, hunits, hauto, hin]
    by_cases hpq : q = p
    · subst hpq
      rw [if_neg (by simp [hp])]
      by_cases ht : swapAuto s n q = false ∧ unitIn s n q = true
      · rw [armUnit_taken ht.1 ht.2, getUnit_setUnit_same, if_pos ⟨List.mem_cons_self .., ht⟩]
      · rw [armUnit_left (by by_contra hc; simp at hc; exact ht hc), if_neg (fun h => ht h.2)]
    · have hother : getUnit (armUnit n s p) n q = getUnit s n q := by
        by_cases ht : swapAuto s n p = false ∧ unitIn s n p = true
        · rw [armUnit_taken ht.1 ht.2, getUnit_setUnit_ne (.inr hpq)]
        · rw [armUnit_left (by by_contra hc; simp at hc; exact ht hc)]
      rw [hother]
      simp [hpq]

/-! ### Loads (R76, R77) -/

/-- The unit with a load ready for arming. -/
def readyUnit (u : Unit) (auto : Bool) (load : Option (Nat × Nat)) (page6 : Bool) : Unit :=
  { u with ready := true, chained := false, armed := auto || u.armHeld || u.armed, armHeld := false, front := false, insole := page6, load := load }

theorem markReady_eq (n q : Nat) (load : Option (Nat × Nat)) (page6 : Bool) (s : State) :
    markReady n q load page6 s = setUnit n q (readyUnit (getUnit s n q) (swapAuto s n q) load page6) s := by
  have hheld (a h c : Bool) : (h && !(a || h || c)) = false := by cases a <;> cases h <;> simp
  unfold markReady readyUnit
  dsimp only
  rw [hheld]

theorem loadTile_arr (n q : Nat) (bank : Bool) (x : Task) (u : Nat) (s : State) : getArr (loadTile n q bank x u s) n =
    { getArr s n with banks := (unitQuads (isQuad x) q).foldl (fun m p => mput m (bankKey bank p) (tilePart x s u p)) (getArr s n).banks } :=
  (getArr_congr ((bump_keeps ..).1 .arr (by decide)) n).trans ((getArr_setArr ..).trans (if_pos rfl))

theorem loadTile_unit (n q m r : Nat) (bank : Bool) (x : Task) (u : Nat) (s : State) : getUnit (loadTile n q bank x u s) m r = getUnit s m r := by
  by_cases hm : m = n
  · subst hm
    unfold getUnit
    rw [loadTile_arr]
  · have : getArr (loadTile n q bank x u s) m = getArr s m :=
      (getArr_congr ((bump_keeps ..).1 .arr (by decide)) m).trans ((getArr_setArr ..).trans (if_neg hm))
    unfold getUnit
    rw [this]

/-- Values put at different keys all stand. -/
theorem mget_foldl_mput {α : Type} {k : Nat → Nat} (hk : ∀ p r, k p = k r → p = r) (f : Nat → α) (d : α) (l : List Nat) (m : Map α) (p : Nat) :
    mget (l.foldl (fun m p => mput m (k p) (f p)) m) (k p) d = if p ∈ l then f p else mget m (k p) d := by
  induction l generalizing m with
  | nil => simp
  | cons r l ih =>
    rw [List.foldl_cons, ih, mget_mput]
    by_cases hp : p ∈ l
    · simp [hp]
    · by_cases hr : p = r
      · simp [hr]
      · rw [if_neg hp, if_neg (fun h => hr (hk _ _ h)), if_neg (by simp [hp, hr])]

theorem mget_foldl_mput_other {α : Type} {k : Nat → Nat} (f : Nat → α) (d : α) (l : List Nat) (m : Map α) {j : Nat}
    (hj : ∀ p ∈ l, j ≠ k p) : mget (l.foldl (fun m p => mput m (k p) (f p)) m) j d = mget m j d := by
  induction l generalizing m with
  | nil => rfl
  | cons r l ih =>
    rw [List.foldl_cons, ih _ (fun p hp => hj p (List.mem_cons_of_mem _ hp)), mget_mput, if_neg (hj r (List.mem_cons_self ..))]

theorem bankKey_inj {b c : Bool} {p r : Nat} (hp : p < 4) (hr : r < 4) (h : bankKey b p = bankKey c r) : b = c ∧ p = r := by
  unfold bankKey b2n at h
  cases b <;> cases c <;> simp at h ⊢ <;> omega

theorem unitQuads_lt {quad : Bool} {q p : Nat} (hq : q < 4) (h : p ∈ unitQuads quad q) : p < 4 := by
  unfold unitQuads at h
  split at h
  · obtain rfl := List.mem_singleton.mp h
    exact hq
  · simp only [List.mem_cons, List.not_mem_nil, or_false] at h
    omega

/-- A load that its words' check bits pass, of the next tile. -/
theorem loadReady_some {n q u : Nat} {x : Task} {s : State} (hin : unitIn s n q = true) (hnext : nextTile s n q = some (x, u))
    (hgo : (getUnit s n q).ready = false ∨ (getUnit s n q).insole = false ∧ (getUnit s n q).load ≠ some (x.id, u)) :
    loadReadyEffect n q s = match lsChecked x (tileSpans x u) s (fun s1 => .go x s1) with
      | .go _ s1 => markReady n q (some (x.id, u)) false (loadTile n q (!(getUnit s n q).bank) x u s1)
      | .fail f s1 => finish x f s1
      | .wait => s := by
  unfold loadReadyEffect
  extract_lets v
  rw [if_neg (by simp [hin]), hnext]
  dsimp only
  rw [if_neg] <;> try rfl
  rcases hgo with h | ⟨h1, h2⟩
  · simp [v, h]
  · simp [v, h1, h2]

/-! ### Test access (R97) -/

theorem cellAt_lt {r c : Nat} (hr : r < 512) (hc : c < 512) : (cellAt false 0 r c).1 < 4 := by
  show r / 256 * 2 + c / 256 < 4
  omega

theorem cellAt_inj {r c d : Nat} (h : cellAt false 0 r c = cellAt false 0 r d) : c = d := by
  have h1 : r / 256 * 2 + c / 256 = r / 256 * 2 + d / 256 := congrArg Prod.fst h
  have h2 : r % 256 * 256 + c % 256 = r % 256 * 256 + d % 256 := congrArg Prod.snd h
  omega

theorem getCell_putCell {n r c : Nat} (hr : r < 512) (hc : c < 512) (bank b : Bool) (v : Nat) (s : State) {k : Nat × Nat} (hk : k.1 < 4) :
    getCell (putCell n bank r c v s) n b k = if b = bank ∧ k = cellAt false 0 r c then v else getCell s n b k := by
  unfold getCell putCell
  extract_lets a x
  have harr : getArr (setArr n { a with banks := mput a.banks (bankKey bank x.1) (mput (mget a.banks (bankKey bank x.1) []) x.2 v) } s) n =
      { a with banks := mput a.banks (bankKey bank x.1) (mput (mget a.banks (bankKey bank x.1) []) x.2 v) } := (getArr_setArr ..).trans (if_pos rfl)
  rw [harr]
  dsimp only
  rw [mget_mput]
  by_cases hkey : b = bank ∧ k.1 = x.1
  · rw [if_pos (by rw [hkey.1, hkey.2]), mget_mput, hkey.1, hkey.2]
    by_cases h2 : k.2 = x.2
    · rw [if_pos h2, if_pos ⟨rfl, Prod.ext hkey.2 h2⟩]
    · rw [if_neg h2, if_neg (fun h => h2 (congrArg Prod.snd h.2))]
  · rw [if_neg (fun h => hkey (bankKey_inj hk (cellAt_lt hr hc) h)), if_neg (fun h => hkey ⟨h.1, congrArg Prod.fst h.2⟩)]

theorem getUnit_putCell (n m q : Nat) (bank : Bool) (r c v : Nat) (s : State) : getUnit (putCell n bank r c v s) m q = getUnit s m q := by
  unfold putCell getUnit
  extract_lets a x
  rw [getArr_setArr]
  split
  · rename_i h
    rw [h]
  · rfl

/-- The four cells of a word written. -/
def wordPut (n : Nat) (bank : Bool) (r w : Nat) (v : Word) (s : State) : State :=
  (List.range 4).foldl (fun u i => putCell n bank r (4 * w + i) (fld v (16 * i + 15) (16 * i)) u) s

theorem wordPut_arr_only (n : Nat) (bank : Bool) (r w : Nat) (v : Word) (s : State) : Keeps [.arr] s (wordPut n bank r w v s) :=
  Keeps.foldl .refl fun _ _ h => h.step (putCell_keeps ..)

theorem getUnit_wordPut (n m q : Nat) (bank : Bool) (r w : Nat) (v : Word) (s : State) : getUnit (wordPut n bank r w v s) m q = getUnit s m q := by
  unfold wordPut
  generalize List.range 4 = l
  induction l generalizing s with
  | nil => rfl
  | cons i l ih => rw [List.foldl_cons, ih, getUnit_putCell]

/-- Each of the cells stands, and every other as it was. -/
theorem getCell_wordPut {n r w : Nat} (hr : r < 512) (hw : w < 128) (bank : Bool) (v : Word) (s : State) :
    (∀ i < 4, getCell (wordPut n bank r w v s) n bank (cellAt false 0 r (4 * w + i)) = fld v (16 * i + 15) (16 * i)) ∧
    (∀ (b : Bool) (k : Nat × Nat), k.1 < 4 → b ≠ bank ∨ (∀ i < 4, k ≠ cellAt false 0 r (4 * w + i)) →
      getCell (wordPut n bank r w v s) n b k = getCell s n b k) := by
  have hfold (l : List Nat) (hl : l.Nodup) (hlt : ∀ i ∈ l, i < 4) (u : State) :
      (∀ i ∈ l, getCell (l.foldl (fun u i => putCell n bank r (4 * w + i) (fld v (16 * i + 15) (16 * i)) u) u) n bank (cellAt false 0 r (4 * w + i)) =
        fld v (16 * i + 15) (16 * i)) ∧
      (∀ (b : Bool) (k : Nat × Nat), k.1 < 4 → b ≠ bank ∨ (∀ i ∈ l, k ≠ cellAt false 0 r (4 * w + i)) →
        getCell (l.foldl (fun u i => putCell n bank r (4 * w + i) (fld v (16 * i + 15) (16 * i)) u) u) n b k = getCell u n b k) := by
    induction l generalizing u with
    | nil => exact ⟨nofun, fun _ _ _ _ => rfl⟩
    | cons j l ih =>
      obtain ⟨hj, hl⟩ := List.nodup_cons.mp hl
      have hjlt := hlt j (List.mem_cons_self ..)
      obtain ⟨hin, hout⟩ := ih hl (fun i hi => hlt i (List.mem_cons_of_mem _ hi)) (putCell n bank r (4 * w + j) (fld v (16 * j + 15) (16 * j)) u)
      refine ⟨fun i hi => ?_, fun b k hk hne => ?_⟩
      · rcases List.mem_cons.mp hi with rfl | hi
        · rw [List.foldl_cons, hout bank _ (cellAt_lt hr (by omega)) (.inr fun p hp heq => ?_), getCell_putCell hr (by omega) _ _ _ _ (cellAt_lt hr (by omega)),
            if_pos ⟨rfl, rfl⟩]
          have hplt := hlt p (List.mem_cons_of_mem _ hp)
          have := cellAt_inj heq
          exact hj (by rwa [show i = p by omega])
        · exact hin i hi
      · rw [List.foldl_cons, hout b k hk (hne.imp_right fun h i hi => h i (List.mem_cons_of_mem _ hi)), getCell_putCell hr (by omega) _ _ _ _ hk,
          if_neg]
        rintro ⟨hb, hkeq⟩
        rcases hne with h | h
        · exact h hb
        · exact h j (List.mem_cons_self ..) hkeq
  obtain ⟨h1, h2⟩ := hfold (List.range 4) List.nodup_range (fun i hi => List.mem_range.mp hi) s
  exact ⟨fun i hi => h1 i (List.mem_range.mpr hi), fun b k hk hne => h2 b k hk (hne.imp_right fun h i hi => h i (List.mem_range.mp hi))⟩

/-- What the last word of a row leaves of the unit whose bank it was written to (R76, R97). -/
theorem bankWritten_unit (n q : Nat) (bank last : Bool) (w k : Nat) (s : State) :
    let u := getUnit s n q
    let row := if w ∈ u.row then u.row else w :: u.row
    getUnit (bankWritten n q bank last w k s) n q =
      if bank = u.bank then { u with pattern := true }
      else if last = false then u
      else if row.length < k then { u with row := row }
      else readyUnit { u with row := [] } (swapAuto s n q) none true := by
  intro u row
  unfold bankWritten
  extract_lets row'
  have hrow : row' = row := by simp [row, row', u]
  rw [hrow]
  by_cases hbank : bank = u.bank
  · rw [if_pos (beq_iff_eq.mpr hbank), if_pos hbank, getUnit_setUnit_same]
  · rw [if_neg (fun h => hbank (beq_iff_eq.mp h)), if_neg hbank]
    by_cases hlast : last = false
    · rw [if_pos hlast, if_pos hlast]
    · rw [if_neg hlast, if_neg hlast]
      by_cases hlen : row.length < k
      · rw [if_pos hlen, if_pos hlen, getUnit_setUnit_same]
      · rw [if_neg hlen, if_neg hlen, markReady_eq, getUnit_setUnit_same, getUnit_setUnit_same]
        rfl

theorem bankWritten_banks (n q : Nat) (bank last : Bool) (w k : Nat) (s : State) :
    (getArr (bankWritten n q bank last w k s) n).banks = (getArr s n).banks := by
  unfold bankWritten
  extract_lets u row
  split
  · exact banks_setUnit ..
  · split
    · rfl
    · split
      · exact banks_setUnit ..
      · rw [markReady_eq, banks_setUnit, banks_setUnit]

theorem bankWritten_arr_only (n q : Nat) (bank last : Bool) (w k : Nat) (s : State) : Keeps [.arr] s (bankWritten n q bank last w k s) :=
  bankWritten_keeps ..

theorem bankRow_lt (s : State) (n : Nat) : bankRow s n < 512 := fld_lt ..

/-! ### The keeper (R93-R95) -/

theorem dummyRows_spec (n q cycles : Nat) (s : State) (m r : Nat) :
    getUnit (dummyRows n q cycles s) m r = getUnit s m r ∧
    mget (dummyRows n q cycles s).act ((getEng s (unitEng s n q)).lastJob * 16) 0 = mget s.act ((getEng s (unitEng s n q)).lastJob * 16) 0 + cycles :=
  ⟨getUnit_congr ((dummyRows_keeps ..).1 .arr (by decide)) m r,
    (congrArg (mget · _ 0) ((bump_keeps ..).1 .act (by decide))).trans ((mget_mput ..).trans (if_pos rfl))⟩

/-- The dummy rows of a gap, with the keeper at a new place. -/
theorem dummyRows_setUnit (n q cycles : Nat) (u : Unit) (s : State) :
    getUnit (dummyRows n q cycles (setUnit n q u s)) n q = u ∧
    mget (dummyRows n q cycles (setUnit n q u s)).act ((getEng s (unitEng s n q)).lastJob * 16) 0 =
      mget s.act ((getEng s (unitEng s n q)).lastJob * 16) 0 + cycles := by
  obtain ⟨hunit, hact⟩ := dummyRows_spec n q cycles (setUnit n q u s) n q
  exact ⟨hunit.trans (getUnit_setUnit_same ..), hact⟩

theorem bump_act_arr (page set i n : Nat) (s : State) : (bump page set i n s).act = s.act ∧ (bump page set i n s).arr = s.arr :=
  ⟨(bump_keeps ..).1 .act (by decide), (bump_keeps ..).1 .arr (by decide)⟩

/-- Settles O28. -/
theorem arrayModesBanksAndKeeper : Obligations.ArrayModesBanksAndKeeper := by
  refine ⟨?mode, ?modeBusy, ?swap, ?load, ?chained, ?pass, ?noPass, ?down, ?up, ?stall, ?row, ?rowBusy⟩
  case mode =>
    intro s who n v ha hwork hctx hv
    obtain ⟨t, ht⟩ : ∃ t, t = arrayModeEffect n.val v s := ⟨_, rfl⟩
    have heff : arrayModeEffect n.val v s = clearCounters (ap n.val 2) (setArr n.val { getArr s n.val with
        bands := [], cols := [], units := mmap (fun _ u => { u with placed := none }) (getArr s n.val).units } (storeReg (ap n.val 0) 0x200 v s)) := by
      unfold arrayModeEffect
      rw [if_neg (by simpa [hwork] using hctx), if_neg hv]
    refine ⟨_, congrArg Host.Outcome.next ((regGuard_admits ha).trans heff), quadMode_storeMode n v s,
      fun i hi => mget_clearCounters_of_page _ _ _ (by omega), fun k hk => ?_, ?_⟩
    · rw [mget_clearCounters_of_ne _ _ _ hk]
      exact congrArg (mget · k 0) ((storeReg_keeps ..).1 .cnt (by decide))
    · have hk : Keeps [.regs, .cnt, .arr] s (storeReg (ap n.val 0) 0x200 v s) := (storeReg_keeps ..).mono (by decide)
      exact ((hk.step (setArr_keeps ..)).step (clearCounters_keeps ..)).1
  case modeBusy =>
    intro s who n v ha hbusy
    have heff : arrayModeEffect n.val v s = raise (ap n.val 0) 8 0x200 s := if_pos (by simpa using hbusy)
    refine ⟨_, congrArg Host.Outcome.next ((regGuard_admits ha).trans heff), raisedAt_raise _ _ _ (by decide), ?_,
      ((raise_keeps ..).mono (by decide)).1⟩
    exact congrArg (bit · 0) (getReg_raise_high (by decide) (by decide) ..)
  case swap =>
    intro s who n v ha
    obtain ⟨u, hu⟩ : ∃ u, u = storeReg (ap n.val 0) 0x208 v s := ⟨_, rfl⟩
    obtain ⟨-, hunits⟩ := foldl_armUnit (n := n.val) ((List.range 4).filter (fun q => bit v q)) (List.nodup_range.filter _) u
    have harr (q : Nat) : getUnit u n.val q = getUnit s n.val q := by rw [hu]; exact getUnit_congr ((storeReg_keeps ..).1 .arr (by decide)) ..
    have hin (q : Nat) : unitIn u n.val q = unitIn s n.val q := by rw [hu]; exact unitIn_congr (quadMode_storeSwap ..) q
    have hauto (q : Nat) (hq : q < 4) : swapAuto u n.val q = bit v (4 + q) := by rw [hu]; exact swapAuto_storeSwap n hq v s
    have heff : swapEffect n.val v s = ((List.range 4).filter (fun q => bit v q)).foldl (armUnit n.val) u := by rw [hu]; rfl
    refine ⟨_, congrArg Host.Outcome.next ((regGuard_admits ha).trans heff), fun q hq hv hno hqin => ?_, fun q hne => ?_, ?_⟩
    · rw [hunits, if_pos ⟨by simp [hq, hv], (hauto q hq).trans hno, (hin q).trans hqin⟩, harr]
      rfl
    · rw [hunits, if_neg, harr]
      rintro ⟨hmem, hfree, hqin⟩
      obtain ⟨hlt, hv⟩ : q < 4 ∧ bit v q = true := by simpa using hmem
      rw [hauto q hlt] at hfree
      rw [hin] at hqin
      rcases hne with h | h | h | h
      · rw [h] at hv; exact Bool.false_ne_true hv
      · rw [h] at hfree; exact Bool.false_ne_true hfree.symm
      · omega
      · rw [h] at hqin; exact Bool.false_ne_true hqin
    · rw [← heff]
      exact (swapEffect_keeps ..).1
  case load =>
    intro s n q hin v arm done
    have hdone (load : Option (Nat × Nat)) : readyUnit v (swapAuto s n.val q.val) load false = done load := rfl
    refine ⟨fun hnone => ?_, fun x u hnext => ⟨fun hready hsame => ?_, fun hgo => ⟨fun hls => ?_, fun a hls hpoison hx hd hab => ?_⟩⟩⟩
    · by_cases hr : v.ready = true
      · have heff : loadReadyEffect n.val q.val s = s := by
          unfold loadReadyEffect
          rw [if_neg (by simp [hin]), hnone]
          exact if_pos hr
        exact ⟨_, congrArg Host.Outcome.next heff, by rw [if_pos hr], (Keeps.refl (ps := [.arr])).1⟩
      · have heff : loadReadyEffect n.val q.val s = setUnit n.val q.val (done none) s := by
          unfold loadReadyEffect
          rw [if_neg (by simp [hin]), hnone]
          exact (if_neg hr).trans (markReady_eq ..)
        exact ⟨_, congrArg Host.Outcome.next heff, by rw [if_neg hr, getUnit_setUnit_same], setUnit_onlyChanges⟩
    · have heff : loadReadyEffect n.val q.val s = s := by
        unfold loadReadyEffect
        rw [if_neg (by simp [hin]), hnext]
        refine if_pos ?_
        rcases hsame with h | h
        · simp [v] at hready h
          simp [hready, h]
        · simp [v] at hready h
          simp [hready, h]
      exact congrArg Host.Outcome.next heff
    · have heff : loadReadyEffect n.val q.val s =
          setUnit n.val q.val (done (some (x.id, u))) (loadTile n.val q.val (!v.bank) x u s) := by
        have hcheck : lsChecked x (tileSpans x u) s (fun s1 => .go x s1) = .go x s := if_pos (by simp [hls])
        rw [loadReady_some hin hnext hgo, hcheck]
        dsimp only
        have hauto : swapAuto (loadTile n.val q.val (!v.bank) x u s) n.val q.val = swapAuto s n.val q.val :=
          congrArg (bit · _) (getReg_congr ((loadTile_keeps ..).1 .regs (by decide)) ..)
        rw [markReady_eq, loadTile_unit, hauto]
        rfl
      have hbanks (p : Nat) : mget (getArr (setUnit n.val q.val (done (some (x.id, u))) (loadTile n.val q.val (!v.bank) x u s)) n.val).banks p [] =
          mget ((unitQuads (isQuad x) q.val).foldl (fun m p => mput m (bankKey (!v.bank) p) (tilePart x s u p)) (getArr s n.val).banks) p [] := by
        rw [banks_setUnit, loadTile_arr]
      refine ⟨_, congrArg Host.Outcome.next heff, getUnit_setUnit_same .., fun m r hne => ?_, fun p hp => ?_, fun p hp => ?_, ?_⟩
      · rw [getUnit_setUnit_ne hne, loadTile_unit]
      · rw [hbanks, mget_foldl_mput (fun p r h => by unfold bankKey at h; omega), if_pos hp]
      · rw [hbanks]
        refine mget_foldl_mput_other _ _ _ _ fun r hr h => ?_
        have := (bankKey_inj hp (unitQuads_lt q.isLt hr) h).1
        cases hb : v.bank <;> rw [hb] at this <;> cases this
      · exact (((loadTile_keeps ..).step (setUnit_keeps ..)).mono (by decide)).1
    · have hcheck : lsChecked x (tileSpans x u) s (fun s1 => .go x s1) =
          .fail { status := 9, slot := slotAt x 0 a } (poisonRead (clsOf x.eng) a x.job 9 s) := by
        unfold lsChecked
        rw [if_neg (by simpa using hls), hpoison]
      obtain ⟨w, hw⟩ : ∃ w, w = poisonRead (clsOf x.eng) a x.job 9 s := ⟨_, rfl⟩
      have heff : loadReadyEffect n.val q.val s = finish x { status := 9, slot := slotAt x 0 a } w := by
        rw [loadReady_some hin hnext hgo, hcheck, hw]
      have hk := poisonRead_keeps (clsOf x.eng) a x.job 9 s
      rw [← hw] at hk
      have hfind : findTask w x.id = some x := by
        unfold findTask
        rw [hk.1 .tasks (by decide)]
        exact hx
      have htck : w.tck = s.tck := hk.1 .tck (by decide)
      refine ⟨_, _, congrArg Host.Outcome.next heff, findTask_finish _ hfind hd, rfl, ?_, ?_⟩
      · rw [htck, hab]
        rfl
      · rw [(finish_keeps ..).1 .arr (by decide), hk.1 .arr (by decide)]
  case chained =>
    intro s n q hfront hchained hready hin
    have heff : chainedEffect n.val q.val s = setUnit n.val q.val { getUnit s n.val q.val with chained := true } s :=
      if_neg (by simp [hfront, hchained, hready, hin])
    exact ⟨_, congrArg Host.Outcome.next heff, getUnit_setUnit_same .., setUnit_onlyChanges⟩
  case pass =>
    intro s n q harmed hin hclimb u hload
    have heff : passStartEffect n.val q.val s = swapIn n.val q.val (unitTask s n.val q.val) s := by
      unfold passStartEffect
      rw [if_neg (by simp [harmed, hin, hclimb])]
      cases hx : unitTask s n.val q.val with
      | none => rfl
      | some x => exact if_pos (by simpa [canSwap, harmed] using hload x hx)
    exact ⟨_, congrArg Host.Outcome.next heff, getUnit_setUnit_same .., fun m r hne => getUnit_setUnit_ne hne .., setUnit_onlyChanges⟩
  case noPass =>
    intro s n q h
    refine congrArg Host.Outcome.next ?_
    show passStartEffect n.val q.val s = s
    unfold passStartEffect
    rcases h with h | h | ⟨x, hx, hno, hload⟩
    · exact if_pos (.inl h)
    · exact if_pos (.inr (.inr h))
    · split
      · rfl
      · rw [hx]
        exact if_neg (by simp [canSwap, hno, hload])
  case down =>
    intro s n q gap hen hin hstep u due job
    have hself : Keeps [.cnt, .arr, .act] s s := .refl
    have heff : keeperDownEffect n.val q.val gap s =
        if gap < due then dummyRows n.val q.val (gap - u.gap) (setUnit n.val q.val { u with gap := max u.gap gap } s)
        else
          let s1 := dummyRows n.val q.val (due - u.gap) (setUnit n.val q.val { u with step := u.step + 1, gap := due } s)
          if u.step + 1 = rampSteps s n.val then bump (ap n.val 5) 0 (4 + q.val) 1 s1 else s1 :=
      if_neg (by simp [hen, hin]; exact hstep)
    by_cases hgap : gap < due
    · obtain ⟨hunit, hact⟩ := dummyRows_setUnit n.val q.val (gap - u.gap) { u with gap := max u.gap gap } s
      refine ⟨_, congrArg Host.Outcome.next (heff.trans (if_pos hgap)), ?_, ?_, ?_⟩
      · rw [hunit, if_neg (by omega)]
      · rw [hact, Nat.min_eq_right (by omega)]
      · exact ((hself.step (setUnit_keeps ..)).step (dummyRows_keeps ..)).1
    · obtain ⟨hunit, hact⟩ := dummyRows_setUnit n.val q.val (due - u.gap) { u with step := u.step + 1, gap := due } s
      have hkeep : Keeps [.cnt, .arr, .act] s (dummyRows n.val q.val (due - u.gap) (setUnit n.val q.val { u with step := u.step + 1, gap := due } s)) :=
        (hself.step (setUnit_keeps ..)).step (dummyRows_keeps ..)
      refine ⟨_, congrArg Host.Outcome.next (heff.trans (if_neg hgap)), ?_, ?_, ?_⟩
      · dsimp only
        rw [if_pos (by omega : due ≤ gap)]
        split
        · exact (getUnit_congr (bump_act_arr ..).2 ..).trans hunit
        · exact hunit
      · dsimp only
        rw [Nat.min_eq_left (by omega)]
        split
        · rw [(bump_act_arr ..).1, hact]
        · exact hact
      · exact (Keeps.ite (fun _ => hkeep.step (bump_keeps ..)) fun _ => hkeep).1
  case up =>
    intro s n q hen hstep hin job
    have hself : Keeps [.cnt, .arr, .act] s s := .refl
    obtain ⟨hunit, hact⟩ := dummyRows_setUnit n.val q.val (rampDwell s n.val) { getUnit s n.val q.val with step := (getUnit s n.val q.val).step - 1, gap := 0 } s
    refine ⟨_, congrArg Host.Outcome.next (if_neg (by simp [hen, hin, hstep])), ?_, ?_, ?_⟩
    · exact (getUnit_congr (bump_act_arr ..).2 ..).trans hunit
    · rw [(bump_act_arr ..).1, hact]
    · exact (((hself.step (setUnit_keeps ..)).step (dummyRows_keeps ..)).step (bump_keeps ..)).1
  case stall =>
    intro s n column idx cycles hidx
    obtain ⟨upd, hupd⟩ : ∃ upd : List Nat → List Nat, ∀ l, upd l = l.filter (· ≠ idx.val) ++ (if cycles = 0 then [] else [idx.val]) := ⟨_, fun _ => rfl⟩
    obtain ⟨a, ha⟩ : ∃ a, a = (if column then { getArr s n.val with cols := upd (getArr s n.val).cols }
      else { getArr s n.val with bands := upd (getArr s n.val).bands }) := ⟨_, rfl⟩
    have heff : longStallEffect n.val column idx.val cycles s =
        if regFld s (ap n.val 2) 0x200 15 0 ≠ 0 ∧ regFld s (ap n.val 2) 0x200 15 0 < cycles then intSet (ap n.val 0) 1 (setArr n.val a s)
        else setArr n.val a s := by
      unfold longStallEffect
      extract_lets lim b upd' s1
      have hsame : upd' = upd := funext fun l => (hupd l).symm
      have hs1 : s1 = setArr n.val a s := by simp only [s1, hsame, ha, b]
      rw [if_neg (by rintro ⟨h1, h2⟩; rcases hidx with h | h; · rw [h] at h1; cases h1
                     · omega), hs1]
    have harr : getArr (longStallEffect n.val column idx.val cycles s) n.val = a := by
      rw [heff]
      split
      · exact (getArr_congr ((intSet_keeps ..).1 .arr (by decide)) _).trans ((getArr_setArr ..).trans (if_pos rfl))
      · exact (getArr_setArr ..).trans (if_pos rfl)
    have hmem (l : List Nat) : idx.val ∈ upd l ↔ cycles ≠ 0 := by
      rw [hupd]
      by_cases hc : cycles = 0 <;> simp [hc]
    have hother (l : List Nat) (i : Nat) (hi : i ≠ idx.val) : i ∈ upd l ↔ i ∈ l := by
      rw [hupd]
      by_cases hc : cycles = 0 <;> simp [hc, hi]
    refine ⟨_, rfl, ?_, fun i hi => ?_, fun h0 hlt => ?_, (longStallEffect_keeps ..).1⟩
    · rw [harr, ha]
      cases column
      · exact hmem _
      · exact hmem _
    · rw [harr, ha]
      cases column
      · exact ⟨hother _ i hi, Iff.rfl⟩
      · exact ⟨Iff.rfl, hother _ i hi⟩
    · rw [heff, if_pos ⟨h0, hlt⟩]
      exact bit_intSts_intSet _ _ _ (by decide)
  case row =>
    intro s who n w v ha hwork
    obtain ⟨u1, hu1⟩ : ∃ u1, u1 = wordPut n.val (bankSel s n.val) (bankRow s n.val) w.val v s := ⟨_, rfl⟩
    have hkeep := wordPut_arr_only n.val (bankSel s n.val) (bankRow s n.val) w.val v s
    obtain ⟨hcells, hothers⟩ := getCell_wordPut (n := n.val) (bankRow_lt s n.val) w.isLt (bankSel s n.val) v s
    rw [← hu1] at hkeep hcells hothers
    have heff : tbankEffect n.val w.val v s = bankWritten n.val (if quadMode s n.val then bankRow s n.val / 256 * 2 + w.val / 64 else 0) (bankSel s n.val)
        (if quadMode s n.val then bankRow s n.val % 256 == 255 else bankRow s n.val == 511)
        (if quadMode s n.val then w.val % 64 else w.val) (if quadMode s n.val then 64 else 128) u1 := by
      rw [hu1]
      exact if_neg (by simp [hwork])
    have hcell (b : Bool) (k : Nat × Nat) : getCell (tbankEffect n.val w.val v s) n.val b k = getCell u1 n.val b k := by
      unfold getCell
      rw [heff, bankWritten_banks]
    refine ⟨_, congrArg Host.Outcome.next (regGuard_admits ha), fun i hi => (hcell ..).trans (hcells i hi),
      fun b k hk hne => (hcell ..).trans (hothers b k hk hne), ?_, ?_⟩
    · intro quad q u k words last
      have hunit := bankWritten_unit n.val q (bankSel s n.val) (if quad then bankRow s n.val % 256 == 255 else bankRow s n.val == 511) k
        (if quad then 64 else 128) u1
      have hsame : getUnit u1 n.val q = u := by rw [hu1]; exact getUnit_wordPut ..
      have hauto : swapAuto u1 n.val q = swapAuto s n.val q := congrArg (bit · _) (getReg_congr (hkeep.1 .regs (by decide)) ..)
      have hlast : (if quad then bankRow s n.val % 256 == 255 else bankRow s n.val == 511) = false ↔ ¬ last := by
        cases hq : quad <;> simp [last, hq]
      dsimp only at hunit
      rw [hsame, hauto] at hunit
      rw [heff]
      refine ⟨fun hb => hunit.trans (if_pos hb), fun hb hl => ?_, fun hb hl hlen => ?_, fun hb hl hlen => ?_⟩
      · exact hunit.trans ((if_neg hb).trans (if_pos (hlast.mpr hl)))
      · exact hunit.trans ((if_neg hb).trans ((if_neg (fun h => hlast.mp h hl)).trans (if_pos hlen)))
      · have hready := hunit.trans ((if_neg hb).trans ((if_neg (fun h => hlast.mp h hl)).trans (if_neg (Nat.not_lt.mpr hlen))))
        exact ⟨congrArg Unit.ready hready, congrArg Unit.insole hready, congrArg Unit.row hready, congrArg Unit.armed hready⟩
    · rw [heff]
      exact (hkeep.step (bankWritten_arr_only ..)).1
  case rowBusy =>
    intro s who n w v ha hwork
    have heff : tbankEffect n.val w.val v s = raise (ap n.val 6) 4 (0x1000 + 8 * w.val) s := if_pos hwork
    exact ⟨_, congrArg Host.Outcome.next ((regGuard_admits ha).trans heff), raisedAt_raise _ _ _ (by decide), ((raise_keeps ..).mono (by decide)).1⟩

end Sys2Proof.Machine
end

section
/-! SUPPORT. Acceptance of a command queue's front item (R38, R39). -/

namespace Sys2Proof.Machine

variable {s : State} {q : Nat} {v : Word} {rest : List Word}

theorem getQueue_qTake_same (h : (getQueue s q).items = v :: rest) : (getQueue (qTake q s).2 q).items = rest := by
  rw [qTake_cons h, getQueue_setQueue, if_pos rfl]

theorem getQueue_qTake_ne (h : (getQueue s q).items = v :: rest) {p : Nat} (hp : p ≠ q) :
    getQueue (qTake q s).2 p = getQueue s p := by
  rw [qTake_cons h, getQueue_setQueue, if_neg hp]

/-- CQ_DROP is set, and its record names the queue of the first item dropped. -/
theorem dropItem_regs (c : Nat) (s : State) : bit (getReg (dropItem c s) tck1Page 0x20) 8 = true ∧
    getReg (dropItem c s) tck1Page 0x220 =
      (if bit (getReg s tck1Page 0x220) 8 then getReg s tck1Page 0x220 else word (c + 256)) := by
  have hraised : bit (getReg (raise tck1Page 8 0 (qTake c s).2) tck1Page 0x20) 8 = true := (raisedAt_raise _ _ _ (by decide)).1
  have hlog : getReg (raise tck1Page 8 0 (qTake c s).2) tck1Page 0x220 = getReg s tck1Page 0x220 :=
    (getReg_raise_high (by decide) (by decide) ..).trans (getReg_congr ((qTake_keeps c s).1 .regs (by decide)) ..)
  unfold dropItem regBit
  dsimp only
  rw [hlog]
  split
  · exact ⟨hraised, hlog⟩
  · exact ⟨by rw [getReg_setReg_ne (by decide)]; exact hraised, getReg_setReg_same ..⟩

theorem dropItem_queue (h : (getQueue s q).items = v :: rest) : (getQueue (dropItem q s) q).items = rest := by
  have hraised := (raise_keeps tck1Page 8 0 (qTake q s).2).1 .queues (by decide)
  have hqueues : (dropItem q s).queues = (qTake q s).2.queues := by
    unfold dropItem
    dsimp only
    split
    · exact hraised
    · exact hraised
  rw [getQueue_congr hqueues, getQueue_qTake_same h]

/-- What a device that serves the queue does with the item at its front, whose pointers agree. -/
theorem acceptEffect_front (hs : cqServed s q = true) (hp : pointersAgree s q) (h : (getQueue s q).items = v :: rest) :
    acceptEffect q s = if addrOk v.toNat 256 = false then dropItem q s else
      match needLine s true (lineOf v.toNat) with
      | .wait => s
      | .fault _ => dropItem q s
      | .poison x => dropItem q (poisonRead tckClass x 0 0 s)
      | .ok => if structOk s (taskOf s q v.toNat).completion 64 64 = false then dropItem q (touchReads tckClass [(v.toNat, 256)] s)
          else let s1 := (qTake q (touchReads tckClass [(v.toNat, 256)] s)).2
            { s1 with tasks := s1.tasks ++ [taskOf s q v.toNat], nextTask := s1.nextTask + 1 } := by
  unfold acceptEffect
  rw [if_neg (by simp [hs, h]), ptrCheck_of_agree hp]
  dsimp only
  rw [h] <;> rfl

theorem completion_taskOf (s : State) (c a : Nat) : (taskOf s c a).completion = (memWord s.mem (a + 24)).toNat := by
  simp [taskOf, Task.completion, Task.w, memWords]

theorem addrOk_of_structOk {a align len : Nat} (h : structOk s a align len = true) : addrOk a align = true := by
  unfold structOk at h
  simp only [Bool.and_eq_true] at h
  exact h.1.1

/-- Settles O13: the front item with a fit descriptor becomes a task, an unfit one is dropped. -/
theorem acceptanceReadsTheDescriptorOnce : Obligations.AcceptanceReadsTheDescriptorOnce := by
  unfold Obligations.AcceptanceReadsTheDescriptorOnce
  refine ⟨?accepted, ?unfitItem, ?unfitRecord⟩
  case accepted =>
    intro s cq v rest hs hp h hok hline hrec
    have hread := touchReads_keeps tckClass [(v.toNat, 256)] s
    have hsame (p : Nat) : getQueue (touchReads tckClass [(v.toNat, 256)] s) p = getQueue s p := getQueue_congr (hread.1 .queues (by decide)) p
    have hfront := (congrArg Queue.items (hsame cq.val)).trans h
    obtain ⟨s1, hs1⟩ : ∃ s1, s1 = (qTake cq.val (touchReads tckClass [(v.toNat, 256)] s)).2 := ⟨_, rfl⟩
    have htaken : Keeps (readParts ++ [.queues]) s s1 :=
      hs1 ▸ (hread.mono (by decide)).trans ((qTake_keeps cq.val _).mono (by decide))
    have hkeep : Keeps (readParts ++ [.queues, .tasks, .nextTask]) s s1 := htaken.mono (by decide)
    have heff : acceptEffect cq.val s =
        { s1 with tasks := s1.tasks ++ [taskOf s cq.val v.toNat], nextTask := s1.nextTask + 1 } := by
      rw [acceptEffect_front hs hp h, if_neg (by simp [addrOk_of_structOk hok]), hline, hs1]
      exact if_neg (by simp [completion_taskOf, hrec])
    refine ⟨_, taskOf s cq.val v.toNat, congrArg Host.Outcome.next heff, ?_, rfl, rfl, rfl, rfl, rfl, ?_, ?_, fun p hne => ?_, ?_⟩
    · exact congrArg (· ++ _) (htaken.1 .tasks (by decide))
    · exact congrArg (· + 1) (htaken.1 .nextTask (by decide))
    · rw [hs1]
      exact getQueue_qTake_same hfront
    · rw [hs1]
      exact (getQueue_qTake_ne hfront hne).trans (hsame p)
    · exact ((hkeep.set_tasks (s1.tasks ++ [taskOf s cq.val v.toNat])).set_nextTask (s1.nextTask + 1)).1
  case unfitItem =>
    intro s cq v rest hs hp h hbad
    have heff : acceptEffect cq.val s = dropItem cq.val s := by
      rw [acceptEffect_front hs hp h]
      split
      · rfl
      · next haddr =>
        obtain ⟨a, ha⟩ := hbad.resolve_left haddr
        rw [ha]
    obtain ⟨hbit, hlog⟩ := dropItem_regs cq.val s
    exact ⟨_, congrArg Host.Outcome.next heff, (dropItem_keeps ..).1 .tasks (by decide), dropItem_queue h, hbit, hlog,
      ((dropItem_keeps ..).mono (by decide)).1⟩
  case unfitRecord =>
    intro s cq v rest hs hp h hok hline hrec
    have hread := touchReads_keeps tckClass [(v.toNat, 256)] s
    have heff : acceptEffect cq.val s = dropItem cq.val (touchReads tckClass [(v.toNat, 256)] s) := by
      rw [acceptEffect_front hs hp h, if_neg (by simp [addrOk_of_structOk hok]), hline]
      exact if_pos (by rw [completion_taskOf, hrec])
    have hkeep := (hread.mono (by decide) : Keeps (readParts ++ [.queues]) _ _).trans ((dropItem_keeps cq.val _).mono (by decide))
    exact ⟨_, congrArg Host.Outcome.next heff, hkeep.1 .tasks (by decide),
      dropItem_queue ((congrArg Queue.items (getQueue_congr (hread.1 .queues (by decide)) _)).trans h), (dropItem_regs ..).1, hkeep.1⟩

end Sys2Proof.Machine
end

section
/-! SUPPORT. A Ladle engine that is not enabled takes no arming (R32, R204). -/

namespace Sys2Proof.Machine

/-- The first Ladle engine in direct mode with EN = 0. -/
def directDisabled : State := setReg (ldlPage 0 0) 0x200 1 (setReg (ldlPage 0 0) 0x10 0 {})

/-- Refutes O30: a channel armed while the engine's EN is 0 stores its control word but does not become busy (R32). -/
theorem not_directTransfersRunTheArmedChannel : ¬ Obligations.DirectTransfersRunTheArmedChannel := by
  rintro ⟨-, -, harm, -⟩
  obtain ⟨t, hexec, hshadow, -⟩ := harm directDisabled .last 0 0 (word (2 ^ 18)) (by decide) (by decide) (by decide)
  have hidle : (match exec (.channelArm .last 0 0 (word (2 ^ 18))) directDisabled with
      | .next u => (mget (getLdl u 0).shadow 0 {}).busy | _ => true) = false := by decide
  rw [hexec] at hidle
  exact absurd ((congrArg Chan.busy hshadow).symm.trans hidle) (by decide)

end Sys2Proof.Machine
end

section
/-! SUPPORT. The Skim: entries one by one through the phases of EXPORT and ADVANCE (R142 to R145, R159). -/

namespace Sys2Proof.Machine

/-! ### Words in memory -/

theorem memWord_memStore_getD {m : Mem} (h : Memory.wf m = true) (a : Nat) (ws : List Word) {i : Nat} (hi : i < ws.length) :
    memWord (memStore m a (wordsBytes ws)) (a + 8 * i) = ws.getD i 0 := by
  have hsplit : ws = ws.take i ++ ws[i] :: ws.drop (i + 1) := by simp
  have hword := memWord_memStore_words h a (ws.take i) ws[i] (ws.drop (i + 1)) (n := 8 * i)
    (by rw [length_wordsBytes, List.length_take, Nat.min_eq_left (Nat.le_of_lt hi)])
  rw [← hsplit] at hword
  rw [hword, List.getD_eq_getElem _ _ hi]

theorem memWord_congr {m m' : Mem} {a : Nat} (h : ∀ x, a ≤ x → x < a + 8 → memGet m' x = memGet m x) : memWord m' a = memWord m a := by
  rw [memWord, memWord, memBytes_congr h]

/-! ### One entry alone -/

/-- From `s` to `t` the Skim has changed in entry `e` alone. -/
structure EntOnly (e : Nat) (s t : State) : Prop where
  skm : t.skm = { s.skm with ents := t.skm.ents }
  ents : ∀ d, d ≠ e → getEnt t d = getEnt s d

theorem EntOnly.of_skm {e : Nat} {s t : State} (h : t.skm = s.skm) : EntOnly e s t :=
  ⟨by rw [h], fun d _ => by rw [getEnt, getEnt, h]⟩

theorem EntOnly.of_keeps {e : Nat} {s t : State} {ps : List Part} (k : Keeps ps s t) (h : .skm ∉ ps := by decide) : EntOnly e s t :=
  .of_skm (k.1 .skm h)

theorem EntOnly.trans {e : Nat} {s t u : State} (h : EntOnly e s t) (k : EntOnly e t u) : EntOnly e s u :=
  ⟨by rw [k.skm, h.skm], fun d hd => (k.ents d hd).trans (h.ents d hd)⟩

theorem getEnt_setEnt (e d : Nat) (x : SkimEnt) (s : State) : getEnt (setEnt e x s) d = if d = e then x else getEnt s d :=
  mget_mput ..

theorem setEnt_entOnly (e : Nat) (x : SkimEnt) (s : State) : EntOnly e s (setEnt e x s) :=
  ⟨rfl, fun d hd => by rw [getEnt_setEnt, if_neg hd]⟩

theorem getEnt_congr {s t : State} (h : t.skm = s.skm) (e : Nat) : getEnt t e = getEnt s e := by rw [getEnt, getEnt, h]

/-- A pass over distinct entries, each step of which changes its own entry alone, leaves the others. -/
theorem foldl_ents {f : Nat → State → State} (hf : ∀ e u, EntOnly e u (f e u)) (l : List Nat) (u : State) :
    (l.foldl (fun v e => f e v) u).skm = { u.skm with ents := (l.foldl (fun v e => f e v) u).skm.ents } ∧
      ∀ d, d ∉ l → getEnt (l.foldl (fun v e => f e v) u) d = getEnt u d := by
  induction l generalizing u with
  | nil => exact ⟨rfl, fun _ _ => rfl⟩
  | cons e l ih =>
    obtain ⟨hskm, hents⟩ := ih (f e u)
    refine ⟨hskm.trans (by rw [(hf e u).skm]; rfl), fun d hd => ?_⟩
    rw [List.mem_cons, not_or] at hd
    exact (hents d hd.2).trans ((hf e u).ents d hd.1)

/-- In a pass over distinct entries each stands in the end as its own step leaves it. -/
theorem foldl_ents_own {f : Nat → State → State} {new : SkimEnt → SkimEnt} {P : SkimEnt → Prop} (hf : ∀ e u, EntOnly e u (f e u))
    (hnew : ∀ e u, P (getEnt u e) → getEnt (f e u) e = new (getEnt u e)) {l : List Nat} (hl : l.Nodup) {e : Nat} (he : e ∈ l) {u : State}
    (hp : P (getEnt u e)) : getEnt (l.foldl (fun v d => f d v) u) e = new (getEnt u e) := by
  induction l generalizing u with
  | nil => cases he
  | cons d l ih =>
    obtain ⟨hd, hl⟩ := List.nodup_cons.mp hl
    by_cases hed : e = d
    · subst hed
      exact ((foldl_ents hf l (f e u)).2 e hd).trans (hnew e u hp)
    · have hsame := (hf d u).ents e hed
      have hown := ih hl ((List.mem_cons.mp he).resolve_left hed) (u := f d u) (hsame ▸ hp)
      rw [hsame] at hown
      exact hown

/-! ### EXPORT -/

theorem exportEnt_entOnly (e : Nat) (u : State) : EntOnly e u (exportEnt e u) := by
  unfold exportEnt
  dsimp only
  split
  · exact ((EntOnly.of_keeps (wrBytes_keeps ..)).trans (setEnt_entOnly ..)).trans (.of_keeps (bump_keeps ..))
  · exact .of_skm rfl

theorem getEnt_exportEnt {e : Nat} {u : State} (h : bit (getEnt u e).cfg 18 = true) :
    getEnt (exportEnt e u) e = { getEnt u e with pend := {} } := by
  unfold exportEnt
  dsimp only
  rw [if_pos h, getEnt_congr ((bump_keeps ..).1 .skm (by decide)), getEnt_setEnt, if_pos rfl]

theorem exportEnt_regs (e : Nat) (u : State) : (exportEnt e u).regs = u.regs := by
  unfold exportEnt
  dsimp only
  split
  · exact ((bump_keeps ..).1 .regs (by decide)).trans ((wrBytes_counts ..).1 .regs (by decide))
  · rfl

theorem exportEnt_mem (e : Nat) (u : State) : (exportEnt e u).mem =
    if bit (getEnt u e).cfg 18 then memStore u.mem (statBase u + 64 * e) (wordsBytes (recWords (getEnt u e).pend)) else u.mem := by
  unfold exportEnt
  dsimp only
  split
  · exact ((bump_keeps ..).1 .mem (by decide)).trans (wrBytes_mem ..)
  · rfl

theorem statBase_congr {s t : State} (h : t.regs = s.regs) : statBase t = statBase s := by
  rw [statBase, statBase, regFld, regFld, getReg_congr h]

/-- EXPORT leaves each exported record in the statistics area, and every byte outside the places of the entries. -/
theorem foldl_export_mem {l : List Nat} (hl : l.Nodup) {u : State} (hwf : Memory.wf u.mem = true) :
    (∀ e ∈ l, bit (getEnt u e).cfg 18 = true → ∀ i < 8,
      memWord (l.foldl (fun v d => exportEnt d v) u).mem (statBase u + 64 * e + 8 * i) = (recWords (getEnt u e).pend).getD i 0) ∧
    (∀ x, (∀ e ∈ l, ¬ (statBase u + 64 * e ≤ x ∧ x < statBase u + 64 * e + 64)) →
      memGet (l.foldl (fun v d => exportEnt d v) u).mem x = memGet u.mem x) := by
  induction l generalizing u with
  | nil => exact ⟨fun _ h => (List.not_mem_nil h).elim, fun _ _ => rfl⟩
  | cons d l ih =>
    obtain ⟨hd, hl⟩ := List.nodup_cons.mp hl
    have hmem := exportEnt_mem d u
    have hbase := statBase_congr (exportEnt_regs d u)
    have hwf' : Memory.wf (exportEnt d u).mem = true := by
      rw [hmem]
      split
      · exact memStore_wf hwf
      · exact hwf
    obtain ⟨hown, hrest⟩ := ih hl hwf'
    rw [hbase] at hown hrest
    rw [List.foldl_cons]
    refine ⟨fun e he hb i hi => ?_, fun x hx => ?_⟩
    · by_cases hed : e = d
      · subst hed
        rw [if_pos hb] at hmem
        rw [memWord_congr (fun x h1 h2 => hrest x fun e' he' h => ?_), hmem]
        · exact memWord_memStore_getD hwf _ _ hi
        · have hne : e' ≠ e := fun h => hd (h ▸ he')
          omega
      · have hsame := (exportEnt_entOnly d u).ents e hed
        rw [← hsame] at hb ⊢
        exact hown e ((List.mem_cons.mp he).resolve_left hed) hb i hi
    · rw [hrest x fun e he => hx e (List.mem_cons_of_mem _ he), hmem]
      split
      · rw [memGet_memStore hwf, if_neg]
        rw [length_wordsBytes]
        exact hx d (List.mem_cons_self ..)
      · rfl

/-! ### ADVANCE -/

/-- An entry after the record `r` entered its history (R144). -/
def stepped (r : SkimRec) (x : SkimEnt) : SkimEnt :=
  { x with hist := (r :: x.hist).take 16, st := (choose { x with hist := (r :: x.hist).take 16 }).1 }

theorem stepped_hist (r : SkimRec) (x : SkimEnt) : (stepped r x).hist = (r :: x.hist).take 16 := by
  rw [stepped]

theorem stepped_pend (r : SkimRec) (x : SkimEnt) : (stepped r x).pend = x.pend := by
  rw [stepped]

theorem stepped_cfg (r : SkimRec) (x : SkimEnt) : (stepped r x).cfg = x.cfg := by
  rw [stepped]

theorem stepped_st (r : SkimRec) (x : SkimEnt) : (stepped r x).st = (choose { x with hist := (r :: x.hist).take 16 }).1 := by
  rw [stepped]

theorem foldl_bindings_skm (f : State → Nat → State) (hf : ∀ u b, (f u b).skm = u.skm) (l : List Nat) (u : State) :
    (l.foldl f u).skm = u.skm := by
  induction l generalizing u with
  | nil => rfl
  | cons b l ih => exact (ih _).trans (hf u b)

/-- The record that enters an entry's history: the pending one, or that of the statistics area (R143). -/
def recordIn (u : State) (e : Nat) : SkimRec :=
  if bit (getEnt u e).cfg 18 then recAt u (statBase u + 64 * e) else (getEnt u e).pend

/-- The entry without the pending record that it gives up. -/
def opened (x : SkimEnt) : SkimEnt := if bit x.cfg 18 then x else { x with pend := {} }

/-- The entry can be advanced: its candidates and its choice are right, and its record can be read. -/
def advances (u : State) (e : Nat) : Prop :=
  candsOk (getEnt u e).cfg = true ∧ fld (getEnt u e).st 1 0 ≤ fld (getEnt u e).cfg 20 19 ∧
    (bit (getEnt u e).cfg 18 = true → poisoned u (lineOf (statBase u + 64 * e)) = false)

/-- ADVANCE of an entry leaves it as it is, or without its pending record, or one step on. -/
theorem advanceEnt_skm (e : Nat) (u : State) : ∃ v, EntOnly e u v ∧
    ((advanceEnt e u).skm = u.skm ∧ ¬ advances u e ∨
      getEnt v e = opened (getEnt u e) ∧
        ((advanceEnt e u).skm = v.skm ∧ ¬ ((recordIn u e).nonfin = false ∧ (recordIn u e).amax < 0x7F800000) ∨
          (advanceEnt e u).skm = (setEnt e (stepped (recordIn u e) (opened (getEnt u e))) v).skm)) := by
  unfold advanceEnt
  extract_lets x sync a r s1 y y1 c s2 s3 s4 s5 s6 f
  have hr : r = recordIn u e := rfl
  have hpre (b : Bool) : (if b then bump (pageOf .skm 0 1) 0 2 1 (touchReads tckClass [(a, 64)] u) else setEnt e { x with pend := {} } u).skm =
      (if b then u else setEnt e { x with pend := {} } u).skm := by
    cases b
    · rfl
    · exact ((bump_keeps ..).1 .skm (by decide)).trans ((touchReads_keeps ..).1 .skm (by decide))
  have hs1 : s1.skm = (if sync then u else setEnt e { x with pend := {} } u).skm :=
    ((histCheck_keeps _).1 .skm (by decide)).trans (hpre sync)
  have hs6 : s6.skm = s2.skm := by
    have hstep (b : Bool) (page set i n : Nat) (w : State) : (if b then bump page set i n w else w).skm = w.skm := by
      cases b
      · rfl
      · exact (bump_keeps ..).1 .skm (by decide)
    exact (hstep ..).trans ((hstep ..).trans ((hstep ..).trans ((bump_keeps ..).1 .skm (by decide))))
  have hy : y = opened x := by
    refine (getEnt_congr hs1 e).trans ?_
    unfold opened
    show getEnt (if bit x.cfg 18 then _ else _) e = _
    split
    · rfl
    · rw [getEnt_setEnt, if_pos rfl]
  have honly : EntOnly e u s1 := by
    refine EntOnly.trans ?_ (.of_skm hs1)
    cases sync
    · exact setEnt_entOnly ..
    · exact .of_skm rfl
  refine ⟨s1, honly, ?_⟩
  split
  · next hbad =>
    refine .inl ⟨(raise_keeps ..).1 .skm (by decide), fun h => ?_⟩
    obtain ⟨hc, hst, -⟩ := h
    exact hbad.elim (by rw [hc]; decide) (Nat.not_lt.mpr hst)
  split
  · next hpoison =>
    rw [Bool.and_eq_true] at hpoison
    refine .inl ⟨((raise_keeps ..).1 .skm (by decide)).trans ((poisonRead_keeps ..).1 .skm (by decide)), fun h => ?_⟩
    exact absurd (h.2.2 hpoison.1) (by rw [hpoison.2]; decide)
  refine .inr ⟨hy, ?_⟩
  split
  · next hinf =>
    refine .inl ⟨(bump_keeps ..).1 .skm (by decide), fun h => ?_⟩
    rw [← hr] at h
    simp [h.1, Nat.not_le.mpr h.2] at hinf
  · refine .inr (((foldl_bindings_skm _ (fun w b => ?_) _ _).trans hs6).trans ?_)
    · split
      · exact (writeBinding_keeps ..).1 .skm (by decide)
      · exact (writeBinding_keeps ..).1 .skm (by decide)
    · rw [← hr, ← hy]
      rfl

theorem advanceEnt_entOnly (e : Nat) (u : State) : EntOnly e u (advanceEnt e u) := by
  obtain ⟨v, hv, ⟨h, -⟩ | ⟨-, ⟨h, -⟩ | h⟩⟩ := advanceEnt_skm e u
  · exact .of_skm h
  · exact hv.trans (.of_skm h)
  · exact (hv.trans (setEnt_entOnly ..)).trans (.of_skm h)

theorem getEnt_advanceEnt {e : Nat} {u : State} (ha : advances u e) (hfin : (recordIn u e).nonfin = false)
    (hmax : (recordIn u e).amax < 0x7F800000) : getEnt (advanceEnt e u) e = stepped (recordIn u e) (opened (getEnt u e)) := by
  obtain ⟨v, -, ⟨-, h⟩ | ⟨-, ⟨-, h⟩ | h⟩⟩ := advanceEnt_skm e u
  · exact absurd ha h
  · exact absurd ⟨hfin, hmax⟩ h
  · rw [getEnt_congr h, getEnt_setEnt, if_pos rfl]

/-- An entry that is not synchronised, whose choice is right and whose pending record is finite. -/
structure PendingGoesOn (x : SkimEnt) : Prop where
  alone : bit x.cfg 18 = false
  cands : candsOk x.cfg = true
  chosen : fld x.st 1 0 ≤ fld x.cfg 20 19
  finite : x.pend.nonfin = false
  bounded : x.pend.amax < 0x7F800000

theorem getEnt_advanceEnt_pending (e : Nat) (u : State) (h : PendingGoesOn (getEnt u e)) :
    getEnt (advanceEnt e u) e = stepped (getEnt u e).pend { getEnt u e with pend := {} } := by
  have hin : recordIn u e = (getEnt u e).pend := if_neg (by rw [h.alone]; decide)
  have hopen : opened (getEnt u e) = { getEnt u e with pend := {} } := if_neg (by rw [h.alone]; decide)
  have hstep := getEnt_advanceEnt (e := e) (u := u) ⟨h.cands, h.chosen, fun hs => absurd hs (by rw [h.alone]; decide)⟩
    (by rw [hin]; exact h.finite) (by rw [hin]; exact h.bounded)
  rw [hin, hopen] at hstep
  exact hstep

/-! ### The phases -/

/-- The state in which a pass over the entries of the job in hand begins. -/
def entriesFrom (u : State) : State := addAct u.skm.job 3 (gradEnts u u.skm.job).length { u with actJob := u.skm.job }

theorem skimRun_export {u : State} (hb : u.skm.busy = true) (hr : statReady u u.skm.job = true) (he : u.skm.doExport = true)
    (ha : u.skm.doAdvance = false) :
    (skimRun u).skm = { ((gradEnts u u.skm.job).foldl (fun v e => exportEnt e v) (entriesFrom u)).skm with doExport := false, doAdvance := false } ∧
      (skimRun u).mem = ((gradEnts u u.skm.job).foldl (fun v e => exportEnt e v) (entriesFrom u)).mem := by
  have hskip : ((gradEnts u u.skm.job).foldl (fun v e => exportEnt e v) (entriesFrom u)).skm.doAdvance = false := by
    rw [(foldl_ents exportEnt_entOnly _ _).1]
    exact ha
  unfold skimRun
  rw [if_neg (by simp [hb, hr])]
  extract_lets job work one two s2
  have hone : one { u with actJob := job } = (gradEnts u job).foldl (fun v e => exportEnt e v) (entriesFrom u) := if_pos he
  have htwo : two (one { u with actJob := job }) = one { u with actJob := job } := if_neg (by rw [hone, hskip]; decide)
  have hskm : s2.skm = (two (one { u with actJob := job })).skm := rfl
  have hmem : s2.mem = (two (one { u with actJob := job })).mem := rfl
  rw [htwo, hone] at hskm hmem
  exact ⟨congrArg (fun k : Skm => { k with doExport := false, doAdvance := false }) hskm, hmem⟩

theorem skimRun_advance {u : State} (hb : u.skm.busy = true) (hr : statReady u u.skm.job = true) (he : u.skm.doExport = false)
    (ha : u.skm.doAdvance = true) :
    (skimRun u).skm = { ((gradEnts u u.skm.job).foldl (fun v e => advanceEnt e v) (entriesFrom u)).skm with doExport := false, doAdvance := false } := by
  unfold skimRun
  rw [if_neg (by simp [hb, hr])]
  extract_lets job work one two s2
  have hone : one { u with actJob := job } = { u with actJob := job } := if_neg (by rw [he]; decide)
  have htwo : two (one { u with actJob := job }) = (gradEnts u job).foldl (fun v e => advanceEnt e v) (entriesFrom u) := by
    rw [hone]
    exact if_pos ha
  have hskm : s2.skm = (two (one { u with actJob := job })).skm := rfl
  rw [htwo] at hskm
  exact congrArg (fun k : Skm => { k with doExport := false, doAdvance := false }) hskm

/-- With no phase asked for nothing is performed. -/
theorem skimRun_idle {s : State} (he : s.skm.doExport = false) (ha : s.skm.doAdvance = false) :
    (skimRun s).skm = s.skm ∧ Keeps [.skm] s (skimRun s) := by
  have heta (k : Skm) (h1 : k.doExport = false) (h2 : k.doAdvance = false) : { k with doExport := false, doAdvance := false } = k := by
    cases k
    cases h1
    cases h2
    rfl
  unfold skimRun
  split
  · exact ⟨rfl, .refl⟩
  · extract_lets job work one two s2
    have hone : one { s with actJob := job } = { s with actJob := job } := if_neg (by rw [he]; decide)
    have htwo : two (one { s with actJob := job }) = { s with actJob := job } := by
      rw [hone]
      exact if_neg (by rw [ha]; decide)
    have hs2 : s2 = { two (one { s with actJob := job }) with actJob := s.actJob } := rfl
    rw [htwo] at hs2
    have hs : s2 = s := hs2
    clear_value s2
    subst hs
    exact ⟨heta _ he ha, Keeps.refl.set_skm _⟩

/-- What STEP_DONE makes of an entry: of those of the job's phases, what was delivered meanwhile joins what is pending (R142). -/
def folded (s : State) (_ : Nat) (x : SkimEnt) : SkimEnt :=
  if fld x.cfg 15 0 = s.skm.job ∧ (s.skm.adv = true ∨ bit x.cfg 18 = true) then { x with pend := x.pend.join x.next, next := {} } else x

/-- The state in which a write of STEP_CTL starts its phases. -/
def phasesBegun (v : Word) (s : State) : State :=
  { setReg skmPage 0x200 (word (fld v 15 0)) s with
    skm := { s.skm with busy := true, job := fld v 15 0, doExport := bit v 16, doAdvance := bit v 17, adv := bit v 17 } }

theorem stepCtlEffect_begins {v : Word} {s : State} (hb : s.skm.busy = false) (ht : takesWork s skmPage = true)
    (hv : bit v 16 = true ∨ bit v 17 = true)
    (hm : statMapped s = true ∨ bit v 16 = false ∧ ∀ e ∈ gradEnts s (fld v 15 0), bit (getEnt s e).cfg 18 = false) :
    stepCtlEffect v s = skimRun (phasesBegun v s) := by
  have hmapped : ((bit v 16 || (bit v 17 && (gradEnts s (fld v 15 0)).any (fun e => bit (getEnt s e).cfg 18))) && !statMapped s) = false := by
    obtain h | ⟨h16, h⟩ := hm
    · simp [h]
    · have hany : (gradEnts s (fld v 15 0)).any (fun e => bit (getEnt s e).cfg 18) = false :=
        List.any_eq_false.mpr fun e he => by simp [h e he]
      rw [h16, hany, Bool.and_false, Bool.or_false, Bool.false_and]
  unfold stepCtlEffect
  rw [if_neg (by simp [hb])]
  dsimp only
  rw [hmapped, if_neg (by decide), if_pos (by rw [ht]; simpa using hv)]
  rfl

theorem phasesBegun_access (v : Word) (s : State) : AccessSame s (phasesBegun v s) := by
  have hreg (p o : Nat) (h : regKey p o ≠ regKey skmPage 0x200) : getReg (phasesBegun v s) p o = getReg s p o :=
    getReg_setReg_ne h _ s
  refine ⟨rfl, rfl, rfl, rfl, fun p => hreg p 0x10 (regKey_ne_en (by decide) (by decide) _ _), ?_⟩
  rw [lpcCount, lpcCount, regFld, regFld, hreg _ _ (by decide)]

theorem statBase_phasesBegun (v : Word) (s : State) : statBase (phasesBegun v s) = statBase s := by
  rw [statBase, statBase, regFld, regFld]
  exact congrArg (fun w => fld w 49 6 * 64) (getReg_setReg_ne (by decide) _ s)

theorem statReady_phasesBegun (v : Word) (s : State) (job : Nat) : statReady (phasesBegun v s) job = statReady s job := by
  unfold statReady
  simp only [(phasesBegun_access v s).access, statBase_phasesBegun]
  rfl

theorem AccessSame.poisoned {s t : State} (h : AccessSame s t) (hp : t.poison = s.poison) (he : t.ecc = s.ecc) (hc : t.cw = s.cw) (line : Nat) :
    poisoned t line = poisoned s line := by
  have hin (m : Nat) : sliceIn t m = sliceIn s m := by rw [sliceIn, sliceIn, getBlk_congr h.blk]
  have hset : setOf t line = setOf s line := by
    rw [setOf, setOf, homeSlice, homeSlice, h.nextSlice, cacheGran, cacheGran, h.crm]
    simp only [hin]
  rw [Machine.poisoned, Machine.poisoned, eccFails, eccFails, cwFails, cwFails, sliceHolds, sliceHolds, cached, cached, hset, hp, he, hc]

theorem entriesFrom_poisoned (v : Word) (s : State) (line : Nat) : poisoned (entriesFrom (phasesBegun v s)) line = poisoned s line := by
  have h : AccessSame s (entriesFrom (phasesBegun v s)) :=
    ⟨rfl, rfl, rfl, rfl, (phasesBegun_access v s).en, (phasesBegun_access v s).count⟩
  exact h.poisoned rfl rfl rfl line

theorem recordIn_entriesFrom (v : Word) (s : State) (e : Nat) : recordIn (entriesFrom (phasesBegun v s)) e = recordIn s e := by
  have hbase : statBase (entriesFrom (phasesBegun v s)) = statBase s := statBase_phasesBegun v s
  unfold recordIn
  rw [hbase]
  rfl

theorem advances_entriesFrom (v : Word) (s : State) (e : Nat) : advances (entriesFrom (phasesBegun v s)) e ↔ advances s e := by
  have hbase : statBase (entriesFrom (phasesBegun v s)) = statBase s := statBase_phasesBegun v s
  unfold advances
  rw [hbase, entriesFrom_poisoned]
  rfl

/-- An entry as a write of ENTRY_CFG leaves it (R159). -/
def configured (v : Word) (x : SkimEnt) : SkimEnt :=
  let y : SkimEnt := { x with cfg := v, param := x.param &&& entryMask true (bit v 17), st := x.st &&& entryMask false (bit v 17) }
  if bit v 16 && !bit x.cfg 16 then { y with hist := [], pend := {} } else y

theorem configured_bits (v : Word) (x : SkimEnt) : (configured v x).cfg = v ∧
    (configured v x).param = x.param &&& entryMask true (bit v 17) ∧ (configured v x).st = x.st &&& entryMask false (bit v 17) := by
  unfold configured
  dsimp only
  split
  · exact ⟨rfl, rfl, rfl⟩
  · exact ⟨rfl, rfl, rfl⟩

theorem merge_set {v : Word} {i j : Nat} (hi : i < 64) (hij : j ≠ i) : bit (v ||| mask i i) i = true ∧ bit (v ||| mask i i) j = bit v j := by
  have hself := bit_mask i i i
  have hother := bit_mask i i j
  unfold bit at *
  rw [BitVec.getLsbD_or, BitVec.getLsbD_or, hself, hother]
  simp [hi]
  omega

theorem fld_or_mask {v : Word} {i hi lo : Nat} (h : hi < i) : fld (v ||| mask i i) hi lo = fld v hi lo := by
  refine fld_eq_of_bits fun j _ hj => ?_
  have hother := bit_mask i i j
  unfold bit at *
  rw [BitVec.getLsbD_or, hother]
  simp
  omega

/-- Settles O29: each phase runs entry by entry, every step in its own entry alone. -/
theorem skimMovesRecordsAndEntries : Obligations.SkimMovesRecordsAndEntries := by
  refine ⟨?exported, ?advance, ?done, ?config, ?configBusy, ?clear, ?test⟩
  case exported =>
    intro s who v ha hadv hb ht hm hr hnd
    obtain ⟨w, hw⟩ : ∃ w, w = v ||| mask 16 16 := ⟨_, rfl⟩
    obtain ⟨h16, h17⟩ : bit w 16 = true ∧ bit w 17 = false := by
      obtain ⟨h1, h2⟩ := merge_set (v := v) (i := 16) (j := 17) (by decide) (by decide)
      rw [hw]
      exact ⟨h1, h2.trans hadv⟩
    have hjob : fld w 15 0 = fld v 15 0 := hw ▸ fld_or_mask (by decide)
    have heff := stepCtlEffect_begins hb ht (.inl h16) (.inl hm)
    obtain ⟨hskm, hmem⟩ := skimRun_export (u := phasesBegun w s) rfl
      ((statReady_phasesBegun ..).trans (by show statReady s (fld w 15 0) = true; rw [hjob]; exact hr)) h16 h17
    have hents : gradEnts (phasesBegun w s) (phasesBegun w s).skm.job = gradEnts s (fld v 15 0) := congrArg (gradEnts s) hjob
    rw [hents] at hskm hmem
    obtain ⟨hfold, hother⟩ := foldl_ents exportEnt_entOnly (gradEnts s (fld v 15 0)) (entriesFrom (phasesBegun w s))
    have hent (e : Nat) : getEnt (skimRun (phasesBegun w s)) e =
        getEnt ((gradEnts s (fld v 15 0)).foldl (fun u d => exportEnt d u) (entriesFrom (phasesBegun w s))) e := by
      rw [getEnt, getEnt, hskm]
    have hexec : exec (.skimExport who v) s = .next (skimRun (phasesBegun w s)) :=
      congrArg Host.Outcome.next ((regGuard_admits ha).trans (by rw [← hw]; exact heff))
    refine ⟨_, hexec, ?_, ?_, fun e he hb => ⟨fun hinv i hi => ?_, ?_⟩,
      fun e he => ?_⟩
    · rw [hskm, hfold]
      rfl
    · rw [hskm, hfold]
      exact hjob
    · have hbase : statBase (entriesFrom (phasesBegun w s)) = statBase s := statBase_phasesBegun w s
      have hword := (foldl_export_mem hnd (u := entriesFrom (phasesBegun w s)) hinv).1 e he hb i hi
      rw [hbase, ← hmem] at hword
      exact hword
    · rw [hent]
      exact foldl_ents_own (new := fun x => { x with pend := {} }) (P := fun x => bit x.cfg 18 = true) exportEnt_entOnly
        (fun _ _ h => getEnt_exportEnt h) hnd he hb
    · rw [hent]
      exact hother e he
  case advance =>
    intro s who v ha hexp hb ht hm hr hnd
    obtain ⟨w, hw⟩ : ∃ w, w = v ||| mask 17 17 := ⟨_, rfl⟩
    obtain ⟨h17, h16⟩ : bit w 17 = true ∧ bit w 16 = false := by
      obtain ⟨h1, h2⟩ := merge_set (v := v) (i := 17) (j := 16) (by decide) (by decide)
      rw [hw]
      exact ⟨h1, h2.trans hexp⟩
    have hjob : fld w 15 0 = fld v 15 0 := hw ▸ fld_or_mask (by decide)
    have heff := stepCtlEffect_begins (v := w) hb ht (.inr h17) (hm.imp_right fun h => ⟨h16, hjob ▸ h⟩)
    have hskm := skimRun_advance (u := phasesBegun w s) rfl
      ((statReady_phasesBegun ..).trans (by show statReady s (fld w 15 0) = true; rw [hjob]; exact hr)) h16 h17
    have hents : gradEnts (phasesBegun w s) (phasesBegun w s).skm.job = gradEnts s (fld v 15 0) := congrArg (gradEnts s) hjob
    rw [hents] at hskm
    obtain ⟨hfold, hother⟩ := foldl_ents advanceEnt_entOnly (gradEnts s (fld v 15 0)) (entriesFrom (phasesBegun w s))
    have hent (e : Nat) : getEnt (skimRun (phasesBegun w s)) e =
        getEnt ((gradEnts s (fld v 15 0)).foldl (fun u d => advanceEnt d u) (entriesFrom (phasesBegun w s))) e := by
      rw [getEnt, getEnt, hskm]
    have hexec : exec (.skimAdvance who v) s = .next (skimRun (phasesBegun w s)) :=
      congrArg Host.Outcome.next ((regGuard_admits ha).trans (by rw [← hw]; exact heff))
    refine ⟨_, hexec, ?_, ?_, ?_, fun e he => ?_⟩
    · rw [hskm, hfold]
      rfl
    · intro e hone hsync hc hst hp hnf hmax
      have hin : recordIn (entriesFrom (phasesBegun w s)) e = recAt s (statBase s + 64 * e) := by
        rw [recordIn_entriesFrom]
        exact if_pos hsync
      have hstep := getEnt_advanceEnt ((advances_entriesFrom w s e).mpr ⟨hc, hst, fun _ => hp⟩) (by rw [hin]; exact hnf) (by rw [hin]; exact hmax)
      have hopen : opened (getEnt (entriesFrom (phasesBegun w s)) e) = getEnt s e := if_pos hsync
      rw [hin, hopen] at hstep
      rw [hent, hone, List.foldl_cons, List.foldl_nil, hstep]
      exact ⟨stepped_hist .., stepped_pend ..⟩
    · intro e he hsync hc hst hnf hmax
      have hsame : getEnt (entriesFrom (phasesBegun w s)) e = getEnt s e := rfl
      have hown := foldl_ents_own (P := PendingGoesOn) (new := fun x => stepped x.pend { x with pend := {} }) advanceEnt_entOnly
        getEnt_advanceEnt_pending hnd he (u := entriesFrom (phasesBegun w s))
      rw [hsame] at hown
      rw [hent, hown ⟨hsync, hc, hst, hnf, hmax⟩]
      exact ⟨stepped_hist .., stepped_pend .., stepped_cfg .., stepped_st ..⟩
    · rw [hent]
      exact hother e he
  case done =>
    intro s hb he ha
    obtain ⟨hskm, hkeep⟩ := skimRun_idle he ha
    have heff : stepDoneEffect s = intSet skmPage 1 { skimRun s with skm := { s.skm with busy := false, ents := mmap (folded s) s.skm.ents } } := by
      unfold stepDoneEffect
      rw [if_neg (by simp [hb])]
      dsimp only
      rw [hskm, if_neg (by simp [he, ha])]
      rfl
    have hdone : (stepDoneEffect s).skm = { s.skm with busy := false, ents := mmap (folded s) s.skm.ents } := by
      rw [heff]
      exact (intSet_keeps ..).1 .skm (by decide)
    refine ⟨_, rfl, ?_, ?_, fun e x hx => ?_, ?_⟩
    · rw [hdone]
    · rw [heff]
      exact bit_intSts_intSet _ _ _ (by decide)
    · rw [getEnt, hdone, mget, mget_mmap, hx]
      rfl
    · rw [heff]
      exact (((hkeep.mono (by decide) : Keeps [.out, .regs, .skm, .sys] _ _).set_skm _).step (intSet_keeps ..)).1
  case config =>
    intro s who v ha hb
    have heff : entryCfgEffect v s = setEnt (entSel s) (configured v (getEnt s (entSel s))) s := if_neg (by rw [hb]; decide)
    have hent : getEnt (setEnt (entSel s) (configured v (getEnt s (entSel s))) s) (entSel s) = configured v (getEnt s (entSel s)) :=
      (getEnt_setEnt ..).trans (if_pos rfl)
    obtain ⟨hcfg, hparam, hst⟩ := configured_bits v (getEnt s (entSel s))
    refine ⟨_, congrArg Host.Outcome.next ((regGuard_admits ha).trans heff), ?_, ?_, ?_, fun h1 h0 => ?_, fun h => ?_,
      fun e he => (setEnt_entOnly ..).ents e he, (setEnt_keeps ..).1⟩
    · rw [hent, hcfg]
    · rw [hent, hparam]
    · rw [hent, hst]
    · rw [hent, configured, if_pos (by rw [h1, h0]; decide)]
      exact ⟨rfl, rfl⟩
    · rw [hent, configured, if_neg (by obtain h | h := h <;> simp [h])]
      exact ⟨rfl, rfl⟩
  case configBusy =>
    intro s who v ha hb
    exact ⟨_, congrArg Host.Outcome.next ((regGuard_admits ha).trans (if_pos hb)), raisedAt_raise _ _ _ (by decide),
      ((raise_keeps ..).mono (by decide)).1⟩
  case clear =>
    intro s who v ha
    have hreg : regFld (storeReg chnPage 0x200 v s) chnPage 0x200 1 0 = fld v 1 0 :=
      regFld_storeReg (r := (fieldsAt chnPage 0x200).get (by decide)) (by decide) (by decide) v s
    have hk : Keeps [.regs, .layers] s (storeReg chnPage 0x200 v s) := (storeReg_keeps ..).mono (by decide)
    by_cases hv : bit v 2 = true
    · exact ⟨_, congrArg Host.Outcome.next ((regGuard_admits ha).trans (if_pos hv)), fun _ => rfl, fun h => absurd hv (by rw [h]; decide),
        hreg, (hk.set_layers []).1⟩
    · exact ⟨_, congrArg Host.Outcome.next ((regGuard_admits ha).trans (if_neg hv)), fun h => absurd h hv,
        fun _ => (storeReg_keeps ..).1 .layers (by decide), hreg, hk.1⟩
  case test =>
    intro s who v ha hv ht p r
    have hself : Keeps [.regs] s s := .refl
    refine ⟨_, congrArg Host.Outcome.next ((regGuard_admits ha).trans (if_pos ⟨hv, ht⟩)), ?_, ?_, ?_⟩
    · exact (getReg_setReg_ne (by decide) _ _).trans (getReg_setReg_same ..)
    · exact getReg_setReg_same ..
    · exact ((hself.step (setReg_keeps ..)).step (setReg_keeps ..)).1

end Sys2Proof.Machine
end

section
/-! SUPPORT. Power-up: the map-out table at a cold start, the slots that boot, the voltage table in use, and the chain up to the
running cores (R324, R325, R357, R370, R371, R406 to R413). -/

namespace Sys2Proof.Machine

variable {s t u : State}

/-! ### The slots of firmware -/

theorem slotGood_congr (h : t.sec = { t.sec with nor := s.sec.nor, fwSvn := s.sec.fwSvn }) (g slot : Nat) :
    slotGood t g slot = slotGood s g slot := by
  have hnor : t.sec.nor = s.sec.nor := by rw [h]
  have hsvn : t.sec.fwSvn = s.sec.fwSvn := by rw [h]
  have himage : imageOf t g slot = imageOf s g slot := by rw [imageOf, imageOf, hnor]
  have hword (i : Nat) : imgWord t g slot i = imgWord s g slot i := by rw [imgWord, imgWord, himage]
  have hlen : imageLen t g slot = imageLen s g slot := by rw [imageLen, imageLen, hword]
  unfold slotGood
  rw [imageBytes, imageBytes, imageSvn, imageSvn, himage, hlen, hword, hsvn]

/-- What decides which firmware starts is the same in both states: the images, the lowest security version, the active slots, and
the pending one. -/
structure BootSame (s t : State) : Prop where
  nor : t.sec.nor = s.sec.nor
  fwSvn : t.sec.fwSvn = s.sec.fwSvn
  active : t.sec.active = s.sec.active
  lastPend : t.sec.lastPend = s.sec.lastPend
  lastTrial : t.sec.lastTrial = s.sec.lastTrial
  vtRec : t.sec.vtRec = s.sec.vtRec

theorem BootSame.of_sec (h : t.sec = s.sec) : BootSame s t := by
  constructor <;> rw [h]

theorem BootSame.of_journalOnly (h : JournalOnly s t) : BootSame s t := by
  rw [JournalOnly] at h
  constructor <;> rw [h]

theorem BootSame.trans (h : BootSame s t) (k : BootSame t u) : BootSame s u :=
  ⟨k.nor.trans h.nor, k.fwSvn.trans h.fwSvn, k.active.trans h.active, k.lastPend.trans h.lastPend, k.lastTrial.trans h.lastTrial,
    k.vtRec.trans h.vtRec⟩

theorem BootSame.fwSlot (h : BootSame s t) (g : Nat) : fwSlot t g = fwSlot s g := by
  rw [Machine.fwSlot, Machine.fwSlot, h.active]

theorem bootable_congr (hn : t.sec.nor = s.sec.nor) (hv : t.sec.fwSvn = s.sec.fwSvn) (reads : Nat → Bool) (g slot : Nat) :
    bootable reads t g slot = bootable reads s g slot := by
  rw [bootable, bootable, slotGood_congr (s := s) (by rw [← hn, ← hv])]

theorem BootSame.bootable (h : BootSame s t) (reads : Nat → Bool) (g slot : Nat) :
    bootable reads t g slot = bootable reads s g slot := bootable_congr h.nor h.fwSvn reads g slot

theorem BootSame.vtInUse (h : BootSame s t) : vtInUse t = vtInUse s := by
  rw [Machine.vtInUse, Machine.vtInUse, h.vtRec]

theorem fwSlot_lt_two (s : State) (g : Nat) : fwSlot s g < 2 := Nat.mod_lt _ (by decide)

/-- The other slot made the active one. -/
theorem fwSlot_turned (g a : Nat) : (a - a / 2 ^ g % 2 * 2 ^ g + (1 - a / 2 ^ g % 2) * 2 ^ g) / 2 ^ g % 2 = 1 - a / 2 ^ g % 2 := by
  refine Eq.trans ?_ (turned_bit a g)
  have hle : a / 2 ^ g % 2 * 2 ^ g ≤ a := (Nat.mul_le_mul_right _ (Nat.mod_le _ _)).trans (Nat.div_mul_le_self ..)
  obtain h | h : a / 2 ^ g % 2 = 0 ∨ a / 2 ^ g % 2 = 1 := by omega
  · rw [h]
    congr 2
    omega
  · rw [h] at hle ⊢
    congr 2
    omega

theorem bootGroup_active {reads : Nat → Bool} {g : Nat} (h : bootable reads s g (fwSlot s g) = true) : bootGroup reads g s = some s :=
  if_pos h

theorem bootGroup_none {reads : Nat → Bool} {g : Nat} (h : bootable reads s g (fwSlot s g) = false)
    (h2 : bootable reads s g (1 - fwSlot s g) = false) : bootGroup reads g s = none := by
  unfold bootGroup
  dsimp only
  rw [h, h2]
  rfl

/-- A group whose active slot cannot be booted boots the other one, which is the active one then. -/
theorem bootGroup_other {reads : Nat → Bool} {g : Nat} (h : bootable reads s g (fwSlot s g) = false)
    (h2 : bootable reads s g (1 - fwSlot s g) = true) : ∃ v, bootGroup reads g s = some v ∧ Keeps [.rel, .sec] s v ∧
      fwSlot v g = 1 - fwSlot s g ∧ v.sec.lastPend = s.sec.lastPend ∧ v.sec.lastTrial = s.sec.lastTrial := by
  have hself : Keeps [.rel, .sec] s s := .refl
  have hsec := journal_journalOnly 8 (setSlotOf g (1 - fwSlot s g) s)
  rw [JournalOnly] at hsec
  refine ⟨bootSwitch g (fwSlot s g) false (journal 8 (setSlotOf g (1 - fwSlot s g) s)), ?_, ?_, ?_, ?_, ?_⟩
  · unfold bootGroup
    dsimp only
    rw [h, h2]
    rfl
  · exact ((hself.set_sec _).step (journal_keeps ..)).step (bootSwitch_keeps ..)
  · show (journal 8 (setSlotOf g (1 - fwSlot s g) s)).sec.active / 2 ^ g % 2 = _
    rw [hsec]
    exact fwSlot_turned ..
  · show (journal 8 (setSlotOf g (1 - fwSlot s g) s)).sec.lastPend = _
    rw [hsec]
    rfl
  · show (journal 8 (setSlotOf g (1 - fwSlot s g) s)).sec.lastTrial = _
    rw [hsec]
    rfl

/-! ### The map-out table at a cold start -/

/-- Blocks and cores that are mapped out stay so. -/
structure OutStays (s t : State) : Prop where
  blk : ∀ p, (getBlk s p).mappedOut = true → (getBlk t p).mappedOut = true
  cores : ∀ i, s.sys.coresOut.testBit i = true → t.sys.coresOut.testBit i = true
  sys : t.sys = { s.sys with coresOut := t.sys.coresOut }

theorem OutStays.refl : OutStays s s := ⟨fun _ h => h, fun _ h => h, rfl⟩

theorem OutStays.trans (h : OutStays s t) (k : OutStays t u) : OutStays s u :=
  ⟨fun p hp => k.blk p (h.blk p hp), fun i hi => k.cores i (h.cores i hi), by rw [k.sys, h.sys]⟩

theorem OutStays.of_same (hb : t.blk = s.blk) (hs : t.sys = s.sys) : OutStays s t :=
  ⟨fun p h => (congrArg Blk.mappedOut (getBlk_congr hb p)).trans h, fun i h => by rw [hs]; exact h, by rw [hs]⟩

theorem mapOut_outStays (page : Nat) (s : State) : OutStays s (setBlk page { getBlk s page with mappedOut := true } s) := by
  refine ⟨fun p h => ?_, fun _ h => h, rfl⟩
  rw [getBlk_setBlk]
  split
  · rfl
  · exact h

theorem rehomeStart_outStays {n : Nat} (h : rehomeStart n false s = some t) : OutStays s t := by
  have hblk (ns : List Nat) (v : State) : (dropTags ns v).blk = v.blk := (dropTags_keeps ..).1 .blk (by decide)
  have hsys (ns : List Nat) (v : State) : (dropTags ns v).sys = v.sys := (dropTags_keeps ..).1 .sys (by decide)
  unfold rehomeStart at h
  extract_lets gs src s1 kept hs new s2 s3 crm at h
  split at h
  · cases h
  · cases h
    exact (mapOut_outStays (pageOf .crm n 0) s).trans (.of_same (hblk (n :: new) s1) (hsys (n :: new) s1))

theorem applyEntry_outStays (s : State) (m : MapEnt) : OutStays s (applyEntry s m) := by
  unfold applyEntry
  split
  · exact mapOut_outStays ..
  split
  · cases h : rehomeStart m.inst false s with
    | none => exact .refl
    | some u => exact rehomeStart_outStays h
  split
  · have hk := pcReplace_keeps m.inst m.unit (some m.spare) false s
    cases h : pcReplace m.inst m.unit (some m.spare) false s with
    | none => exact .refl
    | some u =>
      rw [h] at hk
      exact .of_same (hk.1 .blk (by decide)) (hk.1 .sys (by decide))
  split
  · exact ⟨fun _ h => h, fun i h => by simp [h], rfl⟩
  · exact .refl

theorem applyEntry_block {m : MapEnt} (h : m.code ∈ [0x10, 0x11, 0x20]) :
    (getBlk (applyEntry s m) (codePage m.code m.inst)).mappedOut = true := by
  unfold applyEntry
  rw [if_pos (by simpa using h), getBlk_setBlk, if_pos rfl]

theorem applyEntry_core {m : MapEnt} (h : m.code = 1) : (applyEntry s m).sys.coresOut.testBit m.unit = true := by
  unfold applyEntry
  simp [h]

theorem foldl_applyEntry (l : List MapEnt) (s : State) : OutStays s (l.foldl applyEntry s) ∧
    (∀ m ∈ l, m.code ∈ [0x10, 0x11, 0x20] → (getBlk (l.foldl applyEntry s) (codePage m.code m.inst)).mappedOut = true) ∧
    (∀ m ∈ l, m.code = 1 → (l.foldl applyEntry s).sys.coresOut.testBit m.unit = true) := by
  induction l generalizing s with
  | nil => exact ⟨.refl, fun _ h => (List.not_mem_nil h).elim, fun _ h => (List.not_mem_nil h).elim⟩
  | cons d l ih =>
    obtain ⟨hstay, hblocks, hcores⟩ := ih (applyEntry s d)
    refine ⟨(applyEntry_outStays s d).trans hstay, fun m hm h => ?_, fun m hm h => ?_⟩
    · obtain rfl | hm := List.mem_cons.mp hm
      · exact hstay.blk _ (applyEntry_block h)
      · exact hblocks m hm h
    · obtain rfl | hm := List.mem_cons.mp hm
      · exact hstay.cores _ (applyEntry_core h)
      · exact hcores m hm h

theorem filterMap_getElem?_range {α : Type} (l : List α) : (List.range l.length).filterMap (fun i => l[i]?) = l := by
  induction l with
  | nil => rfl
  | cons x l ih => simpa [List.range_succ_eq_map, List.filterMap_map, Function.comp_def] using ih

theorem keptEntries_of_none (h : s.sec.undo.isEmpty = true) : keptEntries s = s.rel.mapTab := by
  have hnil : s.sec.undo = [] := List.isEmpty_iff.mp h
  unfold keptEntries
  rw [hnil]
  simpa using filterMap_getElem?_range s.rel.mapTab

/-- The map-out table that applies at a cold start is that of the entries kept, and nothing of what boots changes. -/
theorem applyMapTab_spec (s : State) : (applyMapTab s).rel.mapTab = keptEntries s ∧ BootSame s (applyMapTab s) ∧
    (applyMapTab s).sys = { s.sys with coresOut := (applyMapTab s).sys.coresOut } ∧
    (∀ m ∈ keptEntries s, m.code ∈ [0x10, 0x11, 0x20] → (getBlk (applyMapTab s) (codePage m.code m.inst)).mappedOut = true) ∧
    (∀ m ∈ keptEntries s, m.code = 1 → (applyMapTab s).sys.coresOut.testBit m.unit = true) := by
  obtain ⟨s2, hs2, htab, hboot, hsys⟩ : ∃ s2, applyMapTab s = (keptEntries s).foldl applyEntry s2 ∧ s2.rel.mapTab = keptEntries s ∧
      BootSame s s2 ∧ s2.sys = s.sys := by
    refine ⟨_, rfl, ?_, ?_, ?_⟩
    · split
      · next h => exact (keptEntries_of_none h).symm
      · rw [(journal_keeps ..).1 .rel (by decide)]
        rfl
    · split
      · exact .of_sec rfl
      · exact BootSame.trans (t := { s with rel := { s.rel with mapTab := keptEntries s }, sec := { s.sec with undo := [] } })
          ⟨rfl, rfl, rfl, rfl, rfl, rfl⟩ (.of_journalOnly (journal_journalOnly ..))
    · split
      · rfl
      · exact (journal_keeps ..).1 .sys (by decide)
  obtain ⟨hstay, hblocks, hcores⟩ := foldl_applyEntry (keptEntries s) s2
  have hkeep : Keeps [.blk, .crm, .hbm, .cw, .lpc, .lnk, .sys] s2 ((keptEntries s).foldl applyEntry s2) :=
    Keeps.foldl .refl fun _ _ h => h.step (applyEntry_keeps ..)
  rw [hs2]
  refine ⟨?_, hboot.trans (.of_sec (hkeep.1 .sec (by decide))), ?_, hblocks, hcores⟩
  · rw [hkeep.1 .rel (by decide), htab]
  · rw [hstay.sys, hsys]

/-! ### The voltage table in use -/

theorem toSigned16_le (n : Nat) : toSigned 16 n ≤ 32767 := by
  unfold toSigned
  split <;> omega

theorem setTrim_trim {v : Int} (hv : v ≤ 32767) (s : State) : (setTrim v s).clk.trim = max (-32767) v := by
  have hmin : min 32767 v = v := min_eq_right hv
  unfold setTrim
  dsimp only
  rw [hmin]
  split
  · rw [(raise_keeps ..).1 .clk (by decide)]
  · rfl

theorem takeVt_irqOnly (s : State) : IrqOnly s (takeVt s) := by
  unfold takeVt
  split
  · exact (setTrim_irqOnly ..).of_sys rfl
  · exact ((setTrim_irqOnly ..).trans (raise_irqOnly ..)).of_sys rfl

theorem takeVt_sec (s : State) : (takeVt s).sec = { s.sec with vtUse := (takeVt s).sec.vtUse } := by
  have htrim (v : Int) (u : State) : (setTrim v u).sec = u.sec := (setTrim_keeps ..).1 .sec (by decide)
  unfold takeVt
  split
  · rw [htrim]
  · rw [(raise_keeps ..).1 .sec (by decide), htrim]

/-- Without a valid table the lowest clocks run, and the error is raised. -/
theorem takeVt_none (h : vtInUse s = none) : (takeVt s).pwr.mclk = 1000 ∧ (takeVt s).pwr.fclk = 1200 ∧ (takeVt s).pwr.vt = none ∧
    (takeVt s).sec.vtUse = none ∧ bit (getReg (takeVt s) pwr0 0x20) 15 = true := by
  have htrim (v : Int) (u : State) : (setTrim v u).sec = u.sec ∧ (setTrim v u).pwr = u.pwr :=
    ⟨(setTrim_keeps ..).1 .sec (by decide), (setTrim_keeps ..).1 .pwr (by decide)⟩
  unfold takeVt
  rw [h]
  dsimp only
  rw [(raise_keeps ..).1 .sec (by decide), (raise_keeps ..).1 .pwr (by decide), (htrim ..).1, (htrim ..).2]
  exact ⟨rfl, rfl, rfl, rfl, (raisedAt_raise _ _ _ (by decide)).1⟩

theorem takeVt_some {r : List Byte} (h : vtInUse s = some r) : (takeVt s).pwr.vt = some (vtSeq r) ∧ (takeVt s).sec.vtUse = some (vtSeq r) ∧
    (takeVt s).pwr.fclk = 2400 ∧ (takeVt s).clk.trim = max (-32767) (toSigned 16 (leNat ((r.drop 16).take 2))) := by
  have htrim (v : Int) (u : State) : (setTrim v u).sec = u.sec ∧ (setTrim v u).pwr = u.pwr :=
    ⟨(setTrim_keeps ..).1 .sec (by decide), (setTrim_keeps ..).1 .pwr (by decide)⟩
  unfold takeVt
  rw [h]
  dsimp only
  rw [(htrim ..).1, (htrim ..).2, setTrim_trim (toSigned16_le _)]
  exact ⟨rfl, rfl, rfl, rfl⟩

/-! ### Cold reset -/

theorem coldState_sys (s : State) : (coldState s).sys = { high := s.sys.high } := by
  unfold coldState
  dsimp only
  split
  · rfl
  · rfl

/-- A cold reset leaves what the journal's replay gives (R385, R409). -/
theorem coldState_store (s : State) : (coldState s).rel.mapTab = (replay s.sec).1.mapTab ∧
    (coldState s).rel.faultLog = (replay s.sec).1.faultLog ∧ (coldState s).sec = coldSec s.sec := by
  unfold coldState
  dsimp only
  split
  · exact ⟨rfl, rfl, rfl⟩
  · exact ⟨rfl, rfl, rfl⟩

/-! ### The start of the Last -/

/-- The device as the rise of RESET_N finds it, with the slot sampled. -/
def riseSampled (slot : Nat) (romOk : Bool) (reads : BitVec 2) (s : State) : State :=
  { s with sys := { s.sys with high := some (slot, romOk, reads), slot := slot, released := true, phase := 1 } }

/-- The state in which the Last runs from the slot that boots, in state `s`. -/
def lastStarted (s : State) : State :=
  let t := takeVt { s with sys := { s.sys with lastUp := true, phase := 2 } }
  { t with sec := { t.sec with calOk := (newestRec Config.calMagic (Config.calRecord :: t.sec.calRec.toList)).isSome } }

theorem resetRelease_bad {id0 id1 id2 shaOk rsaOk : Bool} {reads : BitVec 2} (h : resetRises s) (hrom : shaOk = false ∨ rsaOk = false) :
    exec (.resetRelease id0 id1 id2 shaOk rsaOk reads) s = .next { riseSampled (slotId id0 id1 id2) (shaOk && rsaOk) reads s with
      sys := { (riseSampled (slotId id0 id1 id2) (shaOk && rsaOk) reads s).sys with phase := 14, fault := true } } := by
  obtain ⟨hp, hr, hh⟩ := h
  refine congrArg Host.Outcome.next ((if_neg (by simp [hh, hr])).trans ((if_pos hp).trans (if_pos ?_)))
  obtain h | h := hrom <;> simp [h]

theorem startUp_good (slot : Nat) (reads : BitVec 2) (s : State) : startUp slot true reads s =
    match bootLast (reads.getLsbD ·) (applyMapTab { s with sys := { s.sys with slot := slot, released := true, phase := 1 } }) with
      | none => applyMapTab { s with sys := { s.sys with slot := slot, released := true, phase := 1 } }
      | some t => lastStarted t := by
  unfold startUp
  dsimp only
  rw [if_neg (by decide)] <;> rfl

theorem resetRelease_good {id0 id1 id2 : Bool} {reads : BitVec 2} (h : resetRises s) :
    exec (.resetRelease id0 id1 id2 true true reads) s =
      .next (match bootLast (reads.getLsbD ·) (applyMapTab (riseSampled (slotId id0 id1 id2) true reads s)) with
        | none => applyMapTab (riseSampled (slotId id0 id1 id2) true reads s)
        | some t => lastStarted t) := by
  obtain ⟨hp, hr, hh⟩ := h
  exact congrArg Host.Outcome.next ((if_neg (by simp [hh, hr])).trans ((if_pos hp).trans (startUp_good ..)))

theorem bootLast_kept {reads : Nat → Bool} (h : s.sec.lastPend = false) :
    bootLast reads s = bootGroup reads 5 { s with sec := { s.sec with lastTrial := false } } := by
  unfold bootLast
  dsimp only
  rw [h]
  rfl

/-- A pending slot is the active one before the group boots, and on trial, or put back. -/
theorem bootLast_pending {reads : Nat → Bool} (h : s.sec.lastPend = true) : ∃ v,
    bootLast reads s = (match bootGroup reads 5 v with
      | none => none
      | some t => some (if fwSlot t 5 = 1 - fwSlot s 5 then t else { t with sec := { t.sec with lastTrial := false } })) ∧
    fwSlot v 5 = 1 - fwSlot s 5 ∧ v.sec.lastPend = false ∧ v.sec.lastTrial = (!s.sec.lastTrial) ∧ v.sec.nor = s.sec.nor ∧
    v.sec.fwSvn = s.sec.fwSvn := by
  obtain ⟨a, ha⟩ : ∃ a, a = journal 8 (setSlotOf 5 (1 - fwSlot s 5)
    { s with sec := { s.sec with lastPend := false, lastTrial := !s.sec.lastTrial } }) := ⟨_, rfl⟩
  have hsec := journal_journalOnly 8 (setSlotOf 5 (1 - fwSlot s 5)
    { s with sec := { s.sec with lastPend := false, lastTrial := !s.sec.lastTrial } })
  rw [← ha, JournalOnly] at hsec
  have hswitch : (if s.sec.lastTrial then bootSwitch 5 (fwSlot s 5) true a else a).sec = a.sec := by
    split
    · rfl
    · rfl
  refine ⟨if s.sec.lastTrial then bootSwitch 5 (fwSlot s 5) true a else a, ?_, ?_, ?_, ?_, ?_, ?_⟩
  · unfold bootLast
    dsimp only
    rw [if_pos h, ha] <;> rfl
  · rw [fwSlot, hswitch, hsec]
    exact fwSlot_turned ..
  all_goals
    rw [hswitch, hsec]
    rfl

/-- The Last's start keeps the slot that boots, and whether it is pending or on trial. -/
theorem lastStarted_spec (s : State) : (lastStarted s).sys.phase = 2 ∧ (lastStarted s).sys.lastUp = true ∧
    (lastStarted s).sys.slot = s.sys.slot ∧ (lastStarted s).sys.released = s.sys.released ∧
    (lastStarted s).sys.coresOut = s.sys.coresOut ∧ (∀ g, fwSlot (lastStarted s) g = fwSlot s g) ∧
    (lastStarted s).sec.lastPend = s.sec.lastPend ∧ (lastStarted s).sec.lastTrial = s.sec.lastTrial ∧
    (lastStarted s).rel = s.rel ∧ (lastStarted s).blk = s.blk := by
  have hirq := takeVt_irqOnly { s with sys := { s.sys with lastUp := true, phase := 2 } }
  have hsec := takeVt_sec { s with sys := { s.sys with lastUp := true, phase := 2 } }
  have hk := takeVt_keeps { s with sys := { s.sys with lastUp := true, phase := 2 } }
  have hsys : (lastStarted s).sys = (takeVt { s with sys := { s.sys with lastUp := true, phase := 2 } }).sys := rfl
  rw [IrqOnly] at hirq
  rw [hirq] at hsys
  refine ⟨?_, ?_, ?_, ?_, ?_, fun g => ?_, ?_, ?_, hk.1 .rel (by decide), hk.1 .blk (by decide)⟩
  · rw [hsys]
  · rw [hsys]
  · rw [hsys]
  · rw [hsys]
  · rw [hsys]
  · show (takeVt { s with sys := { s.sys with lastUp := true, phase := 2 } }).sec.active / 2 ^ g % 2 = _
    rw [hsec]
    rfl
  · show (takeVt { s with sys := { s.sys with lastUp := true, phase := 2 } }).sec.lastPend = _
    rw [hsec]
  · show (takeVt { s with sys := { s.sys with lastUp := true, phase := 2 } }).sec.lastTrial = _
    rw [hsec]

/-! ### INIT asked for of every stack -/

/-- The state of a stack that INIT is asked of: it trains where its controller answers and the stack is OFF. -/
def initAsked (s : State) (n : Nat) : Nat :=
  if enAck s (hp n 0) = true ∧ (getHbm s n).state = 0 then 1 else (getHbm s n).state

/-- From `s` to `t` controller `n` alone is another. -/
structure HbmOnly (n : Nat) (s t : State) : Prop where
  hbm : ∀ m, m ≠ n → getHbm t m = getHbm s m
  blk : t.blk = s.blk
  en : ∀ p, getReg t p 0x10 = getReg s p 0x10
  lnk : t.lnk = s.lnk

theorem hbmRequest_init_only (n : Nat) (s : State) :
    HbmOnly n s (hbmRequest n 1 s) ∧ (getHbm (hbmRequest n 1 s) n).state = initAsked s n := by
  unfold initAsked
  by_cases h : enAck s (hp n 0) = true ∧ (getHbm s n).state = 0
  · rw [hbmRequest_init h.1 h.2, if_pos h]
    refine ⟨⟨fun m hm => getHbm_hbmEntered_other hm, rfl, fun p => getReg_setReg_ne (regKey_ne_en (by decide) (by decide) _ _) _ _, rfl⟩, ?_⟩
    rw [getHbm_hbmEntered, if_pos rfl]
  · have hno : enAck s (hp n 0) = false ∨ (getHbm s n).state ≠ 0 := by
      rw [not_and_or, Bool.not_eq_true] at h
      exact h
    have hk := raise_keeps (hp n 0) 8 0x200 s
    have hhbm (m : Nat) : getHbm (raise (hp n 0) 8 0x200 s) m = getHbm s m := by rw [getHbm, getHbm, hk.1 .hbm (by decide)]
    rw [hbmRequest_init_refused hno, if_neg h, hhbm]
    refine ⟨⟨fun m _ => hhbm m, hk.1 .blk (by decide), fun p => ?_, hk.1 .lnk (by decide)⟩, rfl⟩
    have hne (x : Nat) (hx : x / 8 ≠ 2) (hx' : x < 65536) := regKey_ne_en hx hx' p (hp n 0)
    rw [getReg_raise, if_neg (hne 0x20 (by decide) (by decide)), if_neg (hne 0x38 (by decide) (by decide)),
      if_neg (c := _ ∧ _) fun h => hne 0x30 (by decide) (by decide) h.1, ite_self]

theorem HbmOnly.enAck {n m : Nat} (h : HbmOnly n s t) (hm : m < 8) (hne : m ≠ n) : enAck t (hp m 0) = enAck s (hp m 0) := by
  have hwork : work t (hp m 0) = work s (hp m 0) := by
    have howner : pageOwner (hp m 0) = some (.hbm, m, 0) := by interval_cases m <;> decide
    unfold work
    rw [howner]
    dsimp only
    rw [h.hbm m hne, h.lnk]
  rw [Machine.enAck, Machine.enAck, hwork, getBlk_congr h.blk, enabled, enabled, regBit, regBit, h.en]

theorem HbmOnly.initAsked {n m : Nat} (h : HbmOnly n s t) (hm : m < 8) (hne : m ≠ n) : initAsked t m = initAsked s m := by
  rw [Machine.initAsked, Machine.initAsked, h.enAck hm hne, h.hbm m hne]

theorem foldl_init {l : List Nat} (hl : l.Nodup) (s : State) :
    (∀ n ∈ l, n < 8 → (getHbm (l.foldl (fun u m => hbmRequest m 1 u) s) n).state = initAsked s n) ∧
    (∀ n, n ∉ l → getHbm (l.foldl (fun u m => hbmRequest m 1 u) s) n = getHbm s n) := by
  induction l generalizing s with
  | nil => exact ⟨fun _ h => (List.not_mem_nil h).elim, fun _ _ => rfl⟩
  | cons d l ih =>
    obtain ⟨hd, hl⟩ := List.nodup_cons.mp hl
    obtain ⟨hin, hout⟩ := ih hl (hbmRequest d 1 s)
    obtain ⟨honly, hstate⟩ := hbmRequest_init_only d s
    refine ⟨fun n hn h8 => ?_, fun n hn => ?_⟩
    · by_cases hnd : n = d
      · rw [hnd, List.foldl_cons, hout d hd, hstate]
      · exact (hin n ((List.mem_cons.mp hn).resolve_left hnd) h8).trans (honly.initAsked h8 hnd)
    · rw [List.mem_cons, not_or] at hn
      exact (hout n hn.2).trans (honly.hbm n hn.1)

/-- The Cobbler running in phase 4, as `s` has the slots, before it asks for INIT. -/
def cobblerBegun (s : State) : State :=
  { s with sys := { s.sys with phase := 4 }, rel := { s.rel with kickTick := s.tck.num } }

theorem cobblerRelease_boots {reads : Nat → Bool} (hp : s.sys.phase = 3) (hr : (getBlk s tckPage).ready = true)
    (hb : bootGroup reads 1 s = some t) :
    cobblerReleaseEffect reads s = (List.range 8).foldl (fun u n => hbmRequest n 1 u) (cobblerBegun t) := by
  unfold cobblerReleaseEffect
  rw [if_neg (by simp [hp, hr]), hb]
  rfl

theorem foldl_init_keeps (l : List Nat) (s : State) :
    Keeps [.out, .regs, .mem, .hbm, .sys, .free] s (l.foldl (fun u n => hbmRequest n 1 u) s) :=
  Keeps.foldl .refl fun _ _ h => h.step (hbmRequest_keeps ..)

theorem foldl_init_phase (l : List Nat) (s : State) : (l.foldl (fun u n => hbmRequest n 1 u) s).sys.phase = s.sys.phase := by
  induction l generalizing s with
  | nil => rfl
  | cons n l ih =>
    refine (ih _).trans ?_
    show (hbmRequest n 1 s).sys.phase = s.sys.phase
    by_cases h : Machine.enAck s (hp n 0) = true ∧ (getHbm s n).state = 0
    · rw [hbmRequest_init h.1 h.2]
      rfl
    · rw [hbmRequest_init_refused (by rw [not_and_or, Bool.not_eq_true] at h; exact h)]
      exact (raise_irqOnly ..).phase

/-! ### The Upper's image -/

/-- The cores that are not mapped out, as RUN names them. -/
def coresLeft (s : State) : Nat := (((List.range 16).filter (fun i => !s.sys.coresOut.testBit i)).map (2 ^ ·)).sum

theorem upperLoad_goes {entry : Nat} (ha : access s entry = .ok) (hl : access s (entry + ((imageBody s 0 (fwSlot s 0)).length - 1)) = .ok)
    (hw : winOf (entry + ((imageBody s 0 (fwSlot s 0)).length - 1)) = .hbm) :
    let v := setReg 0 0x210 (word (coresLeft s)) (setReg 0 0x220 (word entry) (wrBytes 2 entry (imageBody s 0 (fwSlot s 0)) s))
    upperLoad entry true s = { v with sys := { v.sys with phase := 6, cores := coresLeft s } } :=
  if_neg (by simp [ha, hl, hw])

theorem upperLoad_parts {entry : Nat} (ha : access s entry = .ok)
    (hl : access s (entry + ((imageBody s 0 (fwSlot s 0)).length - 1)) = .ok)
    (hw : winOf (entry + ((imageBody s 0 (fwSlot s 0)).length - 1)) = .hbm) :
    (upperLoad entry true s).mem = memStore s.mem entry (imageBody s 0 (fwSlot s 0)) ∧ (upperLoad entry true s).sec = s.sec ∧
    (upperLoad entry true s).sys.phase = 6 ∧ (upperLoad entry true s).sys.cores = coresLeft s ∧
    getReg (upperLoad entry true s) 0 0x220 = word entry ∧ getReg (upperLoad entry true s) 0 0x210 = word (coresLeft s) := by
  rw [upperLoad_goes ha hl hw]
  refine ⟨wrBytes_mem .., (wrBytes_counts ..).1 .sec (by decide), rfl, rfl, ?_, getReg_setReg_same ..⟩
  exact (getReg_setReg_ne (by decide) _ _).trans (getReg_setReg_same ..)

theorem upperLoad_waits {entry : Nat} {copied : Bool} (h : copied = false ∨ access s entry ≠ .ok ∨
    access s (entry + ((imageBody s 0 (fwSlot s 0)).length - 1)) ≠ .ok ∨ winOf (entry + ((imageBody s 0 (fwSlot s 0)).length - 1)) ≠ .hbm) :
    upperLoad entry copied s = s := if_pos h

/-- In phase 4 with every group booting from its active slot, and in phase 5, the image is loaded in phase 5. -/
theorem upperRelease_loads {reads : Nat → Nat → Bool} {entry : Nat} {copied : Bool} (hup : s.sys.lastUp = true)
    (h : s.sys.phase = 4 ∧ (∀ g ∈ [0, 2, 3, 4], bootable (reads g) s g (fwSlot s g) = true) ∨ s.sys.phase = 5) :
    upperReleaseEffect reads entry copied s = upperLoad entry copied { s with sys := { s.sys with phase := 5 } } := by
  unfold upperReleaseEffect
  rw [if_neg (by simp [hup])]
  obtain ⟨hp, hg⟩ | hp := h
  · have hboot (g : Nat) (hm : g ∈ [0, 2, 3, 4]) : bootGroup (reads g) g s = some s := bootGroup_active (hg g hm)
    rw [if_neg (by omega), if_neg (by omega)]
    simp only [List.foldl_cons, List.foldl_nil, hboot 2 (by decide), hboot 3 (by decide), hboot 4 (by decide), hboot 0 (by decide),
      Option.getD_some]
  · rw [if_pos hp, ← hp]

theorem high_of_not_rises (h : s.sys.high ≠ none ∨ s.sys.released = true) : s.sys.high.isSome = true ∨ s.sys.released = true :=
  h.imp_left Option.isSome_iff_ne_none.mpr

/-- Settles O52: the map-out table applies and keeps what boots, the slot that boots decides, and each later step has its own rule. -/
theorem bootChainReachesRunning : Obligations.BootChainReachesRunning := by
  refine ⟨?cold, ?short, ?unpowered, ?badRom, ?active, ?other, ?pending, ?again, ?early, ?cobbler, ?cobblerWaits, ?upper, ?upperOk, ?cores,
    ?appCore, ?timeout, ?noTimeout⟩
  case cold =>
    intro s low hlow hp v
    have heff : coldResetEffect low s = poweredState { s with sys := { s.sys with high := none } } := by
      unfold coldResetEffect
      rw [if_neg (by omega)]
      exact if_pos hp
    rw [poweredState_low rfl] at heff
    obtain ⟨htab, hlog, hsec⟩ := coldState_store { s with sys := { s.sys with high := none } }
    refine ⟨_, congrArg Host.Outcome.next heff, rfl, ?_, ?_, rfl, rfl, rfl, htab, ?_, ?_, ?_, hlog, ?_, ?_⟩
    · rw [coldState_sys]
    · rw [coldState_sys]
    all_goals rw [hsec]; rfl
  case short =>
    intro s low hlow
    exact congrArg Host.Outcome.next (if_pos hlow)
  case unpowered =>
    intro s low hlow hp
    exact congrArg Host.Outcome.next ((if_neg (by omega)).trans (if_neg (by simp [hp])))
  case badRom =>
    intro s id0 id1 id2 shaOk rsaOk reads h hrom
    exact ⟨_, resetRelease_bad h hrom, rfl, rfl, rfl, rfl, (Keeps.refl.set_sys _).1⟩
  case active =>
    intro s id0 id1 id2 reads h hpend hgood
    obtain ⟨htab, hboot, hsys, hblocks, hcores⟩ := applyMapTab_spec (riseSampled (slotId id0 id1 id2) true reads s)
    obtain ⟨b, hb⟩ : ∃ b, b = applyMapTab (riseSampled (slotId id0 id1 id2) true reads s) := ⟨_, rfl⟩
    rw [← hb] at htab hboot hsys hblocks hcores
    have hload : bootLast (reads.getLsbD ·) b = some { b with sec := { b.sec with lastTrial := false } } := by
      rw [bootLast_kept (hboot.lastPend.trans hpend)]
      refine bootGroup_active ?_
      show bootable _ _ 5 (fwSlot b 5) = true
      rw [hboot.fwSlot]
      exact (bootable_congr (s := s) hboot.nor hboot.fwSvn _ _ _).trans hgood
    have hexec := resetRelease_good (id0 := id0) (id1 := id1) (id2 := id2) (reads := reads) h
    rw [← hb, hload] at hexec
    obtain ⟨hphase, hup, hslot, hrel, hout, hfw, -, htrial, hrels, hblk⟩ := lastStarted_spec { b with sec := { b.sec with lastTrial := false } }
    have hvt : vtInUse { b with sec := { b.sec with lastTrial := false }, sys := { b.sys with lastUp := true, phase := 2 } } = vtInUse s :=
      congrArg (fun x : Option (List Byte) => newestRec 0x56544231 (Config.vtRecord :: x.toList)) hboot.vtRec
    refine ⟨_, hexec, ?_, ?_, hphase, hup, ?_, htrial, fun hv => ?_, fun r hv => ?_, ?_, fun m hm hcode => ?_, fun m hm hcode => ?_, ?_⟩
    · rw [hslot, hsys]
      rfl
    · rw [hrel, hsys]
      rfl
    · exact (hfw 5).trans (hboot.fwSlot 5)
    · exact takeVt_none (hvt.trans hv)
    · exact takeVt_some (hvt.trans hv)
    · rw [hrels]
      exact htab
    · rw [getBlk_congr hblk]
      exact hblocks m hm hcode
    · rw [hout]
      exact hcores m hm hcode
    · have hkeep := resetReleaseEffect_keeps (slotId id0 id1 id2) true reads s
      have heff : resetReleaseEffect (slotId id0 id1 id2) true reads s = lastStarted { b with sec := { b.sec with lastTrial := false } } := by
        injection hexec
      rw [heff] at hkeep
      exact hkeep.1
  case other =>
    intro s id0 id1 id2 reads h hpend good hbad
    obtain ⟨-, hboot, hsys, -, -⟩ := applyMapTab_spec (riseSampled (slotId id0 id1 id2) true reads s)
    obtain ⟨b, hb⟩ : ∃ b, b = applyMapTab (riseSampled (slotId id0 id1 id2) true reads s) := ⟨_, rfl⟩
    rw [← hb] at hboot hsys
    have hsame (slot : Nat) : bootable (reads.getLsbD ·) { b with sec := { b.sec with lastTrial := false } } 5 slot = good slot :=
      bootable_congr (s := s) hboot.nor hboot.fwSvn _ _ _
    have hcur : fwSlot { b with sec := { b.sec with lastTrial := false } } 5 = fwSlot s 5 := hboot.fwSlot 5
    have hexec := resetRelease_good (id0 := id0) (id1 := id1) (id2 := id2) (reads := reads) h
    rw [← hb, bootLast_kept (hboot.lastPend.trans hpend)] at hexec
    cases hg : good (1 - fwSlot s 5) with
    | true =>
      obtain ⟨v, hv, hk, hslot5, -⟩ := bootGroup_other (reads := (reads.getLsbD ·)) (g := 5)
        (s := { b with sec := { b.sec with lastTrial := false } }) (by rw [hcur, hsame]; exact hbad) (by rw [hcur, hsame]; exact hg)
      rw [hv] at hexec
      obtain ⟨hphase, hup, hslot, hrel, -, hfw, -⟩ := lastStarted_spec v
      have hvsys : v.sys = b.sys := hk.1 .sys (by decide)
      refine ⟨_, hexec, ?_, ?_, fun _ => ⟨hphase, hup, ?_⟩, nofun⟩
      · rw [hslot, hvsys, hsys]
        rfl
      · rw [hrel, hvsys, hsys]
        rfl
      · rw [hfw, hslot5, hcur]
    | false =>
      rw [bootGroup_none (by rw [hcur, hsame]; exact hbad) (by rw [hcur, hsame]; exact hg)] at hexec
      refine ⟨_, hexec, ?_, ?_, nofun, fun _ => ⟨?_, ?_⟩⟩
      all_goals
        rw [hsys]
        rfl
  case pending =>
    intro s id0 id1 id2 reads h hpend good
    obtain ⟨-, hboot, -, -, -⟩ := applyMapTab_spec (riseSampled (slotId id0 id1 id2) true reads s)
    obtain ⟨b, hb⟩ : ∃ b, b = applyMapTab (riseSampled (slotId id0 id1 id2) true reads s) := ⟨_, rfl⟩
    rw [← hb] at hboot
    obtain ⟨v, hload, hcur, hp, ht, hnor, hsvn⟩ := bootLast_pending (reads := (reads.getLsbD ·)) (hboot.lastPend.trans hpend)
    have hslot : fwSlot b 5 = fwSlot s 5 := hboot.fwSlot 5
    rw [hslot] at hload hcur
    have hsame (slot : Nat) : bootable (reads.getLsbD ·) v 5 slot = good slot :=
      bootable_congr (s := s) (hnor.trans hboot.nor) (hsvn.trans hboot.fwSvn) _ _ _
    have hlt := fwSlot_lt_two s 5
    have hback : 1 - (1 - fwSlot s 5) = fwSlot s 5 := by omega
    have hexec := resetRelease_good (id0 := id0) (id1 := id1) (id2 := id2) (reads := reads) h
    rw [← hb, hload] at hexec
    refine ⟨_, hexec, fun hg => ?_, fun hbad hg => ?_⟩
    · rw [bootGroup_active (by rw [hcur, hsame]; exact hg)]
      dsimp only
      rw [if_pos hcur]
      obtain ⟨hphase, -, -, -, -, hfw, hlp, hlt, -, -⟩ := lastStarted_spec v
      exact ⟨hphase, (hfw 5).trans hcur, hlp.trans hp, hlt.trans (ht.trans (congrArg (! ·) hboot.lastTrial))⟩
    · obtain ⟨w, hw, -, hwslot, hwp, -⟩ := bootGroup_other (reads := (reads.getLsbD ·)) (g := 5) (s := v) (by rw [hcur, hsame]; exact hbad)
        (by rw [hcur, hback, hsame]; exact hg)
      rw [hcur, hback] at hwslot
      rw [hw]
      dsimp only
      rw [if_neg (by omega)]
      obtain ⟨hphase, -, -, -, -, hfw, hlp, hlt, -, -⟩ := lastStarted_spec { w with sec := { w.sec with lastTrial := false } }
      exact ⟨hphase, (hfw 5).trans hwslot, hlp.trans (hwp.trans hp), hlt⟩
  case again =>
    intro s id0 id1 id2 shaOk rsaOk reads h
    exact congrArg Host.Outcome.next (if_pos (high_of_not_rises h))
  case early =>
    intro s id0 id1 id2 shaOk rsaOk reads hh hr hp
    exact congrArg Host.Outcome.next ((if_neg (by simp [hh, hr])).trans (if_neg (by simp [hp])))
  case cobbler =>
    intro s readA readB hp hr good hgood
    have hboot : ∃ v, bootGroup (fun k => if k = 0 then readA else readB) 1 s = some v ∧ Keeps [.rel, .sec] s v ∧
        (good (fwSlot s 1) = true → v = s) ∧ (good (fwSlot s 1) = false → fwSlot v 1 = 1 - fwSlot s 1) := by
      cases h : good (fwSlot s 1) with
      | true => exact ⟨s, bootGroup_active h, .refl, fun _ => rfl, nofun⟩
      | false =>
        have hother : good (1 - fwSlot s 1) = true := by
          obtain hs | hs : fwSlot s 1 = 0 ∨ fwSlot s 1 = 1 := by have := fwSlot_lt_two s 1; omega
          · rw [hs] at h ⊢
            exact hgood.resolve_left (by rw [h]; decide)
          · rw [hs] at h ⊢
            exact hgood.resolve_right (by rw [h]; decide)
        obtain ⟨v, hv, hk, hslot, -⟩ := bootGroup_other h hother
        exact ⟨v, hv, hk, nofun, fun _ => hslot⟩
    obtain ⟨v, hv, hk, hsame, hturned⟩ := hboot
    have heff := cobblerRelease_boots hp hr hv
    have hkeep := foldl_init_keeps (List.range 8) (cobblerBegun v)
    have honly : HbmOnly 8 s (cobblerBegun v) := ⟨fun m _ => by rw [getHbm, getHbm]; exact congrArg (fun x => mget x m _) (hk.1 .hbm (by decide)),
      hk.1 .blk (by decide), fun p => getReg_congr (hk.1 .regs (by decide)) _ _, hk.1 .lnk (by decide)⟩
    refine ⟨_, congrArg Host.Outcome.next heff, ?_, ?_, fun n hn => ?_, fun h => ?_, fun h => ?_⟩
    · exact foldl_init_phase ..
    · rw [hkeep.1 .rel (by decide)]
      exact congrArg Tck.num (hk.1 .tck (by decide))
    · rw [(foldl_init (List.nodup_range) (cobblerBegun v)).1 n (List.mem_range.mpr hn) hn, honly.initAsked hn (by omega)]
      rfl
    · rw [hkeep.1 .sec (by decide), hsame h]
      rfl
    · rw [fwSlot, hkeep.1 .sec (by decide)]
      exact hturned h
  case cobblerWaits =>
    intro s readA readB h
    refine congrArg Host.Outcome.next ?_
    unfold cobblerReleaseEffect
    split
    · rfl
    · next hgo =>
      rw [not_or] at hgo
      have hnone (k : Nat) (hk : k < 2) : bootable (fun k => if k = 0 then readA else readB) s 1 k = false := by
        obtain h | h | ⟨h0, h1⟩ := h
        · exact absurd h hgo.1
        · exact absurd h hgo.2
        · unfold bootable
          obtain rfl | rfl : k = 0 ∨ k = 1 := by omega
          · obtain h | h := h0 <;> simp [h]
          · obtain h | h := h1 <;> simp [h]
      have hlt := fwSlot_lt_two s 1
      rw [bootGroup_none (hnone _ hlt) (hnone _ (by omega))]
  case upper =>
    intro s readsA readsB entry copied hup hphase image last run
    have heff := upperRelease_loads (reads := fun g k => if k = 0 then readsA.getLsbD g else readsB.getLsbD g) (entry := entry.toNat)
      (copied := copied) hup hphase
    have hsame : AccessSame s { s with sys := { s.sys with phase := 5 } } := ⟨rfl, rfl, rfl, rfl, fun _ => rfl, rfl⟩
    refine ⟨fun hc ha hl hw => ?_, fun h => ?_⟩
    · subst hc
      obtain ⟨hmem, hsec, hphase, hcores, hentry, hrun⟩ := upperLoad_parts (s := { s with sys := { s.sys with phase := 5 } })
        (entry := entry.toNat) ((hsame.access _).trans ha) ((hsame.access _).trans hl) hw
      refine ⟨_, congrArg Host.Outcome.next heff, hphase, hcores, hentry, hrun, fun hinv i hi => ?_, fun hinv x hx => ?_, hsec⟩
      · rw [hmem, memGet_memStore hinv, if_pos ⟨Nat.le_add_right .., Nat.add_lt_add_left hi _⟩, Nat.add_sub_cancel_left]
        rfl
      · rw [hmem, memGet_memStore hinv, if_neg]
        have hlen : (imageBody { s with sys := { s.sys with phase := 5 } } 0 (fwSlot { s with sys := { s.sys with phase := 5 } } 0)).length =
          image.length := rfl
        omega
    · exact congrArg Host.Outcome.next (heff.trans (upperLoad_waits (by rw [hsame.access, hsame.access]; exact h)))
  case upperOk =>
    intro s who v ha
    refine congrArg Host.Outcome.next ((regGuard_admits ha).trans ?_)
    unfold bootStsEffect
    rw [if_neg (by simp [bit])]
    split
    · rfl
    · rfl
  case cores =>
    intro s who v ha hc run
    refine ⟨_, congrArg Host.Outcome.next ((regGuard_admits ha).trans (if_neg (by rw [hc]; decide))), rfl, getReg_setReg_same .., ?_⟩
    have hself : Keeps [.regs, .sys] s s := .refl
    exact ((hself.set_sys _).step (setReg_keeps ..)).1
  case appCore =>
    intro s n v ha
    refine ⟨_, congrArg Host.Outcome.next ((regGuard_admits ha).trans (if_pos rfl)), raisedAt_raise _ _ _ (by decide), ?_⟩
    have hirq := raise_irqOnly 0 3 0x210 s
    rw [IrqOnly] at hirq
    rw [hirq]
  case timeout =>
    intro s ht hp hup
    have heff : lastTimeoutEffect s = journal 8 { s with sec := { s.sec with lastPend := true } } := if_pos ⟨ht, hp, hup⟩
    have hsec := journal_journalOnly 8 { s with sec := { s.sec with lastPend := true } }
    rw [JournalOnly] at hsec
    have hself : Keeps [.sec] s s := .refl
    refine ⟨_, congrArg Host.Outcome.next heff, ?_, ?_, ((hself.set_sec _).step (journal_keeps ..)).1⟩
    · rw [hsec]
    · rw [hsec]
      exact ht
  case noTimeout =>
    intro s h
    refine congrArg Host.Outcome.next (if_neg ?_)
    rintro ⟨h1, h2, h3⟩
    obtain h | h | h := h
    · rw [h] at h1
      cases h1
    · rw [h] at h2
      cases h2
    · rw [h] at h3
      cases h3

end Sys2Proof.Machine
end

section
/-! SUPPORT. The Strainer's comparison, Awl packs, and tests in the field (R345 to R350). -/

namespace Sys2Proof.Machine

variable {s t u : State}

/-! ### A mismatch noted, and charged to its arrays -/

/-- What charging an array may change: the events, those that wait, and the steps to be discarded. -/
structure EventsOnly (s t : State) : Prop where
  rel : t.rel = { s.rel with events := t.rel.events, lateEvs := t.rel.lateEvs, discards := t.rel.discards }
  regs : t.regs = s.regs
  act : t.act = s.act

theorem EventsOnly.refl : EventsOnly s s := ⟨rfl, rfl, rfl⟩

theorem EventsOnly.trans (h : EventsOnly s t) (k : EventsOnly t u) : EventsOnly s u :=
  ⟨by rw [k.rel, h.rel], k.regs.trans h.regs, k.act.trans h.act⟩

theorem EventsOnly.ite {c : Prop} [Decidable c] (h : EventsOnly s t) : EventsOnly s (if c then t else s) := by
  split
  · exact h
  · exact .refl

theorem report_eventsOnly (page : Nat) (e : ErrEvent) (s : State) : EventsOnly s (report page e s) := .ite ⟨rfl, rfl, rfl⟩

theorem reportLate_eventsOnly (page : Nat) (e : ErrEvent) (s : State) : EventsOnly s (reportLate page e s) := .ite ⟨rfl, rfl, rfl⟩

theorem reportLate_events (page : Nat) (e : ErrEvent) (s : State) :
    (reportLate page e s).rel.events = s.rel.events ∧ (reportLate page e s).rel.discards = s.rel.discards := by
  unfold reportLate
  dsimp only
  split
  · exact ⟨rfl, rfl⟩
  · exact ⟨rfl, rfl⟩

theorem chargeArr_eventsOnly (n quad col job detail : Nat) (wait : Bool) (s : State) : EventsOnly s (chargeArr n quad col job detail wait s) := by
  unfold chargeArr
  dsimp only
  split
  · exact .refl
  split
  · exact reportLate_eventsOnly ..
  · exact report_eventsOnly ..

/-- The event of a charge that waits is not among the events yet. -/
theorem chargeArr_wait (n quad col job detail : Nat) (s : State) :
    (chargeArr n quad col job detail true s).rel.events = s.rel.events ∧
      (chargeArr n quad col job detail true s).rel.discards = s.rel.discards := by
  unfold chargeArr
  dsimp only
  split
  · exact ⟨rfl, rfl⟩
  · exact reportLate_events ..

/-- The Strainer tells the Cobbler of its mismatches. -/
def told (s : State) : Prop := regBit s stnPage 0x28 8 = false ∧ regFld s stnPage 0x48 1 0 = 1

/-- The event of a charge: SILENT, of the array's quadrant. -/
def isCharge (e : ErrEvent) (n quad job : Nat) : Prop :=
  e.cls = 2 ∧ e.code = 0x10 ∧ e.inst = n ∧ e.unit = quad ∧ e.kind = 6 ∧ e.job = job

theorem chargeArr_told (ht : told s) {n : Nat} (hn : n < 4) (quad col job detail : Nat) :
    ∃ e, isCharge e n quad job ∧ (chargeArr n quad col job detail false s).rel.events = s.rel.events ++ [e] ∧
      (chargeArr n quad col job detail false s).rel.discards = s.rel.discards := by
  obtain ⟨hmask, hroute⟩ := ht
  have hev : (mkEv (pageOf .arr n 0) 2 6).code = 0x10 ∧ (mkEv (pageOf .arr n 0) 2 6).inst = n := by interval_cases n <;> decide
  unfold chargeArr
  dsimp only
  rw [if_neg (by simp [hmask]), if_neg (by decide)]
  unfold report
  dsimp only
  rw [if_pos (.inl hroute)]
  refine ⟨_, ?_, rfl, rfl⟩
  exact ⟨rfl, hev.1, hev.2, rfl, rfl, rfl⟩

theorem told_congr (h : t.regs = s.regs) : told t ↔ told s := by
  rw [told, told, regBit, regBit, regFld, regFld, getReg_congr h, getReg_congr h]

/-- The charge of a mismatch to the sampled array and to the other one. -/
def chargeTile (c : Capture) (x : Recomp) (col detail : Nat) (sampled other wait : Bool) (s : State) : State :=
  let s4 := if sampled then chargeArr c.arr c.quad col c.job detail wait s else s
  if other then chargeArr x.arr x.quad col c.job detail wait s4 else s4

theorem chargeTile_eventsOnly (c : Capture) (x : Recomp) (col detail : Nat) (sampled other wait : Bool) (s : State) :
    EventsOnly s (chargeTile c x col detail sampled other wait s) :=
  (EventsOnly.ite (chargeArr_eventsOnly ..)).trans (.ite (chargeArr_eventsOnly ..))

theorem chargeTile_wait (c : Capture) (x : Recomp) (col detail : Nat) (sampled other : Bool) (s : State) :
    (chargeTile c x col detail sampled other true s).rel.events = s.rel.events ∧
      (chargeTile c x col detail sampled other true s).rel.discards = s.rel.discards := by
  have hone (b : Bool) (n quad col job detail : Nat) (u : State) :
      (if b then chargeArr n quad col job detail true u else u).rel.events = u.rel.events ∧
        (if b then chargeArr n quad col job detail true u else u).rel.discards = u.rel.discards := by
    cases b
    · exact ⟨rfl, rfl⟩
    · exact chargeArr_wait ..
  exact ⟨(hone ..).1.trans (hone ..).1, (hone ..).2.trans (hone ..).2⟩

/-- The job's step is to be discarded, if it is not known to be. -/
def discardFor (wait : Bool) (job : Nat) (s : State) : State :=
  if wait && !s.rel.discards.contains job then { s with rel := { s.rel with discards := s.rel.discards ++ [job] } } else s

theorem discardFor_eventsOnly (wait : Bool) (job : Nat) (s : State) : EventsOnly s (discardFor wait job s) := .ite ⟨rfl, rfl, rfl⟩

theorem discardFor_events (wait : Bool) (job : Nat) (s : State) : (discardFor wait job s).rel.events = s.rel.events := by
  unfold discardFor
  split
  · rfl
  · rfl

theorem mem_discardFor (job : Nat) (s : State) : job ∈ (discardFor true job s).rel.discards := by
  unfold discardFor
  split
  · exact List.mem_append_right _ (List.mem_singleton.mpr rfl)
  · next h => simpa using h

/-- The mismatch noted: the recompute is over, its capture is held, and the first failure stands in its register. -/
def mismatchNoted (cycles : Nat) (c : Capture) (x : Recomp) (col : Nat) (s : State) : State :=
  let s0 := countReg stnPage 0x220 (addAct 0 0 cycles { s with rel := { s.rel with checking := false, recomp := [] } })
  let s2 := intSet stnPage 8 (raise stnPage 8 0 (countReg stnPage 0x230 { s0 with rel := { s0.rel with capHeld := true } }))
  if regBit s2 stnPage 0x238 14 then s2 else
    setReg stnPage 0x238 (word (c.arr + c.quad * 4 + b2n c.quadMode * 16 + col * 32 + 2 ^ 14 + x.arr * 2 ^ 15 + tickLo s2 * 2 ^ 32)) s2

/-- A register of the Strainer that neither an error nor a count writes. -/
def untouchedByMismatch (o : Nat) : Prop := ∀ x ∈ [0x20, 0x30, 0x38, 0x220, 0x230], regKey stnPage o ≠ regKey stnPage x

theorem fld_word_low (a q m : Nat) (ha : a < 4) (hq : q < 4) : fld (word (a + q * 4 + m * 16)) 1 0 = a ∧ fld (word (a + q * 4 + m * 16)) 3 2 = q := by
  have h (n : Nat) : (word n).toNat = n % 2 ^ 64 := BitVec.toNat_ofNat ..
  unfold fld nfld
  rw [h]
  constructor <;> omega

theorem mismatchNoted_parts (cycles : Nat) (c : Capture) (x : Recomp) (col : Nat) (s : State) :
    (mismatchNoted cycles c x col s).rel = { s.rel with checking := false, recomp := [], capHeld := true } ∧
    mget (mismatchNoted cycles c x col s).act 0 0 = mget s.act 0 0 + cycles ∧
    bit (getReg (mismatchNoted cycles c x col s) stnPage 0x20) 8 = true ∧
    bit (getReg (mismatchNoted cycles c x col s) stnPage 0x38) 8 = true ∧
    (told (mismatchNoted cycles c x col s) ↔ told s) ∧
    (regBit s stnPage 0x238 14 = true → getReg (mismatchNoted cycles c x col s) stnPage 0x238 = getReg s stnPage 0x238) ∧
    (c.arr < 4 → c.quad < 4 → regBit s stnPage 0x238 14 = false →
      regFld (mismatchNoted cycles c x col s) stnPage 0x238 1 0 = c.arr ∧ regFld (mismatchNoted cycles c x col s) stnPage 0x238 3 2 = c.quad) := by
  unfold mismatchNoted
  extract_lets src s0 src0 s2
  have hcount (page off : Nat) (u : State) : Keeps [.regs] u (countReg page off u) := countReg_keeps ..
  have hrel : s2.rel = { s.rel with checking := false, recomp := [], capHeld := true } := by
    refine ((intSet_keeps ..).1 .rel (by decide)).trans (((raise_keeps ..).1 .rel (by decide)).trans ((hcount ..).1 .rel (by decide) |>.trans ?_))
    show { s0.rel with capHeld := true } = _
    rw [show s0.rel = { s.rel with checking := false, recomp := [] } from (hcount ..).1 .rel (by decide)]
  have hact : mget s2.act 0 0 = mget s.act 0 0 + cycles := by
    have h2 : s2.act = s0.act := ((intSet_keeps ..).1 .act (by decide)).trans (((raise_keeps ..).1 .act (by decide)).trans ((hcount ..).1 .act (by decide)))
    rw [h2, show s0.act = _ from (hcount ..).1 .act (by decide)]
    exact (mget_mput ..).trans (if_pos rfl)
  have hregs (o : Nat) (h : untouchedByMismatch o) : getReg s2 stnPage o = getReg s stnPage o := by
    have h20 := h 0x20 (by decide)
    have h30 := h 0x30 (by decide)
    have h38 := h 0x38 (by decide)
    have h220 := h 0x220 (by decide)
    have h230 := h 0x230 (by decide)
    refine (getReg_intSet ..).trans ((if_neg h38).trans ?_)
    rw [getReg_raise, if_neg h20, if_neg h38, if_neg (c := _ ∧ _) fun h => h30 h.1, ite_self]
    exact (getReg_setReg_ne h230 _ _).trans (getReg_setReg_ne h220 _ _)
  have h20 : bit (getReg s2 stnPage 0x20) 8 = true := by
    refine (congrArg (bit · 8) ((getReg_intSet ..).trans (if_neg (by decide)))).trans ?_
    exact (raisedAt_raise _ _ _ (by decide)).1
  have h38 : bit (getReg s2 stnPage 0x38) 8 = true := bit_intSts_intSet _ _ _ (by decide)
  have htold (u : State) (h : ∀ o, o = 0x28 ∨ o = 0x48 → getReg u stnPage o = getReg s stnPage o) : told u ↔ told s := by
    rw [told, told, regBit, regBit, regFld, regFld, h _ (.inl rfl), h _ (.inr rfl)]
  have hfree : untouchedByMismatch 0x28 ∧ untouchedByMismatch 0x48 ∧ untouchedByMismatch 0x238 := by
    unfold untouchedByMismatch
    decide
  obtain ⟨hf28, hf48, hf238⟩ := hfree
  have hfirst : regBit s2 stnPage 0x238 14 = regBit s stnPage 0x238 14 := congrArg (bit · 14) (hregs _ hf238)
  rw [hfirst]
  split
  · next hset =>
    refine ⟨hrel, hact, h20, h38, htold s2 ?_, fun _ => hregs _ hf238, fun _ _ h => absurd hset (by rw [h]; decide)⟩
    rintro o (rfl | rfl)
    · exact hregs _ hf28
    · exact hregs _ hf48
  · next hset =>
    refine ⟨hrel, hact, ?_, ?_, htold _ ?_, fun h => absurd h hset, fun ha hq _ => ?_⟩
    · rw [getReg_setReg_ne (by decide)]
      exact h20
    · rw [getReg_setReg_ne (by decide)]
      exact h38
    · rintro o (rfl | rfl)
      · exact (getReg_setReg_ne (by decide) _ _).trans (hregs _ hf28)
      · exact (getReg_setReg_ne (by decide) _ _).trans (hregs _ hf48)
    · have hlow := fld_word_low c.arr c.quad (b2n c.quadMode + col * 2 + 2 ^ 10 + x.arr * 2 ^ 11 + tickLo s2 * 2 ^ 28) ha hq
      rw [regFld, regFld, getReg_setReg_same, show c.arr + c.quad * 4 + b2n c.quadMode * 16 + col * 32 + 2 ^ 14 + x.arr * 2 ^ 15 + tickLo s2 * 2 ^ 32 =
        c.arr + c.quad * 4 + (b2n c.quadMode + col * 2 + 2 ^ 10 + x.arr * 2 ^ 11 + tickLo s2 * 2 ^ 28) * 16 from by omega]
      exact hlow

/-- A recompute that differs: the mismatch is noted, charged where the third computation leaves the blame, and the step discarded
where it still can be. -/
theorem tileEffect_differs {c : Capture} {x : Recomp} {more : List Recomp} {result : List F32} (hc : s.rel.capture = some c)
    (hx : s.rel.recomp = x :: more) (hk : s.rel.checking = true) (hm : (getBlk s (pageOf .arr x.arr 0)).mappedOut = false)
    (hd : ∃ i < c.sums.length, result.getD i 0 ≠ c.sums.getD i 0) (cycles arr3 status3 : Nat) (third : List F32) :
    ∃ col detail, tileEffect cycles 1 result arr3 status3 third s =
      let used := thirdArr s c x arr3 status3
      let withDel := (tileDiffs c third).isEmpty
      let withRec := (List.range c.sums.length).all (fun i => third.getD i 0 == result.getD i 0)
      let sampled := used.isNone || !withDel
      let wait := bit (getReg s stnPage 0x200) 9 && sampled
      discardFor wait c.job (chargeTile c x col detail sampled (used.isNone || withDel || !withRec) wait (mismatchNoted cycles c x col s)) := by
  obtain ⟨i, hi, hne⟩ := hd
  have hdiff : (tileDiffs c result).isEmpty = false := by
    rw [← Bool.not_eq_true, List.isEmpty_iff]
    intro h
    have hmem : i ∈ tileDiffs c result := List.mem_filter.mpr ⟨List.mem_range.mpr hi, by simpa using hne⟩
    rw [h] at hmem
    cases hmem
  refine ⟨(firstDiff c (tileDiffs c result)).1, tileDetail c result (tileDiffs c result) (firstDiff c (tileDiffs c result)).2 x.arr
    ((thirdArr s c x arr3 status3).getD 0xFF), ?_⟩
  unfold tileEffect
  rw [hc, hx]
  dsimp only
  rw [if_neg (by simp [hk]), if_neg (by simp [hm]), hdiff]
  rfl

/-- The charges of a mismatch leave what was noted of it. -/
theorem discardFor_noted (cycles : Nat) (c : Capture) (x : Recomp) (col detail job : Nat) (sampled other wait wait' : Bool) (s : State) :
    EventsOnly (mismatchNoted cycles c x col s) (discardFor wait' job (chargeTile c x col detail sampled other wait (mismatchNoted cycles c x col s))) :=
  (chargeTile_eventsOnly ..).trans (discardFor_eventsOnly ..)

theorem tileDiffs_isEmpty {c : Capture} {r : List F32} : (tileDiffs c r).isEmpty = true ↔ ∀ i < c.sums.length, r.getD i 0 = c.sums.getD i 0 := by
  rw [List.isEmpty_iff, tileDiffs, List.filter_eq_nil_iff]
  simp

theorem thirdArr_none {c : Capture} {x : Recomp} {arr3 status3 : Nat} (h : bit (getReg s stnPage 0x200) 10 = false ∨ status3 ≠ 1) :
    thirdArr s c x arr3 status3 = none := if_pos h

/-- A third array in service that is neither of the two computes the tile. -/
theorem thirdArr_some {c : Capture} {x : Recomp} {arr3 status3 : Nat} (hcfg : bit (getReg s stnPage 0x200) 10 = true) (hs : status3 = 1)
    (h4 : arr3 < 4) (hc : arr3 ≠ c.arr) (hx : arr3 ≠ x.arr) (hm : (getBlk s (pageOf .arr arr3 0)).mappedOut = false) :
    thirdArr s c x arr3 status3 = some arr3 := by
  unfold thirdArr otherArrays
  dsimp only
  rw [if_neg (by simp [hcfg, hs]), if_pos]
  simp [h4, hc, hx, hm]

/-! ### The state kept of a test -/

/-- The record is that of the test on the unit. -/
def isTest (e q pack test : Nat) (x : TestSt) : Bool := x.eng == e && x.quad == q && x.pack == pack && x.test == test

theorem isTest_iff {e q pack test : Nat} {x : TestSt} :
    isTest e q pack test x = true ↔ x.eng = e ∧ x.quad = q ∧ x.pack = pack ∧ x.test = test := by
  unfold isTest
  simp [and_assoc]

theorem testIsDue_iff {e q pack test : Nat} : testIsDue s e q pack test = true ↔ ∃ x ∈ s.rel.tests, isTest e q pack test x = true ∧ x.due = true := by
  unfold testIsDue isTest
  simp [List.any_eq_true]

/-- The records after a change of a test's state. -/
theorem onTest_tests (e q pack test : Nat) (f : TestSt → TestSt) (s : State) : (onTest e q pack test f s).rel.tests =
    if s.rel.tests.any (isTest e q pack test) then s.rel.tests.map (fun x => if isTest e q pack test x then f x else x)
    else s.rel.tests ++ [f { eng := e, quad := q, pack := pack, test := test, dueAt := s.rel.opMin }] := rfl

/-- After the change every record of the test is one that the change has made. -/
theorem onTest_all {e q pack test : Nat} {f : TestSt → TestSt} {y : TestSt} (hy : y ∈ (onTest e q pack test f s).rel.tests)
    (ht : isTest e q pack test y = true) : ∃ x, y = f x := by
  rw [onTest_tests] at hy
  split at hy
  · obtain ⟨x, -, rfl⟩ := List.mem_map.mp hy
    by_cases hx : isTest e q pack test x = true
    · exact ⟨x, if_pos hx⟩
    · rw [if_neg hx] at ht
      exact absurd ht hx
  · next hnone =>
    obtain hy | hy := List.mem_append.mp hy
    · exact absurd (List.any_eq_true.mpr ⟨y, hy, ht⟩) hnone
    · exact ⟨_, List.mem_singleton.mp hy⟩

theorem onTest_mem {e q pack test : Nat} (f : TestSt → TestSt) {x : TestSt} (hx : x ∈ s.rel.tests) (ht : isTest e q pack test x = true) :
    f x ∈ (onTest e q pack test f s).rel.tests := by
  rw [onTest_tests, if_pos (List.any_eq_true.mpr ⟨x, hx, ht⟩)]
  exact List.mem_map.mpr ⟨x, hx, if_pos ht⟩

theorem onTest_exists (e q pack test : Nat) (f : TestSt → TestSt) (s : State) :
    ∃ x, isTest e q pack test x = true ∧ f x ∈ (onTest e q pack test f s).rel.tests := by
  by_cases h : s.rel.tests.any (isTest e q pack test) = true
  · obtain ⟨x, hx, ht⟩ := List.any_eq_true.mp h
    exact ⟨x, ht, onTest_mem f hx ht⟩
  · refine ⟨{ eng := e, quad := q, pack := pack, test := test, dueAt := s.rel.opMin }, isTest_iff.mpr ⟨rfl, rfl, rfl, rfl⟩, ?_⟩
    rw [onTest_tests, if_neg h]
    exact List.mem_append_right _ (List.mem_singleton.mpr rfl)

/-- A test whose every record says so is not due. -/
theorem not_testIsDue {e q pack test : Nat} (h : ∀ y ∈ s.rel.tests, isTest e q pack test y = true → y.due = false) :
    testIsDue s e q pack test = false := by
  rw [← Bool.not_eq_true, testIsDue_iff]
  rintro ⟨y, hy, ht, hd⟩
  rw [h y hy ht] at hd
  cases hd

theorem raiseEv_tests (page i off : Nat) (e : ErrEvent) (s : State) : (raiseEv page i off e s).rel.tests = s.rel.tests := by
  have hraise : (raise page i off s).rel = s.rel := (raise_keeps ..).1 .rel (by decide)
  unfold raiseEv
  dsimp only
  split
  · rw [hraise]
  · rw [(report_eventsOnly ..).rel, hraise]

variable {e q pack test status : Nat} {hash : BitVec 128}

theorem testResult_pass (hgo : ¬ (testIsDue s e q pack test = false ∨ testsRun s e = false))
    (h : status = 1 ∧ (testEntry s pack test).any (fun x => x.expect == hash) = true) : testResultEffect e q pack test hash status s =
      bump tstPage 0 1 1 (onTest e q pack test (fun x => { x with lastPass := some s.rel.opMin, due := false, past := false }) (bump tstPage 0 0 1 s)) :=
  (if_neg hgo).trans (if_pos h)

/-- A failing result: the test is not due any more, and the failure is an error and an interrupt. -/
theorem testResult_fail (hgo : ¬ (testIsDue s e q pack test = false ∨ testsRun s e = false))
    (h : ¬ (status = 1 ∧ (testEntry s pack test).any (fun x => x.expect == hash) = true)) : ∃ ev v,
      testResultEffect e q pack test hash status s = intSet tstPage 1 (raiseEv tstPage 9 0 ev v) ∧
      v.rel.tests = (onTest e q pack test (fun x => { x with due := false, past := false }) (bump tstPage 0 0 1 s)).rel.tests := by
  refine ⟨_, _, (if_neg hgo).trans (if_neg h), ?_⟩
  have hbump (page set i n : Nat) (u : State) : (bump page set i n u).rel = u.rel := (bump_keeps ..).1 .rel (by decide)
  split
  · rw [hbump]
  · rw [(setReg_keeps ..).1 .rel (by decide), hbump]

theorem testResult_pass_tests (hgo : ¬ (testIsDue s e q pack test = false ∨ testsRun s e = false))
    (h : status = 1 ∧ (testEntry s pack test).any (fun x => x.expect == hash) = true) :
    (testResultEffect e q pack test hash status s).rel.tests =
      (onTest e q pack test (fun x => { x with lastPass := some s.rel.opMin, due := false, past := false }) (bump tstPage 0 0 1 s)).rel.tests := by
  rw [testResult_pass hgo h, (bump_keeps ..).1 .rel (by decide)]

theorem testResult_fail_tests (hgo : ¬ (testIsDue s e q pack test = false ∨ testsRun s e = false))
    (h : ¬ (status = 1 ∧ (testEntry s pack test).any (fun x => x.expect == hash) = true)) :
    (testResultEffect e q pack test hash status s).rel.tests =
      (onTest e q pack test (fun x => { x with due := false, past := false }) (bump tstPage 0 0 1 s)).rel.tests := by
  obtain ⟨ev, v, heff, hv⟩ := testResult_fail hgo h
  rw [heff, (intSet_keeps ..).1 .rel (by decide), raiseEv_tests, hv]

/-- Settles O50: the mismatch is noted before it is charged, and a test's state is the one record that its commands change. -/
theorem tileChecksPacksAndTests : Obligations.TileChecksPacksAndTests := by
  refine ⟨?agrees, ?differs, ?fails, ?release, ?packLoads, ?packRefused, ?due, ?skipped, ?late, ?result⟩
  case agrees =>
    intro s c x more cycles result arr3 status3 third hc hx hk hm heq
    have heff : tileEffect cycles 1 result arr3.val status3 third s =
        { countReg stnPage 0x220 (addAct 0 0 cycles { s with rel := { s.rel with checking := false, recomp := [] } }) with
          rel := { s.rel with checking := false, recomp := [], capture := none } } := by
      unfold tileEffect
      rw [hc, hx]
      dsimp only
      rw [if_neg (by simp [hk]), if_neg (by simp [hm]), if_pos (tileDiffs_isEmpty.mpr heq)]
      rfl
    have hself : Keeps [.regs, .rel, .act] s s := .refl
    refine ⟨_, congrArg Host.Outcome.next heff, rfl, (mget_mput ..).trans (if_pos rfl), getReg_setReg_same .., ?_⟩
    exact ((((hself.set_rel _).step (addAct_keeps ..)).step (countReg_keeps ..)).set_rel _).1
  case differs =>
    intro s c x more cycles result arr3 status3 third hc hx hk hm hca hcq hxa hd cfg htold hother
    obtain ⟨col, detail, heff⟩ := tileEffect_differs hc hx hk hm hd cycles arr3.val status3 third
    obtain ⟨hrel, hact, h20, h38, hiff, hfull, hempty⟩ := mismatchNoted_parts cycles c x col s
    have hevents : (mismatchNoted cycles c x col s).rel.events = s.rel.events := by rw [hrel]
    have hdiscards : (mismatchNoted cycles c x col s).rel.discards = s.rel.discards := by rw [hrel]
    obtain ⟨t, ht⟩ : ∃ t, t = tileEffect cycles 1 result arr3.val status3 third s := ⟨_, rfl⟩
    have honly : EventsOnly (mismatchNoted cycles c x col s) t := by
      rw [ht, heff]
      exact discardFor_noted ..
    have hreg (o : Nat) : getReg t stnPage o = getReg (mismatchNoted cycles c x col s) stnPage o := getReg_congr honly.regs _ _
    rw [← ht] at heff
    refine ⟨t, congrArg Host.Outcome.next ht.symm, ?_, ?_, ?_, ?_, ?_, ?_, fun h => ?_, fun h => ?_, fun h h9 hto => ?_, fun h h9 => ?_,
      fun h10 ho hthird hto => ?_, fun h10 h9 ho hthird hto => ?_, ?_, ?_⟩
    · rw [honly.rel, hrel]
    · rw [honly.rel, hrel]
    · rw [honly.rel, hrel]
    · rw [honly.rel, hrel]
      exact hc
    · rw [hreg]
      exact h20
    · rw [hreg]
      exact h38
    · rw [hreg]
      exact hfull h
    · rw [regFld, regFld, hreg]
      exact hempty hca hcq h
    · rw [thirdArr_none h] at heff
      have hsum : t = chargeTile c x col detail true true false (mismatchNoted cycles c x col s) := by
        rw [heff, show bit (getReg s stnPage 0x200) 9 = false from h9]
        rfl
      obtain ⟨a, ⟨a1, a2, a3, a4, a5, a6⟩, hea, -⟩ := chargeArr_told (hiff.mpr hto) hca c.quad col c.job detail
      have hto' : told (chargeArr c.arr c.quad col c.job detail false (mismatchNoted cycles c x col s)) :=
        (told_congr (chargeArr_eventsOnly ..).regs).mpr (hiff.mpr hto)
      obtain ⟨b, ⟨b1, b2, b3, b4, b5, -⟩, heb, -⟩ := chargeArr_told hto' hxa x.quad col c.job detail
      refine ⟨a, b, ?_, a1, a2, a3, a4, a5, a6, b1, b2, b3, b4, b5⟩
      rw [hsum, ← hevents]
      exact heb.trans (by rw [hea, List.append_assoc]; rfl)
    · rw [thirdArr_none h] at heff
      have hsum : t = discardFor true c.job (chargeTile c x col detail true true true (mismatchNoted cycles c x col s)) := by
        rw [heff, show bit (getReg s stnPage 0x200) 9 = true from h9]
        rfl
      rw [hsum]
      exact ⟨mem_discardFor .., (discardFor_events ..).trans ((chargeTile_wait ..).1.trans hevents)⟩
    · obtain ⟨hs, hoc, hox, hom⟩ := ho
      rw [thirdArr_some h10 hs arr3.isLt hoc hox hom, tileDiffs_isEmpty.mpr hthird] at heff
      have hsum : t = chargeTile c x col detail false true false (mismatchNoted cycles c x col s) := by
        rw [heff]
        dsimp only [Option.isNone]
        rw [Bool.not_true, Bool.or_false, Bool.and_false, Bool.or_true, Bool.true_or]
        rfl
      obtain ⟨b, ⟨b1, -, b3, b4, b5, -⟩, heb, hdb⟩ := chargeArr_told (hiff.mpr hto) hxa x.quad col c.job detail
      refine ⟨b, ?_, b1, b3, b4, b5, ?_⟩
      · rw [hsum, ← hevents]
        exact heb
      · rw [hsum, ← hdiscards]
        exact hdb
    · obtain ⟨hs, hoc, hox, hom⟩ := ho
      have hdel : (tileDiffs c third).isEmpty = false := by
        rw [← Bool.not_eq_true, tileDiffs_isEmpty]
        intro hall
        obtain ⟨i, hi, hne⟩ := hd
        exact hne ((hthird i hi).symm.trans (hall i hi))
      have hrec : (List.range c.sums.length).all (fun i => third.getD i 0 == result.getD i 0) = true := by
        simpa [List.all_eq_true] using hthird
      rw [thirdArr_some h10 hs arr3.isLt hoc hox hom, hdel, hrec, show bit (getReg s stnPage 0x200) 9 = false from h9] at heff
      have hsum : t = chargeTile c x col detail true false false (mismatchNoted cycles c x col s) := heff
      obtain ⟨a, ⟨a1, -, a3, a4, a5, -⟩, hea, -⟩ := chargeArr_told (hiff.mpr hto) hca c.quad col c.job detail
      refine ⟨a, ?_, a1, a3, a4, a5⟩
      rw [hsum, ← hevents]
      exact hea
    · rw [honly.act]
      exact hact
    · rw [ht]
      exact (tileEffect_keeps ..).1
  case fails =>
    intro s c x more cycles status result arr3 status3 third hc hx hk h
    have heff : tileEffect cycles status result arr3.val status3 third s =
        addAct 0 0 cycles { s with rel := { s.rel with checking := false, recomp := [], capture := none } } := by
      unfold tileEffect
      rw [hc, hx]
      dsimp only
      rw [if_neg (by simp [hk]), if_pos h]
    have hself : Keeps [.rel, .act] s s := .refl
    exact ⟨_, congrArg Host.Outcome.next heff, rfl, ((hself.set_rel _).step (addAct_keeps ..)).1⟩
  case release =>
    intro s who v ha hheld
    have hbit : bit (v ||| 2) 1 = true := (bit_or_two v).1
    have hself : Keeps [.rel] s s := .refl
    cases who with
    | core n =>
      refine ⟨s, congrArg Host.Outcome.next ((regGuard_admits ha).trans (if_neg (by simp))), fun h => ?_, fun _ _ => rfl, hself.1⟩
      obtain h | h := h <;> cases h
    | _ =>
      refine ⟨_, congrArg Host.Outcome.next ((regGuard_admits ha).trans (if_pos (by rw [hbit, hheld]; rfl))), fun _ => rfl, fun _ h => ?_,
        (hself.set_rel _).1⟩
      cases h
  case packLoads =>
    intro s w0 w1 w2 tests lists sign hup hphase hgood bs others p
    obtain ⟨s1, hs1⟩ : ∃ s1, s1 = if access s p.place = .ok ∧ access s (p.place + bs.length - 1) = .ok ∧ winOf p.place = .hbm
      then wrBytes 2 p.place bs s else s := ⟨_, rfl⟩
    have heff : packEffect bs s = { s1 with
        rel := { s1.rel with packs := others ++ [p], tests := s1.rel.tests.filter (fun x => x.pack != p.id) },
        sec := { s1.sec with packs := mput s1.sec.packs p.id (p.version, p.digest) } } := by
      rw [hs1]
      exact (if_neg (by simp [hup, hphase])).trans (if_neg (by rw [hgood]; decide))
    have hkeep : Keeps [.cnt, .mem, .poison, .epochs, .tasks, .crm, .hbm, .ecc, .cw, .ls, .ldl, .act] s s1 := by
      rw [hs1]
      exact .ite (fun _ => wrBytes_counts ..) fun _ => .refl
    have hall : Keeps (.sec :: writeParts) s s1 := hkeep.mono (by decide)
    refine ⟨_, congrArg Host.Outcome.next heff, rfl, fun x hx => ?_, ?_, fun hinv h1 h2 h3 => ?_, fun h => ?_, ?_⟩
    · simpa using (List.mem_filter.mp hx).2
    · exact congrArg (fun y : Sec => mput y.packs p.id (p.version, p.digest)) (hkeep.1 .sec (by decide))
    · show memBytes s1.mem p.place bs.length = bs
      rw [hs1, if_pos ⟨h1, h2, h3⟩, wrBytes_mem]
      exact memBytes_memStore hinv ..
    · show s1.mem = s.mem
      rw [hs1, if_neg fun hgo => h hgo.1]
    · exact ((hall.set_rel { s1.rel with packs := others ++ [p], tests := s1.rel.tests.filter (fun x => x.pack != p.id) }).set_sec
        { s1.sec with packs := mput s1.sec.packs p.id (p.version, p.digest) }).1
  case packRefused =>
    intro s w0 w1 w2 tests lists sign hup hphase bs w hbad
    have hnot : packGood s bs = false := by
      unfold packGood
      dsimp only
      rw [Bool.and_eq_false_iff, decide_eq_false_iff_not]
      obtain h | h := hbad
      · exact .inr h
      · have hw : w = packWord bs 1 := rfl
        rw [hw] at h
        left
        omega
    have heff : packEffect bs s = raise tstPage 8 0 s := (if_neg (by simp [hup, hphase])).trans (if_pos hnot)
    exact ⟨_, congrArg Host.Outcome.next heff, raisedAt_raise _ _ _ (by decide), raise_onlyChanges _ _ _ _⟩
  case due =>
    intro s e q pack test hhas hin hat hrun
    by_cases hdue : testIsDue s e.val q.val pack test = true
    · exact ⟨s, congrArg Host.Outcome.next (if_pos (.inr (.inr (.inr hdue)))), hdue, Keeps.refl.1⟩
    · have heff : testDueEffect e.val q.val pack test s =
          onTest e.val q.val pack test (fun x => { x with due := true, dueAt := testDueAt s e.val q.val pack test }) s :=
        (if_neg (by simp [hhas, hin, hdue, hat])).trans (if_neg (by simp [hrun]))
      obtain ⟨x, hx, hmem⟩ := onTest_exists e.val q.val pack test (fun x => { x with due := true, dueAt := testDueAt s e.val q.val pack test }) s
      exact ⟨_, congrArg Host.Outcome.next heff, testIsDue_iff.mpr ⟨_, hmem, hx, rfl⟩, (onTest_keeps ..).1⟩
  case skipped =>
    intro s e q pack test hhas hin hat hrun hdue
    have heff : testDueEffect e.val q.val pack test s = { s with rel := { s.rel with testsSkipped := s.rel.testsSkipped + 1 } } :=
      (if_neg (by simp [hhas, hin, hdue, hat])).trans (if_pos hrun)
    have hself : Keeps [.rel] s s := .refl
    exact ⟨_, congrArg Host.Outcome.next heff, rfl, (hself.set_rel _).1⟩
  case late =>
    intro s e q pack test hlate
    have heff : testLateEffect e.val q.val pack test s = intSet tstPage 2 (onTest e.val q.val pack test (fun x => { x with past := true }) s) :=
      if_neg (by simp [hlate])
    have hrel := (intSet_keeps tstPage 2 (onTest e.val q.val pack test (fun x => { x with past := true }) s)).1 .rel (by decide)
    obtain ⟨x, hx, ht, hd⟩ : ∃ x ∈ s.rel.tests, isTest e.val q.val pack test x = true ∧ x.due = true := by
      unfold testIsLate at hlate
      simp only [Bool.and_eq_true, List.any_eq_true] at hlate
      obtain ⟨-, x, hx, ht, -⟩ := hlate
      exact ⟨x, hx, by simp only [isTest, Bool.and_eq_true]; exact ht.1, ht.2⟩
    have hself : Keeps [.out, .regs, .rel, .sys] s s := .refl
    refine ⟨_, congrArg Host.Outcome.next heff, testIsDue_iff.mpr ?_, fun y hy h1 h2 h3 h4 => ?_, bit_intSts_intSet _ _ _ (by decide),
      ((hself.step (onTest_keeps ..)).step (intSet_keeps ..)).1⟩
    · rw [hrel]
      exact ⟨_, onTest_mem (fun x => { x with past := true }) hx ht, ht, hd⟩
    · rw [hrel] at hy
      obtain ⟨z, rfl⟩ := onTest_all hy (isTest_iff.mpr ⟨h1, h2, h3, h4⟩)
      rfl
  case result =>
    intro s e q pack test x hash status hdue hrun hentry good
    have hgo : ¬ (testIsDue s e.val q.val pack test = false ∨ testsRun s e.val = false) := by simp [hdue, hrun]
    have hpass : (status = 1 ∧ (testEntry s pack test).any (fun x => x.expect == hash) = true) ↔ good = true := by
      rw [hentry, decide_eq_true_iff, Option.any_some, beq_iff_eq, eq_comm (a := x.expect)]
    refine ⟨_, rfl, ?_, fun hg => ⟨fun y hy h1 h2 h3 h4 => ?_, ?_⟩, fun hg => ?_, (testResultEffect_keeps ..).1⟩
    · refine not_testIsDue fun y hy ht => ?_
      by_cases hg : good = true
      · rw [testResult_pass_tests hgo (hpass.mpr hg)] at hy
        obtain ⟨z, rfl⟩ := onTest_all hy ht
        rfl
      · rw [testResult_fail_tests hgo (fun h => hg (hpass.mp h))] at hy
        obtain ⟨z, rfl⟩ := onTest_all hy ht
        rfl
    · rw [testResult_pass_tests hgo (hpass.mpr hg)] at hy
      obtain ⟨z, rfl⟩ := onTest_all hy (isTest_iff.mpr ⟨h1, h2, h3, h4⟩)
      exact ⟨rfl, rfl⟩
    · have hself : Keeps [.cnt, .rel] s s := .refl
      rw [testResult_pass hgo (hpass.mpr hg)]
      exact (((hself.step (bump_keeps ..)).step (onTest_keeps ..)).step (bump_keeps ..)).1
    · obtain ⟨ev, v, heff, -⟩ := testResult_fail hgo fun h => absurd (hpass.mp h) (by rw [hg]; decide)
      rw [heff]
      refine ⟨?_, bit_intSts_intSet _ _ _ (by decide)⟩
      rw [getReg_intSet, if_neg (by decide)]
      exact bit_errSts_raiseEv _ _ _ _ _ (by decide)

end Sys2Proof.Machine
end

section
/-! SUPPORT. The dispatch checks of R424 and the indivisible step of R40. -/

namespace Sys2Proof.Machine

variable {s : State} {t u : Task}

/-! ### What the step takes and reads is of the same task -/

/-- Of the same task, among the same tasks. -/
structure SameTask (x y : Task × State) : Prop where
  id : y.1.id = x.1.id
  tasks : y.2.tasks = x.2.tasks

theorem SameTask.refl {x : Task × State} : SameTask x x := ⟨rfl, rfl⟩

theorem SameTask.trans {x y z : Task × State} (h : SameTask x y) (k : SameTask y z) : SameTask x z :=
  ⟨k.id.trans h.id, k.tasks.trans h.tasks⟩

theorem takePop_same {i : Nat} {x y : Task × State} (h : takePop i x = some y) : SameTask x y := by
  have hq := (qTake_keeps (256 + x.1.lace i) x.2).1 .tasks (by decide)
  unfold takePop at h
  dsimp only at h
  split at h
  · cases h
    exact .refl
  split at h
  · cases h
  split at h
  · next v s1 heq =>
    cases h
    rw [heq] at hq
    exact ⟨rfl, hq⟩
  · cases h

theorem takeAlloc_same {i : Nat} {x y : Task × State} (h : takeAlloc i x = some y) : SameTask x y := by
  have ha := (allocBuf_keeps (fld (x.1.sl1 i) 31 26) x.1.cq x.2).1 .tasks (by decide)
  unfold takeAlloc at h
  dsimp only at h
  split at h
  · cases h
    exact .refl
  split at h
  · cases h
  split at h
  · next e s1 heq =>
    cases h
    rw [heq] at ha
    exact ⟨rfl, ha⟩
  · cases h

theorem takePush_same {i : Nat} {x y : Task × State} (h : takePush i x = some y) : SameTask x y := by
  unfold takePush at h
  dsimp only at h
  split at h
  · cases h
    exact .refl
  split at h
  · cases h
  · cases h
    exact ⟨rfl, rfl⟩

theorem takeAll_same {fs : List (Task × State → Take)} (hf : ∀ f ∈ fs, ∀ x y, f x = some y → SameTask x y) {x y : Task × State}
    (h : takeAll fs x = some y) : SameTask x y := by
  induction fs generalizing x with
  | nil =>
    cases h
    exact .refl
  | cons f fs ih =>
    obtain ⟨z, hz, hrest⟩ := Option.bind_eq_some_iff.mp h
    exact (hf f (List.mem_cons_self ..) x z hz).trans (ih (fun g hg => hf g (List.mem_cons_of_mem _ hg)) hrest)

theorem takeRes_same {t1 : Task} {s1 : State} (h : takeRes u s = some (t1, s1)) : t1.id = u.id ∧ s1.tasks = s.tasks := by
  have hone (c : Bool) (i e : Nat) (v : Task) : (if c then v.setEye i e else v).id = v.id := by
    cases c
    · rfl
    · rfl
  have hfold (l : List Nat) (v : Task) :
      (l.foldl (fun w i => if u.used i && u.source i == 0 then w.setEye i (fld (u.sl1 i) 31 0) else w) v).id = v.id := by
    induction l generalizing v with
    | nil => rfl
    | cons i l ih => exact (ih _).trans (hone ..)
  have hsame := takeAll_same (fun f hf x y => ?_) h
  · exact ⟨hsame.id.trans (hfold _ u), hsame.tasks⟩
  · simp only [List.mem_append, List.mem_map] at hf
    obtain (⟨i, -, rfl⟩ | ⟨i, -, rfl⟩) | ⟨i, -, rfl⟩ := hf
    · exact takePop_same
    · exact takeAlloc_same
    · exact takePush_same

/-- The descriptors read so far are the task's, among the tasks. -/
def readsOf (id : Nat) (ts : List Task) : TdRead → Prop
  | .ok t s => t.id = id ∧ s.tasks = ts
  | _ => True

theorem forJob_touchReads_tasks (job cls : Nat) (rs : List (Nat × Nat)) (s : State) : (forJob job (touchReads cls rs) s).tasks = s.tasks :=
  (touchReads_keeps cls rs { s with actJob := job }).1 .tasks (by decide)

theorem readTd_readsOf {id : Nat} {ts : List Task} {r : TdRead} (h : readsOf id ts r) (i : Nat) : readsOf id ts (readTd i r) := by
  cases r with
  | wait => exact trivial
  | fail f s => exact trivial
  | ok t s =>
    unfold readTd
    dsimp only
    split
    · exact h
    split
    · exact trivial
    · exact trivial
    · exact trivial
    · exact ⟨h.1, (forJob_touchReads_tasks ..).trans h.2⟩

theorem foldl_readTd_readsOf {id : Nat} {ts : List Task} (l : List Nat) {r : TdRead} (h : readsOf id ts r) :
    readsOf id ts (l.foldl (fun r i => readTd i r) r) := by
  induction l generalizing r with
  | nil => exact h
  | cons i l ih => exact ih (readTd_readsOf h i)

theorem enterStage_id (s : State) (t : Task) : (enterStage s t).id = t.id := by
  unfold enterStage
  dsimp only
  split
  · rfl
  · rfl

theorem capture_id {t5 : Task} (h : capture s t = .inr t5) : t5.id = t.id := by
  unfold capture at h
  split at h
  · cases h
    rfl
  · split at h
    · cases h
    · cases h
      rfl
  · cases h
    rfl
  · cases h
    exact enterStage_id ..
  · cases h
    rfl

/-! ### The task as the step leaves it -/

/-- The task that is dispatched: only what it waits for of a refetch may be new. -/
theorem startRefetch_task (t : Task) (s : State) : (startRefetch t s).1 = { t with refetch := (startRefetch t s).1.refetch } := by
  unfold startRefetch
  dsimp only
  split
  · rfl
  · split
    · rfl
    · rfl

/-- Behind the dispatched task's entry no part of the step writes the tasks, and its engine's place moves past its queue. -/
theorem dispatched_spec (hf : ∃ v, findTask s t.id = some v) :
    findTask (dispatched t s) t.id = some { (startRefetch t s).1 with phase := .dispatched, checked := true } ∧
      (getEng (dispatched t s) t.eng).rr = (t.cq + 1) % 256 := by
  obtain ⟨v, hv⟩ := hf
  unfold dispatched
  extract_lets x src t1 s1 s2 s3 src3
  have hx := startRefetch_task t s
  have hid : t1.id = t.id := by
    show (startRefetch t s).1.id = t.id
    rw [hx]
  have heng : t1.eng = t.eng := by
    show (startRefetch t s).1.eng = t.eng
    rw [hx]
  have hcq : t1.cq = t.cq := by
    show (startRefetch t s).1.cq = t.cq
    rw [hx]
  have htasks : s1.tasks = s.tasks := by
    refine Eq.trans ?_ ((startRefetch_keeps t s).1 .tasks (by decide))
    exact (Keeps.foldl (ps := [.cnt, .ldl]) .refl fun _ _ h => h.step (noteUse_keeps ..)).1 .tasks (by decide)
  have hput : findTask (putTask t1 s1) t1.id = some t1 :=
    findTask_putTask _ _ v (by rw [hid, findTask_congr htasks]; exact hv)
  have hon : s2.tasks = (putTask t1 s1).tasks := (putOn_keeps ..).1 .tasks (by decide)
  have hs3 : s3.tasks = s2.tasks := by
    unfold s3
    split
    · rfl
    split
    · exact (armTake_keeps ..).1 .tasks (by decide)
    split
    · exact (redSample_keeps ..).1 .tasks (by decide)
    · exact (beginCast_keeps ..).1 .tasks (by decide)
  refine ⟨?_, ?_⟩
  · rw [findTask_congr ((markAlive_keeps ..).1 .tasks (by decide)), ← hid]
    exact (findTask_congr (hs3.trans hon) _).trans hput
  · rw [getEng, (markAlive_keeps ..).1 .eng (by decide)]
    exact congrArg Eng.rr ((getEng_setEng ..).trans (if_pos rfl))

/-- A task that passes every check of the step is dispatched, as the same task among the same tasks. -/
theorem tryDispatch_passes {v : Task} {w : State} (h : dispatchPasses s u v w) :
    tryDispatch u s = some (dispatched v w) ∧ v.id = u.id ∧ w.tasks = s.tasks := by
  obtain ⟨t1, s1, t3, s2, t5, hphase, hrun, hshut, hfence, hpop, hwork, hroom, hmode, htake, hstale, hread, hneed, ⟨hchecks, hseed, hcap⟩,
    hover, hwaits, hready, rfl, rfl⟩ := h
  obtain ⟨hid1, htasks1⟩ := takeRes_same htake
  have hreads := foldl_readTd_readsOf (id := t1.id) (ts := s1.tasks) (List.range 8) (r := .ok { t1 with use := useOf s t1.job t1.gid } s1) ⟨rfl, rfl⟩
  rw [hread] at hreads
  obtain ⟨hid3, htasks2⟩ := hreads
  have hid4 : (if t3.cls = 6 then withGroups s2 t3 else t3).id = t3.id := by
    split
    · rfl
    · rfl
  refine ⟨?_, (capture_id hcap).trans (hid4.trans (hid3.trans hid1)), (forJob_touchReads_tasks ..).trans (htasks2.trans htasks1)⟩
  have hroom' : ¬ (engRoom s u = false ∨ u.cls = 1 ∧ classReady s u = false) := by
    rintro (h | ⟨h1, h2⟩)
    · rw [hroom] at h
      cases h
    · rw [hmode h1] at h2
      cases h2
  unfold tryDispatch
  rw [if_neg (by simp [hphase, hrun]), if_neg (by simp [hshut]), if_neg (by simp [hfence, hpop, hwork]), if_neg hroom', htake]
  dsimp only
  rw [hstale]
  dsimp only
  rw [hread]
  dsimp only
  rw [hneed]
  dsimp only
  rw [hchecks]
  dsimp only
  rw [hseed]
  dsimp only
  rw [hcap]
  dsimp only
  rw [hover, if_neg (by decide), if_neg (by simp [hwaits, hready])]
  rfl

theorem firstFail_none_iff {l : List (Option Fail)} : firstFail l = none ↔ ∀ x ∈ l, x = none := by
  induction l with
  | nil => simp [firstFail]
  | cons x l ih => cases x <;> simp [firstFail, ih]

/-- Settles O14: the step's resources and reads are of the same task, and nothing behind its entry writes the tasks. -/
theorem dispatchChecksAndDispatches : Obligations.DispatchChecksAndDispatches := by
  refine ⟨?passes, ?ends, ?dispatches, ?waits⟩
  case passes =>
    intro s u hf hp hrun hfence hpop hchecks hshut
    have hnone : checkFail s u = none := by
      rw [firstFail_none_iff] at hchecks
      refine firstFail_none_iff.mpr fun x hx => ?_
      have hopen : failIf (jobShut s u) jobClosed = none := by
        rw [hshut]
        rfl
      simp only [List.mem_cons, List.not_mem_nil, or_false] at hx hchecks
      obtain hx | hx | hx | hx := hx
      · exact hchecks x (.inl hx)
      · exact hchecks x (.inr (.inl hx))
      · exact hchecks x (.inr (.inr hx))
      · exact hx.trans hopen
    have heff : checkEffect u.id s = putTask { u with phase := .waiting } s := by
      unfold checkEffect
      rw [hf]
      dsimp only
      rw [if_neg (by simp [hp, hrun, hfence, hpop]), hnone]
    exact ⟨_, congrArg Host.Outcome.next heff, findTask_putTask s { u with phase := .waiting } u hf, (putTask_keeps ..).1⟩
  case ends =>
    intro s u f hf hp hd hrun hfence hpop hfail
    have heff : checkEffect u.id s = finish u f s := by
      unfold checkEffect
      rw [hf]
      dsimp only
      rw [if_neg (by simp [hp, hrun, hfence, hpop]), hfail]
    refine ⟨_, _, congrArg Host.Outcome.next heff, findTask_finish f hf hd, rfl, rfl, fun ha => ?_, fun ha => ?_, (finish_queued_keeps hd f s).1⟩
    · rw [if_neg (by rw [ha]; decide)]
      exact ⟨rfl, rfl, rfl⟩
    · rw [if_pos ha]
      rfl
  case dispatches =>
    intro s u v w hf hnext hpass
    obtain ⟨htry, hid, htasks⟩ := tryDispatch_passes hpass
    have hphase : u.phase = .waiting := by
      obtain ⟨t1, s1, t3, s2, t5, hphase, -⟩ := hpass
      exact hphase
    have heff : dispatchEffect u.id s = dispatched v w := by
      unfold dispatchEffect
      rw [hf]
      dsimp only
      rw [if_neg (by simp [hphase]), if_pos hnext, htry]
      rfl
    have hfound : findTask w v.id = some u := by
      rw [hid, findTask_congr (htasks.trans ((checkLaces_keeps u s).1 .tasks (by decide)))]
      exact hf
    obtain ⟨hfind, hrr⟩ := dispatched_spec ⟨u, hfound⟩
    have hsame := startRefetch_task v w
    have hkeep := dispatchEffect_keeps u.id s
    rw [heff] at hkeep
    rw [hid] at hfind
    refine ⟨_, _, congrArg Host.Outcome.next heff, hfind, rfl, rfl, ?_, ?_, ?_, ?_, ?_, hrr, hkeep.1⟩
    all_goals rw [hsame]
  case waits =>
    intro s u hf hp h
    refine congrArg Host.Outcome.next ?_
    unfold dispatchEffect
    rw [hf]
    dsimp only
    rw [if_neg (by simp [hp])]
    obtain h | h := h
    · rw [h]
      split
      · rfl
      · rfl
    · exact if_neg h

end Sys2Proof.Machine
end

section
/-! SUPPORT. What a slice's granule leaves of the class of its task. -/

namespace Sys2Proof.Machine

variable {s t u : State}

/-! ### No task changes its class -/

/-- Every task there is after was there before, of the same class. -/
structure ClsKept (s t : State) : Prop where
  held : ∀ y ∈ t.tasks, ∃ x ∈ s.tasks, x.id = y.id ∧ x.cls = y.cls

namespace ClsKept

theorem refl (s : State) : ClsKept s s := ⟨fun y hy => ⟨y, hy, rfl, rfl⟩⟩

theorem trans (h : ClsKept s t) (k : ClsKept t u) : ClsKept s u where
  held y hy := by
    obtain ⟨x, hx, hid, hcls⟩ := k.held y hy
    obtain ⟨w, hw, hid', hcls'⟩ := h.held x hx
    exact ⟨w, hw, hid'.trans hid, hcls'.trans hcls⟩

theorem of_tasks (h : t.tasks = s.tasks) : ClsKept s t := ⟨fun y hy => ⟨y, h ▸ hy, rfl, rfl⟩⟩

theorem of_keeps {ps : List Part} (k : Keeps ps s t) (h : .tasks ∉ ps := by decide) : ClsKept s t :=
  .of_tasks (k.1 .tasks h)

theorem of_map {f : Task → Task} (hid : ∀ x, (f x).id = x.id) (hcls : ∀ x, (f x).cls = x.cls)
    (h : t.tasks = s.tasks.map f) : ClsKept s t where
  held y hy := by
    obtain ⟨x, hx, rfl⟩ := List.mem_map.mp (h ▸ hy)
    exact ⟨x, hx, (hid x).symm, (hcls x).symm⟩

theorem foldl {α : Type} {f : State → α → State} (hf : ∀ v x, ClsKept v (f v x)) (l : List α) (s : State) :
    ClsKept s (l.foldl f s) := by
  induction l generalizing s with
  | nil => exact .refl s
  | cons x l ih => exact (hf s x).trans (ih _)

theorem ite {c : Prop} [Decidable c] (ht : ClsKept s t) (hu : ClsKept s u) : ClsKept s (if c then t else u) := by
  split
  · exact ht
  · exact hu

end ClsKept

theorem putTask_clsKept {x y : Task} (hx : x ∈ s.tasks) (hid : x.id = y.id) (hcls : x.cls = y.cls) :
    ClsKept s (putTask y s) where
  held z hz := by
    obtain ⟨w, hw, rfl⟩ := List.mem_map.mp hz
    split
    · exact ⟨x, hx, hid, hcls⟩
    · exact ⟨w, hw, rfl, rfl⟩

theorem dropTask_clsKept (id : Nat) (s : State) : ClsKept s (dropTask id s) :=
  ⟨fun y hy => ⟨y, (List.mem_filter.mp hy).1, rfl, rfl⟩⟩

theorem findTask_mem {id : Nat} {x : Task} (h : findTask s id = some x) : x ∈ s.tasks := List.mem_of_find?_eq_some h

theorem addWaits_clsKept (id n : Nat) (s : State) : ClsKept s (addWaits id n s) :=
  .of_map (f := fun t => if t.id = id then { t with waits := t.waits + n } else t)
    (fun x => by split <;> rfl) (fun x => by split <;> rfl) rfl

theorem epochAdvance_clsKept (lo hi : Nat) (s : State) : ClsKept s (epochAdvance lo hi s) := by
  unfold epochAdvance
  split
  · exact .of_map (fun x => by split <;> rfl) (fun x => by split <;> rfl) rfl
  · exact .of_map (fun x => by split <;> rfl) (fun x => by split <;> rfl) rfl
  · exact .refl s

theorem landRun_clsKept (self : Option (Nat × Nat)) (a : Nat) (bs : List Byte) (s : State) :
    ClsKept s (landRun self a bs s) := by
  unfold landRun
  extract_lets full
  refine .trans ?_ (epochAdvance_clsKept ..)
  have hput (v : State) (h : v.tasks = s.tasks) : ClsKept s (retireOn a (a + bs.length - 1) self v) :=
    .of_tasks (((retireOn_keeps a (a + bs.length - 1) self v).1 .tasks (by decide)).trans h)
  exact hput _ rfl

theorem writeRun_clsKept (cls : Nat) (self : Option (Nat × Nat)) (a : Nat) (bs : List Byte) (s : State) :
    ClsKept s (writeRun cls self a bs s) := by
  unfold writeRun
  split
  · exact .refl s
  · refine .trans ?_ (landRun_clsKept ..)
    split
    · exact .of_keeps (cacheTouch_keeps ..)
    · exact (ClsKept.of_keeps (bump_keeps ..)).trans (.of_keeps (addAct_keeps ..))
    · exact .ite (.refl s) (.of_keeps (bump_keeps ..))
    · exact .refl s

theorem writeRuns_clsKept (cls : Nat) (t : Option Task) (self : Option (Nat × Nat)) (ws : List (Nat × List Byte)) (s : State) :
    ClsKept s (writeRuns cls t self ws s) := by
  unfold writeRuns
  refine .foldl (fun v w => ?_) _ s
  split
  · exact .ite ((ClsKept.of_keeps (addAct_keeps ..)).trans (.of_keeps (provRun_keeps ..))) (writeRun_clsKept ..)
  · exact writeRun_clsKept ..

theorem adderWrite_clsKept (a : Nat) (bs : List Byte) (s : State) : ClsKept s (adderWrite a bs s) := by
  unfold adderWrite
  refine .foldl (fun v w => ?_) _ s
  unfold adderRun
  refine .ite (.refl v) (.trans ?_ (landRun_clsKept ..))
  split
  · exact .of_keeps (((Keeps.refl (ps := [.out, .regs, .cnt, .poison, .crm, .hbm, .cw, .rel, .act, .sys, .free])).step
      (dropLine_keeps ..)).step (hbmFetch_keeps ..) |>.step (hbmMove_keeps ..))
  · exact (ClsKept.of_keeps (bump_keeps ..)).trans (.of_keeps (addAct_keeps ..))
  · exact .refl v

/-- A performed remote accumulate. -/
theorem perform_clsKept (b : Buck) (op code addr : Nat) (data : List Byte) (s : State) :
    ClsKept s (perform b op code addr data s) := by
  unfold perform
  extract_lets n word64 tgt v s1 e0 vs keep count margin go out
  have hkeep (v : State) : ClsKept v (keep v) := by
    refine .ite (.refl v) ?_
    split
    · exact .of_keeps (putBuck_keeps ..)
    · exact .refl v
  have hgo (v : State) (j : Nat) : ClsKept v (go v j) := by
    dsimp -zeta only [go]
    extract_lets x u1 u2 u3
    have h1 : ClsKept v u1 := .foldl (fun u w => adderWrite_clsKept w.1 w.2 u) x.1 v
    have h2 : ClsKept u1 u2 := .ite (.of_keeps (bump_keeps ..)) (.refl u1)
    have h3 : ClsKept u2 u3 := .ite (.of_keeps (bump_keeps ..)) (.refl u2)
    exact ((h1.trans h2).trans h3).trans (.of_keeps (noteFlags_keeps ..))
  have hcount (v : State) : ClsKept v (count v) := .of_keeps (addAct_keeps ..)
  split
  · exact .trans (.trans (.of_keeps (putBuck_keeps ..)) (adderWrite_clsKept ..)) (.of_keeps (noteSlots_keeps ..))
  · split
    · exact .trans (.trans (.trans (.foldl hgo _ s) (hkeep _)) (hcount _)) (.of_keeps (noteSlots_keeps ..))
    · exact .trans (.trans (.trans (adderWrite_clsKept ..) (hkeep _)) (hcount _)) (.of_keeps (noteSlots_keeps ..))

/-! ### Requests -/

theorem directEnd_clsKept (x : Task) (c : Nat) (f : Fail) (s : State) : ClsKept s (directEnd x c f s) := by
  unfold directEnd
  extract_lets n l ch ch1 page s1
  have h1 : ClsKept s s1 :=
    ((dropTask_clsKept x.id s).trans (.of_keeps (setLdl_keeps ..))).trans (.of_keeps (bump_keeps ..))
  exact h1.trans (.ite ((ClsKept.of_keeps (setReg_keeps ..)).trans (.of_keeps (intSet_keeps ..))) (.refl s1))

theorem finish_clsKept {x : Task} (hx : x ∈ s.tasks) (f : Fail) : ClsKept s (finish x f s) := by
  unfold finish
  extract_lets f1 s1
  refine (putTask_clsKept hx rfl rfl : ClsKept s s1).trans ?_
  split
  · exact (ClsKept.of_keeps (leaveEngine_keeps x s1)).trans (directEnd_clsKept ..)
  · exact .ite (.of_keeps (leaveSlices_keeps ..)) (.of_keeps (leaveEngine_keeps ..))

theorem failOwner_clsKept (owner : Nat) (f : Fail) (s : State) : ClsKept s (failOwner owner f s) := by
  unfold failOwner
  split
  · exact .refl s
  · next x hx =>
    refine .ite (.refl s) ?_
    exact (ClsKept.of_keeps (dropUnsent_keeps owner s)).trans (finish_clsKept (s := dropUnsent owner s) (findTask_mem hx) f)

theorem sendTrack_clsKept (seq : Nat) (x : Track) (port : Nat) (s : State) : ClsKept s (sendTrack seq x port s) := by
  unfold sendTrack
  have hseal := sealPacket_keeps x.k s
  split
  · exact .trans (.trans (.of_keeps (linkFault_keeps ..)) (.of_keeps (dropTrack_keeps ..))) (failOwner_clsKept ..)
  · next k s1 heq =>
    rw [heq] at hseal
    exact .trans (.trans (ClsKept.of_keeps hseal) (.of_keeps (setTrack_keeps ..))) (.of_keeps (handOver_keeps ..))

theorem pumpDev_clsKept (n dev : Nat) (s : State) : ClsKept s (pumpDev n dev s) := by
  induction n generalizing s with
  | zero => exact .refl s
  | succ n ih =>
    unfold pumpDev
    have hdrop (seq : Nat) (v : State) : ClsKept v (dropTrack seq v) := .of_keeps (dropTrack_keeps ..)
    split
    · exact .refl s
    · next seq x rest heq =>
      refine .ite ((hdrop ..).trans (ih _)) (.ite (((hdrop ..).trans (failOwner_clsKept ..)).trans (ih _)) ?_)
      split
      · exact (((ClsKept.of_keeps (linkFault_keeps ..)).trans (hdrop ..)).trans (failOwner_clsKept ..)).trans (ih _)
      · refine .ite (.refl s) (.ite ((sendTrack_clsKept ..).trans (ih _)) ?_)
        have hhit := cacheHit_keeps s dev x.k.job x.k.addr
        split
        · next w s1 heq =>
          rw [heq] at hhit
          exact ((ClsKept.of_keeps hhit).trans (sendTrack_clsKept ..)).trans (ih _)
        · refine .ite (.refl s) ?_
          extract_lets r s1 y
          have h1 : ClsKept s y.2 := (ClsKept.of_keeps (setTrack_keeps ..)).trans (.of_keeps (newTrack_keeps ..))
          split
          · exact (h1.trans (.of_keeps (bump_keeps ..))).trans (sendTrack_clsKept ..)
          · exact h1

theorem issue_clsKept (dev : Nat) (k : Packet) (owner : Nat) (kind : ReqKind) (first count : Nat) (s : State) :
    ClsKept s (issue dev k owner kind first count s) :=
  (ClsKept.of_keeps (newTrack_keeps ..)).trans (pumpDev_clsKept ..)

theorem sendRa_clsKept (t : Task) (dev bucket : Nat) (p : RaPkt) (s : State) : ClsKept s (sendRa t dev bucket p s) :=
  (addWaits_clsKept ..).trans (issue_clsKept ..)

theorem ownRa_clsKept (t : Task) (bucket : Nat) (p : RaPkt) (s : State) : ClsKept s (ownRa t bucket p s) := by
  unfold ownRa
  split
  · exact perform_clsKept ..
  · exact .refl s

theorem toMember_clsKept (t : Task) (dev bucket : Nat) (ps : List RaPkt) (s : State) : ClsKept s (toMember t dev bucket ps s) :=
  .foldl (fun _ _ => .ite (ownRa_clsKept ..) (sendRa_clsKept ..)) ps s

theorem sendHop_clsKept (t : Task) (plane first : Nat) (p : RaPkt) (s : State) : ClsKept s (sendHop t plane first p s) := by
  unfold sendHop
  refine .ite ((ClsKept.of_keeps (linkFault_keeps ..)).trans (failOwner_clsKept ..)) ?_
  extract_lets k y
  have h1 : ClsKept s y.2 := (addWaits_clsKept ..).trans (.of_keeps (newTrack_keeps ..))
  split
  · exact h1.trans (sendTrack_clsKept ..)
  · exact h1

theorem flagOut_clsKept (t : Task) (s : State) : ClsKept s (flagOut t s) := by
  unfold flagOut
  refine .ite (.trans ?_ (.of_keeps (releaseLate_keeps ..))) (.refl s)
  exact .trans (.trans (.of_tasks (t := { s with actJob := t.job }) rfl) (writeRuns_clsKept ..)) (.of_tasks rfl)

theorem castTo_clsKept (t : Task) (kind r op : Nat) (p : CastPkt) (s : State) : ClsKept s (castTo t kind r op p s) := by
  unfold castTo
  split
  · exact .refl s
  · next m _ =>
    refine .trans ?_ (issue_clsKept ..)
    exact .of_map (f := fun x => if x.id = t.id then
      { x with waits := x.waits + 1, members := x.members.modify r (fun y => { y with out := y.out + p.len }) } else x)
      (fun x => by split <;> rfl) (fun x => by split <;> rfl) rfl

theorem catchUp_clsKept (n id r : Nat) (s : State) : ClsKept s (catchUp n id r s) := by
  induction n generalizing s with
  | zero => exact .refl s
  | succ n ih =>
    unfold catchUp
    split
    · exact .refl s
    · next t ht =>
      have hput (m : List Member) : ClsKept s (putTask { t with members := m } s) := putTask_clsKept (findTask_mem ht) rfl rfl
      extract_lets kind
      split
      · exact .refl s
      · refine .ite (.refl s) ?_
        split
        · exact (hput _).trans (ih _)
        · refine .ite (.refl s) ?_
          split
          · exact .refl s
          · exact failOwner_clsKept ..
          · exact (ClsKept.of_keeps (poisonRead_keeps ..)).trans (failOwner_clsKept ..)
          · refine .trans (.trans (.trans (.trans (hput _) (.of_tasks (forJob_touchReads_tasks ..))) (castTo_clsKept ..)) (.of_keeps (bump_keeps ..))) (ih _)

/-! ### A granule keeps its task's class -/

/-- A granule that goes on leaves its task of class `c`. -/
def GoesAs (c : Nat) : StepRes → Prop
  | .go t _ => t.cls = c
  | _ => True

/-- Every task of that identifier is of the class. -/
def AllCls (id c : Nat) (s : State) : Prop := ∀ x ∈ s.tasks, x.id = id → x.cls = c

variable {c : Nat} {x : Task}

theorem ClsKept.allCls {id : Nat} (h : ClsKept s t) (hs : AllCls id c s) : AllCls id c t := fun y hy hid => by
  obtain ⟨x, hx, hid', hcls⟩ := h.held y hy
  exact hcls ▸ hs x hx (hid'.trans hid)

theorem allCls_putTask {y : Task} (hid : y.id = x.id) (hy : y.cls = c) (s : State) : AllCls x.id c (putTask y s) := fun z hz hzid => by
  obtain ⟨w, -, rfl⟩ := List.mem_map.mp hz
  split at hzid
  · next h => rw [if_pos h]; exact hy
  · next h => exact absurd (hzid.trans hid.symm) h

theorem current_cls {y : Task} (hid : y.id = x.id) (hy : y.cls = c) (hs : AllCls x.id c s) : (current y s).cls = c := by
  unfold current
  cases h : findTask s y.id with
  | none => exact hy
  | some z => exact hs z (findTask_mem h) ((findTask_id h).trans hid)

namespace GoesAs

theorem ite {p : Prop} [Decidable p] {a b : StepRes} (ha : GoesAs c a) (hb : GoesAs c b) : GoesAs c (if p then a else b) := by
  split
  · exact ha
  · exact hb

theorem readSpans {rs : List (Nat × Nat)} {k : State → StepRes} (h : ∀ v, GoesAs c (k v)) :
    GoesAs c (Sys2Proof.Machine.readSpans x rs s k) := by
  unfold Sys2Proof.Machine.readSpans
  split
  · trivial
  · trivial
  · trivial
  · split
    · trivial
    · exact h _

theorem lsChecked {rs : List (Nat × Nat)} {k : State → StepRes} (h : ∀ v, GoesAs c (k v)) :
    GoesAs c (Sys2Proof.Machine.lsChecked x rs s k) := by
  unfold Sys2Proof.Machine.lsChecked
  refine .ite (h s) ?_
  split
  · trivial
  · exact h _

theorem writeBuf {b : Buf} {k : State → StepRes} (h : ∀ v, GoesAs c (k v)) : GoesAs c (Sys2Proof.Machine.writeBuf x b s k) := by
  unfold Sys2Proof.Machine.writeBuf
  split
  · trivial
  · trivial
  · trivial
  · exact h _

theorem generate {i n : Nat} {k : State → StepRes} (h : ∀ v, GoesAs c (k v)) :
    GoesAs c (Sys2Proof.Machine.generate x i n s k) := by
  unfold Sys2Proof.Machine.generate
  extract_lets
  exact .ite trivial (h _)

end GoesAs

theorem matRow_goesAs (x : Task) (s : State) : GoesAs x.cls (matRow x s) := by
  unfold matRow
  extract_lets
  refine .ite trivial ?_
  split
  · trivial
  · refine .lsChecked fun v => ?_
    unfold rowDone
    extract_lets
    exact .ite (.ite rfl rfl) rfl

theorem vecStep_goesAs (x : Task) (s : State) : GoesAs x.cls (vecStep x s) := by
  unfold vecStep
  extract_lets
  refine .ite (.ite (.writeBuf fun _ => rfl) rfl) (.ite (.ite (.writeBuf fun _ => rfl) rfl) (.ite ?_ ?_))
  · exact .generate fun _ => .writeBuf fun _ => rfl
  · exact .generate fun _ => .writeBuf fun _ => rfl

theorem funStep_goesAs (x : Task) (s : State) : GoesAs x.cls (funStep x s) := .writeBuf fun _ => rfl

theorem loadStep_goesAs (x : Task) (s : State) : GoesAs x.cls (loadStep x s) := .ite trivial rfl

theorem updStep_goesAs (x : Task) (s : State) : GoesAs x.cls (updStep x s) := by
  unfold updStep
  extract_lets
  refine .readSpans fun v => ?_
  extract_lets
  exact .generate fun _ => .writeBuf fun _ => rfl

/-! A granule of a REDUCE task goes on with the task as the state holds it. -/

theorem armStep_goesAs (x : Task) (s : State) : GoesAs x.cls (armStep x s) := by
  unfold armStep
  split
  · trivial
  · extract_lets
    split
    · trivial
    · trivial
    · rfl

theorem withReads_goesAs {spans : List (Nat × Nat)} {ps : State → List RaPkt} {k : State → State}
    (hk : ∀ v, ClsKept v (k v)) : GoesAs x.cls (withReads x spans ps s k) := by
  refine .ite trivial (.readSpans fun v => ?_)
  extract_lets y u
  have hu : AllCls x.id x.cls u := (hk _).allCls (allCls_putTask rfl rfl v)
  exact .ite (current_cls rfl rfl hu) trivial

theorem fetchFinite_goesAs (x : Task) (s : State) : GoesAs x.cls (fetchFinite x s) := by
  refine .ite trivial ?_
  extract_lets dev k u y
  have hu : AllCls x.id x.cls u := (issue_clsKept ..).allCls (allCls_putTask rfl rfl s)
  exact .ite (current_cls rfl rfl hu : y.cls = x.cls) trivial

/-- The task as the catch-up of one of its members leaves it. -/
theorem caughtUp_cls {y : Task} (hid : y.id = x.id) (hy : y.cls = x.cls) (n r : Nat) (s : State) :
    (current y (catchUp n x.id r (putTask y s))).cls = x.cls :=
  current_cls hid hy ((catchUp_clsKept ..).allCls (allCls_putTask hid hy s))

theorem castEach_goesAs (kind c r : Nat) (ps : List CastPkt) (i : Nat) (x : Task) (s : State) :
    GoesAs x.cls (castEach kind c r ps i x s) := by
  induction ps generalizing i x s with
  | nil => rfl
  | cons p ps ih =>
    refine .ite (.ite (caughtUp_cls rfl rfl ..) rfl) (.ite trivial (.readSpans fun v => ?_))
    extract_lets y u z
    have hz : z.cls = x.cls := current_cls rfl rfl ((castTo_clsKept ..).allCls (allCls_putTask (y := y) rfl rfl v))
    exact .ite (hz ▸ ih ..) trivial

theorem castStep_goesAs (x : Task) (s : State) (kind c r : Nat) : GoesAs x.cls (castStep x s kind c r) :=
  .ite (caughtUp_cls rfl rfl ..) (castEach_goesAs ..)

theorem allGranule_goesAs (x : Task) (s : State) : GoesAs x.cls (allGranule x s) := by
  unfold allGranule
  extract_lets st i bk one tsz
  split
  · trivial
  · split
    · split
      · exact withReads_goesAs fun v => toMember_clsKept ..
      · exact .ite (fetchFinite_goesAs ..) (withReads_goesAs fun v => toMember_clsKept ..)
    · exact withReads_goesAs fun v => .foldl (fun _ _ => sendHop_clsKept ..) _ v
    · exact withReads_goesAs fun v => (flagOut_clsKept ..).trans (sendHop_clsKept ..)
    · exact withReads_goesAs fun v => .foldl (fun _ _ => sendRa_clsKept ..) _ v
    · exact castStep_goesAs ..
    · exact withReads_goesAs fun v => (flagOut_clsKept ..).trans (sendRa_clsKept ..)
    · refine .ite rfl (.ite (.readSpans fun _ => .writeBuf fun _ => ?_) ?_)
      · exact .ite rfl (castStep_goesAs ..)
      · exact .ite rfl (castStep_goesAs ..)
    · exact withReads_goesAs fun v => (flagOut_clsKept ..).trans (toMember_clsKept ..)

theorem redStep_goesAs (x : Task) (s : State) : GoesAs x.cls (redStep x s) := by
  unfold redStep
  split
  · exact armStep_goesAs x s
  · extract_lets st n i r
    have hr : GoesAs x.cls r := .ite (allGranule_goesAs ..) (.ite rfl (castStep_goesAs ..))
    clear_value r
    cases r with
    | wait => trivial
    | fail f u => trivial
    | go y u => exact .ite hr hr

end Sys2Proof.Machine
end

section
/-! SUPPORT. Slices of work, granule by granule. -/

namespace Sys2Proof.Machine

variable {s u : State} {t : Task} {a : Adm} {k cycles : Nat}

/-! ### What a slice command comes to -/

/-- The state after one granule's outcome in a slice, the task and the state before it having the cycles charged. -/
def granuleDone (t : Task) (s : State) (stop : Nat) (total : Task → Nat) (drains : Task → Bool) : StepRes → State
  | .wait => putTask t s
  | .fail f v => finish t f v
  | .go x v =>
    if x.parked then leaveEngine x (endSlice x (putTask x v))
    else if stop ≤ x.pos then sliceOver x (total x) (drains x) (putTask x v)
    else putTask x v

/-- What a slice command asks of the task at its engine's front, but for the class and the operation. -/
structure Sliced (s : State) (t : Task) (a : Adm) : Prop where
  found : findTask s t.id = some t
  front : (getEng s t.eng).queue.head? = some a
  mine : a.task = t.id
  started : (getEng s t.eng).started = true
  draining : (getEng s t.eng).draining = false
  phase : t.phase = .dispatched
  status : t.status = 0
  refetch : t.refetch = none
  parked : t.parked = false
  nacked : t.nacked = none
  running : running s = true
  held : ladleHeld s t = false

theorem State.inSlice.sliced (h : s.inSlice t a k cycles) : Sliced s t a := by
  obtain ⟨h1, h2, h3, h4, h5, h6, h7, h8, h9, h10, h11, h12, -, -⟩ := h
  exact ⟨h1, h2, h3, h4, h5, h6, h7, h8, h9, h10, h11, h12⟩

variable {mine : Task → Bool} {total : Task → Nat} {drains : Task → Bool} {step : Task → State → StepRes}

theorem runSlice_of_found (hf : findTask s t.id = some t) (hm : mine t = false) : runSlice t.id k cycles mine total drains step s = s := by
  unfold runSlice
  rw [hf]
  dsimp only
  split
  · rfl
  · exact if_pos (.inr (.inr (.inl hm)))

/-- A slice command of the task's own class and operation, on a slice begun. -/
theorem Sliced.runSlice (h : Sliced s t a) (hm : mine t = true) :
    runSlice t.id k cycles mine total drains step s = forJob t.job (fun v =>
      let s0 := chargeSlice t a.stop k cycles v
      let t0 := t.charged cycles
      match engFault t0 s0 with
      | some s1 => finish t0 { status := 9 } s1
      | none =>
        match runGranules step a.stop k t0 s0 with
        | .fail f t1 s1 => finish t1 f s1
        | .done t1 s1 =>
          let s2 := putTask t1 s1
          if t1.parked then leaveEngine t1 (endSlice t1 s2)
          else if a.stop ≤ t1.pos then sliceOver t1 (total t1) (drains t1) s2
          else s2) s := by
  unfold Machine.runSlice
  rw [h.found]
  dsimp only
  have hq := h.front
  split
  · next heq => rw [heq] at hq; cases hq
  · next b l heq =>
    obtain rfl : b = a := by rw [heq] at hq; exact Option.some.inj hq
    rw [if_neg (by simp [h.mine, h.draining, hm, h.phase, h.status, h.refetch, h.parked, h.nacked, h.running, h.held])]
    refine congrArg (fun f => forJob t.job f s) (funext fun v => ?_)
    rw [if_pos h.started] <;> rfl

theorem runSlice_granule (h : s.inSlice t a 1 cycles) (hm : mine t = true) :
    runSlice t.id 1 cycles mine total drains step s =
      { granuleDone (t.charged cycles) (s.charged t a.stop 1 cycles) a.stop total drains
          (step (t.charged cycles) (s.charged t a.stop 1 cycles)) with actJob := s.actJob } := by
  have hs := State.inSlice.sliced h
  rw [hs.runSlice hm]
  obtain ⟨-, -, -, -, -, -, -, -, -, -, -, -, hpos, hfault⟩ := h
  refine congrArg (fun v : State => { v with actJob := s.actJob }) ?_
  have hstop : ¬ (a.stop ≤ (t.charged cycles).pos ∨ (t.charged cycles).parked = true) :=
    not_or_intro (Nat.not_le.mpr hpos) (Bool.eq_false_iff.mp hs.parked)
  change (match engFault (t.charged cycles) (s.charged t a.stop 1 cycles) with | some s1 => _ | none => _) = _
  rw [hfault]
  change (match runGranules step a.stop 1 (t.charged cycles) (s.charged t a.stop 1 cycles) with | .fail f t1 s1 => _ | .done t1 s1 => _) = _
  unfold runGranules
  rw [if_neg hstop]
  cases step (t.charged cycles) (s.charged t a.stop 1 cycles) with
  | wait =>
    obtain ⟨hgo, hpark⟩ := not_or.mp hstop
    exact (if_neg hpark).trans (if_neg hgo)
  | fail f v => rfl
  | go x v => rfl

/-! ### The commands -/

/-- A command that runs granules of a slice: of which class and operation, and what a granule of it does. -/
structure RunsSlices (s : State) (id k cycles : Nat) (x : Instr × Nat × Nat × (Task → State → StepRes)) : Prop where
  runs : ∃ mine total drains, exec x.1 s = .next (runSlice id k cycles mine total drains x.2.2.2 s) ∧
    (∀ t, mine t = (t.cls == x.2.1 && t.op == x.2.2.1)) ∧ (∀ t, t.cls = x.2.1 → total t = granTotal s t) ∧
    ∀ t, drains t = (x.2.1 == 1)
  goes : ∀ t v, GoesAs t.cls (x.2.2.2 t v)

theorem granTotal_matrix (h : t.cls = 1) : matTotal t = granTotal s t := (if_pos h).symm

theorem granTotal_vector (h : t.cls = 2 ∨ t.cls = 3) : vecTotal t = granTotal s t := by
  unfold granTotal
  rw [if_neg (by omega), if_pos h]

theorem granTotal_update (h : t.cls = 4) : updTotal t = granTotal s t := by
  unfold granTotal
  rw [if_neg (by omega), if_neg (by omega), if_pos h]

theorem granTotal_reduce (h : t.cls = 6) : redTotal s t = granTotal s t := by
  unfold granTotal
  rw [if_neg (by omega), if_neg (by omega), if_neg (by omega)]

variable {id op : Nat} {c : Instr}

theorem runsSlices_matrix (h : exec c s = .next (matSlice op id k cycles s)) : RunsSlices s id k cycles (c, 1, op, matRow) where
  runs := ⟨_, _, _, h, fun _ => rfl, fun _ => granTotal_matrix, fun _ => rfl⟩
  goes := matRow_goesAs

theorem runsSlices_vector (h : exec c s = .next (vecSlice op id k cycles s)) : RunsSlices s id k cycles (c, 2, op, vecStep) where
  runs := ⟨_, _, _, h, fun _ => rfl, fun _ ht => granTotal_vector (.inl ht), fun _ => rfl⟩
  goes := vecStep_goesAs

theorem runsSlices_function (hop : op ≠ 2) (h : exec c s = .next (funSlice op id k cycles s)) :
    RunsSlices s id k cycles (c, 3, op, funStep) where
  runs := by
    unfold funSlice at h
    rw [if_neg hop] at h
    exact ⟨_, _, _, h, fun _ => rfl, fun _ ht => granTotal_vector (.inr ht), fun _ => rfl⟩
  goes := funStep_goesAs

theorem runsSlices_load (h : exec c s = .next (funSlice 2 id k cycles s)) : RunsSlices s id k cycles (c, 3, 2, loadStep) where
  runs := ⟨_, _, _, h, fun _ => rfl, fun _ ht => granTotal_vector (.inr ht), fun _ => rfl⟩
  goes := loadStep_goesAs

theorem runsSlices_update (h : exec c s = .next (updSlice op id k cycles s)) : RunsSlices s id k cycles (c, 4, op, updStep) where
  runs := ⟨_, _, _, h, fun _ => rfl, fun _ => granTotal_update, fun _ => rfl⟩
  goes := updStep_goesAs

theorem runsSlices_reduce (h : exec c s = .next (redSlice op id k cycles s)) : RunsSlices s id k cycles (c, 6, op, redStep) where
  runs := ⟨_, _, _, h, fun _ => rfl, fun _ => granTotal_reduce, fun _ => rfl⟩
  goes := redStep_goesAs

theorem sliceCommands_runSlices (s : State) (id k cycles : Nat) : ∀ x ∈ sliceCommands id k cycles, RunsSlices s id k cycles x := by
  simp only [sliceCommands, List.forall_mem_cons]
  exact ⟨runsSlices_matrix rfl, runsSlices_matrix rfl,
    runsSlices_vector rfl, runsSlices_vector rfl, runsSlices_vector rfl, runsSlices_vector rfl, runsSlices_vector rfl,
    runsSlices_vector rfl, runsSlices_vector rfl, runsSlices_vector rfl, runsSlices_vector rfl, runsSlices_vector rfl,
    runsSlices_vector rfl, runsSlices_vector rfl, runsSlices_vector rfl, runsSlices_vector rfl,
    runsSlices_function (by decide) rfl, runsSlices_function (by decide) rfl, runsSlices_load rfl,
    runsSlices_update rfl, runsSlices_update rfl, runsSlices_update rfl,
    runsSlices_reduce rfl, runsSlices_reduce rfl, runsSlices_reduce rfl, nofun⟩

/-! ### A slice that is over -/

/-- The engine whose first slice is over, and nothing else of it. -/
def nextSliced (g : Eng) : Eng := { g with queue := g.queue.drop 1, started := false }

theorem findTask_endSlice (t : Task) {x : Task} (h : findTask s t.id = some x) :
    findTask (endSlice t s) t.id = some { t with run := 0 } :=
  findTask_putTask (setEng t.eng (nextSliced (getEng s t.eng)) s) { t with run := 0 } x h

theorem getEng_endSlice (t : Task) (s : State) (e : Nat) :
    getEng (endSlice t s) e = if e = t.eng then nextSliced (getEng s t.eng) else getEng s e := getEng_setEng ..

theorem endSlice_aborting (t : Task) (s : State) : (endSlice t s).tck.aborting = s.tck.aborting :=
  congrArg Tck.aborting ((endSlice_keeps t s).1 .tck (by decide))

theorem getEng_leaveEngine_ne {e : Nat} (h : e ≠ t.eng) (s : State) : getEng (leaveEngine t s) e = getEng s e := by
  unfold leaveEngine
  rw [getEng_setEng, if_neg h]

theorem getEng_leaveSlices_ne {e : Nat} (h : e ≠ t.eng) (s : State) : getEng (leaveSlices t s) e = getEng s e := by
  unfold leaveSlices
  rw [getEng_setEng, if_neg h]

theorem getEng_finish_ne {e : Nat} (h : e ≠ t.eng) (hd : t.direct = none) (f : Fail) (s : State) :
    getEng (finish t f s) e = getEng s e := by
  obtain ⟨g, -, heq⟩ := finish_queued hd f s
  rw [heq]
  split
  · exact getEng_leaveSlices_ne h _
  · exact getEng_leaveEngine_ne h _

/-- Where the work is over, or an abort ends the task, it has ended with its status. -/
theorem findTask_finish_endSlice {x : Task} (h : findTask s t.id = some x) (hd : t.direct = none) (f : Fail) :
    ∃ w, findTask (finish { t with run := 0 } f (endSlice t s)) t.id = some w ∧ w.phase = .complete ∧
      w.status = if s.tck.aborting.contains t.id then 2 else f.status := by
  refine ⟨_, findTask_finish (t := { t with run := 0 }) f (findTask_endSlice t h) hd, rfl, ?_⟩
  unfold endedTask
  rw [endSlice_aborting]
  dsimp only
  split <;> rfl

section SliceOver

variable {x : Task} {n : Nat} {b : Bool}

theorem sliceOver_goesOn (hpos : t.pos < n) (hab : s.tck.aborting.contains t.id = false) :
    sliceOver t n b s = endSlice t s := by
  unfold sliceOver
  extract_lets t1 s1
  rw [if_neg (Nat.not_le.mpr hpos), if_neg]
  rw [endSlice_aborting, hab]
  exact Bool.false_ne_true

theorem sliceOver_aborted (hab : s.tck.aborting.contains t.id = true) :
    ∃ f, sliceOver t n b s = finish { t with run := 0 } f (endSlice t s) := by
  unfold sliceOver
  extract_lets t1 s1
  have hab1 : s1.tck.aborting.contains t1.id = true := by rw [endSlice_aborting]; exact hab
  by_cases hpos : n ≤ t.pos
  · exact ⟨_, (if_pos hpos).trans (if_neg fun h => Bool.false_ne_true (h.2.symm.trans hab1))⟩
  · exact ⟨_, (if_neg hpos).trans (if_pos hab1)⟩

theorem sliceOver_ends (hpos : n ≤ t.pos) : sliceOver t n false s = finish { t with run := 0 } { status := 1 } (endSlice t s) :=
  (if_pos hpos).trans (if_neg fun h => Bool.false_ne_true h.1)

theorem sliceOver_drains (hpos : n ≤ t.pos) (hab : s.tck.aborting.contains t.id = false) : sliceOver t n true s =
    if t.cls = 5 then putTask { t with run := 0 } (endSlice t s)
    else leaveEngine { t with run := 0 } (putTask { t with run := 0 } (endSlice t s)) := by
  refine (if_pos hpos).trans (if_pos ⟨rfl, ?_⟩)
  rw [endSlice_aborting]
  exact hab

theorem running_leaveEngine (h : (getEng s t.eng).running = some t.id) :
    (getEng (leaveEngine t s) t.eng).running = (getEng s t.eng).further := by
  unfold leaveEngine
  rw [getEng_setEng, if_pos rfl, h]
  exact if_pos (beq_self_eq_true _)

theorem findTask_sliceOver_drains (hf : findTask s t.id = some x) (hpos : n ≤ t.pos) (hab : s.tck.aborting.contains t.id = false) :
    findTask (sliceOver t n true s) t.id = some { t with run := 0 } := by
  have hput := findTask_putTask _ { t with run := 0 } _ (findTask_endSlice t hf)
  rw [sliceOver_drains hpos hab]
  split
  · exact hput
  · exact hput

theorem running_sliceOver_drains (hpos : n ≤ t.pos) (hab : s.tck.aborting.contains t.id = false) (hcls : t.cls ≠ 5)
    (hrun : (getEng s t.eng).running = some t.id) : (getEng (sliceOver t n true s) t.eng).running = (getEng s t.eng).further := by
  have hend : getEng (endSlice t s) t.eng = nextSliced (getEng s t.eng) := (getEng_endSlice ..).trans (if_pos rfl)
  rw [sliceOver_drains hpos hab, if_neg hcls]
  refine Eq.trans (b := (getEng (endSlice t s) t.eng).further)
    (running_leaveEngine (t := { t with run := 0 }) (s := putTask { t with run := 0 } (endSlice t s)) ?_) ?_
  · exact (congrArg Eng.running hend).trans hrun
  · exact (congrArg Eng.further hend).trans rfl

theorem getEng_sliceOver_ne {e : Nat} (h : e ≠ t.eng) (hd : t.direct = none) : getEng (sliceOver t n b s) e = getEng s e := by
  have hend : getEng (endSlice t s) e = getEng s e := (getEng_endSlice ..).trans (if_neg h)
  have hfin (f : Fail) : getEng (finish { t with run := 0 } f (endSlice t s)) e = getEng s e :=
    (getEng_finish_ne (t := { t with run := 0 }) h hd f _).trans hend
  cases hab : s.tck.aborting.contains t.id with
  | true =>
    obtain ⟨f, heq⟩ := sliceOver_aborted hab (n := n) (b := b)
    rw [heq]
    exact hfin f
  | false =>
    by_cases hpos : n ≤ t.pos
    · cases b with
      | false => rw [sliceOver_ends hpos]; exact hfin _
      | true =>
        rw [sliceOver_drains hpos hab]
        split
        · exact hend
        · exact (getEng_leaveEngine_ne (t := { t with run := 0 }) h _).trans hend
    · rw [sliceOver_goesOn (Nat.not_le.mp hpos) hab]
      exact hend

theorem sliceOver_queued_keeps (t : Task) (hd : t.direct = none) (n : Nat) (b : Bool) (s : State) :
    Keeps [.tasks, .eng] s (sliceOver t n b s) := by
  have hend : Keeps [.tasks, .eng] s (endSlice t s) := endSlice_keeps t s
  unfold sliceOver workDone
  extract_lets t1 s1
  have hfin (f : Fail) : Keeps [.tasks, .eng] s (finish t1 f s1) := hend.step (finish_queued_keeps (t := t1) hd f s1)
  have hput : Keeps [.tasks, .eng] s (putTask t1 s1) := hend.step (putTask_keeps ..)
  refine .ite (fun _ => .ite (fun _ => .ite (fun _ => hput) fun _ => hput.step (leaveEngine_keeps ..)) fun _ => hfin _) fun _ => ?_
  exact .ite (fun _ => hfin _) fun _ => hend

end SliceOver

/-! ### An error of the engine's checks -/

/-- With an error that one of the engine's checks finds, the task ends with ENGINE_FAULT. -/
theorem Sliced.runSlice_engFault (h : Sliced s t a) (hm : mine t = true)
    (hfault : engFault (t.charged cycles) (s.charged t a.stop k cycles) = some u) :
    Machine.runSlice t.id k cycles mine total drains step s =
      forJob t.job (fun _ => finish (t.charged cycles) { status := 9 } u) s := by
  rw [h.runSlice hm]
  refine forJob_congr ?_
  change (match engFault (t.charged cycles) (s.charged t a.stop k cycles) with | some s1 => _ | none => _) = _
  rw [hfault]

theorem charged_keeps (s : State) (t : Task) (stop k cycles : Nat) :
    Keeps [.cnt, .tck, .arr, .act, .actJob] s (s.charged t stop k cycles) :=
  (Keeps.refl.set_actJob t.job).step (chargeSlice_keeps ..)

theorem charged_aborting (s : State) (t : Task) (stop k cycles : Nat) :
    (s.charged t stop k cycles).tck.aborting = s.tck.aborting := by
  unfold State.charged chargeSlice
  extract_lets s1 s2
  have h1 : s1.tck = s.tck := by
    refine Eq.trans (b := ({ s with actJob := t.job } : State).tck) ?_ rfl
    show (ite _ _ _ : State).tck = _
    split
    · exact (chargeRows_keeps ..).1 .tck (by decide)
    · rfl
  have h2 : s2.tck.aborting = s.tck.aborting := congrArg Tck.aborting (((busyCount_keeps ..).1 .tck (by decide)).trans h1)
  split
  · exact h2
  · refine Eq.trans ?_ h2
    unfold markAlive
    dsimp only
    split
    · exact congrArg Tck.aborting ((bump_keeps ..).1 .tck (by decide))
    · rfl

theorem findTask_forJob (job id : Nat) (f : State → State) (s : State) :
    findTask (forJob job f s) id = findTask (f { s with actJob := job }) id := rfl

/-- What the checks' error leaves: the task ended, and memory as it was. -/
theorem engFault_ends (hf : findTask s t.id = some t) (hd : t.direct = none) (hab : s.tck.aborting.contains t.id = false)
    (hfault : engFault (t.charged cycles) (s.charged t a.stop k cycles) = some u) :
    let v := forJob t.job (fun _ => finish (t.charged cycles) { status := 9 } u) s
    ∃ w, findTask v t.id = some w ∧ w.phase = .complete ∧ w.status = 9 ∧ v.mem = s.mem ∧
      State.onlyChanges [.out, .regs, .cnt, .tasks, .eng, .tck, .upset, .cross, .rel, .arr, .act, .sys, .free] s v := by
  have hu : Keeps [.out, .regs, .cnt, .eng, .tck, .upset, .cross, .rel, .arr, .act, .sys, .free, .actJob] s u :=
    ((charged_keeps s t a.stop k cycles).mono (by decide)).step ((engFault_keeps ..).some hfault)
  have huc : Keeps [.out, .regs, .eng, .upset, .cross, .rel, .arr, .sys, .free] (s.charged t a.stop k cycles) u :=
    (engFault_keeps ..).some hfault
  have hab' : u.tck.aborting.contains t.id = false := by
    rw [huc.1 .tck (by decide), charged_aborting]
    exact hab
  have hfu : findTask u (t.charged cycles).id = some t := (findTask_congr (hu.1 .tasks (by decide)) t.id).trans hf
  have hfin := findTask_finish (t := t.charged cycles) (s := u) { status := 9 } hfu hd
  have hkeeps := forJob_keeps (ps := [.out, .regs, .cnt, .tasks, .eng, .tck, .upset, .cross, .rel, .arr, .act, .sys, .free]) (j := t.job)
    (f := fun _ => finish (t.charged cycles) { status := 9 } u) (.refl (s := s))
    fun _ _ => (hu.mono (by decide)).step (finish_queued_keeps (t := t.charged cycles) hd { status := 9 } u)
  intro v
  refine ⟨_, (findTask_forJob ..).trans hfin, rfl, ?_, hkeeps.1 .mem (by decide), hkeeps.1⟩
  show (if u.tck.aborting.contains t.id then { status := 2 } else { status := 9 } : Fail).status = 9
  rw [hab']
  rfl

/-- Settles O17: a slice command is one granule of the task's own step, the slice's end leaves the engine to the next slice,
and no step changes the class by which the work's length is counted. -/
theorem slicesRunGranuleByGranule : Obligations.SlicesRunGranuleByGranule := by
  unfold Obligations.SlicesRunGranuleByGranule
  refine ⟨fun s t a cycles c cls op step hc hs => ?_, fun s t n b ⟨x, hx⟩ hphase hd => ?_, fun s u t a k cycles c cls op step hc => ?_⟩
  · obtain ⟨⟨mine, total, drains, hexec, hmine, htotal, hdrains⟩, hgoes⟩ := sliceCommands_runSlices s t.id 1 cycles _ hc
    have hnext (hcls : t.cls = cls) (hop : t.op = op) := hexec.trans (congrArg Host.Outcome.next
      (runSlice_granule hs (by rw [hmine, hcls, hop]; simp) (total := total) (drains := drains) (step := step)))
    refine ⟨fun hcls hop y v hgo => ?_, fun hcls hop hwait => ?_, fun hcls hop f v hfail => ?_, fun hne => ?_⟩
    · have hy : y.cls = cls := by
        have hy : GoesAs t.cls (step (t.charged cycles) (s.charged t a.stop 1 cycles)) := hgoes ..
        rw [hgo] at hy
        exact hy.trans hcls
      have hnext := hnext hcls hop
      rw [hgo] at hnext
      refine ⟨fun hpark hpos => hnext.trans ?_, fun hpark hpos => hnext.trans ?_, fun hpark => hnext.trans ?_⟩
      · simp only [granuleDone, hpark, if_neg (Nat.not_le.mpr hpos), Bool.false_eq_true, if_false]
      · simp only [granuleDone, hpark, if_pos hpos, Bool.false_eq_true, if_false, htotal y hy, hdrains, hcls]
      · simp only [granuleDone, hpark, if_true]
    · rw [hnext hcls hop, hwait]
      rfl
    · rw [hnext hcls hop, hfail]
      rfl
    · refine hexec.trans (congrArg Host.Outcome.next (runSlice_of_found hs.1 ?_))
      rw [hmine]
      simpa [← not_and_or] using hne
  · intro u
    refine ⟨fun hpos hab => ?_, fun hab => ?_, fun hpos hb hab => ?_, fun hpos hb hab => ?_, fun e he => getEng_sliceOver_ne he hd,
      (sliceOver_queued_keeps t hd n b s).1⟩
    · rw [show u = endSlice t s from sliceOver_goesOn hpos hab]
      exact ⟨findTask_endSlice t hx, (getEng_endSlice ..).trans (if_pos rfl)⟩
    · obtain ⟨f, heq⟩ := sliceOver_aborted hab (n := n) (b := b)
      obtain ⟨w, hw, hdone, hst⟩ := findTask_finish_endSlice hx hd f
      exact ⟨w, (congrArg (findTask · t.id) heq).trans hw, hdone, hst.trans (if_pos hab)⟩
    · subst hb
      obtain ⟨w, hw, hdone, hst⟩ := findTask_finish_endSlice hx hd { status := 1 }
      exact ⟨w, (congrArg (findTask · t.id) (sliceOver_ends hpos)).trans hw, hdone, hst.trans (if_neg (Bool.eq_false_iff.mp hab))⟩
    · subst hb
      exact ⟨findTask_sliceOver_drains hx hpos hab, running_sliceOver_drains hpos hab⟩
  · intro hcls hop hf hq ha hst hdr hph hs hrf hpk hnk hrun hheld hd hab hfault
    obtain ⟨⟨mine, total, drains, hexec, hmine, -, -⟩, -⟩ := sliceCommands_runSlices s t.id k cycles _ hc
    have hsl : Sliced s t a := ⟨hf, hq, ha, hst, hdr, hph, hs, hrf, hpk, hnk, hrun, hheld⟩
    obtain ⟨w, hw⟩ := engFault_ends hf hd hab hfault
    exact ⟨_, w, hexec.trans (congrArg Host.Outcome.next (hsl.runSlice_engFault (by rw [hmine, hcls, hop]; simp) hfault)), hw⟩

end Sys2Proof.Machine
end

section
/-! SUPPORT. The rows of a matrix product. -/

namespace Sys2Proof.Machine

variable {s s0 u v : State} {t : Task} {a : Adm} {k cycles : Nat}

/-! ### What a task's values depend on -/

/-- Memory, provisional lines and the arrays' banks are the same. -/
structure DataSame (s u : State) : Prop where
  mem : u.mem = s.mem
  prov : u.prov = s.prov
  arr : u.arr = s.arr

theorem DataSame.of_keeps {ps : List Part} (h : Keeps ps s u) (hp : .mem ∉ ps ∧ .prov ∉ ps ∧ .arr ∉ ps := by decide) : DataSame s u :=
  ⟨h.1 .mem hp.1, h.1 .prov hp.2.1, h.1 .arr hp.2.2⟩

namespace DataSame

variable (h : DataSame s u)

include h

theorem viewByte (o : Option Task) (a : Nat) : viewByte u o a = viewByte s o a := by
  unfold Machine.viewByte
  rw [h.mem, h.prov]

theorem tensor_get (x : Tensor) (o : Option Task) (i : List Nat) : x.get u o i = x.get s o i := by
  unfold Tensor.get viewNat viewBytes
  simp only [h.viewByte]

theorem tensor_scale (x : Tensor) (o : Option Task) (i : List Nat) : x.scale u o i = x.scale s o i := by
  unfold Tensor.scale
  rw [h.viewByte]

theorem tensor_raw (x : Tensor) (o : Option Task) (i : List Nat) : x.raw u o i = x.raw s o i := by
  unfold Tensor.raw
  rw [h.tensor_get]

theorem operB (t : Task) (k n : Nat) (bt : List Nat) : operB t u k n bt = operB t s k n bt := by
  unfold Machine.operB getCell
  simp only [getUnit_congr h.arr, getArr_congr h.arr, h.tensor_get]

theorem groupOf (t : Task) (m n : Nat) (bt : List Nat) (k k' : Nat) : groupOf t u m n bt k k' = groupOf t s m n bt k k' := by
  unfold Machine.groupOf products
  simp only [h.tensor_get, h.tensor_raw, h.tensor_scale, h.operB]

theorem rowSums (t : Task) (m n0 n1 kt : Nat) (bt : List Nat) (start : List F32) :
    rowSums t u m n0 n1 kt bt start = rowSums t s m n0 n1 kt bt start := by
  unfold Machine.rowSums runSum heritageSum heritageScale flushedVal
  simp only [h.groupOf, h.tensor_get, h.tensor_scale, h.operB]

end DataSame

/-! ### A unit as a slice is charged -/

theorem chargeRows_unit (t : Task) (stop k cycles : Nat) (s : State) :
    ∃ g, getUnit (chargeRows t stop k cycles s) (arrUnit t.eng).1 (arrUnit t.eng).2 =
      { getUnit s (arrUnit t.eng).1 (arrUnit t.eng).2 with gap := g } := by
  unfold chargeRows
  extract_lets x n idle s1 src s2
  split
  · exact ⟨_, rfl⟩
  · have h1 : getUnit s1 x.1 x.2 = getUnit s x.1 x.2 := by
      refine getUnit_congr (?_ : s1.arr = s.arr) ..
      show (ite _ _ _ : State).arr = _
      split
      · exact ((bump_keeps ..).1 .arr (by decide)).trans ((addAct_keeps ..).1 .arr (by decide))
      · exact (addAct_keeps ..).1 .arr (by decide)
    have h2 : getUnit s2 x.1 x.2 = { getUnit s x.1 x.2 with gap := 0 } := by
      rw [← h1]
      exact getUnit_setUnit_same ..
    refine ⟨0, ?_⟩
    split
    · exact (getUnit_congr ((bump_keeps ..).1 .arr (by decide)) ..).trans h2
    · exact h2

theorem charged_unit (s : State) (t : Task) (stop k cycles : Nat) :
    ∃ g, getUnit (s.charged t stop k cycles) (arrUnit t.eng).1 (arrUnit t.eng).2 =
      { getUnit s (arrUnit t.eng).1 (arrUnit t.eng).2 with gap := g } := by
  have hrest (w : State) : (chargeSlice t stop k cycles w).arr =
      (if t.eng < 32 then chargeRows t stop k cycles w else addAct t.job (actClass t.eng) cycles w).arr := by
    unfold chargeSlice
    extract_lets s1 s2
    have h2 : s2.arr = s1.arr := (busyCount_keeps ..).1 .arr (by decide)
    split
    · exact h2
    · refine ((markAlive_keeps ..).1 .arr (by decide)).trans ?_
      split
      · exact ((bump_keeps ..).1 .arr (by decide)).trans h2
      · exact h2
  unfold State.charged
  rw [getUnit_congr (hrest _)]
  split
  · exact chargeRows_unit t stop k cycles { s with actJob := t.job }
  · exact ⟨_, rfl⟩

theorem charged_climbing (s : State) (t : Task) (stop k cycles : Nat) :
    climbing (s.charged t stop k cycles) (arrUnit t.eng).1 (arrUnit t.eng).2 = climbing s (arrUnit t.eng).1 (arrUnit t.eng).2 := by
  obtain ⟨g, hg⟩ := charged_unit s t stop k cycles
  unfold climbing keepEn regBit
  rw [hg, getReg_congr ((charged_keeps ..).1 .regs (by decide))]

theorem charged_canSwap (s : State) (t : Task) (stop k cycles : Nat) (x : Task) (p : Nat) :
    canSwap (s.charged t stop k cycles) (arrUnit t.eng).1 (arrUnit t.eng).2 x p = canSwap s (arrUnit t.eng).1 (arrUnit t.eng).2 x p := by
  obtain ⟨g, hg⟩ := charged_unit s t stop k cycles
  unfold canSwap
  rw [hg]

theorem tileIn_placed (h : tileIn t s = some s0) : (getUnit s0 (arrUnit t.eng).1 (arrUnit t.eng).2).placed = some t.id := by
  unfold tileIn at h
  extract_lets x at h
  split at h
  · next hp =>
    obtain rfl := Option.some.inj h
    exact beq_iff_eq.mp hp
  · split at h
    · obtain rfl := Option.some.inj h
      unfold swapIn
      rw [getUnit_setUnit_same]
      rfl
    · cases h

theorem tileIn_none (hp : (getUnit s (arrUnit t.eng).1 (arrUnit t.eng).2).placed ≠ some t.id)
    (hc : canSwap s (arrUnit t.eng).1 (arrUnit t.eng).2 t (passOf t t.pos) = false) : tileIn t s = none :=
  (if_neg (by simpa using hp)).trans (if_neg (by simp [hc]))

/-! ### A row -/

/-- The row is the last of its pass. -/
abbrev passEnds (t : Task) : Prop := (place t t.pos).2.2.2 + 1 = rowsOf t (place t t.pos).2.1

/-- The K tile is the last of its block. -/
abbrev lastTile (t : Task) : Prop := (place t t.pos).2.2.1 + 1 = kTiles t

/-- A block's rows, one behind the other. -/
def flatRows (t : Task) (rows : Map (List F32)) : List F32 :=
  (List.range (rowsOf t (place t t.pos).2.1)).flatMap (fun i => mget rows i [])

/-- The task as its row leaves it, with the sums of the block's rows. -/
def taskPastRow (t : Task) (rows : Map (List F32)) : Task :=
  if passEnds t ∧ lastTile t then
    { t with pos := t.pos + 1, rows := [],
             blocks := t.blocks ++ [((place t t.pos).1 * mBlocks t + (place t t.pos).2.1, flatRows t rows)] }
  else { t with pos := t.pos + 1, rows := rows }

/-- The state as the row leaves it. -/
def rowLeft (t : Task) (s : State) : State :=
  let x := arrUnit t.eng
  let page := pageOf .arr x.1 0
  let s1 := bump page 0 x.2 (issueCycles t) s
  if passEnds t then passOver x.1 x.2 (bump page 0 (8 + x.2) 1 s1) else s1

theorem rowDone_eq (t : Task) (rows : Map (List F32)) (s : State) : rowDone t rows s = .go (taskPastRow t rows) (rowLeft t s) := by
  unfold rowDone taskPastRow rowLeft
  extract_lets p x page s1 s2 flat
  by_cases hp : passEnds t
  · by_cases hl : lastTile t
    · rw [if_pos hp, if_pos hl, if_pos ⟨hp, hl⟩, if_pos hp]
      rfl
    · rw [if_pos hp, if_neg hl, if_neg (fun h => hl h.2), if_pos hp]
  · rw [if_neg hp, if_neg (fun h => hp h.1), if_neg hp]

theorem taskPastRow_same (t : Task) (rows : Map (List F32)) : (taskPastRow t rows).id = t.id ∧ (taskPastRow t rows).eng = t.eng ∧
    (taskPastRow t rows).pos = t.pos + 1 ∧ (taskPastRow t rows).phase = t.phase ∧ (taskPastRow t rows).parked = t.parked ∧
    (taskPastRow t rows).cls = t.cls ∧ matTotal (taskPastRow t rows) = matTotal t := by
  unfold taskPastRow
  split
  · exact ⟨rfl, rfl, rfl, rfl, rfl, rfl, rfl⟩
  · exact ⟨rfl, rfl, rfl, rfl, rfl, rfl, rfl⟩

theorem taskPastRow_goesOn {rows : Map (List F32)} (h : ¬ (passEnds t ∧ lastTile t)) :
    (taskPastRow t rows).rows = rows ∧ (taskPastRow t rows).blocks = t.blocks := by
  unfold taskPastRow
  rw [if_neg h]
  exact ⟨rfl, rfl⟩

theorem taskPastRow_blockDone {rows : Map (List F32)} (hp : passEnds t) (hl : lastTile t) : (taskPastRow t rows).rows = [] ∧
    (taskPastRow t rows).blocks = t.blocks ++ [((place t t.pos).1 * mBlocks t + (place t t.pos).2.1, flatRows t rows)] := by
  unfold taskPastRow
  rw [if_pos ⟨hp, hl⟩]
  exact ⟨rfl, rfl⟩

theorem rowLeft_unit (t : Task) (s : State) : getUnit (rowLeft t s) (arrUnit t.eng).1 (arrUnit t.eng).2 =
    if passEnds t then { getUnit s (arrUnit t.eng).1 (arrUnit t.eng).2 with placed := none, front := false }
    else getUnit s (arrUnit t.eng).1 (arrUnit t.eng).2 := by
  have hbump (page i n : Nat) (w : State) : getUnit (bump page 0 i n w) (arrUnit t.eng).1 (arrUnit t.eng).2 =
      getUnit w (arrUnit t.eng).1 (arrUnit t.eng).2 := getUnit_congr ((bump_keeps ..).1 .arr (by decide)) ..
  unfold rowLeft
  extract_lets x page s1
  have h1 : getUnit s1 x.1 x.2 = getUnit s x.1 x.2 := hbump ..
  split
  · unfold passOver
    rw [getUnit_setUnit_same, hbump, h1]
  · exact h1

theorem rowLeft_keeps (t : Task) (s : State) : Keeps [.cnt, .arr] s (rowLeft t s) := by
  have h1 : Keeps [.cnt, .arr] s (bump (pageOf .arr (arrUnit t.eng).1 0) 0 (arrUnit t.eng).2 (issueCycles t) s) :=
    Keeps.refl.step (bump_keeps ..)
  exact .ite (fun _ => (h1.step (bump_keeps ..)).step (passOver_keeps ..)) fun _ => h1

/-- The parts that a row's reads of the local store may change. -/
abbrev rowReads : List Part := [.out, .regs, .cnt, .crm, .hbm, .cw, .ls, .rel, .act, .sys, .free]

/-- The row of the product at the task's place: its number, its contraction indices, its batch and the sums so far. -/
def rowAt (t : Task) : Nat := (place t t.pos).2.1 * blockRows t + (place t t.pos).2.2.2

/-- Its contraction indices. -/
def rowFrom (t : Task) : Nat := (place t t.pos).2.2.1 * tileK t

def rowTo (t : Task) : Nat := min (kc t) (rowFrom t + tileK t)

/-- The sums of its columns so far. -/
def rowStart (t : Task) : List F32 := if (place t t.pos).2.2.1 = 0 then [] else mget t.rows (place t t.pos).2.2.2 []

/-- The sums of the block's rows, once this row has met its contraction indices. -/
def rowsAfter (t : Task) (s : State) : Map (List F32) :=
  mput t.rows (place t t.pos).2.2.2 (rowSums t s (rowAt t) (tileCols t (place t t.pos).1).1 (tileCols t (place t t.pos).1).2
    (place t t.pos).2.2.1 (batchIdx t (place t t.pos).1) (rowStart t))

/-- Words that pass their check go on with what they read. -/
theorem lsChecked_ok {rs : List (Nat × Nat)} {k : State → StepRes} (h : s.ls = [] ∨ needSpans s true rs = .ok) :
    ∃ w, Keeps rowReads s w ∧ lsChecked t rs s k = k w := by
  unfold lsChecked
  by_cases hemp : s.ls.isEmpty = true
  · exact ⟨s, .refl, if_pos hemp⟩
  · refine ⟨_, touchReads_keeps (clsOf t.eng) rs s, (if_neg hemp).trans ?_⟩
    rw [h.resolve_left fun hls => hemp (List.isEmpty_iff.mpr hls)]

/-- A row whose tile is in and whose words pass their check goes on. -/
theorem matRow_goes (hcl : climbing s (arrUnit t.eng).1 (arrUnit t.eng).2 = false) (htile : tileIn t s = some s0)
    (hls : s0.ls = [] ∨ needSpans s0 true (rowSpans t (rowAt t) (rowFrom t) (rowTo t) (batchIdx t (place t t.pos).1)) = .ok) :
    ∃ v, matRow t s = .go (taskPastRow t (rowsAfter t s0)) (rowLeft t v) ∧ Keeps rowReads s0 v := by
  have hrow (w : State) (hw : Keeps rowReads s0 w) : ∃ v, rowDone t (rowsAfter t w)
      (bump (ap (arrUnit t.eng).1 4) 0 2 (feedBytes t (rowTo t - rowFrom t)) w) =
        .go (taskPastRow t (rowsAfter t s0)) (rowLeft t v) ∧ Keeps rowReads s0 v := by
    refine ⟨_, ?_, hw.step (bump_keeps (ap (arrUnit t.eng).1 4) 0 2 (feedBytes t (rowTo t - rowFrom t)) w)⟩
    rw [rowDone_eq, rowsAfter, (DataSame.of_keeps hw).rowSums]
    rfl
  unfold matRow
  extract_lets p x m bt cols k0 k1
  rw [if_neg (by simp [x, hcl]), htile]
  obtain ⟨w, hw, heq⟩ := lsChecked_ok (t := t) (k := fun w => rowDone t (rowsAfter t w)
    (bump (ap (arrUnit t.eng).1 4) 0 2 (feedBytes t (rowTo t - rowFrom t)) w)) hls
  obtain ⟨v, hv, hk⟩ := hrow w hw
  exact ⟨v, heq.trans hv, hk⟩

theorem matRow_waits (h : climbing s (arrUnit t.eng).1 (arrUnit t.eng).2 = true ∨ tileIn t s = none) : matRow t s = .wait := by
  unfold matRow
  extract_lets p x m bt cols k0 k1
  split
  · rfl
  · next hc =>
    rw [h.resolve_left hc]

/-! ### What the slice leaves of it -/

theorem sliceOver_drained_keeps (hab : s.tck.aborting.contains t.id = false) (n : Nat) : Keeps [.tasks, .eng] s (sliceOver t n true s) := by
  have hend : Keeps [.tasks, .eng] s (endSlice t s) := endSlice_keeps t s
  by_cases hpos : n ≤ t.pos
  · rw [sliceOver_drains hpos hab]
    exact .ite (fun _ => hend.step (putTask_keeps ..)) fun _ => (hend.step (putTask_keeps ..)).step (leaveEngine_keeps ..)
  · rw [sliceOver_goesOn (Nat.not_le.mp hpos) hab]
    exact hend

theorem findTask_sliceOver_drained {x : Task} (hf : findTask s t.id = some x) (hab : s.tck.aborting.contains t.id = false) (n : Nat) :
    findTask (sliceOver t n true s) t.id = some { t with run := 0 } := by
  by_cases hpos : n ≤ t.pos
  · exact findTask_sliceOver_drains hf hpos hab
  · rw [sliceOver_goesOn (Nat.not_le.mp hpos) hab]
    exact findTask_endSlice t hf

/-- The state that a granule of a draining task's slice leaves, within the slice or at its stop. -/
def drainedOn (y : Task) (stop n : Nat) (v : State) : State :=
  if stop ≤ y.pos then sliceOver y n true (putTask y v) else putTask y v

structure DrainedOn (y : Task) (stop n : Nat) (v u : State) : Prop where
  found : ∃ w r, findTask u y.id = some w ∧ w = { y with run := r }
  keeps : Keeps [.tasks, .eng] v u
  within : y.pos < stop → u.eng = v.eng
  next : stop ≤ y.pos → y.pos < n → getEng u y.eng = nextSliced (getEng v y.eng)
  leaves : stop ≤ y.pos → n ≤ y.pos → y.cls ≠ 5 → (getEng v y.eng).running = some y.id →
    (getEng u y.eng).running = (getEng v y.eng).further

theorem drainedOn_spec {x y : Task} {stop n : Nat} (hf : findTask v y.id = some x) (hab : v.tck.aborting.contains y.id = false) :
    DrainedOn y stop n v (drainedOn y stop n v) := by
  have hput : findTask (putTask y v) y.id = some y := findTask_putTask v y x hf
  have hkeep : Keeps [.tasks, .eng] v (putTask y v) := (putTask_keeps y v).mono (by decide)
  unfold drainedOn
  by_cases hstop : stop ≤ y.pos
  · rw [if_pos hstop]
    refine ⟨⟨_, 0, findTask_sliceOver_drained hput hab n, rfl⟩, hkeep.step (sliceOver_drained_keeps (s := putTask y v) hab n),
      fun h => absurd hstop (Nat.not_le.mpr h), fun _ hpos => ?_, fun _ hpos hcls hrun => ?_⟩
    · rw [sliceOver_goesOn (s := putTask y v) hpos hab, getEng_endSlice, if_pos rfl]
      rfl
    · exact running_sliceOver_drains (s := putTask y v) hpos hab hcls hrun
  · rw [if_neg hstop]
    exact ⟨⟨_, y.run, hput, rfl⟩, hkeep, fun _ => rfl, fun h => absurd h hstop, fun h => absurd h hstop⟩

theorem rowSums_of_op {op : Nat} (hop : t.op = op) (h : op = 0 ∨ op = 1) (m n0 n1 kt : Nat) (bt : List Nat) (start : List F32) :
    rowSums t s m n0 n1 kt bt start = (List.range (n1 - n0)).map (fun j =>
      if op = 0 then runSum t s m (n0 + j) bt (kt * tileK t) (min (kc t) (kt * tileK t + tileK t)) (start.getD j 0)
      else
        let y := heritageSum t s m (n0 + j) bt (kt * tileK t) (min (kc t) (kt * tileK t + tileK t)) (start.getD j 0)
        if kt + 1 = kTiles t then heritageScale t s y else y) := by
  unfold rowSums heritage
  rw [hop]
  obtain rfl | rfl := h
  · rfl
  · rfl

/-- A row of the product in a slice: the task as the row and the slice's end leave it, and the state. -/
theorem rowInSlice (hs : s.inSlice t a 1 cycles) (hab : s.tck.aborting.contains t.id = false)
    (hcl : climbing s (arrUnit t.eng).1 (arrUnit t.eng).2 = false) (htile : tileIn (t.charged cycles) (s.charged t a.stop 1 cycles) = some s0)
    (hls : s.ls = [] ∨ needSpans s0 true (rowSpans t (rowAt t) (rowFrom t) (rowTo t) (batchIdx t (place t t.pos).1)) = .ok) :
    let y := taskPastRow (t.charged cycles) (rowsAfter (t.charged cycles) s0)
    ∃ v, matRow (t.charged cycles) (s.charged t a.stop 1 cycles) = .go y v ∧
      Keeps (readParts ++ [.tck, .arr, .actJob]) s v ∧
      getUnit v (arrUnit t.eng).1 (arrUnit t.eng).2 = (if passEnds t
        then { getUnit s0 (arrUnit t.eng).1 (arrUnit t.eng).2 with placed := none, front := false }
        else getUnit s0 (arrUnit t.eng).1 (arrUnit t.eng).2) ∧
      DrainedOn y a.stop (matTotal t) v (drainedOn y a.stop (matTotal t) v) := by
  intro y
  have hcharged : Keeps [.cnt, .tck, .arr, .act, .actJob] s (s.charged t a.stop 1 cycles) := charged_keeps ..
  have h0 : Keeps [.cnt, .tck, .arr, .act, .actJob] s s0 := hcharged.step ((tileIn_keeps ..).some htile)
  have hls0 : s0.ls = [] ∨ _ := hls.imp_left (h0.1 .ls (by decide)).trans
  obtain ⟨w, hrow, hw⟩ := matRow_goes (t := t.charged cycles) ((charged_climbing s t a.stop 1 cycles).trans hcl) htile hls0
  have hv : Keeps (readParts ++ [.tck, .arr, .actJob]) s (rowLeft (t.charged cycles) w) :=
    ((h0.mono (by decide)).step hw).step (rowLeft_keeps ..)
  have htck : (rowLeft (t.charged cycles) w).tck = (s.charged t a.stop 1 cycles).tck :=
    (((rowLeft_keeps ..).1 .tck (by decide)).trans (hw.1 .tck (by decide))).trans
      (((tileIn_keeps ..).some htile : Keeps [.arr] _ _).1 .tck (by decide))
  obtain ⟨hid, -⟩ := taskPastRow_same (t.charged cycles) (rowsAfter (t.charged cycles) s0)
  refine ⟨_, hrow, hv, ?_, drainedOn_spec (x := t) ?_ ?_⟩
  · refine (rowLeft_unit (t.charged cycles) w).trans ?_
    rw [getUnit_congr (hw.1 .arr (by decide))]
    rfl
  · rw [hid, findTask_congr (hv.1 .tasks (by decide))]
    exact hs.1
  · rw [hid, htck, charged_aborting]
    exact hab

/-- Settles O20: the row's sums are those of the data it finds, and the slice leaves the task as the row does. -/
theorem matrixRowsCarryTheirSums : Obligations.MatrixRowsCarryTheirSums := by
  unfold Obligations.MatrixRowsCarryTheirSums
  intro s t a cycles op c hc hs hcls hop sc tc x p bt cols k0 k1 start m
  obtain ⟨hexec, hop01⟩ : exec c s = .next (matSlice op t.id 1 cycles s) ∧ (op = 0 ∨ op = 1) := by
    obtain hc | hc : (c, op) = (Instr.matmulProduct t.id 1 cycles, 0) ∨ (c, op) = (.heritageProduct t.id 1 cycles, 1) := by
      simpa using hc
    · cases hc; exact ⟨rfl, .inl rfl⟩
    · cases hc; exact ⟨rfl, .inr rfl⟩
  have hnext := hexec.trans (congrArg Host.Outcome.next
    (runSlice_granule hs (mine := fun t => t.cls == 1 && t.op == op) (by simp [hcls, hop])))
  have hcharged : Keeps [.cnt, .tck, .arr, .act, .actJob] s sc := charged_keeps ..
  have hfc : findTask sc t.id = some t := (findTask_congr (hcharged.1 .tasks (by decide)) t.id).trans hs.1
  refine ⟨?_, fun hwait => ?_⟩
  · intro s0 hab hcl htile hls sums rows
    have hrows : rowsAfter tc s0 = rows :=
      congrArg (mput t.rows p.2.2.2) (rowSums_of_op (t := tc) hop hop01 m cols.1 cols.2 p.2.2.1 bt start)
    obtain ⟨v, hrow, hv, hunit, hdrained⟩ := rowInSlice hs hab hcl htile hls
    rw [hrows] at hrow hdrained
    obtain ⟨hid, heng, hpos, hphase, hpark, hcls', htotal⟩ := taskPastRow_same tc rows
    obtain ⟨⟨w, r, hw, rfl⟩, hkeeps, hwithin, hnextSlice, hleaves⟩ := hdrained
    rw [hid] at hw hleaves
    rw [hpos] at hwithin hnextSlice hleaves
    rw [heng] at hnextSlice hleaves
    have hgran : granuleDone tc sc a.stop matTotal (fun _ => true) (matRow tc sc) = drainedOn (taskPastRow tc rows) a.stop (matTotal t) v := by
      have hparked : tc.parked = false := (State.inSlice.sliced hs).parked
      rw [hrow, ← show matTotal (taskPastRow tc rows) = matTotal t from htotal]
      exact if_neg (by rw [show (taskPastRow tc rows).parked = tc.parked from hpark, hparked]; decide)
    have hplaced : (getUnit s0 x.1 x.2).placed = some t.id := tileIn_placed htile
    generalize drainedOn (taskPastRow tc rows) a.stop (matTotal t) v = z at *
    rw [hgran] at hnext
    have harr : z.arr = v.arr := hkeeps.1 .arr (by decide)
    have heng0 (e : Nat) : getEng v e = getEng s e := by
      unfold getEng
      rw [hv.1 .eng (by decide)]
    have hall := forJob_keeps (ps := readParts ++ [.tasks, .tck, .arr, .eng]) (j := t.job) (f := fun _ => z) (.refl (s := s))
      fun _ _ => (hv.mono (by decide)).step hkeeps
    rw [heng0] at hnextSlice hleaves
    have hu : getUnit z x.1 x.2 = _ := (getUnit_congr harr ..).trans hunit
    refine ⟨_, _, hnext, hw, hpos, hphase.trans (State.inSlice.sliced hs).phase, fun hp => ?_, fun hp => ?_, fun hp hl => ?_, fun hp hl => ?_,
      fun h => (hwithin h).trans (hv.1 .eng (by decide)), fun h h' => hnextSlice h h', fun h h' => hleaves h h' ?_, hall.1⟩
    · obtain ⟨hr, hb⟩ := taskPastRow_goesOn (t := tc) (rows := rows) fun h => hp h.1
      refine ⟨hr, hb, ?_⟩
      show (getUnit z x.1 x.2).placed = _
      rw [hu, if_neg hp]
      exact hplaced
    · show (getUnit z x.1 x.2).placed = _ ∧ (getUnit z x.1 x.2).front = _
      rw [hu, if_pos hp]
      exact ⟨rfl, rfl⟩
    · exact taskPastRow_goesOn (t := tc) (rows := rows) fun h => hl h.2
    · exact taskPastRow_blockDone (t := tc) hp hl
    · rw [hcls', show tc.cls = 1 from hcls]
      decide
  · have hstep : matRow tc sc = .wait := matRow_waits <| hwait.imp (fun h => (charged_climbing ..).trans h) fun ⟨hp, hcs⟩ => by
      obtain ⟨g, hg⟩ := charged_unit s t a.stop 1 cycles
      refine tileIn_none (t := tc) (s := sc) ?_ ((charged_canSwap s t a.stop 1 cycles tc _).trans hcs)
      show (getUnit (s.charged t a.stop 1 cycles) x.1 x.2).placed ≠ _
      rw [hg]
      exact hp
    rw [hstep] at hnext
    have hkeeps := forJob_keeps (ps := [.cnt, .tasks, .tck, .act, .arr]) (j := t.job) (f := fun _ => putTask tc sc) (.refl (s := s))
      fun _ _ => (hcharged.mono (by decide)).step (putTask_keeps ..)
    exact ⟨_, tc, hnext, (findTask_forJob t.job t.id (fun _ => putTask tc sc) s).trans (findTask_putTask sc tc t hfc), rfl, rfl, hkeeps.1⟩

end Sys2Proof.Machine
end

section
/-! SUPPORT. A refetch whose destination's elements are narrower than the source's. -/

namespace Sys2Proof.Machine

/-- A record of Ladle 3 being copied again: two elements of four bytes, 256 bytes apart in the local store, to two elements of
one byte each, the first at the byte before the second element read. -/
def wideRec : PfRec := { refetching with
  td := [tensorWords 1 256 0x180000000000 2 1, tensorWords 0x20 4096 0x1800000000FF 2 1],
  base := [0x180000000000, 0x1800000000FF] }

def wideState : State :=
  { memUp with mem := { cells := [(0x180000000001, 7)] }, ldl := [(3, { recs := [(7, wideRec)] })] }

/-- The copy of the first element writes its four bytes from there on. -/
theorem wideState_refetched : memGet (refetchEffect 3 7 wideState).mem 0x1800000010FF = 7 := by decide

theorem wideRec_apart : refetchApart (recTask 3 wideRec) := by
  have h : ∀ p < 2, ∀ q < 2,
      (movSpan (recTask 3 wideRec) ((recTask 3 wideRec).tensor 0) p).1 + (movSpan (recTask 3 wideRec) ((recTask 3 wideRec).tensor 0) p).2 ≤
        (movSpan (recTask 3 wideRec) ((recTask 3 wideRec).tensor 1) q).1 ∨
      (movSpan (recTask 3 wideRec) ((recTask 3 wideRec).tensor 1) q).1 + (movSpan (recTask 3 wideRec) ((recTask 3 wideRec).tensor 1) q).2 ≤
        (movSpan (recTask 3 wideRec) ((recTask 3 wideRec).tensor 0) p).1 := by decide
  have htotal : movTotal (recTask 3 wideRec) = 2 := by decide
  intro p q hp hq
  rw [htotal] at hp hq
  exact h p hp q hq

/-- Refutes O16: a refetch writes as many bytes of an element as its source has, so where the destination's elements are
narrower it writes past them, over bytes of the source that it copies later. -/
theorem not_groupsDrainsAndParkedTasksGoOn : ¬ Obligations.GroupsDrainsAndParkedTasksGoOn := by
  unfold Obligations.GroupsDrainsAndParkedTasksGoOn
  rintro ⟨-, -, -, -, -, hrefetch⟩
  obtain ⟨t, r, hnext, -, -, -, hmem, -⟩ := hrefetch wideState 3 7 wideRec (by decide) (by decide) (by decide) nofun nofun nofun
    wideRec_apart (by decide) (by decide)
  cases hnext
  have hcopied := hmem (by unfold State.Inv; decide) 0x1800000010FF
  exact absurd (wideState_refetched.symm.trans hcopied) (by decide)

end Sys2Proof.Machine
end

section
/-! SUPPORT. A multicast whose first packet's read takes the source's line out of its cache. -/

namespace Sys2Proof.Machine

/-- A multicast to device 9 of 16 bytes of one line, in two packets: the destination passes a 4 KiB boundary (R261). -/
def twoPackets : Task := { castTask with
  td := [tensorWords 1 4 0 4 1, tensorWords 1 4 0x180000000FF8 4 1], base := [0, 0x180000000FF8],
  grp := [3, 9], members := [{ dev := 9 }] }

/-- The line is cached, its copy in HBM not correctable, and a read of it by its class gives the cached copy up (R222). -/
def onceCached : State := { slicing twoPackets sliceAdm with
  regs := (regKey crm0 0x210, 0xAAAAAAAAAAAAAAAA) :: (slicing twoPackets sliceAdm).regs
  ecc := [(0, 2)], crm := { sets := [(0, [⟨0, false⟩])] } }

/-- The second packet's read is poisoned, and the task ends. -/
theorem onceCached_ends : (findTask (redSlice 2 1 1 4 onceCached) 1).map (·.phase) = some .complete := by decide

theorem onceCached_inSlice : onceCached.inSlice twoPackets sliceAdm 1 4 := by
  unfold State.inSlice
  decide

theorem onceCached_sendsTo : sendsTo onceCached 9 5 2 := by
  unfold sendsTo
  decide

/-- Refutes O23: each packet of the chunk is readable when the granule begins, but the first one's read may leave the next
one's line to be read from HBM, where it is not. -/
theorem not_copiesMoveBytesAndArmsWriteIdentity : ¬ Obligations.CopiesMoveBytesAndArmsWriteIdentity := by
  rintro ⟨-, -, -, -, -, -, -, hcast⟩
  obtain ⟨u, -, hnext, ⟨w, hw, hphase, -⟩, -⟩ := hcast onceCached twoPackets sliceAdm 4 2 8 (.multicast 1 1 4) { dev := 9 }
    (.head _) onceCached_inSlice (by decide) (by decide) (by decide) (by decide) (by decide) (fun h => absurd h (by decide))
    (fun h => absurd h (by decide)) (by decide) (by decide) (by decide) (by decide) (by decide) onceCached_sendsTo
  cases hnext
  have hends := onceCached_ends
  rw [show findTask (redSlice 2 1 1 4 onceCached) 1 = some w from hw] at hends
  exact absurd (hphase.symm.trans (Option.some.inj hends)) (by decide)

end Sys2Proof.Machine
end
